-- ==== Sys2Proof/Word.lean ====
section
/-! DEFINITION. The word types of the block, and the sparse tables that hold everything indexed (registers, memory,
queues, tenants, queue pairs). -/
namespace Sys2Proof

/-- A byte of a structure in memory or on a wire. -/
abbrev Byte := BitVec 8

/-- A 32-bit register or field. -/
abbrev W32 := BitVec 32

/-- A 64-bit word: the unit of the shared queue memory (Table 0-4), and the widest register (R490). -/
abbrev W64 := BitVec 64

/-- A sparse table: key and value pairs. Its canonical form (keys strictly rising, no value equal to what an unlisted key
reads as) is `Machine.twf`, and every table operation keeps it. -/
abbrev Tbl (α : Type) := List (Nat × α)

/-- The poisoned bytes of a byte string: ranges, each an offset and a length (R132, R379). -/
abbrev Marks := List (Nat × Nat)

end Sys2Proof
end

