-- ==== Sys2Proof/Syntax.lean ====
section
/-! DEFINITION. The commands of the block: one constructor of `Instr` for each row of the table of operations and events,
with the operands that come from outside (addresses, values, received bytes, what a sensor or a check found). -/
namespace Sys2Proof

/-- The three straps of Table 2-6, true when jumpered. -/
structure Straps where
  bootsel : Bool := false
  plane : Bool := false
  safe : Bool := false
deriving DecidableEq, Repr

/-- A report to Firefly before it is stamped (Table 21-1, R475). -/
structure Report where
  cls : Nat
  status : Nat := 0
  sev : Nat := 0
  unit : Nat := 0xFF
  tenant : Nat := 0xFF
  count : Nat := 1
  code : Nat := 0
  inst : Nat := 0
  w3 : W64 := 0
  w4 : W64 := 0
  w5 : W64 := 0
  w6 : W64 := 0
  w7 : W64 := 0
deriving DecidableEq, Repr

/-- What a memory controller finds in a block it reads (Table 15-3): clean, corrected, an LPDDR5X tag that passes on the
re-read, or uncorrectable. -/
inductive Finding
  | clean | corrected | tagReread | uncorrectable
deriving DecidableEq, Repr

/-- A delivery path of Table 19-6A: the PF's buffer, MCTP, or the fleet (fabric or Ethernet) from a node. -/
inductive CicPath
  | host | mctp | fleet (node : Nat)
deriving DecidableEq, Repr

/-- A Cicada message (Table 19-6): the header's fields and the body. -/
structure CicMsg where
  now : Bool := false
  format : Nat := 1
  token : Nat := 0
  image : Nat := 0
  index : Nat := 0
  fragOff : Nat := 0
  fragLen : Nat := 0
  plen : Nat := 0
  body : List Byte := []
deriving DecidableEq, Repr

/-- A cell of the fabric, or the header and payload of a transport packet (Tables 7-3 and 9-1): every header field, the
link CRC, the payload bytes, and which of them carry poison. -/
structure Cell where
  ver : Nat := 2
  typ : Nat := 1
  dnode : Nat := 0
  snode : Nat := 0
  plane : Nat := 0
  mc : Bool := false
  mgroup : Nat := 0
  hops : Nat := 0
  defl : Nat := 0
  tc : Nat := 0
  resv : Nat := 0
  qpe : Nat := 0
  csn : Nat := 0
  opc : Nat := 0
  first : Bool := false
  last : Bool := false
  msn : Nat := 0
  offset : Nat := 0
  akey : Nat := 0
  plen : Nat := 0
  crc : BitVec 32 := 0
  payload : List Byte := []
  poison : Marks := []
  stomp : Bool := false
deriving DecidableEq, Repr

/-- What LNS reads of a module through CMIS (R291): its ready state, and a fault, which the OSFP LED shows (R42). -/
structure CmisState where
  ready : Bool
  fault : Bool
deriving DecidableEq, Repr

/-- A link identity block as it is received in training (Table 9-5). -/
structure LinkId where
  versions : Nat := 6
  node : Nat := 0
  plane : Nat := 0
  conn : Nat := 0
  valid : Bool := true
  hold : Bool := false
  reason : Nat := 0
deriving DecidableEq, Repr

/-- A transport cell or packet as it reaches the transport: its path (0 fabric, 1 to 4 a port), the source IP address of a packet,
whether it is a channel's, and the cell. -/
structure Packet where
  port : Nat := 0
  ip : Nat := 0
  chan : Bool := false
  cell : Cell := {}
deriving DecidableEq, Repr

/-- Which source read returns: a cell of a message of a connection (or of its response), or a raw frame of an entry. -/
inductive ReadRef
  | cell (conn msn : Nat) (resp : Bool) (off : Nat)
  | frame (queue idx : Nat)
deriving DecidableEq, Repr

/-- Which PCIe AtomicOp is over: one for a peer's ATOMIC, or a tile's DATOM. -/
inductive AtomicRef
  | peer (conn msn : Nat)
  | tile (tile : Nat)
deriving DecidableEq, Repr

/-- Where a bus request came from, so that its completion finds its way back. -/
inductive BusTag
  | windowRead (fn : Nat)
  | portRead (port : Nat)
  | portPrefetch (port : Nat)
  | ringRead (queue idx : Nat)
  | fragTable (queue idx : Nat)
  | headWrite (queue : Nat)
  | tableWalk (ctx addr : Nat)
  | source (conn msn : Nat) (resp : Bool) (off : Nat)
  | frame (queue idx : Nat)
  | placement (id : Nat)
  | peerFlush (queue idx : Nat)
  | msgFlush (conn msn : Nat)
  | atomicOp (conn msn : Nat)
  | mirror (id : Nat)
  | tileDma (tile id : Nat)
  | tileAtomic (tile : Nat)
  | scarab (group : Nat)
  | cipher (queue idx : Nat)
  | cicada
deriving DecidableEq, Repr

/-- A debug or RMA token (R432, R433): what it names, and the product CA's signature. -/
structure Token where
  serial : W64 := 0
  level : Nat := 0
  nonce : List Byte := []
  sig : List Byte := []
deriving DecidableEq, Repr
/-- A command of the block: one constructor for each row of the table of operations and events. -/
inductive Instr
  /-- STANDBY_POWER_UP (R33): STBY_3V3 enters its range; the standby domain leaves reset and a cold boot with a new election begins. -/
  | standbyPowerUp
  /-- STANDBY_POWER_LOSS (R34): Loss of STBY_3V3 takes the whole card down whatever the 48 V input does. -/
  | standbyPowerLoss
  /-- MG_RESET (R40): MG_RESET_N asserted for at least 10 µs resets both domains and starts a new election. -/
  | mgReset
  /-- RSP_SELF_TEST_DONE (R13): An RSP finishes its standby self-test and asserts its claim on the election bus or stands down. -/
  | rspSelfTestDone (quad atNs : Nat) (pass : Bool) (straps : Straps) (valid0 valid1 : Bool)
  /-- ELECTION_TIMEOUT (R15): No RSP passes self-test within 30 ms and the card presents no function and keeps its lanes idle. -/
  | electionTimeout
  /-- PRIMARY_FAILURE (R16): The primary RSP or PCIe controller fails in service and a fatal fault record is raised. -/
  | primaryFailure (pcie : Bool)
  /-- CROSSING_HANG (R19): A handshake crossing stays full for more than 1 ms and raises a hung-crossing fault record. -/
  | crossingHang (crossing : Nat)
  /-- POWER_SAMPLE (R21): MGT measures the 48 V input power every 100 µs. -/
  | powerSample (watts mv10 ma10 : Nat)
  /-- POWER_EVALUATION (R22): Once per 1 ms average MGT compares power to the cap and takes a stage-1 or stage-2 action. -/
  | powerEvaluation
  /-- POWER_CAP_FAULT (R22): The power stays over cap for 100 ms at stage 2 and a power-class fault record is raised. -/
  | powerCapFault
  /-- POWER_UNDO (R22): The average stays below 97 % of the cap for 10 ms and one capping step is undone, stage 2 first. -/
  | powerUndo
  /-- THERMAL_SAMPLE (R30): MGT reads the junction and coolant sensors every 1 ms and acts on the readings. -/
  | thermalSample (tj0 tj1 tj2 tj3 inlet outlet : Nat)
  /-- INLET_OVERTEMP_TIMEOUT (R30): The coolant inlet stays above 55 °C for 1 s and MGT switches off the main domain. -/
  | inletOvertempTimeout
  /-- UNDERVOLTAGE_TRIP (R31): The 48 V input stays below 42 V for 100 µs and the main domain is switched off. -/
  | undervoltageTrip
  /-- OVERCURRENT_TRIP (R31): The over-current trip switches off the main domain within 5 µs. -/
  | overcurrentTrip
  /-- MAIN_POWER_LOSS (R34): The main domain goes down, lanes go idle, every tenant key is discarded and the standby domain keeps the primary. -/
  | mainPowerLoss
  /-- MAIN_POWER_RETURN (R34): The 48 V input returns and power-up resumes at step 3 of Table 2-3. -/
  | mainPowerReturn
  /-- MAIN_DOMAIN_GOOD (R437): The main domain becomes good; memory-training and SerDes firmware are verified and started and lane training begins. -/
  | mainDomainGood (partsOk : Bool)
  /-- PERST_ASSERT (R36): PERST# asserted holds main-domain logic in reset, idles lanes and discards every tenant key. -/
  | perstAssert
  /-- PERST_DEASSERT (R415): PERST# deasserted reruns boot stages MAIN to RUNNING with the elected primary and booted slot. -/
  | perstDeassert
  /-- MEMORY_TRAINED (R437): All present memory controllers finish training and the boot scrub begins. -/
  | memoryTrained (failed : List Nat)
  /-- BOOT_SCRUB_DONE (R437): The boot scrub ends and the transport, Scarab, router-agent and tile-runtime parts are loaded and self-tested. -/
  | bootScrubDone (partsOk : Bool) (cores : Nat) (badSites : List Nat) (factoryOk userOk : Bool)
  /-- UNITS_READY (R437): Every self-test passes within its spares and the device reaches RUNNING, clearing FAILS. -/
  | unitsReady (rspLink selfTest : Bool)
  /-- BOOT_TIMEOUT (R440): RUNNING is not reached within MGT_BOOT_TMO of main good and the boot fails. -/
  | bootTimeout
  /-- NUMVFS_WRITE (R46): A write of NumVFs takes effect only while VF Enable is clear. -/
  | numvfsWrite (n : Nat)
  /-- VF_ENABLE_SET (R46): Setting VF Enable makes VFs 1 to NumVFs exist. -/
  | vfEnableSet
  /-- VF_ENABLE_CLEAR (R46): Clearing VF Enable tears down the tenant of every non-EMPTY VF slot. -/
  | vfEnableClear
  /-- VF_FLR (R47): A function-level reset of a VF moves its tenant to QUIESCING and starts teardown. -/
  | vfFlr (vf : Nat)
  /-- PF_FLR (R47): A function-level reset of the PF clears VF Enable and tears down every tenant. -/
  | pfFlr
  /-- WINDOW_WRITE (R50): A write to the BAR2 window is translated in HIF_WIN_CTX and checked at memory, or discarded on failure. -/
  | windowWrite (fn off : Nat) (bytes : List Byte)
  /-- WINDOW_READ (R51): A read of the BAR2 window returns memory, all 0xFF on failure, or a poisoned completion. -/
  | windowRead (fn off len : Nat) (bus : Option (List Byte))
  /-- WIN_CTX_WRITE (R51): HIF_WIN_CTX accepts only a context of the function's tenant, else it is ignored and BAD_CTX set. -/
  | winCtxWrite (fn : Nat) (value : W64)
  /-- DATA_PORT_WRITE (R54): A write to a data-port aperture reaches HIF_DPn_ADDR plus offset in HIF_DPn_CTX. -/
  | dataPortWrite (port off : Nat) (bytes : List Byte)
  /-- DATA_PORT_READ (R57): A read of a data-port aperture is served from the prefetch buffer or waits for memory, prefetching up to 8 KiB. -/
  | dataPortRead (port off len : Nat) (bus : Option (List Byte))
  /-- DATA_PORT_CTX_WRITE (R54): HIF_DPn_CTX accepts only a context of the tenant, else BAD_CTX is set. -/
  | dataPortCtxWrite (port : Nat) (value : W64)
  /-- DATA_PORT_COMMIT (R55): A write of L to HIF_DPn_COMMIT advances HIF_DPn_ADDR by L or sets BAD_COMMIT. -/
  | dataPortCommit (port : Nat) (value : W64)
  /-- PREFETCH_FILL (R57): Prefetched data for a data port returns from memory into the port's buffer. -/
  | prefetchFill (port epoch off len : Nat) (bus : Option (List Byte))
  /-- DOORBELL (R58): An 8- or 4-byte doorbell write carries a TAIL value to HIF, dropped and counted when the queue cannot take it. -/
  | doorbell (fn q off len : Nat) (value : W64)
  /-- INLINE_SLOT_WRITE (R61): A write to an inline slot marks its bytes, and the slot is accepted when full with the expected SEQ. -/
  | inlineSlotWrite (fn q off : Nat) (bytes : List Byte)
  /-- INLINE_WAIT_RELEASE (R90): An inline command waiting on a full ring proceeds when HEAD advances. -/
  | inlineWaitRelease (queue : Nat)
  /-- MSIX_UNMASK (R65): Unmasking a vector with its pending bit set sends its message. -/
  | msixUnmask (fn vec : Nat)
  /-- ABI_AGREE (R67): A write to HIF_ABI_AGREED sets an offered version or reads back 0, ignored unless all queues are DISABLED. -/
  | abiAgree (fn version : Nat)
  /-- WQM_DOORBELL_TAKE (R79): WQM takes a merged doorbell, accepts or drops it by the TAIL and HEAD checks, and starts a fetch round. -/
  | wqmDoorbellTake (queue : Nat)
  /-- RING_READ_COMPLETE (R86): A ring read returns and each entry is taken as work, held speculatively or discarded by its OWN bit. -/
  | ringReadComplete (queue idx : Nat) (bus : Option (List Byte))
  /-- REFETCH_TIMER (R86): 1 µs after a discard WQM fetches an unowned entry below TAIL again, giving up after eight fetches. -/
  | refetchTimer (queue idx : Nat)
  /-- FRAGMENT_TABLE_READ (R92): The fragment table of an indirect entry returns and every fragment is pre-translated and checked. -/
  | fragmentTableRead (queue idx : Nat) (bus : Option (List Byte))
  /-- ENTRY_START (R146): An entry starts, is re-translated if its epoch is stale, and is checked in the order of R131. -/
  | entryStart (queue idx : Nat)
  /-- ENTRY_FINISH (R80): An entry finishes; its header word is written back and HEAD advances over finished entries. -/
  | entryFinish (queue idx : Nat)
  /-- HEAD_WRITE_COMPLETE (R94): A head write completes and merged advances are published in the next write, with any interrupt. -/
  | headWriteComplete (queue : Nat)
  /-- QUEUE_IRQ_TIMER (R95): IRQ_TIME µs pass since the first unannounced entry finished and the vector is sent. -/
  | queueIrqTimer (queue : Nat)
  /-- QUEUE_SELECT (R97): A write to WQM_QSEL selects a queue and clears a held not-granted enable result. -/
  | queueSelect (fn : Nat) (value : W64)
  /-- QUEUE_ENABLE (R97): ENABLE written 1 checks the queue and moves it to ACTIVE with indices reset, or sets ENABLE_ERR. -/
  | queueEnable (fn : Nat) (value : W64)
  /-- QUEUE_DISABLE (R96): ENABLE written 0 moves an ACTIVE queue to DRAINING or an ERROR queue to DISABLED when all entries are finished. -/
  | queueDisable (fn : Nat) (value : W64)
  /-- QUEUE_FLUSH (R96): FLUSH written 1 in DRAINING completes unstarted entries with FLUSHED. -/
  | queueFlush (fn : Nat) (value : W64)
  /-- QUEUE_CONFIG_WRITE (R96): A write to a queue configuration register or field is accepted only in DISABLED, else CFG_REFUSED is set. -/
  | queueConfigWrite (fn off : Nat) (value : W64)
  /-- WRITE (R105): WRITE places LENGTH bytes from LADDR at a remote region offset. -/
  | vWrite (queue idx : Nat)
  /-- READ (R127): READ fetches a remote region range into local memory. -/
  | vRead (queue idx : Nat)
  /-- SEND (R108): SEND delivers local data into the next receive entry of the target, or transmits a raw frame. -/
  | vSend (queue idx : Nat)
  /-- ATOMIC (R111): ATOMIC performs an 8-byte read-modify-write at a remote region offset and returns the old value. -/
  | vAtomic (queue idx : Nat)
  /-- REDUCE_WRITE (R114): REDUCE-WRITE combines local elements into a remote region element by element. -/
  | vReduceWrite (queue idx : Nat)
  /-- GATHER_REDUCE (R115): GATHER-REDUCE has the target gather indexed rows, reduce them and return one row. -/
  | vGatherReduce (queue idx : Nat)
  /-- INVOKE (R116): INVOKE starts the kernel bound to the key on the target and awaits its reply. -/
  | vInvoke (queue idx : Nat)
  /-- INVOKE_TIMEOUT (R117): TIMEOUT ms after acknowledgement without a placed reply, the INVOKE completes with KERNEL_FAULT. -/
  | invokeTimeout (queue idx : Nat)
  /-- COLLECTIVE (R118): COLLECTIVE hands a group, buffers and codes to Scarab. -/
  | vCollective (queue idx : Nat)
  /-- CRYPT (R119): CRYPT encrypts or decrypts a local buffer with a key slot in the selected mode. -/
  | vCrypt (queue idx : Nat)
  /-- INVALIDATE (R148): INVALIDATE advances the epoch, purges cached translations and waits for older transfers to drain. -/
  | vInvalidate (queue idx : Nat)
  /-- INVALIDATE_DRAIN_DONE (R148): Every transfer of an earlier epoch has completed or aborted and the INVALIDATE finishes. -/
  | invalidateDrainDone (queue idx : Nat)
  /-- FENCE (R126): FENCE waits for earlier work of the queue or, with SCOPE 1, of the function. -/
  | vFence (queue idx : Nat)
  /-- REGISTER (R121): REGISTER creates a region, advances its generation and writes the AKEY into the entry. -/
  | vRegister (queue idx : Nat)
  /-- REVOKE (R122): REVOKE moves the region to REVOKING and finishes when ADMITTED reaches zero. -/
  | vRevoke (queue idx : Nat)
  /-- TENANT_ACTIVATE (R123): TENANT ACTIVATE draws and loads a tenant key set, makes its mailboxes VALID and zeroes its measurement. -/
  | tenantActivate (queue idx : Nat)
  /-- TENANT_TEARDOWN (R430): TENANT TEARDOWN quiesces the tenant and starts teardown, finishing when its frames are free. -/
  | tenantTeardown (queue idx : Nat)
  /-- TENANT_QUERY (R123): TENANT QUERY writes the tenant's state, mode and last teardown status into the entry. -/
  | tenantQuery (queue idx : Nat)
  /-- RECV (R107): A RECV entry posts a receive buffer that arriving messages consume. -/
  | recvPost (queue idx : Nat)
  /-- CONTEXT_ROOT_WRITE (R136): A write to ATU_CROOT is accepted only with VALID clear and a non-reserved ROOT_LOC. -/
  | contextRootWrite (fn : Nat) (value : W64)
  /-- CONTEXT_VALID_SET (R137): Setting VALID enables translation, refused for a sealed tenant with a host-bus root. -/
  | contextValidSet (fn : Nat) (value : W64)
  /-- CONTEXT_VALID_CLEAR (R136): Clearing VALID advances the epoch, purges cached translations and fails later translations. -/
  | contextValidClear (fn : Nat) (value : W64)
  /-- FABRIC_EN_WRITE (R143): The PF sets or clears FABRIC_EN of a context; a VF write is ignored. -/
  | fabricEnWrite (fn : Nat) (value : W64)
  /-- TABLE_WALK_COMPLETE (R140): A page-table entry read returns and the walk continues, yields a leaf or fails. -/
  | tableWalkComplete (ctx addr : Nat) (word : Option W64)
  /-- REGION_CACHE_TIMEOUT (R158): An admission waiting over 10 µs for a region cache entry drops the cell as not received. -/
  | regionCacheTimeout
  /-- QP_CONFIG_WRITE (R175): A write to TPE_QCFG, TPE_QKEY or TPE_QTWIN takes effect only in RESET. -/
  | qpConfigWrite (fn off : Nat) (value : W64)
  /-- QP_CONNECT (R170): CONNECT set in RESET sends REQs every 100 µs, or enters STANDBY when STANDBY is set. -/
  | qpConnect (fn : Nat) (value : W64)
  /-- QP_CLOSE (R175): CLOSE set in READY stops new entries, lets started ones finish and sends CLOSE. -/
  | qpClose (fn : Nat) (value : W64)
  /-- QP_RESET (R175): RESET set in ERROR or HANDED_OVER clears the QP context. -/
  | qpReset (fn : Nat) (value : W64)
  /-- CONNECT_RETRY_TIMER (R170): Every 100 µs without a REQ or ACC the device sends another REQ. -/
  | connectRetryTimer (conn : Nat)
  /-- CONNECT_TIMEOUT (R175): 1 s in CONNECTING without REQ or ACC puts the QP in ERROR with PEER_UNREACHABLE. -/
  | connectTimeout (conn : Nat)
  /-- CONNECT_REQ_RECEIVE (R173): A CONNECT REQ is checked and answered with ACC or REJ, agreeing a version and taking the opening grant. -/
  | connectReqReceive (packet : Packet)
  /-- CONNECT_ACC_RECEIVE (R170): A CONNECT ACC completes the connection and the QP becomes READY. -/
  | connectAccReceive (packet : Packet)
  /-- CONNECT_REJ_RECEIVE (R175): A REJ puts the QP in ERROR with the REJ status. -/
  | connectRejReceive (packet : Packet)
  /-- CONNECT_CLOSE_RECEIVE (R175): A CLOSE received in READY completes unfinished entries with CONTEXT_GONE and sends CLOSE_ACK. -/
  | connectCloseReceive (packet : Packet)
  /-- CLOSE_ACK_RECEIVE (R175): A CLOSE_ACK in CLOSING clears the context and returns the QP to RESET. -/
  | closeAckReceive (packet : Packet)
  /-- CLOSING_TIMEOUT (R175): 1 ms in CLOSING without CLOSE_ACK clears the context. -/
  | closingTimeout (conn : Nat)
  /-- CHANNEL_IDLE_TIMEOUT (R165): A channel with no traffic for 10 ms is closed. -/
  | channelIdleTimeout (conn : Nat)
  /-- CONTEXT_FETCH_COMPLETE (R166): A QP or channel context fetched from HBM3E arrives in the context cache. -/
  | contextFetchComplete (conn : Nat)
  /-- CORE_SLICE_END (R168): A core ends a service slice after 64 cells or 500 ns and switches context. -/
  | coreSliceEnd (core : Nat)
  /-- TRANSPORT_CORE_FAILURE (R169): A failed core is remapped to a spare, or its QPs and channels enter ERROR when none is left. -/
  | transportCoreFailure (core : Nat)
  /-- SOURCE_READ_COMPLETE (R106): A source read returns and a cell is built and handed to the router. -/
  | sourceReadComplete (read : ReadRef) (bus : Option (List Byte))
  /-- HEADS_RECEIVE (R178): A HEADS cell arrives and each head is checked for duplicates and admitted or refused. -/
  | headsReceive (packet : Packet)
  /-- DATA_CELL_RECEIVE (R181): A data cell arrives and is placed by offset, held in the early store, or dropped. -/
  | dataCellReceive (packet : Packet)
  /-- EARLY_CELL_TIMEOUT (R180): An early cell that waits 8 µs for its head is dropped as not received. -/
  | earlyCellTimeout (conn csn : Nat)
  /-- CELL_PLACEMENT (R183): A placement becomes visible and the message completes when its coverage window is full. -/
  | cellPlacement (conn msn off : Nat) (resp : Bool) (bus : Option (List Byte))
  /-- ORDERED_HEAD_EXECUTE (R184): A READ, ATOMIC, GATHER or INVOKE head executes once DONE_MSN reaches its MSN. -/
  | orderedHeadExecute (conn msn : Nat) (bus : Option (List Byte))
  /-- ABORT_HEAD_RECEIVE (R185): An ABORT head ends its message at the receiver and frees its tracker. -/
  | abortHeadReceive (packet : Packet)
  /-- ACK_DELAY_TIMER (R187): 2 µs after an uncovered arrival the receiver sends an ACK. -/
  | ackDelayTimer (conn : Nat)
  /-- ACK_RECEIVE (R187): An ACK frees CSN records, completes covered entries and may trigger fast retransmission. -/
  | ackReceive (packet : Packet)
  /-- RTO_EXPIRY (R188): RTO passes for an unfreed CSN record, which is sent again under a new CSN. -/
  | rtoExpiry (conn csn : Nat)
  /-- RNR_WAIT_TIMER (R192): After an RNR record the sender waits and resends the refused message and those after it. -/
  | rnrWaitTimer (conn : Nat)
  /-- RESPONSE_CELL_RECEIVE (R193): A READ, ATOMIC or GATHER response cell is placed through the requester's entry. -/
  | responseCellReceive (packet : Packet)
  /-- REPLY_RECEIVE (R117): A REPLY cell is placed at REPLY_ADDR, or dropped as late. -/
  | replyReceive (packet : Packet)
  /-- ATOMICOP_COMPLETE (R193): A PCIe AtomicOp on a host or peer page completes or fails and the result enters the response cache. -/
  | atomicopComplete (ref : AtomicRef) (result : Option W64)
  /-- RESPONSE_CACHE_EXPIRY (R194): A response-cache entry is freed after TPE_RC_HOLD ms. -/
  | responseCacheExpiry (node conn msn : Nat)
  /-- FABRIC_ACCESS_RECEIVE (R144): An FWRITE or FREAD head is admitted only to a SHARED frame of the requesting slot. -/
  | fabricAccessReceive (packet : Packet)
  /-- MIRROR_WRITE_TIMER (R198): Every 64 µs the card writes changed mirror records and its heartbeat to the partner's table. -/
  | mirrorWriteTimer
  /-- MIRROR_FLUSH_COMPLETE (R199): The flush of a mirrored response-cache entry completes and the response or final record is sent. -/
  | mirrorFlushComplete (conn msn : Nat)
  /-- HEARTBEAT_TIMEOUT (R200): Three consecutive missing heartbeats start a takeover of all STANDBY QPs. -/
  | heartbeatTimeout (heads : List (Nat × Nat))
  /-- HANDOFF_RECORD_SEEN (R200): A partner record carrying HANDOFF starts a takeover of the STANDBY QP. -/
  | handoffRecordSeen (conn head : Nat)
  /-- TAKEN_RECORD_SEEN (R201): A READY failover QP reads TAKEN from its partner and moves to HANDED_OVER. -/
  | takenRecordSeen (conn : Nat)
  /-- PEER_FLUSH_COMPLETE (R72): The zero-length flush reads complete and the head index may be published or the ACK sent. -/
  | peerFlushComplete (tag : BusTag) (ok : Bool)
  /-- CREDIT_GRANT_RECEIVE (R207): A GRANT record is accepted by GSEQ order and raises the sender's balance. -/
  | creditGrantReceive (conn count lifetime gseq : Nat)
  /-- CREDIT_DEMAND_RECEIVE (R208): A DEMAND record enters or replaces the sender's entry on the receiver's demand list. -/
  | creditDemandReceive (conn backlog : Nat)
  /-- GRANT_ISSUE (R212): The receiver grants credit to demanding senders when pool and rate bucket allow. -/
  | grantIssue (path : Nat)
  /-- GRANT_EXPIRY (R207): Credit of a grant expires unspent LIFETIME µs after receipt. -/
  | grantExpiry (conn gseq : Nat)
  /-- GRANT_RECLAIM_TIMER (R209): LIFETIME plus GUARD after issue the receiver reclaims what remains of a grant. -/
  | grantReclaimTimer (conn gseq : Nat)
  /-- DEMAND_REPEAT_TIMER (R208): Once per RTO_MIN without a grant the sender repeats its DEMAND. -/
  | demandRepeatTimer (conn : Nat)
  /-- CREDIT_TIMEOUT (R214): An entry that waits CCS_CRED_TMO ms for credit before its head completes with CREDIT_TIMEOUT. -/
  | creditTimeout (conn msn : Nat)
  /-- SCHEDULER_PICK (R216): The egress scheduler picks a ready class and QP or channel and releases a service slice. -/
  | schedulerPick (egress : Nat)
  /-- SHAPER_REFILL (R218): Every 100 ns each class's shaper and committed bucket are refilled. -/
  | shaperRefill
  /-- CAPACITY_FACTOR_APPLY (R222): After an ECAP change the device scales committed rates by f and sends COMMIT_DEGRADED events. -/
  | capacityFactorApply (egress : Nat)
  /-- ROUTER_PASS (R232): A cell header arrives and the router checks it and chooses a minimal output, a deflection or a drop. -/
  | routerPass (link : Nat) (cell : Cell)
  /-- CELL_EJECT (R238): A cell addressed here is handed on after its tail arrives with a good CRC. -/
  | cellEject (chan : Bool)
  /-- CELL_INJECT (R237): A local cell takes a minimal output with 2 free slots, or waits. -/
  | cellInject
  /-- MC_HOLD_TIMEOUT (R242): A copy waiting 2 µs in the multicast hold is dropped. -/
  | mcHoldTimeout
  /-- LINK_ENABLE (R247): DISABLE cleared on an OFF link with dimension above 1 starts training. -/
  | linkEnable (link : Nat)
  /-- LINK_DISABLE (R247): DISABLE set takes the link to OFF with its transmitter idle. -/
  | linkDisable (link : Nat)
  /-- LINK_RETRAIN (R247): RETRAIN written on a HELD link starts training. -/
  | linkRetrain (link : Nat)
  /-- TRAINING_WORD_RECEIVE (R246): A received identity block is checked and the link goes UP or is held with a reason. -/
  | trainingWordReceive (link : Nat) (id : LinkId) (failed : List Nat)
  /-- TRAINING_TIMEOUT (R247): 100 ms without a training word restarts training. -/
  | trainingTimeout (link : Nat)
  /-- LOSS_OF_SIGNAL (R247): Loss of signal or FEC lock on an UP link marks it dead and takes it DOWN. -/
  | lossOfSignal (link : Nat) (lock : Bool)
  /-- NO_BLOCK_TIMEOUT (R246): 1 µs without a valid slot marks the link dead with reason NO_BLOCK. -/
  | noBlockTimeout (link : Nat)
  /-- FEC_RATE_EXCEEDED (R246): More than 16 uncorrectable codewords within 1 µs takes the link DOWN. -/
  | fecRateExceeded (link words : Nat)
  /-- LINK_DOWN_TIMER (R247): 10 µs after DOWN training restarts, or a third fall in 1 s holds the link for FLAP. -/
  | linkDownTimer (link : Nat)
  /-- LINK_HOLD_EXPIRY (R247): A FLAP or other hold expires and training starts. -/
  | linkHoldExpiry (link : Nat)
  /-- NOTICE_FALLBACK_TIMER (R251): 50 µs after its change without a notice from the lower end, the higher end floods its own. -/
  | noticeFallbackTimer (conn : Nat)
  /-- NOTICE_RECEIVE (R253): A first-seen notice is flooded, passed to Firefly and transport, and updates the cut-connector mask. -/
  | noticeReceive (link : Nat) (cell : Cell)
  /-- FRAME_RECEIVE (R267): A received frame is consumed as PFC, sent to the transport, or steered to a receive queue or dropped. -/
  | frameReceive (port : Nat) (frame : List Byte) (pcs : Bool) (fill : Nat) (chan : Bool)
  /-- PFC_PAUSE_EXPIRY (R275): The pause quanta of a priority run out and its classes become ready again. -/
  | pfcPauseExpiry (port prio : Nat)
  /-- PFC_REFRESH_TIMER (R274): Every half quanta time above LOW the port sends the PFC frame again. -/
  | pfcRefreshTimer (port prio fill : Nat)
  /-- FRAME_TRANSMIT_DONE (R271): The last byte of a raw frame leaves the MAC and its entry finishes. -/
  | frameTransmitDone (port queue idx : Nat)
  /-- PORT_FAULT (R276): A PCS fault clears UP, sets ECAP 0 and applies f = 0. -/
  | portFault (port : Nat) (near far : Bool)
  /-- PORT_UP (R276): A port comes back up and delivery resumes. -/
  | portUp (port skew : Nat)
  /-- LANE_FAILURE (R287): A receiver fails an active lane, sends LANE_FAIL and restripes the link to one lane. -/
  | laneFailure (lane : Nat) (los : Bool)
  /-- LANE_DEGRADED (R282): A lane exceeds DEGR corrected symbols in 1 ms and goes to the head of rotation. -/
  | laneDegraded (lane symbols : Nat)
  /-- ONE_LANE_TIMER (R287): One-lane operation lasting over 200 µs is reported to FRT as half rate. -/
  | oneLaneTimer (link : Nat)
  /-- ROTATION_STEP_TIMER (R284): Every STEP the lower-ID end starts a rotation of the next position. -/
  | rotationStepTimer (conn : Nat)
  /-- ROT_REQ (R285): The lower-ID end asks to rotate the named position. -/
  | rotReq (conn pos : Nat)
  /-- ROT_ACK (R285): The peer agrees and both transmitters copy the lane onto the spare. -/
  | rotAck (conn pos : Nat)
  /-- MATCH (R285): A MATCH message reports the receiver has matched the copy. -/
  | laneMatch (conn marker : Nat)
  /-- MATCH_ACHIEVED (R285): The spare agrees with the lane over 16 marker periods, or a fourth restart aborts. -/
  | matchAchieved (conn marker : Nat) (agreed : Bool)
  /-- SWITCH (R285): SWITCH names a marker at which both receivers switch. -/
  | laneSwitch (conn marker : Nat)
  /-- SWITCH_MARKER (R285): At the named marker both receivers take the position from the other path. -/
  | switchMarker (conn : Nat)
  /-- BACK (R285): BACK starts copying back to the calibrated lane. -/
  | laneBack (conn pos : Nat)
  /-- LANE_FAIL (R287): A LANE_FAIL message makes both ends restripe onto the surviving lane. -/
  | laneFailMsg (conn pos : Nat)
  /-- SPARE_IN (R287): SPARE_IN brings the spare permanently into the failed position. -/
  | spareIn (conn pos : Nat)
  /-- ROTATION_ABORT (R288): ABORT abandons the current rotation step. -/
  | rotationAbort (conn : Nat)
  /-- CALIBRATION_DONE (R285): The freed lane converges and records its margin. -/
  | calibrationDone (conn height width : Nat) (degraded : Bool)
  /-- CALIBRATION_TIMEOUT (R286): A lane not converged within CAL_MAX becomes FAILED. -/
  | calibrationTimeout (conn : Nat)
  /-- RECAL (R292): RECAL makes the lane the next to rotate. -/
  | laneRecal (lane : Nat)
  /-- FORCE_FAIL (R287): FORCE_FAIL fails the lane as a receiver failure would. -/
  | laneForceFail (lane : Nat)
  /-- RESTORE (R289): RESTORE tests a failed lane through switch-back. -/
  | laneRestore (lane : Nat) (pass : Bool)
  /-- MODULE_INSERT (R291): An inserted OSFP module is read and moved to high power or refused. -/
  | moduleInsert (cage revision power : Nat)
  /-- MODULE_REMOVE (R291): An OSFP module is removed while the card runs. -/
  | moduleRemove (cage : Nat)
  /-- MODULE_INTERRUPT (R291): LNS reads a module interrupt through CMIS. -/
  | moduleInterrupt (cage : Nat) (ready : CmisState)
  /-- COLLECTIVE_START (R305): A COLLECTIVE with a free instance and idle group is checked and chunks begin flowing. -/
  | collectiveStart (queue idx : Nat) (bus : Option (List Byte))
  /-- MEMBER_LIST_READ (R299): Scarab reads the member list at the first COLLECTIVE after a commit. -/
  | memberListRead (queue idx : Nat)
  /-- CHUNK_SEND (R304): A sender writes a chunk to a receiver when the receiver's release allows its SEQ. -/
  | chunkSend (group level : Nat) (down : Bool) (bus : Option (List Byte))
  /-- CHUNK_RECEIVE (R314): A complete chunk is CRC-checked and consumed, held, dropped as stale or aborts on mismatch. -/
  | chunkReceive (group level peer slot : Nat) (bus : Option (List Byte))
  /-- RELEASE_WORD_RECEIVE (R302): A release word updates CONSUMED, requests repair, or carries an ABORT. -/
  | releaseWordReceive (group level peer : Nat)
  /-- MC_CELL_RECEIVE (R311): A multicast Scarab cell is placed by OFFSET in its IN slot without acknowledgement. -/
  | mcCellReceive (packet : Packet)
  /-- REPAIR_TIMEOUT (R313): SCB_REPAIR_TMO µs without progress from a root sends a repair request. -/
  | repairTimeout (group level peer : Nat)
  /-- COLLECTIVE_TIMEOUT (R316): COLL_TMO ms without any chunk sent or consumed aborts the collective. -/
  | collectiveTimeout (group : Nat)
  /-- INVOKE_RECORD_WRITE (R331): When the argument has arrived the dispatcher writes the invocation record into the reserved channel space. -/
  | invokeRecordWrite (conn msn : Nat)
  /-- TILE_START (R334): An IDLE tile with a record at the head of CH pops the header into g1–g4 and starts at ENTRY. -/
  | tileStart (tile ch : Nat)
  /-- KERNEL_LIMIT (R338): A tile reaches LIMIT and the invocation is stopped with KERNEL_FAULT. -/
  | kernelLimit (tile : Nat)
  /-- INVOCATION_END (R337): Every tile has ended and the outcome reached the requester, freeing the quota slot and record. -/
  | invocationEnd (handle : Nat)
  /-- TILE_FAILURE (R323): A tile failing in service is stopped within 1 µs and remapped or made ABSENT. -/
  | tileFailure (tile : Nat)
  /-- TILE_REMAP_DONE (R323): TGD binds the logical tile to a spare site, which enters CLEARING. -/
  | tileRemapDone (tile : Nat)
  /-- TILE_CLEAR_DONE (R326): Termite finishes clearing a tile and the RSP hands its frames to the owner. -/
  | tileClearDone (tile : Nat)
  /-- NOP (R348): NOP has no effect. -/
  | tNop (tile : Nat)
  /-- END (R365): END waits for queues and tags and ends the invocation on this tile. -/
  | tEnd (tile : Nat)
  /-- BR (R348): BR branches by a signed instruction offset. -/
  | tBr (tile : Nat)
  /-- BRL (R348): BRL saves the return address and branches. -/
  | tBrl (tile : Nat)
  /-- JR (R348): JR jumps to a register address, trapping ALIGN if misaligned. -/
  | tJr (tile : Nat)
  /-- TRAP (R367): TRAP traps SOFT with its immediate. -/
  | tTrap (tile : Nat)
  /-- CSRR (R366): CSRR reads a csr. -/
  | tCsrr (tile : Nat)
  /-- CSRW (R366): CSRW writes a csr, trapping on an RO or unknown csr. -/
  | tCsrw (tile : Nat)
  /-- WAITT (R356): WAITT waits until no operation is outstanding on the named tags. -/
  | tWaitt (tile : Nat)
  /-- WAITC (R364): WAITC waits until a named channel holds a readable word. -/
  | tWaitc (tile : Nat)
  /-- ADD (R348): ADD adds two registers modulo 2^64. -/
  | tAdd (tile : Nat)
  /-- SUB (R348): SUB subtracts two registers modulo 2^64. -/
  | tSub (tile : Nat)
  /-- MUL (R348): MUL gives the low 64 bits of a product. -/
  | tMul (tile : Nat)
  /-- MULHU (R348): MULHU gives the high 64 bits of an unsigned product. -/
  | tMulhu (tile : Nat)
  /-- AND (R348): AND is a bitwise and. -/
  | tAnd (tile : Nat)
  /-- OR (R348): OR is a bitwise or. -/
  | tOr (tile : Nat)
  /-- XOR (R348): XOR is a bitwise exclusive or. -/
  | tXor (tile : Nat)
  /-- SHL (R348): SHL shifts left. -/
  | tShl (tile : Nat)
  /-- SHR (R348): SHR shifts right logically. -/
  | tShr (tile : Nat)
  /-- SRA (R348): SRA shifts right arithmetically. -/
  | tSra (tile : Nat)
  /-- MINS (R348): MINS gives the signed minimum. -/
  | tMins (tile : Nat)
  /-- MAXS (R348): MAXS gives the signed maximum. -/
  | tMaxs (tile : Nat)
  /-- MINU (R348): MINU gives the unsigned minimum. -/
  | tMinu (tile : Nat)
  /-- MAXU (R348): MAXU gives the unsigned maximum. -/
  | tMaxu (tile : Nat)
  /-- DIVU (R348): DIVU gives the unsigned quotient, all ones for division by 0. -/
  | tDivu (tile : Nat)
  /-- REMU (R348): REMU gives the unsigned remainder, a for division by 0. -/
  | tRemu (tile : Nat)
  /-- ADDI (R348): ADDI adds an immediate. -/
  | tAddi (tile : Nat)
  /-- SUBI (R348): The immediate form of SUB. -/
  | tSubi (tile : Nat)
  /-- MULI (R348): The immediate form of MUL. -/
  | tMuli (tile : Nat)
  /-- MULHUI (R348): The immediate form of MULHU. -/
  | tMulhui (tile : Nat)
  /-- ANDI (R348): The immediate form of AND. -/
  | tAndi (tile : Nat)
  /-- ORI (R348): The immediate form of OR. -/
  | tOri (tile : Nat)
  /-- XORI (R348): The immediate form of XOR. -/
  | tXori (tile : Nat)
  /-- SHLI (R348): The immediate form of SHL. -/
  | tShli (tile : Nat)
  /-- SHRI (R348): The immediate form of SHR. -/
  | tShri (tile : Nat)
  /-- SRAI (R348): The immediate form of SRA. -/
  | tSrai (tile : Nat)
  /-- MINSI (R348): The immediate form of MINS. -/
  | tMinsi (tile : Nat)
  /-- MAXSI (R348): The immediate form of MAXS. -/
  | tMaxsi (tile : Nat)
  /-- MINUI (R348): The immediate form of MINU. -/
  | tMinui (tile : Nat)
  /-- MAXUI (R348): The immediate form of MAXU. -/
  | tMaxui (tile : Nat)
  /-- DIVUI (R348): The immediate form of DIVU. -/
  | tDivui (tile : Nat)
  /-- REMUI (R348): The immediate form of REMU. -/
  | tRemui (tile : Nat)
  /-- MOVI (R348): MOVI loads a sign-extended immediate. -/
  | tMovi (tile : Nat)
  /-- MOVHI (R348): MOVHI sets the high 32 bits of a register. -/
  | tMovhi (tile : Nat)
  /-- CMP (R348): CMP sets a predicate from a register comparison. -/
  | tCmp (tile : Nat)
  /-- CMPI (R348): CMPI sets a predicate from an immediate comparison. -/
  | tCmpi (tile : Nat)
  /-- PLOG (R348): PLOG combines two predicates. -/
  | tPlog (tile : Nat)
  /-- LD8U (R349): LD8U loads a zero-extended byte from tile memory. -/
  | tLd8u (tile : Nat)
  /-- LD16U (R349): LD16U loads a zero-extended 16-bit value. -/
  | tLd16u (tile : Nat)
  /-- LD32U (R349): LD32U loads a zero-extended 32-bit value. -/
  | tLd32u (tile : Nat)
  /-- LD64 (R349): LD64 loads a 64-bit value. -/
  | tLd64 (tile : Nat)
  /-- LD32S (R349): LD32S loads a sign-extended 32-bit value. -/
  | tLd32s (tile : Nat)
  /-- ST8 (R349): ST8 stores a byte. -/
  | tSt8 (tile : Nat)
  /-- ST16 (R349): ST16 stores 16 bits. -/
  | tSt16 (tile : Nat)
  /-- ST32 (R349): ST32 stores 32 bits. -/
  | tSt32 (tile : Nat)
  /-- ST64 (R347): ST64 stores 64 bits, emptying the fetch buffer when it hits the held block. -/
  | tSt64 (tile : Nat)
  /-- VLD (R349): VLD loads 512 bytes into a vector register. -/
  | tVld (tile : Nat)
  /-- VST (R349): VST stores a vector register as 512 bytes. -/
  | tVst (tile : Nat)
  /-- VLDH (R348): VLDH loads 128 BF16 or FP16 values widened exactly. -/
  | tVldh (tile : Nat)
  /-- VSTH (R348): VSTH stores 128 values narrowed to BF16 or FP16. -/
  | tVsth (tile : Nat)
  /-- VLDMX (R351): VLDMX decodes 128 MX elements with their block scales. -/
  | tVldmx (tile : Nat)
  /-- VSTMX (R351): VSTMX encodes 128 lanes into MX elements and scales. -/
  | tVstmx (tile : Nat)
  /-- VADD (R350): VADD adds lane by lane. -/
  | tVadd (tile : Nat)
  /-- VSUB (R350): VSUB subtracts lane by lane. -/
  | tVsub (tile : Nat)
  /-- VMUL (R350): VMUL multiplies lane by lane. -/
  | tVmul (tile : Nat)
  /-- VFMA (R350): VFMA fuses multiply and add with one rounding. -/
  | tVfma (tile : Nat)
  /-- VMAX (R350): VMAX takes the lane maximum under Table 12-1. -/
  | tVmax (tile : Nat)
  /-- VMIN (R350): VMIN takes the lane minimum under Table 12-1. -/
  | tVmin (tile : Nat)
  /-- VEXP2 (R350): VEXP2 computes 2^x per lane. -/
  | tVexp2 (tile : Nat)
  /-- VLOG2 (R350): VLOG2 computes log2 x per lane. -/
  | tVlog2 (tile : Nat)
  /-- VRCP (R350): VRCP computes 1/x per lane. -/
  | tVrcp (tile : Nat)
  /-- VRSQ (R350): VRSQ computes 1/√x per lane. -/
  | tVrsq (tile : Nat)
  /-- VRED (R350): VRED reduces a vector in a fixed tree into a scalar. -/
  | tVred (tile : Nat)
  /-- VINT (R348): VINT performs a 32-bit integer lane operation. -/
  | tVint (tile : Nat)
  /-- VCMP (R348): VCMP sets each lane to all ones or 0. -/
  | tVcmp (tile : Nat)
  /-- VSEL (R348): VSEL selects lanes by a mask vector. -/
  | tVsel (tile : Nat)
  /-- VBCAST (R348): VBCAST broadcasts a scalar to every lane. -/
  | tVbcast (tile : Nat)
  /-- VEXT (R348): VEXT extracts one lane into a scalar. -/
  | tVext (tile : Nat)
  /-- VINS (R348): VINS inserts a scalar into one lane. -/
  | tVins (tile : Nat)
  /-- VCVT (R348): VCVT converts between FP32 and INT32 lanes. -/
  | tVcvt (tile : Nat)
  /-- MZERO (R348): MZERO clears an accumulator. -/
  | tMzero (tile : Nat)
  /-- MMA (R353): MMA accumulates A × B into an accumulator block by block. -/
  | tMma (tile : Nat)
  /-- MSTORE (R355): MSTORE writes accumulator rows to tile memory. -/
  | tMstore (tile : Nat)
  /-- MLOAD (R355): MLOAD fills accumulator rows from tile memory. -/
  | tMload (tile : Nat)
  /-- MROW (R348): MROW copies an accumulator row into a vector. -/
  | tMrow (tile : Nat)
  /-- MSETROW (R348): MSETROW sets an accumulator row from a vector. -/
  | tMsetrow (tile : Nat)
  /-- DMAX (R357): DMAX queues a DMA between tile memory and a context address on a tag. -/
  | tDmax (tile : Nat)
  /-- DMA_BURST_COMPLETE (R359): A DMA burst completes, lowering its tag count or recording a status or trapping asynchronously. -/
  | tDmaBurstComplete (tile id : Nat) (bus : Option (List Byte))
  /-- DATOM (R360): DATOM performs an 8-byte atomic at a context address and waits for the old value. -/
  | tDatom (tile : Nat)
  /-- SEND_TILE (R362): SEND with KIND TILE queues words to a channel of a tile on this device. -/
  | tSendTile (tile : Nat)
  /-- SEND_ADDR (R362): SEND with KIND ADDR sends words to a channel aperture here or on another node. -/
  | tSendAddr (tile : Nat)
  /-- SEND_REPLY (R363): SEND with KIND REPLY sends the invocation's reply once. -/
  | tSendReply (tile : Nat)
  /-- TILE_MESSAGE_ENQUEUE (R362): A waiting tile message finds channel space and enters the channel whole. -/
  | tTileMessageEnqueue (tile id : Nat)
  /-- CHANNEL_RECV (R364): RECV reads the next word of a channel, waiting while none is readable. -/
  | tChannelRecv (tile : Nat) (bad : Bool)
  /-- RECVM (R364): RECVM copies b words from a channel to tile memory as they arrive. -/
  | tRecvm (tile : Nat) (bad : Bool)
  /-- POLL (R364): POLL returns the number of readable words of a channel without waiting. -/
  | tPoll (tile : Nat)
  /-- MEMORY_WRITE (R376): The controller enciphers and tags a block write, or merges a partial write by read-modify-write. -/
  | memoryWrite (tenant addr : Nat) (bytes : List Byte)
  /-- MEMORY_READ (R378): The controller checks code or ECC and tag and delivers, corrects, zeroes or poisons the block. -/
  | memoryRead (tenant addr len : Nat) (finding : Finding)
  /-- RETIREMENT_COPY_DONE (R381): The granule copy ends, the remap takes effect and held requests proceed. -/
  | retirementCopyDone (ctrl : Nat) (bad : Option Nat)
  /-- PATROL_READ (R383): A patrol read checks a block at the lowest priority and writes back corrections. -/
  | patrolRead (ctrl addr : Nat) (finding : Finding) (written pass : Bool)
  /-- CHANNEL_RETRAIN (R386): A memory channel is retrained on its interval or a temperature move, holding its requests. -/
  | channelRetrain (ctrl temp : Nat)
  /-- RETRAIN_DONE (R386): A channel retrain ends and held requests proceed, or the controller becomes FAILED. -/
  | retrainDone (ctrl : Nat) (ok : Bool)
  /-- TERMITE_FRAME_CLEARED (R384): Termite's last block of a frame is accepted and the frame returns to the free pool. -/
  | termiteFrameCleared (frame : Nat)
  /-- KEY_SET_LOAD (R373): The RSP loads or destroys a tenant key set in a controller's key table. -/
  | keySetLoad (tenant quad : Nat) (load : Bool)
  /-- SQM_PUSH (R393): A push stores a word, with any pending marker, or drops it and counts a marker. -/
  | sqmPush (fn : Nat) (value : W64)
  /-- SQM_POP (R394): A pop returns the oldest word, the marker, or the last value marked UNDERRUN. -/
  | sqmPop (fn bytes : Nat) (bad : Bool)
  /-- SQM_QUEUE_CLEAR (R398): A queue in CLEARING has its cells zeroed and returned and leaves CLEARING empty. -/
  | sqmQueueClear (queue : Nat)
  /-- KEY_SLOT_LOAD (R405): The RSP writes a key into a slot in all four quadrants and sets its OWNER. -/
  | keySlotLoad (slot owner : Nat) (key : List Byte)
  /-- KEY_SLOT_DESTROY (R405): An RSP destroy or owner teardown moves a slot to DESTROYING. -/
  | keySlotDestroy (slot : Nat)
  /-- KEY_SLOT_ZEROED (R405): Pipes clear of a DESTROYING slot and its key is zeroed everywhere. -/
  | keySlotZeroed (slot : Nat)
  /-- KEY_SLOT_PARITY (R406): A slot storage parity error remaps the slot to reserve storage and the RSP reloads it. -/
  | keySlotParity (slot quad : Nat)
  /-- CIPHER_PIPE_FAILURE (R402): A pipe failing self-check leaves service and its work restarts on another pipe. -/
  | cipherPipeFailure (pipe : Nat)
  /-- CRYPT_SLICE (R407): A 64 KiB slice of a CRYPT stream runs, with state kept in a page or saved and restored. -/
  | cryptSlice (queue idx : Nat) (bus : Option (List Byte))
  /-- SEALED_RECORD_OPEN (R411): A sealed record is streamed, checked against the transfer and its tag compared after the last block. -/
  | sealedRecordOpen (tenant ctx base record : Nat) (bus : Option (List Byte))
  /-- SEALED_RECORD_WRITE (R412): A full record in seal staging is sealed and written to the host. -/
  | sealedRecordWrite (tenant ctx base record : Nat)
  /-- MAILBOX_DOORBELL (R423): RSP_MBX_DB GO tells the RSP a request is in the function's mailbox. -/
  | mailboxDoorbell (fn : Nat)
  /-- MAILBOX_TIMEOUT (R424): 1 ms after the doorbell with too few words, the RSP discards them and replies BAD_DESCRIPTOR. -/
  | mailboxTimeout (fn : Nat)
  /-- REPLY_MAILBOX_TIMEOUT (R424): A reply mailbox full for 100 ms drops the reply. -/
  | replyMailboxTimeout (fn : Nat)
  /-- GET_VERSION (R422): SPDM GET_VERSION returns version 1.3. -/
  | getVersion (who : Nat) (secured : Bool) (bytes : List Byte)
  /-- GET_CAPABILITIES (R422): SPDM GET_CAPABILITIES returns the responder capabilities. -/
  | getCapabilities (who : Nat) (secured : Bool) (bytes : List Byte)
  /-- NEGOTIATE_ALGORITHMS (R421): SPDM NEGOTIATE_ALGORITHMS fixes the algorithm set. -/
  | negotiateAlgorithms (who : Nat) (secured : Bool) (bytes : List Byte)
  /-- GET_DIGESTS (R422): SPDM GET_DIGESTS returns certificate chain digests. -/
  | getDigests (who : Nat) (secured : Bool) (bytes : List Byte)
  /-- GET_CERTIFICATE (R418): SPDM GET_CERTIFICATE returns the certificate chain of slot 0. -/
  | getCertificate (who : Nat) (secured : Bool) (bytes : List Byte)
  /-- CHALLENGE (R422): SPDM CHALLENGE proves identity with the alias key. -/
  | spdmChallenge (who : Nat) (secured : Bool) (bytes : List Byte)
  /-- GET_MEASUREMENTS (R419): SPDM GET_MEASUREMENTS returns signed measurement blocks. -/
  | getMeasurements (who : Nat) (secured : Bool) (bytes : List Byte)
  /-- KEY_EXCHANGE (R422): SPDM KEY_EXCHANGE opens a session with an ephemeral Mayfly key. -/
  | keyExchange (who : Nat) (secured : Bool) (bytes : List Byte)
  /-- FINISH (R422): SPDM FINISH completes the session and zeroes the ephemeral key. -/
  | spdmFinish (who : Nat) (secured : Bool) (bytes : List Byte)
  /-- HEARTBEAT (R422): SPDM HEARTBEAT keeps the session alive. -/
  | spdmHeartbeat (who : Nat) (secured : Bool) (bytes : List Byte)
  /-- HEARTBEAT_EXPIRY (R422): Three missed heartbeats end the session and zero its secrets. -/
  | heartbeatExpiry (who : Nat)
  /-- KEY_UPDATE (R422): SPDM KEY_UPDATE updates the session keys. -/
  | keyUpdate (who : Nat) (secured : Bool) (bytes : List Byte)
  /-- END_SESSION (R422): SPDM END_SESSION ends the session and zeroes its secrets. -/
  | endSession (who : Nat) (secured : Bool) (bytes : List Byte)
  /-- VENDOR_DEFINED_REQUEST (R422): A VENDOR_DEFINED_REQUEST carries an RSP command inside a session. -/
  | vendorDefinedRequest (who : Nat) (secured : Bool) (bytes : List Byte)
  /-- KEY_LOAD (R425): KEY_LOAD loads a tenant-supplied key into a free slot. -/
  | keyLoad (fn : Nat)
  /-- KEY_GEN (R425): KEY_GEN draws a key, loads it and returns slot and key. -/
  | keyGen (fn : Nat)
  /-- KEY_DESTROY (R425): KEY_DESTROY destroys a slot of the tenant. -/
  | keyDestroy (fn : Nat)
  /-- SEAL_ENABLE (R426): SEAL_ENABLE declares bounce ranges, loads sealing keys and sets SEALED. -/
  | sealEnable (fn : Nat)
  /-- SEAL_REKEY (R427): SEAL_REKEY replaces the unused KEYSEL pair and moves device sealing to it. -/
  | sealRekey (fn : Nat)
  /-- REPORT_REQUEST (R428): A report-mode request returns a signed report and sets up the report key. -/
  | reportRequest (fn : Nat)
  /-- DRBG_RESEED (R417): Mayfly reseeds after 2^20 requests or 1 s. -/
  | drbgReseed
  /-- ENTROPY_HEALTH_FAIL (R417): The entropy source fails its health test and Mayfly issues nothing until it passes. -/
  | entropyHealthFail (recovered : Bool)
  /-- DRBG_WAIT_TIMEOUT (R417): A DRBG wait over 1 s writes a fatal fault record and clears DRBG_OK. -/
  | drbgWaitTimeout
  /-- SECURITY_LINK_LOSS (R416): A quadrant RSP that loses the inter-die link destroys its keys and writes a fatal record. -/
  | securityLinkLoss (quad : Nat)
  /-- DRAIN_COMPLETE (R430): Every admitted access, started entry, running tile and transfer of the tenant has ended. -/
  | drainComplete (tenant : Nat)
  /-- DRAIN_BOUND (R430): 4 ms after quiesce the device stops tiles, sends ABORT and CLOSE and ends the drain. -/
  | drainBound (tenant : Nat)
  /-- DEBUG_TOKEN (R433): A valid debug token tears down tenants, destroys keys and scrubs everything before opening debug. -/
  | debugToken (token : Token)
  /-- BOOT_CTL_RESET (R441): MGT_BOOT_CTL.RESET forces a full reset. -/
  | bootCtlReset
  /-- BOOT_CTL_RETRY (R443): MGT_BOOT_CTL.RETRY in minimal mode clears FAILS and forces a full reset. -/
  | bootCtlRetry
  /-- QUERY (R448): Cicada QUERY returns slot states and the receiving slot's piece bitmap. -/
  | cicQuery (path : CicPath) (msg : CicMsg)
  /-- PIECE (R451): Cicada PIECE assembles a fragment and stores a verified piece, checking a header or digest. -/
  | cicPiece (path : CicPath) (msg : CicMsg) (flashOk : Bool)
  /-- PIECE_BUFFER_IDLE (R449): A piece buffer with no fragment for 10 s is released. -/
  | pieceBufferIdle (image index : Nat)
  /-- ABANDON (R452): Cicada ABANDON erases the inactive slot. -/
  | cicAbandon (path : CicPath) (msg : CicMsg)
  /-- ACTIVATE (R453): Cicada ACTIVATE checks a STAGED slot and writes the boot record with a pending trial. -/
  | cicActivate (path : CicPath) (msg : CicMsg) (flashOk : Bool)
  /-- ACTIVATE_RESET_TIMER (R453): 1 s after an ACTIVATE with NOW a full reset is forced with PREV ACTIVATE. -/
  | activateResetTimer
  /-- CONFIRM (R454): Cicada CONFIRM makes the trial slot ACTIVE and raises the fused security version. -/
  | cicConfirm (path : CicPath) (msg : CicMsg)
  /-- HEALTH_WINDOW_EXPIRY (R455): The health window ends unconfirmed and the watchdog forces a full reset. -/
  | healthWindowExpiry
  /-- BEGIN (R459): BEGIN opens a configuration transaction and issues its token. -/
  | txnBegin (fn : Nat)
  /-- TX_WRITE_STAGE (R460): A TX register write is staged with its selection, or counted as an orphan. -/
  | txWriteStage (fn off : Nat) (value : W64)
  /-- GRANT_STAGE (R463): A write of MGT_GRANT_HI stages a grant record. -/
  | grantStage (fn : Nat) (value : W64)
  /-- COMMIT (R467): COMMIT with the right token closes the transaction and sets BUSY. -/
  | txnCommit (fn token : Nat) (save : Bool)
  /-- COMMIT_VALIDATE (R468): In device-wide order the commit is validated against its complete resulting state. -/
  | commitValidate
  /-- BLOCK_APPLY (R469): A touched block stalls at its next unit boundary and takes the new state. -/
  | blockApply (block : Nat)
  /-- COMMIT_RESULT_PUBLISH (R469): Every block has taken the new state and the result is published, clearing BUSY. -/
  | commitResultPublish
  /-- ROLLBACK (R461): ROLLBACK discards every staged write and closes the transaction. -/
  | txnRollback (fn token : Nat)
  /-- TRANSACTION_TIMEOUT (R461): A transaction idle for 1 s is rolled back with TIMEOUT. -/
  | transactionTimeout (fn : Nat)
  /-- PROFILE_CLEAR (R473): MGT_PROF_CTL.CLEAR erases the user profile for the next boot. -/
  | profileClear
  /-- FAULT_REPORT (R475): Firefly stamps a report into a record and writes it whole to its queues under rate limits. -/
  | faultReport (report : Report)
  /-- SUSPECT_WINDOW_CLOSE (R482): A 10 ms peer-suspect window closes and writes a merged PEER record if several reports fell in it. -/
  | suspectWindowClose (queue node : Nat)
  /-- NOTICE_SUPPRESSION_EXPIRY (R483): The 100 ms notice suppression of a node ends. -/
  | noticeSuppressionExpiry (node : Nat)
  /-- FAULT_QUEUE_POP (R478): A read of FEV_FQ_POP pops the next word of the fault queue. -/
  | faultQueuePop (bytes : Nat) (bad : Bool)
  /-- EVENT_QUEUE_POP (R487): A read of FEV_EQ_POP pops the next word of the function's event queue. -/
  | eventQueuePop (fn bytes : Nat) (bad : Bool)
  /-- STANDBY_COPY_READ (R486): Management reads the standby record copy over MCTP, releasing MG_ALERT_N when none is unread. -/
  | standbyCopyRead
  /-- REGISTER_WRITE (R490): A write to a register without its own row takes effect by the access-width rules. -/
  | registerWrite (fn off len : Nat) (value : W64)
  /-- COMPLETION_TIMEOUT (R148): A host or peer bus read, flush read or AtomicOp that outlasts the function's PCIe completion timeout is aborted at that timeout and its origin reports the failure. -/
  | completionTimeout (tag : BusTag)
  /-- CELL_SLOT (R243): At each 578-byte slot time a link transmitter sends the oldest staged cell, or IDLE, writing HOPS + 1 and freeing a staging slot. -/
  | cellSlot (link : Nat) (bad : Bool)
  /-- RMA_TOKEN (R432): A signed RMA token moves the fused lifecycle to RMA after the destroy-then-scrub order of R434, blocking the UDS for good. -/
  | rmaToken (token : Token)
deriving DecidableEq, Repr

end Sys2Proof
end

