-- ==== Sys2Proof/Config.lean ====
section
/-! DEFINITION. What the spec leaves open and the model leaves free: constants without a body, so that no proof can rest
on a value of theirs. Each is named in a log entry. -/
namespace Sys2Proof.Config

/-- The n-th random word drawn from Mayfly's CTR_DRBG (R417): the spec gives no value, so every draw is free. -/
opaque draw : Nat → W64

/-- The n-th free byte: what a read returns where the spec states no value. -/
opaque freeByte : Nat → Byte

/-- SHA-384 digest of the firmware-signing public key KEY_ID held in fuses (R447). -/
opaque fusedKeyDigest : Nat → BitVec 384

/-- ECDSA over brainpoolP384r1 with SHA-384 (R446, R418): public key bytes, message bytes, signature bytes. -/
opaque ecdsaVerify : List Byte → List Byte → List Byte → Bool

/-- An ECDSA signature over brainpoolP384r1 (R419, R422, R428) of a message by a key held under a handle. -/
opaque ecdsaSign : Nat → List Byte → List Byte

/-- ECDH over brainpoolP384r1: own ephemeral key handle and the peer's public key give the shared x-coordinate. -/
opaque ecdhShared : Nat → List Byte → List Byte

/-- The public key of an ephemeral key handle. -/
opaque ecdhPublic : Nat → List Byte

/-- The key-derivation functions of R418, R422 and R428 (SP 800-108, the SPDM key schedule, HKDF-SHA-384). -/
opaque kdf : List Byte → List Byte → List Byte → List Byte

/-- The device's DER certificate chain (R418). -/
opaque certChain : List Byte

/-- The unique device secret in fuses (R414). -/
opaque uds : BitVec 256

/-- The device serial number that a debug or RMA token names (R433). -/
opaque serial : W64

/-- The product CA public key that debug and RMA tokens are signed with (R433). -/
opaque productCaKey : List Byte

/-- The hash of SNODE, QPE and the rotation that chooses a UDP source port (R262); the spec names no function. -/
opaque udpHash : Nat → Nat → Nat → Nat

/-- Whether tininess is detected before rounding, which IEEE 754 leaves to the implementation (R350, fflags.UF). -/
opaque tinyBefore : Bool

/-- How far a transcendental instruction (its opcode, its input) lands from the true value, within the bound that R350 gives. -/
opaque transUlp : Nat → W32 → Nat

/-- The fflags bits that a transcendental instruction (its opcode, its input) sets. -/
opaque transFlags : Nat → W32 → Nat

/-- The element codes of an MX block whose scale is 0xFF (R296, R351): the spec gives only that they decode as NaN. -/
opaque mxNanElement : Nat → Nat

/-- The status in TPE_QSTAT and in the event when a transport core fails with both spares in use (R169): the spec names none. -/
opaque coreFailStatus : Nat

/-- What the AEAD of an SPDM session (its secret, its key generation) opens a secured message to (R422, DSP0277); none when it fails. -/
opaque secureOpen : W64 → Nat → List Byte → Option (List Byte)

/-- A message as the AEAD of an SPDM session secures it (R422). -/
opaque secureSeal : W64 → Nat → List Byte → List Byte

/-- The SHA-384 digest of a firmware part (its measurement index, Table 18-2) of an image (R419). -/
opaque partDigest : Nat → Nat → BitVec 384

/-- Where the transaction tokens of a function start (R459): the spec says only that a token is never 0 and never repeated. -/
opaque tokenStart : Nat → Nat

end Sys2Proof.Config
end

