-- ==== Sys2Proof/Machine/RegNames.lean ====
section
/-! DEFINITION. The register offsets of the sixteen blocks, each under the name its defining table gives it (R17, R488,
Table 22-1). An indexed register has its base offset here; its stride stands in its table. -/
namespace Sys2Proof.Machine.Reg

/-! HIF registers -/
/-- RO register of Table 3-7 (R74). -/
def HIF_CAP : Nat := 0x0
/-- RO register of Table 3-7 (R74). -/
def HIF_ABI_OFFER : Nat := 0x8
/-- RW register of Table 3-7 (R74). -/
def HIF_ABI_AGREED : Nat := 0xc
/-- RW register of Table 3-7 (R74). -/
def HIF_CTL : Nat := 0x10
/-- RO register of Table 3-7 (R74). -/
def HIF_FN_STAT : Nat := 0x14
/-- RO register of Table 3-7 (R74). -/
def HIF_LINK : Nat := 0x18
/-- RW register of Table 3-7 (R74). -/
def HIF_WIN_BASE : Nat := 0x20
/-- RW register of Table 3-7 (R74). -/
def HIF_WIN_CTX : Nat := 0x28
/-- RO register of Table 3-7 (R74). -/
def HIF_WIN_SIZE : Nat := 0x2c
/-- RO register of Table 3-7 (R74). -/
def HIF_WIN_FAULTS : Nat := 0x30
/-- RO register of Table 3-7 (R74). -/
def HIF_DB_IGNORED : Nat := 0x34
/-- RO register of Table 3-7 (R74). -/
def HIF_INL_DISCARD : Nat := 0x38
/-- RO register of Table 3-7 (R74). -/
def HIF_FC_STALL : Nat := 0x3c
/-- RW register of Table 3-7 (R74). -/
def HIF_DPn_ADDR : Nat := 0x1000
/-- RW register of Table 3-7 (R74). -/
def HIF_DPn_CTX : Nat := 0x1008
/-- WO register of Table 3-7 (R74). -/
def HIF_DPn_COMMIT : Nat := 0x100c
/-- RO, W1C register of Table 3-7 (R74). -/
def HIF_DPn_STAT : Nat := 0x1010

/-! WQM registers -/
/-- RW register of Table 4-7 (R99). -/
def WQM_QSEL : Nat := 0x100000
/-- RW register of Table 4-7 (R99). -/
def WQM_QRING : Nat := 0x100008
/-- RW register of Table 4-7 (R99). -/
def WQM_QHEAD : Nat := 0x100010
/-- RW register of Table 4-7 (R99). -/
def WQM_QCTX : Nat := 0x100018
/-- RW register of Table 4-7 (R99). -/
def WQM_QBIND : Nat := 0x10001c
/-- RW, W1S register of Table 4-7 (R99). -/
def WQM_QCTL : Nat := 0x100020
/-- RW register of Table 4-7 (R99). -/
def WQM_QMOD : Nat := 0x100024
/-- RO register of Table 4-7 (R99). -/
def WQM_QSTAT : Nat := 0x100028
/-- RO register of Table 4-7 (R99). -/
def WQM_QIDX : Nat := 0x100030
/-- RO register of Table 4-7 (R99). -/
def WQM_REFETCH : Nat := 0x100040
/-- RO register of Table 4-7 (R99). -/
def WQM_REFETCH_GIVEUP : Nat := 0x100044
/-- RO register of Table 4-7 (R99). -/
def WQM_SPEC_DISCARD : Nat := 0x100048
/-- RO register of Table 4-7 (R99). -/
def WQM_DB_BAD : Nat := 0x10004c
/-- RO register of Table 4-7 (R99). -/
def WQM_POOL_STALL : Nat := 0x100050
/-- RO register of Table 4-7 (R99). -/
def WQM_BAD_DESC : Nat := 0x100054

/-! ATU registers -/
/-- RW register of Table 6-10 (R162). -/
def ATU_CSEL : Nat := 0x200000
/-- RW register of Table 6-10 (R162). -/
def ATU_CROOT : Nat := 0x200008
/-- RW register of Table 6-10 (R162). -/
def ATU_CCTL : Nat := 0x200010
/-- RO register of Table 6-10 (R162). -/
def ATU_CEPOCH : Nat := 0x200014
/-- RO register of Table 6-10 (R162). -/
def ATU_CFAULT : Nat := 0x200018
/-- TX register of Table 6-10 (R162). -/
def ATU_RGN_BASE : Nat := 0x200100
/-- TX register of Table 6-10 (R162). -/
def ATU_RGN_COUNT : Nat := 0x200108
/-- RW register of Table 6-10 (R162). -/
def ATU_FOT_SEL : Nat := 0x200120
/-- RO register of Table 6-10 (R162). -/
def ATU_FOT_ENT : Nat := 0x200124
/-- RO register of Table 6-10 (R162). -/
def ATU_TC_MISS : Nat := 0x200200
/-- RO register of Table 6-10 (R162). -/
def ATU_WALK_STALL : Nat := 0x200204
/-- RO register of Table 6-10 (R162). -/
def ATU_XLATE_FAULT : Nat := 0x200208
/-- RO register of Table 6-10 (R162). -/
def ATU_OWN_FAULT : Nat := 0x20020c
/-- RO register of Table 6-10 (R162). -/
def ATU_ADM_REJECT : Nat := 0x200210
/-- RO register of Table 6-10 (R162). -/
def ATU_RGN_STALL : Nat := 0x200214
/-- RO register of Table 6-10 (R162). -/
def ATU_STALE : Nat := 0x200218

/-! TPE registers -/
/-- RW register of Table 7-10 (R203). -/
def TPE_QSEL : Nat := 0x300000
/-- RW register of Table 7-10 (R203). -/
def TPE_QCFG : Nat := 0x300008
/-- RW register of Table 7-10 (R203). -/
def TPE_QKEY : Nat := 0x300010
/-- RW, W1S register of Table 7-10 (R203). -/
def TPE_QCTL : Nat := 0x300014
/-- RO register of Table 7-10 (R203). -/
def TPE_QSTAT : Nat := 0x300018
/-- RO register of Table 7-10 (R203). -/
def TPE_QSEQ : Nat := 0x300020
/-- RO register of Table 7-10 (R203). -/
def TPE_QRECV : Nat := 0x300028
/-- RO register of Table 7-10 (R203). -/
def TPE_QRTT : Nat := 0x300030
/-- RW register of Table 7-10 (R203). -/
def TPE_QTWIN : Nat := 0x300038
/-- RO register of Table 7-10 (R203). -/
def TPE_VER_OFFER : Nat := 0x300100
/-- RW register of Table 7-10 (R203). -/
def TPE_RTO_FAB : Nat := 0x300104
/-- RW register of Table 7-10 (R203). -/
def TPE_RTO_ETH : Nat := 0x300108
/-- RW register of Table 7-10 (R203). -/
def TPE_RC_HOLD : Nat := 0x30010c
/-- RW register of Table 7-10 (R203). -/
def TPE_TWIN_CTX : Nat := 0x300110
/-- RW register of Table 7-10 (R203). -/
def TPE_TWIN_BASE : Nat := 0x300118
/-- TX register of Table 7-10 (R203). -/
def TPE_MIRROR_BASE : Nat := 0x300120
/-- RO, W1C register of Table 7-10 (R203). -/
def TPE_TWIN_STAT : Nat := 0x300128
/-- RO register of Table 7-10 (R203). -/
def TPE_RETX : Nat := 0x300200
/-- RO register of Table 7-10 (R203). -/
def TPE_RTO_EXP : Nat := 0x300204
/-- RO register of Table 7-10 (R203). -/
def TPE_WIN_DROP : Nat := 0x300208
/-- RO register of Table 7-10 (R203). -/
def TPE_DUP_DROP : Nat := 0x30020c
/-- RO register of Table 7-10 (R203). -/
def TPE_EARLY_DROP : Nat := 0x300210
/-- RO register of Table 7-10 (R203). -/
def TPE_HEAD_MISMATCH : Nat := 0x300214
/-- RO register of Table 7-10 (R203). -/
def TPE_TRK_FULL : Nat := 0x300218
/-- RO register of Table 7-10 (R203). -/
def TPE_RC_FULL : Nat := 0x30021c
/-- RO register of Table 7-10 (R203). -/
def TPE_CTX_MISS : Nat := 0x300220
/-- RO register of Table 7-10 (R203). -/
def TPE_DEAD_DROP : Nat := 0x300224
/-- RO register of Table 7-10 (R203). -/
def TPE_LATE_REPLY : Nat := 0x300228
/-- RO register of Table 7-10 (R203). -/
def TPE_INFLIGHT_FULL : Nat := 0x30022c
/-- RO register of Table 7-10 (R203). -/
def TPE_CHAN_WAIT : Nat := 0x300230
/-- RO register of Table 7-10 (R203). -/
def TPE_MIRROR_LATE : Nat := 0x300234

/-! CCS registers -/
/-- RW register of Table 8-6 (R225). -/
def CCS_QSEL : Nat := 0x400000
/-- RW register of Table 8-6 (R225). -/
def CCS_QCFG : Nat := 0x400008
/-- TX register of Table 8-6 (R225). -/
def CCS_QGMIN : Nat := 0x40000c
/-- RO register of Table 8-6 (R225). -/
def CCS_QCRED : Nat := 0x400010
/-- RW register of Table 8-6 (R225). -/
def CCS_ESEL : Nat := 0x400100
/-- RW register of Table 8-6 (R225). -/
def CCS_CSEL : Nat := 0x400104
/-- TX register of Table 8-6 (R225). -/
def CCS_EOVH : Nat := 0x400108
/-- RO register of Table 8-6 (R225). -/
def CCS_ECAP : Nat := 0x40010c
/-- RO register of Table 8-6 (R225). -/
def CCS_EADMIT : Nat := 0x400110
/-- RO register of Table 8-6 (R225). -/
def CCS_EFACTOR : Nat := 0x400114
/-- TX register of Table 8-6 (R225). -/
def CCS_ADMIT_PCT : Nat := 0x400118
/-- TX register of Table 8-6 (R225). -/
def CCS_CLS_CFG : Nat := 0x400120
/-- TX register of Table 8-6 (R225). -/
def CCS_SHP_CFG : Nat := 0x400124
/-- TX register of Table 8-6 (R225). -/
def CCS_CLS_CMIN : Nat := 0x400128
/-- RO register of Table 8-6 (R225). -/
def CCS_CLS_STAT : Nat := 0x40012c
/-- TX register of Table 8-6 (R225). -/
def CCS_POOL : Nat := 0x400200
/-- TX register of Table 8-6 (R225). -/
def CCS_GRANT_CFG : Nat := 0x400204
/-- TX register of Table 8-6 (R225). -/
def CCS_GRANT_RATE : Nat := 0x400208
/-- RO register of Table 8-6 (R225). -/
def CCS_POOL_STAT : Nat := 0x40020c
/-- RW register of Table 8-6 (R225). -/
def CCS_CRED_TMO : Nat := 0x400210
/-- RO register of Table 8-6 (R225). -/
def CCS_CRED_WAIT : Nat := 0x400300
/-- RO register of Table 8-6 (R225). -/
def CCS_CRED_TIMEOUT : Nat := 0x400304
/-- RO register of Table 8-6 (R225). -/
def CCS_GRANT_EXPIRED : Nat := 0x400308
/-- RO register of Table 8-6 (R225). -/
def CCS_GRANT_RECLAIM : Nat := 0x40030c
/-- RO register of Table 8-6 (R225). -/
def CCS_GRANT_STALE : Nat := 0x400310
/-- RO register of Table 8-6 (R225). -/
def CCS_POOL_FULL : Nat := 0x400314
/-- RO register of Table 8-6 (R225). -/
def CCS_DEMAND_DROP : Nat := 0x400318
/-- RO register of Table 8-6 (R225). -/
def CCS_PLACE_PAUSE : Nat := 0x40031c
/-- RO register of Table 8-6 (R225). -/
def CCS_PLACE_DROP : Nat := 0x400320
/-- RO register of Table 8-6 (R225). -/
def CCS_DEGRADE : Nat := 0x400324

/-! FRT registers -/
/-- TX register of Table 9-11 (R255). -/
def FRT_NODE : Nat := 0x500000
/-- TX register of Table 9-11 (R255). -/
def FRT_DIM : Nat := 0x500004
/-- RW register of Table 9-11 (R255). -/
def FRT_CTL : Nat := 0x500008
/-- RO register of Table 9-11 (R255). -/
def FRT_VER_OFFER : Nat := 0x50000c
/-- RW register of Table 9-11 (R255). -/
def FRT_LSEL : Nat := 0x500010
/-- RO register of Table 9-11 (R255). -/
def FRT_LSTAT : Nat := 0x500014
/-- RW, W1S register of Table 9-11 (R255). -/
def FRT_LCTL : Nat := 0x500018
/-- RO register of Table 9-11 (R255). -/
def FRT_LCNT_TX : Nat := 0x50001c
/-- RO register of Table 9-11 (R255). -/
def FRT_LCNT_RX : Nat := 0x500020
/-- RO register of Table 9-11 (R255). -/
def FRT_LCRC : Nat := 0x500024
/-- RO register of Table 9-11 (R255). -/
def FRT_LDOWN : Nat := 0x500028
/-- RW register of Table 9-11 (R255). -/
def FRT_MC_SEL : Nat := 0x500040
/-- TX register of Table 9-11 (R255). -/
def FRT_MC_ENT : Nat := 0x500044
/-- RW register of Table 9-11 (R255). -/
def FRT_UR_SEL : Nat := 0x500048
/-- RO register of Table 9-11 (R255). -/
def FRT_UR_MASK : Nat := 0x50004c
/-- RO register of Table 9-11 (R255). -/
def FRT_DEFLECT : Nat := 0x500100
/-- RO register of Table 9-11 (R255). -/
def FRT_HOPLIMIT_DROP : Nat := 0x500104
/-- RO register of Table 9-11 (R255). -/
def FRT_HOPLIMIT_LAST : Nat := 0x500108
/-- RO register of Table 9-11 (R255). -/
def FRT_NOPORT_DROP : Nat := 0x50010c
/-- RO register of Table 9-11 (R255). -/
def FRT_CRC_ERR : Nat := 0x500110
/-- RO register of Table 9-11 (R255). -/
def FRT_STOMP_RX : Nat := 0x500114
/-- RO register of Table 9-11 (R255). -/
def FRT_BAD_HDR : Nat := 0x500118
/-- RO register of Table 9-11 (R255). -/
def FRT_UNREACH_DROP : Nat := 0x50011c
/-- RO register of Table 9-11 (R255). -/
def FRT_INJ_STALL : Nat := 0x500120
/-- RO register of Table 9-11 (R255). -/
def FRT_MC_HOLD_DROP : Nat := 0x500124
/-- RO register of Table 9-11 (R255). -/
def FRT_MC_DEAD_DROP : Nat := 0x500128
/-- RO register of Table 9-11 (R255). -/
def FRT_MC_MISS : Nat := 0x50012c
/-- RO register of Table 9-11 (R255). -/
def FRT_MC_REFUSED : Nat := 0x500130
/-- RO register of Table 9-11 (R255). -/
def FRT_NOTICE_TX : Nat := 0x500134
/-- RO register of Table 9-11 (R255). -/
def FRT_NOTICE_RX : Nat := 0x500138
/-- RO register of Table 9-11 (R255). -/
def FRT_NOTICE_DUP : Nat := 0x50013c
/-- RO register of Table 9-11 (R255). -/
def FRT_INT_ERR : Nat := 0x500140

/-! EMAC registers -/
/-- TX register of Table 10-9 (R278). -/
def EMAC_MODE : Nat := 0x600000
/-- TX register of Table 10-9 (R278). -/
def EMAC_UDP_PORT : Nat := 0x600004
/-- RW register of Table 10-9 (R278). -/
def EMAC_PSEL : Nat := 0x600008
/-- RO register of Table 10-9 (R278). -/
def EMAC_PSTAT : Nat := 0x60000c
/-- TX register of Table 10-9 (R278). -/
def EMAC_MAC : Nat := 0x600010
/-- TX register of Table 10-9 (R278). -/
def EMAC_CFG : Nat := 0x600018
/-- TX register of Table 10-9 (R278). -/
def EMAC_FRAME : Nat := 0x60001c
/-- TX register of Table 10-9 (R278). -/
def EMAC_IP4 : Nat := 0x600020
/-- TX register of Table 10-9 (R278). -/
def EMAC_IP6_HI : Nat := 0x600030
/-- TX register of Table 10-9 (R278). -/
def EMAC_IP6_LO : Nat := 0x600038
/-- RW register of Table 10-9 (R278). -/
def EMAC_PFC_SEL : Nat := 0x600040
/-- TX register of Table 10-9 (R278). -/
def EMAC_PFC_CFG : Nat := 0x600044
/-- TX register of Table 10-9 (R278). -/
def EMAC_PFC_HEAD : Nat := 0x600048
/-- TX register of Table 10-9 (R278). -/
def EMAC_PFC_QUANTA : Nat := 0x60004c
/-- RO register of Table 10-9 (R278). -/
def EMAC_RXBUF : Nat := 0x600050
/-- TX register of Table 10-9 (R278). -/
def EMAC_IRQ : Nat := 0x600054
/-- W1C register of Table 10-9 (R278). -/
def EMAC_STAT_HALF : Nat := 0x600058
/-- TX register of Table 10-9 (R278). -/
def EMAC_CLS_PCPm : Nat := 0x600060
/-- RW register of Table 10-9 (R278). -/
def EMAC_FLT_SEL : Nat := 0x600100
/-- TX register of Table 10-9 (R278). -/
def EMAC_FLT : Nat := 0x600108
/-- RW register of Table 10-9 (R278). -/
def EMAC_RXQ_SEL : Nat := 0x600110
/-- TX register of Table 10-9 (R278). -/
def EMAC_RXQ : Nat := 0x600114
/-- RW register of Table 10-9 (R278). -/
def EMAC_AH_SEL : Nat := 0x600200
/-- TX register of Table 10-9 (R278). -/
def EMAC_AH_ENTw : Nat := 0x600208
/-- RO register of Table 10-9 (R278). -/
def EMAC_STATi : Nat := 0x601000

/-! LNS registers -/
/-- RW register of Table 11-6 (R292). -/
def LNS_LSEL : Nat := 0x700000
/-- RO register of Table 11-6 (R292). -/
def LNS_LSTAT : Nat := 0x700004
/-- W1S register of Table 11-6 (R292). -/
def LNS_LCTL : Nat := 0x700008
/-- RO register of Table 11-6 (R292). -/
def LNS_LCORR : Nat := 0x70000c
/-- RO register of Table 11-6 (R292). -/
def LNS_LUNCORR : Nat := 0x700010
/-- RO register of Table 11-6 (R292). -/
def LNS_LMARGIN : Nat := 0x700014
/-- TX register of Table 11-6 (R292). -/
def LNS_ROT_CFG : Nat := 0x700100
/-- TX register of Table 11-6 (R292). -/
def LNS_FAIL_THR : Nat := 0x700104
/-- RW register of Table 11-6 (R292). -/
def LNS_CSEL : Nat := 0x700108
/-- RO register of Table 11-6 (R292). -/
def LNS_CSTAT : Nat := 0x70010c
/-- RO register of Table 11-6 (R292). -/
def LNS_ROT_DONE : Nat := 0x700200
/-- RO register of Table 11-6 (R292). -/
def LNS_ROT_ABORT : Nat := 0x700204
/-- RO register of Table 11-6 (R292). -/
def LNS_CMP_FAIL : Nat := 0x700208
/-- RO register of Table 11-6 (R292). -/
def LNS_SPARE_IN : Nat := 0x70020c
/-- RO register of Table 11-6 (R292). -/
def LNS_ONE_LANE : Nat := 0x700210
/-- RW register of Table 11-6 (R292). -/
def LNS_MOD_SEL : Nat := 0x700300
/-- RO register of Table 11-6 (R292). -/
def LNS_MOD_STAT : Nat := 0x700304
/-- TX register of Table 11-6 (R292). -/
def LNS_MOD_PWR_MAX : Nat := 0x700308

/-! SCB registers -/
/-- RW register of Table 12-13 (R317). -/
def SCB_GSEL : Nat := 0x800000
/-- TX register of Table 12-13 (R317). -/
def SCB_GENTw : Nat := 0x800008
/-- RO register of Table 12-13 (R317). -/
def SCB_GSTAT : Nat := 0x800028
/-- TX register of Table 12-13 (R317). -/
def SCB_MC_RESERVE : Nat := 0x800100
/-- RW register of Table 12-13 (R317). -/
def SCB_REPAIR_TMO : Nat := 0x800104
/-- RO register of Table 12-13 (R317). -/
def SCB_ACTIVE : Nat := 0x800108
/-- RO register of Table 12-13 (R317). -/
def SCB_CHUNK_TX : Nat := 0x800200
/-- RO register of Table 12-13 (R317). -/
def SCB_CHUNK_RX : Nat := 0x800204
/-- RO register of Table 12-13 (R317). -/
def SCB_CRC_FAIL : Nat := 0x800208
/-- RO register of Table 12-13 (R317). -/
def SCB_MC_REPAIR : Nat := 0x80020c
/-- RO register of Table 12-13 (R317). -/
def SCB_MC_FALLBACK : Nat := 0x800210
/-- RO register of Table 12-13 (R317). -/
def SCB_STALE_DROP : Nat := 0x800214
/-- RO register of Table 12-13 (R317). -/
def SCB_MISMATCH : Nat := 0x800218
/-- RO register of Table 12-13 (R317). -/
def SCB_ABORT : Nat := 0x80021c
/-- RO register of Table 12-13 (R317). -/
def SCB_INST_WAIT : Nat := 0x800220
/-- RO register of Table 12-13 (R317). -/
def SCB_LAND_WAIT : Nat := 0x800224
/-- RO register of Table 12-13 (R317). -/
def SCB_ACC_WAIT : Nat := 0x800228

/-! TGD registers -/
/-- RW register of Table 13-10 (R342). -/
def TGD_TSEL : Nat := 0x900000
/-- TX register of Table 13-10 (R342). -/
def TGD_TOWN : Nat := 0x900004
/-- RO register of Table 13-10 (R342). -/
def TGD_TSTAT : Nat := 0x900008
/-- RW register of Table 13-10 (R342). -/
def TGD_CSEL : Nat := 0x90000c
/-- TX register of Table 13-10 (R342). -/
def TGD_CDEPTH : Nat := 0x900010
/-- RO register of Table 13-10 (R342). -/
def TGD_CSTAT : Nat := 0x900014
/-- RW register of Table 13-10 (R342). -/
def TGD_KSEL : Nat := 0x900100
/-- TX register of Table 13-10 (R342). -/
def TGD_KENTw : Nat := 0x900108
/-- RO register of Table 13-10 (R342). -/
def TGD_KSTAT : Nat := 0x900128
/-- RO register of Table 13-10 (R342). -/
def TGD_SPARES : Nat := 0x900200
/-- RO register of Table 13-10 (R342). -/
def TGD_INV_START : Nat := 0x900300
/-- RO register of Table 13-10 (R342). -/
def TGD_INV_REJECT : Nat := 0x900304
/-- RO register of Table 13-10 (R342). -/
def TGD_KFAULT : Nat := 0x900308
/-- RO register of Table 13-10 (R342). -/
def TGD_LIMIT_STOP : Nat := 0x90030c
/-- RO register of Table 13-10 (R342). -/
def TGD_STAGE_FULL : Nat := 0x900310
/-- RO register of Table 13-10 (R342). -/
def TGD_MSG_REFUSED : Nat := 0x900314
/-- RO register of Table 13-10 (R342). -/
def TGD_REMAP : Nat := 0x900318

/-! MEM registers -/
/-- RO register of Table 15-7 (R388). -/
def MEM_CFG : Nat := 0xa00000
/-- RW register of Table 15-7 (R388). -/
def MEM_CSEL : Nat := 0xa00004
/-- RO register of Table 15-7 (R388). -/
def MEM_CSTAT : Nat := 0xa00008
/-- RO register of Table 15-7 (R388). -/
def MEM_CE : Nat := 0xa0000c
/-- RO register of Table 15-7 (R388). -/
def MEM_UE : Nat := 0xa00010
/-- RO register of Table 15-7 (R388). -/
def MEM_TAG_FAIL : Nat := 0xa00014
/-- RO register of Table 15-7 (R388). -/
def MEM_TAG_REREAD : Nat := 0xa00018
/-- RO register of Table 15-7 (R388). -/
def MEM_RET_USED : Nat := 0xa0001c
/-- RO register of Table 15-7 (R388). -/
def MEM_RET_LEFT : Nat := 0xa00020
/-- RO register of Table 15-7 (R388). -/
def MEM_RETRAIN : Nat := 0xa00024
/-- RO register of Table 15-7 (R388). -/
def MEM_Q_STALL : Nat := 0xa00028
/-- RO register of Table 15-7 (R388). -/
def MEM_PATROL_PASS : Nat := 0xa0002c
/-- RO register of Table 15-7 (R388). -/
def MEM_POISON_LAST : Nat := 0xa00030
/-- TX register of Table 15-7 (R388). -/
def MEM_PATROL_CFG : Nat := 0xa00100
/-- TX register of Table 15-7 (R388). -/
def MEM_RET_THR : Nat := 0xa00104
/-- TX register of Table 15-7 (R388). -/
def MEM_RETRAIN_CFG : Nat := 0xa00108
/-- TX register of Table 15-7 (R388). -/
def MEM_TERM_CFG : Nat := 0xa0010c
/-- RO register of Table 15-7 (R388). -/
def MEM_TERM_STAT : Nat := 0xa00110
/-- RO register of Table 15-7 (R388). -/
def MEM_QUAR : Nat := 0xa00114
/-- RW register of Table 15-7 (R388). -/
def MEM_KSEL : Nat := 0xa00120
/-- RO register of Table 15-7 (R388). -/
def MEM_KSTAT : Nat := 0xa00124

/-! SQM registers -/
/-- RW register of Table 16-5 (R399). -/
def SQM_QSEL : Nat := 0xb00000
/-- TX register of Table 16-5 (R399). -/
def SQM_QCFG : Nat := 0xb00004
/-- RO, W1C register of Table 16-5 (R399). -/
def SQM_QSTAT : Nat := 0xb00008
/-- WO register of Table 16-5 (R399). -/
def SQM_QPUSH : Nat := 0xb00010
/-- POP register of Table 16-5 (R399). -/
def SQM_QPOP : Nat := 0xb00018
/-- RO register of Table 16-5 (R399). -/
def SQM_QPOPTAG : Nat := 0xb00020
/-- RO register of Table 16-5 (R399). -/
def SQM_QDROP : Nat := 0xb00024
/-- RW register of Table 16-5 (R399). -/
def SQM_TSEL : Nat := 0xb00100
/-- TX register of Table 16-5 (R399). -/
def SQM_TQUOTA : Nat := 0xb00104
/-- RO register of Table 16-5 (R399). -/
def SQM_TUSED : Nat := 0xb00108
/-- RO register of Table 16-5 (R399). -/
def SQM_POOL : Nat := 0xb00110
/-- RO register of Table 16-5 (R399). -/
def SQM_RESERVE : Nat := 0xb00114
/-- RO register of Table 16-5 (R399). -/
def SQM_FULL_DROP : Nat := 0xb00200
/-- RO register of Table 16-5 (R399). -/
def SQM_UNDERRUN : Nat := 0xb00204
/-- RO register of Table 16-5 (R399). -/
def SQM_PARITY_ERR : Nat := 0xb00208
/-- RO register of Table 16-5 (R399). -/
def SQM_CELL_RETIRE : Nat := 0xb0020c
/-- RO register of Table 16-5 (R399). -/
def SQM_QUOTA_DROP : Nat := 0xb00210

/-! CPH registers -/
/-- TX register of Table 17-6 (R413). -/
def CPH_PIPE_CFG : Nat := 0xc00000
/-- RO register of Table 17-6 (R413). -/
def CPH_PIPE_STAT : Nat := 0xc00004
/-- RW register of Table 17-6 (R413). -/
def CPH_KSEL : Nat := 0xc00010
/-- RO register of Table 17-6 (R413). -/
def CPH_KSTAT : Nat := 0xc00014
/-- RW register of Table 17-6 (R413). -/
def CPH_TSEL : Nat := 0xc00020
/-- TX register of Table 17-6 (R413). -/
def CPH_TCFG : Nat := 0xc00024
/-- TX register of Table 17-6 (R413). -/
def CPH_TSAVE_CTX : Nat := 0xc00028
/-- TX register of Table 17-6 (R413). -/
def CPH_TSAVE_BASE : Nat := 0xc00030
/-- TX register of Table 17-6 (R413). -/
def CPH_TSAVE_COUNT : Nat := 0xc00038
/-- RO register of Table 17-6 (R413). -/
def CPH_SEAL_SLOT : Nat := 0xc00040
/-- RO register of Table 17-6 (R413). -/
def CPH_SEAL_SEQ : Nat := 0xc00048
/-- RO register of Table 17-6 (R413). -/
def CPH_AUTH_FAIL : Nat := 0xc00100
/-- RO register of Table 17-6 (R413). -/
def CPH_SLOT_MISS : Nat := 0xc00104
/-- RO register of Table 17-6 (R413). -/
def CPH_CTX_WAIT : Nat := 0xc00108
/-- RO register of Table 17-6 (R413). -/
def CPH_CTX_SAVE : Nat := 0xc0010c
/-- RO register of Table 17-6 (R413). -/
def CPH_STAGE_DROP : Nat := 0xc00110
/-- RO register of Table 17-6 (R413). -/
def CPH_RESERVE : Nat := 0xc00114
/-- RO register of Table 17-6 (R413). -/
def CPH_BLOCKS : Nat := 0xc00118

/-! RSP registers -/
/-- RO register of Table 18-10 (R436). -/
def RSP_STAT : Nat := 0xd00000
/-- WO register of Table 18-10 (R436). -/
def RSP_MBX_DB : Nat := 0xd00004
/-- RO register of Table 18-10 (R436). -/
def RSP_MBX_STAT : Nat := 0xd00008
/-- RO register of Table 18-10 (R436). -/
def RSP_TENANT : Nat := 0xd0000c
/-- RO register of Table 18-10 (R436). -/
def RSP_SVN : Nat := 0xd00010
/-- RO register of Table 18-10 (R436). -/
def RSP_DEBUG_NONCEw : Nat := 0xd00020
/-- RW register of Table 18-10 (R436). -/
def RSP_TSEL : Nat := 0xd00040
/-- TX register of Table 18-10 (R436). -/
def RSP_TKEYQ : Nat := 0xd00044
/-- RO register of Table 18-10 (R436). -/
def RSP_TSTAT : Nat := 0xd00048
/-- RO register of Table 18-10 (R436). -/
def RSP_SESS_FAIL : Nat := 0xd00100
/-- RO register of Table 18-10 (R436). -/
def RSP_KEY_LOADS : Nat := 0xd00104
/-- RO register of Table 18-10 (R436). -/
def RSP_TEARDOWNS : Nat := 0xd00108
/-- RO register of Table 18-10 (R436). -/
def RSP_REPLY_DROP : Nat := 0xd0010c
/-- RO register of Table 18-10 (R436). -/
def RSP_DRBG_WAIT : Nat := 0xd00110

/-! MGT registers -/
/-- RO register of Table 19-11 (R458). -/
def MGT_BOOT_STATUS : Nat := 0xe00000
/-- W1S register of Table 19-11 (R458). -/
def MGT_BOOT_CTL : Nat := 0xe00004
/-- TX register of Table 19-11 (R458). -/
def MGT_BOOT_TMO : Nat := 0xe00008
/-- RO register of Table 19-11 (R458). -/
def MGT_BOOT_TIME : Nat := 0xe0000c
/-- RW register of Table 19-11 (R458). -/
def MGT_CIC_HADDR : Nat := 0xe00100
/-- WO register of Table 19-11 (R458). -/
def MGT_CIC_CMD : Nat := 0xe00108
/-- RO register of Table 19-11 (R458). -/
def MGT_CIC_STAT : Nat := 0xe0010c
/-- RO register of Table 19-11 (R458). -/
def MGT_CIC_SLOTs : Nat := 0xe00110
/-- RO register of Table 19-11 (R458). -/
def MGT_CIC_IMGs : Nat := 0xe00120
/-- TX register of Table 19-11 (R458). -/
def MGT_CIC_CFG : Nat := 0xe00130
/-- RO register of Table 19-11 (R458). -/
def MGT_CIC_FMT_OFFER : Nat := 0xe00134
/-- RO register of Table 19-11 (R458). -/
def MGT_CIC_HEALTH : Nat := 0xe00138
/-- RO register of Table 19-11 (R458). -/
def MGT_CIC_STORED : Nat := 0xe00140
/-- RO register of Table 19-11 (R458). -/
def MGT_CIC_REFUSED : Nat := 0xe00144
/-- RO register of Table 19-11 (R458). -/
def MGT_CIC_BUSY : Nat := 0xe00148
/-- RO register of Table 19-11 (R458). -/
def MGT_BOOT_FAILED : Nat := 0xe0014c
/-- WO register of Table 20-4 (R474). -/
def MGT_CFG_CTL : Nat := 0xe00200
/-- RO register of Table 20-4 (R474). -/
def MGT_CFG_TOKEN : Nat := 0xe00208
/-- RO register of Table 20-4 (R474). -/
def MGT_CFG_STAT : Nat := 0xe0020c
/-- RO register of Table 20-4 (R474). -/
def MGT_CFG_RES : Nat := 0xe00210
/-- RO register of Table 20-4 (R474). -/
def MGT_CFG_OFF : Nat := 0xe00214
/-- RW register of Table 20-4 (R474). -/
def MGT_GRANT_LO : Nat := 0xe00218
/-- TX register of Table 20-4 (R474). -/
def MGT_GRANT_HI : Nat := 0xe00220
/-- RW register of Table 20-4 (R474). -/
def MGT_RES_SEL : Nat := 0xe00228
/-- RO register of Table 20-4 (R474). -/
def MGT_RES_ENT : Nat := 0xe00230
/-- RO register of Table 20-4 (R474). -/
def MGT_CFG_COMMITS : Nat := 0xe00240
/-- RO register of Table 20-4 (R474). -/
def MGT_CFG_FAILS : Nat := 0xe00244
/-- RO register of Table 20-4 (R474). -/
def MGT_CFG_TIMEOUTS : Nat := 0xe00248
/-- RO register of Table 20-4 (R474). -/
def MGT_CFG_ORPHAN : Nat := 0xe0024c
/-- TX register of Table 20-4 (R474). -/
def MGT_PROF_PWR : Nat := 0xe00300
/-- W1S register of Table 20-4 (R474). -/
def MGT_PROF_CTL : Nat := 0xe00308
/-- RO register of Table 20-4 (R474). -/
def MGT_PROF_STAT : Nat := 0xe0030c
/-- TX register of Table 1-6 (R25). -/
def MGT_PWR_CAP : Nat := 0xe00400
/-- RO register of Table 1-6 (R25). -/
def MGT_PWR_STAT : Nat := 0xe00404
/-- RO register of Table 1-6 (R25). -/
def MGT_TILE_FREQ : Nat := 0xe00408
/-- RO register of Table 1-6 (R25). -/
def MGT_PWR_STEPS : Nat := 0xe0040c
/-- RO register of Table 2-8 (R43). -/
def MGT_STRAP : Nat := 0xe00500
/-- RO register of Table 2-8 (R43). -/
def MGT_THERM : Nat := 0xe00504
/-- RO register of Table 2-8 (R43). -/
def MGT_INPUT : Nat := 0xe00508
/-- RW register of Table 2-8 (R43). -/
def MGT_LED_CTL : Nat := 0xe0050c
/-- RO register of Table 2-8 (R43). -/
def MGT_THERM_HOLDS : Nat := 0xe00510

/-! FEV registers -/
/-- RO register of Table 21-8 (R487). -/
def FEV_TIME : Nat := 0xf00000
/-- POP register of Table 21-8 (R487). -/
def FEV_FQ_POP : Nat := 0xf00008
/-- RO register of Table 21-8 (R487). -/
def FEV_FQ_TAG : Nat := 0xf00010
/-- RW register of Table 21-8 (R487). -/
def FEV_FQ_CTL : Nat := 0xf00014
/-- W1C register of Table 21-8 (R487). -/
def FEV_FQ_SUMMARY : Nat := 0xf00018
/-- POP register of Table 21-8 (R487). -/
def FEV_EQ_POP : Nat := 0xf00020
/-- RO register of Table 21-8 (R487). -/
def FEV_EQ_TAG : Nat := 0xf00028
/-- RW register of Table 21-8 (R487). -/
def FEV_EQ_CTL : Nat := 0xf0002c
/-- W1C register of Table 21-8 (R487). -/
def FEV_EQ_SUMMARY : Nat := 0xf00030
/-- RW register of Table 21-8 (R487). -/
def FEV_CLS_SEL : Nat := 0xf00100
/-- RO register of Table 21-8 (R487). -/
def FEV_CLS_WRITTEN : Nat := 0xf00104
/-- RO register of Table 21-8 (R487). -/
def FEV_CLS_OVF : Nat := 0xf00108
/-- RO register of Table 21-8 (R487). -/
def FEV_CLS_SUPP : Nat := 0xf0010c
/-- TX register of Table 21-8 (R487). -/
def FEV_RATE : Nat := 0xf00110
/-- RO register of Table 21-8 (R487). -/
def FEV_PEER_COAL : Nat := 0xf00200
/-- RO register of Table 21-8 (R487). -/
def FEV_NOTICE_SUPP : Nat := 0xf00204
/-- RO register of Table 21-8 (R487). -/
def FEV_PEER_TBL_FULL : Nat := 0xf00208
/-- RO register of Table 21-8 (R487). -/
def FEV_XSTALL : Nat := 0xf0020c
/-- RO register of Table 21-8 (R487). -/
def FEV_XHANG : Nat := 0xf00210
/-- RW register of Table 21-8 (R487). -/
def FEV_SPARE_SEL : Nat := 0xf00220
/-- RO register of Table 21-8 (R487). -/
def FEV_SPARE_STAT : Nat := 0xf00228

end Sys2Proof.Machine.Reg
end

