-- ==== Sys2Proof/Machine/State.lean ====
section
/-! DEFINITION. The state of the block: every register, queue, table and mode the spec gives the T9, as plain data, and
the state after reset. -/
namespace Sys2Proof.Machine

/-! ## Reports, records and what leaves the block -/

/-- A variant of Table 0-1 (R1). -/
inductive Variant
  | tcn9416 | tcn9412 | tcn9404
deriving DecidableEq, Repr

/-- One thing the block sends out. The list `State.out` holds them, newest first. -/
inductive Output
  /-- An MSI-X message of a function's vector (R65). -/
  | msix (fn vec : Nat)
  /-- A posted write on the host or peer bus: the function whose requester ID it carries (R135), address, bytes, Relaxed Ordering,
  EP (R71, R379). -/
  | busWrite (fn addr : Nat) (bytes : List Byte) (ro ep : Bool)
  /-- A read on the host or peer bus, with the function whose requester ID it carries (R135). -/
  | busRead (fn : Nat) (tag : BusTag) (addr len : Nat)
  /-- A zero-length read that flushes a peer page (R72), with the function of its requester ID. -/
  | flushRead (fn : Nat) (tag : BusTag) (addr : Nat)
  /-- A PCIe AtomicOp on a host or peer page (R193), with the function of its requester ID. -/
  | atomicOp (fn : Nat) (tag : BusTag) (addr : Nat) (swap cas : Bool) (a b : W64)
  /-- The data of a window or data-port read, with EP (R51). -/
  | readData (fn : Nat) (bytes : List Byte) (ep : Bool)
  /-- The value a register read returns. -/
  | regData (fn : Nat) (value : W64)
  /-- A cell handed to a link or to the local ejection point. -/
  | cell (link : Nat) (c : Cell)
  /-- An Ethernet frame handed to a port. -/
  | frame (port : Nat) (bytes : List Byte)
  /-- A PFC frame: port, priority and quanta (R274). -/
  | pfc (port prio quanta : Nat)
  /-- A lane message of R285 to R288 on a connector. -/
  | laneMsg (conn : Nat) (kind pos arg : Nat)
  /-- A training block of a link (R245). -/
  | training (link : Nat)
  /-- A Cicada STATUS reply on its path (R448). -/
  | cicada (path : CicPath) (token result : Nat) (body : List Byte)
  /-- An SPDM or RSP reply (Table 18-4): the tenant or 256 + management session, and its bytes. -/
  | rsp (fn : Nat) (kind tag status : Nat) (body : List Byte)
  /-- A record returned to management over MCTP (R486). -/
  | standby (words : List W64)
  /-- A MGMT cell handed to the fleet service (R238). -/
  | mgmt (c : Cell)
  /-- A write to a module over CMIS (R291): cage, high power or low power. -/
  | module (cage : Nat) (highPower : Bool)
deriving DecidableEq, Repr

/-- Who issued a message: an entry of a queue, a response to a peer's message, a Scarab transfer, a tile transfer or message. -/
inductive Issuer
  | entry (queue idx : Nat)
  | response
  | scarab (group id : Nat)
  | tile (tile id : Nat)
deriving DecidableEq, Repr

/-- An access that waits: for a table word from the host (R140, Table 6-9), or at a controller that holds it (R381, R386).
It proceeds when what it waits for is there. -/
inductive Waiter
  | windowWrite (fn : Nat) (ctx : W64) (va : Nat) (bytes : List Byte)
  | windowRead (fn : Nat) (ctx : W64) (va len : Nat) (bus : Option (List Byte))
  | portWrite (port : Nat) (ctx : W64) (va : Nat) (bytes : List Byte)
  | portRead (port : Nat) (ctx : W64) (va off len : Nat) (bus : Option (List Byte))
  | memWrite (tenant addr : Nat) (bytes : List Byte)
  | memRead (tenant addr len : Nat) (finding : Finding)
  | ringRead (queue idx count : Nat)
  | fragTable (queue idx : Nat)
  | entryStart (queue idx : Nat)
  | entryFinish (queue idx : Nat)
  | headWrite (queue : Nat)
  | packet (k : Packet)
  | framePlace (queue idx : Nat) (bytes : List Byte) (word imm : Nat)
  | pick (egress : Nat)
  | execHead (conn msn : Nat) (bus : Option (List Byte))
  | issuerEnd (i : Issuer) (status : Nat)
  | tileBurst (tile id : Nat)
  | tableRead
  | nodeGone (node : Nat)
  | laneLater (conn : Nat)
deriving DecidableEq, Repr

/-! ## Power, election, boot and Cicada -/

/-- The boot stages of Table 19-1, in their code order. -/
inductive Stage
  | standby | rsp | mgt | main | memory | units | running | minimal
deriving DecidableEq, Repr

/-- The boot record of Table 19-3 without its CRC and reserved bytes. -/
structure BootRec where
  seq : Nat := 1
  active : Nat := 0
  trial : Nat := 0
  fails : Nat := 0
  prev : Nat := 1
  state0 : Nat := 4
  state1 : Nat := 0
deriving DecidableEq, Repr

/-- One flash copy of the boot record, with its stored CRC (R445). -/
structure BootCopy where
  body : BootRec := {}
  crc : W32 := 0
deriving DecidableEq, Repr

/-- An image slot in flash (Table 19-7, R446): state code, header fields and the pieces held. -/
structure Slot where
  state : Nat := 0
  svn : Nat := 0
  image : Nat := 0
  npieces : Nat := 0
  tpieces : Nat := 0
  pieces : List (Nat × List Byte) := []
deriving DecidableEq, Repr

/-- A profile record of R471: a PF TX register, its selector and its value. -/
structure ProfRec where
  off : Nat
  sel : Nat
  value : W64
deriving DecidableEq, Repr

/-- The fuses (R432, R447): security version, lifecycle code, key revocation, and whether the UDS is blocked. -/
structure Fuses where
  svn : Nat := 0
  lifecycle : Nat := 1
  revoked0 : Bool := false
  revoked1 : Bool := false
  udsBlocked : Bool := false
deriving DecidableEq, Repr

/-- What the flash holds besides certificates: the boot record, the slots, the profiles, the count of failed boots. -/
structure Flash where
  recA : BootCopy := { crc := 0xB75E9BE4 }
  recB : BootCopy := {}
  slot0 : Slot := { state := 4 }
  slot1 : Slot := {}
  factory : List ProfRec := []
  factoryOk : Bool := true
  user : List ProfRec := []
  userOk : Bool := true
  userErase : Bool := false
  failedBoots : Nat := 0
deriving DecidableEq, Repr

/-- The power and thermal controller (R21 to R25, R30 to R34). -/
structure Power where
  stby : Bool := true
  v48 : Bool := false
  mainOn : Bool := false
  perst : Bool := true
  sumW : Nat := 0
  samples : Nat := 0
  avgW : Nat := 0
  stage2 : Bool := false
  tileMhz : Nat := 1800
  cyc : Nat := 0
  cycAt : Nat := 0
  hold : Bool := false
  shutdownCause : Nat := 0
deriving DecidableEq, Repr

/-- Boot and election state of the standby domain (R12 to R16, R437 to R444). -/
structure Boot where
  stage : Stage := .standby
  straps : Straps := {}
  sampled : Bool := false
  firstClaim : Option Nat := none
  primary : Nat := 0
  rspPass : BitVec 4 := 0
  dead : Bool := false
  reason : Nat := 0
  prev : Nat := 1
  slot : Nat := 0
  trial : Bool := false
  diag : Bool := false
  minimal : Bool := false
  romOnly : Bool := false
  scrubbed : Bool := false
  mainGoodAt : Nat := 0
  bootMs : Nat := 0
  healthOpen : Bool := false
  healthAt : Nat := 0
  selftestOk : Bool := false
  confirmed : Bool := false
  nowReset : Bool := false
  msixBad : Bool := false
deriving DecidableEq, Repr

/-- A piece buffer of Cicada (R449): image, piece, its length, and the bytes received by fragment. -/
structure PieceBuf where
  image : Nat
  index : Nat
  plen : Nat
  frags : List (Nat × List Byte)
deriving DecidableEq, Repr

/-- Cicada (R446 to R457). -/
structure Cicada where
  buffers : List PieceBuf := []
  hostBusy : Bool := false
  hostResult : Nat := 0
deriving DecidableEq, Repr

/-! ## Configuration transactions -/

/-- A staged write or grant record (R460, R463): BAR0 offset, value, and the selection in effect. -/
structure Staged where
  off : Nat
  value : W64
  sel : Nat := 0
  grantLo : W64 := 0
deriving DecidableEq, Repr

/-- The open transaction of a function (R459). -/
structure Txn where
  token : Nat
  staged : List Staged := []
  overflow : Bool := false
  touched : Nat := 0
deriving DecidableEq, Repr

/-- A closed commit waiting for its place in the device-wide order (R467, R468): once validated, the blocks that have taken the new state,
the registers whose value changes (offset, selection), and the resources that change hands (tenant, resource ID, granted). -/
structure Commit where
  fn : Nat
  txn : Txn
  save : Bool
  validated : Bool := false
  applied : List Nat := []
  changed : List (Nat × Nat) := []
  moves : List (Nat × Nat × Bool) := []
deriving DecidableEq, Repr

/-! ## Host functions -/

/-- An MSI-X vector of a function (R65). -/
structure Vector where
  masked : Bool := true
  pending : Bool := false
  addr : W64 := 0
  data : W32 := 0
deriving DecidableEq, Repr

/-- A PCIe function: what HIF, MGT, SQM and FEV keep for it alone. -/
structure Fn where
  abi : Nat := 0
  badCtx : Bool := false
  teardown : Bool := false
  held : Option (Nat × W32) := none
  notGranted : Bool := false
  txn : Option Txn := none
  cfgBusy : Bool := false
  cfgResult : Nat := 0
  cfgRes : Nat := 0
  cfgOff : Nat := 0
  nextToken : Nat := 1
  vectors : Tbl Vector := []
  popTag : Nat := 0
  fqTag : Nat := 0
  eqTag : Nat := 0
  roEnable : Bool := true
  cplTmo : Nat := 50000000
deriving DecidableEq, Repr

/-- A bulk data port (R54 to R57). -/
structure Port where
  badCommit : Bool := false
  badCtx : Bool := false
  fault : Bool := false
  pfMiss : Nat := 0
  highest : Nat := 0
  fetched : Nat := 0
  prefetch : Tbl Byte := []
  epoch : Nat := 0
deriving DecidableEq, Repr

/-- SR-IOV state and link of the host interface (R45, R46). `arrivals`: the queue contexts whose doorbells wait for WQM, in the order of
arrival (R59). -/
structure Hif where
  numVfs : Nat := 0
  vfEnable : Bool := false
  speed : Nat := 7
  width : Nat := 16
  winCode : Nat := 2
  pfVec : Nat := 512
  vfVec : Nat := 6
  ports : Tbl Port := []
  arrivals : List Nat := []
deriving DecidableEq, Repr

/-! ## Shared queue memory -/

/-- A stored word with its 2-bit tag: 0 DATA, 1 MARKER, 2 POISON (R389). -/
structure SqmWord where
  data : W64
  tag : Nat
deriving DecidableEq, Repr

/-- A cell of a queue: the slice it came from and whether a parity error was found in it (R390, R395). -/
structure SqmCell where
  slice : Nat
  bad : Bool
deriving DecidableEq, Repr

/-- One SQM queue (R392 to R398). -/
structure SqmQ where
  words : List SqmWord := []
  headOff : Nat := 0
  cells : List SqmCell := []
  marker : Nat := 0
  last : W64 := 0
  underrun : Bool := false
  drops : Nat := 0
  clearing : Bool := false
deriving DecidableEq, Repr

/-- The shared queue memory: queues, free cells per slice, reserve per slice, cells charged per tenant. -/
structure Sqm where
  queues : Tbl SqmQ := []
  free0 : Nat := 30720
  free1 : Nat := 30720
  free2 : Nat := 30720
  free3 : Nat := 30720
  res0 : Nat := 2048
  res1 : Nat := 2048
  res2 : Nat := 2048
  res3 : Nat := 2048
  used : Tbl Nat := []
  tileQuad : Tbl Nat := []
deriving DecidableEq, Repr

/-! ## Firefly -/

/-- A class of a queue: its rate bucket (in 10⁻⁹ records), when it was last filled, and its counts (R480, R481). -/
structure FevClass where
  level : Nat := 64000000000
  at_ : Nat := 0
  written : Nat := 0
  ovf : Nat := 0
  supp : Nat := 0
  held : Nat := 0
deriving DecidableEq, Repr

/-- A record queue of Firefly: sequence, summary, whether a message is outstanding, whether Firefly still writes it. -/
structure FevQueue where
  rseq : W32 := 0
  summary : BitVec 20 := 0
  msgOut : Bool := false
  stopped : Bool := false
deriving DecidableEq, Repr

/-- A peer-suspect window (R482): key, when it opened, reports in it, and the tenant, status and first QP to report. -/
structure Suspect where
  queue : Nat
  tenant : Nat
  node : Nat
  openAt : Nat
  count : Nat
  status : Nat
  first : Nat
deriving DecidableEq, Repr

/-- Firefly (chapter 21). Queue 0 is the fault queue, queue 1 + s tenant s's event queue; class key = queue · 32 + class. -/
structure Fev where
  queues : Tbl FevQueue := []
  classes : Tbl FevClass := []
  windows : List Suspect := []
  suppress : List Nat := []
  spare : Tbl Nat := []
  standby : List (List W64) := []
  unread : Nat := 0
deriving DecidableEq, Repr

/-! ## Memory tiers -/

/-- A memory controller (R371, R386): Table 15-8 STATE, flags, temperature. -/
structure Controller where
  state : Nat := 0
  retraining : Bool := false
  retiring : Option Nat := none
  temp : Nat := 0
  retired : List Nat := []
  errors : Tbl (List Nat) := []
  held : List Waiter := []
deriving DecidableEq, Repr

/-- A frame's ownership entry (R150, R151): ALLOC, OWNER, SCRUB, SHARED. -/
structure Frame where
  alloc : Bool := false
  owner : Nat := 0
  scrub : Bool := false
  shared : Bool := false
  quarantine : Bool := false
deriving DecidableEq, Repr

/-- A key set (R373): the tenant it was drawn for, K1 and K2 for XTS, KT for the tag, 32 bytes each. -/
structure KeySet where
  tenant : Nat := 0
  k1 : List Byte := []
  k2 : List Byte := []
  kt : List Byte := []
deriving DecidableEq, Repr

/-- A 64-byte block's state beside its data (R375): POISON, and the number of the key set that its ciphertext and tag were made with (0:
the zero state of R377). -/
structure Blk where
  poison : Bool := false
  set : Nat := 0
deriving DecidableEq, Repr

/-- The memory subsystem. `bytes` is the whole local physical address space: of each block, the bytes that its ciphertext deciphers to under
the set it was made with. `blocks` holds the state of 64-byte blocks; `keySets` the quadrants that hold a tenant's set, `keyNow` the number of
that set by tenant · 4 + quadrant, `keys` the sets drawn since boot by number, `zeroSet` the device zero key set (R377). -/
structure Mem where
  bytes : Tbl Byte := []
  blocks : Tbl Blk := []
  controllers : Tbl Controller := []
  frames : Tbl Frame := []
  keySets : Tbl (BitVec 4) := []
  keyNow : Tbl Nat := []
  keys : Tbl KeySet := []
  keysDrawn : Nat := 0
  zeroSet : KeySet := {}
  tileScrub : Tbl Bool := []
  ilv : Nat := 0
  quarantined : Nat := 0
deriving DecidableEq, Repr

/-! ## Translation, regions, tenants -/

/-- A translation context (R134 to R149): its registers, its epoch, and its transfers in flight by epoch. -/
structure Ctx where
  root : W64 := 0
  valid : Bool := false
  fabricEn : Bool := false
  refused : Bool := false
  epoch : BitVec 16 := 0
  fault : W64 := 0
  inflight : Tbl Nat := []
  walking : List BusTag := []
deriving DecidableEq, Repr

/-- A cached translation: context, page base and size, and the leaf entry (R142). -/
structure Cached where
  ctx : Nat
  base : Nat
  size : Nat
  leaf : W64
deriving DecidableEq, Repr

/-- A table word of a host-resident table, kept until the walk that asked for it is over (R141). `none`: the read failed. -/
structure WalkWord where
  ctx : Nat
  addr : Nat
  word : Option W64
deriving DecidableEq, Repr

/-- An access that waits for a walk (R140, Table 6-9). -/
structure Stalled where
  ctx : Nat
  addr : Nat
  cmd : Waiter
deriving DecidableEq, Repr

/-- A region entry (Table 6-4). STATE 0 FREE, 1 VALID, 2 REVOKING. -/
structure Region where
  state : Nat := 0
  rights : Nat := 0
  gen : BitVec 8 := 0
  ctx : Nat := 0
  kernel : Nat := 0
  base : W64 := 0
  len : W64 := 0
  admitted : Nat := 0
  waiting : List (Nat × Nat) := []
deriving DecidableEq, Repr

/-- The address translation unit. `regionWait`: heads that wait for a region-cache entry, and `fragWait`: indirect entries that do (R158). -/
structure Atu where
  ctxs : Tbl Ctx := []
  cache : List Cached := []
  walk : List WalkWord := []
  stalled : List Stalled := []
  ready : List Waiter := []
  regionWait : List Packet := []
  fragWait : List (Nat × Nat) := []
  regions : Tbl Region := []
deriving DecidableEq, Repr

/-- The sealing slots and salts of one KEYSEL (R410, R426), host direction and device direction. -/
structure SealPair where
  valid : Bool := false
  host : Nat := 0
  dev : Nat := 0
  hostSalt : List Byte := []
  devSalt : List Byte := []
deriving DecidableEq, Repr

/-- A tenant slot (Table 18-7): state 0 EMPTY, 1 ACTIVE, 2 QUIESCING, 3 DESTROYING, 4 SCRUBBING; mode 0 open, 1 sealed,
2 report; the status of its last teardown; its measurement (R420); whether it has sealed since ACTIVATE and the session that did; its
bounce ranges; its sealing pairs, the KEYSEL in use and the next SEQ; its report key and the last nonce counter; the TENANT entries that
wait for its teardown; and the tiles and SQM queues that its teardown still has to clear. -/
structure Tenant where
  st : Nat := 0
  mode : Nat := 0
  lastStatus : Nat := 0
  meas : BitVec 384 := 0
  everSealed : Bool := false
  bound : Option Nat := none
  ranges : List (Nat × Nat) := []
  keysel : Nat := 0
  seal0 : SealPair := {}
  seal1 : SealPair := {}
  sealSeq : Nat := 0
  reportKey : List Byte := []
  reportCtr : Nat := 0
  waiting : List (Nat × Nat) := []
  clearTiles : List Nat := []
  clearQueues : List Nat := []
deriving DecidableEq, Repr

/-! ## The root security processor -/

/-- An SPDM session (R422): its number, whether FINISH has completed it, its ephemeral key while it exists, its secret, how often its keys
were updated, and when it was last heard. -/
structure Session where
  id : Nat
  established : Bool := false
  ephemeral : Option Nat := none
  secret : W64 := 0
  keyGen : Nat := 0
  lastBeat : Nat := 0
deriving DecidableEq, Repr

/-- An SPDM requester: tenant slot s, or 256 + m for MCTP (R422). Phase 0 nothing, 1 version, 2 capabilities, 3 algorithms. `refused`: it
did not select the algorithm set of Table 18-3. -/
structure Requester where
  phase : Nat := 0
  refused : Bool := false
  session : Option Session := none
deriving DecidableEq, Repr

/-- A tenant's RSP mailbox service (R423, R424): BUSY, the message taken from the mailbox (KIND, TAG, payload), a command of Table 18-5 that
it carried (code, payload), the status of the last reply, and a reply that waits for room. -/
structure Mailbox where
  busy : Bool := false
  msg : Option (Nat × Nat × List Byte) := none
  cmd : Option (Nat × List Byte) := none
  status : Nat := 0
  outWords : List W64 := []
deriving DecidableEq, Repr

/-- The RSP (chapter 18) besides tenants, keys and cipher slots. `measure`: the measurements of this boot by index (Table 18-2); `debug` and
`debugSeen`: DEBUG now and at its highest since cold power-up; `scrubFor`: what waits for a destroy-then-scrub (R433, R434): 0 nothing,
1 debug, 2 RMA. -/
structure Rsp where
  requesters : Tbl Requester := []
  boxes : Tbl Mailbox := []
  measure : Tbl (List Byte) := []
  debug : Nat := 0
  debugSeen : Nat := 0
  drbgOk : Bool := true
  entropyOk : Bool := true
  reseedAt : Nat := 0
  nonce0 : W64 := 0
  nonce1 : W64 := 0
  nonce2 : W64 := 0
  nonce3 : W64 := 0
  linkLost : BitVec 4 := 0
  nextSession : Nat := 1
  scrubFor : Nat := 0
deriving DecidableEq, Repr
/-! ## Work queues (chapter 4) -/

/-- Where a translation leads: a local physical address, a host or peer bus address, a fabric address (Table 6-2), or
plaintext of a sealed record of a transfer range (R409). -/
inductive Target
  | loc (a : Nat)
  | bus (a : Nat) (peer : Bool) (page : Nat)
  | fab (a : Nat)
  | sealed (ctx base rec_ off : Nat)
deriving DecidableEq, Repr

/-- A transfer that has been issued with a translation and is not over (R147): its context and epoch, and its pieces; a placement has the
number of its arrival as its turn (R114, R127). -/
structure Issued where
  key : Nat := 0
  ctx : Nat := 0
  epoch : Nat := 0
  len : Nat := 0
  pieces : List (Target × Nat) := []
  turn : Nat := 0
deriving DecidableEq, Repr

/-- A fragment of an indirect entry (Table 4-3). -/
structure Frag where
  addr : Nat
  len : Nat
  key : Nat
deriving DecidableEq, Repr

/-- An entry that WQM holds: its 64 bytes, its phase (0 waiting, 1 started, 2 effect complete, 3 finished with its header word
written), its status, FRAG and LENGTH, its epoch stamp (R145), its fragments, and what its verb has under way. -/
structure Entry where
  idx : Nat
  bytes : List Byte
  inl : Bool := false
  payload : List Byte := []
  phase : Nat := 0
  status : Nat := 0
  frag : Nat := 0
  len : Nat := 0
  epoch : Nat := 0
  stale : Bool := false
  frags : Option (List Frag) := none
  tblRead : Option Issued := none
  held : List Nat := []
  leaves : List (Nat × Nat) := []
  flushes : Nat := 0
  flushed : Bool := false
  waits : List (Nat × Nat) := []
  running : Bool := false
  taken : Bool := false
  assigned : Bool := false
  msn : Nat := 0
  conn : Nat := 0
  writes : List (Nat × List Byte) := []
  doneAt : Nat := 0
deriving DecidableEq, Repr

/-- An unowned entry below TAIL (R86): its index and the fetches made of it; eight mean that the re-fetch has given up. -/
structure Refetch where
  idx : Nat
  tries : Nat
deriving DecidableEq, Repr

/-- A ring read in flight (R85): first index, count, the transfer, and the indices that inline commands have claimed meanwhile (R87). -/
structure RingRead where
  idx : Nat
  count : Nat
  xfer : Issued
  claimed : List Nat := []
deriving DecidableEq, Repr

/-- A queue context: its registers (Tables 4-7 to 4-9), its indices, its inline slot (R60), the entries, the speculative hold.
STATE 0 DISABLED, 1 ACTIVE, 2 DRAINING, 3 ERROR. Indices are kept whole; registers show them modulo 2^32. -/
structure QueueC where
  ring : W64 := 0
  head : W64 := 0
  qctx : Nat := 0
  bind : Nat := 0
  ctl : Nat := 0x00808102
  mod : Nat := 1
  st : Nat := 0
  cfgRefused : Bool := false
  enableErr : Nat := 0
  tail : Nat := 0
  hd : Nat := 0
  fetch : Nat := 0
  db : Option Nat := none
  seq : Nat := 1
  slot : Tbl (Option Byte) := []
  inlineWait : Option (List Byte) := none
  entries : List Entry := []
  spec : List Entry := []
  specStop : Option Nat := none
  refetch : List Refetch := []
  reads : List RingRead := []
  headBusy : Bool := false
  headFlight : Nat := 0
  published : Nat := 0
  announced : Nat := 0
  finishedAt : List (Nat × Nat) := []
  disableReq : Bool := false
  headFloor : Nat := 0
deriving DecidableEq, Repr

/-! ## Transport, credits and the early store (chapters 7 and 8) -/

/-- Where the bytes of a message lie: its source segments in a context, or bytes that the device holds (an inline payload, an
atomic's old value, a reduced row, a reply), or local physical memory (an FREAD). -/
inductive Source
  | mem (tenant ctx : Nat) (segs : List (Nat × Nat))
  | data (bytes : List Byte)
  | phys (tenant addr : Nat)
deriving DecidableEq, Repr

/-- A message that is being sent (R177 to R179, R193): its number and code, its source, its head fields, how far it has been
sent, the reads under way in the order of their cells, what they have returned ahead of an earlier one (`held`), those that are for a cell
sent again (`reReads`), and what has come back. -/
structure SendMsg where
  msn : Nat
  resp : Bool := false
  opc : Nat
  by_ : Issuer
  tenant : Nat := 0
  cls : Nat := 4
  tc : Nat := 0
  ep : Nat := 0
  src : Source := .data []
  len : Nat := 0
  headLen : Nat := 0
  akey : Nat := 0
  raddr : Nat := 0
  imm : Option Nat := none
  varg : Nat := 0
  op1 : W64 := 0
  op2 : W64 := 0
  aop : Nat := 0
  headSent : Bool := false
  headCsn : Nat := 0
  next : Nat := 0
  retx : List Nat := []
  reHead : Bool := false
  reads : List Issued := []
  held : List (Nat × List Byte × Marks) := []
  reReads : List Nat := []
  rnr : Nat := 0
  rnrWait : Bool := false
  respLen : Nat := 0
  respUnits : Nat := 0
  respGot : List Nat := []
  rpend : List Issued := []
  rdata : List (Nat × List Byte × Marks) := []
  acked : Bool := false
  ackedAt : Nat := 0
  status : Nat := 0
  poison : Bool := false
  bad : Marks := []
  credWait : Bool := false
  region : Option Nat := none
deriving DecidableEq, Repr

/-- A CSN in flight (R188): the message, its offset or head, the units it carries, and when it was sent. -/
structure CsnRec where
  csn : Nat
  msn : Nat
  resp : Bool
  head : Bool
  off : Nat
  at_ : Nat
  units : Nat := 1
deriving DecidableEq, Repr

/-- A message being received (R181 to R185): its head's fields, whether it was admitted, its receive entry, the coverage of its
offsets, the placements under way, and its outcome; `own` is the status of its receive entry where that is not the message's own, with
the index of the fragment that failed. -/
structure RecvMsg where
  msn : Nat
  opc : Nat
  imm : Bool := false
  immData : Nat := 0
  akey : Nat := 0
  raddr : Nat := 0
  len : Nat := 0
  varg : Nat := 0
  op1 : W64 := 0
  op2 : W64 := 0
  aop : Nat := 0
  srcEp : Nat := 0
  dstEp : Nat := 0
  tenant : Nat := 0
  region : Nat := 0
  ctx : Nat := 0
  base : Nat := 0
  admitted : Bool := false
  counted : Bool := false
  needsRecv : Bool := false
  recv : Option (Nat × Nat) := none
  covered : List Nat := []
  pend : List Issued := []
  pendData : List (Nat × List Byte × Marks) := []
  staging : Tbl Byte := []
  executed : Bool := false
  waiting : Bool := false
  flushed : Bool := false
  complete : Bool := false
  status : Nat := 0
  poison : Bool := false
  leaves : List (Nat × Nat) := []
  flushes : Nat := 0
  own : Option Nat := none
  ownFrag : Nat := 0
deriving DecidableEq, Repr

/-- A grant a sender holds (R207): its sequence number and what is left of it. -/
structure Held where
  gseq : Nat
  left : Nat
deriving DecidableEq, Repr

/-- A connection: a QP (its number), or a channel (2^20 and above). STATE as TPE_QSTAT: 0 RESET, 1 CONNECTING, 2 READY,
3 CLOSING, 4 ERROR, 5 STANDBY, 6 HANDED_OVER. -/
structure Conn where
  cfg : W64 := 0
  key : Nat := 0
  ctl : Nat := 0x770
  twin : W64 := 0
  st : Nat := 0
  ver : Nat := 0
  errStatus : Nat := 0
  closing : Bool := false
  gotPeer : Bool := false
  initCsn : Nat := 0
  csn : Nat := 0
  msn : Nat := 0
  peerInit : Nat := 0
  peerMax : Nat := 0
  send : List SendMsg := []
  flight : List CsnRec := []
  peerCum : Nat := 0
  peerDone : Nat := 0
  cum : Nat := 0
  ooo : List Nat := []
  done : Nat := 0
  doneSet : List Nat := []
  recs : List (Nat × Nat × Nat) := []
  recv : List RecvMsg := []
  rnrAt : Option Nat := none
  sinceAck : Nat := 0
  lastCsn : Nat := 0
  retries : Nat := 0
  srtt : Nat := 0
  rttvar : Nat := 0
  rtoShift : Nat := 0
  rotation : Nat := 0
  grants : List Held := []
  lastGseq : Option Nat := none
  granted : List Held := []
  nextGseq : Nat := 0
  openGseq : Option Nat := none
  openCount : Nat := 0
  openLife : Nat := 0
  drawn : Bool := false
  openOver : Bool := false
  demandOut : Bool := false
  resumeMsn : Nat := 0
  rqNext : Nat := 0
  takenOver : Bool := false
  classes : List Nat := []
  expCsn : Option Nat := none
deriving DecidableEq, Repr

/-- A response-cache entry (R194): the source's node + 4096 · plane, its QP or channel, the MSN, and the outcome: a status and an
old value. -/
structure RcEntry where
  node : Nat
  conn : Nat
  msn : Nat
  status : Nat
  value : W64
  reduce : Bool
deriving DecidableEq, Repr

/-- A PCIe AtomicOp under way for a peer's ATOMIC (R193). -/
structure BusAtomic where
  conn : Nat
  msn : Nat
  xfer : Issued
deriving DecidableEq, Repr

/-- A mirror record of the partner (Table 7-7). -/
structure Mirror where
  word : Nat := 0
  twin : Nat := 0
  sqHead : Nat := 0
  headMsn : Nat := 0
  recvDone : Nat := 0
  rqNext : Nat := 0
  seq : W64 := 0
deriving DecidableEq, Repr

/-- The transport. Cells for a head that has not arrived wait in `early` (R180). `slices`: the service slices released, connection and class,
the first of a core being the one it serves (R168). `cached`: the contexts in the cache, the last used first, and `fetching` those on their
way to it (R166). `placings`: how many placements have been issued, which numbers them in the order of arrival. -/
structure Tpe where
  conns : Tbl Conn := []
  early : List (Nat × Cell) := []
  trackers : Nat := 0
  rcache : List RcEntry := []
  atomics : List BusAtomic := []
  dead : List (Nat × Nat) := []
  slices : List (Nat × Nat) := []
  spares : Nat := 2
  failed : List Nat := []
  mirrorIn : Tbl Mirror := []
  mirrorOut : Tbl Mirror := []
  mirrorIdx : Nat := 0
  partnerLive : Bool := false
  tookOver : Bool := false
  tableFault : Bool := false
  cached : List Nat := []
  fetching : List Nat := []
  placings : Nat := 0
deriving DecidableEq, Repr

/-- An exact fraction: the start tags and the virtual time of R216. -/
structure Frac where
  num : Nat := 0
  den : Nat := 1
deriving DecidableEq, Repr

/-- A class of an egress point: how far its tokens are below BURST and its committed tokens, in thousandths of a bit, its start tag, whether it was ready at the
last pick, and the connection served last. -/
structure Class where
  used : Int := 0
  committed : Int := 0
  start : Frac := {}
  ready : Bool := false
  last : Nat := 0
deriving DecidableEq, Repr

/-- An egress point and its receive path: the virtual time, the credit that is out, the pause, the cells queued for placement, the demand
list (connection and BACKLOG), what has been taken from the grant-rate bucket in ten-thousandths of a unit, the committed receive
buckets in 10⁻⁷ cells, what is left of the turn at the head of the list, f, and the cells of class 0 that wait for its tokens, each with its
connection (R216, R218). -/
structure Egress where
  vtime : Frac := {}
  outstanding : Nat := 0
  paused : Bool := false
  queued : Nat := 0
  demand : List (Nat × Nat) := []
  taken : Nat := 0
  gmin : Tbl Nat := []
  turn : Nat := 0
  factor : Nat := 1000
  waiting0 : List (Nat × Cell) := []
deriving DecidableEq, Repr

/-- Credits, scheduling and shaping. Class key = egress point · 64 + class. -/
structure Ccs where
  egress : Tbl Egress := []
  classes : Tbl Class := []
deriving DecidableEq, Repr

/-! ## The fabric router and the Ethernet ports (chapters 9 and 10) -/

/-- A fabric link (Table 9-12): STATE 0 OFF, 1 DOWN, 2 TRAINING, 3 UP, 4 HELD; whether lanes are reported to hold it to one lane;
version; reason; the peer's node and connector from training; DISABLE; the cells in its staging, oldest first; when it fell. -/
structure Link where
  st : Nat := 0
  oneLane : Bool := false
  ver : Nat := 0
  reason : Nat := 0
  peerNode : Nat := 0
  peerConn : Nat := 0
  disable : Bool := false
  staging : List Cell := []
  downs : List Nat := []
deriving DecidableEq, Repr

/-- A multicast copy or notice copy that waits for staging (R242). -/
structure HeldCopy where
  link : Nat
  cell : Cell
  at_ : Nat
deriving DecidableEq, Repr

/-- A local cell that waits for injection (R237): the tenant it acts for, its connection, and whether its wait is counted. -/
structure Inject where
  cell : Cell
  tenant : Nat
  conn : Nat
  waited : Bool := false
deriving DecidableEq, Repr

/-- An event of a link whose notice may still have to be sent by the higher end (R251), or that was passed to the device (R253):
the node pair, the connector pair, KIND, and the time. -/
structure LinkEvent where
  lo : Nat
  hi : Nat
  loConn : Nat
  hiConn : Nat
  kind : Nat
  at_ : Nat
deriving DecidableEq, Repr

/-- The router: links, the multicast hold, waiting injections, cells at the eject port with their input link (15: injected here), notices seen, events passed on, own events still open, and the cut
connectors of every node. -/
structure Frt where
  links : Tbl Link := []
  hold : List HeldCopy := []
  inject : List Inject := []
  seen : List (Nat × Nat) := []
  passed : List LinkEvent := []
  owed : List LinkEvent := []
  cut : Tbl (BitVec 6) := []
  nseq : Nat := 0
  eject : List (Nat × Cell) := []
deriving DecidableEq, Repr

/-- A raw frame to be sent (R271): its entry, its length, its class, the read of its bytes, and whether it is leaving. -/
structure RawTx where
  queue : Nat
  idx : Nat
  len : Nat
  cls : Nat
  xfer : Option Issued := none
  sent : Bool := false
deriving DecidableEq, Repr

/-- An Ethernet port: link state, pause received and held, raw frames in transmission. -/
structure EPort where
  up : Bool := false
  lf : Bool := false
  rf : Bool := false
  paused : BitVec 8 := 0
  holding : BitVec 8 := 0
  raw : List RawTx := []
deriving DecidableEq, Repr


/-! ## Lanes (chapter 11) -/

/-- A lane (Table 11-7): STATE 0 OFF, 1 TRAINING, 2 ACTIVE, 3 SPARE_IDLE, 4 CARRYING, 5 CALIBRATING, 6 FAILED; the position a spare
carries (7 none); DEGRADED; LOS. -/
structure Lane where
  st : Nat := 0
  carries : Nat := 7
  degraded : Bool := false
  los : Bool := false
deriving DecidableEq, Repr

/-- The rotation of a connector (R284 to R289): PERMANENT; the step's phase (0 none, 1 asked, 2 copying out, 3 calibrating, 4 copying back);
its position; the two ends' MATCH (or, when calibrating, BACK); restarts of the match; the named marker; the next position; positions to
take out of turn; RECAL, FORCE_FAIL and RESTORE writes that wait for the step's end (lane, kind). -/
structure Rot where
  perm : Bool := false
  phase : Nat := 0
  pos : Nat := 0
  mine : Bool := false
  peer : Bool := false
  restarts : Nat := 0
  marker : Option Nat := none
  next : Nat := 0
  urgent : List Nat := []
  later : List (Nat × Nat) := []
deriving DecidableEq, Repr

/-- A cage's module (LNS_MOD_STAT), and whether it reports a fault through CMIS (Table 2-7). -/
structure Module where
  present : Bool := false
  ready : Bool := false
  high : Bool := false
  refused : Bool := false
  fault : Bool := false
  rev : Nat := 0
  power : Nat := 0
deriving DecidableEq, Repr

/-- Lanes 0 to 37, the rotation of each connector, the cages. -/
structure Lns where
  lanes : Tbl Lane := []
  rots : Tbl Rot := []
  modules : Tbl Module := []
deriving DecidableEq, Repr
/-! ## The tile grid (chapters 13 and 14) -/

/-- A DMA burst under way (R357): its tile offset, its context address, its transfer, and the bytes it writes with their poison. -/
structure Burst where
  toff : Nat
  va : Nat
  xfer : Issued
  bytes : List Byte := []
  poison : Marks := []
deriving DecidableEq, Repr

/-- A DMAX operation (R357): tag, direction, the place and length of row 0, the rows and strides, the place of the next burst, and
the burst under way. -/
structure TileDma where
  id : Nat
  tag : Nat
  toCtx : Bool
  toff : Nat
  va : Nat
  len : Nat
  rows : Nat := 1
  tstride : Nat := 0
  cstride : Nat := 0
  row : Nat := 0
  done : Nat := 0
  burst : Option Burst := none
deriving DecidableEq, Repr

/-- A SEND (R362, R363): KIND 0 to a tile or aperture of this device (it waits for space), 1 to another node, 2 a reply. -/
structure TileSend where
  id : Nat
  tag : Nat
  kind : Nat
  target : Nat := 0
  ch : Nat := 0
  words : List W64 := []
deriving DecidableEq, Repr

/-- A logical tile (Tables 13-9, 13-11, 14-1): STATE 0 ABSENT, 1 CLEARING, 2 IDLE, 3 RUNNING, 4 REMAPPING; its site; its registers,
predicates, vectors (register · 128 + lane), accumulators (register · 9,216 + row · 96 + column), tag counts, csrs; the running
invocation with its channel and unread argument words; what its DMA and message units have under way. -/
structure Tile where
  st : Nat := 0
  onSpare : Bool := false
  site : Nat := 0
  g : Tbl W64 := []
  p : BitVec 8 := 1
  v : Tbl W32 := []
  acc : Tbl W32 := []
  pc : Nat := 0
  counts : Tbl Nat := []
  mfmt : W64 := 0x33
  mshape : W64 := 0x00206060
  mstride : W64 := 0
  ostride : W64 := 0x180
  dcount : W64 := 1
  dtstride : W64 := 0
  dcstride : W64 := 0
  tstat0 : W64 := 0
  tstat1 : W64 := 0
  fflags : W64 := 0
  handle : Nat := 0
  kernel : Nat := 0
  ch : Nat := 0
  argLeft : Nat := 0
  startCyc : Nat := 0
  dmas : List TileDma := []
  sends : List TileSend := []
  atomDest : Option Nat := none
  atomXfer : Issued := {}
  nextId : Nat := 0
  recvmDone : Nat := 0
  stopping : Bool := false
deriving DecidableEq, Repr

/-- An invocation (R331 to R338): its kernel, where it came from, its fields, its set in rank order, the tiles that have not ended it,
whether its records are written, the status its outcome is fixed at, its reply, and whether the requester knows the outcome. -/
structure Invocation where
  kernel : Nat
  conn : Nat
  msn : Nat
  region : Nat
  argLen : Nat
  replyMax : Nat
  ch : Nat
  all : Bool
  tiles : List Nat
  live : List Nat
  written : Bool := false
  time : Nat := 0
  status : Option Nat := none
  reply : Option (Nat × Nat) := none
  told : Bool := false
deriving DecidableEq, Repr

/-- The tile grid: tiles, invocations by HANDLE, the records queued on each channel (SQM queue, HANDLE), the words reserved in each
channel, arguments in staging, invocations ever admitted per kernel, and the spare sites left. -/
structure Tgd where
  tiles : Tbl Tile := []
  invs : List (Nat × Invocation) := []
  records : List (Nat × Nat) := []
  resv : Tbl Nat := []
  staging : Nat := 0
  admitted : Tbl Nat := []
  spares : List Nat := []
deriving DecidableEq, Repr

/-! ## The cipher engine (chapter 17) -/

/-- A key slot (Table 17-3): state 0 EMPTY, 1 LOADED, 2 DESTROYING; the key, most significant byte first. -/
structure KeySlot where
  st : Nat := 0
  owner : Nat := 0
  key : List Byte := []
  aes128 : Bool := false
  remapped : Bool := false
  reloading : Bool := false
deriving DecidableEq, Repr

/-- A sealed record that the device has opened (R411): its place in a transfer range, its plaintext, and the status the record
gives: OK, AUTH_FAIL_DATA_WRITTEN, or LOCAL_PROTECTION for one that was not deciphered. -/
structure Opened where
  ctx : Nat
  base : Nat
  rec_ : Nat
  bytes : List Byte
  status : Nat
deriving DecidableEq, Repr

/-- A record in seal staging (R412): its place, the plaintext bytes that have arrived, its full length, and the connection and
message (or entry) it belongs to. -/
structure SealStage where
  tenant : Nat
  ctx : Nat
  base : Nat
  rec_ : Nat
  len : Nat
  bytes : Tbl (Option Byte) := []
  conn : Nat := 0
  msn : Nat := 0
  resp : Bool := false
  ep : Bool := false
deriving DecidableEq, Repr

/-- A CRYPT stream (R403, R407): its entry, its fields, whether its IV has been read, the bytes done, the chaining or counter block, the
GHASH accumulator, whether its state has a page context, whether it is saved in wrapped form, and where it is saved. -/
structure Stream where
  queue : Nat
  idx : Nat
  tenant : Nat
  slot : Nat
  begun : Bool := false
  done : Nat := 0
  chain : List Byte := []
  ghash : Nat := 0
  page : Bool := true
  wrap : Bool := false
  saved : Option Nat := none
deriving DecidableEq, Repr

/-- The cipher engine: key slots, pipes failed, reserve slot storage used by quadrant, opened records, seal staging, streams (the least
recently served first), the wrap key, and the blocks processed by tenant. -/
structure Cph where
  slots : Tbl KeySlot := []
  failed : Nat := 0
  resUsed : Tbl Nat := []
  opened : List Opened := []
  staging : List SealStage := []
  streams : List Stream := []
  wrapKey : List Byte := []
  blocks : Tbl Nat := []
deriving DecidableEq, Repr


/-! ## Scarab (chapter 12) -/

/-- Scarab's counts toward a peer of a level (R303, R304): chunks sent, chunks consumed as a prefix and beyond it, the peer's last
CONSUMED, what this end last announced, whether a release is withheld, CRC failures by SEQ, repairs asked for, and the chunks of the
running instance that have come in the up and the down pass. -/
structure ScbPeer where
  sent : Nat := 0
  consumed : Nat := 0
  extra : List Nat := []
  released : Nat := 0
  announced : Nat := 0
  owed : Bool := false
  fails : List (Nat × Nat) := []
  asked : List Nat := []
  up : Nat := 0
  down : Nat := 0
deriving DecidableEq, Repr

/-- A chunk position in the accumulator store: how many contributions it holds, its own among them, its elements, its POISON. -/
structure ScbAcc where
  level : Nat
  pos : Nat
  own : Bool := false
  count : Nat := 0
  vals : List Nat := []
  poison : Bool := false
deriving DecidableEq, Repr

/-- A chunk in an OUT slot that has not been released: level, peer (the own coordinate for multicast), SEQ, message length. -/
structure ScbOut where
  level : Nat
  peer : Nat
  seq : Nat
  len : Nat
deriving DecidableEq, Repr

/-- A chunk in the down format: position, bytes, POISON. -/
structure ScbDown where
  pos : Nat
  bytes : List Byte
  poison : Bool
deriving DecidableEq, Repr

/-- A group (Table 12-9): STATE 0 IDLE, 1 RUNNING, 2 ABORTED; the last status and INSTANCE; the member list that has been read; the counts
by level · 65536 + peer; and the running collective: its entry, the chunks sent by level · 2 + pass, accumulators, down chunks, final
pieces written, repairs made by level, levels gone back to unicast, sends that have been counted as waiting. -/
structure ScbGroup where
  st : Nat := 0
  status : Nat := 0
  inst : Option Nat := none
  members : Option (List Nat) := none
  peers : Tbl ScbPeer := []
  queue : Nat := 0
  idx : Nat := 0
  cursors : Tbl Nat := []
  accs : List ScbAcc := []
  have_ : List ScbDown := []
  finals : List Nat := []
  outs : List ScbOut := []
  repairs : Tbl Nat := []
  unicast : List Nat := []
  waits : List Nat := []
  poison : Bool := false
deriving DecidableEq, Repr

/-- A multicast chunk that is arriving: its group, level, root, SEQ, the offsets that are in, its length once an edge cell has come. -/
structure ScbMc where
  group : Nat
  level : Nat
  root : Nat
  seq : Nat
  covered : List Nat := []
  len : Option Nat := none
deriving DecidableEq, Repr

/-- Scarab: groups, complete FWRITE messages in landing buffers (address, length), arriving multicast chunks, entries whose wait has been
counted. -/
structure Scb where
  groups : Tbl ScbGroup := []
  inbox : List (Nat × Nat) := []
  mc : List ScbMc := []
  waited : List (Nat × Nat) := []
deriving DecidableEq, Repr

/-! ## The whole state -/

/-- The state of the block: one card and what it has sent out. `pending` is the queue of waiting commands. -/
structure State where
  variant : Variant := .tcn9416
  time : Nat := 0
  freeCtr : Nat := 0
  regs : Tbl W64 := []
  pw : Power := {}
  boot : Boot := {}
  flash : Flash := {}
  fuses : Fuses := {}
  cic : Cicada := {}
  fns : Tbl Fn := []
  owners : Tbl Nat := []
  qlocal : Tbl Nat := []
  commits : List Commit := []
  hif : Hif := {}
  sqm : Sqm := {}
  fev : Fev := {}
  mem : Mem := {}
  atu : Atu := {}
  queues : Tbl QueueC := []
  tpe : Tpe := {}
  frt : Frt := {}
  eports : Tbl EPort := []
  lns : Lns := {}
  scb : Scb := {}
  tgd : Tgd := {}
  cph : Cph := {}
  ccs : Ccs := {}
  tenants : Tbl Tenant := []
  rsp : Rsp := {}
  out : List Output := []
  pending : List Instr := []
deriving DecidableEq, Repr

/-- Why a command can stop the model for good. -/
inductive Fault
  /-- Raised by no command: every meaning answers a next state. Safe. -/
  | unraised
deriving DecidableEq, Repr

/-- Why the model has no meaning for a command. -/
inductive Refusal
  /-- A command of the table without a meaning yet. Safe: nothing is claimed of it. -/
  | notModelled (mnemonic : String)
deriving DecidableEq, Repr

/-- The machine right after reset: standby power has just come into range and the standby domain has left reset (R33). -/
def State.reset : State := {}

end Sys2Proof.Machine
end

