-- ==== Sys2Proof/Machine/Ops.lean ====
section
/-! DEFINITION. The named operations that every meaning is built from: sparse tables, bit fields, bytes, registers and
counters, outputs, the variant's unit counts, free draws, and the resource owners. -/
namespace Sys2Proof.Machine

/-! ### Sparse tables -/

/-- The value at a key: the listed one, else the default of that key. -/
def tget {α : Type} (d : Nat → α) : Tbl α → Nat → α
  | [], k => d k
  | (j, v) :: r, k => if j = k then v else tget d r k

/-- Lists a value under a key, in the order of the keys. -/
def tput {α : Type} : Tbl α → Nat → α → Tbl α
  | [], k, v => [(k, v)]
  | (j, w) :: r, k, v =>
    if k < j then (k, v) :: (j, w) :: r
    else if k = j then (k, v) :: r
    else (j, w) :: tput r k v

/-- Writes a key, keeping the canonical form: keys rising, no entry equal to its default. -/
def tset {α : Type} [DecidableEq α] (d : Nat → α) : Tbl α → Nat → α → Tbl α
  | [], k, v => if v = d k then [] else [(k, v)]
  | e :: r, k, v => if v = d k then (e :: r).filter (fun e => decide (e.1 ≠ k)) else tput (e :: r) k v

/-- The canonical form of a table whose keys are all at least `lo`. -/
def twfFrom {α : Type} [DecidableEq α] (d : Nat → α) : Nat → Tbl α → Bool
  | _, [] => true
  | lo, (k, v) :: r => decide (lo ≤ k) && decide (v ≠ d k) && twfFrom d (k + 1) r

/-- The canonical form of a table. -/
def twf {α : Type} [DecidableEq α] (d : Nat → α) (t : Tbl α) : Bool := twfFrom d 0 t

/-- Rewrites a key through a function. -/
def tmod {α : Type} [DecidableEq α] (d : Nat → α) (t : Tbl α) (k : Nat) (f : α → α) : Tbl α :=
  tset d t k (f (tget d t k))

/-! ### Bit fields -/

/-- The field [hi:lo] of a number. -/
def nfld (n hi lo : Nat) : Nat := (n >>> lo) % 2 ^ (hi - lo + 1)

/-- Bit i of a number. -/
def nbit (n i : Nat) : Bool := n.testBit i

/-- The field [hi:lo] of a word. -/
def fld (w : W64) (hi lo : Nat) : Nat := nfld w.toNat hi lo

/-- Bit i of a word. -/
def wbit (w : W64) (i : Nat) : Bool := w.toNat.testBit i

/-- A number as a word. -/
def w64 (n : Nat) : W64 := BitVec.ofNat 64 n

/-- A Boolean as a number. -/
def b2n (b : Bool) : Nat := if b then 1 else 0

/-- The 32-bit wrap of a counter. -/
def wrap32 (n : Nat) : Nat := n % 2 ^ 32

/-- The first element that passes a test, and the list without it. -/
def takeFirst {α : Type} (p : α → Bool) : List α → Option (α × List α)
  | [] => none
  | x :: r => if p x then some (x, r) else (takeFirst p r).map (fun q => (q.1, x :: q.2))

/-- Rewrites the elements that pass a test. -/
def mapIf {α : Type} (p : α → Bool) (f : α → α) (l : List α) : List α := l.map (fun x => if p x then f x else x)

/-! ### Bytes, little-endian (R5) and most significant first -/

/-- A little-endian byte string as a number. -/
def leNat : List Byte → Nat
  | [] => 0
  | b :: r => b.toNat + 256 * leNat r

/-- A number as n little-endian bytes. -/
def leBytes : Nat → Nat → List Byte
  | 0, _ => []
  | n + 1, v => BitVec.ofNat 8 v :: leBytes n (v / 256)

/-- A number as n bytes, most significant first: a field on a wire (R5). -/
def beBytes (n v : Nat) : List Byte := (leBytes n v).reverse

/-- A wire byte string as a number. -/
def beNat (l : List Byte) : Nat := leNat l.reverse

/-- The little-endian field of n bytes at a byte offset. -/
def leAt (l : List Byte) (off n : Nat) : Nat := leNat ((l.drop off).take n)

/-- The wire field of n bytes at a byte offset. -/
def beAt (l : List Byte) (off n : Nat) : Nat := beNat ((l.drop off).take n)

/-- A byte string cut or zero-filled to n bytes. -/
def padTo (n : Nat) (l : List Byte) : List Byte := (l ++ List.replicate (n - l.length) 0).take n

/-- Words as little-endian bytes. -/
def wordsToBytes : List W64 → List Byte
  | [] => []
  | w :: r => leBytes 8 w.toNat ++ wordsToBytes r

/-- The poisoned ranges within [off, off + n), from its start. -/
def marksIn (m : Marks) (off n : Nat) : Marks :=
  m.filterMap (fun r => let a := max r.1 off; let e := min (r.1 + r.2) (off + n); if a < e then some (a - off, e - a) else none)

/-- Poisoned ranges moved up by k bytes. -/
def marksUp (m : Marks) (k : Nat) : Marks := m.map (fun r => (r.1 + k, r.2))

/-! ### Registers -/

/-- The key of a register under an index below 2^32: the selection it is reached through, or the function or tenant it counts for. -/
def rk (off idx : Nat) : Nat := off * 2 ^ 32 + idx % 2 ^ 32

/-- Reset values of the registers that do not reset to 0, by offset. The registers marked Profile in the spec read their
factory value; per-card values that the spec does not print read 0 (DESIGN CHOICE, log 9). -/
def resetRows : List (Nat × Nat) :=
  [ (Reg.MGT_PWR_CAP, 0x5DC), (Reg.MGT_TILE_FREQ, 0x708), (Reg.HIF_ABI_OFFER, 0x6),
    (Reg.ATU_RGN_COUNT, 0x100000), (Reg.TPE_RTO_FAB, 0x00C80008), (Reg.TPE_RTO_ETH, 0x00640032),
    (Reg.TPE_RC_HOLD, 0x3E8), (Reg.CCS_ADMIT_PCT, 0x5A), (Reg.CCS_CLS_CFG, 0x1), (Reg.CCS_CRED_TMO, 0xA),
    (Reg.CCS_QCFG, 0x44), (Reg.TGD_KENTw, 0x0040010000000000), (Reg.TGD_KENTw + 8, 0x0000004000000000),
    (Reg.SCB_GENTw + 16, 0x000003E800045400),
    (Reg.FRT_DIM, 0x101010), (Reg.FRT_MC_ENT, 0x3C000), (Reg.EMAC_MODE, 0x1), (Reg.EMAC_UDP_PORT, 0x12B8),
    (Reg.EMAC_PSEL, 0x1), (Reg.EMAC_CFG, 0x4003), (Reg.EMAC_FRAME, 0x22400), (Reg.EMAC_PFC_QUANTA, 0xFFFF),
    (Reg.LNS_ROT_CFG, 0x000A0501), (Reg.LNS_FAIL_THR, 0x4E2007D0), (Reg.LNS_MOD_PWR_MAX, 0x19),
    (Reg.SCB_MC_RESERVE, 0x400), (Reg.SCB_REPAIR_TMO, 0x32), (Reg.TGD_CDEPTH, 0x820),
    (Reg.MEM_PATROL_CFG, 0x18), (Reg.MEM_RET_THR, 0x10), (Reg.MEM_RETRAIN_CFG, 0x00050064),
    (Reg.MEM_TERM_CFG, 0x19), (Reg.SQM_QCFG, 0x40), (Reg.SQM_TQUOTA, 0x1E000), (Reg.CPH_PIPE_CFG, 0x30E),
    (Reg.CPH_TSAVE_COUNT, 0x40), (Reg.RSP_TKEYQ, 0x10), (Reg.MGT_BOOT_TMO, 0x2D), (Reg.MGT_CIC_CFG, 0x1E05),
    (Reg.MGT_CIC_FMT_OFFER, 0x2), (Reg.FEV_FQ_CTL, 0x2000), (Reg.FEV_RATE, 0x004003E8), (Reg.MGT_PROF_PWR, 0x00062002) ]

/-- The reset value of a register key. The registers whose reset depends on their selection: CCS_EOVH, CCS_SHP_CFG,
CCS_POOL, CCS_GRANT_CFG and CCS_GRANT_RATE by egress point or class (Tables 8-1, 8-7, 8-8), EMAC_CLS_PCP0 (Table 10-9). -/
def regReset (key : Nat) : W64 :=
  let off := key / 2 ^ 32
  let idx := key % 2 ^ 32
  if off = Reg.CCS_EOVH then (if idx = 0 then 0x22 else 0x14)
  else if off = Reg.CCS_SHP_CFG then
    (if idx = 0 then 0x0400BB80 else if idx = 64 ∨ idx = 192 then 0x04000FA0
     else if idx = 128 ∨ idx = 256 then 0x04000000 else 0)
  else if off = Reg.CCS_POOL then (if idx = 0 then 0x2000 else 0x1000)
  else if off = Reg.CCS_GRANT_RATE then (if idx = 0 then 2076 else 190)
  else if off = Reg.CCS_GRANT_CFG then (if idx = 0 then 0x00084020 else 0x01F44020)
  else if off = Reg.EMAC_CLS_PCPm then (if idx % 4 = 0 then 7 else 0)
  else w64 (((resetRows.find? (fun r => r.1 = off)).map (·.2)).getD 0)

/-- A register's value under an index. -/
def reg (s : State) (off idx : Nat) : W64 := tget regReset s.regs (rk off idx)

/-- A register's value under an index, as a number. -/
def regN (s : State) (off idx : Nat) : Nat := (reg s off idx).toNat

/-- Sets a register under an index. -/
def setReg (s : State) (off idx : Nat) (v : W64) : State := { s with regs := tset regReset s.regs (rk off idx) v }

/-- Adds to a 32-bit wrapping counter under an index. -/
def bumpBy (s : State) (off idx n : Nat) : State := setReg s off idx (w64 (wrap32 (regN s off idx + n)))

/-- Adds one to a 32-bit wrapping counter under an index. -/
def bump (s : State) (off idx : Nat) : State := bumpBy s off idx 1

/-- Adds to a counter that counts for a function and, in the PF, for the whole device (R74). -/
def bumpFnBy (s : State) (off fn n : Nat) : State :=
  if fn = 0 then bumpBy s off 0 n else bumpBy (bumpBy s off 0 n) off fn n

/-- Adds one to a counter that counts for a function and for the device. -/
def bumpFn (s : State) (off fn : Nat) : State := bumpFnBy s off fn 1

/-! ### Outputs, draws, units -/

/-- Sends one thing out. -/
def emit (s : State) (o : Output) : State := { s with out := o :: s.out }

/-- One free word (R417, or a value the spec does not state). -/
def draw (s : State) : W64 × State := (Config.draw s.freeCtr, { s with freeCtr := s.freeCtr + 1 })

/-- n free words. -/
def drawN : Nat → State → List W64 × State
  | 0, s => ([], s)
  | n + 1, s => let p := draw s; let q := drawN n p.2; (p.1 :: q.1, q.2)

/-- Free bytes for data the spec leaves undefined. -/
def freeBytes : Nat → State → List Byte × State
  | 0, s => ([], s)
  | n + 1, s =>
    let b := Config.freeByte s.freeCtr
    let q := freeBytes n { s with freeCtr := s.freeCtr + 1 }
    (b :: q.1, q.2)

/-- Logical tiles of the variant (Table 0-1). -/
def tileCount (v : Variant) : Nat := match v with | .tcn9416 => 160 | .tcn9412 => 80 | .tcn9404 => 0

/-- HBM3E stacks of the variant. -/
def hbmStacks (v : Variant) : Nat := match v with | .tcn9416 => 8 | _ => 4

/-- LPDDR5X packages of the variant. -/
def lpddrPkgs (v : Variant) : Nat := match v with | .tcn9416 => 16 | .tcn9412 => 0 | .tcn9404 => 8

/-- The transport, the fabric, the tiles and Ethernet serve only at stage RUNNING (R439). -/
def running (s : State) : Bool := s.boot.stage = .running

/-- The PCIe function answers: the main domain is good and PERST# is deasserted (Table 2-11). -/
def hostUp (s : State) : Bool := s.pw.stby && s.pw.mainOn && !s.pw.perst && !s.boot.dead

/-- Block b answers at every stage: HIF, RSP, MGT and FEV (R439). -/
def alwaysBlock (b : Nat) : Bool := b = 0 || b = 13 || b = 14 || b = 15

/-! ### Functions, tenants, owners -/

/-- A function's HIF state. -/
def fnGet (s : State) (f : Nat) : Fn := tget (fun _ => {}) s.fns f

/-- Rewrites a function's HIF state. -/
def fnMod (s : State) (f : Nat) (g : Fn → Fn) : State := { s with fns := tmod (fun _ => {}) s.fns f g }

/-- A write of a register discards the low half of another register that the function holds (R490). -/
def dropHeld (s : State) (f : Nat) : State := fnMod s f (fun F => { F with held := none })

/-- The default of a tenant slot: tenant 0 and the firmware services 253 to 255 are ACTIVE (R429). -/
def tenantInit (t : Nat) : Tenant := if t = 0 ∨ 253 ≤ t then { st := 1 } else {}

/-- A tenant slot. -/
def tenant (s : State) (t : Nat) : Tenant := tget tenantInit s.tenants t

/-- Rewrites a tenant slot. -/
def tenantMod (s : State) (t : Nat) (g : Tenant → Tenant) : State :=
  { s with tenants := tmod tenantInit s.tenants t g }

/-- The tenant runs in sealed bounce mode (R73, R426). -/
def sealed (s : State) (t : Nat) : Bool := (tenant s t).mode = 1

/-- The resource ID of a kind and index (R466). -/
def resId (kind index : Nat) : Nat := kind * 2 ^ 24 + index

/-- The owner of an exclusive resource that a grant record names: tenant 0 until a committed grant (R463). -/
def owner (s : State) (kind index : Nat) : Nat := tget (fun _ => 0) s.owners (resId kind index)

/-- Sets the owner of a resource. -/
def setOwner (s : State) (kind index t : Nat) : State :=
  { s with owners := tset (fun _ => 0) s.owners (resId kind index) t }

/-- The tenant of a context (R134). -/
def ctxOwner (s : State) (c : Nat) : Nat := owner s 0x01 c

/-- A function exists: the PF always, VF n while VF Enable is set and n is at most NumVFs (R46). -/
def fnExists (s : State) (f : Nat) : Bool := f = 0 || (s.hif.vfEnable && decide (1 ≤ f ∧ f ≤ s.hif.numVfs))

/-- Work that the tenant sends or receives is still accepted: its slot is ACTIVE. -/
def tenantActive (s : State) (t : Nat) : Bool := (tenant s t).st = 1

/-! ### Status codes of Table 5-8 (R130) -/

namespace Status
/-- The verb completed in full. -/
def ok : Nat := 0x00
/-- A length, count or size is out of range. -/
def localLength : Nat := 0x01
/-- A local context, region, slot, group or tenant is not the queue's, lacks a right or failed the ownership check. -/
def localProtection : Nat := 0x02
/-- The target refused the key, the right or the bounds. -/
def remoteAccess : Nat := 0x03
/-- The target region was REVOKING or its generation stale. -/
def remoteRevoked : Nat := 0x04
/-- The retry budget was spent. -/
def retryExceeded : Nat := 0x05
/-- No route to the target. -/
def peerUnreachable : Nat := 0x06
/-- The tenant is QUIESCING or gone. -/
def contextGone : Nat := 0x07
/-- The entry was not started before a flush or an error. -/
def flushed : Nat := 0x08
/-- A needed unit is absent. -/
def unitAbsent : Nat := 0x09
/-- GCM authentication failed after the plaintext was written. -/
def authFail : Nat := 0x0A
/-- A CRC-64 check failed and was not repaired. -/
def checkFail : Nat := 0x0B
/-- Poisoned data was read. -/
def poisoned : Nat := 0x0C
/-- No valid translation. -/
def translationFault : Nat := 0x0D
/-- The kernel's quota or channel was full. -/
def invokeRejected : Nat := 0x0E
/-- The kernel trapped or sent no reply. -/
def kernelFault : Nat := 0x0F
/-- No credit within the credit timeout. -/
def creditTimeout : Nat := 0x10
/-- The agreed transport version lacks the verb. -/
def versionMismatch : Nat := 0x11
/-- The entry is malformed or not allowed. -/
def badDescriptor : Nat := 0x12
/-- A committed rate was cut. -/
def commitDegraded : Nat := 0x13
end Status

end Sys2Proof.Machine
end

