-- ==== Sys2Proof/Machine/Aes.lean ====
section
/-! DEFINITION. AES (R400: FIPS 197), the modes of Table 17-2 (SP 800-38A, SP 800-38D) and GHASH, on byte lists. -/
namespace Sys2Proof.Machine

/-! ### The field GF(2^8) and the S-box -/

/-- Multiplication by x. -/
def xtime (a : Nat) : Nat := if 128 ≤ a then Nat.xor (2 * a - 256) 0x1B else 2 * a

/-- Multiplication in GF(2^8) by the low n bits of b. -/
def gmul : Nat → Nat → Nat → Nat
  | 0, _, _ => 0
  | n + 1, a, b => Nat.xor (if b % 2 = 1 then a else 0) (gmul n (xtime a) (b / 2))

/-- a to the power 2 + 4 + … + 2^n: for n = 7 the inverse. -/
def ginv : Nat → Nat → Nat
  | 0, _ => 1
  | n + 1, a => let q := gmul 8 a a; gmul 8 q (ginv n q)

/-- Rotates a byte left. -/
def rotl8 (a k : Nat) : Nat := (a * 2 ^ k) % 256 + a / 2 ^ (8 - k)

/-- The S-box. -/
def subByte (b : Byte) : Byte :=
  let i := if b = 0 then 0 else ginv 7 b.toNat
  BitVec.ofNat 8 (Nat.xor i (Nat.xor (rotl8 i 1) (Nat.xor (rotl8 i 2) (Nat.xor (rotl8 i 3) (Nat.xor (rotl8 i 4) 0x63)))))

/-- The inverse S-box. -/
def invSubByte (b : Byte) : Byte :=
  let i := Nat.xor (rotl8 b.toNat 1) (Nat.xor (rotl8 b.toNat 3) (Nat.xor (rotl8 b.toNat 6) 0x05))
  if i = 0 then 0 else BitVec.ofNat 8 (ginv 7 i)

/-- Bytewise exclusive or, as long as the shorter. -/
def xorBytes (a b : List Byte) : List Byte := List.zipWith (· ^^^ ·) a b

/-! ### The cipher -/

/-- The round constants. -/
def rcon : Nat → Nat
  | 0 => 1
  | n + 1 => xtime (rcon n)

/-- Key expansion: the words so far, last first; i is the index of the next. -/
def expandKey (nk : Nat) : Nat → Nat → List (List Byte) → List (List Byte)
  | 0, _, w => w
  | n + 1, i, w =>
    let t := w.headD []
    let t1 := if i % nk = 0 then
        xorBytes ((t.drop 1 ++ t.take 1).map subByte) [BitVec.ofNat 8 (rcon (i / nk - 1)), 0, 0, 0]
      else if 6 < nk ∧ i % nk = 4 then t.map subByte else t
    expandKey nk n (i + 1) (xorBytes (w.getD (nk - 1) []) t1 :: w)

/-- Cuts bytes into pieces of k. -/
def chunks (k : Nat) : Nat → List Byte → List (List Byte)
  | 0, _ => []
  | n + 1, b => b.take k :: chunks k n (b.drop k)

/-- The round keys of a key of 16 or 32 bytes. -/
def roundKeys (key : List Byte) : List (List Byte) :=
  let nk := key.length / 4
  let w := (expandKey nk (4 * (nk + 7) - nk) nk (chunks 4 nk key).reverse).reverse
  (List.range (nk + 7)).map (fun r => w.getD (4 * r) [] ++ w.getD (4 * r + 1) [] ++ w.getD (4 * r + 2) [] ++ w.getD (4 * r + 3) [])

/-- ShiftRows by a step of rows: 1 forward, 3 inverse. -/
def shiftRows (k : Nat) (s : List Byte) : List Byte :=
  (List.range 16).map (fun i => s.getD (i % 4 + 4 * ((i / 4 + k * (i % 4)) % 4)) 0)

/-- One column times a circulant row. -/
def mixColumn (m c : List Byte) : List Byte :=
  (List.range 4).map (fun r =>
    (List.range 4).foldl (fun x j => x ^^^ BitVec.ofNat 8 (gmul 8 (c.getD j 0).toNat (m.getD ((j + 4 - r) % 4) 0).toNat)) 0)

/-- MixColumns with a circulant row. -/
def mixColumns (m s : List Byte) : List Byte := ((chunks 4 4 s).map (mixColumn m)).flatten

/-- The rounds of the cipher after the first key. -/
def encRounds (s : List Byte) : List (List Byte) → List Byte
  | [] => s
  | [k] => xorBytes (shiftRows 1 (s.map subByte)) k
  | k :: r => encRounds (xorBytes (mixColumns [2, 3, 1, 1] (shiftRows 1 (s.map subByte))) k) r

/-- The rounds of the inverse cipher after the last key. -/
def decRounds (s : List Byte) : List (List Byte) → List Byte
  | [] => s
  | [k] => xorBytes ((shiftRows 3 s).map invSubByte) k
  | k :: r => decRounds (mixColumns [14, 11, 13, 9] (xorBytes ((shiftRows 3 s).map invSubByte) k)) r

/-- AES on one block. -/
def aesEnc (key block : List Byte) : List Byte :=
  match roundKeys key with
  | [] => block
  | k :: r => encRounds (xorBytes block k) r

/-- Inverse AES on one block. -/
def aesDec (key block : List Byte) : List Byte :=
  match (roundKeys key).reverse with
  | [] => block
  | k :: r => decRounds (xorBytes block k) r

/-! ### Modes (Table 17-2) -/

/-- Blocks of 16 in a byte string, the last perhaps short. -/
def blocks16 (b : List Byte) : List (List Byte) := chunks 16 ((b.length + 15) / 16) b

/-- CTR: a 128-bit big-endian counter; the text and the next unused counter. -/
def ctrRun (key : List Byte) : Nat → List (List Byte) → List Byte × Nat
  | c, [] => ([], c)
  | c, b :: r =>
    let p := ctrRun key ((c + 1) % 2 ^ 128) r
    (xorBytes b (aesEnc key (beBytes 16 c)) ++ p.1, p.2)

/-- CBC encryption and the last ciphertext block. -/
def cbcEnc (key : List Byte) : List Byte → List (List Byte) → List Byte × List Byte
  | iv, [] => ([], iv)
  | iv, b :: r =>
    let c := aesEnc key (xorBytes b iv)
    let p := cbcEnc key c r
    (c ++ p.1, p.2)

/-- CBC decryption and the last ciphertext block. -/
def cbcDec (key : List Byte) : List Byte → List (List Byte) → List Byte × List Byte
  | iv, [] => ([], iv)
  | iv, b :: r =>
    let p := cbcDec key b r
    (xorBytes (aesDec key b) iv ++ p.1, p.2)

/-- CFB-128 and the register that would encrypt next; a short last block is filled up with the register's own bytes. -/
def cfbRun (key : List Byte) (decrypt : Bool) : List Byte → List (List Byte) → List Byte × List Byte
  | iv, [] => ([], iv)
  | iv, b :: r =>
    let o := xorBytes b (aesEnc key iv)
    let c := if decrypt then b else o
    let p := cfbRun key decrypt (if c.length = 16 then c else iv.drop c.length ++ c) r
    (o ++ p.1, p.2)

/-- Multiplication in GF(2^128), most significant bit first. -/
def ghMul : Nat → Nat → Nat → Nat → Nat
  | 0, _, _, z => z
  | n + 1, x, v, z =>
    ghMul n x (if v % 2 = 1 then Nat.xor (v / 2) (0xE1 * 2 ^ 120) else v / 2) (if x.testBit n then Nat.xor z v else z)

/-- GHASH over blocks from an accumulator; short blocks are filled with zeros. -/
def ghash (h : Nat) : Nat → List (List Byte) → Nat
  | y, [] => y
  | y, b :: r => ghash h (ghMul 128 (Nat.xor y (beNat (padTo 16 b))) h 0) r

/-- The GCM hash key. -/
def gcmH (key : List Byte) : Nat := beNat (aesEnc key (List.replicate 16 0))

/-- The first counter of the text under a 96-bit nonce; its low 32 bits wrap on their own, which 2^32 − 2 blocks never reach. -/
def gcmCtr (nonce : List Byte) : Nat := beNat nonce * 2 ^ 32 + 2

/-- The tag from the GHASH accumulator over AAD and ciphertext. -/
def gcmTag (key nonce : List Byte) (acc aadLen textLen : Nat) : List Byte :=
  let y := ghash (gcmH key) acc [beBytes 8 (8 * aadLen) ++ beBytes 8 (8 * textLen)]
  xorBytes (beBytes 16 y) (aesEnc key (beBytes 16 (beNat nonce * 2 ^ 32 + 1)))

/-- GCM encryption: ciphertext and tag. -/
def gcmSeal (key nonce aad text : List Byte) : List Byte × List Byte :=
  let c := (ctrRun key (gcmCtr nonce) (blocks16 text)).1
  (c, gcmTag key nonce (ghash (gcmH key) (ghash (gcmH key) 0 (blocks16 aad)) (blocks16 c)) aad.length text.length)

/-- GCM decryption: plaintext, and whether the tag matches. -/
def gcmOpen (key nonce aad text tag : List Byte) : List Byte × Bool :=
  let t := gcmTag key nonce (ghash (gcmH key) (ghash (gcmH key) 0 (blocks16 aad)) (blocks16 text)) aad.length text.length
  ((ctrRun key (gcmCtr nonce) (blocks16 text)).1, decide (t = tag))

end Sys2Proof.Machine
end

