-- ==== Sys2Proof/Machine/Sqm.lean ====
section
/-! DEFINITION. The shared queue memory (chapter 16): cells, pushes, pops, markers, clearing. -/
namespace Sys2Proof.Machine

/-- A queue that is a channel of a logical tile (Table 16-1). -/
def isTileQ (q : Nat) : Bool := decide (0x0200 ≤ q ∧ q ≤ 0x0BFF)

/-- A host mailbox (Table 16-1). -/
def isMailbox (q : Nat) : Bool := decide (0x1000 ≤ q ∧ q ≤ 0x4FFF)

/-- A mailbox pair that the RSP keeps for a tenant slot (R423). -/
def isRspMailbox (q : Nat) : Bool := decide (0x1000 ≤ q ∧ q ≤ 0x1000 + 2 * 252 + 1)

/-- SQM queue of channel ch of logical tile t (Table 16-1). -/
def tileQ (t ch : Nat) : Nat := 0x0200 + 16 * t + ch

/-- The tenant a queue's cells are charged to (R391): 255 for the fault queue, tenant s for its event queue, the tile's
owner for a channel, the mailbox's owner, and 253 for transport notifications (R429). -/
def sqmTenant (s : State) (q : Nat) : Nat :=
  if q = 0 then 255
  else if q < 0x0100 then 0
  else if q < 0x0200 then q - 0x0100
  else if isTileQ q then owner s 0x08 ((q - 0x0200) / 16)
  else if isMailbox q then owner s 0x0E q
  else if 0x5000 ≤ q then 253 else 0

/-- LIMIT of a queue (Table 16-1): SQM_QCFG, or TGD_CDEPTH for a tile channel; the transport's own queues take the largest
LIMIT there is. -/
def sqmLimit (s : State) (q : Nat) : Nat :=
  if isTileQ q then fld (reg s Reg.TGD_CDEPTH (q - 0x0200)) 16 0
  else if 0x5000 ≤ q then 65536 else fld (reg s Reg.SQM_QCFG q) 16 0

/-- A mailbox is VALID when SQM_QCFG says so; every other queue has a fixed owner and is in service (R392, R397). -/
def sqmValid (s : State) (q : Nat) : Bool := !isMailbox q || wbit (reg s Reg.SQM_QCFG q) 17

/-- A queue. -/
def sqmQ (s : State) (q : Nat) : SqmQ := tget (fun _ => {}) s.sqm.queues q

/-- Rewrites a queue. -/
def sqmMod (s : State) (q : Nat) (f : SqmQ → SqmQ) : State :=
  { s with sqm := { s.sqm with queues := tmod (fun _ => {}) s.sqm.queues q f } }

/-- Free cells of a slice. -/
def sqmFree (s : State) (sl : Nat) : Nat :=
  match sl with | 0 => s.sqm.free0 | 1 => s.sqm.free1 | 2 => s.sqm.free2 | _ => s.sqm.free3

/-- Reserve cells of a slice. -/
def sqmRes (s : State) (sl : Nat) : Nat :=
  match sl with | 0 => s.sqm.res0 | 1 => s.sqm.res1 | 2 => s.sqm.res2 | _ => s.sqm.res3

/-- Sets the free cells of a slice. -/
def sqmSetFree (s : State) (sl n : Nat) : State :=
  { s with sqm := match sl with
    | 0 => { s.sqm with free0 := n } | 1 => { s.sqm with free1 := n }
    | 2 => { s.sqm with free2 := n } | _ => { s.sqm with free3 := n } }

/-- Sets the reserve cells of a slice. -/
def sqmSetRes (s : State) (sl n : Nat) : State :=
  { s with sqm := match sl with
    | 0 => { s.sqm with res0 := n } | 1 => { s.sqm with res1 := n }
    | 2 => { s.sqm with res2 := n } | _ => { s.sqm with res3 := n } }

/-- Cells charged to a tenant (SQM_TUSED). -/
def sqmUsed (s : State) (t : Nat) : Nat := tget (fun _ => 0) s.sqm.used t

/-- Changes the cells charged to a tenant. -/
def sqmCharge (s : State) (t : Nat) (f : Nat → Nat) : State :=
  { s with sqm := { s.sqm with used := tmod (fun _ => 0) s.sqm.used t f } }

/-- The home slice of a queue (Table 16-1). -/
def sqmHome (s : State) (q : Nat) : Nat :=
  if isTileQ q then tget (fun _ => 0) s.sqm.tileQuad ((q - 0x0200) / 16) else q % 4

/-- The slice the next cell comes from: the home slice, then the lowest quadrant with a free cell (R390). -/
def sqmSlice (s : State) (q : Nat) : Option Nat :=
  (sqmHome s q :: [0, 1, 2, 3]).find? (fun sl => decide (0 < sqmFree s sl))

/-- The room left in a queue's last cell. -/
def sqmRoom (Q : SqmQ) : Nat := 16 * Q.cells.length - (Q.headOff + Q.words.length)

/-- Takes one cell for a queue: the new state, or none when the quota or the pool is spent (R390, R391). -/
def sqmCell (s : State) (q : Nat) : Option State :=
  let t := sqmTenant s q
  if fld (reg s Reg.SQM_TQUOTA t) 17 0 ≤ sqmUsed s t then none
  else match sqmSlice s q with
    | none => none
    | some sl =>
      some (sqmMod (sqmCharge (sqmSetFree s sl (sqmFree s sl - 1)) t (· + 1)) q
        (fun Q => { Q with cells := Q.cells ++ [⟨sl, false⟩] }))

/-- Takes the cells that n more words need (at most one, n at most 9): the new state, or none when the quota or the pool is
spent (R391). -/
def sqmTake (s : State) (q n : Nat) : Option State :=
  if n ≤ sqmRoom (sqmQ s q) then some s else sqmCell s q

/-- The marker word of Table 16-2. -/
def markerWord (q dropped : Nat) : W64 := w64 (min dropped 0xFFFFFFFF + q * 2 ^ 32 + 0xFF * 2 ^ 56)

/-- Appends words to a queue, behind the pending marker when there is one. -/
def sqmAppend (s : State) (q : Nat) (ws : List SqmWord) : State :=
  sqmMod s q (fun Q =>
    { Q with words := Q.words ++ (if Q.marker = 0 then ws else ⟨markerWord q Q.marker, 1⟩ :: ws), marker := 0 })

/-- Drops n words at a full queue: the marker's count, SQM_QDROP and SQM_FULL_DROP rise (R393). -/
def sqmDrop (s : State) (q n : Nat) : State :=
  bumpFnBy (sqmMod s q (fun Q => { Q with marker := min (Q.marker + n) 0xFFFFFFFF, drops := wrap32 (Q.drops + n) }))
    Reg.SQM_FULL_DROP (sqmTenant s q) n

/-- Pushes words that enter whole or not at all (R391, R393, R398, R478): the state, and whether they were stored. -/
def sqmPushAll (s : State) (q : Nat) (ws : List SqmWord) : State × Bool :=
  let Q := sqmQ s q
  if Q.clearing then (sqmMod s q (fun Q => { Q with drops := wrap32 (Q.drops + ws.length) }), false)
  else
    let need := ws.length + b2n (decide (Q.marker ≠ 0))
    if sqmLimit s q < Q.words.length + need then (sqmDrop s q ws.length, false)
    else match sqmTake s q need with
      | none => (sqmDrop (bumpFn s Reg.SQM_QUOTA_DROP (sqmTenant s q)) q ws.length, false)
      | some s1 => (sqmAppend s1 q ws, true)

/-- Pushes one word (R393). -/
def sqmPush (s : State) (q : Nat) (w : W64) : State := (sqmPushAll s q [⟨w, 0⟩]).1

/-- What a pop returns: the word, its tag, the UNDERRUN mark. -/
structure PopResult where
  word : W64
  tag : Nat
  underrun : Bool
deriving DecidableEq, Repr

/-- An empty-queue pop (R394): the value given, marked UNDERRUN and counted. -/
def sqmUnderrun (s : State) (q : Nat) (w : W64) : State × PopResult :=
  (bumpFn (sqmMod s q (fun Q => { Q with underrun := true })) Reg.SQM_UNDERRUN (sqmTenant s q), ⟨w, 0, true⟩)

/-- A cell in which a parity error was found is retired as it returns; a reserve cell of its slice takes its place in the pool (R395). -/
def sqmRetire (s : State) (sl : Nat) : State :=
  let s1 := bump s Reg.SQM_CELL_RETIRE 0
  if sqmRes s1 sl = 0 then s1 else sqmSetFree (sqmSetRes s1 sl (sqmRes s1 sl - 1)) sl (sqmFree s1 sl + 1)

/-- Returns the head cell of a queue once its 16th word is popped; a cell found bad is retired (R390, R395). The third
component is the slice of a retired cell. -/
def sqmReturnHead (s : State) (q : Nat) : State × Option Nat :=
  let Q := sqmQ s q
  if Q.headOff < 16 then (s, none)
  else match Q.cells with
    | [] => (s, none)
    | c :: rest =>
      let s1 := sqmCharge (sqmMod s q (fun Q => { Q with headOff := 0, cells := rest })) (sqmTenant s q) (· - 1)
      if c.bad then (sqmRetire s1 c.slice, some c.slice)
      else (sqmSetFree s1 c.slice (sqmFree s1 c.slice + 1), none)

/-- Pops a queue (R394, R395, R398). `bad`: the parity of the word read fails. -/
def sqmPopRaw (s : State) (q : Nat) (bad : Bool) : State × PopResult × Option Nat :=
  let Q := sqmQ s q
  if Q.clearing then
    let p := sqmUnderrun s q 0
    (p.1, p.2, none)
  else match Q.words with
    | w :: rest =>
      let s1 := sqmMod s q (fun Q => { Q with
        words := rest, headOff := Q.headOff + 1, last := w.data,
        cells := match Q.cells with | c :: r => { c with bad := c.bad || bad } :: r | [] => [] })
      let s2 := if bad then bumpFn s1 Reg.SQM_PARITY_ERR (sqmTenant s q) else s1
      let p := sqmReturnHead s2 q
      (p.1, ⟨w.data, if bad then 2 else w.tag, false⟩, p.2)
    | [] =>
      if Q.marker = 0 then
        let p := sqmUnderrun s q Q.last
        (p.1, p.2, none)
      else
        let m := markerWord q Q.marker
        (sqmMod s q (fun Q => { Q with marker := 0, last := m }), ⟨m, 1, false⟩, none)

/-- A queue enters CLEARING (R398). -/
def sqmStartClear (s : State) (q : Nat) : State := sqmMod s q (fun Q => { Q with clearing := true })

/-- Whether n more words find room in a queue: LIMIT with the pending marker, and the cells they need (R390, R391, R393). -/
def sqmFits (s : State) (q n : Nat) : Bool :=
  let Q := sqmQ s q
  let k := n + b2n (decide (Q.marker ≠ 0))
  let cells := (k - sqmRoom Q + 15) / 16
  !Q.clearing && decide (Q.words.length + k ≤ sqmLimit s q) &&
  decide (cells ≤ fld (reg s Reg.SQM_TQUOTA (sqmTenant s q)) 17 0 - sqmUsed s (sqmTenant s q)) &&
  decide (cells ≤ s.sqm.free0 + s.sqm.free1 + s.sqm.free2 + s.sqm.free3)

/-- The cells of a queue are charged to its tenant, also when the tenant changes (R391). -/
def sqmRecharge (s : State) (q old new : Nat) : State :=
  let n := (sqmQ s q).cells.length
  sqmCharge (sqmCharge s old (· - n)) new (· + n)

/-- Mailboxes of tenant slot t to and from the RSP (R423). -/
def rspIn (t : Nat) : Nat := 0x1000 + 2 * t

/-- The mailbox from the RSP. -/
def rspOut (t : Nat) : Nat := 0x1001 + 2 * t

/-- The RSP makes a mailbox of a tenant VALID with LIMIT 2,048 (R423). -/
def boxValid (s : State) (q t : Nat) : State :=
  setReg (setOwner s 0x0E q t) Reg.SQM_QCFG q (w64 (2048 + 2 ^ 17 + t * 2 ^ 24))

/-- Both mailboxes of a tenant become VALID (Table 18-7). -/
def boxesValid (s : State) (t : Nat) : State := boxValid (boxValid s (rspIn t) t) (rspOut t) t

/-- The free cells of the device (SQM_POOL). -/
def sqmPool (s : State) : Nat := s.sqm.free0 + s.sqm.free1 + s.sqm.free2 + s.sqm.free3

end Sys2Proof.Machine
end

