-- ==== Sys2Proof/Machine/Fev.lean ====
section
/-! DEFINITION. MSI-X messages (R65) and Firefly (chapter 21): records, queues, rate limits, suspect windows,
suppression, the standby copy. -/
namespace Sys2Proof.Machine

/-! ### MSI-X -/

/-- A bulk data port. -/
def port (s : State) (n : Nat) : Port := tget (fun _ => {}) s.hif.ports n

/-- Rewrites a bulk data port. -/
def portMod (s : State) (n : Nat) (f : Port → Port) : State :=
  { s with hif := { s.hif with ports := tmod (fun _ => {}) s.hif.ports n f } }

/-- Empties a port's prefetch buffer; a fill still under way is not kept (R57). -/
def portEmpty (s : State) (n : Nat) : State :=
  portMod s n (fun p => { p with prefetch := [], highest := 0, fetched := 0, epoch := p.epoch + 1 })

/-- Empties the prefetch buffers of a function: only the PF has data ports (R49, R57). -/
def portsEmpty (s : State) (fn : Nat) : State :=
  if fn = 0 then [0, 1, 2, 3, 4, 5, 6, 7].foldl portEmpty s else s

/-- A vector of a function's MSI-X table. -/
def vector (s : State) (fn v : Nat) : Vector := tget (fun _ => {}) (fnGet s fn).vectors v

/-- Rewrites a vector. -/
def vectorMod (s : State) (fn v : Nat) (g : Vector → Vector) : State :=
  fnMod s fn (fun F => { F with vectors := tmod (fun _ => {}) F.vectors v g })

/-- Sends a function's vector: a masked one becomes pending (R65). -/
def sendVec (s : State) (fn v : Nat) : State :=
  if (vector s fn v).masked then vectorMod s fn v (fun V => { V with pending := true })
  else emit (portsEmpty s fn) (.msix fn v)

/-! ### Record queues -/

/-- The SQM queue of a record queue: 0 the fault queue, 1 + s the event queue of tenant s (R478). -/
def fevSqm (qi : Nat) : Nat := if qi = 0 then 0 else 0x0100 + (qi - 1)

/-- A record queue. -/
def fevQ (s : State) (qi : Nat) : FevQueue := tget (fun _ => {}) s.fev.queues qi

/-- Rewrites a record queue. -/
def fevQMod (s : State) (qi : Nat) (f : FevQueue → FevQueue) : State :=
  { s with fev := { s.fev with queues := tmod (fun _ => {}) s.fev.queues qi f } }

/-- A class of a record queue. -/
def fevC (s : State) (qi cls : Nat) : FevClass := tget (fun _ => {}) s.fev.classes (qi * 32 + cls)

/-- Rewrites a class of a record queue. -/
def fevCMod (s : State) (qi cls : Nat) (f : FevClass → FevClass) : State :=
  { s with fev := { s.fev with classes := tmod (fun _ => {}) s.fev.classes (qi * 32 + cls) f } }

/-- The rate bucket after refill: RPS records a second up to BURST, in units of 10⁻⁹ records (R480). -/
def fevRefill (s : State) (c : FevClass) : FevClass :=
  let r := reg s Reg.FEV_RATE 0
  { c with level := min (fld r 23 16 * 1000000000) (c.level + (s.time - c.at_) * fld r 15 0), at_ := s.time }

/-- The eight words of a record (Table 21-1). -/
def recordWords (s : State) (r : Report) (qi supp : Nat) (rseq : W32) : List W64 :=
  [ w64 (r.cls % 256 + r.status % 256 * 2 ^ 8 + r.sev % 4 * 2 ^ 16 + r.unit % 256 * 2 ^ 24 + r.tenant % 256 * 2 ^ 32
      + min r.count 255 * 2 ^ 40 + min supp 255 * 2 ^ 48 + (if qi = 0 then 1 else 2) * 2 ^ 56),
    w64 s.time,
    w64 (rseq.toNat + r.code % 65536 * 2 ^ 32 + r.inst % 65536 * 2 ^ 48),
    r.w3, r.w4, r.w5, r.w6, r.w7 ]

/-- Keeps the standby copy: the last 64 records of classes SHUTDOWN, BOOT and SECURITY and of SEV FATAL (R486). -/
def standbyCopy (s : State) (r : Report) (ws : List W64) : State :=
  if r.cls = 0x04 ∨ r.cls = 0x05 ∨ r.cls = 0x07 ∨ r.sev = 3 then
    { s with fev := { s.fev with standby := (ws :: s.fev.standby).take 64, unread := min 64 (s.fev.unread + 1) } }
  else s

/-- The control register of a record queue and the function that reads it (R485). -/
def fevCtl (s : State) (qi : Nat) : W64 :=
  if qi = 0 then reg s Reg.FEV_FQ_CTL 0 else reg s Reg.FEV_EQ_CTL (qi - 1)

/-- Sends the queue's vector after a stored record at or above MINSEV, one message at a time (R485). -/
def fevIrq (s : State) (qi sev : Nat) : State :=
  let c := fevCtl s qi
  if wbit c 11 && decide (fld c 13 12 ≤ sev) && !(fevQ s qi).msgOut then
    sendVec (fevQMod s qi (fun q => { q with msgOut := true })) (qi - 1) (fld c 10 0)
  else s

/-- Stores a record that the rate limit let pass: RSEQ advances, and the 8 words enter whole or not at all (R478). -/
def fevStore (s : State) (r : Report) (qi : Nat) : State :=
  let rseq := (fevQ s qi).rseq + 1
  let s1 := fevQMod s qi (fun q => { q with rseq := rseq })
  let ws := recordWords s1 r qi (fevC s1 qi r.cls).held rseq
  let s2 := if qi = 0 then standbyCopy s1 r ws else s1
  let p := sqmPushAll s2 (fevSqm qi) (ws.map (fun w => ⟨w, 0⟩))
  if p.2 then
    fevIrq (fevCMod p.1 qi r.cls (fun c => { c with written := wrap32 (c.written + 1), held := 0 })) qi r.sev
  else fevCMod p.1 qi r.cls (fun c => { c with ovf := wrap32 (c.ovf + 1) })

/-- Writes a report to one queue: summary bit, rate limit, record (R478, R480). FATAL records never take from the bucket. -/
def fevWrite (s : State) (r : Report) (qi : Nat) : State :=
  let s1 := fevQMod s qi (fun q => { q with summary := q.summary ||| BitVec.ofNat 20 (2 ^ r.cls) })
  if r.sev = 3 then fevStore s1 r qi
  else
    let c := fevRefill s1 (fevC s1 qi r.cls)
    if c.level < 1000000000 then
      fevCMod s1 qi r.cls (fun _ => { c with supp := wrap32 (c.supp + 1), held := c.held + 1 })
    else fevStore (fevCMod s1 qi r.cls (fun _ => { c with level := c.level - 1000000000 })) r qi

/-- A class that Table 21-2 sends to the fault queue. -/
def toFaultQueue (cls : Nat) : Bool := !(cls = 0x0F || cls = 0x11 || cls = 0x12)

/-- A class that Table 21-2 sends to an event queue. -/
def toEventQueue (cls : Nat) : Bool :=
  cls = 0x0B || cls = 0x0D || cls = 0x0E || cls = 0x0F || cls = 0x10 || cls = 0x11 || cls = 0x12

/-- Writes the event of a report to its tenant's queue, or to the fault queue for slots 253 to 255, or discards it once the
tenant's drain has ended (R477). -/
def fevEvent (s : State) (r : Report) : State :=
  let t := if r.cls = 0x11 ∨ r.cls = 0x12 then 0 else r.tenant
  if 253 ≤ t then (if toFaultQueue r.cls ∨ t = 0xFF then s else fevWrite s r 0)
  else if (fevQ s (1 + t)).stopped then fevCMod s 0 r.cls (fun c => { c with ovf := wrap32 (c.ovf + 1) })
  else fevWrite s r (1 + t)

/-- FAULT_REPORT: a report goes to the queues Table 21-2 names for its class (R475, R477). Codes that the spec does not
produce write nothing. -/
def report (s : State) (r : Report) : State :=
  if r.cls = 0 ∨ 0x13 < r.cls then s
  else
    let s1 := if toFaultQueue r.cls then fevWrite s r 0 else s
    if toEventQueue r.cls then fevEvent s1 r else s1

/-- An async event of class ACCESS to a tenant (Table 21-2): status, unit, context, queue or QP, address. -/
def accessEvent (s : State) (t status unit ctx queue addr : Nat) : State :=
  report s { cls := 0x0F, status := status, sev := 0, unit := unit, tenant := t,
             w3 := w64 (ctx % 65536 + queue % 2 ^ 32 * 65536), w4 := w64 addr }

/-- Activations of a spare kind since cold power-up. -/
def spareUsed (s : State) (kind : Nat) : Nat := tget (fun _ => 0) s.fev.spare kind

/-- A spare activation (R479): `left` spares stay in the pool that served it, `brought` came in, or the pool was empty. -/
def spareReport (s : State) (kind unit inst left : Nat) (brought : Option Nat) : State :=
  let s1 := match brought with
    | some _ => { s with fev := { s.fev with spare := tmod (fun _ => 0) s.fev.spare kind (· + 1) } }
    | none => s
  report s1 { cls := 0x0C, sev := if brought = none then 2 else 1, unit := unit, code := kind, inst := inst,
              w3 := w64 left, w4 := match brought with | some b => w64 b | none => BitVec.allOnes 64 }

/-- The activation of a reserve cell is logged: slice `sl`, of which the reserve had `was` cells before (R395, R484). -/
def cellReport (s : State) (q sl was : Nat) : State := spareReport s 6 11 q (sqmRes s sl) (if was = 0 then none else some sl)

/-- Pops an SQM queue and reports what the pop found: a parity error, a retired cell (R395, R479). -/
def sqmPop (s : State) (q : Nat) (bad : Bool) : State × PopResult :=
  let p := sqmPopRaw s q bad
  let s1 := if bad && decide (p.2.1.tag = 2) then
      report p.1 { cls := 0x13, status := Status.poisoned, sev := 2, unit := 11, code := 2, inst := q } else p.1
  match p.2.2 with
  | none => (s1, p.2.1)
  | some sl => (cellReport s1 q sl (sqmRes s sl), p.2.1)

/-- Gives the cells of a queue that is cleared back to their slices; a bad one is retired and logged (R395, R398). -/
def sqmGiveBack (q : Nat) : List SqmCell → State → State
  | [], s => s
  | c :: r, s =>
    sqmGiveBack q r (if c.bad then cellReport (sqmRetire s c.slice) q c.slice (sqmRes s c.slice)
      else sqmSetFree s c.slice (sqmFree s c.slice + 1))

/-- A queue in CLEARING has its cells zeroed and returned, and leaves it empty (R398). -/
def sqmClear (s : State) (q : Nat) (t : Nat) : State :=
  let Q := sqmQ s q
  let s1 := sqmCharge (sqmGiveBack q Q.cells s) t (· - Q.cells.length)
  sqmMod s1 q (fun Q => { drops := Q.drops })

/-! ### Peer suspects and notices -/

/-- A suspect report of a peer node, by key node + 4096 · plane, is suppressed: a notice named it, or it is unreachable
(R483). -/
def suspectSuppressed (s : State) (node : Nat) (unreachable : Bool) : Bool :=
  unreachable || s.fev.suppress.contains node

/-- The PEER record of a window (Table 21-2, R482). -/
def peerRecord (node tenant status first count : Nat) (close : Option Nat) : Report :=
  { cls := 0x0D, status := status, sev := 2, unit := 3, tenant := tenant, count := count,
    w3 := w64 node, w4 := w64 first, w5 := match close with | some t => w64 t | none => 0 }

/-- A peer-suspect report reaching one queue (R482): a window opens with a record, or merges, or the table is full. -/
def suspectQueue (s : State) (qi node tenant status first : Nat) : State :=
  if s.fev.windows.any (fun w => w.queue = qi ∧ w.node = node) then
    let ws := mapIf (fun w => w.queue = qi ∧ w.node = node) (fun w => { w with count := w.count + 1 }) s.fev.windows
    bump { s with fev := { s.fev with windows := ws } } Reg.FEV_PEER_COAL 0
  else if 4096 ≤ s.fev.windows.length then
    bump (fevWrite s (peerRecord node tenant status first 1 none) qi) Reg.FEV_PEER_TBL_FULL 0
  else
    fevWrite { s with fev := { s.fev with windows := s.fev.windows ++ [⟨qi, tenant, node, s.time, 1, status, first⟩] } }
      (peerRecord node tenant status first 1 none) qi

/-- A transport report of a peer suspect (R191, R482, R483): to the fault queue and to the tenant's queue. -/
def suspect (s : State) (tenant node status first : Nat) (unreachable : Bool) : State :=
  if suspectSuppressed s node unreachable then bump s Reg.FEV_NOTICE_SUPP 0
  else
    let s1 := suspectQueue s 0 node tenant status first
    if 253 ≤ tenant then s1
    else if (fevQ s1 (1 + tenant)).stopped then fevCMod s1 0 0x0D (fun c => { c with ovf := wrap32 (c.ovf + 1) })
    else suspectQueue s1 (1 + tenant) node tenant status first

/-- Opens or renews the suppression of a node (R483). -/
def suppressNode (s : State) (node : Nat) : State :=
  if s.fev.suppress.contains node then s else { s with fev := { s.fev with suppress := s.fev.suppress ++ [node] } }

/-- Restarts the sequence of a record queue and lets Firefly write it again (R475, R477). -/
def fevRestart (s : State) (qi : Nat) : State := fevQMod s qi (fun q => { q with rseq := 0, stopped := false })

/-! ### The commands of Firefly -/

/-- FAULT_REPORT (R475 to R486). -/
def execFaultReport (r : Report) (s : State) : Host.Outcome State Fault Refusal := .next (report s r)

/-- SUSPECT_WINDOW_CLOSE (R482): the window of a queue and node closes; several reports give a merged record. -/
def execSuspectWindowClose (qi node : Nat) (s : State) : Host.Outcome State Fault Refusal :=
  match takeFirst (fun w : Suspect => w.queue = qi ∧ w.node = node) s.fev.windows with
  | none => .next s
  | some (w, rest) =>
    let s1 := { s with fev := { s.fev with windows := rest } }
    .next (if w.count ≤ 1 then s1
      else if qi ≠ 0 ∧ (fevQ s1 qi).stopped = true then fevCMod s1 0 0x0D (fun c => { c with ovf := wrap32 (c.ovf + 1) })
      else fevWrite s1 (peerRecord node w.tenant w.status w.first w.count (some s.time)) qi)

/-- NOTICE_SUPPRESSION_EXPIRY (R483). -/
def execNoticeSuppressionExpiry (node : Nat) (s : State) : Host.Outcome State Fault Refusal :=
  .next { s with fev := { s.fev with suppress := s.fev.suppress.filter (· ≠ node) } }

/-- Pops a record queue for a function, latching the tag (R394, R487) and letting the next message be sent (R485). -/
def fevPop (qi fn : Nat) (bad : Bool) (s : State) : State :=
  let p := sqmPop s (fevSqm qi) bad
  let tag := p.2.tag + 4 * b2n p.2.underrun
  emit (fnMod (fevQMod p.1 qi (fun q => { q with msgOut := false })) fn
    (fun F => if qi = 0 then { F with fqTag := tag } else { F with eqTag := tag })) (.regData fn p.2.word)

/-- FAULT_QUEUE_POP (R478, R487): an 8-byte read of FEV_FQ_POP by the PF; a 4-byte one returns 0 and removes nothing
(R490). `bad`: the word's parity fails. -/
def execFaultQueuePop (bytes : Nat) (bad : Bool) (s : State) : Host.Outcome State Fault Refusal :=
  if !hostUp s then .next s
  else if bytes = 8 then .next (fevPop 0 0 bad s) else .next (emit s (.regData 0 0))

/-- EVENT_QUEUE_POP (R487): an 8-byte read of FEV_EQ_POP pops the function's own event queue. -/
def execEventQueuePop (fn bytes : Nat) (bad : Bool) (s : State) : Host.Outcome State Fault Refusal :=
  if !hostUp s || !fnExists s fn then .next s
  else if bytes = 8 then .next (fevPop (1 + fn) fn bad s) else .next (emit s (.regData fn 0))

/-- MCTP answers (Table 2-11): the standby domain has power and an election is over. -/
def mctpUp (s : State) : Bool := s.pw.stby && !s.boot.dead && s.boot.firstClaim.isSome

/-- STANDBY_COPY_READ (R486): management reads the oldest unread copy; MG_ALERT_N is asserted while any is unread. -/
def execStandbyCopyRead (s : State) : Host.Outcome State Fault Refusal :=
  if !mctpUp s then .next s
  else if s.fev.unread = 0 then .next (emit s (.standby []))
  else .next (emit { s with fev := { s.fev with unread := s.fev.unread - 1 } }
    (.standby (s.fev.standby.getD (s.fev.unread - 1) [])))

end Sys2Proof.Machine
end

