-- ==== Sys2Proof/Machine/Mem.lean ====
section
/-! DEFINITION. The memory tiers (chapter 15) and the frame-ownership check (R150 to R153): the local physical map, reads
and writes with poison, the memory cipher, retirement, patrol, retraining, key sets. -/
namespace Sys2Proof.Machine

/-! ### The local physical map -/

/-- Bytes of HBM3E present, from address 0 (R371). -/
def hbmBytes (v : Variant) : Nat := match v with | .tcn9416 => 8 * (72 * 2 ^ 30) | _ => 4 * (72 * 2 ^ 30)

/-- Bytes of LPDDR5X present, from 0x0100_0000_0000 (R371). -/
def lpddrBytes (v : Variant) : Nat := lpddrPkgs v * 2 ^ 36

/-- Base of the LPDDR5X tier. -/
def lpddrBase : Nat := 0x010000000000

/-- Base of tile memory: logical tile t's 4 MiB lie at this base + 4 MiB · t. -/
def tileBase : Nat := 0x800000000000

/-- The address lies in HBM3E that is present. -/
def inHbm (v : Variant) (a : Nat) : Bool := decide (a < hbmBytes v)

/-- The address lies in LPDDR5X that is present. -/
def inLpddr (v : Variant) (a : Nat) : Bool := decide (lpddrBase ≤ a ∧ a < lpddrBase + lpddrBytes v)

/-- The address lies in the memory of a logical tile of the variant. -/
def inTile (v : Variant) (a : Nat) : Bool := decide (tileBase ≤ a ∧ a < tileBase + tileCount v * 2 ^ 22)

/-- Base of the channel apertures (R361): channel ch of logical tile t at this base + 0x1000 · t + 0x100 · ch. -/
def apertureBase : Nat := 0x80F000000000

/-- The address lies in a channel aperture of a logical tile of the variant. -/
def inAperture (v : Variant) (a : Nat) : Bool := decide (apertureBase ≤ a ∧ a < apertureBase + tileCount v * 0x1000)

/-- A logical tile. -/
def tile (s : State) (t : Nat) : Tile := tget (fun _ => {}) s.tgd.tiles t

/-- The address lies in a present range of the local physical map (R140, R324, R361): an ABSENT tile's memory is not present. -/
def present (s : State) (a : Nat) : Bool :=
  inHbm s.variant a || inLpddr s.variant a ||
  (inTile s.variant a && decide ((tile s ((a - tileBase) / 2 ^ 22)).st ≠ 0)) ||
  (inAperture s.variant a && decide ((tile s ((a - apertureBase) / 0x1000)).st ≠ 0))

/-- The HBM3E stack of an offset (Table 15-1); a device with 4 stacks keeps the low 2 bits of each term. -/
def hbmStack (s : State) (a : Nat) : Nat :=
  let m := if hbmStacks s.variant = 8 then 8 else 4
  match s.mem.ilv with
  | 0 => Nat.xor (nfld a 14 12 % m) (nfld a 23 21 % m)
  | 1 => Nat.xor (nfld a 18 16 % m) (nfld a 23 21 % m)
  | 2 => nfld a 23 21 % m
  | _ => a / (72 * 2 ^ 30)

/-- The LPDDR5X package of an offset (Table 15-1); a device with 8 packages keeps the low 3 bits of each term. -/
def lpddrPkg (s : State) (a : Nat) : Nat :=
  let m := if lpddrPkgs s.variant = 16 then 16 else 8
  match s.mem.ilv with
  | 0 => Nat.xor (nfld a 15 12 % m) (nfld a 24 21 % m)
  | 1 => Nat.xor (nfld a 19 16 % m) (nfld a 24 21 % m)
  | 2 => nfld a 24 21 % m
  | _ => a / 2 ^ 36

/-- The controller that serves an address: 0 to 7 for HBM3E stacks, 8 to 23 for LPDDR5X packages (R371); none for tiles. -/
def controllerOf (s : State) (a : Nat) : Option Nat :=
  if inHbm s.variant a then some (hbmStack s a)
  else if inLpddr s.variant a then some (8 + lpddrPkg s (a - lpddrBase)) else none

/-- The quadrant of a controller (R371). -/
def controllerQuad (c : Nat) : Nat := if c < 8 then c / 2 else (c - 8) / 4

/-- The controller address of a local physical address: the offset with its selector bits removed (R372). -/
def controllerAddr (s : State) (a : Nat) : Nat :=
  let hbm := inHbm s.variant a
  let o := if hbm then a else a - lpddrBase
  let bits := if hbm then (if hbmStacks s.variant = 8 then 3 else 2) else (if lpddrPkgs s.variant = 16 then 4 else 3)
  let cut := fun lo => (o / 2 ^ (lo + bits)) * 2 ^ lo + o % 2 ^ lo
  match s.mem.ilv with
  | 0 => cut 12
  | 1 => cut 16
  | 2 => cut 21
  | _ => o % (if hbm then 72 * 2 ^ 30 else 2 ^ 36)

/-- The 64 KiB granule of an address in its controller's address space (R380). -/
def granuleOf (s : State) (a : Nat) : Nat := controllerAddr s a / 65536

/-- A controller. -/
def ctrl (s : State) (c : Nat) : Controller := tget (fun _ => {}) s.mem.controllers c

/-- Rewrites a controller. -/
def ctrlMod (s : State) (c : Nat) (f : Controller → Controller) : State :=
  { s with mem := { s.mem with controllers := tmod (fun _ => {}) s.mem.controllers c f } }

/-- The controller exists in the variant (R371). -/
def ctrlPresent (v : Variant) (c : Nat) : Bool :=
  decide (c < hbmStacks v) || decide (8 ≤ c ∧ c < 8 + lpddrPkgs v)

/-! ### Frame ownership -/

/-- The 2 MiB frame of an address. -/
def frameOf (a : Nat) : Nat := a / 2 ^ 21

/-- The ownership entry of a frame (R151): a tile's two frames belong to the owner of the tile and are always granted. -/
def frame (s : State) (f : Nat) : Frame :=
  if inTile s.variant (f * 2 ^ 21) then
    let t := (f * 2 ^ 21 - tileBase) / 2 ^ 22
    { alloc := true, owner := owner s 0x08 t, scrub := tget (fun _ => false) s.mem.tileScrub t }
  else tget (fun _ => {}) s.mem.frames f

/-- Rewrites the ownership entry of an HBM3E or LPDDR5X frame. -/
def frameMod (s : State) (f : Nat) (g : Frame → Frame) : State :=
  { s with mem := { s.mem with frames := tmod (fun _ => {}) s.mem.frames f g } }

/-- The entry of Table 6-3 as 16 bits. -/
def frameWord (F : Frame) : Nat := F.owner + b2n F.shared * 2 ^ 8 + b2n F.alloc * 2 ^ 9 + b2n F.scrub * 2 ^ 10

/-- Quadrants whose controllers hold a tenant's key set (R373, MEM_KSTAT). -/
def keyQuads (s : State) (t : Nat) : BitVec 4 := tget (fun _ => 0) s.mem.keySets t

/-- A tenant's key set is loaded where the address is served; tile memory has no memory cipher (R373). -/
def keyLoaded (s : State) (t a : Nat) : Bool :=
  match controllerOf s a with
  | none => true
  | some c => (keyQuads s t).getLsbD (controllerQuad c)

/-- The frame-ownership check of one address for a tenant (R152, R373). -/
def owned (s : State) (t a : Nat) : Bool :=
  let F := frame s (frameOf a)
  present s a && !inAperture s.variant a && F.alloc && !F.scrub && decide (F.owner = t) && keyLoaded s t a

/-- The 64-byte blocks that n bytes at an address touch. -/
def blocksOf (a n : Nat) : List Nat :=
  if n = 0 then [] else (List.range ((a + n - 1) / 64 - a / 64 + 1)).map (· + a / 64)

/-- The check over a range, block by block. -/
def ownedRange (s : State) (t a n : Nat) : Bool := (blocksOf a n).all (fun b => owned s t (b * 64))

/-- The units whose poison is kept: 64-byte blocks of HBM3E and LPDDR5X (R375) by address ÷ 64, and 64-bit words of tile memory (R349)
by 2^60 + address ÷ 8. -/
def unitsOfRange (s : State) (a n : Nat) : List Nat :=
  if n = 0 then []
  else if inTile s.variant a then (List.range ((a + n - 1) / 8 - a / 8 + 1)).map (· + (2 ^ 60 + a / 8))
  else blocksOf a n

/-- First address of a unit. -/
def unitBase (b : Nat) : Nat := if 2 ^ 60 ≤ b then (b - 2 ^ 60) * 8 else b * 64

/-- Bytes of a unit. -/
def unitSize (b : Nat) : Nat := if 2 ^ 60 ≤ b then 8 else 64

/-- The unit of an address. -/
def unitAt (s : State) (a : Nat) : Nat := if inTile s.variant a then 2 ^ 60 + a / 8 else a / 64

/-- The controller of a block is FAILED (R386). -/
def blockFailed (s : State) (b : Nat) : Bool :=
  match controllerOf s (unitBase b) with
  | none => false
  | some c => (ctrl s c).state = 3

/-! ### Bytes and blocks -/

/-- The default of a byte that nothing has written: the zero state (R377). -/
def zeroByte : Nat → Byte := fun _ => 0

/-- One byte of local physical memory. -/
def memByte (s : State) (a : Nat) : Byte := tget zeroByte s.mem.bytes a

/-- Writes one byte of local physical memory. -/
def setByte (s : State) (a : Nat) (b : Byte) : State :=
  { s with mem := { s.mem with bytes := tset zeroByte s.mem.bytes a b } }

/-- n bytes from an address. -/
def memBytes (s : State) (a : Nat) : Nat → List Byte
  | 0 => []
  | n + 1 => memByte s a :: memBytes s (a + 1) n

/-- Writes a byte string from an address. -/
def setBytes (s : State) (a : Nat) : List Byte → State
  | [] => s
  | b :: r => setBytes (setByte s a b) (a + 1) r

/-- The canonical form of memory: the byte table is canonical. -/
def Memory.wf (s : State) : Bool := twf zeroByte s.mem.bytes

/-! ### The memory cipher (R373, R374, R377) -/

/-- Multiplication of an XTS tweak by α (IEEE 1619): one bit up, the tweak little-endian. -/
def xtsNext (t : Nat) : Nat := if 2 ^ 127 ≤ t then Nat.xor (2 * t - 2 ^ 128) 0x87 else 2 * t

/-- The AES blocks of a data unit through one direction of AES, each between two additions of its tweak. -/
def xtsRun (aes : List Byte → List Byte) : Nat → List (List Byte) → List Byte
  | _, [] => []
  | t, p :: r => xorBytes (aes (xorBytes p (leBytes 16 t))) (leBytes 16 t) ++ xtsRun aes (xtsNext t) r

/-- The first tweak of a data unit: its sequence number under K2. -/
def xtsTweak (K : KeySet) (unit : Nat) : Nat := leNat (aesEnc K.k2 (leBytes 16 unit))

/-- XTS-AES-256 of a 64-byte block (R374): the data-unit sequence number is the local physical address bits [47:6]. -/
def xtsEnc (K : KeySet) (unit : Nat) (p : List Byte) : List Byte := xtsRun (aesEnc K.k1) (xtsTweak K unit) (chunks 16 4 p)

/-- The same block deciphered. -/
def xtsDec (K : KeySet) (unit : Nat) (c : List Byte) : List Byte := xtsRun (aesDec K.k1) (xtsTweak K unit) (chunks 16 4 c)

/-- tag(set, a, c) of R374 over the ciphertext of a block. How the 42 address bits and the slot fill GHASH's last block is the model's
(DESIGN CHOICE, log 46): six bytes and one, most significant first, then zeros. -/
def memTag (K : KeySet) (unit owner : Nat) (c : List Byte) : Nat :=
  let h := ghash (gcmH K.kt) 0 (chunks 16 4 c ++ [beBytes 6 unit ++ beBytes 1 owner])
  beNat (aesEnc K.kt (beBytes 16 h)) % 2 ^ 32

/-- A key set by its number; 0 is the device zero key set. -/
def keySetNo (s : State) (n : Nat) : KeySet := if n = 0 then s.mem.zeroSet else tget (fun _ => {}) s.mem.keys n

/-- A block's state. -/
def blk (s : State) (b : Nat) : Blk := tget (fun _ => {}) s.mem.blocks b

/-- Sets a block's state. -/
def setBlk (s : State) (b : Nat) (v : Blk) : State :=
  { s with mem := { s.mem with blocks := tset (fun _ => {}) s.mem.blocks b v } }

/-- The number of the key set that requests to a block use: that of its frame's owner in the controller that serves it (R373). -/
def setOf (s : State) (b : Nat) : Nat :=
  match controllerOf s (b * 64) with
  | none => 0
  | some c => tget (fun _ => 0) s.mem.keyNow ((frame s (frameOf (b * 64))).owner * 4 + controllerQuad c)

/-- What lies in the stack for a block (R374, R375): the ciphertext of its 64 bytes, and its tag. -/
def storedBlock (s : State) (b : Nat) : List Byte × Nat :=
  let K := keySetNo s (blk s b).set
  let c := xtsEnc K b (memBytes s (b * 64) 64)
  (c, memTag K b K.tenant c)

/-- A block was made with another key set than the one that requests to it use; the zero state passes under any (R377). -/
def otherSet (s : State) (b : Nat) : Bool := decide ((blk s b).set ≠ 0 ∧ (blk s b).set ≠ setOf s b)

/-- The tag of a block fails under the owner's set (R374, R377, R378): the set is not loaded, or another one made the block and the two do
not happen to give its ciphertext one tag. -/
def tagFails (s : State) (b : Nat) : Bool :=
  let t := (frame s (frameOf (b * 64))).owner
  decide ((blk s b).set ≠ 0) && (!keyLoaded s t (b * 64) ||
    (otherSet s b && decide (memTag (keySetNo s (setOf s b)) b t (storedBlock s b).1 ≠ (storedBlock s b).2)))

/-- The 64 bytes that a block deciphers to under the set that requests to it use. -/
def seenBlock (s : State) (b : Nat) : List Byte :=
  if otherSet s b then xtsDec (keySetNo s (setOf s b)) b (storedBlock s b).1 else memBytes s (b * 64) 64

/-- n bytes from an address as the controller deciphers them. -/
def seenBytes (s : State) (a n : Nat) : List Byte :=
  if (blocksOf a n).any (otherSet s) then (List.range n).map (fun i => (seenBlock s ((a + i) / 64)).getD ((a + i) % 64) 0)
  else memBytes s a n

/-- What a read gives: data, poisoned data, or a refusal of the ownership check. -/
inductive Rd
  | ok (bytes : List Byte)
  | poison (bytes : List Byte) (bad : Marks)
  | refused
deriving DecidableEq, Repr

/-- The bytes a read delivers. -/
def Rd.bytes : Rd → List Byte
  | .ok b => b
  | .poison b _ => b
  | .refused => []

/-- Which of them are poisoned. -/
def Rd.bad : Rd → Marks
  | .poison _ m => m
  | _ => []

/-- The MEMORY record of a controller and block, to both queues (Table 21-2). -/
def memRecord (s : State) (sev c b : Nat) : Report :=
  { cls := 0x0B, status := Status.poisoned, sev := sev, unit := 10, tenant := (frame s (frameOf (b * 64))).owner,
    inst := c, w3 := w64 (b * 64) }

/-- A block read finds its tag failing under the owner's set (R377, R378): POISON is set in the stored block, MEM_UE or
MEM_TAG_FAIL counts, a MEMORY record is written and the owner's event sent. -/
def tagFailure (s : State) (b : Nat) : State :=
  let s1 := setBlk s b { blk s b with poison := true }
  match controllerOf s (b * 64) with
  | none => s1
  | some c =>
    report (setReg (bump s1 Reg.MEM_TAG_FAIL c) Reg.MEM_POISON_LAST c (w64 (b * 64))) (memRecord s 2 c b)

/-- Settles the tags of the blocks that a read touches. -/
def settleTags (s : State) (bs : List Nat) : State :=
  bs.foldl (fun s b => if tagFails s b && !(blk s b).poison then tagFailure s b else s) s

/-- Counts a refused request of a tenant (ATU_OWN_FAULT, R153). -/
def ownFault (s : State) (t : Nat) : State := bumpFn s Reg.ATU_OWN_FAULT t

/-- The bytes of a range that are delivered poisoned: those of poisoned units, and of units whose controller FAILED. -/
def poisoned (s : State) (a n : Nat) : Marks :=
  marksIn (((unitsOfRange s a n).filter (fun b => (blk s b).poison || blockFailed s b)).map (fun b => (unitBase b, unitSize b))) a n

/-- Some byte of a range is delivered poisoned. -/
def anyPoison (s : State) (a n : Nat) : Bool := !(poisoned s a n).isEmpty

/-- A checked read of n bytes for a tenant (R152, R378). -/
def memRead (s : State) (t a n : Nat) : State × Rd :=
  if ownedRange s t a n then
    let bs := unitsOfRange s a n
    let s1 := settleTags s bs
    let d := seenBytes s1 a n
    match poisoned s1 a n with
    | [] => (s1, .ok d)
    | m => (s1, .poison d m)
  else (ownFault s t, .refused)

/-- The block state after a write (R376, R379): a whole-block write clears POISON, a partial write of a poisoned block or
of one whose tag fails leaves it poisoned, and poisoned data poisons the block. The block is from then on enciphered under its owner's set (R374). -/
def blockAfterWrite (s : State) (a n : Nat) (bad : Marks) (b : Nat) : Blk :=
  let whole := decide (a ≤ unitBase b ∧ unitBase b + unitSize b ≤ a + n)
  let p := (blk s b).poison || tagFails s b
  let ep := bad.any (fun r => decide (a + r.1 < unitBase b + unitSize b ∧ unitBase b < a + r.1 + r.2))
  { poison := ep || (!whole && p), set := setOf s b }

/-- A partial write meets a block of another key set: what it does not cover stays as it is deciphered now (R376, R379). -/
def settleBlock (s : State) (a n b : Nat) : State :=
  if otherSet s b && !decide (a ≤ b * 64 ∧ b * 64 + 64 ≤ a + n) then setBytes s (b * 64) (seenBlock s b) else s

/-- A checked write for a tenant: the state, and whether the request proceeded (R152, R376, R386). `bad`: the bytes
that carry poison. -/
def memWrite (s : State) (t a : Nat) (bytes : List Byte) (bad : Marks) : State × Bool :=
  let bs := unitsOfRange s a bytes.length
  if ownedRange s t a bytes.length && !bs.any (blockFailed s) then
    let after := bs.map (fun b => (b, blockAfterWrite s a bytes.length bad b))
    let s1 := setBytes ((blocksOf a bytes.length).foldl (fun s b => settleBlock s a bytes.length b) s) a bytes
    (after.foldl (fun s x => setBlk s x.1 x.2) s1, true)
  else (ownFault s t, false)

/-- Puts a range of memory in the zero state (R377, R384). -/
def zeroRange (s : State) (a n : Nat) : State :=
  { s with mem := { s.mem with
      bytes := s.mem.bytes.filter (fun c => !decide (a ≤ c.1 ∧ c.1 < a + n)),
      blocks := s.mem.blocks.filter (fun c => !decide (a ≤ unitBase c.1 ∧ unitBase c.1 < a + n)) } }

/-- Sets the quadrants whose controllers hold a tenant's key set (R373, R414). -/
def keySetPut (s : State) (t : Nat) (quads : BitVec 4) : State :=
  { s with mem := { s.mem with keySets := tset (fun _ => 0) s.mem.keySets t quads } }

/-- A key set from twelve random words. -/
def keySetOf (t : Nat) (w : List W64) : KeySet :=
  { tenant := t, k1 := wordsToBytes (w.take 4), k2 := wordsToBytes ((w.drop 4).take 4), kt := wordsToBytes ((w.drop 8).take 4) }

/-- The RSP draws a fresh key set of a tenant and loads it in the controllers of some quadrants (R373, R416, R417). What the tenant wrote
there before lies under the set it was written with. -/
def keySetLoad (s : State) (t : Nat) (quads : BitVec 4) : State :=
  let d := drawN 12 s
  let n := s.mem.keysDrawn + 1
  let now := ([0, 1, 2, 3].filter (fun q => quads.getLsbD q)).foldl (fun T q => tset (fun _ => 0) T (t * 4 + q) n) s.mem.keyNow
  keySetPut { d.2 with mem := { d.2.mem with
    keysDrawn := n, keys := tset (fun _ => {}) d.2.mem.keys n (keySetOf t d.1), keyNow := now } } t (keyQuads s t ||| quads)

/-! ### Retirement -/

/-- Reserve granules of a controller (R380). -/
def reserveOf (c : Nat) : Nat := if c < 8 then 18432 else 16384

/-- Reserve granules left (MEM_RET_LEFT). -/
def reserveLeft (s : State) (c : Nat) : Nat := reserveOf c - regN s Reg.MEM_RET_USED c

/-- GRANULE_RETIREMENT (R380, R382): the copy of a granule starts, or a record says that the reserve is spent. -/
def startRetire (s : State) (c g a : Nat) : State :=
  if (ctrl s c).retired.contains g ∨ (ctrl s c).retiring.isSome then s
  else if reserveLeft s c = 0 then
    frameMod (report s (memRecord s 2 c (a / 64))) (frameOf a) (fun F => { F with quarantine := true })
  else ctrlMod s c (fun C => { C with retiring := some g })

/-- A corrected error counts against its granule for 24 h; at MEM_RET_THR within that time the granule is retired (R380). -/
def countError (s : State) (c g a : Nat) : State :=
  let l := s.time :: (tget (fun _ => []) (ctrl s c).errors g).filter (fun t => decide (s.time < t + 86400000000000))
  let s1 := ctrlMod s c (fun C => { C with errors := tset (fun _ => []) C.errors g l })
  if fld (reg s Reg.MEM_RET_THR 0) 15 0 ≤ l.length then startRetire s1 c g a else s1

/-- What the controller finds in a block (Table 15-3). The finding of a block's stored tag and POISON is the state's. -/
def applyFinding (s : State) (a : Nat) (f : Finding) : State :=
  match controllerOf s a with
  | none => s
  | some c =>
    let b := a / 64
    match f with
    | .clean => s
    | .corrected => countError (bump s Reg.MEM_CE c) c (granuleOf s a) a
    | .tagReread => if 8 ≤ c then bump s Reg.MEM_TAG_REREAD c else s
    | .uncorrectable =>
      if (blk s b).poison then s
      else
        let s1 := setReg (bump (setBlk s b { blk s b with poison := true }) Reg.MEM_UE c) Reg.MEM_POISON_LAST c (w64 (b * 64))
        startRetire (report s1 (memRecord s 2 c b)) c (granuleOf s a) a

/-! ### The commands of the memory subsystem -/

/-- The granule of an address is being copied, or its channel retrained: the request is held (R381, R386). -/
def heldBy (s : State) (a : Nat) : Option Nat :=
  match controllerOf s a with
  | none => none
  | some c => if (ctrl s c).retiring = some (granuleOf s a) ∨ (ctrl s c).retraining = true then some c else none

/-- MEMORY_WRITE (R373, R376, R379, R152): a request of a tenant writes bytes. -/
def execMemoryWrite (t a : Nat) (bytes : List Byte) (s : State) : Host.Outcome State Fault Refusal :=
  match heldBy s a with
  | some c => .next (ctrlMod s c (fun C => { C with held := C.held ++ [.memWrite t a bytes] }))
  | none => .next (memWrite s t a bytes []).1

/-- MEMORY_READ (R378, Table 15-3): a request of a tenant reads bytes; `f` is what the controller finds in its first block. -/
def execMemoryRead (t a n : Nat) (f : Finding) (s : State) : Host.Outcome State Fault Refusal :=
  match heldBy s a with
  | some c => .next (ctrlMod s c (fun C => { C with held := C.held ++ [.memRead t a n f] }))
  | none =>
    if ownedRange s t a n then
      let p := memRead (applyFinding s a f) t a n
      .next (match p.2 with
        | .ok d => emit p.1 (.readData t d false)
        | .poison d _ => emit p.1 (.readData t d true)
        | .refused => p.1)
    else .next (ownFault s t)

/-- Lets the held requests of a controller proceed in their order of arrival (R381, R386). -/
def releaseHeld (s : State) (c : Nat) : State :=
  let h := (ctrl s c).held
  let s1 := ctrlMod s c (fun C => { C with held := [] })
  { s1 with atu := { s1.atu with ready := s1.atu.ready ++ h } }

/-- RETIREMENT_COPY_DONE (R381): the remap takes effect, the activation is logged, held requests proceed. `bad`: the local
physical address of a block that was uncorrectable when it was copied. -/
def execRetirementCopyDone (c : Nat) (bad : Option Nat) (s : State) : Host.Outcome State Fault Refusal :=
  match (ctrl s c).retiring with
  | none => .next s
  | some g =>
    let s1 := bump (ctrlMod s c (fun C => { C with retiring := none, retired := C.retired ++ [g] })) Reg.MEM_RET_USED c
    let s2 := match bad with
      | none => s1
      | some a =>
        report (setReg (setBlk s1 (a / 64) { blk s1 (a / 64) with poison := true }) Reg.MEM_POISON_LAST c (w64 (a / 64 * 64)))
          (memRecord s 2 c (a / 64))
    .next (releaseHeld (spareReport s2 (if c < 8 then 4 else 5) 10 c (reserveLeft s2 c) (some g)) c)

/-- PATROL_READ (R383): a block is checked at the lowest priority. `written`: a write was accepted since the read, so a
write-back is dropped. `pass`: this was the last block of a pass. -/
def execPatrolRead (c a : Nat) (f : Finding) (written pass : Bool) (s : State) : Host.Outcome State Fault Refusal :=
  let s0 := if pass then bump s Reg.MEM_PATROL_PASS c else s
  if wbit (reg s Reg.MEM_PATROL_CFG 0) 8 || decide (controllerOf s a ≠ some c) then .next s
  else
    let F := frame s (frameOf a)
    if F.scrub then .next s0
    else if !F.alloc then
      (match f with
       | .uncorrectable => .next (if written then s0 else zeroRange s0 (a / 64 * 64) 64)
       | _ => .next s0)
    else .next (applyFinding (settleTags s0 [a / 64]) a f)

/-- CHANNEL_RETRAIN (R386): a channel is retrained on its interval or a temperature move, holding its requests. -/
def execChannelRetrain (c temp : Nat) (s : State) : Host.Outcome State Fault Refusal :=
  if (ctrl s c).state = 2 then .next (ctrlMod s c (fun C => { C with retraining := true, temp := temp % 256 }))
  else .next s

/-- RETRAIN_DONE (R386): held requests proceed, or the controller becomes FAILED with a fatal record. -/
def execRetrainDone (c : Nat) (ok : Bool) (s : State) : Host.Outcome State Fault Refusal :=
  if (ctrl s c).retraining then
    let s1 := bump (ctrlMod s c (fun C => { C with retraining := false, state := if ok then 2 else 3 })) Reg.MEM_RETRAIN c
    .next (releaseHeld (if ok then s1
      else report s1 { cls := 0x0B, status := Status.poisoned, sev := 3, unit := 10, inst := c }) c)
  else .next s

/-- KEY_SET_LOAD (R373, R416): the RSP loads a fresh key set of a tenant in the controllers of a quadrant, or destroys it.
Blocks written under the set before fail their tags from then on. -/
def execKeySetLoad (t quad : Nat) (load : Bool) (s : State) : Host.Outcome State Fault Refusal :=
  let bit : BitVec 4 := BitVec.ofNat 4 (2 ^ (quad % 4))
  .next (if load then bump (keySetLoad s t bit) Reg.RSP_KEY_LOADS 0
         else keySetPut s t (keyQuads s t &&& ~~~bit))

end Sys2Proof.Machine
end

