-- ==== Sys2Proof/Machine/Atu.lean ====
section
/-! DEFINITION. Translation (chapter 6): contexts, table walks, the translation cache, epochs and transfers in flight,
regions and their admission. -/
namespace Sys2Proof.Machine

/-! ### Contexts -/

/-- A context. -/
def ctx (s : State) (c : Nat) : Ctx := tget (fun _ => {}) s.atu.ctxs c

/-- Rewrites a context. -/
def ctxMod (s : State) (c : Nat) (f : Ctx → Ctx) : State :=
  { s with atu := { s.atu with ctxs := tmod (fun _ => {}) s.atu.ctxs c f } }

/-- Transfers in flight of an epoch of a context (R149). -/
def inflightOf (C : Ctx) (e : BitVec 16) : Nat := tget (fun _ => 0) C.inflight e.toNat

/-- The number of tracked epochs: those with transfers in flight (R149). -/
def trackedEpochs (C : Ctx) : Nat := C.inflight.length

/-- The transfers, of at most 4 KiB each, that n bytes take (R147). -/
def transfersOf (n : Nat) : Nat := max 1 ((n + 4095) / 4096)

/-- The transfers of n bytes of the context are issued: the epoch they use (R147, R149). -/
def transferStart (s : State) (c n : Nat) : State :=
  ctxMod s c (fun C => { C with inflight := tmod (fun _ => 0) C.inflight C.epoch.toNat (· + transfersOf n) })

/-- The transfers of n bytes issued in an epoch have completed or been aborted. -/
def transferEnd (s : State) (c e n : Nat) : State :=
  ctxMod s c (fun C => { C with inflight := tmod (fun _ => 0) C.inflight e (· - transfersOf n) })

/-- Purges the cached translations and walk words of a context that pass a test. -/
def purge (s : State) (c : Nat) (p : Cached → Bool) : State :=
  { s with atu := { s.atu with cache := s.atu.cache.filter (fun e => !(decide (e.ctx = c) && p e)),
                               walk := s.atu.walk.filter (fun w => w.ctx ≠ c) } }

/-- Advances a context's epoch, modulo 2^16 (R145). -/
def advanceEpoch (s : State) (c : Nat) : State := ctxMod s c (fun C => { C with epoch := C.epoch + 1 })

/-! ### Walks -/

/-- The outcome of a walk: a leaf and its page shift, a failure with its status, or a host-table word still to be read. -/
inductive Walk
  | leaf (w : W64) (shift : Nat)
  | fail (status : Nat)
  | need (addr : Nat)
deriving DecidableEq, Repr

/-- Field ADDR of a table entry, as the output address (Table 6-2). -/
def pteAddr (w : W64) : Nat := fld w 63 16 * 65536

/-- Field TARGET of a table entry. -/
def pteTarget (w : W64) : Nat := fld w 5 4

/-- The shift of the page a leaf at a level maps, and of the index of that level (Table 6-1). -/
def levelShift (level : Nat) : Nat := match level with | 4 => 39 | 3 => 30 | 2 => 21 | _ => 16

/-- Entries of a table at a level (Table 6-1). -/
def levelEntries (level : Nat) : Nat := if level ≤ 1 then 32 else 512

/-- A well-formed entry of a level (R140): LEAF as the level needs it, no reserved TARGET or field, PEER only in a leaf
with TARGET 1, ADDR aligned, a fabric address with bits [63:61] zero (R9). -/
def pteOk (level : Nat) (w : W64) : Bool :=
  let leaf := wbit w 1
  wbit w 0 && decide (fld w 15 7 = 0) &&
  (if leaf then
     decide (level ≠ 4) && decide (pteTarget w ≠ 3) && (!wbit w 6 || decide (pteTarget w = 1)) &&
     decide (pteAddr w % 2 ^ levelShift level = 0) && (decide (pteTarget w ≠ 2) || decide (fld w 63 61 = 0))
   else decide (level ≠ 1) && decide (pteTarget w ≤ 1) && !wbit w 6)

/-- One table word, at a local or a host address (R141): the word, a failure, or the read that is still needed. The tables of a sealed
tenant live only in device memory (R137), so a pointer to the host fails there (DEDUCED, log 47). -/
def tableWord (s : State) (c t : Nat) (host : Bool) (a : Nat) : Walk :=
  if host && sealed s t then .fail Status.translationFault
  else if host then
    match s.atu.walk.find? (fun w => w.ctx = c ∧ w.addr = a) with
    | none => .need a
    | some w => match w.word with | none => .fail Status.translationFault | some v => .leaf v 0
  else if !present s a then .fail Status.translationFault
  else if !owned s t a then .fail Status.localProtection
  else if anyPoison s a 8 || tagFails s (unitAt s a) then .fail Status.translationFault
  else .leaf (w64 (leNat (seenBytes s a 8))) 0

/-- Walks the tables of a context from a level down (R138 to R141). -/
def walk (s : State) (c t va : Nat) : Nat → Bool → Nat → Walk
  | 0, _, _ => .fail Status.translationFault
  | level + 1, host, tbl =>
    match tableWord s c t host (tbl + (va / 2 ^ levelShift (level + 1) % levelEntries (level + 1)) * 8) with
    | .leaf w _ =>
      if !pteOk (level + 1) w then .fail Status.translationFault
      else if wbit w 1 then .leaf w (levelShift (level + 1))
      else if decide (pteTarget w = 0) && !present s (pteAddr w) then .fail Status.translationFault
      else walk s c t va level (decide (pteTarget w = 1)) (pteAddr w)
    | r => r

/-- The reads of a walk meet the memory controller: a block whose tag fails is poisoned and reported (R140, R378). -/
def walkTags (s : State) (c t va : Nat) : Nat → Bool → Nat → State
  | 0, _, _ => s
  | level + 1, host, tbl =>
    let a := tbl + (va / 2 ^ levelShift (level + 1) % levelEntries (level + 1)) * 8
    let s1 := if !host && present s a && owned s t a then settleTags s [unitAt s a] else s
    match tableWord s1 c t host a with
    | .leaf w _ =>
      if !pteOk (level + 1) w || wbit w 1 then s1 else walkTags s1 c t va level (decide (pteTarget w = 1)) (pteAddr w)
    | _ => s1

/-- The plane bit and node ID of this card as a fabric address carries them (R9, R41). -/
def ownNode (s : State) : Nat := fld (reg s Reg.FRT_NODE 0) 11 0

/-- This card's plane (R41). -/
def ownPlane (s : State) : Nat := b2n s.boot.straps.plane

/-- What an access may do with a translation: read, write, and use a remote fabric address (R143). -/
structure Use where
  rd : Bool := false
  wr : Bool := false
  fabric : Bool := false
deriving DecidableEq, Repr

/-- A bus page of a sealed tenant lies wholly within one of its bounce ranges (R426). -/
def inBounce (s : State) (t base size : Nat) : Bool :=
  (tenant s t).ranges.any (fun r => decide (r.1 ≤ base ∧ base + size ≤ r.1 + r.2))

/-- The target of a leaf for an address and a use, or the status it fails with (R140, R143, R426). Where the leaf lacks the right and its
output is absent too, the right is tested first: the spec gives no order (DESIGN CHOICE, log 47). -/
def leafTarget (s : State) (c t va : Nat) (w : W64) (shift : Nat) (u : Use) : Except Nat Target :=
  let out := pteAddr w + va % 2 ^ shift
  if (u.rd && !wbit w 2) || (u.wr && !wbit w 3) then .error Status.localProtection
  else match pteTarget w with
    | 0 => if present s out then .ok (.loc out) else .error Status.translationFault
    | 1 =>
      if sealed s t && !inBounce s t (pteAddr w) (2 ^ shift) then .error Status.translationFault
      else .ok (.bus out (wbit w 6) (pteAddr w))
    | _ =>
      if nfld out 60 60 = ownPlane s ∧ nfld out 59 48 = ownNode s then
        (if present s (out % 2 ^ 48) then .ok (.loc (out % 2 ^ 48)) else .error Status.translationFault)
      else if !u.fabric || !(ctx s c).fabricEn then .error Status.translationFault
      else if nfld out 60 60 ≠ ownPlane s then .error Status.peerUnreachable
      else .ok (.fab out)

/-- The outcome of a translation. -/
inductive Xlate
  | ok (t : Target) (left : Nat)
  | fail (status : Nat)
  | need (addr : Nat)
deriving DecidableEq, Repr

/-- Counts and latches a failed translation (ATU_XLATE_FAULT, ATU_CFAULT). -/
def xlateFault (s : State) (c t va st : Nat) : State :=
  if st = Status.translationFault then ctxMod (bumpFn s Reg.ATU_XLATE_FAULT t) c (fun C => { C with fault := w64 va })
  else if st = Status.localProtection then ownFault s t else s

/-- Keeps a translation in the cache, the most recently used first, 65,536 at most (Table 6-9, R142). -/
def cachePut (s : State) (e : Cached) : State :=
  { s with atu := { s.atu with cache := (e :: s.atu.cache.filter (· ≠ e)).take 65536 } }

/-- The walk that asked for the host-table words of a context is over (R142). -/
def forgetWalk (s : State) (c : Nat) : State := { s with atu := { s.atu with walk := s.atu.walk.filter (fun w => w.ctx ≠ c) } }

/-- Translates one address of a context (R138 to R143). Only valid entries are cached; a failed translation forgets its
table words, so that it is walked again on its next use (R142). -/
def xlate (s : State) (c va : Nat) (u : Use) : State × Xlate :=
  let t := ctxOwner s c
  if !(ctx s c).valid || decide (2 ^ 48 ≤ va) then
    (xlateFault s c t va Status.translationFault, .fail Status.translationFault)
  else match s.atu.cache.find? (fun e => e.ctx = c ∧ e.base ≤ va ∧ va < e.base + e.size) with
    | some e =>
      (match leafTarget s c t va e.leaf (Nat.log2 e.size) u with
       | .ok g => (cachePut s e, .ok g (e.size - va % e.size))
       | .error st => (if st = Status.translationFault then xlateFault s c t va st else s, .fail st))
    | none =>
      let root := (ctx s c).root
      let s0 := walkTags s c t va 4 (wbit root 0) (fld root 63 12 * 4096)
      match walk s0 c t va 4 (wbit root 0) (fld root 63 12 * 4096) with
      | .need a => (s0, .need a)
      | r =>
        let s1 := forgetWalk (bumpFn s0 Reg.ATU_TC_MISS t) c
        match r with
        | .leaf w shift =>
          (match leafTarget s1 c t va w shift u with
           | .error st => (if st = Status.translationFault then xlateFault s1 c t va st else s1, .fail st)
           | .ok g => (cachePut s1 ⟨c, va / 2 ^ shift * 2 ^ shift, 2 ^ shift, w⟩, .ok g (2 ^ shift - va % 2 ^ shift)))
        | .fail st => (xlateFault s1 c t va st, .fail st)
        | .need a => (s1, .need a)

/-- The outcome of translating a range: its pieces in order, a failure with its status and address, or a host-table word
still to be read. -/
inductive Pieces
  | ok (ps : List (Target × Nat))
  | fail (status addr : Nat)
  | need (addr : Nat)
deriving DecidableEq, Repr

/-- Translates a range page by page; the fuel bounds the pages. -/
def xlateRange (s : State) (c va len : Nat) (u : Use) : Nat → State × Pieces
  | 0 => (s, if len = 0 then .ok [] else .fail Status.translationFault va)
  | n + 1 =>
    if len = 0 then (s, .ok [])
    else match xlate s c va u with
      | (s1, .need a) => (s1, .need a)
      | (s1, .fail st) => (s1, .fail st va)
      | (s1, .ok g left) =>
        let k := min left len
        match xlateRange s1 c (va + k) (len - k) u n with
        | (s2, .ok ps) => (s2, .ok ((g, k) :: ps))
        | r => r

/-- Pages that a range of bytes can touch, at 64 KiB each. -/
def pageFuel (len : Nat) : Nat := len / 65536 + 2

/-- Translates a whole range. -/
def xlateAll (s : State) (c va len : Nat) (u : Use) : State × Pieces := xlateRange s c va len u (pageFuel len)

/-- Work that is only tried again: it need not wait twice for one word. -/
def onlyRetries : Waiter → Bool
  | .ringRead _ _ _ | .fragTable _ _ | .entryStart _ _ | .entryFinish _ _ | .headWrite _ | .pick _ | .execHead _ _ _ | .tileBurst _ _
  | .tableRead => true
  | _ => false

/-- The function whose requester ID a tenant's bus requests carry: its own, or the PF for tenants 253 to 255 (R135). -/
def requesterFn (t : Nat) : Nat := if 253 ≤ t then 0 else t

/-- A command waits for a host-table word: the read is issued with the tenant's requester ID (R135, R141). -/
def stall (s : State) (c addr : Nat) (cmd : Waiter) : State :=
  if onlyRetries cmd && s.atu.stalled.any (fun w => decide (w = ⟨c, addr, cmd⟩)) then s
  else emit { s with atu := { s.atu with stalled := s.atu.stalled ++ [⟨c, addr, cmd⟩] } } 
    (.busRead (requesterFn (ctxOwner s c)) (.tableWalk c addr) addr 8)

/-! ### Moving data through translations -/

/-- The opened record that holds a piece of plaintext, if it has been opened (R411). -/
def openedRec (s : State) (c base r : Nat) : Option Opened :=
  s.cph.opened.find? (fun o => o.ctx = c ∧ o.base = base ∧ o.rec_ = r)

/-- A new transfer over a range opens its records anew: what an earlier transfer opened there is forgotten (R411). -/
def forgetRecords (s : State) (c base : Nat) : State :=
  { s with cph := { s.cph with opened := s.cph.opened.filter (fun o => !decide (o.ctx = c ∧ o.base = base)) } }

/-- Some record of the pieces failed its tag (R411). -/
def recordsBad (s : State) (ps : List (Target × Nat)) : Bool :=
  ps.any (fun p => match p.1 with
    | .sealed c b r _ => (match openedRec s c b r with | some o => decide (o.status = Status.authFail) | none => false)
    | _ => false)

/-- Every sealed piece has its record opened. -/
def recordsThere (s : State) (ps : List (Target × Nat)) : Bool :=
  ps.all (fun p => match p.1 with | .sealed c b r _ => (openedRec s c b r).isSome | _ => true)

/-- The bytes and the refusal of one piece of a read. `bus`: the bytes that the bus pieces return in order, none when a read
failed (R494). -/
def readPiece (s : State) (t : Nat) (g : Target) (n : Nat) (bus : Option (List Byte)) : State × Rd :=
  match g with
  | .loc a => memRead s t a n
  | .sealed c b r off =>
    (match openedRec s c b r with
     | none => (s, .refused)
     | some o => if o.status = Status.localProtection then (s, .refused)
                 else (s, .ok (padTo n (o.bytes.drop off))))
  | _ => match bus with
    | none => (s, .refused)
    | some b => (s, .ok (padTo n b))

/-- What is left of the bus bytes after a piece. -/
def busRest (g : Target) (n : Nat) (bus : Option (List Byte)) : Option (List Byte) :=
  match g with
  | .loc _ => bus
  | .sealed _ _ _ _ => bus
  | _ => bus.map (fun b => b.drop n)

/-- Reads translated pieces for a tenant. -/
def readPieces (s : State) (t : Nat) : List (Target × Nat) → Option (List Byte) → State × Rd
  | [], _ => (s, .ok [])
  | (g, n) :: ps, bus =>
    match readPiece s t g n bus with
    | (s1, .refused) => (s1, .refused)
    | (s1, d) =>
      match readPieces s1 t ps (busRest g n bus) with
      | (s2, .refused) => (s2, .refused)
      | (s2, .poison e m) => (s2, .poison (d.bytes ++ e) (d.bad ++ marksUp m n))
      | (s2, .ok e) => (s2, match d with | .poison b m => .poison (b ++ e) m | _ => .ok (d.bytes ++ e))

/-- Relaxed Ordering on data writes of a tenant (R71): HIF_CTL.RO_EN and the function's Device Control register. -/
def relaxed (s : State) (t : Nat) : Bool := wbit (reg s Reg.HIF_CTL 0) 0 && (fnGet s (requesterFn t)).roEnable

/-- Puts bytes into a record in seal staging (R412). -/
def stagePut (tbl : Tbl (Option Byte)) (off : Nat) : List Byte → Tbl (Option Byte)
  | [] => tbl
  | b :: r => stagePut (tset (fun _ => none) tbl off (some b)) (off + 1) r

/-- Bytes placed into a sealed host range wait in seal staging until their record is full (R412). -/
def stageBytes (s : State) (t c base r off : Nat) (b : List Byte) (ep : Bool) : State :=
  { s with cph := { s.cph with staging := s.cph.staging.map (fun g =>
      if g.tenant = t ∧ g.ctx = c ∧ g.base = base ∧ g.rec_ = r then { g with bytes := stagePut g.bytes off b, ep := g.ep || ep } else g) } }

/-- Writes bytes through translated pieces for a tenant, and whether every local piece proceeded. `m`: the bytes that carry poison; a write on the
bus that holds one has EP set (R379). -/
def writePieces (s : State) (t : Nat) : List (Target × Nat) → List Byte → Marks → State × Bool
  | [], _, _ => (s, true)
  | (.loc a, n) :: ps, b, m =>
    let p := memWrite s t a (b.take n) (marksIn m 0 n)
    if p.2 then writePieces p.1 t ps (b.drop n) (marksIn m n b.length) else (p.1, false)
  | (.bus a _ _, n) :: ps, b, m =>
    writePieces (emit s (.busWrite (requesterFn t) a (b.take n) (relaxed s t) (!(marksIn m 0 n).isEmpty))) t ps (b.drop n) (marksIn m n b.length)
  | (.fab _, n) :: ps, b, m => writePieces s t ps (b.drop n) (marksIn m n b.length)
  | (.sealed c base r off, n) :: ps, b, m =>
    writePieces (stageBytes s t c base r off (b.take n) (!(marksIn m 0 n).isEmpty)) t ps (b.drop n) (marksIn m n b.length)

/-- The local pieces of a range all pass the ownership check for a tenant. -/
def piecesOwned (s : State) (t : Nat) (ps : List (Target × Nat)) : Bool :=
  ps.all (fun p => match p.1 with | .loc a => ownedRange s t a p.2 | _ => true)

/-! ### Regions (R154 to R161) -/

/-- A region entry. -/
def region (s : State) (i : Nat) : Region := tget (fun _ => {}) s.atu.regions i

/-- Rewrites a region entry. -/
def regionMod (s : State) (i : Nat) (f : Region → Region) : State :=
  { s with atu := { s.atu with regions := tmod (fun _ => {}) s.atu.regions i f } }

/-- The tenant of a region index (R154, Table 20-1: ranges of 1,024). -/
def regionOwner (s : State) (i : Nat) : Nat := owner s 0x05 (i / 1024)

/-- The entries of the region table (ATU_RGN_COUNT). -/
def regionCount (s : State) : Nat := fld (reg s Reg.ATU_RGN_COUNT 0) 24 0

/-- The rights bitmap of R121, by bit. -/
def hasRight (R : Region) (bit : Nat) : Bool := nbit R.rights bit

/-- The admission checks of Table 6-5 that need no dispatcher, in order: none when the access is admitted. `bytes`: the
bytes touched; `align`: the alignment BASE + RADDR needs; `invoke`: the verb is INVOKE. -/
def admitCheck (s : State) (idx gen right raddr bytes align : Nat) (invoke : Bool) : Option Nat :=
  let R := region s idx
  if invoke && decide (tileCount s.variant = 0) then some Status.unitAbsent
  else if idx = 0 ∨ regionCount s ≤ idx then some Status.remoteAccess
  else if !tenantActive s (regionOwner s idx) then some Status.contextGone
  else if R.state ≠ 1 ∨ R.gen.toNat ≠ gen then some Status.remoteRevoked
  else if !hasRight R right then some Status.remoteAccess
  else if (if bytes = 0 then decide (R.len.toNat < raddr) else decide (R.len.toNat < raddr + bytes)) then
    some Status.remoteAccess
  else if (R.base.toNat + raddr) % max align 1 ≠ 0 then some Status.remoteAccess
  else none

/-- Regions whose ADMITTED is not zero (R158). -/
def heldRegions (s : State) : Nat := (s.atu.regions.filter (fun r => decide (r.2.admitted ≠ 0))).length

/-- A region finds a place in the region cache: it holds one, or not all 16,384 are held by an ADMITTED that is not zero (R158). -/
def regionRoom (s : State) (i : Nat) : Bool := decide ((region s i).admitted ≠ 0 ∨ heldRegions s < 16384)

/-- An admitted access takes its place in ADMITTED (R155). -/
def admitTake (s : State) (idx : Nat) : State := regionMod s idx (fun R => { R with admitted := R.admitted + 1 })

/-- A local use of a region by an entry (R157): the check of a fragment's key. -/
def localKeyOk (s : State) (key t dctx addr len : Nat) (dest : Bool) : Bool :=
  let idx := key % 2 ^ 24
  let R := region s idx
  decide (R.state = 1 ∧ R.gen.toNat = key / 2 ^ 24 ∧ idx ≠ 0 ∧ idx < regionCount s) && decide (regionOwner s idx = t) &&
  hasRight R 5 && hasRight R (if dest then 1 else 0) && decide (R.ctx = dctx) &&
  decide (R.base.toNat ≤ addr ∧ addr + len ≤ R.base.toNat + R.len.toNat)

end Sys2Proof.Machine
end

