-- ==== Sys2Proof/Machine/Digest.lean ====
section
/-! DEFINITION. The check codes and digests the spec names: CRC-32 (IEEE 802.3), CRC-64, SHA-384. The parameters of
SHA-384 are those of FIPS 180-4 (PRESUMED, log 12: the spec names the function and not its constants). -/
namespace Sys2Proof.Machine

/-- One bit step of a reflected CRC. -/
def crcBit {w : Nat} (poly c : BitVec w) : BitVec w := if c.getLsbD 0 then (c >>> 1) ^^^ poly else c >>> 1

/-- Eight bit steps of a reflected CRC. -/
def crcByte {w : Nat} (poly c : BitVec w) (b : Byte) : BitVec w :=
  let x := c ^^^ b.setWidth w
  crcBit poly (crcBit poly (crcBit poly (crcBit poly (crcBit poly (crcBit poly (crcBit poly (crcBit poly x)))))))

/-- A reflected CRC with all-ones start and all-ones final exclusive or. -/
def crcOf {w : Nat} (poly : BitVec w) (l : List Byte) : BitVec w := ~~~ (l.foldl (crcByte poly) (BitVec.allOnes w))

/-- CRC-32 with the IEEE 802.3 polynomial (R445). -/
def crc32 (l : List Byte) : W32 := crcOf 0xEDB88320 l

/-! ### SHA-384

FIPS 180-4 gives the constants as the leading fractional bits of roots of the first primes; they are computed here from that. -/

/-- A number below 441 is prime: no divisor up to 20 but itself. -/
def isPrime (n : Nat) : Bool := decide (2 ≤ n) && (List.range 19).all (fun k => decide (n % (k + 2) ≠ 0 ∨ n = k + 2))

/-- The primes that the constants of SHA-384 come from: the first eighty. -/
def shaPrimes : List Nat := (List.range 410).filter isPrime

/-- The greatest r with r ^ e ≤ n, one bit a step from bit k - 1 down, above a root found so far. -/
def rootFrom (e n : Nat) : Nat → Nat → Nat
  | 0, r => r
  | k + 1, r => rootFrom e n k (if (r + 2 ^ k) ^ e ≤ n then r + 2 ^ k else r)

/-- The first 64 fractional bits of the e-th root of p: the root of p · 2^(64·e), of which the whole part is cut off. -/
def rootBits (e p : Nat) : W64 := w64 (rootFrom e (p * 2 ^ (64 * e)) 69 0)

/-- The round constants: cube roots of the first eighty primes. -/
def shaKeys : List W64 := shaPrimes.map (rootBits 3)

/-- The initial value of SHA-384: square roots of the ninth to sixteenth primes. -/
def shaStart : List W64 := ((shaPrimes.drop 8).take 8).map (rootBits 2)

/-- The exclusive or of rotations of a word. -/
def turns (x : W64) (by_ : List Nat) : W64 := by_.foldl (fun a n => a ^^^ x.rotateRight n) 0

/-- The message schedule, newest word first: n more words from the sixteen of a block. -/
def shaExpand : Nat → List W64 → List W64
  | 0, w => w
  | n + 1, w =>
    let old := w.getD 14 0
    let new := w.getD 1 0
    shaExpand n ((w.getD 15 0 + (turns old [1, 8] ^^^ old >>> 7) + w.getD 6 0 + (turns new [19, 61] ^^^ new >>> 6)) :: w)

/-- One round over the eight working words, with the sum of its key and its message word. -/
def shaStep (v : List W64) (kw : W64) : List W64 :=
  match v with
  | [a, b, c, d, e, f, g, h] =>
    let t := h + kw + turns e [14, 18, 41] + (g ^^^ e &&& (f ^^^ g))
    [t + turns a [28, 34, 39] + (a &&& (b ||| c) ||| b &&& c), a, b, c, d + t, e, f, g]
  | _ => v

/-- One block of sixteen words. -/
def shaBlock (v ws : List W64) : List W64 :=
  (v.zip ((shaKeys.zip (shaExpand 64 ws.reverse).reverse).foldl (fun x k => shaStep x (k.1 + k.2)) v)).map (fun p => p.1 + p.2)

/-- Groups bytes into words, most significant byte first. -/
def beWords : Nat → List Byte → List W64
  | 0, _ => []
  | n + 1, l => w64 (beNat (l.take 8)) :: beWords n (l.drop 8)

/-- Runs the blocks of a padded message. -/
def shaBlocks : Nat → List Byte → List W64 → List W64
  | 0, _, v => v
  | n + 1, l, v => shaBlocks n (l.drop 128) (shaBlock v (beWords 16 (l.take 128)))

/-- SHA-384 of a byte string, as a 384-bit number whose first wire byte is the most significant: six of the eight words. -/
def sha384 (l : List Byte) : BitVec 384 :=
  let p := l ++ [0x80] ++ List.replicate ((239 - l.length % 128) % 128) 0 ++ beBytes 16 (8 * l.length)
  BitVec.ofNat 384 (((shaBlocks (p.length / 128) p shaStart).take 6).foldl (fun n w => n * 2 ^ 64 + w.toNat) 0)

/-- A digest as its 48 wire bytes. -/
def digestBytes (d : BitVec 384) : List Byte := beBytes 48 d.toNat

end Sys2Proof.Machine
end

