-- ==== Sys2Proof/Machine/Boot.lean ====
section
/-! DEFINITION. Power domains, resets, election and the boot sequence up to MEMORY (chapters 1, 2, 19; R12 to R16, R30 to
R36, R437 to R445). -/
namespace Sys2Proof.Machine

/-! ### The boot record (R445) -/

/-- Bytes 0 to 59 of a boot record (Table 19-3). -/
def recBytes (r : BootRec) : List Byte :=
  leBytes 8 r.seq ++ leBytes 1 r.active ++ leBytes 1 r.trial ++ leBytes 1 r.fails ++ leBytes 1 r.prev ++
  leBytes 1 r.state0 ++ leBytes 1 r.state1 ++ List.replicate 46 0

/-- A copy is whole when its CRC matches. -/
def copyOk (c : BootCopy) : Bool := decide (c.crc = crc32 (recBytes c.body))

/-- The second copy is the one in force: it is whole, and the first is not or has the lower SEQ. -/
def recInB (f : Flash) : Bool := copyOk f.recB && (!copyOk f.recA || decide (f.recA.body.seq < f.recB.body.seq))

/-- The boot record in force (R445). -/
def bootRec (s : State) : BootRec := if recInB s.flash then s.flash.recB.body else s.flash.recA.body

/-- Writes a change of the boot record into the other copy, SEQ one higher (R445). -/
def recWrite (s : State) (f : BootRec → BootRec) : State :=
  let r := f (bootRec s)
  let r1 := { r with seq := (bootRec s).seq + 1 }
  let c : BootCopy := ⟨r1, crc32 (recBytes r1)⟩
  { s with flash := if recInB s.flash then { s.flash with recA := c } else { s.flash with recB := c } }

/-- An image slot. -/
def slotGet (s : State) (i : Nat) : Slot := if i = 0 then s.flash.slot0 else s.flash.slot1

/-- Rewrites an image slot; its state code stands in the boot record too (Table 19-3). -/
def slotMod (s : State) (i : Nat) (f : Slot → Slot) : State :=
  { s with flash := if i = 0 then { s.flash with slot0 := f s.flash.slot0 } else { s.flash with slot1 := f s.flash.slot1 } }

/-- Copies the slot states into the boot record. -/
def recStates (s : State) (r : BootRec) : BootRec := { r with state0 := s.flash.slot0.state, state1 := s.flash.slot1.state }

/-- The other slot. -/
def otherSlot (i : Nat) : Nat := if i = 0 then 1 else 0

/-! ### Resets -/

/-- Registers kept across a restart of the main domain: those of RSP and MGT, which live in the standby domain (chapter 2,
R415). -/
def standbyRegs (t : Tbl W64) : Tbl W64 := t.filter (fun r => decide (r.1 / 2 ^ 52 = 13 ∨ r.1 / 2 ^ 52 = 14))

/-- What the RSP keeps when the main domain goes down: measurements, debug state, nonce; its key store is zeroed (R414). -/
def rspStandby (r : Rsp) : Rsp := { r with requesters := [], boxes := [] }

/-- What is left of Cicada when the main domain goes: its piece buffers lie in frames of tenant 254, but in minimal mode, where they lie in
the memory of MGT (R449). A host command whose message can no longer be read is gone, and BUSY clears (DESIGN CHOICE, log 49). -/
def cicStandby (s : State) : Cicada := { s.cic with buffers := if s.boot.minimal then s.cic.buffers else [], hostBusy := false }

/-- The report key and the sealing pairs of a tenant are gone (R34, R36, R428, R430). -/
def dropKeys (T : Tenant) : Tenant :=
  { T with reportKey := [], reportCtr := 0, seal0 := {}, seal1 := {}, keysel := 0, sealSeq := 0 }

/-- The main domain goes through reset (R34, R36, R414, R415): every main-domain unit, every tenant key and every open
transaction is gone; the standby domain, FEV_TIME, the standby copy, the boot record and a running health window stay. -/
def mainReset (s : State) : State :=
  { State.reset with
    variant := s.variant, time := s.time, freeCtr := s.freeCtr, regs := standbyRegs s.regs, pw := s.pw, boot := s.boot,
    flash := s.flash, fuses := s.fuses, cic := cicStandby s, tenants := s.tenants.map (fun T => (T.1, dropKeys T.2)),
    rsp := rspStandby s.rsp,
    fev := { State.reset.fev with standby := s.fev.standby, unread := s.fev.unread, spare := s.fev.spare },
    hif := { State.reset.hif with winCode := s.hif.winCode, pfVec := s.hif.pfVec, vfVec := s.hif.vfVec },
    mem := { State.reset.mem with ilv := s.mem.ilv },
    out := s.out, pending := s.pending }

/-- The main domain goes down (R34): the boot is back at stage MGT, with the slot already booted (R441). A thermal hold lasts until the
hottest junction is at or below 95 °C (R30). -/
def mainDown (s : State) : State :=
  let s1 := mainReset s
  { s1 with
    pw := { s1.pw with mainOn := false, stage2 := false, tileMhz := 1800 },
    boot := { s1.boot with stage := if s1.boot.minimal then .minimal else if s1.boot.primary < 4 then .mgt else s1.boot.stage,
                           selftestOk := false } }

/-- A full reset (R441): both domains reset and a new election begins. Flash, fuses, what standby storage keeps across every
reset (R486), open debug access, which only a cold reset leaves (R433), the cause of a shutdown, which the next boot reports (R30, R31), and
the pins are all that stays. -/
def fullReset (s : State) (prev : Nat) : State :=
  { State.reset with
    variant := s.variant, freeCtr := s.freeCtr,
    regs := s.regs.filter (fun r => r.1 = rk Reg.MGT_THERM_HOLDS 0),
    pw := { s.pw with mainOn := false, sumW := 0, samples := 0, avgW := 0, stage2 := false, tileMhz := 1800, hold := false, cyc := 0, cycAt := 0 },
    boot := { State.reset.boot with prev := prev },
    flash := s.flash, fuses := s.fuses,
    rsp := { State.reset.rsp with debug := if s.rsp.debug = 2 then 2 else 0, debugSeen := s.rsp.debugSeen },
    fev := { State.reset.fev with standby := s.fev.standby, unread := s.fev.unread, spare := s.fev.spare },
    out := s.out, pending := s.pending }

/-- A failed boot (R440): FAILS + 1 and the reason enter the boot record, a fatal record is written, a full reset forced. -/
def bootFail (s : State) (reason : Nat) : State :=
  let s1 := recWrite s (fun r => { r with fails := min 3 (r.fails + 1), prev := reason })
  let s2 := { s1 with flash := { s1.flash with failedBoots := wrap32 (s1.flash.failedBoots + 1) } }
  fullReset (report s2 { cls := 0x05, sev := 3, unit := 14, code := reason }) reason

/-- MGT switches off the main domain and keeps the cause in standby storage (R30, R31). -/
def shutdown (s : State) (cause : Nat) : State :=
  if s.pw.mainOn then
    let s1 := mainDown s
    { s1 with pw := { s1.pw with shutdownCause := cause } }
  else s

/-! ### Power and temperature (R21 to R25, R30, R31) -/

/-- The power cap in watts (MGT_PWR_CAP). -/
def powerCap (s : State) : Nat := fld (reg s Reg.MGT_PWR_CAP 0) 15 0

/-- Sets the tile clock; what the tile clock has counted so far is kept (R366). -/
def setClock (s : State) (mhz : Nat) : State :=
  { s with pw := { s.pw with cyc := s.pw.cyc + (s.time - s.pw.cycAt) * s.pw.tileMhz, cycAt := s.time, tileMhz := mhz } }

/-- Thousandths of tile cycles counted so far. -/
def clockCount (s : State) : Nat := s.pw.cyc + (s.time - s.pw.cycAt) * s.pw.tileMhz

/-- One capping step down: the tile clock by 100 MHz, or stage 2 at the 900 MHz floor (R22). -/
def stepDown (s : State) : State :=
  if 900 < s.pw.tileMhz then
    bump (setClock s (s.pw.tileMhz - 100)) Reg.MGT_PWR_STEPS 0
  else { s with pw := { s.pw with stage2 := true } }

/-- One capping step undone, stage 2 first (R22). -/
def stepUp (s : State) : State :=
  if s.pw.stage2 then { s with pw := { s.pw with stage2 := false } }
  else setClock s (min 1800 (s.pw.tileMhz + 100))

/-- POWER_SAMPLE (R21): the input power, voltage and current of the last 100 µs. -/
def execPowerSample (watts mv10 ma10 : Nat) (s : State) : Host.Outcome State Fault Refusal :=
  .next (setReg { s with pw := { s.pw with sumW := s.pw.sumW + watts, samples := s.pw.samples + 1 } }
    Reg.MGT_INPUT 0 (w64 (mv10 % 65536 + ma10 % 65536 * 65536)))

/-- POWER_EVALUATION (R22): once per 1 ms average. At 100 °C or above, the step of the evaluation is the thermal hold's own (R30). -/
def execPowerEvaluation (s : State) : Host.Outcome State Fault Refusal :=
  let avg := if s.pw.samples = 0 then s.pw.avgW else s.pw.sumW / s.pw.samples
  let s1 := { s with pw := { s.pw with avgW := avg % 65536, sumW := 0, samples := 0 } }
  .next (if powerCap s < avg ∧ fld (reg s Reg.MGT_THERM 0) 7 0 < 100 then stepDown s1 else s1)

/-- POWER_CAP_FAULT (R22): over cap for 100 ms at stage 2. -/
def execPowerCapFault (s : State) : Host.Outcome State Fault Refusal :=
  .next (if s.pw.stage2 ∧ powerCap s < s.pw.avgW then
    report s { cls := 0x02, sev := 2, unit := 14, w3 := w64 (s.pw.avgW + powerCap s * 65536) } else s)

/-- POWER_UNDO (R22, R30): 10 ms below 97 % of the cap; a thermal hold forbids it. -/
def execPowerUndo (s : State) : Host.Outcome State Fault Refusal :=
  .next (if s.pw.avgW * 100 < 97 * powerCap s ∧ s.pw.hold = false then stepUp s else s)

/-- MGT_THERM as the register reports it (Table 2-10). -/
def thermWord (tmax inlet outlet : Nat) (hold : Bool) : Nat :=
  tmax % 256 + inlet % 256 * 2 ^ 8 + outlet % 256 * 2 ^ 16 + b2n hold * 2 ^ 24

/-- THERMAL_SAMPLE (R30): four junctions and the coolant. 110 °C switches the main domain off; at 100 °C a hold begins with a
record and takes one step; it lasts until 95 °C. -/
def execThermalSample (tj0 tj1 tj2 tj3 inlet outlet : Nat) (s : State) : Host.Outcome State Fault Refusal :=
  let tmax := max (max tj0 tj1) (max tj2 tj3)
  let hold := decide (100 ≤ tmax) || (s.pw.hold && decide (95 < tmax))
  let w := w64 (thermWord tmax inlet outlet hold)
  let s1 := setReg { s with pw := { s.pw with hold := hold } } Reg.MGT_THERM 0 w
  let s2 := if hold && !s.pw.hold then
      report (bump s1 Reg.MGT_THERM_HOLDS 0) { cls := 0x03, sev := 2, unit := 14, w3 := w } else s1
  .next (if 110 ≤ tmax then shutdown s2 0x03 else if 100 ≤ tmax then stepDown s2 else s2)

/-- INLET_OVERTEMP_TIMEOUT (R30): the inlet has been above 55 °C for 1 s. -/
def execInletOvertempTimeout (s : State) : Host.Outcome State Fault Refusal :=
  .next (if 55 < fld (reg s Reg.MGT_THERM 0) 15 8 then shutdown s 0x03 else s)

/-- UNDERVOLTAGE_TRIP (R31): the 48 V input has been below 42 V for 100 µs, out of its range (Table 2-2). -/
def execUndervoltageTrip (s : State) : Host.Outcome State Fault Refusal :=
  .next (shutdown { s with pw := { s.pw with v48 := false } } 0x04)

/-- OVERCURRENT_TRIP (R31). -/
def execOvercurrentTrip (s : State) : Host.Outcome State Fault Refusal := .next (shutdown s 0x05)

/-! ### Power-up, resets and PERST# (R33 to R36, R40, R441) -/

/-- STANDBY_POWER_UP (R33, R34): the standby domain leaves reset; a cold boot with a new election begins. -/
def execStandbyPowerUp (s : State) : Host.Outcome State Fault Refusal :=
  if s.pw.stby then .next s
  else .next { s with pw := { s.pw with stby := true }, boot := { s.boot with dead := false, prev := 0x01 } }

/-- STANDBY_POWER_LOSS (R34): the whole card goes down; standby storage is lost, flash and fuses stay. -/
def execStandbyPowerLoss (s : State) : Host.Outcome State Fault Refusal :=
  .next { State.reset with
    variant := s.variant, freeCtr := s.freeCtr, flash := s.flash, fuses := s.fuses, out := s.out, pending := s.pending,
    pw := { State.reset.pw with stby := false, v48 := s.pw.v48, perst := s.pw.perst },
    boot := { State.reset.boot with dead := true } }

/-- MG_RESET (R40, R441): asserted for at least 10 µs, it resets both domains and starts a new election. -/
def execMgReset (s : State) : Host.Outcome State Fault Refusal := if s.pw.stby then .next (fullReset s 0x02) else .next s

/-- MAIN_POWER_LOSS (R34): the 48 V input is lost. -/
def execMainPowerLoss (s : State) : Host.Outcome State Fault Refusal :=
  let s1 := { s with pw := { s.pw with v48 := false } }
  .next (if s.pw.mainOn then mainDown s1 else s1)

/-- MAIN_POWER_RETURN (R34): the 48 V input reaches 44 V; power-up resumes at step 3 of Table 2-3. -/
def execMainPowerReturn (s : State) : Host.Outcome State Fault Refusal := .next { s with pw := { s.pw with v48 := true } }

/-- PERST_ASSERT (R36): main-domain logic is held in reset and every tenant key discarded. -/
def execPerstAssert (s : State) : Host.Outcome State Fault Refusal :=
  let s1 := { s with pw := { s.pw with perst := true } }
  if s.pw.mainOn then
    let s2 := mainReset s1
    .next { s2 with boot := { s2.boot with stage := if s2.boot.minimal then .minimal else .main, selftestOk := false } }
  else .next s1

/-- ELECTION_TIMEOUT (R15): 30 ms without a passing RSP. The card then behaves as unpowered. -/
def execElectionTimeout (s : State) : Host.Outcome State Fault Refusal :=
  .next (if s.boot.firstClaim = none ∧ s.pw.stby then { s with boot := { s.boot with dead := true } } else s)

/-- PRIMARY_FAILURE (R16): a fatal SECURITY record; the card stays on the failed primary until the next election. -/
def execPrimaryFailure (pcie : Bool) (s : State) : Host.Outcome State Fault Refusal :=
  .next (report s { cls := 0x07, sev := 3, unit := if pcie then 0 else 13, code := 1, inst := s.boot.primary })

/-- CROSSING_HANG (R19): a crossing full for 1 ms. -/
def execCrossingHang (crossing : Nat) (s : State) : Host.Outcome State Fault Refusal :=
  .next (report (bump (bump s Reg.FEV_XHANG 0) Reg.FEV_XSTALL 0) { cls := 0x01, sev := 3, unit := 0xFF, inst := crossing })

/-! ### Election and slot choice (R13, R438, R442) -/

/-- A slot may boot (R438, R456): it holds an image, its signature and digests pass, and its SVN is not below the fuses. -/
def slotValid (s : State) (i : Nat) (passes : Bool) : Bool :=
  let sl := slotGet s i
  passes && decide (s.fuses.svn ≤ sl.svn) && decide (sl.state ≠ 0 ∧ sl.state ≠ 1 ∧ sl.state ≠ 6)

/-- MGT_STRAP (Table 2-9). -/
def strapWord (t : Straps) : Nat := b2n t.bootsel + b2n t.plane * 2 + b2n t.safe * 4

/-- A measurement of this boot (R419). -/
def measured (s : State) (i : Nat) (b : List Byte) : State :=
  { s with rsp := { s.rsp with measure := tset (fun _ => []) s.rsp.measure i b } }

/-- The digest of a firmware part of the booted image. -/
def partMeasured (s : State) (i : Nat) : State :=
  measured s i (beBytes 48 (Config.partDigest i (slotGet s s.boot.slot).image).toNat)

/-- The debug nonce is drawn (R433). -/
def drawNonce (s : State) : State :=
  let d := drawN 4 s
  { d.2 with rsp := { d.2.rsp with
      nonce0 := d.1.getD 0 0, nonce1 := d.1.getD 1 0, nonce2 := d.1.getD 2 0, nonce3 := d.1.getD 3 0 } }

/-- What is measured and drawn when a slot is chosen (R419, Table 18-2, R433): the RSP and MGT parts, the fuses, the debug state, the straps
with the slot. Indices 16 to 18 are raw values (their layout is the model's, log 36). -/
def bootMeasured (s : State) : State :=
  let t := s.boot.straps
  let s1 := partMeasured (partMeasured s 1) 2
  let s2 := measured s1 16 [BitVec.ofNat 8 s.fuses.svn, BitVec.ofNat 8 s.fuses.lifecycle]
  let s3 := measured s2 17 [BitVec.ofNat 8 s.rsp.debugSeen]
  drawNonce (measured s3 18 [BitVec.ofNat 8 (strapWord t), BitVec.ofNat 8 s.boot.slot])

/-- The last value that a list of profile records gives a register. -/
def profValue (l : List ProfRec) (off sel : Nat) : Option W64 :=
  l.foldl (fun v r => if r.off = off ∧ r.sel = sel then some r.value else v) none

/-- The profile's power-up parameters (Table 20-6): the user profile over the factory profile over the reset value. A MSI-X split of more
than 2,048 vectors is invalid, and the factory sizes of both apply (R65). The user profile goes when it was cleared (R473). -/
def profPower (s : State) : State :=
  let f := if s.flash.userErase then { s.flash with user := [], userOk := true, userErase := false } else s.flash
  let v := ((if f.userOk then profValue f.user Reg.MGT_PROF_PWR 0 else none).orElse
    (fun _ => if f.factoryOk then profValue f.factory Reg.MGT_PROF_PWR 0 else none)).getD (regReset (rk Reg.MGT_PROF_PWR 0))
  let bad := decide (2048 < fld v 15 4 + 252 * fld v 19 16)
  { s with
    flash := f, boot := { s.boot with msixBad := bad }, mem := { s.mem with ilv := fld v 21 20 },
    hif := { s.hif with winCode := min 6 (fld v 3 0), pfVec := if bad then 512 else fld v 15 4, vfVec := if bad then 6 else fld v 19 16 } }

/-- Minimal mode is entered with a reason (R442). Without any valid slot the boot ROM serves in place of MGT. -/
def enterMinimal (s : State) (reason : Nat) (rom : Bool) : State :=
  bootMeasured { s with boot := { s.boot with stage := .minimal, minimal := true, reason := reason, romOnly := rom, scrubbed := false } }

/-- A slot boots (R438): stage MGT; a trial slot opens the health window (R454). -/
def bootSlot (s : State) (i reason : Nat) (diag : Bool) : State :=
  let trial := !diag && decide ((bootRec s).trial = 2 ∧ i = otherSlot (bootRec s).active)
  bootMeasured { s with boot := { s.boot with
    stage := .mgt, slot := i, reason := reason, diag := diag, trial := trial, healthOpen := trial, healthAt := s.time,
    confirmed := false } }

/-- The chosen slot boots, or the other one for IMAGE, or minimal mode is entered for NO_IMAGE. -/
def bootChosen (s : State) (i reason : Nat) (diag : Bool) (valid0 valid1 : Bool) : State :=
  let v := fun k => slotValid s k (if k = 0 then valid0 else valid1)
  if v i then bootSlot s i reason diag
  else if diag || !v (otherSlot i) then enterMinimal s 0x22 (!v 0 && !v 1)
  else bootSlot s (otherSlot i) 0x10 diag

/-- SLOT_CHOICE (R438). -/
def slotChoice (s : State) (valid0 valid1 : Bool) : State :=
  let r := bootRec s
  let rom := !slotValid s 0 valid0 && !slotValid s 1 valid1
  if s.boot.straps.safe then enterMinimal s 0x20 rom
  else if 3 ≤ r.fails then enterMinimal s 0x21 rom
  else if s.boot.straps.bootsel then bootChosen s (otherSlot r.active) 0 true valid0 valid1
  else if r.trial = 1 then
    bootChosen (recWrite s (fun r => { r with trial := 2 })) (otherSlot r.active) 0 false valid0 valid1
  else if r.trial = 2 then
    let s1 := slotMod s (otherSlot r.active) (fun sl => { sl with state := 5 })
    bootChosen (recWrite s1 (fun r => recStates s1 { r with trial := 0 })) r.active 0x07 false valid0 valid1
  else bootChosen s r.active 0 false valid0 valid1

/-- A claim decides the election (R13): the first claim elects; one that appears within 10 µs from a lower quadrant takes over;
a later RSP stands down. -/
def claim (s : State) (quad atNs : Nat) (straps : Straps) (valid0 valid1 : Bool) : State :=
  match s.boot.firstClaim with
  | none =>
    slotChoice (profPower { s with boot := { s.boot with
      firstClaim := some atNs, primary := quad, straps := straps, sampled := true } }) valid0 valid1
  | some t0 =>
    if atNs ≤ t0 + 10000 ∧ quad < s.boot.primary then { s with boot := { s.boot with primary := quad } } else s

/-- RSP_SELF_TEST_DONE (R13, R14, R41, R438): an RSP ends its self-test `atNs` after the start of the reset. The straps are
sampled and the slot chosen at the election; `valid0` and `valid1` say whether the signature and the RSP and MGT digests of
the slots pass. -/
def execRspSelfTestDone (quad atNs : Nat) (pass : Bool) (straps : Straps) (valid0 valid1 : Bool) (s : State) :
    Host.Outcome State Fault Refusal :=
  if s.boot.dead ∨ ¬ s.pw.stby ∨ ¬ pass ∨ 30000000 < atNs ∨ 4 ≤ quad then .next s
  else
    let s1 := { s with boot := { s.boot with rspPass := s.boot.rspPass ||| BitVec.ofNat 4 (2 ^ quad) } }
    .next (claim s1 quad atNs straps valid0 valid1)

/-! ### The main domain comes up (R415, R437, R442) -/

/-- The keys that the device itself holds, drawn afresh (R377, R408, R415, R429): a zero key set, a wrap key, and the key sets of tenant 0
and of slots 253 to 255, loaded in every quadrant. -/
def deviceKeys (s : State) : State :=
  let z := drawN 12 s
  let w := drawN 4 z.2
  let s1 := { w.2 with cph := { w.2.cph with wrapKey := wordsToBytes w.1 }, mem := { w.2.mem with zeroSet := keySetOf 0 z.1 } }
  bumpBy ([0, 253, 254, 255].foldl (fun s t => keySetLoad s t 15) s1) Reg.RSP_KEY_LOADS 0 4

/-- The keys drawn when the main domain starts (R415). Every other tenant is EMPTY and every grant is back with tenant 0. -/
def restartKeys (s : State) : State :=
  deviceKeys (boxesValid { s with tenants := [], owners := [], qlocal := [] } 0)

/-- Sets the state of the present controllers. -/
def setControllers (s : State) (f : Nat → Nat) : State :=
  (List.range 24).foldl (fun s c => if ctrlPresent s.variant c then ctrlMod s c (fun C => { C with state := f c }) else s) s

/-- A destroy-then-scrub is over (R433, R434): debug access opens, or the lifecycle becomes RMA and the UDS is blocked. -/
def scrubOver (s : State) : State :=
  if s.rsp.scrubFor = 1 then
    measured { s with rsp := { s.rsp with scrubFor := 0, debug := 2, debugSeen := 2 } } 17 [2]
  else if s.rsp.scrubFor = 2 then
    { s with rsp := { s.rsp with scrubFor := 0 }, fuses := { s.fuses with lifecycle := 2, udsBlocked := true } }
  else s

/-- The host link trains to one of the widths and rates of R45; which one is free (HIF_LINK: 'Trained'). -/
def trainLink (s : State) : State :=
  let d := draw s
  { d.2 with hif := { d.2.hif with speed := 5 + d.1.toNat % 3, width := 2 ^ (d.1.toNat / 4 % 5) } }

/-- Stage MAIN (R437, R415): the present controllers train. -/
def startMain (s : State) : State :=
  let s1 := setControllers (scrubOver (restartKeys (trainLink s))) (fun _ => 1)
  if s1.boot.minimal then s1 else { s1 with boot := { s1.boot with stage := .main } }

/-- A shutdown of the last run is written as a SHUTDOWN record and becomes PREV (R30, R31, Table 21-2). -/
def reportShutdown (s : State) : State :=
  if s.pw.shutdownCause = 0 then s
  else
    let c := s.pw.shutdownCause
    report { s with pw := { s.pw with shutdownCause := 0 }, boot := { s.boot with prev := c } }
      { cls := 0x04, sev := 3, unit := 14, code := c }

/-- MAIN_DOMAIN_GOOD (R33, R437): after the election and with 48 V in range, the main domain is good; memory-training and
SerDes firmware are verified (`partsOk`) and started. -/
def execMainDomainGood (partsOk : Bool) (s : State) : Host.Outcome State Fault Refusal :=
  if s.boot.dead ∨ ¬ s.pw.stby ∨ ¬ s.pw.v48 ∨ s.pw.mainOn ∨ s.boot.firstClaim = none then .next s
  else
    let s1 := { s with pw := { s.pw with mainOn := true }, boot := { s.boot with mainGoodAt := s.time } }
    let s2 := startMain (reportShutdown s1)
    .next (if partsOk ∨ s2.boot.minimal then partMeasured (partMeasured s2 7) 8 else bootFail s2 0x11)

/-- PERST_DEASSERT (R415, R36): stages MAIN to RUNNING run again with the elected primary and the booted slot. -/
def execPerstDeassert (s : State) : Host.Outcome State Fault Refusal :=
  let s1 := { s with pw := { s.pw with perst := false } }
  .next (if s.pw.mainOn ∧ s.pw.perst then startMain s1 else s1)

/-- MEMORY_TRAINED (R437, R440, R442): the present controllers have finished training, but for `failed`. In minimal mode an
untrained controller stays FAILED; else it fails the boot. -/
def execMemoryTrained (failed : List Nat) (s : State) : Host.Outcome State Fault Refusal :=
  if s.pw.mainOn = false ∨ s.pw.perst then .next s
  else
    let bad := failed.filter (ctrlPresent s.variant)
    let s1 := setControllers s (fun c => if bad.contains c then 3 else 2)
    if s.boot.minimal then .next s1
    else if s.boot.stage ≠ .main then .next s
    else if bad ≠ [] then .next (bootFail s1 0x12)
    else .next { s1 with boot := { s1.boot with stage := .memory } }

/-- UNITS_READY (R437, R440): every self-test passed within its spares and the device reaches RUNNING, clearing FAILS. -/
def execUnitsReady (rspLink selfTest : Bool) (s : State) : Host.Outcome State Fault Refusal :=
  if s.boot.stage ≠ .units then .next s
  else if rspLink = false then .next (bootFail s 0x15)
  else if selfTest = false then .next (bootFail s 0x13)
  else
    let s1 := { s with boot := { s.boot with stage := .running, selftestOk := true,
                                             bootMs := (s.time - s.boot.mainGoodAt) / 1000000 } }
    .next (if (bootRec s1).fails = 0 then s1 else recWrite s1 (fun r => { r with fails := 0 }))

/-- BOOT_TIMEOUT (R440): RUNNING was not reached within MGT_BOOT_TMO of main good. -/
def execBootTimeout (s : State) : Host.Outcome State Fault Refusal :=
  match s.boot.stage with
  | .main => .next (bootFail s 0x14)
  | .memory => .next (bootFail s 0x14)
  | .units => .next (bootFail s 0x14)
  | _ => .next s

/-- BOOT_CTL_RESET (R441): MGT_BOOT_CTL.RESET forces a full reset. -/
def execBootCtlReset (s : State) : Host.Outcome State Fault Refusal := .next (fullReset s 0x02)

/-- BOOT_CTL_RETRY (R443): in minimal mode it clears FAILS and forces a full reset; ignored otherwise, and while the entry
scrub still runs (R434). -/
def execBootCtlRetry (s : State) : Host.Outcome State Fault Refusal :=
  let s := dropHeld s 0
  if s.boot.minimal ∧ s.boot.scrubbed then .next (fullReset (recWrite s (fun r => { r with fails := 0 })) 0x02)
  else .next s

/-- MGT_BOOT_STATUS (Table 19-12). While a trip or a shutdown keeps the main domain off, PREV is its cause already: MGT reports the reason
(Table 2-11; DEDUCED, log 49). -/
def bootStatus (s : State) : Nat :=
  let st := match s.boot.stage with
    | .standby => 0 | .rsp => 1 | .mgt => 2 | .main => 3 | .memory => 4 | .units => 5 | .running => 6 | .minimal => 7
  s.boot.reason + (if s.pw.shutdownCause = 0 then s.boot.prev else s.pw.shutdownCause) * 2 ^ 8 + st * 2 ^ 16 + b2n s.boot.minimal * 2 ^ 19 + s.boot.slot * 2 ^ 20 +
  b2n s.boot.trial * 2 ^ 21 + (bootRec s).fails * 2 ^ 22 + s.boot.primary % 4 * 2 ^ 24 + s.boot.rspPass.toNat * 2 ^ 26 +
  b2n s.boot.diag * 2 ^ 30

end Sys2Proof.Machine
end

