-- ==== Sys2Proof/Machine/Cell.lean ====
section
/-! DEFINITION. Cells as they stand on a link (Tables 7-3 and 9-1) and transport packets as they stand on Ethernet (Table 10-2):
header bits, check codes, frames, and what a connection's path is. -/
namespace Sys2Proof.Machine

/-! ### Cells -/

/-- Header bits [255:32] of a cell, without its CRC (Table 9-1). -/
def headerTop (c : Cell) : Nat :=
  (c.ver % 16) * 2 ^ 220 + (c.typ % 16) * 2 ^ 216 + (c.dnode % 4096) * 2 ^ 204 + (c.snode % 4096) * 2 ^ 192 +
  (c.plane % 2) * 2 ^ 191 + b2n c.mc * 2 ^ 190 + (c.mgroup % 8192) * 2 ^ 177 + (c.hops % 64) * 2 ^ 171 +
  (c.defl % 64) * 2 ^ 165 + (c.tc % 16) * 2 ^ 161 + (c.resv / 2 % 2) * 2 ^ 160 + (c.qpe % 2 ^ 24) * 2 ^ 136 +
  (c.csn % 2 ^ 32) * 2 ^ 104 + (c.opc % 32) * 2 ^ 99 + b2n c.first * 2 ^ 98 + b2n c.last * 2 ^ 97 +
  (c.msn % 2 ^ 24) * 2 ^ 73 + (c.offset % 2 ^ 30) * 2 ^ 43 + (c.akey % 2 ^ 32) * 2 ^ 11 + (c.plen % 1024) * 2 + c.resv % 2

/-- The 32 header bytes with a given CRC, most significant first (R5). -/
def headerBytes (c : Cell) (crc : Nat) : List Byte := beBytes 28 (headerTop c) ++ beBytes 4 crc

/-- The link CRC over header bytes 0 to 27 and the 512 payload bytes (R230). -/
def cellCrc (c : Cell) : W32 := crc32 (beBytes 28 (headerTop c) ++ padTo 512 c.payload)

/-- A cell as its originator sends it (R230). -/
def sealCell (c : Cell) : Cell := { c with crc := cellCrc c }

/-- A router's rewrite of VER, HOPS and DEFL: the CRC changes by the linear difference of those fields alone (R230). -/
def rewriteCell (c : Cell) (ver hops defl : Nat) : Cell :=
  let n := { c with ver := ver, hops := hops, defl := defl }
  { n with crc := c.crc ^^^ cellCrc c ^^^ cellCrc n }

/-- The cell's CRC is good. -/
def crcOk (c : Cell) : Bool := decide (c.crc = cellCrc c)

/-- The 512-byte units of a payload length: at least one cell even for no byte. -/
def unitsOf (n : Nat) : Nat := max 1 ((n + 511) / 512)

/-! ### Connections: numbers and paths (R163 to R165) -/

/-- The number of a channel in the connection table: 2^20 + (port, source IP, plane, node); port 0 is the fabric. -/
def chanId (port ip plane node : Nat) : Nat := 2 ^ 20 + ((port * 2 ^ 128 + ip % 2 ^ 128) * 2 + plane % 2) * 4096 + node % 4096

/-- The channel of a fabric address. -/
def fabChannel (a : Nat) : Nat := chanId 0 0 (nfld a 60 60) (nfld a 59 48)

/-- A connection number is a channel's. -/
def isChan (c : Nat) : Bool := decide (2 ^ 20 ≤ c)

/-- A connection. -/
def conn (s : State) (c : Nat) : Conn := tget (fun _ => {}) s.tpe.conns c

/-- Rewrites a connection. -/
def connMod (s : State) (c : Nat) (f : Conn → Conn) : State :=
  { s with tpe := { s.tpe with conns := tmod (fun _ => {}) s.tpe.conns c f } }

/-- Word w of address handle h (Table 10-4). -/
def ahWord (s : State) (h w : Nat) : W64 := reg s (Reg.EMAC_AH_ENTw + 8 * w) h

/-- The address handle that a QP names, TPE_QCFG.AH (Table 7-11). -/
def qpAh (C : Conn) : Nat := fld C.cfg 48 37

/-- The path of a connection: 0 the fabric, 1 to 4 a port. -/
def connPath (s : State) (c : Nat) : Nat :=
  if isChan c then (c - 2 ^ 20) / 8192 / 2 ^ 128
  else if wbit (conn s c).cfg 12 then fld (ahWord s (qpAh (conn s c)) 0) 6 4 else 0

/-- The remote node of a connection. -/
def connNode (s : State) (c : Nat) : Nat := if isChan c then (c - 2 ^ 20) % 4096 else fld (conn s c).cfg 11 0

/-- The tenant of a connection: a QP's owner, or the transport's own slot for a channel (R163, R165, R429). -/
def connTenant (s : State) (c : Nat) : Nat := if isChan c then 253 else owner s 0x03 c

/-- The IP address of a channel's peer on Ethernet. -/
def chanIp (c : Nat) : Nat := (c - 2 ^ 20) / 8192 % 2 ^ 128

/-! ### Ethernet encapsulation (R260 to R262) -/

/-- The one's-complement sum of 16-bit words. -/
def ipSum : List Byte → Nat
  | [] => 0
  | [b] => b.toNat * 256
  | a :: b :: r => a.toNat * 256 + b.toNat + ipSum r

/-- Folds a one's-complement sum to 16 bits. -/
def ipFold (n : Nat) : Nat := let a := n / 65536 + n % 65536; let b := a / 65536 + a % 65536; b / 65536 + b % 65536

/-- The Internet checksum of bytes. -/
def ipCsum (l : List Byte) : Nat := 65535 - ipFold (ipSum l)

/-- The PCP of a class at a port (R265). -/
def classPcp (s : State) (port cls : Nat) : Nat :=
  let j := cls % 16
  fld (reg s Reg.EMAC_CLS_PCPm (port * 4 + cls / 16)) (4 * j + 2) (4 * j)

/-- EMAC_MAC of a port. -/
def portMac (s : State) (p : Nat) : Nat := fld (reg s Reg.EMAC_MAC p) 47 0

/-- EMAC_IP6 of a port. -/
def portIp6 (s : State) (p : Nat) : Nat := regN s Reg.EMAC_IP6_HI p * 2 ^ 64 + regN s Reg.EMAC_IP6_LO p

/-- EMAC_IP4 of a port. -/
def portIp4 (s : State) (p : Nat) : Nat := fld (reg s Reg.EMAC_IP4 p) 31 0

/-- DIP of an address handle: an IPv6 address, or an IPv4 address in its low 32 bits. -/
def ahIp (s : State) (h : Nat) : Nat := (ahWord s h 3).toNat * 2 ^ 64 + (ahWord s h 2).toNat

/-- The UDP datagram of a transport packet, with its checksum over a pseudo-header; a sum of 0 is sent as all ones. -/
def udpDatagram (pseudo : List Byte) (sport dport : Nat) (data : List Byte) : List Byte :=
  let len := 8 + data.length
  let head := beBytes 2 sport ++ beBytes 2 dport ++ beBytes 2 len
  let c := ipCsum (pseudo ++ head ++ [0, 0] ++ data)
  head ++ beBytes 2 (if c = 0 then 65535 else c) ++ data

/-- The frame of Table 10-2 for a packet, from the destination address to the FCS: addresses of the handle, IPv4 or IPv6, a tag
when VLAN_EN is set, the priority of the class. -/
def transportFrame (s : State) (h cls rotation : Nat) (c : Cell) : List Byte :=
  let w := ahWord s h 0
  let port := fld w 6 4
  let pcp := classPcp s port cls
  let v6 := wbit w 1
  let cfg := reg s Reg.EMAC_CFG port
  let data := headerBytes c 0 ++ c.payload
  let sport := 0xC000 + Config.udpHash c.snode c.qpe rotation % 0x4000
  let dport := fld (reg s Reg.EMAC_UDP_PORT 0) 15 0
  let ulen := 8 + data.length
  let src := if v6 then beBytes 16 (portIp6 s port) else beBytes 4 (portIp4 s port)
  let dst := if v6 then beBytes 16 (ahIp s h) else beBytes 4 (ahIp s h)
  let pseudo := if v6 then src ++ dst ++ beBytes 4 ulen ++ [0, 0, 0, 17] else src ++ dst ++ [0, 17] ++ beBytes 2 ulen
  let udp := udpDatagram pseudo sport dport data
  let ip6 := beBytes 4 (6 * 2 ^ 28 + 8 * pcp * 2 ^ 22 + sport) ++ beBytes 2 ulen ++ [17, BitVec.ofNat 8 (fld cfg 15 8)] ++ src ++ dst
  let ip4a := [0x45, BitVec.ofNat 8 (8 * pcp * 4)] ++ beBytes 2 (20 + ulen) ++ [0, 0, 0x40, 0] ++ [BitVec.ofNat 8 (fld cfg 15 8), 17]
  let ip4 := ip4a ++ beBytes 2 (ipCsum (ip4a ++ src ++ dst)) ++ src ++ dst
  let tag := if wbit w 2 then [0x81, 0x00] ++ beBytes 2 (pcp * 2 ^ 13 + fld w 31 20) else []
  let f := beBytes 6 (fld (ahWord s h 1) 47 0) ++ beBytes 6 (portMac s port) ++ tag ++
    (if v6 then [0x86, 0xDD] ++ ip6 else [0x08, 0x00] ++ ip4) ++ udp
  f ++ leBytes 4 (crc32 f).toNat

/-- Bytes of a frame of Table 10-2 with a payload of n bytes, from the destination address to the FCS. -/
def frameLen (s : State) (h n : Nat) : Nat :=
  14 + (if wbit (ahWord s h 0) 2 then 4 else 0) + (if wbit (ahWord s h 0) 1 then 40 else 20) + 8 + 32 + n + 4

/-- The address handle that leads to a channel's peer on Ethernet. -/
def chanHandle (s : State) (c : Nat) : Option Nat :=
  (List.range 4096).find? (fun h =>
    wbit (ahWord s h 0) 0 && decide (fld (ahWord s h 0) 6 4 = connPath s c ∧ ahIp s h = chanIp c))

/-- The length that the scheduler charges for a cell or packet with a payload of n bytes, before CCS_EOVH (R220). -/
def wireLen (s : State) (c n : Nat) : Nat :=
  if connPath s c = 0 then 544
  else if isChan c then (match chanHandle s c with | some h => frameLen s h n | none => 0)
  else frameLen s (qpAh (conn s c)) n

/-- The offset of EMAC_STATi (Table 10-11); i is 0 to 47. -/
def statReg (i : Nat) : Nat := Reg.EMAC_STATi + 8 * (i % 64)

/-- Adds to a 48-bit port counter (R277): bit 47 turning to 1 sets EMAC_STAT_HALF and, when enabled, sends the PF's vector. -/
def statBy (s : State) (port i n : Nat) : State :=
  let old := regN s (statReg i) port
  let new := (old + n) % 2 ^ 48
  let s1 := setReg s (statReg i) port (w64 new)
  if !old.testBit 47 && new.testBit 47 then
    let s2 := setReg s1 Reg.EMAC_STAT_HALF port (reg s1 Reg.EMAC_STAT_HALF port ||| w64 (2 ^ i))
    let irq := reg s2 Reg.EMAC_IRQ port
    if wbit irq 11 then sendVec s2 0 (fld irq 10 0) else s2
  else s1

/-- Adds one to a port counter. -/
def stat (s : State) (port i : Nat) : State := statBy s port i 1

/-- An Ethernet port. -/
def eport (s : State) (p : Nat) : EPort := tget (fun _ => {}) s.eports p

/-- Rewrites an Ethernet port. -/
def eportMod (s : State) (p : Nat) (f : EPort → EPort) : State :=
  { s with eports := tmod (fun _ => {}) s.eports p f }

/-- A port exists in the current mode (Table 10-1). -/
def portPresent (s : State) (p : Nat) : Bool :=
  match fld (reg s Reg.EMAC_MODE 0) 1 0 with
  | 0 => decide (1 ≤ p ∧ p ≤ 4)
  | 1 => p = 1 || p = 3
  | _ => p = 1

/-- A frame leaves a port: counted by kind. A port whose ENABLE is clear sends nothing (Table 10-10). -/
def sendFrame (s : State) (p : Nat) (f : List Byte) (kind : Nat) : State :=
  if !wbit (reg s Reg.EMAC_CFG p) 0 then s
  else emit (stat (statBy (stat s p 20) p 21 f.length) p kind) (.frame p f)

/-! ### Handing a cell to its path -/

/-- A node is marked unreachable by the router: its cut mask covers both connectors of every dimension above 1 (R254). -/
def unreachable (s : State) (node : Nat) : Bool :=
  let m := (tget (fun _ => 0) s.frt.cut node : BitVec 6)
  let d := reg s Reg.FRT_DIM 0
  let sizes := [fld d 4 0, fld d 12 8, fld d 20 16]
  (sizes.any (fun n => decide (1 < n))) &&
  (List.range 3).all (fun i => decide (sizes.getD i 1 ≤ 1) || (m.getLsbD (2 * i) && m.getLsbD (2 * i + 1)))

/-- A live fabric link exists (R44, R196). -/
def anyLinkUp (s : State) : Bool := s.frt.links.any (fun e => e.2.st = 3)

/-- The path of a connection reports no route: the node is unreachable, or the port of the handle is absent or down (R191, R258,
R276). -/
def noRoute (s : State) (c : Nat) : Bool :=
  let p := connPath s c
  if p = 0 then unreachable s (connNode s c) else !portPresent s p || !(eport s p).up

/-- Hands a cell to the router for injection, or to the port as a packet (R215, R261). -/
def handOff (s : State) (c tenant cls : Nat) (cell : Cell) : State :=
  let p := connPath s c
  if p = 0 then
    let x : Inject := { cell := sealCell cell, tenant := tenant, conn := c }
    { s with frt := { s.frt with inject := s.frt.inject ++ [x] } }
  else if isChan c then
    match chanHandle s c with
    | none => s
    | some h => if (eport s p).up then sendFrame s p (transportFrame s h cls (conn s c).rotation cell) 22 else s
  else if (eport s p).up then
    sendFrame s p (transportFrame s (qpAh (conn s c)) cls (conn s c).rotation cell) 22
  else s

end Sys2Proof.Machine
end

