-- ==== Sys2Proof/Machine/Dma.lean ====
section
/-! DEFINITION. Transfers of the engines (R147): issued with one translation, tracked by epoch until they are over, checked at
memory against the tenant of their context. -/
namespace Sys2Proof.Machine

/-- The outcome of issuing a transfer: a host-table word is needed, it fails with a status, or it is issued. -/
inductive Issue
  | need (addr : Nat)
  | fail (status : Nat)
  | ok (x : Issued)
deriving DecidableEq, Repr

/-- Translates a range of a context for a tenant. A context of another tenant fails with LOCAL_PROTECTION (R101, R134). Once the drain of a
teardown is over, nothing new is issued for the tenant (R430). -/
def dmaXlate (s : State) (t c va len : Nat) (u : Use) : State × Pieces :=
  if ctxOwner s c ≠ t then (s, .fail Status.localProtection va)
  else if 3 ≤ (tenant s t).st then (s, .fail Status.contextGone va)
  else xlateAll s c va len u

/-- Issues a transfer: its translation and its place in the epoch in use (R147, R149). -/
def issue (s : State) (t c va len key : Nat) (u : Use) : State × Issue :=
  match dmaXlate s t c va len u with
  | (s1, .need a) => (s1, .need a)
  | (s1, .fail st _) => (s1, .fail st)
  | (s1, .ok ps) => (transferStart s1 c len, .ok { key := key, ctx := c, epoch := (ctx s1 c).epoch.toNat, len := len, pieces := ps })

/-- A transfer that has been issued is over, completed or aborted (R148, R149). -/
def endXfer (s : State) (x : Issued) : State := transferEnd s x.ctx x.epoch x.len

/-- Ends every transfer of a list. -/
def endTransfers (s : State) (l : List Issued) : State := l.foldl (fun s x => endXfer s x) s

/-- Issues the bus reads of a tenant's transfer, with its requester ID (R135). -/
def busReads (s : State) (t : Nat) (tag : BusTag) (ps : List (Target × Nat)) : State :=
  ps.foldl (fun s p => match p.1 with | .bus a _ _ => emit s (.busRead (requesterFn t) tag a p.2) | _ => s) s

/-- Issues a read: the bus pieces are requested at once. -/
def issueRead (s : State) (t c va len key : Nat) (tag : BusTag) : State × Issue :=
  match issue s t c va len key { rd := true } with
  | (s1, .ok x) => (busReads s1 t tag x.pieces, .ok x)
  | r => r

/-- A read ends: its data, poison, or the refusal of the ownership check or of the bus (R494). -/
def finishRead (s : State) (t : Nat) (x : Issued) (bus : Option (List Byte)) : State × Rd :=
  readPieces (endXfer s x) t x.pieces bus

/-- The PEER pages among the pieces of a write, each with the last address written through it (R72). -/
def peerLeaves (ps : List (Target × Nat)) (old : List (Nat × Nat)) : List (Nat × Nat) :=
  ps.foldl (fun l p => match p.1 with
    | .bus a true page => (page, a + p.2 - 1) :: l.filter (fun e => e.1 ≠ page)
    | _ => l) old

/-- A write ends: bytes reach memory or the bus; the answer says whether the ownership check passed. -/
def finishWrite (s : State) (t : Nat) (x : Issued) (bytes : List Byte) (bad : Marks) : State × Bool :=
  let s1 := endXfer s x
  if piecesOwned s1 t x.pieces then writePieces s1 t x.pieces bytes bad else (ownFault s1 t, false)

/-- Some piece lies in device memory. -/
def anyLocal (ps : List (Target × Nat)) : Bool := ps.any (fun p => match p.1 with | .loc _ => true | _ => false)

/-- The outcome of a whole write of the device: it waits for a table word, fails with a status, or is done with the peer pages it
wrote. -/
inductive Wrote
  | need (addr : Nat)
  | fail (status : Nat)
  | ok (leaves : List (Nat × Nat))
deriving DecidableEq, Repr

/-- A write on the bus that must not carry Relaxed Ordering (R71, R84): what it puts out is stripped of it. -/
def ordered (before : Nat) (s : State) : State :=
  { s with out := (s.out.take (s.out.length - before)).map (fun o => match o with
      | .busWrite fn a b _ ep => .busWrite fn a b false ep | o => o) ++ s.out.drop (s.out.length - before) }

/-- A write translated and done in one go. -/
def dmaWrite (s : State) (t c va : Nat) (bytes : List Byte) (bad : Marks) : State × Wrote :=
  match issue s t c va bytes.length 0 { wr := true } with
  | (s1, .need a) => (s1, .need a)
  | (s1, .fail st) => (s1, .fail st)
  | (s1, .ok x) =>
    match finishWrite s1 t x bytes bad with
    | (s2, true) => (s2, .ok (peerLeaves x.pieces []))
    | (s2, false) => (s2, .fail Status.localProtection)

/-- The translation of the first byte of a range leads to the host or peer bus. -/
def leadsToBus (s : State) (c va : Nat) : Bool :=
  match (xlate s c va {}).2 with
  | .ok (.bus _ _ _) _ => true
  | _ => false

/-- The pieces of plaintext [off, off + n) of a sealed range, record by record (R409). -/
def sealedPieces (c base off : Nat) : Nat → Nat → List (Target × Nat)
  | _, 0 => []
  | n, fuel + 1 =>
    if n = 0 then []
    else
      let k := min n (4096 - off % 4096)
      (.sealed c base (off / 4096) (off % 4096), k) :: sealedPieces c base (off + k) (n - k) fuel

/-- Translates [off, off + n) of a transfer range that starts at `base`: a sealed tenant's range on the bus is carried by sealed
records, and its start must be 64-byte aligned (R409). -/
def dataXlate (s : State) (t c base off n : Nat) (u : Use) : State × Pieces :=
  if sealed s t && decide (ctxOwner s c = t) && leadsToBus s c base then
    (if 3 ≤ (tenant s t).st then (s, .fail Status.contextGone base) else if base % 64 = 0 then (s, .ok (sealedPieces c base off n (n / 4096 + 2))) else (s, .fail Status.badDescriptor base))
  else dmaXlate s t c (base + off) n u

/-- The parts of a message's bytes [off, off + n) in its segments: base, offset in the segment, length. -/
def segParts : List (Nat × Nat) → Nat → Nat → List (Nat × Nat × Nat)
  | [], _, _ => []
  | (a, l) :: r, off, n =>
    if n = 0 then []
    else if l ≤ off then segParts r (off - l) n
    else
      let k := min n (l - off)
      (a, off, k) :: segParts r 0 (n - k)

/-- Translates the parts of a message in order. -/
def xlateParts (s : State) (t c : Nat) (u : Use) : List (Nat × Nat × Nat) → State × Pieces
  | [] => (s, .ok [])
  | (a, o, k) :: r =>
    match dataXlate s t c a o k u with
    | (s1, .ok ps) =>
      (match xlateParts s1 t c u r with
       | (s2, .ok qs) => (s2, .ok (ps ++ qs))
       | x => x)
    | x => x

/-- Issues a transfer of a message's bytes [off, off + n) in its segments (R147). -/
def issueSegs (s : State) (t c : Nat) (segs : List (Nat × Nat)) (off n key : Nat) (u : Use) : State × Issue :=
  match xlateParts s t c u (segParts segs off n) with
  | (s1, .need a) => (s1, .need a)
  | (s1, .fail st _) => (s1, .fail st)
  | (s1, .ok ps) => (transferStart s1 c n, .ok { key := key, ctx := c, epoch := (ctx s1 c).epoch.toNat, len := n, pieces := ps })

/-- The part of a message whose segment stops it, as the index of its segment: the first that does not translate, or whose local pieces the
ownership check refuses; none when no segment does (R81). -/
def failedSeg (s : State) (t c : Nat) (u : Use) : List (Nat × Nat) → Nat → Nat → Nat → Option Nat
  | [], _, _, _ => none
  | (a, l) :: r, off, n, i =>
    if n = 0 then none
    else if l ≤ off then failedSeg s t c u r (off - l) n (i + 1)
    else
      let k := min n (l - off)
      match (dataXlate s t c a off k u).2 with
      | .ok ps => if piecesOwned s t ps then failedSeg s t c u r 0 (n - k) (i + 1) else some i
      | _ => some i

/-- The index of the segment that holds a byte of a message. -/
def segOf : List (Nat × Nat) → Nat → Nat → Nat
  | [], _, i => i
  | (_, l) :: r, off, i => if l ≤ off then segOf r (off - l) (i + 1) else i

/-- FRAG of a failure in bytes [off, off + n) of a message: the segment that stops them, or, where a bus read failed, that of their first
byte. -/
def failFrag (s : State) (t c : Nat) (u : Use) (segs : List (Nat × Nat)) (off n : Nat) : Nat :=
  (failedSeg s t c u segs off n 0).getD (segOf segs off 0)

/-- Whether a range can be translated now: none when it can, else the status it fails with; a table word still needed counts as a
failure that is not final (R145). -/
def xlateStatus (s : State) (t c va len : Nat) (u : Use) : Option Nat :=
  match (dmaXlate s t c va len u).2 with
  | .ok _ => none
  | .fail st _ => some st
  | .need _ => some Status.translationFault

end Sys2Proof.Machine
end

