-- ==== Sys2Proof/Machine/Ccs.lean ====
section
/-! DEFINITION. Credits, demands and grants, the shapers and the capacity factor (chapter 8). -/
namespace Sys2Proof.Machine

/-! ### Egress points, paths and classes -/

/-- An egress point, and the receive path of the same number. -/
def egress (s : State) (e : Nat) : Egress := tget (fun _ => {}) s.ccs.egress e

/-- Rewrites an egress point. -/
def egressMod (s : State) (e : Nat) (f : Egress → Egress) : State :=
  { s with ccs := { s.ccs with egress := tmod (fun _ => {}) s.ccs.egress e f } }

/-- The key of a class of an egress point. -/
def clsKey (e c : Nat) : Nat := e * 64 + c

/-- A class. -/
def cls (s : State) (e c : Nat) : Class := tget (fun _ => {}) s.ccs.classes (clsKey e c)

/-- Rewrites a class. -/
def clsMod (s : State) (e c : Nat) (f : Class → Class) : State :=
  { s with ccs := { s.ccs with classes := tmod (fun _ => {}) s.ccs.classes (clsKey e c) f } }

/-- RATE of a class, in units of 10 Mb/s. -/
def clsRate (s : State) (e c : Nat) : Nat := fld (reg s Reg.CCS_SHP_CFG (clsKey e c)) 19 0

/-- CMIN of a weighted class. -/
def clsCmin (s : State) (e c : Nat) : Nat := if c < 4 then 0 else fld (reg s Reg.CCS_CLS_CMIN (clsKey e c)) 19 0

/-- WEIGHT of a weighted class. -/
def clsWeight (s : State) (e c : Nat) : Nat := fld (reg s Reg.CCS_CLS_CFG (clsKey e c)) 15 0

/-- OWNER of a class; classes 0 to 3 are tenant 0's (R215). -/
def clsOwner (s : State) (e c : Nat) : Nat := if c < 4 then 0 else fld (reg s Reg.CCS_CLS_CFG (clsKey e c)) 23 16

/-- A class is closed: a strict class 1 to 3 with RATE 0 (R218). -/
def clsClosed (s : State) (e c : Nat) : Bool := decide (1 ≤ c ∧ c ≤ 3) && decide (clsRate s e c = 0)

/-- A class is unshaped: RATE 0 in class 0 or a weighted class (R218). -/
def clsUnshaped (s : State) (e c : Nat) : Bool := (decide (c = 0) || decide (4 ≤ c)) && decide (clsRate s e c = 0)

/-- BURST of a class, in thousandths of a bit. -/
def clsBurst (s : State) (e c : Nat) : Nat := fld (reg s Reg.CCS_SHP_CFG (clsKey e c)) 31 20 * 1024 * 8000

/-- The tokens of a class, in thousandths of a bit; the bucket is full at reset, where CCS_CLS_STAT reads 0. -/
def clsTokens (s : State) (e c : Nat) : Int := Int.ofNat (clsBurst s e c) - (cls s e c).used

/-- The class's priority is paused at the port (R275). -/
def classPaused (s : State) (e k : Nat) : Bool := decide (1 ≤ e) && (eport s e).paused.getLsbD (classPcp s e k)

/-- A class has tokens. -/
def hasTokens (s : State) (e c : Nat) : Bool :=
  !clsClosed s e c && (clsUnshaped s e c || decide (0 < clsTokens s e c))

/-- A tenant may send in a class: it is one of classes 1 to 63 and the tenant's; class 0 carries ACK, CREDIT and CONNECT cells only (R215). -/
def classOf (s : State) (e k t : Nat) : Bool := decide (1 ≤ k ∧ k < 64) && decide (clsOwner s e k = t)

/-- The lowest-numbered weighted class that a tenant owns at an egress point (R215). -/
def lowestClass (s : State) (e t : Nat) : Option Nat :=
  ((List.range 60).map (· + 4)).find? (fun c => clsOwner s e c = t)

/-- The capacity of a link in units of 10 Mb/s (R248). -/
def linkCap (L : Link) : Nat := if L.st ≠ 3 then 0 else if L.oneLane ∨ L.ver = 1 then 40000 else 80000

/-- CCS_ECAP: the live capacity of the fabric, or of a port that is present and up (R221, R256, R276). -/
def ecapOf (s : State) (e : Nat) : Nat :=
  if e = 0 then s.frt.links.foldl (fun n l => n + linkCap l.2) 0
  else if !portPresent s e || !(eport s e).up then 0
  else match fld (reg s Reg.EMAC_MODE 0) 1 0 with | 0 => 40000 | 1 => 80000 | _ => 160000

/-- CCS_EADMIT: the admitted total of R221. -/
def eadmit (s : State) (e : Nat) : Nat :=
  (List.range 4).foldl (fun n c => n + clsRate s e c) 0 + ((List.range 60).map (· + 4)).foldl (fun n c => n + clsCmin s e c) 0

/-- ADMIT_PCT of an egress point. -/
def admitPct (s : State) (e : Nat) : Nat := fld (reg s Reg.CCS_ADMIT_PCT e) 6 0

/-! ### Exact fractions (R216) -/

/-- Adds a quotient to a fraction, kept in lowest terms. -/
def Frac.addQuot (f : Frac) (n d : Nat) : Frac :=
  let num := f.num * d + n * f.den
  let den := f.den * d
  let g := max 1 (Nat.gcd num den)
  ⟨num / g, den / g⟩

/-- A fraction is below another. -/
def Frac.lt (a b : Frac) : Bool := decide (a.num * b.den < b.num * a.den)

/-! ### Charging and refilling (R216, R218, R220) -/

/-- The accounted length of a unit: its own length plus CCS_EOVH (R220). -/
def accounted (s : State) (e len : Nat) : Nat := len + fld (reg s Reg.CCS_EOVH e) 7 0

/-- charge(c, len) of R216. -/
def charge (s : State) (e c len : Nat) : State :=
  let n := accounted s e len
  let w := max 1 (clsWeight s e c)
  clsMod s e c (fun C => { C with
    used := if clsUnshaped s e c then C.used else C.used + Int.ofNat (n * 8000),
    committed := if 0 < clsCmin s e c then C.committed - Int.ofNat (n * 8000) else C.committed,
    start := if 4 ≤ c then C.start.addQuot n w else C.start })

/-- The configured rate under the capacity factor (R222): strict rates and committed minima are scaled. -/
def scaledRate (s : State) (e c : Nat) : Nat :=
  if c < 4 then clsRate s e c * (egress s e).factor else clsRate s e c * 1000

/-- One refill of a class: RATE for 100 ns up to BURST; CMIN up to 64 KiB (R218). -/
def refillClass (s : State) (e c : Nat) : State :=
  let r := scaledRate s e c
  let m := clsCmin s e c * (egress s e).factor
  if r = 0 ∧ m = 0 then s
  else clsMod s e c (fun C => { C with
    used := if r = 0 then C.used else max 0 (C.used - Int.ofNat r),
    committed := if m = 0 then C.committed else min (Int.ofNat (65536 * 8000)) (C.committed + Int.ofNat m) })

/-- CCS_QGMIN of a QP as it is configured (Table 8-6). -/
def qgminCfg (s : State) (q : Nat) : Nat := fld (reg s Reg.CCS_QGMIN q) 23 0

/-- CCS_GRANT_RATE in effect, in thousandths of a unit per µs: the fabric's is scaled by f (R222). -/
def grantRate (s : State) (p : Nat) : Nat :=
  fld (reg s Reg.CCS_GRANT_RATE p) 15 0 * (if p = 0 then (egress s 0).factor else 1000)

/-- CCS_QGMIN of a connection in effect, in thousandths of a cell per ms. -/
def qgmin (s : State) (c : Nat) : Nat :=
  if isChan c then 0
  else qgminCfg s c * (if connPath s c = 0 then (egress s 0).factor else 1000)

/-- One refill of a path's grant-rate bucket and of the committed receive buckets of its demand list (R205, R212). -/
def refillPath (s : State) (p : Nat) : State :=
  let E := egress s p
  egressMod s p (fun E0 => { E0 with
    taken := E0.taken - grantRate s p,
    gmin := E.demand.foldl (fun g d =>
      tmod (fun _ => 0) g d.1 (fun x => min (qgmin s d.1 * 10000) (x + qgmin s d.1))) E0.gmin })

/-- The tenants that CAPACITY_FACTOR_APPLY tells: owners of the affected classes, and of the fabric's QPs with a committed rate, whatever f
was before (R222). -/
def degradedTenants (s : State) (e : Nat) : List Nat :=
  let cs := (List.range 64).filter (fun c => decide ((c < 4 ∧ clsRate s e c ≠ 0) ∨ clsCmin s e c ≠ 0))
  let held := s.regs.filter (fun r => decide (r.1 / 2 ^ 32 = Reg.CCS_QGMIN ∧ fld r.2 23 0 ≠ 0 ∧ connPath s (r.1 % 2 ^ 32) = 0))
  let qs := if e = 0 then held.map (fun r => connTenant s (r.1 % 2 ^ 32)) else []
  ((cs.map (clsOwner s e)) ++ qs).eraseDups

/-- CAPACITY_FACTOR_APPLY (R222): f is applied and each affected tenant gets a COMMIT_DEGRADED event with the egress point and f. -/
def execCapacityFactorApply (e : Nat) (s : State) : Host.Outcome State Fault Refusal :=
  if 5 ≤ e then .next s
  else
    let adm := eadmit s e
    let f := if adm = 0 then 1000 else min 1000 (1000 * admitPct s e * ecapOf s e / (100 * adm))
    if f = (egress s e).factor then .next s
    else
      let ts := degradedTenants s e
      let s1 := egressMod s e (fun E => { E with factor := f })
      .next (ts.foldl (fun s t =>
        report (bumpFn s Reg.CCS_DEGRADE t)
          { cls := 0x10, status := Status.commitDegraded, sev := if f = 1000 then 0 else 2, unit := 4, tenant := t,
            w3 := w64 (e + f * 2 ^ 16) }) s1)

/-! ### Cells of a connection -/

/-- The fixed fields of a cell of a connection (Table 9-1, R261). -/
def baseCell (s : State) (c : Nat) : Cell :=
  let p := connPath s c
  let node := if p ≠ 0 ∧ !isChan c then fld (ahWord s (qpAh (conn s c)) 0) 19 8 else connNode s c
  { ver := 2, typ := 1, dnode := node, snode := ownNode s, plane := ownPlane s,
    tc := if isChan c then 0 else fld (conn s c).cfg 36 33,
    qpe := if isChan c then 0 else fld (conn s c).cfg 32 13 }

/-- Class 0 of an egress point may send: it has tokens, and its priority is not paused (R216, R218, R275). -/
def class0Open (s : State) (e : Nat) : Bool := !classPaused s e 0 && hasTokens s e 0

/-- Hands a cell of class 0 to its path, and charges the class. -/
def pushClass0 (s : State) (c : Nat) (cell : Cell) : State :=
  handOff (charge s (connPath s c) 0 (wireLen s c cell.payload.length)) c (connTenant s c) 0 cell

/-- Sends a cell of class 0 (R215): ACK, CREDIT and CONNECT cells. It goes at once, since the class comes first, unless the class has no
tokens or cells of it wait already. -/
def sendClass0 (s : State) (c : Nat) (cell : Cell) : State :=
  let e := connPath s c
  if class0Open s e && (egress s e).waiting0.isEmpty then pushClass0 s c cell
  else egressMod s e (fun E => { E with waiting0 := E.waiting0 ++ [(c, cell)] })

/-- The cells of class 0 that wait go out in their order, while the class has tokens. -/
def drainClass0 (s : State) (e : Nat) : Nat → State
  | 0 => s
  | n + 1 =>
    match (egress s e).waiting0 with
    | [] => s
    | x :: r =>
      if class0Open s e then drainClass0 (pushClass0 (egressMod s e (fun E => { E with waiting0 := r })) x.1 x.2) e n else s

/-- SHAPER_REFILL (R205, R218): every 100 ns. -/
def execShaperRefill (s : State) : Host.Outcome State Fault Refusal :=
  let s1 := (List.range 320).foldl (fun s k => refillClass s (k / 64) (k % 64)) s
  let s2 := (List.range 5).foldl refillPath s1
  .next ((List.range 5).foldl (fun s e => drainClass0 s e (egress s e).waiting0.length) s2)

/-- A credit record (Table 8-2). -/
def creditRecord (kind qpe count lifetime gseq backlog : Nat) : List Byte :=
  beBytes 16 (kind * 2 ^ 124 + qpe % 2 ^ 24 * 2 ^ 96 + count % 65536 * 2 ^ 80 + lifetime % 65536 * 2 ^ 64 +
    gseq % 2 ^ 32 * 2 ^ 32 + backlog % 2 ^ 32)

/-- Sends a CREDIT cell of one record (R206). -/
def sendCredit (s : State) (c kind count lifetime gseq backlog : Nat) : State :=
  let b := baseCell s c
  sendClass0 s c { b with qpe := 0, opc := 0x18, plen := 16, payload := creditRecord kind b.qpe count lifetime gseq backlog }

/-! ### The sender's balance (R207, R208) -/

/-- BALANCE: credit held and not expired. -/
def balance (C : Conn) : Nat := C.grants.foldl (fun n g => n + g.left) 0

/-- Spends the oldest credit first (R207). -/
def spend (l : List Held) : Nat → List Held
  | 0 => l
  | n + 1 => match l with
    | [] => []
    | g :: r => if g.left = 0 then spend r n else if g.left = 1 then spend r n else spend ({ g with left := g.left - 1 } :: r) n

/-- The message carries data cells of its own: every one but READ, ATOMIC, FREAD and ABORT heads (Table 7-4). -/
def hasData (opc : Nat) : Bool := !(opc = 0x0B || opc = 0x0C || opc = 0x0D || opc = 0x0F)

/-- Units of a message that have still to be sent: its head, its data, and what is sent again. -/
def msgUnits (m : SendMsg) : Nat :=
  let data := if m.resp || hasData m.opc then unitsOf m.len else 0
  (if m.resp || m.headSent then 0 else 1) + (data - m.next) + m.retx.length + b2n m.reHead

/-- Units that a connection still has to send. -/
def needUnits (C : Conn) : Nat := C.send.foldl (fun n m => n + msgUnits m) 0

/-- The message of an entry. -/
def ofEntry (m : SendMsg) : Bool := match m.by_ with | .entry _ _ => true | _ => false

/-- An entry that waits for credit before its head (CCS_CRED_WAIT). -/
def creditWaits (C : Conn) (m : SendMsg) : Bool := ofEntry m && decide (balance C = 0) && !m.resp && !m.headSent && !m.credWait

/-- Counts each entry that waits for credit before its head, once. -/
def noteCredit (s : State) (c : Nat) : State :=
  let C := conn s c
  let l := C.send.filter (creditWaits C)
  if l = [] then s
  else l.foldl (fun s m => bumpFn s Reg.CCS_CRED_WAIT m.tenant)
    (connMod s c (fun C => { C with send := C.send.map (fun m => { m with credWait := m.credWait || creditWaits C m }) }))

/-- Sends a DEMAND (R208): BACKLOG is what is needed beyond the balance. -/
def sendDemand (s : State) (c : Nat) : State :=
  sendCredit (connMod s c (fun C => { C with demandOut := true })) c 1 0 0 0 (needUnits (conn s c) - balance (conn s c))

/-- A DEMAND goes out when the balance is below the units to send and none is outstanding; with nothing left to send, a BACKLOG of 0
withdraws the one that is (R208). -/
def demandCheck (s : State) (c : Nat) : State :=
  let C := conn s c
  if C.st ≠ 2 then s
  else
    let s := noteCredit s c
    let need := needUnits C
    if balance C < need then (if C.demandOut then s else sendDemand s c)
    else if need = 0 ∧ C.demandOut then
      sendCredit (connMod s c (fun C => { C with demandOut := false })) c 1 0 0 0 0
    else s

/-- A is above B in 32-bit serial-number order (R207). -/
def serialAbove (a b : Nat) : Bool :=
  let d := (a + 2 ^ 32 - b % 2 ^ 32) % 2 ^ 32
  decide (1 ≤ d ∧ d ≤ 2 ^ 31 - 1)

/-- Takes a grant into the balance, at most 65,535 in all (R207). -/
def takeGrant (s : State) (c gseq count : Nat) : State :=
  connMod s c (fun C => { C with
    lastGseq := some gseq, grants := C.grants ++ [⟨gseq, min count (65535 - balance C)⟩], demandOut := false })

/-- The opening grant of a REQ or ACC (R207, R210): the first one sets the base, a later one is stale unless it is above it. -/
def takeOpening (s : State) (c gseq count : Nat) : State :=
  match (conn s c).lastGseq with
  | none => takeGrant s c gseq count
  | some l => if serialAbove gseq l then takeGrant s c gseq count else bumpFn s Reg.CCS_GRANT_STALE (connTenant s c)

/-- A connection exists here and is the tenant's or the device's: a QP or a channel. -/
def live (s : State) (c : Nat) : Bool := decide ((conn s c).st ≠ 0)

/-- What is left of a grant expires unspent (R207). -/
def expireGrant (s : State) (c gseq : Nat) : State :=
  match (conn s c).grants.find? (fun g => g.gseq = gseq) with
  | none => s
  | some g =>
    demandCheck (connMod (bumpFnBy s Reg.CCS_GRANT_EXPIRED (connTenant s c) g.left) c
      (fun C => { C with grants := C.grants.filter (fun x => x.gseq ≠ gseq) })) c

/-- CREDIT_GRANT_RECEIVE (R207). `lifetime` µs later the grant expires; one with LIFETIME 0 is accepted by its GSEQ as any other, and expires
as it arrives. -/
def execCreditGrantReceive (c count lifetime gseq : Nat) (s : State) : Host.Outcome State Fault Refusal :=
  if !live s c then .next s
  else
    let ok := match (conn s c).lastGseq with | none => false | some l => serialAbove gseq l
    if ok then
      .next (if lifetime = 0 then expireGrant (takeGrant s c gseq count) c gseq else demandCheck (takeGrant s c gseq count) c)
    else .next (bumpFn s Reg.CCS_GRANT_STALE (connTenant s c))

/-- GRANT_EXPIRY (R207). -/
def execGrantExpiry (c gseq : Nat) (s : State) : Host.Outcome State Fault Refusal := .next (expireGrant s c gseq)

/-- DEMAND_REPEAT_TIMER (R208): RTO_MIN without a grant while the demand stands. -/
def execDemandRepeatTimer (c : Nat) (s : State) : Host.Outcome State Fault Refusal :=
  if (conn s c).demandOut ∧ balance (conn s c) < needUnits (conn s c) then .next (sendDemand s c) else .next s

/-! ### The receiver's grants (R205, R208, R209, R212) -/

/-- CREDIT_DEMAND_RECEIVE (R208): the entry replaces the sender's entry on the path's demand list; 0 withdraws it; a full list drops
it. -/
def execCreditDemandReceive (c backlog : Nat) (s : State) : Host.Outcome State Fault Refusal :=
  if !live s c then .next s
  else
    let p := connPath s c
    let E := egress s p
    if E.demand.any (fun d => d.1 = c) then
      .next (egressMod s p (fun E => { E with
        turn := if backlog = 0 ∧ (E.demand.head?.map (·.1)) = some c then 0 else E.turn,
        demand := if backlog = 0 then E.demand.filter (fun d => d.1 ≠ c)
                  else mapIf (fun d => d.1 = c) (fun d => (d.1, backlog)) E.demand }))
    else if backlog = 0 then .next s
    else if 131072 ≤ (s.ccs.egress.foldl (fun n e => n + e.2.demand.length) 0) then
      .next (bumpFn s Reg.CCS_DEMAND_DROP (connTenant s c))
    else .next (egressMod s p (fun E => { E with demand := E.demand ++ [(c, backlog)] }))

/-- CCS_POOL of a path. -/
def poolSize (s : State) (p : Nat) : Nat := fld (reg s Reg.CCS_POOL p) 19 0

/-- QUANTUM of a path. -/
def quantum (s : State) (p : Nat) : Nat := fld (reg s Reg.CCS_GRANT_CFG p) 7 0

/-- LIFETIME of a path, in µs. -/
def lifetime (s : State) (p : Nat) : Nat := fld (reg s Reg.CCS_GRANT_CFG p) 31 16

/-- The depth of a path's grant-rate bucket, in units (R205). -/
def bucketDepth (s : State) (p : Nat) : Nat := max (grantRate s p / 1000) (2 * quantum s p)

/-- The cap of a single grant (R212): the bucket's depth, and the room the pool can ever offer. -/
def grantCap (s : State) (p : Nat) : Nat :=
  min (bucketDepth s p) (poolSize s p - (if p = 0 then fld (reg s Reg.SCB_MC_RESERVE 0) 15 0 else 0))

/-- Scarab's reserve of the fabric pool (R312) is out of the reach of grants. -/
def poolRoomFor (s : State) (p : Nat) : Nat :=
  poolSize s p - (if p = 0 then fld (reg s Reg.SCB_MC_RESERVE 0) 15 0 else 0) - (egress s p).outstanding

/-- The pool and the rate bucket of a path cover n units (R205). -/
def grantRoom (s : State) (p n : Nat) : Bool :=
  decide (n ≤ poolRoomFor s p) && decide (n * 10000 + (egress s p).taken ≤ bucketDepth s p * 10000)

/-- A grant of n units may go out now (R205). -/
def grantOk (s : State) (p n : Nat) : Bool := grantRoom s p n && !(egress s p).paused

/-- Counts a grant out: OUTSTANDING, the bucket, and what the connection has been granted. -/
def grantOut (s : State) (c gseq n : Nat) : State :=
  connMod (egressMod s (connPath s c) (fun E => { E with outstanding := E.outstanding + n, taken := E.taken + n * 10000 })) c
    (fun C => { C with granted := C.granted ++ [⟨gseq, n⟩] })

/-- Sends a grant to a connection. -/
def sendGrant (s : State) (c n : Nat) : State :=
  let g := (conn s c).nextGseq
  let s1 := connMod (grantOut s c g n) c (fun C => { C with nextGseq := (C.nextGseq + 1) % 2 ^ 32 })
  sendCredit s1 c 0 n (lifetime s (connPath s c)) g 0

/-- GWEIGHT of a QP; 0 acts as 1, and a channel has weight 1 (Table 8-6). -/
def gweight (s : State) (c : Nat) : Nat := if isChan c then 1 else max 1 (fld (reg s Reg.CCS_QCFG c) 13 6)

/-- After a grant of n, the demand list: the backlog falls, a satisfied entry leaves, a spent turn goes to the back. -/
def afterGrant (E : Egress) (c n : Nat) (turn : Nat) : Egress :=
  let d := mapIf (fun d => d.1 = c) (fun d => (d.1, d.2 - n)) E.demand
  let left := d.filter (fun d => d.2 ≠ 0)
  match left with
  | [] => { E with demand := [], turn := 0 }
  | h :: r =>
    if h.1 = c ∧ turn = 0 then { E with demand := r ++ [h], turn := 0 }
    else { E with demand := left, turn := if h.1 = c then turn else 0 }

/-- After a grant of n in the first pass (R212), which takes nothing from the turn of the list's head. -/
def afterFirst (E : Egress) (c n : Nat) : Egress :=
  let left := (mapIf (fun d => d.1 = c) (fun d => (d.1, d.2 - n)) E.demand).filter (fun d => d.2 ≠ 0)
  { E with demand := left, turn := if left.head?.map (·.1) = E.demand.head?.map (·.1) then E.turn else 0 }

/-- A grant of n units to a connection goes out, with the demand list as it is afterwards; while the placement queue is paused, or the pool or
the bucket cannot cover it, it waits at the head of the list, and the latter is counted (R205, R212, R213). -/
def tryGrant (s : State) (p c n : Nat) (after : Egress → Egress) : State :=
  if n = 0 ∨ (egress s p).paused = true then s
  else if !grantRoom s p n then bumpFn s Reg.CCS_POOL_FULL (connTenant s c)
  else sendGrant (egressMod s p after) c n

/-- GRANT_ISSUE (R205, R212): one grant of a path. A sender with a committed receive rate comes first, up to that rate; then the
head of the list, for its visit of QUANTUM × GWEIGHT, or for all it asks when it is alone; never beyond its backlog or the cap. -/
def execGrantIssue (p : Nat) (s : State) : Host.Outcome State Fault Refusal :=
  let E := egress s p
  let cap := min (grantCap s p) 65535
  match E.demand.find? (fun d => decide (10000000 ≤ tget (fun _ => 0) E.gmin d.1)) with
  | some (c, b) =>
    let n := min (min b (tget (fun _ => 0) E.gmin c / 10000000)) cap
    .next (tryGrant s p c n (fun E => { afterFirst E c n with gmin := tmod (fun _ => 0) E.gmin c (· - n * 10000000) }))
  | none =>
    match E.demand with
    | [] => .next s
    | (c, b) :: r =>
      let turn := if r = [] then b else if E.turn = 0 then quantum s p * gweight s c else E.turn
      let n := min (min b turn) cap
      .next (tryGrant s p c n (fun E => afterGrant E c n (turn - n)))

/-- A unit arrived under a CSN: it reclaims one unit of the connection's oldest unreclaimed grant (R209). -/
def reclaimUnit (s : State) (c : Nat) : State :=
  if balance { (conn s c) with grants := (conn s c).granted } = 0 then s
  else connMod (egressMod s (connPath s c) (fun E => { E with outstanding := E.outstanding - 1 })) c
    (fun C => { C with granted := spend C.granted 1 })

/-- Reclaims everything outstanding to a connection (R210). -/
def reclaimAll (s : State) (c : Nat) : State :=
  let n := (conn s c).granted.foldl (fun n g => n + g.left) 0
  connMod (egressMod s (connPath s c) (fun E => { E with outstanding := E.outstanding - n })) c (fun C => { C with granted := [] })

/-- GRANT_RECLAIM_TIMER (R209, R210): what remains LIFETIME + GUARD after issue is reclaimed and counted; with it the window of an opening
grant is over, whether or not anything remains. -/
def execGrantReclaimTimer (c gseq : Nat) (s : State) : Host.Outcome State Fault Refusal :=
  match (conn s c).granted.find? (fun g => g.gseq = gseq) with
  | none => .next (if (conn s c).openGseq = some gseq then connMod s c (fun C => { C with openOver := true }) else s)
  | some g =>
    let s1 := egressMod s (connPath s c) (fun E => { E with outstanding := E.outstanding - g.left })
    let s2 := bumpFnBy s1 Reg.CCS_GRANT_RECLAIM (connTenant s c) g.left
    .next (connMod s2 c (fun C => { C with
      granted := C.granted.filter (fun x => x.gseq ≠ gseq), 
      openOver := C.openOver || decide (C.openGseq = some gseq) }))

/-- A cell arrives to be placed: at 8,192 queued cells grants pause; a full queue of 16,384 drops it (R213). -/
def placeQueue (s : State) (p : Nat) (t : Nat) : State × Bool :=
  let n := (egress s p).queued
  if 16384 ≤ n then (bumpFn s Reg.CCS_PLACE_DROP t, false)
  else
    let s1 := egressMod s p (fun E => { E with queued := n + 1, paused := E.paused || decide (8192 ≤ n + 1) })
    (if !(egress s p).paused && decide (8192 ≤ n + 1) then bumpFn s1 Reg.CCS_PLACE_PAUSE t else s1, true)

/-- A queued cell has been placed: at 4,096 queued cells grants resume (R213). -/
def placeDone (s : State) (p : Nat) : State :=
  egressMod s p (fun E => { E with queued := E.queued - 1, paused := E.paused && decide (4096 < E.queued - 1) })

/-- Placements that end with their message leave the placement queue, and their transfers are aborted (R149, R213). -/
def dropPlacements (s : State) (p : Nat) (l : List Issued) : State := l.foldl (fun s x => placeDone (endXfer s x) p) s

end Sys2Proof.Machine
end

