-- ==== Sys2Proof/Machine/Cic.lean ====
section
/-! DEFINITION. Cicada firmware update (R446 to R457): pieces, slot states, activation, confirmation. -/
namespace Sys2Proof.Machine

/-- Result codes of Table 19-8. -/
inductive CicResult
  | ok | duplicate | badHash | needHeader | needTable | badSig | rollback | version | slotBusy | busy | badPiece | flashErr
  | notReady | refused | badHeader
deriving DecidableEq, Repr

/-- The code of a result (Table 19-8). -/
def CicResult.code : CicResult → Nat
  | .ok => 0x00 | .duplicate => 0x01 | .badHash => 0x02 | .needHeader => 0x03 | .needTable => 0x04 | .badSig => 0x05
  | .rollback => 0x06 | .version => 0x07 | .slotBusy => 0x08 | .busy => 0x09 | .badPiece => 0x0A | .flashErr => 0x0B
  | .notReady => 0x0C | .refused => 0x0D | .badHeader => 0x0E

/-- A part entry of a header (Table 19-5). -/
structure Part where
  type : Nat
  first : Nat
  length : Nat
  digest : List Byte
deriving DecidableEq, Repr

/-- The eight part entries of a header (Table 19-4). -/
def parts (h : List Byte) : List Part :=
  (List.range 8).map (fun i =>
    let b := h.drop (128 + 64 * i)
    ⟨leAt b 0 1, leAt b 8 4, leAt b 16 8, (b.drop 24).take 48⟩)

/-- Pieces of a part. -/
def partPieces (p : Part) : Nat := (p.length + 65535) / 65536

/-- Data pieces of a header. -/
def dataPieces (h : List Byte) : Nat := leAt h 20 4 - 1 - leAt h 24 2

/-- The part that holds a piece. -/
def partOf (h : List Byte) (i : Nat) : Option Part :=
  (parts h).find? (fun p => decide (p.first ≤ i ∧ i < p.first + partPieces p))

/-- Step 1 of R450: MAGIC, NPIECES, TPIECES, NPARTS and the part list are well formed (R446). -/
def headerOk (h : List Byte) : Bool :=
  let np := leAt h 20 4
  let tp := leAt h 24 2
  decide (leAt h 0 4 = 0x4D493954) && decide (tp = 1 ∨ tp = 2) && decide (leAt h 26 2 = 8) &&
  decide (tp + 9 ≤ np ∧ np ≤ 2048) && decide (dataPieces h ≤ 1365 * tp) &&
  (List.range 8).all (fun i => (parts h).countP (fun p => p.type = i + 1) = 1) &&
  (parts h).all (fun p => decide (0 < p.length ∧ tp < p.first ∧ p.first + partPieces p ≤ np)) &&
  (List.range (dataPieces h)).all (fun i =>
    (parts h).countP (fun p => decide (p.first ≤ tp + 1 + i ∧ tp + 1 + i < p.first + partPieces p)) = 1)

/-- The inactive slot. -/
def inactiveSlot (s : State) : Nat := otherSlot (bootRec s).active

/-- The header checks of R450, in order: the first that fails, or none. -/
def headerCheck (s : State) (h : List Byte) : Option CicResult :=
  let sl := slotGet s (inactiveSlot s)
  let key := leAt h 6 2
  let pub := (h.drop 1248).take 96
  if !headerOk h then some .badHeader
  else if !nbit (regN s Reg.MGT_CIC_FMT_OFFER 0) (leAt h 4 2) then some .version
  else if 2 ≤ key ∨ (if key = 0 then s.fuses.revoked0 else s.fuses.revoked1) = true ∨ sha384 pub ≠ Config.fusedKeyDigest key
      ∨ Config.ecdsaVerify pub (h.take 1344) ((h.drop 1344).take 96) = false then some .badSig
  else if leAt h 16 4 < s.fuses.svn then some .rollback
  else if sl.state = 0 ∨ sl.state = 5 ∨ sl.state = 2 ∨ (sl.state ≠ 3 ∧ sl.state ≠ 4 ∧ sl.image = leAt h 8 8) then none
  else some .slotBusy

/-- The piece of a slot. -/
def pieceOf (sl : Slot) (i : Nat) : Option (List Byte) := (sl.pieces.find? (fun p => p.1 = i)).map (·.2)

/-- The length a piece must have by its header (R446): a table piece holds 48 bytes for each of its data pieces; a data piece
is 65,536 bytes, but for the last piece of its part. -/
def pieceLen (h : List Byte) (i : Nat) : Nat :=
  let tp := leAt h 24 2
  if i = 0 then 4096
  else if i ≤ tp then 48 * (if i = tp then dataPieces h - 1365 * (tp - 1) else 1365)
  else match partOf h i with
    | none => 0
    | some p => min 65536 (p.length - (i - p.first) * 65536)

/-- The digest a piece must have: TDIGEST for a table piece, the table entry for a data piece; none without its table piece
(R451). -/
def wantDigest (sl : Slot) (h : List Byte) (i : Nat) : Option (List Byte) :=
  let tp := leAt h 24 2
  if i ≤ tp then some ((h.drop (1152 + 48 * (i - 1))).take 48)
  else
    let d := i - tp - 1
    (pieceOf sl (d / 1365 + 1)).map (fun t => (t.drop (48 * (d % 1365))).take 48)

/-- Whether a piece of a RECEIVING slot may be stored (R451): the first refusal, or none. -/
def pieceCheck (sl : Slot) (i : Nat) (bytes : List Byte) : Option CicResult :=
  match pieceOf sl 0 with
  | none => some .needHeader
  | some h =>
    if sl.npieces ≤ i ∨ bytes.length ≠ pieceLen h i then some .badPiece
    else match wantDigest sl h i with
      | none => some .needTable
      | some d => if digestBytes (sha384 bytes) = d then none else some .badHash

/-- Every part digest of a slot passes (R451, R453). -/
def partsPass (sl : Slot) : Bool :=
  match pieceOf sl 0 with
  | none => false
  | some h => (parts h).all (fun p =>
      let bytes := (List.range (partPieces p)).foldl (fun b k => b ++ (pieceOf sl (p.first + k)).getD []) []
      decide (digestBytes (sha384 bytes) = p.digest))

/-- Puts the slot states into the boot record when they changed (Table 19-3). -/
def syncRec (s : State) : State := recWrite s (recStates s)

/-- Stores a checked piece in flash, setting its bit; the last one runs the final digest pass (R451). -/
def storePiece (s : State) (i : Nat) (bytes : List Byte) (flashOk : Bool) : State × CicResult :=
  let k := inactiveSlot s
  let s1 := bump (slotMod s k (fun sl => { sl with pieces := sl.pieces ++ [(i, bytes)] })) Reg.MGT_CIC_STORED 0
  let sl := slotGet s1 k
  if sl.pieces.length < sl.npieces then (s1, .ok)
  else if flashOk && partsPass sl then (syncRec (slotMod s1 k (fun sl => { sl with state := 2 })), .ok)
  else (syncRec (slotMod s1 k (fun sl => { sl with state := 6 })), .flashErr)

/-- A header that passes makes the inactive slot RECEIVING with an empty bitmap, and is stored (R450). -/
def takeHeader (s : State) (h : List Byte) : State :=
  syncRec (bump (slotMod s (inactiveSlot s) (fun _ =>
    { state := 1, svn := leAt h 16 4, image := leAt h 8 8, npieces := leAt h 20 4, tpieces := leAt h 24 2,
      pieces := [(0, h)] })) Reg.MGT_CIC_STORED 0)

/-- A refused header or piece is counted. -/
def refusePiece (s : State) (r : CicResult) : State × CicResult := (bump s Reg.MGT_CIC_REFUSED 0, r)

/-- A whole piece is checked when its last byte has arrived (R449, R450, R451). -/
def wholePiece (s : State) (image i : Nat) (bytes : List Byte) (flashOk : Bool) : State × CicResult :=
  if i = 0 then
    match (if bytes.length ≠ 4096 then some CicResult.badPiece else headerCheck s bytes) with
    | some r => refusePiece s r
    | none => if flashOk then (takeHeader s bytes, .ok) else refusePiece s .flashErr
  else
    let sl := slotGet s (inactiveSlot s)
    if sl.state ≠ 1 ∨ sl.image ≠ image then refusePiece s .needHeader
    else match pieceCheck sl i bytes with
      | some r => refusePiece s r
      | none => if flashOk then storePiece s i bytes true else refusePiece s .flashErr

/-- Writes a fragment over the bytes of a piece. -/
def overlay (whole : List Byte) (off : Nat) (frag : List Byte) : List Byte :=
  whole.take off ++ frag ++ whole.drop (off + frag.length)

/-- Every byte of a piece has arrived. -/
def covered (plen : Nat) (frags : List (Nat × List Byte)) : Bool :=
  (frags.foldl (fun m f => overlay m f.1 (f.2.map (fun _ => (1 : Byte)))) (List.replicate plen 0)).all (· = 1)

/-- Piece buffers: 64 in normal service, 4 in minimal mode (R449). -/
def bufferCount (s : State) : Nat := if s.boot.minimal then 4 else 64

/-- A fragment reaches its piece buffer, or finds none free (R449). -/
def bufferFragment (s : State) (m : CicMsg) (flashOk : Bool) : State × CicResult :=
  let same := fun b : PieceBuf => decide (b.image = m.image ∧ b.index = m.index ∧ b.plen = m.plen)
  let old := s.cic.buffers.find? same
  let rest := s.cic.buffers.filter (fun b => !same b)
  if old = none ∧ bufferCount s ≤ s.cic.buffers.length then (bump s Reg.MGT_CIC_BUSY 0, .busy)
  else
    let frags := (match old with | none => [] | some b => b.frags) ++ [(m.fragOff, m.body)]
    if covered m.plen frags then
      wholePiece { s with cic := { s.cic with buffers := rest } } m.image m.index
        (frags.foldl (fun w f => overlay w f.1 f.2) (List.replicate m.plen 0)) flashOk
    else ({ s with cic := { s.cic with buffers := rest ++ [⟨m.image, m.index, m.plen, frags⟩] } }, .ok)

/-- The largest body of a path (Table 19-6A). -/
def bodyLimit : CicPath → Nat
  | .host => 65536
  | .mctp => 4096
  | .fleet _ => 4064

/-- PIECE on any path (R448 to R451). -/
def doPiece (s : State) (path : CicPath) (m : CicMsg) (flashOk : Bool) : State × CicResult :=
  let sl := slotGet s (inactiveSlot s)
  if m.body.length ≠ m.fragLen ∨ bodyLimit path < m.fragLen ∨ m.plen = 0 ∨ 65536 < m.plen ∨ m.plen < m.fragOff + m.fragLen
      ∨ (path = .host ∧ m.fragLen ≠ m.plen) then refusePiece s .badPiece
  else if sl.image = m.image ∧ (sl.state = 1 ∨ sl.state = 2 ∨ sl.state = 3) ∧ (pieceOf sl m.index).isSome then
    (s, .duplicate)
  else bufferFragment s m flashOk

/-- A command is allowed on its path (Table 19-6A); the boot ROM has only MCTP and QUERY, PIECE and ACTIVATE (R442). -/
def pathAllows (s : State) (path : CicPath) (kind : Nat) : Bool :=
  let c := reg s Reg.MGT_CIC_CFG 0
  (!s.boot.romOnly || (decide (path = .mctp) && decide (kind = 1 ∨ kind = 2 ∨ kind = 4))) &&
  (match path with
   | .host => true
   | .mctp => decide (kind ≠ 4) || wbit c 2
   | .fleet _ => wbit c 0 && (decide (kind ≠ 4 ∧ kind ≠ 5) || wbit c 1))

/-- Sends the STATUS reply on its path; on the host path it is written over the message, BUSY clears and RESULT repeats the
reply's (Table 19-6A). -/
def cicReply (s : State) (path : CicPath) (m : CicMsg) (r : CicResult) (body : List Byte) : State :=
  match path with
  | .host =>
    let h := leBytes 1 6 ++ leBytes 1 r.code ++ leBytes 1 0 ++ leBytes 1 1 ++ leBytes 4 m.token ++ leBytes 8 m.image ++
      leBytes 4 m.index ++ leBytes 4 m.fragOff ++ leBytes 4 m.fragLen ++ leBytes 4 m.plen
    emit { s with cic := { s.cic with hostBusy := false, hostResult := r.code } }
      (.busWrite 0 (regN s Reg.MGT_CIC_HADDR 0) (h ++ body) false false)
  | _ => emit s (.cicada path m.token r.code body)

/-- Cicada is there from stage MGT on (R437). -/
def cicUp (s : State) : Bool := s.pw.stby && !s.boot.dead && decide (s.boot.stage ≠ .standby ∧ s.boot.stage ≠ .rsp)

/-- Cicada can be reached on a path: the host path needs the main domain out of reset. -/
def cicPathUp (s : State) (path : CicPath) : Bool :=
  cicUp s && (decide (path ≠ .host) || (s.pw.mainOn && !s.pw.perst))

/-- Runs a command under its path's rules: REFUSED where the path does not allow it, NOT_READY while the entry scrub of
minimal mode still runs (R434). -/
def cicRun (s : State) (path : CicPath) (kind : Nat) (m : CicMsg) (f : State → State × CicResult × List Byte) : State :=
  if !cicPathUp s path then s
  else if !pathAllows s path kind then cicReply s path m .refused []
  else if (s.boot.minimal && !s.boot.scrubbed && !s.boot.romOnly) || decide (s.rsp.scrubFor ≠ 0) then cicReply s path m .notReady []
  else
    let r := f s
    cicReply r.1 path m r.2.1 r.2.2

/-- The 256-byte piece bitmap of a slot (R448). -/
def bitmap (sl : Slot) : List Byte :=
  (List.range 256).map (fun i =>
    BitVec.ofNat 8 ((List.range 8).foldl (fun n j => n + b2n (pieceOf sl (8 * i + j)).isSome * 2 ^ j) 0))

/-- The reply body of QUERY (R448). -/
def queryBody (s : State) : List Byte :=
  let one := fun sl : Slot => leBytes 1 sl.state ++ leBytes 1 sl.svn ++ leBytes 8 sl.image
  one s.flash.slot0 ++ one s.flash.slot1 ++ bitmap (slotGet s (inactiveSlot s))

/-- QUERY (R448). -/
def execCicQuery (path : CicPath) (msg : CicMsg) (s : State) : Host.Outcome State Fault Refusal :=
  .next (cicRun s path 1 msg (fun s => (s, .ok, queryBody s)))

/-- PIECE (R449 to R451). `flashOk`: the flash write and re-read succeed. -/
def execCicPiece (path : CicPath) (msg : CicMsg) (flashOk : Bool) (s : State) : Host.Outcome State Fault Refusal :=
  .next (cicRun s path 2 msg (fun s => let r := doPiece s path msg flashOk; (r.1, r.2, [])))

/-- PIECE_BUFFER_IDLE (R449): a buffer without a fragment for 10 s is released and its bytes are lost. -/
def execPieceBufferIdle (image index : Nat) (s : State) : Host.Outcome State Fault Refusal :=
  let same := fun b : PieceBuf => decide (b.image = image ∧ b.index = index)
  .next (if s.cic.buffers.any same then
    bump { s with cic := { s.cic with buffers := s.cic.buffers.filter (fun b => !same b) } } Reg.MGT_CIC_BUSY 0 else s)

/-- ABANDON (R452): erases the inactive slot unless a trial is pending. -/
def doAbandon (s : State) : State × CicResult × List Byte :=
  let k := inactiveSlot s
  let st := (slotGet s k).state
  if (bootRec s).trial = 0 ∧ (st = 1 ∨ st = 2 ∨ st = 5 ∨ st = 6) then (syncRec (slotMod s k (fun _ => {})), .ok, [])
  else (s, .notReady, [])

/-- ABANDON on a path. -/
def execCicAbandon (path : CicPath) (msg : CicMsg) (s : State) : Host.Outcome State Fault Refusal :=
  .next (cicRun s path 3 msg doAbandon)

/-- ACTIVATE (R453): a STAGED inactive slot named by its IMAGE_ID; one record write commits it and clears FAILS. -/
def doActivate (s : State) (m : CicMsg) (flashOk : Bool) : State × CicResult × List Byte :=
  let k := inactiveSlot s
  let sl := slotGet s k
  if sl.state ≠ 2 ∨ sl.image ≠ m.image then (s, .notReady, [])
  else if !(flashOk && partsPass sl) then (syncRec (slotMod s k (fun sl => { sl with state := 6 })), .flashErr, [])
  else
    let s1 := slotMod s k (fun sl => { sl with state := 3 })
    let s2 := recWrite s1 (fun r => recStates s1 { r with trial := 1, fails := 0 })
    ({ s2 with boot := { s2.boot with nowReset := s2.boot.nowReset || m.now } }, .ok, [])

/-- ACTIVATE on a path. -/
def execCicActivate (path : CicPath) (msg : CicMsg) (flashOk : Bool) (s : State) : Host.Outcome State Fault Refusal :=
  .next (cicRun s path 4 msg (fun s => doActivate s msg flashOk))

/-- ACTIVATE_RESET_TIMER (R453): 1 s after an ACTIVATE with NOW a full reset is forced, with PREV ACTIVATE. -/
def execActivateResetTimer (s : State) : Host.Outcome State Fault Refusal :=
  .next (if s.boot.nowReset then fullReset s 0x08 else s)

/-- A slot whose SVN is below the fuses becomes REJECTED (Table 19-7, R456). -/
def rejectOld (svn : Nat) (sl : Slot) : Slot :=
  if sl.state ≠ 0 ∧ sl.svn < svn then { sl with state := 5 } else sl

/-- CONFIRM (R454): within the window, once RUNNING, the trial slot becomes ACTIVE, the fused security version rises, and an
UPDATE record is written. -/
def doConfirm (s : State) : State × CicResult × List Byte :=
  if s.boot.trial ∧ s.boot.healthOpen ∧ s.boot.stage = .running ∧ s.boot.selftestOk then
    let k := s.boot.slot
    let sl := slotGet s k
    let svn := max s.fuses.svn sl.svn
    let s1 := slotMod (slotMod s k (fun x => { x with state := 4 })) (otherSlot k) (fun x => { x with state := 2 })
    let s2 := slotMod (slotMod s1 0 (rejectOld svn)) 1 (rejectOld svn)
    let s3 := recWrite s2 (fun r => recStates s2 { r with active := k, trial := 0 })
    let s4 := { s3 with fuses := { s3.fuses with svn := svn },
                        boot := { s3.boot with trial := false, healthOpen := false, confirmed := true } }
    (report s4 { cls := 0x06, sev := 0, unit := 14, w3 := w64 sl.image, w4 := w64 sl.svn }, .ok, [])
  else (s, .notReady, [])

/-- CONFIRM on a path. -/
def execCicConfirm (path : CicPath) (msg : CicMsg) (s : State) : Host.Outcome State Fault Refusal :=
  .next (cicRun s path 5 msg doConfirm)

/-- HEALTH_WINDOW_EXPIRY (R455): the watchdog forces a full reset with PREV WATCHDOG; the device then falls back (R438). -/
def execHealthWindowExpiry (s : State) : Host.Outcome State Fault Refusal :=
  .next (if s.boot.healthOpen then fullReset s 0x06 else s)

end Sys2Proof.Machine
end

