-- ==== Sys2Proof/Machine/Group.lean ====
section
/-! DEFINITION. Fields of a ring entry (Table 5-1), and the geometry of a group and of its collective (Tables 12-4, 12-5 and 12-8): what the
work queues, the verbs, the transport and Scarab all read. -/
namespace Sys2Proof.Machine

/-! ### Fields of an entry -/

/-- The little-endian field of n bytes at a byte offset of an entry. -/
def ef (e : Entry) (off n : Nat) : Nat := leAt e.bytes off n

/-- OPCODE of an entry (Table 5-1). -/
def opcode (e : Entry) : Nat := ef e 8 1

/-- Flag bit i of the command word: 8 FENCE, 9 IMM, 10 INDIRECT, 11 INLINE. -/
def flag (e : Entry) (i : Nat) : Bool := nbit (ef e 8 4) i

/-- DCTX of an entry. -/
def dctx (e : Entry) : Nat := ef e 10 2

/-- LENGTH of the command word. -/
def elen (e : Entry) : Nat := ef e 12 4

/-- Bytes of an element of a format (Table 5-6), 0 for an unknown one. -/
def fmtBytes (fmt : Nat) : Nat := match fmt with | 0 => 4 | 1 => 2 | 2 => 2 | 3 => 4 | 4 => 8 | _ => 0

/-! ### Groups (Tables 12-4 and 12-5) -/

/-- Word w of group table entry g (Table 12-4). -/
def gent (s : State) (g w : Nat) : W64 := reg s (Reg.SCB_GENTw + 8 * w) g

/-- What Scarab keeps of a group. -/
def grp (s : State) (g : Nat) : ScbGroup := tget (fun _ => {}) s.scb.groups g

/-- MLIST of a group, and record i of its member list (Table 12-5): the one Scarab keeps, else the one in memory. -/
def memberRec (s : State) (g i : Nat) : Nat :=
  match (grp s g).members with
  | some l => l.getD i 0
  | none => leNat (memBytes s (fld (gent s g 1) 47 0 + 32 * i) 32)

/-- OWNER of a group. -/
def gOwner (s : State) (g : Nat) : Nat := fld (gent s g 0) 15 8

/-- The set size of a level. -/
def gSize (s : State) (g l : Nat) : Nat :=
  match l with | 0 => fld (gent s g 0) 19 16 + 1 | 1 => fld (gent s g 0) 31 20 + 1 | _ => fld (gent s g 0) 37 32 + 1

/-- N: the members of a group. -/
def gMembers (s : State) (g : Nat) : Nat := gSize s g 0 * gSize s g 1 * gSize s g 2

/-- SELF. -/
def gSelf (s : State) (g : Nat) : Nat := fld (gent s g 0) 55 40

/-- LAND_SLOTS. -/
def gSlots (s : State) (g : Nat) : Nat := fld (gent s g 2) 11 8

/-- CLASS. -/
def gClass (s : State) (g : Nat) : Nat := fld (gent s g 2) 21 16

/-- A coordinate of a member record. -/
def recCoord (r l : Nat) : Nat := match l with | 0 => nfld r 35 32 | 1 => nfld r 47 36 | _ => nfld r 53 48

/-- The record of SELF. -/
def selfRec (s : State) (g : Nat) : Nat := memberRec s g (gSelf s g)

/-- This member's coordinate at a level. -/
def myCoord (s : State) (g l : Nat) : Nat := recCoord (selfRec s g) l

/-- This member is rank 0. -/
def rankZero (s : State) (g : Nat) : Bool := (List.range 3).all (fun l => decide (myCoord s g l = 0))

/-! ### A collective (Table 5-7, R295, R307, R310) -/

/-- The codes of a COLLECTIVE. -/
def cOp (e : Entry) : Nat := nfld (ef e 44 4) 3 0
def cFmt (e : Entry) : Nat := nfld (ef e 44 4) 7 4
def cKind (e : Entry) : Nat := nfld (ef e 44 4) 11 8
def cResid (e : Entry) : Bool := nbit (ef e 44 4) 12
def cInst (e : Entry) : Nat := ef e 56 4
def cGroup (e : Entry) : Nat := nfld (ef e 32 4) 11 0

/-- Bytes of an element of the accumulation format (R294). -/
def accBytes (fmt : Nat) : Nat := if fmt = 4 then 8 else 4

/-- The accumulation format. -/
def accFmt (fmt : Nat) : Nat := if fmt ≤ 2 then 0 else fmt

/-- E: the elements of a chunk (R295). -/
def chunkElems (kind fmt : Nat) : Nat :=
  if kind = 2 ∨ kind = 3 then 8192 / max 1 (fmtBytes fmt) else 8192 / accBytes fmt

/-- C: the chunks of the buffer. -/
def chunkCount (e : Entry) : Nat := elen e / max 1 (fmtBytes (cFmt e)) / chunkElems (cKind e) (cFmt e)

/-- The kind has an up pass; it has a down pass. -/
def hasUp (kind : Nat) : Bool := kind = 0 || kind = 1 || kind = 4
def hasDown (kind : Nat) : Bool := !(kind = 1)

/-- Narrowing takes place only for SUM on a floating-point format (R307). -/
def mayNarrow (e : Entry) : Bool := decide (cOp e = 0 ∧ cFmt e ≤ 2)

/-- The wire format of the up pass at a level (Table 12-2). -/
def upFormat (s : State) (g : Nat) (e : Entry) (l : Nat) : Nat :=
  if !mayNarrow e then accFmt (cFmt e)
  else match l with
    | 0 => 0
    | 1 => b2n (wbit (gent s g 2) 12)
    | _ => (match fld (gent s g 2) 14 13 with | 0 => 0 | 1 => 1 | 2 => 5 | _ => 6)

/-- The highest level that runs. -/
def topLevel (s : State) (g : Nat) : Option Nat := [2, 1, 0].find? (fun l => decide (1 < gSize s g l))

/-- The down format (R308): FMT for kinds that do not accumulate. -/
def downFormat (s : State) (g : Nat) (e : Entry) : Nat :=
  if cKind e = 2 ∨ cKind e = 3 then cFmt e
  else match topLevel s g with | some l => upFormat s g e l | none => accFmt (cFmt e)

/-- A format narrows. -/
def isNarrow (w : Nat) : Bool := decide (w = 1 ∨ w = 2 ∨ w = 5 ∨ w = 6)

/-- First chunk and chunks of this member's shard, piece and final piece. -/
def myPart (s : State) (g : Nat) (e : Entry) (l : Nat) : Nat × Nat :=
  let c := chunkCount e
  let n0 := c / gSize s g 0
  let n1 := n0 / gSize s g 1
  let n2 := n1 / gSize s g 2
  let b0 := myCoord s g 0 * n0
  let b1 := b0 + myCoord s g 1 * n1
  match l with | 0 => (b0, n0) | 1 => (b1, n1) | _ => (b1 + myCoord s g 2 * n2, n2)

/-- Elements of a chunk of an entry, and bytes of the chunk in FMT. -/
def eElems (e : Entry) : Nat := chunkElems (cKind e) (cFmt e)
def eBytes (e : Entry) : Nat := eElems e * fmtBytes (cFmt e)

/-- Sections of the residual buffer (R310): whether one is there, and its elements. -/
def resSection (s : State) (g : Nat) (e : Entry) (k : Nat) : Nat :=
  let n := elen e / max 1 (fmtBytes (cFmt e))
  match k with
  | 1 => if 1 < gSize s g 1 ∧ isNarrow (upFormat s g e 1) = true then n / gSize s g 0 else 0
  | 2 => if 1 < gSize s g 2 ∧ isNarrow (upFormat s g e 2) = true then n / (gSize s g 0 * gSize s g 1) else 0
  | _ => if (cKind e = 0 ∨ cKind e = 4) ∧ isNarrow (downFormat s g e) = true then n / gMembers s g else 0

/-- The place of a chunk's residuals: section k holds this member's shard, piece or final piece. -/
def resOffset (s : State) (g : Nat) (e : Entry) (k p : Nat) : Nat :=
  let before := (if k = 1 then 0 else resSection s g e 1) + (if k = 3 then resSection s g e 2 else 0)
  4 * (before + (p - (myPart s g e (k - 1)).1) * eElems e)

/-- Bytes of the whole residual buffer. -/
def resTotal (s : State) (g : Nat) (e : Entry) : Nat := 4 * (resSection s g e 1 + resSection s g e 2 + resSection s g e 3)

end Sys2Proof.Machine
end

