-- ==== Sys2Proof/Machine/Hif.lean ====
section
/-! DEFINITION. The host interface (chapter 3): the device-memory window, the bulk data ports, MSI-X unmasking. -/
namespace Sys2Proof.Machine

/-- The window size of a function in bytes: BAR2 (R48, R49). -/
def windowSize (s : State) (fn : Nat) : Nat := if fn = 0 then 2 ^ (26 + s.hif.winCode) else 2 ^ 26

/-- A context register of a window or port binds: VALID is set, the context is still the tenant's, the tenant is not sealed,
and the device is RUNNING (R51, R73, R439). -/
def bound (s : State) (fn : Nat) (w : W64) : Bool :=
  wbit w 16 && decide (ctxOwner s (fld w 15 0) = fn) && !sealed s fn && running s

/-- What an access through a context does (R50, R51): it waits for a walk, fails with a status (0: unbound), reads, or is
translated for a write. -/
inductive Access
  | need (addr : Nat)
  | unbound
  | fail (status addr : Nat)
  | ok (ps : List (Target × Nat))
deriving DecidableEq, Repr

/-- Translates an access of a function through a context register, as a DMA of that context would be (R50). -/
def access (s : State) (fn : Nat) (ctxReg : W64) (va len : Nat) (u : Use) : State × Access :=
  if !bound s fn ctxReg then (s, .unbound)
  else match xlateAll s (fld ctxReg 15 0) va len u with
    | (s1, .need a) => (s1, .need a)
    | (s1, .fail st a) => (s1, .fail st a)
    | (s1, .ok ps) => (s1, .ok ps)

/-- The async event of a failed access: TRANSLATION_FAULT for a failed translation, LOCAL_PROTECTION for a refused request or a
failed bus read (R51). -/
def accessFault (s : State) (fn : Nat) (ctxReg : W64) (st addr : Nat) : State :=
  accessEvent s fn st 0 (fld ctxReg 15 0) 0 addr

/-- The status an ownership failure or a failed bus read reports. -/
def refusedStatus : Nat := Status.localProtection

/-- A write through a context register: the state, and whether it failed. It is discarded whole when it fails. -/
def doWrite (s : State) (fn : Nat) (ctxReg : W64) (va : Nat) (bytes : List Byte) (w : Waiter) : State × Bool :=
  match access s fn ctxReg va bytes.length { wr := true } with
  | (s1, .need a) => (stall s1 (fld ctxReg 15 0) a w, false)
  | (s1, .unbound) => (s1, true)
  | (s1, .fail st a) => (accessFault s1 fn ctxReg st a, true)
  | (s1, .ok ps) =>
    if piecesOwned s1 fn ps then
      let p := writePieces s1 fn ps bytes []
      (if p.2 then p.1 else accessFault p.1 fn ctxReg refusedStatus va, !p.2)
    else (accessFault (ownFault s1 fn) fn ctxReg refusedStatus va, true)

/-- A read through a context register: the state, the data when the read is not waiting, EP, and whether it failed. -/
def doRead (s : State) (fn : Nat) (ctxReg : W64) (va len : Nat) (bus : Option (List Byte)) (w : Waiter) :
    State × Option (List Byte) × Bool × Bool :=
  let ff := List.replicate len (0xFF : Byte)
  match access s fn ctxReg va len { rd := true } with
  | (s1, .need a) => (stall s1 (fld ctxReg 15 0) a w, none, false, false)
  | (s1, .unbound) => (s1, some ff, false, true)
  | (s1, .fail st a) => (accessFault s1 fn ctxReg st a, some ff, false, true)
  | (s1, .ok ps) =>
    match readPieces s1 fn ps bus with
    | (s2, .ok d) => (s2, some d, false, false)
    | (s2, .poison d _) => (accessFault s2 fn ctxReg Status.poisoned va, some d, true, false)
    | (s2, .refused) => (accessFault s2 fn ctxReg refusedStatus va, some ff, false, true)

/-! ### Where BAR4 leads (R48, R49) -/

/-- What lies at an offset of BAR4: a data port's aperture, a queue's doorbell stride, a queue's inline slot, each with the offset in it,
or reserved space. -/
inductive Bar4
  | port (n off : Nat)
  | doorbell (q off : Nat)
  | slot (q off : Nat)
  | reserved
deriving DecidableEq, Repr

/-- The layout of BAR4 (Table 3-3 for the PF, R49 for a VF). -/
def bar4 (fn o : Nat) : Bar4 :=
  if fn = 0 then
    (if o < 0x00800000 then .port (o / 0x00100000) (o % 0x00100000)
     else if o < 0x01000000 then .doorbell ((o - 0x00800000) / 64) (o % 64)
     else if o < 0x02000000 then .slot ((o - 0x01000000) / 256) (o % 256) else .reserved)
  else
    (if o < 0x40000 then .doorbell (o / 64) (o % 64)
     else if o < 0x140000 then .slot ((o - 0x40000) / 256) (o % 256) else .reserved)

/-- The offset of a queue's inline slot in BAR4. -/
def slotAt (fn q : Nat) : Nat := if fn = 0 then 0x01000000 + q * 256 else 0x40000 + q * 256

/-- A queue number has an inline slot (R64): BAR4 holds one at its place. -/
def hasSlot (fn q : Nat) : Bool := decide (bar4 fn (slotAt fn q) = .slot q 0)

/-! ### The window -/

/-- A write through the window reaches an address of a context: both are those of its arrival. -/
def winWrite (s : State) (fn : Nat) (ctxReg : W64) (va : Nat) (bytes : List Byte) : State :=
  let p := doWrite (portsEmpty s fn) fn ctxReg va bytes (.windowWrite fn ctxReg va bytes)
  if p.2 then bumpFn p.1 Reg.HIF_WIN_FAULTS fn else p.1

/-- WINDOW_WRITE (R50 to R53, R57). -/
def execWindowWrite (fn off : Nat) (bytes : List Byte) (s : State) : Host.Outcome State Fault Refusal :=
  if !hostUp s || !fnExists s fn || decide (windowSize s fn < off + bytes.length) then .next s
  else .next (winWrite s fn (reg s Reg.HIF_WIN_CTX fn) (regN s Reg.HIF_WIN_BASE fn + off) bytes)

/-- A read through the window reaches an address of a context: both are those of its arrival. -/
def winRead (s : State) (fn : Nat) (ctxReg : W64) (va len : Nat) (bus : Option (List Byte)) : State :=
  let p := doRead s fn ctxReg va len bus (.windowRead fn ctxReg va len bus)
  let s1 := if p.2.2.2 then bumpFn p.1 Reg.HIF_WIN_FAULTS fn else p.1
  match p.2.1 with
  | none => s1
  | some d => emit s1 (.readData fn d p.2.2.1)

/-- WINDOW_READ (R50, R51): memory, all 0xFF on a failure, or a poisoned completion. `bus`: what the host or peer bus returns,
none when it fails (R494). -/
def execWindowRead (fn off len : Nat) (bus : Option (List Byte)) (s : State) : Host.Outcome State Fault Refusal :=
  if !hostUp s || !fnExists s fn || decide (windowSize s fn < off + len) then .next s
  else .next (winRead s fn (reg s Reg.HIF_WIN_CTX fn) (regN s Reg.HIF_WIN_BASE fn + off) len bus)

/-- WIN_CTX_WRITE (R51): only a context of the function's own tenant is accepted. -/
def execWinCtxWrite (fn : Nat) (value : W64) (s : State) : Host.Outcome State Fault Refusal :=
  let s := dropHeld s fn
  if !hostUp s || !fnExists s fn then .next s
  else if ctxOwner s (fld value 15 0) = fn then
    .next (setReg (fnMod s fn (fun F => { F with badCtx := false })) Reg.HIF_WIN_CTX fn (w64 (fld value 16 0)))
  else .next (fnMod s fn (fun F => { F with badCtx := true }))

/-! ### Data ports (R54 to R57) -/

/-- The aperture of a port. -/
def aperture : Nat := 2 ^ 20

/-- A write through a data port reaches an address of a context: both are those of its arrival. -/
def portWriteAt (s : State) (port : Nat) (ctxReg : W64) (va : Nat) (bytes : List Byte) : State :=
  let p := doWrite (portEmpty s port) 0 ctxReg va bytes (.portWrite port ctxReg va bytes)
  if p.2 then portMod p.1 port (fun P => { P with fault := true }) else p.1

/-- DATA_PORT_WRITE (R54, R57). -/
def execDataPortWrite (port off : Nat) (bytes : List Byte) (s : State) : Host.Outcome State Fault Refusal :=
  if !hostUp s || decide (8 ≤ port) || decide (aperture < off + bytes.length) then .next s
  else .next (portWriteAt s port (reg s Reg.HIF_DPn_CTX port) (regN s Reg.HIF_DPn_ADDR port + off) bytes)

/-- The bytes of a range, when every one is in the prefetch buffer. -/
def prefetched (P : Port) (off : Nat) : Nat → Option (List Byte)
  | 0 => some []
  | n + 1 =>
    match P.prefetch.find? (fun c => c.1 = off) with
    | none => none
    | some c => (prefetched P (off + 1) n).map (fun r => c.2 :: r)

/-- After a read, the port fetches up to 8 KiB beyond the highest offset read, never past the aperture (R57). -/
def prefetchMore (s : State) (n top : Nat) : State :=
  let P := port s n
  let hi := max P.highest top
  let want := min (hi + 8192) aperture
  let lo := max P.fetched hi
  let s1 := portMod s n (fun P => { P with highest := hi, fetched := max lo want,
                                           prefetch := P.prefetch.filter (fun c => decide (hi ≤ c.1)) })
  if lo < want then emit s1 (.busRead 0 (.portPrefetch n) lo (want - lo)) else s1

/-- A read through a context register goes on to memory: it is bound and translated (R57, Table 3-9). -/
def reachesMemory (s : State) (fn : Nat) (ctxReg : W64) (va len : Nat) : Bool :=
  match (access s fn ctxReg va len { rd := true }).2 with
  | .ok _ => true
  | _ => false

/-- A read through a data port that the prefetch buffer does not serve: at an address of a context, as they were at its arrival. -/
def portReadAt (s : State) (port : Nat) (ctxReg : W64) (va off len : Nat) (bus : Option (List Byte)) : State :=
  let p := doRead s 0 ctxReg va len bus (.portRead port ctxReg va off len bus)
  match p.2.1 with
  | none => p.1
  | some d =>
    let s1 := portMod p.1 port (fun P =>
      { P with pfMiss := (P.pfMiss + b2n (reachesMemory s 0 ctxReg va len)) % 65536, fault := P.fault || p.2.2.2 })
    emit (if p.2.2.2 then s1 else prefetchMore s1 port (off + len)) (.readData 0 d p.2.2.1)

/-- What a read of BAR4 returns where it reaches no data port: the doorbell and inline regions and the reserved space read as zero (R48). -/
def bar4Read (fn o len : Nat) : Option (List Byte) :=
  match bar4 fn o with
  | .port _ _ => none
  | _ => some (List.replicate len 0)

/-- DATA_PORT_READ (R54, R57): served from the prefetch buffer, or from memory with PF_MISS counted. -/
def execDataPortRead (port off len : Nat) (bus : Option (List Byte)) (s : State) : Host.Outcome State Fault Refusal :=
  if !hostUp s || decide (8 ≤ port) || decide (aperture < off + len) then .next s
  else
    let c := reg s Reg.HIF_DPn_CTX port
    match (if bound s 0 c then prefetched (Machine.port s port) off len else none) with
    | some d => .next (emit (prefetchMore s port (off + len)) (.readData 0 d false))
    | none => .next (portReadAt s port c (regN s Reg.HIF_DPn_ADDR port + off) off len bus)

/-- PREFETCH_FILL (R57): prefetched data returns from memory; a fill of an emptied buffer, and one that fails or is poisoned, is
not kept. -/
def execPrefetchFill (port epoch off len : Nat) (bus : Option (List Byte)) (s : State) : Host.Outcome State Fault Refusal :=
  let c := reg s Reg.HIF_DPn_CTX port
  let P := Machine.port s port
  if decide (P.epoch ≠ epoch) || !bound s 0 c || decide (P.fetched < off + len) then .next s
  else match xlateAll s (fld c 15 0) (regN s Reg.HIF_DPn_ADDR port + off) len { rd := true } with
    | (s1, .ok ps) =>
      (match readPieces s1 0 ps bus with
       | (s2, .ok d) =>
         let cells := (List.range d.length).map (fun i => (off + i, d.getD i 0))
         .next (portMod s2 port (fun P => { P with
           prefetch := P.prefetch.filter (fun c => !decide (off ≤ c.1 ∧ c.1 < off + len)) ++ cells }))
       | (s2, _) => .next s2)
    | (s1, _) => .next s1

/-- DATA_PORT_CTX_WRITE (R54): only a context of tenant 0, the PF's. -/
def execDataPortCtxWrite (port : Nat) (value : W64) (s : State) : Host.Outcome State Fault Refusal :=
  let s := dropHeld s 0
  if !hostUp s || decide (8 ≤ port) then .next s
  else
    let s1 := portEmpty s port
    if ctxOwner s (fld value 15 0) = 0 then .next (setReg s1 Reg.HIF_DPn_CTX port (w64 (fld value 16 0)))
    else .next (portMod s1 port (fun P => { P with badCtx := true }))

/-- DATA_PORT_COMMIT (R55): adds L to HIF_DPn_ADDR; a length that is no multiple of 64 from 64 to 1,048,576 is refused. -/
def execDataPortCommit (port : Nat) (value : W64) (s : State) : Host.Outcome State Fault Refusal :=
  let s := dropHeld s 0
  if !hostUp s || decide (8 ≤ port) then .next s
  else
    let s1 := portEmpty s port
    let l := fld value 20 0
    if 64 ≤ l ∧ l ≤ 1048576 ∧ l % 64 = 0 then
      .next (setReg s1 Reg.HIF_DPn_ADDR port (reg s Reg.HIF_DPn_ADDR port + w64 l))
    else .next (portMod s1 port (fun P => { P with badCommit := true }))

/-- MSIX_UNMASK (R65): unmasking a vector with its pending bit set sends its message. -/
def execMsixUnmask (fn vec : Nat) (s : State) : Host.Outcome State Fault Refusal :=
  if !hostUp s || !fnExists s fn || decide ((if fn = 0 then s.hif.pfVec else s.hif.vfVec) ≤ vec) then .next s
  else
    let p := (vector s fn vec).pending
    let s1 := vectorMod s fn vec (fun V => { V with masked := false, pending := false })
    .next (if p then sendVec s1 fn vec else s1)

/-- HIF_CAP (Table 3-10): in minimal mode TILES, EMAC_PORTS and FAB_LINKS read 0 (R442). -/
def hifCap (s : State) : Nat :=
  let v := s.variant
  let m := s.boot.minimal
  (if m then 0 else tileCount v) + hbmStacks v * 2 ^ 8 + b2n (decide (0 < lpddrPkgs v)) * 2 ^ 12 +
  lpddrPkgs v * 2 ^ 13 + (if m then 0 else 3) * 2 ^ 20 + 2 ^ 22 + 32 * 2 ^ 23 + (if m then 0 else 12) * 2 ^ 32 +
  32 * 2 ^ 40 + 252 * 2 ^ 48

/-- HIF_FN_STAT of a function (Table 3-8). -/
def fnStat (s : State) (fn : Nat) : Nat :=
  b2n (decide ((fnGet s fn).abi ≠ 0)) + b2n (sealed s fn) * 2 + b2n (fnGet s fn).teardown * 4 + b2n s.boot.minimal * 8 +
  b2n (fnGet s fn).badCtx * 16

end Sys2Proof.Machine
end

