-- ==== Sys2Proof/Machine/Wqm.lean ====
section
/-! DEFINITION. The work queue manager (chapter 4): queue contexts, doorbells and inline commands, fetch and re-fetch,
completion, head publication, interrupts, the queue states. -/
namespace Sys2Proof.Machine

/-! ### Queues and entries -/

/-- A queue context. -/
def queue (s : State) (q : Nat) : QueueC := tget (fun _ => {}) s.queues q

/-- Rewrites a queue context. -/
def queueMod (s : State) (q : Nat) (f : QueueC → QueueC) : State :=
  { s with queues := tmod (fun _ => {}) s.queues q f }

/-- The tenant of a queue context, and the function it belongs to (R75, R46). -/
def queueOwner (s : State) (q : Nat) : Nat := owner s 0x02 q

/-- The queue context that a function's queue number names, if it is granted (R75). -/
def queueOf (s : State) (fn n : Nat) : Option Nat :=
  if fn = 0 then (if n < 131072 ∧ queueOwner s n = 0 then some n else none)
  else if 4096 ≤ n then none
  else (s.qlocal.find? (fun e => e.2 = n + 1 ∧ queueOwner s e.1 = fn)).map (·.1)

/-- The function-local number of a queue context. -/
def queueLocal (s : State) (q : Nat) : Nat :=
  if queueOwner s q = 0 then q else tget (fun _ => 0) s.qlocal q - 1

/-- LOG2_SIZE as a size in entries. -/
def ringSize (Q : QueueC) : Nat := 2 ^ fld Q.ring 4 0

/-- PREFETCH; larger values act as 16 (Table 4-8). -/
def prefetchOf (Q : QueueC) : Nat := min 16 (nfld Q.ctl 8 4)

/-- INFLIGHT: 0 acts as 1, larger values as 256 (Table 4-8). -/
def inflightCap (Q : QueueC) : Nat := min 256 (max 1 (nfld Q.ctl 17 9))

/-- BIND_TYPE. -/
def bindType (Q : QueueC) : Nat := nfld Q.bind 21 20

/-- BIND_ID: a QP number, or a shared endpoint in [11:0] (Table 4-7). -/
def bindId (Q : QueueC) : Nat := if bindType Q = 2 then nfld Q.bind 11 0 else nfld Q.bind 19 0

/-- KIND is receive. -/
def isRecvQ (Q : QueueC) : Bool := nbit Q.bind 22

/-- The context address of a ring index (R78). -/
def ringAddr (Q : QueueC) (idx : Nat) : Nat := fld Q.ring 63 12 * 4096 + 64 * (idx % ringSize Q)

/-- An entry of a queue by its index. -/
def entry (s : State) (q idx : Nat) : Option Entry := (queue s q).entries.find? (fun e => e.idx = idx)

/-- Rewrites an entry. -/
def entryMod (s : State) (q idx : Nat) (f : Entry → Entry) : State :=
  queueMod s q (fun Q => { Q with entries := mapIf (fun e => e.idx = idx) f Q.entries })

/-- A FENCE verb of SCOPE 0 (R126). -/
def isFence0 (e : Entry) : Bool := decide (opcode e = 0x21) && !nbit (ef e 44 4) 0

/-- The async event of a queue (R477, Table 21-2): class ACCESS, unit WQM. -/
def queueEvent (s : State) (q status : Nat) : State :=
  accessEvent s (queueOwner s q) status 1 (queue s q).qctx (queueLocal s q) 0

/-! ### Completion of an entry's effect -/

/-- The effect of an entry is complete with a status; LENGTH is 0 on any status but OK (Table 4-2). A GCM tag that failed on the way has
left AUTH_FAIL_DATA_WRITTEN in the entry (R404, R411). -/
def entryDone (s : State) (q idx st len frag : Nat) : State :=
  match entry s q idx with
  | none => s
  | some e =>
    if 2 ≤ e.phase then s
    else
      let status := if st = Status.ok then e.status else st
      let s1 := entryMod s q idx (fun e => { e with
        phase := 2, status := status, frag := frag, len := if status = 0 then len else 0, running := false })
      if status = Status.badDescriptor then bump s1 Reg.WQM_BAD_DESC (queueOwner s q) else s1

/-- Finishes every REVOKE that waits on a region (R159). -/
def finishAll (s : State) (l : List (Nat × Nat)) : State := l.foldl (fun s w => entryDone s w.1 w.2 Status.ok 0 0) s

/-- An access to a region ends: ADMITTED falls, and a REVOKING region at 0 becomes FREE (R156, R159);
heads that wait for a region-cache entry try again (R158). -/
def accessEnd (s : State) (i : Nat) : State :=
  let s0 := regionMod s i (fun R => { R with admitted := R.admitted - 1 })
  let R := region s0 i
  let again := s0.atu.regionWait.map .packet ++ s0.atu.fragWait.map (fun e => .fragTable e.1 e.2)
  let s1 := if R.admitted = 0 then
      { s0 with atu := { s0.atu with regionWait := [], fragWait := [], ready := s0.atu.ready ++ again } } else s0
  if R.state = 2 ∧ R.admitted = 0 then
    finishAll (regionMod s1 i (fun R => { R with state := 0, waiting := [] })) R.waiting
  else s1

/-- Ends the local uses of regions by an entry (R157). -/
def releaseHeldRegions (s : State) (l : List Nat) : State := l.foldl accessEnd s

/-! ### Pool and fetch (R85 to R88) -/

/-- Fetch slots that a queue holds: entries fetched and not finished, those held, being read, or waiting for a re-fetch. An entry that was
discarded unowned keeps its slot, against INFLIGHT and the pool, until it has been fetched again: the spec does not say whether it does
(DESIGN CHOICE, log 48). -/
def slotsOf (Q : QueueC) : Nat :=
  (Q.entries.filter (fun e => !e.inl && decide (e.bytes ≠ [] ∧ e.phase < 3))).length + Q.spec.length +
  (Q.reads.map (·.count)).foldl (· + ·) 0 +
  (Q.refetch.filter (fun r => !Q.reads.any (fun x => x.idx = r.idx))).length

/-- Shared pool slots in use: what every queue holds beyond its reserved slot (Table 4-5). -/
def poolUsed (s : State) : Nat := s.queues.foldl (fun n e => n + (slotsOf e.2 - 1)) 0

/-- Pool slots that a queue may still take. -/
def poolRoom (s : State) (Q : QueueC) : Nat := (if slotsOf Q = 0 then 1 else 0) + (65536 - poolUsed s)

/-- The queue already has this index: as an entry, held, being read, or waiting for a re-fetch. -/
def known (Q : QueueC) (i : Nat) : Bool :=
  Q.entries.any (fun e => e.idx = i) || Q.spec.any (fun e => e.idx = i) || Q.refetch.any (fun r => r.idx = i) ||
  Q.reads.any (fun r => decide (r.idx ≤ i ∧ i < r.idx + r.count))

/-- The end of fetching: TAIL + PREFETCH, and never beyond HEAD + ring size (R85); in DRAINING nothing is fetched beyond TAIL. -/
def fetchEnd (Q : QueueC) : Nat :=
  let e := min (Q.tail + (if Q.st = 1 then prefetchOf Q else 0)) (Q.hd + ringSize Q)
  match Q.specStop with | some k => min e k | none => e

/-- Unknown indices in a row from i, at most n. -/
def runLen (Q : QueueC) (i : Nat) : Nat → Nat
  | 0 => 0
  | n + 1 => if known Q i then 0 else 1 + runLen Q (i + 1) n

/-- The slot of a queue that leaves ACTIVE: HIF clears its mask, and what was held is discarded (R58, R87). -/
def leaveActive (Q : QueueC) : QueueC := { Q with slot := [], spec := [], specStop := none, db := none }

/-- An entry for a ring index that was never fetched, complete with FLUSHED. -/
def flushedEntry (i : Nat) : Entry := { idx := i, bytes := [], phase := 2, status := Status.flushed }

/-- Entries not yet started complete with FLUSHED, fetched or not (Table 4-4). A RECV entry that is posted counts as started, although no
message has taken it: the spec does not say (DESIGN CHOICE, log 48). -/
def flushEntries (s : State) (q : Nat) : State :=
  queueMod s q (fun Q =>
    let es := mapIf (fun e => e.phase = 0) (fun e => { e with phase := 2, status := Status.flushed }) Q.entries
    let new := ((List.range (Q.tail - Q.hd)).map (· + Q.hd)).filter (fun i => !es.any (fun e => e.idx = i))
    { Q with entries := es ++ new.map flushedEntry, refetch := [], spec := [], fetch := max Q.fetch Q.tail })

/-- QUEUE_ERROR (R98, Table 4-4): an ACTIVE or DRAINING queue enters ERROR with an async event, and entries not yet started
complete with FLUSHED. An inline command that still waits for ring space (R90) has no index: it is dropped without a completion here, and a
FLUSH in DRAINING leaves it waiting; the spec says neither (DESIGN CHOICE, log 48). -/
def queueError (s : State) (q status : Nat) : State :=
  if (queue s q).st = 1 ∨ (queue s q).st = 2 then
    flushEntries (queueEvent (queueMod s q (fun Q => { leaveActive Q with st := 3, inlineWait := none })) q status) q
  else s

/-- QUEUE_DRAINED (R96): the last state change of Table 4-4 to DISABLED. ERROR is left only for an ENABLE written 0 in it, so a queue that
came there from DRAINING needs a second write of 0 (DESIGN CHOICE, log 48: the table does not say whether the first one counts). -/
def settle (s : State) (q : Nat) : State :=
  let Q := queue s q
  let drained := decide (Q.st = 2 ∧ Q.hd = Q.tail ∧ Q.published = Q.hd) && !Q.headBusy && Q.inlineWait.isNone
  let ended := decide (Q.st = 3) && Q.disableReq && !Q.headBusy && Q.entries.all (fun e => decide (3 ≤ e.phase))
  if drained || ended then
    queueMod s q (fun Q => { Q with st := 0, entries := [], refetch := [], spec := [], disableReq := false, finishedAt := [] })
  else s

/-- Issues one ring read (R85): translated in WQM_QCTX.CTX; a failure puts the queue in ERROR (Table 4-4). -/
def ringRead (s : State) (q i n : Nat) : State :=
  let Q := queue s q
  let old := ((Q.reads.find? (fun r => r.idx = i)).map (·.claimed)).getD []
  let put := fun (s : State) (x : Issued) => queueMod s q (fun Q =>
    { Q with reads := Q.reads.filter (fun r => r.idx ≠ i) ++ [⟨i, n, x, old⟩] })
  match issueRead s (queueOwner s q) Q.qctx (ringAddr Q i) (64 * n) i (.ringRead q i) with
  | (s1, .ok x) => put s1 x
  | (s1, .need a) => stall (put s1 {}) Q.qctx a (.ringRead q i n)
  | (s1, .fail st) => queueError s1 q st

/-- FETCH_ROUND (R85): reads of up to 8 entries that never cross the ring's end, while INFLIGHT and the pool allow. -/
def fetchLoop (s : State) (q : Nat) : Nat → State
  | 0 => s
  | n + 1 =>
    let Q := queue s q
    if fetchEnd Q ≤ Q.fetch ∨ (Q.st ≠ 1 ∧ Q.st ≠ 2) then s
    else if known Q Q.fetch then fetchLoop (queueMod s q (fun Q => { Q with fetch := Q.fetch + 1 })) q n
    else
      let want := min (min 8 (fetchEnd Q - Q.fetch)) (ringSize Q - Q.fetch % ringSize Q)
      let cap := min want (inflightCap Q - slotsOf Q)
      let k := runLen Q Q.fetch (min cap (poolRoom s Q))
      if k = 0 then
        if cap = 0 then s else bump s Reg.WQM_POOL_STALL (queueOwner s q)
      else fetchLoop (queueMod (ringRead s q Q.fetch k) q (fun Q => { Q with fetch := max Q.fetch (Q.fetch + k) })) q n

/-- A fetch round. -/
def fetchRound (s : State) (q : Nat) : State := fetchLoop s q (2 * ringSize (queue s q) + 32)

/-! ### Pre-translation (R145) -/

/-- The local ranges of a COLLECTIVE that its KIND and this member's part in it use (Table 12-8), and the residual buffer where RESID is set
(R310). A broadcast reads SRC, and a reduce writes DST, at rank 0 only. -/
def collectiveRanges (s : State) (e : Entry) : List (Nat × Nat × Use) :=
  let g := cGroup e
  let n := elen e
  let part := n / max 1 (gMembers s g)
  let rd : Use := { rd := true, fabric := true }
  let wr : Use := { wr := true, fabric := true }
  let src := fun k : Nat => [(ef e 16 8, k, rd)]
  let dst := fun k : Nat => [(ef e 24 8, k, wr)]
  (match cKind e with
   | 1 => src n ++ dst part
   | 2 => src part ++ dst n
   | 3 => (if rankZero s g then src n else []) ++ dst n
   | 4 => src n ++ (if rankZero s g then dst n else [])
   | _ => src n ++ dst n) ++
  (if cResid e then [(ef e 48 8, resTotal s g e, { rd := true, wr := true, fabric := true })] else [])

/-- The local ranges of an entry in DCTX, each with its use. An indirect entry has its fragment table. -/
def localRanges (s : State) (e : Entry) : List (Nat × Nat × Use) :=
  let a := ef e 16 8
  let n := elen e
  let rd : Use := { rd := true }
  let wr : Use := { wr := true }
  let direct := fun (u : Use) => if flag e 10 then [(a, 16 * n, rd)] else if flag e 11 then [] else [(a, n, u)]
  match opcode e with
  | 0x01 => direct rd
  | 0x02 => direct wr
  | 0x03 => direct rd
  | 0x04 => [(a, 8, wr)]
  | 0x05 => direct rd
  | 0x06 => [(a, 4 * ef e 56 8, rd), (ef e 48 8, n, wr)]
  | 0x07 => direct rd ++ [(ef e 48 8, nfld (ef e 44 4) 24 0, wr)]
  | 0x10 => collectiveRanges s e
  | 0x11 =>
    let gcm := decide (nfld (ef e 44 4) 1 0 = 3)
    [(a, n, rd), (ef e 24 8, n, wr), (ef e 48 8, 16, { rd := true, wr := !gcm })] ++
    (if gcm then [(ef e 56 8, 16, if nbit (ef e 44 4) 2 then rd else wr)] else [])
  | 0x30 => direct wr
  | _ => []

/-- Translates the first 64 KiB of each range and says whether all of them could be; a table word that is still on its way in host memory is
asked for, and the range counts as not translated. -/
def preRanges (s : State) (t c : Nat) : List (Nat × Nat × Use) → State × Bool
  | [] => (s, true)
  | (a, n, u) :: r =>
    if n = 0 then preRanges s t c r
    else match dmaXlate s t c a (min n 65536) u with
      | (s1, .ok _) => preRanges s1 t c r
      | (s1, .need w) => let p := preRanges (stall s1 c w .tableRead) t c r; (p.1, false)
      | (s1, .fail _ _) => let p := preRanges s1 t c r; (p.1, false)

/-- PRE_TRANSLATION (R88, R145): as an entry is fetched, DCTX is checked, the first 64 KiB of each range is translated, and the epoch is
stamped; a failure only makes the stamp stale. -/
def preTranslate (s : State) (q : Nat) (e : Entry) : State × Entry :=
  let t := queueOwner s q
  if ctxOwner s (dctx e) ≠ t then (s, { e with epoch := (ctx s (dctx e)).epoch.toNat, stale := true })
  else
    let p := preRanges s t (dctx e) (localRanges s e)
    (p.1, { e with epoch := (ctx s (dctx e)).epoch.toNat, stale := !p.2 })

/-- An entry that has been fetched and pre-translated becomes work. -/
def addWork (s : State) (q : Nat) (e : Entry) : State := queueMod s q (fun Q => { Q with entries := Q.entries ++ [e] })

/-! ### Doorbells and inline commands (R58 to R64, R79, R87, R89, R90) -/

/-- A queue takes doorbells and inline writes: it exists and is ACTIVE, its function has an ABI and no teardown (R58). -/
def queueTakes (s : State) (fn : Nat) (q : Option Nat) : Bool :=
  match q with
  | none => false
  | some c => decide ((queue s c).st = 1) && decide ((fnGet s fn).abi ≠ 0) && !(fnGet s fn).teardown

/-- A pending doorbell is taken (R79): accepted or dropped by the two differences, then held entries it covers become work, a
re-fetch that gave up starts afresh, and a fetch round begins. -/
def takeDoorbell (s : State) (q : Nat) : State :=
  match (queue s q).db with
  | none => s
  | some d =>
    let s0 := { queueMod s q (fun Q => { Q with db := none }) with
      hif := { s.hif with arrivals := s.hif.arrivals.filter (· ≠ q) } }
    let Q := queue s0 q
    let adv := (d + 2 ^ 32 - Q.tail % 2 ^ 32) % 2 ^ 32
    let ahead := (d + 2 ^ 32 - Q.hd % 2 ^ 32) % 2 ^ 32
    if 2 ^ 31 ≤ adv ∨ ringSize Q < ahead then
      queueEvent (bump s0 Reg.WQM_DB_BAD (queueOwner s0 q)) q Status.badDescriptor
    else
      let tail := Q.tail + adv
      let ready := Q.spec.filter (fun e => decide (e.idx < tail))
      let again := Q.refetch.filter (fun r => decide (8 ≤ r.tries))
      let s1 := queueMod s0 q (fun Q => { Q with
        tail := tail, specStop := none, spec := Q.spec.filter (fun e => decide (tail ≤ e.idx)),
        refetch := mapIf (fun r => decide (8 ≤ r.tries)) (fun r => { r with tries := 0 }) Q.refetch })
      let s2 := ready.foldl (fun s e => addWork s q e) s1
      fetchRound (again.foldl (fun s r => ringRead s q r.idx 1) s2) q

/-- A window or data-port write of a function waits for a host-table word: it is not visible at the memory controller yet (R69). -/
def writesBehind (s : State) (fn : Nat) : Bool :=
  (s.atu.stalled.map (·.cmd) ++ s.atu.ready).any (fun w => match w with
    | .windowWrite f _ _ _ => decide (f = fn)
    | .portWrite _ _ _ _ => decide (fn = 0)
    | _ => false)

/-- The queue whose doorbell WQM takes next: the first to arrive (R59), but for one behind a waiting inline command, which comes first
(R63), or behind a write of its function that is not visible yet (R69). A merged doorbell keeps the place of the first of those it stands for (DESIGN CHOICE, log 48). -/
def nextDoorbell (s : State) : Option Nat :=
  s.hif.arrivals.find? (fun c => (queue s c).db.isSome && (queue s c).inlineWait.isNone && !writesBehind s (queueOwner s c))

/-- The doorbells that arrived up to that of a queue, its own included, are taken in their order (R59, R63). -/
def takeThrough (s : State) (q : Nat) : Nat → State
  | 0 => s
  | n + 1 =>
    if (queue s q).db.isNone then s
    else match nextDoorbell s with
      | some c => if c = q then takeDoorbell s q else takeThrough (takeDoorbell s c) q n
      | none => takeDoorbell s q

/-- An inline command claims the ring index equal to TAIL (R89); a speculative entry there, held or being read, is discarded (R87), and the
fetch pointer passes the index. -/
def claimInline (s : State) (q : Nat) (slot : List Byte) : State :=
  let Q := queue s q
  let i := Q.tail
  let e : Entry := { idx := i, bytes := leBytes 8 1 ++ slot.take 56, inl := true, payload := (slot.drop 56).take 192 }
  let s1 := if Q.spec.any (fun e => e.idx = i) then bump s Reg.WQM_SPEC_DISCARD (queueOwner s q) else s
  let s2 := queueMod s1 q (fun Q => { Q with
    tail := i + 1, spec := Q.spec.filter (fun e => e.idx ≠ i), fetch := if Q.fetch = i then i + 1 else Q.fetch,
    reads := mapIf (fun r => decide (r.idx ≤ i ∧ i < r.idx + r.count)) (fun r => { r with claimed := i :: r.claimed }) Q.reads })
  let p := preTranslate s2 q e
  addWork p.1 q p.2

/-- INLINE_ACCEPT (R61, R69, R89, R90): HIF copies the slot, once the function's earlier writes are visible; earlier doorbells come first
(R63); on a full ring the command waits. Where a ring
read of those doorbells fails at once, the queue is in ERROR, and the command is an entry not yet started (R98). -/
def acceptInline (s : State) (q : Nat) : State :=
  let Q := queue s q
  let bytes := Q.slot.map (fun b => b.2.getD 0)
  if Q.slot.length = 256 ∧ (bytes.getD 248 0).toNat = Q.seq ∧ Q.inlineWait = none ∧ writesBehind s (queueOwner s q) = false then
    let s1 := takeThrough (queueMod s q (fun Q => { Q with
      slot := [], seq := if Q.seq = 255 then 1 else Q.seq + 1 })) q (s.hif.arrivals.length + 1)
    let Q1 := queue s1 q
    if Q1.st = 3 then flushEntries (claimInline s1 q bytes) q
    else if ringSize Q1 ≤ Q1.tail - Q1.hd then queueMod s1 q (fun Q => { Q with inlineWait := some bytes })
    else claimInline s1 q bytes
  else s

/-- The inline slots of a function that waited for its writes are accepted (R69). -/
def acceptAll (s : State) (fn : Nat) : State :=
  (s.queues.filter (fun Q => decide (Q.2.slot.length = 256 ∧ queueOwner s Q.1 = fn))).foldl (fun s Q => acceptInline s Q.1) s

/-- DOORBELL (R58, R59, R62): a write of `len` bytes at an offset of the queue's 64-byte stride. -/
def execDoorbell (fn q off len : Nat) (value : W64) (s : State) : Host.Outcome State Fault Refusal :=
  if !hostUp s || !fnExists s fn || decide (off ≠ 0) || !(decide (len = 4) || decide (len = 8)) then .next s
  else
    match queueOf s fn q with
    | none => .next (bumpFn s Reg.HIF_DB_IGNORED fn)
    | some c =>
      if !queueTakes s fn (some c) then .next (bumpFn s Reg.HIF_DB_IGNORED fn)
      else
        let s1 := if (queue s c).slot = [] then s
          else bumpFn (queueMod s c (fun Q => { Q with slot := [] })) Reg.HIF_INL_DISCARD fn
        let s2 := queueMod s1 c (fun Q => { Q with db := some (fld value 31 0) })
        .next { s2 with hif := { s2.hif with arrivals := s2.hif.arrivals.filter (fun x => decide (x ≠ c) || (queue s c).db.isSome) ++
          (if (queue s c).db.isSome && s2.hif.arrivals.contains c then [] else [c]) } }

/-- Marks the bytes of a write to an inline slot. -/
def markSlot (slot : Tbl (Option Byte)) (off : Nat) : List Byte → Tbl (Option Byte)
  | [] => slot
  | b :: r => markSlot (if off < 256 then tset (fun _ => none) slot off (some b) else slot) (off + 1) r

/-- INLINE_SLOT_WRITE (R58, R61, R64). -/
def execInlineSlotWrite (fn q off : Nat) (bytes : List Byte) (s : State) : Host.Outcome State Fault Refusal :=
  if !hostUp s || !fnExists s fn || !hasSlot fn q then .next s
  else
    match queueOf s fn q with
    | none => .next (bumpFn s Reg.HIF_INL_DISCARD fn)
    | some c =>
      if !queueTakes s fn (some c) then .next (bumpFn s Reg.HIF_INL_DISCARD fn)
      else .next (acceptInline (queueMod s c (fun Q => { Q with slot := markSlot Q.slot off bytes })) c)

/-- INLINE_WAIT_RELEASE (R90): once HEAD has advanced, the waiting command claims its index, and HIF lets go of the slot. -/
def execInlineWaitRelease (q : Nat) (s : State) : Host.Outcome State Fault Refusal :=
  let Q := queue s q
  match Q.inlineWait with
  | none => .next s
  | some b =>
    if ringSize Q ≤ Q.tail - Q.hd then .next s
    else .next (acceptInline (claimInline (queueMod s q (fun Q => { Q with inlineWait := none })) q b) q)

/-- WQM_DOORBELL_TAKE (R59, R63, R79, R85 to R87): WQM takes a doorbell when it is the next in order. -/
def execWqmDoorbellTake (q : Nat) (s : State) : Host.Outcome State Fault Refusal :=
  if (queue s q).st = 1 ∧ nextDoorbell s = some q then .next (takeDoorbell s q) else .next s

/-! ### Ring reads return (R86, R87) -/

/-- In DRAINING, the entry at an index stayed unowned: TAIL is set to it, and what lies behind is dropped (Table 4-4). -/
def cutTail (s : State) (q i : Nat) : State :=
  settle (queueMod s q (fun Q => { Q with
    tail := i, fetch := min Q.fetch i, entries := Q.entries.filter (fun e => decide (e.idx < i)),
    refetch := Q.refetch.filter (fun r => decide (r.idx < i)) })) q

/-- An entry below TAIL came back unowned (R86): discarded, counted, fetched again up to eight fetches. -/
def unowned (s : State) (q i : Nat) : State :=
  let s1 := bump s Reg.WQM_REFETCH (queueOwner s q)
  let n := match (queue s q).refetch.find? (fun r => r.idx = i) with | some r => r.tries + 1 | none => 1
  let s2 := queueMod s1 q (fun Q => { Q with refetch := Q.refetch.filter (fun r => r.idx ≠ i) ++ [⟨i, n⟩] })
  if n < 8 then s2
  else
    let s3 := bump s2 Reg.WQM_REFETCH_GIVEUP (queueOwner s q)
    if (queue s3 q).st = 2 then cutTail s3 q i else s3

/-- One entry of a returned ring read (R86 to R88). One whose index an inline command has claimed meanwhile is discarded and counted (R87);
one that a flush has completed is only discarded. -/
def takeFetched (s : State) (q : Nat) (claimed : List Nat) (i : Nat) (b : List Byte) : State :=
  let Q := queue s q
  let own := nbit (leAt b 0 1) 0
  if claimed.contains i then bump s Reg.WQM_SPEC_DISCARD (queueOwner s q)
  else if Q.entries.any (fun e => e.idx = i) ∨ i < Q.hd then s
  else if i < Q.tail then
    if own then
      let p := preTranslate s q { idx := i, bytes := b }
      addWork (queueMod p.1 q (fun Q => { Q with refetch := Q.refetch.filter (fun r => r.idx ≠ i) })) q p.2
    else unowned s q i
  else if own && decide (Q.st = 1) then
    let p := preTranslate s q { idx := i, bytes := b }
    queueMod p.1 q (fun Q => { Q with spec := Q.spec ++ [p.2] })
  else queueMod s q (fun Q => { Q with
    fetch := min Q.fetch i, specStop := some (match Q.specStop with | some k => min k i | none => i) })

/-- Every entry of a returned ring read, in index order. -/
def takeAll (s : State) (q : Nat) (claimed : List Nat) (i : Nat) (b : List Byte) : Nat → State
  | 0 => s
  | n + 1 => takeAll (takeFetched s q claimed i (b.take 64)) q claimed (i + 1) (b.drop 64) n

/-- RING_READ_COMPLETE (R86, R87, R98, R494): `idx` names the read by its first index; `bus` is what the bus returned, none when it
failed. -/
def execRingReadComplete (q idx : Nat) (bus : Option (List Byte)) (s : State) : Host.Outcome State Fault Refusal :=
  match (queue s q).reads.find? (fun r => r.idx = idx) with
  | none => .next s
  | some r =>
    if r.xfer.len = 0 then .next s
    else
      let p := finishRead s (queueOwner s q) r.xfer bus
      let s1 := queueMod p.1 q (fun Q => { Q with reads := Q.reads.filter (fun x => x.idx ≠ idx) })
      if (queue s1 q).st ≠ 1 ∧ (queue s1 q).st ≠ 2 then .next (settle s1 q)
      else match p.2 with
        | .refused => .next (queueError s1 q Status.localProtection)
        | .poison _ _ => .next (queueError s1 q Status.poisoned)
        | .ok b => .next (settle (fetchRound (takeAll s1 q r.claimed idx b r.count) q) q)

/-- REFETCH_TIMER (R86): 1 µs after a discard the entry is read again, until it has been fetched eight times. -/
def execRefetchTimer (q idx : Nat) (s : State) : Host.Outcome State Fault Refusal :=
  let Q := queue s q
  if (Q.st = 1 ∨ Q.st = 2) ∧ Q.refetch.any (fun r => r.idx = idx ∧ r.tries < 8) = true ∧
     Q.reads.any (fun r => r.idx = idx) = false then .next (ringRead s q idx 1)
  else .next s

/-! ### Finishing, head publication, interrupts (R80, R84, R94, R95) -/

/-- HEAD_WRITE (R71, R94): 8 bytes to the head address without Relaxed Ordering, one write in flight; it counts as a head-index publication (R57).
After a takeover nothing below the value found at the head address is published (R201). -/
def headWrite (s : State) (q : Nat) : State :=
  let Q := queue s q
  if Q.headBusy ∨ Q.published = Q.hd ∨ Q.hd < Q.headFloor then s
  else
    let b := leBytes 4 (Q.hd % 2 ^ 32) ++ leBytes 2 (queueLocal s q % 65536) ++ [0, 0]
    match dmaWrite s (queueOwner s q) Q.qctx (fld Q.head 63 3 * 8) b [] with
    | (s1, .need a) => stall s1 Q.qctx a (.headWrite q)
    | (s1, .fail st) => queueError s1 q st
    | (s1, .ok _) =>
      portsEmpty (queueMod (ordered s.out.length s1) q (fun Q => { Q with headBusy := true, headFlight := Q.hd })) (queueOwner s q)

/-- HEAD moves over the finished entries at its front (R80). -/
def advanceHead (Q : QueueC) : Nat → QueueC
  | 0 => Q
  | n + 1 =>
    if Q.entries.any (fun e => e.idx = Q.hd ∧ e.phase = 3) then
      advanceHead { Q with hd := Q.hd + 1, entries := Q.entries.filter (fun e => e.idx ≠ Q.hd) } n
    else Q

/-- After an entry has finished: HEAD advances, is published, and fetching goes on (R80, R85, R94). -/
def afterFinish (s : State) (q : Nat) : State :=
  let s1 := queueMod s q (fun Q => advanceHead Q Q.entries.length)
  settle (fetchRound (headWrite s1 q) q) q

/-- The header word of Table 4-2, as the device writes it. -/
def headerWord (e : Entry) : Nat := e.status % 256 * 2 ^ 8 + e.frag % 4096 * 2 ^ 16 + e.len % 2 ^ 32 * 2 ^ 32

/-- What the device writes into an entry before its header word: what its verb gives, and the immediate and source words of a receive entry
that no message has filled (R83, R107), which are zero. -/
def entryWrites (Q : QueueC) (e : Entry) : List (Nat × List Byte) :=
  if isRecvQ Q && !e.writes.any (fun w => decide (48 ≤ w.1)) then e.writes ++ [(48, leBytes 8 0), (56, leBytes 8 0)] else e.writes

/-- The bytes of an entry that the device writes: those of its verb, then the header word (R81, R83, R107, R121). -/
def writeBack (s : State) (q : Nat) (e : Entry) : List (Nat × List Byte) → State × Wrote
  | [] => dmaWrite s (queueOwner s q) (queue s q).qctx (ringAddr (queue s q) e.idx) (leBytes 8 (headerWord e)) []
  | (off, b) :: r =>
    match dmaWrite s (queueOwner s q) (queue s q).qctx (ringAddr (queue s q) e.idx + off) b [] with
    | (s1, .ok _) => writeBack s1 q e r
    | x => x

/-- An entry with its effect complete finishes: its header word is written (R84); a failure abandons the entry and puts the queue
in ERROR (R98). -/
def finishEntry (s : State) (q : Nat) (e : Entry) : State :=
  match writeBack s q e (entryWrites (queue s q) e) with
  | (s1, .need a) => stall s1 (queue s q).qctx a (.entryFinish q e.idx)
  | (s1, .fail st) =>
    settle (queueError (releaseHeldRegions (entryMod s1 q e.idx (fun e => { e with phase := 4 })) e.held) q st) q
  | (s1, .ok _) =>
    let s2 := releaseHeldRegions (entryMod s1 q e.idx (fun e => { e with phase := 3, doneAt := s1.time })) e.held
    afterFinish (queueMod s2 q (fun Q => { Q with finishedAt := Q.finishedAt ++ [(e.idx, s1.time)] })) q

/-- Issues the flush reads of the PEER pages a tenant's entry wrote, with its requester ID (R72, R135). -/
def flushReads (s : State) (t : Nat) (tag : BusTag) (l : List (Nat × Nat)) : State :=
  l.foldl (fun s p => emit s (.flushRead (requesterFn t) tag p.2)) s

/-- ENTRY_FINISH (R80, R84, R94): with PEER_FLUSH set, the flush of the peer pages comes first (R72). -/
def entryFinish (s : State) (q idx : Nat) : State :=
  match entry s q idx with
  | none => s
  | some e =>
    if e.phase ≠ 2 ∨ e.flushes ≠ 0 then s
    else if e.leaves ≠ [] ∧ nbit (queue s q).ctl 1 ∧ ¬ e.flushed then
      flushReads (entryMod s q idx (fun e => { e with flushes := e.leaves.length })) (queueOwner s q) (.peerFlush q idx) e.leaves
    else finishEntry s q e

/-- ENTRY_FINISH. -/
def execEntryFinish (q idx : Nat) (s : State) : Host.Outcome State Fault Refusal := .next (entryFinish s q idx)

/-- A flush read of an entry ends; a failed one gives LOCAL_PROTECTION (R72). -/
def entryFlushed (s : State) (q idx : Nat) (ok : Bool) : State :=
  match entry s q idx with
  | none => s
  | some e =>
    if e.flushes = 0 then s
    else
      let s1 := entryMod s q idx (fun e => { e with
        flushes := e.flushes - 1, flushed := decide (e.flushes = 1),
        status := if ok then e.status else Status.localProtection,
        len := if ok then e.len else 0 })
      if e.flushes = 1 then entryFinish s1 q idx else s1

/-- Announces: the vector is sent after the head write (R65, R95). -/
def announce (s : State) (q : Nat) : State :=
  let Q := queue s q
  let s1 := queueMod s q (fun Q => { Q with
    announced := Q.published, finishedAt := Q.finishedAt.filter (fun e => decide (Q.published ≤ e.1)) })
  sendVec s1 (queueOwner s q) (nfld Q.ctl 28 18)

/-- The entry that finished earliest among those not yet announced: the first entry not yet announced of R95 is read as the first to finish,
not the lowest index (DESIGN CHOICE, log 48). -/
def firstFinished (l : List (Nat × Nat)) : Option (Nat × Nat) :=
  l.foldl (fun m e => match m with | none => some e | some x => if e.2 < x.2 then some e else some x) none

/-- QUEUE_IRQ (R95). IRQ_TIME is in µs; 0 disables the time condition; an IRQ_CNT of 0 acts as 1. -/
def queueIrq (s : State) (q : Nat) : State :=
  let Q := queue s q
  let t := nfld Q.mod 23 8
  let timed := match firstFinished Q.finishedAt with
    | none => false
    | some (i, at_) => decide (t ≠ 0) && decide (i < Q.published) && decide (at_ + t * 1000 ≤ s.time)
  if nbit Q.ctl 3 && (decide (max 1 (nfld Q.mod 7 0) ≤ Q.published - Q.announced) || timed) then announce s q else s

/-- HEAD_WRITE_COMPLETE (R94, R95): merged advances go out in the next write. -/
def execHeadWriteComplete (q : Nat) (s : State) : Host.Outcome State Fault Refusal :=
  if (queue s q).headBusy then
    let s1 := queueMod s q (fun Q => { Q with headBusy := false, published := Q.headFlight })
    .next (settle (headWrite (queueIrq s1 q) q) q)
  else .next s

/-- QUEUE_IRQ_TIMER (R95): IRQ_TIME µs have passed since the first unannounced entry finished; a head write must have covered it. -/
def execQueueIrqTimer (q : Nat) (s : State) : Host.Outcome State Fault Refusal :=
  let Q := queue s q
  match firstFinished Q.finishedAt with
  | none => .next s
  | some (i, _) =>
    if nbit Q.ctl 3 && decide (nfld Q.mod 23 8 ≠ 0) && decide (i < Q.published) && decide (Q.announced < Q.published) then
      .next (announce s q)
    else .next s

/-! ### Registers of a queue (R96, R97, R99) -/

/-- The queue context that a function's WQM_QSEL names. -/
def selQueue (s : State) (fn : Nat) : Option Nat := queueOf s fn (fld (reg s Reg.WQM_QSEL fn) 16 0)

/-- MSI-X vectors of a function (R65). -/
def vecCount (s : State) (fn : Nat) : Nat := if fn = 0 then s.hif.pfVec else s.hif.vfVec

/-- The checks of R97 in its order: 0 when all pass, else the ENABLE_ERR code. -/
def enableErr (s : State) (fn q : Nat) : Nat :=
  let Q := queue s q
  let b := bindType Q
  if (fnGet s fn).abi = 0 then 1
  else if (fnGet s fn).teardown then 2
  else if fld Q.ring 4 0 < 4 ∨ 16 < fld Q.ring 4 0 then 3
  else if (b = 1 ∧ owner s 0x03 (bindId Q) ≠ fn) ∨ (b = 2 ∧ owner s 0x04 (bindId Q) ≠ fn) then 4
  else if b = 3 ∨ (b = 0 ∧ isRecvQ Q = true) then 7
  else if vecCount s fn ≤ nfld Q.ctl 28 18 then 5
  else 0

/-- ENABLE written 1 in DISABLED (R78, R97). A successful enable clears ENABLE_ERR: the spec does not say whether the last failure is kept
(DESIGN CHOICE, log 48). What an earlier run left on its way back is aborted (R148). -/
def enableQueue (s : State) (fn q : Nat) : State :=
  let err := enableErr s fn q
  if err = 0 then
    queueMod (endTransfers s (((queue s q).reads.filter (fun r => decide (r.xfer.len ≠ 0))).map (·.xfer))) q (fun Q => { Q with
      st := 1, ctl := Q.ctl / 2 * 2 + 1, enableErr := 0, tail := 0, hd := 0, fetch := 0, db := none, seq := 1, slot := [],
      inlineWait := none, entries := [], spec := [], specStop := none, refetch := [], reads := [], headBusy := false,
      headFlight := 0, published := 0, announced := 0, finishedAt := [], disableReq := false, headFloor := 0 })
  else queueMod s q (fun Q => { Q with enableErr := err })

/-- The lowest index whose re-fetch has given up. -/
def givenUp (Q : QueueC) : Option Nat :=
  Q.refetch.foldl (fun m r => if r.tries < 8 then m else match m with | none => some r.idx | some k => some (min k r.idx)) none

/-- ENABLE written 0 (Table 4-4): doorbells received before it are taken first (R69). An entry whose re-fetch has already given up, and been
counted, ends the drain there. -/
def disableQueue (s : State) (q : Nat) : State :=
  let s1 := if (queue s q).st = 1 then
      let s0 := queueMod (takeThrough s q (s.hif.arrivals.length + 1)) q (fun Q => if Q.st = 1 then { leaveActive Q with st := 2 } else Q)
      if (queue s0 q).st = 2 then (match givenUp (queue s0 q) with | some k => cutTail s0 q k | none => s0) else s0
    else s
  settle (queueMod s1 q (fun Q => { Q with ctl := Q.ctl / 2 * 2, disableReq := Q.disableReq || decide (Q.st = 3) })) q

/-- PREFETCH, INFLIGHT and IRQ_VEC of a WQM_QCTL value. -/
def ctlCfg (v : Nat) : Nat := nfld v 28 4

/-- A write of WQM_QCTL by a function to its selected queue (R96, R97). One write with ENABLE 0 and FLUSH 1 to an ACTIVE queue disables it and
then flushes it: the spec does not say in which state the write's FLUSH meets the queue (DESIGN CHOICE, log 48). -/
def qctlWrite (s : State) (fn : Nat) (value : W64) : State :=
  let v := fld value 31 0
  match selQueue s fn with
  | none => if nbit v 0 then fnMod s fn (fun F => { F with notGranted := true }) else s
  | some q =>
    let s1 := queueMod s q (fun Q =>
      let keep := nfld Q.ctl 28 4
      let cfg := if Q.st = 0 then ctlCfg v else keep
      { Q with
        cfgRefused := if Q.st = 0 then false else Q.cfgRefused || decide (ctlCfg v ≠ keep),
        ctl := Q.ctl % 2 + b2n (nbit v 1) * 2 + b2n (nbit v 3) * 8 + cfg * 16 })
    let s2 := if nbit v 0 then (if (queue s1 q).st = 0 then enableQueue s1 fn q else s1)
      else if (queue s1 q).st = 1 ∨ (queue s1 q).st = 3 then disableQueue s1 q else s1
    if nbit v 2 ∧ (queue s2 q).st = 2 then settle (flushEntries s2 q) q else s2

/-- A write of a configuration register of the selected queue: accepted only in DISABLED (R96). -/
def queueConfigWrite (s : State) (fn off : Nat) (value : W64) : State :=
  match selQueue s fn with
  | none => s
  | some q =>
    if (queue s q).st ≠ 0 then queueMod s q (fun Q => { Q with cfgRefused := true })
    else queueMod s q (fun Q =>
      let Q := { Q with cfgRefused := false }
      if off = Reg.WQM_QRING then { Q with ring := w64 (fld value 63 12 * 4096 + fld value 4 0) }
      else if off = Reg.WQM_QHEAD then { Q with head := w64 (fld value 63 3 * 8) }
      else if off = Reg.WQM_QCTX then { Q with qctx := fld value 15 0 }
      else if off = Reg.WQM_QBIND then { Q with bind := fld value 22 0 }
      else { Q with mod := fld value 23 0 })

/-- A function's WQM registers answer: the function exists and the device is RUNNING (R439). -/
def blockUp (s : State) (fn : Nat) : Bool := hostUp s && fnExists s fn && running s

/-- QUEUE_SELECT (R97): it also clears a held not-granted result. -/
def execQueueSelect (fn : Nat) (value : W64) (s : State) : Host.Outcome State Fault Refusal :=
  let s := dropHeld s fn
  if blockUp s fn then
    .next (setReg (fnMod s fn (fun F => { F with notGranted := false })) Reg.WQM_QSEL fn (w64 (fld value 16 0)))
  else .next s

/-- QUEUE_ENABLE (R97): a write of WQM_QCTL with ENABLE 1. -/
def execQueueEnable (fn : Nat) (value : W64) (s : State) : Host.Outcome State Fault Refusal :=
  let s := dropHeld s fn
  if blockUp s fn && wbit value 0 then .next (qctlWrite s fn value) else .next s

/-- QUEUE_DISABLE (R96, R98): a write of WQM_QCTL with ENABLE 0. -/
def execQueueDisable (fn : Nat) (value : W64) (s : State) : Host.Outcome State Fault Refusal :=
  let s := dropHeld s fn
  if blockUp s fn && !wbit value 0 then .next (qctlWrite s fn value) else .next s

/-- QUEUE_FLUSH (R96): a write of WQM_QCTL with FLUSH 1. -/
def execQueueFlush (fn : Nat) (value : W64) (s : State) : Host.Outcome State Fault Refusal :=
  let s := dropHeld s fn
  if blockUp s fn && wbit value 2 then .next (qctlWrite s fn value) else .next s

/-- A register that R96 makes writable only in DISABLED. -/
def isQueueCfg (off : Nat) : Bool :=
  off = Reg.WQM_QRING || off = Reg.WQM_QHEAD || off = Reg.WQM_QCTX || off = Reg.WQM_QBIND || off = Reg.WQM_QMOD

/-- QUEUE_CONFIG_WRITE (R96): a write of WQM_QRING, WQM_QHEAD, WQM_QCTX, WQM_QBIND, WQM_QMOD or WQM_QCTL. -/
def execQueueConfigWrite (fn off : Nat) (value : W64) (s : State) : Host.Outcome State Fault Refusal :=
  let s := dropHeld s fn
  if !blockUp s fn then .next s
  else if off = Reg.WQM_QCTL then .next (qctlWrite s fn value)
  else if isQueueCfg off then .next (queueConfigWrite s fn off value)
  else .next s

/-- WQM_QSTAT (Table 4-9) of a function's selection. The result held for a queue that was not granted stands until WQM_QSEL is written, even if
the queue is granted meanwhile (R97). -/
def qstat (s : State) (fn : Nat) : Nat :=
  if (fnGet s fn).notGranted then 6 * 16
  else match selQueue s fn with
  | none => 0
  | some q =>
    let Q := queue s q
    Q.st + b2n Q.cfgRefused * 4 + b2n (decide (Q.st = 0) && !Q.headBusy) * 8 + Q.enableErr * 16 + b2n Q.inlineWait.isSome * 256

/-- ABI_AGREE (R67, R439): an offered version is set, any other value reads back 0; ignored while a queue of the function is not
DISABLED, and before RUNNING. -/
def execAbiAgree (fn version : Nat) (s : State) : Host.Outcome State Fault Refusal :=
  let s := dropHeld s fn
  if !blockUp s fn || s.queues.any (fun e => decide (queueOwner s e.1 = fn ∧ e.2.st ≠ 0)) then .next s
  else .next (fnMod s fn (fun F => { F with abi := if version = 1 ∨ version = 2 then version else 0 }))

end Sys2Proof.Machine
end

