-- ==== Sys2Proof/Machine/Context.lean ====
section
/-! DEFINITION. The commands on translation contexts (R136, R137, R143) and the reads of table words in host memory (R140, R141). -/
namespace Sys2Proof.Machine

/-- The context that a function's ATU_CSEL names, when it is its tenant's (R162). -/
def selCtx (s : State) (fn : Nat) : Option Nat :=
  let c := fld (reg s Reg.ATU_CSEL fn) 15 0
  if ctxOwner s c = fn then some c else none

/-- A write of ATU_CROOT (R136): refused with VALID set, or with a reserved ROOT_LOC. -/
def rootWrite (s : State) (c : Nat) (value : W64) : State :=
  if (ctx s c).valid ∨ 2 ≤ fld value 1 0 then ctxMod s c (fun C => { C with refused := true })
  else ctxMod s c (fun C => { C with refused := false, root := w64 (fld value 63 12 * 4096 + fld value 1 0) })

/-- VALID is cleared (R136, R145): the epoch advances and every cached translation of the context goes. -/
def clearValid (s : State) (c : Nat) : State :=
  if (ctx s c).valid then ctxMod (advanceEpoch (purge s c (fun _ => true)) c) c (fun C => { C with valid := false }) else s

/-- A write of ATU_CCTL (R136, R137, Table 6-11): refused whole when it would set VALID of a sealed tenant's context with a host root;
FABRIC_EN is the PF's. -/
def cctlWrite (s : State) (fn c : Nat) (value : W64) : State :=
  if wbit value 0 ∧ (ctx s c).valid = false ∧ sealed s fn = true ∧ fld (ctx s c).root 1 0 = 1 then
    ctxMod s c (fun C => { C with refused := true })
  else
    let s1 := if wbit value 0 then ctxMod s c (fun C => { C with valid := true }) else clearValid s c
    ctxMod s1 c (fun C => { C with refused := false, fabricEn := if fn = 0 then wbit value 1 else C.fabricEn })

/-- Applies a register write to the selected context of a function that may name it. -/
def onCtx (s : State) (fn : Nat) (f : Nat → State) : Host.Outcome State Fault Refusal :=
  if !blockUp s fn then .next s
  else match selCtx s fn with
    | none => .next (dropHeld s fn)
    | some c => .next (dropHeld (f c) fn)

/-- CONTEXT_ROOT_WRITE (R136). -/
def execContextRootWrite (fn : Nat) (value : W64) (s : State) : Host.Outcome State Fault Refusal :=
  onCtx s fn (fun c => rootWrite s c value)

/-- CONTEXT_VALID_SET (R137): a write of ATU_CCTL with VALID 1. -/
def execContextValidSet (fn : Nat) (value : W64) (s : State) : Host.Outcome State Fault Refusal :=
  onCtx s fn (fun c => if wbit value 0 then cctlWrite s fn c value else s)

/-- CONTEXT_VALID_CLEAR (R136): a write of ATU_CCTL with VALID 0. -/
def execContextValidClear (fn : Nat) (value : W64) (s : State) : Host.Outcome State Fault Refusal :=
  onCtx s fn (fun c => if wbit value 0 then s else cctlWrite s fn c value)

/-- FABRIC_EN_WRITE (R143): a write of ATU_CCTL that leaves VALID as it is. -/
def execFabricEnWrite (fn : Nat) (value : W64) (s : State) : Host.Outcome State Fault Refusal :=
  onCtx s fn (fun c => if wbit value 0 = (ctx s c).valid then cctlWrite s fn c value else s)

/-- A table word of a context arrives, or its read failed (none): the accesses that wait for it go on (R140, R141). -/
def walkWord (s : State) (c addr : Nat) (word : Option W64) : State :=
  let mine := fun (x : Stalled) => decide (x.ctx = c ∧ x.addr = addr)
  if s.atu.stalled.any mine then
    { s with atu := { s.atu with
        walk := ⟨c, addr, word⟩ :: s.atu.walk.filter (fun w => !decide (w.ctx = c ∧ w.addr = addr)),
        stalled := s.atu.stalled.filter (fun x => !mine x),
        ready := s.atu.ready ++ (s.atu.stalled.filter mine).map (·.cmd) } }
  else s

/-- TABLE_WALK_COMPLETE (R138 to R141): a read of a page-table entry in host memory returns the entry, or fails (none). -/
def execTableWalkComplete (c addr : Nat) (word : Option W64) (s : State) : Host.Outcome State Fault Refusal :=
  .next (walkWord s c addr word)

end Sys2Proof.Machine
end

