-- ==== Sys2Proof/Machine/Fp.lean ====
section
/-! DEFINITION. Floating-point arithmetic on exact integers: IEEE 754 decoding and rounding, the operators of Table 12-1, the
vector operations of R350, and the MX formats of Table 14-4. -/
namespace Sys2Proof.Machine

/-! ### Exact values -/

/-- A floating-point datum: a NaN (signalling or not), an infinity, or ± m · 2^e. -/
inductive Fp
  | nan (signal : Bool)
  | inf (neg : Bool)
  | fin (neg : Bool) (m : Nat) (e : Int)
deriving DecidableEq, Repr

/-- A result with the fflags bits it sets: NV 1, DZ 2, OF 4, UF 8, NX 16 (Table 14-5). -/
structure FpRes where
  bits : Nat
  flags : Nat := 0
deriving DecidableEq, Repr

/-- The exponent bias of a format. -/
def fpBias (eb : Nat) : Int := Int.ofNat (2 ^ (eb - 1)) - 1

/-- The canonical quiet NaN of a format: 0x7FC0_0000, 0x7FC0, 0x7E00 (Table 12-1). -/
def fpQNan (eb mb : Nat) : Nat := (2 ^ eb - 1) * 2 ^ mb + 2 ^ (mb - 1)

/-- The finite datum with an exponent field and a fraction. -/
def fpFinite (eb mb : Nat) (neg : Bool) (exp frac : Nat) : Fp :=
  if exp = 0 then .fin neg frac (1 - fpBias eb - Int.ofNat mb)
  else .fin neg (2 ^ mb + frac) (Int.ofNat exp - fpBias eb - Int.ofNat mb)

/-- Decodes an IEEE 754 datum with eb exponent bits and mb fraction bits. -/
def fpDecode (eb mb bits : Nat) : Fp :=
  let frac := bits % 2 ^ mb
  let exp := bits / 2 ^ mb % 2 ^ eb
  let neg := bits.testBit (eb + mb)
  if exp = 2 ^ eb - 1 then (if frac = 0 then .inf neg else .nan (!frac.testBit (mb - 1)))
  else fpFinite eb mb neg exp frac

/-- m divided by 2^d, to nearest even, and whether it was inexact. -/
def rneShift (m d : Nat) : Nat × Bool :=
  let q := m / 2 ^ d
  let r := m % 2 ^ d
  let half := 2 ^ d / 2
  if r = 0 then (q, false)
  else if r > half ∨ (r = half ∧ q % 2 = 1) then (q + 1, true) else (q, true)

/-- m · 2^e in units of 2^q, to nearest even, and whether it was inexact. -/
def quantize (m : Nat) (e q : Int) : Nat × Bool :=
  if q ≤ e then (m * 2 ^ (e - q).toNat, false) else rneShift m (q - e).toNat

/-- The smallest normal exponent of a format. -/
def fpEmin (eb : Nat) : Int := 1 - fpBias eb

/-- The magnitude code of m · 2^e (m not 0) in a format without regard to overflow, whether it is inexact, and whether it is
tiny. -/
def fpCode (eb mb m : Nat) (e : Int) : Nat × Bool × Bool :=
  let top : Int := Int.ofNat (Nat.log2 m) + e
  let lo := fpEmin eb - Int.ofNat mb
  let q := max (top - Int.ofNat mb) lo
  let r := quantize m e q
  let near := quantize m e (top - Int.ofNat mb)
  let before := decide (top < fpEmin eb)
  let after := before && !(decide (top + 1 = fpEmin eb) && decide (near.1 = 2 ^ (mb + 1)))
  ((q - lo).toNat * 2 ^ mb + r.1, r.2, if Config.tinyBefore then before else after)

/-- The sign bit of a format. -/
def signBit (eb mb : Nat) (neg : Bool) : Nat := if neg then 2 ^ (eb + mb) else 0

/-- Rounds a datum to a format, to nearest even; overflow gives an infinity (R294, R350). -/
def fpRound (eb mb : Nat) : Fp → FpRes
  | .nan sg => ⟨fpQNan eb mb, b2n sg⟩
  | .inf neg => ⟨signBit eb mb neg + (2 ^ eb - 1) * 2 ^ mb, 0⟩
  | .fin neg m e =>
    if m = 0 then ⟨signBit eb mb neg, 0⟩
    else
      let c := fpCode eb mb m e
      let top := (2 ^ eb - 1) * 2 ^ mb
      if top ≤ c.1 then ⟨signBit eb mb neg + top, 20⟩
      else if c.2.1 then ⟨signBit eb mb neg + c.1, if c.2.2 then 24 else 16⟩
      else ⟨signBit eb mb neg + c.1, 0⟩

/-- The signed integer of a finite datum in units of 2^q, q not above its exponent. -/
def fpUnits (neg : Bool) (m : Nat) (e q : Int) : Int :=
  let v := Int.ofNat (m * 2 ^ (e - q).toNat)
  if neg then -v else v

/-- An exact sum; two zeros of sign − give −0, and every other zero sum +0 (Table 12-1). -/
def fpAdd : Fp → Fp → Fp
  | .nan a, .nan b => .nan (a || b)
  | .nan a, _ => .nan a
  | _, .nan b => .nan b
  | .inf a, .inf b => if a = b then .inf a else .nan true
  | .inf a, .fin _ _ _ => .inf a
  | .fin _ _ _, .inf b => .inf b
  | .fin a m e, .fin b n f =>
    let q := min e f
    let v := fpUnits a m e q + fpUnits b n f q
    if v = 0 then .fin (a && b && decide (m = 0) && decide (n = 0)) 0 q else .fin (decide (v < 0)) v.natAbs q

/-- An exact product. -/
def fpMul : Fp → Fp → Fp
  | .nan a, .nan b => .nan (a || b)
  | .nan a, _ => .nan a
  | _, .nan b => .nan b
  | .inf a, .inf b => .inf (a != b)
  | .inf a, .fin b n _ => if n = 0 then .nan true else .inf (a != b)
  | .fin a m _, .inf b => if m = 0 then .nan true else .inf (a != b)
  | .fin a m e, .fin b n f => .fin (a != b) (m * n) (e + f)

/-- Negation. -/
def fpNeg : Fp → Fp
  | .nan s => .nan s
  | .inf n => .inf (!n)
  | .fin n m e => .fin (!n) m e

/-- A datum is a NaN. -/
def Fp.isNan : Fp → Bool
  | .nan _ => true
  | _ => false

/-! ### binary32 -/

/-- Decodes binary32. -/
def f32 (bits : Nat) : Fp := fpDecode 8 23 bits

/-- Rounds to binary32. -/
def toF32 (x : Fp) : FpRes := fpRound 8 23 x

/-- The order of binary32 codes with −0 below +0; no NaN. -/
def f32Key (b : Nat) : Int := if b.testBit 31 then -(Int.ofNat (b % 2 ^ 31)) - 1 else Int.ofNat (b % 2 ^ 31)

/-- Addition. -/
def f32Add (a b : Nat) : FpRes := toF32 (fpAdd (f32 a) (f32 b))

/-- Subtraction. -/
def f32Sub (a b : Nat) : FpRes := toF32 (fpAdd (f32 a) (fpNeg (f32 b)))

/-- Multiplication. -/
def f32Mul (a b : Nat) : FpRes := toF32 (fpMul (f32 a) (f32 b))

/-- Multiply and add with one rounding. -/
def f32Fma (a b c : Nat) : FpRes := toF32 (fpAdd (fpMul (f32 a) (f32 b)) (f32 c))

/-- A signalling NaN sets NV. -/
def f32Signal (a : Nat) : Bool := match f32 a with | .nan s => s | _ => false

/-- Minimum or maximum (Table 12-1). -/
def f32MinMax (max : Bool) (a b : Nat) : FpRes :=
  if (f32 a).isNan || (f32 b).isNan then ⟨0x7FC00000, b2n (f32Signal a || f32Signal b)⟩
  else if decide (f32Key a ≤ f32Key b) = max then ⟨b, 0⟩ else ⟨a, 0⟩

/-- Comparison under IEEE 754: −1, 0, 1, or none when unordered; both zeros are equal. -/
def f32Cmp (a b : Nat) : Option Int :=
  if (f32 a).isNan || (f32 b).isNan then none
  else if a % 2 ^ 31 = 0 ∧ b % 2 ^ 31 = 0 then some 0
  else if f32Key a < f32Key b then some (-1) else if f32Key a = f32Key b then some 0 else some 1

/-- binary32 to INT32: nearest even, saturating, NaN gives 0 (VCVT). -/
def f32ToInt (a : Nat) : FpRes :=
  match f32 a with
  | .nan _ => ⟨0, 1⟩
  | .inf n => ⟨if n then 2 ^ 31 else 2 ^ 31 - 1, 1⟩
  | .fin n m e =>
    let r := quantize m e 0
    if n then (if 2 ^ 31 < r.1 then ⟨2 ^ 31, 1⟩ else ⟨(2 ^ 32 - r.1) % 2 ^ 32, if r.2 then 16 else 0⟩)
    else if 2 ^ 31 ≤ r.1 then ⟨2 ^ 31 - 1, 1⟩ else ⟨r.1, if r.2 then 16 else 0⟩

/-- INT32 to binary32 (VCVT). -/
def intToF32 (a : Nat) : FpRes :=
  if a.testBit 31 then toF32 (.fin true (2 ^ 32 - a) 0) else toF32 (.fin false a 0)

/-! ### Narrow formats -/

/-- BF16 or FP16 to binary32, exactly. -/
def widen (fp16 : Bool) (b : Nat) : Nat :=
  if fp16 then (toF32 (fpDecode 5 10 b)).bits
  else if (fpDecode 8 7 b).isNan then 0x7FC00000 else b * 65536

/-- binary32 to BF16 or FP16 (Table 12-1). -/
def narrow (fp16 : Bool) (b : Nat) : FpRes := if fp16 then fpRound 5 10 (f32 b) else fpRound 8 7 (f32 b)

/-! ### Reduction operators (Tables 5-6 and 12-1) -/

/-- A two's-complement number of w bits. -/
def sInt (w n : Nat) : Int := if n.testBit (w - 1) then Int.ofNat (n % 2 ^ w) - Int.ofNat (2 ^ w) else Int.ofNat (n % 2 ^ w)

/-- An integer operator on w bits. -/
def intCombine (op w a b : Nat) : Nat :=
  match op with
  | 0 => (a + b) % 2 ^ w
  | 1 => if sInt w a ≤ sInt w b then a else b
  | 2 => if sInt w a ≤ sInt w b then b else a
  | 3 => Nat.land a b
  | 4 => Nat.lor a b
  | _ => Nat.xor a b

/-- A floating-point operator in the pipes. -/
def f32Combine (op a b : Nat) : Nat :=
  match op with
  | 0 => (f32Add a b).bits
  | 1 => (f32MinMax false a b).bits
  | _ => (f32MinMax true a b).bits

/-- OP on two elements of FMT: narrow floating-point elements are widened, combined and rounded back (R113). -/
def combine (op fmt a b : Nat) : Nat :=
  match fmt with
  | 0 => f32Combine op a b
  | 1 => (narrow false (f32Combine op (widen false a) (widen false b))).bits
  | 2 => (narrow true (f32Combine op (widen true a) (widen true b))).bits
  | 3 => intCombine op 32 a b
  | _ => intCombine op 64 a b

/-- Combines two byte strings element by element; w is the element's size. -/
def combineBytes (op fmt w : Nat) : Nat → List Byte → List Byte → List Byte
  | 0, _, _ => []
  | n + 1, x, y =>
    leBytes w (combine op fmt (leAt x 0 w) (leAt y 0 w)) ++ combineBytes op fmt w n (x.drop w) (y.drop w)

/-! ### MX formats (Table 14-4, R296, R351) -/

/-- Exponent bits, fraction bits of an MX element format with codes 0 to 4. -/
def mxShape (code : Nat) : Nat × Nat :=
  match code with | 0 => (2, 1) | 1 => (3, 2) | 2 => (2, 3) | 3 => (4, 3) | _ => (5, 2)

/-- Bits of an element of a format of Table 14-4. -/
def fmtBits (code : Nat) : Nat := match code with | 0 => 4 | 1 => 6 | 2 => 6 | 6 => 4 | 7 => 16 | 8 => 16 | _ => 8

/-- emax of an MX format. -/
def mxEmax (code : Nat) : Int := match code with | 0 => 2 | 1 => 4 | 2 => 2 | 3 => 8 | 4 => 15 | _ => 0

/-- The code of the largest magnitude of an MX format. -/
def mxMax (code : Nat) : Nat := match code with | 0 => 7 | 1 => 31 | 2 => 31 | 3 => 0x7E | 4 => 0x7B | _ => 127

/-- Decodes an element of a format of Table 14-4, without its scale. -/
def mxDecode (code bits : Nat) : Fp :=
  match code with
  | 4 => fpDecode 5 2 bits
  | 5 => let v := sInt 8 bits; .fin (decide (v < 0)) v.natAbs (-6)
  | 6 => let v := sInt 4 bits; .fin (decide (v < 0)) v.natAbs 0
  | 7 => fpDecode 8 7 bits
  | 8 => fpDecode 5 10 bits
  | c =>
    let sh := mxShape c
    if c = 3 ∧ bits % 128 = 127 then .nan false
    else fpFinite sh.1 sh.2 (bits.testBit (sh.1 + sh.2)) (bits / 2 ^ sh.2 % 2 ^ sh.1) (bits % 2 ^ sh.2)

/-- A datum times 2^k. -/
def fpScale (x : Fp) (k : Int) : Fp := match x with | .fin n m e => .fin n m (e + k) | y => y

/-- Element × scale: a scale of 0xFF gives NaN. -/
def mxValue (code bits scale : Nat) : Fp :=
  if scale = 255 then .nan false else fpScale (mxDecode code bits) (Int.ofNat scale - 127)

/-- Encodes y ÷ 2^x in an MX format: nearest even, saturated, the sign of zero kept where there is one (R296, R351). -/
def mxElement (code : Nat) (neg : Bool) (m : Nat) (e x : Int) : Nat :=
  if code = 5 then
    let r := min 127 (quantize m (e - x) (-6)).1
    if neg then (256 - r) % 256 else r
  else
    let sh := mxShape code
    let c := if m = 0 then 0 else (fpCode sh.1 sh.2 m (e - x)).1
    signBit sh.1 sh.2 neg + min c (mxMax code)

/-- ⌊log2⌋ of the magnitude of a finite datum that is not 0. -/
def fpLog (m : Nat) (e : Int) : Int := Int.ofNat (Nat.log2 m) + e

/-- ⌊log2(amax)⌋ of a block, none when every element is 0. -/
def mxTop (l : List Fp) : Option Int :=
  l.foldl (fun t x => match x with
    | .fin _ m e => if m = 0 then t else some (match t with | none => fpLog m e | some v => max v (fpLog m e))
    | _ => t) none

/-- Encodes a block: its scale byte, and its element codes (R296). -/
def mxBlock (code : Nat) (l : List Fp) : Nat × List Nat :=
  if l.any (fun x => match x with | .fin _ _ _ => false | _ => true) then
    (255, (List.range l.length).map (fun i => Config.mxNanElement i % 2 ^ fmtBits code))
  else
    let x : Int := match mxTop l with | none => -127 | some t => max (-127) (min 127 (t - mxEmax code))
    ((x + 127).toNat, l.map (fun y => match y with | .fin n m e => mxElement code n m e x | _ => 0))

/-- Element k of packed elements (R350): 4-, 6-, 8- and 16-bit packings. -/
def packedGet (bits : Nat) (b : List Byte) (k : Nat) : Nat :=
  match bits with
  | 4 => leAt b (k / 2) 1 / 16 ^ (k % 2) % 16
  | 6 => leAt b (3 * (k / 4)) 3 / 64 ^ (k % 4) % 64
  | 16 => leAt b (2 * k) 2
  | _ => leAt b k 1

/-- Packs element codes. -/
def packed (bits : Nat) (l : List Nat) : List Byte :=
  leBytes ((l.length * bits + 7) / 8) (l.foldr (fun x n => x + 2 ^ bits * n) 0)

end Sys2Proof.Machine
end

