-- ==== Sys2Proof/Machine/Mirror.lean ====
section
/-! DEFINITION. The mirror table of dual-plane failover (R196 to R199): its records, as this card writes them to its partner and as it
reads the partner's from its own memory, and the mirrored response-cache entries. -/
namespace Sys2Proof.Machine

/-! ### Reading this card's table (Table 7-7) -/

/-- Base of the mirror table in local physical memory. -/
def mirrorBase (s : State) : Nat := fld (reg s Reg.TPE_MIRROR_BASE 0) 47 21 * 2 ^ 21

/-- The bytes of record n. -/
def mirrorBytes (s : State) (n : Nat) : List Byte := memBytes s (mirrorBase s + 64 * n) 64

/-- Reads the fields of a record. -/
def readMirror (b : List Byte) : Mirror :=
  { word := leAt b 0 4, twin := nfld (leAt b 4 4) 19 0, sqHead := leAt b 8 4, headMsn := nfld (leAt b 12 4) 23 0,
    recvDone := nfld (leAt b 16 4) 23 0, rqNext := leAt b 20 4, seq := w64 (leAt b 24 8) }

/-- The last record that was accepted in a place. -/
def mirrorLast (s : State) (n : Nat) : Mirror := tget (fun _ => {}) s.tpe.mirrorIn n

/-- Takes record n when it is VALID, its CRC is good and its SEQ is above the last accepted one; otherwise it is ignored and
TABLE_FAULT is set (R198). -/
def acceptMirror (s : State) (n : Nat) : State × Option Mirror :=
  let b := mirrorBytes s n
  let m := readMirror b
  if leAt b 60 4 ≠ (crc32 (b.take 60)).toNat ∨ m.seq.toNat ≤ (mirrorLast s n).seq.toNat then
    ({ s with tpe := { s.tpe with tableFault := true } }, none)
  else
    ({ s with tpe := { s.tpe with mirrorIn := tset (fun _ => {}) s.tpe.mirrorIn n m } },
      if nbit m.word 20 then some m else none)

/-- The record that holds for a place: a newer one in the table, else the last accepted. -/
def currentMirror (s : State) (n : Nat) : State × Mirror :=
  match acceptMirror s n with
  | (s1, some m) => (s1, m)
  | (s1, none) => (s1, mirrorLast s1 n)

/-- The mirror slot of a QP, TPE_QTWIN.MSLOT. -/
def mirrorSlot (s : State) (c : Nat) : Nat := fld (conn s c).twin 33 20

/-- The twin of a QP on the partner, TPE_QTWIN.TWIN_QPN. -/
def twinQp (s : State) (c : Nat) : Nat := fld (conn s c).twin 19 0

/-- A mirrored response-cache entry in its 32 bytes: source node + 4,096 · plane, QP of the writer, MSN, status, flags, value. The spec
gives the size and not the layout (DESIGN CHOICE, log 30). -/
def cacheBytes (e : RcEntry) : List Byte :=
  leBytes 4 e.node ++ leBytes 4 e.conn ++ leBytes 3 e.msn ++ leBytes 1 e.status ++ leBytes 4 (1 + b2n e.reduce * 2) ++
  leBytes 8 e.value.toNat ++ leBytes 8 0

/-- The mirrored entries of a writer's QP, as entries of a connection here. -/
def mirroredEntries (s : State) (c : Nat) : List RcEntry :=
  (List.range 32768).filterMap (fun n =>
    let a := mirrorBase s + 2 ^ 20 + 32 * n
    if nbit (leNat (memBytes s (a + 12) 4)) 0 && decide (leNat (memBytes s (a + 4) 4) = twinQp s c) then
      some { node := connNode s c + ownPlane s * 4096, conn := c, msn := leNat (memBytes s (a + 8) 3),
             status := leNat (memBytes s (a + 11) 1), value := w64 (leNat (memBytes s (a + 16) 8)),
             reduce := nbit (leNat (memBytes s (a + 12) 4)) 1 }
    else none)

/-! ### Writing the partner's table -/

/-- Writes bytes at an offset of the partner's table, through TPE_TWIN_CTX and TPE_TWIN_BASE (R197). -/
def twinWrite (s : State) (off : Nat) (b : List Byte) : State :=
  let w := reg s Reg.TPE_TWIN_CTX 0
  let c := fld w 15 0
  if !wbit w 16 then s
  else (dmaWrite s (ctxOwner s c) c (fld (reg s Reg.TPE_TWIN_BASE 0) 63 21 * 2 ^ 21 + off) b []).1

/-- The send queue of a QP, and its receive queue. -/
def qpQueue (s : State) (c : Nat) (recv : Bool) : Option (Nat × QueueC) :=
  s.queues.find? (fun e => decide (bindType e.2 = 1 ∧ bindId e.2 = c) && (isRecvQ e.2 == recv) && decide (e.2.st ≠ 0))

/-- MSN of the first remote entry at or after HEAD. -/
def headMsn (s : State) (c : Nat) (Q : QueueC) : Nat :=
  match Q.entries.find? (fun e => decide (e.idx = Q.hd) && e.taken && decide (e.conn = c)) with
  | some e => e.msn
  | none => ((((conn s c).send.find? (fun m => !m.resp)).map (·.msn))).getD (conn s c).msn

/-- The index that the next entry-consuming message at or above DONE_MSN takes. -/
def rqNextOf (s : State) (c : Nat) : Nat :=
  match qpQueue s c true with
  | none => 0
  | some (_, Q) =>
    ((List.range (Q.tail - Q.hd)).map (· + Q.hd)).foldr
      (fun i k => if Q.entries.any (fun e => decide (e.idx = i ∧ 2 ≤ e.phase)) then k else i) Q.tail % 2 ^ 32

/-- The fields of a QP's record (Table 7-7); `mark`: 1 HANDOFF, 2 TAKEN. -/
def mirrorOf (s : State) (c mark : Nat) : Mirror :=
  let q := qpQueue s c false
  { word := c % 2 ^ 20 + 2 ^ 20 + (mark % 2) * 2 ^ 21 + (mark / 2 % 2) * 2 ^ 22, twin := twinQp s c,
    sqHead := ((q.map (·.2.hd)).getD 0) % 2 ^ 32, headMsn := (q.map (fun p => headMsn s c p.2)).getD (conn s c).msn,
    recvDone := (conn s c).done, rqNext := rqNextOf s c }

/-- The 64 bytes of a record. -/
def mirrorRecord (m : Mirror) : List Byte :=
  let b := leBytes 4 m.word ++ leBytes 4 m.twin ++ leBytes 4 m.sqHead ++ leBytes 4 m.headMsn ++ leBytes 4 m.recvDone ++
    leBytes 4 m.rqNext ++ leBytes 8 m.seq.toNat ++ List.replicate 28 0
  b ++ leBytes 4 (crc32 b).toNat

/-- Writes a record in a place of the partner's table under the next SEQ, and keeps it. -/
def putMirror (s : State) (n : Nat) (m : Mirror) : State :=
  let m1 := { m with seq := (tget (fun _ => ({} : Mirror)) s.tpe.mirrorOut n).seq + 1 }
  twinWrite { s with tpe := { s.tpe with mirrorOut := tset (fun _ => {}) s.tpe.mirrorOut n m1 } } (64 * n) (mirrorRecord m1)

/-- The record of a QP is written at once with a mark (R198, R200, R201). -/
def markMirror (s : State) (c mark : Nat) : State := putMirror s (mirrorSlot s c) (mirrorOf s c mark)

/-- The fields of a QP have changed since its record was last written. -/
def mirrorChanged (s : State) (c : Nat) : Bool :=
  let o : Mirror := tget (fun _ => {}) s.tpe.mirrorOut (mirrorSlot s c)
  let n := mirrorOf s c (nfld o.word 21 21 + nfld o.word 22 22 * 2)
  decide ({ o with seq := 0 } ≠ n)

/-- A failover QP (R196). -/
def isFailover (s : State) (c : Nat) : Bool := !isChan c && wbit (conn s c).cfg 51

/-- The partner's heartbeat record 16,383 has a new SEQ: PARTNER_LIVE. -/
def seeHeartbeat (s : State) : State :=
  if (readMirror (mirrorBytes s 16383)).seq = (mirrorLast s 16383).seq then s
  else match acceptMirror s 16383 with
    | (s1, some _) => { s1 with tpe := { s1.tpe with partnerLive := true } }
    | (s1, none) => s1

/-- MIRROR_WRITE_TIMER (R198, Table 7-9): every 64 µs the changed records go out, 256 at most, the others slip and are counted; then the
heartbeat record 16,383. -/
def execMirrorWriteTimer (s : State) : Host.Outcome State Fault Refusal :=
  if !wbit (reg s Reg.TPE_TWIN_CTX 0) 16 || !running s then .next s
  else
    let l := (s.tpe.conns.map (·.1)).filter (fun c => isFailover s c && decide ((conn s c).st ≠ 0) && mirrorChanged s c)
    let s1 := (l.take 256).foldl (fun s c =>
      putMirror s (mirrorSlot s c) (mirrorOf s c ((tget (fun _ => ({} : Mirror)) s.tpe.mirrorOut (mirrorSlot s c)).word / 2 ^ 21))) s
    let s2 := (l.drop 256).foldl (fun s c => bumpFn s Reg.TPE_MIRROR_LATE (connTenant s c)) s1
    .next (seeHeartbeat (putMirror s2 16383 { word := 2 ^ 20 }))

end Sys2Proof.Machine
end

