-- ==== Sys2Proof/Machine/TpeConn.lean ====
section
/-! DEFINITION. Connections of the transport (R163 to R175): QP registers, the CONNECT exchange, the QP state table, channels, and
the end of a connection. -/
namespace Sys2Proof.Machine

/-! ### What a connection holds up and lets go -/

/-- The partial sealed records of a message, or of a response to one, are discarded: nothing of them is written (R412). -/
def dropStages (s : State) (c : Nat) (resp : Bool) (p : Nat → Bool) : State :=
  { s with cph := { s.cph with staging := s.cph.staging.filter (fun g => !(decide (g.conn = c ∧ g.resp = resp) && p g.msn)) } }

/-- The bytes 48 to 63 that the device writes into a receive entry (R83, R107, R202). -/
def recvWord (s : State) (c : Nat) (m : RecvMsg) : List Byte :=
  let src := if isChan c then connNode s c + ownPlane s * 4096 + m.srcEp * 65536 else 0
  let dup := if !isChan c && wbit (conn s c).cfg 51 then m.msn % 2 ^ 24 else 0
  leBytes 4 src ++ leBytes 4 dup ++ leBytes 8 (if m.imm then m.immData + 2 ^ 32 else 0)

/-- The receive entry that a message has taken completes: with OK and the message's length, or, when the message has failed, with its own
status, the fragment that failed, and LENGTH 0 (R81, R83, R107, R109). The peer pages written go with it (R72). -/
def finishRecvEntry (s : State) (c : Nat) (m : RecvMsg) : State :=
  match m.recv with
  | none => s
  | some (q, i) =>
    entryDone (entryMod s q i (fun e => { e with writes := [(48, recvWord s c m)], leaves := m.leaves })) q i (m.own.getD m.status)
      (if m.own.isSome then 0 else m.len) m.ownFrag

/-- A received message is abandoned (R161, R185): its place in ADMITTED, its tracker and its placements go; a receive entry it had
taken completes with a status. -/
def abandonRecv (s : State) (c status : Nat) (m : RecvMsg) : State :=
  let s1 := dropPlacements s (connPath s c) m.pend
  let s2 := if m.counted then accessEnd s1 m.region else s1
  let s3 := finishRecvEntry s2 c { m with own := some (m.own.getD status) }
  if m.admitted && hasData m.opc && !m.complete then { s3 with tpe := { s3.tpe with trackers := s3.tpe.trackers - 1 } } else s3

/-- Who an outgoing message belongs to learns its status: an entry completes with the bytes moved, and the fragment that failed; Scarab and
a tile are told as soon as the device turns to its internal work. -/
def issuerDoneAt (s : State) (i : Issuer) (status len frag : Nat) : State :=
  match i with
  | .entry q x => entryDone s q x status len frag
  | .response => s
  | j => { s with atu := { s.atu with ready := s.atu.ready ++ [.issuerEnd j status] } }

/-- The same, where no fragment failed. -/
def issuerDone (s : State) (i : Issuer) (status len : Nat) : State := issuerDoneAt s i status len 0

/-- What an outgoing message has under way is aborted: its source reads, and the placements of its response (R148, R149, R213). -/
def endSend (s : State) (c : Nat) (m : SendMsg) : State := dropPlacements (endTransfers s m.reads) (connPath s c) m.rpend

/-- A response that is given up lets go of the region it reads (Table 6-6). -/
def leaveRegion (s : State) (m : SendMsg) : State := match m.region with | some r => accessEnd s r | none => s

/-- An outgoing message ends with a status. -/
def issuerStatus (s : State) (m : SendMsg) (status : Nat) : State := issuerDone (leaveRegion s m) m.by_ status 0

/-- The outgoing messages of a connection are gone; what they had under way is aborted. -/
def dropSends (s : State) (c : Nat) : State :=
  let ms := (conn s c).send
  let s1 := connMod (dropStages s c true (fun _ => true)) c (fun C => { C with send := [], flight := [] })
  ms.foldl (fun s m => leaveRegion (endSend s c m) m) s1

/-- Ends every outgoing message of a connection with a status. -/
def failSends (s : State) (c status : Nat) : State :=
  (conn s c).send.foldl (fun s m => issuerDone s m.by_ status 0) (dropSends s c)

/-- Ends every received message of a connection. -/
def failRecvs (s : State) (c status : Nat) : State :=
  let ms := (conn s c).recv
  let s1 := connMod s c (fun C => { C with recv := [] })
  let s2 := { s1 with tpe := { s1.tpe with early := s.tpe.early.filter (fun e => e.1 ≠ c) } }
  ms.foldl (fun s m => abandonRecv s c status m) (dropStages s2 c false (fun _ => true))

/-! ### Entries of a connection -/

/-- The opcode is a remote verb. -/
def isRemote (op : Nat) : Bool := decide (1 ≤ op ∧ op ≤ 7)

/-- The raw binding of a shared endpoint: its port and receive queue (R268). -/
def rawOf (s : State) (ep : Nat) : Option (Nat × Nat) :=
  ((List.range 256).find? (fun k =>
    let w := reg s Reg.EMAC_RXQ ((k / 64 + 1) * 64 + k % 64)
    wbit w 12 && decide (fld w 11 0 = ep))).map (fun k => (k / 64 + 1, k % 64))

/-- The raw binding behind a queue. -/
def queueRaw (s : State) (q : Nat) : Option (Nat × Nat) :=
  if bindType (queue s q) = 2 then rawOf s (bindId (queue s q)) else none

/-- The connection of a remote verb: the bound QP, or the channel to the DEST node on the fabric (R165). -/
def verbConn (s : State) (q : Nat) (e : Entry) : Nat :=
  if bindType (queue s q) = 1 then bindId (queue s q) else chanId 0 0 (nfld (ef e 40 4) 12 12) (nfld (ef e 40 4) 11 0)

/-- An entry of a queue has started and has not gone to the connection it is for. -/
def startedFor (s : State) (c q : Nat) (e : Entry) : Bool :=
  decide (e.phase = 1) && e.taken && !e.running && isRemote (opcode e) && (queueRaw s q).isNone && decide (verbConn s q e = c)

/-- What has started for a connection, and was not posted before it ended, finishes with the status of that end (R98). -/
def unpostedEnd (s : State) (c status : Nat) : State :=
  s.queues.foldl (fun s Q => (Q.2.entries.filter (startedFor s c Q.1)).foldl (fun s e => entryDone s Q.1 e.idx status 0 0) s) s

/-- The queues bound to a QP enter ERROR (Table 4-4, R175). -/
def boundQueuesError (s : State) (c status : Nat) : State :=
  s.queues.foldl (fun s e =>
    if decide (bindType e.2 = 1 ∧ bindId e.2 = c) && decide (e.2.st ≠ 0) then queueError s e.1 status else s) s

/-- The async event of a QP: class ACCESS, unit TPE (Table 21-2). -/
def qpEvent (s : State) (c status : Nat) : State := accessEvent s (connTenant s c) status 3 0 c 0

/-- A connection enters ERROR with a status (Table 7-2): what is under way ends with it, its queues enter ERROR, and credit that is
out is reclaimed. -/
def connError (s : State) (c status : Nat) : State :=
  if (conn s c).st = 0 ∨ (conn s c).st = 4 then s
  else
    let s1 := connMod s c (fun C => { C with st := 4, errStatus := status })
    let s2 := reclaimAll (failRecvs (failSends s1 c status) c status) c
    if isChan c then unpostedEnd s2 c status else boundQueuesError (unpostedEnd s2 c status) c status

/-- The context is cleared (Table 7-2); TPE_QCFG, TPE_QKEY, TPE_QTWIN and the fields of TPE_QCTL that software holds stay. -/
def connClear (s : State) (c : Nat) : State :=
  let s1 := reclaimAll (failRecvs (failSends s c Status.contextGone) c Status.contextGone) c
  connMod s1 c (fun C => { cfg := C.cfg, key := C.key, ctl := C.ctl, twin := C.twin })

/-! ### CONNECT cells (Table 7-1, R210) -/

/-- FLAGS of a connection: ENC, FAILOVER, TAKEOVER, CHANNEL. -/
def connFlags (s : State) (c : Nat) (takeover : Bool) : Nat :=
  if isChan c then 8 else b2n (wbit (conn s c).cfg 50) + b2n (wbit (conn s c).cfg 51) * 2 + b2n takeover * 4

/-- The payload of a CONNECT cell: Table 7-1 in bytes 0 to 23, the opening grant in bytes 24 to 31, zero to byte 63 (R171, R210). -/
def connectPayload (kind versions agreed src dst init resume flags status count life gseq : Nat) : List Byte :=
  beBytes 24 (kind % 16 * 2 ^ 188 + versions % 256 * 2 ^ 180 + agreed % 256 * 2 ^ 172 + src % 2 ^ 20 * 2 ^ 152 +
    dst % 2 ^ 20 * 2 ^ 132 + init % 2 ^ 32 * 2 ^ 96 + resume % 2 ^ 24 * 2 ^ 72 + flags % 256 * 2 ^ 64 + status % 256 * 2 ^ 56) ++
  beBytes 8 (count % 65536 * 2 ^ 48 + life % 65536 * 2 ^ 32 + gseq % 2 ^ 32) ++ List.replicate 32 0

/-- The fields of a received CONNECT payload. -/
structure Connect where
  kind : Nat
  versions : Nat
  agreed : Nat
  src : Nat
  dst : Nat
  init : Nat
  resume : Nat
  flags : Nat
  status : Nat
  count : Nat
  life : Nat
  gseq : Nat
deriving DecidableEq, Repr

/-- Reads a CONNECT payload. -/
def readConnect (b : List Byte) : Connect :=
  let n := beAt b 0 24
  let g := beAt b 24 8
  { kind := nfld n 191 188, versions := nfld n 187 180, agreed := nfld n 179 172, src := nfld n 171 152, dst := nfld n 151 132,
    init := nfld n 127 96, resume := nfld n 95 72, flags := nfld n 71 64, status := nfld n 63 56,
    count := nfld g 63 48, life := nfld g 47 32, gseq := nfld g 31 0 }

/-- The transport versions this device offers: TPE_VER_OFFER. -/
def tpeVersions : Nat := 6

/-- The version agreed from two bitmaps (R172): the highest set in both; 0 when there is none. -/
def agreeVersion (v : Nat) : Nat := if nbit v 2 then 2 else if nbit v 1 then 1 else 0

/-- The opening grant that a REQ or ACC carries (R210): counted once, at the first of the attempt, which also fixes its LIFETIME; 0 once its
window is over, or when the pool has no room. -/
def openingGrant (s : State) (c : Nat) : State × Nat × Nat × Nat :=
  let C := conn s c
  let p := connPath s c
  let n := fld (reg s Reg.CCS_GRANT_CFG p) 15 8
  match C.openGseq with
  | some g => (s, if C.openOver then 0 else C.openCount, C.openLife, g)
  | none =>
    let g := C.nextGseq
    let k := if grantOk s p n then n else 0
    let s1 := connMod s c (fun C => { C with openGseq := some g, openCount := k, openLife := lifetime s p, nextGseq := (g + 1) % 2 ^ 32 })
    (if k = 0 then s1 else grantOut s1 c g k, k, lifetime s p, g)

/-- Sends a CONNECT cell of a connection. -/
def sendConnect (s : State) (c kind status : Nat) (takeover : Bool) : State :=
  let C := conn s c
  let og := if kind = 0 ∨ kind = 1 then openingGrant s c else (s, 0, 0, 0)
  let b := connectPayload kind tpeVersions (if kind = 1 then C.ver else 0) (if isChan c then 0 else c)
    (if isChan c then 0 else fld C.cfg 32 13) C.initCsn C.resumeMsn (connFlags s c takeover) status og.2.1 og.2.2.1 og.2.2.2
  sendClass0 og.1 c { baseCell s c with opc := 0x12, plen := 64, payload := b }

/-- Draws INIT_CSN when Mayfly can serve (R174, R417). -/
def drawCsn (s : State) (c : Nat) : State :=
  if (conn s c).drawn || !s.rsp.entropyOk then s
  else
    let p := draw s
    let n := fld p.1 31 0
    connMod p.2 c (fun C => { C with drawn := true, initCsn := n, csn := n, peerCum := n })

/-- Sends a REQ, once INIT_CSN is drawn. -/
def sendReq (s : State) (c : Nat) : State :=
  let s1 := drawCsn s c
  if (conn s1 c).drawn then sendConnect s1 c 0 0 (conn s1 c).takenOver else s1

/-- Answers a node that has no connection here with a REJ (R173, R175). -/
def sendRej (s : State) (k : Packet) (src dst status : Nat) : State :=
  let c := chanId k.port k.ip k.cell.plane k.cell.snode
  let b := connectPayload 2 tpeVersions 0 src dst 0 0 0 status 0 0 0
  sendClass0 s c { baseCell s c with opc := 0x12, qpe := dst % 2 ^ 20, plen := 64, payload := b }

/-- The connection a packet is for, if it is one of this device: the QP named in QPE, or the channel of its source. -/
def packetConn (k : Packet) : Nat :=
  if k.chan then chanId k.port k.ip k.cell.plane k.cell.snode else k.cell.qpe % 2 ^ 20

/-- A cell for a QP in RESET or ERROR, or for no QP, is dropped and counted (R175). -/
def deadDrop (s : State) (k : Packet) : State :=
  bumpFn s Reg.TPE_DEAD_DROP (if k.chan then 0 else connTenant s (packetConn k))

/-- DEAD_CELL_REPLY (R175): the cell is dropped and counted, and a REJ with CONTEXT_GONE goes back, at most once per source node in
any 10 ms; the list of nodes answered holds node, time pairs. -/
def deadCell (s : State) (k : Packet) : State :=
  let c := packetConn k
  let s1 := deadDrop s k
  let key := k.cell.plane * 4096 + k.cell.snode
  if s1.tpe.dead.any (fun d => decide (d.1 = key ∧ s1.time < d.2 + 10000000)) then s1
  else
    let s2 := { s1 with tpe := { s1.tpe with dead := (key, s1.time) :: s1.tpe.dead.filter (fun d => d.1 ≠ key) } }
    sendRej s2 k (if k.chan then 0 else k.cell.qpe % 2 ^ 20) (if k.chan then 0 else fld (conn s2 c).cfg 32 13) Status.contextGone

/-! ### Register writes of a QP (R175, Tables 7-10 to 7-12) -/

/-- The QP that a function's TPE_QSEL names, when it is granted to the function's tenant (R203). -/
def selQp (s : State) (fn : Nat) : Option Nat :=
  let q := fld (reg s Reg.TPE_QSEL fn) 19 0
  if owner s 0x03 q = fn then some q else none

/-- A write of TPE_QCFG, TPE_QKEY or TPE_QTWIN: only in RESET. -/
def qpConfigWrite (s : State) (fn off : Nat) (value : W64) : State :=
  match selQp s fn with
  | none => s
  | some q =>
    if (conn s q).st ≠ 0 then s
    else if off = Reg.TPE_QCFG then connMod s q (fun C => { C with cfg := w64 (fld value 51 0) })
    else if off = Reg.TPE_QKEY then connMod s q (fun C => { C with key := fld value 9 0 })
    else if off = Reg.TPE_QTWIN then connMod s q (fun C => { C with twin := w64 (fld value 33 0) })
    else s

/-- The handle of a PATH 1 QP is valid, its tenant's, and names the QP's node (R264). -/
def handleOk (s : State) (q : Nat) : Bool :=
  let C := conn s q
  let w := ahWord s (qpAh C) 0
  !wbit C.cfg 12 || (wbit w 0 && decide (fld w 39 32 = connTenant s q) && decide (fld w 19 8 = fld C.cfg 11 0))

/-- Failover QPs that are not in RESET; a card holds at most 16,383 (R196). -/
def failoverQps (s : State) : Nat := (s.tpe.conns.filter (fun e => decide (e.2.st ≠ 0) && isFailover s e.1)).length

/-- CONNECT in RESET (R170, R264, Table 7-2). For a failover QP beyond the 16,383 that a card holds it does nothing (R196; what it does then is
not stated: DESIGN CHOICE, log 51). -/
def qpConnect (s : State) (q : Nat) : State :=
  let C := conn s q
  if C.st ≠ 0 ∨ (isFailover s q = true ∧ 16383 ≤ failoverQps s) then s
  else if !handleOk s q then
    qpEvent (connError (connMod s q (fun C => { C with st := 1 })) q Status.localProtection) q Status.localProtection
  else if nbit C.ctl 3 && wbit C.cfg 51 then connMod s q (fun C => { C with st := 5 })
  else sendReq (connMod s q (fun C => { C with st := 1 })) q

/-- An orderly close: with no started entry left, CLOSE is sent (Table 7-2). -/
def closeCheck (s : State) (c : Nat) : State :=
  let C := conn s c
  if C.st = 2 ∧ C.closing ∧ C.send.all (fun m => m.resp) then
    sendConnect (connMod s c (fun C => { C with st := 3 })) c 3 0 false
  else s

/-- A write of TPE_QCTL (Table 7-12). -/
def qpCtlWrite (s : State) (fn : Nat) (value : W64) : State :=
  match selQp s fn with
  | none => s
  | some q =>
    let s1 := connMod s q (fun C => { C with ctl := fld value 11 3 * 8 })
    let s2 := if wbit value 0 then qpConnect s1 q else s1
    let s3 := if wbit value 1 ∧ (conn s2 q).st = 2 then closeCheck (connMod s2 q (fun C => { C with closing := true })) q else s2
    if wbit value 2 ∧ ((conn s3 q).st = 4 ∨ (conn s3 q).st = 6) then connClear s3 q else s3

/-- QP_CONFIG_WRITE (R175). -/
def execQpConfigWrite (fn off : Nat) (value : W64) (s : State) : Host.Outcome State Fault Refusal :=
  let s := dropHeld s fn
  if blockUp s fn then .next (qpConfigWrite s fn off value) else .next s

/-- QP_CONNECT (R170): a write of TPE_QCTL with CONNECT set. -/
def execQpConnect (fn : Nat) (value : W64) (s : State) : Host.Outcome State Fault Refusal :=
  let s := dropHeld s fn
  if blockUp s fn && wbit value 0 then .next (qpCtlWrite s fn value) else .next s

/-- QP_CLOSE (R175): a write of TPE_QCTL with CLOSE set. -/
def execQpClose (fn : Nat) (value : W64) (s : State) : Host.Outcome State Fault Refusal :=
  let s := dropHeld s fn
  if blockUp s fn && wbit value 1 then .next (qpCtlWrite s fn value) else .next s

/-- QP_RESET (R175): a write of TPE_QCTL with RESET set. -/
def execQpReset (fn : Nat) (value : W64) (s : State) : Host.Outcome State Fault Refusal :=
  let s := dropHeld s fn
  if blockUp s fn && wbit value 2 then .next (qpCtlWrite s fn value) else .next s

/-! ### The CONNECT exchange -/

/-- CONNECT_RETRY_TIMER (R170): 100 µs without a REQ or ACC. -/
def execConnectRetryTimer (c : Nat) (s : State) : Host.Outcome State Fault Refusal :=
  if (conn s c).st = 1 then .next (sendReq s c) else .next s

/-- CONNECT_TIMEOUT (R175): 1 s in CONNECTING. -/
def execConnectTimeout (c : Nat) (s : State) : Host.Outcome State Fault Refusal :=
  if (conn s c).st = 1 then
    .next (qpEvent (connError s c Status.peerUnreachable) c Status.peerUnreachable)
  else .next s

/-- Why a REQ is refused (R173), in its order: none when it passes. -/
def reqRefused (s : State) (k : Packet) (r : Connect) (c : Nat) : Option Nat :=
  let C := conn s c
  let takeover := nbit r.flags 2
  let enc := nbit r.flags 0
  let fo := nbit r.flags 1
  let v := agreeVersion (Nat.land r.versions tpeVersions)
  if k.chan then (if v = 0 then some Status.versionMismatch else none)
  else if connNode s c ≠ k.cell.snode ∨ fld C.cfg 32 13 ≠ r.src ∨ connPath s c ≠ k.port ∨
      !(C.st = 1 || C.st = 2 || (C.st = 5 && takeover)) then some Status.contextGone
  else if !tenantActive s (connTenant s c) then some Status.contextGone
  else if v = 0 ∨ (v = 1 ∧ (enc || fo || wbit C.cfg 50 || wbit C.cfg 51) = true) then some Status.versionMismatch
  else if enc ≠ wbit C.cfg 50 ∨ fo ≠ wbit C.cfg 51 then some Status.localProtection
  else none

/-- A REQ or ACC is accepted: version, the peer's first CSN, the opening grant; a CONNECTING end becomes READY. -/
def acceptPeer (s : State) (c : Nat) (r : Connect) (ver : Nat) : State :=
  let first := !(conn s c).gotPeer
  let s1 := connMod s c (fun C => if first then
      { C with gotPeer := true, ver := ver, peerInit := r.init, cum := r.init, st := if C.st = 1 then 2 else C.st }
    else C)
  demandCheck (takeOpening s1 c r.gseq r.count) c

/-- A channel context for a new peer: 65,536 at most, the least recently used idle one closed for it; a message that must wait for one is
counted for its tenant (Table 7-9, R203). -/
def openChannel (s : State) (c t : Nat) : State × Bool :=
  if (conn s c).st ≠ 0 then (s, true)
  else
    let chans := s.tpe.conns.filter (fun e => isChan e.1)
    let put := fun (s : State) => connMod s c (fun C => { C with st := 1 })
    if chans.length < 65536 then (put s, true)
    else match chans.find? (fun e => e.2.send = [] ∧ e.2.recv = []) with
      | some e => (put (connClear s e.1), true)
      | none => (bumpFn s Reg.TPE_CHAN_WAIT t, false)

/-- The twin's mirror record and mirrored response-cache entries become the receive state of a STANDBY QP (R201 step 2), as far as the cache
has room (R194). -/
def loadMirror (s : State) (c : Nat) : State :=
  let p := currentMirror s (mirrorSlot s c)
  let s1 := connMod p.1 c (fun C => { C with done := p.2.recvDone, rqNext := p.2.rqNext, st := 1 })
  { s1 with tpe := { s1.tpe with rcache := s1.tpe.rcache ++ (mirroredEntries s1 c).take (65536 - s1.tpe.rcache.length) } }

/-- CONNECT_REQ_RECEIVE (R173, R174, R201): checked, and answered with ACC or REJ. -/
def connectReq (s : State) (k : Packet) : State :=
  let r := readConnect k.cell.payload
  let c := if k.chan then packetConn k else r.dst
  let o := if k.chan then openChannel s c 0 else (s, true)
  if !o.2 then o.1
  else
    let s0 := o.1
    match reqRefused s0 k r c with
    | some st =>
      sendRej (if (conn s0 c).st = 0 ∨ (conn s0 c).st = 4 then deadDrop s0 k else s0) k r.dst r.src st
    | none =>
      let s1 := if (conn s0 c).st = 5 then loadMirror s0 c else s0
      if (conn s1 c).drawn && decide ((conn s1 c).initCsn = r.init) && !(conn s1 c).gotPeer then
        sendReq (connMod s1 c (fun C => { C with drawn := false })) c
      else
        let s2 := drawCsn s1 c
        if !(conn s2 c).drawn then s2
        else sendConnect (acceptPeer s2 c r (agreeVersion (Nat.land r.versions tpeVersions))) c 1 0 false

/-- CONNECT_REQ_RECEIVE. -/
def execConnectReqReceive (k : Packet) (s : State) : Host.Outcome State Fault Refusal :=
  if running s then .next (connectReq s k) else .next s

/-- The QP is the one whose peer sent a CONNECT answer. -/
def answersTo (s : State) (k : Packet) (r : Connect) (c : Nat) : Bool :=
  decide (connNode s c = k.cell.snode ∧ fld (conn s c).cfg 32 13 = r.src ∧ connPath s c = k.port)

/-- The connection that a CONNECT answer is for, if its peer sent it. A REJ that answers a cell may not know the number of the QP that
sent it (R175): the QP whose peer it names is meant. -/
def answerConn (s : State) (k : Packet) : Option Nat :=
  let r := readConnect k.cell.payload
  if k.chan then some (packetConn k)
  else if answersTo s k r r.dst then some r.dst
  else if r.kind = 2 then (s.tpe.conns.find? (fun e => !isChan e.1 && decide (e.2.st ≠ 0) && answersTo s k r e.1)).map (·.1)
  else none

/-- The QP that a CONNECT answer addresses is in RESET or ERROR, or is no QP. -/
def deadTarget (s : State) (k : Packet) : Bool :=
  let q := (readConnect k.cell.payload).dst
  !k.chan && decide ((conn s q).st = 0 ∨ (conn s q).st = 4)

/-- A connection in RESET or ERROR answers a cell with a REJ, whoever sent it (R175); another state runs f, for the peer's cells only. -/
def answered (s : State) (k : Packet) (f : Nat → State) : State :=
  match answerConn s k with
  | none => if deadTarget s k then deadCell s k else s
  | some c =>
    if (conn s c).st = 0 ∨ (conn s c).st = 4 then deadCell s k else f c

/-- CONNECT_ACC_RECEIVE (R170, R173): the connection is complete. -/
def execConnectAccReceive (k : Packet) (s : State) : Host.Outcome State Fault Refusal :=
  let r := readConnect k.cell.payload
  .next (if !running s then s else answered s k (fun c =>
    if (conn s c).st ≠ 1 ∧ (conn s c).st ≠ 2 then s
    else match reqRefused s k r c with
      | some _ => s
      | none => acceptPeer s c r r.agreed))

/-- CONNECT_REJ_RECEIVE (Table 7-2). A REJ to a QP in RESET or ERROR is answered as any other cell is (R175). -/
def execConnectRejReceive (k : Packet) (s : State) : Host.Outcome State Fault Refusal :=
  let r := readConnect k.cell.payload
  .next (if !running s then s else answered s k (fun c =>
      if (conn s c).st = 1 then qpEvent (connError s c r.status) c r.status
      else if (conn s c).st = 2 then connError (sendConnect s c 4 0 false) c Status.contextGone
      else s))

/-- CONNECT_CLOSE_RECEIVE (Table 7-2): unfinished entries complete with CONTEXT_GONE and CLOSE_ACK goes back; a channel's context
is cleared. -/
def execConnectCloseReceive (k : Packet) (s : State) : Host.Outcome State Fault Refusal :=
  .next (if !running s then s else answered s k (fun c =>
    if (conn s c).st = 2 then
      let s1 := connError (sendConnect s c 4 0 false) c Status.contextGone
      if isChan c then connClear s1 c else s1
    else if (conn s c).st = 3 then sendConnect s c 4 0 false
    else s))

/-- CLOSE_ACK_RECEIVE (Table 7-2). -/
def execCloseAckReceive (k : Packet) (s : State) : Host.Outcome State Fault Refusal :=
  .next (if !running s then s else answered s k (fun c => if (conn s c).st = 3 then connClear s c else s))

/-- CLOSING_TIMEOUT (Table 7-2): 1 ms in CLOSING. -/
def execClosingTimeout (c : Nat) (s : State) : Host.Outcome State Fault Refusal :=
  if (conn s c).st = 3 then .next (connClear s c) else .next s

/-- CHANNEL_IDLE_TIMEOUT (R165): 10 ms without traffic closes a channel. -/
def execChannelIdleTimeout (c : Nat) (s : State) : Host.Outcome State Fault Refusal :=
  if isChan c ∧ (conn s c).st = 2 ∧ (conn s c).send = [] ∧ (conn s c).recv = [] then
    .next (sendConnect (connMod s c (fun C => { C with st := 3 })) c 3 0 false)
  else .next s

/-! ### Context cache and cores (R166 to R169) -/

/-- Contexts of a core that the cache may hold. -/
def coreContexts : Nat := 1024

/-- The logical core of a connection (R167). -/
def coreOf (c : Nat) : Nat := if isChan c then (c - 2 ^ 20) % 4096 % 32 else c % 32

/-- A context has no message under way. -/
def idleContext (s : State) (c : Nat) : Bool := (conn s c).send.isEmpty && (conn s c).recv.isEmpty

/-- The cached contexts of a core, the last used first. -/
def coreCached (s : State) (core : Nat) : List Nat := s.tpe.cached.filter (fun x => decide (coreOf x = core))

/-- The cached context that a new one of the same core replaces: the least recently used idle one (R166). -/
def replaced (s : State) (c : Nat) : Option Nat := (coreCached s (coreOf c)).reverse.find? (idleContext s)

/-- A fetch of a context may start: the core has fewer than 8 outstanding, and the cache has room for it or an idle context to write back. -/
def mayFetch (s : State) (c : Nat) : Bool :=
  decide ((s.tpe.fetching.filter (fun x => decide (coreOf x = coreOf c))).length < 8) &&
  (decide ((coreCached s (coreOf c)).length < coreContexts) || (replaced s c).isSome)

/-- A context is used (R166): it becomes the last used, or the miss is counted and its fetch starts. -/
def touchContext (s : State) (c : Nat) : State :=
  if s.tpe.cached.contains c then { s with tpe := { s.tpe with cached := c :: s.tpe.cached.filter (· ≠ c) } }
  else if s.tpe.fetching.contains c || !mayFetch s c then s
  else bumpFn { s with tpe := { s.tpe with fetching := s.tpe.fetching ++ [c] } } Reg.TPE_CTX_MISS (connTenant s c)

/-- CONTEXT_FETCH_COMPLETE (R166): the context enters the cache of its core, in place of the least recently used idle one, which is written
back; with none idle it waits. State holds a context as its fields; the layout of its 256 bytes in HBM3E is not given (DESIGN CHOICE, log 51). -/
def execContextFetchComplete (c : Nat) (s : State) : Host.Outcome State Fault Refusal :=
  let put := fun (l : List Nat) => { s with tpe := { s.tpe with cached := c :: l, fetching := s.tpe.fetching.filter (· ≠ c) } }
  if s.tpe.cached.contains c then .next s
  else if (coreCached s (coreOf c)).length < coreContexts then .next (put s.tpe.cached)
  else match replaced s c with
    | none => .next s
    | some x => .next (put (s.tpe.cached.filter (· ≠ x)))

/-- The tenants whose messages a connection carries. -/
def carried (s : State) (c : Nat) : List Nat :=
  if isChan c then ((conn s c).send.map (·.tenant)).eraseDups else [connTenant s c]

/-- The status that QPs and channels of a failed core end with: the spec names none, so it is free among the codes of Table 5-8 other than
OK (log 51). -/
def coreFailCode : Nat := 1 + Config.coreFailStatus % 19

/-- A connection of a core that failed for good enters ERROR, and each tenant that it carried messages of gets an async event. -/
def coreLost (s : State) (c : Nat) : State :=
  let ts := carried s c
  ts.foldl (fun s t => accessEvent s t coreFailCode 3 0 (if isChan c then 0 else c) 0) (connError s c coreFailCode)

/-- The cells that a core had in build are lost, and their units are sent again (R169). -/
def buildLost (s : State) (c : Nat) : State :=
  let ms := (conn s c).send
  let s1 := connMod s c (fun C => { C with send := C.send.map (fun m =>
    { m with reads := [], held := [], reReads := [],
             retx := m.retx ++ (m.reads.flatMap (fun x => (List.range (unitsOf x.len)).map (· + x.key))).filter (fun o => !m.retx.contains o) }) })
  ms.foldl (fun s m => endTransfers s m.reads) s1

/-- TRANSPORT_CORE_FAILURE (R169): a spare takes the logical core, and the activation is logged; what the core had in build since its last
switch is lost, and sent again. With no spare left its QPs and channels enter ERROR, and each affected tenant receives an async event. -/
def execTransportCoreFailure (core : Nat) (s : State) : Host.Outcome State Fault Refusal :=
  if 32 ≤ core then .next s
  else if 0 < s.tpe.spares then
    let mine := (s.tpe.conns.filter (fun e => decide (coreOf e.1 = core))).map (·.1)
    let s0 := mine.foldl buildLost s
    let s1 := { s0 with tpe := { s0.tpe with spares := s.tpe.spares - 1 } }
    .next (spareReport s1 1 3 core s1.tpe.spares (some (34 - s.tpe.spares)))
  else
    let s1 := report (spareReport { s with tpe := { s.tpe with failed := s.tpe.failed ++ [core] } } 1 3 core 0 none)
      { cls := 0x13, sev := 3, unit := 3, code := 4, inst := core }
    let cs := (s.tpe.conns.filter (fun e => decide (coreOf e.1 = core ∧ e.2.st ≠ 0 ∧ e.2.st ≠ 4))).map (·.1)
    .next (cs.foldl coreLost s1)

end Sys2Proof.Machine
end

