-- ==== Sys2Proof/Machine/Verbs.lean ====
section
/-! DEFINITION. The verbs (chapter 5): the checks of R131 when an entry starts, indirect entries, posting a remote verb to its
connection, and the local verbs INVALIDATE, FENCE, REGISTER and REVOKE. -/
namespace Sys2Proof.Machine

/-! ### Step 1 of R131: form -/

/-- The flags a verb accepts (Table 5-9): FENCE 1, IMM 2, INDIRECT 4, INLINE 8. -/
def acceptFlags (op : Nat) : Nat :=
  match op with
  | 0x01 => 15
  | 0x02 => 5
  | 0x03 => 15
  | 0x05 => 11
  | 0x07 => 9
  | 0x30 => 4
  | _ => 1

/-- Opcodes of Table 5-2 that ABI 1 has. -/
def abi1Ops : List Nat := [0x01, 0x02, 0x03, 0x04, 0x11, 0x20, 0x21, 0x22, 0x23, 0x30]

/-- Opcodes of Table 5-2 that only ABI 2 has. -/
def abi2Ops : List Nat := [0x05, 0x06, 0x07, 0x10, 0x24]

/-- Fields that must be 0, as (byte offset, bytes, high bit, low bit) (R102, R103, Tables 5-3 to 5-7). Bytes 8 to 15 hold the
command word; the IMM_DATA and DEST rules are in `formBad`. -/
def mustZero (op : Nat) : List (Nat × Nat × Nat × Nat) :=
  match op with
  | 0x01 => [(44, 4, 31, 0), (48, 8, 63, 0), (56, 8, 63, 0)]
  | 0x02 => [(44, 4, 31, 0), (48, 8, 63, 0), (56, 8, 63, 0)]
  | 0x03 => [(24, 8, 63, 0), (32, 4, 31, 0), (44, 4, 31, 0), (48, 8, 63, 0), (56, 8, 63, 0)]
  | 0x04 => [(44, 4, 31, 4)]
  | 0x05 => [(44, 4, 31, 8), (48, 8, 63, 0), (56, 8, 63, 0)]
  | 0x06 => [(44, 4, 31, 8), (56, 8, 63, 13)]
  | 0x07 => [(24, 8, 63, 0), (44, 4, 31, 25), (56, 8, 63, 16)]
  | 0x10 => [(32, 4, 31, 12), (36, 8, 63, 0), (44, 4, 31, 13), (56, 8, 63, 32)]
  | 0x11 => [(32, 4, 31, 10), (36, 8, 63, 0), (44, 4, 15, 3)]
  | 0x20 => [(32, 4, 31, 0), (36, 8, 63, 0), (44, 4, 31, 1), (48, 8, 63, 0), (56, 8, 63, 0)]
  | 0x21 => [(16, 8, 63, 0), (24, 8, 63, 0), (32, 4, 31, 0), (36, 8, 63, 0), (44, 4, 31, 1), (48, 8, 63, 0), (56, 8, 63, 0)]
  | 0x22 => [(36, 8, 63, 0), (44, 4, 15, 6), (44, 4, 31, 26), (48, 8, 63, 0), (56, 8, 63, 0)]
  | 0x23 => [(16, 8, 63, 0), (24, 8, 63, 0), (36, 8, 63, 0), (44, 4, 31, 0), (48, 8, 63, 0), (56, 8, 63, 0)]
  | 0x24 => [(16, 8, 63, 0), (24, 8, 63, 0), (32, 4, 31, 0), (36, 8, 63, 0), (44, 4, 7, 2), (44, 4, 31, 16), (56, 8, 63, 0)]
  | 0x30 => [(24, 8, 63, 0), (32, 8, 63, 0), (40, 8, 63, 0)]
  | _ => []

/-- An operator and a format go together (R114): known codes, and no bitwise operator on a floating-point format. -/
def opFmtOk (op fmt : Nat) : Bool := decide (op ≤ 5) && decide (fmt ≤ 4) && (decide (op < 3) || decide (3 ≤ fmt))

/-- Word w of kernel table entry k (Table 13-2). -/
def kent (s : State) (k w : Nat) : W64 := reg s (Reg.TGD_KENTw + 8 * w) k

/-- The group that a COLLECTIVE names is VALID and its tenant's (R118, R305). -/
def groupOf (s : State) (t : Nat) (e : Entry) : Bool :=
  let g := nfld (ef e 32 4) 11 0
  wbit (gent s g 0) 0 && decide (fld (gent s g 0) 15 8 = t)

/-- N × E of a COLLECTIVE: the elements that its buffer must hold a whole number of (R305). -/
def groupUnit (s : State) (e : Entry) : Nat :=
  let w := gent s (nfld (ef e 32 4) 11 0) 0
  let fmt := nfld (ef e 44 4) 7 4
  let kind := nfld (ef e 44 4) 11 8
  (fld w 19 16 + 1) * (fld w 31 20 + 1) * (fld w 37 32 + 1) *
  (if kind = 2 ∨ kind = 3 then 8192 / max 1 (fmtBytes fmt) else if fmt = 4 then 1024 else 2048)

/-- Step 1 of R131: opcode, queue kind, ABI, flags, reserved fields (R90, R102, R103, R196, R271). -/
def formBad (s : State) (q : Nat) (e : Entry) : Bool :=
  let Q := queue s q
  let op := opcode e
  let abi := (fnGet s (queueOwner s q)).abi
  let known := abi1Ops.contains op || (abi2Ops.contains op && decide (abi ≠ 1))
  let flags := nfld (ef e 8 4) 11 8
  let dest := ef e 40 4
  !known || decide (nfld (ef e 8 4) 15 12 ≠ 0) || decide (Nat.land flags (15 - acceptFlags op) ≠ 0) ||
  (flag e 11 && (flag e 10 || !e.inl)) || (flag e 11 && decide (ef e 16 8 ≠ 0)) ||
  (mustZero op).any (fun m => decide (nfld (ef e m.1 m.2.1) m.2.2.1 m.2.2.2 ≠ 0)) ||
  (isRemote op && !flag e 9 && decide (ef e 36 4 ≠ 0)) ||
  (isRemote op && (if bindType Q = 2 then decide (nfld dest 15 13 ≠ 0 ∨ nfld dest 31 28 ≠ 0) else decide (dest ≠ 0))) ||
  (if op = 0x30 then !isRecvQ Q || e.inl else isRecvQ Q) ||
  (isRemote op && !(bindType Q = 1 || bindType Q = 2)) ||
  (!isRemote op && decide (op ≠ 0x30) && decide (bindType Q = 1) && wbit (conn s (bindId Q)).cfg 51) ||
  (decide (op = 0x10) && (decide (4 < nfld (ef e 44 4) 11 8) || !opFmtOk (nfld (ef e 44 4) 3 0) (nfld (ef e 44 4) 7 4) ||
    (nbit (ef e 44 4) 12 && !decide (nfld (ef e 44 4) 3 0 = 0 ∧ nfld (ef e 44 4) 7 4 ≤ 2)))) ||
  (match queueRaw s q with
   | none => false
   | some _ => decide (op ≠ 0x30) && (decide (op ≠ 0x03) || flag e 9 || decide (dest ≠ 0)))

/-! ### Steps 2 and 3: units, lengths, alignment -/

/-- Step 2: a needed unit is absent on this device. -/
def unitBad (s : State) (e : Entry) : Bool :=
  decide (opcode e = 0x22) && nbit (ef e 44 4) 4 && decide (tileCount s.variant = 0)

/-- Step 3: lengths, counts, alignment (R91, R92, R111, R114 to R121, R124, R132, R271). The spec names no status for a LENGTH or a RADDR of a
REDUCE-WRITE that is no multiple of the element size (LOCAL_LENGTH and BAD_DESCRIPTOR here), for an AOP of 5 to 15 and for a TOP of 3
(BAD_DESCRIPTOR both, the latter before the tests of LOCAL_PROTECTION): DESIGN CHOICE, log 52. -/
def lengthBad (s : State) (q : Nat) (e : Entry) : Option Nat :=
  let n := elen e
  let len := some Status.localLength
  let bad := some Status.badDescriptor
  let varg := ef e 44 4
  let raw := queueRaw s q
  if flag e 10 then
    (if n = 0 ∨ 4096 < n then len else if ef e 16 8 % 16 ≠ 0 then bad else none)
  else if opcode e ≠ 0x04 ∧ 2 ^ 30 < n then len
  else if flag e 11 ∧ 192 < n then len
  else match opcode e with
    | 0x03 => (match raw with
        | some (p, _) => if fld (reg s Reg.EMAC_FRAME p) 13 0 < n + 4 then len else none
        | none => none)
    | 0x04 => if n ≠ 8 ∨ ef e 24 8 % 8 ≠ 0 ∨ ef e 16 8 % 8 ≠ 0 ∨ 4 < nfld varg 3 0 ∨ (nfld varg 3 0 ≠ 1 ∧ ef e 56 8 ≠ 0) then bad else none
    | 0x05 =>
      let w := fmtBytes (nfld varg 7 4)
      if opFmtOk (nfld varg 3 0) (nfld varg 7 4) = false then bad
      else if n % w ≠ 0 then len else if ef e 24 8 % w ≠ 0 then bad else none
    | 0x06 =>
      let w := fmtBytes (nfld varg 7 4)
      let k := nfld (ef e 56 8) 12 0
      if opFmtOk (nfld varg 3 0) (nfld varg 7 4) = false then bad
      else if k = 0 ∨ 4096 < k ∨ n < 4 ∨ 2 ^ 20 < n ∨ n % w ≠ 0 then len else none
    | 0x07 => if 4096 < n ∨ 2 ^ 24 < nfld varg 24 0 then len else none
    | 0x10 =>
      let w := max 1 (fmtBytes (nfld varg 7 4))
      if groupOf s (queueOwner s q) e ∧ (n % w ≠ 0 ∨ n / w % groupUnit s e ≠ 0) then len else none
    | 0x11 =>
      if (nfld varg 1 0 = 0 ∧ n % 16 ≠ 0) ∨ (nfld varg 1 0 = 3 ∧ n < nfld varg 31 16) then len else none
    | 0x20 => if n ≠ 0 then len
              else if ef e 16 8 % 65536 ≠ 0 ∨ ef e 24 8 % 65536 ≠ 0 then bad else none
    | 0x21 => if n ≠ 0 then len else none
    | 0x22 => if n ≠ 0 ∨ ef e 24 8 = 0 ∨ 2 ^ 48 < ef e 24 8 then len else none
    | 0x23 => if n ≠ 0 then len else none
    | 0x24 => if n ≠ 0 then len else if nfld varg 1 0 = 3 then bad else none
    | _ => none

/-! ### Step 4: local contexts, keys, regions, groups, classes -/

/-- A key slot (Table 17-3). -/
def keySlot (s : State) (k : Nat) : KeySlot := tget (fun _ => {}) s.cph.slots k

/-- A tenant may use a key slot. -/
def slotUsable (s : State) (k t : Nat) : Bool := decide ((keySlot s k).st = 1 ∧ (keySlot s k).owner = t)

/-- A region index is within reach of a tenant (R121, R122, R154). -/
def indexOk (s : State) (i t : Nat) : Bool := decide (i ≠ 0 ∧ i < regionCount s) && decide (regionOwner s i = t)

/-- CLASS of a QP (Table 8-6). -/
def qpClass (s : State) (c : Nat) : Nat := fld (reg s Reg.CCS_QCFG c) 5 0

/-- The class a remote verb sends in: the QP's, the raw binding's, or the lowest weighted class of the tenant; none when it may not
start (R215, R218, R271). -/
def verbClass (s : State) (q : Nat) (e : Entry) : Option Nat :=
  let t := queueOwner s q
  match queueRaw s q with
  | some (p, x) =>
    let k := fld (reg s Reg.EMAC_RXQ (p * 64 + x)) 18 13
    if !classOf s p k t || clsClosed s p k then none else some k
  | none =>
    if bindType (queue s q) = 1 then
      let c := bindId (queue s q)
      let k := qpClass s c
      if !classOf s (connPath s c) k t || clsClosed s (connPath s c) k then none else some k
    else lowestClass s (connPath s (verbConn s q e)) t

/-- The part of step 4 that needs no translation: true when the entry fails with LOCAL_PROTECTION (R73, R101, R118, R119, R121 to
R123, R215, R218, R330). -/
def protectionBad (s : State) (q : Nat) (e : Entry) : Bool :=
  let t := queueOwner s q
  let varg := ef e 44 4
  decide (ctxOwner s (dctx e) ≠ t) || (flag e 11 && sealed s t) || (isRemote (opcode e) && (verbClass s q e).isNone) ||
  (match opcode e with
   | 0x10 => !groupOf s t e
   | 0x11 => !slotUsable s (nfld (ef e 32 4) 9 0) t
   | 0x22 => !indexOk s (nfld (ef e 32 4) 23 0) t || (nbit varg 4 && decide (fld (kent s (nfld varg 25 16) 0) 15 8 ≠ t))
   | 0x23 => !indexOk s (nfld (ef e 32 4) 23 0) t
   | 0x24 => decide (t ≠ 0) || decide (nfld varg 15 8 = 0 ∨ 253 ≤ nfld varg 15 8)
   | _ => false)

/-- What a translation at start finds: all good, a table word still needed, or a status. -/
inductive Start
  | ok
  | need (addr : Nat)
  | fail (status : Nat)
deriving DecidableEq, Repr

/-- Translates the first 64 KiB of each range of an entry (R145, R146); a sealed range on the bus needs an aligned start (R409). -/
def startRanges (s : State) (t c : Nat) : List (Nat × Nat × Use) → State × Start
  | [] => (s, .ok)
  | (a, n, u) :: r =>
    if n = 0 then startRanges s t c r
    else match dmaXlate s t c a (min n 65536) u with
      | (s1, .need w) => (s1, .need w)
      | (s1, .fail st _) => (s1, .fail st)
      | (s1, .ok _) =>
        if sealed s1 t && leadsToBus s1 c a && decide (a % 64 ≠ 0) then (s1, .fail Status.badDescriptor)
        else startRanges s1 t c r

/-! ### Step 5: route and peer version -/

/-- The verb's RADDR lies beyond every region, whose length is at most 2^48 (R121), and beyond the 48 bits of a head. -/
def raddrBad (e : Entry) : Bool := [0x01, 0x02, 0x04, 0x05, 0x06].contains (opcode e) && decide (2 ^ 48 ≤ ef e 24 8)

/-- Step 5: the plane of DEST (R104), the agreed version (R133); and an offset that no region of any target can hold, which the target would
refuse (R105; it is refused here since no head can carry it: DEDUCED, log 52). -/
def routeBad (s : State) (q : Nat) (e : Entry) : Option Nat :=
  let op := opcode e
  if !isRemote op || (queueRaw s q).isSome then none
  else if bindType (queue s q) = 2 ∧ nfld (ef e 40 4) 12 12 ≠ ownPlane s then some Status.peerUnreachable
  else if (conn s (verbConn s q e)).ver = 1 ∧ 5 ≤ op then some Status.versionMismatch
  else if raddrBad e then some Status.remoteAccess
  else none

/-! ### ENTRY_START -/

/-- The queue order lets an entry start (R125, R126): every earlier entry has started; a FENCE flag, a FENCE verb of SCOPE 0, or one
that is not finished before it, wait for what came before. -/
def mayStart (Q : QueueC) (e : Entry) : Bool :=
  let before := (List.range (e.idx - Q.hd)).map (· + Q.hd)
  let fin := fun i => Q.entries.any (fun x => decide (x.idx = i ∧ 3 ≤ x.phase))
  before.all (fun i => Q.entries.any (fun x => decide (x.idx = i ∧ 1 ≤ x.phase))) &&
  (!(flag e 8 || isFence0 e) || before.all fin) &&
  Q.entries.all (fun x => !(decide (x.idx < e.idx) && isFence0 x && decide (x.phase < 3)))

/-- The connection takes no new message: not connected yet, closing, or standing by (Table 7-2). -/
def connWaits (C : Conn) : Bool := decide (C.st ≠ 2) || C.closing

/-- A channel takes a message now. -/
def chanOpen (s : State) (c : Nat) : Bool := !connWaits (conn s c) && decide ((conn s c).send.length < 4096)

/-- A channel that was agreed at version 1 carries no fabric-address access (R172). -/
def fabOld (s : State) (c : Nat) : Bool := decide ((conn s c).st = 2 ∧ (conn s c).ver = 1)

/-- Opens the channel that a tenant's message needs (R165). -/
def wakeChannel (s : State) (c t : Nat) : State :=
  if !isChan c then s
  else
    let s0 := if (conn s c).st = 4 then connClear s c else s
    if (conn s0 c).st = 0 then
      let p := openChannel s0 c t
      if p.2 then sendReq p.1 c else p.1
    else s0

/-- The entries of a function that have started and not finished, but for one: what a FENCE of SCOPE 1 waits for (R126). -/
def functionWork (s : State) (t q idx : Nat) : List (Nat × Nat) :=
  s.queues.foldl (fun l e =>
    if queueOwner s e.1 = t then
      l ++ ((e.2.entries.filter (fun x => decide ((x.phase = 1 ∨ x.phase = 2) ∧ ¬(e.1 = q ∧ x.idx = idx)))).map (fun x => (e.1, x.idx)))
    else l) []

/-- The local segments of an entry in table order: its fragments, or LADDR and LENGTH. -/
def entrySegs (e : Entry) : List (Nat × Nat) :=
  match e.frags with
  | some fs => fs.map (fun f => (f.addr, f.len))
  | none => [(ef e 16 8, elen e)]

/-- An entry has passed every check: it has started. -/
def markStarted (s : State) (q idx : Nat) : State :=
  match entry s q idx with
  | none => s
  | some e =>
    let w := if opcode e = 0x21 ∧ nbit (ef e 44 4) 0 then functionWork s (queueOwner s q) q idx else []
    let s1 := ((entrySegs e) ++ (localRanges s e).map (fun r => (r.1, r.2.1))).foldl (fun s r => forgetRecords s (dctx e) r.1) s
    entryMod s1 q idx (fun e => { e with phase := 1, taken := true, waits := w })

/-- An entry that fails at start completes with its status; it has started, so that later entries may. -/
def startFails (s : State) (q idx status frag : Nat) : State := entryDone s q idx status 0 frag

/-- The entry's stamp is stale, or of another epoch than its context has now (R146). -/
def isStale (s : State) (e : Entry) : Bool := e.stale || decide (e.epoch ≠ (ctx s (dctx e)).epoch.toNat)

/-- An entry that is translated again at its start is counted in ATU_STALE (R146). -/
def noteStale (s : State) (t : Nat) (stale : Bool) : State := if stale then bumpFn s Reg.ATU_STALE t else s

/-- Issues the fragment-table read of an indirect entry (R92, R93). -/
def readFragments (s : State) (q : Nat) (e : Entry) : State :=
  let t := queueOwner s q
  match issueRead s t (dctx e) (ef e 16 8) (16 * elen e) 0 (.fragTable q e.idx) with
  | (s1, .ok x) => entryMod (noteStale s1 t (isStale s e)) q e.idx (fun e => { e with phase := 1, tblRead := some x })
  | (s1, .need a) => stall s1 (dctx e) a (.entryStart q e.idx)
  | (s1, .fail st) => startFails (noteStale s1 t (isStale s e)) q e.idx st 0

/-- The checks of R131 in order, for an entry that may start. -/
def startEntry (s : State) (q : Nat) (e : Entry) : State :=
  let t := queueOwner s q
  if formBad s q e then startFails s q e.idx Status.badDescriptor 0
  else if unitBad s e then startFails s q e.idx Status.unitAbsent 0
  else match lengthBad s q e with
    | some st => startFails s q e.idx st 0
    | none =>
      if protectionBad s q e then
        startFails (if opcode e = 0x11 ∧ ctxOwner s (dctx e) = t then bumpFn s Reg.CPH_SLOT_MISS t else s) q e.idx
          Status.localProtection 0
      else if flag e 10 then readFragments s q e
      else
        let stale := isStale s e
        match (if stale then startRanges s t (dctx e) (localRanges s e) else (s, .ok)) with
        | (s1, .need a) => stall s1 (dctx e) a (.entryStart q e.idx)
        | (s1, r) =>
          let s2 := noteStale s1 t stale
          match r with
          | .fail st => startFails s2 q e.idx st 0
          | _ => match routeBad s2 q e with
            | some st => startFails s2 q e.idx st 0
            | none => markStarted s2 q e.idx

/-- A remote entry waits for its connection: the bound QP, or the channel of its DEST on this card's plane. -/
def waitsConn (s : State) (q : Nat) (e : Entry) : Bool :=
  isRemote (opcode e) && !formBad s q e && (queueRaw s q).isNone &&
  decide (bindType (queue s q) = 1 ∨ nfld (ef e 40 4) 12 12 = ownPlane s) && connWaits (conn s (verbConn s q e))

/-- A shared-endpoint entry waits for its channel, which is opened for it. One that has waited for an attempt to connect and finds that it
failed completes with what it failed with (R131 step 5). -/
def awaitChannel (s : State) (q : Nat) (e : Entry) : State :=
  let c := verbConn s q e
  if isChan c ∧ (conn s c).st = 4 ∧ e.waits = [(c, 0)] then
    startFails s q e.idx (if (conn s c).errStatus = Status.versionMismatch then Status.versionMismatch else Status.peerUnreachable) 0
  else wakeChannel (entryMod s q e.idx (fun e => { e with waits := [(c, 0)] })) c (queueOwner s q)

/-- ENTRY_START (R125, R126, R131, R146, R149): an entry whose turn has come is checked and starts. It waits for its connection, and
an INVALIDATE waits while four epochs are tracked. -/
def entryStart (s : State) (q idx : Nat) : State :=
  let Q := queue s q
  match entry s q idx with
  | none => s
  | some e =>
    if e.phase ≠ 0 ∨ ¬(Q.st = 1 ∨ Q.st = 2) ∨ mayStart Q e = false then s
    else if opcode e = 0x20 ∧ formBad s q e = false ∧ 4 ≤ trackedEpochs (ctx s (dctx e)) then s
    else if waitsConn s q e then awaitChannel s q e
    else startEntry s q e

/-- ENTRY_START. -/
def execEntryStart (queue idx : Nat) (s : State) : Host.Outcome State Fault Refusal := .next (entryStart s queue idx)

/-! ### Fragment tables (R91 to R93, R157) -/

/-- The fragments in the bytes of a table (Table 4-3). -/
def parseFrags : Nat → List Byte → List Frag
  | 0, _ => []
  | n + 1, b => ⟨leAt b 0 8, leAt b 8 4, leAt b 12 4⟩ :: parseFrags n (b.drop 16)

/-- Checks the fragments in order, from index i: the first failure with its index, or a table word still needed. -/
def checkFrags (s : State) (t c : Nat) (dest : Bool) (u : Use) : Nat → List Frag → State × Start × Nat
  | _, [] => (s, .ok, 0)
  | i, f :: r =>
    if f.len = 0 then checkFrags s t c dest u (i + 1) r
    else if 2 ^ 30 < f.len then (s, .fail Status.localLength, i)
    else if f.key ≠ 0 ∧ localKeyOk s f.key t c f.addr f.len dest = false then (s, .fail Status.localProtection, i)
    else match startRanges s t c [(f.addr, f.len, u)] with
      | (s1, .ok) => checkFrags s1 t c dest u (i + 1) r
      | (s1, x) => (s1, x, i)

/-- The entry writes to its fragments: READ and RECV. -/
def scatters (e : Entry) : Bool := decide (opcode e = 0x02 ∨ opcode e = 0x30)

/-- The regions that a list of fragments takes places of. -/
def fragRegions (fs : List Frag) : List Nat := (fs.filter (fun f => decide (f.len ≠ 0 ∧ f.key ≠ 0))).map (fun f => f.key % 2 ^ 24)

/-- The fragments of an entry are translated and checked, and the entry starts or completes with the failure (R92, R157). Its check at
pre-translation is this one: one that fails there is not final, and would only be made again here (R145). It waits while a region of it finds
no place in the region cache (R158). -/
def acceptFrags (s : State) (q : Nat) (e : Entry) (fs : List Frag) : State :=
  let t := queueOwner s q
  let u : Use := if scatters e then { wr := true } else { rd := true }
  if 2 ^ 30 < fs.foldl (fun n f => n + f.len) 0 then startFails s q e.idx Status.localLength 0
  else match checkFrags s t (dctx e) (scatters e) u 0 fs with
    | (s1, .need a, _) => stall s1 (dctx e) a (.fragTable q e.idx)
    | (s1, .fail st, i) => startFails s1 q e.idx st i
    | (s1, .ok, _) =>
      match routeBad s1 q e with
      | some st => startFails s1 q e.idx st 0
      | none =>
        let keys := fragRegions fs
        if !keys.all (regionRoom s1) then { s1 with atu := { s1.atu with fragWait := s1.atu.fragWait ++ [(q, e.idx)] } }
        else
          let s2 := markStarted (entryMod (keys.foldl admitTake s1) q e.idx (fun e => { e with held := keys })) q e.idx
          let C := conn s2 (verbConn s2 q e)
          if isRemote (opcode e) ∧ (queueRaw s2 q).isNone ∧ C.st = 4 then entryDone s2 q e.idx C.errStatus 0 0 else s2

/-- The fragment table is in: its fragments are kept and checked. -/
def takeFrags (s : State) (q idx : Nat) : State :=
  match entry s q idx with
  | none => s
  | some e => match e.frags with
    | none => s
    | some fs => if e.phase = 1 ∧ ¬ e.taken then acceptFrags s q e fs else s

/-- FRAGMENT_TABLE_READ (R92, R157, R494): the table comes back; `bus` holds what the bus returned, none when it failed. -/
def execFragmentTableRead (q idx : Nat) (bus : Option (List Byte)) (s : State) : Host.Outcome State Fault Refusal :=
  match entry s q idx with
  | none => .next s
  | some e => match e.tblRead with
    | none => .next s
    | some x =>
      let p := finishRead s (queueOwner s q) x bus
      let s1 := entryMod p.1 q idx (fun e => { e with tblRead := none })
      match p.2 with
      | .refused => .next (startFails s1 q idx Status.localProtection 0)
      | .poison _ _ => .next (startFails s1 q idx Status.poisoned 0)
      | .ok b =>
        .next (takeFrags (entryMod s1 q idx (fun e => { e with frags := some (parseFrags (elen e) b) })) q idx)

/-! ### Posting a remote verb -/

/-- The message length of an entry. -/
def msgLen (e : Entry) : Nat := (entrySegs e).foldl (fun n p => n + p.2) 0

/-- The source of an entry's payload. -/
def entrySource (s : State) (q : Nat) (e : Entry) : Source :=
  if flag e 11 then .data (e.payload.take (elen e)) else .mem (queueOwner s q) (dctx e) (entrySegs e)

/-- The fields that every remote verb's message has. -/
def verbMsg (s : State) (q : Nat) (e : Entry) (opc : Nat) : SendMsg :=
  let c := verbConn s q e
  { msn := (conn s c).msn, opc := opc, by_ := .entry q e.idx, tenant := queueOwner s q, cls := (verbClass s q e).getD 4,
    tc := if isChan c then 0 else fld (conn s c).cfg 36 33,
    ep := if isChan c then nfld (ef e 40 4) 27 16 + bindId (queue s q) * 4096 else 0,
    akey := ef e 32 4, raddr := ef e 24 8, imm := if flag e 9 then some (ef e 36 4) else none }

/-- A message with data: its bytes are read from the entry's source. -/
def withData (s : State) (q : Nat) (e : Entry) (m : SendMsg) : SendMsg :=
  { m with src := entrySource s q e, len := msgLen e, headLen := msgLen e }

/-- Posts a message to its connection (R179): at most 4,096 messages are outstanding; a demand follows when credit lacks (R208). -/
def postMsg (s : State) (c : Nat) (m : SendMsg) : State :=
  demandCheck (connMod s c (fun C => { C with msn := (C.msn + 1) % 2 ^ 24, send := C.send ++ [m] })) c

/-- A started entry of a queue that has not gone to its connection, or whose fragments are not all in yet. -/
def unposted (s : State) (q : Nat) (e x : Entry) : Bool :=
  decide (x.idx < e.idx ∧ x.phase = 1) && !x.running && isRemote (opcode x) && decide (verbConn s q x = verbConn s q e)

/-- Posts the message of a started entry of a given opcode. The messages of one queue to one connection are numbered in index order (R125,
R127): an entry waits for those before it. -/
def postVerb (s : State) (q idx op : Nat) (f : Entry → SendMsg) : State :=
  match entry s q idx with
  | none => s
  | some e =>
    let c := verbConn s q e
    if e.phase ≠ 1 ∨ ¬ e.taken ∨ e.running ∨ opcode e ≠ op ∨ (conn s c).st ≠ 2 ∨ 4096 ≤ (conn s c).send.length ∨
      (queue s q).entries.any (unposted s q e) = true then s
    else postMsg (entryMod s q idx (fun x => { x with running := true, conn := c, msn := (conn s c).msn })) c (f e)

/-- WRITE (R105): a message with the source's bytes, placed at RADDR of the region that AKEY names. -/
def execVWrite (queue idx : Nat) (s : State) : Host.Outcome State Fault Refusal :=
  .next (postVerb s queue idx 0x01 (fun e => withData s queue e (verbMsg s queue e 0x01)))

/-- READ (R105, R193): a head that asks for LENGTH bytes; the response is placed at LADDR. -/
def execVRead (queue idx : Nat) (s : State) : Host.Outcome State Fault Refusal :=
  .next (postVerb s queue idx 0x02 (fun e =>
    { verbMsg s queue e 0x0B with headLen := msgLen e, respLen := msgLen e, respUnits := unitsOf (msgLen e) }))

/-- A raw frame joins the port's frames to send (R271). -/
def postRaw (s : State) (q idx : Nat) : State :=
  match entry s q idx, queueRaw s q with
  | some e, some (p, _) =>
    if e.phase ≠ 1 ∨ ¬ e.taken ∨ e.running ∨ opcode e ≠ 0x03 then s
    else
      eportMod (entryMod s q idx (fun e => { e with running := true })) p
        (fun P => { P with raw := P.raw ++ [{ queue := q, idx := idx, len := msgLen e, cls := (verbClass s q e).getD 4 }] })
  | _, _ => s

/-- SEND (R107 to R109, R271): a message to the next receive entry of the target, or one raw frame. -/
def execVSend (queue idx : Nat) (s : State) : Host.Outcome State Fault Refusal :=
  if (queueRaw s queue).isSome then .next (postRaw s queue idx)
  else .next (postVerb s queue idx 0x03 (fun e => withData s queue e { verbMsg s queue e 0x02 with akey := 0, raddr := 0 }))

/-- ATOMIC (R111): a head in two slots; the old value comes back to LADDR. -/
def execVAtomic (queue idx : Nat) (s : State) : Host.Outcome State Fault Refusal :=
  .next (postVerb s queue idx 0x04 (fun e =>
    { verbMsg s queue e 0x0C with
        headLen := 8, op1 := w64 (ef e 48 8), op2 := w64 (ef e 56 8), aop := nfld (ef e 44 4) 3 0, respLen := 8, respUnits := 1 }))

/-- REDUCE-WRITE (R113, R114). -/
def execVReduceWrite (queue idx : Nat) (s : State) : Host.Outcome State Fault Refusal :=
  .next (postVerb s queue idx 0x05 (fun e =>
    withData s queue e { verbMsg s queue e 0x03 with varg := nfld (ef e 44 4) 7 0 }))

/-- GATHER-REDUCE (R115): the index list travels, one row comes back to RESULT. -/
def execVGatherReduce (queue idx : Nat) (s : State) : Host.Outcome State Fault Refusal :=
  .next (postVerb s queue idx 0x06 (fun e =>
    let k := nfld (ef e 56 8) 12 0
    { verbMsg s queue e 0x06 with
        src := .mem (queueOwner s queue) (dctx e) [(ef e 16 8, 4 * k)], len := 4 * k, headLen := elen e,
        varg := nfld (ef e 44 4) 7 0 + k * 256, respLen := elen e, respUnits := unitsOf (elen e) }))

/-- INVOKE (R116, R117): the argument travels; the reply is placed at REPLY_ADDR. -/
def execVInvoke (queue idx : Nat) (s : State) : Host.Outcome State Fault Refusal :=
  .next (postVerb s queue idx 0x07 (fun e =>
    withData s queue e { verbMsg s queue e 0x08 with varg := nfld (ef e 44 4) 24 0 }))

/-- A message leaves its connection's list of messages sent. -/
def dropSend (s : State) (c msn : Nat) : State :=
  connMod s c (fun C => { C with send := C.send.filter (fun m => m.resp || decide (m.msn ≠ msn)) })

/-- INVOKE_TIMEOUT (R117): TIMEOUT ms after the acknowledgement of its last cell the reply has not been placed. -/
def execInvokeTimeout (queue idx : Nat) (s : State) : Host.Outcome State Fault Refusal :=
  match entry s queue idx with
  | none => .next s
  | some e =>
    match (conn s e.conn).send.find? (fun m => decide (m.by_ = .entry queue idx) && m.acked) with
    | none => .next s
    | some m =>
      if opcode e = 0x07 ∧ e.running then
        .next (closeCheck (entryDone (dropSend (endSend s e.conn m) e.conn e.msn) queue idx Status.kernelFault 0 0) e.conn)
      else .next s

/-! ### Local verbs -/

/-- A started entry of a given opcode whose verb has not yet acted. -/
def readyVerb (s : State) (q idx op : Nat) : Option Entry :=
  (entry s q idx).bind (fun e => if e.phase = 1 ∧ e.taken ∧ ¬ e.running ∧ opcode e = op then some e else none)

/-- COLLECTIVE (R118): the group, the buffers and the codes go to Scarab. -/
def execVCollective (queue idx : Nat) (s : State) : Host.Outcome State Fault Refusal :=
  match readyVerb s queue idx 0x10 with
  | none => .next s
  | some _ => .next (entryMod s queue idx (fun e => { e with running := true }))

/-- The drain of an INVALIDATE is over: no transfer of the epochs it waits for is under way (R148). -/
def drained (s : State) (c : Nat) (l : List (Nat × Nat)) : Bool :=
  l.all (fun p => decide (inflightOf (ctx s c) (BitVec.ofNat 16 p.2) = 0))

/-- INVALIDATE (R120, R148): the epoch advances, overlapping translations are purged, and the entry waits for older transfers. -/
def execVInvalidate (queue idx : Nat) (s : State) : Host.Outcome State Fault Refusal :=
  match readyVerb s queue idx 0x20 with
  | none => .next s
  | some e =>
    let c := dctx e
    let a := ef e 16 8
    let n := ef e 24 8
    let old := (ctx s c).inflight.map (fun p => (c, p.1))
    let s1 := purge (advanceEpoch s c) c (fun x => nbit (ef e 44 4) 0 || decide (x.base < a + n ∧ a < x.base + x.size))
    if drained s1 c old then .next (entryDone s1 queue idx Status.ok 0 0)
    else .next (entryMod s1 queue idx (fun e => { e with running := true, waits := old }))

/-- INVALIDATE_DRAIN_DONE (R148). -/
def execInvalidateDrainDone (queue idx : Nat) (s : State) : Host.Outcome State Fault Refusal :=
  match entry s queue idx with
  | none => .next s
  | some e =>
    if opcode e = 0x20 ∧ e.running ∧ drained s (dctx e) e.waits = true then .next (entryDone s queue idx Status.ok 0 0)
    else .next s

/-- An entry that a FENCE waits for has finished, or is gone. -/
def workOver (s : State) (w : Nat × Nat) : Bool :=
  match entry s w.1 w.2 with | none => true | some e => decide (3 ≤ e.phase)

/-- FENCE (R126): SCOPE 0 has waited before it started; SCOPE 1 finishes when the function's earlier entries have. -/
def execVFence (queue idx : Nat) (s : State) : Host.Outcome State Fault Refusal :=
  match readyVerb s queue idx 0x21 with
  | none => .next s
  | some e => if e.waits.all (workOver s) then .next (entryDone s queue idx Status.ok 0 0) else .next s

/-- REGISTER (R121, R159): a FREE index becomes VALID under the next generation, and the AKEY goes into the entry. -/
def execVRegister (queue idx : Nat) (s : State) : Host.Outcome State Fault Refusal :=
  match readyVerb s queue idx 0x22 with
  | none => .next s
  | some e =>
    let i := nfld (ef e 32 4) 23 0
    let R := region s i
    if R.state ≠ 0 then .next (entryDone s queue idx Status.badDescriptor 0 0)
    else
      let gen := R.gen + 1
      let s1 := regionMod s i (fun _ =>
        { state := 1, rights := nfld (ef e 44 4) 5 0, gen := gen, ctx := dctx e, kernel := nfld (ef e 44 4) 25 16,
          base := w64 (ef e 16 8), len := w64 (ef e 24 8) })
      let s2 := entryMod s1 queue idx (fun e => { e with writes := [(32, leBytes 4 (gen.toNat * 2 ^ 24 + i))] })
      .next (entryDone s2 queue idx Status.ok 0 0)

/-- REVOKE (R122, R159): a VALID region of the current generation becomes REVOKING, and FREE once nothing is admitted. -/
def execVRevoke (queue idx : Nat) (s : State) : Host.Outcome State Fault Refusal :=
  match readyVerb s queue idx 0x23 with
  | none => .next s
  | some e =>
    let i := nfld (ef e 32 4) 23 0
    let R := region s i
    if R.state = 0 ∨ R.gen.toNat ≠ nfld (ef e 32 4) 31 24 then .next (entryDone s queue idx Status.ok 0 0)
    else if R.admitted = 0 then
      .next (entryDone (regionMod s i (fun R => { R with state := 0 })) queue idx Status.ok 0 0)
    else
      .next (entryMod (regionMod s i (fun R => { R with state := 2, waiting := R.waiting ++ [(queue, idx)] })) queue idx
        (fun e => { e with running := true }))

/-- RECV (R107): a started RECV entry is posted once those before it are, so that messages take entries in index order (R108). -/
def execRecvPost (queue idx : Nat) (s : State) : Host.Outcome State Fault Refusal :=
  match readyVerb s queue idx 0x30 with
  | none => .next s
  | some _ =>
    if (Machine.queue s queue).entries.any (fun x => decide (x.idx < idx ∧ x.phase = 1) && !x.running) then .next s
    else .next (entryMod s queue idx (fun e => { e with running := true }))

end Sys2Proof.Machine
end

