-- ==== Sys2Proof/Machine/TpeAck.lean ====
section
/-! DEFINITION. The receiver's bookkeeping (R174, R182 to R187): CSNs received, completed messages, final records, receive entries,
acknowledgements; and payload encryption (R195). -/
namespace Sys2Proof.Machine

/-! ### Numbers -/

/-- MSN a is below MSN b in the 24-bit space. -/
def msnBelow (a b : Nat) : Bool :=
  let d := (b + 2 ^ 24 - a % 2 ^ 24) % 2 ^ 24
  decide (1 ≤ d ∧ d < 2 ^ 23)

/-- CSN a is below CSN b in the 32-bit space. -/
def csnBelow (a b : Nat) : Bool := serialAbove b a

/-- The distance of a CSN from CUM_CSN. -/
def csnDist (C : Conn) (csn : Nat) : Nat := (csn + 2 ^ 32 - C.cum % 2 ^ 32) % 2 ^ 32

/-- A CSN lies in the receiver's window (R174). -/
def inWindow (C : Conn) (csn : Nat) : Bool := decide (csnDist C csn < 4096)

/-! ### Payload encryption (R195) -/

/-- The connection's payload is enciphered. -/
def encOn (s : State) (c : Nat) : Bool := !isChan c && wbit (conn s c).cfg 50

/-- The key of an ENC connection, if its slot is usable. -/
def encKey (s : State) (c : Nat) : Option (List Byte) :=
  let k := (conn s c).key
  if slotUsable s k (connTenant s c) then some (keySlot s k).key else none

/-- The counter of block 0 of a cell (R195). -/
def cellCounter (node plane qp init csn : Nat) : Nat :=
  node % 4096 * 2 ^ 116 + plane % 2 * 2 ^ 115 + qp % 2 ^ 20 * 2 ^ 95 + init % 2 ^ 32 * 2 ^ 63 + csn % 2 ^ 32 * 2 ^ 31

/-- Enciphers or deciphers a payload. -/
def cryptPayload (key : List Byte) (ctr : Nat) (b : List Byte) : List Byte := (ctrRun key ctr (blocks16 b)).1

/-- The clear payload of an arrived cell; none when its key slot is not usable. -/
def clearPayload (s : State) (c : Nat) (cell : Cell) : Option (List Byte) :=
  if !encOn s c then some cell.payload
  else (encKey s c).map (fun k =>
    cryptPayload k (cellCounter cell.snode cell.plane (fld (conn s c).cfg 32 13) (conn s c).peerInit cell.csn) cell.payload)

/-! ### Acknowledgements (R186, R187) -/

/-- The SACK ranges of CSNs given as distances from CUM_CSN in rising order, at most 31. -/
def sackRanges : List Nat → List (Nat × Nat)
  | [] => []
  | d :: r => match sackRanges r with
    | (a, n) :: t => if a = d + 1 ∧ n < 65535 then (d, n + 1) :: t else (d, 1) :: (a, n) :: t
    | [] => [(d, 1)]

/-- The distances of the CSNs received above CUM_CSN, in rising order. -/
def oooDists (C : Conn) : List Nat := (List.range 4096).filter (fun d => C.ooo.contains ((C.cum + d) % 2 ^ 32))

/-- The message records that the next ACK carries: the last 31, a new one standing behind those that have been sent. -/
def ackRecs (C : Conn) : List (Nat × Nat × Nat) := C.recs.drop (C.recs.length - 31)

/-- The message records that it leaves for later ones. -/
def laterRecs (C : Conn) : List (Nat × Nat × Nat) := C.recs.take (C.recs.length - 31)

/-- DONE_MSN as an ACK gives it: it does not pass a refused message whose record the ACK has no room for, since it would complete that
message's entry with OK (R187). -/
def ackDone (C : Conn) : Nat :=
  (laterRecs C).foldl (fun d r => if r.2.1 ≠ 0 ∧ r.2.2 = 0 ∧ msnBelow r.1 d then r.1 else d) C.done

/-- The payload of an ACK (Table 7-6). -/
def ackPayload (C : Conn) : List Byte :=
  let sacks := (sackRanges (oooDists C)).take 31
  let recs := ackRecs C
  beBytes 8 (C.cum % 2 ^ 32 * 2 ^ 32 + ackDone C % 2 ^ 24 * 2 ^ 8) ++
  beBytes 8 (C.lastCsn % 2 ^ 32 * 2 ^ 32 + sacks.length * 2 ^ 24 + recs.length * 2 ^ 16) ++
  (sacks.map (fun p => beBytes 8 ((C.cum + p.1) % 2 ^ 32 * 2 ^ 32 + p.2 * 2 ^ 16))).flatten ++
  (recs.map (fun r => beBytes 8 (r.1 % 2 ^ 24 * 2 ^ 40 + r.2.1 % 256 * 2 ^ 32 + r.2.2 % 256 * 2 ^ 24))).flatten

/-- Sends an ACK (R187). An RNR record goes out once; a final record stays until DONE_MSN, or for one other than OK the sender's LOW_MSN, has
passed it, and takes its turn with the others where an ACK has no room for all. -/
def sendAck (s : State) (c : Nat) : State :=
  let b := ackPayload (conn s c)
  let s1 := sendClass0 s c { baseCell s c with opc := 0x11, plen := b.length, payload := b }
  connMod s1 c (fun C => { C with sinceAck := 0, recs := (ackRecs C).filter (fun r => decide (r.2.2 = 0)) ++ laterRecs C })

/-- A cell with a CSN has been received: the window moves, and the 32nd cell since the last ACK sends one. -/
def takeCsn (s : State) (c csn : Nat) : State :=
  let s1 := connMod s c (fun C =>
    if C.ooo.contains csn then { C with lastCsn := csn, sinceAck := C.sinceAck + 1 }
    else { C with ooo := csn :: C.ooo, lastCsn := csn, sinceAck := C.sinceAck + 1 })
  let C := conn s1 c
  let n := ((List.range 4097).find? (fun d => !C.ooo.contains ((C.cum + d) % 2 ^ 32))).getD 4096
  let s2 := connMod s1 c (fun C => { C with
    cum := (C.cum + n) % 2 ^ 32, ooo := C.ooo.filter (fun x => !decide (csnDist C x < n)) })
  if 32 ≤ (conn s2 c).sinceAck then sendAck s2 c else s2

/-- ACK_DELAY_TIMER (R187): 2 µs since an arrival that no ACK has covered. -/
def execAckDelayTimer (c : Nat) (s : State) : Host.Outcome State Fault Refusal :=
  if 0 < (conn s c).sinceAck ∧ ((conn s c).st = 2 ∨ (conn s c).st = 3) then .next (sendAck s c) else .next s

/-! ### Messages received -/

/-- A received message of a connection. -/
def recvMsg (s : State) (c msn : Nat) : Option RecvMsg := (conn s c).recv.find? (fun m => m.msn = msn)

/-- Rewrites a received message. -/
def recvMod (s : State) (c msn : Nat) (f : RecvMsg → RecvMsg) : State :=
  connMod s c (fun C => { C with recv := mapIf (fun m => m.msn = msn) f C.recv })

/-- A head or cell of an MSN is a duplicate of a message that is complete or refused (R182). -/
def msnDone (C : Conn) (msn : Nat) : Bool := msnBelow msn C.done || C.doneSet.contains msn

/-- DONE_MSN moves over the completed messages at its front. -/
def advanceDone (C : Conn) : Nat → Conn
  | 0 => C
  | n + 1 =>
    if C.doneSet.contains C.done then
      advanceDone { C with done := (C.done + 1) % 2 ^ 24, doneSet := C.doneSet.filter (· ≠ C.done),
                           recs := C.recs.filter (fun r => !(decide (r.1 = C.done ∧ r.2.1 = 0 ∧ r.2.2 = 0))) } n
    else C

/-- Messages whose delivery is due: complete, and on a QP with every earlier message placed (R128, R129). -/
def deliver (s : State) (c : Nat) : State :=
  let due := fun (C : Conn) (m : RecvMsg) => m.complete && (isChan c || msnBelow m.msn C.done)
  let ms := (conn s c).recv.filter (due (conn s c))
  let s1 := connMod s c (fun C => { C with recv := C.recv.filter (fun m => !due C m) })
  ms.foldl (fun s m => finishRecvEntry s c m) s1

/-- A message is complete or refused with a status: DONE_MSN and the final records take it, and an ACK goes out (R182, R187). -/
def finalRecord (s : State) (c msn status : Nat) : State :=
  let s1 := connMod s c (fun C =>
    advanceDone { C with doneSet := C.doneSet ++ [msn], recs := C.recs ++ [(msn, status, 0)] } 4097)
  sendAck (deliver s1 c) c

/-- The cells of a message leave the early store; their CSNs count as received. -/
def dropEarly (s : State) (c msn : Nat) : State :=
  let mine := fun (e : Nat × Cell) => decide (e.1 = c ∧ e.2.msn = msn)
  let gone := s.tpe.early.filter mine
  let s1 := { s with tpe := { s.tpe with early := s.tpe.early.filter (fun e => !mine e) } }
  gone.foldl (fun s e => takeCsn s c e.2.csn) s1

/-- A head is refused whole with a status (R155, R180). -/
def refuseHead (s : State) (c msn status : Nat) : State := finalRecord (dropEarly s c msn) c msn status

/-- A message's place in ADMITTED and its tracker go (R156). -/
def releaseRecv (s : State) (c : Nat) (m : RecvMsg) : State :=
  let s1 := if m.counted then accessEnd s m.region else s
  let s2 := if m.admitted && hasData m.opc then { s1 with tpe := { s1.tpe with trackers := s1.tpe.trackers - 1 } } else s1
  recvMod s2 c m.msn (fun m => { m with counted := false, admitted := false })

/-- A received message ends: what it holds is released, and its final record goes out. -/
def finishRecv (s : State) (c msn status : Nat) : State :=
  match recvMsg s c msn with
  | none => s
  | some m =>
    let s1 := releaseRecv (dropStages (dropEarly (dropPlacements s (connPath s c) m.pend) c msn) c false (fun x => decide (x = msn))) c m
    finalRecord (recvMod s1 c msn (fun m => { m with complete := true, pend := [], pendData := [], staging := [] })) c msn status

/-- A received message ends with a failure: its receive entry completes with a status of its own, and the fragment that failed, when those of
every earlier message have (R109, R128, R185). -/
def failRecvAt (s : State) (c msn status own frag : Nat) : State :=
  finishRecv (recvMod s c msn (fun m => { m with own := some own, ownFrag := frag })) c msn status

/-- The same, where no fragment failed. -/
def failRecv (s : State) (c msn status own : Nat) : State := failRecvAt s c msn status own 0

/-! ### The response cache (R194) -/

/-- The key of a source's message: node + 4096 · plane, connection, MSN. -/
def cacheFind (s : State) (node c msn : Nat) : Option RcEntry :=
  s.tpe.rcache.find? (fun e => decide (e.node = node ∧ e.conn = c ∧ e.msn = msn))

/-- The source of a connection's messages as the cache keys it. -/
def peerKey (s : State) (c : Nat) : Nat := connNode s c + ownPlane s * 4096

/-- Makes an entry. -/
def cachePutResp (s : State) (c msn status : Nat) (value : W64) (reduce : Bool) : State :=
  { s with tpe := { s.tpe with rcache := s.tpe.rcache ++ [⟨peerKey s c, c, msn, status, value, reduce⟩] } }

/-- LOW_MSN of a head frees the entries and the records below it (R194). -/
def takeLow (s : State) (c low : Nat) : State :=
  let s1 := connMod s c (fun C => { C with recs := C.recs.filter (fun r => !msnBelow r.1 low) })
  { s1 with tpe := { s1.tpe with rcache := s1.tpe.rcache.filter (fun e => !(decide (e.conn = c) && msnBelow e.msn low)) } }

/-- RESPONSE_CACHE_EXPIRY (R194): TPE_RC_HOLD ms have passed. -/
def execResponseCacheExpiry (node c msn : Nat) (s : State) : Host.Outcome State Fault Refusal :=
  .next { s with tpe := { s.tpe with
    rcache := s.tpe.rcache.filter (fun e => !decide (e.node = node ∧ e.conn = c ∧ e.msn = msn)) } }

end Sys2Proof.Machine
end

