-- ==== Sys2Proof/Machine/TpeSend.lean ====
section
/-! DEFINITION. The sending side (R177 to R179, R185, R187 to R192, R195, R204, R211, R214 to R217): the egress scheduler, heads,
cells and their sources, retransmission, the budgets, acknowledgements received, raw frames. -/
namespace Sys2Proof.Machine

/-! ### Messages and units -/

/-- Rewrites an outgoing message. -/
def sendMod (s : State) (c msn : Nat) (resp : Bool) (f : SendMsg → SendMsg) : State :=
  connMod s c (fun C => { C with send := mapIf (fun m => decide (m.msn = msn ∧ m.resp = resp)) f C.send })

/-- An outgoing message. -/
def sendMsg (s : State) (c msn : Nat) (resp : Bool) : Option SendMsg :=
  (conn s c).send.find? (fun m => decide (m.msn = msn ∧ m.resp = resp))

/-- The message is announced by a head: every one but responses and replies (R178). -/
def hasHead (m : SendMsg) : Bool := !m.resp

/-- Units of data that a message carries. -/
def dataUnits (m : SendMsg) : Nat := if m.resp || hasData m.opc then unitsOf m.len else 0

/-- Bytes of n units from a unit offset. -/
def unitBytes (m : SendMsg) (off n : Nat) : Nat := min (m.len - 512 * off) (512 * n)

/-- Data may leave: the head has been sent, or there is none. -/
def mayData (m : SendMsg) : Bool := !m.rnrWait && (!hasHead m || m.headSent)

/-- Heads of a connection leave in MSN order (R179): the first message whose head has not been sent. -/
def nextHead (C : Conn) : Option SendMsg := C.send.find? (fun m => hasHead m && !m.headSent)

/-- A READ, ATOMIC or GATHER head carries an implied grant (R211). -/
def impliedGrant (m : SendMsg) : Nat :=
  if m.opc = 0x0B ∨ m.opc = 0x0C ∨ m.opc = 0x06 then min m.respUnits 64 else 0

/-- What a message has to send now: a head again, units again, its head, or new units. -/
inductive Work
  | headAgain
  | again (off : Nat)
  | head
  | data (off : Nat)
deriving DecidableEq, Repr

/-- The next work of a message of a connection, retransmissions first (Table 8-4). -/
def workOf (C : Conn) (m : SendMsg) : Option Work :=
  if m.rnrWait then none
  else if m.reHead then some .headAgain
  else match m.retx with
    | off :: _ => some (.again off)
    | [] =>
      if hasHead m && !m.headSent then (if (nextHead C).map (·.msn) = some m.msn then some .head else none)
      else if m.next < dataUnits m then some (.data m.next) else none

/-- The first message of a class of a connection with work; one with retransmissions goes before the others. -/
def nextWork (C : Conn) (k : Nat) : Option (SendMsg × Work) :=
  let l := C.send.filterMap (fun m => if m.cls = k then (workOf C m).map (fun w => (m, w)) else none)
  match l.find? (fun p => match p.2 with | .headAgain => true | .again _ => true | _ => false) with
  | some p => some p
  | none => l.head?

/-- A connection sends: it is READY. -/
def sends (C : Conn) : Bool := decide (C.st = 2)

/-- A connection is ready in a class (R216). -/
def connReady (C : Conn) (k : Nat) : Bool := sends C && decide (0 < balance C) && (nextWork C k).isSome

/-- The connections of an egress point that are ready in a class, in number order. -/
def readyConns (s : State) (e k : Nat) : List Nat :=
  (s.tpe.conns.filter (fun x => connReady x.2 k && decide (connPath s x.1 = e))).map (·.1)

/-- A connection may be picked: its context is not on its way to the cache (R166), and no slice of it waits for its core already (R168). -/
def pickable (s : State) (c k : Nat) : Bool := !s.tpe.fetching.contains c && !s.tpe.slices.contains (c, k)

/-- The connections that a pick of a class chooses from (R223): those with retransmissions, if there are any, go before the others. -/
def candidates (s : State) (e k : Nat) : List Nat :=
  let l := (readyConns s e k).filter (fun c => pickable s c k)
  let again := l.filter (fun c => match nextWork (conn s c) k with | some (_, .headAgain) => true | some (_, .again _) => true | _ => false)
  if again = [] then l else again

/-- A raw frame of a class waits at a port. -/
def rawReady (s : State) (e k : Nat) : Bool :=
  decide (1 ≤ e) && (eport s e).up && (eport s e).raw.any (fun r => decide (r.cls = k) && r.xfer.isNone && !r.sent)

/-- A class has a ready connection, or a raw frame: what READY of CCS_CLS_STAT shows (Table 8-7). -/
def classHasWork (s : State) (e k : Nat) : Bool :=
  (decide (k = 0) && !(egress s e).waiting0.isEmpty) || !(readyConns s e k).isEmpty || rawReady s e k

/-- ready(c) of R216 at a pick. -/
def classReady (s : State) (e k : Nat) : Bool :=
  !classPaused s e k && (!(candidates s e k).isEmpty || rawReady s e k)

/-- CCS_CLS_STAT (Table 8-7). A class whose bucket has neither rate nor depth, as a strict class at reset, is closed and not shaped. -/
def clsStat (s : State) (e c : Nat) : Nat :=
  b2n (classHasWork s e c) + b2n (!clsUnshaped s e c && !clsClosed s e c && decide (clsTokens s e c ≤ 0)) * 2 +
  b2n (decide (0 < (cls s e c).committed)) * 4

/-! ### The pick (R216, R217) -/

/-- A weighted class that becomes ready takes the current virtual time as its start tag (R217); its readiness is looked at before and after
each pick. -/
def noteReady (s : State) (e : Nat) : State :=
  ((List.range 60).map (· + 4)).foldl (fun s k =>
    let r := !classPaused s e k && classHasWork s e k
    clsMod s e k (fun C => { C with ready := r, start := if r && !C.ready then (egress s e).vtime else C.start })) s

/-- The class with the least start tag, the lower number first. -/
def leastStart (s : State) (e : Nat) : List Nat → Option Nat
  | [] => none
  | k :: r => match leastStart s e r with
    | none => some k
    | some j => if Frac.lt (cls s e j).start (cls s e k).start then some j else some k

/-- pick(egress) of R216: the class, if any. -/
def pickClass (s : State) (e : Nat) : Option Nat :=
  match (List.range 4).find? (fun k => classReady s e k && hasTokens s e k) with
  | some k => some k
  | none =>
    let l := ((List.range 60).map (· + 4)).filter (fun k => classReady s e k && hasTokens s e k)
    let u := l.filter (fun k => decide (0 < clsCmin s e k ∧ 0 < (cls s e k).committed))
    leastStart s e (if u = [] then l else u)

/-- Round robin: the first number above the last one served, else the first. -/
def rotate (last : Nat) (l : List Nat) : Option Nat :=
  match l.find? (fun c => decide (last < c)) with | some c => some c | none => l.head?

/-! ### Cells -/

/-- The oldest CSN in flight. -/
def oldestCsn (C : Conn) : Nat :=
  C.flight.foldl (fun o r => if csnBelow r.csn o then r.csn else o) C.csn

/-- Cells of a connection whose source is being read: each will take a CSN. -/
def inBuild (C : Conn) : Nat := C.send.foldl (fun n m => n + m.reads.length) 0

/-- Another CSN fits beyond the oldest one in flight, once the cells in build have theirs (R179). -/
def csnRoom (C : Conn) : Bool := decide ((C.csn + 2 ^ 32 - oldestCsn C % 2 ^ 32) % 2 ^ 32 + inBuild C < 4096)

/-- Whether the next CSN of an enciphered QP wraps back to its INIT_CSN (R195). -/
def csnWraps (s : State) (c : Nat) : Bool :=
  encOn s c && decide (((conn s c).csn + 1) % 2 ^ 32 = (conn s c).initCsn % 2 ^ 32)

/-- An ENC connection stops with LOCAL_PROTECTION: its slot is gone or its CSNs are used up (R195, R406). -/
def encFails (s : State) (c : Nat) : State := qpEvent (connError s c Status.localProtection) c Status.localProtection

/-- Counts the 16-byte blocks that the cipher engine has processed for a tenant (CPH_BLOCKS). -/
def cphBlocks (s : State) (t n : Nat) : State :=
  { s with cph := { s.cph with blocks := tmod (fun _ => 0) s.cph.blocks t (· + n) } }

/-- Hands a cell or packet with a CSN to its path, enciphered where the QP is, and charges its class (R195, R204, R216). -/
def launch (s : State) (c : Nat) (m : SendMsg) (cell : Cell) (rec_ : CsnRec) (retx : Bool) : State :=
  let C := conn s c
  let body := if !encOn s c then cell.payload
    else match encKey s c with
      | none => cell.payload
      | some k => cryptPayload k (cellCounter (ownNode s) (ownPlane s) c C.initCsn C.csn) cell.payload
  let s1 := connMod s c (fun C => { C with csn := (C.csn + 1) % 2 ^ 32, flight := C.flight ++ [rec_] })
  let s2 := if retx then bumpFn s1 Reg.TPE_RETX (connTenant s c) else s1
  let s2 := if encOn s c then cphBlocks s2 (connTenant s c) ((body.length + 15) / 16) else s2
  let s3 := charge s2 (connPath s c) m.cls (wireLen s c body.length)
  let s4 := handOff s3 c m.tenant m.cls { cell with csn := C.csn, payload := body }
  if csnWraps s c then encFails s4 c else s4

/-- The slots of a message's head (Table 7-5). -/
def headSlots (m : SendMsg) (low : Nat) : List Byte :=
  let ak := if m.opc = 0x0A ∨ m.opc = 0x0D then m.tenant % 256 else m.akey
  beBytes 32 (m.opc % 32 * 2 ^ 251 + b2n m.imm.isSome * 2 ^ 250 + m.msn % 2 ^ 24 * 2 ^ 224 + ak % 2 ^ 32 * 2 ^ 192 +
    m.raddr % 2 ^ 48 * 2 ^ 144 + m.headLen % 2 ^ 32 * 2 ^ 112 + m.imm.getD 0 % 2 ^ 32 * 2 ^ 80 + m.varg % 2 ^ 32 * 2 ^ 48 +
    low % 2 ^ 24 * 2 ^ 24) ++
  (if m.opc = 0x0C then
     beBytes 32 (m.op1.toNat * 2 ^ 192 + m.op2.toNat * 2 ^ 128 + m.aop % 16 * 2 ^ 124)
   else [])

/-- LOW_MSN: the lowest MSN not yet completed. -/
def lowMsn (C : Conn) : Nat := ((C.send.find? hasHead).map (·.msn)).getD C.msn

/-- Sends a HEADS cell with one message's head (R178, R179). -/
def sendHead (s : State) (c : Nat) (m : SendMsg) (retx : Bool) : State :=
  let C := conn s c
  let b := headSlots m (lowMsn C)
  let cell := { baseCell s c with opc := 0x10, qpe := if isChan c then m.ep else (baseCell s c).qpe, plen := b.length, payload := b,
                                  tc := m.tc }
  let s1 := sendMod s c m.msn m.resp (fun m => { m with headSent := true, reHead := false, headCsn := C.csn })
  let s2 := connMod s1 c (fun C => { C with grants := spend C.grants 1 })
  launch s2 c m cell ⟨C.csn, m.msn, m.resp, true, 0, s.time, 1⟩ retx

/-- A data cell or packet of n units from an offset (R177). -/
def dataCell (s : State) (c : Nat) (m : SendMsg) (off n : Nat) (bytes : List Byte) (poison : Marks) : Cell :=
  let last := dataUnits m - 1
  let first := decide (off = 0)
  let isLast := decide (off + n - 1 = last)
  let tail := m.len - 512 * last
  { baseCell s c with
    opc := m.opc, qpe := if isChan c then m.ep else (baseCell s c).qpe, tc := m.tc, first := first, last := isLast, msn := m.msn,
    offset := if first then (if isLast then 0 else last) else off,
    plen := if first || isLast then tail else 512,
    akey := if m.opc = 0x0A then m.tenant % 256 else if first || isLast then m.imm.getD m.akey else m.akey,
    payload := bytes, poison := poison }

/-- Sends n units of a message whose bytes are there; their credit was taken when they were picked. -/
def sendUnits (s : State) (c : Nat) (m : SendMsg) (off n : Nat) (bytes : List Byte) (poison : Marks) (retx : Bool) : State :=
  if encOn s c && (encKey s c).isNone then encFails s c
  else
    let s1 := if poison = [] then s else sendMod s c m.msn m.resp (fun m => { m with poison := true })
    launch s1 c m (dataCell s c m off n bytes poison) ⟨(conn s c).csn, m.msn, m.resp, false, off, s.time, n⟩ retx

/-! ### The budget is spent (R191, Table 7-2) -/

/-- A failover QP stops (Table 7-2): entries in flight are the twin's now. TPE_QSTAT takes the status, since Table 4-4 takes the event of the
queues of a QP that enters HANDED_OVER from it. -/
def standDown (s : State) (c status : Nat) : State :=
  let s1 := dropSends (connMod s c (fun C => { C with st := 6, errStatus := status })) c
  boundQueuesError (reclaimAll (failRecvs s1 c status) c) c status

/-- A failover QP hands its traffic over (R200). -/
def handOver (s : State) (c status : Nat) : State := markMirror (standDown s c status) c 1

/-- The retry budget of a connection is spent, or there is no route: the status of R191, the peer is suspect, and the connection follows
Table 7-2. -/
def budgetSpent (s : State) (c : Nat) : State :=
  let st := if noRoute s c then Status.peerUnreachable else Status.retryExceeded
  let s1 := suspect s (connTenant s c) (connNode s c + ownPlane s * 4096) st (if isChan c then 0 else c) (unreachable s (connNode s c))
  if !isChan c && wbit (conn s c).cfg 51 && decide ((conn s c).st = 2) then handOver s1 c st else connError s1 c st

/-- A head finds no route when it is first sent (R191). -/
def headNoRoute (s : State) (c : Nat) : State := budgetSpent s c

/-! ### Abandoning a message (R185) -/

/-- The head that tells the receiver that a message is abandoned. -/
def abortHead (m : SendMsg) (status : Nat) : SendMsg :=
  { m with
    opc := 0x0F, by_ := .response, len := 0, headLen := 0, imm := none, varg := status, headSent := false, next := 0, retx := [],
    reHead := false, reads := [], held := [], reReads := [], rpend := [], rdata := [], region := none, respUnits := 0, respLen := 0,
    rnrWait := false, poison := false }

/-- The sender abandons a message with a status: an ABORT head follows a head that was sent; where none was, the receiver still has to pass
the MSN, and an ABORT head goes out in its place. A reply that is abandoned ends its INVOKE with KERNEL_FAULT (R363); a READ response ends its
READ. `frag`: the fragment that failed (R81). -/
def abandonAt (s : State) (c : Nat) (m : SendMsg) (status frag : Nat) : State :=
  let s1 := connMod (dropStages (endSend s c m) c true (fun x => decide (x = m.msn))) c (fun C => { C with
    send := C.send.filter (fun x => !decide (x.msn = m.msn ∧ x.resp = m.resp)),
    flight := C.flight.filter (fun r => !decide (r.msn = m.msn ∧ r.resp = m.resp)) })
  let s2 := issuerDoneAt (leaveRegion s1 m) m.by_ status 0 frag
  if m.opc = 0x09 then
    sendAck (connMod s2 c (fun C => { C with recs := C.recs ++ [(m.msn, Status.kernelFault, 0)] })) c
  else if m.resp then failRecv s2 c m.msn status status
  else if m.acked then s2
  else connMod s2 c (fun C => { C with send := insertMsn (abortHead m status) C.send })
where
  /-- Puts a message back at its place in MSN order. -/
  insertMsn (a : SendMsg) : List SendMsg → List SendMsg
    | [] => [a]
    | x :: r => if x.resp || msnBelow x.msn a.msn then x :: insertMsn a r else a :: x :: r

/-- The same, where no fragment failed. -/
def abandonSend (s : State) (c : Nat) (m : SendMsg) (status : Nat) : State := abandonAt s c m status 0

/-! ### One unit of work -/

/-- Units that a packet may take on a path: 1 on the fabric, TX_UNITS on a port (R262). -/
def packetUnits (s : State) (c : Nat) : Nat :=
  let p := connPath s c
  if p = 0 then 1 else max 1 (fld (reg s Reg.EMAC_FRAME p) 17 14)

/-- How many units go together from an offset: consecutive ones, for which there is credit. -/
def runUnits (s : State) (c : Nat) (m : SendMsg) (off : Nat) (again : Bool) : Nat :=
  let n := min (packetUnits s c) (min (balance (conn s c)) (dataUnits m - off))
  if again then ((List.range n).takeWhile (fun i => m.retx.contains (off + i))).length else n

/-- A READ response whose last cell has been read lets go of its region, and the READ is complete at the responder (Table 6-6). -/
def respRead (s : State) (c msn : Nat) : State :=
  match sendMsg s c msn true with
  | none => s
  | some m =>
    if m.next < dataUnits m ∨ m.reads ≠ [] then s
    else
      let s1 := match m.region with
        | some r => accessEnd (sendMod s c msn true (fun m => { m with region := none })) r
        | none => s
      if m.opc = 0x04 then finishRecv s1 c msn Status.ok else s1

/-- Units of a message are being sent: they leave what is to be sent again, or move the next offset, and spend credit. -/
def noteUnits (s : State) (c : Nat) (m : SendMsg) (off n : Nat) (again : Bool) : State :=
  connMod (sendMod s c m.msn m.resp (fun m =>
    if again then { m with retx := m.retx.filter (fun o => !decide (off ≤ o ∧ o < off + n)) } else { m with next := off + n })) c
    (fun C => { C with grants := spend C.grants n })

/-- A source read joins those of its message, in the order of its cell. -/
def noteRead (s : State) (c : Nat) (m : SendMsg) (i : Issued) (again : Bool) : State :=
  sendMod s c m.msn m.resp (fun m => { m with
    reads := m.reads ++ [i], reReads := if again then m.reReads ++ [i.key] else m.reReads })

/-- The status that a source read which fails ends its message with. -/
def readStatus (m : SendMsg) (st : Nat) : Nat := if m.resp ∧ m.opc ≠ 0x09 then Status.remoteAccess else st

/-- Sends or reads n units of a message from an offset. -/
def takeUnits (s : State) (c : Nat) (m : SendMsg) (off n : Nat) (again : Bool) : State × Nat :=
  let len := unitBytes m off n
  match m.src with
  | .data b =>
    (sendUnits (noteUnits s c m off n again) c m off n ((b.drop (512 * off)).take len) (marksIn m.bad (512 * off) len) again, n)
  | .phys _ a =>
    (noteRead (noteUnits s c m off n again) c m { key := off, ctx := 2 ^ 16, len := len, pieces := [(.loc (a + 512 * off), len)] } again, n)
  | .mem t x segs =>
    if len = 0 then (respRead (sendUnits (noteUnits s c m off n again) c m off n [] [] again) c m.msn, n)
    else match issueSegs s t x segs (512 * off) len off { rd := true } with
      | (s1, .need a) => (stall s1 x a (.pick (connPath s c)), 0)
      | (s1, .fail st) => (abandonAt s1 c m (readStatus m st) (failFrag s1 t x { rd := true } segs (512 * off) len), 0)
      | (s1, .ok i) =>
        if m.resp && isFailover s c && anyLocal i.pieces then (abandonSend (endXfer s1 i) c m Status.remoteAccess, 0)
        else (busReads (noteRead (noteUnits s1 c m off n again) c m i again) t (.source c m.msn m.resp off) i.pieces, n)

/-- What is left of the implied grant that an earlier head of the message carried. -/
def impliedLeft (C : Conn) (m : SendMsg) : Nat := ((C.granted.find? (fun g => decide (g.gseq = 2 ^ 32 + m.msn))).map (·.left)).getD 0

/-- The units that a head still has to take from the requester's own pool (R211): all of its implied grant, or, when it is sent again, what
has been used or reclaimed of it. -/
def impliedNeed (C : Conn) (m : SendMsg) : Nat := impliedGrant m - impliedLeft C m

/-- Takes them as a grant of its own, whose sequence number lies beyond those of the others. -/
def takeImplied (s : State) (c : Nat) (m : SendMsg) : State :=
  let n := impliedNeed (conn s c) m
  let old := impliedLeft (conn s c) m
  if n = 0 then s
  else connMod (egressMod s (connPath s c) (fun E => { E with outstanding := E.outstanding + n, taken := E.taken + n * 10000 })) c
    (fun C => { C with granted := C.granted.filter (fun g => !decide (g.gseq = 2 ^ 32 + m.msn)) ++ [⟨2 ^ 32 + m.msn, old + n⟩] })

/-- A head may carry its implied grant: it has none to take, or the grant may go out now (R205, R211). -/
def impliedOk (s : State) (c : Nat) (m : SendMsg) : Bool :=
  decide (impliedNeed (conn s c) m = 0) || grantOk s (connPath s c) (impliedNeed (conn s c) m)

/-- The key slot of an ENC connection is being loaded again after a parity error: its use waits (Table 17-3). -/
def keyWaits (s : State) (c : Nat) : Bool := encOn s c && (keySlot s (conn s c).key).reloading

/-- One piece of work of a connection in a class: the state, and the units it used; 0 ends the slice. -/
def serveOne (s : State) (c k : Nat) : State × Nat :=
  let C := conn s c
  if !connReady C k || keyWaits s c then (s, 0)
  else if !csnRoom C then (bumpFn s Reg.TPE_INFLIGHT_FULL (connTenant s c), 0)
  else match nextWork C k with
    | none => (s, 0)
    | some (m, .headAgain) => if impliedOk s c m then (sendHead (takeImplied s c m) c m true, 1) else (s, 0)
    | some (m, .again off) => takeUnits s c m off (max 1 (runUnits s c m off true)) true
    | some (m, .head) =>
      if noRoute s c then (headNoRoute s c, 0)
      else if !impliedOk s c m then (s, 0)
      else if encOn s c && (encKey s c).isNone then (encFails s c, 0)
      else (sendHead (takeImplied s c m) c m false, 1)
    | some (m, .data off) => takeUnits s c m off (runUnits s c m off false) false

/-- A service slice: up to 64 units of one connection in one class (R168). -/
def serveSlice (s : State) (c k : Nat) : Nat → Nat → State
  | 0, _ => s
  | n + 1, left =>
    if left = 0 then s
    else match serveOne s c k with
      | (s1, 0) => s1
      | (s1, u) => serveSlice s1 c k n (left - u)

/-- A raw frame that cannot be read ends its entry; `frag`: the fragment that failed. -/
def rawFails (s : State) (e : Nat) (r : RawTx) (status frag : Nat) : State :=
  entryDone (eportMod s e (fun P => { P with raw := P.raw.filter (fun y => !decide (y.queue = r.queue ∧ y.idx = r.idx)) }))
    r.queue r.idx status 0 frag

/-- Starts a raw frame of a class: its bytes are read from its entry's source (R271). -/
def serveRaw (s : State) (e k : Nat) : State :=
  match (eport s e).raw.find? (fun r => decide (r.cls = k) && r.xfer.isNone && !r.sent) with
  | none => s
  | some r => match entry s r.queue r.idx with
    | none => s
    | some x =>
      let put := fun (s : State) (i : Issued) => eportMod s e (fun P => { P with
        raw := mapIf (fun y => decide (y.queue = r.queue ∧ y.idx = r.idx)) (fun y => { y with xfer := some i }) P.raw })
      match entrySource s r.queue x with
      | .data _ => put s {}
      | .phys _ _ => put s {}
      | .mem t c segs => match issueSegs s t c segs 0 r.len 0 { rd := true } with
        | (s1, .need a) => stall s1 c a (.pick e)
        | (s1, .fail st) => rawFails s1 e r st (failFrag s1 t c { rd := true } segs 0 r.len)
        | (s1, .ok i) => busReads (put s1 i) t (.frame r.queue r.idx) i.pieces

/-- The mark under which raw frames take their turn in a class's round robin. -/
def rawTurn : Nat := 2 ^ 400

/-- A slice released to a core that is free is served; while the core serves another, it waits its turn (R168). The cells of a slice go out in
the step that begins it; the core is busy until CORE_SLICE_END. -/
def releaseSlice (s : State) (c k : Nat) : State :=
  let busy := s.tpe.slices.any (fun x => decide (coreOf x.1 = coreOf c))
  let s1 := { s with tpe := { s.tpe with slices := s.tpe.slices ++ [(c, k)] } }
  if busy then s1 else demandCheck (serveSlice s1 c k 64 64) c

/-- CORE_SLICE_END (R168): the core ends the slice it serves and turns to the next one that was released to it. -/
def execCoreSliceEnd (core : Nat) (s : State) : Host.Outcome State Fault Refusal :=
  let mine := s.tpe.slices.filter (fun x => decide (coreOf x.1 = core))
  let s1 := { s with tpe := { s.tpe with slices := s.tpe.slices.filter (fun x => decide (coreOf x.1 ≠ core)) ++ mine.drop 1 } }
  match mine.drop 1 with
  | [] => .next s1
  | x :: _ => .next (demandCheck (serveSlice s1 x.1 x.2 64 64) x.1)

/-- A connection is picked in a class: its context is fetched first where the cache does not hold it, and its slice is released (R166). -/
def pickConn (s : State) (c k : Nat) : State :=
  let s1 := touchContext s c
  if s1.tpe.cached.contains c then releaseSlice s1 c k else s1

/-- SCHEDULER_PICK (R166, R168, R215 to R217, R223): one pick at an egress point. The cells of class 0 that wait go before all others. -/
def schedulerPick (s : State) (e : Nat) : State :=
  if class0Open s e && !(egress s e).waiting0.isEmpty then drainClass0 s e 64
  else
    let s1 := noteReady s e
    match pickClass s1 e with
    | none => s1
    | some k =>
      let s2 := if 4 ≤ k then egressMod s1 e (fun E => { E with vtime := (cls s1 e k).start }) else s1
      match rotate (cls s2 e k).last (candidates s2 e k ++ (if rawReady s2 e k then [rawTurn] else [])) with
      | none => s2
      | some c =>
        let s3 := clsMod s2 e k (fun K => { K with last := c })
        noteReady (if c = rawTurn then serveRaw s3 e k else pickConn s3 c k) e

/-- SCHEDULER_PICK. -/
def execSchedulerPick (egress : Nat) (s : State) : Host.Outcome State Fault Refusal :=
  if egress < 5 ∧ running s then .next (schedulerPick s egress) else .next s

/-! ### Source reads return (R106, R147, R493, R494) -/

/-- The cells whose bytes are in go out in the order of their reads (R179). -/
def drainReads (s : State) (c msn : Nat) (resp : Bool) : Nat → State
  | 0 => s
  | n + 1 =>
    match sendMsg s c msn resp with
    | none => s
    | some m => match m.reads with
      | [] => s
      | x :: r => match m.held.find? (fun d => decide (d.1 = x.key)) with
        | none => s
        | some d =>
          let s1 := sendMod s c msn resp (fun m => { m with
            reads := r, held := m.held.filter (fun y => y.1 ≠ x.key), reReads := m.reReads.filter (· ≠ x.key) })
          drainReads (sendUnits s1 c m x.key (unitsOf x.len) d.2.1 d.2.2 (m.reReads.contains x.key)) c msn resp n

/-- The bytes of a source read are in: they wait for those of the cells before theirs, and go out. -/
def heldRead (s : State) (c : Nat) (m : SendMsg) (x : Issued) (b : List Byte) (bad : Marks) : State :=
  let s1 := sendMod s c m.msn m.resp (fun m => { m with
    reads := mapIf (fun y => decide (y.key = x.key)) (fun y => { key := y.key, ctx := 2 ^ 16, len := y.len }) m.reads,
    held := m.held ++ [(x.key, b, bad)] })
  respRead (drainReads s1 c m.msn m.resp (m.reads.length + 1)) c m.msn

/-- The context and segments of a message's source. -/
def sourceSegs (m : SendMsg) : Nat × Nat × List (Nat × Nat) :=
  match m.src with | .mem t c l => (t, c, l) | .phys t _ => (t, 2 ^ 16, []) | .data _ => (m.tenant, 2 ^ 16, [])

/-- A source read is over: its cell goes out, or the message is abandoned. -/
def sourceBytes (s : State) (c : Nat) (m : SendMsg) (x : Issued) (d : Rd) : State :=
  match d with
  | .refused =>
    let g := sourceSegs m
    abandonAt s c m (readStatus m Status.localProtection)
      (if g.2.2 = [] then 0 else failFrag s g.1 g.2.1 { rd := true } g.2.2 (512 * x.key) x.len)
  | .poison b bad => heldRead s c m x b bad
  | .ok b => heldRead s c m x b []

/-- The bytes of a raw frame are in: padded to 60, with its FCS, it leaves the port (R259, R271). -/
def rawBytes (s : State) (e : Nat) (r : RawTx) (b : List Byte) : State :=
  let f := padTo (max 60 b.length) b
  let s1 := charge s e r.cls (f.length + 4)
  let s2 := eportMod s1 e (fun P => { P with
    raw := mapIf (fun y => decide (y.queue = r.queue ∧ y.idx = r.idx)) (fun y => { y with xfer := none, sent := true }) P.raw })
  sendFrame s2 e (f ++ leBytes 4 (crc32 f).toNat) 23

/-- The source read of a raw frame returns. -/
def rawRead (s : State) (q idx : Nat) (bus : Option (List Byte)) : State :=
  match queueRaw s q, entry s q idx with
  | some (e, _), some x =>
    (match (eport s e).raw.find? (fun r => decide (r.queue = q ∧ r.idx = idx) && r.xfer.isSome) with
     | none => s
     | some r => match entrySource s q x, r.xfer with
       | .data b, _ => rawBytes s e r b
       | .phys _ _, _ => s
       | .mem t x segs, some i =>
         if !recordsThere s i.pieces then s
         else match finishRead s t i bus with
           | (s1, .refused) => rawFails s1 e r Status.localProtection (failFrag s1 t x { rd := true } segs 0 r.len)
           | (s1, .poison _ _) => rawFails s1 e r Status.poisoned 0
           | (s1, .ok b) => rawBytes s1 e r b
       | _, none => s)
  | _, _ => s

/-- SOURCE_READ_COMPLETE (R106, R147, R177, R271): a source read returns; `bus` holds what its bus pieces returned, none when one
failed. A sealed source waits until its records have been opened (R411). -/
def execSourceReadComplete (read : ReadRef) (bus : Option (List Byte)) (s : State) : Host.Outcome State Fault Refusal :=
  match read with
  | .frame q idx => .next (rawRead s q idx bus)
  | .cell c msn resp off =>
    match sendMsg s c msn resp with
    | none => .next s
    | some m => match m.reads.find? (fun x => x.key = off) with
      | none => .next s
      | some x =>
        if !recordsThere s x.pieces ∨ m.held.any (fun d => d.1 = off) = true then .next s
        else
          let p := finishRead s (sourceSegs m).1 x bus
          .next (sourceBytes p.1 c { m with reads := m.reads.filter (fun y => y.key ≠ off) } x p.2)

/-! ### Retransmission (R188 to R191) -/

/-- A unit or head that is not acknowledged is to be sent again. -/
def resend (s : State) (c : Nat) (r : CsnRec) : State :=
  let s1 := connMod s c (fun C => { C with flight := C.flight.filter (fun x => x.csn ≠ r.csn) })
  sendMod s1 c r.msn r.resp (fun m =>
    if r.head then { m with reHead := true }
    else { m with retx := m.retx ++ ((List.range r.units).map (· + r.off)).filter (fun o => !m.retx.contains o) })

/-- RETRY_CNT; 0 acts as 1. A channel has the default of 7 (R191). -/
def retryCnt (s : State) (c : Nat) : Nat := if isChan c then 7 else max 1 (nfld (conn s c).ctl 7 4)

/-- RNR_CNT; 0 acts as 1. -/
def rnrCnt (s : State) (c : Nat) : Nat := if isChan c then 7 else max 1 (nfld (conn s c).ctl 11 8)

/-- RTO_MIN and RTO_MAX of a connection's path, in ns (Table 7-10). -/
def rtoMin (s : State) (c : Nat) : Nat :=
  1000 * fld (reg s (if connPath s c = 0 then Reg.TPE_RTO_FAB else Reg.TPE_RTO_ETH) 0) 15 0
def rtoMax (s : State) (c : Nat) : Nat :=
  if connPath s c = 0 then 1000 * fld (reg s Reg.TPE_RTO_FAB 0) 31 16 else 1000000 * fld (reg s Reg.TPE_RTO_ETH 0) 31 16

/-- RTO of a connection, in ns (R189): doubled at each expiry without progress, and capped. -/
def rto (s : State) (c : Nat) : Nat :=
  min (rtoMax s c) (max (rtoMin s c) ((conn s c).srtt + 4 * (conn s c).rttvar) * 2 ^ (conn s c).rtoShift)

/-- RTO_EXPIRY (R188, R189, R191): RTO has passed since a record was sent. An expiry counts against the budget when the record was sent after the
last expiry that counted, so that one round of expiries counts once. -/
def execRtoExpiry (c csn : Nat) (s : State) : Host.Outcome State Fault Refusal :=
  match (conn s c).flight.find? (fun r => r.csn = csn) with
  | none => .next s
  | some r =>
    let s1 := bumpFn s Reg.TPE_RTO_EXP (connTenant s c)
    let fresh := match (conn s c).expCsn with | none => true | some x => !csnBelow csn x
    if s.time < r.at_ + rto s c then .next s
    else if !fresh then .next (demandCheck (resend s1 c r) c)
    else if retryCnt s c ≤ (conn s c).retries + 1 then .next (budgetSpent s1 c)
    else
      let s2 := connMod s1 c (fun C => { C with
        retries := C.retries + 1, rtoShift := C.rtoShift + 1, rotation := (C.rotation + 1) % 8, expCsn := some C.csn })
      .next (demandCheck (resend s2 c r) c)

/-- RNR_WAIT_TIMER (R192): the wait after an RNR record is over. -/
def execRnrWaitTimer (c : Nat) (s : State) : Host.Outcome State Fault Refusal :=
  .next (demandCheck (connMod s c (fun C => { C with send := C.send.map (fun m => { m with rnrWait := false }) })) c)

/-- CREDIT_TIMEOUT (R214): CCS_CRED_TMO ms of waiting for credit. Before the head the entry completes with CREDIT_TIMEOUT and nothing was
sent; after it the budget counts as spent. -/
def execCreditTimeout (c msn : Nat) (s : State) : Host.Outcome State Fault Refusal :=
  match sendMsg s c msn false with
  | none => .next s
  | some m =>
    if 0 < balance (conn s c) ∨ m.rnrWait ∨ m.opc = 0x0F then .next s
    else if m.headSent then .next (if (workOf (conn s c) m).isSome then budgetSpent s c else s)
    else .next (abandonSend (if ofEntry m then bumpFn s Reg.CCS_CRED_TIMEOUT m.tenant else s) c m Status.creditTimeout)

/-! ### Acknowledgements received (R187, R188, R189, R192) -/

/-- The fields of a received ACK (Table 7-6). -/
structure AckMsg where
  cum : Nat
  done : Nat
  echo : Nat
  sacks : List (Nat × Nat)
  recs : List (Nat × Nat × Nat)
deriving DecidableEq, Repr

/-- Reads n 8-byte wire words. -/
def wireWords : Nat → List Byte → List Nat
  | 0, _ => []
  | n + 1, b => beAt b 0 8 :: wireWords n (b.drop 8)

/-- Reads an ACK payload. -/
def readAck (b : List Byte) : AckMsg :=
  let w0 := beAt b 0 8
  let w1 := beAt b 8 8
  let ns := min 31 (nfld w1 31 24)
  let nr := min 31 (nfld w1 23 16)
  let l := wireWords (ns + nr) (b.drop 16)
  { cum := nfld w0 63 32, done := nfld w0 31 8, echo := nfld w1 63 32,
    sacks := (l.take ns).map (fun w => (nfld w 63 32, nfld w 31 16)),
    recs := (l.drop ns).map (fun w => (nfld w 63 40, nfld w 39 32, nfld w 31 24)) }

/-- An ACK covers a CSN. -/
def covers (a : AckMsg) (csn : Nat) : Bool :=
  csnBelow csn a.cum || a.sacks.any (fun p => decide ((csn + 2 ^ 32 - p.1) % 2 ^ 32 < p.2))

/-- CSNs above a given one that an ACK reports received. -/
def higher (a : AckMsg) (csn : Nat) : Nat :=
  a.sacks.foldl (fun n p => n + (if csnBelow csn p.1 then p.2 else 0)) 0

/-- SRTT and RTTVAR after a sample in ns, with gains of 1/8 and 1/4 (R189). -/
def rttSample (C : Conn) (r : Nat) : Conn :=
  let d := if r ≤ C.srtt then C.srtt - r else r - C.srtt
  { C with rttvar := (3 * C.rttvar + d) / 4, srtt := (7 * C.srtt + r) / 8 }

/-- A response or reply, whole and acknowledged, leaves the list, and its sender is told. -/
def dropResponses (s : State) (c : Nat) : State :=
  let C := conn s c
  let isOver := fun (m : SendMsg) => m.resp && decide (dataUnits m ≤ m.next) && decide (m.retx = []) && decide (m.reads = []) &&
    C.flight.all (fun r => !decide (r.msn = m.msn ∧ r.resp = true))
  let gone := C.send.filter isOver
  let s1 := connMod s c (fun C => { C with send := C.send.filter (fun m => !isOver m) })
  gone.foldl (fun s m => issuerDone s m.by_ Status.ok m.len) s1

/-- A message is acknowledged: its entry completes, unless a response still has to come (R126, R187, R193). -/
def ackedMsg (s : State) (c : Nat) (m : SendMsg) : State :=
  let s1 := connMod s c (fun C => { C with flight := C.flight.filter (fun r => !decide (r.msn = m.msn ∧ r.resp = false)) })
  let waits := m.opc = 0x08 ∨ (m.respUnits ≠ 0 ∧ (m.respGot.length < m.respUnits ∨ m.rpend ≠ []))
  if waits then
    sendMod s1 c m.msn false (fun m => { m with acked := true, headSent := true, next := dataUnits m, retx := [], reHead := false, ackedAt := s.time })
  else
    let s2 := dropSend (endSend s1 c m) c m.msn
    issuerDone s2 m.by_ (if m.poison then Status.poisoned else m.status) (if m.respUnits = 0 then m.len else m.respLen)

/-- A final record ends a message (R187): OK acknowledges it, any other status completes it. -/
def finalMsg (s : State) (c : Nat) (m : SendMsg) (status : Nat) : State :=
  if status = 0 then ackedMsg s c m
  else
    let s1 := connMod (endSend s c m) c (fun C => { C with flight := C.flight.filter (fun r => !decide (r.msn = m.msn ∧ r.resp = false)) })
    issuerStatus (dropSend s1 c m.msn) m status

/-- The messages of a connection that pass a test are sent afresh; `wait`: after the wait of an RNR record. -/
def sendAfresh (s : State) (c : Nat) (p : SendMsg → Bool) (wait : Bool) : State :=
  let again := fun (x : SendMsg) => !x.resp && !x.acked && p x
  let l := (conn s c).send.filter again
  connMod (endTransfers s (l.map (·.reads)).flatten) c (fun C => { C with
    flight := C.flight.filter (fun r => r.resp || !l.any (fun m => m.msn = r.msn)),
    send := C.send.map (fun x => if again x then
      { x with headSent := false, next := 0, retx := [], reHead := false, reads := [], held := [], reReads := [], rnrWait := wait } else x) })

/-- An RNR record (R184, R192): the refused message and those after it are sent again after a wait. RNR_CNT refusals in a row complete the
entry with RETRY_EXCEEDED; the messages after it, which the receiver has refused with it, are sent again behind its ABORT head. -/
def rnrRecord (s : State) (c msn : Nat) : State :=
  match sendMsg s c msn false with
  | none => s
  | some m =>
    if rnrCnt s c ≤ m.rnr + 1 then
      abandonSend (sendAfresh s c (fun x => msnBelow msn x.msn) false) c m Status.retryExceeded
    else sendAfresh (sendMod s c msn false (fun m => { m with rnr := m.rnr + 1 })) c (fun x => !msnBelow x.msn msn) true

/-- One message record. -/
def takeRecord (s : State) (c : Nat) (r : Nat × Nat × Nat) : State :=
  match sendMsg s c r.1 false with
  | none => s
  | some m => if r.2.2 = 1 then rnrRecord s c r.1 else if r.2.2 = 0 then finalMsg s c m r.2.1 else s

/-- Every message below DONE_MSN is acknowledged. -/
def takeDone (s : State) (c done : Nat) : State :=
  ((conn s c).send.filter (fun m => !m.resp && !m.acked && m.headSent && msnBelow m.msn done)).foldl (fun s m => ackedMsg s c m) s

/-- ACK_RECEIVE (R187 to R189). -/
def ackReceive (s : State) (c : Nat) (a : AckMsg) : State :=
  let C := conn s c
  let progress := csnBelow C.peerCum a.cum || msnBelow C.peerDone a.done
  let sample := C.flight.find? (fun r => r.csn = a.echo)
  let s1 := connMod s c (fun C =>
    let C1 := match sample with | some r => rttSample C (s.time - r.at_) | none => C
    let C2 := { C1 with flight := C1.flight.filter (fun r => !covers a r.csn),
                        peerCum := if csnBelow C1.peerCum a.cum then a.cum else C1.peerCum,
                        peerDone := if msnBelow C1.peerDone a.done then a.done else C1.peerDone }
    if progress then { C2 with retries := 0, rtoShift := 0, expCsn := none } else C2)
  let s2 := takeDone (a.recs.foldl (fun s r => takeRecord s c r) s1) c a.done
  let lost := (conn s2 c).flight.filter (fun r => decide (64 ≤ higher a r.csn ∧ r.at_ + 4000 ≤ s.time))
  let s3 := lost.foldl (fun s r => resend s c r) s2
  closeCheck (demandCheck (dropResponses s3 c) c) c

/-- ACK_RECEIVE. -/
def execAckReceive (k : Packet) (s : State) : Host.Outcome State Fault Refusal :=
  let c := packetConn k
  let C := conn s c
  if !running s then .next s
  else if C.st = 0 ∨ C.st = 4 then .next (deadCell s k)
  else if C.st ≠ 2 ∧ C.st ≠ 3 then .next s
  else if !k.chan && decide (connNode s c ≠ k.cell.snode ∨ connPath s c ≠ k.port) then .next s
  else .next (ackReceive s c (readAck k.cell.payload))

end Sys2Proof.Machine
end

