-- ==== Sys2Proof/Machine/Tgd.lean ====
section
/-! DEFINITION. The tile grid (chapter 13): tiles and their channels, the kernel table, the invoke dispatcher, invocations and their
ends, traps, tile failure and clearing. -/
namespace Sys2Proof.Machine

/-! ### Tiles -/

/-- Rewrites a logical tile. -/
def tileMod (s : State) (t : Nat) (f : Tile → Tile) : State :=
  { s with tgd := { s.tgd with tiles := tmod (fun _ => {}) s.tgd.tiles t f } }

/-- The owner of a logical tile (R325). -/
def tileOwner (s : State) (t : Nat) : Nat := owner s 0x08 t

/-- Quadrant, column and row of a site (R10, R322): 42 sites to a quadrant, 6 columns of 7 rows. -/
def siteQuad (n : Nat) : Nat := n / 42

/-- Column of a site over the package. -/
def siteX (n : Nat) : Nat := siteQuad n % 2 * 6 + n % 42 % 6

/-- Row of a site over the package. -/
def siteY (n : Nat) : Nat := siteQuad n / 2 * 7 + n % 42 / 6

/-- TILE_REMAP_BUILD (R322): logical numbers go to the passing sites in order; the next passing sites, up to 8, are spares; numbers
without a site are ABSENT. A tile starts cleared and IDLE. -/
def remapBuild (s : State) (bad : List Nat) : State :=
  let n := tileCount s.variant
  let good := (List.range 168).filter (fun x => !bad.contains x)
  let act := good.take n
  let tiles : Tbl Tile := (List.range act.length).map (fun t => (t, { st := 2, site := act.getD t 0 }))
  let quads : Tbl Nat := (List.range act.length).foldl (fun tb t => tset (fun _ => 0) tb t (siteQuad (act.getD t 0))) []
  { s with
    tgd := { tiles := tiles, spares := if n = 0 then [] else (good.drop n).take 8 }, sqm := { s.sqm with tileQuad := quads } }

/-- An async event and record of class KERNEL (Table 21-2): cause, kernel, tile, HANDLE, pc, trap value. -/
def kernelReport (s : State) (t status sev cause kernel tile handle pc value : Nat) : State :=
  report s { cls := 0x0E, status := status, sev := sev, unit := 9, tenant := t, inst := tile,
             w3 := w64 (cause % 256 + kernel % 1024 * 2 ^ 16 + tile % 256 * 2 ^ 32 + handle % 16384 * 2 ^ 48),
             w4 := w64 pc, w5 := w64 value }

/-- An async event of class CAPACITY with UNIT_ABSENT that names a tile or a kernel entry (R324, R332). -/
def absentReport (s : State) (t inst : Nat) : State :=
  report s { cls := 0x10, status := Status.unitAbsent, sev := 2, unit := 9, tenant := t, inst := inst }

/-! ### The kernel table (R328) -/

/-- VALID, MODE ALL, OWNER, CTX, FIRST, COUNT, CH, CLASS, ENTRY, QUOTA and LIMIT of a kernel entry (Table 13-2). -/
def kValid (s : State) (k : Nat) : Bool := wbit (kent s k 0) 0

/-- MODE is ALL. -/
def kAll (s : State) (k : Nat) : Bool := wbit (kent s k 0) 1

/-- OWNER. -/
def kOwner (s : State) (k : Nat) : Nat := fld (kent s k 0) 15 8

/-- CTX. -/
def kCtx (s : State) (k : Nat) : Nat := fld (kent s k 0) 31 16

/-- The logical tiles of the set, in rank order. -/
def kTiles (s : State) (k : Nat) : List Nat :=
  (List.range (fld (kent s k 0) 47 40)).map (· + fld (kent s k 0) 39 32)

/-- CH. -/
def kCh (s : State) (k : Nat) : Nat := fld (kent s k 0) 51 48

/-- CLASS. -/
def kClass (s : State) (k : Nat) : Nat := fld (kent s k 0) 57 52

/-- ENTRY. -/
def kEntry (s : State) (k : Nat) : Nat := fld (kent s k 1) 31 0

/-- QUOTA. -/
def kQuota (s : State) (k : Nat) : Nat := fld (kent s k 1) 47 32

/-- LIMIT in ms; 0 acts as 1,000. -/
def kLimit (s : State) (k : Nat) : Nat := let l := fld (kent s k 1) 63 48; if l = 0 then 1000 else l

/-- A VALID kernel entry names a channel of a tile as its CH (R327). -/
def chanOfKernel (s : State) (t ch : Nat) : Bool :=
  (List.range 1024).any (fun k => kValid s k && decide (kCh s k = ch) && (kTiles s k).contains t)

/-- A VALID kernel entry other than one names a channel of a tile as its CH (R364). -/
def chanOfOther (s : State) (t ch k0 : Nat) : Bool :=
  (List.range 1024).any (fun k => decide (k ≠ k0) && kValid s k && decide (kCh s k = ch) && (kTiles s k).contains t)

/-- Clears VALID of a kernel entry. -/
def kClear (s : State) (k : Nat) : State := setReg s Reg.TGD_KENTw k (w64 ((kent s k 0).toNat / 2 * 2))

/-- Invocations of a kernel admitted and not yet ended (TGD_KSTAT.IN_USE). -/
def kInUse (s : State) (k : Nat) : Nat := (s.tgd.invs.filter (fun i => i.2.kernel = k)).length

/-! ### Channels (R331, R362, R396) -/

/-- Words reserved in a channel. -/
def chanResv (s : State) (q : Nat) : Nat := tget (fun _ => 0) s.tgd.resv q

/-- Sets the words reserved in a channel. -/
def chanResvMod (s : State) (q : Nat) (f : Nat → Nat) : State :=
  { s with tgd := { s.tgd with resv := tmod (fun _ => 0) s.tgd.resv q f } }

/-- Words queued and reserved in a channel. -/
def chanFill (s : State) (q : Nat) : Nat := (sqmQ s q).words.length + chanResv s q

/-- Takes cells until a queue has room for n words more than it holds. -/
def chanCells (s : State) (q n : Nat) : Nat → Option State
  | 0 => none
  | k + 1 => if n ≤ sqmRoom (sqmQ s q) then some s else (sqmCell s q).bind (fun s1 => chanCells s1 q n k)

/-- Reserves n words of a channel, with their SQM cells; none when the depth or the cells do not allow it. -/
def chanReserve (s : State) (q n : Nat) : Option State :=
  if sqmLimit s q < chanFill s q + n ∨ (sqmQ s q).clearing then none
  else (chanCells s q (chanResv s q + n) 4200).map (fun s1 => chanResvMod s1 q (· + n))

/-- Reserves n words in the channel of every tile of a list. -/
def reserveAll (s : State) (ch n : Nat) : List Nat → Option State
  | [] => some s
  | t :: r => (chanReserve s (tileQ t ch) n).bind (fun s1 => reserveAll s1 ch n r)

/-- Words enter reserved space of a channel. -/
def chanPut (s : State) (q : Nat) (ws : List SqmWord) : State :=
  sqmMod (chanResvMod s q (· - ws.length)) q (fun Q => { Q with words := Q.words ++ ws })

/-- Pops n words of a channel and drops them. -/
def chanDrop (s : State) (q : Nat) : Nat → State
  | 0 => s
  | n + 1 => if (sqmQ s q).words = [] then s else chanDrop (sqmPop s q false).1 q n

/-! ### Dispatch (R331 to R333) -/

/-- The target tiles of an admission (R332): every tile of the set, or the one with the fewest words queued in CH. -/
def pickTiles (s : State) (k : Nat) : List Nat :=
  if kAll s k then kTiles s k
  else
    let l := (kTiles s k).filter (fun t => (tile s t).st ≠ 0)
    match l.foldl (fun (m : Option Nat) t =>
        match m with
        | none => some t
        | some b => if (sqmQ s (tileQ t (kCh s k))).words.length < (sqmQ s (tileQ b (kCh s k))).words.length then some t else some b) none with
    | none => []
    | some t => [t]

/-- Words of a record of n argument bytes (R333). -/
def recordLen (n : Nat) : Nat := 4 + (n + 7) / 8

/-- The lowest free HANDLE of the invocation table. -/
def freeHandle (s : State) : Option Nat :=
  (List.range 16384).find? (fun h => s.tgd.invs.all (fun i => i.1 ≠ h))

/-- The three reservations of R331; none refuses the head with INVOKE_REJECTED, with nothing held. -/
def dispatch (s : State) (c msn region k argLen replyMax : Nat) : Option State :=
  let ts := pickTiles s k
  match (if ts = [] ∨ kQuota s k ≤ kInUse s k then none else freeHandle s) with
  | none => none
  | some h =>
    (reserveAll s (kCh s k) (recordLen argLen) ts).map (fun s1 =>
      { s1 with tgd := { s1.tgd with
          staging := s1.tgd.staging + b2n (decide (0 < argLen)),
          admitted := tmod (fun _ => 0) s1.tgd.admitted k (fun n => wrap32 (n + 1)),
          invs := s1.tgd.invs ++ [(h, { kernel := k, conn := c, msn := msn, region := region, argLen := argLen,
                                        replyMax := replyMax, ch := kCh s k, all := kAll s k, tiles := ts, live := ts,
                                        time := s.time })] } })

/-- The invocation of a HANDLE. -/
def invocation (s : State) (h : Nat) : Option Invocation := (s.tgd.invs.find? (fun i => i.1 = h)).map (·.2)

/-- Rewrites an invocation. -/
def invMod (s : State) (h : Nat) (f : Invocation → Invocation) : State :=
  { s with tgd := { s.tgd with invs := s.tgd.invs.map (fun i => if i.1 = h then (i.1, f i.2) else i) } }

/-- The HANDLE of the invocation of a message. -/
def handleOf (s : State) (c msn : Nat) : Option Nat :=
  (s.tgd.invs.find? (fun i => i.2.conn = c ∧ i.2.msn = msn)).map (·.1)

/-- The four header words of a record (Table 13-3). -/
def recordHead (s : State) (h : Nat) (i : Invocation) (rank : Nat) : List W64 :=
  [ w64 (h + i.argLen * 2 ^ 16 + i.kernel * 2 ^ 32),
    w64 (rank + (if i.all then i.tiles.length else 1) * 2 ^ 8 + i.replyMax * 2 ^ 16),
    w64 (i.region + connNode s i.conn * 2 ^ 32 + ownPlane s * 2 ^ 44 + b2n (decide (connPath s i.conn ≠ 0)) * 2 ^ 45),
    w64 i.time ]

/-- The argument words, padded with zero bytes to a whole word; a word with a poisoned byte carries POISON. -/
def argWords (bytes : List Byte) (bad : Marks) : Nat → Nat → List SqmWord
  | 0, _ => []
  | n + 1, k => ⟨w64 (leAt bytes (8 * k) 8), if marksIn bad (8 * k) 8 = [] then 0 else 2⟩ :: argWords bytes bad n (k + 1)

/-- A record enters the reserved space of its tiles' channels. -/
def writeRecords (s : State) (h : Nat) (i : Invocation) (args : List SqmWord) : Nat → List Nat → State
  | _, [] => s
  | rank, t :: r =>
    let q := tileQ t i.ch
    let ws := (recordHead s h i (if i.all then rank else 0)).map (fun w => (⟨w, 0⟩ : SqmWord)) ++ args
    let s1 := chanPut s q ws
    writeRecords { s1 with tgd := { s1.tgd with records := s1.tgd.records ++ [(q, h)] } } h i args (rank + 1) r

/-! ### Outcomes (R336 to R338, Table 13-4) -/

/-- The status with which an invocation ends: before any reply, a QUIESCING tenant comes first (Table 13-4). -/
def outcomeStatus (s : State) (k status : Nat) : Nat :=
  if (tenant s (kOwner s k)).st = 2 ∨ (tenant s (kOwner s k)).st = 3 then Status.contextGone else status

/-- Fixes the outcome of an invocation at a status, unless a reply was accepted or it is fixed already, and sends the final record. -/
def fixOutcome (s : State) (h status0 : Nat) : State :=
  match invocation s h with
  | none => s
  | some i =>
    if i.reply.isSome ∨ i.status.isSome then s
    else
      let status := outcomeStatus s i.kernel status0
      let s1 := invMod s h (fun i => { i with status := some status, told := true })
      if (conn s1 i.conn).st = 2 ∨ (conn s1 i.conn).st = 3 then
        if (recvMsg s1 i.conn i.msn).isSome then finishRecv s1 i.conn i.msn status
        else sendAck (connMod s1 i.conn (fun C => { C with recs := C.recs ++ [(i.msn, status, 0)] })) i.conn
      else s1

/-- A tile stops (R369): what it has not issued is dropped; it is IDLE once no issued burst remains. -/
def tileIdle (s : State) (t : Nat) : State :=
  tileMod s t (fun T => if T.dmas = [] ∧ T.atomXfer.pieces = [] then { T with st := 2, stopping := false } else { T with stopping := true })

/-- Unread argument words leave the channel, and the tile stops (R334, R369). -/
def tileStop (s : State) (t : Nat) : State :=
  let T := tile s t
  let s1 := chanDrop s (tileQ t T.ch) T.argLeft
  tileIdle (tileMod s1 t (fun T => { T with
    argLeft := 0, atomDest := none, sends := T.sends.filter (fun x => decide (x.kind ≠ 0)),
    dmas := T.dmas.filter (fun d => d.burst.isSome) })) t

/-- A tile no longer runs an invocation. -/
def invLeave (s : State) (h t : Nat) : State := invMod s h (fun i => { i with live := i.live.filter (· ≠ t) })

/-- Records of an invocation that have not started are discarded from a tile's channel: words and place. -/
def dropRecord (s : State) (h : Nat) (i : Invocation) (t : Nat) : State :=
  let q := tileQ t i.ch
  let n := recordLen i.argLen
  if !i.written then chanResvMod s q (· - n)
  else
    let T := tile s t
    let run := if (T.st = 3 ∨ T.stopping) ∧ T.ch = i.ch then T.argLeft else 0
    let before := (s.tgd.records.filter (fun r => r.1 = q)).takeWhile (fun r => r.2 ≠ h)
    let skip := before.foldl (fun k r => k + recordLen (((invocation s r.2).map (·.argLen)).getD 0)) run
    let s1 := sqmMod s q (fun Q => { Q with words := Q.words.take skip ++ Q.words.drop (skip + n) })
    { s1 with tgd := { s1.tgd with records := s1.tgd.records.filter (fun r => !decide (r.1 = q ∧ r.2 = h)) } }

/-- The tile runs the invocation. -/
def runs (s : State) (t h : Nat) : Bool := decide ((tile s t).st = 3 ∧ (tile s t).handle = h)

/-- Every other tile of an invocation stops, and its records that have not started go (R338). -/
def stopRest (s : State) (h : Nat) (i : Invocation) : State :=
  i.live.foldl (fun s t =>
    invLeave (if runs s t h then (if (tile s t).stopping then s else tileStop s t) else dropRecord s h i t) h t) s

/-- A tile of an invocation trapped, failed or reached LIMIT (R338, R368): outcome, stops, counter, event and record. -/
def kernelDown (s : State) (t cause pc value counter sev : Nat) : State :=
  let T := tile s t
  match invocation s T.handle with
  | none => s
  | some i =>
    let own := kOwner s i.kernel
    let s1 := kernelReport s own Status.kernelFault sev cause i.kernel t T.handle pc value
    let s2 := invLeave (tileStop s1 t) T.handle t
    if i.reply.isSome ∨ i.status.isSome then s2
    else
      let s3 := fixOutcome (bumpFn s2 counter own) T.handle Status.kernelFault
      stopRest s3 T.handle { i with live := i.live.filter (· ≠ t) }

/-- A trap of the running tile (R367). -/
def trap (s : State) (t cause value : Nat) : State := kernelDown s t cause (tile s t).pc value Reg.TGD_KFAULT 0

/-- Every tile of an invocation has ended it without a reply (Table 13-4). -/
def endCheck (s : State) (h : Nat) : State :=
  match invocation s h with
  | none => s
  | some i => if i.live = [] then fixOutcome s h Status.kernelFault else s

/-! ### The commands of the grid -/

/-- INVOKE_RECORD_WRITE (R331, R333): every argument cell has arrived; the record enters the reserved space, ADMITTED falls, and the
message is complete. -/
def execInvokeRecordWrite (c msn : Nat) (s : State) : Host.Outcome State Fault Refusal :=
  match recvMsg s c msn, handleOf s c msn with
  | some m, some h =>
    (match invocation s h with
     | none => .next s
     | some i =>
       if !m.executed ∨ i.written ∨ i.status.isSome ∨ m.complete ∨ m.pend ≠ [] ∨ m.covered.length < unitsOf m.len then .next s
       else
         let bytes := (List.range m.len).map (fun k => tget (fun _ => (0 : Byte)) m.staging k)
         let args := argWords bytes (m.pendData.flatMap (fun d => marksUp d.2.2 (512 * d.1))) ((m.len + 7) / 8) 0
         let s1 := writeRecords (invMod s h (fun i => { i with written := true })) h { i with written := true } args 0 i.tiles
         let s2 := { s1 with tgd := { s1.tgd with staging := s1.tgd.staging - b2n (decide (0 < m.len)) } }
         .next (finishRecv s2 c msn Status.ok))
  | _, _ => .next s

/-- The first record of a channel. -/
def firstRecord (s : State) (q : Nat) : Option Nat := (s.tgd.records.find? (fun r => r.1 = q)).map (·.2)

/-- TILE_START (R334, R343): an IDLE tile pops the header of the record at the head of a channel into g1 to g4 and begins at ENTRY
from the start values; tile memory and outstanding message operations persist. -/
def execTileStart (t ch : Nat) (s : State) : Host.Outcome State Fault Refusal :=
  let q := tileQ t ch
  match firstRecord s q with
  | none => .next s
  | some h =>
    match invocation s h with
    | none => .next s
    | some i =>
      if (tile s t).st ≠ 2 then .next s
      else
        let ws := ((sqmQ s q).words.take 4).map (·.data)
        let s1 := chanDrop s q 4
        let s2 := { s1 with tgd := { s1.tgd with records := (takeFirst (fun r => decide (r.1 = q)) s1.tgd.records).elim [] (·.2) } }
        let T := tile s t
        let regs : Tbl W64 := (List.range 4).foldl (fun g n => tset (fun _ => 0) g (n + 1) (ws.getD n 0)) []
        .next (bumpFn (tileMod s2 t (fun _ =>
          { st := 3, onSpare := T.onSpare, site := T.site, g := regs, pc := kEntry s i.kernel, handle := h, kernel := i.kernel,
            ch := ch, argLeft := (i.argLen + 7) / 8, startCyc := clockCount s, nextId := T.nextId,
            sends := (T.sends.filter (fun x => decide (x.kind ≠ 0))).map (fun x => { x with tag := 16 }) })) Reg.TGD_INV_START (kOwner s i.kernel))

/-- KERNEL_LIMIT (R338): the tile has run LIMIT ms. -/
def execKernelLimit (t : Nat) (s : State) : Host.Outcome State Fault Refusal :=
  if (tile s t).st = 3 ∧ (tile s t).stopping = false then .next (kernelDown s t 0x0C (tile s t).pc 0 Reg.TGD_LIMIT_STOP 0) else .next s

/-- The outcome of an invocation has reached the requester, or the requester is gone (R337). -/
def outcomeKnown (s : State) (i : Invocation) : Bool := i.told || decide ((conn s i.conn).st ≠ 2)

/-- INVOCATION_END (R337): the QUOTA slot and the record are freed. An invocation whose message ended before its argument was whole gives
back its reservations. -/
def execInvocationEnd (h : Nat) (s : State) : Host.Outcome State Fault Refusal :=
  match invocation s h with
  | none => .next s
  | some i =>
    let gone := fun (s : State) (n : Nat) =>
      { s with tgd := { s.tgd with staging := s.tgd.staging - n, invs := s.tgd.invs.filter (fun x => x.1 ≠ h) } }
    if !i.written ∧ (recvMsg s i.conn i.msn).isNone then
      .next (gone (i.live.foldl (fun s t => dropRecord s h i t) s) (b2n (decide (0 < i.argLen))))
    else if i.live = [] ∧ outcomeKnown s i = true then .next (gone s (b2n (!i.written && decide (0 < i.argLen))))
    else .next s

/-- Invocations with records queued on a tile, none of whose records there has started. -/
def queuedOn (s : State) (t : Nat) : List Nat :=
  (s.tgd.invs.filter (fun i => i.2.live.contains t && !runs s t i.1)).map (·.1)

/-- The transfers that a tile's DMA has under way, which end, aborted, with the tile (R148, R149). -/
def burstsOf (T : Tile) : List Issued := T.dmas.filterMap (fun d => d.burst.map (·.xfer))

/-- TILE_FAILURE (R323, R324, R332, Table 13-5): its invocations end with KERNEL_FAULT, every entry that names it loses VALID, and the
tile is remapped to a spare, the same quadrant first, or becomes ABSENT. -/
def execTileFailure (t : Nat) (s : State) : Host.Outcome State Fault Refusal :=
  let T := tile s t
  if T.st = 0 then .next s
  else
    let own := tileOwner s t
    let s1 := if T.st = 3 then kernelDown s t 0 T.pc 0 Reg.TGD_KFAULT 2
      else kernelReport s own Status.kernelFault 2 0 0 t 0 0 0
    let s2 := (queuedOn s1 t).foldl (fun s h => match invocation s h with
      | none => s
      | some i => stopRest (fixOutcome s h Status.kernelFault) h i) s1
    let named := (List.range 1024).filter (fun k => kValid s2 k && (kTiles s2 k).contains t)
    let s3 := named.foldl kClear (endTransfers s2 (burstsOf T))
    let same := s.tgd.spares.find? (fun x => siteQuad x = siteQuad T.site)
    let pick := match same with | some x => some x | none => s.tgd.spares.head?
    match pick with
    | some x =>
      let left := s.tgd.spares.filter (· ≠ x)
      .next (spareReport
        { (tileMod s3 t (fun _ => { st := 4, onSpare := true, site := x })) with
          tgd := { (tileMod s3 t (fun _ => { st := 4, onSpare := true, site := x })).tgd with spares := left } }
        2 9 t left.length (some x))
    | none =>
      let s4 := absentReport (spareReport (tileMod s3 t (fun _ => {})) 2 9 t 0 none) own t
      let lost := named.filter (fun k => kAll s2 k || (kTiles s2 k).all (fun u => (tile s4 u).st = 0))
      .next (lost.foldl (fun s k => absentReport s (kOwner s k) k) s4)

/-- The tile's memory, registers and channels are zero (R323, R326). -/
def tileClear (s : State) (t : Nat) : State :=
  let s1 := zeroRange s (tileBase + t * 2 ^ 22) (2 ^ 22)
  let s2 := (List.range 16).foldl (fun s ch => sqmClear (sqmStartClear s (tileQ t ch)) (tileQ t ch) (tileOwner s t)) s1
  { s2 with tgd := { s2.tgd with resv := s2.tgd.resv.filter (fun r => !decide (tileQ t 0 ≤ r.1 ∧ r.1 < tileQ (t + 1) 0)) } }

/-- TILE_REMAP_DONE (R323, Table 13-9): the spare is bound and starts to be cleared. -/
def execTileRemapDone (t : Nat) (s : State) : Host.Outcome State Fault Refusal :=
  if (tile s t).st = 4 then
    .next (bump { (tileMod s t (fun T => { T with st := 1 })) with
      sqm := { s.sqm with tileQuad := tset (fun _ => 0) s.sqm.tileQuad t (siteQuad (tile s t).site) } } Reg.TGD_REMAP 0)
  else .next s

/-- A tile enters CLEARING (R326): its frames refuse accesses until it is clear. -/
def tileStartClear (s : State) (t : Nat) : State :=
  let s1 := { s with mem := { s.mem with tileScrub := tset (fun _ => false) s.mem.tileScrub t true } }
  (List.range 16).foldl (fun s ch => sqmStartClear s (tileQ t ch)) (tileMod s1 t (fun T => { st := 1, onSpare := T.onSpare, site := T.site }))

/-- TGD_TSTAT (Table 13-11). -/
def tstat (s : State) (t : Nat) : Nat :=
  let T := tile s t
  T.st + b2n T.onSpare * 8 + siteX T.site * 16 + siteY T.site * 256 + tileOwner s t * 4096

/-- TGD_SPARES: spare sites left, ABSENT logical tiles. -/
def tgdSpares (s : State) : Nat :=
  s.tgd.spares.length + ((List.range (tileCount s.variant)).filter (fun t => (tile s t).st = 0)).length * 16

end Sys2Proof.Machine
end

