-- ==== Sys2Proof/Machine/TpeRecv.lean ====
section
/-! DEFINITION. The receiving side of the transport (R174 to R185, R193, R194): heads and their admission, data cells, placement,
receive entries, what executes in order, responses and replies, fabric-address accesses. -/
namespace Sys2Proof.Machine

/-! ### Heads (Table 7-5) -/

/-- The fields of a message head. -/
structure Head where
  opc : Nat
  imm : Bool
  msn : Nat
  akey : Nat
  raddr : Nat
  len : Nat
  immData : Nat
  varg : Nat
  low : Nat
  op1 : Nat := 0
  op2 : Nat := 0
  aop : Nat := 0
deriving DecidableEq, Repr

/-- Reads a head; `next` is the slot after it, which an ATOMIC takes as well. -/
def readHead (b next : List Byte) : Head :=
  let n := beAt b 0 32
  let m := beAt next 0 32
  let at_ := decide (nfld n 255 251 = 0x0C)
  { opc := nfld n 255 251, imm := nbit n 250, msn := nfld n 247 224, akey := nfld n 223 192, raddr := nfld n 191 144,
    len := nfld n 143 112, immData := nfld n 111 80, varg := nfld n 79 48, low := nfld n 47 24,
    op1 := if at_ then nfld m 255 192 else 0, op2 := if at_ then nfld m 191 128 else 0, aop := if at_ then nfld m 127 124 else 0 }

/-- The heads of a HEADS cell of n slots. -/
def readHeads : Nat → List Byte → List Head
  | 0, _ => []
  | n + 1, b =>
    let h := readHead b (b.drop 32)
    h :: (if h.opc = 0x0C then readHeads (n - 1) (b.drop 64) else readHeads n (b.drop 32))

/-- Bytes of data that a message carries: the index list of a GATHER, else LENGTH. -/
def dataLen (m : RecvMsg) : Nat := if m.opc = 0x06 then 4 * nfld m.varg 20 8 else m.len

/-- Units of data of a received message. -/
def recvUnits (m : RecvMsg) : Nat := unitsOf (dataLen m)

/-- A message received, as its head gives it. -/
def headMsg (k : Packet) (h : Head) : RecvMsg :=
  { msn := h.msn, opc := h.opc, imm := h.imm, immData := h.immData, akey := h.akey, raddr := h.raddr, len := h.len, varg := h.varg,
    op1 := w64 h.op1, op2 := w64 h.op2, aop := h.aop,
    srcEp := if k.chan then nfld k.cell.qpe 23 12 else 0, dstEp := if k.chan then nfld k.cell.qpe 11 0 else 0,
    needsRecv := decide (h.opc = 0x02) || h.imm }

/-! ### Packets and the window (R174, R175) -/

/-- A packet is of its connection's peer, which is connected here. -/
def ofPeer (s : State) (k : Packet) : Bool :=
  let c := packetConn k
  decide ((conn s c).st = 2 ∨ (conn s c).st = 3) && (k.chan || decide (connNode s c = k.cell.snode ∧ connPath s c = k.port))

/-- A packet with a CSN arrives at a connection: its units reclaim credit, wherever its CSN lies (R209), and the context is used (R166). -/
def arrive (s : State) (k : Packet) : State :=
  if ofPeer s k then
    let c := packetConn k
    touchContext ((List.range (unitsOf k.cell.payload.length)).foldl (fun s _ => reclaimUnit s c) s) c
  else s

/-- A packet passes to its connection: state, path and window. -/
def gate (s : State) (k : Packet) : State × Bool :=
  let c := packetConn k
  let C := conn s c
  if C.st = 0 ∨ C.st = 4 then (deadCell s k, false)
  else if !ofPeer s k then (s, false)
  else if !inWindow C k.cell.csn then (bumpFn s Reg.TPE_WIN_DROP (connTenant s c), false)
  else (s, true)

/-- A cell with a reserved code, or inconsistent with its head, is dropped and counted (R177, R180). -/
def mismatch (s : State) (c : Nat) : State := bumpFn s Reg.TPE_HEAD_MISMATCH (connTenant s c)

/-! ### Admission (R155, R184, R196) -/

/-- The right that a keyed verb needs, by its bit in R121. -/
def neededRight (opc : Nat) : Nat := match opc with | 0x01 => 1 | 0x03 => 3 | 0x08 => 4 | 0x0C => 2 | _ => 0

/-- The alignment that BASE + RADDR needs. -/
def neededAlign (m : RecvMsg) : Nat :=
  if m.opc = 0x0C then 8 else if m.opc = 0x03 ∨ m.opc = 0x06 then max 1 (fmtBytes (nfld m.varg 7 4)) else 1

/-- The bytes that a keyed access touches from RADDR; a GATHER-REDUCE is checked row by row when its list is there. -/
def touched (m : RecvMsg) : Nat := if m.opc = 0x06 ∨ m.opc = 0x08 then 0 else if m.opc = 0x0C then 8 else m.len

/-- A failover QP may reach host and peer memory only (R196): some page of the access resolves to device memory. Pages whose tables are not
at hand are tested when they are used. -/
def failoverLocal (s : State) (c : Nat) (R : Region) (m : RecvMsg) : Bool :=
  isFailover s c && decide (0 < touched m) &&
  (match (xlateAll s R.ctx (R.base.toNat + m.raddr) (touched m) {}).2 with | .ok ps => anyLocal ps | _ => false)

/-- The status a keyed head is refused with, none when it is admitted (Table 6-5). -/
def keyRefused (s : State) (c : Nat) (m : RecvMsg) : Option Nat :=
  let i := m.akey % 2 ^ 24
  match admitCheck s i (m.akey / 2 ^ 24) (neededRight m.opc) m.raddr (touched m) (neededAlign m) (decide (m.opc = 0x08)) with
  | some st => some st
  | none =>
    if failoverLocal s c (region s i) m then some Status.remoteAccess
    else if m.opc = 0x08 ∧ ¬ (kValid s (region s i).kernel = true ∧ kOwner s (region s i).kernel = regionOwner s i) then
      some Status.remoteAccess
    else none

/-- The frame check of a remote fabric-address access (R144): SHARED set and OWNER the slot; an aperture is checked by the owner of its
tile (R361, DEDUCED, log 33). -/
def fabOwned (s : State) (slot a n : Nat) : Bool :=
  if inAperture s.variant a then
    present s a && !(tget (fun _ => false) s.mem.tileScrub ((a - apertureBase) / 0x1000)) &&
    decide (tileOwner s ((a - apertureBase) / 0x1000) = slot)
  else (blocksOf a (max n 1)).all (fun b => owned s slot (b * 64) && (frame s (frameOf (b * 64))).shared)

/-- The tile and channel of an aperture address, when the address is an aperture's first byte. -/
def apertureOf (a : Nat) : Nat × Nat := ((a - apertureBase) / 0x1000, (a - apertureBase) % 0x1000 / 0x100)

/-- A fabric-address head is refused: the frame check, or a tile message against R327 and R361. -/
def fabRefused (s : State) (m : RecvMsg) : Bool :=
  let slot := m.akey % 256
  if !fabOwned s slot m.raddr m.len then true
  else if inAperture s.variant m.raddr then
    let p := apertureOf m.raddr
    decide (m.opc ≠ 0x0A) || decide (m.len % 8 ≠ 0 ∨ m.len < 8 ∨ 4096 < m.len) ||
    decide ((tile s p.1).st = 1) || chanOfKernel s p.1 p.2
  else false

/-- The tenant a SEND is for is not there (R155). -/
def sendRefused (s : State) (c : Nat) (m : RecvMsg) : Bool :=
  !tenantActive s (if isChan c then owner s 0x04 m.dstEp else connTenant s c)

/-- The verb works through an access key. -/
def keyed (opc : Nat) : Bool := opc = 0x01 || opc = 0x03 || opc = 0x06 || opc = 0x08 || opc = 0x0B || opc = 0x0C

/-- What became of a head: received, dropped as not received, or it waits. -/
inductive Took
  | done | lost | waits
deriving DecidableEq, Repr

/-- The implied grant of a READ, ATOMIC or GATHER head (R211). -/
def takeImplicit (s : State) (c : Nat) (m : RecvMsg) : State :=
  let n := if m.opc = 0x0C then 1 else if m.opc = 0x0B ∨ m.opc = 0x06 then min (unitsOf m.len) 64 else 0
  if n = 0 then s else connMod s c (fun C => { C with grants := C.grants ++ [⟨2 ^ 32 + m.msn, min n (65535 - balance C)⟩] })

/-- An admitted message takes its place: ADMITTED, a tracker, the implied grant. -/
def admitMsg (s : State) (c : Nat) (m : RecvMsg) : State :=
  let i := m.akey % 2 ^ 24
  let R := region s i
  let s1 := if keyed m.opc then admitTake (forgetRecords s R.ctx (R.base.toNat + m.raddr)) i else s
  let s2 := if hasData m.opc then { s1 with tpe := { s1.tpe with trackers := s1.tpe.trackers + 1 } } else s1
  let m1 := if keyed m.opc then
      { m with admitted := true, counted := true, region := i, tenant := regionOwner s i, ctx := R.ctx, base := R.base.toNat }
    else { m with admitted := true, tenant := if m.opc = 0x02 then connTenant s c else m.akey % 256 }
  takeImplicit (connMod s2 c (fun C => { C with recv := C.recv.filter (fun x => x.msn ≠ m.msn) ++ [m1] })) c m

/-- An admitted INVOKE whose turn has come is dispatched, or refused whole (R331, R335, Table 6-5); while the staging is full it waits. The
dispatcher looks at its quota and channel when it makes the invocation, which is at the turn (DEDUCED, log 51). -/
def startInvoke (s : State) (c : Nat) (m : RecvMsg) : State :=
  let i := m.akey % 2 ^ 24
  let k := (region s i).kernel
  if 0 < m.len ∧ 128 ≤ s.tgd.staging then bumpFn s Reg.TGD_STAGE_FULL (kOwner s k)
  else match dispatch s c m.msn i k m.len (nfld m.varg 24 0) with
    | none => bumpFn (bumpFn (failRecv s c m.msn Status.invokeRejected Status.invokeRejected) Reg.TGD_INV_REJECT (kOwner s k))
        Reg.ATU_ADM_REJECT (kOwner s k)
    | some s1 => recvMod s1 c m.msn (fun m => { m with executed := true, waiting := false })

/-- Response-cache entries in use, and those that messages under way will make (R194). -/
def cacheUsed (s : State) : Nat :=
  s.tpe.rcache.length + s.tpe.conns.foldl (fun n C => n + (C.2.recv.filter (fun m =>
    decide (m.opc = 0x0C ∨ m.opc = 0x03) && m.admitted && !m.complete && (cacheFind s (peerKey s C.1) C.1 m.msn).isNone)).length) 0

/-- The head of a message with data but one that finds no tracker, or no response-cache entry, is dropped as not received (Table 7-9). -/
def noRoom (s : State) (c : Nat) (m : RecvMsg) : Option State :=
  if hasData m.opc ∧ 8192 ≤ s.tpe.trackers then some (bumpFn s Reg.TPE_TRK_FULL (connTenant s c))
  else if (m.opc = 0x0C ∨ m.opc = 0x03) ∧ 65536 ≤ cacheUsed s then some (bumpFn s Reg.TPE_RC_FULL (connTenant s c))
  else if m.opc = 0x08 ∧ 0 < m.len ∧ 128 ≤ s.tgd.staging then
    some (bumpFn s Reg.TGD_STAGE_FULL (kOwner s (region s (m.akey % 2 ^ 24)).kernel))
  else if m.opc = 0x0A ∧ inAperture s.variant m.raddr then
    let p := apertureOf m.raddr
    match chanReserve s (tileQ p.1 p.2) (m.len / 8) with
    | none => some (bumpFn s Reg.TGD_MSG_REFUSED (tileOwner s p.1))
    | some _ => none
  else none

/-- The status that a head is refused with, none when it is admitted. -/
def headRefused (s : State) (c : Nat) (m : RecvMsg) : Option Nat :=
  if keyed m.opc then keyRefused s c m
  else if m.opc = 0x02 then (if sendRefused s c m then some Status.contextGone else none)
  else (if fabRefused s m then some Status.remoteAccess else none)

/-- A refused head is counted where it was refused: at the ATU, or as a tile message. -/
def noteRefused (s : State) (m : RecvMsg) : State :=
  if keyed m.opc then bumpFn s Reg.ATU_ADM_REJECT (regionOwner s (m.akey % 2 ^ 24))
  else if m.opc = 0x0A ∧ inAperture s.variant m.raddr then bumpFn s Reg.TGD_MSG_REFUSED (tileOwner s (apertureOf m.raddr).1)
  else s

/-- The admission of one head that is not a duplicate (R155). An INVOKE is admitted here too, and is dispatched when its turn comes (R184). -/
def admitHead (s : State) (c : Nat) (k : Packet) (m : RecvMsg) : State × Took :=
  match headRefused s c m with
  | some x => (refuseHead (noteRefused s m) c m.msn x, .done)
  | none =>
    match noRoom s c m with
    | some s1 => (s1, .lost)
    | none =>
      if keyed m.opc && !regionRoom s (m.akey % 2 ^ 24) then
        ({ s with atu := { s.atu with regionWait := s.atu.regionWait ++ [k] } }, .waits)
      else if m.opc = 0x08 then
        let s1 := admitMsg s c { m with waiting := true }
        (if isChan c ∨ (conn s c).done = m.msn then startInvoke s1 c m else s1, .done)
      else
        let s1 := if m.opc = 0x0A ∧ inAperture s.variant m.raddr then
            (chanReserve s (tileQ (apertureOf m.raddr).1 (apertureOf m.raddr).2) (m.len / 8)).getD s else s
        (admitMsg s1 c m, .done)

/-! ### Receive entries (R107 to R109, R184) -/

/-- The receive queue of a message: bound to its QP, or to its endpoint. -/
def recvQueue (s : State) (c : Nat) (m : RecvMsg) : Option Nat :=
  (s.queues.find? (fun e => isRecvQ e.2 && decide (e.2.st = 1 ∨ e.2.st = 2) &&
    (if isChan c then decide (bindType e.2 = 2 ∧ bindId e.2 = m.dstEp) else decide (bindType e.2 = 1 ∧ bindId e.2 = c)))).map (·.1)

/-- The posted entry of the lowest unassigned index, none below RQ_NEXT (R108, R201). -/
def nextRecv (s : State) (c q : Nat) : Option Entry :=
  (queue s q).entries.foldl (fun (b : Option Entry) e =>
    if opcode e = 0x30 ∧ e.phase = 1 ∧ e.running ∧ ¬ e.assigned ∧
       (isChan c ∨ serialAbove ((conn s c).rqNext) (e.idx % 2 ^ 32) = false) then
      (match b with | none => some e | some x => if e.idx < x.idx then some e else some x)
    else b) none

/-- The head of every MSN below one has arrived (R184). -/
def headsBelow (C : Conn) (msn : Nat) : Bool :=
  (List.range ((msn + 2 ^ 24 - C.done) % 2 ^ 24)).all (fun i =>
    let x := (C.done + i) % 2 ^ 24
    msnDone C x || C.recv.any (fun m => m.msn = x))

/-- The message of the lowest MSN that still needs its receive entry. -/
def lowestNeed (C : Conn) : Option RecvMsg :=
  C.recv.foldl (fun (b : Option RecvMsg) m =>
    if m.needsRecv ∧ m.recv.isNone ∧ m.complete = false then
      (match b with | none => some m | some x => if msnBelow m.msn x.msn then some m else some x)
    else b) none

/-- A message leaves the receiver without a trace: it will come again. -/
def forgetRecv (s : State) (c : Nat) (m : RecvMsg) : State :=
  let s1 := releaseRecv (dropStages (dropPlacements (dropEarly s c m.msn) (connPath s c) m.pend) c false (fun x => decide (x = m.msn))) c m
  connMod s1 c (fun C => { C with recv := C.recv.filter (fun x => x.msn ≠ m.msn) })

/-- No receive entry is posted: the message is refused with an RNR record; on a QP every later entry-consuming message goes with it. -/
def refuseRnr (s : State) (c : Nat) (m : RecvMsg) : State :=
  let gone := (conn s c).recv.filter (fun x =>
    x.needsRecv && x.recv.isNone && !x.complete && (if isChan c then decide (x.msn = m.msn) else !msnBelow x.msn m.msn))
  let s1 := gone.foldl (fun s x => forgetRecv s c x) s
  sendAck (connMod s1 c (fun C => { C with recs := C.recs ++ [(m.msn, 0, 1)], rnrAt := if isChan c then none else some m.msn })) c

/-- A message takes its receive entry; a SEND that is too long for it places nothing (R109). -/
def giveEntry (s : State) (c : Nat) (m : RecvMsg) (q : Nat) (e : Entry) : State :=
  let s1 := entryMod s q e.idx (fun e => { e with assigned := true })
  let s2 := connMod s1 c (fun C => { C with rqNext := (e.idx + 1) % 2 ^ 32 })
  let m1 := if m.opc = 0x02 then { m with tenant := queueOwner s q, ctx := dctx e } else m
  let s3 := recvMod s2 c m.msn (fun _ => { m1 with recv := some (q, e.idx) })
  if m.opc = 0x02 ∧ msgLen e < m.len then failRecv s3 c m.msn Status.remoteAccess Status.localLength else s3

/-- Assigns receive entries while the lowest message that needs one may take it. -/
def assignRecv (s : State) (c : Nat) : Nat → State
  | 0 => s
  | n + 1 =>
    match lowestNeed (conn s c) with
    | none => s
    | some m =>
      if !isChan c && !headsBelow (conn s c) m.msn then s
      else match (recvQueue s c m).bind (fun q => (nextRecv s c q).map (fun e => (q, e))) with
        | none => assignRecv (refuseRnr s c m) c n
        | some (q, e) => assignRecv (giveEntry s c m q e) c n

/-! ### Placement (R147, R181, R196, R412) -/

/-- The segments that a message's bytes are placed in. -/
def placeSegs (s : State) (m : RecvMsg) : List (Nat × Nat) :=
  if m.opc = 0x02 then
    (match m.recv with
     | none => []
     | some (q, i) => match entry s q i with | none => [] | some e => entrySegs e)
  else [(m.base + m.raddr, m.len)]

/-- Seal staging for the sealed pieces of a placement (R412): one record each, 2,048 in all; none when it is full. -/
def openStages (s : State) (t c msn : Nat) (resp : Bool) (segs : List (Nat × Nat)) : List (Target × Nat) → Option State
  | [] => some s
  | (.sealed x b r _, _) :: ps =>
    if s.cph.staging.any (fun g => decide (g.tenant = t ∧ g.ctx = x ∧ g.base = b ∧ g.rec_ = r)) then openStages s t c msn resp segs ps
    else if 2048 ≤ s.cph.staging.length then none
    else
      let total := ((segs.find? (fun g => g.1 = b)).map (·.2)).getD 0
      let g : SealStage := { tenant := t, ctx := x, base := b, rec_ := r, len := min 4096 (total - 4096 * r), conn := c, msn := msn, resp := resp }
      openStages { s with cph := { s.cph with staging := s.cph.staging ++ [g] } } t c msn resp segs ps
  | _ :: ps => openStages s t c msn resp segs ps

/-- A message waits for records of its own in seal staging. -/
def sealsOpen (s : State) (c msn : Nat) (resp : Bool) : Bool :=
  s.cph.staging.any (fun g => decide (g.conn = c ∧ g.msn = msn ∧ g.resp = resp))

/-- What the arrival of a unit came to: it is in, it counts as not received, or it waits for a table word. -/
inductive Place
  | ok | lost | waits
deriving DecidableEq, Repr

/-- A placement failed (R153): the access event to the target tenant, and REMOTE_ACCESS to the sender; `frag`: the fragment of the receive
entry that failed (R81). -/
def placeFailsAt (s : State) (c : Nat) (m : RecvMsg) (status frag : Nat) : State :=
  failRecvAt (accessEvent s m.tenant status 3 m.ctx (if isChan c then 0 else c) (m.base + m.raddr)) c m.msn Status.remoteAccess status frag

/-- The same, where no fragment failed. -/
def placeFails (s : State) (c : Nat) (m : RecvMsg) (status : Nat) : State := placeFailsAt s c m status 0

/-- The use that a placement makes of its pages. -/
def placeUse (m : RecvMsg) : Use := { rd := decide (m.opc = 0x03), wr := true }

/-- The fragment of the receive entry that stops n bytes at a unit of a message. -/
def placeFrag (s : State) (m : RecvMsg) (off n : Nat) : Nat :=
  if m.opc = 0x02 then failFrag s m.tenant m.ctx (placeUse m) (placeSegs s m) (512 * off) n else 0

/-- Mirrors a response-cache entry and issues the flush read of that write (R199). -/
def mirrorEntry (s : State) (c msn : Nat) : State :=
  match cacheFind s (peerKey s c) c msn with
  | none => s
  | some e =>
    let n := s.tpe.mirrorIdx
    let off := 2 ^ 20 + 32 * n
    let s1 := twinWrite { s with tpe := { s.tpe with mirrorIdx := (n + 1) % 32768 } } off (cacheBytes e)
    emit (recvMod s1 c msn (fun m => { m with waiting := true }))
      (.flushRead (requesterFn (ctxOwner s (fld (reg s Reg.TPE_TWIN_CTX 0) 15 0))) (.mirror msn) (fld (reg s Reg.TPE_TWIN_BASE 0) 63 21 * 2 ^ 21 + off))

/-- The landing buffer of a group on this device (R301): the LAND of SELF's record. -/
def landBase (s : State) (g : Nat) : Nat := nfld (memberRec s g (fld (gent s g 0) 55 40)) 111 64

/-- A complete FWRITE in the landing buffer of a VALID group is passed to Scarab (R302). -/
def landed (s : State) (a n : Nat) : State :=
  let hit := s.regs.any (fun r => decide (r.1 / 2 ^ 32 = Reg.SCB_GENTw) && wbit r.2 0 &&
    decide (landBase s (r.1 % 2 ^ 32) ≤ a ∧ a < landBase s (r.1 % 2 ^ 32) + fld (gent s (r.1 % 2 ^ 32) 2) 7 0 * 2 ^ 21))
  if hit then { s with scb := { s.scb with inbox := s.scb.inbox.filter (fun x => x.1 ≠ a) ++ [(a, n)] } } else s

/-- A message with all its data visible is complete: the peer flush of ACK_FLUSH first, then the response cache of a REDUCE-WRITE and its
mirror, then the final record (R183, R194, R199). -/
def finalize (s : State) (c msn : Nat) : State :=
  match recvMsg s c msn with
  | none => s
  | some m =>
    if sealsOpen s c msn false ∨ m.flushes ≠ 0 ∨ m.waiting then s
    else if !isChan c && wbit (conn s c).cfg 49 && decide (m.leaves ≠ []) && !m.flushed then
      flushReads (recvMod s c msn (fun m => { m with flushes := m.leaves.length })) m.tenant (.msgFlush c msn) m.leaves
    else
      let st := if m.poison then Status.poisoned else Status.ok
      if m.opc = 0x03 then
        let s1 := releaseRecv (cachePutResp s c msn st 0 true) c m
        if isFailover s c then mirrorEntry s1 c msn else finishRecv s1 c msn st
      else finishRecv (if m.opc = 0x0A then landed s m.raddr m.len else s) c msn st

/-- A tile message is whole: its words enter the channel (R362). -/
def tileMessage (s : State) (c : Nat) (m : RecvMsg) : State :=
  let p := apertureOf m.raddr
  let b := (List.range m.len).map (fun k => tget (fun _ => (0 : Byte)) m.staging k)
  finishRecv (chanPut s (tileQ p.1 p.2) (argWords b (m.pendData.flatMap (fun d => marksUp d.2.2 (512 * d.1))) (m.len / 8) 0)) c m.msn Status.ok

/-- Every offset of a message is covered: it goes on as its verb says. -/
def recvPlaced (s : State) (c msn : Nat) : State :=
  match recvMsg s c msn with
  | none => s
  | some m =>
    if m.complete ∨ m.covered.length < recvUnits m ∨ m.pend ≠ [] then s
    else if m.opc = 0x06 ∨ m.opc = 0x08 then s
    else if m.opc = 0x0A ∧ inAperture s.variant m.raddr = true then tileMessage s c m
    else finalize s c msn

/-- One unit of a message's data is placed: into staging for a GATHER, an INVOKE or a tile message, else as a transfer of its own. -/
def placeUnit (s : State) (c : Nat) (m : RecvMsg) (off : Nat) (b : List Byte) (poison : Marks) (k : Packet) : State × Place :=
  let t := connTenant s c
  let base := ((List.range (m.covered.length + 1)).find? (fun o => !m.covered.contains o)).getD 0
  if m.covered.contains off ∨ m.pend.any (fun x => x.key = off) = true then (bumpFn s Reg.TPE_DUP_DROP t, .ok)
  else if base + 4096 ≤ off then (s, .lost)
  else if m.opc = 0x06 ∨ m.opc = 0x08 ∨ (m.opc = 0x0A ∧ inAperture s.variant m.raddr = true) then
    (recvPlaced (recvMod s c m.msn (fun m => { m with
      covered := off :: m.covered, pendData := if poison = [] then m.pendData else m.pendData ++ [(off, [], poison)],
      staging := m.staging ++ (List.range b.length).map (fun i => (512 * off + i, b.getD i 0)) })) c m.msn, .ok)
  else if b = [] then (recvPlaced (recvMod s c m.msn (fun m => { m with covered := off :: m.covered })) c m.msn, .ok)
  else
    let put := fun (s : State) (i : Issued) => recvMod { s with tpe := { s.tpe with placings := s.tpe.placings + 1 } } c m.msn (fun m =>
      { m with pend := m.pend ++ [{ i with turn := s.tpe.placings }], pendData := m.pendData ++ [(off, b, poison)] })
    match placeQueue s (connPath s c) t with
    | (s1, false) => (s1, .lost)
    | (s1, true) =>
      if m.opc = 0x0A then (put s1 { key := off, ctx := 2 ^ 16, len := b.length, pieces := [(.loc (m.raddr + 512 * off), b.length)] }, .ok)
      else
        let segs := placeSegs s1 m
        match issueSegs s1 m.tenant m.ctx segs (512 * off) b.length off (placeUse m) with
        | (s2, .need a) => (stall (placeDone s2 (connPath s c)) m.ctx a (.packet k), .waits)
        | (s2, .fail st) => (placeFailsAt (placeDone s2 (connPath s c)) c m st (placeFrag s2 m off b.length), .ok)
        | (s2, .ok i) =>
          if isFailover s c && anyLocal i.pieces then
            (failRecv (placeDone (endXfer s2 i) (connPath s c)) c m.msn Status.remoteAccess Status.remoteAccess, .ok)
          else match openStages s2 m.tenant c m.msn false segs i.pieces with
            | none => (bumpFn (placeDone (endXfer s2 i) (connPath s c)) Reg.CPH_STAGE_DROP m.tenant, .lost)
            | some s3 => (put s3 i, .ok)

/-- The units of a packet, each with its offset and bytes. -/
def unitsFrom (off : Nat) (b : List Byte) : Nat → List (Nat × List Byte)
  | 0 => []
  | n + 1 => (off, b.take 512) :: unitsFrom (off + 1) (b.drop 512) n

/-- Handles units one by one while they are received. -/
def eachUnit (f : State → Nat → List Byte → State × Place) (s : State) : List (Nat × List Byte) → State × Place
  | [] => (s, .ok)
  | (o, b) :: r =>
    match f s o b with
    | (s1, .ok) => eachUnit f s1 r
    | x => x

/-- First offset of a cell or packet, its units, and the message length that an edge cell gives (R177). -/
def cellSpan (x : Cell) : Nat × Nat × Option Nat :=
  let n := unitsOf x.payload.length
  let off := if x.first then 0 else x.offset
  (off, n,
    if x.first && x.last then some (512 * (n - 1) + x.plen)
    else if x.first then some (512 * x.offset + x.plen)
    else if x.last then some (512 * (x.offset + n - 1) + x.plen) else none)

/-- A data cell is consistent with its head (R180). -/
def fits (m : RecvMsg) (x : Cell) : Bool :=
  decide (x.opc = m.opc) &&
  (match (cellSpan x).2.2 with
   | some l => decide (l = dataLen m)
   | none => decide (x.akey = (if m.opc = 0x0A then m.akey % 256 else m.akey)))

/-- A head has been admitted and its data may be placed. -/
def mayPlace (m : RecvMsg) : Bool := m.admitted && !m.waiting && (!m.needsRecv || m.recv.isSome)

/-- A data cell in the window: placed, kept in the early store, or dropped (R180, R181, R182). -/
def takeData (s : State) (c : Nat) (k : Packet) : State :=
  let x := k.cell
  let t := connTenant s c
  if msnDone (conn s c) x.msn then takeCsn (bumpFn s Reg.TPE_DUP_DROP t) c x.csn
  else match recvMsg s c x.msn with
    | some m =>
      if m.complete then takeCsn (bumpFn s Reg.TPE_DUP_DROP t) c x.csn
      else if mayPlace m then
        if !fits m x then mismatch s c
        else match clearPayload s c x with
          | none => encFails s c
          | some b =>
            let sp := cellSpan x
            match eachUnit (fun s o b => match recvMsg s c x.msn with
                | none => (s, .ok)
                | some m => if m.complete then (s, .ok) else placeUnit s c m o b (marksIn x.poison (512 * (o - sp.1)) 512) k) s (unitsFrom sp.1 b sp.2.1) with
            | (s1, .ok) => takeCsn s1 c x.csn
            | (s1, _) => s1
      else keepEarly s c x t
    | none => keepEarly s c x t
where
  /-- The cell waits in the early store, which holds 4,096 (R180). -/
  keepEarly (s : State) (c : Nat) (x : Cell) (t : Nat) : State :=
    if s.tpe.early.any (fun e => decide (e.1 = c ∧ e.2.csn = x.csn)) then s
    else if 4096 ≤ s.tpe.early.length then bumpFn s Reg.TPE_EARLY_DROP t
    else { s with tpe := { s.tpe with early := s.tpe.early ++ [(c, x)] } }

/-- The packet that an early cell came as. -/
def earlyPacket (c : Nat) (x : Cell) (p : Nat) : Packet := { port := p, ip := if isChan c then chanIp c else 0, chan := isChan c, cell := x }

/-- Cells that waited for heads of a connection are placed (R180). -/
def placeEarly (s : State) (c : Nat) : State :=
  let ready := fun (e : Nat × Cell) => decide (e.1 = c) && ((recvMsg s c e.2.msn).map mayPlace).getD false
  let l := s.tpe.early.filter ready
  let s1 := { s with tpe := { s.tpe with early := s.tpe.early.filter (fun e => !ready e) } }
  l.foldl (fun s e => takeData s c (earlyPacket c e.2 (connPath s c))) s1

/-! ### HEADS_RECEIVE -/

/-- The class that a response goes in: the QP's, where it is the tenant's; else the lowest weighted class that the tenant owns (R215). A
tenant that owns none has no class to send it in: the response waits in the place of class 64, which is never picked, so that no class
carries another tenant's traffic (DESIGN CHOICE, log 51). -/
def responseClass (s : State) (c t : Nat) : Nat :=
  if !isChan c && classOf s (connPath s c) (qpClass s c) t then qpClass s c else (lowestClass s (connPath s c) t).getD 64

/-- A response message is posted in the responder's direction (R193). -/
def postResponse (s : State) (c : Nat) (m : SendMsg) : State :=
  let k := responseClass s c (if isChan c then m.tenant else connTenant s c)
  demandCheck (connMod s c (fun C => { C with send := C.send ++ [{ m with resp := true, cls := k }] })) c

/-- The response of an ATOMIC: the old value in bytes 0 to 7. -/
def atomicResponse (s : State) (c msn t : Nat) (v : W64) : State :=
  postResponse s c { msn := msn, opc := 0x05, by_ := .response, tenant := t, src := .data (leBytes 8 v.toNat), len := 8 }

/-- A head whose key is in the response cache is not executed again (R194, R202): an ATOMIC is answered with the old value kept, unless its
response is on its way, and a REDUCE-WRITE is reported complete. -/
def fromCache (s : State) (c : Nat) (m : RecvMsg) (e : RcEntry) : State :=
  let s1 := if m.opc = 0x0C ∧ e.status = 0 ∧ sendMsg s c m.msn true = none then atomicResponse s c m.msn (connTenant s c) e.value else s
  if msnDone (conn s c) m.msn then sendAck (bumpFn s1 Reg.TPE_DUP_DROP (connTenant s c)) c
  else finalRecord s1 c m.msn e.status

/-- An ABORT head ends the message it names (R185); one that was refused for want of a receive entry bars no later message any more (R184). -/
def takeAbort (s : State) (c : Nat) (h : Head) : State :=
  let s1 := connMod s c (fun C => { C with rnrAt := if C.rnrAt = some h.msn then none else C.rnrAt })
  if msnDone (conn s c) h.msn then bumpFn s1 Reg.TPE_DUP_DROP (connTenant s c)
  else match recvMsg s1 c h.msn with
    | some x => if x.complete then s1 else failRecv s1 c h.msn (h.varg % 256) (h.varg % 256)
    | none => refuseHead s1 c h.msn (h.varg % 256)

/-- The response-cache entry of a head, which holds it from being executed again. -/
def cachedHead (s : State) (c : Nat) (h : Head) : Option RcEntry :=
  if (h.opc = 0x0C ∨ h.opc = 0x03) ∧ recvMsg s c h.msn = none then cacheFind s (peerKey s c) c h.msn else none

/-- One head of a HEADS cell. -/
def takeHead (s : State) (c : Nat) (k : Packet) (h : Head) : State × Took :=
  let s1 := takeLow s c h.low
  let m := headMsg k h
  let C := conn s1 c
  if h.opc = 0x0F then (takeAbort s1 c h, .done)
  else match cachedHead s1 c h with
    | some e => (fromCache s1 c m e, .done)
    | none =>
      if msnDone C h.msn ∨ (recvMsg s1 c h.msn).isSome then (bumpFn s1 Reg.TPE_DUP_DROP (connTenant s c), .done)
      else if !(keyed h.opc || h.opc = 0x02 || (isChan c && (h.opc = 0x0A || h.opc = 0x0D))) then (mismatch s1 c, .lost)
      else if m.needsRecv ∧ C.rnrAt.isSome ∧ C.rnrAt ≠ some h.msn then (s1, .done)
      else
        let s2 := if m.needsRecv then connMod s1 c (fun C => { C with rnrAt := none }) else s1
        match admitHead s2 c k m with
        | (s3, .done) => (placeEarly (assignRecv s3 c 4097) c, .done)
        | r => r

/-- The heads of a cell in order, while each is received. -/
def takeHeads (s : State) (c : Nat) (k : Packet) : List Head → State × Took
  | [] => (s, .done)
  | h :: r => match takeHead s c k h with
    | (s1, .done) => takeHeads s1 c k r
    | x => x

/-- The heads of a HEADS cell, deciphered. -/
def headsOf (s : State) (k : Packet) : Option (List Head) :=
  (clearPayload s (packetConn k) k.cell).map (fun b => readHeads (k.cell.plen / 32) b)

/-- A HEADS cell that has passed the window. -/
def takeHeadsCell (s : State) (k : Packet) : State :=
  let c := packetConn k
  match headsOf s k with
  | none => encFails s c
  | some l => match takeHeads s c k l with
    | (s1, .done) => takeCsn s1 c k.cell.csn
    | (s1, _) => s1

/-- A HEADS cell reaches its connection. -/
def headsPacket (s : State) (k : Packet) : State :=
  match gate s k with
  | (s1, true) => takeHeadsCell s1 k
  | (s1, false) => s1

/-- HEADS_RECEIVE (R155, R174, R178, R180, R182, R184, R194, R211). -/
def execHeadsReceive (k : Packet) (s : State) : Host.Outcome State Fault Refusal :=
  if !running s || decide (k.cell.opc ≠ 0x10) then .next s
  else .next (headsPacket (arrive s k) k)

/-- The cell holds a head of an opcode. -/
def hasHeadOf (s : State) (k : Packet) (p : Nat → Bool) : Bool := ((headsOf s k).getD []).any (fun h => p h.opc)

/-- ABORT_HEAD_RECEIVE (R185): a HEADS cell with an ABORT head ends the message it names. -/
def execAbortHeadReceive (k : Packet) (s : State) : Host.Outcome State Fault Refusal :=
  if !running s || decide (k.cell.opc ≠ 0x10) || !hasHeadOf s k (fun o => decide (o = 0x0F)) then .next s
  else .next (headsPacket (arrive s k) k)

/-- FABRIC_ACCESS_RECEIVE (R144, R361, R362): a HEADS cell of a channel with an FWRITE or FREAD head. -/
def execFabricAccessReceive (k : Packet) (s : State) : Host.Outcome State Fault Refusal :=
  if !running s || decide (k.cell.opc ≠ 0x10) || !hasHeadOf s k (fun o => decide (o = 0x0A ∨ o = 0x0D)) then .next s
  else .next (headsPacket (arrive s k) k)

/-- REGION_CACHE_TIMEOUT (R158): a head has waited 10 µs for a region-cache entry; its cell is dropped as not received. -/
def execRegionCacheTimeout (s : State) : Host.Outcome State Fault Refusal :=
  match s.atu.regionWait with
  | [] => .next s
  | k :: r => .next (bumpFn { s with atu := { s.atu with regionWait := r } } Reg.ATU_RGN_STALL (connTenant s (packetConn k)))

/-- A code of a data cell. -/
def dataCode (o : Nat) : Bool := o = 0x01 || o = 0x02 || o = 0x03 || o = 0x06 || o = 0x08 || o = 0x0A

/-- A code of Table 7-4. -/
def knownCode (o : Nat) : Bool :=
  dataCode o || o = 0x04 || o = 0x05 || o = 0x07 || o = 0x09 || o = 0x0B || o = 0x0C || o = 0x0D || o = 0x0F || o = 0x10 ||
  o = 0x11 || o = 0x12 || o = 0x18

/-- A data cell reaches its connection, or a cell with a reserved code is dropped. -/
def dataPacket (s : State) (k : Packet) : State :=
  if !knownCode k.cell.opc then mismatch s (packetConn k)
  else match gate s k with
    | (s1, true) => takeData s1 (packetConn k) k
    | (s1, false) => s1

/-- DATA_CELL_RECEIVE (R174, R177, R180, R181, R182): a data cell, or a cell with a reserved code, which is dropped and counted. -/
def execDataCellReceive (k : Packet) (s : State) : Host.Outcome State Fault Refusal :=
  if !running s then .next s
  else if knownCode k.cell.opc && !dataCode k.cell.opc then .next s
  else .next (dataPacket (arrive s k) k)

/-- EARLY_CELL_TIMEOUT (R180): a cell has waited 8 µs in the early store. -/
def execEarlyCellTimeout (c csn : Nat) (s : State) : Host.Outcome State Fault Refusal :=
  if s.tpe.early.any (fun e => decide (e.1 = c ∧ e.2.csn = csn)) then
    .next (bumpFn { s with tpe := { s.tpe with early := s.tpe.early.filter (fun e => !decide (e.1 = c ∧ e.2.csn = csn)) } }
      Reg.TPE_EARLY_DROP (connTenant s c))
  else .next s

/-! ### CELL_PLACEMENT (R113, R114, R153, R156, R183, R379) -/

/-- The elements of w bytes that poisoned ranges touch. -/
def wholeElems (w : Nat) (m : Marks) : Marks :=
  m.map (fun r => (r.1 / w * w, (r.1 + r.2 + w - 1) / w * w - r.1 / w * w))

/-- A combination of elements of w bytes in which an element that touches a poisoned range keeps its old bytes (R379). -/
def keepMarked (w : Nat) (m : Marks) (old new : List Byte) : List Byte :=
  let e := wholeElems w m
  (List.range new.length).map (fun i => if e.any (fun r => decide (r.1 ≤ i ∧ i < r.1 + r.2)) then old.getD i 0 else new.getD i 0)

/-- The bytes that a placement writes, which of them are poisoned, and whether poison was met: a REDUCE-WRITE combines them with what the
target holds, and is not performed on poisoned elements (R379). None: the request was refused. -/
def placeBytes (s : State) (m : RecvMsg) (x : Issued) (b : List Byte) (bad : Marks) (bus : Option (List Byte)) :
    State × Option (List Byte × Marks × Bool) :=
  if m.opc ≠ 0x03 then (s, some (b, bad, false))
  else
    let w := max 1 (fmtBytes (nfld m.varg 7 4))
    match readPieces s m.tenant x.pieces bus with
    | (s1, .refused) => (s1, none)
    | (s1, d) =>
      let new := combineBytes (nfld m.varg 3 0) (nfld m.varg 7 4) w (b.length / w) d.bytes b
      (s1, some (keepMarked w (d.bad ++ bad) d.bytes new, d.bad, !(d.bad ++ bad).isEmpty))

/-- The turn of a placement has come: cells of one QP are placed in the order of their arrival, and so are those of all REDUCE-WRITEs (R114,
R127). -/
def placeTurn (s : State) (c : Nat) (m : RecvMsg) (x : Issued) : Bool :=
  s.tpe.conns.all (fun C => C.2.recv.all (fun y =>
    !((decide (C.1 = c) && !isChan c) || (m.opc = 0x03 && y.opc = 0x03)) || y.pend.all (fun z => decide (x.turn ≤ z.turn))))

/-- A unit of a received message reaches memory, when its turn has come. A REDUCE-WRITE into a sealed range waits until its record has been
opened. -/
def placeRecv (s : State) (c msn off : Nat) (bus : Option (List Byte)) : State :=
  match recvMsg s c msn with
  | none => s
  | some m =>
    match m.pend.find? (fun x => x.key = off), m.pendData.find? (fun d => d.1 = off) with
    | some x, some d =>
      if !placeTurn s c m x || (m.opc = 0x03 && !recordsThere s x.pieces) then s else
      let s1 := placeDone (endXfer s x) (connPath s c)
      let s2 := recvMod s1 c msn (fun m => { m with
        pend := m.pend.filter (fun y => y.key ≠ off), pendData := m.pendData.filter (fun y => y.1 ≠ off) })
      (match placeBytes s2 m x d.2.1 d.2.2 bus with
       | (s3, none) => placeFailsAt s3 c m Status.localProtection (placeFrag s3 m off d.2.1.length)
       | (s3, some (b, bad, hit)) =>
         if !piecesOwned s3 m.tenant x.pieces then
           placeFailsAt (ownFault s3 m.tenant) c m Status.localProtection (placeFrag s3 m off d.2.1.length)
         else match writePieces s3 m.tenant x.pieces b bad with
           | (s4, false) => placeFailsAt s4 c m Status.localProtection (placeFrag s4 m off d.2.1.length)
           | (s4, true) => recvPlaced (recvMod s4 c msn (fun m => { m with
               covered := off :: m.covered, leaves := peerLeaves x.pieces m.leaves, poison := m.poison || hit })) c msn)
    | _, _ => s

/-! ### Responses and replies at the requester (R116, R117, R193) -/

/-- The place of a response in the requester's memory: tenant, context and segments; a tile's DMA goes to tile memory. -/
inductive Dest
  | segs (tenant ctx : Nat) (l : List (Nat × Nat))
  | tile (tile addr : Nat)
deriving DecidableEq, Repr

/-- Where the response of a message goes. -/
def respDest (s : State) (m : SendMsg) : Option Dest :=
  match m.by_ with
  | .entry q i =>
    (entry s q i).map (fun e =>
      let t := queueOwner s q
      match opcode e with
      | 0x02 => .segs t (dctx e) (entrySegs e)
      | 0x04 => .segs t (dctx e) [(ef e 16 8, 8)]
      | 0x06 => .segs t (dctx e) [(ef e 48 8, elen e)]
      | _ => .segs t (dctx e) [(ef e 48 8, m.respLen)])
  | .tile t id =>
    ((tile s t).dmas.find? (fun d => d.id = id)).bind (fun d => d.burst.map (fun b => .tile t (tileBase + t * 2 ^ 22 + b.toff)))
  | _ => none

/-- A response that is whole, placed and acknowledged ends its message. -/
def respCheck (s : State) (c msn : Nat) : State :=
  match sendMsg s c msn false with
  | none => s
  | some m =>
    if m.respUnits = 0 ∨ m.respGot.length < m.respUnits ∨ m.rpend ≠ [] ∨ sealsOpen s c msn true = true then s
    else if m.acked ∨ m.opc = 0x08 then
      let s1 := connMod s c (fun C => { C with flight := C.flight.filter (fun r => !decide (r.msn = msn ∧ r.resp = false)) })
      closeCheck (issuerDone (dropSend (endSend s1 c m) c msn) m.by_ (if m.poison then Status.poisoned else m.status) m.respLen) c
    else s

/-- One unit of a response is placed through the requester's own entry. -/
def respUnit (s : State) (c msn off : Nat) (b : List Byte) (poison : Marks) (k : Packet) : State × Place :=
  match sendMsg s c msn false with
  | none => (s, .ok)
  | some m =>
    if m.respGot.contains off ∨ m.rpend.any (fun x => x.key = off) = true then (bumpFn s Reg.TPE_DUP_DROP (connTenant s c), .ok)
    else
      let got := fun (s : State) => sendMod s c msn false (fun m => { m with respGot := off :: m.respGot, poison := m.poison || !poison.isEmpty })
      if b = [] then (respCheck (got s) c msn, .ok)
      else
        let put := fun (s : State) (i : Issued) => sendMod s c msn false (fun m => { m with
          rpend := m.rpend ++ [i], rdata := m.rdata ++ [(off, b, poison)] })
        match placeQueue s (connPath s c) (connTenant s c), respDest s m with
        | (s1, false), _ => (s1, .lost)
        | (s1, true), none => (placeDone s1 (connPath s c), .ok)
        | (s1, true), some (.tile _ a) => (put s1 { key := off, ctx := 2 ^ 16, len := b.length, pieces := [(.loc (a + 512 * off), b.length)] }, .ok)
        | (s1, true), some (.segs t x segs) =>
          match issueSegs s1 t x segs (512 * off) b.length off { wr := true } with
          | (s2, .need a) => (stall (placeDone s2 (connPath s c)) x a (.packet k), .waits)
          | (s2, .fail st) => (abandonAt (placeDone s2 (connPath s c)) c m st (failFrag s2 t x { wr := true } segs (512 * off) b.length), .ok)
          | (s2, .ok i) => match openStages s2 t c msn true segs i.pieces with
            | none => (bumpFn (placeDone (endXfer s2 i) (connPath s c)) Reg.CPH_STAGE_DROP t, .lost)
            | some s3 => (put s3 i, .ok)

/-- The entry's own write of a unit is refused at memory: its message ends with LOCAL_PROTECTION and the fragment that failed. -/
def respRefused (s : State) (c : Nat) (m : SendMsg) (off n : Nat) : State :=
  abandonAt s c { m with rpend := m.rpend.filter (fun y => y.key ≠ off) } Status.localProtection
    (match respDest s m with | some (.segs t x l) => failFrag s t x { wr := true } l (512 * off) n | _ => 0)

/-- A unit of a response reaches memory. -/
def placeResp (s : State) (c msn off : Nat) : State :=
  match sendMsg s c msn false with
  | none => s
  | some m =>
    match m.rpend.find? (fun x => x.key = off), m.rdata.find? (fun d => d.1 = off) with
    | some x, some d =>
      let s1 := placeDone (endXfer s x) (connPath s c)
      let s2 := sendMod s1 c msn false (fun m => { m with
        rpend := m.rpend.filter (fun y => y.key ≠ off), rdata := m.rdata.filter (fun y => y.1 ≠ off),
        respGot := off :: m.respGot, poison := m.poison || !d.2.2.isEmpty })
      let t := match m.by_ with | .entry q _ => queueOwner s q | .tile t _ => tileOwner s t | _ => m.tenant
      if !piecesOwned s2 t x.pieces then respRefused (ownFault s2 t) c m off d.2.1.length
      else match writePieces s2 t x.pieces d.2.1 d.2.2 with
        | (s3, false) => respRefused s3 c m off d.2.1.length
        | (s3, true) =>
          let s4 := match m.by_ with
            | .entry q i => entryMod s3 q i (fun e => { e with leaves := peerLeaves x.pieces e.leaves })
            | _ => s3
          respCheck s4 c msn
    | _, _ => s

/-- CELL_PLACEMENT (R26, R181, R183): a placement under way reaches the memory controller or its last TLP is issued. `resp`: it is one of
a response to a message sent. `bus`: what a REDUCE-WRITE reads of a host or peer page, none when that read fails. -/
def execCellPlacement (c msn off : Nat) (resp : Bool) (bus : Option (List Byte)) (s : State) : Host.Outcome State Fault Refusal :=
  .next (if resp then placeResp s c msn off else placeRecv s c msn off bus)

/-- Places the units of a response cell and acknowledges it. -/
def placeResponse (s : State) (k : Packet) (b : List Byte) : State :=
  let c := packetConn k
  let x := k.cell
  let sp := cellSpan x
  match eachUnit (fun s o d => respUnit s c x.msn o d (marksIn x.poison (512 * (o - sp.1)) 512) k) s (unitsFrom sp.1 b sp.2.1) with
  | (s1, .ok) => takeCsn s1 c x.csn
  | (s1, _) => s1

/-- A cell of a reply (R116, R117): an edge cell gives the length, and one beyond REPLY_MAX ends the INVOKE with nothing placed. A cell that
comes before the length is known waits in the early store, since none of a reply that proves too long is placed (DESIGN CHOICE, log 51). -/
def takeReply (s : State) (k : Packet) (m : SendMsg) (b : List Byte) : State :=
  let c := packetConn k
  let x := k.cell
  match (cellSpan x).2.2 with
  | some l =>
    if nfld m.varg 24 0 < l then
      takeCsn (closeCheck (issuerDone (dropSend (endSend s c m) c x.msn) m.by_ Status.localLength 0) c) c x.csn
    else placeResponse (sendMod s c x.msn false (fun m => { m with respLen := l, respUnits := unitsOf l })) k b
  | none => if m.respUnits = 0 then takeData.keepEarly s c x (connTenant s c) else placeResponse s k b

/-- One response or reply cell that has passed the window. -/
def takeResponseCell (s : State) (k : Packet) : State :=
  let c := packetConn k
  let x := k.cell
  match sendMsg s c x.msn false, clearPayload s c x with
  | _, none => encFails s c
  | none, _ =>
    takeCsn (bumpFn s (if x.opc = 0x09 then Reg.TPE_LATE_REPLY else Reg.TPE_DUP_DROP) (connTenant s c)) c x.csn
  | some m, some b =>
    if x.opc = 0x09 then (if m.opc ≠ 0x08 then mismatch s c else takeReply s k m b)
    else if m.opc = 0x08 ∨ m.respUnits = 0 then mismatch s c
    else if (cellSpan x).2.2.isSome ∧ (cellSpan x).2.2 ≠ some m.respLen then mismatch s c
    else placeResponse s k b

/-- A response or reply cell that has passed the window; with a reply's length known, its cells that waited for it follow. -/
def takeResponse (s : State) (k : Packet) : State :=
  let c := packetConn k
  let s1 := takeResponseCell s k
  if k.cell.opc = 0x09 ∧ (cellSpan k.cell).2.2.isSome then
    let mine := fun (e : Nat × Cell) => decide (e.1 = c ∧ e.2.opc = 0x09 ∧ e.2.msn = k.cell.msn)
    (s1.tpe.early.filter mine).foldl (fun s e => takeResponseCell s { k with cell := e.2 })
      { s1 with tpe := { s1.tpe with early := s1.tpe.early.filter (fun e => !mine e) } }
  else s1

/-- A response or reply cell reaches its connection. -/
def responsePacket (s : State) (k : Packet) : State :=
  match gate s k with
  | (s1, true) => takeResponse s1 k
  | (s1, false) => s1

/-- RESPONSE_CELL_RECEIVE (R193): a cell of a READ, FREAD, ATOMIC or GATHER response. -/
def execResponseCellReceive (k : Packet) (s : State) : Host.Outcome State Fault Refusal :=
  if !running s || !(k.cell.opc = 0x04 || k.cell.opc = 0x05 || k.cell.opc = 0x07) then .next s
  else .next (responsePacket (arrive s k) k)

/-- REPLY_RECEIVE (R116, R117): a cell of an INVOKE's reply; a late one is dropped and counted. -/
def execReplyReceive (k : Packet) (s : State) : Host.Outcome State Fault Refusal :=
  if !running s || decide (k.cell.opc ≠ 0x09) then .next s
  else .next (responsePacket (arrive s k) k)

/-! ### What executes in order at the target (R127, R193) -/

/-- The value that an ATOMIC stores (R111). -/
def atomicNew (aop : Nat) (old a b : W64) : W64 :=
  match aop with
  | 0 => old + a
  | 1 => if old = a then b else old
  | 2 => a
  | 3 => old &&& a
  | _ => old ||| a

/-- An ATOMIC is over with its old value: it enters the response cache, a failover QP mirrors it first, and the response goes out. -/
def atomicDone (s : State) (c : Nat) (m : RecvMsg) (old : W64) : State :=
  let s1 := cachePutResp s c m.msn Status.ok old false
  if isFailover s c then mirrorEntry (releaseRecv s1 c m) c m.msn
  else finishRecv (atomicResponse s1 c m.msn m.tenant old) c m.msn Status.ok

/-- An ATOMIC executes: in the memory controller, or as a PCIe AtomicOp (R111, R193). A sealed tenant's host pages carry sealed records only
(R73), which no AtomicOp can change. -/
def runAtomic (s : State) (c : Nat) (m : RecvMsg) : State :=
  match issue s m.tenant m.ctx (m.base + m.raddr) 8 0 { rd := true, wr := true } with
  | (s1, .need a) => stall s1 m.ctx a (.execHead c m.msn none)
  | (s1, .fail st) => placeFails s1 c m st
  | (s1, .ok x) =>
    if isFailover s c && anyLocal x.pieces then failRecv (endXfer s1 x) c m.msn Status.remoteAccess Status.remoteAccess
    else match x.pieces with
    | [(.bus a _ _, _)] =>
      if 3 ≤ m.aop ∨ sealed s1 m.tenant = true then
        failRecv (endXfer s1 x) c m.msn Status.remoteAccess Status.remoteAccess
      else
        let s2 := recvMod s1 c m.msn (fun m => { m with executed := true })
        emit { s2 with tpe := { s2.tpe with atomics := s2.tpe.atomics ++ [⟨c, m.msn, x⟩] } }
          (.atomicOp (requesterFn m.tenant) (.atomicOp c m.msn) a (decide (m.aop = 2)) (decide (m.aop = 1)) m.op1 m.op2)
    | _ =>
      match finishRead s1 m.tenant x none with
      | (s2, .refused) => placeFails s2 c m Status.localProtection
      | (s2, .poison _ _) => failRecv s2 c m.msn Status.poisoned Status.poisoned
      | (s2, .ok b) =>
        let old := w64 (leNat b)
        match writePieces s2 m.tenant x.pieces (leBytes 8 (atomicNew m.aop old m.op1 m.op2).toNat) [] with
        | (s3, false) => placeFails s3 c m Status.localProtection
        | (s3, true) => atomicDone (recvMod s3 c m.msn (fun m => { m with executed := true })) c m old

/-- ATOMICOP_COMPLETE for a peer's ATOMIC (R193, R194): the old value, or none for Unsupported Request, Completer Abort or timeout. -/
def atomicReturns (s : State) (c msn : Nat) (result : Option W64) : State :=
  match s.tpe.atomics.find? (fun a => a.conn = c ∧ a.msn = msn) with
  | none => s
  | some a =>
    let s1 := endXfer { s with tpe := { s.tpe with atomics := s.tpe.atomics.filter (fun x => !decide (x.conn = c ∧ x.msn = msn)) } } a.xfer
    match recvMsg s1 c msn, result with
    | none, _ => s1
    | some m, some v => atomicDone s1 c m v
    | some m, none =>
      let s2 := cachePutResp s1 c msn Status.remoteAccess 0 false
      if isFailover s c then mirrorEntry (releaseRecv s2 c m) c msn else finishRecv s2 c msn Status.remoteAccess

/-- A READ executes: its response is posted and reads memory as its cells are built (R193). -/
def runRead (s : State) (c : Nat) (m : RecvMsg) : State :=
  let s1 := recvMod s c m.msn (fun m => { m with executed := true, counted := false })
  let src : Source := if m.opc = 0x0D then .phys m.tenant m.raddr else .mem m.tenant m.ctx [(m.base + m.raddr, m.len)]
  let r := if m.counted then some m.region else none
  postResponse s1 c { msn := m.msn, opc := 0x04, by_ := .response, tenant := m.tenant, src := src, len := m.len, region := r }

/-- The indices of a GATHER-REDUCE, from its staged list. -/
def gatherList (m : RecvMsg) : List Nat :=
  (List.range (nfld m.varg 20 8)).map (fun k => leNat ((List.range 4).map (fun i => tget (fun _ => (0 : Byte)) m.staging (4 * k + i))))

/-- Reduces the rows in index-list order (R115): the row, the poisoned elements; a failure with its
status (OK: a sealed record is not open yet), or a table word to wait for. `local_`: a page of device memory fails it, as on a failover QP
(R196). -/
def gatherRows (s : State) (m : RecvMsg) (local_ : Bool) (acc : Option (List Byte)) (bad : Marks) :
    List Nat → Option (List Byte) → State × Except (Nat ⊕ Nat) (List Byte × Marks)
  | [], _ => (s, .ok (acc.getD [], bad))
  | i :: r, bus =>
    match issueSegs s m.tenant m.ctx [(m.base + m.raddr, i * m.len + m.len)] (i * m.len) m.len 0 { rd := true } with
    | (s1, .need a) => (s1, .error (.inr a))
    | (s1, .fail st) => (s1, .error (.inl st))
    | (s1, .ok x) =>
      if local_ && anyLocal x.pieces then (endXfer s1 x, .error (.inl Status.remoteAccess))
      else if !recordsThere s1 x.pieces then (s, .error (.inl Status.ok)) else
      let n := (x.pieces.filter (fun p => match p.1 with | .bus _ _ _ => true | _ => false)).foldl (fun n p => n + p.2) 0
      let w := max 1 (fmtBytes (nfld m.varg 7 4))
      let join := fun (b : List Byte) => match acc with
        | none => b
        | some a => combineBytes (nfld m.varg 3 0) (nfld m.varg 7 4) w (m.len / w) a b
      match finishRead s1 m.tenant x bus with
      | (s2, .refused) => (s2, .error (.inl Status.localProtection))
      | (s2, .poison b l) => gatherRows s2 m local_ (some (join b)) (bad ++ wholeElems w l) r (bus.map (·.drop n))
      | (s2, .ok b) => gatherRows s2 m local_ (some (join b)) bad r (bus.map (·.drop n))

/-- A GATHER-REDUCE executes: every row is checked against the bounds first; a row out of bounds refuses the request whole. -/
def runGather (s : State) (c : Nat) (m : RecvMsg) (bus : Option (List Byte)) : State :=
  let l := gatherList m
  if l.any (fun i => decide ((region s m.region).len.toNat < m.raddr + i * m.len + m.len)) then
    bumpFn (failRecv s c m.msn Status.remoteAccess Status.remoteAccess) Reg.ATU_ADM_REJECT m.tenant
  else match gatherRows s m (isFailover s c) none (if m.pendData = [] then [] else [(0, m.len)]) l bus with
    | (s1, .error (.inr a)) => stall s1 m.ctx a (.execHead c m.msn bus)
    | (s1, .error (.inl st)) => if st = Status.ok then s else placeFails s1 c m st
    | (s1, .ok (row, bad)) =>
      finishRecv (postResponse (recvMod s1 c m.msn (fun m => { m with executed := true })) c
        { msn := m.msn, opc := 0x07, by_ := .response, tenant := m.tenant, src := .data row, len := m.len, poison := !bad.isEmpty, bad := bad }) c m.msn Status.ok

/-- Executes what waits for its turn: a READ, FREAD, ATOMIC, GATHER or INVOKE head whose earlier messages are placed (R127, R184); on a
channel no message waits for another. -/
def runHead (s : State) (c msn : Nat) (bus : Option (List Byte)) : State :=
  match recvMsg s c msn with
  | none => s
  | some m =>
    if m.executed ∨ m.complete ∨ ¬ (isChan c ∨ (conn s c).done = msn) then s
    else match m.opc with
      | 0x0B => runRead s c m
      | 0x0D => runRead s c m
      | 0x0C => runAtomic s c m
      | 0x06 => if m.covered.length < recvUnits m ∨ m.pend ≠ [] then s else runGather s c m bus
      | 0x08 => if m.waiting then placeEarly (startInvoke s c m) c else s
      | _ => s

/-- ORDERED_HEAD_EXECUTE. `bus`: what the host or peer bus returns for the rows of a GATHER-REDUCE, none when a read failed. -/
def execOrderedHeadExecute (c msn : Nat) (bus : Option (List Byte)) (s : State) : Host.Outcome State Fault Refusal :=
  .next (runHead s c msn bus)

/-! ### Flushes and mirrors that complete (R72, R183, R199) -/

/-- A flush read of a message's placements ends; a failed one ends the message with LOCAL_PROTECTION. -/
def msgFlushed (s : State) (c msn : Nat) (ok : Bool) : State :=
  match recvMsg s c msn with
  | none => s
  | some m =>
    if m.flushes = 0 then s
    else if !ok then failRecv s c msn Status.localProtection Status.localProtection
    else
      let s1 := recvMod s c msn (fun m => { m with flushes := m.flushes - 1, flushed := decide (m.flushes = 1) })
      if m.flushes = 1 then finalize s1 c msn else s1

/-- PEER_FLUSH_COMPLETE (R72, R183): a zero-length read of a peer page completes, or fails. -/
def execPeerFlushComplete (tag : BusTag) (ok : Bool) (s : State) : Host.Outcome State Fault Refusal :=
  match tag with
  | .peerFlush q i => .next (entryFlushed s q i ok)
  | .msgFlush c m => .next (msgFlushed s c m ok)
  | _ => .next s

/-- MIRROR_FLUSH_COMPLETE (R199): the mirrored response-cache entry is visible at the partner; the response or final record goes out. -/
def execMirrorFlushComplete (c msn : Nat) (s : State) : Host.Outcome State Fault Refusal :=
  match recvMsg s c msn, cacheFind s (peerKey s c) c msn with
  | some m, some e =>
    if !m.waiting then .next s
    else
      let s1 := if e.reduce ∨ e.status ≠ 0 then s else atomicResponse s c msn m.tenant e.value
      .next (finishRecv s1 c msn e.status)
  | _, _ => .next s

end Sys2Proof.Machine
end

