-- ==== Sys2Proof/Machine/TpeFail.lean ====
section
/-! DEFINITION. Takeover of a failover QP by its twin (R200, R201). -/
namespace Sys2Proof.Machine

/-- The index that a 32-bit ring index names, at or above HEAD. -/
def wholeIndex (Q : QueueC) (i : Nat) : Nat := Q.hd + (i + 2 ^ 32 - Q.hd % 2 ^ 32) % 2 ^ 32

/-- The shared ring starts at SQ_HEAD with the TAIL of the twin's own doorbells; nothing below the value found at the head address is
published (R201 steps 3 and 4). -/
def resumeRing (s : State) (c sqHead head : Nat) : State :=
  match qpQueue s c false with
  | none => s
  | some (q, Q) =>
    let h := wholeIndex Q sqHead
    fetchRound (queueMod s q (fun Q => { Q with
      hd := h, tail := max Q.tail h, fetch := max Q.fetch h, published := h, announced := h, headFloor := wholeIndex Q head,
      entries := Q.entries.filter (fun e => decide (h ≤ e.idx)), spec := Q.spec.filter (fun e => decide (h ≤ e.idx)),
      refetch := Q.refetch.filter (fun r => decide (h ≤ r.idx)) })) q

/-- A takeover of one STANDBY QP (R201): a REQ with TAKEOVER and RESUME_MSN, the ring from SQ_HEAD, TAKEN in its own record. `head`: the
value at the head address. -/
def takeover (s : State) (c head : Nat) (m : Mirror) : State :=
  let s1 := connMod s c (fun C => { C with st := 1, takenOver := true, resumeMsn := m.headMsn, msn := m.headMsn,
                                           done := m.recvDone, rqNext := m.rqNext })
  let s2 := resumeRing (sendReq s1 c) c m.sqHead head
  markMirror { s2 with tpe := { s2.tpe with tookOver := true } } c 2

/-- HANDOFF_RECORD_SEEN (R198, R200, R201): the partner's record of a STANDBY QP carries HANDOFF. -/
def execHandoffRecordSeen (c head : Nat) (s : State) : Host.Outcome State Fault Refusal :=
  if (conn s c).st ≠ 5 then .next s
  else match acceptMirror s (mirrorSlot s c) with
    | (s1, none) => .next s1
    | (s1, some m) => if nbit m.word 21 ∧ m.twin = c then .next (takeover s1 c head m) else .next s1

/-- HEARTBEAT_TIMEOUT (R200): three consecutive heartbeats are missing; every STANDBY QP is taken over. `heads`: the value at the head
address of each. -/
def execHeartbeatTimeout (heads : List (Nat × Nat)) (s : State) : Host.Outcome State Fault Refusal :=
  let l := (s.tpe.conns.filter (fun e => decide (e.2.st = 5))).map (·.1)
  let s1 := { s with tpe := { s.tpe with partnerLive := false } }
  .next (l.foldl (fun s c =>
    let p := currentMirror s (mirrorSlot s c)
    takeover p.1 c ((heads.find? (fun h => h.1 = c)).map (·.2) |>.getD 0) p.2) s1)

/-- TAKEN_RECORD_SEEN (R201 step 5, Table 7-2): a READY QP whose twin has taken over sends nothing further. -/
def execTakenRecordSeen (c : Nat) (s : State) : Host.Outcome State Fault Refusal :=
  if (conn s c).st ≠ 2 ∨ isFailover s c = false then .next s
  else match acceptMirror s (mirrorSlot s c) with
    | (s1, none) => .next s1
    | (s1, some m) =>
      if nbit m.word 22 ∧ m.twin = c then
        .next (standDown s1 c Status.contextGone)
      else .next s1

/-- With no live fabric link left on the card, every READY failover QP hands over, whatever its path (Table 7-2, R200). -/
def failoverCheck (s : State) : State :=
  if anyLinkUp s then s
  else
    let l := (s.tpe.conns.filter (fun e => decide (e.2.st = 2) && isFailover s e.1)).map (·.1)
    l.foldl (fun s c => handOver s c Status.peerUnreachable) s

end Sys2Proof.Machine
end

