-- ==== Sys2Proof/Machine/Frt.lean ====
section
/-! DEFINITION. The Whirligig router and its links (chapter 9): route choice, deflection, multicast copies, injection, link states,
training, notices and cut connectors. -/
namespace Sys2Proof.Machine

/-! ### Links, connectors and their lanes (Table 2-4) -/

/-- A link. -/
def link (s : State) (l : Nat) : Link := tget (fun _ => {}) s.frt.links l

/-- Rewrites a link. -/
def linkMod (s : State) (l : Nat) (f : Link → Link) : State :=
  { s with frt := { s.frt with links := tmod (fun _ => {}) s.frt.links l f } }

/-- A lane. -/
def lane (s : State) (l : Nat) : Lane := tget (fun _ => {}) s.lns.lanes l

/-- Rewrites a lane. -/
def laneMod (s : State) (l : Nat) (f : Lane → Lane) : State :=
  { s with lns := { s.lns with lanes := tmod (fun _ => {}) s.lns.lanes l f } }

/-- The rotation of a connector. -/
def rot (s : State) (k : Nat) : Rot := tget (fun _ => {}) s.lns.rots k

/-- Rewrites the rotation of a connector. -/
def rotMod (s : State) (k : Nat) (f : Rot → Rot) : State :=
  { s with lns := { s.lns with rots := tmod (fun _ => {}) s.lns.rots k f } }

/-- The two lanes of a link. -/
def linkLanes (l : Nat) : List Nat := [l / 2 * 5 + l % 2 * 2, l / 2 * 5 + l % 2 * 2 + 1]

/-- The spare lane of a connector. -/
def spareLane (k : Nat) : Nat := k * 5 + 4

/-- The link of a position of a connector. -/
def linkOfPos (k pos : Nat) : Nat := 2 * k + pos / 2

/-- The other link of the connector. -/
def otherLink (l : Nat) : Nat := if l % 2 = 0 then l + 1 else l - 1

/-- A rotation step is over: what waited for its end is acted on. -/
def stepOver (s : State) (k : Nat) : State :=
  let s1 := rotMod s k (fun R => { R with phase := 0, mine := false, peer := false, restarts := 0, marker := none })
  if (rot s k).later = [] then s1 else { s1 with atu := { s1.atu with ready := s1.atu.ready ++ [.laneLater k] } }

/-- A step is abandoned: the freed lane rejoins with the coefficients it held, the spare is idle again (R288). -/
def stepAbandon (s : State) (k : Nat) : State :=
  let R := rot s k
  if R.phase = 0 then s
  else
    let l := k * 5 + R.pos
    let s1 := if (lane s l).st = 5 then laneMod s l (fun L => { L with st := 2 }) else s
    let s2 := if (lane s1 (spareLane k)).st = 4 ∧ R.perm = false then
        laneMod s1 (spareLane k) (fun L => { L with st := 3, carries := 7 }) else s1
    stepOver (bump s2 Reg.LNS_ROT_ABORT 0) k

/-- The lanes of a link that leaves UP follow it (Table 11-3); a step of the connector is abandoned (R288). -/
def lanesFollow (s : State) (l : Nat) (off : Bool) : State :=
  let k := l / 2
  let st := if off then 0 else 1
  let s1 := stepAbandon s k
  let s2 := (linkLanes l).foldl (fun s x => laneMod s x (fun _ => { st := st })) s1
  let sp := lane s2 (spareLane k)
  let mine := sp.st = 4 ∧ linkOfPos k sp.carries = l
  let s3 := if mine then rotMod s2 k (fun R => { R with perm := false }) else s2
  if (link s (otherLink l)).st = 3 then
    (if mine then laneMod s3 (spareLane k) (fun L => { L with st := 3, carries := 7 }) else s3)
  else laneMod s3 (spareLane k) (fun _ => { st := st })

/-- The lanes of a link train (R281, R289). -/
def lanesTrain (s : State) (l : Nat) : State :=
  let s1 := (linkLanes l).foldl (fun s x => laneMod s x (fun _ => { st := 1 })) s
  if (lane s1 (spareLane (l / 2))).st = 0 then laneMod s1 (spareLane (l / 2)) (fun _ => { st := 1 }) else s1

/-- The link is UP: lanes that trained are ACTIVE, the spare is SPARE_IDLE; `failed` lanes failed training (Table 11-3). -/
def lanesUp (s : State) (l : Nat) (failed : List Nat) : State :=
  let s1 := (linkLanes l).foldl (fun s x => laneMod s x (fun L => { L with st := if failed.contains x then 6 else 2 })) s
  let sp := spareLane (l / 2)
  let s2 := if (lane s1 sp).st = 1 then laneMod s1 sp (fun L => { L with st := if failed.contains sp then 6 else 3 }) else s1
  if (linkLanes l).any failed.contains then bump s2 Reg.LNS_ONE_LANE 0 else s2

/-! ### Distance and route choice (R227, R233, R234) -/

/-- A coordinate of a node. -/
def coord (node i : Nat) : Nat := node / 16 ^ i % 16

/-- The plane's size in a dimension. -/
def dimSize (s : State) (i : Nat) : Nat := fld (reg s Reg.FRT_DIM 0) (8 * i + 4) (8 * i)

/-- A node lies inside FRT_DIM. -/
def inDim (s : State) (node : Nat) : Bool := decide (node < 4096) && (List.range 3).all (fun i => decide (coord node i < dimSize s i))

/-- Distance in the + direction of a dimension. -/
def ahead (s : State) (node i : Nat) : Nat :=
  (coord node i + dimSize s i - coord (ownNode s) i % max 1 (dimSize s i)) % max 1 (dimSize s i)

/-- Hops that remain in a dimension. -/
def hopsLeft (s : State) (node i : Nat) : Nat := min (ahead s node i) (dimSize s i - ahead s node i)

/-- The links on minimal directions of a dimension. -/
def minimalOf (s : State) (node i : Nat) : List Nat :=
  let d := ahead s node i
  let n := dimSize s i
  if d = 0 then []
  else if 2 * d < n then [4 * i, 4 * i + 1]
  else if n < 2 * d then [4 * i + 2, 4 * i + 3]
  else [4 * i, 4 * i + 1, 4 * i + 2, 4 * i + 3]

/-- A live output. -/
def isUp (s : State) (l : Nat) : Bool := (link s l).st = 3

/-- The minimal set (R233). -/
def minimalSet (s : State) (node : Nat) : List Nat := ((List.range 3).flatMap (minimalOf s node)).filter (isUp s)

/-- The link runs at half rate (R248). -/
def halfRate (s : State) (l : Nat) : Bool := (link s l).ver = 1 || (link s l).oneLane

/-- Occupied staging slots of a link, as R234 counts them. -/
def occupied (s : State) (l : Nat) : Nat := (link s l).staging.length * (if halfRate s l then 2 else 1)

/-- Free staging slots of a link. -/
def freeSlots (s : State) (l : Nat) : Nat := 4 - (link s l).staging.length

/-- The least link of a list under a key; a tie keeps the earlier. -/
def leastBy (key : Nat → Nat) : List Nat → Option Nat
  | [] => none
  | x :: r => match leastBy key r with
    | none => some x
    | some y => if key y < key x then some y else some x

/-- The dimension of a link has more than one node; the links of a dimension of size 1 stay OFF (R226). -/
def linkUsed (s : State) (l : Nat) : Bool := decide (1 < dimSize s (l / 4) ∧ l < 12)

/-- The outputs a cell may take: its minimal set; with DOR those in the lowest dimension not yet done, on the connector of the lowest link,
so that the way is fixed also where both directions are minimal (R234; log 22). -/
def routeSet (s : State) (node : Nat) : List Nat :=
  match minimalSet s node with
  | [] => []
  | l :: r => if wbit (reg s Reg.FRT_CTL 0) 0 then (l :: r).filter (fun x => decide (x / 2 = l / 2)) else l :: r

/-- The order of R234: occupancy first, then the dimension with the most hops left, then the lower index; with DOR, the lower index. -/
def routeKey (s : State) (node l : Nat) : Nat :=
  if wbit (reg s Reg.FRT_CTL 0) 0 then l else occupied s l * 1000000 + (64 - hopsLeft s node (l / 4)) * 1000 + l

/-- The output for a cell, among those with enough free slots. -/
def chooseOutput (s : State) (node slots : Nat) : Option Nat :=
  leastBy (routeKey s node) ((routeSet s node).filter (fun l => decide (slots ≤ freeSlots s l)))

/-- Puts a cell in a link's staging. -/
def stageCell (s : State) (l : Nat) (c : Cell) : State := linkMod s l (fun L => { L with staging := L.staging ++ [c] })

/-- The hop limit drops a cell (R235). -/
def hopLimit (s : State) (c : Cell) : State :=
  setReg (bump s Reg.FRT_HOPLIMIT_DROP 0) Reg.FRT_HOPLIMIT_LAST 0 (w64 (c.snode % 4096 + c.dnode % 4096 * 4096))

/-- Routes a unicast cell that is in flight: a minimal output, a deflection, or a drop (R234, R236). `inp`: the link it came on. -/
def routeCell (s : State) (inp : Option Nat) (c : Cell) : State :=
  match chooseOutput s c.dnode 1 with
  | some l => stageCell s l c
  | none =>
    let out := (List.range 12).filter (fun l =>
      isUp s l && decide (1 ≤ freeSlots s l) && !(routeSet s c.dnode).contains l)
    let away := out.filter (fun l => decide (some l ≠ inp))
    match leastBy (occupied s) (if away = [] then out else away) with
    | some l => bump (stageCell s l { c with defl := min 63 (c.defl + 1), crc := (rewriteCell c c.ver c.hops (min 63 (c.defl + 1))).crc })
        Reg.FRT_DEFLECT 0
    | none => bump s Reg.FRT_NOPORT_DROP 0

/-! ### Multicast (R239 to R242) -/

/-- A group table entry (Table 9-4). -/
def mcEnt (s : State) (g : Nat) : W64 := reg s Reg.FRT_MC_ENT (g % 8192)

/-- The links of an entry. -/
def mcLinks (w : W64) : List Nat := (List.range 12).filter (fun l => wbit w (l + 2))

/-- A copy takes staging with 2 free slots, or waits in the hold of 64, or is dropped (R242). -/
def placeCopy (s : State) (l : Nat) (c : Cell) : State :=
  if 2 ≤ freeSlots s l ∧ s.frt.hold.all (fun h => h.link ≠ l) then stageCell s l c
  else if s.frt.hold.length < 64 then { s with frt := { s.frt with hold := s.frt.hold ++ [⟨l, c, s.time⟩] } }
  else bump s Reg.FRT_MC_HOLD_DROP 0

/-- One copy of a multicast cell for a link (R241). -/
def mcCopy (s : State) (c : Cell) (l : Nat) : State :=
  if !isUp s l || decide ((link s l).ver = 1) then bump s Reg.FRT_MC_DEAD_DROP 0 else placeCopy s l c

/-- A cell goes to the eject port (R238). -/
def ejectCell (s : State) (l : Nat) (c : Cell) : State := { s with frt := { s.frt with eject := s.frt.eject ++ [(l, c)] } }

/-- A cell from a link is addressed to this device. Before RUNNING it is dropped as for an unreachable node, unless it is a MGMT cell; notices
are the router's own (R439). -/
def ejectArrival (s : State) (l : Nat) (c : Cell) : State :=
  if !running s && decide (c.typ = 1) then bump s Reg.FRT_UNREACH_DROP 0 else ejectCell s l c

/-- A multicast cell that arrives on a link (R241): only on IN_LINK of a VALID entry; the hop limit applies to every copy. -/
def mcArrive (s : State) (l : Nat) (c : Cell) : State :=
  let w := mcEnt s c.mgroup
  if !wbit w 0 || decide (fld w 17 14 ≠ l) then bump s Reg.FRT_MC_MISS 0
  else
    let s1 := (mcLinks w).foldl (fun s k => if c.hops = 0 then hopLimit s c else mcCopy s c k) s
    if wbit w 1 && !c.stomp then ejectArrival s1 l c else s1

/-- Copies of an injected multicast cell that would go to the hold. -/
def holdNeeds (s : State) (w : W64) : Nat :=
  ((mcLinks w).filter (fun l => isUp s l && decide ((link s l).ver ≠ 1) &&
    !(decide (2 ≤ freeSlots s l) && s.frt.hold.all (fun h => decide (h.link ≠ l))))).length

/-- A router serves the waiting copies of an output, oldest first, while two slots are free. -/
def serveHold (s : State) (l : Nat) : Nat → State
  | 0 => s
  | n + 1 =>
    if freeSlots s l < 2 then s
    else match takeFirst (fun h : HeldCopy => decide (h.link = l)) s.frt.hold with
      | none => s
      | some (h, rest) => serveHold (stageCell { s with frt := { s.frt with hold := rest } } l h.cell) l n

/-! ### The router pass (R231, R232, R235, R244) -/

/-- The header faults of R231. -/
def headerBad (s : State) (l : Nat) (c : Cell) : Bool :=
  decide (c.typ = 0 ∨ 3 < c.typ) || decide (c.ver ≠ (link s l).ver) || decide (c.plane ≠ ownPlane s) || !inDim s c.dnode ||
  (c.mc && decide ((link s l).ver = 1)) || decide (c.resv ≠ 0)

/-- The check of a cell's tail (R244): a failing CRC, or a STOMP from the link, stomps the copies made here. -/
def tailCheck (s : State) (l : Nat) (c : Cell) : State × Cell :=
  if c.stomp then (bump s Reg.FRT_STOMP_RX 0, c)
  else if crcOk c then (s, c)
  else (bump (bump s Reg.FRT_CRC_ERR 0) Reg.FRT_LCRC l, { c with stomp := true })

/-- ROUTER_PASS (R231 to R244): a cell arrives on a link that is UP. -/
def execRouterPass (l : Nat) (c : Cell) (s : State) : Host.Outcome State Fault Refusal :=
  if !isUp s l then .next s
  else
    let s1 := bump s Reg.FRT_LCNT_RX l
    if headerBad s l c then .next (bump s1 Reg.FRT_BAD_HDR 0)
    else
      let p := tailCheck s1 l c
      if c.typ = 2 then .next (if p.2.stomp then p.1 else ejectCell p.1 l c)
      else if c.mc then .next (mcArrive p.1 l p.2)
      else if c.dnode = ownNode s then .next (if p.2.stomp then p.1 else ejectArrival p.1 l c)
      else if c.hops = 0 then .next (hopLimit p.1 c)
      else if unreachable s c.dnode then .next (bump p.1 Reg.FRT_UNREACH_DROP 0)
      else .next (routeCell p.1 (some l) p.2)

/-- CELL_SLOT (R235, R243, R249): a link's slot time. The oldest staged cell leaves with VER and HOPS + 1, and waiting copies take its
place. `bad`: the cell fails the check of the router's own staging (R244). -/
def execCellSlot (l : Nat) (bad : Bool) (s : State) : Host.Outcome State Fault Refusal :=
  if !isUp s l then .next s
  else match (link s l).staging with
    | [] => .next s
    | c :: rest =>
      let s1 := linkMod s l (fun L => { L with staging := rest })
      let s2 := if bad then
          report (bump s1 Reg.FRT_INT_ERR 0) { cls := 0x13, sev := 2, unit := 5, code := 1, inst := l }
        else emit (bump s1 Reg.FRT_LCNT_TX l) (.cell l (rewriteCell c (link s l).ver ((c.hops + 1) % 64) c.defl))
      .next (serveHold s2 l 4)

/-- MC_HOLD_TIMEOUT (R242): the oldest waiting copy has waited 2 µs. -/
def execMcHoldTimeout (s : State) : Host.Outcome State Fault Refusal :=
  match s.frt.hold with
  | [] => .next s
  | _ :: r => .next (bump { s with frt := { s.frt with hold := r } } Reg.FRT_MC_HOLD_DROP 0)

/-- The oldest waiting injection waits; the wait is counted once. -/
def injectWaits (s : State) : State :=
  match s.frt.inject with
  | [] => s
  | x :: r =>
    if x.waited then s else bump { s with frt := { s.frt with inject := { x with waited := true } :: r } } Reg.FRT_INJ_STALL 0

/-- A multicast injection that the group table refuses is reported to Scarab (R240). The connection of a multicast cell is its group. -/
def mcRefuse (s : State) (group : Nat) : State :=
  let s1 := bump s Reg.FRT_MC_REFUSED 0
  { s1 with atu := { s1.atu with ready := s1.atu.ready ++ [.issuerEnd (.scarab group 0) Status.localProtection] } }

/-- The output of an injected cell: a minimal one with 2 free slots. With no live minimal output, the cell starts around its dead links,
since a partly cut node is never unreachable (R254, DEDUCED, log 22). -/
def injectOutput (s : State) (node : Nat) : Option Nat :=
  if minimalSet s node = [] then
    leastBy (occupied s) ((List.range 12).filter (fun l => isUp s l && decide (2 ≤ freeSlots s l)))
  else chooseOutput s node 2

/-- A cell of heads, which the transport gives up when there is no route (R191). Other cells are refused without more: the timers of their
sender go on (R189, Table 7-2). -/
def ofHeads (c : Cell) : Bool := decide (c.opc = 0x10)

/-- CELL_INJECT (R237, R238, R240, R242, R254): the oldest local cell takes a minimal output with 2 free slots, or waits. -/
def execCellInject (s : State) : Host.Outcome State Fault Refusal :=
  match s.frt.inject with
  | [] => .next s
  | x :: r =>
    let s1 := { s with frt := { s.frt with inject := r } }
    let c := x.cell
    if c.mc then
      let w := mcEnt s c.mgroup
      if !wbit w 0 || decide (fld w 17 14 ≠ 15 ∨ fld w 25 18 ≠ x.tenant) then .next (mcRefuse s1 x.conn)
      else if 64 < s.frt.hold.length + holdNeeds s w then .next (injectWaits s)
      else
        let s2 := (mcLinks w).foldl (fun s k => mcCopy s c k) s1
        .next (if wbit w 1 then ejectCell s2 15 c else s2)
    else if c.dnode = ownNode s then .next (ejectCell s1 15 c)
    else if unreachable s c.dnode then .next (if ofHeads c then headNoRoute s1 x.conn else s1)
    else match injectOutput s c.dnode with
      | some l => .next (stageCell s1 l c)
      | none => .next (injectWaits s)

/-! ### Notices (R251 to R254, R483, R493) -/

/-- Links of a connector that are UP. -/
def liveLinks (s : State) (k : Nat) : Nat := b2n (isUp s (2 * k)) + b2n (isUp s (2 * k + 1))

/-- A notice payload (Table 9-8) as a number of 256 bits. -/
def noticeBits (kind origin peer oconn pconn live reason nseq time : Nat) : Nat :=
  kind * 2 ^ 248 + origin % 4096 * 2 ^ 236 + peer % 4096 * 2 ^ 224 + oconn % 8 * 2 ^ 221 + pconn % 8 * 2 ^ 218 + live % 4 * 2 ^ 216 +
  reason % 256 * 2 ^ 208 + nseq % 65536 * 2 ^ 192 + time % 2 ^ 64 * 2 ^ 128

/-- A LINK record with a notice payload (Table 21-2, R493). -/
def linkRecord (s : State) (code sev inst bits : Nat) : State :=
  report s { cls := 0x08, sev := sev, unit := 5, code := code, inst := inst, w3 := w64 (bits / 2 ^ 192), w4 := w64 (bits / 2 ^ 128),
             w5 := w64 (bits / 2 ^ 64), w6 := w64 bits }

/-- Sets or clears a cut connector of a node; a node that becomes unreachable, or reachable again, has its record (R254, R483). -/
def cutSet (s : State) (node k : Nat) (on : Bool) (bits : Nat) : State :=
  let m : BitVec 6 := BitVec.ofNat 6 (2 ^ k)
  let s1 := { s with frt := { s.frt with cut := tmod (fun _ => 0) s.frt.cut node (fun v => if on then v ||| m else v &&& ~~~m) } }
  if unreachable s node = unreachable s1 node then s1
  else if unreachable s1 node then
    let s2 := linkRecord s1 3 2 node bits
    { s2 with atu := { s2.atu with ready := s2.atu.ready ++ [.nodeGone node] } }
  else linkRecord s1 4 0 node bits

/-- Remembers an (ORIGIN, NSEQ) pair, the last 256 (R253). -/
def noticeSeen (s : State) (p : Nat × Nat) : State := { s with frt := { s.frt with seen := (p :: s.frt.seen).take 256 } }

/-- Sends a notice cell on every UP link at version 2 but one (R253). -/
def floodNotice (s : State) (c : Cell) (but : Nat) : State :=
  ((List.range 12).filter (fun l => isUp s l && decide ((link s l).ver = 2 ∧ l ≠ but))).foldl (fun s l => placeCopy s l c) s

/-- Originates a notice: the cell, its place in the seen-list, FRT_NOTICE_TX (R251, R252). -/
def sendNotice (s : State) (bits nseq : Nat) : State :=
  let c := sealCell { typ := 2, snode := ownNode s, plane := ownPlane s, payload := padTo 512 (beBytes 32 bits) }
  bump (floodNotice (noticeSeen { s with frt := { s.frt with nseq := nseq } } (ownNode s, nseq)) c 15) Reg.FRT_NOTICE_TX 0

/-- The event of a connector between two nodes, keyed by the unordered pair (R253). -/
def eventOf (a b ka kb kind at_ : Nat) : LinkEvent := if a < b then ⟨a, b, ka, kb, kind, at_⟩ else ⟨b, a, kb, ka, kind, at_⟩

/-- Two events are of one change. -/
def sameEvent (x y : LinkEvent) : Bool :=
  decide (x.lo = y.lo ∧ x.hi = y.hi ∧ x.loConn = y.loConn ∧ x.hiConn = y.hiConn ∧ x.kind = y.kind)

/-- The payload of a change of an own link (R493). -/
def ownBits (s : State) (l kind nseq : Nat) : Nat :=
  noticeBits kind (ownNode s) (link s l).peerNode (l / 2) (link s l).peerConn (liveLinks s (l / 2)) (link s l).reason nseq s.time

/-- A link has changed between UP and another state (R251, R254, R483): the cut table, the notice or the wait for the lower end's, the
LINK record. KIND: 1 down, 2 up. -/
def linkChanged (s : State) (l kind : Nat) : State :=
  let k := l / 2
  let n := liveLinks s k
  let told := (kind = 1 ∧ n = 0) ∨ (kind = 2 ∧ n = 1)
  let peer := (link s l).peerNode
  let low := decide (ownNode s < peer)
  let nseq := if told ∧ low then (s.frt.nseq + 1) % 65536 else 0
  let bits := ownBits s l kind nseq
  let s1 := linkRecord s (if kind = 1 then 1 else 2) (if kind = 1 then 2 else 0) l bits
  if !told then s1
  else
    let s2 := cutSet (cutSet s1 (ownNode s) k (decide (kind = 1)) bits) peer (link s l).peerConn (decide (kind = 1)) bits
    if low then sendNotice s2 bits nseq
    else { s2 with frt := { s2.frt with owed := eventOf (ownNode s) peer k (link s l).peerConn kind s.time :: s2.frt.owed } }

/-- NOTICE_FALLBACK_TIMER (R251): 50 µs after a change of a connector the higher end has heard nothing from the lower one. -/
def execNoticeFallbackTimer (k : Nat) (s : State) : Host.Outcome State Fault Refusal :=
  match takeFirst (fun e : LinkEvent => decide (e.hi = ownNode s ∧ e.hiConn = k)) s.frt.owed with
  | none => .next s
  | some (e, r) =>
    let nseq := (s.frt.nseq + 1) % 65536
    let bits := noticeBits e.kind (ownNode s) e.lo k e.loConn (liveLinks s k) (link s (2 * k)).reason nseq e.at_
    .next (sendNotice { s with frt := { s.frt with owed := r } } bits nseq)

/-- A notice that has reached the router agent (R253, R254, R483). -/
def noticeTake (s : State) (l : Nat) (c : Cell) : State :=
  let b := beNat (c.payload.take 32)
  let origin := nfld b 247 236
  let peer := nfld b 235 224
  let oconn := nfld b 223 221
  let pconn := nfld b 220 218
  let kind := nfld b 255 248
  let nseq := nfld b 207 192
  if s.frt.seen.contains (origin, nseq) then bump s Reg.FRT_NOTICE_DUP 0
  else
    let e := eventOf origin peer oconn pconn kind s.time
    let s1 := floodNotice (bump (noticeSeen s (origin, nseq)) Reg.FRT_NOTICE_RX 0) c l
    let s2 := { s1 with frt := { s1.frt with
      owed := if origin = e.lo then s1.frt.owed.filter (fun x => !sameEvent x e) else s1.frt.owed } }
    let s3 := if kind = 1 ∧ nfld b 217 216 = 0 then cutSet (cutSet s2 origin oconn true b) peer pconn true b
      else if kind = 2 then cutSet (cutSet s2 origin oconn false b) peer pconn false b else s2
    if s3.frt.passed.any (fun x => sameEvent x e && decide (s.time < x.at_ + 100000000)) then s3
    else
      let s4 := { s3 with frt := { s3.frt with passed := e :: s3.frt.passed.filter (fun x => decide (s.time < x.at_ + 100000000)) } }
      suppressNode (suppressNode s4 (origin + ownPlane s * 4096)) (peer + ownPlane s * 4096)

/-- NOTICE_RECEIVE (R253). -/
def execNoticeReceive (l : Nat) (c : Cell) (s : State) : Host.Outcome State Fault Refusal :=
  if c.typ = 2 then .next (noticeTake s l c) else .next s

/-- CELL_EJECT (R238): the oldest cell at the eject port is handed on: to the transport (which passes Scarab's on), the router agent, or
MGT. `chan`: a transport cell is a channel's. -/
def execCellEject (chan : Bool) (s : State) : Host.Outcome State Fault Refusal :=
  match s.frt.eject with
  | [] => .next s
  | (l, c) :: r =>
    let s1 := { s with frt := { s.frt with eject := r } }
    .next (match c.typ with
      | 1 => { s1 with atu := { s1.atu with ready := s1.atu.ready ++ [.packet { chan := chan, cell := c }] } }
      | 2 => noticeTake s1 l c
      | _ => emit s1 (.mgmt c))

/-! ### Link states (R245 to R250, Table 9-7) -/

/-- Training of a link starts: this end sends its identity block. -/
def trainStart (s : State) (l : Nat) : State :=
  lanesTrain (emit (linkMod s l (fun L => { L with st := 2 })) (.training l)) l

/-- The cells in the staging of a dead link are routed again; multicast copies and notices are not (R241, R250). -/
def reroute (s : State) (cells : List Cell) : State :=
  cells.foldl (fun s c => if c.mc then bump s Reg.FRT_MC_DEAD_DROP 0 else if c.typ = 2 then s else routeCell s none c) s

/-- An UP link is marked dead with a reason (R250): `off` when software disables it. -/
def linkDead (s : State) (l reason : Nat) (off : Bool) : State :=
  if !isUp s l then s
  else
    let cells := (link s l).staging
    let s1 := linkMod s l (fun L => { L with
      st := if off then 0 else 1, reason := reason, ver := 0, oneLane := false, staging := [],
      downs := if off then L.downs else s.time :: L.downs.filter (fun t => decide (s.time < t + 1000000000)) })
    let s2 := lanesFollow (if off then s1 else bump s1 Reg.FRT_LDOWN l) l off
    failoverCheck (linkChanged (reroute s2 cells) l 1)

/-- LINK_ENABLE (Table 9-7): DISABLE is clear on an OFF link of a dimension above 1. -/
def execLinkEnable (l : Nat) (s : State) : Host.Outcome State Fault Refusal :=
  let s := dropHeld s 0
  if !running s || decide (12 ≤ l) then .next s
  else
    let s1 := linkMod s l (fun L => { L with disable := false })
    .next (if (link s l).st = 0 && linkUsed s l then trainStart s1 l else s1)

/-- LINK_DISABLE (Table 9-7): DISABLE is set. -/
def execLinkDisable (l : Nat) (s : State) : Host.Outcome State Fault Refusal :=
  let s := dropHeld s 0
  if !running s || decide (12 ≤ l) then .next s
  else
    let s1 := linkMod s l (fun L => { L with disable := true })
    if isUp s l then .next (linkDead s1 l 5 true)
    else .next (lanesFollow (linkMod s1 l (fun L => { L with st := 0, reason := if L.st = 0 then L.reason else 5 })) l true)

/-- LINK_RETRAIN (Table 9-7). -/
def execLinkRetrain (l : Nat) (s : State) : Host.Outcome State Fault Refusal :=
  let s := dropHeld s 0
  if (link s l).st = 4 then .next (trainStart s l) else .next s

/-- The reason for which an end holds a link under the identity block it received, none when R246 passes. -/
def trainCheck (s : State) (l : Nat) (b : LinkId) : Option Nat :=
  let k := l / 2
  let i := k / 2
  let n := dimSize s i
  let c := coord (ownNode s) i
  let next := if k % 2 = 0 then (c + 1) % max 1 n else (c + n - 1) % max 1 n
  let want := ownNode s - c * 16 ^ i + next * 16 ^ i
  if b.hold then some b.reason
  else if !b.valid || !wbit (reg s Reg.FRT_NODE 0) 12 then some 6
  else if Nat.land b.versions 6 = 0 then some 7
  else if b.plane ≠ ownPlane s then some 8
  else if b.conn / 2 ≠ k / 2 ∨ b.conn = k then some 9
  else if b.node ≠ want then some 10
  else none

/-- TRAINING_WORD_RECEIVE (R245, R246, Table 9-7): the identity block of the peer is checked. `failed`: lanes that failed training. -/
def execTrainingWordReceive (l : Nat) (b : LinkId) (failed : List Nat) (s : State) : Host.Outcome State Fault Refusal :=
  if (link s l).st ≠ 2 then .next s
  else
    let s1 := linkMod s l (fun L => { L with peerNode := b.node % 4096, peerConn := b.conn % 8 })
    match trainCheck s l b with
    | some r => .next (emit (linkMod s1 l (fun L => { L with st := 4, reason := r % 256 })) (.training l))
    | none =>
      let s2 := linkMod s1 l (fun L => { L with st := 3, ver := if nbit b.versions 2 then 2 else 1 })
      .next (linkChanged (lanesUp s2 l failed) l 2)

/-- TRAINING_TIMEOUT (Table 9-7): no training word for 100 ms. -/
def execTrainingTimeout (l : Nat) (s : State) : Host.Outcome State Fault Refusal :=
  if (link s l).st = 2 then .next (trainStart s l) else .next s

/-- LOSS_OF_SIGNAL (Table 9-7): loss of signal on a lane of the link, or of FEC framing lock. -/
def execLossOfSignal (l : Nat) (lock : Bool) (s : State) : Host.Outcome State Fault Refusal :=
  .next (linkDead s l (if lock then 2 else 1) false)

/-- NO_BLOCK_TIMEOUT (Table 9-6): no valid slot for 1 µs. -/
def execNoBlockTimeout (l : Nat) (s : State) : Host.Outcome State Fault Refusal := .next (linkDead s l 4 false)

/-- FEC_RATE_EXCEEDED (Table 9-6): more than 16 uncorrectable codewords within 1 µs. -/
def execFecRateExceeded (l words : Nat) (s : State) : Host.Outcome State Fault Refusal :=
  .next (linkDead ((linkLanes l).foldl (fun s x => bumpBy s Reg.LNS_LUNCORR x words) s) l 3 false)

/-- LINK_DOWN_TIMER (Table 9-7): 10 µs after a link went DOWN it trains again; a third fall within 1 s holds it for FLAP. -/
def execLinkDownTimer (l : Nat) (s : State) : Host.Outcome State Fault Refusal :=
  if (link s l).st ≠ 1 then .next s
  else if 3 ≤ ((link s l).downs.filter (fun t => decide (s.time < t + 1000000000))).length then
    .next (linkMod s l (fun L => { L with st := 4, reason := 11 }))
  else .next (trainStart s l)

/-- LINK_HOLD_EXPIRY (Table 9-7): 10 s under FLAP, 1 s under any other reason. -/
def execLinkHoldExpiry (l : Nat) (s : State) : Host.Outcome State Fault Refusal :=
  if (link s l).st = 4 then .next (trainStart s l) else .next s

/-- An OFF link with DISABLE clear whose dimension is above 1 starts training (Table 9-7). -/
def linkAutoTrain (s : State) (l : Nat) : State :=
  if (link s l).st = 0 && !(link s l).disable && linkUsed s l then trainStart s l else s

/-- The links start training once the profiles have said which dimensions are used (R437, Table 9-7). -/
def linksTrain (s : State) : State := (List.range 12).foldl linkAutoTrain s

/-- A committed change to FRT_NODE or FRT_DIM takes every link that is not OFF to DOWN (R247); those of a dimension whose size is now 1 stay
OFF (R226), and an OFF link of a dimension that is now above 1 starts training (Table 9-7). -/
def linksRenumber (s : State) : State :=
  (List.range 12).foldl (fun s l =>
    if (link s l).st = 0 then linkAutoTrain s l
    else linkMod (if isUp s l then linkDead s l (link s l).reason false else s) l (fun L =>
      { L with st := if linkUsed s l then 1 else 0 })) s

/-- FRT_LSTAT (Table 9-12). -/
def lstat (s : State) (l : Nat) : Nat :=
  let L := link s l
  L.st + b2n (isUp s l && halfRate s l) * 8 + (if L.st = 3 then L.ver else 0) * 16 + L.reason % 256 * 256 + L.peerNode % 4096 * 2 ^ 16 +
  L.peerConn % 8 * 2 ^ 28

end Sys2Proof.Machine
end

