-- ==== Sys2Proof/Machine/Emac.lean ====
section
/-! DEFINITION. The Ethernet ports (chapter 10): what a received frame is, steering, PFC, port state. -/
namespace Sys2Proof.Machine

/-! ### Reading a frame (destination address to FCS) -/

/-- The frame has an outer 802.1Q tag (TPID 0x8100). -/
def tagged (f : List Byte) : Bool := beAt f 12 2 = 0x8100

/-- The tag's TCI. -/
def frameTci (f : List Byte) : Nat := beAt f 14 2

/-- Where the network header starts. -/
def l3 (f : List Byte) : Nat := if tagged f then 18 else 14

/-- The EtherType, after any tag. -/
def etype (f : List Byte) : Nat := beAt f (l3 f - 2) 2

/-- An IPv4 frame. -/
def isV4 (f : List Byte) : Bool := etype f = 0x0800

/-- An IPv6 frame. -/
def isV6 (f : List Byte) : Bool := etype f = 0x86DD

/-- Bytes of the network header. -/
def l3Len (f : List Byte) : Nat := if isV6 f then 40 else beAt f (l3 f) 1 % 16 * 4

/-- The protocol that follows the network header. -/
def ipProto (f : List Byte) : Nat := beAt f (l3 f + if isV6 f then 6 else 9) 1

/-- The frame is an IPv4 fragment. -/
def fragmented (f : List Byte) : Bool := isV4 f && decide (beAt f (l3 f + 6) 2 % 16384 ≠ 0)

/-- The source address. -/
def ipSrc (f : List Byte) : Nat := if isV6 f then beAt f (l3 f + 8) 16 else beAt f (l3 f + 12) 4

/-- The destination address. -/
def ipDst (f : List Byte) : Nat := if isV6 f then beAt f (l3 f + 24) 16 else beAt f (l3 f + 16) 4

/-- The transport layer's bytes. -/
def l4Bytes (f : List Byte) : List Byte :=
  (f.drop (l3 f + l3Len f)).take (if isV6 f then beAt f (l3 f + 4) 2 else beAt f (l3 f + 2) 2 - l3Len f)

/-- The pseudo-header of a checksum. -/
def pseudoHeader (f : List Byte) : List Byte :=
  if isV6 f then (f.drop (l3 f + 8)).take 32 ++ beBytes 4 (l4Bytes f).length ++ [0, 0, 0, BitVec.ofNat 8 (ipProto f)]
  else (f.drop (l3 f + 12)).take 8 ++ [0, BitVec.ofNat 8 (ipProto f)] ++ beBytes 2 (l4Bytes f).length

/-- IP_CSUM_ERR: the IPv4 header checksum fails. -/
def ipBad (f : List Byte) : Bool := isV4 f && decide (ipCsum ((f.drop (l3 f)).take (l3Len f)) ≠ 0)

/-- The UDP checksum field. -/
def udpSum (f : List Byte) : Nat := beAt (l4Bytes f) 6 2

/-- L4_CSUM_ERR: the UDP or TCP checksum fails; a UDP checksum of 0 over IPv4 means none was made. -/
def l4Bad (f : List Byte) : Bool :=
  (isV4 f || isV6 f) && !fragmented f && decide (ipProto f = 6 ∨ ipProto f = 17) &&
  (if ipProto f = 17 ∧ udpSum f = 0 then isV6 f else decide (ipCsum (pseudoHeader f ++ l4Bytes f) ≠ 0))

/-- FCS_ERR: the IEEE 802.3 CRC-32 fails. -/
def fcsBad (f : List Byte) : Bool :=
  decide (f.drop (f.length - 4) ≠ leBytes 4 (crc32 (f.take (f.length - 4))).toNat)

/-- MAX_FRAME of a port. -/
def maxFrame (s : State) (p : Nat) : Nat := fld (reg s Reg.EMAC_FRAME p) 13 0

/-- The error flags of Table 10-6, bits 0 to 5. `pcs`: the PCS reported a coding error. -/
def frameFlags (s : State) (p : Nat) (f : List Byte) (pcs : Bool) : Nat :=
  b2n (fcsBad f) + b2n pcs * 2 + b2n (decide (f.length < 64)) * 4 + b2n (decide (maxFrame s p < f.length)) * 8 +
  b2n (ipBad f) * 16 + b2n (l4Bad f) * 32

/-- The MAC accepts a destination address (R259). -/
def addressed (s : State) (p : Nat) (f : List Byte) : Bool :=
  wbit (reg s Reg.EMAC_CFG p) 3 || nbit (beAt f 0 1) 0 || decide (beAt f 0 6 = portMac s p)

/-- The priority of a frame (R266). -/
def framePrio (s : State) (p : Nat) (f : List Byte) : Nat :=
  let cfg := reg s Reg.EMAC_CFG p
  if tagged f then frameTci f / 8192
  else if wbit cfg 4 && isV4 f then beAt f (l3 f + 1) 1 / 32
  else if wbit cfg 4 && isV6 f then beAt f (l3 f) 2 / 512 % 8
  else fld cfg 7 5

/-- A header of a transport packet (Table 9-1), as 28 bytes without its CRC. -/
def readHeader (b : List Byte) : Cell :=
  let n := beAt b 0 28
  { ver := nfld n 223 220, typ := nfld n 219 216, dnode := nfld n 215 204, snode := nfld n 203 192, plane := nfld n 191 191,
    mc := nbit n 190, mgroup := nfld n 189 177, hops := nfld n 176 171, defl := nfld n 170 165, tc := nfld n 164 161,
    resv := nfld n 160 160 * 2 + nfld n 0 0, qpe := nfld n 159 136, csn := nfld n 135 104, opc := nfld n 103 99,
    first := nbit n 98, last := nbit n 97, msn := nfld n 96 73, offset := nfld n 72 43, akey := nfld n 42 11, plen := nfld n 10 1,
    crc := BitVec.ofNat 32 (beAt b 28 4), payload := b.drop 32 }

/-! ### Receive buffer and PFC (R272 to R275) -/

/-- The receive buffer of a port in the current mode, in bytes (Table 10-1). -/
def rxBuffer (s : State) : Nat :=
  (match fld (reg s Reg.EMAC_MODE 0) 1 0 with | 0 => 3 | 1 => 6 | _ => 12) * 2 ^ 20

/-- Key of a priority's PFC registers. -/
def pfcKey (p prio : Nat) : Nat := p * 8 + prio

/-- HIGH, LOW and HEADROOM of a priority, in bytes. -/
def pfcHigh (s : State) (p prio : Nat) : Nat := fld (reg s Reg.EMAC_PFC_CFG (pfcKey p prio)) 11 0 * 1024
def pfcLow (s : State) (p prio : Nat) : Nat := fld (reg s Reg.EMAC_PFC_CFG (pfcKey p prio)) 23 12 * 1024
def pfcHead (s : State) (p prio : Nat) : Nat := fld (reg s Reg.EMAC_PFC_HEAD (pfcKey p prio)) 11 0 * 1024

/-- A priority has PFC. -/
def pfcOn (s : State) (p prio : Nat) : Bool := wbit (reg s Reg.EMAC_CFG p) (16 + prio)

/-- What the credit region and the PFC regions claim of a port's buffer. -/
def bufferClaims (s : State) (p : Nat) : Nat :=
  poolSize s p * 576 + (List.range 8).foldl (fun n i => if pfcOn s p i then n + pfcHigh s p i + pfcHead s p i else n) 0

/-- The lossy region of a port, in bytes. -/
def lossyRegion (s : State) (p : Nat) : Nat := rxBuffer s - bufferClaims s p

/-- Sends a PFC frame for one priority (R274). -/
def sendPfc (s : State) (p prio quanta : Nat) : State := emit (stat s p 24) (.pfc p prio quanta)

/-- QUANTA of a priority. -/
def pfcQuanta (s : State) (p prio : Nat) : Nat := fld (reg s Reg.EMAC_PFC_QUANTA (pfcKey p prio)) 15 0

/-- A frame that spends no credit takes room in its region (R272, R274); `fill`: bytes that lie there before it. At HIGH the port
pauses the partner. -/
def takeRoom (s : State) (p prio len fill : Nat) : State × Bool :=
  if pfcOn s p prio then
    if pfcHigh s p prio + pfcHead s p prio < fill + len then (stat s p 17, false)
    else if pfcHigh s p prio ≤ fill + len && !(eport s p).holding.getLsbD prio then
      (sendPfc (stat (eportMod s p (fun P => { P with holding := P.holding ||| BitVec.ofNat 8 (2 ^ prio) })) p (32 + prio))
        p prio (pfcQuanta s p prio), true)
    else (s, true)
  else if lossyRegion s p < fill + len then (stat s p 18, false)
  else (s, true)

/-- A received PFC frame pauses its priorities (R275); quanta 0 ends a pause. -/
def takePfc (s : State) (p : Nat) (f : List Byte) : State :=
  (List.range 8).foldl (fun s i =>
    if !nbit (beAt f 16 2) i then s
    else
      let q := beAt f (18 + 2 * i) 2
      let m := BitVec.ofNat 8 (2 ^ i)
      if q = 0 then eportMod s p (fun P => { P with paused := P.paused &&& ~~~m })
      else statBy (stat (eportMod s p (fun P => { P with paused := P.paused ||| m })) p (40 + i)) p 26 q) (stat s p 25)

/-! ### Counting, steering, delivery -/

/-- Counts a frame by its errors, or as a good frame by kind and length (Table 10-7). -/
def countFrame (s : State) (p : Nat) (f : List Byte) (flags : Nat) : State :=
  if flags = 0 then
    let n := f.length
    let kind := if beAt f 0 6 = 2 ^ 48 - 1 then 4 else if nbit (beAt f 0 1) 0 then 3 else 2
    let size := if n ≤ 64 then 27 else if n < 512 then 28 else if n < 1024 then 29 else if n < 4096 then 30 else 31
    stat (stat (statBy (stat s p 0) p 1 n) p kind) p size
  else
    [(0, 5), (1, 6), (2, 7), (3, 8)].foldl (fun s e => if nbit flags e.1 then stat s p e.2 else s)
      (if nbit flags 4 || nbit flags 5 then stat s p 9 else s)

/-- A transport frame (R263): its protocol, its addresses, its port. -/
def isTransport (s : State) (p : Nat) (f : List Byte) : Bool :=
  ((isV6 f && decide (ipDst f = portIp6 s p)) || (isV4 f && decide (l3Len f = 20) && !fragmented f && decide (ipDst f = portIp4 s p))) &&
  decide (ipProto f = 17) && decide (beAt (l4Bytes f) 2 2 = fld (reg s Reg.EMAC_UDP_PORT 0) 15 0)

/-- The faults for which a transport frame is dropped (R261, R263). -/
def transportBad (s : State) (f : List Byte) (flags : Nat) (c : Cell) : Bool :=
  decide (flags % 4 ≠ 0) || nbit flags 4 || nbit flags 5 || decide (c.dnode ≠ ownNode s) || c.mc ||
  decide (c.mgroup ≠ 0 ∨ c.hops ≠ 0 ∨ c.defl ≠ 0 ∨ c.crc ≠ 0) || !(c.ver = 1 || c.ver = 2) || !(c.typ = 1 || c.typ = 3) ||
  decide ((l4Bytes f).length < 40)

/-- A packet that spends credit: it travels under a CSN (R204, R207). -/
def credited (c : Cell) : Bool := decide (c.typ = 1) && !(c.opc = 0x11 || c.opc = 0x12 || c.opc = 0x18)

/-- The source of a QP's packet is the one its handle names (R263). -/
def sourceOk (s : State) (p : Nat) (f : List Byte) (chan : Bool) (c : Cell) : Bool :=
  let q := c.qpe % 2 ^ 20
  chan || decide (c.typ = 3) ||
  (wbit (conn s q).cfg 12 && decide (fld (ahWord s (qpAh (conn s q)) 0) 6 4 = p ∧ ahIp s (qpAh (conn s q)) = ipSrc f ∧
    wbit (ahWord s (qpAh (conn s q)) 0) 1 = isV6 f))

/-- A transport frame arrives (R263, R272): dropped, or handed to the transport or to MGT. -/
def takeTransport (s : State) (p prio : Nat) (f : List Byte) (flags fill : Nat) (chan : Bool) : State :=
  let c := readHeader ((l4Bytes f).drop 8)
  if transportBad s f flags c then stat s p 11
  else
    let r := if credited c then
        (if poolSize s p * 576 < fill + f.length then (stat s p 16, false) else (s, true))
      else takeRoom s p prio f.length fill
    if !r.2 then r.1
    else if !sourceOk s p f chan c then stat r.1 p 12
    else
      let s1 := stat r.1 p 10
      if c.typ = 3 then emit s1 (.mgmt c)
      else { s1 with atu := { s1.atu with ready := s1.atu.ready ++ [.packet { port := p, ip := ipSrc f, chan := chan, cell := c }] } }

/-- A filter of a port. -/
def flt (s : State) (p i : Nat) : W64 := reg s Reg.EMAC_FLT (p * 128 + i)

/-- A filter matches a frame (Table 10-5). -/
def fltMatches (w : W64) (f : List Byte) : Bool :=
  wbit w 32 && (!wbit w 33 || decide (fld w 15 0 = etype f)) &&
  (!wbit w 34 || (tagged f && decide (fld w 27 16 = frameTci f % 4096))) &&
  (!wbit w 35 || (tagged f && decide (fld w 30 28 = frameTci f / 8192))) &&
  (!wbit w 36 || tagged f) && (!wbit w 37 || !tagged f)

/-- steer(frame) of R267 below the transport: the receive queue and the FILTER and DEFAULT bits of the frame word. -/
def steer (s : State) (p : Nat) (f : List Byte) : Option (Nat × Nat) :=
  match (List.range 128).find? (fun i => fltMatches (flt s p i) f) with
  | some i => some (fld (flt s p i) 43 38, i * 2 ^ 16)
  | none =>
    let d := fld (reg s Reg.EMAC_CFG p) 30 24
    if d < 64 then some (d, 2 ^ 23) else none

/-- The connection number under which a raw frame's records stand in seal staging. -/
def rawConn (q : Nat) : Nat := 2 ^ 400 + q

/-- A receive entry of a raw endpoint that a frame takes (R269). -/
def rawEntry (s : State) (ep : Nat) : Option (Nat × Entry) :=
  (s.queues.find? (fun e => isRecvQ e.2 && decide ((e.2.st = 1 ∨ e.2.st = 2) ∧ bindType e.2 = 2 ∧ bindId e.2 = ep))).bind
    (fun e => (nextRecv s (2 ^ 20) e.1).map (fun x => (e.1, x)))

/-- A frame is written into its receive entry (R269); the entry completes, or waits for its sealed records. -/
def placeFrame (s : State) (q idx : Nat) (b : List Byte) (word imm : Nat) : State :=
  match entry s q idx with
  | none => s
  | some e =>
    let t := queueOwner s q
    let s0 := entryMod s q idx (fun e => { e with
      writes := [(48, leBytes 4 word ++ leBytes 4 0 ++ leBytes 8 imm)], assigned := true })
    match issueSegs s0 t (dctx e) (entrySegs e) 0 b.length 0 { wr := true } with
    | (s1, .need a) => stall s1 (dctx e) a (.framePlace q idx b word imm)
    | (s1, .fail st) => entryDone s1 q idx st 0 0
    | (s1, .ok x) => match openStages s1 t (rawConn q) idx false (entrySegs e) x.pieces with
      | none => stat (endXfer (entryMod s q idx (fun e => { e with assigned := false })) x)
          (((queueRaw s q).map (·.1)).getD 1) 15
      | some s2 => match finishWrite s2 t x b [] with
        | (s3, false) => entryDone s3 q idx Status.localProtection 0 0
        | (s3, true) =>
          let s4 := entryMod s3 q idx (fun e => { e with leaves := peerLeaves x.pieces e.leaves, len := b.length })
          if sealsOpen s4 (rawConn q) idx false then s4 else entryDone s4 q idx Status.ok b.length 0

/-- A steered frame reaches its raw endpoint (R268, R269). -/
def deliverFrame (s : State) (p prio : Nat) (f : List Byte) (flags : Nat) (queue mark : Nat) : State :=
  let rxq := reg s Reg.EMAC_RXQ (p * 64 + queue)
  if !wbit rxq 12 then stat s p 14
  else match rawEntry s (fld rxq 11 0) with
    | none => stat s p 15
    | some (q, e) =>
      let cut := if nbit flags 3 then maxFrame s p - 4 else f.length - 4
      let strip := wbit (reg s Reg.EMAC_CFG p) 1 && tagged f
      let b := if strip then f.take 12 ++ (f.take cut).drop 16 else f.take cut
      let imm := if strip then 2 ^ 32 + 0x8100 * 65536 + frameTci f else 0
      let s1 := stat s p 13
      if msgLen e < b.length then
        entryDone (entryMod s1 q e.idx (fun e => { e with
          assigned := true, writes := [(48, leBytes 4 (flags + p * 256 + mark + prio * 2 ^ 24) ++ leBytes 4 0 ++ leBytes 8 imm)] }))
          q e.idx Status.localLength 0 0
      else placeFrame s1 q e.idx b (flags + p * 256 + mark + prio * 2 ^ 24) imm

/-- The port sends and receives: present, up, enabled. -/
def portLive (s : State) (p : Nat) : Bool := running s && portPresent s p && (eport s p).up && wbit (reg s Reg.EMAC_CFG p) 0

/-- FRAME_RECEIVE (R259, R263, R266 to R270, R272 to R275): a frame arrives at a port, from destination address to FCS. `pcs`: the PCS
reported a coding error; `fill`: the bytes in the frame's region; `chan`: a transport packet is a channel's. -/
def execFrameReceive (p : Nat) (f : List Byte) (pcs : Bool) (fill : Nat) (chan : Bool) (s : State) : Host.Outcome State Fault Refusal :=
  if !portLive s p || !addressed s p f then .next s
  else
    let flags := frameFlags s p f pcs
    let s1 := countFrame s p f flags
    let prio := framePrio s p f
    if etype f = 0x8808 then
      .next (if beAt f (l3 f) 2 = 0x0101 ∧ flags = 0 ∧ tagged f = false then takePfc s1 p f else stat s1 p 19)
    else if isTransport s p f then .next (takeTransport s1 p prio f flags fill chan)
    else if flags ≠ 0 && !wbit (reg s Reg.EMAC_CFG p) 2 then .next s1
    else
      let r := takeRoom s1 p prio f.length fill
      if !r.2 then .next r.1
      else match steer s p f with
        | none => .next (stat r.1 p 14)
        | some (q, mark) => .next (deliverFrame r.1 p prio f flags q mark)

/-- PFC_PAUSE_EXPIRY (R275): the quanta of a received pause are over. -/
def execPfcPauseExpiry (p prio : Nat) (s : State) : Host.Outcome State Fault Refusal :=
  .next (eportMod s p (fun P => { P with paused := P.paused &&& ~~~(BitVec.ofNat 8 (2 ^ (prio % 8))) }))

/-- PFC_REFRESH_TIMER (R274): half the quanta time has passed, or the region has drained: above LOW the pause is repeated, at LOW it
ends. -/
def execPfcRefreshTimer (p prio fill : Nat) (s : State) : Host.Outcome State Fault Refusal :=
  if 8 ≤ prio || !(eport s p).holding.getLsbD prio then .next s
  else if pfcLow s p prio < fill then .next (sendPfc s p prio (pfcQuanta s p prio))
  else .next (sendPfc (eportMod s p (fun P => { P with holding := P.holding &&& ~~~(BitVec.ofNat 8 (2 ^ prio)) })) p prio 0)

/-- FRAME_TRANSMIT_DONE (R271): the last byte of a raw frame has left the MAC. -/
def execFrameTransmitDone (p q idx : Nat) (s : State) : Host.Outcome State Fault Refusal :=
  match takeFirst (fun r : RawTx => decide (r.queue = q ∧ r.idx = idx) && r.sent) (eport s p).raw with
  | none => .next s
  | some (r, rest) => .next (entryDone (eportMod s p (fun P => { P with raw := rest })) q idx Status.ok r.len 0)

/-- A port goes down (R276): UP clears, frames in transmission are lost, and the PORT record is written. -/
def portDown (s : State) (p : Nat) (near far : Bool) : State :=
  if !(eport s p).up then eportMod s p (fun P => { P with lf := near, rf := far })
  else
    let lost := (eport s p).raw.filter (fun r => r.sent)
    let s1 := eportMod s p (fun P => { P with up := false, lf := near, rf := far, paused := 0, holding := 0, raw := P.raw.filter (fun r => !r.sent) })
    report (lost.foldl (fun s r => entryDone s r.queue r.idx Status.peerUnreachable 0 0) s1) { cls := 0x0A, sev := 2, unit := 6, inst := p }

/-- PORT_FAULT (R276): the PCS reports a local (`near`) or remote (`far`) fault. -/
def execPortFault (p : Nat) (near far : Bool) (s : State) : Host.Outcome State Fault Refusal :=
  if near || far then .next (portDown s p near far) else .next s

/-- The first Ethernet lane of a port and how many it has (Table 10-1). -/
def portLanes (s : State) (p : Nat) : List Nat :=
  match fld (reg s Reg.EMAC_MODE 0) 1 0 with
  | 0 => [28 + 2 * p, 29 + 2 * p]
  | 1 => (List.range 4).map (· + (if p = 1 then 30 else 34))
  | _ => (List.range 8).map (· + 30)

/-- A cage's module. -/
def cageModule (s : State) (k : Nat) : Module := tget (fun _ => {}) s.lns.modules k

/-- A cage of the port holds a refused module (R291). -/
def cageRefused (s : State) (p : Nat) : Bool := (portLanes s p).any (fun l => (cageModule s ((l - 30) / 4)).refused)

/-- PORT_UP (R257, R276): the PCS has no fault. `skew`: ns between the two cages, which must be at most 100 in MODE 2. -/
def execPortUp (p skew : Nat) (s : State) : Host.Outcome State Fault Refusal :=
  if !running s || !portPresent s p || cageRefused s p then .next s
  else if fld (reg s Reg.EMAC_MODE 0) 1 0 = 2 ∧ 100 < skew then .next (eportMod s p (fun P => { P with lf := true }))
  else .next (eportMod s p (fun P => { P with up := true, lf := false, rf := false }))

/-- EMAC_PSTAT (Table 10-9). -/
def pstat (s : State) (p : Nat) : Nat :=
  let P := eport s p
  b2n P.up + b2n P.lf * 2 + b2n P.rf * 4 + b2n (!portPresent s p) * 8 + P.paused.toNat * 256 + P.holding.toNat * 65536

end Sys2Proof.Machine
end

