-- ==== Sys2Proof/Machine/Lns.lean ====
section
/-! DEFINITION. Lanes (chapter 11): rotation of a connector's lanes through its spare, failure and permanent sparing, modules. -/
namespace Sys2Proof.Machine

/-! ### Lane messages (Table 11-2) -/

/-- Sends a rotation message of a connector: kind, position, marker number. -/
def laneMsg (s : State) (k kind pos marker : Nat) : State := emit s (.laneMsg k kind pos marker)

/-- The lane of a position. -/
def laneOf (k pos : Nat) : Nat := k * 5 + pos

/-- The spare of a connector. -/
def spare (s : State) (k : Nat) : Lane := lane s (spareLane k)

/-- This end has the lower node ID of the connector's two (R284). -/
def lowerEnd (s : State) (k : Nat) : Bool := decide (ownNode s < (link s (2 * k)).peerNode)

/-- A step may start (R284): both links UP at version 2, EN set, the spare idle, no step under way. -/
def mayRotate (s : State) (k : Nat) : Bool :=
  decide (k < 6) && isUp s (2 * k) && isUp s (2 * k + 1) && decide ((link s (2 * k)).ver = 2 ∧ (link s (2 * k + 1)).ver = 2) &&
  wbit (reg s Reg.LNS_ROT_CFG 0) 0 && decide ((spare s k).st = 3) && decide ((rot s k).phase = 0)

/-- A lane is put at the head of its connector's rotation (R282, R292). -/
def rotateNext (s : State) (l : Nat) : State :=
  if 30 ≤ l ∨ l % 5 = 4 then s
  else rotMod s (l / 5) (fun R => { R with urgent := l % 5 :: R.urgent.filter (· ≠ l % 5) })

/-! ### Failure and permanent sparing (R286 to R288) -/

/-- The spare carries a position for good: LNS_SPARE_IN and the SPARE record (R287, R479). -/
def spareStays (s : State) (k pos : Nat) : State :=
  let s1 := rotMod s k (fun R => { R with perm := true })
  let s2 := laneMod s1 (spareLane k) (fun L => { L with st := 4, carries := pos })
  spareReport (bump s2 Reg.LNS_SPARE_IN 0) 3 7 (laneOf k pos) 0 (some (spareLane k))

/-- A freed lane does not come back: it is FAILED, and the spare keeps its position (R286, R288). -/
def freedFails (s : State) (k : Nat) : State :=
  let pos := (rot s k).pos
  stepOver (spareStays (laneMod s (laneOf k pos) (fun L => { L with st := 6 })) k pos) k

/-- A position carries its link's symbols: on its own lane, or on the spare. -/
def posLive (s : State) (k pos : Nat) : Bool :=
  decide ((lane s (laneOf k pos)).st = 2) || decide ((spare s k).st = 4 ∧ (spare s k).carries = pos)

/-- A link keeps one lane, or none and goes DOWN with reason LANE and a LANE record (R287). `tell`: this end found the failure, and says
SPARE_IN when the spare is idle. -/
def linkNarrow (s : State) (k pos l : Nat) (tell : Bool) : State :=
  let n := linkOfPos k pos
  let other := if pos % 2 = 0 then pos + 1 else pos - 1
  if !isUp s n then s
  else if !posLive s k other then linkDead (report s { cls := 0x09, sev := 2, unit := 7, inst := l }) n 12 false
  else
    let s1 := bump s Reg.LNS_ONE_LANE 0
    if tell && decide ((spare s k).st = 3) then laneMsg s1 k 7 pos 0
    else if (spare s k).st = 3 then s1
    else spareReport s1 3 7 l 0 none

/-- A fabric lane fails (R287, Table 11-4). -/
def laneFails (s : State) (l : Nat) (tell : Bool) : State :=
  let k := l / 5
  let pos := l % 5
  let R := rot s k
  let L := lane s l
  let say := fun (s : State) (p : Nat) => if tell then laneMsg s k 6 p 0 else s
  if L.st = 0 ∨ L.st = 1 ∨ L.st = 6 then s
  else if pos = 4 then
    if L.st = 4 ∧ R.perm then
      linkNarrow (rotMod (laneMod (say s L.carries) l (fun L => { L with st := 6, carries := 7 })) k (fun R => { R with perm := false })) k L.carries l tell
    else
      let s1 := if L.st = 4 then bump (say s L.carries) Reg.LNS_ONE_LANE 0 else say s 4
      laneMod (stepAbandon s1 k) l (fun L => { L with st := 6, carries := 7 })
  else if L.st = 5 then (if tell then laneMsg (freedFails s k) k 7 pos 0 else freedFails s k)
  else
    let s1 := stepAbandon (say s pos) k
    linkNarrow (laneMod s1 l (fun L => { L with st := 6 })) k pos l tell

/-- The port that an Ethernet lane belongs to. -/
def portOfLane (s : State) (l : Nat) : Nat := ([1, 2, 3, 4].find? (fun p => portPresent s p && (portLanes s p).contains l)).getD 1

/-- LANE_FAILURE (R282, R287, R288, R290): loss of signal (`los`), of lock, or more than FAIL corrected symbols in 10 µs. An Ethernet lane
faults its port. -/
def execLaneFailure (l : Nat) (los : Bool) (s : State) : Host.Outcome State Fault Refusal :=
  if 38 ≤ l then .next s
  else
    let s1 := laneMod s l (fun L => { L with los := L.los || los })
    if 30 ≤ l then .next (portDown s1 (portOfLane s l) true false) else .next (laneFails s1 l true)

/-- LANE_DEGRADED (R282): corrected symbols of a lane within 1 ms; above DEGR the lane is degraded and rotates next. -/
def execLaneDegraded (l symbols : Nat) (s : State) : Host.Outcome State Fault Refusal :=
  if 38 ≤ l then .next s
  else
    let s1 := bumpBy s Reg.LNS_LCORR l symbols
    if fld (reg s Reg.LNS_FAIL_THR 0) 31 16 < symbols then .next (rotateNext (laneMod s1 l (fun L => { L with degraded := true })) l)
    else .next s1

/-- ONE_LANE_TIMER (R287): a link has run on one lane for 200 µs. It is reported to FRT and logged. -/
def execOneLaneTimer (n : Nat) (s : State) : Host.Outcome State Fault Refusal :=
  let k := n / 2
  match [n % 2 * 2, n % 2 * 2 + 1].find? (fun p => !posLive s k p) with
  | none => .next s
  | some p =>
    if !isUp s n || (link s n).oneLane || decide ((lane s (laneOf k p)).st = 5) then .next s
    else .next (report (linkMod s n (fun L => { L with oneLane := true })) { cls := 0x09, sev := 2, unit := 7, inst := laneOf k p })

/-- LANE_FAIL (R287): the peer's receiver has failed a position. -/
def execLaneFailMsg (k pos : Nat) (s : State) : Host.Outcome State Fault Refusal :=
  if 6 ≤ k ∨ 5 ≤ pos then .next s
  else if (spare s k).st = 4 ∧ (spare s k).carries = pos then .next (laneFails s (spareLane k) false)
  else .next (laneFails s (laneOf k pos) false)

/-- SPARE_IN (R286, R287): the spare takes a failed position for good, and the link is back at full rate. -/
def execSpareIn (k pos : Nat) (s : State) : Host.Outcome State Fault Refusal :=
  if 6 ≤ k ∨ 4 ≤ pos then .next s
  else if (rot s k).phase = 3 ∧ (rot s k).pos = pos then .next (freedFails s k)
  else if (spare s k).st = 3 ∧ (lane s (laneOf k pos)).st = 6 ∧ isUp s (linkOfPos k pos) then
    .next (linkMod (spareStays s k pos) (linkOfPos k pos) (fun L => { L with oneLane := false }))
  else .next s

/-! ### Rotation on live traffic (R284, R285) -/

/-- ROTATION_STEP_TIMER (R284): every STEP the lower end asks to rotate the next position; one out of turn comes first. -/
def execRotationStepTimer (k : Nat) (s : State) : Host.Outcome State Fault Refusal :=
  let R := rot s k
  let pos := (R.urgent.head?).getD R.next
  if !mayRotate s k || !lowerEnd s k || decide ((lane s (laneOf k pos)).st ≠ 2) then .next s
  else .next (laneMsg (rotMod s k (fun R => { R with phase := 1, pos := pos, urgent := R.urgent.drop 1 })) k 1 pos 0)

/-- ROT_REQ (R285): the higher end agrees and copies, or abandons the step when it cannot rotate the position. -/
def execRotReq (k pos : Nat) (s : State) : Host.Outcome State Fault Refusal :=
  if mayRotate s k && !lowerEnd s k && decide (pos < 4 ∧ (lane s (laneOf k pos)).st = 2) then
    .next (laneMsg (rotMod s k (fun R => { R with phase := 2, pos := pos })) k 2 pos 0)
  else .next (laneMsg s k 8 pos 0)

/-- ROT_ACK (R285): both transmitters copy the lane onto the spare. -/
def execRotAck (k pos : Nat) (s : State) : Host.Outcome State Fault Refusal :=
  if (rot s k).phase = 1 ∧ (rot s k).pos = pos then .next (rotMod s k (fun R => { R with phase := 2 })) else .next s

/-- A copy is under way: out to the spare, or back. -/
def copying (s : State) (k : Nat) : Bool := (rot s k).phase = 2 || (rot s k).phase = 4

/-- After both MATCH messages the lower end names a marker at least 2 periods ahead (R285). -/
def switchCheck (s : State) (k marker : Nat) : State :=
  let R := rot s k
  if R.mine ∧ R.peer ∧ R.marker.isNone ∧ lowerEnd s k then
    laneMsg (rotMod s k (fun R => { R with marker := some ((marker + 2) % 65536) })) k 4 R.pos ((marker + 2) % 65536)
  else s

/-- MATCH (R285): the peer's receiver has matched. `marker`: the marker in progress. -/
def execLaneMatch (k marker : Nat) (s : State) : Host.Outcome State Fault Refusal :=
  if copying s k then .next (switchCheck (rotMod s k (fun R => { R with peer := true })) k marker) else .next s

/-- MATCH_ACHIEVED (R285): this receiver has agreed over 16 marker periods, or (`agreed` false) the count starts again; the fourth restart
abandons the step. -/
def execMatchAchieved (k marker : Nat) (agreed : Bool) (s : State) : Host.Outcome State Fault Refusal :=
  let R := rot s k
  if !copying s k || R.mine then .next s
  else if agreed then .next (switchCheck (laneMsg (rotMod s k (fun R => { R with mine := true })) k 3 R.pos 0) k marker)
  else if R.restarts < 3 then .next (rotMod s k (fun R => { R with restarts := R.restarts + 1 }))
  else .next (stepAbandon (laneMsg (bump s Reg.LNS_CMP_FAIL 0) k 8 R.pos 0) k)

/-- SWITCH (R285): the lower end has named a marker. -/
def execLaneSwitch (k marker : Nat) (s : State) : Host.Outcome State Fault Refusal :=
  if copying s k then .next (rotMod s k (fun R => { R with marker := some (marker % 65536) })) else .next s

/-- The step or test that copied back is over: the position is on its lane again, and the spare is idle. -/
def switchedBack (s : State) (k : Nat) : State :=
  let R := rot s k
  let s1 := laneMod s (laneOf k R.pos) (fun L => { L with st := 2, degraded := false, los := false })
  let s2 := if (spare s k).st = 4 then laneMod s1 (spareLane k) (fun L => { L with st := 3, carries := 7 }) else s1
  let s3 := if R.perm then rotMod s2 k (fun R => { R with perm := false })
    else rotMod (bump s2 Reg.LNS_ROT_DONE 0) k (fun R => { R with next := if R.pos = R.next then (R.next + 1) % 4 else R.next })
  stepOver (linkMod s3 (linkOfPos k R.pos) (fun L => { L with oneLane := false })) k

/-- SWITCH_MARKER (R285, Table 11-3): at the named marker both receivers take the position from the other path. -/
def execSwitchMarker (k : Nat) (s : State) : Host.Outcome State Fault Refusal :=
  let R := rot s k
  if R.marker.isNone then .next s
  else if R.phase = 2 then
    .next (rotMod (laneMod (laneMod s (laneOf k R.pos) (fun L => { L with st := 5 })) (spareLane k) (fun L => { L with st := 4, carries := R.pos })) k
      (fun R => { R with phase := 3, mine := false, peer := false, restarts := 0, marker := none }))
  else if R.phase = 4 then .next (switchedBack s k)
  else .next s

/-- Copying back starts once both ends have their lane calibrated (R285). -/
def backCheck (s : State) (k : Nat) : State :=
  let R := rot s k
  if R.mine ∧ R.peer then rotMod s k (fun R => { R with phase := 4, mine := false, peer := false, restarts := 0, marker := none }) else s

/-- BACK (R285, R289): the peer's freed lane is calibrated, or it tests a failed lane through the switch-back. -/
def execLaneBack (k pos : Nat) (s : State) : Host.Outcome State Fault Refusal :=
  let R := rot s k
  if R.phase = 3 then .next (backCheck (rotMod s k (fun R => { R with peer := true })) k)
  else if R.phase = 0 ∧ pos < 4 ∧ (lane s (laneOf k pos)).st = 6 then .next (rotMod s k (fun R => { R with phase := 4, pos := pos }))
  else .next s

/-- CALIBRATION_DONE (R285, R286): the freed lane has converged, and LNS_LMARGIN takes its eye. One that is still degraded fails. -/
def execCalibrationDone (k height width : Nat) (degraded : Bool) (s : State) : Host.Outcome State Fault Refusal :=
  let R := rot s k
  if R.phase ≠ 3 ∨ R.mine then .next s
  else
    let l := laneOf k R.pos
    let s1 := setReg s Reg.LNS_LMARGIN l (w64 (height % 256 + width % 1024 * 256))
    if degraded then .next (laneMsg (freedFails s1 k) k 7 R.pos 0)
    else .next (backCheck (laneMsg (rotMod (laneMod s1 l (fun L => { L with degraded := false })) k (fun R => { R with mine := true })) k 5 R.pos 0) k)

/-- CALIBRATION_TIMEOUT (R286): the freed lane has not converged within CAL_MAX. -/
def execCalibrationTimeout (k : Nat) (s : State) : Host.Outcome State Fault Refusal :=
  let R := rot s k
  if R.phase ≠ 3 ∨ R.mine then .next s else .next (laneMsg (freedFails s k) k 7 R.pos 0)

/-- ROTATION_ABORT (R288): the peer abandons the step. -/
def execRotationAbort (k : Nat) (s : State) : Host.Outcome State Fault Refusal := .next (stepAbandon s k)

/-! ### LNS_LCTL (R288, R289, R292) -/

/-- A write of LNS_LCTL is acted on: 0 RECAL, 1 FORCE_FAIL, 2 RESTORE of a lane that fails its test, 3 of one that passes. -/
def laneAct (s : State) (l kind : Nat) : State :=
  match kind with
  | 0 => rotateNext s l
  | 1 => if 30 ≤ l then portDown s (portOfLane s l) true false else laneFails s l true
  | 3 =>
    if 30 ≤ l ∨ (lane s l).st ≠ 6 then s
    else if l % 5 = 4 then laneMod s l (fun L => { L with st := 3, carries := 7, los := false })
    else laneMsg (rotMod s (l / 5) (fun R => { R with phase := 4, pos := l % 5 })) (l / 5) 5 (l % 5) 0
  | _ => s

/-- A write of LNS_LCTL: during a step of the connector it waits for the step's end (R288). -/
def laneCtl (s : State) (l kind : Nat) : State :=
  if 38 ≤ l then s
  else if l < 30 ∧ (rot s (l / 5)).phase ≠ 0 then rotMod s (l / 5) (fun R => { R with later := R.later ++ [(l, kind)] })
  else laneAct s l kind

/-- What waited for the end of a connector's step is acted on; a test that starts another step leaves the rest waiting. -/
def laneLater (s : State) (k : Nat) : State :=
  (rot s k).later.foldl (fun s x => laneCtl s x.1 x.2) (rotMod s k (fun R => { R with later := [] }))

/-- RECAL. -/
def execLaneRecal (l : Nat) (s : State) : Host.Outcome State Fault Refusal :=
  let s := dropHeld s 0
  .next (laneCtl s l 0)

/-- FORCE_FAIL (R287). -/
def execLaneForceFail (l : Nat) (s : State) : Host.Outcome State Fault Refusal :=
  let s := dropHeld s 0
  .next (laneCtl s l 1)

/-- RESTORE (R289): the lane is tested; `pass`: it passes. -/
def execLaneRestore (l : Nat) (pass : Bool) (s : State) : Host.Outcome State Fault Refusal :=
  let s := dropHeld s 0
  .next (laneCtl s l (if pass then 3 else 2))

/-! ### Modules (R291) -/

/-- Rewrites a cage. -/
def moduleMod (s : State) (k : Nat) (f : Module → Module) : State :=
  { s with lns := { s.lns with modules := tmod (fun _ => {}) s.lns.modules k f } }

/-- The ports that have lanes in a cage. -/
def cagePorts (s : State) (k : Nat) : List Nat :=
  [1, 2, 3, 4].filter (fun p => portPresent s p && (portLanes s p).any (fun l => decide ((l - 30) / 4 = k)))

/-- MODULE_INSERT (R291): identity and power class are read; `power` is in units of 0.25 W. A module above LNS_MOD_PWR_MAX is refused. -/
def execModuleInsert (k rev power : Nat) (s : State) : Host.Outcome State Fault Refusal :=
  if 2 ≤ k then .next s
  else
    let no := decide (4 * fld (reg s Reg.LNS_MOD_PWR_MAX 0) 7 0 < power)
    let s1 := moduleMod s k (fun _ => { present := true, high := !no, refused := no, rev := rev % 256, power := power % 256 })
    let s2 := emit s1 (.module k (!no))
    if no then
      .next (report ((cagePorts s k).foldl (fun s p => if (eport s p).up then portDown s p true false else s) s2) { cls := 0x0A, sev := 2, unit := 7, inst := k })
    else .next s2

/-- MODULE_REMOVE (R291): a module leaves; its ports lose their signal. -/
def execModuleRemove (k : Nat) (s : State) : Host.Outcome State Fault Refusal :=
  .next ((cagePorts s k).foldl (fun s p => if (eport s p).up then portDown s p true false else s) (moduleMod s k (fun _ => {})))

/-- MODULE_INTERRUPT (R291): LNS reads the module's state through CMIS. -/
def execModuleInterrupt (k : Nat) (r : CmisState) (s : State) : Host.Outcome State Fault Refusal :=
  if (cageModule s k).present then .next (moduleMod s k (fun M => { M with ready := r.ready, fault := r.fault })) else .next s

/-! ### Registers -/

/-- LNS_LSTAT (Table 11-7); an Ethernet lane follows its port. -/
def laneStat (s : State) (l : Nat) : Nat :=
  let L := lane s l
  let p := portOfLane s l
  let st := if l < 30 then L.st else if !portPresent s p then 0 else if (eport s p).up then 2 else 1
  let pos := if l < 30 then l % 5 else l - ((portLanes s p).head?).getD 30
  st + pos % 8 * 8 + (if l < 30 ∧ l % 5 = 4 then L.carries else 7) * 64 + b2n L.degraded * 512 + b2n L.los * 1024

/-- LNS_CSTAT (Table 11-6). -/
def connStat (s : State) (k : Nat) : Nat :=
  let R := rot s k
  (if (spare s k).st = 4 then (spare s k).carries else 7) + b2n R.perm * 8 + b2n (decide (R.phase ≠ 0)) * 16 + (R.urgent.head?).getD R.next * 32

/-- LNS_MOD_STAT (Table 11-6). -/
def moduleStat (s : State) (k : Nat) : Nat :=
  let M := cageModule s k
  b2n M.present + b2n M.ready * 2 + b2n M.high * 4 + b2n M.refused * 8 + M.rev * 256 + M.power * 65536

end Sys2Proof.Machine
end

