-- ==== Sys2Proof/Machine/ScbData.lean ====
section
/-! DEFINITION. Scarab's groups, chunks and wire formats (chapter 12): geometry of a collective, CRC-64, narrowing with residual carry,
landing buffers, messages to peers. -/
namespace Sys2Proof.Machine

/-! ### Groups (Tables 12-4 and 12-5) -/

/-- Rewrites what Scarab keeps of a group. -/
def grpMod (s : State) (g : Nat) (f : ScbGroup → ScbGroup) : State :=
  { s with scb := { s.scb with groups := tmod (fun _ => {}) s.scb.groups g f } }

/-- Peer j of a level (R301): the member with coordinate j there and this member's other coordinates; its index. -/
def peerIdx (s : State) (g l j : Nat) : Option Nat :=
  (List.range (gMembers s g)).find? (fun i => (List.range 3).all (fun k =>
    decide (recCoord (memberRec s g i) k = if k = l then j else myCoord s g k)))

/-- Peer j's record. -/
def peerRec (s : State) (g l j : Nat) : Nat := ((peerIdx s g l j).map (memberRec s g)).getD 0

/-- MCk and MCk_EN of a record. -/
def recMc (r l : Nat) : Nat × Bool := if l = 0 then (nfld r 140 128, nbit r 141) else if l = 1 then (nfld r 156 144, nbit r 157) else (0, false)

/-- The counts toward a peer. -/
def scbPeer (s : State) (g l j : Nat) : ScbPeer := tget (fun _ => {}) (grp s g).peers (l * 65536 + j)

/-- Rewrites the counts toward a peer. -/
def scbPeerMod (s : State) (g l j : Nat) (f : ScbPeer → ScbPeer) : State :=
  grpMod s g (fun G => { G with peers := tmod (fun _ => {}) G.peers (l * 65536 + j) f })

/-! ### The running collective's fields (Table 5-7) -/

/-- The entry of the running collective. -/
def scbEntry (s : State) (g : Nat) : Entry := (entry s (grp s g).queue (grp s g).idx).getD { idx := 0, bytes := [] }

/-- Bytes of n elements in a wire format (Table 12-2). -/
def wireBytes (w n : Nat) : Nat := match w with | 1 => 2 * n | 2 => 2 * n | 4 => 8 * n | 5 => n + n / 32 | 6 => n + n / 32 | _ => 4 * n

/-! ### Parts of the buffer (R307) -/

/-- Chunks sent to each peer of a level in the up pass, and the first of those for peer j. -/
def upList (s : State) (g : Nat) (e : Entry) (l j : Nat) : Nat × Nat :=
  if !hasUp (cKind e) || decide (gSize s g l ≤ 1) then (0, 0)
  else
    let n := (myPart s g e l).2
    let b := if l = 0 then 0 else (myPart s g e (l - 1)).1
    (b + j * n, n)

/-- Chunks sent to every peer of a level in the down pass: this member's part of the level, or, in a broadcast, the whole buffer on the
way from rank 0. -/
def downList (s : State) (g : Nat) (e : Entry) (l : Nat) : Nat × Nat :=
  if !hasDown (cKind e) || decide (gSize s g l ≤ 1) then (0, 0)
  else if cKind e = 3 then
    (if (List.range (l + 1)).all (fun k => decide (myCoord s g k = 0)) then (0, chunkCount e) else (0, 0))
  else myPart s g e l

/-- Chunks that peer j of a level sends this member in the down pass. -/
def downFrom (s : State) (g : Nat) (e : Entry) (l j : Nat) : Nat :=
  if !hasDown (cKind e) || decide (gSize s g l ≤ 1) || decide (j = myCoord s g l) then 0
  else if cKind e = 3 then
    (if (List.range l).all (fun k => decide (myCoord s g k = 0)) && decide (j = 0) then chunkCount e else 0)
  else (myPart s g e l).2

/-! ### CRC-64 and the trailer (R314, Table 12-3) -/

/-- One bit of the CRC: most significant first, ECMA-182. -/
def crc64Bit (c : W64) : W64 := if c.getLsbD 63 then (c <<< 1) ^^^ 0x42F0E1EBA9EA3693#64 else c <<< 1

/-- One byte of the CRC. -/
def crc64Byte (c : W64) (b : Byte) : W64 :=
  crc64Bit (crc64Bit (crc64Bit (crc64Bit (crc64Bit (crc64Bit (crc64Bit (crc64Bit (c ^^^ (b.setWidth 64 <<< 56)))))))))

/-- CRC-64 of a byte string: initial value 0, not reflected, no final exclusive-or. -/
def crc64 (l : List Byte) : W64 := l.foldl crc64Byte 0

/-- The trailer of a chunk, its CRC included. -/
def trailer (s : State) (g : Nat) (e : Entry) (l : Nat) (down poison : Bool) (w seq pos : Nat) (bytes : List Byte) : List Byte :=
  let b := leBytes 4 (cInst e) ++ leBytes 2 (g % 4096) ++
    leBytes 1 (l % 4 + b2n down * 4 + cKind e % 8 * 8 + b2n poison * 64) ++ leBytes 1 (cOp e % 16 + cFmt e % 16 * 16) ++
    leBytes 1 (w % 16 + gSlots s g % 16 * 16) ++ leBytes 3 0 ++ leBytes 4 (gSelf s g) ++ leBytes 8 seq ++ leBytes 8 (elen e) ++
    leBytes 8 pos ++ leBytes 16 0
  b ++ leBytes 8 (crc64 (bytes ++ b)).toNat

/-! ### Wire formats (R294, R296) -/

/-- Blocks of 32 values in an MX format: the elements, then the scales. -/
def mxEncode (code : Nat) : Nat → List Nat → List Byte × List Byte
  | 0, _ => ([], [])
  | n + 1, v =>
    let p := mxBlock code ((v.take 32).map f32)
    let r := mxEncode code n (v.drop 32)
    (p.2.map (BitVec.ofNat 8) ++ r.1, BitVec.ofNat 8 p.1 :: r.2)

/-- Encodes accumulated elements in a wire format. -/
def wireEncode (w : Nat) (v : List Nat) : List Byte :=
  match w with
  | 1 => v.flatMap (fun x => leBytes 2 (narrow false x).bits)
  | 2 => v.flatMap (fun x => leBytes 2 (narrow true x).bits)
  | 4 => v.flatMap (leBytes 8)
  | 5 => let p := mxEncode 3 (v.length / 32) v; p.1 ++ p.2
  | 6 => let p := mxEncode 4 (v.length / 32) v; p.1 ++ p.2
  | _ => v.flatMap (leBytes 4)

/-- Decodes n elements of a wire format. -/
def wireDecode (w n : Nat) (b : List Byte) : List Nat :=
  (List.range n).map (fun i => match w with
    | 1 => widen false (leAt b (2 * i) 2)
    | 2 => widen true (leAt b (2 * i) 2)
    | 4 => leAt b (8 * i) 8
    | 5 => (toF32 (mxValue 3 (leAt b i 1) (leAt b (n + i / 32) 1))).bits
    | 6 => (toF32 (mxValue 4 (leAt b i 1) (leAt b (n + i / 32) 1))).bits
    | _ => leAt b (4 * i) 4)

/-- A binary32 code is finite. -/
def finite32 (b : Nat) : Bool := decide (b / 2 ^ 23 % 256 ≠ 255)

/-- narrow of R310: the bytes sent, and the residuals left behind. -/
def narrowAll (w : Nat) (resid : Bool) (v sec : List Nat) : List Byte × List Nat :=
  let y := if resid then List.zipWith (fun a b => (f32Add a b).bits) v sec else v
  let q := wireEncode w y
  if resid then
    (q, List.zipWith (fun a d => if finite32 a && finite32 d then (f32Sub a d).bits else 0) y (wireDecode w y.length q))
  else (q, [])

/-- FMT of n elements as accumulated values. -/
def fmtDecode (fmt n : Nat) (b : List Byte) : List Nat := wireDecode fmt n b

/-- Accumulated values in FMT. -/
def fmtEncode (fmt : Nat) (v : List Nat) : List Byte := wireEncode fmt v

/-! ### Landing buffers and messages (Table 12-6, R301, R302) -/

/-- The set base of a level. -/
def setBase (s : State) (g l : Nat) : Nat := match l with | 0 => 0 | 1 => gSize s g 0 | _ => gSize s g 0 + gSize s g 1

/-- T. -/
def setTotal (s : State) (g : Nat) : Nat := gSize s g 0 + gSize s g 1 + gSize s g 2

/-- A: the offset of the IN slots. -/
def inArea (s : State) (g : Nat) : Nat := (64 * setTotal s g + 4095) / 4096 * 4096

/-- The offset of an IN slot, an OUT slot, a release word. -/
def inSlot (s : State) (g l j slot : Nat) : Nat := inArea s g + 8256 * ((setBase s g l + j) * gSlots s g + slot)
def outSlot (s : State) (g l j slot : Nat) : Nat := 8256 * setTotal s g * gSlots s g + inSlot s g l j slot
def relWord (s : State) (g l j : Nat) : Nat := 64 * (setBase s g l + j)

/-- Bytes a landing buffer must have. -/
def landNeeds (s : State) (g : Nat) : Nat := inArea s g + 2 * 8256 * setTotal s g * gSlots s g

/-- The channel to a member: over the fabric, or through its address handle. -/
def memberChan (s : State) (r : Nat) : Nat :=
  if nbit r 13 then chanId (fld (ahWord s (nfld r 27 16) 0) 6 4) (ahIp s (nfld r 27 16)) (nfld r 12 12) (nfld r 11 0)
  else chanId 0 0 (nfld r 12 12) (nfld r 11 0)

/-- A channel is brought up for a message: one that is closing or in ERROR starts afresh. -/
def chanUp (s : State) (g c : Nat) : State :=
  wakeChannel (if (conn s c).st = 3 then connClear s c else s) c (gOwner s g)

/-- Scarab sends an FWRITE message to a member; a channel agreed at version 1 carries none (R172). -/
def scbPost (s : State) (g r addr : Nat) (bytes : List Byte) : State :=
  let c := memberChan s r
  let s1 := chanUp s g c
  if (conn s1 c).st = 0 then s1
  else if fabOld s1 c then issuerDone s1 (.scarab g 1) Status.versionMismatch 0
  else postMsg s1 c { msn := (conn s1 c).msn, opc := 0x0A, by_ := .scarab g 1, tenant := gOwner s g, cls := gClass s g,
                      src := .data bytes, len := bytes.length, headLen := bytes.length, raddr := addr % 2 ^ 48 }

/-- A release word (Table 12-7). -/
def releaseWord (inst level : Nat) (abort repair : Bool) (status consumed seq : Nat) : List Byte :=
  let b := leBytes 4 inst ++ leBytes 1 (level % 4 + b2n abort * 4 + b2n repair * 8) ++ leBytes 1 status ++ leBytes 2 0 ++
    leBytes 8 consumed ++ leBytes 8 seq ++ leBytes 32 0
  b ++ leBytes 8 (crc64 b).toNat

/-- Sends a release word to a peer of a level. -/
def sendRelease (s : State) (g l j : Nat) (abort repair : Bool) (status seq : Nat) : State :=
  let r := peerRec s g l j
  let n := (scbPeer s g l j).consumed
  scbPost (scbPeerMod s g l j (fun P => { P with announced := n, owed := false })) g r (nfld r 111 64 + relWord s g l (myCoord s g l))
    (releaseWord ((grp s g).inst.getD 0) l abort repair status n seq)

/-- The peers of a level, this member left out. -/
def levelPeers (s : State) (g l : Nat) : List Nat := (List.range (gSize s g l)).filter (· ≠ myCoord s g l)

/-- A unit of a multicast chunk as a cell (R177, R311). -/
def mcCell (s : State) (g group seq : Nat) (b : List Byte) (k : Nat) : Cell :=
  let u := unitsOf b.length
  let last := b.length - 512 * (u - 1)
  let edge := decide (k = 0) && decide (1 < u)
  sealCell { typ := 1, snode := ownNode s, plane := ownPlane s, mc := true, mgroup := group, opc := 0x0A, first := k = 0, last := k + 1 = u,
             msn := seq % 2 ^ 24, offset := if edge then u - 1 else k, akey := gOwner s g, plen := if edge || decide (k + 1 = u) then last else 512,
             payload := (b.drop (512 * k)).take 512 }

/-- Injects a multicast chunk on the tree of this member at a level (R311); its cells are charged to the group's class as the router takes
them (R215, R216). -/
def injectChunk (s : State) (g l seq : Nat) (b : List Byte) : State :=
  let group := (recMc (selfRec s g) l).1
  let cells := (List.range (unitsOf b.length)).map (fun k => ({ cell := mcCell s g group seq b k, tenant := gOwner s g, conn := g } : Inject))
  let s1 := cells.foldl (fun s _ => charge s 0 (gClass s g) 544) s
  { s1 with frt := { s1.frt with inject := s1.frt.inject ++ cells } }

end Sys2Proof.Machine
end

