-- ==== Sys2Proof/Machine/Scb.lean ====
section
/-! DEFINITION. Scarab at work (chapter 12): starting a collective, sending and taking chunks, release words, multicast, repair, abort and
finish. -/
namespace Sys2Proof.Machine

/-! ### A step of Scarab either happens whole, or stops -/

/-- What counts when an access of Scarab fails (R153, R162): nothing, a request that the ownership check refused, or a translation of a
range of DCTX. -/
inductive Blame
  | none
  | own
  | xlate (base off n : Nat) (u : Use)
deriving DecidableEq, Repr

/-- Why a step of Scarab does not happen: a table word from the host is needed, something is not there yet, the accumulator store is full,
a channel must be brought up, or the collective is aborted with a status. -/
inductive Halt
  | need (addr : Nat)
  | notYet
  | accFull
  | chan (c : Nat)
  | fail (status : Nat) (why : Blame)
deriving DecidableEq, Repr

/-- A state and the bus bytes not yet used, or a halt. -/
abbrev Job := Except Halt (State × Option (List Byte))

/-- Bus bytes that are left after some pieces. -/
def busAfter (ps : List (Target × Nat)) (bus : Option (List Byte)) : Option (List Byte) := ps.foldl (fun b p => busRest p.1 p.2 b) bus

/-- What Scarab does with a range: it may lie in another node's memory (R143). -/
def scbUse (wr : Bool) : Use := if wr then { wr := true, fabric := true } else { rd := true, fabric := true }

/-- Counts a failed access of Scarab as its origin (R153, R162). -/
def scbBlame (s : State) (g : Nat) (w : Blame) : State :=
  match w with
  | .none => s
  | .own => ownFault s (gOwner s g)
  | .xlate base off n u => (dataXlate s (gOwner s g) (dctx (scbEntry s g)) base off n u).1

/-- A piece of a transfer leads to a node whose channel was agreed at version 1, which carries no fabric-address access (R172). -/
def fabUnfit (s : State) (ps : List (Target × Nat)) : Bool :=
  ps.any (fun p => match p.1 with | .fab a => fabOld s (fabChannel a) | _ => false)

/-- Reads a range of the collective's context (base, offset, length): the bytes and their poison. `bus`: what the host bus and, for pages of
other nodes, the fabric return. -/
def scbRead (s : State) (g base off n : Nat) (bus : Option (List Byte)) : Except Halt (State × Option (List Byte) × List Byte × Bool) :=
  let t := gOwner s g
  match dataXlate s t (dctx (scbEntry s g)) base off n (scbUse false) with
  | (_, .need a) => .error (.need a)
  | (_, .fail st _) => .error (.fail st (.xlate base off n (scbUse false)))
  | (s1, .ok ps) =>
    if !recordsThere s1 ps then .error .notYet
    else if fabUnfit s1 ps then .error (.fail Status.versionMismatch .none)
    else match readPieces s1 t ps bus with
      | (_, .refused) => .error (.fail Status.localProtection (if piecesOwned s1 t ps then .none else .own))
      | (s2, .poison b _) => .ok (s2, busAfter ps bus, b, true)
      | (s2, .ok b) => .ok (s2, busAfter ps bus, b, false)

/-- The connection number under which a group's sealed records stand in seal staging. -/
def scbConn (g : Nat) : Nat := 2 ^ 401 + g

/-- The FWRITE message for a part of a write that lies at fabric address a. -/
def fabMsg (s : State) (g a n : Nat) (b : List Byte) (ep : Bool) : SendMsg :=
  { msn := (conn s (fabChannel a)).msn, opc := 0x0A, by_ := .scarab g 2, tenant := gOwner s g, cls := gClass s g,
    src := .data b, len := n, headLen := n, raddr := a % 2 ^ 48, poison := ep, bad := if ep then [(0, n)] else [] }

/-- FWRITE messages for the parts of a write that lie in other nodes' memory (R143, R144). -/
def fabSends (s : State) (g : Nat) : List (Target × Nat) → List Byte → Bool → State
  | [], _, _ => s
  | (.fab a, n) :: ps, b, ep =>
    let c := fabChannel a
    fabSends (postMsg s c (fabMsg s g a n (b.take n) ep)) g ps (b.drop n) ep
  | (_, n) :: ps, b, ep => fabSends s g ps (b.drop n) ep

/-- The first channel among the pieces of a write that takes no message now. -/
def fabShut (s : State) (ps : List (Target × Nat)) : Option Nat :=
  ps.findSome? (fun p => match p.1 with | .fab a => if chanOpen s (fabChannel a) then none else some (fabChannel a) | _ => none)

/-- Data that Scarab has written to another node's memory has not been acknowledged: DST is not yet visible there (R309). -/
def fabLeft (s : State) (g : Nat) : Bool := s.tpe.conns.any (fun C => C.2.send.any (fun m => decide (m.by_ = .scarab g 2)))

/-- Writes a range of the collective's context; `total` is the length of the transfer range. -/
def scbWrite (s : State) (g base off total : Nat) (b : List Byte) (ep : Bool) : Except Halt State :=
  let t := gOwner s g
  match dataXlate s t (dctx (scbEntry s g)) base off b.length (scbUse true) with
  | (_, .need a) => .error (.need a)
  | (_, .fail st _) => .error (.fail st (.xlate base off b.length (scbUse true)))
  | (s1, .ok ps) => match openStages s1 t (scbConn g) 0 false [(base, total)] ps with
    | none => .error .notYet
    | some s2 =>
      if !piecesOwned s2 t ps then .error (.fail Status.localProtection .own)
      else if fabUnfit s2 ps then .error (.fail Status.versionMismatch .none)
      else match fabShut s2 ps with
      | some c => .error (.chan c)
      | none => match writePieces s2 t ps b (if ep then [(0, b.length)] else []) with
        | (_, false) => .error (.fail Status.localProtection .own)
        | (s3, true) => .ok (entryMod (fabSends s3 g ps b ep) (grp s g).queue (grp s g).idx (fun e => { e with leaves := peerLeaves ps e.leaves }))

/-! ### Abort and finish (R309, R316) -/

/-- The running collective is over, with a state of Table 12-9 and a status; its entry completes. -/
def scbEnd (s : State) (g st status len : Nat) : State :=
  let G := grp s g
  let s1 := grpMod s g (fun G => { G with
    st := st, status := status, cursors := [], accs := [], have_ := [], finals := [], repairs := [], unicast := [], waits := [], poison := false,
    outs := if st = 2 then [] else G.outs })
  entryDone s1 G.queue G.idx status len 0

/-- The member aborts (R316): ABORT release words go to every peer of its three sets, and the entry completes with the status. -/
def scbAbort (s : State) (g status : Nat) : State :=
  if (grp s g).st ≠ 1 then s
  else
    let s1 := (List.range 3).foldl (fun s l => if gSize s g l ≤ 1 then s else
      (levelPeers s g l).foldl (fun s j => sendRelease s g l j true false status 0) s) s
    scbEnd (bumpFn s1 Reg.SCB_ABORT (gOwner s g)) g 2 status 0

/-- Commits a step, or acts on its halt: a host-table word is fetched, the store was full, the collective aborts, or nothing happens. -/
def scbSettle (s : State) (g : Nat) (r : Except Halt State) : State :=
  match r with
  | .ok s1 => s1
  | .error (.need a) => stall s (dctx (scbEntry s g)) a .tableRead
  | .error .notYet => s
  | .error (.chan c) => chanUp s g c
  | .error .accFull => bumpFn s Reg.SCB_ACC_WAIT (gOwner s g)
  | .error (.fail st w) => scbAbort (scbBlame s g w) g st

/-- Every chunk this member sends in the collective has been sent. -/
def sentAll (s : State) (g : Nat) (e : Entry) : Bool :=
  (List.range 3).all (fun l =>
    let n := gSize s g l - 1
    decide (tget (fun _ => 0) (grp s g).cursors (l * 2) = (upList s g e l 0).2 * n ∧
            tget (fun _ => 0) (grp s g).cursors (l * 2 + 1) = (downList s g e l).2 * n))

/-- Every chunk this member sent has been released. -/
def releasedAll (s : State) (g : Nat) : Bool := (grp s g).peers.all (fun p => decide (p.2.sent ≤ p.2.released))

/-- R309: DST is whole and everything sent is released. -/
def scbFinish (s : State) (g : Nat) : State :=
  let G := grp s g
  let e := scbEntry s g
  let whole := if cKind e = 1 then decide (G.finals.length = (myPart s g e 2).2) else decide (G.have_.length = chunkCount e)
  if G.st = 1 && whole && sentAll s g e && releasedAll s g && !sealsOpen s (scbConn g) 0 false && !fabLeft s g then
    scbEnd s g 0 (if G.poison then Status.poisoned else Status.ok) (elen e)
  else s

/-! ### Accumulation and the two passes (R307, R308, R310) -/

/-- Narrows a chunk into a wire format, carrying residuals in section k when RESID is set. -/
def scbNarrow (s : State) (g k p w : Nat) (v : List Nat) (bus : Option (List Byte)) :
    Except Halt (State × Option (List Byte) × List Byte) :=
  let e := scbEntry s g
  if !isNarrow w || !cResid e then .ok (s, bus, wireEncode w v)
  else do
    let base := ef e 48 8
    let off := resOffset s g e k p
    let (s1, bus1, b, _) ← scbRead s g base off (4 * v.length) bus
    let q := narrowAll w true v ((List.range v.length).map (fun i => leAt b (4 * i) 4))
    let s2 ← scbWrite s1 g base off (resTotal s g e) (q.2.flatMap (leBytes 4)) false
    .ok (s2, bus1, q.1)

/-- A chunk of SRC, as accumulated values. For a kind that starts at its own piece, SRC begins there. -/
def srcChunk (s : State) (g p first : Nat) (bus : Option (List Byte)) :
    Except Halt (State × Option (List Byte) × List Byte × Bool) :=
  let e := scbEntry s g
  scbRead s g (ef e 16 8) ((p - first) * eBytes e) (eBytes e) bus

/-- The level below that runs. -/
def lowerLevel (s : State) (g l : Nat) : Option Nat := ((List.range l).reverse).find? (fun k => decide (1 < gSize s g k))

/-- The accumulator of a position. -/
def accOf (s : State) (g l p : Nat) : Option ScbAcc := (grp s g).accs.find? (fun a => decide (a.level = l ∧ a.pos = p))

/-- The accumulator holds every contribution. -/
def accDone (s : State) (g : Nat) (a : ScbAcc) : Bool := decide (gSize s g a.level ≤ a.count)

/-- The sum of a chunk below a level: what the level below completed, or SRC. -/
def upValue (s : State) (g l p : Nat) (bus : Option (List Byte)) :
    Except Halt (State × Option (List Byte) × List Nat × Bool) :=
  let e := scbEntry s g
  match lowerLevel s g l with
  | none => do
    let (s1, bus1, b, bad) ← srcChunk s g p 0 bus
    .ok (grpMod s1 g (fun G => { G with poison := G.poison || bad }), bus1, fmtDecode (cFmt e) (eElems e) b, bad)
  | some k => match accOf s g k p with
    | none => .error .notYet
    | some a => if accDone s g a then .ok (s, bus, a.vals, a.poison) else .error .notYet

/-- The accumulator of the level below has moved on. -/
def accFree (s : State) (g l p : Nat) : State :=
  match lowerLevel s g l with
  | none => s
  | some k => grpMod s g (fun G => { G with accs := G.accs.filter (fun a => !decide (a.level = k ∧ a.pos = p)) })

/-- A contribution enters a position: OP over the accumulation format, in order of arrival; a new position needs one of the 16. -/
def accAdd (s : State) (g l p : Nat) (v : List Nat) (poison own : Bool) : Except Halt State :=
  let e := scbEntry s g
  match accOf s g l p with
  | some a =>
    let a1 := { a with vals := List.zipWith (combine (cOp e) (accFmt (cFmt e))) a.vals v, count := a.count + 1, own := a.own || own,
                       poison := a.poison || poison }
    .ok (grpMod s g (fun G => { G with accs := mapIf (fun x => decide (x.level = l ∧ x.pos = p)) (fun _ => a1) G.accs }))
  | none =>
    if !own && decide (16 ≤ (grp s g).accs.length) then .error .accFull
    else .ok (grpMod s g (fun G => { G with accs := G.accs ++ [⟨l, p, own, 1, v, poison⟩] }))

/-- A chunk of the down pass is here: it is kept for the levels below, and its elements go to DST in FMT (bit-exact where nothing is
accumulated), with poison when the chunk has it. -/
def takeDown (s : State) (g p : Nat) (b : List Byte) (poison : Bool) : Except Halt State := do
  let e := scbEntry s g
  let s1 := grpMod s g (fun G => { G with have_ := ⟨p, b, poison⟩ :: G.have_, poison := G.poison || poison })
  if cKind e = 4 ∧ rankZero s g = false then .ok s1
  else
    let out := if cKind e = 2 ∨ cKind e = 3 then b else fmtEncode (cFmt e) (wireDecode (downFormat s g e) (eElems e) b)
    scbWrite s1 g (ef e 24 8) (p * eBytes e) (elen e) out poison

/-- A final piece is complete: a reduce-scatter writes it in FMT; otherwise its owner rounds it once into the down format. -/
def finishUp (s : State) (g p : Nat) (v : List Nat) (poison : Bool) (bus : Option (List Byte)) : Job := do
  let e := scbEntry s g
  if cKind e = 1 then
    let s1 := grpMod s g (fun G => { G with finals := p :: G.finals, poison := G.poison || poison })
    let part := myPart s g e 2
    let s2 ← scbWrite s1 g (ef e 24 8) ((p - part.1) * eBytes e) (part.2 * eBytes e) (fmtEncode (cFmt e) v) poison
    .ok (s2, bus)
  else
    let (s1, bus1, b) ← scbNarrow s g 3 p (downFormat s g e) v bus
    let s2 ← takeDown s1 g p b poison
    .ok (s2, bus1)

/-- The position is this member's own at a level. -/
def mineAt (s : State) (g l p : Nat) : Bool :=
  let part := myPart s g (scbEntry s g) l
  decide (part.1 ≤ p ∧ p < part.1 + part.2)

/-- This member's own contribution enters its own position, narrowed exactly as it narrows what it sends (R308). -/
def ownAdd (s : State) (g l p : Nat) (bus : Option (List Byte)) : Job := do
  let e := scbEntry s g
  let w := upFormat s g e l
  let (s1, bus1, v, bad) ← upValue s g l p bus
  let (s2, bus2, b) ← scbNarrow s1 g l p w v bus1
  let s3 ← accAdd (accFree s2 g l p) g l p (wireDecode w (eElems e) b) bad true
  .ok (s3, bus2)

/-- A position of a level may be complete: it moves to the next level that runs, or is final (R307). -/
def advance (g p : Nat) : Nat → Nat → State → Option (List Byte) → Job
  | 0, _, s, bus => .ok (s, bus)
  | n + 1, l, s, bus =>
    match accOf s g l p with
    | none => .ok (s, bus)
    | some a =>
      if !accDone s g a then .ok (s, bus)
      else match [l + 1, l + 2].find? (fun k => decide (k ≤ 2) && decide (1 < gSize s g k)) with
        | none => do
          let (s1, bus1) ← finishUp s g p a.vals a.poison bus
          .ok (grpMod s1 g (fun G => { G with accs := G.accs.filter (fun x => !decide (x.level = l ∧ x.pos = p)) }), bus1)
        | some k =>
          if mineAt s g k p then do
            let (s1, bus1) ← ownAdd s g k p bus
            advance g p n k s1 bus1
          else .ok (s, bus)

/-- A peer's contribution to a position, and this member's own with the first of them when it comes from SRC. -/
def contribute (s : State) (g l p : Nat) (v : List Nat) (poison : Bool) (bus : Option (List Byte)) : Job := do
  let s1 ← accAdd s g l p v poison false
  let own := ((accOf s1 g l p).map (·.own)).getD true
  if own || (lowerLevel s g l).isSome then advance g p 3 l s1 bus
  else
    let (s2, bus1) ← ownAdd s1 g l p bus
    advance g p 3 l s2 bus1

/-! ### Starting (R299, R305, R306) -/

/-- The COLLECTIVE of an entry that has been handed to Scarab and has not started. -/
def handedOver (s : State) (q idx : Nat) : Option Entry :=
  (entry s q idx).bind (fun e => if opcode e = 0x10 ∧ e.phase = 1 ∧ e.running ∧
    ¬((grp s (cGroup e)).st = 1 ∧ (grp s (cGroup e)).queue = q ∧ (grp s (cGroup e)).idx = idx) then some e else none)

/-- MEMBER_LIST_READ (R299): the list is read at the first COLLECTIVE after a commit of the group entry. -/
def execMemberListRead (q idx : Nat) (s : State) : Host.Outcome State Fault Refusal :=
  match handedOver s q idx with
  | none => .next s
  | some e =>
    let g := cGroup e
    if (grp s g).members.isSome || !wbit (gent s g 0) 0 then .next s
    else match memRead s (gOwner s g) (fld (gent s g 1) 47 0) (32 * gMembers s g) with
      | (s1, .ok b) => .next (grpMod s1 g (fun G => { G with members := some ((List.range (gMembers s g)).map (fun i => leAt b (32 * i) 32)) }))
      | (s1, _) => .next (grpMod s1 g (fun G => { G with members := some [] }))

/-- Check 4 of R305: the list and the landing buffer meet R298 and R301, and SELF's record names this device. -/
def membersOk (s : State) (g : Nat) : Bool :=
  let l := ((grp s g).members).getD []
  let me := l.getD (gSelf s g) 0
  let t := gOwner s g
  let triple := fun r => (recCoord r 0 * 4096 + recCoord r 1) * 64 + recCoord r 2
  let land := nfld me 111 64
  decide (l.length = gMembers s g) && decide ((l.map triple).eraseDups.length = l.length) &&
  l.all (fun r => (List.range 3).all (fun k => decide (recCoord r k < gSize s g k))) &&
  decide (nfld me 11 0 = ownNode s ∧ nfld me 12 12 = ownPlane s) &&
  l.all (fun r =>
    let same := fun k => decide (recCoord r k = recCoord me k)
    let near := (same 1 && same 2) || (same 0 && same 2)
    let far := same 0 && same 1 && !same 2
    (!near || (decide (nfld r 12 12 = ownPlane s) && !nbit r 13)) &&
    (!far || (nbit r 13 && wbit (ahWord s (nfld r 27 16) 0) 0 && decide (fld (ahWord s (nfld r 27 16) 0) 39 32 = t)))) &&
  decide (land % 2 ^ 21 = 0) && decide (landNeeds s g ≤ fld (gent s g 2) 7 0 * 2 ^ 21) &&
  (List.range (fld (gent s g 2) 7 0)).all (fun i =>
    let F := frame s (frameOf (land + i * 2 ^ 21))
    owned s t (land + i * 2 ^ 21) && F.shared)

/-- The checks of R305 in order: the status of the first that fails. -/
def collectiveBad (s : State) (q : Nat) (e : Entry) : Option Nat :=
  let g := cGroup e
  let mine := wbit (gent s g 0) 0 && decide (gOwner s g = queueOwner s q)
  if 4 < cKind e ∨ opFmtOk (cOp e) (cFmt e) = false ∨ (cResid e = true ∧ mayNarrow e = false) then some Status.badDescriptor
  else if mine ∧ (elen e % max 1 (fmtBytes (cFmt e)) ≠ 0 ∨
      elen e / max 1 (fmtBytes (cFmt e)) % (gMembers s g * chunkElems (cKind e) (cFmt e)) ≠ 0) then some Status.localLength
  else if !mine then some Status.localProtection
  else if !membersOk s g then some Status.badDescriptor
  else match (grp s g).inst with
    | none => none
    | some i => if serialAbove (cInst e) i then none else some Status.badDescriptor

/-- Collectives that are running (SCB_ACTIVE). -/
def scbActive (s : State) : Nat := (s.scb.groups.filter (fun g => decide (g.2.st = 1))).length

/-- A group of one member has nothing to send: its chunks are final at once. -/
def soloChunks (g : Nat) : List Nat → State → Option (List Byte) → Job
  | [], s, bus => .ok (s, bus)
  | p :: r, s, bus => do
    let e := scbEntry s g
    let (s1, bus1, b, bad) ← srcChunk s g p 0 bus
    let (s2, bus2) ← (if cKind e = 2 ∨ cKind e = 3 then (do
        let s2 ← takeDown s1 g p b bad
        .ok (s2, bus1) : Job)
      else finishUp s1 g p (fmtDecode (cFmt e) (eElems e) b) bad bus1)
    soloChunks g r s2 bus2

/-- COLLECTIVE_START (R305, R306, Table 12-9): the entry is checked, and the group runs it; on an ABORTED group it is FLUSHED, and it waits
for a free instance and for its group. `bus`: host bytes of SRC and residuals, for a group of one member. -/
def execCollectiveStart (q idx : Nat) (bus : Option (List Byte)) (s : State) : Host.Outcome State Fault Refusal :=
  match handedOver s q idx with
  | none => .next s
  | some e =>
    let g := cGroup e
    if (grp s g).st = 2 ∧ gOwner s g = queueOwner s q ∧ wbit (gent s g 0) 0 = true then .next (entryDone s q idx Status.flushed 0 0)
    else if (grp s g).st = 1 ∨ 64 ≤ scbActive s then
      .next (if s.scb.waited.contains (q, idx) then s
        else bumpFn { s with scb := { s.scb with waited := (q, idx) :: s.scb.waited } } Reg.SCB_INST_WAIT (queueOwner s q))
    else if (grp s g).members.isNone ∧ wbit (gent s g 0) 0 = true ∧ gOwner s g = queueOwner s q then .next s
    else
      let s0 := { s with scb := { s.scb with waited := s.scb.waited.filter (· ≠ (q, idx)) } }
      match collectiveBad s q e with
      | some st => .next (entryDone s0 q idx st 0 0)
      | none =>
        let s1 := grpMod s0 g (fun G => { G with
          st := 1, inst := some (cInst e), queue := q, idx := idx, cursors := [], accs := [], have_ := [], finals := [], repairs := [],
          unicast := [], waits := [], poison := false,
          peers := G.peers.map (fun p => (p.1, { p.2 with up := 0, down := 0 })) })
        if 1 < gMembers s g then .next (scbFinish s1 g)
        else match soloChunks g (List.range (chunkCount e)) s1 bus with
          | .ok (s2, _) => .next (scbFinish s2 g)
          | .error (.need a) => .next (stall s (dctx e) a .tableRead)
          | .error (.fail st w) => .next (scbAbort (scbBlame s1 g w) g st)
          | .error _ => .next s

/-! ### Sending (R304, R307, R311 to R313) -/

/-- The bytes of a chunk to be sent and its POISON. -/
def chunkData (s : State) (g l p : Nat) (down : Bool) (bus : Option (List Byte)) :
    Except Halt (State × List Byte × Bool) :=
  let e := scbEntry s g
  if down then
    (match (grp s g).have_.find? (fun h => decide (h.pos = p)) with
     | some h => .ok (s, h.bytes, h.poison)
     | none =>
       let first := if cKind e = 2 then (myPart s g e 2).1 else 0
       if (cKind e = 2 && mineAt s g 2 p) || (cKind e = 3 && rankZero s g) then do
         let (s1, _, b, bad) ← srcChunk s g p first bus
         let s2 ← takeDown s1 g p b bad
         .ok (s2, b, bad)
       else .error .notYet)
  else do
    let (s1, bus1, v, bad) ← upValue s g l p bus
    let (s2, _, b) ← scbNarrow s1 g l p (upFormat s g e l) v bus1
    .ok (accFree s2 g l p, b, bad)

/-- A receiver has room: CONSUMED is above SEQ − LAND_SLOTS. -/
def mayReach (s : State) (g l j : Nat) : Bool :=
  let P := scbPeer s g l j
  decide (P.sent < P.released + gSlots s g)

/-- The down pass of a level goes by multicast. -/
def byTree (s : State) (g l : Nat) : Bool := (recMc (selfRec s g) l).2 && !(grp s g).unicast.contains l

/-- A chunk with its trailer goes into an OUT slot and out: to one peer, or on the tree. -/
def sendChunk (s : State) (g l p : Nat) (down tree : Bool) (to_ : List Nat) (bus : Option (List Byte)) : Except Halt State := do
  let e := scbEntry s g
  let j := to_.headD 0
  let seq := (scbPeer s g l j).sent
  let (s1, b, bad) ← chunkData s g l p down bus
  let w := if down then downFormat s g e else upFormat s g e l
  let msg := b ++ trailer s g e l down bad w seq p b
  let me := if tree then myCoord s g l else j
  let (s2, ok) := memWrite s1 (gOwner s g) (landBase s g + outSlot s g l me (seq % gSlots s g)) msg []
  if !ok then .error (.fail Status.localProtection .own)
  else
    let s3 := to_.foldl (fun s k => scbPeerMod s g l k (fun P => { P with sent := P.sent + 1 })) s2
    let s4 := grpMod s3 g (fun G => { G with
      outs := G.outs ++ [⟨l, me, seq, msg.length⟩], waits := G.waits.filter (· ≠ l * 2 + b2n down),
      cursors := tmod (fun _ => 0) G.cursors (l * 2 + b2n down) (· + to_.length) })
    let s5 := bumpFn s4 Reg.SCB_CHUNK_TX (gOwner s g)
    if tree then .ok (injectChunk s5 g l seq msg)
    else
      let r := peerRec s g l j
      .ok (scbPost s5 g r (nfld r 111 64 + inSlot s g l (myCoord s g l) (seq % gSlots s g)) msg)

/-- A send that has to wait for a release is counted once. -/
def landWait (s : State) (g k : Nat) : State :=
  if (grp s g).waits.contains k then s
  else bumpFn (grpMod s g (fun G => { G with waits := k :: G.waits })) Reg.SCB_LAND_WAIT (gOwner s g)

/-- CHUNK_SEND (R304, R307, R311): the next chunk of a level's pass, to the next peer in rotation, or to the whole set by multicast. `bus`:
host bytes of SRC and residuals. -/
def execChunkSend (g l : Nat) (down : Bool) (bus : Option (List Byte)) (s : State) : Host.Outcome State Fault Refusal :=
  let e := scbEntry s g
  let n := gSize s g l - 1
  let cur := tget (fun _ => 0) (grp s g).cursors (l * 2 + b2n down)
  let round := cur / max 1 n
  let j := (myCoord s g l + 1 + cur % max 1 n) % max 1 (gSize s g l)
  let list := if down then downList s g e l else upList s g e l j
  let p := list.1 + round
  let all := levelPeers s g l
  let tree := down && byTree s g l
  let level := all.all (fun k => decide ((scbPeer s g l k).sent = (scbPeer s g l j).sent))
  if (grp s g).st ≠ 1 ∨ 3 ≤ l ∨ n = 0 ∨ list.2 ≤ round then .next s
  else if tree && (decide (cur % max 1 n ≠ 0) || !level) then .next s
  else if tree then
    (if all.all (mayReach s g l) then .next (scbSettle s g (sendChunk s g l p down true all bus)) else .next (landWait s g (l * 2 + 1)))
  else if mayReach s g l j then .next (scbSettle s g (sendChunk s g l p down false [j] bus))
  else .next (landWait s g (l * 2 + b2n down))

/-! ### Taking chunks (R308, R312 to R315) -/

/-- A receiver asks a root for a chunk again (R313). -/
def askRepair (s : State) (g l j seq : Nat) : State := sendRelease s g l j false true 0 seq

/-- Chunks that peer j may still inject on its tree under what has been announced, beyond those that go by unicast (R312). -/
def rootMay (s : State) (g l j announced : Nat) : Nat :=
  let P := scbPeer s g l j
  let e := scbEntry s g
  let seen := P.consumed + P.extra.length
  let upLeft := (upList s g e l j).2 - P.up
  min (downFrom s g e l j - P.down) ((announced + gSlots s g - seen) - upLeft)

/-- The cells that the roots of a level may inject toward this member, were peer j told all it has consumed. -/
def rootCells (s : State) (g l j : Nat) : Nat :=
  let e := scbEntry s g
  let cells := unitsOf (wireBytes (downFormat s g e) (eElems e) + 64)
  (levelPeers s g l).foldl (fun n k => n + cells * rootMay s g l k (if k = j then (scbPeer s g l k).consumed else (scbPeer s g l k).announced)) 0

/-- A release to a root waits while it would let more cells come than the multicast reserve holds (R312). -/
def withheld (s : State) (g l j : Nat) : Bool :=
  let P := scbPeer s g l j
  (grp s g).st = 1 && hasDown (cKind (scbEntry s g)) && (recMc (peerRec s g l j) l).2 &&
  decide (rootMay s g l j P.announced < rootMay s g l j P.consumed) &&
  decide (fld (reg s Reg.SCB_MC_RESERVE 0) 15 0 < rootCells s g l j)

/-- A release is due: two chunks since the last, or the peer's sender is waiting, for a slot or for the collective's last release (R304). -/
def releaseDue (s : State) (g l j : Nat) : Bool :=
  let P := scbPeer s g l j
  let e := scbEntry s g
  decide (P.announced + 2 ≤ P.consumed) || decide (P.announced + gSlots s g ≤ P.consumed + P.extra.length) ||
  ((grp s g).st = 1 && decide (P.announced < P.consumed ∧ (upList s g e l j).2 ≤ P.up ∧ downFrom s g e l j ≤ P.down)) ||
  (!((grp s g).st = 1) && decide (P.announced < P.consumed))

/-- Sends a release that is due and not withheld. -/
def releaseCheck (s : State) (g l j : Nat) : State :=
  if !releaseDue s g l j then s
  else if withheld s g l j then scbPeerMod s g l j (fun P => { P with owed := true })
  else sendRelease s g l j false false 0 0

/-- Releases that were withheld at a level are looked at again. -/
def releaseOwed (s : State) (g l : Nat) : State :=
  (levelPeers s g l).foldl (fun s j => if (scbPeer s g l j).owed then releaseCheck s g l j else s) s

/-- Advances a CONSUMED count over the SEQs beyond it. -/
def prefixUp : Nat → ScbPeer → ScbPeer
  | 0, P => P
  | n + 1, P =>
    if P.extra.contains P.consumed then prefixUp n { P with consumed := P.consumed + 1, extra := P.extra.filter (· ≠ P.consumed) } else P

/-- A chunk is consumed: the counts, SCB_CHUNK_RX, the release, and a repair for a lower SEQ that a root has left out (R304, R313). -/
def consumed (s : State) (g l j seq : Nat) (pass : Option Bool) : State :=
  let s1 := scbPeerMod s g l j (fun P => prefixUp 16 { P with
    extra := seq :: P.extra, fails := P.fails.filter (fun f => f.1 ≠ seq), asked := P.asked.filter (· ≠ seq),
    up := P.up + b2n (decide (pass = some false)), down := P.down + b2n (decide (pass = some true)) })
  let s2 := releaseOwed (releaseCheck (bumpFn s1 Reg.SCB_CHUNK_RX (gOwner s g)) g l j) g l
  let P := scbPeer s2 g l j
  if (recMc (peerRec s g l j) l).2 && decide (P.extra ≠ []) && !P.asked.contains P.consumed then
    askRepair (scbPeerMod s2 g l j (fun P => { P with asked := P.consumed :: P.asked })) g l j P.consumed
  else s2

/-- A chunk fails its CRC (R314): it is discarded and asked for again; the third repair that fails aborts the collective. -/
def chunkBad (s : State) (g l j slot : Nat) : State :=
  let P := scbPeer s g l j
  let L := max 1 (gSlots s g)
  let seq := P.consumed + (slot + L - P.consumed % L) % L
  let n := ((P.fails.find? (fun f => f.1 = seq)).map (·.2)).getD 0
  let s1 := bumpFn s Reg.SCB_CRC_FAIL (gOwner s g)
  if 3 ≤ n then scbAbort s1 g Status.checkFail
  else askRepair (scbPeerMod s1 g l j (fun P => { P with fails := (seq, n + 1) :: P.fails.filter (fun f => f.1 ≠ seq) })) g l j seq

/-- The fields in which a chunk of the current instance must agree (R315). -/
def chunkAgrees (s : State) (g l j : Nat) (t : List Byte) (n : Nat) : Bool :=
  let e := scbEntry s g
  let down := nbit (leAt t 6 1) 2
  let w := if down then downFormat s g e else upFormat s g e l
  let pos := leAt t 32 8
  let inPart := if down then decide (pos < chunkCount e) else mineAt s g l pos
  decide (leAt t 4 2 % 4096 = g) && decide (nfld (leAt t 6 1) 5 3 = cKind e ∧ nfld (leAt t 6 1) 1 0 = l) &&
  decide (leAt t 7 1 = cOp e + cFmt e * 16) && decide (leAt t 24 8 = elen e) && decide (leAt t 8 1 = w + gSlots s g * 16) &&
  decide (n = wireBytes w (eElems e) + 64) && inPart && decide (peerIdx s g l j = some (leAt t 12 4))

/-- CHUNK_RECEIVE (R304, R308, R314, R315): a complete chunk in an IN slot is checked and consumed, stays for a later instance, is dropped
as stale, or aborts the collective. -/
def execChunkReceive (g l j slot : Nat) (bus : Option (List Byte)) (s : State) : Host.Outcome State Fault Refusal :=
  let a := landBase s g + inSlot s g l j slot
  match s.scb.inbox.find? (fun x => x.1 = a) with
  | none => .next s
  | some (_, n) =>
    if 3 ≤ l ∨ gSize s g l ≤ j ∨ gSlots s g ≤ slot ∨ !wbit (gent s g 0) 0 then .next s
    else
      let (sR, d) := memRead s (gOwner s g) a n
      let gone := fun (s : State) => { s with scb := { s.scb with inbox := s.scb.inbox.filter (fun x => x.1 ≠ a) } }
      match d with
      | .ok b =>
        let body := b.take (n - 64)
        let t := b.drop (n - 64)
        if n < 64 ∨ leAt t 56 8 ≠ (crc64 (body ++ t.take 56)).toNat then .next (chunkBad (gone sR) g l j slot)
        else
          let inst := leAt t 0 4
          let seq := leAt t 16 8
          let P := scbPeer s g l j
          let now := (grp s g).st = 1 ∧ (grp s g).inst = some inst
          if seq < P.consumed ∨ P.extra.contains seq = true then .next (gone sR)
          else if now then
            (if !chunkAgrees s g l j t n then .next (scbAbort (bumpFn (gone sR) Reg.SCB_MISMATCH (gOwner s g)) g Status.badDescriptor)
             else
               let e := scbEntry s g
               let down := nbit (leAt t 6 1) 2
               let bad := nbit (leAt t 6 1) 6
               let p := leAt t 32 8
               let job : Except Halt State := do
                 let s1 ← (if down then takeDown (gone sR) g p body bad
                   else (do
                     let (s1, _) ← contribute (gone sR) g l p (wireDecode (upFormat s g e l) (eElems e) body) bad bus
                     .ok s1))
                 .ok (scbFinish (consumed s1 g l j seq (some down)) g)
               .next (scbSettle s g job))
          else if (match (grp s g).inst with | none => true | some i => serialAbove inst i) then .next s
          else .next (consumed (bumpFn (gone sR) Reg.SCB_STALE_DROP (gOwner s g)) g l j seq none)
      | _ => .next (chunkBad (gone sR) g l j slot)

/-! ### Release words, multicast, timers -/

/-- A root sends a chunk again from its OUT slot as a unicast message (R313); more than 1 in 8 at a level turn the level to unicast. -/
def repairChunk (s : State) (g l j seq : Nat) : State :=
  match (grp s g).outs.find? (fun o => decide (o.level = l ∧ o.seq = seq ∧ (o.peer = j ∨ o.peer = myCoord s g l))) with
  | none => s
  | some o =>
    let n := tget (fun _ => 0) (grp s g).repairs l + 1
    let s1 := bumpFn (grpMod s g (fun G => { G with repairs := tset (fun _ => 0) G.repairs l n })) Reg.SCB_MC_REPAIR (gOwner s g)
    let s2 := if byTree s g l ∧ (downList s g (scbEntry s g) l).2 < 8 * n ∧ (grp s g).st = 1 then
        bumpFn (grpMod s1 g (fun G => { G with unicast := l :: G.unicast })) Reg.SCB_MC_FALLBACK (gOwner s g) else s1
    let (s3, d) := memRead s2 (gOwner s g) (landBase s g + outSlot s g l o.peer (seq % max 1 (gSlots s g))) o.len
    let r := peerRec s g l j
    match d with
    | .ok b => scbPost s3 g r (nfld r 111 64 + inSlot s g l (myCoord s g l) (seq % max 1 (gSlots s g))) b
    | _ => s3

/-- RELEASE_WORD_RECEIVE (R302, R304, R313, R316): a release word of peer j has arrived. -/
def execReleaseWordReceive (g l j : Nat) (s : State) : Host.Outcome State Fault Refusal :=
  let a := landBase s g + relWord s g l j
  if 3 ≤ l ∨ gSize s g l ≤ j ∨ !wbit (gent s g 0) 0 ∨ !s.scb.inbox.any (fun x => x.1 = a) then .next s
  else
    let s0 := { s with scb := { s.scb with inbox := s.scb.inbox.filter (fun x => x.1 ≠ a) } }
    match memRead s0 (gOwner s g) a 64 with
    | (s1, .ok b) =>
      if leAt b 56 8 ≠ (crc64 (b.take 56)).toNat then .next (bumpFn s1 Reg.SCB_CRC_FAIL (gOwner s g))
      else
        let n := leAt b 8 8
        let f := leAt b 4 1
        let s2 := scbPeerMod s1 g l j (fun P => { P with released := max P.released n })
        let s3 := grpMod s2 g (fun G => { G with outs := G.outs.filter (fun o =>
          !(decide (o.level = l ∧ o.peer = j) && decide (o.seq < n)) &&
          !(decide (o.level = l ∧ o.peer = myCoord s g l) && (levelPeers s g l).all (fun k => decide (o.seq < (scbPeer s2 g l k).released)))) })
        let s4 := if nbit f 3 then repairChunk s3 g l j (leAt b 16 8) else s3
        if nbit f 2 then
          .next (if (grp s g).st = 1 ∧ (grp s g).inst = some (leAt b 0 4) then scbAbort s4 g (leAt b 5 1) else s4)
        else .next (scbFinish s4 g)
    | (s1, _) => .next (bumpFn s1 Reg.SCB_CRC_FAIL (gOwner s g))

/-- The group, level and root of a multicast cell (R311): a VALID group of the cell's tenant with a peer whose tree it names. -/
def mcRoot (s : State) (c : Cell) : Option (Nat × Nat × Nat) :=
  ((s.regs.filter (fun r => decide (r.1 / 2 ^ 32 = Reg.SCB_GENTw) && wbit r.2 0)).map (fun r => r.1 % 2 ^ 32)).findSome? (fun g =>
    if gOwner s g ≠ c.akey % 256 then none
    else [0, 1].findSome? (fun l => ((levelPeers s g l).find? (fun j => recMc (peerRec s g l j) l = (c.mgroup, true))).map (fun j => (g, l, j))))

/-- MC_CELL_RECEIVE (R311): a multicast cell is placed by OFFSET in its IN slot; nothing is acknowledged. -/
def execMcCellReceive (k : Packet) (s : State) : Host.Outcome State Fault Refusal :=
  let c := k.cell
  if !c.mc || decide (c.opc ≠ 0x0A) || !running s then .next s
  else match mcRoot s c with
    | none => .next s
    | some (g, l, j) =>
      let P := scbPeer s g l j
      let d := (c.msn + 2 ^ 24 - P.consumed % 2 ^ 24) % 2 ^ 24
      let seq := P.consumed + d
      if gSlots s g ≤ d ∨ P.extra.contains seq = true then .next s
      else
        let off := if c.first then 0 else c.offset
        let len := if c.first || c.last then some (512 * c.offset + c.plen) else none
        let a := landBase s g + inSlot s g l j (seq % max 1 (gSlots s g))
        let (s1, ok) := memWrite s (gOwner s g) (a + 512 * off) (padTo (if c.last then c.plen else 512) c.payload) c.poison
        if !ok ∨ 8256 < 512 * off + 1 then .next s1
        else
          let here := fun (m : ScbMc) => decide (m.group = g ∧ m.level = l ∧ m.root = j ∧ m.seq = seq)
          let m0 := (s1.scb.mc.find? here).getD ⟨g, l, j, seq, [], none⟩
          let m := { m0 with covered := if m0.covered.contains off then m0.covered else off :: m0.covered, len := if m0.len.isSome then m0.len else len }
          let rest := s1.scb.mc.filter (fun x => !here x)
          match m.len with
          | some n =>
            if unitsOf n ≤ m.covered.length then
              .next { s1 with scb := { s1.scb with mc := rest, inbox := s1.scb.inbox.filter (fun x => x.1 ≠ a) ++ [(a, n)] } }
            else .next { s1 with scb := { s1.scb with mc := m :: rest } }
          | none => .next { s1 with scb := { s1.scb with mc := m :: rest } }

/-- REPAIR_TIMEOUT (R313): no progress from a root for SCB_REPAIR_TMO, and a chunk of it is expected. -/
def execRepairTimeout (g l j : Nat) (s : State) : Host.Outcome State Fault Refusal :=
  let P := scbPeer s g l j
  if (grp s g).st = 1 && (recMc (peerRec s g l j) l).2 && (levelPeers s g l).contains j && decide (P.down < downFrom s g (scbEntry s g) l j) then
    .next (askRepair s g l j P.consumed)
  else .next s

/-- COLLECTIVE_TIMEOUT (R316): COLL_TMO without any chunk sent or consumed. -/
def execCollectiveTimeout (g : Nat) (s : State) : Host.Outcome State Fault Refusal := .next (scbAbort s g Status.retryExceeded)

/-- A message of Scarab's is over: a channel that failed under R191 aborts the collective. -/
def scbMsgEnd (s : State) (g status : Nat) : State :=
  if status = Status.retryExceeded ∨ status = Status.peerUnreachable ∨ status = Status.versionMismatch then scbAbort s g status else s

/-- The router reports a node unreachable (R316): running collectives with a member there, reached over the fabric, abort. -/
def scbNodeGone (s : State) (node : Nat) : State :=
  s.scb.groups.foldl (fun s g =>
    if decide (g.2.st = 1) && ((g.2.members.getD []).any (fun r => decide (nfld r 11 0 = node ∧ nfld r 12 12 = ownPlane s) && !nbit r 13)) then
      scbAbort s g.1 Status.peerUnreachable else s) s

/-- A tenant enters QUIESCING (R316): its collectives abort. -/
def scbTenantGone (s : State) (t : Nat) : State :=
  s.scb.groups.foldl (fun s g => if g.2.st = 1 ∧ gOwner s g.1 = t then scbAbort s g.1 Status.contextGone else s) s

/-- A group entry has been committed (R299, R303, Table 12-9): counts zeroed, member list dropped. -/
def scbGroupCommitted (s : State) (g : Nat) : State := grpMod s g (fun G => { st := 0, status := G.status, inst := G.inst })

/-- SCB_GSTAT (Table 12-13). -/
def gstat (s : State) (g : Nat) : Nat :=
  (grp s g).st + (grp s g).status * 256 + ((grp s g).inst.getD 0) * 2 ^ 32

end Sys2Proof.Machine
end

