-- ==== Sys2Proof/Machine/SqmCmd.lean ====
section
/-! DEFINITION. The commands of the shared queue memory (R393 to R398): pushes and pops of mailboxes through SQM_QPUSH and SQM_QPOP, and
queues that leave CLEARING; and the RSP's replies, which wait in it for room (R424). -/
namespace Sys2Proof.Machine

/-- The queue a function has selected. -/
def selSqm (s : State) (fn : Nat) : Nat := fld (reg s Reg.SQM_QSEL fn) 15 0

/-- A function may push to and pop from a mailbox of its own tenant that is VALID (R397), or that is still being cleared (R398). -/
def ownBox (s : State) (fn q : Nat) : Bool :=
  isMailbox q && (sqmValid s q || (sqmQ s q).clearing) && decide (owner s 0x0E q = fn)

/-- A tenant's mailbox service. -/
def box (s : State) (t : Nat) : Mailbox := tget (fun _ => {}) s.rsp.boxes t

/-- Rewrites a tenant's mailbox service. -/
def boxMod (s : State) (t : Nat) (f : Mailbox → Mailbox) : State :=
  { s with rsp := { s.rsp with boxes := tmod (fun _ => {}) s.rsp.boxes t f } }

/-- A reply that waits enters the reply mailbox once all of it finds room; BUSY then clears (R423, R424). -/
def rspFlush (s : State) (t : Nat) : State :=
  let ws := (box s t).outWords
  if ws ≠ [] ∧ sqmFits s (rspOut t) ws.length then
    boxMod (ws.foldl (fun s w => sqmPush s (rspOut t) w) s) t (fun b => { b with outWords := [], busy := false, msg := none, cmd := none })
  else s

/-- A reply of the RSP (Table 18-4): header and payload; the tenant's next request may come once it is in the mailbox. -/
def rspReply (s : State) (t kind tag status : Nat) (body : List Byte) : State :=
  let h := w64 (body.length % 2 ^ 14 + kind % 16 * 2 ^ 16 + tag % 256 * 2 ^ 24 + status % 256 * 2 ^ 32)
  let ws := h :: (List.range ((body.length + 7) / 8)).map (fun i => w64 (leNat ((body.drop (8 * i)).take 8)))
  rspFlush (boxMod s t (fun b => { b with outWords := ws, status := status })) t

/-- A KIND 2 message to a tenant in report mode (R428): it must carry the next nonce and pass its tag; its command then waits in the box. -/
def takeReport (s : State) (t : Nat) (b : List Byte) : State :=
  let T := tenant s t
  let n := b.length - 16
  let r := gcmOpen T.reportKey (b.take 12) [] ((b.take n).drop 12) (b.drop n)
  if 28 ≤ b.length ∧ leAt b 0 12 = T.reportCtr + 1 ∧ r.2 then
    boxMod (tenantMod s t (fun T => { T with reportCtr := T.reportCtr + 1 })) t
      (fun x => { x with cmd := some (leAt r.1 0 4, r.1.drop 4) })
  else boxMod s t (fun x => { x with busy := false, msg := none })

/-- Drops the first n words of a queue. -/
def sqmSkip (s : State) (q : Nat) : Nat → State
  | 0 => s
  | n + 1 => sqmSkip (sqmPop s q false).1 q n

/-- The RSP takes the request that a doorbell announced, once it is whole (R423, R424). A marker word discards the message that it
interrupts, and a header that Table 18-4 does not allow discards what is there; both are answered BAD_DESCRIPTOR. -/
def rspCollect (s : State) (t : Nat) : State :=
  let b := box s t
  if !b.busy || b.msg.isSome || decide (b.outWords ≠ []) then s
  else match (sqmQ s (rspIn t)).words with
    | [] => s
    | h :: r =>
      let len := fld h.data 13 0
      let n := (len + 7) / 8
      let kind := fld h.data 19 16
      let tag := fld h.data 31 24
      match (h :: r.take n).findIdx? (fun w => w.tag = 1) with
      | some i => rspReply (sqmSkip s (rspIn t) (i + 1)) t kind (if i = 0 then 0 else tag) Status.badDescriptor []
      | none =>
        if 8192 < len ∨ 2 < kind then
          rspReply (sqmSkip s (rspIn t) (r.length + 1)) t kind tag Status.badDescriptor []
        else if r.length < n then s
        else
          let bytes := (wordsToBytes ((r.take n).map (·.data))).take len
          let s1 := boxMod (sqmSkip s (rspIn t) (n + 1)) t (fun x => { x with msg := some (kind, tag, bytes) })
          if kind = 2 ∧ (tenant s t).mode = 2 then takeReport s1 t bytes else s1

/-- SQM_PUSH (R393, R397): a word written to SQM_QPUSH enters the selected mailbox. Any other push is ignored and sets REFUSED. -/
def execSqmPush (fn : Nat) (value : W64) (s : State) : Host.Outcome State Fault Refusal :=
  let s := dropHeld s fn
  let q := selSqm s fn
  if !blockUp s fn then .next s
  else if ownBox s fn q then
    let s1 := sqmPush s q value
    .next (if q = rspIn fn then rspCollect s1 fn else s1)
  else .next (fnMod s fn (fun F => { F with popTag := F.popTag % 8 + 8 }))

/-- SQM_POP (R394, R397, R490): an 8-byte read of SQM_QPOP. The tag and UNDERRUN are latched; a refused pop returns 0 and sets REFUSED. A
4-byte read returns 0 and removes nothing. `bad`: the word's parity fails. -/
def execSqmPop (fn bytes : Nat) (bad : Bool) (s : State) : Host.Outcome State Fault Refusal :=
  let q := selSqm s fn
  if !hostUp s || !fnExists s fn then .next s
  else if bytes ≠ 8 ∨ running s = false then .next (emit s (.regData fn 0))
  else if ownBox s fn q then
    let p := sqmPop s q bad
    let s1 := emit (fnMod p.1 fn (fun F => { F with popTag := p.2.tag + 4 * b2n p.2.underrun })) (.regData fn p.2.word)
    .next (if q = rspOut fn then rspFlush s1 fn else s1)
  else .next (emit (fnMod s fn (fun F => { F with popTag := 8 })) (.regData fn 0))

end Sys2Proof.Machine
end

