-- ==== Sys2Proof/Machine/Tile.lean ====
section
/-! DEFINITION. Syurdun, the instruction set of the tiles (chapter 14): fields and their checks, issue, the scalar registers, tile memory,
csrs, and the scalar, control and memory instructions. Each command issues the next instruction of a tile. -/
namespace Sys2Proof.Machine

/-! ### Instruction words (R344, Tables 14-2 and 14-3) -/

/-- Opcode. -/
def iOpc (w : Nat) : Nat := nfld w 63 56

/-- Field D. -/
def iD (w : Nat) : Nat := nfld w 51 47

/-- Field A. -/
def iA (w : Nat) : Nat := nfld w 46 42

/-- Field B. -/
def iB (w : Nat) : Nat := nfld w 41 37

/-- Field C. -/
def iC (w : Nat) : Nat := nfld w 36 32

/-- FN of format R. -/
def iFn (w : Nat) : Nat := nfld w 31 16

/-- FN of format I. -/
def iFnI (w : Nat) : Nat := nfld w 41 32

/-- IMM, sign-extended to 64 bits. -/
def iImm (w : Nat) : W64 := (BitVec.ofNat 32 w).signExtend 64

/-- A format of Table 14-2. -/
inductive Fmt
  | r | i | b
deriving DecidableEq, Repr

/-- The format of an opcode, none for a reserved one (Table 14-3). -/
def fmtOf (o : Nat) : Option Fmt :=
  if o ≤ 0x01 ∨ o = 0x04 then some .r
  else if o = 0x02 ∨ o = 0x03 then some .b
  else if 0x05 ≤ o ∧ o ≤ 0x09 then some .i
  else if 0x10 ≤ o ∧ o ≤ 0x1F then some .r
  else if 0x20 ≤ o ∧ o ≤ 0x31 then some .i
  else if o = 0x32 ∨ o = 0x34 then some .r
  else if o = 0x33 then some .i
  else if 0x40 ≤ o ∧ o ≤ 0x48 then some .i
  else if 0x50 ≤ o ∧ o ≤ 0x53 then some .i
  else if o = 0x54 ∨ o = 0x55 then some .r
  else if 0x60 ≤ o ∧ o ≤ 0x71 then some .r
  else if 0x80 ≤ o ∧ o ≤ 0x85 then some .r
  else if o = 0x90 ∨ o = 0x91 then some .r
  else if 0xA0 ≤ o ∧ o ≤ 0xA3 then some .r
  else none

/-- The FN values of a format R opcode are those below this bound: an opcode that names no FN takes 0 (R345, DEDUCED, log 34). -/
def fnBound (o : Nat) : Nat :=
  match o with
  | 0x32 => 6
  | 0x34 => 4
  | 0x54 => 16
  | 0x55 => 16
  | 0x6A => 3
  | 0x6B => 9
  | 0x6C => 4
  | 0x6F => 128
  | 0x70 => 128
  | 0x71 => 2
  | 0x82 => 3
  | 0x83 => 3
  | 0x84 => 128
  | 0x85 => 128
  | 0x90 => 64
  | 0x91 => 5
  | 0xA0 => 1024
  | 0xA1 => 16
  | 0xA2 => 16
  | 0xA3 => 16
  | _ => 1

/-- The FN values of a format I opcode: csr numbers, the format bit of VLDH and VSTH, else 0. -/
def fnBoundI (o : Nat) : Nat := match o with | 0x06 => 1024 | 0x07 => 1024 | 0x33 => 6 | 0x52 => 2 | 0x53 => 2 | _ => 1

/-- The register fields that name a predicate or an accumulator keep their high bits zero (R344). -/
def regFieldsOk (o w : Nat) : Bool :=
  match o with
  | 0x32 => decide (iD w < 8)
  | 0x33 => decide (iD w < 8)
  | 0x34 => decide (iD w < 8 ∧ iA w < 8 ∧ iB w < 8)
  | 0x80 => decide (iD w < 4)
  | 0x81 => decide (iD w < 4)
  | 0x82 => decide (iA w < 4)
  | 0x83 => decide (iD w < 4)
  | 0x84 => decide (iA w < 4)
  | 0x85 => decide (iD w < 4)
  | _ => true

/-- The decoder's check of a word (R345): true when it traps ILLEGAL. -/
def wordIllegal (w : Nat) : Bool :=
  let o := iOpc w
  match fmtOf o with
  | none => true
  | some .r => decide (nfld w 15 0 ≠ 0 ∨ fnBound o ≤ iFn w) || !regFieldsOk o w || (decide (o = 0xA0) && decide (nfld w 21 20 = 3))
  | some .i => decide (fnBoundI o ≤ iFnI w) || !regFieldsOk o w
  | some .b => decide (nfld w 46 32 ≠ 0)

/-! ### Registers (R343) -/

/-- A general register: g0 reads 0. -/
def gReg (T : Tile) (n : Nat) : W64 := if n = 0 then 0 else tget (fun _ => 0) T.g n

/-- Writes a general register: a write to g0 is discarded. -/
def setG (s : State) (t n : Nat) (v : W64) : State :=
  if n = 0 then s else tileMod s t (fun T => { T with g := tset (fun _ => 0) T.g n v })

/-- A predicate: p0 reads 1. -/
def pReg (T : Tile) (n : Nat) : Bool := n = 0 || T.p.getLsbD n

/-- Writes a predicate: a write to p0 is discarded. -/
def setP (s : State) (t n : Nat) (b : Bool) : State :=
  if n = 0 then s
  else tileMod s t (fun T =>
    let m : BitVec 8 := BitVec.ofNat 8 (2 ^ n)
    { T with p := if b then T.p ||| m else T.p &&& ~~~m })

/-- Outstanding operations of a tag. -/
def tagCount (T : Tile) (tag : Nat) : Nat := tget (fun _ => 0) T.counts tag

/-- Changes the count of a tag; a number above 15 names no tag. -/
def tagMod (s : State) (t tag : Nat) (f : Nat → Nat) : State :=
  if 16 ≤ tag then s else tileMod s t (fun T => { T with counts := tmod (fun _ => 0) T.counts tag f })

/-- Byte n of a word. -/
def wordByte (w : W64) (n : Nat) : Nat := fld w (8 * n + 7) (8 * n)

/-- A completion's status enters the tag's byte unless that already holds a status other than OK (R356). -/
def tagStatus (s : State) (t tag status : Nat) : State :=
  if status = 0 ∨ 16 ≤ tag then s
  else tileMod s t (fun T =>
    if tag < 8 then (if wordByte T.tstat0 tag = 0 then { T with tstat0 := T.tstat0 ||| w64 (status % 256 * 2 ^ (8 * tag)) } else T)
    else (if wordByte T.tstat1 (tag - 8) = 0 then { T with tstat1 := T.tstat1 ||| w64 (status % 256 * 2 ^ (8 * (tag - 8))) } else T))

/-! ### Tile memory (R349) -/

/-- Local physical address of a tile offset. -/
def tileAddr (t off : Nat) : Nat := tileBase + t * 2 ^ 22 + off

/-- Stores bytes at a tile offset. -/
def tileStore (s : State) (t off : Nat) (b : List Byte) (bad : Marks := []) : State :=
  (unitsOfRange s (tileAddr t off) b.length).foldl (fun s u => setBlk s u (blockAfterWrite s (tileAddr t off) b.length bad u))
    (setBytes s (tileAddr t off) b)

/-! ### Issue (R345, R346, R367) -/

/-- The outcome of an instruction: done, pc moves on; done with a new pc; it waits; a trap without effect; a trap after an effect. -/
inductive Eff
  | done (s : State)
  | jump (s : State) (pc : Nat)
  | wait (s : State)
  | trap (cause value : Nat)
  | trapAfter (s : State) (cause value : Nat)
deriving DecidableEq, Repr

/-- Near memory lies below this offset (R347). -/
def nearBytes : Nat := 0x100000

/-- Sets pc. -/
def setPc (s : State) (t pc : Nat) : State := tileMod s t (fun T => { T with pc := pc })

/-- Applies the outcome of the instruction at pc. -/
def retire (s : State) (t pc : Nat) : Eff → State
  | .done s1 => setPc s1 t (pc + 8)
  | .jump s1 q => setPc s1 t q
  | .wait s1 => s1
  | .trap c v => trap s t c v
  | .trapAfter s1 c v => trap s1 t c v

/-- The tile can issue: it runs, is not being stopped, and does not wait for an atomic. -/
def issues (T : Tile) : Bool := decide (T.st = 3) && !T.stopping && T.atomDest.isNone

/-- Issues the next instruction of a tile when it is one that the command names; `f` is its effect. The word is fetched at pc. Fetch and
decoder traps come first, then the guard. -/
def tileIssue (s : State) (t : Nat) (want : Nat → Bool) (f : Tile → Nat → Eff) : State :=
  let T := tile s t
  if !issues T then s
  else if nearBytes ≤ T.pc then trap s t 2 T.pc
  else if anyPoison s (tileAddr t T.pc) 8 then trap s t 8 T.pc
  else
    let w := leNat (memBytes s (tileAddr t T.pc) 8)
    if (fmtOf (iOpc w)).isSome && !want w then s
    else if wordIllegal w then trap s t 1 0
    else if pReg T (nfld w 54 52) == nbit w 55 then setPc s t (T.pc + 8)
    else retire s t T.pc (f T w)

/-- The word has an opcode. -/
def opcIs (o : Nat) (w : Nat) : Bool := iOpc w = o

/-- Issues an instruction that does not look at pc, with its one effect. -/
def tileOp (s : State) (t o : Nat) (f : Tile → Nat → Eff) : State := tileIssue s t (opcIs o) f

/-- Goes on with an offset whose n bytes lie in the tile's memory, with an alignment; else ALIGN or ADDR. -/
def atOffset (off n al : Nat) (f : Eff) : Eff :=
  if off % al ≠ 0 then .trap 3 off else if 2 ^ 22 < off + n then .trap 4 off else f

/-- Goes on with the bytes of a range that is in bounds; POISON when a word of it is poisoned. -/
def reading (s : State) (t off n : Nat) (f : List Byte → Eff) : Eff :=
  if anyPoison s (tileAddr t off) n then .trap 8 off else f (memBytes s (tileAddr t off) n)

/-! ### Scalar arithmetic -/

/-- The operation of an ALU code 0x10 + op (Table 14-3). -/
def alu (op : Nat) (a b : W64) : W64 :=
  let sh := b.toNat % 64
  match op with
  | 0 => a + b
  | 1 => a - b
  | 2 => a * b
  | 3 => w64 (a.toNat * b.toNat / 2 ^ 64)
  | 4 => a &&& b
  | 5 => a ||| b
  | 6 => a ^^^ b
  | 7 => a <<< sh
  | 8 => a >>> sh
  | 9 => a.sshiftRight sh
  | 10 => if a.toInt ≤ b.toInt then a else b
  | 11 => if a.toInt ≤ b.toInt then b else a
  | 12 => if a.toNat ≤ b.toNat then a else b
  | 13 => if a.toNat ≤ b.toNat then b else a
  | 14 => if b = 0 then BitVec.allOnes 64 else w64 (a.toNat / b.toNat)
  | _ => if b = 0 then a else w64 (a.toNat % b.toNat)

/-- The format R form of an ALU code. -/
def aluR (s : State) (t op : Nat) : State :=
  tileOp s t (0x10 + op) (fun T w => .done (setG s t (iD w) (alu op (gReg T (iA w)) (gReg T (iB w)))))

/-- The format I form of an ALU code. -/
def aluI (s : State) (t op : Nat) : State :=
  tileOp s t (0x20 + op) (fun T w => .done (setG s t (iD w) (alu op (gReg T (iA w)) (iImm w))))

/-- A comparison of CMP. -/
def compare (fn : Nat) (a b : W64) : Bool :=
  match fn with
  | 0 => a = b
  | 1 => a ≠ b
  | 2 => a.toInt < b.toInt
  | 3 => b.toInt ≤ a.toInt
  | 4 => a.toNat < b.toNat
  | _ => b.toNat ≤ a.toNat

/-- An operation of PLOG. -/
def plog (fn : Nat) (a b : Bool) : Bool := match fn with | 0 => a && b | 1 => a || b | 2 => a != b | _ => a && !b

/-! ### csrs (R366, Table 14-5) -/

/-- LIMIT, CTX and KERNEL of the running kernel, as kinfo shows them. -/
def kinfo (s : State) (T : Tile) : W64 := w64 (T.kernel + kCtx s T.kernel * 2 ^ 16 + kLimit s T.kernel * 2 ^ 32)

/-- Tags with a count above zero. -/
def tbusy (T : Tile) : Nat := (List.range 16).foldl (fun n k => if tagCount T k = 0 then n else n + 2 ^ k) 0

/-- The value of a csr, none for a number that is not in the table. The stall counts qstall and mwait are free values: the model has no cycles of
its own (log 35). -/
def csrRead (s : State) (t n : Nat) : Option (W64 × State) :=
  let T := tile s t
  match n with
  | 0x001 => some (w64 (t + ownNode s * 2 ^ 8 + ownPlane s * 2 ^ 20), s)
  | 0x002 => some (w64 s.time, s)
  | 0x003 => some (w64 ((clockCount s - T.startCyc) / 1000), s)
  | 0x004 => some (kinfo s T, s)
  | 0x010 => some (T.mfmt, s)
  | 0x011 => some (T.mshape, s)
  | 0x012 => some (T.mstride, s)
  | 0x013 => some (T.ostride, s)
  | 0x020 => some (T.dcount, s)
  | 0x021 => some (T.dtstride, s)
  | 0x022 => some (T.dcstride, s)
  | 0x030 => some (w64 (tbusy T), s)
  | 0x031 => some (T.tstat0, s)
  | 0x032 => some (T.tstat1, s)
  | 0x040 => some (T.fflags, s)
  | 0x050 => some (draw s)
  | 0x051 => some (draw s)
  | _ => none

/-- The tile after a write of a csr, none for an RO csr or a number that is not in the table. Reserved bits are ignored and read 0 (R6). -/
def csrWrite (T : Tile) (n : Nat) (v : W64) : Option Tile :=
  match n with
  | 0x010 => some { T with mfmt := v &&& 0xFF }
  | 0x011 => some { T with mshape := v &&& 0xFFFF7F7F }
  | 0x012 => some { T with mstride := v &&& 0x003FFFFF003FFFFF }
  | 0x013 => some { T with ostride := v &&& 0x3FFFFF }
  | 0x020 => some { T with dcount := v &&& 0xFFFF }
  | 0x021 => some { T with dtstride := v &&& 0x3FFFFF }
  | 0x022 => some { T with dcstride := v }
  | 0x031 => some { T with tstat0 := v }
  | 0x032 => some { T with tstat1 := v }
  | 0x040 => some { T with fflags := v &&& 0x1F }
  | _ => none

/-! ### Channels (R364) -/

/-- A channel that another VALID kernel entry names as CH for the tile. -/
def chanBarred (s : State) (t ch : Nat) : Bool := chanOfOther s t ch (tile s t).kernel

/-- Readable words of a channel: on the kernel's own CH, the argument words it has not yet read. -/
def readable (s : State) (t ch : Nat) : Nat :=
  if ch = (tile s t).ch then (tile s t).argLeft else (sqmQ s (tileQ t ch)).words.length

/-- The next word of a channel that has one: the state, and the word with its tag. -/
def chanTake (s : State) (t ch : Nat) (bad : Bool) : State × PopResult :=
  let p := sqmPop s (tileQ t ch) bad
  (if ch = (tile s t).ch then tileMod p.1 t (fun T => { T with argLeft := T.argLeft - 1 }) else p.1, p.2)

/-! ### Control -/

/-- NOP. -/
def execTNop (tile : Nat) (s : State) : Host.Outcome State Fault Refusal := .next (tileOp s tile 0x00 (fun _ _ => .done s))

/-- A pc offset of IMM instructions. -/
def branchTo (pc w : Nat) : Nat := (w64 pc + iImm w * 8).toNat

/-- BR. -/
def execTBr (tile : Nat) (s : State) : Host.Outcome State Fault Refusal :=
  .next (tileOp s tile 0x02 (fun T w => .jump s (branchTo T.pc w)))

/-- BRL. -/
def execTBrl (tile : Nat) (s : State) : Host.Outcome State Fault Refusal :=
  .next (tileOp s tile 0x03 (fun T w => .jump (setG s tile (iD w) (w64 (T.pc + 8))) (branchTo T.pc w)))

/-- JR: a target that is not a multiple of 8 traps ALIGN. -/
def execTJr (tile : Nat) (s : State) : Host.Outcome State Fault Refusal :=
  .next (tileOp s tile 0x04 (fun T w =>
    let a := (gReg T (iA w)).toNat
    if a % 8 ≠ 0 then .trap 3 a else .jump s a))

/-- TRAP: SOFT, with IMM as the trap value. -/
def execTTrap (tile : Nat) (s : State) : Host.Outcome State Fault Refusal :=
  .next (tileOp s tile 0x05 (fun _ w => .trap 0x0B (iImm w).toNat))

/-- CSRR. -/
def execTCsrr (tile : Nat) (s : State) : Host.Outcome State Fault Refusal :=
  .next (tileOp s tile 0x06 (fun _ w => match csrRead s tile (iFnI w) with
    | none => .trap 1 0
    | some p => .done (setG p.2 tile (iD w) p.1)))

/-- CSRW. -/
def execTCsrw (tile : Nat) (s : State) : Host.Outcome State Fault Refusal :=
  .next (tileOp s tile 0x07 (fun T w => match csrWrite T (iFnI w) (gReg T (iA w)) with
    | none => .trap 1 0
    | some T1 => .done (tileMod s tile (fun _ => T1))))

/-- WAITT (R356): waits for the counts of the tags in IMM[15:0]. -/
def execTWaitt (tile : Nat) (s : State) : Host.Outcome State Fault Refusal :=
  .next (tileOp s tile 0x08 (fun T w =>
    if (List.range 16).any (fun k => nbit w k && decide (tagCount T k ≠ 0)) then .wait s else .done s))

/-- WAITC (R364): waits for a readable word; the lowest such channel. -/
def execTWaitc (tile : Nat) (s : State) : Host.Outcome State Fault Refusal :=
  .next (tileOp s tile 0x09 (fun _ w =>
    let set := (List.range 16).filter (nbit w)
    if set = [] then .trap 5 (iImm w).toNat
    else match set.find? (chanBarred s tile) with
      | some ch => .trap 7 ch
      | none => match set.find? (fun ch => decide (0 < readable s tile ch)) with
        | none => .wait s
        | some ch => .done (setG s tile (iD w) (w64 ch))))

/-- Replies of the tile in flight on a tag. -/
def repliesOn (T : Tile) (tag : Nat) : Nat := (T.sends.filter (fun x => decide (x.kind = 2 ∧ x.tag = tag))).length

/-- END (R365): waits until every tag count is zero but for an accepted reply; the tile returns to IDLE. -/
def execTEnd (tile : Nat) (s : State) : Host.Outcome State Fault Refusal :=
  .next (tileOp s tile 0x01 (fun T w =>
    let a := gReg T (iA w)
    if fld a 13 0 ≠ T.handle then .trap 9 a.toNat
    else if (List.range 16).any (fun k => decide (tagCount T k ≠ repliesOn T k)) then .wait s
    else .done (endCheck (invLeave (tileStop s tile) T.handle tile) T.handle)))

/-! ### Scalar ALU: one definition for each code -/

/-- ADD. -/
def execTAdd (tile : Nat) (s : State) : Host.Outcome State Fault Refusal := .next (aluR s tile 0)

/-- SUB. -/
def execTSub (tile : Nat) (s : State) : Host.Outcome State Fault Refusal := .next (aluR s tile 1)

/-- MUL. -/
def execTMul (tile : Nat) (s : State) : Host.Outcome State Fault Refusal := .next (aluR s tile 2)

/-- MULHU. -/
def execTMulhu (tile : Nat) (s : State) : Host.Outcome State Fault Refusal := .next (aluR s tile 3)

/-- AND. -/
def execTAnd (tile : Nat) (s : State) : Host.Outcome State Fault Refusal := .next (aluR s tile 4)

/-- OR. -/
def execTOr (tile : Nat) (s : State) : Host.Outcome State Fault Refusal := .next (aluR s tile 5)

/-- XOR. -/
def execTXor (tile : Nat) (s : State) : Host.Outcome State Fault Refusal := .next (aluR s tile 6)

/-- SHL. -/
def execTShl (tile : Nat) (s : State) : Host.Outcome State Fault Refusal := .next (aluR s tile 7)

/-- SHR. -/
def execTShr (tile : Nat) (s : State) : Host.Outcome State Fault Refusal := .next (aluR s tile 8)

/-- SRA. -/
def execTSra (tile : Nat) (s : State) : Host.Outcome State Fault Refusal := .next (aluR s tile 9)

/-- MINS. -/
def execTMins (tile : Nat) (s : State) : Host.Outcome State Fault Refusal := .next (aluR s tile 10)

/-- MAXS. -/
def execTMaxs (tile : Nat) (s : State) : Host.Outcome State Fault Refusal := .next (aluR s tile 11)

/-- MINU. -/
def execTMinu (tile : Nat) (s : State) : Host.Outcome State Fault Refusal := .next (aluR s tile 12)

/-- MAXU. -/
def execTMaxu (tile : Nat) (s : State) : Host.Outcome State Fault Refusal := .next (aluR s tile 13)

/-- DIVU. -/
def execTDivu (tile : Nat) (s : State) : Host.Outcome State Fault Refusal := .next (aluR s tile 14)

/-- REMU. -/
def execTRemu (tile : Nat) (s : State) : Host.Outcome State Fault Refusal := .next (aluR s tile 15)

/-- ADDI. -/
def execTAddi (tile : Nat) (s : State) : Host.Outcome State Fault Refusal := .next (aluI s tile 0)

/-- SUBI. -/
def execTSubi (tile : Nat) (s : State) : Host.Outcome State Fault Refusal := .next (aluI s tile 1)

/-- MULI. -/
def execTMuli (tile : Nat) (s : State) : Host.Outcome State Fault Refusal := .next (aluI s tile 2)

/-- MULHUI. -/
def execTMulhui (tile : Nat) (s : State) : Host.Outcome State Fault Refusal := .next (aluI s tile 3)

/-- ANDI. -/
def execTAndi (tile : Nat) (s : State) : Host.Outcome State Fault Refusal := .next (aluI s tile 4)

/-- ORI. -/
def execTOri (tile : Nat) (s : State) : Host.Outcome State Fault Refusal := .next (aluI s tile 5)

/-- XORI. -/
def execTXori (tile : Nat) (s : State) : Host.Outcome State Fault Refusal := .next (aluI s tile 6)

/-- SHLI. -/
def execTShli (tile : Nat) (s : State) : Host.Outcome State Fault Refusal := .next (aluI s tile 7)

/-- SHRI. -/
def execTShri (tile : Nat) (s : State) : Host.Outcome State Fault Refusal := .next (aluI s tile 8)

/-- SRAI. -/
def execTSrai (tile : Nat) (s : State) : Host.Outcome State Fault Refusal := .next (aluI s tile 9)

/-- MINSI. -/
def execTMinsi (tile : Nat) (s : State) : Host.Outcome State Fault Refusal := .next (aluI s tile 10)

/-- MAXSI. -/
def execTMaxsi (tile : Nat) (s : State) : Host.Outcome State Fault Refusal := .next (aluI s tile 11)

/-- MINUI. -/
def execTMinui (tile : Nat) (s : State) : Host.Outcome State Fault Refusal := .next (aluI s tile 12)

/-- MAXUI. -/
def execTMaxui (tile : Nat) (s : State) : Host.Outcome State Fault Refusal := .next (aluI s tile 13)

/-- DIVUI. -/
def execTDivui (tile : Nat) (s : State) : Host.Outcome State Fault Refusal := .next (aluI s tile 14)

/-- REMUI. -/
def execTRemui (tile : Nat) (s : State) : Host.Outcome State Fault Refusal := .next (aluI s tile 15)

/-- MOVI. -/
def execTMovi (tile : Nat) (s : State) : Host.Outcome State Fault Refusal :=
  .next (tileOp s tile 0x30 (fun _ w => .done (setG s tile (iD w) (iImm w))))

/-- MOVHI: d[31:0] is kept. -/
def execTMovhi (tile : Nat) (s : State) : Host.Outcome State Fault Refusal :=
  .next (tileOp s tile 0x31 (fun T w => .done (setG s tile (iD w) (w64 (w % 2 ^ 32 * 2 ^ 32 + (gReg T (iD w)).toNat % 2 ^ 32)))))

/-- CMP. -/
def execTCmp (tile : Nat) (s : State) : Host.Outcome State Fault Refusal :=
  .next (tileOp s tile 0x32 (fun T w => .done (setP s tile (iD w) (compare (iFn w) (gReg T (iA w)) (gReg T (iB w))))))

/-- CMPI: FN of format I, in bits [41:32] (Table 14-2). -/
def execTCmpi (tile : Nat) (s : State) : Host.Outcome State Fault Refusal :=
  .next (tileOp s tile 0x33 (fun T w => .done (setP s tile (iD w) (compare (iFnI w) (gReg T (iA w)) (iImm w)))))

/-- PLOG. -/
def execTPlog (tile : Nat) (s : State) : Host.Outcome State Fault Refusal :=
  .next (tileOp s tile 0x34 (fun T w => .done (setP s tile (iD w) (plog (iFn w) (pReg T (iA w)) (pReg T (iB w))))))

/-! ### Scalar loads and stores -/

/-- The tile offset a + IMM. -/
def memOff (T : Tile) (w : Nat) : Nat := (gReg T (iA w) + iImm w).toNat

/-- A load of n bytes. -/
def tileLoad (s : State) (t o n : Nat) (ext : Nat → W64) : State :=
  tileOp s t o (fun T w =>
    let off := memOff T w
    atOffset off n n (reading s t off n (fun b => .done (setG s t (iD w) (ext (leNat b))))))

/-- A store of the low n bytes of d. -/
def tileStoreOp (s : State) (t o n : Nat) : State :=
  tileOp s t o (fun T w =>
    let off := memOff T w
    atOffset off n n (.done (tileStore s t off (leBytes n (gReg T (iD w)).toNat))))

/-- LD8U. -/
def execTLd8u (tile : Nat) (s : State) : Host.Outcome State Fault Refusal := .next (tileLoad s tile 0x40 1 w64)

/-- LD16U. -/
def execTLd16u (tile : Nat) (s : State) : Host.Outcome State Fault Refusal := .next (tileLoad s tile 0x41 2 w64)

/-- LD32U. -/
def execTLd32u (tile : Nat) (s : State) : Host.Outcome State Fault Refusal := .next (tileLoad s tile 0x42 4 w64)

/-- LD64. -/
def execTLd64 (tile : Nat) (s : State) : Host.Outcome State Fault Refusal := .next (tileLoad s tile 0x43 8 w64)

/-- LD32S. -/
def execTLd32s (tile : Nat) (s : State) : Host.Outcome State Fault Refusal := .next (tileLoad s tile 0x44 4 iImm)

/-- ST8. -/
def execTSt8 (tile : Nat) (s : State) : Host.Outcome State Fault Refusal := .next (tileStoreOp s tile 0x45 1)

/-- ST16. -/
def execTSt16 (tile : Nat) (s : State) : Host.Outcome State Fault Refusal := .next (tileStoreOp s tile 0x46 2)

/-- ST32. -/
def execTSt32 (tile : Nat) (s : State) : Host.Outcome State Fault Refusal := .next (tileStoreOp s tile 0x47 4)

/-- ST64. -/
def execTSt64 (tile : Nat) (s : State) : Host.Outcome State Fault Refusal := .next (tileStoreOp s tile 0x48 8)

end Sys2Proof.Machine
end

