-- ==== Sys2Proof/Machine/TileDma.lean ====
section
/-! DEFINITION. DMA, atomics, messages and channels of the tiles (R356 to R365). -/
namespace Sys2Proof.Machine

/-! ### DMA bursts (R357 to R359) -/

/-- A DMA of a tile. -/
def dmaOf (s : State) (t id : Nat) : Option TileDma := (tile s t).dmas.find? (fun d => d.id = id)

/-- Rewrites a DMA of a tile. -/
def dmaMod (s : State) (t id : Nat) (f : TileDma → TileDma) : State :=
  tileMod s t (fun T => { T with dmas := mapIf (fun d => decide (d.id = id)) f T.dmas })

/-- Removes a DMA: its tag count falls, and a stopping tile may be IDLE. -/
def dmaEnd (s : State) (t id : Nat) : State :=
  match dmaOf s t id with
  | none => s
  | some d =>
    let s1 := tagMod (tileMod s t (fun T => { T with dmas := T.dmas.filter (fun x => x.id ≠ id) })) t d.tag (· - 1)
    if (tile s1 t).stopping then tileIdle s1 t else s1

/-- An asynchronous trap: only a running tile takes it (R367). -/
def asyncTrap (s : State) (t cause value : Nat) : State :=
  if (tile s t).st = 3 ∧ (tile s t).stopping = false then trap s t cause value else s

/-- The place of the next burst of a DMA: context address, tile offset, bytes. -/
def nextBurst (d : TileDma) : Nat × Nat × Nat :=
  let va := (d.va + d.row * d.cstride + d.done) % 2 ^ 64
  (va, d.toff + d.row * d.tstride + d.done, min (d.len - d.done) (4096 - va % 4096))

/-- A DMA moves past its present burst. -/
def passBurst (d : TileDma) : TileDma :=
  let n := d.done + (nextBurst d).2.2
  if d.len ≤ n then { d with burst := none, row := d.row + 1, done := 0 } else { d with burst := none, done := n }

/-- Some piece lies in a channel aperture. -/
def hitsAperture (s : State) (ps : List (Target × Nat)) : Bool :=
  ps.any (fun p => match p.1 with | .loc a => inAperture s.variant a | _ => false)

/-- A message of a tile to another node. -/
def tileMsg (s : State) (t id c opc : Nat) (b : List Byte) (n a : Nat) : SendMsg :=
  { msn := (conn s c).msn, opc := opc, by_ := .tile t id, tenant := tileOwner s t, cls := kClass s (tile s t).kernel,
    src := .data b, len := b.length, headLen := n, raddr := a % 2 ^ 48 }

/-- A burst that leads to another node travels as an FWRITE or FREAD message on a channel; it waits for the channel. A channel agreed at
version 1 carries no such message (R172): the tag takes VERSION_MISMATCH. -/
def fabBurst (s : State) (t : Nat) (d : TileDma) (b : Burst) (a n : Nat) : State :=
  let c := fabChannel a
  if fabOld s c then dmaMod (tagStatus (endXfer s b.xfer) t d.tag Status.versionMismatch) t d.id passBurst
  else if !chanOpen s c then wakeChannel (endXfer s b.xfer) c (tileOwner s t)
  else
    let s1 := dmaMod s t d.id (fun d => { d with burst := some b })
    if d.toCtx then postMsg s1 c { tileMsg s1 t d.id c 0x0A b.bytes n a with poison := !b.poison.isEmpty, bad := b.poison }
    else postMsg s1 c { tileMsg s1 t d.id c 0x0D [] n a with respLen := n, respUnits := unitsOf n }

/-- The number under which the sealed records of a tile's DMA stand in seal staging. -/
def tileConn (t id : Nat) : Nat := 2 ^ 403 + t * 2 ^ 64 + id

/-- Some of them have not been written. -/
def sealsLeft (s : State) (c : Nat) : Bool := s.cph.staging.any (fun g => decide (g.conn = c))

/-- The row of a DMA as a transfer range (R409): its start in the context. -/
def rowBase (d : TileDma) : Nat := (d.va + d.row * d.cstride) % 2 ^ 64

/-- Issues a burst: bytes of its row, which carries sealed records where the tenant is sealed and the row leads to the bus; a new row opens its
records anew. -/
def burstIssue (s : State) (t : Nat) (d : TileDma) (n : Nat) (u : Use) : State × Issue :=
  let c := kCtx s (tile s t).kernel
  let s0 := if d.done = 0 then forgetRecords s c (rowBase d) else s
  if sealed s (tileOwner s t) then issueSegs s0 (tileOwner s t) c [(rowBase d, d.len)] d.done n d.id u
  else issue s0 (tileOwner s t) c (nextBurst d).1 n d.id u

/-- Issues the next burst of a DMA, translated with the epoch current now. Local failures trap; an unreachable plane goes to the tag. -/
def burstStart (s : State) (t id : Nat) : State :=
  let T := tile s t
  match dmaOf s t id with
  | none => s
  | some d =>
    if d.burst.isSome ∨ T.st ≠ 3 ∨ T.stopping then s
    else if d.rows ≤ d.row then (if sealsLeft s (tileConn t id) then s else dmaEnd s t id)
    else
      let p := nextBurst d
      let u : Use := if d.toCtx then { wr := true, fabric := true } else { rd := true, fabric := true }
      match burstIssue s t d p.2.2 u with
      | (s1, .need a) => stall s1 (kCtx s T.kernel) a (.tileBurst t id)
      | (s1, .fail st) =>
        if st = Status.translationFault then asyncTrap s1 t 6 p.1
        else if st = Status.localProtection then asyncTrap s1 t 7 p.1
        else dmaMod (tagStatus s1 t d.tag st) t id passBurst
      | (s1, .ok x) =>
        let b : Burst := if d.toCtx then
            ⟨p.2.1, p.1, x, memBytes s1 (tileAddr t p.2.1) p.2.2, poisoned s1 (tileAddr t p.2.1) p.2.2⟩
          else ⟨p.2.1, p.1, x, [], []⟩
        if hitsAperture s1 x.pieces then asyncTrap (endXfer s1 x) t 7 p.1
        else match (if d.toCtx then openStages s1 (tileOwner s t) (tileConn t id) d.row false [(rowBase d, d.len)] x.pieces else some s1) with
        | none => s
        | some s1 => match x.pieces with
          | (.fab a, _) :: _ => fabBurst s1 t d b a p.2.2
          | ps =>
            let s2 := dmaMod s1 t id (fun d => { d with burst := some b })
            if d.toCtx then s2 else busReads s2 (tileOwner s t) (.tileDma t id) ps

/-- A burst is over with a status for its tag; the next one is issued. -/
def burstDone (s : State) (t id status : Nat) : State :=
  match dmaOf s t id with
  | none => s
  | some d =>
    let s1 := dmaMod (tagStatus s t d.tag status) t id passBurst
    if (tile s1 t).stopping then dmaEnd s1 t id
    else if (passBurst d).row < d.rows then burstStart s1 t id
    else if sealsLeft s1 (tileConn t id) then s1 else dmaEnd s1 t id

/-- A burst that memory refused: PROT, or nothing more when the tile has stopped. -/
def burstRefused (s : State) (t id va : Nat) : State :=
  let s1 := dmaMod s t id (fun d => { d with burst := none })
  if (tile s1 t).stopping then dmaEnd s1 t id else asyncTrap s1 t 7 va

/-- DMA_BURST_COMPLETE (R357 to R359, R494): the burst under way reaches memory or the bus; `bus` holds what its bus read returned, none
when it failed. A DMA that waits for its channel tries again. -/
def execTDmaBurstComplete (tile_ id : Nat) (bus : Option (List Byte)) (s : State) : Host.Outcome State Fault Refusal :=
  match dmaOf s tile_ id with
  | none => .next s
  | some d =>
    match d.burst with
    | none => .next (burstStart s tile_ id)
    | some b =>
      let own := tileOwner s tile_
      .next (match b.xfer.pieces with
        | (.fab _, _) :: _ => s
        | ps =>
          if d.toCtx then
            match finishWrite s own b.xfer b.bytes b.poison with
            | (s1, false) => burstRefused s1 tile_ id b.va
            | (s1, true) => burstDone s1 tile_ id (if b.poison = [] then 0 else Status.poisoned)
          else
            if !recordsThere s ps then s else
            match finishRead s own b.xfer bus with
            | (s1, .refused) =>
              if ps.any (fun p => match p.1 with | .sealed _ _ _ _ => true | _ => false) then
                burstDone s1 tile_ id Status.localProtection
              else if bus.isNone && ps.any (fun p => match p.1 with | .bus _ _ _ => true | _ => false) then
                burstDone s1 tile_ id Status.localProtection
              else burstRefused s1 tile_ id b.va
            | (s1, .ok x) => burstDone (tileStore s1 tile_ b.toff x) tile_ id (if recordsBad s ps then Status.authFail else 0)
            | (s1, .poison x m) => burstDone (tileStore s1 tile_ b.toff x m) tile_ id Status.poisoned)

/-- DMAX (R357): the operation enters the queue of 16 on its tag, and its first burst is issued. -/
def dmaxEff (s : State) (t : Nat) (T : Tile) (w : Nat) : Eff :=
  let a := (gReg T (iA w)).toNat
  let b := (gReg T (iB w)).toNat
  let c := (gReg T (iC w)).toNat
  let strided := nbit (iFn w) 5
  let rows := if strided then T.dcount.toNat else 1
  let ts := if strided then T.dtstride.toNat else 0
  let cs := if strided then T.dcstride.toNat else 0
  if 2 ^ 22 < c then .trap 5 c
  else if rows = 0 then .trap 5 0
  else if 2 ^ 22 < a + (rows - 1) * ts + c then .trap 4 a
  else if c = 0 then .done s
  else if 16 ≤ T.dmas.length then .wait s
  else .done (tileMod (tagMod s t (iFn w % 16) (· + 1)) t (fun T => { T with
    nextId := T.nextId + 1,
    dmas := T.dmas ++ [{ id := T.nextId, tag := iFn w % 16, toCtx := nbit (iFn w) 4, toff := a, va := b, len := c, rows := rows,
                         tstride := ts, cstride := cs }] }))

/-- DMAX. -/
def execTDmax (tile_ : Nat) (s : State) : Host.Outcome State Fault Refusal :=
  let s1 := tileOp s tile_ 0x90 (dmaxEff s tile_)
  .next (if (tile s1 tile_).nextId = (tile s tile_).nextId then s1 else burstStart s1 tile_ (tile s tile_).nextId)

/-! ### Atomics (R360) -/

/-- DATOM: at once in memory of this device; a bus target waits for its AtomicOp; a remote address and what R193 refuses trap PROT. -/
def datomEff (s : State) (t : Nat) (T : Tile) (w : Nat) : Eff :=
  let a := (gReg T (iA w)).toNat
  let b := gReg T (iB w)
  let c := gReg T (iC w)
  let own := tileOwner s t
  let op := iFn w
  if a % 8 ≠ 0 then .trap 3 a
  else match issue s own (kCtx s T.kernel) a 8 0 { rd := true, wr := true, fabric := true } with
    | (s1, .need x) => .wait (stall s1 (kCtx s T.kernel) x .tableRead)
    | (s1, .fail st) => .trapAfter s1 (if st = Status.translationFault then 6 else 7) a
    | (s1, .ok x) =>
      match x.pieces with
      | [(.bus p _ _, _)] =>
        if 3 ≤ op ∨ sealed s1 own = true then .trapAfter (endXfer s1 x) 7 a
        else .wait (emit (tileMod s1 t (fun T => { T with atomDest := some (iD w), atomXfer := x }))
          (.atomicOp (requesterFn own) (.tileAtomic t) p (decide (op = 2)) (decide (op = 1)) b c))
      | [(.loc p, _)] =>
        if inAperture s.variant p then .trapAfter (endXfer s1 x) 7 a
        else match finishRead s1 own x none with
          | (s2, .refused) => .trapAfter s2 7 a
          | (s2, .poison _ _) => .trapAfter s2 8 a
          | (s2, .ok d) =>
            let old := w64 (leNat d)
            match writePieces s2 own x.pieces (leBytes 8 (atomicNew op old b c).toNat) [] with
            | (s3, false) => .trapAfter s3 7 a
            | (s3, true) => .done (setG s3 t (iD w) old)
      | _ => .trapAfter (endXfer s1 x) 7 a

/-- DATOM. -/
def execTDatom (tile_ : Nat) (s : State) : Host.Outcome State Fault Refusal := .next (tileOp s tile_ 0x91 (datomEff s tile_))

/-- The AtomicOp of a waiting DATOM returns: the old value goes to d, or PROT when it was refused (R193, R360). -/
def datomReturns (s : State) (t : Nat) (result : Option W64) : State :=
  let T := tile s t
  if T.atomXfer.pieces = [] then s
  else
    let s1 := tileMod (endXfer s T.atomXfer) t (fun T => { T with atomDest := none, atomXfer := {} })
    if T.stopping then tileIdle s1 t
    else match T.atomDest, result with
      | some d, some v => setPc (setG s1 t d v) t (T.pc + 8)
      | some _, none => trap s1 t 7 (gReg T (iA (leNat (memBytes s (tileAddr t T.pc) 8)))).toNat
      | none, _ => s1

/-- ATOMICOP_COMPLETE (R193, R194, R360): a PCIe AtomicOp returns its old value, or none for Unsupported Request, Completer Abort or
timeout. -/
def execAtomicopComplete (ref : AtomicRef) (result : Option W64) (s : State) : Host.Outcome State Fault Refusal :=
  .next (match ref with
    | .peer c m => atomicReturns s c m result
    | .tile t => datomReturns s t result)

/-! ### Messages (R361, R362) -/

/-- A message is refused (R327, R362): the tile is not there or not the sender's, or the channel holds records. -/
def msgRefused (s : State) (own u ch : Nat) : Bool :=
  decide (tileCount s.variant ≤ u) || decide ((tile s u).st = 0 ∨ (tile s u).st = 1) || decide (tileOwner s u ≠ own) ||
  chanOfKernel s u ch

/-- A refused message records LOCAL_PROTECTION on its tag and counts (R327, R362). -/
def msgReject (s : State) (t tag : Nat) : State :=
  bumpFn (tagStatus s t tag Status.localProtection) Reg.TGD_MSG_REFUSED (tileOwner s t)

/-- A SEND takes its place in the send queue of 8; `kind` as in `TileSend`. -/
def queueSend (s : State) (t tag kind target ch : Nat) (ws : List W64) : State :=
  tileMod (tagMod s t tag (· + 1)) t (fun T => { T with
    nextId := T.nextId + 1, sends := T.sends ++ [{ id := T.nextId, tag := tag, kind := kind, target := target, ch := ch, words := ws }] })

/-- A SEND to a tile of this device: checked, then it waits for space in the channel. -/
def sendLocal (s : State) (t : Nat) (T : Tile) (tag u ch : Nat) (ws : List W64) : Eff :=
  if msgRefused s (tileOwner s t) u ch then .done (msgReject s t tag)
  else if 8 ≤ (T.sends.filter (fun x => decide (x.kind = 0))).length then .wait s
  else .done (queueSend s t tag 0 u ch ws)

/-- A SEND to another node: an FWRITE on the channel to it, which one agreed at version 1 does not carry (R172). -/
def sendRemote (s : State) (t : Nat) (T : Tile) (tag a : Nat) (b : List Byte) : Eff :=
  let c := fabChannel a
  if fabOld s c then .done (tagStatus s t tag Status.versionMismatch)
  else if !chanOpen s c then .wait (wakeChannel s c (tileOwner s t))
  else
    let s1 := queueSend s t tag 1 a 0 []
    .done (postMsg s1 c (tileMsg s1 t T.nextId c 0x0A b b.length a))

/-- The words of a SEND: 8-byte aligned, 1 to 512. -/
def sendWords (s : State) (t : Nat) (T : Tile) (w : Nat) (f : List Byte → Eff) : Eff :=
  let a := (gReg T (iA w)).toNat
  let n := (gReg T (iC w)).toNat
  if n = 0 ∨ 512 < n then .trap 5 n else atOffset a (8 * n) 8 (reading s t a (8 * n) f)

/-- Bytes as words. -/
def bytesToWords : Nat → List Byte → List W64
  | 0, _ => []
  | n + 1, b => w64 (leAt b 0 8) :: bytesToWords n (b.drop 8)

/-- A SEND word of a KIND; KIND 3 belongs to none and traps ILLEGAL. -/
def sendIs (kind w : Nat) : Bool := opcIs 0xA0 w && decide (nfld w 21 20 = kind ∨ nfld w 21 20 = 3)

/-- TAG of a SEND. -/
def sendTag (w : Nat) : Nat := nfld w 19 16

/-- CH of a SEND. -/
def sendCh (w : Nat) : Nat := nfld w 25 22

/-- SEND with KIND TILE. -/
def execTSendTile (tile_ : Nat) (s : State) : Host.Outcome State Fault Refusal :=
  .next (tileIssue s tile_ (sendIs 0) (fun T w =>
    let b := (gReg T (iB w)).toNat
    if 256 ≤ b then .trap 5 b
    else sendWords s tile_ T w (fun d => sendLocal s tile_ T (sendTag w) b (sendCh w) (bytesToWords (d.length / 8) d))))

/-- SEND with KIND ADDR: the context address leads to an aperture here, or to another node; anything else traps PROT (R361). -/
def execTSendAddr (tile_ : Nat) (s : State) : Host.Outcome State Fault Refusal :=
  .next (tileIssue s tile_ (sendIs 1) (fun T w =>
    let b := (gReg T (iB w)).toNat
    let x := kCtx s T.kernel
    sendWords s tile_ T w (fun d =>
      match dmaXlate s (tileOwner s tile_) x b 1 { wr := true, fabric := true } with
      | (s1, .need p) => .wait (stall s1 x p .tableRead)
      | (s1, .fail st va) =>
        if st = Status.peerUnreachable then .done (tagStatus s1 tile_ (sendTag w) st)
        else .trapAfter s1 (if st = Status.translationFault then 6 else 7) va
      | (s1, .ok [(.fab a, _)]) => sendRemote s1 tile_ T (sendTag w) a d
      | (s1, .ok [(.loc a, _)]) =>
        if inAperture s.variant a then
          sendLocal s1 tile_ T (sendTag w) (apertureOf a).1 (apertureOf a).2 (bytesToWords (d.length / 8) d)
        else .trapAfter s1 7 b
      | (s1, .ok _) => .trapAfter s1 7 b)))

/-- TILE_MESSAGE_ENQUEUE (R327, R362): the oldest message of a tile to a channel finds space there and enters whole; its tag count falls. -/
def execTTileMessageEnqueue (tile_ id : Nat) (s : State) : Host.Outcome State Fault Refusal :=
  match (tile s tile_).sends.find? (fun x => decide (x.id = id ∧ x.kind = 0)) with
  | none => .next s
  | some m =>
    let first := (tile s tile_).sends.find? (fun x => decide (x.kind = 0 ∧ x.target = m.target ∧ x.ch = m.ch))
    if first.map (·.id) ≠ some id then .next s
    else
      let msgEnd := fun (s : State) =>
        tagMod (tileMod s tile_ (fun T => { T with sends := T.sends.filter (fun x => x.id ≠ id) })) tile_ m.tag (· - 1)
      if msgRefused s (tileOwner s tile_) m.target m.ch then .next (msgEnd (msgReject s tile_ m.tag))
      else match chanReserve s (tileQ m.target m.ch) m.words.length with
        | none => .next s
        | some s1 => .next (msgEnd (chanPut s1 (tileQ m.target m.ch) (m.words.map (fun x => ⟨x, 0⟩))))

/-! ### Replies (R336, R363) -/

/-- The class a reply goes in: the QP's, or the kernel entry's on a channel (R336); never another tenant's (R215). -/
def replyClass (s : State) (i : Invocation) : Nat :=
  if isChan i.conn then kClass s i.kernel else responseClass s i.conn (connTenant s i.conn)

/-- The dispatcher accepts the reply of an invocation, and the message unit sends it. -/
def sendReply (s : State) (t : Nat) (T : Tile) (tag h a n : Nat) (i : Invocation) : State :=
  let s1 := invMod (queueSend s t tag 2 a 0 []) h (fun i => { i with reply := some (t, T.nextId) })
  let m : SendMsg := { msn := i.msn, resp := true, opc := 0x09, by_ := .tile t T.nextId, tenant := tileOwner s t, cls := replyClass s i,
                       src := .mem (tileOwner s t) (kCtx s T.kernel) [(a, n)], len := n }
  if (conn s i.conn).st = 2 then demandCheck (connMod s1 i.conn (fun C => { C with send := C.send ++ [m] })) i.conn
  else
    let e := (conn s i.conn).errStatus
    issuerDone s1 m.by_ (if e = 0 then Status.contextGone else e) 0

/-- SEND with KIND REPLY: the handle, then the range, REPLY_MAX, and whether the invocation still takes a reply. -/
def execTSendReply (tile_ : Nat) (s : State) : Host.Outcome State Fault Refusal :=
  .next (tileIssue s tile_ (sendIs 2) (fun T w =>
    let a := (gReg T (iA w)).toNat
    let h := fld (gReg T (iB w)) 13 0
    let n := (gReg T (iC w)).toNat
    let own := tileOwner s tile_
    let x := kCtx s T.kernel
    if 2 ^ 24 < n then .trap 5 n
    else if h ≠ T.handle then .trap 9 h
    else match dmaXlate s own x a n { rd := true } with
      | (s1, .need p) => .wait (stall s1 x p .tableRead)
      | (s1, .fail st va) => .trapAfter s1 (if st = Status.translationFault then 6 else 7) va
      | (s1, .ok ps) =>
        if !piecesOwned s1 own ps then .trapAfter (ownFault s1 own) 7 a
        else match invocation s1 h with
          | none => .done (tagStatus s1 tile_ (sendTag w) Status.badDescriptor)
          | some i =>
            if i.replyMax < n then .done (tagStatus s1 tile_ (sendTag w) Status.localLength)
            else if i.reply.isSome ∨ i.status.isSome then .done (tagStatus s1 tile_ (sendTag w) Status.badDescriptor)
            else .done (sendReply s1 tile_ T (sendTag w) h a n i)))

/-- A message or reply of a tile ends in the transport (R356, R359, R362, R363): the tag count falls and takes the status; a re-read of a
reply that failed traps. -/
def tileMsgEnd (s : State) (t id status : Nat) : State :=
  match dmaOf s t id with
  | some d =>
    (match d.burst with
     | none => s
     | some b => burstDone (endXfer s b.xfer) t id status)
  | none =>
    match (tile s t).sends.find? (fun x => x.id = id) with
    | none => s
    | some m =>
      let s1 := tagMod (tileMod s t (fun T => { T with sends := T.sends.filter (fun x => x.id ≠ id) })) t m.tag (· - 1)
      if m.kind ≠ 2 then tagStatus s1 t m.tag status
      else
        let s2 := { s1 with tgd := { s1.tgd with invs := s1.tgd.invs.map (fun i =>
          if i.2.reply = some (t, id) then (i.1, { i.2 with told := true }) else i) } }
        let reread := status = Status.translationFault ∨ status = Status.localProtection
        let s3 := tagStatus s2 t m.tag (if reread then Status.kernelFault else status)
        if reread ∧ m.tag < 16 then asyncTrap s3 t (if status = Status.translationFault then 6 else 7) m.target else s3

/-! ### Channel reads (R364) -/

/-- RECV: the next word of a channel; `bad`: its parity fails when it is read (R395). -/
def execTChannelRecv (tile_ : Nat) (bad : Bool) (s : State) : Host.Outcome State Fault Refusal :=
  .next (tileOp s tile_ 0xA1 (fun T w =>
    let ch := iFn w
    if chanBarred s tile_ ch then .trap 7 ch
    else if readable s tile_ ch = 0 then (if ch = T.ch then .trap 0xA 0 else .wait s)
    else
      let p := chanTake s tile_ ch bad
      if p.2.tag = 2 then .trapAfter p.1 8 0 else .done (setG p.1 tile_ (iD w) p.2.word)))

/-- Takes n words of a channel to an offset, one by one: the state, and whether a poisoned word stopped it. -/
def recvWords (s : State) (t ch : Nat) (bad : Bool) : Nat → Nat → State × Bool
  | 0, _ => (s, false)
  | n + 1, off =>
    let p := chanTake s t ch bad
    if p.2.tag = 2 then (p.1, true)
    else recvWords (tileStore p.1 t off (leBytes 8 p.2.word.toNat)) t ch false n (off + 8)

/-- RECVM: b words to an 8-byte-aligned offset, as they arrive; `bad`: the parity of the first word read now fails. -/
def execTRecvm (tile_ : Nat) (bad : Bool) (s : State) : Host.Outcome State Fault Refusal :=
  .next (tileOp s tile_ 0xA2 (fun T w =>
    let ch := iFn w
    let a := (gReg T (iA w)).toNat
    let n := (gReg T (iB w)).toNat
    let r := readable s tile_ ch
    if chanBarred s tile_ ch then .trap 7 ch
    else if n = 0 ∨ 65536 < n then .trap 5 n
    else atOffset a (8 * n) 8
      (if ch = T.ch ∧ r < n - T.recvmDone then .trap 0xA n
       else
         let k := min r (n - T.recvmDone)
         let p := recvWords s tile_ ch bad k (a + 8 * T.recvmDone)
         if p.2 then .trapAfter p.1 8 0
         else if k + T.recvmDone = n then .done (tileMod p.1 tile_ (fun T => { T with recvmDone := 0 }))
         else .wait (tileMod p.1 tile_ (fun T => { T with recvmDone := T.recvmDone + k })))))

/-- POLL: the readable words of a channel. -/
def execTPoll (tile_ : Nat) (s : State) : Host.Outcome State Fault Refusal :=
  .next (tileOp s tile_ 0xA3 (fun _ w =>
    let ch := iFn w
    if chanBarred s tile_ ch then .trap 7 ch else .done (setG s tile_ (iD w) (w64 (readable s tile_ ch)))))

end Sys2Proof.Machine
end

