-- ==== Sys2Proof/Machine/Cph.lean ====
section
/-! DEFINITION. The cipher engine (chapter 17): CRYPT streams in slices, their saved state, key slots, sealed records. -/
namespace Sys2Proof.Machine

/-! ### CRYPT entries and streams (R119, R403, R407) -/

/-- MODE of a CRYPT: 0 CBC, 1 CTR, 2 CFB, 3 GCM. -/
def cryptMode (e : Entry) : Nat := nfld (ef e 44 4) 1 0

/-- DIR: decrypt. -/
def cryptDec (e : Entry) : Bool := nbit (ef e 44 4) 2

/-- AAD_LEN; only GCM has AAD. -/
def cryptAad (e : Entry) : Nat := if cryptMode e = 3 then nfld (ef e 44 4) 31 16 else 0

/-- KEY_SLOT. -/
def cryptSlot (e : Entry) : Nat := nfld (ef e 32 4) 9 0

/-- The number under which a queue's CRYPT records stand in seal staging. -/
def cryptConn (q : Nat) : Nat := 2 ^ 402 + q

/-- The stream of an entry. -/
def streamOf (s : State) (q idx : Nat) : Option Stream := s.cph.streams.find? (fun x => decide (x.queue = q ∧ x.idx = idx))

/-- Removes the stream of an entry. -/
def streamDrop (s : State) (q idx : Nat) : State :=
  { s with cph := { s.cph with streams := s.cph.streams.filter (fun x => !decide (x.queue = q ∧ x.idx = idx)) } }

/-- Puts back a stream; the one served last stands last. -/
def streamPut (s : State) (x : Stream) : State :=
  let s1 := streamDrop s x.queue x.idx
  { s1 with cph := { s1.cph with streams := s1.cph.streams ++ [x] } }

/-- Rewrites a key slot. -/
def slotSet (s : State) (k : Nat) (K : KeySlot) : State :=
  { s with cph := { s.cph with slots := tset (fun _ => {}) s.cph.slots k K } }

/-- CTXMODE of a tenant: 0 PAGES, 1 SAVE_CLEAR, 2 SAVE_WRAPPED. -/
def ctxMode (s : State) (t : Nat) : Nat := fld (reg s Reg.CPH_TCFG t) 1 0

/-- Contexts of the shared pool: 2,048 less 8 for each tenant in PAGES (R407). -/
def streamPool (s : State) : Nat :=
  2048 - 8 * ((List.range 253).filter (fun t => decide ((tenant s t).st ≠ 0 ∧ ctxMode s t = 0))).length

/-- Streams that hold a context of the shared pool. -/
def poolStreams (s : State) : List Stream := s.cph.streams.filter (fun x => !x.page && x.saved.isNone)

/-- Why a step of a stream does not happen: a table word is needed, it waits, or the entry fails with a status. -/
inductive CHalt
  | need (ctx addr : Nat)
  | notYet
  | fail (status : Nat)
deriving DecidableEq, Repr

/-- A running CRYPT ends without success: its stream and its partial records go. -/
def cryptFail (s : State) (q idx st : Nat) : State :=
  entryDone (dropStages (streamDrop s q idx) (cryptConn q) false (fun x => decide (x = idx))) q idx st 0 0

/-- Acts on the outcome of a step of an entry's stream. -/
def cryptSettle (s : State) (q idx : Nat) (r : Except CHalt State) : State :=
  match r with
  | .ok s1 => s1
  | .error (.need c a) => stall s c a .tableRead
  | .error .notYet => s
  | .error (.fail st) => cryptFail s q idx st

/-- The place of save record n of a tenant (R408). -/
def saveAddr (s : State) (t n : Nat) : Nat := fld (reg s Reg.CPH_TSAVE_BASE t) 63 7 * 128 + 128 * n

/-- The context of a tenant's save area. -/
def saveCtx (s : State) (t : Nat) : Nat := fld (reg s Reg.CPH_TSAVE_CTX t) 15 0

/-- The 64 bytes of a stream's state (R408). -/
def streamState (e : Entry) (x : Stream) : List Byte :=
  leBytes 1 (cryptMode e) ++ leBytes 1 (b2n (cryptDec e)) ++ leBytes 2 x.slot ++ leBytes 4 0 ++ leBytes 8 x.done ++
  padTo 16 x.chain ++ beBytes 16 x.ghash ++ leBytes 2 (cryptAad e) ++ leBytes 14 0

/-- The AAD of a wrapped record: the tenant slot and the record's context address. -/
def saveAad (t addr : Nat) : List Byte := leBytes 1 t ++ leBytes 8 addr

/-- Saves a suspended stream in its tenant's save area (R407, R408). A save in clear form that would leave device memory, or one that its
context refuses, fails that stream. -/
def streamSave (s : State) (x : Stream) (e : Entry) : Except CHalt State :=
  let t := x.tenant
  let used := s.cph.streams.filterMap (fun y => if y.tenant = t then y.saved else none)
  match (List.range (used.length + 1)).find? (fun n => !used.contains n) with
  | none => .error .notYet
  | some n =>
    if x.wrap && !s.rsp.entropyOk then .error .notYet else
    let addr := saveAddr s t n
    match dmaXlate s t (saveCtx s t) addr 128 { wr := true } with
    | (_, .need a) => .error (.need (saveCtx s t) a)
    | (s1, .fail st _) => .ok (cryptFail s1 x.queue x.idx st)
    | (s1, .ok ps) =>
      let local_ := ps.all (fun p => match p.1 with | .loc _ => true | _ => false)
      if (!x.wrap && !local_) || !piecesOwned s1 t ps then .ok (cryptFail s1 x.queue x.idx Status.localProtection)
      else
        let d := drawN 2 s1
        let nonce := (wordsToBytes d.1).take 12
        let c := gcmSeal s1.cph.wrapKey nonce (saveAad t addr) (streamState e x)
        let s2 := if x.wrap then d.2 else s1
        let bytes := if x.wrap then nonce ++ c.1 ++ c.2 ++ List.replicate 36 0 else streamState e x ++ List.replicate 64 0
        match writePieces s2 t ps bytes [] with
        | (_, false) => .ok (cryptFail s1 x.queue x.idx Status.localProtection)
        | (s3, true) =>
          .ok { (bumpFn s3 Reg.CPH_CTX_SAVE t) with
            cph := { (bumpFn s3 Reg.CPH_CTX_SAVE t).cph with
              streams := mapIf (fun y => decide (y.queue = x.queue ∧ y.idx = x.idx)) (fun y => { y with saved := some n }) s.cph.streams } }

/-- Makes a context of the shared pool free: the least recently served suspended stream other than the entry's own is saved. -/
def poolRoomMake (s : State) (q idx : Nat) : Except CHalt State :=
  if (poolStreams s).length < streamPool s then .ok s
  else match (poolStreams s).find? (fun y => !decide (y.queue = q ∧ y.idx = idx)) with
    | none => .error .notYet
    | some y => match entry s y.queue y.idx with
      | none => .ok (streamDrop s y.queue y.idx)
      | some e => streamSave s y e

/-- Reads plaintext [off, off + n) of a range of a CRYPT: the bytes and what is left of the bus bytes. -/
def cryptRead (s : State) (t c base off n : Nat) (bus : Option (List Byte)) : Except CHalt (State × Option (List Byte) × List Byte) :=
  match dataXlate s t c base off n { rd := true } with
  | (_, .need a) => .error (.need c a)
  | (_, .fail st _) => .error (.fail st)
  | (s1, .ok ps) =>
    if !recordsThere s1 ps then .error .notYet
    else match readPieces s1 t ps bus with
      | (_, .refused) => .error (.fail Status.localProtection)
      | (_, .poison _ _) => .error (.fail Status.poisoned)
      | (s2, .ok b) => .ok (s2, busAfter ps bus, b)

/-- Writes bytes of a range of a CRYPT, whose length is `total`. -/
def cryptWrite (s : State) (q idx t c base off total : Nat) (b : List Byte) : Except CHalt State :=
  match dataXlate s t c base off b.length { wr := true } with
  | (_, .need a) => .error (.need c a)
  | (_, .fail st _) => .error (.fail st)
  | (s1, .ok ps) => match openStages s1 t (cryptConn q) idx false [(base, total)] ps with
    | none => .error .notYet
    | some s2 =>
      if !piecesOwned s2 t ps then .error (.fail Status.localProtection)
      else match writePieces s2 t ps b [] with
        | (_, false) => .error (.fail Status.localProtection)
        | (s3, true) => .ok (entryMod s3 q idx (fun e => { e with leaves := peerLeaves ps e.leaves }))

/-- One slice through the cipher: output, chaining or counter block, GHASH accumulator (Table 17-2). `aad`: the bytes of the slice that are
only authenticated. -/
def cryptStep (key : List Byte) (mode : Nat) (dec : Bool) (aad : Nat) (chain : List Byte) (gh : Nat) (b : List Byte) :
    List Byte × List Byte × Nat :=
  match mode with
  | 0 =>
    let r := if dec then cbcDec key chain (blocks16 b) else cbcEnc key chain (blocks16 b)
    (r.1, r.2, gh)
  | 1 =>
    let r := ctrRun key (beNat chain) (blocks16 b)
    (r.1, beBytes 16 r.2, gh)
  | 2 =>
    let r := cfbRun key dec chain (blocks16 b)
    (r.1, r.2, gh)
  | _ =>
    let a := b.take aad
    let x := b.drop aad
    let r := ctrRun key (beNat chain) (blocks16 x)
    (a ++ r.1, beBytes 16 r.2, ghash (gcmH key) (ghash (gcmH key) gh (blocks16 a)) (blocks16 (if dec then x else r.1)))

/-- Bytes of the next slice: 64 KiB, cut at a block of the text (R407). -/
def sliceLen (e : Entry) (done : Nat) : Nat :=
  if elen e ≤ done + 65536 then elen e - done
  else cryptAad e + (done + 65536 - cryptAad e) / 16 * 16 - done

/-- SRC and DST overlap without being equal, which leaves DST undefined (R403). -/
def cryptOverlap (e : Entry) : Bool :=
  let a := ef e 16 8
  let b := ef e 24 8
  decide (a ≠ b ∧ a < b + elen e ∧ b < a + elen e)

/-- Restores a saved stream (R408): its state is read back; a wrapped record must pass its tag. -/
def streamRestore (s : State) (x : Stream) (n : Nat) (bus : Option (List Byte)) : Except CHalt (State × Option (List Byte) × Stream) := do
  let s0 ← poolRoomMake s x.queue x.idx
  let addr := saveAddr s0 x.tenant n
  match dmaXlate s0 x.tenant (saveCtx s0 x.tenant) addr 128 { rd := true } with
  | (_, .need a) => .error (.need (saveCtx s0 x.tenant) a)
  | (_, .fail st _) => .error (.fail st)
  | (s1, .ok ps) => match readPieces s1 x.tenant ps bus with
    | (s2, .ok b) =>
      let r := gcmOpen s2.cph.wrapKey (b.take 12) (saveAad x.tenant addr) ((b.drop 12).take 64) ((b.drop 76).take 16)
      let st := if x.wrap then r.1 else b.take 64
      if x.wrap && !r.2 then .error (.fail Status.localProtection)
      else .ok (s2, busAfter ps bus,
        { x with saved := none, done := leAt st 8 8, chain := (st.drop 16).take 16, ghash := beAt st 32 16 })
    | (_, .poison _ _) => .error (.fail Status.poisoned)
    | (_, .refused) => .error (.fail Status.localProtection)

/-- The stream begins: the IV, or the nonce of GCM, is read (R119). -/
def streamBegin (s : State) (x : Stream) (e : Entry) (bus : Option (List Byte)) : Except CHalt (State × Option (List Byte) × Stream) := do
  let r ← cryptRead s x.tenant (dctx e) (ef e 48 8) 0 16 bus
  let iv := if cryptMode e = 3 then beBytes 16 (gcmCtr (r.2.2.take 12)) else r.2.2
  .ok (r.1, r.2.1, { x with begun := true, chain := iv })

/-- The last block is done: the IV that continues the stream, or the tag of GCM (R403, R404). -/
def cryptLast (s : State) (x : Stream) (e : Entry) (key : List Byte) (bus : Option (List Byte)) : Except CHalt State := do
  let q := x.queue
  if cryptMode e ≠ 3 then cryptWrite s q x.idx x.tenant (dctx e) (ef e 48 8) 0 16 x.chain
  else
    let tag := gcmTag key (x.chain.take 12) x.ghash (cryptAad e) (elen e - cryptAad e)
    if cryptDec e then
      let r ← cryptRead s x.tenant (dctx e) (ef e 56 8) 0 16 bus
      if r.2.2 = tag then .ok r.1
      else .ok (entryMod (bumpFn r.1 Reg.CPH_AUTH_FAIL x.tenant) q x.idx (fun e => { e with status := Status.authFail }))
    else cryptWrite s q x.idx x.tenant (dctx e) (ef e 56 8) 0 16 tag

/-- The entry completes once none of its records is left in seal staging. -/
def cryptFinish (s : State) (q idx : Nat) : State :=
  match entry s q idx with
  | none => s
  | some e =>
    if e.running && decide (opcode e = 0x11) && (streamOf s q idx).isNone && !sealsOpen s (cryptConn q) idx false then
      entryDone s q idx Status.ok (elen e) 0 else s

/-- One slice of a stream (R402, R403, R407). -/
def cryptSlice (s : State) (x : Stream) (e : Entry) (bus : Option (List Byte)) : Except CHalt State := do
  let K := keySlot s x.slot
  let c := dctx e
  if K.reloading then .error .notYet
  else
    let (s1, bus1, x1) ← (match x.saved with
      | some n => streamRestore s x n bus
      | none => .ok (s, bus, x))
    let (s2, bus2, x2) ← (if x1.begun then .ok (s1, bus1, x1) else streamBegin s1 x1 e bus1)
    let n := sliceLen e x2.done
    let (s3, bus3, b) ← cryptRead s2 x2.tenant c (ef e 16 8) x2.done n bus2
    let r := cryptStep K.key (cryptMode e) (cryptDec e) (cryptAad e - x2.done) x2.chain x2.ghash b
    let f := if cryptOverlap e then freeBytes n s3 else (r.1, s3)
    let s4 ← cryptWrite f.2 x2.queue x2.idx x2.tenant c (ef e 24 8) x2.done (elen e) f.1
    let x3 := { x2 with done := x2.done + n, chain := r.2.1, ghash := r.2.2 }
    let s5 := streamPut (cphBlocks s4 x.tenant ((n + 15) / 16)) x3
    if x3.done < elen e then .ok s5
    else
      let s6 ← cryptLast s5 x3 e K.key bus3
      .ok (cryptFinish (streamDrop s6 x.queue x.idx) x.queue x.idx)

/-- CRYPT (R119, R407): a started entry becomes a stream, unless its tenant runs as many as its mode allows. -/
def execVCrypt (queue idx : Nat) (s : State) : Host.Outcome State Fault Refusal :=
  match readyVerb s queue idx 0x11 with
  | none => .next s
  | some e =>
    let t := queueOwner s queue
    let m := ctxMode s t
    let cap := if m = 0 then 8 else fld (reg s Reg.CPH_TSAVE_COUNT t) 16 0
    if !slotUsable s (cryptSlot e) t then .next (entryDone (bumpFn s Reg.CPH_SLOT_MISS t) queue idx Status.localProtection 0 0)
    else if cap ≤ (s.cph.streams.filter (fun x => x.tenant = t)).length then
      (if m = 0 ∧ e.waits = [] then
        .next (bumpFn (entryMod s queue idx (fun e => { e with waits := [(queue, idx)] })) Reg.CPH_CTX_WAIT t)
       else .next s)
    else
      .next (cryptSettle s queue idx (do
        let s1 ← if m = 0 then Except.ok s else poolRoomMake s queue idx
        Except.ok (streamPut (entryMod s1 queue idx (fun e => { e with running := true }))
          { queue := queue, idx := idx, tenant := t, slot := cryptSlot e, page := decide (m = 0), wrap := decide (m = 2) })))

/-- CRYPT_SLICE (R407): a 64 KiB slice of a stream runs. `bus`: what its reads of host or peer pages return in order, none when one
failed. -/
def execCryptSlice (queue idx : Nat) (bus : Option (List Byte)) (s : State) : Host.Outcome State Fault Refusal :=
  match streamOf s queue idx, entry s queue idx with
  | some x, some e => .next (cryptSettle s queue idx (cryptSlice s x e bus))
  | _, _ => .next s

/-! ### Key slots (Table 17-3) -/

/-- DST of a CRYPT is undefined from now on (R406): its local bytes hold anything. -/
def cryptUndefined (s : State) (q idx : Nat) : State :=
  match entry s q idx with
  | none => s
  | some e =>
    let t := queueOwner s q
    match dataXlate s t (dctx e) (ef e 24 8) 0 (elen e) { wr := true } with
    | (_, .ok ps) =>
      if piecesOwned s t ps then
        let f := freeBytes (elen e) s
        (writePieces f.2 t ps f.1 []).1
      else s
    | _ => s

/-- A slot leaves LOADED (R406): a CRYPT that runs on it completes with LOCAL_PROTECTION, and a QP that enciphers with it enters ERROR. -/
def slotLeaves (s : State) (k : Nat) : State :=
  let own := (keySlot s k).owner
  let s1 := slotSet s k { keySlot s k with st := 2 }
  let s2 := (s.cph.streams.filter (fun x => x.slot = k)).foldl (fun s x =>
    cryptUndefined (cryptFail s x.queue x.idx Status.localProtection) x.queue x.idx) s1
  s2.tpe.conns.foldl (fun s e =>
    if encOn s e.1 && decide (e.2.key = k ∧ e.2.st = 2) && decide (connTenant s e.1 = own) then encFails s e.1 else s) s2

/-- The RSP loads a slot for a tenant in all four quadrants (R405). -/
def slotLoad (s : State) (k t : Nat) (key : List Byte) : State :=
  bump (slotSet s k { st := 1, owner := t, key := key, aes128 := decide (key.length = 16) }) Reg.RSP_KEY_LOADS 0

/-- KEY_SLOT_LOAD (R405, Table 17-3): an EMPTY slot is loaded for a tenant, or a slot that waits after a parity error is loaded again. -/
def execKeySlotLoad (slot owner : Nat) (key : List Byte) (s : State) : Host.Outcome State Fault Refusal :=
  let K := keySlot s slot
  if 1024 ≤ slot ∨ 256 ≤ owner ∨ ¬(key.length = 16 ∨ key.length = 32) then .next s
  else if K.st = 0 then .next (slotLoad s slot owner key)
  else if K.st = 1 ∧ K.reloading then .next (bump (slotSet s slot { K with reloading := false }) Reg.RSP_KEY_LOADS 0)
  else .next s

/-- KEY_SLOT_DESTROY (Table 17-3): a LOADED slot refuses new uses. -/
def execKeySlotDestroy (slot : Nat) (s : State) : Host.Outcome State Fault Refusal :=
  if (keySlot s slot).st = 1 then .next (slotLeaves s slot) else .next s

/-- KEY_SLOT_ZEROED (Table 17-3): the pipes are clear of a DESTROYING slot. -/
def execKeySlotZeroed (slot : Nat) (s : State) : Host.Outcome State Fault Refusal :=
  if (keySlot s slot).st = 2 then .next (slotSet s slot {}) else .next s

/-- Reserve slot storage left in a quadrant, and in all. -/
def slotReserve (s : State) (quad : Nat) : Nat := 16 - tget (fun _ => 0) s.cph.resUsed quad

/-- CPH_RESERVE. -/
def slotReserveAll (s : State) : Nat := slotReserve s 0 + slotReserve s 1 + slotReserve s 2 + slotReserve s 3

/-- KEY_SLOT_PARITY (R406): a LOADED slot moves to reserve storage of the quadrant and waits for the RSP to load it again; when that
reserve is spent it is destroyed. -/
def execKeySlotParity (slot quad : Nat) (s : State) : Host.Outcome State Fault Refusal :=
  let K := keySlot s slot
  if K.st ≠ 1 ∨ 4 ≤ quad then .next s
  else if slotReserve s quad = 0 then .next (slotLeaves (spareReport s 7 12 slot 0 none) slot)
  else
    let s1 := slotSet { s with cph := { s.cph with resUsed := tmod (fun _ => 0) s.cph.resUsed quad (· + 1) } } slot
      { K with remapped := true, reloading := true }
    .next (spareReport s1 7 12 slot (slotReserve s1 quad) (some (16 - slotReserve s1 quad)))

/-- CIPHER_PIPE_FAILURE (R402): the pipe leaves service; its slice runs again elsewhere with the same outcome. -/
def execCipherPipeFailure (pipe : Nat) (s : State) : Host.Outcome State Fault Refusal :=
  if s.cph.failed < 32 then
    .next (report { s with cph := { s.cph with failed := s.cph.failed + 1 } }
      { cls := 0x13, sev := 2, unit := 12, code := 3, inst := pipe })
  else .next s

/-- CPH_PIPE_STAT. -/
def pipeStat (s : State) : Nat := 32 - s.cph.failed + s.cph.failed * 64

/-! ### Sealed records (R409 to R412) -/

/-- The pair of a KEYSEL. -/
def sealPair (T : Tenant) (k : Nat) : SealPair := if k = 0 then T.seal0 else T.seal1

/-- The started entries of a tenant that have a transfer range at a place of a context, with the length of the range. -/
def rangeEntries (s : State) (t c base : Nat) : List (Nat × Nat × Nat) :=
  s.queues.foldl (fun l Q =>
    if queueOwner s Q.1 = t then
      l ++ Q.2.entries.filterMap (fun e =>
        if e.phase = 1 ∧ e.taken ∧ dctx e = c then
          ((entrySegs e ++ (localRanges s e).map (fun r => (r.1, r.2.1))).find? (fun r => decide (r.1 = base ∧ r.2 ≠ 0))).map (fun r => (Q.1, e.idx, r.2))
        else none)
    else l) []

/-- The lengths of the transfer ranges at a place of a context: of entries, of responses to peers and of rows of a tile's DMA. -/
def rangeLens (s : State) (t c base : Nat) : List Nat :=
  (rangeEntries s t c base).map (fun r => r.2.2) ++
  (s.tpe.conns.map (fun C => (C.2.send.filterMap (fun m => match m.src with
    | .mem u x segs => if u = t ∧ x = c then (segs.find? (fun g => g.1 = base)).map (·.2) else none
    | _ => none)) ++
    C.2.recv.filterMap (fun m => if m.tenant = t ∧ m.ctx = c ∧ m.base + m.raddr = base ∧ m.admitted then
      some (if m.opc = 0x06 then (region s m.region).len.toNat - m.raddr else m.len) else none))).flatten ++
  (s.tgd.tiles.map (fun T => if tileOwner s T.1 = t ∧ kCtx s T.2.kernel = c then
    T.2.dmas.filterMap (fun d => if rowBase d = base then some d.len else none) else [])).flatten

/-- The plaintext length of record r of a range. -/
def recordLenOf (total r : Nat) : Nat := min 4096 (total - 4096 * r)

/-- The AAD of a record: bytes 0 to 47 (Table 17-4). -/
def recordHeader (dir keysel len seq c t addr : Nat) : List Byte :=
  leBytes 4 (1 + dir * 256 + keysel * 512) ++ leBytes 4 len ++ leBytes 8 seq ++ leBytes 2 c ++ leBytes 1 t ++ leBytes 5 0 ++
  leBytes 8 addr ++ leBytes 16 0

/-- Keeps an opened record. -/
def openedPut (s : State) (o : Opened) : State :=
  { s with cph := { s.cph with opened := s.cph.opened.filter (fun x => !decide (x.ctx = o.ctx ∧ x.base = o.base ∧ x.rec_ = o.rec_)) ++ [o] } }

/-- A record as it came from the bus: checked against the transfer, deciphered, its tag compared (R410, R411). -/
def openRecord (s : State) (t c base r len addr : Nat) (b : List Byte) : State :=
  let T := tenant s t
  let ver := leAt b 0 4
  let P := sealPair T (nfld ver 9 9)
  let K := keySlot s P.host
  let good := decide (nfld ver 7 0 = 1 ∧ nbit ver 8 = false ∧ leAt b 18 1 = t ∧ leAt b 16 2 = c ∧ leAt b 24 8 = addr ∧ nfld (leAt b 4 4) 12 0 = len) &&
    P.valid && decide (K.st = 1 ∧ K.owner = t)
  if !good then openedPut s ⟨c, base, r, [], Status.localProtection⟩
  else
    let x := gcmOpen K.key (P.hostSalt ++ (b.drop 8).take 8) (b.take 48) ((b.drop 64).take len) ((b.drop 48).take 16)
    let s1 := cphBlocks (openedPut s ⟨c, base, r, x.1, if x.2 then Status.ok else Status.authFail⟩) t ((len + 15) / 16)
    if x.2 then s1
    else
      let s2 := bumpFn s1 Reg.CPH_AUTH_FAIL t
      let es := rangeEntries s t c base
      let s3 := accessEvent s2 t Status.authFail 12 c ((es.head?.map (fun e => queueLocal s e.1)).getD 0) addr
      es.foldl (fun s e => entryMod s e.1 e.2.1 (fun e => { e with status := Status.authFail })) s3

/-- SEALED_RECORD_OPEN (R411): record `record` of a transfer range under way is streamed from the bus. `bus`: its bytes, none when the
read failed. -/
def execSealedRecordOpen (tenant_ ctx_ base record : Nat) (bus : Option (List Byte)) (s : State) : Host.Outcome State Fault Refusal :=
  match (rangeLens s tenant_ ctx_ base).find? (fun n => decide (4096 * record < n)) with
  | none => .next s
  | some total =>
    let len := recordLenOf total record
    let addr := base + 4160 * record
    if sealed s tenant_ = false ∨ leadsToBus s ctx_ base = false then .next s
    else match dmaXlate s tenant_ ctx_ addr (64 + len) { rd := true } with
      | (s1, .need a) => .next (stall s1 ctx_ a .tableRead)
      | (s1, .fail _ _) => .next (openedPut s1 ⟨ctx_, base, record, [], Status.localProtection⟩)
      | (s1, .ok ps) => match readPieces s1 tenant_ ps bus with
        | (s2, .ok b) => .next (openRecord s2 tenant_ ctx_ base record len addr b)
        | (s2, _) => .next (openedPut s2 ⟨ctx_, base, record, [], Status.localProtection⟩)

/-- What a record belonged to goes on once it is written, with the peer pages that it wrote. -/
def recordDone (s : State) (g : SealStage) (l : List (Nat × Nat)) : State :=
  let leave := fun (old : List (Nat × Nat)) => l ++ old.filter (fun e => !l.any (fun x => x.1 = e.1))
  if 2 ^ 403 ≤ g.conn then burstStart s ((g.conn - 2 ^ 403) / 2 ^ 64) ((g.conn - 2 ^ 403) % 2 ^ 64)
  else if 2 ^ 402 ≤ g.conn then
    cryptFinish (entryMod s (g.conn - 2 ^ 402) g.msn (fun e => { e with leaves := leave e.leaves })) (g.conn - 2 ^ 402) g.msn
  else if 2 ^ 401 ≤ g.conn then
    let n := g.conn - 2 ^ 401
    scbFinish (entryMod s (grp s n).queue (grp s n).idx (fun e => { e with leaves := leave e.leaves })) n
  else if 2 ^ 400 ≤ g.conn then
    let q := g.conn - 2 ^ 400
    let s1 := entryMod s q g.msn (fun e => { e with leaves := leave e.leaves })
    if sealsOpen s1 g.conn g.msn false then s1
    else entryDone s1 q g.msn Status.ok ((entry s1 q g.msn).elim 0 (fun e => e.len)) 0
  else if g.resp then
    let s1 := match sendMsg s g.conn g.msn false with
      | some m => (match m.by_ with | .entry q i => entryMod s q i (fun e => { e with leaves := leave e.leaves }) | _ => s)
      | none => s
    respCheck s1 g.conn g.msn
  else recvPlaced (recvMod s g.conn g.msn (fun m => { m with leaves := leave m.leaves })) g.conn g.msn

/-- What a record belonged to fails with a status. -/
def recordFails (s : State) (g : SealStage) (st : Nat) : State :=
  if 2 ^ 403 ≤ g.conn then
    let t := (g.conn - 2 ^ 403) / 2 ^ 64
    let id := (g.conn - 2 ^ 403) % 2 ^ 64
    let s1 := match dmaOf s t id with | some d => tagStatus s t d.tag st | none => s
    burstStart s1 t id
  else if 2 ^ 402 ≤ g.conn then cryptFail s (g.conn - 2 ^ 402) g.msn st
  else if 2 ^ 401 ≤ g.conn then scbAbort s (g.conn - 2 ^ 401) st
  else if 2 ^ 400 ≤ g.conn then entryDone s (g.conn - 2 ^ 400) g.msn st 0 0
  else if g.resp then (match sendMsg s g.conn g.msn false with | some m => abandonSend s g.conn m st | none => s)
  else (match recvMsg s g.conn g.msn with | some m => placeFails s g.conn m st | none => s)

/-- Every plaintext byte of a record is there. -/
def recordFull (g : SealStage) : Bool := decide (g.len ≤ g.bytes.length)

/-- SEALED_RECORD_WRITE (R410, R412): a full record in seal staging is sealed with the next SEQ and written. -/
def execSealedRecordWrite (tenant_ ctx_ base record : Nat) (s : State) : Host.Outcome State Fault Refusal :=
  match takeFirst (fun g : SealStage => decide (g.tenant = tenant_ ∧ g.ctx = ctx_ ∧ g.base = base ∧ g.rec_ = record) && recordFull g) s.cph.staging with
  | none => .next s
  | some (g, rest) =>
    let T := tenant s tenant_
    let P := sealPair T T.keysel
    let K := keySlot s P.dev
    let addr := base + 4160 * record
    let s0 := { s with cph := { s.cph with staging := rest } }
    if !P.valid || decide (K.st ≠ 1 ∨ K.owner ≠ tenant_) then .next (recordFails s0 g Status.localProtection)
    else
      let text := (List.range g.len).map (fun i => (tget (fun _ => none) g.bytes i).getD 0)
      let hdr := recordHeader 1 T.keysel g.len T.sealSeq ctx_ tenant_ addr
      let c := gcmSeal K.key (P.devSalt ++ leBytes 8 T.sealSeq) hdr text
      match dmaWrite s0 tenant_ ctx_ addr (hdr ++ c.2 ++ c.1) (if g.ep then [(0, hdr.length + c.2.length + c.1.length)] else []) with
      | (_, .need a) => .next (stall s ctx_ a .tableRead)
      | (s1, .fail st) => .next (recordFails s1 g st)
      | (s1, .ok l) =>
        .next (recordDone (cphBlocks (tenantMod s1 tenant_ (fun T => { T with sealSeq := T.sealSeq + 1 })) tenant_ ((g.len + 15) / 16)) g l)

end Sys2Proof.Machine
end

