-- ==== Sys2Proof/Machine/Life.lean ====
section
/-! DEFINITION. The tenant lifecycle (R123, R429, R430, Table 18-7), SR-IOV and function-level resets (R46, R47), the scrub of frames, tiles
and queues (R326, R384, R398). -/
namespace Sys2Proof.Machine

/-! ### Step 1: quiesce -/

/-- The SPDM session of a requester ends (R422). -/
def sessionEnd (s : State) (who : Nat) : State :=
  { s with rsp := { s.rsp with requesters := tmod (fun _ => {}) s.rsp.requesters who (fun R => { R with session := none }) } }

/-- Records of an invocation that have not started complete with CONTEXT_GONE; its running tiles run on (R340). -/
def dropUnstarted (s : State) (h : Nat) (i : Invocation) : State :=
  let un := i.live.filter (fun t => !runs s t h)
  if un = [] then s
  else fixOutcome (un.foldl (fun s t => invLeave (dropRecord s h i t) h t) s) h Status.contextGone

/-- The open transaction of a function is rolled back (R470). -/
def txnDrop (F : Fn) (result : Nat) : Fn := { F with txn := none, cfgResult := if F.txn.isSome then result else F.cfgResult }

/-- Every VALID region of a tenant becomes REVOKING, and FREE where nothing is admitted (R159, R161). -/
def revokeAll (s : State) (t : Nat) : State :=
  (s.atu.regions.filter (fun R => decide (R.2.state = 1 ∧ regionOwner s R.1 = t))).foldl
    (fun s R => regionMod s R.1 (fun R => { R with state := if R.admitted = 0 then 0 else 2 })) s

/-- Teardown step 1 (R430): TEARDOWN is set, the tenant's transaction is gone, its queues enter ERROR, its collectives abort, records that
have not started complete, its SPDM session ends, its regions are revoked (R161). -/
def quiesce (s : State) (t : Nat) : State :=
  let s1 := fnMod (tenantMod s t (fun T => { T with st := 2 })) t (fun F => { txnDrop F 0x0A with teardown := true })
  let s2 := (s1.queues.filter (fun Q => queueOwner s1 Q.1 = t)).foldl (fun s Q => queueError s Q.1 Status.contextGone) s1
  let s3 := scbTenantGone s2 t
  let s4 := (s3.tgd.invs.filter (fun i => kOwner s3 i.2.kernel = t)).foldl (fun s i => dropUnstarted s i.1 i.2) s3
  revokeAll (sessionEnd s4 t) t

/-- A teardown starts for an ACTIVE tenant; in any other state nothing changes (Table 18-7). -/
def startTeardown (s : State) (t : Nat) : State := if (tenant s t).st = 1 then quiesce s t else s

/-! ### Step 2: drain -/

/-- No transfer issued in a context of the tenant is outstanding. -/
def ctxQuiet (s : State) (t : Nat) : Bool := s.atu.ctxs.all (fun C => !decide (ctxOwner s C.1 = t) || C.2.inflight.isEmpty)

/-- Every admitted access, started entry and running tile of the tenant has ended (R430 step 2). -/
def drainOver (s : State) (t : Nat) : Bool :=
  s.atu.regions.all (fun R => !decide (regionOwner s R.1 = t) || decide (R.2.admitted = 0)) &&
  s.tpe.conns.all (fun C => C.2.recv.all (fun m => !(decide (m.tenant = t ∧ m.opc = 0x0A) && m.admitted && !m.complete))) &&
  s.queues.all (fun Q => !decide (queueOwner s Q.1 = t) || Q.2.entries.all (fun e => !(e.taken && decide (1 ≤ e.phase ∧ e.phase ≤ 2)))) &&
  (List.range (tileCount s.variant)).all (fun u => !decide (tileOwner s u = t ∧ (tile s u).st = 3)) &&
  ctxQuiet s t

/-- A running tile of the tenant is stopped with CONTEXT_GONE (R340, R369). -/
def stopForTenant (s : State) (u : Nat) : State :=
  let T := tile s u
  let s1 := kernelReport s (tileOwner s u) Status.contextGone 0 0 T.kernel u T.handle T.pc 0
  fixOutcome (invLeave (tileStop s1 u) T.handle u) T.handle Status.contextGone

/-- What is unfinished on a connection of another owner: messages that act for the tenant are abandoned, and messages into its regions and
frames end (R161, R185). -/
def abandonFor (s : State) (c t : Nat) : State :=
  let s1 := ((conn s c).send.filter (fun m => decide (m.tenant = t) && !m.acked && decide (m.opc ≠ 0x0F))).foldl
    (fun s m => abandonSend s c m Status.contextGone) s
  ((conn s1 c).recv.filter (fun m => decide (m.tenant = t) && m.admitted && !m.complete)).foldl
    (fun s m => failRecv s c m.msn Status.contextGone Status.contextGone) s1

/-- A QP of the tenant sends CLOSE and enters ERROR with CONTEXT_GONE. -/
def closeQp (s : State) (c : Nat) : State :=
  if (conn s c).st = 0 ∨ (conn s c).st = 4 then s
  else connError (sendConnect s c 3 0 false) c Status.contextGone

/-- The drain bound (R430 step 2): tiles stop, unfinished messages are abandoned, CLOSE goes out on every QP not yet in ERROR. -/
def drainAbort (s : State) (t : Nat) : State :=
  let s1 := ((List.range (tileCount s.variant)).filter (fun u => decide (tileOwner s u = t ∧ (tile s u).st = 3))).foldl stopForTenant s
  let s2 := (s1.tpe.conns.filter (fun C => !decide (connTenant s1 C.1 = t))).foldl (fun s C => abandonFor s C.1 t) s1
  (s2.tpe.conns.filter (fun C => decide (connTenant s2 C.1 = t) && !isChan C.1)).foldl (fun s C => closeQp s C.1) s2

/-! ### Step 3: destroy keys -/

/-- The key set, the cipher slots, the cipher contexts, the sealing pairs and the report key of a tenant are destroyed (R430 step 3). -/
def destroyKeys (s : State) (t : Nat) : State :=
  let s1 := keySetPut s t 0
  let s2 := { s1 with cph := { s1.cph with
    slots := s1.cph.slots.filter (fun K => !decide (K.2.owner = t)),
    streams := s1.cph.streams.filter (fun x => !decide (x.tenant = t)),
    opened := s1.cph.opened.filter (fun o => !decide (ctxOwner s1 o.ctx = t)),
    staging := s1.cph.staging.filter (fun g => !decide (g.tenant = t)) } }
  fevQMod (tenantMod s2 t (fun T => {
    dropKeys T with st := 3 })) (1 + t)
    (fun q => { q with stopped := true })

/-! ### Step 4: scrub -/

/-- Returns the registers of one offset whose index passes a test to their reset values. -/
def regsReset (s : State) (off : Nat) (p : Nat → Bool) : State :=
  { s with regs := s.regs.filter (fun r => !(decide (r.1 / 2 ^ 32 = off) && p (r.1 % 2 ^ 32))) }

/-- The indices under which a register differs from its reset value. -/
def regIdx (s : State) (off : Nat) : List Nat := (s.regs.filter (fun r => decide (r.1 / 2 ^ 32 = off))).map (·.1 % 2 ^ 32)

/-- The OWNER field of the resources that carry it themselves (R463): classes, address handles, multicast groups. -/
def ahOwner (s : State) (h : Nat) : Nat := fld (ahWord s h 0) 39 32

/-- OWNER of a multicast group entry (Table 9-4). -/
def mcOwner (s : State) (g : Nat) : Nat := fld (mcEnt s g) 25 18

/-- Contexts of a tenant take their reset state; their epochs advance as at any clearing of VALID (R430 step 4). -/
def returnCtxs (s : State) (t : Nat) : State :=
  (s.atu.ctxs.filter (fun C => ctxOwner s C.1 = t)).foldl (fun s C =>
    ctxMod (clearValid s C.1) C.1 (fun C => { C with root := 0, fabricEn := false, refused := false, fault := 0 })) s

/-- QPs return to RESET. -/
def returnQps (s : State) (t : Nat) : State :=
  let mine := fun q => decide (owner s 0x03 q = t)
  let s1 := (s.tpe.conns.filter (fun C => !isChan C.1 && mine C.1)).foldl (fun s C => connMod (connClear s C.1) C.1 (fun _ => {})) s
  regsReset (regsReset s1 Reg.CCS_QCFG mine) Reg.CCS_QGMIN mine

/-- Queues become DISABLED, with their configuration at reset and their VF-local numbers free. -/
def returnQueues (s : State) (t : Nat) : State :=
  let mine := fun q => decide (queueOwner s q = t)
  { s with
    queues := s.queues.filter (fun Q => !mine Q.1),
    qlocal := s.qlocal.filter (fun Q => !mine Q.1),
    tenants := s.tenants.map (fun T => (T.1, { T.2 with waiting := T.2.waiting.filter (fun w => !mine w.1) })) }

/-- Regions that are still REVOKING, their accesses aborted, become FREE; their generations stay (R161). -/
def returnRegions (s : State) (t : Nat) : State :=
  let mine := s.atu.regions.filter (fun R => regionOwner s R.1 = t)
  mine.foldl (fun s R => regionMod s R.1 (fun R => { gen := R.gen })) s

/-- The SQM queues of a tenant besides its tiles' channels: its mailboxes and its event queue. -/
def tenantBoxes (s : State) (t : Nat) : List Nat :=
  (0x0100 + t) :: (regIdx s Reg.SQM_QCFG).filter (fun q => isMailbox q && wbit (reg s Reg.SQM_QCFG q) 17 && decide (owner s 0x0E q = t))

/-- Mailboxes lose VALID and return to tenant 0, with the cells that they hold; they and the event queue enter CLEARING (R398). -/
def returnBoxes (s : State) (t : Nat) : State :=
  let l := tenantBoxes s t
  let s1 := l.foldl (fun s q =>
    let s1 := sqmStartClear s q
    if isMailbox q then sqmRecharge (regsReset s1 Reg.SQM_QCFG (· = q)) q t 0 else s1) s
  { (tenantMod s1 t (fun T => { T with clearQueues := l })) with
    rsp := { s1.rsp with boxes := s1.rsp.boxes.filter (fun b => !decide (b.1 = t)) } }

/-- The tiles of a tenant return to tenant 0 and enter CLEARING (R326); one that is being remapped is cleared after that. -/
def returnTiles (s : State) (t : Nat) : State :=
  let l := (List.range (tileCount s.variant)).filter (fun u => decide (tileOwner s u = t ∧ (tile s u).st ≠ 0))
  let s1 := l.foldl (fun s u =>
    let s1 := (List.range 16).foldl (fun s ch => sqmRecharge s (tileQ u ch) t 0) s
    let s2 := regsReset (regsReset s1 Reg.TGD_TOWN (· = u)) Reg.TGD_CDEPTH (fun i => decide (i / 16 = u))
    if (tile s u).st = 4 then s2 else tileStartClear s2 u) s
  tenantMod s1 t (fun T => { T with clearTiles := l })

/-- Classes, address handles, multicast groups, collective groups and kernel entries take their reset values. -/
def returnEntries (s : State) (t : Nat) : State :=
  let cls := fun i => decide (4 ≤ i % 64 ∧ clsOwner s (i / 64) (i % 64) = t)
  let s1 := regsReset (regsReset (regsReset s Reg.CCS_CLS_CFG cls) Reg.CCS_SHP_CFG cls) Reg.CCS_CLS_CMIN cls
  let s2 := { s1 with ccs := { s1.ccs with classes := s1.ccs.classes.filter (fun c => !cls c.1) } }
  let ah := fun i => decide (ahOwner s i = t)
  let s3 := [0, 1, 2, 3].foldl (fun x w => regsReset x (Reg.EMAC_AH_ENTw + 8 * w) ah) s2
  let s4 := regsReset s3 Reg.FRT_MC_ENT (fun i => decide (mcOwner s i = t))
  let gr := fun i => decide (gOwner s i = t)
  let s5 := [0, 1, 2, 3].foldl (fun x w => regsReset x (Reg.SCB_GENTw + 8 * w) gr) s4
  let s6 := { s5 with scb := { s5.scb with groups := s5.scb.groups.filter (fun g => !gr g.1) } }
  [0, 1, 2, 3].foldl (fun x w => regsReset x (Reg.TGD_KENTw + 8 * w) (fun i => decide (kOwner s i = t))) s6

/-- SCRUB is set on every frame that the tenant owns. -/
def scrubFrames (s : State) (t : Nat) : State :=
  (s.mem.frames.filter (fun F => decide (F.2.alloc ∧ F.2.owner = t))).foldl (fun s F =>
    frameMod s F.1 (fun F => { F with scrub := true })) s

/-- The start of step 4, at one place in the order of commits (R430, R468). -/
def scrubStart (s : State) (t : Nat) : State :=
  let s1 := returnEntries (returnTiles (returnBoxes (returnRegions (returnQueues (returnQps (returnCtxs (scrubFrames s t) t) t) t) t) t) t) t
  { (tenantMod s1 t (fun T => { T with st := 4 })) with owners := s1.owners.filter (fun o => !decide (o.2 = t)) }

/-! ### Step 5: finish -/

/-- A tenant becomes ACTIVE (Table 18-7): a fresh key set in every controller, its mailboxes VALID, its measurement zero, its event queue
in service. -/
def activate (s : State) (t : Nat) : State :=
  let s1 := boxesValid (keySetLoad s t 15) t
  bump (fevRestart (tenantMod s1 t (fun T => { st := 1, lastStatus := T.lastStatus })) (1 + t)) Reg.RSP_KEY_LOADS 0

/-- Everything is wiped before debug access or RMA (R433 steps 3 and 4): every key is destroyed and drawn anew, all device memory, every
tile and every SQM queue is cleared. -/
def wipeAll (s : State) : State :=
  let d := deviceKeys { s with mem := { s.mem with keySets := [] } }
  let s1 := { d with
    mem := { d.mem with bytes := [], blocks := [], frames := [], tileScrub := [] },
    cph := { d.cph with slots := [], opened := [], staging := [], streams := [] },
    sqm := { State.reset.sqm with tileQuad := d.sqm.tileQuad },
    tgd := { d.tgd with
      tiles := d.tgd.tiles.map (fun T => (T.1, if T.2.st = 0 then T.2 else { st := 2, onSpare := T.2.onSpare, site := T.2.site })),
      invs := [], records := [], resv := [], staging := 0 } }
  scrubOver s1

/-- No tenant of slots 0 to 252 is being torn down. -/
def noTeardown (s : State) : Bool := s.tenants.all (fun T => !decide (T.1 ≤ 252 ∧ 2 ≤ T.2.st))

/-- A teardown finishes (R430 step 5): EMPTY, TEARDOWN clear, its TENANT entries done, one event to the PF; tenant 0 is ACTIVE again at
once. What waited for every teardown goes on (R433, R434). -/
def lifeEnd (s : State) (t : Nat) : State :=
  let w := (tenant s t).waiting
  let s1 := tenantMod s t (fun T => { st := 0, meas := T.meas, lastStatus := Status.ok })
  let s2 := fnMod s1 t (fun F => { F with teardown := false })
  let s3 := if t = 0 then activate s2 0 else s2
  let s4 := report (bump (finishAll s3 w) Reg.RSP_TEARDOWNS 0)
    { cls := 0x11, status := Status.ok, sev := 0, unit := 13, tenant := t, inst := t }
  if s4.rsp.scrubFor ≠ 0 ∧ noTeardown s4 then wipeAll s4 else s4

/-- A teardown in step 4 finishes once the last frame, tile and queue are clear. -/
def lifeCheck (s : State) (t : Nat) : State :=
  let T := tenant s t
  if T.st = 4 ∧ T.clearTiles = [] ∧ T.clearQueues = [] ∧ ¬ s.mem.frames.any (fun F => F.2.scrub && decide (F.2.owner = t)) then lifeEnd s t
  else s

/-- Checks every teardown. -/
def lifeChecks (s : State) : State := s.tenants.foldl (fun s T => lifeCheck s T.1) s

/-- Steps 3 and 4 follow step 2. -/
def afterDrain (s : State) (t : Nat) : State := lifeCheck (scrubStart (destroyKeys s t) t) t

/-- The drain ends at its bound: steps 3 and 4 follow once nothing that was issued is outstanding. -/
def drainBound (s : State) (t : Nat) : State :=
  let s1 := tenantMod (drainAbort s t) t (fun T => { T with st := 3 })
  if ctxQuiet s1 t then afterDrain s1 t else s1

/-! ### The commands of the lifecycle -/

/-- DRAIN_COMPLETE (R430): nothing of the tenant is under way, or, after the bound, nothing that was issued is outstanding. -/
def execDrainComplete (tenant_ : Nat) (s : State) : Host.Outcome State Fault Refusal :=
  let T := tenant s tenant_
  if (T.st = 2 ∧ drainOver s tenant_ = true) ∨ (T.st = 3 ∧ ctxQuiet s tenant_ = true) then .next (afterDrain s tenant_) else .next s

/-- DRAIN_BOUND (R430): 4 ms have passed since step 1. -/
def execDrainBound (tenant_ : Nat) (s : State) : Host.Outcome State Fault Refusal :=
  if (tenant s tenant_).st = 2 then .next (drainBound s tenant_) else .next s

/-- The slot a TENANT entry names. -/
def entrySlot (e : Entry) : Nat := nfld (ef e 44 4) 15 8

/-- A started TENANT entry of a TOP. -/
def tenantVerb (s : State) (q idx top : Nat) : Option Entry :=
  (readyVerb s q idx 0x24).bind (fun e => if nfld (ef e 44 4) 1 0 = top then some e else none)

/-- TENANT_ACTIVATE (R123, Table 18-7): an EMPTY slot whose VF exists. It waits while Mayfly cannot serve (R417), and while all keys are
being destroyed for debug access (R433). -/
def execTenantActivate (queue idx : Nat) (s : State) : Host.Outcome State Fault Refusal :=
  match tenantVerb s queue idx 0 with
  | none => .next s
  | some e =>
    let t := entrySlot e
    if (tenant s t).st ≠ 0 ∨ fnExists s t = false then .next (entryDone s queue idx Status.badDescriptor 0 0)
    else if s.rsp.entropyOk = false ∨ s.rsp.scrubFor ≠ 0 then .next s
    else .next (entryDone (activate s t) queue idx Status.ok 0 0)

/-- TENANT_TEARDOWN (R123, R430): an EMPTY slot completes at once; otherwise the entry finishes with the teardown. -/
def execTenantTeardown (queue idx : Nat) (s : State) : Host.Outcome State Fault Refusal :=
  match tenantVerb s queue idx 1 with
  | none => .next s
  | some e =>
    let t := entrySlot e
    if (tenant s t).st = 0 then .next (entryDone s queue idx Status.ok 0 0)
    else
      let s1 := entryMod (startTeardown s t) queue idx (fun e => { e with running := true })
      .next (tenantMod s1 t (fun T => { T with waiting := T.waiting ++ [(queue, idx)] }))

/-- The state word that QUERY writes (R429). -/
def queryWord (T : Tenant) : Nat := T.st % 8 + T.mode % 4 * 16 + T.lastStatus % 256 * 256

/-- TENANT_QUERY (R123, R429): bytes 48 to 55 of the entry, written before its header word. -/
def execTenantQuery (queue idx : Nat) (s : State) : Host.Outcome State Fault Refusal :=
  match tenantVerb s queue idx 2 with
  | none => .next s
  | some e =>
    let s1 := entryMod s queue idx (fun x => { x with writes := [(48, leBytes 8 (queryWord (tenant s (entrySlot e))))] })
    .next (entryDone s1 queue idx Status.ok 0 0)

/-- TERMITE_FRAME_CLEARED (R384): the last block of a frame is accepted, and the frame returns to the free pool; a frame that R382 has
marked is kept out of it and counted. -/
def execTermiteFrameCleared (frame : Nat) (s : State) : Host.Outcome State Fault Refusal :=
  let F := Machine.frame s frame
  if inTile s.variant (frame * 2 ^ 21) ∨ F.scrub = false then .next s
  else
    let s1 := frameMod (zeroRange s (frame * 2 ^ 21) (2 ^ 21)) frame (fun F => { quarantine := F.quarantine })
    let s2 := { s1 with mem := { s1.mem with quarantined := s1.mem.quarantined + b2n F.quarantine } }
    .next (lifeCheck s2 F.owner)

/-- SQM_QUEUE_CLEAR (R398): the cells of a queue in CLEARING are zeroed and returned; it leaves CLEARING empty. -/
def execSqmQueueClear (queue : Nat) (s : State) : Host.Outcome State Fault Refusal :=
  if (sqmQ s queue).clearing then
    let s1 := sqmClear s queue (sqmTenant s queue)
    .next (lifeChecks { s1 with tenants := s1.tenants.map (fun T => (T.1, { T.2 with clearQueues := T.2.clearQueues.filter (· ≠ queue) })) })
  else .next s

/-- TILE_CLEAR_DONE (R326, Table 13-9): memory, registers and channels are zero, the frames are handed over, the tile is IDLE. -/
def execTileClearDone (t : Nat) (s : State) : Host.Outcome State Fault Refusal :=
  if (tile s t).st = 1 then
    let s1 := tileMod (tileClear s t) t (fun T => { st := 2, onSpare := T.onSpare, site := T.site })
    let s2 := { s1 with mem := { s1.mem with tileScrub := tset (fun _ => false) s1.mem.tileScrub t false } }
    .next (lifeChecks { s2 with tenants := s2.tenants.map (fun T => (T.1, { T.2 with clearTiles := T.2.clearTiles.filter (· ≠ t) })) })
  else .next s

/-! ### SR-IOV and function-level resets (R46, R47) -/

/-- The selector registers (R491) and the other registers that a function keeps for itself. -/
def fnRegs : List Nat :=
  [ Reg.WQM_QSEL, Reg.ATU_CSEL, Reg.ATU_FOT_SEL, Reg.TPE_QSEL, Reg.CCS_QSEL, Reg.CCS_ESEL, Reg.CCS_CSEL, Reg.FRT_LSEL, Reg.FRT_MC_SEL,
    Reg.FRT_UR_SEL, Reg.EMAC_PSEL, Reg.EMAC_PFC_SEL, Reg.EMAC_FLT_SEL, Reg.EMAC_RXQ_SEL, Reg.EMAC_AH_SEL, Reg.LNS_LSEL, Reg.LNS_CSEL,
    Reg.LNS_MOD_SEL, Reg.SCB_GSEL, Reg.TGD_TSEL, Reg.TGD_CSEL, Reg.TGD_KSEL, Reg.MEM_CSEL, Reg.MEM_KSEL, Reg.SQM_QSEL, Reg.SQM_TSEL,
    Reg.CPH_KSEL, Reg.CPH_TSEL, Reg.RSP_TSEL, Reg.MGT_RES_SEL, Reg.FEV_CLS_SEL, Reg.FEV_SPARE_SEL, Reg.MGT_GRANT_LO, Reg.HIF_WIN_BASE,
    Reg.HIF_WIN_CTX ]

/-- A function takes its reset state: ABI, vectors, window, selectors, its open transaction (R47, R67, R470, R491). Tokens are never
repeated within a boot (R459). -/
def fnReset (s : State) (fn : Nat) : State :=
  let s1 := fnMod s fn (fun F =>
    { teardown := F.teardown, nextToken := F.nextToken, cfgBusy := F.cfgBusy, cfgResult := if F.txn.isSome then 0x0A else F.cfgResult })
  portsEmpty (fnRegs.foldl (fun s off => regsReset s off (· = fn)) s1) fn

/-- VF Enable clears (R46): every VF tenant that is not EMPTY is torn down. -/
def vfsGone (s : State) : State :=
  let s1 := { s with hif := { s.hif with vfEnable := false } }
  (s1.tenants.filter (fun T => decide (1 ≤ T.1 ∧ T.1 ≤ 252))).foldl (fun s T => startTeardown s T.1) s1

/-- NUMVFS_WRITE (R46): ignored while VF Enable is set, and beyond TotalVFs. -/
def execNumvfsWrite (n : Nat) (s : State) : Host.Outcome State Fault Refusal :=
  if !hostUp s || s.hif.vfEnable || decide (252 < n) then .next s else .next { s with hif := { s.hif with numVfs := n } }

/-- VF_ENABLE_SET (R46, R442): VFs 1 to NumVFs exist; refused in minimal mode. -/
def execVfEnableSet (s : State) : Host.Outcome State Fault Refusal :=
  if !hostUp s || s.boot.minimal then .next s else .next { s with hif := { s.hif with vfEnable := true } }

/-- VF_ENABLE_CLEAR (R46). -/
def execVfEnableClear (s : State) : Host.Outcome State Fault Refusal :=
  if hostUp s && s.hif.vfEnable then .next (vfsGone s) else .next s

/-- VF_FLR (R47). -/
def execVfFlr (vf : Nat) (s : State) : Host.Outcome State Fault Refusal :=
  if hostUp s && fnExists s vf && decide (vf ≠ 0) then .next (fnReset (startTeardown s vf) vf) else .next s

/-- PF_FLR (R47): VF Enable clears and every tenant is torn down, tenant 0 with them (R429). -/
def execPfFlr (s : State) : Host.Outcome State Fault Refusal :=
  if hostUp s then .next (fnReset (startTeardown (vfsGone s) 0) 0) else .next s

end Sys2Proof.Machine
end

