-- ==== Sys2Proof/Machine/Rsp.lean ====
section
/-! DEFINITION. The root security processor (chapter 18): mailboxes (R423, R424), SPDM (R421, R422), the RSP commands and keys (R425 to R427),
report mode (R428), Mayfly (R416, R417), debug and RMA tokens (R432 to R434). The codes of SPDM messages are those of DSP0274 (PRESUMED,
log 37). -/
namespace Sys2Proof.Machine

/-! ### HMAC and HKDF with SHA-384 (R428) -/

/-- SHA-384 as bytes, most significant first. -/
def sha384Bytes (l : List Byte) : List Byte := beBytes 48 (sha384 l).toNat

/-- HMAC-SHA-384: blocks of 128 bytes. -/
def hmac384 (key msg : List Byte) : List Byte :=
  let k := padTo 128 (if 128 < key.length then sha384Bytes key else key)
  sha384Bytes (k.map (· ^^^ 0x5C) ++ sha384Bytes (k.map (· ^^^ 0x36) ++ msg))

/-- HKDF-SHA-384 for at most one block of output: extract with a salt, expand with an info string. -/
def hkdf384 (salt secret info : List Byte) (n : Nat) : List Byte := (hmac384 (hmac384 salt secret) (info ++ [1])).take n

/-- The info string of the report key: "tristacon report" (R428). -/
def reportInfo : List Byte := [0x74, 0x72, 0x69, 0x73, 0x74, 0x61, 0x63, 0x6F, 0x6E, 0x20, 0x72, 0x65, 0x70, 0x6F, 0x72, 0x74]

/-! ### Requesters and sessions -/

/-- A requester: tenant slot s, or 256 + m for management session m over MCTP. -/
def requester (s : State) (who : Nat) : Requester := tget (fun _ => {}) s.rsp.requesters who

/-- Rewrites a requester. -/
def requesterMod (s : State) (who : Nat) (f : Requester → Requester) : State :=
  { s with rsp := { s.rsp with requesters := tmod (fun _ => {}) s.rsp.requesters who f } }

/-- Rewrites the session of a requester. -/
def sessionMod (s : State) (who : Nat) (f : Session → Session) : State :=
  requesterMod s who (fun R => { R with session := R.session.map f })

/-- The open session of a requester, FINISH done. -/
def openSession (s : State) (who : Nat) : Option Session := (requester s who).session.bind (fun x => if x.established then some x else none)

/-- Sealing of a tenant is bound to its open session (RSP_MBX_STAT.BOUND, R420). -/
def sealBound (s : State) (t : Nat) : Bool :=
  match (requester s t).session, (tenant s t).bound with
  | some x, some b => decide (x.id = b ∧ (tenant s t).mode = 1)
  | _, _ => false

/-- A message body as the session of a requester secures it. -/
def secured (s : State) (who : Nat) (b : List Byte) : List Byte :=
  match (requester s who).session with
  | some x => Config.secureSeal x.secret x.keyGen b
  | none => b

/-- An SPDM response: into the tenant's mailbox with the kind and tag of its request, or out over MCTP. -/
def spdmReply (s : State) (who : Nat) (sec : Bool) (b : List Byte) : State :=
  let body := if sec then secured s who b else b
  if who < 256 then
    match (box s who).msg with
    | some (k, tag, _) => rspReply s who k tag Status.ok body
    | none => s
  else emit s (.rsp who (b2n sec) 0 Status.ok body)

/-- An SPDM ERROR response with a code. -/
def spdmError (s : State) (who : Nat) (sec : Bool) (code : Byte) : State := spdmReply s who sec [0x13, 0x7F, code, 0]

/-- The request codes that the RSP answers (R422). -/
def spdmCodes : List Nat := [0x84, 0xE1, 0xE3, 0x81, 0x82, 0x83, 0xE0, 0xE4, 0xE5, 0xE8, 0xE9, 0xEC, 0xFE]

/-- What a row of SPDM acts on. -/
inductive SpdmIn
  /-- Nothing that is for this row. -/
  | none_
  /-- The answer is given: an ERROR response. -/
  | answered (s : State)
  /-- The request in clear. -/
  | request (sec : Bool) (b : List Byte)
deriving DecidableEq, Repr

/-- The SPDM message of a requester, for the row of a request code: the message in the tenant's mailbox, or the one that came over MCTP (Table 2-11). A
secured message that does not open, a code that the RSP does not answer, and a requester that chose other algorithms are answered here. -/
def spdmTake (s : State) (who : Nat) (sec : Bool) (bytes : List Byte) (code : Nat) : SpdmIn :=
  let raw := if who < 256 then (box s who).msg.bind (fun m =>
      if 2 ≤ m.1 ∨ (box s who).outWords ≠ [] ∨ (box s who).cmd.isSome then none else some (decide (m.1 = 1), m.2.2))
    else if who < 260 ∧ mctpUp s then some (sec, bytes) else none
  match raw with
  | none => .none_
  | some (sec, b) =>
    let clear := if !sec then some b
      else (requester s who).session.bind (fun x => Config.secureOpen x.secret x.keyGen b)
    match clear with
    | none => .answered (bump (spdmError s who false 0x06) Reg.RSP_SESS_FAIL 0)
    | some m =>
      let c := leAt m 1 1
      if !spdmCodes.contains c then .answered (spdmError s who sec 0x07)
      else if c ≠ code then .none_
      else if (requester s who).refused ∧ code ≠ 0x84 then .answered (spdmError s who sec 0x07)
      else .request sec m

/-- Runs a row of SPDM on its request. -/
def onSpdm (s : State) (who : Nat) (sec : Bool) (bytes : List Byte) (code : Nat) (f : Bool → List Byte → State) :
    Host.Outcome State Fault Refusal :=
  match spdmTake s who sec bytes code with
  | .none_ => .next s
  | .answered s1 => .next s1
  | .request sec b => .next (f sec b)

/-- A request that needs an open session: secured, after FINISH; otherwise UnexpectedRequest. It is a sign of life (R422). -/
def inSession (s : State) (who : Nat) (sec : Bool) (f : Session → State → State) : State :=
  match openSession s who with
  | some x => if sec then f x (sessionMod s who (fun y => { y with lastBeat := s.time })) else spdmError s who sec 0x04
  | none => spdmError s who sec 0x04

/-- A request that the connection's phase allows: 1 version, 2 capabilities, 3 algorithms. -/
def atPhase (s : State) (who : Nat) (sec : Bool) (n : Nat) (f : State) : State :=
  if n ≤ (requester s who).phase then f else spdmError s who sec 0x04

/-! ### The SPDM requests -/

/-- GET_VERSION (R421): version 1.3 only. -/
def execGetVersion (who : Nat) (secured : Bool) (bytes : List Byte) (s : State) : Host.Outcome State Fault Refusal :=
  onSpdm s who secured bytes 0x84 (fun sec _ =>
    spdmReply (requesterMod s who (fun R => { R with phase := 1, refused := false })) who sec [0x10, 0x04, 0, 0, 0, 1, 0x00, 0x13])

/-- The capability flags of Table 18-3 at their DSP0274 places: CERT, CHAL, MEAS signed, ENCRYPT, MAC, KEY_EX, HBEAT, KEY_UPD. -/
def spdmFlags : Nat := 2 + 4 + 0x10 + 0x40 + 0x80 + 0x200 + 0x2000 + 0x4000

/-- GET_CAPABILITIES (R421, Table 18-3). CTExponent is free: the spec gives none. -/
def execGetCapabilities (who : Nat) (secured : Bool) (bytes : List Byte) (s : State) : Host.Outcome State Fault Refusal :=
  onSpdm s who secured bytes 0xE1 (fun sec _ => atPhase s who sec 1 (
    let f := freeBytes 1 s
    spdmReply (requesterMod f.2 who (fun R => { R with phase := 2 })) who sec
      ([0x13, 0x61, 0, 0, 0] ++ f.1 ++ [0, 0] ++ leBytes 4 spdmFlags ++ leBytes 4 8192 ++ leBytes 4 8192)))

/-- An algorithm table of a type in a NEGOTIATE_ALGORITHMS request: its AlgSupported and its external algorithms. -/
def algTable : Nat → Nat → List Byte → Option (Nat × List (List Byte))
  | 0, _, _ => none
  | n + 1, ty, l =>
    let ext := leAt l 1 1 % 16
    if leAt l 0 1 = ty then some (leAt l 2 2, (List.range ext).map (fun i => (l.drop (4 + 4 * i)).take 4))
    else algTable n ty (l.drop (4 + 4 * ext))

/-- The request selects exactly the set of Table 18-3 (R421): SHA-384, extended ECDSA, extended ECDH, AES-256-GCM, the SPDM key schedule. -/
def algsExact (b : List Byte) : Bool :=
  let asym := leAt b 28 1
  let tables := b.drop (32 + 4 * asym + 4 * leAt b 29 1)
  let n := leAt b 2 1
  let ids := fun (l : List (List Byte)) => l.map (fun e => leAt e 2 2)
  decide (leAt b 8 4 = 0 ∧ leAt b 12 4 = 2 ∧ asym = 1 ∧ leAt b 29 1 = 0 ∧ leAt (b.drop 32) 2 2 = 1) &&
  decide ((algTable n 2 tables).map (fun t => (t.1, ids t.2)) = some (0, [2])) &&
  decide ((algTable n 3 tables).map (fun t => (t.1, ids t.2)) = some (2, [])) &&
  decide ((algTable n 5 tables).map (fun t => (t.1, ids t.2)) = some (1, []))

/-- NEGOTIATE_ALGORITHMS (R421): the answer names the set of Table 18-3; a requester that did not select exactly it fails at its next
request. -/
def execNegotiateAlgorithms (who : Nat) (secured : Bool) (bytes : List Byte) (s : State) : Host.Outcome State Fault Refusal :=
  onSpdm s who secured bytes 0xE3 (fun sec b => atPhase s who sec 2 (
    let body := leBytes 1 1 ++ leBytes 1 0 ++ leBytes 4 2 ++ leBytes 4 0 ++ leBytes 4 2 ++ List.replicate 12 0 ++ [1, 0, 0, 0] ++
      [4, 0, 1, 0] ++ [2, 0x21, 0, 0, 4, 0, 2, 0] ++ [3, 0x20, 2, 0] ++ [5, 0x20, 1, 0]
    spdmReply (requesterMod s who (fun R => { R with phase := 3, refused := !algsExact b })) who sec
      ([0x13, 0x63, 3, 0] ++ leBytes 2 (body.length + 6) ++ body)))

/-- GET_DIGESTS (R418): the digest of certificate slot 0. -/
def execGetDigests (who : Nat) (secured : Bool) (bytes : List Byte) (s : State) : Host.Outcome State Fault Refusal :=
  onSpdm s who secured bytes 0x81 (fun sec _ => atPhase s who sec 3 (
    spdmReply s who sec ([0x13, 0x01, 1, 1] ++ sha384Bytes Config.certChain)))

/-- GET_CERTIFICATE (R418): a portion of the chain of slot 0. -/
def execGetCertificate (who : Nat) (secured : Bool) (bytes : List Byte) (s : State) : Host.Outcome State Fault Refusal :=
  onSpdm s who secured bytes 0x82 (fun sec b => atPhase s who sec 3 (
    if leAt b 2 1 ≠ 0 ∨ Config.certChain.length < leAt b 4 2 then spdmError s who sec 0x01
    else
      let p := (Config.certChain.drop (leAt b 4 2)).take (min (leAt b 6 2) 8000)
      spdmReply s who sec ([0x13, 0x02, 0, 0] ++ leBytes 2 p.length ++
        leBytes 2 (Config.certChain.length - leAt b 4 2 - p.length) ++ p)))

/-- The device's asymmetric keys cannot be derived (R432). -/
def noKeys (s : State) : Bool := decide (s.fuses.lifecycle = 2)

/-- A measurement block in the DMTF format: digests of firmware for indices 1 to 8, raw values for 16 to 18 and for the two bytes of 32. -/
def measureBlock (i : Nat) (v : List Byte) : List Byte :=
  let ty := if i ≤ 8 then 1 else if i = 19 then 3 else 0x83
  leBytes 1 i ++ [1] ++ leBytes 2 (v.length + 3) ++ leBytes 1 ty ++ leBytes 2 v.length ++ v

/-- Index 32 for a tenant (R420): its measurement, MODE and BOUND. -/
def tenantMeasure (s : State) (t : Nat) : List Byte :=
  beBytes 48 (tenant s t).meas.toNat ++ leBytes 1 (tenant s t).mode ++ leBytes 1 (b2n (sealBound s t))

/-- The measurements of a requester by index (Table 18-2). -/
def measurements (s : State) (who : Nat) : List (Nat × List Byte) :=
  s.rsp.measure ++ (if who < 256 then [(32, tenantMeasure s who)] else [])

/-- The digest of every measurement block, in index order. -/
def measureSummary (s : State) (who : Nat) : List Byte :=
  sha384Bytes ((measurements s who).map (fun m => measureBlock m.1 m.2)).flatten

/-- A 32-byte nonce from Mayfly. -/
def drawNonce32 (s : State) : List Byte × State := let d := drawN 4 s; (wordsToBytes d.1, d.2)

/-- A signature by the alias key. -/
def aliasSign (msg : List Byte) : List Byte := padTo 96 (Config.ecdsaSign 0 msg)

/-- CHALLENGE (R422): signed by the alias key; it waits for entropy, and fails in RMA. -/
def execSpdmChallenge (who : Nat) (secured : Bool) (bytes : List Byte) (s : State) : Host.Outcome State Fault Refusal :=
  onSpdm s who secured bytes 0x83 (fun sec b => atPhase s who sec 3 (
    if noKeys s then spdmError s who sec 0x05
    else if leAt b 2 1 ≠ 0 then spdmError s who sec 0x01
    else if !s.rsp.entropyOk then s
    else
      let n := drawNonce32 s
      let m := [0x13, 0x03, 0, 1] ++ sha384Bytes Config.certChain ++ n.1 ++
        (if leAt b 3 1 = 0 then [] else measureSummary s who) ++ [0, 0] ++ padTo 8 (b.drop 36)
      spdmReply n.2 who sec (m ++ aliasSign (b ++ m))))

/-- GET_MEASUREMENTS (R419, R422): the number of blocks, one block or all, signed when asked. -/
def execGetMeasurements (who : Nat) (secured : Bool) (bytes : List Byte) (s : State) : Host.Outcome State Fault Refusal :=
  onSpdm s who secured bytes 0xE0 (fun sec b => atPhase s who sec 3 (
    let all := measurements s who
    let op := leAt b 3 1
    let sel := if op = 0 then [] else if op = 0xFF then all else all.filter (fun m => decide (m.1 = op))
    let rec_ := (sel.map (fun m => measureBlock m.1 m.2)).flatten
    let sign := nbit (leAt b 2 1) 0
    if op ≠ 0 ∧ op ≠ 0xFF ∧ sel = [] then spdmError s who sec 0x01
    else if sign && noKeys s then spdmError s who sec 0x05
    else if !s.rsp.entropyOk then s
    else
      let n := drawNonce32 s
      let m := [0x13, 0x60] ++ leBytes 1 (if op = 0 then all.length else 0) ++ [0] ++ leBytes 1 sel.length ++ leBytes 3 rec_.length ++
        rec_ ++ n.1 ++ [0, 0] ++ padTo 8 (b.drop (if sign then 37 else 4))
      spdmReply n.2 who sec (m ++ (if sign then aliasSign (b ++ m) else []))))

/-- The verify data of a handshake, keyed by the session secret. -/
def verifyData (secret : W64) (who_ : Byte) : List Byte := padTo 48 (Config.kdf (leBytes 8 secret.toNat) [who_] [])

/-- KEY_EXCHANGE (R422): a Mayfly ephemeral key for one exchange; a session that is open refuses another with Busy; it waits for entropy and
fails in RMA. -/
def execKeyExchange (who : Nat) (secured : Bool) (bytes : List Byte) (s : State) : Host.Outcome State Fault Refusal :=
  onSpdm s who secured bytes 0xE4 (fun sec b => atPhase s who sec 3 (
    if noKeys s then bump (spdmError s who sec 0x05) Reg.RSP_SESS_FAIL 0
    else if (requester s who).session.isSome then bump (spdmError s who sec 0x03) Reg.RSP_SESS_FAIL 0
    else if leAt b 3 1 ≠ 0 then spdmError s who sec 0x01
    else if !s.rsp.entropyOk then s
    else
      let h := s.freeCtr
      let n := drawNonce32 (draw s).2
      let id := s.rsp.nextSession
      let secret := w64 (leNat ((Config.kdf (Config.ecdhShared h ((b.drop 40).take 96)) b []).take 8))
      let m := [0x13, 0x64, 10, 0] ++ leBytes 2 id ++ [0, 0] ++ n.1 ++ padTo 96 (Config.ecdhPublic h) ++
        (if leAt b 2 1 = 0 then [] else measureSummary s who) ++ [0, 0]
      let s1 := requesterMod { n.2 with rsp := { n.2.rsp with nextSession := id % 65535 + 1 } } who (fun R =>
        { R with session := some { id := id, ephemeral := some h, secret := secret, lastBeat := s.time } })
      spdmReply s1 who sec (m ++ aliasSign (b ++ m) ++ verifyData secret 0x64)))

/-- FINISH (R422): the session is open, and the ephemeral key is zeroed. Verify data that does not match ends the session. -/
def execSpdmFinish (who : Nat) (secured : Bool) (bytes : List Byte) (s : State) : Host.Outcome State Fault Refusal :=
  onSpdm s who secured bytes 0xE5 (fun sec b =>
    match (requester s who).session with
    | none => spdmError s who sec 0x04
    | some x =>
      if x.established ∨ sec = false then spdmError s who sec 0x04
      else if (b.drop 4).take 48 ≠ verifyData x.secret 0xE5 then
        bump (requesterMod (spdmError s who sec 0x06) who (fun R => { R with session := none })) Reg.RSP_SESS_FAIL 0
      else
        spdmReply (sessionMod s who (fun y => { y with established := true, ephemeral := none, lastBeat := s.time })) who sec
          [0x13, 0x65, 0, 0])

/-- HEARTBEAT (R422). -/
def execSpdmHeartbeat (who : Nat) (secured : Bool) (bytes : List Byte) (s : State) : Host.Outcome State Fault Refusal :=
  onSpdm s who secured bytes 0xE8 (fun sec _ => inSession s who sec (fun _ s1 => spdmReply s1 who sec [0x13, 0x68, 0, 0]))

/-- HEARTBEAT_EXPIRY (R422): three heartbeats of 10 s are missed; the session ends. -/
def execHeartbeatExpiry (who : Nat) (s : State) : Host.Outcome State Fault Refusal :=
  if (requester s who).session.isSome then .next (bump (sessionEnd s who) Reg.RSP_SESS_FAIL 0) else .next s

/-- KEY_UPDATE (R422): operation 1 or 2 moves the session's keys on; 3 verifies. -/
def execKeyUpdate (who : Nat) (secured : Bool) (bytes : List Byte) (s : State) : Host.Outcome State Fault Refusal :=
  onSpdm s who secured bytes 0xE9 (fun sec b => inSession s who sec (fun _ s1 =>
    let op := leAt b 2 1
    if op = 0 ∨ 3 < op then spdmError s1 who sec 0x01
    else
      spdmReply (if op = 3 then s1 else sessionMod s1 who (fun y => { y with keyGen := y.keyGen + 1 })) who sec
        ([0x13, 0x69] ++ leBytes 1 op ++ leBytes 1 (leAt b 3 1))))

/-- END_SESSION (R422): the session's secrets are zeroed. -/
def execEndSession (who : Nat) (secured : Bool) (bytes : List Byte) (s : State) : Host.Outcome State Fault Refusal :=
  onSpdm s who secured bytes 0xEC (fun sec _ => inSession s who sec (fun _ s1 =>
    sessionEnd (spdmReply s1 who sec [0x13, 0x6C, 0, 0]) who))

/-! ### RSP commands (Table 18-5) -/

/-- The answer to a command: inside the session as a VENDOR_DEFINED response, or under the report key (the form of a report-mode answer is
the model's, log 38). -/
def cmdReply (s : State) (t status : Nat) (payload : List Byte) : State :=
  match (box s t).msg with
  | none => s
  | some (kind, tag, _) =>
    if kind = 2 then
      let T := tenant s t
      let n := leBytes 12 (T.reportCtr + 2 ^ 95)
      let c := gcmSeal T.reportKey n [] payload
      rspReply s t 2 tag status (n ++ c.1 ++ c.2)
    else
      rspReply s t kind tag status (secured s t ([0x13, 0x7E, 0, 0, 4, 0, 0] ++ leBytes 2 payload.length ++ payload))

/-- VENDOR_DEFINED_REQUEST (R422): carries a command of Table 18-5, only inside a tenant's session. -/
def execVendorDefinedRequest (who : Nat) (secured : Bool) (bytes : List Byte) (s : State) : Host.Outcome State Fault Refusal :=
  onSpdm s who secured bytes 0xFE (fun sec b => inSession s who sec (fun _ s1 =>
    if 256 ≤ who then spdmError s1 who sec 0x07
    else
      let p := b.drop (7 + leAt b 6 1)
      let d := (p.drop 2).take (leAt p 0 2)
      let code := leAt d 0 4
      if code = 0 ∨ 5 < code then cmdReply s1 who Status.badDescriptor []
      else boxMod s1 who (fun x => { x with cmd := some (code, d.drop 4) })))

/-- The command of a code that waits in a tenant's box: its payload. -/
def cmdOf (s : State) (t code : Nat) : Option (List Byte) :=
  (box s t).cmd.bind (fun c => if c.1 = code ∧ (box s t).outWords = [] then some c.2 else none)

/-- The command came under a report key. -/
def inReport (s : State) (t : Nat) : Bool := ((box s t).msg.map (fun m => decide (m.1 = 2))).getD false

/-- In sealed mode only the session that enabled sealing commands (R425). -/
def barred (s : State) (t : Nat) : Bool := sealed s t && !sealBound s t

/-- Slots that a tenant holds. -/
def slotsHeld (s : State) (t : Nat) : Nat := (s.cph.slots.filter (fun K => decide (K.2.st ≠ 0 ∧ K.2.owner = t))).length

/-- The lowest EMPTY slot. -/
def freeSlot (s : State) : Option Nat := (List.range 1024).find? (fun k => (keySlot s k).st = 0)

/-- Loads a key into a free slot of a tenant (R425): the slot, or a status. -/
def loadKey (s : State) (t : Nat) (key : List Byte) : Except Nat (State × Nat) :=
  if fld (reg s Reg.RSP_TKEYQ t) 9 0 ≤ slotsHeld s t then .error Status.localLength
  else match freeSlot s with
    | none => .error Status.localProtection
    | some k => .ok (slotLoad s k t key, k)

/-- KEY_LOAD (R425): a 32-byte key that the tenant supplies. -/
def execKeyLoad (fn : Nat) (s : State) : Host.Outcome State Fault Refusal :=
  match cmdOf s fn 0x01 with
  | none => .next s
  | some p =>
    if barred s fn then .next (cmdReply s fn Status.localProtection [])
    else if p.length ≠ 32 then .next (cmdReply s fn Status.badDescriptor [])
    else match loadKey s fn p with
      | .error st => .next (cmdReply s fn st [])
      | .ok (s1, k) => .next (cmdReply s1 fn Status.ok (leBytes 4 k))

/-- KEY_GEN (R425): Mayfly draws the key; it waits for entropy (R417). -/
def execKeyGen (fn : Nat) (s : State) : Host.Outcome State Fault Refusal :=
  match cmdOf s fn 0x02 with
  | none => .next s
  | some _ =>
    if barred s fn then .next (cmdReply s fn Status.localProtection [])
    else if !s.rsp.entropyOk then .next s
    else
      let d := drawN 4 s
      let key := wordsToBytes d.1
      match loadKey d.2 fn key with
      | .error st => .next (cmdReply s fn st [])
      | .ok (s1, k) => .next (cmdReply s1 fn Status.ok (leBytes 4 k ++ key))

/-- KEY_DESTROY (R425, Table 17-3): only a LOADED slot of the tenant. -/
def execKeyDestroy (fn : Nat) (s : State) : Host.Outcome State Fault Refusal :=
  match cmdOf s fn 0x03 with
  | none => .next s
  | some p =>
    let k := leAt p 0 4
    if barred s fn ∨ 1024 ≤ k ∨ (keySlot s k).owner ≠ fn ∨ (keySlot s k).st ≠ 1 then .next (cmdReply s fn Status.localProtection [])
    else .next (cmdReply (slotLeaves s k) fn Status.ok [])

/-- Extends the measurement of a tenant (R420). -/
def extend (s : State) (t : Nat) (record : List Byte) : State :=
  tenantMod s t (fun T => { T with meas := sha384 (beBytes 48 T.meas.toNat ++ record) })

/-- A fresh sealing pair: two keys of 32 bytes and two salts of 4. -/
def drawPair (s : State) : (List Byte × List Byte × List Byte × List Byte) × State :=
  let d := drawN 9 s
  let b := wordsToBytes d.1
  ((b.take 32, (b.drop 32).take 32, (b.drop 64).take 4, (b.drop 68).take 4), d.2)

/-- Loads a sealing pair into slots: the pair, and the bytes that the tenant is given. -/
def loadPair (s : State) (t : Nat) : Except Nat (State × SealPair × List Byte) :=
  let p := drawPair s
  match loadKey p.2 t p.1.1 with
  | .error st => .error st
  | .ok (s1, h) =>
    match loadKey s1 t p.1.2.1 with
    | .error st => .error st
    | .ok (s2, d) =>
      .ok (s2, { valid := true, host := h, dev := d, hostSalt := p.1.2.2.1, devSalt := p.1.2.2.2 },
        leBytes 4 h ++ leBytes 4 d ++ p.1.1 ++ p.1.2.1 ++ p.1.2.2.1 ++ p.1.2.2.2)

/-- The bounce ranges of a SEAL_ENABLE payload: base and length, 8 bytes each. -/
def bounceRanges : Nat → List Byte → List (Nat × Nat)
  | 0, _ => []
  | n + 1, b => if b = [] then [] else (leAt b 0 8, leAt b 8 8) :: bounceRanges n (b.drop 16)

/-- A payload of SEAL_ENABLE is well formed: 1 to 16 ranges, bases and lengths multiples of 64 KiB. -/
def rangesOk (p : List Byte) : Bool :=
  decide (p.length % 16 = 0 ∧ 16 ≤ p.length ∧ p.length ≤ 256) &&
  (bounceRanges 16 p).all (fun r => decide (r.1 % 65536 = 0 ∧ r.2 % 65536 = 0 ∧ r.2 ≠ 0))

/-- SEAL_ENABLE (R426). -/
def execSealEnable (fn : Nat) (s : State) : Host.Outcome State Fault Refusal :=
  match cmdOf s fn 0x04 with
  | none => .next s
  | some p =>
    let T := tenant s fn
    if inReport s fn ∨ T.st ≠ 1 ∨ T.mode ≠ 0 ∨ T.everSealed ∨ s.rsp.debug ≠ 0 ∨ rangesOk p = false then
      .next (cmdReply s fn Status.badDescriptor [])
    else if s.atu.ctxs.any (fun C => decide (ctxOwner s C.1 = fn) && C.2.valid && decide (fld C.2.root 1 0 = 1)) ∨ ctxMode s fn = 1 then
      .next (cmdReply s fn Status.localProtection [])
    else if !s.rsp.entropyOk then .next s
    else match loadPair s fn with
      | .error st => .next (cmdReply s fn st [])
      | .ok (s1, p0, b0) =>
        match loadPair s1 fn with
        | .error st => .next (cmdReply s fn st [])
        | .ok (s2, p1, b1) =>
          let s3 := tenantMod s2 fn (fun T => { T with
            mode := 1, everSealed := true, bound := (requester s fn).session.map (·.id), ranges := bounceRanges 16 p,
            keysel := 0, seal0 := p0, seal1 := p1, sealSeq := 0 })
          .next (cmdReply (extend s3 fn [1]) fn Status.ok (b0 ++ b1))

/-- SEAL_REKEY (R427): the pair of the KEYSEL that device sealing is not using is destroyed and drawn anew, and device sealing moves to
it. -/
def execSealRekey (fn : Nat) (s : State) : Host.Outcome State Fault Refusal :=
  match cmdOf s fn 0x05 with
  | none => .next s
  | some _ =>
    let T := tenant s fn
    if inReport s fn ∨ T.mode ≠ 1 then .next (cmdReply s fn Status.badDescriptor [])
    else if barred s fn then .next (cmdReply s fn Status.localProtection [])
    else if !s.rsp.entropyOk then .next s
    else
      let k := if T.keysel = 0 then 1 else 0
      let old := sealPair T k
      let gone := fun (s : State) (x : Nat) =>
        if (keySlot s x).st = 1 ∧ (keySlot s x).owner = fn then slotSet (slotLeaves s x) x {} else s
      let s1 := if old.valid then gone (gone s old.host) old.dev else s
      match loadPair s1 fn with
      | .error st =>
        .next (cmdReply (tenantMod s1 fn (fun T => if k = 0 then { T with seal0 := {} } else { T with seal1 := {} })) fn st [])
      | .ok (s2, p, b) =>
        let s3 := tenantMod s2 fn (fun T => { (if k = 0 then { T with seal0 := p } else { T with seal1 := p }) with keysel := k })
        .next (cmdReply (extend s3 fn [3, BitVec.ofNat 8 k]) fn Status.ok (leBytes 4 k ++ b))

/-! ### Report mode (R428) -/

/-- The report of Table 18-6 without its signature. -/
def reportBody (s : State) (t h : Nat) (nonce : List Byte) : List Byte :=
  let m := s.rsp.measure
  leBytes 4 1 ++ leBytes 4 t ++ nonce ++ padTo 48 (tget (fun _ => []) m 1) ++
  sha384Bytes ((m.filter (fun x => decide (2 ≤ x.1 ∧ x.1 ≤ 19))).map (·.2)).flatten ++ padTo 96 (Config.ecdhPublic h)

/-- REPORT_REQUEST (R428): a KIND 2 request of an open tenant; the report is signed by the alias key, and the report key derived. -/
def execReportRequest (fn : Nat) (s : State) : Host.Outcome State Fault Refusal :=
  match (box s fn).msg with
  | none => .next s
  | some (kind, tag, b) =>
    let T := tenant s fn
    if kind ≠ 2 ∨ (box s fn).outWords ≠ [] ∨ (box s fn).cmd.isSome ∨ T.mode = 2 then .next s
    else if b.length ≠ 128 ∨ T.st ≠ 1 ∨ T.mode ≠ 0 ∨ s.rsp.debug ≠ 0 ∨ noKeys s then
      .next (rspReply s fn 2 tag Status.badDescriptor [])
    else if !s.rsp.entropyOk then .next s
    else
      let h := s.freeCtr
      let r := reportBody s fn h (b.take 32)
      let key := hkdf384 (b.take 32) (Config.ecdhShared h (b.drop 32)) reportInfo 32
      let s1 := tenantMod (draw s).2 fn (fun T => { T with mode := 2, reportKey := key, reportCtr := 0 })
      .next (rspReply (extend s1 fn [2]) fn 2 tag Status.ok (r ++ aliasSign r))

/-! ### Mailboxes (R423, R424) -/

/-- MAILBOX_DOORBELL (R423): GO is ignored while BUSY. -/
def execMailboxDoorbell (fn : Nat) (s : State) : Host.Outcome State Fault Refusal :=
  let s := dropHeld s fn
  if !hostUp s || !fnExists s fn || (box s fn).busy || !tenantActive s fn then .next s
  else .next (rspCollect (boxMod s fn (fun b => { b with busy := true })) fn)

/-- MAILBOX_TIMEOUT (R424): 1 ms after the doorbell the message is not whole. -/
def execMailboxTimeout (fn : Nat) (s : State) : Host.Outcome State Fault Refusal :=
  let b := box s fn
  if b.busy = false ∨ b.msg.isSome ∨ b.outWords ≠ [] then .next s
  else
    let ws := (sqmQ s (rspIn fn)).words
    let h := (ws.head?.map (·.data)).getD 0
    .next (rspReply (sqmSkip s (rspIn fn) ws.length) fn (fld h 19 16) (fld h 31 24) Status.badDescriptor [])

/-- REPLY_MAILBOX_TIMEOUT (R424): the reply mailbox has been full for 100 ms. -/
def execReplyMailboxTimeout (fn : Nat) (s : State) : Host.Outcome State Fault Refusal :=
  if (box s fn).outWords = [] then .next s
  else .next (bump (boxMod s fn (fun b => { b with outWords := [], busy := false, msg := none, cmd := none })) Reg.RSP_REPLY_DROP 0)

/-! ### Mayfly and the security links (R416, R417) -/

/-- DRBG_RESEED (R417): every 2^20 requests or every second. -/
def execDrbgReseed (s : State) : Host.Outcome State Fault Refusal :=
  if s.rsp.entropyOk then .next { s with rsp := { s.rsp with reseedAt := s.time } } else .next s

/-- ENTROPY_HEALTH_FAIL (R417): the health test of the entropy source fails, or (recovered) passes again. -/
def execEntropyHealthFail (recovered : Bool) (s : State) : Host.Outcome State Fault Refusal :=
  if recovered then .next { s with rsp := { s.rsp with entropyOk := true } }
  else if s.rsp.entropyOk then .next (bump { s with rsp := { s.rsp with entropyOk := false } } Reg.RSP_DRBG_WAIT 0)
  else .next s

/-- DRBG_WAIT_TIMEOUT (R417): a wait of more than 1 s. -/
def execDrbgWaitTimeout (s : State) : Host.Outcome State Fault Refusal :=
  if s.rsp.entropyOk then .next s
  else .next (report { s with rsp := { s.rsp with drbgOk := false } } { cls := 0x07, sev := 3, unit := 13, code := 3 })

/-- SECURITY_LINK_LOSS (R416): a quadrant's RSP destroys every key it holds: the memory key sets of its controllers and its copies of the
cipher slots. -/
def execSecurityLinkLoss (quad : Nat) (s : State) : Host.Outcome State Fault Refusal :=
  if 4 ≤ quad ∨ s.rsp.linkLost.getLsbD quad then .next s
  else
    let bit : BitVec 4 := BitVec.ofNat 4 (2 ^ quad)
    let s1 := s.mem.keySets.foldl (fun s K => keySetPut s K.1 (K.2 &&& ~~~ bit)) s
    let s2 := (s1.cph.slots.filter (fun K => decide (K.2.st = 1))).foldl (fun s K => slotLeaves s K.1) s1
    .next (report { s2 with rsp := { s2.rsp with linkLost := s2.rsp.linkLost ||| bit } }
      { cls := 0x07, sev := 3, unit := 13, code := 2, inst := quad })

/-! ### Tokens (R432 to R434) -/

/-- RSP_DEBUG_NONCE as bytes. -/
def nonceBytes (r : Rsp) : List Byte := wordsToBytes [r.nonce0, r.nonce1, r.nonce2, r.nonce3]

/-- A token is valid: it names this device and the current nonce, and the product CA has signed it (the layout of what is signed is the
model's, log 39). -/
def tokenOk (s : State) (kind : Byte) (t : Token) : Bool :=
  decide (s.fuses.lifecycle = 1 ∧ t.serial = Config.serial ∧ t.nonce = nonceBytes s.rsp) &&
  Config.ecdsaVerify Config.productCaKey (leBytes 8 t.serial.toNat ++ [kind] ++ leBytes 4 t.level ++ t.nonce) t.sig

/-- Every tenant but the firmware services is torn down with a drain bound of 0; the wipe follows the last (R433 steps 2 to 4). -/
def tearAll (s : State) (what : Nat) : State :=
  let s0 := { s with rsp := { s.rsp with scrubFor := what } }
  if !s.pw.mainOn then wipeAll s0
  else
    let ts := (List.range 253).filter (fun t => (tenant s0 t).st ≠ 0)
    let s1 := ts.foldl startTeardown s0
    let s2 := ts.foldl (fun s t => if (tenant s t).st = 2 then drainBound s t else s) s1
    if s2.rsp.scrubFor ≠ 0 ∧ noTeardown s2 then wipeAll s2 else s2

/-- DEBUG_TOKEN (R433): the nonce is redrawn after each token. -/
def execDebugToken (token : Token) (s : State) : Host.Outcome State Fault Refusal :=
  if !s.rsp.entropyOk || decide (s.boot.firstClaim = none) then .next s
  else
    let s1 := drawNonce s
    if tokenOk s 0 token ∧ s.rsp.debug = 0 ∧ s.rsp.scrubFor = 0 then
      .next (tearAll { s1 with rsp := { s1.rsp with debug := 1, debugSeen := max 1 s1.rsp.debugSeen } } 1)
    else .next s1

/-- RMA_TOKEN (R432, R434): the lifecycle becomes RMA after the same destroy-then-scrub. -/
def execRmaToken (token : Token) (s : State) : Host.Outcome State Fault Refusal :=
  if !s.rsp.entropyOk || decide (s.boot.firstClaim = none) then .next s
  else
    let s1 := drawNonce s
    if tokenOk s 1 token ∧ s.rsp.scrubFor = 0 then .next (tearAll s1 2) else .next s1

end Sys2Proof.Machine
end

