-- ==== Sys2Proof/Machine/Sel.lean ====
section
/-! DEFINITION. The registers of access code TX (R7, R460), the selector that governs each of them, and who may reach it. -/
namespace Sys2Proof.Machine

/-- What governs a register: nothing, or the selector registers of its chapter. -/
inductive Sel
  /-- One register for the device. -/
  | one
  /-- CCS_ESEL: an egress point or receive path. -/
  | egress
  /-- CCS_ESEL and CCS_CSEL: a class. -/
  | cls
  /-- CCS_QSEL: a QP of the function's tenant. -/
  | qp
  /-- EMAC_PSEL: a port. -/
  | port
  /-- EMAC_PSEL and the number m of EMAC_CLS_PCPm. -/
  | pcp (m : Nat)
  /-- EMAC_PSEL and EMAC_PFC_SEL. -/
  | pfc
  /-- EMAC_PSEL and EMAC_FLT_SEL. -/
  | filter
  /-- EMAC_PSEL and EMAC_RXQ_SEL. -/
  | rxq
  /-- EMAC_AH_SEL: an address handle. -/
  | handle
  /-- FRT_MC_SEL: a multicast group. -/
  | mcGroup
  /-- SCB_GSEL: a collective group. -/
  | group
  /-- TGD_TSEL: a logical tile. -/
  | tile
  /-- TGD_TSEL and TGD_CSEL: a channel of a tile of the function's tenant. -/
  | chan
  /-- TGD_KSEL: a kernel entry; a VF reaches its own. -/
  | kernel
  /-- SQM_QSEL: a queue that is no tile channel. -/
  | sqmQ
  /-- SQM_TSEL: a tenant. -/
  | sqmTenant
  /-- CPH_TSEL: a tenant. -/
  | cphTenant
  /-- RSP_TSEL: a tenant. -/
  | rspTenant
deriving DecidableEq, Repr

/-- The number under which a register is reached now; none when the selection names nothing that the function may reach (R203, R325,
R328, Table 16-5). Two selectors are packed into one number (log 40). -/
def selIdx (s : State) (fn : Nat) (k : Sel) : Option Nat :=
  let r := fun off hi => fld (reg s off fn) hi 0
  let port := let p := r Reg.EMAC_PSEL 2; if 1 ≤ p ∧ p ≤ 4 then some p else none
  match k with
  | .one => some 0
  | .egress => if r Reg.CCS_ESEL 2 ≤ 4 then some (r Reg.CCS_ESEL 2) else none
  | .cls => if r Reg.CCS_ESEL 2 ≤ 4 then some (clsKey (r Reg.CCS_ESEL 2) (r Reg.CCS_CSEL 5)) else none
  | .qp => let q := r Reg.CCS_QSEL 19; if owner s 0x03 q = fn then some q else none
  | .port => port
  | .pcp m => port.map (fun p => p * 4 + m)
  | .pfc => port.map (fun p => pfcKey p (r Reg.EMAC_PFC_SEL 2))
  | .filter => port.map (fun p => p * 128 + r Reg.EMAC_FLT_SEL 6)
  | .rxq => port.map (fun p => p * 64 + r Reg.EMAC_RXQ_SEL 5)
  | .handle => some (r Reg.EMAC_AH_SEL 11)
  | .mcGroup => some (r Reg.FRT_MC_SEL 12)
  | .group => some (r Reg.SCB_GSEL 11)
  | .tile => let t := r Reg.TGD_TSEL 7; if t < tileCount s.variant then some t else none
  | .chan =>
    let t := r Reg.TGD_TSEL 7
    if t < tileCount s.variant ∧ tileOwner s t = fn then some (t * 16 + r Reg.TGD_CSEL 3) else none
  | .kernel => let n := r Reg.TGD_KSEL 9; if fn = 0 ∨ kOwner s n = fn then some n else none
  | .sqmQ => let q := r Reg.SQM_QSEL 15; if isTileQ q then none else some q
  | .sqmTenant => some (r Reg.SQM_TSEL 7)
  | .cphTenant => some (r Reg.CPH_TSEL 7)
  | .rspTenant => some (r Reg.RSP_TSEL 7)

/-- A TX register: its offset, the fields that are not reserved (R6), what selects it, whether a VF has it (Table 22-1), whether it is 64
bits wide. -/
structure TxRow where
  off : Nat
  mask : Nat
  sel : Sel := .one
  vf : Bool := false
  wide : Bool := false
deriving DecidableEq, Repr

/-- TX registers of MGT, ATU, TPE and CCS. -/
def txRowsA : List TxRow :=
  [ { off := Reg.MGT_PWR_CAP, mask := 0xFFFF }, { off := Reg.MGT_BOOT_TMO, mask := 0xFF }, { off := Reg.MGT_CIC_CFG, mask := 0xFF07 },
    { off := Reg.MGT_PROF_PWR, mask := 0x3FFFFF }, { off := Reg.FEV_RATE, mask := 0xFFFFFF },
    { off := Reg.ATU_RGN_BASE, mask := 0xFFFFFFFFF000, wide := true }, { off := Reg.ATU_RGN_COUNT, mask := 0x1FFFFFF },
    { off := Reg.TPE_MIRROR_BASE, mask := 0xFFFFFFE00000, wide := true },
    { off := Reg.CCS_QGMIN, mask := 0xFFFFFF, sel := .qp, vf := true },
    { off := Reg.CCS_EOVH, mask := 0xFF, sel := .egress }, { off := Reg.CCS_ADMIT_PCT, mask := 0x7F, sel := .egress },
    { off := Reg.CCS_CLS_CFG, mask := 0xFFFFFF, sel := .cls }, { off := Reg.CCS_SHP_CFG, mask := 0xFFFFFFFF, sel := .cls },
    { off := Reg.CCS_CLS_CMIN, mask := 0xFFFFF, sel := .cls }, { off := Reg.CCS_POOL, mask := 0xFFFFF, sel := .egress },
    { off := Reg.CCS_GRANT_CFG, mask := 0xFFFFFFFF, sel := .egress }, { off := Reg.CCS_GRANT_RATE, mask := 0xFFFF, sel := .egress } ]

/-- TX registers of FRT, EMAC and LNS. -/
def txRowsB : List TxRow :=
  [ { off := Reg.FRT_NODE, mask := 0x1FFF }, { off := Reg.FRT_DIM, mask := 0x1F1F1F },
    { off := Reg.FRT_MC_ENT, mask := 0x3FFFFFF, sel := .mcGroup },
    { off := Reg.EMAC_MODE, mask := 3 }, { off := Reg.EMAC_UDP_PORT, mask := 0xFFFF },
    { off := Reg.EMAC_MAC, mask := 0xFFFFFFFFFFFF, sel := .port, wide := true }, { off := Reg.EMAC_CFG, mask := 0x7FFFFFFF, sel := .port },
    { off := Reg.EMAC_FRAME, mask := 0x3FFFF, sel := .port }, { off := Reg.EMAC_IP4, mask := 0xFFFFFFFF, sel := .port },
    { off := Reg.EMAC_IP6_HI, mask := 2 ^ 64 - 1, sel := .port, wide := true },
    { off := Reg.EMAC_IP6_LO, mask := 2 ^ 64 - 1, sel := .port, wide := true },
    { off := Reg.EMAC_PFC_CFG, mask := 0xFFFFFF, sel := .pfc }, { off := Reg.EMAC_PFC_HEAD, mask := 0xFFF, sel := .pfc },
    { off := Reg.EMAC_PFC_QUANTA, mask := 0xFFFF, sel := .pfc }, { off := Reg.EMAC_IRQ, mask := 0xFFF, sel := .port },
    { off := Reg.EMAC_CLS_PCPm, mask := 0x7777777777777777, sel := .pcp 0, wide := true },
    { off := Reg.EMAC_CLS_PCPm + 8, mask := 0x7777777777777777, sel := .pcp 1, wide := true },
    { off := Reg.EMAC_CLS_PCPm + 16, mask := 0x7777777777777777, sel := .pcp 2, wide := true },
    { off := Reg.EMAC_CLS_PCPm + 24, mask := 0x7777777777777777, sel := .pcp 3, wide := true },
    { off := Reg.EMAC_FLT, mask := 0xFFF7FFFFFFF, sel := .filter, wide := true }, { off := Reg.EMAC_RXQ, mask := 0x7FFFF, sel := .rxq },
    { off := Reg.EMAC_AH_ENTw, mask := 0xFFFFFFFF77, sel := .handle, wide := true },
    { off := Reg.EMAC_AH_ENTw + 8, mask := 0xFFFFFFFFFFFF, sel := .handle, wide := true },
    { off := Reg.EMAC_AH_ENTw + 16, mask := 2 ^ 64 - 1, sel := .handle, wide := true },
    { off := Reg.EMAC_AH_ENTw + 24, mask := 2 ^ 64 - 1, sel := .handle, wide := true },
    { off := Reg.LNS_ROT_CFG, mask := 0xFFFF01 }, { off := Reg.LNS_FAIL_THR, mask := 0xFFFFFFFF },
    { off := Reg.LNS_MOD_PWR_MAX, mask := 0xFF } ]

/-- TX registers of SCB, TGD, MEM, SQM, CPH and RSP. -/
def txRowsC : List TxRow :=
  [ { off := Reg.SCB_GENTw, mask := 0x00FFFF3FFFFFFF01, sel := .group, wide := true },
    { off := Reg.SCB_GENTw + 8, mask := 0xFFFFFFFFFFFF, sel := .group, wide := true },
    { off := Reg.SCB_GENTw + 16, mask := 0xFFFF3F7FFF, sel := .group, wide := true },
    { off := Reg.SCB_GENTw + 24, mask := 0, sel := .group, wide := true },
    { off := Reg.SCB_MC_RESERVE, mask := 0xFFFF },
    { off := Reg.TGD_TOWN, mask := 0xFF, sel := .tile }, { off := Reg.TGD_CDEPTH, mask := 0x1FFFF, sel := .chan, vf := true },
    { off := Reg.TGD_KENTw, mask := 0x03FFFFFFFFFFFF03, sel := .kernel, vf := true, wide := true },
    { off := Reg.TGD_KENTw + 8, mask := 2 ^ 64 - 1, sel := .kernel, vf := true, wide := true },
    { off := Reg.TGD_KENTw + 16, mask := 0, sel := .kernel, vf := true, wide := true },
    { off := Reg.TGD_KENTw + 24, mask := 0, sel := .kernel, vf := true, wide := true },
    { off := Reg.MEM_PATROL_CFG, mask := 0x1FF }, { off := Reg.MEM_RET_THR, mask := 0xFFFF },
    { off := Reg.MEM_RETRAIN_CFG, mask := 0xFFFFFF }, { off := Reg.MEM_TERM_CFG, mask := 0x7F },
    { off := Reg.SQM_QCFG, mask := 0xFF03FFFF, sel := .sqmQ }, { off := Reg.SQM_TQUOTA, mask := 0x3FFFF, sel := .sqmTenant },
    { off := Reg.CPH_PIPE_CFG, mask := 0xF3F }, { off := Reg.CPH_TCFG, mask := 3, sel := .cphTenant },
    { off := Reg.CPH_TSAVE_CTX, mask := 0xFFFF, sel := .cphTenant },
    { off := Reg.CPH_TSAVE_BASE, mask := 0xFFFFFFFFFFFFFF80, sel := .cphTenant, wide := true },
    { off := Reg.CPH_TSAVE_COUNT, mask := 0x1FFFF, sel := .cphTenant }, { off := Reg.RSP_TKEYQ, mask := 0x3FF, sel := .rspTenant } ]

/-- Every TX register but MGT_GRANT_HI. -/
def txRows : List TxRow := txRowsA ++ txRowsB ++ txRowsC

/-- The TX register at an offset. -/
def txRow (off : Nat) : Option TxRow := txRows.find? (fun r => r.off = off)

/-- The register block at an offset answers a function (R4, R439). -/
def blockAlive (s : State) (b : Nat) : Bool :=
  alwaysBlock b || (running s && !(decide (b = 9) && decide (tileCount s.variant = 0)))

/-- The key of a TX register under a selection number: EMAC_CLS_PCPm is kept under its first offset. -/
def txKey (off : Nat) : Nat :=
  if Reg.EMAC_CLS_PCPm ≤ off ∧ off ≤ Reg.EMAC_CLS_PCPm + 24 then Reg.EMAC_CLS_PCPm else off

end Sys2Proof.Machine
end

