-- ==== Sys2Proof/Machine/Txn.lean ====
section
/-! DEFINITION. Configuration transactions (chapter 20): staging, grants, the rules of COMMIT, the apply, and profiles. -/
namespace Sys2Proof.Machine

/-! ### The fields of a staged record -/

/-- The record is a grant record (R463); its offset reads 0xFF_FFFF (Table 20-4). -/
def isGrant (r : Staged) : Bool := r.off = 0xFFFFFF

/-- KIND, FIRST and COUNT of a grant record, and TENANT, WITHDRAW, LOCAL. -/
def gKind (r : Staged) : Nat := fld r.grantLo 31 24
def gFirst (r : Staged) : Nat := fld r.grantLo 23 0
def gCount (r : Staged) : Nat := fld r.grantLo 55 32
def gTenant (r : Staged) : Nat := fld r.value 7 0
def gBack (r : Staged) : Bool := wbit r.value 8
def gLocal (r : Staged) : Nat := fld r.value 20 9

/-- The indices that a grant record covers. -/
def gIdxs (r : Staged) : List Nat := (List.range (gCount r)).map (· + gFirst r)

/-- The register block that a record touches (R469); grant records touch MGT, which holds the ownership map. -/
def blockOf (r : Staged) : Nat := if isGrant r then 14 else r.off / 2 ^ 20

/-- The frame number of an index of kind HBM_FRAME or LPDDR_FRAME (Table 20-1). -/
def gFrame (kind idx : Nat) : Nat := if kind = 7 then idx + lpddrBase / 2 ^ 21 else idx

/-! ### Staging (R459 to R463) -/

/-- The function can reach its MGT registers. -/
def cfgUp (s : State) (fn : Nat) : Bool := hostUp s && fnExists s fn

/-- The n-th token of a function: never 0, not repeated before 2^32 − 1 tokens (R459). -/
def tokenOf (fn n : Nat) : Nat := (Config.tokenStart fn + n) % (2 ^ 32 - 1) + 1

/-- BEGIN (R459): opens a transaction; ignored with BUSY while one is open, and while a COMMIT is processed (R467). -/
def txBegin (s : State) (fn : Nat) : State :=
  let F := fnGet s fn
  if F.cfgBusy then s
  else if F.txn.isSome then fnMod s fn (fun F => { F with cfgResult := 9 })
  else fnMod s fn (fun F => { F with
    txn := some { token := tokenOf fn F.nextToken, touched := s.time }, nextToken := F.nextToken + 1 })

/-- Records in the device-wide staging store (R462): of open transactions and of commits under way. -/
def stagedTotal (s : State) : Nat :=
  s.fns.foldl (fun n F => n + (match F.2.txn with | none => 0 | some T => T.staged.length)) 0 +
  s.commits.foldl (fun n c => n + c.txn.staged.length) 0

/-- A record joins the transaction (R460, R462): a later write to the same register and selection takes its own, later place; at a limit it
is dropped and the transaction is marked OVERFLOW. -/
def stageInto (T : Txn) (r : Staged) (total now : Nat) : Txn :=
  let rest := if isGrant r then T.staged else T.staged.filter (fun x => !decide (x.off = r.off ∧ x.sel = r.sel))
  let freed := T.staged.length - rest.length
  if 4096 ≤ rest.length ∨ 65536 ≤ total - freed then { T with overflow := true, touched := now }
  else { T with staged := rest ++ [r], touched := now }

/-- A TX write or grant record of a function is staged, or counted as an orphan (R460, R467). -/
def stage (s : State) (fn : Nat) (r : Staged) : State :=
  match (fnGet s fn).txn with
  | some T => fnMod s fn (fun F => { F with txn := some (stageInto T r (stagedTotal s) s.time) })
  | none =>
    let s1 := bump s Reg.MGT_CFG_ORPHAN 0
    if (fnGet s fn).cfgBusy then s1 else fnMod s1 fn (fun F => { F with cfgResult := 6 })

/-- A write of a TX register (R460): reserved bits are dropped (R6), and the selection now in effect is kept with the write. -/
def txWrite (s : State) (fn off : Nat) (value : W64) : State :=
  match txRow off with
  | none => s
  | some row =>
    if !(decide (fn = 0) || row.vf) || !blockAlive s (off / 2 ^ 20) then s
    else match selIdx s fn row.sel with
      | none => s
      | some i => stage s fn { off := off, value := value &&& w64 row.mask, sel := i }

/-- A write of MGT_GRANT_HI (R463), by the PF. -/
def grantWrite (s : State) (value : W64) : State :=
  stage s 0 { off := 0xFFFFFF, value := value &&& 0x1FFFFF, grantLo := reg s Reg.MGT_GRANT_LO 0 }

/-- COMMIT (R461, R467): the right token closes the transaction, sets BUSY, and gives the commit its place in the device-wide order. -/
def txCommit (s : State) (fn token : Nat) (save : Bool) : State :=
  let F := fnGet s fn
  if F.cfgBusy then s
  else match F.txn with
    | none => fnMod s fn (fun F => { F with cfgResult := 6 })
    | some T =>
      if token ≠ T.token then fnMod s fn (fun F => { F with cfgResult := 5, txn := some { T with touched := s.time } })
      else
        { (fnMod s fn (fun F => { F with txn := none, cfgBusy := true, cfgResult := 9 })) with
          commits := s.commits ++ [{ fn := fn, txn := T, save := save && decide (fn = 0) }] }

/-- ROLLBACK (R461): the right token discards every staged write and closes the transaction. -/
def txRollback (s : State) (fn token : Nat) : State :=
  let F := fnGet s fn
  if F.cfgBusy then s
  else match F.txn with
    | none => fnMod s fn (fun F => { F with cfgResult := 6 })
    | some T =>
      if token ≠ T.token then fnMod s fn (fun F => { F with cfgResult := 5, txn := some { T with touched := s.time } })
      else fnMod s fn (fun F => { F with txn := none, cfgResult := 0x0A })

/-! ### Applying a record -/

/-- The value that a staged write gives its register: a VF does not write OWNER of a kernel entry (R328). -/
def stagedValue (s : State) (fn : Nat) (r : Staged) : W64 :=
  if fn ≠ 0 ∧ r.off = Reg.TGD_KENTw then (r.value &&& ~~~0xFF00#64) ||| (reg s Reg.TGD_KENTw r.sel &&& 0xFF00#64) else r.value

/-- One index of a grant record takes its new owner (R463 to R465). -/
def grantOne (s : State) (r : Staged) (i : Nat) : State :=
  let k := gKind r
  let t := if gBack r then 0 else gTenant r
  if k = 6 ∨ k = 7 then
    if gBack r then frameMod s (gFrame k i) (fun F => { F with scrub := true })
    else
      let d := draw s
      frameMod d.2 (gFrame k i) (fun F => { F with alloc := true, owner := t, scrub := false, shared := wbit d.1 0 })
  else
    let s1 := setOwner s k i t
    if k = 2 then
      { s1 with qlocal := tset (fun _ => 0) s1.qlocal i (if t = 0 then 0 else gLocal r + (i - gFirst r) + 1) }
    else if k = 0x0E then sqmRecharge s1 i (owner s 0x0E i) t else s1

/-- A record takes effect: registers, owners, tiles that enter CLEARING (R326), mailboxes that lose VALID (R398), group entries (R299). -/
def applyRec (fn : Nat) (s : State) (r : Staged) : State :=
  if isGrant r then (gIdxs r).foldl (fun s i => grantOne s r i) s
  else
    let v := stagedValue s fn r
    let s1 := setReg s (txKey r.off) r.sel v
    if r.off = Reg.TGD_TOWN then
      let old := tileOwner s r.sel
      let new := fld v 7 0
      if old = new then s1
      else
        let s2 := (List.range 16).foldl (fun s ch => sqmRecharge s (tileQ r.sel ch) old new) s1
        let s3 := setOwner s2 0x08 r.sel new
        if (tile s3 r.sel).st = 0 then s3 else tileStartClear s3 r.sel
    else if r.off = Reg.SQM_QCFG then
      (if isMailbox r.sel ∧ wbit (reg s Reg.SQM_QCFG r.sel) 17 = true ∧ wbit v 17 = false then sqmStartClear s1 r.sel else s1)
    else if Reg.SCB_GENTw ≤ r.off ∧ r.off ≤ Reg.SCB_GENTw + 24 then scbGroupCommitted s1 r.sel
    else s1

/-- The state with every record applied, in staging order (R467). -/
def applyAll (fn : Nat) (s : State) (l : List Staged) : State := l.foldl (applyRec fn) s

/-! ### RANGE (Table 20-2) -/

/-- The resource that a register belongs to, for MGT_CFG_RES; 0 where none does (Table 20-1). -/
def resOf (off i : Nat) : Nat :=
  let inWords := fun b => decide (b ≤ off ∧ off ≤ b + 24)
  if off = Reg.CCS_CLS_CFG ∨ off = Reg.CCS_SHP_CFG ∨ off = Reg.CCS_CLS_CMIN then resId 0x0A i
  else if off = Reg.CCS_QGMIN then resId 0x03 i
  else if off = Reg.CCS_EOVH ∨ off = Reg.CCS_ADMIT_PCT then resId 0x14 i
  else if off = Reg.CCS_POOL ∨ off = Reg.CCS_GRANT_CFG ∨ off = Reg.CCS_GRANT_RATE then resId 0x11 i
  else if off = Reg.SCB_MC_RESERVE then resId 0x11 0
  else if off = Reg.FRT_MC_ENT then resId 0x0D i
  else if inWords Reg.EMAC_AH_ENTw then resId 0x0B i
  else if inWords Reg.SCB_GENTw then resId 0x0C i
  else if inWords Reg.TGD_KENTw then resId 0x09 i
  else if off = Reg.TGD_TOWN then resId 0x08 i
  else if off = Reg.TGD_CDEPTH then resId 0x08 (i / 16)
  else if off = Reg.SQM_QCFG then (if isMailbox i then resId 0x0E i else 0)
  else if off = Reg.CPH_PIPE_CFG then resId 0x12 0
  else if off = Reg.EMAC_CFG ∨ off = Reg.EMAC_FRAME then resId 0x10 i
  else if off = Reg.EMAC_PFC_CFG ∨ off = Reg.EMAC_PFC_HEAD then resId 0x10 (i / 8)
  else if off = Reg.SQM_TQUOTA ∨ off = Reg.CPH_TCFG ∨ off = Reg.CPH_TSAVE_CTX ∨ off = Reg.CPH_TSAVE_BASE ∨ off = Reg.CPH_TSAVE_COUNT ∨
    off = Reg.RSP_TKEYQ then resId 0x13 i
  else 0

/-- A value lies outside a range. -/
def outside (lo hi v : Nat) : Bool := decide (v < lo ∨ hi < v)

/-- HIGH, LOW and HEADROOM of a priority break R273. -/
def pfcBad (n : State) (p prio : Nat) : Bool :=
  pfcOn n p prio && (decide (pfcHigh n p prio ≤ pfcLow n p prio) || decide (pfcHead n p prio < 2 * maxFrame n p))

/-- A port breaks R273 in one of its PFC priorities. -/
def portPfcBad (n : State) (p : Nat) : Bool := (List.range 8).any (pfcBad n p)

/-- A VALID address handle breaks Table 10-4. -/
def handleBad (n : State) (h : Nat) : Bool :=
  let w := ahWord n h 0
  wbit w 0 && (outside 1 4 (fld w 6 4) || (wbit w 2 && outside 1 4094 (fld w 31 20)))

/-- A VALID group entry breaks the sizes of R297. -/
def groupBad (n : State) (g : Nat) : Bool :=
  wbit (gent n g 0) 0 && (decide (65536 < gMembers n g ∨ gMembers n g ≤ gSelf n g) || outside 2 15 (gSlots n g) ||
    decide (fld (gent n g 2) 39 24 = 0))

/-- A VALID kernel entry breaks a range of Table 13-2. -/
def kernelBad (n : State) (k : Nat) : Bool :=
  let first := fld (kent n k 0) 39 32
  let count := fld (kent n k 0) 47 40
  kValid n k && (outside 1 160 count || decide (tileCount n.variant < first + count) || decide (kEntry n k % 8 ≠ 0 ∨ 0x100000 ≤ kEntry n k) ||
    outside 1 4096 (kQuota n k))

/-- FRT_NODE lies outside FRT_DIM, or a size is outside 1 to 16 (R226). -/
def nodeBad (n : State) : Bool :=
  (List.range 3).any (fun i => outside 1 16 (dimSize n i)) || !inDim n (ownNode n)

/-- A class breaks the ranges of its registers: a weight of 0 (R217), a rate without a burst, a CMIN of a strict class. -/
def clsBad (n : State) (i : Nat) : Bool :=
  (decide (4 ≤ i % 64) && decide (fld (reg n Reg.CCS_CLS_CFG i) 15 0 = 0)) ||
  (decide (fld (reg n Reg.CCS_SHP_CFG i) 19 0 ≠ 0) && decide (fld (reg n Reg.CCS_SHP_CFG i) 31 20 = 0)) ||
  (decide (i % 64 < 4) && decide (fld (reg n Reg.CCS_CLS_CMIN i) 19 0 ≠ 0))

/-- Range rules of CCS, FRT, EMAC and LNS registers. -/
def rangeBadA (n : State) (off i : Nat) : Bool :=
  let v := fun hi lo => fld (reg n off i) hi lo
  if off = Reg.CCS_ADMIT_PCT then outside 50 95 (v 6 0)
  else if off = Reg.CCS_CLS_CFG ∨ off = Reg.CCS_SHP_CFG ∨ off = Reg.CCS_CLS_CMIN then clsBad n i
  else if off = Reg.CCS_GRANT_CFG then decide (v 7 0 = 0 ∨ v 31 16 = 0)
  else if off = Reg.FRT_NODE ∨ off = Reg.FRT_DIM then nodeBad n
  else if off = Reg.FRT_MC_ENT then wbit (mcEnt n i) 0 && (outside 0 11 (v 17 14) && decide (v 17 14 ≠ 15))
  else if off = Reg.EMAC_MODE then decide (v 1 0 = 3)
  else if off = Reg.EMAC_FRAME then outside 64 9216 (v 13 0) || outside 1 8 (v 17 14) || portPfcBad n i
  else if off = Reg.EMAC_CFG then decide (64 < v 30 24) || portPfcBad n i
  else if off = Reg.EMAC_PFC_CFG ∨ off = Reg.EMAC_PFC_HEAD then pfcBad n (i / 8) (i % 8)
  else if off = Reg.EMAC_FLT then wbit (reg n off i) 36 && wbit (reg n off i) 37
  else if off = Reg.EMAC_RXQ then wbit (reg n off i) 12 && decide (v 18 13 = 0)
  else if Reg.EMAC_AH_ENTw ≤ off ∧ off ≤ Reg.EMAC_AH_ENTw + 24 then handleBad n i
  else if off = Reg.LNS_ROT_CFG then decide (v 15 8 = 0 ∨ v 23 16 = 0)
  else if off = Reg.LNS_MOD_PWR_MAX then outside 1 25 (v 7 0)
  else false

/-- Range rules of the other registers. -/
def rangeBadB (n : State) (off i : Nat) : Bool :=
  let v := fun hi lo => fld (reg n off i) hi lo
  if off = Reg.MGT_PWR_CAP then outside 500 1500 (v 15 0)
  else if off = Reg.MGT_BOOT_TMO then outside 30 255 (v 7 0)
  else if off = Reg.MGT_CIC_CFG then decide (v 15 8 = 0)
  else if off = Reg.MGT_PROF_PWR then decide (6 < v 3 0 ∨ 2048 < v 15 4 + 252 * v 19 16)
  else if off = Reg.FEV_RATE then decide (v 15 0 = 0 ∨ v 23 16 = 0)
  else if off = Reg.ATU_RGN_COUNT then decide (v 24 0 % 1024 ≠ 0 ∨ 16777216 < v 24 0)
  else if Reg.SCB_GENTw ≤ off ∧ off ≤ Reg.SCB_GENTw + 24 then groupBad n i
  else if off = Reg.TGD_CDEPTH then outside 16 65536 (v 16 0)
  else if Reg.TGD_KENTw ≤ off ∧ off ≤ Reg.TGD_KENTw + 24 then kernelBad n i
  else if off = Reg.MEM_PATROL_CFG then decide (v 7 0 = 0)
  else if off = Reg.MEM_RET_THR then decide (v 15 0 = 0)
  else if off = Reg.MEM_RETRAIN_CFG then outside 10 10000 (v 15 0) || outside 1 20 (v 23 16)
  else if off = Reg.MEM_TERM_CFG then outside 10 100 (v 6 0)
  else if off = Reg.SQM_QCFG then outside (if i < 0x0200 then 64 else 16) 65536 (v 16 0)
  else if off = Reg.SQM_TQUOTA then decide (122880 < v 17 0)
  else if off = Reg.CPH_PIPE_CFG then decide (v 5 0 % 2 = 1 ∨ 28 < v 5 0 ∨ v 11 8 = 0)
  else if off = Reg.CPH_TCFG then decide (v 1 0 = 3)
  else if off = Reg.CPH_TSAVE_COUNT then outside 1 65536 (v 16 0)
  else false

/-- How many indices a kind has that grant records name; 0 for every other kind (R463, Table 20-1). -/
def kindSize (n : State) (k : Nat) : Nat :=
  match k with
  | 1 => 65536
  | 2 => 131072
  | 3 => 2 ^ 20
  | 4 => 4096
  | 5 => 16384
  | 6 => hbmBytes n.variant / 2 ^ 21
  | 7 => lpddrBytes n.variant / 2 ^ 21
  | 0x0E => 0x5000
  | _ => 0

/-- A grant record is out of range (R464, R465). -/
def grantBad (n : State) (r : Staged) : Bool :=
  decide (gCount r = 0 ∨ 252 < gTenant r ∨ kindSize n (gKind r) < gFirst r + gCount r) ||
  (decide (gKind r = 0x0E) && decide (gFirst r < 0x1000)) ||
  (decide (gKind r = 2 ∧ gTenant r ≠ 0) && !gBack r && decide (4096 < gLocal r + gCount r))

/-- RANGE of a record in the resulting state: the resource it names. -/
def rangeFail (n : State) (r : Staged) : Option Nat :=
  if isGrant r then (if grantBad n r then some (fld r.grantLo 31 0) else none)
  else if rangeBadA n r.off r.sel || rangeBadB n r.off r.sel then some (resOf r.off r.sel) else none

/-! ### STATE -/

/-- A withdrawn index is still in use (R464). -/
def inUse (s : State) (k i : Nat) : Bool :=
  match k with
  | 1 => (ctx s i).valid
  | 2 => decide ((queue s i).st ≠ 0)
  | 3 => decide ((conn s i).st ≠ 0)
  | 5 => s.atu.regions.any (fun R => decide (R.1 / 1024 = i ∧ R.2.state ≠ 0))
  | _ => false

/-- A word of a kernel entry, without VALID. -/
def kernelRest (s : State) (k : Nat) : List Nat := [(kent s k 0).toNat / 2, (kent s k 1).toNat]

/-- STATE of a record: `s` is the state in effect, `n` the resulting one. -/
def stateFail (s n : State) (r : Staged) : Option Nat :=
  let i := r.sel
  if isGrant r then
    (if gBack r then ((gIdxs r).find? (inUse s (gKind r))).map (resId (gKind r)) else none)
  else if Reg.SCB_GENTw ≤ r.off ∧ r.off ≤ Reg.SCB_GENTw + 24 then (if (grp s i).st = 1 then some (resId 0x0C i) else none)
  else if Reg.TGD_KENTw ≤ r.off ∧ r.off ≤ Reg.TGD_KENTw + 24 then
    (if kInUse s i ≠ 0 ∧ kernelRest s i ≠ kernelRest n i then some (resId 0x09 i)
     else if kValid n i then ((kTiles n i).find? (fun t => (tile s t).st = 0)).map (resId 0x08) else none)
  else if r.off = Reg.TGD_TOWN then
    (if tileOwner s i ≠ tileOwner n i ∧ ((tile s i).st = 1 ∨ (tile s i).st = 4) then some (resId 0x08 i) else none)
  else if r.off = Reg.FRT_MC_ENT then
    (if wbit (mcEnt n i) 0 && (mcLinks (mcEnt n i)).any (fun l => !isUp s l) then some (resId 0x0D i) else none)
  else none

/-! ### CONFLICT -/

/-- The tenant that an OWNER field of a register gives its resource to; none for a register without one. -/
def ownerField (s : State) (off i : Nat) : Option Nat :=
  if off = Reg.CCS_CLS_CFG then some (clsOwner s (i / 64) (i % 64))
  else if off = Reg.EMAC_AH_ENTw then some (ahOwner s i)
  else if off = Reg.FRT_MC_ENT then some (mcOwner s i)
  else if off = Reg.SCB_GENTw then some (gOwner s i)
  else if off = Reg.TGD_KENTw then some (kOwner s i)
  else if off = Reg.TGD_TOWN then some (tileOwner s i)
  else none

/-- A change of an OWNER field from a sealed tenant, or from or to one that is not ACTIVE (R420, R470). -/
def ownerFail (s n : State) (r : Staged) : Option Nat :=
  match ownerField s r.off r.sel, ownerField n r.off r.sel with
  | some a, some b =>
    if a = b then none
    else if sealed s a || !tenantActive s a then some (resId 0x13 a)
    else if !tenantActive s b then some (resId 0x13 b) else none
  | _, _ => none

/-- CONFLICT of one index of a grant record, as the owners stand after the earlier records (R464, R465). -/
def grantClash (s : State) (r : Staged) (i : Nat) : Bool :=
  let k := gKind r
  let t := gTenant r
  if k = 6 ∨ k = 7 then
    let F := frame s (gFrame k i)
    if gBack r then !(F.alloc && !F.scrub && decide (F.owner = t)) else F.alloc || F.scrub || F.quarantine
  else if k = 0x0E ∧ isRspMailbox i then true
  else if gBack r then decide (owner s k i ≠ t)
  else decide (owner s k i ≠ 0 ∧ owner s k i ≠ t)

/-- The queue context that a VF-local number is already bound to, if it is another one (R465). -/
def localTaken (s : State) (r : Staged) (i : Nat) : Option Nat :=
  if gKind r = 2 ∧ gBack r = false ∧ gTenant r ≠ 0 then
    (s.qlocal.find? (fun e => decide (e.2 = gLocal r + (i - gFirst r) + 1 ∧ e.1 ≠ i ∧ queueOwner s e.1 = gTenant r))).map (·.1)
  else none

/-- CONFLICT of a grant record (R464, R465, R470). -/
def grantFail (s : State) (r : Staged) : Option Nat :=
  let t := gTenant r
  if !tenantActive s t || (gBack r && sealed s t) then some (resId 0x13 t)
  else match (gIdxs r).find? (grantClash s r) with
    | some i => some (resId (gKind r) i)
    | none => ((gIdxs r).findSome? (localTaken s r)).map (resId 0x02)

/-- The first CONFLICT among the grant records, each against the state after the records before it. -/
def grantsFail (fn : Nat) : State → List Staged → Option (Nat × Staged)
  | _, [] => none
  | s, r :: l =>
    match (if isGrant r then grantFail s r else none) with
    | some x => some (x, r)
    | none => grantsFail fn (applyRec fn s r) l

/-- A tile may not move: it is RUNNING or has records queued (R325). -/
def tileHeld (s : State) (t : Nat) : Bool :=
  decide ((tile s t).st = 3) || (List.range 16).any (fun ch => (firstRecord s (tileQ t ch)).isSome)

/-- A VALID kernel entry claims a tile that its owner does not hold (R325). -/
def tileClash (n : State) (t : Nat) : Bool :=
  (List.range 1024).any (fun k => kValid n k && (kTiles n k).contains t && decide (kOwner n k ≠ tileOwner n t))

/-- CONFLICT of a kernel entry: its tiles, its context, its class (Table 13-2). -/
def kernelFail (n : State) (k : Nat) : Option Nat :=
  if !kValid n k then none
  else match (kTiles n k).find? (fun t => tileOwner n t ≠ kOwner n k) with
    | some t => some (resId 0x08 t)
    | none =>
      if ctxOwner n (kCtx n k) ≠ kOwner n k then some (resId 0x01 (kCtx n k))
      else if !classOf n 0 (kClass n k) (kOwner n k) then some (resId 0x0A (kClass n k)) else none

/-- A receive queue's endpoint is raw on another port, or becomes raw while queues serve it for transport traffic (R268). -/
def rawClash (s n : State) (i : Nat) : Bool :=
  let w := reg n Reg.EMAC_RXQ i
  let ep := fld w 11 0
  wbit w 12 &&
  ((List.range 256).any (fun k =>
      let j := (k / 64 + 1) * 64 + k % 64
      let x := reg n Reg.EMAC_RXQ j
      decide (j / 64 ≠ i / 64) && wbit x 12 && decide (fld x 11 0 = ep)) ||
   ((rawOf s ep).isNone && s.queues.any (fun q => decide (q.2.st ≠ 0 ∧ bindType q.2 = 2 ∧ bindId q.2 = ep))))

/-- The claims on a present port's receive buffer do not fit (R224, R273). -/
def bufferClash (n : State) (p : Nat) : Bool := portPresent n p && decide (rxBuffer n < bufferClaims n p + 2 * maxFrame n p)

/-- The first port that passes a test, as its receive-buffer resource. -/
def firstPort (f : Nat → Bool) : Option Nat := ([1, 2, 3, 4].find? f).map (resId 0x10)

/-- A VALID mailbox whose TENANT is not its owner, or an RSP mailbox that SQM_QCFG names (R397, Table 20-1). -/
def boxClash (n : State) (q : Nat) : Bool :=
  isMailbox q && (isRspMailbox q || (wbit (reg n Reg.SQM_QCFG q) 17 && decide (fld (reg n Reg.SQM_QCFG q) 31 24 ≠ owner n 0x0E q)))

/-- A class of the fabric that a VALID kernel entry or group entry uses for a tenant that does not own it in the resulting state (R215,
R297, Table 13-2). -/
def classClash (n : State) (i : Nat) : Bool :=
  decide (i < 64) &&
  ((regIdx n Reg.TGD_KENTw).any (fun k => kValid n k && decide (kClass n k = i) && !classOf n 0 i (kOwner n k)) ||
   (regIdx n Reg.SCB_GENTw).any (fun g => wbit (gent n g 0) 0 && decide (gClass n g = i) && !classOf n 0 i (gOwner n g)))

/-- A context that a VALID kernel entry names and whose owner is not the entry's in the resulting state (Table 13-2). -/
def ctxClash (n : State) (i : Nat) : Bool :=
  (regIdx n Reg.TGD_KENTw).any (fun k => kValid n k && decide (kCtx n k = i) && decide (ctxOwner n i ≠ kOwner n k))

/-- CONFLICT of a register write: `s` is the state in effect, `n` the resulting one. -/
def regFail (s n : State) (r : Staged) : Option Nat :=
  let i := r.sel
  let off := r.off
  (ownerFail s n r).orElse (fun _ =>
  if off = Reg.TGD_TOWN then
    (if tileOwner s i ≠ tileOwner n i ∧ (tileHeld s i || tileClash n i) = true then some (resId 0x08 i) else none)
  else if Reg.TGD_KENTw ≤ off ∧ off ≤ Reg.TGD_KENTw + 24 then kernelFail n i
  else if Reg.SCB_GENTw ≤ off ∧ off ≤ Reg.SCB_GENTw + 24 then
    (if wbit (gent n i 0) 0 && !classOf n 0 (gClass n i) (gOwner n i) then some (resId 0x0A (gClass n i)) else none)
  else if off = Reg.CCS_CLS_CFG then (if classClash n i then some (resId 0x0A i) else none)
  else if off = Reg.EMAC_RXQ then (if rawClash s n i then some (resId 0x04 (fld (reg n off i) 11 0)) else none)
  else if off = Reg.EMAC_MODE then firstPort (bufferClash n)
  else if off = Reg.CCS_POOL ∧ 1 ≤ i then firstPort (fun p => decide (p = i) && bufferClash n p)
  else if off = Reg.EMAC_CFG ∨ off = Reg.EMAC_FRAME then firstPort (fun p => decide (p = i) && bufferClash n p)
  else if off = Reg.EMAC_PFC_CFG ∨ off = Reg.EMAC_PFC_HEAD then firstPort (fun p => decide (p = i / 8) && bufferClash n p)
  else if off = Reg.SCB_MC_RESERVE ∨ off = Reg.CCS_POOL then
    (if poolSize n 0 / 2 < fld (reg n Reg.SCB_MC_RESERVE 0) 15 0 then some (resId 0x11 0) else none)
  else if off = Reg.SQM_QCFG then (if boxClash n i then some (resId 0x0E i) else none)
  else if off = Reg.CPH_TCFG then (if sealed s i = true ∧ ctxMode n i = 1 then some (resId 0x13 i) else none)
  else none)

/-- A grant leaves a VALID mailbox whose TENANT is not its owner (R397), or a VALID kernel entry whose context is another's (R329). -/
def grantBoxFail (n : State) (r : Staged) : Option Nat :=
  if isGrant r ∧ gKind r = 0x0E then ((gIdxs r).find? (boxClash n)).map (resId 0x0E)
  else if isGrant r ∧ gKind r = 1 then ((gIdxs r).find? (ctxClash n)).map (resId 0x01)
  else none

/-! ### ADMISSION (R221) -/

/-- The rate of an egress point that R221 takes: its current capacity, or the nominal one when EMAC_MODE changes (R258) and when a profile
is applied at boot. -/
def rateOf (n : State) (nominal : Bool) (e : Nat) : Nat :=
  if nominal = false then ecapOf n e
  else if e = 0 then 960000
  else if !portPresent n e then 0
  else match fld (reg n Reg.EMAC_MODE 0) 1 0 with | 0 => 40000 | 1 => 80000 | _ => 160000

/-- The committed receive rates of a path as configured, in units per ms. -/
def gminSum (n : State) (p : Nat) : Nat :=
  (regIdx n Reg.CCS_QGMIN).foldl (fun a c => if !isChan c && decide (connPath n c = p) then a + qgminCfg n c else a) 0

/-- An egress point breaks R221. -/
def egressOver (n : State) (nominal : Bool) (e : Nat) : Bool := decide (admitPct n e * rateOf n nominal e < eadmit n e * 100)

/-- A receive path breaks R221: its configured rates count, whatever factor is in effect (R222). -/
def pathOver (n : State) (p : Nat) : Bool := decide (admitPct n p * fld (reg n Reg.CCS_GRANT_RATE p) 15 0 * 1000 < gminSum n p * 100)

/-- ADMISSION of a record in the resulting state: the EGRESS resource. -/
def admitFail (n : State) (nominal : Bool) (r : Staged) : Option Nat :=
  let off := r.off
  if off = Reg.EMAC_MODE then ([1, 2, 3, 4].find? (egressOver n true)).map (resId 0x14)
  else if off = Reg.CCS_SHP_CFG ∨ off = Reg.CCS_CLS_CMIN then
    (if egressOver n nominal (r.sel / 64) then some (resId 0x14 (r.sel / 64)) else none)
  else if off = Reg.CCS_ADMIT_PCT then
    (if egressOver n nominal r.sel then some (resId 0x14 r.sel)
     else if pathOver n r.sel then some (resId 0x14 (0x10 + r.sel)) else none)
  else if off = Reg.CCS_GRANT_RATE then (if pathOver n r.sel then some (resId 0x14 (0x10 + r.sel)) else none)
  else if off = Reg.CCS_QGMIN then
    (if pathOver n (connPath n r.sel) then some (resId 0x14 (0x10 + connPath n r.sel)) else none)
  else none

/-! ### COMMIT -/

/-- The first record that fails a rule, with the resource it names. -/
def firstFail (f : Staged → Option Nat) (l : List Staged) : Option (Nat × Staged) := l.findSome? (fun r => (f r).map (fun x => (x, r)))

/-- The result of Table 20-2 for a set of records against the state in effect: none when it is valid, else the code, the resource and the
offset of the first failure in the table's order. -/
def txCheck (s : State) (fn : Nat) (nominal overflow : Bool) (l : List Staged) : Option (Nat × Nat × Nat) :=
  let n := applyAll fn s l
  let regs := l.filter (fun r => !isGrant r)
  let mode := nominal || l.any (fun r => r.off = Reg.EMAC_MODE)
  if overflow then some (7, 0, 0)
  else match firstFail (rangeFail n) l with
    | some x => some (3, x.1, x.2.off)
    | none => match firstFail (stateFail s n) l with
      | some x => some (4, x.1, x.2.off)
      | none => match (grantsFail fn s l).orElse (fun _ => (firstFail (regFail s n) regs).orElse (fun _ => firstFail (grantBoxFail n) l)) with
        | some x => some (1, x.1, x.2.off)
        | none => (firstFail (fun r => admitFail n (mode && decide (r.sel / 64 ≠ 0)) r) regs).map (fun x => (2, x.1, x.2.off))

/-- What changes hands in a commit (R420): the tenant, the resource, and whether it is granted. Tenant 0 appears only where a record
names it. -/
def txMoves (s n : State) (r : Staged) : List (Nat × Nat × Bool) :=
  if isGrant r then (gIdxs r).map (fun i => (gTenant r, resId (gKind r) i, !gBack r))
  else match ownerField s r.off r.sel, ownerField n r.off r.sel with
    | some a, some b => if a = b then [] else [(a, resOf r.off r.sel, false), (b, resOf r.off r.sel, true)]
    | _, _ => []

/-- The registers whose value a commit changes. -/
def txChanged (s n : State) (l : List Staged) : List (Nat × Nat) :=
  (l.filter (fun r => !isGrant r && decide (reg s (txKey r.off) r.sel ≠ reg n (txKey r.off) r.sel))).map (fun r => (r.off, r.sel))

/-- COMMIT_VALIDATE of the first commit in the device-wide order (R468): a failure is named and applies nothing. -/
def commitValidate (s : State) : State :=
  match s.commits with
  | [] => s
  | c :: rest =>
    if c.validated then s
    else
      let l := c.txn.staged
      match txCheck s c.fn false c.txn.overflow l with
      | some f =>
        fnMod (bump { s with commits := rest } Reg.MGT_CFG_FAILS 0) c.fn (fun F =>
          { F with cfgBusy := false, cfgResult := f.1, cfgRes := f.2.1, cfgOff := f.2.2 })
      | none =>
        let n := applyAll c.fn s l
        { s with commits := { c with validated := true, changed := txChanged s n l, moves := l.flatMap (txMoves s n) } :: rest }

/-- The blocks that a commit touches. -/
def touchedBlocks (c : Commit) : List Nat := (c.txn.staged.map blockOf).eraseDups

/-- The measurement of every tenant whose resources a commit moves is extended by one record (R420): the token and the resource IDs, each
marked (log 41). -/
def measureMoves (s : State) (token : Nat) (m : List (Nat × Nat × Bool)) : State :=
  ((m.map (·.1)).eraseDups).foldl (fun s t =>
    extend s t (leBytes 4 token ++ (m.filter (fun x => x.1 = t)).flatMap (fun x => leBytes 4 x.2.1 ++ [if x.2.2 then 1 else 0]))) s

/-- BLOCK_APPLY (R469): a touched block takes its part of the new state; the RSP extends the measurements inside the same step, with the
last block. -/
def blockApply (s : State) (block : Nat) : State :=
  match s.commits with
  | [] => s
  | c :: rest =>
    if !c.validated || c.applied.contains block || !(touchedBlocks c).contains block then s
    else
      let s1 := (c.txn.staged.filter (fun r => blockOf r = block)).foldl (applyRec c.fn) s
      let done := block :: c.applied
      let s2 := { s1 with commits := { c with applied := done } :: rest }
      if (touchedBlocks c).all (fun b => done.contains b) then measureMoves s2 c.txn.token c.moves else s2

/-- The user profile with the register writes of a commit (R473): each replaces a record of the same offset and selector. -/
def savedProfile (base : List ProfRec) (l : List Staged) : List ProfRec :=
  l.foldl (fun b r => if isGrant r then b else b.filter (fun x => !decide (x.off = r.off ∧ x.sel = r.sel)) ++ [⟨r.off, r.sel, r.value⟩]) base

/-- A commit with SAVE adds to the user profile, of 4,000 records at most (R473). -/
def saveProfile (s : State) (l : List Staged) : State :=
  let p := savedProfile (if s.flash.userOk then s.flash.user else []) l
  let st := regN s Reg.MGT_PROF_STAT 0
  if 4000 < p.length then setReg s Reg.MGT_PROF_STAT 0 (w64 (st - b2n (nbit st 3) * 8 + 8))
  else setReg { s with flash := { s.flash with user := p, userOk := true } } Reg.MGT_PROF_STAT 0
    (w64 (st % 2 ^ 16 + p.length * 2 ^ 16))

/-- Each class whose shaper or committed minimum changes has both its buckets at zero (R219). -/
def zeroTokens (s : State) (ch : List (Nat × Nat)) : State :=
  ch.foldl (fun s c =>
    if c.1 = Reg.CCS_SHP_CFG ∨ c.1 = Reg.CCS_CLS_CMIN then
      clsMod s (c.2 / 64) (c.2 % 64) (fun C => { C with used := Int.ofNat (clsBurst s (c.2 / 64) (c.2 % 64)), committed := 0 })
    else s) s

/-- What follows the apply (R219, R247, R258): changed classes lose their tokens, a changed FRT_NODE or FRT_DIM takes links down, a changed
EMAC_MODE takes every port down. -/
def afterApply (s : State) (ch : List (Nat × Nat)) : State :=
  let s1 := zeroTokens s ch
  let s2 := if ch.any (fun c => decide (c.1 = Reg.FRT_NODE ∨ c.1 = Reg.FRT_DIM)) then linksRenumber s1 else s1
  if ch.any (fun c => decide (c.1 = Reg.EMAC_MODE)) then [1, 2, 3, 4].foldl (fun s p => portDown s p false false) s2 else s2

/-- COMMIT_RESULT_PUBLISH (R469): every touched block has taken the new state; the result is OK and BUSY clears. -/
def commitPublish (s : State) : State :=
  match s.commits with
  | [] => s
  | c :: rest =>
    if !c.validated || !(touchedBlocks c).all (fun b => c.applied.contains b) then s
    else
      let s1 := bump (fnMod { s with commits := rest } c.fn (fun F => { F with cfgBusy := false, cfgResult := 0 })) Reg.MGT_CFG_COMMITS 0
      let s2 := if c.save then saveProfile s1 c.txn.staged else s1
      afterApply s2 c.changed

/-! ### The commands -/

/-- BEGIN (R459). -/
def execTxnBegin (fn : Nat) (s : State) : Host.Outcome State Fault Refusal :=
  let s := dropHeld s fn
  if cfgUp s fn then .next (txBegin s fn) else .next s

/-- TX_WRITE_STAGE (R460). -/
def execTxWriteStage (fn off : Nat) (value : W64) (s : State) : Host.Outcome State Fault Refusal :=
  let s := dropHeld s fn
  if cfgUp s fn then .next (txWrite s fn off value) else .next s

/-- GRANT_STAGE (R463). -/
def execGrantStage (fn : Nat) (value : W64) (s : State) : Host.Outcome State Fault Refusal :=
  let s := dropHeld s fn
  if cfgUp s fn && decide (fn = 0) then .next (grantWrite s value) else .next s

/-- COMMIT (R461, R467). -/
def execTxnCommit (fn token : Nat) (save : Bool) (s : State) : Host.Outcome State Fault Refusal :=
  let s := dropHeld s fn
  if cfgUp s fn then .next (txCommit s fn token save) else .next s

/-- ROLLBACK (R461). -/
def execTxnRollback (fn token : Nat) (s : State) : Host.Outcome State Fault Refusal :=
  let s := dropHeld s fn
  if cfgUp s fn then .next (txRollback s fn token) else .next s

/-- TRANSACTION_TIMEOUT (R461): the open transaction has received nothing for 1 s. -/
def execTransactionTimeout (fn : Nat) (s : State) : Host.Outcome State Fault Refusal :=
  if (fnGet s fn).txn.isSome then
    .next (bump (fnMod s fn (fun F => { F with txn := none, cfgResult := 8 })) Reg.MGT_CFG_TIMEOUTS 0)
  else .next s

/-- COMMIT_VALIDATE (R467, R468). -/
def execCommitValidate (s : State) : Host.Outcome State Fault Refusal := .next (commitValidate s)

/-- BLOCK_APPLY (R469). -/
def execBlockApply (block : Nat) (s : State) : Host.Outcome State Fault Refusal := .next (blockApply s block)

/-- COMMIT_RESULT_PUBLISH (R469). -/
def execCommitResultPublish (s : State) : Host.Outcome State Fault Refusal := .next (commitPublish s)

/-- PROFILE_CLEAR (R473): the user profile goes at the next boot. -/
def profClear (s : State) : State := { s with flash := { s.flash with userErase := true } }

/-- PROFILE_CLEAR (R473): MGT_PROF_CTL.CLEAR. -/
def execProfileClear (s : State) : Host.Outcome State Fault Refusal :=
  let s := dropHeld s 0
  if hostUp s then .next (profClear s) else .next s

/-! ### Profiles at boot (R472) -/

/-- The records of a profile as staged writes of the PF; an offset that is no TX register names nothing. -/
def profStaged (l : List ProfRec) : List Staged :=
  l.filterMap (fun p => (txRow p.off).map (fun row => { off := p.off, value := p.value &&& w64 row.mask, sel := p.sel }))

/-- The factory values of the LIMITs of the fault queue and the event queues (R478). -/
def factoryLimits (s : State) : State :=
  (List.range 253).foldl (fun s t => setReg s Reg.SQM_QCFG (0x0100 + t) 0x800) (setReg s Reg.SQM_QCFG 0 0x4000)

/-- The factory profile is applied; when it fails, nothing is, and word 3 of the fault record results (Table 21-2): the result, or 0xFF
for a failed CRC, with the resource. -/
def factoryApply (s : State) (ok : Bool) : State × Option Nat :=
  let l := profStaged s.flash.factory
  if ok = false then (s, some 0xFF)
  else match txCheck s 0 true false l with
    | some f => (s, some (f.1 + f.2.1 * 2 ^ 32))
    | none => (factoryLimits (applyAll 0 s l), none)

/-- Both profiles are applied as one internal commit (R472): a user profile that fails is discarded and the PF gets an event; a factory
profile that fails leaves the fixed reset values and a fault record. Classes that they change start with no tokens (R219). MGT_PROF_STAT says
what became of them. -/
def profilesApply (s : State) (factoryOk userOk : Bool) : State :=
  let s0 := { s with flash := { s.flash with factoryOk := factoryOk, userOk := userOk } }
  let f := factoryApply s0 factoryOk
  let l := profStaged s0.flash.user
  let fail := if userOk = false then some 0xFF else (txCheck f.1 0 true false l).map (·.1)
  let n := if userOk then s0.flash.user.length else 0
  let a := if fail.isNone then applyAll 0 f.1 l else f.1
  let s1 := zeroTokens a (txChanged s0 a (profStaged s0.flash.factory ++ l))
  let present := !userOk || decide (n ≠ 0)
  let stat := b2n (present && fail.isNone) + b2n (present && fail.isSome) * 2 + b2n f.2.isSome * 4 +
    (if present then fail.getD 0 else 0) * 2 ^ 8 + n * 2 ^ 16
  let s2 := setReg s1 Reg.MGT_PROF_STAT 0 (w64 stat)
  let s3 := match f.2 with
    | none => s2
    | some x => report s2 { cls := 0x13, status := Status.badDescriptor, sev := 3, unit := 14, code := 5, w3 := w64 x }
  if present && fail.isSome then
    report s3 { cls := 0x12, status := Status.badDescriptor, sev := 2, unit := 14, tenant := 0 }
  else s3

/-- The bytes of a profile that index 19 measures (R419). -/
def profBytes (l : List ProfRec) : List Byte := l.flatMap (fun p => leBytes 4 p.off ++ leBytes 4 p.sel ++ leBytes 8 p.value.toNat)

/-- BOOT_SCRUB_DONE (R437, R440, R442, R472): the boot scrub is over. In minimal mode the device may now serve. Else the parts of stage
UNITS load (`partsOk`), at least 32 transport cores pass (`cores`), the tiles are numbered past the bad sites, the profiles are applied, and
the links that they bring into use start training. -/
def execBootScrubDone (partsOk : Bool) (cores : Nat) (badSites : List Nat) (factoryOk userOk : Bool) (s : State) :
    Host.Outcome State Fault Refusal :=
  if s.boot.minimal then .next { s with boot := { s.boot with scrubbed := decide (s.pw.mainOn = true ∨ s.boot.scrubbed = true) } }
  else if s.boot.stage ≠ .memory then .next s
  else if partsOk = false then .next (bootFail s 0x11)
  else if cores < 32 then .next (bootFail s 0x13)
  else
    let s1 := { (remapBuild s badSites) with tpe := { s.tpe with spares := min 2 (cores - 32) } }
    let s2 := [3, 4, 5, 6].foldl partMeasured s1
    let s3 := measured s2 19 (sha384Bytes (profBytes s.flash.factory ++ profBytes s.flash.user))
    let s4 := profilesApply s3 factoryOk userOk
    let s5 := if s.boot.msixBad then
      report s4 { cls := 0x12, status := Status.badDescriptor, sev := 2, unit := 14, tenant := 0 } else s4
    let s6 := linksTrain s5
    .next { s6 with boot := { s6.boot with stage := .units, msixBad := false } }

end Sys2Proof.Machine
end

