-- ==== Sys2Proof/Machine/RegMap.lean ====
section
/-! DEFINITION. The register map (chapter 22): which register an access reaches in the physical and the virtual function's view, the access
widths, and what a write of every register does. -/
namespace Sys2Proof.Machine

/-! ### Where the registers are -/

/-- 32-bit registers of access code RO. -/
def roNarrowA : List Nat :=
  [ Reg.MGT_PWR_STAT, Reg.MGT_TILE_FREQ, Reg.MGT_PWR_STEPS, Reg.MGT_STRAP, Reg.MGT_THERM, Reg.MGT_INPUT, Reg.MGT_THERM_HOLDS,
    Reg.HIF_ABI_OFFER, Reg.HIF_FN_STAT, Reg.HIF_LINK, Reg.HIF_WIN_SIZE, Reg.HIF_WIN_FAULTS, Reg.HIF_DB_IGNORED, Reg.HIF_INL_DISCARD,
    Reg.HIF_FC_STALL, Reg.WQM_QSTAT, Reg.WQM_REFETCH, Reg.WQM_REFETCH_GIVEUP, Reg.WQM_SPEC_DISCARD, Reg.WQM_DB_BAD,
    Reg.WQM_POOL_STALL, Reg.WQM_BAD_DESC, Reg.ATU_CEPOCH, Reg.ATU_FOT_ENT, Reg.ATU_TC_MISS, Reg.ATU_WALK_STALL, Reg.ATU_XLATE_FAULT,
    Reg.ATU_OWN_FAULT, Reg.ATU_ADM_REJECT, Reg.ATU_RGN_STALL, Reg.ATU_STALE, Reg.TPE_QSTAT, Reg.TPE_QRTT, Reg.TPE_VER_OFFER,
    Reg.TPE_RETX, Reg.TPE_RTO_EXP, Reg.TPE_WIN_DROP, Reg.TPE_DUP_DROP, Reg.TPE_EARLY_DROP, Reg.TPE_HEAD_MISMATCH, Reg.TPE_TRK_FULL,
    Reg.TPE_RC_FULL, Reg.TPE_CTX_MISS, Reg.TPE_DEAD_DROP, Reg.TPE_LATE_REPLY, Reg.TPE_INFLIGHT_FULL, Reg.TPE_CHAN_WAIT,
    Reg.TPE_MIRROR_LATE, Reg.CCS_ECAP ]

/-- 32-bit registers of access code RO. -/
def roNarrowB : List Nat :=
  [ Reg.CCS_EADMIT, Reg.CCS_EFACTOR, Reg.CCS_CLS_STAT, Reg.CCS_POOL_STAT, Reg.CCS_CRED_WAIT, Reg.CCS_CRED_TIMEOUT,
    Reg.CCS_GRANT_EXPIRED, Reg.CCS_GRANT_RECLAIM, Reg.CCS_GRANT_STALE, Reg.CCS_POOL_FULL, Reg.CCS_DEMAND_DROP, Reg.CCS_PLACE_PAUSE,
    Reg.CCS_PLACE_DROP, Reg.CCS_DEGRADE, Reg.FRT_VER_OFFER, Reg.FRT_LSTAT, Reg.FRT_LCNT_TX, Reg.FRT_LCNT_RX, Reg.FRT_LCRC,
    Reg.FRT_LDOWN, Reg.FRT_UR_MASK, Reg.FRT_DEFLECT, Reg.FRT_HOPLIMIT_DROP, Reg.FRT_HOPLIMIT_LAST, Reg.FRT_NOPORT_DROP,
    Reg.FRT_CRC_ERR, Reg.FRT_STOMP_RX, Reg.FRT_BAD_HDR, Reg.FRT_UNREACH_DROP, Reg.FRT_INJ_STALL, Reg.FRT_MC_HOLD_DROP,
    Reg.FRT_MC_DEAD_DROP, Reg.FRT_MC_MISS, Reg.FRT_MC_REFUSED, Reg.FRT_NOTICE_TX, Reg.FRT_NOTICE_RX, Reg.FRT_NOTICE_DUP,
    Reg.FRT_INT_ERR, Reg.EMAC_PSTAT, Reg.EMAC_RXBUF, Reg.LNS_LSTAT, Reg.LNS_LCORR, Reg.LNS_LUNCORR, Reg.LNS_LMARGIN, Reg.LNS_CSTAT,
    Reg.LNS_ROT_DONE, Reg.LNS_ROT_ABORT, Reg.LNS_CMP_FAIL, Reg.LNS_SPARE_IN ]

/-- 32-bit registers of access code RO. -/
def roNarrowC : List Nat :=
  [ Reg.LNS_ONE_LANE, Reg.LNS_MOD_STAT, Reg.SCB_ACTIVE, Reg.SCB_CHUNK_TX, Reg.SCB_CHUNK_RX, Reg.SCB_CRC_FAIL, Reg.SCB_MC_REPAIR,
    Reg.SCB_MC_FALLBACK, Reg.SCB_STALE_DROP, Reg.SCB_MISMATCH, Reg.SCB_ABORT, Reg.SCB_INST_WAIT, Reg.SCB_LAND_WAIT, Reg.SCB_ACC_WAIT,
    Reg.TGD_TSTAT, Reg.TGD_CSTAT, Reg.TGD_SPARES, Reg.TGD_INV_START, Reg.TGD_INV_REJECT, Reg.TGD_KFAULT, Reg.TGD_LIMIT_STOP,
    Reg.TGD_STAGE_FULL, Reg.TGD_MSG_REFUSED, Reg.TGD_REMAP, Reg.MEM_CFG, Reg.MEM_CSTAT, Reg.MEM_CE, Reg.MEM_UE, Reg.MEM_TAG_FAIL,
    Reg.MEM_TAG_REREAD, Reg.MEM_RET_USED, Reg.MEM_RET_LEFT, Reg.MEM_RETRAIN, Reg.MEM_Q_STALL, Reg.MEM_PATROL_PASS, Reg.MEM_TERM_STAT,
    Reg.MEM_QUAR, Reg.MEM_KSTAT, Reg.SQM_QPOPTAG, Reg.SQM_QDROP, Reg.SQM_TUSED, Reg.SQM_POOL, Reg.SQM_RESERVE, Reg.SQM_FULL_DROP,
    Reg.SQM_UNDERRUN, Reg.SQM_PARITY_ERR, Reg.SQM_CELL_RETIRE, Reg.SQM_QUOTA_DROP, Reg.CPH_PIPE_STAT ]

/-- 32-bit registers of access code RO. -/
def roNarrowD : List Nat :=
  [ Reg.CPH_KSTAT, Reg.CPH_SEAL_SLOT, Reg.CPH_AUTH_FAIL, Reg.CPH_SLOT_MISS, Reg.CPH_CTX_WAIT, Reg.CPH_CTX_SAVE, Reg.CPH_STAGE_DROP,
    Reg.CPH_RESERVE, Reg.CPH_BLOCKS, Reg.RSP_STAT, Reg.RSP_MBX_STAT, Reg.RSP_TENANT, Reg.RSP_SVN, Reg.RSP_TSTAT, Reg.RSP_SESS_FAIL,
    Reg.RSP_KEY_LOADS, Reg.RSP_TEARDOWNS, Reg.RSP_REPLY_DROP, Reg.RSP_DRBG_WAIT, Reg.MGT_BOOT_STATUS, Reg.MGT_BOOT_TIME,
    Reg.MGT_CIC_STAT, Reg.MGT_CIC_FMT_OFFER, Reg.MGT_CIC_HEALTH, Reg.MGT_CIC_STORED, Reg.MGT_CIC_REFUSED, Reg.MGT_CIC_BUSY,
    Reg.MGT_BOOT_FAILED, Reg.MGT_CFG_TOKEN, Reg.MGT_CFG_STAT, Reg.MGT_CFG_RES, Reg.MGT_CFG_OFF, Reg.MGT_CFG_COMMITS,
    Reg.MGT_CFG_FAILS, Reg.MGT_CFG_TIMEOUTS, Reg.MGT_CFG_ORPHAN, Reg.MGT_PROF_STAT, Reg.FEV_FQ_TAG, Reg.FEV_EQ_TAG,
    Reg.FEV_CLS_WRITTEN, Reg.FEV_CLS_OVF, Reg.FEV_CLS_SUPP, Reg.FEV_PEER_COAL, Reg.FEV_NOTICE_SUPP, Reg.FEV_PEER_TBL_FULL,
    Reg.FEV_XSTALL, Reg.FEV_XHANG ]

/-- 64-bit registers of access code RO or POP, besides the indexed ones. -/
def roWide : List Nat :=
  [ Reg.HIF_CAP, Reg.WQM_QIDX, Reg.ATU_CFAULT, Reg.TPE_QSEQ, Reg.TPE_QRECV, Reg.CCS_QCRED, Reg.SCB_GSTAT, Reg.TGD_KSTAT,
    Reg.MEM_POISON_LAST, Reg.SQM_QPOP, Reg.CPH_SEAL_SEQ, Reg.MGT_RES_ENT, Reg.FEV_TIME, Reg.FEV_FQ_POP, Reg.FEV_EQ_POP,
    Reg.FEV_SPARE_STAT ]

/-- A register of access code RW, WO, W1S or W1C that this file writes as plain data: its offset, its fields, whether each function keeps
its own copy (R491), whether it is 64 bits wide. -/
structure RwRow where
  off : Nat
  mask : Nat
  own : Bool := true
  wide : Bool := false
deriving DecidableEq, Repr

/-- The selector registers (R491). -/
def selectorRows : List RwRow :=
  [ { off := Reg.ATU_CSEL, mask := 0xFFFF }, { off := Reg.ATU_FOT_SEL, mask := 0x7FFFFFF }, { off := Reg.TPE_QSEL, mask := 0xFFFFF },
    { off := Reg.CCS_QSEL, mask := 0xFFFFF }, { off := Reg.CCS_ESEL, mask := 7 }, { off := Reg.CCS_CSEL, mask := 0x3F },
    { off := Reg.FRT_LSEL, mask := 0xF }, { off := Reg.FRT_MC_SEL, mask := 0x1FFF }, { off := Reg.FRT_UR_SEL, mask := 0xFFF },
    { off := Reg.EMAC_PSEL, mask := 7 }, { off := Reg.EMAC_PFC_SEL, mask := 7 }, { off := Reg.EMAC_FLT_SEL, mask := 0x7F },
    { off := Reg.EMAC_RXQ_SEL, mask := 0x3F }, { off := Reg.EMAC_AH_SEL, mask := 0xFFF }, { off := Reg.LNS_LSEL, mask := 0x3F },
    { off := Reg.LNS_CSEL, mask := 7 }, { off := Reg.LNS_MOD_SEL, mask := 1 }, { off := Reg.SCB_GSEL, mask := 0xFFF },
    { off := Reg.TGD_TSEL, mask := 0xFF }, { off := Reg.TGD_CSEL, mask := 0xF }, { off := Reg.TGD_KSEL, mask := 0x3FF },
    { off := Reg.MEM_CSEL, mask := 0x1F }, { off := Reg.MEM_KSEL, mask := 0xFF }, { off := Reg.SQM_QSEL, mask := 0xFFFF },
    { off := Reg.SQM_TSEL, mask := 0xFF }, { off := Reg.CPH_KSEL, mask := 0x3FF }, { off := Reg.CPH_TSEL, mask := 0xFF },
    { off := Reg.RSP_TSEL, mask := 0xFF }, { off := Reg.MGT_RES_SEL, mask := 0xFFFFFFFF }, { off := Reg.FEV_CLS_SEL, mask := 0x11F },
    { off := Reg.FEV_SPARE_SEL, mask := 7 } ]

/-- The other plain registers. -/
def plainRows : List RwRow :=
  [ { off := Reg.MGT_LED_CTL, mask := 1, own := false }, { off := Reg.HIF_CTL, mask := 1, own := false },
    { off := Reg.HIF_WIN_BASE, mask := 0xFFFFFFFFFC000000, wide := true },
    { off := Reg.TPE_RTO_FAB, mask := 0xFFFFFFFF, own := false }, { off := Reg.TPE_RTO_ETH, mask := 0xFFFFFFFF, own := false },
    { off := Reg.TPE_RC_HOLD, mask := 0xFFFF, own := false }, { off := Reg.TPE_TWIN_CTX, mask := 0x1FFFF, own := false },
    { off := Reg.TPE_TWIN_BASE, mask := 0xFFFFFFFFFFE00000, own := false, wide := true },
    { off := Reg.CCS_CRED_TMO, mask := 0xFFFF, own := false }, { off := Reg.FRT_CTL, mask := 1, own := false },
    { off := Reg.SCB_REPAIR_TMO, mask := 0xFFFF, own := false },
    { off := Reg.MGT_CIC_HADDR, mask := 0xFFFFFFFFFFFFFFC0, own := false, wide := true },
    { off := Reg.MGT_GRANT_LO, mask := 0xFFFFFFFFFFFFFF, wide := true },
    { off := Reg.FEV_FQ_CTL, mask := 0x3FFF, own := false }, { off := Reg.FEV_EQ_CTL, mask := 0x3FFF } ]

/-- A plain register at an offset. -/
def rwRow (off : Nat) : Option RwRow := (selectorRows ++ plainRows).find? (fun r => r.off = off)

/-- 32-bit registers whose writes have a meaning of their own. -/
def actNarrow : List Nat :=
  [ Reg.HIF_ABI_AGREED, Reg.HIF_WIN_CTX, Reg.WQM_QSEL, Reg.WQM_QCTX, Reg.WQM_QBIND, Reg.WQM_QCTL, Reg.WQM_QMOD, Reg.ATU_CCTL,
    Reg.TPE_QKEY, Reg.TPE_QCTL, Reg.TPE_TWIN_STAT, Reg.CCS_QCFG, Reg.FRT_LCTL, Reg.LNS_LCTL, Reg.SQM_QSTAT, Reg.RSP_MBX_DB,
    Reg.MGT_BOOT_CTL, Reg.MGT_CIC_CMD, Reg.MGT_PROF_CTL, Reg.FEV_FQ_SUMMARY, Reg.FEV_EQ_SUMMARY ]

/-- 64-bit registers whose writes have a meaning of their own. -/
def actWide : List Nat :=
  [ Reg.WQM_QRING, Reg.WQM_QHEAD, Reg.ATU_CROOT, Reg.TPE_QCFG, Reg.TPE_QTWIN, Reg.EMAC_STAT_HALF, Reg.SQM_QPUSH, Reg.MGT_CFG_CTL,
    Reg.MGT_GRANT_HI ]

/-- The data-port registers (Table 3-7): the port and the place within its 64 bytes. -/
def dpReg (off : Nat) : Option (Nat × Nat) :=
  if 0x1000 ≤ off ∧ off < 0x1000 + 8 * 0x40 ∧ (off % 0x40 = 0 ∨ off % 0x40 = 8 ∨ off % 0x40 = 12 ∨ off % 0x40 = 16) then
    some ((off - 0x1000) / 0x40, off % 0x40)
  else none

/-- The register at a PF offset: whether it is 64 bits wide; none for a hole (R488). -/
def regAt (off : Nat) : Option Bool :=
  let words := fun base n => decide (base ≤ off ∧ off < base + 8 * n ∧ (off - base) % 8 = 0)
  match txRow off, rwRow off, dpReg off with
  | some r, _, _ => some r.wide
  | none, some r, _ => some r.wide
  | none, none, some d => some (d.2 = 0)
  | none, none, none =>
    if actWide.contains off || roWide.contains off then some true
    else if words Reg.EMAC_STATi 48 || words Reg.RSP_DEBUG_NONCEw 4 || words Reg.MGT_CIC_SLOTs 2 || words Reg.MGT_CIC_IMGs 2 then some true
    else if actNarrow.contains off || roNarrowA.contains off || roNarrowB.contains off || roNarrowC.contains off || roNarrowD.contains off
      then some false
    else none

/-- A register of block b at an offset within it is present in a VF (Table 22-1). -/
def vfHas (b o : Nat) : Bool :=
  let btw := fun lo hi => decide (lo ≤ o ∧ o ≤ hi)
  match b with
  | 0 => btw 0x00 0x0C || btw 0x14 0x3C
  | 1 => true
  | 2 => btw 0x00 0x1C || btw 0x200 0x218
  | 3 => btw 0x00 0x3C || btw 0x100 0x100 || btw 0x200 0x234
  | 4 => btw 0x00 0x10 || btw 0x300 0x324
  | 8 => btw 0x00 0x00 || btw 0x28 0x28 || btw 0x200 0x228
  | 9 => !(btw 0x04 0x04 || btw 0x200 0x200 || btw 0x318 0x318)
  | 11 => btw 0x00 0x00 || btw 0x08 0x28
  | 12 => btw 0x10 0x14 || btw 0x40 0x48 || btw 0x100 0x110 || btw 0x118 0x118
  | 13 => btw 0x00 0x10
  | 14 => btw 0x00 0x00 || btw 0x200 0x214
  | 15 => btw 0x00 0x00 || btw 0x20 0x30 || btw 0x100 0x10C
  | _ => false

/-- The PF offset of the register that an offset of a function's BAR0 stands for (R488, R489); none for a hole of a VF's view. -/
def pfOffset (fn off : Nat) : Option Nat :=
  if fn = 0 then (if off < 2 ^ 24 then some off else none)
  else if off < 0x8000 ∧ vfHas (off / 0x800) (off % 0x800) then some (off / 0x800 * 2 ^ 20 + off % 0x800) else none

/-- The part of a register that an access reaches (R490). -/
inductive Part_
  | whole | low | high
deriving DecidableEq, Repr

/-- The register and the part of it that an access of a width at a PF offset reaches; none for any other width or alignment (R490). -/
def reach (off len : Nat) : Option (Nat × Part_) :=
  match regAt off with
  | some true => if len = 8 then some (off, .whole) else if len = 4 then some (off, .low) else none
  | some false => if len = 4 then some (off, .whole) else none
  | none => if len = 4 ∧ 4 ≤ off ∧ regAt (off - 4) = some true then some (off - 4, .high) else none

/-! ### What a write of a whole register does -/

/-- What a meaning answers, as a state. -/
def nextOf (s : State) (o : Host.Outcome State Fault Refusal) : State := match o with | .next t => t | _ => s

/-- The function's connection that CCS_QSEL names. -/
def ccsQp (s : State) (fn : Nat) : Option Nat := selIdx s fn .qp

/-- A write of CCS_QCFG (Table 8-6): in RESET only. -/
def qcfgWrite (s : State) (fn : Nat) (v : W64) : State :=
  match ccsQp s fn with
  | none => s
  | some q => if (conn s q).st = 0 then setReg s Reg.CCS_QCFG q (w64 (fld v 13 0)) else s

/-- A write of FRT_LCTL (Table 9-11): DISABLE, and RETRAIN. -/
def lctlWrite (s : State) (l : Nat) (v : W64) : State :=
  if 12 ≤ l then s
  else
    let s1 := if wbit v 0 = (link s l).disable then s
      else nextOf s (if wbit v 0 then execLinkDisable l s else execLinkEnable l s)
    if wbit v 1 then nextOf s1 (execLinkRetrain l s1) else s1

/-- A write of LNS_LCTL (R292): RECAL and FORCE_FAIL. The test that RESTORE asks for ends in the RESTORE command. -/
def lnsCtlWrite (s : State) (l : Nat) (v : W64) : State :=
  let s1 := if wbit v 0 then laneCtl s l 0 else s
  if wbit v 1 then laneCtl s1 l 1 else s1

/-- A write of MGT_CIC_CMD (Table 19-6A): BUSY sets, and MGT reads the message; ignored while BUSY. The command itself comes with its
message. -/
def cicCmdWrite (s : State) (v : W64) : State :=
  if s.cic.hostBusy ∨ fld v 2 0 = 0 ∨ 5 < fld v 2 0 then s
  else emit { s with cic := { s.cic with hostBusy := true } } (.busRead 0 .cicada (regN s Reg.MGT_CIC_HADDR 0) 65568)

/-- A write of MGT_CFG_CTL (Table 20-4). -/
def cfgCtlWrite (s : State) (fn : Nat) (v : W64) : State :=
  match fld v 1 0 with
  | 1 => txBegin s fn
  | 2 => txCommit s fn (fld v 63 32) (wbit v 2)
  | 3 => txRollback s fn (fld v 63 32)
  | _ => s

/-- Clears the bits of a queue's sticky summary that a write sets (W1C). -/
def summaryClear (s : State) (qi : Nat) (v : W64) : State :=
  fevQMod s qi (fun q => { q with summary := q.summary &&& ~~~BitVec.ofNat 20 (fld v 19 0) })

/-- A write of a data-port register (Table 3-7, R54 to R57): a new address empties the prefetch buffer; STAT is W1C. -/
def dpWrite (s : State) (port at_ : Nat) (v : W64) : State :=
  match at_ with
  | 0 => setReg (portEmpty s port) Reg.HIF_DPn_ADDR port (w64 (fld v 63 6 * 64))
  | 8 => nextOf s (execDataPortCtxWrite port v s)
  | 12 => nextOf s (execDataPortCommit port v s)
  | _ => portMod s port (fun P => { P with
      badCommit := P.badCommit && !wbit v 0, badCtx := P.badCtx && !wbit v 1, fault := P.fault && !wbit v 2 })

/-- A write of a 32-bit register with a meaning of its own. -/
def actNarrowWrite (s : State) (fn off : Nat) (v : W64) : State :=
  if off = Reg.HIF_ABI_AGREED then nextOf s (execAbiAgree fn (fld v 15 0) s)
  else if off = Reg.HIF_WIN_CTX then nextOf s (execWinCtxWrite fn v s)
  else if off = Reg.WQM_QSEL then nextOf s (execQueueSelect fn v s)
  else if off = Reg.WQM_QCTL then qctlWrite s fn v
  else if isQueueCfg off then queueConfigWrite s fn off v
  else if off = Reg.ATU_CCTL then (match selCtx s fn with | none => s | some c => cctlWrite s fn c v)
  else if off = Reg.TPE_QKEY then qpConfigWrite s fn off v
  else if off = Reg.TPE_QCTL then qpCtlWrite s fn v
  else if off = Reg.TPE_TWIN_STAT then
    { s with tpe := { s.tpe with tookOver := s.tpe.tookOver && !wbit v 1, tableFault := s.tpe.tableFault && !wbit v 2 } }
  else if off = Reg.CCS_QCFG then qcfgWrite s fn v
  else if off = Reg.FRT_LCTL then lctlWrite s (fld (reg s Reg.FRT_LSEL fn) 3 0) v
  else if off = Reg.LNS_LCTL then lnsCtlWrite s (fld (reg s Reg.LNS_LSEL fn) 5 0) v
  else if off = Reg.SQM_QSTAT then
    (let q := selSqm s fn
     if (fn = 0 ∨ sqmTenant s q = fn) ∧ wbit v 18 = true then sqmMod s q (fun Q => { Q with underrun := false }) else s)
  else if off = Reg.RSP_MBX_DB then (if wbit v 0 then nextOf s (execMailboxDoorbell fn s) else s)
  else if off = Reg.MGT_BOOT_CTL then
    (if wbit v 0 then fullReset s 0x02 else if wbit v 1 then nextOf s (execBootCtlRetry s) else s)
  else if off = Reg.MGT_CIC_CMD then cicCmdWrite s v
  else if off = Reg.MGT_PROF_CTL then (if wbit v 0 then profClear s else s)
  else if off = Reg.FEV_FQ_SUMMARY then summaryClear s 0 v
  else if off = Reg.FEV_EQ_SUMMARY then summaryClear s (1 + fn) v
  else s

/-- A write of a 64-bit register with a meaning of its own. -/
def actWideWrite (s : State) (fn off : Nat) (v : W64) : State :=
  if off = Reg.WQM_QRING ∨ off = Reg.WQM_QHEAD then queueConfigWrite s fn off v
  else if off = Reg.ATU_CROOT then (match selCtx s fn with | none => s | some c => rootWrite s c v)
  else if off = Reg.TPE_QCFG ∨ off = Reg.TPE_QTWIN then qpConfigWrite s fn off v
  else if off = Reg.EMAC_STAT_HALF then
    (match selIdx s fn .port with
     | none => s
     | some p => setReg s off p (reg s off p &&& ~~~v))
  else if off = Reg.SQM_QPUSH then nextOf s (execSqmPush fn v s)
  else if off = Reg.MGT_CFG_CTL then cfgCtlWrite s fn v
  else if off = Reg.MGT_GRANT_HI then grantWrite s v
  else s

/-- A write of a whole register at a PF offset (R4, R6, R7, R439): in a block that does not answer, and of a read-only register, nothing. -/
def regWrite (s : State) (fn off : Nat) (v : W64) : State :=
  if !blockAlive s (off / 2 ^ 20) then s
  else if (txRow off).isSome then txWrite s fn off v
  else match rwRow off with
    | some r =>
      let m := if off = Reg.FEV_CLS_SEL ∧ fn ≠ 0 then 0x1F else r.mask
      setReg s off (if r.own then fn else 0) (v &&& w64 m)
    | none => match dpReg off with
      | some d => dpWrite s d.1 d.2 v
      | none => if actWide.contains off then actWideWrite s fn off v else actNarrowWrite s fn off v

/-! ### Halves, widths and the MSI-X table -/

/-- The value of a 64-bit register in effect, for a write of its high half alone (R490). A register that cannot be read has none: 0. -/
def wideNow (s : State) (fn off : Nat) : W64 :=
  match txRow off, rwRow off, dpReg off with
  | some r, _, _ => (match selIdx s fn r.sel with | none => 0 | some i => reg s (txKey off) i)
  | none, some r, _ => reg s off (if r.own then fn else 0)
  | none, none, some d => reg s Reg.HIF_DPn_ADDR d.1
  | none, none, none =>
    if off = Reg.WQM_QRING then ((selQueue s fn).map (fun q => (queue s q).ring)).getD 0
    else if off = Reg.WQM_QHEAD then ((selQueue s fn).map (fun q => (queue s q).head)).getD 0
    else if off = Reg.ATU_CROOT then ((selCtx s fn).map (fun c => (ctx s c).root)).getD 0
    else if off = Reg.TPE_QCFG then ((selQp s fn).map (fun q => (conn s q).cfg)).getD 0
    else if off = Reg.TPE_QTWIN then ((selQp s fn).map (fun q => (conn s q).twin)).getD 0
    else 0

/-- A write that reaches a register (R490): a low half is held; the high half takes effect with the held low half of the same register, or
with the low half unchanged; every write discards what the function holds of another register. -/
def partWrite (s : State) (fn off : Nat) (p : Part_) (v : W64) : State :=
  match p with
  | .whole => regWrite (dropHeld s fn) fn off v
  | .low => fnMod s fn (fun F => { F with held := some (off, BitVec.ofNat 32 v.toNat) })
  | .high =>
    let low := match (fnGet s fn).held with
      | some h => if h.1 = off then h.2.toNat else (wideNow s fn off).toNat % 2 ^ 32
      | none => (wideNow s fn off).toNat % 2 ^ 32
    regWrite (dropHeld s fn) fn off (w64 (low + v.toNat % 2 ^ 32 * 2 ^ 32))

/-- A 4-byte write into an MSI-X table entry (R65): address halves, data, mask bit. -/
def vectorWrite (s : State) (fn vec word : Nat) (v : W64) : State :=
  match word with
  | 0 => vectorMod s fn vec (fun V => { V with addr := w64 (V.addr.toNat / 2 ^ 32 * 2 ^ 32 + fld v 31 0) })
  | 1 => vectorMod s fn vec (fun V => { V with addr := w64 (V.addr.toNat % 2 ^ 32 + fld v 31 0 * 2 ^ 32) })
  | 2 => vectorMod s fn vec (fun V => { V with data := BitVec.ofNat 32 (fld v 31 0) })
  | _ => if wbit v 0 then vectorMod s fn vec (fun V => { V with masked := true }) else nextOf s (execMsixUnmask fn vec s)

/-- A write into the MSI-X table at 0x8000 of a function's BAR0 (R48, R49): 4 or 8 naturally aligned bytes. -/
def tableWrite (s : State) (fn off len : Nat) (v : W64) : State :=
  let o := off - 0x8000
  if len = 4 ∧ o % 4 = 0 then vectorWrite s fn (o / 16) (o % 16 / 4) v
  else if len = 8 ∧ o % 8 = 0 then
    vectorWrite (vectorWrite s fn (o / 16) (o % 16 / 4) v) fn (o / 16) (o % 16 / 4 + 1) (v >>> 32)
  else s

/-- REGISTER_WRITE (R48, R490, R491): a write of `len` bytes at an offset of a function's BAR0. -/
def execRegisterWrite (fn off len : Nat) (value : W64) (s : State) : Host.Outcome State Fault Refusal :=
  if !hostUp s || !fnExists s fn then .next s
  else if 0x8000 ≤ off ∧ off < 0x8000 + 16 * vecCount s fn then .next (tableWrite s fn off len value)
  else match (pfOffset fn off).bind (fun o => reach o len) with
    | none => .next s
    | some (o, p) => .next (partWrite s fn o p value)

/-! ### Completion timeouts (R148, R494) -/

/-- COMPLETION_TIMEOUT (R148, R494): a read, flush read or AtomicOp outlasts the completion timeout; its origin goes on as for a failed one.
A posted write has no completion. A failed read of Cicada's message leaves a RESULT that the spec does not give. -/
def execCompletionTimeout (tag : BusTag) (s : State) : Host.Outcome State Fault Refusal :=
  match tag with
  | .ringRead q i => execRingReadComplete q i none s
  | .fragTable q i => execFragmentTableRead q i none s
  | .tableWalk c a => .next (walkWord s c a none)
  | .source c m r o => execSourceReadComplete (.cell c m r o) none s
  | .frame q i => execSourceReadComplete (.frame q i) none s
  | .peerFlush q i => .next (entryFlushed s q i false)
  | .msgFlush c m => .next (msgFlushed s c m false)
  | .atomicOp c m => execAtomicopComplete (.peer c m) none s
  | .tileAtomic t => execAtomicopComplete (.tile t) none s
  | .tileDma t i => execTDmaBurstComplete t i none s
  | .scarab g => .next (if (grp s g).st = 1 then scbAbort s g Status.localProtection else s)
  | .cipher q i => .next (if (streamOf s q i).isSome then cryptFail s q i Status.localProtection else s)
  | .cicada =>
    if s.cic.hostBusy then
      let d := draw s
      .next { d.2 with cic := { d.2.cic with hostBusy := false, hostResult := fld d.1 7 0 } }
    else .next s
  | .windowRead _ => .next s
  | .portRead _ => .next s
  | .portPrefetch _ => .next s
  | .headWrite _ => .next s
  | .placement _ => .next s
  | .mirror _ => .next s

end Sys2Proof.Machine
end

