-- ==== Sys2Proof/Machine/Trans.lean ====
section
/-! DEFINITION. VEXP2, VLOG2, VRCP and VRSQ (R350): the true value is computed in fixed point, and the result is a free one within the
bound in ulp that the spec gives. -/
namespace Sys2Proof.Machine

/-- The integer square root by bits, from bit n down. -/
def isqrtFrom (x : Nat) : Nat → Nat → Nat
  | 0, r => if (r + 1) * (r + 1) ≤ x then r + 1 else r
  | n + 1, r => isqrtFrom x n (if (r + 2 ^ (n + 1)) * (r + 2 ^ (n + 1)) ≤ x then r + 2 ^ (n + 1) else r)

/-- The integer square root of a number below 2^512. -/
def isqrt (x : Nat) : Nat := isqrtFrom x 255 0

/-- The binary32 code of the greatest datum not above m · 2^e. -/
def truncCode (m : Nat) (e : Int) : Nat :=
  let top := Int.ofNat (Nat.log2 m) + e
  let q := max (top - 23) (-149)
  let r := if q ≤ e then m * 2 ^ (e - q).toNat else m / 2 ^ (q - e).toNat
  min 0x7F800000 ((q + 149).toNat * 2 ^ 23 + r)

/-- A result within `ulp` of the value whose magnitude lies in [code, code + 1), or at code when exact: a free choice of opcode and input. -/
def within (op : Nat) (x : W32) (ulp : Nat) (neg : Bool) (code : Nat) (exact : Bool) : Nat :=
  let lo : Int := Int.ofNat code - Int.ofNat ulp + (if exact then 0 else 1)
  let n := if exact then 2 * ulp + 1 else 2 * ulp
  let c := (lo + Int.ofNat (Config.transUlp op x % n)).toNat
  signBit 8 23 neg + min c 0x7F800000

/-- 2^f for f = bits ÷ 2^64, scaled by 2^128: a product of the roots 2^(1/2), 2^(1/4), … -/
def exp2Frac (f : Nat) : Nat → Nat → Nat → Nat
  | 0, _, acc => acc
  | n + 1, c, acc =>
    let c1 := isqrt (c * 2 ^ 128)
    exp2Frac f n c1 (if f.testBit n then acc * c1 / 2 ^ 128 else acc)

/-- VEXP2: at most 2 ulp. -/
def exp2Lane (x : W32) : Nat :=
  match f32 x.toNat with
  | .nan _ => 0x7FC00000
  | .inf neg => if neg then 0 else 0x7F800000
  | .fin neg m e =>
    let v := fpUnits neg m e (-160)
    let n := v / 2 ^ 160
    let f := (v % 2 ^ 160).toNat
    if 128 ≤ n then 0x7F800000
    else if n < -152 then within 0x66 x 2 false 0 false
    else within 0x66 x 2 false (truncCode (exp2Frac (f / 2 ^ 96) 64 (2 ^ 129) (2 ^ 128)) (n - 128)) (decide (f = 0))

/-- Fraction bits of log2 of y ÷ 2^200 in [1, 2), by squaring. -/
def log2Frac : Nat → Nat → Nat → Nat
  | 0, _, acc => acc
  | n + 1, y, acc =>
    let z := y * y / 2 ^ 200
    if 2 ^ 201 ≤ z then log2Frac n (z / 2) (2 * acc + 1) else log2Frac n z (2 * acc)

/-- VLOG2: at most 2 ulp; −∞ at ±0, NaN below 0. -/
def log2Lane (x : W32) : Nat :=
  match f32 x.toNat with
  | .nan _ => 0x7FC00000
  | .inf neg => if neg then 0x7FC00000 else 0x7F800000
  | .fin neg m e =>
    if m = 0 then 0xFF800000
    else if neg then 0x7FC00000
    else
      let k := Nat.log2 m
      let v : Int := (Int.ofNat k + e) * 2 ^ 80 + Int.ofNat (log2Frac 80 (m * 2 ^ 200 / 2 ^ k) 0)
      let exact := decide (m = 2 ^ k)
      if v = 0 then (if exact then within 0x67 x 2 false 0 false else within 0x67 x 2 false 0 true)
      else
        /- The truncated fraction lies at or below the true value: for a negative one the magnitude is at or below the code's. -/
        within 0x67 x 2 (decide (v < 0)) (truncCode (if v < 0 ∧ !exact then v.natAbs - 1 else v.natAbs) (-80)) exact

/-- VRCP: at most 1 ulp. -/
def rcpLane (x : W32) : Nat :=
  match f32 x.toNat with
  | .nan _ => 0x7FC00000
  | .inf neg => signBit 8 23 neg
  | .fin neg m e =>
    if m = 0 then signBit 8 23 neg + 0x7F800000
    else within 0x68 x 1 neg (truncCode (2 ^ 200 / m) (-200 - e)) (decide (2 ^ 200 % m = 0))

/-- VRSQ: at most 1 ulp. -/
def rsqLane (x : W32) : Nat :=
  match f32 x.toNat with
  | .nan _ => 0x7FC00000
  | .inf neg => if neg then 0x7FC00000 else 0
  | .fin neg m e =>
    if m = 0 then signBit 8 23 neg + 0x7F800000
    else if neg then 0x7FC00000
    else
      let odd := e % 2 ≠ 0
      let m1 := if odd then 2 * m else m
      let e1 := if odd then e - 1 else e
      let q := isqrt (2 ^ 400 / m1)
      within 0x69 x 1 false (truncCode q (-200 - e1 / 2)) (decide (q * q * m1 = 2 ^ 400))

/-- The fflags bits of a transcendental lane: DZ for a pole at zero, NV for a signalling NaN or a negative operand; else free (R350). -/
def transFlags (op : Nat) (x : W32) : Nat :=
  match f32 x.toNat with
  | .nan sg => b2n sg
  | .inf neg => if neg && (op = 0x67 || op = 0x69) then 1 else 0
  | .fin neg m _ =>
    if m = 0 then (if op = 0x66 then 0 else 2)
    else if neg && (op = 0x67 || op = 0x69) then 1
    else Config.transFlags op x % 32

/-- A transcendental lane: result and flags. -/
def transLane (op : Nat) (x : W32) : FpRes :=
  ⟨match op with | 0x66 => exp2Lane x | 0x67 => log2Lane x | 0x68 => rcpLane x | _ => rsqLane x, transFlags op x⟩

end Sys2Proof.Machine
end

