-- ==== Sys2Proof/Machine/TileVec.lean ====
section
/-! DEFINITION. The vector instructions of Syurdun (R348 to R351). -/
namespace Sys2Proof.Machine

/-- The 128 lanes of a vector register. -/
def vReg (T : Tile) (r : Nat) : List W32 := (List.range 128).map (fun i => tget (fun _ => 0) T.v (r * 128 + i))

/-- One lane of a vector register. -/
def vLane (T : Tile) (r i : Nat) : W32 := tget (fun _ => 0) T.v (r * 128 + i)

/-- Writes lanes from a key on. -/
def putLanes (tb : Tbl W32) (k : Nat) : List W32 → Tbl W32
  | [] => tb
  | x :: l => putLanes (tset (fun _ => 0) tb k x) (k + 1) l

/-- Writes a vector register. -/
def setV (s : State) (t r : Nat) (l : List W32) : State := tileMod s t (fun T => { T with v := putLanes T.v (r * 128) l })

/-- Sets sticky bits of fflags. -/
def raise (s : State) (t f : Nat) : State := tileMod s t (fun T => { T with fflags := T.fflags ||| w64 (f % 32) })

/-- The flags of a list of results. -/
def allFlags (l : List FpRes) : Nat := l.foldl (fun n r => Nat.lor n r.flags) 0

/-- Writes results to a vector register, with their flags. -/
def setRes (s : State) (t r : Nat) (l : List FpRes) : State :=
  raise (setV s t r (l.map (fun x => BitVec.ofNat 32 x.bits))) t (allFlags l)

/-- A lane operation of two registers. -/
def vec2 (s : State) (t o : Nat) (f : Nat → Nat → FpRes) : State :=
  tileOp s t o (fun T w => .done (setRes s t (iD w)
    (List.zipWith (fun a b => f a.toNat b.toNat) (vReg T (iA w)) (vReg T (iB w)))))

/-- A transcendental operation. -/
def vecTrans (s : State) (t o : Nat) : State :=
  tileOp s t o (fun T w => .done (setRes s t (iD w) ((vReg T (iA w)).map (transLane o))))

/-! ### Loads and stores -/

/-- Splits bytes into n little-endian numbers of k bytes. -/
def lanesOf (k : Nat) : Nat → List Byte → List Nat
  | 0, _ => []
  | n + 1, b => leAt b 0 k :: lanesOf k n (b.drop k)

/-- Joins numbers as k little-endian bytes each. -/
def joined (k : Nat) : List Nat → List Byte
  | [] => []
  | x :: l => leBytes k x ++ joined k l

/-- VLD: 512 bytes at a 64-byte-aligned offset. -/
def execTVld (tile : Nat) (s : State) : Host.Outcome State Fault Refusal :=
  .next (tileOp s tile 0x50 (fun T w =>
    let off := memOff T w
    atOffset off 512 64 (reading s tile off 512 (fun b =>
      .done (setV s tile (iD w) ((lanesOf 4 128 b).map (BitVec.ofNat 32)))))))

/-- VST. -/
def execTVst (tile : Nat) (s : State) : Host.Outcome State Fault Refusal :=
  .next (tileOp s tile 0x51 (fun T w =>
    let off := memOff T w
    atOffset off 512 64 (.done (tileStore s tile off (joined 4 ((vReg T (iD w)).map (·.toNat)))))))

/-- A signalling NaN of a narrow format sets NV when it is widened. -/
def widenRes (fp16 : Bool) (b : Nat) : FpRes :=
  ⟨widen fp16 b, match (if fp16 then fpDecode 5 10 b else fpDecode 8 7 b) with | .nan sg => b2n sg | _ => 0⟩

/-- VLDH: 128 BF16 or FP16 values, widened exactly. -/
def execTVldh (tile : Nat) (s : State) : Host.Outcome State Fault Refusal :=
  .next (tileOp s tile 0x52 (fun T w =>
    let off := memOff T w
    atOffset off 256 64 (reading s tile off 256 (fun b =>
      .done (setRes s tile (iD w) ((lanesOf 2 128 b).map (widenRes (nbit (iFnI w) 0))))))))

/-- VSTH: narrowed as in Table 12-1. -/
def execTVsth (tile : Nat) (s : State) : Host.Outcome State Fault Refusal :=
  .next (tileOp s tile 0x53 (fun T w =>
    let off := memOff T w
    let l := (vReg T (iD w)).map (fun x => narrow (nbit (iFnI w) 0) x.toNat)
    atOffset off 256 64 (.done (raise (tileStore s tile off (joined 2 (l.map (·.bits)))) tile (allFlags l)))))

/-- Bytes of 128 packed elements of a format. -/
def packBytes (code : Nat) : Nat := 16 * fmtBits code

/-- VLDMX (R351): codes 0 to 5; lane i takes element i times the scale of its block. -/
def execTVldmx (tile : Nat) (s : State) : Host.Outcome State Fault Refusal :=
  .next (tileOp s tile 0x54 (fun T w =>
    let code := iFn w
    let a := (gReg T (iA w)).toNat
    let b := (gReg T (iB w)).toNat
    if 6 ≤ code then .trap 5 code
    else atOffset a (packBytes code) 64 (atOffset b 4 4
      (reading s tile a (packBytes code) (fun e => reading s tile b 4 (fun sc =>
        .done (setV s tile (iD w) ((List.range 128).map (fun i =>
          BitVec.ofNat 32 (toF32 (mxValue code (packedGet (fmtBits code) e i) (leAt sc (i / 32) 1))).bits)))))))))

/-- VSTMX (R351): each block of 32 lanes is encoded under the rule of R296. -/
def execTVstmx (tile : Nat) (s : State) : Host.Outcome State Fault Refusal :=
  .next (tileOp s tile 0x55 (fun T w =>
    let code := iFn w
    let a := (gReg T (iA w)).toNat
    let b := (gReg T (iB w)).toNat
    if 6 ≤ code then .trap 5 code
    else
      let l := (vReg T (iD w)).map (fun x => f32 x.toNat)
      let q := (List.range 4).map (fun k => mxBlock code ((l.drop (32 * k)).take 32))
      atOffset a (packBytes code) 64 (atOffset b 4 4
        (.done (tileStore (tileStore s tile a (packed (fmtBits code) (q.map (·.2)).flatten)) tile b (joined 1 (q.map (·.1))))))))

/-! ### Arithmetic -/

/-- VADD. -/
def execTVadd (tile : Nat) (s : State) : Host.Outcome State Fault Refusal := .next (vec2 s tile 0x60 f32Add)

/-- VSUB. -/
def execTVsub (tile : Nat) (s : State) : Host.Outcome State Fault Refusal := .next (vec2 s tile 0x61 f32Sub)

/-- VMUL. -/
def execTVmul (tile : Nat) (s : State) : Host.Outcome State Fault Refusal := .next (vec2 s tile 0x62 f32Mul)

/-- VFMA. -/
def execTVfma (tile : Nat) (s : State) : Host.Outcome State Fault Refusal :=
  .next (tileOp s tile 0x63 (fun T w => .done (setRes s tile (iD w)
    ((List.range 128).map (fun i => f32Fma (vLane T (iA w) i).toNat (vLane T (iB w) i).toNat (vLane T (iC w) i).toNat)))))

/-- VMAX. -/
def execTVmax (tile : Nat) (s : State) : Host.Outcome State Fault Refusal := .next (vec2 s tile 0x64 (f32MinMax true))

/-- VMIN. -/
def execTVmin (tile : Nat) (s : State) : Host.Outcome State Fault Refusal := .next (vec2 s tile 0x65 (f32MinMax false))

/-- VEXP2. -/
def execTVexp2 (tile : Nat) (s : State) : Host.Outcome State Fault Refusal := .next (vecTrans s tile 0x66)

/-- VLOG2. -/
def execTVlog2 (tile : Nat) (s : State) : Host.Outcome State Fault Refusal := .next (vecTrans s tile 0x67)

/-- VRCP. -/
def execTVrcp (tile : Nat) (s : State) : Host.Outcome State Fault Refusal := .next (vecTrans s tile 0x68)

/-- VRSQ. -/
def execTVrsq (tile : Nat) (s : State) : Host.Outcome State Fault Refusal := .next (vecTrans s tile 0x69)

/-- One level of the tree of VRED: adjacent results go together. -/
def redLevel (f : Nat → Nat → FpRes) : List FpRes → List FpRes
  | x :: y :: r => { f x.bits y.bits with flags := Nat.lor (Nat.lor x.flags y.flags) (f x.bits y.bits).flags } :: redLevel f r
  | l => l

/-- The tree of n levels. -/
def redTree (f : Nat → Nat → FpRes) : Nat → List FpRes → List FpRes
  | 0, l => l
  | n + 1, l => redTree f n (redLevel f l)

/-- VRED (R350): SUM in a fixed tree of seven levels, MAX, MIN. -/
def execTVred (tile : Nat) (s : State) : Host.Outcome State Fault Refusal :=
  .next (tileOp s tile 0x6A (fun T w =>
    let f := match iFn w with | 0 => f32Add | 1 => f32MinMax true | _ => f32MinMax false
    let r := ((redTree f 7 ((vReg T (iA w)).map (fun x => ⟨x.toNat, 0⟩))).head?).getD ⟨0, 0⟩
    .done (raise (setG s tile (iD w) (w64 r.bits)) tile r.flags)))

/-- An operation of VINT. -/
def vintOp (fn : Nat) (a b : W32) : W32 :=
  let sh := b.toNat % 32
  match fn with
  | 0 => a + b
  | 1 => a - b
  | 2 => a &&& b
  | 3 => a ||| b
  | 4 => a ^^^ b
  | 5 => a <<< sh
  | 6 => a >>> sh
  | 7 => a.sshiftRight sh
  | _ => a * b

/-- VINT. -/
def execTVint (tile : Nat) (s : State) : Host.Outcome State Fault Refusal :=
  .next (tileOp s tile 0x6B (fun T w => .done (setV s tile (iD w) (List.zipWith (vintOp (iFn w)) (vReg T (iA w)) (vReg T (iB w))))))

/-- A comparison of VCMP: a NaN compares true only under NE; NV for a signalling NaN, and under LT and LE for any NaN. -/
def vcmpOp (fn a b : Nat) : FpRes :=
  let c := f32Cmp a b
  let r := match fn with
    | 0 => decide (c = some 0)
    | 1 => decide (c ≠ some 0)
    | 2 => decide (c = some (-1))
    | _ => decide (c = some (-1) ∨ c = some 0)
  ⟨if r then 0xFFFFFFFF else 0, b2n (f32Signal a || f32Signal b || (decide (2 ≤ fn) && c.isNone))⟩

/-- VCMP. -/
def execTVcmp (tile : Nat) (s : State) : Host.Outcome State Fault Refusal :=
  .next (tileOp s tile 0x6C (fun T w => .done (setRes s tile (iD w)
    (List.zipWith (fun a b => vcmpOp (iFn w) a.toNat b.toNat) (vReg T (iA w)) (vReg T (iB w))))))

/-- VSEL. -/
def execTVsel (tile : Nat) (s : State) : Host.Outcome State Fault Refusal :=
  .next (tileOp s tile 0x6D (fun T w => .done (setV s tile (iD w)
    ((List.range 128).map (fun i => if vLane T (iC w) i = 0 then vLane T (iB w) i else vLane T (iA w) i)))))

/-- VBCAST. -/
def execTVbcast (tile : Nat) (s : State) : Host.Outcome State Fault Refusal :=
  .next (tileOp s tile 0x6E (fun T w => .done (setV s tile (iD w) (List.replicate 128 ((gReg T (iA w)).setWidth 32)))))

/-- VEXT: lane FN[6:0], zero-extended. -/
def execTVext (tile : Nat) (s : State) : Host.Outcome State Fault Refusal :=
  .next (tileOp s tile 0x6F (fun T w => .done (setG s tile (iD w) ((vLane T (iA w) (iFn w)).setWidth 64))))

/-- VINS: the other lanes are kept. -/
def execTVins (tile : Nat) (s : State) : Host.Outcome State Fault Refusal :=
  .next (tileOp s tile 0x70 (fun T w => .done (tileMod s tile (fun T1 =>
    { T1 with v := tset (fun _ => 0) T1.v (iD w * 128 + iFn w) ((gReg T (iA w)).setWidth 32) }))))

/-- VCVT. -/
def execTVcvt (tile : Nat) (s : State) : Host.Outcome State Fault Refusal :=
  .next (tileOp s tile 0x71 (fun T w => .done (setRes s tile (iD w)
    ((vReg T (iA w)).map (fun x => if iFn w = 0 then f32ToInt x.toNat else intToF32 x.toNat)))))

end Sys2Proof.Machine
end

