-- ==== Sys2Proof/Machine/TileMat.lean ====
section
/-! DEFINITION. The matrix instructions of Syurdun (R352 to R355). -/
namespace Sys2Proof.Machine

/-- Key of element (i, j) of an accumulator. -/
def accKey (r i j : Nat) : Nat := r * 9216 + i * 96 + j

/-- An element of an accumulator. -/
def accGet (T : Tile) (r i j : Nat) : Nat := (tget (fun _ => 0) T.acc (accKey r i j)).toNat

/-- Writes n elements of a row from column 0. -/
def accRow (s : State) (t r i : Nat) (l : List Nat) : State :=
  tileMod s t (fun T => { T with acc := putLanes T.acc (accKey r i 0) (l.map (BitVec.ofNat 32)) })

/-- M, N and K of mshape. -/
def shapeM (T : Tile) : Nat := fld T.mshape 6 0

/-- N. -/
def shapeN (T : Tile) : Nat := fld T.mshape 14 8

/-- K. -/
def shapeK (T : Tile) : Nat := fld T.mshape 31 16

/-- M and N lie in 1 to 96 (R352). -/
def mnOk (T : Tile) : Bool := decide (1 ≤ shapeM T ∧ shapeM T ≤ 96 ∧ 1 ≤ shapeN T ∧ shapeN T ≤ 96)

/-- FMTA and FMTB go together (R352): the same MAC rate, INT4, BF16 and FP16 only with themselves. -/
def fmtPair (a b : Nat) : Bool :=
  decide (a ≤ 8 ∧ b ≤ 8) && (decide (a = b) || decide (1 ≤ a ∧ a ≤ 5 ∧ 1 ≤ b ∧ b ≤ 5))

/-- The formats are MX formats, with scales. -/
def isMx (code : Nat) : Bool := decide (code ≤ 5)

/-- The value of a packed operand element. -/
def elemOf (code : Nat) (b : List Byte) (k : Nat) : Fp := mxDecode code (packedGet (fmtBits code) b k)

/-- Adds the products of n elements from k to a sum. -/
def dotFrom (ca cb : Nat) (a b : List Byte) : Nat → Nat → Fp → Fp
  | 0, _, x => x
  | n + 1, k, x => dotFrom ca cb a b n (k + 1) (fpAdd x (fpMul (elemOf ca a k) (elemOf cb b k)))

/-- The contribution of block q (R353): an exact sum of 32 exact products times both scales; an exact zero is +0. -/
def blockSum (ca cb : Nat) (a b sa sb : List Byte) (q : Nat) : Fp :=
  let x := dotFrom ca cb a b 32 (32 * q) (.fin false 0 0)
  let y := if isMx ca then
      (if leAt sa q 1 = 255 ∨ leAt sb q 1 = 255 then .nan false
       else fpScale x (Int.ofNat (leAt sa q 1) + Int.ofNat (leAt sb q 1) - 254)) else x
  match y with
  | .fin _ 0 _ => .fin false 0 0
  | z => z

/-- Applies n blocks from q in ascending order to an accumulator element. -/
def blocksFrom (ca cb : Nat) (a b sa sb : List Byte) : Nat → Nat → Nat → Nat
  | 0, _, acc => acc
  | n + 1, q, acc => blocksFrom ca cb a b sa sb n (q + 1) (toF32 (fpAdd (f32 acc) (blockSum ca cb a b sa sb q))).bits

/-- Rows i of m of an operand at a base with a stride. -/
def stripes (s : State) (t base stride n m : Nat) : List (List Byte) :=
  (List.range m).map (fun i => memBytes s (tileAddr t (base + i * stride)) n)

/-- A strided operand of m rows of n bytes is in bounds. -/
def stripesIn (base stride n m : Nat) : Bool := decide (base + (m - 1) * stride + n ≤ 2 ^ 22)

/-- A word of a strided operand is poisoned. -/
def stripesBad (s : State) (t base stride n m : Nat) : Bool :=
  (List.range m).any (fun i => anyPoison s (tileAddr t (base + i * stride)) n)

/-- MMA (R352, R353). -/
def execTMma (tile : Nat) (s : State) : Host.Outcome State Fault Refusal :=
  .next (tileOp s tile 0x81 (fun T w =>
    let a := (gReg T (iA w)).toNat
    let b := (gReg T (iB w)).toNat
    let c := gReg T (iC w)
    let ca := fld T.mfmt 3 0
    let cb := fld T.mfmt 7 4
    let m := shapeM T
    let n := shapeN T
    let k := shapeK T
    let sa := fld T.mstride 21 0
    let sb := fld T.mstride 53 32
    let la := k * fmtBits ca / 8
    let lb := k * fmtBits cb / 8
    let ka := fld c 21 0
    let kb := fld c 53 32
    let nq := k / 32
    if !fmtPair ca cb then .trap 5 T.mfmt.toNat
    else if !mnOk T || decide (k % 32 ≠ 0 ∨ k < 32 ∨ 16384 < k) then .trap 5 T.mshape.toNat
    else if sa % 16 ≠ 0 ∨ sb % 16 ≠ 0 ∨ sa < la ∨ sb < lb then .trap 5 T.mstride.toNat
    else if a % 16 ≠ 0 then .trap 5 a
    else if b % 16 ≠ 0 then .trap 5 b
    else if !stripesIn a sa la m then .trap 4 a
    else if !stripesIn b sb lb n then .trap 4 b
    else if isMx ca ∧ 2 ^ 22 < ka + m * nq then .trap 4 ka
    else if isMx ca ∧ 2 ^ 22 < kb + n * nq then .trap 4 kb
    else if stripesBad s tile a sa la m then .trap 8 a
    else if stripesBad s tile b sb lb n then .trap 8 b
    else if isMx ca ∧ anyPoison s (tileAddr tile ka) (m * nq) then .trap 8 ka
    else if isMx ca ∧ anyPoison s (tileAddr tile kb) (n * nq) then .trap 8 kb
    else
      let cols := stripes s tile b sb lb n
      let scb := stripes s tile kb nq nq n
      .done ((List.range m).foldl (fun s1 i =>
        let row := memBytes s (tileAddr tile (a + i * sa)) la
        let sca := memBytes s (tileAddr tile (ka + i * nq)) nq
        accRow s1 tile (iD w) i ((List.range n).map (fun j =>
          blocksFrom ca cb row (cols.getD j []) sca (scb.getD j []) nq 0 (accGet T (iD w) i j)))) s)))

/-- MZERO. -/
def execTMzero (tile : Nat) (s : State) : Host.Outcome State Fault Refusal :=
  .next (tileOp s tile 0x80 (fun _ w => .done (tileMod s tile (fun T =>
    { T with acc := T.acc.filter (fun e => e.1 / 9216 ≠ iD w) }))))

/-- Bytes of an element that MSTORE and MLOAD move: FP32, BF16, FP16. -/
def moveSize (fn : Nat) : Nat := if fn = 0 then 4 else 2

/-- The checks of MSTORE and MLOAD (R355): the shape and OS, then the bounds. -/
def moveCheck (T : Tile) (fn base : Nat) (f : Eff) : Eff :=
  let os := fld T.ostride 21 0
  let len := shapeN T * moveSize fn
  if !mnOk T then .trap 5 T.mshape.toNat
  else if os % 16 ≠ 0 ∨ os < len then .trap 5 T.ostride.toNat
  else if !stripesIn base os len (shapeM T) then .trap 4 base
  else f

/-- MSTORE (R355). -/
def execTMstore (tile : Nat) (s : State) : Host.Outcome State Fault Refusal :=
  .next (tileOp s tile 0x82 (fun T w =>
    let b := (gReg T (iB w)).toNat
    let os := fld T.ostride 21 0
    moveCheck T (iFn w) b (.done ((List.range (shapeM T)).foldl (fun s1 i =>
      let row := (List.range (shapeN T)).map (fun j =>
        let x := accGet T (iA w) i j
        if iFn w = 0 then x else (narrow (decide (iFn w = 2)) x).bits)
      tileStore s1 tile (b + i * os) (joined (moveSize (iFn w)) row)) s))))

/-- MLOAD (R355). -/
def execTMload (tile : Nat) (s : State) : Host.Outcome State Fault Refusal :=
  .next (tileOp s tile 0x83 (fun T w =>
    let a := (gReg T (iA w)).toNat
    let os := fld T.ostride 21 0
    let sz := moveSize (iFn w)
    moveCheck T (iFn w) a
      (if stripesBad s tile a os (shapeN T * sz) (shapeM T) then .trap 8 a
       else .done ((List.range (shapeM T)).foldl (fun s1 i =>
         let row := lanesOf sz (shapeN T) (memBytes s (tileAddr tile (a + i * os)) (shapeN T * sz))
         accRow s1 tile (iD w) i (if iFn w = 0 then row else row.map (widen (decide (iFn w = 2))))) s))))

/-- MROW: lanes 96 to 127 become 0; a row above 95 traps OPERAND. -/
def execTMrow (tile : Nat) (s : State) : Host.Outcome State Fault Refusal :=
  .next (tileOp s tile 0x84 (fun T w =>
    if 95 < iFn w then .trap 5 (iFn w)
    else .done (setV s tile (iD w)
      ((List.range 128).map (fun j => if j < 96 then BitVec.ofNat 32 (accGet T (iA w) (iFn w) j) else 0)))))

/-- MSETROW. -/
def execTMsetrow (tile : Nat) (s : State) : Host.Outcome State Fault Refusal :=
  .next (tileOp s tile 0x85 (fun T w =>
    if 95 < iFn w then .trap 5 (iFn w)
    else .done (accRow s tile (iD w) (iFn w) ((List.range 96).map (fun j => (vLane T (iA w) j).toNat)))))

end Sys2Proof.Machine
end

