-- ==== Sys2Proof/Machine/Dispatch.lean ====
section
/-! DEFINITION. One arm for each command: a direct call of its meaning. -/
namespace Sys2Proof.Machine

/-- The effect of a command on everything but the queue of waiting commands. -/
def exec (i : Instr) (s : State) : Host.Outcome State Fault Refusal :=
  match i with
  | .standbyPowerUp => Sys2Proof.Machine.execStandbyPowerUp s
  | .standbyPowerLoss => Sys2Proof.Machine.execStandbyPowerLoss s
  | .mgReset => Sys2Proof.Machine.execMgReset s
  | .rspSelfTestDone quad atNs pass straps valid0 valid1 => Sys2Proof.Machine.execRspSelfTestDone quad atNs pass straps valid0 valid1 s
  | .electionTimeout => Sys2Proof.Machine.execElectionTimeout s
  | .primaryFailure pcie => Sys2Proof.Machine.execPrimaryFailure pcie s
  | .crossingHang crossing => Sys2Proof.Machine.execCrossingHang crossing s
  | .powerSample watts mv10 ma10 => Sys2Proof.Machine.execPowerSample watts mv10 ma10 s
  | .powerEvaluation => Sys2Proof.Machine.execPowerEvaluation s
  | .powerCapFault => Sys2Proof.Machine.execPowerCapFault s
  | .powerUndo => Sys2Proof.Machine.execPowerUndo s
  | .thermalSample tj0 tj1 tj2 tj3 inlet outlet => Sys2Proof.Machine.execThermalSample tj0 tj1 tj2 tj3 inlet outlet s
  | .inletOvertempTimeout => Sys2Proof.Machine.execInletOvertempTimeout s
  | .undervoltageTrip => Sys2Proof.Machine.execUndervoltageTrip s
  | .overcurrentTrip => Sys2Proof.Machine.execOvercurrentTrip s
  | .mainPowerLoss => Sys2Proof.Machine.execMainPowerLoss s
  | .mainPowerReturn => Sys2Proof.Machine.execMainPowerReturn s
  | .mainDomainGood partsOk => Sys2Proof.Machine.execMainDomainGood partsOk s
  | .perstAssert => Sys2Proof.Machine.execPerstAssert s
  | .perstDeassert => Sys2Proof.Machine.execPerstDeassert s
  | .memoryTrained failed => Sys2Proof.Machine.execMemoryTrained failed s
  | .bootScrubDone partsOk cores badSites factoryOk userOk => Sys2Proof.Machine.execBootScrubDone partsOk cores badSites factoryOk userOk s
  | .unitsReady rspLink selfTest => Sys2Proof.Machine.execUnitsReady rspLink selfTest s
  | .bootTimeout => Sys2Proof.Machine.execBootTimeout s
  | .numvfsWrite n => Sys2Proof.Machine.execNumvfsWrite n s
  | .vfEnableSet => Sys2Proof.Machine.execVfEnableSet s
  | .vfEnableClear => Sys2Proof.Machine.execVfEnableClear s
  | .vfFlr vf => Sys2Proof.Machine.execVfFlr vf s
  | .pfFlr => Sys2Proof.Machine.execPfFlr s
  | .windowWrite fn off bytes => Sys2Proof.Machine.execWindowWrite fn off bytes s
  | .windowRead fn off len bus => Sys2Proof.Machine.execWindowRead fn off len bus s
  | .winCtxWrite fn value => Sys2Proof.Machine.execWinCtxWrite fn value s
  | .dataPortWrite port off bytes => Sys2Proof.Machine.execDataPortWrite port off bytes s
  | .dataPortRead port off len bus => Sys2Proof.Machine.execDataPortRead port off len bus s
  | .dataPortCtxWrite port value => Sys2Proof.Machine.execDataPortCtxWrite port value s
  | .dataPortCommit port value => Sys2Proof.Machine.execDataPortCommit port value s
  | .prefetchFill port epoch off len bus => Sys2Proof.Machine.execPrefetchFill port epoch off len bus s
  | .doorbell fn q off len value => Sys2Proof.Machine.execDoorbell fn q off len value s
  | .inlineSlotWrite fn q off bytes => Sys2Proof.Machine.execInlineSlotWrite fn q off bytes s
  | .inlineWaitRelease queue => Sys2Proof.Machine.execInlineWaitRelease queue s
  | .msixUnmask fn vec => Sys2Proof.Machine.execMsixUnmask fn vec s
  | .abiAgree fn version => Sys2Proof.Machine.execAbiAgree fn version s
  | .wqmDoorbellTake queue => Sys2Proof.Machine.execWqmDoorbellTake queue s
  | .ringReadComplete queue idx bus => Sys2Proof.Machine.execRingReadComplete queue idx bus s
  | .refetchTimer queue idx => Sys2Proof.Machine.execRefetchTimer queue idx s
  | .fragmentTableRead queue idx bus => Sys2Proof.Machine.execFragmentTableRead queue idx bus s
  | .entryStart queue idx => Sys2Proof.Machine.execEntryStart queue idx s
  | .entryFinish queue idx => Sys2Proof.Machine.execEntryFinish queue idx s
  | .headWriteComplete queue => Sys2Proof.Machine.execHeadWriteComplete queue s
  | .queueIrqTimer queue => Sys2Proof.Machine.execQueueIrqTimer queue s
  | .queueSelect fn value => Sys2Proof.Machine.execQueueSelect fn value s
  | .queueEnable fn value => Sys2Proof.Machine.execQueueEnable fn value s
  | .queueDisable fn value => Sys2Proof.Machine.execQueueDisable fn value s
  | .queueFlush fn value => Sys2Proof.Machine.execQueueFlush fn value s
  | .queueConfigWrite fn off value => Sys2Proof.Machine.execQueueConfigWrite fn off value s
  | .vWrite queue idx => Sys2Proof.Machine.execVWrite queue idx s
  | .vRead queue idx => Sys2Proof.Machine.execVRead queue idx s
  | .vSend queue idx => Sys2Proof.Machine.execVSend queue idx s
  | .vAtomic queue idx => Sys2Proof.Machine.execVAtomic queue idx s
  | .vReduceWrite queue idx => Sys2Proof.Machine.execVReduceWrite queue idx s
  | .vGatherReduce queue idx => Sys2Proof.Machine.execVGatherReduce queue idx s
  | .vInvoke queue idx => Sys2Proof.Machine.execVInvoke queue idx s
  | .invokeTimeout queue idx => Sys2Proof.Machine.execInvokeTimeout queue idx s
  | .vCollective queue idx => Sys2Proof.Machine.execVCollective queue idx s
  | .vCrypt queue idx => Sys2Proof.Machine.execVCrypt queue idx s
  | .vInvalidate queue idx => Sys2Proof.Machine.execVInvalidate queue idx s
  | .invalidateDrainDone queue idx => Sys2Proof.Machine.execInvalidateDrainDone queue idx s
  | .vFence queue idx => Sys2Proof.Machine.execVFence queue idx s
  | .vRegister queue idx => Sys2Proof.Machine.execVRegister queue idx s
  | .vRevoke queue idx => Sys2Proof.Machine.execVRevoke queue idx s
  | .tenantActivate queue idx => Sys2Proof.Machine.execTenantActivate queue idx s
  | .tenantTeardown queue idx => Sys2Proof.Machine.execTenantTeardown queue idx s
  | .tenantQuery queue idx => Sys2Proof.Machine.execTenantQuery queue idx s
  | .recvPost queue idx => Sys2Proof.Machine.execRecvPost queue idx s
  | .contextRootWrite fn value => Sys2Proof.Machine.execContextRootWrite fn value s
  | .contextValidSet fn value => Sys2Proof.Machine.execContextValidSet fn value s
  | .contextValidClear fn value => Sys2Proof.Machine.execContextValidClear fn value s
  | .fabricEnWrite fn value => Sys2Proof.Machine.execFabricEnWrite fn value s
  | .tableWalkComplete ctx addr word => Sys2Proof.Machine.execTableWalkComplete ctx addr word s
  | .regionCacheTimeout => Sys2Proof.Machine.execRegionCacheTimeout s
  | .qpConfigWrite fn off value => Sys2Proof.Machine.execQpConfigWrite fn off value s
  | .qpConnect fn value => Sys2Proof.Machine.execQpConnect fn value s
  | .qpClose fn value => Sys2Proof.Machine.execQpClose fn value s
  | .qpReset fn value => Sys2Proof.Machine.execQpReset fn value s
  | .connectRetryTimer conn => Sys2Proof.Machine.execConnectRetryTimer conn s
  | .connectTimeout conn => Sys2Proof.Machine.execConnectTimeout conn s
  | .connectReqReceive packet => Sys2Proof.Machine.execConnectReqReceive packet s
  | .connectAccReceive packet => Sys2Proof.Machine.execConnectAccReceive packet s
  | .connectRejReceive packet => Sys2Proof.Machine.execConnectRejReceive packet s
  | .connectCloseReceive packet => Sys2Proof.Machine.execConnectCloseReceive packet s
  | .closeAckReceive packet => Sys2Proof.Machine.execCloseAckReceive packet s
  | .closingTimeout conn => Sys2Proof.Machine.execClosingTimeout conn s
  | .channelIdleTimeout conn => Sys2Proof.Machine.execChannelIdleTimeout conn s
  | .contextFetchComplete conn => Sys2Proof.Machine.execContextFetchComplete conn s
  | .coreSliceEnd core => Sys2Proof.Machine.execCoreSliceEnd core s
  | .transportCoreFailure core => Sys2Proof.Machine.execTransportCoreFailure core s
  | .sourceReadComplete read bus => Sys2Proof.Machine.execSourceReadComplete read bus s
  | .headsReceive packet => Sys2Proof.Machine.execHeadsReceive packet s
  | .dataCellReceive packet => Sys2Proof.Machine.execDataCellReceive packet s
  | .earlyCellTimeout conn csn => Sys2Proof.Machine.execEarlyCellTimeout conn csn s
  | .cellPlacement conn msn off resp bus => Sys2Proof.Machine.execCellPlacement conn msn off resp bus s
  | .orderedHeadExecute conn msn bus => Sys2Proof.Machine.execOrderedHeadExecute conn msn bus s
  | .abortHeadReceive packet => Sys2Proof.Machine.execAbortHeadReceive packet s
  | .ackDelayTimer conn => Sys2Proof.Machine.execAckDelayTimer conn s
  | .ackReceive packet => Sys2Proof.Machine.execAckReceive packet s
  | .rtoExpiry conn csn => Sys2Proof.Machine.execRtoExpiry conn csn s
  | .rnrWaitTimer conn => Sys2Proof.Machine.execRnrWaitTimer conn s
  | .responseCellReceive packet => Sys2Proof.Machine.execResponseCellReceive packet s
  | .replyReceive packet => Sys2Proof.Machine.execReplyReceive packet s
  | .atomicopComplete ref result => Sys2Proof.Machine.execAtomicopComplete ref result s
  | .responseCacheExpiry node conn msn => Sys2Proof.Machine.execResponseCacheExpiry node conn msn s
  | .fabricAccessReceive packet => Sys2Proof.Machine.execFabricAccessReceive packet s
  | .mirrorWriteTimer => Sys2Proof.Machine.execMirrorWriteTimer s
  | .mirrorFlushComplete conn msn => Sys2Proof.Machine.execMirrorFlushComplete conn msn s
  | .heartbeatTimeout heads => Sys2Proof.Machine.execHeartbeatTimeout heads s
  | .handoffRecordSeen conn head => Sys2Proof.Machine.execHandoffRecordSeen conn head s
  | .takenRecordSeen conn => Sys2Proof.Machine.execTakenRecordSeen conn s
  | .peerFlushComplete tag ok => Sys2Proof.Machine.execPeerFlushComplete tag ok s
  | .creditGrantReceive conn count lifetime gseq => Sys2Proof.Machine.execCreditGrantReceive conn count lifetime gseq s
  | .creditDemandReceive conn backlog => Sys2Proof.Machine.execCreditDemandReceive conn backlog s
  | .grantIssue path => Sys2Proof.Machine.execGrantIssue path s
  | .grantExpiry conn gseq => Sys2Proof.Machine.execGrantExpiry conn gseq s
  | .grantReclaimTimer conn gseq => Sys2Proof.Machine.execGrantReclaimTimer conn gseq s
  | .demandRepeatTimer conn => Sys2Proof.Machine.execDemandRepeatTimer conn s
  | .creditTimeout conn msn => Sys2Proof.Machine.execCreditTimeout conn msn s
  | .schedulerPick egress => Sys2Proof.Machine.execSchedulerPick egress s
  | .shaperRefill => Sys2Proof.Machine.execShaperRefill s
  | .capacityFactorApply egress => Sys2Proof.Machine.execCapacityFactorApply egress s
  | .routerPass link cell => Sys2Proof.Machine.execRouterPass link cell s
  | .cellEject chan => Sys2Proof.Machine.execCellEject chan s
  | .cellInject => Sys2Proof.Machine.execCellInject s
  | .mcHoldTimeout => Sys2Proof.Machine.execMcHoldTimeout s
  | .linkEnable link => Sys2Proof.Machine.execLinkEnable link s
  | .linkDisable link => Sys2Proof.Machine.execLinkDisable link s
  | .linkRetrain link => Sys2Proof.Machine.execLinkRetrain link s
  | .trainingWordReceive link id failed => Sys2Proof.Machine.execTrainingWordReceive link id failed s
  | .trainingTimeout link => Sys2Proof.Machine.execTrainingTimeout link s
  | .lossOfSignal link lock => Sys2Proof.Machine.execLossOfSignal link lock s
  | .noBlockTimeout link => Sys2Proof.Machine.execNoBlockTimeout link s
  | .fecRateExceeded link words => Sys2Proof.Machine.execFecRateExceeded link words s
  | .linkDownTimer link => Sys2Proof.Machine.execLinkDownTimer link s
  | .linkHoldExpiry link => Sys2Proof.Machine.execLinkHoldExpiry link s
  | .noticeFallbackTimer conn => Sys2Proof.Machine.execNoticeFallbackTimer conn s
  | .noticeReceive link cell => Sys2Proof.Machine.execNoticeReceive link cell s
  | .frameReceive port frame pcs fill chan => Sys2Proof.Machine.execFrameReceive port frame pcs fill chan s
  | .pfcPauseExpiry port prio => Sys2Proof.Machine.execPfcPauseExpiry port prio s
  | .pfcRefreshTimer port prio fill => Sys2Proof.Machine.execPfcRefreshTimer port prio fill s
  | .frameTransmitDone port queue idx => Sys2Proof.Machine.execFrameTransmitDone port queue idx s
  | .portFault port near far => Sys2Proof.Machine.execPortFault port near far s
  | .portUp port skew => Sys2Proof.Machine.execPortUp port skew s
  | .laneFailure lane los => Sys2Proof.Machine.execLaneFailure lane los s
  | .laneDegraded lane symbols => Sys2Proof.Machine.execLaneDegraded lane symbols s
  | .oneLaneTimer link => Sys2Proof.Machine.execOneLaneTimer link s
  | .rotationStepTimer conn => Sys2Proof.Machine.execRotationStepTimer conn s
  | .rotReq conn pos => Sys2Proof.Machine.execRotReq conn pos s
  | .rotAck conn pos => Sys2Proof.Machine.execRotAck conn pos s
  | .laneMatch conn marker => Sys2Proof.Machine.execLaneMatch conn marker s
  | .matchAchieved conn marker agreed => Sys2Proof.Machine.execMatchAchieved conn marker agreed s
  | .laneSwitch conn marker => Sys2Proof.Machine.execLaneSwitch conn marker s
  | .switchMarker conn => Sys2Proof.Machine.execSwitchMarker conn s
  | .laneBack conn pos => Sys2Proof.Machine.execLaneBack conn pos s
  | .laneFailMsg conn pos => Sys2Proof.Machine.execLaneFailMsg conn pos s
  | .spareIn conn pos => Sys2Proof.Machine.execSpareIn conn pos s
  | .rotationAbort conn => Sys2Proof.Machine.execRotationAbort conn s
  | .calibrationDone conn height width degraded => Sys2Proof.Machine.execCalibrationDone conn height width degraded s
  | .calibrationTimeout conn => Sys2Proof.Machine.execCalibrationTimeout conn s
  | .laneRecal lane => Sys2Proof.Machine.execLaneRecal lane s
  | .laneForceFail lane => Sys2Proof.Machine.execLaneForceFail lane s
  | .laneRestore lane pass => Sys2Proof.Machine.execLaneRestore lane pass s
  | .moduleInsert cage revision power => Sys2Proof.Machine.execModuleInsert cage revision power s
  | .moduleRemove cage => Sys2Proof.Machine.execModuleRemove cage s
  | .moduleInterrupt cage ready => Sys2Proof.Machine.execModuleInterrupt cage ready s
  | .collectiveStart queue idx bus => Sys2Proof.Machine.execCollectiveStart queue idx bus s
  | .memberListRead queue idx => Sys2Proof.Machine.execMemberListRead queue idx s
  | .chunkSend group level down bus => Sys2Proof.Machine.execChunkSend group level down bus s
  | .chunkReceive group level peer slot bus => Sys2Proof.Machine.execChunkReceive group level peer slot bus s
  | .releaseWordReceive group level peer => Sys2Proof.Machine.execReleaseWordReceive group level peer s
  | .mcCellReceive packet => Sys2Proof.Machine.execMcCellReceive packet s
  | .repairTimeout group level peer => Sys2Proof.Machine.execRepairTimeout group level peer s
  | .collectiveTimeout group => Sys2Proof.Machine.execCollectiveTimeout group s
  | .invokeRecordWrite conn msn => Sys2Proof.Machine.execInvokeRecordWrite conn msn s
  | .tileStart tile ch => Sys2Proof.Machine.execTileStart tile ch s
  | .kernelLimit tile => Sys2Proof.Machine.execKernelLimit tile s
  | .invocationEnd handle => Sys2Proof.Machine.execInvocationEnd handle s
  | .tileFailure tile => Sys2Proof.Machine.execTileFailure tile s
  | .tileRemapDone tile => Sys2Proof.Machine.execTileRemapDone tile s
  | .tileClearDone tile => Sys2Proof.Machine.execTileClearDone tile s
  | .tNop tile => Sys2Proof.Machine.execTNop tile s
  | .tEnd tile => Sys2Proof.Machine.execTEnd tile s
  | .tBr tile => Sys2Proof.Machine.execTBr tile s
  | .tBrl tile => Sys2Proof.Machine.execTBrl tile s
  | .tJr tile => Sys2Proof.Machine.execTJr tile s
  | .tTrap tile => Sys2Proof.Machine.execTTrap tile s
  | .tCsrr tile => Sys2Proof.Machine.execTCsrr tile s
  | .tCsrw tile => Sys2Proof.Machine.execTCsrw tile s
  | .tWaitt tile => Sys2Proof.Machine.execTWaitt tile s
  | .tWaitc tile => Sys2Proof.Machine.execTWaitc tile s
  | .tAdd tile => Sys2Proof.Machine.execTAdd tile s
  | .tSub tile => Sys2Proof.Machine.execTSub tile s
  | .tMul tile => Sys2Proof.Machine.execTMul tile s
  | .tMulhu tile => Sys2Proof.Machine.execTMulhu tile s
  | .tAnd tile => Sys2Proof.Machine.execTAnd tile s
  | .tOr tile => Sys2Proof.Machine.execTOr tile s
  | .tXor tile => Sys2Proof.Machine.execTXor tile s
  | .tShl tile => Sys2Proof.Machine.execTShl tile s
  | .tShr tile => Sys2Proof.Machine.execTShr tile s
  | .tSra tile => Sys2Proof.Machine.execTSra tile s
  | .tMins tile => Sys2Proof.Machine.execTMins tile s
  | .tMaxs tile => Sys2Proof.Machine.execTMaxs tile s
  | .tMinu tile => Sys2Proof.Machine.execTMinu tile s
  | .tMaxu tile => Sys2Proof.Machine.execTMaxu tile s
  | .tDivu tile => Sys2Proof.Machine.execTDivu tile s
  | .tRemu tile => Sys2Proof.Machine.execTRemu tile s
  | .tAddi tile => Sys2Proof.Machine.execTAddi tile s
  | .tSubi tile => Sys2Proof.Machine.execTSubi tile s
  | .tMuli tile => Sys2Proof.Machine.execTMuli tile s
  | .tMulhui tile => Sys2Proof.Machine.execTMulhui tile s
  | .tAndi tile => Sys2Proof.Machine.execTAndi tile s
  | .tOri tile => Sys2Proof.Machine.execTOri tile s
  | .tXori tile => Sys2Proof.Machine.execTXori tile s
  | .tShli tile => Sys2Proof.Machine.execTShli tile s
  | .tShri tile => Sys2Proof.Machine.execTShri tile s
  | .tSrai tile => Sys2Proof.Machine.execTSrai tile s
  | .tMinsi tile => Sys2Proof.Machine.execTMinsi tile s
  | .tMaxsi tile => Sys2Proof.Machine.execTMaxsi tile s
  | .tMinui tile => Sys2Proof.Machine.execTMinui tile s
  | .tMaxui tile => Sys2Proof.Machine.execTMaxui tile s
  | .tDivui tile => Sys2Proof.Machine.execTDivui tile s
  | .tRemui tile => Sys2Proof.Machine.execTRemui tile s
  | .tMovi tile => Sys2Proof.Machine.execTMovi tile s
  | .tMovhi tile => Sys2Proof.Machine.execTMovhi tile s
  | .tCmp tile => Sys2Proof.Machine.execTCmp tile s
  | .tCmpi tile => Sys2Proof.Machine.execTCmpi tile s
  | .tPlog tile => Sys2Proof.Machine.execTPlog tile s
  | .tLd8u tile => Sys2Proof.Machine.execTLd8u tile s
  | .tLd16u tile => Sys2Proof.Machine.execTLd16u tile s
  | .tLd32u tile => Sys2Proof.Machine.execTLd32u tile s
  | .tLd64 tile => Sys2Proof.Machine.execTLd64 tile s
  | .tLd32s tile => Sys2Proof.Machine.execTLd32s tile s
  | .tSt8 tile => Sys2Proof.Machine.execTSt8 tile s
  | .tSt16 tile => Sys2Proof.Machine.execTSt16 tile s
  | .tSt32 tile => Sys2Proof.Machine.execTSt32 tile s
  | .tSt64 tile => Sys2Proof.Machine.execTSt64 tile s
  | .tVld tile => Sys2Proof.Machine.execTVld tile s
  | .tVst tile => Sys2Proof.Machine.execTVst tile s
  | .tVldh tile => Sys2Proof.Machine.execTVldh tile s
  | .tVsth tile => Sys2Proof.Machine.execTVsth tile s
  | .tVldmx tile => Sys2Proof.Machine.execTVldmx tile s
  | .tVstmx tile => Sys2Proof.Machine.execTVstmx tile s
  | .tVadd tile => Sys2Proof.Machine.execTVadd tile s
  | .tVsub tile => Sys2Proof.Machine.execTVsub tile s
  | .tVmul tile => Sys2Proof.Machine.execTVmul tile s
  | .tVfma tile => Sys2Proof.Machine.execTVfma tile s
  | .tVmax tile => Sys2Proof.Machine.execTVmax tile s
  | .tVmin tile => Sys2Proof.Machine.execTVmin tile s
  | .tVexp2 tile => Sys2Proof.Machine.execTVexp2 tile s
  | .tVlog2 tile => Sys2Proof.Machine.execTVlog2 tile s
  | .tVrcp tile => Sys2Proof.Machine.execTVrcp tile s
  | .tVrsq tile => Sys2Proof.Machine.execTVrsq tile s
  | .tVred tile => Sys2Proof.Machine.execTVred tile s
  | .tVint tile => Sys2Proof.Machine.execTVint tile s
  | .tVcmp tile => Sys2Proof.Machine.execTVcmp tile s
  | .tVsel tile => Sys2Proof.Machine.execTVsel tile s
  | .tVbcast tile => Sys2Proof.Machine.execTVbcast tile s
  | .tVext tile => Sys2Proof.Machine.execTVext tile s
  | .tVins tile => Sys2Proof.Machine.execTVins tile s
  | .tVcvt tile => Sys2Proof.Machine.execTVcvt tile s
  | .tMzero tile => Sys2Proof.Machine.execTMzero tile s
  | .tMma tile => Sys2Proof.Machine.execTMma tile s
  | .tMstore tile => Sys2Proof.Machine.execTMstore tile s
  | .tMload tile => Sys2Proof.Machine.execTMload tile s
  | .tMrow tile => Sys2Proof.Machine.execTMrow tile s
  | .tMsetrow tile => Sys2Proof.Machine.execTMsetrow tile s
  | .tDmax tile => Sys2Proof.Machine.execTDmax tile s
  | .tDmaBurstComplete tile id bus => Sys2Proof.Machine.execTDmaBurstComplete tile id bus s
  | .tDatom tile => Sys2Proof.Machine.execTDatom tile s
  | .tSendTile tile => Sys2Proof.Machine.execTSendTile tile s
  | .tSendAddr tile => Sys2Proof.Machine.execTSendAddr tile s
  | .tSendReply tile => Sys2Proof.Machine.execTSendReply tile s
  | .tTileMessageEnqueue tile id => Sys2Proof.Machine.execTTileMessageEnqueue tile id s
  | .tChannelRecv tile bad => Sys2Proof.Machine.execTChannelRecv tile bad s
  | .tRecvm tile bad => Sys2Proof.Machine.execTRecvm tile bad s
  | .tPoll tile => Sys2Proof.Machine.execTPoll tile s
  | .memoryWrite tenant addr bytes => Sys2Proof.Machine.execMemoryWrite tenant addr bytes s
  | .memoryRead tenant addr len finding => Sys2Proof.Machine.execMemoryRead tenant addr len finding s
  | .retirementCopyDone ctrl bad => Sys2Proof.Machine.execRetirementCopyDone ctrl bad s
  | .patrolRead ctrl addr finding written pass => Sys2Proof.Machine.execPatrolRead ctrl addr finding written pass s
  | .channelRetrain ctrl temp => Sys2Proof.Machine.execChannelRetrain ctrl temp s
  | .retrainDone ctrl ok => Sys2Proof.Machine.execRetrainDone ctrl ok s
  | .termiteFrameCleared frame => Sys2Proof.Machine.execTermiteFrameCleared frame s
  | .keySetLoad tenant quad load => Sys2Proof.Machine.execKeySetLoad tenant quad load s
  | .sqmPush fn value => Sys2Proof.Machine.execSqmPush fn value s
  | .sqmPop fn bytes bad => Sys2Proof.Machine.execSqmPop fn bytes bad s
  | .sqmQueueClear queue => Sys2Proof.Machine.execSqmQueueClear queue s
  | .keySlotLoad slot owner key => Sys2Proof.Machine.execKeySlotLoad slot owner key s
  | .keySlotDestroy slot => Sys2Proof.Machine.execKeySlotDestroy slot s
  | .keySlotZeroed slot => Sys2Proof.Machine.execKeySlotZeroed slot s
  | .keySlotParity slot quad => Sys2Proof.Machine.execKeySlotParity slot quad s
  | .cipherPipeFailure pipe => Sys2Proof.Machine.execCipherPipeFailure pipe s
  | .cryptSlice queue idx bus => Sys2Proof.Machine.execCryptSlice queue idx bus s
  | .sealedRecordOpen tenant ctx base record bus => Sys2Proof.Machine.execSealedRecordOpen tenant ctx base record bus s
  | .sealedRecordWrite tenant ctx base record => Sys2Proof.Machine.execSealedRecordWrite tenant ctx base record s
  | .mailboxDoorbell fn => Sys2Proof.Machine.execMailboxDoorbell fn s
  | .mailboxTimeout fn => Sys2Proof.Machine.execMailboxTimeout fn s
  | .replyMailboxTimeout fn => Sys2Proof.Machine.execReplyMailboxTimeout fn s
  | .getVersion who secured bytes => Sys2Proof.Machine.execGetVersion who secured bytes s
  | .getCapabilities who secured bytes => Sys2Proof.Machine.execGetCapabilities who secured bytes s
  | .negotiateAlgorithms who secured bytes => Sys2Proof.Machine.execNegotiateAlgorithms who secured bytes s
  | .getDigests who secured bytes => Sys2Proof.Machine.execGetDigests who secured bytes s
  | .getCertificate who secured bytes => Sys2Proof.Machine.execGetCertificate who secured bytes s
  | .spdmChallenge who secured bytes => Sys2Proof.Machine.execSpdmChallenge who secured bytes s
  | .getMeasurements who secured bytes => Sys2Proof.Machine.execGetMeasurements who secured bytes s
  | .keyExchange who secured bytes => Sys2Proof.Machine.execKeyExchange who secured bytes s
  | .spdmFinish who secured bytes => Sys2Proof.Machine.execSpdmFinish who secured bytes s
  | .spdmHeartbeat who secured bytes => Sys2Proof.Machine.execSpdmHeartbeat who secured bytes s
  | .heartbeatExpiry who => Sys2Proof.Machine.execHeartbeatExpiry who s
  | .keyUpdate who secured bytes => Sys2Proof.Machine.execKeyUpdate who secured bytes s
  | .endSession who secured bytes => Sys2Proof.Machine.execEndSession who secured bytes s
  | .vendorDefinedRequest who secured bytes => Sys2Proof.Machine.execVendorDefinedRequest who secured bytes s
  | .keyLoad fn => Sys2Proof.Machine.execKeyLoad fn s
  | .keyGen fn => Sys2Proof.Machine.execKeyGen fn s
  | .keyDestroy fn => Sys2Proof.Machine.execKeyDestroy fn s
  | .sealEnable fn => Sys2Proof.Machine.execSealEnable fn s
  | .sealRekey fn => Sys2Proof.Machine.execSealRekey fn s
  | .reportRequest fn => Sys2Proof.Machine.execReportRequest fn s
  | .drbgReseed => Sys2Proof.Machine.execDrbgReseed s
  | .entropyHealthFail recovered => Sys2Proof.Machine.execEntropyHealthFail recovered s
  | .drbgWaitTimeout => Sys2Proof.Machine.execDrbgWaitTimeout s
  | .securityLinkLoss quad => Sys2Proof.Machine.execSecurityLinkLoss quad s
  | .drainComplete tenant => Sys2Proof.Machine.execDrainComplete tenant s
  | .drainBound tenant => Sys2Proof.Machine.execDrainBound tenant s
  | .debugToken token => Sys2Proof.Machine.execDebugToken token s
  | .bootCtlReset => Sys2Proof.Machine.execBootCtlReset s
  | .bootCtlRetry => Sys2Proof.Machine.execBootCtlRetry s
  | .cicQuery path msg => Sys2Proof.Machine.execCicQuery path msg s
  | .cicPiece path msg flashOk => Sys2Proof.Machine.execCicPiece path msg flashOk s
  | .pieceBufferIdle image index => Sys2Proof.Machine.execPieceBufferIdle image index s
  | .cicAbandon path msg => Sys2Proof.Machine.execCicAbandon path msg s
  | .cicActivate path msg flashOk => Sys2Proof.Machine.execCicActivate path msg flashOk s
  | .activateResetTimer => Sys2Proof.Machine.execActivateResetTimer s
  | .cicConfirm path msg => Sys2Proof.Machine.execCicConfirm path msg s
  | .healthWindowExpiry => Sys2Proof.Machine.execHealthWindowExpiry s
  | .txnBegin fn => Sys2Proof.Machine.execTxnBegin fn s
  | .txWriteStage fn off value => Sys2Proof.Machine.execTxWriteStage fn off value s
  | .grantStage fn value => Sys2Proof.Machine.execGrantStage fn value s
  | .txnCommit fn token save => Sys2Proof.Machine.execTxnCommit fn token save s
  | .commitValidate => Sys2Proof.Machine.execCommitValidate s
  | .blockApply block => Sys2Proof.Machine.execBlockApply block s
  | .commitResultPublish => Sys2Proof.Machine.execCommitResultPublish s
  | .txnRollback fn token => Sys2Proof.Machine.execTxnRollback fn token s
  | .transactionTimeout fn => Sys2Proof.Machine.execTransactionTimeout fn s
  | .profileClear => Sys2Proof.Machine.execProfileClear s
  | .faultReport report => Sys2Proof.Machine.execFaultReport report s
  | .suspectWindowClose queue node => Sys2Proof.Machine.execSuspectWindowClose queue node s
  | .noticeSuppressionExpiry node => Sys2Proof.Machine.execNoticeSuppressionExpiry node s
  | .faultQueuePop bytes bad => Sys2Proof.Machine.execFaultQueuePop bytes bad s
  | .eventQueuePop fn bytes bad => Sys2Proof.Machine.execEventQueuePop fn bytes bad s
  | .standbyCopyRead => Sys2Proof.Machine.execStandbyCopyRead s
  | .registerWrite fn off len value => Sys2Proof.Machine.execRegisterWrite fn off len value s
  | .completionTimeout tag => Sys2Proof.Machine.execCompletionTimeout tag s
  | .cellSlot link bad => Sys2Proof.Machine.execCellSlot link bad s
  | .rmaToken token => Sys2Proof.Machine.execRmaToken token s

end Sys2Proof.Machine
end

