-- ==== Sys2Proof/Machine/Run.lean ====
section
/-! DEFINITION. What an access or a piece of work does when what it waited for is there (R140, R381, R386): it runs on as its command would. -/
namespace Sys2Proof.Machine

/-- The connection that a credit record is for: QPE of a record on Ethernet names a QP, or is 0 for the channel that the packet came on. On the
fabric one cell may hold records of both kinds of its node (R206); a record with QPE 0 is the channel's unless QP 0 is a QP of that node here
(DEDUCED, log 51). -/
def creditConn (s : State) (k : Packet) (qpe : Nat) : Nat :=
  let chan := chanId k.port k.ip k.cell.plane k.cell.snode
  if qpe ≠ 0 then qpe % 2 ^ 20
  else if live s 0 && decide (connNode s 0 = k.cell.snode ∧ connPath s 0 = k.port) && !k.chan then 0 else chan

/-- One record of a CREDIT cell (R206, Table 8-2); other kinds are ignored. -/
def takeCredit (s : State) (k : Packet) (b : List Byte) : State :=
  let n := beAt b 0 16
  let c := creditConn s k (nfld n 119 96)
  if nfld n 127 124 = 0 then nextOf s (execCreditGrantReceive c (nfld n 95 80) (nfld n 79 64) (nfld n 63 32) s)
  else if nfld n 127 124 = 1 then nextOf s (execCreditDemandReceive c (nfld n 31 0) s)
  else s

/-- The records of a CREDIT cell, of which PLEN gives the bytes used. -/
def takeCredits (s : State) (k : Packet) : State :=
  (List.range (min 32 (k.cell.plen / 16))).foldl (fun s i => takeCredit s k ((k.cell.payload.drop (16 * i)).take 16)) s

/-- A CONNECT record (R170, Table 7-4); other kinds are reserved. -/
def takeConnect (s : State) (k : Packet) : State :=
  match (readConnect k.cell.payload).kind with
  | 0 => nextOf s (execConnectReqReceive k s)
  | 1 => nextOf s (execConnectAccReceive k s)
  | 2 => nextOf s (execConnectRejReceive k s)
  | 3 => nextOf s (execConnectCloseReceive k s)
  | 4 => nextOf s (execCloseAckReceive k s)
  | _ => s

/-- A transport cell or packet that waited inside the device goes on (Table 7-3): multicast cells go to Scarab (R311), the others by their
opcode. It has reclaimed its credit when it arrived (R209). -/
def takePacket (s : State) (k : Packet) : State :=
  let o := k.cell.opc
  if !running s then s
  else if k.cell.mc then nextOf s (execMcCellReceive k s)
  else if o = 0x10 then headsPacket s k
  else if o = 0x11 then nextOf s (execAckReceive k s)
  else if o = 0x12 then takeConnect s k
  else if o = 0x18 then takeCredits s k
  else if o = 0x04 ∨ o = 0x05 ∨ o = 0x07 ∨ o = 0x09 then responsePacket s k
  else dataPacket s k

/-- What issued a message learns its end. -/
def issuerEnds (s : State) (i : Issuer) (status : Nat) : State :=
  match i with
  | .tile t n => tileMsgEnd s t n status
  | .scarab g 1 => scbMsgEnd s g status
  | .scarab g 2 => if status = Status.ok then scbFinish s g else scbAbort s g status
  | _ => s

/-- What waited runs on. -/
def runWaiter (s : State) (w : Waiter) : State :=
  match w with
  | .windowWrite f c a b => acceptAll (winWrite s f c a b) f
  | .windowRead f c a n b => winRead s f c a n b
  | .portWrite p c a b => acceptAll (portWriteAt s p c a b) 0
  | .portRead p c a o n b => portReadAt s p c a o n b
  | .memWrite t a b => nextOf s (execMemoryWrite t a b s)
  | .memRead t a n f => nextOf s (execMemoryRead t a n f s)
  | .ringRead q i n => ringRead s q i n
  | .fragTable q i => takeFrags s q i
  | .entryStart q i => entryStart s q i
  | .entryFinish q i => entryFinish s q i
  | .headWrite q => headWrite s q
  | .packet k => takePacket s k
  | .framePlace q i b w m => placeFrame s q i b w m
  | .pick e => schedulerPick s e
  | .execHead c m b => runHead s c m b
  | .issuerEnd i st => issuerEnds s i st
  | .tileBurst t i => burstStart s t i
  | .tableRead => s
  | .nodeGone n => scbNodeGone s n
  | .laneLater k => laneLater s k

/-- The tick: work that is ready runs on, one piece at a time; with none, a nanosecond passes (R476). -/
def tick (s : State) : State :=
  match s.atu.ready with
  | w :: r => runWaiter { s with atu := { s.atu with ready := r } } w
  | [] => { s with time := s.time + 1 }

end Sys2Proof.Machine
end

