-- ==== Sys2Proof/Machine/Panel.lean ====
section
/-! DEFINITION. The card seen from outside: LEDs (R42) and MG_ALERT_N. All of it follows from the state. -/
namespace Sys2Proof.Machine

/-- What a LED shows. -/
inductive Led
  | off | steady | blink1Hz | blink2Hz | green | amber
deriving DecidableEq, Repr

/-- The severity of a record, as its first word holds it (Table 21-1). -/
def recordSev (ws : List W64) : Nat := fld (ws.getD 0 0) 17 16

/-- Management has still to read the copy of a fatal record (R486). That the FAULT LED goes off when it is read is the model's (DESIGN CHOICE,
log 49). -/
def fatalUnread (s : State) : Bool := (s.fev.standby.take s.fev.unread).any (fun ws => decide (recordSev ws = 3))

/-- Every fabric link of a dimension above 1 is trained. -/
def fabricTrained (s : State) : Bool := (List.range 12).all (fun l => !linkUsed s l || decide ((link s l).st = 3))

/-- PWR (Table 2-7). -/
def pwrLed (s : State) : Led :=
  if !s.pw.stby then .off else if s.pw.mainOn && fabricTrained s then .steady else .blink1Hz

/-- FAULT (Table 2-7): a fatal record or a shutdown of R30 or R31, then minimal mode. -/
def faultLed (s : State) : Led :=
  if !s.pw.stby then .off
  else if fatalUnread s || decide (s.pw.shutdownCause ≠ 0) then .steady
  else if s.boot.minimal then .blink2Hz else .off

/-- ID (Table 2-7) follows MGT_LED_CTL.ID. No row of the table is a management request for it. -/
def idLed (s : State) : Led := if s.pw.stby && wbit (reg s Reg.MGT_LED_CTL 0) 0 then .steady else .off

/-- FAB0 to FAB5 (Table 2-7). Both links OFF show off, as an unused connector; every other link that is not UP is down (DEDUCED, log 49). -/
def fabLed (s : State) (k : Nat) : Led :=
  let a := link s (2 * k)
  let b := link s (2 * k + 1)
  if !s.pw.mainOn || decide (a.st = 0 ∧ b.st = 0) then .off
  else if a.st ≠ 3 ∨ b.st ≠ 3 ∨ a.ver = 1 ∨ b.ver = 1 ∨ (rot s k).perm = true then .amber else .green

/-- OSFP0 and OSFP1 (Table 2-7). Green asks for a port on the cage. -/
def osfpLed (s : State) (k : Nat) : Led :=
  if !s.pw.mainOn then .off
  else if (cageModule s k).fault then .amber
  else if cagePorts s k ≠ [] ∧ (cagePorts s k).all (fun p => (eport s p).up) = true then .green else .off

/-- MG_ALERT_N is asserted: a management event is unread (R40, R486). -/
def mgAlert (s : State) : Bool := s.pw.stby && decide (s.fev.unread ≠ 0)

end Sys2Proof.Machine
end

