-- ==== Sys2Proof/Machine/RegView.lean ====
section
/-! DEFINITION. What a read of each register returns (chapter 22 and the register tables): the value at the offsets of the physical function's
view and of a virtual function's. A register read has no side effect (R8), save the POP reads, which are commands of their own; no command
of the operation table reads any other register, so no meaning calls this file. -/
namespace Sys2Proof.Machine

/-! ### Card, boot and Cicada -/

/-- MGT_PWR_STAT (Table 1-7). -/
def pwrStat (s : State) : Nat :=
  s.pw.avgW % 65536 + (if s.pw.stage2 then 2 else if s.pw.tileMhz < 1800 then 1 else 0) * 2 ^ 16 + b2n (decide (powerCap s < s.pw.avgW)) * 2 ^ 18

/-- MGT_CIC_SLOTs (R458). -/
def slotWord (s : State) (i : Nat) : Nat :=
  let S := slotGet s i
  S.state % 8 + S.svn % 256 * 2 ^ 8 + S.pieces.length % 4096 * 2 ^ 16

/-- The minutes left in the health window, a started one counted whole (R455). -/
def healthLeft (s : State) : Nat :=
  if s.boot.healthOpen then (s.boot.healthAt + fld (reg s Reg.MGT_CIC_CFG 0) 15 8 * 60000000000 - s.time + 59999999999) / 60000000000 else 0

/-- MGT_CIC_HEALTH. -/
def healthWord (s : State) : Nat :=
  b2n s.boot.trial + b2n s.boot.selftestOk * 2 + b2n s.boot.confirmed * 4 + healthLeft s % 65536 * 2 ^ 16

/-! ### The ownership map (R466, R495) -/

/-- What R495 reports of an exclusive resource besides its holder: that a feature uses it. -/
def claimed (s : State) (k i : Nat) : Bool :=
  match k with
  | 0x04 => (rawOf s i).isSome || s.queues.any (fun Q => decide (Q.2.st ≠ 0 ∧ nfld Q.2.bind 21 20 = 2 ∧ nfld Q.2.bind 11 0 = i))
  | 0x06 => (frame s i).alloc
  | 0x07 => (frame s (0x80000 + i)).alloc
  | 0x08 => (List.range 1024).any (fun n => kValid s n && (kTiles s n).contains i)
  | 0x09 => kValid s i
  | 0x0A => decide (fld (reg s Reg.CCS_SHP_CFG i) 19 0 ≠ 0 ∨ clsCmin s (i / 64) (i % 64) ≠ 0)
  | 0x0B => wbit (ahWord s i 0) 0
  | 0x0C => wbit (gent s i 0) 0
  | 0x0D => wbit (mcEnt s i) 0
  | 0x0E => isRspMailbox i || wbit (reg s Reg.SQM_QCFG i) 17
  | _ => inUse s k i

/-- The holder of an exclusive resource. -/
def holder (s : State) (k i : Nat) : Nat :=
  match k with
  | 0x06 => if (frame s i).alloc then (frame s i).owner else 0
  | 0x07 => if (frame s (0x80000 + i)).alloc then (frame s (0x80000 + i)).owner else 0
  | 0x09 => kOwner s i
  | 0x0A => clsOwner s (i / 64) (i % 64)
  | 0x0B => ahOwner s i
  | 0x0C => gOwner s i
  | 0x0D => mcOwner s i
  | 0x0E => sqmTenant s i
  | _ => owner s k i

/-- The capacity that the claims on a resource take. -/
def capacity (s : State) (k i : Nat) : Nat :=
  match k with
  | 0x10 => bufferClaims s i
  | 0x11 => if i = 0 then fld (reg s Reg.SCB_MC_RESERVE 0) 15 0 else 0
  | 0x12 => fld (reg s Reg.CPH_PIPE_CFG 0) 5 0
  | 0x14 => if i < 0x10 then eadmit s i else gminSum s (i - 0x10)
  | _ => 0

/-- MGT_RES_ENT (R495). -/
def resEnt (s : State) (id : Nat) : Nat :=
  let k := id / 2 ^ 24
  let i := id % 2 ^ 24
  if 0x01 ≤ k ∧ k ≤ 0x0E then holder s k i + b2n (claimed s k i) * 2 ^ 8
  else if k = 0x13 then i % 256 + b2n (decide ((tenant s i).st ≠ 0)) * 2 ^ 8
  else if 0x10 ≤ k ∧ k ≤ 0x14 then b2n (decide (capacity s k i ≠ 0)) * 2 ^ 8 + capacity s k i % 2 ^ 32 * 2 ^ 32
  else 0

/-- MGT_CFG_STAT (Table 20-5). -/
def cfgStat (s : State) (fn : Nat) : Nat :=
  let F := fnGet s fn
  b2n F.txn.isSome + b2n F.cfgBusy * 2 + F.cfgResult % 256 * 2 ^ 8 + ((F.txn.map (fun t => t.staged.length)).getD 0) * 2 ^ 16

/-! ### The view of each block -/

/-- MGT registers that no selection governs. -/
def mgtReg (s : State) (fn off : Nat) : Nat :=
  let F := fnGet s fn
  if off = Reg.MGT_PWR_STAT then pwrStat s
  else if off = Reg.MGT_TILE_FREQ then s.pw.tileMhz
  else if off = Reg.MGT_STRAP then strapWord s.boot.straps
  else if off = Reg.MGT_BOOT_STATUS then bootStatus s
  else if off = Reg.MGT_BOOT_TIME then s.boot.bootMs
  else if off = Reg.MGT_BOOT_FAILED then s.flash.failedBoots
  else if off = Reg.MGT_CIC_STAT then b2n s.cic.hostBusy + s.cic.hostResult % 256 * 2 ^ 8
  else if off = Reg.MGT_CIC_SLOTs then slotWord s 0
  else if off = Reg.MGT_CIC_SLOTs + 8 then slotWord s 1
  else if off = Reg.MGT_CIC_IMGs then (slotGet s 0).image
  else if off = Reg.MGT_CIC_IMGs + 8 then (slotGet s 1).image
  else if off = Reg.MGT_CIC_HEALTH then healthWord s
  else if off = Reg.MGT_CFG_TOKEN then (F.txn.map (·.token)).getD 0
  else if off = Reg.MGT_CFG_STAT then cfgStat s fn
  else if off = Reg.MGT_CFG_RES then F.cfgRes
  else if off = Reg.MGT_CFG_OFF then F.cfgOff
  else if off = Reg.MGT_RES_ENT then resEnt s (regN s Reg.MGT_RES_SEL 0)
  else regN s off 0

/-- HIF registers. -/
def hifReg (s : State) (fn off : Nat) : Nat :=
  match dpReg off with
  | some (n, at_) =>
    let P := port s n
    match at_ with
    | 0 => regN s Reg.HIF_DPn_ADDR n
    | 8 => regN s Reg.HIF_DPn_CTX n
    | 16 => b2n P.badCommit + b2n P.badCtx * 2 + b2n P.fault * 4 + P.pfMiss % 65536 * 2 ^ 16
    | _ => 0
  | none =>
    if off = Reg.HIF_CAP then hifCap s
    else if off = Reg.HIF_ABI_OFFER then regN s off 0
    else if off = Reg.HIF_ABI_AGREED then (fnGet s fn).abi
    else if off = Reg.HIF_FN_STAT then fnStat s fn
    else if off = Reg.HIF_LINK then s.hif.speed + s.hif.width * 16
    else if off = Reg.HIF_WIN_SIZE then windowSize s fn / 2 ^ 26
    else regN s off fn

/-- WQM registers of the selected queue, and the counters (R99). -/
def wqmReg (s : State) (fn off : Nat) : Nat :=
  if off = Reg.WQM_QSTAT then qstat s fn
  else if off < Reg.WQM_QRING ∨ Reg.WQM_QIDX < off then regN s off fn
  else match selQueue s fn with
    | none => 0
    | some q =>
      let Q := queue s q
      if off = Reg.WQM_QRING then Q.ring.toNat
      else if off = Reg.WQM_QHEAD then Q.head.toNat
      else if off = Reg.WQM_QCTX then Q.qctx
      else if off = Reg.WQM_QBIND then Q.bind
      else if off = Reg.WQM_QCTL then Q.ctl
      else if off = Reg.WQM_QMOD then Q.mod
      else if off = Reg.WQM_QIDX then wrap32 Q.hd + wrap32 Q.tail * 2 ^ 32
      else 0

/-- ATU registers of the selected context and frame, and the counters (R162). -/
def atuReg (s : State) (fn off : Nat) : Nat :=
  if off = Reg.ATU_FOT_ENT then frameWord (frame s (fld (reg s Reg.ATU_FOT_SEL fn) 26 0))
  else if off < Reg.ATU_CROOT ∨ Reg.ATU_CFAULT < off then regN s off fn
  else match selCtx s fn with
    | none => 0
    | some c =>
      let C := ctx s c
      if off = Reg.ATU_CROOT then C.root.toNat
      else if off = Reg.ATU_CCTL then b2n C.valid + b2n C.fabricEn * 2 + b2n C.refused * 4 + ctxOwner s c * 2 ^ 8
      else if off = Reg.ATU_CEPOCH then C.epoch.toNat + C.inflight.length % 8 * 2 ^ 16
      else if off = Reg.ATU_CFAULT then C.fault.toNat
      else 0

/-- TPE registers of the selected QP, and the counters (R203). -/
def tpeReg (s : State) (fn off : Nat) : Nat :=
  if off = Reg.TPE_VER_OFFER then 6
  else if off = Reg.TPE_TWIN_STAT then b2n s.tpe.partnerLive + b2n s.tpe.tookOver * 2 + b2n s.tpe.tableFault * 4
  else if Reg.TPE_RTO_FAB ≤ off ∧ off ≤ Reg.TPE_MIRROR_BASE then regN s off 0
  else if off < Reg.TPE_QCFG ∨ Reg.TPE_QTWIN < off then regN s off fn
  else match selQp s fn with
    | none => 0
    | some q =>
      let C := conn s q
      if off = Reg.TPE_QCFG then C.cfg.toNat
      else if off = Reg.TPE_QKEY then C.key
      else if off = Reg.TPE_QCTL then C.ctl / 8 * 8
      else if off = Reg.TPE_QSTAT then (if C.st = 2 ∧ C.closing then 3 else C.st) + C.ver % 16 * 2 ^ 4 + C.errStatus % 256 * 2 ^ 8
      else if off = Reg.TPE_QSEQ then wrap32 C.csn + C.msn % 2 ^ 24 * 2 ^ 32
      else if off = Reg.TPE_QRECV then wrap32 C.cum + C.done % 2 ^ 24 * 2 ^ 32
      else if off = Reg.TPE_QRTT then wrap32 C.srtt
      else if off = Reg.TPE_QTWIN then C.twin.toNat
      else 0

/-- CCS registers of the selected QP, egress point and class, and the counters (R225). -/
def ccsReg (s : State) (fn off : Nat) : Nat :=
  if off = Reg.CCS_QCFG ∨ off = Reg.CCS_QCRED then
    (match ccsQp s fn with
     | none => 0
     | some q =>
       if off = Reg.CCS_QCFG then regN s off q
       else
         let C := conn s q
         balance C % 65536 + min (2 ^ 24 - 1) (needUnits C - balance C) * 2 ^ 16 + (C.granted.foldl (fun n g => n + g.left) 0) % 65536 * 2 ^ 40)
  else if off = Reg.CCS_CRED_TMO then regN s off 0
  else if off = Reg.CCS_ECAP ∨ off = Reg.CCS_EADMIT ∨ off = Reg.CCS_EFACTOR ∨ off = Reg.CCS_POOL_STAT ∨ off = Reg.CCS_CLS_STAT then
    (match selIdx s fn .egress with
     | none => 0
     | some e =>
       if off = Reg.CCS_ECAP then ecapOf s e
       else if off = Reg.CCS_EADMIT then eadmit s e
       else if off = Reg.CCS_EFACTOR then (egress s e).factor
       else if off = Reg.CCS_POOL_STAT then (egress s e).outstanding % 2 ^ 20 + b2n (egress s e).paused * 2 ^ 20
       else clsStat s e (fld (reg s Reg.CCS_CSEL fn) 5 0))
  else regN s off fn

/-- FRT registers of the selected link and node, and the counters (R255). -/
def frtReg (s : State) (off : Nat) : Nat :=
  let l := fld (reg s Reg.FRT_LSEL 0) 3 0
  let n := fld (reg s Reg.FRT_UR_SEL 0) 11 0
  if off = Reg.FRT_VER_OFFER then 6
  else if off = Reg.FRT_LSTAT then (if l < 12 then lstat s l else 0)
  else if off = Reg.FRT_LCTL then (if l < 12 then b2n (link s l).disable else 0)
  else if off = Reg.FRT_LCNT_TX ∨ off = Reg.FRT_LCNT_RX ∨ off = Reg.FRT_LCRC ∨ off = Reg.FRT_LDOWN then (if l < 12 then regN s off l else 0)
  else if off = Reg.FRT_UR_MASK then (tget (fun _ => 0) s.frt.cut n : BitVec 6).toNat + b2n (unreachable s n) * 64
  else regN s off 0

/-- EMAC registers of the selected port that are not of access code TX (R278). -/
def emacReg (s : State) (off : Nat) : Nat :=
  if off = Reg.EMAC_PSEL ∨ off = Reg.EMAC_PFC_SEL ∨ off = Reg.EMAC_FLT_SEL ∨ off = Reg.EMAC_RXQ_SEL ∨ off = Reg.EMAC_AH_SEL then regN s off 0
  else match selIdx s 0 .port with
    | none => 0
    | some p =>
      if off = Reg.EMAC_PSTAT then pstat s p
      else if off = Reg.EMAC_RXBUF then (if portPresent s p then rxBuffer s / 1024 + lossyRegion s p / 1024 * 2 ^ 16 else 0)
      else regN s off p

/-- LNS registers of the selected lane, connector and cage, and the counters (R292). -/
def lnsReg (s : State) (off : Nat) : Nat :=
  let l := fld (reg s Reg.LNS_LSEL 0) 5 0
  let k := fld (reg s Reg.LNS_CSEL 0) 2 0
  if off = Reg.LNS_LSTAT then (if l < 38 then laneStat s l else 0)
  else if off = Reg.LNS_LCORR ∨ off = Reg.LNS_LUNCORR ∨ off = Reg.LNS_LMARGIN then (if l < 38 then regN s off l else 0)
  else if off = Reg.LNS_LCTL then 0
  else if off = Reg.LNS_CSTAT then (if k < 6 then connStat s k else 0)
  else if off = Reg.LNS_MOD_STAT then moduleStat s (fld (reg s Reg.LNS_MOD_SEL 0) 0 0)
  else regN s off 0

/-- SCB registers of the selected group, and the counters (R317). -/
def scbReg (s : State) (fn off : Nat) : Nat :=
  let g := fld (reg s Reg.SCB_GSEL fn) 11 0
  if off = Reg.SCB_GSTAT then (if fn = 0 ∨ gOwner s g = fn then gstat s g else 0)
  else if off = Reg.SCB_ACTIVE then ((s.scb.groups.filter (fun G => G.2.st = 1)).length) % 128
  else regN s off fn

/-- TGD registers of the selected tile, channel and kernel entry, and the counters (R342). -/
def tgdReg (s : State) (fn off : Nat) : Nat :=
  if off = Reg.TGD_TSTAT then
    (match selIdx s fn .tile with
     | none => 0
     | some t => if fn = 0 ∨ tileOwner s t = fn then tstat s t else 0)
  else if off = Reg.TGD_CSTAT then
    (match selIdx s fn .chan with
     | none => 0
     | some i => (sqmQ s (tileQ (i / 16) (i % 16))).words.length)
  else if off = Reg.TGD_KSTAT then
    (match selIdx s fn .kernel with
     | none => 0
     | some k => kInUse s k % 8192 + tget (fun _ => 0) s.tgd.admitted k * 2 ^ 32)
  else if off = Reg.TGD_SPARES then tgdSpares s
  else if off = Reg.TGD_REMAP then regN s off 0
  else regN s off fn

/-- MEM registers of the selected controller and tenant (R388). -/
def memReg (s : State) (off : Nat) : Nat :=
  let c := fld (reg s Reg.MEM_CSEL 0) 4 0
  if off = Reg.MEM_CFG then s.mem.ilv % 4 + hbmStacks s.variant * 4 + lpddrPkgs s.variant * 64
  else if off = Reg.MEM_TERM_STAT then
    (s.mem.frames.filter (fun F => F.2.scrub)).length + 2 * (s.mem.tileScrub.filter (fun T => T.2)).length
  else if off = Reg.MEM_QUAR then s.mem.quarantined
  else if off = Reg.MEM_KSTAT then (tget (fun _ => 0) s.mem.keySets (fld (reg s Reg.MEM_KSEL 0) 7 0) : BitVec 4).toNat
  else if Reg.MEM_CSTAT ≤ off ∧ off ≤ Reg.MEM_POISON_LAST then
    (if !ctrlPresent s.variant c || decide ((ctrl s c).state = 0) then 0
     else if off = Reg.MEM_CSTAT then
       (ctrl s c).state + b2n (ctrl s c).retraining * 4 + b2n (ctrl s c).retiring.isSome * 8 + (ctrl s c).temp % 256 * 2 ^ 8
     else if off = Reg.MEM_RET_LEFT then reserveLeft s c
     else regN s off c)
  else regN s off 0

/-- SQM registers of the selected queue and tenant (R399); a VF reaches its own tenant's queues. -/
def sqmReg (s : State) (fn off : Nat) : Nat :=
  let q := selSqm s fn
  let Q := sqmQ s q
  let seen := decide (fn = 0 ∨ sqmTenant s q = fn)
  if off = Reg.SQM_QSTAT then
    (if seen then Q.words.length + b2n (Q.words.isEmpty && decide (Q.marker = 0)) * 2 ^ 17 + b2n Q.underrun * 2 ^ 18 + b2n (decide (Q.marker ≠ 0)) * 2 ^ 19 +
      b2n Q.clearing * 2 ^ 20 else 0)
  else if off = Reg.SQM_QDROP then (if seen then wrap32 Q.drops else 0)
  else if off = Reg.SQM_QPOPTAG then (fnGet s fn).popTag
  else if off = Reg.SQM_TUSED then tget (fun _ => 0) s.sqm.used (fld (reg s Reg.SQM_TSEL 0) 7 0)
  else if off = Reg.SQM_POOL then sqmPool s
  else if off = Reg.SQM_RESERVE then s.sqm.res0 + s.sqm.res1 + s.sqm.res2 + s.sqm.res3
  else regN s off fn

/-- CPH registers of the selected slot (R413). -/
def cphReg (s : State) (fn off : Nat) : Nat :=
  let k := fld (reg s Reg.CPH_KSEL fn) 9 0
  let K := keySlot s k
  let T := tenant s fn
  let P := sealPair T T.keysel
  if off = Reg.CPH_KSTAT then
    (if K.st ≠ 0 ∧ K.owner ≠ fn then 0 else K.st + b2n K.aes128 * 4 + b2n K.remapped * 8 + K.owner % 256 * 2 ^ 8)
  else if off = Reg.CPH_SEAL_SLOT then (if P.valid then P.host % 1024 + P.dev % 1024 * 2 ^ 10 + T.keysel % 2 * 2 ^ 20 else 0)
  else if off = Reg.CPH_SEAL_SEQ then T.sealSeq
  else if off = Reg.CPH_PIPE_STAT then pipeStat s
  else if off = Reg.CPH_RESERVE then slotReserveAll s
  else if off = Reg.CPH_BLOCKS then
    wrap32 ((if fn = 0 then s.cph.blocks.foldl (fun n b => n + b.2) 0 else tget (fun _ => 0) s.cph.blocks fn) / 2 ^ 20)
  else regN s off fn

/-- Frames of a tenant that are still in SCRUB. -/
def scrubLeft (s : State) (t : Nat) : Nat :=
  (s.mem.frames.filter (fun F => F.2.scrub && decide (F.2.owner = t))).length +
  2 * (s.mem.tileScrub.filter (fun T => T.2 && decide (tileOwner s T.1 = t))).length

/-- RSP registers of the function's tenant and of the selected tenant (R436). -/
def rspReg (s : State) (fn off : Nat) : Nat :=
  let t := fld (reg s Reg.RSP_TSEL 0) 7 0
  if off = Reg.RSP_STAT then s.fuses.lifecycle % 4 + s.rsp.debug % 4 * 4 + b2n s.rsp.drbgOk * 16
  else if off = Reg.RSP_MBX_STAT then
    b2n (box s fn).busy + b2n (!(sqmQ s (rspOut fn)).words.isEmpty) * 2 + b2n (openSession s fn).isSome * 4 + b2n (sealBound s fn) * 8 +
      (box s fn).status % 256 * 2 ^ 8
  else if off = Reg.RSP_TENANT then (tenant s fn).st % 8 + (tenant s fn).mode % 4 * 16 + fn % 256 * 2 ^ 8
  else if off = Reg.RSP_SVN then
    s.fuses.svn % 65536 + (if s.boot.romOnly then 0 else (slotGet s s.boot.slot).svn % 65536) * 2 ^ 16
  else if off = Reg.RSP_DEBUG_NONCEw then s.rsp.nonce0.toNat
  else if off = Reg.RSP_DEBUG_NONCEw + 8 then s.rsp.nonce1.toNat
  else if off = Reg.RSP_DEBUG_NONCEw + 16 then s.rsp.nonce2.toNat
  else if off = Reg.RSP_DEBUG_NONCEw + 24 then s.rsp.nonce3.toNat
  else if off = Reg.RSP_TSTAT then (tenant s t).st % 8 + (tenant s t).mode % 4 * 16 + min (2 ^ 24 - 1) (scrubLeft s t) * 2 ^ 8
  else regN s off 0

/-- The queue whose class counters a function reads, and the class (R487). -/
def fevSel (s : State) (fn : Nat) : Nat × Nat :=
  let w := reg s Reg.FEV_CLS_SEL fn
  (if fn = 0 ∧ wbit w 8 then 0 else 1 + fn, fld w 4 0)

/-- Spares of a kind that the device has left (R479, Table 21-3). -/
def spareLeft (s : State) (kind : Nat) : Nat :=
  match kind with
  | 1 => s.tpe.spares
  | 2 => s.tgd.spares.length
  | 3 => ((List.range 6).filter (fun k => !(rot s k).perm)).length
  | 4 => (List.range 8).foldl (fun n c => if ctrlPresent s.variant c then n + reserveLeft s c else n) 0
  | 5 => (List.range 16).foldl (fun n i => if ctrlPresent s.variant (8 + i) then n + reserveLeft s (8 + i) else n) 0
  | 6 => s.sqm.res0 + s.sqm.res1 + s.sqm.res2 + s.sqm.res3
  | 7 => slotReserveAll s
  | _ => 0

/-- FEV registers (R487). -/
def fevReg (s : State) (fn off : Nat) : Nat :=
  let q := fevSel s fn
  let C := fevC s q.1 q.2
  if off = Reg.FEV_TIME then s.time
  else if off = Reg.FEV_FQ_TAG then (fnGet s fn).fqTag
  else if off = Reg.FEV_EQ_TAG then (fnGet s fn).eqTag
  else if off = Reg.FEV_FQ_SUMMARY then (fevQ s 0).summary.toNat
  else if off = Reg.FEV_EQ_SUMMARY then (fevQ s (1 + fn)).summary.toNat
  else if off = Reg.FEV_CLS_WRITTEN then wrap32 C.written
  else if off = Reg.FEV_CLS_OVF then wrap32 C.ovf
  else if off = Reg.FEV_CLS_SUPP then wrap32 C.supp
  else if off = Reg.FEV_SPARE_STAT then
    (let k := fld (reg s Reg.FEV_SPARE_SEL 0) 2 0
     wrap32 (spareUsed s k) + wrap32 (spareLeft s k) * 2 ^ 32)
  else regN s off (if off = Reg.FEV_EQ_CTL ∨ off = Reg.FEV_CLS_SEL then fn else 0)

/-! ### The whole view -/

/-- Registers that read 0: those written only (WO, W1S) and the staging register of grants; a POP register that is not popped. -/
def readsZero : List Nat :=
  [ Reg.SQM_QPUSH, Reg.SQM_QPOP, Reg.RSP_MBX_DB, Reg.MGT_BOOT_CTL, Reg.MGT_CIC_CMD, Reg.MGT_CFG_CTL, Reg.MGT_GRANT_HI, Reg.MGT_PROF_CTL,
    Reg.FEV_FQ_POP, Reg.FEV_EQ_POP ]

/-- The value of a whole register at a PF offset, read by a function: zero in a block that does not answer (R4, R439). -/
def regRead (s : State) (fn off : Nat) : W64 :=
  if !blockAlive s (off / 2 ^ 20) || readsZero.contains off then 0
  else if off = Reg.SQM_QCFG ∧ isTileQ (selSqm s fn) then
    reg s Reg.TGD_CDEPTH ((selSqm s fn) - 0x0200)
  else match txRow off with
    | some r => (match selIdx s fn r.sel with | none => 0 | some i => reg s (txKey off) i)
    | none =>
      w64 (match off / 2 ^ 20 with
        | 0 => hifReg s fn off
        | 1 => wqmReg s fn off
        | 2 => atuReg s fn off
        | 3 => tpeReg s fn off
        | 4 => ccsReg s fn off
        | 5 => frtReg s off
        | 6 => emacReg s off
        | 7 => lnsReg s off
        | 8 => scbReg s fn off
        | 9 => tgdReg s fn off
        | 10 => memReg s off
        | 11 => sqmReg s fn off
        | 12 => cphReg s fn off
        | 13 => rspReg s fn off
        | 14 => mgtReg s fn off
        | _ => fevReg s fn off)

/-- A word of the MSI-X table: address halves, data, mask bit (R65). -/
def tableRead (s : State) (fn vec word : Nat) : Nat :=
  let V := vector s fn vec
  match word with
  | 0 => V.addr.toNat % 2 ^ 32
  | 1 => V.addr.toNat / 2 ^ 32
  | 2 => V.data.toNat
  | _ => b2n V.masked

/-- A quadword of the pending bits (R65). -/
def pbaRead (s : State) (fn i : Nat) : Nat :=
  (List.range 64).foldl (fun n j => n + b2n (decide (64 * i + j < vecCount s fn) && (vector s fn (64 * i + j)).pending) * 2 ^ j) 0

/-- What a read of `len` bytes at an offset of a function's BAR0 returns (R48, R490); zero for a hole and for every access that does not fit. -/
def barRead (s : State) (fn off len : Nat) : Nat :=
  let pba := if fn = 0 then 0x10000 else 0xC000
  if !hostUp s || !fnExists s fn then 0
  else if 0x8000 ≤ off ∧ off < 0x8000 + 16 * vecCount s fn then
    (let o := off - 0x8000
     if len = 4 ∧ o % 4 = 0 then tableRead s fn (o / 16) (o % 16 / 4)
     else if len = 8 ∧ o % 8 = 0 then tableRead s fn (o / 16) (o % 16 / 4) + tableRead s fn (o / 16) (o % 16 / 4 + 1) * 2 ^ 32
     else 0)
  else if pba ≤ off ∧ off < pba + (vecCount s fn + 63) / 64 * 8 then
    (let v := pbaRead s fn ((off - pba) / 8)
     if len = 8 ∧ off % 8 = 0 then v else if len = 4 ∧ off % 4 = 0 then (if off % 8 = 0 then v % 2 ^ 32 else v / 2 ^ 32) else 0)
  else match (pfOffset fn off).bind (fun o => reach o len) with
    | none => 0
    | some (o, .whole) => (regRead s fn o).toNat
    | some (o, .low) => (regRead s fn o).toNat % 2 ^ 32
    | some (o, .high) => (regRead s fn o).toNat / 2 ^ 32

end Sys2Proof.Machine
end

