-- ==== Sys2Proof/Safety.lean ====
section
/-! DEFINITION. What claims about the block are said in terms of: the canonical forms, the one way the fuses go, the parts of the state
and what each command may change, and what is lost with the main domain. -/
namespace Sys2Proof.Safety
open Sys2Proof.Machine

/-- The canonical forms: memory bytes, block states, registers, owners are each listed once, in rising order, and no entry equals what an
unlisted one reads as. -/
structure Canon (s : State) : Prop where
  bytes : Memory.wf s = true
  blocks : twf (fun _ => ({} : Blk)) s.mem.blocks = true
  regs : twf regReset s.regs = true
  owners : twf (fun _ => (0 : Nat)) s.owners = true

/-- Fuses only ever go one way (R432, R447): the security version does not fall, the lifecycle does not leave RMA, a blocked UDS stays
blocked, a revoked key stays revoked. -/
structure FuseLe (a b : Fuses) : Prop where
  svn : a.svn ≤ b.svn
  rma : a.lifecycle = 2 → b.lifecycle = 2
  uds : a.udsBlocked = true → b.udsBlocked = true
  rev0 : a.revoked0 = b.revoked0
  rev1 : a.revoked1 = b.revoked1

/-- The parts of the state. `regs u`: the registers of unit u, which bits 23:20 of a register's offset number (0 HIF, 1 WQM, 2 ATU, 3 TPE, 4 CCS,
5 FRT, 6 EMAC, 7 LNS, 8 SCB, 9 TGD, 10 MEM, 11 SQM, 12 CPH, 13 RSP, 14 MGT, 15 FEV). -/
inductive Part
  | time | draws | power | boot | flash | fuses | cicada | functions | owners | queueLocal | commits | hif | sqm | firefly
  | memory | memControl | translation | queues | transport | router | ethPorts | lanes | scarab | grid | cipher | credits
  | tenants | rsp | sent
  | regs (u : Fin 16)
deriving DecidableEq, Repr

/-- A part of the state is the same before and after. `memory` is every byte and every block's state; `memControl` the rest of the memory
subsystem. -/
def Unchanged (p : Part) (s t : State) : Prop :=
  match p with
  | .time => t.time = s.time
  | .draws => t.freeCtr = s.freeCtr
  | .power => t.pw = s.pw
  | .boot => t.boot = s.boot
  | .flash => t.flash = s.flash
  | .fuses => t.fuses = s.fuses
  | .cicada => t.cic = s.cic
  | .functions => t.fns = s.fns
  | .owners => t.owners = s.owners
  | .queueLocal => t.qlocal = s.qlocal
  | .commits => t.commits = s.commits
  | .hif => t.hif = s.hif
  | .sqm => t.sqm = s.sqm
  | .firefly => t.fev = s.fev
  | .memory => (∀ a, memByte t a = memByte s a) ∧ ∀ b, blk t b = blk s b
  | .memControl => t.mem.controllers = s.mem.controllers ∧ t.mem.frames = s.mem.frames ∧ t.mem.keySets = s.mem.keySets ∧
      t.mem.keyNow = s.mem.keyNow ∧ t.mem.keys = s.mem.keys ∧ t.mem.keysDrawn = s.mem.keysDrawn ∧ t.mem.zeroSet = s.mem.zeroSet ∧
      t.mem.tileScrub = s.mem.tileScrub ∧ t.mem.ilv = s.mem.ilv ∧ t.mem.quarantined = s.mem.quarantined
  | .translation => t.atu = s.atu
  | .queues => t.queues = s.queues
  | .transport => t.tpe = s.tpe
  | .router => t.frt = s.frt
  | .ethPorts => t.eports = s.eports
  | .lanes => t.lns = s.lns
  | .scarab => t.scb = s.scb
  | .grid => t.tgd = s.tgd
  | .cipher => t.cph = s.cph
  | .credits => t.ccs = s.ccs
  | .tenants => t.tenants = s.tenants
  | .rsp => t.rsp = s.rsp
  | .sent => t.out = s.out
  | .regs u => ∀ off idx, off / 2 ^ 20 = u.val → reg t off idx = reg s off idx

/-- The registers of some units. -/
def regsOf (us : List (Fin 16)) : List Part := us.map .regs

/-- The registers of every unit. -/
def anyRegs : List Part := regsOf [0, 1, 2, 3, 4, 5, 6, 7, 8, 9, 10, 11, 12, 13, 14, 15]

/-- What `standbyPowerLoss`, `mgReset`, `bootCtlReset`, `activateResetTimer` and the like may change. -/
def fullResetParts : List Part :=
  [.time, .power, .boot, .cicada, .functions, .owners, .queueLocal, .commits, .hif, .sqm, .firefly, .memControl, .translation,
   .queues, .transport, .router, .ethPorts, .lanes, .scarab, .grid, .cipher, .credits, .tenants, .rsp, .memory] ++ anyRegs

/-- What `primaryFailure`, `powerCapFault`, `faultReport`, `suspectWindowClose` and the like may change. -/
def reportParts : List Part := [.functions, .hif, .sqm, .firefly, .sent] ++ regsOf [11]

/-- What `inletOvertempTimeout`, `undervoltageTrip`, `overcurrentTrip`, `mainPowerLoss` and the like may change. -/
def mainDownParts : List Part :=
  [.power, .boot, .cicada, .functions, .owners, .queueLocal, .commits, .hif, .sqm, .firefly, .memControl, .translation, .queues,
   .transport, .router, .ethPorts, .lanes, .scarab, .grid, .cipher, .credits, .tenants, .rsp, .memory] ++ anyRegs

/-- What `memoryTrained`, `unitsReady`, `bootTimeout` may change. -/
def bootParts : List Part :=
  [.time, .power, .boot, .flash, .cicada, .functions, .owners, .queueLocal, .commits, .hif, .sqm, .firefly, .memControl,
   .translation, .queues, .transport, .router, .ethPorts, .lanes, .scarab, .grid, .cipher, .credits, .tenants, .rsp, .sent,
   .memory] ++ anyRegs

/-- What `bootScrubDone`, `registerWrite` may change. -/
def cardParts : List Part :=
  [.time, .draws, .power, .boot, .flash, .cicada, .functions, .owners, .queueLocal, .commits, .hif, .sqm, .firefly, .memControl,
   .translation, .queues, .transport, .router, .ethPorts, .lanes, .scarab, .grid, .cipher, .credits, .tenants, .rsp, .sent,
   .memory] ++ anyRegs

/-- What `vfEnableClear`, `tenantTeardown` may change. -/
def teardownParts : List Part :=
  [.draws, .functions, .hif, .sqm, .firefly, .translation, .queues, .transport, .router, .scarab, .grid, .cipher, .credits,
   .tenants, .rsp, .sent, .memory] ++ regsOf [1, 2, 3, 4, 6, 8, 10, 11]

/-- What `vfFlr`, `pfFlr` may change. -/
def functionResetParts : List Part :=
  [.draws, .functions, .hif, .sqm, .firefly, .translation, .queues, .transport, .router, .scarab, .grid, .cipher, .credits,
   .tenants, .rsp, .sent, .memory] ++ anyRegs

/-- What `dataPortRead`, `prefetchFill` may change. -/
def hostReadParts : List Part := [.functions, .hif, .sqm, .firefly, .translation, .sent, .memory] ++ regsOf [2, 10, 11]

/-- What `inlineWaitRelease`, `wqmDoorbellTake`, `ringReadComplete`, `queueEnable` and the like may change. -/
def queueParts : List Part := [.functions, .hif, .sqm, .firefly, .translation, .queues, .sent, .memory] ++ regsOf [1, 2, 10, 11]

/-- What `vWrite`, `vRead`, `vAtomic`, `vReduceWrite` and the like may change. -/
def sendParts : List Part := [.functions, .hif, .queues, .transport, .router, .credits, .sent] ++ regsOf [4, 6]

/-- What `invokeTimeout`, `qpConnect`, `qpClose`, `qpReset` and the like may change. -/
def connectionParts : List Part :=
  [.draws, .functions, .hif, .sqm, .firefly, .translation, .queues, .transport, .router, .cipher, .credits, .sent, .memory] ++
   regsOf [1, 2, 6, 10, 11]

/-- What `connectTimeout`, `transportCoreFailure`, `takenRecordSeen` may change. -/
def connEndParts : List Part :=
  [.functions, .hif, .sqm, .firefly, .translation, .queues, .transport, .cipher, .credits, .sent] ++ regsOf [1, 11]

/-- What `connectReqReceive`, `ackReceive` may change. -/
def ackParts : List Part :=
  [.draws, .functions, .hif, .sqm, .firefly, .translation, .queues, .transport, .router, .cipher, .credits, .sent, .memory] ++
   regsOf [1, 2, 3, 4, 6, 10, 11]

/-- What `connectRejReceive`, `connectCloseReceive` may change. -/
def rejectParts : List Part :=
  [.draws, .functions, .hif, .sqm, .firefly, .translation, .queues, .transport, .router, .cipher, .credits, .sent, .memory] ++
   regsOf [1, 2, 3, 6, 10, 11]

/-- What `headsReceive`, `orderedHeadExecute`, `abortHeadReceive`, `fabricAccessReceive` may change. -/
def headParts : List Part :=
  [.functions, .hif, .sqm, .firefly, .translation, .queues, .transport, .router, .scarab, .grid, .cipher, .credits, .sent,
   .memory] ++ regsOf [1, 2, 3, 4, 6, 9, 10, 11, 12]

/-- What `rnrWaitTimer`, `creditGrantReceive`, `grantIssue`, `grantExpiry` may change. -/
def creditParts : List Part := [.functions, .hif, .transport, .router, .credits, .sent] ++ regsOf [4, 6]

/-- What `responseCellReceive`, `replyReceive` may change. -/
def responseParts : List Part :=
  [.draws, .functions, .hif, .sqm, .firefly, .translation, .queues, .transport, .router, .cipher, .credits, .sent, .memory] ++
   regsOf [1, 2, 3, 4, 6, 10, 11, 12]

/-- What `cellEject`, `noticeReceive` may change. -/
def noticeParts : List Part := [.functions, .hif, .sqm, .firefly, .translation, .router, .sent] ++ regsOf [5, 11]

/-- What `linkDisable`, `lossOfSignal`, `noBlockTimeout`, `fecRateExceeded` and the like may change. -/
def linkDownParts : List Part :=
  [.functions, .hif, .sqm, .firefly, .translation, .queues, .transport, .router, .ethPorts, .lanes, .cipher, .credits, .sent,
   .memory] ++ regsOf [1, 2, 5, 7, 10, 11]

/-- What `moduleInsert`, `moduleRemove` may change. -/
def moduleParts : List Part := [.functions, .hif, .sqm, .firefly, .queues, .ethPorts, .lanes, .sent] ++ regsOf [1, 11]

/-- What `collectiveStart`, `chunkSend`, `chunkReceive`, `releaseWordReceive` and the like may change. -/
def collectiveParts : List Part :=
  [.draws, .functions, .hif, .sqm, .firefly, .translation, .queues, .transport, .router, .scarab, .cipher, .credits, .sent,
   .memory] ++ regsOf [1, 2, 3, 4, 6, 8, 10, 11]

/-- What `kernelLimit`, `tileFailure`, `tNop`, `tEnd` and the like may change. -/
def tileParts : List Part :=
  [.functions, .hif, .sqm, .firefly, .translation, .queues, .transport, .router, .grid, .cipher, .credits, .sent] ++ regsOf [1,
   6, 9, 11]

/-- What `tileClearDone`, `termiteFrameCleared`, `sqmQueueClear` may change. -/
def scrubParts : List Part :=
  [.draws, .fuses, .functions, .owners, .hif, .sqm, .firefly, .memControl, .queues, .grid, .cipher, .tenants, .rsp, .sent,
   .memory] ++ regsOf [1, 11, 13]

/-- What `tSt8`, `tSt16`, `tSt32`, `tSt64` and the like may change. -/
def tileStoreParts : List Part :=
  [.functions, .hif, .sqm, .firefly, .translation, .queues, .transport, .router, .grid, .cipher, .credits, .sent, .memory] ++
   regsOf [1, 6, 9, 11]

/-- What `tDmax`, `tDmaBurstComplete`, `tSendAddr` may change. -/
def tileIssueParts : List Part :=
  [.draws, .functions, .hif, .sqm, .firefly, .translation, .queues, .transport, .router, .grid, .cipher, .credits, .sent,
   .memory] ++ regsOf [1, 2, 3, 4, 6, 9, 10, 11]

/-- What `sqmPop`, `mailboxTimeout`, `drbgWaitTimeout` may change. -/
def popParts : List Part := [.functions, .hif, .sqm, .firefly, .rsp, .sent] ++ regsOf [11]

/-- What `keySlotDestroy`, `keySlotParity` may change. -/
def keyLossParts : List Part :=
  [.draws, .functions, .hif, .sqm, .firefly, .translation, .queues, .transport, .cipher, .credits, .sent, .memory] ++ regsOf [1,
   2, 10, 11]

/-- What `getVersion`, `negotiateAlgorithms`, `getDigests`, `getCertificate` and the like may change. -/
def spdmParts : List Part := [.functions, .hif, .sqm, .transport, .router, .credits, .rsp, .sent] ++ regsOf [3, 6, 11, 13]

/-- What `getCapabilities`, `spdmChallenge`, `getMeasurements`, `keyExchange` may change. -/
def spdmDrawParts : List Part :=
  [.draws, .functions, .hif, .sqm, .transport, .router, .credits, .rsp, .sent] ++ regsOf [3, 6, 11, 13]

/-- What `debugToken`, `rmaToken` may change. -/
def wipeParts : List Part :=
  [.draws, .fuses, .functions, .owners, .queueLocal, .hif, .sqm, .firefly, .memControl, .translation, .queues, .transport,
   .router, .scarab, .grid, .cipher, .credits, .tenants, .rsp, .sent, .memory] ++ regsOf [1, 2, 3, 4, 5, 6, 8, 9, 10, 11, 13]

/-- The parts of the state that a command may change; it leaves every other part alone. A command that reports a fault may also change
Firefly, the fault or event queue in SQM and its counters, and the pending messages of a function. -/
def mayChange : Instr → List Part
  | .standbyPowerUp => [.power, .boot]
  | .standbyPowerLoss => fullResetParts
  | .mgReset => fullResetParts
  | .rspSelfTestDone .. => [.draws, .boot, .flash, .functions, .hif, .memControl, .rsp] ++ regsOf [14]
  | .electionTimeout => [.boot]
  | .primaryFailure .. => reportParts
  | .crossingHang .. => [.functions, .hif, .sqm, .firefly, .sent] ++ regsOf [11, 15]
  | .powerSample .. => [.power] ++ regsOf [14]
  | .powerEvaluation => [.power] ++ regsOf [14]
  | .powerCapFault => reportParts
  | .powerUndo => [.power]
  | .thermalSample .. =>
  [.power, .boot, .cicada, .functions, .owners, .queueLocal, .commits, .hif, .sqm, .firefly, .memControl, .translation, .queues,
   .transport, .router, .ethPorts, .lanes, .scarab, .grid, .cipher, .credits, .tenants, .rsp, .sent, .memory] ++ anyRegs
  | .inletOvertempTimeout => mainDownParts
  | .undervoltageTrip => mainDownParts
  | .overcurrentTrip => mainDownParts
  | .mainPowerLoss => mainDownParts
  | .mainPowerReturn => [.power]
  | .mainDomainGood .. =>
  [.time, .draws, .power, .boot, .flash, .fuses, .cicada, .functions, .owners, .queueLocal, .commits, .hif, .sqm, .firefly,
   .memControl, .translation, .queues, .transport, .router, .ethPorts, .lanes, .scarab, .grid, .cipher, .credits, .tenants, .rsp,
   .sent, .memory] ++ anyRegs
  | .perstAssert => mainDownParts
  | .perstDeassert =>
  [.draws, .power, .boot, .fuses, .functions, .owners, .queueLocal, .hif, .memControl, .cipher, .tenants, .rsp] ++ regsOf [11,
   13, 14]
  | .memoryTrained .. => bootParts
  | .bootScrubDone .. => cardParts
  | .unitsReady .. => bootParts
  | .bootTimeout => bootParts
  | .numvfsWrite .. => [.hif]
  | .vfEnableSet => [.hif]
  | .vfEnableClear => teardownParts
  | .vfFlr .. => functionResetParts
  | .pfFlr => functionResetParts
  | .windowWrite .. => [.functions, .hif, .sqm, .firefly, .translation, .cipher, .sent, .memory] ++ regsOf [0, 2, 10, 11]
  | .windowRead .. => [.functions, .hif, .sqm, .firefly, .translation, .sent, .memory] ++ regsOf [0, 2, 10, 11]
  | .winCtxWrite .. => [.functions] ++ regsOf [0]
  | .dataPortWrite .. => [.functions, .hif, .sqm, .firefly, .translation, .cipher, .sent, .memory] ++ regsOf [2, 10, 11]
  | .dataPortRead .. => hostReadParts
  | .dataPortCtxWrite .. => [.functions, .hif] ++ regsOf [0]
  | .dataPortCommit .. => [.functions, .hif] ++ regsOf [0]
  | .prefetchFill .. => hostReadParts
  | .doorbell .. => [.hif, .queues] ++ regsOf [0]
  | .inlineSlotWrite .. => [.functions, .hif, .sqm, .firefly, .translation, .queues, .sent, .memory] ++ regsOf [0, 1, 2, 10, 11]
  | .inlineWaitRelease .. => queueParts
  | .msixUnmask .. => [.functions, .hif, .sent]
  | .abiAgree .. => [.functions]
  | .wqmDoorbellTake .. => queueParts
  | .ringReadComplete .. => queueParts
  | .refetchTimer .. => [.functions, .hif, .sqm, .firefly, .translation, .queues, .sent, .memory] ++ regsOf [2, 10, 11]
  | .fragmentTableRead .. =>
  [.functions, .hif, .sqm, .firefly, .translation, .queues, .cipher, .sent, .memory] ++ regsOf [1, 2, 10, 11]
  | .entryStart .. =>
  [.draws, .functions, .hif, .sqm, .firefly, .translation, .queues, .transport, .router, .cipher, .credits, .sent, .memory] ++
   regsOf [1, 2, 3, 6, 10, 11, 12]
  | .entryFinish .. => [.functions, .hif, .sqm, .firefly, .translation, .queues, .cipher, .sent, .memory] ++ regsOf [1, 2, 10, 11]
  | .headWriteComplete .. =>
  [.functions, .hif, .sqm, .firefly, .translation, .queues, .cipher, .sent, .memory] ++ regsOf [2, 10, 11]
  | .queueIrqTimer .. => [.functions, .hif, .queues, .sent]
  | .queueSelect .. => [.functions] ++ regsOf [1]
  | .queueEnable .. => queueParts
  | .queueDisable .. => queueParts
  | .queueFlush .. => queueParts
  | .queueConfigWrite .. => queueParts
  | .vWrite .. => sendParts
  | .vRead .. => sendParts
  | .vSend .. => [.functions, .hif, .queues, .transport, .router, .ethPorts, .credits, .sent] ++ regsOf [4, 6]
  | .vAtomic .. => sendParts
  | .vReduceWrite .. => sendParts
  | .vGatherReduce .. => sendParts
  | .vInvoke .. => sendParts
  | .invokeTimeout .. => connectionParts
  | .vCollective .. => [.queues]
  | .vCrypt .. =>
  [.draws, .functions, .hif, .sqm, .firefly, .translation, .queues, .cipher, .sent, .memory] ++ regsOf [1, 2, 10, 11, 12]
  | .vInvalidate .. => [.translation, .queues] ++ regsOf [1]
  | .invalidateDrainDone .. => [.queues] ++ regsOf [1]
  | .vFence .. => [.queues] ++ regsOf [1]
  | .vRegister .. => [.translation, .queues] ++ regsOf [1]
  | .vRevoke .. => [.translation, .queues] ++ regsOf [1]
  | .tenantActivate .. => [.draws, .owners, .firefly, .memControl, .queues, .tenants] ++ regsOf [1, 11, 13]
  | .tenantTeardown .. => teardownParts
  | .tenantQuery .. => [.queues] ++ regsOf [1]
  | .recvPost .. => [.queues]
  | .contextRootWrite .. => [.functions, .translation]
  | .contextValidSet .. => [.functions, .translation]
  | .contextValidClear .. => [.functions, .translation]
  | .fabricEnWrite .. => [.functions, .translation]
  | .tableWalkComplete .. => [.translation]
  | .regionCacheTimeout => [.translation] ++ regsOf [2]
  | .qpConfigWrite .. => [.functions, .transport]
  | .qpConnect .. => connectionParts
  | .qpClose .. => connectionParts
  | .qpReset .. => connectionParts
  | .connectRetryTimer .. => connectionParts
  | .connectTimeout .. => connEndParts
  | .connectReqReceive .. => ackParts
  | .connectAccReceive .. => [.functions, .hif, .transport, .router, .credits, .sent] ++ regsOf [3, 4, 6]
  | .connectRejReceive .. => rejectParts
  | .connectCloseReceive .. => rejectParts
  | .closeAckReceive .. =>
  [.functions, .hif, .translation, .queues, .transport, .router, .cipher, .credits, .sent] ++ regsOf [1, 3, 6]
  | .closingTimeout .. => [.translation, .queues, .transport, .cipher, .credits] ++ regsOf [1]
  | .channelIdleTimeout .. => connectionParts
  | .contextFetchComplete .. => [.transport]
  | .coreSliceEnd .. =>
  [.functions, .hif, .sqm, .firefly, .translation, .queues, .transport, .router, .cipher, .credits, .sent, .memory] ++ regsOf [1,
   2, 3, 4, 6, 10, 11, 15]
  | .transportCoreFailure .. => connEndParts
  | .sourceReadComplete .. =>
  [.functions, .hif, .sqm, .firefly, .translation, .queues, .transport, .router, .ethPorts, .cipher, .credits, .sent, .memory] ++
   regsOf [1, 2, 3, 6, 10, 11]
  | .headsReceive .. => headParts
  | .dataCellReceive .. =>
  [.functions, .hif, .sqm, .firefly, .translation, .queues, .transport, .router, .scarab, .grid, .cipher, .credits, .sent,
   .memory] ++ regsOf [1, 2, 3, 4, 6, 10, 11, 12]
  | .earlyCellTimeout .. => [.transport] ++ regsOf [3]
  | .cellPlacement .. =>
  [.draws, .functions, .hif, .sqm, .firefly, .translation, .queues, .transport, .router, .scarab, .grid, .cipher, .credits,
   .sent, .memory] ++ regsOf [1, 2, 6, 10, 11]
  | .orderedHeadExecute .. => headParts
  | .abortHeadReceive .. => headParts
  | .ackDelayTimer .. => [.functions, .hif, .transport, .router, .credits, .sent] ++ regsOf [6]
  | .ackReceive .. => ackParts
  | .rtoExpiry .. =>
  [.functions, .hif, .sqm, .firefly, .translation, .queues, .transport, .router, .cipher, .credits, .sent, .memory] ++ regsOf [1,
   2, 3, 4, 6, 10, 11, 15]
  | .rnrWaitTimer .. => creditParts
  | .responseCellReceive .. => responseParts
  | .replyReceive .. => responseParts
  | .atomicopComplete .. =>
  [.functions, .hif, .sqm, .firefly, .translation, .queues, .transport, .router, .grid, .cipher, .credits, .sent, .memory] ++
   regsOf [1, 2, 4, 6, 9, 10, 11]
  | .responseCacheExpiry .. => [.transport]
  | .fabricAccessReceive .. => headParts
  | .mirrorWriteTimer =>
  [.functions, .hif, .sqm, .firefly, .translation, .transport, .cipher, .sent, .memory] ++ regsOf [2, 3, 10, 11]
  | .mirrorFlushComplete .. =>
  [.functions, .hif, .translation, .queues, .transport, .router, .cipher, .credits, .sent] ++ regsOf [1, 4, 6]
  | .heartbeatTimeout .. => connectionParts
  | .handoffRecordSeen .. => connectionParts
  | .takenRecordSeen .. => connEndParts
  | .peerFlushComplete .. =>
  [.functions, .hif, .sqm, .firefly, .translation, .queues, .transport, .router, .scarab, .cipher, .credits, .sent, .memory] ++
   regsOf [1, 2, 6, 10, 11]
  | .creditGrantReceive .. => creditParts
  | .creditDemandReceive .. => [.credits] ++ regsOf [4]
  | .grantIssue .. => creditParts
  | .grantExpiry .. => creditParts
  | .grantReclaimTimer .. => [.transport, .credits] ++ regsOf [4]
  | .demandRepeatTimer .. => [.functions, .hif, .transport, .router, .credits, .sent] ++ regsOf [6]
  | .creditTimeout .. =>
  [.functions, .hif, .sqm, .firefly, .translation, .queues, .transport, .router, .cipher, .credits, .sent, .memory] ++ regsOf [1,
   2, 4, 6, 10, 11, 15]
  | .schedulerPick .. =>
  [.functions, .hif, .sqm, .firefly, .translation, .queues, .transport, .router, .ethPorts, .cipher, .credits, .sent, .memory] ++
   regsOf [1, 2, 3, 4, 6, 10, 11, 15]
  | .shaperRefill => [.functions, .hif, .router, .credits, .sent] ++ regsOf [6]
  | .capacityFactorApply .. => [.functions, .hif, .sqm, .firefly, .credits, .sent] ++ regsOf [4, 11]
  | .routerPass .. => [.router] ++ regsOf [5]
  | .cellEject .. => noticeParts
  | .cellInject =>
  [.functions, .hif, .sqm, .firefly, .translation, .queues, .transport, .router, .cipher, .credits, .sent, .memory] ++ regsOf [1,
   2, 5, 10, 11, 15]
  | .mcHoldTimeout => [.router] ++ regsOf [5]
  | .linkEnable .. => [.functions, .router, .lanes, .sent]
  | .linkDisable .. => linkDownParts
  | .linkRetrain .. => [.functions, .router, .lanes, .sent]
  | .trainingWordReceive .. => [.functions, .hif, .sqm, .firefly, .translation, .router, .lanes, .sent] ++ regsOf [5, 7, 11]
  | .trainingTimeout .. => [.router, .lanes, .sent]
  | .lossOfSignal .. => linkDownParts
  | .noBlockTimeout .. => linkDownParts
  | .fecRateExceeded .. => linkDownParts
  | .linkDownTimer .. => [.router, .lanes, .sent]
  | .linkHoldExpiry .. => [.router, .lanes, .sent]
  | .noticeFallbackTimer .. => [.router] ++ regsOf [5]
  | .noticeReceive .. => noticeParts
  | .frameReceive .. =>
  [.functions, .hif, .sqm, .firefly, .translation, .queues, .ethPorts, .cipher, .sent, .memory] ++ regsOf [1, 2, 6, 10, 11]
  | .pfcPauseExpiry .. => [.ethPorts]
  | .pfcRefreshTimer .. => [.functions, .hif, .ethPorts, .sent] ++ regsOf [6]
  | .frameTransmitDone .. => [.queues, .ethPorts] ++ regsOf [1]
  | .portFault .. => [.functions, .hif, .sqm, .firefly, .queues, .ethPorts, .sent] ++ regsOf [1, 11]
  | .portUp .. => [.ethPorts]
  | .laneFailure .. => linkDownParts
  | .laneDegraded .. => [.lanes] ++ regsOf [7]
  | .oneLaneTimer .. => [.functions, .hif, .sqm, .firefly, .router, .sent] ++ regsOf [11]
  | .rotationStepTimer .. => [.lanes, .sent]
  | .rotReq .. => [.lanes, .sent]
  | .rotAck .. => [.lanes]
  | .laneMatch .. => [.lanes, .sent]
  | .matchAchieved .. => linkDownParts
  | .laneSwitch .. => [.lanes]
  | .switchMarker .. => linkDownParts
  | .laneBack .. => [.lanes]
  | .laneFailMsg .. => linkDownParts
  | .spareIn .. => linkDownParts
  | .rotationAbort .. => linkDownParts
  | .calibrationDone .. => linkDownParts
  | .calibrationTimeout .. => linkDownParts
  | .laneRecal .. => linkDownParts
  | .laneForceFail .. => linkDownParts
  | .laneRestore .. => linkDownParts
  | .moduleInsert .. => moduleParts
  | .moduleRemove .. => moduleParts
  | .moduleInterrupt .. => [.lanes]
  | .collectiveStart .. => collectiveParts
  | .memberListRead .. => [.functions, .hif, .sqm, .firefly, .scarab, .sent, .memory] ++ regsOf [2, 10, 11]
  | .chunkSend .. => collectiveParts
  | .chunkReceive .. => collectiveParts
  | .releaseWordReceive .. => collectiveParts
  | .mcCellReceive .. => [.scarab, .memory] ++ regsOf [2]
  | .repairTimeout .. => collectiveParts
  | .collectiveTimeout .. => collectiveParts
  | .invokeRecordWrite .. =>
  [.functions, .hif, .sqm, .translation, .queues, .transport, .router, .grid, .cipher, .credits, .sent] ++ regsOf [1, 6]
  | .tileStart .. => [.functions, .hif, .sqm, .firefly, .grid, .sent] ++ regsOf [9, 11]
  | .kernelLimit .. => tileParts
  | .invocationEnd .. => [.sqm, .grid]
  | .tileFailure .. => tileParts
  | .tileRemapDone .. => [.sqm, .grid] ++ regsOf [9]
  | .tileClearDone .. => scrubParts
  | .tNop .. => tileParts
  | .tEnd .. => tileParts
  | .tBr .. => tileParts
  | .tBrl .. => tileParts
  | .tJr .. => tileParts
  | .tTrap .. => tileParts
  | .tCsrr .. =>
  [.draws, .functions, .hif, .sqm, .firefly, .translation, .queues, .transport, .router, .grid, .cipher, .credits, .sent] ++
   regsOf [1, 6, 9, 11]
  | .tCsrw .. => tileParts
  | .tWaitt .. => tileParts
  | .tWaitc .. => tileParts
  | .tAdd .. => tileParts
  | .tSub .. => tileParts
  | .tMul .. => tileParts
  | .tMulhu .. => tileParts
  | .tAnd .. => tileParts
  | .tOr .. => tileParts
  | .tXor .. => tileParts
  | .tShl .. => tileParts
  | .tShr .. => tileParts
  | .tSra .. => tileParts
  | .tMins .. => tileParts
  | .tMaxs .. => tileParts
  | .tMinu .. => tileParts
  | .tMaxu .. => tileParts
  | .tDivu .. => tileParts
  | .tRemu .. => tileParts
  | .tAddi .. => tileParts
  | .tSubi .. => tileParts
  | .tMuli .. => tileParts
  | .tMulhui .. => tileParts
  | .tAndi .. => tileParts
  | .tOri .. => tileParts
  | .tXori .. => tileParts
  | .tShli .. => tileParts
  | .tShri .. => tileParts
  | .tSrai .. => tileParts
  | .tMinsi .. => tileParts
  | .tMaxsi .. => tileParts
  | .tMinui .. => tileParts
  | .tMaxui .. => tileParts
  | .tDivui .. => tileParts
  | .tRemui .. => tileParts
  | .tMovi .. => tileParts
  | .tMovhi .. => tileParts
  | .tCmp .. => tileParts
  | .tCmpi .. => tileParts
  | .tPlog .. => tileParts
  | .tLd8u .. => tileParts
  | .tLd16u .. => tileParts
  | .tLd32u .. => tileParts
  | .tLd64 .. => tileParts
  | .tLd32s .. => tileParts
  | .tSt8 .. => tileStoreParts
  | .tSt16 .. => tileStoreParts
  | .tSt32 .. => tileStoreParts
  | .tSt64 .. => tileStoreParts
  | .tVld .. => tileParts
  | .tVst .. => tileStoreParts
  | .tVldh .. => tileParts
  | .tVsth .. => tileStoreParts
  | .tVldmx .. => tileParts
  | .tVstmx .. => tileStoreParts
  | .tVadd .. => tileParts
  | .tVsub .. => tileParts
  | .tVmul .. => tileParts
  | .tVfma .. => tileParts
  | .tVmax .. => tileParts
  | .tVmin .. => tileParts
  | .tVexp2 .. => tileParts
  | .tVlog2 .. => tileParts
  | .tVrcp .. => tileParts
  | .tVrsq .. => tileParts
  | .tVred .. => tileParts
  | .tVint .. => tileParts
  | .tVcmp .. => tileParts
  | .tVsel .. => tileParts
  | .tVbcast .. => tileParts
  | .tVext .. => tileParts
  | .tVins .. => tileParts
  | .tVcvt .. => tileParts
  | .tMzero .. => tileParts
  | .tMma .. => tileParts
  | .tMstore .. => tileStoreParts
  | .tMload .. => tileParts
  | .tMrow .. => tileParts
  | .tMsetrow .. => tileParts
  | .tDmax .. => tileIssueParts
  | .tDmaBurstComplete .. => tileIssueParts
  | .tDatom .. =>
  [.functions, .hif, .sqm, .firefly, .translation, .queues, .transport, .router, .grid, .cipher, .credits, .sent, .memory] ++
   regsOf [1, 2, 6, 9, 10, 11]
  | .tSendTile .. => tileParts
  | .tSendAddr .. => tileIssueParts
  | .tSendReply .. =>
  [.functions, .hif, .sqm, .firefly, .translation, .queues, .transport, .router, .grid, .cipher, .credits, .sent, .memory] ++
   regsOf [1, 2, 4, 6, 9, 10, 11]
  | .tTileMessageEnqueue .. => [.sqm, .grid] ++ regsOf [9]
  | .tChannelRecv .. => tileParts
  | .tRecvm .. => tileStoreParts
  | .tPoll .. => tileParts
  | .memoryWrite .. => [.memControl, .memory] ++ regsOf [2]
  | .memoryRead .. => [.functions, .hif, .sqm, .firefly, .memControl, .sent, .memory] ++ regsOf [2, 10, 11]
  | .retirementCopyDone .. => [.functions, .hif, .sqm, .firefly, .memControl, .translation, .sent, .memory] ++ regsOf [10, 11]
  | .patrolRead .. => [.functions, .hif, .sqm, .firefly, .memControl, .sent, .memory] ++ regsOf [10, 11]
  | .channelRetrain .. => [.memControl]
  | .retrainDone .. => [.functions, .hif, .sqm, .firefly, .memControl, .translation, .sent] ++ regsOf [10, 11]
  | .termiteFrameCleared .. => scrubParts
  | .keySetLoad .. => [.draws, .memControl] ++ regsOf [13]
  | .sqmPush .. => [.functions, .hif, .sqm, .firefly, .tenants, .rsp, .sent] ++ regsOf [11]
  | .sqmPop .. => popParts
  | .sqmQueueClear .. => scrubParts
  | .keySlotLoad .. => [.cipher] ++ regsOf [13]
  | .keySlotDestroy .. => keyLossParts
  | .keySlotZeroed .. => [.cipher]
  | .keySlotParity .. => keyLossParts
  | .cipherPipeFailure .. => [.functions, .hif, .sqm, .firefly, .cipher, .sent] ++ regsOf [11]
  | .cryptSlice .. =>
  [.draws, .functions, .hif, .sqm, .firefly, .translation, .queues, .cipher, .sent, .memory] ++ regsOf [1, 2, 10, 11, 12]
  | .sealedRecordOpen .. =>
  [.functions, .hif, .sqm, .firefly, .translation, .queues, .cipher, .sent, .memory] ++ regsOf [2, 10, 11, 12]
  | .sealedRecordWrite .. =>
  [.draws, .functions, .hif, .sqm, .firefly, .translation, .queues, .transport, .router, .scarab, .grid, .cipher, .credits,
   .tenants, .sent, .memory] ++ regsOf [1, 2, 3, 4, 6, 8, 9, 10, 11]
  | .mailboxDoorbell .. => [.functions, .hif, .sqm, .firefly, .tenants, .rsp, .sent] ++ regsOf [11]
  | .mailboxTimeout .. => popParts
  | .replyMailboxTimeout .. => [.rsp] ++ regsOf [13]
  | .getVersion .. => spdmParts
  | .getCapabilities .. => spdmDrawParts
  | .negotiateAlgorithms .. => spdmParts
  | .getDigests .. => spdmParts
  | .getCertificate .. => spdmParts
  | .spdmChallenge .. => spdmDrawParts
  | .getMeasurements .. => spdmDrawParts
  | .keyExchange .. => spdmDrawParts
  | .spdmFinish .. => spdmParts
  | .spdmHeartbeat .. => spdmParts
  | .heartbeatExpiry .. => [.rsp] ++ regsOf [13]
  | .keyUpdate .. => spdmParts
  | .endSession .. => spdmParts
  | .vendorDefinedRequest .. => spdmParts
  | .keyLoad .. => [.sqm, .cipher, .rsp] ++ regsOf [11, 13]
  | .keyGen .. => [.draws, .sqm, .cipher, .rsp] ++ regsOf [11, 13]
  | .keyDestroy .. =>
  [.draws, .functions, .hif, .sqm, .firefly, .translation, .queues, .transport, .cipher, .credits, .rsp, .sent, .memory] ++
   regsOf [1, 2, 10, 11]
  | .sealEnable .. => [.draws, .sqm, .cipher, .tenants, .rsp] ++ regsOf [11, 13]
  | .sealRekey .. =>
  [.draws, .functions, .hif, .sqm, .firefly, .translation, .queues, .transport, .cipher, .credits, .tenants, .rsp, .sent,
   .memory] ++ regsOf [1, 2, 10, 11, 13]
  | .reportRequest .. => [.draws, .sqm, .tenants, .rsp] ++ regsOf [11]
  | .drbgReseed => [.rsp]
  | .entropyHealthFail .. => [.rsp] ++ regsOf [13]
  | .drbgWaitTimeout => popParts
  | .securityLinkLoss .. =>
  [.draws, .functions, .hif, .sqm, .firefly, .memControl, .translation, .queues, .transport, .cipher, .credits, .rsp, .sent,
   .memory] ++ regsOf [1, 2, 10, 11]
  | .drainComplete .. =>
  [.draws, .fuses, .functions, .owners, .queueLocal, .hif, .sqm, .firefly, .memControl, .translation, .queues, .transport,
   .scarab, .grid, .cipher, .credits, .tenants, .rsp, .sent, .memory] ++ regsOf [1, 4, 5, 6, 8, 9, 11, 13]
  | .drainBound .. =>
  [.draws, .fuses, .functions, .owners, .queueLocal, .hif, .sqm, .firefly, .memControl, .translation, .queues, .transport,
   .router, .scarab, .grid, .cipher, .credits, .tenants, .rsp, .sent, .memory] ++ regsOf [1, 2, 4, 5, 6, 8, 9, 10, 11, 13]
  | .debugToken .. => wipeParts
  | .bootCtlReset => fullResetParts
  | .bootCtlRetry =>
  [.time, .power, .boot, .flash, .cicada, .functions, .owners, .queueLocal, .commits, .hif, .sqm, .firefly, .memControl,
   .translation, .queues, .transport, .router, .ethPorts, .lanes, .scarab, .grid, .cipher, .credits, .tenants, .rsp, .memory] ++
   anyRegs
  | .cicQuery .. => [.cicada, .sent]
  | .cicPiece .. => [.flash, .cicada, .sent] ++ regsOf [14]
  | .pieceBufferIdle .. => [.cicada] ++ regsOf [14]
  | .cicAbandon .. => [.flash, .cicada, .sent]
  | .cicActivate .. => [.boot, .flash, .cicada, .sent]
  | .activateResetTimer => fullResetParts
  | .cicConfirm .. => [.boot, .flash, .fuses, .cicada, .functions, .hif, .sqm, .firefly, .sent] ++ regsOf [11]
  | .healthWindowExpiry => fullResetParts
  | .txnBegin .. => [.functions]
  | .txWriteStage .. => [.functions] ++ regsOf [14]
  | .grantStage .. => [.functions] ++ regsOf [14]
  | .txnCommit .. => [.functions, .commits]
  | .commitValidate => [.draws, .functions, .owners, .queueLocal, .commits, .sqm, .memControl, .scarab, .grid] ++ anyRegs
  | .blockApply .. => [.draws, .owners, .queueLocal, .commits, .sqm, .memControl, .scarab, .grid, .tenants] ++ anyRegs
  | .commitResultPublish =>
  [.flash, .functions, .commits, .hif, .sqm, .firefly, .translation, .queues, .transport, .router, .ethPorts, .lanes, .cipher,
   .credits, .sent, .memory] ++ regsOf [1, 2, 5, 7, 10, 11, 14]
  | .txnRollback .. => [.functions]
  | .transactionTimeout .. => [.functions] ++ regsOf [14]
  | .profileClear => [.flash, .functions]
  | .faultReport .. => reportParts
  | .suspectWindowClose .. => reportParts
  | .noticeSuppressionExpiry .. => [.firefly]
  | .faultQueuePop .. => reportParts
  | .eventQueuePop .. => reportParts
  | .standbyCopyRead => [.firefly, .sent]
  | .registerWrite .. => cardParts
  | .completionTimeout .. =>
  [.draws, .cicada, .functions, .hif, .sqm, .firefly, .translation, .queues, .transport, .router, .ethPorts, .scarab, .grid,
   .cipher, .credits, .sent, .memory] ++ regsOf [1, 2, 3, 4, 6, 8, 9, 10, 11]
  | .cellSlot .. => [.functions, .hif, .sqm, .firefly, .router, .sent] ++ regsOf [5, 11]
  | .rmaToken .. => wipeParts

/-- What is lost with the main domain (R34, R36, R414): its memory, its keys, its queues and connections and every register of its units, each back
at its reset state; what stays: flash, fuses, FEV_TIME. -/
structure MainLost (s t : State) : Prop where
  bytes : ∀ a, memByte t a = 0
  keySets : t.mem.keySets = [] ∧ t.mem.keys = []
  sqm : t.sqm = State.reset.sqm
  translation : t.atu = State.reset.atu
  queues : t.queues = []
  transport : t.tpe = State.reset.tpe
  router : t.frt = State.reset.frt
  ethPorts : t.eports = []
  lanes : t.lns = State.reset.lns
  scarab : t.scb = State.reset.scb
  grid : t.tgd = State.reset.tgd
  keySlots : t.cph = State.reset.cph
  credits : t.ccs = State.reset.ccs
  owners : t.owners = []
  commits : t.commits = []
  regs : ∀ off idx, off / 2 ^ 20 ≠ 13 → off / 2 ^ 20 ≠ 14 → reg t off idx = regReset (rk off idx)
  flash : t.flash = s.flash
  fuses : t.fuses = s.fuses
  time : t.time = s.time

end Sys2Proof.Safety
end

