-- ==== Sys2Proof/Certificates/Slice0/Obligations.lean ====
section
/-! DEFINITION. The statements for the provers, and the words they are said in. -/
namespace Sys2Proof.Machine

/-- A verb of entry e in queue q posts the message m on its connection: the entry runs under the connection and the next message sequence
number. -/
def verbPosted (s : State) (q idx : Nat) (e : Entry) (m : SendMsg) : State :=
  postMsg (entryMod s q idx (fun x => { x with running := true, conn := verbConn s q e, msn := (conn s (verbConn s q e)).msn }))
    (verbConn s q e) m

/-- What a secured message of a session leads to: `f` of its plain text when that carries the code, an error answer otherwise. -/
def securedRow (s : State) (who : Nat) (x : Session) (bytes : List Byte) (code : Nat) (f : List Byte → State) : State :=
  match Config.secureOpen x.secret x.keyGen bytes with
  | none => bump (spdmError s who false 0x06) Reg.RSP_SESS_FAIL 0
  | some m => if leAt m 1 1 = code then f m else if spdmCodes.contains (leAt m 1 1) then s else spdmError s who true 0x07

/-- Tile t can issue, and w is the word at its pc, in near memory and not poisoned. -/
abbrev Fetched (s : State) (t w : Nat) : Prop :=
  issues (tile s t) = true ∧ (tile s t).pc < nearBytes ∧ anyPoison s (tileAddr t (tile s t).pc) 8 = false ∧
    leNat (memBytes s (tileAddr t (tile s t).pc) 8) = w

/-- Tile t executes the word w, which has opcode o: the decoder accepts it and its guard holds (R345). -/
abbrev Executes (s : State) (t o w : Nat) : Prop :=
  Fetched s t w ∧ iOpc w = o ∧ wordIllegal w = false ∧ pReg (tile s t) (nfld w 54 52) ≠ nbit w 55

/-- The tile of s goes on past its instruction, in the state u. -/
def goesOn (s : State) (t : Nat) (u : State) : State := setPc u t ((tile s t).pc + 8)

/-- The instruction leaves v in its destination register and goes on. -/
def scalar (s : State) (t w : Nat) (v : W64) : State := goesOn s t (setG s t (iD w) v)

/-- The general register of field A. -/
def opA (s : State) (t w : Nat) : W64 := gReg (tile s t) (iA w)

/-- The general register of field B. -/
def opB (s : State) (t w : Nat) : W64 := gReg (tile s t) (iB w)

/-- The general register of field C. -/
def opC (s : State) (t w : Nat) : W64 := gReg (tile s t) (iC w)

/-- FMTA. -/
def fmtA (s : State) (t : Nat) : Nat := fld (tile s t).mfmt 3 0

/-- FMTB. -/
def fmtB (s : State) (t : Nat) : Nat := fld (tile s t).mfmt 7 4

/-- SA and SB of mstride. -/
def strideA (s : State) (t : Nat) : Nat := fld (tile s t).mstride 21 0

/-- SB. -/
def strideB (s : State) (t : Nat) : Nat := fld (tile s t).mstride 53 32

/-- Bytes of a row of A. -/
def rowLenA (s : State) (t : Nat) : Nat := shapeK (tile s t) * fmtBits (fmtA s t) / 8

/-- Bytes of a column of B. -/
def colLenB (s : State) (t : Nat) : Nat := shapeK (tile s t) * fmtBits (fmtB s t) / 8

/-- Row i of A (R352). -/
def rowA (s : State) (t w i : Nat) : List Byte := memBytes s (tileAddr t ((opA s t w).toNat + i * strideA s t)) (rowLenA s t)

/-- Column j of B. -/
def colB (s : State) (t w j : Nat) : List Byte := memBytes s (tileAddr t ((opB s t w).toNat + j * strideB s t)) (colLenB s t)

/-- Scales of row i of A: one byte for each 32 elements. -/
def scaleA (s : State) (t w i : Nat) : List Byte :=
  memBytes s (tileAddr t (fld (opC s t w) 21 0 + i * (shapeK (tile s t) / 32))) (shapeK (tile s t) / 32)

/-- Scales of column j of B. -/
def scaleB (s : State) (t w j : Nat) : List Byte :=
  memBytes s (tileAddr t (fld (opC s t w) 53 32 + j * (shapeK (tile s t) / 32))) (shapeK (tile s t) / 32)

/-- The operands of an MMA keep the rules of R352, lie in the tile's memory and are not poisoned. -/
structure MmaOperands (s : State) (t w : Nat) : Prop where
  pair : fmtPair (fmtA s t) (fmtB s t) = true
  shape : mnOk (tile s t) = true
  depth : shapeK (tile s t) % 32 = 0 ∧ 32 ≤ shapeK (tile s t) ∧ shapeK (tile s t) ≤ 16384
  strides : strideA s t % 16 = 0 ∧ strideB s t % 16 = 0 ∧ rowLenA s t ≤ strideA s t ∧ colLenB s t ≤ strideB s t
  bases : (opA s t w).toNat % 16 = 0 ∧ (opB s t w).toNat % 16 = 0
  inA : stripesIn (opA s t w).toNat (strideA s t) (rowLenA s t) (shapeM (tile s t)) = true
  inB : stripesIn (opB s t w).toNat (strideB s t) (colLenB s t) (shapeN (tile s t)) = true
  inScales : fld (opC s t w) 21 0 + shapeM (tile s t) * (shapeK (tile s t) / 32) ≤ 2 ^ 22 ∧
    fld (opC s t w) 53 32 + shapeN (tile s t) * (shapeK (tile s t) / 32) ≤ 2 ^ 22
  goodA : stripesBad s t (opA s t w).toNat (strideA s t) (rowLenA s t) (shapeM (tile s t)) = false
  goodB : stripesBad s t (opB s t w).toNat (strideB s t) (colLenB s t) (shapeN (tile s t)) = false
  goodScales : anyPoison s (tileAddr t (fld (opC s t w) 21 0)) (shapeM (tile s t) * (shapeK (tile s t) / 32)) = false ∧
    anyPoison s (tileAddr t (fld (opC s t w) 53 32)) (shapeN (tile s t) * (shapeK (tile s t) / 32)) = false

/-- A burst leads to another node. -/
def leavesDevice (ps : List (Target × Nat)) : Bool := match ps with | (.fab _, _) :: _ => true | _ => false

/-- An access of a width at an offset of a function's BAR0, outside the MSI-X table, reaches a part of the register at PF offset o. -/
structure RegisterAt (s : State) (fn off len o : Nat) (p : Part_) : Prop where
  up : hostUp s = true
  here : fnExists s fn = true
  outside : ¬ (0x8000 ≤ off ∧ off < 0x8000 + 16 * vecCount s fn)
  reached : (pfOffset fn off).bind (fun a => reach a len) = some (o, p)

/-- The instruction of Syurdun that a word spells on tile t, as the command that issues it; KIND 3 of SEND belongs to every SEND. -/
def TileInstr (t w : Nat) (i : Instr) : Prop :=
  (i = .tNop t ∧ iOpc w = 0x00) ∨
  (i = .tEnd t ∧ iOpc w = 0x01) ∨
  (i = .tBr t ∧ iOpc w = 0x02) ∨
  (i = .tBrl t ∧ iOpc w = 0x03) ∨
  (i = .tJr t ∧ iOpc w = 0x04) ∨
  (i = .tTrap t ∧ iOpc w = 0x05) ∨
  (i = .tCsrr t ∧ iOpc w = 0x06) ∨
  (i = .tCsrw t ∧ iOpc w = 0x07) ∨
  (i = .tWaitt t ∧ iOpc w = 0x08) ∨
  (i = .tWaitc t ∧ iOpc w = 0x09) ∨
  (i = .tAdd t ∧ iOpc w = 0x10) ∨
  (i = .tSub t ∧ iOpc w = 0x11) ∨
  (i = .tMul t ∧ iOpc w = 0x12) ∨
  (i = .tMulhu t ∧ iOpc w = 0x13) ∨
  (i = .tAnd t ∧ iOpc w = 0x14) ∨
  (i = .tOr t ∧ iOpc w = 0x15) ∨
  (i = .tXor t ∧ iOpc w = 0x16) ∨
  (i = .tShl t ∧ iOpc w = 0x17) ∨
  (i = .tShr t ∧ iOpc w = 0x18) ∨
  (i = .tSra t ∧ iOpc w = 0x19) ∨
  (i = .tMins t ∧ iOpc w = 0x1A) ∨
  (i = .tMaxs t ∧ iOpc w = 0x1B) ∨
  (i = .tMinu t ∧ iOpc w = 0x1C) ∨
  (i = .tMaxu t ∧ iOpc w = 0x1D) ∨
  (i = .tDivu t ∧ iOpc w = 0x1E) ∨
  (i = .tRemu t ∧ iOpc w = 0x1F) ∨
  (i = .tAddi t ∧ iOpc w = 0x20) ∨
  (i = .tSubi t ∧ iOpc w = 0x21) ∨
  (i = .tMuli t ∧ iOpc w = 0x22) ∨
  (i = .tMulhui t ∧ iOpc w = 0x23) ∨
  (i = .tAndi t ∧ iOpc w = 0x24) ∨
  (i = .tOri t ∧ iOpc w = 0x25) ∨
  (i = .tXori t ∧ iOpc w = 0x26) ∨
  (i = .tShli t ∧ iOpc w = 0x27) ∨
  (i = .tShri t ∧ iOpc w = 0x28) ∨
  (i = .tSrai t ∧ iOpc w = 0x29) ∨
  (i = .tMinsi t ∧ iOpc w = 0x2A) ∨
  (i = .tMaxsi t ∧ iOpc w = 0x2B) ∨
  (i = .tMinui t ∧ iOpc w = 0x2C) ∨
  (i = .tMaxui t ∧ iOpc w = 0x2D) ∨
  (i = .tDivui t ∧ iOpc w = 0x2E) ∨
  (i = .tRemui t ∧ iOpc w = 0x2F) ∨
  (i = .tMovi t ∧ iOpc w = 0x30) ∨
  (i = .tMovhi t ∧ iOpc w = 0x31) ∨
  (i = .tCmp t ∧ iOpc w = 0x32) ∨
  (i = .tCmpi t ∧ iOpc w = 0x33) ∨
  (i = .tPlog t ∧ iOpc w = 0x34) ∨
  (i = .tLd8u t ∧ iOpc w = 0x40) ∨
  (i = .tLd16u t ∧ iOpc w = 0x41) ∨
  (i = .tLd32u t ∧ iOpc w = 0x42) ∨
  (i = .tLd64 t ∧ iOpc w = 0x43) ∨
  (i = .tLd32s t ∧ iOpc w = 0x44) ∨
  (i = .tSt8 t ∧ iOpc w = 0x45) ∨
  (i = .tSt16 t ∧ iOpc w = 0x46) ∨
  (i = .tSt32 t ∧ iOpc w = 0x47) ∨
  (i = .tSt64 t ∧ iOpc w = 0x48) ∨
  (i = .tVld t ∧ iOpc w = 0x50) ∨
  (i = .tVst t ∧ iOpc w = 0x51) ∨
  (i = .tVldh t ∧ iOpc w = 0x52) ∨
  (i = .tVsth t ∧ iOpc w = 0x53) ∨
  (i = .tVldmx t ∧ iOpc w = 0x54) ∨
  (i = .tVstmx t ∧ iOpc w = 0x55) ∨
  (i = .tVadd t ∧ iOpc w = 0x60) ∨
  (i = .tVsub t ∧ iOpc w = 0x61) ∨
  (i = .tVmul t ∧ iOpc w = 0x62) ∨
  (i = .tVfma t ∧ iOpc w = 0x63) ∨
  (i = .tVmax t ∧ iOpc w = 0x64) ∨
  (i = .tVmin t ∧ iOpc w = 0x65) ∨
  (i = .tVexp2 t ∧ iOpc w = 0x66) ∨
  (i = .tVlog2 t ∧ iOpc w = 0x67) ∨
  (i = .tVrcp t ∧ iOpc w = 0x68) ∨
  (i = .tVrsq t ∧ iOpc w = 0x69) ∨
  (i = .tVred t ∧ iOpc w = 0x6A) ∨
  (i = .tVint t ∧ iOpc w = 0x6B) ∨
  (i = .tVcmp t ∧ iOpc w = 0x6C) ∨
  (i = .tVsel t ∧ iOpc w = 0x6D) ∨
  (i = .tVbcast t ∧ iOpc w = 0x6E) ∨
  (i = .tVext t ∧ iOpc w = 0x6F) ∨
  (i = .tVins t ∧ iOpc w = 0x70) ∨
  (i = .tVcvt t ∧ iOpc w = 0x71) ∨
  (i = .tMzero t ∧ iOpc w = 0x80) ∨
  (i = .tMma t ∧ iOpc w = 0x81) ∨
  (i = .tMstore t ∧ iOpc w = 0x82) ∨
  (i = .tMload t ∧ iOpc w = 0x83) ∨
  (i = .tMrow t ∧ iOpc w = 0x84) ∨
  (i = .tMsetrow t ∧ iOpc w = 0x85) ∨
  (i = .tDmax t ∧ iOpc w = 0x90) ∨
  (i = .tDatom t ∧ iOpc w = 0x91) ∨
  (i = .tSendTile t ∧ iOpc w = 0xA0 ∧ (nfld w 21 20 = 0 ∨ nfld w 21 20 = 3)) ∨
  (i = .tSendAddr t ∧ iOpc w = 0xA0 ∧ (nfld w 21 20 = 1 ∨ nfld w 21 20 = 3)) ∨
  (i = .tSendReply t ∧ iOpc w = 0xA0 ∧ (nfld w 21 20 = 2 ∨ nfld w 21 20 = 3)) ∨
  (∃ bad, i = .tChannelRecv t bad ∧ iOpc w = 0xA1) ∨
  (∃ bad, i = .tRecvm t bad ∧ iOpc w = 0xA2) ∨
  (i = .tPoll t ∧ iOpc w = 0xA3)

end Sys2Proof.Machine

open Sys2Proof Sys2Proof.Machine Sys2Proof.Safety

/-- Power and reset pins: standby power, MG_RESET_N, 48 V and PERST#. STANDBY_POWER_UP of an unpowered card starts a cold boot; STANDBY_POWER_LOSS clears everything but flash and fuses; MG_RESET_N is a full reset; the loss of 48 V and PERST# take the main domain down with every tenant key; the return of 48 V sets the pin state; the release of PERST# starts stage MAIN. -/
def Obligations.PowerPinEvents : Prop :=
  (∀ s, s.pw.stby = false → exec .standbyPowerUp s = .next
    { s with pw := { s.pw with stby := true }, boot := { s.boot with dead := false, prev := 0x01 } }) ∧
  (∀ s, ∃ t, exec .standbyPowerLoss s = .next t ∧ t.pw.stby = false ∧ t.boot.dead = true ∧ t.regs = [] ∧ t.fev = State.reset.fev ∧
    t.tenants = [] ∧ t.mem = State.reset.mem ∧ t.rsp = State.reset.rsp ∧ t.flash = s.flash ∧ t.fuses = s.fuses) ∧
  (∀ s, s.pw.stby = true → exec .mgReset s = .next (fullReset s 0x02)) ∧
  (∀ s, s.pw.mainOn = true → ∃ t, exec .mainPowerLoss s = .next t ∧ t.pw.v48 = false ∧ t.pw.mainOn = false ∧ MainLost s t) ∧
  (∀ s, exec .mainPowerReturn s = .next { s with pw := { s.pw with v48 := true } }) ∧
  (∀ s, s.pw.mainOn = true → ∃ t, exec .perstAssert s = .next t ∧ t.pw.perst = true ∧ t.pw.mainOn = true ∧ MainLost s t) ∧
  (∀ s, s.pw.mainOn = true → s.pw.perst = true → exec .perstDeassert s = .next (startMain
    { s with pw := { s.pw with perst := false } }))

/-- Power samples, capping steps and the thermal and electrical trips. What a power sample adds to; when an evaluation lowers the tile clock by 100 MHz or sets stage 2, and when a step is undone; the cap fault record; the thermal hold from 100 degrees, its end at 95 degrees, and the shutdowns, with the cause kept, the main domain lost and the FAULT LED on; the PWR, FAULT and ID LEDs and MG_ALERT_N. In a hold the step of THERMAL_SAMPLE is the model's reading of R30 (log 7). -/
def Obligations.PowerAndTemperature : Prop :=
  (∀ w mv ma s, ∃ t, exec (.powerSample w mv ma) s = .next t ∧ t.pw.sumW = s.pw.sumW + w ∧ t.pw.samples = s.pw.samples + 1 ∧ reg t
    Reg.MGT_INPUT 0 = w64 (mv % 65536 + ma % 65536 * 65536)) ∧
  (∀ s, s.pw.samples ≠ 0 → powerCap s < s.pw.sumW / s.pw.samples → fld (reg s Reg.MGT_THERM 0) 7 0 < 100 → 900 < s.pw.tileMhz → ∃ t,
    exec .powerEvaluation s = .next t ∧ t.pw.avgW = s.pw.sumW / s.pw.samples % 65536 ∧ t.pw.samples = 0 ∧ t.pw.sumW = 0 ∧ t.pw.tileMhz =
    s.pw.tileMhz - 100 ∧ t.pw.stage2 = s.pw.stage2 ∧ regN t Reg.MGT_PWR_STEPS 0 = wrap32 (regN s Reg.MGT_PWR_STEPS 0 + 1)) ∧
  (∀ s, s.pw.samples ≠ 0 → powerCap s < s.pw.sumW / s.pw.samples → fld (reg s Reg.MGT_THERM 0) 7 0 < 100 → s.pw.tileMhz ≤ 900 → ∃ t,
    exec .powerEvaluation s = .next t ∧ t.pw.stage2 = true ∧ t.pw.tileMhz = s.pw.tileMhz ∧ t.regs = s.regs) ∧
  (∀ s, s.pw.stage2 = true → powerCap s < s.pw.avgW → exec .powerCapFault s = .next (report s
    { cls := 0x02, sev := 2, unit := 14, w3 := w64 (s.pw.avgW + powerCap s * 65536) })) ∧
  (∀ s, s.pw.avgW * 100 < 97 * powerCap s → s.pw.hold = false → ∃ t, exec .powerUndo s = .next t ∧ t.pw.stage2 = false ∧ t.pw.tileMhz =
    if s.pw.stage2 then s.pw.tileMhz else min 1800 (s.pw.tileMhz + 100)) ∧
  (∀ a b c d inlet outlet s, 110 ≤ max (max a b) (max c d) → s.pw.mainOn = true → ∃ t, exec (.thermalSample a b c d inlet outlet) s =
    .next t ∧ t.pw.mainOn = false ∧ t.pw.shutdownCause = 3) ∧
  (∀ a b c d inlet outlet s, 100 ≤ max (max a b) (max c d) → max (max a b) (max c d) < 110 → 900 < s.pw.tileMhz → ∃ t, exec
    (.thermalSample a b c d inlet outlet) s = .next t ∧ t.pw.hold = true ∧ t.pw.tileMhz = s.pw.tileMhz - 100) ∧
  (∀ a b c d inlet outlet s, max (max a b) (max c d) ≤ 95 → exec (.thermalSample a b c d inlet outlet) s = .next (setReg
    { s with pw := { s.pw with hold := false } } Reg.MGT_THERM 0 (w64 (thermWord (max (max a b) (max c d)) inlet outlet false)))) ∧
  (∀ s, s.pw.mainOn = true → 55 < fld (reg s Reg.MGT_THERM 0) 15 8 → ∃ t, exec .inletOvertempTimeout s = .next t ∧ MainLost s t ∧
    t.pw.mainOn = false ∧ t.pw.shutdownCause = 3) ∧
  (∀ s, s.pw.mainOn = true → ∃ t u, exec .undervoltageTrip s = .next t ∧ exec .overcurrentTrip s = .next u ∧ MainLost s t ∧ MainLost s u
    ∧ t.pw.mainOn = false ∧ t.pw.shutdownCause = 4 ∧ u.pw.mainOn = false ∧ u.pw.shutdownCause = 5) ∧
  (∀ s, s.pw.mainOn = true → s.pw.stby = true → ∃ t u, exec .undervoltageTrip s = .next t ∧ exec .overcurrentTrip s = .next u ∧ faultLed
    t = .steady ∧ faultLed u = .steady ∧ pwrLed t = .blink1Hz ∧ pwrLed u = .blink1Hz ∧ osfpLed t 0 = .off ∧ fabLed t 0 = .off) ∧
  (∀ s, s.pw.stby = false → pwrLed s = .off ∧ faultLed s = .off ∧ idLed s = .off ∧ mgAlert s = false) ∧
  (∀ s, s.pw.stby = true → idLed s = (if wbit (reg s Reg.MGT_LED_CTL 0) 0 then .steady else .off) ∧ pwrLed s = (if s.pw.mainOn = true ∧
    fabricTrained s = true then .steady else .blink1Hz)) ∧
  (∀ s, s.pw.stby = true → s.pw.shutdownCause = 0 → s.fev.unread = 0 → faultLed s = (if s.boot.minimal then .blink2Hz else .off) ∧
    mgAlert s = false)

/-- The election: first claim, a lower quadrant within 10 us, no claim; a failed primary; a hung crossing. The first passing RSP is elected, samples the straps and enters stage MGT or minimal mode (always minimal with ST_SAFE); a later claim takes over only within 10 microseconds from a lower quadrant; without a claim the card is dead; a primary failure and a hung crossing write fatal records and count. -/
def Obligations.ElectionAndPrimary : Prop :=
  (∀ s, s.boot.firstClaim = none → s.pw.stby = true → exec .electionTimeout s = .next { s with boot := { s.boot with dead := true } }) ∧
  (∀ quad atNs straps v0 v1 s, s.boot.dead = false → s.pw.stby = true → atNs ≤ 30000000 → quad < 4 → s.boot.firstClaim = none → ∃ t,
    exec (.rspSelfTestDone quad atNs true straps v0 v1) s = .next t ∧ t.boot.firstClaim = some atNs ∧ t.boot.primary = quad ∧
    t.boot.straps = straps ∧ t.boot.rspPass = s.boot.rspPass ||| BitVec.ofNat 4 (2 ^ quad) ∧ (t.boot.stage = .mgt ∨ (t.boot.stage =
    .minimal ∧ t.boot.minimal = true)) ∧ (straps.safe = true → t.boot.minimal = true)) ∧
  (∀ quad atNs t0 straps v0 v1 s, s.boot.dead = false → s.pw.stby = true → atNs ≤ 30000000 → quad < 4 → s.boot.firstClaim = some t0 →
    exec (.rspSelfTestDone quad atNs true straps v0 v1) s = .next
    { s with boot := { s.boot with rspPass := s.boot.rspPass ||| BitVec.ofNat 4 (2 ^ quad), primary := if atNs ≤ t0 + 10000 ∧ quad < s.boot.primary then quad else s.boot.primary } }) ∧
  (∀ pcie s, exec (.primaryFailure pcie) s = .next (report s
    { cls := 0x07, sev := 3, unit := if pcie then 0 else 13, code := 1, inst := s.boot.primary })) ∧
  (∀ c s, exec (.crossingHang c) s = .next (report (bump (bump s Reg.FEV_XHANG 0) Reg.FEV_XSTALL 0)
    { cls := 0x01, sev := 3, unit := 0xFF, inst := c }))

/-- From main good to RUNNING, a failed boot, and MGT_BOOT_CTL. MAIN_DOMAIN_GOOD starts stage MAIN with the keys drawn and the parts measured; trained memory enters MEMORY, an untrained controller fails the boot; units ready reaches RUNNING and clears FAILS; a boot timeout, a failed self-test and a failed RSP link fail the boot with their reason; RESET and, in minimal mode, RETRY force a full reset. -/
def Obligations.BootStagesAndControl : Prop :=
  (∀ s, s.boot.dead = false → s.pw.stby = true → s.pw.v48 = true → s.pw.mainOn = false → s.boot.firstClaim ≠ none → exec
    (.mainDomainGood true) s = .next (partMeasured (partMeasured (startMain (reportShutdown
    { s with pw := { s.pw with mainOn := true }, boot := { s.boot with mainGoodAt := s.time } })) 7) 8)) ∧
  (∀ failed s, s.pw.mainOn = true → s.pw.perst = false → s.boot.minimal = false → s.boot.stage = .main → failed.filter (ctrlPresent
    s.variant) = [] → ∃ t, exec (.memoryTrained failed) s = .next t ∧ t.boot.stage = .memory ∧ ∀ c < 24, ctrlPresent s.variant c = true
    → (ctrl t c).state = 2) ∧
  (∀ failed s, s.pw.mainOn = true → s.pw.perst = false → s.boot.minimal = false → s.boot.stage = .main → failed.filter (ctrlPresent
    s.variant) ≠ [] → ∃ t, exec (.memoryTrained failed) s = .next t ∧ t.boot.prev = 0x12 ∧ t.pw.mainOn = false ∧ (bootRec t).fails = min
    3 ((bootRec s).fails + 1)) ∧
  (∀ s, s.boot.stage = .units → ∃ t, exec (.unitsReady true true) s = .next t ∧ t.boot.stage = .running ∧ t.boot.selftestOk = true ∧
    t.boot.bootMs = (s.time - s.boot.mainGoodAt) / 1000000 ∧ (bootRec t).fails = 0) ∧
  (∀ link test s, s.boot.stage = .units → (link && test) = false → exec (.unitsReady link test) s = .next (bootFail s (if link then 0x13
    else 0x15))) ∧
  (∀ s, s.boot.stage = .main ∨ s.boot.stage = .memory ∨ s.boot.stage = .units → exec .bootTimeout s = .next (bootFail s 0x14)) ∧
  (∀ s, exec .bootCtlReset s = .next (fullReset s 0x02)) ∧
  (∀ s, s.boot.minimal = true → s.boot.scrubbed = true → exec .bootCtlRetry s = .next (fullReset (recWrite (dropHeld s 0) (fun r =>
    { r with fails := 0 })) 0x02))

/-- Memory requests, retirement, patrol, retraining, key sets and the boot scrub. A permitted write changes exactly its bytes; the rest of a block of another key set, which it covers in part, stays as it is deciphered now; a refused write counts; a read answers data or poisoned data; a finished copy remaps its granule and releases the held requests; patrol applies its finding; retraining holds and releases; a key set load touches no byte; the boot scrub leads to UNITS or, in minimal mode, to service. -/
def Obligations.MemoryRequests : Prop :=
  (∀ t a bytes s, heldBy s a = none → ownedRange s t a bytes.length = true → (unitsOfRange s a bytes.length).any (blockFailed s) = false
    → (blocksOf a bytes.length).any (otherSet s) = false → ∃ u, exec (.memoryWrite t a bytes) s = .next u ∧ (∀ i < bytes.length, memByte
    u (a + i) = bytes.getD i 0) ∧ ∀ b, (b < a ∨ a + bytes.length ≤ b) → memByte u b = memByte s b) ∧
  (∀ t a bytes s, heldBy s a = none → ownedRange s t a bytes.length = true → (unitsOfRange s a bytes.length).any (blockFailed s) = false
    → ∃ u, exec (.memoryWrite t a bytes) s = .next u ∧ (∀ i < bytes.length, memByte u (a + i) = bytes.getD i 0) ∧ ∀ b, (b < a ∨ a +
    bytes.length ≤ b) → memByte u b = if (blocksOf a bytes.length).contains (b / 64) && otherSet s (b / 64) then (seenBlock s (b /
    64)).getD (b % 64) 0 else memByte s b) ∧
  (∀ t a bytes s, heldBy s a = none → ownedRange s t a bytes.length = false → exec (.memoryWrite t a bytes) s = .next (ownFault s t)) ∧
  (∀ t a n f s u d, heldBy s a = none → ownedRange s t a n = true → memRead (applyFinding s a f) t a n = (u, .ok d) → exec (.memoryRead
    t a n f) s = .next (emit u (.readData t d false))) ∧
  (∀ t a n f s u d m, heldBy s a = none → ownedRange s t a n = true → memRead (applyFinding s a f) t a n = (u, .poison d m) → exec
    (.memoryRead t a n f) s = .next (emit u (.readData t d true))) ∧
  (∀ c g s, (ctrl s c).retiring = some g → ∃ u, exec (.retirementCopyDone c none) s = .next u ∧ (ctrl u c).retiring = none ∧ (ctrl u
    c).retired = (ctrl s c).retired ++ [g] ∧ (ctrl u c).held = [] ∧ u.atu.ready = s.atu.ready ++ (ctrl s c).held ∧ regN u
    Reg.MEM_RET_USED c = wrap32 (regN s Reg.MEM_RET_USED c + 1)) ∧
  (∀ c a f s, wbit (reg s Reg.MEM_PATROL_CFG 0) 8 = false → controllerOf s a = some c → (frame s (frameOf a)).scrub = false → (frame s
    (frameOf a)).alloc = true → exec (.patrolRead c a f false false) s = .next (applyFinding (settleTags s [a / 64]) a f)) ∧
  (∀ c temp s, (ctrl s c).state = 2 → exec (.channelRetrain c temp) s = .next (ctrlMod s c (fun C =>
    { C with retraining := true, temp := temp % 256 }))) ∧
  (∀ c s, (ctrl s c).retraining = true → ∃ u, exec (.retrainDone c true) s = .next u ∧ (ctrl u c).retraining = false ∧ (ctrl u c).state
    = 2 ∧ (ctrl u c).held = [] ∧ u.atu.ready = s.atu.ready ++ (ctrl s c).held ∧ regN u Reg.MEM_RETRAIN c = wrap32 (regN s
    Reg.MEM_RETRAIN c + 1)) ∧
  (∀ t quad s, ∃ u v, exec (.keySetLoad t quad true) s = .next u ∧ exec (.keySetLoad t quad false) s = .next v ∧ keyQuads u t = keyQuads
    s t ||| BitVec.ofNat 4 (2 ^ (quad % 4)) ∧ keyQuads v t = keyQuads s t &&& ~~~(BitVec.ofNat 4 (2 ^ (quad % 4))) ∧ (∀ a, memByte u a =
    memByte s a) ∧ ∀ a, memByte v a = memByte s a) ∧
  (∀ cores s, s.boot.stage = .memory → s.boot.minimal = false → 32 ≤ cores → ∃ u, exec (.bootScrubDone true cores [] true true) s =
    .next u ∧ u.boot.stage = .units ∧ u.boot.msixBad = false) ∧
  (∀ ok cores bad f u s, s.boot.minimal = true → exec (.bootScrubDone ok cores bad f u) s = .next
    { s with boot := { s.boot with scrubbed := decide (s.pw.mainOn = true ∨ s.boot.scrubbed = true) } })

/-- VFs, function-level resets, MSI-X unmasking and the ABI version. NumVFs and VF Enable are set, VF Enable clear and an FLR tear tenants down and reset the function, an unmasked vector with its pending bit sends its message, and an offered ABI version is agreed while no queue of the function is in use. -/
def Obligations.FunctionsAndVectors : Prop :=
  (∀ n s, hostUp s = true → s.hif.vfEnable = false → n ≤ 252 → exec (.numvfsWrite n) s = .next
    { s with hif := { s.hif with numVfs := n } }) ∧
  (∀ s, hostUp s = true → s.boot.minimal = false → exec .vfEnableSet s = .next { s with hif := { s.hif with vfEnable := true } }) ∧
  (∀ s, hostUp s = true → s.hif.vfEnable = true → exec .vfEnableClear s = .next (vfsGone s)) ∧
  (∀ vf s, hostUp s = true → fnExists s vf = true → vf ≠ 0 → exec (.vfFlr vf) s = .next (fnReset (startTeardown s vf) vf)) ∧
  (∀ s, hostUp s = true → exec .pfFlr s = .next (fnReset (startTeardown (vfsGone s) 0) 0)) ∧
  (∀ fn vec s, hostUp s = true → fnExists s fn = true → vec < (if fn = 0 then s.hif.pfVec else s.hif.vfVec) → (vector s fn vec).pending
    = true → exec (.msixUnmask fn vec) s = .next (sendVec (vectorMod s fn vec (fun V => { V with masked := false, pending := false }))
    fn vec)) ∧
  (∀ fn vec s, hostUp s = true → fnExists s fn = true → vec < (if fn = 0 then s.hif.pfVec else s.hif.vfVec) → (vector s fn vec).pending
    = false → exec (.msixUnmask fn vec) s = .next (vectorMod s fn vec (fun V => { V with masked := false, pending := false }))) ∧
  (∀ fn version s, blockUp (dropHeld s fn) fn = true → (dropHeld s fn).queues.any (fun e => decide (queueOwner (dropHeld s fn) e.1 = fn
    ∧ e.2.st ≠ 0)) = false → exec (.abiAgree fn version) s = .next (fnMod (dropHeld s fn) fn (fun F =>
    { F with abi := if version = 1 ∨ version = 2 then version else 0 })))

/-- The device-memory window and the bulk data ports. Window and port accesses reach base plus offset in the context of their register; an unbound read answers 0xFF; a context write is accepted for the own tenant; a prefetched read is served from the buffer; a prefetch fill keeps what it read. -/
def Obligations.WindowAndDataPorts : Prop :=
  (∀ fn off bytes s, hostUp s = true → fnExists s fn = true → off + bytes.length ≤ windowSize s fn → exec (.windowWrite fn off bytes) s
    = .next (winWrite s fn (reg s Reg.HIF_WIN_CTX fn) (regN s Reg.HIF_WIN_BASE fn + off) bytes)) ∧
  (∀ fn off len bus s, hostUp s = true → fnExists s fn = true → off + len ≤ windowSize s fn → exec (.windowRead fn off len bus) s =
    .next (winRead s fn (reg s Reg.HIF_WIN_CTX fn) (regN s Reg.HIF_WIN_BASE fn + off) len bus)) ∧
  (∀ fn off len bus s, hostUp s = true → fnExists s fn = true → off + len ≤ windowSize s fn → bound s fn (reg s Reg.HIF_WIN_CTX fn) =
    false → ∃ u, exec (.windowRead fn off len bus) s = .next u ∧ u.out = .readData fn (List.replicate len 0xFF) false :: s.out) ∧
  (∀ fn value s, hostUp (dropHeld s fn) = true → fnExists (dropHeld s fn) fn = true → ctxOwner (dropHeld s fn) (fld value 15 0) = fn →
    exec (.winCtxWrite fn value) s = .next (setReg (fnMod (dropHeld s fn) fn (fun F => { F with badCtx := false })) Reg.HIF_WIN_CTX fn
    (w64 (fld value 16 0)))) ∧
  (∀ port off bytes s, hostUp s = true → port < 8 → off + bytes.length ≤ 2 ^ 20 → exec (.dataPortWrite port off bytes) s = .next
    (portWriteAt s port (reg s Reg.HIF_DPn_CTX port) (regN s Reg.HIF_DPn_ADDR port + off) bytes)) ∧
  (∀ port off len bus s, hostUp s = true → port < 8 → off + len ≤ 2 ^ 20 → bound s 0 (reg s Reg.HIF_DPn_CTX port) = true → prefetched
    (Machine.port s port) off len = none → exec (.dataPortRead port off len bus) s = .next (portReadAt s port (reg s Reg.HIF_DPn_CTX
    port) (regN s Reg.HIF_DPn_ADDR port + off) off len bus)) ∧
  (∀ port off len d bus s, hostUp s = true → port < 8 → off + len ≤ 2 ^ 20 → bound s 0 (reg s Reg.HIF_DPn_CTX port) = true → prefetched
    (Machine.port s port) off len = some d → exec (.dataPortRead port off len bus) s = .next (emit (prefetchMore s port (off + len))
    (.readData 0 d false))) ∧
  (∀ port value s, hostUp (dropHeld s 0) = true → port < 8 → ctxOwner (portEmpty (dropHeld s 0) port) (fld value 15 0) = 0 → exec
    (.dataPortCtxWrite port value) s = .next (setReg (portEmpty (dropHeld s 0) port) Reg.HIF_DPn_CTX port (w64 (fld value 16 0)))) ∧
  (∀ port epoch off len bus s s1 ps s2 d, (Machine.port s port).epoch = epoch → bound s 0 (reg s Reg.HIF_DPn_CTX port) = true → off +
    len ≤ (Machine.port s port).fetched → xlateAll s (fld (reg s Reg.HIF_DPn_CTX port) 15 0) (regN s Reg.HIF_DPn_ADDR port + off) len
    { rd := true } = (s1, .ok ps) → readPieces s1 0 ps bus = (s2, .ok d) → exec (.prefetchFill port epoch off len bus) s = .next
    (portMod s2 port (fun P =>
    { P with prefetch := P.prefetch.filter (fun c => !decide (off ≤ c.1 ∧ c.1 < off + len)) ++ (List.range d.length).map (fun i => (off + i, d.getD i 0)) })))

/-- A commit of a data port adds its length to the port address. A COMMIT of a length that is a multiple of 64 from 64 to 1,048,576 adds it to HIF_DPn_ADDR and changes no other register and no byte; any other length is ignored and sets BAD_COMMIT; accesses after the commit use the new address. Formalises R55. -/
def Obligations.DataPortCommitAdds : Prop :=
  (∀ port value s, hostUp (dropHeld s 0) = true → port < 8 → 64 ≤ fld value 20 0 → fld value 20 0 ≤ 1048576 → fld value 20 0 % 64 = 0 →
    ∃ u, exec (.dataPortCommit port value) s = .next u ∧ reg u Reg.HIF_DPn_ADDR port = reg s Reg.HIF_DPn_ADDR port + w64 (fld value 20
    0) ∧ (∀ off idx, (off, idx) ≠ (Reg.HIF_DPn_ADDR, port) → idx < 2 ^ 32 → reg u off idx = reg s off idx) ∧ (∀ a, memByte u a = memByte
    s a) ∧ (Machine.port u port).badCommit = (Machine.port s port).badCommit ∧ (Machine.port u port).prefetch = []) ∧
  (∀ port value s, hostUp (dropHeld s 0) = true → port < 8 → (fld value 20 0 < 64 ∨ 1048576 < fld value 20 0 ∨ fld value 20 0 % 64 ≠ 0)
    → ∃ u, exec (.dataPortCommit port value) s = .next u ∧ u.regs = s.regs ∧ (∀ a, memByte u a = memByte s a) ∧ (Machine.port u
    port).badCommit = true) ∧
  (∀ port off bytes s, hostUp s = true → port < 8 → off + bytes.length ≤ 2 ^ 20 → exec (.dataPortWrite port off bytes) s = .next
    (portWriteAt s port (reg s Reg.HIF_DPn_CTX port) ((reg s Reg.HIF_DPn_ADDR port).toNat + off) bytes)) ∧
  (∀ port off len bus s, hostUp s = true → port < 8 → off + len ≤ 2 ^ 20 → (Machine.port s port).prefetch = [] → 0 < len → exec
    (.dataPortRead port off len bus) s = .next (portReadAt s port (reg s Reg.HIF_DPn_CTX port) ((reg s Reg.HIF_DPn_ADDR port).toNat +
    off) off len bus))

/-- Doorbells, inline slots, ring reads, head writes and queue interrupts. A doorbell of a queue that takes it leaves its TAIL pending, clears a held slot and counts the discard, and keeps the expected sequence number; any other is counted ignored; inline writes, waiting inline commands, taken doorbells, returned ring reads, re-fetches, completed head writes and the interrupt timer go on as their rules say. -/
def Obligations.DoorbellsRingsAndHeads : Prop :=
  (∀ fn q off len value s c, hostUp s = true → fnExists s fn = true → off = 0 → len = 4 ∨ len = 8 → queueOf s fn q = some c → queueTakes
    s fn (some c) = true → ∃ u, exec (.doorbell fn q off len value) s = .next u ∧ (queue u c).db = some (fld value 31 0) ∧ (queue u
    c).slot = [] ∧ (queue u c).seq = (queue s c).seq ∧ regN u Reg.HIF_INL_DISCARD fn = if (queue s c).slot = [] then regN s
    Reg.HIF_INL_DISCARD fn else wrap32 (regN s Reg.HIF_INL_DISCARD fn + 1)) ∧
  (∀ fn q off len value s, hostUp s = true → fnExists s fn = true → off = 0 → len = 4 ∨ len = 8 → queueTakes s fn (queueOf s fn q) =
    false → exec (.doorbell fn q off len value) s = .next (bumpFn s Reg.HIF_DB_IGNORED fn)) ∧
  (∀ fn q off bytes s c, hostUp s = true → fnExists s fn = true → q < 65536 → queueOf s fn q = some c → queueTakes s fn (some c) = true
    → exec (.inlineSlotWrite fn q off bytes) s = .next (acceptInline (queueMod s c (fun Q =>
    { Q with slot := markSlot Q.slot off bytes })) c)) ∧
  (∀ q b s, (queue s q).inlineWait = some b → (queue s q).tail - (queue s q).hd < ringSize (queue s q) → exec (.inlineWaitRelease q) s =
    .next (acceptInline (claimInline (queueMod s q (fun Q => { Q with inlineWait := none })) q b) q)) ∧
  (∀ q s, (queue s q).st = 1 → nextDoorbell s = some q → exec (.wqmDoorbellTake q) s = .next (takeDoorbell s q)) ∧
  (∀ q idx bus s r b s1, (queue s q).reads.find? (fun r => r.idx = idx) = some r → r.xfer.len ≠ 0 → finishRead s (queueOwner s q) r.xfer
    bus = (s1, .ok b) → (queue s1 q).st = 1 → exec (.ringReadComplete q idx bus) s = .next (settle (fetchRound (takeAll (queueMod s1 q
    (fun Q => { Q with reads := Q.reads.filter (fun x => x.idx ≠ idx) })) q r.claimed idx b r.count) q) q)) ∧
  (∀ q idx s, (queue s q).st = 1 ∨ (queue s q).st = 2 → (queue s q).refetch.any (fun r => r.idx = idx ∧ r.tries < 8) = true → (queue s
    q).reads.any (fun r => r.idx = idx) = false → exec (.refetchTimer q idx) s = .next (ringRead s q idx 1)) ∧
  (∀ q s, (queue s q).headBusy = true → exec (.headWriteComplete q) s = .next (settle (headWrite (queueIrq (queueMod s q (fun Q =>
    { Q with headBusy := false, published := Q.headFlight })) q) q) q)) ∧
  (∀ q i at_ s, firstFinished (queue s q).finishedAt = some (i, at_) → nbit (queue s q).ctl 3 = true → nfld (queue s q).mod 23 8 ≠ 0 → i
    < (queue s q).published → (queue s q).announced < (queue s q).published → exec (.queueIrqTimer q) s = .next (announce s q))

/-- Selecting, enabling, disabling, flushing and configuring a queue. Enabling a DISABLED queue whose checks pass makes it ACTIVE with TAIL, HEAD and the fetch pointer 0 and the expected sequence number 1; a queue in ERROR that is drained becomes DISABLED, as does a drained queue that is flushed; configuration is taken in DISABLED and refused in any other state. -/
def Obligations.QueueRegisters : Prop :=
  (∀ fn value s, blockUp (dropHeld s fn) fn = true → exec (.queueSelect fn value) s = .next (setReg (fnMod (dropHeld s fn) fn (fun F =>
    { F with notGranted := false })) Reg.WQM_QSEL fn (w64 (fld value 16 0)))) ∧
  (∀ fn value q s, blockUp (dropHeld s fn) fn = true → wbit value 0 = true → wbit value 2 = false → selQueue (dropHeld s fn) fn = some q
    → (queue s q).st = 0 → (fnGet s fn).abi ≠ 0 → (fnGet s fn).teardown = false → 4 ≤ fld (queue s q).ring 4 0 → fld (queue s q).ring 4
    0 ≤ 16 → (bindType (queue s q) = 0 ∧ isRecvQ (queue s q) = false) ∨ (bindType (queue s q) = 1 ∧ owner s 0x03 (bindId (queue s q)) =
    fn) ∨ (bindType (queue s q) = 2 ∧ owner s 0x04 (bindId (queue s q)) = fn) → nfld (fld value 31 0) 28 18 < vecCount s fn → ∃ u, exec
    (.queueEnable fn value) s = .next u ∧ (queue u q).st = 1 ∧ (queue u q).tail = 0 ∧ (queue u q).hd = 0 ∧ (queue u q).fetch = 0 ∧
    (queue u q).seq = 1 ∧ (queue u q).enableErr = 0 ∧ (queue u q).ring = (queue s q).ring) ∧
  (∀ fn value q s, blockUp (dropHeld s fn) fn = true → wbit value 0 = false → wbit value 2 = false → selQueue (dropHeld s fn) fn = some
    q → (queue s q).st = 3 → (queue s q).headBusy = false → (queue s q).entries = [] → ∃ u, exec (.queueDisable fn value) s = .next u ∧
    (queue u q).st = 0) ∧
  (∀ fn value s, blockUp (dropHeld s fn) fn = true → wbit value 0 = false → exec (.queueDisable fn value) s = .next (qctlWrite (dropHeld
    s fn) fn value)) ∧
  (∀ fn value q s, blockUp (dropHeld s fn) fn = true → wbit value 0 = true → wbit value 2 = true → selQueue (dropHeld s fn) fn = some q
    → (queue s q).st = 2 → (queue s q).entries = [] → (queue s q).hd = (queue s q).tail → (queue s q).published = (queue s q).hd →
    (queue s q).headBusy = false → (queue s q).inlineWait = none → ∃ u, exec (.queueFlush fn value) s = .next u ∧ (queue u q).st = 0) ∧
  (∀ fn value s, blockUp (dropHeld s fn) fn = true → wbit value 2 = true → exec (.queueFlush fn value) s = .next (qctlWrite (dropHeld s
    fn) fn value)) ∧
  (∀ fn value q s, blockUp (dropHeld s fn) fn = true → selQueue (dropHeld s fn) fn = some q → (queue s q).st = 0 → ∃ u, exec
    (.queueConfigWrite fn Reg.WQM_QRING value) s = .next u ∧ (queue u q).cfgRefused = false ∧ (queue u q).ring = w64 (fld value 63 12 *
    4096 + fld value 4 0)) ∧
  (∀ fn off value q s, blockUp (dropHeld s fn) fn = true → selQueue (dropHeld s fn) fn = some q → (queue s q).st ≠ 0 → isQueueCfg off =
    true → off ≠ Reg.WQM_QCTL → exec (.queueConfigWrite fn off value) s = .next (queueMod (dropHeld s fn) q (fun Q =>
    { Q with cfgRefused := true })))

/-- An entry starts, reads its fragments and finishes. An entry whose turn has come is checked and started; a returned fragment table is parsed and checked; a completed entry flushes the peer pages it wrote when PEER_FLUSH is set, and otherwise writes its bytes and header word. -/
def Obligations.EntriesStartAndFinish : Prop :=
  (∀ q idx e s, entry s q idx = some e → e.phase = 0 → (queue s q).st = 1 ∨ (queue s q).st = 2 → mayStart (queue s q) e = true →
    isRemote (opcode e) = false → opcode e ≠ 0x20 → exec (.entryStart q idx) s = .next (startEntry s q e)) ∧
  (∀ q idx e s, entry s q idx = some e → e.phase = 0 → (queue s q).st = 1 ∨ (queue s q).st = 2 → mayStart (queue s q) e = true →
    isRemote (opcode e) = true → connWaits (conn s (verbConn s q e)) = false → opcode e ≠ 0x20 → exec (.entryStart q idx) s = .next
    (startEntry s q e)) ∧
  (∀ q idx e x b bus s s1, entry s q idx = some e → e.tblRead = some x → finishRead s (queueOwner s q) x bus = (s1, .ok b) → exec
    (.fragmentTableRead q idx bus) s = .next (takeFrags (entryMod (entryMod s1 q idx (fun e => { e with tblRead := none })) q idx (fun x
    => { x with frags := some (parseFrags (elen e) b) })) q idx)) ∧
  (∀ q idx e s, entry s q idx = some e → e.phase = 2 → e.flushes = 0 → e.leaves = [] → exec (.entryFinish q idx) s = .next (finishEntry
    s q e)) ∧
  (∀ q idx e s, entry s q idx = some e → e.phase = 2 → e.flushes = 0 → e.leaves ≠ [] → nbit (queue s q).ctl 1 = true → e.flushed = false
    → exec (.entryFinish q idx) s = .next (flushReads (entryMod s q idx (fun e => { e with flushes := e.leaves.length })) (queueOwner s
    q) (.peerFlush q idx) e.leaves)) ∧
  (∀ q idx e s, entry s q idx = some e → e.phase = 0 → (queue s q).st = 1 ∨ (queue s q).st = 2 → mayStart (queue s q) e = true → opcode
    e ≠ 0x20 → waitsConn s q e = false → flag e 10 = false → formBad s q e = false → unitBad s e = false → lengthBad s q e = none →
    protectionBad s q e = false → isStale s e = false → routeBad s q e = none → ∃ u x, exec (.entryStart q idx) s = .next u ∧ entry u q
    idx = some x ∧ x.phase = 1 ∧ x.taken = true ∧ x.bytes = e.bytes) ∧
  (∀ q idx e x b bus s s1 t fs s2 i, entry s q idx = some e → e.tblRead = some x → e.phase = 1 → e.taken = false → finishRead s
    (queueOwner s q) x bus = (s1, .ok b) → fs = parseFrags (elen e) b → fs.foldl (fun n f => n + f.len) 0 ≤ 2 ^ 30 → t = entryMod
    (entryMod s1 q idx (fun e => { e with tblRead := none })) q idx (fun x => { x with frags := some fs }) → checkFrags t (queueOwner t
    q) (dctx e) (scatters e) (if scatters e then { wr := true } else { rd := true }) 0 fs = (s2, .ok, i) → isRemote (opcode e) = false →
    (fragRegions fs).all (regionRoom s2) = true → ∃ u y, exec (.fragmentTableRead q idx bus) s = .next u ∧ entry u q idx = some y ∧
    y.phase = 1 ∧ y.taken = true ∧ y.frags = some fs ∧ y.held = fragRegions fs) ∧
  (∀ q idx e s s1 l, entry s q idx = some e → e.phase = 2 → e.flushes = 0 → e.leaves = [] → e.held = [] → (queue s q).st = 1 → writeBack
    s q e (entryWrites (queue s q) e) = (s1, .ok l) → idx ≠ (queue s q).hd → (queue s q).entries.any (fun x => x.idx = (queue s q).hd ∧
    x.phase = 3) = false → (queue s q).published = (queue s q).hd → fetchEnd (queue s q) ≤ (queue s q).fetch → ∃ u x, exec (.entryFinish
    q idx) s = .next u ∧ entry u q idx = some x ∧ x.phase = 3 ∧ x.doneAt = s1.time ∧ u.mem = s1.mem ∧ u.out = s1.out)

/-- The remote verbs: each posts its one message to its connection. A started WRITE, READ, SEND, ATOMIC, REDUCE-WRITE, GATHER-REDUCE or INVOKE entry whose connection is READY posts one message with the opcode, lengths and operands of its verb under the next message sequence number; a raw SEND joins the frames of its port; an INVOKE whose TIMEOUT passes completes with KERNEL_FAULT. -/
def Obligations.RemoteVerbsPost : Prop :=
  (∀ q idx e s, readyVerb s q idx 0x01 = some e → (conn s (verbConn s q e)).st = 2 → (conn s (verbConn s q e)).send.length < 4096 →
    (queue s q).entries.any (unposted s q e) = false → exec (.vWrite q idx) s = .next (verbPosted s q idx e (withData s q e (verbMsg s q
    e 0x01)))) ∧
  (∀ q idx e s, readyVerb s q idx 0x02 = some e → (conn s (verbConn s q e)).st = 2 → (conn s (verbConn s q e)).send.length < 4096 →
    (queue s q).entries.any (unposted s q e) = false → exec (.vRead q idx) s = .next (verbPosted s q idx e
    ({ verbMsg s q e 0x0B with headLen := msgLen e, respLen := msgLen e, respUnits := unitsOf (msgLen e) }))) ∧
  (∀ q idx e s, queueRaw s q = none → readyVerb s q idx 0x03 = some e → (conn s (verbConn s q e)).st = 2 → (conn s (verbConn s q
    e)).send.length < 4096 → (queue s q).entries.any (unposted s q e) = false → exec (.vSend q idx) s = .next (verbPosted s q idx e
    (withData s q e { verbMsg s q e 0x02 with akey := 0, raddr := 0 }))) ∧
  (∀ q idx e s, readyVerb s q idx 0x04 = some e → (conn s (verbConn s q e)).st = 2 → (conn s (verbConn s q e)).send.length < 4096 →
    (queue s q).entries.any (unposted s q e) = false → exec (.vAtomic q idx) s = .next (verbPosted s q idx e
    ({ verbMsg s q e 0x0C with headLen := 8, op1 := w64 (ef e 48 8), op2 := w64 (ef e 56 8), aop := nfld (ef e 44 4) 3 0, respLen := 8, respUnits := 1 }))) ∧
  (∀ q idx e s, readyVerb s q idx 0x05 = some e → (conn s (verbConn s q e)).st = 2 → (conn s (verbConn s q e)).send.length < 4096 →
    (queue s q).entries.any (unposted s q e) = false → exec (.vReduceWrite q idx) s = .next (verbPosted s q idx e (withData s q e
    { verbMsg s q e 0x03 with varg := nfld (ef e 44 4) 7 0 }))) ∧
  (∀ q idx e s, readyVerb s q idx 0x06 = some e → (conn s (verbConn s q e)).st = 2 → (conn s (verbConn s q e)).send.length < 4096 →
    (queue s q).entries.any (unposted s q e) = false → exec (.vGatherReduce q idx) s = .next (verbPosted s q idx e
    ({ verbMsg s q e 0x06 with src := .mem (queueOwner s q) (dctx e) [(ef e 16 8, 4 * nfld (ef e 56 8) 12 0)], len := 4 * nfld (ef e 56 8) 12 0, headLen := elen e, varg := nfld (ef e 44 4) 7 0 + nfld (ef e 56 8) 12 0 * 256, respLen := elen e, respUnits := unitsOf (elen e) }))) ∧
  (∀ q idx e s, readyVerb s q idx 0x07 = some e → (conn s (verbConn s q e)).st = 2 → (conn s (verbConn s q e)).send.length < 4096 →
    (queue s q).entries.any (unposted s q e) = false → exec (.vInvoke q idx) s = .next (verbPosted s q idx e (withData s q e
    { verbMsg s q e 0x08 with varg := nfld (ef e 44 4) 24 0 }))) ∧
  (∀ q idx e p s, queueRaw s q = some p → readyVerb s q idx 0x03 = some e → exec (.vSend q idx) s = .next (eportMod (entryMod s q idx
    (fun e => { e with running := true })) p.1 (fun P =>
    { P with raw := P.raw ++ [{ queue := q, idx := idx, len := msgLen e, cls := (verbClass s q e).getD 4 }] }))) ∧
  (∀ q idx e m s, entry s q idx = some e → opcode e = 0x07 → e.running = true → (conn s e.conn).send.find? (fun m => decide (m.by_ =
    .entry q idx) && m.acked) = some m → exec (.invokeTimeout q idx) s = .next (closeCheck (entryDone (dropSend (endSend s e.conn m)
    e.conn e.msn) q idx Status.kernelFault 0 0) e.conn))

/-- The local verbs: COLLECTIVE, RECV, INVALIDATE, FENCE, REGISTER and REVOKE. COLLECTIVE and RECV begin to run; INVALIDATE advances the epoch of its context and drops exactly its overlapping cached translations; a drained INVALIDATE and a FENCE whose work is over complete; REGISTER makes a FREE index VALID under the next generation; REVOKE frees or revokes a region of its generation. -/
def Obligations.LocalVerbs : Prop :=
  (∀ q idx e s, readyVerb s q idx 0x10 = some e → exec (.vCollective q idx) s = .next (entryMod s q idx (fun e =>
    { e with running := true }))) ∧
  (∀ q idx e s, readyVerb s q idx 0x30 = some e → (queue s q).entries.any (fun x => decide (x.idx < idx ∧ x.phase = 1) && !x.running) =
    false → exec (.recvPost q idx) s = .next (entryMod s q idx (fun e => { e with running := true }))) ∧
  (∀ q idx e s, readyVerb s q idx 0x20 = some e → ∃ u, exec (.vInvalidate q idx) s = .next u ∧ (ctx u (dctx e)).epoch = (ctx s (dctx
    e)).epoch + 1 ∧ (∀ x ∈ u.atu.cache, x.ctx = dctx e → nbit (ef e 44 4) 0 = false ∧ ¬ (x.base < ef e 16 8 + ef e 24 8 ∧ ef e 16 8 <
    x.base + x.size)) ∧ (∀ x : Cached, x.ctx ≠ dctx e → (x ∈ u.atu.cache ↔ x ∈ s.atu.cache))) ∧
  (∀ q idx e s, entry s q idx = some e → opcode e = 0x20 → e.running = true → drained s (dctx e) e.waits = true → exec
    (.invalidateDrainDone q idx) s = .next (entryDone s q idx Status.ok 0 0)) ∧
  (∀ q idx e s, readyVerb s q idx 0x21 = some e → e.waits.all (workOver s) = true → exec (.vFence q idx) s = .next (entryDone s q idx
    Status.ok 0 0)) ∧
  (∀ q idx e s, readyVerb s q idx 0x22 = some e → (region s (nfld (ef e 32 4) 23 0)).state = 0 → ∃ u, exec (.vRegister q idx) s = .next
    u ∧ region u (nfld (ef e 32 4) 23 0) =
    { state := 1, rights := nfld (ef e 44 4) 5 0, gen := (region s (nfld (ef e 32 4) 23 0)).gen + 1, ctx := dctx e, kernel := nfld (ef e 44 4) 25 16, base := w64 (ef e 16 8), len := w64 (ef e 24 8) }) ∧
  (∀ q idx e s, readyVerb s q idx 0x23 = some e → (region s (nfld (ef e 32 4) 23 0)).state ≠ 0 → (region s (nfld (ef e 32 4) 23
    0)).gen.toNat = nfld (ef e 32 4) 31 24 → ∃ u, exec (.vRevoke q idx) s = .next u ∧ (region u (nfld (ef e 32 4) 23 0)).state = if
    (region s (nfld (ef e 32 4) 23 0)).admitted = 0 then 0 else 2)

/-- COMMIT and ROLLBACK carry the token; an idle transaction is rolled back. A COMMIT or ROLLBACK with a wrong token leaves the transaction open and reads BAD_TOKEN; ROLLBACK discards the staged writes and closes; COMMIT closes and takes its place in the order of commits; TRANSACTION_TIMEOUT, which says that 1 s has passed with neither a staged write nor a command, rolls back, counts and reads TIMEOUT. Formalises R461. -/
def Obligations.CommitsCarryTheToken : Prop :=
  (∀ fn token save T s, cfgUp (dropHeld s fn) fn = true → (fnGet s fn).cfgBusy = false → (fnGet s fn).txn = some T → token ≠ T.token → ∃
    u v, exec (.txnCommit fn token save) s = .next u ∧ exec (.txnRollback fn token) s = .next v ∧ (fnGet u fn).cfgResult = 5 ∧ (fnGet v
    fn).cfgResult = 5 ∧ (fnGet u fn).txn = some { T with touched := s.time } ∧ (fnGet v fn).txn = some { T with touched := s.time } ∧
    u.commits = s.commits ∧ v.commits = s.commits ∧ u.regs = s.regs ∧ v.regs = s.regs) ∧
  (∀ fn T s, cfgUp (dropHeld s fn) fn = true → (fnGet s fn).cfgBusy = false → (fnGet s fn).txn = some T → ∃ u, exec (.txnRollback fn
    T.token) s = .next u ∧ (fnGet u fn).txn = none ∧ u.regs = s.regs ∧ u.commits = s.commits) ∧
  (∀ fn T save s, cfgUp (dropHeld s fn) fn = true → (fnGet s fn).cfgBusy = false → (fnGet s fn).txn = some T → ∃ u, exec (.txnCommit fn
    T.token save) s = .next u ∧ (fnGet u fn).txn = none ∧ (fnGet u fn).cfgBusy = true ∧ u.commits = s.commits ++
    [{ fn := fn, txn := T, save := save && decide (fn = 0) }]) ∧
  (∀ fn T s, (fnGet s fn).txn = some T → ∃ u, exec (.transactionTimeout fn) s = .next u ∧ (fnGet u fn).txn = none ∧ (fnGet u
    fn).cfgResult = 8 ∧ regN u Reg.MGT_CFG_TIMEOUTS 0 = wrap32 (regN s Reg.MGT_CFG_TIMEOUTS 0 + 1) ∧ u.commits = s.commits)

/-- BEGIN opens one transaction per function; writes of TX registers are staged. BEGIN opens a transaction with a token that is never 0 and differs from the 2^32 - 2 tokens after it, or reads BUSY when one is open; a TX write is staged with its selection, replacing an earlier write of the same register and selection; a grant record is staged from both grant registers. -/
def Obligations.TransactionsOpenAndStage : Prop :=
  (∀ fn s, cfgUp (dropHeld s fn) fn = true → (fnGet s fn).cfgBusy = false → (fnGet s fn).txn = none → ∃ u, exec (.txnBegin fn) s = .next
    u ∧ (fnGet u fn).txn = some { token := tokenOf fn (fnGet s fn).nextToken, touched := s.time } ∧ (fnGet u fn).nextToken = (fnGet s
    fn).nextToken + 1) ∧
  (∀ fn T s, cfgUp (dropHeld s fn) fn = true → (fnGet s fn).cfgBusy = false → (fnGet s fn).txn = some T → ∃ u, exec (.txnBegin fn) s =
    .next u ∧ (fnGet u fn).txn = some T ∧ (fnGet u fn).cfgResult = 9) ∧
  (∀ fn n, tokenOf fn n ≠ 0 ∧ tokenOf fn n < 2 ^ 32) ∧
  (∀ fn n k, 0 < k → k < 2 ^ 32 - 1 → tokenOf fn n ≠ tokenOf fn (n + k)) ∧
  (∀ fn off value row i T s, cfgUp (dropHeld s fn) fn = true → txRow off = some row → (fn = 0 ∨ row.vf = true) → blockAlive (dropHeld s
    fn) (off / 2 ^ 20) = true → selIdx (dropHeld s fn) fn row.sel = some i → (fnGet s fn).cfgBusy = false → (fnGet s fn).txn = some T →
    exec (.txWriteStage fn off value) s = .next (stage (dropHeld s fn) fn { off := off, value := value &&& w64 row.mask, sel := i })) ∧
  (∀ value s, cfgUp (dropHeld s 0) 0 = true → exec (.grantStage 0 value) s = .next (stage (dropHeld s 0) 0
    { off := 0xFFFFFF, value := value &&& 0x1FFFFF, grantLo := reg s Reg.MGT_GRANT_LO 0 })) ∧
  (∀ T r total now, (T.staged.filter (fun x => !decide (x.off = r.off ∧ x.sel = r.sel))).length < 4096 → isGrant r = false → total -
    (T.staged.length - (T.staged.filter (fun x => !decide (x.off = r.off ∧ x.sel = r.sel))).length) < 65536 → stageInto T r total now =
    { T with staged := T.staged.filter (fun x => !decide (x.off = r.off ∧ x.sel = r.sel)) ++ [r], touched := now })

/-- A commit is validated, applied block by block and published. The first commit in the order is validated against the state in effect: a failure is named, closes the commit and applies nothing; a valid one changes no register until its blocks take it; once every touched block has, the result OK is published and BUSY clears; a profile clear marks the user profile for the next boot. -/
def Obligations.CommitsValidateApplyPublish : Prop :=
  (∀ c rest f s, s.commits = c :: rest → c.validated = false → txCheck s c.fn false c.txn.overflow c.txn.staged = some f → ∃ u, exec
    .commitValidate s = .next u ∧ u.commits = rest ∧ (fnGet u c.fn).cfgBusy = false ∧ (fnGet u c.fn).cfgResult = f.1 ∧ (fnGet u
    c.fn).cfgRes = f.2.1 ∧ (fnGet u c.fn).cfgOff = f.2.2 ∧ u.owners = s.owners ∧ (∀ off idx, off ≠ Reg.MGT_CFG_FAILS → reg u off idx =
    reg s off idx)) ∧
  (∀ c rest s, s.commits = c :: rest → c.validated = false → txCheck s c.fn false c.txn.overflow c.txn.staged = none → ∃ u c2, exec
    .commitValidate s = .next u ∧ u.commits = c2 :: rest ∧ c2.validated = true ∧ c2.txn = c.txn ∧ u.regs = s.regs ∧ u.owners = s.owners) ∧
  (∀ b c rest s, s.commits = c :: rest → c.validated = true → c.applied.contains b = false → (touchedBlocks c).contains b = true → exec
    (.blockApply b) s = .next (blockApply s b)) ∧
  (∀ b c rest s t, s.commits = c :: rest → c.validated = true → c.applied.contains b = false → (touchedBlocks c).contains b = true →
    (touchedBlocks c).all (fun x => (b :: c.applied).contains x) = false → t = (c.txn.staged.filter (fun r => blockOf r = b)).foldl
    (applyRec c.fn) s → exec (.blockApply b) s = .next { t with commits := { c with applied := b :: c.applied } :: rest }) ∧
  (∀ c rest s, s.commits = c :: rest → c.validated = true → (touchedBlocks c).all (fun b => c.applied.contains b) = true → c.save =
    false → c.changed = [] → ∃ u, exec .commitResultPublish s = .next u ∧ u.commits = rest ∧ (fnGet u c.fn).cfgBusy = false ∧ (fnGet u
    c.fn).cfgResult = 0 ∧ regN u Reg.MGT_CFG_COMMITS 0 = wrap32 (regN s Reg.MGT_CFG_COMMITS 0 + 1)) ∧
  (∀ s, hostUp (dropHeld s 0) = true → ∃ u, exec .profileClear s = .next u ∧ u.flash = { s.flash with userErase := true })

/-- Activation, teardown, drain and the scrubs of a tenant. TENANT ACTIVATE makes an EMPTY slot ACTIVE with its key set in every quadrant; TEARDOWN completes at once on an EMPTY slot and quiesces an ACTIVE one; QUERY writes its word; a drain that is over or at its bound goes on to destroy keys and scrub; cleared frames, queues and tiles return. -/
def Obligations.TenantLifecycle : Prop :=
  (∀ t s, (tenant s t).st = 2 → drainOver s t = true → exec (.drainComplete t) s = .next (afterDrain s t)) ∧
  (∀ t s, (tenant s t).st = 2 → exec (.drainBound t) s = .next (drainBound s t)) ∧
  (∀ t s u, (tenant s t).st = 2 → drainOver s t = true → u = scrubStart (destroyKeys s t) t → (tenant u t).clearQueues ≠ [] → exec
    (.drainComplete t) s = .next u ∧ (tenant u t).st = 4 ∧ u.owners.all (fun o => decide (o.2 ≠ t)) = true) ∧
  (∀ t s u, (tenant s t).st = 2 → u = tenantMod (drainAbort s t) t (fun T => { T with st := 3 }) → ctxQuiet u t = false → exec
    (.drainBound t) s = .next u ∧ (tenant u t).st = 3) ∧
  (∀ q idx e s, tenantVerb s q idx 0 = some e → (tenant s (entrySlot e)).st = 0 → fnExists s (entrySlot e) = true → s.rsp.entropyOk =
    true → s.rsp.scrubFor = 0 → ∃ u, exec (.tenantActivate q idx) s = .next u ∧ (tenant u (entrySlot e)).st = 1 ∧ keyQuads u (entrySlot
    e) = 15 ∧ u.owners = (activate s (entrySlot e)).owners) ∧
  (∀ q idx e s, tenantVerb s q idx 1 = some e → (tenant s (entrySlot e)).st = 0 → exec (.tenantTeardown q idx) s = .next (entryDone s q
    idx Status.ok 0 0)) ∧
  (∀ q idx e s, tenantVerb s q idx 1 = some e → (tenant s (entrySlot e)).st = 1 → exec (.tenantTeardown q idx) s = .next (tenantMod
    (entryMod (quiesce s (entrySlot e)) q idx (fun e => { e with running := true })) (entrySlot e) (fun T =>
    { T with waiting := T.waiting ++ [(q, idx)] }))) ∧
  (∀ q idx e s, tenantVerb s q idx 2 = some e → exec (.tenantQuery q idx) s = .next (entryDone (entryMod s q idx (fun x =>
    { x with writes := [(48, leBytes 8 (queryWord (tenant s (entrySlot e))))] })) q idx Status.ok 0 0)) ∧
  (∀ f s, inTile s.variant (f * 2 ^ 21) = false → (frame s f).scrub = true → exec (.termiteFrameCleared f) s = .next (lifeCheck
    { (frameMod (zeroRange s (f * 2 ^ 21) (2 ^ 21)) f (fun F => { quarantine := F.quarantine })) with mem := { (frameMod (zeroRange s (f * 2 ^ 21) (2 ^ 21)) f (fun F => { quarantine := F.quarantine })).mem with quarantined := s.mem.quarantined + b2n (frame s f).quarantine } }
    (frame s f).owner)) ∧
  (∀ q s, (sqmQ s q).clearing = true → exec (.sqmQueueClear q) s = .next (lifeChecks
    { (sqmClear s q (sqmTenant s q)) with tenants := (sqmClear s q (sqmTenant s q)).tenants.map (fun T => (T.1, { T.2 with clearQueues := T.2.clearQueues.filter (· ≠ q) })) })) ∧
  (∀ t s, (tile s t).st = 1 → s.tenants = [] → ∃ u, exec (.tileClearDone t) s = .next u ∧ tile u t =
    { st := 2, onSpare := (tile s t).onSpare, site := (tile s t).site })

/-- Roots, VALID, FABRIC_EN and table words of a context. A root is written while VALID is clear; VALID is set, or refused whole for a sealed tenant with a host root; clearing VALID advances the epoch and drops every cached translation of the context; the PF sets FABRIC_EN; a table word from host memory is kept and lets the accesses that wait for it go on. -/
def Obligations.TranslationContexts : Prop :=
  (∀ fn value c s, blockUp s fn = true → selCtx s fn = some c → (ctx s c).valid = false → fld value 1 0 < 2 → ∃ u, exec
    (.contextRootWrite fn value) s = .next u ∧ (ctx u c).root = w64 (fld value 63 12 * 4096 + fld value 1 0) ∧ (ctx u c).refused =
    false) ∧
  (∀ fn value c s, blockUp s fn = true → selCtx s fn = some c → wbit value 0 = true → (sealed s fn = false ∨ (ctx s c).valid = true ∨
    fld (ctx s c).root 1 0 = 0) → ∃ u, exec (.contextValidSet fn value) s = .next u ∧ (ctx u c).valid = true ∧ (ctx u c).refused = false
    ∧ (ctx u c).root = (ctx s c).root) ∧
  (∀ fn value c s, blockUp s fn = true → selCtx s fn = some c → wbit value 0 = true → sealed s fn = true → (ctx s c).valid = false → fld
    (ctx s c).root 1 0 = 1 → ∃ u, exec (.contextValidSet fn value) s = .next u ∧ (ctx u c).refused = true ∧ (ctx u c).valid = false ∧
    (ctx u c).fabricEn = (ctx s c).fabricEn) ∧
  (∀ fn value c s, blockUp s fn = true → selCtx s fn = some c → wbit value 0 = false → (ctx s c).valid = true → ∃ u, exec
    (.contextValidClear fn value) s = .next u ∧ (ctx u c).valid = false ∧ (ctx u c).epoch = (ctx s c).epoch + 1 ∧ ∀ x ∈ u.atu.cache,
    x.ctx ≠ c) ∧
  (∀ value c s, blockUp s 0 = true → selCtx s 0 = some c → wbit value 0 = (ctx s c).valid → sealed s 0 = false → ∃ u, exec
    (.fabricEnWrite 0 value) s = .next u ∧ (ctx u c).fabricEn = wbit value 1 ∧ (ctx u c).valid = (ctx s c).valid) ∧
  (∀ c addr word s, s.atu.stalled.any (fun x => decide (x.ctx = c ∧ x.addr = addr)) = true → ∃ u, exec (.tableWalkComplete c addr word)
    s = .next u ∧ u.atu.walk = ⟨c, addr, word⟩ :: s.atu.walk.filter (fun w => !decide (w.ctx = c ∧ w.addr = addr)) ∧ u.atu.stalled =
    s.atu.stalled.filter (fun x => !decide (x.ctx = c ∧ x.addr = addr)) ∧ u.atu.ready = s.atu.ready ++ (s.atu.stalled.filter (fun x =>
    decide (x.ctx = c ∧ x.addr = addr))).map (·.cmd))

/-- CRYPT streams, key slots, pipes and sealed records. A CRYPT entry becomes a stream; a slice takes the state its step gives or fails its entry; key slots are loaded, destroyed, zeroed and, on a parity error with reserve left, remapped to be loaded again; a failed pipe is counted and reported; a sealed record read from the bus is checked and opened. -/
def Obligations.CipherEngine : Prop :=
  (∀ q idx e s, readyVerb s q idx 0x11 = some e → slotUsable s (cryptSlot e) (queueOwner s q) = true → ctxMode s (queueOwner s q) = 0 →
    (s.cph.streams.filter (fun x => x.tenant = queueOwner s q)).length < 8 → exec (.vCrypt q idx) s = .next (streamPut (entryMod s q idx
    (fun e => { e with running := true }))
    { queue := q, idx := idx, tenant := queueOwner s q, slot := cryptSlot e, page := true, wrap := false })) ∧
  (∀ q idx e x bus u s, streamOf s q idx = some x → entry s q idx = some e → cryptSlice s x e bus = .ok u → exec (.cryptSlice q idx bus)
    s = .next u) ∧
  (∀ q idx e x bus s s3 bus3 d r s4 n y s5, streamOf s q idx = some x → entry s q idx = some e → (keySlot s x.slot).reloading = false →
    x.saved = none → x.begun = true → n = sliceLen e x.done → cryptRead s x.tenant (dctx e) (ef e 16 8) x.done n bus = .ok (s3, bus3, d)
    → cryptOverlap e = false → r = cryptStep (keySlot s x.slot).key (cryptMode e) (cryptDec e) (cryptAad e - x.done) x.chain x.ghash d →
    cryptWrite s3 x.queue x.idx x.tenant (dctx e) (ef e 24 8) x.done (elen e) r.1 = .ok s4 → y =
    { x with done := x.done + n, chain := r.2.1, ghash := r.2.2 } → s5 = streamPut (cphBlocks s4 x.tenant ((n + 15) / 16)) y → (x.done +
    n < elen e → exec (.cryptSlice q idx bus) s = .next s5) ∧ (∀ s6, elen e ≤ x.done + n → cryptLast s5 y e (keySlot s x.slot).key bus3
    = .ok s6 → exec (.cryptSlice q idx bus) s = .next (cryptFinish (streamDrop s6 x.queue x.idx) x.queue x.idx))) ∧
  (∀ q idx e x bus st s, streamOf s q idx = some x → entry s q idx = some e → cryptSlice s x e bus = .error (.fail st) → exec
    (.cryptSlice q idx bus) s = .next (cryptFail s q idx st)) ∧
  (∀ k t key s, k < 1024 → t < 256 → key.length = 16 ∨ key.length = 32 → (keySlot s k).st = 0 → ∃ u, exec (.keySlotLoad k t key) s =
    .next u ∧ keySlot u k = { st := 1, owner := t, key := key, aes128 := decide (key.length = 16) } ∧ regN u Reg.RSP_KEY_LOADS 0 =
    wrap32 (regN s Reg.RSP_KEY_LOADS 0 + 1)) ∧
  (∀ k s, (keySlot s k).st = 1 → exec (.keySlotDestroy k) s = .next (slotLeaves s k)) ∧
  (∀ k s, (keySlot s k).st = 2 → ∃ u, exec (.keySlotZeroed k) s = .next u ∧ keySlot u k = {}) ∧
  (∀ k quad s, (keySlot s k).st = 1 → quad < 4 → 0 < slotReserve s quad → ∃ u, exec (.keySlotParity k quad) s = .next u ∧ (keySlot u
    k).st = 1 ∧ (keySlot u k).reloading = true ∧ (keySlot u k).remapped = true ∧ (keySlot u k).key = (keySlot s k).key) ∧
  (∀ p s, s.cph.failed < 32 → exec (.cipherPipeFailure p) s = .next (report { s with cph := { s.cph with failed := s.cph.failed + 1 } }
    { cls := 0x13, sev := 2, unit := 12, code := 3, inst := p })) ∧
  (∀ t c base r bus total ps b s s1 s2, (rangeLens s t c base).find? (fun n => decide (4096 * r < n)) = some total → sealed s t = true →
    leadsToBus s c base = true → dmaXlate s t c (base + 4160 * r) (64 + recordLenOf total r) { rd := true } = (s1, .ok ps) → readPieces
    s1 t ps bus = (s2, .ok b) → exec (.sealedRecordOpen t c base r bus) s = .next (openRecord s2 t c base r (recordLenOf total r) (base
    + 4160 * r) b)) ∧
  (∀ t c base r g rest T K hdr w s s1 l, takeFirst (fun g : SealStage => decide (g.tenant = t ∧ g.ctx = c ∧ g.base = base ∧ g.rec_ = r)
    && recordFull g) s.cph.staging = some (g, rest) → T = tenant s t → (sealPair T T.keysel).valid = true → K = keySlot s (sealPair T
    T.keysel).dev → K.st = 1 → K.owner = t → g.ep = false → hdr = recordHeader 1 T.keysel g.len T.sealSeq c t (base + 4160 * r) → w =
    gcmSeal K.key ((sealPair T T.keysel).devSalt ++ leBytes 8 T.sealSeq) hdr ((List.range g.len).map (fun i => (tget (fun _ => none)
    g.bytes i).getD 0)) → dmaWrite { s with cph := { s.cph with staging := rest } } t c (base + 4160 * r) (hdr ++ w.2 ++ w.1) [] = (s1,
    .ok l) → exec (.sealedRecordWrite t c base r) s = .next (recordDone (cphBlocks (tenantMod s1 t (fun T =>
    { T with sealSeq := T.sealSeq + 1 })) t ((g.len + 15) / 16)) g l))

/-- Configuring, connecting, closing and resetting a QP; the connection timers. TPE_QCFG, TPE_QKEY and TPE_QTWIN are written in RESET only; CONNECT starts the REQ exchange; CLOSE of a READY QP closes once its work is done; RESET of a QP in ERROR or HANDED_OVER clears its context and keeps its configuration; the retry, connect, closing and channel-idle timers do what Table 7-2 says. -/
def Obligations.QueuePairControl : Prop :=
  (∀ fn value q s, blockUp (dropHeld s fn) fn = true → selQp (dropHeld s fn) fn = some q → (conn s q).st = 0 → ∃ u v x, exec
    (.qpConfigWrite fn Reg.TPE_QCFG value) s = .next u ∧ exec (.qpConfigWrite fn Reg.TPE_QKEY value) s = .next v ∧ exec (.qpConfigWrite
    fn Reg.TPE_QTWIN value) s = .next x ∧ (conn u q).cfg = w64 (fld value 51 0) ∧ (conn v q).key = fld value 9 0 ∧ (conn x q).twin = w64
    (fld value 33 0)) ∧
  (∀ fn off value q s, blockUp (dropHeld s fn) fn = true → selQp (dropHeld s fn) fn = some q → (conn s q).st ≠ 0 → ∃ u, exec
    (.qpConfigWrite fn off value) s = .next u ∧ (conn u q).cfg = (conn s q).cfg ∧ (conn u q).key = (conn s q).key ∧ (conn u q).twin =
    (conn s q).twin) ∧
  (∀ fn value q s, blockUp (dropHeld s fn) fn = true → selQp (dropHeld s fn) fn = some q → wbit value 0 = true → wbit value 1 = false →
    wbit value 2 = false → exec (.qpConnect fn value) s = .next (qpConnect (connMod (dropHeld s fn) q (fun C =>
    { C with ctl := fld value 11 3 * 8 })) q)) ∧
  (∀ q s, (conn s q).st = 0 → isFailover s q = false ∨ failoverQps s < 16383 → handleOk s q = true → (nbit (conn s q).ctl 3 && wbit
    (conn s q).cfg 51) = false → qpConnect s q = sendReq (connMod s q (fun C => { C with st := 1 })) q) ∧
  (∀ fn value q s, blockUp (dropHeld s fn) fn = true → selQp (dropHeld s fn) fn = some q → wbit value 0 = false → wbit value 1 = true →
    wbit value 2 = false → (conn s q).st = 2 → ∃ u, exec (.qpClose fn value) s = .next u ∧ u = closeCheck (connMod (connMod (dropHeld s
    fn) q (fun C => { C with ctl := fld value 11 3 * 8 })) q (fun C => { C with closing := true })) q) ∧
  (∀ fn value q s, blockUp (dropHeld s fn) fn = true → selQp (dropHeld s fn) fn = some q → wbit value 0 = false → wbit value 1 = false →
    wbit value 2 = true → (conn s q).st = 4 ∨ (conn s q).st = 6 → ∃ u, exec (.qpReset fn value) s = .next u ∧ conn u q =
    { cfg := (conn s q).cfg, key := (conn s q).key, ctl := fld value 11 3 * 8, twin := (conn s q).twin }) ∧
  (∀ c s, (conn s c).st = 1 → exec (.connectRetryTimer c) s = .next (sendReq s c)) ∧
  (∀ c s, (conn s c).st = 1 → exec (.connectTimeout c) s = .next (qpEvent (connError s c Status.peerUnreachable) c
    Status.peerUnreachable)) ∧
  (∀ c s, (conn s c).st = 3 → exec (.closingTimeout c) s = .next (connClear s c)) ∧
  (∀ c s, isChan c = true → (conn s c).st = 2 → (conn s c).send = [] → (conn s c).recv = [] → exec (.channelIdleTimeout c) s = .next
    (sendConnect (connMod s c (fun C => { C with st := 3 })) c 3 0 false))

/-- CONNECT cells, contexts and cores, and the failover twin. A REQ is answered, an ACC of the peer completes the connection, a REJ ends a CONNECTING one with its status, CLOSE and CLOSE_ACK end their states; a fetched context enters the cache of its core; a failed core takes a spare; HANDOFF records and missing heartbeats start takeovers, a TAKEN record hands the QP over, and the mirror timer writes the heartbeat. -/
def Obligations.ConnectionExchanges : Prop :=
  (∀ k s, running s = true → exec (.connectReqReceive k) s = .next (connectReq s k)) ∧
  (∀ k c s t u, running s = true → k.chan = false → c = (readConnect k.cell.payload).dst → reqRefused s k (readConnect k.cell.payload) c
    = none → (conn s c).st = 1 → ((conn s c).drawn = true → (conn s c).initCsn ≠ (readConnect k.cell.payload).init) → t = drawCsn s c →
    (conn t c).drawn = true → u = sendConnect (acceptPeer t c (readConnect k.cell.payload) (agreeVersion (Nat.land (readConnect
    k.cell.payload).versions tpeVersions))) c 1 0 false → exec (.connectReqReceive k) s = .next u ∧ (conn u c).st = 2 ∧ (conn u
    c).gotPeer = true) ∧
  (∀ k c s, running s = true → answerConn s k = some c → (conn s c).st = 1 ∨ (conn s c).st = 2 → reqRefused s k (readConnect
    k.cell.payload) c = none → exec (.connectAccReceive k) s = .next (acceptPeer s c (readConnect k.cell.payload) (readConnect
    k.cell.payload).agreed)) ∧
  (∀ k c s, running s = true → answerConn s k = some c → (conn s c).st = 1 → exec (.connectRejReceive k) s = .next (qpEvent (connError s
    c (readConnect k.cell.payload).status) c (readConnect k.cell.payload).status)) ∧
  (∀ k c s, running s = true → answerConn s k = some c → (conn s c).st = 2 → isChan c = false → exec (.connectCloseReceive k) s = .next
    (connError (sendConnect s c 4 0 false) c Status.contextGone)) ∧
  (∀ k c s, running s = true → answerConn s k = some c → (conn s c).st = 3 → exec (.closeAckReceive k) s = .next (connClear s c)) ∧
  (∀ c s, s.tpe.cached.contains c = false → (coreCached s (coreOf c)).length < coreContexts → exec (.contextFetchComplete c) s = .next
    { s with tpe := { s.tpe with cached := c :: s.tpe.cached, fetching := s.tpe.fetching.filter (· ≠ c) } }) ∧
  (∀ c x s, s.tpe.cached.contains c = false → coreContexts ≤ (coreCached s (coreOf c)).length → replaced s c = some x → exec
    (.contextFetchComplete c) s = .next
    { s with tpe := { s.tpe with cached := c :: s.tpe.cached.filter (· ≠ x), fetching := s.tpe.fetching.filter (· ≠ c) } }) ∧
  (∀ core x s, s.tpe.slices.filter (fun y => decide (coreOf y.1 = core)) = [x] → exec (.coreSliceEnd core) s = .next
    { s with tpe := { s.tpe with slices := s.tpe.slices.filter (fun y => decide (coreOf y.1 ≠ core)) ++ [] } }) ∧
  (∀ core x y r s, s.tpe.slices.filter (fun z => decide (coreOf z.1 = core)) = x :: y :: r → exec (.coreSliceEnd core) s = .next
    (demandCheck (serveSlice
    { s with tpe := { s.tpe with slices := s.tpe.slices.filter (fun z => decide (coreOf z.1 ≠ core)) ++ y :: r } } y.1 y.2 64 64) y.1)) ∧
  (∀ core s u, core < 32 → 0 < s.tpe.spares → u = ((s.tpe.conns.filter (fun e => decide (coreOf e.1 = core))).map (·.1)).foldl buildLost
    s → exec (.transportCoreFailure core) s = .next (spareReport { u with tpe := { u.tpe with spares := s.tpe.spares - 1 } } 1 3 core
    (s.tpe.spares - 1) (some (34 - s.tpe.spares)))) ∧
  (∀ c head m s s1, (conn s c).st = 5 → acceptMirror s (mirrorSlot s c) = (s1, some m) → nbit m.word 21 = true → m.twin = c → exec
    (.handoffRecordSeen c head) s = .next (takeover s1 c head m)) ∧
  (∀ heads s, s.tpe.conns.filter (fun e => decide (e.2.st = 5)) = [] → exec (.heartbeatTimeout heads) s = .next
    { s with tpe := { s.tpe with partnerLive := false } }) ∧
  (∀ heads c C s, s.tpe.conns.filter (fun e => decide (e.2.st = 5)) = [(c, C)] → exec (.heartbeatTimeout heads) s = .next (takeover
    (currentMirror { s with tpe := { s.tpe with partnerLive := false } } (mirrorSlot
    { s with tpe := { s.tpe with partnerLive := false } } c)).1 c (((heads.find? (fun h => h.1 = c)).map (·.2)).getD 0) (currentMirror
    { s with tpe := { s.tpe with partnerLive := false } } (mirrorSlot { s with tpe := { s.tpe with partnerLive := false } } c)).2)) ∧
  (∀ c m s s1, (conn s c).st = 2 → isFailover s c = true → acceptMirror s (mirrorSlot s c) = (s1, some m) → nbit m.word 22 = true →
    m.twin = c → exec (.takenRecordSeen c) s = .next (standDown s1 c Status.contextGone) ∧ (conn (standDown s1 c Status.contextGone)
    c).st = 6 ∧ (conn (standDown s1 c Status.contextGone) c).errStatus = Status.contextGone) ∧
  (∀ s, wbit (reg s Reg.TPE_TWIN_CTX 0) 16 = true → running s = true → s.tpe.conns = [] → exec .mirrorWriteTimer s = .next (seeHeartbeat
    (putMirror s 16383 { word := 2 ^ 20 })))

/-- Picks, source reads, retransmission, credit timeouts and acknowledgements. A pick serves its egress point; a returned source read becomes a cell or abandons its message; an RTO expiry counts, sends again under the next rotation, or spends the budget; the RNR wait ends; without credit a message before its head completes with CREDIT_TIMEOUT and one after it spends the budget; acknowledgements are taken and sent; response-cache entries expire. -/
def Obligations.SendingAndAcknowledging : Prop :=
  (∀ e s, e < 5 → running s = true → exec (.schedulerPick e) s = .next (schedulerPick s e)) ∧
  (∀ e k c m s t t2, e < 5 → running s = true → (egress s e).waiting0 = [] → t = noteReady s e → pickClass t e = some k → t2 = (if 4 ≤ k
    then egressMod t e (fun E => { E with vtime := (cls t e k).start }) else t) → candidates t2 e k = [c] → rawReady t2 e k = false → c
    < 2 ^ 400 → s.tpe.cached.contains c = true → s.tpe.slices = [] → (conn s c).send = [m] → m.resp = false → m.retx = [] → dataUnits m
    = 0 → connReady (conn s c) k = true → encOn s c = false → csnRoom (conn s c) = true → nextWork (conn s c) k = some (m, .head) →
    noRoute s c = false → impliedOk s c m = true → ∃ u y, exec (.schedulerPick e) s = .next u ∧ sendMsg u c m.msn false = some y ∧
    y.headSent = true ∧ (conn u c).csn = ((conn s c).csn + 1) % 2 ^ 32 ∧ (conn u c).flight = (conn s c).flight ++ [⟨(conn s c).csn,
    m.msn, false, true, 0, s.time, 1⟩]) ∧
  (∀ c msn resp off bus m x s, sendMsg s c msn resp = some m → m.reads.find? (fun x => x.key = off) = some x → recordsThere s x.pieces =
    true → m.held.any (fun d => d.1 = off) = false → exec (.sourceReadComplete (.cell c msn resp off) bus) s = .next (sourceBytes
    (finishRead s (sourceSegs m).1 x bus).1 c { m with reads := m.reads.filter (fun y => y.key ≠ off) } x (finishRead s (sourceSegs m).1
    x bus).2)) ∧
  (∀ c msn off bus m x s s1 b, (conn s c).send = [m] → m.msn = msn → m.resp = false → m.reads = [x] → m.held = [] → x.key = off →
    recordsThere s x.pieces = true → encOn s c = false → finishRead s (sourceSegs m).1 x bus = (s1, .ok b) → ∃ u y, exec
    (.sourceReadComplete (.cell c msn false off) bus) s = .next u ∧ (conn u c).csn = ((conn s c).csn + 1) % 2 ^ 32 ∧ (conn u c).send =
    [y] ∧ y.msn = msn ∧ y.reads = [] ∧ y.held = [] ∧ (conn u c).flight = (conn s c).flight ++ [⟨(conn s c).csn, msn, false, false, off,
    s1.time, unitsOf x.len⟩]) ∧
  (∀ q idx bus s, exec (.sourceReadComplete (.frame q idx) bus) s = .next (rawRead s q idx bus)) ∧
  (∀ c csn r s, (conn s c).flight.find? (fun r => r.csn = csn) = some r → r.at_ + rto s c ≤ s.time → (conn s c).expCsn = none → (conn s
    c).retries + 1 < retryCnt s c → exec (.rtoExpiry c csn) s = .next (demandCheck (resend (connMod (bumpFn s Reg.TPE_RTO_EXP
    (connTenant s c)) c (fun C =>
    { C with retries := C.retries + 1, rtoShift := C.rtoShift + 1, rotation := (C.rotation + 1) % 8, expCsn := some C.csn })) c r) c)) ∧
  (∀ c csn r s, (conn s c).flight.find? (fun r => r.csn = csn) = some r → r.at_ + rto s c ≤ s.time → (conn s c).expCsn = none → retryCnt
    s c ≤ (conn s c).retries + 1 → exec (.rtoExpiry c csn) s = .next (budgetSpent (bumpFn s Reg.TPE_RTO_EXP (connTenant s c)) c)) ∧
  (∀ c s, exec (.rnrWaitTimer c) s = .next (demandCheck (connMod s c (fun C =>
    { C with send := C.send.map (fun m => { m with rnrWait := false }) })) c)) ∧
  (∀ c msn m s, sendMsg s c msn false = some m → balance (conn s c) = 0 → m.rnrWait = false → m.opc ≠ 0x0F → m.headSent = false →
    ofEntry m = true → exec (.creditTimeout c msn) s = .next (abandonSend (bumpFn s Reg.CCS_CRED_TIMEOUT m.tenant) c m
    Status.creditTimeout)) ∧
  (∀ c msn m s, sendMsg s c msn false = some m → balance (conn s c) = 0 → (workOf (conn s c) m).isSome = true → m.rnrWait = false →
    m.opc ≠ 0x0F → m.headSent = true → exec (.creditTimeout c msn) s = .next (budgetSpent s c)) ∧
  (∀ k s, running s = true → k.chan = false → (conn s (packetConn k)).st = 2 → connNode s (packetConn k) = k.cell.snode → connPath s
    (packetConn k) = k.port → exec (.ackReceive k) s = .next (ackReceive s (packetConn k) (readAck k.cell.payload))) ∧
  (∀ c s, 0 < (conn s c).sinceAck → (conn s c).st = 2 → exec (.ackDelayTimer c) s = .next (sendAck s c)) ∧
  (∀ node c msn s, exec (.responseCacheExpiry node c msn) s = .next
    { s with tpe := { s.tpe with rcache := s.tpe.rcache.filter (fun e => !decide (e.node = node ∧ e.conn = c ∧ e.msn = msn)) } })

/-- Heads, data, response and reply cells, placements and flushes. A cell that passes the checks of its connection has its heads taken, its data placed or its response taken; a reserved code counts as a mismatch; an early cell and a head that waits too long are dropped and counted; placements, ordered heads, flush reads and mirror flushes complete what waited for them. -/
def Obligations.ReceivingCells : Prop :=
  (∀ k s s1, running s = true → k.cell.opc = 0x10 → gate (arrive s k) k = (s1, true) → exec (.headsReceive k) s = .next (takeHeadsCell
    s1 k)) ∧
  (∀ k s s1, running s = true → k.cell.opc = 0x10 → hasHeadOf s k (fun o => decide (o = 0x0F)) = true → gate (arrive s k) k = (s1, true)
    → exec (.abortHeadReceive k) s = .next (takeHeadsCell s1 k)) ∧
  (∀ k s s1, running s = true → k.cell.opc = 0x10 → hasHeadOf s k (fun o => decide (o = 0x0A ∨ o = 0x0D)) = true → gate (arrive s k) k =
    (s1, true) → exec (.fabricAccessReceive k) s = .next (takeHeadsCell s1 k)) ∧
  (∀ k r s, s.atu.regionWait = k :: r → exec .regionCacheTimeout s = .next (bumpFn { s with atu := { s.atu with regionWait := r } }
    Reg.ATU_RGN_STALL (connTenant s (packetConn k)))) ∧
  (∀ k r s t, s.atu.regionWait = k :: r → t = connTenant s (packetConn k) → ∃ u, exec .regionCacheTimeout s = .next u ∧ u.atu.regionWait
    = r ∧ u.tpe = s.tpe ∧ regN u Reg.ATU_RGN_STALL t = wrap32 (regN s Reg.ATU_RGN_STALL t + 1)) ∧
  (∀ k s s1, running s = true → knownCode k.cell.opc = true → dataCode k.cell.opc = true → gate (arrive s k) k = (s1, true) → exec
    (.dataCellReceive k) s = .next (takeData s1 (packetConn k) k)) ∧
  (∀ k s, running s = true → knownCode k.cell.opc = false → exec (.dataCellReceive k) s = .next (mismatch (arrive s k) (packetConn k))) ∧
  (∀ c csn s, s.tpe.early.any (fun e => decide (e.1 = c ∧ e.2.csn = csn)) = true → exec (.earlyCellTimeout c csn) s = .next (bumpFn
    { s with tpe := { s.tpe with early := s.tpe.early.filter (fun e => !decide (e.1 = c ∧ e.2.csn = csn)) } } Reg.TPE_EARLY_DROP
    (connTenant s c))) ∧
  (∀ c msn off bus s, exec (.cellPlacement c msn off false bus) s = .next (placeRecv s c msn off bus)) ∧
  (∀ c msn off bus s, exec (.cellPlacement c msn off true bus) s = .next (placeResp s c msn off)) ∧
  (∀ k s s1, running s = true → k.cell.opc = 0x04 ∨ k.cell.opc = 0x05 ∨ k.cell.opc = 0x07 → gate (arrive s k) k = (s1, true) → exec
    (.responseCellReceive k) s = .next (takeResponse s1 k)) ∧
  (∀ k s s1, running s = true → k.cell.opc = 0x09 → gate (arrive s k) k = (s1, true) → exec (.replyReceive k) s = .next (takeResponse s1
    k)) ∧
  (∀ c msn bus s, exec (.orderedHeadExecute c msn bus) s = .next (runHead s c msn bus)) ∧
  (∀ q i ok s, exec (.peerFlushComplete (.peerFlush q i) ok) s = .next (entryFlushed s q i ok)) ∧
  (∀ c m ok s, exec (.peerFlushComplete (.msgFlush c m) ok) s = .next (msgFlushed s c m ok)) ∧
  (∀ c msn m e s, recvMsg s c msn = some m → cacheFind s (peerKey s c) c msn = some e → m.waiting = true → exec (.mirrorFlushComplete c
    msn) s = .next (finishRecv (if e.reduce ∨ e.status ≠ 0 then s else atomicResponse s c msn m.tenant e.value) c msn e.status)) ∧
  (∀ c msn m e s t u, recvMsg s c msn = some m → cacheFind s (peerKey s c) c msn = some e → m.waiting = true → e.reduce = true → t =
    releaseRecv (dropStages (dropEarly (dropPlacements s (connPath s c) m.pend) c msn) c false (fun x => decide (x = msn))) c m → u =
    connMod (recvMod t c msn (fun m => { m with complete := true, pend := [], pendData := [], staging := [] })) c (fun C => advanceDone
    { C with doneSet := C.doneSet ++ [msn], recs := C.recs ++ [(msn, e.status, 0)] } 4097) → exec (.mirrorFlushComplete c msn) s = .next
    (sendAck (deliver u c) c)) ∧
  (∀ k h s t, running s = true → k.cell.opc = 0x10 → (gate (arrive s k) k).2 = true → headsOf (arrive s k) k = some [h] → t = takeLow
    (arrive s k) (packetConn k) h.low → keyed h.opc = true → h.opc ≠ 0x08 → h.imm = false → cachedHead t (packetConn k) h = none →
    msnDone (conn t (packetConn k)) h.msn = false → recvMsg t (packetConn k) h.msn = none → headRefused t (packetConn k) (headMsg k h) =
    none → noRoom t (packetConn k) (headMsg k h) = none → regionRoom t (h.akey % 2 ^ 24) = true → lowestNeed (conn t (packetConn k)) =
    none → t.tpe.early = [] → ∃ u x, exec (.headsReceive k) s = .next u ∧ recvMsg u (packetConn k) h.msn = some x ∧ x.opc = h.opc ∧
    x.admitted = true ∧ x.region = h.akey % 2 ^ 24 ∧ x.raddr = h.raddr ∧ x.len = h.len ∧ (region u (h.akey % 2 ^ 24)).admitted = (region
    s (h.akey % 2 ^ 24)).admitted + 1) ∧
  (∀ k h s t, running s = true → k.cell.opc = 0x10 → (gate (arrive s k) k).2 = true → headsOf (arrive s k) k = some [h] → t = takeLow
    (arrive s k) (packetConn k) h.low → k.chan = true → h.opc = 0x0A ∨ h.opc = 0x0D → inAperture s.variant h.raddr = false → h.imm =
    false → msnDone (conn t (packetConn k)) h.msn = false → recvMsg t (packetConn k) h.msn = none → headRefused t (packetConn k)
    (headMsg k h) = none → noRoom t (packetConn k) (headMsg k h) = none → lowestNeed (conn t (packetConn k)) = none → t.tpe.early = [] →
    ∃ u x, exec (.fabricAccessReceive k) s = .next u ∧ recvMsg u (packetConn k) h.msn = some x ∧ x.opc = h.opc ∧ x.admitted = true ∧
    x.tenant = h.akey % 256 ∧ x.raddr = h.raddr ∧ x.len = h.len) ∧
  (∀ k h s t, running s = true → k.cell.opc = 0x10 → (gate (arrive s k) k).2 = true → headsOf (arrive s k) k = some [h] → t = takeLow
    (arrive s k) (packetConn k) h.low → h.opc = 0x0F → msnDone (conn t (packetConn k)) h.msn = false → recvMsg t (packetConn k) h.msn =
    none → ∃ u, exec (.abortHeadReceive k) s = .next u ∧ msnDone (conn u (packetConn k)) h.msn = true) ∧
  (∀ k c m b off l s t i u1 u2 u3, running s = true → t = arrive s k → c = packetConn k → dataCode k.cell.opc = true → (gate t k).2 =
    true → msnDone (conn t c) k.cell.msn = false → recvMsg t c k.cell.msn = some m → m.complete = false → mayPlace m = true → m.opc =
    0x01 → fits m k.cell = true → clearPayload t c k.cell = some b → cellSpan k.cell = (off, 1, l) → m.covered.contains off = false →
    m.pend.any (fun x => x.key = off) = false → off < 4096 → b.take 512 ≠ [] → placeQueue t (connPath t c) (connTenant t c) = (u1, true)
    → issueSegs u1 m.tenant m.ctx [(m.base + m.raddr, m.len)] (512 * off) (b.take 512).length off { wr := true } = (u2, .ok i) →
    isFailover u2 c = false → openStages u2 m.tenant c m.msn false [(m.base + m.raddr, m.len)] i.pieces = some u3 → ∃ u x, exec
    (.dataCellReceive k) s = .next u ∧ recvMsg u c k.cell.msn = some x ∧ x.pend = m.pend ++ [{ i with turn := t.tpe.placings }] ∧
    x.pendData = m.pendData ++ [(off, b.take 512, marksIn k.cell.poison 0 512)] ∧ u.tpe.placings = t.tpe.placings + 1) ∧
  (∀ c msn off bus m x d s t s4, recvMsg s c msn = some m → m.pend.find? (fun x => x.key = off) = some x → m.pendData.find? (fun d =>
    d.1 = off) = some d → placeTurn s c m x = true → m.opc = 0x01 → m.covered.length + 1 < recvUnits m → t = recvMod (placeDone (endXfer
    s x) (connPath s c)) c msn (fun m =>
    { m with pend := m.pend.filter (fun y => y.key ≠ off), pendData := m.pendData.filter (fun y => y.1 ≠ off) }) → piecesOwned t
    m.tenant x.pieces = true → writePieces t m.tenant x.pieces d.2.1 d.2.2 = (s4, true) → ∃ u y, exec (.cellPlacement c msn off false
    bus) s = .next u ∧ recvMsg u c msn = some y ∧ y.covered = off :: m.covered ∧ y.pend = m.pend.filter (fun y => y.key ≠ off) ∧ u.mem =
    s4.mem ∧ u.out = s4.out) ∧
  (∀ c msn bus m s, recvMsg s c msn = some m → m.executed = false → m.complete = false → isChan c = true ∨ (conn s c).done = msn → m.opc
    = 0x0B → ∃ u x r, exec (.orderedHeadExecute c msn bus) s = .next u ∧ recvMsg u c msn = some x ∧ x.executed = true ∧ (conn u
    c).send.getLast? = some r ∧ r.resp = true ∧ r.msn = msn ∧ r.opc = 0x04 ∧ r.len = m.len ∧ r.src = .mem m.tenant m.ctx [(m.base +
    m.raddr, m.len)]) ∧
  (∀ k c m b off l s t tn x segs i u1 u2 u3, running s = true → k.cell.opc = 0x04 → t = arrive s k → c = packetConn k → (gate t k).2 =
    true → sendMsg t c k.cell.msn false = some m → clearPayload t c k.cell = some b → m.opc ≠ 0x08 → m.respUnits ≠ 0 → cellSpan k.cell =
    (off, 1, l) → l = none ∨ l = some m.respLen → m.respGot.contains off = false → m.rpend.any (fun x => x.key = off) = false → b.take
    512 ≠ [] → placeQueue t (connPath t c) (connTenant t c) = (u1, true) → respDest t m = some (.segs tn x segs) → issueSegs u1 tn x
    segs (512 * off) (b.take 512).length off { wr := true } = (u2, .ok i) → openStages u2 tn c k.cell.msn true segs i.pieces = some u3 →
    ∃ u y, exec (.responseCellReceive k) s = .next u ∧ sendMsg u c k.cell.msn false = some y ∧ y.rpend = m.rpend ++ [i] ∧ y.rdata =
    m.rdata ++ [(off, b.take 512, marksIn k.cell.poison 0 512)]) ∧
  (∀ k c m b l s t tn x segs i u1 u2 u3, running s = true → k.cell.opc = 0x09 → c = packetConn k → (gate (arrive s k) k).2 = true →
    sendMsg (arrive s k) c k.cell.msn false = some m → clearPayload (arrive s k) c k.cell = some b → m.opc = 0x08 → (arrive s
    k).tpe.early = [] → cellSpan k.cell = (0, 1, some l) → l ≤ nfld m.varg 24 0 → m.respGot.contains 0 = false → m.rpend.any (fun x =>
    x.key = 0) = false → b.take 512 ≠ [] → t = sendMod (arrive s k) c k.cell.msn false (fun m =>
    { m with respLen := l, respUnits := unitsOf l }) → placeQueue t (connPath t c) (connTenant t c) = (u1, true) → respDest t
    { m with respLen := l, respUnits := unitsOf l } = some (.segs tn x segs) → issueSegs u1 tn x segs (512 * 0) (b.take 512).length 0
    { wr := true } = (u2, .ok i) → openStages u2 tn c k.cell.msn true segs i.pieces = some u3 → ∃ u y, exec (.replyReceive k) s = .next
    u ∧ sendMsg u c k.cell.msn false = some y ∧ y.respLen = l ∧ y.respUnits = unitsOf l ∧ y.rpend = m.rpend ++ [i])

/-- Refill, capacity factors, grants, demands and their timers. Each refill serves every class and path; a changed capacity factor is applied; a grant above the last serial number adds credit; an expired grant is withdrawn and counted; a demand joins the list of its path; a path grants what its one demand asks for within the cap; a reclaimed grant leaves the list and the outstanding count. -/
def Obligations.CreditsAndShaping : Prop :=
  (∀ s, s.ccs.egress.all (fun E => E.2.waiting0.isEmpty) = true → exec .shaperRefill s = .next ((List.range 5).foldl refillPath
    ((List.range 320).foldl (fun s k => refillClass s (k / 64) (k % 64)) s))) ∧
  (∀ s t, t = (List.range 5).foldl refillPath ((List.range 320).foldl (fun s k => refillClass s (k / 64) (k % 64)) s) → exec
    .shaperRefill s = .next ((List.range 5).foldl (fun s e => drainClass0 s e (egress s e).waiting0.length) t)) ∧
  (∀ e f s, e < 5 → f = (if eadmit s e = 0 then 1000 else min 1000 (1000 * admitPct s e * ecapOf s e / (100 * eadmit s e))) → f ≠
    (egress s e).factor → degradedTenants s e = [] → ∃ u, exec (.capacityFactorApply e) s = .next u ∧ (egress u e).factor = f ∧ u.regs =
    s.regs) ∧
  (∀ c count life gseq l s, live s c = true → life ≠ 0 → (conn s c).lastGseq = some l → serialAbove gseq l = true → exec
    (.creditGrantReceive c count life gseq) s = .next (demandCheck (takeGrant s c gseq count) c)) ∧
  (∀ c count gseq l s, live s c = true → (conn s c).lastGseq = some l → serialAbove gseq l = true → exec (.creditGrantReceive c count 0
    gseq) s = .next (expireGrant (takeGrant s c gseq count) c gseq)) ∧
  (∀ c count life gseq l s, live s c = true → (conn s c).lastGseq = some l → serialAbove gseq l = false → exec (.creditGrantReceive c
    count life gseq) s = .next (bumpFn s Reg.CCS_GRANT_STALE (connTenant s c))) ∧
  (∀ c gseq g s, (conn s c).grants.find? (fun g => g.gseq = gseq) = some g → exec (.grantExpiry c gseq) s = .next (demandCheck (connMod
    (bumpFnBy s Reg.CCS_GRANT_EXPIRED (connTenant s c) g.left) c (fun C =>
    { C with grants := C.grants.filter (fun x => x.gseq ≠ gseq) })) c)) ∧
  (∀ c s, (conn s c).demandOut = true → balance (conn s c) < needUnits (conn s c) → exec (.demandRepeatTimer c) s = .next (sendDemand s
    c)) ∧
  (∀ c backlog s, live s c = true → (egress s (connPath s c)).demand.any (fun d => d.1 = c) = false → backlog ≠ 0 → s.ccs.egress.foldl
    (fun n e => n + e.2.demand.length) 0 < 131072 → exec (.creditDemandReceive c backlog) s = .next (egressMod s (connPath s c) (fun E
    => { E with demand := E.demand ++ [(c, backlog)] }))) ∧
  (∀ p c b s, (egress s p).demand = [(c, b)] → tget (fun _ => 0) (egress s p).gmin c < 10000000 → min (min b b) (min (grantCap s p)
    65535) ≠ 0 → grantOk s p (min (min b b) (min (grantCap s p) 65535)) = true → exec (.grantIssue p) s = .next (sendGrant (egressMod s
    p (fun E => afterGrant E c (min (min b b) (min (grantCap s p) 65535)) (b - min (min b b) (min (grantCap s p) 65535)))) c (min (min b
    b) (min (grantCap s p) 65535)))) ∧
  (∀ c gseq g s, (conn s c).granted.find? (fun g => g.gseq = gseq) = some g → ∃ u, exec (.grantReclaimTimer c gseq) s = .next u ∧ (conn
    u c).granted = (conn s c).granted.filter (fun x => x.gseq ≠ gseq) ∧ (egress u (connPath s c)).outstanding = (egress s (connPath s
    c)).outstanding - g.left)

/-- A cell passes the router, leaves a link, is injected and ejected; notices. A cell for this node is ejected and another is routed on; a bad header is dropped and counted; a slot sends the oldest staged cell with VER rewritten and HOPS one higher; held copies time out; injected cells are ejected or take an output; notices are sent and taken; ejected cells reach the transport or management. -/
def Obligations.RouterCells : Prop :=
  (∀ l c s, running s = true → isUp s l = true → headerBad s l c = false → c.typ = 1 → c.mc = false → c.dnode = ownNode s → (tailCheck
    (bump s Reg.FRT_LCNT_RX l) l c).2.stomp = false → exec (.routerPass l c) s = .next (ejectCell (tailCheck (bump s Reg.FRT_LCNT_RX l)
    l c).1 l c)) ∧
  (∀ l c s, running s = true → isUp s l = true → headerBad s l c = false → c.typ = 1 → c.mc = false → c.dnode ≠ ownNode s → c.hops ≠ 0 →
    unreachable s c.dnode = false → exec (.routerPass l c) s = .next (routeCell (tailCheck (bump s Reg.FRT_LCNT_RX l) l c).1 (some l)
    (tailCheck (bump s Reg.FRT_LCNT_RX l) l c).2)) ∧
  (∀ l c s, running s = true → isUp s l = true → headerBad s l c = true → exec (.routerPass l c) s = .next (bump (bump s Reg.FRT_LCNT_RX
    l) Reg.FRT_BAD_HDR 0)) ∧
  (∀ l c rest s, isUp s l = true → (link s l).staging = c :: rest → exec (.cellSlot l false) s = .next (serveHold (emit (bump (linkMod s
    l (fun L => { L with staging := rest })) Reg.FRT_LCNT_TX l) (.cell l (rewriteCell c (link (linkMod s l (fun L =>
    { L with staging := rest })) l).ver ((c.hops + 1) % 64) c.defl))) l 4)) ∧
  (∀ x r s, s.frt.hold = x :: r → exec .mcHoldTimeout s = .next (bump { s with frt := { s.frt with hold := r } } Reg.FRT_MC_HOLD_DROP
    0)) ∧
  (∀ x r s, s.frt.inject = x :: r → x.cell.mc = false → x.cell.dnode = ownNode s → exec .cellInject s = .next (ejectCell
    { s with frt := { s.frt with inject := r } } 15 x.cell)) ∧
  (∀ x r l s, s.frt.inject = x :: r → x.cell.mc = false → x.cell.dnode ≠ ownNode s → unreachable s x.cell.dnode = false → injectOutput s
    x.cell.dnode = some l → exec .cellInject s = .next (stageCell { s with frt := { s.frt with inject := r } } l x.cell)) ∧
  (∀ k e r s, takeFirst (fun e : LinkEvent => decide (e.hi = ownNode s ∧ e.hiConn = k)) s.frt.owed = some (e, r) → exec
    (.noticeFallbackTimer k) s = .next (sendNotice { s with frt := { s.frt with owed := r } } (noticeBits e.kind (ownNode s) e.lo k
    e.loConn (liveLinks s k) (link s (2 * k)).reason ((s.frt.nseq + 1) % 65536) e.at_) ((s.frt.nseq + 1) % 65536))) ∧
  (∀ l c s, running s = true → c.typ = 2 → exec (.noticeReceive l c) s = .next (noticeTake s l c)) ∧
  (∀ l c s b o q, running s = true → c.typ = 2 → b = beNat (c.payload.take 32) → o = nfld b 247 236 → q = nfld b 207 192 →
    s.frt.seen.contains (o, q) = true → exec (.noticeReceive l c) s = .next (bump s Reg.FRT_NOTICE_DUP 0)) ∧
  (∀ l c s b o q, running s = true → c.typ = 2 → b = beNat (c.payload.take 32) → o = nfld b 247 236 → q = nfld b 207 192 →
    s.frt.seen.contains (o, q) = false → ∃ u, exec (.noticeReceive l c) s = .next u ∧ u.frt.seen = ((o, q) :: s.frt.seen).take 256) ∧
  (∀ chan l c r s, s.frt.eject = (l, c) :: r → c.typ = 1 → exec (.cellEject chan) s = .next
    { s with frt := { s.frt with eject := r }, atu := { s.atu with ready := s.atu.ready ++ [.packet { chan := chan, cell := c }] } }) ∧
  (∀ chan l c r s, s.frt.eject = (l, c) :: r → c.typ = 3 → exec (.cellEject chan) s = .next (emit
    { s with frt := { s.frt with eject := r } } (.mgmt c)))

/-- The states of a fabric link: enable, disable, train, dead, down and hold. LINK ENABLE of an OFF link trains it, DISABLE takes an UP one dead with reason DISABLED, RETRAIN and the hold and training timeouts train again; a good training word brings the link UP at version 2 or 1, a bad one HOLDs it with its reason; loss of signal or lock, no valid block and the FEC rate take the link dead; a third fall in a second holds it for FLAP. -/
def Obligations.LinkStates : Prop :=
  (∀ l s, running s = true → l < 12 → (link s l).st = 0 → linkUsed s l = true → exec (.linkEnable l) s = .next (trainStart (linkMod
    (dropHeld s 0) l (fun L => { L with disable := false })) l)) ∧
  (∀ l s, running s = true → l < 12 → isUp s l = true → exec (.linkDisable l) s = .next (linkDead (linkMod (dropHeld s 0) l (fun L =>
    { L with disable := true })) l 5 true)) ∧
  (∀ l s, (link s l).st = 4 → exec (.linkRetrain l) s = .next (trainStart (dropHeld s 0) l)) ∧
  (∀ l b failed s, (link s l).st = 2 → trainCheck s l b = none → exec (.trainingWordReceive l b failed) s = .next (linkChanged (lanesUp
    (linkMod (linkMod s l (fun L => { L with peerNode := b.node % 4096, peerConn := b.conn % 8 })) l (fun L =>
    { L with st := 3, ver := if nbit b.versions 2 then 2 else 1 })) l failed) l 2)) ∧
  (∀ l b failed r s, (link s l).st = 2 → trainCheck s l b = some r → ∃ u, exec (.trainingWordReceive l b failed) s = .next u ∧ (link u
    l).st = 4 ∧ (link u l).reason = r % 256 ∧ (link u l).peerNode = b.node % 4096) ∧
  (∀ l s, (link s l).st = 2 → exec (.trainingTimeout l) s = .next (trainStart s l)) ∧
  (∀ l lock s, isUp s l = true → exec (.lossOfSignal l lock) s = .next (linkDead s l (if lock then 2 else 1) false)) ∧
  (∀ l s, isUp s l = true → exec (.noBlockTimeout l) s = .next (linkDead s l 4 false)) ∧
  (∀ l n s, isUp s l = true → exec (.fecRateExceeded l n) s = .next (linkDead ((linkLanes l).foldl (fun s x => bumpBy s Reg.LNS_LUNCORR
    x n) s) l 3 false)) ∧
  (∀ l s, (link s l).st = 1 → ((link s l).downs.filter (fun t => decide (s.time < t + 1000000000))).length < 3 → exec (.linkDownTimer l)
    s = .next (trainStart s l)) ∧
  (∀ l s, (link s l).st = 1 → 3 ≤ ((link s l).downs.filter (fun t => decide (s.time < t + 1000000000))).length → ∃ u, exec
    (.linkDownTimer l) s = .next u ∧ (link u l).st = 4 ∧ (link u l).reason = 11) ∧
  (∀ l s, (link s l).st = 4 → exec (.linkHoldExpiry l) s = .next (trainStart s l))

/-- Frames received and sent, priority flow control, and port state. A pause frame is taken, a transport frame goes to the transport, any other good frame with room is steered and delivered; pauses expire and are refreshed above LOW and ended at LOW; a sent raw frame completes its entry with OK; a fault takes the port down; a port comes up, except in MODE 2 with more than 100 ns of skew, which sets LOCAL_FAULT. -/
def Obligations.EthernetPorts : Prop :=
  (∀ p f pcs fill chan s, portLive s p = true → addressed s p f = true → etype f = 0x8808 → beAt f (l3 f) 2 = 0x0101 → frameFlags s p f
    pcs = 0 → tagged f = false → exec (.frameReceive p f pcs fill chan) s = .next (takePfc (countFrame s p f 0) p f)) ∧
  (∀ p f pcs fill chan s, portLive s p = true → addressed s p f = true → etype f ≠ 0x8808 → isTransport s p f = true → exec
    (.frameReceive p f pcs fill chan) s = .next (takeTransport (countFrame s p f (frameFlags s p f pcs)) p (framePrio s p f) f
    (frameFlags s p f pcs) fill chan)) ∧
  (∀ p f fill chan r q m s, portLive s p = true → addressed s p f = true → etype f ≠ 0x8808 → isTransport s p f = false → frameFlags s p
    f false = 0 → takeRoom (countFrame s p f 0) p (framePrio s p f) f.length fill = (r, true) → steer s p f = some (q, m) → exec
    (.frameReceive p f false fill chan) s = .next (deliverFrame r p (framePrio s p f) f 0 q m)) ∧
  (∀ p prio s, exec (.pfcPauseExpiry p prio) s = .next (eportMod s p (fun P =>
    { P with paused := P.paused &&& ~~~(BitVec.ofNat 8 (2 ^ (prio % 8))) }))) ∧
  (∀ p prio fill s, prio < 8 → (eport s p).holding.getLsbD prio = true → pfcLow s p prio < fill → exec (.pfcRefreshTimer p prio fill) s
    = .next (sendPfc s p prio (pfcQuanta s p prio))) ∧
  (∀ p prio fill s, prio < 8 → (eport s p).holding.getLsbD prio = true → fill ≤ pfcLow s p prio → exec (.pfcRefreshTimer p prio fill) s
    = .next (sendPfc (eportMod s p (fun P => { P with holding := P.holding &&& ~~~(BitVec.ofNat 8 (2 ^ prio)) })) p prio 0)) ∧
  (∀ p q idx r rest s, takeFirst (fun r : RawTx => decide (r.queue = q ∧ r.idx = idx) && r.sent) (eport s p).raw = some (r, rest) → exec
    (.frameTransmitDone p q idx) s = .next (entryDone (eportMod s p (fun P => { P with raw := rest })) q idx Status.ok r.len 0)) ∧
  (∀ p near far s, (near || far) = true → exec (.portFault p near far) s = .next (portDown s p near far)) ∧
  (∀ p skew s, running s = true → portPresent s p = true → cageRefused s p = false → (fld (reg s Reg.EMAC_MODE 0) 1 0 = 2 → skew ≤ 100)
    → ∃ u, exec (.portUp p skew) s = .next u ∧ (eport u p).up = true ∧ (eport u p).lf = false ∧ (eport u p).rf = false) ∧
  (∀ p skew s, running s = true → portPresent s p = true → cageRefused s p = false → fld (reg s Reg.EMAC_MODE 0) 1 0 = 2 → 100 < skew →
    ∃ u, exec (.portUp p skew) s = .next u ∧ (eport u p).up = (eport s p).up ∧ (eport u p).lf = true)

/-- Lane failures, spare lanes, the rotation step, lane control and modules. A failed fabric lane is handled at once and a failed Ethernet lane faults its port; a degraded lane rotates next; a rotation step goes through request, copy, match, the named marker, calibration and back; it is abandoned at the fourth restart; lane control waits for the end of a step; a module above its power limit is refused; the FAB and OSFP LEDs. -/
def Obligations.LanesAndModules : Prop :=
  (∀ l los s, l < 30 → exec (.laneFailure l los) s = .next (laneFails (laneMod s l (fun L => { L with los := L.los || los })) l true)) ∧
  (∀ l los s, 30 ≤ l → l < 38 → ∃ u, exec (.laneFailure l los) s = .next u ∧ u = portDown (laneMod s l (fun L =>
    { L with los := L.los || los })) (portOfLane s l) true false) ∧
  (∀ l n s, l < 38 → fld (reg s Reg.LNS_FAIL_THR 0) 31 16 < n → exec (.laneDegraded l n) s = .next (rotateNext (laneMod (bumpBy s
    Reg.LNS_LCORR l n) l (fun L => { L with degraded := true })) l)) ∧
  (∀ k p s, [0, 1].find? (fun p => !posLive s k p) = some p → isUp s (2 * k) = true → (link s (2 * k)).oneLane = false → (lane s (laneOf
    k p)).st ≠ 5 → ∃ u, exec (.oneLaneTimer (2 * k)) s = .next u ∧ (link u (2 * k)).oneLane = true) ∧
  (∀ k pos s, k < 6 → pos < 5 → ¬ ((spare s k).st = 4 ∧ (spare s k).carries = pos) → exec (.laneFailMsg k pos) s = .next (laneFails s
    (laneOf k pos) false)) ∧
  (∀ k pos s, k < 6 → pos < 4 → (rot s k).phase = 3 → (rot s k).pos = pos → exec (.spareIn k pos) s = .next (freedFails s k)) ∧
  (∀ k s, mayRotate s k = true → lowerEnd s k = true → (rot s k).urgent = [] → (lane s (laneOf k (rot s k).next)).st = 2 → exec
    (.rotationStepTimer k) s = .next (laneMsg (rotMod s k (fun R =>
    { R with phase := 1, pos := (rot s k).next, urgent := R.urgent.drop 1 })) k 1 (rot s k).next 0)) ∧
  (∀ k pos s, mayRotate s k = true → lowerEnd s k = false → pos < 4 → (lane s (laneOf k pos)).st = 2 → exec (.rotReq k pos) s = .next
    (laneMsg (rotMod s k (fun R => { R with phase := 2, pos := pos })) k 2 pos 0)) ∧
  (∀ k pos s, (rot s k).phase = 1 → (rot s k).pos = pos → exec (.rotAck k pos) s = .next (rotMod s k (fun R => { R with phase := 2 }))) ∧
  (∀ k m s, copying s k = true → exec (.laneMatch k m) s = .next (switchCheck (rotMod s k (fun R => { R with peer := true })) k m)) ∧
  (∀ k m s, copying s k = true → (rot s k).mine = false → exec (.matchAchieved k m true) s = .next (switchCheck (laneMsg (rotMod s k
    (fun R => { R with mine := true })) k 3 (rot s k).pos 0) k m)) ∧
  (∀ k m s, copying s k = true → (rot s k).mine = false → (rot s k).restarts = 3 → exec (.matchAchieved k m false) s = .next
    (stepAbandon (laneMsg (bump s Reg.LNS_CMP_FAIL 0) k 8 (rot s k).pos 0) k)) ∧
  (∀ k m s, copying s k = true → exec (.laneSwitch k m) s = .next (rotMod s k (fun R => { R with marker := some (m % 65536) }))) ∧
  (∀ k s, (rot s k).marker.isSome = true → (rot s k).phase = 2 → exec (.switchMarker k) s = .next (rotMod (laneMod (laneMod s (laneOf k
    (rot s k).pos) (fun L => { L with st := 5 })) (spareLane k) (fun L => { L with st := 4, carries := (rot s k).pos })) k (fun R =>
    { R with phase := 3, mine := false, peer := false, restarts := 0, marker := none }))) ∧
  (∀ k pos s, (rot s k).phase = 3 → exec (.laneBack k pos) s = .next (backCheck (rotMod s k (fun R => { R with peer := true })) k)) ∧
  (∀ k h x s, (rot s k).phase = 3 → (rot s k).mine = false → exec (.calibrationDone k h x false) s = .next (backCheck (laneMsg (rotMod
    (laneMod (setReg s Reg.LNS_LMARGIN (laneOf k (rot s k).pos) (w64 (h % 256 + x % 1024 * 256))) (laneOf k (rot s k).pos) (fun L =>
    { L with degraded := false })) k (fun R => { R with mine := true })) k 5 (rot s k).pos 0) k)) ∧
  (∀ k s, (rot s k).phase = 3 → (rot s k).mine = false → exec (.calibrationTimeout k) s = .next (laneMsg (freedFails s k) k 7 (rot s
    k).pos 0)) ∧
  (∀ k s, exec (.rotationAbort k) s = .next (stepAbandon s k)) ∧
  (∀ l pass s, l < 30 → (rot s (l / 5)).phase = 0 → exec (.laneRecal l) s = .next (laneAct (dropHeld s 0) l 0) ∧ exec (.laneForceFail l)
    s = .next (laneAct (dropHeld s 0) l 1) ∧ exec (.laneRestore l pass) s = .next (laneAct (dropHeld s 0) l (if pass then 3 else 2))) ∧
  (∀ l pass s, l < 30 → (rot s (l / 5)).phase ≠ 0 → exec (.laneRecal l) s = .next (rotMod (dropHeld s 0) (l / 5) (fun R =>
    { R with later := R.later ++ [(l, 0)] })) ∧ exec (.laneForceFail l) s = .next (rotMod (dropHeld s 0) (l / 5) (fun R =>
    { R with later := R.later ++ [(l, 1)] })) ∧ exec (.laneRestore l pass) s = .next (rotMod (dropHeld s 0) (l / 5) (fun R =>
    { R with later := R.later ++ [(l, if pass then 3 else 2)] }))) ∧
  (∀ k rev power s, k < 2 → power ≤ 4 * fld (reg s Reg.LNS_MOD_PWR_MAX 0) 7 0 → ∃ u, exec (.moduleInsert k rev power) s = .next u ∧
    cageModule u k = { present := true, high := true, refused := false, rev := rev % 256, power := power % 256 } ∧ u.out = .module k
    true :: s.out) ∧
  (∀ k rev power s, k < 2 → 4 * fld (reg s Reg.LNS_MOD_PWR_MAX 0) 7 0 < power → ∃ u, exec (.moduleInsert k rev power) s = .next u ∧
    (cageModule u k).refused = true ∧ (cageModule u k).high = false) ∧
  (∀ k s, ∃ u, exec (.moduleRemove k) s = .next u ∧ (cageModule u k).present = false) ∧
  (∀ k ready fault s, (cageModule s k).present = true → exec (.moduleInterrupt k ⟨ready, fault⟩) s = .next (moduleMod s k (fun M =>
    { M with ready := ready, fault := fault }))) ∧
  (∀ k ready s, (cageModule s k).present = true → s.pw.mainOn = true → ∃ u, exec (.moduleInterrupt k ⟨ready, true⟩) s = .next u ∧
    osfpLed u k = .amber) ∧
  (∀ k s, s.pw.mainOn = true → (cageModule s k).fault = false → osfpLed s k = (if cagePorts s k ≠ [] ∧ (cagePorts s k).all (fun p =>
    (eport s p).up) = true then .green else .off)) ∧
  (∀ k s, s.pw.mainOn = true → (link s (2 * k)).st = 3 → (link s (2 * k + 1)).st = 3 → fabLed s k = (if (link s (2 * k)).ver = 1 ∨ (link
    s (2 * k + 1)).ver = 1 ∨ (rot s k).perm = true then .amber else .green)) ∧
  (∀ k s, s.pw.mainOn = true → (link s (2 * k)).st = 3 → (link s (2 * k + 1)).st ≠ 3 → fabLed s k = .amber)

/-- Scarab: member lists, starts, chunks, release words, repairs and timeouts. The member list is read at the first COLLECTIVE of a VALID group; a checked collective starts its group, a failed check completes the entry; a chunk goes to the next peer in rotation; a consumed chunk that comes again is dropped; a release word raises what its peer has released; multicast cells are placed and noted; a missing chunk is asked for; a timeout aborts with RETRY_EXCEEDED. -/
def Obligations.Collectives : Prop :=
  (∀ q idx e bs s s1, handedOver s q idx = some e → (grp s (cGroup e)).members = none → wbit (gent s (cGroup e) 0) 0 = true → memRead s
    (gOwner s (cGroup e)) (fld (gent s (cGroup e) 1) 47 0) (32 * gMembers s (cGroup e)) = (s1, .ok bs) → exec (.memberListRead q idx) s
    = .next (grpMod s1 (cGroup e) (fun G =>
    { G with members := some ((List.range (gMembers s (cGroup e))).map (fun i => leAt bs (32 * i) 32)) }))) ∧
  (∀ q idx e bus s, handedOver s q idx = some e → (grp s (cGroup e)).st = 0 → scbActive s < 64 → (grp s (cGroup e)).members.isSome =
    true → collectiveBad s q e = none → 1 < gMembers s (cGroup e) → exec (.collectiveStart q idx bus) s = .next (scbFinish (grpMod
    { s with scb := { s.scb with waited := s.scb.waited.filter (· ≠ (q, idx)) } } (cGroup e) (fun G =>
    { G with st := 1, inst := some (cInst e), queue := q, idx := idx, cursors := [], accs := [], have_ := [], finals := [], repairs := [], unicast := [], waits := [], poison := false, peers := G.peers.map (fun p => (p.1, { p.2 with up := 0, down := 0 })) }))
    (cGroup e))) ∧
  (∀ q idx e st bus s, handedOver s q idx = some e → (grp s (cGroup e)).st = 0 → scbActive s < 64 → (grp s (cGroup e)).members.isSome =
    true → collectiveBad s q e = some st → exec (.collectiveStart q idx bus) s = .next (entryDone
    { s with scb := { s.scb with waited := s.scb.waited.filter (· ≠ (q, idx)) } } q idx st 0 0)) ∧
  (∀ g l bus s e n cur j, e = scbEntry s g → n = gSize s g l - 1 → cur = tget (fun _ => 0) (grp s g).cursors (l * 2) → j = (myCoord s g
    l + 1 + cur % max 1 n) % max 1 (gSize s g l) → (grp s g).st = 1 → l < 3 → n ≠ 0 → cur / max 1 n < (upList s g e l j).2 → mayReach s
    g l j = true → exec (.chunkSend g l false bus) s = .next (scbSettle s g (sendChunk s g l ((upList s g e l j).1 + cur / max 1 n)
    false false [j] bus))) ∧
  (∀ g l down bus s e n cur j list p s1 b bad s2 sent w, e = scbEntry s g → n = gSize s g l - 1 → cur = tget (fun _ => 0) (grp s
    g).cursors (l * 2 + b2n down) → j = (myCoord s g l + 1 + cur % max 1 n) % max 1 (gSize s g l) → list = (if down then downList s g e
    l else upList s g e l j) → w = (if down then downFormat s g e else upFormat s g e l) → p = list.1 + cur / max 1 n → sent = (scbPeer
    s g l j).sent → (grp s g).st = 1 → l < 3 → n ≠ 0 → cur / max 1 n < list.2 → (down && byTree s g l) = false → mayReach s g l j = true
    → chunkData s g l p down bus = .ok (s1, b, bad) → memWrite s1 (gOwner s g) (landBase s g + outSlot s g l j (sent % gSlots s g)) (b
    ++ trailer s g e l down bad w sent p b) [] = (s2, true) → exec (.chunkSend g l down bus) s = .next (scbPost (bumpFn (grpMod
    (scbPeerMod s2 g l j (fun P => { P with sent := P.sent + 1 })) g (fun G =>
    { G with outs := G.outs ++ [⟨l, j, sent, (b ++ trailer s g e l down bad w sent p b).length⟩], waits := G.waits.filter (· ≠ l * 2 + b2n down), cursors := tmod (fun _ => 0) G.cursors (l * 2 + b2n down) (· + 1) }))
    Reg.SCB_CHUNK_TX (gOwner s g)) g (peerRec s g l j) (nfld (peerRec s g l j) 111 64 + inSlot s g l (myCoord s g l) (sent % gSlots s
    g)) (b ++ trailer s g e l down bad w sent p b))) ∧
  (∀ g l j slot n bus bs s sR, s.scb.inbox.find? (fun x => x.1 = landBase s g + inSlot s g l j slot) = some (landBase s g + inSlot s g l
    j slot, n) → l < 3 → j < gSize s g l → slot < gSlots s g → wbit (gent s g 0) 0 = true → memRead s (gOwner s g) (landBase s g +
    inSlot s g l j slot) n = (sR, .ok bs) → 64 ≤ n → leAt (bs.drop (n - 64)) 56 8 = (crc64 (bs.take (n - 64) ++ (bs.drop (n - 64)).take
    56)).toNat → leAt (bs.drop (n - 64)) 16 8 < (scbPeer s g l j).consumed → exec (.chunkReceive g l j slot bus) s = .next
    { sR with scb := { sR.scb with inbox := sR.scb.inbox.filter (fun x => x.1 ≠ landBase s g + inSlot s g l j slot) } }) ∧
  (∀ g l j slot n bus bs s sR, s.scb.inbox.find? (fun x => x.1 = landBase s g + inSlot s g l j slot) = some (landBase s g + inSlot s g l
    j slot, n) → l < 3 → j < gSize s g l → slot < gSlots s g → wbit (gent s g 0) 0 = true → memRead s (gOwner s g) (landBase s g +
    inSlot s g l j slot) n = (sR, .ok bs) → 64 ≤ n → leAt (bs.drop (n - 64)) 56 8 = (crc64 (bs.take (n - 64) ++ (bs.drop (n - 64)).take
    56)).toNat → (scbPeer s g l j).consumed ≤ leAt (bs.drop (n - 64)) 16 8 → (scbPeer s g l j).extra.contains (leAt (bs.drop (n - 64))
    16 8) = false → (grp s g).st = 1 → (grp s g).inst = some (leAt (bs.drop (n - 64)) 0 4) → chunkAgrees s g l j (bs.drop (n - 64)) n =
    true → nbit (leAt (bs.drop (n - 64)) 6 1) 2 = true → exec (.chunkReceive g l j slot bus) s = .next (scbSettle s g (takeDown
    { sR with scb := { sR.scb with inbox := sR.scb.inbox.filter (fun x => x.1 ≠ landBase s g + inSlot s g l j slot) } } g (leAt (bs.drop
    (n - 64)) 32 8) (bs.take (n - 64)) (nbit (leAt (bs.drop (n - 64)) 6 1) 6) >>= fun s1 => .ok (scbFinish (consumed s1 g l j (leAt
    (bs.drop (n - 64)) 16 8) (some true)) g)))) ∧
  (∀ g l j bs s s1, l < 3 → j < gSize s g l → wbit (gent s g 0) 0 = true → s.scb.inbox.any (fun x => x.1 = landBase s g + relWord s g l
    j) = true → memRead { s with scb := { s.scb with inbox := s.scb.inbox.filter (fun x => x.1 ≠ landBase s g + relWord s g l j) } }
    (gOwner s g) (landBase s g + relWord s g l j) 64 = (s1, .ok bs) → leAt bs 56 8 = (crc64 (bs.take 56)).toNat → nbit (leAt bs 4 1) 2 =
    false → nbit (leAt bs 4 1) 3 = false → (grp s1 g).st = 0 → ∃ u, exec (.releaseWordReceive g l j) s = .next u ∧ (scbPeer u g l
    j).released = max (scbPeer s1 g l j).released (leAt bs 8 8)) ∧
  (∀ k g l j s s1, k.cell.mc = true → k.cell.opc = 0x0A → running s = true → mcRoot s k.cell = some (g, l, j) → k.cell.first = false →
    k.cell.last = false → (k.cell.msn + 2 ^ 24 - (scbPeer s g l j).consumed % 2 ^ 24) % 2 ^ 24 = 0 → 0 < gSlots s g → (scbPeer s g l
    j).extra = [] → s.scb.mc = [] → memWrite s (gOwner s g) (landBase s g + inSlot s g l j ((scbPeer s g l j).consumed % max 1 (gSlots s
    g)) + 512 * k.cell.offset) (padTo 512 k.cell.payload) k.cell.poison = (s1, true) → 512 * k.cell.offset < 8256 → s1.scb.mc = [] →
    exec (.mcCellReceive k) s = .next
    { s1 with scb := { s1.scb with mc := [⟨g, l, j, (scbPeer s g l j).consumed, [k.cell.offset], none⟩] } }) ∧
  (∀ g l j s, (grp s g).st = 1 → (recMc (peerRec s g l j) l).2 = true → (levelPeers s g l).contains j = true → (scbPeer s g l j).down <
    downFrom s g (scbEntry s g) l j → exec (.repairTimeout g l j) s = .next (askRepair s g l j (scbPeer s g l j).consumed)) ∧
  (∀ g s, exec (.collectiveTimeout g) s = .next (scbAbort s g Status.retryExceeded))

/-- Invocation records, tile starts, limits and ends, tile failure and remap. A complete argument is written as records and finishes its message; an IDLE tile takes the record at the head of a channel and begins at ENTRY; LIMIT stops the tile; an invocation whose outcome is known ends; a failed tile is remapped to a spare, and a remap that is done starts to clear. -/
def Obligations.TileDispatch : Prop :=
  (∀ c msn m h i s, recvMsg s c msn = some m → handleOf s c msn = some h → invocation s h = some i → m.executed = true → i.written =
    false → i.status = none → m.complete = false → m.pend = [] → unitsOf m.len ≤ m.covered.length → ∃ u args, exec (.invokeRecordWrite c
    msn) s = .next u ∧ args = argWords ((List.range m.len).map (fun k => tget (fun _ => (0 : Byte)) m.staging k)) (m.pendData.flatMap
    (fun d => marksUp d.2.2 (512 * d.1))) ((m.len + 7) / 8) 0 ∧ u = finishRecv
    { (writeRecords (invMod s h (fun i => { i with written := true })) h { i with written := true } args 0 i.tiles) with tgd := { (writeRecords (invMod s h (fun i => { i with written := true })) h { i with written := true } args 0 i.tiles).tgd with staging := (writeRecords (invMod s h (fun i => { i with written := true })) h { i with written := true } args 0 i.tiles).tgd.staging - b2n (decide (0 < m.len)) } }
    c msn Status.ok) ∧
  (∀ t ch h i s, firstRecord s (tileQ t ch) = some h → invocation s h = some i → (tile s t).st = 2 → ∃ u, exec (.tileStart t ch) s =
    .next u ∧ (tile u t).st = 3 ∧ (tile u t).pc = kEntry s i.kernel ∧ (tile u t).handle = h ∧ (tile u t).kernel = i.kernel ∧ (tile u
    t).ch = ch ∧ (tile u t).argLeft = (i.argLen + 7) / 8 ∧ (tile u t).onSpare = (tile s t).onSpare) ∧
  (∀ t s, (tile s t).st = 3 → (tile s t).stopping = false → exec (.kernelLimit t) s = .next (kernelDown s t 0x0C (tile s t).pc 0
    Reg.TGD_LIMIT_STOP 0)) ∧
  (∀ h i s, invocation s h = some i → i.live = [] → i.written = true → outcomeKnown s i = true → exec (.invocationEnd h) s = .next
    { s with tgd := { s.tgd with staging := s.tgd.staging - 0, invs := s.tgd.invs.filter (fun x => x.1 ≠ h) } }) ∧
  (∀ t s, (tile s t).st ≠ 0 → s.tgd.spares ≠ [] → ∃ u, exec (.tileFailure t) s = .next u ∧ (tile u t).st = 4 ∧ (tile u t).onSpare = true
    ∧ (tile u t).site ∈ s.tgd.spares ∧ u.tgd.spares = s.tgd.spares.filter (· ≠ (tile u t).site) ∧ ((∃ x ∈ s.tgd.spares, siteQuad x =
    siteQuad (tile s t).site) → siteQuad (tile u t).site = siteQuad (tile s t).site)) ∧
  (∀ t s, (tile s t).st ≠ 0 → s.tgd.spares = [] → ∃ u, exec (.tileFailure t) s = .next u ∧ (tile u t).st = 0) ∧
  (∀ t s, (tile s t).st = 4 → ∃ u, exec (.tileRemapDone t) s = .next u ∧ (tile u t).st = 1 ∧ (tile u t).site = (tile s t).site ∧ regN u
    Reg.TGD_REMAP 0 = wrap32 (regN s Reg.TGD_REMAP 0 + 1))

/-- SQM pushes and pops, fault reports, suspect windows and the queues of Firefly. A push to an own VALID mailbox enters it and any other sets REFUSED; an 8-byte pop returns the head word with its tag; a report goes to the queues of its class; a suspect window that closes on several reports writes one merged record; an 8-byte read pops a fault or event queue and a 4-byte one returns 0; management reads the standby copy. -/
def Obligations.MailboxesFaultsAndEvents : Prop :=
  (∀ fn value s, blockUp (dropHeld s fn) fn = true → ownBox (dropHeld s fn) fn (selSqm (dropHeld s fn) fn) = true → selSqm (dropHeld s
    fn) fn ≠ rspIn fn → exec (.sqmPush fn value) s = .next (sqmPush (dropHeld s fn) (selSqm (dropHeld s fn) fn) value)) ∧
  (∀ fn value s, blockUp (dropHeld s fn) fn = true → ownBox (dropHeld s fn) fn (selSqm (dropHeld s fn) fn) = false → ∃ u, exec (.sqmPush
    fn value) s = .next u ∧ u.sqm = s.sqm ∧ (fnGet u fn).popTag = (fnGet s fn).popTag % 8 + 8) ∧
  (∀ fn bad s, hostUp s = true → fnExists s fn = true → running s = true → ownBox s fn (selSqm s fn) = true → selSqm s fn ≠ rspOut fn →
    exec (.sqmPop fn 8 bad) s = .next (emit (fnMod (sqmPop s (selSqm s fn) bad).1 fn (fun F =>
    { F with popTag := (sqmPop s (selSqm s fn) bad).2.tag + 4 * b2n (sqmPop s (selSqm s fn) bad).2.underrun })) (.regData fn (sqmPop s
    (selSqm s fn) bad).2.word))) ∧
  (∀ r s, exec (.faultReport r) s = .next (report s r)) ∧
  (∀ qi node w rest s, takeFirst (fun w : Suspect => w.queue = qi ∧ w.node = node) s.fev.windows = some (w, rest) → w.count ≤ 1 → exec
    (.suspectWindowClose qi node) s = .next { s with fev := { s.fev with windows := rest } }) ∧
  (∀ node w rest s, takeFirst (fun w : Suspect => w.queue = 0 ∧ w.node = node) s.fev.windows = some (w, rest) → 1 < w.count → exec
    (.suspectWindowClose 0 node) s = .next (fevWrite { s with fev := { s.fev with windows := rest } } (peerRecord node w.tenant w.status
    w.first w.count (some s.time)) 0)) ∧
  (∀ node s, exec (.noticeSuppressionExpiry node) s = .next
    { s with fev := { s.fev with suppress := s.fev.suppress.filter (· ≠ node) } }) ∧
  (∀ bad s, hostUp s = true → exec (.faultQueuePop 8 bad) s = .next (fevPop 0 0 bad s) ∧ exec (.faultQueuePop 4 bad) s = .next (emit s
    (.regData 0 0))) ∧
  (∀ fn bad s, hostUp s = true → fnExists s fn = true → exec (.eventQueuePop fn 8 bad) s = .next (fevPop (1 + fn) fn bad s) ∧ exec
    (.eventQueuePop fn 4 bad) s = .next (emit s (.regData fn 0))) ∧
  (∀ s, mctpUp s = true → s.fev.unread ≠ 0 → ∃ u, exec .standbyCopyRead s = .next u ∧ u.fev.unread = s.fev.unread - 1 ∧ u.out = .standby
    (s.fev.standby.getD (s.fev.unread - 1) []) :: s.out ∧ mgAlert u = (s.pw.stby && decide (s.fev.unread ≠ 1))) ∧
  (∀ r s u t ws p, 0 < r.cls → r.cls ≤ 0x13 → toFaultQueue r.cls = true → toEventQueue r.cls = false → r.sev = 3 → u = fevQMod s 0 (fun
    q => { q with summary := q.summary ||| BitVec.ofNat 20 (2 ^ r.cls) }) → t = fevQMod u 0 (fun q =>
    { q with rseq := (fevQ u 0).rseq + 1 }) → ws = recordWords t r 0 (fevC t 0 r.cls).held ((fevQ u 0).rseq + 1) → sqmPushAll
    (standbyCopy t r ws) 0 (ws.map (fun w => ⟨w, 0⟩)) = (p, true) → exec (.faultReport r) s = .next (fevIrq (fevCMod p 0 r.cls (fun c =>
    { c with written := wrap32 (c.written + 1), held := 0 })) 0 3))

/-- Cicada: QUERY, PIECE, ABANDON, ACTIVATE, CONFIRM and their timers. Each command answers by its path's rules, REFUSED where the path does not allow it; ACTIVATE of a STAGED slot commits one trial and clears FAILS; CONFIRM of a healthy trial makes its slot active and raises the fused security version; an idle piece buffer is released; the reset after ACTIVATE and the end of the health window force a full reset. -/
def Obligations.FirmwareUpdate : Prop :=
  (∀ path msg s, cicPathUp s path = true → pathAllows s path 1 = true → (s.boot.minimal && !s.boot.scrubbed && !s.boot.romOnly) = false
    → s.rsp.scrubFor = 0 → exec (.cicQuery path msg) s = .next (cicReply s path msg .ok (queryBody s))) ∧
  (∀ path msg ok s, cicPathUp s path = true → pathAllows s path 2 = true → (s.boot.minimal && !s.boot.scrubbed && !s.boot.romOnly) =
    false → s.rsp.scrubFor = 0 → exec (.cicPiece path msg ok) s = .next (cicReply (doPiece s path msg ok).1 path msg (doPiece s path msg
    ok).2 [])) ∧
  (∀ path msg s, cicPathUp s path = true → pathAllows s path 3 = true → (s.boot.minimal && !s.boot.scrubbed && !s.boot.romOnly) = false
    → s.rsp.scrubFor = 0 → exec (.cicAbandon path msg) s = .next (cicReply (doAbandon s).1 path msg (doAbandon s).2.1 (doAbandon
    s).2.2)) ∧
  (∀ path msg ok s, cicPathUp s path = true → pathAllows s path 4 = true → (s.boot.minimal && !s.boot.scrubbed && !s.boot.romOnly) =
    false → s.rsp.scrubFor = 0 → exec (.cicActivate path msg ok) s = .next (cicReply (doActivate s msg ok).1 path msg (doActivate s msg
    ok).2.1 (doActivate s msg ok).2.2)) ∧
  (∀ path msg s, cicPathUp s path = true → pathAllows s path 5 = true → (s.boot.minimal && !s.boot.scrubbed && !s.boot.romOnly) = false
    → s.rsp.scrubFor = 0 → exec (.cicConfirm path msg) s = .next (cicReply (doConfirm s).1 path msg (doConfirm s).2.1 (doConfirm
    s).2.2)) ∧
  (∀ path msg s, cicPathUp s path = true → pathAllows s path 3 = false → exec (.cicAbandon path msg) s = .next (cicReply s path msg
    .refused [])) ∧
  (∀ image index s, s.cic.buffers.any (fun b => decide (b.image = image ∧ b.index = index)) = true → exec (.pieceBufferIdle image index)
    s = .next (bump
    { s with cic := { s.cic with buffers := s.cic.buffers.filter (fun b => !decide (b.image = image ∧ b.index = index)) } }
    Reg.MGT_CIC_BUSY 0)) ∧
  (∀ s, s.boot.nowReset = true → exec .activateResetTimer s = .next (fullReset s 0x08)) ∧
  (∀ s, s.boot.healthOpen = true → exec .healthWindowExpiry s = .next (fullReset s 0x06)) ∧
  (∀ s, s.boot.trial = true → s.boot.healthOpen = true → s.boot.stage = .running → s.boot.selftestOk = true → (doConfirm s).2.1 = .ok ∧
    (doConfirm s).1.fuses.svn = max s.fuses.svn (slotGet s s.boot.slot).svn ∧ (doConfirm s).1.boot.confirmed = true ∧ (bootRec
    (doConfirm s).1).active = s.boot.slot ∧ (bootRec (doConfirm s).1).trial = 0) ∧
  (∀ m s, (slotGet s (inactiveSlot s)).state = 2 → (slotGet s (inactiveSlot s)).image = m.image → partsPass (slotGet s (inactiveSlot s))
    = true → (doActivate s m true).2.1 = .ok ∧ (bootRec (doActivate s m true).1).trial = 1 ∧ (bootRec (doActivate s m true).1).fails = 0
    ∧ (slotGet (doActivate s m true).1 (inactiveSlot s)).state = 3)

/-- The SPDM requests before a session: version to KEY_EXCHANGE. GET_VERSION answers 1.3 only and begins a connection; capabilities, algorithms, digests, certificate portions, challenge and measurements answer in their phase, signed where asked; KEY_EXCHANGE opens a session with a fresh ephemeral key; in RMA every CHALLENGE and KEY_EXCHANGE fails. Message codes and layouts are those of DSP0274, which the model presumes (log 37). -/
def Obligations.SpdmOutsideSessions : Prop :=
  (∀ who sec bytes k b s, spdmTake s who sec bytes 0x84 = .request k b → exec (.getVersion who sec bytes) s = .next (spdmReply
    (requesterMod s who (fun R => { R with phase := 1, refused := false })) who k [0x10, 0x04, 0, 0, 0, 1, 0x00, 0x13])) ∧
  (∀ who sec bytes k b s, spdmTake s who sec bytes 0xE1 = .request k b → 1 ≤ (requester s who).phase → exec (.getCapabilities who sec
    bytes) s = .next (spdmReply (requesterMod (freeBytes 1 s).2 who (fun R => { R with phase := 2 })) who k ([0x13, 0x61, 0, 0, 0] ++
    (freeBytes 1 s).1 ++ [0, 0] ++ leBytes 4 spdmFlags ++ leBytes 4 8192 ++ leBytes 4 8192))) ∧
  (∀ who sec bytes k b s, spdmTake s who sec bytes 0xE3 = .request k b → 2 ≤ (requester s who).phase → ∃ u answer, exec
    (.negotiateAlgorithms who sec bytes) s = .next u ∧ u = spdmReply (requesterMod s who (fun R =>
    { R with phase := 3, refused := !algsExact b })) who k ([0x13, 0x63, 3, 0] ++ answer)) ∧
  (∀ who sec bytes k b s, spdmTake s who sec bytes 0x81 = .request k b → 3 ≤ (requester s who).phase → exec (.getDigests who sec bytes)
    s = .next (spdmReply s who k ([0x13, 0x01, 1, 1] ++ sha384Bytes Config.certChain))) ∧
  (∀ who sec bytes k b s, spdmTake s who sec bytes 0x82 = .request k b → 3 ≤ (requester s who).phase → leAt b 2 1 = 0 → leAt b 4 2 = 0 →
    exec (.getCertificate who sec bytes) s = .next (spdmReply s who k ([0x13, 0x02, 0, 0] ++ leBytes 2 (Config.certChain.take (min (leAt
    b 6 2) 8000)).length ++ leBytes 2 (Config.certChain.length - (Config.certChain.take (min (leAt b 6 2) 8000)).length) ++
    Config.certChain.take (min (leAt b 6 2) 8000)))) ∧
  (∀ who sec bytes k b s, spdmTake s who sec bytes 0x83 = .request k b → 3 ≤ (requester s who).phase → s.fuses.lifecycle ≠ 2 → leAt b 2
    1 = 0 → s.rsp.entropyOk = true → ∃ m, m = [0x13, 0x03, 0, 1] ++ sha384Bytes Config.certChain ++ (drawNonce32 s).1 ++ (if leAt b 3 1
    = 0 then [] else measureSummary s who) ++ [0, 0] ++ padTo 8 (b.drop 36) ∧ exec (.spdmChallenge who sec bytes) s = .next (spdmReply
    (drawNonce32 s).2 who k (m ++ aliasSign (b ++ m)))) ∧
  (∀ who sec bytes k b s, spdmTake s who sec bytes 0xE0 = .request k b → 3 ≤ (requester s who).phase → leAt b 3 1 = 0 → nbit (leAt b 2
    1) 0 = false → s.rsp.entropyOk = true → exec (.getMeasurements who sec bytes) s = .next (spdmReply (drawNonce32 s).2 who k ([0x13,
    0x60] ++ leBytes 1 (measurements s who).length ++ [0] ++ leBytes 1 0 ++ leBytes 3 0 ++ (drawNonce32 s).1 ++ [0, 0] ++ padTo 8
    (b.drop 4)))) ∧
  (∀ who sec bytes k b s, 256 ≤ who → spdmTake s who sec bytes 0xE4 = .request k b → 3 ≤ (requester s who).phase → s.fuses.lifecycle ≠ 2
    → (requester s who).session = none → leAt b 3 1 = 0 → s.rsp.entropyOk = true → ∃ u x, exec (.keyExchange who sec bytes) s = .next u
    ∧ (requester u who).session = some x ∧ x.id = s.rsp.nextSession ∧ x.ephemeral = some s.freeCtr ∧ x.established = false ∧
    u.rsp.nextSession = s.rsp.nextSession % 65535 + 1) ∧
  (∀ who sec bytes k b s, spdmTake s who sec bytes 0x83 = .request k b → 3 ≤ (requester s who).phase → s.fuses.lifecycle = 2 → exec
    (.spdmChallenge who sec bytes) s = .next (spdmError s who k 0x05) ∧ ∀ (bytes' : List Byte) k' b', spdmTake s who sec bytes' 0xE4 =
    .request k' b' → exec (.keyExchange who sec bytes') s = .next (bump (spdmError s who k' 0x05) Reg.RSP_SESS_FAIL 0))

/-- The SPDM requests inside a session. FINISH with matching verify data opens the session and otherwise ends it; HEARTBEAT, KEY_UPDATE and END_SESSION answer in an open session; a VENDOR_DEFINED request carries a command of Table 18-5 for a tenant; a missed heartbeat ends the session. Opening a secured message is an opaque function of the session's secrets (log 37). -/
def Obligations.SpdmSessions : Prop :=
  (∀ who bytes x s, 256 ≤ who → who < 260 → mctpUp s = true → (requester s who).session = some x → x.established = false → (requester s
    who).refused = false → exec (.spdmFinish who true bytes) s = .next (securedRow s who x bytes 0xE5 (fun m => if (m.drop 4).take 48 =
    verifyData x.secret 0xE5 then spdmReply (sessionMod s who (fun y =>
    { y with established := true, ephemeral := none, lastBeat := s.time })) who true [0x13, 0x65, 0, 0] else bump (requesterMod
    (spdmError s who true 0x06) who (fun R => { R with session := none })) Reg.RSP_SESS_FAIL 0))) ∧
  (∀ who bytes x s, 256 ≤ who → who < 260 → mctpUp s = true → (requester s who).session = some x → x.established = true → (requester s
    who).refused = false → exec (.spdmHeartbeat who true bytes) s = .next (securedRow s who x bytes 0xE8 (fun _ => spdmReply (sessionMod
    s who (fun y => { y with lastBeat := s.time })) who true [0x13, 0x68, 0, 0]))) ∧
  (∀ who s, (requester s who).session.isSome = true → exec (.heartbeatExpiry who) s = .next (bump (sessionEnd s who) Reg.RSP_SESS_FAIL
    0)) ∧
  (∀ who bytes x s, 256 ≤ who → who < 260 → mctpUp s = true → (requester s who).session = some x → x.established = true → (requester s
    who).refused = false → exec (.keyUpdate who true bytes) s = .next (securedRow s who x bytes 0xE9 (fun m => if leAt m 2 1 = 0 ∨ 3 <
    leAt m 2 1 then spdmError (sessionMod s who (fun y => { y with lastBeat := s.time })) who true 0x01 else spdmReply (if leAt m 2 1 =
    3 then sessionMod s who (fun y => { y with lastBeat := s.time }) else sessionMod (sessionMod s who (fun y =>
    { y with lastBeat := s.time })) who (fun y => { y with keyGen := y.keyGen + 1 })) who true ([0x13, 0x69] ++ leBytes 1 (leAt m 2 1)
    ++ leBytes 1 (leAt m 3 1))))) ∧
  (∀ who bytes x s, 256 ≤ who → who < 260 → mctpUp s = true → (requester s who).session = some x → x.established = true → (requester s
    who).refused = false → exec (.endSession who true bytes) s = .next (securedRow s who x bytes 0xEC (fun _ => sessionEnd (spdmReply
    (sessionMod s who (fun y => { y with lastBeat := s.time })) who true [0x13, 0x6C, 0, 0]) who))) ∧
  (∀ who bytes x s, 256 ≤ who → who < 260 → mctpUp s = true → (requester s who).session = some x → x.established = true → (requester s
    who).refused = false → exec (.vendorDefinedRequest who true bytes) s = .next (securedRow s who x bytes 0xFE (fun _ => spdmError
    (sessionMod s who (fun y => { y with lastBeat := s.time })) who true 0x07))) ∧
  (∀ who sec bytes x tag body s, who < 256 → (box s who).msg = some (1, tag, body) → (box s who).outWords = [] → (box s who).cmd = none
    → (requester s who).session = some x → x.established = true → (requester s who).refused = false → ∃ u, exec (.vendorDefinedRequest
    who sec bytes) s = .next u ∧ u = securedRow s who x body 0xFE (fun m => let d := ((m.drop (7 + leAt m 6 1)).drop 2).take (leAt
    (m.drop (7 + leAt m 6 1)) 0 2); if leAt d 0 4 = 0 ∨ 5 < leAt d 0 4 then cmdReply (sessionMod s who (fun y =>
    { y with lastBeat := s.time })) who Status.badDescriptor [] else boxMod (sessionMod s who (fun y => { y with lastBeat := s.time }))
    who (fun z => { z with cmd := some (leAt d 0 4, d.drop 4) })))

/-- Key commands, sealed bounce mode and report mode. KEY_LOAD and KEY_GEN load a free slot of the tenant and answer its number; KEY_DESTROY takes a LOADED slot of the tenant out of use; SEAL_ENABLE puts an open tenant into sealed mode with two fresh pairs and its bounce ranges and extends its measurement; SEAL_REKEY moves to a fresh pair; a report request derives the report key and answers a signed report. The extension records are the model's layout (log 38). -/
def Obligations.KeysSealingAndReports : Prop :=
  (∀ fn p k s s1, cmdOf s fn 0x01 = some p → barred s fn = false → p.length = 32 → loadKey s fn p = .ok (s1, k) → exec (.keyLoad fn) s =
    .next (cmdReply s1 fn Status.ok (leBytes 4 k))) ∧
  (∀ fn k p s s1, cmdOf s fn 0x02 = some p → barred s fn = false → s.rsp.entropyOk = true → loadKey (drawN 4 s).2 fn (wordsToBytes
    (drawN 4 s).1) = .ok (s1, k) → exec (.keyGen fn) s = .next (cmdReply s1 fn Status.ok (leBytes 4 k ++ wordsToBytes (drawN 4 s).1))) ∧
  (∀ fn p s, cmdOf s fn 0x03 = some p → barred s fn = false → leAt p 0 4 < 1024 → (keySlot s (leAt p 0 4)).owner = fn → (keySlot s (leAt
    p 0 4)).st = 1 → exec (.keyDestroy fn) s = .next (cmdReply (slotLeaves s (leAt p 0 4)) fn Status.ok [])) ∧
  (∀ fn p p0 b0 p1 b1 s s1 s2, cmdOf s fn 0x04 = some p → inReport s fn = false → (tenant s fn).st = 1 → (tenant s fn).mode = 0 →
    (tenant s fn).everSealed = false → s.rsp.debug = 0 → rangesOk p = true → s.atu.ctxs.any (fun C => decide (ctxOwner s C.1 = fn) &&
    C.2.valid && decide (fld C.2.root 1 0 = 1)) = false → ctxMode s fn ≠ 1 → s.rsp.entropyOk = true → loadPair s fn = .ok (s1, p0, b0) →
    loadPair s1 fn = .ok (s2, p1, b1) → exec (.sealEnable fn) s = .next (cmdReply (extend (tenantMod s2 fn (fun T =>
    { T with mode := 1, everSealed := true, bound := (requester s fn).session.map (·.id), ranges := bounceRanges 16 p, keysel := 0, seal0 := p0, seal1 := p1, sealSeq := 0 }))
    fn [1]) fn Status.ok (b0 ++ b1))) ∧
  (∀ fn p0 b0 p s s1, cmdOf s fn 0x05 = some p → inReport s fn = false → (tenant s fn).mode = 1 → barred s fn = false → s.rsp.entropyOk
    = true → (tenant s fn).keysel = 0 → (tenant s fn).seal1.valid = false → loadPair s fn = .ok (s1, p0, b0) → exec (.sealRekey fn) s =
    .next (cmdReply (extend (tenantMod s1 fn (fun T => { T with seal1 := p0, keysel := 1 })) fn [3, 1]) fn Status.ok (leBytes 4 1 ++
    b0))) ∧
  (∀ fn tag bs r s, (box s fn).msg = some (2, tag, bs) → (box s fn).outWords = [] → (box s fn).cmd = none → bs.length = 128 → (tenant s
    fn).st = 1 → (tenant s fn).mode = 0 → s.rsp.debug = 0 → s.fuses.lifecycle ≠ 2 → s.rsp.entropyOk = true → r = reportBody s fn
    s.freeCtr (bs.take 32) → exec (.reportRequest fn) s = .next (rspReply (extend (tenantMod (draw s).2 fn (fun T =>
    { T with mode := 2, reportKey := hkdf384 (bs.take 32) (Config.ecdhShared s.freeCtr (bs.drop 32)) reportInfo 32, reportCtr := 0 }))
    fn [2]) fn 2 tag Status.ok (r ++ aliasSign r)))

/-- RSP mailboxes, entropy, the security link and signed tokens. A doorbell collects the message; a message that is not whole in time is answered BAD_DESCRIPTOR; a full reply mailbox drops the reply; entropy fails and recovers, and a wait of more than a second writes a fatal record; a lost security link marks its quadrant; a valid debug or RMA token starts the destroy-then-scrub, and every token redraws the nonce. -/
def Obligations.MailboxesEntropyAndTokens : Prop :=
  (∀ fn s, hostUp (dropHeld s fn) = true → fnExists (dropHeld s fn) fn = true → (box s fn).busy = false → tenantActive s fn = true →
    exec (.mailboxDoorbell fn) s = .next (rspCollect (boxMod (dropHeld s fn) fn (fun b => { b with busy := true })) fn)) ∧
  (∀ fn s, (box s fn).busy = true → (box s fn).msg = none → (box s fn).outWords = [] → (sqmQ s (rspIn fn)).words = [] → exec
    (.mailboxTimeout fn) s = .next (rspReply (sqmSkip s (rspIn fn) 0) fn (fld 0 19 16) (fld 0 31 24) Status.badDescriptor [])) ∧
  (∀ fn s, (box s fn).outWords ≠ [] → exec (.replyMailboxTimeout fn) s = .next (bump (boxMod s fn (fun b =>
    { b with outWords := [], busy := false, msg := none, cmd := none })) Reg.RSP_REPLY_DROP 0)) ∧
  (∀ s, s.rsp.entropyOk = true → exec .drbgReseed s = .next { s with rsp := { s.rsp with reseedAt := s.time } }) ∧
  (∀ s, s.rsp.entropyOk = true → exec (.entropyHealthFail false) s = .next (bump { s with rsp := { s.rsp with entropyOk := false } }
    Reg.RSP_DRBG_WAIT 0)) ∧
  (∀ s, exec (.entropyHealthFail true) s = .next { s with rsp := { s.rsp with entropyOk := true } }) ∧
  (∀ s, s.rsp.entropyOk = false → exec .drbgWaitTimeout s = .next (report { s with rsp := { s.rsp with drbgOk := false } }
    { cls := 0x07, sev := 3, unit := 13, code := 3 })) ∧
  (∀ quad s, quad < 4 → s.rsp.linkLost.getLsbD quad = false → ∃ u, exec (.securityLinkLoss quad) s = .next u ∧ u.rsp.linkLost =
    s.rsp.linkLost ||| BitVec.ofNat 4 (2 ^ quad) ∧ ∀ a, memByte u a = memByte s a ∨ s.cph.streams ≠ []) ∧
  (∀ token s, s.rsp.entropyOk = true → s.boot.firstClaim ≠ none → s.rsp.debug = 0 → s.rsp.scrubFor = 0 → exec (.debugToken token) s =
    .next (if tokenOk s 0 token then tearAll
    { (drawNonce s) with rsp := { (drawNonce s).rsp with debug := 1, debugSeen := max 1 (drawNonce s).rsp.debugSeen } } 1 else drawNonce
    s)) ∧
  (∀ token s, s.rsp.entropyOk = true → s.boot.firstClaim ≠ none → s.rsp.scrubFor = 0 → exec (.rmaToken token) s = .next (if tokenOk s 1
    token then tearAll (drawNonce s) 2 else drawNonce s))

/-- Syurdun scalar arithmetic: what each code leaves in its destination register. For each of the 16 operations of codes 0x10 to 0x1F, of their immediate forms 0x20 to 0x2F, and for MOVI and MOVHI: an executed word writes the result of Table 14-3 to register D (g0 discards it) and moves pc by 8; nothing else of the card changes. -/
def Obligations.TileArithmetic : Prop :=
  (∀ t w s, Executes s t 0x10 w → exec (.tAdd t) s = .next (scalar s t w (opA s t w + opB s t w))) ∧
  (∀ t w s, Executes s t 0x11 w → exec (.tSub t) s = .next (scalar s t w (opA s t w - opB s t w))) ∧
  (∀ t w s, Executes s t 0x12 w → exec (.tMul t) s = .next (scalar s t w (opA s t w * opB s t w))) ∧
  (∀ t w s, Executes s t 0x13 w → exec (.tMulhu t) s = .next (scalar s t w (w64 ((opA s t w).toNat * (opB s t w).toNat / 2 ^ 64)))) ∧
  (∀ t w s, Executes s t 0x14 w → exec (.tAnd t) s = .next (scalar s t w (opA s t w &&& opB s t w))) ∧
  (∀ t w s, Executes s t 0x15 w → exec (.tOr t) s = .next (scalar s t w (opA s t w ||| opB s t w))) ∧
  (∀ t w s, Executes s t 0x16 w → exec (.tXor t) s = .next (scalar s t w (opA s t w ^^^ opB s t w))) ∧
  (∀ t w s, Executes s t 0x17 w → exec (.tShl t) s = .next (scalar s t w (opA s t w <<< ((opB s t w).toNat % 64)))) ∧
  (∀ t w s, Executes s t 0x18 w → exec (.tShr t) s = .next (scalar s t w (opA s t w >>> ((opB s t w).toNat % 64)))) ∧
  (∀ t w s, Executes s t 0x19 w → exec (.tSra t) s = .next (scalar s t w ((opA s t w).sshiftRight ((opB s t w).toNat % 64)))) ∧
  (∀ t w s, Executes s t 0x1A w → exec (.tMins t) s = .next (scalar s t w (if (opA s t w).toInt ≤ (opB s t w).toInt then opA s t w else
    opB s t w))) ∧
  (∀ t w s, Executes s t 0x1B w → exec (.tMaxs t) s = .next (scalar s t w (if (opA s t w).toInt ≤ (opB s t w).toInt then opB s t w else
    opA s t w))) ∧
  (∀ t w s, Executes s t 0x1C w → exec (.tMinu t) s = .next (scalar s t w (if (opA s t w).toNat ≤ (opB s t w).toNat then opA s t w else
    opB s t w))) ∧
  (∀ t w s, Executes s t 0x1D w → exec (.tMaxu t) s = .next (scalar s t w (if (opA s t w).toNat ≤ (opB s t w).toNat then opB s t w else
    opA s t w))) ∧
  (∀ t w s, Executes s t 0x1E w → exec (.tDivu t) s = .next (scalar s t w (if opB s t w = 0 then BitVec.allOnes 64 else w64 ((opA s t
    w).toNat / (opB s t w).toNat)))) ∧
  (∀ t w s, Executes s t 0x1F w → exec (.tRemu t) s = .next (scalar s t w (if opB s t w = 0 then opA s t w else w64 ((opA s t w).toNat %
    (opB s t w).toNat)))) ∧
  (∀ t w s, Executes s t 0x20 w → exec (.tAddi t) s = .next (scalar s t w (opA s t w + iImm w))) ∧
  (∀ t w s, Executes s t 0x21 w → exec (.tSubi t) s = .next (scalar s t w (opA s t w - iImm w))) ∧
  (∀ t w s, Executes s t 0x22 w → exec (.tMuli t) s = .next (scalar s t w (opA s t w * iImm w))) ∧
  (∀ t w s, Executes s t 0x23 w → exec (.tMulhui t) s = .next (scalar s t w (w64 ((opA s t w).toNat * (iImm w).toNat / 2 ^ 64)))) ∧
  (∀ t w s, Executes s t 0x24 w → exec (.tAndi t) s = .next (scalar s t w (opA s t w &&& iImm w))) ∧
  (∀ t w s, Executes s t 0x25 w → exec (.tOri t) s = .next (scalar s t w (opA s t w ||| iImm w))) ∧
  (∀ t w s, Executes s t 0x26 w → exec (.tXori t) s = .next (scalar s t w (opA s t w ^^^ iImm w))) ∧
  (∀ t w s, Executes s t 0x27 w → exec (.tShli t) s = .next (scalar s t w (opA s t w <<< ((iImm w).toNat % 64)))) ∧
  (∀ t w s, Executes s t 0x28 w → exec (.tShri t) s = .next (scalar s t w (opA s t w >>> ((iImm w).toNat % 64)))) ∧
  (∀ t w s, Executes s t 0x29 w → exec (.tSrai t) s = .next (scalar s t w ((opA s t w).sshiftRight ((iImm w).toNat % 64)))) ∧
  (∀ t w s, Executes s t 0x2A w → exec (.tMinsi t) s = .next (scalar s t w (if (opA s t w).toInt ≤ (iImm w).toInt then opA s t w else
    iImm w))) ∧
  (∀ t w s, Executes s t 0x2B w → exec (.tMaxsi t) s = .next (scalar s t w (if (opA s t w).toInt ≤ (iImm w).toInt then iImm w else opA s
    t w))) ∧
  (∀ t w s, Executes s t 0x2C w → exec (.tMinui t) s = .next (scalar s t w (if (opA s t w).toNat ≤ (iImm w).toNat then opA s t w else
    iImm w))) ∧
  (∀ t w s, Executes s t 0x2D w → exec (.tMaxui t) s = .next (scalar s t w (if (opA s t w).toNat ≤ (iImm w).toNat then iImm w else opA s
    t w))) ∧
  (∀ t w s, Executes s t 0x2E w → exec (.tDivui t) s = .next (scalar s t w (if iImm w = 0 then BitVec.allOnes 64 else w64 ((opA s t
    w).toNat / (iImm w).toNat)))) ∧
  (∀ t w s, Executes s t 0x2F w → exec (.tRemui t) s = .next (scalar s t w (if iImm w = 0 then opA s t w else w64 ((opA s t w).toNat %
    (iImm w).toNat)))) ∧
  (∀ t w s, Executes s t 0x30 w → exec (.tMovi t) s = .next (scalar s t w (iImm w))) ∧
  (∀ t w s, Executes s t 0x31 w → exec (.tMovhi t) s = .next (scalar s t w (w64 (w % 2 ^ 32 * 2 ^ 32 + (gReg (tile s t) (iD w)).toNat %
    2 ^ 32))))

/-- Syurdun compares, branches, csrs, waits and END. CMP, CMPI and PLOG write predicate D (p0 discards it); NOP, BR, BRL, JR and TRAP move pc as Table 14-3 says, a misaligned JR traps ALIGN; CSRR reads a csr (the stall counts are free values, log 35) and traps ILLEGAL on a number that is not there; CSRW writes the named bits; WAITT and WAITC wait or go on; END ends the tile's part of the invocation or traps HANDLE. -/
def Obligations.TileComparesAndControl : Prop :=
  (∀ t w s, Executes s t 0x32 w → iFn w = 0 → exec (.tCmp t) s = .next (goesOn s t (setP s t (iD w) (decide (opA s t w = opB s t w))))) ∧
  (∀ t w s, Executes s t 0x32 w → iFn w = 1 → exec (.tCmp t) s = .next (goesOn s t (setP s t (iD w) (decide (opA s t w ≠ opB s t w))))) ∧
  (∀ t w s, Executes s t 0x32 w → iFn w = 2 → exec (.tCmp t) s = .next (goesOn s t (setP s t (iD w) (decide ((opA s t w).toInt < (opB s
    t w).toInt))))) ∧
  (∀ t w s, Executes s t 0x32 w → iFn w = 3 → exec (.tCmp t) s = .next (goesOn s t (setP s t (iD w) (decide ((opB s t w).toInt ≤ (opA s
    t w).toInt))))) ∧
  (∀ t w s, Executes s t 0x32 w → iFn w = 4 → exec (.tCmp t) s = .next (goesOn s t (setP s t (iD w) (decide ((opA s t w).toNat < (opB s
    t w).toNat))))) ∧
  (∀ t w s, Executes s t 0x32 w → iFn w = 5 → exec (.tCmp t) s = .next (goesOn s t (setP s t (iD w) (decide ((opB s t w).toNat ≤ (opA s
    t w).toNat))))) ∧
  (∀ t w s, Executes s t 0x33 w → iFnI w = 0 → exec (.tCmpi t) s = .next (goesOn s t (setP s t (iD w) (decide (opA s t w = iImm w))))) ∧
  (∀ t w s, Executes s t 0x33 w → iFnI w = 1 → exec (.tCmpi t) s = .next (goesOn s t (setP s t (iD w) (decide (opA s t w ≠ iImm w))))) ∧
  (∀ t w s, Executes s t 0x33 w → iFnI w = 2 → exec (.tCmpi t) s = .next (goesOn s t (setP s t (iD w) (decide ((opA s t w).toInt < (iImm
    w).toInt))))) ∧
  (∀ t w s, Executes s t 0x33 w → iFnI w = 3 → exec (.tCmpi t) s = .next (goesOn s t (setP s t (iD w) (decide ((iImm w).toInt ≤ (opA s t
    w).toInt))))) ∧
  (∀ t w s, Executes s t 0x33 w → iFnI w = 4 → exec (.tCmpi t) s = .next (goesOn s t (setP s t (iD w) (decide ((opA s t w).toNat < (iImm
    w).toNat))))) ∧
  (∀ t w s, Executes s t 0x33 w → iFnI w = 5 → exec (.tCmpi t) s = .next (goesOn s t (setP s t (iD w) (decide ((iImm w).toNat ≤ (opA s t
    w).toNat))))) ∧
  (∀ t w s, Executes s t 0x34 w → iFn w = 0 → exec (.tPlog t) s = .next (goesOn s t (setP s t (iD w) (pReg (tile s t) (iA w) && pReg
    (tile s t) (iB w))))) ∧
  (∀ t w s, Executes s t 0x34 w → iFn w = 1 → exec (.tPlog t) s = .next (goesOn s t (setP s t (iD w) (pReg (tile s t) (iA w) || pReg
    (tile s t) (iB w))))) ∧
  (∀ t w s, Executes s t 0x34 w → iFn w = 2 → exec (.tPlog t) s = .next (goesOn s t (setP s t (iD w) (xor (pReg (tile s t) (iA w)) (pReg
    (tile s t) (iB w)))))) ∧
  (∀ t w s, Executes s t 0x34 w → iFn w = 3 → exec (.tPlog t) s = .next (goesOn s t (setP s t (iD w) (pReg (tile s t) (iA w) && !pReg
    (tile s t) (iB w))))) ∧
  (∀ t w s, Executes s t 0x00 w → exec (.tNop t) s = .next (goesOn s t s)) ∧
  (∀ t w s, Executes s t 0x02 w → exec (.tBr t) s = .next (setPc s t (w64 (tile s t).pc + iImm w * 8).toNat)) ∧
  (∀ t w s, Executes s t 0x03 w → exec (.tBrl t) s = .next (setPc (setG s t (iD w) (w64 ((tile s t).pc + 8))) t (w64 (tile s t).pc +
    iImm w * 8).toNat)) ∧
  (∀ t w s, Executes s t 0x04 w → (opA s t w).toNat % 8 = 0 → exec (.tJr t) s = .next (setPc s t (opA s t w).toNat)) ∧
  (∀ t w s, Executes s t 0x04 w → (opA s t w).toNat % 8 ≠ 0 → exec (.tJr t) s = .next (trap s t 3 (opA s t w).toNat)) ∧
  (∀ t w s, Executes s t 0x05 w → exec (.tTrap t) s = .next (trap s t 0x0B (iImm w).toNat)) ∧
  (∀ t w s, Executes s t 0x06 w → iFnI w = 0x010 → exec (.tCsrr t) s = .next (scalar s t w (tile s t).mfmt)) ∧
  (∀ t w s, Executes s t 0x06 w → iFnI w = 0x050 ∨ iFnI w = 0x051 → exec (.tCsrr t) s = .next (goesOn s t (setG (draw s).2 t (iD w)
    (draw s).1))) ∧
  (∀ t w s, Executes s t 0x06 w → csrRead s t (iFnI w) = none → exec (.tCsrr t) s = .next (trap s t 1 0)) ∧
  (∀ t w s, Executes s t 0x07 w → iFnI w = 0x011 → exec (.tCsrw t) s = .next (goesOn s t (tileMod s t (fun T =>
    { T with mshape := opA s t w &&& 0xFFFF7F7F })))) ∧
  (∀ t w s, Executes s t 0x07 w → csrWrite (tile s t) (iFnI w) (opA s t w) = none → exec (.tCsrw t) s = .next (trap s t 1 0)) ∧
  (∀ t w s, Executes s t 0x08 w → (∀ k < 16, nbit w k = true → tagCount (tile s t) k = 0) → exec (.tWaitt t) s = .next (goesOn s t s)) ∧
  (∀ t w s, Executes s t 0x08 w → (∃ k < 16, nbit w k = true ∧ tagCount (tile s t) k ≠ 0) → exec (.tWaitt t) s = .next (s)) ∧
  (∀ t w ch s, Executes s t 0x09 w → ch < 16 → nbit w ch = true → 0 < readable s t ch → (∀ k < ch, nbit w k = true → readable s t k = 0)
    → (∀ k < 16, nbit w k = true → chanBarred s t k = false) → exec (.tWaitc t) s = .next (scalar s t w (w64 ch))) ∧
  (∀ t w s, Executes s t 0x09 w → (∀ k < 16, nbit w k = false) → exec (.tWaitc t) s = .next (trap s t 5 (iImm w).toNat)) ∧
  (∀ t w s, Executes s t 0x01 w → fld (opA s t w) 13 0 = (tile s t).handle → (∀ k < 16, tagCount (tile s t) k = repliesOn (tile s t) k)
    → exec (.tEnd t) s = .next (goesOn s t (endCheck (invLeave (tileStop s t) (tile s t).handle t) (tile s t).handle))) ∧
  (∀ t w s, Executes s t 0x01 w → fld (opA s t w) 13 0 ≠ (tile s t).handle → exec (.tEnd t) s = .next (trap s t 9 (opA s t w).toNat))

/-- Syurdun scalar loads and stores, with the alignment and address traps. An aligned load inside the 4 MiB of the tile writes the extended little-endian value to register D; an aligned store writes the low bytes of D at a + IMM and leaves every other byte of memory as it was; a misaligned access traps ALIGN and one outside the 4 MiB traps ADDR, with the offset as trap value. -/
def Obligations.TileLoadsAndStores : Prop :=
  (∀ t w s, Executes s t 0x40 w → memOff (tile s t) w % 1 = 0 → memOff (tile s t) w + 1 ≤ 2 ^ 22 → anyPoison s (tileAddr t (memOff (tile
    s t) w)) 1 = false → exec (.tLd8u t) s = .next (scalar s t w (w64 (leNat (memBytes s (tileAddr t (memOff (tile s t) w)) 1))))) ∧
  (∀ t w s, Executes s t 0x40 w → memOff (tile s t) w % 1 = 0 → 2 ^ 22 < memOff (tile s t) w + 1 → exec (.tLd8u t) s = .next (trap s t 4
    (memOff (tile s t) w))) ∧
  (∀ t w s, Executes s t 0x41 w → memOff (tile s t) w % 2 = 0 → memOff (tile s t) w + 2 ≤ 2 ^ 22 → anyPoison s (tileAddr t (memOff (tile
    s t) w)) 2 = false → exec (.tLd16u t) s = .next (scalar s t w (w64 (leNat (memBytes s (tileAddr t (memOff (tile s t) w)) 2))))) ∧
  (∀ t w s, Executes s t 0x41 w → memOff (tile s t) w % 2 = 0 → 2 ^ 22 < memOff (tile s t) w + 2 → exec (.tLd16u t) s = .next (trap s t
    4 (memOff (tile s t) w))) ∧
  (∀ t w s, Executes s t 0x41 w → memOff (tile s t) w % 2 ≠ 0 → exec (.tLd16u t) s = .next (trap s t 3 (memOff (tile s t) w))) ∧
  (∀ t w s, Executes s t 0x42 w → memOff (tile s t) w % 4 = 0 → memOff (tile s t) w + 4 ≤ 2 ^ 22 → anyPoison s (tileAddr t (memOff (tile
    s t) w)) 4 = false → exec (.tLd32u t) s = .next (scalar s t w (w64 (leNat (memBytes s (tileAddr t (memOff (tile s t) w)) 4))))) ∧
  (∀ t w s, Executes s t 0x42 w → memOff (tile s t) w % 4 = 0 → 2 ^ 22 < memOff (tile s t) w + 4 → exec (.tLd32u t) s = .next (trap s t
    4 (memOff (tile s t) w))) ∧
  (∀ t w s, Executes s t 0x42 w → memOff (tile s t) w % 4 ≠ 0 → exec (.tLd32u t) s = .next (trap s t 3 (memOff (tile s t) w))) ∧
  (∀ t w s, Executes s t 0x43 w → memOff (tile s t) w % 8 = 0 → memOff (tile s t) w + 8 ≤ 2 ^ 22 → anyPoison s (tileAddr t (memOff (tile
    s t) w)) 8 = false → exec (.tLd64 t) s = .next (scalar s t w (w64 (leNat (memBytes s (tileAddr t (memOff (tile s t) w)) 8))))) ∧
  (∀ t w s, Executes s t 0x43 w → memOff (tile s t) w % 8 = 0 → 2 ^ 22 < memOff (tile s t) w + 8 → exec (.tLd64 t) s = .next (trap s t 4
    (memOff (tile s t) w))) ∧
  (∀ t w s, Executes s t 0x43 w → memOff (tile s t) w % 8 ≠ 0 → exec (.tLd64 t) s = .next (trap s t 3 (memOff (tile s t) w))) ∧
  (∀ t w s, Executes s t 0x44 w → memOff (tile s t) w % 4 = 0 → memOff (tile s t) w + 4 ≤ 2 ^ 22 → anyPoison s (tileAddr t (memOff (tile
    s t) w)) 4 = false → exec (.tLd32s t) s = .next (scalar s t w (iImm (leNat (memBytes s (tileAddr t (memOff (tile s t) w)) 4))))) ∧
  (∀ t w s, Executes s t 0x44 w → memOff (tile s t) w % 4 = 0 → 2 ^ 22 < memOff (tile s t) w + 4 → exec (.tLd32s t) s = .next (trap s t
    4 (memOff (tile s t) w))) ∧
  (∀ t w s, Executes s t 0x44 w → memOff (tile s t) w % 4 ≠ 0 → exec (.tLd32s t) s = .next (trap s t 3 (memOff (tile s t) w))) ∧
  (∀ t w s, Executes s t 0x45 w → memOff (tile s t) w % 1 = 0 → memOff (tile s t) w + 1 ≤ 2 ^ 22 → exec (.tSt8 t) s = .next (goesOn s t
    (tileStore s t (memOff (tile s t) w) (leBytes 1 (gReg (tile s t) (iD w)).toNat))) ∧ ∀ a, ¬ (tileAddr t (memOff (tile s t) w) ≤ a ∧ a
    < tileAddr t (memOff (tile s t) w) + 1) → memByte (goesOn s t (tileStore s t (memOff (tile s t) w) (leBytes 1 (gReg (tile s t) (iD
    w)).toNat))) a = memByte s a) ∧
  (∀ t w s, Executes s t 0x45 w → memOff (tile s t) w % 1 = 0 → 2 ^ 22 < memOff (tile s t) w + 1 → exec (.tSt8 t) s = .next (trap s t 4
    (memOff (tile s t) w))) ∧
  (∀ t w s, Executes s t 0x46 w → memOff (tile s t) w % 2 = 0 → memOff (tile s t) w + 2 ≤ 2 ^ 22 → exec (.tSt16 t) s = .next (goesOn s t
    (tileStore s t (memOff (tile s t) w) (leBytes 2 (gReg (tile s t) (iD w)).toNat))) ∧ ∀ a, ¬ (tileAddr t (memOff (tile s t) w) ≤ a ∧ a
    < tileAddr t (memOff (tile s t) w) + 2) → memByte (goesOn s t (tileStore s t (memOff (tile s t) w) (leBytes 2 (gReg (tile s t) (iD
    w)).toNat))) a = memByte s a) ∧
  (∀ t w s, Executes s t 0x46 w → memOff (tile s t) w % 2 = 0 → 2 ^ 22 < memOff (tile s t) w + 2 → exec (.tSt16 t) s = .next (trap s t 4
    (memOff (tile s t) w))) ∧
  (∀ t w s, Executes s t 0x46 w → memOff (tile s t) w % 2 ≠ 0 → exec (.tSt16 t) s = .next (trap s t 3 (memOff (tile s t) w))) ∧
  (∀ t w s, Executes s t 0x47 w → memOff (tile s t) w % 4 = 0 → memOff (tile s t) w + 4 ≤ 2 ^ 22 → exec (.tSt32 t) s = .next (goesOn s t
    (tileStore s t (memOff (tile s t) w) (leBytes 4 (gReg (tile s t) (iD w)).toNat))) ∧ ∀ a, ¬ (tileAddr t (memOff (tile s t) w) ≤ a ∧ a
    < tileAddr t (memOff (tile s t) w) + 4) → memByte (goesOn s t (tileStore s t (memOff (tile s t) w) (leBytes 4 (gReg (tile s t) (iD
    w)).toNat))) a = memByte s a) ∧
  (∀ t w s, Executes s t 0x47 w → memOff (tile s t) w % 4 = 0 → 2 ^ 22 < memOff (tile s t) w + 4 → exec (.tSt32 t) s = .next (trap s t 4
    (memOff (tile s t) w))) ∧
  (∀ t w s, Executes s t 0x47 w → memOff (tile s t) w % 4 ≠ 0 → exec (.tSt32 t) s = .next (trap s t 3 (memOff (tile s t) w))) ∧
  (∀ t w s, Executes s t 0x48 w → memOff (tile s t) w % 8 = 0 → memOff (tile s t) w + 8 ≤ 2 ^ 22 → exec (.tSt64 t) s = .next (goesOn s t
    (tileStore s t (memOff (tile s t) w) (leBytes 8 (gReg (tile s t) (iD w)).toNat))) ∧ ∀ a, ¬ (tileAddr t (memOff (tile s t) w) ≤ a ∧ a
    < tileAddr t (memOff (tile s t) w) + 8) → memByte (goesOn s t (tileStore s t (memOff (tile s t) w) (leBytes 8 (gReg (tile s t) (iD
    w)).toNat))) a = memByte s a) ∧
  (∀ t w s, Executes s t 0x48 w → memOff (tile s t) w % 8 = 0 → 2 ^ 22 < memOff (tile s t) w + 8 → exec (.tSt64 t) s = .next (trap s t 4
    (memOff (tile s t) w))) ∧
  (∀ t w s, Executes s t 0x48 w → memOff (tile s t) w % 8 ≠ 0 → exec (.tSt64 t) s = .next (trap s t 3 (memOff (tile s t) w)))

/-- Syurdun vector loads, stores, MX conversion and lane moves. VLD, VST, VLDH, VSTH, VLDMX and VSTMX move 128 lanes between a vector register and tile memory, raw, widened, narrowed or in an MX format with its 4 scales; a base that is not 64-byte aligned traps ALIGN and a format above 5 traps OPERAND; stores leave every other byte as it was; VBCAST, VEXT, VINS and VSEL move lanes. -/
def Obligations.TileVectorMoves : Prop :=
  (∀ t w s, Executes s t 0x50 w → memOff (tile s t) w % 64 = 0 → memOff (tile s t) w + 512 ≤ 2 ^ 22 → anyPoison s (tileAddr t (memOff
    (tile s t) w)) 512 = false → exec (.tVld t) s = .next (goesOn s t (setV s t (iD w) ((lanesOf 4 128 (memBytes s (tileAddr t (memOff
    (tile s t) w)) 512)).map (BitVec.ofNat 32))))) ∧
  (∀ t w s, Executes s t 0x51 w → memOff (tile s t) w % 64 = 0 → memOff (tile s t) w + 512 ≤ 2 ^ 22 → ∃ u, exec (.tVst t) s = .next u ∧
    u = goesOn s t (tileStore s t (memOff (tile s t) w) (joined 4 ((vReg (tile s t) (iD w)).map (·.toNat)))) ∧ ∀ a, ¬ (tileAddr t
    (memOff (tile s t) w) ≤ a ∧ a < tileAddr t (memOff (tile s t) w) + 512) → memByte u a = memByte s a) ∧
  (∀ t w s, Executes s t 0x52 w → memOff (tile s t) w % 64 = 0 → memOff (tile s t) w + 256 ≤ 2 ^ 22 → anyPoison s (tileAddr t (memOff
    (tile s t) w)) 256 = false → exec (.tVldh t) s = .next (goesOn s t (setRes s t (iD w) ((lanesOf 2 128 (memBytes s (tileAddr t
    (memOff (tile s t) w)) 256)).map (widenRes (nbit (iFnI w) 0)))))) ∧
  (∀ t w s, Executes s t 0x53 w → memOff (tile s t) w % 64 = 0 → memOff (tile s t) w + 256 ≤ 2 ^ 22 → ∃ u, exec (.tVsth t) s = .next u ∧
    u = goesOn s t (raise (tileStore s t (memOff (tile s t) w) (joined 2 (((vReg (tile s t) (iD w)).map (fun x => narrow (nbit (iFnI w)
    0) x.toNat)).map (·.bits)))) t (allFlags ((vReg (tile s t) (iD w)).map (fun x => narrow (nbit (iFnI w) 0) x.toNat)))) ∧ ∀ a, ¬
    (tileAddr t (memOff (tile s t) w) ≤ a ∧ a < tileAddr t (memOff (tile s t) w) + 256) → memByte u a = memByte s a) ∧
  (∀ t w s, Executes s t 0x50 w → memOff (tile s t) w % 64 ≠ 0 → exec (.tVld t) s = .next (trap s t 3 (memOff (tile s t) w))) ∧
  (∀ t w s, Executes s t 0x51 w → memOff (tile s t) w % 64 ≠ 0 → exec (.tVst t) s = .next (trap s t 3 (memOff (tile s t) w))) ∧
  (∀ t w s, Executes s t 0x52 w → memOff (tile s t) w % 64 ≠ 0 → exec (.tVldh t) s = .next (trap s t 3 (memOff (tile s t) w))) ∧
  (∀ t w s, Executes s t 0x53 w → memOff (tile s t) w % 64 ≠ 0 → exec (.tVsth t) s = .next (trap s t 3 (memOff (tile s t) w))) ∧
  (∀ t w s, Executes s t 0x54 w → 6 ≤ iFn w → exec (.tVldmx t) s = .next (trap s t 5 (iFn w))) ∧
  (∀ t w s, Executes s t 0x55 w → 6 ≤ iFn w → exec (.tVstmx t) s = .next (trap s t 5 (iFn w))) ∧
  (∀ t w s, Executes s t 0x54 w → iFn w < 6 → (opA s t w).toNat % 64 = 0 → (opA s t w).toNat + packBytes (iFn w) ≤ 2 ^ 22 → (opB s t
    w).toNat % 4 = 0 → (opB s t w).toNat + 4 ≤ 2 ^ 22 → anyPoison s (tileAddr t (opA s t w).toNat) (packBytes (iFn w)) = false →
    anyPoison s (tileAddr t (opB s t w).toNat) 4 = false → exec (.tVldmx t) s = .next (goesOn s t (setV s t (iD w) ((List.range 128).map
    (fun i => BitVec.ofNat 32 (toF32 (mxValue (iFn w) (packedGet (fmtBits (iFn w)) (memBytes s (tileAddr t (opA s t w).toNat) (packBytes
    (iFn w))) i) (leAt (memBytes s (tileAddr t (opB s t w).toNat) 4) (i / 32) 1))).bits))))) ∧
  (∀ t w s, Executes s t 0x55 w → iFn w < 6 → (opA s t w).toNat % 64 = 0 → (opA s t w).toNat + packBytes (iFn w) ≤ 2 ^ 22 → (opB s t
    w).toNat % 4 = 0 → (opB s t w).toNat + 4 ≤ 2 ^ 22 → exec (.tVstmx t) s = .next (goesOn s t (tileStore (tileStore s t (opA s t
    w).toNat (packed (fmtBits (iFn w)) ((List.range 4).map (fun k => (mxBlock (iFn w) ((((vReg (tile s t) (iD w)).map (fun x => f32
    x.toNat)).drop (32 * k)).take 32)).2)).flatten)) t (opB s t w).toNat (joined 1 ((List.range 4).map (fun k => (mxBlock (iFn w)
    ((((vReg (tile s t) (iD w)).map (fun x => f32 x.toNat)).drop (32 * k)).take 32)).1)))))) ∧
  (∀ t w s, Executes s t 0x6E w → exec (.tVbcast t) s = .next (goesOn s t (setV s t (iD w) (List.replicate 128 ((opA s t w).setWidth
    32))))) ∧
  (∀ t w s, Executes s t 0x6F w → exec (.tVext t) s = .next (scalar s t w ((vLane (tile s t) (iA w) (iFn w)).setWidth 64))) ∧
  (∀ t w s, Executes s t 0x70 w → exec (.tVins t) s = .next (goesOn s t (tileMod s t (fun T =>
    { T with v := tset (fun _ => 0) T.v (iD w * 128 + iFn w) ((opA s t w).setWidth 32) })))) ∧
  (∀ t w s, Executes s t 0x6D w → exec (.tVsel t) s = .next (goesOn s t (setV s t (iD w) ((List.range 128).map (fun i => if vLane (tile
    s t) (iC w) i = 0 then vLane (tile s t) (iB w) i else vLane (tile s t) (iA w) i)))))

/-- Syurdun vector arithmetic, reductions, compares and conversions. Each vector operation gives lane by lane the result of its binary32 or 32-bit integer operation and raises its sticky flags; VRED reduces the 128 lanes in the fixed tree of seven levels into a general register; the four transcendental operations are fixed functions of their lane. -/
def Obligations.TileVectorArithmetic : Prop :=
  (∀ t w s, Executes s t 0x60 w → exec (.tVadd t) s = .next (goesOn s t (setRes s t (iD w) (List.zipWith (fun a b => f32Add a.toNat
    b.toNat) (vReg (tile s t) (iA w)) (vReg (tile s t) (iB w)))))) ∧
  (∀ t w s, Executes s t 0x61 w → exec (.tVsub t) s = .next (goesOn s t (setRes s t (iD w) (List.zipWith (fun a b => f32Sub a.toNat
    b.toNat) (vReg (tile s t) (iA w)) (vReg (tile s t) (iB w)))))) ∧
  (∀ t w s, Executes s t 0x62 w → exec (.tVmul t) s = .next (goesOn s t (setRes s t (iD w) (List.zipWith (fun a b => f32Mul a.toNat
    b.toNat) (vReg (tile s t) (iA w)) (vReg (tile s t) (iB w)))))) ∧
  (∀ t w s, Executes s t 0x64 w → exec (.tVmax t) s = .next (goesOn s t (setRes s t (iD w) (List.zipWith (fun a b => f32MinMax true
    a.toNat b.toNat) (vReg (tile s t) (iA w)) (vReg (tile s t) (iB w)))))) ∧
  (∀ t w s, Executes s t 0x65 w → exec (.tVmin t) s = .next (goesOn s t (setRes s t (iD w) (List.zipWith (fun a b => f32MinMax false
    a.toNat b.toNat) (vReg (tile s t) (iA w)) (vReg (tile s t) (iB w)))))) ∧
  (∀ t w s, Executes s t 0x63 w → exec (.tVfma t) s = .next (goesOn s t (setRes s t (iD w) ((List.range 128).map (fun i => f32Fma (vLane
    (tile s t) (iA w) i).toNat (vLane (tile s t) (iB w) i).toNat (vLane (tile s t) (iC w) i).toNat))))) ∧
  (∀ t w s, Executes s t 0x66 w → exec (.tVexp2 t) s = .next (goesOn s t (setRes s t (iD w) ((vReg (tile s t) (iA w)).map (transLane
    0x66))))) ∧
  (∀ t w s, Executes s t 0x67 w → exec (.tVlog2 t) s = .next (goesOn s t (setRes s t (iD w) ((vReg (tile s t) (iA w)).map (transLane
    0x67))))) ∧
  (∀ t w s, Executes s t 0x68 w → exec (.tVrcp t) s = .next (goesOn s t (setRes s t (iD w) ((vReg (tile s t) (iA w)).map (transLane
    0x68))))) ∧
  (∀ t w s, Executes s t 0x69 w → exec (.tVrsq t) s = .next (goesOn s t (setRes s t (iD w) ((vReg (tile s t) (iA w)).map (transLane
    0x69))))) ∧
  (∀ t w s, Executes s t 0x6A w → iFn w = 0 → exec (.tVred t) s = .next (goesOn s t (raise (setG s t (iD w) (w64 ((((redTree (f32Add) 7
    ((vReg (tile s t) (iA w)).map (fun x => ⟨x.toNat, 0⟩))).head?).getD ⟨0, 0⟩).bits))) t (((redTree (f32Add) 7 ((vReg (tile s t) (iA
    w)).map (fun x => ⟨x.toNat, 0⟩))).head?).getD ⟨0, 0⟩).flags))) ∧
  (∀ t w s, Executes s t 0x6A w → iFn w = 1 → exec (.tVred t) s = .next (goesOn s t (raise (setG s t (iD w) (w64 ((((redTree (f32MinMax
    true) 7 ((vReg (tile s t) (iA w)).map (fun x => ⟨x.toNat, 0⟩))).head?).getD ⟨0, 0⟩).bits))) t (((redTree (f32MinMax true) 7 ((vReg
    (tile s t) (iA w)).map (fun x => ⟨x.toNat, 0⟩))).head?).getD ⟨0, 0⟩).flags))) ∧
  (∀ t w s, Executes s t 0x6A w → iFn w = 2 → exec (.tVred t) s = .next (goesOn s t (raise (setG s t (iD w) (w64 ((((redTree (f32MinMax
    false) 7 ((vReg (tile s t) (iA w)).map (fun x => ⟨x.toNat, 0⟩))).head?).getD ⟨0, 0⟩).bits))) t (((redTree (f32MinMax false) 7 ((vReg
    (tile s t) (iA w)).map (fun x => ⟨x.toNat, 0⟩))).head?).getD ⟨0, 0⟩).flags))) ∧
  (∀ t w s, Executes s t 0x6B w → iFn w = 0 → exec (.tVint t) s = .next (goesOn s t (setV s t (iD w) (List.zipWith (fun (a b : W32) => a
    + b) (vReg (tile s t) (iA w)) (vReg (tile s t) (iB w)))))) ∧
  (∀ t w s, Executes s t 0x6B w → iFn w = 1 → exec (.tVint t) s = .next (goesOn s t (setV s t (iD w) (List.zipWith (fun (a b : W32) => a
    - b) (vReg (tile s t) (iA w)) (vReg (tile s t) (iB w)))))) ∧
  (∀ t w s, Executes s t 0x6B w → iFn w = 2 → exec (.tVint t) s = .next (goesOn s t (setV s t (iD w) (List.zipWith (fun (a b : W32) => a
    &&& b) (vReg (tile s t) (iA w)) (vReg (tile s t) (iB w)))))) ∧
  (∀ t w s, Executes s t 0x6B w → iFn w = 3 → exec (.tVint t) s = .next (goesOn s t (setV s t (iD w) (List.zipWith (fun (a b : W32) => a
    ||| b) (vReg (tile s t) (iA w)) (vReg (tile s t) (iB w)))))) ∧
  (∀ t w s, Executes s t 0x6B w → iFn w = 4 → exec (.tVint t) s = .next (goesOn s t (setV s t (iD w) (List.zipWith (fun (a b : W32) => a
    ^^^ b) (vReg (tile s t) (iA w)) (vReg (tile s t) (iB w)))))) ∧
  (∀ t w s, Executes s t 0x6B w → iFn w = 5 → exec (.tVint t) s = .next (goesOn s t (setV s t (iD w) (List.zipWith (fun (a b : W32) => a
    <<< (b.toNat % 32)) (vReg (tile s t) (iA w)) (vReg (tile s t) (iB w)))))) ∧
  (∀ t w s, Executes s t 0x6B w → iFn w = 6 → exec (.tVint t) s = .next (goesOn s t (setV s t (iD w) (List.zipWith (fun (a b : W32) => a
    >>> (b.toNat % 32)) (vReg (tile s t) (iA w)) (vReg (tile s t) (iB w)))))) ∧
  (∀ t w s, Executes s t 0x6B w → iFn w = 7 → exec (.tVint t) s = .next (goesOn s t (setV s t (iD w) (List.zipWith (fun (a b : W32) =>
    a.sshiftRight (b.toNat % 32)) (vReg (tile s t) (iA w)) (vReg (tile s t) (iB w)))))) ∧
  (∀ t w s, Executes s t 0x6B w → iFn w = 8 → exec (.tVint t) s = .next (goesOn s t (setV s t (iD w) (List.zipWith (fun (a b : W32) => a
    * b) (vReg (tile s t) (iA w)) (vReg (tile s t) (iB w)))))) ∧
  (∀ t w s, Executes s t 0x6C w → exec (.tVcmp t) s = .next (goesOn s t (setRes s t (iD w) (List.zipWith (fun a b => vcmpOp (iFn w)
    a.toNat b.toNat) (vReg (tile s t) (iA w)) (vReg (tile s t) (iB w)))))) ∧
  (∀ t w s, Executes s t 0x71 w → exec (.tVcvt t) s = .next (goesOn s t (setRes s t (iD w) ((vReg (tile s t) (iA w)).map (fun x => if
    iFn w = 0 then f32ToInt x.toNat else intToF32 x.toNat)))))

/-- Syurdun matrix instructions: MMA, MSTORE, MLOAD, MZERO and the row moves. MMA with operands in range adds to every element of the shape its blocks in ascending order; formats that do not go together and a shape out of range trap OPERAND; MSTORE and MLOAD move the rows of the shape in the format of FN; MZERO clears one accumulator; MROW and MSETROW move a row, and a row above 95 traps OPERAND. -/
def Obligations.TileMatrix : Prop :=
  (∀ t w s, Executes s t 0x80 w → exec (.tMzero t) s = .next (goesOn s t (tileMod s t (fun T =>
    { T with acc := T.acc.filter (fun e => e.1 / 9216 ≠ iD w) })))) ∧
  (∀ t w s, Executes s t 0x84 w → iFn w ≤ 95 → exec (.tMrow t) s = .next (goesOn s t (setV s t (iD w) ((List.range 128).map (fun j => if
    j < 96 then BitVec.ofNat 32 (accGet (tile s t) (iA w) (iFn w) j) else 0))))) ∧
  (∀ t w s, Executes s t 0x84 w → 95 < iFn w → exec (.tMrow t) s = .next (trap s t 5 (iFn w))) ∧
  (∀ t w s, Executes s t 0x85 w → iFn w ≤ 95 → exec (.tMsetrow t) s = .next (goesOn s t (accRow s t (iD w) (iFn w) ((List.range 96).map
    (fun j => (vLane (tile s t) (iA w) j).toNat))))) ∧
  (∀ t w s, Executes s t 0x85 w → 95 < iFn w → exec (.tMsetrow t) s = .next (trap s t 5 (iFn w))) ∧
  (∀ t w s, Executes s t 0x82 w → mnOk (tile s t) = true → fld (tile s t).ostride 21 0 % 16 = 0 → shapeN (tile s t) * moveSize (iFn w) ≤
    fld (tile s t).ostride 21 0 → stripesIn (opB s t w).toNat (fld (tile s t).ostride 21 0) (shapeN (tile s t) * moveSize (iFn w))
    (shapeM (tile s t)) = true → exec (.tMstore t) s = .next (goesOn s t ((List.range (shapeM (tile s t))).foldl (fun u i => tileStore u
    t ((opB s t w).toNat + i * fld (tile s t).ostride 21 0) (joined (moveSize (iFn w)) ((List.range (shapeN (tile s t))).map (fun j =>
    if iFn w = 0 then accGet (tile s t) (iA w) i j else (narrow (decide (iFn w = 2)) (accGet (tile s t) (iA w) i j)).bits)))) s))) ∧
  (∀ t w s, Executes s t 0x83 w → mnOk (tile s t) = true → fld (tile s t).ostride 21 0 % 16 = 0 → shapeN (tile s t) * moveSize (iFn w) ≤
    fld (tile s t).ostride 21 0 → stripesIn (opA s t w).toNat (fld (tile s t).ostride 21 0) (shapeN (tile s t) * moveSize (iFn w))
    (shapeM (tile s t)) = true → stripesBad s t (opA s t w).toNat (fld (tile s t).ostride 21 0) (shapeN (tile s t) * moveSize (iFn w))
    (shapeM (tile s t)) = false → exec (.tMload t) s = .next (goesOn s t ((List.range (shapeM (tile s t))).foldl (fun u i => accRow u t
    (iD w) i (let row := lanesOf (moveSize (iFn w)) (shapeN (tile s t)) (memBytes s (tileAddr t ((opA s t w).toNat + i * fld (tile s
    t).ostride 21 0)) (shapeN (tile s t) * moveSize (iFn w))); if iFn w = 0 then row else row.map (widen (decide (iFn w = 2))))) s))) ∧
  (∀ t w s, Executes s t 0x82 w → mnOk (tile s t) = false → exec (.tMstore t) s = .next (trap s t 5 (tile s t).mshape.toNat)) ∧
  (∀ t w s, Executes s t 0x83 w → mnOk (tile s t) = false → exec (.tMload t) s = .next (trap s t 5 (tile s t).mshape.toNat)) ∧
  (∀ t w s, Executes s t 0x81 w → MmaOperands s t w → exec (.tMma t) s = .next (goesOn s t ((List.range (shapeM (tile s t))).foldl (fun
    u i => accRow u t (iD w) i ((List.range (shapeN (tile s t))).map (fun j => blocksFrom (fmtA s t) (fmtB s t) (rowA s t w i) (colB s t
    w j) (scaleA s t w i) (scaleB s t w j) (shapeK (tile s t) / 32) 0 (accGet (tile s t) (iD w) i j)))) s))) ∧
  (∀ t w s, Executes s t 0x81 w → fmtPair (fmtA s t) (fmtB s t) = false → exec (.tMma t) s = .next (trap s t 5 (tile s t).mfmt.toNat))

/-- Syurdun DMA: DMAX enters the queue and starts its first burst, and a burst completes. DMAX with operands in range raises the count of its tag, enters the queue of 16 and issues its first burst, one row or dcount strided rows; a length above 4 MiB traps OPERAND; a completed burst writes memory, the bus or the tile with its poison, records POISONED on the tag without a trap, and goes on with the next burst. -/
def Obligations.TileDma : Prop :=
  (∀ t w s, Executes s t 0x90 w → (opC s t w).toNat ≠ 0 → (opC s t w).toNat ≤ 2 ^ 22 → (tile s t).dmas.length < 16 → nbit (iFn w) 5 =
    false → (opA s t w).toNat + (opC s t w).toNat ≤ 2 ^ 22 → exec (.tDmax t) s = .next (burstStart (goesOn s t (tileMod (tagMod s t (iFn
    w % 16) (· + 1)) t (fun T =>
    { T with nextId := T.nextId + 1, dmas := T.dmas ++ [{ id := (tile s t).nextId, tag := iFn w % 16, toCtx := nbit (iFn w) 4, toff := (opA s t w).toNat, va := (opB s t w).toNat, len := (opC s t w).toNat, rows := 1, tstride := 0, cstride := 0 }] })))
    t (tile s t).nextId)) ∧
  (∀ t w s, Executes s t 0x90 w → (opC s t w).toNat ≠ 0 → (opC s t w).toNat ≤ 2 ^ 22 → (tile s t).dmas.length < 16 → nbit (iFn w) 5 =
    true → (tile s t).dcount.toNat ≠ 0 → (opA s t w).toNat + ((tile s t).dcount.toNat - 1) * (tile s t).dtstride.toNat + (opC s t
    w).toNat ≤ 2 ^ 22 → exec (.tDmax t) s = .next (burstStart (goesOn s t (tileMod (tagMod s t (iFn w % 16) (· + 1)) t (fun T =>
    { T with nextId := T.nextId + 1, dmas := T.dmas ++ [{ id := (tile s t).nextId, tag := iFn w % 16, toCtx := nbit (iFn w) 4, toff := (opA s t w).toNat, va := (opB s t w).toNat, len := (opC s t w).toNat, rows := (tile s t).dcount.toNat, tstride := (tile s t).dtstride.toNat, cstride := (tile s t).dcstride.toNat }] })))
    t (tile s t).nextId)) ∧
  (∀ t w s, Executes s t 0x90 w → 2 ^ 22 < (opC s t w).toNat → exec (.tDmax t) s = .next (trap s t 5 (opC s t w).toNat)) ∧
  (∀ t id bus d b s s1, dmaOf s t id = some d → d.burst = some b → leavesDevice b.xfer.pieces = false → d.toCtx = true → finishWrite s
    (tileOwner s t) b.xfer b.bytes b.poison = (s1, true) → exec (.tDmaBurstComplete t id bus) s = .next (burstDone s1 t id (if b.poison
    = [] then 0 else Status.poisoned))) ∧
  (∀ t id bus d b s s1 x, dmaOf s t id = some d → d.burst = some b → leavesDevice b.xfer.pieces = false → d.toCtx = false → recordsThere
    s b.xfer.pieces = true → finishRead s (tileOwner s t) b.xfer bus = (s1, .ok x) → exec (.tDmaBurstComplete t id bus) s = .next
    (burstDone (tileStore s1 t b.toff x) t id (if recordsBad s b.xfer.pieces then Status.authFail else 0))) ∧
  (∀ t id bus d b s s1 x m, dmaOf s t id = some d → d.burst = some b → leavesDevice b.xfer.pieces = false → d.toCtx = false →
    recordsThere s b.xfer.pieces = true → finishRead s (tileOwner s t) b.xfer bus = (s1, .poison x m) → exec (.tDmaBurstComplete t id
    bus) s = .next (burstDone (tileStore s1 t b.toff x m) t id Status.poisoned)) ∧
  (∀ t id bus d s, dmaOf s t id = some d → d.burst = none → exec (.tDmaBurstComplete t id bus) s = .next (burstStart s t id))

/-- Syurdun DATOM on device memory and on the bus, and the return of an AtomicOp. DATOM on a local address writes the new value and leaves the old one in D; on a bus address it sends an AtomicOp and waits; a misaligned address traps ALIGN; the AtomicOp that returns leaves the old value in D and lets the tile go on, or continues the transport message that asked for it. -/
def Obligations.TileAtomics : Prop :=
  (∀ t w p x s s1 s2 s3 d, Executes s t 0x91 w → (opA s t w).toNat % 8 = 0 → issue s (tileOwner s t) (kCtx s (tile s t).kernel) (opA s t
    w).toNat 8 0 { rd := true, wr := true, fabric := true } = (s1, .ok x) → x.pieces = [(.loc p, 8)] → inAperture s.variant p = false →
    finishRead s1 (tileOwner s t) x none = (s2, .ok d) → writePieces s2 (tileOwner s t) x.pieces (leBytes 8 (atomicNew (iFn w) (w64
    (leNat d)) (opB s t w) (opC s t w)).toNat) [] = (s3, true) → exec (.tDatom t) s = .next (goesOn s t (setG s3 t (iD w) (w64 (leNat
    d))))) ∧
  (∀ t w p c f x s s1, Executes s t 0x91 w → (opA s t w).toNat % 8 = 0 → issue s (tileOwner s t) (kCtx s (tile s t).kernel) (opA s t
    w).toNat 8 0 { rd := true, wr := true, fabric := true } = (s1, .ok x) → x.pieces = [(.bus p c f, 8)] → iFn w < 3 → sealed s1
    (tileOwner s t) = false → exec (.tDatom t) s = .next (emit (tileMod s1 t (fun T =>
    { T with atomDest := some (iD w), atomXfer := x })) (.atomicOp (requesterFn (tileOwner s t)) (.tileAtomic t) p (decide (iFn w = 2))
    (decide (iFn w = 1)) (opB s t w) (opC s t w)))) ∧
  (∀ t w s, Executes s t 0x91 w → (opA s t w).toNat % 8 ≠ 0 → exec (.tDatom t) s = .next (trap s t 3 (opA s t w).toNat)) ∧
  (∀ t d v s, (tile s t).atomXfer.pieces ≠ [] → (tile s t).stopping = false → (tile s t).atomDest = some d → exec (.atomicopComplete
    (.tile t) (some v)) s = .next (setPc (setG (tileMod (endXfer s (tile s t).atomXfer) t (fun T =>
    { T with atomDest := none, atomXfer := {} })) t d v) t ((tile s t).pc + 8))) ∧
  (∀ c m r s, exec (.atomicopComplete (.peer c m) r) s = .next (atomicReturns s c m r))

/-- Syurdun messages, replies and channel reads. SEND to a tile or to an aperture of this device takes its place in the send queue, a refused one records LOCAL_PROTECTION and counts, one to another node is posted on its channel; a reply is accepted, is too long, or traps HANDLE; an enqueued message enters its channel whole; RECV, RECVM and POLL read their channel, wait, or trap ARG_OVERRUN or PROT. -/
def Obligations.TileMessages : Prop :=
  (∀ t w s, Executes s t 0xA0 w → nfld w 21 20 = 0 → (opB s t w).toNat < 256 → (opC s t w).toNat ≠ 0 → (opC s t w).toNat ≤ 512 → (opA s
    t w).toNat % 8 = 0 → (opA s t w).toNat + 8 * (opC s t w).toNat ≤ 2 ^ 22 → anyPoison s (tileAddr t (opA s t w).toNat) (8 * (opC s t
    w).toNat) = false → msgRefused s (tileOwner s t) (opB s t w).toNat (sendCh w) = false → ((tile s t).sends.filter (fun x => decide
    (x.kind = 0))).length < 8 → exec (.tSendTile t) s = .next (goesOn s t (queueSend s t (sendTag w) 0 (opB s t w).toNat (sendCh w)
    (bytesToWords (opC s t w).toNat (memBytes s (tileAddr t (opA s t w).toNat) (8 * (opC s t w).toNat)))))) ∧
  (∀ t w s, Executes s t 0xA0 w → nfld w 21 20 = 0 → (opB s t w).toNat < 256 → (opC s t w).toNat ≠ 0 → (opC s t w).toNat ≤ 512 → (opA s
    t w).toNat % 8 = 0 → (opA s t w).toNat + 8 * (opC s t w).toNat ≤ 2 ^ 22 → anyPoison s (tileAddr t (opA s t w).toNat) (8 * (opC s t
    w).toNat) = false → msgRefused s (tileOwner s t) (opB s t w).toNat (sendCh w) = true → exec (.tSendTile t) s = .next (goesOn s t
    (bumpFn (tagStatus s t (sendTag w) Status.localProtection) Reg.TGD_MSG_REFUSED (tileOwner s t)))) ∧
  (∀ t w s s1 a n, Executes s t 0xA0 w → nfld w 21 20 = 1 → (opC s t w).toNat ≠ 0 → (opC s t w).toNat ≤ 512 → (opA s t w).toNat % 8 = 0
    → (opA s t w).toNat + 8 * (opC s t w).toNat ≤ 2 ^ 22 → anyPoison s (tileAddr t (opA s t w).toNat) (8 * (opC s t w).toNat) = false →
    dmaXlate s (tileOwner s t) (kCtx s (tile s t).kernel) (opB s t w).toNat 1 { wr := true, fabric := true } = (s1, .ok [(.loc a, n)]) →
    inAperture s.variant a = true → msgRefused s1 (tileOwner s1 t) (apertureOf a).1 (apertureOf a).2 = false → ((tile s t).sends.filter
    (fun x => decide (x.kind = 0))).length < 8 → exec (.tSendAddr t) s = .next (goesOn s t (queueSend s1 t (sendTag w) 0 (apertureOf
    a).1 (apertureOf a).2 (bytesToWords (opC s t w).toNat (memBytes s (tileAddr t (opA s t w).toNat) (8 * (opC s t w).toNat)))))) ∧
  (∀ t w s s1 a n r, Executes s t 0xA0 w → nfld w 21 20 = 1 → (opC s t w).toNat ≠ 0 → (opC s t w).toNat ≤ 512 → (opA s t w).toNat % 8 =
    0 → (opA s t w).toNat + 8 * (opC s t w).toNat ≤ 2 ^ 22 → anyPoison s (tileAddr t (opA s t w).toNat) (8 * (opC s t w).toNat) = false
    → dmaXlate s (tileOwner s t) (kCtx s (tile s t).kernel) (opB s t w).toNat 1 { wr := true, fabric := true } = (s1, .ok [(.fab a, n)])
    → r = queueSend s1 t (sendTag w) 1 a 0 [] → chanOpen s1 (fabChannel a) = true → exec (.tSendAddr t) s = .next (goesOn s t (postMsg r
    (fabChannel a) (tileMsg r t (tile s t).nextId (fabChannel a) 0x0A (memBytes s (tileAddr t (opA s t w).toNat) (8 * (opC s t
    w).toNat)) (8 * (opC s t w).toNat) a)))) ∧
  (∀ t w s s1 ps i, Executes s t 0xA0 w → nfld w 21 20 = 2 → (opC s t w).toNat ≤ 2 ^ 24 → fld (opB s t w) 13 0 = (tile s t).handle →
    dmaXlate s (tileOwner s t) (kCtx s (tile s t).kernel) (opA s t w).toNat (opC s t w).toNat { rd := true } = (s1, .ok ps) →
    piecesOwned s1 (tileOwner s t) ps = true → invocation s1 (tile s t).handle = some i → (opC s t w).toNat ≤ i.replyMax → i.reply =
    none → i.status = none → exec (.tSendReply t) s = .next (goesOn s t (sendReply s1 t (tile s t) (sendTag w) (tile s t).handle (opA s
    t w).toNat (opC s t w).toNat i))) ∧
  (∀ t w s s1 ps i, Executes s t 0xA0 w → nfld w 21 20 = 2 → (opC s t w).toNat ≤ 2 ^ 24 → fld (opB s t w) 13 0 = (tile s t).handle →
    dmaXlate s (tileOwner s t) (kCtx s (tile s t).kernel) (opA s t w).toNat (opC s t w).toNat { rd := true } = (s1, .ok ps) →
    piecesOwned s1 (tileOwner s t) ps = true → invocation s1 (tile s t).handle = some i → i.replyMax < (opC s t w).toNat → exec
    (.tSendReply t) s = .next (goesOn s t (tagStatus s1 t (sendTag w) Status.localLength))) ∧
  (∀ t w s, Executes s t 0xA0 w → nfld w 21 20 = 2 → (opC s t w).toNat ≤ 2 ^ 24 → fld (opB s t w) 13 0 ≠ (tile s t).handle → exec
    (.tSendReply t) s = .next (trap s t 9 (fld (opB s t w) 13 0))) ∧
  (∀ t id m s s1, (tile s t).sends.find? (fun x => decide (x.id = id ∧ x.kind = 0)) = some m → ((tile s t).sends.find? (fun x => decide
    (x.kind = 0 ∧ x.target = m.target ∧ x.ch = m.ch))).map (·.id) = some id → msgRefused s (tileOwner s t) m.target m.ch = false →
    chanReserve s (tileQ m.target m.ch) m.words.length = some s1 → exec (.tTileMessageEnqueue t id) s = .next (tagMod (tileMod (chanPut
    s1 (tileQ m.target m.ch) (m.words.map (fun x => ⟨x, 0⟩))) t (fun T => { T with sends := T.sends.filter (fun x => x.id ≠ id) })) t
    m.tag (· - 1))) ∧
  (∀ t w bad s, Executes s t 0xA1 w → chanBarred s t (iFn w) = false → 0 < readable s t (iFn w) → (chanTake s t (iFn w) bad).2.tag ≠ 2 →
    exec (.tChannelRecv t bad) s = .next (goesOn s t (setG (chanTake s t (iFn w) bad).1 t (iD w) (chanTake s t (iFn w) bad).2.word))) ∧
  (∀ t w bad s, Executes s t 0xA1 w → chanBarred s t (iFn w) = false → readable s t (iFn w) = 0 → exec (.tChannelRecv t bad) s = .next
    (if iFn w = (tile s t).ch then trap s t 0x0A 0 else s)) ∧
  (∀ t w bad s u, Executes s t 0xA2 w → chanBarred s t (iFn w) = false → (opB s t w).toNat ≠ 0 → (opB s t w).toNat ≤ 65536 → (opA s t
    w).toNat % 8 = 0 → (opA s t w).toNat + 8 * (opB s t w).toNat ≤ 2 ^ 22 → (tile s t).recvmDone ≤ (opB s t w).toNat → (opB s t w).toNat
    - (tile s t).recvmDone ≤ readable s t (iFn w) → recvWords s t (iFn w) bad ((opB s t w).toNat - (tile s t).recvmDone) ((opA s t
    w).toNat + 8 * (tile s t).recvmDone) = (u, false) → exec (.tRecvm t bad) s = .next (goesOn s t (tileMod u t (fun T =>
    { T with recvmDone := 0 })))) ∧
  (∀ t w s, Executes s t 0xA3 w → chanBarred s t (iFn w) = false → exec (.tPoll t) s = .next (scalar s t w (w64 (readable s t (iFn
    w))))) ∧
  (∀ t w s, Executes s t 0xA3 w → chanBarred s t (iFn w) = true → exec (.tPoll t) s = .next (trap s t 7 (iFn w)))

/-- A step runs the command at the front of the queue with the queue's rest; an idle block ticks. Step of a state with a command in front is exec of that command on the state with the queue's rest; on an empty queue one piece of ready work runs on, and with none FEV_TIME counts one nanosecond (log 2, the model's choice of when time passes); the table gives no row bits, so no word spells a command. -/
def Obligations.StepRunsTheFrontCommand : Prop :=
  (∀ c rest s, s.pending = c :: rest → step s = exec c { s with pending := rest }) ∧
  (∀ s, s.pending = [] → s.atu.ready = [] → step s = .next { s with time := s.time + 1 }) ∧
  (∀ w r s, s.pending = [] → s.atu.ready = w :: r → step s = .next (runWaiter { s with atu := { s.atu with ready := r } } w)) ∧
  (∀ nbits w s, State.withFetchWord s nbits w = s)

/-- Every command of the table answers a next state, whatever its operands and the state. No command faults and none is refused: for every command and every state exec answers a next state. -/
def Obligations.EveryCommandAnswers : Prop :=
  ∀ i s, ∃ t, exec i s = .next t

/-- A command changes neither the commands that wait behind it nor the variant. The commands waiting in the queue stay as they are, in order, and the variant of the device never changes, whichever command runs. -/
def Obligations.QueueAndVariantKept : Prop :=
  ∀ i s t, exec i s = .next t → t.pending = s.pending ∧ t.variant = s.variant

/-- Every step keeps the canonical forms of memory, block states, registers and owners. From every state whose byte table, block table, register file and owner table are canonical (keys rising, no entry equal to its default), whatever step runs, the next state's are canonical too. -/
def Obligations.StepKeepsCanonicalForms : Prop :=
  ∀ s t, Canon s → step s = .next t → Canon t

/-- What reset leaves: stage STANDBY, every queue, connection, link, region and key slot idle, and the printed reset values. Right after reset the block is in STANDBY at time 0 with the main domain off; no byte of memory is listed and unlisted memory reads 0 (the model's choice, log 3); queues are DISABLED, connections in RESET, links OFF, regions FREE, key slots EMPTY, tenants 1 to 252 EMPTY and every resource owned by tenant 0; the registers named read the reset values the spec prints. -/
def Obligations.ResetLeaves : Prop :=
  (Canon State.reset) ∧
  (State.reset.pending = [] ∧ State.reset.out = []) ∧
  (State.reset.boot.stage = .standby ∧ State.reset.time = 0 ∧ State.reset.pw.stby = true ∧ State.reset.pw.mainOn = false) ∧
  (∀ a, memByte State.reset a = 0) ∧
  (∀ q, (queue State.reset q).st = 0) ∧
  (∀ c, (conn State.reset c).st = 0) ∧
  (∀ l, (link State.reset l).st = 0) ∧
  (∀ t, 0 < t → t < 253 → (tenant State.reset t).st = 0) ∧
  (∀ k i, owner State.reset k i = 0) ∧
  (∀ r, (region State.reset r).state = 0) ∧
  (∀ k, (keySlot State.reset k).st = 0) ∧
  (reg State.reset Reg.MGT_PWR_CAP 0 = 0x5DC ∧
    reg State.reset Reg.MGT_TILE_FREQ 0 = 0x708 ∧
    reg State.reset Reg.HIF_ABI_OFFER 0 = 0x6 ∧
    reg State.reset Reg.ATU_RGN_COUNT 0 = 0x100000 ∧
    reg State.reset Reg.TPE_RTO_FAB 0 = 0xC80008 ∧
    reg State.reset Reg.TPE_RTO_ETH 0 = 0x640032 ∧
    reg State.reset Reg.TPE_RC_HOLD 0 = 0x3E8 ∧
    reg State.reset Reg.CCS_ADMIT_PCT 0 = 0x5A) ∧
  (reg State.reset Reg.CCS_CLS_CFG 0 = 0x1 ∧
    reg State.reset Reg.CCS_CRED_TMO 0 = 0xA ∧
    reg State.reset Reg.CCS_QCFG 0 = 0x44 ∧
    reg State.reset Reg.FRT_DIM 0 = 0x101010 ∧
    reg State.reset Reg.FRT_MC_ENT 0 = 0x3C000 ∧
    reg State.reset Reg.EMAC_MODE 0 = 0x1 ∧
    reg State.reset Reg.EMAC_UDP_PORT 0 = 0x12B8 ∧
    reg State.reset Reg.EMAC_PSEL 0 = 0x1) ∧
  (reg State.reset Reg.EMAC_CFG 0 = 0x4003 ∧
    reg State.reset Reg.EMAC_FRAME 0 = 0x22400 ∧
    reg State.reset Reg.EMAC_PFC_QUANTA 0 = 0xFFFF ∧
    reg State.reset Reg.LNS_ROT_CFG 0 = 0xA0501 ∧
    reg State.reset Reg.LNS_FAIL_THR 0 = 0x4E2007D0 ∧
    reg State.reset Reg.LNS_MOD_PWR_MAX 0 = 0x19 ∧
    reg State.reset Reg.SCB_MC_RESERVE 0 = 0x400 ∧
    reg State.reset Reg.SCB_REPAIR_TMO 0 = 0x32) ∧
  (reg State.reset Reg.TGD_CDEPTH 0 = 0x820 ∧
    reg State.reset Reg.MEM_PATROL_CFG 0 = 0x18 ∧
    reg State.reset Reg.MEM_RET_THR 0 = 0x10 ∧
    reg State.reset Reg.MEM_RETRAIN_CFG 0 = 0x50064 ∧
    reg State.reset Reg.MEM_TERM_CFG 0 = 0x19 ∧
    reg State.reset Reg.SQM_QCFG 0 = 0x40 ∧
    reg State.reset Reg.SQM_TQUOTA 0 = 0x1E000 ∧
    reg State.reset Reg.CPH_PIPE_CFG 0 = 0x30E) ∧
  (reg State.reset Reg.CPH_TSAVE_COUNT 0 = 0x40 ∧
    reg State.reset Reg.RSP_TKEYQ 0 = 0x10 ∧
    reg State.reset Reg.MGT_BOOT_TMO 0 = 0x2D ∧
    reg State.reset Reg.MGT_CIC_CFG 0 = 0x1E05 ∧
    reg State.reset Reg.MGT_CIC_FMT_OFFER 0 = 0x2 ∧
    reg State.reset Reg.FEV_FQ_CTL 0 = 0x2000 ∧
    reg State.reset Reg.FEV_RATE 0 = 0x4003E8 ∧
    reg State.reset Reg.MGT_PROF_PWR 0 = 0x62002)

/-- Fuses go one way: the security version never falls, RMA is never left, a blocked UDS stays blocked. Whatever step runs from whatever state, the fused security version of the next state is at least the present one, the lifecycle RMA stays RMA, a blocked UDS stays blocked and the revocation fuses stay as they are. -/
def Obligations.FusesOneWay : Prop :=
  ∀ s t, step s = .next t → FuseLe s.fuses t.fuses

/-- Frames: every command leaves every part of the state alone that is not in its list. For every command, every state and every part of the state that its list of mayChange does not name (the units' registers each by their unit, every byte of memory, fuses, flash, tenants, queues, connections, links, lanes, tiles, and the rest), that part is the same in the next state. -/
def Obligations.CommandsChangeOnlyTheirParts : Prop :=
  ∀ i s t p, exec i s = .next t → p ∉ mayChange i → Unchanged p s t

/-- Memory: a read after a write gives what was written, every other byte stays, the canonical form is kept. Writing bytes at an address makes exactly the bytes of the range read as written and leaves every other byte; so does a store of a tile, poison marks or not; and a write keeps memory's canonical form. -/
def Obligations.MemoryReadAfterWrite : Prop :=
  (∀ s a b x, memByte (setBytes s a b) x = if a ≤ x ∧ x < a + b.length then b.getD (x - a) 0 else memByte s x) ∧
  (∀ s a b, memBytes (setBytes s a b) a b.length = b) ∧
  (∀ s a n, (memBytes s a n).length = n) ∧
  (∀ s a b, Memory.wf s = true → Memory.wf (setBytes s a b) = true) ∧
  (∀ s t off b bad x, ¬ (tileAddr t off ≤ x ∧ x < tileAddr t off + b.length) → memByte (tileStore s t off b bad) x = memByte s x) ∧
  (∀ s t off b bad, memBytes (tileStore s t off b bad) (tileAddr t off) b.length = b)

/-- Registers: a read after a write, counters that wrap at 32 bits, g0, p0, vector lanes. A register reads what was written to it and every other register stays; a counter reads one more, modulo 2^32; a general register, predicate or vector register of a tile reads what was written, except that g0 reads 0 and p0 reads 1 and writes to them are discarded; other registers and other tiles stay. -/
def Obligations.RegisterReadAfterWrite : Prop :=
  (∀ s off idx v, reg (setReg s off idx v) off idx = v) ∧
  (∀ s off idx v off' idx', off' ≠ off ∨ idx' % 2 ^ 32 ≠ idx % 2 ^ 32 → reg (setReg s off idx v) off' idx' = reg s off' idx') ∧
  (∀ s off idx, regN (bump s off idx) off idx = wrap32 (regN s off idx + 1)) ∧
  (∀ s t n v, gReg (tile (setG s t n v) t) n = if n = 0 then 0 else v) ∧
  (∀ s t n v m, m ≠ n → gReg (tile (setG s t n v) t) m = gReg (tile s t) m) ∧
  (∀ s t n b, n < 8 → pReg (tile (setP s t n b) t) n = if n = 0 then true else b) ∧
  (∀ s t n b m, n < 8 → m < 8 → m ≠ n → pReg (tile (setP s t n b) t) m = pReg (tile s t) m) ∧
  (∀ s t r l i, l.length = 128 → i < 128 → vLane (tile (setV s t r l) t) r i = l.getD i 0) ∧
  (∀ s t r l q i, l.length = 128 → q ≠ r → i < 128 → vLane (tile (setV s t r l) t) q i = vLane (tile s t) q i) ∧
  (∀ s t u n v, u ≠ t → tile (setG s t n v) u = tile s u)

/-- Issue of a Syurdun instruction: ILLEGAL, the guard, FETCH, poisoned code, and a tile that does not run. For every instruction of the set: a fetched word that the decoder refuses (a reserved opcode, a reserved field, a register field out of range, a reserved FN) traps ILLEGAL whether or not its guard holds; a word whose guard does not hold has no effect but pc + 8; pc outside near memory traps FETCH; a poisoned word traps POISON; a tile that is not running, is being stopped or waits for an atomic does not issue. -/
def Obligations.TileIssueRules : Prop :=
  (∀ t w i s, TileInstr t w i → Fetched s t w → wordIllegal w = true → exec i s = .next (trap s t 1 0)) ∧
  (∀ t w i s, TileInstr t w i → Fetched s t w → wordIllegal w = false → pReg (tile s t) (nfld w 54 52) = nbit w 55 → exec i s = .next
    (setPc s t ((tile s t).pc + 8))) ∧
  (∀ t w i s, TileInstr t w i → issues (tile s t) = false → exec i s = .next s) ∧
  (∀ t w i s, TileInstr t w i → issues (tile s t) = true → nearBytes ≤ (tile s t).pc → exec i s = .next (trap s t 2 (tile s t).pc)) ∧
  (∀ t w i s, TileInstr t w i → issues (tile s t) = true → (tile s t).pc < nearBytes → anyPoison s (tileAddr t (tile s t).pc) 8 = true →
    exec i s = .next (trap s t 8 (tile s t).pc)) ∧
  (∀ w, fmtOf (iOpc w) = none → wordIllegal w = true)

/-- Register writes: plain registers, staged registers, halves, the MSI-X table, and what is ignored. A write of a whole plain register sets its writable bits; one of a transactional register is staged; a low half is held and the high half takes effect with it; a word of the MSI-X table is set; a write to a block that does not answer changes no register, and one to no register, of a wrong width or from a function that is not there is ignored. A half that the function held of another register is discarded by a whole write. -/
def Obligations.RegisterWrites : Prop :=
  (∀ fn off len v s, hostUp s = false ∨ fnExists s fn = false → exec (.registerWrite fn off len v) s = .next s) ∧
  (∀ fn off len v o r s, RegisterAt s fn off len o .whole → blockAlive s (o / 2 ^ 20) = true → txRow o = none → rwRow o = some r → o ≠
    Reg.FEV_CLS_SEL → exec (.registerWrite fn off len v) s = .next (setReg (dropHeld s fn) o (if r.own then fn else 0) (v &&& w64
    r.mask))) ∧
  (∀ fn off len v o s, RegisterAt s fn off len o .whole → blockAlive s (o / 2 ^ 20) = true → (txRow o).isSome = true → exec
    (.registerWrite fn off len v) s = .next (txWrite (dropHeld s fn) fn o v)) ∧
  (∀ fn off len v o s, RegisterAt s fn off len o .whole → blockAlive s (o / 2 ^ 20) = false → exec (.registerWrite fn off len v) s =
    .next (dropHeld s fn)) ∧
  (∀ fn off len v o s, RegisterAt s fn off len o .low → exec (.registerWrite fn off len v) s = .next (fnMod s fn (fun F =>
    { F with held := some (o, BitVec.ofNat 32 v.toNat) }))) ∧
  (∀ fn off len v o low s, RegisterAt s fn off len o .high → (fnGet s fn).held = some (o, low) → exec (.registerWrite fn off len v) s =
    .next (regWrite (dropHeld s fn) fn o (w64 (low.toNat + v.toNat % 2 ^ 32 * 2 ^ 32)))) ∧
  (∀ fn vec v s, hostUp s = true → fnExists s fn = true → vec < vecCount s fn → exec (.registerWrite fn (0x8008 + 16 * vec) 4 v) s =
    .next (vectorMod s fn vec (fun V => { V with data := BitVec.ofNat 32 (fld v 31 0) }))) ∧
  (∀ fn off len v s, ¬ (0x8000 ≤ off ∧ off < 0x8000 + 16 * vecCount s fn) → (pfOffset fn off).bind (fun o => reach o len) = none → exec
    (.registerWrite fn off len v) s = .next s)

/-- A completion timeout: its origin goes on as after a failed read. A read, flush read or AtomicOp that outlasts the completion timeout leaves its origin (a ring read, a fragment table, a source read, an atomic, a tile DMA, a flush, a table walk, Scarab, the cipher engine) as a failed completion does; of Cicada's buffer the RESULT is a free value, since the spec gives none (log 43). -/
def Obligations.CompletionTimeouts : Prop :=
  (∀ q i s, exec (.completionTimeout (.ringRead q i)) s = exec (.ringReadComplete q i none) s) ∧
  (∀ q i s, exec (.completionTimeout (.fragTable q i)) s = exec (.fragmentTableRead q i none) s) ∧
  (∀ c m r o s, exec (.completionTimeout (.source c m r o)) s = exec (.sourceReadComplete (.cell c m r o) none) s) ∧
  (∀ c m s, exec (.completionTimeout (.atomicOp c m)) s = exec (.atomicopComplete (.peer c m) none) s) ∧
  (∀ t s, exec (.completionTimeout (.tileAtomic t)) s = exec (.atomicopComplete (.tile t) none) s) ∧
  (∀ t i s, exec (.completionTimeout (.tileDma t i)) s = exec (.tDmaBurstComplete t i none) s) ∧
  (∀ q i s, exec (.completionTimeout (.peerFlush q i)) s = .next (entryFlushed s q i false)) ∧
  (∀ c m s, exec (.completionTimeout (.msgFlush c m)) s = .next (msgFlushed s c m false)) ∧
  (∀ c a s, exec (.completionTimeout (.tableWalk c a)) s = .next (walkWord s c a none)) ∧
  (∀ g s, (grp s g).st = 1 → exec (.completionTimeout (.scarab g)) s = .next (scbAbort s g Status.localProtection)) ∧
  (∀ q i x s, streamOf s q i = some x → exec (.completionTimeout (.cipher q i)) s = .next (cryptFail s q i Status.localProtection)) ∧
  (∀ s, s.cic.hostBusy = true → ∃ u, exec (.completionTimeout .cicada) s = .next u ∧ u.cic.hostBusy = false ∧ u.cic.hostResult = fld
    (Config.draw s.freeCtr) 7 0)

/-- A doorbell of a queue whose inline slot is held discards the slot, clears its mask, counts, and keeps the expected number. A doorbell that a queue takes while its inline slot is held leaves the slot and its mask empty, adds one to HIF_INL_DISCARD and leaves the expected sequence number as it was. Formalises R62. -/
def Obligations.DoorbellDiscardsHeldSlot : Prop :=
  (∀ fn q off len value s c, hostUp s = true → fnExists s fn = true → off = 0 → len = 4 ∨ len = 8 → queueOf s fn q = some c → queueTakes
    s fn (some c) = true → (queue s c).slot ≠ [] → ∃ u, exec (.doorbell fn q off len value) s = .next u ∧ (queue u c).slot = [] ∧ regN u
    Reg.HIF_INL_DISCARD fn = wrap32 (regN s Reg.HIF_INL_DISCARD fn + 1) ∧ (queue u c).seq = (queue s c).seq)

/-- The distance in a dimension and the minimal directions of a route. In a dimension of size N the distance from the own coordinate a to b is (b - a) mod N; at 0 the dimension is done, below N/2 the minimal links are those of +, above those of - for N - d hops, at N/2 all four; the hops to a node are the sum over the dimensions, at most 24 in a full 16 x 16 x 16 plane (reached by node 0x888 from 0) and at most 12 in an 8 x 8 x 8 plane. -/
def Obligations.RouteDirections : Prop :=
  (∀ s node i, coord node i < dimSize s i → coord (ownNode s) i < dimSize s i → ahead s node i = ((coord node i : Int) - coord (ownNode
    s) i).emod (dimSize s i) ∧ (ahead s node i = 0 → minimalOf s node i = [] ∧ hopsLeft s node i = 0) ∧ (0 < ahead s node i → 2 * ahead
    s node i < dimSize s i → minimalOf s node i = [4 * i, 4 * i + 1] ∧ hopsLeft s node i = ahead s node i) ∧ (dimSize s i < 2 * ahead s
    node i → minimalOf s node i = [4 * i + 2, 4 * i + 3] ∧ hopsLeft s node i = dimSize s i - ahead s node i) ∧ (ahead s node i ≠ 0 → 2 *
    ahead s node i = dimSize s i → minimalOf s node i = [4 * i, 4 * i + 1, 4 * i + 2, 4 * i + 3] ∧ hopsLeft s node i = ahead s node i)) ∧
  (∀ s node n, dimSize s 0 = n → dimSize s 1 = n → dimSize s 2 = n → hopsLeft s node 0 + hopsLeft s node 1 + hopsLeft s node 2 ≤ 3 * (n
    / 2)) ∧
  (hopsLeft State.reset 0x888 0 + hopsLeft State.reset 0x888 1 + hopsLeft State.reset 0x888 2 = 24)

/-- The registers of an absent unit read zero and ignore writes, without an error or a fault record. On a device without tiles (the one unit with a register block of its own that a variant leaves out) every register of the tile grid reads zero, and a write to one changes no register and no other state, writes no fault record and raises no error; only the held half of a 64-bit write is kept or dropped as at any register (R490). Formalises R4. -/
def Obligations.AbsentUnitRegisters : Prop :=
  (∀ s fn off, tileCount s.variant = 0 → off / 2 ^ 20 = 9 → regRead s fn off = 0) ∧
  (∀ s fn off len v o p, tileCount s.variant = 0 → RegisterAt s fn off len o p → o / 2 ^ 20 = 9 → ∃ h, exec (.registerWrite fn off len
    v) s = .next (fnMod s fn (fun F => { F with held := h })))
end

