-- ==== Sys2Proof/Laws/Table.lean ====
section
/-! SUPPORT. Sparse tables: what a read after a write gives, and that every operation keeps the canonical form. -/
namespace Sys2Proof.Laws
open Sys2Proof.Machine

variable {α : Type} [DecidableEq α] (d : Nat → α)

/-- A table of keys from `lo` on reads as the default below `lo`. -/
theorem tget_below {lo k : Nat} {t : Tbl α} (h : twfFrom d lo t = true) (hk : k < lo) : tget d t k = d k := by
  induction t generalizing lo with
  | nil => rfl
  | cons e r ih =>
    simp only [twfFrom, Bool.and_eq_true, decide_eq_true_eq] at h
    simp only [tget]
    rw [if_neg (by omega)]
    exact ih h.2 (by omega)

/-- The canonical form from a key on is one from every lower key on. -/
theorem twfFrom_mono {lo hi : Nat} {t : Tbl α} (h : twfFrom d hi t = true) (hl : lo ≤ hi) : twfFrom d lo t = true := by
  cases t with
  | nil => rfl
  | cons e r =>
    simp only [twfFrom, Bool.and_eq_true, decide_eq_true_eq] at h ⊢
    exact ⟨⟨by omega, h.1.2⟩, h.2⟩

/-- Leaving entries out keeps the canonical form. -/
theorem twfFrom_filter {lo : Nat} {t : Tbl α} (p : Nat × α → Bool) (h : twfFrom d lo t = true) :
    twfFrom d lo (t.filter p) = true := by
  induction t generalizing lo with
  | nil => rfl
  | cons e r ih =>
    simp only [twfFrom, Bool.and_eq_true, decide_eq_true_eq] at h
    by_cases hp : p e
    · rw [List.filter_cons_of_pos hp]
      simp only [twfFrom, Bool.and_eq_true, decide_eq_true_eq]
      exact ⟨h.1, ih h.2⟩
    · rw [List.filter_cons_of_neg hp]
      exact ih (twfFrom_mono d h.2 (by omega))

omit [DecidableEq α] in
/-- Listing a value other than the default keeps the canonical form. -/
theorem twfFrom_tput [DecidableEq α] {lo : Nat} {t : Tbl α} (k : Nat) (v : α) (h : twfFrom d lo t = true) (hk : lo ≤ k) (hv : v ≠ d k) :
    twfFrom d lo (tput t k v) = true := by
  induction t generalizing lo with
  | nil => simp [tput, hv, twfFrom, hk]
  | cons e r ih =>
    have h0 := h
    simp only [twfFrom, Bool.and_eq_true, decide_eq_true_eq] at h
    unfold tput
    split
    · simp only [twfFrom, Bool.and_eq_true, decide_eq_true_eq]
      exact ⟨⟨hk, hv⟩, ⟨by omega, h.1.2⟩, h.2⟩
    · split
      · rename_i he
        simp only [twfFrom, Bool.and_eq_true, decide_eq_true_eq]
        exact ⟨⟨hk, hv⟩, he ▸ h.2⟩
      · simp only [twfFrom, Bool.and_eq_true, decide_eq_true_eq]
        exact ⟨h.1, ih h.2 (by omega)⟩

/-- A write of the default leaves the entries of its key out; any other is listed. -/
theorem tset_eq (t : Tbl α) (k : Nat) (v : α) :
    tset d t k v = if v = d k then t.filter (fun e => decide (e.1 ≠ k)) else tput t k v := by
  cases t with
  | nil => simp [tset, tput]
  | cons e r => rfl

/-- A write keeps the canonical form. -/
theorem twfFrom_tset {lo : Nat} {t : Tbl α} (k : Nat) (v : α) (h : twfFrom d lo t = true) (hk : lo ≤ k) :
    twfFrom d lo (tset d t k v) = true := by
  rw [tset_eq]
  split
  · exact twfFrom_filter d _ h
  · exact twfFrom_tput d k v h hk (by assumption)

/-- A write keeps the canonical form of a table. -/
theorem twf_tset {t : Tbl α} (k : Nat) (v : α) (h : twf d t = true) : twf d (tset d t k v) = true :=
  twfFrom_tset d k v h (Nat.zero_le k)

/-- So does a rewrite of a key. -/
theorem twf_tmod {t : Tbl α} (k : Nat) (f : α → α) (h : twf d t = true) : twf d (tmod d t k f) = true :=
  twf_tset d k _ h

/-- Leaving entries out keeps the canonical form of a table. -/
theorem twf_filter {t : Tbl α} (p : Nat × α → Bool) (h : twf d t = true) : twf d (t.filter p) = true :=
  twfFrom_filter d p h

omit [DecidableEq α] in
/-- Leaving out entries of other keys leaves a key alone. -/
theorem tget_filter (t : Tbl α) (p : Nat × α → Bool) {k : Nat} (h : ∀ v, p (k, v) = true) : tget d (t.filter p) k = tget d t k := by
  induction t with
  | nil => rfl
  | cons e r ih =>
    by_cases hp : p e
    · rw [List.filter_cons_of_pos hp]
      simp only [tget, ih]
    · rw [List.filter_cons_of_neg hp, ih]
      have : e.1 ≠ k := by
        intro he
        apply hp
        rw [show e = (k, e.2) from by rw [← he]]
        exact h e.2
      simp only [tget, if_neg this]

omit [DecidableEq α] in
/-- A read of the key that was listed gives the value. -/
theorem tget_tput_same (t : Tbl α) (k : Nat) (v : α) : tget d (tput t k v) k = v := by
  induction t with
  | nil => simp [tput, tget]
  | cons e r ih =>
    unfold tput
    split
    · simp [tget]
    · split
      · simp [tget]
      · simp only [tget]
        rw [if_neg (by omega)]
        exact ih

omit [DecidableEq α] in
/-- Listing a value leaves every other key alone. -/
theorem tget_tput_other (t : Tbl α) {k j : Nat} (v : α) (h : j ≠ k) : tget d (tput t k v) j = tget d t j := by
  induction t with
  | nil => simp [tput, tget, Ne.symm h]
  | cons e r ih =>
    unfold tput
    split
    · simp [tget, Ne.symm h]
    · split
      · simp [tget, Ne.symm h, show ¬ e.1 = j by omega]
      · simp only [tget]
        rw [ih]

omit [DecidableEq α] in
/-- Without its entries a key reads as its default. -/
theorem tget_filter_self (t : Tbl α) (k : Nat) : tget d (t.filter (fun e => decide (e.1 ≠ k))) k = d k := by
  induction t with
  | nil => rfl
  | cons e r ih =>
    by_cases he : e.1 = k
    · rw [List.filter_cons_of_neg (by simp [he]), ih]
    · rw [List.filter_cons_of_pos (by simp [he])]
      simp only [tget, if_neg he, ih]

/-- A read of the key that was written gives the value written. -/
@[simp] theorem tget_tset_same (t : Tbl α) (k : Nat) (v : α) : tget d (tset d t k v) k = v := by
  rw [tset_eq]
  split
  · rename_i hv
    rw [tget_filter_self, hv]
  · exact tget_tput_same d t k v

/-- A write leaves every other key alone. -/
theorem tget_tset_other (t : Tbl α) {k j : Nat} (v : α) (h : j ≠ k) : tget d (tset d t k v) j = tget d t j := by
  rw [tset_eq]
  split
  · exact tget_filter d t _ (by intro _; simpa using h)
  · exact tget_tput_other d t v h

end Sys2Proof.Laws
end

