-- ==== Sys2Proof/Laws/Keeps.lean ====
section
/-! SUPPORT. What every command keeps, as one relation between a state and one reached from it: `Keeps m a b`. The canonical forms, the
variant, the queue of commands and the fuses' direction are kept always; `m` says, as a set of bits, which parts of the state may differ:
bit i for field i of `State`, bit 3 for every register, bit 32 + u for the registers of unit u, bit 48 for the contents of memory. One
lemma per definition of the machine says what it keeps; the files Laws/Keeps….lean hold them, and a proof about `exec` or `step` cites
them. -/
namespace Sys2Proof.Laws
open Sys2Proof.Machine Sys2Proof.Safety

/-- A part is in the set. -/
abbrev Has (m i : Nat) : Prop := m.testBit i = true

/-- One set is within another. -/
abbrev Sub (k m : Nat) : Prop := k &&& m = k

/-- What every command keeps, the parts in `m` apart. -/
structure Keeps (m : Nat) (a b : State) : Prop where
  variant : b.variant = a.variant
  pending : b.pending = a.pending
  canon : Canon a → Canon b
  fuseLe : FuseLe a.fuses b.fuses
  regs : ¬ Has m 3 → ∀ k, ¬ Has m (32 + k / 2 ^ 52) → tget regReset b.regs k = tget regReset a.regs k
  fuses : ¬ Has m 7 → b.fuses = a.fuses
  owners : ¬ Has m 10 → b.owners = a.owners
  bytes : ¬ Has m 48 → b.mem.bytes = a.mem.bytes
  blocks : ¬ Has m 48 → b.mem.blocks = a.mem.blocks
  controllers : ¬ Has m 16 → b.mem.controllers = a.mem.controllers
  frames : ¬ Has m 16 → b.mem.frames = a.mem.frames
  keySets : ¬ Has m 16 → b.mem.keySets = a.mem.keySets
  keyNow : ¬ Has m 16 → b.mem.keyNow = a.mem.keyNow
  keys : ¬ Has m 16 → b.mem.keys = a.mem.keys
  keysDrawn : ¬ Has m 16 → b.mem.keysDrawn = a.mem.keysDrawn
  zeroSet : ¬ Has m 16 → b.mem.zeroSet = a.mem.zeroSet
  tileScrub : ¬ Has m 16 → b.mem.tileScrub = a.mem.tileScrub
  ilv : ¬ Has m 16 → b.mem.ilv = a.mem.ilv
  quarantined : ¬ Has m 16 → b.mem.quarantined = a.mem.quarantined
  time : ¬ Has m 1 → b.time = a.time
  freeCtr : ¬ Has m 2 → b.freeCtr = a.freeCtr
  pw : ¬ Has m 4 → b.pw = a.pw
  boot : ¬ Has m 5 → b.boot = a.boot
  flash : ¬ Has m 6 → b.flash = a.flash
  cic : ¬ Has m 8 → b.cic = a.cic
  fns : ¬ Has m 9 → b.fns = a.fns
  qlocal : ¬ Has m 11 → b.qlocal = a.qlocal
  commits : ¬ Has m 12 → b.commits = a.commits
  hif : ¬ Has m 13 → b.hif = a.hif
  sqm : ¬ Has m 14 → b.sqm = a.sqm
  fev : ¬ Has m 15 → b.fev = a.fev
  atu : ¬ Has m 17 → b.atu = a.atu
  queues : ¬ Has m 18 → b.queues = a.queues
  tpe : ¬ Has m 19 → b.tpe = a.tpe
  frt : ¬ Has m 20 → b.frt = a.frt
  eports : ¬ Has m 21 → b.eports = a.eports
  lns : ¬ Has m 22 → b.lns = a.lns
  scb : ¬ Has m 23 → b.scb = a.scb
  tgd : ¬ Has m 24 → b.tgd = a.tgd
  cph : ¬ Has m 25 → b.cph = a.cph
  ccs : ¬ Has m 26 → b.ccs = a.ccs
  tenants : ¬ Has m 27 → b.tenants = a.tenants
  rsp : ¬ Has m 28 → b.rsp = a.rsp
  out : ¬ Has m 29 → b.out = a.out

/-- Fuses are below themselves. -/
theorem fuseLe_refl (a : Fuses) : FuseLe a a := ⟨Nat.le_refl _, id, id, rfl, rfl⟩

/-- Doing nothing keeps it all. -/
theorem keeps_refl (m : Nat) (s : State) : Keeps m s s := by
  constructor <;> first | exact rfl | exact id | exact fuseLe_refl _ | (intros; rfl)

/-- A set within another has its parts there. -/
theorem has_sub {k m i : Nat} (h : Sub k m) (g : ¬ Has m i) : ¬ Has k i := by
  intro hk
  apply g
  have : (k &&& m).testBit i = true := by rw [h]; exact hk
  rw [Nat.testBit_and, Bool.and_eq_true] at this
  exact this.2

/-- What a part does within a smaller set, the whole does within a greater one. -/
theorem keeps_lift {k m : Nat} {a b c : State} (h : Keeps m a b) (hm : Sub k m) (g : Keeps k b c) : Keeps m a c where
  variant := g.variant.trans h.variant
  pending := g.pending.trans h.pending
  canon := fun x => g.canon (h.canon x)
  fuseLe := ⟨Nat.le_trans h.fuseLe.svn g.fuseLe.svn, fun x => g.fuseLe.rma (h.fuseLe.rma x), fun x => g.fuseLe.uds (h.fuseLe.uds x),
    h.fuseLe.rev0.trans g.fuseLe.rev0, h.fuseLe.rev1.trans g.fuseLe.rev1⟩
  regs := fun x n y => (g.regs (has_sub hm x) n (has_sub hm y)).trans (h.regs x n y)
  fuses := fun x => (g.fuses (has_sub hm x)).trans (h.fuses x)
  owners := fun x => (g.owners (has_sub hm x)).trans (h.owners x)
  bytes := fun x => (g.bytes (has_sub hm x)).trans (h.bytes x)
  blocks := fun x => (g.blocks (has_sub hm x)).trans (h.blocks x)
  controllers := fun x => (g.controllers (has_sub hm x)).trans (h.controllers x)
  frames := fun x => (g.frames (has_sub hm x)).trans (h.frames x)
  keySets := fun x => (g.keySets (has_sub hm x)).trans (h.keySets x)
  keyNow := fun x => (g.keyNow (has_sub hm x)).trans (h.keyNow x)
  keys := fun x => (g.keys (has_sub hm x)).trans (h.keys x)
  keysDrawn := fun x => (g.keysDrawn (has_sub hm x)).trans (h.keysDrawn x)
  zeroSet := fun x => (g.zeroSet (has_sub hm x)).trans (h.zeroSet x)
  tileScrub := fun x => (g.tileScrub (has_sub hm x)).trans (h.tileScrub x)
  ilv := fun x => (g.ilv (has_sub hm x)).trans (h.ilv x)
  quarantined := fun x => (g.quarantined (has_sub hm x)).trans (h.quarantined x)
  time := fun x => (g.time (has_sub hm x)).trans (h.time x)
  freeCtr := fun x => (g.freeCtr (has_sub hm x)).trans (h.freeCtr x)
  pw := fun x => (g.pw (has_sub hm x)).trans (h.pw x)
  boot := fun x => (g.boot (has_sub hm x)).trans (h.boot x)
  flash := fun x => (g.flash (has_sub hm x)).trans (h.flash x)
  cic := fun x => (g.cic (has_sub hm x)).trans (h.cic x)
  fns := fun x => (g.fns (has_sub hm x)).trans (h.fns x)
  qlocal := fun x => (g.qlocal (has_sub hm x)).trans (h.qlocal x)
  commits := fun x => (g.commits (has_sub hm x)).trans (h.commits x)
  hif := fun x => (g.hif (has_sub hm x)).trans (h.hif x)
  sqm := fun x => (g.sqm (has_sub hm x)).trans (h.sqm x)
  fev := fun x => (g.fev (has_sub hm x)).trans (h.fev x)
  atu := fun x => (g.atu (has_sub hm x)).trans (h.atu x)
  queues := fun x => (g.queues (has_sub hm x)).trans (h.queues x)
  tpe := fun x => (g.tpe (has_sub hm x)).trans (h.tpe x)
  frt := fun x => (g.frt (has_sub hm x)).trans (h.frt x)
  eports := fun x => (g.eports (has_sub hm x)).trans (h.eports x)
  lns := fun x => (g.lns (has_sub hm x)).trans (h.lns x)
  scb := fun x => (g.scb (has_sub hm x)).trans (h.scb x)
  tgd := fun x => (g.tgd (has_sub hm x)).trans (h.tgd x)
  cph := fun x => (g.cph (has_sub hm x)).trans (h.cph x)
  ccs := fun x => (g.ccs (has_sub hm x)).trans (h.ccs x)
  tenants := fun x => (g.tenants (has_sub hm x)).trans (h.tenants x)
  rsp := fun x => (g.rsp (has_sub hm x)).trans (h.rsp x)
  out := fun x => (g.out (has_sub hm x)).trans (h.out x)

/-- A set is within itself. -/
theorem sub_refl (m : Nat) : Sub m m := Nat.and_self m

/-- What is kept twice over is kept. -/
theorem keeps_trans {m : Nat} {a b c : State} (h : Keeps m a b) (g : Keeps m b c) : Keeps m a c := keeps_lift h (sub_refl m) g

/-- A state written out field by field after a state `s`, whose variant, registers, fuses, owners and queue it has, is kept. -/
def KeepsMk (m : Nat) (a s : State) (time : Nat) (freeCtr : Nat) (pw : Power) (boot : Boot) (flash : Flash) (cic : Cicada) (fns : Tbl Fn)
    (qlocal : Tbl Nat) (commits : List Commit) (hif : Hif) (sqm : Sqm) (fev : Fev) (mem : Mem) (atu : Atu)
    (queues : Tbl QueueC) (tpe : Tpe) (frt : Frt) (eports : Tbl EPort) (lns : Lns) (scb : Scb) (tgd : Tgd)
    (cph : Cph) (ccs : Ccs) (tenants : Tbl Tenant) (rsp : Rsp) (out : List Output) : Prop :=
  Keeps m a (State.mk s.variant time freeCtr s.regs pw boot flash s.fuses cic fns s.owners qlocal commits hif sqm fev mem atu queues tpe frt eports lns scb
    tgd cph ccs tenants rsp out s.pending)

/-- Names that shape. -/
theorem keepsMk_eq {m : Nat} {a s : State} {time freeCtr pw boot flash cic fns qlocal commits hif sqm fev mem atu queues tpe frt eports
    lns scb tgd cph ccs tenants rsp out} :
    Keeps m a (State.mk s.variant time freeCtr s.regs pw boot flash s.fuses cic fns s.owners qlocal commits hif sqm fev mem atu queues tpe frt eports lns scb
    tgd cph ccs tenants rsp out s.pending) =
    KeepsMk m a s time freeCtr pw boot flash cic fns qlocal commits hif sqm fev mem atu queues tpe frt eports lns scb tgd cph ccs tenants rsp out := rfl

/-- Such a state is kept when each of its fields is in the set or is that of `s`. -/
theorem keepsMk_intro {m : Nat} {a s : State} {time freeCtr pw boot flash cic fns qlocal commits hif sqm fev mem atu queues tpe
    frt eports lns scb tgd cph ccs tenants rsp out} (h : Keeps m a s)
    (bytes : mem.bytes = s.mem.bytes) (blocks : mem.blocks = s.mem.blocks)
    (c_controllers : Has m 16 ∨ mem.controllers = s.mem.controllers) (c_frames : Has m 16 ∨ mem.frames = s.mem.frames) (c_keySets : Has m 16 ∨ mem.keySets = s.mem.keySets)
    (c_keyNow : Has m 16 ∨ mem.keyNow = s.mem.keyNow) (c_keys : Has m 16 ∨ mem.keys = s.mem.keys) (c_keysDrawn : Has m 16 ∨ mem.keysDrawn = s.mem.keysDrawn) (c_zeroSet : Has m 16 ∨ mem.zeroSet = s.mem.zeroSet)
    (c_tileScrub : Has m 16 ∨ mem.tileScrub = s.mem.tileScrub) (c_ilv : Has m 16 ∨ mem.ilv = s.mem.ilv) (c_quarantined : Has m 16 ∨ mem.quarantined = s.mem.quarantined)
    (c_time : Has m 1 ∨ time = s.time) (c_freeCtr : Has m 2 ∨ freeCtr = s.freeCtr) (c_pw : Has m 4 ∨ pw = s.pw)
    (c_boot : Has m 5 ∨ boot = s.boot) (c_flash : Has m 6 ∨ flash = s.flash) (c_cic : Has m 8 ∨ cic = s.cic)
    (c_fns : Has m 9 ∨ fns = s.fns) (c_qlocal : Has m 11 ∨ qlocal = s.qlocal) (c_commits : Has m 12 ∨ commits = s.commits)
    (c_hif : Has m 13 ∨ hif = s.hif) (c_sqm : Has m 14 ∨ sqm = s.sqm) (c_fev : Has m 15 ∨ fev = s.fev)
    (c_atu : Has m 17 ∨ atu = s.atu) (c_queues : Has m 18 ∨ queues = s.queues) (c_tpe : Has m 19 ∨ tpe = s.tpe)
    (c_frt : Has m 20 ∨ frt = s.frt) (c_eports : Has m 21 ∨ eports = s.eports) (c_lns : Has m 22 ∨ lns = s.lns)
    (c_scb : Has m 23 ∨ scb = s.scb) (c_tgd : Has m 24 ∨ tgd = s.tgd) (c_cph : Has m 25 ∨ cph = s.cph)
    (c_ccs : Has m 26 ∨ ccs = s.ccs) (c_tenants : Has m 27 ∨ tenants = s.tenants) (c_rsp : Has m 28 ∨ rsp = s.rsp)
    (c_out : Has m 29 ∨ out = s.out) :
    KeepsMk m a s time freeCtr pw boot flash cic fns qlocal commits hif sqm fev mem atu queues tpe frt eports lns scb tgd cph ccs tenants rsp out where
  variant := h.variant
  pending := h.pending
  canon := fun x => let c := h.canon x
    ⟨by have := c.bytes; simp only [Memory.wf] at this ⊢; rw [bytes]; exact this, by rw [blocks]; exact c.blocks, c.regs, c.owners⟩
  fuseLe := h.fuseLe
  regs := h.regs
  fuses := h.fuses
  owners := h.owners
  bytes := fun x => bytes.trans (h.bytes x)
  blocks := fun x => blocks.trans (h.blocks x)
  controllers := fun x => (c_controllers.resolve_left x).trans (h.controllers x)
  frames := fun x => (c_frames.resolve_left x).trans (h.frames x)
  keySets := fun x => (c_keySets.resolve_left x).trans (h.keySets x)
  keyNow := fun x => (c_keyNow.resolve_left x).trans (h.keyNow x)
  keys := fun x => (c_keys.resolve_left x).trans (h.keys x)
  keysDrawn := fun x => (c_keysDrawn.resolve_left x).trans (h.keysDrawn x)
  zeroSet := fun x => (c_zeroSet.resolve_left x).trans (h.zeroSet x)
  tileScrub := fun x => (c_tileScrub.resolve_left x).trans (h.tileScrub x)
  ilv := fun x => (c_ilv.resolve_left x).trans (h.ilv x)
  quarantined := fun x => (c_quarantined.resolve_left x).trans (h.quarantined x)
  time := fun x => (c_time.resolve_left x).trans (h.time x)
  freeCtr := fun x => (c_freeCtr.resolve_left x).trans (h.freeCtr x)
  pw := fun x => (c_pw.resolve_left x).trans (h.pw x)
  boot := fun x => (c_boot.resolve_left x).trans (h.boot x)
  flash := fun x => (c_flash.resolve_left x).trans (h.flash x)
  cic := fun x => (c_cic.resolve_left x).trans (h.cic x)
  fns := fun x => (c_fns.resolve_left x).trans (h.fns x)
  qlocal := fun x => (c_qlocal.resolve_left x).trans (h.qlocal x)
  commits := fun x => (c_commits.resolve_left x).trans (h.commits x)
  hif := fun x => (c_hif.resolve_left x).trans (h.hif x)
  sqm := fun x => (c_sqm.resolve_left x).trans (h.sqm x)
  fev := fun x => (c_fev.resolve_left x).trans (h.fev x)
  atu := fun x => (c_atu.resolve_left x).trans (h.atu x)
  queues := fun x => (c_queues.resolve_left x).trans (h.queues x)
  tpe := fun x => (c_tpe.resolve_left x).trans (h.tpe x)
  frt := fun x => (c_frt.resolve_left x).trans (h.frt x)
  eports := fun x => (c_eports.resolve_left x).trans (h.eports x)
  lns := fun x => (c_lns.resolve_left x).trans (h.lns x)
  scb := fun x => (c_scb.resolve_left x).trans (h.scb x)
  tgd := fun x => (c_tgd.resolve_left x).trans (h.tgd x)
  cph := fun x => (c_cph.resolve_left x).trans (h.cph x)
  ccs := fun x => (c_ccs.resolve_left x).trans (h.ccs x)
  tenants := fun x => (c_tenants.resolve_left x).trans (h.tenants x)
  rsp := fun x => (c_rsp.resolve_left x).trans (h.rsp x)
  out := fun x => (c_out.resolve_left x).trans (h.out x)

/-- Registers rewritten where the set has them, the rest of the state being that of `s`. -/
theorem keeps_regs {m : Nat} {a s : State} {r : Tbl W64} (h : Keeps m a s) (w : twf regReset s.regs = true → twf regReset r = true)
    (g : ¬ Has m 3 → ∀ k, ¬ Has m (32 + k / 2 ^ 52) → tget regReset r k = tget regReset s.regs k) :
    Keeps m a { s with regs := r } :=
  { h with
    canon := fun x => let c := h.canon x; ⟨c.bytes, c.blocks, w c.regs, c.owners⟩
    regs := fun x k y => (g x k y).trans (h.regs x k y) }

/-- Owners rewritten. -/
theorem keeps_owners {m : Nat} {a s : State} {o : Tbl Nat} (h : Keeps m a s) (hm : Has m 10)
    (w : twf (fun _ => (0 : Nat)) s.owners = true → twf (fun _ => (0 : Nat)) o = true) : Keeps m a { s with owners := o } :=
  { h with
    canon := fun x => let c := h.canon x; ⟨c.bytes, c.blocks, c.regs, w c.owners⟩
    owners := fun x => absurd hm x }

/-- Memory contents rewritten. -/
theorem keeps_bytes {m : Nat} {a s : State} {b : Tbl Byte} {k : Tbl Blk} (h : Keeps m a s) (hm : Has m 48)
    (w : twf zeroByte s.mem.bytes = true → twf zeroByte b = true)
    (u : twf (fun _ => ({} : Blk)) s.mem.blocks = true → twf (fun _ => ({} : Blk)) k = true) :
    Keeps m a { s with mem := { s.mem with bytes := b, blocks := k } } :=
  { h with
    canon := fun x => let c := h.canon x
      ⟨by have := c.bytes; simp only [Memory.wf] at this ⊢; exact w this, u c.blocks, c.regs, c.owners⟩
    bytes := fun x => absurd hm x
    blocks := fun x => absurd hm x }

/-- Fuses rewritten the one way they go. -/
theorem keeps_fuses {m : Nat} {a s : State} {f : Fuses} (h : Keeps m a s) (hm : Has m 7) (g : FuseLe s.fuses f) :
    Keeps m a { s with fuses := f } :=
  { h with
    canon := fun x => let c := h.canon x; ⟨c.bytes, c.blocks, c.regs, c.owners⟩
    fuseLe := ⟨Nat.le_trans h.fuseLe.svn g.svn, fun x => g.rma (h.fuseLe.rma x), fun x => g.uds (h.fuseLe.uds x),
      h.fuseLe.rev0.trans g.rev0, h.fuseLe.rev1.trans g.rev1⟩
    fuses := fun x => absurd hm x }

/-- The answer of a meaning is kept: whenever it is a next state. -/
structure KN (m : Nat) (a : State) (o : Host.Outcome State Fault Refusal) : Prop where
  out : ∀ t, o = .next t → Keeps m a t
/-- An optional state is kept. -/
structure KO (m : Nat) (a : State) (o : Option State) : Prop where
  out : ∀ t, o = some t → Keeps m a t
/-- A state or a halt: the state is kept. -/
structure KE {ε : Type} (m : Nat) (a : State) (o : Except ε State) : Prop where
  out : ∀ t, o = .ok t → Keeps m a t
/-- A state with more, or a halt: the state is kept. -/
structure KP {ε β : Type} (m : Nat) (a : State) (o : Except ε (State × β)) : Prop where
  out : ∀ t b, o = .ok (t, b) → Keeps m a t

/-- A next state that is kept. -/
theorem kn_next {m : Nat} {a t : State} (h : Keeps m a t) : KN m a (.next t) := ⟨fun _ e => by cases e; exact h⟩
/-- No state. -/
theorem ko_none {m : Nat} {a : State} : KO m a none := ⟨fun _ e => by cases e⟩
/-- A state that is kept. -/
theorem ko_some {m : Nat} {a t : State} (h : Keeps m a t) : KO m a (some t) := ⟨fun _ e => by cases e; exact h⟩
/-- A halt. -/
theorem ke_error {m : Nat} {ε : Type} {a : State} {x : ε} : KE m a (.error x) := ⟨fun _ e => by cases e⟩
/-- A state that is kept. -/
theorem ke_ok {m : Nat} {ε : Type} {a t : State} (h : Keeps m a t) : KE (ε := ε) m a (.ok t) := ⟨fun _ e => by cases e; exact h⟩
/-- A halt. -/
theorem kp_error {m : Nat} {ε β : Type} {a : State} {x : ε} : KP (β := β) m a (.error x) := ⟨fun _ _ e => by cases e⟩
/-- A state that is kept, with more. -/
theorem kp_ok {m : Nat} {ε β : Type} {a : State} {p : State × β} (h : Keeps m a p.1) : KP (ε := ε) m a (.ok p) := ⟨fun _ _ e => by cases e; exact h⟩

/-- Mapping over an optional state. -/
theorem ko_map {m : Nat} {a : State} {o : Option State} {f : State → State} (h : KO m a o) (g : ∀ t, Keeps m a t → Keeps m a (f t)) :
    KO m a (o.map f) := by
  cases o with
  | none => exact ko_none
  | some t => exact ko_some (g t (h.out t rfl))
/-- Going on from an optional state. -/
theorem ko_bind {m : Nat} {a : State} {o : Option State} {f : State → Option State} (h : KO m a o) (g : ∀ t, Keeps m a t → KO m a (f t)) :
    KO m a (o.bind f) := by
  cases o with
  | none => exact ko_none
  | some t => exact g t (h.out t rfl)
/-- An optional state with a substitute. -/
theorem keeps_getD {m : Nat} {a s : State} {o : Option State} (h : KO m a o) (g : Keeps m a s) : Keeps m a (o.getD s) := by
  cases o with
  | none => exact g
  | some t => exact h.out t rfl

/-- Going on from a state. -/
theorem ke_bind {m : Nat} {ε : Type} {a : State} {o : Except ε State} {f : State → Except ε State} (h : KE m a o)
    (g : ∀ t, Keeps m a t → KE m a (f t)) : KE m a (o >>= f) := by
  cases o with
  | error => exact ke_error
  | ok t => exact g t (h.out t rfl)
/-- Going on from a state to one with more. -/
theorem kep_bind {m : Nat} {ε β : Type} {a : State} {o : Except ε State} {f : State → Except ε (State × β)} (h : KE m a o)
    (g : ∀ t, Keeps m a t → KP m a (f t)) : KP m a (o >>= f) := by
  cases o with
  | error => exact kp_error
  | ok t => exact g t (h.out t rfl)
/-- Going on from a state with more. -/
theorem kp_bind {m : Nat} {ε β γ : Type} {a : State} {o : Except ε (State × β)} {f : State × β → Except ε (State × γ)} (h : KP m a o)
    (g : ∀ t, Keeps m a t.1 → KP m a (f t)) : KP m a (o >>= f) := by
  cases o with
  | error => exact kp_error
  | ok t => exact g t (h.out t.1 t.2 rfl)
/-- Going on from a state with more to a state. -/
theorem kpe_bind {m : Nat} {ε β : Type} {a : State} {o : Except ε (State × β)} {f : State × β → Except ε State} (h : KP m a o)
    (g : ∀ t, Keeps m a t.1 → KE m a (f t)) : KE m a (o >>= f) := by
  cases o with
  | error => exact ke_error
  | ok t => exact g t (h.out t.1 t.2 rfl)

/-- Reading an answer back. -/
theorem kn_get {m : Nat} {a t : State} {o : Host.Outcome State Fault Refusal} (h : KN m a o) (e : o = .next t) : Keeps m a t := h.out t e
/-- Reading an option back. -/
theorem ko_get {m : Nat} {a t : State} {o : Option State} (h : KO m a o) (e : o = some t) : Keeps m a t := h.out t e
/-- Reading a state or halt back. -/
theorem ke_get {m : Nat} {ε : Type} {a t : State} {o : Except ε State} (h : KE m a o) (e : o = .ok t) : Keeps m a t := h.out t e
/-- Reading a state with more or a halt back. -/
theorem kp_get {m : Nat} {ε β : Type} {a t : State} {b : β} {o : Except ε (State × β)} (h : KP m a o) (e : o = .ok (t, b)) : Keeps m a t := h.out t b e
/-- Reading a whole pair back. -/
theorem kp_get1 {m : Nat} {ε β : Type} {a : State} {p : State × β} {o : Except ε (State × β)} (h : KP m a o) (e : o = .ok p) : Keeps m a p.1 :=
  h.out p.1 p.2 e
/-- Reading a pair back. -/
theorem kq_get {m : Nat} {β : Type} {a t : State} {b : β} {p : State × β} (h : Keeps m a p.1) (e : p = (t, b)) : Keeps m a t := by
  cases e; exact h
/-- Reading a pair back as it stands. -/
theorem kq_get1 {m : Nat} {β : Type} {a : State} {p q : State × β} (h : Keeps m a p.1) (e : p = q) : Keeps m a q.1 := by
  cases e; exact h
/-- Reading a pair back, state last. -/
theorem kr_get {m : Nat} {β : Type} {a t : State} {b : β} {p : β × State} (h : Keeps m a p.2) (e : p = (b, t)) : Keeps m a t := by
  cases e; exact h

/-- A choice between kept states. -/
theorem keeps_ite {m : Nat} {a s t : State} {c : Prop} [Decidable c] (h : Keeps m a s) (g : Keeps m a t) : Keeps m a (if c then s else t) := by
  split <;> assumption

/-- Folding an operation that keeps. -/
theorem keeps_foldl {m : Nat} {α : Type} {a s : State} {f : State → α → State} {l : List α} (h : Keeps m a s)
    (hf : ∀ t x, Keeps m a t → Keeps m a (f t x)) : Keeps m a (l.foldl f s) := by
  induction l generalizing s with
  | nil => exact h
  | cons x r ih => exact ih (hf s x h)

/-- Folding an operation on a state with more that keeps. -/
theorem keeps_foldl1 {m : Nat} {α β : Type} {a : State} {p : State × β} {f : State × β → α → State × β} {l : List α} (h : Keeps m a p.1)
    (hf : ∀ t x, Keeps m a t.1 → Keeps m a (f t x).1) : Keeps m a (l.foldl f p).1 := by
  induction l generalizing p with
  | nil => exact h
  | cons x r ih => exact ih (hf p x h)

/-- Folding, state last. -/
theorem keeps_foldl2 {m : Nat} {α β : Type} {a : State} {p : β × State} {f : β × State → α → β × State} {l : List α} (h : Keeps m a p.2)
    (hf : ∀ t x, Keeps m a t.2 → Keeps m a (f t x).2) : Keeps m a (l.foldl f p).2 := by
  induction l generalizing p with
  | nil => exact h
  | cons x r ih => exact ih (hf p x h)

/-- Lifting an answer. -/
theorem kn_lift {k m : Nat} {a b : State} {o : Host.Outcome State Fault Refusal} (h : Keeps m a b) (hm : Sub k m) (g : KN k b o) : KN m a o :=
  ⟨fun t e => keeps_lift h hm (g.out t e)⟩
/-- Lifting an option. -/
theorem ko_lift {k m : Nat} {a b : State} {o : Option State} (h : Keeps m a b) (hm : Sub k m) (g : KO k b o) : KO m a o :=
  ⟨fun t e => keeps_lift h hm (g.out t e)⟩
/-- Lifting a state or halt. -/
theorem ke_lift {ε : Type} {k m : Nat} {a b : State} {o : Except ε State} (h : Keeps m a b) (hm : Sub k m) (g : KE k b o) : KE m a o :=
  ⟨fun t e => keeps_lift h hm (g.out t e)⟩
/-- Lifting a state with more or a halt. -/
theorem kp_lift {ε β : Type} {k m : Nat} {a b : State} {o : Except ε (State × β)} (h : Keeps m a b) (hm : Sub k m) (g : KP k b o) :
    KP m a o :=
  ⟨fun t x e => keeps_lift h hm (g.out t x e)⟩

end Sys2Proof.Laws
end

