-- ==== Sys2Proof/Laws/KeepsOps.lean ====
section
/-! SUPPORT. Every definition of Machine/Ops.lean keeps what `Keeps` says. -/
namespace Sys2Proof.Laws
open Sys2Proof.Machine Sys2Proof.Safety

/-- A register's key lies in its unit. -/
theorem rk_unit (off idx : Nat) : rk off idx / 2 ^ 52 = off / 2 ^ 20 := by
  unfold rk
  rw [show (2 : Nat) ^ 52 = 2 ^ 32 * 2 ^ 20 from rfl, ← Nat.div_div_eq_div_mul, Nat.mul_comm off, Nat.mul_add_div (by decide),
    Nat.div_eq_of_lt (Nat.mod_lt _ (by decide)), Nat.add_zero]

/-- A register's key under an offset. -/
theorem rk_off (off idx : Nat) : rk off idx / 2 ^ 32 = off := by
  unfold rk
  rw [Nat.mul_comm off, Nat.mul_add_div (by decide), Nat.div_eq_of_lt (Nat.mod_lt _ (by decide)), Nat.add_zero]

/-- The registers at an offset may change. -/
abbrev HasReg (m off : Nat) : Prop := Has m 3 ∨ Has m (32 + off / 2 ^ 20)

/-- What `setReg` keeps. -/
theorem setReg_keeps {m : Nat} {a : State} (s : State) (off idx : Nat) (v : W64) (h : Keeps m a s) (hr : HasReg m off) :
    Keeps m a (setReg s off idx v) :=
  keeps_regs h (twf_tset _ _ _) (fun n3 k nk => tget_tset_other _ _ _ (fun e => by
    rw [e, rk_unit] at nk
    exact hr.elim n3 nk))

/-- What `bumpBy` keeps. -/
theorem bumpBy_keeps {m : Nat} {a : State} (s : State) (off idx n : Nat) (h : Keeps m a s) (hr : HasReg m off) : Keeps m a (bumpBy s off idx n) :=
  setReg_keeps _ _ _ _ h hr

/-- What `bump` keeps. -/
theorem bump_keeps {m : Nat} {a : State} (s : State) (off idx : Nat) (h : Keeps m a s) (hr : HasReg m off) : Keeps m a (bump s off idx) :=
  bumpBy_keeps _ _ _ _ h hr

/-- What `bumpFnBy` keeps. -/
theorem bumpFnBy_keeps {m : Nat} {a : State} (s : State) (off fn n : Nat) (h : Keeps m a s) (hr : HasReg m off) : Keeps m a (bumpFnBy s off fn n) :=
  keeps_ite (bumpBy_keeps _ _ _ _ h hr) (bumpBy_keeps _ _ _ _ (bumpBy_keeps _ _ _ _ h hr) hr)

/-- What `bumpFn` keeps. -/
theorem bumpFn_keeps {m : Nat} {a : State} (s : State) (off fn : Nat) (h : Keeps m a s) (hr : HasReg m off) : Keeps m a (bumpFn s off fn) :=
  bumpFnBy_keeps _ _ _ _ h hr

/-- What `emit` keeps. -/
theorem emit_keeps {m : Nat} {a : State} (s : State) (o : Output) (h : Keeps m a s)
    (hm : Sub 0x20000000 m) : Keeps m a (emit s o) :=
  keeps_lift h hm (by
    have h : Keeps 0x20000000 s s := keeps_refl _ _
    unfold emit
    repeat' first
      | intro _ | with_reducible assumption | with_reducible exact rfl | exact rfl | exact Or.inl rfl | with_reducible exact Or.inr rfl
      | exact Or.inr rfl | simp only [↓keepsMk_eq] | with_reducible apply keepsMk_intro | dsimp only)

/-- What `draw` keeps. -/
theorem draw_keeps {m : Nat} {a : State} (s : State) (h : Keeps m a s)
    (hm : Sub 0x4 m) : Keeps m a (draw s).2 :=
  keeps_lift h hm (by
    have h : Keeps 0x4 s s := keeps_refl _ _
    unfold draw
    repeat' first
      | intro _ | with_reducible assumption | with_reducible exact rfl | exact rfl | exact Or.inl rfl | with_reducible exact Or.inr rfl
      | exact Or.inr rfl | simp only [↓keepsMk_eq] | with_reducible apply keepsMk_intro | dsimp only)

/-- What `drawN` keeps. -/
theorem drawN_keeps0 {a : State} (n : Nat) (s : State) (h : Keeps 0x4 a s) : Keeps 0x4 a (drawN n s).2 := by
  induction n generalizing s with
  | zero => exact h
  | succ n ih => exact ih _ (draw_keeps s h rfl)

/-- The same within a greater set. -/
theorem drawN_keeps {m : Nat} {a : State} (n : Nat) (s : State) (h : Keeps m a s) (hm : Sub 0x4 m) : Keeps m a (drawN n s).2 :=
  keeps_lift h hm (drawN_keeps0 n s (keeps_refl _ s))

/-- What `freeBytes` keeps. -/
theorem freeBytes_keeps0 {a : State} (n : Nat) (s : State) (h : Keeps 0x4 a s) : Keeps 0x4 a (freeBytes n s).2 := by
  induction n generalizing s with
  | zero => exact h
  | succ n ih => exact ih _ (draw_keeps s h rfl)

/-- The same within a greater set. -/
theorem freeBytes_keeps {m : Nat} {a : State} (n : Nat) (s : State) (h : Keeps m a s) (hm : Sub 0x4 m) : Keeps m a (freeBytes n s).2 :=
  keeps_lift h hm (freeBytes_keeps0 n s (keeps_refl _ s))

/-- What `fnMod` keeps. -/
theorem fnMod_keeps {m : Nat} {a : State} (s : State) (f : Nat) (g : Fn → Fn) (h : Keeps m a s)
    (hm : Sub 0x200 m) : Keeps m a (fnMod s f g) :=
  keeps_lift h hm (by
    have h : Keeps 0x200 s s := keeps_refl _ _
    unfold fnMod
    repeat' first
      | intro _ | with_reducible assumption | with_reducible exact rfl | exact rfl | exact Or.inl rfl | with_reducible exact Or.inr rfl
      | exact Or.inr rfl | simp only [↓keepsMk_eq] | with_reducible apply keepsMk_intro | dsimp only | split)

/-- What `dropHeld` keeps. -/
theorem dropHeld_keeps {m : Nat} {a : State} (s : State) (f : Nat) (h : Keeps m a s)
    (hm : Sub 0x200 m) : Keeps m a (dropHeld s f) :=
  keeps_lift h hm (by
    have h : Keeps 0x200 s s := keeps_refl _ _
    unfold dropHeld
    repeat' first
      | intro _ | with_reducible assumption | with_reducible exact rfl | exact rfl | exact Or.inl rfl | with_reducible exact Or.inr rfl
      | exact Or.inr rfl | with_reducible apply fnMod_keeps | simp only [↓keepsMk_eq] | with_reducible apply keepsMk_intro | dsimp only
      | split)

/-- What `tenantMod` keeps. -/
theorem tenantMod_keeps {m : Nat} {a : State} (s : State) (t : Nat) (g : Tenant → Tenant) (h : Keeps m a s)
    (hm : Sub 0x8000000 m) : Keeps m a (tenantMod s t g) :=
  keeps_lift h hm (by
    have h : Keeps 0x8000000 s s := keeps_refl _ _
    unfold tenantMod
    repeat' first
      | intro _ | with_reducible assumption | with_reducible exact rfl | exact rfl | exact Or.inl rfl | with_reducible exact Or.inr rfl
      | exact Or.inr rfl | simp only [↓keepsMk_eq] | with_reducible apply keepsMk_intro | dsimp only)

/-- What `setOwner` keeps. -/
theorem setOwner_keeps {m : Nat} {a : State} (s : State) (kind index t : Nat) (h : Keeps m a s) (hm : Sub 0x400 m) :
    Keeps m a (setOwner s kind index t) := keeps_lift h hm (keeps_owners (keeps_refl 0x400 s) rfl (twf_tset _ _ _))

end Sys2Proof.Laws
end

