-- ==== Sys2Proof/Laws/KeepsSqm.lean ====
section
/-! SUPPORT. Every definition of Machine/Sqm.lean keeps what `Keeps` says. -/
namespace Sys2Proof.Laws
open Sys2Proof.Machine Sys2Proof.Safety

/-- What `sqmMod` keeps. -/
theorem sqmMod_keeps {m : Nat} {a : State} (s : State) (q : Nat) (f : SqmQ → SqmQ) (h : Keeps m a s)
    (hm : Sub 0x4000 m) : Keeps m a (sqmMod s q f) :=
  keeps_lift h hm (by
    have h : Keeps 0x4000 s s := keeps_refl _ _
    unfold sqmMod
    repeat' first
      | intro _ | with_reducible assumption | with_reducible exact rfl | exact rfl | exact Or.inl rfl | with_reducible exact Or.inr rfl
      | exact Or.inr rfl | simp only [↓keepsMk_eq] | with_reducible apply keepsMk_intro | dsimp only | split)

/-- What `sqmSetFree` keeps. -/
theorem sqmSetFree_keeps {m : Nat} {a : State} (s : State) (sl : Nat) (n : Nat) (h : Keeps m a s)
    (hm : Sub 0x4000 m) : Keeps m a (sqmSetFree s sl n) :=
  keeps_lift h hm (by
    have h : Keeps 0x4000 s s := keeps_refl _ _
    unfold sqmSetFree
    repeat' first
      | intro _ | with_reducible assumption | with_reducible exact rfl | exact rfl | exact Or.inl rfl | with_reducible exact Or.inr rfl
      | exact Or.inr rfl | simp only [↓keepsMk_eq] | with_reducible apply keepsMk_intro | dsimp only | split)

/-- What `sqmSetRes` keeps. -/
theorem sqmSetRes_keeps {m : Nat} {a : State} (s : State) (sl : Nat) (n : Nat) (h : Keeps m a s)
    (hm : Sub 0x4000 m) : Keeps m a (sqmSetRes s sl n) :=
  keeps_lift h hm (by
    have h : Keeps 0x4000 s s := keeps_refl _ _
    unfold sqmSetRes
    repeat' first
      | intro _ | with_reducible assumption | with_reducible exact rfl | exact rfl | exact Or.inl rfl | with_reducible exact Or.inr rfl
      | exact Or.inr rfl | simp only [↓keepsMk_eq] | with_reducible apply keepsMk_intro | dsimp only | split)

/-- What `sqmCharge` keeps. -/
theorem sqmCharge_keeps {m : Nat} {a : State} (s : State) (t : Nat) (f : Nat → Nat) (h : Keeps m a s)
    (hm : Sub 0x4000 m) : Keeps m a (sqmCharge s t f) :=
  keeps_lift h hm (by
    have h : Keeps 0x4000 s s := keeps_refl _ _
    unfold sqmCharge
    repeat' first
      | intro _ | with_reducible assumption | with_reducible exact rfl | exact rfl | exact Or.inl rfl | with_reducible exact Or.inr rfl
      | exact Or.inr rfl | simp only [↓keepsMk_eq] | with_reducible apply keepsMk_intro | dsimp only | split)

/-- What `sqmCell` keeps. -/
theorem sqmCell_keeps {m : Nat} {a : State} (s : State) (q : Nat) (h : Keeps m a s)
    (hm : Sub 0x4000 m) : KO m a (sqmCell s q) :=
  ko_lift h hm (by
    have h : Keeps 0x4000 s s := keeps_refl _ _
    unfold sqmCell
    repeat' first
      | intro _ | with_reducible assumption | with_reducible exact rfl | exact rfl | exact Or.inl rfl | with_reducible exact Or.inr rfl
      | exact Or.inr rfl | with_reducible apply ko_some | with_reducible exact ko_none | with_reducible apply sqmMod_keeps
      | with_reducible apply sqmCharge_keeps | with_reducible apply sqmSetFree_keeps | with_reducible apply keeps_ite
      | simp only [↓keepsMk_eq] | with_reducible apply keepsMk_intro | dsimp only | split)

/-- What `sqmTake` keeps. -/
theorem sqmTake_keeps {m : Nat} {a : State} (s : State) (q : Nat) (n : Nat) (h : Keeps m a s)
    (hm : Sub 0x4000 m) : KO m a (sqmTake s q n) :=
  ko_lift h hm (by
    have h : Keeps 0x4000 s s := keeps_refl _ _
    unfold sqmTake
    repeat' first
      | intro _ | with_reducible assumption | with_reducible exact rfl | exact rfl | with_reducible apply ko_map
      | with_reducible apply ko_bind | with_reducible apply keeps_getD | with_reducible apply ko_some | with_reducible exact ko_none
      | with_reducible apply sqmCell_keeps | with_reducible apply keeps_ite | dsimp only | split
      | refine ko_get ?_ (by with_reducible assumption))

/-- What `sqmAppend` keeps. -/
theorem sqmAppend_keeps {m : Nat} {a : State} (s : State) (q : Nat) (ws : List SqmWord) (h : Keeps m a s)
    (hm : Sub 0x4000 m) : Keeps m a (sqmAppend s q ws) :=
  keeps_lift h hm (by
    have h : Keeps 0x4000 s s := keeps_refl _ _
    unfold sqmAppend
    repeat' first
      | intro _ | with_reducible assumption | with_reducible exact rfl | exact rfl | exact Or.inl rfl | with_reducible exact Or.inr rfl
      | exact Or.inr rfl | with_reducible apply sqmMod_keeps | with_reducible apply keeps_ite | simp only [↓keepsMk_eq]
      | with_reducible apply keepsMk_intro | dsimp only | split)

/-- What `sqmDrop` keeps. -/
theorem sqmDrop_keeps {m : Nat} {a : State} (s : State) (q : Nat) (n : Nat) (h : Keeps m a s)
    (hm : Sub 0x80000004000 m) : Keeps m a (sqmDrop s q n) :=
  keeps_lift h hm (by
    have h : Keeps 0x80000004000 s s := keeps_refl _ _
    unfold sqmDrop
    repeat' first
      | intro _ | with_reducible assumption | with_reducible exact rfl | exact rfl | exact Or.inl rfl | with_reducible exact Or.inr rfl
      | exact Or.inr rfl | with_reducible apply bumpFnBy_keeps | with_reducible apply sqmMod_keeps | simp only [↓keepsMk_eq]
      | with_reducible apply keepsMk_intro | dsimp only | split)

/-- What `sqmPushAll` keeps. -/
theorem sqmPushAll_keeps {m : Nat} {a : State} (s : State) (q : Nat) (ws : List SqmWord) (h : Keeps m a s)
    (hm : Sub 0x80000004000 m) : Keeps m a (sqmPushAll s q ws).1 :=
  keeps_lift h hm (by
    have h : Keeps 0x80000004000 s s := keeps_refl _ _
    unfold sqmPushAll
    repeat' first
      | intro _ | with_reducible assumption | with_reducible exact rfl | exact rfl | exact Or.inl rfl | with_reducible exact Or.inr rfl
      | exact Or.inr rfl | with_reducible apply ko_map | with_reducible apply ko_bind | with_reducible apply keeps_getD
      | with_reducible apply ko_some | with_reducible exact ko_none | with_reducible apply sqmMod_keeps
      | with_reducible apply sqmDrop_keeps | with_reducible apply sqmTake_keeps | with_reducible apply bumpFn_keeps
      | with_reducible apply sqmAppend_keeps | with_reducible apply keeps_ite | simp only [↓keepsMk_eq]
      | with_reducible apply keepsMk_intro | dsimp only | split | refine ko_get ?_ (by with_reducible assumption))

/-- What `sqmPush` keeps. -/
theorem sqmPush_keeps {m : Nat} {a : State} (s : State) (q : Nat) (w : W64) (h : Keeps m a s)
    (hm : Sub 0x80000004000 m) : Keeps m a (sqmPush s q w) :=
  keeps_lift h hm (by
    have h : Keeps 0x80000004000 s s := keeps_refl _ _
    unfold sqmPush
    repeat' first
      | intro _ | with_reducible assumption | with_reducible exact rfl | exact rfl | with_reducible apply sqmPushAll_keeps | dsimp only
      | refine kq_get ?_ (by with_reducible assumption) | refine kq_get1 ?_ (by with_reducible assumption))

/-- What `sqmUnderrun` keeps. -/
theorem sqmUnderrun_keeps {m : Nat} {a : State} (s : State) (q : Nat) (w : W64) (h : Keeps m a s)
    (hm : Sub 0x80000004000 m) : Keeps m a (sqmUnderrun s q w).1 :=
  keeps_lift h hm (by
    have h : Keeps 0x80000004000 s s := keeps_refl _ _
    unfold sqmUnderrun
    repeat' first
      | intro _ | with_reducible assumption | with_reducible exact rfl | exact rfl | exact Or.inl rfl | with_reducible exact Or.inr rfl
      | exact Or.inr rfl | with_reducible apply bumpFn_keeps | with_reducible apply sqmMod_keeps | simp only [↓keepsMk_eq]
      | with_reducible apply keepsMk_intro | dsimp only | split)

/-- What `sqmRetire` keeps. -/
theorem sqmRetire_keeps {m : Nat} {a : State} (s : State) (sl : Nat) (h : Keeps m a s)
    (hm : Sub 0x80000004000 m) : Keeps m a (sqmRetire s sl) :=
  keeps_lift h hm (by
    have h : Keeps 0x80000004000 s s := keeps_refl _ _
    unfold sqmRetire
    repeat' first
      | intro _ | with_reducible assumption | with_reducible exact rfl | exact rfl | exact Or.inl rfl | with_reducible exact Or.inr rfl
      | exact Or.inr rfl | with_reducible apply bump_keeps | with_reducible apply sqmSetFree_keeps | with_reducible apply sqmSetRes_keeps
      | with_reducible apply keeps_ite | dsimp only | split)

/-- What `sqmReturnHead` keeps. -/
theorem sqmReturnHead_keeps {m : Nat} {a : State} (s : State) (q : Nat) (h : Keeps m a s)
    (hm : Sub 0x80000004000 m) : Keeps m a (sqmReturnHead s q).1 :=
  keeps_lift h hm (by
    have h : Keeps 0x80000004000 s s := keeps_refl _ _
    unfold sqmReturnHead
    repeat' first
      | intro _ | with_reducible assumption | with_reducible exact rfl | exact rfl | exact Or.inl rfl | with_reducible exact Or.inr rfl
      | exact Or.inr rfl | with_reducible apply sqmCharge_keeps | with_reducible apply sqmMod_keeps
      | with_reducible apply sqmRetire_keeps | with_reducible apply sqmSetFree_keeps | with_reducible apply keeps_ite
      | simp only [↓keepsMk_eq] | with_reducible apply keepsMk_intro | dsimp only | split)

/-- What `sqmPopRaw` keeps. -/
theorem sqmPopRaw_keeps {m : Nat} {a : State} (s : State) (q : Nat) (bad : Bool) (h : Keeps m a s)
    (hm : Sub 0x80000004000 m) : Keeps m a (sqmPopRaw s q bad).1 :=
  keeps_lift h hm (by
    have h : Keeps 0x80000004000 s s := keeps_refl _ _
    unfold sqmPopRaw
    repeat' first
      | intro _ | with_reducible assumption | with_reducible exact rfl | exact rfl | exact Or.inl rfl | with_reducible exact Or.inr rfl
      | exact Or.inr rfl | with_reducible apply sqmUnderrun_keeps | with_reducible apply sqmMod_keeps | with_reducible apply bumpFn_keeps
      | with_reducible apply sqmReturnHead_keeps | with_reducible apply keeps_ite | simp only [↓keepsMk_eq]
      | with_reducible apply keepsMk_intro | dsimp only | split | refine kq_get ?_ (by with_reducible assumption)
      | refine kq_get1 ?_ (by with_reducible assumption))

/-- What `sqmStartClear` keeps. -/
theorem sqmStartClear_keeps {m : Nat} {a : State} (s : State) (q : Nat) (h : Keeps m a s)
    (hm : Sub 0x4000 m) : Keeps m a (sqmStartClear s q) :=
  keeps_lift h hm (by
    have h : Keeps 0x4000 s s := keeps_refl _ _
    unfold sqmStartClear
    repeat' first
      | intro _ | with_reducible assumption | with_reducible exact rfl | exact rfl | exact Or.inl rfl | with_reducible exact Or.inr rfl
      | exact Or.inr rfl | with_reducible apply sqmMod_keeps | simp only [↓keepsMk_eq] | with_reducible apply keepsMk_intro | dsimp only
      | split)

/-- What `sqmRecharge` keeps. -/
theorem sqmRecharge_keeps {m : Nat} {a : State} (s : State) (q : Nat) (old : Nat) (new : Nat) (h : Keeps m a s)
    (hm : Sub 0x4000 m) : Keeps m a (sqmRecharge s q old new) :=
  keeps_lift h hm (by
    have h : Keeps 0x4000 s s := keeps_refl _ _
    unfold sqmRecharge
    repeat' first
      | intro _ | with_reducible assumption | with_reducible exact rfl | exact rfl | with_reducible apply sqmCharge_keeps | dsimp only)

/-- What `boxValid` keeps. -/
theorem boxValid_keeps {m : Nat} {a : State} (s : State) (q : Nat) (t : Nat) (h : Keeps m a s)
    (hm : Sub 0x80000000400 m) : Keeps m a (boxValid s q t) :=
  keeps_lift h hm (by
    have h : Keeps 0x80000000400 s s := keeps_refl _ _
    unfold boxValid
    repeat' first
      | intro _ | with_reducible assumption | with_reducible exact rfl | exact rfl | exact Or.inl rfl | with_reducible exact Or.inr rfl
      | exact Or.inr rfl | with_reducible apply setReg_keeps | with_reducible apply setOwner_keeps | simp only [↓keepsMk_eq]
      | with_reducible apply keepsMk_intro | dsimp only)

/-- What `boxesValid` keeps. -/
theorem boxesValid_keeps {m : Nat} {a : State} (s : State) (t : Nat) (h : Keeps m a s)
    (hm : Sub 0x80000000400 m) : Keeps m a (boxesValid s t) :=
  keeps_lift h hm (by
    have h : Keeps 0x80000000400 s s := keeps_refl _ _
    unfold boxesValid
    repeat' first
      | intro _ | with_reducible assumption | with_reducible exact rfl | exact rfl | with_reducible apply boxValid_keeps | dsimp only)

end Sys2Proof.Laws
end

