-- ==== Sys2Proof/Laws/KeepsFev.lean ====
section
/-! SUPPORT. Every definition of Machine/Fev.lean keeps what `Keeps` says. -/
namespace Sys2Proof.Laws
open Sys2Proof.Machine Sys2Proof.Safety

/-- What `portMod` keeps. -/
theorem portMod_keeps {m : Nat} {a : State} (s : State) (n : Nat) (f : Port → Port) (h : Keeps m a s)
    (hm : Sub 0x2000 m) : Keeps m a (portMod s n f) :=
  keeps_lift h hm (by
    have h : Keeps 0x2000 s s := keeps_refl _ _
    unfold portMod
    repeat' first
      | intro _ | with_reducible assumption | with_reducible exact rfl | exact rfl | exact Or.inl rfl | with_reducible exact Or.inr rfl
      | exact Or.inr rfl | simp only [↓keepsMk_eq] | with_reducible apply keepsMk_intro | dsimp only | split)

/-- What `portEmpty` keeps. -/
theorem portEmpty_keeps {m : Nat} {a : State} (s : State) (n : Nat) (h : Keeps m a s)
    (hm : Sub 0x2000 m) : Keeps m a (portEmpty s n) :=
  keeps_lift h hm (by
    have h : Keeps 0x2000 s s := keeps_refl _ _
    unfold portEmpty
    repeat' first
      | intro _ | with_reducible assumption | with_reducible exact rfl | exact rfl | exact Or.inl rfl | with_reducible exact Or.inr rfl
      | exact Or.inr rfl | with_reducible apply portMod_keeps | simp only [↓keepsMk_eq] | with_reducible apply keepsMk_intro | dsimp only
      | split)

/-- What `portsEmpty` keeps. -/
theorem portsEmpty_keeps {m : Nat} {a : State} (s : State) (fn : Nat) (h : Keeps m a s)
    (hm : Sub 0x2000 m) : Keeps m a (portsEmpty s fn) :=
  keeps_lift h hm (by
    have h : Keeps 0x2000 s s := keeps_refl _ _
    unfold portsEmpty
    repeat' first
      | intro _ | with_reducible assumption | with_reducible exact rfl | exact rfl | with_reducible apply portEmpty_keeps
      | with_reducible apply keeps_ite | with_reducible apply keeps_foldl | dsimp only | split)

/-- What `vectorMod` keeps. -/
theorem vectorMod_keeps {m : Nat} {a : State} (s : State) (fn : Nat) (v : Nat) (g : Vector → Vector) (h : Keeps m a s)
    (hm : Sub 0x200 m) : Keeps m a (vectorMod s fn v g) :=
  keeps_lift h hm (by
    have h : Keeps 0x200 s s := keeps_refl _ _
    unfold vectorMod
    repeat' first
      | intro _ | with_reducible assumption | with_reducible exact rfl | exact rfl | exact Or.inl rfl | with_reducible exact Or.inr rfl
      | exact Or.inr rfl | with_reducible apply fnMod_keeps | simp only [↓keepsMk_eq] | with_reducible apply keepsMk_intro | dsimp only
      | split)

/-- What `sendVec` keeps. -/
theorem sendVec_keeps {m : Nat} {a : State} (s : State) (fn : Nat) (v : Nat) (h : Keeps m a s)
    (hm : Sub 0x20002200 m) : Keeps m a (sendVec s fn v) :=
  keeps_lift h hm (by
    have h : Keeps 0x20002200 s s := keeps_refl _ _
    unfold sendVec
    repeat' first
      | intro _ | with_reducible assumption | with_reducible exact rfl | exact rfl | exact Or.inl rfl | with_reducible exact Or.inr rfl
      | exact Or.inr rfl | with_reducible apply vectorMod_keeps | with_reducible apply emit_keeps | with_reducible apply portsEmpty_keeps
      | with_reducible apply keeps_ite | simp only [↓keepsMk_eq] | with_reducible apply keepsMk_intro | dsimp only | split)

/-- What `fevQMod` keeps. -/
theorem fevQMod_keeps {m : Nat} {a : State} (s : State) (qi : Nat) (f : FevQueue → FevQueue) (h : Keeps m a s)
    (hm : Sub 0x8000 m) : Keeps m a (fevQMod s qi f) :=
  keeps_lift h hm (by
    have h : Keeps 0x8000 s s := keeps_refl _ _
    unfold fevQMod
    repeat' first
      | intro _ | with_reducible assumption | with_reducible exact rfl | exact rfl | exact Or.inl rfl | with_reducible exact Or.inr rfl
      | exact Or.inr rfl | simp only [↓keepsMk_eq] | with_reducible apply keepsMk_intro | dsimp only | split)

/-- What `fevCMod` keeps. -/
theorem fevCMod_keeps {m : Nat} {a : State} (s : State) (qi : Nat) (cls : Nat) (f : FevClass → FevClass) (h : Keeps m a s)
    (hm : Sub 0x8000 m) : Keeps m a (fevCMod s qi cls f) :=
  keeps_lift h hm (by
    have h : Keeps 0x8000 s s := keeps_refl _ _
    unfold fevCMod
    repeat' first
      | intro _ | with_reducible assumption | with_reducible exact rfl | exact rfl | exact Or.inl rfl | with_reducible exact Or.inr rfl
      | exact Or.inr rfl | simp only [↓keepsMk_eq] | with_reducible apply keepsMk_intro | dsimp only | split)

/-- What `standbyCopy` keeps. -/
theorem standbyCopy_keeps {m : Nat} {a : State} (s : State) (r : Report) (ws : List W64) (h : Keeps m a s)
    (hm : Sub 0x8000 m) : Keeps m a (standbyCopy s r ws) :=
  keeps_lift h hm (by
    have h : Keeps 0x8000 s s := keeps_refl _ _
    unfold standbyCopy
    repeat' first
      | intro _ | with_reducible assumption | with_reducible exact rfl | exact rfl | exact Or.inl rfl | with_reducible exact Or.inr rfl
      | exact Or.inr rfl | with_reducible apply keeps_ite | simp only [↓keepsMk_eq] | with_reducible apply keepsMk_intro | dsimp only
      | split)

/-- What `fevIrq` keeps. -/
theorem fevIrq_keeps {m : Nat} {a : State} (s : State) (qi : Nat) (sev : Nat) (h : Keeps m a s)
    (hm : Sub 0x2000a200 m) : Keeps m a (fevIrq s qi sev) :=
  keeps_lift h hm (by
    have h : Keeps 0x2000a200 s s := keeps_refl _ _
    unfold fevIrq
    repeat' first
      | intro _ | with_reducible assumption | with_reducible exact rfl | exact rfl | exact Or.inl rfl | with_reducible exact Or.inr rfl
      | exact Or.inr rfl | with_reducible apply sendVec_keeps | with_reducible apply fevQMod_keeps | with_reducible apply keeps_ite
      | simp only [↓keepsMk_eq] | with_reducible apply keepsMk_intro | dsimp only | split)

/-- What `fevStore` keeps. -/
theorem fevStore_keeps {m : Nat} {a : State} (s : State) (r : Report) (qi : Nat) (h : Keeps m a s)
    (hm : Sub 0x8002000e200 m) : Keeps m a (fevStore s r qi) :=
  keeps_lift h hm (by
    have h : Keeps 0x8002000e200 s s := keeps_refl _ _
    unfold fevStore
    repeat' first
      | intro _ | with_reducible assumption | with_reducible exact rfl | exact rfl | exact Or.inl rfl | with_reducible exact Or.inr rfl
      | exact Or.inr rfl | with_reducible apply fevQMod_keeps | with_reducible apply standbyCopy_keeps
      | with_reducible apply sqmPushAll_keeps | with_reducible apply fevIrq_keeps | with_reducible apply fevCMod_keeps
      | with_reducible apply keeps_ite | simp only [↓keepsMk_eq] | with_reducible apply keepsMk_intro | dsimp only | split
      | refine kq_get ?_ (by with_reducible assumption) | refine kq_get1 ?_ (by with_reducible assumption))

/-- What `fevWrite` keeps. -/
theorem fevWrite_keeps {m : Nat} {a : State} (s : State) (r : Report) (qi : Nat) (h : Keeps m a s)
    (hm : Sub 0x8002000e200 m) : Keeps m a (fevWrite s r qi) :=
  keeps_lift h hm (by
    have h : Keeps 0x8002000e200 s s := keeps_refl _ _
    unfold fevWrite
    repeat' first
      | intro _ | with_reducible assumption | with_reducible exact rfl | exact rfl | exact Or.inl rfl | with_reducible exact Or.inr rfl
      | exact Or.inr rfl | with_reducible apply fevQMod_keeps | with_reducible apply fevStore_keeps | with_reducible apply fevCMod_keeps
      | with_reducible apply keeps_ite | simp only [↓keepsMk_eq] | with_reducible apply keepsMk_intro | dsimp only | split)

/-- What `fevEvent` keeps. -/
theorem fevEvent_keeps {m : Nat} {a : State} (s : State) (r : Report) (h : Keeps m a s)
    (hm : Sub 0x8002000e200 m) : Keeps m a (fevEvent s r) :=
  keeps_lift h hm (by
    have h : Keeps 0x8002000e200 s s := keeps_refl _ _
    unfold fevEvent
    repeat' first
      | intro _ | with_reducible assumption | with_reducible exact rfl | exact rfl | exact Or.inl rfl | with_reducible exact Or.inr rfl
      | exact Or.inr rfl | with_reducible apply fevWrite_keeps | with_reducible apply fevCMod_keeps | with_reducible apply keeps_ite
      | simp only [↓keepsMk_eq] | with_reducible apply keepsMk_intro | dsimp only | split)

/-- What `report` keeps. -/
theorem report_keeps {m : Nat} {a : State} (s : State) (r : Report) (h : Keeps m a s)
    (hm : Sub 0x8002000e200 m) : Keeps m a (report s r) :=
  keeps_lift h hm (by
    have h : Keeps 0x8002000e200 s s := keeps_refl _ _
    unfold report
    repeat' first
      | intro _ | with_reducible assumption | with_reducible exact rfl | exact rfl | with_reducible apply fevWrite_keeps
      | with_reducible apply fevEvent_keeps | with_reducible apply keeps_ite | dsimp only | split)

/-- What `accessEvent` keeps. -/
theorem accessEvent_keeps {m : Nat} {a : State} (s : State) (t : Nat) (status : Nat) (unit : Nat) (ctx : Nat) (queue : Nat) (addr : Nat) (h : Keeps m a s)
    (hm : Sub 0x8002000e200 m) : Keeps m a (accessEvent s t status unit ctx queue addr) :=
  keeps_lift h hm (by
    have h : Keeps 0x8002000e200 s s := keeps_refl _ _
    unfold accessEvent
    repeat' first
      | intro _ | with_reducible assumption | with_reducible exact rfl | exact rfl | with_reducible apply report_keeps | dsimp only)

/-- What `spareReport` keeps. -/
theorem spareReport_keeps {m : Nat} {a : State} (s : State) (kind : Nat) (unit : Nat) (inst : Nat) (left : Nat) (brought : Option Nat) (h : Keeps m a s)
    (hm : Sub 0x8002000e200 m) : Keeps m a (spareReport s kind unit inst left brought) :=
  keeps_lift h hm (by
    have h : Keeps 0x8002000e200 s s := keeps_refl _ _
    unfold spareReport
    repeat' first
      | intro _ | with_reducible assumption | with_reducible exact rfl | exact rfl | exact Or.inl rfl | with_reducible exact Or.inr rfl
      | exact Or.inr rfl | with_reducible apply report_keeps | with_reducible apply keeps_ite | simp only [↓keepsMk_eq]
      | with_reducible apply keepsMk_intro | dsimp only | split)

/-- What `cellReport` keeps. -/
theorem cellReport_keeps {m : Nat} {a : State} (s : State) (q : Nat) (sl : Nat) (was : Nat) (h : Keeps m a s)
    (hm : Sub 0x8002000e200 m) : Keeps m a (cellReport s q sl was) :=
  keeps_lift h hm (by
    have h : Keeps 0x8002000e200 s s := keeps_refl _ _
    unfold cellReport
    repeat' first
      | intro _ | with_reducible assumption | with_reducible exact rfl | exact rfl | with_reducible apply spareReport_keeps
      | with_reducible apply keeps_ite | dsimp only | split)

/-- What `sqmPop` keeps. -/
theorem sqmPop_keeps {m : Nat} {a : State} (s : State) (q : Nat) (bad : Bool) (h : Keeps m a s)
    (hm : Sub 0x8002000e200 m) : Keeps m a (sqmPop s q bad).1 :=
  keeps_lift h hm (by
    have h : Keeps 0x8002000e200 s s := keeps_refl _ _
    unfold sqmPop
    repeat' first
      | intro _ | with_reducible assumption | with_reducible exact rfl | exact rfl | with_reducible apply sqmPopRaw_keeps
      | with_reducible apply report_keeps | with_reducible apply cellReport_keeps | with_reducible apply keeps_ite | dsimp only | split
      | refine kq_get ?_ (by with_reducible assumption) | refine kq_get1 ?_ (by with_reducible assumption))

/-- What `sqmGiveBack` keeps. -/
theorem sqmGiveBack_keeps0 {a : State} (q : Nat) (x1 : List SqmCell) (s : State) (h : Keeps 0x8002000e200 a s) :
    Keeps 0x8002000e200 a (sqmGiveBack q x1 s) := by
  induction x1 generalizing q s with
  | nil =>
    unfold sqmGiveBack
    repeat' first
      | intro _ | with_reducible assumption | with_reducible exact rfl | exact rfl | with_reducible apply ko_map
      | with_reducible apply ko_bind | with_reducible apply keeps_getD | with_reducible apply sqmRetire_keeps
      | with_reducible apply cellReport_keeps | with_reducible apply sqmSetFree_keeps | with_reducible apply keeps_ite | dsimp only
      | split | cases ‹_ :: _ = _ :: _›
  | cons _ _ ih =>
    unfold sqmGiveBack
    repeat' first
      | intro _ | with_reducible assumption | with_reducible exact rfl | exact rfl | with_reducible apply ih
      | with_reducible apply ko_map | with_reducible apply ko_bind | with_reducible apply keeps_getD
      | with_reducible apply sqmRetire_keeps | with_reducible apply cellReport_keeps | with_reducible apply sqmSetFree_keeps
      | with_reducible apply keeps_ite | dsimp only | split | cases ‹_ :: _ = _ :: _›

/-- The same within a greater set. -/
theorem sqmGiveBack_keeps {m : Nat} {a : State} (q : Nat) (x1 : List SqmCell) (s : State) (h : Keeps m a s)
    (hm : Sub 0x8002000e200 m) : Keeps m a (sqmGiveBack q x1 s) :=
  keeps_lift h hm (sqmGiveBack_keeps0 q x1 s (keeps_refl _ _))

/-- What `sqmClear` keeps. -/
theorem sqmClear_keeps {m : Nat} {a : State} (s : State) (q : Nat) (t : Nat) (h : Keeps m a s)
    (hm : Sub 0x8002000e200 m) : Keeps m a (sqmClear s q t) :=
  keeps_lift h hm (by
    have h : Keeps 0x8002000e200 s s := keeps_refl _ _
    unfold sqmClear
    repeat' first
      | intro _ | with_reducible assumption | with_reducible exact rfl | exact rfl | with_reducible apply sqmCharge_keeps
      | with_reducible apply sqmGiveBack_keeps | with_reducible apply sqmMod_keeps | dsimp only | split)

/-- What `suspectQueue` keeps. -/
theorem suspectQueue_keeps {m : Nat} {a : State} (s : State) (qi : Nat) (node : Nat) (tenant : Nat) (status : Nat) (first : Nat) (h : Keeps m a s)
    (hm : Sub 0x88002000e200 m) : Keeps m a (suspectQueue s qi node tenant status first) :=
  keeps_lift h hm (by
    have h : Keeps 0x88002000e200 s s := keeps_refl _ _
    unfold suspectQueue
    repeat' first
      | intro _ | with_reducible assumption | with_reducible exact rfl | exact rfl | exact Or.inl rfl | with_reducible exact Or.inr rfl
      | exact Or.inr rfl | with_reducible apply bump_keeps | with_reducible apply fevWrite_keeps | with_reducible apply keeps_ite
      | simp only [↓keepsMk_eq] | with_reducible apply keepsMk_intro | dsimp only | split)

/-- What `suspect` keeps. -/
theorem suspect_keeps {m : Nat} {a : State} (s : State) (tenant : Nat) (node : Nat) (status : Nat) (first : Nat) (unreachable : Bool) (h : Keeps m a s)
    (hm : Sub 0x88002000e200 m) : Keeps m a (suspect s tenant node status first unreachable) :=
  keeps_lift h hm (by
    have h : Keeps 0x88002000e200 s s := keeps_refl _ _
    unfold suspect
    repeat' first
      | intro _ | with_reducible assumption | with_reducible exact rfl | exact rfl | exact Or.inl rfl | with_reducible exact Or.inr rfl
      | exact Or.inr rfl | with_reducible apply bump_keeps | with_reducible apply suspectQueue_keeps | with_reducible apply fevCMod_keeps
      | with_reducible apply keeps_ite | simp only [↓keepsMk_eq] | with_reducible apply keepsMk_intro | dsimp only | split)

/-- What `suppressNode` keeps. -/
theorem suppressNode_keeps {m : Nat} {a : State} (s : State) (node : Nat) (h : Keeps m a s)
    (hm : Sub 0x8000 m) : Keeps m a (suppressNode s node) :=
  keeps_lift h hm (by
    have h : Keeps 0x8000 s s := keeps_refl _ _
    unfold suppressNode
    repeat' first
      | intro _ | with_reducible assumption | with_reducible exact rfl | exact rfl | exact Or.inl rfl | with_reducible exact Or.inr rfl
      | exact Or.inr rfl | with_reducible apply keeps_ite | simp only [↓keepsMk_eq] | with_reducible apply keepsMk_intro | dsimp only
      | split)

/-- What `fevRestart` keeps. -/
theorem fevRestart_keeps {m : Nat} {a : State} (s : State) (qi : Nat) (h : Keeps m a s)
    (hm : Sub 0x8000 m) : Keeps m a (fevRestart s qi) :=
  keeps_lift h hm (by
    have h : Keeps 0x8000 s s := keeps_refl _ _
    unfold fevRestart
    repeat' first
      | intro _ | with_reducible assumption | with_reducible exact rfl | exact rfl | exact Or.inl rfl | with_reducible exact Or.inr rfl
      | exact Or.inr rfl | with_reducible apply fevQMod_keeps | simp only [↓keepsMk_eq] | with_reducible apply keepsMk_intro | dsimp only
      | split)

/-- What `execFaultReport` keeps. -/
theorem execFaultReport_keeps {m : Nat} {a : State} (r : Report) (s : State) (h : Keeps m a s)
    (hm : Sub 0x8002000e200 m) : KN m a (execFaultReport r s) :=
  kn_lift h hm (by
    have h : Keeps 0x8002000e200 s s := keeps_refl _ _
    unfold execFaultReport
    repeat' first
      | intro _ | with_reducible assumption | with_reducible exact rfl | exact rfl | with_reducible apply kn_next
      | with_reducible apply report_keeps | dsimp only)

/-- What `execSuspectWindowClose` keeps. -/
theorem execSuspectWindowClose_keeps {m : Nat} {a : State} (qi : Nat) (node : Nat) (s : State) (h : Keeps m a s)
    (hm : Sub 0x8002000e200 m) : KN m a (execSuspectWindowClose qi node s) :=
  kn_lift h hm (by
    have h : Keeps 0x8002000e200 s s := keeps_refl _ _
    unfold execSuspectWindowClose
    repeat' first
      | intro _ | with_reducible assumption | with_reducible exact rfl | exact rfl | exact Or.inl rfl | with_reducible exact Or.inr rfl
      | exact Or.inr rfl | with_reducible apply kn_next | with_reducible apply fevCMod_keeps | with_reducible apply fevWrite_keeps
      | with_reducible apply keeps_ite | simp only [↓keepsMk_eq] | with_reducible apply keepsMk_intro | dsimp only | split)

/-- What `execNoticeSuppressionExpiry` keeps. -/
theorem execNoticeSuppressionExpiry_keeps {m : Nat} {a : State} (node : Nat) (s : State) (h : Keeps m a s)
    (hm : Sub 0x8000 m) : KN m a (execNoticeSuppressionExpiry node s) :=
  kn_lift h hm (by
    have h : Keeps 0x8000 s s := keeps_refl _ _
    unfold execNoticeSuppressionExpiry
    repeat' first
      | intro _ | with_reducible assumption | with_reducible exact rfl | exact rfl | exact Or.inl rfl | with_reducible exact Or.inr rfl
      | exact Or.inr rfl | with_reducible apply kn_next | simp only [↓keepsMk_eq] | with_reducible apply keepsMk_intro | dsimp only)

/-- What `fevPop` keeps. -/
theorem fevPop_keeps {m : Nat} {a : State} (qi : Nat) (fn : Nat) (bad : Bool) (s : State) (h : Keeps m a s)
    (hm : Sub 0x8002000e200 m) : Keeps m a (fevPop qi fn bad s) :=
  keeps_lift h hm (by
    have h : Keeps 0x8002000e200 s s := keeps_refl _ _
    unfold fevPop
    repeat' first
      | intro _ | with_reducible assumption | with_reducible exact rfl | exact rfl | exact Or.inl rfl | with_reducible exact Or.inr rfl
      | exact Or.inr rfl | with_reducible apply sqmPop_keeps | with_reducible apply emit_keeps | with_reducible apply fnMod_keeps
      | with_reducible apply fevQMod_keeps | with_reducible apply keeps_ite | simp only [↓keepsMk_eq]
      | with_reducible apply keepsMk_intro | dsimp only | split | refine kq_get ?_ (by with_reducible assumption)
      | refine kq_get1 ?_ (by with_reducible assumption))

/-- What `execFaultQueuePop` keeps. -/
theorem execFaultQueuePop_keeps {m : Nat} {a : State} (bytes : Nat) (bad : Bool) (s : State) (h : Keeps m a s)
    (hm : Sub 0x8002000e200 m) : KN m a (execFaultQueuePop bytes bad s) :=
  kn_lift h hm (by
    have h : Keeps 0x8002000e200 s s := keeps_refl _ _
    unfold execFaultQueuePop
    repeat' first
      | intro _ | with_reducible assumption | with_reducible exact rfl | exact rfl | with_reducible apply kn_next
      | with_reducible apply fevPop_keeps | with_reducible apply emit_keeps | with_reducible apply keeps_ite | dsimp only | split)

/-- What `execEventQueuePop` keeps. -/
theorem execEventQueuePop_keeps {m : Nat} {a : State} (fn : Nat) (bytes : Nat) (bad : Bool) (s : State) (h : Keeps m a s)
    (hm : Sub 0x8002000e200 m) : KN m a (execEventQueuePop fn bytes bad s) :=
  kn_lift h hm (by
    have h : Keeps 0x8002000e200 s s := keeps_refl _ _
    unfold execEventQueuePop
    repeat' first
      | intro _ | with_reducible assumption | with_reducible exact rfl | exact rfl | with_reducible apply kn_next
      | with_reducible apply fevPop_keeps | with_reducible apply emit_keeps | with_reducible apply keeps_ite | dsimp only | split)

/-- What `execStandbyCopyRead` keeps. -/
theorem execStandbyCopyRead_keeps {m : Nat} {a : State} (s : State) (h : Keeps m a s)
    (hm : Sub 0x20008000 m) : KN m a (execStandbyCopyRead s) :=
  kn_lift h hm (by
    have h : Keeps 0x20008000 s s := keeps_refl _ _
    unfold execStandbyCopyRead
    repeat' first
      | intro _ | with_reducible assumption | with_reducible exact rfl | exact rfl | exact Or.inl rfl | with_reducible exact Or.inr rfl
      | exact Or.inr rfl | with_reducible apply kn_next | with_reducible apply emit_keeps | with_reducible apply keeps_ite
      | simp only [↓keepsMk_eq] | with_reducible apply keepsMk_intro | dsimp only | split)

end Sys2Proof.Laws
end

