-- ==== Sys2Proof/Laws/KeepsMem.lean ====
section
/-! SUPPORT. Every definition of Machine/Mem.lean keeps what `Keeps` says. -/
namespace Sys2Proof.Laws
open Sys2Proof.Machine Sys2Proof.Safety

/-- What `ctrlMod` keeps. -/
theorem ctrlMod_keeps {m : Nat} {a : State} (s : State) (c : Nat) (f : Controller → Controller) (h : Keeps m a s)
    (hm : Sub 0x10000 m) : Keeps m a (ctrlMod s c f) :=
  keeps_lift h hm (by
    have h : Keeps 0x10000 s s := keeps_refl _ _
    unfold ctrlMod
    repeat' first
      | intro _ | with_reducible assumption | with_reducible exact rfl | exact rfl | exact Or.inl rfl | with_reducible exact Or.inr rfl
      | exact Or.inr rfl | simp only [↓keepsMk_eq] | with_reducible apply keepsMk_intro | dsimp only | split)

/-- What `frameMod` keeps. -/
theorem frameMod_keeps {m : Nat} {a : State} (s : State) (f : Nat) (g : Frame → Frame) (h : Keeps m a s)
    (hm : Sub 0x10000 m) : Keeps m a (frameMod s f g) :=
  keeps_lift h hm (by
    have h : Keeps 0x10000 s s := keeps_refl _ _
    unfold frameMod
    repeat' first
      | intro _ | with_reducible assumption | with_reducible exact rfl | exact rfl | exact Or.inl rfl | with_reducible exact Or.inr rfl
      | exact Or.inr rfl | simp only [↓keepsMk_eq] | with_reducible apply keepsMk_intro | dsimp only | split)

/-- What `setByte` keeps. -/
theorem setByte_keeps {m : Nat} {a : State} (s : State) (k : Nat) (b : Byte) (h : Keeps m a s) (hm : Sub 0x1000000000000 m) :
    Keeps m a (setByte s k b) := keeps_lift h hm (keeps_bytes (keeps_refl 0x1000000000000 s) rfl (twf_tset _ _ _) id)

/-- What `setBytes` keeps. -/
theorem setBytes_keeps0 {z : State} (s : State) (a : Nat) (x1 : List Byte) (h : Keeps 0x1000000000000 z s) :
    Keeps 0x1000000000000 z (setBytes s a x1) := by
  induction x1 generalizing s a with
  | nil =>
    unfold setBytes
    repeat' first
      | intro _ | with_reducible assumption | with_reducible exact rfl | exact rfl | with_reducible apply ko_map
      | with_reducible apply ko_bind | with_reducible apply keeps_getD | with_reducible apply setByte_keeps | dsimp only
      | cases ‹_ :: _ = _ :: _›
  | cons _ _ ih =>
    unfold setBytes
    repeat' first
      | intro _ | with_reducible assumption | with_reducible exact rfl | exact rfl | with_reducible apply ih
      | with_reducible apply ko_map | with_reducible apply ko_bind | with_reducible apply keeps_getD | with_reducible apply setByte_keeps
      | dsimp only | cases ‹_ :: _ = _ :: _›

/-- The same within a greater set. -/
theorem setBytes_keeps {m : Nat} {z : State} (s : State) (a : Nat) (x1 : List Byte) (h : Keeps m z s)
    (hm : Sub 0x1000000000000 m) : Keeps m z (setBytes s a x1) :=
  keeps_lift h hm (setBytes_keeps0 s a x1 (keeps_refl _ _))

/-- What `setBlk` keeps. -/
theorem setBlk_keeps {m : Nat} {a : State} (s : State) (b : Nat) (v : Blk) (h : Keeps m a s) (hm : Sub 0x1000000000000 m) :
    Keeps m a (setBlk s b v) := keeps_lift h hm (keeps_bytes (keeps_refl 0x1000000000000 s) rfl id (twf_tset _ _ _))

/-- What `tagFailure` keeps. -/
theorem tagFailure_keeps {m : Nat} {a : State} (s : State) (b : Nat) (h : Keeps m a s)
    (hm : Sub 0x10c002000e200 m) : Keeps m a (tagFailure s b) :=
  keeps_lift h hm (by
    have h : Keeps 0x10c002000e200 s s := keeps_refl _ _
    unfold tagFailure
    repeat' first
      | intro _ | with_reducible assumption | with_reducible exact rfl | exact rfl | exact Or.inl rfl | with_reducible exact Or.inr rfl
      | exact Or.inr rfl | with_reducible apply setBlk_keeps | with_reducible apply report_keeps | with_reducible apply setReg_keeps
      | with_reducible apply bump_keeps | simp only [↓keepsMk_eq] | with_reducible apply keepsMk_intro | dsimp only | split)

/-- What `settleTags` keeps. -/
theorem settleTags_keeps {m : Nat} {a : State} (s : State) (bs : List Nat) (h : Keeps m a s)
    (hm : Sub 0x10c002000e200 m) : Keeps m a (settleTags s bs) :=
  keeps_lift h hm (by
    have h : Keeps 0x10c002000e200 s s := keeps_refl _ _
    unfold settleTags
    repeat' first
      | intro _ | with_reducible assumption | with_reducible exact rfl | exact rfl | with_reducible apply tagFailure_keeps
      | with_reducible apply keeps_ite | with_reducible apply keeps_foldl | dsimp only | split)

/-- What `ownFault` keeps. -/
theorem ownFault_keeps {m : Nat} {a : State} (s : State) (t : Nat) (h : Keeps m a s)
    (hm : Sub 0x400000000 m) : Keeps m a (ownFault s t) :=
  keeps_lift h hm (by
    have h : Keeps 0x400000000 s s := keeps_refl _ _
    unfold ownFault
    repeat' first
      | intro _ | with_reducible assumption | with_reducible exact rfl | exact rfl | exact Or.inl rfl | with_reducible exact Or.inr rfl
      | exact Or.inr rfl | with_reducible apply bumpFn_keeps | dsimp only)

/-- What `memRead` keeps. -/
theorem memRead_keeps {m : Nat} {z : State} (s : State) (t : Nat) (a : Nat) (n : Nat) (h : Keeps m z s)
    (hm : Sub 0x10c042000e200 m) : Keeps m z (memRead s t a n).1 :=
  keeps_lift h hm (by
    have h : Keeps 0x10c042000e200 s s := keeps_refl _ _
    unfold memRead
    repeat' first
      | intro _ | with_reducible assumption | with_reducible exact rfl | exact rfl | with_reducible apply settleTags_keeps
      | with_reducible apply ownFault_keeps | with_reducible apply keeps_ite | dsimp only | split)

/-- What `settleBlock` keeps. -/
theorem settleBlock_keeps {m : Nat} {z : State} (s : State) (a : Nat) (n : Nat) (b : Nat) (h : Keeps m z s)
    (hm : Sub 0x1000000000000 m) : Keeps m z (settleBlock s a n b) :=
  keeps_lift h hm (by
    have h : Keeps 0x1000000000000 s s := keeps_refl _ _
    unfold settleBlock
    repeat' first
      | intro _ | with_reducible assumption | with_reducible exact rfl | exact rfl | with_reducible apply setBytes_keeps
      | with_reducible apply keeps_ite | dsimp only | split)

/-- What `memWrite` keeps. -/
theorem memWrite_keeps {m : Nat} {z : State} (s : State) (t : Nat) (a : Nat) (bytes : List Byte) (bad : Marks) (h : Keeps m z s)
    (hm : Sub 0x1000400000000 m) : Keeps m z (memWrite s t a bytes bad).1 :=
  keeps_lift h hm (by
    have h : Keeps 0x1000400000000 s s := keeps_refl _ _
    unfold memWrite
    repeat' first
      | intro _ | with_reducible assumption | with_reducible exact rfl | exact rfl | with_reducible apply setBytes_keeps
      | with_reducible apply settleBlock_keeps | with_reducible apply setBlk_keeps | with_reducible apply ownFault_keeps
      | with_reducible apply keeps_ite | with_reducible apply keeps_foldl | dsimp only | split)

/-- What `zeroRange` keeps. -/
theorem zeroRange_keeps {m : Nat} {a : State} (s : State) (k n : Nat) (h : Keeps m a s) (hm : Sub 0x1000000000000 m) :
    Keeps m a (zeroRange s k n) := keeps_lift h hm (keeps_bytes (keeps_refl 0x1000000000000 s) rfl (twf_filter _ _) (twf_filter _ _))

/-- What `keySetPut` keeps. -/
theorem keySetPut_keeps {m : Nat} {a : State} (s : State) (t : Nat) (quads : BitVec 4) (h : Keeps m a s)
    (hm : Sub 0x10000 m) : Keeps m a (keySetPut s t quads) :=
  keeps_lift h hm (by
    have h : Keeps 0x10000 s s := keeps_refl _ _
    unfold keySetPut
    repeat' first
      | intro _ | with_reducible assumption | with_reducible exact rfl | exact rfl | exact Or.inl rfl | with_reducible exact Or.inr rfl
      | exact Or.inr rfl | simp only [↓keepsMk_eq] | with_reducible apply keepsMk_intro | dsimp only | split)

/-- What `keySetLoad` keeps. -/
theorem keySetLoad_keeps {m : Nat} {a : State} (s : State) (t : Nat) (quads : BitVec 4) (h : Keeps m a s)
    (hm : Sub 0x10004 m) : Keeps m a (keySetLoad s t quads) :=
  keeps_lift h hm (by
    have h : Keeps 0x10004 s s := keeps_refl _ _
    unfold keySetLoad
    repeat' first
      | intro _ | with_reducible assumption | with_reducible exact rfl | exact rfl | exact Or.inl rfl | with_reducible exact Or.inr rfl
      | exact Or.inr rfl | with_reducible apply drawN_keeps | with_reducible apply keySetPut_keeps | simp only [↓keepsMk_eq]
      | with_reducible apply keepsMk_intro | with_reducible apply keeps_foldl | dsimp only | split
      | refine kr_get ?_ (by with_reducible assumption))

/-- What `startRetire` keeps. -/
theorem startRetire_keeps {m : Nat} {z : State} (s : State) (c : Nat) (g : Nat) (a : Nat) (h : Keeps m z s)
    (hm : Sub 0x8002001e200 m) : Keeps m z (startRetire s c g a) :=
  keeps_lift h hm (by
    have h : Keeps 0x8002001e200 s s := keeps_refl _ _
    unfold startRetire
    repeat' first
      | intro _ | with_reducible assumption | with_reducible exact rfl | exact rfl | exact Or.inl rfl | with_reducible exact Or.inr rfl
      | exact Or.inr rfl | with_reducible apply frameMod_keeps | with_reducible apply report_keeps | with_reducible apply ctrlMod_keeps
      | with_reducible apply keeps_ite | simp only [↓keepsMk_eq] | with_reducible apply keepsMk_intro | dsimp only | split)

/-- What `countError` keeps. -/
theorem countError_keeps {m : Nat} {z : State} (s : State) (c : Nat) (g : Nat) (a : Nat) (h : Keeps m z s)
    (hm : Sub 0x8002001e200 m) : Keeps m z (countError s c g a) :=
  keeps_lift h hm (by
    have h : Keeps 0x8002001e200 s s := keeps_refl _ _
    unfold countError
    repeat' first
      | intro _ | with_reducible assumption | with_reducible exact rfl | exact rfl | exact Or.inl rfl | with_reducible exact Or.inr rfl
      | exact Or.inr rfl | with_reducible apply ctrlMod_keeps | with_reducible apply startRetire_keeps | with_reducible apply keeps_ite
      | simp only [↓keepsMk_eq] | with_reducible apply keepsMk_intro | dsimp only | split)

/-- What `applyFinding` keeps. -/
theorem applyFinding_keeps {m : Nat} {z : State} (s : State) (a : Nat) (f : Finding) (h : Keeps m z s)
    (hm : Sub 0x10c002001e200 m) : Keeps m z (applyFinding s a f) :=
  keeps_lift h hm (by
    have h : Keeps 0x10c002001e200 s s := keeps_refl _ _
    unfold applyFinding
    repeat' first
      | intro _ | with_reducible assumption | with_reducible exact rfl | exact rfl | exact Or.inl rfl | with_reducible exact Or.inr rfl
      | exact Or.inr rfl | with_reducible apply countError_keeps | with_reducible apply bump_keeps | with_reducible apply setReg_keeps
      | with_reducible apply setBlk_keeps | with_reducible apply startRetire_keeps | with_reducible apply report_keeps
      | with_reducible apply keeps_ite | simp only [↓keepsMk_eq] | with_reducible apply keepsMk_intro | dsimp only | split)

/-- What `execMemoryWrite` keeps. -/
theorem execMemoryWrite_keeps {m : Nat} {z : State} (t : Nat) (a : Nat) (bytes : List Byte) (s : State) (h : Keeps m z s)
    (hm : Sub 0x1000400010000 m) : KN m z (execMemoryWrite t a bytes s) :=
  kn_lift h hm (by
    have h : Keeps 0x1000400010000 s s := keeps_refl _ _
    unfold execMemoryWrite
    repeat' first
      | intro _ | with_reducible assumption | with_reducible exact rfl | exact rfl | exact Or.inl rfl | with_reducible exact Or.inr rfl
      | exact Or.inr rfl | with_reducible apply kn_next | with_reducible apply ctrlMod_keeps | with_reducible apply memWrite_keeps
      | simp only [↓keepsMk_eq] | with_reducible apply keepsMk_intro | dsimp only | split
      | refine kq_get ?_ (by with_reducible assumption) | refine kq_get1 ?_ (by with_reducible assumption))

/-- What `execMemoryRead` keeps. -/
theorem execMemoryRead_keeps {m : Nat} {z : State} (t : Nat) (a : Nat) (n : Nat) (f : Finding) (s : State) (h : Keeps m z s)
    (hm : Sub 0x10c042001e200 m) : KN m z (execMemoryRead t a n f s) :=
  kn_lift h hm (by
    have h : Keeps 0x10c042001e200 s s := keeps_refl _ _
    unfold execMemoryRead
    repeat' first
      | intro _ | with_reducible assumption | with_reducible exact rfl | exact rfl | exact Or.inl rfl | with_reducible exact Or.inr rfl
      | exact Or.inr rfl | with_reducible apply kn_next | with_reducible apply ctrlMod_keeps | with_reducible apply memRead_keeps
      | with_reducible apply applyFinding_keeps | with_reducible apply emit_keeps | with_reducible apply ownFault_keeps
      | with_reducible apply keeps_ite | simp only [↓keepsMk_eq] | with_reducible apply keepsMk_intro | dsimp only | split
      | refine kq_get ?_ (by with_reducible assumption) | refine kq_get1 ?_ (by with_reducible assumption))

/-- What `releaseHeld` keeps. -/
theorem releaseHeld_keeps {m : Nat} {a : State} (s : State) (c : Nat) (h : Keeps m a s)
    (hm : Sub 0x30000 m) : Keeps m a (releaseHeld s c) :=
  keeps_lift h hm (by
    have h : Keeps 0x30000 s s := keeps_refl _ _
    unfold releaseHeld
    repeat' first
      | intro _ | with_reducible assumption | with_reducible exact rfl | exact rfl | exact Or.inl rfl | with_reducible exact Or.inr rfl
      | exact Or.inr rfl | with_reducible apply ctrlMod_keeps | simp only [↓keepsMk_eq] | with_reducible apply keepsMk_intro | dsimp only
      | split)

/-- What `execRetirementCopyDone` keeps. -/
theorem execRetirementCopyDone_keeps {m : Nat} {a : State} (c : Nat) (bad : Option Nat) (s : State) (h : Keeps m a s)
    (hm : Sub 0x10c002003e200 m) : KN m a (execRetirementCopyDone c bad s) :=
  kn_lift h hm (by
    have h : Keeps 0x10c002003e200 s s := keeps_refl _ _
    unfold execRetirementCopyDone
    repeat' first
      | intro _ | with_reducible assumption | with_reducible exact rfl | exact rfl | exact Or.inl rfl | with_reducible exact Or.inr rfl
      | exact Or.inr rfl | with_reducible apply kn_next | with_reducible apply bump_keeps | with_reducible apply ctrlMod_keeps
      | with_reducible apply report_keeps | with_reducible apply setReg_keeps | with_reducible apply setBlk_keeps
      | with_reducible apply releaseHeld_keeps | with_reducible apply spareReport_keeps | with_reducible apply keeps_ite
      | simp only [↓keepsMk_eq] | with_reducible apply keepsMk_intro | dsimp only | split)

/-- What `execPatrolRead` keeps. -/
theorem execPatrolRead_keeps {m : Nat} {z : State} (c : Nat) (a : Nat) (f : Finding) (written : Bool) (pass : Bool) (s : State) (h : Keeps m z s)
    (hm : Sub 0x10c002001e200 m) : KN m z (execPatrolRead c a f written pass s) :=
  kn_lift h hm (by
    have h : Keeps 0x10c002001e200 s s := keeps_refl _ _
    unfold execPatrolRead
    repeat' first
      | intro _ | with_reducible assumption | with_reducible exact rfl | exact rfl | exact Or.inl rfl | with_reducible exact Or.inr rfl
      | exact Or.inr rfl | with_reducible apply kn_next | with_reducible apply bump_keeps | with_reducible apply zeroRange_keeps
      | with_reducible apply applyFinding_keeps | with_reducible apply settleTags_keeps | with_reducible apply keeps_ite | dsimp only
      | split)

/-- What `execChannelRetrain` keeps. -/
theorem execChannelRetrain_keeps {m : Nat} {a : State} (c : Nat) (temp : Nat) (s : State) (h : Keeps m a s)
    (hm : Sub 0x10000 m) : KN m a (execChannelRetrain c temp s) :=
  kn_lift h hm (by
    have h : Keeps 0x10000 s s := keeps_refl _ _
    unfold execChannelRetrain
    repeat' first
      | intro _ | with_reducible assumption | with_reducible exact rfl | exact rfl | exact Or.inl rfl | with_reducible exact Or.inr rfl
      | exact Or.inr rfl | with_reducible apply kn_next | with_reducible apply ctrlMod_keeps | with_reducible apply keeps_ite
      | simp only [↓keepsMk_eq] | with_reducible apply keepsMk_intro | dsimp only | split)

/-- What `execRetrainDone` keeps. -/
theorem execRetrainDone_keeps {m : Nat} {a : State} (c : Nat) (ok : Bool) (s : State) (h : Keeps m a s)
    (hm : Sub 0xc002003e200 m) : KN m a (execRetrainDone c ok s) :=
  kn_lift h hm (by
    have h : Keeps 0xc002003e200 s s := keeps_refl _ _
    unfold execRetrainDone
    repeat' first
      | intro _ | with_reducible assumption | with_reducible exact rfl | exact rfl | exact Or.inl rfl | with_reducible exact Or.inr rfl
      | exact Or.inr rfl | with_reducible apply kn_next | with_reducible apply bump_keeps | with_reducible apply ctrlMod_keeps
      | with_reducible apply releaseHeld_keeps | with_reducible apply report_keeps | with_reducible apply keeps_ite
      | simp only [↓keepsMk_eq] | with_reducible apply keepsMk_intro | dsimp only | split)

/-- What `execKeySetLoad` keeps. -/
theorem execKeySetLoad_keeps {m : Nat} {a : State} (t : Nat) (quad : Nat) (load : Bool) (s : State) (h : Keeps m a s)
    (hm : Sub 0x200000010004 m) : KN m a (execKeySetLoad t quad load s) :=
  kn_lift h hm (by
    have h : Keeps 0x200000010004 s s := keeps_refl _ _
    unfold execKeySetLoad
    repeat' first
      | intro _ | with_reducible assumption | with_reducible exact rfl | exact rfl | exact Or.inl rfl | with_reducible exact Or.inr rfl
      | exact Or.inr rfl | with_reducible apply kn_next | with_reducible apply bump_keeps | with_reducible apply keySetLoad_keeps
      | with_reducible apply keySetPut_keeps | with_reducible apply keeps_ite | dsimp only | split)

end Sys2Proof.Laws
end

