-- ==== Sys2Proof/Laws/KeepsAtu.lean ====
section
/-! SUPPORT. Every definition of Machine/Atu.lean keeps what `Keeps` says. -/
namespace Sys2Proof.Laws
open Sys2Proof.Machine Sys2Proof.Safety

/-- What `ctxMod` keeps. -/
theorem ctxMod_keeps {m : Nat} {a : State} (s : State) (c : Nat) (f : Ctx → Ctx) (h : Keeps m a s)
    (hm : Sub 0x20000 m) : Keeps m a (ctxMod s c f) :=
  keeps_lift h hm (by
    have h : Keeps 0x20000 s s := keeps_refl _ _
    unfold ctxMod
    repeat' first
      | intro _ | with_reducible assumption | with_reducible exact rfl | exact rfl | exact Or.inl rfl | with_reducible exact Or.inr rfl
      | exact Or.inr rfl | simp only [↓keepsMk_eq] | with_reducible apply keepsMk_intro | dsimp only | split)

/-- What `transferStart` keeps. -/
theorem transferStart_keeps {m : Nat} {a : State} (s : State) (c : Nat) (n : Nat) (h : Keeps m a s)
    (hm : Sub 0x20000 m) : Keeps m a (transferStart s c n) :=
  keeps_lift h hm (by
    have h : Keeps 0x20000 s s := keeps_refl _ _
    unfold transferStart
    repeat' first
      | intro _ | with_reducible assumption | with_reducible exact rfl | exact rfl | exact Or.inl rfl | with_reducible exact Or.inr rfl
      | exact Or.inr rfl | with_reducible apply ctxMod_keeps | simp only [↓keepsMk_eq] | with_reducible apply keepsMk_intro | dsimp only
      | split)

/-- What `transferEnd` keeps. -/
theorem transferEnd_keeps {m : Nat} {a : State} (s : State) (c : Nat) (e : Nat) (n : Nat) (h : Keeps m a s)
    (hm : Sub 0x20000 m) : Keeps m a (transferEnd s c e n) :=
  keeps_lift h hm (by
    have h : Keeps 0x20000 s s := keeps_refl _ _
    unfold transferEnd
    repeat' first
      | intro _ | with_reducible assumption | with_reducible exact rfl | exact rfl | exact Or.inl rfl | with_reducible exact Or.inr rfl
      | exact Or.inr rfl | with_reducible apply ctxMod_keeps | simp only [↓keepsMk_eq] | with_reducible apply keepsMk_intro | dsimp only
      | split)

/-- What `purge` keeps. -/
theorem purge_keeps {m : Nat} {a : State} (s : State) (c : Nat) (p : Cached → Bool) (h : Keeps m a s)
    (hm : Sub 0x20000 m) : Keeps m a (purge s c p) :=
  keeps_lift h hm (by
    have h : Keeps 0x20000 s s := keeps_refl _ _
    unfold purge
    repeat' first
      | intro _ | with_reducible assumption | with_reducible exact rfl | exact rfl | exact Or.inl rfl | with_reducible exact Or.inr rfl
      | exact Or.inr rfl | simp only [↓keepsMk_eq] | with_reducible apply keepsMk_intro | dsimp only | split)

/-- What `advanceEpoch` keeps. -/
theorem advanceEpoch_keeps {m : Nat} {a : State} (s : State) (c : Nat) (h : Keeps m a s)
    (hm : Sub 0x20000 m) : Keeps m a (advanceEpoch s c) :=
  keeps_lift h hm (by
    have h : Keeps 0x20000 s s := keeps_refl _ _
    unfold advanceEpoch
    repeat' first
      | intro _ | with_reducible assumption | with_reducible exact rfl | exact rfl | exact Or.inl rfl | with_reducible exact Or.inr rfl
      | exact Or.inr rfl | with_reducible apply ctxMod_keeps | simp only [↓keepsMk_eq] | with_reducible apply keepsMk_intro | dsimp only
      | split)

/-- What `walkTags` keeps. -/
theorem walkTags_keeps0 {a : State} (s : State) (c : Nat) (t : Nat) (va : Nat) (x1 : Nat) (x2 : Bool) (x3 : Nat) (h : Keeps 0x10c002000e200 a s) :
    Keeps 0x10c002000e200 a (walkTags s c t va x1 x2 x3) := by
  induction x1 generalizing s c t va x2 x3 with
  | zero =>
    unfold walkTags
    repeat' first
      | intro _ | with_reducible assumption | with_reducible exact rfl | exact rfl | with_reducible apply ko_map
      | with_reducible apply ko_bind | with_reducible apply keeps_getD | with_reducible apply settleTags_keeps
      | with_reducible apply keeps_ite | dsimp only | split | cases ‹_ + 1 = _ + 1›
  | succ _ ih =>
    unfold walkTags
    repeat' first
      | intro _ | with_reducible assumption | with_reducible exact rfl | exact rfl | with_reducible apply ih
      | with_reducible apply ko_map | with_reducible apply ko_bind | with_reducible apply keeps_getD
      | with_reducible apply settleTags_keeps | with_reducible apply keeps_ite | dsimp only | split | cases ‹_ + 1 = _ + 1›

/-- The same within a greater set. -/
theorem walkTags_keeps {m : Nat} {a : State} (s : State) (c : Nat) (t : Nat) (va : Nat) (x1 : Nat) (x2 : Bool) (x3 : Nat) (h : Keeps m a s)
    (hm : Sub 0x10c002000e200 m) : Keeps m a (walkTags s c t va x1 x2 x3) :=
  keeps_lift h hm (walkTags_keeps0 s c t va x1 x2 x3 (keeps_refl _ _))

/-- What `xlateFault` keeps. -/
theorem xlateFault_keeps {m : Nat} {a : State} (s : State) (c : Nat) (t : Nat) (va : Nat) (st : Nat) (h : Keeps m a s)
    (hm : Sub 0x400020000 m) : Keeps m a (xlateFault s c t va st) :=
  keeps_lift h hm (by
    have h : Keeps 0x400020000 s s := keeps_refl _ _
    unfold xlateFault
    repeat' first
      | intro _ | with_reducible assumption | with_reducible exact rfl | exact rfl | exact Or.inl rfl | with_reducible exact Or.inr rfl
      | exact Or.inr rfl | with_reducible apply ctxMod_keeps | with_reducible apply bumpFn_keeps | with_reducible apply ownFault_keeps
      | with_reducible apply keeps_ite | simp only [↓keepsMk_eq] | with_reducible apply keepsMk_intro | dsimp only | split)

/-- What `cachePut` keeps. -/
theorem cachePut_keeps {m : Nat} {a : State} (s : State) (e : Cached) (h : Keeps m a s)
    (hm : Sub 0x20000 m) : Keeps m a (cachePut s e) :=
  keeps_lift h hm (by
    have h : Keeps 0x20000 s s := keeps_refl _ _
    unfold cachePut
    repeat' first
      | intro _ | with_reducible assumption | with_reducible exact rfl | exact rfl | exact Or.inl rfl | with_reducible exact Or.inr rfl
      | exact Or.inr rfl | simp only [↓keepsMk_eq] | with_reducible apply keepsMk_intro | dsimp only)

/-- What `forgetWalk` keeps. -/
theorem forgetWalk_keeps {m : Nat} {a : State} (s : State) (c : Nat) (h : Keeps m a s)
    (hm : Sub 0x20000 m) : Keeps m a (forgetWalk s c) :=
  keeps_lift h hm (by
    have h : Keeps 0x20000 s s := keeps_refl _ _
    unfold forgetWalk
    repeat' first
      | intro _ | with_reducible assumption | with_reducible exact rfl | exact rfl | exact Or.inl rfl | with_reducible exact Or.inr rfl
      | exact Or.inr rfl | simp only [↓keepsMk_eq] | with_reducible apply keepsMk_intro | dsimp only | split)

/-- What `xlate` keeps. -/
theorem xlate_keeps {m : Nat} {a : State} (s : State) (c : Nat) (va : Nat) (u : Use) (h : Keeps m a s)
    (hm : Sub 0x10c042002e200 m) : Keeps m a (xlate s c va u).1 :=
  keeps_lift h hm (by
    have h : Keeps 0x10c042002e200 s s := keeps_refl _ _
    unfold xlate
    repeat' first
      | intro _ | with_reducible assumption | with_reducible exact rfl | exact rfl | exact Or.inl rfl | with_reducible exact Or.inr rfl
      | exact Or.inr rfl | with_reducible apply xlateFault_keeps | with_reducible apply cachePut_keeps
      | with_reducible apply walkTags_keeps | with_reducible apply forgetWalk_keeps | with_reducible apply bumpFn_keeps
      | with_reducible apply keeps_ite | dsimp only | split)

/-- What `xlateRange` keeps. -/
theorem xlateRange_keeps0 {a : State} (s : State) (c : Nat) (va : Nat) (len : Nat) (u : Use) (x1 : Nat) (h : Keeps 0x10c042002e200 a s) :
    Keeps 0x10c042002e200 a (xlateRange s c va len u x1).1 := by
  induction x1 generalizing s c va len u with
  | zero =>
    unfold xlateRange
    repeat' first
      | intro _ | with_reducible assumption | with_reducible exact rfl | exact rfl | with_reducible apply ko_map
      | with_reducible apply ko_bind | with_reducible apply keeps_getD | with_reducible apply xlate_keeps
      | with_reducible apply keeps_ite | dsimp only | split | cases ‹_ + 1 = _ + 1› | refine kq_get ?_ (by with_reducible assumption)
      | refine kq_get1 ?_ (by with_reducible assumption)
  | succ _ ih =>
    unfold xlateRange
    repeat' first
      | intro _ | with_reducible assumption | with_reducible exact rfl | exact rfl | with_reducible apply ih
      | with_reducible apply ko_map | with_reducible apply ko_bind | with_reducible apply keeps_getD | with_reducible apply xlate_keeps
      | with_reducible apply keeps_ite | dsimp only | split | cases ‹_ + 1 = _ + 1› | refine kq_get ?_ (by with_reducible assumption)
      | refine kq_get1 ?_ (by with_reducible assumption)

/-- The same within a greater set. -/
theorem xlateRange_keeps {m : Nat} {a : State} (s : State) (c : Nat) (va : Nat) (len : Nat) (u : Use) (x1 : Nat) (h : Keeps m a s)
    (hm : Sub 0x10c042002e200 m) : Keeps m a (xlateRange s c va len u x1).1 :=
  keeps_lift h hm (xlateRange_keeps0 s c va len u x1 (keeps_refl _ _))

/-- What `xlateAll` keeps. -/
theorem xlateAll_keeps {m : Nat} {a : State} (s : State) (c : Nat) (va : Nat) (len : Nat) (u : Use) (h : Keeps m a s)
    (hm : Sub 0x10c042002e200 m) : Keeps m a (xlateAll s c va len u).1 :=
  keeps_lift h hm (by
    have h : Keeps 0x10c042002e200 s s := keeps_refl _ _
    unfold xlateAll
    repeat' first
      | intro _ | with_reducible assumption | with_reducible exact rfl | exact rfl | with_reducible apply xlateRange_keeps | dsimp only
      | refine kq_get ?_ (by with_reducible assumption) | refine kq_get1 ?_ (by with_reducible assumption))

/-- What `stall` keeps. -/
theorem stall_keeps {m : Nat} {a : State} (s : State) (c : Nat) (addr : Nat) (cmd : Waiter) (h : Keeps m a s)
    (hm : Sub 0x20020000 m) : Keeps m a (stall s c addr cmd) :=
  keeps_lift h hm (by
    have h : Keeps 0x20020000 s s := keeps_refl _ _
    unfold stall
    repeat' first
      | intro _ | with_reducible assumption | with_reducible exact rfl | exact rfl | exact Or.inl rfl | with_reducible exact Or.inr rfl
      | exact Or.inr rfl | with_reducible apply emit_keeps | with_reducible apply keeps_ite | simp only [↓keepsMk_eq]
      | with_reducible apply keepsMk_intro | dsimp only | split)

/-- What `forgetRecords` keeps. -/
theorem forgetRecords_keeps {m : Nat} {a : State} (s : State) (c : Nat) (base : Nat) (h : Keeps m a s)
    (hm : Sub 0x2000000 m) : Keeps m a (forgetRecords s c base) :=
  keeps_lift h hm (by
    have h : Keeps 0x2000000 s s := keeps_refl _ _
    unfold forgetRecords
    repeat' first
      | intro _ | with_reducible assumption | with_reducible exact rfl | exact rfl | exact Or.inl rfl | with_reducible exact Or.inr rfl
      | exact Or.inr rfl | simp only [↓keepsMk_eq] | with_reducible apply keepsMk_intro | dsimp only | split)

/-- What `readPiece` keeps. -/
theorem readPiece_keeps {m : Nat} {a : State} (s : State) (t : Nat) (g : Target) (n : Nat) (bus : Option (List Byte)) (h : Keeps m a s)
    (hm : Sub 0x10c042000e200 m) : Keeps m a (readPiece s t g n bus).1 :=
  keeps_lift h hm (by
    have h : Keeps 0x10c042000e200 s s := keeps_refl _ _
    unfold readPiece
    repeat' first
      | intro _ | with_reducible assumption | with_reducible exact rfl | exact rfl | with_reducible apply memRead_keeps
      | with_reducible apply keeps_ite | dsimp only | split | refine kq_get ?_ (by with_reducible assumption)
      | refine kq_get1 ?_ (by with_reducible assumption))

/-- What `readPieces` keeps. -/
theorem readPieces_keeps0 {a : State} (s : State) (t : Nat) (x1 : List (Target × Nat)) (x2 : Option (List Byte)) (h : Keeps 0x10c042000e200 a s) :
    Keeps 0x10c042000e200 a (readPieces s t x1 x2).1 := by
  induction x1 generalizing s t x2 with
  | nil =>
    unfold readPieces
    repeat' first
      | intro _ | with_reducible assumption | with_reducible exact rfl | exact rfl | with_reducible apply ko_map
      | with_reducible apply ko_bind | with_reducible apply keeps_getD | with_reducible apply readPiece_keeps | dsimp only | split
      | cases ‹_ :: _ = _ :: _› | refine kq_get ?_ (by with_reducible assumption) | refine kq_get1 ?_ (by with_reducible assumption)
  | cons _ _ ih =>
    unfold readPieces
    repeat' first
      | intro _ | with_reducible assumption | with_reducible exact rfl | exact rfl | with_reducible apply ih
      | with_reducible apply ko_map | with_reducible apply ko_bind | with_reducible apply keeps_getD
      | with_reducible apply readPiece_keeps | dsimp only | split | cases ‹_ :: _ = _ :: _›
      | refine kq_get ?_ (by with_reducible assumption) | refine kq_get1 ?_ (by with_reducible assumption)

/-- The same within a greater set. -/
theorem readPieces_keeps {m : Nat} {a : State} (s : State) (t : Nat) (x1 : List (Target × Nat)) (x2 : Option (List Byte)) (h : Keeps m a s)
    (hm : Sub 0x10c042000e200 m) : Keeps m a (readPieces s t x1 x2).1 :=
  keeps_lift h hm (readPieces_keeps0 s t x1 x2 (keeps_refl _ _))

/-- What `stageBytes` keeps. -/
theorem stageBytes_keeps {m : Nat} {a : State} (s : State) (t : Nat) (c : Nat) (base : Nat) (r : Nat) (off : Nat) (b : List Byte) (ep : Bool) (h : Keeps m a s)
    (hm : Sub 0x2000000 m) : Keeps m a (stageBytes s t c base r off b ep) :=
  keeps_lift h hm (by
    have h : Keeps 0x2000000 s s := keeps_refl _ _
    unfold stageBytes
    repeat' first
      | intro _ | with_reducible assumption | with_reducible exact rfl | exact rfl | exact Or.inl rfl | with_reducible exact Or.inr rfl
      | exact Or.inr rfl | with_reducible apply keeps_ite | simp only [↓keepsMk_eq] | with_reducible apply keepsMk_intro | dsimp only
      | split)

/-- What `writePieces` keeps. -/
theorem writePieces_keeps0 {a : State} (s : State) (t : Nat) (x1 : List (Target × Nat)) (x2 : List Byte) (x3 : Marks) (h : Keeps 0x1000422000000 a s) :
    Keeps 0x1000422000000 a (writePieces s t x1 x2 x3).1 := by
  induction x1 generalizing s t x2 x3 with
  | nil =>
    unfold writePieces
    repeat' first
      | intro _ | with_reducible assumption | with_reducible exact rfl | exact rfl | with_reducible apply ko_map
      | with_reducible apply ko_bind | with_reducible apply keeps_getD | with_reducible apply memWrite_keeps
      | with_reducible apply stageBytes_keeps | with_reducible apply emit_keeps | with_reducible apply keeps_ite | dsimp only | split
      | cases ‹_ :: _ = _ :: _› | refine kq_get ?_ (by with_reducible assumption) | refine kq_get1 ?_ (by with_reducible assumption)
  | cons _ _ ih =>
    unfold writePieces
    repeat' first
      | intro _ | with_reducible assumption | with_reducible exact rfl | exact rfl | with_reducible apply ih
      | with_reducible apply ko_map | with_reducible apply ko_bind | with_reducible apply keeps_getD
      | with_reducible apply memWrite_keeps | with_reducible apply stageBytes_keeps | with_reducible apply emit_keeps
      | with_reducible apply keeps_ite | dsimp only | split | cases ‹_ :: _ = _ :: _› | refine kq_get ?_ (by with_reducible assumption)
      | refine kq_get1 ?_ (by with_reducible assumption)

/-- The same within a greater set. -/
theorem writePieces_keeps {m : Nat} {a : State} (s : State) (t : Nat) (x1 : List (Target × Nat)) (x2 : List Byte) (x3 : Marks) (h : Keeps m a s)
    (hm : Sub 0x1000422000000 m) : Keeps m a (writePieces s t x1 x2 x3).1 :=
  keeps_lift h hm (writePieces_keeps0 s t x1 x2 x3 (keeps_refl _ _))

/-- What `regionMod` keeps. -/
theorem regionMod_keeps {m : Nat} {a : State} (s : State) (i : Nat) (f : Region → Region) (h : Keeps m a s)
    (hm : Sub 0x20000 m) : Keeps m a (regionMod s i f) :=
  keeps_lift h hm (by
    have h : Keeps 0x20000 s s := keeps_refl _ _
    unfold regionMod
    repeat' first
      | intro _ | with_reducible assumption | with_reducible exact rfl | exact rfl | exact Or.inl rfl | with_reducible exact Or.inr rfl
      | exact Or.inr rfl | simp only [↓keepsMk_eq] | with_reducible apply keepsMk_intro | dsimp only | split)

/-- What `admitTake` keeps. -/
theorem admitTake_keeps {m : Nat} {a : State} (s : State) (idx : Nat) (h : Keeps m a s)
    (hm : Sub 0x20000 m) : Keeps m a (admitTake s idx) :=
  keeps_lift h hm (by
    have h : Keeps 0x20000 s s := keeps_refl _ _
    unfold admitTake
    repeat' first
      | intro _ | with_reducible assumption | with_reducible exact rfl | exact rfl | exact Or.inl rfl | with_reducible exact Or.inr rfl
      | exact Or.inr rfl | with_reducible apply regionMod_keeps | simp only [↓keepsMk_eq] | with_reducible apply keepsMk_intro
      | dsimp only | split)

end Sys2Proof.Laws
end

