-- ==== Sys2Proof/Laws/KeepsBoot.lean ====
section
/-! SUPPORT. Every definition of Machine/Boot.lean keeps what `Keeps` says. -/
namespace Sys2Proof.Laws
open Sys2Proof.Machine Sys2Proof.Safety

/-- What `recWrite` keeps. -/
theorem recWrite_keeps {m : Nat} {a : State} (s : State) (f : BootRec → BootRec) (h : Keeps m a s)
    (hm : Sub 0x40 m) : Keeps m a (recWrite s f) :=
  keeps_lift h hm (by
    have h : Keeps 0x40 s s := keeps_refl _ _
    unfold recWrite
    repeat' first
      | intro _ | with_reducible assumption | with_reducible exact rfl | exact rfl | exact Or.inl rfl | with_reducible exact Or.inr rfl
      | exact Or.inr rfl | with_reducible apply keeps_ite | simp only [↓keepsMk_eq] | with_reducible apply keepsMk_intro | dsimp only
      | split)

/-- What `slotMod` keeps. -/
theorem slotMod_keeps {m : Nat} {a : State} (s : State) (i : Nat) (f : Slot → Slot) (h : Keeps m a s)
    (hm : Sub 0x40 m) : Keeps m a (slotMod s i f) :=
  keeps_lift h hm (by
    have h : Keeps 0x40 s s := keeps_refl _ _
    unfold slotMod
    repeat' first
      | intro _ | with_reducible assumption | with_reducible exact rfl | exact rfl | exact Or.inl rfl | with_reducible exact Or.inr rfl
      | exact Or.inr rfl | with_reducible apply keeps_ite | simp only [↓keepsMk_eq] | with_reducible apply keepsMk_intro | dsimp only
      | split)

/-- What `mainReset` keeps. -/
theorem mainReset_keeps {m : Nat} {a : State} (s : State) (h : Keeps m a s) (hm : Sub 0x1ffff1fffff08 m) : Keeps m a (mainReset s) :=
  keeps_lift h hm (by
    constructor <;> first
      | exact rfl
      | exact fuseLe_refl _
      | exact fun c => ⟨rfl, rfl, twf_filter _ _ c.regs, rfl⟩
      | exact fun x => absurd rfl x
      | exact fun _ => rfl)

/-- What `mainDown` keeps. -/
theorem mainDown_keeps {m : Nat} {a : State} (s : State) (h : Keeps m a s)
    (hm : Sub 0x1ffff1fffff38 m) : Keeps m a (mainDown s) :=
  keeps_lift h hm (by
    have h : Keeps 0x1ffff1fffff38 s s := keeps_refl _ _
    unfold mainDown
    repeat' first
      | intro _ | with_reducible assumption | with_reducible exact rfl | exact rfl | exact Or.inl rfl | with_reducible exact Or.inr rfl
      | exact Or.inr rfl | with_reducible apply mainReset_keeps | with_reducible apply keeps_ite | simp only [↓keepsMk_eq]
      | with_reducible apply keepsMk_intro | dsimp only | split)

/-- What `fullReset` keeps. -/
theorem fullReset_keeps {m : Nat} {a : State} (s : State) (prev : Nat) (h : Keeps m a s) (hm : Sub 0x1ffff1fffff3a m) : Keeps m a (fullReset s prev) :=
  keeps_lift h hm (by
    constructor <;> first
      | exact rfl
      | exact fuseLe_refl _
      | exact fun c => ⟨rfl, rfl, twf_filter _ _ c.regs, rfl⟩
      | exact fun x => absurd rfl x
      | exact fun _ => rfl)

/-- What `bootFail` keeps. -/
theorem bootFail_keeps {m : Nat} {a : State} (s : State) (reason : Nat) (h : Keeps m a s)
    (hm : Sub 0x1ffff3fffff7a m) : Keeps m a (bootFail s reason) :=
  keeps_lift h hm (by
    have h : Keeps 0x1ffff3fffff7a s s := keeps_refl _ _
    unfold bootFail
    repeat' first
      | intro _ | with_reducible assumption | with_reducible exact rfl | exact rfl | exact Or.inl rfl | with_reducible exact Or.inr rfl
      | exact Or.inr rfl | with_reducible apply recWrite_keeps | with_reducible apply fullReset_keeps | with_reducible apply report_keeps
      | simp only [↓keepsMk_eq] | with_reducible apply keepsMk_intro | dsimp only | split)

/-- What `shutdown` keeps. -/
theorem shutdown_keeps {m : Nat} {a : State} (s : State) (cause : Nat) (h : Keeps m a s)
    (hm : Sub 0x1ffff1fffff38 m) : Keeps m a (shutdown s cause) :=
  keeps_lift h hm (by
    have h : Keeps 0x1ffff1fffff38 s s := keeps_refl _ _
    unfold shutdown
    repeat' first
      | intro _ | with_reducible assumption | with_reducible exact rfl | exact rfl | exact Or.inl rfl | with_reducible exact Or.inr rfl
      | exact Or.inr rfl | with_reducible apply mainDown_keeps | with_reducible apply keeps_ite | simp only [↓keepsMk_eq]
      | with_reducible apply keepsMk_intro | dsimp only | split)

/-- What `setClock` keeps. -/
theorem setClock_keeps {m : Nat} {a : State} (s : State) (mhz : Nat) (h : Keeps m a s)
    (hm : Sub 0x10 m) : Keeps m a (setClock s mhz) :=
  keeps_lift h hm (by
    have h : Keeps 0x10 s s := keeps_refl _ _
    unfold setClock
    repeat' first
      | intro _ | with_reducible assumption | with_reducible exact rfl | exact rfl | exact Or.inl rfl | with_reducible exact Or.inr rfl
      | exact Or.inr rfl | simp only [↓keepsMk_eq] | with_reducible apply keepsMk_intro | dsimp only)

/-- What `stepDown` keeps. -/
theorem stepDown_keeps {m : Nat} {a : State} (s : State) (h : Keeps m a s)
    (hm : Sub 0x400000000010 m) : Keeps m a (stepDown s) :=
  keeps_lift h hm (by
    have h : Keeps 0x400000000010 s s := keeps_refl _ _
    unfold stepDown
    repeat' first
      | intro _ | with_reducible assumption | with_reducible exact rfl | exact rfl | exact Or.inl rfl | with_reducible exact Or.inr rfl
      | exact Or.inr rfl | with_reducible apply bump_keeps | with_reducible apply setClock_keeps | with_reducible apply keeps_ite
      | simp only [↓keepsMk_eq] | with_reducible apply keepsMk_intro | dsimp only | split)

/-- What `stepUp` keeps. -/
theorem stepUp_keeps {m : Nat} {a : State} (s : State) (h : Keeps m a s)
    (hm : Sub 0x10 m) : Keeps m a (stepUp s) :=
  keeps_lift h hm (by
    have h : Keeps 0x10 s s := keeps_refl _ _
    unfold stepUp
    repeat' first
      | intro _ | with_reducible assumption | with_reducible exact rfl | exact rfl | exact Or.inl rfl | with_reducible exact Or.inr rfl
      | exact Or.inr rfl | with_reducible apply setClock_keeps | with_reducible apply keeps_ite | simp only [↓keepsMk_eq]
      | with_reducible apply keepsMk_intro | dsimp only | split)

/-- What `execPowerSample` keeps. -/
theorem execPowerSample_keeps {m : Nat} {a : State} (watts : Nat) (mv10 : Nat) (ma10 : Nat) (s : State) (h : Keeps m a s)
    (hm : Sub 0x400000000010 m) : KN m a (execPowerSample watts mv10 ma10 s) :=
  kn_lift h hm (by
    have h : Keeps 0x400000000010 s s := keeps_refl _ _
    unfold execPowerSample
    repeat' first
      | intro _ | with_reducible assumption | with_reducible exact rfl | exact rfl | exact Or.inl rfl | with_reducible exact Or.inr rfl
      | exact Or.inr rfl | with_reducible apply kn_next | with_reducible apply setReg_keeps | simp only [↓keepsMk_eq]
      | with_reducible apply keepsMk_intro | dsimp only)

/-- What `execPowerEvaluation` keeps. -/
theorem execPowerEvaluation_keeps {m : Nat} {a : State} (s : State) (h : Keeps m a s)
    (hm : Sub 0x400000000010 m) : KN m a (execPowerEvaluation s) :=
  kn_lift h hm (by
    have h : Keeps 0x400000000010 s s := keeps_refl _ _
    unfold execPowerEvaluation
    repeat' first
      | intro _ | with_reducible assumption | with_reducible exact rfl | exact rfl | exact Or.inl rfl | with_reducible exact Or.inr rfl
      | exact Or.inr rfl | with_reducible apply kn_next | with_reducible apply stepDown_keeps | with_reducible apply keeps_ite
      | simp only [↓keepsMk_eq] | with_reducible apply keepsMk_intro | dsimp only | split)

/-- What `execPowerCapFault` keeps. -/
theorem execPowerCapFault_keeps {m : Nat} {a : State} (s : State) (h : Keeps m a s)
    (hm : Sub 0x8002000e200 m) : KN m a (execPowerCapFault s) :=
  kn_lift h hm (by
    have h : Keeps 0x8002000e200 s s := keeps_refl _ _
    unfold execPowerCapFault
    repeat' first
      | intro _ | with_reducible assumption | with_reducible exact rfl | exact rfl | with_reducible apply kn_next
      | with_reducible apply report_keeps | with_reducible apply keeps_ite | dsimp only | split)

/-- What `execPowerUndo` keeps. -/
theorem execPowerUndo_keeps {m : Nat} {a : State} (s : State) (h : Keeps m a s)
    (hm : Sub 0x10 m) : KN m a (execPowerUndo s) :=
  kn_lift h hm (by
    have h : Keeps 0x10 s s := keeps_refl _ _
    unfold execPowerUndo
    repeat' first
      | intro _ | with_reducible assumption | with_reducible exact rfl | exact rfl | with_reducible apply kn_next
      | with_reducible apply stepUp_keeps | with_reducible apply keeps_ite | dsimp only | split)

/-- What `execThermalSample` keeps. -/
theorem execThermalSample_keeps {m : Nat} {a : State} (tj0 : Nat) (tj1 : Nat) (tj2 : Nat) (tj3 : Nat) (inlet : Nat) (outlet : Nat) (s : State) (h : Keeps m a s)
    (hm : Sub 0x1ffff3fffff38 m) : KN m a (execThermalSample tj0 tj1 tj2 tj3 inlet outlet s) :=
  kn_lift h hm (by
    have h : Keeps 0x1ffff3fffff38 s s := keeps_refl _ _
    unfold execThermalSample
    repeat' first
      | intro _ | with_reducible assumption | with_reducible exact rfl | exact rfl | exact Or.inl rfl | with_reducible exact Or.inr rfl
      | exact Or.inr rfl | with_reducible apply kn_next | with_reducible apply setReg_keeps | with_reducible apply report_keeps
      | with_reducible apply bump_keeps | with_reducible apply shutdown_keeps | with_reducible apply stepDown_keeps
      | with_reducible apply keeps_ite | simp only [↓keepsMk_eq] | with_reducible apply keepsMk_intro | dsimp only | split)

/-- What `execInletOvertempTimeout` keeps. -/
theorem execInletOvertempTimeout_keeps {m : Nat} {a : State} (s : State) (h : Keeps m a s)
    (hm : Sub 0x1ffff1fffff38 m) : KN m a (execInletOvertempTimeout s) :=
  kn_lift h hm (by
    have h : Keeps 0x1ffff1fffff38 s s := keeps_refl _ _
    unfold execInletOvertempTimeout
    repeat' first
      | intro _ | with_reducible assumption | with_reducible exact rfl | exact rfl | with_reducible apply kn_next
      | with_reducible apply shutdown_keeps | with_reducible apply keeps_ite | dsimp only | split)

/-- What `execUndervoltageTrip` keeps. -/
theorem execUndervoltageTrip_keeps {m : Nat} {a : State} (s : State) (h : Keeps m a s)
    (hm : Sub 0x1ffff1fffff38 m) : KN m a (execUndervoltageTrip s) :=
  kn_lift h hm (by
    have h : Keeps 0x1ffff1fffff38 s s := keeps_refl _ _
    unfold execUndervoltageTrip
    repeat' first
      | intro _ | with_reducible assumption | with_reducible exact rfl | exact rfl | exact Or.inl rfl | with_reducible exact Or.inr rfl
      | exact Or.inr rfl | with_reducible apply kn_next | with_reducible apply shutdown_keeps | simp only [↓keepsMk_eq]
      | with_reducible apply keepsMk_intro | dsimp only)

/-- What `execOvercurrentTrip` keeps. -/
theorem execOvercurrentTrip_keeps {m : Nat} {a : State} (s : State) (h : Keeps m a s)
    (hm : Sub 0x1ffff1fffff38 m) : KN m a (execOvercurrentTrip s) :=
  kn_lift h hm (by
    have h : Keeps 0x1ffff1fffff38 s s := keeps_refl _ _
    unfold execOvercurrentTrip
    repeat' first
      | intro _ | with_reducible assumption | with_reducible exact rfl | exact rfl | with_reducible apply kn_next
      | with_reducible apply shutdown_keeps | dsimp only)

/-- What `execStandbyPowerUp` keeps. -/
theorem execStandbyPowerUp_keeps {m : Nat} {a : State} (s : State) (h : Keeps m a s)
    (hm : Sub 0x30 m) : KN m a (execStandbyPowerUp s) :=
  kn_lift h hm (by
    have h : Keeps 0x30 s s := keeps_refl _ _
    unfold execStandbyPowerUp
    repeat' first
      | intro _ | with_reducible assumption | with_reducible exact rfl | exact rfl | exact Or.inl rfl | with_reducible exact Or.inr rfl
      | exact Or.inr rfl | with_reducible apply kn_next | with_reducible apply keeps_ite | simp only [↓keepsMk_eq]
      | with_reducible apply keepsMk_intro | dsimp only | split)

/-- What `execStandbyPowerLoss` keeps. -/
theorem execStandbyPowerLoss_keeps {m : Nat} {a : State} (s : State) (h : Keeps m a s) (hm : Sub 0x1ffff1fffff3a m) : KN m a (execStandbyPowerLoss s) :=
  kn_next (keeps_lift h hm (by
    constructor <;> first
      | exact rfl
      | exact fuseLe_refl _
      | exact fun _ => ⟨rfl, rfl, rfl, rfl⟩
      | exact fun x => absurd rfl x
      | exact fun _ => rfl))

/-- What `execMgReset` keeps. -/
theorem execMgReset_keeps {m : Nat} {a : State} (s : State) (h : Keeps m a s)
    (hm : Sub 0x1ffff1fffff3a m) : KN m a (execMgReset s) :=
  kn_lift h hm (by
    have h : Keeps 0x1ffff1fffff3a s s := keeps_refl _ _
    unfold execMgReset
    repeat' first
      | intro _ | with_reducible assumption | with_reducible exact rfl | exact rfl | with_reducible apply kn_next
      | with_reducible apply fullReset_keeps | with_reducible apply keeps_ite | dsimp only | split)

/-- What `execMainPowerLoss` keeps. -/
theorem execMainPowerLoss_keeps {m : Nat} {a : State} (s : State) (h : Keeps m a s)
    (hm : Sub 0x1ffff1fffff38 m) : KN m a (execMainPowerLoss s) :=
  kn_lift h hm (by
    have h : Keeps 0x1ffff1fffff38 s s := keeps_refl _ _
    unfold execMainPowerLoss
    repeat' first
      | intro _ | with_reducible assumption | with_reducible exact rfl | exact rfl | exact Or.inl rfl | with_reducible exact Or.inr rfl
      | exact Or.inr rfl | with_reducible apply kn_next | with_reducible apply mainDown_keeps | with_reducible apply keeps_ite
      | simp only [↓keepsMk_eq] | with_reducible apply keepsMk_intro | dsimp only | split)

/-- What `execMainPowerReturn` keeps. -/
theorem execMainPowerReturn_keeps {m : Nat} {a : State} (s : State) (h : Keeps m a s)
    (hm : Sub 0x10 m) : KN m a (execMainPowerReturn s) :=
  kn_lift h hm (by
    have h : Keeps 0x10 s s := keeps_refl _ _
    unfold execMainPowerReturn
    repeat' first
      | intro _ | with_reducible assumption | with_reducible exact rfl | exact rfl | exact Or.inl rfl | with_reducible exact Or.inr rfl
      | exact Or.inr rfl | with_reducible apply kn_next | simp only [↓keepsMk_eq] | with_reducible apply keepsMk_intro | dsimp only)

/-- What `execPerstAssert` keeps. -/
theorem execPerstAssert_keeps {m : Nat} {a : State} (s : State) (h : Keeps m a s)
    (hm : Sub 0x1ffff1fffff38 m) : KN m a (execPerstAssert s) :=
  kn_lift h hm (by
    have h : Keeps 0x1ffff1fffff38 s s := keeps_refl _ _
    unfold execPerstAssert
    repeat' first
      | intro _ | with_reducible assumption | with_reducible exact rfl | exact rfl | exact Or.inl rfl | with_reducible exact Or.inr rfl
      | exact Or.inr rfl | with_reducible apply kn_next | with_reducible apply mainReset_keeps | with_reducible apply keeps_ite
      | simp only [↓keepsMk_eq] | with_reducible apply keepsMk_intro | dsimp only | split)

/-- What `execElectionTimeout` keeps. -/
theorem execElectionTimeout_keeps {m : Nat} {a : State} (s : State) (h : Keeps m a s)
    (hm : Sub 0x20 m) : KN m a (execElectionTimeout s) :=
  kn_lift h hm (by
    have h : Keeps 0x20 s s := keeps_refl _ _
    unfold execElectionTimeout
    repeat' first
      | intro _ | with_reducible assumption | with_reducible exact rfl | exact rfl | exact Or.inl rfl | with_reducible exact Or.inr rfl
      | exact Or.inr rfl | with_reducible apply kn_next | with_reducible apply keeps_ite | simp only [↓keepsMk_eq]
      | with_reducible apply keepsMk_intro | dsimp only | split)

/-- What `execPrimaryFailure` keeps. -/
theorem execPrimaryFailure_keeps {m : Nat} {a : State} (pcie : Bool) (s : State) (h : Keeps m a s)
    (hm : Sub 0x8002000e200 m) : KN m a (execPrimaryFailure pcie s) :=
  kn_lift h hm (by
    have h : Keeps 0x8002000e200 s s := keeps_refl _ _
    unfold execPrimaryFailure
    repeat' first
      | intro _ | with_reducible assumption | with_reducible exact rfl | exact rfl | with_reducible apply kn_next
      | with_reducible apply report_keeps | with_reducible apply keeps_ite | dsimp only | split)

/-- What `execCrossingHang` keeps. -/
theorem execCrossingHang_keeps {m : Nat} {a : State} (crossing : Nat) (s : State) (h : Keeps m a s)
    (hm : Sub 0x88002000e200 m) : KN m a (execCrossingHang crossing s) :=
  kn_lift h hm (by
    have h : Keeps 0x88002000e200 s s := keeps_refl _ _
    unfold execCrossingHang
    repeat' first
      | intro _ | with_reducible assumption | with_reducible exact rfl | exact rfl | exact Or.inl rfl | with_reducible exact Or.inr rfl
      | exact Or.inr rfl | with_reducible apply kn_next | with_reducible apply report_keeps | with_reducible apply bump_keeps
      | dsimp only)

/-- What `measured` keeps. -/
theorem measured_keeps {m : Nat} {a : State} (s : State) (i : Nat) (b : List Byte) (h : Keeps m a s)
    (hm : Sub 0x10000000 m) : Keeps m a (measured s i b) :=
  keeps_lift h hm (by
    have h : Keeps 0x10000000 s s := keeps_refl _ _
    unfold measured
    repeat' first
      | intro _ | with_reducible assumption | with_reducible exact rfl | exact rfl | exact Or.inl rfl | with_reducible exact Or.inr rfl
      | exact Or.inr rfl | simp only [↓keepsMk_eq] | with_reducible apply keepsMk_intro | dsimp only | split)

/-- What `partMeasured` keeps. -/
theorem partMeasured_keeps {m : Nat} {a : State} (s : State) (i : Nat) (h : Keeps m a s)
    (hm : Sub 0x10000000 m) : Keeps m a (partMeasured s i) :=
  keeps_lift h hm (by
    have h : Keeps 0x10000000 s s := keeps_refl _ _
    unfold partMeasured
    repeat' first
      | intro _ | with_reducible assumption | with_reducible exact rfl | exact rfl | with_reducible apply measured_keeps | dsimp only)

/-- What `drawNonce` keeps. -/
theorem drawNonce_keeps {m : Nat} {a : State} (s : State) (h : Keeps m a s)
    (hm : Sub 0x10000004 m) : Keeps m a (drawNonce s) :=
  keeps_lift h hm (by
    have h : Keeps 0x10000004 s s := keeps_refl _ _
    unfold drawNonce
    repeat' first
      | intro _ | with_reducible assumption | with_reducible exact rfl | exact rfl | exact Or.inl rfl | with_reducible exact Or.inr rfl
      | exact Or.inr rfl | with_reducible apply drawN_keeps | simp only [↓keepsMk_eq] | with_reducible apply keepsMk_intro | dsimp only
      | refine kr_get ?_ (by with_reducible assumption))

/-- What `bootMeasured` keeps. -/
theorem bootMeasured_keeps {m : Nat} {a : State} (s : State) (h : Keeps m a s)
    (hm : Sub 0x10000004 m) : Keeps m a (bootMeasured s) :=
  keeps_lift h hm (by
    have h : Keeps 0x10000004 s s := keeps_refl _ _
    unfold bootMeasured
    repeat' first
      | intro _ | with_reducible assumption | with_reducible exact rfl | exact rfl | exact Or.inl rfl | with_reducible exact Or.inr rfl
      | exact Or.inr rfl | with_reducible apply partMeasured_keeps | with_reducible apply measured_keeps
      | with_reducible apply drawNonce_keeps | simp only [↓keepsMk_eq] | with_reducible apply keepsMk_intro | dsimp only)

/-- What `profPower` keeps. -/
theorem profPower_keeps {m : Nat} {a : State} (s : State) (h : Keeps m a s)
    (hm : Sub 0x12060 m) : Keeps m a (profPower s) :=
  keeps_lift h hm (by
    have h : Keeps 0x12060 s s := keeps_refl _ _
    unfold profPower
    repeat' first
      | intro _ | with_reducible assumption | with_reducible exact rfl | exact rfl | exact Or.inl rfl | with_reducible exact Or.inr rfl
      | exact Or.inr rfl | with_reducible apply keeps_ite | simp only [↓keepsMk_eq] | with_reducible apply keepsMk_intro | dsimp only
      | split)

/-- What `enterMinimal` keeps. -/
theorem enterMinimal_keeps {m : Nat} {a : State} (s : State) (reason : Nat) (rom : Bool) (h : Keeps m a s)
    (hm : Sub 0x400010000224 m) : Keeps m a (enterMinimal s reason rom) :=
  keeps_lift h hm (by
    have h : Keeps 0x400010000224 s s := keeps_refl _ _
    unfold enterMinimal
    repeat' first
      | intro _ | with_reducible assumption | with_reducible exact rfl | exact rfl | exact Or.inl rfl | with_reducible exact Or.inr rfl
      | exact Or.inr rfl | with_reducible apply bootMeasured_keeps | simp only [↓keepsMk_eq] | with_reducible apply keepsMk_intro
      | dsimp only)

/-- What `bootSlot` keeps. -/
theorem bootSlot_keeps {m : Nat} {a : State} (s : State) (i : Nat) (reason : Nat) (diag : Bool) (h : Keeps m a s)
    (hm : Sub 0x400010000224 m) : Keeps m a (bootSlot s i reason diag) :=
  keeps_lift h hm (by
    have h : Keeps 0x400010000224 s s := keeps_refl _ _
    unfold bootSlot
    repeat' first
      | intro _ | with_reducible assumption | with_reducible exact rfl | exact rfl | exact Or.inl rfl | with_reducible exact Or.inr rfl
      | exact Or.inr rfl | with_reducible apply bootMeasured_keeps | simp only [↓keepsMk_eq] | with_reducible apply keepsMk_intro
      | dsimp only)

/-- What `bootChosen` keeps. -/
theorem bootChosen_keeps {m : Nat} {a : State} (s : State) (i : Nat) (reason : Nat) (diag : Bool) (valid0 : Bool) (valid1 : Bool) (h : Keeps m a s)
    (hm : Sub 0x400010000224 m) : Keeps m a (bootChosen s i reason diag valid0 valid1) :=
  keeps_lift h hm (by
    have h : Keeps 0x400010000224 s s := keeps_refl _ _
    unfold bootChosen
    repeat' first
      | intro _ | with_reducible assumption | with_reducible exact rfl | exact rfl | with_reducible apply bootSlot_keeps
      | with_reducible apply enterMinimal_keeps | with_reducible apply keeps_ite | dsimp only | split)

/-- What `slotChoice` keeps. -/
theorem slotChoice_keeps {m : Nat} {a : State} (s : State) (valid0 : Bool) (valid1 : Bool) (h : Keeps m a s)
    (hm : Sub 0x400010000264 m) : Keeps m a (slotChoice s valid0 valid1) :=
  keeps_lift h hm (by
    have h : Keeps 0x400010000264 s s := keeps_refl _ _
    unfold slotChoice
    repeat' first
      | intro _ | with_reducible assumption | with_reducible exact rfl | exact rfl | exact Or.inl rfl | with_reducible exact Or.inr rfl
      | exact Or.inr rfl | with_reducible apply enterMinimal_keeps | with_reducible apply bootChosen_keeps
      | with_reducible apply recWrite_keeps | with_reducible apply slotMod_keeps | with_reducible apply keeps_ite
      | simp only [↓keepsMk_eq] | with_reducible apply keepsMk_intro | dsimp only | split)

/-- What `claim` keeps. -/
theorem claim_keeps {m : Nat} {a : State} (s : State) (quad : Nat) (atNs : Nat) (straps : Straps) (valid0 : Bool) (valid1 : Bool) (h : Keeps m a s)
    (hm : Sub 0x400010012264 m) : Keeps m a (claim s quad atNs straps valid0 valid1) :=
  keeps_lift h hm (by
    have h : Keeps 0x400010012264 s s := keeps_refl _ _
    unfold claim
    repeat' first
      | intro _ | with_reducible assumption | with_reducible exact rfl | exact rfl | exact Or.inl rfl | with_reducible exact Or.inr rfl
      | exact Or.inr rfl | with_reducible apply slotChoice_keeps | with_reducible apply profPower_keeps | with_reducible apply keeps_ite
      | simp only [↓keepsMk_eq] | with_reducible apply keepsMk_intro | dsimp only | split)

/-- What `execRspSelfTestDone` keeps. -/
theorem execRspSelfTestDone_keeps {m : Nat} {a : State} (quad : Nat) (atNs : Nat) (pass : Bool) (straps : Straps) (valid0 : Bool) (valid1 : Bool) (s : State) (h : Keeps m a s)
    (hm : Sub 0x400010012264 m) : KN m a (execRspSelfTestDone quad atNs pass straps valid0 valid1 s) :=
  kn_lift h hm (by
    have h : Keeps 0x400010012264 s s := keeps_refl _ _
    unfold execRspSelfTestDone
    repeat' first
      | intro _ | with_reducible assumption | with_reducible exact rfl | exact rfl | exact Or.inl rfl | with_reducible exact Or.inr rfl
      | exact Or.inr rfl | with_reducible apply kn_next | with_reducible apply claim_keeps | with_reducible apply keeps_ite
      | simp only [↓keepsMk_eq] | with_reducible apply keepsMk_intro | dsimp only | split)

/-- What `deviceKeys` keeps. -/
theorem deviceKeys_keeps {m : Nat} {a : State} (s : State) (h : Keeps m a s)
    (hm : Sub 0x200002010004 m) : Keeps m a (deviceKeys s) :=
  keeps_lift h hm (by
    have h : Keeps 0x200002010004 s s := keeps_refl _ _
    unfold deviceKeys
    repeat' first
      | intro _ | with_reducible assumption | with_reducible exact rfl | exact rfl | exact Or.inl rfl | with_reducible exact Or.inr rfl
      | exact Or.inr rfl | with_reducible apply drawN_keeps | with_reducible apply bumpBy_keeps | with_reducible apply keySetLoad_keeps
      | simp only [↓keepsMk_eq] | with_reducible apply keepsMk_intro | with_reducible apply keeps_foldl | dsimp only | split
      | refine kr_get ?_ (by with_reducible assumption))

/-- What `restartKeys` keeps. -/
theorem restartKeys_keeps {m : Nat} {a : State} (s : State) (h : Keeps m a s) (hm : Sub 0x28000a010c04 m) : Keeps m a (restartKeys s) :=
  keeps_lift h hm (by
    have h1 : Keeps 0x28000a010c04 s s := keeps_refl _ s
    unfold restartKeys
    refine deviceKeys_keeps _ (boxesValid_keeps _ _ ?_ rfl) rfl
    exact { h1 with
      canon := fun x => ⟨(h1.canon x).bytes, (h1.canon x).blocks, (h1.canon x).regs, rfl⟩
      owners := fun x => absurd rfl x
      tenants := fun x => absurd rfl x
      qlocal := fun x => absurd rfl x
      cph := fun x => absurd rfl x })

/-- What `setControllers` keeps. -/
theorem setControllers_keeps {m : Nat} {a : State} (s : State) (f : Nat → Nat) (h : Keeps m a s)
    (hm : Sub 0x10000 m) : Keeps m a (setControllers s f) :=
  keeps_lift h hm (by
    have h : Keeps 0x10000 s s := keeps_refl _ _
    unfold setControllers
    repeat' first
      | intro _ | with_reducible assumption | with_reducible exact rfl | exact rfl | exact Or.inl rfl | with_reducible exact Or.inr rfl
      | exact Or.inr rfl | with_reducible apply ctrlMod_keeps | with_reducible apply keeps_ite | simp only [↓keepsMk_eq]
      | with_reducible apply keepsMk_intro | with_reducible apply keeps_foldl | dsimp only | split)

/-- What `scrubOver` keeps. -/
theorem scrubOver_keeps {m : Nat} {a : State} (s : State) (h : Keeps m a s) (hm : Sub 0x10000080 m) : Keeps m a (scrubOver s) :=
  keeps_lift h hm (by
    have h : Keeps 0x10000080 s s := keeps_refl _ s
    have k : ∀ r, Keeps 0x10000080 s { s with rsp := r } := fun r => { h with
      canon := fun c => ⟨c.bytes, c.blocks, c.regs, c.owners⟩, rsp := fun x => absurd rfl x }
    unfold scrubOver
    refine keeps_ite (measured_keeps _ _ _ (k _) rfl) (keeps_ite ?_ h)
    constructor <;> first
      | exact rfl
      | exact ⟨Nat.le_refl _, fun _ => rfl, fun _ => rfl, rfl, rfl⟩
      | exact fun c => ⟨c.bytes, c.blocks, c.regs, c.owners⟩
      | exact fun x => absurd rfl x
      | exact fun _ => rfl
      | exact fun _ _ _ => rfl)

/-- What `trainLink` keeps. -/
theorem trainLink_keeps {m : Nat} {a : State} (s : State) (h : Keeps m a s)
    (hm : Sub 0x2004 m) : Keeps m a (trainLink s) :=
  keeps_lift h hm (by
    have h : Keeps 0x2004 s s := keeps_refl _ _
    unfold trainLink
    repeat' first
      | intro _ | with_reducible assumption | with_reducible exact rfl | exact rfl | exact Or.inl rfl | with_reducible exact Or.inr rfl
      | exact Or.inr rfl | with_reducible apply draw_keeps | simp only [↓keepsMk_eq] | with_reducible apply keepsMk_intro | dsimp only
      | refine kr_get ?_ (by with_reducible assumption))

/-- What `startMain` keeps. -/
theorem startMain_keeps {m : Nat} {a : State} (s : State) (h : Keeps m a s)
    (hm : Sub 0x68001a012ea4 m) : Keeps m a (startMain s) :=
  keeps_lift h hm (by
    have h : Keeps 0x68001a012ea4 s s := keeps_refl _ _
    unfold startMain
    repeat' first
      | intro _ | with_reducible assumption | with_reducible exact rfl | exact rfl | exact Or.inl rfl | with_reducible exact Or.inr rfl
      | exact Or.inr rfl | with_reducible apply setControllers_keeps | with_reducible apply scrubOver_keeps
      | with_reducible apply restartKeys_keeps | with_reducible apply trainLink_keeps | with_reducible apply keeps_ite
      | simp only [↓keepsMk_eq] | with_reducible apply keepsMk_intro | dsimp only | split)

/-- What `reportShutdown` keeps. -/
theorem reportShutdown_keeps {m : Nat} {a : State} (s : State) (h : Keeps m a s)
    (hm : Sub 0x8002000e230 m) : Keeps m a (reportShutdown s) :=
  keeps_lift h hm (by
    have h : Keeps 0x8002000e230 s s := keeps_refl _ _
    unfold reportShutdown
    repeat' first
      | intro _ | with_reducible assumption | with_reducible exact rfl | exact rfl | exact Or.inl rfl | with_reducible exact Or.inr rfl
      | exact Or.inr rfl | with_reducible apply report_keeps | with_reducible apply keeps_ite | simp only [↓keepsMk_eq]
      | with_reducible apply keepsMk_intro | dsimp only | split)

/-- What `execMainDomainGood` keeps. -/
theorem execMainDomainGood_keeps {m : Nat} {a : State} (partsOk : Bool) (s : State) (h : Keeps m a s)
    (hm : Sub 0x1ffff3ffffffe m) : KN m a (execMainDomainGood partsOk s) :=
  kn_lift h hm (by
    have h : Keeps 0x1ffff3ffffffe s s := keeps_refl _ _
    unfold execMainDomainGood
    repeat' first
      | intro _ | with_reducible assumption | with_reducible exact rfl | exact rfl | exact Or.inl rfl | with_reducible exact Or.inr rfl
      | exact Or.inr rfl | with_reducible apply kn_next | with_reducible apply startMain_keeps
      | with_reducible apply reportShutdown_keeps | with_reducible apply partMeasured_keeps | with_reducible apply bootFail_keeps
      | with_reducible apply keeps_ite | simp only [↓keepsMk_eq] | with_reducible apply keepsMk_intro | dsimp only | split)

/-- What `execPerstDeassert` keeps. -/
theorem execPerstDeassert_keeps {m : Nat} {a : State} (s : State) (h : Keeps m a s)
    (hm : Sub 0x68001a012eb4 m) : KN m a (execPerstDeassert s) :=
  kn_lift h hm (by
    have h : Keeps 0x68001a012eb4 s s := keeps_refl _ _
    unfold execPerstDeassert
    repeat' first
      | intro _ | with_reducible assumption | with_reducible exact rfl | exact rfl | exact Or.inl rfl | with_reducible exact Or.inr rfl
      | exact Or.inr rfl | with_reducible apply kn_next | with_reducible apply startMain_keeps | with_reducible apply keeps_ite
      | simp only [↓keepsMk_eq] | with_reducible apply keepsMk_intro | dsimp only | split)

/-- What `execMemoryTrained` keeps. -/
theorem execMemoryTrained_keeps {m : Nat} {a : State} (failed : List Nat) (s : State) (h : Keeps m a s)
    (hm : Sub 0x1ffff3fffff7a m) : KN m a (execMemoryTrained failed s) :=
  kn_lift h hm (by
    have h : Keeps 0x1ffff3fffff7a s s := keeps_refl _ _
    unfold execMemoryTrained
    repeat' first
      | intro _ | with_reducible assumption | with_reducible exact rfl | exact rfl | exact Or.inl rfl | with_reducible exact Or.inr rfl
      | exact Or.inr rfl | with_reducible apply kn_next | with_reducible apply setControllers_keeps | with_reducible apply bootFail_keeps
      | with_reducible apply keeps_ite | simp only [↓keepsMk_eq] | with_reducible apply keepsMk_intro | dsimp only | split)

/-- What `execUnitsReady` keeps. -/
theorem execUnitsReady_keeps {m : Nat} {a : State} (rspLink : Bool) (selfTest : Bool) (s : State) (h : Keeps m a s)
    (hm : Sub 0x1ffff3fffff7a m) : KN m a (execUnitsReady rspLink selfTest s) :=
  kn_lift h hm (by
    have h : Keeps 0x1ffff3fffff7a s s := keeps_refl _ _
    unfold execUnitsReady
    repeat' first
      | intro _ | with_reducible assumption | with_reducible exact rfl | exact rfl | exact Or.inl rfl | with_reducible exact Or.inr rfl
      | exact Or.inr rfl | with_reducible apply kn_next | with_reducible apply bootFail_keeps | with_reducible apply recWrite_keeps
      | with_reducible apply keeps_ite | simp only [↓keepsMk_eq] | with_reducible apply keepsMk_intro | dsimp only | split)

/-- What `execBootTimeout` keeps. -/
theorem execBootTimeout_keeps {m : Nat} {a : State} (s : State) (h : Keeps m a s)
    (hm : Sub 0x1ffff3fffff7a m) : KN m a (execBootTimeout s) :=
  kn_lift h hm (by
    have h : Keeps 0x1ffff3fffff7a s s := keeps_refl _ _
    unfold execBootTimeout
    repeat' first
      | intro _ | with_reducible assumption | with_reducible exact rfl | exact rfl | with_reducible apply kn_next
      | with_reducible apply bootFail_keeps | dsimp only | split)

/-- What `execBootCtlReset` keeps. -/
theorem execBootCtlReset_keeps {m : Nat} {a : State} (s : State) (h : Keeps m a s)
    (hm : Sub 0x1ffff1fffff3a m) : KN m a (execBootCtlReset s) :=
  kn_lift h hm (by
    have h : Keeps 0x1ffff1fffff3a s s := keeps_refl _ _
    unfold execBootCtlReset
    repeat' first
      | intro _ | with_reducible assumption | with_reducible exact rfl | exact rfl | with_reducible apply kn_next
      | with_reducible apply fullReset_keeps | dsimp only)

/-- What `execBootCtlRetry` keeps. -/
theorem execBootCtlRetry_keeps {m : Nat} {a : State} (s : State) (h : Keeps m a s)
    (hm : Sub 0x1ffff1fffff7a m) : KN m a (execBootCtlRetry s) :=
  kn_lift h hm (by
    have h : Keeps 0x1ffff1fffff7a s s := keeps_refl _ _
    unfold execBootCtlRetry
    repeat' first
      | intro _ | with_reducible assumption | with_reducible exact rfl | exact rfl | exact Or.inl rfl | with_reducible exact Or.inr rfl
      | exact Or.inr rfl | with_reducible apply kn_next | with_reducible apply dropHeld_keeps | with_reducible apply fullReset_keeps
      | with_reducible apply recWrite_keeps | with_reducible apply keeps_ite | simp only [↓keepsMk_eq]
      | with_reducible apply keepsMk_intro | dsimp only | split)

end Sys2Proof.Laws
end

