-- ==== Sys2Proof/Laws/KeepsCell.lean ====
section
/-! SUPPORT. Every definition of Machine/Cell.lean keeps what `Keeps` says. -/
namespace Sys2Proof.Laws
open Sys2Proof.Machine Sys2Proof.Safety

/-- The port statistics lie in EMAC's registers. -/
theorem statReg_unit (i : Nat) : statReg i / 2 ^ 20 = 6 := by
  have : i % 64 < 64 := Nat.mod_lt _ (by decide)
  simp only [statReg, Reg.EMAC_STATi]
  omega

/-- What `connMod` keeps. -/
theorem connMod_keeps {m : Nat} {a : State} (s : State) (c : Nat) (f : Conn → Conn) (h : Keeps m a s)
    (hm : Sub 0x80000 m) : Keeps m a (connMod s c f) :=
  keeps_lift h hm (by
    have h : Keeps 0x80000 s s := keeps_refl _ _
    unfold connMod
    repeat' first
      | intro _ | with_reducible assumption | with_reducible exact rfl | exact rfl | exact Or.inl rfl | with_reducible exact Or.inr rfl
      | exact Or.inr rfl | simp only [↓keepsMk_eq] | with_reducible apply keepsMk_intro | dsimp only | split)

/-- What `statBy` keeps. -/
theorem statBy_keeps {m : Nat} {a : State} (s : State) (port : Nat) (i : Nat) (n : Nat) (h : Keeps m a s)
    (hm : Sub 0x4020002200 m) : Keeps m a (statBy s port i n) :=
  keeps_lift h hm (by
    have h : Keeps 0x4020002200 s s := keeps_refl _ _
    unfold statBy
    repeat' first
      | intro _ | with_reducible assumption | with_reducible exact rfl | exact rfl | exact Or.inl rfl | with_reducible exact Or.inr rfl
      | exact Or.inr rfl | exact Or.inr (by rw [statReg_unit]; rfl) | with_reducible apply setReg_keeps
      | with_reducible apply sendVec_keeps | with_reducible apply keeps_ite | dsimp only | split)

/-- What `stat` keeps. -/
theorem stat_keeps {m : Nat} {a : State} (s : State) (port : Nat) (i : Nat) (h : Keeps m a s)
    (hm : Sub 0x4020002200 m) : Keeps m a (stat s port i) :=
  keeps_lift h hm (by
    have h : Keeps 0x4020002200 s s := keeps_refl _ _
    unfold stat
    repeat' first
      | intro _ | with_reducible assumption | with_reducible exact rfl | exact rfl | exact Or.inl rfl | with_reducible exact Or.inr rfl
      | exact Or.inr rfl | with_reducible apply statBy_keeps | dsimp only)

/-- What `eportMod` keeps. -/
theorem eportMod_keeps {m : Nat} {a : State} (s : State) (p : Nat) (f : EPort → EPort) (h : Keeps m a s)
    (hm : Sub 0x200000 m) : Keeps m a (eportMod s p f) :=
  keeps_lift h hm (by
    have h : Keeps 0x200000 s s := keeps_refl _ _
    unfold eportMod
    repeat' first
      | intro _ | with_reducible assumption | with_reducible exact rfl | exact rfl | exact Or.inl rfl | with_reducible exact Or.inr rfl
      | exact Or.inr rfl | simp only [↓keepsMk_eq] | with_reducible apply keepsMk_intro | dsimp only | split)

/-- What `sendFrame` keeps. -/
theorem sendFrame_keeps {m : Nat} {a : State} (s : State) (p : Nat) (f : List Byte) (kind : Nat) (h : Keeps m a s)
    (hm : Sub 0x4020002200 m) : Keeps m a (sendFrame s p f kind) :=
  keeps_lift h hm (by
    have h : Keeps 0x4020002200 s s := keeps_refl _ _
    unfold sendFrame
    repeat' first
      | intro _ | with_reducible assumption | with_reducible exact rfl | exact rfl | exact Or.inl rfl | with_reducible exact Or.inr rfl
      | exact Or.inr rfl | with_reducible apply emit_keeps | with_reducible apply stat_keeps | with_reducible apply statBy_keeps
      | with_reducible apply keeps_ite | dsimp only | split)

/-- What `handOff` keeps. -/
theorem handOff_keeps {m : Nat} {a : State} (s : State) (c : Nat) (tenant : Nat) (cls : Nat) (cell : Cell) (h : Keeps m a s)
    (hm : Sub 0x4020102200 m) : Keeps m a (handOff s c tenant cls cell) :=
  keeps_lift h hm (by
    have h : Keeps 0x4020102200 s s := keeps_refl _ _
    unfold handOff
    repeat' first
      | intro _ | with_reducible assumption | with_reducible exact rfl | exact rfl | exact Or.inl rfl | with_reducible exact Or.inr rfl
      | exact Or.inr rfl | with_reducible apply sendFrame_keeps | with_reducible apply keeps_ite | simp only [↓keepsMk_eq]
      | with_reducible apply keepsMk_intro | dsimp only | split)

end Sys2Proof.Laws
end

