-- ==== Sys2Proof/Laws/KeepsDma.lean ====
section
/-! SUPPORT. Every definition of Machine/Dma.lean keeps what `Keeps` says. -/
namespace Sys2Proof.Laws
open Sys2Proof.Machine Sys2Proof.Safety

/-- What `dmaXlate` keeps. -/
theorem dmaXlate_keeps {m : Nat} {a : State} (s : State) (t : Nat) (c : Nat) (va : Nat) (len : Nat) (u : Use) (h : Keeps m a s)
    (hm : Sub 0x10c042002e200 m) : Keeps m a (dmaXlate s t c va len u).1 :=
  keeps_lift h hm (by
    have h : Keeps 0x10c042002e200 s s := keeps_refl _ _
    unfold dmaXlate
    repeat' first
      | intro _ | with_reducible assumption | with_reducible exact rfl | exact rfl | exact Or.inl rfl | with_reducible exact Or.inr rfl
      | exact Or.inr rfl | with_reducible apply xlateAll_keeps | with_reducible apply keeps_ite | simp only [↓keepsMk_eq]
      | with_reducible apply keepsMk_intro | dsimp only | split | refine kq_get ?_ (by with_reducible assumption)
      | refine kq_get1 ?_ (by with_reducible assumption))

/-- What `issue` keeps. -/
theorem issue_keeps {m : Nat} {a : State} (s : State) (t : Nat) (c : Nat) (va : Nat) (len : Nat) (key : Nat) (u : Use) (h : Keeps m a s)
    (hm : Sub 0x10c042002e200 m) : Keeps m a (issue s t c va len key u).1 :=
  keeps_lift h hm (by
    have h : Keeps 0x10c042002e200 s s := keeps_refl _ _
    unfold issue
    repeat' first
      | intro _ | with_reducible assumption | with_reducible exact rfl | exact rfl | with_reducible apply dmaXlate_keeps
      | with_reducible apply transferStart_keeps | dsimp only | split | refine kq_get ?_ (by with_reducible assumption)
      | refine kq_get1 ?_ (by with_reducible assumption))

/-- What `endXfer` keeps. -/
theorem endXfer_keeps {m : Nat} {a : State} (s : State) (x : Issued) (h : Keeps m a s)
    (hm : Sub 0x20000 m) : Keeps m a (endXfer s x) :=
  keeps_lift h hm (by
    have h : Keeps 0x20000 s s := keeps_refl _ _
    unfold endXfer
    repeat' first
      | intro _ | with_reducible assumption | with_reducible exact rfl | exact rfl | with_reducible apply transferEnd_keeps | dsimp only)

/-- What `endTransfers` keeps. -/
theorem endTransfers_keeps {m : Nat} {a : State} (s : State) (l : List Issued) (h : Keeps m a s)
    (hm : Sub 0x20000 m) : Keeps m a (endTransfers s l) :=
  keeps_lift h hm (by
    have h : Keeps 0x20000 s s := keeps_refl _ _
    unfold endTransfers
    repeat' first
      | intro _ | with_reducible assumption | with_reducible exact rfl | exact rfl | with_reducible apply endXfer_keeps
      | with_reducible apply keeps_foldl | dsimp only | split)

/-- What `busReads` keeps. -/
theorem busReads_keeps {m : Nat} {a : State} (s : State) (t : Nat) (tag : BusTag) (ps : List (Target × Nat)) (h : Keeps m a s)
    (hm : Sub 0x20000000 m) : Keeps m a (busReads s t tag ps) :=
  keeps_lift h hm (by
    have h : Keeps 0x20000000 s s := keeps_refl _ _
    unfold busReads
    repeat' first
      | intro _ | with_reducible assumption | with_reducible exact rfl | exact rfl | exact Or.inl rfl | with_reducible exact Or.inr rfl
      | exact Or.inr rfl | with_reducible apply emit_keeps | simp only [↓keepsMk_eq] | with_reducible apply keepsMk_intro
      | with_reducible apply keeps_foldl | dsimp only | split)

/-- What `issueRead` keeps. -/
theorem issueRead_keeps {m : Nat} {a : State} (s : State) (t : Nat) (c : Nat) (va : Nat) (len : Nat) (key : Nat) (tag : BusTag) (h : Keeps m a s)
    (hm : Sub 0x10c042002e200 m) : Keeps m a (issueRead s t c va len key tag).1 :=
  keeps_lift h hm (by
    have h : Keeps 0x10c042002e200 s s := keeps_refl _ _
    unfold issueRead
    repeat' first
      | intro _ | with_reducible assumption | with_reducible exact rfl | exact rfl | with_reducible apply issue_keeps
      | with_reducible apply busReads_keeps | dsimp only | split | refine kq_get ?_ (by with_reducible assumption)
      | refine kq_get1 ?_ (by with_reducible assumption))

/-- What `finishRead` keeps. -/
theorem finishRead_keeps {m : Nat} {a : State} (s : State) (t : Nat) (x : Issued) (bus : Option (List Byte)) (h : Keeps m a s)
    (hm : Sub 0x10c042002e200 m) : Keeps m a (finishRead s t x bus).1 :=
  keeps_lift h hm (by
    have h : Keeps 0x10c042002e200 s s := keeps_refl _ _
    unfold finishRead
    repeat' first
      | intro _ | with_reducible assumption | with_reducible exact rfl | exact rfl | with_reducible apply readPieces_keeps
      | with_reducible apply endXfer_keeps | dsimp only | refine kq_get ?_ (by with_reducible assumption)
      | refine kq_get1 ?_ (by with_reducible assumption))

/-- What `finishWrite` keeps. -/
theorem finishWrite_keeps {m : Nat} {a : State} (s : State) (t : Nat) (x : Issued) (bytes : List Byte) (bad : Marks) (h : Keeps m a s)
    (hm : Sub 0x1000422020000 m) : Keeps m a (finishWrite s t x bytes bad).1 :=
  keeps_lift h hm (by
    have h : Keeps 0x1000422020000 s s := keeps_refl _ _
    unfold finishWrite
    repeat' first
      | intro _ | with_reducible assumption | with_reducible exact rfl | exact rfl | with_reducible apply endXfer_keeps
      | with_reducible apply writePieces_keeps | with_reducible apply ownFault_keeps | with_reducible apply keeps_ite | dsimp only
      | split | refine kq_get ?_ (by with_reducible assumption) | refine kq_get1 ?_ (by with_reducible assumption))

/-- What `ordered` keeps. -/
theorem ordered_keeps {m : Nat} {a : State} (before : Nat) (s : State) (h : Keeps m a s)
    (hm : Sub 0x20000000 m) : Keeps m a (ordered before s) :=
  keeps_lift h hm (by
    have h : Keeps 0x20000000 s s := keeps_refl _ _
    unfold ordered
    repeat' first
      | intro _ | with_reducible assumption | with_reducible exact rfl | exact rfl | exact Or.inl rfl | with_reducible exact Or.inr rfl
      | exact Or.inr rfl | simp only [↓keepsMk_eq] | with_reducible apply keepsMk_intro | dsimp only | split)

/-- What `dmaWrite` keeps. -/
theorem dmaWrite_keeps {m : Nat} {a : State} (s : State) (t : Nat) (c : Nat) (va : Nat) (bytes : List Byte) (bad : Marks) (h : Keeps m a s)
    (hm : Sub 0x10c042202e200 m) : Keeps m a (dmaWrite s t c va bytes bad).1 :=
  keeps_lift h hm (by
    have h : Keeps 0x10c042202e200 s s := keeps_refl _ _
    unfold dmaWrite
    repeat' first
      | intro _ | with_reducible assumption | with_reducible exact rfl | exact rfl | with_reducible apply issue_keeps
      | with_reducible apply finishWrite_keeps | dsimp only | split | refine kq_get ?_ (by with_reducible assumption)
      | refine kq_get1 ?_ (by with_reducible assumption))

/-- What `dataXlate` keeps. -/
theorem dataXlate_keeps {m : Nat} {a : State} (s : State) (t : Nat) (c : Nat) (base : Nat) (off : Nat) (n : Nat) (u : Use) (h : Keeps m a s)
    (hm : Sub 0x10c042002e200 m) : Keeps m a (dataXlate s t c base off n u).1 :=
  keeps_lift h hm (by
    have h : Keeps 0x10c042002e200 s s := keeps_refl _ _
    unfold dataXlate
    repeat' first
      | intro _ | with_reducible assumption | with_reducible exact rfl | exact rfl | with_reducible apply dmaXlate_keeps
      | with_reducible apply keeps_ite | dsimp only | split | refine kq_get ?_ (by with_reducible assumption)
      | refine kq_get1 ?_ (by with_reducible assumption))

/-- What `xlateParts` keeps. -/
theorem xlateParts_keeps0 {a : State} (s : State) (t : Nat) (c : Nat) (u : Use) (x1 : List (Nat × Nat × Nat)) (h : Keeps 0x10c042002e200 a s) :
    Keeps 0x10c042002e200 a (xlateParts s t c u x1).1 := by
  induction x1 generalizing s t c u with
  | nil =>
    unfold xlateParts
    repeat' first
      | intro _ | with_reducible assumption | with_reducible exact rfl | exact rfl | with_reducible apply ko_map
      | with_reducible apply ko_bind | with_reducible apply keeps_getD | with_reducible apply dataXlate_keeps | dsimp only | split
      | cases ‹_ :: _ = _ :: _› | refine kq_get ?_ (by with_reducible assumption) | refine kq_get1 ?_ (by with_reducible assumption)
  | cons _ _ ih =>
    unfold xlateParts
    repeat' first
      | intro _ | with_reducible assumption | with_reducible exact rfl | exact rfl | with_reducible apply ih
      | with_reducible apply ko_map | with_reducible apply ko_bind | with_reducible apply keeps_getD
      | with_reducible apply dataXlate_keeps | dsimp only | split | cases ‹_ :: _ = _ :: _›
      | refine kq_get ?_ (by with_reducible assumption) | refine kq_get1 ?_ (by with_reducible assumption)

/-- The same within a greater set. -/
theorem xlateParts_keeps {m : Nat} {a : State} (s : State) (t : Nat) (c : Nat) (u : Use) (x1 : List (Nat × Nat × Nat)) (h : Keeps m a s)
    (hm : Sub 0x10c042002e200 m) : Keeps m a (xlateParts s t c u x1).1 :=
  keeps_lift h hm (xlateParts_keeps0 s t c u x1 (keeps_refl _ _))

/-- What `issueSegs` keeps. -/
theorem issueSegs_keeps {m : Nat} {a : State} (s : State) (t : Nat) (c : Nat) (segs : List (Nat × Nat)) (off : Nat) (n : Nat) (key : Nat) (u : Use) (h : Keeps m a s)
    (hm : Sub 0x10c042002e200 m) : Keeps m a (issueSegs s t c segs off n key u).1 :=
  keeps_lift h hm (by
    have h : Keeps 0x10c042002e200 s s := keeps_refl _ _
    unfold issueSegs
    repeat' first
      | intro _ | with_reducible assumption | with_reducible exact rfl | exact rfl | with_reducible apply xlateParts_keeps
      | with_reducible apply transferStart_keeps | dsimp only | split | refine kq_get ?_ (by with_reducible assumption)
      | refine kq_get1 ?_ (by with_reducible assumption))

end Sys2Proof.Laws
end

