-- ==== Sys2Proof/Laws/KeepsCcs.lean ====
section
/-! SUPPORT. Every definition of Machine/Ccs.lean keeps what `Keeps` says. -/
namespace Sys2Proof.Laws
open Sys2Proof.Machine Sys2Proof.Safety

/-- What `egressMod` keeps. -/
theorem egressMod_keeps {m : Nat} {a : State} (s : State) (e : Nat) (f : Egress → Egress) (h : Keeps m a s)
    (hm : Sub 0x4000000 m) : Keeps m a (egressMod s e f) :=
  keeps_lift h hm (by
    have h : Keeps 0x4000000 s s := keeps_refl _ _
    unfold egressMod
    repeat' first
      | intro _ | with_reducible assumption | with_reducible exact rfl | exact rfl | exact Or.inl rfl | with_reducible exact Or.inr rfl
      | exact Or.inr rfl | simp only [↓keepsMk_eq] | with_reducible apply keepsMk_intro | dsimp only | split)

/-- What `clsMod` keeps. -/
theorem clsMod_keeps {m : Nat} {a : State} (s : State) (e : Nat) (c : Nat) (f : Machine.Class → Machine.Class) (h : Keeps m a s)
    (hm : Sub 0x4000000 m) : Keeps m a (clsMod s e c f) :=
  keeps_lift h hm (by
    have h : Keeps 0x4000000 s s := keeps_refl _ _
    unfold clsMod
    repeat' first
      | intro _ | with_reducible assumption | with_reducible exact rfl | exact rfl | exact Or.inl rfl | with_reducible exact Or.inr rfl
      | exact Or.inr rfl | simp only [↓keepsMk_eq] | with_reducible apply keepsMk_intro | dsimp only | split)

/-- What `charge` keeps. -/
theorem charge_keeps {m : Nat} {a : State} (s : State) (e : Nat) (c : Nat) (len : Nat) (h : Keeps m a s)
    (hm : Sub 0x4000000 m) : Keeps m a (charge s e c len) :=
  keeps_lift h hm (by
    have h : Keeps 0x4000000 s s := keeps_refl _ _
    unfold charge
    repeat' first
      | intro _ | with_reducible assumption | with_reducible exact rfl | exact rfl | exact Or.inl rfl | with_reducible exact Or.inr rfl
      | exact Or.inr rfl | with_reducible apply clsMod_keeps | with_reducible apply keeps_ite | simp only [↓keepsMk_eq]
      | with_reducible apply keepsMk_intro | dsimp only | split)

/-- What `refillClass` keeps. -/
theorem refillClass_keeps {m : Nat} {a : State} (s : State) (e : Nat) (c : Nat) (h : Keeps m a s)
    (hm : Sub 0x4000000 m) : Keeps m a (refillClass s e c) :=
  keeps_lift h hm (by
    have h : Keeps 0x4000000 s s := keeps_refl _ _
    unfold refillClass
    repeat' first
      | intro _ | with_reducible assumption | with_reducible exact rfl | exact rfl | exact Or.inl rfl | with_reducible exact Or.inr rfl
      | exact Or.inr rfl | with_reducible apply clsMod_keeps | with_reducible apply keeps_ite | simp only [↓keepsMk_eq]
      | with_reducible apply keepsMk_intro | dsimp only | split)

/-- What `refillPath` keeps. -/
theorem refillPath_keeps {m : Nat} {a : State} (s : State) (p : Nat) (h : Keeps m a s)
    (hm : Sub 0x4000000 m) : Keeps m a (refillPath s p) :=
  keeps_lift h hm (by
    have h : Keeps 0x4000000 s s := keeps_refl _ _
    unfold refillPath
    repeat' first
      | intro _ | with_reducible assumption | with_reducible exact rfl | exact rfl | exact Or.inl rfl | with_reducible exact Or.inr rfl
      | exact Or.inr rfl | with_reducible apply egressMod_keeps | simp only [↓keepsMk_eq] | with_reducible apply keepsMk_intro
      | with_reducible apply keeps_foldl | dsimp only | split)

/-- What `execCapacityFactorApply` keeps. -/
theorem execCapacityFactorApply_keeps {m : Nat} {a : State} (e : Nat) (s : State) (h : Keeps m a s)
    (hm : Sub 0x8102400e200 m) : KN m a (execCapacityFactorApply e s) :=
  kn_lift h hm (by
    have h : Keeps 0x8102400e200 s s := keeps_refl _ _
    unfold execCapacityFactorApply
    repeat' first
      | intro _ | with_reducible assumption | with_reducible exact rfl | exact rfl | exact Or.inl rfl | with_reducible exact Or.inr rfl
      | exact Or.inr rfl | with_reducible apply kn_next | with_reducible apply egressMod_keeps | with_reducible apply report_keeps
      | with_reducible apply bumpFn_keeps | with_reducible apply keeps_ite | simp only [↓keepsMk_eq] | with_reducible apply keepsMk_intro
      | with_reducible apply keeps_foldl | dsimp only | split)

/-- What `pushClass0` keeps. -/
theorem pushClass0_keeps {m : Nat} {a : State} (s : State) (c : Nat) (cell : Cell) (h : Keeps m a s)
    (hm : Sub 0x4024102200 m) : Keeps m a (pushClass0 s c cell) :=
  keeps_lift h hm (by
    have h : Keeps 0x4024102200 s s := keeps_refl _ _
    unfold pushClass0
    repeat' first
      | intro _ | with_reducible assumption | with_reducible exact rfl | exact rfl | with_reducible apply handOff_keeps
      | with_reducible apply charge_keeps | dsimp only)

/-- What `sendClass0` keeps. -/
theorem sendClass0_keeps {m : Nat} {a : State} (s : State) (c : Nat) (cell : Cell) (h : Keeps m a s)
    (hm : Sub 0x4024102200 m) : Keeps m a (sendClass0 s c cell) :=
  keeps_lift h hm (by
    have h : Keeps 0x4024102200 s s := keeps_refl _ _
    unfold sendClass0
    repeat' first
      | intro _ | with_reducible assumption | with_reducible exact rfl | exact rfl | exact Or.inl rfl | with_reducible exact Or.inr rfl
      | exact Or.inr rfl | with_reducible apply pushClass0_keeps | with_reducible apply egressMod_keeps | with_reducible apply keeps_ite
      | simp only [↓keepsMk_eq] | with_reducible apply keepsMk_intro | dsimp only | split)

/-- What `drainClass0` keeps. -/
theorem drainClass0_keeps0 {a : State} (s : State) (e : Nat) (x1 : Nat) (h : Keeps 0x4024102200 a s) :
    Keeps 0x4024102200 a (drainClass0 s e x1) := by
  induction x1 generalizing s e with
  | zero =>
    unfold drainClass0
    repeat' first
      | intro _ | with_reducible assumption | with_reducible exact rfl | exact rfl | exact Or.inl rfl | with_reducible exact Or.inr rfl
      | exact Or.inr rfl | with_reducible apply ko_map | with_reducible apply ko_bind | with_reducible apply keeps_getD
      | with_reducible apply egressMod_keeps | with_reducible apply pushClass0_keeps | with_reducible apply keeps_ite
      | simp only [↓keepsMk_eq] | with_reducible apply keepsMk_intro | dsimp only | split | cases ‹_ + 1 = _ + 1›
  | succ _ ih =>
    unfold drainClass0
    repeat' first
      | intro _ | with_reducible assumption | with_reducible exact rfl | exact rfl | exact Or.inl rfl | with_reducible exact Or.inr rfl
      | exact Or.inr rfl | with_reducible apply ih | with_reducible apply ko_map | with_reducible apply ko_bind
      | with_reducible apply keeps_getD | with_reducible apply egressMod_keeps | with_reducible apply pushClass0_keeps
      | with_reducible apply keeps_ite | simp only [↓keepsMk_eq] | with_reducible apply keepsMk_intro | dsimp only | split
      | cases ‹_ + 1 = _ + 1›

/-- The same within a greater set. -/
theorem drainClass0_keeps {m : Nat} {a : State} (s : State) (e : Nat) (x1 : Nat) (h : Keeps m a s)
    (hm : Sub 0x4024102200 m) : Keeps m a (drainClass0 s e x1) :=
  keeps_lift h hm (drainClass0_keeps0 s e x1 (keeps_refl _ _))

/-- What `execShaperRefill` keeps. -/
theorem execShaperRefill_keeps {m : Nat} {a : State} (s : State) (h : Keeps m a s)
    (hm : Sub 0x4024102200 m) : KN m a (execShaperRefill s) :=
  kn_lift h hm (by
    have h : Keeps 0x4024102200 s s := keeps_refl _ _
    unfold execShaperRefill
    repeat' first
      | intro _ | with_reducible assumption | with_reducible exact rfl | exact rfl | with_reducible apply kn_next
      | with_reducible apply refillClass_keeps | with_reducible apply refillPath_keeps | with_reducible apply drainClass0_keeps
      | with_reducible apply keeps_foldl | dsimp only | split)

/-- What `sendCredit` keeps. -/
theorem sendCredit_keeps {m : Nat} {a : State} (s : State) (c : Nat) (kind : Nat) (count : Nat) (lifetime : Nat) (gseq : Nat) (backlog : Nat) (h : Keeps m a s)
    (hm : Sub 0x4024102200 m) : Keeps m a (sendCredit s c kind count lifetime gseq backlog) :=
  keeps_lift h hm (by
    have h : Keeps 0x4024102200 s s := keeps_refl _ _
    unfold sendCredit
    repeat' first
      | intro _ | with_reducible assumption | with_reducible exact rfl | exact rfl | exact Or.inl rfl | with_reducible exact Or.inr rfl
      | exact Or.inr rfl | with_reducible apply sendClass0_keeps | simp only [↓keepsMk_eq] | with_reducible apply keepsMk_intro
      | dsimp only)

/-- What `noteCredit` keeps. -/
theorem noteCredit_keeps {m : Nat} {a : State} (s : State) (c : Nat) (h : Keeps m a s)
    (hm : Sub 0x1000080000 m) : Keeps m a (noteCredit s c) :=
  keeps_lift h hm (by
    have h : Keeps 0x1000080000 s s := keeps_refl _ _
    unfold noteCredit
    repeat' first
      | intro _ | with_reducible assumption | with_reducible exact rfl | exact rfl | exact Or.inl rfl | with_reducible exact Or.inr rfl
      | exact Or.inr rfl | with_reducible apply bumpFn_keeps | with_reducible apply connMod_keeps | with_reducible apply keeps_ite
      | simp only [↓keepsMk_eq] | with_reducible apply keepsMk_intro | with_reducible apply keeps_foldl | dsimp only | split)

/-- What `sendDemand` keeps. -/
theorem sendDemand_keeps {m : Nat} {a : State} (s : State) (c : Nat) (h : Keeps m a s)
    (hm : Sub 0x4024182200 m) : Keeps m a (sendDemand s c) :=
  keeps_lift h hm (by
    have h : Keeps 0x4024182200 s s := keeps_refl _ _
    unfold sendDemand
    repeat' first
      | intro _ | with_reducible assumption | with_reducible exact rfl | exact rfl | exact Or.inl rfl | with_reducible exact Or.inr rfl
      | exact Or.inr rfl | with_reducible apply sendCredit_keeps | with_reducible apply connMod_keeps | simp only [↓keepsMk_eq]
      | with_reducible apply keepsMk_intro | dsimp only | split)

/-- What `demandCheck` keeps. -/
theorem demandCheck_keeps {m : Nat} {a : State} (s : State) (c : Nat) (h : Keeps m a s)
    (hm : Sub 0x5024182200 m) : Keeps m a (demandCheck s c) :=
  keeps_lift h hm (by
    have h : Keeps 0x5024182200 s s := keeps_refl _ _
    unfold demandCheck
    repeat' first
      | intro _ | with_reducible assumption | with_reducible exact rfl | exact rfl | exact Or.inl rfl | with_reducible exact Or.inr rfl
      | exact Or.inr rfl | with_reducible apply noteCredit_keeps | with_reducible apply sendDemand_keeps
      | with_reducible apply sendCredit_keeps | with_reducible apply connMod_keeps | with_reducible apply keeps_ite
      | simp only [↓keepsMk_eq] | with_reducible apply keepsMk_intro | dsimp only | split)

/-- What `takeGrant` keeps. -/
theorem takeGrant_keeps {m : Nat} {a : State} (s : State) (c : Nat) (gseq : Nat) (count : Nat) (h : Keeps m a s)
    (hm : Sub 0x80000 m) : Keeps m a (takeGrant s c gseq count) :=
  keeps_lift h hm (by
    have h : Keeps 0x80000 s s := keeps_refl _ _
    unfold takeGrant
    repeat' first
      | intro _ | with_reducible assumption | with_reducible exact rfl | exact rfl | exact Or.inl rfl | with_reducible exact Or.inr rfl
      | exact Or.inr rfl | with_reducible apply connMod_keeps | simp only [↓keepsMk_eq] | with_reducible apply keepsMk_intro | dsimp only
      | split)

/-- What `takeOpening` keeps. -/
theorem takeOpening_keeps {m : Nat} {a : State} (s : State) (c : Nat) (gseq : Nat) (count : Nat) (h : Keeps m a s)
    (hm : Sub 0x1000080000 m) : Keeps m a (takeOpening s c gseq count) :=
  keeps_lift h hm (by
    have h : Keeps 0x1000080000 s s := keeps_refl _ _
    unfold takeOpening
    repeat' first
      | intro _ | with_reducible assumption | with_reducible exact rfl | exact rfl | exact Or.inl rfl | with_reducible exact Or.inr rfl
      | exact Or.inr rfl | with_reducible apply takeGrant_keeps | with_reducible apply bumpFn_keeps | with_reducible apply keeps_ite
      | dsimp only | split)

/-- What `expireGrant` keeps. -/
theorem expireGrant_keeps {m : Nat} {a : State} (s : State) (c : Nat) (gseq : Nat) (h : Keeps m a s)
    (hm : Sub 0x5024182200 m) : Keeps m a (expireGrant s c gseq) :=
  keeps_lift h hm (by
    have h : Keeps 0x5024182200 s s := keeps_refl _ _
    unfold expireGrant
    repeat' first
      | intro _ | with_reducible assumption | with_reducible exact rfl | exact rfl | exact Or.inl rfl | with_reducible exact Or.inr rfl
      | exact Or.inr rfl | with_reducible apply demandCheck_keeps | with_reducible apply connMod_keeps
      | with_reducible apply bumpFnBy_keeps | simp only [↓keepsMk_eq] | with_reducible apply keepsMk_intro | dsimp only | split)

/-- What `execCreditGrantReceive` keeps. -/
theorem execCreditGrantReceive_keeps {m : Nat} {a : State} (c : Nat) (count : Nat) (lifetime : Nat) (gseq : Nat) (s : State) (h : Keeps m a s)
    (hm : Sub 0x5024182200 m) : KN m a (execCreditGrantReceive c count lifetime gseq s) :=
  kn_lift h hm (by
    have h : Keeps 0x5024182200 s s := keeps_refl _ _
    unfold execCreditGrantReceive
    repeat' first
      | intro _ | with_reducible assumption | with_reducible exact rfl | exact rfl | exact Or.inl rfl | with_reducible exact Or.inr rfl
      | exact Or.inr rfl | with_reducible apply kn_next | with_reducible apply expireGrant_keeps | with_reducible apply takeGrant_keeps
      | with_reducible apply demandCheck_keeps | with_reducible apply bumpFn_keeps | with_reducible apply keeps_ite
      | simp only [↓keepsMk_eq] | with_reducible apply keepsMk_intro | dsimp only | split)

/-- What `execGrantExpiry` keeps. -/
theorem execGrantExpiry_keeps {m : Nat} {a : State} (c : Nat) (gseq : Nat) (s : State) (h : Keeps m a s)
    (hm : Sub 0x5024182200 m) : KN m a (execGrantExpiry c gseq s) :=
  kn_lift h hm (by
    have h : Keeps 0x5024182200 s s := keeps_refl _ _
    unfold execGrantExpiry
    repeat' first
      | intro _ | with_reducible assumption | with_reducible exact rfl | exact rfl | with_reducible apply kn_next
      | with_reducible apply expireGrant_keeps | dsimp only)

/-- What `execDemandRepeatTimer` keeps. -/
theorem execDemandRepeatTimer_keeps {m : Nat} {a : State} (c : Nat) (s : State) (h : Keeps m a s)
    (hm : Sub 0x4024182200 m) : KN m a (execDemandRepeatTimer c s) :=
  kn_lift h hm (by
    have h : Keeps 0x4024182200 s s := keeps_refl _ _
    unfold execDemandRepeatTimer
    repeat' first
      | intro _ | with_reducible assumption | with_reducible exact rfl | exact rfl | with_reducible apply kn_next
      | with_reducible apply sendDemand_keeps | with_reducible apply keeps_ite | dsimp only | split)

/-- What `execCreditDemandReceive` keeps. -/
theorem execCreditDemandReceive_keeps {m : Nat} {a : State} (c : Nat) (backlog : Nat) (s : State) (h : Keeps m a s)
    (hm : Sub 0x1004000000 m) : KN m a (execCreditDemandReceive c backlog s) :=
  kn_lift h hm (by
    have h : Keeps 0x1004000000 s s := keeps_refl _ _
    unfold execCreditDemandReceive
    repeat' first
      | intro _ | with_reducible assumption | with_reducible exact rfl | exact rfl | exact Or.inl rfl | with_reducible exact Or.inr rfl
      | exact Or.inr rfl | with_reducible apply kn_next | with_reducible apply egressMod_keeps | with_reducible apply bumpFn_keeps
      | with_reducible apply keeps_ite | simp only [↓keepsMk_eq] | with_reducible apply keepsMk_intro | with_reducible apply keeps_foldl
      | dsimp only | split)

/-- What `grantOut` keeps. -/
theorem grantOut_keeps {m : Nat} {a : State} (s : State) (c : Nat) (gseq : Nat) (n : Nat) (h : Keeps m a s)
    (hm : Sub 0x4080000 m) : Keeps m a (grantOut s c gseq n) :=
  keeps_lift h hm (by
    have h : Keeps 0x4080000 s s := keeps_refl _ _
    unfold grantOut
    repeat' first
      | intro _ | with_reducible assumption | with_reducible exact rfl | exact rfl | exact Or.inl rfl | with_reducible exact Or.inr rfl
      | exact Or.inr rfl | with_reducible apply connMod_keeps | with_reducible apply egressMod_keeps | simp only [↓keepsMk_eq]
      | with_reducible apply keepsMk_intro | dsimp only | split)

/-- What `sendGrant` keeps. -/
theorem sendGrant_keeps {m : Nat} {a : State} (s : State) (c : Nat) (n : Nat) (h : Keeps m a s)
    (hm : Sub 0x4024182200 m) : Keeps m a (sendGrant s c n) :=
  keeps_lift h hm (by
    have h : Keeps 0x4024182200 s s := keeps_refl _ _
    unfold sendGrant
    repeat' first
      | intro _ | with_reducible assumption | with_reducible exact rfl | exact rfl | exact Or.inl rfl | with_reducible exact Or.inr rfl
      | exact Or.inr rfl | with_reducible apply connMod_keeps | with_reducible apply grantOut_keeps
      | with_reducible apply sendCredit_keeps | simp only [↓keepsMk_eq] | with_reducible apply keepsMk_intro | dsimp only | split)

/-- What `tryGrant` keeps. -/
theorem tryGrant_keeps {m : Nat} {a : State} (s : State) (p : Nat) (c : Nat) (n : Nat) (after : Egress → Egress) (h : Keeps m a s)
    (hm : Sub 0x5024182200 m) : Keeps m a (tryGrant s p c n after) :=
  keeps_lift h hm (by
    have h : Keeps 0x5024182200 s s := keeps_refl _ _
    unfold tryGrant
    repeat' first
      | intro _ | with_reducible assumption | with_reducible exact rfl | exact rfl | exact Or.inl rfl | with_reducible exact Or.inr rfl
      | exact Or.inr rfl | with_reducible apply bumpFn_keeps | with_reducible apply sendGrant_keeps
      | with_reducible apply egressMod_keeps | with_reducible apply keeps_ite | simp only [↓keepsMk_eq]
      | with_reducible apply keepsMk_intro | dsimp only | split)

/-- What `execGrantIssue` keeps. -/
theorem execGrantIssue_keeps {m : Nat} {a : State} (p : Nat) (s : State) (h : Keeps m a s)
    (hm : Sub 0x5024182200 m) : KN m a (execGrantIssue p s) :=
  kn_lift h hm (by
    have h : Keeps 0x5024182200 s s := keeps_refl _ _
    unfold execGrantIssue
    repeat' first
      | intro _ | with_reducible assumption | with_reducible exact rfl | exact rfl | exact Or.inl rfl | with_reducible exact Or.inr rfl
      | exact Or.inr rfl | with_reducible apply kn_next | with_reducible apply tryGrant_keeps | with_reducible apply keeps_ite
      | simp only [↓keepsMk_eq] | with_reducible apply keepsMk_intro | dsimp only | split)

/-- What `reclaimUnit` keeps. -/
theorem reclaimUnit_keeps {m : Nat} {a : State} (s : State) (c : Nat) (h : Keeps m a s)
    (hm : Sub 0x4080000 m) : Keeps m a (reclaimUnit s c) :=
  keeps_lift h hm (by
    have h : Keeps 0x4080000 s s := keeps_refl _ _
    unfold reclaimUnit
    repeat' first
      | intro _ | with_reducible assumption | with_reducible exact rfl | exact rfl | exact Or.inl rfl | with_reducible exact Or.inr rfl
      | exact Or.inr rfl | with_reducible apply connMod_keeps | with_reducible apply egressMod_keeps | with_reducible apply keeps_ite
      | simp only [↓keepsMk_eq] | with_reducible apply keepsMk_intro | dsimp only | split)

/-- What `reclaimAll` keeps. -/
theorem reclaimAll_keeps {m : Nat} {a : State} (s : State) (c : Nat) (h : Keeps m a s)
    (hm : Sub 0x4080000 m) : Keeps m a (reclaimAll s c) :=
  keeps_lift h hm (by
    have h : Keeps 0x4080000 s s := keeps_refl _ _
    unfold reclaimAll
    repeat' first
      | intro _ | with_reducible assumption | with_reducible exact rfl | exact rfl | exact Or.inl rfl | with_reducible exact Or.inr rfl
      | exact Or.inr rfl | with_reducible apply connMod_keeps | with_reducible apply egressMod_keeps | simp only [↓keepsMk_eq]
      | with_reducible apply keepsMk_intro | with_reducible apply keeps_foldl | dsimp only | split)

/-- What `execGrantReclaimTimer` keeps. -/
theorem execGrantReclaimTimer_keeps {m : Nat} {a : State} (c : Nat) (gseq : Nat) (s : State) (h : Keeps m a s)
    (hm : Sub 0x1004080000 m) : KN m a (execGrantReclaimTimer c gseq s) :=
  kn_lift h hm (by
    have h : Keeps 0x1004080000 s s := keeps_refl _ _
    unfold execGrantReclaimTimer
    repeat' first
      | intro _ | with_reducible assumption | with_reducible exact rfl | exact rfl | exact Or.inl rfl | with_reducible exact Or.inr rfl
      | exact Or.inr rfl | with_reducible apply kn_next | with_reducible apply connMod_keeps | with_reducible apply egressMod_keeps
      | with_reducible apply bumpFnBy_keeps | with_reducible apply keeps_ite | simp only [↓keepsMk_eq]
      | with_reducible apply keepsMk_intro | dsimp only | split)

/-- What `placeQueue` keeps. -/
theorem placeQueue_keeps {m : Nat} {a : State} (s : State) (p : Nat) (t : Nat) (h : Keeps m a s)
    (hm : Sub 0x1004000000 m) : Keeps m a (placeQueue s p t).1 :=
  keeps_lift h hm (by
    have h : Keeps 0x1004000000 s s := keeps_refl _ _
    unfold placeQueue
    repeat' first
      | intro _ | with_reducible assumption | with_reducible exact rfl | exact rfl | exact Or.inl rfl | with_reducible exact Or.inr rfl
      | exact Or.inr rfl | with_reducible apply bumpFn_keeps | with_reducible apply egressMod_keeps | with_reducible apply keeps_ite
      | simp only [↓keepsMk_eq] | with_reducible apply keepsMk_intro | dsimp only | split)

/-- What `placeDone` keeps. -/
theorem placeDone_keeps {m : Nat} {a : State} (s : State) (p : Nat) (h : Keeps m a s)
    (hm : Sub 0x4000000 m) : Keeps m a (placeDone s p) :=
  keeps_lift h hm (by
    have h : Keeps 0x4000000 s s := keeps_refl _ _
    unfold placeDone
    repeat' first
      | intro _ | with_reducible assumption | with_reducible exact rfl | exact rfl | exact Or.inl rfl | with_reducible exact Or.inr rfl
      | exact Or.inr rfl | with_reducible apply egressMod_keeps | simp only [↓keepsMk_eq] | with_reducible apply keepsMk_intro
      | dsimp only | split)

/-- What `dropPlacements` keeps. -/
theorem dropPlacements_keeps {m : Nat} {a : State} (s : State) (p : Nat) (l : List Issued) (h : Keeps m a s)
    (hm : Sub 0x4020000 m) : Keeps m a (dropPlacements s p l) :=
  keeps_lift h hm (by
    have h : Keeps 0x4020000 s s := keeps_refl _ _
    unfold dropPlacements
    repeat' first
      | intro _ | with_reducible assumption | with_reducible exact rfl | exact rfl | exact Or.inl rfl | with_reducible exact Or.inr rfl
      | exact Or.inr rfl | with_reducible apply placeDone_keeps | with_reducible apply endXfer_keeps | simp only [↓keepsMk_eq]
      | with_reducible apply keepsMk_intro | with_reducible apply keeps_foldl | dsimp only | split)

end Sys2Proof.Laws
end

