-- ==== Sys2Proof/Laws/KeepsCic.lean ====
section
/-! SUPPORT. Every definition of Machine/Cic.lean keeps what `Keeps` says. -/
namespace Sys2Proof.Laws
open Sys2Proof.Machine Sys2Proof.Safety

/-- What `syncRec` keeps. -/
theorem syncRec_keeps {m : Nat} {a : State} (s : State) (h : Keeps m a s)
    (hm : Sub 0x40 m) : Keeps m a (syncRec s) :=
  keeps_lift h hm (by
    have h : Keeps 0x40 s s := keeps_refl _ _
    unfold syncRec
    repeat' first
      | intro _ | with_reducible assumption | with_reducible exact rfl | exact rfl | with_reducible apply recWrite_keeps | dsimp only)

/-- What `storePiece` keeps. -/
theorem storePiece_keeps {m : Nat} {a : State} (s : State) (i : Nat) (bytes : List Byte) (flashOk : Bool) (h : Keeps m a s)
    (hm : Sub 0x400000000040 m) : Keeps m a (storePiece s i bytes flashOk).1 :=
  keeps_lift h hm (by
    have h : Keeps 0x400000000040 s s := keeps_refl _ _
    unfold storePiece
    repeat' first
      | intro _ | with_reducible assumption | with_reducible exact rfl | exact rfl | exact Or.inl rfl | with_reducible exact Or.inr rfl
      | exact Or.inr rfl | with_reducible apply bump_keeps | with_reducible apply slotMod_keeps | with_reducible apply syncRec_keeps
      | with_reducible apply keeps_ite | simp only [↓keepsMk_eq] | with_reducible apply keepsMk_intro | dsimp only | split)

/-- What `takeHeader` keeps. -/
theorem takeHeader_keeps {m : Nat} {a : State} (s : State) (h : List Byte) (h0 : Keeps m a s)
    (hm : Sub 0x400000000040 m) : Keeps m a (takeHeader s h) :=
  keeps_lift h0 hm (by
    have h0 : Keeps 0x400000000040 s s := keeps_refl _ _
    unfold takeHeader
    repeat' first
      | intro _ | with_reducible assumption | with_reducible exact rfl | exact rfl | exact Or.inl rfl | with_reducible exact Or.inr rfl
      | exact Or.inr rfl | with_reducible apply syncRec_keeps | with_reducible apply bump_keeps | with_reducible apply slotMod_keeps
      | simp only [↓keepsMk_eq] | with_reducible apply keepsMk_intro | dsimp only | split)

/-- What `refusePiece` keeps. -/
theorem refusePiece_keeps {m : Nat} {a : State} (s : State) (r : CicResult) (h : Keeps m a s)
    (hm : Sub 0x400000000000 m) : Keeps m a (refusePiece s r).1 :=
  keeps_lift h hm (by
    have h : Keeps 0x400000000000 s s := keeps_refl _ _
    unfold refusePiece
    repeat' first
      | intro _ | with_reducible assumption | with_reducible exact rfl | exact rfl | exact Or.inl rfl | with_reducible exact Or.inr rfl
      | exact Or.inr rfl | with_reducible apply bump_keeps | dsimp only)

/-- What `wholePiece` keeps. -/
theorem wholePiece_keeps {m : Nat} {a : State} (s : State) (image : Nat) (i : Nat) (bytes : List Byte) (flashOk : Bool) (h : Keeps m a s)
    (hm : Sub 0x400000000040 m) : Keeps m a (wholePiece s image i bytes flashOk).1 :=
  keeps_lift h hm (by
    have h : Keeps 0x400000000040 s s := keeps_refl _ _
    unfold wholePiece
    repeat' first
      | intro _ | with_reducible assumption | with_reducible exact rfl | exact rfl | with_reducible apply refusePiece_keeps
      | with_reducible apply takeHeader_keeps | with_reducible apply storePiece_keeps | with_reducible apply keeps_ite | dsimp only
      | split | refine kq_get ?_ (by with_reducible assumption) | refine kq_get1 ?_ (by with_reducible assumption))

/-- What `bufferFragment` keeps. -/
theorem bufferFragment_keeps {μ : Nat} {a : State} (s : State) (m : CicMsg) (flashOk : Bool) (h : Keeps μ a s)
    (hm : Sub 0x400000000140 μ) : Keeps μ a (bufferFragment s m flashOk).1 :=
  keeps_lift h hm (by
    have h : Keeps 0x400000000140 s s := keeps_refl _ _
    unfold bufferFragment
    repeat' first
      | intro _ | with_reducible assumption | with_reducible exact rfl | exact rfl | exact Or.inl rfl | with_reducible exact Or.inr rfl
      | exact Or.inr rfl | with_reducible apply bump_keeps | with_reducible apply wholePiece_keeps | with_reducible apply keeps_ite
      | simp only [↓keepsMk_eq] | with_reducible apply keepsMk_intro | with_reducible apply keeps_foldl | dsimp only | split
      | refine kq_get ?_ (by with_reducible assumption) | refine kq_get1 ?_ (by with_reducible assumption))

/-- What `doPiece` keeps. -/
theorem doPiece_keeps {μ : Nat} {a : State} (s : State) (path : CicPath) (m : CicMsg) (flashOk : Bool) (h : Keeps μ a s)
    (hm : Sub 0x400000000140 μ) : Keeps μ a (doPiece s path m flashOk).1 :=
  keeps_lift h hm (by
    have h : Keeps 0x400000000140 s s := keeps_refl _ _
    unfold doPiece
    repeat' first
      | intro _ | with_reducible assumption | with_reducible exact rfl | exact rfl | with_reducible apply refusePiece_keeps
      | with_reducible apply bufferFragment_keeps | with_reducible apply keeps_ite | dsimp only | split
      | refine kq_get ?_ (by with_reducible assumption) | refine kq_get1 ?_ (by with_reducible assumption))

/-- What `cicReply` keeps. -/
theorem cicReply_keeps {μ : Nat} {a : State} (s : State) (path : CicPath) (m : CicMsg) (r : CicResult) (body : List Byte) (h : Keeps μ a s)
    (hm : Sub 0x20000100 μ) : Keeps μ a (cicReply s path m r body) :=
  keeps_lift h hm (by
    have h : Keeps 0x20000100 s s := keeps_refl _ _
    unfold cicReply
    repeat' first
      | intro _ | with_reducible assumption | with_reducible exact rfl | exact rfl | exact Or.inl rfl | with_reducible exact Or.inr rfl
      | exact Or.inr rfl | with_reducible apply emit_keeps | simp only [↓keepsMk_eq] | with_reducible apply keepsMk_intro | dsimp only
      | split)

/-- What `cicRun` keeps. -/
theorem cicRun_keeps {m : Nat} {a : State} (s : State) (path : CicPath) (kind : Nat) (msg : CicMsg)
    {f : State → State × CicResult × List Byte} (h : Keeps m a s) (g : Keeps m a (f s).1) (hm : Sub 0x20000100 m) :
    Keeps m a (cicRun s path kind msg f) :=
  have e : ∀ t, Keeps m a t → ∀ r b, Keeps m a (cicReply t path msg r b) := fun _ k _ _ =>
    keeps_lift k hm (cicReply_keeps _ _ _ _ _ (keeps_refl _ _) rfl)
  keeps_ite h (keeps_ite (e _ h _ _) (keeps_ite (e _ h _ _) (e _ g _ _)))

/-- What `execCicQuery` keeps. -/
theorem execCicQuery_keeps {m : Nat} {a : State} (path : CicPath) (msg : CicMsg) (s : State) (h : Keeps m a s)
    (hm : Sub 0x20000100 m) : KN m a (execCicQuery path msg s) :=
  kn_lift h hm (by
    have h : Keeps 0x20000100 s s := keeps_refl _ _
    unfold execCicQuery
    repeat' first
      | intro _ | with_reducible assumption | with_reducible exact rfl | exact rfl | with_reducible apply kn_next
      | with_reducible apply cicRun_keeps | dsimp only | split)

/-- What `execCicPiece` keeps. -/
theorem execCicPiece_keeps {m : Nat} {a : State} (path : CicPath) (msg : CicMsg) (flashOk : Bool) (s : State) (h : Keeps m a s)
    (hm : Sub 0x400020000140 m) : KN m a (execCicPiece path msg flashOk s) :=
  kn_lift h hm (by
    have h : Keeps 0x400020000140 s s := keeps_refl _ _
    unfold execCicPiece
    repeat' first
      | intro _ | with_reducible assumption | with_reducible exact rfl | exact rfl | with_reducible apply kn_next
      | with_reducible apply cicRun_keeps | with_reducible apply doPiece_keeps | dsimp only | split
      | refine kq_get ?_ (by with_reducible assumption) | refine kq_get1 ?_ (by with_reducible assumption))

/-- What `execPieceBufferIdle` keeps. -/
theorem execPieceBufferIdle_keeps {m : Nat} {a : State} (image : Nat) (index : Nat) (s : State) (h : Keeps m a s)
    (hm : Sub 0x400000000100 m) : KN m a (execPieceBufferIdle image index s) :=
  kn_lift h hm (by
    have h : Keeps 0x400000000100 s s := keeps_refl _ _
    unfold execPieceBufferIdle
    repeat' first
      | intro _ | with_reducible assumption | with_reducible exact rfl | exact rfl | exact Or.inl rfl | with_reducible exact Or.inr rfl
      | exact Or.inr rfl | with_reducible apply kn_next | with_reducible apply bump_keeps | with_reducible apply keeps_ite
      | simp only [↓keepsMk_eq] | with_reducible apply keepsMk_intro | dsimp only | split)

/-- What `doAbandon` keeps. -/
theorem doAbandon_keeps {m : Nat} {a : State} (s : State) (h : Keeps m a s)
    (hm : Sub 0x40 m) : Keeps m a (doAbandon s).1 :=
  keeps_lift h hm (by
    have h : Keeps 0x40 s s := keeps_refl _ _
    unfold doAbandon
    repeat' first
      | intro _ | with_reducible assumption | with_reducible exact rfl | exact rfl | with_reducible apply syncRec_keeps
      | with_reducible apply slotMod_keeps | with_reducible apply keeps_ite | dsimp only | split)

/-- What `execCicAbandon` keeps. -/
theorem execCicAbandon_keeps {m : Nat} {a : State} (path : CicPath) (msg : CicMsg) (s : State) (h : Keeps m a s)
    (hm : Sub 0x20000140 m) : KN m a (execCicAbandon path msg s) :=
  kn_lift h hm (by
    have h : Keeps 0x20000140 s s := keeps_refl _ _
    unfold execCicAbandon
    repeat' first
      | intro _ | with_reducible assumption | with_reducible exact rfl | exact rfl | with_reducible apply kn_next
      | with_reducible apply cicRun_keeps | with_reducible apply doAbandon_keeps | dsimp only
      | refine kq_get ?_ (by with_reducible assumption) | refine kq_get1 ?_ (by with_reducible assumption))

/-- What `doActivate` keeps. -/
theorem doActivate_keeps {μ : Nat} {a : State} (s : State) (m : CicMsg) (flashOk : Bool) (h : Keeps μ a s)
    (hm : Sub 0x60 μ) : Keeps μ a (doActivate s m flashOk).1 :=
  keeps_lift h hm (by
    have h : Keeps 0x60 s s := keeps_refl _ _
    unfold doActivate
    repeat' first
      | intro _ | with_reducible assumption | with_reducible exact rfl | exact rfl | exact Or.inl rfl | with_reducible exact Or.inr rfl
      | exact Or.inr rfl | with_reducible apply syncRec_keeps | with_reducible apply slotMod_keeps | with_reducible apply recWrite_keeps
      | with_reducible apply keeps_ite | simp only [↓keepsMk_eq] | with_reducible apply keepsMk_intro | dsimp only | split)

/-- What `execCicActivate` keeps. -/
theorem execCicActivate_keeps {m : Nat} {a : State} (path : CicPath) (msg : CicMsg) (flashOk : Bool) (s : State) (h : Keeps m a s)
    (hm : Sub 0x20000160 m) : KN m a (execCicActivate path msg flashOk s) :=
  kn_lift h hm (by
    have h : Keeps 0x20000160 s s := keeps_refl _ _
    unfold execCicActivate
    repeat' first
      | intro _ | with_reducible assumption | with_reducible exact rfl | exact rfl | with_reducible apply kn_next
      | with_reducible apply cicRun_keeps | with_reducible apply doActivate_keeps | dsimp only | split
      | refine kq_get ?_ (by with_reducible assumption) | refine kq_get1 ?_ (by with_reducible assumption))

/-- What `execActivateResetTimer` keeps. -/
theorem execActivateResetTimer_keeps {m : Nat} {a : State} (s : State) (h : Keeps m a s)
    (hm : Sub 0x1ffff1fffff3a m) : KN m a (execActivateResetTimer s) :=
  kn_lift h hm (by
    have h : Keeps 0x1ffff1fffff3a s s := keeps_refl _ _
    unfold execActivateResetTimer
    repeat' first
      | intro _ | with_reducible assumption | with_reducible exact rfl | exact rfl | exact Or.inl rfl | with_reducible exact Or.inr rfl
      | exact Or.inr rfl | with_reducible apply kn_next | with_reducible apply fullReset_keeps | with_reducible apply keeps_ite
      | simp only [↓keepsMk_eq] | with_reducible apply keepsMk_intro | dsimp only | split)

/-- What `doConfirm` keeps. -/
theorem doConfirm_keeps {m : Nat} {a : State} (s : State) (h : Keeps m a s) (hm : Sub 0x8002000e2e0 m) : Keeps m a (doConfirm s).1 :=
  keeps_lift h hm (by
    have h : Keeps 0x8002000e2e0 s s := keeps_refl _ s
    unfold doConfirm
    split
    · extract_lets k sl svn s1 s2 s3 b3 f4 s4
      have h3 : Keeps 0x8002000e2e0 s s3 := recWrite_keeps _ _ (slotMod_keeps _ _ _ (slotMod_keeps _ _ _ (slotMod_keeps _ _ _
        (slotMod_keeps _ _ _ h rfl) rfl) rfl) rfl) rfl
      have f3 : s3.fuses = s.fuses := rfl
      have hs : Safety.FuseLe s3.fuses { s3.fuses with svn := svn } := ⟨by rw [f3]; exact Nat.le_max_left _ _, id, id, rfl, rfl⟩
      have h4 : Keeps 0x8002000e2e0 s { s3 with fuses := { s3.fuses with svn := svn } } := keeps_fuses h3 rfl hs
      have h5 : Keeps 0x8002000e2e0 s s4 := { h4 with
        canon := fun c => ⟨(h4.canon c).bytes, (h4.canon c).blocks, (h4.canon c).regs, (h4.canon c).owners⟩
        boot := fun x => absurd rfl x }
      dsimp only
      with_reducible apply report_keeps
      · exact h5
      · rfl
    · exact h)

/-- What `execCicConfirm` keeps. -/
theorem execCicConfirm_keeps {m : Nat} {a : State} (path : CicPath) (msg : CicMsg) (s : State) (h : Keeps m a s)
    (hm : Sub 0x8002000e3e0 m) : KN m a (execCicConfirm path msg s) :=
  kn_lift h hm (by
    have h : Keeps 0x8002000e3e0 s s := keeps_refl _ _
    unfold execCicConfirm
    repeat' first
      | intro _ | with_reducible assumption | with_reducible exact rfl | exact rfl | with_reducible apply kn_next
      | with_reducible apply cicRun_keeps | with_reducible apply doConfirm_keeps | dsimp only
      | refine kq_get ?_ (by with_reducible assumption) | refine kq_get1 ?_ (by with_reducible assumption))

/-- What `execHealthWindowExpiry` keeps. -/
theorem execHealthWindowExpiry_keeps {m : Nat} {a : State} (s : State) (h : Keeps m a s)
    (hm : Sub 0x1ffff1fffff3a m) : KN m a (execHealthWindowExpiry s) :=
  kn_lift h hm (by
    have h : Keeps 0x1ffff1fffff3a s s := keeps_refl _ _
    unfold execHealthWindowExpiry
    repeat' first
      | intro _ | with_reducible assumption | with_reducible exact rfl | exact rfl | exact Or.inl rfl | with_reducible exact Or.inr rfl
      | exact Or.inr rfl | with_reducible apply kn_next | with_reducible apply fullReset_keeps | with_reducible apply keeps_ite
      | simp only [↓keepsMk_eq] | with_reducible apply keepsMk_intro | dsimp only | split)

end Sys2Proof.Laws
end

