-- ==== Sys2Proof/Laws/KeepsHif.lean ====
section
/-! SUPPORT. Every definition of Machine/Hif.lean keeps what `Keeps` says. -/
namespace Sys2Proof.Laws
open Sys2Proof.Machine Sys2Proof.Safety

/-- What `access` keeps. -/
theorem access_keeps {m : Nat} {a : State} (s : State) (fn : Nat) (ctxReg : W64) (va : Nat) (len : Nat) (u : Use) (h : Keeps m a s)
    (hm : Sub 0x10c042002e200 m) : Keeps m a (access s fn ctxReg va len u).1 :=
  keeps_lift h hm (by
    have h : Keeps 0x10c042002e200 s s := keeps_refl _ _
    unfold access
    repeat' first
      | intro _ | with_reducible assumption | with_reducible exact rfl | exact rfl | with_reducible apply xlateAll_keeps
      | with_reducible apply keeps_ite | dsimp only | split | refine kq_get ?_ (by with_reducible assumption)
      | refine kq_get1 ?_ (by with_reducible assumption))

/-- What `accessFault` keeps. -/
theorem accessFault_keeps {m : Nat} {a : State} (s : State) (fn : Nat) (ctxReg : W64) (st : Nat) (addr : Nat) (h : Keeps m a s)
    (hm : Sub 0x8002000e200 m) : Keeps m a (accessFault s fn ctxReg st addr) :=
  keeps_lift h hm (by
    have h : Keeps 0x8002000e200 s s := keeps_refl _ _
    unfold accessFault
    repeat' first
      | intro _ | with_reducible assumption | with_reducible exact rfl | exact rfl | with_reducible apply accessEvent_keeps | dsimp only)

/-- What `doWrite` keeps. -/
theorem doWrite_keeps {m : Nat} {a : State} (s : State) (fn : Nat) (ctxReg : W64) (va : Nat) (bytes : List Byte) (w : Waiter) (h : Keeps m a s)
    (hm : Sub 0x10c042202e200 m) : Keeps m a (doWrite s fn ctxReg va bytes w).1 :=
  keeps_lift h hm (by
    have h : Keeps 0x10c042202e200 s s := keeps_refl _ _
    unfold doWrite
    repeat' first
      | intro _ | with_reducible assumption | with_reducible exact rfl | exact rfl | with_reducible apply access_keeps
      | with_reducible apply stall_keeps | with_reducible apply accessFault_keeps | with_reducible apply writePieces_keeps
      | with_reducible apply ownFault_keeps | with_reducible apply keeps_ite | dsimp only | split
      | refine kq_get ?_ (by with_reducible assumption) | refine kq_get1 ?_ (by with_reducible assumption))

/-- What `doRead` keeps. -/
theorem doRead_keeps {m : Nat} {a : State} (s : State) (fn : Nat) (ctxReg : W64) (va : Nat) (len : Nat) (bus : Option (List Byte)) (w : Waiter) (h : Keeps m a s)
    (hm : Sub 0x10c042002e200 m) : Keeps m a (doRead s fn ctxReg va len bus w).1 :=
  keeps_lift h hm (by
    have h : Keeps 0x10c042002e200 s s := keeps_refl _ _
    unfold doRead
    repeat' first
      | intro _ | with_reducible assumption | with_reducible exact rfl | exact rfl | with_reducible apply access_keeps
      | with_reducible apply stall_keeps | with_reducible apply accessFault_keeps | with_reducible apply readPieces_keeps | dsimp only
      | split | refine kq_get ?_ (by with_reducible assumption) | refine kq_get1 ?_ (by with_reducible assumption))

/-- What `winWrite` keeps. -/
theorem winWrite_keeps {m : Nat} {a : State} (s : State) (fn : Nat) (ctxReg : W64) (va : Nat) (bytes : List Byte) (h : Keeps m a s)
    (hm : Sub 0x10c052202e200 m) : Keeps m a (winWrite s fn ctxReg va bytes) :=
  keeps_lift h hm (by
    have h : Keeps 0x10c052202e200 s s := keeps_refl _ _
    unfold winWrite
    repeat' first
      | intro _ | with_reducible assumption | with_reducible exact rfl | exact rfl | exact Or.inl rfl | with_reducible exact Or.inr rfl
      | exact Or.inr rfl | with_reducible apply doWrite_keeps | with_reducible apply portsEmpty_keeps | with_reducible apply bumpFn_keeps
      | with_reducible apply keeps_ite | dsimp only | split | refine kq_get ?_ (by with_reducible assumption)
      | refine kq_get1 ?_ (by with_reducible assumption))

/-- What `execWindowWrite` keeps. -/
theorem execWindowWrite_keeps {m : Nat} {a : State} (fn : Nat) (off : Nat) (bytes : List Byte) (s : State) (h : Keeps m a s)
    (hm : Sub 0x10c052202e200 m) : KN m a (execWindowWrite fn off bytes s) :=
  kn_lift h hm (by
    have h : Keeps 0x10c052202e200 s s := keeps_refl _ _
    unfold execWindowWrite
    repeat' first
      | intro _ | with_reducible assumption | with_reducible exact rfl | exact rfl | with_reducible apply kn_next
      | with_reducible apply winWrite_keeps | with_reducible apply keeps_ite | dsimp only | split)

/-- What `winRead` keeps. -/
theorem winRead_keeps {m : Nat} {a : State} (s : State) (fn : Nat) (ctxReg : W64) (va : Nat) (len : Nat) (bus : Option (List Byte)) (h : Keeps m a s)
    (hm : Sub 0x10c052002e200 m) : Keeps m a (winRead s fn ctxReg va len bus) :=
  keeps_lift h hm (by
    have h : Keeps 0x10c052002e200 s s := keeps_refl _ _
    unfold winRead
    repeat' first
      | intro _ | with_reducible assumption | with_reducible exact rfl | exact rfl | exact Or.inl rfl | with_reducible exact Or.inr rfl
      | exact Or.inr rfl | with_reducible apply doRead_keeps | with_reducible apply bumpFn_keeps | with_reducible apply emit_keeps
      | with_reducible apply keeps_ite | dsimp only | split | refine kq_get ?_ (by with_reducible assumption)
      | refine kq_get1 ?_ (by with_reducible assumption))

/-- What `execWindowRead` keeps. -/
theorem execWindowRead_keeps {m : Nat} {a : State} (fn : Nat) (off : Nat) (len : Nat) (bus : Option (List Byte)) (s : State) (h : Keeps m a s)
    (hm : Sub 0x10c052002e200 m) : KN m a (execWindowRead fn off len bus s) :=
  kn_lift h hm (by
    have h : Keeps 0x10c052002e200 s s := keeps_refl _ _
    unfold execWindowRead
    repeat' first
      | intro _ | with_reducible assumption | with_reducible exact rfl | exact rfl | with_reducible apply kn_next
      | with_reducible apply winRead_keeps | with_reducible apply keeps_ite | dsimp only | split)

/-- What `execWinCtxWrite` keeps. -/
theorem execWinCtxWrite_keeps {m : Nat} {a : State} (fn : Nat) (value : W64) (s : State) (h : Keeps m a s)
    (hm : Sub 0x100000200 m) : KN m a (execWinCtxWrite fn value s) :=
  kn_lift h hm (by
    have h : Keeps 0x100000200 s s := keeps_refl _ _
    unfold execWinCtxWrite
    repeat' first
      | intro _ | with_reducible assumption | with_reducible exact rfl | exact rfl | exact Or.inl rfl | with_reducible exact Or.inr rfl
      | exact Or.inr rfl | with_reducible apply kn_next | with_reducible apply dropHeld_keeps | with_reducible apply setReg_keeps
      | with_reducible apply fnMod_keeps | with_reducible apply keeps_ite | simp only [↓keepsMk_eq] | with_reducible apply keepsMk_intro
      | dsimp only | split)

/-- What `portWriteAt` keeps. -/
theorem portWriteAt_keeps {m : Nat} {a : State} (s : State) (port : Nat) (ctxReg : W64) (va : Nat) (bytes : List Byte) (h : Keeps m a s)
    (hm : Sub 0x10c042202e200 m) : Keeps m a (portWriteAt s port ctxReg va bytes) :=
  keeps_lift h hm (by
    have h : Keeps 0x10c042202e200 s s := keeps_refl _ _
    unfold portWriteAt
    repeat' first
      | intro _ | with_reducible assumption | with_reducible exact rfl | exact rfl | exact Or.inl rfl | with_reducible exact Or.inr rfl
      | exact Or.inr rfl | with_reducible apply doWrite_keeps | with_reducible apply portEmpty_keeps | with_reducible apply portMod_keeps
      | with_reducible apply keeps_ite | simp only [↓keepsMk_eq] | with_reducible apply keepsMk_intro | dsimp only | split
      | refine kq_get ?_ (by with_reducible assumption) | refine kq_get1 ?_ (by with_reducible assumption))

/-- What `execDataPortWrite` keeps. -/
theorem execDataPortWrite_keeps {m : Nat} {a : State} (port : Nat) (off : Nat) (bytes : List Byte) (s : State) (h : Keeps m a s)
    (hm : Sub 0x10c042202e200 m) : KN m a (execDataPortWrite port off bytes s) :=
  kn_lift h hm (by
    have h : Keeps 0x10c042202e200 s s := keeps_refl _ _
    unfold execDataPortWrite
    repeat' first
      | intro _ | with_reducible assumption | with_reducible exact rfl | exact rfl | with_reducible apply kn_next
      | with_reducible apply portWriteAt_keeps | with_reducible apply keeps_ite | dsimp only | split)

/-- What `prefetchMore` keeps. -/
theorem prefetchMore_keeps {m : Nat} {a : State} (s : State) (n : Nat) (top : Nat) (h : Keeps m a s)
    (hm : Sub 0x20002000 m) : Keeps m a (prefetchMore s n top) :=
  keeps_lift h hm (by
    have h : Keeps 0x20002000 s s := keeps_refl _ _
    unfold prefetchMore
    repeat' first
      | intro _ | with_reducible assumption | with_reducible exact rfl | exact rfl | exact Or.inl rfl | with_reducible exact Or.inr rfl
      | exact Or.inr rfl | with_reducible apply portMod_keeps | with_reducible apply emit_keeps | with_reducible apply keeps_ite
      | simp only [↓keepsMk_eq] | with_reducible apply keepsMk_intro | dsimp only | split)

/-- What `portReadAt` keeps. -/
theorem portReadAt_keeps {m : Nat} {a : State} (s : State) (port : Nat) (ctxReg : W64) (va : Nat) (off : Nat) (len : Nat) (bus : Option (List Byte)) (h : Keeps m a s)
    (hm : Sub 0x10c042002e200 m) : Keeps m a (portReadAt s port ctxReg va off len bus) :=
  keeps_lift h hm (by
    have h : Keeps 0x10c042002e200 s s := keeps_refl _ _
    unfold portReadAt
    repeat' first
      | intro _ | with_reducible assumption | with_reducible exact rfl | exact rfl | exact Or.inl rfl | with_reducible exact Or.inr rfl
      | exact Or.inr rfl | with_reducible apply doRead_keeps | with_reducible apply portMod_keeps | with_reducible apply emit_keeps
      | with_reducible apply prefetchMore_keeps | with_reducible apply keeps_ite | simp only [↓keepsMk_eq]
      | with_reducible apply keepsMk_intro | dsimp only | split | refine kq_get ?_ (by with_reducible assumption)
      | refine kq_get1 ?_ (by with_reducible assumption))

/-- What `execDataPortRead` keeps. -/
theorem execDataPortRead_keeps {m : Nat} {a : State} (port : Nat) (off : Nat) (len : Nat) (bus : Option (List Byte)) (s : State) (h : Keeps m a s)
    (hm : Sub 0x10c042002e200 m) : KN m a (execDataPortRead port off len bus s) :=
  kn_lift h hm (by
    have h : Keeps 0x10c042002e200 s s := keeps_refl _ _
    unfold execDataPortRead
    repeat' first
      | intro _ | with_reducible assumption | with_reducible exact rfl | exact rfl | exact Or.inl rfl | with_reducible exact Or.inr rfl
      | exact Or.inr rfl | with_reducible apply kn_next | with_reducible apply emit_keeps | with_reducible apply prefetchMore_keeps
      | with_reducible apply portReadAt_keeps | with_reducible apply keeps_ite | simp only [↓keepsMk_eq]
      | with_reducible apply keepsMk_intro | dsimp only | split)

/-- What `execPrefetchFill` keeps. -/
theorem execPrefetchFill_keeps {m : Nat} {a : State} (port : Nat) (epoch : Nat) (off : Nat) (len : Nat) (bus : Option (List Byte)) (s : State) (h : Keeps m a s)
    (hm : Sub 0x10c042002e200 m) : KN m a (execPrefetchFill port epoch off len bus s) :=
  kn_lift h hm (by
    have h : Keeps 0x10c042002e200 s s := keeps_refl _ _
    unfold execPrefetchFill
    repeat' first
      | intro _ | with_reducible assumption | with_reducible exact rfl | exact rfl | exact Or.inl rfl | with_reducible exact Or.inr rfl
      | exact Or.inr rfl | with_reducible apply kn_next | with_reducible apply xlateAll_keeps | with_reducible apply readPieces_keeps
      | with_reducible apply portMod_keeps | with_reducible apply keeps_ite | simp only [↓keepsMk_eq]
      | with_reducible apply keepsMk_intro | dsimp only | split | refine kq_get ?_ (by with_reducible assumption)
      | refine kq_get1 ?_ (by with_reducible assumption))

/-- What `execDataPortCtxWrite` keeps. -/
theorem execDataPortCtxWrite_keeps {m : Nat} {a : State} (port : Nat) (value : W64) (s : State) (h : Keeps m a s)
    (hm : Sub 0x100002200 m) : KN m a (execDataPortCtxWrite port value s) :=
  kn_lift h hm (by
    have h : Keeps 0x100002200 s s := keeps_refl _ _
    unfold execDataPortCtxWrite
    repeat' first
      | intro _ | with_reducible assumption | with_reducible exact rfl | exact rfl | exact Or.inl rfl | with_reducible exact Or.inr rfl
      | exact Or.inr rfl | with_reducible apply kn_next | with_reducible apply dropHeld_keeps | with_reducible apply portEmpty_keeps
      | with_reducible apply setReg_keeps | with_reducible apply portMod_keeps | with_reducible apply keeps_ite | simp only [↓keepsMk_eq]
      | with_reducible apply keepsMk_intro | dsimp only | split)

/-- What `execDataPortCommit` keeps. -/
theorem execDataPortCommit_keeps {m : Nat} {a : State} (port : Nat) (value : W64) (s : State) (h : Keeps m a s)
    (hm : Sub 0x100002200 m) : KN m a (execDataPortCommit port value s) :=
  kn_lift h hm (by
    have h : Keeps 0x100002200 s s := keeps_refl _ _
    unfold execDataPortCommit
    repeat' first
      | intro _ | with_reducible assumption | with_reducible exact rfl | exact rfl | exact Or.inl rfl | with_reducible exact Or.inr rfl
      | exact Or.inr rfl | with_reducible apply kn_next | with_reducible apply dropHeld_keeps | with_reducible apply portEmpty_keeps
      | with_reducible apply setReg_keeps | with_reducible apply portMod_keeps | with_reducible apply keeps_ite | simp only [↓keepsMk_eq]
      | with_reducible apply keepsMk_intro | dsimp only | split)

/-- What `execMsixUnmask` keeps. -/
theorem execMsixUnmask_keeps {m : Nat} {a : State} (fn : Nat) (vec : Nat) (s : State) (h : Keeps m a s)
    (hm : Sub 0x20002200 m) : KN m a (execMsixUnmask fn vec s) :=
  kn_lift h hm (by
    have h : Keeps 0x20002200 s s := keeps_refl _ _
    unfold execMsixUnmask
    repeat' first
      | intro _ | with_reducible assumption | with_reducible exact rfl | exact rfl | exact Or.inl rfl | with_reducible exact Or.inr rfl
      | exact Or.inr rfl | with_reducible apply kn_next | with_reducible apply vectorMod_keeps | with_reducible apply sendVec_keeps
      | with_reducible apply keeps_ite | simp only [↓keepsMk_eq] | with_reducible apply keepsMk_intro | dsimp only | split)

end Sys2Proof.Laws
end

