-- ==== Sys2Proof/Laws/KeepsWqm.lean ====
section
/-! SUPPORT. Every definition of Machine/Wqm.lean keeps what `Keeps` says. -/
namespace Sys2Proof.Laws
open Sys2Proof.Machine Sys2Proof.Safety

/-- What `queueMod` keeps. -/
theorem queueMod_keeps {m : Nat} {a : State} (s : State) (q : Nat) (f : QueueC → QueueC) (h : Keeps m a s)
    (hm : Sub 0x40000 m) : Keeps m a (queueMod s q f) :=
  keeps_lift h hm (by
    have h : Keeps 0x40000 s s := keeps_refl _ _
    unfold queueMod
    repeat' first
      | intro _ | with_reducible assumption | with_reducible exact rfl | exact rfl | exact Or.inl rfl | with_reducible exact Or.inr rfl
      | exact Or.inr rfl | simp only [↓keepsMk_eq] | with_reducible apply keepsMk_intro | dsimp only | split)

/-- What `entryMod` keeps. -/
theorem entryMod_keeps {m : Nat} {a : State} (s : State) (q : Nat) (idx : Nat) (f : Entry → Entry) (h : Keeps m a s)
    (hm : Sub 0x40000 m) : Keeps m a (entryMod s q idx f) :=
  keeps_lift h hm (by
    have h : Keeps 0x40000 s s := keeps_refl _ _
    unfold entryMod
    repeat' first
      | intro _ | with_reducible assumption | with_reducible exact rfl | exact rfl | exact Or.inl rfl | with_reducible exact Or.inr rfl
      | exact Or.inr rfl | with_reducible apply queueMod_keeps | simp only [↓keepsMk_eq] | with_reducible apply keepsMk_intro
      | dsimp only | split)

/-- What `queueEvent` keeps. -/
theorem queueEvent_keeps {m : Nat} {a : State} (s : State) (q : Nat) (status : Nat) (h : Keeps m a s)
    (hm : Sub 0x8002000e200 m) : Keeps m a (queueEvent s q status) :=
  keeps_lift h hm (by
    have h : Keeps 0x8002000e200 s s := keeps_refl _ _
    unfold queueEvent
    repeat' first
      | intro _ | with_reducible assumption | with_reducible exact rfl | exact rfl | with_reducible apply accessEvent_keeps | dsimp only)

/-- What `entryDone` keeps. -/
theorem entryDone_keeps {m : Nat} {a : State} (s : State) (q : Nat) (idx : Nat) (st : Nat) (len : Nat) (frag : Nat) (h : Keeps m a s)
    (hm : Sub 0x200040000 m) : Keeps m a (entryDone s q idx st len frag) :=
  keeps_lift h hm (by
    have h : Keeps 0x200040000 s s := keeps_refl _ _
    unfold entryDone
    repeat' first
      | intro _ | with_reducible assumption | with_reducible exact rfl | exact rfl | exact Or.inl rfl | with_reducible exact Or.inr rfl
      | exact Or.inr rfl | with_reducible apply entryMod_keeps | with_reducible apply bump_keeps | with_reducible apply keeps_ite
      | simp only [↓keepsMk_eq] | with_reducible apply keepsMk_intro | dsimp only | split)

/-- What `finishAll` keeps. -/
theorem finishAll_keeps {m : Nat} {a : State} (s : State) (l : List (Nat × Nat)) (h : Keeps m a s)
    (hm : Sub 0x200040000 m) : Keeps m a (finishAll s l) :=
  keeps_lift h hm (by
    have h : Keeps 0x200040000 s s := keeps_refl _ _
    unfold finishAll
    repeat' first
      | intro _ | with_reducible assumption | with_reducible exact rfl | exact rfl | with_reducible apply entryDone_keeps
      | with_reducible apply keeps_foldl | dsimp only | split)

/-- What `accessEnd` keeps. -/
theorem accessEnd_keeps {m : Nat} {a : State} (s : State) (i : Nat) (h : Keeps m a s)
    (hm : Sub 0x200060000 m) : Keeps m a (accessEnd s i) :=
  keeps_lift h hm (by
    have h : Keeps 0x200060000 s s := keeps_refl _ _
    unfold accessEnd
    repeat' first
      | intro _ | with_reducible assumption | with_reducible exact rfl | exact rfl | exact Or.inl rfl | with_reducible exact Or.inr rfl
      | exact Or.inr rfl | with_reducible apply regionMod_keeps | with_reducible apply finishAll_keeps | with_reducible apply keeps_ite
      | simp only [↓keepsMk_eq] | with_reducible apply keepsMk_intro | dsimp only | split)

/-- What `releaseHeldRegions` keeps. -/
theorem releaseHeldRegions_keeps {m : Nat} {a : State} (s : State) (l : List Nat) (h : Keeps m a s)
    (hm : Sub 0x200060000 m) : Keeps m a (releaseHeldRegions s l) :=
  keeps_lift h hm (by
    have h : Keeps 0x200060000 s s := keeps_refl _ _
    unfold releaseHeldRegions
    repeat' first
      | intro _ | with_reducible assumption | with_reducible exact rfl | exact rfl | with_reducible apply accessEnd_keeps
      | with_reducible apply keeps_foldl | dsimp only)

/-- What `flushEntries` keeps. -/
theorem flushEntries_keeps {m : Nat} {a : State} (s : State) (q : Nat) (h : Keeps m a s)
    (hm : Sub 0x40000 m) : Keeps m a (flushEntries s q) :=
  keeps_lift h hm (by
    have h : Keeps 0x40000 s s := keeps_refl _ _
    unfold flushEntries
    repeat' first
      | intro _ | with_reducible assumption | with_reducible exact rfl | exact rfl | exact Or.inl rfl | with_reducible exact Or.inr rfl
      | exact Or.inr rfl | with_reducible apply queueMod_keeps | simp only [↓keepsMk_eq] | with_reducible apply keepsMk_intro
      | dsimp only | split)

/-- What `queueError` keeps. -/
theorem queueError_keeps {m : Nat} {a : State} (s : State) (q : Nat) (status : Nat) (h : Keeps m a s)
    (hm : Sub 0x8002004e200 m) : Keeps m a (queueError s q status) :=
  keeps_lift h hm (by
    have h : Keeps 0x8002004e200 s s := keeps_refl _ _
    unfold queueError
    repeat' first
      | intro _ | with_reducible assumption | with_reducible exact rfl | exact rfl | exact Or.inl rfl | with_reducible exact Or.inr rfl
      | exact Or.inr rfl | with_reducible apply flushEntries_keeps | with_reducible apply queueEvent_keeps
      | with_reducible apply queueMod_keeps | with_reducible apply keeps_ite | simp only [↓keepsMk_eq]
      | with_reducible apply keepsMk_intro | dsimp only | split)

/-- What `settle` keeps. -/
theorem settle_keeps {m : Nat} {a : State} (s : State) (q : Nat) (h : Keeps m a s)
    (hm : Sub 0x40000 m) : Keeps m a (settle s q) :=
  keeps_lift h hm (by
    have h : Keeps 0x40000 s s := keeps_refl _ _
    unfold settle
    repeat' first
      | intro _ | with_reducible assumption | with_reducible exact rfl | exact rfl | exact Or.inl rfl | with_reducible exact Or.inr rfl
      | exact Or.inr rfl | with_reducible apply queueMod_keeps | with_reducible apply keeps_ite | simp only [↓keepsMk_eq]
      | with_reducible apply keepsMk_intro | dsimp only | split)

/-- What `ringRead` keeps. -/
theorem ringRead_keeps {m : Nat} {a : State} (s : State) (q : Nat) (i : Nat) (n : Nat) (h : Keeps m a s)
    (hm : Sub 0x10c042006e200 m) : Keeps m a (ringRead s q i n) :=
  keeps_lift h hm (by
    have h : Keeps 0x10c042006e200 s s := keeps_refl _ _
    unfold ringRead
    repeat' first
      | intro _ | with_reducible assumption | with_reducible exact rfl | exact rfl | exact Or.inl rfl | with_reducible exact Or.inr rfl
      | exact Or.inr rfl | with_reducible apply queueMod_keeps | with_reducible apply issueRead_keeps | with_reducible apply stall_keeps
      | with_reducible apply queueError_keeps | simp only [↓keepsMk_eq] | with_reducible apply keepsMk_intro | dsimp only | split
      | refine kq_get ?_ (by with_reducible assumption) | refine kq_get1 ?_ (by with_reducible assumption))

/-- What `fetchLoop` keeps. -/
theorem fetchLoop_keeps0 {a : State} (s : State) (q : Nat) (x1 : Nat) (h : Keeps 0x10c062006e200 a s) :
    Keeps 0x10c062006e200 a (fetchLoop s q x1) := by
  induction x1 generalizing s q with
  | zero =>
    unfold fetchLoop
    repeat' first
      | intro _ | with_reducible assumption | with_reducible exact rfl | exact rfl | exact Or.inl rfl | with_reducible exact Or.inr rfl
      | exact Or.inr rfl | with_reducible apply ko_map | with_reducible apply ko_bind | with_reducible apply keeps_getD
      | with_reducible apply queueMod_keeps | with_reducible apply ringRead_keeps | with_reducible apply bump_keeps
      | with_reducible apply keeps_ite | simp only [↓keepsMk_eq] | with_reducible apply keepsMk_intro | dsimp only | split
      | cases ‹_ + 1 = _ + 1›
  | succ _ ih =>
    unfold fetchLoop
    repeat' first
      | intro _ | with_reducible assumption | with_reducible exact rfl | exact rfl | exact Or.inl rfl | with_reducible exact Or.inr rfl
      | exact Or.inr rfl | with_reducible apply ih | with_reducible apply ko_map | with_reducible apply ko_bind
      | with_reducible apply keeps_getD | with_reducible apply queueMod_keeps | with_reducible apply ringRead_keeps
      | with_reducible apply bump_keeps | with_reducible apply keeps_ite | simp only [↓keepsMk_eq] | with_reducible apply keepsMk_intro
      | dsimp only | split | cases ‹_ + 1 = _ + 1›

/-- The same within a greater set. -/
theorem fetchLoop_keeps {m : Nat} {a : State} (s : State) (q : Nat) (x1 : Nat) (h : Keeps m a s)
    (hm : Sub 0x10c062006e200 m) : Keeps m a (fetchLoop s q x1) :=
  keeps_lift h hm (fetchLoop_keeps0 s q x1 (keeps_refl _ _))

/-- What `fetchRound` keeps. -/
theorem fetchRound_keeps {m : Nat} {a : State} (s : State) (q : Nat) (h : Keeps m a s)
    (hm : Sub 0x10c062006e200 m) : Keeps m a (fetchRound s q) :=
  keeps_lift h hm (by
    have h : Keeps 0x10c062006e200 s s := keeps_refl _ _
    unfold fetchRound
    repeat' first
      | intro _ | with_reducible assumption | with_reducible exact rfl | exact rfl | with_reducible apply fetchLoop_keeps | dsimp only)

/-- What `preRanges` keeps. -/
theorem preRanges_keeps0 {a : State} (s : State) (t : Nat) (c : Nat) (x1 : List (Nat × Nat × Use)) (h : Keeps 0x10c042002e200 a s) :
    Keeps 0x10c042002e200 a (preRanges s t c x1).1 := by
  induction x1 generalizing s t c with
  | nil =>
    unfold preRanges
    repeat' first
      | intro _ | with_reducible assumption | with_reducible exact rfl | exact rfl | with_reducible apply ko_map
      | with_reducible apply ko_bind | with_reducible apply keeps_getD | with_reducible apply dmaXlate_keeps
      | with_reducible apply stall_keeps | with_reducible apply keeps_ite | dsimp only | split | cases ‹_ :: _ = _ :: _›
      | refine kq_get ?_ (by with_reducible assumption) | refine kq_get1 ?_ (by with_reducible assumption)
  | cons _ _ ih =>
    unfold preRanges
    repeat' first
      | intro _ | with_reducible assumption | with_reducible exact rfl | exact rfl | with_reducible apply ih
      | with_reducible apply ko_map | with_reducible apply ko_bind | with_reducible apply keeps_getD
      | with_reducible apply dmaXlate_keeps | with_reducible apply stall_keeps | with_reducible apply keeps_ite | dsimp only | split
      | cases ‹_ :: _ = _ :: _› | refine kq_get ?_ (by with_reducible assumption) | refine kq_get1 ?_ (by with_reducible assumption)

/-- The same within a greater set. -/
theorem preRanges_keeps {m : Nat} {a : State} (s : State) (t : Nat) (c : Nat) (x1 : List (Nat × Nat × Use)) (h : Keeps m a s)
    (hm : Sub 0x10c042002e200 m) : Keeps m a (preRanges s t c x1).1 :=
  keeps_lift h hm (preRanges_keeps0 s t c x1 (keeps_refl _ _))

/-- What `preTranslate` keeps. -/
theorem preTranslate_keeps {m : Nat} {a : State} (s : State) (q : Nat) (e : Entry) (h : Keeps m a s)
    (hm : Sub 0x10c042002e200 m) : Keeps m a (preTranslate s q e).1 :=
  keeps_lift h hm (by
    have h : Keeps 0x10c042002e200 s s := keeps_refl _ _
    unfold preTranslate
    repeat' first
      | intro _ | with_reducible assumption | with_reducible exact rfl | exact rfl | exact Or.inl rfl | with_reducible exact Or.inr rfl
      | exact Or.inr rfl | with_reducible apply preRanges_keeps | with_reducible apply keeps_ite | simp only [↓keepsMk_eq]
      | with_reducible apply keepsMk_intro | dsimp only | split | refine kq_get ?_ (by with_reducible assumption)
      | refine kq_get1 ?_ (by with_reducible assumption))

/-- What `addWork` keeps. -/
theorem addWork_keeps {m : Nat} {a : State} (s : State) (q : Nat) (e : Entry) (h : Keeps m a s)
    (hm : Sub 0x40000 m) : Keeps m a (addWork s q e) :=
  keeps_lift h hm (by
    have h : Keeps 0x40000 s s := keeps_refl _ _
    unfold addWork
    repeat' first
      | intro _ | with_reducible assumption | with_reducible exact rfl | exact rfl | exact Or.inl rfl | with_reducible exact Or.inr rfl
      | exact Or.inr rfl | with_reducible apply queueMod_keeps | simp only [↓keepsMk_eq] | with_reducible apply keepsMk_intro
      | dsimp only | split)

/-- What `takeDoorbell` keeps. -/
theorem takeDoorbell_keeps {m : Nat} {a : State} (s : State) (q : Nat) (h : Keeps m a s)
    (hm : Sub 0x10c062006e200 m) : Keeps m a (takeDoorbell s q) :=
  keeps_lift h hm (by
    have h : Keeps 0x10c062006e200 s s := keeps_refl _ _
    unfold takeDoorbell
    repeat' first
      | intro _ | with_reducible assumption | with_reducible exact rfl | exact rfl | exact Or.inl rfl | with_reducible exact Or.inr rfl
      | exact Or.inr rfl | with_reducible apply queueMod_keeps | with_reducible apply queueEvent_keeps | with_reducible apply bump_keeps
      | with_reducible apply addWork_keeps | with_reducible apply fetchRound_keeps | with_reducible apply ringRead_keeps
      | with_reducible apply keeps_ite | simp only [↓keepsMk_eq] | with_reducible apply keepsMk_intro | with_reducible apply keeps_foldl
      | dsimp only | split)

/-- What `takeThrough` keeps. -/
theorem takeThrough_keeps0 {a : State} (s : State) (q : Nat) (x1 : Nat) (h : Keeps 0x10c062006e200 a s) :
    Keeps 0x10c062006e200 a (takeThrough s q x1) := by
  induction x1 generalizing s q with
  | zero =>
    unfold takeThrough
    repeat' first
      | intro _ | with_reducible assumption | with_reducible exact rfl | exact rfl | with_reducible apply ko_map
      | with_reducible apply ko_bind | with_reducible apply keeps_getD | with_reducible apply takeDoorbell_keeps
      | with_reducible apply keeps_ite | dsimp only | split | cases ‹_ + 1 = _ + 1›
  | succ _ ih =>
    unfold takeThrough
    repeat' first
      | intro _ | with_reducible assumption | with_reducible exact rfl | exact rfl | with_reducible apply ih
      | with_reducible apply ko_map | with_reducible apply ko_bind | with_reducible apply keeps_getD
      | with_reducible apply takeDoorbell_keeps | with_reducible apply keeps_ite | dsimp only | split | cases ‹_ + 1 = _ + 1›

/-- The same within a greater set. -/
theorem takeThrough_keeps {m : Nat} {a : State} (s : State) (q : Nat) (x1 : Nat) (h : Keeps m a s)
    (hm : Sub 0x10c062006e200 m) : Keeps m a (takeThrough s q x1) :=
  keeps_lift h hm (takeThrough_keeps0 s q x1 (keeps_refl _ _))

/-- What `claimInline` keeps. -/
theorem claimInline_keeps {m : Nat} {a : State} (s : State) (q : Nat) (slot : List Byte) (h : Keeps m a s)
    (hm : Sub 0x10c062006e200 m) : Keeps m a (claimInline s q slot) :=
  keeps_lift h hm (by
    have h : Keeps 0x10c062006e200 s s := keeps_refl _ _
    unfold claimInline
    repeat' first
      | intro _ | with_reducible assumption | with_reducible exact rfl | exact rfl | exact Or.inl rfl | with_reducible exact Or.inr rfl
      | exact Or.inr rfl | with_reducible apply bump_keeps | with_reducible apply queueMod_keeps
      | with_reducible apply preTranslate_keeps | with_reducible apply addWork_keeps | with_reducible apply keeps_ite
      | simp only [↓keepsMk_eq] | with_reducible apply keepsMk_intro | dsimp only | split
      | refine kq_get ?_ (by with_reducible assumption) | refine kq_get1 ?_ (by with_reducible assumption))

/-- What `acceptInline` keeps. -/
theorem acceptInline_keeps {m : Nat} {a : State} (s : State) (q : Nat) (h : Keeps m a s)
    (hm : Sub 0x10c062006e200 m) : Keeps m a (acceptInline s q) :=
  keeps_lift h hm (by
    have h : Keeps 0x10c062006e200 s s := keeps_refl _ _
    unfold acceptInline
    repeat' first
      | intro _ | with_reducible assumption | with_reducible exact rfl | exact rfl | exact Or.inl rfl | with_reducible exact Or.inr rfl
      | exact Or.inr rfl | with_reducible apply takeThrough_keeps | with_reducible apply queueMod_keeps
      | with_reducible apply flushEntries_keeps | with_reducible apply claimInline_keeps | with_reducible apply keeps_ite
      | simp only [↓keepsMk_eq] | with_reducible apply keepsMk_intro | dsimp only | split)

/-- What `acceptAll` keeps. -/
theorem acceptAll_keeps {m : Nat} {a : State} (s : State) (fn : Nat) (h : Keeps m a s)
    (hm : Sub 0x10c062006e200 m) : Keeps m a (acceptAll s fn) :=
  keeps_lift h hm (by
    have h : Keeps 0x10c062006e200 s s := keeps_refl _ _
    unfold acceptAll
    repeat' first
      | intro _ | with_reducible assumption | with_reducible exact rfl | exact rfl | with_reducible apply acceptInline_keeps
      | with_reducible apply keeps_foldl | dsimp only | split)

/-- What `execDoorbell` keeps. -/
theorem execDoorbell_keeps {m : Nat} {a : State} (fn : Nat) (q : Nat) (off : Nat) (len : Nat) (value : W64) (s : State) (h : Keeps m a s)
    (hm : Sub 0x100042000 m) : KN m a (execDoorbell fn q off len value s) :=
  kn_lift h hm (by
    have h : Keeps 0x100042000 s s := keeps_refl _ _
    unfold execDoorbell
    repeat' first
      | intro _ | with_reducible assumption | with_reducible exact rfl | exact rfl | exact Or.inl rfl | with_reducible exact Or.inr rfl
      | exact Or.inr rfl | with_reducible apply kn_next | with_reducible apply bumpFn_keeps | with_reducible apply queueMod_keeps
      | with_reducible apply keeps_ite | simp only [↓keepsMk_eq] | with_reducible apply keepsMk_intro | dsimp only | split)

/-- What `execInlineSlotWrite` keeps. -/
theorem execInlineSlotWrite_keeps {m : Nat} {a : State} (fn : Nat) (q : Nat) (off : Nat) (bytes : List Byte) (s : State) (h : Keeps m a s)
    (hm : Sub 0x10c072006e200 m) : KN m a (execInlineSlotWrite fn q off bytes s) :=
  kn_lift h hm (by
    have h : Keeps 0x10c072006e200 s s := keeps_refl _ _
    unfold execInlineSlotWrite
    repeat' first
      | intro _ | with_reducible assumption | with_reducible exact rfl | exact rfl | exact Or.inl rfl | with_reducible exact Or.inr rfl
      | exact Or.inr rfl | with_reducible apply kn_next | with_reducible apply bumpFn_keeps | with_reducible apply acceptInline_keeps
      | with_reducible apply queueMod_keeps | with_reducible apply keeps_ite | simp only [↓keepsMk_eq]
      | with_reducible apply keepsMk_intro | dsimp only | split)

/-- What `execInlineWaitRelease` keeps. -/
theorem execInlineWaitRelease_keeps {m : Nat} {a : State} (q : Nat) (s : State) (h : Keeps m a s)
    (hm : Sub 0x10c062006e200 m) : KN m a (execInlineWaitRelease q s) :=
  kn_lift h hm (by
    have h : Keeps 0x10c062006e200 s s := keeps_refl _ _
    unfold execInlineWaitRelease
    repeat' first
      | intro _ | with_reducible assumption | with_reducible exact rfl | exact rfl | exact Or.inl rfl | with_reducible exact Or.inr rfl
      | exact Or.inr rfl | with_reducible apply kn_next | with_reducible apply acceptInline_keeps
      | with_reducible apply claimInline_keeps | with_reducible apply queueMod_keeps | with_reducible apply keeps_ite
      | simp only [↓keepsMk_eq] | with_reducible apply keepsMk_intro | dsimp only | split)

/-- What `execWqmDoorbellTake` keeps. -/
theorem execWqmDoorbellTake_keeps {m : Nat} {a : State} (q : Nat) (s : State) (h : Keeps m a s)
    (hm : Sub 0x10c062006e200 m) : KN m a (execWqmDoorbellTake q s) :=
  kn_lift h hm (by
    have h : Keeps 0x10c062006e200 s s := keeps_refl _ _
    unfold execWqmDoorbellTake
    repeat' first
      | intro _ | with_reducible assumption | with_reducible exact rfl | exact rfl | with_reducible apply kn_next
      | with_reducible apply takeDoorbell_keeps | with_reducible apply keeps_ite | dsimp only | split)

/-- What `cutTail` keeps. -/
theorem cutTail_keeps {m : Nat} {a : State} (s : State) (q : Nat) (i : Nat) (h : Keeps m a s)
    (hm : Sub 0x40000 m) : Keeps m a (cutTail s q i) :=
  keeps_lift h hm (by
    have h : Keeps 0x40000 s s := keeps_refl _ _
    unfold cutTail
    repeat' first
      | intro _ | with_reducible assumption | with_reducible exact rfl | exact rfl | exact Or.inl rfl | with_reducible exact Or.inr rfl
      | exact Or.inr rfl | with_reducible apply settle_keeps | with_reducible apply queueMod_keeps | simp only [↓keepsMk_eq]
      | with_reducible apply keepsMk_intro | dsimp only | split)

/-- What `unowned` keeps. -/
theorem unowned_keeps {m : Nat} {a : State} (s : State) (q : Nat) (i : Nat) (h : Keeps m a s)
    (hm : Sub 0x200040000 m) : Keeps m a (unowned s q i) :=
  keeps_lift h hm (by
    have h : Keeps 0x200040000 s s := keeps_refl _ _
    unfold unowned
    repeat' first
      | intro _ | with_reducible assumption | with_reducible exact rfl | exact rfl | exact Or.inl rfl | with_reducible exact Or.inr rfl
      | exact Or.inr rfl | with_reducible apply bump_keeps | with_reducible apply queueMod_keeps | with_reducible apply cutTail_keeps
      | with_reducible apply keeps_ite | simp only [↓keepsMk_eq] | with_reducible apply keepsMk_intro | dsimp only | split)

/-- What `takeFetched` keeps. -/
theorem takeFetched_keeps {m : Nat} {a : State} (s : State) (q : Nat) (claimed : List Nat) (i : Nat) (b : List Byte) (h : Keeps m a s)
    (hm : Sub 0x10c062006e200 m) : Keeps m a (takeFetched s q claimed i b) :=
  keeps_lift h hm (by
    have h : Keeps 0x10c062006e200 s s := keeps_refl _ _
    unfold takeFetched
    repeat' first
      | intro _ | with_reducible assumption | with_reducible exact rfl | exact rfl | exact Or.inl rfl | with_reducible exact Or.inr rfl
      | exact Or.inr rfl | with_reducible apply bump_keeps | with_reducible apply preTranslate_keeps | with_reducible apply addWork_keeps
      | with_reducible apply queueMod_keeps | with_reducible apply unowned_keeps | with_reducible apply keeps_ite
      | simp only [↓keepsMk_eq] | with_reducible apply keepsMk_intro | dsimp only | split
      | refine kq_get ?_ (by with_reducible assumption) | refine kq_get1 ?_ (by with_reducible assumption))

/-- What `takeAll` keeps. -/
theorem takeAll_keeps0 {a : State} (s : State) (q : Nat) (claimed : List Nat) (i : Nat) (b : List Byte) (x1 : Nat) (h : Keeps 0x10c062006e200 a s) :
    Keeps 0x10c062006e200 a (takeAll s q claimed i b x1) := by
  induction x1 generalizing s q claimed i b with
  | zero =>
    unfold takeAll
    repeat' first
      | intro _ | with_reducible assumption | with_reducible exact rfl | exact rfl | with_reducible apply ko_map
      | with_reducible apply ko_bind | with_reducible apply keeps_getD | with_reducible apply takeFetched_keeps | dsimp only
      | cases ‹_ + 1 = _ + 1›
  | succ _ ih =>
    unfold takeAll
    repeat' first
      | intro _ | with_reducible assumption | with_reducible exact rfl | exact rfl | with_reducible apply ih
      | with_reducible apply ko_map | with_reducible apply ko_bind | with_reducible apply keeps_getD
      | with_reducible apply takeFetched_keeps | dsimp only | cases ‹_ + 1 = _ + 1›

/-- The same within a greater set. -/
theorem takeAll_keeps {m : Nat} {a : State} (s : State) (q : Nat) (claimed : List Nat) (i : Nat) (b : List Byte) (x1 : Nat) (h : Keeps m a s)
    (hm : Sub 0x10c062006e200 m) : Keeps m a (takeAll s q claimed i b x1) :=
  keeps_lift h hm (takeAll_keeps0 s q claimed i b x1 (keeps_refl _ _))

/-- What `execRingReadComplete` keeps. -/
theorem execRingReadComplete_keeps {m : Nat} {a : State} (q : Nat) (idx : Nat) (bus : Option (List Byte)) (s : State) (h : Keeps m a s)
    (hm : Sub 0x10c062006e200 m) : KN m a (execRingReadComplete q idx bus s) :=
  kn_lift h hm (by
    have h : Keeps 0x10c062006e200 s s := keeps_refl _ _
    unfold execRingReadComplete
    repeat' first
      | intro _ | with_reducible assumption | with_reducible exact rfl | exact rfl | exact Or.inl rfl | with_reducible exact Or.inr rfl
      | exact Or.inr rfl | with_reducible apply kn_next | with_reducible apply finishRead_keeps | with_reducible apply queueMod_keeps
      | with_reducible apply settle_keeps | with_reducible apply queueError_keeps | with_reducible apply fetchRound_keeps
      | with_reducible apply takeAll_keeps | with_reducible apply keeps_ite | simp only [↓keepsMk_eq]
      | with_reducible apply keepsMk_intro | dsimp only | split | refine kq_get ?_ (by with_reducible assumption)
      | refine kq_get1 ?_ (by with_reducible assumption))

/-- What `execRefetchTimer` keeps. -/
theorem execRefetchTimer_keeps {m : Nat} {a : State} (q : Nat) (idx : Nat) (s : State) (h : Keeps m a s)
    (hm : Sub 0x10c042006e200 m) : KN m a (execRefetchTimer q idx s) :=
  kn_lift h hm (by
    have h : Keeps 0x10c042006e200 s s := keeps_refl _ _
    unfold execRefetchTimer
    repeat' first
      | intro _ | with_reducible assumption | with_reducible exact rfl | exact rfl | with_reducible apply kn_next
      | with_reducible apply ringRead_keeps | with_reducible apply keeps_ite | dsimp only | split)

/-- What `headWrite` keeps. -/
theorem headWrite_keeps {m : Nat} {a : State} (s : State) (q : Nat) (h : Keeps m a s)
    (hm : Sub 0x10c042206e200 m) : Keeps m a (headWrite s q) :=
  keeps_lift h hm (by
    have h : Keeps 0x10c042206e200 s s := keeps_refl _ _
    unfold headWrite
    repeat' first
      | intro _ | with_reducible assumption | with_reducible exact rfl | exact rfl | exact Or.inl rfl | with_reducible exact Or.inr rfl
      | exact Or.inr rfl | with_reducible apply dmaWrite_keeps | with_reducible apply stall_keeps | with_reducible apply queueError_keeps
      | with_reducible apply portsEmpty_keeps | with_reducible apply queueMod_keeps | with_reducible apply ordered_keeps
      | with_reducible apply keeps_ite | simp only [↓keepsMk_eq] | with_reducible apply keepsMk_intro | dsimp only | split
      | refine kq_get ?_ (by with_reducible assumption) | refine kq_get1 ?_ (by with_reducible assumption))

/-- What `afterFinish` keeps. -/
theorem afterFinish_keeps {m : Nat} {a : State} (s : State) (q : Nat) (h : Keeps m a s)
    (hm : Sub 0x10c062206e200 m) : Keeps m a (afterFinish s q) :=
  keeps_lift h hm (by
    have h : Keeps 0x10c062206e200 s s := keeps_refl _ _
    unfold afterFinish
    repeat' first
      | intro _ | with_reducible assumption | with_reducible exact rfl | exact rfl | with_reducible apply queueMod_keeps
      | with_reducible apply settle_keeps | with_reducible apply fetchRound_keeps | with_reducible apply headWrite_keeps | dsimp only
      | split)

/-- What `writeBack` keeps. -/
theorem writeBack_keeps0 {a : State} (s : State) (q : Nat) (e : Entry) (x1 : List (Nat × List Byte)) (h : Keeps 0x10c042202e200 a s) :
    Keeps 0x10c042202e200 a (writeBack s q e x1).1 := by
  induction x1 generalizing s q e with
  | nil =>
    unfold writeBack
    repeat' first
      | intro _ | with_reducible assumption | with_reducible exact rfl | exact rfl | with_reducible apply ko_map
      | with_reducible apply ko_bind | with_reducible apply keeps_getD | with_reducible apply dmaWrite_keeps | dsimp only | split
      | cases ‹_ :: _ = _ :: _› | refine kq_get ?_ (by with_reducible assumption) | refine kq_get1 ?_ (by with_reducible assumption)
  | cons _ _ ih =>
    unfold writeBack
    repeat' first
      | intro _ | with_reducible assumption | with_reducible exact rfl | exact rfl | with_reducible apply ih
      | with_reducible apply ko_map | with_reducible apply ko_bind | with_reducible apply keeps_getD
      | with_reducible apply dmaWrite_keeps | dsimp only | split | cases ‹_ :: _ = _ :: _›
      | refine kq_get ?_ (by with_reducible assumption) | refine kq_get1 ?_ (by with_reducible assumption)

/-- The same within a greater set. -/
theorem writeBack_keeps {m : Nat} {a : State} (s : State) (q : Nat) (e : Entry) (x1 : List (Nat × List Byte)) (h : Keeps m a s)
    (hm : Sub 0x10c042202e200 m) : Keeps m a (writeBack s q e x1).1 :=
  keeps_lift h hm (writeBack_keeps0 s q e x1 (keeps_refl _ _))

/-- What `finishEntry` keeps. -/
theorem finishEntry_keeps {m : Nat} {a : State} (s : State) (q : Nat) (e : Entry) (h : Keeps m a s)
    (hm : Sub 0x10c062206e200 m) : Keeps m a (finishEntry s q e) :=
  keeps_lift h hm (by
    have h : Keeps 0x10c062206e200 s s := keeps_refl _ _
    unfold finishEntry
    repeat' first
      | intro _ | with_reducible assumption | with_reducible exact rfl | exact rfl | exact Or.inl rfl | with_reducible exact Or.inr rfl
      | exact Or.inr rfl | with_reducible apply writeBack_keeps | with_reducible apply stall_keeps | with_reducible apply settle_keeps
      | with_reducible apply queueError_keeps | with_reducible apply releaseHeldRegions_keeps | with_reducible apply entryMod_keeps
      | with_reducible apply afterFinish_keeps | with_reducible apply queueMod_keeps | simp only [↓keepsMk_eq]
      | with_reducible apply keepsMk_intro | dsimp only | split | refine kq_get ?_ (by with_reducible assumption)
      | refine kq_get1 ?_ (by with_reducible assumption))

/-- What `flushReads` keeps. -/
theorem flushReads_keeps {m : Nat} {a : State} (s : State) (t : Nat) (tag : BusTag) (l : List (Nat × Nat)) (h : Keeps m a s)
    (hm : Sub 0x20000000 m) : Keeps m a (flushReads s t tag l) :=
  keeps_lift h hm (by
    have h : Keeps 0x20000000 s s := keeps_refl _ _
    unfold flushReads
    repeat' first
      | intro _ | with_reducible assumption | with_reducible exact rfl | exact rfl | exact Or.inl rfl | with_reducible exact Or.inr rfl
      | exact Or.inr rfl | with_reducible apply emit_keeps | simp only [↓keepsMk_eq] | with_reducible apply keepsMk_intro
      | with_reducible apply keeps_foldl | dsimp only | split)

/-- What `entryFinish` keeps. -/
theorem entryFinish_keeps {m : Nat} {a : State} (s : State) (q : Nat) (idx : Nat) (h : Keeps m a s)
    (hm : Sub 0x10c062206e200 m) : Keeps m a (entryFinish s q idx) :=
  keeps_lift h hm (by
    have h : Keeps 0x10c062206e200 s s := keeps_refl _ _
    unfold entryFinish
    repeat' first
      | intro _ | with_reducible assumption | with_reducible exact rfl | exact rfl | exact Or.inl rfl | with_reducible exact Or.inr rfl
      | exact Or.inr rfl | with_reducible apply flushReads_keeps | with_reducible apply entryMod_keeps
      | with_reducible apply finishEntry_keeps | with_reducible apply keeps_ite | simp only [↓keepsMk_eq]
      | with_reducible apply keepsMk_intro | dsimp only | split)

/-- What `execEntryFinish` keeps. -/
theorem execEntryFinish_keeps {m : Nat} {a : State} (q : Nat) (idx : Nat) (s : State) (h : Keeps m a s)
    (hm : Sub 0x10c062206e200 m) : KN m a (execEntryFinish q idx s) :=
  kn_lift h hm (by
    have h : Keeps 0x10c062206e200 s s := keeps_refl _ _
    unfold execEntryFinish
    repeat' first
      | intro _ | with_reducible assumption | with_reducible exact rfl | exact rfl | with_reducible apply kn_next
      | with_reducible apply entryFinish_keeps | dsimp only)

/-- What `entryFlushed` keeps. -/
theorem entryFlushed_keeps {m : Nat} {a : State} (s : State) (q : Nat) (idx : Nat) (ok : Bool) (h : Keeps m a s)
    (hm : Sub 0x10c062206e200 m) : Keeps m a (entryFlushed s q idx ok) :=
  keeps_lift h hm (by
    have h : Keeps 0x10c062206e200 s s := keeps_refl _ _
    unfold entryFlushed
    repeat' first
      | intro _ | with_reducible assumption | with_reducible exact rfl | exact rfl | exact Or.inl rfl | with_reducible exact Or.inr rfl
      | exact Or.inr rfl | with_reducible apply entryMod_keeps | with_reducible apply entryFinish_keeps | with_reducible apply keeps_ite
      | simp only [↓keepsMk_eq] | with_reducible apply keepsMk_intro | dsimp only | split)

/-- What `announce` keeps. -/
theorem announce_keeps {m : Nat} {a : State} (s : State) (q : Nat) (h : Keeps m a s)
    (hm : Sub 0x20042200 m) : Keeps m a (announce s q) :=
  keeps_lift h hm (by
    have h : Keeps 0x20042200 s s := keeps_refl _ _
    unfold announce
    repeat' first
      | intro _ | with_reducible assumption | with_reducible exact rfl | exact rfl | exact Or.inl rfl | with_reducible exact Or.inr rfl
      | exact Or.inr rfl | with_reducible apply queueMod_keeps | with_reducible apply sendVec_keeps | simp only [↓keepsMk_eq]
      | with_reducible apply keepsMk_intro | dsimp only | split)

/-- What `queueIrq` keeps. -/
theorem queueIrq_keeps {m : Nat} {a : State} (s : State) (q : Nat) (h : Keeps m a s)
    (hm : Sub 0x20042200 m) : Keeps m a (queueIrq s q) :=
  keeps_lift h hm (by
    have h : Keeps 0x20042200 s s := keeps_refl _ _
    unfold queueIrq
    repeat' first
      | intro _ | with_reducible assumption | with_reducible exact rfl | exact rfl | with_reducible apply announce_keeps
      | with_reducible apply keeps_ite | dsimp only | split)

/-- What `execHeadWriteComplete` keeps. -/
theorem execHeadWriteComplete_keeps {m : Nat} {a : State} (q : Nat) (s : State) (h : Keeps m a s)
    (hm : Sub 0x10c042206e200 m) : KN m a (execHeadWriteComplete q s) :=
  kn_lift h hm (by
    have h : Keeps 0x10c042206e200 s s := keeps_refl _ _
    unfold execHeadWriteComplete
    repeat' first
      | intro _ | with_reducible assumption | with_reducible exact rfl | exact rfl | exact Or.inl rfl | with_reducible exact Or.inr rfl
      | exact Or.inr rfl | with_reducible apply kn_next | with_reducible apply queueMod_keeps | with_reducible apply settle_keeps
      | with_reducible apply headWrite_keeps | with_reducible apply queueIrq_keeps | with_reducible apply keeps_ite
      | simp only [↓keepsMk_eq] | with_reducible apply keepsMk_intro | dsimp only | split)

/-- What `execQueueIrqTimer` keeps. -/
theorem execQueueIrqTimer_keeps {m : Nat} {a : State} (q : Nat) (s : State) (h : Keeps m a s)
    (hm : Sub 0x20042200 m) : KN m a (execQueueIrqTimer q s) :=
  kn_lift h hm (by
    have h : Keeps 0x20042200 s s := keeps_refl _ _
    unfold execQueueIrqTimer
    repeat' first
      | intro _ | with_reducible assumption | with_reducible exact rfl | exact rfl | with_reducible apply kn_next
      | with_reducible apply announce_keeps | with_reducible apply keeps_ite | dsimp only | split)

/-- What `enableQueue` keeps. -/
theorem enableQueue_keeps {m : Nat} {a : State} (s : State) (fn : Nat) (q : Nat) (h : Keeps m a s)
    (hm : Sub 0x60000 m) : Keeps m a (enableQueue s fn q) :=
  keeps_lift h hm (by
    have h : Keeps 0x60000 s s := keeps_refl _ _
    unfold enableQueue
    repeat' first
      | intro _ | with_reducible assumption | with_reducible exact rfl | exact rfl | exact Or.inl rfl | with_reducible exact Or.inr rfl
      | exact Or.inr rfl | with_reducible apply queueMod_keeps | with_reducible apply endTransfers_keeps | with_reducible apply keeps_ite
      | simp only [↓keepsMk_eq] | with_reducible apply keepsMk_intro | dsimp only | split)

/-- What `disableQueue` keeps. -/
theorem disableQueue_keeps {m : Nat} {a : State} (s : State) (q : Nat) (h : Keeps m a s)
    (hm : Sub 0x10c062006e200 m) : Keeps m a (disableQueue s q) :=
  keeps_lift h hm (by
    have h : Keeps 0x10c062006e200 s s := keeps_refl _ _
    unfold disableQueue
    repeat' first
      | intro _ | with_reducible assumption | with_reducible exact rfl | exact rfl | exact Or.inl rfl | with_reducible exact Or.inr rfl
      | exact Or.inr rfl | with_reducible apply queueMod_keeps | with_reducible apply takeThrough_keeps
      | with_reducible apply cutTail_keeps | with_reducible apply settle_keeps | with_reducible apply keeps_ite | simp only [↓keepsMk_eq]
      | with_reducible apply keepsMk_intro | dsimp only | split)

/-- What `qctlWrite` keeps. -/
theorem qctlWrite_keeps {m : Nat} {a : State} (s : State) (fn : Nat) (value : W64) (h : Keeps m a s)
    (hm : Sub 0x10c062006e200 m) : Keeps m a (qctlWrite s fn value) :=
  keeps_lift h hm (by
    have h : Keeps 0x10c062006e200 s s := keeps_refl _ _
    unfold qctlWrite
    repeat' first
      | intro _ | with_reducible assumption | with_reducible exact rfl | exact rfl | exact Or.inl rfl | with_reducible exact Or.inr rfl
      | exact Or.inr rfl | with_reducible apply fnMod_keeps | with_reducible apply queueMod_keeps
      | with_reducible apply enableQueue_keeps | with_reducible apply disableQueue_keeps | with_reducible apply settle_keeps
      | with_reducible apply flushEntries_keeps | with_reducible apply keeps_ite | simp only [↓keepsMk_eq]
      | with_reducible apply keepsMk_intro | dsimp only | split)

/-- What `queueConfigWrite` keeps. -/
theorem queueConfigWrite_keeps {m : Nat} {a : State} (s : State) (fn : Nat) (off : Nat) (value : W64) (h : Keeps m a s)
    (hm : Sub 0x40000 m) : Keeps m a (queueConfigWrite s fn off value) :=
  keeps_lift h hm (by
    have h : Keeps 0x40000 s s := keeps_refl _ _
    unfold queueConfigWrite
    repeat' first
      | intro _ | with_reducible assumption | with_reducible exact rfl | exact rfl | exact Or.inl rfl | with_reducible exact Or.inr rfl
      | exact Or.inr rfl | with_reducible apply queueMod_keeps | with_reducible apply keeps_ite | simp only [↓keepsMk_eq]
      | with_reducible apply keepsMk_intro | dsimp only | split)

/-- What `execQueueSelect` keeps. -/
theorem execQueueSelect_keeps {m : Nat} {a : State} (fn : Nat) (value : W64) (s : State) (h : Keeps m a s)
    (hm : Sub 0x200000200 m) : KN m a (execQueueSelect fn value s) :=
  kn_lift h hm (by
    have h : Keeps 0x200000200 s s := keeps_refl _ _
    unfold execQueueSelect
    repeat' first
      | intro _ | with_reducible assumption | with_reducible exact rfl | exact rfl | exact Or.inl rfl | with_reducible exact Or.inr rfl
      | exact Or.inr rfl | with_reducible apply kn_next | with_reducible apply dropHeld_keeps | with_reducible apply setReg_keeps
      | with_reducible apply fnMod_keeps | with_reducible apply keeps_ite | simp only [↓keepsMk_eq] | with_reducible apply keepsMk_intro
      | dsimp only | split)

/-- What `execQueueEnable` keeps. -/
theorem execQueueEnable_keeps {m : Nat} {a : State} (fn : Nat) (value : W64) (s : State) (h : Keeps m a s)
    (hm : Sub 0x10c062006e200 m) : KN m a (execQueueEnable fn value s) :=
  kn_lift h hm (by
    have h : Keeps 0x10c062006e200 s s := keeps_refl _ _
    unfold execQueueEnable
    repeat' first
      | intro _ | with_reducible assumption | with_reducible exact rfl | exact rfl | exact Or.inl rfl | with_reducible exact Or.inr rfl
      | exact Or.inr rfl | with_reducible apply kn_next | with_reducible apply dropHeld_keeps | with_reducible apply qctlWrite_keeps
      | with_reducible apply keeps_ite | simp only [↓keepsMk_eq] | with_reducible apply keepsMk_intro | dsimp only | split)

/-- What `execQueueDisable` keeps. -/
theorem execQueueDisable_keeps {m : Nat} {a : State} (fn : Nat) (value : W64) (s : State) (h : Keeps m a s)
    (hm : Sub 0x10c062006e200 m) : KN m a (execQueueDisable fn value s) :=
  kn_lift h hm (by
    have h : Keeps 0x10c062006e200 s s := keeps_refl _ _
    unfold execQueueDisable
    repeat' first
      | intro _ | with_reducible assumption | with_reducible exact rfl | exact rfl | exact Or.inl rfl | with_reducible exact Or.inr rfl
      | exact Or.inr rfl | with_reducible apply kn_next | with_reducible apply dropHeld_keeps | with_reducible apply qctlWrite_keeps
      | with_reducible apply keeps_ite | simp only [↓keepsMk_eq] | with_reducible apply keepsMk_intro | dsimp only | split)

/-- What `execQueueFlush` keeps. -/
theorem execQueueFlush_keeps {m : Nat} {a : State} (fn : Nat) (value : W64) (s : State) (h : Keeps m a s)
    (hm : Sub 0x10c062006e200 m) : KN m a (execQueueFlush fn value s) :=
  kn_lift h hm (by
    have h : Keeps 0x10c062006e200 s s := keeps_refl _ _
    unfold execQueueFlush
    repeat' first
      | intro _ | with_reducible assumption | with_reducible exact rfl | exact rfl | exact Or.inl rfl | with_reducible exact Or.inr rfl
      | exact Or.inr rfl | with_reducible apply kn_next | with_reducible apply dropHeld_keeps | with_reducible apply qctlWrite_keeps
      | with_reducible apply keeps_ite | simp only [↓keepsMk_eq] | with_reducible apply keepsMk_intro | dsimp only | split)

/-- What `execQueueConfigWrite` keeps. -/
theorem execQueueConfigWrite_keeps {m : Nat} {a : State} (fn : Nat) (off : Nat) (value : W64) (s : State) (h : Keeps m a s)
    (hm : Sub 0x10c062006e200 m) : KN m a (execQueueConfigWrite fn off value s) :=
  kn_lift h hm (by
    have h : Keeps 0x10c062006e200 s s := keeps_refl _ _
    unfold execQueueConfigWrite
    repeat' first
      | intro _ | with_reducible assumption | with_reducible exact rfl | exact rfl | with_reducible apply kn_next
      | with_reducible apply dropHeld_keeps | with_reducible apply qctlWrite_keeps | with_reducible apply queueConfigWrite_keeps
      | with_reducible apply keeps_ite | dsimp only | split)

/-- What `execAbiAgree` keeps. -/
theorem execAbiAgree_keeps {m : Nat} {a : State} (fn : Nat) (version : Nat) (s : State) (h : Keeps m a s)
    (hm : Sub 0x200 m) : KN m a (execAbiAgree fn version s) :=
  kn_lift h hm (by
    have h : Keeps 0x200 s s := keeps_refl _ _
    unfold execAbiAgree
    repeat' first
      | intro _ | with_reducible assumption | with_reducible exact rfl | exact rfl | exact Or.inl rfl | with_reducible exact Or.inr rfl
      | exact Or.inr rfl | with_reducible apply kn_next | with_reducible apply dropHeld_keeps | with_reducible apply fnMod_keeps
      | with_reducible apply keeps_ite | simp only [↓keepsMk_eq] | with_reducible apply keepsMk_intro | dsimp only | split)

end Sys2Proof.Laws
end

