-- ==== Sys2Proof/Laws/KeepsContext.lean ====
section
/-! SUPPORT. Every definition of Machine/Context.lean keeps what `Keeps` says. -/
namespace Sys2Proof.Laws
open Sys2Proof.Machine Sys2Proof.Safety

/-- What `rootWrite` keeps. -/
theorem rootWrite_keeps {m : Nat} {a : State} (s : State) (c : Nat) (value : W64) (h : Keeps m a s)
    (hm : Sub 0x20000 m) : Keeps m a (rootWrite s c value) :=
  keeps_lift h hm (by
    have h : Keeps 0x20000 s s := keeps_refl _ _
    unfold rootWrite
    repeat' first
      | intro _ | with_reducible assumption | with_reducible exact rfl | exact rfl | exact Or.inl rfl | with_reducible exact Or.inr rfl
      | exact Or.inr rfl | with_reducible apply ctxMod_keeps | with_reducible apply keeps_ite | simp only [↓keepsMk_eq]
      | with_reducible apply keepsMk_intro | dsimp only | split)

/-- What `clearValid` keeps. -/
theorem clearValid_keeps {m : Nat} {a : State} (s : State) (c : Nat) (h : Keeps m a s)
    (hm : Sub 0x20000 m) : Keeps m a (clearValid s c) :=
  keeps_lift h hm (by
    have h : Keeps 0x20000 s s := keeps_refl _ _
    unfold clearValid
    repeat' first
      | intro _ | with_reducible assumption | with_reducible exact rfl | exact rfl | exact Or.inl rfl | with_reducible exact Or.inr rfl
      | exact Or.inr rfl | with_reducible apply ctxMod_keeps | with_reducible apply advanceEpoch_keeps | with_reducible apply purge_keeps
      | with_reducible apply keeps_ite | simp only [↓keepsMk_eq] | with_reducible apply keepsMk_intro | dsimp only | split)

/-- What `cctlWrite` keeps. -/
theorem cctlWrite_keeps {m : Nat} {a : State} (s : State) (fn : Nat) (c : Nat) (value : W64) (h : Keeps m a s)
    (hm : Sub 0x20000 m) : Keeps m a (cctlWrite s fn c value) :=
  keeps_lift h hm (by
    have h : Keeps 0x20000 s s := keeps_refl _ _
    unfold cctlWrite
    repeat' first
      | intro _ | with_reducible assumption | with_reducible exact rfl | exact rfl | exact Or.inl rfl | with_reducible exact Or.inr rfl
      | exact Or.inr rfl | with_reducible apply ctxMod_keeps | with_reducible apply clearValid_keeps | with_reducible apply keeps_ite
      | simp only [↓keepsMk_eq] | with_reducible apply keepsMk_intro | dsimp only | split)

/-- What `onCtx` keeps. -/
theorem onCtx_keeps {m : Nat} {a : State} (s : State) (fn : Nat) {f : Nat → State} (h : Keeps m a s) (g : ∀ c, Keeps m a (f c))
    (hm : Sub 0x200 m) : KN m a (onCtx s fn f) := by
  have e : ∀ t, Keeps m a t → Keeps m a (dropHeld t fn) := fun _ k => keeps_lift k hm (dropHeld_keeps _ _ (keeps_refl _ _) rfl)
  unfold onCtx
  split
  · exact kn_next h
  · split
    · exact kn_next (e _ h)
    · exact kn_next (e _ (g _))

/-- What `execContextRootWrite` keeps. -/
theorem execContextRootWrite_keeps {m : Nat} {a : State} (fn : Nat) (value : W64) (s : State) (h : Keeps m a s)
    (hm : Sub 0x20200 m) : KN m a (execContextRootWrite fn value s) :=
  kn_lift h hm (by
    have h : Keeps 0x20200 s s := keeps_refl _ _
    unfold execContextRootWrite
    repeat' first
      | intro _ | with_reducible assumption | with_reducible exact rfl | exact rfl | with_reducible apply kn_next
      | with_reducible apply onCtx_keeps | with_reducible apply rootWrite_keeps | dsimp only | split
      | refine kn_get ?_ (by with_reducible assumption))

/-- What `execContextValidSet` keeps. -/
theorem execContextValidSet_keeps {m : Nat} {a : State} (fn : Nat) (value : W64) (s : State) (h : Keeps m a s)
    (hm : Sub 0x20200 m) : KN m a (execContextValidSet fn value s) :=
  kn_lift h hm (by
    have h : Keeps 0x20200 s s := keeps_refl _ _
    unfold execContextValidSet
    repeat' first
      | intro _ | with_reducible assumption | with_reducible exact rfl | exact rfl | exact Or.inl rfl | with_reducible exact Or.inr rfl
      | exact Or.inr rfl | with_reducible apply kn_next | with_reducible apply onCtx_keeps | with_reducible apply cctlWrite_keeps
      | with_reducible apply keeps_ite | simp only [↓keepsMk_eq] | with_reducible apply keepsMk_intro | dsimp only | split
      | refine kn_get ?_ (by with_reducible assumption))

/-- What `execContextValidClear` keeps. -/
theorem execContextValidClear_keeps {m : Nat} {a : State} (fn : Nat) (value : W64) (s : State) (h : Keeps m a s)
    (hm : Sub 0x20200 m) : KN m a (execContextValidClear fn value s) :=
  kn_lift h hm (by
    have h : Keeps 0x20200 s s := keeps_refl _ _
    unfold execContextValidClear
    repeat' first
      | intro _ | with_reducible assumption | with_reducible exact rfl | exact rfl | exact Or.inl rfl | with_reducible exact Or.inr rfl
      | exact Or.inr rfl | with_reducible apply kn_next | with_reducible apply onCtx_keeps | with_reducible apply cctlWrite_keeps
      | with_reducible apply keeps_ite | simp only [↓keepsMk_eq] | with_reducible apply keepsMk_intro | dsimp only | split
      | refine kn_get ?_ (by with_reducible assumption))

/-- What `execFabricEnWrite` keeps. -/
theorem execFabricEnWrite_keeps {m : Nat} {a : State} (fn : Nat) (value : W64) (s : State) (h : Keeps m a s)
    (hm : Sub 0x20200 m) : KN m a (execFabricEnWrite fn value s) :=
  kn_lift h hm (by
    have h : Keeps 0x20200 s s := keeps_refl _ _
    unfold execFabricEnWrite
    repeat' first
      | intro _ | with_reducible assumption | with_reducible exact rfl | exact rfl | with_reducible apply kn_next
      | with_reducible apply onCtx_keeps | with_reducible apply cctlWrite_keeps | with_reducible apply keeps_ite | dsimp only | split
      | refine kn_get ?_ (by with_reducible assumption))

/-- What `walkWord` keeps. -/
theorem walkWord_keeps {m : Nat} {a : State} (s : State) (c : Nat) (addr : Nat) (word : Option W64) (h : Keeps m a s)
    (hm : Sub 0x20000 m) : Keeps m a (walkWord s c addr word) :=
  keeps_lift h hm (by
    have h : Keeps 0x20000 s s := keeps_refl _ _
    unfold walkWord
    repeat' first
      | intro _ | with_reducible assumption | with_reducible exact rfl | exact rfl | exact Or.inl rfl | with_reducible exact Or.inr rfl
      | exact Or.inr rfl | with_reducible apply keeps_ite | simp only [↓keepsMk_eq] | with_reducible apply keepsMk_intro | dsimp only
      | split)

/-- What `execTableWalkComplete` keeps. -/
theorem execTableWalkComplete_keeps {m : Nat} {a : State} (c : Nat) (addr : Nat) (word : Option W64) (s : State) (h : Keeps m a s)
    (hm : Sub 0x20000 m) : KN m a (execTableWalkComplete c addr word s) :=
  kn_lift h hm (by
    have h : Keeps 0x20000 s s := keeps_refl _ _
    unfold execTableWalkComplete
    repeat' first
      | intro _ | with_reducible assumption | with_reducible exact rfl | exact rfl | with_reducible apply kn_next
      | with_reducible apply walkWord_keeps | dsimp only)

end Sys2Proof.Laws
end

