-- ==== Sys2Proof/Laws/KeepsMirror.lean ====
section
/-! SUPPORT. Every definition of Machine/Mirror.lean keeps what `Keeps` says. -/
namespace Sys2Proof.Laws
open Sys2Proof.Machine Sys2Proof.Safety

/-- What `acceptMirror` keeps. -/
theorem acceptMirror_keeps {m : Nat} {a : State} (s : State) (n : Nat) (h : Keeps m a s)
    (hm : Sub 0x80000 m) : Keeps m a (acceptMirror s n).1 :=
  keeps_lift h hm (by
    have h : Keeps 0x80000 s s := keeps_refl _ _
    unfold acceptMirror
    repeat' first
      | intro _ | with_reducible assumption | with_reducible exact rfl | exact rfl | exact Or.inl rfl | with_reducible exact Or.inr rfl
      | exact Or.inr rfl | with_reducible apply keeps_ite | simp only [↓keepsMk_eq] | with_reducible apply keepsMk_intro | dsimp only
      | split)

/-- What `currentMirror` keeps. -/
theorem currentMirror_keeps {m : Nat} {a : State} (s : State) (n : Nat) (h : Keeps m a s)
    (hm : Sub 0x80000 m) : Keeps m a (currentMirror s n).1 :=
  keeps_lift h hm (by
    have h : Keeps 0x80000 s s := keeps_refl _ _
    unfold currentMirror
    repeat' first
      | intro _ | with_reducible assumption | with_reducible exact rfl | exact rfl | with_reducible apply acceptMirror_keeps | dsimp only
      | split | refine kq_get ?_ (by with_reducible assumption) | refine kq_get1 ?_ (by with_reducible assumption))

/-- What `twinWrite` keeps. -/
theorem twinWrite_keeps {m : Nat} {a : State} (s : State) (off : Nat) (b : List Byte) (h : Keeps m a s)
    (hm : Sub 0x10c042202e200 m) : Keeps m a (twinWrite s off b) :=
  keeps_lift h hm (by
    have h : Keeps 0x10c042202e200 s s := keeps_refl _ _
    unfold twinWrite
    repeat' first
      | intro _ | with_reducible assumption | with_reducible exact rfl | exact rfl | with_reducible apply dmaWrite_keeps
      | with_reducible apply keeps_ite | dsimp only | split | refine kq_get ?_ (by with_reducible assumption)
      | refine kq_get1 ?_ (by with_reducible assumption))

/-- What `putMirror` keeps. -/
theorem putMirror_keeps {μ : Nat} {a : State} (s : State) (n : Nat) (m : Mirror) (h : Keeps μ a s)
    (hm : Sub 0x10c04220ae200 μ) : Keeps μ a (putMirror s n m) :=
  keeps_lift h hm (by
    have h : Keeps 0x10c04220ae200 s s := keeps_refl _ _
    unfold putMirror
    repeat' first
      | intro _ | with_reducible assumption | with_reducible exact rfl | exact rfl | exact Or.inl rfl | with_reducible exact Or.inr rfl
      | exact Or.inr rfl | with_reducible apply twinWrite_keeps | simp only [↓keepsMk_eq] | with_reducible apply keepsMk_intro
      | dsimp only | split)

/-- What `markMirror` keeps. -/
theorem markMirror_keeps {m : Nat} {a : State} (s : State) (c : Nat) (mark : Nat) (h : Keeps m a s)
    (hm : Sub 0x10c04220ae200 m) : Keeps m a (markMirror s c mark) :=
  keeps_lift h hm (by
    have h : Keeps 0x10c04220ae200 s s := keeps_refl _ _
    unfold markMirror
    repeat' first
      | intro _ | with_reducible assumption | with_reducible exact rfl | exact rfl | exact Or.inl rfl | with_reducible exact Or.inr rfl
      | exact Or.inr rfl | with_reducible apply putMirror_keeps | simp only [↓keepsMk_eq] | with_reducible apply keepsMk_intro
      | dsimp only)

/-- What `seeHeartbeat` keeps. -/
theorem seeHeartbeat_keeps {m : Nat} {a : State} (s : State) (h : Keeps m a s)
    (hm : Sub 0x80000 m) : Keeps m a (seeHeartbeat s) :=
  keeps_lift h hm (by
    have h : Keeps 0x80000 s s := keeps_refl _ _
    unfold seeHeartbeat
    repeat' first
      | intro _ | with_reducible assumption | with_reducible exact rfl | exact rfl | exact Or.inl rfl | with_reducible exact Or.inr rfl
      | exact Or.inr rfl | with_reducible apply acceptMirror_keeps | with_reducible apply keeps_ite | simp only [↓keepsMk_eq]
      | with_reducible apply keepsMk_intro | dsimp only | split | refine kq_get ?_ (by with_reducible assumption)
      | refine kq_get1 ?_ (by with_reducible assumption))

/-- What `execMirrorWriteTimer` keeps. -/
theorem execMirrorWriteTimer_keeps {m : Nat} {a : State} (s : State) (h : Keeps m a s)
    (hm : Sub 0x10c0c220ae200 m) : KN m a (execMirrorWriteTimer s) :=
  kn_lift h hm (by
    have h : Keeps 0x10c0c220ae200 s s := keeps_refl _ _
    unfold execMirrorWriteTimer
    repeat' first
      | intro _ | with_reducible assumption | with_reducible exact rfl | exact rfl | exact Or.inl rfl | with_reducible exact Or.inr rfl
      | exact Or.inr rfl | with_reducible apply kn_next | with_reducible apply putMirror_keeps | with_reducible apply bumpFn_keeps
      | with_reducible apply seeHeartbeat_keeps | with_reducible apply keeps_ite | with_reducible apply keeps_foldl | dsimp only | split)

end Sys2Proof.Laws
end

