-- ==== Sys2Proof/Laws/KeepsTpeConn.lean ====
section
/-! SUPPORT. Every definition of Machine/TpeConn.lean keeps what `Keeps` says. -/
namespace Sys2Proof.Laws
open Sys2Proof.Machine Sys2Proof.Safety

/-- What `dropStages` keeps. -/
theorem dropStages_keeps {m : Nat} {a : State} (s : State) (c : Nat) (resp : Bool) (p : Nat → Bool) (h : Keeps m a s)
    (hm : Sub 0x2000000 m) : Keeps m a (dropStages s c resp p) :=
  keeps_lift h hm (by
    have h : Keeps 0x2000000 s s := keeps_refl _ _
    unfold dropStages
    repeat' first
      | intro _ | with_reducible assumption | with_reducible exact rfl | exact rfl | exact Or.inl rfl | with_reducible exact Or.inr rfl
      | exact Or.inr rfl | simp only [↓keepsMk_eq] | with_reducible apply keepsMk_intro | dsimp only | split)

/-- What `finishRecvEntry` keeps. -/
theorem finishRecvEntry_keeps {μ : Nat} {a : State} (s : State) (c : Nat) (m : RecvMsg) (h : Keeps μ a s)
    (hm : Sub 0x200040000 μ) : Keeps μ a (finishRecvEntry s c m) :=
  keeps_lift h hm (by
    have h : Keeps 0x200040000 s s := keeps_refl _ _
    unfold finishRecvEntry
    repeat' first
      | intro _ | with_reducible assumption | with_reducible exact rfl | exact rfl | exact Or.inl rfl | with_reducible exact Or.inr rfl
      | exact Or.inr rfl | with_reducible apply entryDone_keeps | with_reducible apply entryMod_keeps | with_reducible apply keeps_ite
      | simp only [↓keepsMk_eq] | with_reducible apply keepsMk_intro | dsimp only | split)

/-- What `abandonRecv` keeps. -/
theorem abandonRecv_keeps {μ : Nat} {a : State} (s : State) (c : Nat) (status : Nat) (m : RecvMsg) (h : Keeps μ a s)
    (hm : Sub 0x2040e0000 μ) : Keeps μ a (abandonRecv s c status m) :=
  keeps_lift h hm (by
    have h : Keeps 0x2040e0000 s s := keeps_refl _ _
    unfold abandonRecv
    repeat' first
      | intro _ | with_reducible assumption | with_reducible exact rfl | exact rfl | exact Or.inl rfl | with_reducible exact Or.inr rfl
      | exact Or.inr rfl | with_reducible apply dropPlacements_keeps | with_reducible apply accessEnd_keeps
      | with_reducible apply finishRecvEntry_keeps | with_reducible apply keeps_ite | simp only [↓keepsMk_eq]
      | with_reducible apply keepsMk_intro | dsimp only | split)

/-- What `issuerDoneAt` keeps. -/
theorem issuerDoneAt_keeps {m : Nat} {a : State} (s : State) (i : Issuer) (status : Nat) (len : Nat) (frag : Nat) (h : Keeps m a s)
    (hm : Sub 0x200060000 m) : Keeps m a (issuerDoneAt s i status len frag) :=
  keeps_lift h hm (by
    have h : Keeps 0x200060000 s s := keeps_refl _ _
    unfold issuerDoneAt
    repeat' first
      | intro _ | with_reducible assumption | with_reducible exact rfl | exact rfl | exact Or.inl rfl | with_reducible exact Or.inr rfl
      | exact Or.inr rfl | with_reducible apply entryDone_keeps | simp only [↓keepsMk_eq] | with_reducible apply keepsMk_intro
      | dsimp only | split)

/-- What `issuerDone` keeps. -/
theorem issuerDone_keeps {m : Nat} {a : State} (s : State) (i : Issuer) (status : Nat) (len : Nat) (h : Keeps m a s)
    (hm : Sub 0x200060000 m) : Keeps m a (issuerDone s i status len) :=
  keeps_lift h hm (by
    have h : Keeps 0x200060000 s s := keeps_refl _ _
    unfold issuerDone
    repeat' first
      | intro _ | with_reducible assumption | with_reducible exact rfl | exact rfl | with_reducible apply issuerDoneAt_keeps | dsimp only)

/-- What `endSend` keeps. -/
theorem endSend_keeps {μ : Nat} {a : State} (s : State) (c : Nat) (m : SendMsg) (h : Keeps μ a s)
    (hm : Sub 0x4020000 μ) : Keeps μ a (endSend s c m) :=
  keeps_lift h hm (by
    have h : Keeps 0x4020000 s s := keeps_refl _ _
    unfold endSend
    repeat' first
      | intro _ | with_reducible assumption | with_reducible exact rfl | exact rfl | with_reducible apply dropPlacements_keeps
      | with_reducible apply endTransfers_keeps | dsimp only)

/-- What `leaveRegion` keeps. -/
theorem leaveRegion_keeps {μ : Nat} {a : State} (s : State) (m : SendMsg) (h : Keeps μ a s)
    (hm : Sub 0x200060000 μ) : Keeps μ a (leaveRegion s m) :=
  keeps_lift h hm (by
    have h : Keeps 0x200060000 s s := keeps_refl _ _
    unfold leaveRegion
    repeat' first
      | intro _ | with_reducible assumption | with_reducible exact rfl | exact rfl | with_reducible apply accessEnd_keeps | dsimp only
      | split)

/-- What `issuerStatus` keeps. -/
theorem issuerStatus_keeps {μ : Nat} {a : State} (s : State) (m : SendMsg) (status : Nat) (h : Keeps μ a s)
    (hm : Sub 0x200060000 μ) : Keeps μ a (issuerStatus s m status) :=
  keeps_lift h hm (by
    have h : Keeps 0x200060000 s s := keeps_refl _ _
    unfold issuerStatus
    repeat' first
      | intro _ | with_reducible assumption | with_reducible exact rfl | exact rfl | exact Or.inl rfl | with_reducible exact Or.inr rfl
      | exact Or.inr rfl | with_reducible apply issuerDone_keeps | with_reducible apply leaveRegion_keeps | simp only [↓keepsMk_eq]
      | with_reducible apply keepsMk_intro | dsimp only)

/-- What `dropSends` keeps. -/
theorem dropSends_keeps {m : Nat} {a : State} (s : State) (c : Nat) (h : Keeps m a s)
    (hm : Sub 0x2060e0000 m) : Keeps m a (dropSends s c) :=
  keeps_lift h hm (by
    have h : Keeps 0x2060e0000 s s := keeps_refl _ _
    unfold dropSends
    repeat' first
      | intro _ | with_reducible assumption | with_reducible exact rfl | exact rfl | exact Or.inl rfl | with_reducible exact Or.inr rfl
      | exact Or.inr rfl | with_reducible apply connMod_keeps | with_reducible apply dropStages_keeps
      | with_reducible apply leaveRegion_keeps | with_reducible apply endSend_keeps | simp only [↓keepsMk_eq]
      | with_reducible apply keepsMk_intro | with_reducible apply keeps_foldl | dsimp only | split)

/-- What `failSends` keeps. -/
theorem failSends_keeps {m : Nat} {a : State} (s : State) (c : Nat) (status : Nat) (h : Keeps m a s)
    (hm : Sub 0x2060e0000 m) : Keeps m a (failSends s c status) :=
  keeps_lift h hm (by
    have h : Keeps 0x2060e0000 s s := keeps_refl _ _
    unfold failSends
    repeat' first
      | intro _ | with_reducible assumption | with_reducible exact rfl | exact rfl | exact Or.inl rfl | with_reducible exact Or.inr rfl
      | exact Or.inr rfl | with_reducible apply issuerDone_keeps | with_reducible apply dropSends_keeps | simp only [↓keepsMk_eq]
      | with_reducible apply keepsMk_intro | with_reducible apply keeps_foldl | dsimp only | split)

/-- What `failRecvs` keeps. -/
theorem failRecvs_keeps {m : Nat} {a : State} (s : State) (c : Nat) (status : Nat) (h : Keeps m a s)
    (hm : Sub 0x2060e0000 m) : Keeps m a (failRecvs s c status) :=
  keeps_lift h hm (by
    have h : Keeps 0x2060e0000 s s := keeps_refl _ _
    unfold failRecvs
    repeat' first
      | intro _ | with_reducible assumption | with_reducible exact rfl | exact rfl | exact Or.inl rfl | with_reducible exact Or.inr rfl
      | exact Or.inr rfl | with_reducible apply connMod_keeps | with_reducible apply abandonRecv_keeps
      | with_reducible apply dropStages_keeps | simp only [↓keepsMk_eq] | with_reducible apply keepsMk_intro
      | with_reducible apply keeps_foldl | dsimp only | split)

/-- What `unpostedEnd` keeps. -/
theorem unpostedEnd_keeps {m : Nat} {a : State} (s : State) (c : Nat) (status : Nat) (h : Keeps m a s)
    (hm : Sub 0x200040000 m) : Keeps m a (unpostedEnd s c status) :=
  keeps_lift h hm (by
    have h : Keeps 0x200040000 s s := keeps_refl _ _
    unfold unpostedEnd
    repeat' first
      | intro _ | with_reducible assumption | with_reducible exact rfl | exact rfl | exact Or.inl rfl | with_reducible exact Or.inr rfl
      | exact Or.inr rfl | with_reducible apply entryDone_keeps | simp only [↓keepsMk_eq] | with_reducible apply keepsMk_intro
      | with_reducible apply keeps_foldl | dsimp only | split)

/-- What `boundQueuesError` keeps. -/
theorem boundQueuesError_keeps {m : Nat} {a : State} (s : State) (c : Nat) (status : Nat) (h : Keeps m a s)
    (hm : Sub 0x8002004e200 m) : Keeps m a (boundQueuesError s c status) :=
  keeps_lift h hm (by
    have h : Keeps 0x8002004e200 s s := keeps_refl _ _
    unfold boundQueuesError
    repeat' first
      | intro _ | with_reducible assumption | with_reducible exact rfl | exact rfl | with_reducible apply queueError_keeps
      | with_reducible apply keeps_ite | with_reducible apply keeps_foldl | dsimp only | split)

/-- What `qpEvent` keeps. -/
theorem qpEvent_keeps {m : Nat} {a : State} (s : State) (c : Nat) (status : Nat) (h : Keeps m a s)
    (hm : Sub 0x8002000e200 m) : Keeps m a (qpEvent s c status) :=
  keeps_lift h hm (by
    have h : Keeps 0x8002000e200 s s := keeps_refl _ _
    unfold qpEvent
    repeat' first
      | intro _ | with_reducible assumption | with_reducible exact rfl | exact rfl | with_reducible apply accessEvent_keeps | dsimp only)

/-- What `connError` keeps. -/
theorem connError_keeps {m : Nat} {a : State} (s : State) (c : Nat) (status : Nat) (h : Keeps m a s)
    (hm : Sub 0x802260ee200 m) : Keeps m a (connError s c status) :=
  keeps_lift h hm (by
    have h : Keeps 0x802260ee200 s s := keeps_refl _ _
    unfold connError
    repeat' first
      | intro _ | with_reducible assumption | with_reducible exact rfl | exact rfl | exact Or.inl rfl | with_reducible exact Or.inr rfl
      | exact Or.inr rfl | with_reducible apply connMod_keeps | with_reducible apply reclaimAll_keeps
      | with_reducible apply failRecvs_keeps | with_reducible apply failSends_keeps | with_reducible apply unpostedEnd_keeps
      | with_reducible apply boundQueuesError_keeps | with_reducible apply keeps_ite | simp only [↓keepsMk_eq]
      | with_reducible apply keepsMk_intro | dsimp only | split)

/-- What `connClear` keeps. -/
theorem connClear_keeps {m : Nat} {a : State} (s : State) (c : Nat) (h : Keeps m a s)
    (hm : Sub 0x2060e0000 m) : Keeps m a (connClear s c) :=
  keeps_lift h hm (by
    have h : Keeps 0x2060e0000 s s := keeps_refl _ _
    unfold connClear
    repeat' first
      | intro _ | with_reducible assumption | with_reducible exact rfl | exact rfl | with_reducible apply reclaimAll_keeps
      | with_reducible apply failRecvs_keeps | with_reducible apply failSends_keeps | with_reducible apply connMod_keeps | dsimp only
      | split)

/-- What `openingGrant` keeps. -/
theorem openingGrant_keeps {m : Nat} {a : State} (s : State) (c : Nat) (h : Keeps m a s)
    (hm : Sub 0x4080000 m) : Keeps m a (openingGrant s c).1 :=
  keeps_lift h hm (by
    have h : Keeps 0x4080000 s s := keeps_refl _ _
    unfold openingGrant
    repeat' first
      | intro _ | with_reducible assumption | with_reducible exact rfl | exact rfl | exact Or.inl rfl | with_reducible exact Or.inr rfl
      | exact Or.inr rfl | with_reducible apply connMod_keeps | with_reducible apply grantOut_keeps | with_reducible apply keeps_ite
      | simp only [↓keepsMk_eq] | with_reducible apply keepsMk_intro | dsimp only | split)

/-- What `sendConnect` keeps. -/
theorem sendConnect_keeps {m : Nat} {a : State} (s : State) (c : Nat) (kind : Nat) (status : Nat) (takeover : Bool) (h : Keeps m a s)
    (hm : Sub 0x10c46261ee204 m) : Keeps m a (sendConnect s c kind status takeover) :=
  keeps_lift h hm (by
    have h : Keeps 0x10c46261ee204 s s := keeps_refl _ _
    unfold sendConnect
    repeat' first
      | intro _ | with_reducible assumption | with_reducible exact rfl | exact rfl | exact Or.inl rfl | with_reducible exact Or.inr rfl
      | exact Or.inr rfl | with_reducible apply openingGrant_keeps | with_reducible apply sendClass0_keeps
      | with_reducible apply keeps_ite | simp only [↓keepsMk_eq] | with_reducible apply keepsMk_intro | dsimp only | split
      | refine kq_get ?_ (by with_reducible assumption) | refine kq_get1 ?_ (by with_reducible assumption))

/-- What `drawCsn` keeps. -/
theorem drawCsn_keeps {m : Nat} {a : State} (s : State) (c : Nat) (h : Keeps m a s)
    (hm : Sub 0x80004 m) : Keeps m a (drawCsn s c) :=
  keeps_lift h hm (by
    have h : Keeps 0x80004 s s := keeps_refl _ _
    unfold drawCsn
    repeat' first
      | intro _ | with_reducible assumption | with_reducible exact rfl | exact rfl | exact Or.inl rfl | with_reducible exact Or.inr rfl
      | exact Or.inr rfl | with_reducible apply draw_keeps | with_reducible apply connMod_keeps | with_reducible apply keeps_ite
      | simp only [↓keepsMk_eq] | with_reducible apply keepsMk_intro | dsimp only | split
      | refine kr_get ?_ (by with_reducible assumption))

/-- What `sendReq` keeps. -/
theorem sendReq_keeps {m : Nat} {a : State} (s : State) (c : Nat) (h : Keeps m a s)
    (hm : Sub 0x10c46261ee204 m) : Keeps m a (sendReq s c) :=
  keeps_lift h hm (by
    have h : Keeps 0x10c46261ee204 s s := keeps_refl _ _
    unfold sendReq
    repeat' first
      | intro _ | with_reducible assumption | with_reducible exact rfl | exact rfl | with_reducible apply drawCsn_keeps
      | with_reducible apply sendConnect_keeps | with_reducible apply keeps_ite | dsimp only | split)

/-- What `sendRej` keeps. -/
theorem sendRej_keeps {m : Nat} {a : State} (s : State) (k : Packet) (src : Nat) (dst : Nat) (status : Nat) (h : Keeps m a s)
    (hm : Sub 0x4024102200 m) : Keeps m a (sendRej s k src dst status) :=
  keeps_lift h hm (by
    have h : Keeps 0x4024102200 s s := keeps_refl _ _
    unfold sendRej
    repeat' first
      | intro _ | with_reducible assumption | with_reducible exact rfl | exact rfl | exact Or.inl rfl | with_reducible exact Or.inr rfl
      | exact Or.inr rfl | with_reducible apply sendClass0_keeps | simp only [↓keepsMk_eq] | with_reducible apply keepsMk_intro
      | dsimp only)

/-- What `deadDrop` keeps. -/
theorem deadDrop_keeps {m : Nat} {a : State} (s : State) (k : Packet) (h : Keeps m a s)
    (hm : Sub 0x800000000 m) : Keeps m a (deadDrop s k) :=
  keeps_lift h hm (by
    have h : Keeps 0x800000000 s s := keeps_refl _ _
    unfold deadDrop
    repeat' first
      | intro _ | with_reducible assumption | with_reducible exact rfl | exact rfl | exact Or.inl rfl | with_reducible exact Or.inr rfl
      | exact Or.inr rfl | with_reducible apply bumpFn_keeps | with_reducible apply keeps_ite | dsimp only | split)

/-- What `deadCell` keeps. -/
theorem deadCell_keeps {m : Nat} {a : State} (s : State) (k : Packet) (h : Keeps m a s)
    (hm : Sub 0x4824182200 m) : Keeps m a (deadCell s k) :=
  keeps_lift h hm (by
    have h : Keeps 0x4824182200 s s := keeps_refl _ _
    unfold deadCell
    repeat' first
      | intro _ | with_reducible assumption | with_reducible exact rfl | exact rfl | exact Or.inl rfl | with_reducible exact Or.inr rfl
      | exact Or.inr rfl | with_reducible apply deadDrop_keeps | with_reducible apply sendRej_keeps | with_reducible apply keeps_ite
      | simp only [↓keepsMk_eq] | with_reducible apply keepsMk_intro | dsimp only | split)

/-- What `qpConfigWrite` keeps. -/
theorem qpConfigWrite_keeps {m : Nat} {a : State} (s : State) (fn : Nat) (off : Nat) (value : W64) (h : Keeps m a s)
    (hm : Sub 0x80000 m) : Keeps m a (qpConfigWrite s fn off value) :=
  keeps_lift h hm (by
    have h : Keeps 0x80000 s s := keeps_refl _ _
    unfold qpConfigWrite
    repeat' first
      | intro _ | with_reducible assumption | with_reducible exact rfl | exact rfl | exact Or.inl rfl | with_reducible exact Or.inr rfl
      | exact Or.inr rfl | with_reducible apply connMod_keeps | with_reducible apply keeps_ite | simp only [↓keepsMk_eq]
      | with_reducible apply keepsMk_intro | dsimp only | split)

/-- What `qpConnect` keeps. -/
theorem qpConnect_keeps {m : Nat} {a : State} (s : State) (q : Nat) (h : Keeps m a s)
    (hm : Sub 0x10c46261ee204 m) : Keeps m a (qpConnect s q) :=
  keeps_lift h hm (by
    have h : Keeps 0x10c46261ee204 s s := keeps_refl _ _
    unfold qpConnect
    repeat' first
      | intro _ | with_reducible assumption | with_reducible exact rfl | exact rfl | exact Or.inl rfl | with_reducible exact Or.inr rfl
      | exact Or.inr rfl | with_reducible apply qpEvent_keeps | with_reducible apply connError_keeps | with_reducible apply connMod_keeps
      | with_reducible apply sendReq_keeps | with_reducible apply keeps_ite | simp only [↓keepsMk_eq]
      | with_reducible apply keepsMk_intro | dsimp only | split)

/-- What `closeCheck` keeps. -/
theorem closeCheck_keeps {m : Nat} {a : State} (s : State) (c : Nat) (h : Keeps m a s)
    (hm : Sub 0x10c46261ee204 m) : Keeps m a (closeCheck s c) :=
  keeps_lift h hm (by
    have h : Keeps 0x10c46261ee204 s s := keeps_refl _ _
    unfold closeCheck
    repeat' first
      | intro _ | with_reducible assumption | with_reducible exact rfl | exact rfl | exact Or.inl rfl | with_reducible exact Or.inr rfl
      | exact Or.inr rfl | with_reducible apply sendConnect_keeps | with_reducible apply connMod_keeps | with_reducible apply keeps_ite
      | simp only [↓keepsMk_eq] | with_reducible apply keepsMk_intro | dsimp only | split)

/-- What `qpCtlWrite` keeps. -/
theorem qpCtlWrite_keeps {m : Nat} {a : State} (s : State) (fn : Nat) (value : W64) (h : Keeps m a s)
    (hm : Sub 0x10c46261ee204 m) : Keeps m a (qpCtlWrite s fn value) :=
  keeps_lift h hm (by
    have h : Keeps 0x10c46261ee204 s s := keeps_refl _ _
    unfold qpCtlWrite
    repeat' first
      | intro _ | with_reducible assumption | with_reducible exact rfl | exact rfl | exact Or.inl rfl | with_reducible exact Or.inr rfl
      | exact Or.inr rfl | with_reducible apply connMod_keeps | with_reducible apply qpConnect_keeps
      | with_reducible apply closeCheck_keeps | with_reducible apply connClear_keeps | with_reducible apply keeps_ite
      | simp only [↓keepsMk_eq] | with_reducible apply keepsMk_intro | dsimp only | split)

/-- What `execQpConfigWrite` keeps. -/
theorem execQpConfigWrite_keeps {m : Nat} {a : State} (fn : Nat) (off : Nat) (value : W64) (s : State) (h : Keeps m a s)
    (hm : Sub 0x80200 m) : KN m a (execQpConfigWrite fn off value s) :=
  kn_lift h hm (by
    have h : Keeps 0x80200 s s := keeps_refl _ _
    unfold execQpConfigWrite
    repeat' first
      | intro _ | with_reducible assumption | with_reducible exact rfl | exact rfl | with_reducible apply kn_next
      | with_reducible apply dropHeld_keeps | with_reducible apply qpConfigWrite_keeps | with_reducible apply keeps_ite | dsimp only
      | split)

/-- What `execQpConnect` keeps. -/
theorem execQpConnect_keeps {m : Nat} {a : State} (fn : Nat) (value : W64) (s : State) (h : Keeps m a s)
    (hm : Sub 0x10c46261ee204 m) : KN m a (execQpConnect fn value s) :=
  kn_lift h hm (by
    have h : Keeps 0x10c46261ee204 s s := keeps_refl _ _
    unfold execQpConnect
    repeat' first
      | intro _ | with_reducible assumption | with_reducible exact rfl | exact rfl | exact Or.inl rfl | with_reducible exact Or.inr rfl
      | exact Or.inr rfl | with_reducible apply kn_next | with_reducible apply dropHeld_keeps | with_reducible apply qpCtlWrite_keeps
      | with_reducible apply keeps_ite | simp only [↓keepsMk_eq] | with_reducible apply keepsMk_intro | dsimp only | split)

/-- What `execQpClose` keeps. -/
theorem execQpClose_keeps {m : Nat} {a : State} (fn : Nat) (value : W64) (s : State) (h : Keeps m a s)
    (hm : Sub 0x10c46261ee204 m) : KN m a (execQpClose fn value s) :=
  kn_lift h hm (by
    have h : Keeps 0x10c46261ee204 s s := keeps_refl _ _
    unfold execQpClose
    repeat' first
      | intro _ | with_reducible assumption | with_reducible exact rfl | exact rfl | exact Or.inl rfl | with_reducible exact Or.inr rfl
      | exact Or.inr rfl | with_reducible apply kn_next | with_reducible apply dropHeld_keeps | with_reducible apply qpCtlWrite_keeps
      | with_reducible apply keeps_ite | simp only [↓keepsMk_eq] | with_reducible apply keepsMk_intro | dsimp only | split)

/-- What `execQpReset` keeps. -/
theorem execQpReset_keeps {m : Nat} {a : State} (fn : Nat) (value : W64) (s : State) (h : Keeps m a s)
    (hm : Sub 0x10c46261ee204 m) : KN m a (execQpReset fn value s) :=
  kn_lift h hm (by
    have h : Keeps 0x10c46261ee204 s s := keeps_refl _ _
    unfold execQpReset
    repeat' first
      | intro _ | with_reducible assumption | with_reducible exact rfl | exact rfl | exact Or.inl rfl | with_reducible exact Or.inr rfl
      | exact Or.inr rfl | with_reducible apply kn_next | with_reducible apply dropHeld_keeps | with_reducible apply qpCtlWrite_keeps
      | with_reducible apply keeps_ite | simp only [↓keepsMk_eq] | with_reducible apply keepsMk_intro | dsimp only | split)

/-- What `execConnectRetryTimer` keeps. -/
theorem execConnectRetryTimer_keeps {m : Nat} {a : State} (c : Nat) (s : State) (h : Keeps m a s)
    (hm : Sub 0x10c46261ee204 m) : KN m a (execConnectRetryTimer c s) :=
  kn_lift h hm (by
    have h : Keeps 0x10c46261ee204 s s := keeps_refl _ _
    unfold execConnectRetryTimer
    repeat' first
      | intro _ | with_reducible assumption | with_reducible exact rfl | exact rfl | with_reducible apply kn_next
      | with_reducible apply sendReq_keeps | with_reducible apply keeps_ite | dsimp only | split)

/-- What `execConnectTimeout` keeps. -/
theorem execConnectTimeout_keeps {m : Nat} {a : State} (c : Nat) (s : State) (h : Keeps m a s)
    (hm : Sub 0x802260ee200 m) : KN m a (execConnectTimeout c s) :=
  kn_lift h hm (by
    have h : Keeps 0x802260ee200 s s := keeps_refl _ _
    unfold execConnectTimeout
    repeat' first
      | intro _ | with_reducible assumption | with_reducible exact rfl | exact rfl | with_reducible apply kn_next
      | with_reducible apply qpEvent_keeps | with_reducible apply connError_keeps | with_reducible apply keeps_ite | dsimp only | split)

/-- What `acceptPeer` keeps. -/
theorem acceptPeer_keeps {m : Nat} {a : State} (s : State) (c : Nat) (r : Connect) (ver : Nat) (h : Keeps m a s)
    (hm : Sub 0x5024182200 m) : Keeps m a (acceptPeer s c r ver) :=
  keeps_lift h hm (by
    have h : Keeps 0x5024182200 s s := keeps_refl _ _
    unfold acceptPeer
    repeat' first
      | intro _ | with_reducible assumption | with_reducible exact rfl | exact rfl | exact Or.inl rfl | with_reducible exact Or.inr rfl
      | exact Or.inr rfl | with_reducible apply connMod_keeps | with_reducible apply demandCheck_keeps
      | with_reducible apply takeOpening_keeps | with_reducible apply keeps_ite | simp only [↓keepsMk_eq]
      | with_reducible apply keepsMk_intro | dsimp only | split)

/-- What `openChannel` keeps. -/
theorem openChannel_keeps {m : Nat} {a : State} (s : State) (c : Nat) (t : Nat) (h : Keeps m a s)
    (hm : Sub 0xa060e0000 m) : Keeps m a (openChannel s c t).1 :=
  keeps_lift h hm (by
    have h : Keeps 0xa060e0000 s s := keeps_refl _ _
    unfold openChannel
    repeat' first
      | intro _ | with_reducible assumption | with_reducible exact rfl | exact rfl | exact Or.inl rfl | with_reducible exact Or.inr rfl
      | exact Or.inr rfl | with_reducible apply connMod_keeps | with_reducible apply connClear_keeps | with_reducible apply bumpFn_keeps
      | with_reducible apply keeps_ite | simp only [↓keepsMk_eq] | with_reducible apply keepsMk_intro | dsimp only | split)

/-- What `loadMirror` keeps. -/
theorem loadMirror_keeps {m : Nat} {a : State} (s : State) (c : Nat) (h : Keeps m a s)
    (hm : Sub 0x80000 m) : Keeps m a (loadMirror s c) :=
  keeps_lift h hm (by
    have h : Keeps 0x80000 s s := keeps_refl _ _
    unfold loadMirror
    repeat' first
      | intro _ | with_reducible assumption | with_reducible exact rfl | exact rfl | exact Or.inl rfl | with_reducible exact Or.inr rfl
      | exact Or.inr rfl | with_reducible apply currentMirror_keeps | with_reducible apply connMod_keeps | simp only [↓keepsMk_eq]
      | with_reducible apply keepsMk_intro | dsimp only | split | refine kq_get ?_ (by with_reducible assumption)
      | refine kq_get1 ?_ (by with_reducible assumption))

/-- What `connectReq` keeps. -/
theorem connectReq_keeps {m : Nat} {a : State} (s : State) (k : Packet) (h : Keeps m a s)
    (hm : Sub 0x10c5e261ee204 m) : Keeps m a (connectReq s k) :=
  keeps_lift h hm (by
    have h : Keeps 0x10c5e261ee204 s s := keeps_refl _ _
    unfold connectReq
    repeat' first
      | intro _ | with_reducible assumption | with_reducible exact rfl | exact rfl | exact Or.inl rfl | with_reducible exact Or.inr rfl
      | exact Or.inr rfl | with_reducible apply openChannel_keeps | with_reducible apply sendRej_keeps
      | with_reducible apply deadDrop_keeps | with_reducible apply loadMirror_keeps | with_reducible apply sendReq_keeps
      | with_reducible apply connMod_keeps | with_reducible apply drawCsn_keeps | with_reducible apply sendConnect_keeps
      | with_reducible apply acceptPeer_keeps | with_reducible apply keeps_ite | simp only [↓keepsMk_eq]
      | with_reducible apply keepsMk_intro | dsimp only | split | refine kq_get ?_ (by with_reducible assumption)
      | refine kq_get1 ?_ (by with_reducible assumption))

/-- What `execConnectReqReceive` keeps. -/
theorem execConnectReqReceive_keeps {m : Nat} {a : State} (k : Packet) (s : State) (h : Keeps m a s)
    (hm : Sub 0x10c5e261ee204 m) : KN m a (execConnectReqReceive k s) :=
  kn_lift h hm (by
    have h : Keeps 0x10c5e261ee204 s s := keeps_refl _ _
    unfold execConnectReqReceive
    repeat' first
      | intro _ | with_reducible assumption | with_reducible exact rfl | exact rfl | with_reducible apply kn_next
      | with_reducible apply connectReq_keeps | with_reducible apply keeps_ite | dsimp only | split)

/-- What `answered` keeps. -/
theorem answered_keeps {m : Nat} {a : State} (s : State) (k : Packet) {f : Nat → State} (h : Keeps m a s) (g : ∀ c, Keeps m a (f c))
    (hm : Sub 0x4824182200 m) : Keeps m a (answered s k f) := by
  have d : Keeps m a (deadCell s k) := keeps_lift h hm (deadCell_keeps _ _ (keeps_refl _ _) rfl)
  unfold answered
  split
  · exact keeps_ite d h
  · exact keeps_ite d (g _)

/-- What `execConnectAccReceive` keeps. -/
theorem execConnectAccReceive_keeps {m : Nat} {a : State} (k : Packet) (s : State) (h : Keeps m a s)
    (hm : Sub 0x5824182200 m) : KN m a (execConnectAccReceive k s) :=
  kn_lift h hm (by
    have h : Keeps 0x5824182200 s s := keeps_refl _ _
    unfold execConnectAccReceive
    repeat' first
      | intro _ | with_reducible assumption | with_reducible exact rfl | exact rfl | with_reducible apply kn_next
      | with_reducible apply answered_keeps | with_reducible apply acceptPeer_keeps | with_reducible apply keeps_ite | dsimp only | split)

/-- What `execConnectRejReceive` keeps. -/
theorem execConnectRejReceive_keeps {m : Nat} {a : State} (k : Packet) (s : State) (h : Keeps m a s)
    (hm : Sub 0x10c4e261ee204 m) : KN m a (execConnectRejReceive k s) :=
  kn_lift h hm (by
    have h : Keeps 0x10c4e261ee204 s s := keeps_refl _ _
    unfold execConnectRejReceive
    repeat' first
      | intro _ | with_reducible assumption | with_reducible exact rfl | exact rfl | with_reducible apply kn_next
      | with_reducible apply answered_keeps | with_reducible apply qpEvent_keeps | with_reducible apply connError_keeps
      | with_reducible apply sendConnect_keeps | with_reducible apply keeps_ite | dsimp only | split)

/-- What `execConnectCloseReceive` keeps. -/
theorem execConnectCloseReceive_keeps {m : Nat} {a : State} (k : Packet) (s : State) (h : Keeps m a s)
    (hm : Sub 0x10c4e261ee204 m) : KN m a (execConnectCloseReceive k s) :=
  kn_lift h hm (by
    have h : Keeps 0x10c4e261ee204 s s := keeps_refl _ _
    unfold execConnectCloseReceive
    repeat' first
      | intro _ | with_reducible assumption | with_reducible exact rfl | exact rfl | exact Or.inl rfl | with_reducible exact Or.inr rfl
      | exact Or.inr rfl | with_reducible apply kn_next | with_reducible apply answered_keeps | with_reducible apply connError_keeps
      | with_reducible apply sendConnect_keeps | with_reducible apply connClear_keeps | with_reducible apply keeps_ite
      | simp only [↓keepsMk_eq] | with_reducible apply keepsMk_intro | dsimp only | split)

/-- What `execCloseAckReceive` keeps. -/
theorem execCloseAckReceive_keeps {m : Nat} {a : State} (k : Packet) (s : State) (h : Keeps m a s)
    (hm : Sub 0x4a261e2200 m) : KN m a (execCloseAckReceive k s) :=
  kn_lift h hm (by
    have h : Keeps 0x4a261e2200 s s := keeps_refl _ _
    unfold execCloseAckReceive
    repeat' first
      | intro _ | with_reducible assumption | with_reducible exact rfl | exact rfl | with_reducible apply kn_next
      | with_reducible apply answered_keeps | with_reducible apply connClear_keeps | with_reducible apply keeps_ite | dsimp only | split)

/-- What `execClosingTimeout` keeps. -/
theorem execClosingTimeout_keeps {m : Nat} {a : State} (c : Nat) (s : State) (h : Keeps m a s)
    (hm : Sub 0x2060e0000 m) : KN m a (execClosingTimeout c s) :=
  kn_lift h hm (by
    have h : Keeps 0x2060e0000 s s := keeps_refl _ _
    unfold execClosingTimeout
    repeat' first
      | intro _ | with_reducible assumption | with_reducible exact rfl | exact rfl | with_reducible apply kn_next
      | with_reducible apply connClear_keeps | with_reducible apply keeps_ite | dsimp only | split)

/-- What `execChannelIdleTimeout` keeps. -/
theorem execChannelIdleTimeout_keeps {m : Nat} {a : State} (c : Nat) (s : State) (h : Keeps m a s)
    (hm : Sub 0x10c46261ee204 m) : KN m a (execChannelIdleTimeout c s) :=
  kn_lift h hm (by
    have h : Keeps 0x10c46261ee204 s s := keeps_refl _ _
    unfold execChannelIdleTimeout
    repeat' first
      | intro _ | with_reducible assumption | with_reducible exact rfl | exact rfl | exact Or.inl rfl | with_reducible exact Or.inr rfl
      | exact Or.inr rfl | with_reducible apply kn_next | with_reducible apply sendConnect_keeps | with_reducible apply connMod_keeps
      | with_reducible apply keeps_ite | simp only [↓keepsMk_eq] | with_reducible apply keepsMk_intro | dsimp only | split)

/-- What `touchContext` keeps. -/
theorem touchContext_keeps {m : Nat} {a : State} (s : State) (c : Nat) (h : Keeps m a s)
    (hm : Sub 0x800080000 m) : Keeps m a (touchContext s c) :=
  keeps_lift h hm (by
    have h : Keeps 0x800080000 s s := keeps_refl _ _
    unfold touchContext
    repeat' first
      | intro _ | with_reducible assumption | with_reducible exact rfl | exact rfl | exact Or.inl rfl | with_reducible exact Or.inr rfl
      | exact Or.inr rfl | with_reducible apply bumpFn_keeps | with_reducible apply keeps_ite | simp only [↓keepsMk_eq]
      | with_reducible apply keepsMk_intro | dsimp only | split)

/-- What `execContextFetchComplete` keeps. -/
theorem execContextFetchComplete_keeps {m : Nat} {a : State} (c : Nat) (s : State) (h : Keeps m a s)
    (hm : Sub 0x80000 m) : KN m a (execContextFetchComplete c s) :=
  kn_lift h hm (by
    have h : Keeps 0x80000 s s := keeps_refl _ _
    unfold execContextFetchComplete
    repeat' first
      | intro _ | with_reducible assumption | with_reducible exact rfl | exact rfl | exact Or.inl rfl | with_reducible exact Or.inr rfl
      | exact Or.inr rfl | with_reducible apply kn_next | with_reducible apply keeps_ite | simp only [↓keepsMk_eq]
      | with_reducible apply keepsMk_intro | dsimp only | split)

/-- What `coreLost` keeps. -/
theorem coreLost_keeps {m : Nat} {a : State} (s : State) (c : Nat) (h : Keeps m a s)
    (hm : Sub 0x802260ee200 m) : Keeps m a (coreLost s c) :=
  keeps_lift h hm (by
    have h : Keeps 0x802260ee200 s s := keeps_refl _ _
    unfold coreLost
    repeat' first
      | intro _ | with_reducible assumption | with_reducible exact rfl | exact rfl | with_reducible apply accessEvent_keeps
      | with_reducible apply connError_keeps | with_reducible apply keeps_ite | with_reducible apply keeps_foldl | dsimp only | split)

/-- What `buildLost` keeps. -/
theorem buildLost_keeps {m : Nat} {a : State} (s : State) (c : Nat) (h : Keeps m a s)
    (hm : Sub 0xa0000 m) : Keeps m a (buildLost s c) :=
  keeps_lift h hm (by
    have h : Keeps 0xa0000 s s := keeps_refl _ _
    unfold buildLost
    repeat' first
      | intro _ | with_reducible assumption | with_reducible exact rfl | exact rfl | exact Or.inl rfl | with_reducible exact Or.inr rfl
      | exact Or.inr rfl | with_reducible apply connMod_keeps | with_reducible apply endTransfers_keeps | simp only [↓keepsMk_eq]
      | with_reducible apply keepsMk_intro | with_reducible apply keeps_foldl | dsimp only | split)

/-- What `execTransportCoreFailure` keeps. -/
theorem execTransportCoreFailure_keeps {m : Nat} {a : State} (core : Nat) (s : State) (h : Keeps m a s)
    (hm : Sub 0x802260ee200 m) : KN m a (execTransportCoreFailure core s) :=
  kn_lift h hm (by
    have h : Keeps 0x802260ee200 s s := keeps_refl _ _
    unfold execTransportCoreFailure
    repeat' first
      | intro _ | with_reducible assumption | with_reducible exact rfl | exact rfl | exact Or.inl rfl | with_reducible exact Or.inr rfl
      | exact Or.inr rfl | with_reducible apply kn_next | with_reducible apply buildLost_keeps | with_reducible apply spareReport_keeps
      | with_reducible apply report_keeps | with_reducible apply coreLost_keeps | with_reducible apply keeps_ite
      | simp only [↓keepsMk_eq] | with_reducible apply keepsMk_intro | with_reducible apply keeps_foldl | dsimp only | split)

end Sys2Proof.Laws
end

