-- ==== Sys2Proof/Laws/KeepsVerbs.lean ====
section
/-! SUPPORT. Every definition of Machine/Verbs.lean keeps what `Keeps` says. -/
namespace Sys2Proof.Laws
open Sys2Proof.Machine Sys2Proof.Safety

/-- What `startRanges` keeps. -/
theorem startRanges_keeps0 {a : State} (s : State) (t : Nat) (c : Nat) (x1 : List (Nat × Nat × Use)) (h : Keeps 0x10c042002e200 a s) :
    Keeps 0x10c042002e200 a (startRanges s t c x1).1 := by
  induction x1 generalizing s t c with
  | nil =>
    unfold startRanges
    repeat' first
      | intro _ | with_reducible assumption | with_reducible exact rfl | exact rfl | with_reducible apply ko_map
      | with_reducible apply ko_bind | with_reducible apply keeps_getD | with_reducible apply dmaXlate_keeps
      | with_reducible apply keeps_ite | dsimp only | split | cases ‹_ :: _ = _ :: _› | refine kq_get ?_ (by with_reducible assumption)
      | refine kq_get1 ?_ (by with_reducible assumption)
  | cons _ _ ih =>
    unfold startRanges
    repeat' first
      | intro _ | with_reducible assumption | with_reducible exact rfl | exact rfl | with_reducible apply ih
      | with_reducible apply ko_map | with_reducible apply ko_bind | with_reducible apply keeps_getD
      | with_reducible apply dmaXlate_keeps | with_reducible apply keeps_ite | dsimp only | split | cases ‹_ :: _ = _ :: _›
      | refine kq_get ?_ (by with_reducible assumption) | refine kq_get1 ?_ (by with_reducible assumption)

/-- The same within a greater set. -/
theorem startRanges_keeps {m : Nat} {a : State} (s : State) (t : Nat) (c : Nat) (x1 : List (Nat × Nat × Use)) (h : Keeps m a s)
    (hm : Sub 0x10c042002e200 m) : Keeps m a (startRanges s t c x1).1 :=
  keeps_lift h hm (startRanges_keeps0 s t c x1 (keeps_refl _ _))

/-- What `wakeChannel` keeps. -/
theorem wakeChannel_keeps {m : Nat} {a : State} (s : State) (c : Nat) (t : Nat) (h : Keeps m a s)
    (hm : Sub 0x10c4e261ee204 m) : Keeps m a (wakeChannel s c t) :=
  keeps_lift h hm (by
    have h : Keeps 0x10c4e261ee204 s s := keeps_refl _ _
    unfold wakeChannel
    repeat' first
      | intro _ | with_reducible assumption | with_reducible exact rfl | exact rfl | with_reducible apply connClear_keeps
      | with_reducible apply openChannel_keeps | with_reducible apply sendReq_keeps | with_reducible apply keeps_ite | dsimp only | split
      | refine kq_get ?_ (by with_reducible assumption) | refine kq_get1 ?_ (by with_reducible assumption))

/-- What `markStarted` keeps. -/
theorem markStarted_keeps {m : Nat} {a : State} (s : State) (q : Nat) (idx : Nat) (h : Keeps m a s)
    (hm : Sub 0x2040000 m) : Keeps m a (markStarted s q idx) :=
  keeps_lift h hm (by
    have h : Keeps 0x2040000 s s := keeps_refl _ _
    unfold markStarted
    repeat' first
      | intro _ | with_reducible assumption | with_reducible exact rfl | exact rfl | exact Or.inl rfl | with_reducible exact Or.inr rfl
      | exact Or.inr rfl | with_reducible apply forgetRecords_keeps | with_reducible apply entryMod_keeps
      | with_reducible apply keeps_ite | simp only [↓keepsMk_eq] | with_reducible apply keepsMk_intro | with_reducible apply keeps_foldl
      | dsimp only | split)

/-- What `startFails` keeps. -/
theorem startFails_keeps {m : Nat} {a : State} (s : State) (q : Nat) (idx : Nat) (status : Nat) (frag : Nat) (h : Keeps m a s)
    (hm : Sub 0x200040000 m) : Keeps m a (startFails s q idx status frag) :=
  keeps_lift h hm (by
    have h : Keeps 0x200040000 s s := keeps_refl _ _
    unfold startFails
    repeat' first
      | intro _ | with_reducible assumption | with_reducible exact rfl | exact rfl | exact Or.inl rfl | with_reducible exact Or.inr rfl
      | exact Or.inr rfl | with_reducible apply entryDone_keeps | simp only [↓keepsMk_eq] | with_reducible apply keepsMk_intro
      | dsimp only)

/-- What `noteStale` keeps. -/
theorem noteStale_keeps {m : Nat} {a : State} (s : State) (t : Nat) (stale : Bool) (h : Keeps m a s)
    (hm : Sub 0x400000000 m) : Keeps m a (noteStale s t stale) :=
  keeps_lift h hm (by
    have h : Keeps 0x400000000 s s := keeps_refl _ _
    unfold noteStale
    repeat' first
      | intro _ | with_reducible assumption | with_reducible exact rfl | exact rfl | exact Or.inl rfl | with_reducible exact Or.inr rfl
      | exact Or.inr rfl | with_reducible apply bumpFn_keeps | with_reducible apply keeps_ite | dsimp only | split)

/-- What `readFragments` keeps. -/
theorem readFragments_keeps {m : Nat} {a : State} (s : State) (q : Nat) (e : Entry) (h : Keeps m a s)
    (hm : Sub 0x11c4e261ee204 m) : Keeps m a (readFragments s q e) :=
  keeps_lift h hm (by
    have h : Keeps 0x11c4e261ee204 s s := keeps_refl _ _
    unfold readFragments
    repeat' first
      | intro _ | with_reducible assumption | with_reducible exact rfl | exact rfl | exact Or.inl rfl | with_reducible exact Or.inr rfl
      | exact Or.inr rfl | with_reducible apply issueRead_keeps | with_reducible apply entryMod_keeps
      | with_reducible apply noteStale_keeps | with_reducible apply stall_keeps | with_reducible apply startFails_keeps
      | simp only [↓keepsMk_eq] | with_reducible apply keepsMk_intro | dsimp only | split
      | refine kq_get ?_ (by with_reducible assumption) | refine kq_get1 ?_ (by with_reducible assumption))

/-- What `startEntry` keeps. -/
theorem startEntry_keeps {m : Nat} {a : State} (s : State) (q : Nat) (e : Entry) (h : Keeps m a s)
    (hm : Sub 0x11c4e261ee204 m) : Keeps m a (startEntry s q e) :=
  keeps_lift h hm (by
    have h : Keeps 0x11c4e261ee204 s s := keeps_refl _ _
    unfold startEntry
    repeat' first
      | intro _ | with_reducible assumption | with_reducible exact rfl | exact rfl | exact Or.inl rfl | with_reducible exact Or.inr rfl
      | exact Or.inr rfl | with_reducible apply startFails_keeps | with_reducible apply bumpFn_keeps
      | with_reducible apply readFragments_keeps | with_reducible apply startRanges_keeps | with_reducible apply stall_keeps
      | with_reducible apply noteStale_keeps | with_reducible apply markStarted_keeps | with_reducible apply keeps_ite | dsimp only
      | split | refine kq_get ?_ (by with_reducible assumption) | refine kq_get1 ?_ (by with_reducible assumption))

/-- What `awaitChannel` keeps. -/
theorem awaitChannel_keeps {m : Nat} {a : State} (s : State) (q : Nat) (e : Entry) (h : Keeps m a s)
    (hm : Sub 0x10c4e261ee204 m) : Keeps m a (awaitChannel s q e) :=
  keeps_lift h hm (by
    have h : Keeps 0x10c4e261ee204 s s := keeps_refl _ _
    unfold awaitChannel
    repeat' first
      | intro _ | with_reducible assumption | with_reducible exact rfl | exact rfl | exact Or.inl rfl | with_reducible exact Or.inr rfl
      | exact Or.inr rfl | with_reducible apply startFails_keeps | with_reducible apply wakeChannel_keeps
      | with_reducible apply entryMod_keeps | with_reducible apply keeps_ite | simp only [↓keepsMk_eq]
      | with_reducible apply keepsMk_intro | dsimp only | split)

/-- What `entryStart` keeps. -/
theorem entryStart_keeps {m : Nat} {a : State} (s : State) (q : Nat) (idx : Nat) (h : Keeps m a s)
    (hm : Sub 0x11c4e261ee204 m) : Keeps m a (entryStart s q idx) :=
  keeps_lift h hm (by
    have h : Keeps 0x11c4e261ee204 s s := keeps_refl _ _
    unfold entryStart
    repeat' first
      | intro _ | with_reducible assumption | with_reducible exact rfl | exact rfl | with_reducible apply awaitChannel_keeps
      | with_reducible apply startEntry_keeps | with_reducible apply keeps_ite | dsimp only | split)

/-- What `execEntryStart` keeps. -/
theorem execEntryStart_keeps {m : Nat} {a : State} (queue : Nat) (idx : Nat) (s : State) (h : Keeps m a s)
    (hm : Sub 0x11c4e261ee204 m) : KN m a (execEntryStart queue idx s) :=
  kn_lift h hm (by
    have h : Keeps 0x11c4e261ee204 s s := keeps_refl _ _
    unfold execEntryStart
    repeat' first
      | intro _ | with_reducible assumption | with_reducible exact rfl | exact rfl | with_reducible apply kn_next
      | with_reducible apply entryStart_keeps | dsimp only)

/-- What `checkFrags` keeps. -/
theorem checkFrags_keeps0 {a : State} (s : State) (t : Nat) (c : Nat) (dest : Bool) (u : Use) (x1 : Nat) (x2 : List Frag) (h : Keeps 0x10c042002e200 a s) :
    Keeps 0x10c042002e200 a (checkFrags s t c dest u x1 x2).1 := by
  induction x2 generalizing s t c dest u x1 with
  | nil =>
    unfold checkFrags
    repeat' first
      | intro _ | with_reducible assumption | with_reducible exact rfl | exact rfl | exact Or.inl rfl | with_reducible exact Or.inr rfl
      | exact Or.inr rfl | with_reducible apply ko_map | with_reducible apply ko_bind | with_reducible apply keeps_getD
      | with_reducible apply startRanges_keeps | with_reducible apply keeps_ite | simp only [↓keepsMk_eq]
      | with_reducible apply keepsMk_intro | dsimp only | split | cases ‹_ :: _ = _ :: _›
      | refine kq_get ?_ (by with_reducible assumption) | refine kq_get1 ?_ (by with_reducible assumption)
  | cons _ _ ih =>
    unfold checkFrags
    repeat' first
      | intro _ | with_reducible assumption | with_reducible exact rfl | exact rfl | exact Or.inl rfl | with_reducible exact Or.inr rfl
      | exact Or.inr rfl | with_reducible apply ih | with_reducible apply ko_map | with_reducible apply ko_bind
      | with_reducible apply keeps_getD | with_reducible apply startRanges_keeps | with_reducible apply keeps_ite
      | simp only [↓keepsMk_eq] | with_reducible apply keepsMk_intro | dsimp only | split | cases ‹_ :: _ = _ :: _›
      | refine kq_get ?_ (by with_reducible assumption) | refine kq_get1 ?_ (by with_reducible assumption)

/-- The same within a greater set. -/
theorem checkFrags_keeps {m : Nat} {a : State} (s : State) (t : Nat) (c : Nat) (dest : Bool) (u : Use) (x1 : Nat) (x2 : List Frag) (h : Keeps m a s)
    (hm : Sub 0x10c042002e200 m) : Keeps m a (checkFrags s t c dest u x1 x2).1 :=
  keeps_lift h hm (checkFrags_keeps0 s t c dest u x1 x2 (keeps_refl _ _))

/-- What `acceptFrags` keeps. -/
theorem acceptFrags_keeps {m : Nat} {a : State} (s : State) (q : Nat) (e : Entry) (fs : List Frag) (h : Keeps m a s)
    (hm : Sub 0x10c062206e200 m) : Keeps m a (acceptFrags s q e fs) :=
  keeps_lift h hm (by
    have h : Keeps 0x10c062206e200 s s := keeps_refl _ _
    unfold acceptFrags
    repeat' first
      | intro _ | with_reducible assumption | with_reducible exact rfl | exact rfl | exact Or.inl rfl | with_reducible exact Or.inr rfl
      | exact Or.inr rfl | with_reducible apply startFails_keeps | with_reducible apply checkFrags_keeps
      | with_reducible apply stall_keeps | with_reducible apply markStarted_keeps | with_reducible apply entryMod_keeps
      | with_reducible apply admitTake_keeps | with_reducible apply entryDone_keeps | with_reducible apply keeps_ite
      | simp only [↓keepsMk_eq] | with_reducible apply keepsMk_intro | with_reducible apply keeps_foldl | dsimp only | split
      | refine kq_get ?_ (by with_reducible assumption) | refine kq_get1 ?_ (by with_reducible assumption))

/-- What `takeFrags` keeps. -/
theorem takeFrags_keeps {m : Nat} {a : State} (s : State) (q : Nat) (idx : Nat) (h : Keeps m a s)
    (hm : Sub 0x10c062206e200 m) : Keeps m a (takeFrags s q idx) :=
  keeps_lift h hm (by
    have h : Keeps 0x10c062206e200 s s := keeps_refl _ _
    unfold takeFrags
    repeat' first
      | intro _ | with_reducible assumption | with_reducible exact rfl | exact rfl | with_reducible apply acceptFrags_keeps
      | with_reducible apply keeps_ite | dsimp only | split)

/-- What `execFragmentTableRead` keeps. -/
theorem execFragmentTableRead_keeps {m : Nat} {a : State} (q : Nat) (idx : Nat) (bus : Option (List Byte)) (s : State) (h : Keeps m a s)
    (hm : Sub 0x10c062206e200 m) : KN m a (execFragmentTableRead q idx bus s) :=
  kn_lift h hm (by
    have h : Keeps 0x10c062206e200 s s := keeps_refl _ _
    unfold execFragmentTableRead
    repeat' first
      | intro _ | with_reducible assumption | with_reducible exact rfl | exact rfl | exact Or.inl rfl | with_reducible exact Or.inr rfl
      | exact Or.inr rfl | with_reducible apply kn_next | with_reducible apply finishRead_keeps | with_reducible apply entryMod_keeps
      | with_reducible apply startFails_keeps | with_reducible apply takeFrags_keeps | simp only [↓keepsMk_eq]
      | with_reducible apply keepsMk_intro | dsimp only | split | refine kq_get ?_ (by with_reducible assumption)
      | refine kq_get1 ?_ (by with_reducible assumption))

/-- What `postMsg` keeps. -/
theorem postMsg_keeps {μ : Nat} {a : State} (s : State) (c : Nat) (m : SendMsg) (h : Keeps μ a s)
    (hm : Sub 0x5024182200 μ) : Keeps μ a (postMsg s c m) :=
  keeps_lift h hm (by
    have h : Keeps 0x5024182200 s s := keeps_refl _ _
    unfold postMsg
    repeat' first
      | intro _ | with_reducible assumption | with_reducible exact rfl | exact rfl | exact Or.inl rfl | with_reducible exact Or.inr rfl
      | exact Or.inr rfl | with_reducible apply demandCheck_keeps | with_reducible apply connMod_keeps | simp only [↓keepsMk_eq]
      | with_reducible apply keepsMk_intro | dsimp only | split)

/-- What `postVerb` keeps. -/
theorem postVerb_keeps {m : Nat} {a : State} (s : State) (q : Nat) (idx : Nat) (op : Nat) (f : Entry → SendMsg) (h : Keeps m a s)
    (hm : Sub 0x50241c2200 m) : Keeps m a (postVerb s q idx op f) :=
  keeps_lift h hm (by
    have h : Keeps 0x50241c2200 s s := keeps_refl _ _
    unfold postVerb
    repeat' first
      | intro _ | with_reducible assumption | with_reducible exact rfl | exact rfl | exact Or.inl rfl | with_reducible exact Or.inr rfl
      | exact Or.inr rfl | with_reducible apply postMsg_keeps | with_reducible apply entryMod_keeps | with_reducible apply keeps_ite
      | simp only [↓keepsMk_eq] | with_reducible apply keepsMk_intro | dsimp only | split)

/-- What `execVWrite` keeps. -/
theorem execVWrite_keeps {m : Nat} {a : State} (queue : Nat) (idx : Nat) (s : State) (h : Keeps m a s)
    (hm : Sub 0x50241c2200 m) : KN m a (execVWrite queue idx s) :=
  kn_lift h hm (by
    have h : Keeps 0x50241c2200 s s := keeps_refl _ _
    unfold execVWrite
    repeat' first
      | intro _ | with_reducible assumption | with_reducible exact rfl | exact rfl | exact Or.inl rfl | with_reducible exact Or.inr rfl
      | exact Or.inr rfl | with_reducible apply kn_next | with_reducible apply postVerb_keeps | simp only [↓keepsMk_eq]
      | with_reducible apply keepsMk_intro | dsimp only | split)

/-- What `execVRead` keeps. -/
theorem execVRead_keeps {m : Nat} {a : State} (queue : Nat) (idx : Nat) (s : State) (h : Keeps m a s)
    (hm : Sub 0x50241c2200 m) : KN m a (execVRead queue idx s) :=
  kn_lift h hm (by
    have h : Keeps 0x50241c2200 s s := keeps_refl _ _
    unfold execVRead
    repeat' first
      | intro _ | with_reducible assumption | with_reducible exact rfl | exact rfl | exact Or.inl rfl | with_reducible exact Or.inr rfl
      | exact Or.inr rfl | with_reducible apply kn_next | with_reducible apply postVerb_keeps | simp only [↓keepsMk_eq]
      | with_reducible apply keepsMk_intro | dsimp only | split)

/-- What `postRaw` keeps. -/
theorem postRaw_keeps {m : Nat} {a : State} (s : State) (q : Nat) (idx : Nat) (h : Keeps m a s)
    (hm : Sub 0x240000 m) : Keeps m a (postRaw s q idx) :=
  keeps_lift h hm (by
    have h : Keeps 0x240000 s s := keeps_refl _ _
    unfold postRaw
    repeat' first
      | intro _ | with_reducible assumption | with_reducible exact rfl | exact rfl | exact Or.inl rfl | with_reducible exact Or.inr rfl
      | exact Or.inr rfl | with_reducible apply eportMod_keeps | with_reducible apply entryMod_keeps | with_reducible apply keeps_ite
      | simp only [↓keepsMk_eq] | with_reducible apply keepsMk_intro | dsimp only | split)

/-- What `execVSend` keeps. -/
theorem execVSend_keeps {m : Nat} {a : State} (queue : Nat) (idx : Nat) (s : State) (h : Keeps m a s)
    (hm : Sub 0x50243c2200 m) : KN m a (execVSend queue idx s) :=
  kn_lift h hm (by
    have h : Keeps 0x50243c2200 s s := keeps_refl _ _
    unfold execVSend
    repeat' first
      | intro _ | with_reducible assumption | with_reducible exact rfl | exact rfl | exact Or.inl rfl | with_reducible exact Or.inr rfl
      | exact Or.inr rfl | with_reducible apply kn_next | with_reducible apply postRaw_keeps | with_reducible apply postVerb_keeps
      | with_reducible apply keeps_ite | simp only [↓keepsMk_eq] | with_reducible apply keepsMk_intro | dsimp only | split)

/-- What `execVAtomic` keeps. -/
theorem execVAtomic_keeps {m : Nat} {a : State} (queue : Nat) (idx : Nat) (s : State) (h : Keeps m a s)
    (hm : Sub 0x50241c2200 m) : KN m a (execVAtomic queue idx s) :=
  kn_lift h hm (by
    have h : Keeps 0x50241c2200 s s := keeps_refl _ _
    unfold execVAtomic
    repeat' first
      | intro _ | with_reducible assumption | with_reducible exact rfl | exact rfl | exact Or.inl rfl | with_reducible exact Or.inr rfl
      | exact Or.inr rfl | with_reducible apply kn_next | with_reducible apply postVerb_keeps | simp only [↓keepsMk_eq]
      | with_reducible apply keepsMk_intro | dsimp only | split)

/-- What `execVReduceWrite` keeps. -/
theorem execVReduceWrite_keeps {m : Nat} {a : State} (queue : Nat) (idx : Nat) (s : State) (h : Keeps m a s)
    (hm : Sub 0x50241c2200 m) : KN m a (execVReduceWrite queue idx s) :=
  kn_lift h hm (by
    have h : Keeps 0x50241c2200 s s := keeps_refl _ _
    unfold execVReduceWrite
    repeat' first
      | intro _ | with_reducible assumption | with_reducible exact rfl | exact rfl | exact Or.inl rfl | with_reducible exact Or.inr rfl
      | exact Or.inr rfl | with_reducible apply kn_next | with_reducible apply postVerb_keeps | simp only [↓keepsMk_eq]
      | with_reducible apply keepsMk_intro | dsimp only | split)

/-- What `execVGatherReduce` keeps. -/
theorem execVGatherReduce_keeps {m : Nat} {a : State} (queue : Nat) (idx : Nat) (s : State) (h : Keeps m a s)
    (hm : Sub 0x50241c2200 m) : KN m a (execVGatherReduce queue idx s) :=
  kn_lift h hm (by
    have h : Keeps 0x50241c2200 s s := keeps_refl _ _
    unfold execVGatherReduce
    repeat' first
      | intro _ | with_reducible assumption | with_reducible exact rfl | exact rfl | exact Or.inl rfl | with_reducible exact Or.inr rfl
      | exact Or.inr rfl | with_reducible apply kn_next | with_reducible apply postVerb_keeps | simp only [↓keepsMk_eq]
      | with_reducible apply keepsMk_intro | dsimp only | split)

/-- What `execVInvoke` keeps. -/
theorem execVInvoke_keeps {m : Nat} {a : State} (queue : Nat) (idx : Nat) (s : State) (h : Keeps m a s)
    (hm : Sub 0x50241c2200 m) : KN m a (execVInvoke queue idx s) :=
  kn_lift h hm (by
    have h : Keeps 0x50241c2200 s s := keeps_refl _ _
    unfold execVInvoke
    repeat' first
      | intro _ | with_reducible assumption | with_reducible exact rfl | exact rfl | exact Or.inl rfl | with_reducible exact Or.inr rfl
      | exact Or.inr rfl | with_reducible apply kn_next | with_reducible apply postVerb_keeps | simp only [↓keepsMk_eq]
      | with_reducible apply keepsMk_intro | dsimp only | split)

/-- What `dropSend` keeps. -/
theorem dropSend_keeps {m : Nat} {a : State} (s : State) (c : Nat) (msn : Nat) (h : Keeps m a s)
    (hm : Sub 0x80000 m) : Keeps m a (dropSend s c msn) :=
  keeps_lift h hm (by
    have h : Keeps 0x80000 s s := keeps_refl _ _
    unfold dropSend
    repeat' first
      | intro _ | with_reducible assumption | with_reducible exact rfl | exact rfl | exact Or.inl rfl | with_reducible exact Or.inr rfl
      | exact Or.inr rfl | with_reducible apply connMod_keeps | simp only [↓keepsMk_eq] | with_reducible apply keepsMk_intro | dsimp only
      | split)

/-- What `execInvokeTimeout` keeps. -/
theorem execInvokeTimeout_keeps {m : Nat} {a : State} (queue : Nat) (idx : Nat) (s : State) (h : Keeps m a s)
    (hm : Sub 0x10c46261ee204 m) : KN m a (execInvokeTimeout queue idx s) :=
  kn_lift h hm (by
    have h : Keeps 0x10c46261ee204 s s := keeps_refl _ _
    unfold execInvokeTimeout
    repeat' first
      | intro _ | with_reducible assumption | with_reducible exact rfl | exact rfl | with_reducible apply kn_next
      | with_reducible apply closeCheck_keeps | with_reducible apply entryDone_keeps | with_reducible apply dropSend_keeps
      | with_reducible apply endSend_keeps | with_reducible apply keeps_ite | dsimp only | split)

/-- What `execVCollective` keeps. -/
theorem execVCollective_keeps {m : Nat} {a : State} (queue : Nat) (idx : Nat) (s : State) (h : Keeps m a s)
    (hm : Sub 0x40000 m) : KN m a (execVCollective queue idx s) :=
  kn_lift h hm (by
    have h : Keeps 0x40000 s s := keeps_refl _ _
    unfold execVCollective
    repeat' first
      | intro _ | with_reducible assumption | with_reducible exact rfl | exact rfl | exact Or.inl rfl | with_reducible exact Or.inr rfl
      | exact Or.inr rfl | with_reducible apply kn_next | with_reducible apply entryMod_keeps | simp only [↓keepsMk_eq]
      | with_reducible apply keepsMk_intro | dsimp only | split)

/-- What `execVInvalidate` keeps. -/
theorem execVInvalidate_keeps {m : Nat} {a : State} (queue : Nat) (idx : Nat) (s : State) (h : Keeps m a s)
    (hm : Sub 0x200060000 m) : KN m a (execVInvalidate queue idx s) :=
  kn_lift h hm (by
    have h : Keeps 0x200060000 s s := keeps_refl _ _
    unfold execVInvalidate
    repeat' first
      | intro _ | with_reducible assumption | with_reducible exact rfl | exact rfl | exact Or.inl rfl | with_reducible exact Or.inr rfl
      | exact Or.inr rfl | with_reducible apply kn_next | with_reducible apply purge_keeps | with_reducible apply advanceEpoch_keeps
      | with_reducible apply entryDone_keeps | with_reducible apply entryMod_keeps | with_reducible apply keeps_ite
      | simp only [↓keepsMk_eq] | with_reducible apply keepsMk_intro | dsimp only | split)

/-- What `execInvalidateDrainDone` keeps. -/
theorem execInvalidateDrainDone_keeps {m : Nat} {a : State} (queue : Nat) (idx : Nat) (s : State) (h : Keeps m a s)
    (hm : Sub 0x200040000 m) : KN m a (execInvalidateDrainDone queue idx s) :=
  kn_lift h hm (by
    have h : Keeps 0x200040000 s s := keeps_refl _ _
    unfold execInvalidateDrainDone
    repeat' first
      | intro _ | with_reducible assumption | with_reducible exact rfl | exact rfl | with_reducible apply kn_next
      | with_reducible apply entryDone_keeps | with_reducible apply keeps_ite | dsimp only | split)

/-- What `execVFence` keeps. -/
theorem execVFence_keeps {m : Nat} {a : State} (queue : Nat) (idx : Nat) (s : State) (h : Keeps m a s)
    (hm : Sub 0x200040000 m) : KN m a (execVFence queue idx s) :=
  kn_lift h hm (by
    have h : Keeps 0x200040000 s s := keeps_refl _ _
    unfold execVFence
    repeat' first
      | intro _ | with_reducible assumption | with_reducible exact rfl | exact rfl | with_reducible apply kn_next
      | with_reducible apply entryDone_keeps | with_reducible apply keeps_ite | dsimp only | split)

/-- What `execVRegister` keeps. -/
theorem execVRegister_keeps {m : Nat} {a : State} (queue : Nat) (idx : Nat) (s : State) (h : Keeps m a s)
    (hm : Sub 0x200060000 m) : KN m a (execVRegister queue idx s) :=
  kn_lift h hm (by
    have h : Keeps 0x200060000 s s := keeps_refl _ _
    unfold execVRegister
    repeat' first
      | intro _ | with_reducible assumption | with_reducible exact rfl | exact rfl | exact Or.inl rfl | with_reducible exact Or.inr rfl
      | exact Or.inr rfl | with_reducible apply kn_next | with_reducible apply entryDone_keeps | with_reducible apply regionMod_keeps
      | with_reducible apply entryMod_keeps | with_reducible apply keeps_ite | simp only [↓keepsMk_eq]
      | with_reducible apply keepsMk_intro | dsimp only | split)

/-- What `execVRevoke` keeps. -/
theorem execVRevoke_keeps {m : Nat} {a : State} (queue : Nat) (idx : Nat) (s : State) (h : Keeps m a s)
    (hm : Sub 0x200060000 m) : KN m a (execVRevoke queue idx s) :=
  kn_lift h hm (by
    have h : Keeps 0x200060000 s s := keeps_refl _ _
    unfold execVRevoke
    repeat' first
      | intro _ | with_reducible assumption | with_reducible exact rfl | exact rfl | exact Or.inl rfl | with_reducible exact Or.inr rfl
      | exact Or.inr rfl | with_reducible apply kn_next | with_reducible apply entryDone_keeps | with_reducible apply regionMod_keeps
      | with_reducible apply entryMod_keeps | with_reducible apply keeps_ite | simp only [↓keepsMk_eq]
      | with_reducible apply keepsMk_intro | dsimp only | split)

/-- What `execRecvPost` keeps. -/
theorem execRecvPost_keeps {m : Nat} {a : State} (queue : Nat) (idx : Nat) (s : State) (h : Keeps m a s)
    (hm : Sub 0x40000 m) : KN m a (execRecvPost queue idx s) :=
  kn_lift h hm (by
    have h : Keeps 0x40000 s s := keeps_refl _ _
    unfold execRecvPost
    repeat' first
      | intro _ | with_reducible assumption | with_reducible exact rfl | exact rfl | exact Or.inl rfl | with_reducible exact Or.inr rfl
      | exact Or.inr rfl | with_reducible apply kn_next | with_reducible apply entryMod_keeps | with_reducible apply keeps_ite
      | simp only [↓keepsMk_eq] | with_reducible apply keepsMk_intro | dsimp only | split)

end Sys2Proof.Laws
end

