-- ==== Sys2Proof/Laws/KeepsTpeAck.lean ====
section
/-! SUPPORT. Every definition of Machine/TpeAck.lean keeps what `Keeps` says. -/
namespace Sys2Proof.Laws
open Sys2Proof.Machine Sys2Proof.Safety

/-- What `sendAck` keeps. -/
theorem sendAck_keeps {m : Nat} {a : State} (s : State) (c : Nat) (h : Keeps m a s)
    (hm : Sub 0x4024182200 m) : Keeps m a (sendAck s c) :=
  keeps_lift h hm (by
    have h : Keeps 0x4024182200 s s := keeps_refl _ _
    unfold sendAck
    repeat' first
      | intro _ | with_reducible assumption | with_reducible exact rfl | exact rfl | exact Or.inl rfl | with_reducible exact Or.inr rfl
      | exact Or.inr rfl | with_reducible apply sendClass0_keeps | with_reducible apply connMod_keeps | simp only [↓keepsMk_eq]
      | with_reducible apply keepsMk_intro | dsimp only | split)

/-- What `takeCsn` keeps. -/
theorem takeCsn_keeps {m : Nat} {a : State} (s : State) (c : Nat) (csn : Nat) (h : Keeps m a s)
    (hm : Sub 0x4024182200 m) : Keeps m a (takeCsn s c csn) :=
  keeps_lift h hm (by
    have h : Keeps 0x4024182200 s s := keeps_refl _ _
    unfold takeCsn
    repeat' first
      | intro _ | with_reducible assumption | with_reducible exact rfl | exact rfl | exact Or.inl rfl | with_reducible exact Or.inr rfl
      | exact Or.inr rfl | with_reducible apply connMod_keeps | with_reducible apply sendAck_keeps | with_reducible apply keeps_ite
      | simp only [↓keepsMk_eq] | with_reducible apply keepsMk_intro | dsimp only | split)

/-- What `execAckDelayTimer` keeps. -/
theorem execAckDelayTimer_keeps {m : Nat} {a : State} (c : Nat) (s : State) (h : Keeps m a s)
    (hm : Sub 0x4024182200 m) : KN m a (execAckDelayTimer c s) :=
  kn_lift h hm (by
    have h : Keeps 0x4024182200 s s := keeps_refl _ _
    unfold execAckDelayTimer
    repeat' first
      | intro _ | with_reducible assumption | with_reducible exact rfl | exact rfl | with_reducible apply kn_next
      | with_reducible apply sendAck_keeps | with_reducible apply keeps_ite | dsimp only | split)

/-- What `recvMod` keeps. -/
theorem recvMod_keeps {m : Nat} {a : State} (s : State) (c : Nat) (msn : Nat) (f : RecvMsg → RecvMsg) (h : Keeps m a s)
    (hm : Sub 0x80000 m) : Keeps m a (recvMod s c msn f) :=
  keeps_lift h hm (by
    have h : Keeps 0x80000 s s := keeps_refl _ _
    unfold recvMod
    repeat' first
      | intro _ | with_reducible assumption | with_reducible exact rfl | exact rfl | exact Or.inl rfl | with_reducible exact Or.inr rfl
      | exact Or.inr rfl | with_reducible apply connMod_keeps | simp only [↓keepsMk_eq] | with_reducible apply keepsMk_intro | dsimp only
      | split)

/-- What `deliver` keeps. -/
theorem deliver_keeps {m : Nat} {a : State} (s : State) (c : Nat) (h : Keeps m a s)
    (hm : Sub 0x2000c0000 m) : Keeps m a (deliver s c) :=
  keeps_lift h hm (by
    have h : Keeps 0x2000c0000 s s := keeps_refl _ _
    unfold deliver
    repeat' first
      | intro _ | with_reducible assumption | with_reducible exact rfl | exact rfl | exact Or.inl rfl | with_reducible exact Or.inr rfl
      | exact Or.inr rfl | with_reducible apply connMod_keeps | with_reducible apply finishRecvEntry_keeps | simp only [↓keepsMk_eq]
      | with_reducible apply keepsMk_intro | with_reducible apply keeps_foldl | dsimp only | split)

/-- What `finalRecord` keeps. -/
theorem finalRecord_keeps {m : Nat} {a : State} (s : State) (c : Nat) (msn : Nat) (status : Nat) (h : Keeps m a s)
    (hm : Sub 0x42241c2200 m) : Keeps m a (finalRecord s c msn status) :=
  keeps_lift h hm (by
    have h : Keeps 0x42241c2200 s s := keeps_refl _ _
    unfold finalRecord
    repeat' first
      | intro _ | with_reducible assumption | with_reducible exact rfl | exact rfl | exact Or.inl rfl | with_reducible exact Or.inr rfl
      | exact Or.inr rfl | with_reducible apply connMod_keeps | with_reducible apply sendAck_keeps | with_reducible apply deliver_keeps
      | simp only [↓keepsMk_eq] | with_reducible apply keepsMk_intro | dsimp only | split)

/-- What `dropEarly` keeps. -/
theorem dropEarly_keeps {m : Nat} {a : State} (s : State) (c : Nat) (msn : Nat) (h : Keeps m a s)
    (hm : Sub 0x4024182200 m) : Keeps m a (dropEarly s c msn) :=
  keeps_lift h hm (by
    have h : Keeps 0x4024182200 s s := keeps_refl _ _
    unfold dropEarly
    repeat' first
      | intro _ | with_reducible assumption | with_reducible exact rfl | exact rfl | exact Or.inl rfl | with_reducible exact Or.inr rfl
      | exact Or.inr rfl | with_reducible apply takeCsn_keeps | simp only [↓keepsMk_eq] | with_reducible apply keepsMk_intro
      | with_reducible apply keeps_foldl | dsimp only | split)

/-- What `refuseHead` keeps. -/
theorem refuseHead_keeps {m : Nat} {a : State} (s : State) (c : Nat) (msn : Nat) (status : Nat) (h : Keeps m a s)
    (hm : Sub 0x42241c2200 m) : Keeps m a (refuseHead s c msn status) :=
  keeps_lift h hm (by
    have h : Keeps 0x42241c2200 s s := keeps_refl _ _
    unfold refuseHead
    repeat' first
      | intro _ | with_reducible assumption | with_reducible exact rfl | exact rfl | exact Or.inl rfl | with_reducible exact Or.inr rfl
      | exact Or.inr rfl | with_reducible apply finalRecord_keeps | with_reducible apply dropEarly_keeps | simp only [↓keepsMk_eq]
      | with_reducible apply keepsMk_intro | dsimp only)

/-- What `releaseRecv` keeps. -/
theorem releaseRecv_keeps {μ : Nat} {a : State} (s : State) (c : Nat) (m : RecvMsg) (h : Keeps μ a s)
    (hm : Sub 0x2000e0000 μ) : Keeps μ a (releaseRecv s c m) :=
  keeps_lift h hm (by
    have h : Keeps 0x2000e0000 s s := keeps_refl _ _
    unfold releaseRecv
    repeat' first
      | intro _ | with_reducible assumption | with_reducible exact rfl | exact rfl | exact Or.inl rfl | with_reducible exact Or.inr rfl
      | exact Or.inr rfl | with_reducible apply accessEnd_keeps | with_reducible apply recvMod_keeps | with_reducible apply keeps_ite
      | simp only [↓keepsMk_eq] | with_reducible apply keepsMk_intro | dsimp only | split)

/-- What `finishRecv` keeps. -/
theorem finishRecv_keeps {m : Nat} {a : State} (s : State) (c : Nat) (msn : Nat) (status : Nat) (h : Keeps m a s)
    (hm : Sub 0x42261e2200 m) : Keeps m a (finishRecv s c msn status) :=
  keeps_lift h hm (by
    have h : Keeps 0x42261e2200 s s := keeps_refl _ _
    unfold finishRecv
    repeat' first
      | intro _ | with_reducible assumption | with_reducible exact rfl | exact rfl | exact Or.inl rfl | with_reducible exact Or.inr rfl
      | exact Or.inr rfl | with_reducible apply releaseRecv_keeps | with_reducible apply dropStages_keeps
      | with_reducible apply dropEarly_keeps | with_reducible apply dropPlacements_keeps | with_reducible apply finalRecord_keeps
      | with_reducible apply recvMod_keeps | simp only [↓keepsMk_eq] | with_reducible apply keepsMk_intro | dsimp only | split)

/-- What `failRecvAt` keeps. -/
theorem failRecvAt_keeps {m : Nat} {a : State} (s : State) (c : Nat) (msn : Nat) (status : Nat) (own : Nat) (frag : Nat) (h : Keeps m a s)
    (hm : Sub 0x42261e2200 m) : Keeps m a (failRecvAt s c msn status own frag) :=
  keeps_lift h hm (by
    have h : Keeps 0x42261e2200 s s := keeps_refl _ _
    unfold failRecvAt
    repeat' first
      | intro _ | with_reducible assumption | with_reducible exact rfl | exact rfl | exact Or.inl rfl | with_reducible exact Or.inr rfl
      | exact Or.inr rfl | with_reducible apply finishRecv_keeps | with_reducible apply recvMod_keeps | simp only [↓keepsMk_eq]
      | with_reducible apply keepsMk_intro | dsimp only | split)

/-- What `failRecv` keeps. -/
theorem failRecv_keeps {m : Nat} {a : State} (s : State) (c : Nat) (msn : Nat) (status : Nat) (own : Nat) (h : Keeps m a s)
    (hm : Sub 0x42261e2200 m) : Keeps m a (failRecv s c msn status own) :=
  keeps_lift h hm (by
    have h : Keeps 0x42261e2200 s s := keeps_refl _ _
    unfold failRecv
    repeat' first
      | intro _ | with_reducible assumption | with_reducible exact rfl | exact rfl | with_reducible apply failRecvAt_keeps | dsimp only)

/-- What `cachePutResp` keeps. -/
theorem cachePutResp_keeps {m : Nat} {a : State} (s : State) (c : Nat) (msn : Nat) (status : Nat) (value : W64) (reduce : Bool) (h : Keeps m a s)
    (hm : Sub 0x80000 m) : Keeps m a (cachePutResp s c msn status value reduce) :=
  keeps_lift h hm (by
    have h : Keeps 0x80000 s s := keeps_refl _ _
    unfold cachePutResp
    repeat' first
      | intro _ | with_reducible assumption | with_reducible exact rfl | exact rfl | exact Or.inl rfl | with_reducible exact Or.inr rfl
      | exact Or.inr rfl | simp only [↓keepsMk_eq] | with_reducible apply keepsMk_intro | dsimp only)

/-- What `takeLow` keeps. -/
theorem takeLow_keeps {m : Nat} {a : State} (s : State) (c : Nat) (low : Nat) (h : Keeps m a s)
    (hm : Sub 0x80000 m) : Keeps m a (takeLow s c low) :=
  keeps_lift h hm (by
    have h : Keeps 0x80000 s s := keeps_refl _ _
    unfold takeLow
    repeat' first
      | intro _ | with_reducible assumption | with_reducible exact rfl | exact rfl | exact Or.inl rfl | with_reducible exact Or.inr rfl
      | exact Or.inr rfl | with_reducible apply connMod_keeps | simp only [↓keepsMk_eq] | with_reducible apply keepsMk_intro | dsimp only
      | split)

/-- What `execResponseCacheExpiry` keeps. -/
theorem execResponseCacheExpiry_keeps {m : Nat} {a : State} (node : Nat) (c : Nat) (msn : Nat) (s : State) (h : Keeps m a s)
    (hm : Sub 0x80000 m) : KN m a (execResponseCacheExpiry node c msn s) :=
  kn_lift h hm (by
    have h : Keeps 0x80000 s s := keeps_refl _ _
    unfold execResponseCacheExpiry
    repeat' first
      | intro _ | with_reducible assumption | with_reducible exact rfl | exact rfl | exact Or.inl rfl | with_reducible exact Or.inr rfl
      | exact Or.inr rfl | with_reducible apply kn_next | simp only [↓keepsMk_eq] | with_reducible apply keepsMk_intro | dsimp only
      | split)

end Sys2Proof.Laws
end

