-- ==== Sys2Proof/Laws/KeepsTpeSend.lean ====
section
/-! SUPPORT. Every definition of Machine/TpeSend.lean keeps what `Keeps` says. -/
namespace Sys2Proof.Laws
open Sys2Proof.Machine Sys2Proof.Safety

/-- What `sendMod` keeps. -/
theorem sendMod_keeps {m : Nat} {a : State} (s : State) (c : Nat) (msn : Nat) (resp : Bool) (f : SendMsg → SendMsg) (h : Keeps m a s)
    (hm : Sub 0x80000 m) : Keeps m a (sendMod s c msn resp f) :=
  keeps_lift h hm (by
    have h : Keeps 0x80000 s s := keeps_refl _ _
    unfold sendMod
    repeat' first
      | intro _ | with_reducible assumption | with_reducible exact rfl | exact rfl | exact Or.inl rfl | with_reducible exact Or.inr rfl
      | exact Or.inr rfl | with_reducible apply connMod_keeps | simp only [↓keepsMk_eq] | with_reducible apply keepsMk_intro | dsimp only
      | split)

/-- What `noteReady` keeps. -/
theorem noteReady_keeps {m : Nat} {a : State} (s : State) (e : Nat) (h : Keeps m a s)
    (hm : Sub 0x4000000 m) : Keeps m a (noteReady s e) :=
  keeps_lift h hm (by
    have h : Keeps 0x4000000 s s := keeps_refl _ _
    unfold noteReady
    repeat' first
      | intro _ | with_reducible assumption | with_reducible exact rfl | exact rfl | exact Or.inl rfl | with_reducible exact Or.inr rfl
      | exact Or.inr rfl | with_reducible apply clsMod_keeps | with_reducible apply keeps_ite | simp only [↓keepsMk_eq]
      | with_reducible apply keepsMk_intro | with_reducible apply keeps_foldl | dsimp only | split)

/-- What `encFails` keeps. -/
theorem encFails_keeps {m : Nat} {a : State} (s : State) (c : Nat) (h : Keeps m a s)
    (hm : Sub 0x802260ee200 m) : Keeps m a (encFails s c) :=
  keeps_lift h hm (by
    have h : Keeps 0x802260ee200 s s := keeps_refl _ _
    unfold encFails
    repeat' first
      | intro _ | with_reducible assumption | with_reducible exact rfl | exact rfl | exact Or.inl rfl | with_reducible exact Or.inr rfl
      | exact Or.inr rfl | with_reducible apply qpEvent_keeps | with_reducible apply connError_keeps | simp only [↓keepsMk_eq]
      | with_reducible apply keepsMk_intro | dsimp only)

/-- What `cphBlocks` keeps. -/
theorem cphBlocks_keeps {m : Nat} {a : State} (s : State) (t : Nat) (n : Nat) (h : Keeps m a s)
    (hm : Sub 0x2000000 m) : Keeps m a (cphBlocks s t n) :=
  keeps_lift h hm (by
    have h : Keeps 0x2000000 s s := keeps_refl _ _
    unfold cphBlocks
    repeat' first
      | intro _ | with_reducible assumption | with_reducible exact rfl | exact rfl | exact Or.inl rfl | with_reducible exact Or.inr rfl
      | exact Or.inr rfl | simp only [↓keepsMk_eq] | with_reducible apply keepsMk_intro | dsimp only | split)

/-- What `launch` keeps. -/
theorem launch_keeps {μ : Nat} {a : State} (s : State) (c : Nat) (m : SendMsg) (cell : Cell) (rec_ : CsnRec) (retx : Bool) (h : Keeps μ a s)
    (hm : Sub 0x84a261ee200 μ) : Keeps μ a (launch s c m cell rec_ retx) :=
  keeps_lift h hm (by
    have h : Keeps 0x84a261ee200 s s := keeps_refl _ _
    unfold launch
    repeat' first
      | intro _ | with_reducible assumption | with_reducible exact rfl | exact rfl | exact Or.inl rfl | with_reducible exact Or.inr rfl
      | exact Or.inr rfl | with_reducible apply connMod_keeps | with_reducible apply bumpFn_keeps | with_reducible apply cphBlocks_keeps
      | with_reducible apply charge_keeps | with_reducible apply handOff_keeps | with_reducible apply encFails_keeps
      | with_reducible apply keeps_ite | simp only [↓keepsMk_eq] | with_reducible apply keepsMk_intro | dsimp only | split)

/-- What `sendHead` keeps. -/
theorem sendHead_keeps {μ : Nat} {a : State} (s : State) (c : Nat) (m : SendMsg) (retx : Bool) (h : Keeps μ a s)
    (hm : Sub 0x84a261ee200 μ) : Keeps μ a (sendHead s c m retx) :=
  keeps_lift h hm (by
    have h : Keeps 0x84a261ee200 s s := keeps_refl _ _
    unfold sendHead
    repeat' first
      | intro _ | with_reducible assumption | with_reducible exact rfl | exact rfl | exact Or.inl rfl | with_reducible exact Or.inr rfl
      | exact Or.inr rfl | with_reducible apply sendMod_keeps | with_reducible apply connMod_keeps | with_reducible apply launch_keeps
      | with_reducible apply keeps_ite | simp only [↓keepsMk_eq] | with_reducible apply keepsMk_intro | dsimp only | split)

/-- What `sendUnits` keeps. -/
theorem sendUnits_keeps {μ : Nat} {a : State} (s : State) (c : Nat) (m : SendMsg) (off : Nat) (n : Nat) (bytes : List Byte) (poison : Marks) (retx : Bool) (h : Keeps μ a s)
    (hm : Sub 0x84a261ee200 μ) : Keeps μ a (sendUnits s c m off n bytes poison retx) :=
  keeps_lift h hm (by
    have h : Keeps 0x84a261ee200 s s := keeps_refl _ _
    unfold sendUnits
    repeat' first
      | intro _ | with_reducible assumption | with_reducible exact rfl | exact rfl | exact Or.inl rfl | with_reducible exact Or.inr rfl
      | exact Or.inr rfl | with_reducible apply encFails_keeps | with_reducible apply sendMod_keeps | with_reducible apply launch_keeps
      | with_reducible apply keeps_ite | simp only [↓keepsMk_eq] | with_reducible apply keepsMk_intro | dsimp only | split)

/-- What `standDown` keeps. -/
theorem standDown_keeps {m : Nat} {a : State} (s : State) (c : Nat) (status : Nat) (h : Keeps m a s)
    (hm : Sub 0x802260ee200 m) : Keeps m a (standDown s c status) :=
  keeps_lift h hm (by
    have h : Keeps 0x802260ee200 s s := keeps_refl _ _
    unfold standDown
    repeat' first
      | intro _ | with_reducible assumption | with_reducible exact rfl | exact rfl | exact Or.inl rfl | with_reducible exact Or.inr rfl
      | exact Or.inr rfl | with_reducible apply dropSends_keeps | with_reducible apply connMod_keeps
      | with_reducible apply boundQueuesError_keeps | with_reducible apply reclaimAll_keeps | with_reducible apply failRecvs_keeps
      | simp only [↓keepsMk_eq] | with_reducible apply keepsMk_intro | dsimp only | split)

/-- What `handOver` keeps. -/
theorem handOver_keeps {m : Nat} {a : State} (s : State) (c : Nat) (status : Nat) (h : Keeps m a s)
    (hm : Sub 0x10c06260ee200 m) : Keeps m a (handOver s c status) :=
  keeps_lift h hm (by
    have h : Keeps 0x10c06260ee200 s s := keeps_refl _ _
    unfold handOver
    repeat' first
      | intro _ | with_reducible assumption | with_reducible exact rfl | exact rfl | with_reducible apply markMirror_keeps
      | with_reducible apply standDown_keeps | dsimp only)

/-- What `budgetSpent` keeps. -/
theorem budgetSpent_keeps {m : Nat} {a : State} (s : State) (c : Nat) (h : Keeps m a s)
    (hm : Sub 0x18c06260ee200 m) : Keeps m a (budgetSpent s c) :=
  keeps_lift h hm (by
    have h : Keeps 0x18c06260ee200 s s := keeps_refl _ _
    unfold budgetSpent
    repeat' first
      | intro _ | with_reducible assumption | with_reducible exact rfl | exact rfl | with_reducible apply suspect_keeps
      | with_reducible apply handOver_keeps | with_reducible apply connError_keeps | with_reducible apply keeps_ite | dsimp only | split)

/-- What `headNoRoute` keeps. -/
theorem headNoRoute_keeps {m : Nat} {a : State} (s : State) (c : Nat) (h : Keeps m a s)
    (hm : Sub 0x18c06260ee200 m) : Keeps m a (headNoRoute s c) :=
  keeps_lift h hm (by
    have h : Keeps 0x18c06260ee200 s s := keeps_refl _ _
    unfold headNoRoute
    repeat' first
      | intro _ | with_reducible assumption | with_reducible exact rfl | exact rfl | with_reducible apply budgetSpent_keeps | dsimp only)

/-- What `abandonAt` keeps. -/
theorem abandonAt_keeps {μ : Nat} {a : State} (s : State) (c : Nat) (m : SendMsg) (status : Nat) (frag : Nat) (h : Keeps μ a s)
    (hm : Sub 0x42261e2200 μ) : Keeps μ a (abandonAt s c m status frag) :=
  keeps_lift h hm (by
    have h : Keeps 0x42261e2200 s s := keeps_refl _ _
    unfold abandonAt
    repeat' first
      | intro _ | with_reducible assumption | with_reducible exact rfl | exact rfl | exact Or.inl rfl | with_reducible exact Or.inr rfl
      | exact Or.inr rfl | with_reducible apply connMod_keeps | with_reducible apply dropStages_keeps
      | with_reducible apply endSend_keeps | with_reducible apply issuerDoneAt_keeps | with_reducible apply leaveRegion_keeps
      | with_reducible apply sendAck_keeps | with_reducible apply failRecv_keeps | with_reducible apply keeps_ite
      | simp only [↓keepsMk_eq] | with_reducible apply keepsMk_intro | dsimp only | split)

/-- What `abandonSend` keeps. -/
theorem abandonSend_keeps {μ : Nat} {a : State} (s : State) (c : Nat) (m : SendMsg) (status : Nat) (h : Keeps μ a s)
    (hm : Sub 0x42261e2200 μ) : Keeps μ a (abandonSend s c m status) :=
  keeps_lift h hm (by
    have h : Keeps 0x42261e2200 s s := keeps_refl _ _
    unfold abandonSend
    repeat' first
      | intro _ | with_reducible assumption | with_reducible exact rfl | exact rfl | with_reducible apply abandonAt_keeps | dsimp only)

/-- What `respRead` keeps. -/
theorem respRead_keeps {m : Nat} {a : State} (s : State) (c : Nat) (msn : Nat) (h : Keeps m a s)
    (hm : Sub 0x42261e2200 m) : Keeps m a (respRead s c msn) :=
  keeps_lift h hm (by
    have h : Keeps 0x42261e2200 s s := keeps_refl _ _
    unfold respRead
    repeat' first
      | intro _ | with_reducible assumption | with_reducible exact rfl | exact rfl | exact Or.inl rfl | with_reducible exact Or.inr rfl
      | exact Or.inr rfl | with_reducible apply accessEnd_keeps | with_reducible apply sendMod_keeps
      | with_reducible apply finishRecv_keeps | with_reducible apply keeps_ite | simp only [↓keepsMk_eq]
      | with_reducible apply keepsMk_intro | dsimp only | split)

/-- What `noteUnits` keeps. -/
theorem noteUnits_keeps {μ : Nat} {a : State} (s : State) (c : Nat) (m : SendMsg) (off : Nat) (n : Nat) (again : Bool) (h : Keeps μ a s)
    (hm : Sub 0x80000 μ) : Keeps μ a (noteUnits s c m off n again) :=
  keeps_lift h hm (by
    have h : Keeps 0x80000 s s := keeps_refl _ _
    unfold noteUnits
    repeat' first
      | intro _ | with_reducible assumption | with_reducible exact rfl | exact rfl | exact Or.inl rfl | with_reducible exact Or.inr rfl
      | exact Or.inr rfl | with_reducible apply connMod_keeps | with_reducible apply sendMod_keeps | with_reducible apply keeps_ite
      | simp only [↓keepsMk_eq] | with_reducible apply keepsMk_intro | dsimp only | split)

/-- What `noteRead` keeps. -/
theorem noteRead_keeps {μ : Nat} {a : State} (s : State) (c : Nat) (m : SendMsg) (i : Issued) (again : Bool) (h : Keeps μ a s)
    (hm : Sub 0x80000 μ) : Keeps μ a (noteRead s c m i again) :=
  keeps_lift h hm (by
    have h : Keeps 0x80000 s s := keeps_refl _ _
    unfold noteRead
    repeat' first
      | intro _ | with_reducible assumption | with_reducible exact rfl | exact rfl | exact Or.inl rfl | with_reducible exact Or.inr rfl
      | exact Or.inr rfl | with_reducible apply sendMod_keeps | with_reducible apply keeps_ite | simp only [↓keepsMk_eq]
      | with_reducible apply keepsMk_intro | dsimp only | split)

/-- What `takeUnits` keeps. -/
theorem takeUnits_keeps {μ : Nat} {a : State} (s : State) (c : Nat) (m : SendMsg) (off : Nat) (n : Nat) (again : Bool) (h : Keeps μ a s)
    (hm : Sub 0x10c4e261ee200 μ) : Keeps μ a (takeUnits s c m off n again).1 :=
  keeps_lift h hm (by
    have h : Keeps 0x10c4e261ee200 s s := keeps_refl _ _
    unfold takeUnits
    repeat' first
      | intro _ | with_reducible assumption | with_reducible exact rfl | exact rfl | with_reducible apply sendUnits_keeps
      | with_reducible apply noteUnits_keeps | with_reducible apply noteRead_keeps | with_reducible apply respRead_keeps
      | with_reducible apply issueSegs_keeps | with_reducible apply stall_keeps | with_reducible apply abandonAt_keeps
      | with_reducible apply abandonSend_keeps | with_reducible apply endXfer_keeps | with_reducible apply busReads_keeps
      | with_reducible apply keeps_ite | dsimp only | split | refine kq_get ?_ (by with_reducible assumption)
      | refine kq_get1 ?_ (by with_reducible assumption))

/-- What `takeImplied` keeps. -/
theorem takeImplied_keeps {μ : Nat} {a : State} (s : State) (c : Nat) (m : SendMsg) (h : Keeps μ a s)
    (hm : Sub 0x4080000 μ) : Keeps μ a (takeImplied s c m) :=
  keeps_lift h hm (by
    have h : Keeps 0x4080000 s s := keeps_refl _ _
    unfold takeImplied
    repeat' first
      | intro _ | with_reducible assumption | with_reducible exact rfl | exact rfl | exact Or.inl rfl | with_reducible exact Or.inr rfl
      | exact Or.inr rfl | with_reducible apply connMod_keeps | with_reducible apply egressMod_keeps | with_reducible apply keeps_ite
      | simp only [↓keepsMk_eq] | with_reducible apply keepsMk_intro | dsimp only | split)

/-- What `serveOne` keeps. -/
theorem serveOne_keeps {m : Nat} {a : State} (s : State) (c : Nat) (k : Nat) (h : Keeps m a s)
    (hm : Sub 0x18c4e261ee200 m) : Keeps m a (serveOne s c k).1 :=
  keeps_lift h hm (by
    have h : Keeps 0x18c4e261ee200 s s := keeps_refl _ _
    unfold serveOne
    repeat' first
      | intro _ | with_reducible assumption | with_reducible exact rfl | exact rfl | exact Or.inl rfl | with_reducible exact Or.inr rfl
      | exact Or.inr rfl | with_reducible apply bumpFn_keeps | with_reducible apply sendHead_keeps
      | with_reducible apply takeImplied_keeps | with_reducible apply takeUnits_keeps | with_reducible apply headNoRoute_keeps
      | with_reducible apply encFails_keeps | with_reducible apply keeps_ite | dsimp only | split
      | refine kq_get ?_ (by with_reducible assumption) | refine kq_get1 ?_ (by with_reducible assumption))

/-- What `serveSlice` keeps. -/
theorem serveSlice_keeps0 {a : State} (s : State) (c : Nat) (k : Nat) (x1 : Nat) (x2 : Nat) (h : Keeps 0x18c4e261ee200 a s) :
    Keeps 0x18c4e261ee200 a (serveSlice s c k x1 x2) := by
  induction x1 generalizing s c k x2 with
  | zero =>
    unfold serveSlice
    repeat' first
      | intro _ | with_reducible assumption | with_reducible exact rfl | exact rfl | with_reducible apply ko_map
      | with_reducible apply ko_bind | with_reducible apply keeps_getD | with_reducible apply serveOne_keeps
      | with_reducible apply keeps_ite | dsimp only | split | cases ‹_ + 1 = _ + 1› | refine kq_get ?_ (by with_reducible assumption)
      | refine kq_get1 ?_ (by with_reducible assumption)
  | succ _ ih =>
    unfold serveSlice
    repeat' first
      | intro _ | with_reducible assumption | with_reducible exact rfl | exact rfl | with_reducible apply ih
      | with_reducible apply ko_map | with_reducible apply ko_bind | with_reducible apply keeps_getD
      | with_reducible apply serveOne_keeps | with_reducible apply keeps_ite | dsimp only | split | cases ‹_ + 1 = _ + 1›
      | refine kq_get ?_ (by with_reducible assumption) | refine kq_get1 ?_ (by with_reducible assumption)

/-- The same within a greater set. -/
theorem serveSlice_keeps {m : Nat} {a : State} (s : State) (c : Nat) (k : Nat) (x1 : Nat) (x2 : Nat) (h : Keeps m a s)
    (hm : Sub 0x18c4e261ee200 m) : Keeps m a (serveSlice s c k x1 x2) :=
  keeps_lift h hm (serveSlice_keeps0 s c k x1 x2 (keeps_refl _ _))

/-- What `rawFails` keeps. -/
theorem rawFails_keeps {m : Nat} {a : State} (s : State) (e : Nat) (r : RawTx) (status : Nat) (frag : Nat) (h : Keeps m a s)
    (hm : Sub 0x200240000 m) : Keeps m a (rawFails s e r status frag) :=
  keeps_lift h hm (by
    have h : Keeps 0x200240000 s s := keeps_refl _ _
    unfold rawFails
    repeat' first
      | intro _ | with_reducible assumption | with_reducible exact rfl | exact rfl | exact Or.inl rfl | with_reducible exact Or.inr rfl
      | exact Or.inr rfl | with_reducible apply entryDone_keeps | with_reducible apply eportMod_keeps | simp only [↓keepsMk_eq]
      | with_reducible apply keepsMk_intro | dsimp only | split)

/-- What `serveRaw` keeps. -/
theorem serveRaw_keeps {m : Nat} {a : State} (s : State) (e : Nat) (k : Nat) (h : Keeps m a s)
    (hm : Sub 0x10c062026e200 m) : Keeps m a (serveRaw s e k) :=
  keeps_lift h hm (by
    have h : Keeps 0x10c062026e200 s s := keeps_refl _ _
    unfold serveRaw
    repeat' first
      | intro _ | with_reducible assumption | with_reducible exact rfl | exact rfl | exact Or.inl rfl | with_reducible exact Or.inr rfl
      | exact Or.inr rfl | with_reducible apply eportMod_keeps | with_reducible apply issueSegs_keeps | with_reducible apply stall_keeps
      | with_reducible apply rawFails_keeps | with_reducible apply busReads_keeps | simp only [↓keepsMk_eq]
      | with_reducible apply keepsMk_intro | dsimp only | split | refine kq_get ?_ (by with_reducible assumption)
      | refine kq_get1 ?_ (by with_reducible assumption))

/-- What `releaseSlice` keeps. -/
theorem releaseSlice_keeps {m : Nat} {a : State} (s : State) (c : Nat) (k : Nat) (h : Keeps m a s)
    (hm : Sub 0x18c5e261ee200 m) : Keeps m a (releaseSlice s c k) :=
  keeps_lift h hm (by
    have h : Keeps 0x18c5e261ee200 s s := keeps_refl _ _
    unfold releaseSlice
    repeat' first
      | intro _ | with_reducible assumption | with_reducible exact rfl | exact rfl | exact Or.inl rfl | with_reducible exact Or.inr rfl
      | exact Or.inr rfl | with_reducible apply demandCheck_keeps | with_reducible apply serveSlice_keeps
      | with_reducible apply keeps_ite | simp only [↓keepsMk_eq] | with_reducible apply keepsMk_intro | dsimp only | split)

/-- What `execCoreSliceEnd` keeps. -/
theorem execCoreSliceEnd_keeps {m : Nat} {a : State} (core : Nat) (s : State) (h : Keeps m a s)
    (hm : Sub 0x18c5e261ee200 m) : KN m a (execCoreSliceEnd core s) :=
  kn_lift h hm (by
    have h : Keeps 0x18c5e261ee200 s s := keeps_refl _ _
    unfold execCoreSliceEnd
    repeat' first
      | intro _ | with_reducible assumption | with_reducible exact rfl | exact rfl | exact Or.inl rfl | with_reducible exact Or.inr rfl
      | exact Or.inr rfl | with_reducible apply kn_next | with_reducible apply demandCheck_keeps | with_reducible apply serveSlice_keeps
      | simp only [↓keepsMk_eq] | with_reducible apply keepsMk_intro | dsimp only | split)

/-- What `pickConn` keeps. -/
theorem pickConn_keeps {m : Nat} {a : State} (s : State) (c : Nat) (k : Nat) (h : Keeps m a s)
    (hm : Sub 0x18c5e261ee200 m) : Keeps m a (pickConn s c k) :=
  keeps_lift h hm (by
    have h : Keeps 0x18c5e261ee200 s s := keeps_refl _ _
    unfold pickConn
    repeat' first
      | intro _ | with_reducible assumption | with_reducible exact rfl | exact rfl | with_reducible apply touchContext_keeps
      | with_reducible apply releaseSlice_keeps | with_reducible apply keeps_ite | dsimp only | split)

/-- What `schedulerPick` keeps. -/
theorem schedulerPick_keeps {m : Nat} {a : State} (s : State) (e : Nat) (h : Keeps m a s)
    (hm : Sub 0x18c5e263ee200 m) : Keeps m a (schedulerPick s e) :=
  keeps_lift h hm (by
    have h : Keeps 0x18c5e263ee200 s s := keeps_refl _ _
    unfold schedulerPick
    repeat' first
      | intro _ | with_reducible assumption | with_reducible exact rfl | exact rfl | exact Or.inl rfl | with_reducible exact Or.inr rfl
      | exact Or.inr rfl | with_reducible apply drainClass0_keeps | with_reducible apply noteReady_keeps
      | with_reducible apply egressMod_keeps | with_reducible apply clsMod_keeps | with_reducible apply serveRaw_keeps
      | with_reducible apply pickConn_keeps | with_reducible apply keeps_ite | simp only [↓keepsMk_eq]
      | with_reducible apply keepsMk_intro | dsimp only | split)

/-- What `execSchedulerPick` keeps. -/
theorem execSchedulerPick_keeps {m : Nat} {a : State} (egress : Nat) (s : State) (h : Keeps m a s)
    (hm : Sub 0x18c5e263ee200 m) : KN m a (execSchedulerPick egress s) :=
  kn_lift h hm (by
    have h : Keeps 0x18c5e263ee200 s s := keeps_refl _ _
    unfold execSchedulerPick
    repeat' first
      | intro _ | with_reducible assumption | with_reducible exact rfl | exact rfl | with_reducible apply kn_next
      | with_reducible apply schedulerPick_keeps | with_reducible apply keeps_ite | dsimp only | split)

/-- What `drainReads` keeps. -/
theorem drainReads_keeps0 {a : State} (s : State) (c : Nat) (msn : Nat) (resp : Bool) (x1 : Nat) (h : Keeps 0x84a261ee200 a s) :
    Keeps 0x84a261ee200 a (drainReads s c msn resp x1) := by
  induction x1 generalizing s c msn resp with
  | zero =>
    unfold drainReads
    repeat' first
      | intro _ | with_reducible assumption | with_reducible exact rfl | exact rfl | exact Or.inl rfl | with_reducible exact Or.inr rfl
      | exact Or.inr rfl | with_reducible apply ko_map | with_reducible apply ko_bind | with_reducible apply keeps_getD
      | with_reducible apply sendUnits_keeps | with_reducible apply sendMod_keeps | simp only [↓keepsMk_eq]
      | with_reducible apply keepsMk_intro | dsimp only | split | cases ‹_ + 1 = _ + 1›
  | succ _ ih =>
    unfold drainReads
    repeat' first
      | intro _ | with_reducible assumption | with_reducible exact rfl | exact rfl | exact Or.inl rfl | with_reducible exact Or.inr rfl
      | exact Or.inr rfl | with_reducible apply ih | with_reducible apply ko_map | with_reducible apply ko_bind
      | with_reducible apply keeps_getD | with_reducible apply sendUnits_keeps | with_reducible apply sendMod_keeps
      | simp only [↓keepsMk_eq] | with_reducible apply keepsMk_intro | dsimp only | split | cases ‹_ + 1 = _ + 1›

/-- The same within a greater set. -/
theorem drainReads_keeps {m : Nat} {a : State} (s : State) (c : Nat) (msn : Nat) (resp : Bool) (x1 : Nat) (h : Keeps m a s)
    (hm : Sub 0x84a261ee200 m) : Keeps m a (drainReads s c msn resp x1) :=
  keeps_lift h hm (drainReads_keeps0 s c msn resp x1 (keeps_refl _ _))

/-- What `heldRead` keeps. -/
theorem heldRead_keeps {μ : Nat} {a : State} (s : State) (c : Nat) (m : SendMsg) (x : Issued) (b : List Byte) (bad : Marks) (h : Keeps μ a s)
    (hm : Sub 0x84a261ee200 μ) : Keeps μ a (heldRead s c m x b bad) :=
  keeps_lift h hm (by
    have h : Keeps 0x84a261ee200 s s := keeps_refl _ _
    unfold heldRead
    repeat' first
      | intro _ | with_reducible assumption | with_reducible exact rfl | exact rfl | exact Or.inl rfl | with_reducible exact Or.inr rfl
      | exact Or.inr rfl | with_reducible apply sendMod_keeps | with_reducible apply respRead_keeps
      | with_reducible apply drainReads_keeps | simp only [↓keepsMk_eq] | with_reducible apply keepsMk_intro | dsimp only | split)

/-- What `sourceBytes` keeps. -/
theorem sourceBytes_keeps {μ : Nat} {a : State} (s : State) (c : Nat) (m : SendMsg) (x : Issued) (d : Rd) (h : Keeps μ a s)
    (hm : Sub 0x84a261ee200 μ) : Keeps μ a (sourceBytes s c m x d) :=
  keeps_lift h hm (by
    have h : Keeps 0x84a261ee200 s s := keeps_refl _ _
    unfold sourceBytes
    repeat' first
      | intro _ | with_reducible assumption | with_reducible exact rfl | exact rfl | with_reducible apply abandonAt_keeps
      | with_reducible apply heldRead_keeps | with_reducible apply keeps_ite | dsimp only | split)

/-- What `rawBytes` keeps. -/
theorem rawBytes_keeps {m : Nat} {a : State} (s : State) (e : Nat) (r : RawTx) (b : List Byte) (h : Keeps m a s)
    (hm : Sub 0x4024202200 m) : Keeps m a (rawBytes s e r b) :=
  keeps_lift h hm (by
    have h : Keeps 0x4024202200 s s := keeps_refl _ _
    unfold rawBytes
    repeat' first
      | intro _ | with_reducible assumption | with_reducible exact rfl | exact rfl | exact Or.inl rfl | with_reducible exact Or.inr rfl
      | exact Or.inr rfl | with_reducible apply charge_keeps | with_reducible apply eportMod_keeps | with_reducible apply sendFrame_keeps
      | simp only [↓keepsMk_eq] | with_reducible apply keepsMk_intro | dsimp only | split)

/-- What `rawRead` keeps. -/
theorem rawRead_keeps {m : Nat} {a : State} (s : State) (q : Nat) (idx : Nat) (bus : Option (List Byte)) (h : Keeps m a s)
    (hm : Sub 0x10c462426e200 m) : Keeps m a (rawRead s q idx bus) :=
  keeps_lift h hm (by
    have h : Keeps 0x10c462426e200 s s := keeps_refl _ _
    unfold rawRead
    repeat' first
      | intro _ | with_reducible assumption | with_reducible exact rfl | exact rfl | with_reducible apply rawBytes_keeps
      | with_reducible apply finishRead_keeps | with_reducible apply rawFails_keeps | with_reducible apply keeps_ite | dsimp only | split
      | refine kq_get ?_ (by with_reducible assumption) | refine kq_get1 ?_ (by with_reducible assumption))

/-- What `execSourceReadComplete` keeps. -/
theorem execSourceReadComplete_keeps {m : Nat} {a : State} (read : ReadRef) (bus : Option (List Byte)) (s : State) (h : Keeps m a s)
    (hm : Sub 0x10c4e263ee200 m) : KN m a (execSourceReadComplete read bus s) :=
  kn_lift h hm (by
    have h : Keeps 0x10c4e263ee200 s s := keeps_refl _ _
    unfold execSourceReadComplete
    repeat' first
      | intro _ | with_reducible assumption | with_reducible exact rfl | exact rfl | exact Or.inl rfl | with_reducible exact Or.inr rfl
      | exact Or.inr rfl | with_reducible apply kn_next | with_reducible apply rawRead_keeps | with_reducible apply finishRead_keeps
      | with_reducible apply sourceBytes_keeps | with_reducible apply keeps_ite | simp only [↓keepsMk_eq]
      | with_reducible apply keepsMk_intro | dsimp only | split | refine kq_get ?_ (by with_reducible assumption)
      | refine kq_get1 ?_ (by with_reducible assumption))

/-- What `resend` keeps. -/
theorem resend_keeps {m : Nat} {a : State} (s : State) (c : Nat) (r : CsnRec) (h : Keeps m a s)
    (hm : Sub 0x80000 m) : Keeps m a (resend s c r) :=
  keeps_lift h hm (by
    have h : Keeps 0x80000 s s := keeps_refl _ _
    unfold resend
    repeat' first
      | intro _ | with_reducible assumption | with_reducible exact rfl | exact rfl | exact Or.inl rfl | with_reducible exact Or.inr rfl
      | exact Or.inr rfl | with_reducible apply connMod_keeps | with_reducible apply sendMod_keeps | with_reducible apply keeps_ite
      | simp only [↓keepsMk_eq] | with_reducible apply keepsMk_intro | dsimp only | split)

/-- What `execRtoExpiry` keeps. -/
theorem execRtoExpiry_keeps {m : Nat} {a : State} (c : Nat) (csn : Nat) (s : State) (h : Keeps m a s)
    (hm : Sub 0x18c5e261ee200 m) : KN m a (execRtoExpiry c csn s) :=
  kn_lift h hm (by
    have h : Keeps 0x18c5e261ee200 s s := keeps_refl _ _
    unfold execRtoExpiry
    repeat' first
      | intro _ | with_reducible assumption | with_reducible exact rfl | exact rfl | exact Or.inl rfl | with_reducible exact Or.inr rfl
      | exact Or.inr rfl | with_reducible apply kn_next | with_reducible apply bumpFn_keeps | with_reducible apply demandCheck_keeps
      | with_reducible apply resend_keeps | with_reducible apply budgetSpent_keeps | with_reducible apply connMod_keeps
      | with_reducible apply keeps_ite | simp only [↓keepsMk_eq] | with_reducible apply keepsMk_intro | dsimp only | split)

/-- What `execRnrWaitTimer` keeps. -/
theorem execRnrWaitTimer_keeps {m : Nat} {a : State} (c : Nat) (s : State) (h : Keeps m a s)
    (hm : Sub 0x5024182200 m) : KN m a (execRnrWaitTimer c s) :=
  kn_lift h hm (by
    have h : Keeps 0x5024182200 s s := keeps_refl _ _
    unfold execRnrWaitTimer
    repeat' first
      | intro _ | with_reducible assumption | with_reducible exact rfl | exact rfl | exact Or.inl rfl | with_reducible exact Or.inr rfl
      | exact Or.inr rfl | with_reducible apply kn_next | with_reducible apply demandCheck_keeps | with_reducible apply connMod_keeps
      | simp only [↓keepsMk_eq] | with_reducible apply keepsMk_intro | dsimp only | split)

/-- What `execCreditTimeout` keeps. -/
theorem execCreditTimeout_keeps {m : Nat} {a : State} (c : Nat) (msn : Nat) (s : State) (h : Keeps m a s)
    (hm : Sub 0x18c56261ee200 m) : KN m a (execCreditTimeout c msn s) :=
  kn_lift h hm (by
    have h : Keeps 0x18c56261ee200 s s := keeps_refl _ _
    unfold execCreditTimeout
    repeat' first
      | intro _ | with_reducible assumption | with_reducible exact rfl | exact rfl | exact Or.inl rfl | with_reducible exact Or.inr rfl
      | exact Or.inr rfl | with_reducible apply kn_next | with_reducible apply budgetSpent_keeps | with_reducible apply abandonSend_keeps
      | with_reducible apply bumpFn_keeps | with_reducible apply keeps_ite | simp only [↓keepsMk_eq] | with_reducible apply keepsMk_intro
      | dsimp only | split)

/-- What `dropResponses` keeps. -/
theorem dropResponses_keeps {m : Nat} {a : State} (s : State) (c : Nat) (h : Keeps m a s)
    (hm : Sub 0x2000e0000 m) : Keeps m a (dropResponses s c) :=
  keeps_lift h hm (by
    have h : Keeps 0x2000e0000 s s := keeps_refl _ _
    unfold dropResponses
    repeat' first
      | intro _ | with_reducible assumption | with_reducible exact rfl | exact rfl | exact Or.inl rfl | with_reducible exact Or.inr rfl
      | exact Or.inr rfl | with_reducible apply connMod_keeps | with_reducible apply issuerDone_keeps | simp only [↓keepsMk_eq]
      | with_reducible apply keepsMk_intro | with_reducible apply keeps_foldl | dsimp only | split)

/-- What `ackedMsg` keeps. -/
theorem ackedMsg_keeps {μ : Nat} {a : State} (s : State) (c : Nat) (m : SendMsg) (h : Keeps μ a s)
    (hm : Sub 0x2040e0000 μ) : Keeps μ a (ackedMsg s c m) :=
  keeps_lift h hm (by
    have h : Keeps 0x2040e0000 s s := keeps_refl _ _
    unfold ackedMsg
    repeat' first
      | intro _ | with_reducible assumption | with_reducible exact rfl | exact rfl | exact Or.inl rfl | with_reducible exact Or.inr rfl
      | exact Or.inr rfl | with_reducible apply connMod_keeps | with_reducible apply sendMod_keeps | with_reducible apply dropSend_keeps
      | with_reducible apply endSend_keeps | with_reducible apply issuerDone_keeps | with_reducible apply keeps_ite
      | simp only [↓keepsMk_eq] | with_reducible apply keepsMk_intro | dsimp only | split)

/-- What `finalMsg` keeps. -/
theorem finalMsg_keeps {μ : Nat} {a : State} (s : State) (c : Nat) (m : SendMsg) (status : Nat) (h : Keeps μ a s)
    (hm : Sub 0x2040e0000 μ) : Keeps μ a (finalMsg s c m status) :=
  keeps_lift h hm (by
    have h : Keeps 0x2040e0000 s s := keeps_refl _ _
    unfold finalMsg
    repeat' first
      | intro _ | with_reducible assumption | with_reducible exact rfl | exact rfl | exact Or.inl rfl | with_reducible exact Or.inr rfl
      | exact Or.inr rfl | with_reducible apply ackedMsg_keeps | with_reducible apply connMod_keeps | with_reducible apply endSend_keeps
      | with_reducible apply issuerStatus_keeps | with_reducible apply dropSend_keeps | with_reducible apply keeps_ite
      | simp only [↓keepsMk_eq] | with_reducible apply keepsMk_intro | dsimp only | split)

/-- What `sendAfresh` keeps. -/
theorem sendAfresh_keeps {m : Nat} {a : State} (s : State) (c : Nat) (p : SendMsg → Bool) (wait : Bool) (h : Keeps m a s)
    (hm : Sub 0xa0000 m) : Keeps m a (sendAfresh s c p wait) :=
  keeps_lift h hm (by
    have h : Keeps 0xa0000 s s := keeps_refl _ _
    unfold sendAfresh
    repeat' first
      | intro _ | with_reducible assumption | with_reducible exact rfl | exact rfl | exact Or.inl rfl | with_reducible exact Or.inr rfl
      | exact Or.inr rfl | with_reducible apply connMod_keeps | with_reducible apply endTransfers_keeps | with_reducible apply keeps_ite
      | simp only [↓keepsMk_eq] | with_reducible apply keepsMk_intro | dsimp only | split)

/-- What `rnrRecord` keeps. -/
theorem rnrRecord_keeps {m : Nat} {a : State} (s : State) (c : Nat) (msn : Nat) (h : Keeps m a s)
    (hm : Sub 0x42261e2200 m) : Keeps m a (rnrRecord s c msn) :=
  keeps_lift h hm (by
    have h : Keeps 0x42261e2200 s s := keeps_refl _ _
    unfold rnrRecord
    repeat' first
      | intro _ | with_reducible assumption | with_reducible exact rfl | exact rfl | exact Or.inl rfl | with_reducible exact Or.inr rfl
      | exact Or.inr rfl | with_reducible apply abandonSend_keeps | with_reducible apply sendAfresh_keeps
      | with_reducible apply sendMod_keeps | with_reducible apply keeps_ite | simp only [↓keepsMk_eq]
      | with_reducible apply keepsMk_intro | dsimp only | split)

/-- What `takeRecord` keeps. -/
theorem takeRecord_keeps {m : Nat} {a : State} (s : State) (c : Nat) (r : Nat × Nat × Nat) (h : Keeps m a s)
    (hm : Sub 0x42261e2200 m) : Keeps m a (takeRecord s c r) :=
  keeps_lift h hm (by
    have h : Keeps 0x42261e2200 s s := keeps_refl _ _
    unfold takeRecord
    repeat' first
      | intro _ | with_reducible assumption | with_reducible exact rfl | exact rfl | with_reducible apply rnrRecord_keeps
      | with_reducible apply finalMsg_keeps | with_reducible apply keeps_ite | dsimp only | split)

/-- What `takeDone` keeps. -/
theorem takeDone_keeps {m : Nat} {a : State} (s : State) (c : Nat) (done : Nat) (h : Keeps m a s)
    (hm : Sub 0x2040e0000 m) : Keeps m a (takeDone s c done) :=
  keeps_lift h hm (by
    have h : Keeps 0x2040e0000 s s := keeps_refl _ _
    unfold takeDone
    repeat' first
      | intro _ | with_reducible assumption | with_reducible exact rfl | exact rfl | with_reducible apply ackedMsg_keeps
      | with_reducible apply keeps_foldl | dsimp only | split)

/-- What `ackReceive` keeps. -/
theorem ackReceive_keeps {m : Nat} {z : State} (s : State) (c : Nat) (a : AckMsg) (h : Keeps m z s)
    (hm : Sub 0x10c56261ee204 m) : Keeps m z (ackReceive s c a) :=
  keeps_lift h hm (by
    have h : Keeps 0x10c56261ee204 s s := keeps_refl _ _
    unfold ackReceive
    repeat' first
      | intro _ | with_reducible assumption | with_reducible exact rfl | exact rfl | exact Or.inl rfl | with_reducible exact Or.inr rfl
      | exact Or.inr rfl | with_reducible apply connMod_keeps | with_reducible apply takeDone_keeps
      | with_reducible apply takeRecord_keeps | with_reducible apply resend_keeps | with_reducible apply closeCheck_keeps
      | with_reducible apply demandCheck_keeps | with_reducible apply dropResponses_keeps | with_reducible apply keeps_ite
      | simp only [↓keepsMk_eq] | with_reducible apply keepsMk_intro | with_reducible apply keeps_foldl | dsimp only | split)

/-- What `execAckReceive` keeps. -/
theorem execAckReceive_keeps {m : Nat} {a : State} (k : Packet) (s : State) (h : Keeps m a s)
    (hm : Sub 0x10c5e261ee204 m) : KN m a (execAckReceive k s) :=
  kn_lift h hm (by
    have h : Keeps 0x10c5e261ee204 s s := keeps_refl _ _
    unfold execAckReceive
    repeat' first
      | intro _ | with_reducible assumption | with_reducible exact rfl | exact rfl | with_reducible apply kn_next
      | with_reducible apply deadCell_keeps | with_reducible apply ackReceive_keeps | with_reducible apply keeps_ite | dsimp only | split)

end Sys2Proof.Laws
end

