-- ==== Sys2Proof/Laws/KeepsTgd.lean ====
section
/-! SUPPORT. Every definition of Machine/Tgd.lean keeps what `Keeps` says. -/
namespace Sys2Proof.Laws
open Sys2Proof.Machine Sys2Proof.Safety

/-- What `tileMod` keeps. -/
theorem tileMod_keeps {m : Nat} {a : State} (s : State) (t : Nat) (f : Tile → Tile) (h : Keeps m a s)
    (hm : Sub 0x1000000 m) : Keeps m a (tileMod s t f) :=
  keeps_lift h hm (by
    have h : Keeps 0x1000000 s s := keeps_refl _ _
    unfold tileMod
    repeat' first
      | intro _ | with_reducible assumption | with_reducible exact rfl | exact rfl | exact Or.inl rfl | with_reducible exact Or.inr rfl
      | exact Or.inr rfl | simp only [↓keepsMk_eq] | with_reducible apply keepsMk_intro | dsimp only | split)

/-- What `remapBuild` keeps. -/
theorem remapBuild_keeps {m : Nat} {a : State} (s : State) (bad : List Nat) (h : Keeps m a s)
    (hm : Sub 0x1004000 m) : Keeps m a (remapBuild s bad) :=
  keeps_lift h hm (by
    have h : Keeps 0x1004000 s s := keeps_refl _ _
    unfold remapBuild
    repeat' first
      | intro _ | with_reducible assumption | with_reducible exact rfl | exact rfl | exact Or.inl rfl | with_reducible exact Or.inr rfl
      | exact Or.inr rfl | with_reducible apply keeps_ite | simp only [↓keepsMk_eq] | with_reducible apply keepsMk_intro
      | with_reducible apply keeps_foldl | dsimp only | split)

/-- What `kernelReport` keeps. -/
theorem kernelReport_keeps {m : Nat} {a : State} (s : State) (t : Nat) (status : Nat) (sev : Nat) (cause : Nat) (kernel : Nat) (tile : Nat) (handle : Nat) (pc : Nat) (value : Nat) (h : Keeps m a s)
    (hm : Sub 0x8002000e200 m) : Keeps m a (kernelReport s t status sev cause kernel tile handle pc value) :=
  keeps_lift h hm (by
    have h : Keeps 0x8002000e200 s s := keeps_refl _ _
    unfold kernelReport
    repeat' first
      | intro _ | with_reducible assumption | with_reducible exact rfl | exact rfl | with_reducible apply report_keeps | dsimp only)

/-- What `absentReport` keeps. -/
theorem absentReport_keeps {m : Nat} {a : State} (s : State) (t : Nat) (inst : Nat) (h : Keeps m a s)
    (hm : Sub 0x8002000e200 m) : Keeps m a (absentReport s t inst) :=
  keeps_lift h hm (by
    have h : Keeps 0x8002000e200 s s := keeps_refl _ _
    unfold absentReport
    repeat' first
      | intro _ | with_reducible assumption | with_reducible exact rfl | exact rfl | exact Or.inl rfl | with_reducible exact Or.inr rfl
      | exact Or.inr rfl | with_reducible apply report_keeps | simp only [↓keepsMk_eq] | with_reducible apply keepsMk_intro | dsimp only)

/-- What `kClear` keeps. -/
theorem kClear_keeps {m : Nat} {a : State} (s : State) (k : Nat) (h : Keeps m a s)
    (hm : Sub 0x20000000000 m) : Keeps m a (kClear s k) :=
  keeps_lift h hm (by
    have h : Keeps 0x20000000000 s s := keeps_refl _ _
    unfold kClear
    repeat' first
      | intro _ | with_reducible assumption | with_reducible exact rfl | exact rfl | exact Or.inl rfl | with_reducible exact Or.inr rfl
      | exact Or.inr rfl | with_reducible apply setReg_keeps | dsimp only)

/-- What `chanResvMod` keeps. -/
theorem chanResvMod_keeps {m : Nat} {a : State} (s : State) (q : Nat) (f : Nat → Nat) (h : Keeps m a s)
    (hm : Sub 0x1000000 m) : Keeps m a (chanResvMod s q f) :=
  keeps_lift h hm (by
    have h : Keeps 0x1000000 s s := keeps_refl _ _
    unfold chanResvMod
    repeat' first
      | intro _ | with_reducible assumption | with_reducible exact rfl | exact rfl | exact Or.inl rfl | with_reducible exact Or.inr rfl
      | exact Or.inr rfl | simp only [↓keepsMk_eq] | with_reducible apply keepsMk_intro | dsimp only | split)

/-- What `chanCells` keeps. -/
theorem chanCells_keeps0 {a : State} (s : State) (q : Nat) (n : Nat) (x1 : Nat) (h : Keeps 0x4000 a s) :
    KO 0x4000 a (chanCells s q n x1) := by
  induction x1 generalizing s q n with
  | zero =>
    unfold chanCells
    repeat' first
      | intro _ | with_reducible assumption | with_reducible exact rfl | exact rfl | with_reducible apply ko_map
      | with_reducible apply ko_bind | with_reducible apply keeps_getD | with_reducible apply ko_some | with_reducible exact ko_none
      | with_reducible apply sqmCell_keeps | with_reducible apply keeps_ite | dsimp only | split | cases ‹_ + 1 = _ + 1›
      | refine ko_get ?_ (by with_reducible assumption)
  | succ _ ih =>
    unfold chanCells
    repeat' first
      | intro _ | with_reducible assumption | with_reducible exact rfl | exact rfl | with_reducible apply ih
      | with_reducible apply ko_map | with_reducible apply ko_bind | with_reducible apply keeps_getD | with_reducible apply ko_some
      | with_reducible exact ko_none | with_reducible apply sqmCell_keeps | with_reducible apply keeps_ite | dsimp only | split
      | cases ‹_ + 1 = _ + 1› | refine ko_get ?_ (by with_reducible assumption)

/-- The same within a greater set. -/
theorem chanCells_keeps {m : Nat} {a : State} (s : State) (q : Nat) (n : Nat) (x1 : Nat) (h : Keeps m a s)
    (hm : Sub 0x4000 m) : KO m a (chanCells s q n x1) :=
  ko_lift h hm (chanCells_keeps0 s q n x1 (keeps_refl _ _))

/-- What `chanReserve` keeps. -/
theorem chanReserve_keeps {m : Nat} {a : State} (s : State) (q : Nat) (n : Nat) (h : Keeps m a s)
    (hm : Sub 0x1004000 m) : KO m a (chanReserve s q n) :=
  ko_lift h hm (by
    have h : Keeps 0x1004000 s s := keeps_refl _ _
    unfold chanReserve
    repeat' first
      | intro _ | with_reducible assumption | with_reducible exact rfl | exact rfl | exact Or.inl rfl | with_reducible exact Or.inr rfl
      | exact Or.inr rfl | with_reducible apply ko_map | with_reducible apply ko_bind | with_reducible apply keeps_getD
      | with_reducible apply ko_some | with_reducible exact ko_none | with_reducible apply chanResvMod_keeps
      | with_reducible apply chanCells_keeps | with_reducible apply keeps_ite | simp only [↓keepsMk_eq]
      | with_reducible apply keepsMk_intro | dsimp only | split | refine ko_get ?_ (by with_reducible assumption))

/-- What `reserveAll` keeps. -/
theorem reserveAll_keeps0 {a : State} (s : State) (ch : Nat) (n : Nat) (x1 : List Nat) (h : Keeps 0x1004000 a s) :
    KO 0x1004000 a (reserveAll s ch n x1) := by
  induction x1 generalizing s ch n with
  | nil =>
    unfold reserveAll
    repeat' first
      | intro _ | with_reducible assumption | with_reducible exact rfl | exact rfl | with_reducible apply ko_map
      | with_reducible apply ko_bind | with_reducible apply keeps_getD | with_reducible apply ko_some | with_reducible exact ko_none
      | with_reducible apply chanReserve_keeps | dsimp only | split | cases ‹_ :: _ = _ :: _›
      | refine ko_get ?_ (by with_reducible assumption)
  | cons _ _ ih =>
    unfold reserveAll
    repeat' first
      | intro _ | with_reducible assumption | with_reducible exact rfl | exact rfl | with_reducible apply ih
      | with_reducible apply ko_map | with_reducible apply ko_bind | with_reducible apply keeps_getD | with_reducible apply ko_some
      | with_reducible exact ko_none | with_reducible apply chanReserve_keeps | dsimp only | split | cases ‹_ :: _ = _ :: _›
      | refine ko_get ?_ (by with_reducible assumption)

/-- The same within a greater set. -/
theorem reserveAll_keeps {m : Nat} {a : State} (s : State) (ch : Nat) (n : Nat) (x1 : List Nat) (h : Keeps m a s)
    (hm : Sub 0x1004000 m) : KO m a (reserveAll s ch n x1) :=
  ko_lift h hm (reserveAll_keeps0 s ch n x1 (keeps_refl _ _))

/-- What `chanPut` keeps. -/
theorem chanPut_keeps {m : Nat} {a : State} (s : State) (q : Nat) (ws : List SqmWord) (h : Keeps m a s)
    (hm : Sub 0x1004000 m) : Keeps m a (chanPut s q ws) :=
  keeps_lift h hm (by
    have h : Keeps 0x1004000 s s := keeps_refl _ _
    unfold chanPut
    repeat' first
      | intro _ | with_reducible assumption | with_reducible exact rfl | exact rfl | exact Or.inl rfl | with_reducible exact Or.inr rfl
      | exact Or.inr rfl | with_reducible apply sqmMod_keeps | with_reducible apply chanResvMod_keeps | simp only [↓keepsMk_eq]
      | with_reducible apply keepsMk_intro | dsimp only | split)

/-- What `chanDrop` keeps. -/
theorem chanDrop_keeps0 {a : State} (s : State) (q : Nat) (x1 : Nat) (h : Keeps 0x8002000e200 a s) :
    Keeps 0x8002000e200 a (chanDrop s q x1) := by
  induction x1 generalizing s q with
  | zero =>
    unfold chanDrop
    repeat' first
      | intro _ | with_reducible assumption | with_reducible exact rfl | exact rfl | with_reducible apply ko_map
      | with_reducible apply ko_bind | with_reducible apply keeps_getD | with_reducible apply sqmPop_keeps
      | with_reducible apply keeps_ite | dsimp only | split | cases ‹_ + 1 = _ + 1› | refine kq_get ?_ (by with_reducible assumption)
      | refine kq_get1 ?_ (by with_reducible assumption)
  | succ _ ih =>
    unfold chanDrop
    repeat' first
      | intro _ | with_reducible assumption | with_reducible exact rfl | exact rfl | with_reducible apply ih
      | with_reducible apply ko_map | with_reducible apply ko_bind | with_reducible apply keeps_getD | with_reducible apply sqmPop_keeps
      | with_reducible apply keeps_ite | dsimp only | split | cases ‹_ + 1 = _ + 1› | refine kq_get ?_ (by with_reducible assumption)
      | refine kq_get1 ?_ (by with_reducible assumption)

/-- The same within a greater set. -/
theorem chanDrop_keeps {m : Nat} {a : State} (s : State) (q : Nat) (x1 : Nat) (h : Keeps m a s)
    (hm : Sub 0x8002000e200 m) : Keeps m a (chanDrop s q x1) :=
  keeps_lift h hm (chanDrop_keeps0 s q x1 (keeps_refl _ _))

/-- What `dispatch` keeps. -/
theorem dispatch_keeps {m : Nat} {a : State} (s : State) (c : Nat) (msn : Nat) (region : Nat) (k : Nat) (argLen : Nat) (replyMax : Nat) (h : Keeps m a s)
    (hm : Sub 0x1004000 m) : KO m a (dispatch s c msn region k argLen replyMax) :=
  ko_lift h hm (by
    have h : Keeps 0x1004000 s s := keeps_refl _ _
    unfold dispatch
    repeat' first
      | intro _ | with_reducible assumption | with_reducible exact rfl | exact rfl | exact Or.inl rfl | with_reducible exact Or.inr rfl
      | exact Or.inr rfl | with_reducible apply ko_map | with_reducible apply ko_bind | with_reducible apply keeps_getD
      | with_reducible apply ko_some | with_reducible exact ko_none | with_reducible apply reserveAll_keeps
      | with_reducible apply keeps_ite | simp only [↓keepsMk_eq] | with_reducible apply keepsMk_intro | dsimp only | split
      | refine ko_get ?_ (by with_reducible assumption))

/-- What `invMod` keeps. -/
theorem invMod_keeps {m : Nat} {a : State} (s : State) (h : Nat) (f : Invocation → Invocation) (h0 : Keeps m a s)
    (hm : Sub 0x1000000 m) : Keeps m a (invMod s h f) :=
  keeps_lift h0 hm (by
    have h0 : Keeps 0x1000000 s s := keeps_refl _ _
    unfold invMod
    repeat' first
      | intro _ | with_reducible assumption | with_reducible exact rfl | exact rfl | exact Or.inl rfl | with_reducible exact Or.inr rfl
      | exact Or.inr rfl | with_reducible apply keeps_ite | simp only [↓keepsMk_eq] | with_reducible apply keepsMk_intro | dsimp only
      | split)

/-- What `writeRecords` keeps. -/
theorem writeRecords_keeps0 {a : State} (s : State) (h : Nat) (i : Invocation) (args : List SqmWord) (x1 : Nat) (x2 : List Nat) (h0 : Keeps 0x1004000 a s) :
    Keeps 0x1004000 a (writeRecords s h i args x1 x2) := by
  induction x2 generalizing s h i args x1 with
  | nil =>
    unfold writeRecords
    repeat' first
      | intro _ | with_reducible assumption | with_reducible exact rfl | exact rfl | exact Or.inl rfl | with_reducible exact Or.inr rfl
      | exact Or.inr rfl | with_reducible apply ko_map | with_reducible apply ko_bind | with_reducible apply keeps_getD
      | with_reducible apply chanPut_keeps | with_reducible apply keeps_ite | simp only [↓keepsMk_eq]
      | with_reducible apply keepsMk_intro | dsimp only | split | cases ‹_ :: _ = _ :: _›
  | cons _ _ ih =>
    unfold writeRecords
    repeat' first
      | intro _ | with_reducible assumption | with_reducible exact rfl | exact rfl | exact Or.inl rfl | with_reducible exact Or.inr rfl
      | exact Or.inr rfl | with_reducible apply ih | with_reducible apply ko_map | with_reducible apply ko_bind
      | with_reducible apply keeps_getD | with_reducible apply chanPut_keeps | with_reducible apply keeps_ite | simp only [↓keepsMk_eq]
      | with_reducible apply keepsMk_intro | dsimp only | split | cases ‹_ :: _ = _ :: _›

/-- The same within a greater set. -/
theorem writeRecords_keeps {m : Nat} {a : State} (s : State) (h : Nat) (i : Invocation) (args : List SqmWord) (x1 : Nat) (x2 : List Nat) (h0 : Keeps m a s)
    (hm : Sub 0x1004000 m) : Keeps m a (writeRecords s h i args x1 x2) :=
  keeps_lift h0 hm (writeRecords_keeps0 s h i args x1 x2 (keeps_refl _ _))

/-- What `fixOutcome` keeps. -/
theorem fixOutcome_keeps {m : Nat} {a : State} (s : State) (h : Nat) (status0 : Nat) (h0 : Keeps m a s)
    (hm : Sub 0x42271e2200 m) : Keeps m a (fixOutcome s h status0) :=
  keeps_lift h0 hm (by
    have h0 : Keeps 0x42271e2200 s s := keeps_refl _ _
    unfold fixOutcome
    repeat' first
      | intro _ | with_reducible assumption | with_reducible exact rfl | exact rfl | exact Or.inl rfl | with_reducible exact Or.inr rfl
      | exact Or.inr rfl | with_reducible apply invMod_keeps | with_reducible apply finishRecv_keeps | with_reducible apply sendAck_keeps
      | with_reducible apply connMod_keeps | with_reducible apply keeps_ite | simp only [↓keepsMk_eq]
      | with_reducible apply keepsMk_intro | dsimp only | split)

/-- What `tileIdle` keeps. -/
theorem tileIdle_keeps {m : Nat} {a : State} (s : State) (t : Nat) (h : Keeps m a s)
    (hm : Sub 0x1000000 m) : Keeps m a (tileIdle s t) :=
  keeps_lift h hm (by
    have h : Keeps 0x1000000 s s := keeps_refl _ _
    unfold tileIdle
    repeat' first
      | intro _ | with_reducible assumption | with_reducible exact rfl | exact rfl | exact Or.inl rfl | with_reducible exact Or.inr rfl
      | exact Or.inr rfl | with_reducible apply tileMod_keeps | with_reducible apply keeps_ite | simp only [↓keepsMk_eq]
      | with_reducible apply keepsMk_intro | dsimp only | split)

/-- What `tileStop` keeps. -/
theorem tileStop_keeps {m : Nat} {a : State} (s : State) (t : Nat) (h : Keeps m a s)
    (hm : Sub 0x8002100e200 m) : Keeps m a (tileStop s t) :=
  keeps_lift h hm (by
    have h : Keeps 0x8002100e200 s s := keeps_refl _ _
    unfold tileStop
    repeat' first
      | intro _ | with_reducible assumption | with_reducible exact rfl | exact rfl | exact Or.inl rfl | with_reducible exact Or.inr rfl
      | exact Or.inr rfl | with_reducible apply chanDrop_keeps | with_reducible apply tileIdle_keeps | with_reducible apply tileMod_keeps
      | simp only [↓keepsMk_eq] | with_reducible apply keepsMk_intro | dsimp only | split)

/-- What `invLeave` keeps. -/
theorem invLeave_keeps {m : Nat} {a : State} (s : State) (h : Nat) (t : Nat) (h0 : Keeps m a s)
    (hm : Sub 0x1000000 m) : Keeps m a (invLeave s h t) :=
  keeps_lift h0 hm (by
    have h0 : Keeps 0x1000000 s s := keeps_refl _ _
    unfold invLeave
    repeat' first
      | intro _ | with_reducible assumption | with_reducible exact rfl | exact rfl | exact Or.inl rfl | with_reducible exact Or.inr rfl
      | exact Or.inr rfl | with_reducible apply invMod_keeps | simp only [↓keepsMk_eq] | with_reducible apply keepsMk_intro | dsimp only
      | split)

/-- What `dropRecord` keeps. -/
theorem dropRecord_keeps {m : Nat} {a : State} (s : State) (h : Nat) (i : Invocation) (t : Nat) (h0 : Keeps m a s)
    (hm : Sub 0x1004000 m) : Keeps m a (dropRecord s h i t) :=
  keeps_lift h0 hm (by
    have h0 : Keeps 0x1004000 s s := keeps_refl _ _
    unfold dropRecord
    repeat' first
      | intro _ | with_reducible assumption | with_reducible exact rfl | exact rfl | exact Or.inl rfl | with_reducible exact Or.inr rfl
      | exact Or.inr rfl | with_reducible apply chanResvMod_keeps | with_reducible apply sqmMod_keeps | with_reducible apply keeps_ite
      | simp only [↓keepsMk_eq] | with_reducible apply keepsMk_intro | with_reducible apply keeps_foldl | dsimp only | split)

/-- What `stopRest` keeps. -/
theorem stopRest_keeps {m : Nat} {a : State} (s : State) (h : Nat) (i : Invocation) (h0 : Keeps m a s)
    (hm : Sub 0x8002100e200 m) : Keeps m a (stopRest s h i) :=
  keeps_lift h0 hm (by
    have h0 : Keeps 0x8002100e200 s s := keeps_refl _ _
    unfold stopRest
    repeat' first
      | intro _ | with_reducible assumption | with_reducible exact rfl | exact rfl | with_reducible apply invLeave_keeps
      | with_reducible apply tileStop_keeps | with_reducible apply dropRecord_keeps | with_reducible apply keeps_ite
      | with_reducible apply keeps_foldl | dsimp only | split)

/-- What `kernelDown` keeps. -/
theorem kernelDown_keeps {m : Nat} {a : State} (s : State) (t : Nat) (cause : Nat) (pc : Nat) (value : Nat) (counter : Nat) (sev : Nat) (h : Keeps m a s) (hr : HasReg 0xa42271ee200 counter)
    (hm : Sub 0xa42271ee200 m) : Keeps m a (kernelDown s t cause pc value counter sev) :=
  keeps_lift h hm (by
    have h : Keeps 0xa42271ee200 s s := keeps_refl _ _
    unfold kernelDown
    repeat' first
      | intro _ | with_reducible assumption | with_reducible exact rfl | exact rfl | exact Or.inl rfl | with_reducible exact Or.inr rfl
      | exact Or.inr rfl | with_reducible apply kernelReport_keeps | with_reducible apply invLeave_keeps
      | with_reducible apply tileStop_keeps | with_reducible apply fixOutcome_keeps | with_reducible apply bumpFn_keeps
      | with_reducible apply stopRest_keeps | with_reducible apply keeps_ite | simp only [↓keepsMk_eq]
      | with_reducible apply keepsMk_intro | dsimp only | split)

/-- What `trap` keeps. -/
theorem trap_keeps {m : Nat} {a : State} (s : State) (t : Nat) (cause : Nat) (value : Nat) (h : Keeps m a s)
    (hm : Sub 0xa42271ee200 m) : Keeps m a (trap s t cause value) :=
  keeps_lift h hm (by
    have h : Keeps 0xa42271ee200 s s := keeps_refl _ _
    unfold trap
    repeat' first
      | intro _ | with_reducible assumption | with_reducible exact rfl | exact rfl | exact Or.inl rfl | with_reducible exact Or.inr rfl
      | exact Or.inr rfl | with_reducible apply kernelDown_keeps | dsimp only)

/-- What `endCheck` keeps. -/
theorem endCheck_keeps {m : Nat} {a : State} (s : State) (h : Nat) (h0 : Keeps m a s)
    (hm : Sub 0x42271e2200 m) : Keeps m a (endCheck s h) :=
  keeps_lift h0 hm (by
    have h0 : Keeps 0x42271e2200 s s := keeps_refl _ _
    unfold endCheck
    repeat' first
      | intro _ | with_reducible assumption | with_reducible exact rfl | exact rfl | with_reducible apply fixOutcome_keeps
      | with_reducible apply keeps_ite | dsimp only | split)

/-- What `execInvokeRecordWrite` keeps. -/
theorem execInvokeRecordWrite_keeps {m : Nat} {a : State} (c : Nat) (msn : Nat) (s : State) (h : Keeps m a s)
    (hm : Sub 0x42271e6200 m) : KN m a (execInvokeRecordWrite c msn s) :=
  kn_lift h hm (by
    have h : Keeps 0x42271e6200 s s := keeps_refl _ _
    unfold execInvokeRecordWrite
    repeat' first
      | intro _ | with_reducible assumption | with_reducible exact rfl | exact rfl | exact Or.inl rfl | with_reducible exact Or.inr rfl
      | exact Or.inr rfl | with_reducible apply kn_next | with_reducible apply writeRecords_keeps | with_reducible apply invMod_keeps
      | with_reducible apply finishRecv_keeps | with_reducible apply keeps_ite | simp only [↓keepsMk_eq]
      | with_reducible apply keepsMk_intro | dsimp only | split)

/-- What `execTileStart` keeps. -/
theorem execTileStart_keeps {m : Nat} {a : State} (t : Nat) (ch : Nat) (s : State) (h : Keeps m a s)
    (hm : Sub 0xa002100e200 m) : KN m a (execTileStart t ch s) :=
  kn_lift h hm (by
    have h : Keeps 0xa002100e200 s s := keeps_refl _ _
    unfold execTileStart
    repeat' first
      | intro _ | with_reducible assumption | with_reducible exact rfl | exact rfl | exact Or.inl rfl | with_reducible exact Or.inr rfl
      | exact Or.inr rfl | with_reducible apply kn_next | with_reducible apply chanDrop_keeps | with_reducible apply bumpFn_keeps
      | with_reducible apply tileMod_keeps | with_reducible apply keeps_ite | simp only [↓keepsMk_eq]
      | with_reducible apply keepsMk_intro | with_reducible apply keeps_foldl | dsimp only | split)

/-- What `execKernelLimit` keeps. -/
theorem execKernelLimit_keeps {m : Nat} {a : State} (t : Nat) (s : State) (h : Keeps m a s)
    (hm : Sub 0xa42271ee200 m) : KN m a (execKernelLimit t s) :=
  kn_lift h hm (by
    have h : Keeps 0xa42271ee200 s s := keeps_refl _ _
    unfold execKernelLimit
    repeat' first
      | intro _ | with_reducible assumption | with_reducible exact rfl | exact rfl | exact Or.inl rfl | with_reducible exact Or.inr rfl
      | exact Or.inr rfl | with_reducible apply kn_next | with_reducible apply kernelDown_keeps | with_reducible apply keeps_ite
      | dsimp only | split)

/-- What `execInvocationEnd` keeps. -/
theorem execInvocationEnd_keeps {m : Nat} {a : State} (h : Nat) (s : State) (h0 : Keeps m a s)
    (hm : Sub 0x1004000 m) : KN m a (execInvocationEnd h s) :=
  kn_lift h0 hm (by
    have h0 : Keeps 0x1004000 s s := keeps_refl _ _
    unfold execInvocationEnd
    repeat' first
      | intro _ | with_reducible assumption | with_reducible exact rfl | exact rfl | exact Or.inl rfl | with_reducible exact Or.inr rfl
      | exact Or.inr rfl | with_reducible apply kn_next | with_reducible apply dropRecord_keeps | with_reducible apply keeps_ite
      | simp only [↓keepsMk_eq] | with_reducible apply keepsMk_intro | with_reducible apply keeps_foldl | dsimp only | split)

/-- What `execTileFailure` keeps. -/
theorem execTileFailure_keeps {m : Nat} {a : State} (t : Nat) (s : State) (h : Keeps m a s)
    (hm : Sub 0xa42271ee200 m) : KN m a (execTileFailure t s) :=
  kn_lift h hm (by
    have h : Keeps 0xa42271ee200 s s := keeps_refl _ _
    unfold execTileFailure
    repeat' first
      | intro _ | with_reducible assumption | with_reducible exact rfl | exact rfl | exact Or.inl rfl | with_reducible exact Or.inr rfl
      | exact Or.inr rfl | with_reducible apply kn_next | with_reducible apply kernelDown_keeps | with_reducible apply kernelReport_keeps
      | with_reducible apply stopRest_keeps | with_reducible apply fixOutcome_keeps | with_reducible apply kClear_keeps
      | with_reducible apply endTransfers_keeps | with_reducible apply spareReport_keeps | with_reducible apply tileMod_keeps
      | with_reducible apply absentReport_keeps | with_reducible apply keeps_ite | simp only [↓keepsMk_eq]
      | with_reducible apply keepsMk_intro | with_reducible apply keeps_foldl | dsimp only | split)

/-- What `tileClear` keeps. -/
theorem tileClear_keeps {m : Nat} {a : State} (s : State) (t : Nat) (h : Keeps m a s)
    (hm : Sub 0x108002100e200 m) : Keeps m a (tileClear s t) :=
  keeps_lift h hm (by
    have h : Keeps 0x108002100e200 s s := keeps_refl _ _
    unfold tileClear
    repeat' first
      | intro _ | with_reducible assumption | with_reducible exact rfl | exact rfl | exact Or.inl rfl | with_reducible exact Or.inr rfl
      | exact Or.inr rfl | with_reducible apply zeroRange_keeps | with_reducible apply sqmClear_keeps
      | with_reducible apply sqmStartClear_keeps | simp only [↓keepsMk_eq] | with_reducible apply keepsMk_intro
      | with_reducible apply keeps_foldl | dsimp only | split)

/-- What `execTileRemapDone` keeps. -/
theorem execTileRemapDone_keeps {m : Nat} {a : State} (t : Nat) (s : State) (h : Keeps m a s)
    (hm : Sub 0x20001004000 m) : KN m a (execTileRemapDone t s) :=
  kn_lift h hm (by
    have h : Keeps 0x20001004000 s s := keeps_refl _ _
    unfold execTileRemapDone
    repeat' first
      | intro _ | with_reducible assumption | with_reducible exact rfl | exact rfl | exact Or.inl rfl | with_reducible exact Or.inr rfl
      | exact Or.inr rfl | with_reducible apply kn_next | with_reducible apply bump_keeps | with_reducible apply tileMod_keeps
      | with_reducible apply keeps_ite | simp only [↓keepsMk_eq] | with_reducible apply keepsMk_intro | dsimp only | split)

/-- What `tileStartClear` keeps. -/
theorem tileStartClear_keeps {m : Nat} {a : State} (s : State) (t : Nat) (h : Keeps m a s)
    (hm : Sub 0x1014000 m) : Keeps m a (tileStartClear s t) :=
  keeps_lift h hm (by
    have h : Keeps 0x1014000 s s := keeps_refl _ _
    unfold tileStartClear
    repeat' first
      | intro _ | with_reducible assumption | with_reducible exact rfl | exact rfl | exact Or.inl rfl | with_reducible exact Or.inr rfl
      | exact Or.inr rfl | with_reducible apply sqmStartClear_keeps | with_reducible apply tileMod_keeps | simp only [↓keepsMk_eq]
      | with_reducible apply keepsMk_intro | with_reducible apply keeps_foldl | dsimp only | split)

end Sys2Proof.Laws
end

