-- ==== Sys2Proof/Laws/KeepsTpeRecv.lean ====
section
/-! SUPPORT. Every definition of Machine/TpeRecv.lean keeps what `Keeps` says. -/
namespace Sys2Proof.Laws
open Sys2Proof.Machine Sys2Proof.Safety

/-- What `arrive` keeps. -/
theorem arrive_keeps {m : Nat} {a : State} (s : State) (k : Packet) (h : Keeps m a s)
    (hm : Sub 0x804080000 m) : Keeps m a (arrive s k) :=
  keeps_lift h hm (by
    have h : Keeps 0x804080000 s s := keeps_refl _ _
    unfold arrive
    repeat' first
      | intro _ | with_reducible assumption | with_reducible exact rfl | exact rfl | exact Or.inl rfl | with_reducible exact Or.inr rfl
      | exact Or.inr rfl | with_reducible apply touchContext_keeps | with_reducible apply reclaimUnit_keeps
      | with_reducible apply keeps_ite | simp only [↓keepsMk_eq] | with_reducible apply keepsMk_intro | with_reducible apply keeps_foldl
      | dsimp only | split)

/-- What `gate` keeps. -/
theorem gate_keeps {m : Nat} {a : State} (s : State) (k : Packet) (h : Keeps m a s)
    (hm : Sub 0x4824182200 m) : Keeps m a (gate s k).1 :=
  keeps_lift h hm (by
    have h : Keeps 0x4824182200 s s := keeps_refl _ _
    unfold gate
    repeat' first
      | intro _ | with_reducible assumption | with_reducible exact rfl | exact rfl | exact Or.inl rfl | with_reducible exact Or.inr rfl
      | exact Or.inr rfl | with_reducible apply deadCell_keeps | with_reducible apply bumpFn_keeps | with_reducible apply keeps_ite
      | dsimp only | split)

/-- What `mismatch` keeps. -/
theorem mismatch_keeps {m : Nat} {a : State} (s : State) (c : Nat) (h : Keeps m a s)
    (hm : Sub 0x800000000 m) : Keeps m a (mismatch s c) :=
  keeps_lift h hm (by
    have h : Keeps 0x800000000 s s := keeps_refl _ _
    unfold mismatch
    repeat' first
      | intro _ | with_reducible assumption | with_reducible exact rfl | exact rfl | exact Or.inl rfl | with_reducible exact Or.inr rfl
      | exact Or.inr rfl | with_reducible apply bumpFn_keeps | simp only [↓keepsMk_eq] | with_reducible apply keepsMk_intro | dsimp only
      | split)

/-- What `takeImplicit` keeps. -/
theorem takeImplicit_keeps {μ : Nat} {a : State} (s : State) (c : Nat) (m : RecvMsg) (h : Keeps μ a s)
    (hm : Sub 0x80000 μ) : Keeps μ a (takeImplicit s c m) :=
  keeps_lift h hm (by
    have h : Keeps 0x80000 s s := keeps_refl _ _
    unfold takeImplicit
    repeat' first
      | intro _ | with_reducible assumption | with_reducible exact rfl | exact rfl | exact Or.inl rfl | with_reducible exact Or.inr rfl
      | exact Or.inr rfl | with_reducible apply connMod_keeps | with_reducible apply keeps_ite | simp only [↓keepsMk_eq]
      | with_reducible apply keepsMk_intro | dsimp only | split)

/-- What `admitMsg` keeps. -/
theorem admitMsg_keeps {μ : Nat} {a : State} (s : State) (c : Nat) (m : RecvMsg) (h : Keeps μ a s)
    (hm : Sub 0x20a0000 μ) : Keeps μ a (admitMsg s c m) :=
  keeps_lift h hm (by
    have h : Keeps 0x20a0000 s s := keeps_refl _ _
    unfold admitMsg
    repeat' first
      | intro _ | with_reducible assumption | with_reducible exact rfl | exact rfl | exact Or.inl rfl | with_reducible exact Or.inr rfl
      | exact Or.inr rfl | with_reducible apply admitTake_keeps | with_reducible apply forgetRecords_keeps
      | with_reducible apply takeImplicit_keeps | with_reducible apply connMod_keeps | with_reducible apply keeps_ite
      | simp only [↓keepsMk_eq] | with_reducible apply keepsMk_intro | dsimp only | split)

/-- What `startInvoke` keeps. -/
theorem startInvoke_keeps {μ : Nat} {a : State} (s : State) (c : Nat) (m : RecvMsg) (h : Keeps μ a s)
    (hm : Sub 0x246271e6200 μ) : Keeps μ a (startInvoke s c m) :=
  keeps_lift h hm (by
    have h : Keeps 0x246271e6200 s s := keeps_refl _ _
    unfold startInvoke
    repeat' first
      | intro _ | with_reducible assumption | with_reducible exact rfl | exact rfl | exact Or.inl rfl | with_reducible exact Or.inr rfl
      | exact Or.inr rfl | with_reducible apply ko_map | with_reducible apply ko_bind | with_reducible apply keeps_getD
      | with_reducible apply ko_some | with_reducible exact ko_none | with_reducible apply bumpFn_keeps
      | with_reducible apply dispatch_keeps | with_reducible apply failRecv_keeps | with_reducible apply recvMod_keeps
      | with_reducible apply keeps_ite | simp only [↓keepsMk_eq] | with_reducible apply keepsMk_intro | dsimp only | split
      | refine ko_get ?_ (by with_reducible assumption))

/-- What `noRoom` keeps. -/
theorem noRoom_keeps {μ : Nat} {a : State} (s : State) (c : Nat) (m : RecvMsg) (h : Keeps μ a s)
    (hm : Sub 0x20801004000 μ) : KO μ a (noRoom s c m) :=
  ko_lift h hm (by
    have h : Keeps 0x20801004000 s s := keeps_refl _ _
    unfold noRoom
    repeat' first
      | intro _ | with_reducible assumption | with_reducible exact rfl | exact rfl | exact Or.inl rfl | with_reducible exact Or.inr rfl
      | exact Or.inr rfl | with_reducible apply ko_map | with_reducible apply ko_bind | with_reducible apply keeps_getD
      | with_reducible apply ko_some | with_reducible exact ko_none | with_reducible apply bumpFn_keeps
      | with_reducible apply chanReserve_keeps | with_reducible apply keeps_ite | simp only [↓keepsMk_eq]
      | with_reducible apply keepsMk_intro | dsimp only | split | refine ko_get ?_ (by with_reducible assumption))

/-- What `noteRefused` keeps. -/
theorem noteRefused_keeps {μ : Nat} {a : State} (s : State) (m : RecvMsg) (h : Keeps μ a s)
    (hm : Sub 0x20400000000 μ) : Keeps μ a (noteRefused s m) :=
  keeps_lift h hm (by
    have h : Keeps 0x20400000000 s s := keeps_refl _ _
    unfold noteRefused
    repeat' first
      | intro _ | with_reducible assumption | with_reducible exact rfl | exact rfl | exact Or.inl rfl | with_reducible exact Or.inr rfl
      | exact Or.inr rfl | with_reducible apply bumpFn_keeps | with_reducible apply keeps_ite | dsimp only | split)

/-- What `admitHead` keeps. -/
theorem admitHead_keeps {μ : Nat} {a : State} (s : State) (c : Nat) (k : Packet) (m : RecvMsg) (h : Keeps μ a s)
    (hm : Sub 0x24e271e6200 μ) : Keeps μ a (admitHead s c k m).1 :=
  keeps_lift h hm (by
    have h : Keeps 0x24e271e6200 s s := keeps_refl _ _
    unfold admitHead
    repeat' first
      | intro _ | with_reducible assumption | with_reducible exact rfl | exact rfl | exact Or.inl rfl | with_reducible exact Or.inr rfl
      | exact Or.inr rfl | with_reducible apply ko_map | with_reducible apply ko_bind | with_reducible apply keeps_getD
      | with_reducible apply ko_some | with_reducible exact ko_none | with_reducible apply refuseHead_keeps
      | with_reducible apply noteRefused_keeps | with_reducible apply noRoom_keeps | with_reducible apply admitMsg_keeps
      | with_reducible apply startInvoke_keeps | with_reducible apply chanReserve_keeps | with_reducible apply keeps_ite
      | simp only [↓keepsMk_eq] | with_reducible apply keepsMk_intro | dsimp only | split
      | refine ko_get ?_ (by with_reducible assumption))

/-- What `forgetRecv` keeps. -/
theorem forgetRecv_keeps {μ : Nat} {a : State} (s : State) (c : Nat) (m : RecvMsg) (h : Keeps μ a s)
    (hm : Sub 0x42261e2200 μ) : Keeps μ a (forgetRecv s c m) :=
  keeps_lift h hm (by
    have h : Keeps 0x42261e2200 s s := keeps_refl _ _
    unfold forgetRecv
    repeat' first
      | intro _ | with_reducible assumption | with_reducible exact rfl | exact rfl | exact Or.inl rfl | with_reducible exact Or.inr rfl
      | exact Or.inr rfl | with_reducible apply releaseRecv_keeps | with_reducible apply dropStages_keeps
      | with_reducible apply dropPlacements_keeps | with_reducible apply dropEarly_keeps | with_reducible apply connMod_keeps
      | simp only [↓keepsMk_eq] | with_reducible apply keepsMk_intro | dsimp only | split)

/-- What `refuseRnr` keeps. -/
theorem refuseRnr_keeps {μ : Nat} {a : State} (s : State) (c : Nat) (m : RecvMsg) (h : Keeps μ a s)
    (hm : Sub 0x42261e2200 μ) : Keeps μ a (refuseRnr s c m) :=
  keeps_lift h hm (by
    have h : Keeps 0x42261e2200 s s := keeps_refl _ _
    unfold refuseRnr
    repeat' first
      | intro _ | with_reducible assumption | with_reducible exact rfl | exact rfl | exact Or.inl rfl | with_reducible exact Or.inr rfl
      | exact Or.inr rfl | with_reducible apply forgetRecv_keeps | with_reducible apply sendAck_keeps
      | with_reducible apply connMod_keeps | with_reducible apply keeps_ite | simp only [↓keepsMk_eq]
      | with_reducible apply keepsMk_intro | with_reducible apply keeps_foldl | dsimp only | split)

/-- What `giveEntry` keeps. -/
theorem giveEntry_keeps {μ : Nat} {a : State} (s : State) (c : Nat) (m : RecvMsg) (q : Nat) (e : Entry) (h : Keeps μ a s)
    (hm : Sub 0x42261e2200 μ) : Keeps μ a (giveEntry s c m q e) :=
  keeps_lift h hm (by
    have h : Keeps 0x42261e2200 s s := keeps_refl _ _
    unfold giveEntry
    repeat' first
      | intro _ | with_reducible assumption | with_reducible exact rfl | exact rfl | exact Or.inl rfl | with_reducible exact Or.inr rfl
      | exact Or.inr rfl | with_reducible apply entryMod_keeps | with_reducible apply connMod_keeps | with_reducible apply recvMod_keeps
      | with_reducible apply failRecv_keeps | with_reducible apply keeps_ite | simp only [↓keepsMk_eq]
      | with_reducible apply keepsMk_intro | dsimp only | split)

/-- What `assignRecv` keeps. -/
theorem assignRecv_keeps0 {a : State} (s : State) (c : Nat) (x1 : Nat) (h : Keeps 0x42261e2200 a s) :
    Keeps 0x42261e2200 a (assignRecv s c x1) := by
  induction x1 generalizing s c with
  | zero =>
    unfold assignRecv
    repeat' first
      | intro _ | with_reducible assumption | with_reducible exact rfl | exact rfl | with_reducible apply ko_map
      | with_reducible apply ko_bind | with_reducible apply keeps_getD | with_reducible apply refuseRnr_keeps
      | with_reducible apply giveEntry_keeps | with_reducible apply keeps_ite | dsimp only | split | cases ‹_ + 1 = _ + 1›
  | succ _ ih =>
    unfold assignRecv
    repeat' first
      | intro _ | with_reducible assumption | with_reducible exact rfl | exact rfl | with_reducible apply ih
      | with_reducible apply ko_map | with_reducible apply ko_bind | with_reducible apply keeps_getD
      | with_reducible apply refuseRnr_keeps | with_reducible apply giveEntry_keeps | with_reducible apply keeps_ite | dsimp only | split
      | cases ‹_ + 1 = _ + 1›

/-- The same within a greater set. -/
theorem assignRecv_keeps {m : Nat} {a : State} (s : State) (c : Nat) (x1 : Nat) (h : Keeps m a s)
    (hm : Sub 0x42261e2200 m) : Keeps m a (assignRecv s c x1) :=
  keeps_lift h hm (assignRecv_keeps0 s c x1 (keeps_refl _ _))

/-- What `openStages` keeps. -/
theorem openStages_keeps0 {a : State} (s : State) (t : Nat) (c : Nat) (msn : Nat) (resp : Bool) (segs : List (Nat × Nat)) (x1 : List (Target × Nat)) (h : Keeps 0x2000000 a s) :
    KO 0x2000000 a (openStages s t c msn resp segs x1) := by
  induction x1 generalizing s t c msn resp segs with
  | nil =>
    unfold openStages
    repeat' first
      | intro _ | with_reducible assumption | with_reducible exact rfl | exact rfl | exact Or.inl rfl | with_reducible exact Or.inr rfl
      | exact Or.inr rfl | with_reducible apply ko_map | with_reducible apply ko_bind | with_reducible apply keeps_getD
      | with_reducible apply ko_some | with_reducible exact ko_none | with_reducible apply keeps_ite | simp only [↓keepsMk_eq]
      | with_reducible apply keepsMk_intro | dsimp only | split | cases ‹_ :: _ = _ :: _›
  | cons _ _ ih =>
    unfold openStages
    repeat' first
      | intro _ | with_reducible assumption | with_reducible exact rfl | exact rfl | exact Or.inl rfl | with_reducible exact Or.inr rfl
      | exact Or.inr rfl | with_reducible apply ih | with_reducible apply ko_map | with_reducible apply ko_bind
      | with_reducible apply keeps_getD | with_reducible apply ko_some | with_reducible exact ko_none | with_reducible apply keeps_ite
      | simp only [↓keepsMk_eq] | with_reducible apply keepsMk_intro | dsimp only | split | cases ‹_ :: _ = _ :: _›

/-- The same within a greater set. -/
theorem openStages_keeps {m : Nat} {a : State} (s : State) (t : Nat) (c : Nat) (msn : Nat) (resp : Bool) (segs : List (Nat × Nat)) (x1 : List (Target × Nat)) (h : Keeps m a s)
    (hm : Sub 0x2000000 m) : KO m a (openStages s t c msn resp segs x1) :=
  ko_lift h hm (openStages_keeps0 s t c msn resp segs x1 (keeps_refl _ _))

/-- What `placeFailsAt` keeps. -/
theorem placeFailsAt_keeps {μ : Nat} {a : State} (s : State) (c : Nat) (m : RecvMsg) (status : Nat) (frag : Nat) (h : Keeps μ a s)
    (hm : Sub 0x842261ee200 μ) : Keeps μ a (placeFailsAt s c m status frag) :=
  keeps_lift h hm (by
    have h : Keeps 0x842261ee200 s s := keeps_refl _ _
    unfold placeFailsAt
    repeat' first
      | intro _ | with_reducible assumption | with_reducible exact rfl | exact rfl | with_reducible apply failRecvAt_keeps
      | with_reducible apply accessEvent_keeps | with_reducible apply keeps_ite | dsimp only | split)

/-- What `placeFails` keeps. -/
theorem placeFails_keeps {μ : Nat} {a : State} (s : State) (c : Nat) (m : RecvMsg) (status : Nat) (h : Keeps μ a s)
    (hm : Sub 0x842261ee200 μ) : Keeps μ a (placeFails s c m status) :=
  keeps_lift h hm (by
    have h : Keeps 0x842261ee200 s s := keeps_refl _ _
    unfold placeFails
    repeat' first
      | intro _ | with_reducible assumption | with_reducible exact rfl | exact rfl | with_reducible apply placeFailsAt_keeps | dsimp only)

/-- What `mirrorEntry` keeps. -/
theorem mirrorEntry_keeps {m : Nat} {a : State} (s : State) (c : Nat) (msn : Nat) (h : Keeps m a s)
    (hm : Sub 0x10c04220ae200 m) : Keeps m a (mirrorEntry s c msn) :=
  keeps_lift h hm (by
    have h : Keeps 0x10c04220ae200 s s := keeps_refl _ _
    unfold mirrorEntry
    repeat' first
      | intro _ | with_reducible assumption | with_reducible exact rfl | exact rfl | exact Or.inl rfl | with_reducible exact Or.inr rfl
      | exact Or.inr rfl | with_reducible apply twinWrite_keeps | with_reducible apply emit_keeps | with_reducible apply recvMod_keeps
      | simp only [↓keepsMk_eq] | with_reducible apply keepsMk_intro | dsimp only | split)

/-- What `landed` keeps. -/
theorem landed_keeps {m : Nat} {z : State} (s : State) (a : Nat) (n : Nat) (h : Keeps m z s)
    (hm : Sub 0x800000 m) : Keeps m z (landed s a n) :=
  keeps_lift h hm (by
    have h : Keeps 0x800000 s s := keeps_refl _ _
    unfold landed
    repeat' first
      | intro _ | with_reducible assumption | with_reducible exact rfl | exact rfl | exact Or.inl rfl | with_reducible exact Or.inr rfl
      | exact Or.inr rfl | with_reducible apply keeps_ite | simp only [↓keepsMk_eq] | with_reducible apply keepsMk_intro | dsimp only
      | split)

/-- What `finalize` keeps. -/
theorem finalize_keeps {m : Nat} {a : State} (s : State) (c : Nat) (msn : Nat) (h : Keeps m a s)
    (hm : Sub 0x10c46269ee200 m) : Keeps m a (finalize s c msn) :=
  keeps_lift h hm (by
    have h : Keeps 0x10c46269ee200 s s := keeps_refl _ _
    unfold finalize
    repeat' first
      | intro _ | with_reducible assumption | with_reducible exact rfl | exact rfl | exact Or.inl rfl | with_reducible exact Or.inr rfl
      | exact Or.inr rfl | with_reducible apply flushReads_keeps | with_reducible apply recvMod_keeps
      | with_reducible apply releaseRecv_keeps | with_reducible apply cachePutResp_keeps | with_reducible apply mirrorEntry_keeps
      | with_reducible apply finishRecv_keeps | with_reducible apply landed_keeps | with_reducible apply keeps_ite
      | simp only [↓keepsMk_eq] | with_reducible apply keepsMk_intro | dsimp only | split)

/-- What `tileMessage` keeps. -/
theorem tileMessage_keeps {μ : Nat} {a : State} (s : State) (c : Nat) (m : RecvMsg) (h : Keeps μ a s)
    (hm : Sub 0x42271e6200 μ) : Keeps μ a (tileMessage s c m) :=
  keeps_lift h hm (by
    have h : Keeps 0x42271e6200 s s := keeps_refl _ _
    unfold tileMessage
    repeat' first
      | intro _ | with_reducible assumption | with_reducible exact rfl | exact rfl | with_reducible apply finishRecv_keeps
      | with_reducible apply chanPut_keeps | dsimp only | split)

/-- What `recvPlaced` keeps. -/
theorem recvPlaced_keeps {m : Nat} {a : State} (s : State) (c : Nat) (msn : Nat) (h : Keeps m a s)
    (hm : Sub 0x10c46279ee200 m) : Keeps m a (recvPlaced s c msn) :=
  keeps_lift h hm (by
    have h : Keeps 0x10c46279ee200 s s := keeps_refl _ _
    unfold recvPlaced
    repeat' first
      | intro _ | with_reducible assumption | with_reducible exact rfl | exact rfl | with_reducible apply tileMessage_keeps
      | with_reducible apply finalize_keeps | with_reducible apply keeps_ite | dsimp only | split)

/-- What `placeUnit` keeps. -/
theorem placeUnit_keeps {μ : Nat} {a : State} (s : State) (c : Nat) (m : RecvMsg) (off : Nat) (b : List Byte) (poison : Marks) (k : Packet) (h : Keeps μ a s)
    (hm : Sub 0x11c5e279ee200 μ) : Keeps μ a (placeUnit s c m off b poison k).1 :=
  keeps_lift h hm (by
    have h : Keeps 0x11c5e279ee200 s s := keeps_refl _ _
    unfold placeUnit
    repeat' first
      | intro _ | with_reducible assumption | with_reducible exact rfl | exact rfl | exact Or.inl rfl | with_reducible exact Or.inr rfl
      | exact Or.inr rfl | with_reducible apply ko_map | with_reducible apply ko_bind | with_reducible apply keeps_getD
      | with_reducible apply ko_some | with_reducible exact ko_none | with_reducible apply bumpFn_keeps
      | with_reducible apply recvPlaced_keeps | with_reducible apply recvMod_keeps | with_reducible apply placeQueue_keeps
      | with_reducible apply issueSegs_keeps | with_reducible apply stall_keeps | with_reducible apply placeDone_keeps
      | with_reducible apply placeFailsAt_keeps | with_reducible apply failRecv_keeps | with_reducible apply endXfer_keeps
      | with_reducible apply openStages_keeps | with_reducible apply keeps_ite | simp only [↓keepsMk_eq]
      | with_reducible apply keepsMk_intro | dsimp only | split | refine ko_get ?_ (by with_reducible assumption)
      | refine kq_get ?_ (by with_reducible assumption) | refine kq_get1 ?_ (by with_reducible assumption))

/-- What `eachUnit` keeps. -/
theorem eachUnit_keeps {m : Nat} {a : State} {f : State → Nat → List Byte → State × Place} (s : State) (l : List (Nat × List Byte))
    (h : Keeps m a s) (g : ∀ t o b, Keeps m a t → Keeps m a (f t o b).1) : Keeps m a (eachUnit f s l).1 := by
  induction l generalizing s with
  | nil => exact h
  | cons x r ih =>
    unfold eachUnit
    have k := g s x.1 x.2 h
    split
    · rename_i e
      rw [e] at k
      exact ih _ k
    · exact k

/-- What `takeData.keepEarly` keeps. -/
theorem takeData.keepEarly_keeps {m : Nat} {a : State} (s : State) (c : Nat) (x : Cell) (t : Nat) (h : Keeps m a s)
    (hm : Sub 0x800080000 m) : Keeps m a (takeData.keepEarly s c x t) :=
  keeps_lift h hm (by
    have h : Keeps 0x800080000 s s := keeps_refl _ _
    unfold takeData.keepEarly
    repeat' first
      | intro _ | with_reducible assumption | with_reducible exact rfl | exact rfl | exact Or.inl rfl | with_reducible exact Or.inr rfl
      | exact Or.inr rfl | with_reducible apply bumpFn_keeps | with_reducible apply keeps_ite | simp only [↓keepsMk_eq]
      | with_reducible apply keepsMk_intro | dsimp only | split)

/-- What `takeData` keeps. -/
theorem takeData_keeps {m : Nat} {a : State} (s : State) (c : Nat) (k : Packet) (h : Keeps m a s)
    (hm : Sub 0x11c5e279ee200 m) : Keeps m a (takeData s c k) :=
  keeps_lift h hm (by
    have h : Keeps 0x11c5e279ee200 s s := keeps_refl _ _
    unfold takeData
    repeat' first
      | intro _ | with_reducible assumption | with_reducible exact rfl | exact rfl | exact Or.inl rfl | with_reducible exact Or.inr rfl
      | exact Or.inr rfl | with_reducible apply takeCsn_keeps | with_reducible apply bumpFn_keeps | with_reducible apply mismatch_keeps
      | with_reducible apply encFails_keeps | with_reducible apply eachUnit_keeps | with_reducible apply placeUnit_keeps
      | with_reducible apply takeData.keepEarly_keeps | with_reducible apply keeps_ite | simp only [↓keepsMk_eq]
      | with_reducible apply keepsMk_intro | dsimp only | split | refine kq_get ?_ (by with_reducible assumption)
      | refine kq_get1 ?_ (by with_reducible assumption))

/-- What `placeEarly` keeps. -/
theorem placeEarly_keeps {m : Nat} {a : State} (s : State) (c : Nat) (h : Keeps m a s)
    (hm : Sub 0x11c5e279ee200 m) : Keeps m a (placeEarly s c) :=
  keeps_lift h hm (by
    have h : Keeps 0x11c5e279ee200 s s := keeps_refl _ _
    unfold placeEarly
    repeat' first
      | intro _ | with_reducible assumption | with_reducible exact rfl | exact rfl | exact Or.inl rfl | with_reducible exact Or.inr rfl
      | exact Or.inr rfl | with_reducible apply takeData_keeps | simp only [↓keepsMk_eq] | with_reducible apply keepsMk_intro
      | with_reducible apply keeps_foldl | dsimp only | split)

/-- What `postResponse` keeps. -/
theorem postResponse_keeps {μ : Nat} {a : State} (s : State) (c : Nat) (m : SendMsg) (h : Keeps μ a s)
    (hm : Sub 0x5024182200 μ) : Keeps μ a (postResponse s c m) :=
  keeps_lift h hm (by
    have h : Keeps 0x5024182200 s s := keeps_refl _ _
    unfold postResponse
    repeat' first
      | intro _ | with_reducible assumption | with_reducible exact rfl | exact rfl | exact Or.inl rfl | with_reducible exact Or.inr rfl
      | exact Or.inr rfl | with_reducible apply demandCheck_keeps | with_reducible apply connMod_keeps | with_reducible apply keeps_ite
      | simp only [↓keepsMk_eq] | with_reducible apply keepsMk_intro | dsimp only | split)

/-- What `atomicResponse` keeps. -/
theorem atomicResponse_keeps {m : Nat} {a : State} (s : State) (c : Nat) (msn : Nat) (t : Nat) (v : W64) (h : Keeps m a s)
    (hm : Sub 0x5024182200 m) : Keeps m a (atomicResponse s c msn t v) :=
  keeps_lift h hm (by
    have h : Keeps 0x5024182200 s s := keeps_refl _ _
    unfold atomicResponse
    repeat' first
      | intro _ | with_reducible assumption | with_reducible exact rfl | exact rfl | with_reducible apply postResponse_keeps | dsimp only)

/-- What `fromCache` keeps. -/
theorem fromCache_keeps {μ : Nat} {a : State} (s : State) (c : Nat) (m : RecvMsg) (e : RcEntry) (h : Keeps μ a s)
    (hm : Sub 0x5a241c2200 μ) : Keeps μ a (fromCache s c m e) :=
  keeps_lift h hm (by
    have h : Keeps 0x5a241c2200 s s := keeps_refl _ _
    unfold fromCache
    repeat' first
      | intro _ | with_reducible assumption | with_reducible exact rfl | exact rfl | exact Or.inl rfl | with_reducible exact Or.inr rfl
      | exact Or.inr rfl | with_reducible apply atomicResponse_keeps | with_reducible apply sendAck_keeps
      | with_reducible apply bumpFn_keeps | with_reducible apply finalRecord_keeps | with_reducible apply keeps_ite
      | simp only [↓keepsMk_eq] | with_reducible apply keepsMk_intro | dsimp only | split)

/-- What `takeAbort` keeps. -/
theorem takeAbort_keeps {m : Nat} {a : State} (s : State) (c : Nat) (h : Head) (h0 : Keeps m a s)
    (hm : Sub 0x4a261e2200 m) : Keeps m a (takeAbort s c h) :=
  keeps_lift h0 hm (by
    have h0 : Keeps 0x4a261e2200 s s := keeps_refl _ _
    unfold takeAbort
    repeat' first
      | intro _ | with_reducible assumption | with_reducible exact rfl | exact rfl | exact Or.inl rfl | with_reducible exact Or.inr rfl
      | exact Or.inr rfl | with_reducible apply connMod_keeps | with_reducible apply bumpFn_keeps | with_reducible apply failRecv_keeps
      | with_reducible apply refuseHead_keeps | with_reducible apply keeps_ite | simp only [↓keepsMk_eq]
      | with_reducible apply keepsMk_intro | dsimp only | split)

/-- What `takeHead` keeps. -/
theorem takeHead_keeps {m : Nat} {a : State} (s : State) (c : Nat) (k : Packet) (h : Head) (h0 : Keeps m a s)
    (hm : Sub 0x11e5e279ee200 m) : Keeps m a (takeHead s c k h).1 :=
  keeps_lift h0 hm (by
    have h0 : Keeps 0x11e5e279ee200 s s := keeps_refl _ _
    unfold takeHead
    repeat' first
      | intro _ | with_reducible assumption | with_reducible exact rfl | exact rfl | exact Or.inl rfl | with_reducible exact Or.inr rfl
      | exact Or.inr rfl | with_reducible apply takeLow_keeps | with_reducible apply takeAbort_keeps
      | with_reducible apply fromCache_keeps | with_reducible apply bumpFn_keeps | with_reducible apply mismatch_keeps
      | with_reducible apply connMod_keeps | with_reducible apply admitHead_keeps | with_reducible apply placeEarly_keeps
      | with_reducible apply assignRecv_keeps | with_reducible apply keeps_ite | simp only [↓keepsMk_eq]
      | with_reducible apply keepsMk_intro | dsimp only | split | refine kq_get ?_ (by with_reducible assumption)
      | refine kq_get1 ?_ (by with_reducible assumption))

/-- What `takeHeads` keeps. -/
theorem takeHeads_keeps0 {a : State} (s : State) (c : Nat) (k : Packet) (x1 : List Head) (h : Keeps 0x11e5e279ee200 a s) :
    Keeps 0x11e5e279ee200 a (takeHeads s c k x1).1 := by
  induction x1 generalizing s c k with
  | nil =>
    unfold takeHeads
    repeat' first
      | intro _ | with_reducible assumption | with_reducible exact rfl | exact rfl | with_reducible apply ko_map
      | with_reducible apply ko_bind | with_reducible apply keeps_getD | with_reducible apply takeHead_keeps | dsimp only | split
      | cases ‹_ :: _ = _ :: _› | refine kq_get ?_ (by with_reducible assumption) | refine kq_get1 ?_ (by with_reducible assumption)
  | cons _ _ ih =>
    unfold takeHeads
    repeat' first
      | intro _ | with_reducible assumption | with_reducible exact rfl | exact rfl | with_reducible apply ih
      | with_reducible apply ko_map | with_reducible apply ko_bind | with_reducible apply keeps_getD
      | with_reducible apply takeHead_keeps | dsimp only | split | cases ‹_ :: _ = _ :: _›
      | refine kq_get ?_ (by with_reducible assumption) | refine kq_get1 ?_ (by with_reducible assumption)

/-- The same within a greater set. -/
theorem takeHeads_keeps {m : Nat} {a : State} (s : State) (c : Nat) (k : Packet) (x1 : List Head) (h : Keeps m a s)
    (hm : Sub 0x11e5e279ee200 m) : Keeps m a (takeHeads s c k x1).1 :=
  keeps_lift h hm (takeHeads_keeps0 s c k x1 (keeps_refl _ _))

/-- What `takeHeadsCell` keeps. -/
theorem takeHeadsCell_keeps {m : Nat} {a : State} (s : State) (k : Packet) (h : Keeps m a s)
    (hm : Sub 0x11e5e279ee200 m) : Keeps m a (takeHeadsCell s k) :=
  keeps_lift h hm (by
    have h : Keeps 0x11e5e279ee200 s s := keeps_refl _ _
    unfold takeHeadsCell
    repeat' first
      | intro _ | with_reducible assumption | with_reducible exact rfl | exact rfl | with_reducible apply encFails_keeps
      | with_reducible apply takeHeads_keeps | with_reducible apply takeCsn_keeps | dsimp only | split
      | refine kq_get ?_ (by with_reducible assumption) | refine kq_get1 ?_ (by with_reducible assumption))

/-- What `headsPacket` keeps. -/
theorem headsPacket_keeps {m : Nat} {a : State} (s : State) (k : Packet) (h : Keeps m a s)
    (hm : Sub 0x11e5e279ee200 m) : Keeps m a (headsPacket s k) :=
  keeps_lift h hm (by
    have h : Keeps 0x11e5e279ee200 s s := keeps_refl _ _
    unfold headsPacket
    repeat' first
      | intro _ | with_reducible assumption | with_reducible exact rfl | exact rfl | with_reducible apply gate_keeps
      | with_reducible apply takeHeadsCell_keeps | dsimp only | split | refine kq_get ?_ (by with_reducible assumption)
      | refine kq_get1 ?_ (by with_reducible assumption))

/-- What `execHeadsReceive` keeps. -/
theorem execHeadsReceive_keeps {m : Nat} {a : State} (k : Packet) (s : State) (h : Keeps m a s)
    (hm : Sub 0x11e5e279ee200 m) : KN m a (execHeadsReceive k s) :=
  kn_lift h hm (by
    have h : Keeps 0x11e5e279ee200 s s := keeps_refl _ _
    unfold execHeadsReceive
    repeat' first
      | intro _ | with_reducible assumption | with_reducible exact rfl | exact rfl | with_reducible apply kn_next
      | with_reducible apply headsPacket_keeps | with_reducible apply arrive_keeps | with_reducible apply keeps_ite | dsimp only | split)

/-- What `execAbortHeadReceive` keeps. -/
theorem execAbortHeadReceive_keeps {m : Nat} {a : State} (k : Packet) (s : State) (h : Keeps m a s)
    (hm : Sub 0x11e5e279ee200 m) : KN m a (execAbortHeadReceive k s) :=
  kn_lift h hm (by
    have h : Keeps 0x11e5e279ee200 s s := keeps_refl _ _
    unfold execAbortHeadReceive
    repeat' first
      | intro _ | with_reducible assumption | with_reducible exact rfl | exact rfl | exact Or.inl rfl | with_reducible exact Or.inr rfl
      | exact Or.inr rfl | with_reducible apply kn_next | with_reducible apply headsPacket_keeps | with_reducible apply arrive_keeps
      | with_reducible apply keeps_ite | simp only [↓keepsMk_eq] | with_reducible apply keepsMk_intro | dsimp only | split)

/-- What `execFabricAccessReceive` keeps. -/
theorem execFabricAccessReceive_keeps {m : Nat} {a : State} (k : Packet) (s : State) (h : Keeps m a s)
    (hm : Sub 0x11e5e279ee200 m) : KN m a (execFabricAccessReceive k s) :=
  kn_lift h hm (by
    have h : Keeps 0x11e5e279ee200 s s := keeps_refl _ _
    unfold execFabricAccessReceive
    repeat' first
      | intro _ | with_reducible assumption | with_reducible exact rfl | exact rfl | exact Or.inl rfl | with_reducible exact Or.inr rfl
      | exact Or.inr rfl | with_reducible apply kn_next | with_reducible apply headsPacket_keeps | with_reducible apply arrive_keeps
      | with_reducible apply keeps_ite | simp only [↓keepsMk_eq] | with_reducible apply keepsMk_intro | dsimp only | split)

/-- What `execRegionCacheTimeout` keeps. -/
theorem execRegionCacheTimeout_keeps {m : Nat} {a : State} (s : State) (h : Keeps m a s)
    (hm : Sub 0x400020000 m) : KN m a (execRegionCacheTimeout s) :=
  kn_lift h hm (by
    have h : Keeps 0x400020000 s s := keeps_refl _ _
    unfold execRegionCacheTimeout
    repeat' first
      | intro _ | with_reducible assumption | with_reducible exact rfl | exact rfl | exact Or.inl rfl | with_reducible exact Or.inr rfl
      | exact Or.inr rfl | with_reducible apply kn_next | with_reducible apply bumpFn_keeps | simp only [↓keepsMk_eq]
      | with_reducible apply keepsMk_intro | dsimp only | split)

/-- What `dataPacket` keeps. -/
theorem dataPacket_keeps {m : Nat} {a : State} (s : State) (k : Packet) (h : Keeps m a s)
    (hm : Sub 0x11c5e279ee200 m) : Keeps m a (dataPacket s k) :=
  keeps_lift h hm (by
    have h : Keeps 0x11c5e279ee200 s s := keeps_refl _ _
    unfold dataPacket
    repeat' first
      | intro _ | with_reducible assumption | with_reducible exact rfl | exact rfl | exact Or.inl rfl | with_reducible exact Or.inr rfl
      | exact Or.inr rfl | with_reducible apply mismatch_keeps | with_reducible apply gate_keeps | with_reducible apply takeData_keeps
      | with_reducible apply keeps_ite | simp only [↓keepsMk_eq] | with_reducible apply keepsMk_intro | dsimp only | split
      | refine kq_get ?_ (by with_reducible assumption) | refine kq_get1 ?_ (by with_reducible assumption))

/-- What `execDataCellReceive` keeps. -/
theorem execDataCellReceive_keeps {m : Nat} {a : State} (k : Packet) (s : State) (h : Keeps m a s)
    (hm : Sub 0x11c5e279ee200 m) : KN m a (execDataCellReceive k s) :=
  kn_lift h hm (by
    have h : Keeps 0x11c5e279ee200 s s := keeps_refl _ _
    unfold execDataCellReceive
    repeat' first
      | intro _ | with_reducible assumption | with_reducible exact rfl | exact rfl | exact Or.inl rfl | with_reducible exact Or.inr rfl
      | exact Or.inr rfl | with_reducible apply kn_next | with_reducible apply dataPacket_keeps | with_reducible apply arrive_keeps
      | with_reducible apply keeps_ite | simp only [↓keepsMk_eq] | with_reducible apply keepsMk_intro | dsimp only | split)

/-- What `execEarlyCellTimeout` keeps. -/
theorem execEarlyCellTimeout_keeps {m : Nat} {a : State} (c : Nat) (csn : Nat) (s : State) (h : Keeps m a s)
    (hm : Sub 0x800080000 m) : KN m a (execEarlyCellTimeout c csn s) :=
  kn_lift h hm (by
    have h : Keeps 0x800080000 s s := keeps_refl _ _
    unfold execEarlyCellTimeout
    repeat' first
      | intro _ | with_reducible assumption | with_reducible exact rfl | exact rfl | exact Or.inl rfl | with_reducible exact Or.inr rfl
      | exact Or.inr rfl | with_reducible apply kn_next | with_reducible apply bumpFn_keeps | with_reducible apply keeps_ite
      | simp only [↓keepsMk_eq] | with_reducible apply keepsMk_intro | dsimp only | split)

/-- What `placeBytes` keeps. -/
theorem placeBytes_keeps {μ : Nat} {a : State} (s : State) (m : RecvMsg) (x : Issued) (b : List Byte) (bad : Marks) (bus : Option (List Byte)) (h : Keeps μ a s)
    (hm : Sub 0x10c042000e200 μ) : Keeps μ a (placeBytes s m x b bad bus).1 :=
  keeps_lift h hm (by
    have h : Keeps 0x10c042000e200 s s := keeps_refl _ _
    unfold placeBytes
    repeat' first
      | intro _ | with_reducible assumption | with_reducible exact rfl | exact rfl | exact Or.inl rfl | with_reducible exact Or.inr rfl
      | exact Or.inr rfl | with_reducible apply readPieces_keeps | with_reducible apply keeps_ite | simp only [↓keepsMk_eq]
      | with_reducible apply keepsMk_intro | dsimp only | split | refine kq_get ?_ (by with_reducible assumption)
      | refine kq_get1 ?_ (by with_reducible assumption))

/-- What `placeRecv` keeps. -/
theorem placeRecv_keeps {m : Nat} {a : State} (s : State) (c : Nat) (msn : Nat) (off : Nat) (bus : Option (List Byte)) (h : Keeps m a s)
    (hm : Sub 0x10c46279ee200 m) : Keeps m a (placeRecv s c msn off bus) :=
  keeps_lift h hm (by
    have h : Keeps 0x10c46279ee200 s s := keeps_refl _ _
    unfold placeRecv
    repeat' first
      | intro _ | with_reducible assumption | with_reducible exact rfl | exact rfl | exact Or.inl rfl | with_reducible exact Or.inr rfl
      | exact Or.inr rfl | with_reducible apply placeDone_keeps | with_reducible apply endXfer_keeps | with_reducible apply recvMod_keeps
      | with_reducible apply placeBytes_keeps | with_reducible apply placeFailsAt_keeps | with_reducible apply ownFault_keeps
      | with_reducible apply writePieces_keeps | with_reducible apply recvPlaced_keeps | with_reducible apply keeps_ite
      | simp only [↓keepsMk_eq] | with_reducible apply keepsMk_intro | dsimp only | split
      | refine kq_get ?_ (by with_reducible assumption) | refine kq_get1 ?_ (by with_reducible assumption))

/-- What `respCheck` keeps. -/
theorem respCheck_keeps {m : Nat} {a : State} (s : State) (c : Nat) (msn : Nat) (h : Keeps m a s)
    (hm : Sub 0x10c46261ee204 m) : Keeps m a (respCheck s c msn) :=
  keeps_lift h hm (by
    have h : Keeps 0x10c46261ee204 s s := keeps_refl _ _
    unfold respCheck
    repeat' first
      | intro _ | with_reducible assumption | with_reducible exact rfl | exact rfl | exact Or.inl rfl | with_reducible exact Or.inr rfl
      | exact Or.inr rfl | with_reducible apply connMod_keeps | with_reducible apply closeCheck_keeps
      | with_reducible apply issuerDone_keeps | with_reducible apply dropSend_keeps | with_reducible apply endSend_keeps
      | with_reducible apply keeps_ite | simp only [↓keepsMk_eq] | with_reducible apply keepsMk_intro | dsimp only | split)

/-- What `respUnit` keeps. -/
theorem respUnit_keeps {m : Nat} {a : State} (s : State) (c : Nat) (msn : Nat) (off : Nat) (b : List Byte) (poison : Marks) (k : Packet) (h : Keeps m a s)
    (hm : Sub 0x11c5e261ee204 m) : Keeps m a (respUnit s c msn off b poison k).1 :=
  keeps_lift h hm (by
    have h : Keeps 0x11c5e261ee204 s s := keeps_refl _ _
    unfold respUnit
    repeat' first
      | intro _ | with_reducible assumption | with_reducible exact rfl | exact rfl | exact Or.inl rfl | with_reducible exact Or.inr rfl
      | exact Or.inr rfl | with_reducible apply ko_map | with_reducible apply ko_bind | with_reducible apply keeps_getD
      | with_reducible apply ko_some | with_reducible exact ko_none | with_reducible apply bumpFn_keeps
      | with_reducible apply sendMod_keeps | with_reducible apply respCheck_keeps | with_reducible apply placeQueue_keeps
      | with_reducible apply placeDone_keeps | with_reducible apply issueSegs_keeps | with_reducible apply stall_keeps
      | with_reducible apply abandonAt_keeps | with_reducible apply openStages_keeps | with_reducible apply endXfer_keeps
      | with_reducible apply keeps_ite | simp only [↓keepsMk_eq] | with_reducible apply keepsMk_intro | dsimp only | split
      | refine ko_get ?_ (by with_reducible assumption) | refine kq_get ?_ (by with_reducible assumption)
      | refine kq_get1 ?_ (by with_reducible assumption))

/-- What `respRefused` keeps. -/
theorem respRefused_keeps {μ : Nat} {a : State} (s : State) (c : Nat) (m : SendMsg) (off : Nat) (n : Nat) (h : Keeps μ a s)
    (hm : Sub 0x42261e2200 μ) : Keeps μ a (respRefused s c m off n) :=
  keeps_lift h hm (by
    have h : Keeps 0x42261e2200 s s := keeps_refl _ _
    unfold respRefused
    repeat' first
      | intro _ | with_reducible assumption | with_reducible exact rfl | exact rfl | exact Or.inl rfl | with_reducible exact Or.inr rfl
      | exact Or.inr rfl | with_reducible apply abandonAt_keeps | simp only [↓keepsMk_eq] | with_reducible apply keepsMk_intro
      | dsimp only | split)

/-- What `placeResp` keeps. -/
theorem placeResp_keeps {m : Nat} {a : State} (s : State) (c : Nat) (msn : Nat) (off : Nat) (h : Keeps m a s)
    (hm : Sub 0x10c46261ee204 m) : Keeps m a (placeResp s c msn off) :=
  keeps_lift h hm (by
    have h : Keeps 0x10c46261ee204 s s := keeps_refl _ _
    unfold placeResp
    repeat' first
      | intro _ | with_reducible assumption | with_reducible exact rfl | exact rfl | exact Or.inl rfl | with_reducible exact Or.inr rfl
      | exact Or.inr rfl | with_reducible apply placeDone_keeps | with_reducible apply endXfer_keeps | with_reducible apply sendMod_keeps
      | with_reducible apply respRefused_keeps | with_reducible apply ownFault_keeps | with_reducible apply writePieces_keeps
      | with_reducible apply entryMod_keeps | with_reducible apply respCheck_keeps | with_reducible apply keeps_ite
      | simp only [↓keepsMk_eq] | with_reducible apply keepsMk_intro | dsimp only | split
      | refine kq_get ?_ (by with_reducible assumption) | refine kq_get1 ?_ (by with_reducible assumption))

/-- What `execCellPlacement` keeps. -/
theorem execCellPlacement_keeps {m : Nat} {a : State} (c : Nat) (msn : Nat) (off : Nat) (resp : Bool) (bus : Option (List Byte)) (s : State) (h : Keeps m a s)
    (hm : Sub 0x10c46279ee204 m) : KN m a (execCellPlacement c msn off resp bus s) :=
  kn_lift h hm (by
    have h : Keeps 0x10c46279ee204 s s := keeps_refl _ _
    unfold execCellPlacement
    repeat' first
      | intro _ | with_reducible assumption | with_reducible exact rfl | exact rfl | with_reducible apply kn_next
      | with_reducible apply placeResp_keeps | with_reducible apply placeRecv_keeps | with_reducible apply keeps_ite | dsimp only | split)

/-- What `placeResponse` keeps. -/
theorem placeResponse_keeps {m : Nat} {a : State} (s : State) (k : Packet) (b : List Byte) (h : Keeps m a s)
    (hm : Sub 0x11c5e261ee204 m) : Keeps m a (placeResponse s k b) :=
  keeps_lift h hm (by
    have h : Keeps 0x11c5e261ee204 s s := keeps_refl _ _
    unfold placeResponse
    repeat' first
      | intro _ | with_reducible assumption | with_reducible exact rfl | exact rfl | with_reducible apply eachUnit_keeps
      | with_reducible apply respUnit_keeps | with_reducible apply takeCsn_keeps | dsimp only | split
      | refine kq_get ?_ (by with_reducible assumption) | refine kq_get1 ?_ (by with_reducible assumption))

/-- What `takeReply` keeps. -/
theorem takeReply_keeps {μ : Nat} {a : State} (s : State) (k : Packet) (m : SendMsg) (b : List Byte) (h : Keeps μ a s)
    (hm : Sub 0x11c5e261ee204 μ) : Keeps μ a (takeReply s k m b) :=
  keeps_lift h hm (by
    have h : Keeps 0x11c5e261ee204 s s := keeps_refl _ _
    unfold takeReply
    repeat' first
      | intro _ | with_reducible assumption | with_reducible exact rfl | exact rfl | exact Or.inl rfl | with_reducible exact Or.inr rfl
      | exact Or.inr rfl | with_reducible apply takeCsn_keeps | with_reducible apply closeCheck_keeps
      | with_reducible apply issuerDone_keeps | with_reducible apply dropSend_keeps | with_reducible apply endSend_keeps
      | with_reducible apply placeResponse_keeps | with_reducible apply sendMod_keeps | with_reducible apply takeData.keepEarly_keeps
      | with_reducible apply keeps_ite | simp only [↓keepsMk_eq] | with_reducible apply keepsMk_intro | dsimp only | split)

/-- What `takeResponseCell` keeps. -/
theorem takeResponseCell_keeps {m : Nat} {a : State} (s : State) (k : Packet) (h : Keeps m a s)
    (hm : Sub 0x11c5e261ee204 m) : Keeps m a (takeResponseCell s k) :=
  keeps_lift h hm (by
    have h : Keeps 0x11c5e261ee204 s s := keeps_refl _ _
    unfold takeResponseCell
    repeat' first
      | intro _ | with_reducible assumption | with_reducible exact rfl | exact rfl | exact Or.inl rfl | with_reducible exact Or.inr rfl
      | exact Or.inr rfl | with_reducible apply encFails_keeps | with_reducible apply takeCsn_keeps | with_reducible apply bumpFn_keeps
      | with_reducible apply mismatch_keeps | with_reducible apply takeReply_keeps | with_reducible apply placeResponse_keeps
      | with_reducible apply keeps_ite | dsimp only | split)

/-- What `takeResponse` keeps. -/
theorem takeResponse_keeps {m : Nat} {a : State} (s : State) (k : Packet) (h : Keeps m a s)
    (hm : Sub 0x11c5e261ee204 m) : Keeps m a (takeResponse s k) :=
  keeps_lift h hm (by
    have h : Keeps 0x11c5e261ee204 s s := keeps_refl _ _
    unfold takeResponse
    repeat' first
      | intro _ | with_reducible assumption | with_reducible exact rfl | exact rfl | exact Or.inl rfl | with_reducible exact Or.inr rfl
      | exact Or.inr rfl | with_reducible apply takeResponseCell_keeps | with_reducible apply keeps_ite | simp only [↓keepsMk_eq]
      | with_reducible apply keepsMk_intro | with_reducible apply keeps_foldl | dsimp only | split)

/-- What `responsePacket` keeps. -/
theorem responsePacket_keeps {m : Nat} {a : State} (s : State) (k : Packet) (h : Keeps m a s)
    (hm : Sub 0x11c5e261ee204 m) : Keeps m a (responsePacket s k) :=
  keeps_lift h hm (by
    have h : Keeps 0x11c5e261ee204 s s := keeps_refl _ _
    unfold responsePacket
    repeat' first
      | intro _ | with_reducible assumption | with_reducible exact rfl | exact rfl | with_reducible apply gate_keeps
      | with_reducible apply takeResponse_keeps | dsimp only | split | refine kq_get ?_ (by with_reducible assumption)
      | refine kq_get1 ?_ (by with_reducible assumption))

/-- What `execResponseCellReceive` keeps. -/
theorem execResponseCellReceive_keeps {m : Nat} {a : State} (k : Packet) (s : State) (h : Keeps m a s)
    (hm : Sub 0x11c5e261ee204 m) : KN m a (execResponseCellReceive k s) :=
  kn_lift h hm (by
    have h : Keeps 0x11c5e261ee204 s s := keeps_refl _ _
    unfold execResponseCellReceive
    repeat' first
      | intro _ | with_reducible assumption | with_reducible exact rfl | exact rfl | with_reducible apply kn_next
      | with_reducible apply responsePacket_keeps | with_reducible apply arrive_keeps | with_reducible apply keeps_ite | dsimp only
      | split)

/-- What `execReplyReceive` keeps. -/
theorem execReplyReceive_keeps {m : Nat} {a : State} (k : Packet) (s : State) (h : Keeps m a s)
    (hm : Sub 0x11c5e261ee204 m) : KN m a (execReplyReceive k s) :=
  kn_lift h hm (by
    have h : Keeps 0x11c5e261ee204 s s := keeps_refl _ _
    unfold execReplyReceive
    repeat' first
      | intro _ | with_reducible assumption | with_reducible exact rfl | exact rfl | with_reducible apply kn_next
      | with_reducible apply responsePacket_keeps | with_reducible apply arrive_keeps | with_reducible apply keeps_ite | dsimp only
      | split)

/-- What `atomicDone` keeps. -/
theorem atomicDone_keeps {μ : Nat} {a : State} (s : State) (c : Nat) (m : RecvMsg) (old : W64) (h : Keeps μ a s)
    (hm : Sub 0x10c56261ee200 μ) : Keeps μ a (atomicDone s c m old) :=
  keeps_lift h hm (by
    have h : Keeps 0x10c56261ee200 s s := keeps_refl _ _
    unfold atomicDone
    repeat' first
      | intro _ | with_reducible assumption | with_reducible exact rfl | exact rfl | exact Or.inl rfl | with_reducible exact Or.inr rfl
      | exact Or.inr rfl | with_reducible apply cachePutResp_keeps | with_reducible apply mirrorEntry_keeps
      | with_reducible apply releaseRecv_keeps | with_reducible apply finishRecv_keeps | with_reducible apply atomicResponse_keeps
      | with_reducible apply keeps_ite | simp only [↓keepsMk_eq] | with_reducible apply keepsMk_intro | dsimp only | split)

/-- What `runAtomic` keeps. -/
theorem runAtomic_keeps {μ : Nat} {a : State} (s : State) (c : Nat) (m : RecvMsg) (h : Keeps μ a s)
    (hm : Sub 0x10c56261ee200 μ) : Keeps μ a (runAtomic s c m) :=
  keeps_lift h hm (by
    have h : Keeps 0x10c56261ee200 s s := keeps_refl _ _
    unfold runAtomic
    repeat' first
      | intro _ | with_reducible assumption | with_reducible exact rfl | exact rfl | exact Or.inl rfl | with_reducible exact Or.inr rfl
      | exact Or.inr rfl | with_reducible apply issue_keeps | with_reducible apply stall_keeps | with_reducible apply placeFails_keeps
      | with_reducible apply failRecv_keeps | with_reducible apply endXfer_keeps | with_reducible apply recvMod_keeps
      | with_reducible apply emit_keeps | with_reducible apply finishRead_keeps | with_reducible apply writePieces_keeps
      | with_reducible apply atomicDone_keeps | with_reducible apply keeps_ite | simp only [↓keepsMk_eq]
      | with_reducible apply keepsMk_intro | dsimp only | split | refine kq_get ?_ (by with_reducible assumption)
      | refine kq_get1 ?_ (by with_reducible assumption))

/-- What `atomicReturns` keeps. -/
theorem atomicReturns_keeps {m : Nat} {a : State} (s : State) (c : Nat) (msn : Nat) (result : Option W64) (h : Keeps m a s)
    (hm : Sub 0x10c56261ee200 m) : Keeps m a (atomicReturns s c msn result) :=
  keeps_lift h hm (by
    have h : Keeps 0x10c56261ee200 s s := keeps_refl _ _
    unfold atomicReturns
    repeat' first
      | intro _ | with_reducible assumption | with_reducible exact rfl | exact rfl | exact Or.inl rfl | with_reducible exact Or.inr rfl
      | exact Or.inr rfl | with_reducible apply endXfer_keeps | with_reducible apply atomicDone_keeps
      | with_reducible apply cachePutResp_keeps | with_reducible apply mirrorEntry_keeps | with_reducible apply releaseRecv_keeps
      | with_reducible apply finishRecv_keeps | with_reducible apply keeps_ite | simp only [↓keepsMk_eq]
      | with_reducible apply keepsMk_intro | dsimp only | split)

/-- What `runRead` keeps. -/
theorem runRead_keeps {μ : Nat} {a : State} (s : State) (c : Nat) (m : RecvMsg) (h : Keeps μ a s)
    (hm : Sub 0x5024182200 μ) : Keeps μ a (runRead s c m) :=
  keeps_lift h hm (by
    have h : Keeps 0x5024182200 s s := keeps_refl _ _
    unfold runRead
    repeat' first
      | intro _ | with_reducible assumption | with_reducible exact rfl | exact rfl | exact Or.inl rfl | with_reducible exact Or.inr rfl
      | exact Or.inr rfl | with_reducible apply recvMod_keeps | with_reducible apply postResponse_keeps | with_reducible apply keeps_ite
      | simp only [↓keepsMk_eq] | with_reducible apply keepsMk_intro | dsimp only | split)

/-- What `gatherRows` keeps. -/
theorem gatherRows_keeps0 {a : State} (s : State) (m : RecvMsg) (local_ : Bool) (acc : Option (List Byte)) (bad : Marks) (x1 : List Nat) (x2 : Option (List Byte)) (h : Keeps 0x10c042002e200 a s) :
    Keeps 0x10c042002e200 a (gatherRows s m local_ acc bad x1 x2).1 := by
  induction x1 generalizing s m local_ acc bad x2 with
  | nil =>
    unfold gatherRows
    repeat' first
      | intro _ | with_reducible assumption | with_reducible exact rfl | exact rfl | exact Or.inl rfl | with_reducible exact Or.inr rfl
      | exact Or.inr rfl | with_reducible apply ko_map | with_reducible apply ko_bind | with_reducible apply keeps_getD
      | with_reducible apply finishRead_keeps | with_reducible apply endXfer_keeps | with_reducible apply issueSegs_keeps
      | with_reducible apply keeps_ite | simp only [↓keepsMk_eq] | with_reducible apply keepsMk_intro | with_reducible apply keeps_foldl
      | dsimp only | split | cases ‹_ :: _ = _ :: _› | refine kq_get ?_ (by with_reducible assumption)
      | refine kq_get1 ?_ (by with_reducible assumption)
  | cons _ _ ih =>
    unfold gatherRows
    repeat' first
      | intro _ | with_reducible assumption | with_reducible exact rfl | exact rfl | exact Or.inl rfl | with_reducible exact Or.inr rfl
      | exact Or.inr rfl | with_reducible apply ih | with_reducible apply ko_map | with_reducible apply ko_bind
      | with_reducible apply keeps_getD | with_reducible apply finishRead_keeps | with_reducible apply endXfer_keeps
      | with_reducible apply issueSegs_keeps | with_reducible apply keeps_ite | simp only [↓keepsMk_eq]
      | with_reducible apply keepsMk_intro | with_reducible apply keeps_foldl | dsimp only | split | cases ‹_ :: _ = _ :: _›
      | refine kq_get ?_ (by with_reducible assumption) | refine kq_get1 ?_ (by with_reducible assumption)

/-- The same within a greater set. -/
theorem gatherRows_keeps {μ : Nat} {a : State} (s : State) (m : RecvMsg) (local_ : Bool) (acc : Option (List Byte)) (bad : Marks) (x1 : List Nat) (x2 : Option (List Byte)) (h : Keeps μ a s)
    (hm : Sub 0x10c042002e200 μ) : Keeps μ a (gatherRows s m local_ acc bad x1 x2).1 :=
  keeps_lift h hm (gatherRows_keeps0 s m local_ acc bad x1 x2 (keeps_refl _ _))

/-- What `runGather` keeps. -/
theorem runGather_keeps {μ : Nat} {a : State} (s : State) (c : Nat) (m : RecvMsg) (bus : Option (List Byte)) (h : Keeps μ a s)
    (hm : Sub 0x10c56261ee200 μ) : Keeps μ a (runGather s c m bus) :=
  keeps_lift h hm (by
    have h : Keeps 0x10c56261ee200 s s := keeps_refl _ _
    unfold runGather
    repeat' first
      | intro _ | with_reducible assumption | with_reducible exact rfl | exact rfl | exact Or.inl rfl | with_reducible exact Or.inr rfl
      | exact Or.inr rfl | with_reducible apply bumpFn_keeps | with_reducible apply failRecv_keeps
      | with_reducible apply gatherRows_keeps | with_reducible apply stall_keeps | with_reducible apply placeFails_keeps
      | with_reducible apply finishRecv_keeps | with_reducible apply postResponse_keeps | with_reducible apply recvMod_keeps
      | with_reducible apply keeps_ite | simp only [↓keepsMk_eq] | with_reducible apply keepsMk_intro | dsimp only | split
      | refine kq_get ?_ (by with_reducible assumption) | refine kq_get1 ?_ (by with_reducible assumption))

/-- What `runHead` keeps. -/
theorem runHead_keeps {m : Nat} {a : State} (s : State) (c : Nat) (msn : Nat) (bus : Option (List Byte)) (h : Keeps m a s)
    (hm : Sub 0x11e5e279ee200 m) : Keeps m a (runHead s c msn bus) :=
  keeps_lift h hm (by
    have h : Keeps 0x11e5e279ee200 s s := keeps_refl _ _
    unfold runHead
    repeat' first
      | intro _ | with_reducible assumption | with_reducible exact rfl | exact rfl | with_reducible apply runRead_keeps
      | with_reducible apply runAtomic_keeps | with_reducible apply runGather_keeps | with_reducible apply placeEarly_keeps
      | with_reducible apply startInvoke_keeps | with_reducible apply keeps_ite | dsimp only | split)

/-- What `execOrderedHeadExecute` keeps. -/
theorem execOrderedHeadExecute_keeps {m : Nat} {a : State} (c : Nat) (msn : Nat) (bus : Option (List Byte)) (s : State) (h : Keeps m a s)
    (hm : Sub 0x11e5e279ee200 m) : KN m a (execOrderedHeadExecute c msn bus s) :=
  kn_lift h hm (by
    have h : Keeps 0x11e5e279ee200 s s := keeps_refl _ _
    unfold execOrderedHeadExecute
    repeat' first
      | intro _ | with_reducible assumption | with_reducible exact rfl | exact rfl | with_reducible apply kn_next
      | with_reducible apply runHead_keeps | dsimp only)

/-- What `msgFlushed` keeps. -/
theorem msgFlushed_keeps {m : Nat} {a : State} (s : State) (c : Nat) (msn : Nat) (ok : Bool) (h : Keeps m a s)
    (hm : Sub 0x10c46269ee200 m) : Keeps m a (msgFlushed s c msn ok) :=
  keeps_lift h hm (by
    have h : Keeps 0x10c46269ee200 s s := keeps_refl _ _
    unfold msgFlushed
    repeat' first
      | intro _ | with_reducible assumption | with_reducible exact rfl | exact rfl | exact Or.inl rfl | with_reducible exact Or.inr rfl
      | exact Or.inr rfl | with_reducible apply failRecv_keeps | with_reducible apply recvMod_keeps | with_reducible apply finalize_keeps
      | with_reducible apply keeps_ite | simp only [↓keepsMk_eq] | with_reducible apply keepsMk_intro | dsimp only | split)

/-- What `execPeerFlushComplete` keeps. -/
theorem execPeerFlushComplete_keeps {m : Nat} {a : State} (tag : BusTag) (ok : Bool) (s : State) (h : Keeps m a s)
    (hm : Sub 0x10c46269ee200 m) : KN m a (execPeerFlushComplete tag ok s) :=
  kn_lift h hm (by
    have h : Keeps 0x10c46269ee200 s s := keeps_refl _ _
    unfold execPeerFlushComplete
    repeat' first
      | intro _ | with_reducible assumption | with_reducible exact rfl | exact rfl | with_reducible apply kn_next
      | with_reducible apply entryFlushed_keeps | with_reducible apply msgFlushed_keeps | dsimp only | split)

/-- What `execMirrorFlushComplete` keeps. -/
theorem execMirrorFlushComplete_keeps {m : Nat} {a : State} (c : Nat) (msn : Nat) (s : State) (h : Keeps m a s)
    (hm : Sub 0x52261e2200 m) : KN m a (execMirrorFlushComplete c msn s) :=
  kn_lift h hm (by
    have h : Keeps 0x52261e2200 s s := keeps_refl _ _
    unfold execMirrorFlushComplete
    repeat' first
      | intro _ | with_reducible assumption | with_reducible exact rfl | exact rfl | with_reducible apply kn_next
      | with_reducible apply atomicResponse_keeps | with_reducible apply finishRecv_keeps | with_reducible apply keeps_ite | dsimp only
      | split)

end Sys2Proof.Laws
end

