-- ==== Sys2Proof/Laws/KeepsTpeFail.lean ====
section
/-! SUPPORT. Every definition of Machine/TpeFail.lean keeps what `Keeps` says. -/
namespace Sys2Proof.Laws
open Sys2Proof.Machine Sys2Proof.Safety

/-- What `resumeRing` keeps. -/
theorem resumeRing_keeps {m : Nat} {a : State} (s : State) (c : Nat) (sqHead : Nat) (head : Nat) (h : Keeps m a s)
    (hm : Sub 0x10c062006e200 m) : Keeps m a (resumeRing s c sqHead head) :=
  keeps_lift h hm (by
    have h : Keeps 0x10c062006e200 s s := keeps_refl _ _
    unfold resumeRing
    repeat' first
      | intro _ | with_reducible assumption | with_reducible exact rfl | exact rfl | exact Or.inl rfl | with_reducible exact Or.inr rfl
      | exact Or.inr rfl | with_reducible apply fetchRound_keeps | with_reducible apply queueMod_keeps | simp only [↓keepsMk_eq]
      | with_reducible apply keepsMk_intro | dsimp only | split)

/-- What `takeover` keeps. -/
theorem takeover_keeps {μ : Nat} {a : State} (s : State) (c : Nat) (head : Nat) (m : Mirror) (h : Keeps μ a s)
    (hm : Sub 0x10c46261ee204 μ) : Keeps μ a (takeover s c head m) :=
  keeps_lift h hm (by
    have h : Keeps 0x10c46261ee204 s s := keeps_refl _ _
    unfold takeover
    repeat' first
      | intro _ | with_reducible assumption | with_reducible exact rfl | exact rfl | exact Or.inl rfl | with_reducible exact Or.inr rfl
      | exact Or.inr rfl | with_reducible apply connMod_keeps | with_reducible apply resumeRing_keeps
      | with_reducible apply sendReq_keeps | with_reducible apply markMirror_keeps | simp only [↓keepsMk_eq]
      | with_reducible apply keepsMk_intro | dsimp only | split)

/-- What `execHandoffRecordSeen` keeps. -/
theorem execHandoffRecordSeen_keeps {m : Nat} {a : State} (c : Nat) (head : Nat) (s : State) (h : Keeps m a s)
    (hm : Sub 0x10c46261ee204 m) : KN m a (execHandoffRecordSeen c head s) :=
  kn_lift h hm (by
    have h : Keeps 0x10c46261ee204 s s := keeps_refl _ _
    unfold execHandoffRecordSeen
    repeat' first
      | intro _ | with_reducible assumption | with_reducible exact rfl | exact rfl | with_reducible apply kn_next
      | with_reducible apply acceptMirror_keeps | with_reducible apply takeover_keeps | with_reducible apply keeps_ite | dsimp only
      | split | refine kq_get ?_ (by with_reducible assumption) | refine kq_get1 ?_ (by with_reducible assumption))

/-- What `execHeartbeatTimeout` keeps. -/
theorem execHeartbeatTimeout_keeps {m : Nat} {a : State} (heads : List (Nat × Nat)) (s : State) (h : Keeps m a s)
    (hm : Sub 0x10c46261ee204 m) : KN m a (execHeartbeatTimeout heads s) :=
  kn_lift h hm (by
    have h : Keeps 0x10c46261ee204 s s := keeps_refl _ _
    unfold execHeartbeatTimeout
    repeat' first
      | intro _ | with_reducible assumption | with_reducible exact rfl | exact rfl | exact Or.inl rfl | with_reducible exact Or.inr rfl
      | exact Or.inr rfl | with_reducible apply kn_next | with_reducible apply currentMirror_keeps | with_reducible apply takeover_keeps
      | simp only [↓keepsMk_eq] | with_reducible apply keepsMk_intro | with_reducible apply keeps_foldl | dsimp only | split
      | refine kq_get ?_ (by with_reducible assumption) | refine kq_get1 ?_ (by with_reducible assumption))

/-- What `execTakenRecordSeen` keeps. -/
theorem execTakenRecordSeen_keeps {m : Nat} {a : State} (c : Nat) (s : State) (h : Keeps m a s)
    (hm : Sub 0x802260ee200 m) : KN m a (execTakenRecordSeen c s) :=
  kn_lift h hm (by
    have h : Keeps 0x802260ee200 s s := keeps_refl _ _
    unfold execTakenRecordSeen
    repeat' first
      | intro _ | with_reducible assumption | with_reducible exact rfl | exact rfl | with_reducible apply kn_next
      | with_reducible apply acceptMirror_keeps | with_reducible apply standDown_keeps | with_reducible apply keeps_ite | dsimp only
      | split | refine kq_get ?_ (by with_reducible assumption) | refine kq_get1 ?_ (by with_reducible assumption))

/-- What `failoverCheck` keeps. -/
theorem failoverCheck_keeps {m : Nat} {a : State} (s : State) (h : Keeps m a s)
    (hm : Sub 0x10c06260ee200 m) : Keeps m a (failoverCheck s) :=
  keeps_lift h hm (by
    have h : Keeps 0x10c06260ee200 s s := keeps_refl _ _
    unfold failoverCheck
    repeat' first
      | intro _ | with_reducible assumption | with_reducible exact rfl | exact rfl | with_reducible apply handOver_keeps
      | with_reducible apply keeps_ite | with_reducible apply keeps_foldl | dsimp only | split)

end Sys2Proof.Laws
end

