-- ==== Sys2Proof/Laws/KeepsFrt.lean ====
section
/-! SUPPORT. Every definition of Machine/Frt.lean keeps what `Keeps` says. -/
namespace Sys2Proof.Laws
open Sys2Proof.Machine Sys2Proof.Safety

/-- What `linkMod` keeps. -/
theorem linkMod_keeps {m : Nat} {a : State} (s : State) (l : Nat) (f : Link → Link) (h : Keeps m a s)
    (hm : Sub 0x100000 m) : Keeps m a (linkMod s l f) :=
  keeps_lift h hm (by
    have h : Keeps 0x100000 s s := keeps_refl _ _
    unfold linkMod
    repeat' first
      | intro _ | with_reducible assumption | with_reducible exact rfl | exact rfl | exact Or.inl rfl | with_reducible exact Or.inr rfl
      | exact Or.inr rfl | simp only [↓keepsMk_eq] | with_reducible apply keepsMk_intro | dsimp only | split)

/-- What `laneMod` keeps. -/
theorem laneMod_keeps {m : Nat} {a : State} (s : State) (l : Nat) (f : Lane → Lane) (h : Keeps m a s)
    (hm : Sub 0x400000 m) : Keeps m a (laneMod s l f) :=
  keeps_lift h hm (by
    have h : Keeps 0x400000 s s := keeps_refl _ _
    unfold laneMod
    repeat' first
      | intro _ | with_reducible assumption | with_reducible exact rfl | exact rfl | exact Or.inl rfl | with_reducible exact Or.inr rfl
      | exact Or.inr rfl | simp only [↓keepsMk_eq] | with_reducible apply keepsMk_intro | dsimp only | split)

/-- What `rotMod` keeps. -/
theorem rotMod_keeps {m : Nat} {a : State} (s : State) (k : Nat) (f : Rot → Rot) (h : Keeps m a s)
    (hm : Sub 0x400000 m) : Keeps m a (rotMod s k f) :=
  keeps_lift h hm (by
    have h : Keeps 0x400000 s s := keeps_refl _ _
    unfold rotMod
    repeat' first
      | intro _ | with_reducible assumption | with_reducible exact rfl | exact rfl | exact Or.inl rfl | with_reducible exact Or.inr rfl
      | exact Or.inr rfl | simp only [↓keepsMk_eq] | with_reducible apply keepsMk_intro | dsimp only | split)

/-- What `stepOver` keeps. -/
theorem stepOver_keeps {m : Nat} {a : State} (s : State) (k : Nat) (h : Keeps m a s)
    (hm : Sub 0x10ca6267ee200 m) : Keeps m a (stepOver s k) :=
  keeps_lift h hm (by
    have h : Keeps 0x10ca6267ee200 s s := keeps_refl _ _
    unfold stepOver
    repeat' first
      | intro _ | with_reducible assumption | with_reducible exact rfl | exact rfl | exact Or.inl rfl | with_reducible exact Or.inr rfl
      | exact Or.inr rfl | with_reducible apply rotMod_keeps | with_reducible apply keeps_ite | simp only [↓keepsMk_eq]
      | with_reducible apply keepsMk_intro | dsimp only | split)

/-- What `stepAbandon` keeps. -/
theorem stepAbandon_keeps {m : Nat} {a : State} (s : State) (k : Nat) (h : Keeps m a s)
    (hm : Sub 0x10ca6267ee200 m) : Keeps m a (stepAbandon s k) :=
  keeps_lift h hm (by
    have h : Keeps 0x10ca6267ee200 s s := keeps_refl _ _
    unfold stepAbandon
    repeat' first
      | intro _ | with_reducible assumption | with_reducible exact rfl | exact rfl | exact Or.inl rfl | with_reducible exact Or.inr rfl
      | exact Or.inr rfl | with_reducible apply laneMod_keeps | with_reducible apply stepOver_keeps | with_reducible apply bump_keeps
      | with_reducible apply keeps_ite | simp only [↓keepsMk_eq] | with_reducible apply keepsMk_intro | dsimp only | split)

/-- What `lanesFollow` keeps. -/
theorem lanesFollow_keeps {m : Nat} {a : State} (s : State) (l : Nat) (off : Bool) (h : Keeps m a s)
    (hm : Sub 0x10ca6267ee200 m) : Keeps m a (lanesFollow s l off) :=
  keeps_lift h hm (by
    have h : Keeps 0x10ca6267ee200 s s := keeps_refl _ _
    unfold lanesFollow
    repeat' first
      | intro _ | with_reducible assumption | with_reducible exact rfl | exact rfl | exact Or.inl rfl | with_reducible exact Or.inr rfl
      | exact Or.inr rfl | with_reducible apply stepAbandon_keeps | with_reducible apply laneMod_keeps
      | with_reducible apply rotMod_keeps | with_reducible apply keeps_ite | simp only [↓keepsMk_eq] | with_reducible apply keepsMk_intro
      | with_reducible apply keeps_foldl | dsimp only | split)

/-- What `lanesTrain` keeps. -/
theorem lanesTrain_keeps {m : Nat} {a : State} (s : State) (l : Nat) (h : Keeps m a s)
    (hm : Sub 0x400000 m) : Keeps m a (lanesTrain s l) :=
  keeps_lift h hm (by
    have h : Keeps 0x400000 s s := keeps_refl _ _
    unfold lanesTrain
    repeat' first
      | intro _ | with_reducible assumption | with_reducible exact rfl | exact rfl | exact Or.inl rfl | with_reducible exact Or.inr rfl
      | exact Or.inr rfl | with_reducible apply laneMod_keeps | with_reducible apply keeps_ite | simp only [↓keepsMk_eq]
      | with_reducible apply keepsMk_intro | with_reducible apply keeps_foldl | dsimp only | split)

/-- What `lanesUp` keeps. -/
theorem lanesUp_keeps {m : Nat} {a : State} (s : State) (l : Nat) (failed : List Nat) (h : Keeps m a s)
    (hm : Sub 0x8000400000 m) : Keeps m a (lanesUp s l failed) :=
  keeps_lift h hm (by
    have h : Keeps 0x8000400000 s s := keeps_refl _ _
    unfold lanesUp
    repeat' first
      | intro _ | with_reducible assumption | with_reducible exact rfl | exact rfl | exact Or.inl rfl | with_reducible exact Or.inr rfl
      | exact Or.inr rfl | with_reducible apply laneMod_keeps | with_reducible apply bump_keeps | with_reducible apply keeps_ite
      | simp only [↓keepsMk_eq] | with_reducible apply keepsMk_intro | with_reducible apply keeps_foldl | dsimp only | split)

/-- What `stageCell` keeps. -/
theorem stageCell_keeps {m : Nat} {a : State} (s : State) (l : Nat) (c : Cell) (h : Keeps m a s)
    (hm : Sub 0x100000 m) : Keeps m a (stageCell s l c) :=
  keeps_lift h hm (by
    have h : Keeps 0x100000 s s := keeps_refl _ _
    unfold stageCell
    repeat' first
      | intro _ | with_reducible assumption | with_reducible exact rfl | exact rfl | exact Or.inl rfl | with_reducible exact Or.inr rfl
      | exact Or.inr rfl | with_reducible apply linkMod_keeps | simp only [↓keepsMk_eq] | with_reducible apply keepsMk_intro | dsimp only
      | split)

/-- What `hopLimit` keeps. -/
theorem hopLimit_keeps {m : Nat} {a : State} (s : State) (c : Cell) (h : Keeps m a s)
    (hm : Sub 0x2000000000 m) : Keeps m a (hopLimit s c) :=
  keeps_lift h hm (by
    have h : Keeps 0x2000000000 s s := keeps_refl _ _
    unfold hopLimit
    repeat' first
      | intro _ | with_reducible assumption | with_reducible exact rfl | exact rfl | exact Or.inl rfl | with_reducible exact Or.inr rfl
      | exact Or.inr rfl | with_reducible apply setReg_keeps | with_reducible apply bump_keeps | dsimp only)

/-- What `routeCell` keeps. -/
theorem routeCell_keeps {m : Nat} {a : State} (s : State) (inp : Option Nat) (c : Cell) (h : Keeps m a s)
    (hm : Sub 0x2000100000 m) : Keeps m a (routeCell s inp c) :=
  keeps_lift h hm (by
    have h : Keeps 0x2000100000 s s := keeps_refl _ _
    unfold routeCell
    repeat' first
      | intro _ | with_reducible assumption | with_reducible exact rfl | exact rfl | exact Or.inl rfl | with_reducible exact Or.inr rfl
      | exact Or.inr rfl | with_reducible apply stageCell_keeps | with_reducible apply bump_keeps | with_reducible apply keeps_ite
      | simp only [↓keepsMk_eq] | with_reducible apply keepsMk_intro | dsimp only | split)

/-- What `placeCopy` keeps. -/
theorem placeCopy_keeps {m : Nat} {a : State} (s : State) (l : Nat) (c : Cell) (h : Keeps m a s)
    (hm : Sub 0x2000100000 m) : Keeps m a (placeCopy s l c) :=
  keeps_lift h hm (by
    have h : Keeps 0x2000100000 s s := keeps_refl _ _
    unfold placeCopy
    repeat' first
      | intro _ | with_reducible assumption | with_reducible exact rfl | exact rfl | exact Or.inl rfl | with_reducible exact Or.inr rfl
      | exact Or.inr rfl | with_reducible apply stageCell_keeps | with_reducible apply bump_keeps | with_reducible apply keeps_ite
      | simp only [↓keepsMk_eq] | with_reducible apply keepsMk_intro | dsimp only | split)

/-- What `mcCopy` keeps. -/
theorem mcCopy_keeps {m : Nat} {a : State} (s : State) (c : Cell) (l : Nat) (h : Keeps m a s)
    (hm : Sub 0x2000100000 m) : Keeps m a (mcCopy s c l) :=
  keeps_lift h hm (by
    have h : Keeps 0x2000100000 s s := keeps_refl _ _
    unfold mcCopy
    repeat' first
      | intro _ | with_reducible assumption | with_reducible exact rfl | exact rfl | exact Or.inl rfl | with_reducible exact Or.inr rfl
      | exact Or.inr rfl | with_reducible apply bump_keeps | with_reducible apply placeCopy_keeps | with_reducible apply keeps_ite
      | dsimp only | split)

/-- What `ejectCell` keeps. -/
theorem ejectCell_keeps {m : Nat} {a : State} (s : State) (l : Nat) (c : Cell) (h : Keeps m a s)
    (hm : Sub 0x100000 m) : Keeps m a (ejectCell s l c) :=
  keeps_lift h hm (by
    have h : Keeps 0x100000 s s := keeps_refl _ _
    unfold ejectCell
    repeat' first
      | intro _ | with_reducible assumption | with_reducible exact rfl | exact rfl | exact Or.inl rfl | with_reducible exact Or.inr rfl
      | exact Or.inr rfl | simp only [↓keepsMk_eq] | with_reducible apply keepsMk_intro | dsimp only)

/-- What `ejectArrival` keeps. -/
theorem ejectArrival_keeps {m : Nat} {a : State} (s : State) (l : Nat) (c : Cell) (h : Keeps m a s)
    (hm : Sub 0x2000100000 m) : Keeps m a (ejectArrival s l c) :=
  keeps_lift h hm (by
    have h : Keeps 0x2000100000 s s := keeps_refl _ _
    unfold ejectArrival
    repeat' first
      | intro _ | with_reducible assumption | with_reducible exact rfl | exact rfl | exact Or.inl rfl | with_reducible exact Or.inr rfl
      | exact Or.inr rfl | with_reducible apply bump_keeps | with_reducible apply ejectCell_keeps | with_reducible apply keeps_ite
      | dsimp only | split)

/-- What `mcArrive` keeps. -/
theorem mcArrive_keeps {m : Nat} {a : State} (s : State) (l : Nat) (c : Cell) (h : Keeps m a s)
    (hm : Sub 0x2000100000 m) : Keeps m a (mcArrive s l c) :=
  keeps_lift h hm (by
    have h : Keeps 0x2000100000 s s := keeps_refl _ _
    unfold mcArrive
    repeat' first
      | intro _ | with_reducible assumption | with_reducible exact rfl | exact rfl | exact Or.inl rfl | with_reducible exact Or.inr rfl
      | exact Or.inr rfl | with_reducible apply bump_keeps | with_reducible apply hopLimit_keeps | with_reducible apply mcCopy_keeps
      | with_reducible apply ejectArrival_keeps | with_reducible apply keeps_ite | with_reducible apply keeps_foldl | dsimp only | split)

/-- What `serveHold` keeps. -/
theorem serveHold_keeps0 {a : State} (s : State) (l : Nat) (x1 : Nat) (h : Keeps 0x100000 a s) :
    Keeps 0x100000 a (serveHold s l x1) := by
  induction x1 generalizing s l with
  | zero =>
    unfold serveHold
    repeat' first
      | intro _ | with_reducible assumption | with_reducible exact rfl | exact rfl | exact Or.inl rfl | with_reducible exact Or.inr rfl
      | exact Or.inr rfl | with_reducible apply ko_map | with_reducible apply ko_bind | with_reducible apply keeps_getD
      | with_reducible apply stageCell_keeps | with_reducible apply keeps_ite | simp only [↓keepsMk_eq]
      | with_reducible apply keepsMk_intro | dsimp only | split | cases ‹_ + 1 = _ + 1›
  | succ _ ih =>
    unfold serveHold
    repeat' first
      | intro _ | with_reducible assumption | with_reducible exact rfl | exact rfl | exact Or.inl rfl | with_reducible exact Or.inr rfl
      | exact Or.inr rfl | with_reducible apply ih | with_reducible apply ko_map | with_reducible apply ko_bind
      | with_reducible apply keeps_getD | with_reducible apply stageCell_keeps | with_reducible apply keeps_ite | simp only [↓keepsMk_eq]
      | with_reducible apply keepsMk_intro | dsimp only | split | cases ‹_ + 1 = _ + 1›

/-- The same within a greater set. -/
theorem serveHold_keeps {m : Nat} {a : State} (s : State) (l : Nat) (x1 : Nat) (h : Keeps m a s)
    (hm : Sub 0x100000 m) : Keeps m a (serveHold s l x1) :=
  keeps_lift h hm (serveHold_keeps0 s l x1 (keeps_refl _ _))

/-- What `tailCheck` keeps. -/
theorem tailCheck_keeps {m : Nat} {a : State} (s : State) (l : Nat) (c : Cell) (h : Keeps m a s)
    (hm : Sub 0x2000000000 m) : Keeps m a (tailCheck s l c).1 :=
  keeps_lift h hm (by
    have h : Keeps 0x2000000000 s s := keeps_refl _ _
    unfold tailCheck
    repeat' first
      | intro _ | with_reducible assumption | with_reducible exact rfl | exact rfl | exact Or.inl rfl | with_reducible exact Or.inr rfl
      | exact Or.inr rfl | with_reducible apply bump_keeps | with_reducible apply keeps_ite | simp only [↓keepsMk_eq]
      | with_reducible apply keepsMk_intro | dsimp only | split)

/-- What `execRouterPass` keeps. -/
theorem execRouterPass_keeps {m : Nat} {a : State} (l : Nat) (c : Cell) (s : State) (h : Keeps m a s)
    (hm : Sub 0x2000100000 m) : KN m a (execRouterPass l c s) :=
  kn_lift h hm (by
    have h : Keeps 0x2000100000 s s := keeps_refl _ _
    unfold execRouterPass
    repeat' first
      | intro _ | with_reducible assumption | with_reducible exact rfl | exact rfl | exact Or.inl rfl | with_reducible exact Or.inr rfl
      | exact Or.inr rfl | with_reducible apply kn_next | with_reducible apply bump_keeps | with_reducible apply tailCheck_keeps
      | with_reducible apply ejectCell_keeps | with_reducible apply mcArrive_keeps | with_reducible apply ejectArrival_keeps
      | with_reducible apply hopLimit_keeps | with_reducible apply routeCell_keeps | with_reducible apply keeps_ite | dsimp only | split
      | refine kq_get ?_ (by with_reducible assumption) | refine kq_get1 ?_ (by with_reducible assumption))

/-- What `execCellSlot` keeps. -/
theorem execCellSlot_keeps {m : Nat} {a : State} (l : Nat) (bad : Bool) (s : State) (h : Keeps m a s)
    (hm : Sub 0x8202010e200 m) : KN m a (execCellSlot l bad s) :=
  kn_lift h hm (by
    have h : Keeps 0x8202010e200 s s := keeps_refl _ _
    unfold execCellSlot
    repeat' first
      | intro _ | with_reducible assumption | with_reducible exact rfl | exact rfl | exact Or.inl rfl | with_reducible exact Or.inr rfl
      | exact Or.inr rfl | with_reducible apply kn_next | with_reducible apply linkMod_keeps | with_reducible apply report_keeps
      | with_reducible apply bump_keeps | with_reducible apply emit_keeps | with_reducible apply serveHold_keeps
      | with_reducible apply keeps_ite | simp only [↓keepsMk_eq] | with_reducible apply keepsMk_intro | dsimp only | split)

/-- What `execMcHoldTimeout` keeps. -/
theorem execMcHoldTimeout_keeps {m : Nat} {a : State} (s : State) (h : Keeps m a s)
    (hm : Sub 0x2000100000 m) : KN m a (execMcHoldTimeout s) :=
  kn_lift h hm (by
    have h : Keeps 0x2000100000 s s := keeps_refl _ _
    unfold execMcHoldTimeout
    repeat' first
      | intro _ | with_reducible assumption | with_reducible exact rfl | exact rfl | exact Or.inl rfl | with_reducible exact Or.inr rfl
      | exact Or.inr rfl | with_reducible apply kn_next | with_reducible apply bump_keeps | simp only [↓keepsMk_eq]
      | with_reducible apply keepsMk_intro | dsimp only | split)

/-- What `injectWaits` keeps. -/
theorem injectWaits_keeps {m : Nat} {a : State} (s : State) (h : Keeps m a s)
    (hm : Sub 0x2000100000 m) : Keeps m a (injectWaits s) :=
  keeps_lift h hm (by
    have h : Keeps 0x2000100000 s s := keeps_refl _ _
    unfold injectWaits
    repeat' first
      | intro _ | with_reducible assumption | with_reducible exact rfl | exact rfl | exact Or.inl rfl | with_reducible exact Or.inr rfl
      | exact Or.inr rfl | with_reducible apply bump_keeps | with_reducible apply keeps_ite | simp only [↓keepsMk_eq]
      | with_reducible apply keepsMk_intro | dsimp only | split)

/-- What `mcRefuse` keeps. -/
theorem mcRefuse_keeps {m : Nat} {a : State} (s : State) (group : Nat) (h : Keeps m a s)
    (hm : Sub 0x2000020000 m) : Keeps m a (mcRefuse s group) :=
  keeps_lift h hm (by
    have h : Keeps 0x2000020000 s s := keeps_refl _ _
    unfold mcRefuse
    repeat' first
      | intro _ | with_reducible assumption | with_reducible exact rfl | exact rfl | exact Or.inl rfl | with_reducible exact Or.inr rfl
      | exact Or.inr rfl | with_reducible apply bump_keeps | simp only [↓keepsMk_eq] | with_reducible apply keepsMk_intro | dsimp only)

/-- What `execCellInject` keeps. -/
theorem execCellInject_keeps {m : Nat} {a : State} (s : State) (h : Keeps m a s)
    (hm : Sub 0x18c26261ee200 m) : KN m a (execCellInject s) :=
  kn_lift h hm (by
    have h : Keeps 0x18c26261ee200 s s := keeps_refl _ _
    unfold execCellInject
    repeat' first
      | intro _ | with_reducible assumption | with_reducible exact rfl | exact rfl | exact Or.inl rfl | with_reducible exact Or.inr rfl
      | exact Or.inr rfl | with_reducible apply kn_next | with_reducible apply mcRefuse_keeps | with_reducible apply injectWaits_keeps
      | with_reducible apply mcCopy_keeps | with_reducible apply ejectCell_keeps | with_reducible apply headNoRoute_keeps
      | with_reducible apply stageCell_keeps | with_reducible apply keeps_ite | simp only [↓keepsMk_eq]
      | with_reducible apply keepsMk_intro | with_reducible apply keeps_foldl | dsimp only | split)

/-- What `linkRecord` keeps. -/
theorem linkRecord_keeps {m : Nat} {a : State} (s : State) (code : Nat) (sev : Nat) (inst : Nat) (bits : Nat) (h : Keeps m a s)
    (hm : Sub 0x8002000e200 m) : Keeps m a (linkRecord s code sev inst bits) :=
  keeps_lift h hm (by
    have h : Keeps 0x8002000e200 s s := keeps_refl _ _
    unfold linkRecord
    repeat' first
      | intro _ | with_reducible assumption | with_reducible exact rfl | exact rfl | exact Or.inl rfl | with_reducible exact Or.inr rfl
      | exact Or.inr rfl | with_reducible apply report_keeps | simp only [↓keepsMk_eq] | with_reducible apply keepsMk_intro | dsimp only)

/-- What `cutSet` keeps. -/
theorem cutSet_keeps {m : Nat} {a : State} (s : State) (node : Nat) (k : Nat) (on : Bool) (bits : Nat) (h : Keeps m a s)
    (hm : Sub 0x8002012e200 m) : Keeps m a (cutSet s node k on bits) :=
  keeps_lift h hm (by
    have h : Keeps 0x8002012e200 s s := keeps_refl _ _
    unfold cutSet
    repeat' first
      | intro _ | with_reducible assumption | with_reducible exact rfl | exact rfl | exact Or.inl rfl | with_reducible exact Or.inr rfl
      | exact Or.inr rfl | with_reducible apply linkRecord_keeps | with_reducible apply keeps_ite | simp only [↓keepsMk_eq]
      | with_reducible apply keepsMk_intro | dsimp only | split)

/-- What `noticeSeen` keeps. -/
theorem noticeSeen_keeps {m : Nat} {a : State} (s : State) (p : Nat × Nat) (h : Keeps m a s)
    (hm : Sub 0x100000 m) : Keeps m a (noticeSeen s p) :=
  keeps_lift h hm (by
    have h : Keeps 0x100000 s s := keeps_refl _ _
    unfold noticeSeen
    repeat' first
      | intro _ | with_reducible assumption | with_reducible exact rfl | exact rfl | exact Or.inl rfl | with_reducible exact Or.inr rfl
      | exact Or.inr rfl | simp only [↓keepsMk_eq] | with_reducible apply keepsMk_intro | dsimp only)

/-- What `floodNotice` keeps. -/
theorem floodNotice_keeps {m : Nat} {a : State} (s : State) (c : Cell) (but : Nat) (h : Keeps m a s)
    (hm : Sub 0x2000100000 m) : Keeps m a (floodNotice s c but) :=
  keeps_lift h hm (by
    have h : Keeps 0x2000100000 s s := keeps_refl _ _
    unfold floodNotice
    repeat' first
      | intro _ | with_reducible assumption | with_reducible exact rfl | exact rfl | with_reducible apply placeCopy_keeps
      | with_reducible apply keeps_foldl | dsimp only | split)

/-- What `sendNotice` keeps. -/
theorem sendNotice_keeps {m : Nat} {a : State} (s : State) (bits : Nat) (nseq : Nat) (h : Keeps m a s)
    (hm : Sub 0x2000100000 m) : Keeps m a (sendNotice s bits nseq) :=
  keeps_lift h hm (by
    have h : Keeps 0x2000100000 s s := keeps_refl _ _
    unfold sendNotice
    repeat' first
      | intro _ | with_reducible assumption | with_reducible exact rfl | exact rfl | exact Or.inl rfl | with_reducible exact Or.inr rfl
      | exact Or.inr rfl | with_reducible apply bump_keeps | with_reducible apply floodNotice_keeps
      | with_reducible apply noticeSeen_keeps | simp only [↓keepsMk_eq] | with_reducible apply keepsMk_intro | dsimp only)

/-- What `linkChanged` keeps. -/
theorem linkChanged_keeps {m : Nat} {a : State} (s : State) (l : Nat) (kind : Nat) (h : Keeps m a s)
    (hm : Sub 0x8202012e200 m) : Keeps m a (linkChanged s l kind) :=
  keeps_lift h hm (by
    have h : Keeps 0x8202012e200 s s := keeps_refl _ _
    unfold linkChanged
    repeat' first
      | intro _ | with_reducible assumption | with_reducible exact rfl | exact rfl | exact Or.inl rfl | with_reducible exact Or.inr rfl
      | exact Or.inr rfl | with_reducible apply linkRecord_keeps | with_reducible apply cutSet_keeps
      | with_reducible apply sendNotice_keeps | with_reducible apply keeps_ite | simp only [↓keepsMk_eq]
      | with_reducible apply keepsMk_intro | dsimp only | split)

/-- What `execNoticeFallbackTimer` keeps. -/
theorem execNoticeFallbackTimer_keeps {m : Nat} {a : State} (k : Nat) (s : State) (h : Keeps m a s)
    (hm : Sub 0x2000100000 m) : KN m a (execNoticeFallbackTimer k s) :=
  kn_lift h hm (by
    have h : Keeps 0x2000100000 s s := keeps_refl _ _
    unfold execNoticeFallbackTimer
    repeat' first
      | intro _ | with_reducible assumption | with_reducible exact rfl | exact rfl | exact Or.inl rfl | with_reducible exact Or.inr rfl
      | exact Or.inr rfl | with_reducible apply kn_next | with_reducible apply sendNotice_keeps | simp only [↓keepsMk_eq]
      | with_reducible apply keepsMk_intro | dsimp only | split)

/-- What `noticeTake` keeps. -/
theorem noticeTake_keeps {m : Nat} {a : State} (s : State) (l : Nat) (c : Cell) (h : Keeps m a s)
    (hm : Sub 0x8202012e200 m) : Keeps m a (noticeTake s l c) :=
  keeps_lift h hm (by
    have h : Keeps 0x8202012e200 s s := keeps_refl _ _
    unfold noticeTake
    repeat' first
      | intro _ | with_reducible assumption | with_reducible exact rfl | exact rfl | exact Or.inl rfl | with_reducible exact Or.inr rfl
      | exact Or.inr rfl | with_reducible apply bump_keeps | with_reducible apply floodNotice_keeps
      | with_reducible apply noticeSeen_keeps | with_reducible apply cutSet_keeps | with_reducible apply suppressNode_keeps
      | with_reducible apply keeps_ite | simp only [↓keepsMk_eq] | with_reducible apply keepsMk_intro | dsimp only | split)

/-- What `execNoticeReceive` keeps. -/
theorem execNoticeReceive_keeps {m : Nat} {a : State} (l : Nat) (c : Cell) (s : State) (h : Keeps m a s)
    (hm : Sub 0x8202012e200 m) : KN m a (execNoticeReceive l c s) :=
  kn_lift h hm (by
    have h : Keeps 0x8202012e200 s s := keeps_refl _ _
    unfold execNoticeReceive
    repeat' first
      | intro _ | with_reducible assumption | with_reducible exact rfl | exact rfl | with_reducible apply kn_next
      | with_reducible apply noticeTake_keeps | with_reducible apply keeps_ite | dsimp only | split)

/-- What `execCellEject` keeps. -/
theorem execCellEject_keeps {m : Nat} {a : State} (chan : Bool) (s : State) (h : Keeps m a s)
    (hm : Sub 0x8202012e200 m) : KN m a (execCellEject chan s) :=
  kn_lift h hm (by
    have h : Keeps 0x8202012e200 s s := keeps_refl _ _
    unfold execCellEject
    repeat' first
      | intro _ | with_reducible assumption | with_reducible exact rfl | exact rfl | exact Or.inl rfl | with_reducible exact Or.inr rfl
      | exact Or.inr rfl | with_reducible apply kn_next | with_reducible apply noticeTake_keeps | with_reducible apply emit_keeps
      | simp only [↓keepsMk_eq] | with_reducible apply keepsMk_intro | dsimp only | split)

/-- What `trainStart` keeps. -/
theorem trainStart_keeps {m : Nat} {a : State} (s : State) (l : Nat) (h : Keeps m a s)
    (hm : Sub 0x20500000 m) : Keeps m a (trainStart s l) :=
  keeps_lift h hm (by
    have h : Keeps 0x20500000 s s := keeps_refl _ _
    unfold trainStart
    repeat' first
      | intro _ | with_reducible assumption | with_reducible exact rfl | exact rfl | exact Or.inl rfl | with_reducible exact Or.inr rfl
      | exact Or.inr rfl | with_reducible apply lanesTrain_keeps | with_reducible apply emit_keeps | with_reducible apply linkMod_keeps
      | simp only [↓keepsMk_eq] | with_reducible apply keepsMk_intro | dsimp only | split)

/-- What `reroute` keeps. -/
theorem reroute_keeps {m : Nat} {a : State} (s : State) (cells : List Cell) (h : Keeps m a s)
    (hm : Sub 0x2000100000 m) : Keeps m a (reroute s cells) :=
  keeps_lift h hm (by
    have h : Keeps 0x2000100000 s s := keeps_refl _ _
    unfold reroute
    repeat' first
      | intro _ | with_reducible assumption | with_reducible exact rfl | exact rfl | exact Or.inl rfl | with_reducible exact Or.inr rfl
      | exact Or.inr rfl | with_reducible apply bump_keeps | with_reducible apply routeCell_keeps | with_reducible apply keeps_ite
      | with_reducible apply keeps_foldl | dsimp only | split)

/-- What `linkDead` keeps. -/
theorem linkDead_keeps {m : Nat} {a : State} (s : State) (l : Nat) (reason : Nat) (off : Bool) (h : Keeps m a s)
    (hm : Sub 0x10ca6267ee200 m) : Keeps m a (linkDead s l reason off) :=
  keeps_lift h hm (by
    have h : Keeps 0x10ca6267ee200 s s := keeps_refl _ _
    unfold linkDead
    repeat' first
      | intro _ | with_reducible assumption | with_reducible exact rfl | exact rfl | exact Or.inl rfl | with_reducible exact Or.inr rfl
      | exact Or.inr rfl | with_reducible apply linkMod_keeps | with_reducible apply lanesFollow_keeps | with_reducible apply bump_keeps
      | with_reducible apply failoverCheck_keeps | with_reducible apply linkChanged_keeps | with_reducible apply reroute_keeps
      | with_reducible apply keeps_ite | simp only [↓keepsMk_eq] | with_reducible apply keepsMk_intro | dsimp only | split)

/-- What `execLinkEnable` keeps. -/
theorem execLinkEnable_keeps {m : Nat} {a : State} (l : Nat) (s : State) (h : Keeps m a s)
    (hm : Sub 0x20500200 m) : KN m a (execLinkEnable l s) :=
  kn_lift h hm (by
    have h : Keeps 0x20500200 s s := keeps_refl _ _
    unfold execLinkEnable
    repeat' first
      | intro _ | with_reducible assumption | with_reducible exact rfl | exact rfl | exact Or.inl rfl | with_reducible exact Or.inr rfl
      | exact Or.inr rfl | with_reducible apply kn_next | with_reducible apply dropHeld_keeps | with_reducible apply linkMod_keeps
      | with_reducible apply trainStart_keeps | with_reducible apply keeps_ite | simp only [↓keepsMk_eq]
      | with_reducible apply keepsMk_intro | dsimp only | split)

/-- What `execLinkDisable` keeps. -/
theorem execLinkDisable_keeps {m : Nat} {a : State} (l : Nat) (s : State) (h : Keeps m a s)
    (hm : Sub 0x10ca6267ee200 m) : KN m a (execLinkDisable l s) :=
  kn_lift h hm (by
    have h : Keeps 0x10ca6267ee200 s s := keeps_refl _ _
    unfold execLinkDisable
    repeat' first
      | intro _ | with_reducible assumption | with_reducible exact rfl | exact rfl | exact Or.inl rfl | with_reducible exact Or.inr rfl
      | exact Or.inr rfl | with_reducible apply kn_next | with_reducible apply dropHeld_keeps | with_reducible apply linkMod_keeps
      | with_reducible apply linkDead_keeps | with_reducible apply lanesFollow_keeps | with_reducible apply keeps_ite
      | simp only [↓keepsMk_eq] | with_reducible apply keepsMk_intro | dsimp only | split)

/-- What `execLinkRetrain` keeps. -/
theorem execLinkRetrain_keeps {m : Nat} {a : State} (l : Nat) (s : State) (h : Keeps m a s)
    (hm : Sub 0x20500200 m) : KN m a (execLinkRetrain l s) :=
  kn_lift h hm (by
    have h : Keeps 0x20500200 s s := keeps_refl _ _
    unfold execLinkRetrain
    repeat' first
      | intro _ | with_reducible assumption | with_reducible exact rfl | exact rfl | with_reducible apply kn_next
      | with_reducible apply dropHeld_keeps | with_reducible apply trainStart_keeps | with_reducible apply keeps_ite | dsimp only | split)

/-- What `execTrainingWordReceive` keeps. -/
theorem execTrainingWordReceive_keeps {m : Nat} {a : State} (l : Nat) (b : LinkId) (failed : List Nat) (s : State) (h : Keeps m a s)
    (hm : Sub 0x8a02052e200 m) : KN m a (execTrainingWordReceive l b failed s) :=
  kn_lift h hm (by
    have h : Keeps 0x8a02052e200 s s := keeps_refl _ _
    unfold execTrainingWordReceive
    repeat' first
      | intro _ | with_reducible assumption | with_reducible exact rfl | exact rfl | exact Or.inl rfl | with_reducible exact Or.inr rfl
      | exact Or.inr rfl | with_reducible apply kn_next | with_reducible apply linkMod_keeps | with_reducible apply emit_keeps
      | with_reducible apply linkChanged_keeps | with_reducible apply lanesUp_keeps | with_reducible apply keeps_ite
      | simp only [↓keepsMk_eq] | with_reducible apply keepsMk_intro | dsimp only | split)

/-- What `execTrainingTimeout` keeps. -/
theorem execTrainingTimeout_keeps {m : Nat} {a : State} (l : Nat) (s : State) (h : Keeps m a s)
    (hm : Sub 0x20500000 m) : KN m a (execTrainingTimeout l s) :=
  kn_lift h hm (by
    have h : Keeps 0x20500000 s s := keeps_refl _ _
    unfold execTrainingTimeout
    repeat' first
      | intro _ | with_reducible assumption | with_reducible exact rfl | exact rfl | with_reducible apply kn_next
      | with_reducible apply trainStart_keeps | with_reducible apply keeps_ite | dsimp only | split)

/-- What `execLossOfSignal` keeps. -/
theorem execLossOfSignal_keeps {m : Nat} {a : State} (l : Nat) (lock : Bool) (s : State) (h : Keeps m a s)
    (hm : Sub 0x10ca6267ee200 m) : KN m a (execLossOfSignal l lock s) :=
  kn_lift h hm (by
    have h : Keeps 0x10ca6267ee200 s s := keeps_refl _ _
    unfold execLossOfSignal
    repeat' first
      | intro _ | with_reducible assumption | with_reducible exact rfl | exact rfl | with_reducible apply kn_next
      | with_reducible apply linkDead_keeps | with_reducible apply keeps_ite | dsimp only | split)

/-- What `execNoBlockTimeout` keeps. -/
theorem execNoBlockTimeout_keeps {m : Nat} {a : State} (l : Nat) (s : State) (h : Keeps m a s)
    (hm : Sub 0x10ca6267ee200 m) : KN m a (execNoBlockTimeout l s) :=
  kn_lift h hm (by
    have h : Keeps 0x10ca6267ee200 s s := keeps_refl _ _
    unfold execNoBlockTimeout
    repeat' first
      | intro _ | with_reducible assumption | with_reducible exact rfl | exact rfl | with_reducible apply kn_next
      | with_reducible apply linkDead_keeps | dsimp only)

/-- What `execFecRateExceeded` keeps. -/
theorem execFecRateExceeded_keeps {m : Nat} {a : State} (l : Nat) (words : Nat) (s : State) (h : Keeps m a s)
    (hm : Sub 0x10ca6267ee200 m) : KN m a (execFecRateExceeded l words s) :=
  kn_lift h hm (by
    have h : Keeps 0x10ca6267ee200 s s := keeps_refl _ _
    unfold execFecRateExceeded
    repeat' first
      | intro _ | with_reducible assumption | with_reducible exact rfl | exact rfl | exact Or.inl rfl | with_reducible exact Or.inr rfl
      | exact Or.inr rfl | with_reducible apply kn_next | with_reducible apply linkDead_keeps | with_reducible apply bumpBy_keeps
      | with_reducible apply keeps_foldl | dsimp only | split)

/-- What `execLinkDownTimer` keeps. -/
theorem execLinkDownTimer_keeps {m : Nat} {a : State} (l : Nat) (s : State) (h : Keeps m a s)
    (hm : Sub 0x20500000 m) : KN m a (execLinkDownTimer l s) :=
  kn_lift h hm (by
    have h : Keeps 0x20500000 s s := keeps_refl _ _
    unfold execLinkDownTimer
    repeat' first
      | intro _ | with_reducible assumption | with_reducible exact rfl | exact rfl | exact Or.inl rfl | with_reducible exact Or.inr rfl
      | exact Or.inr rfl | with_reducible apply kn_next | with_reducible apply linkMod_keeps | with_reducible apply trainStart_keeps
      | with_reducible apply keeps_ite | simp only [↓keepsMk_eq] | with_reducible apply keepsMk_intro | dsimp only | split)

/-- What `execLinkHoldExpiry` keeps. -/
theorem execLinkHoldExpiry_keeps {m : Nat} {a : State} (l : Nat) (s : State) (h : Keeps m a s)
    (hm : Sub 0x20500000 m) : KN m a (execLinkHoldExpiry l s) :=
  kn_lift h hm (by
    have h : Keeps 0x20500000 s s := keeps_refl _ _
    unfold execLinkHoldExpiry
    repeat' first
      | intro _ | with_reducible assumption | with_reducible exact rfl | exact rfl | with_reducible apply kn_next
      | with_reducible apply trainStart_keeps | with_reducible apply keeps_ite | dsimp only | split)

/-- What `linkAutoTrain` keeps. -/
theorem linkAutoTrain_keeps {m : Nat} {a : State} (s : State) (l : Nat) (h : Keeps m a s)
    (hm : Sub 0x20500000 m) : Keeps m a (linkAutoTrain s l) :=
  keeps_lift h hm (by
    have h : Keeps 0x20500000 s s := keeps_refl _ _
    unfold linkAutoTrain
    repeat' first
      | intro _ | with_reducible assumption | with_reducible exact rfl | exact rfl | exact Or.inl rfl | with_reducible exact Or.inr rfl
      | exact Or.inr rfl | with_reducible apply trainStart_keeps | with_reducible apply keeps_ite | simp only [↓keepsMk_eq]
      | with_reducible apply keepsMk_intro | dsimp only | split)

/-- What `linksTrain` keeps. -/
theorem linksTrain_keeps {m : Nat} {a : State} (s : State) (h : Keeps m a s)
    (hm : Sub 0x20500000 m) : Keeps m a (linksTrain s) :=
  keeps_lift h hm (by
    have h : Keeps 0x20500000 s s := keeps_refl _ _
    unfold linksTrain
    repeat' first
      | intro _ | with_reducible assumption | with_reducible exact rfl | exact rfl | with_reducible apply linkAutoTrain_keeps
      | with_reducible apply keeps_foldl | dsimp only)

/-- What `linksRenumber` keeps. -/
theorem linksRenumber_keeps {m : Nat} {a : State} (s : State) (h : Keeps m a s)
    (hm : Sub 0x10ca6267ee200 m) : Keeps m a (linksRenumber s) :=
  keeps_lift h hm (by
    have h : Keeps 0x10ca6267ee200 s s := keeps_refl _ _
    unfold linksRenumber
    repeat' first
      | intro _ | with_reducible assumption | with_reducible exact rfl | exact rfl | exact Or.inl rfl | with_reducible exact Or.inr rfl
      | exact Or.inr rfl | with_reducible apply linkAutoTrain_keeps | with_reducible apply linkMod_keeps
      | with_reducible apply linkDead_keeps | with_reducible apply keeps_ite | simp only [↓keepsMk_eq]
      | with_reducible apply keepsMk_intro | with_reducible apply keeps_foldl | dsimp only | split)

end Sys2Proof.Laws
end

