-- ==== Sys2Proof/Laws/KeepsEmac.lean ====
section
/-! SUPPORT. Every definition of Machine/Emac.lean keeps what `Keeps` says. -/
namespace Sys2Proof.Laws
open Sys2Proof.Machine Sys2Proof.Safety

/-- What `sendPfc` keeps. -/
theorem sendPfc_keeps {m : Nat} {a : State} (s : State) (p : Nat) (prio : Nat) (quanta : Nat) (h : Keeps m a s)
    (hm : Sub 0x4020002200 m) : Keeps m a (sendPfc s p prio quanta) :=
  keeps_lift h hm (by
    have h : Keeps 0x4020002200 s s := keeps_refl _ _
    unfold sendPfc
    repeat' first
      | intro _ | with_reducible assumption | with_reducible exact rfl | exact rfl | with_reducible apply emit_keeps
      | with_reducible apply stat_keeps | dsimp only)

/-- What `takeRoom` keeps. -/
theorem takeRoom_keeps {m : Nat} {a : State} (s : State) (p : Nat) (prio : Nat) (len : Nat) (fill : Nat) (h : Keeps m a s)
    (hm : Sub 0x4020202200 m) : Keeps m a (takeRoom s p prio len fill).1 :=
  keeps_lift h hm (by
    have h : Keeps 0x4020202200 s s := keeps_refl _ _
    unfold takeRoom
    repeat' first
      | intro _ | with_reducible assumption | with_reducible exact rfl | exact rfl | exact Or.inl rfl | with_reducible exact Or.inr rfl
      | exact Or.inr rfl | with_reducible apply stat_keeps | with_reducible apply sendPfc_keeps | with_reducible apply eportMod_keeps
      | with_reducible apply keeps_ite | simp only [↓keepsMk_eq] | with_reducible apply keepsMk_intro | dsimp only | split)

/-- What `takePfc` keeps. -/
theorem takePfc_keeps {m : Nat} {a : State} (s : State) (p : Nat) (f : List Byte) (h : Keeps m a s)
    (hm : Sub 0x4020202200 m) : Keeps m a (takePfc s p f) :=
  keeps_lift h hm (by
    have h : Keeps 0x4020202200 s s := keeps_refl _ _
    unfold takePfc
    repeat' first
      | intro _ | with_reducible assumption | with_reducible exact rfl | exact rfl | exact Or.inl rfl | with_reducible exact Or.inr rfl
      | exact Or.inr rfl | with_reducible apply eportMod_keeps | with_reducible apply statBy_keeps | with_reducible apply stat_keeps
      | with_reducible apply keeps_ite | simp only [↓keepsMk_eq] | with_reducible apply keepsMk_intro | with_reducible apply keeps_foldl
      | dsimp only | split)

/-- What `countFrame` keeps. -/
theorem countFrame_keeps {m : Nat} {a : State} (s : State) (p : Nat) (f : List Byte) (flags : Nat) (h : Keeps m a s)
    (hm : Sub 0x4020002200 m) : Keeps m a (countFrame s p f flags) :=
  keeps_lift h hm (by
    have h : Keeps 0x4020002200 s s := keeps_refl _ _
    unfold countFrame
    repeat' first
      | intro _ | with_reducible assumption | with_reducible exact rfl | exact rfl | exact Or.inl rfl | with_reducible exact Or.inr rfl
      | exact Or.inr rfl | with_reducible apply stat_keeps | with_reducible apply statBy_keeps | with_reducible apply keeps_ite
      | with_reducible apply keeps_foldl | dsimp only | split)

/-- What `takeTransport` keeps. -/
theorem takeTransport_keeps {m : Nat} {a : State} (s : State) (p : Nat) (prio : Nat) (f : List Byte) (flags : Nat) (fill : Nat) (chan : Bool) (h : Keeps m a s)
    (hm : Sub 0x4020222200 m) : Keeps m a (takeTransport s p prio f flags fill chan) :=
  keeps_lift h hm (by
    have h : Keeps 0x4020222200 s s := keeps_refl _ _
    unfold takeTransport
    repeat' first
      | intro _ | with_reducible assumption | with_reducible exact rfl | exact rfl | exact Or.inl rfl | with_reducible exact Or.inr rfl
      | exact Or.inr rfl | with_reducible apply stat_keeps | with_reducible apply takeRoom_keeps | with_reducible apply emit_keeps
      | with_reducible apply keeps_ite | simp only [↓keepsMk_eq] | with_reducible apply keepsMk_intro | dsimp only | split
      | refine kq_get ?_ (by with_reducible assumption) | refine kq_get1 ?_ (by with_reducible assumption))

/-- What `placeFrame` keeps. -/
theorem placeFrame_keeps {m : Nat} {a : State} (s : State) (q : Nat) (idx : Nat) (b : List Byte) (word : Nat) (imm : Nat) (h : Keeps m a s)
    (hm : Sub 0x10c462206e200 m) : Keeps m a (placeFrame s q idx b word imm) :=
  keeps_lift h hm (by
    have h : Keeps 0x10c462206e200 s s := keeps_refl _ _
    unfold placeFrame
    repeat' first
      | intro _ | with_reducible assumption | with_reducible exact rfl | exact rfl | exact Or.inl rfl | with_reducible exact Or.inr rfl
      | exact Or.inr rfl | with_reducible apply ko_map | with_reducible apply ko_bind | with_reducible apply keeps_getD
      | with_reducible apply ko_some | with_reducible exact ko_none | with_reducible apply entryMod_keeps
      | with_reducible apply issueSegs_keeps | with_reducible apply stall_keeps | with_reducible apply entryDone_keeps
      | with_reducible apply openStages_keeps | with_reducible apply stat_keeps | with_reducible apply endXfer_keeps
      | with_reducible apply finishWrite_keeps | with_reducible apply keeps_ite | simp only [↓keepsMk_eq]
      | with_reducible apply keepsMk_intro | dsimp only | split | refine ko_get ?_ (by with_reducible assumption)
      | refine kq_get ?_ (by with_reducible assumption) | refine kq_get1 ?_ (by with_reducible assumption))

/-- What `deliverFrame` keeps. -/
theorem deliverFrame_keeps {m : Nat} {a : State} (s : State) (p : Nat) (prio : Nat) (f : List Byte) (flags : Nat) (queue : Nat) (mark : Nat) (h : Keeps m a s)
    (hm : Sub 0x10c462206e200 m) : Keeps m a (deliverFrame s p prio f flags queue mark) :=
  keeps_lift h hm (by
    have h : Keeps 0x10c462206e200 s s := keeps_refl _ _
    unfold deliverFrame
    repeat' first
      | intro _ | with_reducible assumption | with_reducible exact rfl | exact rfl | exact Or.inl rfl | with_reducible exact Or.inr rfl
      | exact Or.inr rfl | with_reducible apply stat_keeps | with_reducible apply entryDone_keeps | with_reducible apply entryMod_keeps
      | with_reducible apply placeFrame_keeps | with_reducible apply keeps_ite | simp only [↓keepsMk_eq]
      | with_reducible apply keepsMk_intro | dsimp only | split)

/-- What `execFrameReceive` keeps. -/
theorem execFrameReceive_keeps {m : Nat} {a : State} (p : Nat) (f : List Byte) (pcs : Bool) (fill : Nat) (chan : Bool) (s : State) (h : Keeps m a s)
    (hm : Sub 0x10c462226e200 m) : KN m a (execFrameReceive p f pcs fill chan s) :=
  kn_lift h hm (by
    have h : Keeps 0x10c462226e200 s s := keeps_refl _ _
    unfold execFrameReceive
    repeat' first
      | intro _ | with_reducible assumption | with_reducible exact rfl | exact rfl | with_reducible apply kn_next
      | with_reducible apply countFrame_keeps | with_reducible apply takePfc_keeps | with_reducible apply stat_keeps
      | with_reducible apply takeTransport_keeps | with_reducible apply takeRoom_keeps | with_reducible apply deliverFrame_keeps
      | with_reducible apply keeps_ite | dsimp only | split | refine kq_get ?_ (by with_reducible assumption)
      | refine kq_get1 ?_ (by with_reducible assumption))

/-- What `execPfcPauseExpiry` keeps. -/
theorem execPfcPauseExpiry_keeps {m : Nat} {a : State} (p : Nat) (prio : Nat) (s : State) (h : Keeps m a s)
    (hm : Sub 0x200000 m) : KN m a (execPfcPauseExpiry p prio s) :=
  kn_lift h hm (by
    have h : Keeps 0x200000 s s := keeps_refl _ _
    unfold execPfcPauseExpiry
    repeat' first
      | intro _ | with_reducible assumption | with_reducible exact rfl | exact rfl | exact Or.inl rfl | with_reducible exact Or.inr rfl
      | exact Or.inr rfl | with_reducible apply kn_next | with_reducible apply eportMod_keeps | simp only [↓keepsMk_eq]
      | with_reducible apply keepsMk_intro | dsimp only | split)

/-- What `execPfcRefreshTimer` keeps. -/
theorem execPfcRefreshTimer_keeps {m : Nat} {a : State} (p : Nat) (prio : Nat) (fill : Nat) (s : State) (h : Keeps m a s)
    (hm : Sub 0x4020202200 m) : KN m a (execPfcRefreshTimer p prio fill s) :=
  kn_lift h hm (by
    have h : Keeps 0x4020202200 s s := keeps_refl _ _
    unfold execPfcRefreshTimer
    repeat' first
      | intro _ | with_reducible assumption | with_reducible exact rfl | exact rfl | exact Or.inl rfl | with_reducible exact Or.inr rfl
      | exact Or.inr rfl | with_reducible apply kn_next | with_reducible apply sendPfc_keeps | with_reducible apply eportMod_keeps
      | with_reducible apply keeps_ite | simp only [↓keepsMk_eq] | with_reducible apply keepsMk_intro | dsimp only | split)

/-- What `execFrameTransmitDone` keeps. -/
theorem execFrameTransmitDone_keeps {m : Nat} {a : State} (p : Nat) (q : Nat) (idx : Nat) (s : State) (h : Keeps m a s)
    (hm : Sub 0x200240000 m) : KN m a (execFrameTransmitDone p q idx s) :=
  kn_lift h hm (by
    have h : Keeps 0x200240000 s s := keeps_refl _ _
    unfold execFrameTransmitDone
    repeat' first
      | intro _ | with_reducible assumption | with_reducible exact rfl | exact rfl | exact Or.inl rfl | with_reducible exact Or.inr rfl
      | exact Or.inr rfl | with_reducible apply kn_next | with_reducible apply entryDone_keeps | with_reducible apply eportMod_keeps
      | simp only [↓keepsMk_eq] | with_reducible apply keepsMk_intro | dsimp only | split)

/-- What `portDown` keeps. -/
theorem portDown_keeps {m : Nat} {a : State} (s : State) (p : Nat) (near : Bool) (far : Bool) (h : Keeps m a s)
    (hm : Sub 0x8022024e200 m) : Keeps m a (portDown s p near far) :=
  keeps_lift h hm (by
    have h : Keeps 0x8022024e200 s s := keeps_refl _ _
    unfold portDown
    repeat' first
      | intro _ | with_reducible assumption | with_reducible exact rfl | exact rfl | exact Or.inl rfl | with_reducible exact Or.inr rfl
      | exact Or.inr rfl | with_reducible apply eportMod_keeps | with_reducible apply report_keeps | with_reducible apply entryDone_keeps
      | with_reducible apply keeps_ite | simp only [↓keepsMk_eq] | with_reducible apply keepsMk_intro | with_reducible apply keeps_foldl
      | dsimp only | split)

/-- What `execPortFault` keeps. -/
theorem execPortFault_keeps {m : Nat} {a : State} (p : Nat) (near : Bool) (far : Bool) (s : State) (h : Keeps m a s)
    (hm : Sub 0x8022024e200 m) : KN m a (execPortFault p near far s) :=
  kn_lift h hm (by
    have h : Keeps 0x8022024e200 s s := keeps_refl _ _
    unfold execPortFault
    repeat' first
      | intro _ | with_reducible assumption | with_reducible exact rfl | exact rfl | with_reducible apply kn_next
      | with_reducible apply portDown_keeps | with_reducible apply keeps_ite | dsimp only | split)

/-- What `execPortUp` keeps. -/
theorem execPortUp_keeps {m : Nat} {a : State} (p : Nat) (skew : Nat) (s : State) (h : Keeps m a s)
    (hm : Sub 0x200000 m) : KN m a (execPortUp p skew s) :=
  kn_lift h hm (by
    have h : Keeps 0x200000 s s := keeps_refl _ _
    unfold execPortUp
    repeat' first
      | intro _ | with_reducible assumption | with_reducible exact rfl | exact rfl | exact Or.inl rfl | with_reducible exact Or.inr rfl
      | exact Or.inr rfl | with_reducible apply kn_next | with_reducible apply eportMod_keeps | with_reducible apply keeps_ite
      | simp only [↓keepsMk_eq] | with_reducible apply keepsMk_intro | dsimp only | split)

end Sys2Proof.Laws
end

