-- ==== Sys2Proof/Laws/KeepsLns.lean ====
section
/-! SUPPORT. Every definition of Machine/Lns.lean keeps what `Keeps` says. -/
namespace Sys2Proof.Laws
open Sys2Proof.Machine Sys2Proof.Safety

/-- What `laneMsg` keeps. -/
theorem laneMsg_keeps {m : Nat} {a : State} (s : State) (k : Nat) (kind : Nat) (pos : Nat) (marker : Nat) (h : Keeps m a s)
    (hm : Sub 0x20000000 m) : Keeps m a (laneMsg s k kind pos marker) :=
  keeps_lift h hm (by
    have h : Keeps 0x20000000 s s := keeps_refl _ _
    unfold laneMsg
    repeat' first
      | intro _ | with_reducible assumption | with_reducible exact rfl | exact rfl | with_reducible apply emit_keeps | dsimp only)

/-- What `rotateNext` keeps. -/
theorem rotateNext_keeps {m : Nat} {a : State} (s : State) (l : Nat) (h : Keeps m a s)
    (hm : Sub 0x400000 m) : Keeps m a (rotateNext s l) :=
  keeps_lift h hm (by
    have h : Keeps 0x400000 s s := keeps_refl _ _
    unfold rotateNext
    repeat' first
      | intro _ | with_reducible assumption | with_reducible exact rfl | exact rfl | exact Or.inl rfl | with_reducible exact Or.inr rfl
      | exact Or.inr rfl | with_reducible apply rotMod_keeps | with_reducible apply keeps_ite | simp only [↓keepsMk_eq]
      | with_reducible apply keepsMk_intro | dsimp only | split)

/-- What `spareStays` keeps. -/
theorem spareStays_keeps {m : Nat} {a : State} (s : State) (k : Nat) (pos : Nat) (h : Keeps m a s)
    (hm : Sub 0x8802040e200 m) : Keeps m a (spareStays s k pos) :=
  keeps_lift h hm (by
    have h : Keeps 0x8802040e200 s s := keeps_refl _ _
    unfold spareStays
    repeat' first
      | intro _ | with_reducible assumption | with_reducible exact rfl | exact rfl | exact Or.inl rfl | with_reducible exact Or.inr rfl
      | exact Or.inr rfl | with_reducible apply rotMod_keeps | with_reducible apply laneMod_keeps
      | with_reducible apply spareReport_keeps | with_reducible apply bump_keeps | simp only [↓keepsMk_eq]
      | with_reducible apply keepsMk_intro | dsimp only | split)

/-- What `freedFails` keeps. -/
theorem freedFails_keeps {m : Nat} {a : State} (s : State) (k : Nat) (h : Keeps m a s)
    (hm : Sub 0x10ca6267ee200 m) : Keeps m a (freedFails s k) :=
  keeps_lift h hm (by
    have h : Keeps 0x10ca6267ee200 s s := keeps_refl _ _
    unfold freedFails
    repeat' first
      | intro _ | with_reducible assumption | with_reducible exact rfl | exact rfl | exact Or.inl rfl | with_reducible exact Or.inr rfl
      | exact Or.inr rfl | with_reducible apply stepOver_keeps | with_reducible apply spareStays_keeps
      | with_reducible apply laneMod_keeps | simp only [↓keepsMk_eq] | with_reducible apply keepsMk_intro | dsimp only | split)

/-- What `linkNarrow` keeps. -/
theorem linkNarrow_keeps {m : Nat} {a : State} (s : State) (k : Nat) (pos : Nat) (l : Nat) (tell : Bool) (h : Keeps m a s)
    (hm : Sub 0x10ca6267ee200 m) : Keeps m a (linkNarrow s k pos l tell) :=
  keeps_lift h hm (by
    have h : Keeps 0x10ca6267ee200 s s := keeps_refl _ _
    unfold linkNarrow
    repeat' first
      | intro _ | with_reducible assumption | with_reducible exact rfl | exact rfl | exact Or.inl rfl | with_reducible exact Or.inr rfl
      | exact Or.inr rfl | with_reducible apply linkDead_keeps | with_reducible apply report_keeps | with_reducible apply bump_keeps
      | with_reducible apply laneMsg_keeps | with_reducible apply spareReport_keeps | with_reducible apply keeps_ite
      | simp only [↓keepsMk_eq] | with_reducible apply keepsMk_intro | dsimp only | split)

/-- What `laneFails` keeps. -/
theorem laneFails_keeps {m : Nat} {a : State} (s : State) (l : Nat) (tell : Bool) (h : Keeps m a s)
    (hm : Sub 0x10ca6267ee200 m) : Keeps m a (laneFails s l tell) :=
  keeps_lift h hm (by
    have h : Keeps 0x10ca6267ee200 s s := keeps_refl _ _
    unfold laneFails
    repeat' first
      | intro _ | with_reducible assumption | with_reducible exact rfl | exact rfl | exact Or.inl rfl | with_reducible exact Or.inr rfl
      | exact Or.inr rfl | with_reducible apply laneMsg_keeps | with_reducible apply linkNarrow_keeps | with_reducible apply rotMod_keeps
      | with_reducible apply laneMod_keeps | with_reducible apply bump_keeps | with_reducible apply stepAbandon_keeps
      | with_reducible apply freedFails_keeps | with_reducible apply keeps_ite | simp only [↓keepsMk_eq]
      | with_reducible apply keepsMk_intro | dsimp only | split)

/-- What `execLaneFailure` keeps. -/
theorem execLaneFailure_keeps {m : Nat} {a : State} (l : Nat) (los : Bool) (s : State) (h : Keeps m a s)
    (hm : Sub 0x10ca6267ee200 m) : KN m a (execLaneFailure l los s) :=
  kn_lift h hm (by
    have h : Keeps 0x10ca6267ee200 s s := keeps_refl _ _
    unfold execLaneFailure
    repeat' first
      | intro _ | with_reducible assumption | with_reducible exact rfl | exact rfl | exact Or.inl rfl | with_reducible exact Or.inr rfl
      | exact Or.inr rfl | with_reducible apply kn_next | with_reducible apply laneMod_keeps | with_reducible apply portDown_keeps
      | with_reducible apply laneFails_keeps | with_reducible apply keeps_ite | simp only [↓keepsMk_eq]
      | with_reducible apply keepsMk_intro | dsimp only | split)

/-- What `execLaneDegraded` keeps. -/
theorem execLaneDegraded_keeps {m : Nat} {a : State} (l : Nat) (symbols : Nat) (s : State) (h : Keeps m a s)
    (hm : Sub 0x8000400000 m) : KN m a (execLaneDegraded l symbols s) :=
  kn_lift h hm (by
    have h : Keeps 0x8000400000 s s := keeps_refl _ _
    unfold execLaneDegraded
    repeat' first
      | intro _ | with_reducible assumption | with_reducible exact rfl | exact rfl | exact Or.inl rfl | with_reducible exact Or.inr rfl
      | exact Or.inr rfl | with_reducible apply kn_next | with_reducible apply bumpBy_keeps | with_reducible apply rotateNext_keeps
      | with_reducible apply laneMod_keeps | with_reducible apply keeps_ite | simp only [↓keepsMk_eq]
      | with_reducible apply keepsMk_intro | dsimp only | split)

/-- What `execOneLaneTimer` keeps. -/
theorem execOneLaneTimer_keeps {m : Nat} {a : State} (n : Nat) (s : State) (h : Keeps m a s)
    (hm : Sub 0x8002010e200 m) : KN m a (execOneLaneTimer n s) :=
  kn_lift h hm (by
    have h : Keeps 0x8002010e200 s s := keeps_refl _ _
    unfold execOneLaneTimer
    repeat' first
      | intro _ | with_reducible assumption | with_reducible exact rfl | exact rfl | exact Or.inl rfl | with_reducible exact Or.inr rfl
      | exact Or.inr rfl | with_reducible apply kn_next | with_reducible apply report_keeps | with_reducible apply linkMod_keeps
      | with_reducible apply keeps_ite | simp only [↓keepsMk_eq] | with_reducible apply keepsMk_intro | dsimp only | split)

/-- What `execLaneFailMsg` keeps. -/
theorem execLaneFailMsg_keeps {m : Nat} {a : State} (k : Nat) (pos : Nat) (s : State) (h : Keeps m a s)
    (hm : Sub 0x10ca6267ee200 m) : KN m a (execLaneFailMsg k pos s) :=
  kn_lift h hm (by
    have h : Keeps 0x10ca6267ee200 s s := keeps_refl _ _
    unfold execLaneFailMsg
    repeat' first
      | intro _ | with_reducible assumption | with_reducible exact rfl | exact rfl | with_reducible apply kn_next
      | with_reducible apply laneFails_keeps | with_reducible apply keeps_ite | dsimp only | split)

/-- What `execSpareIn` keeps. -/
theorem execSpareIn_keeps {m : Nat} {a : State} (k : Nat) (pos : Nat) (s : State) (h : Keeps m a s)
    (hm : Sub 0x10ca6267ee200 m) : KN m a (execSpareIn k pos s) :=
  kn_lift h hm (by
    have h : Keeps 0x10ca6267ee200 s s := keeps_refl _ _
    unfold execSpareIn
    repeat' first
      | intro _ | with_reducible assumption | with_reducible exact rfl | exact rfl | exact Or.inl rfl | with_reducible exact Or.inr rfl
      | exact Or.inr rfl | with_reducible apply kn_next | with_reducible apply freedFails_keeps | with_reducible apply linkMod_keeps
      | with_reducible apply spareStays_keeps | with_reducible apply keeps_ite | simp only [↓keepsMk_eq]
      | with_reducible apply keepsMk_intro | dsimp only | split)

/-- What `execRotationStepTimer` keeps. -/
theorem execRotationStepTimer_keeps {m : Nat} {a : State} (k : Nat) (s : State) (h : Keeps m a s)
    (hm : Sub 0x20400000 m) : KN m a (execRotationStepTimer k s) :=
  kn_lift h hm (by
    have h : Keeps 0x20400000 s s := keeps_refl _ _
    unfold execRotationStepTimer
    repeat' first
      | intro _ | with_reducible assumption | with_reducible exact rfl | exact rfl | exact Or.inl rfl | with_reducible exact Or.inr rfl
      | exact Or.inr rfl | with_reducible apply kn_next | with_reducible apply laneMsg_keeps | with_reducible apply rotMod_keeps
      | with_reducible apply keeps_ite | simp only [↓keepsMk_eq] | with_reducible apply keepsMk_intro | dsimp only | split)

/-- What `execRotReq` keeps. -/
theorem execRotReq_keeps {m : Nat} {a : State} (k : Nat) (pos : Nat) (s : State) (h : Keeps m a s)
    (hm : Sub 0x20400000 m) : KN m a (execRotReq k pos s) :=
  kn_lift h hm (by
    have h : Keeps 0x20400000 s s := keeps_refl _ _
    unfold execRotReq
    repeat' first
      | intro _ | with_reducible assumption | with_reducible exact rfl | exact rfl | exact Or.inl rfl | with_reducible exact Or.inr rfl
      | exact Or.inr rfl | with_reducible apply kn_next | with_reducible apply laneMsg_keeps | with_reducible apply rotMod_keeps
      | with_reducible apply keeps_ite | simp only [↓keepsMk_eq] | with_reducible apply keepsMk_intro | dsimp only | split)

/-- What `execRotAck` keeps. -/
theorem execRotAck_keeps {m : Nat} {a : State} (k : Nat) (pos : Nat) (s : State) (h : Keeps m a s)
    (hm : Sub 0x400000 m) : KN m a (execRotAck k pos s) :=
  kn_lift h hm (by
    have h : Keeps 0x400000 s s := keeps_refl _ _
    unfold execRotAck
    repeat' first
      | intro _ | with_reducible assumption | with_reducible exact rfl | exact rfl | exact Or.inl rfl | with_reducible exact Or.inr rfl
      | exact Or.inr rfl | with_reducible apply kn_next | with_reducible apply rotMod_keeps | with_reducible apply keeps_ite
      | simp only [↓keepsMk_eq] | with_reducible apply keepsMk_intro | dsimp only | split)

/-- What `switchCheck` keeps. -/
theorem switchCheck_keeps {m : Nat} {a : State} (s : State) (k : Nat) (marker : Nat) (h : Keeps m a s)
    (hm : Sub 0x20400000 m) : Keeps m a (switchCheck s k marker) :=
  keeps_lift h hm (by
    have h : Keeps 0x20400000 s s := keeps_refl _ _
    unfold switchCheck
    repeat' first
      | intro _ | with_reducible assumption | with_reducible exact rfl | exact rfl | exact Or.inl rfl | with_reducible exact Or.inr rfl
      | exact Or.inr rfl | with_reducible apply laneMsg_keeps | with_reducible apply rotMod_keeps | with_reducible apply keeps_ite
      | simp only [↓keepsMk_eq] | with_reducible apply keepsMk_intro | dsimp only | split)

/-- What `execLaneMatch` keeps. -/
theorem execLaneMatch_keeps {m : Nat} {a : State} (k : Nat) (marker : Nat) (s : State) (h : Keeps m a s)
    (hm : Sub 0x20400000 m) : KN m a (execLaneMatch k marker s) :=
  kn_lift h hm (by
    have h : Keeps 0x20400000 s s := keeps_refl _ _
    unfold execLaneMatch
    repeat' first
      | intro _ | with_reducible assumption | with_reducible exact rfl | exact rfl | exact Or.inl rfl | with_reducible exact Or.inr rfl
      | exact Or.inr rfl | with_reducible apply kn_next | with_reducible apply switchCheck_keeps | with_reducible apply rotMod_keeps
      | with_reducible apply keeps_ite | simp only [↓keepsMk_eq] | with_reducible apply keepsMk_intro | dsimp only | split)

/-- What `execMatchAchieved` keeps. -/
theorem execMatchAchieved_keeps {m : Nat} {a : State} (k : Nat) (marker : Nat) (agreed : Bool) (s : State) (h : Keeps m a s)
    (hm : Sub 0x10ca6267ee200 m) : KN m a (execMatchAchieved k marker agreed s) :=
  kn_lift h hm (by
    have h : Keeps 0x10ca6267ee200 s s := keeps_refl _ _
    unfold execMatchAchieved
    repeat' first
      | intro _ | with_reducible assumption | with_reducible exact rfl | exact rfl | exact Or.inl rfl | with_reducible exact Or.inr rfl
      | exact Or.inr rfl | with_reducible apply kn_next | with_reducible apply switchCheck_keeps | with_reducible apply laneMsg_keeps
      | with_reducible apply rotMod_keeps | with_reducible apply stepAbandon_keeps | with_reducible apply bump_keeps
      | with_reducible apply keeps_ite | simp only [↓keepsMk_eq] | with_reducible apply keepsMk_intro | dsimp only | split)

/-- What `execLaneSwitch` keeps. -/
theorem execLaneSwitch_keeps {m : Nat} {a : State} (k : Nat) (marker : Nat) (s : State) (h : Keeps m a s)
    (hm : Sub 0x400000 m) : KN m a (execLaneSwitch k marker s) :=
  kn_lift h hm (by
    have h : Keeps 0x400000 s s := keeps_refl _ _
    unfold execLaneSwitch
    repeat' first
      | intro _ | with_reducible assumption | with_reducible exact rfl | exact rfl | exact Or.inl rfl | with_reducible exact Or.inr rfl
      | exact Or.inr rfl | with_reducible apply kn_next | with_reducible apply rotMod_keeps | with_reducible apply keeps_ite
      | simp only [↓keepsMk_eq] | with_reducible apply keepsMk_intro | dsimp only | split)

/-- What `switchedBack` keeps. -/
theorem switchedBack_keeps {m : Nat} {a : State} (s : State) (k : Nat) (h : Keeps m a s)
    (hm : Sub 0x10ca6267ee200 m) : Keeps m a (switchedBack s k) :=
  keeps_lift h hm (by
    have h : Keeps 0x10ca6267ee200 s s := keeps_refl _ _
    unfold switchedBack
    repeat' first
      | intro _ | with_reducible assumption | with_reducible exact rfl | exact rfl | exact Or.inl rfl | with_reducible exact Or.inr rfl
      | exact Or.inr rfl | with_reducible apply laneMod_keeps | with_reducible apply rotMod_keeps | with_reducible apply bump_keeps
      | with_reducible apply stepOver_keeps | with_reducible apply linkMod_keeps | with_reducible apply keeps_ite
      | simp only [↓keepsMk_eq] | with_reducible apply keepsMk_intro | dsimp only | split)

/-- What `execSwitchMarker` keeps. -/
theorem execSwitchMarker_keeps {m : Nat} {a : State} (k : Nat) (s : State) (h : Keeps m a s)
    (hm : Sub 0x10ca6267ee200 m) : KN m a (execSwitchMarker k s) :=
  kn_lift h hm (by
    have h : Keeps 0x10ca6267ee200 s s := keeps_refl _ _
    unfold execSwitchMarker
    repeat' first
      | intro _ | with_reducible assumption | with_reducible exact rfl | exact rfl | exact Or.inl rfl | with_reducible exact Or.inr rfl
      | exact Or.inr rfl | with_reducible apply kn_next | with_reducible apply rotMod_keeps | with_reducible apply laneMod_keeps
      | with_reducible apply switchedBack_keeps | with_reducible apply keeps_ite | simp only [↓keepsMk_eq]
      | with_reducible apply keepsMk_intro | dsimp only | split)

/-- What `backCheck` keeps. -/
theorem backCheck_keeps {m : Nat} {a : State} (s : State) (k : Nat) (h : Keeps m a s)
    (hm : Sub 0x400000 m) : Keeps m a (backCheck s k) :=
  keeps_lift h hm (by
    have h : Keeps 0x400000 s s := keeps_refl _ _
    unfold backCheck
    repeat' first
      | intro _ | with_reducible assumption | with_reducible exact rfl | exact rfl | exact Or.inl rfl | with_reducible exact Or.inr rfl
      | exact Or.inr rfl | with_reducible apply rotMod_keeps | with_reducible apply keeps_ite | simp only [↓keepsMk_eq]
      | with_reducible apply keepsMk_intro | dsimp only | split)

/-- What `execLaneBack` keeps. -/
theorem execLaneBack_keeps {m : Nat} {a : State} (k : Nat) (pos : Nat) (s : State) (h : Keeps m a s)
    (hm : Sub 0x400000 m) : KN m a (execLaneBack k pos s) :=
  kn_lift h hm (by
    have h : Keeps 0x400000 s s := keeps_refl _ _
    unfold execLaneBack
    repeat' first
      | intro _ | with_reducible assumption | with_reducible exact rfl | exact rfl | exact Or.inl rfl | with_reducible exact Or.inr rfl
      | exact Or.inr rfl | with_reducible apply kn_next | with_reducible apply backCheck_keeps | with_reducible apply rotMod_keeps
      | with_reducible apply keeps_ite | simp only [↓keepsMk_eq] | with_reducible apply keepsMk_intro | dsimp only | split)

/-- What `execCalibrationDone` keeps. -/
theorem execCalibrationDone_keeps {m : Nat} {a : State} (k : Nat) (height : Nat) (width : Nat) (degraded : Bool) (s : State) (h : Keeps m a s)
    (hm : Sub 0x10ca6267ee200 m) : KN m a (execCalibrationDone k height width degraded s) :=
  kn_lift h hm (by
    have h : Keeps 0x10ca6267ee200 s s := keeps_refl _ _
    unfold execCalibrationDone
    repeat' first
      | intro _ | with_reducible assumption | with_reducible exact rfl | exact rfl | exact Or.inl rfl | with_reducible exact Or.inr rfl
      | exact Or.inr rfl | with_reducible apply kn_next | with_reducible apply setReg_keeps | with_reducible apply laneMsg_keeps
      | with_reducible apply freedFails_keeps | with_reducible apply backCheck_keeps | with_reducible apply rotMod_keeps
      | with_reducible apply laneMod_keeps | with_reducible apply keeps_ite | simp only [↓keepsMk_eq]
      | with_reducible apply keepsMk_intro | dsimp only | split)

/-- What `execCalibrationTimeout` keeps. -/
theorem execCalibrationTimeout_keeps {m : Nat} {a : State} (k : Nat) (s : State) (h : Keeps m a s)
    (hm : Sub 0x10ca6267ee200 m) : KN m a (execCalibrationTimeout k s) :=
  kn_lift h hm (by
    have h : Keeps 0x10ca6267ee200 s s := keeps_refl _ _
    unfold execCalibrationTimeout
    repeat' first
      | intro _ | with_reducible assumption | with_reducible exact rfl | exact rfl | with_reducible apply kn_next
      | with_reducible apply laneMsg_keeps | with_reducible apply freedFails_keeps | with_reducible apply keeps_ite | dsimp only | split)

/-- What `execRotationAbort` keeps. -/
theorem execRotationAbort_keeps {m : Nat} {a : State} (k : Nat) (s : State) (h : Keeps m a s)
    (hm : Sub 0x10ca6267ee200 m) : KN m a (execRotationAbort k s) :=
  kn_lift h hm (by
    have h : Keeps 0x10ca6267ee200 s s := keeps_refl _ _
    unfold execRotationAbort
    repeat' first
      | intro _ | with_reducible assumption | with_reducible exact rfl | exact rfl | with_reducible apply kn_next
      | with_reducible apply stepAbandon_keeps | dsimp only)

/-- What `laneAct` keeps. -/
theorem laneAct_keeps {m : Nat} {a : State} (s : State) (l : Nat) (kind : Nat) (h : Keeps m a s)
    (hm : Sub 0x10ca6267ee200 m) : Keeps m a (laneAct s l kind) :=
  keeps_lift h hm (by
    have h : Keeps 0x10ca6267ee200 s s := keeps_refl _ _
    unfold laneAct
    repeat' first
      | intro _ | with_reducible assumption | with_reducible exact rfl | exact rfl | exact Or.inl rfl | with_reducible exact Or.inr rfl
      | exact Or.inr rfl | with_reducible apply rotateNext_keeps | with_reducible apply portDown_keeps
      | with_reducible apply laneFails_keeps | with_reducible apply laneMod_keeps | with_reducible apply laneMsg_keeps
      | with_reducible apply rotMod_keeps | with_reducible apply keeps_ite | simp only [↓keepsMk_eq] | with_reducible apply keepsMk_intro
      | dsimp only | split)

/-- What `laneCtl` keeps. -/
theorem laneCtl_keeps {m : Nat} {a : State} (s : State) (l : Nat) (kind : Nat) (h : Keeps m a s)
    (hm : Sub 0x10ca6267ee200 m) : Keeps m a (laneCtl s l kind) :=
  keeps_lift h hm (by
    have h : Keeps 0x10ca6267ee200 s s := keeps_refl _ _
    unfold laneCtl
    repeat' first
      | intro _ | with_reducible assumption | with_reducible exact rfl | exact rfl | exact Or.inl rfl | with_reducible exact Or.inr rfl
      | exact Or.inr rfl | with_reducible apply rotMod_keeps | with_reducible apply laneAct_keeps | with_reducible apply keeps_ite
      | simp only [↓keepsMk_eq] | with_reducible apply keepsMk_intro | dsimp only | split)

/-- What `laneLater` keeps. -/
theorem laneLater_keeps {m : Nat} {a : State} (s : State) (k : Nat) (h : Keeps m a s)
    (hm : Sub 0x10ca6267ee200 m) : Keeps m a (laneLater s k) :=
  keeps_lift h hm (by
    have h : Keeps 0x10ca6267ee200 s s := keeps_refl _ _
    unfold laneLater
    repeat' first
      | intro _ | with_reducible assumption | with_reducible exact rfl | exact rfl | exact Or.inl rfl | with_reducible exact Or.inr rfl
      | exact Or.inr rfl | with_reducible apply laneCtl_keeps | with_reducible apply rotMod_keeps | simp only [↓keepsMk_eq]
      | with_reducible apply keepsMk_intro | with_reducible apply keeps_foldl | dsimp only | split)

/-- What `execLaneRecal` keeps. -/
theorem execLaneRecal_keeps {m : Nat} {a : State} (l : Nat) (s : State) (h : Keeps m a s)
    (hm : Sub 0x10ca6267ee200 m) : KN m a (execLaneRecal l s) :=
  kn_lift h hm (by
    have h : Keeps 0x10ca6267ee200 s s := keeps_refl _ _
    unfold execLaneRecal
    repeat' first
      | intro _ | with_reducible assumption | with_reducible exact rfl | exact rfl | with_reducible apply kn_next
      | with_reducible apply dropHeld_keeps | with_reducible apply laneCtl_keeps | dsimp only)

/-- What `execLaneForceFail` keeps. -/
theorem execLaneForceFail_keeps {m : Nat} {a : State} (l : Nat) (s : State) (h : Keeps m a s)
    (hm : Sub 0x10ca6267ee200 m) : KN m a (execLaneForceFail l s) :=
  kn_lift h hm (by
    have h : Keeps 0x10ca6267ee200 s s := keeps_refl _ _
    unfold execLaneForceFail
    repeat' first
      | intro _ | with_reducible assumption | with_reducible exact rfl | exact rfl | with_reducible apply kn_next
      | with_reducible apply dropHeld_keeps | with_reducible apply laneCtl_keeps | dsimp only)

/-- What `execLaneRestore` keeps. -/
theorem execLaneRestore_keeps {m : Nat} {a : State} (l : Nat) (pass : Bool) (s : State) (h : Keeps m a s)
    (hm : Sub 0x10ca6267ee200 m) : KN m a (execLaneRestore l pass s) :=
  kn_lift h hm (by
    have h : Keeps 0x10ca6267ee200 s s := keeps_refl _ _
    unfold execLaneRestore
    repeat' first
      | intro _ | with_reducible assumption | with_reducible exact rfl | exact rfl | with_reducible apply kn_next
      | with_reducible apply dropHeld_keeps | with_reducible apply laneCtl_keeps | with_reducible apply keeps_ite | dsimp only | split)

/-- What `moduleMod` keeps. -/
theorem moduleMod_keeps {m : Nat} {a : State} (s : State) (k : Nat) (f : Module → Module) (h : Keeps m a s)
    (hm : Sub 0x400000 m) : Keeps m a (moduleMod s k f) :=
  keeps_lift h hm (by
    have h : Keeps 0x400000 s s := keeps_refl _ _
    unfold moduleMod
    repeat' first
      | intro _ | with_reducible assumption | with_reducible exact rfl | exact rfl | exact Or.inl rfl | with_reducible exact Or.inr rfl
      | exact Or.inr rfl | simp only [↓keepsMk_eq] | with_reducible apply keepsMk_intro | dsimp only | split)

/-- What `execModuleInsert` keeps. -/
theorem execModuleInsert_keeps {m : Nat} {a : State} (k : Nat) (rev : Nat) (power : Nat) (s : State) (h : Keeps m a s)
    (hm : Sub 0x8022064e200 m) : KN m a (execModuleInsert k rev power s) :=
  kn_lift h hm (by
    have h : Keeps 0x8022064e200 s s := keeps_refl _ _
    unfold execModuleInsert
    repeat' first
      | intro _ | with_reducible assumption | with_reducible exact rfl | exact rfl | with_reducible apply kn_next
      | with_reducible apply moduleMod_keeps | with_reducible apply emit_keeps | with_reducible apply report_keeps
      | with_reducible apply portDown_keeps | with_reducible apply keeps_ite | with_reducible apply keeps_foldl | dsimp only | split)

/-- What `execModuleRemove` keeps. -/
theorem execModuleRemove_keeps {m : Nat} {a : State} (k : Nat) (s : State) (h : Keeps m a s)
    (hm : Sub 0x8022064e200 m) : KN m a (execModuleRemove k s) :=
  kn_lift h hm (by
    have h : Keeps 0x8022064e200 s s := keeps_refl _ _
    unfold execModuleRemove
    repeat' first
      | intro _ | with_reducible assumption | with_reducible exact rfl | exact rfl | with_reducible apply kn_next
      | with_reducible apply portDown_keeps | with_reducible apply moduleMod_keeps | with_reducible apply keeps_ite
      | with_reducible apply keeps_foldl | dsimp only | split)

/-- What `execModuleInterrupt` keeps. -/
theorem execModuleInterrupt_keeps {m : Nat} {a : State} (k : Nat) (r : CmisState) (s : State) (h : Keeps m a s)
    (hm : Sub 0x400000 m) : KN m a (execModuleInterrupt k r s) :=
  kn_lift h hm (by
    have h : Keeps 0x400000 s s := keeps_refl _ _
    unfold execModuleInterrupt
    repeat' first
      | intro _ | with_reducible assumption | with_reducible exact rfl | exact rfl | exact Or.inl rfl | with_reducible exact Or.inr rfl
      | exact Or.inr rfl | with_reducible apply kn_next | with_reducible apply moduleMod_keeps | with_reducible apply keeps_ite
      | simp only [↓keepsMk_eq] | with_reducible apply keepsMk_intro | dsimp only | split)

end Sys2Proof.Laws
end

