-- ==== Sys2Proof/Laws/KeepsScbData.lean ====
section
/-! SUPPORT. Every definition of Machine/ScbData.lean keeps what `Keeps` says. -/
namespace Sys2Proof.Laws
open Sys2Proof.Machine Sys2Proof.Safety

/-- What `grpMod` keeps. -/
theorem grpMod_keeps {m : Nat} {a : State} (s : State) (g : Nat) (f : ScbGroup → ScbGroup) (h : Keeps m a s)
    (hm : Sub 0x800000 m) : Keeps m a (grpMod s g f) :=
  keeps_lift h hm (by
    have h : Keeps 0x800000 s s := keeps_refl _ _
    unfold grpMod
    repeat' first
      | intro _ | with_reducible assumption | with_reducible exact rfl | exact rfl | exact Or.inl rfl | with_reducible exact Or.inr rfl
      | exact Or.inr rfl | simp only [↓keepsMk_eq] | with_reducible apply keepsMk_intro | dsimp only | split)

/-- What `scbPeerMod` keeps. -/
theorem scbPeerMod_keeps {m : Nat} {a : State} (s : State) (g : Nat) (l : Nat) (j : Nat) (f : ScbPeer → ScbPeer) (h : Keeps m a s)
    (hm : Sub 0x800000 m) : Keeps m a (scbPeerMod s g l j f) :=
  keeps_lift h hm (by
    have h : Keeps 0x800000 s s := keeps_refl _ _
    unfold scbPeerMod
    repeat' first
      | intro _ | with_reducible assumption | with_reducible exact rfl | exact rfl | exact Or.inl rfl | with_reducible exact Or.inr rfl
      | exact Or.inr rfl | with_reducible apply grpMod_keeps | simp only [↓keepsMk_eq] | with_reducible apply keepsMk_intro | dsimp only
      | split)

/-- What `chanUp` keeps. -/
theorem chanUp_keeps {m : Nat} {a : State} (s : State) (g : Nat) (c : Nat) (h : Keeps m a s)
    (hm : Sub 0x10c4e261ee204 m) : Keeps m a (chanUp s g c) :=
  keeps_lift h hm (by
    have h : Keeps 0x10c4e261ee204 s s := keeps_refl _ _
    unfold chanUp
    repeat' first
      | intro _ | with_reducible assumption | with_reducible exact rfl | exact rfl | with_reducible apply wakeChannel_keeps
      | with_reducible apply connClear_keeps | with_reducible apply keeps_ite | dsimp only | split)

/-- What `scbPost` keeps. -/
theorem scbPost_keeps {m : Nat} {a : State} (s : State) (g : Nat) (r : Nat) (addr : Nat) (bytes : List Byte) (h : Keeps m a s)
    (hm : Sub 0x10c5e261ee204 m) : Keeps m a (scbPost s g r addr bytes) :=
  keeps_lift h hm (by
    have h : Keeps 0x10c5e261ee204 s s := keeps_refl _ _
    unfold scbPost
    repeat' first
      | intro _ | with_reducible assumption | with_reducible exact rfl | exact rfl | with_reducible apply chanUp_keeps
      | with_reducible apply issuerDone_keeps | with_reducible apply postMsg_keeps | with_reducible apply keeps_ite | dsimp only | split)

/-- What `sendRelease` keeps. -/
theorem sendRelease_keeps {m : Nat} {a : State} (s : State) (g : Nat) (l : Nat) (j : Nat) (abort : Bool) (repair : Bool) (status : Nat) (seq : Nat) (h : Keeps m a s)
    (hm : Sub 0x10d5e269ee204 m) : Keeps m a (sendRelease s g l j abort repair status seq) :=
  keeps_lift h hm (by
    have h : Keeps 0x10d5e269ee204 s s := keeps_refl _ _
    unfold sendRelease
    repeat' first
      | intro _ | with_reducible assumption | with_reducible exact rfl | exact rfl | exact Or.inl rfl | with_reducible exact Or.inr rfl
      | exact Or.inr rfl | with_reducible apply scbPost_keeps | with_reducible apply scbPeerMod_keeps | simp only [↓keepsMk_eq]
      | with_reducible apply keepsMk_intro | dsimp only | split)

/-- What `injectChunk` keeps. -/
theorem injectChunk_keeps {m : Nat} {a : State} (s : State) (g : Nat) (l : Nat) (seq : Nat) (b : List Byte) (h : Keeps m a s)
    (hm : Sub 0x4100000 m) : Keeps m a (injectChunk s g l seq b) :=
  keeps_lift h hm (by
    have h : Keeps 0x4100000 s s := keeps_refl _ _
    unfold injectChunk
    repeat' first
      | intro _ | with_reducible assumption | with_reducible exact rfl | exact rfl | exact Or.inl rfl | with_reducible exact Or.inr rfl
      | exact Or.inr rfl | with_reducible apply charge_keeps | simp only [↓keepsMk_eq] | with_reducible apply keepsMk_intro
      | with_reducible apply keeps_foldl | dsimp only | split)

end Sys2Proof.Laws
end

