-- ==== Sys2Proof/Laws/KeepsScb.lean ====
section
/-! SUPPORT. Every definition of Machine/Scb.lean keeps what `Keeps` says. -/
namespace Sys2Proof.Laws
open Sys2Proof.Machine Sys2Proof.Safety

/-- What `scbBlame` keeps. -/
theorem scbBlame_keeps {m : Nat} {a : State} (s : State) (g : Nat) (w : Blame) (h : Keeps m a s)
    (hm : Sub 0x10c042002e200 m) : Keeps m a (scbBlame s g w) :=
  keeps_lift h hm (by
    have h : Keeps 0x10c042002e200 s s := keeps_refl _ _
    unfold scbBlame
    repeat' first
      | intro _ | with_reducible assumption | with_reducible exact rfl | exact rfl | with_reducible apply ownFault_keeps
      | with_reducible apply dataXlate_keeps | dsimp only | split | refine kq_get ?_ (by with_reducible assumption)
      | refine kq_get1 ?_ (by with_reducible assumption))

/-- What `scbRead` keeps. -/
theorem scbRead_keeps {m : Nat} {a : State} (s : State) (g : Nat) (base : Nat) (off : Nat) (n : Nat) (bus : Option (List Byte)) (h : Keeps m a s)
    (hm : Sub 0x10c042002e200 m) : KP m a (scbRead s g base off n bus) :=
  kp_lift h hm (by
    have h : Keeps 0x10c042002e200 s s := keeps_refl _ _
    unfold scbRead
    repeat' first
      | intro _ | with_reducible assumption | with_reducible exact rfl | exact rfl | with_reducible apply kp_ok
      | with_reducible exact kp_error | with_reducible apply kp_bind | with_reducible apply kep_bind | with_reducible apply ke_ok
      | with_reducible exact ke_error | with_reducible apply ke_bind | with_reducible apply kpe_bind
      | with_reducible apply dataXlate_keeps | with_reducible apply readPieces_keeps | with_reducible apply keeps_ite | dsimp only
      | split | refine kq_get ?_ (by with_reducible assumption) | refine kq_get1 ?_ (by with_reducible assumption))

/-- What `fabSends` keeps. -/
theorem fabSends_keeps0 {a : State} (s : State) (g : Nat) (l : List (Target × Nat)) (b : List Byte) (ep : Bool) (h : Keeps 0x5024182200 a s) :
    Keeps 0x5024182200 a (fabSends s g l b ep) := by
  induction l generalizing s b with
  | nil => exact h
  | cons p r ih =>
    obtain ⟨t, n⟩ := p
    cases t with
    | fab x => exact ih _ _ (postMsg_keeps _ _ _ h rfl)
    | loc x => exact ih _ _ h
    | bus x y z => exact ih _ _ h
    | sealed => exact ih _ _ h

/-- The same within a greater set. -/
theorem fabSends_keeps {m : Nat} {a : State} (s : State) (g : Nat) (l : List (Target × Nat)) (b : List Byte) (ep : Bool) (h : Keeps m a s)
    (hm : Sub 0x5024182200 m) : Keeps m a (fabSends s g l b ep) := keeps_lift h hm (fabSends_keeps0 s g l b ep (keeps_refl _ _))

/-- What `scbWrite` keeps. -/
theorem scbWrite_keeps {m : Nat} {a : State} (s : State) (g : Nat) (base : Nat) (off : Nat) (total : Nat) (b : List Byte) (ep : Bool) (h : Keeps m a s)
    (hm : Sub 0x10c54261ee200 m) : KE m a (scbWrite s g base off total b ep) :=
  ke_lift h hm (by
    have h : Keeps 0x10c54261ee200 s s := keeps_refl _ _
    unfold scbWrite
    repeat' first
      | intro _ | with_reducible assumption | with_reducible exact rfl | exact rfl | exact Or.inl rfl | with_reducible exact Or.inr rfl
      | exact Or.inr rfl | with_reducible apply ko_map | with_reducible apply ko_bind | with_reducible apply keeps_getD
      | with_reducible apply ko_some | with_reducible exact ko_none | with_reducible apply ke_ok | with_reducible exact ke_error
      | with_reducible apply ke_bind | with_reducible apply kpe_bind | with_reducible apply kp_ok | with_reducible exact kp_error
      | with_reducible apply kp_bind | with_reducible apply kep_bind | with_reducible apply dataXlate_keeps
      | with_reducible apply openStages_keeps | with_reducible apply writePieces_keeps | with_reducible apply entryMod_keeps
      | with_reducible apply fabSends_keeps | with_reducible apply keeps_ite | simp only [↓keepsMk_eq]
      | with_reducible apply keepsMk_intro | dsimp only | split | refine ko_get ?_ (by with_reducible assumption)
      | refine kq_get ?_ (by with_reducible assumption) | refine kq_get1 ?_ (by with_reducible assumption))

/-- What `scbEnd` keeps. -/
theorem scbEnd_keeps {m : Nat} {a : State} (s : State) (g : Nat) (st : Nat) (status : Nat) (len : Nat) (h : Keeps m a s)
    (hm : Sub 0x200840000 m) : Keeps m a (scbEnd s g st status len) :=
  keeps_lift h hm (by
    have h : Keeps 0x200840000 s s := keeps_refl _ _
    unfold scbEnd
    repeat' first
      | intro _ | with_reducible assumption | with_reducible exact rfl | exact rfl | exact Or.inl rfl | with_reducible exact Or.inr rfl
      | exact Or.inr rfl | with_reducible apply grpMod_keeps | with_reducible apply entryDone_keeps | with_reducible apply keeps_ite
      | simp only [↓keepsMk_eq] | with_reducible apply keepsMk_intro | dsimp only | split)

/-- What `scbAbort` keeps. -/
theorem scbAbort_keeps {m : Nat} {a : State} (s : State) (g : Nat) (status : Nat) (h : Keeps m a s)
    (hm : Sub 0x10d5e269ee204 m) : Keeps m a (scbAbort s g status) :=
  keeps_lift h hm (by
    have h : Keeps 0x10d5e269ee204 s s := keeps_refl _ _
    unfold scbAbort
    repeat' first
      | intro _ | with_reducible assumption | with_reducible exact rfl | exact rfl | exact Or.inl rfl | with_reducible exact Or.inr rfl
      | exact Or.inr rfl | with_reducible apply sendRelease_keeps | with_reducible apply scbEnd_keeps | with_reducible apply bumpFn_keeps
      | with_reducible apply keeps_ite | simp only [↓keepsMk_eq] | with_reducible apply keepsMk_intro | with_reducible apply keeps_foldl
      | dsimp only | split)

/-- What `scbSettle` keeps. -/
theorem scbSettle_keeps {m : Nat} {a : State} (s : State) (g : Nat) (r : Except Halt State) (h : Keeps m a s) (hr : KE m a r)
    (hm : Sub 0x10d5e269ee204 m) : Keeps m a (scbSettle s g r) := by
  unfold scbSettle
  split
  · exact ke_get hr rfl
  · exact keeps_lift h hm (stall_keeps _ _ _ _ (keeps_refl _ _) rfl)
  · exact h
  · exact keeps_lift h hm (chanUp_keeps _ _ _ (keeps_refl _ _) rfl)
  · exact keeps_lift h hm (bumpFn_keeps _ _ _ (keeps_refl _ _) (Or.inr rfl))
  · exact keeps_lift h hm (scbAbort_keeps _ _ _ (scbBlame_keeps _ _ _ (keeps_refl _ _) rfl) rfl)

/-- What `scbFinish` keeps. -/
theorem scbFinish_keeps {m : Nat} {a : State} (s : State) (g : Nat) (h : Keeps m a s)
    (hm : Sub 0x200840000 m) : Keeps m a (scbFinish s g) :=
  keeps_lift h hm (by
    have h : Keeps 0x200840000 s s := keeps_refl _ _
    unfold scbFinish
    repeat' first
      | intro _ | with_reducible assumption | with_reducible exact rfl | exact rfl | with_reducible apply scbEnd_keeps
      | with_reducible apply keeps_ite | dsimp only | split)

/-- What `scbNarrow` keeps. -/
theorem scbNarrow_keeps {m : Nat} {a : State} (s : State) (g : Nat) (k : Nat) (p : Nat) (w : Nat) (v : List Nat) (bus : Option (List Byte)) (h : Keeps m a s)
    (hm : Sub 0x10c54261ee200 m) : KP m a (scbNarrow s g k p w v bus) :=
  kp_lift h hm (by
    have h : Keeps 0x10c54261ee200 s s := keeps_refl _ _
    unfold scbNarrow
    repeat' first
      | intro _ | with_reducible assumption | with_reducible exact rfl | exact rfl | with_reducible apply kp_ok
      | with_reducible exact kp_error | with_reducible apply kp_bind | with_reducible apply kep_bind | with_reducible apply ke_ok
      | with_reducible exact ke_error | with_reducible apply ke_bind | with_reducible apply kpe_bind | with_reducible apply scbRead_keeps
      | with_reducible apply scbWrite_keeps | with_reducible apply keeps_ite | dsimp only | split
      | refine ke_get ?_ (by with_reducible assumption) | refine kp_get ?_ (by with_reducible assumption)
      | refine kp_get1 ?_ (by with_reducible assumption))

/-- What `srcChunk` keeps. -/
theorem srcChunk_keeps {m : Nat} {a : State} (s : State) (g : Nat) (p : Nat) (first : Nat) (bus : Option (List Byte)) (h : Keeps m a s)
    (hm : Sub 0x10c042002e200 m) : KP m a (srcChunk s g p first bus) :=
  kp_lift h hm (by
    have h : Keeps 0x10c042002e200 s s := keeps_refl _ _
    unfold srcChunk
    repeat' first
      | intro _ | with_reducible assumption | with_reducible exact rfl | exact rfl | with_reducible apply kp_ok
      | with_reducible exact kp_error | with_reducible apply kp_bind | with_reducible apply kep_bind | with_reducible apply ke_ok
      | with_reducible exact ke_error | with_reducible apply ke_bind | with_reducible apply kpe_bind | with_reducible apply scbRead_keeps
      | dsimp only | refine kp_get ?_ (by with_reducible assumption) | refine kp_get1 ?_ (by with_reducible assumption))

/-- What `upValue` keeps. -/
theorem upValue_keeps {m : Nat} {a : State} (s : State) (g : Nat) (l : Nat) (p : Nat) (bus : Option (List Byte)) (h : Keeps m a s)
    (hm : Sub 0x10c042082e200 m) : KP m a (upValue s g l p bus) :=
  kp_lift h hm (by
    have h : Keeps 0x10c042082e200 s s := keeps_refl _ _
    unfold upValue
    repeat' first
      | intro _ | with_reducible assumption | with_reducible exact rfl | exact rfl | exact Or.inl rfl | with_reducible exact Or.inr rfl
      | exact Or.inr rfl | with_reducible apply kp_ok | with_reducible exact kp_error | with_reducible apply kp_bind
      | with_reducible apply kep_bind | with_reducible apply ke_ok | with_reducible exact ke_error | with_reducible apply ke_bind
      | with_reducible apply kpe_bind | with_reducible apply srcChunk_keeps | with_reducible apply grpMod_keeps
      | with_reducible apply keeps_ite | simp only [↓keepsMk_eq] | with_reducible apply keepsMk_intro | dsimp only | split
      | refine kp_get ?_ (by with_reducible assumption) | refine kp_get1 ?_ (by with_reducible assumption))

/-- What `accFree` keeps. -/
theorem accFree_keeps {m : Nat} {a : State} (s : State) (g : Nat) (l : Nat) (p : Nat) (h : Keeps m a s)
    (hm : Sub 0x800000 m) : Keeps m a (accFree s g l p) :=
  keeps_lift h hm (by
    have h : Keeps 0x800000 s s := keeps_refl _ _
    unfold accFree
    repeat' first
      | intro _ | with_reducible assumption | with_reducible exact rfl | exact rfl | exact Or.inl rfl | with_reducible exact Or.inr rfl
      | exact Or.inr rfl | with_reducible apply grpMod_keeps | simp only [↓keepsMk_eq] | with_reducible apply keepsMk_intro | dsimp only
      | split)

/-- What `accAdd` keeps. -/
theorem accAdd_keeps {m : Nat} {a : State} (s : State) (g : Nat) (l : Nat) (p : Nat) (v : List Nat) (poison : Bool) (own : Bool) (h : Keeps m a s)
    (hm : Sub 0x800000 m) : KE m a (accAdd s g l p v poison own) :=
  ke_lift h hm (by
    have h : Keeps 0x800000 s s := keeps_refl _ _
    unfold accAdd
    repeat' first
      | intro _ | with_reducible assumption | with_reducible exact rfl | exact rfl | exact Or.inl rfl | with_reducible exact Or.inr rfl
      | exact Or.inr rfl | with_reducible apply ke_ok | with_reducible exact ke_error | with_reducible apply ke_bind
      | with_reducible apply kpe_bind | with_reducible apply kp_ok | with_reducible exact kp_error | with_reducible apply kp_bind
      | with_reducible apply kep_bind | with_reducible apply grpMod_keeps | with_reducible apply keeps_ite | simp only [↓keepsMk_eq]
      | with_reducible apply keepsMk_intro | dsimp only | split)

/-- What `takeDown` keeps. -/
theorem takeDown_keeps {m : Nat} {a : State} (s : State) (g : Nat) (p : Nat) (b : List Byte) (poison : Bool) (h : Keeps m a s)
    (hm : Sub 0x10c54269ee200 m) : KE m a (takeDown s g p b poison) :=
  ke_lift h hm (by
    have h : Keeps 0x10c54269ee200 s s := keeps_refl _ _
    unfold takeDown
    repeat' first
      | intro _ | with_reducible assumption | with_reducible exact rfl | exact rfl | exact Or.inl rfl | with_reducible exact Or.inr rfl
      | exact Or.inr rfl | with_reducible apply ke_ok | with_reducible exact ke_error | with_reducible apply ke_bind
      | with_reducible apply kpe_bind | with_reducible apply kp_ok | with_reducible exact kp_error | with_reducible apply kp_bind
      | with_reducible apply kep_bind | with_reducible apply grpMod_keeps | with_reducible apply scbWrite_keeps
      | with_reducible apply keeps_ite | simp only [↓keepsMk_eq] | with_reducible apply keepsMk_intro | dsimp only | split
      | refine ke_get ?_ (by with_reducible assumption))

/-- What `finishUp` keeps. -/
theorem finishUp_keeps {m : Nat} {a : State} (s : State) (g : Nat) (p : Nat) (v : List Nat) (poison : Bool) (bus : Option (List Byte)) (h : Keeps m a s)
    (hm : Sub 0x10c54269ee200 m) : KP m a (finishUp s g p v poison bus) :=
  kp_lift h hm (by
    have h : Keeps 0x10c54269ee200 s s := keeps_refl _ _
    unfold finishUp
    repeat' first
      | intro _ | with_reducible assumption | with_reducible exact rfl | exact rfl | exact Or.inl rfl | with_reducible exact Or.inr rfl
      | exact Or.inr rfl | with_reducible apply kp_ok | with_reducible exact kp_error | with_reducible apply kp_bind
      | with_reducible apply kep_bind | with_reducible apply ke_ok | with_reducible exact ke_error | with_reducible apply ke_bind
      | with_reducible apply kpe_bind | with_reducible apply grpMod_keeps | with_reducible apply scbWrite_keeps
      | with_reducible apply scbNarrow_keeps | with_reducible apply takeDown_keeps | with_reducible apply keeps_ite
      | simp only [↓keepsMk_eq] | with_reducible apply keepsMk_intro | dsimp only | split
      | refine ke_get ?_ (by with_reducible assumption) | refine kp_get ?_ (by with_reducible assumption)
      | refine kp_get1 ?_ (by with_reducible assumption))

/-- What `ownAdd` keeps. -/
theorem ownAdd_keeps {m : Nat} {a : State} (s : State) (g : Nat) (l : Nat) (p : Nat) (bus : Option (List Byte)) (h : Keeps m a s)
    (hm : Sub 0x10c54269ee200 m) : KP m a (ownAdd s g l p bus) :=
  kp_lift h hm (by
    have h : Keeps 0x10c54269ee200 s s := keeps_refl _ _
    unfold ownAdd
    repeat' first
      | intro _ | with_reducible assumption | with_reducible exact rfl | exact rfl | with_reducible apply kp_ok
      | with_reducible exact kp_error | with_reducible apply kp_bind | with_reducible apply kep_bind | with_reducible apply ke_ok
      | with_reducible exact ke_error | with_reducible apply ke_bind | with_reducible apply kpe_bind | with_reducible apply upValue_keeps
      | with_reducible apply scbNarrow_keeps | with_reducible apply accAdd_keeps | with_reducible apply accFree_keeps | dsimp only
      | split | refine ke_get ?_ (by with_reducible assumption) | refine kp_get ?_ (by with_reducible assumption)
      | refine kp_get1 ?_ (by with_reducible assumption))

/-- What `advance` keeps. -/
theorem advance_keeps0 {a : State} (g : Nat) (p : Nat) (x1 : Nat) (x2 : Nat) (s : State) (x4 : Option (List Byte)) (h : Keeps 0x10c54269ee200 a s) :
    KP 0x10c54269ee200 a (advance g p x1 x2 s x4) := by
  induction x1 generalizing g p x2 s x4 with
  | zero =>
    unfold advance
    repeat' first
      | intro _ | with_reducible assumption | with_reducible exact rfl | exact rfl | exact Or.inl rfl | with_reducible exact Or.inr rfl
      | exact Or.inr rfl | with_reducible apply ko_map | with_reducible apply ko_bind | with_reducible apply keeps_getD
      | with_reducible apply kp_ok | with_reducible exact kp_error | with_reducible apply kp_bind | with_reducible apply kep_bind
      | with_reducible apply ke_ok | with_reducible exact ke_error | with_reducible apply ke_bind | with_reducible apply kpe_bind
      | with_reducible apply ownAdd_keeps | with_reducible apply grpMod_keeps | with_reducible apply finishUp_keeps
      | with_reducible apply keeps_ite | simp only [↓keepsMk_eq] | with_reducible apply keepsMk_intro | dsimp only | split
      | cases ‹_ + 1 = _ + 1› | refine kp_get ?_ (by with_reducible assumption) | refine kp_get1 ?_ (by with_reducible assumption)
      | refine kq_get ?_ (by with_reducible assumption) | refine kq_get1 ?_ (by with_reducible assumption)
  | succ _ ih =>
    unfold advance
    repeat' first
      | intro _ | with_reducible assumption | with_reducible exact rfl | exact rfl | exact Or.inl rfl | with_reducible exact Or.inr rfl
      | exact Or.inr rfl | with_reducible apply ih | with_reducible apply ko_map | with_reducible apply ko_bind
      | with_reducible apply keeps_getD | with_reducible apply kp_ok | with_reducible exact kp_error | with_reducible apply kp_bind
      | with_reducible apply kep_bind | with_reducible apply ke_ok | with_reducible exact ke_error | with_reducible apply ke_bind
      | with_reducible apply kpe_bind | with_reducible apply ownAdd_keeps | with_reducible apply grpMod_keeps
      | with_reducible apply finishUp_keeps | with_reducible apply keeps_ite | simp only [↓keepsMk_eq]
      | with_reducible apply keepsMk_intro | dsimp only | split | cases ‹_ + 1 = _ + 1› | refine kp_get ?_ (by with_reducible assumption)
      | refine kp_get1 ?_ (by with_reducible assumption) | refine kq_get ?_ (by with_reducible assumption)
      | refine kq_get1 ?_ (by with_reducible assumption)

/-- The same within a greater set. -/
theorem advance_keeps {m : Nat} {a : State} (g : Nat) (p : Nat) (x1 : Nat) (x2 : Nat) (s : State) (x4 : Option (List Byte)) (h : Keeps m a s)
    (hm : Sub 0x10c54269ee200 m) : KP m a (advance g p x1 x2 s x4) :=
  kp_lift h hm (advance_keeps0 g p x1 x2 s x4 (keeps_refl _ _))

/-- What `contribute` keeps. -/
theorem contribute_keeps {m : Nat} {a : State} (s : State) (g : Nat) (l : Nat) (p : Nat) (v : List Nat) (poison : Bool) (bus : Option (List Byte)) (h : Keeps m a s)
    (hm : Sub 0x10c54269ee200 m) : KP m a (contribute s g l p v poison bus) :=
  kp_lift h hm (by
    have h : Keeps 0x10c54269ee200 s s := keeps_refl _ _
    unfold contribute
    repeat' first
      | intro _ | with_reducible assumption | with_reducible exact rfl | exact rfl | exact Or.inl rfl | with_reducible exact Or.inr rfl
      | exact Or.inr rfl | with_reducible apply kp_ok | with_reducible exact kp_error | with_reducible apply kp_bind
      | with_reducible apply kep_bind | with_reducible apply ke_ok | with_reducible exact ke_error | with_reducible apply ke_bind
      | with_reducible apply kpe_bind | with_reducible apply accAdd_keeps | with_reducible apply advance_keeps
      | with_reducible apply ownAdd_keeps | with_reducible apply keeps_ite | simp only [↓keepsMk_eq] | with_reducible apply keepsMk_intro
      | dsimp only | split | refine ke_get ?_ (by with_reducible assumption) | refine kp_get ?_ (by with_reducible assumption)
      | refine kp_get1 ?_ (by with_reducible assumption))

/-- What `execMemberListRead` keeps. -/
theorem execMemberListRead_keeps {m : Nat} {a : State} (q : Nat) (idx : Nat) (s : State) (h : Keeps m a s)
    (hm : Sub 0x10c042080e200 m) : KN m a (execMemberListRead q idx s) :=
  kn_lift h hm (by
    have h : Keeps 0x10c042080e200 s s := keeps_refl _ _
    unfold execMemberListRead
    repeat' first
      | intro _ | with_reducible assumption | with_reducible exact rfl | exact rfl | exact Or.inl rfl | with_reducible exact Or.inr rfl
      | exact Or.inr rfl | with_reducible apply kn_next | with_reducible apply memRead_keeps | with_reducible apply grpMod_keeps
      | with_reducible apply keeps_ite | simp only [↓keepsMk_eq] | with_reducible apply keepsMk_intro | dsimp only | split
      | refine kq_get ?_ (by with_reducible assumption) | refine kq_get1 ?_ (by with_reducible assumption))

/-- What `soloChunks` keeps. -/
theorem soloChunks_keeps0 {a : State} (g : Nat) (x1 : List Nat) (s : State) (x3 : Option (List Byte)) (h : Keeps 0x10c54269ee200 a s) :
    KP 0x10c54269ee200 a (soloChunks g x1 s x3) := by
  induction x1 generalizing g s x3 with
  | nil =>
    unfold soloChunks
    repeat' first
      | intro _ | with_reducible assumption | with_reducible exact rfl | exact rfl | with_reducible apply ko_map
      | with_reducible apply ko_bind | with_reducible apply keeps_getD | with_reducible apply kp_ok | with_reducible exact kp_error
      | with_reducible apply kp_bind | with_reducible apply kep_bind | with_reducible apply ke_ok | with_reducible exact ke_error
      | with_reducible apply ke_bind | with_reducible apply kpe_bind | with_reducible apply takeDown_keeps
      | with_reducible apply srcChunk_keeps | with_reducible apply finishUp_keeps | with_reducible apply keeps_ite | dsimp only | split
      | cases ‹_ :: _ = _ :: _› | refine ke_get ?_ (by with_reducible assumption) | refine kp_get ?_ (by with_reducible assumption)
      | refine kp_get1 ?_ (by with_reducible assumption) | refine kq_get ?_ (by with_reducible assumption)
      | refine kq_get1 ?_ (by with_reducible assumption)
  | cons _ _ ih =>
    unfold soloChunks
    repeat' first
      | intro _ | with_reducible assumption | with_reducible exact rfl | exact rfl | with_reducible apply ih
      | with_reducible apply ko_map | with_reducible apply ko_bind | with_reducible apply keeps_getD | with_reducible apply kp_ok
      | with_reducible exact kp_error | with_reducible apply kp_bind | with_reducible apply kep_bind | with_reducible apply ke_ok
      | with_reducible exact ke_error | with_reducible apply ke_bind | with_reducible apply kpe_bind
      | with_reducible apply takeDown_keeps | with_reducible apply srcChunk_keeps | with_reducible apply finishUp_keeps
      | with_reducible apply keeps_ite | dsimp only | split | cases ‹_ :: _ = _ :: _› | refine ke_get ?_ (by with_reducible assumption)
      | refine kp_get ?_ (by with_reducible assumption) | refine kp_get1 ?_ (by with_reducible assumption)
      | refine kq_get ?_ (by with_reducible assumption) | refine kq_get1 ?_ (by with_reducible assumption)

/-- The same within a greater set. -/
theorem soloChunks_keeps {m : Nat} {a : State} (g : Nat) (x1 : List Nat) (s : State) (x3 : Option (List Byte)) (h : Keeps m a s)
    (hm : Sub 0x10c54269ee200 m) : KP m a (soloChunks g x1 s x3) :=
  kp_lift h hm (soloChunks_keeps0 g x1 s x3 (keeps_refl _ _))

/-- What `execCollectiveStart` keeps. -/
theorem execCollectiveStart_keeps {m : Nat} {a : State} (q : Nat) (idx : Nat) (bus : Option (List Byte)) (s : State) (h : Keeps m a s)
    (hm : Sub 0x10d5e269ee204 m) : KN m a (execCollectiveStart q idx bus s) :=
  kn_lift h hm (by
    have h : Keeps 0x10d5e269ee204 s s := keeps_refl _ _
    unfold execCollectiveStart
    repeat' first
      | intro _ | with_reducible assumption | with_reducible exact rfl | exact rfl | exact Or.inl rfl | with_reducible exact Or.inr rfl
      | exact Or.inr rfl | with_reducible apply kn_next | with_reducible apply ke_ok | with_reducible exact ke_error
      | with_reducible apply ke_bind | with_reducible apply kpe_bind | with_reducible apply kp_ok | with_reducible exact kp_error
      | with_reducible apply kp_bind | with_reducible apply kep_bind | with_reducible apply entryDone_keeps
      | with_reducible apply bumpFn_keeps | with_reducible apply grpMod_keeps | with_reducible apply scbFinish_keeps
      | with_reducible apply soloChunks_keeps | with_reducible apply stall_keeps | with_reducible apply scbAbort_keeps
      | with_reducible apply scbBlame_keeps | with_reducible apply keeps_ite | simp only [↓keepsMk_eq]
      | with_reducible apply keepsMk_intro | dsimp only | split | refine kp_get ?_ (by with_reducible assumption)
      | refine kp_get1 ?_ (by with_reducible assumption))

/-- What `chunkData` keeps. -/
theorem chunkData_keeps {m : Nat} {a : State} (s : State) (g : Nat) (l : Nat) (p : Nat) (down : Bool) (bus : Option (List Byte)) (h : Keeps m a s)
    (hm : Sub 0x10c54269ee200 m) : KP m a (chunkData s g l p down bus) :=
  kp_lift h hm (by
    have h : Keeps 0x10c54269ee200 s s := keeps_refl _ _
    unfold chunkData
    repeat' first
      | intro _ | with_reducible assumption | with_reducible exact rfl | exact rfl | with_reducible apply kp_ok
      | with_reducible exact kp_error | with_reducible apply kp_bind | with_reducible apply kep_bind | with_reducible apply ke_ok
      | with_reducible exact ke_error | with_reducible apply ke_bind | with_reducible apply kpe_bind
      | with_reducible apply srcChunk_keeps | with_reducible apply takeDown_keeps | with_reducible apply upValue_keeps
      | with_reducible apply scbNarrow_keeps | with_reducible apply accFree_keeps | with_reducible apply keeps_ite | dsimp only | split
      | refine ke_get ?_ (by with_reducible assumption) | refine kp_get ?_ (by with_reducible assumption)
      | refine kp_get1 ?_ (by with_reducible assumption))

/-- What `sendChunk` keeps. -/
theorem sendChunk_keeps {m : Nat} {a : State} (s : State) (g : Nat) (l : Nat) (p : Nat) (down : Bool) (tree : Bool) (to_ : List Nat) (bus : Option (List Byte)) (h : Keeps m a s)
    (hm : Sub 0x10d5e269ee204 m) : KE m a (sendChunk s g l p down tree to_ bus) :=
  ke_lift h hm (by
    have h : Keeps 0x10d5e269ee204 s s := keeps_refl _ _
    unfold sendChunk
    repeat' first
      | intro _ | with_reducible assumption | with_reducible exact rfl | exact rfl | exact Or.inl rfl | with_reducible exact Or.inr rfl
      | exact Or.inr rfl | with_reducible apply ke_ok | with_reducible exact ke_error | with_reducible apply ke_bind
      | with_reducible apply kpe_bind | with_reducible apply kp_ok | with_reducible exact kp_error | with_reducible apply kp_bind
      | with_reducible apply kep_bind | with_reducible apply chunkData_keeps | with_reducible apply memWrite_keeps
      | with_reducible apply scbPeerMod_keeps | with_reducible apply grpMod_keeps | with_reducible apply bumpFn_keeps
      | with_reducible apply injectChunk_keeps | with_reducible apply scbPost_keeps | with_reducible apply keeps_ite
      | simp only [↓keepsMk_eq] | with_reducible apply keepsMk_intro | with_reducible apply keeps_foldl | dsimp only | split
      | refine kp_get ?_ (by with_reducible assumption) | refine kp_get1 ?_ (by with_reducible assumption)
      | refine kq_get ?_ (by with_reducible assumption) | refine kq_get1 ?_ (by with_reducible assumption))

/-- What `landWait` keeps. -/
theorem landWait_keeps {m : Nat} {a : State} (s : State) (g : Nat) (k : Nat) (h : Keeps m a s)
    (hm : Sub 0x10000800000 m) : Keeps m a (landWait s g k) :=
  keeps_lift h hm (by
    have h : Keeps 0x10000800000 s s := keeps_refl _ _
    unfold landWait
    repeat' first
      | intro _ | with_reducible assumption | with_reducible exact rfl | exact rfl | exact Or.inl rfl | with_reducible exact Or.inr rfl
      | exact Or.inr rfl | with_reducible apply bumpFn_keeps | with_reducible apply grpMod_keeps | with_reducible apply keeps_ite
      | simp only [↓keepsMk_eq] | with_reducible apply keepsMk_intro | dsimp only | split)

/-- What `execChunkSend` keeps. -/
theorem execChunkSend_keeps {m : Nat} {a : State} (g : Nat) (l : Nat) (down : Bool) (bus : Option (List Byte)) (s : State) (h : Keeps m a s)
    (hm : Sub 0x10d5e269ee204 m) : KN m a (execChunkSend g l down bus s) :=
  kn_lift h hm (by
    have h : Keeps 0x10d5e269ee204 s s := keeps_refl _ _
    unfold execChunkSend
    repeat' first
      | intro _ | with_reducible assumption | with_reducible exact rfl | exact rfl | with_reducible apply kn_next
      | with_reducible apply ke_ok | with_reducible exact ke_error | with_reducible apply ke_bind | with_reducible apply kpe_bind
      | with_reducible apply kp_ok | with_reducible exact kp_error | with_reducible apply kp_bind | with_reducible apply kep_bind
      | with_reducible apply scbSettle_keeps | with_reducible apply sendChunk_keeps | with_reducible apply landWait_keeps
      | with_reducible apply keeps_ite | dsimp only | split | refine ke_get ?_ (by with_reducible assumption))

/-- What `askRepair` keeps. -/
theorem askRepair_keeps {m : Nat} {a : State} (s : State) (g : Nat) (l : Nat) (j : Nat) (seq : Nat) (h : Keeps m a s)
    (hm : Sub 0x10d5e269ee204 m) : Keeps m a (askRepair s g l j seq) :=
  keeps_lift h hm (by
    have h : Keeps 0x10d5e269ee204 s s := keeps_refl _ _
    unfold askRepair
    repeat' first
      | intro _ | with_reducible assumption | with_reducible exact rfl | exact rfl | with_reducible apply sendRelease_keeps | dsimp only)

/-- What `releaseCheck` keeps. -/
theorem releaseCheck_keeps {m : Nat} {a : State} (s : State) (g : Nat) (l : Nat) (j : Nat) (h : Keeps m a s)
    (hm : Sub 0x10d5e269ee204 m) : Keeps m a (releaseCheck s g l j) :=
  keeps_lift h hm (by
    have h : Keeps 0x10d5e269ee204 s s := keeps_refl _ _
    unfold releaseCheck
    repeat' first
      | intro _ | with_reducible assumption | with_reducible exact rfl | exact rfl | exact Or.inl rfl | with_reducible exact Or.inr rfl
      | exact Or.inr rfl | with_reducible apply scbPeerMod_keeps | with_reducible apply sendRelease_keeps
      | with_reducible apply keeps_ite | simp only [↓keepsMk_eq] | with_reducible apply keepsMk_intro | dsimp only | split)

/-- What `releaseOwed` keeps. -/
theorem releaseOwed_keeps {m : Nat} {a : State} (s : State) (g : Nat) (l : Nat) (h : Keeps m a s)
    (hm : Sub 0x10d5e269ee204 m) : Keeps m a (releaseOwed s g l) :=
  keeps_lift h hm (by
    have h : Keeps 0x10d5e269ee204 s s := keeps_refl _ _
    unfold releaseOwed
    repeat' first
      | intro _ | with_reducible assumption | with_reducible exact rfl | exact rfl | with_reducible apply releaseCheck_keeps
      | with_reducible apply keeps_ite | with_reducible apply keeps_foldl | dsimp only | split)

/-- What `consumed` keeps. -/
theorem consumed_keeps {m : Nat} {a : State} (s : State) (g : Nat) (l : Nat) (j : Nat) (seq : Nat) (pass : Option Bool) (h : Keeps m a s)
    (hm : Sub 0x10d5e269ee204 m) : Keeps m a (consumed s g l j seq pass) :=
  keeps_lift h hm (by
    have h : Keeps 0x10d5e269ee204 s s := keeps_refl _ _
    unfold consumed
    repeat' first
      | intro _ | with_reducible assumption | with_reducible exact rfl | exact rfl | exact Or.inl rfl | with_reducible exact Or.inr rfl
      | exact Or.inr rfl | with_reducible apply scbPeerMod_keeps | with_reducible apply releaseOwed_keeps
      | with_reducible apply releaseCheck_keeps | with_reducible apply bumpFn_keeps | with_reducible apply askRepair_keeps
      | with_reducible apply keeps_ite | simp only [↓keepsMk_eq] | with_reducible apply keepsMk_intro | dsimp only | split)

/-- What `chunkBad` keeps. -/
theorem chunkBad_keeps {m : Nat} {a : State} (s : State) (g : Nat) (l : Nat) (j : Nat) (slot : Nat) (h : Keeps m a s)
    (hm : Sub 0x10d5e269ee204 m) : Keeps m a (chunkBad s g l j slot) :=
  keeps_lift h hm (by
    have h : Keeps 0x10d5e269ee204 s s := keeps_refl _ _
    unfold chunkBad
    repeat' first
      | intro _ | with_reducible assumption | with_reducible exact rfl | exact rfl | exact Or.inl rfl | with_reducible exact Or.inr rfl
      | exact Or.inr rfl | with_reducible apply bumpFn_keeps | with_reducible apply scbAbort_keeps | with_reducible apply askRepair_keeps
      | with_reducible apply scbPeerMod_keeps | with_reducible apply keeps_ite | simp only [↓keepsMk_eq]
      | with_reducible apply keepsMk_intro | dsimp only | split)

/-- What `execChunkReceive` keeps. -/
theorem execChunkReceive_keeps {m : Nat} {a : State} (g : Nat) (l : Nat) (j : Nat) (slot : Nat) (bus : Option (List Byte)) (s : State) (h : Keeps m a s)
    (hm : Sub 0x10d5e269ee204 m) : KN m a (execChunkReceive g l j slot bus s) :=
  kn_lift h hm (by
    have h : Keeps 0x10d5e269ee204 s s := keeps_refl _ _
    unfold execChunkReceive
    repeat' first
      | intro _ | with_reducible assumption | with_reducible exact rfl | exact rfl | exact Or.inl rfl | with_reducible exact Or.inr rfl
      | exact Or.inr rfl | with_reducible apply kn_next | with_reducible apply ke_ok | with_reducible exact ke_error
      | with_reducible apply ke_bind | with_reducible apply kpe_bind | with_reducible apply kp_ok | with_reducible exact kp_error
      | with_reducible apply kp_bind | with_reducible apply kep_bind | with_reducible apply memRead_keeps
      | with_reducible apply chunkBad_keeps | with_reducible apply scbAbort_keeps | with_reducible apply bumpFn_keeps
      | with_reducible apply takeDown_keeps | with_reducible apply contribute_keeps | with_reducible apply scbFinish_keeps
      | with_reducible apply consumed_keeps | with_reducible apply scbSettle_keeps | with_reducible apply keeps_ite
      | simp only [↓keepsMk_eq] | with_reducible apply keepsMk_intro | dsimp only | split
      | refine ke_get ?_ (by with_reducible assumption) | refine kp_get ?_ (by with_reducible assumption)
      | refine kp_get1 ?_ (by with_reducible assumption) | refine kq_get ?_ (by with_reducible assumption)
      | refine kq_get1 ?_ (by with_reducible assumption))

/-- What `repairChunk` keeps. -/
theorem repairChunk_keeps {m : Nat} {a : State} (s : State) (g : Nat) (l : Nat) (j : Nat) (seq : Nat) (h : Keeps m a s)
    (hm : Sub 0x10d5e269ee204 m) : Keeps m a (repairChunk s g l j seq) :=
  keeps_lift h hm (by
    have h : Keeps 0x10d5e269ee204 s s := keeps_refl _ _
    unfold repairChunk
    repeat' first
      | intro _ | with_reducible assumption | with_reducible exact rfl | exact rfl | exact Or.inl rfl | with_reducible exact Or.inr rfl
      | exact Or.inr rfl | with_reducible apply bumpFn_keeps | with_reducible apply grpMod_keeps | with_reducible apply memRead_keeps
      | with_reducible apply scbPost_keeps | with_reducible apply keeps_ite | simp only [↓keepsMk_eq]
      | with_reducible apply keepsMk_intro | dsimp only | split | refine kq_get ?_ (by with_reducible assumption)
      | refine kq_get1 ?_ (by with_reducible assumption))

/-- What `execReleaseWordReceive` keeps. -/
theorem execReleaseWordReceive_keeps {m : Nat} {a : State} (g : Nat) (l : Nat) (j : Nat) (s : State) (h : Keeps m a s)
    (hm : Sub 0x10d5e269ee204 m) : KN m a (execReleaseWordReceive g l j s) :=
  kn_lift h hm (by
    have h : Keeps 0x10d5e269ee204 s s := keeps_refl _ _
    unfold execReleaseWordReceive
    repeat' first
      | intro _ | with_reducible assumption | with_reducible exact rfl | exact rfl | exact Or.inl rfl | with_reducible exact Or.inr rfl
      | exact Or.inr rfl | with_reducible apply kn_next | with_reducible apply memRead_keeps | with_reducible apply bumpFn_keeps
      | with_reducible apply scbPeerMod_keeps | with_reducible apply grpMod_keeps | with_reducible apply repairChunk_keeps
      | with_reducible apply scbAbort_keeps | with_reducible apply scbFinish_keeps | with_reducible apply keeps_ite
      | simp only [↓keepsMk_eq] | with_reducible apply keepsMk_intro | dsimp only | split
      | refine kq_get ?_ (by with_reducible assumption) | refine kq_get1 ?_ (by with_reducible assumption))

/-- What `execMcCellReceive` keeps. -/
theorem execMcCellReceive_keeps {m : Nat} {a : State} (k : Packet) (s : State) (h : Keeps m a s)
    (hm : Sub 0x1000400800000 m) : KN m a (execMcCellReceive k s) :=
  kn_lift h hm (by
    have h : Keeps 0x1000400800000 s s := keeps_refl _ _
    unfold execMcCellReceive
    repeat' first
      | intro _ | with_reducible assumption | with_reducible exact rfl | exact rfl | exact Or.inl rfl | with_reducible exact Or.inr rfl
      | exact Or.inr rfl | with_reducible apply kn_next | with_reducible apply memWrite_keeps | with_reducible apply keeps_ite
      | simp only [↓keepsMk_eq] | with_reducible apply keepsMk_intro | dsimp only | split
      | refine kq_get ?_ (by with_reducible assumption) | refine kq_get1 ?_ (by with_reducible assumption))

/-- What `execRepairTimeout` keeps. -/
theorem execRepairTimeout_keeps {m : Nat} {a : State} (g : Nat) (l : Nat) (j : Nat) (s : State) (h : Keeps m a s)
    (hm : Sub 0x10d5e269ee204 m) : KN m a (execRepairTimeout g l j s) :=
  kn_lift h hm (by
    have h : Keeps 0x10d5e269ee204 s s := keeps_refl _ _
    unfold execRepairTimeout
    repeat' first
      | intro _ | with_reducible assumption | with_reducible exact rfl | exact rfl | with_reducible apply kn_next
      | with_reducible apply askRepair_keeps | with_reducible apply keeps_ite | dsimp only | split)

/-- What `execCollectiveTimeout` keeps. -/
theorem execCollectiveTimeout_keeps {m : Nat} {a : State} (g : Nat) (s : State) (h : Keeps m a s)
    (hm : Sub 0x10d5e269ee204 m) : KN m a (execCollectiveTimeout g s) :=
  kn_lift h hm (by
    have h : Keeps 0x10d5e269ee204 s s := keeps_refl _ _
    unfold execCollectiveTimeout
    repeat' first
      | intro _ | with_reducible assumption | with_reducible exact rfl | exact rfl | with_reducible apply kn_next
      | with_reducible apply scbAbort_keeps | dsimp only)

/-- What `scbMsgEnd` keeps. -/
theorem scbMsgEnd_keeps {m : Nat} {a : State} (s : State) (g : Nat) (status : Nat) (h : Keeps m a s)
    (hm : Sub 0x10d5e269ee204 m) : Keeps m a (scbMsgEnd s g status) :=
  keeps_lift h hm (by
    have h : Keeps 0x10d5e269ee204 s s := keeps_refl _ _
    unfold scbMsgEnd
    repeat' first
      | intro _ | with_reducible assumption | with_reducible exact rfl | exact rfl | with_reducible apply scbAbort_keeps
      | with_reducible apply keeps_ite | dsimp only | split)

/-- What `scbNodeGone` keeps. -/
theorem scbNodeGone_keeps {m : Nat} {a : State} (s : State) (node : Nat) (h : Keeps m a s)
    (hm : Sub 0x10d5e269ee204 m) : Keeps m a (scbNodeGone s node) :=
  keeps_lift h hm (by
    have h : Keeps 0x10d5e269ee204 s s := keeps_refl _ _
    unfold scbNodeGone
    repeat' first
      | intro _ | with_reducible assumption | with_reducible exact rfl | exact rfl | exact Or.inl rfl | with_reducible exact Or.inr rfl
      | exact Or.inr rfl | with_reducible apply scbAbort_keeps | with_reducible apply keeps_ite | simp only [↓keepsMk_eq]
      | with_reducible apply keepsMk_intro | with_reducible apply keeps_foldl | dsimp only | split)

/-- What `scbTenantGone` keeps. -/
theorem scbTenantGone_keeps {m : Nat} {a : State} (s : State) (t : Nat) (h : Keeps m a s)
    (hm : Sub 0x10d5e269ee204 m) : Keeps m a (scbTenantGone s t) :=
  keeps_lift h hm (by
    have h : Keeps 0x10d5e269ee204 s s := keeps_refl _ _
    unfold scbTenantGone
    repeat' first
      | intro _ | with_reducible assumption | with_reducible exact rfl | exact rfl | with_reducible apply scbAbort_keeps
      | with_reducible apply keeps_ite | with_reducible apply keeps_foldl | dsimp only | split)

/-- What `scbGroupCommitted` keeps. -/
theorem scbGroupCommitted_keeps {m : Nat} {a : State} (s : State) (g : Nat) (h : Keeps m a s)
    (hm : Sub 0x800000 m) : Keeps m a (scbGroupCommitted s g) :=
  keeps_lift h hm (by
    have h : Keeps 0x800000 s s := keeps_refl _ _
    unfold scbGroupCommitted
    repeat' first
      | intro _ | with_reducible assumption | with_reducible exact rfl | exact rfl | exact Or.inl rfl | with_reducible exact Or.inr rfl
      | exact Or.inr rfl | with_reducible apply grpMod_keeps | simp only [↓keepsMk_eq] | with_reducible apply keepsMk_intro | dsimp only
      | split)

end Sys2Proof.Laws
end

