-- ==== Sys2Proof/Laws/KeepsSqmCmd.lean ====
section
/-! SUPPORT. Every definition of Machine/SqmCmd.lean keeps what `Keeps` says. -/
namespace Sys2Proof.Laws
open Sys2Proof.Machine Sys2Proof.Safety

/-- What `boxMod` keeps. -/
theorem boxMod_keeps {m : Nat} {a : State} (s : State) (t : Nat) (f : Mailbox → Mailbox) (h : Keeps m a s)
    (hm : Sub 0x10000000 m) : Keeps m a (boxMod s t f) :=
  keeps_lift h hm (by
    have h : Keeps 0x10000000 s s := keeps_refl _ _
    unfold boxMod
    repeat' first
      | intro _ | with_reducible assumption | with_reducible exact rfl | exact rfl | exact Or.inl rfl | with_reducible exact Or.inr rfl
      | exact Or.inr rfl | simp only [↓keepsMk_eq] | with_reducible apply keepsMk_intro | dsimp only | split)

/-- What `rspFlush` keeps. -/
theorem rspFlush_keeps {m : Nat} {a : State} (s : State) (t : Nat) (h : Keeps m a s)
    (hm : Sub 0x80010004000 m) : Keeps m a (rspFlush s t) :=
  keeps_lift h hm (by
    have h : Keeps 0x80010004000 s s := keeps_refl _ _
    unfold rspFlush
    repeat' first
      | intro _ | with_reducible assumption | with_reducible exact rfl | exact rfl | exact Or.inl rfl | with_reducible exact Or.inr rfl
      | exact Or.inr rfl | with_reducible apply boxMod_keeps | with_reducible apply sqmPush_keeps | with_reducible apply keeps_ite
      | simp only [↓keepsMk_eq] | with_reducible apply keepsMk_intro | with_reducible apply keeps_foldl | dsimp only | split)

/-- What `rspReply` keeps. -/
theorem rspReply_keeps {m : Nat} {a : State} (s : State) (t : Nat) (kind : Nat) (tag : Nat) (status : Nat) (body : List Byte) (h : Keeps m a s)
    (hm : Sub 0x80010004000 m) : Keeps m a (rspReply s t kind tag status body) :=
  keeps_lift h hm (by
    have h : Keeps 0x80010004000 s s := keeps_refl _ _
    unfold rspReply
    repeat' first
      | intro _ | with_reducible assumption | with_reducible exact rfl | exact rfl | exact Or.inl rfl | with_reducible exact Or.inr rfl
      | exact Or.inr rfl | with_reducible apply rspFlush_keeps | with_reducible apply boxMod_keeps | simp only [↓keepsMk_eq]
      | with_reducible apply keepsMk_intro | dsimp only | split)

/-- What `takeReport` keeps. -/
theorem takeReport_keeps {m : Nat} {a : State} (s : State) (t : Nat) (b : List Byte) (h : Keeps m a s)
    (hm : Sub 0x18000000 m) : Keeps m a (takeReport s t b) :=
  keeps_lift h hm (by
    have h : Keeps 0x18000000 s s := keeps_refl _ _
    unfold takeReport
    repeat' first
      | intro _ | with_reducible assumption | with_reducible exact rfl | exact rfl | exact Or.inl rfl | with_reducible exact Or.inr rfl
      | exact Or.inr rfl | with_reducible apply boxMod_keeps | with_reducible apply tenantMod_keeps | with_reducible apply keeps_ite
      | simp only [↓keepsMk_eq] | with_reducible apply keepsMk_intro | dsimp only | split)

/-- What `sqmSkip` keeps. -/
theorem sqmSkip_keeps0 {a : State} (s : State) (q : Nat) (x1 : Nat) (h : Keeps 0x8002000e200 a s) :
    Keeps 0x8002000e200 a (sqmSkip s q x1) := by
  induction x1 generalizing s q with
  | zero =>
    unfold sqmSkip
    repeat' first
      | intro _ | with_reducible assumption | with_reducible exact rfl | exact rfl | with_reducible apply ko_map
      | with_reducible apply ko_bind | with_reducible apply keeps_getD | with_reducible apply sqmPop_keeps | dsimp only
      | cases ‹_ + 1 = _ + 1› | refine kq_get ?_ (by with_reducible assumption) | refine kq_get1 ?_ (by with_reducible assumption)
  | succ _ ih =>
    unfold sqmSkip
    repeat' first
      | intro _ | with_reducible assumption | with_reducible exact rfl | exact rfl | with_reducible apply ih
      | with_reducible apply ko_map | with_reducible apply ko_bind | with_reducible apply keeps_getD | with_reducible apply sqmPop_keeps
      | dsimp only | cases ‹_ + 1 = _ + 1› | refine kq_get ?_ (by with_reducible assumption)
      | refine kq_get1 ?_ (by with_reducible assumption)

/-- The same within a greater set. -/
theorem sqmSkip_keeps {m : Nat} {a : State} (s : State) (q : Nat) (x1 : Nat) (h : Keeps m a s)
    (hm : Sub 0x8002000e200 m) : Keeps m a (sqmSkip s q x1) :=
  keeps_lift h hm (sqmSkip_keeps0 s q x1 (keeps_refl _ _))

/-- What `rspCollect` keeps. -/
theorem rspCollect_keeps {m : Nat} {a : State} (s : State) (t : Nat) (h : Keeps m a s)
    (hm : Sub 0x8003800e200 m) : Keeps m a (rspCollect s t) :=
  keeps_lift h hm (by
    have h : Keeps 0x8003800e200 s s := keeps_refl _ _
    unfold rspCollect
    repeat' first
      | intro _ | with_reducible assumption | with_reducible exact rfl | exact rfl | exact Or.inl rfl | with_reducible exact Or.inr rfl
      | exact Or.inr rfl | with_reducible apply rspReply_keeps | with_reducible apply sqmSkip_keeps | with_reducible apply boxMod_keeps
      | with_reducible apply takeReport_keeps | with_reducible apply keeps_ite | simp only [↓keepsMk_eq]
      | with_reducible apply keepsMk_intro | dsimp only | split)

/-- What `execSqmPush` keeps. -/
theorem execSqmPush_keeps {m : Nat} {a : State} (fn : Nat) (value : W64) (s : State) (h : Keeps m a s)
    (hm : Sub 0x8003800e200 m) : KN m a (execSqmPush fn value s) :=
  kn_lift h hm (by
    have h : Keeps 0x8003800e200 s s := keeps_refl _ _
    unfold execSqmPush
    repeat' first
      | intro _ | with_reducible assumption | with_reducible exact rfl | exact rfl | exact Or.inl rfl | with_reducible exact Or.inr rfl
      | exact Or.inr rfl | with_reducible apply kn_next | with_reducible apply dropHeld_keeps | with_reducible apply sqmPush_keeps
      | with_reducible apply rspCollect_keeps | with_reducible apply fnMod_keeps | with_reducible apply keeps_ite
      | simp only [↓keepsMk_eq] | with_reducible apply keepsMk_intro | dsimp only | split)

/-- What `execSqmPop` keeps. -/
theorem execSqmPop_keeps {m : Nat} {a : State} (fn : Nat) (bytes : Nat) (bad : Bool) (s : State) (h : Keeps m a s)
    (hm : Sub 0x8003000e200 m) : KN m a (execSqmPop fn bytes bad s) :=
  kn_lift h hm (by
    have h : Keeps 0x8003000e200 s s := keeps_refl _ _
    unfold execSqmPop
    repeat' first
      | intro _ | with_reducible assumption | with_reducible exact rfl | exact rfl | exact Or.inl rfl | with_reducible exact Or.inr rfl
      | exact Or.inr rfl | with_reducible apply kn_next | with_reducible apply emit_keeps | with_reducible apply sqmPop_keeps
      | with_reducible apply fnMod_keeps | with_reducible apply rspFlush_keeps | with_reducible apply keeps_ite | simp only [↓keepsMk_eq]
      | with_reducible apply keepsMk_intro | dsimp only | split | refine kq_get ?_ (by with_reducible assumption)
      | refine kq_get1 ?_ (by with_reducible assumption))

end Sys2Proof.Laws
end

