-- ==== Sys2Proof/Laws/KeepsTile.lean ====
section
/-! SUPPORT. Every definition of Machine/Tile.lean keeps what `Keeps` says. -/
namespace Sys2Proof.Laws
open Sys2Proof.Machine Sys2Proof.Safety

/-- What an instruction does is kept. -/
inductive KF (m : Nat) (a : State) : Eff → Prop
  | done {s : State} (h : Keeps m a s) : KF m a (.done s)
  | jump {s : State} {q : Nat} (h : Keeps m a s) : KF m a (.jump s q)
  | wait {s : State} (h : Keeps m a s) : KF m a (.wait s)
  | trap {c v : Nat} : KF m a (.trap c v)
  | trapAfter {s : State} {c v : Nat} (h : Keeps m a s) : KF m a (.trapAfter s c v)

/-- An effect that is done. -/
theorem kf_done {m : Nat} {a s : State} (h : Keeps m a s) : KF m a (.done s) := .done h
/-- A jump. -/
theorem kf_jump {m : Nat} {a s : State} {q : Nat} (h : Keeps m a s) : KF m a (.jump s q) := .jump h
/-- A wait. -/
theorem kf_wait {m : Nat} {a s : State} (h : Keeps m a s) : KF m a (.wait s) := .wait h
/-- A trap. -/
theorem kf_trap {m : Nat} {a : State} {c v : Nat} : KF m a (.trap c v) := .trap
/-- A trap after an effect. -/
theorem kf_trapAfter {m : Nat} {a s : State} {c v : Nat} (h : Keeps m a s) : KF m a (.trapAfter s c v) := .trapAfter h
/-- A choice of effects. -/
theorem kf_ite {m : Nat} {a : State} {c : Prop} [Decidable c] {x y : Eff} (h : KF m a x) (g : KF m a y) : KF m a (if c then x else y) := by
  split <;> assumption
/-- Lifting an effect. -/
theorem kf_lift {k m : Nat} {a b : State} {e : Eff} (h : Keeps m a b) (hm : Sub k m) (g : KF k b e) : KF m a e := by
  cases g with
  | done g => exact .done (keeps_lift h hm g)
  | jump g => exact .jump (keeps_lift h hm g)
  | wait g => exact .wait (keeps_lift h hm g)
  | trap => exact .trap
  | trapAfter g => exact .trapAfter (keeps_lift h hm g)

/-- An effect at an offset in bounds. -/
theorem atOffset_keeps {m : Nat} {a : State} (off n al : Nat) {f : Eff} (h : KF m a f) : KF m a (atOffset off n al f) := by
  unfold atOffset
  exact kf_ite kf_trap (kf_ite kf_trap h)

/-- What `setG` keeps. -/
theorem setG_keeps {m : Nat} {a : State} (s : State) (t : Nat) (n : Nat) (v : W64) (h : Keeps m a s)
    (hm : Sub 0x1000000 m) : Keeps m a (setG s t n v) :=
  keeps_lift h hm (by
    have h : Keeps 0x1000000 s s := keeps_refl _ _
    unfold setG
    repeat' first
      | intro _ | with_reducible assumption | with_reducible exact rfl | exact rfl | exact Or.inl rfl | with_reducible exact Or.inr rfl
      | exact Or.inr rfl | with_reducible apply kf_ite | with_reducible apply atOffset_keeps | with_reducible apply kf_done
      | with_reducible apply kf_jump | with_reducible apply kf_wait | with_reducible exact kf_trap | with_reducible apply kf_trapAfter
      | with_reducible apply tileMod_keeps | with_reducible apply keeps_ite | simp only [↓keepsMk_eq]
      | with_reducible apply keepsMk_intro | dsimp only | split)

/-- What `setP` keeps. -/
theorem setP_keeps {m : Nat} {a : State} (s : State) (t : Nat) (n : Nat) (b : Bool) (h : Keeps m a s)
    (hm : Sub 0x1000000 m) : Keeps m a (setP s t n b) :=
  keeps_lift h hm (by
    have h : Keeps 0x1000000 s s := keeps_refl _ _
    unfold setP
    repeat' first
      | intro _ | with_reducible assumption | with_reducible exact rfl | exact rfl | exact Or.inl rfl | with_reducible exact Or.inr rfl
      | exact Or.inr rfl | with_reducible apply kf_ite | with_reducible apply atOffset_keeps | with_reducible apply kf_done
      | with_reducible apply kf_jump | with_reducible apply kf_wait | with_reducible exact kf_trap | with_reducible apply kf_trapAfter
      | with_reducible apply tileMod_keeps | with_reducible apply keeps_ite | simp only [↓keepsMk_eq]
      | with_reducible apply keepsMk_intro | dsimp only | split)

/-- What `tagMod` keeps. -/
theorem tagMod_keeps {m : Nat} {a : State} (s : State) (t : Nat) (tag : Nat) (f : Nat → Nat) (h : Keeps m a s)
    (hm : Sub 0x1000000 m) : Keeps m a (tagMod s t tag f) :=
  keeps_lift h hm (by
    have h : Keeps 0x1000000 s s := keeps_refl _ _
    unfold tagMod
    repeat' first
      | intro _ | with_reducible assumption | with_reducible exact rfl | exact rfl | exact Or.inl rfl | with_reducible exact Or.inr rfl
      | exact Or.inr rfl | with_reducible apply kf_ite | with_reducible apply atOffset_keeps | with_reducible apply kf_done
      | with_reducible apply kf_jump | with_reducible apply kf_wait | with_reducible exact kf_trap | with_reducible apply kf_trapAfter
      | with_reducible apply tileMod_keeps | with_reducible apply keeps_ite | simp only [↓keepsMk_eq]
      | with_reducible apply keepsMk_intro | dsimp only | split)

/-- What `tagStatus` keeps. -/
theorem tagStatus_keeps {m : Nat} {a : State} (s : State) (t : Nat) (tag : Nat) (status : Nat) (h : Keeps m a s)
    (hm : Sub 0x1000000 m) : Keeps m a (tagStatus s t tag status) :=
  keeps_lift h hm (by
    have h : Keeps 0x1000000 s s := keeps_refl _ _
    unfold tagStatus
    repeat' first
      | intro _ | with_reducible assumption | with_reducible exact rfl | exact rfl | exact Or.inl rfl | with_reducible exact Or.inr rfl
      | exact Or.inr rfl | with_reducible apply kf_ite | with_reducible apply atOffset_keeps | with_reducible apply kf_done
      | with_reducible apply kf_jump | with_reducible apply kf_wait | with_reducible exact kf_trap | with_reducible apply kf_trapAfter
      | with_reducible apply tileMod_keeps | with_reducible apply keeps_ite | simp only [↓keepsMk_eq]
      | with_reducible apply keepsMk_intro | dsimp only | split)

/-- What `tileStore` keeps. -/
theorem tileStore_keeps {m : Nat} {a : State} (s : State) (t : Nat) (off : Nat) (b : List Byte) (bad : optParam Marks []) (h : Keeps m a s)
    (hm : Sub 0x1000000000000 m) : Keeps m a (tileStore s t off b bad) :=
  keeps_lift h hm (by
    have h : Keeps 0x1000000000000 s s := keeps_refl _ _
    unfold tileStore
    repeat' first
      | intro _ | with_reducible assumption | with_reducible exact rfl | exact rfl | with_reducible apply kf_ite
      | with_reducible apply atOffset_keeps | with_reducible apply kf_done | with_reducible apply kf_jump | with_reducible apply kf_wait
      | with_reducible exact kf_trap | with_reducible apply kf_trapAfter | with_reducible apply setBlk_keeps
      | with_reducible apply setBytes_keeps | with_reducible apply keeps_foldl | dsimp only | split)

/-- What `setPc` keeps. -/
theorem setPc_keeps {m : Nat} {a : State} (s : State) (t : Nat) (pc : Nat) (h : Keeps m a s)
    (hm : Sub 0x1000000 m) : Keeps m a (setPc s t pc) :=
  keeps_lift h hm (by
    have h : Keeps 0x1000000 s s := keeps_refl _ _
    unfold setPc
    repeat' first
      | intro _ | with_reducible assumption | with_reducible exact rfl | exact rfl | exact Or.inl rfl | with_reducible exact Or.inr rfl
      | exact Or.inr rfl | with_reducible apply kf_ite | with_reducible apply atOffset_keeps | with_reducible apply kf_done
      | with_reducible apply kf_jump | with_reducible apply kf_wait | with_reducible exact kf_trap | with_reducible apply kf_trapAfter
      | with_reducible apply tileMod_keeps | simp only [↓keepsMk_eq] | with_reducible apply keepsMk_intro | dsimp only | split)

/-- What `retire` keeps. -/
theorem retire_keeps {m : Nat} {a : State} (s : State) (t pc : Nat) {e : Eff} (h : Keeps m a s) (g : KF m a e) (hm : Sub 0xa42271ee200 m) :
    Keeps m a (retire s t pc e) := by
  have h1 : ∀ x, Keeps m a x → ∀ q, Keeps m a (setPc x t q) := fun _ g _ => keeps_lift g hm (setPc_keeps _ _ _ (keeps_refl _ _) rfl)
  have h2 : ∀ x, Keeps m a x → ∀ c v, Keeps m a (trap x t c v) := fun _ g _ _ => keeps_lift g hm (trap_keeps _ _ _ _ (keeps_refl _ _) rfl)
  cases g with
  | done k => exact h1 _ k _
  | jump k => exact h1 _ k _
  | wait k => exact k
  | trap => exact h2 _ h _ _
  | trapAfter k => exact h2 _ k _ _

/-- What `tileIssue` keeps. -/
theorem tileIssue_keeps {m : Nat} {a : State} (s : State) (t : Nat) {want : Nat → Bool} {f : Tile → Nat → Eff} (h : Keeps m a s)
    (g : ∀ T w, KF m a (f T w)) (hm : Sub 0xa42271ee200 m) : Keeps m a (tileIssue s t want f) :=
  have h1 : ∀ q, Keeps m a (setPc s t q) := fun _ => keeps_lift h hm (setPc_keeps _ _ _ (keeps_refl _ _) rfl)
  have h2 : ∀ c v, Keeps m a (trap s t c v) := fun _ _ => keeps_lift h hm (trap_keeps _ _ _ _ (keeps_refl _ _) rfl)
  keeps_ite h (keeps_ite (h2 _ _) (keeps_ite (h2 _ _)
    (keeps_ite h (keeps_ite (h2 _ _) (keeps_ite (h1 _) (retire_keeps _ _ _ h (g _ _) hm))))))

/-- What `tileOp` keeps. -/
theorem tileOp_keeps {m : Nat} {a : State} (s : State) (t o : Nat) {f : Tile → Nat → Eff} (h : Keeps m a s) (g : ∀ T w, KF m a (f T w))
    (hm : Sub 0xa42271ee200 m) : Keeps m a (tileOp s t o f) := tileIssue_keeps s t h g hm

/-- What `reading` keeps. -/
theorem reading_keeps {m : Nat} {a : State} (s : State) (t off n : Nat) {f : List Byte → Eff} (h : ∀ b, KF m a (f b)) :
    KF m a (reading s t off n f) := kf_ite kf_trap (h _)

/-- What `aluR` keeps. -/
theorem aluR_keeps {m : Nat} {a : State} (s : State) (t : Nat) (op : Nat) (h : Keeps m a s)
    (hm : Sub 0xa42271ee200 m) : Keeps m a (aluR s t op) :=
  keeps_lift h hm (by
    have h : Keeps 0xa42271ee200 s s := keeps_refl _ _
    unfold aluR
    repeat' first
      | intro _ | with_reducible assumption | with_reducible exact rfl | exact rfl | with_reducible apply kf_ite
      | with_reducible apply atOffset_keeps | with_reducible apply kf_done | with_reducible apply kf_jump | with_reducible apply kf_wait
      | with_reducible exact kf_trap | with_reducible apply kf_trapAfter | with_reducible apply tileOp_keeps
      | with_reducible apply setG_keeps | dsimp only | split)

/-- What `aluI` keeps. -/
theorem aluI_keeps {m : Nat} {a : State} (s : State) (t : Nat) (op : Nat) (h : Keeps m a s)
    (hm : Sub 0xa42271ee200 m) : Keeps m a (aluI s t op) :=
  keeps_lift h hm (by
    have h : Keeps 0xa42271ee200 s s := keeps_refl _ _
    unfold aluI
    repeat' first
      | intro _ | with_reducible assumption | with_reducible exact rfl | exact rfl | with_reducible apply kf_ite
      | with_reducible apply atOffset_keeps | with_reducible apply kf_done | with_reducible apply kf_jump | with_reducible apply kf_wait
      | with_reducible exact kf_trap | with_reducible apply kf_trapAfter | with_reducible apply tileOp_keeps
      | with_reducible apply setG_keeps | dsimp only | split)

/-- What `csrRead` keeps. -/
theorem csrRead_keeps {m : Nat} {a : State} (s : State) (t n : Nat) (h : Keeps m a s) (hm : Sub 0x4 m) (p : W64 × State)
    (e : csrRead s t n = some p) : Keeps m a p.2 := by
  unfold csrRead at e
  dsimp only at e
  repeat' split at e
  all_goals first
    | (cases e; done)
    | (cases e; exact h)
    | (cases e; exact keeps_lift h hm (draw_keeps _ (keeps_refl _ _) rfl))

/-- What `chanTake` keeps. -/
theorem chanTake_keeps {m : Nat} {a : State} (s : State) (t : Nat) (ch : Nat) (bad : Bool) (h : Keeps m a s)
    (hm : Sub 0x8002100e200 m) : Keeps m a (chanTake s t ch bad).1 :=
  keeps_lift h hm (by
    have h : Keeps 0x8002100e200 s s := keeps_refl _ _
    unfold chanTake
    repeat' first
      | intro _ | with_reducible assumption | with_reducible exact rfl | exact rfl | exact Or.inl rfl | with_reducible exact Or.inr rfl
      | exact Or.inr rfl | with_reducible apply kf_ite | with_reducible apply atOffset_keeps | with_reducible apply kf_done
      | with_reducible apply kf_jump | with_reducible apply kf_wait | with_reducible exact kf_trap | with_reducible apply kf_trapAfter
      | with_reducible apply sqmPop_keeps | with_reducible apply tileMod_keeps | with_reducible apply keeps_ite | simp only [↓keepsMk_eq]
      | with_reducible apply keepsMk_intro | dsimp only | split | refine kq_get ?_ (by with_reducible assumption)
      | refine kq_get1 ?_ (by with_reducible assumption))

/-- What `execTNop` keeps. -/
theorem execTNop_keeps {m : Nat} {a : State} (tile : Nat) (s : State) (h : Keeps m a s)
    (hm : Sub 0xa42271ee200 m) : KN m a (execTNop tile s) :=
  kn_lift h hm (by
    have h : Keeps 0xa42271ee200 s s := keeps_refl _ _
    unfold execTNop
    repeat' first
      | intro _ | with_reducible assumption | with_reducible exact rfl | exact rfl | with_reducible apply kn_next
      | with_reducible apply kf_ite | with_reducible apply atOffset_keeps | with_reducible apply kf_done | with_reducible apply kf_jump
      | with_reducible apply kf_wait | with_reducible exact kf_trap | with_reducible apply kf_trapAfter
      | with_reducible apply tileOp_keeps | dsimp only | split)

/-- What `execTBr` keeps. -/
theorem execTBr_keeps {m : Nat} {a : State} (tile : Nat) (s : State) (h : Keeps m a s)
    (hm : Sub 0xa42271ee200 m) : KN m a (execTBr tile s) :=
  kn_lift h hm (by
    have h : Keeps 0xa42271ee200 s s := keeps_refl _ _
    unfold execTBr
    repeat' first
      | intro _ | with_reducible assumption | with_reducible exact rfl | exact rfl | with_reducible apply kn_next
      | with_reducible apply kf_ite | with_reducible apply atOffset_keeps | with_reducible apply kf_done | with_reducible apply kf_jump
      | with_reducible apply kf_wait | with_reducible exact kf_trap | with_reducible apply kf_trapAfter
      | with_reducible apply tileOp_keeps | dsimp only | split)

/-- What `execTBrl` keeps. -/
theorem execTBrl_keeps {m : Nat} {a : State} (tile : Nat) (s : State) (h : Keeps m a s)
    (hm : Sub 0xa42271ee200 m) : KN m a (execTBrl tile s) :=
  kn_lift h hm (by
    have h : Keeps 0xa42271ee200 s s := keeps_refl _ _
    unfold execTBrl
    repeat' first
      | intro _ | with_reducible assumption | with_reducible exact rfl | exact rfl | with_reducible apply kn_next
      | with_reducible apply kf_ite | with_reducible apply atOffset_keeps | with_reducible apply kf_done | with_reducible apply kf_jump
      | with_reducible apply kf_wait | with_reducible exact kf_trap | with_reducible apply kf_trapAfter
      | with_reducible apply tileOp_keeps | with_reducible apply setG_keeps | dsimp only | split)

/-- What `execTJr` keeps. -/
theorem execTJr_keeps {m : Nat} {a : State} (tile : Nat) (s : State) (h : Keeps m a s)
    (hm : Sub 0xa42271ee200 m) : KN m a (execTJr tile s) :=
  kn_lift h hm (by
    have h : Keeps 0xa42271ee200 s s := keeps_refl _ _
    unfold execTJr
    repeat' first
      | intro _ | with_reducible assumption | with_reducible exact rfl | exact rfl | with_reducible apply kn_next
      | with_reducible apply kf_ite | with_reducible apply atOffset_keeps | with_reducible apply kf_done | with_reducible apply kf_jump
      | with_reducible apply kf_wait | with_reducible exact kf_trap | with_reducible apply kf_trapAfter
      | with_reducible apply tileOp_keeps | with_reducible apply keeps_ite | dsimp only | split)

/-- What `execTTrap` keeps. -/
theorem execTTrap_keeps {m : Nat} {a : State} (tile : Nat) (s : State) (h : Keeps m a s)
    (hm : Sub 0xa42271ee200 m) : KN m a (execTTrap tile s) :=
  kn_lift h hm (by
    have h : Keeps 0xa42271ee200 s s := keeps_refl _ _
    unfold execTTrap
    repeat' first
      | intro _ | with_reducible assumption | with_reducible exact rfl | exact rfl | exact Or.inl rfl | with_reducible exact Or.inr rfl
      | exact Or.inr rfl | with_reducible apply kn_next | with_reducible apply kf_ite | with_reducible apply atOffset_keeps
      | with_reducible apply kf_done | with_reducible apply kf_jump | with_reducible apply kf_wait | with_reducible exact kf_trap
      | with_reducible apply kf_trapAfter | with_reducible apply tileOp_keeps | simp only [↓keepsMk_eq]
      | with_reducible apply keepsMk_intro | dsimp only | split)

/-- What `execTCsrr` keeps. -/
theorem execTCsrr_keeps {m : Nat} {a : State} (tile : Nat) (s : State) (h : Keeps m a s)
    (hm : Sub 0xa42271ee204 m) : KN m a (execTCsrr tile s) :=
  kn_lift h hm (by
    have h : Keeps 0xa42271ee204 s s := keeps_refl _ _
    unfold execTCsrr
    repeat' first
      | intro _ | with_reducible assumption | with_reducible exact rfl | exact rfl | with_reducible apply kn_next
      | with_reducible apply kf_ite | with_reducible apply atOffset_keeps | with_reducible apply kf_done | with_reducible apply kf_jump
      | with_reducible apply kf_wait | with_reducible exact kf_trap | with_reducible apply kf_trapAfter
      | refine csrRead_keeps _ _ _ ?_ ?_ _ (by with_reducible assumption) | with_reducible apply tileOp_keeps
      | with_reducible apply csrRead_keeps | with_reducible apply setG_keeps | dsimp only | split)

/-- What `execTCsrw` keeps. -/
theorem execTCsrw_keeps {m : Nat} {a : State} (tile : Nat) (s : State) (h : Keeps m a s)
    (hm : Sub 0xa42271ee200 m) : KN m a (execTCsrw tile s) :=
  kn_lift h hm (by
    have h : Keeps 0xa42271ee200 s s := keeps_refl _ _
    unfold execTCsrw
    repeat' first
      | intro _ | with_reducible assumption | with_reducible exact rfl | exact rfl | with_reducible apply kn_next
      | with_reducible apply kf_ite | with_reducible apply atOffset_keeps | with_reducible apply kf_done | with_reducible apply kf_jump
      | with_reducible apply kf_wait | with_reducible exact kf_trap | with_reducible apply kf_trapAfter
      | with_reducible apply tileOp_keeps | with_reducible apply tileMod_keeps | dsimp only | split)

/-- What `execTWaitt` keeps. -/
theorem execTWaitt_keeps {m : Nat} {a : State} (tile : Nat) (s : State) (h : Keeps m a s)
    (hm : Sub 0xa42271ee200 m) : KN m a (execTWaitt tile s) :=
  kn_lift h hm (by
    have h : Keeps 0xa42271ee200 s s := keeps_refl _ _
    unfold execTWaitt
    repeat' first
      | intro _ | with_reducible assumption | with_reducible exact rfl | exact rfl | with_reducible apply kn_next
      | with_reducible apply kf_ite | with_reducible apply atOffset_keeps | with_reducible apply kf_done | with_reducible apply kf_jump
      | with_reducible apply kf_wait | with_reducible exact kf_trap | with_reducible apply kf_trapAfter
      | with_reducible apply tileOp_keeps | with_reducible apply keeps_ite | dsimp only | split)

/-- What `execTWaitc` keeps. -/
theorem execTWaitc_keeps {m : Nat} {a : State} (tile : Nat) (s : State) (h : Keeps m a s)
    (hm : Sub 0xa42271ee200 m) : KN m a (execTWaitc tile s) :=
  kn_lift h hm (by
    have h : Keeps 0xa42271ee200 s s := keeps_refl _ _
    unfold execTWaitc
    repeat' first
      | intro _ | with_reducible assumption | with_reducible exact rfl | exact rfl | with_reducible apply kn_next
      | with_reducible apply kf_ite | with_reducible apply atOffset_keeps | with_reducible apply kf_done | with_reducible apply kf_jump
      | with_reducible apply kf_wait | with_reducible exact kf_trap | with_reducible apply kf_trapAfter
      | with_reducible apply tileOp_keeps | with_reducible apply setG_keeps | with_reducible apply keeps_ite | dsimp only | split)

/-- What `execTEnd` keeps. -/
theorem execTEnd_keeps {m : Nat} {a : State} (tile : Nat) (s : State) (h : Keeps m a s)
    (hm : Sub 0xa42271ee200 m) : KN m a (execTEnd tile s) :=
  kn_lift h hm (by
    have h : Keeps 0xa42271ee200 s s := keeps_refl _ _
    unfold execTEnd
    repeat' first
      | intro _ | with_reducible assumption | with_reducible exact rfl | exact rfl | with_reducible apply kn_next
      | with_reducible apply kf_ite | with_reducible apply atOffset_keeps | with_reducible apply kf_done | with_reducible apply kf_jump
      | with_reducible apply kf_wait | with_reducible exact kf_trap | with_reducible apply kf_trapAfter
      | with_reducible apply tileOp_keeps | with_reducible apply endCheck_keeps | with_reducible apply invLeave_keeps
      | with_reducible apply tileStop_keeps | with_reducible apply keeps_ite | dsimp only | split)

/-- What `execTAdd` keeps. -/
theorem execTAdd_keeps {m : Nat} {a : State} (tile : Nat) (s : State) (h : Keeps m a s)
    (hm : Sub 0xa42271ee200 m) : KN m a (execTAdd tile s) :=
  kn_lift h hm (by
    have h : Keeps 0xa42271ee200 s s := keeps_refl _ _
    unfold execTAdd
    repeat' first
      | intro _ | with_reducible assumption | with_reducible exact rfl | exact rfl | with_reducible apply kn_next
      | with_reducible apply kf_ite | with_reducible apply atOffset_keeps | with_reducible apply kf_done | with_reducible apply kf_jump
      | with_reducible apply kf_wait | with_reducible exact kf_trap | with_reducible apply kf_trapAfter | with_reducible apply aluR_keeps
      | dsimp only)

/-- What `execTSub` keeps. -/
theorem execTSub_keeps {m : Nat} {a : State} (tile : Nat) (s : State) (h : Keeps m a s)
    (hm : Sub 0xa42271ee200 m) : KN m a (execTSub tile s) :=
  kn_lift h hm (by
    have h : Keeps 0xa42271ee200 s s := keeps_refl _ _
    unfold execTSub
    repeat' first
      | intro _ | with_reducible assumption | with_reducible exact rfl | exact rfl | with_reducible apply kn_next
      | with_reducible apply kf_ite | with_reducible apply atOffset_keeps | with_reducible apply kf_done | with_reducible apply kf_jump
      | with_reducible apply kf_wait | with_reducible exact kf_trap | with_reducible apply kf_trapAfter | with_reducible apply aluR_keeps
      | dsimp only)

/-- What `execTMul` keeps. -/
theorem execTMul_keeps {m : Nat} {a : State} (tile : Nat) (s : State) (h : Keeps m a s)
    (hm : Sub 0xa42271ee200 m) : KN m a (execTMul tile s) :=
  kn_lift h hm (by
    have h : Keeps 0xa42271ee200 s s := keeps_refl _ _
    unfold execTMul
    repeat' first
      | intro _ | with_reducible assumption | with_reducible exact rfl | exact rfl | with_reducible apply kn_next
      | with_reducible apply kf_ite | with_reducible apply atOffset_keeps | with_reducible apply kf_done | with_reducible apply kf_jump
      | with_reducible apply kf_wait | with_reducible exact kf_trap | with_reducible apply kf_trapAfter | with_reducible apply aluR_keeps
      | dsimp only)

/-- What `execTMulhu` keeps. -/
theorem execTMulhu_keeps {m : Nat} {a : State} (tile : Nat) (s : State) (h : Keeps m a s)
    (hm : Sub 0xa42271ee200 m) : KN m a (execTMulhu tile s) :=
  kn_lift h hm (by
    have h : Keeps 0xa42271ee200 s s := keeps_refl _ _
    unfold execTMulhu
    repeat' first
      | intro _ | with_reducible assumption | with_reducible exact rfl | exact rfl | with_reducible apply kn_next
      | with_reducible apply kf_ite | with_reducible apply atOffset_keeps | with_reducible apply kf_done | with_reducible apply kf_jump
      | with_reducible apply kf_wait | with_reducible exact kf_trap | with_reducible apply kf_trapAfter | with_reducible apply aluR_keeps
      | dsimp only)

/-- What `execTAnd` keeps. -/
theorem execTAnd_keeps {m : Nat} {a : State} (tile : Nat) (s : State) (h : Keeps m a s)
    (hm : Sub 0xa42271ee200 m) : KN m a (execTAnd tile s) :=
  kn_lift h hm (by
    have h : Keeps 0xa42271ee200 s s := keeps_refl _ _
    unfold execTAnd
    repeat' first
      | intro _ | with_reducible assumption | with_reducible exact rfl | exact rfl | with_reducible apply kn_next
      | with_reducible apply kf_ite | with_reducible apply atOffset_keeps | with_reducible apply kf_done | with_reducible apply kf_jump
      | with_reducible apply kf_wait | with_reducible exact kf_trap | with_reducible apply kf_trapAfter | with_reducible apply aluR_keeps
      | dsimp only)

/-- What `execTOr` keeps. -/
theorem execTOr_keeps {m : Nat} {a : State} (tile : Nat) (s : State) (h : Keeps m a s)
    (hm : Sub 0xa42271ee200 m) : KN m a (execTOr tile s) :=
  kn_lift h hm (by
    have h : Keeps 0xa42271ee200 s s := keeps_refl _ _
    unfold execTOr
    repeat' first
      | intro _ | with_reducible assumption | with_reducible exact rfl | exact rfl | with_reducible apply kn_next
      | with_reducible apply kf_ite | with_reducible apply atOffset_keeps | with_reducible apply kf_done | with_reducible apply kf_jump
      | with_reducible apply kf_wait | with_reducible exact kf_trap | with_reducible apply kf_trapAfter | with_reducible apply aluR_keeps
      | dsimp only)

/-- What `execTXor` keeps. -/
theorem execTXor_keeps {m : Nat} {a : State} (tile : Nat) (s : State) (h : Keeps m a s)
    (hm : Sub 0xa42271ee200 m) : KN m a (execTXor tile s) :=
  kn_lift h hm (by
    have h : Keeps 0xa42271ee200 s s := keeps_refl _ _
    unfold execTXor
    repeat' first
      | intro _ | with_reducible assumption | with_reducible exact rfl | exact rfl | with_reducible apply kn_next
      | with_reducible apply kf_ite | with_reducible apply atOffset_keeps | with_reducible apply kf_done | with_reducible apply kf_jump
      | with_reducible apply kf_wait | with_reducible exact kf_trap | with_reducible apply kf_trapAfter | with_reducible apply aluR_keeps
      | dsimp only)

/-- What `execTShl` keeps. -/
theorem execTShl_keeps {m : Nat} {a : State} (tile : Nat) (s : State) (h : Keeps m a s)
    (hm : Sub 0xa42271ee200 m) : KN m a (execTShl tile s) :=
  kn_lift h hm (by
    have h : Keeps 0xa42271ee200 s s := keeps_refl _ _
    unfold execTShl
    repeat' first
      | intro _ | with_reducible assumption | with_reducible exact rfl | exact rfl | with_reducible apply kn_next
      | with_reducible apply kf_ite | with_reducible apply atOffset_keeps | with_reducible apply kf_done | with_reducible apply kf_jump
      | with_reducible apply kf_wait | with_reducible exact kf_trap | with_reducible apply kf_trapAfter | with_reducible apply aluR_keeps
      | dsimp only)

/-- What `execTShr` keeps. -/
theorem execTShr_keeps {m : Nat} {a : State} (tile : Nat) (s : State) (h : Keeps m a s)
    (hm : Sub 0xa42271ee200 m) : KN m a (execTShr tile s) :=
  kn_lift h hm (by
    have h : Keeps 0xa42271ee200 s s := keeps_refl _ _
    unfold execTShr
    repeat' first
      | intro _ | with_reducible assumption | with_reducible exact rfl | exact rfl | with_reducible apply kn_next
      | with_reducible apply kf_ite | with_reducible apply atOffset_keeps | with_reducible apply kf_done | with_reducible apply kf_jump
      | with_reducible apply kf_wait | with_reducible exact kf_trap | with_reducible apply kf_trapAfter | with_reducible apply aluR_keeps
      | dsimp only)

/-- What `execTSra` keeps. -/
theorem execTSra_keeps {m : Nat} {a : State} (tile : Nat) (s : State) (h : Keeps m a s)
    (hm : Sub 0xa42271ee200 m) : KN m a (execTSra tile s) :=
  kn_lift h hm (by
    have h : Keeps 0xa42271ee200 s s := keeps_refl _ _
    unfold execTSra
    repeat' first
      | intro _ | with_reducible assumption | with_reducible exact rfl | exact rfl | with_reducible apply kn_next
      | with_reducible apply kf_ite | with_reducible apply atOffset_keeps | with_reducible apply kf_done | with_reducible apply kf_jump
      | with_reducible apply kf_wait | with_reducible exact kf_trap | with_reducible apply kf_trapAfter | with_reducible apply aluR_keeps
      | dsimp only)

/-- What `execTMins` keeps. -/
theorem execTMins_keeps {m : Nat} {a : State} (tile : Nat) (s : State) (h : Keeps m a s)
    (hm : Sub 0xa42271ee200 m) : KN m a (execTMins tile s) :=
  kn_lift h hm (by
    have h : Keeps 0xa42271ee200 s s := keeps_refl _ _
    unfold execTMins
    repeat' first
      | intro _ | with_reducible assumption | with_reducible exact rfl | exact rfl | with_reducible apply kn_next
      | with_reducible apply kf_ite | with_reducible apply atOffset_keeps | with_reducible apply kf_done | with_reducible apply kf_jump
      | with_reducible apply kf_wait | with_reducible exact kf_trap | with_reducible apply kf_trapAfter | with_reducible apply aluR_keeps
      | dsimp only)

/-- What `execTMaxs` keeps. -/
theorem execTMaxs_keeps {m : Nat} {a : State} (tile : Nat) (s : State) (h : Keeps m a s)
    (hm : Sub 0xa42271ee200 m) : KN m a (execTMaxs tile s) :=
  kn_lift h hm (by
    have h : Keeps 0xa42271ee200 s s := keeps_refl _ _
    unfold execTMaxs
    repeat' first
      | intro _ | with_reducible assumption | with_reducible exact rfl | exact rfl | with_reducible apply kn_next
      | with_reducible apply kf_ite | with_reducible apply atOffset_keeps | with_reducible apply kf_done | with_reducible apply kf_jump
      | with_reducible apply kf_wait | with_reducible exact kf_trap | with_reducible apply kf_trapAfter | with_reducible apply aluR_keeps
      | dsimp only)

/-- What `execTMinu` keeps. -/
theorem execTMinu_keeps {m : Nat} {a : State} (tile : Nat) (s : State) (h : Keeps m a s)
    (hm : Sub 0xa42271ee200 m) : KN m a (execTMinu tile s) :=
  kn_lift h hm (by
    have h : Keeps 0xa42271ee200 s s := keeps_refl _ _
    unfold execTMinu
    repeat' first
      | intro _ | with_reducible assumption | with_reducible exact rfl | exact rfl | with_reducible apply kn_next
      | with_reducible apply kf_ite | with_reducible apply atOffset_keeps | with_reducible apply kf_done | with_reducible apply kf_jump
      | with_reducible apply kf_wait | with_reducible exact kf_trap | with_reducible apply kf_trapAfter | with_reducible apply aluR_keeps
      | dsimp only)

/-- What `execTMaxu` keeps. -/
theorem execTMaxu_keeps {m : Nat} {a : State} (tile : Nat) (s : State) (h : Keeps m a s)
    (hm : Sub 0xa42271ee200 m) : KN m a (execTMaxu tile s) :=
  kn_lift h hm (by
    have h : Keeps 0xa42271ee200 s s := keeps_refl _ _
    unfold execTMaxu
    repeat' first
      | intro _ | with_reducible assumption | with_reducible exact rfl | exact rfl | with_reducible apply kn_next
      | with_reducible apply kf_ite | with_reducible apply atOffset_keeps | with_reducible apply kf_done | with_reducible apply kf_jump
      | with_reducible apply kf_wait | with_reducible exact kf_trap | with_reducible apply kf_trapAfter | with_reducible apply aluR_keeps
      | dsimp only)

/-- What `execTDivu` keeps. -/
theorem execTDivu_keeps {m : Nat} {a : State} (tile : Nat) (s : State) (h : Keeps m a s)
    (hm : Sub 0xa42271ee200 m) : KN m a (execTDivu tile s) :=
  kn_lift h hm (by
    have h : Keeps 0xa42271ee200 s s := keeps_refl _ _
    unfold execTDivu
    repeat' first
      | intro _ | with_reducible assumption | with_reducible exact rfl | exact rfl | with_reducible apply kn_next
      | with_reducible apply kf_ite | with_reducible apply atOffset_keeps | with_reducible apply kf_done | with_reducible apply kf_jump
      | with_reducible apply kf_wait | with_reducible exact kf_trap | with_reducible apply kf_trapAfter | with_reducible apply aluR_keeps
      | dsimp only)

/-- What `execTRemu` keeps. -/
theorem execTRemu_keeps {m : Nat} {a : State} (tile : Nat) (s : State) (h : Keeps m a s)
    (hm : Sub 0xa42271ee200 m) : KN m a (execTRemu tile s) :=
  kn_lift h hm (by
    have h : Keeps 0xa42271ee200 s s := keeps_refl _ _
    unfold execTRemu
    repeat' first
      | intro _ | with_reducible assumption | with_reducible exact rfl | exact rfl | with_reducible apply kn_next
      | with_reducible apply kf_ite | with_reducible apply atOffset_keeps | with_reducible apply kf_done | with_reducible apply kf_jump
      | with_reducible apply kf_wait | with_reducible exact kf_trap | with_reducible apply kf_trapAfter | with_reducible apply aluR_keeps
      | dsimp only)

/-- What `execTAddi` keeps. -/
theorem execTAddi_keeps {m : Nat} {a : State} (tile : Nat) (s : State) (h : Keeps m a s)
    (hm : Sub 0xa42271ee200 m) : KN m a (execTAddi tile s) :=
  kn_lift h hm (by
    have h : Keeps 0xa42271ee200 s s := keeps_refl _ _
    unfold execTAddi
    repeat' first
      | intro _ | with_reducible assumption | with_reducible exact rfl | exact rfl | with_reducible apply kn_next
      | with_reducible apply kf_ite | with_reducible apply atOffset_keeps | with_reducible apply kf_done | with_reducible apply kf_jump
      | with_reducible apply kf_wait | with_reducible exact kf_trap | with_reducible apply kf_trapAfter | with_reducible apply aluI_keeps
      | dsimp only)

/-- What `execTSubi` keeps. -/
theorem execTSubi_keeps {m : Nat} {a : State} (tile : Nat) (s : State) (h : Keeps m a s)
    (hm : Sub 0xa42271ee200 m) : KN m a (execTSubi tile s) :=
  kn_lift h hm (by
    have h : Keeps 0xa42271ee200 s s := keeps_refl _ _
    unfold execTSubi
    repeat' first
      | intro _ | with_reducible assumption | with_reducible exact rfl | exact rfl | with_reducible apply kn_next
      | with_reducible apply kf_ite | with_reducible apply atOffset_keeps | with_reducible apply kf_done | with_reducible apply kf_jump
      | with_reducible apply kf_wait | with_reducible exact kf_trap | with_reducible apply kf_trapAfter | with_reducible apply aluI_keeps
      | dsimp only)

/-- What `execTMuli` keeps. -/
theorem execTMuli_keeps {m : Nat} {a : State} (tile : Nat) (s : State) (h : Keeps m a s)
    (hm : Sub 0xa42271ee200 m) : KN m a (execTMuli tile s) :=
  kn_lift h hm (by
    have h : Keeps 0xa42271ee200 s s := keeps_refl _ _
    unfold execTMuli
    repeat' first
      | intro _ | with_reducible assumption | with_reducible exact rfl | exact rfl | with_reducible apply kn_next
      | with_reducible apply kf_ite | with_reducible apply atOffset_keeps | with_reducible apply kf_done | with_reducible apply kf_jump
      | with_reducible apply kf_wait | with_reducible exact kf_trap | with_reducible apply kf_trapAfter | with_reducible apply aluI_keeps
      | dsimp only)

/-- What `execTMulhui` keeps. -/
theorem execTMulhui_keeps {m : Nat} {a : State} (tile : Nat) (s : State) (h : Keeps m a s)
    (hm : Sub 0xa42271ee200 m) : KN m a (execTMulhui tile s) :=
  kn_lift h hm (by
    have h : Keeps 0xa42271ee200 s s := keeps_refl _ _
    unfold execTMulhui
    repeat' first
      | intro _ | with_reducible assumption | with_reducible exact rfl | exact rfl | with_reducible apply kn_next
      | with_reducible apply kf_ite | with_reducible apply atOffset_keeps | with_reducible apply kf_done | with_reducible apply kf_jump
      | with_reducible apply kf_wait | with_reducible exact kf_trap | with_reducible apply kf_trapAfter | with_reducible apply aluI_keeps
      | dsimp only)

/-- What `execTAndi` keeps. -/
theorem execTAndi_keeps {m : Nat} {a : State} (tile : Nat) (s : State) (h : Keeps m a s)
    (hm : Sub 0xa42271ee200 m) : KN m a (execTAndi tile s) :=
  kn_lift h hm (by
    have h : Keeps 0xa42271ee200 s s := keeps_refl _ _
    unfold execTAndi
    repeat' first
      | intro _ | with_reducible assumption | with_reducible exact rfl | exact rfl | with_reducible apply kn_next
      | with_reducible apply kf_ite | with_reducible apply atOffset_keeps | with_reducible apply kf_done | with_reducible apply kf_jump
      | with_reducible apply kf_wait | with_reducible exact kf_trap | with_reducible apply kf_trapAfter | with_reducible apply aluI_keeps
      | dsimp only)

/-- What `execTOri` keeps. -/
theorem execTOri_keeps {m : Nat} {a : State} (tile : Nat) (s : State) (h : Keeps m a s)
    (hm : Sub 0xa42271ee200 m) : KN m a (execTOri tile s) :=
  kn_lift h hm (by
    have h : Keeps 0xa42271ee200 s s := keeps_refl _ _
    unfold execTOri
    repeat' first
      | intro _ | with_reducible assumption | with_reducible exact rfl | exact rfl | with_reducible apply kn_next
      | with_reducible apply kf_ite | with_reducible apply atOffset_keeps | with_reducible apply kf_done | with_reducible apply kf_jump
      | with_reducible apply kf_wait | with_reducible exact kf_trap | with_reducible apply kf_trapAfter | with_reducible apply aluI_keeps
      | dsimp only)

/-- What `execTXori` keeps. -/
theorem execTXori_keeps {m : Nat} {a : State} (tile : Nat) (s : State) (h : Keeps m a s)
    (hm : Sub 0xa42271ee200 m) : KN m a (execTXori tile s) :=
  kn_lift h hm (by
    have h : Keeps 0xa42271ee200 s s := keeps_refl _ _
    unfold execTXori
    repeat' first
      | intro _ | with_reducible assumption | with_reducible exact rfl | exact rfl | with_reducible apply kn_next
      | with_reducible apply kf_ite | with_reducible apply atOffset_keeps | with_reducible apply kf_done | with_reducible apply kf_jump
      | with_reducible apply kf_wait | with_reducible exact kf_trap | with_reducible apply kf_trapAfter | with_reducible apply aluI_keeps
      | dsimp only)

/-- What `execTShli` keeps. -/
theorem execTShli_keeps {m : Nat} {a : State} (tile : Nat) (s : State) (h : Keeps m a s)
    (hm : Sub 0xa42271ee200 m) : KN m a (execTShli tile s) :=
  kn_lift h hm (by
    have h : Keeps 0xa42271ee200 s s := keeps_refl _ _
    unfold execTShli
    repeat' first
      | intro _ | with_reducible assumption | with_reducible exact rfl | exact rfl | with_reducible apply kn_next
      | with_reducible apply kf_ite | with_reducible apply atOffset_keeps | with_reducible apply kf_done | with_reducible apply kf_jump
      | with_reducible apply kf_wait | with_reducible exact kf_trap | with_reducible apply kf_trapAfter | with_reducible apply aluI_keeps
      | dsimp only)

/-- What `execTShri` keeps. -/
theorem execTShri_keeps {m : Nat} {a : State} (tile : Nat) (s : State) (h : Keeps m a s)
    (hm : Sub 0xa42271ee200 m) : KN m a (execTShri tile s) :=
  kn_lift h hm (by
    have h : Keeps 0xa42271ee200 s s := keeps_refl _ _
    unfold execTShri
    repeat' first
      | intro _ | with_reducible assumption | with_reducible exact rfl | exact rfl | with_reducible apply kn_next
      | with_reducible apply kf_ite | with_reducible apply atOffset_keeps | with_reducible apply kf_done | with_reducible apply kf_jump
      | with_reducible apply kf_wait | with_reducible exact kf_trap | with_reducible apply kf_trapAfter | with_reducible apply aluI_keeps
      | dsimp only)

/-- What `execTSrai` keeps. -/
theorem execTSrai_keeps {m : Nat} {a : State} (tile : Nat) (s : State) (h : Keeps m a s)
    (hm : Sub 0xa42271ee200 m) : KN m a (execTSrai tile s) :=
  kn_lift h hm (by
    have h : Keeps 0xa42271ee200 s s := keeps_refl _ _
    unfold execTSrai
    repeat' first
      | intro _ | with_reducible assumption | with_reducible exact rfl | exact rfl | with_reducible apply kn_next
      | with_reducible apply kf_ite | with_reducible apply atOffset_keeps | with_reducible apply kf_done | with_reducible apply kf_jump
      | with_reducible apply kf_wait | with_reducible exact kf_trap | with_reducible apply kf_trapAfter | with_reducible apply aluI_keeps
      | dsimp only)

/-- What `execTMinsi` keeps. -/
theorem execTMinsi_keeps {m : Nat} {a : State} (tile : Nat) (s : State) (h : Keeps m a s)
    (hm : Sub 0xa42271ee200 m) : KN m a (execTMinsi tile s) :=
  kn_lift h hm (by
    have h : Keeps 0xa42271ee200 s s := keeps_refl _ _
    unfold execTMinsi
    repeat' first
      | intro _ | with_reducible assumption | with_reducible exact rfl | exact rfl | with_reducible apply kn_next
      | with_reducible apply kf_ite | with_reducible apply atOffset_keeps | with_reducible apply kf_done | with_reducible apply kf_jump
      | with_reducible apply kf_wait | with_reducible exact kf_trap | with_reducible apply kf_trapAfter | with_reducible apply aluI_keeps
      | dsimp only)

/-- What `execTMaxsi` keeps. -/
theorem execTMaxsi_keeps {m : Nat} {a : State} (tile : Nat) (s : State) (h : Keeps m a s)
    (hm : Sub 0xa42271ee200 m) : KN m a (execTMaxsi tile s) :=
  kn_lift h hm (by
    have h : Keeps 0xa42271ee200 s s := keeps_refl _ _
    unfold execTMaxsi
    repeat' first
      | intro _ | with_reducible assumption | with_reducible exact rfl | exact rfl | with_reducible apply kn_next
      | with_reducible apply kf_ite | with_reducible apply atOffset_keeps | with_reducible apply kf_done | with_reducible apply kf_jump
      | with_reducible apply kf_wait | with_reducible exact kf_trap | with_reducible apply kf_trapAfter | with_reducible apply aluI_keeps
      | dsimp only)

/-- What `execTMinui` keeps. -/
theorem execTMinui_keeps {m : Nat} {a : State} (tile : Nat) (s : State) (h : Keeps m a s)
    (hm : Sub 0xa42271ee200 m) : KN m a (execTMinui tile s) :=
  kn_lift h hm (by
    have h : Keeps 0xa42271ee200 s s := keeps_refl _ _
    unfold execTMinui
    repeat' first
      | intro _ | with_reducible assumption | with_reducible exact rfl | exact rfl | with_reducible apply kn_next
      | with_reducible apply kf_ite | with_reducible apply atOffset_keeps | with_reducible apply kf_done | with_reducible apply kf_jump
      | with_reducible apply kf_wait | with_reducible exact kf_trap | with_reducible apply kf_trapAfter | with_reducible apply aluI_keeps
      | dsimp only)

/-- What `execTMaxui` keeps. -/
theorem execTMaxui_keeps {m : Nat} {a : State} (tile : Nat) (s : State) (h : Keeps m a s)
    (hm : Sub 0xa42271ee200 m) : KN m a (execTMaxui tile s) :=
  kn_lift h hm (by
    have h : Keeps 0xa42271ee200 s s := keeps_refl _ _
    unfold execTMaxui
    repeat' first
      | intro _ | with_reducible assumption | with_reducible exact rfl | exact rfl | with_reducible apply kn_next
      | with_reducible apply kf_ite | with_reducible apply atOffset_keeps | with_reducible apply kf_done | with_reducible apply kf_jump
      | with_reducible apply kf_wait | with_reducible exact kf_trap | with_reducible apply kf_trapAfter | with_reducible apply aluI_keeps
      | dsimp only)

/-- What `execTDivui` keeps. -/
theorem execTDivui_keeps {m : Nat} {a : State} (tile : Nat) (s : State) (h : Keeps m a s)
    (hm : Sub 0xa42271ee200 m) : KN m a (execTDivui tile s) :=
  kn_lift h hm (by
    have h : Keeps 0xa42271ee200 s s := keeps_refl _ _
    unfold execTDivui
    repeat' first
      | intro _ | with_reducible assumption | with_reducible exact rfl | exact rfl | with_reducible apply kn_next
      | with_reducible apply kf_ite | with_reducible apply atOffset_keeps | with_reducible apply kf_done | with_reducible apply kf_jump
      | with_reducible apply kf_wait | with_reducible exact kf_trap | with_reducible apply kf_trapAfter | with_reducible apply aluI_keeps
      | dsimp only)

/-- What `execTRemui` keeps. -/
theorem execTRemui_keeps {m : Nat} {a : State} (tile : Nat) (s : State) (h : Keeps m a s)
    (hm : Sub 0xa42271ee200 m) : KN m a (execTRemui tile s) :=
  kn_lift h hm (by
    have h : Keeps 0xa42271ee200 s s := keeps_refl _ _
    unfold execTRemui
    repeat' first
      | intro _ | with_reducible assumption | with_reducible exact rfl | exact rfl | with_reducible apply kn_next
      | with_reducible apply kf_ite | with_reducible apply atOffset_keeps | with_reducible apply kf_done | with_reducible apply kf_jump
      | with_reducible apply kf_wait | with_reducible exact kf_trap | with_reducible apply kf_trapAfter | with_reducible apply aluI_keeps
      | dsimp only)

/-- What `execTMovi` keeps. -/
theorem execTMovi_keeps {m : Nat} {a : State} (tile : Nat) (s : State) (h : Keeps m a s)
    (hm : Sub 0xa42271ee200 m) : KN m a (execTMovi tile s) :=
  kn_lift h hm (by
    have h : Keeps 0xa42271ee200 s s := keeps_refl _ _
    unfold execTMovi
    repeat' first
      | intro _ | with_reducible assumption | with_reducible exact rfl | exact rfl | with_reducible apply kn_next
      | with_reducible apply kf_ite | with_reducible apply atOffset_keeps | with_reducible apply kf_done | with_reducible apply kf_jump
      | with_reducible apply kf_wait | with_reducible exact kf_trap | with_reducible apply kf_trapAfter
      | with_reducible apply tileOp_keeps | with_reducible apply setG_keeps | dsimp only | split)

/-- What `execTMovhi` keeps. -/
theorem execTMovhi_keeps {m : Nat} {a : State} (tile : Nat) (s : State) (h : Keeps m a s)
    (hm : Sub 0xa42271ee200 m) : KN m a (execTMovhi tile s) :=
  kn_lift h hm (by
    have h : Keeps 0xa42271ee200 s s := keeps_refl _ _
    unfold execTMovhi
    repeat' first
      | intro _ | with_reducible assumption | with_reducible exact rfl | exact rfl | with_reducible apply kn_next
      | with_reducible apply kf_ite | with_reducible apply atOffset_keeps | with_reducible apply kf_done | with_reducible apply kf_jump
      | with_reducible apply kf_wait | with_reducible exact kf_trap | with_reducible apply kf_trapAfter
      | with_reducible apply tileOp_keeps | with_reducible apply setG_keeps | dsimp only | split)

/-- What `execTCmp` keeps. -/
theorem execTCmp_keeps {m : Nat} {a : State} (tile : Nat) (s : State) (h : Keeps m a s)
    (hm : Sub 0xa42271ee200 m) : KN m a (execTCmp tile s) :=
  kn_lift h hm (by
    have h : Keeps 0xa42271ee200 s s := keeps_refl _ _
    unfold execTCmp
    repeat' first
      | intro _ | with_reducible assumption | with_reducible exact rfl | exact rfl | with_reducible apply kn_next
      | with_reducible apply kf_ite | with_reducible apply atOffset_keeps | with_reducible apply kf_done | with_reducible apply kf_jump
      | with_reducible apply kf_wait | with_reducible exact kf_trap | with_reducible apply kf_trapAfter
      | with_reducible apply tileOp_keeps | with_reducible apply setP_keeps | dsimp only | split)

/-- What `execTCmpi` keeps. -/
theorem execTCmpi_keeps {m : Nat} {a : State} (tile : Nat) (s : State) (h : Keeps m a s)
    (hm : Sub 0xa42271ee200 m) : KN m a (execTCmpi tile s) :=
  kn_lift h hm (by
    have h : Keeps 0xa42271ee200 s s := keeps_refl _ _
    unfold execTCmpi
    repeat' first
      | intro _ | with_reducible assumption | with_reducible exact rfl | exact rfl | with_reducible apply kn_next
      | with_reducible apply kf_ite | with_reducible apply atOffset_keeps | with_reducible apply kf_done | with_reducible apply kf_jump
      | with_reducible apply kf_wait | with_reducible exact kf_trap | with_reducible apply kf_trapAfter
      | with_reducible apply tileOp_keeps | with_reducible apply setP_keeps | dsimp only | split)

/-- What `execTPlog` keeps. -/
theorem execTPlog_keeps {m : Nat} {a : State} (tile : Nat) (s : State) (h : Keeps m a s)
    (hm : Sub 0xa42271ee200 m) : KN m a (execTPlog tile s) :=
  kn_lift h hm (by
    have h : Keeps 0xa42271ee200 s s := keeps_refl _ _
    unfold execTPlog
    repeat' first
      | intro _ | with_reducible assumption | with_reducible exact rfl | exact rfl | with_reducible apply kn_next
      | with_reducible apply kf_ite | with_reducible apply atOffset_keeps | with_reducible apply kf_done | with_reducible apply kf_jump
      | with_reducible apply kf_wait | with_reducible exact kf_trap | with_reducible apply kf_trapAfter
      | with_reducible apply tileOp_keeps | with_reducible apply setP_keeps | dsimp only | split)

/-- What `tileLoad` keeps. -/
theorem tileLoad_keeps {m : Nat} {a : State} (s : State) (t : Nat) (o : Nat) (n : Nat) (ext : Nat → W64) (h : Keeps m a s)
    (hm : Sub 0xa42271ee200 m) : Keeps m a (tileLoad s t o n ext) :=
  keeps_lift h hm (by
    have h : Keeps 0xa42271ee200 s s := keeps_refl _ _
    unfold tileLoad
    repeat' first
      | intro _ | with_reducible assumption | with_reducible exact rfl | exact rfl | with_reducible apply kf_ite
      | with_reducible apply atOffset_keeps | with_reducible apply kf_done | with_reducible apply kf_jump | with_reducible apply kf_wait
      | with_reducible exact kf_trap | with_reducible apply kf_trapAfter | with_reducible apply tileOp_keeps
      | with_reducible apply reading_keeps | with_reducible apply setG_keeps | dsimp only | split)

/-- What `tileStoreOp` keeps. -/
theorem tileStoreOp_keeps {m : Nat} {a : State} (s : State) (t : Nat) (o : Nat) (n : Nat) (h : Keeps m a s)
    (hm : Sub 0x10a42271ee200 m) : Keeps m a (tileStoreOp s t o n) :=
  keeps_lift h hm (by
    have h : Keeps 0x10a42271ee200 s s := keeps_refl _ _
    unfold tileStoreOp
    repeat' first
      | intro _ | with_reducible assumption | with_reducible exact rfl | exact rfl | with_reducible apply kf_ite
      | with_reducible apply atOffset_keeps | with_reducible apply kf_done | with_reducible apply kf_jump | with_reducible apply kf_wait
      | with_reducible exact kf_trap | with_reducible apply kf_trapAfter | with_reducible apply tileOp_keeps
      | with_reducible apply tileStore_keeps | dsimp only | split)

/-- What `execTLd8u` keeps. -/
theorem execTLd8u_keeps {m : Nat} {a : State} (tile : Nat) (s : State) (h : Keeps m a s)
    (hm : Sub 0xa42271ee200 m) : KN m a (execTLd8u tile s) :=
  kn_lift h hm (by
    have h : Keeps 0xa42271ee200 s s := keeps_refl _ _
    unfold execTLd8u
    repeat' first
      | intro _ | with_reducible assumption | with_reducible exact rfl | exact rfl | with_reducible apply kn_next
      | with_reducible apply kf_ite | with_reducible apply atOffset_keeps | with_reducible apply kf_done | with_reducible apply kf_jump
      | with_reducible apply kf_wait | with_reducible exact kf_trap | with_reducible apply kf_trapAfter
      | with_reducible apply tileLoad_keeps | dsimp only)

/-- What `execTLd16u` keeps. -/
theorem execTLd16u_keeps {m : Nat} {a : State} (tile : Nat) (s : State) (h : Keeps m a s)
    (hm : Sub 0xa42271ee200 m) : KN m a (execTLd16u tile s) :=
  kn_lift h hm (by
    have h : Keeps 0xa42271ee200 s s := keeps_refl _ _
    unfold execTLd16u
    repeat' first
      | intro _ | with_reducible assumption | with_reducible exact rfl | exact rfl | with_reducible apply kn_next
      | with_reducible apply kf_ite | with_reducible apply atOffset_keeps | with_reducible apply kf_done | with_reducible apply kf_jump
      | with_reducible apply kf_wait | with_reducible exact kf_trap | with_reducible apply kf_trapAfter
      | with_reducible apply tileLoad_keeps | dsimp only)

/-- What `execTLd32u` keeps. -/
theorem execTLd32u_keeps {m : Nat} {a : State} (tile : Nat) (s : State) (h : Keeps m a s)
    (hm : Sub 0xa42271ee200 m) : KN m a (execTLd32u tile s) :=
  kn_lift h hm (by
    have h : Keeps 0xa42271ee200 s s := keeps_refl _ _
    unfold execTLd32u
    repeat' first
      | intro _ | with_reducible assumption | with_reducible exact rfl | exact rfl | with_reducible apply kn_next
      | with_reducible apply kf_ite | with_reducible apply atOffset_keeps | with_reducible apply kf_done | with_reducible apply kf_jump
      | with_reducible apply kf_wait | with_reducible exact kf_trap | with_reducible apply kf_trapAfter
      | with_reducible apply tileLoad_keeps | dsimp only)

/-- What `execTLd64` keeps. -/
theorem execTLd64_keeps {m : Nat} {a : State} (tile : Nat) (s : State) (h : Keeps m a s)
    (hm : Sub 0xa42271ee200 m) : KN m a (execTLd64 tile s) :=
  kn_lift h hm (by
    have h : Keeps 0xa42271ee200 s s := keeps_refl _ _
    unfold execTLd64
    repeat' first
      | intro _ | with_reducible assumption | with_reducible exact rfl | exact rfl | with_reducible apply kn_next
      | with_reducible apply kf_ite | with_reducible apply atOffset_keeps | with_reducible apply kf_done | with_reducible apply kf_jump
      | with_reducible apply kf_wait | with_reducible exact kf_trap | with_reducible apply kf_trapAfter
      | with_reducible apply tileLoad_keeps | dsimp only)

/-- What `execTLd32s` keeps. -/
theorem execTLd32s_keeps {m : Nat} {a : State} (tile : Nat) (s : State) (h : Keeps m a s)
    (hm : Sub 0xa42271ee200 m) : KN m a (execTLd32s tile s) :=
  kn_lift h hm (by
    have h : Keeps 0xa42271ee200 s s := keeps_refl _ _
    unfold execTLd32s
    repeat' first
      | intro _ | with_reducible assumption | with_reducible exact rfl | exact rfl | with_reducible apply kn_next
      | with_reducible apply kf_ite | with_reducible apply atOffset_keeps | with_reducible apply kf_done | with_reducible apply kf_jump
      | with_reducible apply kf_wait | with_reducible exact kf_trap | with_reducible apply kf_trapAfter
      | with_reducible apply tileLoad_keeps | dsimp only)

/-- What `execTSt8` keeps. -/
theorem execTSt8_keeps {m : Nat} {a : State} (tile : Nat) (s : State) (h : Keeps m a s)
    (hm : Sub 0x10a42271ee200 m) : KN m a (execTSt8 tile s) :=
  kn_lift h hm (by
    have h : Keeps 0x10a42271ee200 s s := keeps_refl _ _
    unfold execTSt8
    repeat' first
      | intro _ | with_reducible assumption | with_reducible exact rfl | exact rfl | with_reducible apply kn_next
      | with_reducible apply kf_ite | with_reducible apply atOffset_keeps | with_reducible apply kf_done | with_reducible apply kf_jump
      | with_reducible apply kf_wait | with_reducible exact kf_trap | with_reducible apply kf_trapAfter
      | with_reducible apply tileStoreOp_keeps | dsimp only)

/-- What `execTSt16` keeps. -/
theorem execTSt16_keeps {m : Nat} {a : State} (tile : Nat) (s : State) (h : Keeps m a s)
    (hm : Sub 0x10a42271ee200 m) : KN m a (execTSt16 tile s) :=
  kn_lift h hm (by
    have h : Keeps 0x10a42271ee200 s s := keeps_refl _ _
    unfold execTSt16
    repeat' first
      | intro _ | with_reducible assumption | with_reducible exact rfl | exact rfl | with_reducible apply kn_next
      | with_reducible apply kf_ite | with_reducible apply atOffset_keeps | with_reducible apply kf_done | with_reducible apply kf_jump
      | with_reducible apply kf_wait | with_reducible exact kf_trap | with_reducible apply kf_trapAfter
      | with_reducible apply tileStoreOp_keeps | dsimp only)

/-- What `execTSt32` keeps. -/
theorem execTSt32_keeps {m : Nat} {a : State} (tile : Nat) (s : State) (h : Keeps m a s)
    (hm : Sub 0x10a42271ee200 m) : KN m a (execTSt32 tile s) :=
  kn_lift h hm (by
    have h : Keeps 0x10a42271ee200 s s := keeps_refl _ _
    unfold execTSt32
    repeat' first
      | intro _ | with_reducible assumption | with_reducible exact rfl | exact rfl | with_reducible apply kn_next
      | with_reducible apply kf_ite | with_reducible apply atOffset_keeps | with_reducible apply kf_done | with_reducible apply kf_jump
      | with_reducible apply kf_wait | with_reducible exact kf_trap | with_reducible apply kf_trapAfter
      | with_reducible apply tileStoreOp_keeps | dsimp only)

/-- What `execTSt64` keeps. -/
theorem execTSt64_keeps {m : Nat} {a : State} (tile : Nat) (s : State) (h : Keeps m a s)
    (hm : Sub 0x10a42271ee200 m) : KN m a (execTSt64 tile s) :=
  kn_lift h hm (by
    have h : Keeps 0x10a42271ee200 s s := keeps_refl _ _
    unfold execTSt64
    repeat' first
      | intro _ | with_reducible assumption | with_reducible exact rfl | exact rfl | with_reducible apply kn_next
      | with_reducible apply kf_ite | with_reducible apply atOffset_keeps | with_reducible apply kf_done | with_reducible apply kf_jump
      | with_reducible apply kf_wait | with_reducible exact kf_trap | with_reducible apply kf_trapAfter
      | with_reducible apply tileStoreOp_keeps | dsimp only)

end Sys2Proof.Laws
end

