-- ==== Sys2Proof/Laws/KeepsTileDma.lean ====
section
/-! SUPPORT. Every definition of Machine/TileDma.lean keeps what `Keeps` says. -/
namespace Sys2Proof.Laws
open Sys2Proof.Machine Sys2Proof.Safety

/-- What `dmaMod` keeps. -/
theorem dmaMod_keeps {m : Nat} {a : State} (s : State) (t : Nat) (id : Nat) (f : TileDma → TileDma) (h : Keeps m a s)
    (hm : Sub 0x1000000 m) : Keeps m a (dmaMod s t id f) :=
  keeps_lift h hm (by
    have h : Keeps 0x1000000 s s := keeps_refl _ _
    unfold dmaMod
    repeat' first
      | intro _ | with_reducible assumption | with_reducible exact rfl | exact rfl | exact Or.inl rfl | with_reducible exact Or.inr rfl
      | exact Or.inr rfl | with_reducible apply kf_ite | with_reducible apply atOffset_keeps | with_reducible apply kf_done
      | with_reducible apply kf_jump | with_reducible apply kf_wait | with_reducible exact kf_trap | with_reducible apply kf_trapAfter
      | with_reducible apply tileMod_keeps | simp only [↓keepsMk_eq] | with_reducible apply keepsMk_intro | dsimp only | split)

/-- What `dmaEnd` keeps. -/
theorem dmaEnd_keeps {m : Nat} {a : State} (s : State) (t : Nat) (id : Nat) (h : Keeps m a s)
    (hm : Sub 0x1000000 m) : Keeps m a (dmaEnd s t id) :=
  keeps_lift h hm (by
    have h : Keeps 0x1000000 s s := keeps_refl _ _
    unfold dmaEnd
    repeat' first
      | intro _ | with_reducible assumption | with_reducible exact rfl | exact rfl | exact Or.inl rfl | with_reducible exact Or.inr rfl
      | exact Or.inr rfl | with_reducible apply kf_ite | with_reducible apply atOffset_keeps | with_reducible apply kf_done
      | with_reducible apply kf_jump | with_reducible apply kf_wait | with_reducible exact kf_trap | with_reducible apply kf_trapAfter
      | with_reducible apply tagMod_keeps | with_reducible apply tileMod_keeps | with_reducible apply tileIdle_keeps
      | with_reducible apply keeps_ite | simp only [↓keepsMk_eq] | with_reducible apply keepsMk_intro | dsimp only | split)

/-- What `asyncTrap` keeps. -/
theorem asyncTrap_keeps {m : Nat} {a : State} (s : State) (t : Nat) (cause : Nat) (value : Nat) (h : Keeps m a s)
    (hm : Sub 0xa42271ee200 m) : Keeps m a (asyncTrap s t cause value) :=
  keeps_lift h hm (by
    have h : Keeps 0xa42271ee200 s s := keeps_refl _ _
    unfold asyncTrap
    repeat' first
      | intro _ | with_reducible assumption | with_reducible exact rfl | exact rfl | with_reducible apply kf_ite
      | with_reducible apply atOffset_keeps | with_reducible apply kf_done | with_reducible apply kf_jump | with_reducible apply kf_wait
      | with_reducible exact kf_trap | with_reducible apply kf_trapAfter | with_reducible apply trap_keeps
      | with_reducible apply keeps_ite | dsimp only | split)

/-- What `fabBurst` keeps. -/
theorem fabBurst_keeps {m : Nat} {z : State} (s : State) (t : Nat) (d : TileDma) (b : Burst) (a : Nat) (n : Nat) (h : Keeps m z s)
    (hm : Sub 0x10c5e271ee204 m) : Keeps m z (fabBurst s t d b a n) :=
  keeps_lift h hm (by
    have h : Keeps 0x10c5e271ee204 s s := keeps_refl _ _
    unfold fabBurst
    repeat' first
      | intro _ | with_reducible assumption | with_reducible exact rfl | exact rfl | exact Or.inl rfl | with_reducible exact Or.inr rfl
      | exact Or.inr rfl | with_reducible apply kf_ite | with_reducible apply atOffset_keeps | with_reducible apply kf_done
      | with_reducible apply kf_jump | with_reducible apply kf_wait | with_reducible exact kf_trap | with_reducible apply kf_trapAfter
      | with_reducible apply dmaMod_keeps | with_reducible apply tagStatus_keeps | with_reducible apply endXfer_keeps
      | with_reducible apply wakeChannel_keeps | with_reducible apply postMsg_keeps | with_reducible apply keeps_ite
      | simp only [↓keepsMk_eq] | with_reducible apply keepsMk_intro | dsimp only | split)

/-- What `burstIssue` keeps. -/
theorem burstIssue_keeps {m : Nat} {a : State} (s : State) (t : Nat) (d : TileDma) (n : Nat) (u : Use) (h : Keeps m a s)
    (hm : Sub 0x10c042202e200 m) : Keeps m a (burstIssue s t d n u).1 :=
  keeps_lift h hm (by
    have h : Keeps 0x10c042202e200 s s := keeps_refl _ _
    unfold burstIssue
    repeat' first
      | intro _ | with_reducible assumption | with_reducible exact rfl | exact rfl | with_reducible apply kf_ite
      | with_reducible apply atOffset_keeps | with_reducible apply kf_done | with_reducible apply kf_jump | with_reducible apply kf_wait
      | with_reducible exact kf_trap | with_reducible apply kf_trapAfter | with_reducible apply forgetRecords_keeps
      | with_reducible apply issueSegs_keeps | with_reducible apply issue_keeps | with_reducible apply keeps_ite | dsimp only | split
      | refine kq_get ?_ (by with_reducible assumption) | refine kq_get1 ?_ (by with_reducible assumption))

/-- What `burstStart` keeps. -/
theorem burstStart_keeps {m : Nat} {a : State} (s : State) (t : Nat) (id : Nat) (h : Keeps m a s)
    (hm : Sub 0x10e5e271ee204 m) : Keeps m a (burstStart s t id) :=
  keeps_lift h hm (by
    have h : Keeps 0x10e5e271ee204 s s := keeps_refl _ _
    unfold burstStart
    repeat' first
      | intro _ | with_reducible assumption | with_reducible exact rfl | exact rfl | exact Or.inl rfl | with_reducible exact Or.inr rfl
      | exact Or.inr rfl | with_reducible apply ko_map | with_reducible apply ko_bind | with_reducible apply keeps_getD
      | with_reducible apply ko_some | with_reducible exact ko_none | with_reducible apply kf_ite | with_reducible apply atOffset_keeps
      | with_reducible apply kf_done | with_reducible apply kf_jump | with_reducible apply kf_wait | with_reducible exact kf_trap
      | with_reducible apply kf_trapAfter | with_reducible apply dmaEnd_keeps | with_reducible apply burstIssue_keeps
      | with_reducible apply stall_keeps | with_reducible apply asyncTrap_keeps | with_reducible apply dmaMod_keeps
      | with_reducible apply tagStatus_keeps | with_reducible apply endXfer_keeps | with_reducible apply openStages_keeps
      | with_reducible apply fabBurst_keeps | with_reducible apply busReads_keeps | with_reducible apply keeps_ite
      | simp only [↓keepsMk_eq] | with_reducible apply keepsMk_intro | dsimp only | split
      | refine ko_get ?_ (by with_reducible assumption) | refine kq_get ?_ (by with_reducible assumption)
      | refine kq_get1 ?_ (by with_reducible assumption))

/-- What `burstDone` keeps. -/
theorem burstDone_keeps {m : Nat} {a : State} (s : State) (t : Nat) (id : Nat) (status : Nat) (h : Keeps m a s)
    (hm : Sub 0x10e5e271ee204 m) : Keeps m a (burstDone s t id status) :=
  keeps_lift h hm (by
    have h : Keeps 0x10e5e271ee204 s s := keeps_refl _ _
    unfold burstDone
    repeat' first
      | intro _ | with_reducible assumption | with_reducible exact rfl | exact rfl | exact Or.inl rfl | with_reducible exact Or.inr rfl
      | exact Or.inr rfl | with_reducible apply kf_ite | with_reducible apply atOffset_keeps | with_reducible apply kf_done
      | with_reducible apply kf_jump | with_reducible apply kf_wait | with_reducible exact kf_trap | with_reducible apply kf_trapAfter
      | with_reducible apply dmaMod_keeps | with_reducible apply tagStatus_keeps | with_reducible apply dmaEnd_keeps
      | with_reducible apply burstStart_keeps | with_reducible apply keeps_ite | simp only [↓keepsMk_eq]
      | with_reducible apply keepsMk_intro | dsimp only | split)

/-- What `burstRefused` keeps. -/
theorem burstRefused_keeps {m : Nat} {a : State} (s : State) (t : Nat) (id : Nat) (va : Nat) (h : Keeps m a s)
    (hm : Sub 0xa42271ee200 m) : Keeps m a (burstRefused s t id va) :=
  keeps_lift h hm (by
    have h : Keeps 0xa42271ee200 s s := keeps_refl _ _
    unfold burstRefused
    repeat' first
      | intro _ | with_reducible assumption | with_reducible exact rfl | exact rfl | exact Or.inl rfl | with_reducible exact Or.inr rfl
      | exact Or.inr rfl | with_reducible apply kf_ite | with_reducible apply atOffset_keeps | with_reducible apply kf_done
      | with_reducible apply kf_jump | with_reducible apply kf_wait | with_reducible exact kf_trap | with_reducible apply kf_trapAfter
      | with_reducible apply dmaMod_keeps | with_reducible apply dmaEnd_keeps | with_reducible apply asyncTrap_keeps
      | with_reducible apply keeps_ite | simp only [↓keepsMk_eq] | with_reducible apply keepsMk_intro | dsimp only | split)

/-- What `execTDmaBurstComplete` keeps. -/
theorem execTDmaBurstComplete_keeps {m : Nat} {a : State} (tile_ : Nat) (id : Nat) (bus : Option (List Byte)) (s : State) (h : Keeps m a s)
    (hm : Sub 0x10e5e271ee204 m) : KN m a (execTDmaBurstComplete tile_ id bus s) :=
  kn_lift h hm (by
    have h : Keeps 0x10e5e271ee204 s s := keeps_refl _ _
    unfold execTDmaBurstComplete
    repeat' first
      | intro _ | with_reducible assumption | with_reducible exact rfl | exact rfl | with_reducible apply kn_next
      | with_reducible apply kf_ite | with_reducible apply atOffset_keeps | with_reducible apply kf_done | with_reducible apply kf_jump
      | with_reducible apply kf_wait | with_reducible exact kf_trap | with_reducible apply kf_trapAfter
      | with_reducible apply burstStart_keeps | with_reducible apply finishWrite_keeps | with_reducible apply burstRefused_keeps
      | with_reducible apply burstDone_keeps | with_reducible apply finishRead_keeps | with_reducible apply tileStore_keeps
      | with_reducible apply keeps_ite | dsimp only | split | refine kq_get ?_ (by with_reducible assumption)
      | refine kq_get1 ?_ (by with_reducible assumption))

/-- What `dmaxEff` keeps. -/
theorem dmaxEff_keeps {m : Nat} {a : State} (s : State) (t : Nat) (T : Tile) (w : Nat) (h : Keeps m a s)
    (hm : Sub 0xa42271ee200 m) : KF m a (dmaxEff s t T w) :=
  kf_lift h hm (by
    have h : Keeps 0xa42271ee200 s s := keeps_refl _ _
    unfold dmaxEff
    repeat' first
      | intro _ | with_reducible assumption | with_reducible exact rfl | exact rfl | exact Or.inl rfl | with_reducible exact Or.inr rfl
      | exact Or.inr rfl | with_reducible apply kf_ite | with_reducible apply atOffset_keeps | with_reducible apply kf_done
      | with_reducible apply kf_jump | with_reducible apply kf_wait | with_reducible exact kf_trap | with_reducible apply kf_trapAfter
      | with_reducible apply tileMod_keeps | with_reducible apply tagMod_keeps | with_reducible apply keeps_ite | simp only [↓keepsMk_eq]
      | with_reducible apply keepsMk_intro | dsimp only | split)

/-- What `execTDmax` keeps. -/
theorem execTDmax_keeps {m : Nat} {a : State} (tile_ : Nat) (s : State) (h : Keeps m a s)
    (hm : Sub 0x10e5e271ee204 m) : KN m a (execTDmax tile_ s) :=
  kn_lift h hm (by
    have h : Keeps 0x10e5e271ee204 s s := keeps_refl _ _
    unfold execTDmax
    repeat' first
      | intro _ | with_reducible assumption | with_reducible exact rfl | exact rfl | with_reducible apply kn_next
      | with_reducible apply kf_ite | with_reducible apply atOffset_keeps | with_reducible apply kf_done | with_reducible apply kf_jump
      | with_reducible apply kf_wait | with_reducible exact kf_trap | with_reducible apply kf_trapAfter
      | with_reducible apply tileOp_keeps | with_reducible apply dmaxEff_keeps | with_reducible apply burstStart_keeps
      | with_reducible apply keeps_ite | dsimp only | split)

/-- What `datomEff` keeps. -/
theorem datomEff_keeps {m : Nat} {a : State} (s : State) (t : Nat) (T : Tile) (w : Nat) (h : Keeps m a s)
    (hm : Sub 0x10e46271ee200 m) : KF m a (datomEff s t T w) :=
  kf_lift h hm (by
    have h : Keeps 0x10e46271ee200 s s := keeps_refl _ _
    unfold datomEff
    repeat' first
      | intro _ | with_reducible assumption | with_reducible exact rfl | exact rfl | exact Or.inl rfl | with_reducible exact Or.inr rfl
      | exact Or.inr rfl | with_reducible apply kf_ite | with_reducible apply atOffset_keeps | with_reducible apply kf_done
      | with_reducible apply kf_jump | with_reducible apply kf_wait | with_reducible exact kf_trap | with_reducible apply kf_trapAfter
      | with_reducible apply issue_keeps | with_reducible apply stall_keeps | with_reducible apply endXfer_keeps
      | with_reducible apply emit_keeps | with_reducible apply tileMod_keeps | with_reducible apply finishRead_keeps
      | with_reducible apply writePieces_keeps | with_reducible apply setG_keeps | with_reducible apply keeps_ite
      | simp only [↓keepsMk_eq] | with_reducible apply keepsMk_intro | dsimp only | split
      | refine kq_get ?_ (by with_reducible assumption) | refine kq_get1 ?_ (by with_reducible assumption))

/-- What `execTDatom` keeps. -/
theorem execTDatom_keeps {m : Nat} {a : State} (tile_ : Nat) (s : State) (h : Keeps m a s)
    (hm : Sub 0x10e46271ee200 m) : KN m a (execTDatom tile_ s) :=
  kn_lift h hm (by
    have h : Keeps 0x10e46271ee200 s s := keeps_refl _ _
    unfold execTDatom
    repeat' first
      | intro _ | with_reducible assumption | with_reducible exact rfl | exact rfl | with_reducible apply kn_next
      | with_reducible apply kf_ite | with_reducible apply atOffset_keeps | with_reducible apply kf_done | with_reducible apply kf_jump
      | with_reducible apply kf_wait | with_reducible exact kf_trap | with_reducible apply kf_trapAfter
      | with_reducible apply tileOp_keeps | with_reducible apply datomEff_keeps | dsimp only)

/-- What `datomReturns` keeps. -/
theorem datomReturns_keeps {m : Nat} {a : State} (s : State) (t : Nat) (result : Option W64) (h : Keeps m a s)
    (hm : Sub 0xa42271ee200 m) : Keeps m a (datomReturns s t result) :=
  keeps_lift h hm (by
    have h : Keeps 0xa42271ee200 s s := keeps_refl _ _
    unfold datomReturns
    repeat' first
      | intro _ | with_reducible assumption | with_reducible exact rfl | exact rfl | exact Or.inl rfl | with_reducible exact Or.inr rfl
      | exact Or.inr rfl | with_reducible apply kf_ite | with_reducible apply atOffset_keeps | with_reducible apply kf_done
      | with_reducible apply kf_jump | with_reducible apply kf_wait | with_reducible exact kf_trap | with_reducible apply kf_trapAfter
      | with_reducible apply tileMod_keeps | with_reducible apply endXfer_keeps | with_reducible apply tileIdle_keeps
      | with_reducible apply setPc_keeps | with_reducible apply setG_keeps | with_reducible apply trap_keeps
      | with_reducible apply keeps_ite | simp only [↓keepsMk_eq] | with_reducible apply keepsMk_intro | dsimp only | split)

/-- What `execAtomicopComplete` keeps. -/
theorem execAtomicopComplete_keeps {m : Nat} {a : State} (ref : AtomicRef) (result : Option W64) (s : State) (h : Keeps m a s)
    (hm : Sub 0x10e56271ee200 m) : KN m a (execAtomicopComplete ref result s) :=
  kn_lift h hm (by
    have h : Keeps 0x10e56271ee200 s s := keeps_refl _ _
    unfold execAtomicopComplete
    repeat' first
      | intro _ | with_reducible assumption | with_reducible exact rfl | exact rfl | with_reducible apply kn_next
      | with_reducible apply kf_ite | with_reducible apply atOffset_keeps | with_reducible apply kf_done | with_reducible apply kf_jump
      | with_reducible apply kf_wait | with_reducible exact kf_trap | with_reducible apply kf_trapAfter
      | with_reducible apply atomicReturns_keeps | with_reducible apply datomReturns_keeps | dsimp only | split)

/-- What `msgReject` keeps. -/
theorem msgReject_keeps {m : Nat} {a : State} (s : State) (t : Nat) (tag : Nat) (h : Keeps m a s)
    (hm : Sub 0x20001000000 m) : Keeps m a (msgReject s t tag) :=
  keeps_lift h hm (by
    have h : Keeps 0x20001000000 s s := keeps_refl _ _
    unfold msgReject
    repeat' first
      | intro _ | with_reducible assumption | with_reducible exact rfl | exact rfl | exact Or.inl rfl | with_reducible exact Or.inr rfl
      | exact Or.inr rfl | with_reducible apply kf_ite | with_reducible apply atOffset_keeps | with_reducible apply kf_done
      | with_reducible apply kf_jump | with_reducible apply kf_wait | with_reducible exact kf_trap | with_reducible apply kf_trapAfter
      | with_reducible apply bumpFn_keeps | with_reducible apply tagStatus_keeps | dsimp only)

/-- What `queueSend` keeps. -/
theorem queueSend_keeps {m : Nat} {a : State} (s : State) (t : Nat) (tag : Nat) (kind : Nat) (target : Nat) (ch : Nat) (ws : List W64) (h : Keeps m a s)
    (hm : Sub 0x1000000 m) : Keeps m a (queueSend s t tag kind target ch ws) :=
  keeps_lift h hm (by
    have h : Keeps 0x1000000 s s := keeps_refl _ _
    unfold queueSend
    repeat' first
      | intro _ | with_reducible assumption | with_reducible exact rfl | exact rfl | exact Or.inl rfl | with_reducible exact Or.inr rfl
      | exact Or.inr rfl | with_reducible apply kf_ite | with_reducible apply atOffset_keeps | with_reducible apply kf_done
      | with_reducible apply kf_jump | with_reducible apply kf_wait | with_reducible exact kf_trap | with_reducible apply kf_trapAfter
      | with_reducible apply tileMod_keeps | with_reducible apply tagMod_keeps | simp only [↓keepsMk_eq]
      | with_reducible apply keepsMk_intro | dsimp only | split)

/-- What `sendLocal` keeps. -/
theorem sendLocal_keeps {m : Nat} {a : State} (s : State) (t : Nat) (T : Tile) (tag : Nat) (u : Nat) (ch : Nat) (ws : List W64) (h : Keeps m a s)
    (hm : Sub 0x20001000000 m) : KF m a (sendLocal s t T tag u ch ws) :=
  kf_lift h hm (by
    have h : Keeps 0x20001000000 s s := keeps_refl _ _
    unfold sendLocal
    repeat' first
      | intro _ | with_reducible assumption | with_reducible exact rfl | exact rfl | with_reducible apply kf_ite
      | with_reducible apply atOffset_keeps | with_reducible apply kf_done | with_reducible apply kf_jump | with_reducible apply kf_wait
      | with_reducible exact kf_trap | with_reducible apply kf_trapAfter | with_reducible apply msgReject_keeps
      | with_reducible apply queueSend_keeps | with_reducible apply keeps_ite | dsimp only | split)

/-- What `sendRemote` keeps. -/
theorem sendRemote_keeps {m : Nat} {z : State} (s : State) (t : Nat) (T : Tile) (tag : Nat) (a : Nat) (b : List Byte) (h : Keeps m z s)
    (hm : Sub 0x10c5e271ee204 m) : KF m z (sendRemote s t T tag a b) :=
  kf_lift h hm (by
    have h : Keeps 0x10c5e271ee204 s s := keeps_refl _ _
    unfold sendRemote
    repeat' first
      | intro _ | with_reducible assumption | with_reducible exact rfl | exact rfl | with_reducible apply kf_ite
      | with_reducible apply atOffset_keeps | with_reducible apply kf_done | with_reducible apply kf_jump | with_reducible apply kf_wait
      | with_reducible exact kf_trap | with_reducible apply kf_trapAfter | with_reducible apply tagStatus_keeps
      | with_reducible apply wakeChannel_keeps | with_reducible apply queueSend_keeps | with_reducible apply postMsg_keeps
      | with_reducible apply keeps_ite | dsimp only | split)

/-- What `sendWords` keeps. -/
theorem sendWords_keeps {m : Nat} {a : State} (s : State) (t : Nat) (T : Tile) (w : Nat) {f : List Byte → Eff}
    (g : ∀ b, KF m a (f b)) : KF m a (sendWords s t T w f) := by
  unfold sendWords
  repeat' first
    | intro _
    | with_reducible assumption
    | exact g _
    | with_reducible exact kf_trap
    | with_reducible apply kf_ite
    | with_reducible apply atOffset_keeps
    | with_reducible apply reading_keeps
    | dsimp only
    | split

/-- What `execTSendTile` keeps. -/
theorem execTSendTile_keeps {m : Nat} {a : State} (tile_ : Nat) (s : State) (h : Keeps m a s)
    (hm : Sub 0xa42271ee200 m) : KN m a (execTSendTile tile_ s) :=
  kn_lift h hm (by
    have h : Keeps 0xa42271ee200 s s := keeps_refl _ _
    unfold execTSendTile
    repeat' first
      | intro _ | with_reducible assumption | with_reducible exact rfl | exact rfl | exact Or.inl rfl | with_reducible exact Or.inr rfl
      | exact Or.inr rfl | with_reducible apply kn_next | with_reducible apply kf_ite | with_reducible apply atOffset_keeps
      | with_reducible apply kf_done | with_reducible apply kf_jump | with_reducible apply kf_wait | with_reducible exact kf_trap
      | with_reducible apply kf_trapAfter | with_reducible apply tileIssue_keeps | with_reducible apply sendWords_keeps
      | with_reducible apply sendLocal_keeps | with_reducible apply keeps_ite | simp only [↓keepsMk_eq]
      | with_reducible apply keepsMk_intro | dsimp only | split)

/-- What `execTSendAddr` keeps. -/
theorem execTSendAddr_keeps {m : Nat} {a : State} (tile_ : Nat) (s : State) (h : Keeps m a s)
    (hm : Sub 0x10e5e271ee204 m) : KN m a (execTSendAddr tile_ s) :=
  kn_lift h hm (by
    have h : Keeps 0x10e5e271ee204 s s := keeps_refl _ _
    unfold execTSendAddr
    repeat' first
      | intro _ | with_reducible assumption | with_reducible exact rfl | exact rfl | exact Or.inl rfl | with_reducible exact Or.inr rfl
      | exact Or.inr rfl | with_reducible apply kn_next | with_reducible apply kf_ite | with_reducible apply atOffset_keeps
      | with_reducible apply kf_done | with_reducible apply kf_jump | with_reducible apply kf_wait | with_reducible exact kf_trap
      | with_reducible apply kf_trapAfter | with_reducible apply tileIssue_keeps | with_reducible apply sendWords_keeps
      | with_reducible apply dmaXlate_keeps | with_reducible apply stall_keeps | with_reducible apply tagStatus_keeps
      | with_reducible apply sendRemote_keeps | with_reducible apply sendLocal_keeps | with_reducible apply keeps_ite
      | simp only [↓keepsMk_eq] | with_reducible apply keepsMk_intro | dsimp only | split
      | refine kq_get ?_ (by with_reducible assumption) | refine kq_get1 ?_ (by with_reducible assumption))

/-- What `execTTileMessageEnqueue` keeps. -/
theorem execTTileMessageEnqueue_keeps {m : Nat} {a : State} (tile_ : Nat) (id : Nat) (s : State) (h : Keeps m a s)
    (hm : Sub 0x20001004000 m) : KN m a (execTTileMessageEnqueue tile_ id s) :=
  kn_lift h hm (by
    have h : Keeps 0x20001004000 s s := keeps_refl _ _
    unfold execTTileMessageEnqueue
    repeat' first
      | intro _ | with_reducible assumption | with_reducible exact rfl | exact rfl | exact Or.inl rfl | with_reducible exact Or.inr rfl
      | exact Or.inr rfl | with_reducible apply kn_next | with_reducible apply ko_map | with_reducible apply ko_bind
      | with_reducible apply keeps_getD | with_reducible apply ko_some | with_reducible exact ko_none | with_reducible apply kf_ite
      | with_reducible apply atOffset_keeps | with_reducible apply kf_done | with_reducible apply kf_jump | with_reducible apply kf_wait
      | with_reducible exact kf_trap | with_reducible apply kf_trapAfter | with_reducible apply tagMod_keeps
      | with_reducible apply tileMod_keeps | with_reducible apply msgReject_keeps | with_reducible apply chanReserve_keeps
      | with_reducible apply chanPut_keeps | with_reducible apply keeps_ite | simp only [↓keepsMk_eq]
      | with_reducible apply keepsMk_intro | dsimp only | split | refine ko_get ?_ (by with_reducible assumption))

/-- What `sendReply` keeps. -/
theorem sendReply_keeps {m : Nat} {z : State} (s : State) (t : Nat) (T : Tile) (tag : Nat) (h : Nat) (a : Nat) (n : Nat) (i : Invocation) (h0 : Keeps m z s)
    (hm : Sub 0x52251e2200 m) : Keeps m z (sendReply s t T tag h a n i) :=
  keeps_lift h0 hm (by
    have h0 : Keeps 0x52251e2200 s s := keeps_refl _ _
    unfold sendReply
    repeat' first
      | intro _ | with_reducible assumption | with_reducible exact rfl | exact rfl | exact Or.inl rfl | with_reducible exact Or.inr rfl
      | exact Or.inr rfl | with_reducible apply kf_ite | with_reducible apply atOffset_keeps | with_reducible apply kf_done
      | with_reducible apply kf_jump | with_reducible apply kf_wait | with_reducible exact kf_trap | with_reducible apply kf_trapAfter
      | with_reducible apply invMod_keeps | with_reducible apply queueSend_keeps | with_reducible apply demandCheck_keeps
      | with_reducible apply connMod_keeps | with_reducible apply issuerDone_keeps | with_reducible apply keeps_ite
      | simp only [↓keepsMk_eq] | with_reducible apply keepsMk_intro | dsimp only | split)

/-- What `execTSendReply` keeps. -/
theorem execTSendReply_keeps {m : Nat} {a : State} (tile_ : Nat) (s : State) (h : Keeps m a s)
    (hm : Sub 0x10e56271ee200 m) : KN m a (execTSendReply tile_ s) :=
  kn_lift h hm (by
    have h : Keeps 0x10e56271ee200 s s := keeps_refl _ _
    unfold execTSendReply
    repeat' first
      | intro _ | with_reducible assumption | with_reducible exact rfl | exact rfl | exact Or.inl rfl | with_reducible exact Or.inr rfl
      | exact Or.inr rfl | with_reducible apply kn_next | with_reducible apply kf_ite | with_reducible apply atOffset_keeps
      | with_reducible apply kf_done | with_reducible apply kf_jump | with_reducible apply kf_wait | with_reducible exact kf_trap
      | with_reducible apply kf_trapAfter | with_reducible apply tileIssue_keeps | with_reducible apply dmaXlate_keeps
      | with_reducible apply stall_keeps | with_reducible apply ownFault_keeps | with_reducible apply tagStatus_keeps
      | with_reducible apply sendReply_keeps | with_reducible apply keeps_ite | simp only [↓keepsMk_eq]
      | with_reducible apply keepsMk_intro | dsimp only | split | refine kq_get ?_ (by with_reducible assumption)
      | refine kq_get1 ?_ (by with_reducible assumption))

/-- What `tileMsgEnd` keeps. -/
theorem tileMsgEnd_keeps {m : Nat} {a : State} (s : State) (t : Nat) (id : Nat) (status : Nat) (h : Keeps m a s)
    (hm : Sub 0x10e5e271ee204 m) : Keeps m a (tileMsgEnd s t id status) :=
  keeps_lift h hm (by
    have h : Keeps 0x10e5e271ee204 s s := keeps_refl _ _
    unfold tileMsgEnd
    repeat' first
      | intro _ | with_reducible assumption | with_reducible exact rfl | exact rfl | exact Or.inl rfl | with_reducible exact Or.inr rfl
      | exact Or.inr rfl | with_reducible apply kf_ite | with_reducible apply atOffset_keeps | with_reducible apply kf_done
      | with_reducible apply kf_jump | with_reducible apply kf_wait | with_reducible exact kf_trap | with_reducible apply kf_trapAfter
      | with_reducible apply burstDone_keeps | with_reducible apply endXfer_keeps | with_reducible apply tagMod_keeps
      | with_reducible apply tileMod_keeps | with_reducible apply tagStatus_keeps | with_reducible apply asyncTrap_keeps
      | with_reducible apply keeps_ite | simp only [↓keepsMk_eq] | with_reducible apply keepsMk_intro | dsimp only | split)

/-- What `execTChannelRecv` keeps. -/
theorem execTChannelRecv_keeps {m : Nat} {a : State} (tile_ : Nat) (bad : Bool) (s : State) (h : Keeps m a s)
    (hm : Sub 0xa42271ee200 m) : KN m a (execTChannelRecv tile_ bad s) :=
  kn_lift h hm (by
    have h : Keeps 0xa42271ee200 s s := keeps_refl _ _
    unfold execTChannelRecv
    repeat' first
      | intro _ | with_reducible assumption | with_reducible exact rfl | exact rfl | with_reducible apply kn_next
      | with_reducible apply kf_ite | with_reducible apply atOffset_keeps | with_reducible apply kf_done | with_reducible apply kf_jump
      | with_reducible apply kf_wait | with_reducible exact kf_trap | with_reducible apply kf_trapAfter
      | with_reducible apply tileOp_keeps | with_reducible apply chanTake_keeps | with_reducible apply setG_keeps
      | with_reducible apply keeps_ite | dsimp only | split | refine kq_get ?_ (by with_reducible assumption)
      | refine kq_get1 ?_ (by with_reducible assumption))

/-- What `recvWords` keeps. -/
theorem recvWords_keeps0 {a : State} (s : State) (t : Nat) (ch : Nat) (bad : Bool) (x1 : Nat) (x2 : Nat) (h : Keeps 0x108002100e200 a s) :
    Keeps 0x108002100e200 a (recvWords s t ch bad x1 x2).1 := by
  induction x1 generalizing s t ch bad x2 with
  | zero =>
    unfold recvWords
    repeat' first
      | intro _ | with_reducible assumption | with_reducible exact rfl | exact rfl | with_reducible apply ko_map
      | with_reducible apply ko_bind | with_reducible apply keeps_getD | with_reducible apply kf_ite
      | with_reducible apply atOffset_keeps | with_reducible apply kf_done | with_reducible apply kf_jump | with_reducible apply kf_wait
      | with_reducible exact kf_trap | with_reducible apply kf_trapAfter | with_reducible apply tileStore_keeps
      | with_reducible apply chanTake_keeps | with_reducible apply keeps_ite | dsimp only | split | cases ‹_ + 1 = _ + 1›
      | refine kq_get ?_ (by with_reducible assumption) | refine kq_get1 ?_ (by with_reducible assumption)
  | succ _ ih =>
    unfold recvWords
    repeat' first
      | intro _ | with_reducible assumption | with_reducible exact rfl | exact rfl | with_reducible apply ih
      | with_reducible apply ko_map | with_reducible apply ko_bind | with_reducible apply keeps_getD | with_reducible apply kf_ite
      | with_reducible apply atOffset_keeps | with_reducible apply kf_done | with_reducible apply kf_jump | with_reducible apply kf_wait
      | with_reducible exact kf_trap | with_reducible apply kf_trapAfter | with_reducible apply tileStore_keeps
      | with_reducible apply chanTake_keeps | with_reducible apply keeps_ite | dsimp only | split | cases ‹_ + 1 = _ + 1›
      | refine kq_get ?_ (by with_reducible assumption) | refine kq_get1 ?_ (by with_reducible assumption)

/-- The same within a greater set. -/
theorem recvWords_keeps {m : Nat} {a : State} (s : State) (t : Nat) (ch : Nat) (bad : Bool) (x1 : Nat) (x2 : Nat) (h : Keeps m a s)
    (hm : Sub 0x108002100e200 m) : Keeps m a (recvWords s t ch bad x1 x2).1 :=
  keeps_lift h hm (recvWords_keeps0 s t ch bad x1 x2 (keeps_refl _ _))

/-- What `execTRecvm` keeps. -/
theorem execTRecvm_keeps {m : Nat} {a : State} (tile_ : Nat) (bad : Bool) (s : State) (h : Keeps m a s)
    (hm : Sub 0x10a42271ee200 m) : KN m a (execTRecvm tile_ bad s) :=
  kn_lift h hm (by
    have h : Keeps 0x10a42271ee200 s s := keeps_refl _ _
    unfold execTRecvm
    repeat' first
      | intro _ | with_reducible assumption | with_reducible exact rfl | exact rfl | exact Or.inl rfl | with_reducible exact Or.inr rfl
      | exact Or.inr rfl | with_reducible apply kn_next | with_reducible apply kf_ite | with_reducible apply atOffset_keeps
      | with_reducible apply kf_done | with_reducible apply kf_jump | with_reducible apply kf_wait | with_reducible exact kf_trap
      | with_reducible apply kf_trapAfter | with_reducible apply tileOp_keeps | with_reducible apply recvWords_keeps
      | with_reducible apply tileMod_keeps | with_reducible apply keeps_ite | simp only [↓keepsMk_eq]
      | with_reducible apply keepsMk_intro | dsimp only | split | refine kq_get ?_ (by with_reducible assumption)
      | refine kq_get1 ?_ (by with_reducible assumption))

/-- What `execTPoll` keeps. -/
theorem execTPoll_keeps {m : Nat} {a : State} (tile_ : Nat) (s : State) (h : Keeps m a s)
    (hm : Sub 0xa42271ee200 m) : KN m a (execTPoll tile_ s) :=
  kn_lift h hm (by
    have h : Keeps 0xa42271ee200 s s := keeps_refl _ _
    unfold execTPoll
    repeat' first
      | intro _ | with_reducible assumption | with_reducible exact rfl | exact rfl | with_reducible apply kn_next
      | with_reducible apply kf_ite | with_reducible apply atOffset_keeps | with_reducible apply kf_done | with_reducible apply kf_jump
      | with_reducible apply kf_wait | with_reducible exact kf_trap | with_reducible apply kf_trapAfter
      | with_reducible apply tileOp_keeps | with_reducible apply setG_keeps | with_reducible apply keeps_ite | dsimp only | split)

end Sys2Proof.Laws
end

