-- ==== Sys2Proof/Laws/KeepsCph.lean ====
section
/-! SUPPORT. Every definition of Machine/Cph.lean keeps what `Keeps` says. -/
namespace Sys2Proof.Laws
open Sys2Proof.Machine Sys2Proof.Safety

/-- What `streamDrop` keeps. -/
theorem streamDrop_keeps {m : Nat} {a : State} (s : State) (q : Nat) (idx : Nat) (h : Keeps m a s)
    (hm : Sub 0x2000000 m) : Keeps m a (streamDrop s q idx) :=
  keeps_lift h hm (by
    have h : Keeps 0x2000000 s s := keeps_refl _ _
    unfold streamDrop
    repeat' first
      | intro _ | with_reducible assumption | with_reducible exact rfl | exact rfl | exact Or.inl rfl | with_reducible exact Or.inr rfl
      | exact Or.inr rfl | simp only [↓keepsMk_eq] | with_reducible apply keepsMk_intro | dsimp only | split)

/-- What `streamPut` keeps. -/
theorem streamPut_keeps {m : Nat} {a : State} (s : State) (x : Stream) (h : Keeps m a s)
    (hm : Sub 0x2000000 m) : Keeps m a (streamPut s x) :=
  keeps_lift h hm (by
    have h : Keeps 0x2000000 s s := keeps_refl _ _
    unfold streamPut
    repeat' first
      | intro _ | with_reducible assumption | with_reducible exact rfl | exact rfl | exact Or.inl rfl | with_reducible exact Or.inr rfl
      | exact Or.inr rfl | with_reducible apply streamDrop_keeps | simp only [↓keepsMk_eq] | with_reducible apply keepsMk_intro
      | dsimp only)

/-- What `slotSet` keeps. -/
theorem slotSet_keeps {m : Nat} {a : State} (s : State) (k : Nat) (K : KeySlot) (h : Keeps m a s)
    (hm : Sub 0x2000000 m) : Keeps m a (slotSet s k K) :=
  keeps_lift h hm (by
    have h : Keeps 0x2000000 s s := keeps_refl _ _
    unfold slotSet
    repeat' first
      | intro _ | with_reducible assumption | with_reducible exact rfl | exact rfl | exact Or.inl rfl | with_reducible exact Or.inr rfl
      | exact Or.inr rfl | simp only [↓keepsMk_eq] | with_reducible apply keepsMk_intro | dsimp only | split)

/-- What `cryptFail` keeps. -/
theorem cryptFail_keeps {m : Nat} {a : State} (s : State) (q : Nat) (idx : Nat) (st : Nat) (h : Keeps m a s)
    (hm : Sub 0x202040000 m) : Keeps m a (cryptFail s q idx st) :=
  keeps_lift h hm (by
    have h : Keeps 0x202040000 s s := keeps_refl _ _
    unfold cryptFail
    repeat' first
      | intro _ | with_reducible assumption | with_reducible exact rfl | exact rfl | with_reducible apply entryDone_keeps
      | with_reducible apply dropStages_keeps | with_reducible apply streamDrop_keeps | dsimp only | split)

/-- What `cryptSettle` keeps. -/
theorem cryptSettle_keeps {m : Nat} {a : State} (s : State) (q idx : Nat) (r : Except CHalt State) (h : Keeps m a s) (hr : KE m a r)
    (hm : Sub 0x222060000 m) : Keeps m a (cryptSettle s q idx r) := by
  unfold cryptSettle
  split
  · exact ke_get hr rfl
  · exact keeps_lift h hm (stall_keeps _ _ _ _ (keeps_refl _ _) rfl)
  · exact h
  · exact keeps_lift h hm (cryptFail_keeps _ _ _ _ (keeps_refl _ _) rfl)

/-- What `streamSave` keeps. -/
theorem streamSave_keeps {m : Nat} {a : State} (s : State) (x : Stream) (e : Entry) (h : Keeps m a s)
    (hm : Sub 0x11c062206e204 m) : KE m a (streamSave s x e) :=
  ke_lift h hm (by
    have h : Keeps 0x11c062206e204 s s := keeps_refl _ _
    unfold streamSave
    repeat' first
      | intro _ | with_reducible assumption | with_reducible exact rfl | exact rfl | exact Or.inl rfl | with_reducible exact Or.inr rfl
      | exact Or.inr rfl | with_reducible apply ke_ok | with_reducible exact ke_error | with_reducible apply ke_bind
      | with_reducible apply kpe_bind | with_reducible apply kp_ok | with_reducible exact kp_error | with_reducible apply kp_bind
      | with_reducible apply kep_bind | with_reducible apply dmaXlate_keeps | with_reducible apply cryptFail_keeps
      | with_reducible apply drawN_keeps | with_reducible apply writePieces_keeps | with_reducible apply bumpFn_keeps
      | with_reducible apply keeps_ite | simp only [↓keepsMk_eq] | with_reducible apply keepsMk_intro | dsimp only | split
      | refine kq_get ?_ (by with_reducible assumption) | refine kq_get1 ?_ (by with_reducible assumption)
      | refine kr_get ?_ (by with_reducible assumption))

/-- What `poolRoomMake` keeps. -/
theorem poolRoomMake_keeps {m : Nat} {a : State} (s : State) (q : Nat) (idx : Nat) (h : Keeps m a s)
    (hm : Sub 0x11c062206e204 m) : KE m a (poolRoomMake s q idx) :=
  ke_lift h hm (by
    have h : Keeps 0x11c062206e204 s s := keeps_refl _ _
    unfold poolRoomMake
    repeat' first
      | intro _ | with_reducible assumption | with_reducible exact rfl | exact rfl | with_reducible apply ke_ok
      | with_reducible exact ke_error | with_reducible apply ke_bind | with_reducible apply kpe_bind | with_reducible apply kp_ok
      | with_reducible exact kp_error | with_reducible apply kp_bind | with_reducible apply kep_bind
      | with_reducible apply streamDrop_keeps | with_reducible apply streamSave_keeps | with_reducible apply keeps_ite | dsimp only
      | split | refine ke_get ?_ (by with_reducible assumption))

/-- What `cryptRead` keeps. -/
theorem cryptRead_keeps {m : Nat} {a : State} (s : State) (t : Nat) (c : Nat) (base : Nat) (off : Nat) (n : Nat) (bus : Option (List Byte)) (h : Keeps m a s)
    (hm : Sub 0x10c042002e200 m) : KP m a (cryptRead s t c base off n bus) :=
  kp_lift h hm (by
    have h : Keeps 0x10c042002e200 s s := keeps_refl _ _
    unfold cryptRead
    repeat' first
      | intro _ | with_reducible assumption | with_reducible exact rfl | exact rfl | with_reducible apply kp_ok
      | with_reducible exact kp_error | with_reducible apply kp_bind | with_reducible apply kep_bind | with_reducible apply ke_ok
      | with_reducible exact ke_error | with_reducible apply ke_bind | with_reducible apply kpe_bind
      | with_reducible apply dataXlate_keeps | with_reducible apply readPieces_keeps | with_reducible apply keeps_ite | dsimp only
      | split | refine kq_get ?_ (by with_reducible assumption) | refine kq_get1 ?_ (by with_reducible assumption))

/-- What `cryptWrite` keeps. -/
theorem cryptWrite_keeps {m : Nat} {a : State} (s : State) (q : Nat) (idx : Nat) (t : Nat) (c : Nat) (base : Nat) (off : Nat) (total : Nat) (b : List Byte) (h : Keeps m a s)
    (hm : Sub 0x10c042206e200 m) : KE m a (cryptWrite s q idx t c base off total b) :=
  ke_lift h hm (by
    have h : Keeps 0x10c042206e200 s s := keeps_refl _ _
    unfold cryptWrite
    repeat' first
      | intro _ | with_reducible assumption | with_reducible exact rfl | exact rfl | exact Or.inl rfl | with_reducible exact Or.inr rfl
      | exact Or.inr rfl | with_reducible apply ko_map | with_reducible apply ko_bind | with_reducible apply keeps_getD
      | with_reducible apply ko_some | with_reducible exact ko_none | with_reducible apply ke_ok | with_reducible exact ke_error
      | with_reducible apply ke_bind | with_reducible apply kpe_bind | with_reducible apply kp_ok | with_reducible exact kp_error
      | with_reducible apply kp_bind | with_reducible apply kep_bind | with_reducible apply dataXlate_keeps
      | with_reducible apply openStages_keeps | with_reducible apply writePieces_keeps | with_reducible apply entryMod_keeps
      | with_reducible apply keeps_ite | simp only [↓keepsMk_eq] | with_reducible apply keepsMk_intro | dsimp only | split
      | refine ko_get ?_ (by with_reducible assumption) | refine kq_get ?_ (by with_reducible assumption)
      | refine kq_get1 ?_ (by with_reducible assumption))

/-- What `streamRestore` keeps. -/
theorem streamRestore_keeps {m : Nat} {a : State} (s : State) (x : Stream) (n : Nat) (bus : Option (List Byte)) (h : Keeps m a s)
    (hm : Sub 0x11c062206e204 m) : KP m a (streamRestore s x n bus) :=
  kp_lift h hm (by
    have h : Keeps 0x11c062206e204 s s := keeps_refl _ _
    unfold streamRestore
    repeat' first
      | intro _ | with_reducible assumption | with_reducible exact rfl | exact rfl | exact Or.inl rfl | with_reducible exact Or.inr rfl
      | exact Or.inr rfl | with_reducible apply kp_ok | with_reducible exact kp_error | with_reducible apply kp_bind
      | with_reducible apply kep_bind | with_reducible apply ke_ok | with_reducible exact ke_error | with_reducible apply ke_bind
      | with_reducible apply kpe_bind | with_reducible apply poolRoomMake_keeps | with_reducible apply dmaXlate_keeps
      | with_reducible apply readPieces_keeps | with_reducible apply keeps_ite | simp only [↓keepsMk_eq]
      | with_reducible apply keepsMk_intro | dsimp only | split | refine ke_get ?_ (by with_reducible assumption)
      | refine kq_get ?_ (by with_reducible assumption) | refine kq_get1 ?_ (by with_reducible assumption))

/-- What `streamBegin` keeps. -/
theorem streamBegin_keeps {m : Nat} {a : State} (s : State) (x : Stream) (e : Entry) (bus : Option (List Byte)) (h : Keeps m a s)
    (hm : Sub 0x10c042002e200 m) : KP m a (streamBegin s x e bus) :=
  kp_lift h hm (by
    have h : Keeps 0x10c042002e200 s s := keeps_refl _ _
    unfold streamBegin
    repeat' first
      | intro _ | with_reducible assumption | with_reducible exact rfl | exact rfl | exact Or.inl rfl | with_reducible exact Or.inr rfl
      | exact Or.inr rfl | with_reducible apply kp_ok | with_reducible exact kp_error | with_reducible apply kp_bind
      | with_reducible apply kep_bind | with_reducible apply ke_ok | with_reducible exact ke_error | with_reducible apply ke_bind
      | with_reducible apply kpe_bind | with_reducible apply cryptRead_keeps | with_reducible apply keeps_ite | simp only [↓keepsMk_eq]
      | with_reducible apply keepsMk_intro | dsimp only | split | refine kp_get ?_ (by with_reducible assumption)
      | refine kp_get1 ?_ (by with_reducible assumption))

/-- What `cryptLast` keeps. -/
theorem cryptLast_keeps {m : Nat} {a : State} (s : State) (x : Stream) (e : Entry) (key : List Byte) (bus : Option (List Byte)) (h : Keeps m a s)
    (hm : Sub 0x11c042206e200 m) : KE m a (cryptLast s x e key bus) :=
  ke_lift h hm (by
    have h : Keeps 0x11c042206e200 s s := keeps_refl _ _
    unfold cryptLast
    repeat' first
      | intro _ | with_reducible assumption | with_reducible exact rfl | exact rfl | exact Or.inl rfl | with_reducible exact Or.inr rfl
      | exact Or.inr rfl | with_reducible apply ke_ok | with_reducible exact ke_error | with_reducible apply ke_bind
      | with_reducible apply kpe_bind | with_reducible apply kp_ok | with_reducible exact kp_error | with_reducible apply kp_bind
      | with_reducible apply kep_bind | with_reducible apply cryptWrite_keeps | with_reducible apply cryptRead_keeps
      | with_reducible apply entryMod_keeps | with_reducible apply bumpFn_keeps | with_reducible apply keeps_ite
      | simp only [↓keepsMk_eq] | with_reducible apply keepsMk_intro | dsimp only | split
      | refine ke_get ?_ (by with_reducible assumption) | refine kp_get ?_ (by with_reducible assumption)
      | refine kp_get1 ?_ (by with_reducible assumption))

/-- What `cryptFinish` keeps. -/
theorem cryptFinish_keeps {m : Nat} {a : State} (s : State) (q : Nat) (idx : Nat) (h : Keeps m a s)
    (hm : Sub 0x200040000 m) : Keeps m a (cryptFinish s q idx) :=
  keeps_lift h hm (by
    have h : Keeps 0x200040000 s s := keeps_refl _ _
    unfold cryptFinish
    repeat' first
      | intro _ | with_reducible assumption | with_reducible exact rfl | exact rfl | with_reducible apply entryDone_keeps
      | with_reducible apply keeps_ite | dsimp only | split)

/-- What `cryptSlice` keeps. -/
theorem cryptSlice_keeps {m : Nat} {a : State} (s : State) (x : Stream) (e : Entry) (bus : Option (List Byte)) (h : Keeps m a s)
    (hm : Sub 0x11c062206e204 m) : KE m a (cryptSlice s x e bus) :=
  ke_lift h hm (by
    have h : Keeps 0x11c062206e204 s s := keeps_refl _ _
    unfold cryptSlice
    repeat' first
      | intro _ | with_reducible assumption | with_reducible exact rfl | exact rfl | exact Or.inl rfl | with_reducible exact Or.inr rfl
      | exact Or.inr rfl | with_reducible apply ke_ok | with_reducible exact ke_error | with_reducible apply ke_bind
      | with_reducible apply kpe_bind | with_reducible apply kp_ok | with_reducible exact kp_error | with_reducible apply kp_bind
      | with_reducible apply kep_bind | with_reducible apply streamRestore_keeps | with_reducible apply streamBegin_keeps
      | with_reducible apply cryptRead_keeps | with_reducible apply freeBytes_keeps | with_reducible apply cryptWrite_keeps
      | with_reducible apply streamPut_keeps | with_reducible apply cphBlocks_keeps | with_reducible apply cryptLast_keeps
      | with_reducible apply cryptFinish_keeps | with_reducible apply streamDrop_keeps | with_reducible apply keeps_ite
      | simp only [↓keepsMk_eq] | with_reducible apply keepsMk_intro | dsimp only | split
      | refine ke_get ?_ (by with_reducible assumption) | refine kp_get ?_ (by with_reducible assumption)
      | refine kp_get1 ?_ (by with_reducible assumption) | refine kr_get ?_ (by with_reducible assumption))

/-- What `execVCrypt` keeps. -/
theorem execVCrypt_keeps {m : Nat} {a : State} (queue : Nat) (idx : Nat) (s : State) (h : Keeps m a s)
    (hm : Sub 0x11c062206e204 m) : KN m a (execVCrypt queue idx s) :=
  kn_lift h hm (by
    have h : Keeps 0x11c062206e204 s s := keeps_refl _ _
    unfold execVCrypt
    repeat' first
      | intro _ | with_reducible assumption | with_reducible exact rfl | exact rfl | exact Or.inl rfl | with_reducible exact Or.inr rfl
      | exact Or.inr rfl | with_reducible apply kn_next | with_reducible apply ke_ok | with_reducible exact ke_error
      | with_reducible apply ke_bind | with_reducible apply kpe_bind | with_reducible apply kp_ok | with_reducible exact kp_error
      | with_reducible apply kp_bind | with_reducible apply kep_bind | with_reducible apply entryDone_keeps
      | with_reducible apply bumpFn_keeps | with_reducible apply entryMod_keeps | with_reducible apply cryptSettle_keeps
      | with_reducible apply streamPut_keeps | with_reducible apply poolRoomMake_keeps | with_reducible apply keeps_ite
      | simp only [↓keepsMk_eq] | with_reducible apply keepsMk_intro | dsimp only | split
      | refine ke_get ?_ (by with_reducible assumption))

/-- What `execCryptSlice` keeps. -/
theorem execCryptSlice_keeps {m : Nat} {a : State} (queue : Nat) (idx : Nat) (bus : Option (List Byte)) (s : State) (h : Keeps m a s)
    (hm : Sub 0x11c062206e204 m) : KN m a (execCryptSlice queue idx bus s) :=
  kn_lift h hm (by
    have h : Keeps 0x11c062206e204 s s := keeps_refl _ _
    unfold execCryptSlice
    repeat' first
      | intro _ | with_reducible assumption | with_reducible exact rfl | exact rfl | with_reducible apply kn_next
      | with_reducible apply ke_ok | with_reducible exact ke_error | with_reducible apply ke_bind | with_reducible apply kpe_bind
      | with_reducible apply kp_ok | with_reducible exact kp_error | with_reducible apply kp_bind | with_reducible apply kep_bind
      | with_reducible apply cryptSettle_keeps | with_reducible apply cryptSlice_keeps | dsimp only | split
      | refine ke_get ?_ (by with_reducible assumption))

/-- What `cryptUndefined` keeps. -/
theorem cryptUndefined_keeps {m : Nat} {a : State} (s : State) (q : Nat) (idx : Nat) (h : Keeps m a s)
    (hm : Sub 0x10c042202e204 m) : Keeps m a (cryptUndefined s q idx) :=
  keeps_lift h hm (by
    have h : Keeps 0x10c042202e204 s s := keeps_refl _ _
    unfold cryptUndefined
    repeat' first
      | intro _ | with_reducible assumption | with_reducible exact rfl | exact rfl | with_reducible apply dataXlate_keeps
      | with_reducible apply freeBytes_keeps | with_reducible apply writePieces_keeps | with_reducible apply keeps_ite | dsimp only
      | split | refine kq_get ?_ (by with_reducible assumption) | refine kq_get1 ?_ (by with_reducible assumption)
      | refine kr_get ?_ (by with_reducible assumption))

/-- What `slotLeaves` keeps. -/
theorem slotLeaves_keeps {m : Nat} {a : State} (s : State) (k : Nat) (h : Keeps m a s)
    (hm : Sub 0x10c06260ee204 m) : Keeps m a (slotLeaves s k) :=
  keeps_lift h hm (by
    have h : Keeps 0x10c06260ee204 s s := keeps_refl _ _
    unfold slotLeaves
    repeat' first
      | intro _ | with_reducible assumption | with_reducible exact rfl | exact rfl | exact Or.inl rfl | with_reducible exact Or.inr rfl
      | exact Or.inr rfl | with_reducible apply slotSet_keeps | with_reducible apply cryptUndefined_keeps
      | with_reducible apply cryptFail_keeps | with_reducible apply encFails_keeps | with_reducible apply keeps_ite
      | simp only [↓keepsMk_eq] | with_reducible apply keepsMk_intro | with_reducible apply keeps_foldl | dsimp only | split)

/-- What `slotLoad` keeps. -/
theorem slotLoad_keeps {m : Nat} {a : State} (s : State) (k : Nat) (t : Nat) (key : List Byte) (h : Keeps m a s)
    (hm : Sub 0x200002000000 m) : Keeps m a (slotLoad s k t key) :=
  keeps_lift h hm (by
    have h : Keeps 0x200002000000 s s := keeps_refl _ _
    unfold slotLoad
    repeat' first
      | intro _ | with_reducible assumption | with_reducible exact rfl | exact rfl | exact Or.inl rfl | with_reducible exact Or.inr rfl
      | exact Or.inr rfl | with_reducible apply bump_keeps | with_reducible apply slotSet_keeps | simp only [↓keepsMk_eq]
      | with_reducible apply keepsMk_intro | dsimp only)

/-- What `execKeySlotLoad` keeps. -/
theorem execKeySlotLoad_keeps {m : Nat} {a : State} (slot : Nat) (owner : Nat) (key : List Byte) (s : State) (h : Keeps m a s)
    (hm : Sub 0x200002000000 m) : KN m a (execKeySlotLoad slot owner key s) :=
  kn_lift h hm (by
    have h : Keeps 0x200002000000 s s := keeps_refl _ _
    unfold execKeySlotLoad
    repeat' first
      | intro _ | with_reducible assumption | with_reducible exact rfl | exact rfl | exact Or.inl rfl | with_reducible exact Or.inr rfl
      | exact Or.inr rfl | with_reducible apply kn_next | with_reducible apply slotLoad_keeps | with_reducible apply bump_keeps
      | with_reducible apply slotSet_keeps | with_reducible apply keeps_ite | simp only [↓keepsMk_eq]
      | with_reducible apply keepsMk_intro | dsimp only | split)

/-- What `execKeySlotDestroy` keeps. -/
theorem execKeySlotDestroy_keeps {m : Nat} {a : State} (slot : Nat) (s : State) (h : Keeps m a s)
    (hm : Sub 0x10c06260ee204 m) : KN m a (execKeySlotDestroy slot s) :=
  kn_lift h hm (by
    have h : Keeps 0x10c06260ee204 s s := keeps_refl _ _
    unfold execKeySlotDestroy
    repeat' first
      | intro _ | with_reducible assumption | with_reducible exact rfl | exact rfl | with_reducible apply kn_next
      | with_reducible apply slotLeaves_keeps | with_reducible apply keeps_ite | dsimp only | split)

/-- What `execKeySlotZeroed` keeps. -/
theorem execKeySlotZeroed_keeps {m : Nat} {a : State} (slot : Nat) (s : State) (h : Keeps m a s)
    (hm : Sub 0x2000000 m) : KN m a (execKeySlotZeroed slot s) :=
  kn_lift h hm (by
    have h : Keeps 0x2000000 s s := keeps_refl _ _
    unfold execKeySlotZeroed
    repeat' first
      | intro _ | with_reducible assumption | with_reducible exact rfl | exact rfl | with_reducible apply kn_next
      | with_reducible apply slotSet_keeps | with_reducible apply keeps_ite | dsimp only | split)

/-- What `execKeySlotParity` keeps. -/
theorem execKeySlotParity_keeps {m : Nat} {a : State} (slot : Nat) (quad : Nat) (s : State) (h : Keeps m a s)
    (hm : Sub 0x10c06260ee204 m) : KN m a (execKeySlotParity slot quad s) :=
  kn_lift h hm (by
    have h : Keeps 0x10c06260ee204 s s := keeps_refl _ _
    unfold execKeySlotParity
    repeat' first
      | intro _ | with_reducible assumption | with_reducible exact rfl | exact rfl | exact Or.inl rfl | with_reducible exact Or.inr rfl
      | exact Or.inr rfl | with_reducible apply kn_next | with_reducible apply slotLeaves_keeps | with_reducible apply spareReport_keeps
      | with_reducible apply slotSet_keeps | with_reducible apply keeps_ite | simp only [↓keepsMk_eq]
      | with_reducible apply keepsMk_intro | dsimp only | split)

/-- What `execCipherPipeFailure` keeps. -/
theorem execCipherPipeFailure_keeps {m : Nat} {a : State} (pipe : Nat) (s : State) (h : Keeps m a s)
    (hm : Sub 0x8002200e200 m) : KN m a (execCipherPipeFailure pipe s) :=
  kn_lift h hm (by
    have h : Keeps 0x8002200e200 s s := keeps_refl _ _
    unfold execCipherPipeFailure
    repeat' first
      | intro _ | with_reducible assumption | with_reducible exact rfl | exact rfl | exact Or.inl rfl | with_reducible exact Or.inr rfl
      | exact Or.inr rfl | with_reducible apply kn_next | with_reducible apply report_keeps | with_reducible apply keeps_ite
      | simp only [↓keepsMk_eq] | with_reducible apply keepsMk_intro | dsimp only | split)

/-- What `openedPut` keeps. -/
theorem openedPut_keeps {m : Nat} {a : State} (s : State) (o : Opened) (h : Keeps m a s)
    (hm : Sub 0x2000000 m) : Keeps m a (openedPut s o) :=
  keeps_lift h hm (by
    have h : Keeps 0x2000000 s s := keeps_refl _ _
    unfold openedPut
    repeat' first
      | intro _ | with_reducible assumption | with_reducible exact rfl | exact rfl | exact Or.inl rfl | with_reducible exact Or.inr rfl
      | exact Or.inr rfl | simp only [↓keepsMk_eq] | with_reducible apply keepsMk_intro | dsimp only | split)

/-- What `openRecord` keeps. -/
theorem openRecord_keeps {m : Nat} {a : State} (s : State) (t : Nat) (c : Nat) (base : Nat) (r : Nat) (len : Nat) (addr : Nat) (b : List Byte) (h : Keeps m a s)
    (hm : Sub 0x18002204e200 m) : Keeps m a (openRecord s t c base r len addr b) :=
  keeps_lift h hm (by
    have h : Keeps 0x18002204e200 s s := keeps_refl _ _
    unfold openRecord
    repeat' first
      | intro _ | with_reducible assumption | with_reducible exact rfl | exact rfl | exact Or.inl rfl | with_reducible exact Or.inr rfl
      | exact Or.inr rfl | with_reducible apply openedPut_keeps | with_reducible apply cphBlocks_keeps
      | with_reducible apply bumpFn_keeps | with_reducible apply accessEvent_keeps | with_reducible apply entryMod_keeps
      | with_reducible apply keeps_ite | simp only [↓keepsMk_eq] | with_reducible apply keepsMk_intro | with_reducible apply keeps_foldl
      | dsimp only | split)

/-- What `execSealedRecordOpen` keeps. -/
theorem execSealedRecordOpen_keeps {m : Nat} {a : State} (tenant_ : Nat) (ctx_ : Nat) (base : Nat) (record : Nat) (bus : Option (List Byte)) (s : State) (h : Keeps m a s)
    (hm : Sub 0x11c042206e200 m) : KN m a (execSealedRecordOpen tenant_ ctx_ base record bus s) :=
  kn_lift h hm (by
    have h : Keeps 0x11c042206e200 s s := keeps_refl _ _
    unfold execSealedRecordOpen
    repeat' first
      | intro _ | with_reducible assumption | with_reducible exact rfl | exact rfl | with_reducible apply kn_next
      | with_reducible apply dmaXlate_keeps | with_reducible apply stall_keeps | with_reducible apply openedPut_keeps
      | with_reducible apply readPieces_keeps | with_reducible apply openRecord_keeps | with_reducible apply keeps_ite | dsimp only
      | split | refine kq_get ?_ (by with_reducible assumption) | refine kq_get1 ?_ (by with_reducible assumption))

/-- What `recordDone` keeps. -/
theorem recordDone_keeps {m : Nat} {a : State} (s : State) (g : SealStage) (l : List (Nat × Nat)) (h : Keeps m a s)
    (hm : Sub 0x10e5e279ee204 m) : Keeps m a (recordDone s g l) :=
  keeps_lift h hm (by
    have h : Keeps 0x10e5e279ee204 s s := keeps_refl _ _
    unfold recordDone
    repeat' first
      | intro _ | with_reducible assumption | with_reducible exact rfl | exact rfl | exact Or.inl rfl | with_reducible exact Or.inr rfl
      | exact Or.inr rfl | with_reducible apply burstStart_keeps | with_reducible apply cryptFinish_keeps
      | with_reducible apply entryMod_keeps | with_reducible apply scbFinish_keeps | with_reducible apply entryDone_keeps
      | with_reducible apply respCheck_keeps | with_reducible apply recvPlaced_keeps | with_reducible apply recvMod_keeps
      | with_reducible apply keeps_ite | simp only [↓keepsMk_eq] | with_reducible apply keepsMk_intro | dsimp only | split)

/-- What `recordFails` keeps. -/
theorem recordFails_keeps {m : Nat} {a : State} (s : State) (g : SealStage) (st : Nat) (h : Keeps m a s)
    (hm : Sub 0x10f5e279ee204 m) : Keeps m a (recordFails s g st) :=
  keeps_lift h hm (by
    have h : Keeps 0x10f5e279ee204 s s := keeps_refl _ _
    unfold recordFails
    repeat' first
      | intro _ | with_reducible assumption | with_reducible exact rfl | exact rfl | exact Or.inl rfl | with_reducible exact Or.inr rfl
      | exact Or.inr rfl | with_reducible apply tagStatus_keeps | with_reducible apply burstStart_keeps
      | with_reducible apply cryptFail_keeps | with_reducible apply scbAbort_keeps | with_reducible apply entryDone_keeps
      | with_reducible apply abandonSend_keeps | with_reducible apply placeFails_keeps | with_reducible apply keeps_ite
      | simp only [↓keepsMk_eq] | with_reducible apply keepsMk_intro | dsimp only | split)

/-- What `execSealedRecordWrite` keeps. -/
theorem execSealedRecordWrite_keeps {m : Nat} {a : State} (tenant_ : Nat) (ctx_ : Nat) (base : Nat) (record : Nat) (s : State) (h : Keeps m a s)
    (hm : Sub 0x10f5e2f9ee204 m) : KN m a (execSealedRecordWrite tenant_ ctx_ base record s) :=
  kn_lift h hm (by
    have h : Keeps 0x10f5e2f9ee204 s s := keeps_refl _ _
    unfold execSealedRecordWrite
    repeat' first
      | intro _ | with_reducible assumption | with_reducible exact rfl | exact rfl | exact Or.inl rfl | with_reducible exact Or.inr rfl
      | exact Or.inr rfl | with_reducible apply kn_next | with_reducible apply recordFails_keeps | with_reducible apply dmaWrite_keeps
      | with_reducible apply stall_keeps | with_reducible apply recordDone_keeps | with_reducible apply cphBlocks_keeps
      | with_reducible apply tenantMod_keeps | with_reducible apply keeps_ite | simp only [↓keepsMk_eq]
      | with_reducible apply keepsMk_intro | dsimp only | split | refine kq_get ?_ (by with_reducible assumption)
      | refine kq_get1 ?_ (by with_reducible assumption))

end Sys2Proof.Laws
end

