-- ==== Sys2Proof/Laws/KeepsLife.lean ====
section
/-! SUPPORT. Every definition of Machine/Life.lean keeps what `Keeps` says. -/
namespace Sys2Proof.Laws
open Sys2Proof.Machine Sys2Proof.Safety

/-- What `sessionEnd` keeps. -/
theorem sessionEnd_keeps {m : Nat} {a : State} (s : State) (who : Nat) (h : Keeps m a s)
    (hm : Sub 0x10000000 m) : Keeps m a (sessionEnd s who) :=
  keeps_lift h hm (by
    have h : Keeps 0x10000000 s s := keeps_refl _ _
    unfold sessionEnd
    repeat' first
      | intro _ | with_reducible assumption | with_reducible exact rfl | exact rfl | exact Or.inl rfl | with_reducible exact Or.inr rfl
      | exact Or.inr rfl | simp only [↓keepsMk_eq] | with_reducible apply keepsMk_intro | dsimp only | split)

/-- What `dropUnstarted` keeps. -/
theorem dropUnstarted_keeps {m : Nat} {a : State} (s : State) (h : Nat) (i : Invocation) (h0 : Keeps m a s)
    (hm : Sub 0x42271e6200 m) : Keeps m a (dropUnstarted s h i) :=
  keeps_lift h0 hm (by
    have h0 : Keeps 0x42271e6200 s s := keeps_refl _ _
    unfold dropUnstarted
    repeat' first
      | intro _ | with_reducible assumption | with_reducible exact rfl | exact rfl | exact Or.inl rfl | with_reducible exact Or.inr rfl
      | exact Or.inr rfl | with_reducible apply fixOutcome_keeps | with_reducible apply invLeave_keeps
      | with_reducible apply dropRecord_keeps | with_reducible apply keeps_ite | simp only [↓keepsMk_eq]
      | with_reducible apply keepsMk_intro | with_reducible apply keeps_foldl | dsimp only | split)

/-- What `revokeAll` keeps. -/
theorem revokeAll_keeps {m : Nat} {a : State} (s : State) (t : Nat) (h : Keeps m a s)
    (hm : Sub 0x20000 m) : Keeps m a (revokeAll s t) :=
  keeps_lift h hm (by
    have h : Keeps 0x20000 s s := keeps_refl _ _
    unfold revokeAll
    repeat' first
      | intro _ | with_reducible assumption | with_reducible exact rfl | exact rfl | exact Or.inl rfl | with_reducible exact Or.inr rfl
      | exact Or.inr rfl | with_reducible apply regionMod_keeps | with_reducible apply keeps_ite | simp only [↓keepsMk_eq]
      | with_reducible apply keepsMk_intro | with_reducible apply keeps_foldl | dsimp only | split)

/-- What `quiesce` keeps. -/
theorem quiesce_keeps {m : Nat} {a : State} (s : State) (t : Nat) (h : Keeps m a s)
    (hm : Sub 0x10d5e3f9ee204 m) : Keeps m a (quiesce s t) :=
  keeps_lift h hm (by
    have h : Keeps 0x10d5e3f9ee204 s s := keeps_refl _ _
    unfold quiesce
    repeat' first
      | intro _ | with_reducible assumption | with_reducible exact rfl | exact rfl | exact Or.inl rfl | with_reducible exact Or.inr rfl
      | exact Or.inr rfl | with_reducible apply fnMod_keeps | with_reducible apply tenantMod_keeps
      | with_reducible apply queueError_keeps | with_reducible apply scbTenantGone_keeps | with_reducible apply dropUnstarted_keeps
      | with_reducible apply revokeAll_keeps | with_reducible apply sessionEnd_keeps | simp only [↓keepsMk_eq]
      | with_reducible apply keepsMk_intro | with_reducible apply keeps_foldl | dsimp only | split)

/-- What `startTeardown` keeps. -/
theorem startTeardown_keeps {m : Nat} {a : State} (s : State) (t : Nat) (h : Keeps m a s)
    (hm : Sub 0x10d5e3f9ee204 m) : Keeps m a (startTeardown s t) :=
  keeps_lift h hm (by
    have h : Keeps 0x10d5e3f9ee204 s s := keeps_refl _ _
    unfold startTeardown
    repeat' first
      | intro _ | with_reducible assumption | with_reducible exact rfl | exact rfl | with_reducible apply quiesce_keeps
      | with_reducible apply keeps_ite | dsimp only | split)

/-- What `stopForTenant` keeps. -/
theorem stopForTenant_keeps {m : Nat} {a : State} (s : State) (u : Nat) (h : Keeps m a s)
    (hm : Sub 0x842271ee200 m) : Keeps m a (stopForTenant s u) :=
  keeps_lift h hm (by
    have h : Keeps 0x842271ee200 s s := keeps_refl _ _
    unfold stopForTenant
    repeat' first
      | intro _ | with_reducible assumption | with_reducible exact rfl | exact rfl | exact Or.inl rfl | with_reducible exact Or.inr rfl
      | exact Or.inr rfl | with_reducible apply kernelReport_keeps | with_reducible apply fixOutcome_keeps
      | with_reducible apply invLeave_keeps | with_reducible apply tileStop_keeps | simp only [↓keepsMk_eq]
      | with_reducible apply keepsMk_intro | dsimp only)

/-- What `abandonFor` keeps. -/
theorem abandonFor_keeps {m : Nat} {a : State} (s : State) (c : Nat) (t : Nat) (h : Keeps m a s)
    (hm : Sub 0x42261e2200 m) : Keeps m a (abandonFor s c t) :=
  keeps_lift h hm (by
    have h : Keeps 0x42261e2200 s s := keeps_refl _ _
    unfold abandonFor
    repeat' first
      | intro _ | with_reducible assumption | with_reducible exact rfl | exact rfl | with_reducible apply abandonSend_keeps
      | with_reducible apply failRecv_keeps | with_reducible apply keeps_foldl | dsimp only | split)

/-- What `closeQp` keeps. -/
theorem closeQp_keeps {m : Nat} {a : State} (s : State) (c : Nat) (h : Keeps m a s)
    (hm : Sub 0x10c46261ee204 m) : Keeps m a (closeQp s c) :=
  keeps_lift h hm (by
    have h : Keeps 0x10c46261ee204 s s := keeps_refl _ _
    unfold closeQp
    repeat' first
      | intro _ | with_reducible assumption | with_reducible exact rfl | exact rfl | exact Or.inl rfl | with_reducible exact Or.inr rfl
      | exact Or.inr rfl | with_reducible apply connError_keeps | with_reducible apply sendConnect_keeps | with_reducible apply keeps_ite
      | simp only [↓keepsMk_eq] | with_reducible apply keepsMk_intro | dsimp only | split)

/-- What `drainAbort` keeps. -/
theorem drainAbort_keeps {m : Nat} {a : State} (s : State) (t : Nat) (h : Keeps m a s)
    (hm : Sub 0x10c46271ee204 m) : Keeps m a (drainAbort s t) :=
  keeps_lift h hm (by
    have h : Keeps 0x10c46271ee204 s s := keeps_refl _ _
    unfold drainAbort
    repeat' first
      | intro _ | with_reducible assumption | with_reducible exact rfl | exact rfl | with_reducible apply stopForTenant_keeps
      | with_reducible apply abandonFor_keeps | with_reducible apply closeQp_keeps | with_reducible apply keeps_foldl | dsimp only
      | split)

/-- What `destroyKeys` keeps. -/
theorem destroyKeys_keeps {m : Nat} {a : State} (s : State) (t : Nat) (h : Keeps m a s)
    (hm : Sub 0xa018000 m) : Keeps m a (destroyKeys s t) :=
  keeps_lift h hm (by
    have h : Keeps 0xa018000 s s := keeps_refl _ _
    unfold destroyKeys
    repeat' first
      | intro _ | with_reducible assumption | with_reducible exact rfl | exact rfl | exact Or.inl rfl | with_reducible exact Or.inr rfl
      | exact Or.inr rfl | with_reducible apply keySetPut_keeps | with_reducible apply fevQMod_keeps
      | with_reducible apply tenantMod_keeps | simp only [↓keepsMk_eq] | with_reducible apply keepsMk_intro | dsimp only | split)

/-- What `regsReset` keeps. -/
theorem regsReset_keeps {m : Nat} {a : State} (s : State) (off : Nat) (p : Nat → Bool) (h : Keeps m a s) (hr : HasReg m off) :
    Keeps m a (regsReset s off p) :=
  keeps_regs h (twf_filter _ _) (fun n3 k nk => tget_filter _ _ _ (fun v => by
    have : k / 2 ^ 32 ≠ off := by
      intro e
      rw [show (2 : Nat) ^ 52 = 2 ^ 32 * 2 ^ 20 from rfl, ← Nat.div_div_eq_div_mul, e] at nk
      exact hr.elim n3 nk
    simp only [decide_eq_false this, Bool.false_and, Bool.not_false]))

/-- What `returnCtxs` keeps. -/
theorem returnCtxs_keeps {m : Nat} {a : State} (s : State) (t : Nat) (h : Keeps m a s)
    (hm : Sub 0x20000 m) : Keeps m a (returnCtxs s t) :=
  keeps_lift h hm (by
    have h : Keeps 0x20000 s s := keeps_refl _ _
    unfold returnCtxs
    repeat' first
      | intro _ | with_reducible assumption | with_reducible exact rfl | exact rfl | exact Or.inl rfl | with_reducible exact Or.inr rfl
      | exact Or.inr rfl | with_reducible apply ctxMod_keeps | with_reducible apply clearValid_keeps | simp only [↓keepsMk_eq]
      | with_reducible apply keepsMk_intro | with_reducible apply keeps_foldl | dsimp only | split)

/-- What `returnQps` keeps. -/
theorem returnQps_keeps {m : Nat} {a : State} (s : State) (t : Nat) (h : Keeps m a s)
    (hm : Sub 0x12060e0000 m) : Keeps m a (returnQps s t) :=
  keeps_lift h hm (by
    have h : Keeps 0x12060e0000 s s := keeps_refl _ _
    unfold returnQps
    repeat' first
      | intro _ | with_reducible assumption | with_reducible exact rfl | exact rfl | exact Or.inl rfl | with_reducible exact Or.inr rfl
      | exact Or.inr rfl | with_reducible apply connMod_keeps | with_reducible apply connClear_keeps
      | with_reducible apply regsReset_keeps | with_reducible apply keeps_foldl | dsimp only | split)

/-- What `returnQueues` keeps. -/
theorem returnQueues_keeps {m : Nat} {a : State} (s : State) (t : Nat) (h : Keeps m a s)
    (hm : Sub 0x8040800 m) : Keeps m a (returnQueues s t) :=
  keeps_lift h hm (by
    have h : Keeps 0x8040800 s s := keeps_refl _ _
    unfold returnQueues
    repeat' first
      | intro _ | with_reducible assumption | with_reducible exact rfl | exact rfl | exact Or.inl rfl | with_reducible exact Or.inr rfl
      | exact Or.inr rfl | simp only [↓keepsMk_eq] | with_reducible apply keepsMk_intro | dsimp only | split)

/-- What `returnRegions` keeps. -/
theorem returnRegions_keeps {m : Nat} {a : State} (s : State) (t : Nat) (h : Keeps m a s)
    (hm : Sub 0x20000 m) : Keeps m a (returnRegions s t) :=
  keeps_lift h hm (by
    have h : Keeps 0x20000 s s := keeps_refl _ _
    unfold returnRegions
    repeat' first
      | intro _ | with_reducible assumption | with_reducible exact rfl | exact rfl | with_reducible apply regionMod_keeps
      | with_reducible apply keeps_foldl | dsimp only | split)

/-- What `returnBoxes` keeps. -/
theorem returnBoxes_keeps {m : Nat} {a : State} (s : State) (t : Nat) (h : Keeps m a s)
    (hm : Sub 0x80018004000 m) : Keeps m a (returnBoxes s t) :=
  keeps_lift h hm (by
    have h : Keeps 0x80018004000 s s := keeps_refl _ _
    unfold returnBoxes
    repeat' first
      | intro _ | with_reducible assumption | with_reducible exact rfl | exact rfl | exact Or.inl rfl | with_reducible exact Or.inr rfl
      | exact Or.inr rfl | with_reducible apply sqmStartClear_keeps | with_reducible apply sqmRecharge_keeps
      | with_reducible apply regsReset_keeps | with_reducible apply tenantMod_keeps | with_reducible apply keeps_ite
      | simp only [↓keepsMk_eq] | with_reducible apply keepsMk_intro | with_reducible apply keeps_foldl | dsimp only | split)

/-- What `returnTiles` keeps. -/
theorem returnTiles_keeps {m : Nat} {a : State} (s : State) (t : Nat) (h : Keeps m a s)
    (hm : Sub 0x20009014000 m) : Keeps m a (returnTiles s t) :=
  keeps_lift h hm (by
    have h : Keeps 0x20009014000 s s := keeps_refl _ _
    unfold returnTiles
    repeat' first
      | intro _ | with_reducible assumption | with_reducible exact rfl | exact rfl | exact Or.inl rfl | with_reducible exact Or.inr rfl
      | exact Or.inr rfl | with_reducible apply sqmRecharge_keeps | with_reducible apply regsReset_keeps
      | with_reducible apply tileStartClear_keeps | with_reducible apply tenantMod_keeps | with_reducible apply keeps_ite
      | simp only [↓keepsMk_eq] | with_reducible apply keepsMk_intro | with_reducible apply keeps_foldl | dsimp only | split)

/-- What `returnEntries` keeps. -/
theorem returnEntries_keeps {m : Nat} {a : State} (s : State) (t : Nat) (h : Keeps m a s)
    (hm : Sub 0x37004800000 m) : Keeps m a (returnEntries s t) :=
  keeps_lift h hm (by
    have h : Keeps 0x37004800000 s s := keeps_refl _ _
    unfold returnEntries
    repeat' first
      | intro _ | with_reducible assumption | with_reducible exact rfl | exact rfl | exact Or.inl rfl | with_reducible exact Or.inr rfl
      | exact Or.inr rfl | simp only [List.foldl_cons, List.foldl_nil] | with_reducible apply regsReset_keeps | simp only [↓keepsMk_eq]
      | with_reducible apply keepsMk_intro | with_reducible apply keeps_foldl | dsimp only | split)

/-- What `scrubFrames` keeps. -/
theorem scrubFrames_keeps {m : Nat} {a : State} (s : State) (t : Nat) (h : Keeps m a s)
    (hm : Sub 0x10000 m) : Keeps m a (scrubFrames s t) :=
  keeps_lift h hm (by
    have h : Keeps 0x10000 s s := keeps_refl _ _
    unfold scrubFrames
    repeat' first
      | intro _ | with_reducible assumption | with_reducible exact rfl | exact rfl | exact Or.inl rfl | with_reducible exact Or.inr rfl
      | exact Or.inr rfl | with_reducible apply frameMod_keeps | simp only [↓keepsMk_eq] | with_reducible apply keepsMk_intro
      | with_reducible apply keeps_foldl | dsimp only | split)

/-- What `scrubStart` keeps. -/
theorem scrubStart_keeps {m : Nat} {a : State} (s : State) (t : Nat) (h : Keeps m a s) (hm : Sub 0xb721f8f4c00 m) : Keeps m a (scrubStart s t) :=
  keeps_lift h hm (by
    unfold scrubStart
    extract_lets s1 s2
    have h1 : Keeps 0xb721f8f4c00 s s1 := returnEntries_keeps _ _ (returnTiles_keeps _ _ (returnBoxes_keeps _ _ (returnRegions_keeps _ _
      (returnQueues_keeps _ _ (returnQps_keeps _ _ (returnCtxs_keeps _ _ (scrubFrames_keeps _ _ (keeps_refl _ s) rfl) rfl) rfl) rfl) rfl)
      rfl) rfl) rfl
    have h2 : Keeps 0xb721f8f4c00 s s2 := tenantMod_keeps _ _ _ h1 rfl
    have e : s2.owners = s1.owners := by clear h1 h2; clear_value s1; rfl
    clear_value s2
    clear h1
    clear_value s1
    exact keeps_owners h2 rfl (by rw [← e]; exact twf_filter _ _))

/-- What `activate` keeps. -/
theorem activate_keeps {m : Nat} {a : State} (s : State) (t : Nat) (h : Keeps m a s)
    (hm : Sub 0x280008018404 m) : Keeps m a (activate s t) :=
  keeps_lift h hm (by
    have h : Keeps 0x280008018404 s s := keeps_refl _ _
    unfold activate
    repeat' first
      | intro _ | with_reducible assumption | with_reducible exact rfl | exact rfl | exact Or.inl rfl | with_reducible exact Or.inr rfl
      | exact Or.inr rfl | with_reducible apply boxesValid_keeps | with_reducible apply keySetLoad_keeps
      | with_reducible apply bump_keeps | with_reducible apply fevRestart_keeps | with_reducible apply tenantMod_keeps
      | simp only [↓keepsMk_eq] | with_reducible apply keepsMk_intro | dsimp only | split)

/-- What `wipeAll` keeps. -/
theorem wipeAll_keeps {m : Nat} {a : State} (s : State) (h : Keeps m a s) (hm : Sub 0x1200013014084 m) : Keeps m a (wipeAll s) :=
  keeps_lift h hm (by
    have h0 : Keeps 0x1200013014084 s { s with mem := { s.mem with keySets := [] } } := { keeps_refl 0x1200013014084 s with
      canon := fun x => ⟨x.bytes, x.blocks, x.regs, x.owners⟩
      keySets := fun x => absurd rfl x }
    unfold wipeAll
    extract_lets m0 d q m1 g c s1
    have h1 : Keeps 0x1200013014084 s d := deviceKeys_keeps _ h0 rfl
    have h2 : Keeps 0x1200013014084 s s1 := { h1 with
      canon := fun x => ⟨rfl, rfl, (h1.canon x).regs, (h1.canon x).owners⟩
      bytes := fun x => absurd rfl x
      blocks := fun x => absurd rfl x
      frames := fun x => absurd rfl x
      tileScrub := fun x => absurd rfl x
      cph := fun x => absurd rfl x
      sqm := fun x => absurd rfl x
      tgd := fun x => absurd rfl x }
    exact scrubOver_keeps s1 h2 rfl)

/-- What `lifeEnd` keeps. -/
theorem lifeEnd_keeps {m : Nat} {a : State} (s : State) (t : Nat) (h : Keeps m a s)
    (hm : Sub 0x128023b05e684 m) : Keeps m a (lifeEnd s t) :=
  keeps_lift h hm (by
    have h : Keeps 0x128023b05e684 s s := keeps_refl _ _
    unfold lifeEnd
    repeat' first
      | intro _ | with_reducible assumption | with_reducible exact rfl | exact rfl | exact Or.inl rfl | with_reducible exact Or.inr rfl
      | exact Or.inr rfl | with_reducible apply tenantMod_keeps | with_reducible apply fnMod_keeps | with_reducible apply activate_keeps
      | with_reducible apply report_keeps | with_reducible apply bump_keeps | with_reducible apply finishAll_keeps
      | with_reducible apply wipeAll_keeps | with_reducible apply keeps_ite | simp only [↓keepsMk_eq]
      | with_reducible apply keepsMk_intro | dsimp only | split)

/-- What `lifeCheck` keeps. -/
theorem lifeCheck_keeps {m : Nat} {a : State} (s : State) (t : Nat) (h : Keeps m a s)
    (hm : Sub 0x128023b05e684 m) : Keeps m a (lifeCheck s t) :=
  keeps_lift h hm (by
    have h : Keeps 0x128023b05e684 s s := keeps_refl _ _
    unfold lifeCheck
    repeat' first
      | intro _ | with_reducible assumption | with_reducible exact rfl | exact rfl | with_reducible apply lifeEnd_keeps
      | with_reducible apply keeps_ite | dsimp only | split)

/-- What `lifeChecks` keeps. -/
theorem lifeChecks_keeps {m : Nat} {a : State} (s : State) (h : Keeps m a s)
    (hm : Sub 0x128023b05e684 m) : Keeps m a (lifeChecks s) :=
  keeps_lift h hm (by
    have h : Keeps 0x128023b05e684 s s := keeps_refl _ _
    unfold lifeChecks
    repeat' first
      | intro _ | with_reducible assumption | with_reducible exact rfl | exact rfl | with_reducible apply lifeCheck_keeps
      | with_reducible apply keeps_foldl | dsimp only | split)

/-- What `afterDrain` keeps. -/
theorem afterDrain_keeps {m : Nat} {a : State} (s : State) (t : Nat) (h : Keeps m a s)
    (hm : Sub 0x12b723f8fee84 m) : Keeps m a (afterDrain s t) :=
  keeps_lift h hm (by
    have h : Keeps 0x12b723f8fee84 s s := keeps_refl _ _
    unfold afterDrain
    repeat' first
      | intro _ | with_reducible assumption | with_reducible exact rfl | exact rfl | with_reducible apply lifeCheck_keeps
      | with_reducible apply scrubStart_keeps | with_reducible apply destroyKeys_keeps | dsimp only)

/-- What `drainBound` keeps. -/
theorem drainBound_keeps {m : Nat} {a : State} (s : State) (t : Nat) (h : Keeps m a s)
    (hm : Sub 0x12f763f9fee84 m) : Keeps m a (drainBound s t) :=
  keeps_lift h hm (by
    have h : Keeps 0x12f763f9fee84 s s := keeps_refl _ _
    unfold drainBound
    repeat' first
      | intro _ | with_reducible assumption | with_reducible exact rfl | exact rfl | exact Or.inl rfl | with_reducible exact Or.inr rfl
      | exact Or.inr rfl | with_reducible apply tenantMod_keeps | with_reducible apply drainAbort_keeps
      | with_reducible apply afterDrain_keeps | with_reducible apply keeps_ite | simp only [↓keepsMk_eq]
      | with_reducible apply keepsMk_intro | dsimp only | split)

/-- What `execDrainComplete` keeps. -/
theorem execDrainComplete_keeps {m : Nat} {a : State} (tenant_ : Nat) (s : State) (h : Keeps m a s)
    (hm : Sub 0x12b723f8fee84 m) : KN m a (execDrainComplete tenant_ s) :=
  kn_lift h hm (by
    have h : Keeps 0x12b723f8fee84 s s := keeps_refl _ _
    unfold execDrainComplete
    repeat' first
      | intro _ | with_reducible assumption | with_reducible exact rfl | exact rfl | with_reducible apply kn_next
      | with_reducible apply afterDrain_keeps | with_reducible apply keeps_ite | dsimp only | split)

/-- What `execDrainBound` keeps. -/
theorem execDrainBound_keeps {m : Nat} {a : State} (tenant_ : Nat) (s : State) (h : Keeps m a s)
    (hm : Sub 0x12f763f9fee84 m) : KN m a (execDrainBound tenant_ s) :=
  kn_lift h hm (by
    have h : Keeps 0x12f763f9fee84 s s := keeps_refl _ _
    unfold execDrainBound
    repeat' first
      | intro _ | with_reducible assumption | with_reducible exact rfl | exact rfl | with_reducible apply kn_next
      | with_reducible apply drainBound_keeps | with_reducible apply keeps_ite | dsimp only | split)

/-- What `execTenantActivate` keeps. -/
theorem execTenantActivate_keeps {m : Nat} {a : State} (queue : Nat) (idx : Nat) (s : State) (h : Keeps m a s)
    (hm : Sub 0x280208058404 m) : KN m a (execTenantActivate queue idx s) :=
  kn_lift h hm (by
    have h : Keeps 0x280208058404 s s := keeps_refl _ _
    unfold execTenantActivate
    repeat' first
      | intro _ | with_reducible assumption | with_reducible exact rfl | exact rfl | with_reducible apply kn_next
      | with_reducible apply entryDone_keeps | with_reducible apply activate_keeps | with_reducible apply keeps_ite | dsimp only | split)

/-- What `execTenantTeardown` keeps. -/
theorem execTenantTeardown_keeps {m : Nat} {a : State} (queue : Nat) (idx : Nat) (s : State) (h : Keeps m a s)
    (hm : Sub 0x10d5e3f9ee204 m) : KN m a (execTenantTeardown queue idx s) :=
  kn_lift h hm (by
    have h : Keeps 0x10d5e3f9ee204 s s := keeps_refl _ _
    unfold execTenantTeardown
    repeat' first
      | intro _ | with_reducible assumption | with_reducible exact rfl | exact rfl | exact Or.inl rfl | with_reducible exact Or.inr rfl
      | exact Or.inr rfl | with_reducible apply kn_next | with_reducible apply entryDone_keeps | with_reducible apply entryMod_keeps
      | with_reducible apply startTeardown_keeps | with_reducible apply tenantMod_keeps | with_reducible apply keeps_ite
      | simp only [↓keepsMk_eq] | with_reducible apply keepsMk_intro | dsimp only | split)

/-- What `execTenantQuery` keeps. -/
theorem execTenantQuery_keeps {m : Nat} {a : State} (queue : Nat) (idx : Nat) (s : State) (h : Keeps m a s)
    (hm : Sub 0x200040000 m) : KN m a (execTenantQuery queue idx s) :=
  kn_lift h hm (by
    have h : Keeps 0x200040000 s s := keeps_refl _ _
    unfold execTenantQuery
    repeat' first
      | intro _ | with_reducible assumption | with_reducible exact rfl | exact rfl | exact Or.inl rfl | with_reducible exact Or.inr rfl
      | exact Or.inr rfl | with_reducible apply kn_next | with_reducible apply entryMod_keeps | with_reducible apply entryDone_keeps
      | simp only [↓keepsMk_eq] | with_reducible apply keepsMk_intro | dsimp only | split)

/-- What `execTermiteFrameCleared` keeps. -/
theorem execTermiteFrameCleared_keeps {m : Nat} {a : State} (frame : Nat) (s : State) (h : Keeps m a s)
    (hm : Sub 0x128023b05e684 m) : KN m a (execTermiteFrameCleared frame s) :=
  kn_lift h hm (by
    have h : Keeps 0x128023b05e684 s s := keeps_refl _ _
    unfold execTermiteFrameCleared
    repeat' first
      | intro _ | with_reducible assumption | with_reducible exact rfl | exact rfl | exact Or.inl rfl | with_reducible exact Or.inr rfl
      | exact Or.inr rfl | with_reducible apply kn_next | with_reducible apply frameMod_keeps | with_reducible apply zeroRange_keeps
      | with_reducible apply lifeCheck_keeps | with_reducible apply keeps_ite | simp only [↓keepsMk_eq]
      | with_reducible apply keepsMk_intro | dsimp only | split)

/-- What `execSqmQueueClear` keeps. -/
theorem execSqmQueueClear_keeps {m : Nat} {a : State} (queue : Nat) (s : State) (h : Keeps m a s)
    (hm : Sub 0x128023b05e684 m) : KN m a (execSqmQueueClear queue s) :=
  kn_lift h hm (by
    have h : Keeps 0x128023b05e684 s s := keeps_refl _ _
    unfold execSqmQueueClear
    repeat' first
      | intro _ | with_reducible assumption | with_reducible exact rfl | exact rfl | exact Or.inl rfl | with_reducible exact Or.inr rfl
      | exact Or.inr rfl | with_reducible apply kn_next | with_reducible apply sqmClear_keeps | with_reducible apply lifeChecks_keeps
      | with_reducible apply keeps_ite | simp only [↓keepsMk_eq] | with_reducible apply keepsMk_intro | dsimp only | split)

/-- What `execTileClearDone` keeps. -/
theorem execTileClearDone_keeps {m : Nat} {a : State} (t : Nat) (s : State) (h : Keeps m a s)
    (hm : Sub 0x128023b05e684 m) : KN m a (execTileClearDone t s) :=
  kn_lift h hm (by
    have h : Keeps 0x128023b05e684 s s := keeps_refl _ _
    unfold execTileClearDone
    repeat' first
      | intro _ | with_reducible assumption | with_reducible exact rfl | exact rfl | exact Or.inl rfl | with_reducible exact Or.inr rfl
      | exact Or.inr rfl | with_reducible apply kn_next | with_reducible apply tileMod_keeps | with_reducible apply tileClear_keeps
      | with_reducible apply lifeChecks_keeps | with_reducible apply keeps_ite | simp only [↓keepsMk_eq]
      | with_reducible apply keepsMk_intro | dsimp only | split)

/-- What `fnReset` keeps. -/
theorem fnReset_keeps {m : Nat} {a : State} (s : State) (fn : Nat) (h : Keeps m a s)
    (hm : Sub 0xffff00002208 m) : Keeps m a (fnReset s fn) :=
  keeps_lift h hm (by
    have h : Keeps 0xffff00002208 s s := keeps_refl _ _
    unfold fnReset
    repeat' first
      | intro _ | with_reducible assumption | with_reducible exact rfl | exact rfl | exact Or.inl rfl | with_reducible exact Or.inr rfl
      | exact Or.inr rfl | with_reducible apply fnMod_keeps | with_reducible apply portsEmpty_keeps
      | with_reducible apply regsReset_keeps | with_reducible apply keeps_ite | with_reducible apply keeps_foldl | dsimp only | split)

/-- What `vfsGone` keeps. -/
theorem vfsGone_keeps {m : Nat} {a : State} (s : State) (h : Keeps m a s)
    (hm : Sub 0x10d5e3f9ee204 m) : Keeps m a (vfsGone s) :=
  keeps_lift h hm (by
    have h : Keeps 0x10d5e3f9ee204 s s := keeps_refl _ _
    unfold vfsGone
    repeat' first
      | intro _ | with_reducible assumption | with_reducible exact rfl | exact rfl | exact Or.inl rfl | with_reducible exact Or.inr rfl
      | exact Or.inr rfl | with_reducible apply startTeardown_keeps | simp only [↓keepsMk_eq] | with_reducible apply keepsMk_intro
      | with_reducible apply keeps_foldl | dsimp only | split)

/-- What `execNumvfsWrite` keeps. -/
theorem execNumvfsWrite_keeps {m : Nat} {a : State} (n : Nat) (s : State) (h : Keeps m a s)
    (hm : Sub 0x2000 m) : KN m a (execNumvfsWrite n s) :=
  kn_lift h hm (by
    have h : Keeps 0x2000 s s := keeps_refl _ _
    unfold execNumvfsWrite
    repeat' first
      | intro _ | with_reducible assumption | with_reducible exact rfl | exact rfl | exact Or.inl rfl | with_reducible exact Or.inr rfl
      | exact Or.inr rfl | with_reducible apply kn_next | with_reducible apply keeps_ite | simp only [↓keepsMk_eq]
      | with_reducible apply keepsMk_intro | dsimp only | split)

/-- What `execVfEnableSet` keeps. -/
theorem execVfEnableSet_keeps {m : Nat} {a : State} (s : State) (h : Keeps m a s)
    (hm : Sub 0x2000 m) : KN m a (execVfEnableSet s) :=
  kn_lift h hm (by
    have h : Keeps 0x2000 s s := keeps_refl _ _
    unfold execVfEnableSet
    repeat' first
      | intro _ | with_reducible assumption | with_reducible exact rfl | exact rfl | exact Or.inl rfl | with_reducible exact Or.inr rfl
      | exact Or.inr rfl | with_reducible apply kn_next | with_reducible apply keeps_ite | simp only [↓keepsMk_eq]
      | with_reducible apply keepsMk_intro | dsimp only | split)

/-- What `execVfEnableClear` keeps. -/
theorem execVfEnableClear_keeps {m : Nat} {a : State} (s : State) (h : Keeps m a s)
    (hm : Sub 0x10d5e3f9ee204 m) : KN m a (execVfEnableClear s) :=
  kn_lift h hm (by
    have h : Keeps 0x10d5e3f9ee204 s s := keeps_refl _ _
    unfold execVfEnableClear
    repeat' first
      | intro _ | with_reducible assumption | with_reducible exact rfl | exact rfl | with_reducible apply kn_next
      | with_reducible apply vfsGone_keeps | with_reducible apply keeps_ite | dsimp only | split)

/-- What `execVfFlr` keeps. -/
theorem execVfFlr_keeps {m : Nat} {a : State} (vf : Nat) (s : State) (h : Keeps m a s)
    (hm : Sub 0x1ffff3f9ee20c m) : KN m a (execVfFlr vf s) :=
  kn_lift h hm (by
    have h : Keeps 0x1ffff3f9ee20c s s := keeps_refl _ _
    unfold execVfFlr
    repeat' first
      | intro _ | with_reducible assumption | with_reducible exact rfl | exact rfl | with_reducible apply kn_next
      | with_reducible apply fnReset_keeps | with_reducible apply startTeardown_keeps | with_reducible apply keeps_ite | dsimp only
      | split)

/-- What `execPfFlr` keeps. -/
theorem execPfFlr_keeps {m : Nat} {a : State} (s : State) (h : Keeps m a s)
    (hm : Sub 0x1ffff3f9ee20c m) : KN m a (execPfFlr s) :=
  kn_lift h hm (by
    have h : Keeps 0x1ffff3f9ee20c s s := keeps_refl _ _
    unfold execPfFlr
    repeat' first
      | intro _ | with_reducible assumption | with_reducible exact rfl | exact rfl | exact Or.inl rfl | with_reducible exact Or.inr rfl
      | exact Or.inr rfl | with_reducible apply kn_next | with_reducible apply fnReset_keeps | with_reducible apply startTeardown_keeps
      | with_reducible apply vfsGone_keeps | with_reducible apply keeps_ite | simp only [↓keepsMk_eq]
      | with_reducible apply keepsMk_intro | dsimp only | split)

end Sys2Proof.Laws
end

