-- ==== Sys2Proof/Laws/KeepsRsp.lean ====
section
/-! SUPPORT. Every definition of Machine/Rsp.lean keeps what `Keeps` says. -/
namespace Sys2Proof.Laws
open Sys2Proof.Machine Sys2Proof.Safety

/-- What `requesterMod` keeps. -/
theorem requesterMod_keeps {m : Nat} {a : State} (s : State) (who : Nat) (f : Requester → Requester) (h : Keeps m a s)
    (hm : Sub 0x10000000 m) : Keeps m a (requesterMod s who f) :=
  keeps_lift h hm (by
    have h : Keeps 0x10000000 s s := keeps_refl _ _
    unfold requesterMod
    repeat' first
      | intro _ | with_reducible assumption | with_reducible exact rfl | exact rfl | exact Or.inl rfl | with_reducible exact Or.inr rfl
      | exact Or.inr rfl | simp only [↓keepsMk_eq] | with_reducible apply keepsMk_intro | dsimp only | split)

/-- What `sessionMod` keeps. -/
theorem sessionMod_keeps {m : Nat} {a : State} (s : State) (who : Nat) (f : Session → Session) (h : Keeps m a s)
    (hm : Sub 0x10000000 m) : Keeps m a (sessionMod s who f) :=
  keeps_lift h hm (by
    have h : Keeps 0x10000000 s s := keeps_refl _ _
    unfold sessionMod
    repeat' first
      | intro _ | with_reducible assumption | with_reducible exact rfl | exact rfl | exact Or.inl rfl | with_reducible exact Or.inr rfl
      | exact Or.inr rfl | with_reducible apply requesterMod_keeps | simp only [↓keepsMk_eq] | with_reducible apply keepsMk_intro
      | dsimp only | split)

/-- What `spdmReply` keeps. -/
theorem spdmReply_keeps {m : Nat} {a : State} (s : State) (who : Nat) (sec : Bool) (b : List Byte) (h : Keeps m a s)
    (hm : Sub 0x80030004000 m) : Keeps m a (spdmReply s who sec b) :=
  keeps_lift h hm (by
    have h : Keeps 0x80030004000 s s := keeps_refl _ _
    unfold spdmReply
    repeat' first
      | intro _ | with_reducible assumption | with_reducible exact rfl | exact rfl | exact Or.inl rfl | with_reducible exact Or.inr rfl
      | exact Or.inr rfl | with_reducible apply rspReply_keeps | with_reducible apply emit_keeps | with_reducible apply keeps_ite
      | simp only [↓keepsMk_eq] | with_reducible apply keepsMk_intro | dsimp only | split)

/-- What `spdmError` keeps. -/
theorem spdmError_keeps {m : Nat} {a : State} (s : State) (who : Nat) (sec : Bool) (code : Byte) (h : Keeps m a s)
    (hm : Sub 0x80030004000 m) : Keeps m a (spdmError s who sec code) :=
  keeps_lift h hm (by
    have h : Keeps 0x80030004000 s s := keeps_refl _ _
    unfold spdmError
    repeat' first
      | intro _ | with_reducible assumption | with_reducible exact rfl | exact rfl | exact Or.inl rfl | with_reducible exact Or.inr rfl
      | exact Or.inr rfl | with_reducible apply spdmReply_keeps | simp only [↓keepsMk_eq] | with_reducible apply keepsMk_intro
      | dsimp only)


/-- What the answer that `spdmTake` gives at once keeps. -/
theorem spdmTake_keeps {a : State} (s : State) (who : Nat) (sec : Bool) (bytes : List Byte) (code : Nat) (h : Keeps 0x280030004000 a s) (t : State)
    (e : spdmTake s who sec bytes code = .answered t) : Keeps 0x280030004000 a t := by
  unfold spdmTake at e
  dsimp only at e
  repeat' split at e
  all_goals first
    | (cases e; done)
    | (cases e; exact spdmError_keeps _ _ _ _ h rfl)
    | (cases e; exact bump_keeps _ _ _ (spdmError_keeps _ _ _ _ h rfl) (Or.inr rfl))

/-- What `onSpdm` keeps. -/
theorem onSpdm_keeps {m : Nat} {a : State} (s : State) (who : Nat) (sec : Bool) (bytes : List Byte) (code : Nat)
    {f : Bool → List Byte → State} (h : Keeps m a s) (g : ∀ x b, Keeps m a (f x b)) (hm : Sub 0x284834186200 m) :
    KN m a (onSpdm s who sec bytes code f) := by
  unfold onSpdm
  split
  · exact kn_next h
  · exact kn_next (keeps_lift h hm (keeps_lift (keeps_refl _ _) rfl (spdmTake_keeps s who sec bytes code (keeps_refl _ _) _ (by assumption))))
  · exact kn_next (g _ _)

/-- What `inSession` keeps. -/
theorem inSession_keeps {m : Nat} {a : State} (s : State) (who : Nat) (sec : Bool) {f : Session → State → State} (h : Keeps m a s)
    (g : ∀ x t, Keeps m a t → Keeps m a (f x t)) (hm : Sub 0x80030004000 m) : Keeps m a (inSession s who sec f) := by
  have e : Keeps m a (spdmError s who sec 0x04) := keeps_lift h hm (spdmError_keeps _ _ _ _ (keeps_refl _ _) rfl)
  unfold inSession
  split
  · exact keeps_ite (g _ _ (keeps_lift h hm (sessionMod_keeps _ _ _ (keeps_refl _ _) rfl))) e
  · exact e

/-- What `atPhase` keeps. -/
theorem atPhase_keeps {m : Nat} {a : State} (s : State) (who : Nat) (sec : Bool) (n : Nat) {f : State} (h : Keeps m a s) (g : Keeps m a f)
    (hm : Sub 0x80030004000 m) : Keeps m a (atPhase s who sec n f) :=
  keeps_ite g (keeps_lift h hm (spdmError_keeps _ _ _ _ (keeps_refl _ _) rfl))

/-- What `execGetVersion` keeps. -/
theorem execGetVersion_keeps {m : Nat} {a : State} (who : Nat) (secured : Bool) (bytes : List Byte) (s : State) (h : Keeps m a s)
    (hm : Sub 0x284834186200 m) : KN m a (execGetVersion who secured bytes s) :=
  kn_lift h hm (by
    have h : Keeps 0x284834186200 s s := keeps_refl _ _
    unfold execGetVersion
    repeat' first
      | intro _ | with_reducible assumption | with_reducible exact rfl | exact rfl | exact Or.inl rfl | with_reducible exact Or.inr rfl
      | exact Or.inr rfl | with_reducible apply kn_next | with_reducible apply onSpdm_keeps | with_reducible apply spdmReply_keeps
      | with_reducible apply requesterMod_keeps | simp only [↓keepsMk_eq] | with_reducible apply keepsMk_intro | dsimp only | split
      | refine kn_get ?_ (by with_reducible assumption))

/-- What `execGetCapabilities` keeps. -/
theorem execGetCapabilities_keeps {m : Nat} {a : State} (who : Nat) (secured : Bool) (bytes : List Byte) (s : State) (h : Keeps m a s)
    (hm : Sub 0x284834186204 m) : KN m a (execGetCapabilities who secured bytes s) :=
  kn_lift h hm (by
    have h : Keeps 0x284834186204 s s := keeps_refl _ _
    unfold execGetCapabilities
    repeat' first
      | intro _ | with_reducible assumption | with_reducible exact rfl | exact rfl | exact Or.inl rfl | with_reducible exact Or.inr rfl
      | exact Or.inr rfl | with_reducible apply kn_next | with_reducible apply onSpdm_keeps | with_reducible apply atPhase_keeps
      | with_reducible apply freeBytes_keeps | with_reducible apply spdmReply_keeps | with_reducible apply requesterMod_keeps
      | simp only [↓keepsMk_eq] | with_reducible apply keepsMk_intro | dsimp only | split
      | refine kn_get ?_ (by with_reducible assumption) | refine kr_get ?_ (by with_reducible assumption))

/-- What `execNegotiateAlgorithms` keeps. -/
theorem execNegotiateAlgorithms_keeps {m : Nat} {a : State} (who : Nat) (secured : Bool) (bytes : List Byte) (s : State) (h : Keeps m a s)
    (hm : Sub 0x284834186200 m) : KN m a (execNegotiateAlgorithms who secured bytes s) :=
  kn_lift h hm (by
    have h : Keeps 0x284834186200 s s := keeps_refl _ _
    unfold execNegotiateAlgorithms
    repeat' first
      | intro _ | with_reducible assumption | with_reducible exact rfl | exact rfl | exact Or.inl rfl | with_reducible exact Or.inr rfl
      | exact Or.inr rfl | with_reducible apply kn_next | with_reducible apply onSpdm_keeps | with_reducible apply atPhase_keeps
      | with_reducible apply spdmReply_keeps | with_reducible apply requesterMod_keeps | simp only [↓keepsMk_eq]
      | with_reducible apply keepsMk_intro | dsimp only | split | refine kn_get ?_ (by with_reducible assumption))

/-- What `execGetDigests` keeps. -/
theorem execGetDigests_keeps {m : Nat} {a : State} (who : Nat) (secured : Bool) (bytes : List Byte) (s : State) (h : Keeps m a s)
    (hm : Sub 0x284834186200 m) : KN m a (execGetDigests who secured bytes s) :=
  kn_lift h hm (by
    have h : Keeps 0x284834186200 s s := keeps_refl _ _
    unfold execGetDigests
    repeat' first
      | intro _ | with_reducible assumption | with_reducible exact rfl | exact rfl | with_reducible apply kn_next
      | with_reducible apply onSpdm_keeps | with_reducible apply atPhase_keeps | with_reducible apply spdmReply_keeps | dsimp only
      | split | refine kn_get ?_ (by with_reducible assumption))

/-- What `execGetCertificate` keeps. -/
theorem execGetCertificate_keeps {m : Nat} {a : State} (who : Nat) (secured : Bool) (bytes : List Byte) (s : State) (h : Keeps m a s)
    (hm : Sub 0x284834186200 m) : KN m a (execGetCertificate who secured bytes s) :=
  kn_lift h hm (by
    have h : Keeps 0x284834186200 s s := keeps_refl _ _
    unfold execGetCertificate
    repeat' first
      | intro _ | with_reducible assumption | with_reducible exact rfl | exact rfl | with_reducible apply kn_next
      | with_reducible apply onSpdm_keeps | with_reducible apply atPhase_keeps | with_reducible apply spdmError_keeps
      | with_reducible apply spdmReply_keeps | with_reducible apply keeps_ite | dsimp only | split
      | refine kn_get ?_ (by with_reducible assumption))

/-- What `drawNonce32` keeps. -/
theorem drawNonce32_keeps {m : Nat} {a : State} (s : State) (h : Keeps m a s)
    (hm : Sub 0x4 m) : Keeps m a (drawNonce32 s).2 :=
  keeps_lift h hm (by
    have h : Keeps 0x4 s s := keeps_refl _ _
    unfold drawNonce32
    repeat' first
      | intro _ | with_reducible assumption | with_reducible exact rfl | exact rfl | with_reducible apply drawN_keeps | dsimp only
      | refine kr_get ?_ (by with_reducible assumption))

/-- What `execSpdmChallenge` keeps. -/
theorem execSpdmChallenge_keeps {m : Nat} {a : State} (who : Nat) (secured : Bool) (bytes : List Byte) (s : State) (h : Keeps m a s)
    (hm : Sub 0x284834186204 m) : KN m a (execSpdmChallenge who secured bytes s) :=
  kn_lift h hm (by
    have h : Keeps 0x284834186204 s s := keeps_refl _ _
    unfold execSpdmChallenge
    repeat' first
      | intro _ | with_reducible assumption | with_reducible exact rfl | exact rfl | with_reducible apply kn_next
      | with_reducible apply onSpdm_keeps | with_reducible apply atPhase_keeps | with_reducible apply spdmError_keeps
      | with_reducible apply drawNonce32_keeps | with_reducible apply spdmReply_keeps | with_reducible apply keeps_ite | dsimp only
      | split | refine kn_get ?_ (by with_reducible assumption) | refine kr_get ?_ (by with_reducible assumption))

/-- What `execGetMeasurements` keeps. -/
theorem execGetMeasurements_keeps {m : Nat} {a : State} (who : Nat) (secured : Bool) (bytes : List Byte) (s : State) (h : Keeps m a s)
    (hm : Sub 0x284834186204 m) : KN m a (execGetMeasurements who secured bytes s) :=
  kn_lift h hm (by
    have h : Keeps 0x284834186204 s s := keeps_refl _ _
    unfold execGetMeasurements
    repeat' first
      | intro _ | with_reducible assumption | with_reducible exact rfl | exact rfl | with_reducible apply kn_next
      | with_reducible apply onSpdm_keeps | with_reducible apply atPhase_keeps | with_reducible apply spdmError_keeps
      | with_reducible apply drawNonce32_keeps | with_reducible apply spdmReply_keeps | with_reducible apply keeps_ite | dsimp only
      | split | refine kn_get ?_ (by with_reducible assumption) | refine kr_get ?_ (by with_reducible assumption))

/-- What `execKeyExchange` keeps. -/
theorem execKeyExchange_keeps {m : Nat} {a : State} (who : Nat) (secured : Bool) (bytes : List Byte) (s : State) (h : Keeps m a s)
    (hm : Sub 0x284834186204 m) : KN m a (execKeyExchange who secured bytes s) :=
  kn_lift h hm (by
    have h : Keeps 0x284834186204 s s := keeps_refl _ _
    unfold execKeyExchange
    repeat' first
      | intro _ | with_reducible assumption | with_reducible exact rfl | exact rfl | exact Or.inl rfl | with_reducible exact Or.inr rfl
      | exact Or.inr rfl | with_reducible apply kn_next | with_reducible apply onSpdm_keeps | with_reducible apply atPhase_keeps
      | with_reducible apply bump_keeps | with_reducible apply spdmError_keeps | with_reducible apply drawNonce32_keeps
      | with_reducible apply draw_keeps | with_reducible apply requesterMod_keeps | with_reducible apply spdmReply_keeps
      | with_reducible apply keeps_ite | simp only [↓keepsMk_eq] | with_reducible apply keepsMk_intro | dsimp only | split
      | refine kn_get ?_ (by with_reducible assumption) | refine kr_get ?_ (by with_reducible assumption))

/-- What `execSpdmFinish` keeps. -/
theorem execSpdmFinish_keeps {m : Nat} {a : State} (who : Nat) (secured : Bool) (bytes : List Byte) (s : State) (h : Keeps m a s)
    (hm : Sub 0x284834186200 m) : KN m a (execSpdmFinish who secured bytes s) :=
  kn_lift h hm (by
    have h : Keeps 0x284834186200 s s := keeps_refl _ _
    unfold execSpdmFinish
    repeat' first
      | intro _ | with_reducible assumption | with_reducible exact rfl | exact rfl | exact Or.inl rfl | with_reducible exact Or.inr rfl
      | exact Or.inr rfl | with_reducible apply kn_next | with_reducible apply onSpdm_keeps | with_reducible apply spdmError_keeps
      | with_reducible apply bump_keeps | with_reducible apply requesterMod_keeps | with_reducible apply spdmReply_keeps
      | with_reducible apply sessionMod_keeps | with_reducible apply keeps_ite | simp only [↓keepsMk_eq]
      | with_reducible apply keepsMk_intro | dsimp only | split | refine kn_get ?_ (by with_reducible assumption))

/-- What `execSpdmHeartbeat` keeps. -/
theorem execSpdmHeartbeat_keeps {m : Nat} {a : State} (who : Nat) (secured : Bool) (bytes : List Byte) (s : State) (h : Keeps m a s)
    (hm : Sub 0x284834186200 m) : KN m a (execSpdmHeartbeat who secured bytes s) :=
  kn_lift h hm (by
    have h : Keeps 0x284834186200 s s := keeps_refl _ _
    unfold execSpdmHeartbeat
    repeat' first
      | intro _ | with_reducible assumption | with_reducible exact rfl | exact rfl | with_reducible apply kn_next
      | with_reducible apply onSpdm_keeps | with_reducible apply inSession_keeps | with_reducible apply spdmReply_keeps | dsimp only
      | split | refine kn_get ?_ (by with_reducible assumption))

/-- What `execHeartbeatExpiry` keeps. -/
theorem execHeartbeatExpiry_keeps {m : Nat} {a : State} (who : Nat) (s : State) (h : Keeps m a s)
    (hm : Sub 0x200010000000 m) : KN m a (execHeartbeatExpiry who s) :=
  kn_lift h hm (by
    have h : Keeps 0x200010000000 s s := keeps_refl _ _
    unfold execHeartbeatExpiry
    repeat' first
      | intro _ | with_reducible assumption | with_reducible exact rfl | exact rfl | exact Or.inl rfl | with_reducible exact Or.inr rfl
      | exact Or.inr rfl | with_reducible apply kn_next | with_reducible apply bump_keeps | with_reducible apply sessionEnd_keeps
      | with_reducible apply keeps_ite | dsimp only | split)

/-- What `execKeyUpdate` keeps. -/
theorem execKeyUpdate_keeps {m : Nat} {a : State} (who : Nat) (secured : Bool) (bytes : List Byte) (s : State) (h : Keeps m a s)
    (hm : Sub 0x284834186200 m) : KN m a (execKeyUpdate who secured bytes s) :=
  kn_lift h hm (by
    have h : Keeps 0x284834186200 s s := keeps_refl _ _
    unfold execKeyUpdate
    repeat' first
      | intro _ | with_reducible assumption | with_reducible exact rfl | exact rfl | exact Or.inl rfl | with_reducible exact Or.inr rfl
      | exact Or.inr rfl | with_reducible apply kn_next | with_reducible apply onSpdm_keeps | with_reducible apply inSession_keeps
      | with_reducible apply spdmError_keeps | with_reducible apply spdmReply_keeps | with_reducible apply sessionMod_keeps
      | with_reducible apply keeps_ite | simp only [↓keepsMk_eq] | with_reducible apply keepsMk_intro | dsimp only | split
      | refine kn_get ?_ (by with_reducible assumption))

/-- What `execEndSession` keeps. -/
theorem execEndSession_keeps {m : Nat} {a : State} (who : Nat) (secured : Bool) (bytes : List Byte) (s : State) (h : Keeps m a s)
    (hm : Sub 0x284834186200 m) : KN m a (execEndSession who secured bytes s) :=
  kn_lift h hm (by
    have h : Keeps 0x284834186200 s s := keeps_refl _ _
    unfold execEndSession
    repeat' first
      | intro _ | with_reducible assumption | with_reducible exact rfl | exact rfl | with_reducible apply kn_next
      | with_reducible apply onSpdm_keeps | with_reducible apply inSession_keeps | with_reducible apply sessionEnd_keeps
      | with_reducible apply spdmReply_keeps | dsimp only | split | refine kn_get ?_ (by with_reducible assumption))

/-- What `cmdReply` keeps. -/
theorem cmdReply_keeps {m : Nat} {a : State} (s : State) (t : Nat) (status : Nat) (payload : List Byte) (h : Keeps m a s)
    (hm : Sub 0x80010004000 m) : Keeps m a (cmdReply s t status payload) :=
  keeps_lift h hm (by
    have h : Keeps 0x80010004000 s s := keeps_refl _ _
    unfold cmdReply
    repeat' first
      | intro _ | with_reducible assumption | with_reducible exact rfl | exact rfl | with_reducible apply rspReply_keeps
      | with_reducible apply keeps_ite | dsimp only | split)

/-- What `execVendorDefinedRequest` keeps. -/
theorem execVendorDefinedRequest_keeps {m : Nat} {a : State} (who : Nat) (secured : Bool) (bytes : List Byte) (s : State) (h : Keeps m a s)
    (hm : Sub 0x284834186200 m) : KN m a (execVendorDefinedRequest who secured bytes s) :=
  kn_lift h hm (by
    have h : Keeps 0x284834186200 s s := keeps_refl _ _
    unfold execVendorDefinedRequest
    repeat' first
      | intro _ | with_reducible assumption | with_reducible exact rfl | exact rfl | exact Or.inl rfl | with_reducible exact Or.inr rfl
      | exact Or.inr rfl | with_reducible apply kn_next | with_reducible apply onSpdm_keeps | with_reducible apply inSession_keeps
      | with_reducible apply spdmError_keeps | with_reducible apply cmdReply_keeps | with_reducible apply boxMod_keeps
      | with_reducible apply keeps_ite | simp only [↓keepsMk_eq] | with_reducible apply keepsMk_intro | dsimp only | split
      | refine kn_get ?_ (by with_reducible assumption))

/-- What `loadKey` keeps. -/
theorem loadKey_keeps {m : Nat} {a : State} (s : State) (t : Nat) (key : List Byte) (h : Keeps m a s)
    (hm : Sub 0x200002000000 m) : KP m a (loadKey s t key) :=
  kp_lift h hm (by
    have h : Keeps 0x200002000000 s s := keeps_refl _ _
    unfold loadKey
    repeat' first
      | intro _ | with_reducible assumption | with_reducible exact rfl | exact rfl | with_reducible apply kp_ok
      | with_reducible exact kp_error | with_reducible apply kp_bind | with_reducible apply kep_bind | with_reducible apply ke_ok
      | with_reducible exact ke_error | with_reducible apply ke_bind | with_reducible apply kpe_bind
      | with_reducible apply slotLoad_keeps | with_reducible apply keeps_ite | dsimp only | split)

/-- What `execKeyLoad` keeps. -/
theorem execKeyLoad_keeps {m : Nat} {a : State} (fn : Nat) (s : State) (h : Keeps m a s)
    (hm : Sub 0x280012004000 m) : KN m a (execKeyLoad fn s) :=
  kn_lift h hm (by
    have h : Keeps 0x280012004000 s s := keeps_refl _ _
    unfold execKeyLoad
    repeat' first
      | intro _ | with_reducible assumption | with_reducible exact rfl | exact rfl | with_reducible apply kn_next
      | with_reducible apply ke_ok | with_reducible exact ke_error | with_reducible apply ke_bind | with_reducible apply kpe_bind
      | with_reducible apply kp_ok | with_reducible exact kp_error | with_reducible apply kp_bind | with_reducible apply kep_bind
      | with_reducible apply cmdReply_keeps | with_reducible apply loadKey_keeps | with_reducible apply keeps_ite | dsimp only | split
      | refine kp_get ?_ (by with_reducible assumption) | refine kp_get1 ?_ (by with_reducible assumption))

/-- What `execKeyGen` keeps. -/
theorem execKeyGen_keeps {m : Nat} {a : State} (fn : Nat) (s : State) (h : Keeps m a s)
    (hm : Sub 0x280012004004 m) : KN m a (execKeyGen fn s) :=
  kn_lift h hm (by
    have h : Keeps 0x280012004004 s s := keeps_refl _ _
    unfold execKeyGen
    repeat' first
      | intro _ | with_reducible assumption | with_reducible exact rfl | exact rfl | with_reducible apply kn_next
      | with_reducible apply ke_ok | with_reducible exact ke_error | with_reducible apply ke_bind | with_reducible apply kpe_bind
      | with_reducible apply kp_ok | with_reducible exact kp_error | with_reducible apply kp_bind | with_reducible apply kep_bind
      | with_reducible apply cmdReply_keeps | with_reducible apply drawN_keeps | with_reducible apply loadKey_keeps
      | with_reducible apply keeps_ite | dsimp only | split | refine kp_get ?_ (by with_reducible assumption)
      | refine kp_get1 ?_ (by with_reducible assumption) | refine kr_get ?_ (by with_reducible assumption))

/-- What `execKeyDestroy` keeps. -/
theorem execKeyDestroy_keeps {m : Nat} {a : State} (fn : Nat) (s : State) (h : Keeps m a s)
    (hm : Sub 0x10c06360ee204 m) : KN m a (execKeyDestroy fn s) :=
  kn_lift h hm (by
    have h : Keeps 0x10c06360ee204 s s := keeps_refl _ _
    unfold execKeyDestroy
    repeat' first
      | intro _ | with_reducible assumption | with_reducible exact rfl | exact rfl | with_reducible apply kn_next
      | with_reducible apply cmdReply_keeps | with_reducible apply slotLeaves_keeps | with_reducible apply keeps_ite | dsimp only | split)

/-- What `extend` keeps. -/
theorem extend_keeps {m : Nat} {a : State} (s : State) (t : Nat) (record : List Byte) (h : Keeps m a s)
    (hm : Sub 0x8000000 m) : Keeps m a (extend s t record) :=
  keeps_lift h hm (by
    have h : Keeps 0x8000000 s s := keeps_refl _ _
    unfold extend
    repeat' first
      | intro _ | with_reducible assumption | with_reducible exact rfl | exact rfl | exact Or.inl rfl | with_reducible exact Or.inr rfl
      | exact Or.inr rfl | with_reducible apply tenantMod_keeps | simp only [↓keepsMk_eq] | with_reducible apply keepsMk_intro
      | dsimp only | split)

/-- What `drawPair` keeps. -/
theorem drawPair_keeps {m : Nat} {a : State} (s : State) (h : Keeps m a s)
    (hm : Sub 0x4 m) : Keeps m a (drawPair s).2 :=
  keeps_lift h hm (by
    have h : Keeps 0x4 s s := keeps_refl _ _
    unfold drawPair
    repeat' first
      | intro _ | with_reducible assumption | with_reducible exact rfl | exact rfl | with_reducible apply drawN_keeps | dsimp only
      | refine kr_get ?_ (by with_reducible assumption))

/-- What `loadPair` keeps. -/
theorem loadPair_keeps {m : Nat} {a : State} (s : State) (t : Nat) (h : Keeps m a s)
    (hm : Sub 0x200002000004 m) : KP m a (loadPair s t) :=
  kp_lift h hm (by
    have h : Keeps 0x200002000004 s s := keeps_refl _ _
    unfold loadPair
    repeat' first
      | intro _ | with_reducible assumption | with_reducible exact rfl | exact rfl | with_reducible apply kp_ok
      | with_reducible exact kp_error | with_reducible apply kp_bind | with_reducible apply kep_bind | with_reducible apply ke_ok
      | with_reducible exact ke_error | with_reducible apply ke_bind | with_reducible apply kpe_bind
      | with_reducible apply drawPair_keeps | with_reducible apply loadKey_keeps | dsimp only | split
      | refine kp_get ?_ (by with_reducible assumption) | refine kp_get1 ?_ (by with_reducible assumption)
      | refine kr_get ?_ (by with_reducible assumption))

/-- What `execSealEnable` keeps. -/
theorem execSealEnable_keeps {m : Nat} {a : State} (fn : Nat) (s : State) (h : Keeps m a s)
    (hm : Sub 0x28001a004004 m) : KN m a (execSealEnable fn s) :=
  kn_lift h hm (by
    have h : Keeps 0x28001a004004 s s := keeps_refl _ _
    unfold execSealEnable
    repeat' first
      | intro _ | with_reducible assumption | with_reducible exact rfl | exact rfl | exact Or.inl rfl | with_reducible exact Or.inr rfl
      | exact Or.inr rfl | with_reducible apply kn_next | with_reducible apply ke_ok | with_reducible exact ke_error
      | with_reducible apply ke_bind | with_reducible apply kpe_bind | with_reducible apply kp_ok | with_reducible exact kp_error
      | with_reducible apply kp_bind | with_reducible apply kep_bind | with_reducible apply cmdReply_keeps
      | with_reducible apply loadPair_keeps | with_reducible apply tenantMod_keeps | with_reducible apply extend_keeps
      | with_reducible apply keeps_ite | simp only [↓keepsMk_eq] | with_reducible apply keepsMk_intro | dsimp only | split
      | refine kp_get ?_ (by with_reducible assumption) | refine kp_get1 ?_ (by with_reducible assumption))

/-- What `execSealRekey` keeps. -/
theorem execSealRekey_keeps {m : Nat} {a : State} (fn : Nat) (s : State) (h : Keeps m a s)
    (hm : Sub 0x12c063e0ee204 m) : KN m a (execSealRekey fn s) :=
  kn_lift h hm (by
    have h : Keeps 0x12c063e0ee204 s s := keeps_refl _ _
    unfold execSealRekey
    repeat' first
      | intro _ | with_reducible assumption | with_reducible exact rfl | exact rfl | exact Or.inl rfl | with_reducible exact Or.inr rfl
      | exact Or.inr rfl | with_reducible apply kn_next | with_reducible apply ke_ok | with_reducible exact ke_error
      | with_reducible apply ke_bind | with_reducible apply kpe_bind | with_reducible apply kp_ok | with_reducible exact kp_error
      | with_reducible apply kp_bind | with_reducible apply kep_bind | with_reducible apply cmdReply_keeps
      | with_reducible apply slotSet_keeps | with_reducible apply slotLeaves_keeps | with_reducible apply loadPair_keeps
      | with_reducible apply tenantMod_keeps | with_reducible apply extend_keeps | with_reducible apply keeps_ite
      | simp only [↓keepsMk_eq] | with_reducible apply keepsMk_intro | dsimp only | split
      | refine kp_get ?_ (by with_reducible assumption) | refine kp_get1 ?_ (by with_reducible assumption))

/-- What `execReportRequest` keeps. -/
theorem execReportRequest_keeps {m : Nat} {a : State} (fn : Nat) (s : State) (h : Keeps m a s)
    (hm : Sub 0x80018004004 m) : KN m a (execReportRequest fn s) :=
  kn_lift h hm (by
    have h : Keeps 0x80018004004 s s := keeps_refl _ _
    unfold execReportRequest
    repeat' first
      | intro _ | with_reducible assumption | with_reducible exact rfl | exact rfl | exact Or.inl rfl | with_reducible exact Or.inr rfl
      | exact Or.inr rfl | with_reducible apply kn_next | with_reducible apply rspReply_keeps | with_reducible apply tenantMod_keeps
      | with_reducible apply draw_keeps | with_reducible apply extend_keeps | with_reducible apply keeps_ite | simp only [↓keepsMk_eq]
      | with_reducible apply keepsMk_intro | dsimp only | split | refine kr_get ?_ (by with_reducible assumption))

/-- What `execMailboxDoorbell` keeps. -/
theorem execMailboxDoorbell_keeps {m : Nat} {a : State} (fn : Nat) (s : State) (h : Keeps m a s)
    (hm : Sub 0x8003800e200 m) : KN m a (execMailboxDoorbell fn s) :=
  kn_lift h hm (by
    have h : Keeps 0x8003800e200 s s := keeps_refl _ _
    unfold execMailboxDoorbell
    repeat' first
      | intro _ | with_reducible assumption | with_reducible exact rfl | exact rfl | exact Or.inl rfl | with_reducible exact Or.inr rfl
      | exact Or.inr rfl | with_reducible apply kn_next | with_reducible apply dropHeld_keeps | with_reducible apply rspCollect_keeps
      | with_reducible apply boxMod_keeps | with_reducible apply keeps_ite | simp only [↓keepsMk_eq] | with_reducible apply keepsMk_intro
      | dsimp only | split)

/-- What `execMailboxTimeout` keeps. -/
theorem execMailboxTimeout_keeps {m : Nat} {a : State} (fn : Nat) (s : State) (h : Keeps m a s)
    (hm : Sub 0x8003000e200 m) : KN m a (execMailboxTimeout fn s) :=
  kn_lift h hm (by
    have h : Keeps 0x8003000e200 s s := keeps_refl _ _
    unfold execMailboxTimeout
    repeat' first
      | intro _ | with_reducible assumption | with_reducible exact rfl | exact rfl | with_reducible apply kn_next
      | with_reducible apply rspReply_keeps | with_reducible apply sqmSkip_keeps | with_reducible apply keeps_ite | dsimp only | split)

/-- What `execReplyMailboxTimeout` keeps. -/
theorem execReplyMailboxTimeout_keeps {m : Nat} {a : State} (fn : Nat) (s : State) (h : Keeps m a s)
    (hm : Sub 0x200010000000 m) : KN m a (execReplyMailboxTimeout fn s) :=
  kn_lift h hm (by
    have h : Keeps 0x200010000000 s s := keeps_refl _ _
    unfold execReplyMailboxTimeout
    repeat' first
      | intro _ | with_reducible assumption | with_reducible exact rfl | exact rfl | exact Or.inl rfl | with_reducible exact Or.inr rfl
      | exact Or.inr rfl | with_reducible apply kn_next | with_reducible apply bump_keeps | with_reducible apply boxMod_keeps
      | with_reducible apply keeps_ite | simp only [↓keepsMk_eq] | with_reducible apply keepsMk_intro | dsimp only | split)

/-- What `execDrbgReseed` keeps. -/
theorem execDrbgReseed_keeps {m : Nat} {a : State} (s : State) (h : Keeps m a s)
    (hm : Sub 0x10000000 m) : KN m a (execDrbgReseed s) :=
  kn_lift h hm (by
    have h : Keeps 0x10000000 s s := keeps_refl _ _
    unfold execDrbgReseed
    repeat' first
      | intro _ | with_reducible assumption | with_reducible exact rfl | exact rfl | exact Or.inl rfl | with_reducible exact Or.inr rfl
      | exact Or.inr rfl | with_reducible apply kn_next | with_reducible apply keeps_ite | simp only [↓keepsMk_eq]
      | with_reducible apply keepsMk_intro | dsimp only | split)

/-- What `execEntropyHealthFail` keeps. -/
theorem execEntropyHealthFail_keeps {m : Nat} {a : State} (recovered : Bool) (s : State) (h : Keeps m a s)
    (hm : Sub 0x200010000000 m) : KN m a (execEntropyHealthFail recovered s) :=
  kn_lift h hm (by
    have h : Keeps 0x200010000000 s s := keeps_refl _ _
    unfold execEntropyHealthFail
    repeat' first
      | intro _ | with_reducible assumption | with_reducible exact rfl | exact rfl | exact Or.inl rfl | with_reducible exact Or.inr rfl
      | exact Or.inr rfl | with_reducible apply kn_next | with_reducible apply bump_keeps | with_reducible apply keeps_ite
      | simp only [↓keepsMk_eq] | with_reducible apply keepsMk_intro | dsimp only | split)

/-- What `execDrbgWaitTimeout` keeps. -/
theorem execDrbgWaitTimeout_keeps {m : Nat} {a : State} (s : State) (h : Keeps m a s)
    (hm : Sub 0x8003000e200 m) : KN m a (execDrbgWaitTimeout s) :=
  kn_lift h hm (by
    have h : Keeps 0x8003000e200 s s := keeps_refl _ _
    unfold execDrbgWaitTimeout
    repeat' first
      | intro _ | with_reducible assumption | with_reducible exact rfl | exact rfl | exact Or.inl rfl | with_reducible exact Or.inr rfl
      | exact Or.inr rfl | with_reducible apply kn_next | with_reducible apply report_keeps | with_reducible apply keeps_ite
      | simp only [↓keepsMk_eq] | with_reducible apply keepsMk_intro | dsimp only | split)

/-- What `execSecurityLinkLoss` keeps. -/
theorem execSecurityLinkLoss_keeps {m : Nat} {a : State} (quad : Nat) (s : State) (h : Keeps m a s)
    (hm : Sub 0x10c06360fe204 m) : KN m a (execSecurityLinkLoss quad s) :=
  kn_lift h hm (by
    have h : Keeps 0x10c06360fe204 s s := keeps_refl _ _
    unfold execSecurityLinkLoss
    repeat' first
      | intro _ | with_reducible assumption | with_reducible exact rfl | exact rfl | exact Or.inl rfl | with_reducible exact Or.inr rfl
      | exact Or.inr rfl | with_reducible apply kn_next | with_reducible apply keySetPut_keeps | with_reducible apply slotLeaves_keeps
      | with_reducible apply report_keeps | with_reducible apply keeps_ite | simp only [↓keepsMk_eq] | with_reducible apply keepsMk_intro
      | with_reducible apply keeps_foldl | dsimp only | split)

/-- What `tearAll` keeps. -/
theorem tearAll_keeps {m : Nat} {a : State} (s : State) (what : Nat) (h : Keeps m a s)
    (hm : Sub 0x12f7e3f9fee84 m) : Keeps m a (tearAll s what) :=
  keeps_lift h hm (by
    have h : Keeps 0x12f7e3f9fee84 s s := keeps_refl _ _
    unfold tearAll
    repeat' first
      | intro _ | with_reducible assumption | with_reducible exact rfl | exact rfl | exact Or.inl rfl | with_reducible exact Or.inr rfl
      | exact Or.inr rfl | with_reducible apply wipeAll_keeps | with_reducible apply startTeardown_keeps
      | with_reducible apply drainBound_keeps | with_reducible apply keeps_ite | simp only [↓keepsMk_eq]
      | with_reducible apply keepsMk_intro | with_reducible apply keeps_foldl | dsimp only | split)

/-- What `execDebugToken` keeps. -/
theorem execDebugToken_keeps {m : Nat} {a : State} (token : Token) (s : State) (h : Keeps m a s)
    (hm : Sub 0x12f7e3f9fee84 m) : KN m a (execDebugToken token s) :=
  kn_lift h hm (by
    have h : Keeps 0x12f7e3f9fee84 s s := keeps_refl _ _
    unfold execDebugToken
    repeat' first
      | intro _ | with_reducible assumption | with_reducible exact rfl | exact rfl | exact Or.inl rfl | with_reducible exact Or.inr rfl
      | exact Or.inr rfl | with_reducible apply kn_next | with_reducible apply drawNonce_keeps | with_reducible apply tearAll_keeps
      | with_reducible apply keeps_ite | simp only [↓keepsMk_eq] | with_reducible apply keepsMk_intro | dsimp only | split)

/-- What `execRmaToken` keeps. -/
theorem execRmaToken_keeps {m : Nat} {a : State} (token : Token) (s : State) (h : Keeps m a s)
    (hm : Sub 0x12f7e3f9fee84 m) : KN m a (execRmaToken token s) :=
  kn_lift h hm (by
    have h : Keeps 0x12f7e3f9fee84 s s := keeps_refl _ _
    unfold execRmaToken
    repeat' first
      | intro _ | with_reducible assumption | with_reducible exact rfl | exact rfl | with_reducible apply kn_next
      | with_reducible apply drawNonce_keeps | with_reducible apply tearAll_keeps | with_reducible apply keeps_ite | dsimp only | split)

end Sys2Proof.Laws
end

