-- ==== Sys2Proof/Laws/KeepsTxn.lean ====
section
/-! SUPPORT. Every definition of Machine/Txn.lean keeps what `Keeps` says. -/
namespace Sys2Proof.Laws
open Sys2Proof.Machine Sys2Proof.Safety

/-- What `txBegin` keeps. -/
theorem txBegin_keeps {m : Nat} {a : State} (s : State) (fn : Nat) (h : Keeps m a s)
    (hm : Sub 0x200 m) : Keeps m a (txBegin s fn) :=
  keeps_lift h hm (by
    have h : Keeps 0x200 s s := keeps_refl _ _
    unfold txBegin
    repeat' first
      | intro _ | with_reducible assumption | with_reducible exact rfl | exact rfl | exact Or.inl rfl | with_reducible exact Or.inr rfl
      | exact Or.inr rfl | with_reducible apply fnMod_keeps | with_reducible apply keeps_ite | simp only [↓keepsMk_eq]
      | with_reducible apply keepsMk_intro | dsimp only | split)

/-- What `stage` keeps. -/
theorem stage_keeps {m : Nat} {a : State} (s : State) (fn : Nat) (r : Staged) (h : Keeps m a s)
    (hm : Sub 0x400000000200 m) : Keeps m a (stage s fn r) :=
  keeps_lift h hm (by
    have h : Keeps 0x400000000200 s s := keeps_refl _ _
    unfold stage
    repeat' first
      | intro _ | with_reducible assumption | with_reducible exact rfl | exact rfl | exact Or.inl rfl | with_reducible exact Or.inr rfl
      | exact Or.inr rfl | with_reducible apply fnMod_keeps | with_reducible apply bump_keeps | with_reducible apply keeps_ite
      | simp only [↓keepsMk_eq] | with_reducible apply keepsMk_intro | dsimp only | split)

/-- What `txWrite` keeps. -/
theorem txWrite_keeps {m : Nat} {a : State} (s : State) (fn : Nat) (off : Nat) (value : W64) (h : Keeps m a s)
    (hm : Sub 0x400000000200 m) : Keeps m a (txWrite s fn off value) :=
  keeps_lift h hm (by
    have h : Keeps 0x400000000200 s s := keeps_refl _ _
    unfold txWrite
    repeat' first
      | intro _ | with_reducible assumption | with_reducible exact rfl | exact rfl | exact Or.inl rfl | with_reducible exact Or.inr rfl
      | exact Or.inr rfl | with_reducible apply stage_keeps | with_reducible apply keeps_ite | simp only [↓keepsMk_eq]
      | with_reducible apply keepsMk_intro | dsimp only | split)

/-- What `grantWrite` keeps. -/
theorem grantWrite_keeps {m : Nat} {a : State} (s : State) (value : W64) (h : Keeps m a s)
    (hm : Sub 0x400000000200 m) : Keeps m a (grantWrite s value) :=
  keeps_lift h hm (by
    have h : Keeps 0x400000000200 s s := keeps_refl _ _
    unfold grantWrite
    repeat' first
      | intro _ | with_reducible assumption | with_reducible exact rfl | exact rfl | with_reducible apply stage_keeps | dsimp only)

/-- What `txCommit` keeps. -/
theorem txCommit_keeps {m : Nat} {a : State} (s : State) (fn : Nat) (token : Nat) (save : Bool) (h : Keeps m a s)
    (hm : Sub 0x1200 m) : Keeps m a (txCommit s fn token save) :=
  keeps_lift h hm (by
    have h : Keeps 0x1200 s s := keeps_refl _ _
    unfold txCommit
    repeat' first
      | intro _ | with_reducible assumption | with_reducible exact rfl | exact rfl | exact Or.inl rfl | with_reducible exact Or.inr rfl
      | exact Or.inr rfl | with_reducible apply fnMod_keeps | with_reducible apply keeps_ite | simp only [↓keepsMk_eq]
      | with_reducible apply keepsMk_intro | dsimp only | split)

/-- What `txRollback` keeps. -/
theorem txRollback_keeps {m : Nat} {a : State} (s : State) (fn : Nat) (token : Nat) (h : Keeps m a s)
    (hm : Sub 0x200 m) : Keeps m a (txRollback s fn token) :=
  keeps_lift h hm (by
    have h : Keeps 0x200 s s := keeps_refl _ _
    unfold txRollback
    repeat' first
      | intro _ | with_reducible assumption | with_reducible exact rfl | exact rfl | exact Or.inl rfl | with_reducible exact Or.inr rfl
      | exact Or.inr rfl | with_reducible apply fnMod_keeps | with_reducible apply keeps_ite | simp only [↓keepsMk_eq]
      | with_reducible apply keepsMk_intro | dsimp only | split)

/-- What `grantOne` keeps. -/
theorem grantOne_keeps {m : Nat} {a : State} (s : State) (r : Staged) (i : Nat) (h : Keeps m a s)
    (hm : Sub 0x14c04 m) : Keeps m a (grantOne s r i) :=
  keeps_lift h hm (by
    have h : Keeps 0x14c04 s s := keeps_refl _ _
    unfold grantOne
    repeat' first
      | intro _ | with_reducible assumption | with_reducible exact rfl | exact rfl | exact Or.inl rfl | with_reducible exact Or.inr rfl
      | exact Or.inr rfl | with_reducible apply frameMod_keeps | with_reducible apply draw_keeps | with_reducible apply setOwner_keeps
      | with_reducible apply sqmRecharge_keeps | with_reducible apply keeps_ite | simp only [↓keepsMk_eq]
      | with_reducible apply keepsMk_intro | dsimp only | split | refine kr_get ?_ (by with_reducible assumption))

/-- What `applyRec` keeps. -/
theorem applyRec_keeps {m : Nat} {a : State} (fn : Nat) (s : State) (r : Staged) (h : Keeps m a s)
    (hm : Sub 0xffff01814c0c m) : Keeps m a (applyRec fn s r) :=
  keeps_lift h hm (by
    have h : Keeps 0xffff01814c0c s s := keeps_refl _ _
    unfold applyRec
    repeat' first
      | intro _ | with_reducible assumption | with_reducible exact rfl | exact rfl | exact Or.inl rfl | with_reducible exact Or.inr rfl
      | exact Or.inr rfl | with_reducible apply grantOne_keeps | with_reducible apply setReg_keeps
      | with_reducible apply sqmRecharge_keeps | with_reducible apply setOwner_keeps | with_reducible apply tileStartClear_keeps
      | with_reducible apply sqmStartClear_keeps | with_reducible apply scbGroupCommitted_keeps | with_reducible apply keeps_ite
      | with_reducible apply keeps_foldl | dsimp only | split)

/-- What `applyAll` keeps. -/
theorem applyAll_keeps {m : Nat} {a : State} (fn : Nat) (s : State) (l : List Staged) (h : Keeps m a s)
    (hm : Sub 0xffff01814c0c m) : Keeps m a (applyAll fn s l) :=
  keeps_lift h hm (by
    have h : Keeps 0xffff01814c0c s s := keeps_refl _ _
    unfold applyAll
    repeat' first
      | intro _ | with_reducible assumption | with_reducible exact rfl | exact rfl | exact Or.inl rfl | with_reducible exact Or.inr rfl
      | exact Or.inr rfl | with_reducible apply applyRec_keeps | simp only [↓keepsMk_eq] | with_reducible apply keepsMk_intro
      | with_reducible apply keeps_foldl | dsimp only)

/-- What `commitValidate` keeps. -/
theorem commitValidate_keeps {m : Nat} {a : State} (s : State) (h : Keeps m a s)
    (hm : Sub 0xffff01815e0c m) : Keeps m a (commitValidate s) :=
  keeps_lift h hm (by
    have h : Keeps 0xffff01815e0c s s := keeps_refl _ _
    unfold commitValidate
    repeat' first
      | intro _ | with_reducible assumption | with_reducible exact rfl | exact rfl | exact Or.inl rfl | with_reducible exact Or.inr rfl
      | exact Or.inr rfl | with_reducible apply fnMod_keeps | with_reducible apply bump_keeps | with_reducible apply applyAll_keeps
      | with_reducible apply keeps_ite | simp only [↓keepsMk_eq] | with_reducible apply keepsMk_intro | dsimp only | split)

/-- What `measureMoves` keeps. -/
theorem measureMoves_keeps {μ : Nat} {a : State} (s : State) (token : Nat) (m : List (Nat × Nat × Bool)) (h : Keeps μ a s)
    (hm : Sub 0x8000000 μ) : Keeps μ a (measureMoves s token m) :=
  keeps_lift h hm (by
    have h : Keeps 0x8000000 s s := keeps_refl _ _
    unfold measureMoves
    repeat' first
      | intro _ | with_reducible assumption | with_reducible exact rfl | exact rfl | with_reducible apply extend_keeps
      | with_reducible apply keeps_ite | with_reducible apply keeps_foldl | dsimp only | split)

/-- What `blockApply` keeps. -/
theorem blockApply_keeps {m : Nat} {a : State} (s : State) (block : Nat) (h : Keeps m a s)
    (hm : Sub 0xffff09815c0c m) : Keeps m a (blockApply s block) :=
  keeps_lift h hm (by
    have h : Keeps 0xffff09815c0c s s := keeps_refl _ _
    unfold blockApply
    repeat' first
      | intro _ | with_reducible assumption | with_reducible exact rfl | exact rfl | exact Or.inl rfl | with_reducible exact Or.inr rfl
      | exact Or.inr rfl | with_reducible apply applyRec_keeps | with_reducible apply measureMoves_keeps | with_reducible apply keeps_ite
      | simp only [↓keepsMk_eq] | with_reducible apply keepsMk_intro | with_reducible apply keeps_foldl | dsimp only | split)

/-- What `saveProfile` keeps. -/
theorem saveProfile_keeps {m : Nat} {a : State} (s : State) (l : List Staged) (h : Keeps m a s)
    (hm : Sub 0x400000000040 m) : Keeps m a (saveProfile s l) :=
  keeps_lift h hm (by
    have h : Keeps 0x400000000040 s s := keeps_refl _ _
    unfold saveProfile
    repeat' first
      | intro _ | with_reducible assumption | with_reducible exact rfl | exact rfl | exact Or.inl rfl | with_reducible exact Or.inr rfl
      | exact Or.inr rfl | with_reducible apply setReg_keeps | with_reducible apply keeps_ite | simp only [↓keepsMk_eq]
      | with_reducible apply keepsMk_intro | dsimp only | split)

/-- What `zeroTokens` keeps. -/
theorem zeroTokens_keeps {m : Nat} {a : State} (s : State) (ch : List (Nat × Nat)) (h : Keeps m a s)
    (hm : Sub 0x4000000 m) : Keeps m a (zeroTokens s ch) :=
  keeps_lift h hm (by
    have h : Keeps 0x4000000 s s := keeps_refl _ _
    unfold zeroTokens
    repeat' first
      | intro _ | with_reducible assumption | with_reducible exact rfl | exact rfl | exact Or.inl rfl | with_reducible exact Or.inr rfl
      | exact Or.inr rfl | with_reducible apply clsMod_keeps | with_reducible apply keeps_ite | simp only [↓keepsMk_eq]
      | with_reducible apply keepsMk_intro | with_reducible apply keeps_foldl | dsimp only | split)

/-- What `afterApply` keeps. -/
theorem afterApply_keeps {m : Nat} {a : State} (s : State) (ch : List (Nat × Nat)) (h : Keeps m a s)
    (hm : Sub 0x10ca6267ee200 m) : Keeps m a (afterApply s ch) :=
  keeps_lift h hm (by
    have h : Keeps 0x10ca6267ee200 s s := keeps_refl _ _
    unfold afterApply
    repeat' first
      | intro _ | with_reducible assumption | with_reducible exact rfl | exact rfl | with_reducible apply zeroTokens_keeps
      | with_reducible apply linksRenumber_keeps | with_reducible apply portDown_keeps | with_reducible apply keeps_ite
      | with_reducible apply keeps_foldl | dsimp only | split)

/-- What `commitPublish` keeps. -/
theorem commitPublish_keeps {m : Nat} {a : State} (s : State) (h : Keeps m a s)
    (hm : Sub 0x14ca6267ef240 m) : Keeps m a (commitPublish s) :=
  keeps_lift h hm (by
    have h : Keeps 0x14ca6267ef240 s s := keeps_refl _ _
    unfold commitPublish
    repeat' first
      | intro _ | with_reducible assumption | with_reducible exact rfl | exact rfl | exact Or.inl rfl | with_reducible exact Or.inr rfl
      | exact Or.inr rfl | with_reducible apply bump_keeps | with_reducible apply fnMod_keeps | with_reducible apply saveProfile_keeps
      | with_reducible apply afterApply_keeps | with_reducible apply keeps_ite | simp only [↓keepsMk_eq]
      | with_reducible apply keepsMk_intro | dsimp only | split)

/-- What `execTxnBegin` keeps. -/
theorem execTxnBegin_keeps {m : Nat} {a : State} (fn : Nat) (s : State) (h : Keeps m a s)
    (hm : Sub 0x200 m) : KN m a (execTxnBegin fn s) :=
  kn_lift h hm (by
    have h : Keeps 0x200 s s := keeps_refl _ _
    unfold execTxnBegin
    repeat' first
      | intro _ | with_reducible assumption | with_reducible exact rfl | exact rfl | with_reducible apply kn_next
      | with_reducible apply dropHeld_keeps | with_reducible apply txBegin_keeps | with_reducible apply keeps_ite | dsimp only | split)

/-- What `execTxWriteStage` keeps. -/
theorem execTxWriteStage_keeps {m : Nat} {a : State} (fn : Nat) (off : Nat) (value : W64) (s : State) (h : Keeps m a s)
    (hm : Sub 0x400000000200 m) : KN m a (execTxWriteStage fn off value s) :=
  kn_lift h hm (by
    have h : Keeps 0x400000000200 s s := keeps_refl _ _
    unfold execTxWriteStage
    repeat' first
      | intro _ | with_reducible assumption | with_reducible exact rfl | exact rfl | with_reducible apply kn_next
      | with_reducible apply dropHeld_keeps | with_reducible apply txWrite_keeps | with_reducible apply keeps_ite | dsimp only | split)

/-- What `execGrantStage` keeps. -/
theorem execGrantStage_keeps {m : Nat} {a : State} (fn : Nat) (value : W64) (s : State) (h : Keeps m a s)
    (hm : Sub 0x400000000200 m) : KN m a (execGrantStage fn value s) :=
  kn_lift h hm (by
    have h : Keeps 0x400000000200 s s := keeps_refl _ _
    unfold execGrantStage
    repeat' first
      | intro _ | with_reducible assumption | with_reducible exact rfl | exact rfl | with_reducible apply kn_next
      | with_reducible apply dropHeld_keeps | with_reducible apply grantWrite_keeps | with_reducible apply keeps_ite | dsimp only | split)

/-- What `execTxnCommit` keeps. -/
theorem execTxnCommit_keeps {m : Nat} {a : State} (fn : Nat) (token : Nat) (save : Bool) (s : State) (h : Keeps m a s)
    (hm : Sub 0x1200 m) : KN m a (execTxnCommit fn token save s) :=
  kn_lift h hm (by
    have h : Keeps 0x1200 s s := keeps_refl _ _
    unfold execTxnCommit
    repeat' first
      | intro _ | with_reducible assumption | with_reducible exact rfl | exact rfl | with_reducible apply kn_next
      | with_reducible apply dropHeld_keeps | with_reducible apply txCommit_keeps | with_reducible apply keeps_ite | dsimp only | split)

/-- What `execTxnRollback` keeps. -/
theorem execTxnRollback_keeps {m : Nat} {a : State} (fn : Nat) (token : Nat) (s : State) (h : Keeps m a s)
    (hm : Sub 0x200 m) : KN m a (execTxnRollback fn token s) :=
  kn_lift h hm (by
    have h : Keeps 0x200 s s := keeps_refl _ _
    unfold execTxnRollback
    repeat' first
      | intro _ | with_reducible assumption | with_reducible exact rfl | exact rfl | with_reducible apply kn_next
      | with_reducible apply dropHeld_keeps | with_reducible apply txRollback_keeps | with_reducible apply keeps_ite | dsimp only | split)

/-- What `execTransactionTimeout` keeps. -/
theorem execTransactionTimeout_keeps {m : Nat} {a : State} (fn : Nat) (s : State) (h : Keeps m a s)
    (hm : Sub 0x400000000200 m) : KN m a (execTransactionTimeout fn s) :=
  kn_lift h hm (by
    have h : Keeps 0x400000000200 s s := keeps_refl _ _
    unfold execTransactionTimeout
    repeat' first
      | intro _ | with_reducible assumption | with_reducible exact rfl | exact rfl | exact Or.inl rfl | with_reducible exact Or.inr rfl
      | exact Or.inr rfl | with_reducible apply kn_next | with_reducible apply bump_keeps | with_reducible apply fnMod_keeps
      | with_reducible apply keeps_ite | simp only [↓keepsMk_eq] | with_reducible apply keepsMk_intro | dsimp only | split)

/-- What `execCommitValidate` keeps. -/
theorem execCommitValidate_keeps {m : Nat} {a : State} (s : State) (h : Keeps m a s)
    (hm : Sub 0xffff01815e0c m) : KN m a (execCommitValidate s) :=
  kn_lift h hm (by
    have h : Keeps 0xffff01815e0c s s := keeps_refl _ _
    unfold execCommitValidate
    repeat' first
      | intro _ | with_reducible assumption | with_reducible exact rfl | exact rfl | with_reducible apply kn_next
      | with_reducible apply commitValidate_keeps | dsimp only)

/-- What `execBlockApply` keeps. -/
theorem execBlockApply_keeps {m : Nat} {a : State} (block : Nat) (s : State) (h : Keeps m a s)
    (hm : Sub 0xffff09815c0c m) : KN m a (execBlockApply block s) :=
  kn_lift h hm (by
    have h : Keeps 0xffff09815c0c s s := keeps_refl _ _
    unfold execBlockApply
    repeat' first
      | intro _ | with_reducible assumption | with_reducible exact rfl | exact rfl | with_reducible apply kn_next
      | with_reducible apply blockApply_keeps | dsimp only)

/-- What `execCommitResultPublish` keeps. -/
theorem execCommitResultPublish_keeps {m : Nat} {a : State} (s : State) (h : Keeps m a s)
    (hm : Sub 0x14ca6267ef240 m) : KN m a (execCommitResultPublish s) :=
  kn_lift h hm (by
    have h : Keeps 0x14ca6267ef240 s s := keeps_refl _ _
    unfold execCommitResultPublish
    repeat' first
      | intro _ | with_reducible assumption | with_reducible exact rfl | exact rfl | with_reducible apply kn_next
      | with_reducible apply commitPublish_keeps | dsimp only)

/-- What `profClear` keeps. -/
theorem profClear_keeps {m : Nat} {a : State} (s : State) (h : Keeps m a s)
    (hm : Sub 0x40 m) : Keeps m a (profClear s) :=
  keeps_lift h hm (by
    have h : Keeps 0x40 s s := keeps_refl _ _
    unfold profClear
    repeat' first
      | intro _ | with_reducible assumption | with_reducible exact rfl | exact rfl | exact Or.inl rfl | with_reducible exact Or.inr rfl
      | exact Or.inr rfl | simp only [↓keepsMk_eq] | with_reducible apply keepsMk_intro | dsimp only)

/-- What `execProfileClear` keeps. -/
theorem execProfileClear_keeps {m : Nat} {a : State} (s : State) (h : Keeps m a s)
    (hm : Sub 0x240 m) : KN m a (execProfileClear s) :=
  kn_lift h hm (by
    have h : Keeps 0x240 s s := keeps_refl _ _
    unfold execProfileClear
    repeat' first
      | intro _ | with_reducible assumption | with_reducible exact rfl | exact rfl | with_reducible apply kn_next
      | with_reducible apply dropHeld_keeps | with_reducible apply profClear_keeps | with_reducible apply keeps_ite | dsimp only | split)

/-- What `factoryLimits` keeps. -/
theorem factoryLimits_keeps {m : Nat} {a : State} (s : State) (h : Keeps m a s)
    (hm : Sub 0x80000000000 m) : Keeps m a (factoryLimits s) :=
  keeps_lift h hm (by
    have h : Keeps 0x80000000000 s s := keeps_refl _ _
    unfold factoryLimits
    repeat' first
      | intro _ | with_reducible assumption | with_reducible exact rfl | exact rfl | exact Or.inl rfl | with_reducible exact Or.inr rfl
      | exact Or.inr rfl | with_reducible apply setReg_keeps | with_reducible apply keeps_foldl | dsimp only | split)

/-- What `factoryApply` keeps. -/
theorem factoryApply_keeps {m : Nat} {a : State} (s : State) (ok : Bool) (h : Keeps m a s)
    (hm : Sub 0xffff01814c0c m) : Keeps m a (factoryApply s ok).1 :=
  keeps_lift h hm (by
    have h : Keeps 0xffff01814c0c s s := keeps_refl _ _
    unfold factoryApply
    repeat' first
      | intro _ | with_reducible assumption | with_reducible exact rfl | exact rfl | exact Or.inl rfl | with_reducible exact Or.inr rfl
      | exact Or.inr rfl | with_reducible apply factoryLimits_keeps | with_reducible apply applyAll_keeps
      | with_reducible apply keeps_ite | simp only [↓keepsMk_eq] | with_reducible apply keepsMk_intro | dsimp only | split)

/-- What `profilesApply` keeps. -/
theorem profilesApply_keeps {m : Nat} {a : State} (s : State) (factoryOk : Bool) (userOk : Bool) (h : Keeps m a s)
    (hm : Sub 0xffff2581ee4c m) : Keeps m a (profilesApply s factoryOk userOk) :=
  keeps_lift h hm (by
    have h : Keeps 0xffff2581ee4c s s := keeps_refl _ _
    unfold profilesApply
    repeat' first
      | intro _ | with_reducible assumption | with_reducible exact rfl | exact rfl | exact Or.inl rfl | with_reducible exact Or.inr rfl
      | exact Or.inr rfl | with_reducible apply factoryApply_keeps | with_reducible apply applyAll_keeps
      | with_reducible apply zeroTokens_keeps | with_reducible apply setReg_keeps | with_reducible apply report_keeps
      | with_reducible apply keeps_ite | simp only [↓keepsMk_eq] | with_reducible apply keepsMk_intro | dsimp only | split
      | refine kq_get ?_ (by with_reducible assumption) | refine kq_get1 ?_ (by with_reducible assumption))

/-- What `execBootScrubDone` keeps. -/
theorem execBootScrubDone_keeps {m : Nat} {a : State} (partsOk : Bool) (cores : Nat) (badSites : List Nat) (factoryOk : Bool) (userOk : Bool) (s : State) (h : Keeps m a s)
    (hm : Sub 0x1ffff3fffff7e m) : KN m a (execBootScrubDone partsOk cores badSites factoryOk userOk s) :=
  kn_lift h hm (by
    have h : Keeps 0x1ffff3fffff7e s s := keeps_refl _ _
    unfold execBootScrubDone
    repeat' first
      | intro _ | with_reducible assumption | with_reducible exact rfl | exact rfl | exact Or.inl rfl | with_reducible exact Or.inr rfl
      | exact Or.inr rfl | with_reducible apply kn_next | with_reducible apply bootFail_keeps | with_reducible apply remapBuild_keeps
      | with_reducible apply partMeasured_keeps | with_reducible apply measured_keeps | with_reducible apply profilesApply_keeps
      | with_reducible apply report_keeps | with_reducible apply linksTrain_keeps | with_reducible apply keeps_ite
      | simp only [↓keepsMk_eq] | with_reducible apply keepsMk_intro | with_reducible apply keeps_foldl | dsimp only | split)

end Sys2Proof.Laws
end

