-- ==== Sys2Proof/Laws/KeepsRegMap.lean ====
section
/-! SUPPORT. Every definition of Machine/RegMap.lean keeps what `Keeps` says. -/
namespace Sys2Proof.Laws
open Sys2Proof.Machine Sys2Proof.Safety

/-- What `nextOf` keeps. -/
theorem nextOf_keeps {m : Nat} {a : State} (s : State) {o : Host.Outcome State Fault Refusal} (h : Keeps m a s) (g : KN m a o) :
    Keeps m a (nextOf s o) := by
  cases o with
  | next t => exact kn_get g rfl
  | fault => exact h
  | refused => exact h

/-- What `qcfgWrite` keeps. -/
theorem qcfgWrite_keeps {m : Nat} {a : State} (s : State) (fn : Nat) (v : W64) (h : Keeps m a s)
    (hm : Sub 0x1000000000 m) : Keeps m a (qcfgWrite s fn v) :=
  keeps_lift h hm (by
    have h : Keeps 0x1000000000 s s := keeps_refl _ _
    unfold qcfgWrite
    repeat' first
      | intro _ | with_reducible assumption | with_reducible exact rfl | exact rfl | exact Or.inl rfl | with_reducible exact Or.inr rfl
      | exact Or.inr rfl | with_reducible apply setReg_keeps | with_reducible apply keeps_ite | dsimp only | split)

/-- What `lctlWrite` keeps. -/
theorem lctlWrite_keeps {m : Nat} {a : State} (s : State) (l : Nat) (v : W64) (h : Keeps m a s)
    (hm : Sub 0x10ca6267ee200 m) : Keeps m a (lctlWrite s l v) :=
  keeps_lift h hm (by
    have h : Keeps 0x10ca6267ee200 s s := keeps_refl _ _
    unfold lctlWrite
    repeat' first
      | intro _ | with_reducible assumption | with_reducible exact rfl | exact rfl | with_reducible apply nextOf_keeps
      | with_reducible apply execLinkDisable_keeps | with_reducible apply execLinkEnable_keeps
      | with_reducible apply execLinkRetrain_keeps | with_reducible apply keeps_ite | dsimp only | split
      | refine kn_get ?_ (by with_reducible assumption))

/-- What `lnsCtlWrite` keeps. -/
theorem lnsCtlWrite_keeps {m : Nat} {a : State} (s : State) (l : Nat) (v : W64) (h : Keeps m a s)
    (hm : Sub 0x10ca6267ee200 m) : Keeps m a (lnsCtlWrite s l v) :=
  keeps_lift h hm (by
    have h : Keeps 0x10ca6267ee200 s s := keeps_refl _ _
    unfold lnsCtlWrite
    repeat' first
      | intro _ | with_reducible assumption | with_reducible exact rfl | exact rfl | with_reducible apply laneCtl_keeps
      | with_reducible apply keeps_ite | dsimp only | split)

/-- What `cicCmdWrite` keeps. -/
theorem cicCmdWrite_keeps {m : Nat} {a : State} (s : State) (v : W64) (h : Keeps m a s)
    (hm : Sub 0x20000100 m) : Keeps m a (cicCmdWrite s v) :=
  keeps_lift h hm (by
    have h : Keeps 0x20000100 s s := keeps_refl _ _
    unfold cicCmdWrite
    repeat' first
      | intro _ | with_reducible assumption | with_reducible exact rfl | exact rfl | exact Or.inl rfl | with_reducible exact Or.inr rfl
      | exact Or.inr rfl | with_reducible apply emit_keeps | with_reducible apply keeps_ite | simp only [↓keepsMk_eq]
      | with_reducible apply keepsMk_intro | dsimp only | split)

/-- What `cfgCtlWrite` keeps. -/
theorem cfgCtlWrite_keeps {m : Nat} {a : State} (s : State) (fn : Nat) (v : W64) (h : Keeps m a s)
    (hm : Sub 0x1200 m) : Keeps m a (cfgCtlWrite s fn v) :=
  keeps_lift h hm (by
    have h : Keeps 0x1200 s s := keeps_refl _ _
    unfold cfgCtlWrite
    repeat' first
      | intro _ | with_reducible assumption | with_reducible exact rfl | exact rfl | with_reducible apply txBegin_keeps
      | with_reducible apply txCommit_keeps | with_reducible apply txRollback_keeps | dsimp only | split)

/-- What `summaryClear` keeps. -/
theorem summaryClear_keeps {m : Nat} {a : State} (s : State) (qi : Nat) (v : W64) (h : Keeps m a s)
    (hm : Sub 0x8000 m) : Keeps m a (summaryClear s qi v) :=
  keeps_lift h hm (by
    have h : Keeps 0x8000 s s := keeps_refl _ _
    unfold summaryClear
    repeat' first
      | intro _ | with_reducible assumption | with_reducible exact rfl | exact rfl | exact Or.inl rfl | with_reducible exact Or.inr rfl
      | exact Or.inr rfl | with_reducible apply fevQMod_keeps | simp only [↓keepsMk_eq] | with_reducible apply keepsMk_intro | dsimp only
      | split)

/-- What `dpWrite` keeps. -/
theorem dpWrite_keeps {m : Nat} {a : State} (s : State) (port : Nat) (at_ : Nat) (v : W64) (h : Keeps m a s)
    (hm : Sub 0x100002200 m) : Keeps m a (dpWrite s port at_ v) :=
  keeps_lift h hm (by
    have h : Keeps 0x100002200 s s := keeps_refl _ _
    unfold dpWrite
    repeat' first
      | intro _ | with_reducible assumption | with_reducible exact rfl | exact rfl | exact Or.inl rfl | with_reducible exact Or.inr rfl
      | exact Or.inr rfl | with_reducible apply setReg_keeps | with_reducible apply portEmpty_keeps | with_reducible apply nextOf_keeps
      | with_reducible apply execDataPortCtxWrite_keeps | with_reducible apply execDataPortCommit_keeps
      | with_reducible apply portMod_keeps | simp only [↓keepsMk_eq] | with_reducible apply keepsMk_intro | dsimp only | split
      | refine kn_get ?_ (by with_reducible assumption))

/-- What `actNarrowWrite` keeps. -/
theorem actNarrowWrite_keeps {m : Nat} {a : State} (s : State) (fn : Nat) (off : Nat) (v : W64) (h : Keeps m a s)
    (hm : Sub 0x1ffff3fffff7e m) : Keeps m a (actNarrowWrite s fn off v) :=
  keeps_lift h hm (by
    have h : Keeps 0x1ffff3fffff7e s s := keeps_refl _ _
    unfold actNarrowWrite
    repeat' first
      | intro _ | with_reducible assumption | with_reducible exact rfl | exact rfl | exact Or.inl rfl | with_reducible exact Or.inr rfl
      | exact Or.inr rfl | with_reducible apply nextOf_keeps | with_reducible apply execAbiAgree_keeps
      | with_reducible apply execWinCtxWrite_keeps | with_reducible apply execQueueSelect_keeps | with_reducible apply qctlWrite_keeps
      | with_reducible apply queueConfigWrite_keeps | with_reducible apply cctlWrite_keeps | with_reducible apply qpConfigWrite_keeps
      | with_reducible apply qpCtlWrite_keeps | with_reducible apply qcfgWrite_keeps | with_reducible apply lctlWrite_keeps
      | with_reducible apply lnsCtlWrite_keeps | with_reducible apply sqmMod_keeps | with_reducible apply execMailboxDoorbell_keeps
      | with_reducible apply fullReset_keeps | with_reducible apply execBootCtlRetry_keeps | with_reducible apply cicCmdWrite_keeps
      | with_reducible apply profClear_keeps | with_reducible apply summaryClear_keeps | with_reducible apply keeps_ite
      | simp only [↓keepsMk_eq] | with_reducible apply keepsMk_intro | dsimp only | split
      | refine kn_get ?_ (by with_reducible assumption))

/-- What `actWideWrite` keeps. -/
theorem actWideWrite_keeps {m : Nat} {a : State} (s : State) (fn : Nat) (off : Nat) (v : W64) (h : Keeps m a s)
    (hm : Sub 0xffff380ef208 m) : Keeps m a (actWideWrite s fn off v) :=
  keeps_lift h hm (by
    have h : Keeps 0xffff380ef208 s s := keeps_refl _ _
    unfold actWideWrite
    repeat' first
      | intro _ | with_reducible assumption | with_reducible exact rfl | exact rfl | exact Or.inl rfl | with_reducible exact Or.inr rfl
      | exact Or.inr rfl | with_reducible apply queueConfigWrite_keeps | with_reducible apply rootWrite_keeps
      | with_reducible apply qpConfigWrite_keeps | with_reducible apply setReg_keeps | with_reducible apply nextOf_keeps
      | with_reducible apply execSqmPush_keeps | with_reducible apply cfgCtlWrite_keeps | with_reducible apply grantWrite_keeps
      | with_reducible apply keeps_ite | simp only [↓keepsMk_eq] | with_reducible apply keepsMk_intro | dsimp only | split
      | refine kn_get ?_ (by with_reducible assumption))

/-- What `regWrite` keeps. -/
theorem regWrite_keeps {m : Nat} {a : State} (s : State) (fn : Nat) (off : Nat) (v : W64) (h : Keeps m a s)
    (hm : Sub 0x1ffff3fffff7e m) : Keeps m a (regWrite s fn off v) :=
  keeps_lift h hm (by
    have h : Keeps 0x1ffff3fffff7e s s := keeps_refl _ _
    unfold regWrite
    repeat' first
      | intro _ | with_reducible assumption | with_reducible exact rfl | exact rfl | exact Or.inl rfl | with_reducible exact Or.inr rfl
      | exact Or.inr rfl | with_reducible apply txWrite_keeps | with_reducible apply setReg_keeps | with_reducible apply dpWrite_keeps
      | with_reducible apply actWideWrite_keeps | with_reducible apply actNarrowWrite_keeps | with_reducible apply keeps_ite | dsimp only
      | split)

/-- What `partWrite` keeps. -/
theorem partWrite_keeps {m : Nat} {a : State} (s : State) (fn : Nat) (off : Nat) (p : Part_) (v : W64) (h : Keeps m a s)
    (hm : Sub 0x1ffff3fffff7e m) : Keeps m a (partWrite s fn off p v) :=
  keeps_lift h hm (by
    have h : Keeps 0x1ffff3fffff7e s s := keeps_refl _ _
    unfold partWrite
    repeat' first
      | intro _ | with_reducible assumption | with_reducible exact rfl | exact rfl | exact Or.inl rfl | with_reducible exact Or.inr rfl
      | exact Or.inr rfl | with_reducible apply regWrite_keeps | with_reducible apply dropHeld_keeps | with_reducible apply fnMod_keeps
      | with_reducible apply keeps_ite | simp only [↓keepsMk_eq] | with_reducible apply keepsMk_intro | dsimp only | split)

/-- What `vectorWrite` keeps. -/
theorem vectorWrite_keeps {m : Nat} {a : State} (s : State) (fn : Nat) (vec : Nat) (word : Nat) (v : W64) (h : Keeps m a s)
    (hm : Sub 0x20002200 m) : Keeps m a (vectorWrite s fn vec word v) :=
  keeps_lift h hm (by
    have h : Keeps 0x20002200 s s := keeps_refl _ _
    unfold vectorWrite
    repeat' first
      | intro _ | with_reducible assumption | with_reducible exact rfl | exact rfl | exact Or.inl rfl | with_reducible exact Or.inr rfl
      | exact Or.inr rfl | with_reducible apply vectorMod_keeps | with_reducible apply nextOf_keeps
      | with_reducible apply execMsixUnmask_keeps | with_reducible apply keeps_ite | simp only [↓keepsMk_eq]
      | with_reducible apply keepsMk_intro | dsimp only | split | refine kn_get ?_ (by with_reducible assumption))

/-- What `tableWrite` keeps. -/
theorem tableWrite_keeps {m : Nat} {a : State} (s : State) (fn : Nat) (off : Nat) (len : Nat) (v : W64) (h : Keeps m a s)
    (hm : Sub 0x20002200 m) : Keeps m a (tableWrite s fn off len v) :=
  keeps_lift h hm (by
    have h : Keeps 0x20002200 s s := keeps_refl _ _
    unfold tableWrite
    repeat' first
      | intro _ | with_reducible assumption | with_reducible exact rfl | exact rfl | with_reducible apply vectorWrite_keeps
      | with_reducible apply keeps_ite | dsimp only | split)

/-- What `execRegisterWrite` keeps. -/
theorem execRegisterWrite_keeps {m : Nat} {a : State} (fn : Nat) (off : Nat) (len : Nat) (value : W64) (s : State) (h : Keeps m a s)
    (hm : Sub 0x1ffff3fffff7e m) : KN m a (execRegisterWrite fn off len value s) :=
  kn_lift h hm (by
    have h : Keeps 0x1ffff3fffff7e s s := keeps_refl _ _
    unfold execRegisterWrite
    repeat' first
      | intro _ | with_reducible assumption | with_reducible exact rfl | exact rfl | with_reducible apply kn_next
      | with_reducible apply tableWrite_keeps | with_reducible apply partWrite_keeps | with_reducible apply keeps_ite | dsimp only
      | split)

/-- What `execCompletionTimeout` keeps. -/
theorem execCompletionTimeout_keeps {m : Nat} {a : State} (tag : BusTag) (s : State) (h : Keeps m a s)
    (hm : Sub 0x10f5e27bee304 m) : KN m a (execCompletionTimeout tag s) :=
  kn_lift h hm (by
    have h : Keeps 0x10f5e27bee304 s s := keeps_refl _ _
    unfold execCompletionTimeout
    repeat' first
      | intro _ | with_reducible assumption | with_reducible exact rfl | exact rfl | exact Or.inl rfl | with_reducible exact Or.inr rfl
      | exact Or.inr rfl | with_reducible apply kn_next | with_reducible apply execRingReadComplete_keeps
      | with_reducible apply execFragmentTableRead_keeps | with_reducible apply walkWord_keeps
      | with_reducible apply execSourceReadComplete_keeps | with_reducible apply entryFlushed_keeps
      | with_reducible apply msgFlushed_keeps | with_reducible apply execAtomicopComplete_keeps
      | with_reducible apply execTDmaBurstComplete_keeps | with_reducible apply scbAbort_keeps | with_reducible apply cryptFail_keeps
      | with_reducible apply draw_keeps | with_reducible apply keeps_ite | simp only [↓keepsMk_eq] | with_reducible apply keepsMk_intro
      | dsimp only | split | refine kn_get ?_ (by with_reducible assumption) | refine kr_get ?_ (by with_reducible assumption))

end Sys2Proof.Laws
end

