-- ==== Sys2Proof/Laws/KeepsTileVec.lean ====
section
/-! SUPPORT. Every definition of Machine/TileVec.lean keeps what `Keeps` says. -/
namespace Sys2Proof.Laws
open Sys2Proof.Machine Sys2Proof.Safety

/-- What `setV` keeps. -/
theorem setV_keeps {m : Nat} {a : State} (s : State) (t : Nat) (r : Nat) (l : List W32) (h : Keeps m a s)
    (hm : Sub 0x1000000 m) : Keeps m a (setV s t r l) :=
  keeps_lift h hm (by
    have h : Keeps 0x1000000 s s := keeps_refl _ _
    unfold setV
    repeat' first
      | intro _ | with_reducible assumption | with_reducible exact rfl | exact rfl | exact Or.inl rfl | with_reducible exact Or.inr rfl
      | exact Or.inr rfl | with_reducible apply kf_ite | with_reducible apply atOffset_keeps | with_reducible apply kf_done
      | with_reducible apply kf_jump | with_reducible apply kf_wait | with_reducible exact kf_trap | with_reducible apply kf_trapAfter
      | with_reducible apply tileMod_keeps | simp only [↓keepsMk_eq] | with_reducible apply keepsMk_intro | dsimp only | split)

/-- What `raise` keeps. -/
theorem raise_keeps {m : Nat} {a : State} (s : State) (t : Nat) (f : Nat) (h : Keeps m a s)
    (hm : Sub 0x1000000 m) : Keeps m a (raise s t f) :=
  keeps_lift h hm (by
    have h : Keeps 0x1000000 s s := keeps_refl _ _
    unfold raise
    repeat' first
      | intro _ | with_reducible assumption | with_reducible exact rfl | exact rfl | exact Or.inl rfl | with_reducible exact Or.inr rfl
      | exact Or.inr rfl | with_reducible apply kf_ite | with_reducible apply atOffset_keeps | with_reducible apply kf_done
      | with_reducible apply kf_jump | with_reducible apply kf_wait | with_reducible exact kf_trap | with_reducible apply kf_trapAfter
      | with_reducible apply tileMod_keeps | simp only [↓keepsMk_eq] | with_reducible apply keepsMk_intro | dsimp only | split)

/-- What `setRes` keeps. -/
theorem setRes_keeps {m : Nat} {a : State} (s : State) (t : Nat) (r : Nat) (l : List FpRes) (h : Keeps m a s)
    (hm : Sub 0x1000000 m) : Keeps m a (setRes s t r l) :=
  keeps_lift h hm (by
    have h : Keeps 0x1000000 s s := keeps_refl _ _
    unfold setRes
    repeat' first
      | intro _ | with_reducible assumption | with_reducible exact rfl | exact rfl | exact Or.inl rfl | with_reducible exact Or.inr rfl
      | exact Or.inr rfl | with_reducible apply kf_ite | with_reducible apply atOffset_keeps | with_reducible apply kf_done
      | with_reducible apply kf_jump | with_reducible apply kf_wait | with_reducible exact kf_trap | with_reducible apply kf_trapAfter
      | with_reducible apply raise_keeps | with_reducible apply setV_keeps | simp only [↓keepsMk_eq] | with_reducible apply keepsMk_intro
      | dsimp only | split)

/-- What `vec2` keeps. -/
theorem vec2_keeps {m : Nat} {a : State} (s : State) (t : Nat) (o : Nat) (f : Nat → Nat → FpRes) (h : Keeps m a s)
    (hm : Sub 0xa42271ee200 m) : Keeps m a (vec2 s t o f) :=
  keeps_lift h hm (by
    have h : Keeps 0xa42271ee200 s s := keeps_refl _ _
    unfold vec2
    repeat' first
      | intro _ | with_reducible assumption | with_reducible exact rfl | exact rfl | with_reducible apply kf_ite
      | with_reducible apply atOffset_keeps | with_reducible apply kf_done | with_reducible apply kf_jump | with_reducible apply kf_wait
      | with_reducible exact kf_trap | with_reducible apply kf_trapAfter | with_reducible apply tileOp_keeps
      | with_reducible apply setRes_keeps | dsimp only | split)

/-- What `vecTrans` keeps. -/
theorem vecTrans_keeps {m : Nat} {a : State} (s : State) (t : Nat) (o : Nat) (h : Keeps m a s)
    (hm : Sub 0xa42271ee200 m) : Keeps m a (vecTrans s t o) :=
  keeps_lift h hm (by
    have h : Keeps 0xa42271ee200 s s := keeps_refl _ _
    unfold vecTrans
    repeat' first
      | intro _ | with_reducible assumption | with_reducible exact rfl | exact rfl | with_reducible apply kf_ite
      | with_reducible apply atOffset_keeps | with_reducible apply kf_done | with_reducible apply kf_jump | with_reducible apply kf_wait
      | with_reducible exact kf_trap | with_reducible apply kf_trapAfter | with_reducible apply tileOp_keeps
      | with_reducible apply setRes_keeps | dsimp only | split)

/-- What `execTVld` keeps. -/
theorem execTVld_keeps {m : Nat} {a : State} (tile : Nat) (s : State) (h : Keeps m a s)
    (hm : Sub 0xa42271ee200 m) : KN m a (execTVld tile s) :=
  kn_lift h hm (by
    have h : Keeps 0xa42271ee200 s s := keeps_refl _ _
    unfold execTVld
    repeat' first
      | intro _ | with_reducible assumption | with_reducible exact rfl | exact rfl | with_reducible apply kn_next
      | with_reducible apply kf_ite | with_reducible apply atOffset_keeps | with_reducible apply kf_done | with_reducible apply kf_jump
      | with_reducible apply kf_wait | with_reducible exact kf_trap | with_reducible apply kf_trapAfter
      | with_reducible apply tileOp_keeps | with_reducible apply reading_keeps | with_reducible apply setV_keeps | dsimp only | split)

/-- What `execTVst` keeps. -/
theorem execTVst_keeps {m : Nat} {a : State} (tile : Nat) (s : State) (h : Keeps m a s)
    (hm : Sub 0x10a42271ee200 m) : KN m a (execTVst tile s) :=
  kn_lift h hm (by
    have h : Keeps 0x10a42271ee200 s s := keeps_refl _ _
    unfold execTVst
    repeat' first
      | intro _ | with_reducible assumption | with_reducible exact rfl | exact rfl | with_reducible apply kn_next
      | with_reducible apply kf_ite | with_reducible apply atOffset_keeps | with_reducible apply kf_done | with_reducible apply kf_jump
      | with_reducible apply kf_wait | with_reducible exact kf_trap | with_reducible apply kf_trapAfter
      | with_reducible apply tileOp_keeps | with_reducible apply tileStore_keeps | dsimp only | split)

/-- What `execTVldh` keeps. -/
theorem execTVldh_keeps {m : Nat} {a : State} (tile : Nat) (s : State) (h : Keeps m a s)
    (hm : Sub 0xa42271ee200 m) : KN m a (execTVldh tile s) :=
  kn_lift h hm (by
    have h : Keeps 0xa42271ee200 s s := keeps_refl _ _
    unfold execTVldh
    repeat' first
      | intro _ | with_reducible assumption | with_reducible exact rfl | exact rfl | with_reducible apply kn_next
      | with_reducible apply kf_ite | with_reducible apply atOffset_keeps | with_reducible apply kf_done | with_reducible apply kf_jump
      | with_reducible apply kf_wait | with_reducible exact kf_trap | with_reducible apply kf_trapAfter
      | with_reducible apply tileOp_keeps | with_reducible apply reading_keeps | with_reducible apply setRes_keeps | dsimp only | split)

/-- What `execTVsth` keeps. -/
theorem execTVsth_keeps {m : Nat} {a : State} (tile : Nat) (s : State) (h : Keeps m a s)
    (hm : Sub 0x10a42271ee200 m) : KN m a (execTVsth tile s) :=
  kn_lift h hm (by
    have h : Keeps 0x10a42271ee200 s s := keeps_refl _ _
    unfold execTVsth
    repeat' first
      | intro _ | with_reducible assumption | with_reducible exact rfl | exact rfl | with_reducible apply kn_next
      | with_reducible apply kf_ite | with_reducible apply atOffset_keeps | with_reducible apply kf_done | with_reducible apply kf_jump
      | with_reducible apply kf_wait | with_reducible exact kf_trap | with_reducible apply kf_trapAfter
      | with_reducible apply tileOp_keeps | with_reducible apply raise_keeps | with_reducible apply tileStore_keeps | dsimp only | split)

/-- What `execTVldmx` keeps. -/
theorem execTVldmx_keeps {m : Nat} {a : State} (tile : Nat) (s : State) (h : Keeps m a s)
    (hm : Sub 0xa42271ee200 m) : KN m a (execTVldmx tile s) :=
  kn_lift h hm (by
    have h : Keeps 0xa42271ee200 s s := keeps_refl _ _
    unfold execTVldmx
    repeat' first
      | intro _ | with_reducible assumption | with_reducible exact rfl | exact rfl | with_reducible apply kn_next
      | with_reducible apply kf_ite | with_reducible apply atOffset_keeps | with_reducible apply kf_done | with_reducible apply kf_jump
      | with_reducible apply kf_wait | with_reducible exact kf_trap | with_reducible apply kf_trapAfter
      | with_reducible apply tileOp_keeps | with_reducible apply reading_keeps | with_reducible apply setV_keeps
      | with_reducible apply keeps_ite | dsimp only | split)

/-- What `execTVstmx` keeps. -/
theorem execTVstmx_keeps {m : Nat} {a : State} (tile : Nat) (s : State) (h : Keeps m a s)
    (hm : Sub 0x10a42271ee200 m) : KN m a (execTVstmx tile s) :=
  kn_lift h hm (by
    have h : Keeps 0x10a42271ee200 s s := keeps_refl _ _
    unfold execTVstmx
    repeat' first
      | intro _ | with_reducible assumption | with_reducible exact rfl | exact rfl | with_reducible apply kn_next
      | with_reducible apply kf_ite | with_reducible apply atOffset_keeps | with_reducible apply kf_done | with_reducible apply kf_jump
      | with_reducible apply kf_wait | with_reducible exact kf_trap | with_reducible apply kf_trapAfter
      | with_reducible apply tileOp_keeps | with_reducible apply tileStore_keeps | with_reducible apply keeps_ite | dsimp only | split)

/-- What `execTVadd` keeps. -/
theorem execTVadd_keeps {m : Nat} {a : State} (tile : Nat) (s : State) (h : Keeps m a s)
    (hm : Sub 0xa42271ee200 m) : KN m a (execTVadd tile s) :=
  kn_lift h hm (by
    have h : Keeps 0xa42271ee200 s s := keeps_refl _ _
    unfold execTVadd
    repeat' first
      | intro _ | with_reducible assumption | with_reducible exact rfl | exact rfl | with_reducible apply kn_next
      | with_reducible apply kf_ite | with_reducible apply atOffset_keeps | with_reducible apply kf_done | with_reducible apply kf_jump
      | with_reducible apply kf_wait | with_reducible exact kf_trap | with_reducible apply kf_trapAfter | with_reducible apply vec2_keeps
      | dsimp only)

/-- What `execTVsub` keeps. -/
theorem execTVsub_keeps {m : Nat} {a : State} (tile : Nat) (s : State) (h : Keeps m a s)
    (hm : Sub 0xa42271ee200 m) : KN m a (execTVsub tile s) :=
  kn_lift h hm (by
    have h : Keeps 0xa42271ee200 s s := keeps_refl _ _
    unfold execTVsub
    repeat' first
      | intro _ | with_reducible assumption | with_reducible exact rfl | exact rfl | with_reducible apply kn_next
      | with_reducible apply kf_ite | with_reducible apply atOffset_keeps | with_reducible apply kf_done | with_reducible apply kf_jump
      | with_reducible apply kf_wait | with_reducible exact kf_trap | with_reducible apply kf_trapAfter | with_reducible apply vec2_keeps
      | dsimp only)

/-- What `execTVmul` keeps. -/
theorem execTVmul_keeps {m : Nat} {a : State} (tile : Nat) (s : State) (h : Keeps m a s)
    (hm : Sub 0xa42271ee200 m) : KN m a (execTVmul tile s) :=
  kn_lift h hm (by
    have h : Keeps 0xa42271ee200 s s := keeps_refl _ _
    unfold execTVmul
    repeat' first
      | intro _ | with_reducible assumption | with_reducible exact rfl | exact rfl | with_reducible apply kn_next
      | with_reducible apply kf_ite | with_reducible apply atOffset_keeps | with_reducible apply kf_done | with_reducible apply kf_jump
      | with_reducible apply kf_wait | with_reducible exact kf_trap | with_reducible apply kf_trapAfter | with_reducible apply vec2_keeps
      | dsimp only)

/-- What `execTVfma` keeps. -/
theorem execTVfma_keeps {m : Nat} {a : State} (tile : Nat) (s : State) (h : Keeps m a s)
    (hm : Sub 0xa42271ee200 m) : KN m a (execTVfma tile s) :=
  kn_lift h hm (by
    have h : Keeps 0xa42271ee200 s s := keeps_refl _ _
    unfold execTVfma
    repeat' first
      | intro _ | with_reducible assumption | with_reducible exact rfl | exact rfl | with_reducible apply kn_next
      | with_reducible apply kf_ite | with_reducible apply atOffset_keeps | with_reducible apply kf_done | with_reducible apply kf_jump
      | with_reducible apply kf_wait | with_reducible exact kf_trap | with_reducible apply kf_trapAfter
      | with_reducible apply tileOp_keeps | with_reducible apply setRes_keeps | dsimp only | split)

/-- What `execTVmax` keeps. -/
theorem execTVmax_keeps {m : Nat} {a : State} (tile : Nat) (s : State) (h : Keeps m a s)
    (hm : Sub 0xa42271ee200 m) : KN m a (execTVmax tile s) :=
  kn_lift h hm (by
    have h : Keeps 0xa42271ee200 s s := keeps_refl _ _
    unfold execTVmax
    repeat' first
      | intro _ | with_reducible assumption | with_reducible exact rfl | exact rfl | with_reducible apply kn_next
      | with_reducible apply kf_ite | with_reducible apply atOffset_keeps | with_reducible apply kf_done | with_reducible apply kf_jump
      | with_reducible apply kf_wait | with_reducible exact kf_trap | with_reducible apply kf_trapAfter | with_reducible apply vec2_keeps
      | dsimp only)

/-- What `execTVmin` keeps. -/
theorem execTVmin_keeps {m : Nat} {a : State} (tile : Nat) (s : State) (h : Keeps m a s)
    (hm : Sub 0xa42271ee200 m) : KN m a (execTVmin tile s) :=
  kn_lift h hm (by
    have h : Keeps 0xa42271ee200 s s := keeps_refl _ _
    unfold execTVmin
    repeat' first
      | intro _ | with_reducible assumption | with_reducible exact rfl | exact rfl | with_reducible apply kn_next
      | with_reducible apply kf_ite | with_reducible apply atOffset_keeps | with_reducible apply kf_done | with_reducible apply kf_jump
      | with_reducible apply kf_wait | with_reducible exact kf_trap | with_reducible apply kf_trapAfter | with_reducible apply vec2_keeps
      | dsimp only)

/-- What `execTVexp2` keeps. -/
theorem execTVexp2_keeps {m : Nat} {a : State} (tile : Nat) (s : State) (h : Keeps m a s)
    (hm : Sub 0xa42271ee200 m) : KN m a (execTVexp2 tile s) :=
  kn_lift h hm (by
    have h : Keeps 0xa42271ee200 s s := keeps_refl _ _
    unfold execTVexp2
    repeat' first
      | intro _ | with_reducible assumption | with_reducible exact rfl | exact rfl | with_reducible apply kn_next
      | with_reducible apply kf_ite | with_reducible apply atOffset_keeps | with_reducible apply kf_done | with_reducible apply kf_jump
      | with_reducible apply kf_wait | with_reducible exact kf_trap | with_reducible apply kf_trapAfter
      | with_reducible apply vecTrans_keeps | dsimp only)

/-- What `execTVlog2` keeps. -/
theorem execTVlog2_keeps {m : Nat} {a : State} (tile : Nat) (s : State) (h : Keeps m a s)
    (hm : Sub 0xa42271ee200 m) : KN m a (execTVlog2 tile s) :=
  kn_lift h hm (by
    have h : Keeps 0xa42271ee200 s s := keeps_refl _ _
    unfold execTVlog2
    repeat' first
      | intro _ | with_reducible assumption | with_reducible exact rfl | exact rfl | with_reducible apply kn_next
      | with_reducible apply kf_ite | with_reducible apply atOffset_keeps | with_reducible apply kf_done | with_reducible apply kf_jump
      | with_reducible apply kf_wait | with_reducible exact kf_trap | with_reducible apply kf_trapAfter
      | with_reducible apply vecTrans_keeps | dsimp only)

/-- What `execTVrcp` keeps. -/
theorem execTVrcp_keeps {m : Nat} {a : State} (tile : Nat) (s : State) (h : Keeps m a s)
    (hm : Sub 0xa42271ee200 m) : KN m a (execTVrcp tile s) :=
  kn_lift h hm (by
    have h : Keeps 0xa42271ee200 s s := keeps_refl _ _
    unfold execTVrcp
    repeat' first
      | intro _ | with_reducible assumption | with_reducible exact rfl | exact rfl | with_reducible apply kn_next
      | with_reducible apply kf_ite | with_reducible apply atOffset_keeps | with_reducible apply kf_done | with_reducible apply kf_jump
      | with_reducible apply kf_wait | with_reducible exact kf_trap | with_reducible apply kf_trapAfter
      | with_reducible apply vecTrans_keeps | dsimp only)

/-- What `execTVrsq` keeps. -/
theorem execTVrsq_keeps {m : Nat} {a : State} (tile : Nat) (s : State) (h : Keeps m a s)
    (hm : Sub 0xa42271ee200 m) : KN m a (execTVrsq tile s) :=
  kn_lift h hm (by
    have h : Keeps 0xa42271ee200 s s := keeps_refl _ _
    unfold execTVrsq
    repeat' first
      | intro _ | with_reducible assumption | with_reducible exact rfl | exact rfl | with_reducible apply kn_next
      | with_reducible apply kf_ite | with_reducible apply atOffset_keeps | with_reducible apply kf_done | with_reducible apply kf_jump
      | with_reducible apply kf_wait | with_reducible exact kf_trap | with_reducible apply kf_trapAfter
      | with_reducible apply vecTrans_keeps | dsimp only)

/-- What `execTVred` keeps. -/
theorem execTVred_keeps {m : Nat} {a : State} (tile : Nat) (s : State) (h : Keeps m a s)
    (hm : Sub 0xa42271ee200 m) : KN m a (execTVred tile s) :=
  kn_lift h hm (by
    have h : Keeps 0xa42271ee200 s s := keeps_refl _ _
    unfold execTVred
    repeat' first
      | intro _ | with_reducible assumption | with_reducible exact rfl | exact rfl | with_reducible apply kn_next
      | with_reducible apply kf_ite | with_reducible apply atOffset_keeps | with_reducible apply kf_done | with_reducible apply kf_jump
      | with_reducible apply kf_wait | with_reducible exact kf_trap | with_reducible apply kf_trapAfter
      | with_reducible apply tileOp_keeps | with_reducible apply raise_keeps | with_reducible apply setG_keeps | dsimp only | split)

/-- What `execTVint` keeps. -/
theorem execTVint_keeps {m : Nat} {a : State} (tile : Nat) (s : State) (h : Keeps m a s)
    (hm : Sub 0xa42271ee200 m) : KN m a (execTVint tile s) :=
  kn_lift h hm (by
    have h : Keeps 0xa42271ee200 s s := keeps_refl _ _
    unfold execTVint
    repeat' first
      | intro _ | with_reducible assumption | with_reducible exact rfl | exact rfl | with_reducible apply kn_next
      | with_reducible apply kf_ite | with_reducible apply atOffset_keeps | with_reducible apply kf_done | with_reducible apply kf_jump
      | with_reducible apply kf_wait | with_reducible exact kf_trap | with_reducible apply kf_trapAfter
      | with_reducible apply tileOp_keeps | with_reducible apply setV_keeps | dsimp only | split)

/-- What `execTVcmp` keeps. -/
theorem execTVcmp_keeps {m : Nat} {a : State} (tile : Nat) (s : State) (h : Keeps m a s)
    (hm : Sub 0xa42271ee200 m) : KN m a (execTVcmp tile s) :=
  kn_lift h hm (by
    have h : Keeps 0xa42271ee200 s s := keeps_refl _ _
    unfold execTVcmp
    repeat' first
      | intro _ | with_reducible assumption | with_reducible exact rfl | exact rfl | with_reducible apply kn_next
      | with_reducible apply kf_ite | with_reducible apply atOffset_keeps | with_reducible apply kf_done | with_reducible apply kf_jump
      | with_reducible apply kf_wait | with_reducible exact kf_trap | with_reducible apply kf_trapAfter
      | with_reducible apply tileOp_keeps | with_reducible apply setRes_keeps | dsimp only | split)

/-- What `execTVsel` keeps. -/
theorem execTVsel_keeps {m : Nat} {a : State} (tile : Nat) (s : State) (h : Keeps m a s)
    (hm : Sub 0xa42271ee200 m) : KN m a (execTVsel tile s) :=
  kn_lift h hm (by
    have h : Keeps 0xa42271ee200 s s := keeps_refl _ _
    unfold execTVsel
    repeat' first
      | intro _ | with_reducible assumption | with_reducible exact rfl | exact rfl | with_reducible apply kn_next
      | with_reducible apply kf_ite | with_reducible apply atOffset_keeps | with_reducible apply kf_done | with_reducible apply kf_jump
      | with_reducible apply kf_wait | with_reducible exact kf_trap | with_reducible apply kf_trapAfter
      | with_reducible apply tileOp_keeps | with_reducible apply setV_keeps | with_reducible apply keeps_ite | dsimp only | split)

/-- What `execTVbcast` keeps. -/
theorem execTVbcast_keeps {m : Nat} {a : State} (tile : Nat) (s : State) (h : Keeps m a s)
    (hm : Sub 0xa42271ee200 m) : KN m a (execTVbcast tile s) :=
  kn_lift h hm (by
    have h : Keeps 0xa42271ee200 s s := keeps_refl _ _
    unfold execTVbcast
    repeat' first
      | intro _ | with_reducible assumption | with_reducible exact rfl | exact rfl | with_reducible apply kn_next
      | with_reducible apply kf_ite | with_reducible apply atOffset_keeps | with_reducible apply kf_done | with_reducible apply kf_jump
      | with_reducible apply kf_wait | with_reducible exact kf_trap | with_reducible apply kf_trapAfter
      | with_reducible apply tileOp_keeps | with_reducible apply setV_keeps | dsimp only | split)

/-- What `execTVext` keeps. -/
theorem execTVext_keeps {m : Nat} {a : State} (tile : Nat) (s : State) (h : Keeps m a s)
    (hm : Sub 0xa42271ee200 m) : KN m a (execTVext tile s) :=
  kn_lift h hm (by
    have h : Keeps 0xa42271ee200 s s := keeps_refl _ _
    unfold execTVext
    repeat' first
      | intro _ | with_reducible assumption | with_reducible exact rfl | exact rfl | with_reducible apply kn_next
      | with_reducible apply kf_ite | with_reducible apply atOffset_keeps | with_reducible apply kf_done | with_reducible apply kf_jump
      | with_reducible apply kf_wait | with_reducible exact kf_trap | with_reducible apply kf_trapAfter
      | with_reducible apply tileOp_keeps | with_reducible apply setG_keeps | dsimp only | split)

/-- What `execTVins` keeps. -/
theorem execTVins_keeps {m : Nat} {a : State} (tile : Nat) (s : State) (h : Keeps m a s)
    (hm : Sub 0xa42271ee200 m) : KN m a (execTVins tile s) :=
  kn_lift h hm (by
    have h : Keeps 0xa42271ee200 s s := keeps_refl _ _
    unfold execTVins
    repeat' first
      | intro _ | with_reducible assumption | with_reducible exact rfl | exact rfl | exact Or.inl rfl | with_reducible exact Or.inr rfl
      | exact Or.inr rfl | with_reducible apply kn_next | with_reducible apply kf_ite | with_reducible apply atOffset_keeps
      | with_reducible apply kf_done | with_reducible apply kf_jump | with_reducible apply kf_wait | with_reducible exact kf_trap
      | with_reducible apply kf_trapAfter | with_reducible apply tileOp_keeps | with_reducible apply tileMod_keeps
      | simp only [↓keepsMk_eq] | with_reducible apply keepsMk_intro | dsimp only | split)

/-- What `execTVcvt` keeps. -/
theorem execTVcvt_keeps {m : Nat} {a : State} (tile : Nat) (s : State) (h : Keeps m a s)
    (hm : Sub 0xa42271ee200 m) : KN m a (execTVcvt tile s) :=
  kn_lift h hm (by
    have h : Keeps 0xa42271ee200 s s := keeps_refl _ _
    unfold execTVcvt
    repeat' first
      | intro _ | with_reducible assumption | with_reducible exact rfl | exact rfl | with_reducible apply kn_next
      | with_reducible apply kf_ite | with_reducible apply atOffset_keeps | with_reducible apply kf_done | with_reducible apply kf_jump
      | with_reducible apply kf_wait | with_reducible exact kf_trap | with_reducible apply kf_trapAfter
      | with_reducible apply tileOp_keeps | with_reducible apply setRes_keeps | with_reducible apply keeps_ite | dsimp only | split)

end Sys2Proof.Laws
end

