-- ==== Sys2Proof/Laws/KeepsTileMat.lean ====
section
/-! SUPPORT. Every definition of Machine/TileMat.lean keeps what `Keeps` says. -/
namespace Sys2Proof.Laws
open Sys2Proof.Machine Sys2Proof.Safety

/-- A block move whose operands pass. -/
theorem moveCheck_keeps {m : Nat} {a : State} (T : Tile) (n b : Nat) {f : Eff} (h : KF m a f) : KF m a (moveCheck T n b f) := by
  unfold moveCheck
  repeat' first
    | with_reducible assumption
    | with_reducible exact kf_trap
    | with_reducible apply kf_ite
    | with_reducible apply atOffset_keeps
    | dsimp only
    | split

/-- What `accRow` keeps. -/
theorem accRow_keeps {m : Nat} {a : State} (s : State) (t : Nat) (r : Nat) (i : Nat) (l : List Nat) (h : Keeps m a s)
    (hm : Sub 0x1000000 m) : Keeps m a (accRow s t r i l) :=
  keeps_lift h hm (by
    have h : Keeps 0x1000000 s s := keeps_refl _ _
    unfold accRow
    repeat' first
      | intro _ | with_reducible assumption | with_reducible exact rfl | exact rfl | exact Or.inl rfl | with_reducible exact Or.inr rfl
      | exact Or.inr rfl | with_reducible apply kf_ite | with_reducible apply atOffset_keeps | with_reducible apply kf_done
      | with_reducible apply kf_jump | with_reducible apply kf_wait | with_reducible exact kf_trap | with_reducible apply kf_trapAfter
      | with_reducible apply tileMod_keeps | simp only [↓keepsMk_eq] | with_reducible apply keepsMk_intro | dsimp only | split)

/-- What `execTMma` keeps. -/
theorem execTMma_keeps {m : Nat} {a : State} (tile : Nat) (s : State) (h : Keeps m a s)
    (hm : Sub 0xa42271ee200 m) : KN m a (execTMma tile s) :=
  kn_lift h hm (by
    have h : Keeps 0xa42271ee200 s s := keeps_refl _ _
    unfold execTMma
    repeat' first
      | intro _ | with_reducible assumption | with_reducible exact rfl | exact rfl | with_reducible apply kn_next
      | with_reducible apply kf_ite | with_reducible apply atOffset_keeps | with_reducible apply kf_done | with_reducible apply kf_jump
      | with_reducible apply kf_wait | with_reducible exact kf_trap | with_reducible apply kf_trapAfter
      | with_reducible apply tileOp_keeps | with_reducible apply accRow_keeps | with_reducible apply keeps_ite
      | with_reducible apply keeps_foldl | dsimp only | split)

/-- What `execTMzero` keeps. -/
theorem execTMzero_keeps {m : Nat} {a : State} (tile : Nat) (s : State) (h : Keeps m a s)
    (hm : Sub 0xa42271ee200 m) : KN m a (execTMzero tile s) :=
  kn_lift h hm (by
    have h : Keeps 0xa42271ee200 s s := keeps_refl _ _
    unfold execTMzero
    repeat' first
      | intro _ | with_reducible assumption | with_reducible exact rfl | exact rfl | exact Or.inl rfl | with_reducible exact Or.inr rfl
      | exact Or.inr rfl | with_reducible apply kn_next | with_reducible apply kf_ite | with_reducible apply atOffset_keeps
      | with_reducible apply kf_done | with_reducible apply kf_jump | with_reducible apply kf_wait | with_reducible exact kf_trap
      | with_reducible apply kf_trapAfter | with_reducible apply tileOp_keeps | with_reducible apply tileMod_keeps
      | simp only [↓keepsMk_eq] | with_reducible apply keepsMk_intro | dsimp only | split)

/-- What `execTMstore` keeps. -/
theorem execTMstore_keeps {m : Nat} {a : State} (tile : Nat) (s : State) (h : Keeps m a s)
    (hm : Sub 0x10a42271ee200 m) : KN m a (execTMstore tile s) :=
  kn_lift h hm (by
    have h : Keeps 0x10a42271ee200 s s := keeps_refl _ _
    unfold execTMstore
    repeat' first
      | intro _ | with_reducible assumption | with_reducible exact rfl | exact rfl | with_reducible apply kn_next
      | with_reducible apply kf_ite | with_reducible apply atOffset_keeps | with_reducible apply kf_done | with_reducible apply kf_jump
      | with_reducible apply kf_wait | with_reducible exact kf_trap | with_reducible apply kf_trapAfter
      | with_reducible apply moveCheck_keeps | with_reducible apply tileOp_keeps | with_reducible apply tileStore_keeps
      | with_reducible apply keeps_ite | with_reducible apply keeps_foldl | dsimp only | split)

/-- What `execTMload` keeps. -/
theorem execTMload_keeps {m : Nat} {a : State} (tile : Nat) (s : State) (h : Keeps m a s)
    (hm : Sub 0xa42271ee200 m) : KN m a (execTMload tile s) :=
  kn_lift h hm (by
    have h : Keeps 0xa42271ee200 s s := keeps_refl _ _
    unfold execTMload
    repeat' first
      | intro _ | with_reducible assumption | with_reducible exact rfl | exact rfl | with_reducible apply kn_next
      | with_reducible apply kf_ite | with_reducible apply atOffset_keeps | with_reducible apply kf_done | with_reducible apply kf_jump
      | with_reducible apply kf_wait | with_reducible exact kf_trap | with_reducible apply kf_trapAfter
      | with_reducible apply moveCheck_keeps | with_reducible apply tileOp_keeps | with_reducible apply accRow_keeps
      | with_reducible apply keeps_ite | with_reducible apply keeps_foldl | dsimp only | split)

/-- What `execTMrow` keeps. -/
theorem execTMrow_keeps {m : Nat} {a : State} (tile : Nat) (s : State) (h : Keeps m a s)
    (hm : Sub 0xa42271ee200 m) : KN m a (execTMrow tile s) :=
  kn_lift h hm (by
    have h : Keeps 0xa42271ee200 s s := keeps_refl _ _
    unfold execTMrow
    repeat' first
      | intro _ | with_reducible assumption | with_reducible exact rfl | exact rfl | with_reducible apply kn_next
      | with_reducible apply kf_ite | with_reducible apply atOffset_keeps | with_reducible apply kf_done | with_reducible apply kf_jump
      | with_reducible apply kf_wait | with_reducible exact kf_trap | with_reducible apply kf_trapAfter
      | with_reducible apply tileOp_keeps | with_reducible apply setV_keeps | with_reducible apply keeps_ite | dsimp only | split)

/-- What `execTMsetrow` keeps. -/
theorem execTMsetrow_keeps {m : Nat} {a : State} (tile : Nat) (s : State) (h : Keeps m a s)
    (hm : Sub 0xa42271ee200 m) : KN m a (execTMsetrow tile s) :=
  kn_lift h hm (by
    have h : Keeps 0xa42271ee200 s s := keeps_refl _ _
    unfold execTMsetrow
    repeat' first
      | intro _ | with_reducible assumption | with_reducible exact rfl | exact rfl | with_reducible apply kn_next
      | with_reducible apply kf_ite | with_reducible apply atOffset_keeps | with_reducible apply kf_done | with_reducible apply kf_jump
      | with_reducible apply kf_wait | with_reducible exact kf_trap | with_reducible apply kf_trapAfter
      | with_reducible apply tileOp_keeps | with_reducible apply accRow_keeps | with_reducible apply keeps_ite | dsimp only | split)

end Sys2Proof.Laws
end

