-- ==== Sys2Proof/Laws/KeepsRun.lean ====
section
/-! SUPPORT. Every definition of Machine/Run.lean keeps what `Keeps` says. -/
namespace Sys2Proof.Laws
open Sys2Proof.Machine Sys2Proof.Safety

/-- What `takeCredit` keeps. -/
theorem takeCredit_keeps {m : Nat} {a : State} (s : State) (k : Packet) (b : List Byte) (h : Keeps m a s)
    (hm : Sub 0x5024182200 m) : Keeps m a (takeCredit s k b) :=
  keeps_lift h hm (by
    have h : Keeps 0x5024182200 s s := keeps_refl _ _
    unfold takeCredit
    repeat' first
      | intro _ | with_reducible assumption | with_reducible exact rfl | exact rfl | with_reducible apply nextOf_keeps
      | with_reducible apply execCreditGrantReceive_keeps | with_reducible apply execCreditDemandReceive_keeps
      | with_reducible apply keeps_ite | dsimp only | split | refine kn_get ?_ (by with_reducible assumption))

/-- What `takeCredits` keeps. -/
theorem takeCredits_keeps {m : Nat} {a : State} (s : State) (k : Packet) (h : Keeps m a s)
    (hm : Sub 0x5024182200 m) : Keeps m a (takeCredits s k) :=
  keeps_lift h hm (by
    have h : Keeps 0x5024182200 s s := keeps_refl _ _
    unfold takeCredits
    repeat' first
      | intro _ | with_reducible assumption | with_reducible exact rfl | exact rfl | with_reducible apply takeCredit_keeps
      | with_reducible apply keeps_foldl | dsimp only | split)

/-- What `takeConnect` keeps. -/
theorem takeConnect_keeps {m : Nat} {a : State} (s : State) (k : Packet) (h : Keeps m a s)
    (hm : Sub 0x10c5e261ee204 m) : Keeps m a (takeConnect s k) :=
  keeps_lift h hm (by
    have h : Keeps 0x10c5e261ee204 s s := keeps_refl _ _
    unfold takeConnect
    repeat' first
      | intro _ | with_reducible assumption | with_reducible exact rfl | exact rfl | with_reducible apply nextOf_keeps
      | with_reducible apply execConnectReqReceive_keeps | with_reducible apply execConnectAccReceive_keeps
      | with_reducible apply execConnectRejReceive_keeps | with_reducible apply execConnectCloseReceive_keeps
      | with_reducible apply execCloseAckReceive_keeps | dsimp only | split | refine kn_get ?_ (by with_reducible assumption))

/-- What `takePacket` keeps. -/
theorem takePacket_keeps {m : Nat} {a : State} (s : State) (k : Packet) (h : Keeps m a s)
    (hm : Sub 0x11e5e279ee204 m) : Keeps m a (takePacket s k) :=
  keeps_lift h hm (by
    have h : Keeps 0x11e5e279ee204 s s := keeps_refl _ _
    unfold takePacket
    repeat' first
      | intro _ | with_reducible assumption | with_reducible exact rfl | exact rfl | with_reducible apply nextOf_keeps
      | with_reducible apply execMcCellReceive_keeps | with_reducible apply headsPacket_keeps | with_reducible apply execAckReceive_keeps
      | with_reducible apply takeConnect_keeps | with_reducible apply takeCredits_keeps | with_reducible apply responsePacket_keeps
      | with_reducible apply dataPacket_keeps | with_reducible apply keeps_ite | dsimp only | split
      | refine kn_get ?_ (by with_reducible assumption))

/-- What `issuerEnds` keeps. -/
theorem issuerEnds_keeps {m : Nat} {a : State} (s : State) (i : Issuer) (status : Nat) (h : Keeps m a s)
    (hm : Sub 0x10f5e279ee204 m) : Keeps m a (issuerEnds s i status) :=
  keeps_lift h hm (by
    have h : Keeps 0x10f5e279ee204 s s := keeps_refl _ _
    unfold issuerEnds
    repeat' first
      | intro _ | with_reducible assumption | with_reducible exact rfl | exact rfl | with_reducible apply tileMsgEnd_keeps
      | with_reducible apply scbMsgEnd_keeps | with_reducible apply scbFinish_keeps | with_reducible apply scbAbort_keeps
      | with_reducible apply keeps_ite | dsimp only | split)

/-- What `runWaiter` keeps. -/
theorem runWaiter_keeps {m : Nat} {a : State} (s : State) (w : Waiter) (h : Keeps m a s)
    (hm : Sub 0x19fff27ffe204 m) : Keeps m a (runWaiter s w) :=
  keeps_lift h hm (by
    have h : Keeps 0x19fff27ffe204 s s := keeps_refl _ _
    unfold runWaiter
    repeat' first
      | intro _ | with_reducible assumption | with_reducible exact rfl | exact rfl | with_reducible apply acceptAll_keeps
      | with_reducible apply winWrite_keeps | with_reducible apply winRead_keeps | with_reducible apply portWriteAt_keeps
      | with_reducible apply portReadAt_keeps | with_reducible apply nextOf_keeps | with_reducible apply execMemoryWrite_keeps
      | with_reducible apply execMemoryRead_keeps | with_reducible apply ringRead_keeps | with_reducible apply takeFrags_keeps
      | with_reducible apply entryStart_keeps | with_reducible apply entryFinish_keeps | with_reducible apply headWrite_keeps
      | with_reducible apply takePacket_keeps | with_reducible apply placeFrame_keeps | with_reducible apply schedulerPick_keeps
      | with_reducible apply runHead_keeps | with_reducible apply issuerEnds_keeps | with_reducible apply burstStart_keeps
      | with_reducible apply scbNodeGone_keeps | with_reducible apply laneLater_keeps | dsimp only | split
      | refine kn_get ?_ (by with_reducible assumption))

end Sys2Proof.Laws
end

