-- ==== Sys2Proof/Laws/State.lean ====
section
/-! SUPPORT. What the direct updates of the state leave alone: one lemma per field and update, true by unfolding. -/
namespace Sys2Proof.Laws
open Sys2Proof.Machine

/-! `ctxMod` -/
@[simp] theorem ctxMod_variant (s : State) (c : Nat) (f : Ctx → Ctx) : (ctxMod s c f).variant = s.variant := rfl
@[simp] theorem ctxMod_time (s : State) (c : Nat) (f : Ctx → Ctx) : (ctxMod s c f).time = s.time := rfl
@[simp] theorem ctxMod_freeCtr (s : State) (c : Nat) (f : Ctx → Ctx) : (ctxMod s c f).freeCtr = s.freeCtr := rfl
@[simp] theorem ctxMod_regs (s : State) (c : Nat) (f : Ctx → Ctx) : (ctxMod s c f).regs = s.regs := rfl
@[simp] theorem ctxMod_pw (s : State) (c : Nat) (f : Ctx → Ctx) : (ctxMod s c f).pw = s.pw := rfl
@[simp] theorem ctxMod_boot (s : State) (c : Nat) (f : Ctx → Ctx) : (ctxMod s c f).boot = s.boot := rfl
@[simp] theorem ctxMod_flash (s : State) (c : Nat) (f : Ctx → Ctx) : (ctxMod s c f).flash = s.flash := rfl
@[simp] theorem ctxMod_fuses (s : State) (c : Nat) (f : Ctx → Ctx) : (ctxMod s c f).fuses = s.fuses := rfl
@[simp] theorem ctxMod_cic (s : State) (c : Nat) (f : Ctx → Ctx) : (ctxMod s c f).cic = s.cic := rfl
@[simp] theorem ctxMod_fns (s : State) (c : Nat) (f : Ctx → Ctx) : (ctxMod s c f).fns = s.fns := rfl
@[simp] theorem ctxMod_owners (s : State) (c : Nat) (f : Ctx → Ctx) : (ctxMod s c f).owners = s.owners := rfl
@[simp] theorem ctxMod_qlocal (s : State) (c : Nat) (f : Ctx → Ctx) : (ctxMod s c f).qlocal = s.qlocal := rfl
@[simp] theorem ctxMod_commits (s : State) (c : Nat) (f : Ctx → Ctx) : (ctxMod s c f).commits = s.commits := rfl
@[simp] theorem ctxMod_hif (s : State) (c : Nat) (f : Ctx → Ctx) : (ctxMod s c f).hif = s.hif := rfl
@[simp] theorem ctxMod_sqm (s : State) (c : Nat) (f : Ctx → Ctx) : (ctxMod s c f).sqm = s.sqm := rfl
@[simp] theorem ctxMod_fev (s : State) (c : Nat) (f : Ctx → Ctx) : (ctxMod s c f).fev = s.fev := rfl
@[simp] theorem ctxMod_mem (s : State) (c : Nat) (f : Ctx → Ctx) : (ctxMod s c f).mem = s.mem := rfl
@[simp] theorem ctxMod_queues (s : State) (c : Nat) (f : Ctx → Ctx) : (ctxMod s c f).queues = s.queues := rfl
@[simp] theorem ctxMod_tpe (s : State) (c : Nat) (f : Ctx → Ctx) : (ctxMod s c f).tpe = s.tpe := rfl
@[simp] theorem ctxMod_frt (s : State) (c : Nat) (f : Ctx → Ctx) : (ctxMod s c f).frt = s.frt := rfl
@[simp] theorem ctxMod_eports (s : State) (c : Nat) (f : Ctx → Ctx) : (ctxMod s c f).eports = s.eports := rfl
@[simp] theorem ctxMod_lns (s : State) (c : Nat) (f : Ctx → Ctx) : (ctxMod s c f).lns = s.lns := rfl
@[simp] theorem ctxMod_scb (s : State) (c : Nat) (f : Ctx → Ctx) : (ctxMod s c f).scb = s.scb := rfl
@[simp] theorem ctxMod_tgd (s : State) (c : Nat) (f : Ctx → Ctx) : (ctxMod s c f).tgd = s.tgd := rfl
@[simp] theorem ctxMod_cph (s : State) (c : Nat) (f : Ctx → Ctx) : (ctxMod s c f).cph = s.cph := rfl
@[simp] theorem ctxMod_ccs (s : State) (c : Nat) (f : Ctx → Ctx) : (ctxMod s c f).ccs = s.ccs := rfl
@[simp] theorem ctxMod_tenants (s : State) (c : Nat) (f : Ctx → Ctx) : (ctxMod s c f).tenants = s.tenants := rfl
@[simp] theorem ctxMod_rsp (s : State) (c : Nat) (f : Ctx → Ctx) : (ctxMod s c f).rsp = s.rsp := rfl
@[simp] theorem ctxMod_out (s : State) (c : Nat) (f : Ctx → Ctx) : (ctxMod s c f).out = s.out := rfl
@[simp] theorem ctxMod_pending (s : State) (c : Nat) (f : Ctx → Ctx) : (ctxMod s c f).pending = s.pending := rfl

/-! `purge` -/
@[simp] theorem purge_variant (s : State) (c : Nat) (p : Cached → Bool) : (purge s c p).variant = s.variant := rfl
@[simp] theorem purge_time (s : State) (c : Nat) (p : Cached → Bool) : (purge s c p).time = s.time := rfl
@[simp] theorem purge_freeCtr (s : State) (c : Nat) (p : Cached → Bool) : (purge s c p).freeCtr = s.freeCtr := rfl
@[simp] theorem purge_regs (s : State) (c : Nat) (p : Cached → Bool) : (purge s c p).regs = s.regs := rfl
@[simp] theorem purge_pw (s : State) (c : Nat) (p : Cached → Bool) : (purge s c p).pw = s.pw := rfl
@[simp] theorem purge_boot (s : State) (c : Nat) (p : Cached → Bool) : (purge s c p).boot = s.boot := rfl
@[simp] theorem purge_flash (s : State) (c : Nat) (p : Cached → Bool) : (purge s c p).flash = s.flash := rfl
@[simp] theorem purge_fuses (s : State) (c : Nat) (p : Cached → Bool) : (purge s c p).fuses = s.fuses := rfl
@[simp] theorem purge_cic (s : State) (c : Nat) (p : Cached → Bool) : (purge s c p).cic = s.cic := rfl
@[simp] theorem purge_fns (s : State) (c : Nat) (p : Cached → Bool) : (purge s c p).fns = s.fns := rfl
@[simp] theorem purge_owners (s : State) (c : Nat) (p : Cached → Bool) : (purge s c p).owners = s.owners := rfl
@[simp] theorem purge_qlocal (s : State) (c : Nat) (p : Cached → Bool) : (purge s c p).qlocal = s.qlocal := rfl
@[simp] theorem purge_commits (s : State) (c : Nat) (p : Cached → Bool) : (purge s c p).commits = s.commits := rfl
@[simp] theorem purge_hif (s : State) (c : Nat) (p : Cached → Bool) : (purge s c p).hif = s.hif := rfl
@[simp] theorem purge_sqm (s : State) (c : Nat) (p : Cached → Bool) : (purge s c p).sqm = s.sqm := rfl
@[simp] theorem purge_fev (s : State) (c : Nat) (p : Cached → Bool) : (purge s c p).fev = s.fev := rfl
@[simp] theorem purge_mem (s : State) (c : Nat) (p : Cached → Bool) : (purge s c p).mem = s.mem := rfl
@[simp] theorem purge_queues (s : State) (c : Nat) (p : Cached → Bool) : (purge s c p).queues = s.queues := rfl
@[simp] theorem purge_tpe (s : State) (c : Nat) (p : Cached → Bool) : (purge s c p).tpe = s.tpe := rfl
@[simp] theorem purge_frt (s : State) (c : Nat) (p : Cached → Bool) : (purge s c p).frt = s.frt := rfl
@[simp] theorem purge_eports (s : State) (c : Nat) (p : Cached → Bool) : (purge s c p).eports = s.eports := rfl
@[simp] theorem purge_lns (s : State) (c : Nat) (p : Cached → Bool) : (purge s c p).lns = s.lns := rfl
@[simp] theorem purge_scb (s : State) (c : Nat) (p : Cached → Bool) : (purge s c p).scb = s.scb := rfl
@[simp] theorem purge_tgd (s : State) (c : Nat) (p : Cached → Bool) : (purge s c p).tgd = s.tgd := rfl
@[simp] theorem purge_cph (s : State) (c : Nat) (p : Cached → Bool) : (purge s c p).cph = s.cph := rfl
@[simp] theorem purge_ccs (s : State) (c : Nat) (p : Cached → Bool) : (purge s c p).ccs = s.ccs := rfl
@[simp] theorem purge_tenants (s : State) (c : Nat) (p : Cached → Bool) : (purge s c p).tenants = s.tenants := rfl
@[simp] theorem purge_rsp (s : State) (c : Nat) (p : Cached → Bool) : (purge s c p).rsp = s.rsp := rfl
@[simp] theorem purge_out (s : State) (c : Nat) (p : Cached → Bool) : (purge s c p).out = s.out := rfl
@[simp] theorem purge_pending (s : State) (c : Nat) (p : Cached → Bool) : (purge s c p).pending = s.pending := rfl

/-! `cachePut` -/
@[simp] theorem cachePut_variant (s : State) (e : Cached) : (cachePut s e).variant = s.variant := rfl
@[simp] theorem cachePut_time (s : State) (e : Cached) : (cachePut s e).time = s.time := rfl
@[simp] theorem cachePut_freeCtr (s : State) (e : Cached) : (cachePut s e).freeCtr = s.freeCtr := rfl
@[simp] theorem cachePut_regs (s : State) (e : Cached) : (cachePut s e).regs = s.regs := rfl
@[simp] theorem cachePut_pw (s : State) (e : Cached) : (cachePut s e).pw = s.pw := rfl
@[simp] theorem cachePut_boot (s : State) (e : Cached) : (cachePut s e).boot = s.boot := rfl
@[simp] theorem cachePut_flash (s : State) (e : Cached) : (cachePut s e).flash = s.flash := rfl
@[simp] theorem cachePut_fuses (s : State) (e : Cached) : (cachePut s e).fuses = s.fuses := rfl
@[simp] theorem cachePut_cic (s : State) (e : Cached) : (cachePut s e).cic = s.cic := rfl
@[simp] theorem cachePut_fns (s : State) (e : Cached) : (cachePut s e).fns = s.fns := rfl
@[simp] theorem cachePut_owners (s : State) (e : Cached) : (cachePut s e).owners = s.owners := rfl
@[simp] theorem cachePut_qlocal (s : State) (e : Cached) : (cachePut s e).qlocal = s.qlocal := rfl
@[simp] theorem cachePut_commits (s : State) (e : Cached) : (cachePut s e).commits = s.commits := rfl
@[simp] theorem cachePut_hif (s : State) (e : Cached) : (cachePut s e).hif = s.hif := rfl
@[simp] theorem cachePut_sqm (s : State) (e : Cached) : (cachePut s e).sqm = s.sqm := rfl
@[simp] theorem cachePut_fev (s : State) (e : Cached) : (cachePut s e).fev = s.fev := rfl
@[simp] theorem cachePut_mem (s : State) (e : Cached) : (cachePut s e).mem = s.mem := rfl
@[simp] theorem cachePut_queues (s : State) (e : Cached) : (cachePut s e).queues = s.queues := rfl
@[simp] theorem cachePut_tpe (s : State) (e : Cached) : (cachePut s e).tpe = s.tpe := rfl
@[simp] theorem cachePut_frt (s : State) (e : Cached) : (cachePut s e).frt = s.frt := rfl
@[simp] theorem cachePut_eports (s : State) (e : Cached) : (cachePut s e).eports = s.eports := rfl
@[simp] theorem cachePut_lns (s : State) (e : Cached) : (cachePut s e).lns = s.lns := rfl
@[simp] theorem cachePut_scb (s : State) (e : Cached) : (cachePut s e).scb = s.scb := rfl
@[simp] theorem cachePut_tgd (s : State) (e : Cached) : (cachePut s e).tgd = s.tgd := rfl
@[simp] theorem cachePut_cph (s : State) (e : Cached) : (cachePut s e).cph = s.cph := rfl
@[simp] theorem cachePut_ccs (s : State) (e : Cached) : (cachePut s e).ccs = s.ccs := rfl
@[simp] theorem cachePut_tenants (s : State) (e : Cached) : (cachePut s e).tenants = s.tenants := rfl
@[simp] theorem cachePut_rsp (s : State) (e : Cached) : (cachePut s e).rsp = s.rsp := rfl
@[simp] theorem cachePut_out (s : State) (e : Cached) : (cachePut s e).out = s.out := rfl
@[simp] theorem cachePut_pending (s : State) (e : Cached) : (cachePut s e).pending = s.pending := rfl

/-! `forgetRecords` -/
@[simp] theorem forgetRecords_variant (s : State) (c : Nat) (base : Nat) : (forgetRecords s c base).variant = s.variant := rfl
@[simp] theorem forgetRecords_time (s : State) (c : Nat) (base : Nat) : (forgetRecords s c base).time = s.time := rfl
@[simp] theorem forgetRecords_freeCtr (s : State) (c : Nat) (base : Nat) : (forgetRecords s c base).freeCtr = s.freeCtr := rfl
@[simp] theorem forgetRecords_regs (s : State) (c : Nat) (base : Nat) : (forgetRecords s c base).regs = s.regs := rfl
@[simp] theorem forgetRecords_pw (s : State) (c : Nat) (base : Nat) : (forgetRecords s c base).pw = s.pw := rfl
@[simp] theorem forgetRecords_boot (s : State) (c : Nat) (base : Nat) : (forgetRecords s c base).boot = s.boot := rfl
@[simp] theorem forgetRecords_flash (s : State) (c : Nat) (base : Nat) : (forgetRecords s c base).flash = s.flash := rfl
@[simp] theorem forgetRecords_fuses (s : State) (c : Nat) (base : Nat) : (forgetRecords s c base).fuses = s.fuses := rfl
@[simp] theorem forgetRecords_cic (s : State) (c : Nat) (base : Nat) : (forgetRecords s c base).cic = s.cic := rfl
@[simp] theorem forgetRecords_fns (s : State) (c : Nat) (base : Nat) : (forgetRecords s c base).fns = s.fns := rfl
@[simp] theorem forgetRecords_owners (s : State) (c : Nat) (base : Nat) : (forgetRecords s c base).owners = s.owners := rfl
@[simp] theorem forgetRecords_qlocal (s : State) (c : Nat) (base : Nat) : (forgetRecords s c base).qlocal = s.qlocal := rfl
@[simp] theorem forgetRecords_commits (s : State) (c : Nat) (base : Nat) : (forgetRecords s c base).commits = s.commits := rfl
@[simp] theorem forgetRecords_hif (s : State) (c : Nat) (base : Nat) : (forgetRecords s c base).hif = s.hif := rfl
@[simp] theorem forgetRecords_sqm (s : State) (c : Nat) (base : Nat) : (forgetRecords s c base).sqm = s.sqm := rfl
@[simp] theorem forgetRecords_fev (s : State) (c : Nat) (base : Nat) : (forgetRecords s c base).fev = s.fev := rfl
@[simp] theorem forgetRecords_mem (s : State) (c : Nat) (base : Nat) : (forgetRecords s c base).mem = s.mem := rfl
@[simp] theorem forgetRecords_atu (s : State) (c : Nat) (base : Nat) : (forgetRecords s c base).atu = s.atu := rfl
@[simp] theorem forgetRecords_queues (s : State) (c : Nat) (base : Nat) : (forgetRecords s c base).queues = s.queues := rfl
@[simp] theorem forgetRecords_tpe (s : State) (c : Nat) (base : Nat) : (forgetRecords s c base).tpe = s.tpe := rfl
@[simp] theorem forgetRecords_frt (s : State) (c : Nat) (base : Nat) : (forgetRecords s c base).frt = s.frt := rfl
@[simp] theorem forgetRecords_eports (s : State) (c : Nat) (base : Nat) : (forgetRecords s c base).eports = s.eports := rfl
@[simp] theorem forgetRecords_lns (s : State) (c : Nat) (base : Nat) : (forgetRecords s c base).lns = s.lns := rfl
@[simp] theorem forgetRecords_scb (s : State) (c : Nat) (base : Nat) : (forgetRecords s c base).scb = s.scb := rfl
@[simp] theorem forgetRecords_tgd (s : State) (c : Nat) (base : Nat) : (forgetRecords s c base).tgd = s.tgd := rfl
@[simp] theorem forgetRecords_ccs (s : State) (c : Nat) (base : Nat) : (forgetRecords s c base).ccs = s.ccs := rfl
@[simp] theorem forgetRecords_tenants (s : State) (c : Nat) (base : Nat) : (forgetRecords s c base).tenants = s.tenants := rfl
@[simp] theorem forgetRecords_rsp (s : State) (c : Nat) (base : Nat) : (forgetRecords s c base).rsp = s.rsp := rfl
@[simp] theorem forgetRecords_out (s : State) (c : Nat) (base : Nat) : (forgetRecords s c base).out = s.out := rfl
@[simp] theorem forgetRecords_pending (s : State) (c : Nat) (base : Nat) : (forgetRecords s c base).pending = s.pending := rfl

/-! `stageBytes` -/
@[simp] theorem stageBytes_variant (s : State) (t : Nat) (c : Nat) (base : Nat) (r : Nat) (off : Nat) (b : List Byte) (ep : Bool) : (stageBytes s t c base r off b ep).variant = s.variant := rfl
@[simp] theorem stageBytes_time (s : State) (t : Nat) (c : Nat) (base : Nat) (r : Nat) (off : Nat) (b : List Byte) (ep : Bool) : (stageBytes s t c base r off b ep).time = s.time := rfl
@[simp] theorem stageBytes_freeCtr (s : State) (t : Nat) (c : Nat) (base : Nat) (r : Nat) (off : Nat) (b : List Byte) (ep : Bool) : (stageBytes s t c base r off b ep).freeCtr = s.freeCtr := rfl
@[simp] theorem stageBytes_regs (s : State) (t : Nat) (c : Nat) (base : Nat) (r : Nat) (off : Nat) (b : List Byte) (ep : Bool) : (stageBytes s t c base r off b ep).regs = s.regs := rfl
@[simp] theorem stageBytes_pw (s : State) (t : Nat) (c : Nat) (base : Nat) (r : Nat) (off : Nat) (b : List Byte) (ep : Bool) : (stageBytes s t c base r off b ep).pw = s.pw := rfl
@[simp] theorem stageBytes_boot (s : State) (t : Nat) (c : Nat) (base : Nat) (r : Nat) (off : Nat) (b : List Byte) (ep : Bool) : (stageBytes s t c base r off b ep).boot = s.boot := rfl
@[simp] theorem stageBytes_flash (s : State) (t : Nat) (c : Nat) (base : Nat) (r : Nat) (off : Nat) (b : List Byte) (ep : Bool) : (stageBytes s t c base r off b ep).flash = s.flash := rfl
@[simp] theorem stageBytes_fuses (s : State) (t : Nat) (c : Nat) (base : Nat) (r : Nat) (off : Nat) (b : List Byte) (ep : Bool) : (stageBytes s t c base r off b ep).fuses = s.fuses := rfl
@[simp] theorem stageBytes_cic (s : State) (t : Nat) (c : Nat) (base : Nat) (r : Nat) (off : Nat) (b : List Byte) (ep : Bool) : (stageBytes s t c base r off b ep).cic = s.cic := rfl
@[simp] theorem stageBytes_fns (s : State) (t : Nat) (c : Nat) (base : Nat) (r : Nat) (off : Nat) (b : List Byte) (ep : Bool) : (stageBytes s t c base r off b ep).fns = s.fns := rfl
@[simp] theorem stageBytes_owners (s : State) (t : Nat) (c : Nat) (base : Nat) (r : Nat) (off : Nat) (b : List Byte) (ep : Bool) : (stageBytes s t c base r off b ep).owners = s.owners := rfl
@[simp] theorem stageBytes_qlocal (s : State) (t : Nat) (c : Nat) (base : Nat) (r : Nat) (off : Nat) (b : List Byte) (ep : Bool) : (stageBytes s t c base r off b ep).qlocal = s.qlocal := rfl
@[simp] theorem stageBytes_commits (s : State) (t : Nat) (c : Nat) (base : Nat) (r : Nat) (off : Nat) (b : List Byte) (ep : Bool) : (stageBytes s t c base r off b ep).commits = s.commits := rfl
@[simp] theorem stageBytes_hif (s : State) (t : Nat) (c : Nat) (base : Nat) (r : Nat) (off : Nat) (b : List Byte) (ep : Bool) : (stageBytes s t c base r off b ep).hif = s.hif := rfl
@[simp] theorem stageBytes_sqm (s : State) (t : Nat) (c : Nat) (base : Nat) (r : Nat) (off : Nat) (b : List Byte) (ep : Bool) : (stageBytes s t c base r off b ep).sqm = s.sqm := rfl
@[simp] theorem stageBytes_fev (s : State) (t : Nat) (c : Nat) (base : Nat) (r : Nat) (off : Nat) (b : List Byte) (ep : Bool) : (stageBytes s t c base r off b ep).fev = s.fev := rfl
@[simp] theorem stageBytes_mem (s : State) (t : Nat) (c : Nat) (base : Nat) (r : Nat) (off : Nat) (b : List Byte) (ep : Bool) : (stageBytes s t c base r off b ep).mem = s.mem := rfl
@[simp] theorem stageBytes_atu (s : State) (t : Nat) (c : Nat) (base : Nat) (r : Nat) (off : Nat) (b : List Byte) (ep : Bool) : (stageBytes s t c base r off b ep).atu = s.atu := rfl
@[simp] theorem stageBytes_queues (s : State) (t : Nat) (c : Nat) (base : Nat) (r : Nat) (off : Nat) (b : List Byte) (ep : Bool) : (stageBytes s t c base r off b ep).queues = s.queues := rfl
@[simp] theorem stageBytes_tpe (s : State) (t : Nat) (c : Nat) (base : Nat) (r : Nat) (off : Nat) (b : List Byte) (ep : Bool) : (stageBytes s t c base r off b ep).tpe = s.tpe := rfl
@[simp] theorem stageBytes_frt (s : State) (t : Nat) (c : Nat) (base : Nat) (r : Nat) (off : Nat) (b : List Byte) (ep : Bool) : (stageBytes s t c base r off b ep).frt = s.frt := rfl
@[simp] theorem stageBytes_eports (s : State) (t : Nat) (c : Nat) (base : Nat) (r : Nat) (off : Nat) (b : List Byte) (ep : Bool) : (stageBytes s t c base r off b ep).eports = s.eports := rfl
@[simp] theorem stageBytes_lns (s : State) (t : Nat) (c : Nat) (base : Nat) (r : Nat) (off : Nat) (b : List Byte) (ep : Bool) : (stageBytes s t c base r off b ep).lns = s.lns := rfl
@[simp] theorem stageBytes_scb (s : State) (t : Nat) (c : Nat) (base : Nat) (r : Nat) (off : Nat) (b : List Byte) (ep : Bool) : (stageBytes s t c base r off b ep).scb = s.scb := rfl
@[simp] theorem stageBytes_tgd (s : State) (t : Nat) (c : Nat) (base : Nat) (r : Nat) (off : Nat) (b : List Byte) (ep : Bool) : (stageBytes s t c base r off b ep).tgd = s.tgd := rfl
@[simp] theorem stageBytes_ccs (s : State) (t : Nat) (c : Nat) (base : Nat) (r : Nat) (off : Nat) (b : List Byte) (ep : Bool) : (stageBytes s t c base r off b ep).ccs = s.ccs := rfl
@[simp] theorem stageBytes_tenants (s : State) (t : Nat) (c : Nat) (base : Nat) (r : Nat) (off : Nat) (b : List Byte) (ep : Bool) : (stageBytes s t c base r off b ep).tenants = s.tenants := rfl
@[simp] theorem stageBytes_rsp (s : State) (t : Nat) (c : Nat) (base : Nat) (r : Nat) (off : Nat) (b : List Byte) (ep : Bool) : (stageBytes s t c base r off b ep).rsp = s.rsp := rfl
@[simp] theorem stageBytes_out (s : State) (t : Nat) (c : Nat) (base : Nat) (r : Nat) (off : Nat) (b : List Byte) (ep : Bool) : (stageBytes s t c base r off b ep).out = s.out := rfl
@[simp] theorem stageBytes_pending (s : State) (t : Nat) (c : Nat) (base : Nat) (r : Nat) (off : Nat) (b : List Byte) (ep : Bool) : (stageBytes s t c base r off b ep).pending = s.pending := rfl

/-! `regionMod` -/
@[simp] theorem regionMod_variant (s : State) (i : Nat) (f : Region → Region) : (regionMod s i f).variant = s.variant := rfl
@[simp] theorem regionMod_time (s : State) (i : Nat) (f : Region → Region) : (regionMod s i f).time = s.time := rfl
@[simp] theorem regionMod_freeCtr (s : State) (i : Nat) (f : Region → Region) : (regionMod s i f).freeCtr = s.freeCtr := rfl
@[simp] theorem regionMod_regs (s : State) (i : Nat) (f : Region → Region) : (regionMod s i f).regs = s.regs := rfl
@[simp] theorem regionMod_pw (s : State) (i : Nat) (f : Region → Region) : (regionMod s i f).pw = s.pw := rfl
@[simp] theorem regionMod_boot (s : State) (i : Nat) (f : Region → Region) : (regionMod s i f).boot = s.boot := rfl
@[simp] theorem regionMod_flash (s : State) (i : Nat) (f : Region → Region) : (regionMod s i f).flash = s.flash := rfl
@[simp] theorem regionMod_fuses (s : State) (i : Nat) (f : Region → Region) : (regionMod s i f).fuses = s.fuses := rfl
@[simp] theorem regionMod_cic (s : State) (i : Nat) (f : Region → Region) : (regionMod s i f).cic = s.cic := rfl
@[simp] theorem regionMod_fns (s : State) (i : Nat) (f : Region → Region) : (regionMod s i f).fns = s.fns := rfl
@[simp] theorem regionMod_owners (s : State) (i : Nat) (f : Region → Region) : (regionMod s i f).owners = s.owners := rfl
@[simp] theorem regionMod_qlocal (s : State) (i : Nat) (f : Region → Region) : (regionMod s i f).qlocal = s.qlocal := rfl
@[simp] theorem regionMod_commits (s : State) (i : Nat) (f : Region → Region) : (regionMod s i f).commits = s.commits := rfl
@[simp] theorem regionMod_hif (s : State) (i : Nat) (f : Region → Region) : (regionMod s i f).hif = s.hif := rfl
@[simp] theorem regionMod_sqm (s : State) (i : Nat) (f : Region → Region) : (regionMod s i f).sqm = s.sqm := rfl
@[simp] theorem regionMod_fev (s : State) (i : Nat) (f : Region → Region) : (regionMod s i f).fev = s.fev := rfl
@[simp] theorem regionMod_mem (s : State) (i : Nat) (f : Region → Region) : (regionMod s i f).mem = s.mem := rfl
@[simp] theorem regionMod_queues (s : State) (i : Nat) (f : Region → Region) : (regionMod s i f).queues = s.queues := rfl
@[simp] theorem regionMod_tpe (s : State) (i : Nat) (f : Region → Region) : (regionMod s i f).tpe = s.tpe := rfl
@[simp] theorem regionMod_frt (s : State) (i : Nat) (f : Region → Region) : (regionMod s i f).frt = s.frt := rfl
@[simp] theorem regionMod_eports (s : State) (i : Nat) (f : Region → Region) : (regionMod s i f).eports = s.eports := rfl
@[simp] theorem regionMod_lns (s : State) (i : Nat) (f : Region → Region) : (regionMod s i f).lns = s.lns := rfl
@[simp] theorem regionMod_scb (s : State) (i : Nat) (f : Region → Region) : (regionMod s i f).scb = s.scb := rfl
@[simp] theorem regionMod_tgd (s : State) (i : Nat) (f : Region → Region) : (regionMod s i f).tgd = s.tgd := rfl
@[simp] theorem regionMod_cph (s : State) (i : Nat) (f : Region → Region) : (regionMod s i f).cph = s.cph := rfl
@[simp] theorem regionMod_ccs (s : State) (i : Nat) (f : Region → Region) : (regionMod s i f).ccs = s.ccs := rfl
@[simp] theorem regionMod_tenants (s : State) (i : Nat) (f : Region → Region) : (regionMod s i f).tenants = s.tenants := rfl
@[simp] theorem regionMod_rsp (s : State) (i : Nat) (f : Region → Region) : (regionMod s i f).rsp = s.rsp := rfl
@[simp] theorem regionMod_out (s : State) (i : Nat) (f : Region → Region) : (regionMod s i f).out = s.out := rfl
@[simp] theorem regionMod_pending (s : State) (i : Nat) (f : Region → Region) : (regionMod s i f).pending = s.pending := rfl

/-! `slotMod` -/
@[simp] theorem slotMod_variant (s : State) (i : Nat) (f : Slot → Slot) : (slotMod s i f).variant = s.variant := rfl
@[simp] theorem slotMod_time (s : State) (i : Nat) (f : Slot → Slot) : (slotMod s i f).time = s.time := rfl
@[simp] theorem slotMod_freeCtr (s : State) (i : Nat) (f : Slot → Slot) : (slotMod s i f).freeCtr = s.freeCtr := rfl
@[simp] theorem slotMod_regs (s : State) (i : Nat) (f : Slot → Slot) : (slotMod s i f).regs = s.regs := rfl
@[simp] theorem slotMod_pw (s : State) (i : Nat) (f : Slot → Slot) : (slotMod s i f).pw = s.pw := rfl
@[simp] theorem slotMod_boot (s : State) (i : Nat) (f : Slot → Slot) : (slotMod s i f).boot = s.boot := rfl
@[simp] theorem slotMod_fuses (s : State) (i : Nat) (f : Slot → Slot) : (slotMod s i f).fuses = s.fuses := rfl
@[simp] theorem slotMod_cic (s : State) (i : Nat) (f : Slot → Slot) : (slotMod s i f).cic = s.cic := rfl
@[simp] theorem slotMod_fns (s : State) (i : Nat) (f : Slot → Slot) : (slotMod s i f).fns = s.fns := rfl
@[simp] theorem slotMod_owners (s : State) (i : Nat) (f : Slot → Slot) : (slotMod s i f).owners = s.owners := rfl
@[simp] theorem slotMod_qlocal (s : State) (i : Nat) (f : Slot → Slot) : (slotMod s i f).qlocal = s.qlocal := rfl
@[simp] theorem slotMod_commits (s : State) (i : Nat) (f : Slot → Slot) : (slotMod s i f).commits = s.commits := rfl
@[simp] theorem slotMod_hif (s : State) (i : Nat) (f : Slot → Slot) : (slotMod s i f).hif = s.hif := rfl
@[simp] theorem slotMod_sqm (s : State) (i : Nat) (f : Slot → Slot) : (slotMod s i f).sqm = s.sqm := rfl
@[simp] theorem slotMod_fev (s : State) (i : Nat) (f : Slot → Slot) : (slotMod s i f).fev = s.fev := rfl
@[simp] theorem slotMod_mem (s : State) (i : Nat) (f : Slot → Slot) : (slotMod s i f).mem = s.mem := rfl
@[simp] theorem slotMod_atu (s : State) (i : Nat) (f : Slot → Slot) : (slotMod s i f).atu = s.atu := rfl
@[simp] theorem slotMod_queues (s : State) (i : Nat) (f : Slot → Slot) : (slotMod s i f).queues = s.queues := rfl
@[simp] theorem slotMod_tpe (s : State) (i : Nat) (f : Slot → Slot) : (slotMod s i f).tpe = s.tpe := rfl
@[simp] theorem slotMod_frt (s : State) (i : Nat) (f : Slot → Slot) : (slotMod s i f).frt = s.frt := rfl
@[simp] theorem slotMod_eports (s : State) (i : Nat) (f : Slot → Slot) : (slotMod s i f).eports = s.eports := rfl
@[simp] theorem slotMod_lns (s : State) (i : Nat) (f : Slot → Slot) : (slotMod s i f).lns = s.lns := rfl
@[simp] theorem slotMod_scb (s : State) (i : Nat) (f : Slot → Slot) : (slotMod s i f).scb = s.scb := rfl
@[simp] theorem slotMod_tgd (s : State) (i : Nat) (f : Slot → Slot) : (slotMod s i f).tgd = s.tgd := rfl
@[simp] theorem slotMod_cph (s : State) (i : Nat) (f : Slot → Slot) : (slotMod s i f).cph = s.cph := rfl
@[simp] theorem slotMod_ccs (s : State) (i : Nat) (f : Slot → Slot) : (slotMod s i f).ccs = s.ccs := rfl
@[simp] theorem slotMod_tenants (s : State) (i : Nat) (f : Slot → Slot) : (slotMod s i f).tenants = s.tenants := rfl
@[simp] theorem slotMod_rsp (s : State) (i : Nat) (f : Slot → Slot) : (slotMod s i f).rsp = s.rsp := rfl
@[simp] theorem slotMod_out (s : State) (i : Nat) (f : Slot → Slot) : (slotMod s i f).out = s.out := rfl
@[simp] theorem slotMod_pending (s : State) (i : Nat) (f : Slot → Slot) : (slotMod s i f).pending = s.pending := rfl

/-! `setClock` -/
@[simp] theorem setClock_variant (s : State) (mhz : Nat) : (setClock s mhz).variant = s.variant := rfl
@[simp] theorem setClock_time (s : State) (mhz : Nat) : (setClock s mhz).time = s.time := rfl
@[simp] theorem setClock_freeCtr (s : State) (mhz : Nat) : (setClock s mhz).freeCtr = s.freeCtr := rfl
@[simp] theorem setClock_regs (s : State) (mhz : Nat) : (setClock s mhz).regs = s.regs := rfl
@[simp] theorem setClock_boot (s : State) (mhz : Nat) : (setClock s mhz).boot = s.boot := rfl
@[simp] theorem setClock_flash (s : State) (mhz : Nat) : (setClock s mhz).flash = s.flash := rfl
@[simp] theorem setClock_fuses (s : State) (mhz : Nat) : (setClock s mhz).fuses = s.fuses := rfl
@[simp] theorem setClock_cic (s : State) (mhz : Nat) : (setClock s mhz).cic = s.cic := rfl
@[simp] theorem setClock_fns (s : State) (mhz : Nat) : (setClock s mhz).fns = s.fns := rfl
@[simp] theorem setClock_owners (s : State) (mhz : Nat) : (setClock s mhz).owners = s.owners := rfl
@[simp] theorem setClock_qlocal (s : State) (mhz : Nat) : (setClock s mhz).qlocal = s.qlocal := rfl
@[simp] theorem setClock_commits (s : State) (mhz : Nat) : (setClock s mhz).commits = s.commits := rfl
@[simp] theorem setClock_hif (s : State) (mhz : Nat) : (setClock s mhz).hif = s.hif := rfl
@[simp] theorem setClock_sqm (s : State) (mhz : Nat) : (setClock s mhz).sqm = s.sqm := rfl
@[simp] theorem setClock_fev (s : State) (mhz : Nat) : (setClock s mhz).fev = s.fev := rfl
@[simp] theorem setClock_mem (s : State) (mhz : Nat) : (setClock s mhz).mem = s.mem := rfl
@[simp] theorem setClock_atu (s : State) (mhz : Nat) : (setClock s mhz).atu = s.atu := rfl
@[simp] theorem setClock_queues (s : State) (mhz : Nat) : (setClock s mhz).queues = s.queues := rfl
@[simp] theorem setClock_tpe (s : State) (mhz : Nat) : (setClock s mhz).tpe = s.tpe := rfl
@[simp] theorem setClock_frt (s : State) (mhz : Nat) : (setClock s mhz).frt = s.frt := rfl
@[simp] theorem setClock_eports (s : State) (mhz : Nat) : (setClock s mhz).eports = s.eports := rfl
@[simp] theorem setClock_lns (s : State) (mhz : Nat) : (setClock s mhz).lns = s.lns := rfl
@[simp] theorem setClock_scb (s : State) (mhz : Nat) : (setClock s mhz).scb = s.scb := rfl
@[simp] theorem setClock_tgd (s : State) (mhz : Nat) : (setClock s mhz).tgd = s.tgd := rfl
@[simp] theorem setClock_cph (s : State) (mhz : Nat) : (setClock s mhz).cph = s.cph := rfl
@[simp] theorem setClock_ccs (s : State) (mhz : Nat) : (setClock s mhz).ccs = s.ccs := rfl
@[simp] theorem setClock_tenants (s : State) (mhz : Nat) : (setClock s mhz).tenants = s.tenants := rfl
@[simp] theorem setClock_rsp (s : State) (mhz : Nat) : (setClock s mhz).rsp = s.rsp := rfl
@[simp] theorem setClock_out (s : State) (mhz : Nat) : (setClock s mhz).out = s.out := rfl
@[simp] theorem setClock_pending (s : State) (mhz : Nat) : (setClock s mhz).pending = s.pending := rfl

/-! `measured` -/
@[simp] theorem measured_variant (s : State) (i : Nat) (b : List Byte) : (measured s i b).variant = s.variant := rfl
@[simp] theorem measured_time (s : State) (i : Nat) (b : List Byte) : (measured s i b).time = s.time := rfl
@[simp] theorem measured_freeCtr (s : State) (i : Nat) (b : List Byte) : (measured s i b).freeCtr = s.freeCtr := rfl
@[simp] theorem measured_regs (s : State) (i : Nat) (b : List Byte) : (measured s i b).regs = s.regs := rfl
@[simp] theorem measured_pw (s : State) (i : Nat) (b : List Byte) : (measured s i b).pw = s.pw := rfl
@[simp] theorem measured_boot (s : State) (i : Nat) (b : List Byte) : (measured s i b).boot = s.boot := rfl
@[simp] theorem measured_flash (s : State) (i : Nat) (b : List Byte) : (measured s i b).flash = s.flash := rfl
@[simp] theorem measured_fuses (s : State) (i : Nat) (b : List Byte) : (measured s i b).fuses = s.fuses := rfl
@[simp] theorem measured_cic (s : State) (i : Nat) (b : List Byte) : (measured s i b).cic = s.cic := rfl
@[simp] theorem measured_fns (s : State) (i : Nat) (b : List Byte) : (measured s i b).fns = s.fns := rfl
@[simp] theorem measured_owners (s : State) (i : Nat) (b : List Byte) : (measured s i b).owners = s.owners := rfl
@[simp] theorem measured_qlocal (s : State) (i : Nat) (b : List Byte) : (measured s i b).qlocal = s.qlocal := rfl
@[simp] theorem measured_commits (s : State) (i : Nat) (b : List Byte) : (measured s i b).commits = s.commits := rfl
@[simp] theorem measured_hif (s : State) (i : Nat) (b : List Byte) : (measured s i b).hif = s.hif := rfl
@[simp] theorem measured_sqm (s : State) (i : Nat) (b : List Byte) : (measured s i b).sqm = s.sqm := rfl
@[simp] theorem measured_fev (s : State) (i : Nat) (b : List Byte) : (measured s i b).fev = s.fev := rfl
@[simp] theorem measured_mem (s : State) (i : Nat) (b : List Byte) : (measured s i b).mem = s.mem := rfl
@[simp] theorem measured_atu (s : State) (i : Nat) (b : List Byte) : (measured s i b).atu = s.atu := rfl
@[simp] theorem measured_queues (s : State) (i : Nat) (b : List Byte) : (measured s i b).queues = s.queues := rfl
@[simp] theorem measured_tpe (s : State) (i : Nat) (b : List Byte) : (measured s i b).tpe = s.tpe := rfl
@[simp] theorem measured_frt (s : State) (i : Nat) (b : List Byte) : (measured s i b).frt = s.frt := rfl
@[simp] theorem measured_eports (s : State) (i : Nat) (b : List Byte) : (measured s i b).eports = s.eports := rfl
@[simp] theorem measured_lns (s : State) (i : Nat) (b : List Byte) : (measured s i b).lns = s.lns := rfl
@[simp] theorem measured_scb (s : State) (i : Nat) (b : List Byte) : (measured s i b).scb = s.scb := rfl
@[simp] theorem measured_tgd (s : State) (i : Nat) (b : List Byte) : (measured s i b).tgd = s.tgd := rfl
@[simp] theorem measured_cph (s : State) (i : Nat) (b : List Byte) : (measured s i b).cph = s.cph := rfl
@[simp] theorem measured_ccs (s : State) (i : Nat) (b : List Byte) : (measured s i b).ccs = s.ccs := rfl
@[simp] theorem measured_tenants (s : State) (i : Nat) (b : List Byte) : (measured s i b).tenants = s.tenants := rfl
@[simp] theorem measured_out (s : State) (i : Nat) (b : List Byte) : (measured s i b).out = s.out := rfl
@[simp] theorem measured_pending (s : State) (i : Nat) (b : List Byte) : (measured s i b).pending = s.pending := rfl

/-! `egressMod` -/
@[simp] theorem egressMod_variant (s : State) (e : Nat) (f : Egress → Egress) : (egressMod s e f).variant = s.variant := rfl
@[simp] theorem egressMod_time (s : State) (e : Nat) (f : Egress → Egress) : (egressMod s e f).time = s.time := rfl
@[simp] theorem egressMod_freeCtr (s : State) (e : Nat) (f : Egress → Egress) : (egressMod s e f).freeCtr = s.freeCtr := rfl
@[simp] theorem egressMod_regs (s : State) (e : Nat) (f : Egress → Egress) : (egressMod s e f).regs = s.regs := rfl
@[simp] theorem egressMod_pw (s : State) (e : Nat) (f : Egress → Egress) : (egressMod s e f).pw = s.pw := rfl
@[simp] theorem egressMod_boot (s : State) (e : Nat) (f : Egress → Egress) : (egressMod s e f).boot = s.boot := rfl
@[simp] theorem egressMod_flash (s : State) (e : Nat) (f : Egress → Egress) : (egressMod s e f).flash = s.flash := rfl
@[simp] theorem egressMod_fuses (s : State) (e : Nat) (f : Egress → Egress) : (egressMod s e f).fuses = s.fuses := rfl
@[simp] theorem egressMod_cic (s : State) (e : Nat) (f : Egress → Egress) : (egressMod s e f).cic = s.cic := rfl
@[simp] theorem egressMod_fns (s : State) (e : Nat) (f : Egress → Egress) : (egressMod s e f).fns = s.fns := rfl
@[simp] theorem egressMod_owners (s : State) (e : Nat) (f : Egress → Egress) : (egressMod s e f).owners = s.owners := rfl
@[simp] theorem egressMod_qlocal (s : State) (e : Nat) (f : Egress → Egress) : (egressMod s e f).qlocal = s.qlocal := rfl
@[simp] theorem egressMod_commits (s : State) (e : Nat) (f : Egress → Egress) : (egressMod s e f).commits = s.commits := rfl
@[simp] theorem egressMod_hif (s : State) (e : Nat) (f : Egress → Egress) : (egressMod s e f).hif = s.hif := rfl
@[simp] theorem egressMod_sqm (s : State) (e : Nat) (f : Egress → Egress) : (egressMod s e f).sqm = s.sqm := rfl
@[simp] theorem egressMod_fev (s : State) (e : Nat) (f : Egress → Egress) : (egressMod s e f).fev = s.fev := rfl
@[simp] theorem egressMod_mem (s : State) (e : Nat) (f : Egress → Egress) : (egressMod s e f).mem = s.mem := rfl
@[simp] theorem egressMod_atu (s : State) (e : Nat) (f : Egress → Egress) : (egressMod s e f).atu = s.atu := rfl
@[simp] theorem egressMod_queues (s : State) (e : Nat) (f : Egress → Egress) : (egressMod s e f).queues = s.queues := rfl
@[simp] theorem egressMod_tpe (s : State) (e : Nat) (f : Egress → Egress) : (egressMod s e f).tpe = s.tpe := rfl
@[simp] theorem egressMod_frt (s : State) (e : Nat) (f : Egress → Egress) : (egressMod s e f).frt = s.frt := rfl
@[simp] theorem egressMod_eports (s : State) (e : Nat) (f : Egress → Egress) : (egressMod s e f).eports = s.eports := rfl
@[simp] theorem egressMod_lns (s : State) (e : Nat) (f : Egress → Egress) : (egressMod s e f).lns = s.lns := rfl
@[simp] theorem egressMod_scb (s : State) (e : Nat) (f : Egress → Egress) : (egressMod s e f).scb = s.scb := rfl
@[simp] theorem egressMod_tgd (s : State) (e : Nat) (f : Egress → Egress) : (egressMod s e f).tgd = s.tgd := rfl
@[simp] theorem egressMod_cph (s : State) (e : Nat) (f : Egress → Egress) : (egressMod s e f).cph = s.cph := rfl
@[simp] theorem egressMod_tenants (s : State) (e : Nat) (f : Egress → Egress) : (egressMod s e f).tenants = s.tenants := rfl
@[simp] theorem egressMod_rsp (s : State) (e : Nat) (f : Egress → Egress) : (egressMod s e f).rsp = s.rsp := rfl
@[simp] theorem egressMod_out (s : State) (e : Nat) (f : Egress → Egress) : (egressMod s e f).out = s.out := rfl
@[simp] theorem egressMod_pending (s : State) (e : Nat) (f : Egress → Egress) : (egressMod s e f).pending = s.pending := rfl

/-! `clsMod` -/
@[simp] theorem clsMod_variant (s : State) (e : Nat) (c : Nat) (f : Machine.Class → Machine.Class) : (clsMod s e c f).variant = s.variant := rfl
@[simp] theorem clsMod_time (s : State) (e : Nat) (c : Nat) (f : Machine.Class → Machine.Class) : (clsMod s e c f).time = s.time := rfl
@[simp] theorem clsMod_freeCtr (s : State) (e : Nat) (c : Nat) (f : Machine.Class → Machine.Class) : (clsMod s e c f).freeCtr = s.freeCtr := rfl
@[simp] theorem clsMod_regs (s : State) (e : Nat) (c : Nat) (f : Machine.Class → Machine.Class) : (clsMod s e c f).regs = s.regs := rfl
@[simp] theorem clsMod_pw (s : State) (e : Nat) (c : Nat) (f : Machine.Class → Machine.Class) : (clsMod s e c f).pw = s.pw := rfl
@[simp] theorem clsMod_boot (s : State) (e : Nat) (c : Nat) (f : Machine.Class → Machine.Class) : (clsMod s e c f).boot = s.boot := rfl
@[simp] theorem clsMod_flash (s : State) (e : Nat) (c : Nat) (f : Machine.Class → Machine.Class) : (clsMod s e c f).flash = s.flash := rfl
@[simp] theorem clsMod_fuses (s : State) (e : Nat) (c : Nat) (f : Machine.Class → Machine.Class) : (clsMod s e c f).fuses = s.fuses := rfl
@[simp] theorem clsMod_cic (s : State) (e : Nat) (c : Nat) (f : Machine.Class → Machine.Class) : (clsMod s e c f).cic = s.cic := rfl
@[simp] theorem clsMod_fns (s : State) (e : Nat) (c : Nat) (f : Machine.Class → Machine.Class) : (clsMod s e c f).fns = s.fns := rfl
@[simp] theorem clsMod_owners (s : State) (e : Nat) (c : Nat) (f : Machine.Class → Machine.Class) : (clsMod s e c f).owners = s.owners := rfl
@[simp] theorem clsMod_qlocal (s : State) (e : Nat) (c : Nat) (f : Machine.Class → Machine.Class) : (clsMod s e c f).qlocal = s.qlocal := rfl
@[simp] theorem clsMod_commits (s : State) (e : Nat) (c : Nat) (f : Machine.Class → Machine.Class) : (clsMod s e c f).commits = s.commits := rfl
@[simp] theorem clsMod_hif (s : State) (e : Nat) (c : Nat) (f : Machine.Class → Machine.Class) : (clsMod s e c f).hif = s.hif := rfl
@[simp] theorem clsMod_sqm (s : State) (e : Nat) (c : Nat) (f : Machine.Class → Machine.Class) : (clsMod s e c f).sqm = s.sqm := rfl
@[simp] theorem clsMod_fev (s : State) (e : Nat) (c : Nat) (f : Machine.Class → Machine.Class) : (clsMod s e c f).fev = s.fev := rfl
@[simp] theorem clsMod_mem (s : State) (e : Nat) (c : Nat) (f : Machine.Class → Machine.Class) : (clsMod s e c f).mem = s.mem := rfl
@[simp] theorem clsMod_atu (s : State) (e : Nat) (c : Nat) (f : Machine.Class → Machine.Class) : (clsMod s e c f).atu = s.atu := rfl
@[simp] theorem clsMod_queues (s : State) (e : Nat) (c : Nat) (f : Machine.Class → Machine.Class) : (clsMod s e c f).queues = s.queues := rfl
@[simp] theorem clsMod_tpe (s : State) (e : Nat) (c : Nat) (f : Machine.Class → Machine.Class) : (clsMod s e c f).tpe = s.tpe := rfl
@[simp] theorem clsMod_frt (s : State) (e : Nat) (c : Nat) (f : Machine.Class → Machine.Class) : (clsMod s e c f).frt = s.frt := rfl
@[simp] theorem clsMod_eports (s : State) (e : Nat) (c : Nat) (f : Machine.Class → Machine.Class) : (clsMod s e c f).eports = s.eports := rfl
@[simp] theorem clsMod_lns (s : State) (e : Nat) (c : Nat) (f : Machine.Class → Machine.Class) : (clsMod s e c f).lns = s.lns := rfl
@[simp] theorem clsMod_scb (s : State) (e : Nat) (c : Nat) (f : Machine.Class → Machine.Class) : (clsMod s e c f).scb = s.scb := rfl
@[simp] theorem clsMod_tgd (s : State) (e : Nat) (c : Nat) (f : Machine.Class → Machine.Class) : (clsMod s e c f).tgd = s.tgd := rfl
@[simp] theorem clsMod_cph (s : State) (e : Nat) (c : Nat) (f : Machine.Class → Machine.Class) : (clsMod s e c f).cph = s.cph := rfl
@[simp] theorem clsMod_tenants (s : State) (e : Nat) (c : Nat) (f : Machine.Class → Machine.Class) : (clsMod s e c f).tenants = s.tenants := rfl
@[simp] theorem clsMod_rsp (s : State) (e : Nat) (c : Nat) (f : Machine.Class → Machine.Class) : (clsMod s e c f).rsp = s.rsp := rfl
@[simp] theorem clsMod_out (s : State) (e : Nat) (c : Nat) (f : Machine.Class → Machine.Class) : (clsMod s e c f).out = s.out := rfl
@[simp] theorem clsMod_pending (s : State) (e : Nat) (c : Nat) (f : Machine.Class → Machine.Class) : (clsMod s e c f).pending = s.pending := rfl

/-! `connMod` -/
@[simp] theorem connMod_variant (s : State) (c : Nat) (f : Conn → Conn) : (connMod s c f).variant = s.variant := rfl
@[simp] theorem connMod_time (s : State) (c : Nat) (f : Conn → Conn) : (connMod s c f).time = s.time := rfl
@[simp] theorem connMod_freeCtr (s : State) (c : Nat) (f : Conn → Conn) : (connMod s c f).freeCtr = s.freeCtr := rfl
@[simp] theorem connMod_regs (s : State) (c : Nat) (f : Conn → Conn) : (connMod s c f).regs = s.regs := rfl
@[simp] theorem connMod_pw (s : State) (c : Nat) (f : Conn → Conn) : (connMod s c f).pw = s.pw := rfl
@[simp] theorem connMod_boot (s : State) (c : Nat) (f : Conn → Conn) : (connMod s c f).boot = s.boot := rfl
@[simp] theorem connMod_flash (s : State) (c : Nat) (f : Conn → Conn) : (connMod s c f).flash = s.flash := rfl
@[simp] theorem connMod_fuses (s : State) (c : Nat) (f : Conn → Conn) : (connMod s c f).fuses = s.fuses := rfl
@[simp] theorem connMod_cic (s : State) (c : Nat) (f : Conn → Conn) : (connMod s c f).cic = s.cic := rfl
@[simp] theorem connMod_fns (s : State) (c : Nat) (f : Conn → Conn) : (connMod s c f).fns = s.fns := rfl
@[simp] theorem connMod_owners (s : State) (c : Nat) (f : Conn → Conn) : (connMod s c f).owners = s.owners := rfl
@[simp] theorem connMod_qlocal (s : State) (c : Nat) (f : Conn → Conn) : (connMod s c f).qlocal = s.qlocal := rfl
@[simp] theorem connMod_commits (s : State) (c : Nat) (f : Conn → Conn) : (connMod s c f).commits = s.commits := rfl
@[simp] theorem connMod_hif (s : State) (c : Nat) (f : Conn → Conn) : (connMod s c f).hif = s.hif := rfl
@[simp] theorem connMod_sqm (s : State) (c : Nat) (f : Conn → Conn) : (connMod s c f).sqm = s.sqm := rfl
@[simp] theorem connMod_fev (s : State) (c : Nat) (f : Conn → Conn) : (connMod s c f).fev = s.fev := rfl
@[simp] theorem connMod_mem (s : State) (c : Nat) (f : Conn → Conn) : (connMod s c f).mem = s.mem := rfl
@[simp] theorem connMod_atu (s : State) (c : Nat) (f : Conn → Conn) : (connMod s c f).atu = s.atu := rfl
@[simp] theorem connMod_queues (s : State) (c : Nat) (f : Conn → Conn) : (connMod s c f).queues = s.queues := rfl
@[simp] theorem connMod_frt (s : State) (c : Nat) (f : Conn → Conn) : (connMod s c f).frt = s.frt := rfl
@[simp] theorem connMod_eports (s : State) (c : Nat) (f : Conn → Conn) : (connMod s c f).eports = s.eports := rfl
@[simp] theorem connMod_lns (s : State) (c : Nat) (f : Conn → Conn) : (connMod s c f).lns = s.lns := rfl
@[simp] theorem connMod_scb (s : State) (c : Nat) (f : Conn → Conn) : (connMod s c f).scb = s.scb := rfl
@[simp] theorem connMod_tgd (s : State) (c : Nat) (f : Conn → Conn) : (connMod s c f).tgd = s.tgd := rfl
@[simp] theorem connMod_cph (s : State) (c : Nat) (f : Conn → Conn) : (connMod s c f).cph = s.cph := rfl
@[simp] theorem connMod_ccs (s : State) (c : Nat) (f : Conn → Conn) : (connMod s c f).ccs = s.ccs := rfl
@[simp] theorem connMod_tenants (s : State) (c : Nat) (f : Conn → Conn) : (connMod s c f).tenants = s.tenants := rfl
@[simp] theorem connMod_rsp (s : State) (c : Nat) (f : Conn → Conn) : (connMod s c f).rsp = s.rsp := rfl
@[simp] theorem connMod_out (s : State) (c : Nat) (f : Conn → Conn) : (connMod s c f).out = s.out := rfl
@[simp] theorem connMod_pending (s : State) (c : Nat) (f : Conn → Conn) : (connMod s c f).pending = s.pending := rfl

/-! `eportMod` -/
@[simp] theorem eportMod_variant (s : State) (p : Nat) (f : EPort → EPort) : (eportMod s p f).variant = s.variant := rfl
@[simp] theorem eportMod_time (s : State) (p : Nat) (f : EPort → EPort) : (eportMod s p f).time = s.time := rfl
@[simp] theorem eportMod_freeCtr (s : State) (p : Nat) (f : EPort → EPort) : (eportMod s p f).freeCtr = s.freeCtr := rfl
@[simp] theorem eportMod_regs (s : State) (p : Nat) (f : EPort → EPort) : (eportMod s p f).regs = s.regs := rfl
@[simp] theorem eportMod_pw (s : State) (p : Nat) (f : EPort → EPort) : (eportMod s p f).pw = s.pw := rfl
@[simp] theorem eportMod_boot (s : State) (p : Nat) (f : EPort → EPort) : (eportMod s p f).boot = s.boot := rfl
@[simp] theorem eportMod_flash (s : State) (p : Nat) (f : EPort → EPort) : (eportMod s p f).flash = s.flash := rfl
@[simp] theorem eportMod_fuses (s : State) (p : Nat) (f : EPort → EPort) : (eportMod s p f).fuses = s.fuses := rfl
@[simp] theorem eportMod_cic (s : State) (p : Nat) (f : EPort → EPort) : (eportMod s p f).cic = s.cic := rfl
@[simp] theorem eportMod_fns (s : State) (p : Nat) (f : EPort → EPort) : (eportMod s p f).fns = s.fns := rfl
@[simp] theorem eportMod_owners (s : State) (p : Nat) (f : EPort → EPort) : (eportMod s p f).owners = s.owners := rfl
@[simp] theorem eportMod_qlocal (s : State) (p : Nat) (f : EPort → EPort) : (eportMod s p f).qlocal = s.qlocal := rfl
@[simp] theorem eportMod_commits (s : State) (p : Nat) (f : EPort → EPort) : (eportMod s p f).commits = s.commits := rfl
@[simp] theorem eportMod_hif (s : State) (p : Nat) (f : EPort → EPort) : (eportMod s p f).hif = s.hif := rfl
@[simp] theorem eportMod_sqm (s : State) (p : Nat) (f : EPort → EPort) : (eportMod s p f).sqm = s.sqm := rfl
@[simp] theorem eportMod_fev (s : State) (p : Nat) (f : EPort → EPort) : (eportMod s p f).fev = s.fev := rfl
@[simp] theorem eportMod_mem (s : State) (p : Nat) (f : EPort → EPort) : (eportMod s p f).mem = s.mem := rfl
@[simp] theorem eportMod_atu (s : State) (p : Nat) (f : EPort → EPort) : (eportMod s p f).atu = s.atu := rfl
@[simp] theorem eportMod_queues (s : State) (p : Nat) (f : EPort → EPort) : (eportMod s p f).queues = s.queues := rfl
@[simp] theorem eportMod_tpe (s : State) (p : Nat) (f : EPort → EPort) : (eportMod s p f).tpe = s.tpe := rfl
@[simp] theorem eportMod_frt (s : State) (p : Nat) (f : EPort → EPort) : (eportMod s p f).frt = s.frt := rfl
@[simp] theorem eportMod_lns (s : State) (p : Nat) (f : EPort → EPort) : (eportMod s p f).lns = s.lns := rfl
@[simp] theorem eportMod_scb (s : State) (p : Nat) (f : EPort → EPort) : (eportMod s p f).scb = s.scb := rfl
@[simp] theorem eportMod_tgd (s : State) (p : Nat) (f : EPort → EPort) : (eportMod s p f).tgd = s.tgd := rfl
@[simp] theorem eportMod_cph (s : State) (p : Nat) (f : EPort → EPort) : (eportMod s p f).cph = s.cph := rfl
@[simp] theorem eportMod_ccs (s : State) (p : Nat) (f : EPort → EPort) : (eportMod s p f).ccs = s.ccs := rfl
@[simp] theorem eportMod_tenants (s : State) (p : Nat) (f : EPort → EPort) : (eportMod s p f).tenants = s.tenants := rfl
@[simp] theorem eportMod_rsp (s : State) (p : Nat) (f : EPort → EPort) : (eportMod s p f).rsp = s.rsp := rfl
@[simp] theorem eportMod_out (s : State) (p : Nat) (f : EPort → EPort) : (eportMod s p f).out = s.out := rfl
@[simp] theorem eportMod_pending (s : State) (p : Nat) (f : EPort → EPort) : (eportMod s p f).pending = s.pending := rfl

/-! `streamDrop` -/
@[simp] theorem streamDrop_variant (s : State) (q : Nat) (idx : Nat) : (streamDrop s q idx).variant = s.variant := rfl
@[simp] theorem streamDrop_time (s : State) (q : Nat) (idx : Nat) : (streamDrop s q idx).time = s.time := rfl
@[simp] theorem streamDrop_freeCtr (s : State) (q : Nat) (idx : Nat) : (streamDrop s q idx).freeCtr = s.freeCtr := rfl
@[simp] theorem streamDrop_regs (s : State) (q : Nat) (idx : Nat) : (streamDrop s q idx).regs = s.regs := rfl
@[simp] theorem streamDrop_pw (s : State) (q : Nat) (idx : Nat) : (streamDrop s q idx).pw = s.pw := rfl
@[simp] theorem streamDrop_boot (s : State) (q : Nat) (idx : Nat) : (streamDrop s q idx).boot = s.boot := rfl
@[simp] theorem streamDrop_flash (s : State) (q : Nat) (idx : Nat) : (streamDrop s q idx).flash = s.flash := rfl
@[simp] theorem streamDrop_fuses (s : State) (q : Nat) (idx : Nat) : (streamDrop s q idx).fuses = s.fuses := rfl
@[simp] theorem streamDrop_cic (s : State) (q : Nat) (idx : Nat) : (streamDrop s q idx).cic = s.cic := rfl
@[simp] theorem streamDrop_fns (s : State) (q : Nat) (idx : Nat) : (streamDrop s q idx).fns = s.fns := rfl
@[simp] theorem streamDrop_owners (s : State) (q : Nat) (idx : Nat) : (streamDrop s q idx).owners = s.owners := rfl
@[simp] theorem streamDrop_qlocal (s : State) (q : Nat) (idx : Nat) : (streamDrop s q idx).qlocal = s.qlocal := rfl
@[simp] theorem streamDrop_commits (s : State) (q : Nat) (idx : Nat) : (streamDrop s q idx).commits = s.commits := rfl
@[simp] theorem streamDrop_hif (s : State) (q : Nat) (idx : Nat) : (streamDrop s q idx).hif = s.hif := rfl
@[simp] theorem streamDrop_sqm (s : State) (q : Nat) (idx : Nat) : (streamDrop s q idx).sqm = s.sqm := rfl
@[simp] theorem streamDrop_fev (s : State) (q : Nat) (idx : Nat) : (streamDrop s q idx).fev = s.fev := rfl
@[simp] theorem streamDrop_mem (s : State) (q : Nat) (idx : Nat) : (streamDrop s q idx).mem = s.mem := rfl
@[simp] theorem streamDrop_atu (s : State) (q : Nat) (idx : Nat) : (streamDrop s q idx).atu = s.atu := rfl
@[simp] theorem streamDrop_queues (s : State) (q : Nat) (idx : Nat) : (streamDrop s q idx).queues = s.queues := rfl
@[simp] theorem streamDrop_tpe (s : State) (q : Nat) (idx : Nat) : (streamDrop s q idx).tpe = s.tpe := rfl
@[simp] theorem streamDrop_frt (s : State) (q : Nat) (idx : Nat) : (streamDrop s q idx).frt = s.frt := rfl
@[simp] theorem streamDrop_eports (s : State) (q : Nat) (idx : Nat) : (streamDrop s q idx).eports = s.eports := rfl
@[simp] theorem streamDrop_lns (s : State) (q : Nat) (idx : Nat) : (streamDrop s q idx).lns = s.lns := rfl
@[simp] theorem streamDrop_scb (s : State) (q : Nat) (idx : Nat) : (streamDrop s q idx).scb = s.scb := rfl
@[simp] theorem streamDrop_tgd (s : State) (q : Nat) (idx : Nat) : (streamDrop s q idx).tgd = s.tgd := rfl
@[simp] theorem streamDrop_ccs (s : State) (q : Nat) (idx : Nat) : (streamDrop s q idx).ccs = s.ccs := rfl
@[simp] theorem streamDrop_tenants (s : State) (q : Nat) (idx : Nat) : (streamDrop s q idx).tenants = s.tenants := rfl
@[simp] theorem streamDrop_rsp (s : State) (q : Nat) (idx : Nat) : (streamDrop s q idx).rsp = s.rsp := rfl
@[simp] theorem streamDrop_out (s : State) (q : Nat) (idx : Nat) : (streamDrop s q idx).out = s.out := rfl
@[simp] theorem streamDrop_pending (s : State) (q : Nat) (idx : Nat) : (streamDrop s q idx).pending = s.pending := rfl

/-! `slotSet` -/
@[simp] theorem slotSet_variant (s : State) (k : Nat) (K : KeySlot) : (slotSet s k K).variant = s.variant := rfl
@[simp] theorem slotSet_time (s : State) (k : Nat) (K : KeySlot) : (slotSet s k K).time = s.time := rfl
@[simp] theorem slotSet_freeCtr (s : State) (k : Nat) (K : KeySlot) : (slotSet s k K).freeCtr = s.freeCtr := rfl
@[simp] theorem slotSet_regs (s : State) (k : Nat) (K : KeySlot) : (slotSet s k K).regs = s.regs := rfl
@[simp] theorem slotSet_pw (s : State) (k : Nat) (K : KeySlot) : (slotSet s k K).pw = s.pw := rfl
@[simp] theorem slotSet_boot (s : State) (k : Nat) (K : KeySlot) : (slotSet s k K).boot = s.boot := rfl
@[simp] theorem slotSet_flash (s : State) (k : Nat) (K : KeySlot) : (slotSet s k K).flash = s.flash := rfl
@[simp] theorem slotSet_fuses (s : State) (k : Nat) (K : KeySlot) : (slotSet s k K).fuses = s.fuses := rfl
@[simp] theorem slotSet_cic (s : State) (k : Nat) (K : KeySlot) : (slotSet s k K).cic = s.cic := rfl
@[simp] theorem slotSet_fns (s : State) (k : Nat) (K : KeySlot) : (slotSet s k K).fns = s.fns := rfl
@[simp] theorem slotSet_owners (s : State) (k : Nat) (K : KeySlot) : (slotSet s k K).owners = s.owners := rfl
@[simp] theorem slotSet_qlocal (s : State) (k : Nat) (K : KeySlot) : (slotSet s k K).qlocal = s.qlocal := rfl
@[simp] theorem slotSet_commits (s : State) (k : Nat) (K : KeySlot) : (slotSet s k K).commits = s.commits := rfl
@[simp] theorem slotSet_hif (s : State) (k : Nat) (K : KeySlot) : (slotSet s k K).hif = s.hif := rfl
@[simp] theorem slotSet_sqm (s : State) (k : Nat) (K : KeySlot) : (slotSet s k K).sqm = s.sqm := rfl
@[simp] theorem slotSet_fev (s : State) (k : Nat) (K : KeySlot) : (slotSet s k K).fev = s.fev := rfl
@[simp] theorem slotSet_mem (s : State) (k : Nat) (K : KeySlot) : (slotSet s k K).mem = s.mem := rfl
@[simp] theorem slotSet_atu (s : State) (k : Nat) (K : KeySlot) : (slotSet s k K).atu = s.atu := rfl
@[simp] theorem slotSet_queues (s : State) (k : Nat) (K : KeySlot) : (slotSet s k K).queues = s.queues := rfl
@[simp] theorem slotSet_tpe (s : State) (k : Nat) (K : KeySlot) : (slotSet s k K).tpe = s.tpe := rfl
@[simp] theorem slotSet_frt (s : State) (k : Nat) (K : KeySlot) : (slotSet s k K).frt = s.frt := rfl
@[simp] theorem slotSet_eports (s : State) (k : Nat) (K : KeySlot) : (slotSet s k K).eports = s.eports := rfl
@[simp] theorem slotSet_lns (s : State) (k : Nat) (K : KeySlot) : (slotSet s k K).lns = s.lns := rfl
@[simp] theorem slotSet_scb (s : State) (k : Nat) (K : KeySlot) : (slotSet s k K).scb = s.scb := rfl
@[simp] theorem slotSet_tgd (s : State) (k : Nat) (K : KeySlot) : (slotSet s k K).tgd = s.tgd := rfl
@[simp] theorem slotSet_ccs (s : State) (k : Nat) (K : KeySlot) : (slotSet s k K).ccs = s.ccs := rfl
@[simp] theorem slotSet_tenants (s : State) (k : Nat) (K : KeySlot) : (slotSet s k K).tenants = s.tenants := rfl
@[simp] theorem slotSet_rsp (s : State) (k : Nat) (K : KeySlot) : (slotSet s k K).rsp = s.rsp := rfl
@[simp] theorem slotSet_out (s : State) (k : Nat) (K : KeySlot) : (slotSet s k K).out = s.out := rfl
@[simp] theorem slotSet_pending (s : State) (k : Nat) (K : KeySlot) : (slotSet s k K).pending = s.pending := rfl

/-! `openedPut` -/
@[simp] theorem openedPut_variant (s : State) (o : Opened) : (openedPut s o).variant = s.variant := rfl
@[simp] theorem openedPut_time (s : State) (o : Opened) : (openedPut s o).time = s.time := rfl
@[simp] theorem openedPut_freeCtr (s : State) (o : Opened) : (openedPut s o).freeCtr = s.freeCtr := rfl
@[simp] theorem openedPut_regs (s : State) (o : Opened) : (openedPut s o).regs = s.regs := rfl
@[simp] theorem openedPut_pw (s : State) (o : Opened) : (openedPut s o).pw = s.pw := rfl
@[simp] theorem openedPut_boot (s : State) (o : Opened) : (openedPut s o).boot = s.boot := rfl
@[simp] theorem openedPut_flash (s : State) (o : Opened) : (openedPut s o).flash = s.flash := rfl
@[simp] theorem openedPut_fuses (s : State) (o : Opened) : (openedPut s o).fuses = s.fuses := rfl
@[simp] theorem openedPut_cic (s : State) (o : Opened) : (openedPut s o).cic = s.cic := rfl
@[simp] theorem openedPut_fns (s : State) (o : Opened) : (openedPut s o).fns = s.fns := rfl
@[simp] theorem openedPut_owners (s : State) (o : Opened) : (openedPut s o).owners = s.owners := rfl
@[simp] theorem openedPut_qlocal (s : State) (o : Opened) : (openedPut s o).qlocal = s.qlocal := rfl
@[simp] theorem openedPut_commits (s : State) (o : Opened) : (openedPut s o).commits = s.commits := rfl
@[simp] theorem openedPut_hif (s : State) (o : Opened) : (openedPut s o).hif = s.hif := rfl
@[simp] theorem openedPut_sqm (s : State) (o : Opened) : (openedPut s o).sqm = s.sqm := rfl
@[simp] theorem openedPut_fev (s : State) (o : Opened) : (openedPut s o).fev = s.fev := rfl
@[simp] theorem openedPut_mem (s : State) (o : Opened) : (openedPut s o).mem = s.mem := rfl
@[simp] theorem openedPut_atu (s : State) (o : Opened) : (openedPut s o).atu = s.atu := rfl
@[simp] theorem openedPut_queues (s : State) (o : Opened) : (openedPut s o).queues = s.queues := rfl
@[simp] theorem openedPut_tpe (s : State) (o : Opened) : (openedPut s o).tpe = s.tpe := rfl
@[simp] theorem openedPut_frt (s : State) (o : Opened) : (openedPut s o).frt = s.frt := rfl
@[simp] theorem openedPut_eports (s : State) (o : Opened) : (openedPut s o).eports = s.eports := rfl
@[simp] theorem openedPut_lns (s : State) (o : Opened) : (openedPut s o).lns = s.lns := rfl
@[simp] theorem openedPut_scb (s : State) (o : Opened) : (openedPut s o).scb = s.scb := rfl
@[simp] theorem openedPut_tgd (s : State) (o : Opened) : (openedPut s o).tgd = s.tgd := rfl
@[simp] theorem openedPut_ccs (s : State) (o : Opened) : (openedPut s o).ccs = s.ccs := rfl
@[simp] theorem openedPut_tenants (s : State) (o : Opened) : (openedPut s o).tenants = s.tenants := rfl
@[simp] theorem openedPut_rsp (s : State) (o : Opened) : (openedPut s o).rsp = s.rsp := rfl
@[simp] theorem openedPut_out (s : State) (o : Opened) : (openedPut s o).out = s.out := rfl
@[simp] theorem openedPut_pending (s : State) (o : Opened) : (openedPut s o).pending = s.pending := rfl

/-! `portMod` -/
@[simp] theorem portMod_variant (s : State) (n : Nat) (f : Port → Port) : (portMod s n f).variant = s.variant := rfl
@[simp] theorem portMod_time (s : State) (n : Nat) (f : Port → Port) : (portMod s n f).time = s.time := rfl
@[simp] theorem portMod_freeCtr (s : State) (n : Nat) (f : Port → Port) : (portMod s n f).freeCtr = s.freeCtr := rfl
@[simp] theorem portMod_regs (s : State) (n : Nat) (f : Port → Port) : (portMod s n f).regs = s.regs := rfl
@[simp] theorem portMod_pw (s : State) (n : Nat) (f : Port → Port) : (portMod s n f).pw = s.pw := rfl
@[simp] theorem portMod_boot (s : State) (n : Nat) (f : Port → Port) : (portMod s n f).boot = s.boot := rfl
@[simp] theorem portMod_flash (s : State) (n : Nat) (f : Port → Port) : (portMod s n f).flash = s.flash := rfl
@[simp] theorem portMod_fuses (s : State) (n : Nat) (f : Port → Port) : (portMod s n f).fuses = s.fuses := rfl
@[simp] theorem portMod_cic (s : State) (n : Nat) (f : Port → Port) : (portMod s n f).cic = s.cic := rfl
@[simp] theorem portMod_fns (s : State) (n : Nat) (f : Port → Port) : (portMod s n f).fns = s.fns := rfl
@[simp] theorem portMod_owners (s : State) (n : Nat) (f : Port → Port) : (portMod s n f).owners = s.owners := rfl
@[simp] theorem portMod_qlocal (s : State) (n : Nat) (f : Port → Port) : (portMod s n f).qlocal = s.qlocal := rfl
@[simp] theorem portMod_commits (s : State) (n : Nat) (f : Port → Port) : (portMod s n f).commits = s.commits := rfl
@[simp] theorem portMod_sqm (s : State) (n : Nat) (f : Port → Port) : (portMod s n f).sqm = s.sqm := rfl
@[simp] theorem portMod_fev (s : State) (n : Nat) (f : Port → Port) : (portMod s n f).fev = s.fev := rfl
@[simp] theorem portMod_mem (s : State) (n : Nat) (f : Port → Port) : (portMod s n f).mem = s.mem := rfl
@[simp] theorem portMod_atu (s : State) (n : Nat) (f : Port → Port) : (portMod s n f).atu = s.atu := rfl
@[simp] theorem portMod_queues (s : State) (n : Nat) (f : Port → Port) : (portMod s n f).queues = s.queues := rfl
@[simp] theorem portMod_tpe (s : State) (n : Nat) (f : Port → Port) : (portMod s n f).tpe = s.tpe := rfl
@[simp] theorem portMod_frt (s : State) (n : Nat) (f : Port → Port) : (portMod s n f).frt = s.frt := rfl
@[simp] theorem portMod_eports (s : State) (n : Nat) (f : Port → Port) : (portMod s n f).eports = s.eports := rfl
@[simp] theorem portMod_lns (s : State) (n : Nat) (f : Port → Port) : (portMod s n f).lns = s.lns := rfl
@[simp] theorem portMod_scb (s : State) (n : Nat) (f : Port → Port) : (portMod s n f).scb = s.scb := rfl
@[simp] theorem portMod_tgd (s : State) (n : Nat) (f : Port → Port) : (portMod s n f).tgd = s.tgd := rfl
@[simp] theorem portMod_cph (s : State) (n : Nat) (f : Port → Port) : (portMod s n f).cph = s.cph := rfl
@[simp] theorem portMod_ccs (s : State) (n : Nat) (f : Port → Port) : (portMod s n f).ccs = s.ccs := rfl
@[simp] theorem portMod_tenants (s : State) (n : Nat) (f : Port → Port) : (portMod s n f).tenants = s.tenants := rfl
@[simp] theorem portMod_rsp (s : State) (n : Nat) (f : Port → Port) : (portMod s n f).rsp = s.rsp := rfl
@[simp] theorem portMod_out (s : State) (n : Nat) (f : Port → Port) : (portMod s n f).out = s.out := rfl
@[simp] theorem portMod_pending (s : State) (n : Nat) (f : Port → Port) : (portMod s n f).pending = s.pending := rfl

/-! `fevQMod` -/
@[simp] theorem fevQMod_variant (s : State) (qi : Nat) (f : FevQueue → FevQueue) : (fevQMod s qi f).variant = s.variant := rfl
@[simp] theorem fevQMod_time (s : State) (qi : Nat) (f : FevQueue → FevQueue) : (fevQMod s qi f).time = s.time := rfl
@[simp] theorem fevQMod_freeCtr (s : State) (qi : Nat) (f : FevQueue → FevQueue) : (fevQMod s qi f).freeCtr = s.freeCtr := rfl
@[simp] theorem fevQMod_regs (s : State) (qi : Nat) (f : FevQueue → FevQueue) : (fevQMod s qi f).regs = s.regs := rfl
@[simp] theorem fevQMod_pw (s : State) (qi : Nat) (f : FevQueue → FevQueue) : (fevQMod s qi f).pw = s.pw := rfl
@[simp] theorem fevQMod_boot (s : State) (qi : Nat) (f : FevQueue → FevQueue) : (fevQMod s qi f).boot = s.boot := rfl
@[simp] theorem fevQMod_flash (s : State) (qi : Nat) (f : FevQueue → FevQueue) : (fevQMod s qi f).flash = s.flash := rfl
@[simp] theorem fevQMod_fuses (s : State) (qi : Nat) (f : FevQueue → FevQueue) : (fevQMod s qi f).fuses = s.fuses := rfl
@[simp] theorem fevQMod_cic (s : State) (qi : Nat) (f : FevQueue → FevQueue) : (fevQMod s qi f).cic = s.cic := rfl
@[simp] theorem fevQMod_fns (s : State) (qi : Nat) (f : FevQueue → FevQueue) : (fevQMod s qi f).fns = s.fns := rfl
@[simp] theorem fevQMod_owners (s : State) (qi : Nat) (f : FevQueue → FevQueue) : (fevQMod s qi f).owners = s.owners := rfl
@[simp] theorem fevQMod_qlocal (s : State) (qi : Nat) (f : FevQueue → FevQueue) : (fevQMod s qi f).qlocal = s.qlocal := rfl
@[simp] theorem fevQMod_commits (s : State) (qi : Nat) (f : FevQueue → FevQueue) : (fevQMod s qi f).commits = s.commits := rfl
@[simp] theorem fevQMod_hif (s : State) (qi : Nat) (f : FevQueue → FevQueue) : (fevQMod s qi f).hif = s.hif := rfl
@[simp] theorem fevQMod_sqm (s : State) (qi : Nat) (f : FevQueue → FevQueue) : (fevQMod s qi f).sqm = s.sqm := rfl
@[simp] theorem fevQMod_mem (s : State) (qi : Nat) (f : FevQueue → FevQueue) : (fevQMod s qi f).mem = s.mem := rfl
@[simp] theorem fevQMod_atu (s : State) (qi : Nat) (f : FevQueue → FevQueue) : (fevQMod s qi f).atu = s.atu := rfl
@[simp] theorem fevQMod_queues (s : State) (qi : Nat) (f : FevQueue → FevQueue) : (fevQMod s qi f).queues = s.queues := rfl
@[simp] theorem fevQMod_tpe (s : State) (qi : Nat) (f : FevQueue → FevQueue) : (fevQMod s qi f).tpe = s.tpe := rfl
@[simp] theorem fevQMod_frt (s : State) (qi : Nat) (f : FevQueue → FevQueue) : (fevQMod s qi f).frt = s.frt := rfl
@[simp] theorem fevQMod_eports (s : State) (qi : Nat) (f : FevQueue → FevQueue) : (fevQMod s qi f).eports = s.eports := rfl
@[simp] theorem fevQMod_lns (s : State) (qi : Nat) (f : FevQueue → FevQueue) : (fevQMod s qi f).lns = s.lns := rfl
@[simp] theorem fevQMod_scb (s : State) (qi : Nat) (f : FevQueue → FevQueue) : (fevQMod s qi f).scb = s.scb := rfl
@[simp] theorem fevQMod_tgd (s : State) (qi : Nat) (f : FevQueue → FevQueue) : (fevQMod s qi f).tgd = s.tgd := rfl
@[simp] theorem fevQMod_cph (s : State) (qi : Nat) (f : FevQueue → FevQueue) : (fevQMod s qi f).cph = s.cph := rfl
@[simp] theorem fevQMod_ccs (s : State) (qi : Nat) (f : FevQueue → FevQueue) : (fevQMod s qi f).ccs = s.ccs := rfl
@[simp] theorem fevQMod_tenants (s : State) (qi : Nat) (f : FevQueue → FevQueue) : (fevQMod s qi f).tenants = s.tenants := rfl
@[simp] theorem fevQMod_rsp (s : State) (qi : Nat) (f : FevQueue → FevQueue) : (fevQMod s qi f).rsp = s.rsp := rfl
@[simp] theorem fevQMod_out (s : State) (qi : Nat) (f : FevQueue → FevQueue) : (fevQMod s qi f).out = s.out := rfl
@[simp] theorem fevQMod_pending (s : State) (qi : Nat) (f : FevQueue → FevQueue) : (fevQMod s qi f).pending = s.pending := rfl

/-! `fevCMod` -/
@[simp] theorem fevCMod_variant (s : State) (qi : Nat) (cls : Nat) (f : FevClass → FevClass) : (fevCMod s qi cls f).variant = s.variant := rfl
@[simp] theorem fevCMod_time (s : State) (qi : Nat) (cls : Nat) (f : FevClass → FevClass) : (fevCMod s qi cls f).time = s.time := rfl
@[simp] theorem fevCMod_freeCtr (s : State) (qi : Nat) (cls : Nat) (f : FevClass → FevClass) : (fevCMod s qi cls f).freeCtr = s.freeCtr := rfl
@[simp] theorem fevCMod_regs (s : State) (qi : Nat) (cls : Nat) (f : FevClass → FevClass) : (fevCMod s qi cls f).regs = s.regs := rfl
@[simp] theorem fevCMod_pw (s : State) (qi : Nat) (cls : Nat) (f : FevClass → FevClass) : (fevCMod s qi cls f).pw = s.pw := rfl
@[simp] theorem fevCMod_boot (s : State) (qi : Nat) (cls : Nat) (f : FevClass → FevClass) : (fevCMod s qi cls f).boot = s.boot := rfl
@[simp] theorem fevCMod_flash (s : State) (qi : Nat) (cls : Nat) (f : FevClass → FevClass) : (fevCMod s qi cls f).flash = s.flash := rfl
@[simp] theorem fevCMod_fuses (s : State) (qi : Nat) (cls : Nat) (f : FevClass → FevClass) : (fevCMod s qi cls f).fuses = s.fuses := rfl
@[simp] theorem fevCMod_cic (s : State) (qi : Nat) (cls : Nat) (f : FevClass → FevClass) : (fevCMod s qi cls f).cic = s.cic := rfl
@[simp] theorem fevCMod_fns (s : State) (qi : Nat) (cls : Nat) (f : FevClass → FevClass) : (fevCMod s qi cls f).fns = s.fns := rfl
@[simp] theorem fevCMod_owners (s : State) (qi : Nat) (cls : Nat) (f : FevClass → FevClass) : (fevCMod s qi cls f).owners = s.owners := rfl
@[simp] theorem fevCMod_qlocal (s : State) (qi : Nat) (cls : Nat) (f : FevClass → FevClass) : (fevCMod s qi cls f).qlocal = s.qlocal := rfl
@[simp] theorem fevCMod_commits (s : State) (qi : Nat) (cls : Nat) (f : FevClass → FevClass) : (fevCMod s qi cls f).commits = s.commits := rfl
@[simp] theorem fevCMod_hif (s : State) (qi : Nat) (cls : Nat) (f : FevClass → FevClass) : (fevCMod s qi cls f).hif = s.hif := rfl
@[simp] theorem fevCMod_sqm (s : State) (qi : Nat) (cls : Nat) (f : FevClass → FevClass) : (fevCMod s qi cls f).sqm = s.sqm := rfl
@[simp] theorem fevCMod_mem (s : State) (qi : Nat) (cls : Nat) (f : FevClass → FevClass) : (fevCMod s qi cls f).mem = s.mem := rfl
@[simp] theorem fevCMod_atu (s : State) (qi : Nat) (cls : Nat) (f : FevClass → FevClass) : (fevCMod s qi cls f).atu = s.atu := rfl
@[simp] theorem fevCMod_queues (s : State) (qi : Nat) (cls : Nat) (f : FevClass → FevClass) : (fevCMod s qi cls f).queues = s.queues := rfl
@[simp] theorem fevCMod_tpe (s : State) (qi : Nat) (cls : Nat) (f : FevClass → FevClass) : (fevCMod s qi cls f).tpe = s.tpe := rfl
@[simp] theorem fevCMod_frt (s : State) (qi : Nat) (cls : Nat) (f : FevClass → FevClass) : (fevCMod s qi cls f).frt = s.frt := rfl
@[simp] theorem fevCMod_eports (s : State) (qi : Nat) (cls : Nat) (f : FevClass → FevClass) : (fevCMod s qi cls f).eports = s.eports := rfl
@[simp] theorem fevCMod_lns (s : State) (qi : Nat) (cls : Nat) (f : FevClass → FevClass) : (fevCMod s qi cls f).lns = s.lns := rfl
@[simp] theorem fevCMod_scb (s : State) (qi : Nat) (cls : Nat) (f : FevClass → FevClass) : (fevCMod s qi cls f).scb = s.scb := rfl
@[simp] theorem fevCMod_tgd (s : State) (qi : Nat) (cls : Nat) (f : FevClass → FevClass) : (fevCMod s qi cls f).tgd = s.tgd := rfl
@[simp] theorem fevCMod_cph (s : State) (qi : Nat) (cls : Nat) (f : FevClass → FevClass) : (fevCMod s qi cls f).cph = s.cph := rfl
@[simp] theorem fevCMod_ccs (s : State) (qi : Nat) (cls : Nat) (f : FevClass → FevClass) : (fevCMod s qi cls f).ccs = s.ccs := rfl
@[simp] theorem fevCMod_tenants (s : State) (qi : Nat) (cls : Nat) (f : FevClass → FevClass) : (fevCMod s qi cls f).tenants = s.tenants := rfl
@[simp] theorem fevCMod_rsp (s : State) (qi : Nat) (cls : Nat) (f : FevClass → FevClass) : (fevCMod s qi cls f).rsp = s.rsp := rfl
@[simp] theorem fevCMod_out (s : State) (qi : Nat) (cls : Nat) (f : FevClass → FevClass) : (fevCMod s qi cls f).out = s.out := rfl
@[simp] theorem fevCMod_pending (s : State) (qi : Nat) (cls : Nat) (f : FevClass → FevClass) : (fevCMod s qi cls f).pending = s.pending := rfl

/-! `linkMod` -/
@[simp] theorem linkMod_variant (s : State) (l : Nat) (f : Link → Link) : (linkMod s l f).variant = s.variant := rfl
@[simp] theorem linkMod_time (s : State) (l : Nat) (f : Link → Link) : (linkMod s l f).time = s.time := rfl
@[simp] theorem linkMod_freeCtr (s : State) (l : Nat) (f : Link → Link) : (linkMod s l f).freeCtr = s.freeCtr := rfl
@[simp] theorem linkMod_regs (s : State) (l : Nat) (f : Link → Link) : (linkMod s l f).regs = s.regs := rfl
@[simp] theorem linkMod_pw (s : State) (l : Nat) (f : Link → Link) : (linkMod s l f).pw = s.pw := rfl
@[simp] theorem linkMod_boot (s : State) (l : Nat) (f : Link → Link) : (linkMod s l f).boot = s.boot := rfl
@[simp] theorem linkMod_flash (s : State) (l : Nat) (f : Link → Link) : (linkMod s l f).flash = s.flash := rfl
@[simp] theorem linkMod_fuses (s : State) (l : Nat) (f : Link → Link) : (linkMod s l f).fuses = s.fuses := rfl
@[simp] theorem linkMod_cic (s : State) (l : Nat) (f : Link → Link) : (linkMod s l f).cic = s.cic := rfl
@[simp] theorem linkMod_fns (s : State) (l : Nat) (f : Link → Link) : (linkMod s l f).fns = s.fns := rfl
@[simp] theorem linkMod_owners (s : State) (l : Nat) (f : Link → Link) : (linkMod s l f).owners = s.owners := rfl
@[simp] theorem linkMod_qlocal (s : State) (l : Nat) (f : Link → Link) : (linkMod s l f).qlocal = s.qlocal := rfl
@[simp] theorem linkMod_commits (s : State) (l : Nat) (f : Link → Link) : (linkMod s l f).commits = s.commits := rfl
@[simp] theorem linkMod_hif (s : State) (l : Nat) (f : Link → Link) : (linkMod s l f).hif = s.hif := rfl
@[simp] theorem linkMod_sqm (s : State) (l : Nat) (f : Link → Link) : (linkMod s l f).sqm = s.sqm := rfl
@[simp] theorem linkMod_fev (s : State) (l : Nat) (f : Link → Link) : (linkMod s l f).fev = s.fev := rfl
@[simp] theorem linkMod_mem (s : State) (l : Nat) (f : Link → Link) : (linkMod s l f).mem = s.mem := rfl
@[simp] theorem linkMod_atu (s : State) (l : Nat) (f : Link → Link) : (linkMod s l f).atu = s.atu := rfl
@[simp] theorem linkMod_queues (s : State) (l : Nat) (f : Link → Link) : (linkMod s l f).queues = s.queues := rfl
@[simp] theorem linkMod_tpe (s : State) (l : Nat) (f : Link → Link) : (linkMod s l f).tpe = s.tpe := rfl
@[simp] theorem linkMod_eports (s : State) (l : Nat) (f : Link → Link) : (linkMod s l f).eports = s.eports := rfl
@[simp] theorem linkMod_lns (s : State) (l : Nat) (f : Link → Link) : (linkMod s l f).lns = s.lns := rfl
@[simp] theorem linkMod_scb (s : State) (l : Nat) (f : Link → Link) : (linkMod s l f).scb = s.scb := rfl
@[simp] theorem linkMod_tgd (s : State) (l : Nat) (f : Link → Link) : (linkMod s l f).tgd = s.tgd := rfl
@[simp] theorem linkMod_cph (s : State) (l : Nat) (f : Link → Link) : (linkMod s l f).cph = s.cph := rfl
@[simp] theorem linkMod_ccs (s : State) (l : Nat) (f : Link → Link) : (linkMod s l f).ccs = s.ccs := rfl
@[simp] theorem linkMod_tenants (s : State) (l : Nat) (f : Link → Link) : (linkMod s l f).tenants = s.tenants := rfl
@[simp] theorem linkMod_rsp (s : State) (l : Nat) (f : Link → Link) : (linkMod s l f).rsp = s.rsp := rfl
@[simp] theorem linkMod_out (s : State) (l : Nat) (f : Link → Link) : (linkMod s l f).out = s.out := rfl
@[simp] theorem linkMod_pending (s : State) (l : Nat) (f : Link → Link) : (linkMod s l f).pending = s.pending := rfl

/-! `laneMod` -/
@[simp] theorem laneMod_variant (s : State) (l : Nat) (f : Lane → Lane) : (laneMod s l f).variant = s.variant := rfl
@[simp] theorem laneMod_time (s : State) (l : Nat) (f : Lane → Lane) : (laneMod s l f).time = s.time := rfl
@[simp] theorem laneMod_freeCtr (s : State) (l : Nat) (f : Lane → Lane) : (laneMod s l f).freeCtr = s.freeCtr := rfl
@[simp] theorem laneMod_regs (s : State) (l : Nat) (f : Lane → Lane) : (laneMod s l f).regs = s.regs := rfl
@[simp] theorem laneMod_pw (s : State) (l : Nat) (f : Lane → Lane) : (laneMod s l f).pw = s.pw := rfl
@[simp] theorem laneMod_boot (s : State) (l : Nat) (f : Lane → Lane) : (laneMod s l f).boot = s.boot := rfl
@[simp] theorem laneMod_flash (s : State) (l : Nat) (f : Lane → Lane) : (laneMod s l f).flash = s.flash := rfl
@[simp] theorem laneMod_fuses (s : State) (l : Nat) (f : Lane → Lane) : (laneMod s l f).fuses = s.fuses := rfl
@[simp] theorem laneMod_cic (s : State) (l : Nat) (f : Lane → Lane) : (laneMod s l f).cic = s.cic := rfl
@[simp] theorem laneMod_fns (s : State) (l : Nat) (f : Lane → Lane) : (laneMod s l f).fns = s.fns := rfl
@[simp] theorem laneMod_owners (s : State) (l : Nat) (f : Lane → Lane) : (laneMod s l f).owners = s.owners := rfl
@[simp] theorem laneMod_qlocal (s : State) (l : Nat) (f : Lane → Lane) : (laneMod s l f).qlocal = s.qlocal := rfl
@[simp] theorem laneMod_commits (s : State) (l : Nat) (f : Lane → Lane) : (laneMod s l f).commits = s.commits := rfl
@[simp] theorem laneMod_hif (s : State) (l : Nat) (f : Lane → Lane) : (laneMod s l f).hif = s.hif := rfl
@[simp] theorem laneMod_sqm (s : State) (l : Nat) (f : Lane → Lane) : (laneMod s l f).sqm = s.sqm := rfl
@[simp] theorem laneMod_fev (s : State) (l : Nat) (f : Lane → Lane) : (laneMod s l f).fev = s.fev := rfl
@[simp] theorem laneMod_mem (s : State) (l : Nat) (f : Lane → Lane) : (laneMod s l f).mem = s.mem := rfl
@[simp] theorem laneMod_atu (s : State) (l : Nat) (f : Lane → Lane) : (laneMod s l f).atu = s.atu := rfl
@[simp] theorem laneMod_queues (s : State) (l : Nat) (f : Lane → Lane) : (laneMod s l f).queues = s.queues := rfl
@[simp] theorem laneMod_tpe (s : State) (l : Nat) (f : Lane → Lane) : (laneMod s l f).tpe = s.tpe := rfl
@[simp] theorem laneMod_frt (s : State) (l : Nat) (f : Lane → Lane) : (laneMod s l f).frt = s.frt := rfl
@[simp] theorem laneMod_eports (s : State) (l : Nat) (f : Lane → Lane) : (laneMod s l f).eports = s.eports := rfl
@[simp] theorem laneMod_scb (s : State) (l : Nat) (f : Lane → Lane) : (laneMod s l f).scb = s.scb := rfl
@[simp] theorem laneMod_tgd (s : State) (l : Nat) (f : Lane → Lane) : (laneMod s l f).tgd = s.tgd := rfl
@[simp] theorem laneMod_cph (s : State) (l : Nat) (f : Lane → Lane) : (laneMod s l f).cph = s.cph := rfl
@[simp] theorem laneMod_ccs (s : State) (l : Nat) (f : Lane → Lane) : (laneMod s l f).ccs = s.ccs := rfl
@[simp] theorem laneMod_tenants (s : State) (l : Nat) (f : Lane → Lane) : (laneMod s l f).tenants = s.tenants := rfl
@[simp] theorem laneMod_rsp (s : State) (l : Nat) (f : Lane → Lane) : (laneMod s l f).rsp = s.rsp := rfl
@[simp] theorem laneMod_out (s : State) (l : Nat) (f : Lane → Lane) : (laneMod s l f).out = s.out := rfl
@[simp] theorem laneMod_pending (s : State) (l : Nat) (f : Lane → Lane) : (laneMod s l f).pending = s.pending := rfl

/-! `rotMod` -/
@[simp] theorem rotMod_variant (s : State) (k : Nat) (f : Rot → Rot) : (rotMod s k f).variant = s.variant := rfl
@[simp] theorem rotMod_time (s : State) (k : Nat) (f : Rot → Rot) : (rotMod s k f).time = s.time := rfl
@[simp] theorem rotMod_freeCtr (s : State) (k : Nat) (f : Rot → Rot) : (rotMod s k f).freeCtr = s.freeCtr := rfl
@[simp] theorem rotMod_regs (s : State) (k : Nat) (f : Rot → Rot) : (rotMod s k f).regs = s.regs := rfl
@[simp] theorem rotMod_pw (s : State) (k : Nat) (f : Rot → Rot) : (rotMod s k f).pw = s.pw := rfl
@[simp] theorem rotMod_boot (s : State) (k : Nat) (f : Rot → Rot) : (rotMod s k f).boot = s.boot := rfl
@[simp] theorem rotMod_flash (s : State) (k : Nat) (f : Rot → Rot) : (rotMod s k f).flash = s.flash := rfl
@[simp] theorem rotMod_fuses (s : State) (k : Nat) (f : Rot → Rot) : (rotMod s k f).fuses = s.fuses := rfl
@[simp] theorem rotMod_cic (s : State) (k : Nat) (f : Rot → Rot) : (rotMod s k f).cic = s.cic := rfl
@[simp] theorem rotMod_fns (s : State) (k : Nat) (f : Rot → Rot) : (rotMod s k f).fns = s.fns := rfl
@[simp] theorem rotMod_owners (s : State) (k : Nat) (f : Rot → Rot) : (rotMod s k f).owners = s.owners := rfl
@[simp] theorem rotMod_qlocal (s : State) (k : Nat) (f : Rot → Rot) : (rotMod s k f).qlocal = s.qlocal := rfl
@[simp] theorem rotMod_commits (s : State) (k : Nat) (f : Rot → Rot) : (rotMod s k f).commits = s.commits := rfl
@[simp] theorem rotMod_hif (s : State) (k : Nat) (f : Rot → Rot) : (rotMod s k f).hif = s.hif := rfl
@[simp] theorem rotMod_sqm (s : State) (k : Nat) (f : Rot → Rot) : (rotMod s k f).sqm = s.sqm := rfl
@[simp] theorem rotMod_fev (s : State) (k : Nat) (f : Rot → Rot) : (rotMod s k f).fev = s.fev := rfl
@[simp] theorem rotMod_mem (s : State) (k : Nat) (f : Rot → Rot) : (rotMod s k f).mem = s.mem := rfl
@[simp] theorem rotMod_atu (s : State) (k : Nat) (f : Rot → Rot) : (rotMod s k f).atu = s.atu := rfl
@[simp] theorem rotMod_queues (s : State) (k : Nat) (f : Rot → Rot) : (rotMod s k f).queues = s.queues := rfl
@[simp] theorem rotMod_tpe (s : State) (k : Nat) (f : Rot → Rot) : (rotMod s k f).tpe = s.tpe := rfl
@[simp] theorem rotMod_frt (s : State) (k : Nat) (f : Rot → Rot) : (rotMod s k f).frt = s.frt := rfl
@[simp] theorem rotMod_eports (s : State) (k : Nat) (f : Rot → Rot) : (rotMod s k f).eports = s.eports := rfl
@[simp] theorem rotMod_scb (s : State) (k : Nat) (f : Rot → Rot) : (rotMod s k f).scb = s.scb := rfl
@[simp] theorem rotMod_tgd (s : State) (k : Nat) (f : Rot → Rot) : (rotMod s k f).tgd = s.tgd := rfl
@[simp] theorem rotMod_cph (s : State) (k : Nat) (f : Rot → Rot) : (rotMod s k f).cph = s.cph := rfl
@[simp] theorem rotMod_ccs (s : State) (k : Nat) (f : Rot → Rot) : (rotMod s k f).ccs = s.ccs := rfl
@[simp] theorem rotMod_tenants (s : State) (k : Nat) (f : Rot → Rot) : (rotMod s k f).tenants = s.tenants := rfl
@[simp] theorem rotMod_rsp (s : State) (k : Nat) (f : Rot → Rot) : (rotMod s k f).rsp = s.rsp := rfl
@[simp] theorem rotMod_out (s : State) (k : Nat) (f : Rot → Rot) : (rotMod s k f).out = s.out := rfl
@[simp] theorem rotMod_pending (s : State) (k : Nat) (f : Rot → Rot) : (rotMod s k f).pending = s.pending := rfl

/-! `ejectCell` -/
@[simp] theorem ejectCell_variant (s : State) (l : Nat) (c : Cell) : (ejectCell s l c).variant = s.variant := rfl
@[simp] theorem ejectCell_time (s : State) (l : Nat) (c : Cell) : (ejectCell s l c).time = s.time := rfl
@[simp] theorem ejectCell_freeCtr (s : State) (l : Nat) (c : Cell) : (ejectCell s l c).freeCtr = s.freeCtr := rfl
@[simp] theorem ejectCell_regs (s : State) (l : Nat) (c : Cell) : (ejectCell s l c).regs = s.regs := rfl
@[simp] theorem ejectCell_pw (s : State) (l : Nat) (c : Cell) : (ejectCell s l c).pw = s.pw := rfl
@[simp] theorem ejectCell_boot (s : State) (l : Nat) (c : Cell) : (ejectCell s l c).boot = s.boot := rfl
@[simp] theorem ejectCell_flash (s : State) (l : Nat) (c : Cell) : (ejectCell s l c).flash = s.flash := rfl
@[simp] theorem ejectCell_fuses (s : State) (l : Nat) (c : Cell) : (ejectCell s l c).fuses = s.fuses := rfl
@[simp] theorem ejectCell_cic (s : State) (l : Nat) (c : Cell) : (ejectCell s l c).cic = s.cic := rfl
@[simp] theorem ejectCell_fns (s : State) (l : Nat) (c : Cell) : (ejectCell s l c).fns = s.fns := rfl
@[simp] theorem ejectCell_owners (s : State) (l : Nat) (c : Cell) : (ejectCell s l c).owners = s.owners := rfl
@[simp] theorem ejectCell_qlocal (s : State) (l : Nat) (c : Cell) : (ejectCell s l c).qlocal = s.qlocal := rfl
@[simp] theorem ejectCell_commits (s : State) (l : Nat) (c : Cell) : (ejectCell s l c).commits = s.commits := rfl
@[simp] theorem ejectCell_hif (s : State) (l : Nat) (c : Cell) : (ejectCell s l c).hif = s.hif := rfl
@[simp] theorem ejectCell_sqm (s : State) (l : Nat) (c : Cell) : (ejectCell s l c).sqm = s.sqm := rfl
@[simp] theorem ejectCell_fev (s : State) (l : Nat) (c : Cell) : (ejectCell s l c).fev = s.fev := rfl
@[simp] theorem ejectCell_mem (s : State) (l : Nat) (c : Cell) : (ejectCell s l c).mem = s.mem := rfl
@[simp] theorem ejectCell_atu (s : State) (l : Nat) (c : Cell) : (ejectCell s l c).atu = s.atu := rfl
@[simp] theorem ejectCell_queues (s : State) (l : Nat) (c : Cell) : (ejectCell s l c).queues = s.queues := rfl
@[simp] theorem ejectCell_tpe (s : State) (l : Nat) (c : Cell) : (ejectCell s l c).tpe = s.tpe := rfl
@[simp] theorem ejectCell_eports (s : State) (l : Nat) (c : Cell) : (ejectCell s l c).eports = s.eports := rfl
@[simp] theorem ejectCell_lns (s : State) (l : Nat) (c : Cell) : (ejectCell s l c).lns = s.lns := rfl
@[simp] theorem ejectCell_scb (s : State) (l : Nat) (c : Cell) : (ejectCell s l c).scb = s.scb := rfl
@[simp] theorem ejectCell_tgd (s : State) (l : Nat) (c : Cell) : (ejectCell s l c).tgd = s.tgd := rfl
@[simp] theorem ejectCell_cph (s : State) (l : Nat) (c : Cell) : (ejectCell s l c).cph = s.cph := rfl
@[simp] theorem ejectCell_ccs (s : State) (l : Nat) (c : Cell) : (ejectCell s l c).ccs = s.ccs := rfl
@[simp] theorem ejectCell_tenants (s : State) (l : Nat) (c : Cell) : (ejectCell s l c).tenants = s.tenants := rfl
@[simp] theorem ejectCell_rsp (s : State) (l : Nat) (c : Cell) : (ejectCell s l c).rsp = s.rsp := rfl
@[simp] theorem ejectCell_out (s : State) (l : Nat) (c : Cell) : (ejectCell s l c).out = s.out := rfl
@[simp] theorem ejectCell_pending (s : State) (l : Nat) (c : Cell) : (ejectCell s l c).pending = s.pending := rfl

/-! `noticeSeen` -/
@[simp] theorem noticeSeen_variant (s : State) (p : Nat × Nat) : (noticeSeen s p).variant = s.variant := rfl
@[simp] theorem noticeSeen_time (s : State) (p : Nat × Nat) : (noticeSeen s p).time = s.time := rfl
@[simp] theorem noticeSeen_freeCtr (s : State) (p : Nat × Nat) : (noticeSeen s p).freeCtr = s.freeCtr := rfl
@[simp] theorem noticeSeen_regs (s : State) (p : Nat × Nat) : (noticeSeen s p).regs = s.regs := rfl
@[simp] theorem noticeSeen_pw (s : State) (p : Nat × Nat) : (noticeSeen s p).pw = s.pw := rfl
@[simp] theorem noticeSeen_boot (s : State) (p : Nat × Nat) : (noticeSeen s p).boot = s.boot := rfl
@[simp] theorem noticeSeen_flash (s : State) (p : Nat × Nat) : (noticeSeen s p).flash = s.flash := rfl
@[simp] theorem noticeSeen_fuses (s : State) (p : Nat × Nat) : (noticeSeen s p).fuses = s.fuses := rfl
@[simp] theorem noticeSeen_cic (s : State) (p : Nat × Nat) : (noticeSeen s p).cic = s.cic := rfl
@[simp] theorem noticeSeen_fns (s : State) (p : Nat × Nat) : (noticeSeen s p).fns = s.fns := rfl
@[simp] theorem noticeSeen_owners (s : State) (p : Nat × Nat) : (noticeSeen s p).owners = s.owners := rfl
@[simp] theorem noticeSeen_qlocal (s : State) (p : Nat × Nat) : (noticeSeen s p).qlocal = s.qlocal := rfl
@[simp] theorem noticeSeen_commits (s : State) (p : Nat × Nat) : (noticeSeen s p).commits = s.commits := rfl
@[simp] theorem noticeSeen_hif (s : State) (p : Nat × Nat) : (noticeSeen s p).hif = s.hif := rfl
@[simp] theorem noticeSeen_sqm (s : State) (p : Nat × Nat) : (noticeSeen s p).sqm = s.sqm := rfl
@[simp] theorem noticeSeen_fev (s : State) (p : Nat × Nat) : (noticeSeen s p).fev = s.fev := rfl
@[simp] theorem noticeSeen_mem (s : State) (p : Nat × Nat) : (noticeSeen s p).mem = s.mem := rfl
@[simp] theorem noticeSeen_atu (s : State) (p : Nat × Nat) : (noticeSeen s p).atu = s.atu := rfl
@[simp] theorem noticeSeen_queues (s : State) (p : Nat × Nat) : (noticeSeen s p).queues = s.queues := rfl
@[simp] theorem noticeSeen_tpe (s : State) (p : Nat × Nat) : (noticeSeen s p).tpe = s.tpe := rfl
@[simp] theorem noticeSeen_eports (s : State) (p : Nat × Nat) : (noticeSeen s p).eports = s.eports := rfl
@[simp] theorem noticeSeen_lns (s : State) (p : Nat × Nat) : (noticeSeen s p).lns = s.lns := rfl
@[simp] theorem noticeSeen_scb (s : State) (p : Nat × Nat) : (noticeSeen s p).scb = s.scb := rfl
@[simp] theorem noticeSeen_tgd (s : State) (p : Nat × Nat) : (noticeSeen s p).tgd = s.tgd := rfl
@[simp] theorem noticeSeen_cph (s : State) (p : Nat × Nat) : (noticeSeen s p).cph = s.cph := rfl
@[simp] theorem noticeSeen_ccs (s : State) (p : Nat × Nat) : (noticeSeen s p).ccs = s.ccs := rfl
@[simp] theorem noticeSeen_tenants (s : State) (p : Nat × Nat) : (noticeSeen s p).tenants = s.tenants := rfl
@[simp] theorem noticeSeen_rsp (s : State) (p : Nat × Nat) : (noticeSeen s p).rsp = s.rsp := rfl
@[simp] theorem noticeSeen_out (s : State) (p : Nat × Nat) : (noticeSeen s p).out = s.out := rfl
@[simp] theorem noticeSeen_pending (s : State) (p : Nat × Nat) : (noticeSeen s p).pending = s.pending := rfl

/-! `sessionEnd` -/
@[simp] theorem sessionEnd_variant (s : State) (who : Nat) : (sessionEnd s who).variant = s.variant := rfl
@[simp] theorem sessionEnd_time (s : State) (who : Nat) : (sessionEnd s who).time = s.time := rfl
@[simp] theorem sessionEnd_freeCtr (s : State) (who : Nat) : (sessionEnd s who).freeCtr = s.freeCtr := rfl
@[simp] theorem sessionEnd_regs (s : State) (who : Nat) : (sessionEnd s who).regs = s.regs := rfl
@[simp] theorem sessionEnd_pw (s : State) (who : Nat) : (sessionEnd s who).pw = s.pw := rfl
@[simp] theorem sessionEnd_boot (s : State) (who : Nat) : (sessionEnd s who).boot = s.boot := rfl
@[simp] theorem sessionEnd_flash (s : State) (who : Nat) : (sessionEnd s who).flash = s.flash := rfl
@[simp] theorem sessionEnd_fuses (s : State) (who : Nat) : (sessionEnd s who).fuses = s.fuses := rfl
@[simp] theorem sessionEnd_cic (s : State) (who : Nat) : (sessionEnd s who).cic = s.cic := rfl
@[simp] theorem sessionEnd_fns (s : State) (who : Nat) : (sessionEnd s who).fns = s.fns := rfl
@[simp] theorem sessionEnd_owners (s : State) (who : Nat) : (sessionEnd s who).owners = s.owners := rfl
@[simp] theorem sessionEnd_qlocal (s : State) (who : Nat) : (sessionEnd s who).qlocal = s.qlocal := rfl
@[simp] theorem sessionEnd_commits (s : State) (who : Nat) : (sessionEnd s who).commits = s.commits := rfl
@[simp] theorem sessionEnd_hif (s : State) (who : Nat) : (sessionEnd s who).hif = s.hif := rfl
@[simp] theorem sessionEnd_sqm (s : State) (who : Nat) : (sessionEnd s who).sqm = s.sqm := rfl
@[simp] theorem sessionEnd_fev (s : State) (who : Nat) : (sessionEnd s who).fev = s.fev := rfl
@[simp] theorem sessionEnd_mem (s : State) (who : Nat) : (sessionEnd s who).mem = s.mem := rfl
@[simp] theorem sessionEnd_atu (s : State) (who : Nat) : (sessionEnd s who).atu = s.atu := rfl
@[simp] theorem sessionEnd_queues (s : State) (who : Nat) : (sessionEnd s who).queues = s.queues := rfl
@[simp] theorem sessionEnd_tpe (s : State) (who : Nat) : (sessionEnd s who).tpe = s.tpe := rfl
@[simp] theorem sessionEnd_frt (s : State) (who : Nat) : (sessionEnd s who).frt = s.frt := rfl
@[simp] theorem sessionEnd_eports (s : State) (who : Nat) : (sessionEnd s who).eports = s.eports := rfl
@[simp] theorem sessionEnd_lns (s : State) (who : Nat) : (sessionEnd s who).lns = s.lns := rfl
@[simp] theorem sessionEnd_scb (s : State) (who : Nat) : (sessionEnd s who).scb = s.scb := rfl
@[simp] theorem sessionEnd_tgd (s : State) (who : Nat) : (sessionEnd s who).tgd = s.tgd := rfl
@[simp] theorem sessionEnd_cph (s : State) (who : Nat) : (sessionEnd s who).cph = s.cph := rfl
@[simp] theorem sessionEnd_ccs (s : State) (who : Nat) : (sessionEnd s who).ccs = s.ccs := rfl
@[simp] theorem sessionEnd_tenants (s : State) (who : Nat) : (sessionEnd s who).tenants = s.tenants := rfl
@[simp] theorem sessionEnd_out (s : State) (who : Nat) : (sessionEnd s who).out = s.out := rfl
@[simp] theorem sessionEnd_pending (s : State) (who : Nat) : (sessionEnd s who).pending = s.pending := rfl

/-! `moduleMod` -/
@[simp] theorem moduleMod_variant (s : State) (k : Nat) (f : Module → Module) : (moduleMod s k f).variant = s.variant := rfl
@[simp] theorem moduleMod_time (s : State) (k : Nat) (f : Module → Module) : (moduleMod s k f).time = s.time := rfl
@[simp] theorem moduleMod_freeCtr (s : State) (k : Nat) (f : Module → Module) : (moduleMod s k f).freeCtr = s.freeCtr := rfl
@[simp] theorem moduleMod_regs (s : State) (k : Nat) (f : Module → Module) : (moduleMod s k f).regs = s.regs := rfl
@[simp] theorem moduleMod_pw (s : State) (k : Nat) (f : Module → Module) : (moduleMod s k f).pw = s.pw := rfl
@[simp] theorem moduleMod_boot (s : State) (k : Nat) (f : Module → Module) : (moduleMod s k f).boot = s.boot := rfl
@[simp] theorem moduleMod_flash (s : State) (k : Nat) (f : Module → Module) : (moduleMod s k f).flash = s.flash := rfl
@[simp] theorem moduleMod_fuses (s : State) (k : Nat) (f : Module → Module) : (moduleMod s k f).fuses = s.fuses := rfl
@[simp] theorem moduleMod_cic (s : State) (k : Nat) (f : Module → Module) : (moduleMod s k f).cic = s.cic := rfl
@[simp] theorem moduleMod_fns (s : State) (k : Nat) (f : Module → Module) : (moduleMod s k f).fns = s.fns := rfl
@[simp] theorem moduleMod_owners (s : State) (k : Nat) (f : Module → Module) : (moduleMod s k f).owners = s.owners := rfl
@[simp] theorem moduleMod_qlocal (s : State) (k : Nat) (f : Module → Module) : (moduleMod s k f).qlocal = s.qlocal := rfl
@[simp] theorem moduleMod_commits (s : State) (k : Nat) (f : Module → Module) : (moduleMod s k f).commits = s.commits := rfl
@[simp] theorem moduleMod_hif (s : State) (k : Nat) (f : Module → Module) : (moduleMod s k f).hif = s.hif := rfl
@[simp] theorem moduleMod_sqm (s : State) (k : Nat) (f : Module → Module) : (moduleMod s k f).sqm = s.sqm := rfl
@[simp] theorem moduleMod_fev (s : State) (k : Nat) (f : Module → Module) : (moduleMod s k f).fev = s.fev := rfl
@[simp] theorem moduleMod_mem (s : State) (k : Nat) (f : Module → Module) : (moduleMod s k f).mem = s.mem := rfl
@[simp] theorem moduleMod_atu (s : State) (k : Nat) (f : Module → Module) : (moduleMod s k f).atu = s.atu := rfl
@[simp] theorem moduleMod_queues (s : State) (k : Nat) (f : Module → Module) : (moduleMod s k f).queues = s.queues := rfl
@[simp] theorem moduleMod_tpe (s : State) (k : Nat) (f : Module → Module) : (moduleMod s k f).tpe = s.tpe := rfl
@[simp] theorem moduleMod_frt (s : State) (k : Nat) (f : Module → Module) : (moduleMod s k f).frt = s.frt := rfl
@[simp] theorem moduleMod_eports (s : State) (k : Nat) (f : Module → Module) : (moduleMod s k f).eports = s.eports := rfl
@[simp] theorem moduleMod_scb (s : State) (k : Nat) (f : Module → Module) : (moduleMod s k f).scb = s.scb := rfl
@[simp] theorem moduleMod_tgd (s : State) (k : Nat) (f : Module → Module) : (moduleMod s k f).tgd = s.tgd := rfl
@[simp] theorem moduleMod_cph (s : State) (k : Nat) (f : Module → Module) : (moduleMod s k f).cph = s.cph := rfl
@[simp] theorem moduleMod_ccs (s : State) (k : Nat) (f : Module → Module) : (moduleMod s k f).ccs = s.ccs := rfl
@[simp] theorem moduleMod_tenants (s : State) (k : Nat) (f : Module → Module) : (moduleMod s k f).tenants = s.tenants := rfl
@[simp] theorem moduleMod_rsp (s : State) (k : Nat) (f : Module → Module) : (moduleMod s k f).rsp = s.rsp := rfl
@[simp] theorem moduleMod_out (s : State) (k : Nat) (f : Module → Module) : (moduleMod s k f).out = s.out := rfl
@[simp] theorem moduleMod_pending (s : State) (k : Nat) (f : Module → Module) : (moduleMod s k f).pending = s.pending := rfl

/-! `ctrlMod` -/
@[simp] theorem ctrlMod_variant (s : State) (c : Nat) (f : Controller → Controller) : (ctrlMod s c f).variant = s.variant := rfl
@[simp] theorem ctrlMod_time (s : State) (c : Nat) (f : Controller → Controller) : (ctrlMod s c f).time = s.time := rfl
@[simp] theorem ctrlMod_freeCtr (s : State) (c : Nat) (f : Controller → Controller) : (ctrlMod s c f).freeCtr = s.freeCtr := rfl
@[simp] theorem ctrlMod_regs (s : State) (c : Nat) (f : Controller → Controller) : (ctrlMod s c f).regs = s.regs := rfl
@[simp] theorem ctrlMod_pw (s : State) (c : Nat) (f : Controller → Controller) : (ctrlMod s c f).pw = s.pw := rfl
@[simp] theorem ctrlMod_boot (s : State) (c : Nat) (f : Controller → Controller) : (ctrlMod s c f).boot = s.boot := rfl
@[simp] theorem ctrlMod_flash (s : State) (c : Nat) (f : Controller → Controller) : (ctrlMod s c f).flash = s.flash := rfl
@[simp] theorem ctrlMod_fuses (s : State) (c : Nat) (f : Controller → Controller) : (ctrlMod s c f).fuses = s.fuses := rfl
@[simp] theorem ctrlMod_cic (s : State) (c : Nat) (f : Controller → Controller) : (ctrlMod s c f).cic = s.cic := rfl
@[simp] theorem ctrlMod_fns (s : State) (c : Nat) (f : Controller → Controller) : (ctrlMod s c f).fns = s.fns := rfl
@[simp] theorem ctrlMod_owners (s : State) (c : Nat) (f : Controller → Controller) : (ctrlMod s c f).owners = s.owners := rfl
@[simp] theorem ctrlMod_qlocal (s : State) (c : Nat) (f : Controller → Controller) : (ctrlMod s c f).qlocal = s.qlocal := rfl
@[simp] theorem ctrlMod_commits (s : State) (c : Nat) (f : Controller → Controller) : (ctrlMod s c f).commits = s.commits := rfl
@[simp] theorem ctrlMod_hif (s : State) (c : Nat) (f : Controller → Controller) : (ctrlMod s c f).hif = s.hif := rfl
@[simp] theorem ctrlMod_sqm (s : State) (c : Nat) (f : Controller → Controller) : (ctrlMod s c f).sqm = s.sqm := rfl
@[simp] theorem ctrlMod_fev (s : State) (c : Nat) (f : Controller → Controller) : (ctrlMod s c f).fev = s.fev := rfl
@[simp] theorem ctrlMod_atu (s : State) (c : Nat) (f : Controller → Controller) : (ctrlMod s c f).atu = s.atu := rfl
@[simp] theorem ctrlMod_queues (s : State) (c : Nat) (f : Controller → Controller) : (ctrlMod s c f).queues = s.queues := rfl
@[simp] theorem ctrlMod_tpe (s : State) (c : Nat) (f : Controller → Controller) : (ctrlMod s c f).tpe = s.tpe := rfl
@[simp] theorem ctrlMod_frt (s : State) (c : Nat) (f : Controller → Controller) : (ctrlMod s c f).frt = s.frt := rfl
@[simp] theorem ctrlMod_eports (s : State) (c : Nat) (f : Controller → Controller) : (ctrlMod s c f).eports = s.eports := rfl
@[simp] theorem ctrlMod_lns (s : State) (c : Nat) (f : Controller → Controller) : (ctrlMod s c f).lns = s.lns := rfl
@[simp] theorem ctrlMod_scb (s : State) (c : Nat) (f : Controller → Controller) : (ctrlMod s c f).scb = s.scb := rfl
@[simp] theorem ctrlMod_tgd (s : State) (c : Nat) (f : Controller → Controller) : (ctrlMod s c f).tgd = s.tgd := rfl
@[simp] theorem ctrlMod_cph (s : State) (c : Nat) (f : Controller → Controller) : (ctrlMod s c f).cph = s.cph := rfl
@[simp] theorem ctrlMod_ccs (s : State) (c : Nat) (f : Controller → Controller) : (ctrlMod s c f).ccs = s.ccs := rfl
@[simp] theorem ctrlMod_tenants (s : State) (c : Nat) (f : Controller → Controller) : (ctrlMod s c f).tenants = s.tenants := rfl
@[simp] theorem ctrlMod_rsp (s : State) (c : Nat) (f : Controller → Controller) : (ctrlMod s c f).rsp = s.rsp := rfl
@[simp] theorem ctrlMod_out (s : State) (c : Nat) (f : Controller → Controller) : (ctrlMod s c f).out = s.out := rfl
@[simp] theorem ctrlMod_pending (s : State) (c : Nat) (f : Controller → Controller) : (ctrlMod s c f).pending = s.pending := rfl

/-! `frameMod` -/
@[simp] theorem frameMod_variant (s : State) (f : Nat) (g : Frame → Frame) : (frameMod s f g).variant = s.variant := rfl
@[simp] theorem frameMod_time (s : State) (f : Nat) (g : Frame → Frame) : (frameMod s f g).time = s.time := rfl
@[simp] theorem frameMod_freeCtr (s : State) (f : Nat) (g : Frame → Frame) : (frameMod s f g).freeCtr = s.freeCtr := rfl
@[simp] theorem frameMod_regs (s : State) (f : Nat) (g : Frame → Frame) : (frameMod s f g).regs = s.regs := rfl
@[simp] theorem frameMod_pw (s : State) (f : Nat) (g : Frame → Frame) : (frameMod s f g).pw = s.pw := rfl
@[simp] theorem frameMod_boot (s : State) (f : Nat) (g : Frame → Frame) : (frameMod s f g).boot = s.boot := rfl
@[simp] theorem frameMod_flash (s : State) (f : Nat) (g : Frame → Frame) : (frameMod s f g).flash = s.flash := rfl
@[simp] theorem frameMod_fuses (s : State) (f : Nat) (g : Frame → Frame) : (frameMod s f g).fuses = s.fuses := rfl
@[simp] theorem frameMod_cic (s : State) (f : Nat) (g : Frame → Frame) : (frameMod s f g).cic = s.cic := rfl
@[simp] theorem frameMod_fns (s : State) (f : Nat) (g : Frame → Frame) : (frameMod s f g).fns = s.fns := rfl
@[simp] theorem frameMod_owners (s : State) (f : Nat) (g : Frame → Frame) : (frameMod s f g).owners = s.owners := rfl
@[simp] theorem frameMod_qlocal (s : State) (f : Nat) (g : Frame → Frame) : (frameMod s f g).qlocal = s.qlocal := rfl
@[simp] theorem frameMod_commits (s : State) (f : Nat) (g : Frame → Frame) : (frameMod s f g).commits = s.commits := rfl
@[simp] theorem frameMod_hif (s : State) (f : Nat) (g : Frame → Frame) : (frameMod s f g).hif = s.hif := rfl
@[simp] theorem frameMod_sqm (s : State) (f : Nat) (g : Frame → Frame) : (frameMod s f g).sqm = s.sqm := rfl
@[simp] theorem frameMod_fev (s : State) (f : Nat) (g : Frame → Frame) : (frameMod s f g).fev = s.fev := rfl
@[simp] theorem frameMod_atu (s : State) (f : Nat) (g : Frame → Frame) : (frameMod s f g).atu = s.atu := rfl
@[simp] theorem frameMod_queues (s : State) (f : Nat) (g : Frame → Frame) : (frameMod s f g).queues = s.queues := rfl
@[simp] theorem frameMod_tpe (s : State) (f : Nat) (g : Frame → Frame) : (frameMod s f g).tpe = s.tpe := rfl
@[simp] theorem frameMod_frt (s : State) (f : Nat) (g : Frame → Frame) : (frameMod s f g).frt = s.frt := rfl
@[simp] theorem frameMod_eports (s : State) (f : Nat) (g : Frame → Frame) : (frameMod s f g).eports = s.eports := rfl
@[simp] theorem frameMod_lns (s : State) (f : Nat) (g : Frame → Frame) : (frameMod s f g).lns = s.lns := rfl
@[simp] theorem frameMod_scb (s : State) (f : Nat) (g : Frame → Frame) : (frameMod s f g).scb = s.scb := rfl
@[simp] theorem frameMod_tgd (s : State) (f : Nat) (g : Frame → Frame) : (frameMod s f g).tgd = s.tgd := rfl
@[simp] theorem frameMod_cph (s : State) (f : Nat) (g : Frame → Frame) : (frameMod s f g).cph = s.cph := rfl
@[simp] theorem frameMod_ccs (s : State) (f : Nat) (g : Frame → Frame) : (frameMod s f g).ccs = s.ccs := rfl
@[simp] theorem frameMod_tenants (s : State) (f : Nat) (g : Frame → Frame) : (frameMod s f g).tenants = s.tenants := rfl
@[simp] theorem frameMod_rsp (s : State) (f : Nat) (g : Frame → Frame) : (frameMod s f g).rsp = s.rsp := rfl
@[simp] theorem frameMod_out (s : State) (f : Nat) (g : Frame → Frame) : (frameMod s f g).out = s.out := rfl
@[simp] theorem frameMod_pending (s : State) (f : Nat) (g : Frame → Frame) : (frameMod s f g).pending = s.pending := rfl

/-! `setByte` -/
@[simp] theorem setByte_variant (s : State) (a : Nat) (b : Byte) : (setByte s a b).variant = s.variant := rfl
@[simp] theorem setByte_time (s : State) (a : Nat) (b : Byte) : (setByte s a b).time = s.time := rfl
@[simp] theorem setByte_freeCtr (s : State) (a : Nat) (b : Byte) : (setByte s a b).freeCtr = s.freeCtr := rfl
@[simp] theorem setByte_regs (s : State) (a : Nat) (b : Byte) : (setByte s a b).regs = s.regs := rfl
@[simp] theorem setByte_pw (s : State) (a : Nat) (b : Byte) : (setByte s a b).pw = s.pw := rfl
@[simp] theorem setByte_boot (s : State) (a : Nat) (b : Byte) : (setByte s a b).boot = s.boot := rfl
@[simp] theorem setByte_flash (s : State) (a : Nat) (b : Byte) : (setByte s a b).flash = s.flash := rfl
@[simp] theorem setByte_fuses (s : State) (a : Nat) (b : Byte) : (setByte s a b).fuses = s.fuses := rfl
@[simp] theorem setByte_cic (s : State) (a : Nat) (b : Byte) : (setByte s a b).cic = s.cic := rfl
@[simp] theorem setByte_fns (s : State) (a : Nat) (b : Byte) : (setByte s a b).fns = s.fns := rfl
@[simp] theorem setByte_owners (s : State) (a : Nat) (b : Byte) : (setByte s a b).owners = s.owners := rfl
@[simp] theorem setByte_qlocal (s : State) (a : Nat) (b : Byte) : (setByte s a b).qlocal = s.qlocal := rfl
@[simp] theorem setByte_commits (s : State) (a : Nat) (b : Byte) : (setByte s a b).commits = s.commits := rfl
@[simp] theorem setByte_hif (s : State) (a : Nat) (b : Byte) : (setByte s a b).hif = s.hif := rfl
@[simp] theorem setByte_sqm (s : State) (a : Nat) (b : Byte) : (setByte s a b).sqm = s.sqm := rfl
@[simp] theorem setByte_fev (s : State) (a : Nat) (b : Byte) : (setByte s a b).fev = s.fev := rfl
@[simp] theorem setByte_atu (s : State) (a : Nat) (b : Byte) : (setByte s a b).atu = s.atu := rfl
@[simp] theorem setByte_queues (s : State) (a : Nat) (b : Byte) : (setByte s a b).queues = s.queues := rfl
@[simp] theorem setByte_tpe (s : State) (a : Nat) (b : Byte) : (setByte s a b).tpe = s.tpe := rfl
@[simp] theorem setByte_frt (s : State) (a : Nat) (b : Byte) : (setByte s a b).frt = s.frt := rfl
@[simp] theorem setByte_eports (s : State) (a : Nat) (b : Byte) : (setByte s a b).eports = s.eports := rfl
@[simp] theorem setByte_lns (s : State) (a : Nat) (b : Byte) : (setByte s a b).lns = s.lns := rfl
@[simp] theorem setByte_scb (s : State) (a : Nat) (b : Byte) : (setByte s a b).scb = s.scb := rfl
@[simp] theorem setByte_tgd (s : State) (a : Nat) (b : Byte) : (setByte s a b).tgd = s.tgd := rfl
@[simp] theorem setByte_cph (s : State) (a : Nat) (b : Byte) : (setByte s a b).cph = s.cph := rfl
@[simp] theorem setByte_ccs (s : State) (a : Nat) (b : Byte) : (setByte s a b).ccs = s.ccs := rfl
@[simp] theorem setByte_tenants (s : State) (a : Nat) (b : Byte) : (setByte s a b).tenants = s.tenants := rfl
@[simp] theorem setByte_rsp (s : State) (a : Nat) (b : Byte) : (setByte s a b).rsp = s.rsp := rfl
@[simp] theorem setByte_out (s : State) (a : Nat) (b : Byte) : (setByte s a b).out = s.out := rfl
@[simp] theorem setByte_pending (s : State) (a : Nat) (b : Byte) : (setByte s a b).pending = s.pending := rfl

/-! `setBlk` -/
@[simp] theorem setBlk_variant (s : State) (b : Nat) (v : Blk) : (setBlk s b v).variant = s.variant := rfl
@[simp] theorem setBlk_time (s : State) (b : Nat) (v : Blk) : (setBlk s b v).time = s.time := rfl
@[simp] theorem setBlk_freeCtr (s : State) (b : Nat) (v : Blk) : (setBlk s b v).freeCtr = s.freeCtr := rfl
@[simp] theorem setBlk_regs (s : State) (b : Nat) (v : Blk) : (setBlk s b v).regs = s.regs := rfl
@[simp] theorem setBlk_pw (s : State) (b : Nat) (v : Blk) : (setBlk s b v).pw = s.pw := rfl
@[simp] theorem setBlk_boot (s : State) (b : Nat) (v : Blk) : (setBlk s b v).boot = s.boot := rfl
@[simp] theorem setBlk_flash (s : State) (b : Nat) (v : Blk) : (setBlk s b v).flash = s.flash := rfl
@[simp] theorem setBlk_fuses (s : State) (b : Nat) (v : Blk) : (setBlk s b v).fuses = s.fuses := rfl
@[simp] theorem setBlk_cic (s : State) (b : Nat) (v : Blk) : (setBlk s b v).cic = s.cic := rfl
@[simp] theorem setBlk_fns (s : State) (b : Nat) (v : Blk) : (setBlk s b v).fns = s.fns := rfl
@[simp] theorem setBlk_owners (s : State) (b : Nat) (v : Blk) : (setBlk s b v).owners = s.owners := rfl
@[simp] theorem setBlk_qlocal (s : State) (b : Nat) (v : Blk) : (setBlk s b v).qlocal = s.qlocal := rfl
@[simp] theorem setBlk_commits (s : State) (b : Nat) (v : Blk) : (setBlk s b v).commits = s.commits := rfl
@[simp] theorem setBlk_hif (s : State) (b : Nat) (v : Blk) : (setBlk s b v).hif = s.hif := rfl
@[simp] theorem setBlk_sqm (s : State) (b : Nat) (v : Blk) : (setBlk s b v).sqm = s.sqm := rfl
@[simp] theorem setBlk_fev (s : State) (b : Nat) (v : Blk) : (setBlk s b v).fev = s.fev := rfl
@[simp] theorem setBlk_atu (s : State) (b : Nat) (v : Blk) : (setBlk s b v).atu = s.atu := rfl
@[simp] theorem setBlk_queues (s : State) (b : Nat) (v : Blk) : (setBlk s b v).queues = s.queues := rfl
@[simp] theorem setBlk_tpe (s : State) (b : Nat) (v : Blk) : (setBlk s b v).tpe = s.tpe := rfl
@[simp] theorem setBlk_frt (s : State) (b : Nat) (v : Blk) : (setBlk s b v).frt = s.frt := rfl
@[simp] theorem setBlk_eports (s : State) (b : Nat) (v : Blk) : (setBlk s b v).eports = s.eports := rfl
@[simp] theorem setBlk_lns (s : State) (b : Nat) (v : Blk) : (setBlk s b v).lns = s.lns := rfl
@[simp] theorem setBlk_scb (s : State) (b : Nat) (v : Blk) : (setBlk s b v).scb = s.scb := rfl
@[simp] theorem setBlk_tgd (s : State) (b : Nat) (v : Blk) : (setBlk s b v).tgd = s.tgd := rfl
@[simp] theorem setBlk_cph (s : State) (b : Nat) (v : Blk) : (setBlk s b v).cph = s.cph := rfl
@[simp] theorem setBlk_ccs (s : State) (b : Nat) (v : Blk) : (setBlk s b v).ccs = s.ccs := rfl
@[simp] theorem setBlk_tenants (s : State) (b : Nat) (v : Blk) : (setBlk s b v).tenants = s.tenants := rfl
@[simp] theorem setBlk_rsp (s : State) (b : Nat) (v : Blk) : (setBlk s b v).rsp = s.rsp := rfl
@[simp] theorem setBlk_out (s : State) (b : Nat) (v : Blk) : (setBlk s b v).out = s.out := rfl
@[simp] theorem setBlk_pending (s : State) (b : Nat) (v : Blk) : (setBlk s b v).pending = s.pending := rfl

/-! `zeroRange` -/
@[simp] theorem zeroRange_variant (s : State) (a : Nat) (n : Nat) : (zeroRange s a n).variant = s.variant := rfl
@[simp] theorem zeroRange_time (s : State) (a : Nat) (n : Nat) : (zeroRange s a n).time = s.time := rfl
@[simp] theorem zeroRange_freeCtr (s : State) (a : Nat) (n : Nat) : (zeroRange s a n).freeCtr = s.freeCtr := rfl
@[simp] theorem zeroRange_regs (s : State) (a : Nat) (n : Nat) : (zeroRange s a n).regs = s.regs := rfl
@[simp] theorem zeroRange_pw (s : State) (a : Nat) (n : Nat) : (zeroRange s a n).pw = s.pw := rfl
@[simp] theorem zeroRange_boot (s : State) (a : Nat) (n : Nat) : (zeroRange s a n).boot = s.boot := rfl
@[simp] theorem zeroRange_flash (s : State) (a : Nat) (n : Nat) : (zeroRange s a n).flash = s.flash := rfl
@[simp] theorem zeroRange_fuses (s : State) (a : Nat) (n : Nat) : (zeroRange s a n).fuses = s.fuses := rfl
@[simp] theorem zeroRange_cic (s : State) (a : Nat) (n : Nat) : (zeroRange s a n).cic = s.cic := rfl
@[simp] theorem zeroRange_fns (s : State) (a : Nat) (n : Nat) : (zeroRange s a n).fns = s.fns := rfl
@[simp] theorem zeroRange_owners (s : State) (a : Nat) (n : Nat) : (zeroRange s a n).owners = s.owners := rfl
@[simp] theorem zeroRange_qlocal (s : State) (a : Nat) (n : Nat) : (zeroRange s a n).qlocal = s.qlocal := rfl
@[simp] theorem zeroRange_commits (s : State) (a : Nat) (n : Nat) : (zeroRange s a n).commits = s.commits := rfl
@[simp] theorem zeroRange_hif (s : State) (a : Nat) (n : Nat) : (zeroRange s a n).hif = s.hif := rfl
@[simp] theorem zeroRange_sqm (s : State) (a : Nat) (n : Nat) : (zeroRange s a n).sqm = s.sqm := rfl
@[simp] theorem zeroRange_fev (s : State) (a : Nat) (n : Nat) : (zeroRange s a n).fev = s.fev := rfl
@[simp] theorem zeroRange_atu (s : State) (a : Nat) (n : Nat) : (zeroRange s a n).atu = s.atu := rfl
@[simp] theorem zeroRange_queues (s : State) (a : Nat) (n : Nat) : (zeroRange s a n).queues = s.queues := rfl
@[simp] theorem zeroRange_tpe (s : State) (a : Nat) (n : Nat) : (zeroRange s a n).tpe = s.tpe := rfl
@[simp] theorem zeroRange_frt (s : State) (a : Nat) (n : Nat) : (zeroRange s a n).frt = s.frt := rfl
@[simp] theorem zeroRange_eports (s : State) (a : Nat) (n : Nat) : (zeroRange s a n).eports = s.eports := rfl
@[simp] theorem zeroRange_lns (s : State) (a : Nat) (n : Nat) : (zeroRange s a n).lns = s.lns := rfl
@[simp] theorem zeroRange_scb (s : State) (a : Nat) (n : Nat) : (zeroRange s a n).scb = s.scb := rfl
@[simp] theorem zeroRange_tgd (s : State) (a : Nat) (n : Nat) : (zeroRange s a n).tgd = s.tgd := rfl
@[simp] theorem zeroRange_cph (s : State) (a : Nat) (n : Nat) : (zeroRange s a n).cph = s.cph := rfl
@[simp] theorem zeroRange_ccs (s : State) (a : Nat) (n : Nat) : (zeroRange s a n).ccs = s.ccs := rfl
@[simp] theorem zeroRange_tenants (s : State) (a : Nat) (n : Nat) : (zeroRange s a n).tenants = s.tenants := rfl
@[simp] theorem zeroRange_rsp (s : State) (a : Nat) (n : Nat) : (zeroRange s a n).rsp = s.rsp := rfl
@[simp] theorem zeroRange_out (s : State) (a : Nat) (n : Nat) : (zeroRange s a n).out = s.out := rfl
@[simp] theorem zeroRange_pending (s : State) (a : Nat) (n : Nat) : (zeroRange s a n).pending = s.pending := rfl

/-! `keySetPut` -/
@[simp] theorem keySetPut_variant (s : State) (t : Nat) (quads : BitVec 4) : (keySetPut s t quads).variant = s.variant := rfl
@[simp] theorem keySetPut_time (s : State) (t : Nat) (quads : BitVec 4) : (keySetPut s t quads).time = s.time := rfl
@[simp] theorem keySetPut_freeCtr (s : State) (t : Nat) (quads : BitVec 4) : (keySetPut s t quads).freeCtr = s.freeCtr := rfl
@[simp] theorem keySetPut_regs (s : State) (t : Nat) (quads : BitVec 4) : (keySetPut s t quads).regs = s.regs := rfl
@[simp] theorem keySetPut_pw (s : State) (t : Nat) (quads : BitVec 4) : (keySetPut s t quads).pw = s.pw := rfl
@[simp] theorem keySetPut_boot (s : State) (t : Nat) (quads : BitVec 4) : (keySetPut s t quads).boot = s.boot := rfl
@[simp] theorem keySetPut_flash (s : State) (t : Nat) (quads : BitVec 4) : (keySetPut s t quads).flash = s.flash := rfl
@[simp] theorem keySetPut_fuses (s : State) (t : Nat) (quads : BitVec 4) : (keySetPut s t quads).fuses = s.fuses := rfl
@[simp] theorem keySetPut_cic (s : State) (t : Nat) (quads : BitVec 4) : (keySetPut s t quads).cic = s.cic := rfl
@[simp] theorem keySetPut_fns (s : State) (t : Nat) (quads : BitVec 4) : (keySetPut s t quads).fns = s.fns := rfl
@[simp] theorem keySetPut_owners (s : State) (t : Nat) (quads : BitVec 4) : (keySetPut s t quads).owners = s.owners := rfl
@[simp] theorem keySetPut_qlocal (s : State) (t : Nat) (quads : BitVec 4) : (keySetPut s t quads).qlocal = s.qlocal := rfl
@[simp] theorem keySetPut_commits (s : State) (t : Nat) (quads : BitVec 4) : (keySetPut s t quads).commits = s.commits := rfl
@[simp] theorem keySetPut_hif (s : State) (t : Nat) (quads : BitVec 4) : (keySetPut s t quads).hif = s.hif := rfl
@[simp] theorem keySetPut_sqm (s : State) (t : Nat) (quads : BitVec 4) : (keySetPut s t quads).sqm = s.sqm := rfl
@[simp] theorem keySetPut_fev (s : State) (t : Nat) (quads : BitVec 4) : (keySetPut s t quads).fev = s.fev := rfl
@[simp] theorem keySetPut_atu (s : State) (t : Nat) (quads : BitVec 4) : (keySetPut s t quads).atu = s.atu := rfl
@[simp] theorem keySetPut_queues (s : State) (t : Nat) (quads : BitVec 4) : (keySetPut s t quads).queues = s.queues := rfl
@[simp] theorem keySetPut_tpe (s : State) (t : Nat) (quads : BitVec 4) : (keySetPut s t quads).tpe = s.tpe := rfl
@[simp] theorem keySetPut_frt (s : State) (t : Nat) (quads : BitVec 4) : (keySetPut s t quads).frt = s.frt := rfl
@[simp] theorem keySetPut_eports (s : State) (t : Nat) (quads : BitVec 4) : (keySetPut s t quads).eports = s.eports := rfl
@[simp] theorem keySetPut_lns (s : State) (t : Nat) (quads : BitVec 4) : (keySetPut s t quads).lns = s.lns := rfl
@[simp] theorem keySetPut_scb (s : State) (t : Nat) (quads : BitVec 4) : (keySetPut s t quads).scb = s.scb := rfl
@[simp] theorem keySetPut_tgd (s : State) (t : Nat) (quads : BitVec 4) : (keySetPut s t quads).tgd = s.tgd := rfl
@[simp] theorem keySetPut_cph (s : State) (t : Nat) (quads : BitVec 4) : (keySetPut s t quads).cph = s.cph := rfl
@[simp] theorem keySetPut_ccs (s : State) (t : Nat) (quads : BitVec 4) : (keySetPut s t quads).ccs = s.ccs := rfl
@[simp] theorem keySetPut_tenants (s : State) (t : Nat) (quads : BitVec 4) : (keySetPut s t quads).tenants = s.tenants := rfl
@[simp] theorem keySetPut_rsp (s : State) (t : Nat) (quads : BitVec 4) : (keySetPut s t quads).rsp = s.rsp := rfl
@[simp] theorem keySetPut_out (s : State) (t : Nat) (quads : BitVec 4) : (keySetPut s t quads).out = s.out := rfl
@[simp] theorem keySetPut_pending (s : State) (t : Nat) (quads : BitVec 4) : (keySetPut s t quads).pending = s.pending := rfl

/-! `setReg` -/
@[simp] theorem setReg_variant (s : State) (off : Nat) (idx : Nat) (v : W64) : (setReg s off idx v).variant = s.variant := rfl
@[simp] theorem setReg_time (s : State) (off : Nat) (idx : Nat) (v : W64) : (setReg s off idx v).time = s.time := rfl
@[simp] theorem setReg_freeCtr (s : State) (off : Nat) (idx : Nat) (v : W64) : (setReg s off idx v).freeCtr = s.freeCtr := rfl
@[simp] theorem setReg_pw (s : State) (off : Nat) (idx : Nat) (v : W64) : (setReg s off idx v).pw = s.pw := rfl
@[simp] theorem setReg_boot (s : State) (off : Nat) (idx : Nat) (v : W64) : (setReg s off idx v).boot = s.boot := rfl
@[simp] theorem setReg_flash (s : State) (off : Nat) (idx : Nat) (v : W64) : (setReg s off idx v).flash = s.flash := rfl
@[simp] theorem setReg_fuses (s : State) (off : Nat) (idx : Nat) (v : W64) : (setReg s off idx v).fuses = s.fuses := rfl
@[simp] theorem setReg_cic (s : State) (off : Nat) (idx : Nat) (v : W64) : (setReg s off idx v).cic = s.cic := rfl
@[simp] theorem setReg_fns (s : State) (off : Nat) (idx : Nat) (v : W64) : (setReg s off idx v).fns = s.fns := rfl
@[simp] theorem setReg_owners (s : State) (off : Nat) (idx : Nat) (v : W64) : (setReg s off idx v).owners = s.owners := rfl
@[simp] theorem setReg_qlocal (s : State) (off : Nat) (idx : Nat) (v : W64) : (setReg s off idx v).qlocal = s.qlocal := rfl
@[simp] theorem setReg_commits (s : State) (off : Nat) (idx : Nat) (v : W64) : (setReg s off idx v).commits = s.commits := rfl
@[simp] theorem setReg_hif (s : State) (off : Nat) (idx : Nat) (v : W64) : (setReg s off idx v).hif = s.hif := rfl
@[simp] theorem setReg_sqm (s : State) (off : Nat) (idx : Nat) (v : W64) : (setReg s off idx v).sqm = s.sqm := rfl
@[simp] theorem setReg_fev (s : State) (off : Nat) (idx : Nat) (v : W64) : (setReg s off idx v).fev = s.fev := rfl
@[simp] theorem setReg_mem (s : State) (off : Nat) (idx : Nat) (v : W64) : (setReg s off idx v).mem = s.mem := rfl
@[simp] theorem setReg_atu (s : State) (off : Nat) (idx : Nat) (v : W64) : (setReg s off idx v).atu = s.atu := rfl
@[simp] theorem setReg_queues (s : State) (off : Nat) (idx : Nat) (v : W64) : (setReg s off idx v).queues = s.queues := rfl
@[simp] theorem setReg_tpe (s : State) (off : Nat) (idx : Nat) (v : W64) : (setReg s off idx v).tpe = s.tpe := rfl
@[simp] theorem setReg_frt (s : State) (off : Nat) (idx : Nat) (v : W64) : (setReg s off idx v).frt = s.frt := rfl
@[simp] theorem setReg_eports (s : State) (off : Nat) (idx : Nat) (v : W64) : (setReg s off idx v).eports = s.eports := rfl
@[simp] theorem setReg_lns (s : State) (off : Nat) (idx : Nat) (v : W64) : (setReg s off idx v).lns = s.lns := rfl
@[simp] theorem setReg_scb (s : State) (off : Nat) (idx : Nat) (v : W64) : (setReg s off idx v).scb = s.scb := rfl
@[simp] theorem setReg_tgd (s : State) (off : Nat) (idx : Nat) (v : W64) : (setReg s off idx v).tgd = s.tgd := rfl
@[simp] theorem setReg_cph (s : State) (off : Nat) (idx : Nat) (v : W64) : (setReg s off idx v).cph = s.cph := rfl
@[simp] theorem setReg_ccs (s : State) (off : Nat) (idx : Nat) (v : W64) : (setReg s off idx v).ccs = s.ccs := rfl
@[simp] theorem setReg_tenants (s : State) (off : Nat) (idx : Nat) (v : W64) : (setReg s off idx v).tenants = s.tenants := rfl
@[simp] theorem setReg_rsp (s : State) (off : Nat) (idx : Nat) (v : W64) : (setReg s off idx v).rsp = s.rsp := rfl
@[simp] theorem setReg_out (s : State) (off : Nat) (idx : Nat) (v : W64) : (setReg s off idx v).out = s.out := rfl
@[simp] theorem setReg_pending (s : State) (off : Nat) (idx : Nat) (v : W64) : (setReg s off idx v).pending = s.pending := rfl

/-! `bumpBy` -/
@[simp] theorem bumpBy_variant (s : State) (off : Nat) (idx : Nat) (n : Nat) : (bumpBy s off idx n).variant = s.variant := rfl
@[simp] theorem bumpBy_time (s : State) (off : Nat) (idx : Nat) (n : Nat) : (bumpBy s off idx n).time = s.time := rfl
@[simp] theorem bumpBy_freeCtr (s : State) (off : Nat) (idx : Nat) (n : Nat) : (bumpBy s off idx n).freeCtr = s.freeCtr := rfl
@[simp] theorem bumpBy_pw (s : State) (off : Nat) (idx : Nat) (n : Nat) : (bumpBy s off idx n).pw = s.pw := rfl
@[simp] theorem bumpBy_boot (s : State) (off : Nat) (idx : Nat) (n : Nat) : (bumpBy s off idx n).boot = s.boot := rfl
@[simp] theorem bumpBy_flash (s : State) (off : Nat) (idx : Nat) (n : Nat) : (bumpBy s off idx n).flash = s.flash := rfl
@[simp] theorem bumpBy_fuses (s : State) (off : Nat) (idx : Nat) (n : Nat) : (bumpBy s off idx n).fuses = s.fuses := rfl
@[simp] theorem bumpBy_cic (s : State) (off : Nat) (idx : Nat) (n : Nat) : (bumpBy s off idx n).cic = s.cic := rfl
@[simp] theorem bumpBy_fns (s : State) (off : Nat) (idx : Nat) (n : Nat) : (bumpBy s off idx n).fns = s.fns := rfl
@[simp] theorem bumpBy_owners (s : State) (off : Nat) (idx : Nat) (n : Nat) : (bumpBy s off idx n).owners = s.owners := rfl
@[simp] theorem bumpBy_qlocal (s : State) (off : Nat) (idx : Nat) (n : Nat) : (bumpBy s off idx n).qlocal = s.qlocal := rfl
@[simp] theorem bumpBy_commits (s : State) (off : Nat) (idx : Nat) (n : Nat) : (bumpBy s off idx n).commits = s.commits := rfl
@[simp] theorem bumpBy_hif (s : State) (off : Nat) (idx : Nat) (n : Nat) : (bumpBy s off idx n).hif = s.hif := rfl
@[simp] theorem bumpBy_sqm (s : State) (off : Nat) (idx : Nat) (n : Nat) : (bumpBy s off idx n).sqm = s.sqm := rfl
@[simp] theorem bumpBy_fev (s : State) (off : Nat) (idx : Nat) (n : Nat) : (bumpBy s off idx n).fev = s.fev := rfl
@[simp] theorem bumpBy_mem (s : State) (off : Nat) (idx : Nat) (n : Nat) : (bumpBy s off idx n).mem = s.mem := rfl
@[simp] theorem bumpBy_atu (s : State) (off : Nat) (idx : Nat) (n : Nat) : (bumpBy s off idx n).atu = s.atu := rfl
@[simp] theorem bumpBy_queues (s : State) (off : Nat) (idx : Nat) (n : Nat) : (bumpBy s off idx n).queues = s.queues := rfl
@[simp] theorem bumpBy_tpe (s : State) (off : Nat) (idx : Nat) (n : Nat) : (bumpBy s off idx n).tpe = s.tpe := rfl
@[simp] theorem bumpBy_frt (s : State) (off : Nat) (idx : Nat) (n : Nat) : (bumpBy s off idx n).frt = s.frt := rfl
@[simp] theorem bumpBy_eports (s : State) (off : Nat) (idx : Nat) (n : Nat) : (bumpBy s off idx n).eports = s.eports := rfl
@[simp] theorem bumpBy_lns (s : State) (off : Nat) (idx : Nat) (n : Nat) : (bumpBy s off idx n).lns = s.lns := rfl
@[simp] theorem bumpBy_scb (s : State) (off : Nat) (idx : Nat) (n : Nat) : (bumpBy s off idx n).scb = s.scb := rfl
@[simp] theorem bumpBy_tgd (s : State) (off : Nat) (idx : Nat) (n : Nat) : (bumpBy s off idx n).tgd = s.tgd := rfl
@[simp] theorem bumpBy_cph (s : State) (off : Nat) (idx : Nat) (n : Nat) : (bumpBy s off idx n).cph = s.cph := rfl
@[simp] theorem bumpBy_ccs (s : State) (off : Nat) (idx : Nat) (n : Nat) : (bumpBy s off idx n).ccs = s.ccs := rfl
@[simp] theorem bumpBy_tenants (s : State) (off : Nat) (idx : Nat) (n : Nat) : (bumpBy s off idx n).tenants = s.tenants := rfl
@[simp] theorem bumpBy_rsp (s : State) (off : Nat) (idx : Nat) (n : Nat) : (bumpBy s off idx n).rsp = s.rsp := rfl
@[simp] theorem bumpBy_out (s : State) (off : Nat) (idx : Nat) (n : Nat) : (bumpBy s off idx n).out = s.out := rfl
@[simp] theorem bumpBy_pending (s : State) (off : Nat) (idx : Nat) (n : Nat) : (bumpBy s off idx n).pending = s.pending := rfl

/-! `bump` -/
@[simp] theorem bump_variant (s : State) (off : Nat) (idx : Nat) : (bump s off idx).variant = s.variant := rfl
@[simp] theorem bump_time (s : State) (off : Nat) (idx : Nat) : (bump s off idx).time = s.time := rfl
@[simp] theorem bump_freeCtr (s : State) (off : Nat) (idx : Nat) : (bump s off idx).freeCtr = s.freeCtr := rfl
@[simp] theorem bump_pw (s : State) (off : Nat) (idx : Nat) : (bump s off idx).pw = s.pw := rfl
@[simp] theorem bump_boot (s : State) (off : Nat) (idx : Nat) : (bump s off idx).boot = s.boot := rfl
@[simp] theorem bump_flash (s : State) (off : Nat) (idx : Nat) : (bump s off idx).flash = s.flash := rfl
@[simp] theorem bump_fuses (s : State) (off : Nat) (idx : Nat) : (bump s off idx).fuses = s.fuses := rfl
@[simp] theorem bump_cic (s : State) (off : Nat) (idx : Nat) : (bump s off idx).cic = s.cic := rfl
@[simp] theorem bump_fns (s : State) (off : Nat) (idx : Nat) : (bump s off idx).fns = s.fns := rfl
@[simp] theorem bump_owners (s : State) (off : Nat) (idx : Nat) : (bump s off idx).owners = s.owners := rfl
@[simp] theorem bump_qlocal (s : State) (off : Nat) (idx : Nat) : (bump s off idx).qlocal = s.qlocal := rfl
@[simp] theorem bump_commits (s : State) (off : Nat) (idx : Nat) : (bump s off idx).commits = s.commits := rfl
@[simp] theorem bump_hif (s : State) (off : Nat) (idx : Nat) : (bump s off idx).hif = s.hif := rfl
@[simp] theorem bump_sqm (s : State) (off : Nat) (idx : Nat) : (bump s off idx).sqm = s.sqm := rfl
@[simp] theorem bump_fev (s : State) (off : Nat) (idx : Nat) : (bump s off idx).fev = s.fev := rfl
@[simp] theorem bump_mem (s : State) (off : Nat) (idx : Nat) : (bump s off idx).mem = s.mem := rfl
@[simp] theorem bump_atu (s : State) (off : Nat) (idx : Nat) : (bump s off idx).atu = s.atu := rfl
@[simp] theorem bump_queues (s : State) (off : Nat) (idx : Nat) : (bump s off idx).queues = s.queues := rfl
@[simp] theorem bump_tpe (s : State) (off : Nat) (idx : Nat) : (bump s off idx).tpe = s.tpe := rfl
@[simp] theorem bump_frt (s : State) (off : Nat) (idx : Nat) : (bump s off idx).frt = s.frt := rfl
@[simp] theorem bump_eports (s : State) (off : Nat) (idx : Nat) : (bump s off idx).eports = s.eports := rfl
@[simp] theorem bump_lns (s : State) (off : Nat) (idx : Nat) : (bump s off idx).lns = s.lns := rfl
@[simp] theorem bump_scb (s : State) (off : Nat) (idx : Nat) : (bump s off idx).scb = s.scb := rfl
@[simp] theorem bump_tgd (s : State) (off : Nat) (idx : Nat) : (bump s off idx).tgd = s.tgd := rfl
@[simp] theorem bump_cph (s : State) (off : Nat) (idx : Nat) : (bump s off idx).cph = s.cph := rfl
@[simp] theorem bump_ccs (s : State) (off : Nat) (idx : Nat) : (bump s off idx).ccs = s.ccs := rfl
@[simp] theorem bump_tenants (s : State) (off : Nat) (idx : Nat) : (bump s off idx).tenants = s.tenants := rfl
@[simp] theorem bump_rsp (s : State) (off : Nat) (idx : Nat) : (bump s off idx).rsp = s.rsp := rfl
@[simp] theorem bump_out (s : State) (off : Nat) (idx : Nat) : (bump s off idx).out = s.out := rfl
@[simp] theorem bump_pending (s : State) (off : Nat) (idx : Nat) : (bump s off idx).pending = s.pending := rfl

/-! `regsReset` -/
@[simp] theorem regsReset_variant (s : State) (off : Nat) (p : Nat → Bool) : (regsReset s off p).variant = s.variant := rfl
@[simp] theorem regsReset_time (s : State) (off : Nat) (p : Nat → Bool) : (regsReset s off p).time = s.time := rfl
@[simp] theorem regsReset_freeCtr (s : State) (off : Nat) (p : Nat → Bool) : (regsReset s off p).freeCtr = s.freeCtr := rfl
@[simp] theorem regsReset_pw (s : State) (off : Nat) (p : Nat → Bool) : (regsReset s off p).pw = s.pw := rfl
@[simp] theorem regsReset_boot (s : State) (off : Nat) (p : Nat → Bool) : (regsReset s off p).boot = s.boot := rfl
@[simp] theorem regsReset_flash (s : State) (off : Nat) (p : Nat → Bool) : (regsReset s off p).flash = s.flash := rfl
@[simp] theorem regsReset_fuses (s : State) (off : Nat) (p : Nat → Bool) : (regsReset s off p).fuses = s.fuses := rfl
@[simp] theorem regsReset_cic (s : State) (off : Nat) (p : Nat → Bool) : (regsReset s off p).cic = s.cic := rfl
@[simp] theorem regsReset_fns (s : State) (off : Nat) (p : Nat → Bool) : (regsReset s off p).fns = s.fns := rfl
@[simp] theorem regsReset_owners (s : State) (off : Nat) (p : Nat → Bool) : (regsReset s off p).owners = s.owners := rfl
@[simp] theorem regsReset_qlocal (s : State) (off : Nat) (p : Nat → Bool) : (regsReset s off p).qlocal = s.qlocal := rfl
@[simp] theorem regsReset_commits (s : State) (off : Nat) (p : Nat → Bool) : (regsReset s off p).commits = s.commits := rfl
@[simp] theorem regsReset_hif (s : State) (off : Nat) (p : Nat → Bool) : (regsReset s off p).hif = s.hif := rfl
@[simp] theorem regsReset_sqm (s : State) (off : Nat) (p : Nat → Bool) : (regsReset s off p).sqm = s.sqm := rfl
@[simp] theorem regsReset_fev (s : State) (off : Nat) (p : Nat → Bool) : (regsReset s off p).fev = s.fev := rfl
@[simp] theorem regsReset_mem (s : State) (off : Nat) (p : Nat → Bool) : (regsReset s off p).mem = s.mem := rfl
@[simp] theorem regsReset_atu (s : State) (off : Nat) (p : Nat → Bool) : (regsReset s off p).atu = s.atu := rfl
@[simp] theorem regsReset_queues (s : State) (off : Nat) (p : Nat → Bool) : (regsReset s off p).queues = s.queues := rfl
@[simp] theorem regsReset_tpe (s : State) (off : Nat) (p : Nat → Bool) : (regsReset s off p).tpe = s.tpe := rfl
@[simp] theorem regsReset_frt (s : State) (off : Nat) (p : Nat → Bool) : (regsReset s off p).frt = s.frt := rfl
@[simp] theorem regsReset_eports (s : State) (off : Nat) (p : Nat → Bool) : (regsReset s off p).eports = s.eports := rfl
@[simp] theorem regsReset_lns (s : State) (off : Nat) (p : Nat → Bool) : (regsReset s off p).lns = s.lns := rfl
@[simp] theorem regsReset_scb (s : State) (off : Nat) (p : Nat → Bool) : (regsReset s off p).scb = s.scb := rfl
@[simp] theorem regsReset_tgd (s : State) (off : Nat) (p : Nat → Bool) : (regsReset s off p).tgd = s.tgd := rfl
@[simp] theorem regsReset_cph (s : State) (off : Nat) (p : Nat → Bool) : (regsReset s off p).cph = s.cph := rfl
@[simp] theorem regsReset_ccs (s : State) (off : Nat) (p : Nat → Bool) : (regsReset s off p).ccs = s.ccs := rfl
@[simp] theorem regsReset_tenants (s : State) (off : Nat) (p : Nat → Bool) : (regsReset s off p).tenants = s.tenants := rfl
@[simp] theorem regsReset_rsp (s : State) (off : Nat) (p : Nat → Bool) : (regsReset s off p).rsp = s.rsp := rfl
@[simp] theorem regsReset_out (s : State) (off : Nat) (p : Nat → Bool) : (regsReset s off p).out = s.out := rfl
@[simp] theorem regsReset_pending (s : State) (off : Nat) (p : Nat → Bool) : (regsReset s off p).pending = s.pending := rfl

/-! `emit` -/
@[simp] theorem emit_variant (s : State) (o : Output) : (emit s o).variant = s.variant := rfl
@[simp] theorem emit_time (s : State) (o : Output) : (emit s o).time = s.time := rfl
@[simp] theorem emit_freeCtr (s : State) (o : Output) : (emit s o).freeCtr = s.freeCtr := rfl
@[simp] theorem emit_regs (s : State) (o : Output) : (emit s o).regs = s.regs := rfl
@[simp] theorem emit_pw (s : State) (o : Output) : (emit s o).pw = s.pw := rfl
@[simp] theorem emit_boot (s : State) (o : Output) : (emit s o).boot = s.boot := rfl
@[simp] theorem emit_flash (s : State) (o : Output) : (emit s o).flash = s.flash := rfl
@[simp] theorem emit_fuses (s : State) (o : Output) : (emit s o).fuses = s.fuses := rfl
@[simp] theorem emit_cic (s : State) (o : Output) : (emit s o).cic = s.cic := rfl
@[simp] theorem emit_fns (s : State) (o : Output) : (emit s o).fns = s.fns := rfl
@[simp] theorem emit_owners (s : State) (o : Output) : (emit s o).owners = s.owners := rfl
@[simp] theorem emit_qlocal (s : State) (o : Output) : (emit s o).qlocal = s.qlocal := rfl
@[simp] theorem emit_commits (s : State) (o : Output) : (emit s o).commits = s.commits := rfl
@[simp] theorem emit_hif (s : State) (o : Output) : (emit s o).hif = s.hif := rfl
@[simp] theorem emit_sqm (s : State) (o : Output) : (emit s o).sqm = s.sqm := rfl
@[simp] theorem emit_fev (s : State) (o : Output) : (emit s o).fev = s.fev := rfl
@[simp] theorem emit_mem (s : State) (o : Output) : (emit s o).mem = s.mem := rfl
@[simp] theorem emit_atu (s : State) (o : Output) : (emit s o).atu = s.atu := rfl
@[simp] theorem emit_queues (s : State) (o : Output) : (emit s o).queues = s.queues := rfl
@[simp] theorem emit_tpe (s : State) (o : Output) : (emit s o).tpe = s.tpe := rfl
@[simp] theorem emit_frt (s : State) (o : Output) : (emit s o).frt = s.frt := rfl
@[simp] theorem emit_eports (s : State) (o : Output) : (emit s o).eports = s.eports := rfl
@[simp] theorem emit_lns (s : State) (o : Output) : (emit s o).lns = s.lns := rfl
@[simp] theorem emit_scb (s : State) (o : Output) : (emit s o).scb = s.scb := rfl
@[simp] theorem emit_tgd (s : State) (o : Output) : (emit s o).tgd = s.tgd := rfl
@[simp] theorem emit_cph (s : State) (o : Output) : (emit s o).cph = s.cph := rfl
@[simp] theorem emit_ccs (s : State) (o : Output) : (emit s o).ccs = s.ccs := rfl
@[simp] theorem emit_tenants (s : State) (o : Output) : (emit s o).tenants = s.tenants := rfl
@[simp] theorem emit_rsp (s : State) (o : Output) : (emit s o).rsp = s.rsp := rfl
@[simp] theorem emit_pending (s : State) (o : Output) : (emit s o).pending = s.pending := rfl

/-! `fnMod` -/
@[simp] theorem fnMod_variant (s : State) (f : Nat) (g : Fn → Fn) : (fnMod s f g).variant = s.variant := rfl
@[simp] theorem fnMod_time (s : State) (f : Nat) (g : Fn → Fn) : (fnMod s f g).time = s.time := rfl
@[simp] theorem fnMod_freeCtr (s : State) (f : Nat) (g : Fn → Fn) : (fnMod s f g).freeCtr = s.freeCtr := rfl
@[simp] theorem fnMod_regs (s : State) (f : Nat) (g : Fn → Fn) : (fnMod s f g).regs = s.regs := rfl
@[simp] theorem fnMod_pw (s : State) (f : Nat) (g : Fn → Fn) : (fnMod s f g).pw = s.pw := rfl
@[simp] theorem fnMod_boot (s : State) (f : Nat) (g : Fn → Fn) : (fnMod s f g).boot = s.boot := rfl
@[simp] theorem fnMod_flash (s : State) (f : Nat) (g : Fn → Fn) : (fnMod s f g).flash = s.flash := rfl
@[simp] theorem fnMod_fuses (s : State) (f : Nat) (g : Fn → Fn) : (fnMod s f g).fuses = s.fuses := rfl
@[simp] theorem fnMod_cic (s : State) (f : Nat) (g : Fn → Fn) : (fnMod s f g).cic = s.cic := rfl
@[simp] theorem fnMod_owners (s : State) (f : Nat) (g : Fn → Fn) : (fnMod s f g).owners = s.owners := rfl
@[simp] theorem fnMod_qlocal (s : State) (f : Nat) (g : Fn → Fn) : (fnMod s f g).qlocal = s.qlocal := rfl
@[simp] theorem fnMod_commits (s : State) (f : Nat) (g : Fn → Fn) : (fnMod s f g).commits = s.commits := rfl
@[simp] theorem fnMod_hif (s : State) (f : Nat) (g : Fn → Fn) : (fnMod s f g).hif = s.hif := rfl
@[simp] theorem fnMod_sqm (s : State) (f : Nat) (g : Fn → Fn) : (fnMod s f g).sqm = s.sqm := rfl
@[simp] theorem fnMod_fev (s : State) (f : Nat) (g : Fn → Fn) : (fnMod s f g).fev = s.fev := rfl
@[simp] theorem fnMod_mem (s : State) (f : Nat) (g : Fn → Fn) : (fnMod s f g).mem = s.mem := rfl
@[simp] theorem fnMod_atu (s : State) (f : Nat) (g : Fn → Fn) : (fnMod s f g).atu = s.atu := rfl
@[simp] theorem fnMod_queues (s : State) (f : Nat) (g : Fn → Fn) : (fnMod s f g).queues = s.queues := rfl
@[simp] theorem fnMod_tpe (s : State) (f : Nat) (g : Fn → Fn) : (fnMod s f g).tpe = s.tpe := rfl
@[simp] theorem fnMod_frt (s : State) (f : Nat) (g : Fn → Fn) : (fnMod s f g).frt = s.frt := rfl
@[simp] theorem fnMod_eports (s : State) (f : Nat) (g : Fn → Fn) : (fnMod s f g).eports = s.eports := rfl
@[simp] theorem fnMod_lns (s : State) (f : Nat) (g : Fn → Fn) : (fnMod s f g).lns = s.lns := rfl
@[simp] theorem fnMod_scb (s : State) (f : Nat) (g : Fn → Fn) : (fnMod s f g).scb = s.scb := rfl
@[simp] theorem fnMod_tgd (s : State) (f : Nat) (g : Fn → Fn) : (fnMod s f g).tgd = s.tgd := rfl
@[simp] theorem fnMod_cph (s : State) (f : Nat) (g : Fn → Fn) : (fnMod s f g).cph = s.cph := rfl
@[simp] theorem fnMod_ccs (s : State) (f : Nat) (g : Fn → Fn) : (fnMod s f g).ccs = s.ccs := rfl
@[simp] theorem fnMod_tenants (s : State) (f : Nat) (g : Fn → Fn) : (fnMod s f g).tenants = s.tenants := rfl
@[simp] theorem fnMod_rsp (s : State) (f : Nat) (g : Fn → Fn) : (fnMod s f g).rsp = s.rsp := rfl
@[simp] theorem fnMod_out (s : State) (f : Nat) (g : Fn → Fn) : (fnMod s f g).out = s.out := rfl
@[simp] theorem fnMod_pending (s : State) (f : Nat) (g : Fn → Fn) : (fnMod s f g).pending = s.pending := rfl

/-! `dropHeld` -/
@[simp] theorem dropHeld_variant (s : State) (f : Nat) : (dropHeld s f).variant = s.variant := rfl
@[simp] theorem dropHeld_time (s : State) (f : Nat) : (dropHeld s f).time = s.time := rfl
@[simp] theorem dropHeld_freeCtr (s : State) (f : Nat) : (dropHeld s f).freeCtr = s.freeCtr := rfl
@[simp] theorem dropHeld_regs (s : State) (f : Nat) : (dropHeld s f).regs = s.regs := rfl
@[simp] theorem dropHeld_pw (s : State) (f : Nat) : (dropHeld s f).pw = s.pw := rfl
@[simp] theorem dropHeld_boot (s : State) (f : Nat) : (dropHeld s f).boot = s.boot := rfl
@[simp] theorem dropHeld_flash (s : State) (f : Nat) : (dropHeld s f).flash = s.flash := rfl
@[simp] theorem dropHeld_fuses (s : State) (f : Nat) : (dropHeld s f).fuses = s.fuses := rfl
@[simp] theorem dropHeld_cic (s : State) (f : Nat) : (dropHeld s f).cic = s.cic := rfl
@[simp] theorem dropHeld_owners (s : State) (f : Nat) : (dropHeld s f).owners = s.owners := rfl
@[simp] theorem dropHeld_qlocal (s : State) (f : Nat) : (dropHeld s f).qlocal = s.qlocal := rfl
@[simp] theorem dropHeld_commits (s : State) (f : Nat) : (dropHeld s f).commits = s.commits := rfl
@[simp] theorem dropHeld_hif (s : State) (f : Nat) : (dropHeld s f).hif = s.hif := rfl
@[simp] theorem dropHeld_sqm (s : State) (f : Nat) : (dropHeld s f).sqm = s.sqm := rfl
@[simp] theorem dropHeld_fev (s : State) (f : Nat) : (dropHeld s f).fev = s.fev := rfl
@[simp] theorem dropHeld_mem (s : State) (f : Nat) : (dropHeld s f).mem = s.mem := rfl
@[simp] theorem dropHeld_atu (s : State) (f : Nat) : (dropHeld s f).atu = s.atu := rfl
@[simp] theorem dropHeld_queues (s : State) (f : Nat) : (dropHeld s f).queues = s.queues := rfl
@[simp] theorem dropHeld_tpe (s : State) (f : Nat) : (dropHeld s f).tpe = s.tpe := rfl
@[simp] theorem dropHeld_frt (s : State) (f : Nat) : (dropHeld s f).frt = s.frt := rfl
@[simp] theorem dropHeld_eports (s : State) (f : Nat) : (dropHeld s f).eports = s.eports := rfl
@[simp] theorem dropHeld_lns (s : State) (f : Nat) : (dropHeld s f).lns = s.lns := rfl
@[simp] theorem dropHeld_scb (s : State) (f : Nat) : (dropHeld s f).scb = s.scb := rfl
@[simp] theorem dropHeld_tgd (s : State) (f : Nat) : (dropHeld s f).tgd = s.tgd := rfl
@[simp] theorem dropHeld_cph (s : State) (f : Nat) : (dropHeld s f).cph = s.cph := rfl
@[simp] theorem dropHeld_ccs (s : State) (f : Nat) : (dropHeld s f).ccs = s.ccs := rfl
@[simp] theorem dropHeld_tenants (s : State) (f : Nat) : (dropHeld s f).tenants = s.tenants := rfl
@[simp] theorem dropHeld_rsp (s : State) (f : Nat) : (dropHeld s f).rsp = s.rsp := rfl
@[simp] theorem dropHeld_out (s : State) (f : Nat) : (dropHeld s f).out = s.out := rfl
@[simp] theorem dropHeld_pending (s : State) (f : Nat) : (dropHeld s f).pending = s.pending := rfl

/-! `tenantMod` -/
@[simp] theorem tenantMod_variant (s : State) (t : Nat) (g : Tenant → Tenant) : (tenantMod s t g).variant = s.variant := rfl
@[simp] theorem tenantMod_time (s : State) (t : Nat) (g : Tenant → Tenant) : (tenantMod s t g).time = s.time := rfl
@[simp] theorem tenantMod_freeCtr (s : State) (t : Nat) (g : Tenant → Tenant) : (tenantMod s t g).freeCtr = s.freeCtr := rfl
@[simp] theorem tenantMod_regs (s : State) (t : Nat) (g : Tenant → Tenant) : (tenantMod s t g).regs = s.regs := rfl
@[simp] theorem tenantMod_pw (s : State) (t : Nat) (g : Tenant → Tenant) : (tenantMod s t g).pw = s.pw := rfl
@[simp] theorem tenantMod_boot (s : State) (t : Nat) (g : Tenant → Tenant) : (tenantMod s t g).boot = s.boot := rfl
@[simp] theorem tenantMod_flash (s : State) (t : Nat) (g : Tenant → Tenant) : (tenantMod s t g).flash = s.flash := rfl
@[simp] theorem tenantMod_fuses (s : State) (t : Nat) (g : Tenant → Tenant) : (tenantMod s t g).fuses = s.fuses := rfl
@[simp] theorem tenantMod_cic (s : State) (t : Nat) (g : Tenant → Tenant) : (tenantMod s t g).cic = s.cic := rfl
@[simp] theorem tenantMod_fns (s : State) (t : Nat) (g : Tenant → Tenant) : (tenantMod s t g).fns = s.fns := rfl
@[simp] theorem tenantMod_owners (s : State) (t : Nat) (g : Tenant → Tenant) : (tenantMod s t g).owners = s.owners := rfl
@[simp] theorem tenantMod_qlocal (s : State) (t : Nat) (g : Tenant → Tenant) : (tenantMod s t g).qlocal = s.qlocal := rfl
@[simp] theorem tenantMod_commits (s : State) (t : Nat) (g : Tenant → Tenant) : (tenantMod s t g).commits = s.commits := rfl
@[simp] theorem tenantMod_hif (s : State) (t : Nat) (g : Tenant → Tenant) : (tenantMod s t g).hif = s.hif := rfl
@[simp] theorem tenantMod_sqm (s : State) (t : Nat) (g : Tenant → Tenant) : (tenantMod s t g).sqm = s.sqm := rfl
@[simp] theorem tenantMod_fev (s : State) (t : Nat) (g : Tenant → Tenant) : (tenantMod s t g).fev = s.fev := rfl
@[simp] theorem tenantMod_mem (s : State) (t : Nat) (g : Tenant → Tenant) : (tenantMod s t g).mem = s.mem := rfl
@[simp] theorem tenantMod_atu (s : State) (t : Nat) (g : Tenant → Tenant) : (tenantMod s t g).atu = s.atu := rfl
@[simp] theorem tenantMod_queues (s : State) (t : Nat) (g : Tenant → Tenant) : (tenantMod s t g).queues = s.queues := rfl
@[simp] theorem tenantMod_tpe (s : State) (t : Nat) (g : Tenant → Tenant) : (tenantMod s t g).tpe = s.tpe := rfl
@[simp] theorem tenantMod_frt (s : State) (t : Nat) (g : Tenant → Tenant) : (tenantMod s t g).frt = s.frt := rfl
@[simp] theorem tenantMod_eports (s : State) (t : Nat) (g : Tenant → Tenant) : (tenantMod s t g).eports = s.eports := rfl
@[simp] theorem tenantMod_lns (s : State) (t : Nat) (g : Tenant → Tenant) : (tenantMod s t g).lns = s.lns := rfl
@[simp] theorem tenantMod_scb (s : State) (t : Nat) (g : Tenant → Tenant) : (tenantMod s t g).scb = s.scb := rfl
@[simp] theorem tenantMod_tgd (s : State) (t : Nat) (g : Tenant → Tenant) : (tenantMod s t g).tgd = s.tgd := rfl
@[simp] theorem tenantMod_cph (s : State) (t : Nat) (g : Tenant → Tenant) : (tenantMod s t g).cph = s.cph := rfl
@[simp] theorem tenantMod_ccs (s : State) (t : Nat) (g : Tenant → Tenant) : (tenantMod s t g).ccs = s.ccs := rfl
@[simp] theorem tenantMod_rsp (s : State) (t : Nat) (g : Tenant → Tenant) : (tenantMod s t g).rsp = s.rsp := rfl
@[simp] theorem tenantMod_out (s : State) (t : Nat) (g : Tenant → Tenant) : (tenantMod s t g).out = s.out := rfl
@[simp] theorem tenantMod_pending (s : State) (t : Nat) (g : Tenant → Tenant) : (tenantMod s t g).pending = s.pending := rfl

/-! `setOwner` -/
@[simp] theorem setOwner_variant (s : State) (kind : Nat) (index : Nat) (t : Nat) : (setOwner s kind index t).variant = s.variant := rfl
@[simp] theorem setOwner_time (s : State) (kind : Nat) (index : Nat) (t : Nat) : (setOwner s kind index t).time = s.time := rfl
@[simp] theorem setOwner_freeCtr (s : State) (kind : Nat) (index : Nat) (t : Nat) : (setOwner s kind index t).freeCtr = s.freeCtr := rfl
@[simp] theorem setOwner_regs (s : State) (kind : Nat) (index : Nat) (t : Nat) : (setOwner s kind index t).regs = s.regs := rfl
@[simp] theorem setOwner_pw (s : State) (kind : Nat) (index : Nat) (t : Nat) : (setOwner s kind index t).pw = s.pw := rfl
@[simp] theorem setOwner_boot (s : State) (kind : Nat) (index : Nat) (t : Nat) : (setOwner s kind index t).boot = s.boot := rfl
@[simp] theorem setOwner_flash (s : State) (kind : Nat) (index : Nat) (t : Nat) : (setOwner s kind index t).flash = s.flash := rfl
@[simp] theorem setOwner_fuses (s : State) (kind : Nat) (index : Nat) (t : Nat) : (setOwner s kind index t).fuses = s.fuses := rfl
@[simp] theorem setOwner_cic (s : State) (kind : Nat) (index : Nat) (t : Nat) : (setOwner s kind index t).cic = s.cic := rfl
@[simp] theorem setOwner_fns (s : State) (kind : Nat) (index : Nat) (t : Nat) : (setOwner s kind index t).fns = s.fns := rfl
@[simp] theorem setOwner_qlocal (s : State) (kind : Nat) (index : Nat) (t : Nat) : (setOwner s kind index t).qlocal = s.qlocal := rfl
@[simp] theorem setOwner_commits (s : State) (kind : Nat) (index : Nat) (t : Nat) : (setOwner s kind index t).commits = s.commits := rfl
@[simp] theorem setOwner_hif (s : State) (kind : Nat) (index : Nat) (t : Nat) : (setOwner s kind index t).hif = s.hif := rfl
@[simp] theorem setOwner_sqm (s : State) (kind : Nat) (index : Nat) (t : Nat) : (setOwner s kind index t).sqm = s.sqm := rfl
@[simp] theorem setOwner_fev (s : State) (kind : Nat) (index : Nat) (t : Nat) : (setOwner s kind index t).fev = s.fev := rfl
@[simp] theorem setOwner_mem (s : State) (kind : Nat) (index : Nat) (t : Nat) : (setOwner s kind index t).mem = s.mem := rfl
@[simp] theorem setOwner_atu (s : State) (kind : Nat) (index : Nat) (t : Nat) : (setOwner s kind index t).atu = s.atu := rfl
@[simp] theorem setOwner_queues (s : State) (kind : Nat) (index : Nat) (t : Nat) : (setOwner s kind index t).queues = s.queues := rfl
@[simp] theorem setOwner_tpe (s : State) (kind : Nat) (index : Nat) (t : Nat) : (setOwner s kind index t).tpe = s.tpe := rfl
@[simp] theorem setOwner_frt (s : State) (kind : Nat) (index : Nat) (t : Nat) : (setOwner s kind index t).frt = s.frt := rfl
@[simp] theorem setOwner_eports (s : State) (kind : Nat) (index : Nat) (t : Nat) : (setOwner s kind index t).eports = s.eports := rfl
@[simp] theorem setOwner_lns (s : State) (kind : Nat) (index : Nat) (t : Nat) : (setOwner s kind index t).lns = s.lns := rfl
@[simp] theorem setOwner_scb (s : State) (kind : Nat) (index : Nat) (t : Nat) : (setOwner s kind index t).scb = s.scb := rfl
@[simp] theorem setOwner_tgd (s : State) (kind : Nat) (index : Nat) (t : Nat) : (setOwner s kind index t).tgd = s.tgd := rfl
@[simp] theorem setOwner_cph (s : State) (kind : Nat) (index : Nat) (t : Nat) : (setOwner s kind index t).cph = s.cph := rfl
@[simp] theorem setOwner_ccs (s : State) (kind : Nat) (index : Nat) (t : Nat) : (setOwner s kind index t).ccs = s.ccs := rfl
@[simp] theorem setOwner_tenants (s : State) (kind : Nat) (index : Nat) (t : Nat) : (setOwner s kind index t).tenants = s.tenants := rfl
@[simp] theorem setOwner_rsp (s : State) (kind : Nat) (index : Nat) (t : Nat) : (setOwner s kind index t).rsp = s.rsp := rfl
@[simp] theorem setOwner_out (s : State) (kind : Nat) (index : Nat) (t : Nat) : (setOwner s kind index t).out = s.out := rfl
@[simp] theorem setOwner_pending (s : State) (kind : Nat) (index : Nat) (t : Nat) : (setOwner s kind index t).pending = s.pending := rfl

/-! `requesterMod` -/
@[simp] theorem requesterMod_variant (s : State) (who : Nat) (f : Requester → Requester) : (requesterMod s who f).variant = s.variant := rfl
@[simp] theorem requesterMod_time (s : State) (who : Nat) (f : Requester → Requester) : (requesterMod s who f).time = s.time := rfl
@[simp] theorem requesterMod_freeCtr (s : State) (who : Nat) (f : Requester → Requester) : (requesterMod s who f).freeCtr = s.freeCtr := rfl
@[simp] theorem requesterMod_regs (s : State) (who : Nat) (f : Requester → Requester) : (requesterMod s who f).regs = s.regs := rfl
@[simp] theorem requesterMod_pw (s : State) (who : Nat) (f : Requester → Requester) : (requesterMod s who f).pw = s.pw := rfl
@[simp] theorem requesterMod_boot (s : State) (who : Nat) (f : Requester → Requester) : (requesterMod s who f).boot = s.boot := rfl
@[simp] theorem requesterMod_flash (s : State) (who : Nat) (f : Requester → Requester) : (requesterMod s who f).flash = s.flash := rfl
@[simp] theorem requesterMod_fuses (s : State) (who : Nat) (f : Requester → Requester) : (requesterMod s who f).fuses = s.fuses := rfl
@[simp] theorem requesterMod_cic (s : State) (who : Nat) (f : Requester → Requester) : (requesterMod s who f).cic = s.cic := rfl
@[simp] theorem requesterMod_fns (s : State) (who : Nat) (f : Requester → Requester) : (requesterMod s who f).fns = s.fns := rfl
@[simp] theorem requesterMod_owners (s : State) (who : Nat) (f : Requester → Requester) : (requesterMod s who f).owners = s.owners := rfl
@[simp] theorem requesterMod_qlocal (s : State) (who : Nat) (f : Requester → Requester) : (requesterMod s who f).qlocal = s.qlocal := rfl
@[simp] theorem requesterMod_commits (s : State) (who : Nat) (f : Requester → Requester) : (requesterMod s who f).commits = s.commits := rfl
@[simp] theorem requesterMod_hif (s : State) (who : Nat) (f : Requester → Requester) : (requesterMod s who f).hif = s.hif := rfl
@[simp] theorem requesterMod_sqm (s : State) (who : Nat) (f : Requester → Requester) : (requesterMod s who f).sqm = s.sqm := rfl
@[simp] theorem requesterMod_fev (s : State) (who : Nat) (f : Requester → Requester) : (requesterMod s who f).fev = s.fev := rfl
@[simp] theorem requesterMod_mem (s : State) (who : Nat) (f : Requester → Requester) : (requesterMod s who f).mem = s.mem := rfl
@[simp] theorem requesterMod_atu (s : State) (who : Nat) (f : Requester → Requester) : (requesterMod s who f).atu = s.atu := rfl
@[simp] theorem requesterMod_queues (s : State) (who : Nat) (f : Requester → Requester) : (requesterMod s who f).queues = s.queues := rfl
@[simp] theorem requesterMod_tpe (s : State) (who : Nat) (f : Requester → Requester) : (requesterMod s who f).tpe = s.tpe := rfl
@[simp] theorem requesterMod_frt (s : State) (who : Nat) (f : Requester → Requester) : (requesterMod s who f).frt = s.frt := rfl
@[simp] theorem requesterMod_eports (s : State) (who : Nat) (f : Requester → Requester) : (requesterMod s who f).eports = s.eports := rfl
@[simp] theorem requesterMod_lns (s : State) (who : Nat) (f : Requester → Requester) : (requesterMod s who f).lns = s.lns := rfl
@[simp] theorem requesterMod_scb (s : State) (who : Nat) (f : Requester → Requester) : (requesterMod s who f).scb = s.scb := rfl
@[simp] theorem requesterMod_tgd (s : State) (who : Nat) (f : Requester → Requester) : (requesterMod s who f).tgd = s.tgd := rfl
@[simp] theorem requesterMod_cph (s : State) (who : Nat) (f : Requester → Requester) : (requesterMod s who f).cph = s.cph := rfl
@[simp] theorem requesterMod_ccs (s : State) (who : Nat) (f : Requester → Requester) : (requesterMod s who f).ccs = s.ccs := rfl
@[simp] theorem requesterMod_tenants (s : State) (who : Nat) (f : Requester → Requester) : (requesterMod s who f).tenants = s.tenants := rfl
@[simp] theorem requesterMod_out (s : State) (who : Nat) (f : Requester → Requester) : (requesterMod s who f).out = s.out := rfl
@[simp] theorem requesterMod_pending (s : State) (who : Nat) (f : Requester → Requester) : (requesterMod s who f).pending = s.pending := rfl

/-! `grpMod` -/
@[simp] theorem grpMod_variant (s : State) (g : Nat) (f : ScbGroup → ScbGroup) : (grpMod s g f).variant = s.variant := rfl
@[simp] theorem grpMod_time (s : State) (g : Nat) (f : ScbGroup → ScbGroup) : (grpMod s g f).time = s.time := rfl
@[simp] theorem grpMod_freeCtr (s : State) (g : Nat) (f : ScbGroup → ScbGroup) : (grpMod s g f).freeCtr = s.freeCtr := rfl
@[simp] theorem grpMod_regs (s : State) (g : Nat) (f : ScbGroup → ScbGroup) : (grpMod s g f).regs = s.regs := rfl
@[simp] theorem grpMod_pw (s : State) (g : Nat) (f : ScbGroup → ScbGroup) : (grpMod s g f).pw = s.pw := rfl
@[simp] theorem grpMod_boot (s : State) (g : Nat) (f : ScbGroup → ScbGroup) : (grpMod s g f).boot = s.boot := rfl
@[simp] theorem grpMod_flash (s : State) (g : Nat) (f : ScbGroup → ScbGroup) : (grpMod s g f).flash = s.flash := rfl
@[simp] theorem grpMod_fuses (s : State) (g : Nat) (f : ScbGroup → ScbGroup) : (grpMod s g f).fuses = s.fuses := rfl
@[simp] theorem grpMod_cic (s : State) (g : Nat) (f : ScbGroup → ScbGroup) : (grpMod s g f).cic = s.cic := rfl
@[simp] theorem grpMod_fns (s : State) (g : Nat) (f : ScbGroup → ScbGroup) : (grpMod s g f).fns = s.fns := rfl
@[simp] theorem grpMod_owners (s : State) (g : Nat) (f : ScbGroup → ScbGroup) : (grpMod s g f).owners = s.owners := rfl
@[simp] theorem grpMod_qlocal (s : State) (g : Nat) (f : ScbGroup → ScbGroup) : (grpMod s g f).qlocal = s.qlocal := rfl
@[simp] theorem grpMod_commits (s : State) (g : Nat) (f : ScbGroup → ScbGroup) : (grpMod s g f).commits = s.commits := rfl
@[simp] theorem grpMod_hif (s : State) (g : Nat) (f : ScbGroup → ScbGroup) : (grpMod s g f).hif = s.hif := rfl
@[simp] theorem grpMod_sqm (s : State) (g : Nat) (f : ScbGroup → ScbGroup) : (grpMod s g f).sqm = s.sqm := rfl
@[simp] theorem grpMod_fev (s : State) (g : Nat) (f : ScbGroup → ScbGroup) : (grpMod s g f).fev = s.fev := rfl
@[simp] theorem grpMod_mem (s : State) (g : Nat) (f : ScbGroup → ScbGroup) : (grpMod s g f).mem = s.mem := rfl
@[simp] theorem grpMod_atu (s : State) (g : Nat) (f : ScbGroup → ScbGroup) : (grpMod s g f).atu = s.atu := rfl
@[simp] theorem grpMod_queues (s : State) (g : Nat) (f : ScbGroup → ScbGroup) : (grpMod s g f).queues = s.queues := rfl
@[simp] theorem grpMod_tpe (s : State) (g : Nat) (f : ScbGroup → ScbGroup) : (grpMod s g f).tpe = s.tpe := rfl
@[simp] theorem grpMod_frt (s : State) (g : Nat) (f : ScbGroup → ScbGroup) : (grpMod s g f).frt = s.frt := rfl
@[simp] theorem grpMod_eports (s : State) (g : Nat) (f : ScbGroup → ScbGroup) : (grpMod s g f).eports = s.eports := rfl
@[simp] theorem grpMod_lns (s : State) (g : Nat) (f : ScbGroup → ScbGroup) : (grpMod s g f).lns = s.lns := rfl
@[simp] theorem grpMod_tgd (s : State) (g : Nat) (f : ScbGroup → ScbGroup) : (grpMod s g f).tgd = s.tgd := rfl
@[simp] theorem grpMod_cph (s : State) (g : Nat) (f : ScbGroup → ScbGroup) : (grpMod s g f).cph = s.cph := rfl
@[simp] theorem grpMod_ccs (s : State) (g : Nat) (f : ScbGroup → ScbGroup) : (grpMod s g f).ccs = s.ccs := rfl
@[simp] theorem grpMod_tenants (s : State) (g : Nat) (f : ScbGroup → ScbGroup) : (grpMod s g f).tenants = s.tenants := rfl
@[simp] theorem grpMod_rsp (s : State) (g : Nat) (f : ScbGroup → ScbGroup) : (grpMod s g f).rsp = s.rsp := rfl
@[simp] theorem grpMod_out (s : State) (g : Nat) (f : ScbGroup → ScbGroup) : (grpMod s g f).out = s.out := rfl
@[simp] theorem grpMod_pending (s : State) (g : Nat) (f : ScbGroup → ScbGroup) : (grpMod s g f).pending = s.pending := rfl

/-! `sqmMod` -/
@[simp] theorem sqmMod_variant (s : State) (q : Nat) (f : SqmQ → SqmQ) : (sqmMod s q f).variant = s.variant := rfl
@[simp] theorem sqmMod_time (s : State) (q : Nat) (f : SqmQ → SqmQ) : (sqmMod s q f).time = s.time := rfl
@[simp] theorem sqmMod_freeCtr (s : State) (q : Nat) (f : SqmQ → SqmQ) : (sqmMod s q f).freeCtr = s.freeCtr := rfl
@[simp] theorem sqmMod_regs (s : State) (q : Nat) (f : SqmQ → SqmQ) : (sqmMod s q f).regs = s.regs := rfl
@[simp] theorem sqmMod_pw (s : State) (q : Nat) (f : SqmQ → SqmQ) : (sqmMod s q f).pw = s.pw := rfl
@[simp] theorem sqmMod_boot (s : State) (q : Nat) (f : SqmQ → SqmQ) : (sqmMod s q f).boot = s.boot := rfl
@[simp] theorem sqmMod_flash (s : State) (q : Nat) (f : SqmQ → SqmQ) : (sqmMod s q f).flash = s.flash := rfl
@[simp] theorem sqmMod_fuses (s : State) (q : Nat) (f : SqmQ → SqmQ) : (sqmMod s q f).fuses = s.fuses := rfl
@[simp] theorem sqmMod_cic (s : State) (q : Nat) (f : SqmQ → SqmQ) : (sqmMod s q f).cic = s.cic := rfl
@[simp] theorem sqmMod_fns (s : State) (q : Nat) (f : SqmQ → SqmQ) : (sqmMod s q f).fns = s.fns := rfl
@[simp] theorem sqmMod_owners (s : State) (q : Nat) (f : SqmQ → SqmQ) : (sqmMod s q f).owners = s.owners := rfl
@[simp] theorem sqmMod_qlocal (s : State) (q : Nat) (f : SqmQ → SqmQ) : (sqmMod s q f).qlocal = s.qlocal := rfl
@[simp] theorem sqmMod_commits (s : State) (q : Nat) (f : SqmQ → SqmQ) : (sqmMod s q f).commits = s.commits := rfl
@[simp] theorem sqmMod_hif (s : State) (q : Nat) (f : SqmQ → SqmQ) : (sqmMod s q f).hif = s.hif := rfl
@[simp] theorem sqmMod_fev (s : State) (q : Nat) (f : SqmQ → SqmQ) : (sqmMod s q f).fev = s.fev := rfl
@[simp] theorem sqmMod_mem (s : State) (q : Nat) (f : SqmQ → SqmQ) : (sqmMod s q f).mem = s.mem := rfl
@[simp] theorem sqmMod_atu (s : State) (q : Nat) (f : SqmQ → SqmQ) : (sqmMod s q f).atu = s.atu := rfl
@[simp] theorem sqmMod_queues (s : State) (q : Nat) (f : SqmQ → SqmQ) : (sqmMod s q f).queues = s.queues := rfl
@[simp] theorem sqmMod_tpe (s : State) (q : Nat) (f : SqmQ → SqmQ) : (sqmMod s q f).tpe = s.tpe := rfl
@[simp] theorem sqmMod_frt (s : State) (q : Nat) (f : SqmQ → SqmQ) : (sqmMod s q f).frt = s.frt := rfl
@[simp] theorem sqmMod_eports (s : State) (q : Nat) (f : SqmQ → SqmQ) : (sqmMod s q f).eports = s.eports := rfl
@[simp] theorem sqmMod_lns (s : State) (q : Nat) (f : SqmQ → SqmQ) : (sqmMod s q f).lns = s.lns := rfl
@[simp] theorem sqmMod_scb (s : State) (q : Nat) (f : SqmQ → SqmQ) : (sqmMod s q f).scb = s.scb := rfl
@[simp] theorem sqmMod_tgd (s : State) (q : Nat) (f : SqmQ → SqmQ) : (sqmMod s q f).tgd = s.tgd := rfl
@[simp] theorem sqmMod_cph (s : State) (q : Nat) (f : SqmQ → SqmQ) : (sqmMod s q f).cph = s.cph := rfl
@[simp] theorem sqmMod_ccs (s : State) (q : Nat) (f : SqmQ → SqmQ) : (sqmMod s q f).ccs = s.ccs := rfl
@[simp] theorem sqmMod_tenants (s : State) (q : Nat) (f : SqmQ → SqmQ) : (sqmMod s q f).tenants = s.tenants := rfl
@[simp] theorem sqmMod_rsp (s : State) (q : Nat) (f : SqmQ → SqmQ) : (sqmMod s q f).rsp = s.rsp := rfl
@[simp] theorem sqmMod_out (s : State) (q : Nat) (f : SqmQ → SqmQ) : (sqmMod s q f).out = s.out := rfl
@[simp] theorem sqmMod_pending (s : State) (q : Nat) (f : SqmQ → SqmQ) : (sqmMod s q f).pending = s.pending := rfl

/-! `sqmSetFree` -/
@[simp] theorem sqmSetFree_variant (s : State) (sl : Nat) (n : Nat) : (sqmSetFree s sl n).variant = s.variant := rfl
@[simp] theorem sqmSetFree_time (s : State) (sl : Nat) (n : Nat) : (sqmSetFree s sl n).time = s.time := rfl
@[simp] theorem sqmSetFree_freeCtr (s : State) (sl : Nat) (n : Nat) : (sqmSetFree s sl n).freeCtr = s.freeCtr := rfl
@[simp] theorem sqmSetFree_regs (s : State) (sl : Nat) (n : Nat) : (sqmSetFree s sl n).regs = s.regs := rfl
@[simp] theorem sqmSetFree_pw (s : State) (sl : Nat) (n : Nat) : (sqmSetFree s sl n).pw = s.pw := rfl
@[simp] theorem sqmSetFree_boot (s : State) (sl : Nat) (n : Nat) : (sqmSetFree s sl n).boot = s.boot := rfl
@[simp] theorem sqmSetFree_flash (s : State) (sl : Nat) (n : Nat) : (sqmSetFree s sl n).flash = s.flash := rfl
@[simp] theorem sqmSetFree_fuses (s : State) (sl : Nat) (n : Nat) : (sqmSetFree s sl n).fuses = s.fuses := rfl
@[simp] theorem sqmSetFree_cic (s : State) (sl : Nat) (n : Nat) : (sqmSetFree s sl n).cic = s.cic := rfl
@[simp] theorem sqmSetFree_fns (s : State) (sl : Nat) (n : Nat) : (sqmSetFree s sl n).fns = s.fns := rfl
@[simp] theorem sqmSetFree_owners (s : State) (sl : Nat) (n : Nat) : (sqmSetFree s sl n).owners = s.owners := rfl
@[simp] theorem sqmSetFree_qlocal (s : State) (sl : Nat) (n : Nat) : (sqmSetFree s sl n).qlocal = s.qlocal := rfl
@[simp] theorem sqmSetFree_commits (s : State) (sl : Nat) (n : Nat) : (sqmSetFree s sl n).commits = s.commits := rfl
@[simp] theorem sqmSetFree_hif (s : State) (sl : Nat) (n : Nat) : (sqmSetFree s sl n).hif = s.hif := rfl
@[simp] theorem sqmSetFree_fev (s : State) (sl : Nat) (n : Nat) : (sqmSetFree s sl n).fev = s.fev := rfl
@[simp] theorem sqmSetFree_mem (s : State) (sl : Nat) (n : Nat) : (sqmSetFree s sl n).mem = s.mem := rfl
@[simp] theorem sqmSetFree_atu (s : State) (sl : Nat) (n : Nat) : (sqmSetFree s sl n).atu = s.atu := rfl
@[simp] theorem sqmSetFree_queues (s : State) (sl : Nat) (n : Nat) : (sqmSetFree s sl n).queues = s.queues := rfl
@[simp] theorem sqmSetFree_tpe (s : State) (sl : Nat) (n : Nat) : (sqmSetFree s sl n).tpe = s.tpe := rfl
@[simp] theorem sqmSetFree_frt (s : State) (sl : Nat) (n : Nat) : (sqmSetFree s sl n).frt = s.frt := rfl
@[simp] theorem sqmSetFree_eports (s : State) (sl : Nat) (n : Nat) : (sqmSetFree s sl n).eports = s.eports := rfl
@[simp] theorem sqmSetFree_lns (s : State) (sl : Nat) (n : Nat) : (sqmSetFree s sl n).lns = s.lns := rfl
@[simp] theorem sqmSetFree_scb (s : State) (sl : Nat) (n : Nat) : (sqmSetFree s sl n).scb = s.scb := rfl
@[simp] theorem sqmSetFree_tgd (s : State) (sl : Nat) (n : Nat) : (sqmSetFree s sl n).tgd = s.tgd := rfl
@[simp] theorem sqmSetFree_cph (s : State) (sl : Nat) (n : Nat) : (sqmSetFree s sl n).cph = s.cph := rfl
@[simp] theorem sqmSetFree_ccs (s : State) (sl : Nat) (n : Nat) : (sqmSetFree s sl n).ccs = s.ccs := rfl
@[simp] theorem sqmSetFree_tenants (s : State) (sl : Nat) (n : Nat) : (sqmSetFree s sl n).tenants = s.tenants := rfl
@[simp] theorem sqmSetFree_rsp (s : State) (sl : Nat) (n : Nat) : (sqmSetFree s sl n).rsp = s.rsp := rfl
@[simp] theorem sqmSetFree_out (s : State) (sl : Nat) (n : Nat) : (sqmSetFree s sl n).out = s.out := rfl
@[simp] theorem sqmSetFree_pending (s : State) (sl : Nat) (n : Nat) : (sqmSetFree s sl n).pending = s.pending := rfl

/-! `sqmSetRes` -/
@[simp] theorem sqmSetRes_variant (s : State) (sl : Nat) (n : Nat) : (sqmSetRes s sl n).variant = s.variant := rfl
@[simp] theorem sqmSetRes_time (s : State) (sl : Nat) (n : Nat) : (sqmSetRes s sl n).time = s.time := rfl
@[simp] theorem sqmSetRes_freeCtr (s : State) (sl : Nat) (n : Nat) : (sqmSetRes s sl n).freeCtr = s.freeCtr := rfl
@[simp] theorem sqmSetRes_regs (s : State) (sl : Nat) (n : Nat) : (sqmSetRes s sl n).regs = s.regs := rfl
@[simp] theorem sqmSetRes_pw (s : State) (sl : Nat) (n : Nat) : (sqmSetRes s sl n).pw = s.pw := rfl
@[simp] theorem sqmSetRes_boot (s : State) (sl : Nat) (n : Nat) : (sqmSetRes s sl n).boot = s.boot := rfl
@[simp] theorem sqmSetRes_flash (s : State) (sl : Nat) (n : Nat) : (sqmSetRes s sl n).flash = s.flash := rfl
@[simp] theorem sqmSetRes_fuses (s : State) (sl : Nat) (n : Nat) : (sqmSetRes s sl n).fuses = s.fuses := rfl
@[simp] theorem sqmSetRes_cic (s : State) (sl : Nat) (n : Nat) : (sqmSetRes s sl n).cic = s.cic := rfl
@[simp] theorem sqmSetRes_fns (s : State) (sl : Nat) (n : Nat) : (sqmSetRes s sl n).fns = s.fns := rfl
@[simp] theorem sqmSetRes_owners (s : State) (sl : Nat) (n : Nat) : (sqmSetRes s sl n).owners = s.owners := rfl
@[simp] theorem sqmSetRes_qlocal (s : State) (sl : Nat) (n : Nat) : (sqmSetRes s sl n).qlocal = s.qlocal := rfl
@[simp] theorem sqmSetRes_commits (s : State) (sl : Nat) (n : Nat) : (sqmSetRes s sl n).commits = s.commits := rfl
@[simp] theorem sqmSetRes_hif (s : State) (sl : Nat) (n : Nat) : (sqmSetRes s sl n).hif = s.hif := rfl
@[simp] theorem sqmSetRes_fev (s : State) (sl : Nat) (n : Nat) : (sqmSetRes s sl n).fev = s.fev := rfl
@[simp] theorem sqmSetRes_mem (s : State) (sl : Nat) (n : Nat) : (sqmSetRes s sl n).mem = s.mem := rfl
@[simp] theorem sqmSetRes_atu (s : State) (sl : Nat) (n : Nat) : (sqmSetRes s sl n).atu = s.atu := rfl
@[simp] theorem sqmSetRes_queues (s : State) (sl : Nat) (n : Nat) : (sqmSetRes s sl n).queues = s.queues := rfl
@[simp] theorem sqmSetRes_tpe (s : State) (sl : Nat) (n : Nat) : (sqmSetRes s sl n).tpe = s.tpe := rfl
@[simp] theorem sqmSetRes_frt (s : State) (sl : Nat) (n : Nat) : (sqmSetRes s sl n).frt = s.frt := rfl
@[simp] theorem sqmSetRes_eports (s : State) (sl : Nat) (n : Nat) : (sqmSetRes s sl n).eports = s.eports := rfl
@[simp] theorem sqmSetRes_lns (s : State) (sl : Nat) (n : Nat) : (sqmSetRes s sl n).lns = s.lns := rfl
@[simp] theorem sqmSetRes_scb (s : State) (sl : Nat) (n : Nat) : (sqmSetRes s sl n).scb = s.scb := rfl
@[simp] theorem sqmSetRes_tgd (s : State) (sl : Nat) (n : Nat) : (sqmSetRes s sl n).tgd = s.tgd := rfl
@[simp] theorem sqmSetRes_cph (s : State) (sl : Nat) (n : Nat) : (sqmSetRes s sl n).cph = s.cph := rfl
@[simp] theorem sqmSetRes_ccs (s : State) (sl : Nat) (n : Nat) : (sqmSetRes s sl n).ccs = s.ccs := rfl
@[simp] theorem sqmSetRes_tenants (s : State) (sl : Nat) (n : Nat) : (sqmSetRes s sl n).tenants = s.tenants := rfl
@[simp] theorem sqmSetRes_rsp (s : State) (sl : Nat) (n : Nat) : (sqmSetRes s sl n).rsp = s.rsp := rfl
@[simp] theorem sqmSetRes_out (s : State) (sl : Nat) (n : Nat) : (sqmSetRes s sl n).out = s.out := rfl
@[simp] theorem sqmSetRes_pending (s : State) (sl : Nat) (n : Nat) : (sqmSetRes s sl n).pending = s.pending := rfl

/-! `sqmCharge` -/
@[simp] theorem sqmCharge_variant (s : State) (t : Nat) (f : Nat → Nat) : (sqmCharge s t f).variant = s.variant := rfl
@[simp] theorem sqmCharge_time (s : State) (t : Nat) (f : Nat → Nat) : (sqmCharge s t f).time = s.time := rfl
@[simp] theorem sqmCharge_freeCtr (s : State) (t : Nat) (f : Nat → Nat) : (sqmCharge s t f).freeCtr = s.freeCtr := rfl
@[simp] theorem sqmCharge_regs (s : State) (t : Nat) (f : Nat → Nat) : (sqmCharge s t f).regs = s.regs := rfl
@[simp] theorem sqmCharge_pw (s : State) (t : Nat) (f : Nat → Nat) : (sqmCharge s t f).pw = s.pw := rfl
@[simp] theorem sqmCharge_boot (s : State) (t : Nat) (f : Nat → Nat) : (sqmCharge s t f).boot = s.boot := rfl
@[simp] theorem sqmCharge_flash (s : State) (t : Nat) (f : Nat → Nat) : (sqmCharge s t f).flash = s.flash := rfl
@[simp] theorem sqmCharge_fuses (s : State) (t : Nat) (f : Nat → Nat) : (sqmCharge s t f).fuses = s.fuses := rfl
@[simp] theorem sqmCharge_cic (s : State) (t : Nat) (f : Nat → Nat) : (sqmCharge s t f).cic = s.cic := rfl
@[simp] theorem sqmCharge_fns (s : State) (t : Nat) (f : Nat → Nat) : (sqmCharge s t f).fns = s.fns := rfl
@[simp] theorem sqmCharge_owners (s : State) (t : Nat) (f : Nat → Nat) : (sqmCharge s t f).owners = s.owners := rfl
@[simp] theorem sqmCharge_qlocal (s : State) (t : Nat) (f : Nat → Nat) : (sqmCharge s t f).qlocal = s.qlocal := rfl
@[simp] theorem sqmCharge_commits (s : State) (t : Nat) (f : Nat → Nat) : (sqmCharge s t f).commits = s.commits := rfl
@[simp] theorem sqmCharge_hif (s : State) (t : Nat) (f : Nat → Nat) : (sqmCharge s t f).hif = s.hif := rfl
@[simp] theorem sqmCharge_fev (s : State) (t : Nat) (f : Nat → Nat) : (sqmCharge s t f).fev = s.fev := rfl
@[simp] theorem sqmCharge_mem (s : State) (t : Nat) (f : Nat → Nat) : (sqmCharge s t f).mem = s.mem := rfl
@[simp] theorem sqmCharge_atu (s : State) (t : Nat) (f : Nat → Nat) : (sqmCharge s t f).atu = s.atu := rfl
@[simp] theorem sqmCharge_queues (s : State) (t : Nat) (f : Nat → Nat) : (sqmCharge s t f).queues = s.queues := rfl
@[simp] theorem sqmCharge_tpe (s : State) (t : Nat) (f : Nat → Nat) : (sqmCharge s t f).tpe = s.tpe := rfl
@[simp] theorem sqmCharge_frt (s : State) (t : Nat) (f : Nat → Nat) : (sqmCharge s t f).frt = s.frt := rfl
@[simp] theorem sqmCharge_eports (s : State) (t : Nat) (f : Nat → Nat) : (sqmCharge s t f).eports = s.eports := rfl
@[simp] theorem sqmCharge_lns (s : State) (t : Nat) (f : Nat → Nat) : (sqmCharge s t f).lns = s.lns := rfl
@[simp] theorem sqmCharge_scb (s : State) (t : Nat) (f : Nat → Nat) : (sqmCharge s t f).scb = s.scb := rfl
@[simp] theorem sqmCharge_tgd (s : State) (t : Nat) (f : Nat → Nat) : (sqmCharge s t f).tgd = s.tgd := rfl
@[simp] theorem sqmCharge_cph (s : State) (t : Nat) (f : Nat → Nat) : (sqmCharge s t f).cph = s.cph := rfl
@[simp] theorem sqmCharge_ccs (s : State) (t : Nat) (f : Nat → Nat) : (sqmCharge s t f).ccs = s.ccs := rfl
@[simp] theorem sqmCharge_tenants (s : State) (t : Nat) (f : Nat → Nat) : (sqmCharge s t f).tenants = s.tenants := rfl
@[simp] theorem sqmCharge_rsp (s : State) (t : Nat) (f : Nat → Nat) : (sqmCharge s t f).rsp = s.rsp := rfl
@[simp] theorem sqmCharge_out (s : State) (t : Nat) (f : Nat → Nat) : (sqmCharge s t f).out = s.out := rfl
@[simp] theorem sqmCharge_pending (s : State) (t : Nat) (f : Nat → Nat) : (sqmCharge s t f).pending = s.pending := rfl

/-! `boxMod` -/
@[simp] theorem boxMod_variant (s : State) (t : Nat) (f : Mailbox → Mailbox) : (boxMod s t f).variant = s.variant := rfl
@[simp] theorem boxMod_time (s : State) (t : Nat) (f : Mailbox → Mailbox) : (boxMod s t f).time = s.time := rfl
@[simp] theorem boxMod_freeCtr (s : State) (t : Nat) (f : Mailbox → Mailbox) : (boxMod s t f).freeCtr = s.freeCtr := rfl
@[simp] theorem boxMod_regs (s : State) (t : Nat) (f : Mailbox → Mailbox) : (boxMod s t f).regs = s.regs := rfl
@[simp] theorem boxMod_pw (s : State) (t : Nat) (f : Mailbox → Mailbox) : (boxMod s t f).pw = s.pw := rfl
@[simp] theorem boxMod_boot (s : State) (t : Nat) (f : Mailbox → Mailbox) : (boxMod s t f).boot = s.boot := rfl
@[simp] theorem boxMod_flash (s : State) (t : Nat) (f : Mailbox → Mailbox) : (boxMod s t f).flash = s.flash := rfl
@[simp] theorem boxMod_fuses (s : State) (t : Nat) (f : Mailbox → Mailbox) : (boxMod s t f).fuses = s.fuses := rfl
@[simp] theorem boxMod_cic (s : State) (t : Nat) (f : Mailbox → Mailbox) : (boxMod s t f).cic = s.cic := rfl
@[simp] theorem boxMod_fns (s : State) (t : Nat) (f : Mailbox → Mailbox) : (boxMod s t f).fns = s.fns := rfl
@[simp] theorem boxMod_owners (s : State) (t : Nat) (f : Mailbox → Mailbox) : (boxMod s t f).owners = s.owners := rfl
@[simp] theorem boxMod_qlocal (s : State) (t : Nat) (f : Mailbox → Mailbox) : (boxMod s t f).qlocal = s.qlocal := rfl
@[simp] theorem boxMod_commits (s : State) (t : Nat) (f : Mailbox → Mailbox) : (boxMod s t f).commits = s.commits := rfl
@[simp] theorem boxMod_hif (s : State) (t : Nat) (f : Mailbox → Mailbox) : (boxMod s t f).hif = s.hif := rfl
@[simp] theorem boxMod_sqm (s : State) (t : Nat) (f : Mailbox → Mailbox) : (boxMod s t f).sqm = s.sqm := rfl
@[simp] theorem boxMod_fev (s : State) (t : Nat) (f : Mailbox → Mailbox) : (boxMod s t f).fev = s.fev := rfl
@[simp] theorem boxMod_mem (s : State) (t : Nat) (f : Mailbox → Mailbox) : (boxMod s t f).mem = s.mem := rfl
@[simp] theorem boxMod_atu (s : State) (t : Nat) (f : Mailbox → Mailbox) : (boxMod s t f).atu = s.atu := rfl
@[simp] theorem boxMod_queues (s : State) (t : Nat) (f : Mailbox → Mailbox) : (boxMod s t f).queues = s.queues := rfl
@[simp] theorem boxMod_tpe (s : State) (t : Nat) (f : Mailbox → Mailbox) : (boxMod s t f).tpe = s.tpe := rfl
@[simp] theorem boxMod_frt (s : State) (t : Nat) (f : Mailbox → Mailbox) : (boxMod s t f).frt = s.frt := rfl
@[simp] theorem boxMod_eports (s : State) (t : Nat) (f : Mailbox → Mailbox) : (boxMod s t f).eports = s.eports := rfl
@[simp] theorem boxMod_lns (s : State) (t : Nat) (f : Mailbox → Mailbox) : (boxMod s t f).lns = s.lns := rfl
@[simp] theorem boxMod_scb (s : State) (t : Nat) (f : Mailbox → Mailbox) : (boxMod s t f).scb = s.scb := rfl
@[simp] theorem boxMod_tgd (s : State) (t : Nat) (f : Mailbox → Mailbox) : (boxMod s t f).tgd = s.tgd := rfl
@[simp] theorem boxMod_cph (s : State) (t : Nat) (f : Mailbox → Mailbox) : (boxMod s t f).cph = s.cph := rfl
@[simp] theorem boxMod_ccs (s : State) (t : Nat) (f : Mailbox → Mailbox) : (boxMod s t f).ccs = s.ccs := rfl
@[simp] theorem boxMod_tenants (s : State) (t : Nat) (f : Mailbox → Mailbox) : (boxMod s t f).tenants = s.tenants := rfl
@[simp] theorem boxMod_out (s : State) (t : Nat) (f : Mailbox → Mailbox) : (boxMod s t f).out = s.out := rfl
@[simp] theorem boxMod_pending (s : State) (t : Nat) (f : Mailbox → Mailbox) : (boxMod s t f).pending = s.pending := rfl

/-! `tileMod` -/
@[simp] theorem tileMod_variant (s : State) (t : Nat) (f : Tile → Tile) : (tileMod s t f).variant = s.variant := rfl
@[simp] theorem tileMod_time (s : State) (t : Nat) (f : Tile → Tile) : (tileMod s t f).time = s.time := rfl
@[simp] theorem tileMod_freeCtr (s : State) (t : Nat) (f : Tile → Tile) : (tileMod s t f).freeCtr = s.freeCtr := rfl
@[simp] theorem tileMod_regs (s : State) (t : Nat) (f : Tile → Tile) : (tileMod s t f).regs = s.regs := rfl
@[simp] theorem tileMod_pw (s : State) (t : Nat) (f : Tile → Tile) : (tileMod s t f).pw = s.pw := rfl
@[simp] theorem tileMod_boot (s : State) (t : Nat) (f : Tile → Tile) : (tileMod s t f).boot = s.boot := rfl
@[simp] theorem tileMod_flash (s : State) (t : Nat) (f : Tile → Tile) : (tileMod s t f).flash = s.flash := rfl
@[simp] theorem tileMod_fuses (s : State) (t : Nat) (f : Tile → Tile) : (tileMod s t f).fuses = s.fuses := rfl
@[simp] theorem tileMod_cic (s : State) (t : Nat) (f : Tile → Tile) : (tileMod s t f).cic = s.cic := rfl
@[simp] theorem tileMod_fns (s : State) (t : Nat) (f : Tile → Tile) : (tileMod s t f).fns = s.fns := rfl
@[simp] theorem tileMod_owners (s : State) (t : Nat) (f : Tile → Tile) : (tileMod s t f).owners = s.owners := rfl
@[simp] theorem tileMod_qlocal (s : State) (t : Nat) (f : Tile → Tile) : (tileMod s t f).qlocal = s.qlocal := rfl
@[simp] theorem tileMod_commits (s : State) (t : Nat) (f : Tile → Tile) : (tileMod s t f).commits = s.commits := rfl
@[simp] theorem tileMod_hif (s : State) (t : Nat) (f : Tile → Tile) : (tileMod s t f).hif = s.hif := rfl
@[simp] theorem tileMod_sqm (s : State) (t : Nat) (f : Tile → Tile) : (tileMod s t f).sqm = s.sqm := rfl
@[simp] theorem tileMod_fev (s : State) (t : Nat) (f : Tile → Tile) : (tileMod s t f).fev = s.fev := rfl
@[simp] theorem tileMod_mem (s : State) (t : Nat) (f : Tile → Tile) : (tileMod s t f).mem = s.mem := rfl
@[simp] theorem tileMod_atu (s : State) (t : Nat) (f : Tile → Tile) : (tileMod s t f).atu = s.atu := rfl
@[simp] theorem tileMod_queues (s : State) (t : Nat) (f : Tile → Tile) : (tileMod s t f).queues = s.queues := rfl
@[simp] theorem tileMod_tpe (s : State) (t : Nat) (f : Tile → Tile) : (tileMod s t f).tpe = s.tpe := rfl
@[simp] theorem tileMod_frt (s : State) (t : Nat) (f : Tile → Tile) : (tileMod s t f).frt = s.frt := rfl
@[simp] theorem tileMod_eports (s : State) (t : Nat) (f : Tile → Tile) : (tileMod s t f).eports = s.eports := rfl
@[simp] theorem tileMod_lns (s : State) (t : Nat) (f : Tile → Tile) : (tileMod s t f).lns = s.lns := rfl
@[simp] theorem tileMod_scb (s : State) (t : Nat) (f : Tile → Tile) : (tileMod s t f).scb = s.scb := rfl
@[simp] theorem tileMod_cph (s : State) (t : Nat) (f : Tile → Tile) : (tileMod s t f).cph = s.cph := rfl
@[simp] theorem tileMod_ccs (s : State) (t : Nat) (f : Tile → Tile) : (tileMod s t f).ccs = s.ccs := rfl
@[simp] theorem tileMod_tenants (s : State) (t : Nat) (f : Tile → Tile) : (tileMod s t f).tenants = s.tenants := rfl
@[simp] theorem tileMod_rsp (s : State) (t : Nat) (f : Tile → Tile) : (tileMod s t f).rsp = s.rsp := rfl
@[simp] theorem tileMod_out (s : State) (t : Nat) (f : Tile → Tile) : (tileMod s t f).out = s.out := rfl
@[simp] theorem tileMod_pending (s : State) (t : Nat) (f : Tile → Tile) : (tileMod s t f).pending = s.pending := rfl

/-! `chanResvMod` -/
@[simp] theorem chanResvMod_variant (s : State) (q : Nat) (f : Nat → Nat) : (chanResvMod s q f).variant = s.variant := rfl
@[simp] theorem chanResvMod_time (s : State) (q : Nat) (f : Nat → Nat) : (chanResvMod s q f).time = s.time := rfl
@[simp] theorem chanResvMod_freeCtr (s : State) (q : Nat) (f : Nat → Nat) : (chanResvMod s q f).freeCtr = s.freeCtr := rfl
@[simp] theorem chanResvMod_regs (s : State) (q : Nat) (f : Nat → Nat) : (chanResvMod s q f).regs = s.regs := rfl
@[simp] theorem chanResvMod_pw (s : State) (q : Nat) (f : Nat → Nat) : (chanResvMod s q f).pw = s.pw := rfl
@[simp] theorem chanResvMod_boot (s : State) (q : Nat) (f : Nat → Nat) : (chanResvMod s q f).boot = s.boot := rfl
@[simp] theorem chanResvMod_flash (s : State) (q : Nat) (f : Nat → Nat) : (chanResvMod s q f).flash = s.flash := rfl
@[simp] theorem chanResvMod_fuses (s : State) (q : Nat) (f : Nat → Nat) : (chanResvMod s q f).fuses = s.fuses := rfl
@[simp] theorem chanResvMod_cic (s : State) (q : Nat) (f : Nat → Nat) : (chanResvMod s q f).cic = s.cic := rfl
@[simp] theorem chanResvMod_fns (s : State) (q : Nat) (f : Nat → Nat) : (chanResvMod s q f).fns = s.fns := rfl
@[simp] theorem chanResvMod_owners (s : State) (q : Nat) (f : Nat → Nat) : (chanResvMod s q f).owners = s.owners := rfl
@[simp] theorem chanResvMod_qlocal (s : State) (q : Nat) (f : Nat → Nat) : (chanResvMod s q f).qlocal = s.qlocal := rfl
@[simp] theorem chanResvMod_commits (s : State) (q : Nat) (f : Nat → Nat) : (chanResvMod s q f).commits = s.commits := rfl
@[simp] theorem chanResvMod_hif (s : State) (q : Nat) (f : Nat → Nat) : (chanResvMod s q f).hif = s.hif := rfl
@[simp] theorem chanResvMod_sqm (s : State) (q : Nat) (f : Nat → Nat) : (chanResvMod s q f).sqm = s.sqm := rfl
@[simp] theorem chanResvMod_fev (s : State) (q : Nat) (f : Nat → Nat) : (chanResvMod s q f).fev = s.fev := rfl
@[simp] theorem chanResvMod_mem (s : State) (q : Nat) (f : Nat → Nat) : (chanResvMod s q f).mem = s.mem := rfl
@[simp] theorem chanResvMod_atu (s : State) (q : Nat) (f : Nat → Nat) : (chanResvMod s q f).atu = s.atu := rfl
@[simp] theorem chanResvMod_queues (s : State) (q : Nat) (f : Nat → Nat) : (chanResvMod s q f).queues = s.queues := rfl
@[simp] theorem chanResvMod_tpe (s : State) (q : Nat) (f : Nat → Nat) : (chanResvMod s q f).tpe = s.tpe := rfl
@[simp] theorem chanResvMod_frt (s : State) (q : Nat) (f : Nat → Nat) : (chanResvMod s q f).frt = s.frt := rfl
@[simp] theorem chanResvMod_eports (s : State) (q : Nat) (f : Nat → Nat) : (chanResvMod s q f).eports = s.eports := rfl
@[simp] theorem chanResvMod_lns (s : State) (q : Nat) (f : Nat → Nat) : (chanResvMod s q f).lns = s.lns := rfl
@[simp] theorem chanResvMod_scb (s : State) (q : Nat) (f : Nat → Nat) : (chanResvMod s q f).scb = s.scb := rfl
@[simp] theorem chanResvMod_cph (s : State) (q : Nat) (f : Nat → Nat) : (chanResvMod s q f).cph = s.cph := rfl
@[simp] theorem chanResvMod_ccs (s : State) (q : Nat) (f : Nat → Nat) : (chanResvMod s q f).ccs = s.ccs := rfl
@[simp] theorem chanResvMod_tenants (s : State) (q : Nat) (f : Nat → Nat) : (chanResvMod s q f).tenants = s.tenants := rfl
@[simp] theorem chanResvMod_rsp (s : State) (q : Nat) (f : Nat → Nat) : (chanResvMod s q f).rsp = s.rsp := rfl
@[simp] theorem chanResvMod_out (s : State) (q : Nat) (f : Nat → Nat) : (chanResvMod s q f).out = s.out := rfl
@[simp] theorem chanResvMod_pending (s : State) (q : Nat) (f : Nat → Nat) : (chanResvMod s q f).pending = s.pending := rfl

/-! `invMod` -/
@[simp] theorem invMod_variant (s : State) (h : Nat) (f : Invocation → Invocation) : (invMod s h f).variant = s.variant := rfl
@[simp] theorem invMod_time (s : State) (h : Nat) (f : Invocation → Invocation) : (invMod s h f).time = s.time := rfl
@[simp] theorem invMod_freeCtr (s : State) (h : Nat) (f : Invocation → Invocation) : (invMod s h f).freeCtr = s.freeCtr := rfl
@[simp] theorem invMod_regs (s : State) (h : Nat) (f : Invocation → Invocation) : (invMod s h f).regs = s.regs := rfl
@[simp] theorem invMod_pw (s : State) (h : Nat) (f : Invocation → Invocation) : (invMod s h f).pw = s.pw := rfl
@[simp] theorem invMod_boot (s : State) (h : Nat) (f : Invocation → Invocation) : (invMod s h f).boot = s.boot := rfl
@[simp] theorem invMod_flash (s : State) (h : Nat) (f : Invocation → Invocation) : (invMod s h f).flash = s.flash := rfl
@[simp] theorem invMod_fuses (s : State) (h : Nat) (f : Invocation → Invocation) : (invMod s h f).fuses = s.fuses := rfl
@[simp] theorem invMod_cic (s : State) (h : Nat) (f : Invocation → Invocation) : (invMod s h f).cic = s.cic := rfl
@[simp] theorem invMod_fns (s : State) (h : Nat) (f : Invocation → Invocation) : (invMod s h f).fns = s.fns := rfl
@[simp] theorem invMod_owners (s : State) (h : Nat) (f : Invocation → Invocation) : (invMod s h f).owners = s.owners := rfl
@[simp] theorem invMod_qlocal (s : State) (h : Nat) (f : Invocation → Invocation) : (invMod s h f).qlocal = s.qlocal := rfl
@[simp] theorem invMod_commits (s : State) (h : Nat) (f : Invocation → Invocation) : (invMod s h f).commits = s.commits := rfl
@[simp] theorem invMod_hif (s : State) (h : Nat) (f : Invocation → Invocation) : (invMod s h f).hif = s.hif := rfl
@[simp] theorem invMod_sqm (s : State) (h : Nat) (f : Invocation → Invocation) : (invMod s h f).sqm = s.sqm := rfl
@[simp] theorem invMod_fev (s : State) (h : Nat) (f : Invocation → Invocation) : (invMod s h f).fev = s.fev := rfl
@[simp] theorem invMod_mem (s : State) (h : Nat) (f : Invocation → Invocation) : (invMod s h f).mem = s.mem := rfl
@[simp] theorem invMod_atu (s : State) (h : Nat) (f : Invocation → Invocation) : (invMod s h f).atu = s.atu := rfl
@[simp] theorem invMod_queues (s : State) (h : Nat) (f : Invocation → Invocation) : (invMod s h f).queues = s.queues := rfl
@[simp] theorem invMod_tpe (s : State) (h : Nat) (f : Invocation → Invocation) : (invMod s h f).tpe = s.tpe := rfl
@[simp] theorem invMod_frt (s : State) (h : Nat) (f : Invocation → Invocation) : (invMod s h f).frt = s.frt := rfl
@[simp] theorem invMod_eports (s : State) (h : Nat) (f : Invocation → Invocation) : (invMod s h f).eports = s.eports := rfl
@[simp] theorem invMod_lns (s : State) (h : Nat) (f : Invocation → Invocation) : (invMod s h f).lns = s.lns := rfl
@[simp] theorem invMod_scb (s : State) (h : Nat) (f : Invocation → Invocation) : (invMod s h f).scb = s.scb := rfl
@[simp] theorem invMod_cph (s : State) (h : Nat) (f : Invocation → Invocation) : (invMod s h f).cph = s.cph := rfl
@[simp] theorem invMod_ccs (s : State) (h : Nat) (f : Invocation → Invocation) : (invMod s h f).ccs = s.ccs := rfl
@[simp] theorem invMod_tenants (s : State) (h : Nat) (f : Invocation → Invocation) : (invMod s h f).tenants = s.tenants := rfl
@[simp] theorem invMod_rsp (s : State) (h : Nat) (f : Invocation → Invocation) : (invMod s h f).rsp = s.rsp := rfl
@[simp] theorem invMod_out (s : State) (h : Nat) (f : Invocation → Invocation) : (invMod s h f).out = s.out := rfl
@[simp] theorem invMod_pending (s : State) (h : Nat) (f : Invocation → Invocation) : (invMod s h f).pending = s.pending := rfl

/-! `cachePutResp` -/
@[simp] theorem cachePutResp_variant (s : State) (c : Nat) (msn : Nat) (status : Nat) (value : W64) (reduce : Bool) : (cachePutResp s c msn status value reduce).variant = s.variant := rfl
@[simp] theorem cachePutResp_time (s : State) (c : Nat) (msn : Nat) (status : Nat) (value : W64) (reduce : Bool) : (cachePutResp s c msn status value reduce).time = s.time := rfl
@[simp] theorem cachePutResp_freeCtr (s : State) (c : Nat) (msn : Nat) (status : Nat) (value : W64) (reduce : Bool) : (cachePutResp s c msn status value reduce).freeCtr = s.freeCtr := rfl
@[simp] theorem cachePutResp_regs (s : State) (c : Nat) (msn : Nat) (status : Nat) (value : W64) (reduce : Bool) : (cachePutResp s c msn status value reduce).regs = s.regs := rfl
@[simp] theorem cachePutResp_pw (s : State) (c : Nat) (msn : Nat) (status : Nat) (value : W64) (reduce : Bool) : (cachePutResp s c msn status value reduce).pw = s.pw := rfl
@[simp] theorem cachePutResp_boot (s : State) (c : Nat) (msn : Nat) (status : Nat) (value : W64) (reduce : Bool) : (cachePutResp s c msn status value reduce).boot = s.boot := rfl
@[simp] theorem cachePutResp_flash (s : State) (c : Nat) (msn : Nat) (status : Nat) (value : W64) (reduce : Bool) : (cachePutResp s c msn status value reduce).flash = s.flash := rfl
@[simp] theorem cachePutResp_fuses (s : State) (c : Nat) (msn : Nat) (status : Nat) (value : W64) (reduce : Bool) : (cachePutResp s c msn status value reduce).fuses = s.fuses := rfl
@[simp] theorem cachePutResp_cic (s : State) (c : Nat) (msn : Nat) (status : Nat) (value : W64) (reduce : Bool) : (cachePutResp s c msn status value reduce).cic = s.cic := rfl
@[simp] theorem cachePutResp_fns (s : State) (c : Nat) (msn : Nat) (status : Nat) (value : W64) (reduce : Bool) : (cachePutResp s c msn status value reduce).fns = s.fns := rfl
@[simp] theorem cachePutResp_owners (s : State) (c : Nat) (msn : Nat) (status : Nat) (value : W64) (reduce : Bool) : (cachePutResp s c msn status value reduce).owners = s.owners := rfl
@[simp] theorem cachePutResp_qlocal (s : State) (c : Nat) (msn : Nat) (status : Nat) (value : W64) (reduce : Bool) : (cachePutResp s c msn status value reduce).qlocal = s.qlocal := rfl
@[simp] theorem cachePutResp_commits (s : State) (c : Nat) (msn : Nat) (status : Nat) (value : W64) (reduce : Bool) : (cachePutResp s c msn status value reduce).commits = s.commits := rfl
@[simp] theorem cachePutResp_hif (s : State) (c : Nat) (msn : Nat) (status : Nat) (value : W64) (reduce : Bool) : (cachePutResp s c msn status value reduce).hif = s.hif := rfl
@[simp] theorem cachePutResp_sqm (s : State) (c : Nat) (msn : Nat) (status : Nat) (value : W64) (reduce : Bool) : (cachePutResp s c msn status value reduce).sqm = s.sqm := rfl
@[simp] theorem cachePutResp_fev (s : State) (c : Nat) (msn : Nat) (status : Nat) (value : W64) (reduce : Bool) : (cachePutResp s c msn status value reduce).fev = s.fev := rfl
@[simp] theorem cachePutResp_mem (s : State) (c : Nat) (msn : Nat) (status : Nat) (value : W64) (reduce : Bool) : (cachePutResp s c msn status value reduce).mem = s.mem := rfl
@[simp] theorem cachePutResp_atu (s : State) (c : Nat) (msn : Nat) (status : Nat) (value : W64) (reduce : Bool) : (cachePutResp s c msn status value reduce).atu = s.atu := rfl
@[simp] theorem cachePutResp_queues (s : State) (c : Nat) (msn : Nat) (status : Nat) (value : W64) (reduce : Bool) : (cachePutResp s c msn status value reduce).queues = s.queues := rfl
@[simp] theorem cachePutResp_frt (s : State) (c : Nat) (msn : Nat) (status : Nat) (value : W64) (reduce : Bool) : (cachePutResp s c msn status value reduce).frt = s.frt := rfl
@[simp] theorem cachePutResp_eports (s : State) (c : Nat) (msn : Nat) (status : Nat) (value : W64) (reduce : Bool) : (cachePutResp s c msn status value reduce).eports = s.eports := rfl
@[simp] theorem cachePutResp_lns (s : State) (c : Nat) (msn : Nat) (status : Nat) (value : W64) (reduce : Bool) : (cachePutResp s c msn status value reduce).lns = s.lns := rfl
@[simp] theorem cachePutResp_scb (s : State) (c : Nat) (msn : Nat) (status : Nat) (value : W64) (reduce : Bool) : (cachePutResp s c msn status value reduce).scb = s.scb := rfl
@[simp] theorem cachePutResp_tgd (s : State) (c : Nat) (msn : Nat) (status : Nat) (value : W64) (reduce : Bool) : (cachePutResp s c msn status value reduce).tgd = s.tgd := rfl
@[simp] theorem cachePutResp_cph (s : State) (c : Nat) (msn : Nat) (status : Nat) (value : W64) (reduce : Bool) : (cachePutResp s c msn status value reduce).cph = s.cph := rfl
@[simp] theorem cachePutResp_ccs (s : State) (c : Nat) (msn : Nat) (status : Nat) (value : W64) (reduce : Bool) : (cachePutResp s c msn status value reduce).ccs = s.ccs := rfl
@[simp] theorem cachePutResp_tenants (s : State) (c : Nat) (msn : Nat) (status : Nat) (value : W64) (reduce : Bool) : (cachePutResp s c msn status value reduce).tenants = s.tenants := rfl
@[simp] theorem cachePutResp_rsp (s : State) (c : Nat) (msn : Nat) (status : Nat) (value : W64) (reduce : Bool) : (cachePutResp s c msn status value reduce).rsp = s.rsp := rfl
@[simp] theorem cachePutResp_out (s : State) (c : Nat) (msn : Nat) (status : Nat) (value : W64) (reduce : Bool) : (cachePutResp s c msn status value reduce).out = s.out := rfl
@[simp] theorem cachePutResp_pending (s : State) (c : Nat) (msn : Nat) (status : Nat) (value : W64) (reduce : Bool) : (cachePutResp s c msn status value reduce).pending = s.pending := rfl

/-! `dropStages` -/
@[simp] theorem dropStages_variant (s : State) (c : Nat) (resp : Bool) (p : Nat → Bool) : (dropStages s c resp p).variant = s.variant := rfl
@[simp] theorem dropStages_time (s : State) (c : Nat) (resp : Bool) (p : Nat → Bool) : (dropStages s c resp p).time = s.time := rfl
@[simp] theorem dropStages_freeCtr (s : State) (c : Nat) (resp : Bool) (p : Nat → Bool) : (dropStages s c resp p).freeCtr = s.freeCtr := rfl
@[simp] theorem dropStages_regs (s : State) (c : Nat) (resp : Bool) (p : Nat → Bool) : (dropStages s c resp p).regs = s.regs := rfl
@[simp] theorem dropStages_pw (s : State) (c : Nat) (resp : Bool) (p : Nat → Bool) : (dropStages s c resp p).pw = s.pw := rfl
@[simp] theorem dropStages_boot (s : State) (c : Nat) (resp : Bool) (p : Nat → Bool) : (dropStages s c resp p).boot = s.boot := rfl
@[simp] theorem dropStages_flash (s : State) (c : Nat) (resp : Bool) (p : Nat → Bool) : (dropStages s c resp p).flash = s.flash := rfl
@[simp] theorem dropStages_fuses (s : State) (c : Nat) (resp : Bool) (p : Nat → Bool) : (dropStages s c resp p).fuses = s.fuses := rfl
@[simp] theorem dropStages_cic (s : State) (c : Nat) (resp : Bool) (p : Nat → Bool) : (dropStages s c resp p).cic = s.cic := rfl
@[simp] theorem dropStages_fns (s : State) (c : Nat) (resp : Bool) (p : Nat → Bool) : (dropStages s c resp p).fns = s.fns := rfl
@[simp] theorem dropStages_owners (s : State) (c : Nat) (resp : Bool) (p : Nat → Bool) : (dropStages s c resp p).owners = s.owners := rfl
@[simp] theorem dropStages_qlocal (s : State) (c : Nat) (resp : Bool) (p : Nat → Bool) : (dropStages s c resp p).qlocal = s.qlocal := rfl
@[simp] theorem dropStages_commits (s : State) (c : Nat) (resp : Bool) (p : Nat → Bool) : (dropStages s c resp p).commits = s.commits := rfl
@[simp] theorem dropStages_hif (s : State) (c : Nat) (resp : Bool) (p : Nat → Bool) : (dropStages s c resp p).hif = s.hif := rfl
@[simp] theorem dropStages_sqm (s : State) (c : Nat) (resp : Bool) (p : Nat → Bool) : (dropStages s c resp p).sqm = s.sqm := rfl
@[simp] theorem dropStages_fev (s : State) (c : Nat) (resp : Bool) (p : Nat → Bool) : (dropStages s c resp p).fev = s.fev := rfl
@[simp] theorem dropStages_mem (s : State) (c : Nat) (resp : Bool) (p : Nat → Bool) : (dropStages s c resp p).mem = s.mem := rfl
@[simp] theorem dropStages_atu (s : State) (c : Nat) (resp : Bool) (p : Nat → Bool) : (dropStages s c resp p).atu = s.atu := rfl
@[simp] theorem dropStages_queues (s : State) (c : Nat) (resp : Bool) (p : Nat → Bool) : (dropStages s c resp p).queues = s.queues := rfl
@[simp] theorem dropStages_tpe (s : State) (c : Nat) (resp : Bool) (p : Nat → Bool) : (dropStages s c resp p).tpe = s.tpe := rfl
@[simp] theorem dropStages_frt (s : State) (c : Nat) (resp : Bool) (p : Nat → Bool) : (dropStages s c resp p).frt = s.frt := rfl
@[simp] theorem dropStages_eports (s : State) (c : Nat) (resp : Bool) (p : Nat → Bool) : (dropStages s c resp p).eports = s.eports := rfl
@[simp] theorem dropStages_lns (s : State) (c : Nat) (resp : Bool) (p : Nat → Bool) : (dropStages s c resp p).lns = s.lns := rfl
@[simp] theorem dropStages_scb (s : State) (c : Nat) (resp : Bool) (p : Nat → Bool) : (dropStages s c resp p).scb = s.scb := rfl
@[simp] theorem dropStages_tgd (s : State) (c : Nat) (resp : Bool) (p : Nat → Bool) : (dropStages s c resp p).tgd = s.tgd := rfl
@[simp] theorem dropStages_ccs (s : State) (c : Nat) (resp : Bool) (p : Nat → Bool) : (dropStages s c resp p).ccs = s.ccs := rfl
@[simp] theorem dropStages_tenants (s : State) (c : Nat) (resp : Bool) (p : Nat → Bool) : (dropStages s c resp p).tenants = s.tenants := rfl
@[simp] theorem dropStages_rsp (s : State) (c : Nat) (resp : Bool) (p : Nat → Bool) : (dropStages s c resp p).rsp = s.rsp := rfl
@[simp] theorem dropStages_out (s : State) (c : Nat) (resp : Bool) (p : Nat → Bool) : (dropStages s c resp p).out = s.out := rfl
@[simp] theorem dropStages_pending (s : State) (c : Nat) (resp : Bool) (p : Nat → Bool) : (dropStages s c resp p).pending = s.pending := rfl

/-! `cphBlocks` -/
@[simp] theorem cphBlocks_variant (s : State) (t : Nat) (n : Nat) : (cphBlocks s t n).variant = s.variant := rfl
@[simp] theorem cphBlocks_time (s : State) (t : Nat) (n : Nat) : (cphBlocks s t n).time = s.time := rfl
@[simp] theorem cphBlocks_freeCtr (s : State) (t : Nat) (n : Nat) : (cphBlocks s t n).freeCtr = s.freeCtr := rfl
@[simp] theorem cphBlocks_regs (s : State) (t : Nat) (n : Nat) : (cphBlocks s t n).regs = s.regs := rfl
@[simp] theorem cphBlocks_pw (s : State) (t : Nat) (n : Nat) : (cphBlocks s t n).pw = s.pw := rfl
@[simp] theorem cphBlocks_boot (s : State) (t : Nat) (n : Nat) : (cphBlocks s t n).boot = s.boot := rfl
@[simp] theorem cphBlocks_flash (s : State) (t : Nat) (n : Nat) : (cphBlocks s t n).flash = s.flash := rfl
@[simp] theorem cphBlocks_fuses (s : State) (t : Nat) (n : Nat) : (cphBlocks s t n).fuses = s.fuses := rfl
@[simp] theorem cphBlocks_cic (s : State) (t : Nat) (n : Nat) : (cphBlocks s t n).cic = s.cic := rfl
@[simp] theorem cphBlocks_fns (s : State) (t : Nat) (n : Nat) : (cphBlocks s t n).fns = s.fns := rfl
@[simp] theorem cphBlocks_owners (s : State) (t : Nat) (n : Nat) : (cphBlocks s t n).owners = s.owners := rfl
@[simp] theorem cphBlocks_qlocal (s : State) (t : Nat) (n : Nat) : (cphBlocks s t n).qlocal = s.qlocal := rfl
@[simp] theorem cphBlocks_commits (s : State) (t : Nat) (n : Nat) : (cphBlocks s t n).commits = s.commits := rfl
@[simp] theorem cphBlocks_hif (s : State) (t : Nat) (n : Nat) : (cphBlocks s t n).hif = s.hif := rfl
@[simp] theorem cphBlocks_sqm (s : State) (t : Nat) (n : Nat) : (cphBlocks s t n).sqm = s.sqm := rfl
@[simp] theorem cphBlocks_fev (s : State) (t : Nat) (n : Nat) : (cphBlocks s t n).fev = s.fev := rfl
@[simp] theorem cphBlocks_mem (s : State) (t : Nat) (n : Nat) : (cphBlocks s t n).mem = s.mem := rfl
@[simp] theorem cphBlocks_atu (s : State) (t : Nat) (n : Nat) : (cphBlocks s t n).atu = s.atu := rfl
@[simp] theorem cphBlocks_queues (s : State) (t : Nat) (n : Nat) : (cphBlocks s t n).queues = s.queues := rfl
@[simp] theorem cphBlocks_tpe (s : State) (t : Nat) (n : Nat) : (cphBlocks s t n).tpe = s.tpe := rfl
@[simp] theorem cphBlocks_frt (s : State) (t : Nat) (n : Nat) : (cphBlocks s t n).frt = s.frt := rfl
@[simp] theorem cphBlocks_eports (s : State) (t : Nat) (n : Nat) : (cphBlocks s t n).eports = s.eports := rfl
@[simp] theorem cphBlocks_lns (s : State) (t : Nat) (n : Nat) : (cphBlocks s t n).lns = s.lns := rfl
@[simp] theorem cphBlocks_scb (s : State) (t : Nat) (n : Nat) : (cphBlocks s t n).scb = s.scb := rfl
@[simp] theorem cphBlocks_tgd (s : State) (t : Nat) (n : Nat) : (cphBlocks s t n).tgd = s.tgd := rfl
@[simp] theorem cphBlocks_ccs (s : State) (t : Nat) (n : Nat) : (cphBlocks s t n).ccs = s.ccs := rfl
@[simp] theorem cphBlocks_tenants (s : State) (t : Nat) (n : Nat) : (cphBlocks s t n).tenants = s.tenants := rfl
@[simp] theorem cphBlocks_rsp (s : State) (t : Nat) (n : Nat) : (cphBlocks s t n).rsp = s.rsp := rfl
@[simp] theorem cphBlocks_out (s : State) (t : Nat) (n : Nat) : (cphBlocks s t n).out = s.out := rfl
@[simp] theorem cphBlocks_pending (s : State) (t : Nat) (n : Nat) : (cphBlocks s t n).pending = s.pending := rfl

/-! `queueMod` -/
@[simp] theorem queueMod_variant (s : State) (q : Nat) (f : QueueC → QueueC) : (queueMod s q f).variant = s.variant := rfl
@[simp] theorem queueMod_time (s : State) (q : Nat) (f : QueueC → QueueC) : (queueMod s q f).time = s.time := rfl
@[simp] theorem queueMod_freeCtr (s : State) (q : Nat) (f : QueueC → QueueC) : (queueMod s q f).freeCtr = s.freeCtr := rfl
@[simp] theorem queueMod_regs (s : State) (q : Nat) (f : QueueC → QueueC) : (queueMod s q f).regs = s.regs := rfl
@[simp] theorem queueMod_pw (s : State) (q : Nat) (f : QueueC → QueueC) : (queueMod s q f).pw = s.pw := rfl
@[simp] theorem queueMod_boot (s : State) (q : Nat) (f : QueueC → QueueC) : (queueMod s q f).boot = s.boot := rfl
@[simp] theorem queueMod_flash (s : State) (q : Nat) (f : QueueC → QueueC) : (queueMod s q f).flash = s.flash := rfl
@[simp] theorem queueMod_fuses (s : State) (q : Nat) (f : QueueC → QueueC) : (queueMod s q f).fuses = s.fuses := rfl
@[simp] theorem queueMod_cic (s : State) (q : Nat) (f : QueueC → QueueC) : (queueMod s q f).cic = s.cic := rfl
@[simp] theorem queueMod_fns (s : State) (q : Nat) (f : QueueC → QueueC) : (queueMod s q f).fns = s.fns := rfl
@[simp] theorem queueMod_owners (s : State) (q : Nat) (f : QueueC → QueueC) : (queueMod s q f).owners = s.owners := rfl
@[simp] theorem queueMod_qlocal (s : State) (q : Nat) (f : QueueC → QueueC) : (queueMod s q f).qlocal = s.qlocal := rfl
@[simp] theorem queueMod_commits (s : State) (q : Nat) (f : QueueC → QueueC) : (queueMod s q f).commits = s.commits := rfl
@[simp] theorem queueMod_hif (s : State) (q : Nat) (f : QueueC → QueueC) : (queueMod s q f).hif = s.hif := rfl
@[simp] theorem queueMod_sqm (s : State) (q : Nat) (f : QueueC → QueueC) : (queueMod s q f).sqm = s.sqm := rfl
@[simp] theorem queueMod_fev (s : State) (q : Nat) (f : QueueC → QueueC) : (queueMod s q f).fev = s.fev := rfl
@[simp] theorem queueMod_mem (s : State) (q : Nat) (f : QueueC → QueueC) : (queueMod s q f).mem = s.mem := rfl
@[simp] theorem queueMod_atu (s : State) (q : Nat) (f : QueueC → QueueC) : (queueMod s q f).atu = s.atu := rfl
@[simp] theorem queueMod_tpe (s : State) (q : Nat) (f : QueueC → QueueC) : (queueMod s q f).tpe = s.tpe := rfl
@[simp] theorem queueMod_frt (s : State) (q : Nat) (f : QueueC → QueueC) : (queueMod s q f).frt = s.frt := rfl
@[simp] theorem queueMod_eports (s : State) (q : Nat) (f : QueueC → QueueC) : (queueMod s q f).eports = s.eports := rfl
@[simp] theorem queueMod_lns (s : State) (q : Nat) (f : QueueC → QueueC) : (queueMod s q f).lns = s.lns := rfl
@[simp] theorem queueMod_scb (s : State) (q : Nat) (f : QueueC → QueueC) : (queueMod s q f).scb = s.scb := rfl
@[simp] theorem queueMod_tgd (s : State) (q : Nat) (f : QueueC → QueueC) : (queueMod s q f).tgd = s.tgd := rfl
@[simp] theorem queueMod_cph (s : State) (q : Nat) (f : QueueC → QueueC) : (queueMod s q f).cph = s.cph := rfl
@[simp] theorem queueMod_ccs (s : State) (q : Nat) (f : QueueC → QueueC) : (queueMod s q f).ccs = s.ccs := rfl
@[simp] theorem queueMod_tenants (s : State) (q : Nat) (f : QueueC → QueueC) : (queueMod s q f).tenants = s.tenants := rfl
@[simp] theorem queueMod_rsp (s : State) (q : Nat) (f : QueueC → QueueC) : (queueMod s q f).rsp = s.rsp := rfl
@[simp] theorem queueMod_out (s : State) (q : Nat) (f : QueueC → QueueC) : (queueMod s q f).out = s.out := rfl
@[simp] theorem queueMod_pending (s : State) (q : Nat) (f : QueueC → QueueC) : (queueMod s q f).pending = s.pending := rfl

/-! `entryMod` -/
@[simp] theorem entryMod_variant (s : State) (q : Nat) (idx : Nat) (f : Entry → Entry) : (entryMod s q idx f).variant = s.variant := rfl
@[simp] theorem entryMod_time (s : State) (q : Nat) (idx : Nat) (f : Entry → Entry) : (entryMod s q idx f).time = s.time := rfl
@[simp] theorem entryMod_freeCtr (s : State) (q : Nat) (idx : Nat) (f : Entry → Entry) : (entryMod s q idx f).freeCtr = s.freeCtr := rfl
@[simp] theorem entryMod_regs (s : State) (q : Nat) (idx : Nat) (f : Entry → Entry) : (entryMod s q idx f).regs = s.regs := rfl
@[simp] theorem entryMod_pw (s : State) (q : Nat) (idx : Nat) (f : Entry → Entry) : (entryMod s q idx f).pw = s.pw := rfl
@[simp] theorem entryMod_boot (s : State) (q : Nat) (idx : Nat) (f : Entry → Entry) : (entryMod s q idx f).boot = s.boot := rfl
@[simp] theorem entryMod_flash (s : State) (q : Nat) (idx : Nat) (f : Entry → Entry) : (entryMod s q idx f).flash = s.flash := rfl
@[simp] theorem entryMod_fuses (s : State) (q : Nat) (idx : Nat) (f : Entry → Entry) : (entryMod s q idx f).fuses = s.fuses := rfl
@[simp] theorem entryMod_cic (s : State) (q : Nat) (idx : Nat) (f : Entry → Entry) : (entryMod s q idx f).cic = s.cic := rfl
@[simp] theorem entryMod_fns (s : State) (q : Nat) (idx : Nat) (f : Entry → Entry) : (entryMod s q idx f).fns = s.fns := rfl
@[simp] theorem entryMod_owners (s : State) (q : Nat) (idx : Nat) (f : Entry → Entry) : (entryMod s q idx f).owners = s.owners := rfl
@[simp] theorem entryMod_qlocal (s : State) (q : Nat) (idx : Nat) (f : Entry → Entry) : (entryMod s q idx f).qlocal = s.qlocal := rfl
@[simp] theorem entryMod_commits (s : State) (q : Nat) (idx : Nat) (f : Entry → Entry) : (entryMod s q idx f).commits = s.commits := rfl
@[simp] theorem entryMod_hif (s : State) (q : Nat) (idx : Nat) (f : Entry → Entry) : (entryMod s q idx f).hif = s.hif := rfl
@[simp] theorem entryMod_sqm (s : State) (q : Nat) (idx : Nat) (f : Entry → Entry) : (entryMod s q idx f).sqm = s.sqm := rfl
@[simp] theorem entryMod_fev (s : State) (q : Nat) (idx : Nat) (f : Entry → Entry) : (entryMod s q idx f).fev = s.fev := rfl
@[simp] theorem entryMod_mem (s : State) (q : Nat) (idx : Nat) (f : Entry → Entry) : (entryMod s q idx f).mem = s.mem := rfl
@[simp] theorem entryMod_atu (s : State) (q : Nat) (idx : Nat) (f : Entry → Entry) : (entryMod s q idx f).atu = s.atu := rfl
@[simp] theorem entryMod_tpe (s : State) (q : Nat) (idx : Nat) (f : Entry → Entry) : (entryMod s q idx f).tpe = s.tpe := rfl
@[simp] theorem entryMod_frt (s : State) (q : Nat) (idx : Nat) (f : Entry → Entry) : (entryMod s q idx f).frt = s.frt := rfl
@[simp] theorem entryMod_eports (s : State) (q : Nat) (idx : Nat) (f : Entry → Entry) : (entryMod s q idx f).eports = s.eports := rfl
@[simp] theorem entryMod_lns (s : State) (q : Nat) (idx : Nat) (f : Entry → Entry) : (entryMod s q idx f).lns = s.lns := rfl
@[simp] theorem entryMod_scb (s : State) (q : Nat) (idx : Nat) (f : Entry → Entry) : (entryMod s q idx f).scb = s.scb := rfl
@[simp] theorem entryMod_tgd (s : State) (q : Nat) (idx : Nat) (f : Entry → Entry) : (entryMod s q idx f).tgd = s.tgd := rfl
@[simp] theorem entryMod_cph (s : State) (q : Nat) (idx : Nat) (f : Entry → Entry) : (entryMod s q idx f).cph = s.cph := rfl
@[simp] theorem entryMod_ccs (s : State) (q : Nat) (idx : Nat) (f : Entry → Entry) : (entryMod s q idx f).ccs = s.ccs := rfl
@[simp] theorem entryMod_tenants (s : State) (q : Nat) (idx : Nat) (f : Entry → Entry) : (entryMod s q idx f).tenants = s.tenants := rfl
@[simp] theorem entryMod_rsp (s : State) (q : Nat) (idx : Nat) (f : Entry → Entry) : (entryMod s q idx f).rsp = s.rsp := rfl
@[simp] theorem entryMod_out (s : State) (q : Nat) (idx : Nat) (f : Entry → Entry) : (entryMod s q idx f).out = s.out := rfl
@[simp] theorem entryMod_pending (s : State) (q : Nat) (idx : Nat) (f : Entry → Entry) : (entryMod s q idx f).pending = s.pending := rfl

end Sys2Proof.Laws
end

