-- ==== Sys2Proof/Laws/Tile.lean ====
section
/-! SUPPORT. What the issue of a Syurdun instruction gives, in each of its cases, and reads of a tile's registers after writes. -/
namespace Sys2Proof.Laws
open Sys2Proof.Machine

variable {s : State} {t w : Nat} {want : Nat → Bool} {f : Tile → Nat → Eff}

/-- A tile that cannot issue is left alone. -/
theorem tileIssue_idle (h : issues (tile s t) = false) : tileIssue s t want f = s := by simp [tileIssue, h]

/-- pc outside near memory traps FETCH. -/
theorem tileIssue_fetch (h : issues (tile s t) = true) (hp : nearBytes ≤ (tile s t).pc) : tileIssue s t want f = trap s t 2 (tile s t).pc := by
  simp [tileIssue, h, hp]

/-- A poisoned word traps POISON. -/
theorem tileIssue_poison (h : issues (tile s t) = true) (hp : (tile s t).pc < nearBytes)
    (hb : anyPoison s (tileAddr t (tile s t).pc) 8 = true) : tileIssue s t want f = trap s t 8 (tile s t).pc := by
  simp [tileIssue, h, Nat.not_le.mpr hp, hb]

/-- A word the decoder refuses traps ILLEGAL. -/
theorem tileIssue_illegal (h : issues (tile s t) = true) (hp : (tile s t).pc < nearBytes)
    (hb : anyPoison s (tileAddr t (tile s t).pc) 8 = false) (hw : leNat (memBytes s (tileAddr t (tile s t).pc) 8) = w)
    (hn : want w = true) (hi : wordIllegal w = true) : tileIssue s t want f = trap s t 1 0 := by
  simp [tileIssue, h, Nat.not_le.mpr hp, hb, hw, hi, hn]

/-- A word whose guard does not hold only moves pc. -/
theorem tileIssue_skip (h : issues (tile s t) = true) (hp : (tile s t).pc < nearBytes)
    (hb : anyPoison s (tileAddr t (tile s t).pc) 8 = false) (hw : leNat (memBytes s (tileAddr t (tile s t).pc) 8) = w)
    (hn : want w = true) (hi : wordIllegal w = false) (hg : pReg (tile s t) (nfld w 54 52) = nbit w 55) :
    tileIssue s t want f = setPc s t ((tile s t).pc + 8) := by
  simp [tileIssue, h, Nat.not_le.mpr hp, hb, hw, hi, hn, hg]

/-- A word that is executed has its effect. -/
theorem tileIssue_runs (h : issues (tile s t) = true) (hp : (tile s t).pc < nearBytes)
    (hb : anyPoison s (tileAddr t (tile s t).pc) 8 = false) (hw : leNat (memBytes s (tileAddr t (tile s t).pc) 8) = w)
    (hn : want w = true) (hi : wordIllegal w = false) (hg : pReg (tile s t) (nfld w 54 52) ≠ nbit w 55) :
    tileIssue s t want f = retire s t (tile s t).pc (f (tile s t) w) := by
  simp [tileIssue, h, Nat.not_le.mpr hp, hb, hw, hi, hn, hg]

/-- A rewritten tile reads as rewritten. -/
@[simp] theorem tile_tileMod (s : State) (t : Nat) (g : Tile → Tile) : tile (tileMod s t g) t = g (tile s t) := by
  simp [tile, tileMod, tmod]

/-- Another tile is left alone. -/
theorem tile_tileMod_other (s : State) {t u : Nat} (g : Tile → Tile) (h : u ≠ t) : tile (tileMod s t g) u = tile s u := by
  simp [tile, tileMod, tmod, tget_tset_other _ _ _ h]

/-- A general register after a write: g0 discards it. -/
theorem gReg_setG (s : State) (t n : Nat) (v : W64) : gReg (tile (setG s t n v) t) n = if n = 0 then 0 else v := by
  unfold setG
  split <;> simp_all [gReg]

/-- Another general register is left alone. -/
theorem gReg_setG_other (s : State) (t : Nat) {n m : Nat} (v : W64) (h : m ≠ n) :
    gReg (tile (setG s t n v) t) m = gReg (tile s t) m := by
  unfold setG
  split
  · rfl
  · simp [gReg, tget_tset_other _ _ _ h]

end Sys2Proof.Laws
end

