-- ==== Sys2Proof/WellFormed.lean ====
section
/-! DEFINITION. Which commands are well formed: every operand that names a unit, a function or a place in a table lies in the range the spec
gives it. A command that is not well formed still has a meaning: it names nothing that is there. -/
namespace Sys2Proof.WellFormed

/-- A function: the PF is 0, the VFs are 1 to 252 (R46). -/
def fnOk (n : Nat) : Bool := decide (n < 253)

/-- A VF (R46). -/
def vfOk (n : Nat) : Bool := decide (1 ≤ n ∧ n ≤ 252)

/-- A queue context of the device (R77). -/
def queueOk (n : Nat) : Bool := decide (n < 131072)

/-- A queue number as its function gives it (R58). -/
def localQueueOk (n : Nat) : Bool := decide (n < 131072)

/-- A 32-bit entry index (R80). -/
def indexOk (n : Nat) : Bool := decide (n < 2 ^ 32)

/-- A logical tile: 160 at most (R1). -/
def tileOk (n : Nat) : Bool := decide (n < 160)

/-- A channel of a tile. -/
def channelOk (n : Nat) : Bool := decide (n < 16)

/-- An invocation handle, [13:0]. -/
def handleOk (n : Nat) : Bool := decide (n < 2 ^ 14)

/-- A fabric link. -/
def linkOk (n : Nat) : Bool := decide (n < 12)

/-- A node ID (R226). -/
def nodeOk (n : Nat) : Bool := decide (n < 4096)

/-- A lane: 30 of the fabric connectors, 8 of the Ethernet cages. -/
def laneOk (n : Nat) : Bool := decide (n < 38)

/-- A position of a connector: four lanes and the spare. -/
def posOk (n : Nat) : Bool := decide (n < 5)

/-- A 16-bit rotation marker number. -/
def markerOk (n : Nat) : Bool := decide (n < 2 ^ 16)

/-- An OSFP cage. -/
def cageOk (n : Nat) : Bool := decide (n < 2)

/-- A bulk data port. -/
def dataPortOk (n : Nat) : Bool := decide (n < 8)

/-- An Ethernet port, 1 to 4. -/
def ethPortOk (n : Nat) : Bool := decide (1 ≤ n ∧ n ≤ 4)

/-- A priority of PFC. -/
def prioOk (n : Nat) : Bool := decide (n < 8)

/-- An egress point: the fabric, or a port. -/
def egressOk (n : Nat) : Bool := decide (n < 5)

/-- A receive path: the fabric, or a port. -/
def pathOk (n : Nat) : Bool := decide (n < 5)

/-- A quadrant. -/
def quadOk (n : Nat) : Bool := decide (n < 4)

/-- A memory controller: 8 stacks, 16 packages. -/
def ctrlOk (n : Nat) : Bool := decide (n < 24)

/-- A tenant slot. -/
def tenantOk (n : Nat) : Bool := decide (n < 256)

/-- A requester of the RSP: a tenant's mailbox, or one of the four management requesters (log 37). -/
def whoOk (n : Nat) : Bool := decide (n < 260)

/-- A translation context. -/
def ctxOk (n : Nat) : Bool := decide (n < 65536)

/-- An MSI-X vector: the table fills 0x8000 to 0xFFFF at most (R48). -/
def vecOk (n : Nat) : Bool := decide (n < 2048)

/-- A key slot. -/
def slotOk (n : Nat) : Bool := decide (n < 1024)

/-- A cipher pipe. -/
def pipeOk (n : Nat) : Bool := decide (n < 32)

/-- A transport core. -/
def coreOk (n : Nat) : Bool := decide (n < 32)

/-- A collective group. -/
def groupOk (n : Nat) : Bool := decide (n < 4096)

/-- A level of a group. -/
def levelOk (n : Nat) : Bool := decide (n < 3)

/-- A register block. -/
def blockOk (n : Nat) : Bool := decide (n < 16)

/-- A width of a register or doorbell access (R490). -/
def widthOk (n : Nat) : Bool := decide (n = 4 ∨ n = 8)

/-- A 32-bit word. -/
def word32Ok (n : Nat) : Bool := decide (n < 2 ^ 32)

/-- The fields of a cell fit the header of Table 9-1, and its payload is at most 512 bytes. -/
def cellOk (c : Cell) : Bool := decide (c.ver < 16 ∧ c.typ < 16 ∧ c.dnode < 4096 ∧ c.snode < 4096 ∧ c.plane < 2 ∧ c.mgroup < 8192 ∧ c.hops < 64 ∧ c.defl < 64 ∧ c.tc < 16 ∧
    c.qpe < 2 ^ 24 ∧ c.csn < 2 ^ 32 ∧ c.opc < 32 ∧ c.msn < 2 ^ 24 ∧ c.offset < 2 ^ 30 ∧ c.akey < 2 ^ 32 ∧ c.plen < 1024 ∧ c.payload.length ≤ 512)

/-- A packet carries a well-formed cell. -/
def packetOk (k : Packet) : Bool := cellOk k.cell

/-- The command is well formed. -/
def wellFormed (i : Instr) : Bool :=
  match i with
  | .standbyPowerUp => true
  | .standbyPowerLoss => true
  | .mgReset => true
  | .rspSelfTestDone quad _ _ _ _ _ => quadOk quad
  | .electionTimeout => true
  | .primaryFailure _ => true
  | .crossingHang _ => true
  | .powerSample _ _ _ => true
  | .powerEvaluation => true
  | .powerCapFault => true
  | .powerUndo => true
  | .thermalSample _ _ _ _ _ _ => true
  | .inletOvertempTimeout => true
  | .undervoltageTrip => true
  | .overcurrentTrip => true
  | .mainPowerLoss => true
  | .mainPowerReturn => true
  | .mainDomainGood _ => true
  | .perstAssert => true
  | .perstDeassert => true
  | .memoryTrained _ => true
  | .bootScrubDone _ _ _ _ _ => true
  | .unitsReady _ _ => true
  | .bootTimeout => true
  | .numvfsWrite _ => true
  | .vfEnableSet => true
  | .vfEnableClear => true
  | .vfFlr vf => vfOk vf
  | .pfFlr => true
  | .windowWrite fn _ _ => fnOk fn
  | .windowRead fn _ _ _ => fnOk fn
  | .winCtxWrite fn _ => fnOk fn
  | .dataPortWrite port _ _ => dataPortOk port
  | .dataPortRead port _ _ _ => dataPortOk port
  | .dataPortCtxWrite port _ => dataPortOk port
  | .dataPortCommit port _ => dataPortOk port
  | .prefetchFill port _ _ _ _ => dataPortOk port
  | .doorbell fn q _ len _ => fnOk fn && localQueueOk q && widthOk len
  | .inlineSlotWrite fn q _ _ => fnOk fn && localQueueOk q
  | .inlineWaitRelease queue => queueOk queue
  | .msixUnmask fn vec => fnOk fn && vecOk vec
  | .abiAgree fn _ => fnOk fn
  | .wqmDoorbellTake queue => queueOk queue
  | .ringReadComplete queue idx _ => queueOk queue && indexOk idx
  | .refetchTimer queue idx => queueOk queue && indexOk idx
  | .fragmentTableRead queue idx _ => queueOk queue && indexOk idx
  | .entryStart queue idx => queueOk queue && indexOk idx
  | .entryFinish queue idx => queueOk queue && indexOk idx
  | .headWriteComplete queue => queueOk queue
  | .queueIrqTimer queue => queueOk queue
  | .queueSelect fn _ => fnOk fn
  | .queueEnable fn _ => fnOk fn
  | .queueDisable fn _ => fnOk fn
  | .queueFlush fn _ => fnOk fn
  | .queueConfigWrite fn _ _ => fnOk fn
  | .vWrite queue idx => queueOk queue && indexOk idx
  | .vRead queue idx => queueOk queue && indexOk idx
  | .vSend queue idx => queueOk queue && indexOk idx
  | .vAtomic queue idx => queueOk queue && indexOk idx
  | .vReduceWrite queue idx => queueOk queue && indexOk idx
  | .vGatherReduce queue idx => queueOk queue && indexOk idx
  | .vInvoke queue idx => queueOk queue && indexOk idx
  | .invokeTimeout queue idx => queueOk queue && indexOk idx
  | .vCollective queue idx => queueOk queue && indexOk idx
  | .vCrypt queue idx => queueOk queue && indexOk idx
  | .vInvalidate queue idx => queueOk queue && indexOk idx
  | .invalidateDrainDone queue idx => queueOk queue && indexOk idx
  | .vFence queue idx => queueOk queue && indexOk idx
  | .vRegister queue idx => queueOk queue && indexOk idx
  | .vRevoke queue idx => queueOk queue && indexOk idx
  | .tenantActivate queue idx => queueOk queue && indexOk idx
  | .tenantTeardown queue idx => queueOk queue && indexOk idx
  | .tenantQuery queue idx => queueOk queue && indexOk idx
  | .recvPost queue idx => queueOk queue && indexOk idx
  | .contextRootWrite fn _ => fnOk fn
  | .contextValidSet fn _ => fnOk fn
  | .contextValidClear fn _ => fnOk fn
  | .fabricEnWrite fn _ => fnOk fn
  | .tableWalkComplete ctx _ _ => ctxOk ctx
  | .regionCacheTimeout => true
  | .qpConfigWrite fn _ _ => fnOk fn
  | .qpConnect fn _ => fnOk fn
  | .qpClose fn _ => fnOk fn
  | .qpReset fn _ => fnOk fn
  | .connectRetryTimer _ => true
  | .connectTimeout _ => true
  | .connectReqReceive packet => packetOk packet
  | .connectAccReceive packet => packetOk packet
  | .connectRejReceive packet => packetOk packet
  | .connectCloseReceive packet => packetOk packet
  | .closeAckReceive packet => packetOk packet
  | .closingTimeout _ => true
  | .channelIdleTimeout _ => true
  | .contextFetchComplete _ => true
  | .coreSliceEnd core => coreOk core
  | .transportCoreFailure core => coreOk core
  | .sourceReadComplete _ _ => true
  | .headsReceive packet => packetOk packet
  | .dataCellReceive packet => packetOk packet
  | .earlyCellTimeout _ _ => true
  | .cellPlacement _ _ _ _ _ => true
  | .orderedHeadExecute _ _ _ => true
  | .abortHeadReceive packet => packetOk packet
  | .ackDelayTimer _ => true
  | .ackReceive packet => packetOk packet
  | .rtoExpiry _ _ => true
  | .rnrWaitTimer _ => true
  | .responseCellReceive packet => packetOk packet
  | .replyReceive packet => packetOk packet
  | .atomicopComplete _ _ => true
  | .responseCacheExpiry node _ _ => nodeOk node
  | .fabricAccessReceive packet => packetOk packet
  | .mirrorWriteTimer => true
  | .mirrorFlushComplete _ _ => true
  | .heartbeatTimeout _ => true
  | .handoffRecordSeen _ _ => true
  | .takenRecordSeen _ => true
  | .peerFlushComplete _ _ => true
  | .creditGrantReceive _ _ _ _ => true
  | .creditDemandReceive _ _ => true
  | .grantIssue path => pathOk path
  | .grantExpiry _ _ => true
  | .grantReclaimTimer _ _ => true
  | .demandRepeatTimer _ => true
  | .creditTimeout _ _ => true
  | .schedulerPick egress => egressOk egress
  | .shaperRefill => true
  | .capacityFactorApply egress => egressOk egress
  | .routerPass link cell => linkOk link && cellOk cell
  | .cellEject _ => true
  | .cellInject => true
  | .mcHoldTimeout => true
  | .linkEnable link => linkOk link
  | .linkDisable link => linkOk link
  | .linkRetrain link => linkOk link
  | .trainingWordReceive link _ _ => linkOk link
  | .trainingTimeout link => linkOk link
  | .lossOfSignal link _ => linkOk link
  | .noBlockTimeout link => linkOk link
  | .fecRateExceeded link _ => linkOk link
  | .linkDownTimer link => linkOk link
  | .linkHoldExpiry link => linkOk link
  | .noticeFallbackTimer _ => true
  | .noticeReceive link cell => linkOk link && cellOk cell
  | .frameReceive port _ _ _ _ => ethPortOk port
  | .pfcPauseExpiry port prio => ethPortOk port && prioOk prio
  | .pfcRefreshTimer port prio _ => ethPortOk port && prioOk prio
  | .frameTransmitDone port queue idx => ethPortOk port && queueOk queue && indexOk idx
  | .portFault port _ _ => ethPortOk port
  | .portUp port _ => ethPortOk port
  | .laneFailure lane _ => laneOk lane
  | .laneDegraded lane _ => laneOk lane
  | .oneLaneTimer link => linkOk link
  | .rotationStepTimer _ => true
  | .rotReq _ pos => posOk pos
  | .rotAck _ pos => posOk pos
  | .laneMatch _ marker => markerOk marker
  | .matchAchieved _ marker _ => markerOk marker
  | .laneSwitch _ marker => markerOk marker
  | .switchMarker _ => true
  | .laneBack _ pos => posOk pos
  | .laneFailMsg _ pos => posOk pos
  | .spareIn _ pos => posOk pos
  | .rotationAbort _ => true
  | .calibrationDone _ _ _ _ => true
  | .calibrationTimeout _ => true
  | .laneRecal lane => laneOk lane
  | .laneForceFail lane => laneOk lane
  | .laneRestore lane _ => laneOk lane
  | .moduleInsert cage _ _ => cageOk cage
  | .moduleRemove cage => cageOk cage
  | .moduleInterrupt cage _ => cageOk cage
  | .collectiveStart queue idx _ => queueOk queue && indexOk idx
  | .memberListRead queue idx => queueOk queue && indexOk idx
  | .chunkSend group level _ _ => groupOk group && levelOk level
  | .chunkReceive group level _ _ _ => groupOk group && levelOk level
  | .releaseWordReceive group level _ => groupOk group && levelOk level
  | .mcCellReceive packet => packetOk packet
  | .repairTimeout group level _ => groupOk group && levelOk level
  | .collectiveTimeout group => groupOk group
  | .invokeRecordWrite _ _ => true
  | .tileStart tile ch => tileOk tile && channelOk ch
  | .kernelLimit tile => tileOk tile
  | .invocationEnd handle => handleOk handle
  | .tileFailure tile => tileOk tile
  | .tileRemapDone tile => tileOk tile
  | .tileClearDone tile => tileOk tile
  | .tNop tile => tileOk tile
  | .tEnd tile => tileOk tile
  | .tBr tile => tileOk tile
  | .tBrl tile => tileOk tile
  | .tJr tile => tileOk tile
  | .tTrap tile => tileOk tile
  | .tCsrr tile => tileOk tile
  | .tCsrw tile => tileOk tile
  | .tWaitt tile => tileOk tile
  | .tWaitc tile => tileOk tile
  | .tAdd tile => tileOk tile
  | .tSub tile => tileOk tile
  | .tMul tile => tileOk tile
  | .tMulhu tile => tileOk tile
  | .tAnd tile => tileOk tile
  | .tOr tile => tileOk tile
  | .tXor tile => tileOk tile
  | .tShl tile => tileOk tile
  | .tShr tile => tileOk tile
  | .tSra tile => tileOk tile
  | .tMins tile => tileOk tile
  | .tMaxs tile => tileOk tile
  | .tMinu tile => tileOk tile
  | .tMaxu tile => tileOk tile
  | .tDivu tile => tileOk tile
  | .tRemu tile => tileOk tile
  | .tAddi tile => tileOk tile
  | .tSubi tile => tileOk tile
  | .tMuli tile => tileOk tile
  | .tMulhui tile => tileOk tile
  | .tAndi tile => tileOk tile
  | .tOri tile => tileOk tile
  | .tXori tile => tileOk tile
  | .tShli tile => tileOk tile
  | .tShri tile => tileOk tile
  | .tSrai tile => tileOk tile
  | .tMinsi tile => tileOk tile
  | .tMaxsi tile => tileOk tile
  | .tMinui tile => tileOk tile
  | .tMaxui tile => tileOk tile
  | .tDivui tile => tileOk tile
  | .tRemui tile => tileOk tile
  | .tMovi tile => tileOk tile
  | .tMovhi tile => tileOk tile
  | .tCmp tile => tileOk tile
  | .tCmpi tile => tileOk tile
  | .tPlog tile => tileOk tile
  | .tLd8u tile => tileOk tile
  | .tLd16u tile => tileOk tile
  | .tLd32u tile => tileOk tile
  | .tLd64 tile => tileOk tile
  | .tLd32s tile => tileOk tile
  | .tSt8 tile => tileOk tile
  | .tSt16 tile => tileOk tile
  | .tSt32 tile => tileOk tile
  | .tSt64 tile => tileOk tile
  | .tVld tile => tileOk tile
  | .tVst tile => tileOk tile
  | .tVldh tile => tileOk tile
  | .tVsth tile => tileOk tile
  | .tVldmx tile => tileOk tile
  | .tVstmx tile => tileOk tile
  | .tVadd tile => tileOk tile
  | .tVsub tile => tileOk tile
  | .tVmul tile => tileOk tile
  | .tVfma tile => tileOk tile
  | .tVmax tile => tileOk tile
  | .tVmin tile => tileOk tile
  | .tVexp2 tile => tileOk tile
  | .tVlog2 tile => tileOk tile
  | .tVrcp tile => tileOk tile
  | .tVrsq tile => tileOk tile
  | .tVred tile => tileOk tile
  | .tVint tile => tileOk tile
  | .tVcmp tile => tileOk tile
  | .tVsel tile => tileOk tile
  | .tVbcast tile => tileOk tile
  | .tVext tile => tileOk tile
  | .tVins tile => tileOk tile
  | .tVcvt tile => tileOk tile
  | .tMzero tile => tileOk tile
  | .tMma tile => tileOk tile
  | .tMstore tile => tileOk tile
  | .tMload tile => tileOk tile
  | .tMrow tile => tileOk tile
  | .tMsetrow tile => tileOk tile
  | .tDmax tile => tileOk tile
  | .tDmaBurstComplete tile _ _ => tileOk tile
  | .tDatom tile => tileOk tile
  | .tSendTile tile => tileOk tile
  | .tSendAddr tile => tileOk tile
  | .tSendReply tile => tileOk tile
  | .tTileMessageEnqueue tile _ => tileOk tile
  | .tChannelRecv tile _ => tileOk tile
  | .tRecvm tile _ => tileOk tile
  | .tPoll tile => tileOk tile
  | .memoryWrite tenant _ _ => tenantOk tenant
  | .memoryRead tenant _ _ _ => tenantOk tenant
  | .retirementCopyDone ctrl _ => ctrlOk ctrl
  | .patrolRead ctrl _ _ _ _ => ctrlOk ctrl
  | .channelRetrain ctrl _ => ctrlOk ctrl
  | .retrainDone ctrl _ => ctrlOk ctrl
  | .termiteFrameCleared _ => true
  | .keySetLoad tenant quad _ => tenantOk tenant && quadOk quad
  | .sqmPush fn _ => fnOk fn
  | .sqmPop fn _ _ => fnOk fn
  | .sqmQueueClear queue => queueOk queue
  | .keySlotLoad slot owner _ => slotOk slot && tenantOk owner
  | .keySlotDestroy slot => slotOk slot
  | .keySlotZeroed slot => slotOk slot
  | .keySlotParity slot quad => slotOk slot && quadOk quad
  | .cipherPipeFailure pipe => pipeOk pipe
  | .cryptSlice queue idx _ => queueOk queue && indexOk idx
  | .sealedRecordOpen tenant ctx _ _ _ => tenantOk tenant && ctxOk ctx
  | .sealedRecordWrite tenant ctx _ _ => tenantOk tenant && ctxOk ctx
  | .mailboxDoorbell fn => fnOk fn
  | .mailboxTimeout fn => fnOk fn
  | .replyMailboxTimeout fn => fnOk fn
  | .getVersion who _ _ => whoOk who
  | .getCapabilities who _ _ => whoOk who
  | .negotiateAlgorithms who _ _ => whoOk who
  | .getDigests who _ _ => whoOk who
  | .getCertificate who _ _ => whoOk who
  | .spdmChallenge who _ _ => whoOk who
  | .getMeasurements who _ _ => whoOk who
  | .keyExchange who _ _ => whoOk who
  | .spdmFinish who _ _ => whoOk who
  | .spdmHeartbeat who _ _ => whoOk who
  | .heartbeatExpiry who => whoOk who
  | .keyUpdate who _ _ => whoOk who
  | .endSession who _ _ => whoOk who
  | .vendorDefinedRequest who _ _ => whoOk who
  | .keyLoad fn => fnOk fn
  | .keyGen fn => fnOk fn
  | .keyDestroy fn => fnOk fn
  | .sealEnable fn => fnOk fn
  | .sealRekey fn => fnOk fn
  | .reportRequest fn => fnOk fn
  | .drbgReseed => true
  | .entropyHealthFail _ => true
  | .drbgWaitTimeout => true
  | .securityLinkLoss quad => quadOk quad
  | .drainComplete tenant => tenantOk tenant
  | .drainBound tenant => tenantOk tenant
  | .debugToken _ => true
  | .bootCtlReset => true
  | .bootCtlRetry => true
  | .cicQuery _ _ => true
  | .cicPiece _ _ _ => true
  | .pieceBufferIdle _ _ => true
  | .cicAbandon _ _ => true
  | .cicActivate _ _ _ => true
  | .activateResetTimer => true
  | .cicConfirm _ _ => true
  | .healthWindowExpiry => true
  | .txnBegin fn => fnOk fn
  | .txWriteStage fn _ _ => fnOk fn
  | .grantStage fn _ => fnOk fn
  | .txnCommit fn token _ => fnOk fn && word32Ok token
  | .commitValidate => true
  | .blockApply block => blockOk block
  | .commitResultPublish => true
  | .txnRollback fn token => fnOk fn && word32Ok token
  | .transactionTimeout fn => fnOk fn
  | .profileClear => true
  | .faultReport _ => true
  | .suspectWindowClose queue node => queueOk queue && nodeOk node
  | .noticeSuppressionExpiry node => nodeOk node
  | .faultQueuePop _ _ => true
  | .eventQueuePop fn _ _ => fnOk fn
  | .standbyCopyRead => true
  | .registerWrite fn _ len _ => fnOk fn && widthOk len
  | .completionTimeout _ => true
  | .cellSlot link _ => linkOk link
  | .rmaToken _ => true

end Sys2Proof.WellFormed
end

