-- ==== Sys2Proof/Tests/Slice0.lean ====
section
/-! SUPPORT. Tests of the model: the checks of well-formedness, single steps with expected results from the spec, and states that meet the
hypotheses of the statements. -/
set_option linter.all false
open Sys2Proof Sys2Proof.Machine Sys2Proof.Safety

namespace Sys2Proof.Tests
set_option Elab.async false

/-! ### The states of the tests -/

/-- No standby power. -/
def offCard : State := { State.reset with pw := { State.reset.pw with stby := false } }

/-- The main domain is up and the card serves. -/
def upCard : State := { State.reset with pw := { State.reset.pw with v48 := true, mainOn := true, perst := false }, boot := { State.reset.boot with stage := .running, firstClaim := some 7, scrubbed := true } }

/-- The main domain is up and PERST# asserted. -/
def heldCard : State := { upCard with pw := { upCard.pw with perst := true } }

/-- 1,600 W on average against a cap of 1,500 W. -/
def hotCard : State := { upCard with pw := { upCard.pw with sumW := 3200, samples := 2 } }

/-- Too much power at the lowest step of the clock. -/
def slowCard : State := { hotCard with pw := { hotCard.pw with tileMhz := 900 } }

/-- Stage 2 with an average above the cap. -/
def stage2Card : State := { upCard with pw := { upCard.pw with stage2 := true, avgW := 1501 } }

/-- An inlet at 56 degrees. -/
def warmCard : State := setReg upCard Reg.MGT_THERM 0 (w64 (56 * 256))

/-- Elected, waiting for the main domain. -/
def mgtCard : State := { State.reset with pw := { State.reset.pw with v48 := true }, boot := { State.reset.boot with stage := .mgt, firstClaim := some 7, primary := 1 } }

/-- Stage MAIN. -/
def mainCard : State := { upCard with boot := { upCard.boot with stage := .main } }

/-- Stage MEMORY. -/
def memCard : State := { upCard with boot := { upCard.boot with stage := .memory, scrubbed := false } }

/-- Stage UNITS. -/
def unitsCard : State := { upCard with boot := { upCard.boot with stage := .units } }

/-- Minimal mode. -/
def minimalCard : State := { upCard with boot := { upCard.boot with stage := .minimal, minimal := true } }

/-- The running card. -/
def runCard : State := upCard

/-- No standby power. -/
def darkCard : State := { State.reset with pw := { State.reset.pw with stby := false } }

/-- Frame 0 belongs to tenant 0, whose key set is loaded everywhere. -/
def ramCard : State := { upCard with mem := { upCard.mem with frames := [(0, { alloc := true })], keySets := [(0, 15)], controllers := [(0, { state := 2 })] } }

/-- Its first block is poisoned. -/
def badRam : State := { ramCard with mem := { ramCard.mem with blocks := [(0, { poison := true })] } }

/-- Controller 0 retrains, controller 23 retires granule 9. -/
def retireCard : State := { upCard with mem := { upCard.mem with controllers := [(0, { state := 2, retraining := true }), (23, { state := 2, retiring := some 9 })] } }

/-- All 252 VFs are there. -/
def vfCard : State := { upCard with hif := { upCard.hif with vfEnable := true, numVfs := 252 } }

/-- Vector 511 of the PF has its pending bit set. -/
def vecCard : State := { upCard with fns := [(0, { vectors := [(511, { pending := true })] })] }

/-- Data port 7 is bound to context 0 and holds one prefetched byte. -/
def portCard : State := setReg { upCard with hif := { upCard.hif with ports := [(7, { prefetch := [(0, 5)] })] } } Reg.HIF_DPn_CTX 7 (w64 0x10000)

/-- Function 0 has agreed an ABI version. -/
def abiCard : State := { upCard with fns := [(0, { abi := 2 })] }

/-- Queue 0 is ACTIVE. -/
def queueCard : State := { abiCard with queues := [(0, { st := 1, ring := 4 })] }

/-- A part of the inline slot of queue 0 has been written. -/
def slotCard : State := { abiCard with queues := [(0, { st := 1, ring := 4, slot := [(0, some 1)] })] }

/-- An inline command waits for room, and a HEAD write is under way. -/
def waitCard : State := { abiCard with queues := [(0, { st := 1, ring := 4, inlineWait := some [], headBusy := true })] }

/-- A ring read is under way, and index 1 is to be fetched again. -/
def readCard : State := { abiCard with queues := [(0, { st := 1, ring := 4, tail := 3, refetch := [⟨1, 0⟩], reads := [{ idx := 0, count := 1, xfer := ⟨0, 0, 0, 64, [(.bus 0 false 0, 64)], 0⟩ }] })] }

/-- A completion waits for the interrupt timer. -/
def irqCard : State := { abiCard with queues := [(0, { st := 1, ring := 4, ctl := 8, mod := 256, published := 1, finishedAt := [(0, 5)] })] }

/-- Queue 0 is DISABLED and may be enabled. -/
def offQueue : State := { abiCard with queues := [(0, { ring := 4 })] }

/-- Queue 0 is in ERROR and has nothing left. -/
def errQueue : State := { abiCard with queues := [(0, { st := 3, ring := 4 })] }

/-- Queue 0 drains and has nothing left. -/
def drainQueue : State := { abiCard with queues := [(0, { st := 2, ring := 4 })] }

/-- A doorbell has arrived. -/
def bellCard : State := { abiCard with queues := [(0, { st := 1, ring := 4, db := some 1 })], hif := { abiCard.hif with arrivals := [0] } }

/-- The 64 bytes of an entry with an opcode. -/
def opBytes (op : Nat) : List Byte := List.replicate 8 0 ++ [BitVec.ofNat 8 op] ++ List.replicate 55 0

/-- A FENCE at the front of its queue. -/
def localEntry : Entry := { idx := 0, bytes := opBytes 0x21 }

/-- A WRITE at the front of its queue. -/
def writeEntry : Entry := { idx := 0, bytes := opBytes 0x01 }

/-- A WRITE whose fragment table is being read. -/
def indirectEntry : Entry := { idx := 0, bytes := opBytes 0x01, phase := 1, tblRead := some ⟨0, 0, 0, 16, [(.bus 0 false 0, 16)], 0⟩ }

/-- An entry whose effect is complete. -/
def doneEntry : Entry := { idx := 0, bytes := opBytes 0x21, phase := 2 }

/-- The same, and it has written peer pages. -/
def peerEntry : Entry := { doneEntry with leaves := [(0, 0)] }

/-- A RECV whose table of one empty fragment is being read. -/
def scatterEntry : Entry := { idx := 0, bytes := [1, 4, 0, 0, 0, 0, 0, 0, 0x30] ++ [4, 0, 0, 1] ++ List.replicate 51 0, phase := 1, tblRead := some ⟨0, 0, 0, 16, [(.bus 0 false 0, 16)], 0⟩ }

/-- An entry behind one that is not finished. -/
def laterEntry : Entry := { idx := 1, bytes := opBytes 0x21, phase := 2 }

/-- The five entries at the front of queues 0 to 4, and a READY QP 0. -/
def startCard : State := { abiCard with queues := [(0, { st := 1, ring := 4, tail := 1, entries := [localEntry] }), (1, { st := 2, ring := 4, bind := 2 ^ 20, tail := 1, entries := [writeEntry] }), (2, { st := 1, ring := 4, tail := 1, entries := [indirectEntry] }), (3, { st := 1, ring := 4, tail := 1, entries := [doneEntry] }), (4, { st := 1, ring := 4, tail := 1, ctl := 2, entries := [peerEntry] }), (5, { st := 1, ring := 4, tail := 1, entries := [scatterEntry] }), (6, { st := 1, ring := 4, ctl := 1, tail := 2, fetch := 2, entries := [localEntry, laterEntry] })], atu := { abiCard.atu with ctxs := [(0, { valid := true, root := 1 })], cache := [⟨0, 0, 65536, 0x1F⟩] }, tpe := { abiCard.tpe with conns := [(0, { st := 2 })] } }

/-- The card with the fragments of the RECV in. -/
def scatterCard : State := entryMod (entryMod startCard 5 0 (fun e => { e with tblRead := none })) 5 0 (fun x => { x with frags := some (parseFrags (elen scatterEntry) (List.replicate 16 0)) })

/-- A started entry whose verb has its turn. -/
def readyEntry (op : Nat) : Entry := { idx := 0, bytes := opBytes op, phase := 1, taken := true }

/-- Queue q holds one ready entry, of opcode op. -/
def readyQueue (q op : Nat) : Nat × QueueC := (q, { st := 1, ring := 4, bind := 2 ^ 20, tail := 1, entries := [readyEntry op] })

/-- Queues 1 to 7 hold one ready remote verb each, on the READY QP 0. -/
def sendCard : State := { abiCard with queues := [readyQueue 1 1, readyQueue 2 2, readyQueue 3 3, readyQueue 4 4, readyQueue 5 5, readyQueue 6 6, readyQueue 7 7], tpe := { abiCard.tpe with conns := [(0, { st := 2 })] } }

/-- A ready SEND on a raw endpoint. -/
def rawCard : State := setReg { abiCard with queues := [(3, { st := 1, ring := 4, bind := 2 ^ 21, tail := 1, entries := [readyEntry 3] })] } Reg.EMAC_RXQ 64 (w64 4096)

/-- An INVOKE whose message is acknowledged. -/
def runningInvoke : Entry := { readyEntry 7 with running := true, msn := 5 }

/-- It waits for its outcome. -/
def invokeCard : State := { abiCard with queues := [(7, { st := 1, ring := 4, bind := 2 ^ 20, tail := 1, entries := [runningInvoke] })], tpe := { abiCard.tpe with conns := [(0, { st := 2, msn := 6, send := [{ msn := 5, opc := 8, by_ := .entry 7 0, acked := true }] })] } }

/-- An INVALIDATE that drains. -/
def runningInvalidate : Entry := { readyEntry 0x20 with running := true, waits := [(0, 0)] }

/-- Local verbs on queues 0 to 5. -/
def localCard : State := { abiCard with queues := [readyQueue 0 0x10, readyQueue 1 0x30, readyQueue 2 0x20, (3, { st := 1, ring := 4, tail := 1, entries := [runningInvalidate] }), readyQueue 4 0x21, readyQueue 5 0x22] }

/-- A REVOKE of region 0. -/
def revokeCard : State := { abiCard with queues := [readyQueue 6 0x23], atu := { abiCard.atu with regions := [(0, { state := 1 })] } }

/-- A transaction with one staged write of CCS_ADMIT_PCT. -/
def openTxn : Txn := { token := 7, staged := [{ off := Reg.CCS_ADMIT_PCT, value := 80, sel := 0 }] }

/-- The PF has it open. -/
def txnCard : State := { upCard with fns := [(0, { abi := 2, txn := some openTxn })] }

/-- The row of CCS_ADMIT_PCT among the TX registers. -/
def ccsRow : TxRow := { off := Reg.CCS_ADMIT_PCT, mask := 0x7F, sel := .egress }

/-- A commit whose transaction has overflowed. -/
def overCommit : Commit := { fn := 0, txn := { openTxn with overflow := true }, save := false }

/-- It is to be validated. -/
def overCard : State := { upCard with fns := [(0, { abi := 2, cfgBusy := true })], commits := [overCommit] }

/-- A commit of nothing. -/
def emptyCommit : Commit := { fn := 0, txn := { token := 7 }, save := false }

/-- It is to be validated. -/
def emptyCommitCard : State := { overCard with commits := [emptyCommit] }

/-- A valid commit that CCS has not applied. -/
def applyCommit : Commit := { fn := 0, txn := openTxn, save := false, validated := true }

/-- CCS is to apply it. -/
def applyCard : State := { overCard with commits := [applyCommit] }

/-- A commit that every block has applied. -/
def publishCommit : Commit := { applyCommit with applied := [4] }

/-- Its result is to be published. -/
def publishCard : State := { overCard with commits := [publishCommit] }

/-- Slot 252 is QUIESCING with nothing left. -/
def quietCard : State := { vfCard with tenants := [(252, { st := 2 })] }

/-- The bytes of a TENANT entry for slot 252. -/
def tenantEntry (op : Nat) : Entry := { idx := 0, bytes := List.replicate 8 0 ++ [0x24] ++ List.replicate 35 0 ++ [BitVec.ofNat 8 op, 252] ++ List.replicate 18 0, phase := 1, taken := true }

/-- TENANT entries of the PF for an EMPTY slot. -/
def lifeCard : State := { vfCard with fns := [(0, { abi := 2 })], queues := [(0, { st := 1, ring := 4, tail := 1, entries := [tenantEntry 0] }), (1, { st := 1, ring := 4, tail := 1, entries := [tenantEntry 1] }), (2, { st := 1, ring := 4, tail := 1, entries := [tenantEntry 2] })] }

/-- The same for an ACTIVE slot. -/
def activeCard : State := { lifeCard with tenants := [(252, { st := 1 })] }

/-- Frame 3 is being scrubbed, and SQM queue 0x200 cleared. -/
def scrubCard : State := { vfCard with tenants := [(252, { st := 4, clearQueues := [0x200] })], mem := { vfCard.mem with frames := [(3, { alloc := true, owner := 252, scrub := true })] }, sqm := { vfCard.sqm with queues := [(0x200, { clearing := true })] } }

/-- Tile 159 is CLEARING. -/
def clearTile : State := { upCard with tgd := { upCard.tgd with tiles := [(159, { st := 1, site := 40 })] } }

/-- The context of a sealed VF has a host root. -/
def sealedCard : State := setReg { vfCard with tenants := [(1, { st := 1, mode := 1 })], owners := [(resId 0x01 5, 1)], atu := { vfCard.atu with ctxs := [(5, { root := 1 })] } } Reg.ATU_CSEL 1 5

/-- Context 0 leads to the host: bus address 0 for the page at 0. -/
def busCard : State := { abiCard with atu := { abiCard.atu with ctxs := [(0, { valid := true, root := 1 })], cache := [⟨0, 0, 65536, 0x1F⟩] } }

/-- An access waits for a table word. -/
def walkCard : State := { upCard with atu := { upCard.atu with stalled := [⟨65535, 8, .laneLater 0⟩] } }

/-- A ready CRYPT, a loaded slot and one that is being destroyed. -/
def cryptCard : State := { abiCard with queues := [readyQueue 0 0x11], cph := { abiCard.cph with slots := [(0, { st := 1, key := List.replicate 16 0, aes128 := true }), (1, { st := 2 })] } }

/-- A CRYPT of 16 bytes in host memory. -/
def cryptEntry : Entry := { readyEntry 0x11 with bytes := List.replicate 8 0 ++ [0x11, 0, 0, 0, 16] ++ List.replicate 51 0, running := true }

/-- Its stream. -/
def cryptStream : Stream := { queue := 0, idx := 0, tenant := 0, slot := 0 }

/-- It runs. -/
def cryptRun : State := { busCard with queues := [(0, { st := 1, ring := 4, tail := 1, entries := [cryptEntry] })], cph := { cryptCard.cph with streams := [cryptStream] } }

/-- A sealed tenant sends 64 bytes from a host page. -/
def recordCard : State := { busCard with tenants := [(0, { st := 1, mode := 1, ranges := [(0, 65536)] })], tpe := { busCard.tpe with conns := [(0, { st := 2, send := [{ msn := 0, opc := 1, by_ := .entry 0 0, src := .mem 0 0 [(0, 64)] }] })] } }

/-- A record of no bytes that is complete in seal staging. -/
def sealStage : SealStage := { tenant := 0, ctx := 0, base := 0, rec_ := 0, len := 0 }

/-- Its tenant may seal it. -/
def stageCard : State := { busCard with tenants := [(0, { st := 1, mode := 1, ranges := [(0, 65536)], seal0 := { valid := true } })], cph := { cryptCard.cph with staging := [sealStage] } }

/-- A valid commit for CCS and FRT that neither has applied. -/
def applyCommit2 : Commit := { applyCommit with txn := { token := 7, staged := [{ off := Reg.CCS_ADMIT_PCT, value := 80, sel := 0 }, { off := 0x500000, value := 0, sel := 0 }] } }

/-- CCS is to apply it. -/
def applyCard2 : State := { overCard with commits := [applyCommit2] }

/-- A context of slot 252 has a transfer under way. -/
def drainBusy : State := { quietCard with owners := [(resId 0x01 5, 252)], atu := { quietCard.atu with ctxs := [(5, { inflight := [(0, 1)] })] } }

/-- The stream of a CRYPT whose initial block is there. -/
def begunStream : Stream := { cryptStream with begun := true, chain := List.replicate 16 0 }

/-- It runs. -/
def begunCrypt : State := { cryptRun with cph := { cryptRun.cph with streams := [begunStream] } }

/-- Its one slice is read, enciphered and written, and its chaining block written. -/
def cryptDone : Bool := match cryptRead begunCrypt 0 (dctx cryptEntry) (ef cryptEntry 16 8) 0 16 (some (List.replicate 16 0)) with | .error _ => false | .ok (s3, bus3, d) => let r := cryptStep (keySlot begunCrypt 0).key (cryptMode cryptEntry) (cryptDec cryptEntry) (cryptAad cryptEntry) begunStream.chain 0 d; match cryptWrite s3 0 0 0 (dctx cryptEntry) (ef cryptEntry 24 8) 0 16 r.1 with | .error _ => false | .ok s4 => match cryptLast (streamPut (cphBlocks s4 0 1) { begunStream with done := 16, chain := r.2.1, ghash := r.2.2 }) { begunStream with done := 16, chain := r.2.1, ghash := r.2.2 } cryptEntry (keySlot begunCrypt 0).key bus3 with | .error _ => false | .ok _ => true

/-- QP 0 in a state of its own. -/
def qpCard (C : Conn) : State := { abiCard with tpe := { abiCard.tpe with conns := [(0, C)] } }

/-- QP 0 is READY. -/
def readyCard : State := qpCard { st := 2 }

/-- QP 0 is in ERROR. -/
def failedCard : State := qpCard { st := 4, cfg := 7, msn := 9 }

/-- QP 0 is CONNECTING. -/
def connectingCard : State := qpCard { st := 1 }

/-- QP 0 is CLOSING. -/
def closingCard : State := qpCard { st := 3 }

/-- The channel to node 1 is open. -/
def chanCard : State := { abiCard with tpe := { abiCard.tpe with conns := [(chanId 0 0 0 1, { st := 2 })] } }

/-- An answer of QP 0 of node 0 that offers version 2. -/
def accPacket : Packet := { cell := { payload := [0x20, 0x40, 0x20] ++ List.replicate 29 0 } }

/-- The card with its two spare transport cores. -/
def spareCard : State := upCard

/-- A STANDBY QP. -/
def standbyConn : Conn := { st := 5 }

/-- A record that hands QP 0 over. -/
def handoffRecord : Mirror := { word := 2 ^ 20 + 2 ^ 21, seq := 1 }

/-- The partner has handed QP 0 over. -/
def standbyCard : State := setBytes (qpCard standbyConn) 0 (mirrorRecord handoffRecord)

/-- A record that says QP 0 was taken over. -/
def takenRecord : Mirror := { word := 2 ^ 20 + 2 ^ 22, seq := 1 }

/-- The partner has taken QP 0 over. -/
def twinCard : State := setBytes (qpCard { st := 2, cfg := 2 ^ 51 }) 0 (mirrorRecord takenRecord)

/-- The twin context is enabled. -/
def beatCard : State := setReg upCard Reg.TPE_TWIN_CTX 0 (w64 65536)

/-- A message whose source is being read. -/
def sourceMsg : SendMsg := { msn := 5, opc := 1, by_ := .entry 0 0, src := .mem 0 0 [], len := 64, headSent := true, reads := [⟨0, 0, 0, 64, [(.bus 0 false 0, 64)], 0⟩] }

/-- Its QP. -/
def sourceCard : State := qpCard { st := 2, send := [sourceMsg] }

/-- A CSN in flight. -/
def flightRec : CsnRec := { csn := 9, msn := 5, resp := false, head := true, off := 0, at_ := 0 }

/-- Its QP with its retry budget. -/
def flightCard : State := { qpCard { st := 2, csn := 10, send := [sourceMsg], flight := [flightRec] } with time := 10 ^ 9 }

/-- Its QP with one retry left. -/
def spentCard : State := { qpCard { st := 2, csn := 10, retries := 6, send := [sourceMsg], flight := [flightRec] } with time := 10 ^ 9 }

/-- A message that has sent nothing. -/
def creditMsg : SendMsg := { msn := 5, opc := 1, by_ := .entry 0 0, len := 64 }

/-- It waits for credit. -/
def creditCard : State := qpCard { st := 2, send := [creditMsg] }

/-- A message that has sent its head. -/
def sentMsg : SendMsg := { creditMsg with headSent := true }

/-- It waits for credit. -/
def sentCard : State := qpCard { st := 2, send := [sentMsg] }

/-- An acknowledgement is due. -/
def ackCard : State := qpCard { st := 2, sinceAck := 1, cum := 4 }

/-- A HEADS cell of no head. -/
def emptyHeads : Packet := { cell := { opc := 0x10 } }

/-- A HEADS cell that carries an ABORT head. -/
def abortPacket : Packet := { cell := { opc := 0x10, plen := 32, payload := [0x78] ++ List.replicate 31 0 } }

/-- A HEADS cell that carries an FWRITE head. -/
def fwritePacket : Packet := { chan := true, cell := { opc := 0x10, snode := 1, plen := 32, payload := [0x50] ++ List.replicate 31 0 } }

/-- Its head waits for the region cache. -/
def regionCard : State := { readyCard with atu := { readyCard.atu with regionWait := [emptyHeads] } }

/-- A WRITE cell. -/
def writePacket : Packet := { cell := { opc := 0x01, payload := [1, 2, 3, 4] } }

/-- A cell of a message without a head waits. -/
def earlyCard : State := { readyCard with tpe := { readyCard.tpe with early := [(0, { opc := 1, csn := 4 })] } }

/-- A READ response cell. -/
def readBackPacket : Packet := { cell := { opc := 0x04, payload := [1, 2, 3, 4] } }

/-- A REPLY cell. -/
def replyPacket : Packet := { cell := { opc := 0x09, payload := [1, 2, 3, 4] } }

/-- An ATOMIC whose outcome is being mirrored. -/
def mirrorMsg : RecvMsg := { msn := 3, opc := 0x0C, executed := true, waiting := true }

/-- Its entry in the response cache. -/
def cacheEntry : RcEntry := ⟨0, 0, 3, 0, 7, false⟩

/-- Both. -/
def mirrorCard : State := { qpCard { st := 2, recv := [mirrorMsg] } with tpe := { (qpCard { st := 2, recv := [mirrorMsg] }).tpe with rcache := [cacheEntry] } }

/-- Port 4 runs at half its capacity factor. -/
def halfCard : State := { upCard with ccs := { upCard.ccs with egress := [(4, { factor := 500 })] } }

/-- A grant that QP 0 holds. -/
def oneGrant : Held := ⟨7, 5⟩

/-- A grant that QP 0 has given. -/
def oneGranted : Held := ⟨8, 3⟩

/-- QP 0 with both. -/
def grantCard : State := { qpCard { st := 2, lastGseq := some 4294967295, grants := [oneGrant], granted := [oneGranted] } with ccs := { upCard.ccs with egress := [(0, { outstanding := 3 })] } }

/-- A demand is out. -/
def demandCard : State := qpCard { st := 2, demandOut := true, send := [creditMsg] }

/-- QP 0 asks the fabric path for three units. -/
def issueCard : State := { readyCard with ccs := { readyCard.ccs with egress := [(0, { demand := [(0, 3)] })] } }

/-- The entry of a reduction in the response cache. -/
def reduceEntry : RcEntry := ⟨0, 0, 3, 0, 7, true⟩

/-- The message whose mirror write ends. -/
def mirrorCard2 : State := { mirrorCard with tpe := { mirrorCard.tpe with rcache := [reduceEntry] } }

/-- A core-0 cache full of contexts, the last of them of QP 32. -/
def fullCard : State := { upCard with tpe := { upCard.tpe with cached := (List.range 1024).map (fun i => 32 * (1024 - i)) } }

/-- Slices of core 0 and core 1. -/
def sliceCard : State := { upCard with tpe := { upCard.tpe with slices := [(0, 4), (1, 4), (32, 5)] } }

/-- Context 0 is mapped to the bus. -/
def onBus (s : State) : State := { s with atu := { s.atu with ctxs := [(0, { valid := true, root := 1 })], cache := [⟨0, 0, 65536, 0x1F⟩] } }

/-- Region 1 of context 0 may be written. -/
def regionsCard : State := setReg { onBus readyCard with atu := { (onBus readyCard).atu with regions := [(1, { state := 1, rights := 63, gen := 0, ctx := 0, base := 0, len := 65536 })] } } Reg.ATU_RGN_COUNT 0 (w64 1024)

/-- A HEADS cell with the head of a WRITE of four bytes under key 1. -/
def writeHead : Packet := { cell := { opc := 0x10, plen := 32, payload := [0x08, 0, 0, 0, 0, 0, 0, 1, 0, 0, 0, 0, 0, 0, 0, 0, 0, 4] ++ List.replicate 14 0 } }

/-- Its head. -/
def theHead : Head := ⟨1, false, 0, 1, 0, 4, 0, 0, 0, 0, 0, 0⟩

/-- The card once LOW_MSN has been taken. -/
def lowCardT : State := takeLow (arrive regionsCard writeHead) 0 0

/-- A frame of the PF is shared. -/
def sharedCard : State := { chanCard with mem := { chanCard.mem with frames := [(0, { alloc := true, shared := true })], keySets := [(0, 15)] } }

/-- A HEADS cell with the head of an FREAD of four bytes at fabric address 0. -/
def freadHead : Packet := { chan := true, cell := { opc := 0x10, snode := 1, plen := 32, payload := [0x68, 0, 0, 0, 0, 0, 0, 0, 0, 0, 0, 0, 0, 0, 0, 0, 0, 4] ++ List.replicate 14 0 } }

/-- Its head. -/
def fabHead : Head := ⟨0x0D, false, 0, 0, 0, 4, 0, 0, 0, 0, 0, 0⟩

/-- The card once LOW_MSN has been taken. -/
def sharedCardT : State := takeLow (arrive sharedCard freadHead) (packetConn freadHead) 0

/-- The ABORT head of message 0. -/
def abortOne : Head := ⟨0x0F, false, 0, 0, 0, 0, 0, 0, 0, 0, 0, 0⟩

/-- An admitted WRITE of four bytes. -/
def placeMsg : RecvMsg := { msn := 3, opc := 1, len := 4, admitted := true, counted := true, region := 1 }

/-- It is being received. -/
def placeCard : State := onBus (qpCard { st := 2, recv := [placeMsg] })

/-- Its one cell. -/
def fourBytes : Packet := { cell := { opc := 1, first := true, last := true, msn := 3, plen := 4, payload := [1, 2, 3, 4] } }

/-- The card with one more cell to place. -/
def queuedCard : State := (placeQueue (arrive placeCard fourBytes) 0 0).1

/-- A WRITE of two units with a placement under way. -/
def landMsg : RecvMsg := { msn := 3, opc := 1, len := 600, admitted := true, pend := [⟨0, 0, 0, 4, [(.bus 0 false 0, 4)], 0⟩], pendData := [(0, [1, 2, 3, 4], [])] }

/-- It is being received. -/
def landCard : State := onBus (qpCard { st := 2, recv := [landMsg] })

/-- The card once the placement is over. -/
def landDone : State := recvMod (placeDone (endXfer landCard ⟨0, 0, 0, 4, [(.bus 0 false 0, 4)], 0⟩) (connPath landCard 0)) 0 3 (fun m => { m with pend := m.pend.filter (fun y => y.key ≠ 0), pendData := m.pendData.filter (fun y => y.1 ≠ 0) })

/-- An admitted READ whose turn has come. -/
def readMsg : RecvMsg := { msn := 0, opc := 0x0B, len := 4, admitted := true, counted := true, region := 1 }

/-- It is being received. -/
def readMsgCard : State := qpCard { st := 2, recv := [readMsg] }

/-- A READ of four bytes that waits for its response. -/
def readingMsg : SendMsg := { msn := 5, opc := 0x0B, by_ := .entry 2 0, respLen := 4, respUnits := 1, headSent := true }

/-- It has been sent. -/
def readingCard : State := onBus { qpCard { st := 2, send := [readingMsg] } with queues := [(2, { st := 1, ring := 4, tail := 1, entries := [{ idx := 0, bytes := List.replicate 8 0 ++ [2, 0, 0, 0, 4] ++ List.replicate 51 0, phase := 1, taken := true, running := true }] })] }

/-- Its response. -/
def fourBack : Packet := { cell := { opc := 0x04, first := true, last := true, msn := 5, plen := 4, payload := [1, 2, 3, 4] } }

/-- The card with one more cell to place. -/
def readingQueued : State := (placeQueue (arrive readingCard fourBack) 0 0).1

/-- An INVOKE that allows a reply of 64 bytes. -/
def invokeMsg : SendMsg := { msn := 5, opc := 0x08, by_ := .entry 2 0, varg := 64, headSent := true }

/-- It has been sent. -/
def replyingCard : State := onBus { qpCard { st := 2, send := [invokeMsg] } with queues := [(2, { st := 1, ring := 4, tail := 1, entries := [{ idx := 0, bytes := List.replicate 8 0 ++ [7, 0, 0, 0, 4] ++ List.replicate 51 0, phase := 1, taken := true, running := true }] })] }

/-- Its reply. -/
def fourReply : Packet := { cell := { opc := 0x09, first := true, last := true, msn := 5, plen := 4, payload := [1, 2, 3, 4] } }

/-- The card once the length of the reply is known. -/
def replyingT : State := sendMod (arrive replyingCard fourReply) 0 5 false (fun m => { m with respLen := 4, respUnits := 1 })

/-- An ATOMIC whose head is to be sent. -/
def pickMsg : SendMsg := { msn := 5, opc := 0x0C, by_ := .entry 0 0, respLen := 8, respUnits := 1 }

/-- It is the only work of the fabric path. -/
def pickCard : State := { onBus (qpCard { st := 2, send := [pickMsg], grants := [⟨1, 5⟩] }) with tpe := { abiCard.tpe with conns := [(0, { st := 2, send := [pickMsg], grants := [⟨1, 5⟩] })], cached := [0] } }

/-- A QP that connects, with its first CSN drawn. -/
def drawnCard : State := qpCard { st := 1, drawn := true, initCsn := 9 }

/-- The REQ of its peer. -/
def reqPacket : Packet := { cell := { payload := [0x00, 0x40, 0x20] ++ List.replicate 29 0 } }

/-- A cell for this node, with its CRC. -/
def ownCell : Cell := { crc := cellCrc {} }

/-- A cell for node 5. -/
def farCell : Cell := { dnode := 5, hops := 1 }

/-- A local cell for this node that waits for injection. -/
def injected : Inject := { cell := ownCell, tenant := 0, conn := 0 }

/-- A local cell for node 5. -/
def injectedFar : Inject := { cell := farCell, tenant := 0, conn := 0 }

/-- An event of connector 5 whose notice is owed. -/
def owedEvent : LinkEvent := { lo := 1, hi := 0, loConn := 4, hiConn := 5, kind := 1, at_ := 0 }

/-- A notice. -/
def noticeCell : Cell := { typ := 2, payload := List.replicate 64 0 }

/-- What the neighbour of link 2 sends in training. -/
def peerBlock : LinkId := { node := 15 }

/-- Node 0 with links in every state and cells at every place. -/
def linkCard : State := setReg { abiCard with frt := { abiCard.frt with links := [(0, { st := 3, ver := 2, peerNode := 1 }), (1, { st := 3, ver := 2, peerNode := 1, staging := [ownCell] }), (2, { st := 2 }), (3, { st := 4 }), (4, { st := 1 }), (5, { st := 1, downs := [0, 0, 0] })], hold := [⟨0, ownCell, 0⟩], inject := [injected], owed := [owedEvent], eject := [(0, ownCell)] } } Reg.FRT_NODE 0 (w64 4096)

/-- A cell for node 5 waits for injection. -/
def farCard : State := { linkCard with frt := { linkCard.frt with inject := [injectedFar] } }

/-- A management cell is at the eject port. -/
def mgmtCard : State := { linkCard with frt := { linkCard.frt with eject := [(0, { ownCell with typ := 3 })] } }

/-- Port 1 is up. -/
def portUpCard : State := { abiCard with eports := [(1, { up := true })] }

/-- A frame with its FCS. -/
def framed (b : List Byte) : List Byte := b ++ leBytes 4 (crc32 b).toNat

/-- A pause frame of PFC. -/
def pfcFrame : List Byte := framed ([1, 0x80, 0xC2, 0, 0, 1, 2, 0, 0, 0, 0, 1, 0x88, 0x08, 1, 1, 0, 1, 0, 9] ++ List.replicate 40 0)

/-- A transport frame. -/
def cellFrame : List Byte := framed ([1, 0, 0, 0, 0, 0, 2, 0, 0, 0, 0, 1, 8, 0, 0x45, 0, 0, 46, 0, 0, 0, 0, 64, 17, 0, 0, 0, 0, 0, 0, 0, 0, 0, 0, 0, 0, 0x12, 0xB8, 0, 26, 0, 0] ++ List.replicate 18 0)

/-- Port 1 is up and steers what no filter matches to its queue 0. -/
def rawPortCard : State := portUpCard

/-- A frame of another protocol. -/
def plainFrame : List Byte := framed ([1, 0, 0, 0, 0, 0, 2, 0, 0, 0, 0, 1, 0x12, 0x34] ++ List.replicate 46 0)

/-- A raw frame that is leaving. -/
def rawTx : RawTx := { queue := 3, idx := 0, len := 64, cls := 4, sent := true }

/-- Priority 7 of port 1 is held. -/
def holdPort : State := { abiCard with eports := [(1, { up := true, holding := 0x80, raw := [rawTx] })], queues := [(3, { st := 1, ring := 4, bind := 2 ^ 21, tail := 1, entries := [{ readyEntry 3 with running := true }] })] }

/-- One port in mode 2. -/
def mode2Card : State := setReg abiCard Reg.EMAC_MODE 0 2

/-- Link 0 is up with lane 1 failed. -/
def narrowCard : State := { linkCard with lns := { linkCard.lns with lanes := [(0, { st := 2 }), (1, { st := 6 })] } }

/-- Rotations in every phase. -/
def laneCard : State := { linkCard with lns := { linkCard.lns with lanes := [(0, { st := 2 }), (1, { st := 2 }), (2, { st := 2 }), (3, { st := 2 }), (4, { st := 3 })], rots := [(1, { phase := 1 }), (2, { phase := 2, restarts := 3, marker := some 0 }), (3, { phase := 3, pos := 2 })] } }

/-- The higher end of connector 0. -/
def upperCard : State := setReg { laneCard with frt := { laneCard.frt with links := [(0, { st := 3, ver := 2, peerNode := 0 }), (1, { st := 3, ver := 2, peerNode := 0 })] } } Reg.FRT_NODE 0 (w64 4097)

/-- Cage 1 has a module. -/
def moduleCard : State := { abiCard with lns := { abiCard.lns with modules := [(1, { present := true })] } }

/-- The notice of node 0 has been seen. -/
def seenCard : State := { linkCard with frt := { linkCard.frt with seen := [(0, 0)] } }

/-- The second link of FAB0 trains. -/
def fabCard : State := { linkCard with frt := { linkCard.frt with links := [(0, { st := 3, ver := 2 }), (1, { st := 2 })] } }

/-- An invocation with handle 0 that tile 0 runs. -/
def replyInv : Invocation := { kernel := 0, conn := 0, msn := 3, region := 0, argLen := 0, replyMax := 64, ch := 0, all := false, tiles := [0], live := [0], written := true }

/-- The same with room for less. -/
def shortInv : Invocation := { replyInv with replyMax := 63 }

/-- Tile 0 runs. -/
def baseTile : Tile := { st := 3, g := [(3, 1), (4, 0x1000), (5, 0x2000)], mshape := 0x200101, mstride := 0x2000000020, ostride := 16 }

/-- The running tile T with the word w at its pc, beside tile 1. -/
def tileCard (s : State) (T : Tile) (w : Nat) : State := setBytes { s with tgd := { s.tgd with tiles := [(0, T), (1, { st := 2 })], invs := [(0, replyInv)] } } (tileAddr 0 T.pc) (leBytes 8 w)

/-- The word w is at the pc of tile 0. -/
def codeCard (w : Nat) : State := tileCard readyCard baseTile w

/-- Tag 2 is in use, and channel 1 holds two words. -/
def busyCode (w : Nat) : State := tileCard { readyCard with sqm := { readyCard.sqm with queues := [(tileQ 0 1, { words := [⟨8, 0⟩, ⟨9, 0⟩], cells := [⟨0, false⟩] })] } } { baseTile with counts := [(2, 1)], g := [(3, 1), (6, 2)] } w

/-- Channel 1 is the channel of another kernel. -/
def barredCode (w : Nat) : State := setReg (busyCode w) Reg.TGD_KENTw 5 (w64 (1 + 2 ^ 40 + 2 ^ 48))

/-- M, N and K of 0, and formats that do not go together. -/
def zeroShape (w : Nat) : State := tileCard readyCard { baseTile with mshape := 0, mfmt := 0x36 } w

/-- A length beyond 4 MiB. -/
def wideCode (w : Nat) : State := tileCard readyCard { baseTile with g := [(5, 0x400001)] } w

/-- A burst of 4 bytes to memory. -/
def storeBurst : Burst := ⟨0, 0, ⟨0, 0, 0, 4, [(.loc 0x200000, 4)], 0⟩, [1, 2, 3, 4], []⟩

/-- Its DMA. -/
def storeDma : TileDma := { id := 0, tag := 1, toCtx := true, toff := 0, va := 0, len := 4, burst := some storeBurst }

/-- A burst of 4 bytes from the bus. -/
def loadBurst : Burst := ⟨64, 0, ⟨1, 0, 0, 4, [(.bus 0 false 0, 4)], 0⟩, [], []⟩

/-- Its DMA. -/
def loadDma : TileDma := { id := 1, tag := 2, toCtx := false, toff := 64, va := 0, len := 4, burst := some loadBurst }

/-- A burst of 4 poisoned bytes. -/
def badBurst : Burst := ⟨128, 0, ⟨2, 0, 0, 4, [(.loc 0x200040, 4)], 0⟩, [], []⟩

/-- Its DMA. -/
def badDma : TileDma := { id := 2, tag := 3, toCtx := false, toff := 128, va := 0, len := 4, burst := some badBurst }

/-- A DMA whose burst has not been issued. -/
def waitDma : TileDma := { id := 3, tag := 4, toCtx := true, toff := 0, va := 0, len := 4 }

/-- Frame 1 belongs to tenant 0, and its second block is poisoned. -/
def frameCard : State := { readyCard with mem := { readyCard.mem with frames := [(1, { alloc := true })], keySets := [(0, 15)], blocks := [(0x200040 / 64, { poison := true })] } }

/-- Tile 0 with all four DMAs. -/
def burstCard : State := tileCard frameCard { baseTile with dmas := [storeDma, loadDma, badDma, waitDma], counts := [(1, 1), (2, 1), (3, 1), (4, 1)] } 0

/-- Context 0 maps its first page by the leaf l. -/
def mapped (s : State) (l : W64) : State := { s with atu := { s.atu with ctxs := [(0, { valid := true, fabricEn := true })], cache := [⟨0, 0, 65536, l⟩] } }

/-- The first page lies in frame 1. -/
def localCode (w : Nat) : State := mapped (tileCard frameCard baseTile w) 0x20000F

/-- The transfer of its atomic. -/
def localXfer : Issued := ⟨0, 0, 0, 8, [(.loc 0x200000, 8)], 0⟩

/-- The first page lies on the bus. -/
def busCode (w : Nat) : State := mapped (tileCard readyCard baseTile w) 0x1F

/-- The transfer of its atomic. -/
def busXfer : Issued := ⟨0, 0, 0, 8, [(.bus 0 false 0, 8)], 0⟩

/-- An AtomicOp of tile 0 is under way. -/
def atomicCard : State := tileCard readyCard { baseTile with atomDest := some 3, atomXfer := busXfer } 0

/-- A SEND of one word; tile 1 is there and tile 200 is not. -/
def sendCode (w : Nat) : State := tileCard readyCard { baseTile with g := [(3, 200), (4, 1), (5, 1)] } w

/-- A SEND of one word to the aperture of channel 1 of tile 1. -/
def apertureCode (w : Nat) : State := mapped (tileCard readyCard { baseTile with g := [(4, 0x1100), (5, 1)] } w) 0x80F00000000F

/-- A SEND of one word to node 3. -/
def fabricCode (w : Nat) : State := mapped (tileCard { chanCard with tpe := { chanCard.tpe with conns := [(chanId 0 0 0 3, { st := 2 })] } } { baseTile with g := [(5, 1)] } w) 0x300000000002F

/-- A reply of 64 bytes. -/
def replyCode (w : Nat) : State := mapped (tileCard frameCard { baseTile with g := [(4, 0x1000), (5, 64)] } w) 0x20000F

/-- The same where the reply is too long. -/
def shortCode (w : Nat) : State := { replyCode w with tgd := { (replyCode w).tgd with invs := [(0, shortInv)] } }

/-- A message for channel 1 of tile 1. -/
def oneSend : TileSend := { id := 5, tag := 1, kind := 0, target := 1, ch := 1, words := [7] }

/-- It waits for space. -/
def enqueueCard : State := tileCard readyCard { baseTile with sends := [oneSend], counts := [(1, 1)] } 0

/-- The pc is beyond near memory. -/
def farCode : State := tileCard readyCard { baseTile with pc := 0x100000 } 0

/-- The word at the pc is poisoned. -/
def poisonCode : State := { codeCard 0 with mem := { (codeCard 0).mem with blocks := [(2 ^ 60 + tileBase / 8, { poison := true })] } }

/-- A COLLECTIVE of group 0 over 16,384 bytes, handed to Scarab. -/
def collEntry : Entry := { idx := 0, bytes := List.replicate 8 0 ++ [0x10, 0, 0, 0, 0, 0x40] ++ List.replicate 50 0, phase := 1, taken := true, running := true }

/-- The record of member n at level 0; this device is member 0. -/
def memberWord (n : Nat) : Nat := n * 2 ^ 32 + n + 0x200000 * 2 ^ 64

/-- Group 0 with its state G, two members and one landing frame. -/
def groupOf (G : ScbGroup) (w0 w2 : W64) : State := setReg (setReg { abiCard with queues := [(0, { st := 1, ring := 4, tail := 1, entries := [collEntry] })], mem := { abiCard.mem with frames := [(0, { alloc := true }), (1, { alloc := true, shared := true })], keySets := [(0, 15)] }, scb := { abiCard.scb with groups := [(0, G)] } } Reg.SCB_GENTw 0 w0) (Reg.SCB_GENTw + 16) 0 w2

/-- Its member list has not been read. -/
def groupCard : State := groupOf {} 0x10001 0x401

/-- Its member list. -/
def twoMembers : List Nat := [memberWord 0, memberWord 1]

/-- It has been read. -/
def readGroup : State := groupOf { members := some twoMembers } 0x10001 0x401

/-- It could not be read. -/
def badGroup : State := groupOf { members := some [] } 0x10001 0x401

/-- The collective runs. -/
def sendGroup : State := groupOf { members := some twoMembers, st := 1, inst := some 0 } 0x10001 0x401

/-- A chunk that was consumed before has come again. -/
def inboxCard : State := { readGroup with scb := { readGroup.scb with groups := [(0, { members := some twoMembers, peers := [(1, { consumed := 1 })] })], inbox := [(landBase readGroup 0 + inSlot readGroup 0 0 1 0, 64)] } }

/-- A release word has come. -/
def relCard : State := { readGroup with scb := { readGroup.scb with inbox := [(landBase readGroup 0 + relWord readGroup 0 0 1, 64)] } }

/-- Member 1 sends by multicast group 0. -/
def treeMembers : List Nat := [memberWord 0, memberWord 1 + 2 ^ 141]

/-- The collective runs with it. -/
def treeGroup : State := groupOf { members := some treeMembers, st := 1, inst := some 0 } 0x10001 0x401

/-- The second cell of a multicast chunk. -/
def mcPacket : Packet := { cell := { mc := true, opc := 0x0A, offset := 1, payload := [1] } }

/-- A group with its members at level 2, which sends MXFP8. -/
def topGroup : State := groupOf { members := some [0x200000 * 2 ^ 64, 2 ^ 48], st := 1, inst := some 0 } 0x100000001 0x4401

/-- The trailer of chunk 0 of its down pass, and its CRC. -/
def chunkTail : List Byte := List.replicate 6 0 ++ [6, 0, 0x45, 0, 0, 0, 1] ++ List.replicate 12 0 ++ [0x40] ++ List.replicate 30 0

/-- The chunk is zeros and that trailer. -/
def chunkBytes : List Byte := List.replicate 2112 0 ++ chunkTail ++ leBytes 8 (crc64 chunkTail).toNat

/-- It has come from member 1. -/
def downCard : State := setBytes { topGroup with scb := { topGroup.scb with inbox := [(landBase topGroup 0 + inSlot topGroup 0 2 1 0, 2176)] } } (landBase topGroup 0 + inSlot topGroup 0 2 1 0) chunkBytes

/-- An INVOKE message with no argument, admitted. -/
def invMsg : RecvMsg := { msn := 3, opc := 0x08, executed := true, covered := [0] }

/-- Its invocation on tile 159. -/
def invRec : Invocation := { kernel := 0, conn := 0, msn := 3, region := 0, argLen := 0, replyMax := 64, ch := 15, all := false, tiles := [159], live := [159] }

/-- Both. -/
def invCard : State := { qpCard { st := 2, recv := [invMsg] } with tgd := { upCard.tgd with tiles := [(159, { st := 2 })], invs := [(1, invRec)] } }

/-- Its record is at the head of channel 15. -/
def startTile : State := { invCard with tgd := { invCard.tgd with records := [(tileQ 159 15, 1)] }, sqm := { invCard.sqm with queues := [(tileQ 159 15, { words := [⟨1, 0⟩, ⟨2, 0⟩, ⟨3, 0⟩, ⟨4, 0⟩], cells := [⟨0, false⟩] })] } }

/-- Tile 0 runs, and two spares are left. -/
def runTile : State := { readyCard with tgd := { readyCard.tgd with tiles := [(0, baseTile)], invs := [(0, replyInv)], spares := [167, 41] } }

/-- An invocation whose tile has ended it. -/
def endRec : Invocation := { invRec with live := [], written := true, told := true }

/-- It is the only one. -/
def endCard : State := { readyCard with tgd := { readyCard.tgd with invs := [(1, endRec)] } }

/-- Tile 159 is REMAPPING, and no spare is left. -/
def remapTile : State := { upCard with tgd := { upCard.tgd with tiles := [(159, { st := 4, onSpare := true, site := 160 })] } }

/-- The PF has selected its VALID mailbox 0x2000. -/
def boxCard : State := setReg (setReg abiCard Reg.SQM_QCFG 0x2000 (w64 (2048 + 2 ^ 17))) Reg.SQM_QSEL 0 0x2000

/-- A peer-suspect window with one report. -/
def oneSuspect : Suspect := { queue := 0, tenant := 0, node := 4095, openAt := 0, count := 1, status := 0x0C, first := 5 }

/-- It is open, and a record is unread. -/
def suspectCard : State := { upCard with fev := { upCard.fev with windows := [oneSuspect], standby := [[1, 2]], unread := 1 } }

/-- The window has two reports. -/
def mergeCard : State := { suspectCard with fev := { suspectCard.fev with windows := [{ oneSuspect with count := 2 }] } }

/-- Cicada serves. -/
def cicCard : State := upCard

/-- A piece buffer has been idle. -/
def bufCard : State := { upCard with cic := { upCard.cic with buffers := [⟨1, 2047, 65536, []⟩] } }

/-- ACTIVATE asked for a reset now. -/
def nowCard : State := { upCard with boot := { upCard.boot with nowReset := true, healthOpen := true } }

/-- A healthy trial of slot 1. -/
def trialCard : State := { upCard with boot := { upCard.boot with trial := true, healthOpen := true, selftestOk := true, slot := 1 }, flash := { upCard.flash with slot1 := { state := 3, svn := 63 } } }

/-- A header whose eight parts are empty. -/
def emptyHeader : List Byte := List.replicate 152 0 ++ (List.replicate 8 (digestBytes (sha384 []) ++ List.replicate 16 0)).flatten

/-- Slot 1 is STAGED with it. -/
def stagedCard : State := { upCard with flash := { upCard.flash with slot1 := { state := 2, image := 9, npieces := 1, pieces := [(0, emptyHeader)] } } }

/-- The fleet service is not allowed. -/
def fleetCard : State := setReg upCard Reg.MGT_CIC_CFG 0 0

/-- A copy is unread and the card has its MCTP endpoint. -/
def alertCard : State := { suspectCard with pw := { suspectCard.pw with stby := true }, boot := { suspectCard.boot with firstClaim := some 7 } }

/-- A fatal report of Remora. -/
def fatalReport : Report := { cls := 0x07, sev := 3, unit := 13, code := 3 }

/-- Its record queue after its summary bit and its sequence number. -/
def fatalT : State := fevQMod (fevQMod upCard 0 (fun q => { q with summary := q.summary ||| BitVec.ofNat 20 (2 ^ 7) })) 0 (fun q => { q with rseq := 1 })

/-- Its record. -/
def fatalWords : List W64 := recordWords fatalT fatalReport 0 (fevC fatalT 0 7).held 1

/-- A chunk of four bytes is ready for the down pass. -/
def downGroup : State := groupOf { members := some twoMembers, st := 1, inst := some 0, have_ := [⟨0, [1, 2, 3, 4], false⟩] } 0x10001 0x401

/-- Management session 3 has negotiated. -/
def spdmCard : State := { upCard with rsp := { upCard.rsp with requesters := [(259, { phase := 3 })] } }

/-- The same in RMA. -/
def rmaCard : State := { spdmCard with fuses := { spdmCard.fuses with lifecycle := 2 } }

/-- A session after FINISH. -/
def openedSession : Session := { id := 7, established := true }

/-- A session before FINISH. -/
def finishCard : State := { upCard with rsp := { upCard.rsp with requesters := [(259, { phase := 3, session := some { openedSession with established := false } })] } }

/-- Two open sessions of management. -/
def sessionCard : State := { upCard with rsp := { upCard.rsp with requesters := [(256, { phase := 3, session := some openedSession }), (259, { phase := 3, session := some openedSession })] } }

/-- A secured message of service 255. -/
def vendorCard : State := { upCard with rsp := { upCard.rsp with requesters := [(255, { phase := 3, session := some openedSession })], boxes := [(255, { busy := true, msg := some (1, 0, []) })] } }

/-- A command of tenant 252 waits in its session. -/
def cmdCard (T : Tenant) (code : Nat) (p : List Byte) : State := setReg { vfCard with tenants := [(252, T)], rsp := { vfCard.rsp with requesters := [(252, { phase := 3, session := some openedSession })], boxes := [(252, { busy := true, msg := some (1, 0, []), cmd := some (code, p) })] } } Reg.RSP_TKEYQ 252 8

/-- KEY_LOAD. -/
def loadCard : State := cmdCard { st := 1 } 1 (List.replicate 32 7)

/-- KEY_GEN. -/
def genCard : State := cmdCard { st := 1 } 2 []

/-- KEY_DESTROY of slot 1023. -/
def destroyCard : State := { cmdCard { st := 1 } 3 [0xFF, 3, 0, 0] with cph := { upCard.cph with slots := [(1023, { st := 1, owner := 252 })] } }

/-- One bounce range of 64 KiB at 0. -/
def bouncePayload : List Byte := List.replicate 10 0 ++ [1] ++ List.replicate 5 0

/-- SEAL_ENABLE. -/
def sealCard : State := cmdCard { st := 1 } 4 bouncePayload

/-- SEAL_REKEY. -/
def rekeyCard : State := cmdCard { st := 1, mode := 1, bound := some 7 } 5 []

/-- A report request. -/
def reportCard : State := { vfCard with tenants := [(252, { st := 1 })], rsp := { vfCard.rsp with boxes := [(252, { busy := true, msg := some (2, 9, List.replicate 128 0) })] } }

/-- A doorbell whose message has not come, without entropy. -/
def busyCard : State := { upCard with rsp := { upCard.rsp with entropyOk := false, boxes := [(0, { busy := true })] } }

/-- A reply waits for room. -/
def fullBox : State := { upCard with rsp := { upCard.rsp with boxes := [(0, { busy := true, outWords := [1] })] } }

/-- Stalled work that is ready. -/
def readyWork : State := { State.reset with atu := { State.reset.atu with ready := [.laneLater 0] } }

/-- The PF holds the low half of WQM_QRING. -/
def lowCard : State := { upCard with fns := [(0, { held := some (Reg.WQM_QRING, 7) })] }

/-- Group 0 runs, and Cicada reads its buffer. -/
def timeoutCard : State := { upCard with scb := { upCard.scb with groups := [(0, { st := 1 })] }, cic := { upCard.cic with hostBusy := true } }

/-- A card without tiles. -/
def noTiles : State := { upCard with variant := .tcn9404 }

/-! ### No word spells a command (the table gives no bits). -/

theorem test_no_word_decodes : decodeTableWord 64 0 = none ∧ decodeTableWord 0 7 = none := by decide

/-! ### Reset, and single commands -/

theorem test_reset_standby : State.reset.boot.stage = .standby ∧ State.reset.pw.stby = true ∧ State.reset.pending = [] := by decide

/-- The next state of an outcome. -/
def after (o : Host.Outcome State Fault Refusal) : State := match o with | .next u => u | _ => State.reset

/-- CRC-32 of "123456789", the check value of the Ethernet CRC. -/
theorem test_crc32_check : crc32 [0x31, 0x32, 0x33, 0x34, 0x35, 0x36, 0x37, 0x38, 0x39] = 0xCBF43926 := by decide +kernel

/-- CRC-64 of "123456789", the check value of ECMA-182. -/
theorem test_crc64_check : crc64 [0x31, 0x32, 0x33, 0x34, 0x35, 0x36, 0x37, 0x38, 0x39] = 0x6C40DF5F0B497347 := by decide +kernel

/-- SHA-384 of "abc", the example of FIPS 180-4. -/
theorem test_sha384_abc : sha384 [0x61, 0x62, 0x63] =
    0xCB00753F45A35E8BB5A03D699AC65007272C32AB0EDED1631A8B605A43FF5BED8086072BA1E7CC2358BAECA134C825A7 := by decide +kernel

/-- R348: DIVU by 0 gives all ones. -/
theorem test_divu_by_zero : gReg (tile (after (exec (.tDivu 0) (codeCard 0x1E008C0000000000))) 0) 1 = 0xFFFFFFFFFFFFFFFF := by decide +kernel

/-- R343: g0 discards writes, and pc moves on by 8. -/
theorem test_g0_discards : gReg (tile (after (exec (.tMovi 0) (codeCard 0x3000000000000005))) 0) 0 = 0 ∧
    (tile (after (exec (.tMovi 0) (codeCard 0x3000000000000005))) 0).pc = 8 := by decide +kernel

/-- Table 14-3: MOVI sign-extends its immediate. -/
theorem test_movi_extends : gReg (tile (after (exec (.tMovi 0) (codeCard 0x30008000FFFFFFFE))) 0) 1 = 0xFFFFFFFFFFFFFFFE := by decide +kernel

/-- R5: a store is little-endian, and g4 holds 0x1000. -/
theorem test_st32_little_endian : memBytes (after (exec (.tSt32 0) (codeCard 0x4702080000000040))) (tileAddr 0 0x40) 5 = [0x00, 0x10, 0, 0, 0] := by
  decide +kernel

/-- R345: a reserved opcode stops the tile, whatever command issues it; the tile is IDLE. -/
theorem test_reserved_opcode_traps : (tile (after (exec (.tNop 0) (codeCard 0xFF00000000000000))) 0).st = 2 := by decide +kernel

/-- R79: a doorbell with the tail leaves it for WQM to take. -/
theorem test_doorbell_holds_tail : (queue (after (exec (.doorbell 0 0 0 4 3) queueCard)) 0).db = some 3 := by decide +kernel

/-- R233: node 0x888 is 24 hops from node 0. -/
theorem test_farthest_node : hopsLeft State.reset 0x888 0 + hopsLeft State.reset 0x888 1 + hopsLeft State.reset 0x888 2 = 24 := by decide +kernel

/-! ### Every check of WellFormed refuses an ill-formed command and admits one at the edge of its range. -/

theorem test_refuses_function : WellFormed.wellFormed (.txnBegin 253) = false ∧ WellFormed.wellFormed (.txnBegin 252) = true := by decide

theorem test_refuses_vf : WellFormed.wellFormed (.vfFlr 0) = false ∧ WellFormed.wellFormed (.vfFlr 252) = true := by decide

theorem test_refuses_queue : WellFormed.wellFormed (.queueIrqTimer 131072) = false ∧ WellFormed.wellFormed (.queueIrqTimer 131071) = true := by decide

theorem test_refuses_local_queue : WellFormed.wellFormed (.doorbell 0 131072 0 4 0) = false ∧ WellFormed.wellFormed (.doorbell 0 131071 0 4 0) = true := by decide

theorem test_refuses_index : WellFormed.wellFormed (.entryStart 0 (2 ^ 32)) = false ∧ WellFormed.wellFormed (.entryStart 0 (2 ^ 32 - 1)) = true := by decide

theorem test_refuses_tile : WellFormed.wellFormed (.tNop 160) = false ∧ WellFormed.wellFormed (.tNop 159) = true := by decide

theorem test_refuses_channel : WellFormed.wellFormed (.tileStart 0 16) = false ∧ WellFormed.wellFormed (.tileStart 0 15) = true := by decide

theorem test_refuses_handle : WellFormed.wellFormed (.invocationEnd (2 ^ 14)) = false ∧ WellFormed.wellFormed (.invocationEnd (2 ^ 14 - 1)) = true := by decide

theorem test_refuses_link : WellFormed.wellFormed (.linkEnable 12) = false ∧ WellFormed.wellFormed (.linkEnable 11) = true := by decide

theorem test_refuses_node : WellFormed.wellFormed (.noticeSuppressionExpiry 4096) = false ∧ WellFormed.wellFormed (.noticeSuppressionExpiry 4095) = true := by decide

theorem test_refuses_lane : WellFormed.wellFormed (.laneRecal 38) = false ∧ WellFormed.wellFormed (.laneRecal 37) = true := by decide

theorem test_refuses_position : WellFormed.wellFormed (.rotReq 0 5) = false ∧ WellFormed.wellFormed (.rotReq 0 4) = true := by decide

theorem test_refuses_marker : WellFormed.wellFormed (.laneMatch 0 65536) = false ∧ WellFormed.wellFormed (.laneMatch 0 65535) = true := by decide

theorem test_refuses_cage : WellFormed.wellFormed (.moduleRemove 2) = false ∧ WellFormed.wellFormed (.moduleRemove 1) = true := by decide

theorem test_refuses_data_port : WellFormed.wellFormed (.dataPortCommit 8 0) = false ∧ WellFormed.wellFormed (.dataPortCommit 7 0) = true := by decide

theorem test_refuses_ethernet_port : WellFormed.wellFormed (.portUp 0 0) = false ∧ WellFormed.wellFormed (.portUp 4 0) = true := by decide

theorem test_refuses_priority : WellFormed.wellFormed (.pfcPauseExpiry 1 8) = false ∧ WellFormed.wellFormed (.pfcPauseExpiry 1 7) = true := by decide

theorem test_refuses_egress : WellFormed.wellFormed (.schedulerPick 5) = false ∧ WellFormed.wellFormed (.schedulerPick 4) = true := by decide

theorem test_refuses_path : WellFormed.wellFormed (.grantIssue 5) = false ∧ WellFormed.wellFormed (.grantIssue 4) = true := by decide

theorem test_refuses_quadrant : WellFormed.wellFormed (.securityLinkLoss 4) = false ∧ WellFormed.wellFormed (.securityLinkLoss 3) = true := by decide

theorem test_refuses_controller : WellFormed.wellFormed (.retirementCopyDone 24 none) = false ∧ WellFormed.wellFormed (.retirementCopyDone 23 none) = true := by decide

theorem test_refuses_tenant : WellFormed.wellFormed (.drainBound 256) = false ∧ WellFormed.wellFormed (.drainBound 255) = true := by decide

theorem test_refuses_requester : WellFormed.wellFormed (.heartbeatExpiry 260) = false ∧ WellFormed.wellFormed (.heartbeatExpiry 259) = true := by decide

theorem test_refuses_context : WellFormed.wellFormed (.tableWalkComplete 65536 0 none) = false ∧ WellFormed.wellFormed (.tableWalkComplete 65535 0 none) = true := by decide

theorem test_refuses_vector : WellFormed.wellFormed (.msixUnmask 0 2048) = false ∧ WellFormed.wellFormed (.msixUnmask 0 2047) = true := by decide

theorem test_refuses_key_slot : WellFormed.wellFormed (.keySlotDestroy 1024) = false ∧ WellFormed.wellFormed (.keySlotDestroy 1023) = true := by decide

theorem test_refuses_pipe : WellFormed.wellFormed (.cipherPipeFailure 32) = false ∧ WellFormed.wellFormed (.cipherPipeFailure 31) = true := by decide

theorem test_refuses_core : WellFormed.wellFormed (.transportCoreFailure 32) = false ∧ WellFormed.wellFormed (.transportCoreFailure 31) = true := by decide

theorem test_refuses_group : WellFormed.wellFormed (.collectiveTimeout 4096) = false ∧ WellFormed.wellFormed (.collectiveTimeout 4095) = true := by decide

theorem test_refuses_level : WellFormed.wellFormed (.repairTimeout 0 3 0) = false ∧ WellFormed.wellFormed (.repairTimeout 0 2 0) = true := by decide

theorem test_refuses_block : WellFormed.wellFormed (.blockApply 16) = false ∧ WellFormed.wellFormed (.blockApply 15) = true := by decide

theorem test_refuses_width : WellFormed.wellFormed (.doorbell 0 0 0 2 0) = false ∧ WellFormed.wellFormed (.doorbell 0 0 0 8 0) = true := by decide

theorem test_refuses_token_width : WellFormed.wellFormed (.txnRollback 0 (2 ^ 32)) = false ∧ WellFormed.wellFormed (.txnRollback 0 (2 ^ 32 - 1)) = true := by decide

theorem test_refuses_cell : WellFormed.wellFormed (.routerPass 0 { dnode := 4096 }) = false ∧ WellFormed.wellFormed (.routerPass 0 { dnode := 4095 }) = true := by decide

theorem test_refuses_packet : WellFormed.wellFormed (.ackReceive { chan := true, cell := { tc := 16 } }) = false ∧ WellFormed.wellFormed (.ackReceive { chan := true, cell := { tc := 15 } }) = true := by decide

/-! ### The hypotheses of the statements are met, clause by clause -/

/-- Hypotheses of `Obligations.PowerPinEvents` that are met. -/
theorem met_power_pin_events :
    offCard.pw.stby = false ∧
    State.reset.pw.stby = true ∧
    upCard.pw.mainOn = true ∧
    upCard.pw.mainOn = true ∧
    heldCard.pw.mainOn = true ∧ heldCard.pw.perst = true := by
  and_intros <;> decide +kernel

/-- Hypotheses of `Obligations.PowerAndTemperature` that are met. -/
theorem met_power_and_temperature :
    hotCard.pw.samples ≠ 0 ∧ powerCap hotCard < hotCard.pw.sumW / hotCard.pw.samples ∧ fld (reg hotCard Reg.MGT_THERM 0) 7 0 < 100 ∧
    900 < hotCard.pw.tileMhz ∧
    slowCard.pw.samples ≠ 0 ∧ powerCap slowCard < slowCard.pw.sumW / slowCard.pw.samples ∧ fld (reg slowCard Reg.MGT_THERM 0) 7 0 < 100 ∧
    slowCard.pw.tileMhz ≤ 900 ∧
    stage2Card.pw.stage2 = true ∧ powerCap stage2Card < stage2Card.pw.avgW ∧
    State.reset.pw.avgW * 100 < 97 * powerCap State.reset ∧ State.reset.pw.hold = false ∧
    110 ≤ max (max 110 1) (max 2 3) ∧ upCard.pw.mainOn = true ∧
    100 ≤ max (max 0 1) (max 2 109) ∧ max (max 0 1) (max 2 109) < 110 ∧ 900 < upCard.pw.tileMhz ∧
    max (max 95 1) (max 2 3) ≤ 95 ∧
    warmCard.pw.mainOn = true ∧ 55 < fld (reg warmCard Reg.MGT_THERM 0) 15 8 ∧
    upCard.pw.mainOn = true ∧
    upCard.pw.mainOn = true ∧ upCard.pw.stby = true ∧
    darkCard.pw.stby = false ∧
    upCard.pw.stby = true ∧
    upCard.pw.stby = true ∧ upCard.pw.shutdownCause = 0 ∧ upCard.fev.unread = 0 := by
  and_intros <;> decide +kernel

/-- Hypotheses of `Obligations.ElectionAndPrimary` that are met. -/
theorem met_election_and_primary :
    State.reset.boot.firstClaim = none ∧ State.reset.pw.stby = true ∧
    State.reset.boot.dead = false ∧ State.reset.pw.stby = true ∧ 30000000 ≤ 30000000 ∧ 3 < 4 ∧ State.reset.boot.firstClaim = none ∧
    mgtCard.boot.dead = false ∧ mgtCard.pw.stby = true ∧ 30000000 ≤ 30000000 ∧ 0 < 4 ∧ mgtCard.boot.firstClaim = some 7 := by
  and_intros <;> decide +kernel

/-- Hypotheses of `Obligations.BootStagesAndControl` that are met. -/
theorem met_boot_stages_and_control :
    mgtCard.boot.dead = false ∧ mgtCard.pw.stby = true ∧ mgtCard.pw.v48 = true ∧ mgtCard.pw.mainOn = false ∧ mgtCard.boot.firstClaim ≠ none ∧
    mainCard.pw.mainOn = true ∧ mainCard.pw.perst = false ∧ mainCard.boot.minimal = false ∧ mainCard.boot.stage = .main ∧
    ([] : List Nat).filter (ctrlPresent mainCard.variant) = [] ∧
    mainCard.pw.mainOn = true ∧ mainCard.pw.perst = false ∧ mainCard.boot.minimal = false ∧ mainCard.boot.stage = .main ∧
    [0].filter (ctrlPresent mainCard.variant) ≠ [] ∧
    unitsCard.boot.stage = .units ∧
    unitsCard.boot.stage = .units ∧ (true && false) = false ∧
    mainCard.boot.stage = .main ∨ mainCard.boot.stage = .memory ∨ mainCard.boot.stage = .units ∧
    minimalCard.boot.minimal = true ∧ minimalCard.boot.scrubbed = true := by
  and_intros <;> decide +kernel

/-- Hypotheses of `Obligations.MemoryRequests` that are met. -/
theorem met_memory_requests :
    heldBy ramCard 0x1FFFFF = none ∧ ownedRange ramCard 0 0x1FFFFF ([5] : List Byte).length = true ∧
    (unitsOfRange ramCard 0x1FFFFF ([5] : List Byte).length).any (blockFailed ramCard) = false ∧
    (blocksOf 0x1FFFFF ([5] : List Byte).length).any (otherSet ramCard) = false ∧
    heldBy ramCard 0x1FFFFF = none ∧ ownedRange ramCard 0 0x1FFFFF ([5] : List Byte).length = true ∧
    (unitsOfRange ramCard 0x1FFFFF ([5] : List Byte).length).any (blockFailed ramCard) = false ∧
    heldBy ramCard 0x200000 = none ∧ ownedRange ramCard 0 0x200000 ([5] : List Byte).length = false ∧
    heldBy ramCard 0 = none ∧ ownedRange ramCard 0 0 1 = true ∧ memRead (applyFinding ramCard 0 .clean) 0 0 1 = (ramCard, .ok [0]) ∧
    heldBy badRam 0 = none ∧ ownedRange badRam 0 0 1 = true ∧ memRead (applyFinding badRam 0 .clean) 0 0 1 = (badRam, .poison [0] [(0, 1)]) ∧
    (ctrl retireCard 23).retiring = some 9 ∧
    wbit (reg ramCard Reg.MEM_PATROL_CFG 0) 8 = false ∧ controllerOf ramCard 64 = some 0 ∧ (frame ramCard (frameOf 64)).scrub = false ∧
    (frame ramCard (frameOf 64)).alloc = true ∧
    (ctrl ramCard 0).state = 2 ∧
    (ctrl retireCard 0).retraining = true ∧
    memCard.boot.stage = .memory ∧ memCard.boot.minimal = false ∧ 32 ≤ 32 ∧
    minimalCard.boot.minimal = true := by
  and_intros <;> decide +kernel

/-- Hypotheses of `Obligations.FunctionsAndVectors` that are met. -/
theorem met_functions_and_vectors :
    hostUp upCard = true ∧ upCard.hif.vfEnable = false ∧ 252 ≤ 252 ∧
    hostUp upCard = true ∧ upCard.boot.minimal = false ∧
    hostUp vfCard = true ∧ vfCard.hif.vfEnable = true ∧
    hostUp vfCard = true ∧ fnExists vfCard 252 = true ∧ 252 ≠ 0 ∧
    hostUp upCard = true ∧
    hostUp vecCard = true ∧ fnExists vecCard 0 = true ∧ 511 < vecCard.hif.pfVec ∧ (vector vecCard 0 511).pending = true ∧
    hostUp upCard = true ∧ fnExists upCard 0 = true ∧ 0 < upCard.hif.pfVec ∧ (vector upCard 0 0).pending = false ∧
    blockUp (dropHeld runCard 0) 0 = true ∧
    (dropHeld runCard 0).queues.any (fun e => decide (queueOwner (dropHeld runCard 0) e.1 = 0 ∧ e.2.st ≠ 0)) = false := by
  and_intros <;> decide +kernel

/-- Hypotheses of `Obligations.WindowAndDataPorts` that are met. -/
theorem met_window_and_data_ports :
    hostUp upCard = true ∧ fnExists upCard 0 = true ∧ 0 + ([] : List Byte).length ≤ windowSize upCard 0 ∧
    hostUp upCard = true ∧ fnExists upCard 0 = true ∧ 4 + 60 ≤ windowSize upCard 0 ∧
    hostUp upCard = true ∧ fnExists upCard 0 = true ∧ 4 + 60 ≤ windowSize upCard 0 ∧ bound upCard 0 (reg upCard Reg.HIF_WIN_CTX 0) = false ∧
    hostUp (dropHeld upCard 0) = true ∧ fnExists (dropHeld upCard 0) 0 = true ∧ ctxOwner (dropHeld upCard 0) (fld (0x1FFFF : W64) 15 0) = 0 ∧
    hostUp upCard = true ∧ 7 < 8 ∧ 2 ^ 20 + ([] : List Byte).length ≤ 2 ^ 20 ∧
    hostUp portCard = true ∧ 7 < 8 ∧ 2 ^ 20 - 1 + 1 ≤ 2 ^ 20 ∧ bound portCard 0 (reg portCard Reg.HIF_DPn_CTX 7) = true ∧
    prefetched (Machine.port portCard 7) 8 1 = none ∧
    hostUp portCard = true ∧ 7 < 8 ∧ 0 + 1 ≤ 2 ^ 20 ∧ bound portCard 0 (reg portCard Reg.HIF_DPn_CTX 7) = true ∧
    prefetched (Machine.port portCard 7) 0 1 = some [5] ∧
    hostUp (dropHeld upCard 0) = true ∧ 7 < 8 ∧ ctxOwner (portEmpty (dropHeld upCard 0) 7) (fld (0x1FFFF : W64) 15 0) = 0 ∧
    (Machine.port portCard 7).epoch = 0 ∧ bound portCard 0 (reg portCard Reg.HIF_DPn_CTX 7) = true ∧
    0 + 0 ≤ (Machine.port portCard 7).fetched ∧
    (xlateAll portCard (fld (reg portCard Reg.HIF_DPn_CTX 7) 15 0) (regN portCard Reg.HIF_DPn_ADDR 7 + 0) 0 { rd := true }).2 = .ok [] ∧
    (readPieces portCard 0 [] none).2 = .ok [] := by
  and_intros <;> decide +kernel

/-- Hypotheses of `Obligations.DataPortCommitAdds` that are met. -/
theorem met_data_port_commit_adds :
    hostUp (dropHeld upCard 0) = true ∧ 7 < 8 ∧ 64 ≤ fld (0x100000 : W64) 20 0 ∧ fld (0x100000 : W64) 20 0 ≤ 1048576 ∧
    fld (0x100000 : W64) 20 0 % 64 = 0 ∧
    hostUp (dropHeld upCard 0) = true ∧ 7 < 8 ∧ (fld (0 : W64) 20 0 < 64 ∨ 1048576 < fld (0 : W64) 20 0 ∨ fld (0 : W64) 20 0 % 64 ≠ 0) ∧
    hostUp upCard = true ∧ 7 < 8 ∧ 2 ^ 20 + ([] : List Byte).length ≤ 2 ^ 20 ∧
    hostUp upCard = true ∧ 7 < 8 ∧ 2 ^ 20 - 1 + 1 ≤ 2 ^ 20 ∧ (Machine.port upCard 7).prefetch = [] ∧ 0 < 1 := by
  and_intros <;> decide +kernel

/-- Hypotheses of `Obligations.DoorbellsRingsAndHeads` that are met. -/
theorem met_doorbells_rings_and_heads :
    hostUp queueCard = true ∧ fnExists queueCard 0 = true ∧ 0 = 0 ∧ (4 = 4 ∨ 4 = 8) ∧ queueOf queueCard 0 0 = some 0 ∧
    queueTakes queueCard 0 (some 0) = true ∧
    hostUp upCard = true ∧ fnExists upCard 0 = true ∧ 0 = 0 ∧ (8 = 4 ∨ 8 = 8) ∧ queueTakes upCard 0 (queueOf upCard 0 65535) = false ∧
    hostUp queueCard = true ∧ fnExists queueCard 0 = true ∧ 0 < 65536 ∧ queueOf queueCard 0 0 = some 0 ∧
    queueTakes queueCard 0 (some 0) = true ∧
    (queue waitCard 0).inlineWait = some [] ∧ (queue waitCard 0).tail - (queue waitCard 0).hd < ringSize (queue waitCard 0) ∧
    (queue bellCard 0).st = 1 ∧ nextDoorbell bellCard = some 0 ∧
    (queue readCard 0).reads.find? (fun r => r.idx = 0) = some { idx := 0, count := 1, xfer := ⟨0, 0, 0, 64, [(.bus 0 false 0, 64)], 0⟩ } ∧
    (64 : Nat) ≠ 0 ∧
    (finishRead readCard (queueOwner readCard 0) ⟨0, 0, 0, 64, [(.bus 0 false 0, 64)], 0⟩ (some [])).2 = .ok (List.replicate 64 0) ∧
    (queue (finishRead readCard (queueOwner readCard 0) ⟨0, 0, 0, 64, [(.bus 0 false 0, 64)], 0⟩ (some [])).1 0).st = 1 ∧
    ((queue readCard 0).st = 1 ∨ (queue readCard 0).st = 2) ∧ (queue readCard 0).refetch.any (fun r => r.idx = 1 ∧ r.tries < 8) = true ∧
    (queue readCard 0).reads.any (fun r => r.idx = 1) = false ∧
    (queue waitCard 0).headBusy = true ∧
    firstFinished (queue irqCard 0).finishedAt = some (0, 5) ∧ nbit (queue irqCard 0).ctl 3 = true ∧ nfld (queue irqCard 0).mod 23 8 ≠ 0 ∧
    0 < (queue irqCard 0).published ∧ (queue irqCard 0).announced < (queue irqCard 0).published := by
  and_intros <;> decide +kernel

/-- Hypotheses of `Obligations.QueueRegisters` that are met. -/
theorem met_queue_registers :
    blockUp (dropHeld runCard 0) 0 = true ∧
    blockUp (dropHeld offQueue 0) 0 = true ∧ wbit (1 : W64) 0 = true ∧ wbit (1 : W64) 2 = false ∧
    selQueue (dropHeld offQueue 0) 0 = some 0 ∧ (queue offQueue 0).st = 0 ∧ (fnGet offQueue 0).abi ≠ 0 ∧
    (fnGet offQueue 0).teardown = false ∧ 4 ≤ fld (queue offQueue 0).ring 4 0 ∧ fld (queue offQueue 0).ring 4 0 ≤ 16 ∧
    ((bindType (queue offQueue 0) = 0 ∧ isRecvQ (queue offQueue 0) = false) ∨ (bindType (queue offQueue 0) = 1 ∧ owner offQueue 0x03 (bindId (queue offQueue 0)) = 0) ∨ (bindType (queue offQueue 0) = 2 ∧ owner offQueue 0x04 (bindId (queue offQueue 0)) = 0)) ∧
    nfld (fld (1 : W64) 31 0) 28 18 < vecCount offQueue 0 ∧
    blockUp (dropHeld errQueue 0) 0 = true ∧ wbit (0 : W64) 0 = false ∧ wbit (0 : W64) 2 = false ∧
    selQueue (dropHeld errQueue 0) 0 = some 0 ∧ (queue errQueue 0).st = 3 ∧ (queue errQueue 0).headBusy = false ∧
    (queue errQueue 0).entries = [] ∧
    blockUp (dropHeld queueCard 0) 0 = true ∧ wbit (0 : W64) 0 = false ∧
    blockUp (dropHeld drainQueue 0) 0 = true ∧ wbit (5 : W64) 0 = true ∧ wbit (5 : W64) 2 = true ∧
    selQueue (dropHeld drainQueue 0) 0 = some 0 ∧ (queue drainQueue 0).st = 2 ∧ (queue drainQueue 0).entries = [] ∧
    (queue drainQueue 0).hd = (queue drainQueue 0).tail ∧ (queue drainQueue 0).published = (queue drainQueue 0).hd ∧
    (queue drainQueue 0).headBusy = false ∧ (queue drainQueue 0).inlineWait = none ∧
    blockUp (dropHeld queueCard 0) 0 = true ∧ wbit (4 : W64) 2 = true ∧
    blockUp (dropHeld offQueue 0) 0 = true ∧ selQueue (dropHeld offQueue 0) 0 = some 0 ∧ (queue offQueue 0).st = 0 ∧
    blockUp (dropHeld queueCard 0) 0 = true ∧ selQueue (dropHeld queueCard 0) 0 = some 0 ∧ (queue queueCard 0).st ≠ 0 ∧
    isQueueCfg Reg.WQM_QMOD = true ∧ Reg.WQM_QMOD ≠ Reg.WQM_QCTL := by
  and_intros <;> decide +kernel

/-- Hypotheses of `Obligations.EntriesStartAndFinish` that are met. -/
theorem met_entries_start_and_finish :
    entry startCard 0 0 = some localEntry ∧ localEntry.phase = 0 ∧ ((queue startCard 0).st = 1 ∨ (queue startCard 0).st = 2) ∧
    mayStart (queue startCard 0) localEntry = true ∧ isRemote (opcode localEntry) = false ∧ opcode localEntry ≠ 0x20 ∧
    entry startCard 1 0 = some writeEntry ∧ writeEntry.phase = 0 ∧ ((queue startCard 1).st = 1 ∨ (queue startCard 1).st = 2) ∧
    mayStart (queue startCard 1) writeEntry = true ∧ isRemote (opcode writeEntry) = true ∧
    connWaits (conn startCard (verbConn startCard 1 writeEntry)) = false ∧ opcode writeEntry ≠ 0x20 ∧
    entry startCard 2 0 = some indirectEntry ∧ indirectEntry.tblRead = some ⟨0, 0, 0, 16, [(.bus 0 false 0, 16)], 0⟩ ∧
    (finishRead startCard (queueOwner startCard 2) ⟨0, 0, 0, 16, [(.bus 0 false 0, 16)], 0⟩ (some [])).2 = .ok (List.replicate 16 0) ∧
    entry startCard 3 0 = some doneEntry ∧ doneEntry.phase = 2 ∧ doneEntry.flushes = 0 ∧ doneEntry.leaves = [] ∧
    entry startCard 4 0 = some peerEntry ∧ peerEntry.phase = 2 ∧ peerEntry.flushes = 0 ∧ peerEntry.leaves ≠ [] ∧
    nbit (queue startCard 4).ctl 1 = true ∧ peerEntry.flushed = false ∧
    entry startCard 0 0 = some localEntry ∧ localEntry.phase = 0 ∧ ((queue startCard 0).st = 1 ∨ (queue startCard 0).st = 2) ∧
    mayStart (queue startCard 0) localEntry = true ∧ opcode localEntry ≠ 0x20 ∧ waitsConn startCard 0 localEntry = false ∧
    flag localEntry 10 = false ∧ formBad startCard 0 localEntry = false ∧ unitBad startCard localEntry = false ∧
    lengthBad startCard 0 localEntry = none ∧ protectionBad startCard 0 localEntry = false ∧ isStale startCard localEntry = false ∧
    routeBad startCard 0 localEntry = none ∧
    entry startCard 5 0 = some scatterEntry ∧ scatterEntry.tblRead = some ⟨0, 0, 0, 16, [(.bus 0 false 0, 16)], 0⟩ ∧
    scatterEntry.phase = 1 ∧ scatterEntry.taken = false ∧
    (finishRead startCard (queueOwner startCard 5) ⟨0, 0, 0, 16, [(.bus 0 false 0, 16)], 0⟩ (some [])).2 = .ok (List.replicate 16 0) ∧
    (parseFrags (elen scatterEntry) (List.replicate 16 0)).foldl (fun n f => n + f.len) 0 ≤ 2 ^ 30 ∧
    (checkFrags scatterCard 0 0 true { wr := true } 0 (parseFrags (elen scatterEntry) (List.replicate 16 0))).2 = (.ok, 0) ∧
    isRemote (opcode scatterEntry) = false ∧
    (fragRegions (parseFrags (elen scatterEntry) (List.replicate 16 0))).all (regionRoom scatterCard) = true ∧
    entry startCard 6 1 = some laterEntry ∧ laterEntry.phase = 2 ∧ laterEntry.flushes = 0 ∧ laterEntry.leaves = [] ∧ laterEntry.held = [] ∧
    (queue startCard 6).st = 1 ∧ (writeBack startCard 6 laterEntry (entryWrites (queue startCard 6) laterEntry)).2 = .ok [] ∧
    1 ≠ (queue startCard 6).hd ∧ (queue startCard 6).entries.any (fun x => x.idx = (queue startCard 6).hd ∧ x.phase = 3) = false ∧
    (queue startCard 6).published = (queue startCard 6).hd ∧ fetchEnd (queue startCard 6) ≤ (queue startCard 6).fetch := by
  and_intros <;> decide +kernel

/-- Hypotheses of `Obligations.RemoteVerbsPost` that are met. -/
theorem met_remote_verbs_post :
    readyVerb sendCard 1 0 0x01 = some (readyEntry 1) ∧ (conn sendCard (verbConn sendCard 1 (readyEntry 1))).st = 2 ∧
    (conn sendCard (verbConn sendCard 1 (readyEntry 1))).send.length < 4096 ∧
    (queue sendCard 1).entries.any (unposted sendCard 1 (readyEntry 1)) = false ∧
    readyVerb sendCard 2 0 0x02 = some (readyEntry 2) ∧ (conn sendCard (verbConn sendCard 2 (readyEntry 2))).st = 2 ∧
    (conn sendCard (verbConn sendCard 2 (readyEntry 2))).send.length < 4096 ∧
    (queue sendCard 2).entries.any (unposted sendCard 2 (readyEntry 2)) = false ∧
    queueRaw sendCard 3 = none ∧ readyVerb sendCard 3 0 0x03 = some (readyEntry 3) ∧
    (conn sendCard (verbConn sendCard 3 (readyEntry 3))).st = 2 ∧ (conn sendCard (verbConn sendCard 3 (readyEntry 3))).send.length < 4096 ∧
    (queue sendCard 3).entries.any (unposted sendCard 3 (readyEntry 3)) = false ∧
    readyVerb sendCard 4 0 0x04 = some (readyEntry 4) ∧ (conn sendCard (verbConn sendCard 4 (readyEntry 4))).st = 2 ∧
    (conn sendCard (verbConn sendCard 4 (readyEntry 4))).send.length < 4096 ∧
    (queue sendCard 4).entries.any (unposted sendCard 4 (readyEntry 4)) = false ∧
    readyVerb sendCard 5 0 0x05 = some (readyEntry 5) ∧ (conn sendCard (verbConn sendCard 5 (readyEntry 5))).st = 2 ∧
    (conn sendCard (verbConn sendCard 5 (readyEntry 5))).send.length < 4096 ∧
    (queue sendCard 5).entries.any (unposted sendCard 5 (readyEntry 5)) = false ∧
    readyVerb sendCard 6 0 0x06 = some (readyEntry 6) ∧ (conn sendCard (verbConn sendCard 6 (readyEntry 6))).st = 2 ∧
    (conn sendCard (verbConn sendCard 6 (readyEntry 6))).send.length < 4096 ∧
    (queue sendCard 6).entries.any (unposted sendCard 6 (readyEntry 6)) = false ∧
    readyVerb sendCard 7 0 0x07 = some (readyEntry 7) ∧ (conn sendCard (verbConn sendCard 7 (readyEntry 7))).st = 2 ∧
    (conn sendCard (verbConn sendCard 7 (readyEntry 7))).send.length < 4096 ∧
    (queue sendCard 7).entries.any (unposted sendCard 7 (readyEntry 7)) = false ∧
    queueRaw rawCard 3 = some (1, 0) ∧ readyVerb rawCard 3 0 0x03 = some (readyEntry 3) ∧
    entry invokeCard 7 0 = some runningInvoke ∧ opcode runningInvoke = 0x07 ∧ runningInvoke.running = true ∧
    (conn invokeCard runningInvoke.conn).send.find? (fun m => decide (m.by_ = .entry 7 0) && m.acked) = some { msn := 5, opc := 8, by_ := .entry 7 0, acked := true } := by
  and_intros <;> decide +kernel

/-- Hypotheses of `Obligations.LocalVerbs` that are met. -/
theorem met_local_verbs :
    readyVerb localCard 0 0 0x10 = some (readyEntry 0x10) ∧
    readyVerb localCard 1 0 0x30 = some (readyEntry 0x30) ∧
    (queue localCard 1).entries.any (fun x => decide (x.idx < 0 ∧ x.phase = 1) && !x.running) = false ∧
    readyVerb localCard 2 0 0x20 = some (readyEntry 0x20) ∧
    entry localCard 3 0 = some runningInvalidate ∧ opcode runningInvalidate = 0x20 ∧ runningInvalidate.running = true ∧
    drained localCard (dctx runningInvalidate) runningInvalidate.waits = true ∧
    readyVerb localCard 4 0 0x21 = some (readyEntry 0x21) ∧ (readyEntry 0x21).waits.all (workOver localCard) = true ∧
    readyVerb localCard 5 0 0x22 = some (readyEntry 0x22) ∧ (region localCard (nfld (ef (readyEntry 0x22) 32 4) 23 0)).state = 0 ∧
    readyVerb revokeCard 6 0 0x23 = some (readyEntry 0x23) ∧ (region revokeCard (nfld (ef (readyEntry 0x23) 32 4) 23 0)).state ≠ 0 ∧
    (region revokeCard (nfld (ef (readyEntry 0x23) 32 4) 23 0)).gen.toNat = nfld (ef (readyEntry 0x23) 32 4) 31 24 := by
  and_intros <;> decide +kernel

/-- Hypotheses of `Obligations.CommitsCarryTheToken` that are met. -/
theorem met_commits_carry_the_token :
    cfgUp (dropHeld txnCard 0) 0 = true ∧ (fnGet txnCard 0).cfgBusy = false ∧ (fnGet txnCard 0).txn = some openTxn ∧ 8 ≠ openTxn.token ∧
    cfgUp (dropHeld txnCard 0) 0 = true ∧ (fnGet txnCard 0).cfgBusy = false ∧ (fnGet txnCard 0).txn = some openTxn ∧
    cfgUp (dropHeld txnCard 0) 0 = true ∧ (fnGet txnCard 0).cfgBusy = false ∧ (fnGet txnCard 0).txn = some openTxn ∧
    (fnGet txnCard 0).txn = some openTxn := by
  and_intros <;> decide +kernel

/-- Hypotheses of `Obligations.TransactionsOpenAndStage` that are met. -/
theorem met_transactions_open_and_stage :
    cfgUp (dropHeld upCard 0) 0 = true ∧ (fnGet upCard 0).cfgBusy = false ∧ (fnGet upCard 0).txn = none ∧
    cfgUp (dropHeld txnCard 0) 0 = true ∧ (fnGet txnCard 0).cfgBusy = false ∧ (fnGet txnCard 0).txn = some openTxn ∧
    0 < 2 ^ 32 - 2 ∧ 2 ^ 32 - 2 < 2 ^ 32 - 1 ∧
    cfgUp (dropHeld txnCard 0) 0 = true ∧ txRow Reg.CCS_ADMIT_PCT = some ccsRow ∧ (0 = 0 ∨ ccsRow.vf = true) ∧
    blockAlive (dropHeld txnCard 0) (Reg.CCS_ADMIT_PCT / 2 ^ 20) = true ∧ selIdx (dropHeld txnCard 0) 0 ccsRow.sel = some 0 ∧
    (fnGet txnCard 0).cfgBusy = false ∧ (fnGet txnCard 0).txn = some openTxn ∧
    cfgUp (dropHeld txnCard 0) 0 = true ∧
    (openTxn.staged.filter (fun x => !decide (x.off = (⟨0, 0, 0, 0⟩ : Staged).off ∧ x.sel = (⟨0, 0, 0, 0⟩ : Staged).sel))).length < 4096 ∧
    isGrant ⟨0, 0, 0, 0⟩ = false ∧
    65535 - (openTxn.staged.length - (openTxn.staged.filter (fun x => !decide (x.off = (⟨0, 0, 0, 0⟩ : Staged).off ∧ x.sel = (⟨0, 0, 0, 0⟩ : Staged).sel))).length) < 65536 := by
  and_intros <;> decide +kernel

/-- Hypotheses of `Obligations.CommitsValidateApplyPublish` that are met. -/
theorem met_commits_validate_apply_publish :
    overCard.commits = [overCommit] ∧ overCommit.validated = false ∧
    txCheck overCard overCommit.fn false overCommit.txn.overflow overCommit.txn.staged = some (7, 0, 0) ∧
    emptyCommitCard.commits = [emptyCommit] ∧ emptyCommit.validated = false ∧
    txCheck emptyCommitCard emptyCommit.fn false emptyCommit.txn.overflow emptyCommit.txn.staged = none ∧
    applyCard.commits = [applyCommit] ∧ applyCommit.validated = true ∧ applyCommit.applied.contains 4 = false ∧
    (touchedBlocks applyCommit).contains 4 = true ∧
    applyCard2.commits = [applyCommit2] ∧ applyCommit2.validated = true ∧ applyCommit2.applied.contains 4 = false ∧
    (touchedBlocks applyCommit2).contains 4 = true ∧
    (touchedBlocks applyCommit2).all (fun x => (4 :: applyCommit2.applied).contains x) = false ∧
    publishCard.commits = [publishCommit] ∧ publishCommit.validated = true ∧
    (touchedBlocks publishCommit).all (fun b => publishCommit.applied.contains b) = true ∧ publishCommit.save = false ∧
    publishCommit.changed = [] ∧
    hostUp (dropHeld upCard 0) = true := by
  and_intros <;> decide +kernel

/-- Hypotheses of `Obligations.TenantLifecycle` that are met. -/
theorem met_tenant_lifecycle :
    (tenant quietCard 252).st = 2 ∧ drainOver quietCard 252 = true ∧
    (tenant quietCard 252).st = 2 ∧
    (tenant quietCard 252).st = 2 ∧ drainOver quietCard 252 = true ∧
    (tenant (scrubStart (destroyKeys quietCard 252) 252) 252).clearQueues ≠ [] ∧
    (tenant drainBusy 252).st = 2 ∧ ctxQuiet (tenantMod (drainAbort drainBusy 252) 252 (fun T => { T with st := 3 })) 252 = false ∧
    tenantVerb lifeCard 0 0 0 = some (tenantEntry 0) ∧ (tenant lifeCard (entrySlot (tenantEntry 0))).st = 0 ∧
    fnExists lifeCard (entrySlot (tenantEntry 0)) = true ∧ lifeCard.rsp.entropyOk = true ∧ lifeCard.rsp.scrubFor = 0 ∧
    tenantVerb lifeCard 1 0 1 = some (tenantEntry 1) ∧ (tenant lifeCard (entrySlot (tenantEntry 1))).st = 0 ∧
    tenantVerb activeCard 1 0 1 = some (tenantEntry 1) ∧ (tenant activeCard (entrySlot (tenantEntry 1))).st = 1 ∧
    tenantVerb lifeCard 2 0 2 = some (tenantEntry 2) ∧
    inTile scrubCard.variant (3 * 2 ^ 21) = false ∧ (frame scrubCard 3).scrub = true ∧
    (sqmQ scrubCard 0x200).clearing = true ∧
    (tile clearTile 159).st = 1 ∧ clearTile.tenants = [] := by
  and_intros <;> decide +kernel

/-- Hypotheses of `Obligations.TranslationContexts` that are met. -/
theorem met_translation_contexts :
    blockUp runCard 0 = true ∧ selCtx runCard 0 = some 0 ∧ (ctx runCard 0).valid = false ∧ fld (1 : W64) 1 0 < 2 ∧
    blockUp runCard 0 = true ∧ selCtx runCard 0 = some 0 ∧ wbit (1 : W64) 0 = true ∧
    (sealed runCard 0 = false ∨ (ctx runCard 0).valid = true ∨ fld (ctx runCard 0).root 1 0 = 0) ∧
    blockUp sealedCard 1 = true ∧ selCtx sealedCard 1 = some 5 ∧ wbit (3 : W64) 0 = true ∧ sealed sealedCard 1 = true ∧
    (ctx sealedCard 5).valid = false ∧ fld (ctx sealedCard 5).root 1 0 = 1 ∧
    blockUp busCard 0 = true ∧ selCtx busCard 0 = some 0 ∧ wbit (0 : W64) 0 = false ∧ (ctx busCard 0).valid = true ∧
    blockUp busCard 0 = true ∧ selCtx busCard 0 = some 0 ∧ wbit (3 : W64) 0 = (ctx busCard 0).valid ∧ sealed busCard 0 = false ∧
    walkCard.atu.stalled.any (fun x => decide (x.ctx = 65535 ∧ x.addr = 8)) = true := by
  and_intros <;> decide +kernel

/-- Hypotheses of `Obligations.CipherEngine` that are met. -/
theorem met_cipher_engine :
    readyVerb cryptCard 0 0 0x11 = some (readyEntry 0x11) ∧
    slotUsable cryptCard (cryptSlot (readyEntry 0x11)) (queueOwner cryptCard 0) = true ∧ ctxMode cryptCard (queueOwner cryptCard 0) = 0 ∧
    (cryptCard.cph.streams.filter (fun x => x.tenant = queueOwner cryptCard 0)).length < 8 ∧
    streamOf cryptRun 0 0 = some cryptStream ∧ entry cryptRun 0 0 = some cryptEntry ∧
    (match cryptSlice cryptRun cryptStream cryptEntry (some []) with | .ok _ => true | .error _ => false) = true ∧
    streamOf begunCrypt 0 0 = some begunStream ∧ entry begunCrypt 0 0 = some cryptEntry ∧ (keySlot begunCrypt 0).reloading = false ∧
    begunStream.saved = none ∧ begunStream.begun = true ∧ cryptOverlap cryptEntry = false ∧
    elen cryptEntry ≤ begunStream.done + sliceLen cryptEntry begunStream.done ∧ cryptDone = true ∧
    streamOf cryptRun 0 0 = some cryptStream ∧ entry cryptRun 0 0 = some cryptEntry ∧
    (match cryptSlice cryptRun cryptStream cryptEntry none with | .error (.fail st) => st | _ => 0) = Status.localProtection ∧
    1023 < 1024 ∧ 255 < 256 ∧ ((List.replicate 16 (0 : Byte)).length = 16 ∨ (List.replicate 16 (0 : Byte)).length = 32) ∧
    (keySlot upCard 1023).st = 0 ∧
    (keySlot cryptCard 0).st = 1 ∧
    (keySlot cryptCard 1).st = 2 ∧
    (keySlot cryptCard 0).st = 1 ∧ 3 < 4 ∧ 0 < slotReserve cryptCard 3 ∧
    cryptCard.cph.failed < 32 ∧
    (rangeLens recordCard 0 0 0).find? (fun n => decide (4096 * 0 < n)) = some 64 ∧ sealed recordCard 0 = true ∧
    leadsToBus recordCard 0 0 = true ∧
    (dmaXlate recordCard 0 0 (0 + 4160 * 0) (64 + recordLenOf 64 0) { rd := true }).2 = .ok [(.bus 0 false 0, 128)] ∧
    (readPieces (dmaXlate recordCard 0 0 (0 + 4160 * 0) (64 + recordLenOf 64 0) { rd := true }).1 0 [(.bus 0 false 0, 128)] (some [])).2 = .ok (List.replicate 128 0) ∧
    takeFirst (fun g : SealStage => decide (g.tenant = 0 ∧ g.ctx = 0 ∧ g.base = 0 ∧ g.rec_ = 0) && recordFull g) stageCard.cph.staging = some (sealStage, []) ∧
    tenant stageCard 0 = tenant stageCard 0 ∧ (sealPair (tenant stageCard 0) (tenant stageCard 0).keysel).valid = true ∧
    (keySlot stageCard (sealPair (tenant stageCard 0) (tenant stageCard 0).keysel).dev) = (keySlot stageCard (sealPair (tenant stageCard 0) (tenant stageCard 0).keysel).dev) ∧
    (keySlot stageCard (sealPair (tenant stageCard 0) (tenant stageCard 0).keysel).dev).st = 1 ∧
    (keySlot stageCard (sealPair (tenant stageCard 0) (tenant stageCard 0).keysel).dev).owner = 0 ∧ sealStage.ep = false ∧
    (recordHeader 1 (tenant stageCard 0).keysel sealStage.len (tenant stageCard 0).sealSeq 0 0 (0 + 4160 * 0)) = (recordHeader 1 (tenant stageCard 0).keysel sealStage.len (tenant stageCard 0).sealSeq 0 0 (0 + 4160 * 0)) ∧
    (gcmSeal (keySlot stageCard (sealPair (tenant stageCard 0) (tenant stageCard 0).keysel).dev).key ((sealPair (tenant stageCard 0) (tenant stageCard 0).keysel).devSalt ++ leBytes 8 (tenant stageCard 0).sealSeq) (recordHeader 1 (tenant stageCard 0).keysel sealStage.len (tenant stageCard 0).sealSeq 0 0 (0 + 4160 * 0)) ((List.range sealStage.len).map (fun i => (tget (fun _ => none) sealStage.bytes i).getD 0))) = (gcmSeal (keySlot stageCard (sealPair (tenant stageCard 0) (tenant stageCard 0).keysel).dev).key ((sealPair (tenant stageCard 0) (tenant stageCard 0).keysel).devSalt ++ leBytes 8 (tenant stageCard 0).sealSeq) (recordHeader 1 (tenant stageCard 0).keysel sealStage.len (tenant stageCard 0).sealSeq 0 0 (0 + 4160 * 0)) ((List.range sealStage.len).map (fun i => (tget (fun _ => none) sealStage.bytes i).getD 0))) ∧
    (dmaWrite { stageCard with cph := { stageCard.cph with staging := [] } } 0 0 (0 + 4160 * 0) ((recordHeader 1 (tenant stageCard 0).keysel sealStage.len (tenant stageCard 0).sealSeq 0 0 (0 + 4160 * 0)) ++ (gcmSeal (keySlot stageCard (sealPair (tenant stageCard 0) (tenant stageCard 0).keysel).dev).key ((sealPair (tenant stageCard 0) (tenant stageCard 0).keysel).devSalt ++ leBytes 8 (tenant stageCard 0).sealSeq) (recordHeader 1 (tenant stageCard 0).keysel sealStage.len (tenant stageCard 0).sealSeq 0 0 (0 + 4160 * 0)) ((List.range sealStage.len).map (fun i => (tget (fun _ => none) sealStage.bytes i).getD 0))).2 ++ (gcmSeal (keySlot stageCard (sealPair (tenant stageCard 0) (tenant stageCard 0).keysel).dev).key ((sealPair (tenant stageCard 0) (tenant stageCard 0).keysel).devSalt ++ leBytes 8 (tenant stageCard 0).sealSeq) (recordHeader 1 (tenant stageCard 0).keysel sealStage.len (tenant stageCard 0).sealSeq 0 0 (0 + 4160 * 0)) ((List.range sealStage.len).map (fun i => (tget (fun _ => none) sealStage.bytes i).getD 0))).1) []).2 = .ok [] := by
  and_intros <;> decide +kernel

/-- Hypotheses of `Obligations.QueuePairControl` that are met. -/
theorem met_queue_pair_control :
    blockUp (dropHeld runCard 0) 0 = true ∧ selQp (dropHeld runCard 0) 0 = some 0 ∧ (conn runCard 0).st = 0 ∧
    blockUp (dropHeld readyCard 0) 0 = true ∧ selQp (dropHeld readyCard 0) 0 = some 0 ∧ (conn readyCard 0).st ≠ 0 ∧
    blockUp (dropHeld runCard 0) 0 = true ∧ selQp (dropHeld runCard 0) 0 = some 0 ∧ wbit (1 : W64) 0 = true ∧ wbit (1 : W64) 1 = false ∧
    wbit (1 : W64) 2 = false ∧
    (conn runCard 0).st = 0 ∧ (isFailover runCard 0 = false ∨ failoverQps runCard < 16383) ∧ handleOk runCard 0 = true ∧
    (nbit (conn runCard 0).ctl 3 && wbit (conn runCard 0).cfg 51) = false ∧
    blockUp (dropHeld readyCard 0) 0 = true ∧ selQp (dropHeld readyCard 0) 0 = some 0 ∧ wbit (2 : W64) 0 = false ∧ wbit (2 : W64) 1 = true ∧
    wbit (2 : W64) 2 = false ∧ (conn readyCard 0).st = 2 ∧
    blockUp (dropHeld failedCard 0) 0 = true ∧ selQp (dropHeld failedCard 0) 0 = some 0 ∧ wbit (4 : W64) 0 = false ∧
    wbit (4 : W64) 1 = false ∧ wbit (4 : W64) 2 = true ∧ ((conn failedCard 0).st = 4 ∨ (conn failedCard 0).st = 6) ∧
    (conn connectingCard 0).st = 1 ∧
    (conn connectingCard 0).st = 1 ∧
    (conn closingCard 0).st = 3 ∧
    isChan (chanId 0 0 0 1) = true ∧ (conn chanCard (chanId 0 0 0 1)).st = 2 ∧ (conn chanCard (chanId 0 0 0 1)).send = [] ∧
    (conn chanCard (chanId 0 0 0 1)).recv = [] := by
  and_intros <;> decide +kernel

/-- Hypotheses of `Obligations.ConnectionExchanges` that are met. -/
theorem met_connection_exchanges :
    running runCard = true ∧
    running drawnCard = true ∧ reqPacket.chan = false ∧ reqRefused drawnCard reqPacket (readConnect reqPacket.cell.payload) 0 = none ∧
    (conn drawnCard 0).st = 1 ∧ ((conn drawnCard 0).drawn = true → (conn drawnCard 0).initCsn ≠ (readConnect reqPacket.cell.payload).init) ∧
    (conn (drawCsn drawnCard 0) 0).drawn = true ∧
    running connectingCard = true ∧ answerConn connectingCard accPacket = some 0 ∧
    ((conn connectingCard 0).st = 1 ∨ (conn connectingCard 0).st = 2) ∧
    reqRefused connectingCard accPacket (readConnect accPacket.cell.payload) 0 = none ∧
    running connectingCard = true ∧ answerConn connectingCard accPacket = some 0 ∧ (conn connectingCard 0).st = 1 ∧
    running readyCard = true ∧ answerConn readyCard accPacket = some 0 ∧ (conn readyCard 0).st = 2 ∧ isChan 0 = false ∧
    running closingCard = true ∧ answerConn closingCard accPacket = some 0 ∧ (conn closingCard 0).st = 3 ∧
    upCard.tpe.cached.contains 0 = false ∧ (coreCached upCard (coreOf 0)).length < coreContexts ∧
    fullCard.tpe.cached.contains 0 = false ∧ coreContexts ≤ (coreCached fullCard (coreOf 0)).length ∧ replaced fullCard 0 = some 32 ∧
    sliceCard.tpe.slices.filter (fun y => decide (coreOf y.1 = 1)) = [(1, 4)] ∧
    sliceCard.tpe.slices.filter (fun z => decide (coreOf z.1 = 0)) = (0, 4) :: (32, 5) :: [] ∧
    31 < 32 ∧ 0 < spareCard.tpe.spares ∧
    (conn standbyCard 0).st = 5 ∧ (acceptMirror standbyCard (mirrorSlot standbyCard 0)).2 = some handoffRecord ∧
    nbit handoffRecord.word 21 = true ∧ handoffRecord.twin = 0 ∧
    upCard.tpe.conns.filter (fun e => decide (e.2.st = 5)) = [] ∧
    standbyCard.tpe.conns.filter (fun e => decide (e.2.st = 5)) = [(0, standbyConn)] ∧
    (conn twinCard 0).st = 2 ∧ isFailover twinCard 0 = true ∧ (acceptMirror twinCard (mirrorSlot twinCard 0)).2 = some takenRecord ∧
    nbit takenRecord.word 22 = true ∧ takenRecord.twin = 0 ∧
    wbit (reg beatCard Reg.TPE_TWIN_CTX 0) 16 = true ∧ running beatCard = true ∧ beatCard.tpe.conns = [] := by
  and_intros <;> decide +kernel

/-- Hypotheses of `Obligations.SendingAndAcknowledging` that are met. -/
theorem met_sending_and_acknowledging :
    4 < 5 ∧ running runCard = true ∧
    0 < 5 ∧ running pickCard = true ∧ (egress pickCard 0).waiting0 = [] ∧ pickClass (noteReady pickCard 0) 0 = some 4 ∧
    candidates pickCard 0 4 = [0] ∧ rawReady pickCard 0 4 = false ∧ 0 < 2 ^ 400 ∧ pickCard.tpe.cached.contains 0 = true ∧
    pickCard.tpe.slices = [] ∧ (conn pickCard 0).send = [pickMsg] ∧ pickMsg.resp = false ∧ pickMsg.retx = [] ∧ dataUnits pickMsg = 0 ∧
    connReady (conn pickCard 0) 4 = true ∧ encOn pickCard 0 = false ∧ csnRoom (conn pickCard 0) = true ∧
    nextWork (conn pickCard 0) 4 = some (pickMsg, .head) ∧ noRoute pickCard 0 = false ∧ impliedOk pickCard 0 pickMsg = true ∧
    sendMsg sourceCard 0 5 false = some sourceMsg ∧
    sourceMsg.reads.find? (fun x => x.key = 0) = some ⟨0, 0, 0, 64, [(.bus 0 false 0, 64)], 0⟩ ∧
    recordsThere sourceCard [(.bus 0 false 0, 64)] = true ∧ sourceMsg.held.any (fun d => d.1 = 0) = false ∧
    (conn sourceCard 0).send = [sourceMsg] ∧ sourceMsg.msn = 5 ∧ sourceMsg.resp = false ∧
    sourceMsg.reads = [⟨0, 0, 0, 64, [(.bus 0 false 0, 64)], 0⟩] ∧ sourceMsg.held = [] ∧ (0 : Nat) = 0 ∧
    recordsThere sourceCard [(.bus 0 false 0, 64)] = true ∧ encOn sourceCard 0 = false ∧
    (finishRead sourceCard (sourceSegs sourceMsg).1 ⟨0, 0, 0, 64, [(.bus 0 false 0, 64)], 0⟩ (some [])).2 = .ok (List.replicate 64 0) ∧
    (conn flightCard 0).flight.find? (fun r => r.csn = 9) = some flightRec ∧ flightRec.at_ + rto flightCard 0 ≤ flightCard.time ∧
    (conn flightCard 0).expCsn = none ∧ (conn flightCard 0).retries + 1 < retryCnt flightCard 0 ∧
    (conn spentCard 0).flight.find? (fun r => r.csn = 9) = some flightRec ∧ flightRec.at_ + rto spentCard 0 ≤ spentCard.time ∧
    (conn spentCard 0).expCsn = none ∧ retryCnt spentCard 0 ≤ (conn spentCard 0).retries + 1 ∧
    sendMsg creditCard 0 5 false = some creditMsg ∧ balance (conn creditCard 0) = 0 ∧ creditMsg.rnrWait = false ∧ creditMsg.opc ≠ 0x0F ∧
    creditMsg.headSent = false ∧ ofEntry creditMsg = true ∧
    sendMsg sentCard 0 5 false = some sentMsg ∧ balance (conn sentCard 0) = 0 ∧ (workOf (conn sentCard 0) sentMsg).isSome = true ∧
    sentMsg.rnrWait = false ∧ sentMsg.opc ≠ 0x0F ∧ sentMsg.headSent = true ∧
    running readyCard = true ∧ accPacket.chan = false ∧ (conn readyCard (packetConn accPacket)).st = 2 ∧
    connNode readyCard (packetConn accPacket) = accPacket.cell.snode ∧ connPath readyCard (packetConn accPacket) = accPacket.port ∧
    0 < (conn ackCard 0).sinceAck ∧ (conn ackCard 0).st = 2 := by
  and_intros <;> decide +kernel

/-- Hypotheses of `Obligations.ReceivingCells` that are met. -/
theorem met_receiving_cells :
    running readyCard = true ∧ emptyHeads.cell.opc = 0x10 ∧ (gate (arrive readyCard emptyHeads) emptyHeads).2 = true ∧
    running readyCard = true ∧ abortPacket.cell.opc = 0x10 ∧ hasHeadOf readyCard abortPacket (fun o => decide (o = 0x0F)) = true ∧
    (gate (arrive readyCard abortPacket) abortPacket).2 = true ∧
    running chanCard = true ∧ fwritePacket.cell.opc = 0x10 ∧
    hasHeadOf chanCard fwritePacket (fun o => decide (o = 0x0A ∨ o = 0x0D)) = true ∧
    (gate (arrive chanCard fwritePacket) fwritePacket).2 = true ∧
    regionCard.atu.regionWait = [emptyHeads] ∧
    regionCard.atu.regionWait = [emptyHeads] ∧
    running readyCard = true ∧ knownCode writePacket.cell.opc = true ∧ dataCode writePacket.cell.opc = true ∧
    (gate (arrive readyCard writePacket) writePacket).2 = true ∧
    running readyCard = true ∧ knownCode ({ cell := { opc := 0x1F } } : Packet).cell.opc = false ∧
    earlyCard.tpe.early.any (fun e => decide (e.1 = 0 ∧ e.2.csn = 4)) = true ∧
    running readyCard = true ∧ (readBackPacket.cell.opc = 0x04 ∨ readBackPacket.cell.opc = 0x05 ∨ readBackPacket.cell.opc = 0x07) ∧
    (gate (arrive readyCard readBackPacket) readBackPacket).2 = true ∧
    running readyCard = true ∧ replyPacket.cell.opc = 0x09 ∧ (gate (arrive readyCard replyPacket) replyPacket).2 = true ∧
    recvMsg mirrorCard 0 3 = some mirrorMsg ∧ cacheFind mirrorCard (peerKey mirrorCard 0) 0 3 = some cacheEntry ∧ mirrorMsg.waiting = true ∧
    recvMsg mirrorCard2 0 3 = some mirrorMsg ∧ cacheFind mirrorCard2 (peerKey mirrorCard2 0) 0 3 = some reduceEntry ∧
    mirrorMsg.waiting = true ∧ reduceEntry.reduce = true ∧
    running regionsCard = true ∧ writeHead.cell.opc = 0x10 ∧ (gate (arrive regionsCard writeHead) writeHead).2 = true ∧
    headsOf (arrive regionsCard writeHead) writeHead = some [theHead] ∧ keyed theHead.opc = true ∧ theHead.opc ≠ 0x08 ∧
    theHead.imm = false ∧ cachedHead lowCardT 0 theHead = none ∧ msnDone (conn lowCardT 0) theHead.msn = false ∧
    recvMsg lowCardT 0 theHead.msn = none ∧ headRefused lowCardT 0 (headMsg writeHead theHead) = none ∧
    noRoom lowCardT 0 (headMsg writeHead theHead) = none ∧ regionRoom lowCardT (theHead.akey % 2 ^ 24) = true ∧
    lowestNeed (conn lowCardT 0) = none ∧ lowCardT.tpe.early = [] ∧
    running sharedCard = true ∧ freadHead.cell.opc = 0x10 ∧ (gate (arrive sharedCard freadHead) freadHead).2 = true ∧
    headsOf (arrive sharedCard freadHead) freadHead = some [fabHead] ∧ freadHead.chan = true ∧ (fabHead.opc = 0x0A ∨ fabHead.opc = 0x0D) ∧
    inAperture sharedCard.variant fabHead.raddr = false ∧ fabHead.imm = false ∧
    msnDone (conn sharedCardT (packetConn freadHead)) fabHead.msn = false ∧ recvMsg sharedCardT (packetConn freadHead) fabHead.msn = none ∧
    headRefused sharedCardT (packetConn freadHead) (headMsg freadHead fabHead) = none ∧
    noRoom sharedCardT (packetConn freadHead) (headMsg freadHead fabHead) = none ∧
    lowestNeed (conn sharedCardT (packetConn freadHead)) = none ∧ sharedCardT.tpe.early = [] ∧
    running readyCard = true ∧ abortPacket.cell.opc = 0x10 ∧ (gate (arrive readyCard abortPacket) abortPacket).2 = true ∧
    headsOf (arrive readyCard abortPacket) abortPacket = some [abortOne] ∧ abortOne.opc = 0x0F ∧
    msnDone (conn (takeLow (arrive readyCard abortPacket) 0 0) 0) abortOne.msn = false ∧
    recvMsg (takeLow (arrive readyCard abortPacket) 0 0) 0 abortOne.msn = none ∧
    running placeCard = true ∧ dataCode fourBytes.cell.opc = true ∧ (gate (arrive placeCard fourBytes) fourBytes).2 = true ∧
    msnDone (conn (arrive placeCard fourBytes) 0) fourBytes.cell.msn = false ∧
    recvMsg (arrive placeCard fourBytes) 0 fourBytes.cell.msn = some placeMsg ∧ placeMsg.complete = false ∧ mayPlace placeMsg = true ∧
    placeMsg.opc = 0x01 ∧ fits placeMsg fourBytes.cell = true ∧
    clearPayload (arrive placeCard fourBytes) 0 fourBytes.cell = some [1, 2, 3, 4] ∧ cellSpan fourBytes.cell = (0, 1, some 4) ∧
    placeMsg.covered.contains 0 = false ∧ placeMsg.pend.any (fun x => x.key = 0) = false ∧ 0 < 4096 ∧
    ([1, 2, 3, 4] : List Byte).take 512 ≠ [] ∧
    (placeQueue (arrive placeCard fourBytes) (connPath (arrive placeCard fourBytes) 0) (connTenant (arrive placeCard fourBytes) 0)).2 = true ∧
    (issueSegs queuedCard placeMsg.tenant placeMsg.ctx [(placeMsg.base + placeMsg.raddr, placeMsg.len)] (512 * 0) (([1, 2, 3, 4] : List Byte).take 512).length 0 { wr := true }).2 = .ok ⟨0, 0, 0, 4, [(.bus 0 false 0, 4)], 0⟩ ∧
    isFailover queuedCard 0 = false ∧
    (openStages queuedCard placeMsg.tenant 0 placeMsg.msn false [(placeMsg.base + placeMsg.raddr, placeMsg.len)] [(.bus 0 false 0, 4)]).isSome = true ∧
    recvMsg landCard 0 3 = some landMsg ∧ landMsg.pend.find? (fun x => x.key = 0) = some ⟨0, 0, 0, 4, [(.bus 0 false 0, 4)], 0⟩ ∧
    landMsg.pendData.find? (fun d => d.1 = 0) = some (0, [1, 2, 3, 4], []) ∧
    placeTurn landCard 0 landMsg ⟨0, 0, 0, 4, [(.bus 0 false 0, 4)], 0⟩ = true ∧ landMsg.opc = 0x01 ∧
    landMsg.covered.length + 1 < recvUnits landMsg ∧ piecesOwned landDone 0 [(.bus 0 false 0, 4)] = true ∧
    (writePieces landDone 0 [(.bus 0 false 0, 4)] [1, 2, 3, 4] []).2 = true ∧
    recvMsg readMsgCard 0 0 = some readMsg ∧ readMsg.executed = false ∧ readMsg.complete = false ∧
    (isChan 0 = true ∨ (conn readMsgCard 0).done = 0) ∧ readMsg.opc = 0x0B ∧
    running readingCard = true ∧ fourBack.cell.opc = 0x04 ∧ (gate (arrive readingCard fourBack) fourBack).2 = true ∧
    sendMsg (arrive readingCard fourBack) 0 5 false = some readingMsg ∧
    clearPayload (arrive readingCard fourBack) 0 fourBack.cell = some [1, 2, 3, 4] ∧ readingMsg.opc ≠ 0x08 ∧ readingMsg.respUnits ≠ 0 ∧
    cellSpan fourBack.cell = (0, 1, some 4) ∧ (some 4 = none ∨ some 4 = some readingMsg.respLen) ∧ readingMsg.respGot.contains 0 = false ∧
    readingMsg.rpend.any (fun x => x.key = 0) = false ∧ ([1, 2, 3, 4] : List Byte).take 512 ≠ [] ∧
    (placeQueue (arrive readingCard fourBack) (connPath (arrive readingCard fourBack) 0) (connTenant (arrive readingCard fourBack) 0)).2 = true ∧
    respDest (arrive readingCard fourBack) readingMsg = some (.segs 0 0 [(0, 4)]) ∧
    (issueSegs readingQueued 0 0 [(0, 4)] (512 * 0) (([1, 2, 3, 4] : List Byte).take 512).length 0 { wr := true }).2 = .ok ⟨0, 0, 0, 4, [(.bus 0 false 0, 4)], 0⟩ ∧
    (openStages readingQueued 0 0 5 true [(0, 4)] [(.bus 0 false 0, 4)]).isSome = true ∧
    running replyingCard = true ∧ fourReply.cell.opc = 0x09 ∧ (gate (arrive replyingCard fourReply) fourReply).2 = true ∧
    sendMsg (arrive replyingCard fourReply) 0 5 false = some invokeMsg ∧
    clearPayload (arrive replyingCard fourReply) 0 fourReply.cell = some [1, 2, 3, 4] ∧ invokeMsg.opc = 0x08 ∧
    (arrive replyingCard fourReply).tpe.early = [] ∧ cellSpan fourReply.cell = (0, 1, some 4) ∧ 4 ≤ nfld invokeMsg.varg 24 0 ∧
    invokeMsg.respGot.contains 0 = false ∧ invokeMsg.rpend.any (fun x => x.key = 0) = false ∧ ([1, 2, 3, 4] : List Byte).take 512 ≠ [] ∧
    (placeQueue replyingT (connPath replyingT 0) (connTenant replyingT 0)).2 = true ∧
    respDest replyingT { invokeMsg with respLen := 4, respUnits := 1 } = some (.segs 0 0 [(0, 4)]) ∧
    (issueSegs (placeQueue replyingT 0 0).1 0 0 [(0, 4)] (512 * 0) (([1, 2, 3, 4] : List Byte).take 512).length 0 { wr := true }).2 = .ok ⟨0, 0, 0, 4, [(.bus 0 false 0, 4)], 0⟩ ∧
    (openStages (placeQueue replyingT 0 0).1 0 0 5 true [(0, 4)] [(.bus 0 false 0, 4)]).isSome = true := by
  and_intros <;> decide +kernel

/-- Hypotheses of `Obligations.CreditsAndShaping` that are met. -/
theorem met_credits_and_shaping :
    upCard.ccs.egress.all (fun E => E.2.waiting0.isEmpty) = true ∧
    4 < 5 ∧
    1000 = (if eadmit halfCard 4 = 0 then 1000 else min 1000 (1000 * admitPct halfCard 4 * ecapOf halfCard 4 / (100 * eadmit halfCard 4))) ∧
    1000 ≠ (egress halfCard 4).factor ∧ degradedTenants halfCard 4 = [] ∧
    live grantCard 0 = true ∧ 1 ≠ 0 ∧ (conn grantCard 0).lastGseq = some 4294967295 ∧ serialAbove 0 4294967295 = true ∧
    live grantCard 0 = true ∧ (conn grantCard 0).lastGseq = some 4294967295 ∧ serialAbove 0 4294967295 = true ∧
    live grantCard 0 = true ∧ (conn grantCard 0).lastGseq = some 4294967295 ∧ serialAbove 4294967295 4294967295 = false ∧
    (conn grantCard 0).grants.find? (fun g => g.gseq = 7) = some oneGrant ∧
    (conn demandCard 0).demandOut = true ∧ balance (conn demandCard 0) < needUnits (conn demandCard 0) ∧
    live grantCard 0 = true ∧ (egress grantCard (connPath grantCard 0)).demand.any (fun d => d.1 = 0) = false ∧ 1 ≠ 0 ∧
    grantCard.ccs.egress.foldl (fun n e => n + e.2.demand.length) 0 < 131072 ∧
    (egress issueCard 0).demand = [(0, 3)] ∧ tget (fun _ => 0) (egress issueCard 0).gmin 0 < 10000000 ∧
    min (min 3 3) (min (grantCap issueCard 0) 65535) ≠ 0 ∧ grantOk issueCard 0 (min (min 3 3) (min (grantCap issueCard 0) 65535)) = true ∧
    (conn grantCard 0).granted.find? (fun g => g.gseq = 8) = some oneGranted := by
  and_intros <;> decide +kernel

/-- The CRC of a cell does not look at the CRC it carries. -/
theorem ownCell_crcOk : crcOk ownCell = true := by simp [crcOk, ownCell, cellCrc, headerTop]

/-- So the tail check lets it pass. -/
theorem ownCell_passes (s : State) (l : Nat) : (tailCheck s l ownCell).2.stomp = false := by
  unfold tailCheck
  rw [if_neg (by decide), if_pos ownCell_crcOk]
  rfl

/-- Hypotheses of `Obligations.RouterCells` that are met. -/
theorem met_router_cells :
    running linkCard = true ∧ isUp linkCard 0 = true ∧ headerBad linkCard 0 ownCell = false ∧ ownCell.typ = 1 ∧ ownCell.mc = false ∧
    ownCell.dnode = ownNode linkCard ∧ (tailCheck (bump linkCard Reg.FRT_LCNT_RX 0) 0 ownCell).2.stomp = false ∧
    running linkCard = true ∧ isUp linkCard 0 = true ∧ headerBad linkCard 0 farCell = false ∧ farCell.typ = 1 ∧ farCell.mc = false ∧
    farCell.dnode ≠ ownNode linkCard ∧ farCell.hops ≠ 0 ∧ unreachable linkCard farCell.dnode = false ∧
    running linkCard = true ∧ isUp linkCard 0 = true ∧ headerBad linkCard 0 { ownCell with typ := 15 } = true ∧
    isUp linkCard 1 = true ∧ (link linkCard 1).staging = [ownCell] ∧
    linkCard.frt.hold = [⟨0, ownCell, 0⟩] ∧
    linkCard.frt.inject = [injected] ∧ injected.cell.mc = false ∧ injected.cell.dnode = ownNode linkCard ∧
    farCard.frt.inject = [injectedFar] ∧ injectedFar.cell.mc = false ∧ injectedFar.cell.dnode ≠ ownNode farCard ∧
    unreachable farCard injectedFar.cell.dnode = false ∧ injectOutput farCard injectedFar.cell.dnode = some 0 ∧
    takeFirst (fun e : LinkEvent => decide (e.hi = ownNode linkCard ∧ e.hiConn = 5)) linkCard.frt.owed = some (owedEvent, []) ∧
    running linkCard = true ∧ noticeCell.typ = 2 ∧
    running seenCard = true ∧ noticeCell.typ = 2 ∧ seenCard.frt.seen.contains (0, 0) = true ∧
    running linkCard = true ∧ noticeCell.typ = 2 ∧ linkCard.frt.seen.contains (0, 0) = false ∧
    linkCard.frt.eject = [(0, ownCell)] ∧ ownCell.typ = 1 ∧
    mgmtCard.frt.eject = [(0, { ownCell with typ := 3 })] ∧ ({ ownCell with typ := 3 } : Cell).typ = 3 := by
  and_intros <;> first | decide +kernel | with_reducible exact ownCell_passes _ _ | rfl

/-- Hypotheses of `Obligations.LinkStates` that are met. -/
theorem met_link_states :
    running runCard = true ∧ 11 < 12 ∧ (link runCard 11).st = 0 ∧ linkUsed runCard 11 = true ∧
    running linkCard = true ∧ 0 < 12 ∧ isUp linkCard 0 = true ∧
    (link linkCard 3).st = 4 ∧
    (link linkCard 2).st = 2 ∧ trainCheck linkCard 2 peerBlock = none ∧
    (link linkCard 2).st = 2 ∧ trainCheck linkCard 2 { peerBlock with plane := 1 } = some 8 ∧
    (link linkCard 2).st = 2 ∧
    isUp linkCard 0 = true ∧
    isUp linkCard 0 = true ∧
    isUp linkCard 0 = true ∧
    (link linkCard 4).st = 1 ∧ ((link linkCard 4).downs.filter (fun t => decide (linkCard.time < t + 1000000000))).length < 3 ∧
    (link linkCard 5).st = 1 ∧ 3 ≤ ((link linkCard 5).downs.filter (fun t => decide (linkCard.time < t + 1000000000))).length ∧
    (link linkCard 3).st = 4 := by
  and_intros <;> decide +kernel

/-- Hypotheses of `Obligations.EthernetPorts` that are met. -/
theorem met_ethernet_ports :
    portLive portUpCard 1 = true ∧ addressed portUpCard 1 pfcFrame = true ∧ etype pfcFrame = 0x8808 ∧
    beAt pfcFrame (l3 pfcFrame) 2 = 0x0101 ∧ frameFlags portUpCard 1 pfcFrame false = 0 ∧ tagged pfcFrame = false ∧
    portLive portUpCard 1 = true ∧ addressed portUpCard 1 cellFrame = true ∧ etype cellFrame ≠ 0x8808 ∧
    isTransport portUpCard 1 cellFrame = true ∧
    portLive rawPortCard 1 = true ∧ addressed rawPortCard 1 plainFrame = true ∧ etype plainFrame ≠ 0x8808 ∧
    isTransport rawPortCard 1 plainFrame = false ∧ frameFlags rawPortCard 1 plainFrame false = 0 ∧
    (takeRoom (countFrame rawPortCard 1 plainFrame 0) 1 (framePrio rawPortCard 1 plainFrame) plainFrame.length 0).2 = true ∧
    steer rawPortCard 1 plainFrame = some (0, 2 ^ 23) ∧
    7 < 8 ∧ (eport holdPort 1).holding.getLsbD 7 = true ∧ pfcLow holdPort 1 7 < 2 ^ 30 ∧
    7 < 8 ∧ (eport holdPort 1).holding.getLsbD 7 = true ∧ 0 ≤ pfcLow holdPort 1 7 ∧
    takeFirst (fun r : RawTx => decide (r.queue = 3 ∧ r.idx = 0) && r.sent) (eport holdPort 1).raw = some (rawTx, []) ∧
    (false || true) = true ∧
    running runCard = true ∧ portPresent runCard 1 = true ∧ cageRefused runCard 1 = false ∧
    (fld (reg runCard Reg.EMAC_MODE 0) 1 0 = 2 → 100 ≤ 100) ∧
    running mode2Card = true ∧ portPresent mode2Card 1 = true ∧ cageRefused mode2Card 1 = false ∧
    fld (reg mode2Card Reg.EMAC_MODE 0) 1 0 = 2 ∧ 100 < 101 := by
  and_intros <;> decide +kernel

/-- Hypotheses of `Obligations.LanesAndModules` that are met. -/
theorem met_lanes_and_modules :
    29 < 30 ∧
    30 ≤ 37 ∧ 37 < 38 ∧
    37 < 38 ∧ fld (reg upCard Reg.LNS_FAIL_THR 0) 31 16 < 20001 ∧
    [0, 1].find? (fun p => !posLive narrowCard 0 p) = some 1 ∧ isUp narrowCard 0 = true ∧ (link narrowCard 0).oneLane = false ∧
    (lane narrowCard (laneOf 0 1)).st ≠ 5 ∧
    5 < 6 ∧ 4 < 5 ∧ ¬ ((spare laneCard 5).st = 4 ∧ (spare laneCard 5).carries = 4) ∧
    3 < 6 ∧ 2 < 4 ∧ (rot laneCard 3).phase = 3 ∧ (rot laneCard 3).pos = 2 ∧
    mayRotate laneCard 0 = true ∧ lowerEnd laneCard 0 = true ∧ (rot laneCard 0).urgent = [] ∧
    (lane laneCard (laneOf 0 (rot laneCard 0).next)).st = 2 ∧
    mayRotate upperCard 0 = true ∧ lowerEnd upperCard 0 = false ∧ 3 < 4 ∧ (lane upperCard (laneOf 0 3)).st = 2 ∧
    (rot laneCard 1).phase = 1 ∧ (rot laneCard 1).pos = 0 ∧
    copying laneCard 2 = true ∧
    copying laneCard 2 = true ∧ (rot laneCard 2).mine = false ∧
    copying laneCard 2 = true ∧ (rot laneCard 2).mine = false ∧ (rot laneCard 2).restarts = 3 ∧
    copying laneCard 2 = true ∧
    (rot laneCard 2).marker.isSome = true ∧ (rot laneCard 2).phase = 2 ∧
    (rot laneCard 3).phase = 3 ∧
    (rot laneCard 3).phase = 3 ∧ (rot laneCard 3).mine = false ∧
    (rot laneCard 3).phase = 3 ∧ (rot laneCard 3).mine = false ∧
    29 < 30 ∧ (rot upCard (29 / 5)).phase = 0 ∧
    10 < 30 ∧ (rot laneCard (10 / 5)).phase ≠ 0 ∧
    1 < 2 ∧ 100 ≤ 4 * fld (reg upCard Reg.LNS_MOD_PWR_MAX 0) 7 0 ∧
    1 < 2 ∧ 4 * fld (reg upCard Reg.LNS_MOD_PWR_MAX 0) 7 0 < 101 ∧
    (cageModule moduleCard 1).present = true ∧
    (cageModule moduleCard 1).present = true ∧ moduleCard.pw.mainOn = true ∧
    linkCard.pw.mainOn = true ∧ (cageModule linkCard 0).fault = false ∧
    linkCard.pw.mainOn = true ∧ (link linkCard (2 * 0)).st = 3 ∧ (link linkCard (2 * 0 + 1)).st = 3 ∧
    fabCard.pw.mainOn = true ∧ (link fabCard (2 * 0)).st = 3 ∧ (link fabCard (2 * 0 + 1)).st ≠ 3 := by
  and_intros <;> decide +kernel

/-- Zero bytes before a string leave its CRC as it is: the initial value is 0. -/
theorem crc64_zeros (n : Nat) (t : List Byte) : crc64 (List.replicate n 0 ++ t) = crc64 t := by
  unfold crc64
  induction n with
  | zero => rfl
  | succ n ih => rw [List.replicate_succ, List.cons_append, List.foldl_cons, show crc64Byte 0 0 = 0 by decide]; exact ih

/-- What the CRC of the chunk covers. -/
theorem chunkBytes_body : chunkBytes.take (2176 - 64) ++ (chunkBytes.drop (2176 - 64)).take 56 = List.replicate 2112 0 ++ chunkTail := by
  decide +kernel

/-- Hypotheses of `Obligations.Collectives` that are met. -/
theorem met_collectives :
    handedOver groupCard 0 0 = some collEntry ∧ (grp groupCard (cGroup collEntry)).members = none ∧
    wbit (gent groupCard (cGroup collEntry) 0) 0 = true ∧
    (memRead groupCard (gOwner groupCard (cGroup collEntry)) (fld (gent groupCard (cGroup collEntry) 1) 47 0) (32 * gMembers groupCard (cGroup collEntry))).2 = .ok (List.replicate (32 * gMembers groupCard (cGroup collEntry)) 0) ∧
    handedOver readGroup 0 0 = some collEntry ∧ (grp readGroup (cGroup collEntry)).st = 0 ∧ scbActive readGroup < 64 ∧
    (grp readGroup (cGroup collEntry)).members.isSome = true ∧ collectiveBad readGroup 0 collEntry = none ∧
    1 < gMembers readGroup (cGroup collEntry) ∧
    handedOver badGroup 0 0 = some collEntry ∧ (grp badGroup (cGroup collEntry)).st = 0 ∧ scbActive badGroup < 64 ∧
    (grp badGroup (cGroup collEntry)).members.isSome = true ∧ collectiveBad badGroup 0 collEntry = some Status.badDescriptor ∧
    scbEntry sendGroup 0 = scbEntry sendGroup 0 ∧ 1 = gSize sendGroup 0 0 - 1 ∧ 0 = tget (fun _ => 0) (grp sendGroup 0).cursors (0 * 2) ∧
    1 = (myCoord sendGroup 0 0 + 1 + 0 % max 1 1) % max 1 (gSize sendGroup 0 0) ∧ (grp sendGroup 0).st = 1 ∧ 0 < 3 ∧ 1 ≠ 0 ∧
    0 / max 1 1 < (upList sendGroup 0 (scbEntry sendGroup 0) 0 1).2 ∧ mayReach sendGroup 0 0 1 = true ∧
    (grp downGroup 0).st = 1 ∧ 0 < 3 ∧ 1 ≠ 0 ∧ 0 / max 1 1 < (downList downGroup 0 (scbEntry downGroup 0) 0).2 ∧
    (true && byTree downGroup 0 0) = false ∧ mayReach downGroup 0 0 1 = true ∧
    (match chunkData downGroup 0 0 ((downList downGroup 0 (scbEntry downGroup 0) 0).1 + 0 / max 1 1) true none with | .ok r => (memWrite r.1 (gOwner downGroup 0) (landBase downGroup 0 + outSlot downGroup 0 0 1 ((scbPeer downGroup 0 0 1).sent % gSlots downGroup 0)) (r.2.1 ++ trailer downGroup 0 (scbEntry downGroup 0) 0 true r.2.2 (downFormat downGroup 0 (scbEntry downGroup 0)) (scbPeer downGroup 0 0 1).sent ((downList downGroup 0 (scbEntry downGroup 0) 0).1 + 0 / max 1 1) r.2.1) []).2 | .error _ => false) = true ∧
    inboxCard.scb.inbox.find? (fun x => x.1 = landBase inboxCard 0 + inSlot inboxCard 0 0 1 0) = some (landBase inboxCard 0 + inSlot inboxCard 0 0 1 0, 64) ∧
    0 < 3 ∧ 1 < gSize inboxCard 0 0 ∧ 0 < gSlots inboxCard 0 ∧ wbit (gent inboxCard 0 0) 0 = true ∧
    (memRead inboxCard (gOwner inboxCard 0) (landBase inboxCard 0 + inSlot inboxCard 0 0 1 0) 64).2 = .ok (List.replicate 64 0) ∧ 64 ≤ 64 ∧
    leAt ((List.replicate 64 (0 : Byte)).drop (64 - 64)) 56 8 = (crc64 ((List.replicate 64 (0 : Byte)).take (64 - 64) ++ ((List.replicate 64 (0 : Byte)).drop (64 - 64)).take 56)).toNat ∧
    leAt ((List.replicate 64 (0 : Byte)).drop (64 - 64)) 16 8 < (scbPeer inboxCard 0 0 1).consumed ∧
    downCard.scb.inbox.find? (fun x => x.1 = landBase downCard 0 + inSlot downCard 0 2 1 0) = some (landBase downCard 0 + inSlot downCard 0 2 1 0, 2176) ∧
    2 < 3 ∧ 1 < gSize downCard 0 2 ∧ 0 < gSlots downCard 0 ∧ wbit (gent downCard 0 0) 0 = true ∧
    (memRead downCard (gOwner downCard 0) (landBase downCard 0 + inSlot downCard 0 2 1 0) 2176).2 = .ok chunkBytes ∧ 64 ≤ 2176 ∧
    leAt (chunkBytes.drop (2176 - 64)) 56 8 = (crc64 (chunkBytes.take (2176 - 64) ++ (chunkBytes.drop (2176 - 64)).take 56)).toNat ∧
    (scbPeer downCard 0 2 1).consumed ≤ leAt (chunkBytes.drop (2176 - 64)) 16 8 ∧
    (scbPeer downCard 0 2 1).extra.contains (leAt (chunkBytes.drop (2176 - 64)) 16 8) = false ∧ (grp downCard 0).st = 1 ∧
    (grp downCard 0).inst = some (leAt (chunkBytes.drop (2176 - 64)) 0 4) ∧
    chunkAgrees downCard 0 2 1 (chunkBytes.drop (2176 - 64)) 2176 = true ∧ nbit (leAt (chunkBytes.drop (2176 - 64)) 6 1) 2 = true ∧
    0 < 3 ∧ 1 < gSize relCard 0 0 ∧ wbit (gent relCard 0 0) 0 = true ∧
    relCard.scb.inbox.any (fun x => x.1 = landBase relCard 0 + relWord relCard 0 0 1) = true ∧
    (memRead { relCard with scb := { relCard.scb with inbox := relCard.scb.inbox.filter (fun x => x.1 ≠ landBase relCard 0 + relWord relCard 0 0 1) } } (gOwner relCard 0) (landBase relCard 0 + relWord relCard 0 0 1) 64).2 = .ok (List.replicate 64 0) ∧
    leAt (List.replicate 64 (0 : Byte)) 56 8 = (crc64 ((List.replicate 64 (0 : Byte)).take 56)).toNat ∧
    nbit (leAt (List.replicate 64 (0 : Byte)) 4 1) 2 = false ∧ nbit (leAt (List.replicate 64 (0 : Byte)) 4 1) 3 = false ∧
    (grp relCard 0).st = 0 ∧
    mcPacket.cell.mc = true ∧ mcPacket.cell.opc = 0x0A ∧ running treeGroup = true ∧ mcRoot treeGroup mcPacket.cell = some (0, 0, 1) ∧
    mcPacket.cell.first = false ∧ mcPacket.cell.last = false ∧
    (mcPacket.cell.msn + 2 ^ 24 - (scbPeer treeGroup 0 0 1).consumed % 2 ^ 24) % 2 ^ 24 = 0 ∧ 0 < gSlots treeGroup 0 ∧
    (scbPeer treeGroup 0 0 1).extra = [] ∧ treeGroup.scb.mc = [] ∧
    (memWrite treeGroup (gOwner treeGroup 0) (landBase treeGroup 0 + inSlot treeGroup 0 0 1 ((scbPeer treeGroup 0 0 1).consumed % max 1 (gSlots treeGroup 0)) + 512 * mcPacket.cell.offset) (padTo 512 mcPacket.cell.payload) mcPacket.cell.poison).2 = true ∧
    512 * mcPacket.cell.offset < 8256 ∧
    (memWrite treeGroup (gOwner treeGroup 0) (landBase treeGroup 0 + inSlot treeGroup 0 0 1 ((scbPeer treeGroup 0 0 1).consumed % max 1 (gSlots treeGroup 0)) + 512 * mcPacket.cell.offset) (padTo 512 mcPacket.cell.payload) mcPacket.cell.poison).1.scb.mc = [] ∧
    (grp treeGroup 0).st = 1 ∧ (recMc (peerRec treeGroup 0 0 1) 0).2 = true ∧ (levelPeers treeGroup 0 0).contains 1 = true ∧
    (scbPeer treeGroup 0 0 1).down < downFrom treeGroup 0 (scbEntry treeGroup 0) 0 1 := by
  and_intros <;> first | (rw [chunkBytes_body, crc64_zeros]; decide +kernel) | decide +kernel

/-- Hypotheses of `Obligations.TileDispatch` that are met. -/
theorem met_tile_dispatch :
    recvMsg invCard 0 3 = some invMsg ∧ handleOf invCard 0 3 = some 1 ∧ invocation invCard 1 = some invRec ∧ invMsg.executed = true ∧
    invRec.written = false ∧ invRec.status = none ∧ invMsg.complete = false ∧ invMsg.pend = [] ∧ unitsOf invMsg.len ≤ invMsg.covered.length ∧
    firstRecord startTile (tileQ 159 15) = some 1 ∧ invocation startTile 1 = some invRec ∧ (tile startTile 159).st = 2 ∧
    (tile runTile 0).st = 3 ∧ (tile runTile 0).stopping = false ∧
    invocation endCard 1 = some endRec ∧ endRec.live = [] ∧ endRec.written = true ∧ outcomeKnown endCard endRec = true ∧
    (tile runTile 0).st ≠ 0 ∧ runTile.tgd.spares ≠ [] ∧
    (tile remapTile 159).st ≠ 0 ∧ remapTile.tgd.spares = [] ∧
    (tile remapTile 159).st = 4 := by
  and_intros <;> decide +kernel

/-- Hypotheses of `Obligations.MailboxesFaultsAndEvents` that are met. -/
theorem met_mailboxes_faults_and_events :
    blockUp (dropHeld boxCard 0) 0 = true ∧ ownBox (dropHeld boxCard 0) 0 (selSqm (dropHeld boxCard 0) 0) = true ∧
    selSqm (dropHeld boxCard 0) 0 ≠ rspIn 0 ∧
    blockUp (dropHeld runCard 0) 0 = true ∧ ownBox (dropHeld runCard 0) 0 (selSqm (dropHeld runCard 0) 0) = false ∧
    hostUp boxCard = true ∧ fnExists boxCard 0 = true ∧ running boxCard = true ∧ ownBox boxCard 0 (selSqm boxCard 0) = true ∧
    selSqm boxCard 0 ≠ rspOut 0 ∧
    takeFirst (fun w : Suspect => w.queue = 0 ∧ w.node = 4095) suspectCard.fev.windows = some (oneSuspect, []) ∧ oneSuspect.count ≤ 1 ∧
    takeFirst (fun w : Suspect => w.queue = 0 ∧ w.node = 4095) mergeCard.fev.windows = some ({ oneSuspect with count := 2 }, []) ∧
    1 < ({ oneSuspect with count := 2 } : Suspect).count ∧
    hostUp vfCard = true ∧
    hostUp vfCard = true ∧ fnExists vfCard 252 = true ∧
    mctpUp alertCard = true ∧ alertCard.fev.unread ≠ 0 ∧
    0 < fatalReport.cls ∧ fatalReport.cls ≤ 0x13 ∧ toFaultQueue fatalReport.cls = true ∧ toEventQueue fatalReport.cls = false ∧
    fatalReport.sev = 3 ∧ (sqmPushAll (standbyCopy fatalT fatalReport fatalWords) 0 (fatalWords.map (fun w => ⟨w, 0⟩))).2 = true := by
  and_intros <;> decide +kernel

/-- Hypotheses of `Obligations.FirmwareUpdate` that are met. -/
theorem met_firmware_update :
    cicPathUp cicCard .host = true ∧ pathAllows cicCard .host 1 = true ∧
    (cicCard.boot.minimal && !cicCard.boot.scrubbed && !cicCard.boot.romOnly) = false ∧ cicCard.rsp.scrubFor = 0 ∧
    cicPathUp cicCard .host = true ∧ pathAllows cicCard .host 2 = true ∧
    (cicCard.boot.minimal && !cicCard.boot.scrubbed && !cicCard.boot.romOnly) = false ∧ cicCard.rsp.scrubFor = 0 ∧
    cicPathUp cicCard .host = true ∧ pathAllows cicCard .host 3 = true ∧
    (cicCard.boot.minimal && !cicCard.boot.scrubbed && !cicCard.boot.romOnly) = false ∧ cicCard.rsp.scrubFor = 0 ∧
    cicPathUp cicCard .host = true ∧ pathAllows cicCard .host 4 = true ∧
    (cicCard.boot.minimal && !cicCard.boot.scrubbed && !cicCard.boot.romOnly) = false ∧ cicCard.rsp.scrubFor = 0 ∧
    cicPathUp cicCard .host = true ∧ pathAllows cicCard .host 5 = true ∧
    (cicCard.boot.minimal && !cicCard.boot.scrubbed && !cicCard.boot.romOnly) = false ∧ cicCard.rsp.scrubFor = 0 ∧
    cicPathUp fleetCard (.fleet 0) = true ∧ pathAllows fleetCard (.fleet 0) 3 = false ∧
    bufCard.cic.buffers.any (fun b => decide (b.image = 1 ∧ b.index = 2047)) = true ∧
    nowCard.boot.nowReset = true ∧
    nowCard.boot.healthOpen = true ∧
    trialCard.boot.trial = true ∧ trialCard.boot.healthOpen = true ∧ trialCard.boot.stage = .running ∧ trialCard.boot.selftestOk = true ∧
    (slotGet stagedCard (inactiveSlot stagedCard)).state = 2 ∧
    (slotGet stagedCard (inactiveSlot stagedCard)).image = ({ image := 9 } : CicMsg).image ∧
    partsPass (slotGet stagedCard (inactiveSlot stagedCard)) = true := by
  and_intros <;> decide +kernel

/-- Hypotheses of `Obligations.SpdmOutsideSessions` that are met. -/
theorem met_spdm_outside_sessions :
    spdmTake upCard 259 false [0x10, 0x84, 0, 0] 0x84 = .request false [0x10, 0x84, 0, 0] ∧
    spdmTake spdmCard 259 false [0x13, 0xE1, 0, 0] 0xE1 = .request false [0x13, 0xE1, 0, 0] ∧ 1 ≤ (requester spdmCard 259).phase ∧
    spdmTake spdmCard 259 false [0x13, 0xE3, 0, 0] 0xE3 = .request false [0x13, 0xE3, 0, 0] ∧ 2 ≤ (requester spdmCard 259).phase ∧
    spdmTake spdmCard 259 false [0x13, 0x81, 0, 0] 0x81 = .request false [0x13, 0x81, 0, 0] ∧ 3 ≤ (requester spdmCard 259).phase ∧
    spdmTake spdmCard 259 false [0x13, 0x82, 0, 0, 0, 0, 9, 0] 0x82 = .request false [0x13, 0x82, 0, 0, 0, 0, 9, 0] ∧
    3 ≤ (requester spdmCard 259).phase ∧ leAt ([0x13, 0x82, 0, 0, 0, 0, 9, 0] : List Byte) 2 1 = 0 ∧
    leAt ([0x13, 0x82, 0, 0, 0, 0, 9, 0] : List Byte) 4 2 = 0 ∧
    spdmTake spdmCard 259 false [0x13, 0x83, 0, 0] 0x83 = .request false [0x13, 0x83, 0, 0] ∧ 3 ≤ (requester spdmCard 259).phase ∧
    spdmCard.fuses.lifecycle ≠ 2 ∧ leAt ([0x13, 0x83, 0, 0] : List Byte) 2 1 = 0 ∧ spdmCard.rsp.entropyOk = true ∧
    spdmTake spdmCard 259 false [0x13, 0xE0, 0, 0] 0xE0 = .request false [0x13, 0xE0, 0, 0] ∧ 3 ≤ (requester spdmCard 259).phase ∧
    leAt ([0x13, 0xE0, 0, 0] : List Byte) 3 1 = 0 ∧ nbit (leAt ([0x13, 0xE0, 0, 0] : List Byte) 2 1) 0 = false ∧
    spdmCard.rsp.entropyOk = true ∧
    256 ≤ 259 ∧ spdmTake spdmCard 259 false [0x13, 0xE4, 0, 0] 0xE4 = .request false [0x13, 0xE4, 0, 0] ∧
    3 ≤ (requester spdmCard 259).phase ∧ spdmCard.fuses.lifecycle ≠ 2 ∧ (requester spdmCard 259).session = none ∧
    leAt ([0x13, 0xE4, 0, 0] : List Byte) 3 1 = 0 ∧ spdmCard.rsp.entropyOk = true ∧
    spdmTake rmaCard 259 false [0x13, 0x83, 0, 0] 0x83 = .request false [0x13, 0x83, 0, 0] ∧ 3 ≤ (requester rmaCard 259).phase ∧
    rmaCard.fuses.lifecycle = 2 ∧ spdmTake rmaCard 259 false [0x13, 0xE4, 0, 0] 0xE4 = .request false [0x13, 0xE4, 0, 0] := by
  and_intros <;> decide +kernel

/-- Hypotheses of `Obligations.SpdmSessions` that are met. -/
theorem met_spdm_sessions :
    256 ≤ 259 ∧ 259 < 260 ∧ mctpUp finishCard = true ∧
    (requester finishCard 259).session = some { openedSession with established := false } ∧
    ({ openedSession with established := false } : Session).established = false ∧ (requester finishCard 259).refused = false ∧
    256 ≤ 259 ∧ 259 < 260 ∧ mctpUp sessionCard = true ∧ (requester sessionCard 259).session = some openedSession ∧
    openedSession.established = true ∧ (requester sessionCard 259).refused = false ∧
    (requester sessionCard 259).session.isSome = true ∧
    256 ≤ 259 ∧ 259 < 260 ∧ mctpUp sessionCard = true ∧ (requester sessionCard 259).session = some openedSession ∧
    openedSession.established = true ∧ (requester sessionCard 259).refused = false ∧
    256 ≤ 259 ∧ 259 < 260 ∧ mctpUp sessionCard = true ∧ (requester sessionCard 259).session = some openedSession ∧
    openedSession.established = true ∧ (requester sessionCard 259).refused = false ∧
    256 ≤ 259 ∧ 259 < 260 ∧ mctpUp sessionCard = true ∧ (requester sessionCard 259).session = some openedSession ∧
    openedSession.established = true ∧ (requester sessionCard 259).refused = false ∧
    255 < 256 ∧ (box vendorCard 255).msg = some (1, 0, []) ∧ (box vendorCard 255).outWords = [] ∧ (box vendorCard 255).cmd = none ∧
    (requester vendorCard 255).session = some openedSession ∧ openedSession.established = true ∧ (requester vendorCard 255).refused = false := by
  and_intros <;> decide +kernel

/-- Hypotheses of `Obligations.KeysSealingAndReports` that are met. -/
theorem met_keys_sealing_and_reports :
    cmdOf loadCard 252 0x01 = some (List.replicate 32 7) ∧ barred loadCard 252 = false ∧ (List.replicate 32 (7 : Byte)).length = 32 ∧
    (loadKey loadCard 252 (List.replicate 32 7)).toOption.isSome = true ∧
    cmdOf genCard 252 0x02 = some [] ∧ barred genCard 252 = false ∧ genCard.rsp.entropyOk = true ∧
    (loadKey (drawN 4 genCard).2 252 (wordsToBytes (drawN 4 genCard).1)).toOption.isSome = true ∧
    cmdOf destroyCard 252 0x03 = some [0xFF, 3, 0, 0] ∧ barred destroyCard 252 = false ∧ leAt ([0xFF, 3, 0, 0] : List Byte) 0 4 < 1024 ∧
    (keySlot destroyCard (leAt ([0xFF, 3, 0, 0] : List Byte) 0 4)).owner = 252 ∧
    (keySlot destroyCard (leAt ([0xFF, 3, 0, 0] : List Byte) 0 4)).st = 1 ∧
    cmdOf sealCard 252 0x04 = some bouncePayload ∧ inReport sealCard 252 = false ∧ (tenant sealCard 252).st = 1 ∧
    (tenant sealCard 252).mode = 0 ∧ (tenant sealCard 252).everSealed = false ∧ sealCard.rsp.debug = 0 ∧ rangesOk bouncePayload = true ∧
    sealCard.atu.ctxs.any (fun C => decide (ctxOwner sealCard C.1 = 252) && C.2.valid && decide (fld C.2.root 1 0 = 1)) = false ∧
    ctxMode sealCard 252 ≠ 1 ∧ sealCard.rsp.entropyOk = true ∧
    ((loadPair sealCard 252).toOption.bind (fun x => (loadPair x.1 252).toOption)).isSome = true ∧
    cmdOf rekeyCard 252 0x05 = some [] ∧ inReport rekeyCard 252 = false ∧ (tenant rekeyCard 252).mode = 1 ∧ barred rekeyCard 252 = false ∧
    rekeyCard.rsp.entropyOk = true ∧ (tenant rekeyCard 252).keysel = 0 ∧ (tenant rekeyCard 252).seal1.valid = false ∧
    (loadPair rekeyCard 252).toOption.isSome = true ∧
    (box reportCard 252).msg = some (2, 9, List.replicate 128 0) ∧ (box reportCard 252).outWords = [] ∧ (box reportCard 252).cmd = none ∧
    (List.replicate 128 (0 : Byte)).length = 128 ∧ (tenant reportCard 252).st = 1 ∧ (tenant reportCard 252).mode = 0 ∧
    reportCard.rsp.debug = 0 ∧ reportCard.fuses.lifecycle ≠ 2 ∧ reportCard.rsp.entropyOk = true := by
  and_intros <;> decide +kernel

/-- Hypotheses of `Obligations.MailboxesEntropyAndTokens` that are met. -/
theorem met_mailboxes_entropy_and_tokens :
    hostUp (dropHeld upCard 0) = true ∧ fnExists (dropHeld upCard 0) 0 = true ∧ (box upCard 0).busy = false ∧ tenantActive upCard 0 = true ∧
    (box busyCard 0).busy = true ∧ (box busyCard 0).msg = none ∧ (box busyCard 0).outWords = [] ∧ (sqmQ busyCard (rspIn 0)).words = [] ∧
    (box fullBox 0).outWords ≠ [] ∧
    upCard.rsp.entropyOk = true ∧
    upCard.rsp.entropyOk = true ∧
    busyCard.rsp.entropyOk = false ∧
    3 < 4 ∧ upCard.rsp.linkLost.getLsbD 3 = false ∧
    mgtCard.rsp.entropyOk = true ∧ mgtCard.boot.firstClaim ≠ none ∧ mgtCard.rsp.debug = 0 ∧ mgtCard.rsp.scrubFor = 0 ∧
    mgtCard.rsp.entropyOk = true ∧ mgtCard.boot.firstClaim ≠ none ∧ mgtCard.rsp.scrubFor = 0 := by
  and_intros <;> decide +kernel

/-- Hypotheses of `Obligations.TileArithmetic` that are met. -/
theorem met_tile_arithmetic :
    ∀ w ∈ [0x1000886400000000, 0x1100886400000000, 0x1200886400000000, 0x1300886400000000, 0x1400886400000000, 0x1500886400000000, 0x1600886400000000, 0x1700886400000000, 0x1800886400000000, 0x1900886400000000, 0x1A00886400000000, 0x1B00886400000000, 0x1C00886400000000, 0x1D00886400000000, 0x1E00886400000000, 0x1F00886400000000, 0x2000880000000005, 0x2100880000000005, 0x2200880000000005, 0x2300880000000005, 0x2400880000000005, 0x2500880000000005, 0x2600880000000005, 0x2700880000000005, 0x2800880000000005, 0x2900880000000005, 0x2A00880000000005, 0x2B00880000000005, 0x2C00880000000005, 0x2D00880000000005, 0x2E00880000000005, 0x2F00880000000005, 0x3000880000000005, 0x3100880000000005], Executes (codeCard w) 0 (iOpc w) w := by
  and_intros <;> decide +kernel

/-- Hypotheses of `Obligations.TileComparesAndControl` that are met. -/
theorem met_tile_compares_and_control :
    (∀ w ∈ [0x0000000000000000, 0x0200000000000003, 0x03008000FFFFFFFF, 0x05008800FFFFFFFE], Executes (codeCard w) 0 (iOpc w) w) ∧
    Executes (codeCard 0x3200886400000000) 0 0x32 0x3200886400000000 ∧ iFn 0x3200886400000000 = 0 ∧
    Executes (codeCard 0x3200886400010000) 0 0x32 0x3200886400010000 ∧ iFn 0x3200886400010000 = 1 ∧
    Executes (codeCard 0x3200886400020000) 0 0x32 0x3200886400020000 ∧ iFn 0x3200886400020000 = 2 ∧
    Executes (codeCard 0x3200886400030000) 0 0x32 0x3200886400030000 ∧ iFn 0x3200886400030000 = 3 ∧
    Executes (codeCard 0x3200886400040000) 0 0x32 0x3200886400040000 ∧ iFn 0x3200886400040000 = 4 ∧
    Executes (codeCard 0x3200886400050000) 0 0x32 0x3200886400050000 ∧ iFn 0x3200886400050000 = 5 ∧
    Executes (codeCard 0x3300880000000009) 0 0x33 0x3300880000000009 ∧ iFnI 0x3300880000000009 = 0 ∧
    Executes (codeCard 0x3300880100000009) 0 0x33 0x3300880100000009 ∧ iFnI 0x3300880100000009 = 1 ∧
    Executes (codeCard 0x3300880200000009) 0 0x33 0x3300880200000009 ∧ iFnI 0x3300880200000009 = 2 ∧
    Executes (codeCard 0x3300880300000009) 0 0x33 0x3300880300000009 ∧ iFnI 0x3300880300000009 = 3 ∧
    Executes (codeCard 0x3300880400000009) 0 0x33 0x3300880400000009 ∧ iFnI 0x3300880400000009 = 4 ∧
    Executes (codeCard 0x3300880500000009) 0 0x33 0x3300880500000009 ∧ iFnI 0x3300880500000009 = 5 ∧
    Executes (codeCard 0x3400886400000000) 0 0x34 0x3400886400000000 ∧ iFn 0x3400886400000000 = 0 ∧
    Executes (codeCard 0x3400886400010000) 0 0x34 0x3400886400010000 ∧ iFn 0x3400886400010000 = 1 ∧
    Executes (codeCard 0x3400886400020000) 0 0x34 0x3400886400020000 ∧ iFn 0x3400886400020000 = 2 ∧
    Executes (codeCard 0x3400886400030000) 0 0x34 0x3400886400030000 ∧ iFn 0x3400886400030000 = 3 ∧
    Executes (codeCard 0x0400886400000000) 0 0x04 0x0400886400000000 ∧
    (opA (codeCard 0x0400886400000000) 0 0x0400886400000000).toNat % 8 = 0 ∧
    Executes (codeCard 0x04008C6400000000) 0 0x04 0x04008C6400000000 ∧
    (opA (codeCard 0x04008C6400000000) 0 0x04008C6400000000).toNat % 8 ≠ 0 ∧
    Executes (codeCard 0x0600881000000000) 0 0x06 0x0600881000000000 ∧ iFnI 0x0600881000000000 = 0x010 ∧
    Executes (codeCard 0x0600885000000000) 0 0x06 0x0600885000000000 ∧ (iFnI 0x0600885000000000 = 0x050 ∨ iFnI 0x0600885000000000 = 0x051) ∧
    Executes (codeCard 0x0600881400000000) 0 0x06 0x0600881400000000 ∧
    csrRead (codeCard 0x0600881400000000) 0 (iFnI 0x0600881400000000) = none ∧
    Executes (codeCard 0x0700081100000000) 0 0x07 0x0700081100000000 ∧ iFnI 0x0700081100000000 = 0x011 ∧
    Executes (codeCard 0x0700080100000000) 0 0x07 0x0700080100000000 ∧
    csrWrite (tile (codeCard 0x0700080100000000) 0) (iFnI 0x0700080100000000) (opA (codeCard 0x0700080100000000) 0 0x0700080100000000) = none ∧
    (Executes (codeCard 0x080088000000FFFF) 0 0x08 0x080088000000FFFF ∧
    ∀ k < 16, nbit 0x080088000000FFFF k = true → tagCount (tile (codeCard 0x080088000000FFFF) 0) k = 0) ∧
    (Executes (busyCode 0x0800880000000004) 0 0x08 0x0800880000000004 ∧ ∃ k < 16, nbit 0x0800880000000004 k = true ∧
    tagCount (tile (busyCode 0x0800880000000004) 0) k ≠ 0) ∧
    (Executes (busyCode 0x0900880000000003) 0 0x09 0x0900880000000003 ∧ 1 < 16 ∧ nbit 0x0900880000000003 1 = true ∧
    0 < readable (busyCode 0x0900880000000003) 0 1 ∧
    (∀ k < 1, nbit 0x0900880000000003 k = true → readable (busyCode 0x0900880000000003) 0 k = 0) ∧
    ∀ k < 16, nbit 0x0900880000000003 k = true → chanBarred (busyCode 0x0900880000000003) 0 k = false) ∧
    (Executes (codeCard 0x0900880000000000) 0 0x09 0x0900880000000000 ∧ ∀ k < 16, nbit 0x0900880000000000 k = false) ∧
    (Executes (codeCard 0x0100886400000000) 0 0x01 0x0100886400000000 ∧
    fld (opA (codeCard 0x0100886400000000) 0 0x0100886400000000) 13 0 = (tile (codeCard 0x0100886400000000) 0).handle ∧
    ∀ k < 16, tagCount (tile (codeCard 0x0100886400000000) 0) k = repliesOn (tile (codeCard 0x0100886400000000) 0) k) ∧
    Executes (codeCard 0x01008C6400000000) 0 0x01 0x01008C6400000000 ∧
    fld (opA (codeCard 0x01008C6400000000) 0 0x01008C6400000000) 13 0 ≠ (tile (codeCard 0x01008C6400000000) 0).handle := by
  and_intros <;> decide +kernel

/-- Hypotheses of `Obligations.TileLoadsAndStores` that are met. -/
theorem met_tile_loads_and_stores :
    Executes (codeCard 0x4000880000000040) 0 0x40 0x4000880000000040 ∧
    memOff (tile (codeCard 0x4000880000000040) 0) 0x4000880000000040 % 1 = 0 ∧
    memOff (tile (codeCard 0x4000880000000040) 0) 0x4000880000000040 + 1 ≤ 2 ^ 22 ∧
    anyPoison (codeCard 0x4000880000000040) (tileAddr 0 (memOff (tile (codeCard 0x4000880000000040) 0) 0x4000880000000040)) 1 = false ∧
    Executes (codeCard 0x4000880000400000) 0 0x40 0x4000880000400000 ∧
    memOff (tile (codeCard 0x4000880000400000) 0) 0x4000880000400000 % 1 = 0 ∧
    2 ^ 22 < memOff (tile (codeCard 0x4000880000400000) 0) 0x4000880000400000 + 1 ∧
    Executes (codeCard 0x4100880000000040) 0 0x41 0x4100880000000040 ∧
    memOff (tile (codeCard 0x4100880000000040) 0) 0x4100880000000040 % 2 = 0 ∧
    memOff (tile (codeCard 0x4100880000000040) 0) 0x4100880000000040 + 2 ≤ 2 ^ 22 ∧
    anyPoison (codeCard 0x4100880000000040) (tileAddr 0 (memOff (tile (codeCard 0x4100880000000040) 0) 0x4100880000000040)) 2 = false ∧
    Executes (codeCard 0x4100880000400000) 0 0x41 0x4100880000400000 ∧
    memOff (tile (codeCard 0x4100880000400000) 0) 0x4100880000400000 % 2 = 0 ∧
    2 ^ 22 < memOff (tile (codeCard 0x4100880000400000) 0) 0x4100880000400000 + 2 ∧
    Executes (codeCard 0x4100880000000041) 0 0x41 0x4100880000000041 ∧
    memOff (tile (codeCard 0x4100880000000041) 0) 0x4100880000000041 % 2 ≠ 0 ∧
    Executes (codeCard 0x4200880000000040) 0 0x42 0x4200880000000040 ∧
    memOff (tile (codeCard 0x4200880000000040) 0) 0x4200880000000040 % 4 = 0 ∧
    memOff (tile (codeCard 0x4200880000000040) 0) 0x4200880000000040 + 4 ≤ 2 ^ 22 ∧
    anyPoison (codeCard 0x4200880000000040) (tileAddr 0 (memOff (tile (codeCard 0x4200880000000040) 0) 0x4200880000000040)) 4 = false ∧
    Executes (codeCard 0x4200880000400000) 0 0x42 0x4200880000400000 ∧
    memOff (tile (codeCard 0x4200880000400000) 0) 0x4200880000400000 % 4 = 0 ∧
    2 ^ 22 < memOff (tile (codeCard 0x4200880000400000) 0) 0x4200880000400000 + 4 ∧
    Executes (codeCard 0x4200880000000041) 0 0x42 0x4200880000000041 ∧
    memOff (tile (codeCard 0x4200880000000041) 0) 0x4200880000000041 % 4 ≠ 0 ∧
    Executes (codeCard 0x4300880000000040) 0 0x43 0x4300880000000040 ∧
    memOff (tile (codeCard 0x4300880000000040) 0) 0x4300880000000040 % 8 = 0 ∧
    memOff (tile (codeCard 0x4300880000000040) 0) 0x4300880000000040 + 8 ≤ 2 ^ 22 ∧
    anyPoison (codeCard 0x4300880000000040) (tileAddr 0 (memOff (tile (codeCard 0x4300880000000040) 0) 0x4300880000000040)) 8 = false ∧
    Executes (codeCard 0x4300880000400000) 0 0x43 0x4300880000400000 ∧
    memOff (tile (codeCard 0x4300880000400000) 0) 0x4300880000400000 % 8 = 0 ∧
    2 ^ 22 < memOff (tile (codeCard 0x4300880000400000) 0) 0x4300880000400000 + 8 ∧
    Executes (codeCard 0x4300880000000041) 0 0x43 0x4300880000000041 ∧
    memOff (tile (codeCard 0x4300880000000041) 0) 0x4300880000000041 % 8 ≠ 0 ∧
    Executes (codeCard 0x4400880000000040) 0 0x44 0x4400880000000040 ∧
    memOff (tile (codeCard 0x4400880000000040) 0) 0x4400880000000040 % 4 = 0 ∧
    memOff (tile (codeCard 0x4400880000000040) 0) 0x4400880000000040 + 4 ≤ 2 ^ 22 ∧
    anyPoison (codeCard 0x4400880000000040) (tileAddr 0 (memOff (tile (codeCard 0x4400880000000040) 0) 0x4400880000000040)) 4 = false ∧
    Executes (codeCard 0x4400880000400000) 0 0x44 0x4400880000400000 ∧
    memOff (tile (codeCard 0x4400880000400000) 0) 0x4400880000400000 % 4 = 0 ∧
    2 ^ 22 < memOff (tile (codeCard 0x4400880000400000) 0) 0x4400880000400000 + 4 ∧
    Executes (codeCard 0x4400880000000041) 0 0x44 0x4400880000000041 ∧
    memOff (tile (codeCard 0x4400880000000041) 0) 0x4400880000000041 % 4 ≠ 0 ∧
    Executes (codeCard 0x45008800003FFFF8) 0 0x45 0x45008800003FFFF8 ∧
    memOff (tile (codeCard 0x45008800003FFFF8) 0) 0x45008800003FFFF8 % 1 = 0 ∧
    memOff (tile (codeCard 0x45008800003FFFF8) 0) 0x45008800003FFFF8 + 1 ≤ 2 ^ 22 ∧
    Executes (codeCard 0x45008800FFFFFFF8) 0 0x45 0x45008800FFFFFFF8 ∧
    memOff (tile (codeCard 0x45008800FFFFFFF8) 0) 0x45008800FFFFFFF8 % 1 = 0 ∧
    2 ^ 22 < memOff (tile (codeCard 0x45008800FFFFFFF8) 0) 0x45008800FFFFFFF8 + 1 ∧
    Executes (codeCard 0x46008800003FFFF8) 0 0x46 0x46008800003FFFF8 ∧
    memOff (tile (codeCard 0x46008800003FFFF8) 0) 0x46008800003FFFF8 % 2 = 0 ∧
    memOff (tile (codeCard 0x46008800003FFFF8) 0) 0x46008800003FFFF8 + 2 ≤ 2 ^ 22 ∧
    Executes (codeCard 0x46008800FFFFFFF8) 0 0x46 0x46008800FFFFFFF8 ∧
    memOff (tile (codeCard 0x46008800FFFFFFF8) 0) 0x46008800FFFFFFF8 % 2 = 0 ∧
    2 ^ 22 < memOff (tile (codeCard 0x46008800FFFFFFF8) 0) 0x46008800FFFFFFF8 + 2 ∧
    Executes (codeCard 0x4600880000000001) 0 0x46 0x4600880000000001 ∧
    memOff (tile (codeCard 0x4600880000000001) 0) 0x4600880000000001 % 2 ≠ 0 ∧
    Executes (codeCard 0x47008800003FFFF8) 0 0x47 0x47008800003FFFF8 ∧
    memOff (tile (codeCard 0x47008800003FFFF8) 0) 0x47008800003FFFF8 % 4 = 0 ∧
    memOff (tile (codeCard 0x47008800003FFFF8) 0) 0x47008800003FFFF8 + 4 ≤ 2 ^ 22 ∧
    Executes (codeCard 0x47008800FFFFFFF8) 0 0x47 0x47008800FFFFFFF8 ∧
    memOff (tile (codeCard 0x47008800FFFFFFF8) 0) 0x47008800FFFFFFF8 % 4 = 0 ∧
    2 ^ 22 < memOff (tile (codeCard 0x47008800FFFFFFF8) 0) 0x47008800FFFFFFF8 + 4 ∧
    Executes (codeCard 0x4700880000000001) 0 0x47 0x4700880000000001 ∧
    memOff (tile (codeCard 0x4700880000000001) 0) 0x4700880000000001 % 4 ≠ 0 ∧
    Executes (codeCard 0x48008800003FFFF8) 0 0x48 0x48008800003FFFF8 ∧
    memOff (tile (codeCard 0x48008800003FFFF8) 0) 0x48008800003FFFF8 % 8 = 0 ∧
    memOff (tile (codeCard 0x48008800003FFFF8) 0) 0x48008800003FFFF8 + 8 ≤ 2 ^ 22 ∧
    Executes (codeCard 0x48008800FFFFFFF8) 0 0x48 0x48008800FFFFFFF8 ∧
    memOff (tile (codeCard 0x48008800FFFFFFF8) 0) 0x48008800FFFFFFF8 % 8 = 0 ∧
    2 ^ 22 < memOff (tile (codeCard 0x48008800FFFFFFF8) 0) 0x48008800FFFFFFF8 + 8 ∧
    Executes (codeCard 0x4800880000000001) 0 0x48 0x4800880000000001 ∧
    memOff (tile (codeCard 0x4800880000000001) 0) 0x4800880000000001 % 8 ≠ 0 := by
  and_intros <;> decide +kernel

/-- Hypotheses of `Obligations.TileVectorMoves` that are met. -/
theorem met_tile_vector_moves :
    (∀ w ∈ [0x6E00886400000000, 0x6F008864007F0000, 0x70008864007F0000, 0x6D00886400000000], Executes (codeCard w) 0 (iOpc w) w) ∧
    Executes (codeCard 0x5000880000000040) 0 0x50 0x5000880000000040 ∧
    memOff (tile (codeCard 0x5000880000000040) 0) 0x5000880000000040 % 64 = 0 ∧
    memOff (tile (codeCard 0x5000880000000040) 0) 0x5000880000000040 + 512 ≤ 2 ^ 22 ∧
    anyPoison (codeCard 0x5000880000000040) (tileAddr 0 (memOff (tile (codeCard 0x5000880000000040) 0) 0x5000880000000040)) 512 = false ∧
    Executes (codeCard 0x5100880000000040) 0 0x51 0x5100880000000040 ∧
    memOff (tile (codeCard 0x5100880000000040) 0) 0x5100880000000040 % 64 = 0 ∧
    memOff (tile (codeCard 0x5100880000000040) 0) 0x5100880000000040 + 512 ≤ 2 ^ 22 ∧
    Executes (codeCard 0x5200880100000040) 0 0x52 0x5200880100000040 ∧
    memOff (tile (codeCard 0x5200880100000040) 0) 0x5200880100000040 % 64 = 0 ∧
    memOff (tile (codeCard 0x5200880100000040) 0) 0x5200880100000040 + 256 ≤ 2 ^ 22 ∧
    anyPoison (codeCard 0x5200880100000040) (tileAddr 0 (memOff (tile (codeCard 0x5200880100000040) 0) 0x5200880100000040)) 256 = false ∧
    Executes (codeCard 0x5300880000000040) 0 0x53 0x5300880000000040 ∧
    memOff (tile (codeCard 0x5300880000000040) 0) 0x5300880000000040 % 64 = 0 ∧
    memOff (tile (codeCard 0x5300880000000040) 0) 0x5300880000000040 + 256 ≤ 2 ^ 22 ∧
    Executes (codeCard 0x5000880000000048) 0 0x50 0x5000880000000048 ∧
    memOff (tile (codeCard 0x5000880000000048) 0) 0x5000880000000048 % 64 ≠ 0 ∧
    Executes (codeCard 0x5100880000000048) 0 0x51 0x5100880000000048 ∧
    memOff (tile (codeCard 0x5100880000000048) 0) 0x5100880000000048 % 64 ≠ 0 ∧
    Executes (codeCard 0x5200880000000048) 0 0x52 0x5200880000000048 ∧
    memOff (tile (codeCard 0x5200880000000048) 0) 0x5200880000000048 % 64 ≠ 0 ∧
    Executes (codeCard 0x5300880000000048) 0 0x53 0x5300880000000048 ∧
    memOff (tile (codeCard 0x5300880000000048) 0) 0x5300880000000048 % 64 ≠ 0 ∧
    Executes (codeCard 0x5400886400060000) 0 0x54 0x5400886400060000 ∧ 6 ≤ iFn 0x5400886400060000 ∧
    Executes (codeCard 0x5500886400060000) 0 0x55 0x5500886400060000 ∧ 6 ≤ iFn 0x5500886400060000 ∧
    Executes (codeCard 0x540090A400030000) 0 0x54 0x540090A400030000 ∧ iFn 0x540090A400030000 < 6 ∧
    (opA (codeCard 0x540090A400030000) 0 0x540090A400030000).toNat % 64 = 0 ∧
    (opA (codeCard 0x540090A400030000) 0 0x540090A400030000).toNat + packBytes (iFn 0x540090A400030000) ≤ 2 ^ 22 ∧
    (opB (codeCard 0x540090A400030000) 0 0x540090A400030000).toNat % 4 = 0 ∧
    (opB (codeCard 0x540090A400030000) 0 0x540090A400030000).toNat + 4 ≤ 2 ^ 22 ∧
    anyPoison (codeCard 0x540090A400030000) (tileAddr 0 (opA (codeCard 0x540090A400030000) 0 0x540090A400030000).toNat) (packBytes (iFn 0x540090A400030000)) = false ∧
    anyPoison (codeCard 0x540090A400030000) (tileAddr 0 (opB (codeCard 0x540090A400030000) 0 0x540090A400030000).toNat) 4 = false ∧
    Executes (codeCard 0x550090A400050000) 0 0x55 0x550090A400050000 ∧ iFn 0x550090A400050000 < 6 ∧
    (opA (codeCard 0x550090A400050000) 0 0x550090A400050000).toNat % 64 = 0 ∧
    (opA (codeCard 0x550090A400050000) 0 0x550090A400050000).toNat + packBytes (iFn 0x550090A400050000) ≤ 2 ^ 22 ∧
    (opB (codeCard 0x550090A400050000) 0 0x550090A400050000).toNat % 4 = 0 ∧
    (opB (codeCard 0x550090A400050000) 0 0x550090A400050000).toNat + 4 ≤ 2 ^ 22 := by
  and_intros <;> decide +kernel

/-- Hypotheses of `Obligations.TileVectorArithmetic` that are met. -/
theorem met_tile_vector_arithmetic :
    (∀ w ∈ [0x6000886400000000, 0x6100886400000000, 0x6200886400000000, 0x6400886400000000, 0x6500886400000000, 0x6300886400000000, 0x6600886400000000, 0x6700886400000000, 0x6800886400000000, 0x6900886400000000, 0x6C00886400020000, 0x7100886400010000], Executes (codeCard w) 0 (iOpc w) w) ∧
    Executes (codeCard 0x6A00886400000000) 0 0x6A 0x6A00886400000000 ∧ iFn 0x6A00886400000000 = 0 ∧
    Executes (codeCard 0x6A00886400010000) 0 0x6A 0x6A00886400010000 ∧ iFn 0x6A00886400010000 = 1 ∧
    Executes (codeCard 0x6A00886400020000) 0 0x6A 0x6A00886400020000 ∧ iFn 0x6A00886400020000 = 2 ∧
    Executes (codeCard 0x6B00886400000000) 0 0x6B 0x6B00886400000000 ∧ iFn 0x6B00886400000000 = 0 ∧
    Executes (codeCard 0x6B00886400010000) 0 0x6B 0x6B00886400010000 ∧ iFn 0x6B00886400010000 = 1 ∧
    Executes (codeCard 0x6B00886400020000) 0 0x6B 0x6B00886400020000 ∧ iFn 0x6B00886400020000 = 2 ∧
    Executes (codeCard 0x6B00886400030000) 0 0x6B 0x6B00886400030000 ∧ iFn 0x6B00886400030000 = 3 ∧
    Executes (codeCard 0x6B00886400040000) 0 0x6B 0x6B00886400040000 ∧ iFn 0x6B00886400040000 = 4 ∧
    Executes (codeCard 0x6B00886400050000) 0 0x6B 0x6B00886400050000 ∧ iFn 0x6B00886400050000 = 5 ∧
    Executes (codeCard 0x6B00886400060000) 0 0x6B 0x6B00886400060000 ∧ iFn 0x6B00886400060000 = 6 ∧
    Executes (codeCard 0x6B00886400070000) 0 0x6B 0x6B00886400070000 ∧ iFn 0x6B00886400070000 = 7 ∧
    Executes (codeCard 0x6B00886400080000) 0 0x6B 0x6B00886400080000 ∧ iFn 0x6B00886400080000 = 8 := by
  and_intros <;> decide +kernel

/-- Hypotheses of `Obligations.TileMatrix` that are met. -/
theorem met_tile_matrix :
    (∀ w ∈ [0x8000886400000000], Executes (codeCard w) 0 (iOpc w) w) ∧
    Executes (codeCard 0x84008864005F0000) 0 0x84 0x84008864005F0000 ∧ iFn 0x84008864005F0000 ≤ 95 ∧
    Executes (codeCard 0x8400886400600000) 0 0x84 0x8400886400600000 ∧ 95 < iFn 0x8400886400600000 ∧
    Executes (codeCard 0x8500886400000000) 0 0x85 0x8500886400000000 ∧ iFn 0x8500886400000000 ≤ 95 ∧
    Executes (codeCard 0x85008864007F0000) 0 0x85 0x85008864007F0000 ∧ 95 < iFn 0x85008864007F0000 ∧
    Executes (codeCard 0x8200848400010000) 0 0x82 0x8200848400010000 ∧ mnOk (tile (codeCard 0x8200848400010000) 0) = true ∧
    fld (tile (codeCard 0x8200848400010000) 0).ostride 21 0 % 16 = 0 ∧
    shapeN (tile (codeCard 0x8200848400010000) 0) * moveSize (iFn 0x8200848400010000) ≤ fld (tile (codeCard 0x8200848400010000) 0).ostride 21 0 ∧
    stripesIn (opB (codeCard 0x8200848400010000) 0 0x8200848400010000).toNat (fld (tile (codeCard 0x8200848400010000) 0).ostride 21 0) (shapeN (tile (codeCard 0x8200848400010000) 0) * moveSize (iFn 0x8200848400010000)) (shapeM (tile (codeCard 0x8200848400010000) 0)) = true ∧
    Executes (codeCard 0x8300906400000000) 0 0x83 0x8300906400000000 ∧ mnOk (tile (codeCard 0x8300906400000000) 0) = true ∧
    fld (tile (codeCard 0x8300906400000000) 0).ostride 21 0 % 16 = 0 ∧
    shapeN (tile (codeCard 0x8300906400000000) 0) * moveSize (iFn 0x8300906400000000) ≤ fld (tile (codeCard 0x8300906400000000) 0).ostride 21 0 ∧
    stripesIn (opA (codeCard 0x8300906400000000) 0 0x8300906400000000).toNat (fld (tile (codeCard 0x8300906400000000) 0).ostride 21 0) (shapeN (tile (codeCard 0x8300906400000000) 0) * moveSize (iFn 0x8300906400000000)) (shapeM (tile (codeCard 0x8300906400000000) 0)) = true ∧
    stripesBad (codeCard 0x8300906400000000) 0 (opA (codeCard 0x8300906400000000) 0 0x8300906400000000).toNat (fld (tile (codeCard 0x8300906400000000) 0).ostride 21 0) (shapeN (tile (codeCard 0x8300906400000000) 0) * moveSize (iFn 0x8300906400000000)) (shapeM (tile (codeCard 0x8300906400000000) 0)) = false ∧
    Executes (zeroShape 0x8200848400010000) 0 0x82 0x8200848400010000 ∧ mnOk (tile (zeroShape 0x8200848400010000) 0) = false ∧
    Executes (zeroShape 0x8300906400000000) 0 0x83 0x8300906400000000 ∧ mnOk (tile (zeroShape 0x8300906400000000) 0) = false ∧
    Executes (codeCard 0x8100808500000000) 0 0x81 0x8100808500000000 ∧ MmaOperands (codeCard 0x8100808500000000) 0 0x8100808500000000 ∧
    Executes (zeroShape 0x8100808500000000) 0 0x81 0x8100808500000000 ∧
    fmtPair (fmtA (zeroShape 0x8100808500000000) 0) (fmtB (zeroShape 0x8100808500000000) 0) = false := by
  and_intros <;> first | decide +kernel | (constructor <;> decide +kernel)

/-- Hypotheses of `Obligations.TileDma` that are met. -/
theorem met_tile_dma :
    Executes (codeCard 0x9000886400020000) 0 0x90 0x9000886400020000 ∧ (opC (codeCard 0x9000886400020000) 0 0x9000886400020000).toNat ≠ 0 ∧
    (opC (codeCard 0x9000886400020000) 0 0x9000886400020000).toNat ≤ 2 ^ 22 ∧ (tile (codeCard 0x9000886400020000) 0).dmas.length < 16 ∧
    nbit (iFn 0x9000886400020000) 5 = false ∧
    (opA (codeCard 0x9000886400020000) 0 0x9000886400020000).toNat + (opC (codeCard 0x9000886400020000) 0 0x9000886400020000).toNat ≤ 2 ^ 22 ∧
    Executes (codeCard 0x9000886400310000) 0 0x90 0x9000886400310000 ∧ (opC (codeCard 0x9000886400310000) 0 0x9000886400310000).toNat ≠ 0 ∧
    (opC (codeCard 0x9000886400310000) 0 0x9000886400310000).toNat ≤ 2 ^ 22 ∧ (tile (codeCard 0x9000886400310000) 0).dmas.length < 16 ∧
    nbit (iFn 0x9000886400310000) 5 = true ∧ (tile (codeCard 0x9000886400310000) 0).dcount.toNat ≠ 0 ∧
    (opA (codeCard 0x9000886400310000) 0 0x9000886400310000).toNat + ((tile (codeCard 0x9000886400310000) 0).dcount.toNat - 1) * (tile (codeCard 0x9000886400310000) 0).dtstride.toNat + (opC (codeCard 0x9000886400310000) 0 0x9000886400310000).toNat ≤ 2 ^ 22 ∧
    Executes (wideCode 0x9000886500000000) 0 0x90 0x9000886500000000 ∧
    2 ^ 22 < (opC (wideCode 0x9000886500000000) 0 0x9000886500000000).toNat ∧
    dmaOf burstCard 0 0 = some storeDma ∧ storeDma.burst = some storeBurst ∧ leavesDevice storeBurst.xfer.pieces = false ∧
    storeDma.toCtx = true ∧ (finishWrite burstCard (tileOwner burstCard 0) storeBurst.xfer storeBurst.bytes storeBurst.poison).2 = true ∧
    dmaOf burstCard 0 1 = some loadDma ∧ loadDma.burst = some loadBurst ∧ leavesDevice loadBurst.xfer.pieces = false ∧
    loadDma.toCtx = false ∧ recordsThere burstCard loadBurst.xfer.pieces = true ∧
    (finishRead burstCard (tileOwner burstCard 0) loadBurst.xfer (some [1, 2, 3, 4])).2 = .ok [1, 2, 3, 4] ∧
    dmaOf burstCard 0 2 = some badDma ∧ badDma.burst = some badBurst ∧ leavesDevice badBurst.xfer.pieces = false ∧ badDma.toCtx = false ∧
    recordsThere burstCard badBurst.xfer.pieces = true ∧
    (match (finishRead burstCard (tileOwner burstCard 0) badBurst.xfer none).2 with | .poison _ _ => true | _ => false) = true ∧
    dmaOf burstCard 0 3 = some waitDma ∧ waitDma.burst = none := by
  and_intros <;> decide +kernel

/-- Hypotheses of `Obligations.TileAtomics` that are met. -/
theorem met_tile_atomics :
    Executes (localCode 0x9100886400000000) 0 0x91 0x9100886400000000 ∧
    (opA (localCode 0x9100886400000000) 0 0x9100886400000000).toNat % 8 = 0 ∧
    (issue (localCode 0x9100886400000000) (tileOwner (localCode 0x9100886400000000) 0) (kCtx (localCode 0x9100886400000000) (tile (localCode 0x9100886400000000) 0).kernel) (opA (localCode 0x9100886400000000) 0 0x9100886400000000).toNat 8 0 { rd := true, wr := true, fabric := true }).2 = .ok localXfer ∧
    localXfer.pieces = [(.loc 0x200000, 8)] ∧ inAperture ((localCode 0x9100886400000000)).variant 0x200000 = false ∧
    (finishRead (issue (localCode 0x9100886400000000) (tileOwner (localCode 0x9100886400000000) 0) (kCtx (localCode 0x9100886400000000) (tile (localCode 0x9100886400000000) 0).kernel) (opA (localCode 0x9100886400000000) 0 0x9100886400000000).toNat 8 0 { rd := true, wr := true, fabric := true }).1 (tileOwner (localCode 0x9100886400000000) 0) localXfer none).2 = .ok (List.replicate 8 0) ∧
    (writePieces (finishRead (issue (localCode 0x9100886400000000) (tileOwner (localCode 0x9100886400000000) 0) (kCtx (localCode 0x9100886400000000) (tile (localCode 0x9100886400000000) 0).kernel) (opA (localCode 0x9100886400000000) 0 0x9100886400000000).toNat 8 0 { rd := true, wr := true, fabric := true }).1 (tileOwner (localCode 0x9100886400000000) 0) localXfer none).1 (tileOwner (localCode 0x9100886400000000) 0) localXfer.pieces (leBytes 8 (atomicNew (iFn 0x9100886400000000) (w64 (leNat (List.replicate 8 0))) (opB (localCode 0x9100886400000000) 0 0x9100886400000000) (opC (localCode 0x9100886400000000) 0 0x9100886400000000)).toNat) []).2 = true ∧
    Executes (busCode 0x9100886400000000) 0 0x91 0x9100886400000000 ∧
    (opA (busCode 0x9100886400000000) 0 0x9100886400000000).toNat % 8 = 0 ∧
    (issue (busCode 0x9100886400000000) (tileOwner (busCode 0x9100886400000000) 0) (kCtx (busCode 0x9100886400000000) (tile (busCode 0x9100886400000000) 0).kernel) (opA (busCode 0x9100886400000000) 0 0x9100886400000000).toNat 8 0 { rd := true, wr := true, fabric := true }).2 = .ok busXfer ∧
    busXfer.pieces = [(.bus 0 false 0, 8)] ∧ iFn 0x9100886400000000 < 3 ∧
    sealed (issue (busCode 0x9100886400000000) (tileOwner (busCode 0x9100886400000000) 0) (kCtx (busCode 0x9100886400000000) (tile (busCode 0x9100886400000000) 0).kernel) (opA (busCode 0x9100886400000000) 0 0x9100886400000000).toNat 8 0 { rd := true, wr := true, fabric := true }).1 (tileOwner (busCode 0x9100886400000000) 0) = false ∧
    Executes (codeCard 0x91008C6400000000) 0 0x91 0x91008C6400000000 ∧
    (opA (codeCard 0x91008C6400000000) 0 0x91008C6400000000).toNat % 8 ≠ 0 ∧
    (tile atomicCard 0).atomXfer.pieces ≠ [] ∧ (tile atomicCard 0).stopping = false ∧ (tile atomicCard 0).atomDest = some 3 := by
  and_intros <;> decide +kernel

/-- Hypotheses of `Obligations.TileMessages` that are met. -/
theorem met_tile_messages :
    Executes (sendCode 0xA000888500410000) 0 0xA0 0xA000888500410000 ∧ nfld 0xA000888500410000 21 20 = 0 ∧
    (opB (sendCode 0xA000888500410000) 0 0xA000888500410000).toNat < 256 ∧
    (opC (sendCode 0xA000888500410000) 0 0xA000888500410000).toNat ≠ 0 ∧
    (opC (sendCode 0xA000888500410000) 0 0xA000888500410000).toNat ≤ 512 ∧
    (opA (sendCode 0xA000888500410000) 0 0xA000888500410000).toNat % 8 = 0 ∧
    (opA (sendCode 0xA000888500410000) 0 0xA000888500410000).toNat + 8 * (opC (sendCode 0xA000888500410000) 0 0xA000888500410000).toNat ≤ 2 ^ 22 ∧
    anyPoison (sendCode 0xA000888500410000) (tileAddr 0 (opA (sendCode 0xA000888500410000) 0 0xA000888500410000).toNat) (8 * (opC (sendCode 0xA000888500410000) 0 0xA000888500410000).toNat) = false ∧
    msgRefused (sendCode 0xA000888500410000) (tileOwner (sendCode 0xA000888500410000) 0) (opB (sendCode 0xA000888500410000) 0 0xA000888500410000).toNat (sendCh 0xA000888500410000) = false ∧
    ((tile (sendCode 0xA000888500410000) 0).sends.filter (fun x => decide (x.kind = 0))).length < 8 ∧
    Executes (sendCode 0xA000886500410000) 0 0xA0 0xA000886500410000 ∧ nfld 0xA000886500410000 21 20 = 0 ∧
    (opB (sendCode 0xA000886500410000) 0 0xA000886500410000).toNat < 256 ∧
    (opC (sendCode 0xA000886500410000) 0 0xA000886500410000).toNat ≠ 0 ∧
    (opC (sendCode 0xA000886500410000) 0 0xA000886500410000).toNat ≤ 512 ∧
    (opA (sendCode 0xA000886500410000) 0 0xA000886500410000).toNat % 8 = 0 ∧
    (opA (sendCode 0xA000886500410000) 0 0xA000886500410000).toNat + 8 * (opC (sendCode 0xA000886500410000) 0 0xA000886500410000).toNat ≤ 2 ^ 22 ∧
    anyPoison (sendCode 0xA000886500410000) (tileAddr 0 (opA (sendCode 0xA000886500410000) 0 0xA000886500410000).toNat) (8 * (opC (sendCode 0xA000886500410000) 0 0xA000886500410000).toNat) = false ∧
    msgRefused (sendCode 0xA000886500410000) (tileOwner (sendCode 0xA000886500410000) 0) (opB (sendCode 0xA000886500410000) 0 0xA000886500410000).toNat (sendCh 0xA000886500410000) = true ∧
    Executes (apertureCode 0xA000888500510000) 0 0xA0 0xA000888500510000 ∧ nfld 0xA000888500510000 21 20 = 1 ∧
    (opC (apertureCode 0xA000888500510000) 0 0xA000888500510000).toNat ≠ 0 ∧
    (opC (apertureCode 0xA000888500510000) 0 0xA000888500510000).toNat ≤ 512 ∧
    (opA (apertureCode 0xA000888500510000) 0 0xA000888500510000).toNat % 8 = 0 ∧
    (opA (apertureCode 0xA000888500510000) 0 0xA000888500510000).toNat + 8 * (opC (apertureCode 0xA000888500510000) 0 0xA000888500510000).toNat ≤ 2 ^ 22 ∧
    anyPoison (apertureCode 0xA000888500510000) (tileAddr 0 (opA (apertureCode 0xA000888500510000) 0 0xA000888500510000).toNat) (8 * (opC (apertureCode 0xA000888500510000) 0 0xA000888500510000).toNat) = false ∧
    (dmaXlate (apertureCode 0xA000888500510000) (tileOwner (apertureCode 0xA000888500510000) 0) (kCtx (apertureCode 0xA000888500510000) (tile (apertureCode 0xA000888500510000) 0).kernel) (opB (apertureCode 0xA000888500510000) 0 0xA000888500510000).toNat 1 { wr := true, fabric := true }).2 = .ok [(.loc 0x80F000001100, 1)] ∧
    inAperture (apertureCode 0xA000888500510000).variant 0x80F000001100 = true ∧
    msgRefused (dmaXlate (apertureCode 0xA000888500510000) (tileOwner (apertureCode 0xA000888500510000) 0) (kCtx (apertureCode 0xA000888500510000) (tile (apertureCode 0xA000888500510000) 0).kernel) (opB (apertureCode 0xA000888500510000) 0 0xA000888500510000).toNat 1 { wr := true, fabric := true }).1 (tileOwner (dmaXlate (apertureCode 0xA000888500510000) (tileOwner (apertureCode 0xA000888500510000) 0) (kCtx (apertureCode 0xA000888500510000) (tile (apertureCode 0xA000888500510000) 0).kernel) (opB (apertureCode 0xA000888500510000) 0 0xA000888500510000).toNat 1 { wr := true, fabric := true }).1 0) (apertureOf 0x80F000001100).1 (apertureOf 0x80F000001100).2 = false ∧
    ((tile (apertureCode 0xA000888500510000) 0).sends.filter (fun x => decide (x.kind = 0))).length < 8 ∧
    Executes (fabricCode 0xA000888500510000) 0 0xA0 0xA000888500510000 ∧ nfld 0xA000888500510000 21 20 = 1 ∧
    (opC (fabricCode 0xA000888500510000) 0 0xA000888500510000).toNat ≠ 0 ∧
    (opC (fabricCode 0xA000888500510000) 0 0xA000888500510000).toNat ≤ 512 ∧
    (opA (fabricCode 0xA000888500510000) 0 0xA000888500510000).toNat % 8 = 0 ∧
    (opA (fabricCode 0xA000888500510000) 0 0xA000888500510000).toNat + 8 * (opC (fabricCode 0xA000888500510000) 0 0xA000888500510000).toNat ≤ 2 ^ 22 ∧
    anyPoison (fabricCode 0xA000888500510000) (tileAddr 0 (opA (fabricCode 0xA000888500510000) 0 0xA000888500510000).toNat) (8 * (opC (fabricCode 0xA000888500510000) 0 0xA000888500510000).toNat) = false ∧
    (dmaXlate (fabricCode 0xA000888500510000) (tileOwner (fabricCode 0xA000888500510000) 0) (kCtx (fabricCode 0xA000888500510000) (tile (fabricCode 0xA000888500510000) 0).kernel) (opB (fabricCode 0xA000888500510000) 0 0xA000888500510000).toNat 1 { wr := true, fabric := true }).2 = .ok [(.fab 0x0003000000000000, 1)] ∧
    chanOpen (dmaXlate (fabricCode 0xA000888500510000) (tileOwner (fabricCode 0xA000888500510000) 0) (kCtx (fabricCode 0xA000888500510000) (tile (fabricCode 0xA000888500510000) 0).kernel) (opB (fabricCode 0xA000888500510000) 0 0xA000888500510000).toNat 1 { wr := true, fabric := true }).1 (fabChannel 0x0003000000000000) = true ∧
    Executes (replyCode 0xA000904500610000) 0 0xA0 0xA000904500610000 ∧ nfld 0xA000904500610000 21 20 = 2 ∧
    (opC (replyCode 0xA000904500610000) 0 0xA000904500610000).toNat ≤ 2 ^ 24 ∧
    fld (opB (replyCode 0xA000904500610000) 0 0xA000904500610000) 13 0 = (tile (replyCode 0xA000904500610000) 0).handle ∧
    (dmaXlate (replyCode 0xA000904500610000) (tileOwner (replyCode 0xA000904500610000) 0) (kCtx (replyCode 0xA000904500610000) (tile (replyCode 0xA000904500610000) 0).kernel) (opA (replyCode 0xA000904500610000) 0 0xA000904500610000).toNat (opC (replyCode 0xA000904500610000) 0 0xA000904500610000).toNat { rd := true }).2 = .ok [(.loc 0x201000, 64)] ∧
    piecesOwned (dmaXlate (replyCode 0xA000904500610000) (tileOwner (replyCode 0xA000904500610000) 0) (kCtx (replyCode 0xA000904500610000) (tile (replyCode 0xA000904500610000) 0).kernel) (opA (replyCode 0xA000904500610000) 0 0xA000904500610000).toNat (opC (replyCode 0xA000904500610000) 0 0xA000904500610000).toNat { rd := true }).1 (tileOwner (replyCode 0xA000904500610000) 0) [(.loc 0x201000, 64)] = true ∧
    invocation (dmaXlate (replyCode 0xA000904500610000) (tileOwner (replyCode 0xA000904500610000) 0) (kCtx (replyCode 0xA000904500610000) (tile (replyCode 0xA000904500610000) 0).kernel) (opA (replyCode 0xA000904500610000) 0 0xA000904500610000).toNat (opC (replyCode 0xA000904500610000) 0 0xA000904500610000).toNat { rd := true }).1 (tile (replyCode 0xA000904500610000) 0).handle = some replyInv ∧
    (opC (replyCode 0xA000904500610000) 0 0xA000904500610000).toNat ≤ replyInv.replyMax ∧ replyInv.reply = none ∧ replyInv.status = none ∧
    Executes (shortCode 0xA000904500610000) 0 0xA0 0xA000904500610000 ∧ nfld 0xA000904500610000 21 20 = 2 ∧
    (opC (shortCode 0xA000904500610000) 0 0xA000904500610000).toNat ≤ 2 ^ 24 ∧
    fld (opB (shortCode 0xA000904500610000) 0 0xA000904500610000) 13 0 = (tile (shortCode 0xA000904500610000) 0).handle ∧
    (dmaXlate (shortCode 0xA000904500610000) (tileOwner (shortCode 0xA000904500610000) 0) (kCtx (shortCode 0xA000904500610000) (tile (shortCode 0xA000904500610000) 0).kernel) (opA (shortCode 0xA000904500610000) 0 0xA000904500610000).toNat (opC (shortCode 0xA000904500610000) 0 0xA000904500610000).toNat { rd := true }).2 = .ok [(.loc 0x201000, 64)] ∧
    piecesOwned (dmaXlate (shortCode 0xA000904500610000) (tileOwner (shortCode 0xA000904500610000) 0) (kCtx (shortCode 0xA000904500610000) (tile (shortCode 0xA000904500610000) 0).kernel) (opA (shortCode 0xA000904500610000) 0 0xA000904500610000).toNat (opC (shortCode 0xA000904500610000) 0 0xA000904500610000).toNat { rd := true }).1 (tileOwner (shortCode 0xA000904500610000) 0) [(.loc 0x201000, 64)] = true ∧
    invocation (dmaXlate (shortCode 0xA000904500610000) (tileOwner (shortCode 0xA000904500610000) 0) (kCtx (shortCode 0xA000904500610000) (tile (shortCode 0xA000904500610000) 0).kernel) (opA (shortCode 0xA000904500610000) 0 0xA000904500610000).toNat (opC (shortCode 0xA000904500610000) 0 0xA000904500610000).toNat { rd := true }).1 (tile (shortCode 0xA000904500610000) 0).handle = some shortInv ∧
    shortInv.replyMax < (opC (shortCode 0xA000904500610000) 0 0xA000904500610000).toNat ∧
    Executes (codeCard 0xA000906500610000) 0 0xA0 0xA000906500610000 ∧ nfld 0xA000906500610000 21 20 = 2 ∧
    (opC (codeCard 0xA000906500610000) 0 0xA000906500610000).toNat ≤ 2 ^ 24 ∧
    fld (opB (codeCard 0xA000906500610000) 0 0xA000906500610000) 13 0 ≠ (tile (codeCard 0xA000906500610000) 0).handle ∧
    (tile enqueueCard 0).sends.find? (fun x => decide (x.id = 5 ∧ x.kind = 0)) = some oneSend ∧
    ((tile enqueueCard 0).sends.find? (fun x => decide (x.kind = 0 ∧ x.target = oneSend.target ∧ x.ch = oneSend.ch))).map (·.id) = some 5 ∧
    msgRefused enqueueCard (tileOwner enqueueCard 0) oneSend.target oneSend.ch = false ∧
    (chanReserve enqueueCard (tileQ oneSend.target oneSend.ch) oneSend.words.length).isSome = true ∧
    Executes (busyCode 0xA100886400010000) 0 0xA1 0xA100886400010000 ∧
    chanBarred (busyCode 0xA100886400010000) 0 (iFn 0xA100886400010000) = false ∧
    0 < readable (busyCode 0xA100886400010000) 0 (iFn 0xA100886400010000) ∧
    (chanTake (busyCode 0xA100886400010000) 0 (iFn 0xA100886400010000) false).2.tag ≠ 2 ∧
    Executes (busyCode 0xA100886400000000) 0 0xA1 0xA100886400000000 ∧
    chanBarred (busyCode 0xA100886400000000) 0 (iFn 0xA100886400000000) = false ∧
    readable (busyCode 0xA100886400000000) 0 (iFn 0xA100886400000000) = 0 ∧
    Executes (busyCode 0xA20088C400010000) 0 0xA2 0xA20088C400010000 ∧
    chanBarred (busyCode 0xA20088C400010000) 0 (iFn 0xA20088C400010000) = false ∧
    (opB (busyCode 0xA20088C400010000) 0 0xA20088C400010000).toNat ≠ 0 ∧
    (opB (busyCode 0xA20088C400010000) 0 0xA20088C400010000).toNat ≤ 65536 ∧
    (opA (busyCode 0xA20088C400010000) 0 0xA20088C400010000).toNat % 8 = 0 ∧
    (opA (busyCode 0xA20088C400010000) 0 0xA20088C400010000).toNat + 8 * (opB (busyCode 0xA20088C400010000) 0 0xA20088C400010000).toNat ≤ 2 ^ 22 ∧
    (tile (busyCode 0xA20088C400010000) 0).recvmDone ≤ (opB (busyCode 0xA20088C400010000) 0 0xA20088C400010000).toNat ∧
    (opB (busyCode 0xA20088C400010000) 0 0xA20088C400010000).toNat - (tile (busyCode 0xA20088C400010000) 0).recvmDone ≤ readable (busyCode 0xA20088C400010000) 0 (iFn 0xA20088C400010000) ∧
    (recvWords (busyCode 0xA20088C400010000) 0 (iFn 0xA20088C400010000) false ((opB (busyCode 0xA20088C400010000) 0 0xA20088C400010000).toNat - (tile (busyCode 0xA20088C400010000) 0).recvmDone) ((opA (busyCode 0xA20088C400010000) 0 0xA20088C400010000).toNat + 8 * (tile (busyCode 0xA20088C400010000) 0).recvmDone)).2 = false ∧
    Executes (busyCode 0xA300886400010000) 0 0xA3 0xA300886400010000 ∧
    chanBarred (busyCode 0xA300886400010000) 0 (iFn 0xA300886400010000) = false ∧
    Executes (barredCode 0xA300886400010000) 0 0xA3 0xA300886400010000 ∧
    chanBarred (barredCode 0xA300886400010000) 0 (iFn 0xA300886400010000) = true := by
  and_intros <;> decide +kernel

/-- Hypotheses of `Obligations.StepRunsTheFrontCommand` that are met. -/
theorem met_step_runs_the_front_command :
    ({ State.reset with pending := [.mainPowerReturn] }).pending = [.mainPowerReturn] ∧
    State.reset.pending = [] ∧ State.reset.atu.ready = [] ∧
    readyWork.pending = [] ∧ readyWork.atu.ready = [.laneLater 0] := by
  and_intros <;> decide +kernel

/-- Hypotheses of `Obligations.QueueAndVariantKept` that are met. -/
theorem met_queue_and_variant_kept :
    ∃ t, exec .mainPowerReturn State.reset = .next t := by
  and_intros <;> first | exact ⟨_, rfl⟩ | decide +kernel

/-- Hypotheses of `Obligations.StepKeepsCanonicalForms` that are met. -/
theorem met_step_keeps_canonical_forms :
    Canon State.reset ∧
    (∃ t, step State.reset = .next t) := by
  and_intros <;> first | exact ⟨_, rfl⟩ | (constructor <;> decide +kernel) | decide +kernel

/-- Hypotheses of `Obligations.FusesOneWay` that are met. -/
theorem met_fuses_one_way :
    ∃ t, step { trialCard with pending := [.cicConfirm .host { }] } = .next t := by
  and_intros <;> first | exact ⟨_, rfl⟩ | decide +kernel

/-- Hypotheses of `Obligations.CommandsChangeOnlyTheirParts` that are met. -/
theorem met_commands_change_only_their_parts :
    Part.flash ∉ mayChange .standbyPowerUp ∧
    exec .standbyPowerUp State.reset = .next { State.reset with pw := { State.reset.pw with stby := true }, boot := { State.reset.boot with dead := false, prev := 0x01 } } := by
  and_intros <;> first | decide +kernel | rfl

/-- Hypotheses of `Obligations.MemoryReadAfterWrite` that are met. -/
theorem met_memory_read_after_write :
    Memory.wf State.reset = true ∧
    ¬ (tileAddr 159 64 ≤ tileAddr 159 68 ∧ tileAddr 159 68 < tileAddr 159 64 + [(1 : Byte), 2, 3, 4].length) := by
  and_intros <;> decide +kernel

/-- Hypotheses of `Obligations.RegisterReadAfterWrite` that are met. -/
theorem met_register_read_after_write :
    (1 : Nat) ≠ 2 ∨ 0 % 2 ^ 32 ≠ 0 % 2 ^ 32 ∧
    (1 : Nat) ≠ 2 ∧
    (7 : Nat) < 8 ∧
    (0 : Nat) < 8 ∧ 7 < 8 ∧ 7 ≠ 0 ∧
    (List.replicate 128 (0 : W32)).length = 128 ∧ 127 < 128 ∧
    (List.replicate 128 (0 : W32)).length = 128 ∧ 1 ≠ 0 ∧ 127 < 128 ∧
    (1 : Nat) ≠ 0 := by
  and_intros <;> decide +kernel

/-- Hypotheses of `Obligations.TileIssueRules` that are met. -/
theorem met_tile_issue_rules :
    TileInstr 0 0x0000000000000001 (.tNop 0) ∧ Fetched (codeCard 0x0000000000000001) 0 0x0000000000000001 ∧
    wordIllegal 0x0000000000000001 = true ∧
    TileInstr 0 0xA000886400300000 (.tSendReply 0) ∧ Fetched (codeCard 0xA000886400300000) 0 0xA000886400300000 ∧
    wordIllegal 0xA000886400300000 = true ∧
    TileInstr 0 0x0080000000000000 (.tNop 0) ∧ Fetched (codeCard 0x0080000000000000) 0 0x0080000000000000 ∧
    wordIllegal 0x0080000000000000 = false ∧
    pReg (tile (codeCard 0x0080000000000000) 0) (nfld 0x0080000000000000 54 52) = nbit 0x0080000000000000 55 ∧
    TileInstr 0 0 (.tNop 0) ∧ issues (tile State.reset 0) = false ∧
    TileInstr 0 0 (.tNop 0) ∧ issues (tile farCode 0) = true ∧ nearBytes ≤ (tile farCode 0).pc ∧
    TileInstr 0 0 (.tNop 0) ∧ issues (tile poisonCode 0) = true ∧ (tile poisonCode 0).pc < nearBytes ∧
    anyPoison poisonCode (tileAddr 0 (tile poisonCode 0).pc) 8 = true ∧
    fmtOf (iOpc 0xFF00000000000000) = none := by
  and_intros <;> first | decide +kernel | exact Or.inl ⟨rfl, rfl⟩ | (simp only [TileInstr, reduceCtorEq, false_and, false_or, exists_const, true_and]; decide +kernel)

/-- Hypotheses of `Obligations.RegisterWrites` that are met. -/
theorem met_register_writes :
    hostUp State.reset = false ∨ fnExists State.reset 0 = false ∧
    RegisterAt upCard 0 Reg.TPE_RTO_FAB 4 Reg.TPE_RTO_FAB .whole ∧ blockAlive runCard (Reg.TPE_RTO_FAB / 2 ^ 20) = true ∧
    txRow Reg.TPE_RTO_FAB = none ∧ (rwRow Reg.TPE_RTO_FAB).isSome = true ∧ Reg.TPE_RTO_FAB ≠ Reg.FEV_CLS_SEL ∧
    RegisterAt runCard 0 Reg.FRT_DIM 4 Reg.FRT_DIM .whole ∧ blockAlive runCard (Reg.FRT_DIM / 2 ^ 20) = true ∧
    (txRow Reg.FRT_DIM).isSome = true ∧
    RegisterAt minimalCard 0 Reg.TPE_RTO_FAB 4 Reg.TPE_RTO_FAB .whole ∧ blockAlive minimalCard (Reg.TPE_RTO_FAB / 2 ^ 20) = false ∧
    RegisterAt upCard 0 Reg.WQM_QRING 4 Reg.WQM_QRING .low ∧
    RegisterAt lowCard 0 (Reg.WQM_QRING + 4) 4 Reg.WQM_QRING .high ∧ (fnGet lowCard 0).held = some (Reg.WQM_QRING, 7) ∧
    hostUp upCard = true ∧ fnExists upCard 0 = true ∧ 511 < vecCount upCard 0 ∧
    ¬ (0x8000 ≤ 2 ∧ 2 < 0x8000 + 16 * vecCount upCard 0) ∧ (pfOffset 0 2).bind (fun o => reach o 4) = none := by
  and_intros <;> first | decide +kernel | (constructor <;> decide +kernel)

/-- Hypotheses of `Obligations.CompletionTimeouts` that are met. -/
theorem met_completion_timeouts :
    (grp timeoutCard 0).st = 1 ∧
    (streamOf cryptRun 0 0).isSome = true ∧
    timeoutCard.cic.hostBusy = true := by
  and_intros <;> decide +kernel

/-- Hypotheses of `Obligations.DoorbellDiscardsHeldSlot` that are met. -/
theorem met_doorbell_discards_held_slot :
    hostUp slotCard = true ∧ fnExists slotCard 0 = true ∧ 0 = 0 ∧ (4 = 4 ∨ 4 = 8) ∧ queueOf slotCard 0 0 = some 0 ∧
    queueTakes slotCard 0 (some 0) = true ∧ (queue slotCard 0).slot ≠ [] := by
  and_intros <;> decide +kernel

/-- Hypotheses of `Obligations.RouteDirections` that are met. -/
theorem met_route_directions :
    coord 0x0A3 1 < dimSize State.reset 1 ∧ coord (ownNode State.reset) 1 < dimSize State.reset 1 ∧
    coord 0x003 0 < dimSize State.reset 0 ∧ coord (ownNode State.reset) 0 < dimSize State.reset 0 ∧
    coord 0x800 2 < dimSize State.reset 2 ∧ coord (ownNode State.reset) 2 < dimSize State.reset 2 ∧
    dimSize State.reset 0 = 16 ∧ dimSize State.reset 1 = 16 ∧ dimSize State.reset 2 = 16 := by
  and_intros <;> decide +kernel

/-- Hypotheses of `Obligations.AbsentUnitRegisters` that are met. -/
theorem met_absent_unit_registers :
    tileCount ({ State.reset with variant := .tcn9404 } : State).variant = 0 ∧ Reg.TGD_CDEPTH / 2 ^ 20 = 9 ∧
    tileCount noTiles.variant = 0 ∧ RegisterAt noTiles 0 Reg.TGD_CDEPTH 4 Reg.TGD_CDEPTH .whole ∧ Reg.TGD_CDEPTH / 2 ^ 20 = 9 := by
  and_intros <;> first | decide +kernel | (constructor <;> decide +kernel)

end Sys2Proof.Tests
end

section
/-! PROOFS. Every command answers a next state and keeps what `Keeps` says; every step keeps the canonical forms. O47, O48, O49. -/
namespace Sys2Proof.Proofs
open Sys2Proof.Machine Sys2Proof.Safety Sys2Proof.Laws

/-! ### What every command and every step keeps -/

/-- The bit of `Keeps` that stands for a part of the state. -/
def partBit : Safety.Part → Nat
  | .time => 1 | .draws => 2 | .power => 4 | .boot => 5 | .flash => 6 | .fuses => 7 | .cicada => 8 | .functions => 9 | .owners => 10
  | .queueLocal => 11 | .commits => 12 | .hif => 13 | .sqm => 14 | .firefly => 15 | .memControl => 16 | .translation => 17 | .queues => 18
  | .transport => 19 | .router => 20 | .ethPorts => 21 | .lanes => 22 | .scarab => 23 | .grid => 24 | .cipher => 25 | .credits => 26
  | .tenants => 27 | .rsp => 28 | .sent => 29 | .regs u => 32 + u.val | .memory => 48

/-- A list of parts as the set of `Keeps`, where the registers of all units together are bit 3. -/
def partSet (l : List Safety.Part) : Nat :=
  l.foldr (fun p m => m ||| 2 ^ partBit p) (if anyRegs.all l.contains then 2 ^ 3 else 0)

/-- Every command keeps what `Keeps` says, the parts that `mayChange` names apart. -/
theorem exec_keeps (i : Instr) (s : State) : KN (partSet (mayChange i)) s (exec i s) := by
  cases i <;> dsimp only [mayChange]
  case standbyPowerUp => exact execStandbyPowerUp_keeps _ (keeps_refl _ _) rfl
  case standbyPowerLoss => exact execStandbyPowerLoss_keeps _ (keeps_refl _ _) rfl
  case mgReset => exact execMgReset_keeps _ (keeps_refl _ _) rfl
  case rspSelfTestDone => exact execRspSelfTestDone_keeps _ _ _ _ _ _ _ (keeps_refl _ _) rfl
  case electionTimeout => exact execElectionTimeout_keeps _ (keeps_refl _ _) rfl
  case primaryFailure => exact execPrimaryFailure_keeps _ _ (keeps_refl _ _) rfl
  case crossingHang => exact execCrossingHang_keeps _ _ (keeps_refl _ _) rfl
  case powerSample => exact execPowerSample_keeps _ _ _ _ (keeps_refl _ _) rfl
  case powerEvaluation => exact execPowerEvaluation_keeps _ (keeps_refl _ _) rfl
  case powerCapFault => exact execPowerCapFault_keeps _ (keeps_refl _ _) rfl
  case powerUndo => exact execPowerUndo_keeps _ (keeps_refl _ _) rfl
  case thermalSample => exact execThermalSample_keeps _ _ _ _ _ _ _ (keeps_refl _ _) rfl
  case inletOvertempTimeout => exact execInletOvertempTimeout_keeps _ (keeps_refl _ _) rfl
  case undervoltageTrip => exact execUndervoltageTrip_keeps _ (keeps_refl _ _) rfl
  case overcurrentTrip => exact execOvercurrentTrip_keeps _ (keeps_refl _ _) rfl
  case mainPowerLoss => exact execMainPowerLoss_keeps _ (keeps_refl _ _) rfl
  case mainPowerReturn => exact execMainPowerReturn_keeps _ (keeps_refl _ _) rfl
  case mainDomainGood => exact execMainDomainGood_keeps _ _ (keeps_refl _ _) rfl
  case perstAssert => exact execPerstAssert_keeps _ (keeps_refl _ _) rfl
  case perstDeassert => exact execPerstDeassert_keeps _ (keeps_refl _ _) rfl
  case memoryTrained => exact execMemoryTrained_keeps _ _ (keeps_refl _ _) rfl
  case bootScrubDone => exact execBootScrubDone_keeps _ _ _ _ _ _ (keeps_refl _ _) rfl
  case unitsReady => exact execUnitsReady_keeps _ _ _ (keeps_refl _ _) rfl
  case bootTimeout => exact execBootTimeout_keeps _ (keeps_refl _ _) rfl
  case numvfsWrite => exact execNumvfsWrite_keeps _ _ (keeps_refl _ _) rfl
  case vfEnableSet => exact execVfEnableSet_keeps _ (keeps_refl _ _) rfl
  case vfEnableClear => exact execVfEnableClear_keeps _ (keeps_refl _ _) rfl
  case vfFlr => exact execVfFlr_keeps _ _ (keeps_refl _ _) rfl
  case pfFlr => exact execPfFlr_keeps _ (keeps_refl _ _) rfl
  case windowWrite => exact execWindowWrite_keeps _ _ _ _ (keeps_refl _ _) rfl
  case windowRead => exact execWindowRead_keeps _ _ _ _ _ (keeps_refl _ _) rfl
  case winCtxWrite => exact execWinCtxWrite_keeps _ _ _ (keeps_refl _ _) rfl
  case dataPortWrite => exact execDataPortWrite_keeps _ _ _ _ (keeps_refl _ _) rfl
  case dataPortRead => exact execDataPortRead_keeps _ _ _ _ _ (keeps_refl _ _) rfl
  case dataPortCtxWrite => exact execDataPortCtxWrite_keeps _ _ _ (keeps_refl _ _) rfl
  case dataPortCommit => exact execDataPortCommit_keeps _ _ _ (keeps_refl _ _) rfl
  case prefetchFill => exact execPrefetchFill_keeps _ _ _ _ _ _ (keeps_refl _ _) rfl
  case doorbell => exact execDoorbell_keeps _ _ _ _ _ _ (keeps_refl _ _) rfl
  case inlineSlotWrite => exact execInlineSlotWrite_keeps _ _ _ _ _ (keeps_refl _ _) rfl
  case inlineWaitRelease => exact execInlineWaitRelease_keeps _ _ (keeps_refl _ _) rfl
  case msixUnmask => exact execMsixUnmask_keeps _ _ _ (keeps_refl _ _) rfl
  case abiAgree => exact execAbiAgree_keeps _ _ _ (keeps_refl _ _) rfl
  case wqmDoorbellTake => exact execWqmDoorbellTake_keeps _ _ (keeps_refl _ _) rfl
  case ringReadComplete => exact execRingReadComplete_keeps _ _ _ _ (keeps_refl _ _) rfl
  case refetchTimer => exact execRefetchTimer_keeps _ _ _ (keeps_refl _ _) rfl
  case fragmentTableRead => exact execFragmentTableRead_keeps _ _ _ _ (keeps_refl _ _) rfl
  case entryStart => exact execEntryStart_keeps _ _ _ (keeps_refl _ _) rfl
  case entryFinish => exact execEntryFinish_keeps _ _ _ (keeps_refl _ _) rfl
  case headWriteComplete => exact execHeadWriteComplete_keeps _ _ (keeps_refl _ _) rfl
  case queueIrqTimer => exact execQueueIrqTimer_keeps _ _ (keeps_refl _ _) rfl
  case queueSelect => exact execQueueSelect_keeps _ _ _ (keeps_refl _ _) rfl
  case queueEnable => exact execQueueEnable_keeps _ _ _ (keeps_refl _ _) rfl
  case queueDisable => exact execQueueDisable_keeps _ _ _ (keeps_refl _ _) rfl
  case queueFlush => exact execQueueFlush_keeps _ _ _ (keeps_refl _ _) rfl
  case queueConfigWrite => exact execQueueConfigWrite_keeps _ _ _ _ (keeps_refl _ _) rfl
  case vWrite => exact execVWrite_keeps _ _ _ (keeps_refl _ _) rfl
  case vRead => exact execVRead_keeps _ _ _ (keeps_refl _ _) rfl
  case vSend => exact execVSend_keeps _ _ _ (keeps_refl _ _) rfl
  case vAtomic => exact execVAtomic_keeps _ _ _ (keeps_refl _ _) rfl
  case vReduceWrite => exact execVReduceWrite_keeps _ _ _ (keeps_refl _ _) rfl
  case vGatherReduce => exact execVGatherReduce_keeps _ _ _ (keeps_refl _ _) rfl
  case vInvoke => exact execVInvoke_keeps _ _ _ (keeps_refl _ _) rfl
  case invokeTimeout => exact execInvokeTimeout_keeps _ _ _ (keeps_refl _ _) rfl
  case vCollective => exact execVCollective_keeps _ _ _ (keeps_refl _ _) rfl
  case vCrypt => exact execVCrypt_keeps _ _ _ (keeps_refl _ _) rfl
  case vInvalidate => exact execVInvalidate_keeps _ _ _ (keeps_refl _ _) rfl
  case invalidateDrainDone => exact execInvalidateDrainDone_keeps _ _ _ (keeps_refl _ _) rfl
  case vFence => exact execVFence_keeps _ _ _ (keeps_refl _ _) rfl
  case vRegister => exact execVRegister_keeps _ _ _ (keeps_refl _ _) rfl
  case vRevoke => exact execVRevoke_keeps _ _ _ (keeps_refl _ _) rfl
  case tenantActivate => exact execTenantActivate_keeps _ _ _ (keeps_refl _ _) rfl
  case tenantTeardown => exact execTenantTeardown_keeps _ _ _ (keeps_refl _ _) rfl
  case tenantQuery => exact execTenantQuery_keeps _ _ _ (keeps_refl _ _) rfl
  case recvPost => exact execRecvPost_keeps _ _ _ (keeps_refl _ _) rfl
  case contextRootWrite => exact execContextRootWrite_keeps _ _ _ (keeps_refl _ _) rfl
  case contextValidSet => exact execContextValidSet_keeps _ _ _ (keeps_refl _ _) rfl
  case contextValidClear => exact execContextValidClear_keeps _ _ _ (keeps_refl _ _) rfl
  case fabricEnWrite => exact execFabricEnWrite_keeps _ _ _ (keeps_refl _ _) rfl
  case tableWalkComplete => exact execTableWalkComplete_keeps _ _ _ _ (keeps_refl _ _) rfl
  case regionCacheTimeout => exact execRegionCacheTimeout_keeps _ (keeps_refl _ _) rfl
  case qpConfigWrite => exact execQpConfigWrite_keeps _ _ _ _ (keeps_refl _ _) rfl
  case qpConnect => exact execQpConnect_keeps _ _ _ (keeps_refl _ _) rfl
  case qpClose => exact execQpClose_keeps _ _ _ (keeps_refl _ _) rfl
  case qpReset => exact execQpReset_keeps _ _ _ (keeps_refl _ _) rfl
  case connectRetryTimer => exact execConnectRetryTimer_keeps _ _ (keeps_refl _ _) rfl
  case connectTimeout => exact execConnectTimeout_keeps _ _ (keeps_refl _ _) rfl
  case connectReqReceive => exact execConnectReqReceive_keeps _ _ (keeps_refl _ _) rfl
  case connectAccReceive => exact execConnectAccReceive_keeps _ _ (keeps_refl _ _) rfl
  case connectRejReceive => exact execConnectRejReceive_keeps _ _ (keeps_refl _ _) rfl
  case connectCloseReceive => exact execConnectCloseReceive_keeps _ _ (keeps_refl _ _) rfl
  case closeAckReceive => exact execCloseAckReceive_keeps _ _ (keeps_refl _ _) rfl
  case closingTimeout => exact execClosingTimeout_keeps _ _ (keeps_refl _ _) rfl
  case channelIdleTimeout => exact execChannelIdleTimeout_keeps _ _ (keeps_refl _ _) rfl
  case contextFetchComplete => exact execContextFetchComplete_keeps _ _ (keeps_refl _ _) rfl
  case coreSliceEnd => exact execCoreSliceEnd_keeps _ _ (keeps_refl _ _) rfl
  case transportCoreFailure => exact execTransportCoreFailure_keeps _ _ (keeps_refl _ _) rfl
  case sourceReadComplete => exact execSourceReadComplete_keeps _ _ _ (keeps_refl _ _) rfl
  case headsReceive => exact execHeadsReceive_keeps _ _ (keeps_refl _ _) rfl
  case dataCellReceive => exact execDataCellReceive_keeps _ _ (keeps_refl _ _) rfl
  case earlyCellTimeout => exact execEarlyCellTimeout_keeps _ _ _ (keeps_refl _ _) rfl
  case cellPlacement => exact execCellPlacement_keeps _ _ _ _ _ _ (keeps_refl _ _) rfl
  case orderedHeadExecute => exact execOrderedHeadExecute_keeps _ _ _ _ (keeps_refl _ _) rfl
  case abortHeadReceive => exact execAbortHeadReceive_keeps _ _ (keeps_refl _ _) rfl
  case ackDelayTimer => exact execAckDelayTimer_keeps _ _ (keeps_refl _ _) rfl
  case ackReceive => exact execAckReceive_keeps _ _ (keeps_refl _ _) rfl
  case rtoExpiry => exact execRtoExpiry_keeps _ _ _ (keeps_refl _ _) rfl
  case rnrWaitTimer => exact execRnrWaitTimer_keeps _ _ (keeps_refl _ _) rfl
  case responseCellReceive => exact execResponseCellReceive_keeps _ _ (keeps_refl _ _) rfl
  case replyReceive => exact execReplyReceive_keeps _ _ (keeps_refl _ _) rfl
  case atomicopComplete => exact execAtomicopComplete_keeps _ _ _ (keeps_refl _ _) rfl
  case responseCacheExpiry => exact execResponseCacheExpiry_keeps _ _ _ _ (keeps_refl _ _) rfl
  case fabricAccessReceive => exact execFabricAccessReceive_keeps _ _ (keeps_refl _ _) rfl
  case mirrorWriteTimer => exact execMirrorWriteTimer_keeps _ (keeps_refl _ _) rfl
  case mirrorFlushComplete => exact execMirrorFlushComplete_keeps _ _ _ (keeps_refl _ _) rfl
  case heartbeatTimeout => exact execHeartbeatTimeout_keeps _ _ (keeps_refl _ _) rfl
  case handoffRecordSeen => exact execHandoffRecordSeen_keeps _ _ _ (keeps_refl _ _) rfl
  case takenRecordSeen => exact execTakenRecordSeen_keeps _ _ (keeps_refl _ _) rfl
  case peerFlushComplete => exact execPeerFlushComplete_keeps _ _ _ (keeps_refl _ _) rfl
  case creditGrantReceive => exact execCreditGrantReceive_keeps _ _ _ _ _ (keeps_refl _ _) rfl
  case creditDemandReceive => exact execCreditDemandReceive_keeps _ _ _ (keeps_refl _ _) rfl
  case grantIssue => exact execGrantIssue_keeps _ _ (keeps_refl _ _) rfl
  case grantExpiry => exact execGrantExpiry_keeps _ _ _ (keeps_refl _ _) rfl
  case grantReclaimTimer => exact execGrantReclaimTimer_keeps _ _ _ (keeps_refl _ _) rfl
  case demandRepeatTimer => exact execDemandRepeatTimer_keeps _ _ (keeps_refl _ _) rfl
  case creditTimeout => exact execCreditTimeout_keeps _ _ _ (keeps_refl _ _) rfl
  case schedulerPick => exact execSchedulerPick_keeps _ _ (keeps_refl _ _) rfl
  case shaperRefill => exact execShaperRefill_keeps _ (keeps_refl _ _) rfl
  case capacityFactorApply => exact execCapacityFactorApply_keeps _ _ (keeps_refl _ _) rfl
  case routerPass => exact execRouterPass_keeps _ _ _ (keeps_refl _ _) rfl
  case cellEject => exact execCellEject_keeps _ _ (keeps_refl _ _) rfl
  case cellInject => exact execCellInject_keeps _ (keeps_refl _ _) rfl
  case mcHoldTimeout => exact execMcHoldTimeout_keeps _ (keeps_refl _ _) rfl
  case linkEnable => exact execLinkEnable_keeps _ _ (keeps_refl _ _) rfl
  case linkDisable => exact execLinkDisable_keeps _ _ (keeps_refl _ _) rfl
  case linkRetrain => exact execLinkRetrain_keeps _ _ (keeps_refl _ _) rfl
  case trainingWordReceive => exact execTrainingWordReceive_keeps _ _ _ _ (keeps_refl _ _) rfl
  case trainingTimeout => exact execTrainingTimeout_keeps _ _ (keeps_refl _ _) rfl
  case lossOfSignal => exact execLossOfSignal_keeps _ _ _ (keeps_refl _ _) rfl
  case noBlockTimeout => exact execNoBlockTimeout_keeps _ _ (keeps_refl _ _) rfl
  case fecRateExceeded => exact execFecRateExceeded_keeps _ _ _ (keeps_refl _ _) rfl
  case linkDownTimer => exact execLinkDownTimer_keeps _ _ (keeps_refl _ _) rfl
  case linkHoldExpiry => exact execLinkHoldExpiry_keeps _ _ (keeps_refl _ _) rfl
  case noticeFallbackTimer => exact execNoticeFallbackTimer_keeps _ _ (keeps_refl _ _) rfl
  case noticeReceive => exact execNoticeReceive_keeps _ _ _ (keeps_refl _ _) rfl
  case frameReceive => exact execFrameReceive_keeps _ _ _ _ _ _ (keeps_refl _ _) rfl
  case pfcPauseExpiry => exact execPfcPauseExpiry_keeps _ _ _ (keeps_refl _ _) rfl
  case pfcRefreshTimer => exact execPfcRefreshTimer_keeps _ _ _ _ (keeps_refl _ _) rfl
  case frameTransmitDone => exact execFrameTransmitDone_keeps _ _ _ _ (keeps_refl _ _) rfl
  case portFault => exact execPortFault_keeps _ _ _ _ (keeps_refl _ _) rfl
  case portUp => exact execPortUp_keeps _ _ _ (keeps_refl _ _) rfl
  case laneFailure => exact execLaneFailure_keeps _ _ _ (keeps_refl _ _) rfl
  case laneDegraded => exact execLaneDegraded_keeps _ _ _ (keeps_refl _ _) rfl
  case oneLaneTimer => exact execOneLaneTimer_keeps _ _ (keeps_refl _ _) rfl
  case rotationStepTimer => exact execRotationStepTimer_keeps _ _ (keeps_refl _ _) rfl
  case rotReq => exact execRotReq_keeps _ _ _ (keeps_refl _ _) rfl
  case rotAck => exact execRotAck_keeps _ _ _ (keeps_refl _ _) rfl
  case laneMatch => exact execLaneMatch_keeps _ _ _ (keeps_refl _ _) rfl
  case matchAchieved => exact execMatchAchieved_keeps _ _ _ _ (keeps_refl _ _) rfl
  case laneSwitch => exact execLaneSwitch_keeps _ _ _ (keeps_refl _ _) rfl
  case switchMarker => exact execSwitchMarker_keeps _ _ (keeps_refl _ _) rfl
  case laneBack => exact execLaneBack_keeps _ _ _ (keeps_refl _ _) rfl
  case laneFailMsg => exact execLaneFailMsg_keeps _ _ _ (keeps_refl _ _) rfl
  case spareIn => exact execSpareIn_keeps _ _ _ (keeps_refl _ _) rfl
  case rotationAbort => exact execRotationAbort_keeps _ _ (keeps_refl _ _) rfl
  case calibrationDone => exact execCalibrationDone_keeps _ _ _ _ _ (keeps_refl _ _) rfl
  case calibrationTimeout => exact execCalibrationTimeout_keeps _ _ (keeps_refl _ _) rfl
  case laneRecal => exact execLaneRecal_keeps _ _ (keeps_refl _ _) rfl
  case laneForceFail => exact execLaneForceFail_keeps _ _ (keeps_refl _ _) rfl
  case laneRestore => exact execLaneRestore_keeps _ _ _ (keeps_refl _ _) rfl
  case moduleInsert => exact execModuleInsert_keeps _ _ _ _ (keeps_refl _ _) rfl
  case moduleRemove => exact execModuleRemove_keeps _ _ (keeps_refl _ _) rfl
  case moduleInterrupt => exact execModuleInterrupt_keeps _ _ _ (keeps_refl _ _) rfl
  case collectiveStart => exact execCollectiveStart_keeps _ _ _ _ (keeps_refl _ _) rfl
  case memberListRead => exact execMemberListRead_keeps _ _ _ (keeps_refl _ _) rfl
  case chunkSend => exact execChunkSend_keeps _ _ _ _ _ (keeps_refl _ _) rfl
  case chunkReceive => exact execChunkReceive_keeps _ _ _ _ _ _ (keeps_refl _ _) rfl
  case releaseWordReceive => exact execReleaseWordReceive_keeps _ _ _ _ (keeps_refl _ _) rfl
  case mcCellReceive => exact execMcCellReceive_keeps _ _ (keeps_refl _ _) rfl
  case repairTimeout => exact execRepairTimeout_keeps _ _ _ _ (keeps_refl _ _) rfl
  case collectiveTimeout => exact execCollectiveTimeout_keeps _ _ (keeps_refl _ _) rfl
  case invokeRecordWrite => exact execInvokeRecordWrite_keeps _ _ _ (keeps_refl _ _) rfl
  case tileStart => exact execTileStart_keeps _ _ _ (keeps_refl _ _) rfl
  case kernelLimit => exact execKernelLimit_keeps _ _ (keeps_refl _ _) rfl
  case invocationEnd => exact execInvocationEnd_keeps _ _ (keeps_refl _ _) rfl
  case tileFailure => exact execTileFailure_keeps _ _ (keeps_refl _ _) rfl
  case tileRemapDone => exact execTileRemapDone_keeps _ _ (keeps_refl _ _) rfl
  case tileClearDone => exact execTileClearDone_keeps _ _ (keeps_refl _ _) rfl
  case tNop => exact execTNop_keeps _ _ (keeps_refl _ _) rfl
  case tEnd => exact execTEnd_keeps _ _ (keeps_refl _ _) rfl
  case tBr => exact execTBr_keeps _ _ (keeps_refl _ _) rfl
  case tBrl => exact execTBrl_keeps _ _ (keeps_refl _ _) rfl
  case tJr => exact execTJr_keeps _ _ (keeps_refl _ _) rfl
  case tTrap => exact execTTrap_keeps _ _ (keeps_refl _ _) rfl
  case tCsrr => exact execTCsrr_keeps _ _ (keeps_refl _ _) rfl
  case tCsrw => exact execTCsrw_keeps _ _ (keeps_refl _ _) rfl
  case tWaitt => exact execTWaitt_keeps _ _ (keeps_refl _ _) rfl
  case tWaitc => exact execTWaitc_keeps _ _ (keeps_refl _ _) rfl
  case tAdd => exact execTAdd_keeps _ _ (keeps_refl _ _) rfl
  case tSub => exact execTSub_keeps _ _ (keeps_refl _ _) rfl
  case tMul => exact execTMul_keeps _ _ (keeps_refl _ _) rfl
  case tMulhu => exact execTMulhu_keeps _ _ (keeps_refl _ _) rfl
  case tAnd => exact execTAnd_keeps _ _ (keeps_refl _ _) rfl
  case tOr => exact execTOr_keeps _ _ (keeps_refl _ _) rfl
  case tXor => exact execTXor_keeps _ _ (keeps_refl _ _) rfl
  case tShl => exact execTShl_keeps _ _ (keeps_refl _ _) rfl
  case tShr => exact execTShr_keeps _ _ (keeps_refl _ _) rfl
  case tSra => exact execTSra_keeps _ _ (keeps_refl _ _) rfl
  case tMins => exact execTMins_keeps _ _ (keeps_refl _ _) rfl
  case tMaxs => exact execTMaxs_keeps _ _ (keeps_refl _ _) rfl
  case tMinu => exact execTMinu_keeps _ _ (keeps_refl _ _) rfl
  case tMaxu => exact execTMaxu_keeps _ _ (keeps_refl _ _) rfl
  case tDivu => exact execTDivu_keeps _ _ (keeps_refl _ _) rfl
  case tRemu => exact execTRemu_keeps _ _ (keeps_refl _ _) rfl
  case tAddi => exact execTAddi_keeps _ _ (keeps_refl _ _) rfl
  case tSubi => exact execTSubi_keeps _ _ (keeps_refl _ _) rfl
  case tMuli => exact execTMuli_keeps _ _ (keeps_refl _ _) rfl
  case tMulhui => exact execTMulhui_keeps _ _ (keeps_refl _ _) rfl
  case tAndi => exact execTAndi_keeps _ _ (keeps_refl _ _) rfl
  case tOri => exact execTOri_keeps _ _ (keeps_refl _ _) rfl
  case tXori => exact execTXori_keeps _ _ (keeps_refl _ _) rfl
  case tShli => exact execTShli_keeps _ _ (keeps_refl _ _) rfl
  case tShri => exact execTShri_keeps _ _ (keeps_refl _ _) rfl
  case tSrai => exact execTSrai_keeps _ _ (keeps_refl _ _) rfl
  case tMinsi => exact execTMinsi_keeps _ _ (keeps_refl _ _) rfl
  case tMaxsi => exact execTMaxsi_keeps _ _ (keeps_refl _ _) rfl
  case tMinui => exact execTMinui_keeps _ _ (keeps_refl _ _) rfl
  case tMaxui => exact execTMaxui_keeps _ _ (keeps_refl _ _) rfl
  case tDivui => exact execTDivui_keeps _ _ (keeps_refl _ _) rfl
  case tRemui => exact execTRemui_keeps _ _ (keeps_refl _ _) rfl
  case tMovi => exact execTMovi_keeps _ _ (keeps_refl _ _) rfl
  case tMovhi => exact execTMovhi_keeps _ _ (keeps_refl _ _) rfl
  case tCmp => exact execTCmp_keeps _ _ (keeps_refl _ _) rfl
  case tCmpi => exact execTCmpi_keeps _ _ (keeps_refl _ _) rfl
  case tPlog => exact execTPlog_keeps _ _ (keeps_refl _ _) rfl
  case tLd8u => exact execTLd8u_keeps _ _ (keeps_refl _ _) rfl
  case tLd16u => exact execTLd16u_keeps _ _ (keeps_refl _ _) rfl
  case tLd32u => exact execTLd32u_keeps _ _ (keeps_refl _ _) rfl
  case tLd64 => exact execTLd64_keeps _ _ (keeps_refl _ _) rfl
  case tLd32s => exact execTLd32s_keeps _ _ (keeps_refl _ _) rfl
  case tSt8 => exact execTSt8_keeps _ _ (keeps_refl _ _) rfl
  case tSt16 => exact execTSt16_keeps _ _ (keeps_refl _ _) rfl
  case tSt32 => exact execTSt32_keeps _ _ (keeps_refl _ _) rfl
  case tSt64 => exact execTSt64_keeps _ _ (keeps_refl _ _) rfl
  case tVld => exact execTVld_keeps _ _ (keeps_refl _ _) rfl
  case tVst => exact execTVst_keeps _ _ (keeps_refl _ _) rfl
  case tVldh => exact execTVldh_keeps _ _ (keeps_refl _ _) rfl
  case tVsth => exact execTVsth_keeps _ _ (keeps_refl _ _) rfl
  case tVldmx => exact execTVldmx_keeps _ _ (keeps_refl _ _) rfl
  case tVstmx => exact execTVstmx_keeps _ _ (keeps_refl _ _) rfl
  case tVadd => exact execTVadd_keeps _ _ (keeps_refl _ _) rfl
  case tVsub => exact execTVsub_keeps _ _ (keeps_refl _ _) rfl
  case tVmul => exact execTVmul_keeps _ _ (keeps_refl _ _) rfl
  case tVfma => exact execTVfma_keeps _ _ (keeps_refl _ _) rfl
  case tVmax => exact execTVmax_keeps _ _ (keeps_refl _ _) rfl
  case tVmin => exact execTVmin_keeps _ _ (keeps_refl _ _) rfl
  case tVexp2 => exact execTVexp2_keeps _ _ (keeps_refl _ _) rfl
  case tVlog2 => exact execTVlog2_keeps _ _ (keeps_refl _ _) rfl
  case tVrcp => exact execTVrcp_keeps _ _ (keeps_refl _ _) rfl
  case tVrsq => exact execTVrsq_keeps _ _ (keeps_refl _ _) rfl
  case tVred => exact execTVred_keeps _ _ (keeps_refl _ _) rfl
  case tVint => exact execTVint_keeps _ _ (keeps_refl _ _) rfl
  case tVcmp => exact execTVcmp_keeps _ _ (keeps_refl _ _) rfl
  case tVsel => exact execTVsel_keeps _ _ (keeps_refl _ _) rfl
  case tVbcast => exact execTVbcast_keeps _ _ (keeps_refl _ _) rfl
  case tVext => exact execTVext_keeps _ _ (keeps_refl _ _) rfl
  case tVins => exact execTVins_keeps _ _ (keeps_refl _ _) rfl
  case tVcvt => exact execTVcvt_keeps _ _ (keeps_refl _ _) rfl
  case tMzero => exact execTMzero_keeps _ _ (keeps_refl _ _) rfl
  case tMma => exact execTMma_keeps _ _ (keeps_refl _ _) rfl
  case tMstore => exact execTMstore_keeps _ _ (keeps_refl _ _) rfl
  case tMload => exact execTMload_keeps _ _ (keeps_refl _ _) rfl
  case tMrow => exact execTMrow_keeps _ _ (keeps_refl _ _) rfl
  case tMsetrow => exact execTMsetrow_keeps _ _ (keeps_refl _ _) rfl
  case tDmax => exact execTDmax_keeps _ _ (keeps_refl _ _) rfl
  case tDmaBurstComplete => exact execTDmaBurstComplete_keeps _ _ _ _ (keeps_refl _ _) rfl
  case tDatom => exact execTDatom_keeps _ _ (keeps_refl _ _) rfl
  case tSendTile => exact execTSendTile_keeps _ _ (keeps_refl _ _) rfl
  case tSendAddr => exact execTSendAddr_keeps _ _ (keeps_refl _ _) rfl
  case tSendReply => exact execTSendReply_keeps _ _ (keeps_refl _ _) rfl
  case tTileMessageEnqueue => exact execTTileMessageEnqueue_keeps _ _ _ (keeps_refl _ _) rfl
  case tChannelRecv => exact execTChannelRecv_keeps _ _ _ (keeps_refl _ _) rfl
  case tRecvm => exact execTRecvm_keeps _ _ _ (keeps_refl _ _) rfl
  case tPoll => exact execTPoll_keeps _ _ (keeps_refl _ _) rfl
  case memoryWrite => exact execMemoryWrite_keeps _ _ _ _ (keeps_refl _ _) rfl
  case memoryRead => exact execMemoryRead_keeps _ _ _ _ _ (keeps_refl _ _) rfl
  case retirementCopyDone => exact execRetirementCopyDone_keeps _ _ _ (keeps_refl _ _) rfl
  case patrolRead => exact execPatrolRead_keeps _ _ _ _ _ _ (keeps_refl _ _) rfl
  case channelRetrain => exact execChannelRetrain_keeps _ _ _ (keeps_refl _ _) rfl
  case retrainDone => exact execRetrainDone_keeps _ _ _ (keeps_refl _ _) rfl
  case termiteFrameCleared => exact execTermiteFrameCleared_keeps _ _ (keeps_refl _ _) rfl
  case keySetLoad => exact execKeySetLoad_keeps _ _ _ _ (keeps_refl _ _) rfl
  case sqmPush => exact execSqmPush_keeps _ _ _ (keeps_refl _ _) rfl
  case sqmPop => exact execSqmPop_keeps _ _ _ _ (keeps_refl _ _) rfl
  case sqmQueueClear => exact execSqmQueueClear_keeps _ _ (keeps_refl _ _) rfl
  case keySlotLoad => exact execKeySlotLoad_keeps _ _ _ _ (keeps_refl _ _) rfl
  case keySlotDestroy => exact execKeySlotDestroy_keeps _ _ (keeps_refl _ _) rfl
  case keySlotZeroed => exact execKeySlotZeroed_keeps _ _ (keeps_refl _ _) rfl
  case keySlotParity => exact execKeySlotParity_keeps _ _ _ (keeps_refl _ _) rfl
  case cipherPipeFailure => exact execCipherPipeFailure_keeps _ _ (keeps_refl _ _) rfl
  case cryptSlice => exact execCryptSlice_keeps _ _ _ _ (keeps_refl _ _) rfl
  case sealedRecordOpen => exact execSealedRecordOpen_keeps _ _ _ _ _ _ (keeps_refl _ _) rfl
  case sealedRecordWrite => exact execSealedRecordWrite_keeps _ _ _ _ _ (keeps_refl _ _) rfl
  case mailboxDoorbell => exact execMailboxDoorbell_keeps _ _ (keeps_refl _ _) rfl
  case mailboxTimeout => exact execMailboxTimeout_keeps _ _ (keeps_refl _ _) rfl
  case replyMailboxTimeout => exact execReplyMailboxTimeout_keeps _ _ (keeps_refl _ _) rfl
  case getVersion => exact execGetVersion_keeps _ _ _ _ (keeps_refl _ _) rfl
  case getCapabilities => exact execGetCapabilities_keeps _ _ _ _ (keeps_refl _ _) rfl
  case negotiateAlgorithms => exact execNegotiateAlgorithms_keeps _ _ _ _ (keeps_refl _ _) rfl
  case getDigests => exact execGetDigests_keeps _ _ _ _ (keeps_refl _ _) rfl
  case getCertificate => exact execGetCertificate_keeps _ _ _ _ (keeps_refl _ _) rfl
  case spdmChallenge => exact execSpdmChallenge_keeps _ _ _ _ (keeps_refl _ _) rfl
  case getMeasurements => exact execGetMeasurements_keeps _ _ _ _ (keeps_refl _ _) rfl
  case keyExchange => exact execKeyExchange_keeps _ _ _ _ (keeps_refl _ _) rfl
  case spdmFinish => exact execSpdmFinish_keeps _ _ _ _ (keeps_refl _ _) rfl
  case spdmHeartbeat => exact execSpdmHeartbeat_keeps _ _ _ _ (keeps_refl _ _) rfl
  case heartbeatExpiry => exact execHeartbeatExpiry_keeps _ _ (keeps_refl _ _) rfl
  case keyUpdate => exact execKeyUpdate_keeps _ _ _ _ (keeps_refl _ _) rfl
  case endSession => exact execEndSession_keeps _ _ _ _ (keeps_refl _ _) rfl
  case vendorDefinedRequest => exact execVendorDefinedRequest_keeps _ _ _ _ (keeps_refl _ _) rfl
  case keyLoad => exact execKeyLoad_keeps _ _ (keeps_refl _ _) rfl
  case keyGen => exact execKeyGen_keeps _ _ (keeps_refl _ _) rfl
  case keyDestroy => exact execKeyDestroy_keeps _ _ (keeps_refl _ _) rfl
  case sealEnable => exact execSealEnable_keeps _ _ (keeps_refl _ _) rfl
  case sealRekey => exact execSealRekey_keeps _ _ (keeps_refl _ _) rfl
  case reportRequest => exact execReportRequest_keeps _ _ (keeps_refl _ _) rfl
  case drbgReseed => exact execDrbgReseed_keeps _ (keeps_refl _ _) rfl
  case entropyHealthFail => exact execEntropyHealthFail_keeps _ _ (keeps_refl _ _) rfl
  case drbgWaitTimeout => exact execDrbgWaitTimeout_keeps _ (keeps_refl _ _) rfl
  case securityLinkLoss => exact execSecurityLinkLoss_keeps _ _ (keeps_refl _ _) rfl
  case drainComplete => exact execDrainComplete_keeps _ _ (keeps_refl _ _) rfl
  case drainBound => exact execDrainBound_keeps _ _ (keeps_refl _ _) rfl
  case debugToken => exact execDebugToken_keeps _ _ (keeps_refl _ _) rfl
  case bootCtlReset => exact execBootCtlReset_keeps _ (keeps_refl _ _) rfl
  case bootCtlRetry => exact execBootCtlRetry_keeps _ (keeps_refl _ _) rfl
  case cicQuery => exact execCicQuery_keeps _ _ _ (keeps_refl _ _) rfl
  case cicPiece => exact execCicPiece_keeps _ _ _ _ (keeps_refl _ _) rfl
  case pieceBufferIdle => exact execPieceBufferIdle_keeps _ _ _ (keeps_refl _ _) rfl
  case cicAbandon => exact execCicAbandon_keeps _ _ _ (keeps_refl _ _) rfl
  case cicActivate => exact execCicActivate_keeps _ _ _ _ (keeps_refl _ _) rfl
  case activateResetTimer => exact execActivateResetTimer_keeps _ (keeps_refl _ _) rfl
  case cicConfirm => exact execCicConfirm_keeps _ _ _ (keeps_refl _ _) rfl
  case healthWindowExpiry => exact execHealthWindowExpiry_keeps _ (keeps_refl _ _) rfl
  case txnBegin => exact execTxnBegin_keeps _ _ (keeps_refl _ _) rfl
  case txWriteStage => exact execTxWriteStage_keeps _ _ _ _ (keeps_refl _ _) rfl
  case grantStage => exact execGrantStage_keeps _ _ _ (keeps_refl _ _) rfl
  case txnCommit => exact execTxnCommit_keeps _ _ _ _ (keeps_refl _ _) rfl
  case commitValidate => exact execCommitValidate_keeps _ (keeps_refl _ _) rfl
  case blockApply => exact execBlockApply_keeps _ _ (keeps_refl _ _) rfl
  case commitResultPublish => exact execCommitResultPublish_keeps _ (keeps_refl _ _) rfl
  case txnRollback => exact execTxnRollback_keeps _ _ _ (keeps_refl _ _) rfl
  case transactionTimeout => exact execTransactionTimeout_keeps _ _ (keeps_refl _ _) rfl
  case profileClear => exact execProfileClear_keeps _ (keeps_refl _ _) rfl
  case faultReport => exact execFaultReport_keeps _ _ (keeps_refl _ _) rfl
  case suspectWindowClose => exact execSuspectWindowClose_keeps _ _ _ (keeps_refl _ _) rfl
  case noticeSuppressionExpiry => exact execNoticeSuppressionExpiry_keeps _ _ (keeps_refl _ _) rfl
  case faultQueuePop => exact execFaultQueuePop_keeps _ _ _ (keeps_refl _ _) rfl
  case eventQueuePop => exact execEventQueuePop_keeps _ _ _ _ (keeps_refl _ _) rfl
  case standbyCopyRead => exact execStandbyCopyRead_keeps _ (keeps_refl _ _) rfl
  case registerWrite => exact execRegisterWrite_keeps _ _ _ _ _ (keeps_refl _ _) rfl
  case completionTimeout => exact execCompletionTimeout_keeps _ _ (keeps_refl _ _) rfl
  case cellSlot => exact execCellSlot_keeps _ _ _ (keeps_refl _ _) rfl
  case rmaToken => exact execRmaToken_keeps _ _ (keeps_refl _ _) rfl

/-- Settles O48: the queue and the variant are kept whatever a command may change. -/
theorem queueAndVariantKept : Obligations.QueueAndVariantKept := fun i s _ h =>
  have hkeeps := (exec_keeps i s).out _ h
  ⟨hkeeps.pending, hkeeps.variant⟩

/-- The canonical forms are forms of the memory, the registers and the owners alone. -/
theorem canon_congr (s : State) {u : State} (hmem : u.mem = s.mem) (hregs : u.regs = s.regs) (howners : u.owners = s.owners) (h : Canon s) :
    Canon u where
  bytes := by rw [Memory.wf, hmem]; exact h.bytes
  blocks := by rw [hmem]; exact h.blocks
  regs := by rw [hregs]; exact h.regs
  owners := by rw [howners]; exact h.owners

/-- The tick keeps the canonical forms. -/
theorem tick_canon {s : State} (h : Canon s) : Canon (tick s) := by
  unfold tick
  split
  · exact (runWaiter_keeps _ _ (keeps_refl _ _) (sub_refl _)).canon (canon_congr s rfl rfl rfl h)
  · exact canon_congr s rfl rfl rfl h

/-- Settles O49: the command in front keeps the canonical forms, and so does the tick. -/
theorem stepKeepsCanonicalForms : Obligations.StepKeepsCanonicalForms := by
  intro s t hcanon hstep
  unfold step at hstep
  split at hstep
  · exact ((exec_keeps _ _).out t hstep).canon (canon_congr s rfl rfl rfl hcanon)
  · cases hstep
    exact tick_canon hcanon

/-! ### Every command answers (log 1) -/

/-- A meaning ends in a next state. -/
def Answers (o : Host.Outcome State Fault Refusal) : Prop := ∃ t, o = .next t

/-- A next state is one. -/
theorem answers_next (t : State) : Answers (.next t) := ⟨t, rfl⟩

/-- A choice between meanings that answer does. -/
theorem answers_ite {c : Prop} [Decidable c] {a b : Host.Outcome State Fault Refusal} (h : Answers a) (g : Answers b) :
    Answers (if c then a else b) := by
  split <;> assumption

/-- A write of the selected context answers. -/
theorem onCtx_answers (s : State) (fn : Nat) (f : Nat → State) : Answers (onCtx s fn f) := by
  unfold onCtx
  refine answers_ite (answers_next _) ?_
  split <;> exact answers_next _

/-- A row of SPDM answers. -/
theorem onSpdm_answers (s : State) (who : Nat) (sec : Bool) (bytes : List Byte) (code : Nat) (f : Bool → List Byte → State) :
    Answers (onSpdm s who sec bytes code f) := by
  unfold onSpdm
  split <;> exact answers_next _

/-- A ring read that returns answers. -/
theorem execRingReadComplete_answers (q idx : Nat) (bus : Option (List Byte)) (s : State) :
    Answers (execRingReadComplete q idx bus s) := by
  unfold execRingReadComplete
  split
  · exact answers_next _
  · refine answers_ite (answers_next _) (answers_ite (answers_next _) ?_)
    split <;> exact answers_next _

/-- A fragment table that returns answers. -/
theorem execFragmentTableRead_answers (q idx : Nat) (bus : Option (List Byte)) (s : State) :
    Answers (execFragmentTableRead q idx bus s) := by
  unfold execFragmentTableRead
  split
  · exact answers_next _
  · split
    · exact answers_next _
    · dsimp only
      split <;> exact answers_next _

/-- A source read that returns answers. -/
theorem execSourceReadComplete_answers (read : ReadRef) (bus : Option (List Byte)) (s : State) :
    Answers (execSourceReadComplete read bus s) := by
  unfold execSourceReadComplete
  split
  · exact answers_next _
  · split
    · exact answers_next _
    · split
      · exact answers_next _
      · exact answers_ite (answers_next _) (answers_next _)

/-- A burst of a tile that completes answers. -/
theorem execTDmaBurstComplete_answers (t id : Nat) (bus : Option (List Byte)) (s : State) :
    Answers (execTDmaBurstComplete t id bus s) := by
  unfold execTDmaBurstComplete
  split
  · exact answers_next _
  · split <;> exact answers_next _

/-- A completion timeout answers as the failed completion of its origin does. -/
theorem execCompletionTimeout_answers (tag : BusTag) (s : State) : Answers (execCompletionTimeout tag s) := by
  cases tag with
  | ringRead q i => exact execRingReadComplete_answers q i none s
  | fragTable q i => exact execFragmentTableRead_answers q i none s
  | source c m r o => exact execSourceReadComplete_answers (.cell c m r o) none s
  | frame q i => exact execSourceReadComplete_answers (.frame q i) none s
  | tileDma t i => exact execTDmaBurstComplete_answers t i none s
  | cicada => exact answers_ite (answers_next _) (answers_next _)
  | _ => exact answers_next _

/-- Every command answers. The first arms are one next state whatever their operands; of the others the meaning is written out, and each of
its branches ends in a next state. -/
theorem exec_answers (i : Instr) (s : State) : Answers (exec i s) := by
  cases i
  case standbyPowerLoss | electionTimeout | primaryFailure | crossingHang | powerSample | powerCapFault | powerUndo |
    inletOvertempTimeout | undervoltageTrip | overcurrentTrip | mainPowerReturn | entryStart | entryFinish | vWrite |
    vRead | vAtomic | vReduceWrite | vGatherReduce | vInvoke | tableWalkComplete | connectCloseReceive |
    closeAckReceive | cellPlacement | orderedHeadExecute | rnrWaitTimer | atomicopComplete | responseCacheExpiry |
    grantExpiry | lossOfSignal | noBlockTimeout | fecRateExceeded | pfcPauseExpiry | rotationAbort | moduleRemove |
    collectiveTimeout | tNop | tEnd | tBr | tBrl | tJr | tTrap | tCsrr | tCsrw | tWaitt | tWaitc | tAdd | tSub | tMul |
    tMulhu | tAnd | tOr | tXor | tShl | tShr | tSra | tMins | tMaxs | tMinu | tMaxu | tDivu | tRemu | tAddi | tSubi |
    tMuli | tMulhui | tAndi | tOri | tXori | tShli | tShri | tSrai | tMinsi | tMaxsi | tMinui | tMaxui | tDivui |
    tRemui | tMovi | tMovhi | tCmp | tCmpi | tPlog | tLd8u | tLd16u | tLd32u | tLd64 | tLd32s | tSt8 | tSt16 | tSt32 |
    tSt64 | tVld | tVst | tVldh | tVsth | tVldmx | tVstmx | tVadd | tVsub | tVmul | tVfma | tVmax | tVmin | tVexp2 |
    tVlog2 | tVrcp | tVrsq | tVred | tVint | tVcmp | tVsel | tVbcast | tVext | tVins | tVcvt | tMzero | tMma | tMstore |
    tMload | tMrow | tMsetrow | tDatom | tSendTile | tSendAddr | tSendReply | tChannelRecv | tRecvm | tPoll |
    bootCtlReset | cicQuery | cicPiece | cicAbandon | cicActivate | activateResetTimer | cicConfirm |
    healthWindowExpiry | commitValidate | blockApply | commitResultPublish | faultReport | noticeSuppressionExpiry =>
    exact answers_next _
  case ringReadComplete => exact execRingReadComplete_answers _ _ _ _
  case fragmentTableRead => exact execFragmentTableRead_answers _ _ _ _
  case contextRootWrite | contextValidSet | contextValidClear | fabricEnWrite => exact onCtx_answers _ _ _
  case sourceReadComplete => exact execSourceReadComplete_answers _ _ _
  case tDmaBurstComplete => exact execTDmaBurstComplete_answers _ _ _ _
  case getVersion | getCapabilities | negotiateAlgorithms | getDigests | getCertificate | spdmChallenge |
    getMeasurements | keyExchange | spdmFinish | spdmHeartbeat | keyUpdate | endSession | vendorDefinedRequest =>
    exact onSpdm_answers _ _ _ _ _ _
  case completionTimeout => exact execCompletionTimeout_answers _ _
  all_goals dsimp only [exec,
    -- Boot.lean
    execStandbyPowerUp, execMgReset, execRspSelfTestDone, execPowerEvaluation, execThermalSample, execMainPowerLoss,
    execMainDomainGood, execPerstAssert, execPerstDeassert, execMemoryTrained, execUnitsReady, execBootTimeout,
    execBootCtlRetry,
    -- Txn.lean
    execBootScrubDone, execTxnBegin, execTxWriteStage, execGrantStage, execTxnCommit, execTxnRollback,
    execTransactionTimeout, execProfileClear,
    -- Life.lean
    execNumvfsWrite, execVfEnableSet, execVfEnableClear, execVfFlr, execPfFlr, execTenantActivate, execTenantTeardown,
    execTenantQuery, execTileClearDone, execTermiteFrameCleared, execSqmQueueClear, execDrainComplete, execDrainBound,
    -- Hif.lean
    execWindowWrite, execWindowRead, execWinCtxWrite, execDataPortWrite, execDataPortRead, execDataPortCtxWrite,
    execDataPortCommit, execPrefetchFill, execMsixUnmask,
    -- Wqm.lean
    execDoorbell, execInlineSlotWrite, execInlineWaitRelease, execAbiAgree, execWqmDoorbellTake, execRefetchTimer,
    execHeadWriteComplete, execQueueIrqTimer, execQueueSelect, execQueueEnable, execQueueDisable, execQueueFlush,
    execQueueConfigWrite,
    -- Verbs.lean
    execVSend, execInvokeTimeout, execVCollective, execVInvalidate, execInvalidateDrainDone, execVFence, execVRegister,
    execVRevoke, execRecvPost,
    -- Cph.lean
    execVCrypt, execKeySlotLoad, execKeySlotDestroy, execKeySlotZeroed, execKeySlotParity, execCipherPipeFailure,
    execCryptSlice, execSealedRecordOpen, execSealedRecordWrite,
    -- TpeRecv.lean
    execRegionCacheTimeout, execHeadsReceive, execDataCellReceive, execEarlyCellTimeout, execAbortHeadReceive,
    execResponseCellReceive, execReplyReceive, execFabricAccessReceive, execMirrorFlushComplete, execPeerFlushComplete,
    -- TpeConn.lean
    execQpConfigWrite, execQpConnect, execQpClose, execQpReset, execConnectRetryTimer, execConnectTimeout,
    execConnectReqReceive, execConnectAccReceive, execConnectRejReceive, execClosingTimeout, execChannelIdleTimeout,
    execContextFetchComplete, execTransportCoreFailure,
    -- TpeSend.lean
    execCoreSliceEnd, execAckReceive, execRtoExpiry, execCreditTimeout, execSchedulerPick,
    -- TpeAck.lean
    execAckDelayTimer,
    -- Mirror.lean
    execMirrorWriteTimer,
    -- TpeFail.lean
    execHeartbeatTimeout, execHandoffRecordSeen, execTakenRecordSeen,
    -- Ccs.lean
    execCreditGrantReceive, execCreditDemandReceive, execGrantIssue, execGrantReclaimTimer, execDemandRepeatTimer,
    execShaperRefill, execCapacityFactorApply,
    -- Frt.lean
    execRouterPass, execCellEject, execCellInject, execMcHoldTimeout, execLinkEnable, execLinkDisable, execLinkRetrain,
    execTrainingWordReceive, execTrainingTimeout, execLinkDownTimer, execLinkHoldExpiry, execNoticeFallbackTimer,
    execNoticeReceive, execCellSlot,
    -- Emac.lean
    execFrameReceive, execPfcRefreshTimer, execFrameTransmitDone, execPortFault, execPortUp,
    -- Lns.lean
    execLaneFailure, execLaneDegraded, execOneLaneTimer, execRotationStepTimer, execRotReq, execRotAck, execLaneMatch,
    execMatchAchieved, execLaneSwitch, execSwitchMarker, execLaneBack, execLaneFailMsg, execSpareIn,
    execCalibrationDone, execCalibrationTimeout, execLaneRecal, execLaneForceFail, execLaneRestore, execModuleInsert,
    execModuleInterrupt,
    -- Scb.lean
    execCollectiveStart, execMemberListRead, execChunkSend, execChunkReceive, execReleaseWordReceive,
    execMcCellReceive, execRepairTimeout,
    -- Tgd.lean
    execInvokeRecordWrite, execTileStart, execKernelLimit, execInvocationEnd, execTileFailure, execTileRemapDone,
    -- TileDma.lean
    execTDmax, execTTileMessageEnqueue,
    -- Mem.lean
    execMemoryWrite, execMemoryRead, execRetirementCopyDone, execPatrolRead, execChannelRetrain, execRetrainDone,
    execKeySetLoad,
    -- SqmCmd.lean
    execSqmPush, execSqmPop,
    -- Rsp.lean
    execMailboxDoorbell, execMailboxTimeout, execReplyMailboxTimeout, execHeartbeatExpiry, execKeyLoad, execKeyGen,
    execKeyDestroy, execSealEnable, execSealRekey, execReportRequest, execDrbgReseed, execEntropyHealthFail,
    execDrbgWaitTimeout, execSecurityLinkLoss, execDebugToken, execRmaToken,
    -- Cic.lean
    execPieceBufferIdle,
    -- Fev.lean
    execSuspectWindowClose, execFaultQueuePop, execEventQueuePop, execStandbyCopyRead,
    -- RegMap.lean
    execRegisterWrite]
  all_goals repeat' first | with_reducible exact answers_next _ | with_reducible apply answers_ite | split

/-- Settles O47: no branch of any meaning faults or refuses. -/
theorem everyCommandAnswers : Obligations.EveryCommandAnswers := exec_answers

end Sys2Proof.Proofs
end

section
/-! PROOFS. Reads after writes, of memory and of registers. O53, O54. -/
namespace Sys2Proof.Proofs
open Sys2Proof.Machine Sys2Proof.Safety Sys2Proof.Laws

/-- A key after a write. -/
theorem tget_tset {α : Type} [DecidableEq α] (d : Nat → α) (t : Tbl α) (k : Nat) (v : α) (j : Nat) :
    tget d (tset d t k v) j = if j = k then v else tget d t j := by
  split
  · next h => rw [h, tget_tset_same]
  · next h => rw [tget_tset_other _ _ _ h]

/-! ### Bytes of memory after a write (R5) -/

/-- A byte after one byte was written. -/
theorem memByte_setByte (s : State) (a x : Nat) (b : Byte) : memByte (setByte s a b) x = if x = a then b else memByte s x :=
  tget_tset _ _ _ _ _

/-- A run of values from a key on, the first of them apart. -/
theorem ite_getD_cons {α : Type} (a x : Nat) (v : α) (r : List α) (d e : α) :
    (if a + 1 ≤ x ∧ x < a + 1 + r.length then r.getD (x - (a + 1)) d else if x = a then v else e) =
      if a ≤ x ∧ x < a + (v :: r).length then (v :: r).getD (x - a) d else e := by
  rw [List.length_cons]
  rcases Nat.lt_trichotomy x a with h | rfl | h
  · rw [if_neg (by omega), if_neg (by omega), if_neg (by omega)]
  · rw [if_neg (by omega), if_pos rfl, if_pos (by omega), Nat.sub_self, List.getD_cons_zero]
  · obtain ⟨k, rfl⟩ : ∃ k, x = a + 1 + k := ⟨x - (a + 1), by omega⟩
    rw [if_neg (show ¬ a + 1 + k = a by omega), show a + 1 + k - a = k + 1 by omega, Nat.add_sub_cancel_left, List.getD_cons_succ]
    exact ite_congr (propext (by omega)) (fun _ => rfl) (fun _ => rfl)

/-- A byte after a string of bytes was written. -/
theorem memByte_setBytes (s : State) (a : Nat) (b : List Byte) (x : Nat) :
    memByte (setBytes s a b) x = if a ≤ x ∧ x < a + b.length then b.getD (x - a) 0 else memByte s x := by
  induction b generalizing s a with
  | nil => exact (if_neg (by rw [List.length_nil]; omega)).symm
  | cons v r ih => rw [setBytes, ih, memByte_setByte, ite_getD_cons]

/-- A byte outside the written range stays. -/
theorem memByte_setBytes_outside (s : State) {a x : Nat} {b : List Byte} (h : ¬ (a ≤ x ∧ x < a + b.length)) :
    memByte (setBytes s a b) x = memByte s x := by rw [memByte_setBytes, if_neg h]

/-- A read of n bytes gives n bytes. -/
@[simp] theorem length_memBytes (s : State) (a n : Nat) : (memBytes s a n).length = n := by
  induction n generalizing a with
  | zero => rfl
  | succ n ih => rw [memBytes, List.length_cons, ih]

/-- Byte i of a read is the byte at its address. -/
theorem getElem_memBytes (s : State) (a n i : Nat) (h : i < (memBytes s a n).length) : (memBytes s a n)[i] = memByte s (a + i) := by
  induction n generalizing a i with
  | zero => exact absurd h (Nat.not_lt_zero i)
  | succ n ih =>
    cases i with
    | zero => rfl
    | succ i => simp only [memBytes, List.getElem_cons_succ, ih, Nat.add_assoc, Nat.add_comm 1]

/-- A read of the written range gives what was written. -/
theorem memBytes_setBytes (s : State) (a : Nat) (b : List Byte) : memBytes (setBytes s a b) a b.length = b := by
  refine List.ext_getElem (length_memBytes _ _ _) fun i _ hi => ?_
  rw [getElem_memBytes, memByte_setBytes, if_pos (by omega), Nat.add_sub_cancel_left, List.getD_eq_getElem?_getD,
    List.getElem?_eq_getElem hi, Option.getD_some]

/-- A write keeps memory's canonical form (log 4). -/
theorem wf_setBytes (s : State) (a : Nat) (b : List Byte) (h : Memory.wf s = true) : Memory.wf (setBytes s a b) = true := by
  induction b generalizing s a with
  | nil => exact h
  | cons v r ih => exact ih _ _ (twf_tset _ a v h)

/-- Reads depend on the byte table alone. -/
theorem memBytes_congr {s u : State} (h : u.mem.bytes = s.mem.bytes) (a n : Nat) : memBytes u a n = memBytes s a n := by
  induction n generalizing a with
  | zero => rfl
  | succ n ih => rw [memBytes, memBytes, ih, memByte, memByte, h]

/-- The block states that a store settles are no bytes. -/
theorem foldl_setBlk_bytes (f : State → Nat → Blk) (l : List Nat) (s : State) :
    (l.foldl (fun s u => setBlk s u (f s u)) s).mem.bytes = s.mem.bytes := by
  induction l generalizing s with
  | nil => rfl
  | cons u r ih => exact ih _

/-- A store of a tile writes its bytes, poisoned or not (R349). -/
theorem tileStore_bytes (s : State) (t off : Nat) (b : List Byte) (bad : Marks) :
    (tileStore s t off b bad).mem.bytes = (setBytes s (tileAddr t off) b).mem.bytes := foldl_setBlk_bytes _ _ _

/-- A store of a tile leaves every byte outside its range alone. -/
theorem memByte_tileStore_outside (s : State) (t off : Nat) (b : List Byte) (bad : Marks) (x : Nat)
    (h : ¬ (tileAddr t off ≤ x ∧ x < tileAddr t off + b.length)) : memByte (tileStore s t off b bad) x = memByte s x := by
  rw [memByte, tileStore_bytes]
  exact memByte_setBytes_outside s h

/-- The range of a store reads as stored. -/
theorem memBytes_tileStore (s : State) (t off : Nat) (b : List Byte) (bad : Marks) :
    memBytes (tileStore s t off b bad) (tileAddr t off) b.length = b := by
  rw [memBytes_congr (tileStore_bytes s t off b bad), memBytes_setBytes]

/-- Settles O53, from the laws of the byte table. -/
theorem memoryReadAfterWrite : Obligations.MemoryReadAfterWrite :=
  ⟨memByte_setBytes, memBytes_setBytes, length_memBytes, wf_setBytes, memByte_tileStore_outside, memBytes_tileStore⟩

/-! ### Registers after a write (R6, R74, R343) -/

/-- Two places of registers have different keys. -/
theorem rk_ne {off off' idx idx' : Nat} (h : off' ≠ off ∨ idx' % 2 ^ 32 ≠ idx % 2 ^ 32) : rk off' idx' ≠ rk off idx := by
  intro he
  have hoff : off' = off := by rw [← rk_off off' idx', he, rk_off]
  unfold rk at he
  omega

/-- A register reads what was written to it. -/
@[simp] theorem reg_setReg (s : State) (off idx : Nat) (v : W64) : reg (setReg s off idx v) off idx = v := tget_tset_same _ _ _ _

/-- Every other register stays. -/
theorem reg_setReg_other (s : State) (off idx : Nat) (v : W64) (off' idx' : Nat) (h : off' ≠ off ∨ idx' % 2 ^ 32 ≠ idx % 2 ^ 32) :
    reg (setReg s off idx v) off' idx' = reg s off' idx' := tget_tset_other _ _ _ (rk_ne h)

/-- A counter reads one more, modulo 2^32. -/
theorem regN_bump (s : State) (off idx : Nat) : regN (bump s off idx) off idx = wrap32 (regN s off idx + 1) := by
  rw [regN, bump, bumpBy, reg_setReg, w64, BitVec.toNat_ofNat]
  exact Nat.mod_eq_of_lt (Nat.lt_trans (Nat.mod_lt _ (by decide)) (by decide))

/-- p0 reads 1. -/
theorem pReg_zero (T : Tile) : pReg T 0 = true := rfl

/-- Predicate m of a byte of predicates in which bit n was written. -/
theorem getLsbD_setBit (p : BitVec 8) (b : Bool) {n m : Nat} (hn : n < 8) (hm : m < 8) :
    (if b then p ||| BitVec.ofNat 8 (2 ^ n) else p &&& ~~~BitVec.ofNat 8 (2 ^ n)).getLsbD m = if m = n then b else p.getLsbD m := by
  have hbit : (BitVec.ofNat 8 (2 ^ n)).getLsbD m = decide (m = n) := by
    rw [BitVec.getLsbD_ofNat, Nat.testBit_two_pow, decide_eq_true hm, Bool.true_and, decide_eq_decide]
    exact eq_comm
  cases b
  · rw [if_neg Bool.false_ne_true, BitVec.getLsbD_and, BitVec.getLsbD_not, hbit]
    by_cases h : m = n <;> simp [h, hm, hn]
  · rw [if_pos rfl, BitVec.getLsbD_or, hbit]
    by_cases h : m = n <;> simp [h]

/-- A predicate after a write: p0 discards it. -/
theorem pReg_setP (s : State) (t : Nat) (b : Bool) {n m : Nat} (hn : n < 8) (hm : m < 8) :
    pReg (tile (setP s t n b) t) m = if m = 0 then true else if m = n then b else pReg (tile s t) m := by
  by_cases h0 : m = 0
  · rw [h0, pReg_zero, if_pos rfl]
  · rw [if_neg h0]
    unfold setP
    by_cases hz : n = 0
    · rw [if_pos hz, if_neg (by omega)]
    · rw [if_neg hz, tile_tileMod]
      simp only [pReg, h0, decide_false, Bool.false_or]
      exact getLsbD_setBit _ _ hn hm

/-- A lane key after lanes were written from a key on. -/
theorem tget_putLanes (tb : Tbl W32) (k : Nat) (l : List W32) (j : Nat) :
    tget (fun _ => 0) (putLanes tb k l) j = if k ≤ j ∧ j < k + l.length then l.getD (j - k) 0 else tget (fun _ => 0) tb j := by
  induction l generalizing tb k with
  | nil => exact (if_neg (by rw [List.length_nil]; omega)).symm
  | cons x r ih => rw [putLanes, ih, tget_tset, ite_getD_cons]

/-- A lane after a vector register was written. -/
theorem vLane_setV (s : State) (t r : Nat) (l : List W32) (q i : Nat) (hl : l.length = 128) (hi : i < 128) :
    vLane (tile (setV s t r l) t) q i = if q = r then l.getD i 0 else vLane (tile s t) q i := by
  unfold vLane setV
  rw [tile_tileMod]
  dsimp only
  rw [tget_putLanes, hl]
  by_cases h : q = r
  · rw [if_pos h, if_pos (by omega), h, Nat.add_sub_cancel_left]
  · rw [if_neg h, if_neg (by omega)]

/-- A write of a general register leaves every other tile alone. -/
theorem tile_setG_other (s : State) {t u : Nat} (n : Nat) (v : W64) (h : u ≠ t) : tile (setG s t n v) u = tile s u := by
  unfold setG
  split
  · rfl
  · exact tile_tileMod_other _ _ h

/-- Settles O54, a law for each kind of register. -/
theorem registerReadAfterWrite : Obligations.RegisterReadAfterWrite := by
  refine ⟨reg_setReg, reg_setReg_other, regN_bump, gReg_setG, fun s t n v m h => gReg_setG_other s t v h, fun s t n b hn => ?_,
    fun s t n b m hn hm h => ?_, fun s t r l i hl hi => ?_, fun s t r l q i hl h hi => ?_, fun s t u n v h => tile_setG_other s n v h⟩
  · rw [pReg_setP s t b hn hn, if_pos rfl]
  · rw [pReg_setP s t b hn hm, if_neg h, ite_eq_right_iff]
    rintro rfl
    rfl
  · rw [vLane_setV s t r l r i hl hi, if_pos rfl]
  · rw [vLane_setV s t r l q i hl hi, if_neg h]

end Sys2Proof.Proofs
end

section
/-! PROOFS. Scalar loads and stores of a tile, and writes of registers. O39, O56, O60. -/
namespace Sys2Proof.Proofs
open Sys2Proof.Machine Sys2Proof.Safety Sys2Proof.Laws

/-! ### Scalar loads and stores of a tile (R348, R349) -/

/-- An instruction that is executed has its effect. -/
theorem tileOp_runs {s : State} {t o w : Nat} (f : Tile → Nat → Eff) (h : Executes s t o w) :
    tileOp s t o f = retire s t (tile s t).pc (f (tile s t) w) := by
  obtain ⟨⟨hissues, hnear, hclean, hword⟩, hopc, hlegal, hguard⟩ := h
  exact tileIssue_runs hissues hnear hclean hword (decide_eq_true hopc) hlegal hguard

/-- An aligned offset whose bytes lie in the tile goes on. -/
theorem atOffset_inside {off n al : Nat} (f : Eff) (ha : off % al = 0) (hb : off + n ≤ 2 ^ 22) : atOffset off n al f = f := by
  rw [atOffset, if_neg (Decidable.not_not.mpr ha), if_neg (Nat.not_lt.mpr hb)]

/-- An aligned offset whose bytes do not lie in the tile traps ADDR. -/
theorem atOffset_outside {off n al : Nat} (f : Eff) (ha : off % al = 0) (hb : 2 ^ 22 < off + n) : atOffset off n al f = .trap 4 off := by
  rw [atOffset, if_neg (Decidable.not_not.mpr ha), if_pos hb]

/-- A misaligned offset traps ALIGN. -/
theorem atOffset_misaligned {off n al : Nat} (f : Eff) (ha : off % al ≠ 0) : atOffset off n al f = .trap 3 off := if_pos ha

/-- A read of bytes that are not poisoned goes on with them. -/
theorem reading_clean {s : State} {t off n : Nat} (f : List Byte → Eff) (h : anyPoison s (tileAddr t off) n = false) :
    reading s t off n f = f (memBytes s (tileAddr t off) n) := by
  rw [reading, h, if_neg Bool.false_ne_true]

section
variable {s : State} {t o w n : Nat} (h : Executes s t o w)
include h

/-- An access whose offset is aligned and whose bytes lie in the tile's memory has its effect. -/
theorem accessOp_inside (f : Tile → Nat → Eff) (ha : memOff (tile s t) w % n = 0) (hb : memOff (tile s t) w + n ≤ 2 ^ 22) :
    tileOp s t o (fun T w => atOffset (memOff T w) n n (f T w)) = retire s t (tile s t).pc (f (tile s t) w) := by
  rw [tileOp_runs _ h, atOffset_inside _ ha hb]

/-- One outside the tile's memory traps ADDR. -/
theorem accessOp_outside (f : Tile → Nat → Eff) (ha : memOff (tile s t) w % n = 0) (hb : 2 ^ 22 < memOff (tile s t) w + n) :
    tileOp s t o (fun T w => atOffset (memOff T w) n n (f T w)) = trap s t 4 (memOff (tile s t) w) := by
  rw [tileOp_runs _ h, atOffset_outside _ ha hb, retire]

/-- A misaligned one traps ALIGN. -/
theorem accessOp_misaligned (f : Tile → Nat → Eff) (ha : memOff (tile s t) w % n ≠ 0) :
    tileOp s t o (fun T w => atOffset (memOff T w) n n (f T w)) = trap s t 3 (memOff (tile s t) w) := by
  rw [tileOp_runs _ h, atOffset_misaligned _ ha, retire]

/-- A load leaves the extended value in its destination register. -/
theorem tileLoad_inside (ext : Nat → W64) (ha : memOff (tile s t) w % n = 0) (hb : memOff (tile s t) w + n ≤ 2 ^ 22)
    (hp : anyPoison s (tileAddr t (memOff (tile s t) w)) n = false) :
    tileLoad s t o n ext = scalar s t w (ext (leNat (memBytes s (tileAddr t (memOff (tile s t) w)) n))) := by
  rw [tileLoad, accessOp_inside h _ ha hb, reading_clean _ hp]
  rfl

/-- A load outside the tile's memory traps ADDR. -/
theorem tileLoad_outside (ext : Nat → W64) (ha : memOff (tile s t) w % n = 0) (hb : 2 ^ 22 < memOff (tile s t) w + n) :
    tileLoad s t o n ext = trap s t 4 (memOff (tile s t) w) := accessOp_outside h _ ha hb

/-- A misaligned load traps ALIGN. -/
theorem tileLoad_misaligned (ext : Nat → W64) (ha : memOff (tile s t) w % n ≠ 0) :
    tileLoad s t o n ext = trap s t 3 (memOff (tile s t) w) := accessOp_misaligned h _ ha

/-- A store writes the low bytes of its register at its offset. -/
theorem tileStoreOp_inside (ha : memOff (tile s t) w % n = 0) (hb : memOff (tile s t) w + n ≤ 2 ^ 22) :
    tileStoreOp s t o n = goesOn s t (tileStore s t (memOff (tile s t) w) (leBytes n (gReg (tile s t) (iD w)).toNat)) :=
  accessOp_inside h _ ha hb

/-- A store outside the tile's memory traps ADDR. -/
theorem tileStoreOp_outside (ha : memOff (tile s t) w % n = 0) (hb : 2 ^ 22 < memOff (tile s t) w + n) :
    tileStoreOp s t o n = trap s t 4 (memOff (tile s t) w) := accessOp_outside h _ ha hb

/-- A misaligned store traps ALIGN. -/
theorem tileStoreOp_misaligned (ha : memOff (tile s t) w % n ≠ 0) : tileStoreOp s t o n = trap s t 3 (memOff (tile s t) w) :=
  accessOp_misaligned h _ ha
end

/-- A number as n bytes has n of them. -/
@[simp] theorem length_leBytes (n v : Nat) : (leBytes n v).length = n := by
  induction n generalizing v with
  | zero => rfl
  | succ n ih => rw [leBytes, List.length_cons, ih]

/-- A scalar store of n bytes leaves every byte outside its range alone. -/
theorem memByte_goesOn_tileStore {s : State} {t off n v a : Nat} (h : ¬ (tileAddr t off ≤ a ∧ a < tileAddr t off + n)) :
    memByte (goesOn s t (tileStore s t off (leBytes n v))) a = memByte s a :=
  memByte_tileStore_outside s t off (leBytes n v) [] a (by rwa [length_leBytes])

/-- Settles O39: each command is a load or a store of its width, and has that operation's cases. -/
theorem tileLoadsAndStores : Obligations.TileLoadsAndStores := by
  and_intros <;> intro t w s h ha
  -- LD8U
  · exact fun hb hp => congrArg _ (tileLoad_inside h w64 ha hb hp)
  · exact fun hb => congrArg _ (tileLoad_outside h w64 ha hb)
  -- LD16U
  · exact fun hb hp => congrArg _ (tileLoad_inside h w64 ha hb hp)
  · exact fun hb => congrArg _ (tileLoad_outside h w64 ha hb)
  · exact congrArg _ (tileLoad_misaligned h w64 ha)
  -- LD32U
  · exact fun hb hp => congrArg _ (tileLoad_inside h w64 ha hb hp)
  · exact fun hb => congrArg _ (tileLoad_outside h w64 ha hb)
  · exact congrArg _ (tileLoad_misaligned h w64 ha)
  -- LD64
  · exact fun hb hp => congrArg _ (tileLoad_inside h w64 ha hb hp)
  · exact fun hb => congrArg _ (tileLoad_outside h w64 ha hb)
  · exact congrArg _ (tileLoad_misaligned h w64 ha)
  -- LD32S
  · exact fun hb hp => congrArg _ (tileLoad_inside h iImm ha hb hp)
  · exact fun hb => congrArg _ (tileLoad_outside h iImm ha hb)
  · exact congrArg _ (tileLoad_misaligned h iImm ha)
  -- ST8
  · exact fun hb => ⟨congrArg _ (tileStoreOp_inside h ha hb), fun _ => memByte_goesOn_tileStore⟩
  · exact fun hb => congrArg _ (tileStoreOp_outside h ha hb)
  -- ST16
  · exact fun hb => ⟨congrArg _ (tileStoreOp_inside h ha hb), fun _ => memByte_goesOn_tileStore⟩
  · exact fun hb => congrArg _ (tileStoreOp_outside h ha hb)
  · exact congrArg _ (tileStoreOp_misaligned h ha)
  -- ST32
  · exact fun hb => ⟨congrArg _ (tileStoreOp_inside h ha hb), fun _ => memByte_goesOn_tileStore⟩
  · exact fun hb => congrArg _ (tileStoreOp_outside h ha hb)
  · exact congrArg _ (tileStoreOp_misaligned h ha)
  -- ST64
  · exact fun hb => ⟨congrArg _ (tileStoreOp_inside h ha hb), fun _ => memByte_goesOn_tileStore⟩
  · exact fun hb => congrArg _ (tileStoreOp_outside h ha hb)
  · exact congrArg _ (tileStoreOp_misaligned h ha)

/-! ### Writes of registers (R4, R6, R48, R490) -/

/-- A write that reaches a register is one of the part that it reaches. -/
theorem execRegisterWrite_reaches {s : State} {fn off len o : Nat} {p : Part_} (v : W64) (h : RegisterAt s fn off len o p) :
    exec (.registerWrite fn off len v) s = .next (partWrite s fn o p v) := by
  obtain ⟨hup, hhere, houtside, hreached⟩ := h
  show execRegisterWrite fn off len v s = _
  rw [execRegisterWrite, hup, hhere, if_neg (by decide), if_neg houtside, hreached]

/-- Without a host link or the function a write is ignored. -/
theorem execRegisterWrite_absent {s : State} {fn : Nat} (off len : Nat) (v : W64) (h : hostUp s = false ∨ fnExists s fn = false) :
    exec (.registerWrite fn off len v) s = .next s := by
  show execRegisterWrite fn off len v s = _
  rw [execRegisterWrite, if_pos]
  rcases h with h | h <;> simp [h]

/-- A write that reaches no register is ignored. -/
theorem execRegisterWrite_hole {s : State} {fn off len : Nat} (v : W64) (hout : ¬ (0x8000 ≤ off ∧ off < 0x8000 + 16 * vecCount s fn))
    (hnone : (pfOffset fn off).bind (fun o => reach o len) = none) : exec (.registerWrite fn off len v) s = .next s := by
  show execRegisterWrite fn off len v s = _
  rw [execRegisterWrite, if_neg hout, hnone]
  exact ite_self _

/-- A write inside the MSI-X table is one of the table. -/
theorem execRegisterWrite_table {s : State} {fn off : Nat} (len : Nat) (v : W64) (hup : hostUp s = true) (hhere : fnExists s fn = true)
    (hin : 0x8000 ≤ off ∧ off < 0x8000 + 16 * vecCount s fn) : exec (.registerWrite fn off len v) s = .next (tableWrite s fn off len v) := by
  show execRegisterWrite fn off len v s = _
  rw [execRegisterWrite, hup, hhere, if_neg (by decide), if_pos hin]

/-- A write of the data word of an entry of the MSI-X table. -/
theorem tableWrite_data (s : State) (fn vec : Nat) (v : W64) :
    tableWrite s fn (0x8008 + 16 * vec) 4 v = vectorMod s fn vec (fun V => { V with data := BitVec.ofNat 32 (fld v 31 0) }) := by
  have hentry : (0x8008 + 16 * vec - 0x8000) / 16 = vec := by omega
  have hword : (0x8008 + 16 * vec - 0x8000) % 16 / 4 = 2 := by omega
  rw [tableWrite, if_pos ⟨rfl, by omega⟩, hentry, hword, vectorWrite]

/-- A discarded half changes no block's answer. -/
@[simp] theorem blockAlive_dropHeld (s : State) (fn b : Nat) : blockAlive (dropHeld s fn) b = blockAlive s b := rfl

/-- A write to a block that does not answer changes nothing. -/
theorem regWrite_dead {s : State} {off : Nat} (fn : Nat) (v : W64) (h : blockAlive s (off / 2 ^ 20) = false) : regWrite s fn off v = s := by
  rw [regWrite, h]
  rfl

/-- A write of a transactional register is staged. -/
theorem regWrite_staged {s : State} {off : Nat} (fn : Nat) (v : W64) (h : blockAlive s (off / 2 ^ 20) = true) (ht : (txRow off).isSome = true) :
    regWrite s fn off v = txWrite s fn off v := by
  rw [regWrite, h, if_neg (by decide), if_pos ht]

/-- A write of a plain register sets its writable bits. -/
theorem regWrite_plain {s : State} {off : Nat} {r : RwRow} (fn : Nat) (v : W64) (h : blockAlive s (off / 2 ^ 20) = true)
    (ht : txRow off = none) (hr : rwRow off = some r) (hsel : off ≠ Reg.FEV_CLS_SEL) :
    regWrite s fn off v = setReg s off (if r.own then fn else 0) (v &&& w64 r.mask) := by
  rw [regWrite, h, if_neg (by decide), ht, if_neg (by decide), hr]
  dsimp only
  rw [if_neg (show ¬ (off = Reg.FEV_CLS_SEL ∧ fn ≠ 0) from fun hc => hsel hc.1)]

/-- A high half takes effect with the low half of the same register that the function holds. -/
theorem partWrite_high {s : State} {fn o : Nat} {low : BitVec 32} (v : W64) (h : (fnGet s fn).held = some (o, low)) :
    partWrite s fn o .high v = regWrite (dropHeld s fn) fn o (w64 (low.toNat + v.toNat % 2 ^ 32 * 2 ^ 32)) := by
  rw [partWrite, h]
  dsimp only
  rw [if_pos rfl]

/-- Settles O56: which part a write reaches, then what a write of that part does. -/
theorem registerWrites : Obligations.RegisterWrites := by
  refine ⟨fun fn off len v s h => execRegisterWrite_absent off len v h, fun fn off len v o r s h ha ht hr hsel => ?_,
    fun fn off len v o s h ha ht => ?_, fun fn off len v o s h ha => ?_, fun fn off len v o s h => execRegisterWrite_reaches v h,
    fun fn off len v o low s h hheld => ?_, fun fn vec v s hup hhere hvec => ?_,
    fun fn off len v s hout hnone => execRegisterWrite_hole v hout hnone⟩
  · rw [execRegisterWrite_reaches v h, partWrite, regWrite_plain (s := dropHeld s fn) fn v ha ht hr hsel]
  · rw [execRegisterWrite_reaches v h, partWrite, regWrite_staged (s := dropHeld s fn) fn v ha ht]
  · rw [execRegisterWrite_reaches v h, partWrite, regWrite_dead (s := dropHeld s fn) fn v ha]
  · rw [execRegisterWrite_reaches v h, partWrite_high v hheld]
  · rw [execRegisterWrite_table 4 v hup hhere (by omega), tableWrite_data]

/-- On a device without tiles the tile grid's block does not answer (R4). -/
theorem blockAlive_noTiles {s : State} (h : tileCount s.variant = 0) : blockAlive s 9 = false := by
  simp [blockAlive, alwaysBlock, h]

/-- A register of a block that does not answer reads zero. -/
theorem regRead_dead {s : State} {off : Nat} (fn : Nat) (h : blockAlive s (off / 2 ^ 20) = false) : regRead s fn off = 0 := by
  rw [regRead, h]
  rfl

/-- A write to a block that does not answer changes at most the half that the function holds (R490). -/
theorem partWrite_dead {s : State} {o : Nat} (fn : Nat) (p : Part_) (v : W64) (h : blockAlive s (o / 2 ^ 20) = false) :
    ∃ half, partWrite s fn o p v = fnMod s fn (fun F => { F with held := half }) := by
  cases p with
  | whole => exact ⟨none, regWrite_dead fn v h⟩
  | low => exact ⟨some (o, BitVec.ofNat 32 v.toNat), rfl⟩
  | high => exact ⟨none, regWrite_dead fn _ h⟩

/-- Settles O60: the tile grid's block does not answer there. -/
theorem absentUnitRegisters : Obligations.AbsentUnitRegisters := by
  refine ⟨fun s fn off h hoff => regRead_dead fn (hoff ▸ blockAlive_noTiles h), fun s fn off len v o p h hat ho => ?_⟩
  obtain ⟨half, hhalf⟩ := partWrite_dead fn p v (show blockAlive s (o / 2 ^ 20) = false from ho ▸ blockAlive_noTiles h)
  exact ⟨half, by rw [execRegisterWrite_reaches v hat, hhalf]⟩

end Sys2Proof.Proofs
end

section
/-! PROOFS. Power, temperature and the election: power samples, capping steps, trips, the loss of the main domain and the LEDs; claims of
the RSPs, the choice of the slot, a failed primary and a hung crossing. O2, O3. -/
namespace Sys2Proof.Proofs
open Sys2Proof.Machine Sys2Proof.Safety Sys2Proof.Laws

/-! ### The loss of the main domain (R34, R36) -/

/-- A key whose entries a filter drops reads as its default. -/
theorem tget_filter_dropped {α : Type} (d : Nat → α) (t : Tbl α) (p : Nat × α → Bool) {k : Nat} (h : ∀ v, p (k, v) = false) :
    tget d (t.filter p) k = d k := by
  induction t with
  | nil => rfl
  | cons e r ih =>
    by_cases hp : p e = true
    · have hkey : e.1 ≠ k := by
        rintro rfl
        exact absurd hp (by rw [h]; decide)
      rw [List.filter_cons_of_pos hp, tget, if_neg hkey, ih]
    · rw [List.filter_cons_of_neg hp, ih]

/-- The block of a register's offset, from its key. -/
theorem rk_block (off idx : Nat) : rk off idx / 2 ^ 52 = off / 2 ^ 20 := by
  rw [show 2 ^ 52 = 2 ^ 32 * 2 ^ 20 from rfl, ← Nat.div_div_eq_div_mul, rk_off]

/-- Outside the standby domain's blocks every register kept is at its reset value. -/
theorem tget_standbyRegs (t : Tbl W64) {off : Nat} (idx : Nat) (hrsp : off / 2 ^ 20 ≠ 13) (hmgt : off / 2 ^ 20 ≠ 14) :
    tget regReset (standbyRegs t) (rk off idx) = regReset (rk off idx) :=
  tget_filter_dropped _ _ _ fun _ => decide_eq_false (by rw [rk_block]; exact not_or.mpr ⟨hrsp, hmgt⟩)

/-- A reset of the main domain loses what the main domain holds. -/
theorem mainLost_mainReset (s : State) : MainLost s (mainReset s) := by
  constructor
  case regs => exact fun _ idx hrsp hmgt => tget_standbyRegs s.regs idx hrsp hmgt
  case bytes => exact fun _ => rfl
  case keySets => exact ⟨rfl, rfl⟩
  all_goals rfl

/-- What is lost says nothing of the power and the boot state. -/
theorem mainLost_set_pw_boot {s t : State} (h : MainLost s t) (pw : Power) (boot : Boot) :
    MainLost s { t with pw := pw, boot := boot } := by
  cases h
  constructor <;> assumption

/-- Nor of the power state before. -/
theorem mainLost_of_set_pw {s t : State} {pw : Power} (h : MainLost { s with pw := pw } t) : MainLost s t := by
  cases h
  constructor <;> assumption

/-- So it is with the main domain going down. -/
theorem mainLost_mainDown (s : State) : MainLost s (mainDown s) := mainLost_set_pw_boot (mainLost_mainReset s) _ _

/-! ### Shutdowns (R30, R31) -/

section
variable {s : State} (h : s.pw.mainOn = true)
include h

/-- A shutdown of a running main domain takes it down and keeps the cause. -/
theorem shutdown_running (cause : Nat) :
    shutdown s cause = { mainDown s with pw := { (mainDown s).pw with shutdownCause := cause } } := if_pos h

/-- A shutdown loses the main domain. -/
theorem mainLost_shutdown (cause : Nat) : MainLost s (shutdown s cause) := by
  rw [shutdown_running h]
  exact mainLost_set_pw_boot (mainLost_mainDown s) _ _

/-- The power state after a shutdown. -/
theorem shutdown_pw (cause : Nat) :
    (shutdown s cause).pw = { s.pw with mainOn := false, stage2 := false, tileMhz := 1800, shutdownCause := cause } := by
  rw [shutdown_running h]
  rfl
end

/-! ### Capping steps (R22) -/

/-- Above its floor the tile clock loses 100 MHz, and the step is counted. -/
theorem stepDown_clock {s : State} (h : 900 < s.pw.tileMhz) :
    stepDown s = bump (setClock s (s.pw.tileMhz - 100)) Reg.MGT_PWR_STEPS 0 := if_pos h

/-- At the floor stage 2 is set. -/
theorem stepDown_floor {s : State} (h : s.pw.tileMhz ≤ 900) : stepDown s = { s with pw := { s.pw with stage2 := true } } :=
  if_neg (Nat.not_lt.mpr h)

/-- An undone step leaves no stage 2, and raises the clock when there was none. -/
theorem stepUp_pw (s : State) :
    (stepUp s).pw.stage2 = false ∧
    (stepUp s).pw.tileMhz = if s.pw.stage2 then s.pw.tileMhz else min 1800 (s.pw.tileMhz + 100) := by
  unfold stepUp
  by_cases h : s.pw.stage2 = true
  · rw [if_pos h, if_pos h]
    exact ⟨rfl, rfl⟩
  · rw [if_neg h, if_neg h]
    exact ⟨Bool.eq_false_iff.mpr h, rfl⟩

/-- Below 97 % of the cap a step is undone when no hold forbids it. -/
theorem execPowerUndo_under {s : State} (hunder : s.pw.avgW * 100 < 97 * powerCap s) (hhold : s.pw.hold = false) :
    execPowerUndo s = .next (stepUp s) := by
  rw [execPowerUndo, if_pos ⟨hunder, hhold⟩]

/-- The state in which an evaluation takes its step: the average is noted and the next one begins. -/
def averaged (s : State) : State :=
  { s with pw := { s.pw with avgW := s.pw.sumW / s.pw.samples % 65536, sumW := 0, samples := 0 } }

/-- An evaluation above the cap and below 100 °C takes one step. -/
theorem execPowerEvaluation_over {s : State} (hsamples : s.pw.samples ≠ 0) (hover : powerCap s < s.pw.sumW / s.pw.samples)
    (hcool : fld (reg s Reg.MGT_THERM 0) 7 0 < 100) : execPowerEvaluation s = .next (stepDown (averaged s)) := by
  rw [execPowerEvaluation, if_neg hsamples]
  exact congrArg _ (if_pos ⟨hover, hcool⟩)

/-! ### The thermal hold (R30) -/

/-- A report leaves the power state alone. -/
@[simp] theorem report_pw (s : State) (r : Report) : (report s r).pw = s.pw :=
  (report_keeps s r (keeps_refl _ _) (sub_refl _)).pw (by decide)

/-- A hold is in force after a sample: it begins at 100 °C and lasts until 95 °C. -/
def thermalHold (s : State) (tmax : Nat) : Bool := decide (100 ≤ tmax) || (s.pw.hold && decide (95 < tmax))

/-- MGT_THERM after a sample. -/
def sampleWord (s : State) (tmax inlet outlet : Nat) : W64 := w64 (thermWord tmax inlet outlet (thermalHold s tmax))

/-- The hold and MGT_THERM are set. -/
def thermalSet (s : State) (tmax inlet outlet : Nat) : State :=
  setReg { s with pw := { s.pw with hold := thermalHold s tmax } } Reg.MGT_THERM 0 (sampleWord s tmax inlet outlet)

/-- The state after a sample was noted, before its step or shutdown: a hold that begins is counted and recorded. -/
def thermalNoted (s : State) (tmax inlet outlet : Nat) : State :=
  if thermalHold s tmax && !s.pw.hold then
    report (bump (thermalSet s tmax inlet outlet) Reg.MGT_THERM_HOLDS 0)
      { cls := 0x03, sev := 2, unit := 14, w3 := sampleWord s tmax inlet outlet }
  else thermalSet s tmax inlet outlet

/-- A sample is noted, then a shutdown or a step follows. -/
theorem execThermalSample_eq (a b c d inlet outlet : Nat) (s : State) :
    execThermalSample a b c d inlet outlet s = .next (
      if 110 ≤ max (max a b) (max c d) then shutdown (thermalNoted s (max (max a b) (max c d)) inlet outlet) 0x03
      else if 100 ≤ max (max a b) (max c d) then stepDown (thermalNoted s (max (max a b) (max c d)) inlet outlet)
      else thermalNoted s (max (max a b) (max c d)) inlet outlet) := by
  unfold execThermalSample thermalNoted thermalSet sampleWord thermalHold
  rfl

/-- Of the power state a sample sets the hold alone. -/
@[simp] theorem thermalSet_pw (s : State) (tmax inlet outlet : Nat) :
    (thermalSet s tmax inlet outlet).pw = { s.pw with hold := thermalHold s tmax } := rfl

/-- Of the power state a noted sample changes the hold alone. -/
@[simp] theorem thermalNoted_pw (s : State) (tmax inlet outlet : Nat) :
    (thermalNoted s tmax inlet outlet).pw = { s.pw with hold := thermalHold s tmax } := by
  unfold thermalNoted
  split
  · rw [report_pw, bump_pw, thermalSet_pw]
  · exact thermalSet_pw _ _ _ _

/-- At 100 °C a hold is in force. -/
theorem thermalHold_hot (s : State) {tmax : Nat} (h : 100 ≤ tmax) : thermalHold s tmax = true := by
  rw [thermalHold, decide_eq_true h, Bool.true_or]

/-- At 95 °C none is. -/
theorem thermalHold_cool (s : State) {tmax : Nat} (h : tmax ≤ 95) : thermalHold s tmax = false := by
  rw [thermalHold, decide_eq_false (by omega), decide_eq_false (by omega), Bool.and_false, Bool.or_false]

/-- At 95 °C a sample is noted without a record. -/
theorem thermalNoted_cool (s : State) {tmax : Nat} (inlet outlet : Nat) (h : tmax ≤ 95) :
    thermalNoted s tmax inlet outlet =
      setReg { s with pw := { s.pw with hold := false } } Reg.MGT_THERM 0 (w64 (thermWord tmax inlet outlet false)) := by
  rw [thermalNoted, thermalSet, sampleWord, thermalHold_cool s h]
  rfl

/-- The 48 V input is out of its range. -/
def inputLow (s : State) : State := { s with pw := { s.pw with v48 := false } }

/-- An undervoltage trip is a shutdown with the 48 V input out of its range. -/
theorem execUndervoltageTrip_eq (s : State) : execUndervoltageTrip s = .next (shutdown (inputLow s) 0x04) := rfl

/-! ### The LEDs and MG_ALERT_N (Table 2-7, R40) -/

section
variable {s : State} (hstby : s.pw.stby = true)
include hstby

/-- A kept cause of a shutdown lights FAULT. -/
theorem faultLed_cause (hcause : s.pw.shutdownCause ≠ 0) : faultLed s = .steady := by
  simp [faultLed, hstby, hcause]

/-- PWR is steady with the main domain on and the fabric trained, and blinks otherwise. -/
theorem pwrLed_powered : pwrLed s = if s.pw.mainOn = true ∧ fabricTrained s = true then .steady else .blink1Hz := by
  simp [pwrLed, hstby]

/-- ID follows MGT_LED_CTL.ID. -/
theorem idLed_powered : idLed s = if wbit (reg s Reg.MGT_LED_CTL 0) 0 then .steady else .off := by
  rw [idLed, hstby, Bool.true_and]

/-- With every record read and no cause kept FAULT shows minimal mode alone. -/
theorem faultLed_quiet (hcause : s.pw.shutdownCause = 0) (hread : s.fev.unread = 0) :
    faultLed s = if s.boot.minimal then .blink2Hz else .off := by
  have hnone : fatalUnread s = false := by rw [fatalUnread, hread]; rfl
  simp [faultLed, hstby, hcause, hnone]
end

/-- Without standby power nothing is lit or asserted. -/
theorem panel_unpowered {s : State} (h : s.pw.stby = false) :
    pwrLed s = .off ∧ faultLed s = .off ∧ idLed s = .off ∧ mgAlert s = false := by
  simp [pwrLed, faultLed, idLed, mgAlert, h]

/-- With every record read MG_ALERT_N is not asserted. -/
theorem mgAlert_read {s : State} (h : s.fev.unread = 0) : mgAlert s = false := by
  rw [mgAlert, h]
  exact Bool.and_false _

/-- With the main domain down no FAB LED is lit. -/
theorem fabLed_down {s : State} (k : Nat) (h : s.pw.mainOn = false) : fabLed s k = .off := by
  simp [fabLed, h]

/-- With the main domain down no OSFP LED is lit. -/
theorem osfpLed_down {s : State} (k : Nat) (h : s.pw.mainOn = false) : osfpLed s k = .off := by
  rw [osfpLed, h]
  rfl

/-- The panel after a shutdown. -/
theorem panel_shutdown {s : State} (hmain : s.pw.mainOn = true) (hstby : s.pw.stby = true) {cause : Nat} (hcause : cause ≠ 0) :
    faultLed (shutdown s cause) = .steady ∧ pwrLed (shutdown s cause) = .blink1Hz ∧ osfpLed (shutdown s cause) 0 = .off ∧
    fabLed (shutdown s cause) 0 = .off := by
  have hpw := shutdown_pw hmain cause
  have hdown : (shutdown s cause).pw.mainOn = false := by rw [hpw]
  have hpowered : (shutdown s cause).pw.stby = true := by rw [hpw]; exact hstby
  refine ⟨faultLed_cause hpowered (by rw [hpw]; exact hcause), ?_, osfpLed_down 0 hdown, fabLed_down 0 hdown⟩
  rw [pwrLed_powered hpowered, hdown]
  rfl

/-! ### What a thermal sample and a hot inlet lead to (R30) -/

/-- An inlet above 55 °C for 1 s shuts the main domain down. -/
theorem execInletOvertempTimeout_hot {s : State} (h : 55 < fld (reg s Reg.MGT_THERM 0) 15 8) :
    execInletOvertempTimeout s = .next (shutdown s 0x03) := by
  rw [execInletOvertempTimeout, if_pos h]

/-- At 110 °C the main domain goes off, and the cause is kept. -/
theorem execThermalSample_shutdown {a b c d : Nat} (inlet outlet : Nat) {s : State} (hhot : 110 ≤ max (max a b) (max c d))
    (hmain : s.pw.mainOn = true) :
    ∃ t, execThermalSample a b c d inlet outlet s = .next t ∧ t.pw.mainOn = false ∧ t.pw.shutdownCause = 3 := by
  have hpw := shutdown_pw (s := thermalNoted s (max (max a b) (max c d)) inlet outlet) (by rw [thermalNoted_pw]; exact hmain) 0x03
  rw [execThermalSample_eq, if_pos hhot]
  exact ⟨_, rfl, by rw [hpw], by rw [hpw]⟩

/-- From 100 °C on a hold is in force and the clock takes one step. -/
theorem execThermalSample_hold {a b c d : Nat} (inlet outlet : Nat) {s : State} (hhot : 100 ≤ max (max a b) (max c d))
    (hlow : max (max a b) (max c d) < 110) (hclock : 900 < s.pw.tileMhz) :
    ∃ t, execThermalSample a b c d inlet outlet s = .next t ∧ t.pw.hold = true ∧ t.pw.tileMhz = s.pw.tileMhz - 100 := by
  have hpw := thermalNoted_pw s (max (max a b) (max c d)) inlet outlet
  rw [execThermalSample_eq, if_neg (Nat.not_le.mpr hlow), if_pos hhot, stepDown_clock (by rw [hpw]; exact hclock)]
  refine ⟨_, rfl, ?_, ?_⟩
  · rw [bump_pw, setClock, hpw]
    exact thermalHold_hot s hhot
  · rw [bump_pw, setClock, hpw]

/-- At 95 °C a hold ends. -/
theorem execThermalSample_cool {a b c d : Nat} (inlet outlet : Nat) (s : State) (hcool : max (max a b) (max c d) ≤ 95) :
    execThermalSample a b c d inlet outlet s = .next (setReg { s with pw := { s.pw with hold := false } } Reg.MGT_THERM 0
      (w64 (thermWord (max (max a b) (max c d)) inlet outlet false))) := by
  rw [execThermalSample_eq, if_neg (by omega), if_neg (by omega), thermalNoted_cool s inlet outlet hcool]

/-- Settles O2: what a sample, an evaluation, an undone step and a shutdown leave, then what the panel shows of it. -/
theorem powerAndTemperature : Obligations.PowerAndTemperature := by
  refine ⟨fun w mv ma s => ⟨_, rfl, rfl, rfl, reg_setReg _ _ _ _⟩, fun s hsamples hover hcool hclock => ?_,
    fun s hsamples hover hcool hclock => ?_, fun s hstage hover => ?_, fun s hunder hhold => ?_,
    fun a b c d inlet outlet s => execThermalSample_shutdown inlet outlet, fun a b c d inlet outlet s => execThermalSample_hold inlet outlet,
    fun a b c d inlet outlet s => execThermalSample_cool inlet outlet s, fun s hmain hinlet => ?_, fun s hmain => ?_,
    fun s hmain hstby => ?_, fun s => panel_unpowered, fun s hstby => ⟨idLed_powered hstby, pwrLed_powered hstby⟩,
    fun s hstby hcause hread => ⟨faultLed_quiet hstby hcause hread, mgAlert_read hread⟩⟩
  · refine ⟨_, execPowerEvaluation_over hsamples hover hcool, ?_⟩
    rw [stepDown_clock (s := averaged s) hclock, regN_bump]
    exact ⟨rfl, rfl, rfl, rfl, rfl, rfl⟩
  · refine ⟨_, execPowerEvaluation_over hsamples hover hcool, ?_⟩
    rw [stepDown_floor (s := averaged s) hclock]
    exact ⟨rfl, rfl, rfl⟩
  · exact congrArg _ (if_pos ⟨hstage, hover⟩)
  · exact ⟨_, execPowerUndo_under hunder hhold, stepUp_pw s⟩
  · exact ⟨_, execInletOvertempTimeout_hot hinlet, mainLost_shutdown hmain _, by rw [shutdown_pw hmain], by rw [shutdown_pw hmain]⟩
  · have hpw := shutdown_pw (s := inputLow s) hmain 0x04
    exact ⟨_, _, execUndervoltageTrip_eq s, rfl, mainLost_of_set_pw (mainLost_shutdown (s := inputLow s) hmain _),
      mainLost_shutdown hmain _, by rw [hpw], by rw [hpw], by rw [shutdown_pw hmain], by rw [shutdown_pw hmain]⟩
  · obtain ⟨hfault, hpwr, hosfp, hfab⟩ := panel_shutdown (s := inputLow s) hmain hstby (cause := 0x04) (by decide)
    obtain ⟨hfault', hpwr', -, -⟩ := panel_shutdown hmain hstby (cause := 0x05) (by decide)
    exact ⟨_, _, execUndervoltageTrip_eq s, rfl, hfault, hfault', hpwr, hpwr', hosfp, hfab⟩

/-! ### The choice of the slot at the election (R13, R438, R442) -/

/-- What is measured and drawn at the choice of a slot leaves the boot state alone. -/
@[simp] theorem bootMeasured_boot (s : State) : (bootMeasured s).boot = s.boot :=
  (bootMeasured_keeps s (keeps_refl _ _) (sub_refl _)).boot (by decide)

/-- What the choice of a slot leaves of the election, and the stage it reaches: MGT, or minimal mode. -/
structure SlotChosen (b c : Boot) : Prop where
  firstClaim : c.firstClaim = b.firstClaim
  primary : c.primary = b.primary
  straps : c.straps = b.straps
  rspPass : c.rspPass = b.rspPass
  stage : c.stage = .mgt ∨ c.stage = .minimal ∧ c.minimal = true

/-- Minimal mode is one of the two. -/
theorem slotChosen_enterMinimal (s : State) (reason : Nat) (rom : Bool) : SlotChosen s.boot (enterMinimal s reason rom).boot := by
  rw [enterMinimal, bootMeasured_boot]
  exact ⟨rfl, rfl, rfl, rfl, .inr ⟨rfl, rfl⟩⟩

/-- A slot that boots enters stage MGT. -/
theorem slotChosen_bootSlot (s : State) (i reason : Nat) (diag : Bool) : SlotChosen s.boot (bootSlot s i reason diag).boot := by
  rw [bootSlot, bootMeasured_boot]
  exact ⟨rfl, rfl, rfl, rfl, .inl rfl⟩

/-- A choice between two ways that both choose does. -/
theorem slotChosen_ite {c : Prop} [Decidable c] {b : Boot} {s t : State} (hs : SlotChosen b s.boot) (ht : SlotChosen b t.boot) :
    SlotChosen b (if c then s else t).boot := by
  split <;> assumption

/-- The chosen slot boots, or the other one, or none. -/
theorem slotChosen_bootChosen (s : State) (i reason : Nat) (diag valid0 valid1 : Bool) :
    SlotChosen s.boot (bootChosen s i reason diag valid0 valid1).boot :=
  slotChosen_ite (slotChosen_bootSlot _ _ _ _)
    (slotChosen_ite (slotChosen_enterMinimal _ _ _) (slotChosen_bootSlot _ _ _ _))

/-- Whichever way the choice goes, a slot is chosen or minimal mode entered; on the way it writes the boot record and slot states alone. -/
theorem slotChosen_slotChoice (s : State) (valid0 valid1 : Bool) : SlotChosen s.boot (slotChoice s valid0 valid1).boot := by
  unfold slotChoice
  -- ST_SAFE, and three failed boots
  refine slotChosen_ite (slotChosen_enterMinimal _ _ _) (slotChosen_ite (slotChosen_enterMinimal _ _ _) ?_)
  -- the other slot by strap, the trial slot, the end of a trial, the active slot
  refine slotChosen_ite (slotChosen_bootChosen _ _ _ _ _ _) (slotChosen_ite ?_ (slotChosen_ite ?_ (slotChosen_bootChosen _ _ _ _ _ _)))
  · exact slotChosen_bootChosen (recWrite s _) _ _ _ _ _
  · exact slotChosen_bootChosen (recWrite (slotMod s _ _) _) _ _ _ _ _

/-- With ST_SAFE the choice is minimal mode. -/
theorem slotChoice_safe {s : State} (valid0 valid1 : Bool) (h : s.boot.straps.safe = true) :
    (slotChoice s valid0 valid1).boot.minimal = true := by
  rw [slotChoice, if_pos h, enterMinimal, bootMeasured_boot]

/-- The state in which the slot is chosen: the RSP is elected, the straps sampled and the power-up parameters read. -/
def elected (s : State) (quad atNs : Nat) (straps : Straps) : State :=
  profPower { s with boot := { s.boot with firstClaim := some atNs, primary := quad, straps := straps, sampled := true } }

/-- The first claim elects. -/
theorem claim_first {s : State} (quad atNs : Nat) (straps : Straps) (valid0 valid1 : Bool) (h : s.boot.firstClaim = none) :
    claim s quad atNs straps valid0 valid1 = slotChoice (elected s quad atNs straps) valid0 valid1 := by
  rw [claim, h]
  rfl

/-- A later claim changes the primary alone, and only within 10 µs from a lower quadrant. -/
theorem claim_later {s : State} (quad atNs : Nat) {t0 : Nat} (straps : Straps) (valid0 valid1 : Bool) (h : s.boot.firstClaim = some t0) :
    claim s quad atNs straps valid0 valid1 =
      { s with boot := { s.boot with primary := if atNs ≤ t0 + 10000 ∧ quad < s.boot.primary then quad else s.boot.primary } } := by
  rw [claim, h]
  dsimp only
  split <;> rfl

/-- An RSP has passed its self-test. -/
def rspPassed (s : State) (quad : Nat) : State :=
  { s with boot := { s.boot with rspPass := s.boot.rspPass ||| BitVec.ofNat 4 (2 ^ quad) } }

/-- An RSP that passes in time claims the election. -/
theorem execRspSelfTestDone_passes {s : State} {quad atNs : Nat} (straps : Straps) (valid0 valid1 : Bool) (hlive : s.boot.dead = false)
    (hstby : s.pw.stby = true) (htime : atNs ≤ 30000000) (hquad : quad < 4) :
    execRspSelfTestDone quad atNs true straps valid0 valid1 s = .next (claim (rspPassed s quad) quad atNs straps valid0 valid1) := by
  rw [execRspSelfTestDone, if_neg]
  · rfl
  · simp [hlive, hstby, htime, hquad]

/-- Settles O3: which claim the election takes, and what the first one's choice of a slot leaves. -/
theorem electionAndPrimary : Obligations.ElectionAndPrimary := by
  refine ⟨fun s hnone hstby => congrArg _ (if_pos ⟨hnone, hstby⟩),
    fun quad atNs straps v0 v1 s hlive hstby htime hquad hnone => ?_,
    fun quad atNs t0 straps v0 v1 s hlive hstby htime hquad hfirst => ?_, fun _ _ => rfl, fun _ _ => rfl⟩
  · obtain ⟨hclaim, hprimary, hstraps, hpass, hstage⟩ := slotChosen_slotChoice (elected (rspPassed s quad) quad atNs straps) v0 v1
    refine ⟨_, (execRspSelfTestDone_passes straps v0 v1 hlive hstby htime hquad).trans
      (congrArg _ (claim_first (s := rspPassed s quad) quad atNs straps v0 v1 hnone)),
      hclaim, hprimary, hstraps, hpass, hstage, fun hsafe => ?_⟩
    exact slotChoice_safe (s := elected (rspPassed s quad) quad atNs straps) v0 v1 hsafe
  · exact (execRspSelfTestDone_passes straps v0 v1 hlive hstby htime hquad).trans
      (congrArg _ (claim_later (s := rspPassed s quad) quad atNs straps v0 v1 hfirst))

end Sys2Proof.Proofs
end

section
/-! PROOFS. The power and reset pins, and what reset leaves. O1, O50. -/
namespace Sys2Proof.Proofs
open Sys2Proof.Machine Sys2Proof.Safety Sys2Proof.Laws

/-! ### Power and reset pins (R34, R36, R40, R414, R415, R441) -/

/-- A card without standby power begins a cold boot when it comes. -/
theorem execStandbyPowerUp_unpowered {s : State} (h : s.pw.stby = false) :
    execStandbyPowerUp s =
      .next { s with pw := { s.pw with stby := true }, boot := { s.boot with dead := false, prev := 0x01 } } :=
  if_neg (Bool.eq_false_iff.mp h)

/-- MG_RESET_N resets a powered card in full. -/
theorem execMgReset_powered {s : State} (h : s.pw.stby = true) : execMgReset s = .next (fullReset s 0x02) := if_pos h

/-- PERST# is asserted or released. -/
def perstSet (s : State) (asserted : Bool) : State := { s with pw := { s.pw with perst := asserted } }

/-- PERST# holds the main domain in reset: the boot waits at stage MAIN, or in minimal mode. -/
def perstHeld (s : State) : State :=
  { mainReset (perstSet s true) with
    boot := { s.boot with stage := if s.boot.minimal then .minimal else .main, selftestOk := false } }

section
variable {s : State} (hmain : s.pw.mainOn = true)
include hmain

/-- The loss of 48 V takes a running main domain down. -/
theorem execMainPowerLoss_running : execMainPowerLoss s = .next (mainDown (inputLow s)) := congrArg _ (if_pos hmain)

/-- PERST# puts a running main domain in reset. -/
theorem execPerstAssert_running : execPerstAssert s = .next (perstHeld s) := if_pos hmain

/-- The release of PERST# starts stage MAIN of a running main domain. -/
theorem execPerstDeassert_held (hperst : s.pw.perst = true) :
    execPerstDeassert s = .next (startMain (perstSet s false)) :=
  congrArg Host.Outcome.next (if_pos ⟨hmain, hperst⟩)
end

/-- Settles O1: the loss of 48 V and PERST# are the two ways here to a reset of the main domain, which loses what it holds. -/
theorem powerPinEvents : Obligations.PowerPinEvents := by
  refine ⟨fun s => execStandbyPowerUp_unpowered, fun s => ⟨_, rfl, rfl, rfl, rfl, rfl, rfl, rfl, rfl, rfl, rfl⟩,
    fun s => execMgReset_powered, fun s hmain => ?_, fun s => rfl, fun s hmain => ?_, fun s => execPerstDeassert_held⟩
  · exact ⟨_, execMainPowerLoss_running hmain, rfl, rfl, mainLost_of_set_pw (mainLost_mainDown (inputLow s))⟩
  · exact ⟨_, execPerstAssert_running hmain, rfl, hmain,
      mainLost_of_set_pw (mainLost_set_pw_boot (mainLost_mainReset (perstSet s true)) _ _)⟩

/-! ### The state after reset (R33, R97, R247, R255, R429, R477) -/

/-- Every table is empty after reset, and an empty table is canonical. -/
theorem canon_reset : Canon State.reset := ⟨rfl, rfl, rfl, rfl⟩

/-- After reset every register reads its reset value. -/
theorem reg_reset (off idx : Nat) : reg State.reset off idx = regReset (rk off idx) := rfl

/-- The slots of tenants 1 to 252 are EMPTY after reset: only tenant 0 and the firmware services are ACTIVE. -/
theorem tenant_reset_empty {t : Nat} (hpos : 0 < t) (hlast : t < 253) : tenant State.reset t = {} := if_neg (by omega)

/-- The registers whose reset value depends on their selection. -/
def bySelection : List Nat :=
  [Reg.CCS_EOVH, Reg.CCS_SHP_CFG, Reg.CCS_POOL, Reg.CCS_GRANT_RATE, Reg.CCS_GRANT_CFG, Reg.EMAC_CLS_PCPm]

/-- Every other register has one reset value under all its selections, that of its row. -/
theorem regReset_rk {off : Nat} (h : off ∉ bySelection) (idx : Nat) :
    regReset (rk off idx) = w64 (((resetRows.find? (fun r => r.1 = off)).map (·.2)).getD 0) := by
  simp only [bySelection, List.mem_cons, List.not_mem_nil, or_false, not_or] at h
  obtain ⟨heovh, hshp, hpool, hrate, hgrant, hpcp⟩ := h
  rw [regReset, rk_off]
  rw [if_neg heovh, if_neg hshp, if_neg hpool, if_neg hrate, if_neg hgrant, if_neg hpcp]

/-- A row of the reset values is the only one of its register, and its value depends on no selection. -/
theorem resetRows_unique : ∀ r ∈ resetRows, resetRows.find? (fun x => x.1 = r.1) = some r ∧ r.1 ∉ bySelection := by decide

/-- After reset a register with a row reads the row's value. -/
theorem reg_reset_of_row {off v : Nat} (h : (off, v) ∈ resetRows) (idx : Nat) : reg State.reset off idx = w64 v := by
  obtain ⟨hfind, hplain⟩ := resetRows_unique _ h
  rw [reg_reset, regReset_rk hplain, hfind]
  rfl

/-- Settles O50: every table is empty and reads as its default, and every register named has a row of its own. -/
theorem resetLeaves : Obligations.ResetLeaves := by
  refine ⟨canon_reset, ⟨rfl, rfl⟩, ⟨rfl, rfl, rfl, rfl⟩, fun _ => rfl, fun _ => rfl, fun _ => rfl, fun _ => rfl,
    fun t hpos hlast => by rw [tenant_reset_empty hpos hlast], fun _ _ => rfl, fun _ => rfl, fun _ => rfl, ?_⟩
  and_intros <;> exact reg_reset_of_row (by decide) 0

end Sys2Proof.Proofs
end

section
/-! PROOFS. The functions, vectors and ABI versions of the host interface, its window and its bulk data ports. O6, O7, O8. -/
namespace Sys2Proof.Proofs
open Sys2Proof.Machine Sys2Proof.Safety Sys2Proof.Laws

/-! ### Functions, vectors and ABI versions (R46, R47, R65, R67) -/

section
variable {s : State} (hup : hostUp s = true)
include hup

/-- NumVFs takes any number up to TotalVFs while VF Enable is clear. -/
theorem execNumvfsWrite_taken {n : Nat} (hoff : s.hif.vfEnable = false) (hn : n ≤ 252) :
    execNumvfsWrite n s = .next { s with hif := { s.hif with numVfs := n } } :=
  if_neg (by simp [hup, hoff, hn])

/-- VF Enable is set outside minimal mode. -/
theorem execVfEnableSet_taken (hfull : s.boot.minimal = false) :
    execVfEnableSet s = .next { s with hif := { s.hif with vfEnable := true } } :=
  if_neg (by simp [hup, hfull])

/-- Clearing VF Enable takes the VFs away. -/
theorem execVfEnableClear_taken (hon : s.hif.vfEnable = true) : execVfEnableClear s = .next (vfsGone s) :=
  if_pos (by simp [hup, hon])

/-- The FLR of a VF tears its tenant down and resets it. -/
theorem execVfFlr_taken {vf : Nat} (hfn : fnExists s vf = true) (hvf : vf ≠ 0) :
    execVfFlr vf s = .next (fnReset (startTeardown s vf) vf) :=
  if_pos (by simp [hup, hfn, hvf])

/-- The FLR of the PF takes the VFs away, tears tenant 0 down and resets the PF. -/
theorem execPfFlr_taken : execPfFlr s = .next (fnReset (startTeardown (vfsGone s) 0) 0) := if_pos hup

/-- Unmasking a vector of a function sends its message if it is pending. -/
theorem execMsixUnmask_reaches {fn vec : Nat} (hfn : fnExists s fn = true) (hvec : vec < vecCount s fn) :
    execMsixUnmask fn vec s = .next (
      if (vector s fn vec).pending then sendVec (vectorMod s fn vec (fun V => { V with masked := false, pending := false })) fn vec
      else vectorMod s fn vec (fun V => { V with masked := false, pending := false })) := by
  have hlow : (if fn = 0 then s.hif.pfVec else s.hif.vfVec) ≤ vec ↔ False := iff_false_intro (Nat.not_le.mpr hvec)
  exact if_neg (by simp [hup, hfn, hlow])
end

/-- An ABI version is agreed while every queue of the function is DISABLED. -/
theorem execAbiAgree_idle {fn : Nat} (version : Nat) {s : State} (hup : blockUp (dropHeld s fn) fn = true)
    (hidle : (dropHeld s fn).queues.any (fun e => decide (queueOwner (dropHeld s fn) e.1 = fn ∧ e.2.st ≠ 0)) = false) :
    execAbiAgree fn version s =
      .next (fnMod (dropHeld s fn) fn (fun F => { F with abi := if version = 1 ∨ version = 2 then version else 0 })) :=
  if_neg (by rw [hup, hidle]; decide)

/-- Settles O6: each command's condition holds, and a pending vector is what decides whether its message goes out. -/
theorem functionsAndVectors : Obligations.FunctionsAndVectors := by
  refine ⟨fun n s hup hoff hn => execNumvfsWrite_taken hup hoff hn, fun s hup hfull => execVfEnableSet_taken hup hfull,
    fun s hup hon => execVfEnableClear_taken hup hon, fun vf s hup hfn hvf => execVfFlr_taken hup hfn hvf,
    fun s hup => execPfFlr_taken hup, fun fn vec s hup hfn hvec hpending => ?_, fun fn vec s hup hfn hvec hquiet => ?_,
    fun fn version s hup hidle => execAbiAgree_idle version hup hidle⟩
  · exact (execMsixUnmask_reaches hup hfn hvec).trans (congrArg _ (if_pos hpending))
  · exact (execMsixUnmask_reaches hup hfn hvec).trans (congrArg _ (if_neg (Bool.eq_false_iff.mp hquiet)))

/-! ### The device-memory window (R50, R51, R73) -/

@[simp] theorem bumpFn_out (s : State) (off fn : Nat) : (bumpFn s off fn).out = s.out := by
  unfold bumpFn bumpFnBy
  split <;> rfl

/-- A context register that does not bind reaches nothing. -/
theorem access_unbound {s : State} {fn : Nat} {ctxReg : W64} (va len : Nat) (u : Use) (h : bound s fn ctxReg = false) :
    access s fn ctxReg va len u = (s, .unbound) := by
  rw [access, h]
  rfl

/-- A read through such a register answers all ones and fails. -/
theorem doRead_unbound {s : State} {fn : Nat} {ctxReg : W64} (va len : Nat) (bus : Option (List Byte)) (w : Waiter)
    (h : bound s fn ctxReg = false) : doRead s fn ctxReg va len bus w = (s, some (List.replicate len 0xFF), false, true) := by
  rw [doRead, access_unbound va len _ h]

/-- A window read through such a register is counted as failed and answers all ones. -/
theorem winRead_unbound {s : State} {fn : Nat} {ctxReg : W64} (va len : Nat) (bus : Option (List Byte))
    (h : bound s fn ctxReg = false) :
    winRead s fn ctxReg va len bus = emit (bumpFn s Reg.HIF_WIN_FAULTS fn) (.readData fn (List.replicate len 0xFF) false) := by
  rw [winRead, doRead_unbound va len bus _ h]
  rfl

section
variable {s : State} {fn off : Nat} (hup : hostUp s = true) (hfn : fnExists s fn = true)
include hup hfn

/-- A write within the window is a write of its context. -/
theorem execWindowWrite_inside {bytes : List Byte} (h : off + bytes.length ≤ windowSize s fn) :
    execWindowWrite fn off bytes s = .next (winWrite s fn (reg s Reg.HIF_WIN_CTX fn) (regN s Reg.HIF_WIN_BASE fn + off) bytes) :=
  if_neg (by simp [hup, hfn, h])

/-- A read within the window is a read of its context. -/
theorem execWindowRead_inside {len : Nat} (bus : Option (List Byte)) (h : off + len ≤ windowSize s fn) :
    execWindowRead fn off len bus s = .next (winRead s fn (reg s Reg.HIF_WIN_CTX fn) (regN s Reg.HIF_WIN_BASE fn + off) len bus) :=
  if_neg (by simp [hup, hfn, h])
end

/-- The window takes a context of the function's own tenant. -/
theorem execWinCtxWrite_own {s : State} {fn : Nat} {value : W64} (hup : hostUp (dropHeld s fn) = true)
    (hfn : fnExists (dropHeld s fn) fn = true) (hown : ctxOwner (dropHeld s fn) (fld value 15 0) = fn) :
    execWinCtxWrite fn value s = .next (setReg (fnMod (dropHeld s fn) fn (fun F => { F with badCtx := false })) Reg.HIF_WIN_CTX fn
      (w64 (fld value 16 0))) := by
  rw [execWinCtxWrite, if_neg (by simp [hup, hfn]), if_pos hown]

/-! ### Bulk data ports (R54, R55, R57) -/

/-- A rewritten port reads as rewritten. -/
@[simp] theorem port_portMod (s : State) (n : Nat) (f : Port → Port) : port (portMod s n f) n = f (port s n) := by
  simp [port, portMod, tmod]

/-- Emptying a port's prefetch buffer leaves its flags alone. -/
theorem port_portEmpty (s : State) (n : Nat) :
    port (portEmpty s n) n = { port s n with prefetch := [], highest := 0, fetched := 0, epoch := (port s n).epoch + 1 } :=
  port_portMod s n _

section
variable {s : State} {port off : Nat} (hup : hostUp s = true) (hport : port < 8)
include hup hport

/-- A write within a port's aperture is a write of its context. -/
theorem execDataPortWrite_inside {bytes : List Byte} (h : off + bytes.length ≤ aperture) :
    execDataPortWrite port off bytes s =
      .next (portWriteAt s port (reg s Reg.HIF_DPn_CTX port) (regN s Reg.HIF_DPn_ADDR port + off) bytes) :=
  if_neg (by simp [hup, hport, h])

/-- A read that the prefetch buffer does not serve is a read of its context. -/
theorem execDataPortRead_miss {len : Nat} (bus : Option (List Byte)) (h : off + len ≤ aperture)
    (hmiss : prefetched (Machine.port s port) off len = none) :
    execDataPortRead port off len bus s =
      .next (portReadAt s port (reg s Reg.HIF_DPn_CTX port) (regN s Reg.HIF_DPn_ADDR port + off) off len bus) := by
  rw [execDataPortRead, if_neg (by simp [hup, hport, h])]
  simp only [hmiss, ite_self]

/-- A read that the prefetch buffer holds is served from it. -/
theorem execDataPortRead_hit {len : Nat} (bus : Option (List Byte)) {d : List Byte} (h : off + len ≤ aperture)
    (hbound : bound s 0 (reg s Reg.HIF_DPn_CTX port) = true) (hhit : prefetched (Machine.port s port) off len = some d) :
    execDataPortRead port off len bus s = .next (emit (prefetchMore s port (off + len)) (.readData 0 d false)) := by
  rw [execDataPortRead, if_neg (by simp [hup, hport, h])]
  simp only [hbound, hhit, if_true]
end

/-- A port takes a context of tenant 0. -/
theorem execDataPortCtxWrite_own {s : State} {port : Nat} {value : W64} (hup : hostUp (dropHeld s 0) = true) (hport : port < 8)
    (hown : ctxOwner (portEmpty (dropHeld s 0) port) (fld value 15 0) = 0) :
    execDataPortCtxWrite port value s =
      .next (setReg (portEmpty (dropHeld s 0) port) Reg.HIF_DPn_CTX port (w64 (fld value 16 0))) := by
  rw [execDataPortCtxWrite, if_neg (by simp [hup, hport])]
  exact if_pos hown

/-- The bytes of a range of an aperture, each with its offset, take the place of those that the prefetch buffer held there. -/
def prefetchPut (P : Port) (off len : Nat) (d : List Byte) : Port :=
  { P with prefetch := P.prefetch.filter (fun c => !decide (off ≤ c.1 ∧ c.1 < off + len)) ++
      (List.range d.length).map (fun i => (off + i, d.getD i 0)) }

/-- A fill of the buffer's own epoch keeps what it read. -/
theorem execPrefetchFill_kept {s s1 s2 : State} {port epoch off len : Nat} {bus : Option (List Byte)} {ps : List (Target × Nat)}
    {d : List Byte} (hepoch : (Machine.port s port).epoch = epoch) (hbound : bound s 0 (reg s Reg.HIF_DPn_CTX port) = true)
    (hlen : off + len ≤ (Machine.port s port).fetched)
    (hxlate : xlateAll s (fld (reg s Reg.HIF_DPn_CTX port) 15 0) (regN s Reg.HIF_DPn_ADDR port + off) len { rd := true } = (s1, .ok ps))
    (hread : readPieces s1 0 ps bus = (s2, .ok d)) :
    execPrefetchFill port epoch off len bus s = .next (portMod s2 port (fun P => prefetchPut P off len d)) := by
  rw [execPrefetchFill, if_neg (by simp [hepoch, hbound, hlen]), hxlate]
  dsimp only
  rw [hread]
  rfl

/-- Settles O7: an access inside the window or an aperture is an access of its context, and an unbound one reaches nothing. -/
theorem windowAndDataPorts : Obligations.WindowAndDataPorts := by
  refine ⟨fun fn off bytes s hup hfn hlen => execWindowWrite_inside hup hfn hlen,
    fun fn off len bus s hup hfn hlen => execWindowRead_inside hup hfn bus hlen,
    fun fn off len bus s hup hfn hlen hunbound => ?_, fun fn value s hup hfn hown => execWinCtxWrite_own hup hfn hown,
    fun port off bytes s hup hport hlen => execDataPortWrite_inside hup hport hlen,
    fun port off len bus s hup hport hlen _ hmiss => execDataPortRead_miss hup hport bus hlen hmiss,
    fun port off len d bus s hup hport hlen hbound hhit => execDataPortRead_hit hup hport bus hlen hbound hhit,
    fun port value s hup hport hown => execDataPortCtxWrite_own hup hport hown,
    fun port epoch off len bus s s1 ps s2 d hepoch hbound hlen hxlate hread =>
      execPrefetchFill_kept hepoch hbound hlen hxlate hread⟩
  refine ⟨_, (execWindowRead_inside hup hfn bus hlen).trans (congrArg _ (winRead_unbound _ len bus hunbound)), ?_⟩
  exact congrArg _ (bumpFn_out s _ fn)

/-- The lengths that a commit takes (R55). -/
def CommitLength (l : Nat) : Prop := 64 ≤ l ∧ l ≤ 1048576 ∧ l % 64 = 0

section
variable {s : State} {port : Nat} {value : W64} (hup : hostUp (dropHeld s 0) = true) (hport : port < 8)
include hup hport

/-- A commit of a length it takes adds the length to the port's address. -/
theorem execDataPortCommit_taken (hlen : CommitLength (fld value 20 0)) :
    execDataPortCommit port value s = .next (setReg (portEmpty (dropHeld s 0) port) Reg.HIF_DPn_ADDR port
      (reg s Reg.HIF_DPn_ADDR port + w64 (fld value 20 0))) := by
  rw [execDataPortCommit, if_neg (by simp [hup, hport])]
  exact if_pos hlen

/-- Any other is noted in BAD_COMMIT. -/
theorem execDataPortCommit_bad (hlen : ¬ CommitLength (fld value 20 0)) :
    execDataPortCommit port value s =
      .next (portMod (portEmpty (dropHeld s 0) port) port (fun P => { P with badCommit := true })) := by
  rw [execDataPortCommit, if_neg (by simp [hup, hport])]
  exact if_neg hlen
end

/-- An empty prefetch buffer serves no read. -/
theorem prefetched_empty {P : Port} (h : P.prefetch = []) (off : Nat) {len : Nat} (hlen : 0 < len) : prefetched P off len = none := by
  cases len with
  | zero => exact absurd hlen (Nat.lt_irrefl 0)
  | succ n => rw [prefetched, h]; rfl

/-- Settles O8: a commit writes one register and the port's own flags, and a port whose buffer is empty reads memory at its address. -/
theorem dataPortCommitAdds : Obligations.DataPortCommitAdds := by
  refine ⟨fun port value s hup hport hmin hmax hmul => ?_, fun port value s hup hport hbad => ?_,
    fun port off bytes s hup hport hlen => execDataPortWrite_inside hup hport hlen,
    fun port off len bus s hup hport hlen hempty hpos =>
      execDataPortRead_miss hup hport bus hlen (prefetched_empty hempty off hpos)⟩
  · have hemptied := port_portEmpty (dropHeld s 0) port
    refine ⟨_, execDataPortCommit_taken hup hport ⟨hmin, hmax, hmul⟩, reg_setReg _ _ _ _, fun off idx hother hidx => ?_,
      fun a => rfl, (congrArg Port.badCommit hemptied :), (congrArg Port.prefetch hemptied :)⟩
    refine reg_setReg_other _ _ _ _ off idx ?_
    rw [Nat.mod_eq_of_lt hidx, Nat.mod_eq_of_lt (Nat.lt_trans hport (by decide))]
    exact Decidable.not_and_iff_or_not.mp fun ⟨hoff, hport'⟩ => hother (Prod.ext hoff hport')
  · exact ⟨_, execDataPortCommit_bad hup hport (by unfold CommitLength; omega), rfl, fun a => rfl,
      congrArg Port.badCommit (port_portMod _ port _)⟩

end Sys2Proof.Proofs
end

section
/-! PROOFS. Counters of a function, which tell functions apart by 32 bits of their number: a doorbell that discards a held slot, a cell that
waited too long for its region. O9, O23, O58. -/
namespace Sys2Proof.Proofs
open Sys2Proof.Machine Sys2Proof.Safety Sys2Proof.Laws

/-! ### A counter of a function and of the device (R74) -/

/-- Below 2^32 a function's counter goes up by one. -/
theorem regN_bumpFn {fn : Nat} (s : State) (off : Nat) (h : fn < 2 ^ 32) : regN (bumpFn s off fn) off fn = wrap32 (regN s off fn + 1) := by
  by_cases hpf : fn = 0
  · subst hpf
    exact regN_bump s off 0
  · have hreg : reg (bumpBy s off 0 1) off fn = reg s off fn := reg_setReg_other _ _ _ _ _ _ (.inr (by omega))
    rw [bumpFn, bumpFnBy, if_neg hpf]
    exact (regN_bump _ off fn).trans (by rw [regN, hreg, regN])

/-! ### A doorbell of a queue that takes it (R58, R59, R62) -/

/-- A slot that is held is discarded and counted. -/
def slotDropped (s : State) (fn c : Nat) : State :=
  if (queue s c).slot = [] then s else bumpFn (queueMod s c (fun Q => { Q with slot := [] })) Reg.HIF_INL_DISCARD fn

/-- A rewritten queue reads as rewritten. -/
@[simp] theorem queue_queueMod (s : State) (q : Nat) (f : QueueC → QueueC) : queue (queueMod s q f) q = f (queue s q) := by
  simp [queue, queueMod, tmod]

@[simp] theorem queue_bumpFn (s : State) (off fn q : Nat) : queue (bumpFn s off fn) q = queue s q := by
  unfold bumpFn bumpFnBy
  split <;> rfl

/-- The queue keeps all but its slot. -/
theorem queue_slotDropped (s : State) (fn c : Nat) : queue (slotDropped s fn c) c = { queue s c with slot := [] } := by
  unfold slotDropped
  split
  · next h => rw [← h]
  · simp

/-- A doorbell that is taken drops the slot and leaves its TAIL pending. -/
theorem execDoorbell_taken {fn q off len : Nat} {s : State} {c : Nat} (value : W64) (hup : hostUp s = true) (hfn : fnExists s fn = true)
    (hoff : off = 0) (hlen : len = 4 ∨ len = 8) (hq : queueOf s fn q = some c) (htakes : queueTakes s fn (some c) = true) :
    ∃ u, execDoorbell fn q off len value s = .next u ∧ u.regs = (slotDropped s fn c).regs ∧
      queue u c = { queue s c with slot := [], db := some (fld value 31 0) } := by
  have hdb := queue_queueMod (slotDropped s fn c) c (fun Q => { Q with db := some (fld value 31 0) })
  rw [queue_slotDropped] at hdb
  have hwidth : (decide (len = 4) || decide (len = 8)) = true := by
    rw [Bool.or_eq_true, decide_eq_true_eq, decide_eq_true_eq]
    exact hlen
  rw [execDoorbell, if_neg (by rw [hup, hfn, hwidth, hoff]; decide), hq]
  dsimp only
  rw [if_neg (by simp [htakes])]
  exact ⟨_, rfl, rfl, hdb⟩

/-- What R58 and R62 say of a doorbell that is taken holds for every function whose number has 32 bits, as those of the VFs have (R46). -/
theorem doorbell_taken {fn q off len : Nat} {s : State} {c : Nat} (value : W64) (hbits : fn < 2 ^ 32) (hup : hostUp s = true)
    (hfn : fnExists s fn = true) (hoff : off = 0) (hlen : len = 4 ∨ len = 8) (hq : queueOf s fn q = some c)
    (htakes : queueTakes s fn (some c) = true) :
    ∃ u, exec (.doorbell fn q off len value) s = .next u ∧ (queue u c).db = some (fld value 31 0) ∧ (queue u c).slot = [] ∧
      (queue u c).seq = (queue s c).seq ∧ regN u Reg.HIF_INL_DISCARD fn =
        if (queue s c).slot = [] then regN s Reg.HIF_INL_DISCARD fn else wrap32 (regN s Reg.HIF_INL_DISCARD fn + 1) := by
  obtain ⟨u, hu, hregs, hqueue⟩ := execDoorbell_taken value hup hfn hoff hlen hq htakes
  refine ⟨u, hu, by rw [hqueue], by rw [hqueue], by rw [hqueue], ?_⟩
  rw [regN, reg, hregs, slotDropped]
  split
  · rfl
  · exact regN_bumpFn _ _ hbits

/-- A card with 2^32 VFs, more than any command gives it (R46). VF 2^32 has queue 0, which is ACTIVE and whose slot is held: its
HIF_INL_DISCARD is kept where the PF's is. -/
def wideVf : State :=
  { State.reset with
    pw := { mainOn := true, perst := false }
    hif := { vfEnable := true, numVfs := 2 ^ 32 }
    fns := [(2 ^ 32, { abi := 2 })]
    owners := [(resId 0x02 0, 2 ^ 32)]
    qlocal := [(0, 1)]
    queues := [(0, { st := 1, slot := [(0, some 0)] })] }

/-- Refutes O58: the doorbell of `wideVf` counts the discard for VF 2^32 and for the device in one register, which goes from 0 to 2. -/
theorem not_doorbellDiscardsHeldSlot : ¬ Obligations.DoorbellDiscardsHeldSlot := by
  intro h
  obtain ⟨u, hu, -, hcount, -⟩ := h (2 ^ 32) 0 0 4 0 wideVf 0 (by decide) (by decide) rfl (.inl rfl) (by decide) (by decide) (by decide)
  have htwo : regN u Reg.HIF_INL_DISCARD (2 ^ 32) = 2 := by
    cases hu
    decide
  exact absurd (htwo.symm.trans hcount) (by decide)

/-- Refutes O9: its first clause says of a held slot what O58 does. -/
theorem not_doorbellsRingsAndHeads : ¬ Obligations.DoorbellsRingsAndHeads := by
  rintro ⟨hbell, -⟩
  refine not_doorbellDiscardsHeldSlot fun fn q off len value s c hup hfn hoff hlen hq htakes hheld => ?_
  obtain ⟨u, hu, -, hslot, hseq, hcount⟩ := hbell fn q off len value s c hup hfn hoff hlen hq htakes
  exact ⟨u, hu, hslot, hcount.trans (if_neg hheld), hseq⟩

/-! ### A cell that waited too long for its region (R158) -/

@[simp] theorem bumpFn_atu (s : State) (off fn : Nat) : (bumpFn s off fn).atu = s.atu := by
  unfold bumpFn bumpFnBy
  split <;> rfl

@[simp] theorem bumpFn_tpe (s : State) (off fn : Nat) : (bumpFn s off fn).tpe = s.tpe := by
  unfold bumpFn bumpFnBy
  split <;> rfl

/-- The cell that has waited longest is dropped and counted for the tenant of its connection. -/
theorem execRegionCacheTimeout_drops {k : Packet} {r : List Packet} {s : State} (hwait : s.atu.regionWait = k :: r) :
    execRegionCacheTimeout s =
      .next (bumpFn { s with atu := { s.atu with regionWait := r } } Reg.ATU_RGN_STALL (connTenant s (packetConn k))) := by
  rw [execRegionCacheTimeout, hwait]

/-- What R158 counts holds for every tenant whose number has 32 bits, as each has (R429). -/
theorem regionCacheTimeout_counts {k : Packet} {r : List Packet} {s : State} (hwait : s.atu.regionWait = k :: r)
    (hbits : connTenant s (packetConn k) < 2 ^ 32) :
    ∃ u, exec .regionCacheTimeout s = .next u ∧ u.atu.regionWait = r ∧ u.tpe = s.tpe ∧
      regN u Reg.ATU_RGN_STALL (connTenant s (packetConn k)) = wrap32 (regN s Reg.ATU_RGN_STALL (connTenant s (packetConn k)) + 1) := by
  refine ⟨_, execRegionCacheTimeout_drops hwait, ?_, ?_, regN_bumpFn _ _ hbits⟩
  · rw [bumpFn_atu]
  · rw [bumpFn_tpe]

/-- A card on which a cell of QP 0 waits for its region, and the QP's owner is 2^32, which is no tenant's number (R429). -/
def wideTenant : State :=
  { State.reset with owners := [(resId 0x03 0, 2 ^ 32)], atu := { regionWait := [{ cell := {} }] } }

/-- Refutes O23, in its clause on ATU_RGN_STALL: the timeout of `wideTenant` counts the cell for tenant 2^32 and for the device in one
register, which goes from 0 to 2. -/
theorem not_receivingCells : ¬ Obligations.ReceivingCells := by
  rintro ⟨-, -, -, -, htimeout, -⟩
  obtain ⟨u, hu, -, -, hcount⟩ := htimeout { cell := {} } [] wideTenant (2 ^ 32) rfl (by decide)
  have htwo : regN u Reg.ATU_RGN_STALL (2 ^ 32) = 2 := by
    cases hu
    decide
  exact absurd (htwo.symm.trans hcount) (by decide)

end Sys2Proof.Proofs
end

section
/-! PROOFS. An entry starts, reads its fragment table and finishes. O11. -/
namespace Sys2Proof.Proofs
open Sys2Proof.Machine Sys2Proof.Safety Sys2Proof.Laws

/-! ### Entries of a queue -/

/-- Queues that are the same have the same entries. -/
theorem entry_congr {s t : State} (h : t.queues = s.queues) (q idx : Nat) : entry t q idx = entry s q idx := by
  rw [entry, queue, h, entry, queue]

/-- The entry that is found at an index has that index. -/
theorem idx_of_entry {s : State} {q idx : Nat} {e : Entry} (h : entry s q idx = some e) : e.idx = idx := by
  simpa using List.find?_some h

/-- Rewriting what stands at an index rewrites what is found there, if it keeps the index. -/
theorem find_mapIf {f : Entry → Entry} (hf : ∀ e, (f e).idx = e.idx) (idx : Nat) (l : List Entry) :
    (mapIf (fun e => e.idx = idx) f l).find? (fun e => e.idx = idx) = (l.find? (fun e => e.idx = idx)).map f := by
  induction l with
  | nil => rfl
  | cons e r ih =>
    by_cases he : e.idx = idx
    · simp [mapIf, he, hf]
    · simpa [mapIf, he] using ih

/-- A rewritten entry reads as rewritten. -/
theorem entry_entryMod {s : State} {q idx : Nat} {e : Entry} {f : Entry → Entry} (hf : ∀ e, (f e).idx = e.idx)
    (h : entry s q idx = some e) : entry (entryMod s q idx f) q idx = some (f e) := by
  have hqueue : (queue (entryMod s q idx f) q).entries = mapIf (fun e => e.idx = idx) f (queue s q).entries := by
    simp [entryMod, queue, queueMod, tmod]
  rw [entry, hqueue, find_mapIf hf]
  exact congrArg (Option.map f) h

/-! ### An entry starts (R125, R131, R146) -/

section
variable {s : State} {q idx : Nat} {e : Entry} (he : entry s q idx = some e)
include he

/-- An entry whose turn has come, that waits for no connection and invalidates nothing, is checked. -/
theorem entryStart_checks (hphase : e.phase = 0) (hst : (queue s q).st = 1 ∨ (queue s q).st = 2) (hturn : mayStart (queue s q) e = true)
    (hop : opcode e ≠ 0x20) (hconn : waitsConn s q e = false) : entryStart s q idx = startEntry s q e := by
  rw [entryStart, he]
  dsimp only
  rw [if_neg (by simp [hphase, hst, hturn]), if_neg (by simp [hop]), if_neg (by simp [hconn])]

/-- An entry that is marked as started is. -/
theorem entry_markStarted : ∃ x, entry (markStarted s q idx) q idx = some x ∧ x.phase = 1 ∧ x.taken = true ∧ x.bytes = e.bytes ∧
    x.frags = e.frags ∧ x.held = e.held := by
  rw [markStarted, he]
  refine ⟨_, entry_entryMod ?_ ((entry_congr ?_ q idx).trans he), rfl, rfl, rfl, rfl, rfl⟩
  · exact fun _ => rfl
  · exact (keeps_foldl (m := 0x2000000) (keeps_refl _ _) fun t r ht => forgetRecords_keeps t _ _ ht (sub_refl _)).queues (by decide)
end

/-- An entry that passes every check and is neither indirect nor stale is marked as started. -/
theorem startEntry_passes {s : State} {q : Nat} {e : Entry} (hdirect : flag e 10 = false) (hform : formBad s q e = false)
    (hunit : unitBad s e = false) (hlength : lengthBad s q e = none) (hprot : protectionBad s q e = false) (hfresh : isStale s e = false)
    (hroute : routeBad s q e = none) : startEntry s q e = markStarted s q e.idx := by
  simp [startEntry, noteStale, hdirect, hform, hunit, hlength, hprot, hfresh, hroute]

/-! ### The fragment table comes back (R92, R157) -/

section
variable {s t s2 : State} {q idx i : Nat} {e : Entry} {fs : List Frag}

/-- The fragments are in, and the entry waits for them. -/
theorem takeFrags_waiting (he : entry s q idx = some e) (hfrags : e.frags = some fs) (hphase : e.phase = 1) (htaken : e.taken = false) :
    takeFrags s q idx = acceptFrags s q e fs := by
  rw [takeFrags, he]
  dsimp only
  rw [hfrags]
  exact if_pos ⟨hphase, by simp [htaken]⟩

/-- The state in which the regions of the fragments are held for the entry. -/
def fragsHeld (s : State) (q idx : Nat) (fs : List Frag) : State :=
  entryMod ((fragRegions fs).foldl admitTake s) q idx (fun e => { e with held := fragRegions fs })

/-- Fragments that pass their checks and find places for their regions start a local entry. -/
theorem acceptFrags_passes (hlen : fs.foldl (fun n f => n + f.len) 0 ≤ 2 ^ 30)
    (hcheck : checkFrags s (queueOwner s q) (dctx e) (scatters e) (if scatters e then { wr := true } else { rd := true }) 0 fs =
      (s2, .ok, i))
    (hlocal : isRemote (opcode e) = false) (hroom : (fragRegions fs).all (regionRoom s2) = true) :
    acceptFrags s q e fs = markStarted (fragsHeld s2 q e.idx fs) q e.idx := by
  have hroute : routeBad s2 q e = none := by simp [routeBad, hlocal]
  rw [acceptFrags, if_neg (Nat.not_lt.mpr hlen)]
  dsimp only
  rw [hcheck]
  dsimp only
  rw [hroute]
  dsimp only
  rw [if_neg (by simp [hroom]), if_neg (by simp [hlocal])]
  rfl

/-- Checking fragments leaves the queues alone. -/
theorem checkFrags_queues {t c : Nat} {dest : Bool} {u : Use} {n : Nat} {x : Start}
    (hcheck : checkFrags s t c dest u n fs = (s2, x, i)) : s2.queues = s.queues := by
  have hkeeps := (checkFrags_keeps s t c dest u n fs (keeps_refl _ s) (sub_refl _)).queues (by decide)
  rwa [hcheck] at hkeeps

/-- The end of a read leaves the queues alone. -/
theorem finishRead_queues {t : Nat} {x : Issued} {bus : Option (List Byte)} {r : Rd} (hread : finishRead s t x bus = (s2, r)) :
    s2.queues = s.queues := by
  have hkeeps := (finishRead_keeps s t x bus (keeps_refl _ s) (sub_refl _)).queues (by decide)
  rwa [hread] at hkeeps

/-- An entry whose regions are held has them. -/
theorem entry_fragsHeld (he : entry s q idx = some e) : entry (fragsHeld s q idx fs) q idx = some { e with held := fragRegions fs } := by
  refine entry_entryMod (f := fun e => { e with held := fragRegions fs }) (fun _ => rfl) ((entry_congr ?_ q idx).trans he)
  exact (keeps_foldl (m := 0x20000) (keeps_refl _ _) fun t r ht => admitTake_keeps t r ht (sub_refl _)).queues (by decide)

/-- The fragment table that the entry holds once its read has ended in `s`. -/
def tableIn (s : State) (q idx : Nat) (fs : List Frag) : State :=
  entryMod (entryMod s q idx (fun e => { e with tblRead := none })) q idx (fun x => { x with frags := some fs })

/-- The entry reads as it was, with its fragments and without its read. -/
theorem entry_tableIn (he : entry s q idx = some e) :
    entry (tableIn s q idx fs) q idx = some { e with tblRead := none, frags := some fs } :=
  entry_entryMod (f := fun x => { x with frags := some fs }) (fun _ => rfl)
    (entry_entryMod (f := fun x => { x with tblRead := none }) (fun _ => rfl) he)

/-- Rewriting an entry is the same by any two rules that agree on the entries at its index. -/
theorem entryMod_congr {f g : Entry → Entry} (h : ∀ y ∈ (queue s q).entries, y.idx = idx → f y = g y) :
    entryMod s q idx f = entryMod s q idx g := by
  have hmap : mapIf (fun y => y.idx = idx) f (queue s q).entries = mapIf (fun y => y.idx = idx) g (queue s q).entries := by
    refine List.map_congr_left fun y hy => ?_
    by_cases hidx : y.idx = idx
    · simp [hidx, h y hy hidx]
    · simp [hidx]
  rw [entryMod, queueMod, tmod, entryMod, queueMod, tmod]
  exact congrArg (fun l => { s with queues := tset (fun _ => {}) s.queues q { queue s q with entries := l } }) hmap

/-- What stands at the index of an entry, once its read is over, has the LENGTH of what stood there. -/
theorem elen_of_mem_entryMod {y : Entry} (h : ∀ y ∈ (queue s q).entries, y.idx = idx → elen y = elen e)
    (hy : y ∈ (queue (entryMod s q idx (fun e => { e with tblRead := none })) q).entries) (hidx : y.idx = idx) : elen y = elen e := by
  simp only [entryMod, queue_queueMod, mapIf, List.mem_map] at hy
  obtain ⟨z, hz, rfl⟩ := hy
  by_cases hz' : z.idx = idx
  · rw [if_pos (by simpa using hz')]
    exact h z hz hz'
  · rw [if_neg (by simpa using hz')] at hidx
    exact absurd hidx hz'

/-- A table that was read is parsed, and its fragments are taken. All entries at the index must have the LENGTH of the first, as they do
where it is the only one: the others are parsed by their own. -/
theorem execFragmentTableRead_read {x : Issued} {bus : Option (List Byte)} {b : List Byte} (he : entry s q idx = some e)
    (hone : ∀ y ∈ (queue s q).entries, y.idx = idx → elen y = elen e) (hread : e.tblRead = some x)
    (hfinish : finishRead s (queueOwner s q) x bus = (t, .ok b)) :
    execFragmentTableRead q idx bus s = .next (takeFrags (tableIn t q idx (parseFrags (elen e) b)) q idx) := by
  rw [execFragmentTableRead, he]
  dsimp only
  rw [hread]
  simp only [hfinish]
  refine congrArg (fun u => Host.Outcome.next (takeFrags u q idx)) (entryMod_congr fun y hy hidx => ?_)
  have hsame : queue t q = queue s q := by rw [queue, finishRead_queues hfinish, queue]
  rw [elen_of_mem_entryMod (e := e) (by rwa [hsame]) hy hidx]
end

/-! ### An entry finishes (R72, R84) -/

section
variable {s : State} {q idx : Nat} {e : Entry} (he : entry s q idx = some e) (hphase : e.phase = 2) (hflushes : e.flushes = 0)
include he hphase hflushes

/-- A completed entry that wrote no peer page writes its header word. -/
theorem entryFinish_writes (hleaves : e.leaves = []) : entryFinish s q idx = finishEntry s q e := by
  rw [entryFinish, he]
  dsimp only
  rw [if_neg (by simp [hphase, hflushes]), if_neg (by simp [hleaves])]
end

/-- Writing an entry back leaves the queues alone. -/
theorem writeBack_queues {s t : State} {q : Nat} {e : Entry} {l : List (Nat × List Byte)} {w : Wrote}
    (hwrite : writeBack s q e l = (t, w)) : t.queues = s.queues := by
  have hkeeps := (writeBack_keeps s q e l (keeps_refl _ s) (sub_refl _)).queues (by decide)
  rwa [hwrite] at hkeeps

/-- The entry once its header word is written. -/
def finishAt (time : Nat) (e : Entry) : Entry := { e with phase := 3, doneAt := time }

/-- The entry at an index has finished at this time. -/
def entryFinished (s : State) (q idx : Nat) : State :=
  queueMod (entryMod s q idx (finishAt s.time)) q
    (fun Q => { Q with finishedAt := Q.finishedAt ++ [(idx, s.time)] })

/-- What that leaves of the queue. -/
theorem queue_entryFinished (s : State) (q idx : Nat) : queue (entryFinished s q idx) q =
    { queue s q with
      entries := mapIf (fun e => e.idx = idx) (finishAt s.time) (queue s q).entries
      finishedAt := (queue s q).finishedAt ++ [(idx, s.time)] } := by
  simp [entryFinished, entryMod]

/-- An entry that is written back and holds no region has finished. -/
theorem finishEntry_written {s t : State} {q : Nat} {e : Entry} {l : List (Nat × Nat)} (hheld : e.held = [])
    (hwrite : writeBack s q e (entryWrites (queue s q) e) = (t, .ok l)) :
    finishEntry s q e = afterFinish (entryFinished t q e.idx) q := by
  rw [finishEntry, hwrite]
  dsimp only
  rw [hheld]
  rfl

/-- HEAD stays where the entry there has not finished. -/
theorem advanceHead_stays {Q : QueueC} (h : Q.entries.any (fun e => e.idx = Q.hd ∧ e.phase = 3) = false) (n : Nat) : advanceHead Q n = Q := by
  cases n with
  | zero => rfl
  | succ n => rw [advanceHead, h]; rfl

/-- A HEAD that is published is not written. -/
theorem headWrite_published {s : State} {q : Nat} (h : (queue s q).published = (queue s q).hd) : headWrite s q = s :=
  if_pos (.inr (.inl h))

/-- A queue that has fetched all it may fetches nothing. -/
theorem fetchRound_over {s : State} {q : Nat} (h : fetchEnd (queue s q) ≤ (queue s q).fetch) : fetchRound s q = s :=
  if_pos (.inl h)

/-- An ACTIVE queue does not settle. -/
theorem settle_active {s : State} {q : Nat} (h : (queue s q).st = 1) : settle s q = s := by simp [settle, h]

/-- An entry behind HEAD finishes with no consequence for its queue, where the queue has nothing else to do. -/
theorem afterFinish_quiet {s : State} {q : Nat} (hst : (queue s q).st = 1)
    (hhead : (queue s q).entries.any (fun e => e.idx = (queue s q).hd ∧ e.phase = 3) = false)
    (hpub : (queue s q).published = (queue s q).hd) (hfetch : fetchEnd (queue s q) ≤ (queue s q).fetch) :
    afterFinish s q = queueMod s q (fun Q => advanceHead Q Q.entries.length) ∧ queue (afterFinish s q) q = queue s q := by
  have hqueue : queue (queueMod s q (fun Q => advanceHead Q Q.entries.length)) q = queue s q :=
    (queue_queueMod s q _).trans (advanceHead_stays hhead _)
  have hafter : afterFinish s q = queueMod s q (fun Q => advanceHead Q Q.entries.length) := by
    rw [afterFinish, headWrite_published (by rw [hqueue, hpub]), fetchRound_over (by rw [hqueue]; exact hfetch),
      settle_active (by rw [hqueue, hst])]
  exact ⟨hafter, hafter ▸ hqueue⟩

/-- The entry at HEAD has not finished either when one at another index has. -/
theorem any_mapIf_other {idx hd : Nat} {f : Entry → Entry} (hf : ∀ e, (f e).idx = e.idx) (hother : idx ≠ hd) (l : List Entry) :
    (mapIf (fun e => e.idx = idx) f l).any (fun e => e.idx = hd ∧ e.phase = 3) = l.any (fun e => e.idx = hd ∧ e.phase = 3) := by
  rw [mapIf, List.any_map]
  refine congrArg _ (funext fun e => ?_)
  by_cases he : e.idx = idx
  · simp [he, hf, hother]
  · simp [he]

/-- An entry that is written back, behind HEAD in a queue with nothing else to do, has finished, and no more is written. -/
theorem finishEntry_quiet {s t : State} {q : Nat} {e : Entry} {l : List (Nat × Nat)} (he : entry s q e.idx = some e) (hheld : e.held = [])
    (hst : (queue s q).st = 1) (hwrite : writeBack s q e (entryWrites (queue s q) e) = (t, .ok l)) (hbehind : e.idx ≠ (queue s q).hd)
    (hhead : (queue s q).entries.any (fun x => x.idx = (queue s q).hd ∧ x.phase = 3) = false)
    (hpub : (queue s q).published = (queue s q).hd) (hfetch : fetchEnd (queue s q) ≤ (queue s q).fetch) :
    entry (finishEntry s q e) q e.idx = some (finishAt t.time e) ∧ (finishEntry s q e).mem = t.mem ∧
      (finishEntry s q e).out = t.out := by
  have hsame : queue t q = queue s q := by rw [queue, writeBack_queues hwrite, queue]
  have hqueue := queue_entryFinished t q e.idx
  rw [hsame] at hqueue
  obtain ⟨hafter, hlast⟩ : afterFinish (entryFinished t q e.idx) q = _ ∧ _ := by
    refine afterFinish_quiet (by rw [hqueue, hst]) ?_ (by rw [hqueue]; exact hpub) (by rw [hqueue]; exact hfetch)
    rw [hqueue]
    exact (any_mapIf_other (f := finishAt t.time) (fun _ => rfl) hbehind _).trans hhead
  rw [finishEntry_written hheld hwrite]
  refine ⟨?_, by rw [hafter]; rfl, by rw [hafter]; rfl⟩
  rw [entry, hlast, hqueue]
  exact (find_mapIf (f := finishAt t.time) (fun _ => rfl) _ _).trans (congrArg _ he)

/-! ### What the commands come to -/

section
variable {s : State} {q idx : Nat} {e : Entry} (he : entry s q idx = some e)
include he

/-- ENTRY_START of an entry whose turn has come and that passes every check of R131 starts it. -/
theorem exec_entryStart_starts (hphase : e.phase = 0) (hst : (queue s q).st = 1 ∨ (queue s q).st = 2) (hturn : mayStart (queue s q) e = true)
    (hop : opcode e ≠ 0x20) (hconn : waitsConn s q e = false) (hdirect : flag e 10 = false) (hform : formBad s q e = false)
    (hunit : unitBad s e = false) (hlength : lengthBad s q e = none) (hprot : protectionBad s q e = false) (hfresh : isStale s e = false)
    (hroute : routeBad s q e = none) :
    ∃ u x, exec (.entryStart q idx) s = .next u ∧ entry u q idx = some x ∧ x.phase = 1 ∧ x.taken = true ∧ x.bytes = e.bytes := by
  obtain ⟨x, hx, hstarted, htaken, hbytes, -, -⟩ := entry_markStarted he
  refine ⟨_, x, congrArg Host.Outcome.next (entryStart_checks he hphase hst hturn hop hconn), ?_, hstarted, htaken, hbytes⟩
  rw [startEntry_passes hdirect hform hunit hlength hprot hfresh hroute, idx_of_entry he]
  exact hx

/-- FRAGMENT_TABLE_READ of an entry that is alone at its index starts it with its regions held, where its fragments pass their checks (R92). -/
theorem exec_fragmentTableRead_starts {x : Issued} {b : List Byte} {bus : Option (List Byte)} {s1 s2 : State} {fs : List Frag} {i : Nat}
    (hone : ∀ y ∈ (queue s q).entries, y.idx = idx → elen y = elen e) (hread : e.tblRead = some x) (hphase : e.phase = 1)
    (htaken : e.taken = false) (hfinish : finishRead s (queueOwner s q) x bus = (s1, .ok b)) (hfs : fs = parseFrags (elen e) b)
    (hlen : fs.foldl (fun n f => n + f.len) 0 ≤ 2 ^ 30)
    (hcheck : checkFrags (tableIn s1 q idx fs) (queueOwner (tableIn s1 q idx fs) q) (dctx e) (scatters e)
      (if scatters e then { wr := true } else { rd := true }) 0 fs = (s2, .ok, i))
    (hlocal : isRemote (opcode e) = false) (hroom : (fragRegions fs).all (regionRoom s2) = true) :
    ∃ u y, exec (.fragmentTableRead q idx bus) s = .next u ∧ entry u q idx = some y ∧ y.phase = 1 ∧ y.taken = true ∧ y.frags = some fs ∧
      y.held = fragRegions fs := by
  have hin := entry_tableIn (fs := fs) ((entry_congr (finishRead_queues hfinish) q idx).trans he)
  obtain ⟨y, hy, hstarted, hy', -, hfrags, hheld⟩ :=
    entry_markStarted (entry_fragsHeld (fs := fs) ((entry_congr (checkFrags_queues hcheck) q idx).trans hin))
  refine ⟨_, y, execFragmentTableRead_read he hone hread hfinish, ?_, hstarted, hy', hfrags, hheld⟩
  rw [← hfs]
  refine (congrArg (fun u => entry u q idx) ?_).trans hy
  calc takeFrags (tableIn s1 q idx fs) q idx
      = acceptFrags (tableIn s1 q idx fs) q { e with tblRead := none, frags := some fs } fs := takeFrags_waiting hin rfl hphase htaken
    _ = markStarted (fragsHeld s2 q e.idx fs) q e.idx := acceptFrags_passes hlen hcheck hlocal hroom
    _ = markStarted (fragsHeld s2 q idx fs) q idx := by rw [idx_of_entry he]

/-- ENTRY_FINISH of an entry that wrote peer pages flushes them first, where PEER_FLUSH is set (R72). -/
theorem exec_entryFinish_flushes (hphase : e.phase = 2) (hflushes : e.flushes = 0) (hleaves : e.leaves ≠ [])
    (hflush : nbit (queue s q).ctl 1 = true) (hnew : e.flushed = false) :
    exec (.entryFinish q idx) s = .next (flushReads (entryMod s q idx (fun e => { e with flushes := e.leaves.length })) (queueOwner s q)
      (.peerFlush q idx) e.leaves) := by
  refine congrArg Host.Outcome.next ?_
  rw [entryFinish, he]
  dsimp only
  rw [if_neg (by simp [hphase, hflushes]), if_pos ⟨hleaves, hflush, by simp [hnew]⟩]

/-- ENTRY_FINISH of an entry that wrote no peer page and holds no region, behind HEAD in a queue with nothing else to do, writes it back and no
more (R84). -/
theorem exec_entryFinish_finishes {s1 : State} {l : List (Nat × Nat)} (hphase : e.phase = 2) (hflushes : e.flushes = 0)
    (hleaves : e.leaves = []) (hheld : e.held = []) (hst : (queue s q).st = 1)
    (hwrite : writeBack s q e (entryWrites (queue s q) e) = (s1, .ok l)) (hbehind : idx ≠ (queue s q).hd)
    (hhead : (queue s q).entries.any (fun x => x.idx = (queue s q).hd ∧ x.phase = 3) = false)
    (hpub : (queue s q).published = (queue s q).hd) (hfetch : fetchEnd (queue s q) ≤ (queue s q).fetch) :
    ∃ u x, exec (.entryFinish q idx) s = .next u ∧ entry u q idx = some x ∧ x.phase = 3 ∧ x.doneAt = s1.time ∧ u.mem = s1.mem ∧
      u.out = s1.out := by
  obtain rfl := idx_of_entry he
  obtain ⟨hdone, hmem, hout⟩ := finishEntry_quiet he hheld hst hwrite hbehind hhead hpub hfetch
  exact ⟨_, _, congrArg Host.Outcome.next (entryFinish_writes he hphase hflushes hleaves), hdone, rfl, rfl, hmem, hout⟩
end

/-! ### Two entries at one index -/

/-- A card whose queue 0 holds two entries at index 0, which ring reads do not make, since they take no index that is there (R86): the
first, of LENGTH 0, waits for its fragment table, and the second has LENGTH 1. -/
def twinEntries : State :=
  { State.reset with
    queues := [(0, { entries := [{ idx := 0, bytes := [], tblRead := some {} }, { idx := 0, bytes := List.replicate 12 0 ++ [1] }] })] }

/-- Refutes O11, in its clause on a fragment table that comes back: the command parses the table for each entry at the index by that entry's own
LENGTH, and the clause by the LENGTH of the first. The second of `twinEntries` is given one fragment and not none. -/
theorem not_entriesStartAndFinish : ¬ Obligations.EntriesStartAndFinish := by
  rintro ⟨-, -, htable, -⟩
  have hnext := htable 0 0 { idx := 0, bytes := [], tblRead := some {} } {} [] none twinEntries _ (by decide) rfl rfl
  have hfrags := congrArg (fun u => (queue u 0).entries.map (·.frags)) (Host.Outcome.next.inj hnext)
  exact absurd hfrags (by decide)

end Sys2Proof.Proofs
end

section
/-! PROOFS. The registers of a queue: selecting, enabling, disabling, flushing and configuring it. O10. -/
namespace Sys2Proof.Proofs
open Sys2Proof.Machine Sys2Proof.Safety Sys2Proof.Laws

/-! ### What a write of WQM_QCTL comes to (Table 4-8, R96) -/

/-- The low 32 bits of a word are the bits of its field [31:0]. -/
theorem nbit_fld_low (w : W64) {i : Nat} (h : i < 32) : nbit (fld w 31 0) i = wbit w i := by
  rw [nbit, fld, nfld, Nat.testBit_mod_two_pow, decide_eq_true (by omega), Bool.true_and]
  rfl

/-- What a write of WQM_QCTL leaves in the context of its queue before ENABLE and FLUSH act: PEER_FLUSH, IRQ_EN and, in DISABLED, the
configuration (R96). -/
def ctlTaken (v : Nat) (Q : QueueC) : QueueC :=
  { Q with
    cfgRefused := if Q.st = 0 then false else Q.cfgRefused || decide (ctlCfg v ≠ nfld Q.ctl 28 4)
    ctl := Q.ctl % 2 + b2n (nbit v 1) * 2 + b2n (nbit v 3) * 8 + (if Q.st = 0 then ctlCfg v else nfld Q.ctl 28 4) * 16 }

/-- A DISABLED queue takes the vector of the value written. -/
theorem irqVec_ctlTaken (v : Nat) {Q : QueueC} (h : Q.st = 0) : nfld (ctlTaken v Q).ctl 28 18 = nfld v 28 18 := by
  have hb2n (b : Bool) : b2n b ≤ 1 := by cases b <;> decide
  have hflush := hb2n (nbit v 1)
  have hirq := hb2n (nbit v 3)
  simp only [ctlTaken, ctlCfg, nfld, h, if_true, Nat.shiftRight_eq_div_pow]
  omega

/-- What ENABLE does to a queue (R96, R97). -/
def enableActs (s : State) (fn q : Nat) (on : Bool) : State :=
  if on then (if (queue s q).st = 0 then enableQueue s fn q else s)
  else if (queue s q).st = 1 ∨ (queue s q).st = 3 then disableQueue s q else s

/-- What FLUSH does to a queue (R96). -/
def flushActs (s : State) (q : Nat) (on : Bool) : State :=
  if on ∧ (queue s q).st = 2 then settle (flushEntries s q) q else s

/-- A write of WQM_QCTL takes the value into the selected queue, then ENABLE acts, then FLUSH. -/
theorem qctlWrite_selected {s : State} {fn q : Nat} (value : W64) (h : selQueue s fn = some q) :
    qctlWrite s fn value =
      flushActs (enableActs (queueMod s q (ctlTaken (fld value 31 0))) fn q (wbit value 0)) q (wbit value 2) := by
  rw [qctlWrite, h, ← nbit_fld_low value (show 0 < 32 by decide), ← nbit_fld_low value (show 2 < 32 by decide)]
  rfl

/-! ### Enabling (R78, R97) -/

/-- The checks of R97 pass for a queue context with the vector `vec`. -/
structure EnableChecks (s : State) (fn : Nat) (Q : QueueC) (vec : Nat) : Prop where
  abi : (fnGet s fn).abi ≠ 0
  live : (fnGet s fn).teardown = false
  sizeMin : 4 ≤ fld Q.ring 4 0
  sizeMax : fld Q.ring 4 0 ≤ 16
  binding : (bindType Q = 0 ∧ isRecvQ Q = false) ∨ (bindType Q = 1 ∧ owner s 0x03 (bindId Q) = fn) ∨
    (bindType Q = 2 ∧ owner s 0x04 (bindId Q) = fn)
  vector : vec < vecCount s fn

section
variable {s : State} {fn q : Nat}

/-- Checks that pass leave no error. -/
theorem enableErr_eq_zero (h : EnableChecks s fn (queue s q) (nfld (queue s q).ctl 28 18)) : enableErr s fn q = 0 := by
  obtain ⟨habi, hlive, hmin, hmax, hbind, hvec⟩ := h
  have hsize : ¬ (fld (queue s q).ring 4 0 < 4 ∨ 16 < fld (queue s q).ring 4 0) := by omega
  have hvec' : ¬ vecCount s fn ≤ nfld (queue s q).ctl 28 18 := Nat.not_le.mpr hvec
  obtain ⟨hnone, hsend⟩ | ⟨hqp, hown⟩ | ⟨hshared, hown⟩ := hbind
  · simp [enableErr, habi, hlive, hsize, hnone, hsend, hvec']
  · simp [enableErr, habi, hlive, hsize, hqp, hown, hvec']
  · simp [enableErr, habi, hlive, hsize, hshared, hown, hvec']

/-- Ending transfers leaves the queues alone. -/
theorem queue_endTransfers (s : State) (l : List Issued) (q : Nat) : queue (endTransfers s l) q = queue s q := by
  rw [queue, (endTransfers_keeps (m := 0x20000) s l (keeps_refl _ s) (sub_refl _)).queues (by decide), queue]

/-- A queue that passes its checks is ACTIVE from its first entry, with its ring as it was. -/
theorem queue_enableQueue (h : EnableChecks s fn (queue s q) (nfld (queue s q).ctl 28 18)) :
    (queue (enableQueue s fn q) q).st = 1 ∧ (queue (enableQueue s fn q) q).tail = 0 ∧ (queue (enableQueue s fn q) q).hd = 0 ∧
      (queue (enableQueue s fn q) q).fetch = 0 ∧ (queue (enableQueue s fn q) q).seq = 1 ∧
      (queue (enableQueue s fn q) q).enableErr = 0 ∧ (queue (enableQueue s fn q) q).ring = (queue s q).ring := by
  rw [enableQueue, enableErr_eq_zero h, if_pos rfl, queue_queueMod, queue_endTransfers]
  exact ⟨rfl, rfl, rfl, rfl, rfl, rfl, rfl⟩

/-- ENABLE written 1 to a DISABLED queue enables it. -/
theorem qctlWrite_enables {value : W64} (hsel : selQueue s fn = some q) (henable : wbit value 0 = true) (hflush : wbit value 2 = false)
    (hst : (queue s q).st = 0) :
    qctlWrite s fn value = enableQueue (queueMod s q (ctlTaken (fld value 31 0))) fn q := by
  have hst' : (queue (queueMod s q (ctlTaken (fld value 31 0))) q).st = 0 := by rwa [queue_queueMod]
  rw [qctlWrite_selected value hsel, henable, hflush, enableActs, if_pos rfl, if_pos hst', flushActs, if_neg (by simp)]
end

/-! ### Leaving DRAINING and ERROR (R96, R98) -/

section
variable {s : State} {q : Nat} {value : W64}

/-- A drained queue becomes DISABLED. -/
theorem settle_drained (hst : (queue s q).st = 2) (hempty : (queue s q).hd = (queue s q).tail)
    (hpub : (queue s q).published = (queue s q).hd) (hhead : (queue s q).headBusy = false) (hwait : (queue s q).inlineWait = none) :
    (queue (settle s q) q).st = 0 := by
  rw [settle]
  rw [if_pos (by simp [hst, ← hempty, hpub, hhead, hwait]), queue_queueMod]

/-- A queue in ERROR that was told to end, and whose entries are over, becomes DISABLED. -/
theorem settle_ended (hst : (queue s q).st = 3) (hasked : (queue s q).disableReq = true) (hhead : (queue s q).headBusy = false)
    (hentries : (queue s q).entries = []) : (queue (settle s q) q).st = 0 := by
  rw [settle]
  rw [if_pos (by simp [hst, hasked, hhead, hentries]), queue_queueMod]

/-- A queue in ERROR without entries is disabled at once. -/
theorem disableQueue_inError (hst : (queue s q).st = 3) (hhead : (queue s q).headBusy = false) (hentries : (queue s q).entries = []) :
    (queue (disableQueue s q) q).st = 0 := by
  rw [disableQueue, if_neg (by rw [hst]; decide)]
  apply settle_ended <;> simp [hst, hhead, hentries]

/-- Flushing a drained queue adds no entry to it. -/
theorem settle_flushEntries_drained (hst : (queue s q).st = 2) (hempty : (queue s q).hd = (queue s q).tail)
    (hpub : (queue s q).published = (queue s q).hd) (hhead : (queue s q).headBusy = false) (hwait : (queue s q).inlineWait = none) :
    (queue (settle (flushEntries s q) q) q).st = 0 := by
  apply settle_drained <;> rw [flushEntries, queue_queueMod] <;> assumption

/-- ENABLE written 0 to a queue in ERROR without entries disables it. -/
theorem qctlWrite_disables {fn : Nat} (hsel : selQueue s fn = some q) (henable : wbit value 0 = false) (hflush : wbit value 2 = false)
    (hst : (queue s q).st = 3) (hhead : (queue s q).headBusy = false) (hentries : (queue s q).entries = []) :
    (queue (qctlWrite s fn value) q).st = 0 := by
  have hqueue := queue_queueMod s q (ctlTaken (fld value 31 0))
  have hst' : (queue (queueMod s q (ctlTaken (fld value 31 0))) q).st = 3 := by rwa [hqueue]
  rw [qctlWrite_selected value hsel, henable, hflush, enableActs, if_neg (by decide), if_pos (.inr hst'), flushActs, if_neg (by simp)]
  apply disableQueue_inError hst' <;> rwa [hqueue]

/-- FLUSH written with ENABLE 1 to a drained queue disables it. -/
theorem qctlWrite_flushes {fn : Nat} (hsel : selQueue s fn = some q) (henable : wbit value 0 = true) (hflush : wbit value 2 = true)
    (hst : (queue s q).st = 2) (hempty : (queue s q).hd = (queue s q).tail) (hpub : (queue s q).published = (queue s q).hd)
    (hhead : (queue s q).headBusy = false) (hwait : (queue s q).inlineWait = none) : (queue (qctlWrite s fn value) q).st = 0 := by
  have hqueue := queue_queueMod s q (ctlTaken (fld value 31 0))
  have hst' : (queue (queueMod s q (ctlTaken (fld value 31 0))) q).st = 2 := by rwa [hqueue]
  rw [qctlWrite_selected value hsel, henable, hflush, enableActs, if_pos rfl, if_neg (by rw [hst']; decide), flushActs,
    if_pos ⟨rfl, hst'⟩]
  apply settle_flushEntries_drained hst' <;> rw [hqueue] <;> assumption
end

/-! ### What the commands come to -/

section
variable {s : State} {fn : Nat} {value : W64} (hup : blockUp (dropHeld s fn) fn = true)
include hup

/-- A selection is taken. -/
theorem execQueueSelect_taken : execQueueSelect fn value s = .next (setReg (fnMod (dropHeld s fn) fn (fun F =>
    { F with notGranted := false })) Reg.WQM_QSEL fn (w64 (fld value 16 0))) := if_pos hup

/-- QUEUE_ENABLE is a write of WQM_QCTL with ENABLE 1. -/
theorem execQueueEnable_writes (henable : wbit value 0 = true) :
    execQueueEnable fn value s = .next (qctlWrite (dropHeld s fn) fn value) := if_pos (by simp [hup, henable])

/-- QUEUE_DISABLE is a write of WQM_QCTL with ENABLE 0. -/
theorem execQueueDisable_writes (henable : wbit value 0 = false) :
    execQueueDisable fn value s = .next (qctlWrite (dropHeld s fn) fn value) := if_pos (by simp [hup, henable])

/-- QUEUE_FLUSH is a write of WQM_QCTL with FLUSH 1. -/
theorem execQueueFlush_writes (hflush : wbit value 2 = true) :
    execQueueFlush fn value s = .next (qctlWrite (dropHeld s fn) fn value) := if_pos (by simp [hup, hflush])

/-- A write of a configuration register reaches the selected queue. -/
theorem execQueueConfigWrite_writes {off : Nat} (hcfg : isQueueCfg off = true) (hctl : off ≠ Reg.WQM_QCTL) :
    execQueueConfigWrite fn off value s = .next (queueConfigWrite (dropHeld s fn) fn off value) := by
  rw [execQueueConfigWrite]
  rw [if_neg (by simp [hup]), if_neg hctl, if_pos hcfg]
end

section
variable {s : State} {fn q : Nat} (hsel : selQueue s fn = some q)
include hsel

/-- A DISABLED queue takes its ring. -/
theorem queueConfigWrite_ring (value : W64) (hst : (queue s q).st = 0) :
    queueConfigWrite s fn Reg.WQM_QRING value = queueMod s q (fun Q =>
      { Q with cfgRefused := false, ring := w64 (fld value 63 12 * 4096 + fld value 4 0) }) := by
  rw [queueConfigWrite, hsel]
  exact if_neg fun hother => hother hst

/-- A queue in any other state refuses its configuration. -/
theorem queueConfigWrite_refused (off : Nat) (value : W64) (hst : (queue s q).st ≠ 0) :
    queueConfigWrite s fn off value = queueMod s q (fun Q => { Q with cfgRefused := true }) := by
  rw [queueConfigWrite, hsel]
  exact if_pos hst
end

/-- A write of a register leaves the ABI version and the teardown of the function. -/
theorem fnGet_dropHeld (s : State) (fn : Nat) : fnGet (dropHeld s fn) fn = { fnGet s fn with held := none } :=
  tget_tset_same _ _ _ _

/-- The checks that pass on a DISABLED queue with the vector of a value written pass on the queue that has taken the value. -/
theorem enableChecks_ctlTaken {s u : State} {fn q v : Nat} (hu : u = queueMod (dropHeld s fn) q (ctlTaken v)) (hst : (queue s q).st = 0)
    (h : EnableChecks s fn (queue s q) (nfld v 28 18)) : EnableChecks u fn (queue u q) (nfld (queue u q).ctl 28 18) := by
  subst hu
  obtain ⟨habi, hlive, hmin, hmax, hbind, hvec⟩ := h
  have hfn : fnGet (queueMod (dropHeld s fn) q (ctlTaken v)) fn = { fnGet s fn with held := none } := fnGet_dropHeld s fn
  have hqueue : queue (queueMod (dropHeld s fn) q (ctlTaken v)) q = ctlTaken v (queue s q) := queue_queueMod _ _ _
  rw [hqueue, irqVec_ctlTaken v hst]
  exact ⟨by rwa [hfn], by rwa [hfn], hmin, hmax, hbind, hvec⟩

/-- Settles O10: each command is a write of WQM_QSEL, WQM_QCTL or a configuration register, and WQM_QCTL acts by its ENABLE and FLUSH. -/
theorem queueRegisters : Obligations.QueueRegisters := by
  refine ⟨fun fn value s hup => execQueueSelect_taken hup,
    fun fn value q s hup henable hflush hsel hst habi hlive hmin hmax hbind hvec => ?_,
    fun fn value q s hup henable hflush hsel hst hhead hentries =>
      ⟨_, execQueueDisable_writes hup henable, qctlWrite_disables hsel henable hflush hst hhead hentries⟩,
    fun fn value s hup henable => execQueueDisable_writes hup henable,
    fun fn value q s hup henable hflush hsel hst _ hempty hpub hhead hwait =>
      ⟨_, execQueueFlush_writes hup hflush, qctlWrite_flushes hsel henable hflush hst hempty hpub hhead hwait⟩,
    fun fn value s hup hflush => execQueueFlush_writes hup hflush,
    fun fn value q s hup hsel hst => ?_,
    fun fn off value q s hup hsel hst hcfg hctl => ?_⟩
  · obtain ⟨hactive, htail, hhd, hfetch, hseq, herr, hring⟩ :=
      queue_enableQueue (enableChecks_ctlTaken rfl hst ⟨habi, hlive, hmin, hmax, hbind, hvec⟩)
    have hnext := (execQueueEnable_writes hup henable).trans (congrArg _ (qctlWrite_enables hsel henable hflush hst))
    exact ⟨_, hnext, hactive, htail, hhd, hfetch, hseq, herr, hring.trans (by rw [queue_queueMod]; rfl)⟩
  · have hnext := (execQueueConfigWrite_writes (value := value) hup (off := Reg.WQM_QRING) (by decide) (by decide)).trans
      (congrArg _ (queueConfigWrite_ring hsel value hst))
    exact ⟨_, hnext, by rw [queue_queueMod], by rw [queue_queueMod]⟩
  · exact (execQueueConfigWrite_writes hup hcfg hctl).trans (congrArg _ (queueConfigWrite_refused hsel off value hst))

end Sys2Proof.Proofs
end

section
/-! PROOFS. The verbs of an entry: the remote ones post a message to their connection, the local ones act on the entry, its context or a
region. O12, O13. -/
namespace Sys2Proof.Proofs
open Sys2Proof.Machine Sys2Proof.Safety Sys2Proof.Laws

/-! ### Entries whose verb has not yet acted -/

section
variable {s : State} {q idx op : Nat} {e : Entry}

/-- A verb that is ready is that of an entry of its opcode that has started and does not run. -/
theorem readyVerb_eq_some :
    readyVerb s q idx op = some e ↔
      entry s q idx = some e ∧ e.phase = 1 ∧ e.taken = true ∧ e.running = false ∧ opcode e = op := by
  unfold readyVerb
  cases entry s q idx with
  | none => simp
  | some x =>
    simp only [Option.bind_some, Option.ite_none_right_eq_some, Option.some.injEq, Bool.not_eq_true]
    constructor
    · rintro ⟨hx, rfl⟩
      exact ⟨rfl, hx⟩
    · rintro ⟨rfl, hx⟩
      exact ⟨hx, rfl⟩

/-! ### Remote verbs (R105 to R117, R179) -/

/-- A ready verb whose connection is READY and has room, and which no earlier entry holds up, posts its message. -/
theorem postVerb_ready (f : Entry → SendMsg) (h : readyVerb s q idx op = some e) (hst : (conn s (verbConn s q e)).st = 2)
    (hroom : (conn s (verbConn s q e)).send.length < 4096) (hturn : (queue s q).entries.any (unposted s q e) = false) :
    postVerb s q idx op f = verbPosted s q idx e (f e) := by
  obtain ⟨hentry, hphase, htaken, hrun, hop⟩ := readyVerb_eq_some.mp h
  rw [postVerb, hentry]
  exact if_neg (by simp [hphase, htaken, hrun, hop, hst, hroom, hturn])

/-- A SEND of a queue without a raw binding posts its message. -/
theorem execVSend_ready (hraw : queueRaw s q = none) (h : readyVerb s q idx 0x03 = some e) (hst : (conn s (verbConn s q e)).st = 2)
    (hroom : (conn s (verbConn s q e)).send.length < 4096) (hturn : (queue s q).entries.any (unposted s q e) = false) :
    execVSend q idx s =
      .next (verbPosted s q idx e (withData s q e { verbMsg s q e 0x02 with akey := 0, raddr := 0 })) := by
  rw [execVSend, hraw, if_neg (by simp), postVerb_ready _ h hst hroom hturn]

/-- A SEND of a queue with one joins the frames of the port that it is bound to (R271). -/
theorem execVSend_raw {p : Nat × Nat} (hraw : queueRaw s q = some p) (h : readyVerb s q idx 0x03 = some e) :
    execVSend q idx s = .next (eportMod (entryMod s q idx (fun e => { e with running := true })) p.1 (fun P =>
      { P with raw := P.raw ++ [{ queue := q, idx := idx, len := msgLen e, cls := (verbClass s q e).getD 4 }] })) := by
  obtain ⟨hentry, hphase, htaken, hrun, hop⟩ := readyVerb_eq_some.mp h
  rw [execVSend, hraw, Option.isSome_some, if_pos rfl, postRaw, hentry, hraw]
  exact congrArg _ (if_neg (by simp [hphase, htaken, hrun, hop]))

/-- An INVOKE that runs and whose message is acknowledged completes with KERNEL_FAULT when its TIMEOUT passes (R117). -/
theorem execInvokeTimeout_fires {m : SendMsg} (hentry : entry s q idx = some e) (hop : opcode e = 0x07) (hrun : e.running = true)
    (hsent : (conn s e.conn).send.find? (fun m => decide (m.by_ = .entry q idx) && m.acked) = some m) :
    execInvokeTimeout q idx s = .next (closeCheck
      (entryDone (dropSend (endSend s e.conn m) e.conn e.msn) q idx Status.kernelFault 0 0) e.conn) := by
  rw [execInvokeTimeout, hentry]
  dsimp only
  rw [hsent]
  exact if_pos ⟨hop, hrun⟩
end

/-- Settles O12: a ready verb posts the message of its own, a raw SEND joins the frames of its port, and a late INVOKE ends. -/
theorem remoteVerbsPost : Obligations.RemoteVerbsPost :=
  ⟨fun _ _ _ _ h hst hroom hturn => congrArg _ (postVerb_ready _ h hst hroom hturn),
    fun _ _ _ _ h hst hroom hturn => congrArg _ (postVerb_ready _ h hst hroom hturn),
    fun _ _ _ _ hraw h hst hroom hturn => execVSend_ready hraw h hst hroom hturn,
    fun _ _ _ _ h hst hroom hturn => congrArg _ (postVerb_ready _ h hst hroom hturn),
    fun _ _ _ _ h hst hroom hturn => congrArg _ (postVerb_ready _ h hst hroom hturn),
    fun _ _ _ _ h hst hroom hturn => congrArg _ (postVerb_ready _ h hst hroom hturn),
    fun _ _ _ _ h hst hroom hturn => congrArg _ (postVerb_ready _ h hst hroom hturn),
    fun _ _ _ _ _ hraw h => execVSend_raw hraw h,
    fun _ _ _ _ _ hentry hop hrun hsent => execInvokeTimeout_fires hentry hop hrun hsent⟩

/-! ### Entries end and leave translation alone -/

/-- The end of an entry leaves contexts, cached translations and regions alone. -/
@[simp] theorem entryDone_atu (s : State) (q idx st len frag : Nat) : (entryDone s q idx st len frag).atu = s.atu :=
  (entryDone_keeps s q idx st len frag (keeps_refl _ s) (sub_refl _)).atu (by decide)

/-- Contexts are part of translation. -/
theorem ctx_congr {s u : State} (h : u.atu = s.atu) (c : Nat) : ctx u c = ctx s c := by rw [ctx, h, ctx]

/-- So are regions. -/
theorem region_congr {s u : State} (h : u.atu = s.atu) (i : Nat) : region u i = region s i := by rw [region, h, region]

/-- A rewritten context reads as rewritten. -/
@[simp] theorem ctx_ctxMod (s : State) (c : Nat) (f : Ctx → Ctx) : ctx (ctxMod s c f) c = f (ctx s c) := tget_tset_same _ _ _ _

/-- A rewritten region reads as rewritten. -/
@[simp] theorem region_regionMod (s : State) (i : Nat) (f : Region → Region) : region (regionMod s i f) i = f (region s i) :=
  tget_tset_same _ _ _ _

/-! ### INVALIDATE (R120, R148) -/

/-- The translation of a page is one that an INVALIDATE names: its context is purged whole, or the page overlaps its range. -/
def invalidates (e : Entry) (x : Cached) : Bool :=
  nbit (ef e 44 4) 0 || decide (x.base < ef e 16 8 + ef e 24 8 ∧ ef e 16 8 < x.base + x.size)

/-- The state in which an INVALIDATE has advanced its epoch and purged what it names. -/
def invalidated (s : State) (e : Entry) : State := purge (advanceEpoch s (dctx e)) (dctx e) (invalidates e)

/-- Its context is one epoch on. -/
theorem ctx_invalidated (s : State) (e : Entry) :
    (ctx (invalidated s e) (dctx e)).epoch = (ctx s (dctx e)).epoch + 1 :=
  congrArg Ctx.epoch (ctx_ctxMod s (dctx e) fun C => { C with epoch := C.epoch + 1 })

/-- Of the cached translations those stay that are of another context or that the INVALIDATE does not name. -/
theorem mem_cache_invalidated {s : State} {e : Entry} {x : Cached} :
    x ∈ (invalidated s e).atu.cache ↔ x ∈ s.atu.cache ∧ ¬ (x.ctx = dctx e ∧ invalidates e x = true) := by
  show x ∈ s.atu.cache.filter _ ↔ _
  rw [List.mem_filter, Bool.not_eq_true', ← Bool.not_eq_true, Bool.and_eq_true, decide_eq_true_eq]

/-- What an INVALIDATE does not name lies outside its range, which is not the whole context. -/
theorem invalidates_eq_false {e : Entry} {x : Cached} (h : invalidates e x = false) :
    nbit (ef e 44 4) 0 = false ∧ ¬ (x.base < ef e 16 8 + ef e 24 8 ∧ ef e 16 8 < x.base + x.size) := by
  rwa [invalidates, Bool.or_eq_false_iff, decide_eq_false_iff_not] at h

section
variable {s : State} {q idx : Nat} {e : Entry}

/-- An INVALIDATE purges, and completes at once or waits for the transfers of older epochs. -/
theorem execVInvalidate_ready (h : readyVerb s q idx 0x20 = some e) :
    ∃ u, execVInvalidate q idx s = .next u ∧ u.atu = (invalidated s e).atu := by
  rw [execVInvalidate, h]
  dsimp only
  split
  · exact ⟨_, rfl, entryDone_atu _ _ _ _ _ _⟩
  · exact ⟨_, rfl, rfl⟩

/-- A drained INVALIDATE completes. -/
theorem execInvalidateDrainDone_drained (hentry : entry s q idx = some e) (hop : opcode e = 0x20) (hrun : e.running = true)
    (hdrained : drained s (dctx e) e.waits = true) : execInvalidateDrainDone q idx s = .next (entryDone s q idx Status.ok 0 0) := by
  rw [execInvalidateDrainDone, hentry]
  exact if_pos ⟨hop, hrun, hdrained⟩

/-! ### COLLECTIVE, RECV and FENCE (R107, R118, R126) -/

/-- A COLLECTIVE begins to run. -/
theorem execVCollective_ready (h : readyVerb s q idx 0x10 = some e) :
    execVCollective q idx s = .next (entryMod s q idx (fun e => { e with running := true })) := by
  rw [execVCollective, h]

/-- A RECV is posted once those before it are. -/
theorem execRecvPost_ready (h : readyVerb s q idx 0x30 = some e)
    (hturn : (queue s q).entries.any (fun x => decide (x.idx < idx ∧ x.phase = 1) && !x.running) = false) :
    execRecvPost q idx s = .next (entryMod s q idx (fun e => { e with running := true })) := by
  rw [execRecvPost, h]
  exact if_neg (by simp only [hturn, Bool.false_eq_true, not_false_eq_true])

/-- A FENCE whose work is over completes. -/
theorem execVFence_ready (h : readyVerb s q idx 0x21 = some e) (hover : e.waits.all (workOver s) = true) :
    execVFence q idx s = .next (entryDone s q idx Status.ok 0 0) := by
  rw [execVFence, h]
  exact if_pos hover

/-! ### REGISTER and REVOKE (R121, R122, R159) -/

/-- A REGISTER of a FREE index leaves the region that its entry describes, under the next generation. -/
theorem execVRegister_free (h : readyVerb s q idx 0x22 = some e) (hfree : (region s (nfld (ef e 32 4) 23 0)).state = 0) :
    ∃ u, execVRegister q idx s = .next u ∧ region u (nfld (ef e 32 4) 23 0) =
      { state := 1, rights := nfld (ef e 44 4) 5 0, gen := (region s (nfld (ef e 32 4) 23 0)).gen + 1, ctx := dctx e,
        kernel := nfld (ef e 44 4) 25 16, base := w64 (ef e 16 8), len := w64 (ef e 24 8) } := by
  rw [execVRegister, h]
  dsimp only
  rw [if_neg (Decidable.not_not.mpr hfree)]
  exact ⟨_, rfl, (region_congr (entryDone_atu _ _ _ _ _ _) _).trans (region_regionMod _ _ _)⟩

/-- A REVOKE of a region of its generation frees it, or leaves it REVOKING while accesses are admitted. -/
theorem execVRevoke_current (h : readyVerb s q idx 0x23 = some e) (hused : (region s (nfld (ef e 32 4) 23 0)).state ≠ 0)
    (hgen : (region s (nfld (ef e 32 4) 23 0)).gen.toNat = nfld (ef e 32 4) 31 24) :
    ∃ u, execVRevoke q idx s = .next u ∧ (region u (nfld (ef e 32 4) 23 0)).state =
      if (region s (nfld (ef e 32 4) 23 0)).admitted = 0 then 0 else 2 := by
  rw [execVRevoke, h]
  dsimp only
  rw [if_neg (by simp [hused, hgen])]
  split
  · refine ⟨_, rfl, ?_⟩
    rw [region_congr (entryDone_atu _ _ _ _ _ _), region_regionMod]
  · exact ⟨_, rfl, congrArg Region.state (region_regionMod s _ _)⟩
end

/-- Settles O13: COLLECTIVE, RECV and FENCE by their entry alone, the others by what they leave of their context or region. -/
theorem localVerbs : Obligations.LocalVerbs := by
  refine ⟨fun q idx e s h => execVCollective_ready h, fun q idx e s h hturn => execRecvPost_ready h hturn, fun q idx e s h => ?_,
    fun q idx e s hentry hop hrun hdrained => execInvalidateDrainDone_drained hentry hop hrun hdrained,
    fun q idx e s h hover => execVFence_ready h hover, fun q idx e s h hfree => execVRegister_free h hfree,
    fun q idx e s h hused hgen => execVRevoke_current h hused hgen⟩
  obtain ⟨u, hu, hatu⟩ := execVInvalidate_ready h
  refine ⟨u, hu, (congrArg Ctx.epoch (ctx_congr hatu _)).trans (ctx_invalidated s e), fun x hx hctx => ?_, fun x hctx => ?_⟩
  · rw [hatu, mem_cache_invalidated] at hx
    exact invalidates_eq_false (Bool.eq_false_iff.mpr fun hnamed => hx.2 ⟨hctx, hnamed⟩)
  · rw [hatu, mem_cache_invalidated]
    exact and_iff_left fun hnamed => hctx hnamed.1

end Sys2Proof.Proofs
end

section
/-! PROOFS. The life of a tenant: activation, teardown, drain and scrubs. O17. -/
namespace Sys2Proof.Proofs
open Sys2Proof.Machine Sys2Proof.Safety Sys2Proof.Laws

/-! ### Slots -/

/-- A rewritten slot reads as rewritten. -/
@[simp] theorem tenant_tenantMod (s : State) (t : Nat) (f : Tenant → Tenant) : tenant (tenantMod s t f) t = f (tenant s t) :=
  tget_tset_same _ _ _ _

/-- A teardown that waits for queues to be cleared is not over. -/
theorem lifeCheck_waiting {s : State} {t : Nat} (h : (tenant s t).clearQueues ≠ []) : lifeCheck s t = s :=
  if_neg fun hover => h hover.2.2.1

/-- With no slot written none is checked. -/
theorem lifeChecks_none {s : State} (h : s.tenants = []) : lifeChecks s = s := by
  rw [lifeChecks, h]
  rfl

/-! ### Drain and step 4 (R430) -/

/-- A slot enters step 4, and its tenant owns nothing. -/
def inStep4 (s : State) (t : Nat) : State :=
  { (tenantMod s t (fun T => { T with st := 4 })) with owners := s.owners.filter (fun o => !decide (o.2 = t)) }

/-- The start of step 4 ends with that. -/
theorem scrubStart_eq (s : State) (t : Nat) : ∃ u, scrubStart s t = inStep4 u t := ⟨_, rfl⟩

/-- The slot is in step 4. -/
theorem tenant_inStep4 (s : State) (t : Nat) : (tenant (inStep4 s t) t).st = 4 := by
  show (tenant (tenantMod s t (fun T => { T with st := 4 })) t).st = 4
  rw [tenant_tenantMod]

/-- No resource is the tenant's. -/
theorem owners_inStep4 (s : State) (t : Nat) : (inStep4 s t).owners.all (fun o => decide (o.2 ≠ t)) = true := by
  rw [List.all_eq_true]
  intro o ho
  simpa using (List.mem_filter.mp ho).2

section
variable {s : State} {t : Nat} (hst : (tenant s t).st = 2)
include hst

/-- A drain that is over goes on to steps 3 and 4. -/
theorem execDrainComplete_over (hover : drainOver s t = true) : execDrainComplete t s = .next (afterDrain s t) :=
  if_pos (.inl ⟨hst, hover⟩)

/-- A drain ends at its bound. -/
theorem execDrainBound_drains : execDrainBound t s = .next (drainBound s t) := if_pos hst
end

/-- Steps 3 and 4 of a tenant with queues to clear wait for them. -/
theorem afterDrain_waiting {s : State} {t : Nat} (h : (tenant (scrubStart (destroyKeys s t) t) t).clearQueues ≠ []) :
    afterDrain s t = scrubStart (destroyKeys s t) t := lifeCheck_waiting h

/-- At the bound, with a transfer outstanding, the slot waits for it. -/
theorem drainBound_busy {s : State} {t : Nat}
    (h : ctxQuiet (tenantMod (drainAbort s t) t (fun T => { T with st := 3 })) t = false) :
    drainBound s t = tenantMod (drainAbort s t) t (fun T => { T with st := 3 }) :=
  if_neg (by rw [h]; decide)

/-! ### ACTIVATE (R123, Table 18-7) -/

/-- The quadrants of a key set read as set. -/
@[simp] theorem keyQuads_keySetPut (s : State) (t : Nat) (quads : BitVec 4) : keyQuads (keySetPut s t quads) t = quads :=
  tget_tset_same _ _ _ _

/-- A key set loaded in all four quadrants is there. -/
theorem keyQuads_keySetLoad (s : State) (t : Nat) : keyQuads (keySetLoad s t 15) t = 15 := by
  unfold keySetLoad
  exact (keyQuads_keySetPut _ t _).trans BitVec.or_allOnes

/-- A slot becomes ACTIVE with its event queue in service, and its key set is counted. -/
def slotOpened (s : State) (t : Nat) : State :=
  bump (fevRestart (tenantMod s t (fun T => { st := 1, lastStatus := T.lastStatus })) (1 + t)) Reg.RSP_KEY_LOADS 0

/-- ACTIVATE loads a key set, makes the mailboxes VALID and opens the slot. -/
theorem activate_eq (s : State) (t : Nat) : activate s t = slotOpened (boxesValid (keySetLoad s t 15) t) t := rfl

/-- A slot that is opened is ACTIVE. -/
theorem tenant_slotOpened (s : State) (t : Nat) : (tenant (slotOpened s t) t).st = 1 := by
  show (tenant (tenantMod s t (fun T => { st := 1, lastStatus := T.lastStatus })) t).st = 1
  rw [tenant_tenantMod]

/-- Opening it leaves the key sets alone. -/
theorem keyQuads_slotOpened (s : State) (t : Nat) : keyQuads (slotOpened s t) t = keyQuads s t := rfl

/-- So do the mailboxes. -/
theorem keyQuads_boxesValid (s : State) (t : Nat) : keyQuads (boxesValid s t) t = keyQuads s t := by
  rw [keyQuads, (boxesValid_keeps s t (keeps_refl _ s) (sub_refl _)).keySets (by decide), keyQuads]

/-- A tenant that is activated is ACTIVE. -/
theorem tenant_activate (s : State) (t : Nat) : (tenant (activate s t) t).st = 1 := by rw [activate_eq, tenant_slotOpened]

/-- It has its key set in every quadrant. -/
theorem keyQuads_activate (s : State) (t : Nat) : keyQuads (activate s t) t = 15 := by
  rw [activate_eq, keyQuads_slotOpened, keyQuads_boxesValid, keyQuads_keySetLoad]

/-! ### The TENANT verbs (R123, R429) -/

section
variable {s : State} {q idx : Nat} {e : Entry}

/-- An EMPTY slot of a function that exists is activated while Mayfly serves and no wipe is under way. -/
theorem execTenantActivate_empty (h : tenantVerb s q idx 0 = some e) (hempty : (tenant s (entrySlot e)).st = 0)
    (hfn : fnExists s (entrySlot e) = true) (hentropy : s.rsp.entropyOk = true) (hwipe : s.rsp.scrubFor = 0) :
    execTenantActivate q idx s = .next (entryDone (activate s (entrySlot e)) q idx Status.ok 0 0) := by
  rw [execTenantActivate, h]
  dsimp only
  rw [if_neg (by simp [hempty, hfn]), if_neg (by simp [hentropy, hwipe])]

/-- The end of an entry leaves tenants, key sets and owners alone. -/
theorem entryDone_keeps_tenants (s : State) (q idx st len frag : Nat) :
    (entryDone s q idx st len frag).tenants = s.tenants ∧ (entryDone s q idx st len frag).mem.keySets = s.mem.keySets ∧
      (entryDone s q idx st len frag).owners = s.owners := by
  have hkeeps := entryDone_keeps s q idx st len frag (keeps_refl _ s) (sub_refl _)
  exact ⟨hkeeps.tenants (by decide), hkeeps.keySets (by decide), hkeeps.owners (by decide)⟩

/-- A TEARDOWN of an EMPTY slot completes at once. -/
theorem execTenantTeardown_empty (h : tenantVerb s q idx 1 = some e) (hempty : (tenant s (entrySlot e)).st = 0) :
    execTenantTeardown q idx s = .next (entryDone s q idx Status.ok 0 0) := by
  rw [execTenantTeardown, h]
  exact if_pos hempty

/-- A teardown of an ACTIVE tenant begins with step 1. -/
theorem startTeardown_active {t : Nat} (h : (tenant s t).st = 1) : startTeardown s t = quiesce s t := if_pos h

/-- A TEARDOWN of an ACTIVE slot quiesces it and waits for its end. -/
theorem execTenantTeardown_active (h : tenantVerb s q idx 1 = some e) (hactive : (tenant s (entrySlot e)).st = 1) :
    execTenantTeardown q idx s = .next (tenantMod
      (entryMod (quiesce s (entrySlot e)) q idx (fun e => { e with running := true })) (entrySlot e) (fun T =>
      { T with waiting := T.waiting ++ [(q, idx)] })) := by
  rw [execTenantTeardown, h]
  dsimp only
  rw [if_neg (by rw [hactive]; decide), startTeardown_active hactive]

/-- A QUERY writes the word of its slot. -/
theorem execTenantQuery_writes (h : tenantVerb s q idx 2 = some e) :
    execTenantQuery q idx s = .next (entryDone (entryMod s q idx (fun x =>
      { x with writes := [(48, leBytes 8 (queryWord (tenant s (entrySlot e))))] })) q idx Status.ok 0 0) := by
  rw [execTenantQuery, h]
end

/-! ### Frames, queues and tiles come back (R326, R384, R398) -/

/-- The channels of a tile are cleared. -/
def channelsCleared (s : State) (t : Nat) : State :=
  (List.range 16).foldl (fun s ch => sqmClear (sqmStartClear s (tileQ t ch)) (tileQ t ch) (tileOwner s t)) s

/-- That leaves the tiles' own state alone. -/
theorem tgd_channelsCleared (s : State) (t : Nat) : (channelsCleared s t).tgd = s.tgd :=
  (keeps_foldl (m := 0x8002000e200) (keeps_refl _ s) fun _ _ h =>
    sqmClear_keeps _ _ _ (sqmStartClear_keeps _ _ h (by decide)) (sub_refl _)).tgd (by decide)

/-- The reservations of a tile's channels are dropped. -/
def resvDropped (s : State) (t : Nat) : State :=
  { s with tgd := { s.tgd with resv := s.tgd.resv.filter (fun r => !decide (tileQ t 0 ≤ r.1 ∧ r.1 < tileQ (t + 1) 0)) } }

/-- A tile is cleared in its memory, its channels and their reservations. -/
theorem tileClear_eq (s : State) (t : Nat) :
    tileClear s t = resvDropped (channelsCleared (zeroRange s (tileBase + t * 2 ^ 22) (2 ^ 22)) t) t := rfl

/-- Reservations are not the tiles' own state. -/
theorem tiles_resvDropped (s : State) (t : Nat) : (resvDropped s t).tgd.tiles = s.tgd.tiles := rfl

/-- Nor is memory. -/
theorem tgd_zeroRange (s : State) (a n : Nat) : (zeroRange s a n).tgd = s.tgd := rfl

/-- A tile that is cleared has its own state still: it is overwritten after. -/
theorem tiles_tileClear (s : State) (t : Nat) : (tileClear s t).tgd.tiles = s.tgd.tiles := by
  rw [tileClear_eq, tiles_resvDropped, tgd_channelsCleared, tgd_zeroRange]

/-- The slots stay too. -/
theorem tenants_tileClear (s : State) (t : Nat) : (tileClear s t).tenants = s.tenants :=
  (tileClear_keeps s t (keeps_refl _ s) (sub_refl _)).tenants (by decide)

/-- A cleared tile becomes IDLE, with its site and spare, and no teardown waits for it. -/
def tileReturned (s : State) (t : Nat) : State :=
  let s1 := tileMod s t (fun T => { st := 2, onSpare := T.onSpare, site := T.site })
  let s2 := { s1 with mem := { s1.mem with tileScrub := tset (fun _ => false) s1.mem.tileScrub t false } }
  { s2 with tenants := s2.tenants.map (fun T => (T.1, { T.2 with clearTiles := T.2.clearTiles.filter (· ≠ t) })) }

/-- What is left of the tile. -/
theorem tile_tileReturned (s : State) (t : Nat) :
    tile (tileReturned s t) t = { st := 2, onSpare := (tile s t).onSpare, site := (tile s t).site } := tile_tileMod s t _

/-- With no slot written none is written. -/
theorem tenants_tileReturned {s : State} (t : Nat) (h : s.tenants = []) : (tileReturned s t).tenants = [] := by
  show s.tenants.map _ = []
  rw [h, List.map_nil]

/-- A tile in CLEARING is returned once it is cleared, and the teardowns are checked. -/
theorem execTileClearDone_clearing {s : State} {t : Nat} (hclear : (tile s t).st = 1) :
    execTileClearDone t s = .next (lifeChecks (tileReturned (tileClear s t) t)) := if_pos hclear

/-- A frame that is cleared, outside the tiles, returns to the pool, or is kept out of it and counted. -/
theorem execTermiteFrameCleared_scrubbed {f : Nat} {s : State} (hout : inTile s.variant (f * 2 ^ 21) = false)
    (hscrub : (frame s f).scrub = true) :
    execTermiteFrameCleared f s =
      let s1 := frameMod (zeroRange s (f * 2 ^ 21) (2 ^ 21)) f (fun F => { quarantine := F.quarantine })
      .next (lifeCheck { s1 with mem := { s1.mem with quarantined := s.mem.quarantined + b2n (frame s f).quarantine } }
        (frame s f).owner) :=
  if_neg (by rw [hout, hscrub]; decide)

/-- Settles O17: each command has the case of its condition, and what is said of the state after it is read off its last writes. -/
theorem tenantLifecycle : Obligations.TenantLifecycle := by
  refine ⟨fun t s hst hover => execDrainComplete_over hst hover, fun t s hst => execDrainBound_drains hst,
    fun t s u hst hover hu hqueues => ?_, fun t s u hst hu hbusy => ?_, fun q idx e s h hempty hfn hentropy hwipe => ?_,
    fun q idx e s h hempty => execTenantTeardown_empty h hempty, fun q idx e s h hactive => execTenantTeardown_active h hactive,
    fun q idx e s h => execTenantQuery_writes h, fun f s hout hscrub => execTermiteFrameCleared_scrubbed hout hscrub,
    fun q s hclear => if_pos hclear, fun t s hclear hnone => ?_⟩
  · subst hu
    obtain ⟨v, hv⟩ := scrubStart_eq (destroyKeys s t) t
    refine ⟨(execDrainComplete_over hst hover).trans (congrArg _ (afterDrain_waiting hqueues)), ?_, ?_⟩
    · rw [hv, tenant_inStep4]
    · rw [hv, owners_inStep4]
  · subst hu
    exact ⟨(execDrainBound_drains hst).trans (congrArg _ (drainBound_busy hbusy)), congrArg Tenant.st (tenant_tenantMod _ t _)⟩
  · obtain ⟨htenants, hkeys, howners⟩ := entryDone_keeps_tenants (activate s (entrySlot e)) q idx Status.ok 0 0
    refine ⟨_, execTenantActivate_empty h hempty hfn hentropy hwipe, ?_, ?_, howners⟩
    · rw [tenant, htenants]
      exact tenant_activate s _
    · rw [keyQuads, hkeys]
      exact keyQuads_activate s _
  · refine ⟨_, execTileClearDone_clearing hclear, ?_⟩
    rw [lifeChecks_none (tenants_tileReturned t ((tenants_tileClear s t).trans hnone)), tile_tileReturned, tile, tiles_tileClear, tile]
end Sys2Proof.Proofs
end

section
/-! PROOFS. The cipher engine: streams of CRYPT entries, key slots, pipes and sealed records. O19. -/
namespace Sys2Proof.Proofs
open Sys2Proof.Machine Sys2Proof.Safety Sys2Proof.Laws

/-! ### CRYPT (R119, R407) -/

/-- In PAGES a CRYPT with a usable slot becomes a stream while its tenant runs fewer than eight. -/
theorem execVCrypt_pages {s : State} {q idx : Nat} {e : Entry} (h : readyVerb s q idx 0x11 = some e)
    (hslot : slotUsable s (cryptSlot e) (queueOwner s q) = true) (hmode : ctxMode s (queueOwner s q) = 0)
    (hroom : (s.cph.streams.filter (fun x => x.tenant = queueOwner s q)).length < 8) :
    execVCrypt q idx s = .next (streamPut (entryMod s q idx (fun e => { e with running := true }))
      { queue := q, idx := idx, tenant := queueOwner s q, slot := cryptSlot e, page := true, wrap := false }) := by
  rw [execVCrypt, h]
  dsimp only
  rw [hslot, hmode, if_neg (by decide), if_pos rfl, if_neg (Nat.not_le.mpr hroom)]
  rfl

section
variable {s : State} {q idx : Nat} {e : Entry} {x : Stream}

/-- A slice of a stream acts as its step says. -/
theorem execCryptSlice_settles (bus : Option (List Byte)) (hx : streamOf s q idx = some x) (he : entry s q idx = some e) :
    execCryptSlice q idx bus s = .next (cryptSettle s q idx (cryptSlice s x e bus)) := by
  rw [execCryptSlice, hx, he]

/-- The stream once a slice of `n` bytes has left this chaining block and GHASH accumulator. -/
def sliceTaken (x : Stream) (n : Nat) (r : List Byte × List Byte × Nat) : Stream :=
  { x with done := x.done + n, chain := r.2.1, ghash := r.2.2 }

/-- A slice of a stream that has begun and is not saved, whose slot is not being loaded again, reads its bytes, writes what the cipher makes
of them, and ends the stream when they were the last (R402, R403). -/
theorem cryptSlice_begun {bus bus3 : Option (List Byte)} {s3 s4 s5 : State} {n : Nat} {d : List Byte}
    {r : List Byte × List Byte × Nat} {y : Stream} (hload : (keySlot s x.slot).reloading = false) (hsaved : x.saved = none)
    (hbegun : x.begun = true) (hn : n = sliceLen e x.done)
    (hread : cryptRead s x.tenant (dctx e) (ef e 16 8) x.done n bus = .ok (s3, bus3, d)) (hoverlap : cryptOverlap e = false)
    (hr : r = cryptStep (keySlot s x.slot).key (cryptMode e) (cryptDec e) (cryptAad e - x.done) x.chain x.ghash d)
    (hwrite : cryptWrite s3 x.queue x.idx x.tenant (dctx e) (ef e 24 8) x.done (elen e) r.1 = .ok s4) (hy : y = sliceTaken x n r)
    (hs5 : s5 = streamPut (cphBlocks s4 x.tenant ((n + 15) / 16)) y) :
    cryptSlice s x e bus =
      if x.done + n < elen e then .ok s5
      else (cryptLast s5 y e (keySlot s x.slot).key bus3).bind fun s6 =>
        .ok (cryptFinish (streamDrop s6 x.queue x.idx) x.queue x.idx) := by
  subst hn hr hs5 hy
  rw [cryptSlice]
  dsimp only
  rw [hload, if_neg (by decide), hsaved]
  simp only [bind, Except.bind, if_pos hbegun, hread, hoverlap, Bool.false_eq_true, if_false, hwrite]
  rfl
end

/-! ### Key slots (R405, R406, Table 17-3) -/

/-- A rewritten slot reads as rewritten. -/
@[simp] theorem keySlot_slotSet (s : State) (k : Nat) (K : KeySlot) : keySlot (slotSet s k K) k = K := tget_tset_same _ _ _ _

/-- A report of a spare leaves the cipher engine alone. -/
theorem spareReport_cph (s : State) (kind unit inst left : Nat) (brought : Option Nat) :
    (spareReport s kind unit inst left brought).cph = s.cph :=
  (spareReport_keeps s kind unit inst left brought (keeps_refl _ s) (sub_refl _)).cph (by decide)

section
variable {s : State} {k : Nat}

/-- An EMPTY slot is loaded with a key of either size for a tenant. -/
theorem execKeySlotLoad_empty {t : Nat} {key : List Byte} (hk : k < 1024) (ht : t < 256) (hlen : key.length = 16 ∨ key.length = 32)
    (hempty : (keySlot s k).st = 0) : execKeySlotLoad k t key s = .next (slotLoad s k t key) := by
  rw [execKeySlotLoad, if_neg (by simp [hk, ht, hlen]), if_pos hempty]

/-- A parity error of a LOADED slot moves it to the reserve of the quadrant, to be loaded again. -/
theorem execKeySlotParity_reserve {quad : Nat} (hloaded : (keySlot s k).st = 1) (hquad : quad < 4) (hleft : 0 < slotReserve s quad) :
    ∃ u, execKeySlotParity k quad s = .next u ∧ keySlot u k = { keySlot s k with remapped := true, reloading := true } := by
  rw [execKeySlotParity]
  dsimp only
  rw [if_neg (by simp [hloaded, hquad]), if_neg (Nat.ne_of_gt hleft)]
  refine ⟨_, rfl, ?_⟩
  rw [keySlot, spareReport_cph]
  exact keySlot_slotSet _ _ _
end

/-! ### Sealed records (R409 to R411) -/

section
variable {s s1 s2 : State} {t c base r : Nat}

/-- A record of a range that leads to the bus, of a sealed tenant, is opened once its bytes are in. -/
theorem execSealedRecordOpen_read {bus : Option (List Byte)} {total : Nat} {ps : List (Target × Nat)} {b : List Byte}
    (hrange : (rangeLens s t c base).find? (fun n => decide (4096 * r < n)) = some total) (hsealed : sealed s t = true)
    (hbus : leadsToBus s c base = true)
    (hxlate : dmaXlate s t c (base + 4160 * r) (64 + recordLenOf total r) { rd := true } = (s1, .ok ps))
    (hread : readPieces s1 t ps bus = (s2, .ok b)) :
    execSealedRecordOpen t c base r bus s = .next (openRecord s2 t c base r (recordLenOf total r) (base + 4160 * r) b) := by
  rw [execSealedRecordOpen, hrange]
  dsimp only
  rw [hsealed, hbus, if_neg (by decide), hxlate]
  dsimp only
  rw [hread]

/-- The plaintext of a record in seal staging. -/
def stagedText (g : SealStage) : List Byte := (List.range g.len).map (fun i => (tget (fun _ => none) g.bytes i).getD 0)

/-- A full record is sealed with the next SEQ of its tenant's pair and written, and what it belonged to goes on. -/
theorem execSealedRecordWrite_full {g : SealStage} {rest : List SealStage} {hdr : List Byte} {w : List Byte × List Byte}
    {l : List (Nat × Nat)}
    (hfull : takeFirst (fun g : SealStage => decide (g.tenant = t ∧ g.ctx = c ∧ g.base = base ∧ g.rec_ = r) && recordFull g)
      s.cph.staging = some (g, rest))
    (hvalid : (sealPair (tenant s t) (tenant s t).keysel).valid = true)
    (hloaded : (keySlot s (sealPair (tenant s t) (tenant s t).keysel).dev).st = 1)
    (howner : (keySlot s (sealPair (tenant s t) (tenant s t).keysel).dev).owner = t) (hclean : g.ep = false)
    (hhdr : hdr = recordHeader 1 (tenant s t).keysel g.len (tenant s t).sealSeq c t (base + 4160 * r))
    (hw : w = gcmSeal (keySlot s (sealPair (tenant s t) (tenant s t).keysel).dev).key
      ((sealPair (tenant s t) (tenant s t).keysel).devSalt ++ leBytes 8 (tenant s t).sealSeq) hdr (stagedText g))
    (hwrite : dmaWrite { s with cph := { s.cph with staging := rest } } t c (base + 4160 * r) (hdr ++ w.2 ++ w.1) [] = (s1, .ok l)) :
    execSealedRecordWrite t c base r s = .next (recordDone (cphBlocks (tenantMod s1 t (fun T =>
      { T with sealSeq := T.sealSeq + 1 })) t ((g.len + 15) / 16)) g l) := by
  subst hhdr hw
  unfold stagedText at hwrite
  rw [execSealedRecordWrite, hfull]
  dsimp only
  rw [hvalid, if_neg (by simp [hloaded, howner]), hclean, if_neg (by decide), hwrite]
end

/-- Settles O19: each command has the case of its condition; a slice is settled by its step, which a stream that has begun goes through. -/
theorem cipherEngine : Obligations.CipherEngine := by
  refine ⟨fun q idx e s h hslot hmode hroom => execVCrypt_pages h hslot hmode hroom, fun q idx e x bus u s hx he hok => ?_,
    fun q idx e x bus s s3 bus3 d r s4 n y s5 hx he hload hsaved hbegun hn hread hoverlap hr hwrite hy hs5 => ?_,
    fun q idx e x bus st s hx he hfail => ?_, fun k t key s hk ht hlen hempty => ?_, fun k s hloaded => if_pos hloaded,
    fun k s hgoing => ⟨_, if_pos hgoing, keySlot_slotSet s k {}⟩, fun k quad s hloaded hquad hleft => ?_, fun p s hleft => if_pos hleft,
    fun t c base r bus total ps b s s1 s2 hrange hsealed hbus hxlate hread =>
      execSealedRecordOpen_read hrange hsealed hbus hxlate hread,
    fun t c base r g rest T K hdr w s s1 l hfull hT hvalid hK hloaded howner hclean hhdr hw hwrite => ?_⟩
  · exact (execCryptSlice_settles bus hx he).trans (by rw [hok, cryptSettle])
  · have hslice := cryptSlice_begun hload hsaved hbegun hn hread hoverlap hr hwrite hy hs5
    refine ⟨fun hmore => (execCryptSlice_settles bus hx he).trans ?_, fun s6 hend hlast => (execCryptSlice_settles bus hx he).trans ?_⟩
    · rw [hslice, if_pos hmore, cryptSettle]
    · rw [hslice, if_neg (Nat.not_lt.mpr hend), hlast, Except.bind, cryptSettle]
  · exact (execCryptSlice_settles bus hx he).trans (by rw [hfail, cryptSettle])
  · exact ⟨_, execKeySlotLoad_empty hk ht hlen hempty, keySlot_slotSet s k _, regN_bump _ _ _⟩
  · obtain ⟨u, hu, hslot⟩ := execKeySlotParity_reserve hloaded hquad hleft
    exact ⟨u, hu, by rw [hslot]; exact hloaded, by rw [hslot], by rw [hslot], by rw [hslot]⟩
  · subst hT hK
    exact execSealedRecordWrite_full hfull hvalid hloaded howner hclean hhdr hw hwrite

end Sys2Proof.Proofs
end

section
/-! PROOFS. DATOM of a tile and the return of its AtomicOp. O44. -/
namespace Sys2Proof.Proofs
open Sys2Proof.Machine Sys2Proof.Safety Sys2Proof.Laws

section
variable {s s1 : State} {t w : Nat} {x : Issued}

/-- The rights that a DATOM asks for: it reads and writes, and may leave the device. -/
def datomUse : Use := { rd := true, wr := true, fabric := true }

/-- A misaligned DATOM traps ALIGN. -/
theorem datomEff_misaligned (halign : (opA s t w).toNat % 8 ≠ 0) : datomEff s t (tile s t) w = .trap 3 (opA s t w).toNat :=
  if_pos halign

section
variable (halign : (opA s t w).toNat % 8 = 0)
  (hissue : issue s (tileOwner s t) (kCtx s (tile s t).kernel) (opA s t w).toNat 8 0 datomUse = (s1, .ok x))
include halign hissue

/-- A DATOM on memory of this device outside the apertures writes the new value and leaves the old one in D (R111, R360). -/
theorem datomEff_local {s2 s3 : State} {p : Nat} {d : List Byte} (hpieces : x.pieces = [(.loc p, 8)])
    (hmem : inAperture s.variant p = false) (hread : finishRead s1 (tileOwner s t) x none = (s2, .ok d))
    (hwrite : writePieces s2 (tileOwner s t) x.pieces
      (leBytes 8 (atomicNew (iFn w) (w64 (leNat d)) (opB s t w) (opC s t w)).toNat) [] = (s3, true)) :
    datomEff s t (tile s t) w = .done (setG s3 t (iD w) (w64 (leNat d))) := by
  unfold opA at halign
  unfold opA datomUse at hissue
  unfold opB opC at hwrite
  rw [datomEff]
  dsimp only
  rw [if_neg (Decidable.not_not.mpr halign), hissue]
  dsimp only
  rw [hpieces] at hwrite ⊢
  dsimp only
  rw [hmem, if_neg (by decide), hread]
  dsimp only
  rw [hwrite]

/-- A DATOM that PCIe has an AtomicOp for, of a tenant that is not sealed, sends it to its bus address and waits (R193, R360). -/
theorem datomEff_bus {p page : Nat} {peer : Bool} (hpieces : x.pieces = [(.bus p peer page, 8)]) (hop : iFn w < 3)
    (hsealed : sealed s1 (tileOwner s t) = false) :
    datomEff s t (tile s t) w = .wait (emit (tileMod s1 t (fun T => { T with atomDest := some (iD w), atomXfer := x }))
      (.atomicOp (requesterFn (tileOwner s t)) (.tileAtomic t) p (decide (iFn w = 2)) (decide (iFn w = 1)) (opB s t w) (opC s t w))) := by
  unfold opA at halign
  unfold opA datomUse at hissue
  rw [datomEff]
  dsimp only
  rw [if_neg (Decidable.not_not.mpr halign), hissue]
  dsimp only
  rw [hpieces]
  exact if_neg (by simp [hop, hsealed])
end

/-- The old value that an AtomicOp returns goes to the register that its DATOM named, and the tile goes on (R360). -/
theorem datomReturns_value {d : Nat} (v : W64) (hwaits : (tile s t).atomXfer.pieces ≠ []) (hgoes : (tile s t).stopping = false)
    (hdest : (tile s t).atomDest = some d) :
    datomReturns s t (some v) = setPc (setG (tileMod (endXfer s (tile s t).atomXfer) t (fun T =>
      { T with atomDest := none, atomXfer := {} })) t d v) t ((tile s t).pc + 8) := by
  rw [datomReturns]
  dsimp only
  rw [if_neg hwaits, hgoes, if_neg (by decide), hdest]
end

/-- Settles O44: a DATOM that is executed has its effect, and an AtomicOp goes back to what asked for it. -/
theorem tileAtomics : Obligations.TileAtomics := by
  refine ⟨fun t w p x s s1 s2 s3 d h halign hissue hpieces hmem hread hwrite => congrArg Host.Outcome.next ?_,
    fun t w p c f x s s1 h halign hissue hpieces hop hsealed => congrArg Host.Outcome.next ?_,
    fun t w s h halign => congrArg Host.Outcome.next ?_,
    fun t d v s hwaits hgoes hdest => congrArg _ (datomReturns_value v hwaits hgoes hdest), fun c m r s => rfl⟩
  · exact (tileOp_runs _ h).trans (congrArg _ (datomEff_local halign hissue hpieces hmem hread hwrite))
  · exact (tileOp_runs _ h).trans (congrArg _ (datomEff_bus halign hissue hpieces hop hsealed))
  · exact (tileOp_runs _ h).trans (congrArg _ (datomEff_misaligned halign))

end Sys2Proof.Proofs
end

section
/-! PROOFS. Registers and table words of a translation context, completion timeouts, and writes of blocks of another key set. O5, O18, O57. -/
namespace Sys2Proof.Proofs
open Sys2Proof.Machine Sys2Proof.Safety Sys2Proof.Laws

/-! ### A completion timeout (R148, R194, R494) -/

/-- A running collective whose read times out aborts. -/
theorem execCompletionTimeout_scarab {s : State} {g : Nat} (hruns : (grp s g).st = 1) :
    execCompletionTimeout (.scarab g) s = .next (scbAbort s g Status.localProtection) := congrArg _ (if_pos hruns)

/-- A stream whose read times out fails its entry. -/
theorem execCompletionTimeout_cipher {s : State} {q idx : Nat} {x : Stream} (hx : streamOf s q idx = some x) :
    execCompletionTimeout (.cipher q idx) s = .next (cryptFail s q idx Status.localProtection) :=
  congrArg _ (if_pos (Option.isSome_of_mem hx))

/-- A read of Cicada's message that times out leaves a free RESULT (log 43). -/
theorem execCompletionTimeout_cicada {s : State} (hbusy : s.cic.hostBusy = true) :
    execCompletionTimeout .cicada s = .next { (draw s).2 with
      cic := { s.cic with hostBusy := false, hostResult := fld (Config.draw s.freeCtr) 7 0 } } := if_pos hbusy

/-- Settles O57: most origins go on by the very operation of their failed completion; a collective, a stream and Cicada's buffer do when they
still wait. -/
theorem completionTimeouts : Obligations.CompletionTimeouts :=
  ⟨fun _ _ _ => rfl, fun _ _ _ => rfl, fun _ _ _ _ _ => rfl, fun _ _ _ => rfl, fun _ _ => rfl, fun _ _ _ => rfl, fun _ _ _ => rfl,
    fun _ _ _ => rfl, fun _ _ _ => rfl, fun _ _ hruns => execCompletionTimeout_scarab hruns,
    fun _ _ _ _ hx => execCompletionTimeout_cipher hx, fun _ hbusy => ⟨_, execCompletionTimeout_cicada hbusy, rfl, rfl⟩⟩

/-! ### Registers of a translation context (R136, R137, R143, R145) -/

/-- A discarded half is no context. -/
@[simp] theorem ctx_dropHeld (s : State) (fn c : Nat) : ctx (dropHeld s fn) c = ctx s c := rfl

/-- A write of a register of the selected context is applied to it, and drops the half that the function holds. -/
theorem onCtx_selected {s : State} {fn c : Nat} (f : Nat → State) (hup : blockUp s fn = true) (hsel : selCtx s fn = some c) :
    onCtx s fn f = .next (dropHeld (f c) fn) := by
  rw [onCtx, hup, if_neg (by decide), hsel]

section
variable {s : State} {c fn : Nat} {value : W64}

/-- A root is written while VALID is clear (R136). -/
theorem ctx_rootWrite (hclear : (ctx s c).valid = false) (hloc : fld value 1 0 < 2) : ctx (rootWrite s c value) c =
    { ctx s c with refused := false, root := w64 (fld value 63 12 * 4096 + fld value 1 0) } := by
  rw [rootWrite, if_neg (by simp [hclear, hloc]), ctx_ctxMod]

/-- ATU_CCTL is refused whole when it would set VALID of a sealed tenant's context with a host root (R137). -/
theorem cctlWrite_refused (hset : wbit value 0 = true) (hsealed : sealed s fn = true) (hclear : (ctx s c).valid = false)
    (hhost : fld (ctx s c).root 1 0 = 1) : cctlWrite s fn c value = ctxMod s c (fun C => { C with refused := true }) :=
  if_pos ⟨hset, hclear, hsealed, hhost⟩

/-- What a write of ATU_CCTL that is not refused leaves in a context beside VALID: FABRIC_EN is the PF's (R143). -/
def cctlTaken (fn : Nat) (value : W64) (C : Ctx) : Ctx :=
  { C with refused := false, fabricEn := if fn = 0 then wbit value 1 else C.fabricEn }

/-- A write of ATU_CCTL with VALID 1 sets it where the tenant is not sealed, VALID is set already, or the root is on the device. -/
theorem ctx_cctlWrite_set (hset : wbit value 0 = true)
    (hmay : sealed s fn = false ∨ (ctx s c).valid = true ∨ fld (ctx s c).root 1 0 = 0) :
    ctx (cctlWrite s fn c value) c = cctlTaken fn value { ctx s c with valid := true } := by
  have hgoes : ¬ (wbit value 0 ∧ (ctx s c).valid = false ∧ sealed s fn = true ∧ fld (ctx s c).root 1 0 = 1) := by
    rintro ⟨-, hclear, hsealed, hhost⟩
    simp [hclear, hsealed, hhost] at hmay
  rw [cctlWrite, if_neg hgoes, if_pos hset]
  simp [cctlTaken]

/-- A write of ATU_CCTL with VALID 0 clears it, and is never refused. -/
theorem cctlWrite_clear (hreset : wbit value 0 = false) : cctlWrite s fn c value = ctxMod (clearValid s c) c (cctlTaken fn value) := by
  rw [cctlWrite, hreset, if_neg (by simp)]
  rfl

/-- The context whose VALID is cleared is one epoch on (R145). -/
theorem ctx_clearValid (hvalid : (ctx s c).valid = true) :
    ctx (clearValid s c) c = { ctx s c with valid := false, epoch := (ctx s c).epoch + 1 } := by
  rw [clearValid, if_pos hvalid, ctx_ctxMod, advanceEpoch, ctx_ctxMod]
  rfl

/-- None of its cached translations is left. -/
theorem ctx_of_mem_cache_clearValid {x : Cached} (hvalid : (ctx s c).valid = true) (hx : x ∈ (clearValid s c).atu.cache) : x.ctx ≠ c := by
  rw [clearValid, if_pos hvalid] at hx
  simpa using (List.mem_filter.mp hx).2

/-- A context whose VALID is clear stays as it is. -/
theorem clearValid_clear (hclear : (ctx s c).valid = false) : clearValid s c = s := by
  rw [clearValid, if_neg (by simp [hclear])]

/-- A write of ATU_CCTL that leaves VALID as it is sets FABRIC_EN for the PF (R143). -/
theorem ctx_cctlWrite_same (hsame : wbit value 0 = (ctx s c).valid) (hopen : sealed s fn = false) :
    ctx (cctlWrite s fn c value) c = cctlTaken fn value (ctx s c) := by
  cases hvalid : (ctx s c).valid with
  | true => rw [ctx_cctlWrite_set (hsame.trans hvalid) (.inl hopen), ← hvalid]
  | false => rw [cctlWrite_clear (hsame.trans hvalid), ctx_ctxMod, clearValid_clear hvalid]
end

/-- A word that some access waits for is kept, and the accesses that wait for it are ready to go on at a later tick (R145, log 10). -/
theorem walkWord_waited {s : State} {c addr : Nat} (word : Option W64)
    (hwaits : s.atu.stalled.any (fun x => decide (x.ctx = c ∧ x.addr = addr)) = true) : walkWord s c addr word = { s with atu := { s.atu with
      walk := ⟨c, addr, word⟩ :: s.atu.walk.filter (fun w => !decide (w.ctx = c ∧ w.addr = addr)),
      stalled := s.atu.stalled.filter (fun x => !decide (x.ctx = c ∧ x.addr = addr)),
      ready := s.atu.ready ++ (s.atu.stalled.filter (fun x => decide (x.ctx = c ∧ x.addr = addr))).map (·.cmd) } } := if_pos hwaits

/-- Settles O18: each row is a write of the selected context, with the case of its condition. -/
theorem translationContexts : Obligations.TranslationContexts := by
  refine ⟨fun fn value c s hup hsel hclear hloc => ⟨_, onCtx_selected _ hup hsel, ?_⟩,
    fun fn value c s hup hsel hset hmay => ⟨_, onCtx_selected _ hup hsel, ?_⟩,
    fun fn value c s hup hsel hset hsealed hclear hhost => ⟨_, onCtx_selected _ hup hsel, ?_⟩,
    fun fn value c s hup hsel hreset hvalid => ⟨_, onCtx_selected _ hup hsel, ?_⟩,
    fun value c s hup hsel hsame hopen => ⟨_, onCtx_selected _ hup hsel, ?_⟩,
    fun c addr word s hwaits => ⟨_, congrArg Host.Outcome.next (walkWord_waited word hwaits), rfl, rfl, rfl⟩⟩
  · rw [ctx_dropHeld, ctx_rootWrite hclear hloc]
    exact ⟨rfl, rfl⟩
  · rw [ctx_dropHeld, if_pos hset, ctx_cctlWrite_set hset hmay]
    exact ⟨rfl, rfl, rfl⟩
  · rw [ctx_dropHeld, if_pos hset, cctlWrite_refused hset hsealed hclear hhost, ctx_ctxMod]
    exact ⟨rfl, hclear, rfl⟩
  · rw [ctx_dropHeld, dropHeld_atu, hreset, if_neg (by decide), cctlWrite_clear hreset, ctx_ctxMod, ctx_clearValid hvalid]
    exact ⟨rfl, rfl, fun x => ctx_of_mem_cache_clearValid hvalid⟩
  · rw [ctx_dropHeld, if_pos hsame, ctx_cctlWrite_same hsame hopen]
    exact ⟨rfl, rfl⟩

/-! ### A write of part of a block of another key set (R374, R376) -/

/-- A write of bytes changes nothing but bytes. -/
theorem setBytes_eq (s : State) (a : Nat) (l : List Byte) :
    ∃ B, setBytes s a l = { s with mem := { s.mem with bytes := B } } := by
  induction l generalizing s a with
  | nil => exact ⟨_, rfl⟩
  | cons v r ih => exact ih (setByte s a v) (a + 1)

section
variable {s : State} {a n b : Nat}

/-- A block that a partial write settles: another key set's, and covered in part alone. -/
def settles (s : State) (a n b : Nat) : Bool := otherSet s b && !decide (a ≤ b * 64 ∧ b * 64 + 64 ≤ a + n)

/-- Those are the blocks that it writes as they are deciphered now. -/
theorem settleBlock_ite (s : State) (a n b : Nat) :
    settleBlock s a n b = if settles s a n b then setBytes s (b * 64) (seenBlock s b) else s := rfl

/-- Settling a block changes nothing but bytes. -/
theorem settleBlock_eq (s : State) (a n b : Nat) : ∃ B, settleBlock s a n b = { s with mem := { s.mem with bytes := B } } := by
  rw [settleBlock_ite]
  split
  · exact setBytes_eq _ _ _
  · exact ⟨_, rfl⟩

/-- So it changes no block's key set. -/
@[simp] theorem otherSet_settleBlock (s : State) (a n b c : Nat) : otherSet (settleBlock s a n b) c = otherSet s c := by
  obtain ⟨B, hB⟩ := settleBlock_eq s a n b
  rw [hB]
  rfl

/-- The bytes of a settled block are what it deciphers to, where that is a whole block; all others stay. -/
theorem memByte_settleBlock (hsize : otherSet s b = true → (seenBlock s b).length = 64) (x : Nat) :
    memByte (settleBlock s a n b) x =
      if x / 64 = b ∧ settles s a n b = true then (seenBlock s b).getD (x % 64) 0 else memByte s x := by
  rw [settleBlock_ite]
  by_cases h : settles s a n b = true
  · have hother : otherSet s b = true := (Bool.and_eq_true_iff.mp h).1
    rw [if_pos h, memByte_setBytes, hsize hother]
    by_cases hx : x / 64 = b
    · rw [if_pos (by omega), if_pos ⟨hx, h⟩, show x - b * 64 = x % 64 by omega]
    · rw [if_neg (by omega), if_neg (fun hc => hx hc.1)]
  · rw [if_neg h, if_neg (fun hc => h hc.2)]

/-- Settling a block leaves what another one deciphers to. -/
theorem seenBlock_settleBlock {c : Nat} (hsize : otherSet s b = true → (seenBlock s b).length = 64) (hne : c ≠ b) :
    seenBlock (settleBlock s a n b) c = seenBlock s c := by
  have hbytes : memBytes (settleBlock s a n b) (c * 64) 64 = memBytes s (c * 64) 64 := by
    refine List.ext_getElem (by simp) fun i hi _ => ?_
    rw [length_memBytes] at hi
    rw [getElem_memBytes, getElem_memBytes, memByte_settleBlock hsize, if_neg (by omega)]
  obtain ⟨B, hB⟩ := settleBlock_eq s a n b
  rw [seenBlock, seenBlock, storedBlock, storedBlock, otherSet_settleBlock, hbytes, hB]
  rfl

/-- The bytes after the blocks of a list were settled. -/
theorem memByte_settleBlocks {l : List Nat} (hnodup : l.Nodup)
    (hsize : ∀ b ∈ l, otherSet s b = true → (seenBlock s b).length = 64) (x : Nat) :
    memByte (l.foldl (fun s b => settleBlock s a n b) s) x =
      if x / 64 ∈ l ∧ settles s a n (x / 64) = true then (seenBlock s (x / 64)).getD (x % 64) 0 else memByte s x := by
  induction l generalizing s with
  | nil => exact (if_neg fun h => List.not_mem_nil h.1).symm
  | cons b r ih =>
    obtain ⟨hb, hr⟩ := List.nodup_cons.mp hnodup
    have hfirst := hsize b List.mem_cons_self
    have hseen : ∀ c ∈ r, seenBlock (settleBlock s a n b) c = seenBlock s c := fun c hc =>
      seenBlock_settleBlock hfirst fun he => hb (he ▸ hc)
    rw [List.foldl_cons, ih hr fun c hc hother => ?_, memByte_settleBlock hfirst]
    · by_cases hx : x / 64 = b
      · simp [hx, hb]
      · by_cases hxr : x / 64 ∈ r
        · simp [hx, hxr, hseen _ hxr, settles]
        · simp [hx, hxr]
    · rw [hseen c hc]
      exact hsize c (List.mem_cons_of_mem b hc) (by simpa using hother)
end

/-- The blocks of a range, each once. -/
theorem nodup_blocksOf (a n : Nat) : (blocksOf a n).Nodup := by
  unfold blocksOf
  split
  · exact List.nodup_nil
  · exact List.Pairwise.map _ (fun _ _ hne h => hne (Nat.add_right_cancel h)) List.nodup_range

/-- The block states of a write are no bytes. -/
theorem foldl_setBlk_pairs_bytes (l : List (Nat × Blk)) (s : State) :
    (l.foldl (fun s x => setBlk s x.1 x.2) s).mem.bytes = s.mem.bytes := by
  induction l generalizing s with
  | nil => rfl
  | cons u r ih => exact ih _

/-- What the clause of O5 on a partial write says holds where each block of another key set deciphers to 64 bytes. -/
theorem memoryWrite_part {t a : Nat} {bytes : List Byte} {s : State} (hgoes : heldBy s a = none)
    (howned : ownedRange s t a bytes.length = true) (hworks : (unitsOfRange s a bytes.length).any (blockFailed s) = false)
    (hsize : ∀ b ∈ blocksOf a bytes.length, otherSet s b = true → (seenBlock s b).length = 64) :
    ∃ u, exec (.memoryWrite t a bytes) s = .next u ∧ (∀ i < bytes.length, memByte u (a + i) = bytes.getD i 0) ∧
      ∀ b, (b < a ∨ a + bytes.length ≤ b) → memByte u b =
        if (blocksOf a bytes.length).contains (b / 64) && otherSet s (b / 64) then (seenBlock s (b / 64)).getD (b % 64) 0
        else memByte s b := by
  have hexec : exec (.memoryWrite t a bytes) s = .next (memWrite s t a bytes []).1 := by
    show execMemoryWrite t a bytes s = _
    rw [execMemoryWrite, hgoes]
  have hbyte : ∀ x, memByte (memWrite s t a bytes []).1 x =
      memByte (setBytes ((blocksOf a bytes.length).foldl (fun s b => settleBlock s a bytes.length b) s) a bytes) x := by
    intro x
    rw [memWrite, howned, hworks, if_pos (by decide), memByte, foldl_setBlk_pairs_bytes, memByte]
  refine ⟨_, hexec, fun i hi => ?_, fun x hx => ?_⟩
  · rw [hbyte, memByte_setBytes, if_pos (by omega), Nat.add_sub_cancel_left]
  · rw [hbyte, memByte_setBytes_outside _ (by omega), memByte_settleBlocks (nodup_blocksOf _ _) hsize]
    have hpart : decide (a ≤ x / 64 * 64 ∧ x / 64 * 64 + 64 ≤ a + bytes.length) = false := by
      rw [decide_eq_false_iff_not]
      omega
    simp [settles, hpart]

/-- Tenant 0 has frame 0, but the number of its key set names one with no key in it. Block 0 was written under set 1, and its byte 1 is FF. -/
def keylessCard : State :=
  { State.reset with mem :=
    { bytes := [(1, 0xFF)]
      blocks := [(0, { set := 1 })]
      frames := [(0, { alloc := true })]
      keySets := [(0, 15)] } }

/-- Under a key set without keys a block deciphers to no bytes at all. -/
theorem seenBlock_keylessCard : seenBlock keylessCard 0 = [] := by decide

/-- Refutes O5, in its clause on a write that covers part of a block of another key set: byte 1 of `keylessCard` keeps FF when byte 0 is
written, since there is nothing to put in its place, and the clause wants the 0 that stands for a byte that is not there. The statement is of
every state, also of one whose key sets hold no keys; `memoryWrite_part` says where the clause holds. -/
theorem not_memoryRequests : ¬ Obligations.MemoryRequests := by
  rintro ⟨-, hpart, -⟩
  obtain ⟨u, hu, -, hrest⟩ := hpart 0 0 [5] keylessCard (by decide) (by decide) (by decide)
  have hkept : memByte u 1 = 0xFF := by
    cases hu
    decide
  have hwanted := hrest 1 (.inr (by decide))
  rw [if_pos (by decide), hkept, seenBlock_keylessCard] at hwanted
  exact absurd hwanted (by decide)

end Sys2Proof.Proofs
end

section
/-! PROOFS. What operations of the transport leave of a connection; the registers of a QP and the timers of a connection. O20. -/
namespace Sys2Proof.Proofs
open Sys2Proof.Machine Sys2Proof.Safety Sys2Proof.Laws

/-! ### Connections -/

/-- Connections are part of the transport. -/
theorem conn_congr {s u : State} (h : u.tpe = s.tpe) (c : Nat) : conn u c = conn s c := by rw [conn, h, conn]

/-- A rewritten connection reads as rewritten. -/
@[simp] theorem conn_connMod (s : State) (c : Nat) (f : Conn → Conn) : conn (connMod s c f) c = f (conn s c) := tget_tset_same _ _ _ _

@[simp] theorem conn_egressMod (s : State) (e c : Nat) (f : Egress → Egress) : conn (egressMod s e f) c = conn s c := rfl

@[simp] theorem conn_dropHeld (s : State) (fn c : Nat) : conn (dropHeld s fn) c = conn s c := rfl

/-- What keeps all but parts other than the transport keeps its connections. -/
theorem conn_of_keeps {m : Nat} {s u : State} (h : Keeps m s u) (hm : ¬ Has m 19) (c : Nat) : conn u c = conn s c :=
  conn_congr (h.tpe hm) c

@[simp] theorem conn_bumpFn (s : State) (off fn c : Nat) : conn (bumpFn s off fn) c = conn s c := conn_congr (bumpFn_tpe s off fn) c

/-- A fold whose every step leaves a connection alone leaves it alone. -/
theorem conn_foldl {α : Type} {f : State → α → State} {c : Nat} (hf : ∀ t x, conn (f t x) c = conn t c) (l : List α) (s : State) :
    conn (l.foldl f s) c = conn s c := by
  induction l generalizing s with
  | nil => rfl
  | cons x r ih => exact (ih (f s x)).trans (hf s x)

/-! ### Messages that end with their connection (R175, Table 7-2) -/

@[simp] theorem conn_issuerDone (s : State) (i : Issuer) (status len c : Nat) : conn (issuerDone s i status len) c = conn s c :=
  conn_of_keeps (issuerDone_keeps s i status len (keeps_refl _ s) (sub_refl _)) (by decide) c

@[simp] theorem conn_endSend (s : State) (d : Nat) (m : SendMsg) (c : Nat) : conn (endSend s d m) c = conn s c :=
  conn_of_keeps (endSend_keeps s d m (keeps_refl _ s) (sub_refl _)) (by decide) c

@[simp] theorem conn_leaveRegion (s : State) (m : SendMsg) (c : Nat) : conn (leaveRegion s m) c = conn s c :=
  conn_of_keeps (leaveRegion_keeps s m (keeps_refl _ s) (sub_refl _)) (by decide) c

@[simp] theorem conn_dropPlacements (s : State) (p : Nat) (l : List Issued) (c : Nat) : conn (dropPlacements s p l) c = conn s c :=
  conn_of_keeps (dropPlacements_keeps s p l (keeps_refl _ s) (sub_refl _)) (by decide) c

@[simp] theorem conn_accessEnd (s : State) (i c : Nat) : conn (accessEnd s i) c = conn s c :=
  conn_of_keeps (accessEnd_keeps s i (keeps_refl _ s) (sub_refl _)) (by decide) c

@[simp] theorem conn_finishRecvEntry (s : State) (d : Nat) (m : RecvMsg) (c : Nat) : conn (finishRecvEntry s d m) c = conn s c :=
  conn_of_keeps (finishRecvEntry_keeps s d m (keeps_refl _ s) (sub_refl _)) (by decide) c

/-- A received message that is abandoned leaves the connections alone; only its tracker is the transport's. -/
theorem conn_abandonRecv (s : State) (d status : Nat) (m : RecvMsg) (c : Nat) : conn (abandonRecv s d status m) c = conn s c := by
  have hcounted : ∀ t : State, conn (if m.counted then accessEnd t m.region else t) c = conn t c := by
    intro t
    split
    · exact conn_accessEnd t m.region c
    · rfl
  unfold abandonRecv
  dsimp only
  split
  · refine Eq.trans (conn_finishRecvEntry _ d _ c) ?_
    rw [hcounted, conn_dropPlacements]
  · rw [conn_finishRecvEntry, hcounted, conn_dropPlacements]

/-- Without its outgoing messages a connection has none in flight. -/
theorem conn_dropSends (s : State) (c : Nat) : conn (dropSends s c) c = { conn s c with send := [], flight := [] } := by
  refine (conn_foldl (fun t m => ?_) _ _).trans (conn_connMod _ _ _)
  rw [conn_leaveRegion, conn_endSend]

theorem conn_failSends (s : State) (c status : Nat) : conn (failSends s c status) c = { conn s c with send := [], flight := [] } := by
  refine (conn_foldl (fun t m => ?_) _ _).trans (conn_dropSends s c)
  exact conn_issuerDone t m.by_ status 0 c

theorem conn_failRecvs (s : State) (c status : Nat) : conn (failRecvs s c status) c = { conn s c with recv := [] } := by
  refine (conn_foldl (fun t m => conn_abandonRecv t c status m c) _ _).trans ?_
  exact conn_connMod s c (fun C => { C with recv := [] })

theorem conn_reclaimAll (s : State) (c : Nat) : conn (reclaimAll s c) c = { conn s c with granted := [] } := conn_connMod _ _ _

/-- The context of a connection is cleared; its configuration stays. -/
theorem conn_connClear (s : State) (c : Nat) : conn (connClear s c) c =
    { cfg := (conn s c).cfg, key := (conn s c).key, ctl := (conn s c).ctl, twin := (conn s c).twin } := by
  rw [connClear, conn_connMod, conn_reclaimAll, conn_failRecvs, conn_failSends]

/-! ### Writes of the registers of a QP (Tables 7-10 to 7-12) -/

section
variable {s : State} {fn q : Nat} {value : W64}

/-- A write of a configuration register of the selected QP. -/
theorem execQpConfigWrite_up (off : Nat) (hup : blockUp (dropHeld s fn) fn = true) :
    execQpConfigWrite fn off value s = .next (qpConfigWrite (dropHeld s fn) fn off value) := if_pos hup

/-- In RESET the selected QP takes TPE_QCFG. -/
theorem qpConfigWrite_cfg (hsel : selQp s fn = some q) (hreset : (conn s q).st = 0) :
    qpConfigWrite s fn Reg.TPE_QCFG value = connMod s q (fun C => { C with cfg := w64 (fld value 51 0) }) := by
  rw [qpConfigWrite, hsel]
  dsimp only
  rw [if_neg (fun hne => hne hreset), if_pos rfl]

/-- In RESET the selected QP takes TPE_QKEY. -/
theorem qpConfigWrite_key (hsel : selQp s fn = some q) (hreset : (conn s q).st = 0) :
    qpConfigWrite s fn Reg.TPE_QKEY value = connMod s q (fun C => { C with key := fld value 9 0 }) := by
  rw [qpConfigWrite, hsel]
  dsimp only
  rw [if_neg (fun hne => hne hreset), if_neg (by decide), if_pos rfl]

/-- In RESET the selected QP takes TPE_QTWIN. -/
theorem qpConfigWrite_twin (hsel : selQp s fn = some q) (hreset : (conn s q).st = 0) :
    qpConfigWrite s fn Reg.TPE_QTWIN value = connMod s q (fun C => { C with twin := w64 (fld value 33 0) }) := by
  rw [qpConfigWrite, hsel]
  dsimp only
  rw [if_neg (fun hne => hne hreset), if_neg (by decide), if_neg (by decide), if_pos rfl]

/-- Outside RESET the selected QP takes none of them. -/
theorem qpConfigWrite_ignored (off : Nat) (hsel : selQp s fn = some q) (hstate : (conn s q).st ≠ 0) : qpConfigWrite s fn off value = s := by
  rw [qpConfigWrite, hsel]
  exact if_pos hstate

/-- A QP whose TPE_QCTL is written holds the fields of Table 7-12 that software keeps in it. -/
def ctlHeld (s : State) (q : Nat) (value : W64) : State := connMod s q (fun C => { C with ctl := fld value 11 3 * 8 })

/-- A write of TPE_QCTL with CONNECT alone connects. -/
theorem qpCtlWrite_connect (hsel : selQp s fn = some q) (hconnect : wbit value 0 = true) (hclose : wbit value 1 = false)
    (hreset : wbit value 2 = false) : qpCtlWrite s fn value = qpConnect (ctlHeld s q value) q := by
  simp [qpCtlWrite, hsel, hconnect, hclose, hreset, ctlHeld]

/-- A write of TPE_QCTL with CLOSE alone closes a READY QP once its work is done. -/
theorem qpCtlWrite_close (hsel : selQp s fn = some q) (hconnect : wbit value 0 = false) (hclose : wbit value 1 = true)
    (hreset : wbit value 2 = false) (hready : (conn s q).st = 2) :
    qpCtlWrite s fn value = closeCheck (connMod (ctlHeld s q value) q (fun C => { C with closing := true })) q := by
  simp [qpCtlWrite, hsel, hconnect, hclose, hreset, hready, ctlHeld]

/-- A write of TPE_QCTL with RESET alone clears a QP in ERROR or HANDED_OVER. -/
theorem qpCtlWrite_reset (hsel : selQp s fn = some q) (hconnect : wbit value 0 = false) (hclose : wbit value 1 = false)
    (hreset : wbit value 2 = true) (hended : (conn s q).st = 4 ∨ (conn s q).st = 6) :
    qpCtlWrite s fn value = connClear (ctlHeld s q value) q := by
  simp [qpCtlWrite, hsel, hconnect, hclose, hreset, hended, ctlHeld]

/-- CONNECT in RESET starts the REQ exchange. -/
theorem qpConnect_sends (hreset : (conn s q).st = 0) (hroom : isFailover s q = false ∨ failoverQps s < 16383) (hhandle : handleOk s q = true)
    (hactive : (nbit (conn s q).ctl 3 && wbit (conn s q).cfg 51) = false) :
    qpConnect s q = sendReq (connMod s q (fun C => { C with st := 1 })) q := by
  have hgoes : ¬ ((conn s q).st ≠ 0 ∨ isFailover s q = true ∧ 16383 ≤ failoverQps s) := by
    rintro (hst | ⟨hfail, hfull⟩)
    · exact hst hreset
    · rcases hroom with hnot | hless
      · exact Bool.false_ne_true (hnot.symm.trans hfail)
      · omega
  unfold qpConnect
  dsimp only
  rw [if_neg hgoes, if_neg (by simp [hhandle]), if_neg (by simp [hactive])]

end

/-- Settles O20: each write of TPE_QCTL comes to one of its three steps, a configuration register is taken in RESET alone, and what ends with a
connection leaves its configuration. -/
theorem queuePairControl : Obligations.QueuePairControl := by
  refine ⟨fun fn value q s hup hsel hreset => ?_, fun fn off value q s hup hsel hstate => ?_, fun fn value q s hup hsel h0 h1 h2 => ?_,
    fun q s => qpConnect_sends, fun fn value q s hup hsel h0 h1 h2 hready => ?_, fun fn value q s hup hsel h0 h1 h2 hended => ?_,
    fun c s hst => if_pos hst, fun c s hst => if_pos hst, fun c s hst => if_pos hst,
    fun c s hchan hst hsend hrecv => if_pos ⟨hchan, hst, hsend, hrecv⟩⟩
  · refine ⟨_, _, _, execQpConfigWrite_up _ hup, execQpConfigWrite_up _ hup, execQpConfigWrite_up _ hup, ?_, ?_, ?_⟩
    · rw [qpConfigWrite_cfg hsel hreset, conn_connMod]
    · rw [qpConfigWrite_key hsel hreset, conn_connMod]
    · rw [qpConfigWrite_twin hsel hreset, conn_connMod]
  · refine ⟨_, execQpConfigWrite_up off hup, ?_⟩
    rw [qpConfigWrite_ignored off hsel hstate]
    exact ⟨rfl, rfl, rfl⟩
  · have hexec : execQpConnect fn value s = .next (qpCtlWrite (dropHeld s fn) fn value) := if_pos (by rw [hup, h0]; rfl)
    exact hexec.trans (congrArg _ (qpCtlWrite_connect hsel h0 h1 h2))
  · have hexec : execQpClose fn value s = .next (qpCtlWrite (dropHeld s fn) fn value) := if_pos (by rw [hup, h1]; rfl)
    exact ⟨_, hexec, qpCtlWrite_close hsel h0 h1 h2 hready⟩
  · have hexec : execQpReset fn value s = .next (qpCtlWrite (dropHeld s fn) fn value) := if_pos (by rw [hup, h2]; rfl)
    refine ⟨_, hexec, ?_⟩
    rw [qpCtlWrite_reset hsel h0 h1 h2 hended, conn_connClear, ctlHeld, conn_connMod, conn_dropHeld]

end Sys2Proof.Proofs
end

section
/-! PROOFS. The CONNECT exchange: what a REQ of the peer comes to. O21. -/
namespace Sys2Proof.Proofs
open Sys2Proof.Machine Sys2Proof.Safety Sys2Proof.Laws

/-! ### What control cells and demands leave of a connection (R208, R210, R215) -/

@[simp] theorem conn_sendClass0 (s : State) (d : Nat) (cell : Cell) (c : Nat) : conn (sendClass0 s d cell) c = conn s c :=
  conn_of_keeps (sendClass0_keeps s d cell (keeps_refl _ s) (sub_refl _)) (by decide) c

@[simp] theorem conn_sendCredit (s : State) (d kind count lifetime gseq backlog c : Nat) :
    conn (sendCredit s d kind count lifetime gseq backlog) c = conn s c := conn_sendClass0 s d _ c

/-- An entry that waits for credit is noted in its message. -/
theorem conn_noteCredit (s : State) (c : Nat) : ∃ w : SendMsg → Bool,
    conn (noteCredit s c) c = { conn s c with send := (conn s c).send.map (fun m => { m with credWait := w m }) } := by
  unfold noteCredit
  dsimp only
  split
  · exact ⟨(·.credWait), by simp⟩
  · refine ⟨_, (conn_foldl (fun t m => ?_) _ _).trans (conn_connMod _ _ _)⟩
    exact conn_bumpFn t _ _ c

/-- A look at the demand of a connection changes no more of it than which entries wait for credit and whether a DEMAND is out. -/
theorem conn_demandCheck (s : State) (c : Nat) : ∃ (w : SendMsg → Bool) (out : Bool), conn (demandCheck s c) c =
    { conn s c with send := (conn s c).send.map (fun m => { m with credWait := w m }), demandOut := out } := by
  obtain ⟨w, hnoted⟩ := conn_noteCredit s c
  have hout : ∀ out, conn (connMod (noteCredit s c) c (fun C => { C with demandOut := out })) c =
      { conn s c with send := (conn s c).send.map (fun m => { m with credWait := w m }), demandOut := out } := by
    intro out
    rw [conn_connMod, hnoted]
  unfold demandCheck
  dsimp only
  split
  · exact ⟨(·.credWait), (conn s c).demandOut, by simp⟩
  · split
    · split
      · exact ⟨w, (conn s c).demandOut, hnoted⟩
      · exact ⟨w, true, (conn_sendCredit _ _ _ _ _ _ _ _).trans (hout true)⟩
    · split
      · exact ⟨w, false, (conn_sendCredit _ _ _ _ _ _ _ _).trans (hout false)⟩
      · exact ⟨w, (conn s c).demandOut, hnoted⟩

/-- Where a connection stands in the CONNECT exchange: its state, and whether its peer has answered. -/
def standing (s : State) (c : Nat) : Nat × Bool := ((conn s c).st, (conn s c).gotPeer)

/-- A change of a connection that keeps both keeps its standing. -/
theorem standing_connMod {s : State} {c : Nat} {f : Conn → Conn} (hst : ∀ C, (f C).st = C.st) (hpeer : ∀ C, (f C).gotPeer = C.gotPeer) :
    standing (connMod s c f) c = standing s c := by
  rw [standing, conn_connMod, hst, hpeer, standing]

theorem standing_congr {s u : State} {c : Nat} (h : conn u c = conn s c) : standing u c = standing s c := by rw [standing, h, standing]

theorem standing_demandCheck (s : State) (c : Nat) : standing (demandCheck s c) c = standing s c := by
  obtain ⟨w, out, h⟩ := conn_demandCheck s c
  rw [standing, h, standing]

theorem standing_drawCsn (s : State) (c : Nat) : standing (drawCsn s c) c = standing s c := by
  unfold drawCsn
  split
  · rfl
  · exact standing_connMod (s := (draw s).2) (fun _ => rfl) (fun _ => rfl)

theorem standing_grantOut (s : State) (c gseq n : Nat) : standing (grantOut s c gseq n) c = standing s c :=
  standing_connMod (s := egressMod s _ _) (fun _ => rfl) (fun _ => rfl)

theorem standing_openingGrant (s : State) (c : Nat) : standing (openingGrant s c).1 c = standing s c := by
  have hcounted : ∀ (t : State) (g n : Nat), standing (if n = 0 then t else grantOut t c g n) c = standing t c := by
    intro t g n
    split
    · rfl
    · exact standing_grantOut t c g n
  unfold openingGrant
  dsimp only
  split
  · rfl
  · exact (hcounted _ _ _).trans (standing_connMod (fun _ => rfl) (fun _ => rfl))

theorem standing_sendConnect (s : State) (c kind status : Nat) (takeover : Bool) :
    standing (sendConnect s c kind status takeover) c = standing s c := by
  refine (standing_congr (conn_sendClass0 _ c _ c)).trans ?_
  split
  · exact standing_openingGrant s c
  · rfl

theorem standing_takeOpening (s : State) (c gseq count : Nat) : standing (takeOpening s c gseq count) c = standing s c := by
  have htaken : standing (takeGrant s c gseq count) c = standing s c := standing_connMod (fun _ => rfl) (fun _ => rfl)
  unfold takeOpening
  split
  · exact htaken
  · split
    · exact htaken
    · exact standing_congr (conn_bumpFn s _ _ c)

/-- The first answer of the peer makes a CONNECTING end READY. -/
theorem standing_acceptPeer_first {s : State} {c : Nat} (r : Connect) (ver : Nat) (hst : (conn s c).st = 1)
    (hfirst : (conn s c).gotPeer = false) : standing (acceptPeer s c r ver) c = (2, true) := by
  refine (standing_demandCheck _ c).trans ((standing_takeOpening _ c _ _).trans ?_)
  rw [standing, conn_connMod, hfirst, hst]
  rfl

/-- A later one changes neither. -/
theorem standing_acceptPeer_again {s : State} {c : Nat} (r : Connect) (ver : Nat) (hagain : (conn s c).gotPeer = true) :
    standing (acceptPeer s c r ver) c = standing s c := by
  refine (standing_demandCheck _ c).trans ((standing_takeOpening _ c _ _).trans ?_)
  rw [standing, conn_connMod, hagain]
  rfl

/-! ### A REQ that passes its checks (R173, R174) -/

section
variable {k : Packet} {c : Nat} {s : State}

/-- A REQ that passes its checks at a CONNECTING QP, whose first CSN is another than the peer's and can be drawn, is accepted and answered with
an ACC. -/
theorem connectReq_answers (hqp : k.chan = false) (hc : c = (readConnect k.cell.payload).dst)
    (hpasses : reqRefused s k (readConnect k.cell.payload) c = none) (hst : (conn s c).st = 1)
    (hother : (conn s c).drawn = true → (conn s c).initCsn ≠ (readConnect k.cell.payload).init) (hdrawn : (conn (drawCsn s c) c).drawn = true) :
    connectReq s k = sendConnect (acceptPeer (drawCsn s c) c (readConnect k.cell.payload)
      (agreeVersion (Nat.land (readConnect k.cell.payload).versions tpeVersions))) c 1 0 false := by
  have hnew : ((conn s c).drawn && decide ((conn s c).initCsn = (readConnect k.cell.payload).init) && !(conn s c).gotPeer) = false := by
    cases hd : (conn s c).drawn with
    | false => rfl
    | true => simp [hother hd]
  subst hc
  have hstandby : (conn s (readConnect k.cell.payload).dst).st ≠ 5 := by omega
  simp only [connectReq, hqp, Bool.false_eq_true, if_false, Bool.not_true, hpasses, hstandby, hnew, hdrawn]

/-- What O21 says of such a REQ holds of a QP whose peer has not been heard: one that has been heard has left CONNECTING (Table 7-2). -/
theorem connectReqReceive_connects (hrun : running s = true) (hqp : k.chan = false) (hc : c = (readConnect k.cell.payload).dst)
    (hpasses : reqRefused s k (readConnect k.cell.payload) c = none) (hst : (conn s c).st = 1) (hfirst : (conn s c).gotPeer = false)
    (hother : (conn s c).drawn = true → (conn s c).initCsn ≠ (readConnect k.cell.payload).init) (hdrawn : (conn (drawCsn s c) c).drawn = true) :
    ∃ u, exec (.connectReqReceive k) s = .next u ∧ standing u c = (2, true) := by
  have hexec : exec (.connectReqReceive k) s = .next (connectReq s k) := if_pos hrun
  rw [connectReq_answers hqp hc hpasses hst hother hdrawn] at hexec
  have hstanding : standing (drawCsn s c) c = (1, false) := by rw [standing_drawCsn, standing, hst, hfirst]
  obtain ⟨hst', hfirst'⟩ := Prod.mk.inj hstanding
  exact ⟨_, hexec, (standing_sendConnect _ c 1 0 false).trans (standing_acceptPeer_first _ _ hst' hfirst')⟩

end

/-- A card that runs, and whose QP 0 is CONNECTING although its peer has answered it before. -/
def answeredCard : State :=
  { State.reset with
    boot := { State.reset.boot with stage := .running }
    tpe := { conns := [(0, { st := 1, gotPeer := true, drawn := true, initCsn := 9 })] } }

/-- The REQ of that peer, whose first CSN is 0. -/
def reqOfPeer : Packet := { cell := { payload := connectPayload 0 tpeVersions 0 0 0 0 0 0 0 0 0 0 } }

/-- Refutes O21, in its clause on a REQ that is answered with an ACC: QP 0 of `answeredCard` takes its peer's REQ as a repeated one and stays
CONNECTING, and the clause wants it READY. The statement is of every state, also of one that is CONNECTING and answered;
`connectReqReceive_connects` says where the clause holds. -/
theorem not_connectionExchanges : ¬ Obligations.ConnectionExchanges := by
  rintro ⟨-, hreq, -⟩
  obtain ⟨-, hready, -⟩ := hreq reqOfPeer 0 answeredCard answeredCard _ (by decide) rfl (by decide) (by decide) (by decide) (by decide)
    rfl (by decide) rfl
  have hstays := (standing_sendConnect _ 0 1 0 false).trans (standing_acceptPeer_again (s := answeredCard) (c := 0)
    (readConnect reqOfPeer.cell.payload) (agreeVersion (Nat.land (readConnect reqOfPeer.cell.payload).versions tpeVersions)) rfl)
  exact absurd ((congrArg Prod.fst hstays).symm.trans hready) (by decide)

end Sys2Proof.Proofs
end

section
/-! PROOFS. The sending side: picks, source reads, retransmission, credit timeouts and acknowledgements. O22. -/
namespace Sys2Proof.Proofs
open Sys2Proof.Machine Sys2Proof.Safety Sys2Proof.Laws

/-! ### What a launched cell leaves of its connection (R195, R204) -/

@[simp] theorem conn_handOff (s : State) (d tenant cls : Nat) (cell : Cell) (c : Nat) : conn (handOff s d tenant cls cell) c = conn s c :=
  conn_of_keeps (handOff_keeps s d tenant cls cell (keeps_refl _ s) (sub_refl _)) (by decide) c

@[simp] theorem conn_charge (s : State) (e k len c : Nat) : conn (charge s e k len) c = conn s c := rfl

/-- Payload encryption is a matter of the configuration. -/
theorem encOn_congr {s u : State} {c : Nat} (h : (conn u c).cfg = (conn s c).cfg) : encOn u c = encOn s c := by rw [encOn, h, encOn]

/-- A connection after a cell or packet with its next CSN has gone. -/
def launched (C : Conn) (r : CsnRec) : Conn := { C with csn := (C.csn + 1) % 2 ^ 32, flight := C.flight ++ [r] }

/-- A launch takes a CSN and puts its record in flight; without encryption it does no more to the connection. -/
theorem conn_launch {s : State} {c : Nat} (m : SendMsg) (cell : Cell) (r : CsnRec) (retx : Bool) (henc : encOn s c = false) :
    conn (launch s c m cell r retx) c = launched (conn s c) r := by
  have hcounted : ∀ t : State, conn (if retx then bumpFn t Reg.TPE_RETX (connTenant t c) else t) c = conn t c := by
    intro t
    split
    · exact conn_bumpFn t _ _ c
    · rfl
  simp only [launch, csnWraps, henc, Bool.false_and, Bool.false_eq_true, if_false, conn_handOff, conn_charge]
  exact (hcounted _).trans (conn_connMod s c _)

/-- Rewriting an outgoing message rewrites the messages of its connection. -/
theorem conn_sendMod (s : State) (c msn : Nat) (resp : Bool) (f : SendMsg → SendMsg) : conn (sendMod s c msn resp f) c =
    { conn s c with send := mapIf (fun m => decide (m.msn = msn ∧ m.resp = resp)) f (conn s c).send } := conn_connMod s c _

/-! ### Source reads return (R106, R177) -/

section
variable {s : State} {c : Nat} {m : SendMsg} {x : Issued} {b : List Byte} {bus : Option (List Byte)}

/-- A returned read of a source whose records are there ends. -/
theorem execSourceReadComplete_ends {msn off : Nat} {resp : Bool} (hmsg : sendMsg s c msn resp = some m)
    (hread : m.reads.find? (fun x => x.key = off) = some x) (hthere : recordsThere s x.pieces = true)
    (hheld : m.held.any (fun d => d.1 = off) = false) :
    execSourceReadComplete (.cell c msn resp off) bus s = .next (sourceBytes (finishRead s (sourceSegs m).1 x bus).1 c
      { m with reads := m.reads.filter (fun y => y.key ≠ off) } x (finishRead s (sourceSegs m).1 x bus).2) := by
  simp only [execSourceReadComplete, hmsg]
  rw [hread]
  simp [hthere, hheld]

/-- The end of a read leaves connections alone. -/
theorem conn_finishRead {t : Nat} {u : State} {r : Rd} (hread : finishRead s t x bus = (u, r)) (c : Nat) : conn u c = conn s c := by
  have hkeeps := finishRead_keeps s t x bus (keeps_refl _ s) (sub_refl _)
  rw [hread] at hkeeps
  exact conn_of_keeps hkeeps (by decide) c

/-- The only message of a connection is the one of its number. -/
theorem sendMsg_single (hsend : (conn s c).send = [m]) : sendMsg s c m.msn m.resp = some m := by
  rw [sendMsg, hsend, List.find?_cons_of_pos (by simp)]

/-- A connection with one outgoing message, no response, has no response. -/
theorem sendMsg_resp_none (hsend : (conn s c).send = [m]) (hresp : m.resp = false) (msn : Nat) : sendMsg s c msn true = none := by
  rw [sendMsg, hsend, List.find?_cons_of_neg (by simp [hresp]), List.find?_nil]

/-- A message whose one read has returned has none left. -/
def readTaken (m : SendMsg) (x : Issued) : SendMsg := { m with reads := [], held := [], reReads := m.reReads.filter (· ≠ x.key) }

/-- The one cell in build of the only message of a connection goes out. -/
theorem conn_drainReads_single {y : Issued} (henc : encOn s c = false) (hsend : (conn s c).send = [m]) (hreads : m.reads = [y])
    (hheld : m.held = [(y.key, b, [])]) : conn (drainReads s c m.msn m.resp 1) c =
      launched { conn s c with send := [readTaken m y] } ⟨(conn s c).csn, m.msn, m.resp, false, y.key, s.time, unitsOf y.len⟩ := by
  have htaken : conn (sendMod s c m.msn m.resp (fun m => { m with
      reads := [], held := m.held.filter (fun z => z.1 ≠ y.key), reReads := m.reReads.filter (· ≠ y.key) })) c =
      { conn s c with send := [readTaken m y] } := by
    rw [conn_sendMod, hsend]
    simp [mapIf, hheld, readTaken]
  have henc' := (encOn_congr (by rw [htaken])).trans henc
  simp only [drainReads, sendMsg_single hsend, hreads, hheld, List.find?_cons, decide_true]
  rw [sendUnits, henc', Bool.false_and, if_neg Bool.false_ne_true]
  dsimp only
  rw [if_pos rfl, conn_launch _ _ _ _ henc', htaken]
  rfl

/-- The bytes of the one read of the only message are in: its cell goes out. -/
theorem conn_heldRead_single (henc : encOn s c = false) (hsend : (conn s c).send = [m]) (hresp : m.resp = false) (hreads : m.reads = [x])
    (hheld : m.held = []) : conn (heldRead s c { m with reads := [] } x b []) c =
      launched { conn s c with send := [readTaken m x] } ⟨(conn s c).csn, m.msn, false, false, x.key, s.time, unitsOf x.len⟩ := by
  have hput : conn (sendMod s c m.msn m.resp (fun m => { m with
      reads := mapIf (fun y => decide (y.key = x.key)) (fun y => { key := y.key, ctx := 2 ^ 16, len := y.len }) m.reads,
      held := m.held ++ [(x.key, b, [])] })) c =
      { conn s c with send := [{ m with reads := [{ key := x.key, ctx := 2 ^ 16, len := x.len }], held := [(x.key, b, [])] }] } := by
    rw [conn_sendMod, hsend]
    simp [mapIf, hreads, hheld]
  have hdrained := conn_drainReads_single (b := b) (y := { key := x.key, ctx := 2 ^ 16, len := x.len })
    ((encOn_congr (by rw [hput])).trans henc) (congrArg Conn.send hput) rfl rfl
  rw [hput] at hdrained
  have hnone := sendMsg_resp_none (congrArg Conn.send hdrained) hresp m.msn
  dsimp only [heldRead, List.length_nil]
  rw [respRead, hnone]
  exact hdrained.trans (by rw [← hresp]; rfl)

/-- The one read of the only message of a connection returns its bytes: its cell goes out with the next CSN. -/
theorem sourceReadComplete_sends {s1 : State} (hsend : (conn s c).send = [m]) (hresp : m.resp = false) (hreads : m.reads = [x])
    (hheld : m.held = []) (hthere : recordsThere s x.pieces = true) (henc : encOn s c = false)
    (hread : finishRead s (sourceSegs m).1 x bus = (s1, .ok b)) :
    ∃ u, exec (.sourceReadComplete (.cell c m.msn m.resp x.key) bus) s = .next u ∧ conn u c =
      launched { conn s c with send := [readTaken m x] } ⟨(conn s c).csn, m.msn, false, false, x.key, s1.time, unitsOf x.len⟩ := by
  have hleft : m.reads.filter (fun y => y.key ≠ x.key) = [] := by simp [hreads]
  have hends := execSourceReadComplete_ends (bus := bus) (off := x.key) (sendMsg_single hsend) (by simp [hreads]) hthere (by simp [hheld])
  rw [hread, hleft] at hends
  have hsame := conn_finishRead hread c
  have hgone := conn_heldRead_single (b := b) ((encOn_congr (congrArg Conn.cfg hsame)).trans henc) ((congrArg Conn.send hsame).trans hsend)
    hresp hreads hheld
  rw [hsame] at hgone
  exact ⟨_, hends, hgone⟩

end

/-! ### A pick (R166, R168, R216) -/

/-- `u` is `s` but for what a pick notes: virtual times and start tags, which connection a class served last, the contexts in the cache and
the slices. -/
structure Scheduled (s u : State) : Prop where
  state : u = { s with ccs := u.ccs, tpe := { s.tpe with cached := u.tpe.cached, slices := u.tpe.slices } }
  outstanding : ∀ p, (egress u p).outstanding = (egress s p).outstanding
  taken : ∀ p, (egress u p).taken = (egress s p).taken
  paused : ∀ p, (egress u p).paused = (egress s p).paused
  factor : ∀ p, (egress u p).factor = (egress s p).factor

namespace Scheduled
variable {s t u : State}

theorem refl (s : State) : Scheduled s s := ⟨rfl, fun _ => rfl, fun _ => rfl, fun _ => rfl, fun _ => rfl⟩

theorem trans (h : Scheduled s t) (g : Scheduled t u) : Scheduled s u where
  state := g.state.trans (by rw [h.state])
  outstanding p := (g.outstanding p).trans (h.outstanding p)
  taken p := (g.taken p).trans (h.taken p)
  paused p := (g.paused p).trans (h.paused p)
  factor p := (g.factor p).trans (h.factor p)

theorem conn (h : Scheduled s u) (c : Nat) : Machine.conn u c = Machine.conn s c := by rw [h.state]; rfl

theorem time (h : Scheduled s u) : u.time = s.time := by rw [h.state]

theorem reg (h : Scheduled s u) (off i : Nat) : Machine.reg u off i = Machine.reg s off i := by rw [h.state]; rfl

theorem connPath (h : Scheduled s u) (c : Nat) : Machine.connPath u c = Machine.connPath s c := by rw [h.state]; rfl

theorem encOn (h : Scheduled s u) (c : Nat) : Machine.encOn u c = Machine.encOn s c := by rw [h.state]; rfl

theorem noRoute (h : Scheduled s u) (c : Nat) : Machine.noRoute u c = Machine.noRoute s c := by rw [h.state]; rfl

theorem grantOk (h : Scheduled s u) (p n : Nat) : Machine.grantOk u p n = Machine.grantOk s p n := by
  have hroom : poolRoomFor u p = poolRoomFor s p := by simp only [poolRoomFor, poolSize, h.outstanding, h.reg]
  have hdepth : bucketDepth u p = bucketDepth s p := by simp only [bucketDepth, grantRate, quantum, h.factor, h.reg]
  rw [Machine.grantOk, grantRoom, hroom, hdepth, h.taken, h.paused, Machine.grantOk, grantRoom]

theorem impliedOk (h : Scheduled s u) (c : Nat) (m : SendMsg) : Machine.impliedOk u c m = Machine.impliedOk s c m := by
  rw [Machine.impliedOk, h.conn, h.connPath, h.grantOk, Machine.impliedOk]

/-- Rewriting a class. -/
theorem clsMod (s : State) (e k : Nat) (f : Machine.Class → Machine.Class) : Scheduled s (Machine.clsMod s e k f) :=
  ⟨rfl, fun _ => rfl, fun _ => rfl, fun _ => rfl, fun _ => rfl⟩

/-- The virtual time of an egress point moves. -/
theorem vtime (s : State) (e : Nat) (v : Frac) : Scheduled s (egressMod s e (fun E => { E with vtime := v })) := by
  have hpoint : ∀ p, egress (egressMod s e (fun E => { E with vtime := v })) p = egress s p ∨
      egress (egressMod s e (fun E => { E with vtime := v })) p = { egress s p with vtime := v } := by
    intro p
    by_cases hp : p = e
    · subst hp
      exact .inr (tget_tset_same _ _ _ _)
    · exact .inl (tget_tset_other _ _ _ hp)
  constructor
  case state => rfl
  all_goals
    intro p
    rcases hpoint p with h | h <;> rw [h]

/-- Contexts move in the cache, and slices are released. -/
theorem released (s : State) (cached : List Nat) (slices : List (Nat × Nat)) :
    Scheduled s { s with tpe := { s.tpe with cached := cached, slices := slices } } :=
  ⟨rfl, fun _ => rfl, fun _ => rfl, fun _ => rfl, fun _ => rfl⟩

theorem foldl {α : Type} {f : State → α → State} (hf : ∀ t x, Scheduled t (f t x)) (l : List α) (s : State) :
    Scheduled s (l.foldl f s) := by
  induction l generalizing s with
  | nil => exact refl s
  | cons x r ih => exact (hf s x).trans (ih (f s x))

/-- The look at the readiness of the classes before and after a pick. -/
theorem noteReady (s : State) (e : Nat) : Scheduled s (Machine.noteReady s e) := foldl (fun t k => clsMod t e k _) _ s

end Scheduled

/-- Class k of egress point e is picked: the start tag of a weighted class becomes the virtual time. -/
def classPicked (s : State) (e k : Nat) : State :=
  if 4 ≤ k then egressMod s e (fun E => { E with vtime := (cls s e k).start }) else s

theorem scheduled_classPicked (s : State) (e k : Nat) : Scheduled s (classPicked s e k) := by
  unfold classPicked
  split
  · exact .vtime s e _
  · exact .refl s

/-- A pick of a class leaves the transport alone. -/
theorem classPicked_tpe (s : State) (e k : Nat) : (classPicked (noteReady s e) e k).tpe = s.tpe := by
  have hready : (noteReady s e).tpe = s.tpe := (noteReady_keeps s e (keeps_refl _ s) (sub_refl _)).tpe (by decide)
  unfold classPicked
  split
  · exact (egressMod_tpe _ _ _).trans hready
  · exact hready

/-- A pick with one candidate serves it: round robin has no other choice. -/
theorem schedulerPick_single {s : State} {e k c : Nat} (hwait : (egress s e).waiting0 = []) (hclass : pickClass (noteReady s e) e = some k)
    (hone : candidates (classPicked (noteReady s e) e k) e k = [c]) (hraw : rawReady (classPicked (noteReady s e) e k) e k = false)
    (hbelow : c < 2 ^ 400) :
    schedulerPick s e = noteReady (pickConn (clsMod (classPicked (noteReady s e) e k) e k (fun K => { K with last := c })) c k) e := by
  have hrotate : ∀ last, rotate last [c] = some c := by
    intro last
    by_cases hlast : last < c <;> simp [rotate, hlast]
  have hturn : c ≠ rawTurn := by
    rw [rawTurn]
    exact Nat.ne_of_lt hbelow
  unfold schedulerPick
  rw [if_neg (by simp [hwait])]
  dsimp only
  rw [hclass]
  dsimp only
  rw [← classPicked, hone, hraw, if_neg Bool.false_ne_true, List.append_nil, hrotate]
  dsimp only
  rw [if_neg hturn]

/-- The slice of a connection in class k is the only one, and its context the last used. -/
def sliceReleased (s : State) (c k : Nat) : State :=
  { s with tpe := { s.tpe with cached := c :: s.tpe.cached.filter (· ≠ c), slices := [(c, k)] } }

/-- A connection whose context is in the cache is served at once while no slice is out. -/
theorem pickConn_serves {s : State} {c k : Nat} (hcached : s.tpe.cached.contains c = true) (hidle : s.tpe.slices = []) :
    pickConn s c k = demandCheck (serveSlice (sliceReleased s c k) c k 64 64) c := by
  have htouch : touchContext s c = { s with tpe := { s.tpe with cached := c :: s.tpe.cached.filter (· ≠ c) } } := if_pos hcached
  unfold pickConn
  rw [htouch]
  dsimp only
  rw [if_pos (by simp)]
  unfold releaseSlice
  dsimp only
  rw [hidle, List.any_nil, if_neg Bool.false_ne_true]
  rfl

/-! ### A head leaves (R178, R179) -/

section
variable {s : State} {c k : Nat} {m : SendMsg}

/-- A ready connection whose next work is a head sends it, where there is a route and room for its CSN and its implied grant. -/
theorem serveOne_head (hready : connReady (conn s c) k = true) (henc : encOn s c = false) (hroom : csnRoom (conn s c) = true)
    (hwork : nextWork (conn s c) k = some (m, .head)) (hroute : noRoute s c = false) (himplied : impliedOk s c m = true) :
    serveOne s c k = (sendHead (takeImplied s c m) c m false, 1) := by
  simp [serveOne, hready, keyWaits, henc, hroom, hwork, hroute, himplied]

/-- A connection that is not ready is not served. -/
theorem serveOne_idle (hidle : connReady (conn s c) k = false) : serveOne s c k = (s, 0) := by simp [serveOne, hidle]

/-- A slice ends when, after one unit, nothing is left to send. -/
theorem serveSlice_one {u : State} (hone : serveOne s c k = (u, 1)) (hidle : connReady (conn u c) k = false) :
    serveSlice s c k 64 64 = u := by
  rw [serveSlice, if_neg (by decide), hone]
  change serveSlice u c k 63 (64 - 1) = u
  rw [serveSlice, if_neg (by decide), serveOne_idle hidle]
  rfl

/-- Taking an implied grant changes no more of a connection than what it has granted. -/
theorem conn_takeImplied (s : State) (c : Nat) (m : SendMsg) :
    ∃ granted, conn (takeImplied s c m) c = { conn s c with granted := granted } := by
  unfold takeImplied
  dsimp only
  split
  · exact ⟨_, rfl⟩
  · exact ⟨_, conn_connMod _ _ _⟩

theorem takeImplied_time (s : State) (c : Nat) (m : SendMsg) : (takeImplied s c m).time = s.time := by
  unfold takeImplied
  dsimp only
  split <;> rfl

/-- A message whose head has just gone with a CSN. -/
def headGone (m : SendMsg) (csn : Nat) : SendMsg := { m with headSent := true, reHead := false, headCsn := csn }

/-- A message without data whose head has gone, and of which nothing is to be sent again, leaves its connection nothing to send. -/
theorem connReady_headGone {C : Conn} {csn : Nat} (hsend : C.send = [headGone m csn]) (hretx : m.retx = [])
    (hdata : dataUnits m = 0) : connReady C k = false := by
  have hdata' : dataUnits (headGone m csn) = 0 := hdata
  have hnone : workOf C (headGone m csn) = none := by
    unfold workOf
    rw [hdata']
    simp [headGone, hretx]
  simp [connReady, nextWork, hsend, hnone]

/-- The head of the only message of a connection goes out with the next CSN, for a unit of credit and its implied grant. -/
theorem conn_sendHead (henc : encOn s c = false) (hsend : (conn s c).send = [m]) (hresp : m.resp = false) : ∃ granted grants,
    conn (sendHead (takeImplied s c m) c m false) c =
      launched { conn s c with send := [headGone m (conn s c).csn], granted := granted, grants := grants }
        ⟨(conn s c).csn, m.msn, false, true, 0, s.time, 1⟩ := by
  obtain ⟨granted, htaken⟩ := conn_takeImplied s c m
  have henc' : ∀ u, (conn u c).cfg = (conn (takeImplied s c m) c).cfg → encOn u c = false := by
    intro u hu
    exact (encOn_congr (hu.trans (by rw [htaken]))).trans henc
  refine ⟨granted, spend (conn s c).grants 1, ?_⟩
  unfold sendHead
  dsimp only
  rw [conn_launch _ _ _ _ (henc' _ (by rw [conn_connMod, conn_sendMod])), conn_connMod, conn_sendMod, takeImplied_time, htaken, hresp]
  simp [hsend, mapIf, hresp, headGone]

end

/-- A pick whose one candidate has one message, which has no data and whose head is due, sends that head. -/
theorem schedulerPick_sendsHead {s : State} {e k c : Nat} {m : SendMsg} (hwait : (egress s e).waiting0 = [])
    (hclass : pickClass (noteReady s e) e = some k) (hone : candidates (classPicked (noteReady s e) e k) e k = [c])
    (hraw : rawReady (classPicked (noteReady s e) e k) e k = false) (hbelow : c < 2 ^ 400) (hcached : s.tpe.cached.contains c = true)
    (hidle : s.tpe.slices = []) (hsend : (conn s c).send = [m]) (hresp : m.resp = false) (hretx : m.retx = []) (hdata : dataUnits m = 0)
    (hready : connReady (conn s c) k = true) (henc : encOn s c = false) (hroom : csnRoom (conn s c) = true)
    (hwork : nextWork (conn s c) k = some (m, .head)) (hroute : noRoute s c = false) (himplied : impliedOk s c m = true) :
    ∃ w, (conn (schedulerPick s e) c).send = [{ headGone m (conn s c).csn with credWait := w }] ∧
      (conn (schedulerPick s e) c).csn = ((conn s c).csn + 1) % 2 ^ 32 ∧
      (conn (schedulerPick s e) c).flight = (conn s c).flight ++ [⟨(conn s c).csn, m.msn, false, true, 0, s.time, 1⟩] := by
  have hpicked := (Scheduled.noteReady s e).trans (scheduled_classPicked _ e k)
  have hserved := hpicked.trans (.clsMod _ e k (fun K => { K with last := c }))
  have htpe : (clsMod (classPicked (noteReady s e) e k) e k (fun K => { K with last := c })).tpe = s.tpe :=
    (clsMod_tpe _ _ _ _).trans (classPicked_tpe s e k)
  rw [schedulerPick_single hwait hclass hone hraw hbelow]
  generalize clsMod (classPicked (noteReady s e) e k) e k (fun K => { K with last := c }) = t at hserved htpe
  have hslice := hserved.trans (.released t (c :: t.tpe.cached.filter (· ≠ c)) [(c, k)])
  change Scheduled s (sliceReleased t c k) at hslice
  rw [pickConn_serves (by rw [htpe, hcached]) (by rw [htpe, hidle])]
  generalize sliceReleased t c k = v at hslice
  have hsame := hslice.conn c
  obtain ⟨granted, grants, hhead⟩ := conn_sendHead ((hslice.encOn c).trans henc) ((congrArg Conn.send hsame).trans hsend) hresp
  have hserve : serveSlice v c k 64 64 = sendHead (takeImplied v c m) c m false := by
    refine serveSlice_one (serveOne_head ?_ ((hslice.encOn c).trans henc) ?_ ?_ ((hslice.noRoute c).trans hroute)
      ((hslice.impliedOk c m).trans himplied)) (connReady_headGone (congrArg Conn.send hhead) hretx hdata)
    · rw [hsame, hready]
    · rw [hsame, hroom]
    · rw [hsame, hwork]
  obtain ⟨w, out, hdemand⟩ := conn_demandCheck (sendHead (takeImplied v c m) c m false) c
  rw [hserve, (Scheduled.noteReady _ e).conn, hdemand, hhead, hsame, hslice.time]
  exact ⟨w _, rfl, rfl, rfl⟩

/-! ### Retransmission, credit timeouts and acknowledgements (R187 to R191, R214) -/

section
variable {s : State} {c : Nat}

/-- Before any expiry has counted, one that is due and within the budget counts, and what was lost is sent again under the next rotation. -/
theorem execRtoExpiry_resends {csn : Nat} {r : CsnRec} (hflight : (conn s c).flight.find? (fun r => r.csn = csn) = some r)
    (hdue : r.at_ + rto s c ≤ s.time) (hfirst : (conn s c).expCsn = none) (hleft : (conn s c).retries + 1 < retryCnt s c) :
    execRtoExpiry c csn s = .next (demandCheck (resend (connMod (bumpFn s Reg.TPE_RTO_EXP (connTenant s c)) c (fun C =>
      { C with retries := C.retries + 1, rtoShift := C.rtoShift + 1, rotation := (C.rotation + 1) % 8, expCsn := some C.csn })) c r) c) := by
  simp only [execRtoExpiry, hflight, hfirst, Bool.not_true, Bool.false_eq_true, if_false]
  rw [if_neg (by omega), if_neg (by omega)]

/-- One that is due and beyond the budget spends it. -/
theorem execRtoExpiry_spends {csn : Nat} {r : CsnRec} (hflight : (conn s c).flight.find? (fun r => r.csn = csn) = some r)
    (hdue : r.at_ + rto s c ≤ s.time) (hfirst : (conn s c).expCsn = none) (hspent : retryCnt s c ≤ (conn s c).retries + 1) :
    execRtoExpiry c csn s = .next (budgetSpent (bumpFn s Reg.TPE_RTO_EXP (connTenant s c)) c) := by
  simp only [execRtoExpiry, hflight, hfirst, Bool.not_true, Bool.false_eq_true, if_false]
  rw [if_neg (by omega), if_pos hspent]

/-- Without credit, an entry whose head has not gone completes with CREDIT_TIMEOUT, and is counted. -/
theorem execCreditTimeout_before {msn : Nat} {m : SendMsg} (hmsg : sendMsg s c msn false = some m) (hnone : balance (conn s c) = 0)
    (hwait : m.rnrWait = false) (habort : m.opc ≠ 0x0F) (hhead : m.headSent = false) (hentry : ofEntry m = true) :
    execCreditTimeout c msn s = .next (abandonSend (bumpFn s Reg.CCS_CRED_TIMEOUT m.tenant) c m Status.creditTimeout) := by
  simp [execCreditTimeout, hmsg, hnone, hwait, habort, hhead, hentry]

/-- Without credit, a message whose head has gone and that has more to send spends the budget. -/
theorem execCreditTimeout_after {msn : Nat} {m : SendMsg} (hmsg : sendMsg s c msn false = some m) (hnone : balance (conn s c) = 0)
    (hwork : (workOf (conn s c) m).isSome = true) (hwait : m.rnrWait = false) (habort : m.opc ≠ 0x0F) (hhead : m.headSent = true) :
    execCreditTimeout c msn s = .next (budgetSpent s c) := by
  simp [execCreditTimeout, hmsg, hnone, hwork, hwait, habort, hhead]

/-- An acknowledgement that the peer of a READY QP sends over its path is taken. -/
theorem execAckReceive_ready {k : Packet} (hrun : running s = true) (hqp : k.chan = false) (hready : (conn s (packetConn k)).st = 2)
    (hnode : connNode s (packetConn k) = k.cell.snode) (hpath : connPath s (packetConn k) = k.port) :
    execAckReceive k s = .next (ackReceive s (packetConn k) (readAck k.cell.payload)) := by
  simp [execAckReceive, hrun, hqp, hready, hnode, hpath]

end

/-- Settles O22: the head that a pick sends and the cell that a returned read becomes take the next CSN; the other clauses are cases of the
commands they speak of. -/
theorem sendingAndAcknowledging : Obligations.SendingAndAcknowledging := by
  refine ⟨fun e s he hrun => if_pos ⟨he, hrun⟩, ?_, ?_, ?_, fun _ _ _ _ => rfl, ?_, ?_, fun _ _ => rfl, ?_, ?_, ?_,
    fun c s hsince hready => if_pos ⟨hsince, .inl hready⟩, fun _ _ _ _ => rfl⟩
  · intro e k c m s t t2 he hrun hwait ht hclass ht2 hone hraw hbelow hcached hidle hsend hresp hretx hdata hready henc hroom hwork hroute
      himplied
    subst ht ht2
    obtain ⟨w, hsend', hcsn, hflight⟩ := schedulerPick_sendsHead hwait hclass hone hraw hbelow hcached hidle hsend hresp hretx hdata hready
      henc hroom hwork hroute himplied
    have hmsg := sendMsg_single hsend'
    dsimp only [headGone] at hmsg
    rw [hresp] at hmsg
    exact ⟨_, _, if_pos ⟨he, hrun⟩, hmsg, rfl, hcsn, hflight⟩
  · intro c msn resp off bus m x s hmsg hread hthere hheld
    exact execSourceReadComplete_ends hmsg hread hthere hheld
  · intro c msn off bus m x s s1 b hsend hmsn hresp hreads hheld hkey hthere henc hread
    subst hmsn hkey
    obtain ⟨u, hu, hconn⟩ := sourceReadComplete_sends hsend hresp hreads hheld hthere henc hread
    rw [hresp] at hu
    refine ⟨u, readTaken m x, hu, ?_⟩
    rw [hconn]
    exact ⟨rfl, rfl, rfl, rfl, rfl, rfl⟩
  · intro c csn r s hflight hdue hfirst hleft
    exact execRtoExpiry_resends hflight hdue hfirst hleft
  · intro c csn r s hflight hdue hfirst hspent
    exact execRtoExpiry_spends hflight hdue hfirst hspent
  · intro c msn m s hmsg hnone hwait habort hhead hentry
    exact execCreditTimeout_before hmsg hnone hwait habort hhead hentry
  · intro c msn m s hmsg hnone hwork hwait habort hhead
    exact execCreditTimeout_after hmsg hnone hwork hwait habort hhead
  · intro k s hrun hqp hready hnode hpath
    exact execAckReceive_ready hrun hqp hready hnode hpath

end Sys2Proof.Proofs
end

section
/-! PROOFS. Credits and shaping: refills, the capacity factor, grants, demands and their timers. O24. -/
namespace Sys2Proof.Proofs
open Sys2Proof.Machine Sys2Proof.Safety Sys2Proof.Laws

/-! ### Egress points -/

/-- A rewritten egress point reads as rewritten. -/
@[simp] theorem egress_egressMod (s : State) (e : Nat) (f : Egress → Egress) : egress (egressMod s e f) e = f (egress s e) :=
  tget_tset_same _ _ _ _

/-- Rewriting an egress point leaves the others alone. -/
theorem egress_egressMod_other (s : State) {e p : Nat} (f : Egress → Egress) (h : p ≠ e) : egress (egressMod s e f) p = egress s p :=
  tget_tset_other _ _ _ h

/-- Egress points are part of the credits. -/
theorem egress_congr {s u : State} (h : u.ccs = s.ccs) (e : Nat) : egress u e = egress s e := by rw [egress, h, egress]

@[simp] theorem egress_connMod (s : State) (c e : Nat) (f : Conn → Conn) : egress (connMod s c f) e = egress s e := rfl

@[simp] theorem egress_clsMod (s : State) (e k p : Nat) (f : Machine.Class → Machine.Class) : egress (clsMod s e k f) p = egress s p := rfl

@[simp] theorem egress_bumpFnBy (s : State) (off fn n e : Nat) : egress (bumpFnBy s off fn n) e = egress s e := by
  unfold bumpFnBy
  split <;> rfl

@[simp] theorem conn_bumpFnBy (s : State) (off fn n c : Nat) : conn (bumpFnBy s off fn n) c = conn s c := by
  unfold bumpFnBy
  split <;> rfl

/-! ### Refills (R205, R218) -/

/-- The cells of class 0 that wait at an egress point. -/
def waiting0 (s : State) (e : Nat) : List (Nat × Cell) := (egress s e).waiting0

/-- What holds of the default and of every listed value holds of what a table reads as. -/
theorem tget_of_forall {α : Type} {d : Nat → α} {P : α → Prop} {t : Tbl α} {k : Nat} (hdefault : P (d k)) (hlisted : ∀ x ∈ t, P x.2) :
    P (tget d t k) := by
  induction t with
  | nil => exact hdefault
  | cons x r ih =>
    rw [List.forall_mem_cons] at hlisted
    rw [tget]
    split
    · exact hlisted.1
    · exact ih hlisted.2

/-- Where every listed egress point has no waiting cell, no egress point has one. -/
theorem waiting0_of_all {s : State} (h : s.ccs.egress.all (fun E => E.2.waiting0.isEmpty) = true) (e : Nat) : waiting0 s e = [] :=
  tget_of_forall (P := fun E => E.waiting0 = []) rfl fun x hx => List.isEmpty_iff.mp (List.all_eq_true.mp h x hx)

theorem waiting0_refillClass (s : State) (e k p : Nat) : waiting0 (refillClass s e k) p = waiting0 s p := by
  unfold refillClass
  dsimp only
  split
  · rfl
  · rw [waiting0, egress_clsMod, waiting0]

theorem waiting0_refillPath (s : State) (p q : Nat) : waiting0 (refillPath s p) q = waiting0 s q := by
  rw [waiting0, refillPath]
  by_cases h : q = p
  · rw [h, egress_egressMod, waiting0]
  · rw [egress_egressMod_other _ _ h, waiting0]

/-- A fold whose every step leaves the waiting cells alone leaves them alone. -/
theorem waiting0_foldl {α : Type} {f : State → α → State} {e : Nat} (hf : ∀ t x, waiting0 (f t x) e = waiting0 t e) (l : List α)
    (s : State) : waiting0 (l.foldl f s) e = waiting0 s e :=
  List.foldlRecOn l f (motive := fun t => waiting0 t e = waiting0 s e) rfl fun t ht x _ => (hf t x).trans ht

/-- The state once every class and every path has had its refill. -/
def refilled (s : State) : State :=
  (List.range 5).foldl refillPath ((List.range 320).foldl (fun s k => refillClass s (k / 64) (k % 64)) s)

theorem waiting0_refilled (s : State) (e : Nat) : waiting0 (refilled s) e = waiting0 s e :=
  (waiting0_foldl (fun t p => waiting0_refillPath t p e) _ _).trans (waiting0_foldl (fun t _ => waiting0_refillClass t _ _ e) _ s)

/-- Nothing goes out at egress points where nothing waits. -/
theorem foldl_drainClass0_idle {s : State} (h : ∀ e, waiting0 s e = []) (l : List Nat) :
    l.foldl (fun s e => drainClass0 s e (egress s e).waiting0.length) s = s :=
  List.foldlRecOn l _ (motive := fun t => t = s) rfl fun t ht e _ => by
    have hidle : (egress s e).waiting0 = [] := h e
    rw [ht, hidle]
    rfl

/-- With no waiting cells a refill is all that the command does. -/
theorem execShaperRefill_idle {s : State} (h : ∀ e, waiting0 s e = []) : execShaperRefill s = .next (refilled s) :=
  congrArg Host.Outcome.next (foldl_drainClass0_idle (fun e => (waiting0_refilled s e).trans (h e)) _)

/-! ### The capacity factor (R222) -/

/-- f of R222, per mille, for what is admitted and what there is now. -/
def factorOf (s : State) (e : Nat) : Nat :=
  if eadmit s e = 0 then 1000 else min 1000 (1000 * admitPct s e * ecapOf s e / (100 * eadmit s e))

/-- A factor that changes and degrades no tenant is applied, and nothing else. -/
theorem execCapacityFactorApply_untold {s : State} {e : Nat} (he : e < 5) (hnew : factorOf s e ≠ (egress s e).factor)
    (hnone : degradedTenants s e = []) :
    execCapacityFactorApply e s = .next (egressMod s e (fun E => { E with factor := factorOf s e })) := by
  rw [execCapacityFactorApply, if_neg (by omega)]
  refine (if_neg hnew).trans ?_
  rw [hnone]
  rfl

/-! ### The sender's credit (R207, R208) -/

section
variable {s : State} {c count gseq l : Nat}

/-- A grant whose GSEQ is above the last one is taken; one with LIFETIME 0 expires at once. -/
theorem execCreditGrantReceive_fresh (life : Nat) (hlive : live s c = true) (hlast : (conn s c).lastGseq = some l)
    (habove : serialAbove gseq l = true) : execCreditGrantReceive c count life gseq s =
      .next (if life = 0 then expireGrant (takeGrant s c gseq count) c gseq else demandCheck (takeGrant s c gseq count) c) := by
  simp [execCreditGrantReceive, hlive, hlast, habove]

/-- A grant whose GSEQ is not above the last one is counted as stale. -/
theorem execCreditGrantReceive_stale (life : Nat) (hlive : live s c = true) (hlast : (conn s c).lastGseq = some l)
    (hbelow : serialAbove gseq l = false) :
    execCreditGrantReceive c count life gseq s = .next (bumpFn s Reg.CCS_GRANT_STALE (connTenant s c)) := by
  simp [execCreditGrantReceive, hlive, hlast, hbelow]

/-- A grant that is held is withdrawn as it expires, and what is left of it is counted. -/
theorem expireGrant_held {g : Held} (hheld : (conn s c).grants.find? (fun g => g.gseq = gseq) = some g) : expireGrant s c gseq =
    demandCheck (connMod (bumpFnBy s Reg.CCS_GRANT_EXPIRED (connTenant s c) g.left) c (fun C =>
      { C with grants := C.grants.filter (fun x => x.gseq ≠ gseq) })) c := by
  rw [expireGrant, hheld]

/-! ### The receiver's grants (R205, R208, R209, R212) -/

/-- The first demand of a connection joins a list that has room. -/
theorem execCreditDemandReceive_joins {backlog : Nat} (hlive : live s c = true)
    (hfirst : (egress s (connPath s c)).demand.any (fun d => d.1 = c) = false) (hsome : backlog ≠ 0)
    (hroom : s.ccs.egress.foldl (fun n e => n + e.2.demand.length) 0 < 131072) : execCreditDemandReceive c backlog s =
      .next (egressMod s (connPath s c) (fun E => { E with demand := E.demand ++ [(c, backlog)] })) := by
  rw [execCreditDemandReceive, hlive]
  dsimp only
  rw [hfirst, if_neg (by decide), if_neg (by decide), if_neg hsome, if_neg (by omega)]

/-- A grant that the path has room for goes out. -/
theorem tryGrant_ok {p n : Nat} (after : Egress → Egress) (hsome : n ≠ 0) (hok : grantOk s p n = true) :
    tryGrant s p c n after = sendGrant (egressMod s p after) c n := by
  rw [grantOk, Bool.and_eq_true, Bool.not_eq_true'] at hok
  obtain ⟨hroom, hgoing⟩ := hok
  simp [tryGrant, hsome, hgoing, hroom]

/-- What a path offers to its one demand, of b units: its turn is all that it asks for, and the offer stays within the cap. -/
def offer (s : State) (p b : Nat) : Nat := min (min b b) (min (grantCap s p) 65535)

/-- With one sender on the list, and no committed rate due, the grant of a path is its offer to that sender. -/
theorem execGrantIssue_alone {p b : Nat} (halone : (egress s p).demand = [(c, b)])
    (hrate : tget (fun _ => 0) (egress s p).gmin c < 10000000) : execGrantIssue p s =
      .next (tryGrant s p c (offer s p b) (fun E => afterGrant E c (offer s p b) (b - offer s p b))) := by
  have hnotdue : ¬ 10000000 ≤ tget (fun _ => 0) (egress s p).gmin c := by omega
  simp only [execGrantIssue, halone, List.find?_cons, List.find?_nil, hnotdue, decide_false, if_true, offer]

/-- A grant that is reclaimed leaves its connection's list, and its rest leaves OUTSTANDING. -/
theorem execGrantReclaimTimer_reclaims {g : Held} (hgiven : (conn s c).granted.find? (fun g => g.gseq = gseq) = some g) :
    ∃ u, execGrantReclaimTimer c gseq s = .next u ∧ (conn u c).granted = (conn s c).granted.filter (fun x => x.gseq ≠ gseq) ∧
      (egress u (connPath s c)).outstanding = (egress s (connPath s c)).outstanding - g.left := by
  rw [execGrantReclaimTimer, hgiven]
  refine ⟨_, rfl, ?_, ?_⟩
  · rw [conn_connMod, conn_bumpFnBy, conn_egressMod]
  · rw [egress_connMod, egress_bumpFnBy, egress_egressMod]

end

/-- Settles O24: a refill sends nothing where nothing waits, and each other clause is a case of the command it speaks of. -/
theorem creditsAndShaping : Obligations.CreditsAndShaping := by
  refine ⟨?_, ?_, ?_, ?_, ?_, ?_, ?_, ?_, ?_, ?_, ?_⟩
  · intro s hidle
    exact execShaperRefill_idle (waiting0_of_all hidle)
  · rintro s t rfl
    rfl
  · rintro e f s he rfl hnew hnone
    refine ⟨_, execCapacityFactorApply_untold he hnew hnone, ?_, egressMod_regs _ _ _⟩
    rw [egress_egressMod]
    rfl
  · intro c count life gseq l s hlive hlife hlast habove
    exact (execCreditGrantReceive_fresh life hlive hlast habove).trans (by rw [if_neg hlife])
  · intro c count gseq l s hlive hlast habove
    exact execCreditGrantReceive_fresh 0 hlive hlast habove
  · intro c count life gseq l s hlive hlast hbelow
    exact execCreditGrantReceive_stale life hlive hlast hbelow
  · intro c gseq g s hheld
    exact congrArg Host.Outcome.next (expireGrant_held hheld)
  · intro c s hout hneed
    exact if_pos ⟨hout, hneed⟩
  · intro c backlog s hlive hfirst hsome hroom
    exact execCreditDemandReceive_joins hlive hfirst hsome hroom
  · intro p c b s halone hrate hsome hok
    exact (execGrantIssue_alone halone hrate).trans (congrArg Host.Outcome.next (tryGrant_ok _ hsome hok))
  · intro c gseq g s hgiven
    exact execGrantReclaimTimer_reclaims hgiven

end Sys2Proof.Proofs
end

section
/-! PROOFS. The distance in a dimension, the minimal directions of a route, and the hops that remain. O59. -/
namespace Sys2Proof.Proofs
open Sys2Proof.Machine

/-! ### Distance in a dimension (R227) -/

section
variable {s : State} {node i : Nat}

/-- The distance is below the size of its dimension; with FRT_DIM 0 it is 0. -/
theorem ahead_lt (s : State) (node i : Nat) : ahead s node i < max 1 (dimSize s i) := Nat.mod_lt _ (by omega)

/-- The distance is the difference of the coordinates, modulo the size of the dimension. -/
theorem ahead_eq_emod (hown : coord (ownNode s) i < dimSize s i) :
    ahead s node i = ((coord node i : Int) - coord (ownNode s) i).emod (dimSize s i) := by
  have hsize : max 1 (dimSize s i) = dimSize s i := by omega
  have hdiff : ((coord node i + dimSize s i - coord (ownNode s) i : Nat) : Int) =
      (coord node i : Int) - coord (ownNode s) i + dimSize s i := by omega
  rw [ahead, hsize, Nat.mod_eq_of_lt hown, Int.natCast_emod, hdiff, Int.add_emod_right]
  rfl

/-! ### Minimal directions (R233) -/

/-- Where the distance is 0 the dimension is done. -/
theorem minimalOf_done (h : ahead s node i = 0) : minimalOf s node i = [] := if_pos h

/-- Below half of the ring the + direction is the shorter one. -/
theorem minimalOf_plus (hgo : 0 < ahead s node i) (hnear : 2 * ahead s node i < dimSize s i) :
    minimalOf s node i = [4 * i, 4 * i + 1] := (if_neg (by omega)).trans (if_pos hnear)

/-- Above half of the ring the - direction is the shorter one. -/
theorem minimalOf_minus (hgo : 0 < ahead s node i) (hfar : dimSize s i < 2 * ahead s node i) :
    minimalOf s node i = [4 * i + 2, 4 * i + 3] :=
  (if_neg (by omega)).trans ((if_neg (by omega)).trans (if_pos hfar))

/-- Half way round the ring both directions are minimal. -/
theorem minimalOf_both (hgo : ahead s node i ≠ 0) (hhalf : 2 * ahead s node i = dimSize s i) :
    minimalOf s node i = [4 * i, 4 * i + 1, 4 * i + 2, 4 * i + 3] :=
  (if_neg hgo).trans ((if_neg (by omega)).trans (if_neg (by omega)))

/-- Up to half of the ring, the hops are the distance. -/
theorem hopsLeft_near (h : 2 * ahead s node i ≤ dimSize s i) : hopsLeft s node i = ahead s node i := Nat.min_eq_left (by omega)

/-- Beyond half of the ring, the hops are what the distance leaves of the ring. -/
theorem hopsLeft_far (h : dimSize s i < 2 * ahead s node i) : hopsLeft s node i = dimSize s i - ahead s node i :=
  Nat.min_eq_right (by omega)

/-- No way along a ring is longer than half of it. -/
theorem hopsLeft_le_half (s : State) (node i : Nat) : hopsLeft s node i ≤ dimSize s i / 2 := by
  have hlt := ahead_lt s node i
  rw [hopsLeft]
  omega

end

/-- Settles O59: the four cases compare twice the distance with the size of the ring, and no dimension takes more than half of its ring. -/
theorem routeDirections : Obligations.RouteDirections := by
  refine ⟨fun s node i _ hown => ⟨ahead_eq_emod hown, ?_, ?_, ?_, ?_⟩, ?_, by decide⟩
  · intro hdone
    exact ⟨minimalOf_done hdone, (hopsLeft_near (by omega)).trans hdone⟩
  · intro hgo hnear
    exact ⟨minimalOf_plus hgo hnear, hopsLeft_near (by omega)⟩
  · intro hfar
    exact ⟨minimalOf_minus (by omega) hfar, hopsLeft_far hfar⟩
  · intro hgo hhalf
    exact ⟨minimalOf_both hgo hhalf, hopsLeft_near (by omega)⟩
  · intro s node n hx hy hz
    have h0 := hopsLeft_le_half s node 0
    have h1 := hopsLeft_le_half s node 1
    have h2 := hopsLeft_le_half s node 2
    rw [hx] at h0
    rw [hy] at h1
    rw [hz] at h2
    omega

end Sys2Proof.Proofs
end

section
/-! PROOFS. The router: what a rewritten link reads as, how a cell passes, leaves and is injected, and the notices a router has seen. O25. -/
namespace Sys2Proof.Proofs
open Sys2Proof.Machine Sys2Proof.Laws

/-- A rewritten link reads as rewritten. -/
@[simp] theorem link_linkMod (s : State) (l : Nat) (f : Link → Link) : link (linkMod s l f) l = f (link s l) := tget_tset_same _ _ _ _

/-! ### A cell passes the router (R231, R235, R238, R244) -/

/-- The check of a tail counts, and leaves the stage of the boot alone. -/
@[simp] theorem running_tailCheck (s : State) (l : Nat) (c : Cell) : running (tailCheck s l c).1 = running s := by
  unfold tailCheck
  split
  · rfl
  · split <;> rfl

section
variable {s : State} {l : Nat} {c : Cell}

/-- On a RUNNING device a cell for this node goes to the eject port. -/
theorem ejectArrival_running (hrun : running s = true) : ejectArrival s l c = ejectCell s l c :=
  if_neg (by simp [hrun])

/-- A header that R231 refuses is counted, and the cell goes no further. -/
theorem execRouterPass_badHeader (hup : isUp s l = true) (hbad : headerBad s l c = true) :
    execRouterPass l c s = .next (bump (bump s Reg.FRT_LCNT_RX l) Reg.FRT_BAD_HDR 0) := by
  simp [execRouterPass, hup, hbad]

/-- A unicast packet cell for this node is ejected when its tail is good. -/
theorem execRouterPass_ejects (hrun : running s = true) (hup : isUp s l = true) (hgood : headerBad s l c = false) (htyp : c.typ = 1)
    (hone : c.mc = false) (hown : c.dnode = ownNode s) (htail : (tailCheck (bump s Reg.FRT_LCNT_RX l) l c).2.stomp = false) :
    execRouterPass l c s = .next (ejectCell (tailCheck (bump s Reg.FRT_LCNT_RX l) l c).1 l c) := by
  have hstill : running (tailCheck (bump s Reg.FRT_LCNT_RX l) l c).1 = true := (running_tailCheck _ l c).trans hrun
  simp [execRouterPass, hup, hgood, htyp, hone, hown, htail, ejectArrival_running hstill]

/-- A unicast packet cell for another node that is reachable, with hops left, is routed on with the verdict on its tail. -/
theorem execRouterPass_routes (hup : isUp s l = true) (hgood : headerBad s l c = false) (htyp : c.typ = 1) (hone : c.mc = false)
    (hother : c.dnode ≠ ownNode s) (hhops : c.hops ≠ 0) (hreach : unreachable s c.dnode = false) : execRouterPass l c s =
      .next (routeCell (tailCheck (bump s Reg.FRT_LCNT_RX l) l c).1 (some l) (tailCheck (bump s Reg.FRT_LCNT_RX l) l c).2) := by
  simp [execRouterPass, hup, hgood, htyp, hone, hother, hhops, hreach]

/-- A slot sends the oldest staged cell, with the VER of the link and HOPS one higher; waiting copies take its place. -/
theorem execCellSlot_sends {rest : List Cell} (hup : isUp s l = true) (hstaged : (link s l).staging = c :: rest) :
    execCellSlot l false s = .next (serveHold (emit (bump (linkMod s l (fun L => { L with staging := rest })) Reg.FRT_LCNT_TX l)
      (.cell l (rewriteCell c (link s l).ver ((c.hops + 1) % 64) c.defl))) l 4) := by
  simp [execCellSlot, hup, hstaged]

/-- The oldest waiting copy is dropped at its timeout, and counted. -/
theorem execMcHoldTimeout_drops {x : HeldCopy} {r : List HeldCopy} (hfirst : s.frt.hold = x :: r) :
    execMcHoldTimeout s = .next (bump { s with frt := { s.frt with hold := r } } Reg.FRT_MC_HOLD_DROP 0) := by
  simp only [execMcHoldTimeout, hfirst]

end

/-! ### Injection (R237, R238) -/

section
variable {s : State} {x : Inject} {r : List Inject}

/-- An injected cell for this node is ejected. -/
theorem execCellInject_ejects (hfirst : s.frt.inject = x :: r) (hone : x.cell.mc = false) (hown : x.cell.dnode = ownNode s) :
    execCellInject s = .next (ejectCell { s with frt := { s.frt with inject := r } } 15 x.cell) := by
  simp [execCellInject, hfirst, hone, hown]

/-- An injected cell for another node takes the output that is free for it. -/
theorem execCellInject_stages {l : Nat} (hfirst : s.frt.inject = x :: r) (hone : x.cell.mc = false) (hother : x.cell.dnode ≠ ownNode s)
    (hreach : unreachable s x.cell.dnode = false) (hout : injectOutput s x.cell.dnode = some l) :
    execCellInject s = .next (stageCell { s with frt := { s.frt with inject := r } } l x.cell) := by
  simp [execCellInject, hfirst, hone, hother, hreach, hout]

end

/-! ### The eject port (R238) -/

section
variable {s : State} {l : Nat} {c : Cell} {r : List (Nat × Cell)}

/-- An ejected packet cell is handed to the transport, as a packet of the operand's channel (log 13). -/
theorem execCellEject_packet (chan : Bool) (hfirst : s.frt.eject = (l, c) :: r) (htyp : c.typ = 1) : execCellEject chan s = .next
    { s with frt := { s.frt with eject := r }, atu := { s.atu with ready := s.atu.ready ++ [.packet { chan := chan, cell := c }] } } := by
  simp only [execCellEject, hfirst, htyp]

/-- An ejected management cell leaves the block. -/
theorem execCellEject_mgmt (chan : Bool) (hfirst : s.frt.eject = (l, c) :: r) (htyp : c.typ = 3) :
    execCellEject chan s = .next (emit { s with frt := { s.frt with eject := r } } (.mgmt c)) := by
  simp only [execCellEject, hfirst, htyp]

end

/-! ### Notices (R251, R253) -/

/-- With no notice from the lower end of a change that is owed one, this end sends its own. -/
theorem execNoticeFallbackTimer_sends {s : State} {k : Nat} {e : LinkEvent} {r : List LinkEvent}
    (howed : takeFirst (fun e : LinkEvent => decide (e.hi = ownNode s ∧ e.hiConn = k)) s.frt.owed = some (e, r)) :
    execNoticeFallbackTimer k s = .next (sendNotice { s with frt := { s.frt with owed := r } }
      (noticeBits e.kind (ownNode s) e.lo k e.loConn (liveLinks s k) (link s (2 * k)).reason ((s.frt.nseq + 1) % 65536) e.at_)
      ((s.frt.nseq + 1) % 65536)) := by
  simp only [execNoticeFallbackTimer, howed]

/-! ### Notices that were seen (R253) -/

/-- The (ORIGIN, NSEQ) of a notice cell (Table 9-8). -/
def noticeKey (c : Cell) : Nat × Nat := (nfld (beNat (c.payload.take 32)) 247 236, nfld (beNat (c.payload.take 32)) 207 192)

/-- A notice that was seen is counted and goes no further. -/
theorem noticeTake_again {s : State} (l : Nat) {c : Cell} (hseen : s.frt.seen.contains (noticeKey c) = true) :
    noticeTake s l c = bump s Reg.FRT_NOTICE_DUP 0 := if_pos hseen

theorem frt_linkRecord (s : State) (code sev inst bits : Nat) : (linkRecord s code sev inst bits).frt = s.frt :=
  (linkRecord_keeps s code sev inst bits (keeps_refl _ s) (sub_refl _)).frt (by decide)

/-- Work that is made ready is no part of the router. -/
theorem frt_of_ready (s : State) (r : List Waiter) : ({ s with atu := { s.atu with ready := r } } : State).frt = s.frt := rfl

@[simp] theorem seen_suppressNode (s : State) (node : Nat) : (suppressNode s node).frt.seen = s.frt.seen :=
  congrArg Frt.seen ((suppressNode_keeps s node (keeps_refl _ s) (sub_refl _)).frt (by decide))

/-- A state whose cut table has the mark of one connector set or cleared. -/
def cutMark (s : State) (node k : Nat) (on : Bool) : State :=
  { s with frt := { s.frt with cut := tmod (fun _ => 0) s.frt.cut node (fun v =>
    if on then v ||| BitVec.ofNat 6 (2 ^ k) else v &&& ~~~BitVec.ofNat 6 (2 ^ k)) } }

/-- What follows a mark: a node that it has made unreachable, or reachable again, has its record. -/
def cutReport (s marked : State) (node bits : Nat) : State :=
  if unreachable s node = unreachable marked node then marked
  else if unreachable marked node then
    let told := linkRecord marked 3 2 node bits
    { told with atu := { told.atu with ready := told.atu.ready ++ [.nodeGone node] } }
  else linkRecord marked 4 0 node bits

theorem cutSet_eq (s : State) (node k : Nat) (on : Bool) (bits : Nat) :
    cutSet s node k on bits = cutReport s (cutMark s node k on) node bits := by
  rw [cutSet, cutReport, cutMark]

theorem frt_cutReport (s marked : State) (node bits : Nat) : (cutReport s marked node bits).frt = marked.frt := by
  unfold cutReport
  split
  · rfl
  · split
    · exact (frt_of_ready _ _).trans (frt_linkRecord marked 3 2 node bits)
    · exact frt_linkRecord marked 4 0 node bits

@[simp] theorem seen_cutSet (s : State) (node k : Nat) (on : Bool) (bits : Nat) : (cutSet s node k on bits).frt.seen = s.frt.seen := by
  rw [cutSet_eq, frt_cutReport, cutMark]

@[simp] theorem seen_placeCopy (s : State) (l : Nat) (c : Cell) : (placeCopy s l c).frt.seen = s.frt.seen := by
  unfold placeCopy
  split
  · rfl
  · split <;> rfl

@[simp] theorem seen_floodNotice (s : State) (c : Cell) (but : Nat) : (floodNotice s c but).frt.seen = s.frt.seen :=
  List.foldlRecOn _ _ (motive := fun t => t.frt.seen = s.frt.seen) rfl fun t ht l _ => (seen_placeCopy t l c).trans ht

/-- A new notice joins those seen, of which the last 256 are remembered; nothing else that it leads to touches them. -/
theorem seen_noticeTake {s : State} (l : Nat) {c : Cell} (hnew : s.frt.seen.contains (noticeKey c) = false) :
    (noticeTake s l c).frt.seen = (noticeKey c :: s.frt.seen).take 256 := by
  unfold noticeTake
  extract_lets b origin peer oconn pconn kind nseq event flooded frt awaited cuts frt' noted
  have hflooded : flooded.frt.seen = (noticeKey c :: s.frt.seen).take 256 := seen_floodNotice _ c l
  have hcuts : cuts.frt.seen = flooded.frt.seen := by
    unfold cuts
    split
    · exact (seen_cutSet _ _ _ _ _).trans (seen_cutSet awaited _ _ _ _)
    · split
      · exact (seen_cutSet _ _ _ _ _).trans (seen_cutSet awaited _ _ _ _)
      · rfl
  have hfirst : ¬ s.frt.seen.contains (origin, nseq) = true := Bool.eq_false_iff.mp hnew
  rw [if_neg hfirst, ← hflooded, ← hcuts]
  split
  · rfl
  · exact (seen_suppressNode _ _).trans (seen_suppressNode noted _)

/-- Settles O25: each clause is the case of its command that its hypotheses name; a new notice changes what was seen only where it joins. -/
theorem routerCells : Obligations.RouterCells := by
  refine ⟨?_, ?_, ?_, ?_, ?_, ?_, ?_, ?_, ?_, ?_, ?_, ?_, ?_⟩
  · intro l c s hrun hup hgood htyp hone hown htail
    exact execRouterPass_ejects hrun hup hgood htyp hone hown htail
  · intro l c s _ hup hgood htyp hone hother hhops hreach
    exact execRouterPass_routes hup hgood htyp hone hother hhops hreach
  · intro l c s _ hup hbad
    exact execRouterPass_badHeader hup hbad
  · intro l c rest s hup hstaged
    rw [link_linkMod]
    exact execCellSlot_sends hup hstaged
  · intro x r s hfirst
    exact execMcHoldTimeout_drops hfirst
  · intro x r s hfirst hone hown
    exact execCellInject_ejects hfirst hone hown
  · intro x r l s hfirst hone hother hreach hout
    exact execCellInject_stages hfirst hone hother hreach hout
  · intro k e r s howed
    exact execNoticeFallbackTimer_sends howed
  · intro l c s _ htyp
    exact if_pos htyp
  · rintro l c s _ o q _ htyp rfl rfl rfl hseen
    exact (if_pos htyp).trans (congrArg _ (noticeTake_again l hseen))
  · rintro l c s _ o q _ htyp rfl rfl rfl hnew
    exact ⟨_, if_pos htyp, seen_noticeTake l hnew⟩
  · intro chan l c r s hfirst htyp
    exact execCellEject_packet chan hfirst htyp
  · intro chan l c r s hfirst htyp
    exact execCellEject_mgmt chan hfirst htyp

end Sys2Proof.Proofs
end

section
/-! PROOFS. The states of a fabric link. O26. -/
namespace Sys2Proof.Proofs
open Sys2Proof.Machine Sys2Proof.Laws

/-! ### What outputs and held halves of writes leave of a link -/

@[simp] theorem link_emit (s : State) (o : Output) (l : Nat) : link (emit s o) l = link s l := rfl

@[simp] theorem link_dropHeld (s : State) (f l : Nat) : link (dropHeld s f) l = link s l := rfl

@[simp] theorem isUp_dropHeld (s : State) (f l : Nat) : isUp (dropHeld s f) l = isUp s l := rfl

@[simp] theorem running_dropHeld (s : State) (f : Nat) : running (dropHeld s f) = running s := rfl

section
variable {s : State} {l : Nat}

/-! ### Software's commands (Table 9-7) -/

/-- A RUNNING device takes the commands of its twelve links. -/
theorem linkCommand_taken (hrun : running s = true) (hl : l < 12) : ¬ (!running (dropHeld s 0) || decide (12 ≤ l)) = true := by
  rw [running_dropHeld, hrun, decide_eq_false (Nat.not_le.mpr hl)]
  decide

/-- An OFF link of a dimension in use trains as it is enabled. -/
theorem execLinkEnable_trains (hrun : running s = true) (hl : l < 12) (hoff : (link s l).st = 0) (hused : linkUsed s l = true) :
    execLinkEnable l s = .next (trainStart (linkMod (dropHeld s 0) l (fun L => { L with disable := false })) l) := by
  have htrain : ((link (dropHeld s 0) l).st = 0 && linkUsed (dropHeld s 0) l) = true := by
    rw [link_dropHeld, hoff]
    exact hused
  exact (if_neg (linkCommand_taken hrun hl)).trans (congrArg Host.Outcome.next (if_pos htrain))

/-- An UP link goes dead with reason DISABLED as it is disabled. -/
theorem execLinkDisable_up (hrun : running s = true) (hl : l < 12) (hup : isUp s l = true) :
    execLinkDisable l s = .next (linkDead (linkMod (dropHeld s 0) l (fun L => { L with disable := true })) l 5 true) := by
  exact (if_neg (linkCommand_taken hrun hl)).trans (if_pos hup)

/-! ### Training (R245, R246) -/

/-- An identity block that passes brings the link UP, at the highest version both ends know. -/
theorem execTrainingWordReceive_up {b : LinkId} (failed : List Nat) (htrain : (link s l).st = 2) (hpass : trainCheck s l b = none) :
    execTrainingWordReceive l b failed s = .next (linkChanged (lanesUp
      (linkMod (linkMod s l (fun L => { L with peerNode := b.node % 4096, peerConn := b.conn % 8 })) l (fun L =>
        { L with st := 3, ver := if nbit b.versions 2 then 2 else 1 })) l failed) l 2) := by
  simp [execTrainingWordReceive, htrain, hpass]

/-- One that fails holds the link for the reason that the check gives, and tells the peer. -/
theorem execTrainingWordReceive_holds {b : LinkId} {r : Nat} (failed : List Nat) (htrain : (link s l).st = 2)
    (hfail : trainCheck s l b = some r) : execTrainingWordReceive l b failed s = .next (emit
      (linkMod (linkMod s l (fun L => { L with peerNode := b.node % 4096, peerConn := b.conn % 8 })) l (fun L =>
        { L with st := 4, reason := r % 256 })) (.training l)) := by
  simp [execTrainingWordReceive, htrain, hfail]

/-! ### Falls (R250, Table 9-7) -/

/-- How often the link fell within the last second. -/
def recentFalls (s : State) (l : Nat) : Nat := ((link s l).downs.filter (fun t => decide (s.time < t + 1000000000))).length

/-- A DOWN link that fell less than three times trains again. -/
theorem execLinkDownTimer_trains (hdown : (link s l).st = 1) (hfew : recentFalls s l < 3) :
    execLinkDownTimer l s = .next (trainStart s l) :=
  (if_neg (by omega)).trans (if_neg (by rw [← recentFalls]; omega))

/-- One that fell three times is held for FLAP. -/
theorem execLinkDownTimer_flaps (hdown : (link s l).st = 1) (hmany : 3 ≤ recentFalls s l) :
    execLinkDownTimer l s = .next (linkMod s l (fun L => { L with st := 4, reason := 11 })) :=
  (if_neg (by omega)).trans (if_pos hmany)

end

/-- Settles O26: each clause is the case of its command that its hypotheses name. -/
theorem linkStates : Obligations.LinkStates := by
  refine ⟨?_, ?_, fun l s hheld => if_pos hheld, ?_, ?_, fun l s htrain => if_pos htrain, fun _ _ _ _ => rfl, fun _ _ _ => rfl,
    fun _ _ _ _ => rfl, ?_, ?_, fun l s hheld => if_pos hheld⟩
  · intro l s hrun hl hoff hused
    exact execLinkEnable_trains hrun hl hoff hused
  · intro l s hrun hl hup
    exact execLinkDisable_up hrun hl hup
  · intro l b failed s htrain hpass
    exact execTrainingWordReceive_up failed htrain hpass
  · intro l b failed r s htrain hfail
    refine ⟨_, execTrainingWordReceive_holds failed htrain hfail, ?_⟩
    rw [link_emit, link_linkMod, link_linkMod]
    exact ⟨rfl, rfl, rfl⟩
  · intro l s hdown hfew
    exact execLinkDownTimer_trains hdown hfew
  · intro l s hdown hmany
    refine ⟨_, execLinkDownTimer_flaps hdown hmany, ?_⟩
    rw [link_linkMod]
    exact ⟨rfl, rfl⟩

end Sys2Proof.Proofs
end

section
/-! PROOFS. The Ethernet ports: frames received and sent, pauses, and the state of a port. O27. -/
namespace Sys2Proof.Proofs
open Sys2Proof.Machine Sys2Proof.Laws

@[simp] theorem eport_eportMod (s : State) (p : Nat) (f : EPort → EPort) : eport (eportMod s p f) p = f (eport s p) :=
  tget_tset_same _ _ _ _

/-! ### A frame arrives (R263, R267, R275) -/

section
variable {s : State} {p : Nat} {f : List Byte} {pcs : Bool}

/-- A live port takes a frame whose destination its MAC accepts. -/
theorem frame_accepted (hlive : portLive s p = true) (haddr : addressed s p f = true) :
    ¬ (!portLive s p || !addressed s p f) = true := by
  rw [hlive, haddr]
  decide

/-- A MAC control frame with opcode 0x0101, without a tag or an error, is taken as a pause. -/
theorem execFrameReceive_pause (fill : Nat) (chan : Bool) (hlive : portLive s p = true) (haddr : addressed s p f = true)
    (hmac : etype f = 0x8808) (hopc : beAt f (l3 f) 2 = 0x0101) (hgood : frameFlags s p f pcs = 0) (htag : tagged f = false) :
    execFrameReceive p f pcs fill chan s = .next (takePfc (countFrame s p f 0) p f) := by
  rw [execFrameReceive, if_neg (frame_accepted hlive haddr)]
  simp [hmac, hopc, hgood, htag]

/-- A transport frame goes to the transport whatever its errors: there they decide. -/
theorem execFrameReceive_transport (fill : Nat) (chan : Bool) (hlive : portLive s p = true) (haddr : addressed s p f = true)
    (hmac : etype f ≠ 0x8808) (htrans : isTransport s p f = true) :
    execFrameReceive p f pcs fill chan s = .next (takeTransport (countFrame s p f (frameFlags s p f pcs)) p (framePrio s p f) f
      (frameFlags s p f pcs) fill chan) :=
  (if_neg (frame_accepted hlive haddr)).trans ((if_neg hmac).trans (if_pos htrans))

/-- Any other frame without an error is delivered where it is steered, if its region has room. -/
theorem execFrameReceive_delivers {fill q m : Nat} {r : State} (chan : Bool) (hlive : portLive s p = true)
    (haddr : addressed s p f = true) (hmac : etype f ≠ 0x8808) (htrans : isTransport s p f = false)
    (hgood : frameFlags s p f pcs = 0) (hroom : takeRoom (countFrame s p f 0) p (framePrio s p f) f.length fill = (r, true))
    (hsteer : steer s p f = some (q, m)) :
    execFrameReceive p f pcs fill chan s = .next (deliverFrame r p (framePrio s p f) f 0 q m) := by
  rw [execFrameReceive, if_neg (frame_accepted hlive haddr)]
  simp [hmac, htrans, hgood, hroom, hsteer]

end

/-! ### Pauses that the port holds (R274) -/

section
variable {s : State} {p prio fill : Nat}

/-- The timer serves a priority that the port holds its partner in. -/
theorem pause_held (hprio : prio < 8) (hheld : (eport s p).holding.getLsbD prio = true) :
    ¬ (decide (8 ≤ prio) || !(eport s p).holding.getLsbD prio) = true := by
  rw [hheld, decide_eq_false (Nat.not_le.mpr hprio)]
  decide

/-- Above LOW the pause is repeated. -/
theorem execPfcRefreshTimer_repeats (hprio : prio < 8) (hheld : (eport s p).holding.getLsbD prio = true)
    (habove : pfcLow s p prio < fill) : execPfcRefreshTimer p prio fill s = .next (sendPfc s p prio (pfcQuanta s p prio)) :=
  (if_neg (pause_held hprio hheld)).trans (if_pos habove)

/-- At LOW it ends. -/
theorem execPfcRefreshTimer_ends (hprio : prio < 8) (hheld : (eport s p).holding.getLsbD prio = true)
    (hlow : fill ≤ pfcLow s p prio) : execPfcRefreshTimer p prio fill s = .next (sendPfc (eportMod s p (fun P =>
      { P with holding := P.holding &&& ~~~(BitVec.ofNat 8 (2 ^ prio)) })) p prio 0) :=
  (if_neg (pause_held hprio hheld)).trans (if_neg (Nat.not_lt.mpr hlow))

end

/-! ### Raw frames that were sent (R271) -/

/-- The frame's last byte leaves the MAC, and its entry completes with OK. -/
theorem execFrameTransmitDone_completes {s : State} {p q idx : Nat} {r : RawTx} {rest : List RawTx}
    (hsent : takeFirst (fun r : RawTx => decide (r.queue = q ∧ r.idx = idx) && r.sent) (eport s p).raw = some (r, rest)) :
    execFrameTransmitDone p q idx s = .next (entryDone (eportMod s p (fun P => { P with raw := rest })) q idx Status.ok r.len 0) := by
  simp only [execFrameTransmitDone, hsent]

/-! ### The state of a port (R257, R276) -/

section
variable {s : State} {p skew : Nat}

/-- A RUNNING device brings up a port of its mode whose cages hold no refused module. -/
theorem port_usable (hrun : running s = true) (hpresent : portPresent s p = true) (hcage : cageRefused s p = false) :
    ¬ (!running s || !portPresent s p || cageRefused s p) = true := by
  rw [hrun, hpresent, hcage]
  decide

/-- Within the skew that the mode allows, the port comes up without a fault. -/
theorem execPortUp_up (hrun : running s = true) (hpresent : portPresent s p = true) (hcage : cageRefused s p = false)
    (hskew : fld (reg s Reg.EMAC_MODE 0) 1 0 = 2 → skew ≤ 100) :
    execPortUp p skew s = .next (eportMod s p (fun P => { P with up := true, lf := false, rf := false })) := by
  have hfits : ¬ (fld (reg s Reg.EMAC_MODE 0) 1 0 = 2 ∧ 100 < skew) := fun ⟨hmode, hwide⟩ => Nat.not_lt.mpr (hskew hmode) hwide
  exact (if_neg (port_usable hrun hpresent hcage)).trans (if_neg hfits)

/-- More than 100 ns of skew in MODE 2 is a local fault. -/
theorem execPortUp_skewed (hrun : running s = true) (hpresent : portPresent s p = true) (hcage : cageRefused s p = false)
    (hmode : fld (reg s Reg.EMAC_MODE 0) 1 0 = 2) (hwide : 100 < skew) :
    execPortUp p skew s = .next (eportMod s p (fun P => { P with lf := true })) :=
  (if_neg (port_usable hrun hpresent hcage)).trans (if_pos ⟨hmode, hwide⟩)

end

/-- Settles O27: each clause is the case of its command that its hypotheses name, and what a port's state is after it is read off the
port that was rewritten. -/
theorem ethernetPorts : Obligations.EthernetPorts := by
  refine ⟨?_, ?_, ?_, fun _ _ _ => rfl, ?_, ?_, ?_, fun _ _ _ _ hfault => if_pos hfault, ?_, ?_⟩
  · intro p f pcs fill chan s hlive haddr hmac hopc hgood htag
    exact execFrameReceive_pause fill chan hlive haddr hmac hopc hgood htag
  · intro p f pcs fill chan s hlive haddr hmac htrans
    exact execFrameReceive_transport fill chan hlive haddr hmac htrans
  · intro p f fill chan r q m s hlive haddr hmac htrans hgood hroom hsteer
    exact execFrameReceive_delivers chan hlive haddr hmac htrans hgood hroom hsteer
  · intro p prio fill s hprio hheld habove
    exact execPfcRefreshTimer_repeats hprio hheld habove
  · intro p prio fill s hprio hheld hlow
    exact execPfcRefreshTimer_ends hprio hheld hlow
  · intro p q idx r rest s hsent
    exact execFrameTransmitDone_completes hsent
  · intro p skew s hrun hpresent hcage hskew
    refine ⟨_, execPortUp_up hrun hpresent hcage hskew, ?_⟩
    rw [eport_eportMod]
    exact ⟨rfl, rfl, rfl⟩
  · intro p skew s hrun hpresent hcage hmode hwide
    refine ⟨_, execPortUp_skewed hrun hpresent hcage hmode hwide, ?_⟩
    rw [eport_eportMod]
    exact ⟨rfl, rfl⟩

end Sys2Proof.Proofs
end

section
/-! PROOFS. The fuses go one way, and a command leaves alone what its list does not name. O51, O52. -/
namespace Sys2Proof.Proofs
open Sys2Proof.Machine Sys2Proof.Safety Sys2Proof.Laws

/-! ### The fuses (R432, R447) -/

/-- Ready work that runs on keeps the direction of the fuses. -/
theorem runWaiter_fuseLe (s : State) (w : Waiter) : FuseLe s.fuses (runWaiter s w).fuses :=
  (runWaiter_keeps s w (keeps_refl _ _) (sub_refl _)).fuseLe

/-- The tick keeps the direction of the fuses. -/
theorem tick_fuseLe (s : State) : FuseLe s.fuses (tick s).fuses := by
  unfold tick
  split
  · rename_i w r _
    exact runWaiter_fuseLe { s with atu := { s.atu with ready := r } } w
  · exact fuseLe_refl s.fuses

/-- Settles O51: the command in front keeps the direction of the fuses, and so does the tick. -/
theorem fusesOneWay : Obligations.FusesOneWay := by
  intro s t hstep
  unfold step at hstep
  split at hstep
  · exact ((exec_keeps _ _).out t hstep).fuseLe
  · cases hstep
    exact tick_fuseLe s

/-! ### The frame of a command -/

/-- A part is told by its bit, which is not that of all registers. -/
theorem partBit_inj {p q : Safety.Part} (h : partBit p = partBit q) : p = q := by
  cases p <;> cases q <;> simp [partBit, Fin.ext_iff] at h ⊢ <;> omega

/-- No part has the bit of all registers together. -/
theorem partBit_ne_allRegs (p : Safety.Part) : partBit p ≠ 3 := by
  cases p <;> simp only [partBit] <;> omega

/-- The bits of a list's parts are joined to those there were. -/
theorem testBit_foldr_partBit (l : List Safety.Part) (m i : Nat) :
    (l.foldr (fun p m => m ||| 2 ^ partBit p) m).testBit i = true ↔ m.testBit i = true ∨ ∃ p ∈ l, partBit p = i := by
  induction l with
  | nil => simp
  | cons p r ih =>
    rw [List.foldr_cons, Nat.testBit_or, Bool.or_eq_true, ih, Nat.testBit_two_pow, decide_eq_true_eq, List.exists_mem_cons_iff]
    exact or_assoc.trans (or_congr_right or_comm)

/-- A set of parts has the bits of its parts, and that of all registers only when it has the registers of every unit. -/
theorem has_partSet (l : List Safety.Part) (i : Nat) :
    Has (partSet l) i ↔ (i = 3 ∧ anyRegs.all l.contains = true) ∨ ∃ p ∈ l, partBit p = i := by
  rw [Has, partSet, testBit_foldr_partBit]
  refine or_congr_left ?_
  split
  · rename_i hall
    rw [Nat.testBit_two_pow, decide_eq_true_eq, and_iff_left hall, eq_comm]
  · rename_i hall
    rw [Nat.zero_testBit, iff_false_left Bool.false_ne_true]
    exact fun h => hall h.2

/-- A part that the list does not name is not in its set. -/
theorem not_has_partBit {l : List Safety.Part} {p : Safety.Part} (h : p ∉ l) : ¬ Has (partSet l) (partBit p) := by
  rw [has_partSet]
  rintro (⟨h3, -⟩ | ⟨q, hq, hbit⟩)
  · exact partBit_ne_allRegs p h3
  · exact h (partBit_inj hbit ▸ hq)

/-- The registers of each unit are among those of every unit. -/
theorem regs_mem_anyRegs (u : Fin 16) : Part.regs u ∈ anyRegs := by
  decide +revert

/-- A list that does not name the registers of a unit does not have those of every unit. -/
theorem not_has_allRegs {l : List Safety.Part} {u : Fin 16} (h : Part.regs u ∉ l) : ¬ Has (partSet l) 3 := by
  rw [has_partSet]
  rintro (⟨-, hall⟩ | ⟨q, -, hbit⟩)
  · exact h (List.contains_iff_mem.mp (List.all_eq_true.mp hall _ (regs_mem_anyRegs u)))
  · exact partBit_ne_allRegs q hbit

/-- What `Keeps` says of a set of parts, said of a part that is not in it. -/
theorem unchanged_of_keeps {l : List Safety.Part} {p : Safety.Part} {s t : State} (h : Keeps (partSet l) s t) (hp : p ∉ l) :
    Unchanged p s t := by
  have hbit := not_has_partBit hp
  cases p
  case regs u =>
    intro off idx hoff
    refine h.regs (not_has_allRegs hp) _ ?_
    rwa [rk_block, hoff]
  case memory => exact ⟨fun a => congrArg (tget zeroByte · a) (h.bytes hbit), fun b => congrArg (tget _ · b) (h.blocks hbit)⟩
  case memControl =>
    exact ⟨h.controllers hbit, h.frames hbit, h.keySets hbit, h.keyNow hbit, h.keys hbit, h.keysDrawn hbit, h.zeroSet hbit,
      h.tileScrub hbit, h.ilv hbit, h.quarantined hbit⟩
  case time => exact h.time hbit
  case draws => exact h.freeCtr hbit
  case power => exact h.pw hbit
  case boot => exact h.boot hbit
  case flash => exact h.flash hbit
  case fuses => exact h.fuses hbit
  case cicada => exact h.cic hbit
  case functions => exact h.fns hbit
  case owners => exact h.owners hbit
  case queueLocal => exact h.qlocal hbit
  case commits => exact h.commits hbit
  case hif => exact h.hif hbit
  case sqm => exact h.sqm hbit
  case firefly => exact h.fev hbit
  case translation => exact h.atu hbit
  case queues => exact h.queues hbit
  case transport => exact h.tpe hbit
  case router => exact h.frt hbit
  case ethPorts => exact h.eports hbit
  case lanes => exact h.lns hbit
  case scarab => exact h.scb hbit
  case grid => exact h.tgd hbit
  case cipher => exact h.cph hbit
  case credits => exact h.ccs hbit
  case tenants => exact h.tenants hbit
  case rsp => exact h.rsp hbit
  case sent => exact h.out hbit

/-- Settles O52: what `Keeps` says of every command. -/
theorem commandsChangeOnlyTheirParts : Obligations.CommandsChangeOnlyTheirParts :=
  fun i s t _ hstep hp => unchanged_of_keeps ((exec_keeps i s).out t hstep) hp

end Sys2Proof.Proofs
end

section
/-! PROOFS. Scalar arithmetic, compares and control of a tile. O37, O38. -/
namespace Sys2Proof.Proofs
open Sys2Proof.Machine Sys2Proof.Safety Sys2Proof.Laws

section
variable {s : State} {t w : Nat}

/-- An instruction that is executed leaves what its effect does. -/
theorem tileOp_effect {o : Nat} {f : Tile → Nat → Eff} {e : Eff} (h : Executes s t o w) (he : f (tile s t) w = e) :
    (.next (tileOp s t o f) : Host.Outcome State Fault Refusal) = .next (retire s t (tile s t).pc e) :=
  congrArg _ ((tileOp_runs f h).trans (congrArg _ he))

/-! ### Arithmetic (Table 14-3) -/

/-- An operation of two registers leaves its result in its destination register. -/
theorem aluR_runs {op : Nat} (h : Executes s t (0x10 + op) w) : aluR s t op = scalar s t w (alu op (opA s t w) (opB s t w)) :=
  tileOp_runs _ h

/-- So does one of a register and IMM. -/
theorem aluI_runs {op : Nat} (h : Executes s t (0x20 + op) w) : aluI s t op = scalar s t w (alu op (opA s t w) (iImm w)) :=
  tileOp_runs _ h

/-! ### Compares (Table 14-3) -/

/-! FN 0 to 5 of CMP and CMPI. -/

theorem compare_eq (a b : W64) : compare 0 a b = decide (a = b) := rfl
theorem compare_ne (a b : W64) : compare 1 a b = decide (a ≠ b) := rfl
theorem compare_lt (a b : W64) : compare 2 a b = decide (a.toInt < b.toInt) := rfl
theorem compare_ge (a b : W64) : compare 3 a b = decide (b.toInt ≤ a.toInt) := rfl
theorem compare_ltu (a b : W64) : compare 4 a b = decide (a.toNat < b.toNat) := rfl
theorem compare_geu (a b : W64) : compare 5 a b = decide (b.toNat ≤ a.toNat) := rfl

/-! FN 0 to 3 of PLOG. -/

theorem plog_and (a b : Bool) : plog 0 a b = (a && b) := rfl
theorem plog_or (a b : Bool) : plog 1 a b = (a || b) := rfl
theorem plog_xor (a b : Bool) : plog 2 a b = xor a b := rfl
theorem plog_andNot (a b : Bool) : plog 3 a b = (a && !b) := rfl

/-- CMP leaves its comparison in its destination predicate. -/
theorem tCmp_runs (h : Executes s t 0x32 w) :
    exec (.tCmp t) s = .next (goesOn s t (setP s t (iD w) (compare (iFn w) (opA s t w) (opB s t w)))) :=
  tileOp_effect (e := .done _) h rfl

/-- So does CMPI. -/
theorem tCmpi_runs (h : Executes s t 0x33 w) :
    exec (.tCmpi t) s = .next (goesOn s t (setP s t (iD w) (compare (iFnI w) (opA s t w) (iImm w)))) :=
  tileOp_effect (e := .done _) h rfl

/-- PLOG leaves its operation of two predicates there. -/
theorem tPlog_runs (h : Executes s t 0x34 w) :
    exec (.tPlog t) s = .next (goesOn s t (setP s t (iD w) (plog (iFn w) (pReg (tile s t) (iA w)) (pReg (tile s t) (iB w))))) :=
  tileOp_effect (e := .done _) h rfl

/-! ### Jumps (R347) -/

/-- JR goes to a target that is a multiple of 8. -/
theorem tJr_aligned (h : Executes s t 0x04 w) (ha : (opA s t w).toNat % 8 = 0) :
    exec (.tJr t) s = .next (setPc s t (opA s t w).toNat) :=
  tileOp_effect (e := .jump s _) h (if_neg (Decidable.not_not.mpr ha))

/-- Any other target traps ALIGN. -/
theorem tJr_misaligned (h : Executes s t 0x04 w) (ha : (opA s t w).toNat % 8 ≠ 0) :
    exec (.tJr t) s = .next (trap s t 3 (opA s t w).toNat) :=
  tileOp_effect (e := .trap 3 _) h (if_pos ha)

/-! ### csrs (R366, Table 14-5) -/

/-- CSRR reads a csr that is there. -/
theorem tCsrr_present {p : W64 × State} (h : Executes s t 0x06 w) (hp : csrRead s t (iFnI w) = some p) :
    exec (.tCsrr t) s = .next (goesOn s t (setG p.2 t (iD w) p.1)) := by
  refine congrArg _ ((tileOp_runs _ h).trans ?_)
  rw [hp]
  rfl

/-- One that is not there traps ILLEGAL (log 22). -/
theorem tCsrr_absent (h : Executes s t 0x06 w) (hp : csrRead s t (iFnI w) = none) : exec (.tCsrr t) s = .next (trap s t 1 0) := by
  refine congrArg _ ((tileOp_runs _ h).trans ?_)
  rw [hp]
  rfl

/-- CSRW writes the bits of a csr that is there. -/
theorem tCsrw_present {T : Tile} (h : Executes s t 0x07 w) (hT : csrWrite (tile s t) (iFnI w) (opA s t w) = some T) :
    exec (.tCsrw t) s = .next (goesOn s t (tileMod s t (fun _ => T))) := by
  unfold opA at hT
  refine congrArg _ ((tileOp_runs _ h).trans ?_)
  rw [hT]
  rfl

/-- One that is read-only or not there traps ILLEGAL (log 22). -/
theorem tCsrw_absent (h : Executes s t 0x07 w) (hT : csrWrite (tile s t) (iFnI w) (opA s t w) = none) :
    exec (.tCsrw t) s = .next (trap s t 1 0) := by
  unfold opA at hT
  refine congrArg _ ((tileOp_runs _ h).trans ?_)
  rw [hT]
  rfl

/-! ### Waits (R356, R364) -/

/-- WAITT goes on when no named tag has operations outstanding. -/
theorem tWaitt_goes (h : Executes s t 0x08 w) (hfree : ∀ k < 16, nbit w k = true → tagCount (tile s t) k = 0) :
    exec (.tWaitt t) s = .next (goesOn s t s) := by
  refine tileOp_effect (e := .done s) h (if_neg ?_)
  simpa using hfree

/-- It waits while one has. -/
theorem tWaitt_waits (h : Executes s t 0x08 w) (hbusy : ∃ k < 16, nbit w k = true ∧ tagCount (tile s t) k ≠ 0) :
    exec (.tWaitt t) s = .next s := by
  refine tileOp_effect (e := .wait s) h (if_pos ?_)
  simpa using hbusy

/-- The channels that WAITC names. -/
theorem mem_filter_nbit {k : Nat} : k ∈ (List.range 16).filter (nbit w) ↔ k < 16 ∧ nbit w k = true := by
  rw [List.mem_filter, List.mem_range]

/-- The lowest number of a range that fulfils two conditions is the first that fulfils the second among those that fulfil the first. -/
theorem find?_filter_range {p q : Nat → Bool} {n k : Nat} (hk : k < n) (hp : p k = true) (hq : q k = true)
    (hlow : ∀ j < k, p j = true → q j = false) : ((List.range n).filter p).find? q = some k := by
  rw [List.find?_filter, List.find?_range_eq_some]
  refine ⟨by simp [hp, hq], List.mem_range.mpr hk, fun j hj => ?_⟩
  cases hpj : p j
  · simp
  · simp [hlow j hj hpj]

/-- WAITC answers the lowest named channel with a readable word, when none of those it names is barred. -/
theorem tWaitc_answers {ch : Nat} (h : Executes s t 0x09 w) (hch : ch < 16) (hnamed : nbit w ch = true) (hword : 0 < readable s t ch)
    (hlow : ∀ k < ch, nbit w k = true → readable s t k = 0) (hopen : ∀ k < 16, nbit w k = true → chanBarred s t k = false) :
    exec (.tWaitc t) s = .next (scalar s t w (w64 ch)) := by
  refine congrArg _ ((tileOp_runs _ h).trans ?_)
  have hsome : (List.range 16).filter (nbit w) ≠ [] := List.ne_nil_of_mem (mem_filter_nbit.mpr ⟨hch, hnamed⟩)
  have hbarred : ((List.range 16).filter (nbit w)).find? (chanBarred s t) = none := by
    rw [List.find?_eq_none]
    intro k hk
    obtain ⟨hk16, hknamed⟩ := mem_filter_nbit.mp hk
    simp [hopen k hk16 hknamed]
  have hfirst : ((List.range 16).filter (nbit w)).find? (fun ch => decide (0 < readable s t ch)) = some ch :=
    find?_filter_range hch hnamed (decide_eq_true hword) (fun k hk hknamed => by simp [hlow k hk hknamed])
  dsimp only
  rw [if_neg hsome, hbarred]
  dsimp only
  rw [hfirst]
  rfl

/-- WAITC of no channel traps OPERAND. -/
theorem tWaitc_none (h : Executes s t 0x09 w) (hnone : ∀ k < 16, nbit w k = false) :
    exec (.tWaitc t) s = .next (trap s t 5 (iImm w).toNat) := by
  refine tileOp_effect (e := .trap 5 _) h (if_pos ?_)
  rw [List.filter_eq_nil_iff]
  intro k hk
  simp [hnone k (List.mem_range.mp hk)]

/-! ### END (R365) -/

/-- END of the running invocation, with nothing outstanding but accepted replies, ends the tile's part of it. -/
theorem tEnd_ends (h : Executes s t 0x01 w) (hhandle : fld (opA s t w) 13 0 = (tile s t).handle)
    (hcounts : ∀ k < 16, tagCount (tile s t) k = repliesOn (tile s t) k) :
    exec (.tEnd t) s =
      .next (goesOn s t (endCheck (invLeave (tileStop s t) (tile s t).handle t) (tile s t).handle)) := by
  refine tileOp_effect (e := .done _) h ((if_neg (Decidable.not_not.mpr hhandle)).trans (if_neg ?_))
  simpa using hcounts

/-- END with another handle traps HANDLE. -/
theorem tEnd_otherHandle (h : Executes s t 0x01 w) (hhandle : fld (opA s t w) 13 0 ≠ (tile s t).handle) :
    exec (.tEnd t) s = .next (trap s t 9 (opA s t w).toNat) :=
  tileOp_effect (e := .trap 9 _) h (if_pos hhandle)
end

/-- Settles O37: each command is an operation of two registers, or of a register and IMM, and MOVI and MOVHI have one of their own. -/
theorem tileArithmetic : Obligations.TileArithmetic := by
  and_intros <;> intro t w s h
  -- two registers
  · exact congrArg _ (aluR_runs (op := 0) h)
  · exact congrArg _ (aluR_runs (op := 1) h)
  · exact congrArg _ (aluR_runs (op := 2) h)
  · exact congrArg _ (aluR_runs (op := 3) h)
  · exact congrArg _ (aluR_runs (op := 4) h)
  · exact congrArg _ (aluR_runs (op := 5) h)
  · exact congrArg _ (aluR_runs (op := 6) h)
  · exact congrArg _ (aluR_runs (op := 7) h)
  · exact congrArg _ (aluR_runs (op := 8) h)
  · exact congrArg _ (aluR_runs (op := 9) h)
  · exact congrArg _ (aluR_runs (op := 10) h)
  · exact congrArg _ (aluR_runs (op := 11) h)
  · exact congrArg _ (aluR_runs (op := 12) h)
  · exact congrArg _ (aluR_runs (op := 13) h)
  · exact congrArg _ (aluR_runs (op := 14) h)
  · exact congrArg _ (aluR_runs (op := 15) h)
  -- a register and IMM
  · exact congrArg _ (aluI_runs (op := 0) h)
  · exact congrArg _ (aluI_runs (op := 1) h)
  · exact congrArg _ (aluI_runs (op := 2) h)
  · exact congrArg _ (aluI_runs (op := 3) h)
  · exact congrArg _ (aluI_runs (op := 4) h)
  · exact congrArg _ (aluI_runs (op := 5) h)
  · exact congrArg _ (aluI_runs (op := 6) h)
  · exact congrArg _ (aluI_runs (op := 7) h)
  · exact congrArg _ (aluI_runs (op := 8) h)
  · exact congrArg _ (aluI_runs (op := 9) h)
  · exact congrArg _ (aluI_runs (op := 10) h)
  · exact congrArg _ (aluI_runs (op := 11) h)
  · exact congrArg _ (aluI_runs (op := 12) h)
  · exact congrArg _ (aluI_runs (op := 13) h)
  · exact congrArg _ (aluI_runs (op := 14) h)
  · exact congrArg _ (aluI_runs (op := 15) h)
  -- MOVI, MOVHI
  · exact congrArg _ (tileOp_runs _ h)
  · exact congrArg _ (tileOp_runs _ h)

/-- Settles O38: each command has the case of its condition. -/
theorem tileComparesAndControl : Obligations.TileComparesAndControl := by
  refine ⟨fun t w s h hfn => ?_, fun t w s h hfn => ?_, fun t w s h hfn => ?_, fun t w s h hfn => ?_, fun t w s h hfn => ?_,
    fun t w s h hfn => ?_, fun t w s h hfn => ?_, fun t w s h hfn => ?_, fun t w s h hfn => ?_, fun t w s h hfn => ?_,
    fun t w s h hfn => ?_, fun t w s h hfn => ?_, fun t w s h hfn => ?_, fun t w s h hfn => ?_, fun t w s h hfn => ?_,
    fun t w s h hfn => ?_, fun t w s h => tileOp_effect (e := .done s) h rfl,
    fun t w s h => tileOp_effect (e := .jump s _) h rfl, fun t w s h => tileOp_effect (e := .jump _ _) h rfl,
    fun t w s h => tJr_aligned h, fun t w s h => tJr_misaligned h, fun t w s h => tileOp_effect (e := .trap 0x0B _) h rfl,
    fun t w s h hcsr => ?_, fun t w s h hcsr => ?_, fun t w s h => tCsrr_absent h, fun t w s h hcsr => ?_,
    fun t w s h => tCsrw_absent h, fun t w s h => tWaitt_goes h, fun t w s h => tWaitt_waits h, fun t w ch s h => tWaitc_answers h,
    fun t w s h => tWaitc_none h, fun t w s h => tEnd_ends h, fun t w s h => tEnd_otherHandle h⟩
  -- CMP
  · rw [tCmp_runs h, hfn, compare_eq]
  · rw [tCmp_runs h, hfn, compare_ne]
  · rw [tCmp_runs h, hfn, compare_lt]
  · rw [tCmp_runs h, hfn, compare_ge]
  · rw [tCmp_runs h, hfn, compare_ltu]
  · rw [tCmp_runs h, hfn, compare_geu]
  -- CMPI
  · rw [tCmpi_runs h, hfn, compare_eq]
  · rw [tCmpi_runs h, hfn, compare_ne]
  · rw [tCmpi_runs h, hfn, compare_lt]
  · rw [tCmpi_runs h, hfn, compare_ge]
  · rw [tCmpi_runs h, hfn, compare_ltu]
  · rw [tCmpi_runs h, hfn, compare_geu]
  -- PLOG
  · rw [tPlog_runs h, hfn, plog_and]
  · rw [tPlog_runs h, hfn, plog_or]
  · rw [tPlog_runs h, hfn, plog_xor]
  · rw [tPlog_runs h, hfn, plog_andNot]
  -- CSRR and CSRW
  · exact tCsrr_present (p := ((tile s t).mfmt, s)) h (by rw [hcsr]; rfl)
  · exact tCsrr_present (p := draw s) h (by rcases hcsr with hcsr | hcsr <;> rw [hcsr] <;> rfl)
  · exact tCsrw_present h (by rw [hcsr]; rfl)

end Sys2Proof.Proofs
end

section
/-! PROOFS. The vector and matrix instructions of a tile. O40, O41, O42. -/
namespace Sys2Proof.Proofs
open Sys2Proof.Machine Sys2Proof.Safety Sys2Proof.Laws

/-! ### Lengths of what is stored -/

/-- Numbers joined as k bytes each. -/
@[simp] theorem length_joined (k : Nat) (l : List Nat) : (joined k l).length = k * l.length := by
  induction l with
  | nil => rfl
  | cons x l ih => rw [joined, List.length_append, length_leBytes, ih, List.length_cons, Nat.mul_succ, Nat.add_comm]

/-- A vector register has 128 lanes. -/
@[simp] theorem length_vReg (T : Tile) (r : Nat) : (vReg T r).length = 128 := by
  rw [vReg, List.length_map, List.length_range]

/-- What goes on past an instruction is no byte of memory. -/
theorem memByte_goesOn (s : State) (t : Nat) (u : State) (a : Nat) : memByte (goesOn s t u) a = memByte u a := rfl

/-- Nor is a sticky flag. -/
theorem memByte_raise (s : State) (t f a : Nat) : memByte (raise s t f) a = memByte s a := rfl

/-- A store of joined numbers leaves every byte outside its range alone. -/
theorem memByte_tileStore_joined (s : State) (t off : Nat) {k n a : Nat} {l : List Nat} (hn : n = k * l.length)
    (h : ¬ (tileAddr t off ≤ a ∧ a < tileAddr t off + n)) : memByte (tileStore s t off (joined k l)) a = memByte s a :=
  memByte_tileStore_outside s t off _ [] a (by rwa [length_joined, ← hn])

section
variable {s : State} {t w : Nat}

/-! ### Loads and stores of vectors (R348, R351) -/

/-- VLD of an aligned range of good words fills its register. -/
theorem tVld_loads (h : Executes s t 0x50 w) (ha : memOff (tile s t) w % 64 = 0) (hb : memOff (tile s t) w + 512 ≤ 2 ^ 22)
    (hp : anyPoison s (tileAddr t (memOff (tile s t) w)) 512 = false) :
    exec (.tVld t) s = .next (goesOn s t (setV s t (iD w)
      ((lanesOf 4 128 (memBytes s (tileAddr t (memOff (tile s t) w)) 512)).map (BitVec.ofNat 32)))) :=
  tileOp_effect (e := .done _) h ((atOffset_inside _ ha hb).trans (reading_clean _ hp))

/-- So does VLDH, with the widened values. -/
theorem tVldh_loads (h : Executes s t 0x52 w) (ha : memOff (tile s t) w % 64 = 0) (hb : memOff (tile s t) w + 256 ≤ 2 ^ 22)
    (hp : anyPoison s (tileAddr t (memOff (tile s t) w)) 256 = false) :
    exec (.tVldh t) s = .next (goesOn s t (setRes s t (iD w)
      ((lanesOf 2 128 (memBytes s (tileAddr t (memOff (tile s t) w)) 256)).map (widenRes (nbit (iFnI w) 0))))) :=
  tileOp_effect (e := .done _) h ((atOffset_inside _ ha hb).trans (reading_clean _ hp))

/-- A vector access with IMM whose offset is not a multiple of 64 traps ALIGN. -/
theorem vectorAccess_misaligned {o n : Nat} (f : Tile → Nat → Eff) (h : Executes s t o w) (ha : memOff (tile s t) w % 64 ≠ 0) :
    (.next (tileOp s t o (fun T w => atOffset (memOff T w) n 64 (f T w))) : Host.Outcome State Fault Refusal) =
      .next (trap s t 3 (memOff (tile s t) w)) :=
  tileOp_effect (e := .trap 3 _) h (atOffset_misaligned _ ha)

section
variable (hfn : iFn w < 6) (ha : (opA s t w).toNat % 64 = 0) (hA : (opA s t w).toNat + packBytes (iFn w) ≤ 2 ^ 22)
  (hb : (opB s t w).toNat % 4 = 0) (hB : (opB s t w).toNat + 4 ≤ 2 ^ 22)
include hfn ha hA hb hB

/-- VLDMX of aligned ranges of good words takes each element times the scale of its block. -/
theorem tVldmx_loads (h : Executes s t 0x54 w) (hpa : anyPoison s (tileAddr t (opA s t w).toNat) (packBytes (iFn w)) = false)
    (hpb : anyPoison s (tileAddr t (opB s t w).toNat) 4 = false) :
    exec (.tVldmx t) s = .next (goesOn s t (setV s t (iD w) ((List.range 128).map (fun i => BitVec.ofNat 32 (toF32 (mxValue (iFn w)
      (packedGet (fmtBits (iFn w)) (memBytes s (tileAddr t (opA s t w).toNat) (packBytes (iFn w))) i)
      (leAt (memBytes s (tileAddr t (opB s t w).toNat) 4) (i / 32) 1))).bits)))) :=
  tileOp_effect (e := .done _) h ((if_neg (Nat.not_le.mpr hfn)).trans ((atOffset_inside _ ha hA).trans ((atOffset_inside _ hb hB).trans
    ((reading_clean _ hpa).trans (reading_clean _ hpb)))))

/-- VSTMX to aligned ranges writes the elements of the four blocks and their scales. -/
theorem tVstmx_stores (h : Executes s t 0x55 w) :
    exec (.tVstmx t) s = .next (goesOn s t (tileStore (tileStore s t (opA s t w).toNat (packed (fmtBits (iFn w)) ((List.range 4).map
      (fun k => (mxBlock (iFn w) ((((vReg (tile s t) (iD w)).map (fun x => f32 x.toNat)).drop (32 * k)).take 32)).2)).flatten)) t
      (opB s t w).toNat (joined 1 ((List.range 4).map
      (fun k => (mxBlock (iFn w) ((((vReg (tile s t) (iD w)).map (fun x => f32 x.toNat)).drop (32 * k)).take 32)).1))))) := by
  show execTVstmx t s = _
  rw [execTVstmx, tileOp_runs _ h]
  unfold opA at ha hA
  unfold opB at hb hB
  dsimp only
  rw [if_neg (Nat.not_le.mpr hfn), atOffset_inside _ ha hA, atOffset_inside _ hb hB]
  simp only [retire, goesOn, opA, opB, List.map_map, Function.comp_def]
end

/-- Settles O40: each access has the case of its condition, and each move its one effect. -/
theorem tileVectorMoves : Obligations.TileVectorMoves := by
  refine ⟨fun t w s h => tVld_loads h, fun t w s h ha hb => ⟨_, ?_, rfl, fun a hout => ?_⟩, fun t w s h => tVldh_loads h,
    fun t w s h ha hb => ⟨_, ?_, rfl, fun a hout => ?_⟩, fun t w s h ha => vectorAccess_misaligned _ h ha,
    fun t w s h ha => vectorAccess_misaligned _ h ha, fun t w s h ha => vectorAccess_misaligned _ h ha,
    fun t w s h ha => vectorAccess_misaligned _ h ha, fun t w s h hfn => tileOp_effect (e := .trap 5 _) h (if_pos hfn),
    fun t w s h hfn => tileOp_effect (e := .trap 5 _) h (if_pos hfn),
    fun t w s h hfn ha hA hb hB hpa hpb => tVldmx_loads hfn ha hA hb hB h hpa hpb,
    fun t w s h hfn ha hA hb hB => tVstmx_stores hfn ha hA hb hB h, fun t w s h => tileOp_effect (e := .done _) h rfl,
    fun t w s h => tileOp_effect (e := .done _) h rfl, fun t w s h => tileOp_effect (e := .done _) h rfl,
    fun t w s h => tileOp_effect (e := .done _) h rfl⟩
  -- VST
  · exact tileOp_effect (e := .done _) h (atOffset_inside _ ha hb)
  · rw [memByte_goesOn, memByte_tileStore_joined s t _ (by rw [List.length_map, length_vReg]) hout]
  -- VSTH
  · exact tileOp_effect (e := .done _) h (atOffset_inside _ ha hb)
  · rw [memByte_goesOn, memByte_raise, memByte_tileStore_joined s t _ (by rw [List.length_map, List.length_map, length_vReg]) hout]

/-! ### Lane operations (R348, R350) -/

/-- An operation of two registers, lane by lane. -/
theorem vec2_runs {o : Nat} (f : Nat → Nat → FpRes) (h : Executes s t o w) :
    (.next (vec2 s t o f) : Host.Outcome State Fault Refusal) = .next (goesOn s t (setRes s t (iD w)
      (List.zipWith (fun a b => f a.toNat b.toNat) (vReg (tile s t) (iA w)) (vReg (tile s t) (iB w))))) :=
  tileOp_effect (e := .done _) h rfl

/-- A transcendental operation, lane by lane. -/
theorem vecTrans_runs {o : Nat} (h : Executes s t o w) :
    (.next (vecTrans s t o) : Host.Outcome State Fault Refusal) =
      .next (goesOn s t (setRes s t (iD w) ((vReg (tile s t) (iA w)).map (transLane o)))) :=
  tileOp_effect (e := .done _) h rfl

/-- The result of the tree of VRED over lanes. -/
def treeResult (f : Nat → Nat → FpRes) (l : List W32) : FpRes := ((redTree f 7 (l.map (fun x => ⟨x.toNat, 0⟩))).head?).getD ⟨0, 0⟩

/-- VRED leaves the result of its tree in a general register, with the tree's flags. -/
theorem tVred_runs {f : Nat → Nat → FpRes} (h : Executes s t 0x6A w)
    (hf : (match iFn w with | 0 => f32Add | 1 => f32MinMax true | _ => f32MinMax false) = f) :
    exec (.tVred t) s = .next (goesOn s t (raise (setG s t (iD w) (w64 (treeResult f (vReg (tile s t) (iA w))).bits)) t
      (treeResult f (vReg (tile s t) (iA w))).flags)) := by
  subst hf
  exact tileOp_effect (e := .done _) h rfl

/-- VINT is an operation of two registers, lane by lane. -/
theorem tVint_runs {f : W32 → W32 → W32} (h : Executes s t 0x6B w) (hf : vintOp (iFn w) = f) :
    exec (.tVint t) s = .next (goesOn s t (setV s t (iD w) (List.zipWith f (vReg (tile s t) (iA w)) (vReg (tile s t) (iB w))))) := by
  subst hf
  exact tileOp_effect (e := .done _) h rfl

/-- Settles O41: each operation has its one effect; FN chooses what VRED and VINT do. -/
theorem tileVectorArithmetic : Obligations.TileVectorArithmetic := by
  refine ⟨fun t w s h => vec2_runs f32Add h, fun t w s h => vec2_runs f32Sub h, fun t w s h => vec2_runs f32Mul h,
    fun t w s h => vec2_runs (f32MinMax true) h, fun t w s h => vec2_runs (f32MinMax false) h,
    fun t w s h => tileOp_effect (e := .done _) h rfl, fun t w s h => vecTrans_runs h, fun t w s h => vecTrans_runs h,
    fun t w s h => vecTrans_runs h, fun t w s h => vecTrans_runs h, fun t w s h hfn => ?_, fun t w s h hfn => ?_,
    fun t w s h hfn => ?_, fun t w s h hfn => ?_, fun t w s h hfn => ?_, fun t w s h hfn => ?_, fun t w s h hfn => ?_,
    fun t w s h hfn => ?_, fun t w s h hfn => ?_, fun t w s h hfn => ?_, fun t w s h hfn => ?_, fun t w s h hfn => ?_,
    fun t w s h => tileOp_effect (e := .done _) h rfl, fun t w s h => tileOp_effect (e := .done _) h rfl⟩
  -- VRED
  · exact tVred_runs h (by rw [hfn]; rfl)
  · exact tVred_runs h (by rw [hfn]; rfl)
  · exact tVred_runs h (by rw [hfn]; rfl)
  -- VINT
  all_goals exact tVint_runs h (by rw [hfn]; rfl)

/-! ### Moves of accumulators (R355) -/

/-- The moves of an accumulator whose operands keep the rules go on. -/
theorem moveCheck_inside {T : Tile} {fn base : Nat} (f : Eff) (hshape : mnOk T = true) (halign : fld T.ostride 21 0 % 16 = 0)
    (hrow : shapeN T * moveSize fn ≤ fld T.ostride 21 0)
    (hin : stripesIn base (fld T.ostride 21 0) (shapeN T * moveSize fn) (shapeM T) = true) : moveCheck T fn base f = f := by
  rw [moveCheck, hshape, hin, if_neg (by decide), if_neg (by omega), if_neg (by decide)]

/-- A shape out of range traps OPERAND. -/
theorem moveCheck_shape {T : Tile} {fn base : Nat} (f : Eff) (hshape : mnOk T = false) :
    moveCheck T fn base f = .trap 5 T.mshape.toNat := by
  rw [moveCheck, hshape, if_pos (by decide)]

/-! ### MMA (R352, R353) -/

/-- Stripe j of a strided operand. -/
theorem getD_stripes {base stride n m j : Nat} (hj : j < m) :
    (stripes s t base stride n m).getD j [] = memBytes s (tileAddr t (base + j * stride)) n := by
  rw [stripes, List.getD_eq_getElem?_getD, List.getElem?_map, List.getElem?_range hj]
  rfl

/-- A check of the scales of an MX format that does not fail. -/
theorem not_mx_and {p q : Prop} (h : ¬ q) : ¬ (p ∧ q) := fun hpq => h hpq.2

/-- An MMA whose operands keep the rules adds to each element of the shape its blocks in order. -/
theorem tMma_runs (h : Executes s t 0x81 w) (hop : MmaOperands s t w) :
    exec (.tMma t) s = .next (goesOn s t ((List.range (shapeM (tile s t))).foldl (fun u i => accRow u t (iD w) i
      ((List.range (shapeN (tile s t))).map (fun j => blocksFrom (fmtA s t) (fmtB s t) (rowA s t w i) (colB s t w j)
        (scaleA s t w i) (scaleB s t w j) (shapeK (tile s t) / 32) 0 (accGet (tile s t) (iD w) i j)))) s)) := by
  obtain ⟨hpair, hshape, hdepth, hstrides, hbases, hinA, hinB, hinScales, hgoodA, hgoodB, hgoodScales⟩ := hop
  unfold rowLenA colLenB at hstrides
  unfold rowLenA at hinA hgoodA
  unfold colLenB at hinB hgoodB
  unfold fmtA fmtB strideA strideB opA opB opC at *
  show execTMma t s = _
  rw [execTMma, tileOp_runs _ h]
  dsimp only
  rw [hpair, hshape, if_neg (by decide), if_neg (by simp; omega), if_neg (by omega), if_neg (by omega), if_neg (by omega), hinA, hinB,
    if_neg (by decide), if_neg (by decide), if_neg (not_mx_and (by omega)), if_neg (not_mx_and (by omega)), hgoodA, hgoodB,
    hgoodScales.1, hgoodScales.2,
    if_neg (by decide), if_neg (by decide), if_neg (not_mx_and (by decide)), if_neg (not_mx_and (by decide))]
  refine congrArg (fun f => Host.Outcome.next (goesOn s t ((List.range (shapeM (tile s t))).foldl f s)))
    (funext fun u => funext fun i => congrArg (accRow u t (iD w) i) (List.map_congr_left fun j hj => ?_))
  rw [getD_stripes (List.mem_range.mp hj), getD_stripes (List.mem_range.mp hj)]
  rfl

/-- Formats that do not go together trap OPERAND. -/
theorem tMma_badPair (h : Executes s t 0x81 w) (hpair : fmtPair (fmtA s t) (fmtB s t) = false) :
    exec (.tMma t) s = .next (trap s t 5 (tile s t).mfmt.toNat) := by
  unfold fmtA fmtB at hpair
  exact tileOp_effect (e := .trap 5 _) h (if_pos (by rw [hpair]; rfl))
end

/-- Settles O42: an access of an accumulator has the case of its condition, and an MMA in range fills the rows of its shape. -/
theorem tileMatrix : Obligations.TileMatrix := by
  refine ⟨fun t w s h => tileOp_effect (e := .done _) h rfl,
    fun t w s h hrow => tileOp_effect (e := .done _) h (if_neg (Nat.not_lt.mpr hrow)),
    fun t w s h hrow => tileOp_effect (e := .trap 5 _) h (if_pos hrow),
    fun t w s h hrow => tileOp_effect (e := .done _) h (if_neg (Nat.not_lt.mpr hrow)),
    fun t w s h hrow => tileOp_effect (e := .trap 5 _) h (if_pos hrow),
    fun t w s h hshape halign hlen hin => tileOp_effect (e := .done _) h (moveCheck_inside _ hshape halign hlen hin),
    fun t w s h hshape halign hlen hin hgood => tileOp_effect (e := .done _) h ((moveCheck_inside _ hshape halign hlen hin).trans
      (if_neg (Bool.eq_false_iff.mp hgood))),
    fun t w s h hshape => tileOp_effect (e := .trap 5 _) h (moveCheck_shape _ hshape),
    fun t w s h hshape => tileOp_effect (e := .trap 5 _) h (moveCheck_shape _ hshape),
    fun t w s h hop => tMma_runs h hop, fun t w s h hpair => tMma_badPair h hpair⟩

end Sys2Proof.Proofs
end

section
/-! PROOFS. The issue of a tile's instructions, its DMA, and its messages. O43, O45, O55. -/
namespace Sys2Proof.Proofs
open Sys2Proof.Machine Sys2Proof.Safety Sys2Proof.Laws

/-! ### The number of a tile's next operation -/

/-- The number that the tile's next DMA or message takes. -/
def nextIdOf (s : State) (t : Nat) : Nat := (tile s t).nextId

/-- A rewrite of tiles that keeps the number keeps it in every tile. -/
theorem nextIdOf_tileMod {f : Tile → Tile} (hf : ∀ T, (f T).nextId = T.nextId) (s : State) (u t : Nat) :
    nextIdOf (tileMod s u f) t = nextIdOf s t := by
  unfold nextIdOf
  by_cases h : t = u
  · rw [h, tile_tileMod, hf]
  · rw [tile_tileMod_other s f h]

/-- It is a matter of the grid alone. -/
theorem nextIdOf_congr {s u : State} (h : u.tgd = s.tgd) (t : Nat) : nextIdOf u t = nextIdOf s t := by
  rw [nextIdOf, tile, h, nextIdOf, tile]

/-- What leaves the grid alone leaves the number alone. -/
theorem nextIdOf_of_keeps {m : Nat} {s u : State} (h : Keeps m s u) (hm : ¬ Has m 24) (t : Nat) : nextIdOf u t = nextIdOf s t :=
  nextIdOf_congr (h.tgd hm) t

theorem nextIdOf_tileIdle (s : State) (u t : Nat) : nextIdOf (tileIdle s u) t = nextIdOf s t :=
  nextIdOf_tileMod (fun T => by split <;> rfl) s u t

theorem nextIdOf_tileStop (s : State) (u t : Nat) : nextIdOf (tileStop s u) t = nextIdOf s t := by
  rw [tileStop, nextIdOf_tileIdle]
  exact (nextIdOf_tileMod (fun T => by rfl) _ u t).trans
    (nextIdOf_of_keeps (chanDrop_keeps _ _ _ (keeps_refl _ s) (sub_refl _)) (by decide) t)

theorem nextIdOf_invMod (s : State) (h : Nat) (f : Invocation → Invocation) (t : Nat) : nextIdOf (invMod s h f) t = nextIdOf s t := rfl

theorem nextIdOf_dropRecord (s : State) (h : Nat) (i : Invocation) (u t : Nat) : nextIdOf (dropRecord s h i u) t = nextIdOf s t := by
  unfold dropRecord
  split <;> rfl

theorem nextIdOf_stopRest (s : State) (h : Nat) (i : Invocation) (t : Nat) : nextIdOf (stopRest s h i) t = nextIdOf s t := by
  unfold stopRest
  generalize i.live = l
  induction l generalizing s with
  | nil => rfl
  | cons u r ih =>
    rw [List.foldl_cons, ih, invLeave, nextIdOf_invMod]
    split
    · split
      · rfl
      · rw [nextIdOf_tileStop]
    · rw [nextIdOf_dropRecord]

theorem nextIdOf_fixOutcome (s : State) (h status t : Nat) : nextIdOf (fixOutcome s h status) t = nextIdOf s t := by
  unfold fixOutcome
  split
  · rfl
  · split
    · rfl
    · dsimp only
      split
      · split
        · exact nextIdOf_of_keeps (finishRecv_keeps _ _ _ _ (keeps_refl _ _) (sub_refl _)) (by decide) t
        · exact nextIdOf_of_keeps (sendAck_keeps _ _ (keeps_refl _ _) (sub_refl _)) (by decide) t
      · rfl

theorem nextIdOf_kernelReport (s : State) (own status sev cause k u h pc value t : Nat) :
    nextIdOf (kernelReport s own status sev cause k u h pc value) t = nextIdOf s t :=
  nextIdOf_of_keeps (report_keeps _ _ (keeps_refl _ _) (sub_refl _)) (by decide) t

theorem nextIdOf_bumpFn (s : State) (off fn t : Nat) : nextIdOf (bumpFn s off fn) t = nextIdOf s t := by
  unfold bumpFn bumpFnBy
  split <;> rfl

/-- A trap keeps the number. -/
theorem nextIdOf_trap (s : State) (u cause value t : Nat) : nextIdOf (trap s u cause value) t = nextIdOf s t := by
  unfold trap kernelDown
  dsimp only
  split
  · rfl
  · split
    · rw [invLeave, nextIdOf_invMod, nextIdOf_tileStop, nextIdOf_kernelReport]
    · rw [nextIdOf_stopRest, nextIdOf_fixOutcome, nextIdOf_bumpFn, invLeave, nextIdOf_invMod, nextIdOf_tileStop,
        nextIdOf_kernelReport]

theorem nextIdOf_setPc (s : State) (u pc t : Nat) : nextIdOf (setPc s u pc) t = nextIdOf s t := nextIdOf_tileMod (fun _ => by rfl) s u t

theorem nextIdOf_tagMod (s : State) (u tag : Nat) (f : Nat → Nat) (t : Nat) : nextIdOf (tagMod s u tag f) t = nextIdOf s t := by
  unfold tagMod
  split
  · rfl
  · exact nextIdOf_tileMod (fun _ => by rfl) s u t

/-! ### DMAX (R357) -/

/-- A DMAX that takes no number does no more than issue. -/
theorem execTDmax_stays {s u : State} {t : Nat} (hu : tileOp s t 0x90 (dmaxEff s t) = u) (hid : nextIdOf u t = nextIdOf s t) :
    exec (.tDmax t) s = .next u := by
  subst hu
  exact congrArg _ (if_pos hid)

/-- One that takes a number starts the first burst of its DMA. -/
theorem execTDmax_starts {s u : State} {t : Nat} (hu : tileOp s t 0x90 (dmaxEff s t) = u) (hid : nextIdOf u t ≠ nextIdOf s t) :
    exec (.tDmax t) s = .next (burstStart u t (tile s t).nextId) := by
  subst hu
  exact congrArg _ (if_neg hid)

/-- Rewrites that agree on the tile as it is are one. -/
theorem tileMod_congr {s : State} {t : Nat} {f g : Tile → Tile} (h : f (tile s t) = g (tile s t)) : tileMod s t f = tileMod s t g := by
  unfold tile at h
  rw [tileMod, tmod, h, tileMod, tmod]

/-- The DMA that a DMAX enters, of some rows and strides. -/
def dmaxEntry (s : State) (t w rows tstride cstride : Nat) : TileDma :=
  { id := (tile s t).nextId, tag := iFn w % 16, toCtx := nbit (iFn w) 4, toff := (opA s t w).toNat, va := (opB s t w).toNat,
    len := (opC s t w).toNat, rows := rows, tstride := tstride, cstride := cstride }

/-- The state after a DMA has entered the queue on its tag. -/
def dmaEntered (s : State) (t w : Nat) (d : TileDma) : State :=
  tileMod (tagMod s t (iFn w % 16) (· + 1)) t (fun T => { T with nextId := T.nextId + 1, dmas := T.dmas ++ [d] })

section
variable {s : State} {t w rows ts cs : Nat}

/-- A DMAX of a length in range, in bounds, that finds room enters its DMA. -/
theorem dmaxEff_enters (hrows : (if nbit (iFn w) 5 then (tile s t).dcount.toNat else 1) = rows)
    (hts : (if nbit (iFn w) 5 then (tile s t).dtstride.toNat else 0) = ts)
    (hcs : (if nbit (iFn w) 5 then (tile s t).dcstride.toNat else 0) = cs) (hsome : (opC s t w).toNat ≠ 0)
    (hmax : (opC s t w).toNat ≤ 2 ^ 22) (hroom : (tile s t).dmas.length < 16) (hany : rows ≠ 0)
    (hin : (opA s t w).toNat + (rows - 1) * ts + (opC s t w).toNat ≤ 2 ^ 22) :
    dmaxEff s t (tile s t) w = .done (dmaEntered s t w (dmaxEntry s t w rows ts cs)) := by
  unfold opA opC at hin
  unfold opC at hmax hsome
  unfold dmaxEff
  dsimp only
  rw [hrows, hts, hcs, if_neg (Nat.not_lt.mpr hmax), if_neg hany, if_neg (Nat.not_lt.mpr hin), if_neg hsome,
    if_neg (Nat.not_le.mpr hroom)]
  refine congrArg _ (tileMod_congr ?_)
  have hid : (tile (tagMod s t (iFn w % 16) (· + 1)) t).nextId = (tile s t).nextId := nextIdOf_tagMod s t _ _ t
  rw [hid]
  rfl

/-- What was entered took a number. -/
theorem nextIdOf_dmaEntered (d : TileDma) : nextIdOf (dmaEntered s t w d) t = nextIdOf s t + 1 := by
  rw [nextIdOf, dmaEntered, tile_tileMod]
  exact congrArg (· + 1) (nextIdOf_tagMod s t _ _ t)

/-- Such a DMAX is entered, and its first burst is started. -/
theorem execTDmax_enters (h : Executes s t 0x90 w) {d : TileDma} (he : dmaxEff s t (tile s t) w = .done (dmaEntered s t w d)) :
    exec (.tDmax t) s = .next (burstStart (goesOn s t (dmaEntered s t w d)) t (tile s t).nextId) := by
  refine execTDmax_starts ((tileOp_runs _ h).trans (congrArg _ he)) ?_
  show nextIdOf (setPc _ t _) t ≠ _
  rw [nextIdOf_setPc, nextIdOf_dmaEntered]
  exact Nat.succ_ne_self _

/-- A length above 4 MiB traps OPERAND. -/
theorem execTDmax_tooLong (h : Executes s t 0x90 w) (hmax : 2 ^ 22 < (opC s t w).toNat) :
    exec (.tDmax t) s = .next (trap s t 5 (opC s t w).toNat) :=
  execTDmax_stays ((tileOp_runs _ h).trans (congrArg (retire s t _) (if_pos hmax : _ = Eff.trap 5 _))) (nextIdOf_trap _ _ _ _ _)
end

/-! ### A burst completes (R357 to R359, R494) -/

section
variable {s s1 : State} {t id : Nat} {bus : Option (List Byte)} {d : TileDma} {b : Burst} (hd : dmaOf s t id = some d)
  (hb : d.burst = some b) (hhere : leavesDevice b.xfer.pieces = false)
include hd hb hhere

/-- A burst to the context that is written ends with the poison of its bytes. -/
theorem tDmaBurst_written (hto : d.toCtx = true) (hwrite : finishWrite s (tileOwner s t) b.xfer b.bytes b.poison = (s1, true)) :
    exec (.tDmaBurstComplete t id bus) s = .next (burstDone s1 t id (if b.poison = [] then 0 else Status.poisoned)) := by
  show execTDmaBurstComplete t id bus s = _
  rw [execTDmaBurstComplete, hd]
  dsimp only
  rw [hb]
  dsimp only
  split
  · next hpieces => rw [hpieces] at hhere; cases hhere
  · rw [if_pos hto, hwrite]

section
variable (hto : d.toCtx = false) (hthere : recordsThere s b.xfer.pieces = true)
include hto hthere

/-- A burst to the tile whose read returns good bytes stores them. -/
theorem tDmaBurst_read {x : List Byte} (hread : finishRead s (tileOwner s t) b.xfer bus = (s1, .ok x)) :
    exec (.tDmaBurstComplete t id bus) s =
      .next (burstDone (tileStore s1 t b.toff x) t id (if recordsBad s b.xfer.pieces then Status.authFail else 0)) := by
  show execTDmaBurstComplete t id bus s = _
  rw [execTDmaBurstComplete, hd]
  dsimp only
  rw [hb]
  dsimp only
  split
  · next hpieces => rw [hpieces] at hhere; cases hhere
  · rw [if_neg (by rw [hto]; decide), if_neg (by rw [hthere]; decide), hread]

/-- One whose read returns poison stores the bytes with their marks, and its tag takes POISONED. -/
theorem tDmaBurst_poisoned {x : List Byte} {m : Marks} (hread : finishRead s (tileOwner s t) b.xfer bus = (s1, .poison x m)) :
    exec (.tDmaBurstComplete t id bus) s = .next (burstDone (tileStore s1 t b.toff x m) t id Status.poisoned) := by
  show execTDmaBurstComplete t id bus s = _
  rw [execTDmaBurstComplete, hd]
  dsimp only
  rw [hb]
  dsimp only
  split
  · next hpieces => rw [hpieces] at hhere; cases hhere
  · rw [if_neg (by rw [hto]; decide), if_neg (by rw [hthere]; decide), hread]
end
end

/-- A DMA without a burst under way tries its next one. -/
theorem tDmaBurst_waiting {s : State} {t id : Nat} {bus : Option (List Byte)} {d : TileDma} (hd : dmaOf s t id = some d)
    (hb : d.burst = none) : exec (.tDmaBurstComplete t id bus) s = .next (burstStart s t id) := by
  show execTDmaBurstComplete t id bus s = _
  rw [execTDmaBurstComplete, hd]
  dsimp only
  rw [hb]

/-- Settles O43: a DMAX of one row or of strided rows is entered as one of some rows and strides, and a burst ends as its read or write did. -/
theorem tileDma : Obligations.TileDma := by
  refine ⟨fun t w s h hsome hmax hroom hone hin => execTDmax_enters h (d := dmaxEntry s t w 1 0 0) ?_,
    fun t w s h hsome hmax hroom hstrided hany hin => execTDmax_enters h (d := dmaxEntry s t w _ _ _) ?_,
    fun t w s h hmax => execTDmax_tooLong h hmax,
    fun t id bus d b s s1 hd hb hhere hto hwrite => tDmaBurst_written hd hb hhere hto hwrite,
    fun t id bus d b s s1 x hd hb hhere hto hthere hread => tDmaBurst_read hd hb hhere hto hthere hread,
    fun t id bus d b s s1 x m hd hb hhere hto hthere hread => tDmaBurst_poisoned hd hb hhere hto hthere hread,
    fun t id bus d s hd hb => tDmaBurst_waiting hd hb⟩
  · exact dmaxEff_enters (by rw [hone]; rfl) (by rw [hone]; rfl) (by rw [hone]; rfl) hsome hmax hroom (by decide) hin
  · exact dmaxEff_enters (by rw [hstrided]; rfl) (by rw [hstrided]; rfl) (by rw [hstrided]; rfl) hsome hmax hroom hany hin

/-! ### Issue (R345, R347, R349) -/

/-- A command that issues an instruction issues the words that it names, and what the issue leaves is its answer where it takes no number. -/
def IssuesWord (s : State) (t w : Nat) (i : Instr) : Prop :=
  ∃ want f, want w = true ∧ ∀ u, tileIssue s t want f = u → nextIdOf u t = nextIdOf s t → exec i s = .next u

/-- A command of one opcode that answers what its issue leaves. -/
theorem issuesWord_of_tileOp {s : State} {t w o : Nat} {i : Instr} {f : Tile → Nat → Eff} (ho : iOpc w = o)
    (hi : exec i s = .next (tileOp s t o f)) : IssuesWord s t w i :=
  ⟨opcIs o, f, decide_eq_true ho, fun _ hu _ => hi.trans (congrArg _ hu)⟩

/-- A SEND of one KIND; KIND 3 belongs to each (R362). -/
theorem issuesWord_of_send {s : State} {t w kind : Nat} {i : Instr} {f : Tile → Nat → Eff}
    (hw : iOpc w = 0xA0 ∧ (nfld w 21 20 = kind ∨ nfld w 21 20 = 3)) (hi : exec i s = .next (tileIssue s t (sendIs kind) f)) :
    IssuesWord s t w i :=
  ⟨sendIs kind, f, Bool.and_eq_true_iff.mpr ⟨decide_eq_true hw.1, decide_eq_true hw.2⟩, fun _ hu _ => hi.trans (congrArg _ hu)⟩

/-- DMAX answers what its issue leaves where it takes no number. -/
theorem issuesWord_tDmax {s : State} {t w : Nat} (ho : iOpc w = 0x90) : IssuesWord s t w (.tDmax t) :=
  ⟨opcIs 0x90, dmaxEff s t, decide_eq_true ho, fun _ hu hid => execTDmax_stays hu hid⟩

/-- Each instruction of the set is issued so: DMAX and the three SENDs apart, by its opcode alone. -/
theorem issuesWord_of_tileInstr {t w : Nat} {i : Instr} (hi : TileInstr t w i) (s : State) : IssuesWord s t w i := by
  unfold TileInstr at hi
  repeat
    obtain ⟨rfl, ho⟩ | hi := hi
    · exact issuesWord_of_tileOp ho rfl
  obtain ⟨rfl, ho⟩ | ⟨rfl, ho⟩ | ⟨rfl, hw⟩ | ⟨rfl, hw⟩ | ⟨rfl, hw⟩ | ⟨bad, rfl, ho⟩ | ⟨bad, rfl, ho⟩ | ⟨rfl, ho⟩ := hi
  -- DMAX, DATOM
  · exact issuesWord_tDmax ho
  · exact issuesWord_of_tileOp ho rfl
  -- SEND of the three KINDs
  · exact issuesWord_of_send hw rfl
  · exact issuesWord_of_send hw rfl
  · exact issuesWord_of_send hw rfl
  -- RECV, RECVM, POLL
  · exact issuesWord_of_tileOp ho rfl
  · exact issuesWord_of_tileOp ho rfl
  · exact issuesWord_of_tileOp ho rfl

/-- A reserved opcode is refused by the decoder. -/
theorem wordIllegal_of_reserved {w : Nat} (h : fmtOf (iOpc w) = none) : wordIllegal w = true := by
  rw [wordIllegal, h]

/-- Settles O55: each case of the issue, for the words that the command names. -/
theorem tileIssueRules : Obligations.TileIssueRules := by
  refine ⟨fun t w i s hi hf hbad => ?_, fun t w i s hi hf hgood hguard => ?_, fun t w i s hi hidle => ?_, fun t w i s hi hgo hfar => ?_,
    fun t w i s hi hgo hnear hpoison => ?_, fun w h => wordIllegal_of_reserved h⟩
  all_goals obtain ⟨want, f, hwant, hexec⟩ := issuesWord_of_tileInstr hi s
  · obtain ⟨hgo, hnear, hclean, hword⟩ := hf
    exact hexec _ (tileIssue_illegal hgo hnear hclean hword hwant hbad) (nextIdOf_trap _ _ _ _ _)
  · obtain ⟨hgo, hnear, hclean, hword⟩ := hf
    exact hexec _ (tileIssue_skip hgo hnear hclean hword hwant hgood hguard) (nextIdOf_setPc _ _ _ _)
  · exact hexec _ (tileIssue_idle hidle) rfl
  · exact hexec _ (tileIssue_fetch hgo hfar) (nextIdOf_trap _ _ _ _ _)
  · exact hexec _ (tileIssue_poison hgo hnear hpoison) (nextIdOf_trap _ _ _ _ _)

/-! ### A SEND to another node (R172, R361, R362) -/

/-- A SEND that is executed has its effect. -/
theorem tileIssue_send {s : State} {t w kind : Nat} (f : Tile → Nat → Eff) (h : Executes s t 0xA0 w) (hkind : nfld w 21 20 = kind) :
    tileIssue s t (sendIs kind) f = retire s t (tile s t).pc (f (tile s t) w) := by
  obtain ⟨⟨hissues, hnear, hclean, hword⟩, hopc, hlegal, hguard⟩ := h
  exact tileIssue_runs hissues hnear hclean hword (by simp [sendIs, opcIs, hopc, hkind]) hlegal hguard

/-- The words of a SEND whose operands keep the rules are read. -/
theorem sendWords_read {s : State} {t w : Nat} (f : List Byte → Eff) (hsome : (opC s t w).toNat ≠ 0) (hmax : (opC s t w).toNat ≤ 512)
    (ha : (opA s t w).toNat % 8 = 0) (hin : (opA s t w).toNat + 8 * (opC s t w).toNat ≤ 2 ^ 22)
    (hclean : anyPoison s (tileAddr t (opA s t w).toNat) (8 * (opC s t w).toNat) = false) :
    sendWords s t (tile s t) w f = f (memBytes s (tileAddr t (opA s t w).toNat) (8 * (opC s t w).toNat)) := by
  unfold opC at hsome hmax
  unfold opA opC at *
  rw [sendWords, if_neg (by omega), atOffset_inside _ ha hin, reading_clean _ hclean]

/-- What the clause of O45 on a SEND to another node says holds where the channel there was not agreed at version 1. -/
theorem tSendAddr_posts {s s1 : State} {t w a n : Nat} (h : Executes s t 0xA0 w) (hkind : nfld w 21 20 = 1)
    (hsome : (opC s t w).toNat ≠ 0) (hmax : (opC s t w).toNat ≤ 512) (ha : (opA s t w).toNat % 8 = 0)
    (hin : (opA s t w).toNat + 8 * (opC s t w).toNat ≤ 2 ^ 22)
    (hclean : anyPoison s (tileAddr t (opA s t w).toNat) (8 * (opC s t w).toNat) = false)
    (hxlate : dmaXlate s (tileOwner s t) (kCtx s (tile s t).kernel) (opB s t w).toNat 1 { wr := true, fabric := true } =
      (s1, .ok [(.fab a, n)])) (hopen : chanOpen s1 (fabChannel a) = true) (hnew : fabOld s1 (fabChannel a) = false) :
    exec (.tSendAddr t) s = .next (goesOn s t (postMsg (queueSend s1 t (sendTag w) 1 a 0 []) (fabChannel a)
      (tileMsg (queueSend s1 t (sendTag w) 1 a 0 []) t (tile s t).nextId (fabChannel a) 0x0A
        (memBytes s (tileAddr t (opA s t w).toNat) (8 * (opC s t w).toNat)) (8 * (opC s t w).toNat) a))) := by
  unfold opB at hxlate
  show execTSendAddr t s = _
  rw [execTSendAddr, tileIssue_send _ h hkind]
  dsimp only
  rw [sendWords_read _ hsome hmax ha hin hclean, hxlate]
  dsimp only
  rw [sendRemote, hnew, hopen, length_memBytes]
  rfl

/-- A SEND of one word to another node. -/
def remoteSend : Nat := 0xA000888500510000

/-- Tile 0 runs it, its context leads to node 3, and the channel to that node is READY at version 1. -/
def oldChannelCard : State :=
  setBytes
    { State.reset with
      atu := { ctxs := [(0, { valid := true, fabricEn := true })], cache := [⟨0, 0, 65536, 0x300000000002F⟩] }
      tpe := { conns := [(chanId 0 0 0 3, { st := 2, ver := 1 })] }
      tgd := { tiles := [(0, { st := 3, g := [(5, 1)] })] } }
    (tileAddr 0 0) (leBytes 8 remoteSend)

/-- Refutes O45, in its clause on a SEND to another node: a channel that was agreed at version 1 is open and carries no fabric address (R172), so
the SEND of `oldChannelCard` is not queued and its tag takes VERSION_MISMATCH. `tSendAddr_posts` says where the clause holds. -/
theorem not_tileMessages : ¬ Obligations.TileMessages := by
  rintro ⟨-, -, -, hremote, -⟩
  obtain ⟨u, hu, hqueued⟩ : ∃ u, exec (.tSendAddr 0) oldChannelCard = .next u ∧ (tile u 0).sends.length = 1 :=
    ⟨_, hremote 0 remoteSend oldChannelCard _ (3 * 2 ^ 48) 1 _ (by decide) (by decide) (by decide) (by decide) (by decide) (by decide) (by decide)
      (Prod.ext rfl (by decide)) rfl (by decide), by decide⟩
  have hnone : (tile u 0).sends.length = 0 := by
    cases hu
    decide
  exact absurd (hqueued.symm.trans hnone) (by decide)

end Sys2Proof.Proofs
end

section
/-! PROOFS. The lanes, their rotation, and the modules. O28. -/
namespace Sys2Proof.Proofs
open Sys2Proof.Machine Sys2Proof.Safety Sys2Proof.Laws

/-! ### What stays of links and cages -/

/-- What leaves the router alone leaves its links alone. -/
theorem link_of_keeps {m : Nat} {s u : State} (h : Keeps m s u) (hm : ¬ Has m 20) (l : Nat) : link u l = link s l := by
  rw [link, h.frt hm, link]

/-- What leaves LNS alone leaves its cages alone. -/
theorem cageModule_of_keeps {m : Nat} {s u : State} (h : Keeps m s u) (hm : ¬ Has m 22) (k : Nat) : cageModule u k = cageModule s k := by
  rw [cageModule, h.lns hm, cageModule]

@[simp] theorem link_report (s : State) (r : Report) (l : Nat) : link (report s r) l = link s l :=
  link_of_keeps (report_keeps s r (keeps_refl _ s) (sub_refl _)) (by decide) l

@[simp] theorem cageModule_report (s : State) (r : Report) (k : Nat) : cageModule (report s r) k = cageModule s k :=
  cageModule_of_keeps (report_keeps s r (keeps_refl _ s) (sub_refl _)) (by decide) k

@[simp] theorem cageModule_moduleMod (s : State) (k : Nat) (f : Module → Module) : cageModule (moduleMod s k f) k = f (cageModule s k) :=
  tget_tset_same _ _ _ _

@[simp] theorem cageModule_emit (s : State) (o : Output) (k : Nat) : cageModule (emit s o) k = cageModule s k := rfl

/-- The ports of a cage that lose their signal (R291). -/
def portsDown (s : State) (ports : List Nat) : State := ports.foldl (fun s p => if (eport s p).up then portDown s p true false else s) s

/-- They leave the cages alone. -/
@[simp] theorem cageModule_portsDown (s : State) (ports : List Nat) (k : Nat) : cageModule (portsDown s ports) k = cageModule s k := by
  induction ports generalizing s with
  | nil => rfl
  | cons p r ih =>
    rw [portsDown, List.foldl_cons, ← portsDown, ih]
    split
    · exact cageModule_of_keeps (portDown_keeps s p true false (keeps_refl _ s) (sub_refl _)) (by decide) k
    · rfl

section
variable {s : State} {k : Nat}

/-! ### Failures and degraded lanes (R282, R287) -/

/-- A failed fabric lane is handled at once. -/
theorem execLaneFailure_fabric {l : Nat} (los : Bool) (hl : l < 30) :
    exec (.laneFailure l los) s = .next (laneFails (laneMod s l (fun L => { L with los := L.los || los })) l true) :=
  (if_neg (by omega)).trans (if_neg (by omega))

/-- A failed Ethernet lane faults its port. -/
theorem execLaneFailure_ethernet {l : Nat} (los : Bool) (hl : 30 ≤ l) (hlast : l < 38) : exec (.laneFailure l los) s =
    .next (portDown (laneMod s l (fun L => { L with los := L.los || los })) (portOfLane s l) true false) :=
  (if_neg (by omega)).trans (if_pos hl)

/-- A lane with more corrected symbols than DEGR is degraded and rotates next. -/
theorem execLaneDegraded_over {l n : Nat} (hl : l < 38) (hover : fld (reg s Reg.LNS_FAIL_THR 0) 31 16 < n) : exec (.laneDegraded l n) s =
    .next (rotateNext (laneMod (bumpBy s Reg.LNS_LCORR l n) l (fun L => { L with degraded := true })) l) :=
  (if_neg (by omega)).trans (if_pos hover)

/-- The first link of a connector that has run on one lane is noted as such. -/
theorem execOneLaneTimer_first {p : Nat} (hp : [0, 1].find? (fun p => !posLive s k p) = some p) (hup : isUp s (2 * k) = true)
    (hnew : (link s (2 * k)).oneLane = false) (hlane : (lane s (laneOf k p)).st ≠ 5) :
    ∃ u, exec (.oneLaneTimer (2 * k)) s = .next u ∧ (link u (2 * k)).oneLane = true := by
  have hconn : 2 * k / 2 = k := by omega
  have hpos : 2 * k % 2 = 0 := by omega
  show ∃ u, execOneLaneTimer (2 * k) s = .next u ∧ _
  rw [execOneLaneTimer, hconn, hpos, Nat.zero_mul, Nat.zero_add, hp]
  dsimp only
  rw [hup, hnew, decide_eq_false hlane, if_neg (by decide)]
  exact ⟨_, rfl, by rw [link_report, link_linkMod]⟩

/-- The peer's receiver has failed a position that the spare does not carry. -/
theorem execLaneFailMsg_lane {pos : Nat} (hk : k < 6) (hpos : pos < 5) (hspare : ¬ ((spare s k).st = 4 ∧ (spare s k).carries = pos)) :
    exec (.laneFailMsg k pos) s = .next (laneFails s (laneOf k pos) false) :=
  (if_neg (by omega)).trans (if_neg hspare)

/-- The spare takes the freed position for good. -/
theorem execSpareIn_freed {pos : Nat} (hk : k < 6) (hpos : pos < 4) (hphase : (rot s k).phase = 3) (hfreed : (rot s k).pos = pos) :
    exec (.spareIn k pos) s = .next (freedFails s k) :=
  (if_neg (by omega)).trans (if_pos ⟨hphase, hfreed⟩)

/-! ### The rotation step (R284 to R288) -/

/-- The lower end asks for the next position. -/
theorem execRotationStepTimer_next (hmay : mayRotate s k = true) (hlower : lowerEnd s k = true) (hurgent : (rot s k).urgent = [])
    (hlane : (lane s (laneOf k (rot s k).next)).st = 2) : exec (.rotationStepTimer k) s = .next (laneMsg (rotMod s k (fun R =>
      { R with phase := 1, pos := (rot s k).next, urgent := R.urgent.drop 1 })) k 1 (rot s k).next 0) := by
  show execRotationStepTimer k s = _
  rw [execRotationStepTimer, hmay, hlower, hurgent, List.head?_nil, Option.getD_none, hlane, if_neg (by decide)]

/-- The higher end agrees and copies. -/
theorem execRotReq_agrees {pos : Nat} (hmay : mayRotate s k = true) (hhigher : lowerEnd s k = false) (hpos : pos < 4)
    (hlane : (lane s (laneOf k pos)).st = 2) :
    exec (.rotReq k pos) s = .next (laneMsg (rotMod s k (fun R => { R with phase := 2, pos := pos })) k 2 pos 0) :=
  if_pos (by simp [hmay, hhigher, hpos, hlane])

section
variable (hcopy : copying s k = true)
include hcopy

/-- A receiver that has matched says so. -/
theorem execMatchAchieved_agrees (m : Nat) (hmine : (rot s k).mine = false) : exec (.matchAchieved k m true) s =
    .next (switchCheck (laneMsg (rotMod s k (fun R => { R with mine := true })) k 3 (rot s k).pos 0) k m) := by
  show execMatchAchieved k m true s = _
  rw [execMatchAchieved, hcopy, hmine, if_neg (by decide), if_pos rfl]

/-- The fourth restart abandons the step. -/
theorem execMatchAchieved_abandons (m : Nat) (hmine : (rot s k).mine = false) (hlast : (rot s k).restarts = 3) :
    exec (.matchAchieved k m false) s = .next (stepAbandon (laneMsg (bump s Reg.LNS_CMP_FAIL 0) k 8 (rot s k).pos 0) k) := by
  show execMatchAchieved k m false s = _
  rw [execMatchAchieved, hcopy, hmine, if_neg (by decide), if_neg (by decide), hlast, if_neg (by decide)]
end

/-- At the named marker the spare takes the position over. -/
theorem execSwitchMarker_takes (hmarker : (rot s k).marker.isSome = true) (hphase : (rot s k).phase = 2) : exec (.switchMarker k) s =
    .next (rotMod (laneMod (laneMod s (laneOf k (rot s k).pos) (fun L => { L with st := 5 })) (spareLane k)
      (fun L => { L with st := 4, carries := (rot s k).pos })) k
      (fun R => { R with phase := 3, mine := false, peer := false, restarts := 0, marker := none })) :=
  (if_neg (by rw [Option.isNone_eq_false_iff.mpr hmarker]; decide)).trans (if_pos hphase)

section
variable (hphase : (rot s k).phase = 3)
include hphase

/-- The calibration of the freed lane is under way at this end. -/
theorem calibrating (hmine : (rot s k).mine = false) : ¬ ((rot s k).phase ≠ 3 ∨ (rot s k).mine = true) := by
  simp [hphase, hmine]

/-- A freed lane that has converged takes its eye and copies back once both ends have. -/
theorem execCalibrationDone_converged (h x : Nat) (hmine : (rot s k).mine = false) : exec (.calibrationDone k h x false) s =
    .next (backCheck (laneMsg (rotMod (laneMod (setReg s Reg.LNS_LMARGIN (laneOf k (rot s k).pos) (w64 (h % 256 + x % 1024 * 256)))
      (laneOf k (rot s k).pos) (fun L => { L with degraded := false })) k (fun R => { R with mine := true })) k 5 (rot s k).pos 0) k) :=
  (if_neg (calibrating hphase hmine)).trans (if_neg (by decide))

/-- One that does not converge fails. -/
theorem execCalibrationTimeout_fails (hmine : (rot s k).mine = false) :
    exec (.calibrationTimeout k) s = .next (laneMsg (freedFails s k) k 7 (rot s k).pos 0) :=
  if_neg (calibrating hphase hmine)
end

/-! ### Lane control (R288, R289) -/

/-- Outside a step a fabric lane's control is acted on. -/
theorem laneCtl_idle {l : Nat} (kind : Nat) (hl : l < 30) (hphase : (rot s (l / 5)).phase = 0) :
    laneCtl (dropHeld s 0) l kind = laneAct (dropHeld s 0) l kind :=
  (if_neg (by omega)).trans (if_neg (fun h => h.2 hphase))

/-- During a step it waits for the step's end. -/
theorem laneCtl_stepping {l : Nat} (kind : Nat) (hl : l < 30) (hphase : (rot s (l / 5)).phase ≠ 0) :
    laneCtl (dropHeld s 0) l kind = rotMod (dropHeld s 0) (l / 5) (fun R => { R with later := R.later ++ [(l, kind)] }) :=
  (if_neg (by omega)).trans (if_pos ⟨hl, hphase⟩)

/-! ### Modules (R291) -/

/-- A module within the power limit is taken. -/
theorem execModuleInsert_taken (rev : Nat) {power : Nat} (hk : k < 2) (hlow : power ≤ 4 * fld (reg s Reg.LNS_MOD_PWR_MAX 0) 7 0) :
    ∃ u, exec (.moduleInsert k rev power) s = .next u ∧
      cageModule u k = { present := true, high := true, refused := false, rev := rev % 256, power := power % 256 } ∧
      u.out = .module k true :: s.out := by
  show ∃ u, execModuleInsert k rev power s = .next u ∧ _
  rw [execModuleInsert, if_neg (Nat.not_le.mpr hk), decide_eq_false (Nat.not_lt.mpr hlow), if_neg Bool.false_ne_true]
  exact ⟨_, rfl, by rw [cageModule_emit, cageModule_moduleMod]; rfl, rfl⟩

/-- One above it is refused. -/
theorem execModuleInsert_refused (rev : Nat) {power : Nat} (hk : k < 2) (hhigh : 4 * fld (reg s Reg.LNS_MOD_PWR_MAX 0) 7 0 < power) :
    ∃ u, exec (.moduleInsert k rev power) s = .next u ∧ (cageModule u k).refused = true ∧ (cageModule u k).high = false := by
  show ∃ u, execModuleInsert k rev power s = .next u ∧ _
  rw [execModuleInsert, if_neg (Nat.not_le.mpr hk), decide_eq_true hhigh, if_pos rfl, ← portsDown]
  refine ⟨_, rfl, ?_⟩
  rw [cageModule_report, cageModule_portsDown, cageModule_emit, cageModule_moduleMod]
  exact ⟨rfl, rfl⟩

/-- A module that is removed is no longer there. -/
theorem execModuleRemove_gone : ∃ u, exec (.moduleRemove k) s = .next u ∧ (cageModule u k).present = false :=
  ⟨portsDown (moduleMod s k (fun _ => {})) (cagePorts s k), rfl, by rw [cageModule_portsDown, cageModule_moduleMod]⟩

/-! ### The FAB and OSFP LEDs (Table 2-7) -/

section
variable (hmain : s.pw.mainOn = true)
include hmain

theorem osfpLed_fault (hfault : (cageModule s k).fault = true) : osfpLed s k = .amber := by
  rw [osfpLed, hmain, hfault]
  rfl

theorem osfpLed_good (hgood : (cageModule s k).fault = false) :
    osfpLed s k = if cagePorts s k ≠ [] ∧ (cagePorts s k).all (fun p => (eport s p).up) = true then .green else .off := by
  rw [osfpLed, hmain, hgood]
  rfl

theorem fabLed_up (ha : (link s (2 * k)).st = 3) (hb : (link s (2 * k + 1)).st = 3) :
    fabLed s k = if (link s (2 * k)).ver = 1 ∨ (link s (2 * k + 1)).ver = 1 ∨ (rot s k).perm = true then .amber else .green := by
  simp [fabLed, hmain, ha, hb]

theorem fabLed_half (ha : (link s (2 * k)).st = 3) (hb : (link s (2 * k + 1)).st ≠ 3) : fabLed s k = .amber := by
  simp [fabLed, hmain, ha, hb]
end
end

/-- Settles O28: each clause is the case of its command, or of its LED, that its hypotheses name. -/
theorem lanesAndModules : Obligations.LanesAndModules := by
  refine ⟨fun l los s hl => execLaneFailure_fabric los hl, fun l los s hl hlast => ⟨_, execLaneFailure_ethernet los hl hlast, rfl⟩,
    fun l n s hl hover => execLaneDegraded_over hl hover, fun k p s hp hup hnew hlane => execOneLaneTimer_first hp hup hnew hlane,
    fun k pos s hk hpos hspare => execLaneFailMsg_lane hk hpos hspare,
    fun k pos s hk hpos hphase hfreed => execSpareIn_freed hk hpos hphase hfreed,
    fun k s hmay hlower hurgent hlane => execRotationStepTimer_next hmay hlower hurgent hlane,
    fun k pos s hmay hhigher hpos hlane => execRotReq_agrees hmay hhigher hpos hlane,
    fun k pos s hphase hpos => if_pos ⟨hphase, hpos⟩, fun k m s hcopy => if_pos hcopy,
    fun k m s hcopy hmine => execMatchAchieved_agrees hcopy m hmine,
    fun k m s hcopy hmine hlast => execMatchAchieved_abandons hcopy m hmine hlast, fun k m s hcopy => if_pos hcopy,
    fun k s hmarker hphase => execSwitchMarker_takes hmarker hphase, fun k pos s hphase => if_pos hphase,
    fun k h x s hphase hmine => execCalibrationDone_converged hphase h x hmine,
    fun k s hphase hmine => execCalibrationTimeout_fails hphase hmine, fun k s => rfl,
    fun l pass s hl hphase => ⟨congrArg _ (laneCtl_idle 0 hl hphase), congrArg _ (laneCtl_idle 1 hl hphase),
      congrArg _ (laneCtl_idle _ hl hphase)⟩,
    fun l pass s hl hphase => ⟨congrArg _ (laneCtl_stepping 0 hl hphase), congrArg _ (laneCtl_stepping 1 hl hphase),
      congrArg _ (laneCtl_stepping _ hl hphase)⟩,
    fun k rev power s hk hlow => execModuleInsert_taken rev hk hlow, fun k rev power s hk hhigh => execModuleInsert_refused rev hk hhigh,
    fun k s => execModuleRemove_gone, fun k ready fault s hpresent => if_pos hpresent,
    fun k ready s hpresent hmain => ⟨_, if_pos hpresent, osfpLed_fault hmain (by rw [cageModule_moduleMod])⟩,
    fun k s hmain hgood => osfpLed_good hmain hgood, fun k s hmain ha hb => fabLed_up hmain ha hb,
    fun k s hmain ha hb => fabLed_half hmain ha hb⟩

end Sys2Proof.Proofs
end

section
/-! PROOFS. Scarab's collectives. O29. -/
namespace Sys2Proof.Proofs
open Sys2Proof.Machine Sys2Proof.Safety Sys2Proof.Laws

@[simp] theorem grp_grpMod (s : State) (g : Nat) (f : ScbGroup → ScbGroup) : grp (grpMod s g f) g = f (grp s g) := tget_tset_same _ _ _ _

@[simp] theorem scbPeer_scbPeerMod (s : State) (g l j : Nat) (f : ScbPeer → ScbPeer) :
    scbPeer (scbPeerMod s g l j f) g l j = f (scbPeer s g l j) := by
  rw [scbPeer, scbPeerMod, grp_grpMod]
  exact tget_tset_same _ _ _ _

/-- A change of a group that leaves its peers alone leaves the counts toward them alone. -/
theorem scbPeer_grpMod (s : State) (g l j : Nat) (f : ScbGroup → ScbGroup) (hpeers : ∀ G, (f G).peers = G.peers) :
    scbPeer (grpMod s g f) g l j = scbPeer s g l j := by rw [scbPeer, grp_grpMod, hpeers, scbPeer]

/-- A group that runs no collective finishes none. -/
theorem scbFinish_idle {s : State} {g : Nat} (hst : (grp s g).st ≠ 1) : scbFinish s g = s := by
  rw [scbFinish, decide_eq_false hst]
  simp only [Bool.false_and, Bool.false_eq_true, if_false]

section
variable {s : State}

/-! ### Starting (R299, R305, R306) -/

section
variable {q idx : Nat} {e : Entry} (hhanded : handedOver s q idx = some e)
include hhanded

/-- The member list is read at the first COLLECTIVE of a VALID group. -/
theorem execMemberListRead_first {bs : List Byte} {s1 : State} (hnone : (grp s (cGroup e)).members = none)
    (hvalid : wbit (gent s (cGroup e) 0) 0 = true)
    (hread : memRead s (gOwner s (cGroup e)) (fld (gent s (cGroup e) 1) 47 0) (32 * gMembers s (cGroup e)) = (s1, .ok bs)) :
    exec (.memberListRead q idx) s = .next (grpMod s1 (cGroup e) (fun G =>
      { G with members := some ((List.range (gMembers s (cGroup e))).map (fun i => leAt bs (32 * i) 32)) })) := by
  show execMemberListRead q idx s = _
  rw [execMemberListRead, hhanded]
  dsimp only
  rw [hnone, hvalid, if_neg (by decide), hread]

section
variable (bus : Option (List Byte)) (hready : (grp s (cGroup e)).st = 0) (hroom : scbActive s < 64)
  (hlist : (grp s (cGroup e)).members.isSome = true)
include hready hroom hlist

/-- A checked collective starts its group. -/
theorem execCollectiveStart_starts (hgood : collectiveBad s q e = none) (hmany : 1 < gMembers s (cGroup e)) :
    exec (.collectiveStart q idx bus) s = .next (scbFinish (grpMod
      { s with scb := { s.scb with waited := s.scb.waited.filter (· ≠ (q, idx)) } } (cGroup e) (fun G =>
      { G with st := 1, inst := some (cInst e), queue := q, idx := idx, cursors := [], accs := [], have_ := [], finals := [], repairs := [],
               unicast := [], waits := [], poison := false, peers := G.peers.map (fun p => (p.1, { p.2 with up := 0, down := 0 })) }))
      (cGroup e)) := by
  show execCollectiveStart q idx bus s = _
  rw [execCollectiveStart, hhanded]
  dsimp only
  rw [hready, Option.isNone_eq_false_iff.mpr hlist, if_neg (fun h => absurd h.1 (by decide)),
    if_neg (fun h => h.elim (by decide) (by omega)), if_neg (fun h => absurd h.1 (by decide)), hgood]
  dsimp only
  rw [if_pos hmany]

/-- A failed check completes the entry. -/
theorem execCollectiveStart_fails {st : Nat} (hbad : collectiveBad s q e = some st) :
    exec (.collectiveStart q idx bus) s = .next (entryDone
      { s with scb := { s.scb with waited := s.scb.waited.filter (· ≠ (q, idx)) } } q idx st 0 0) := by
  show execCollectiveStart q idx bus s = _
  rw [execCollectiveStart, hhanded]
  dsimp only
  rw [hready, Option.isNone_eq_false_iff.mpr hlist, if_neg (fun h => absurd h.1 (by decide)),
    if_neg (fun h => h.elim (by decide) (by omega)), if_neg (fun h => absurd h.1 (by decide)), hbad]
end
end

/-! ### Sending (R304, R307) -/

section
variable {g l : Nat}

/-- A chunk that goes by unicast goes to the next peer in rotation. -/
theorem execChunkSend_unicast (down : Bool) (bus : Option (List Byte)) {e : Entry} {n cur j : Nat} {list : Nat × Nat}
    (he : e = scbEntry s g) (hn : n = gSize s g l - 1) (hcur : cur = tget (fun _ => 0) (grp s g).cursors (l * 2 + b2n down))
    (hj : j = (myCoord s g l + 1 + cur % max 1 n) % max 1 (gSize s g l))
    (hlist : list = (if down then downList s g e l else upList s g e l j)) (hst : (grp s g).st = 1) (hl : l < 3) (hpeers : n ≠ 0)
    (hleft : cur / max 1 n < list.2) (htree : (down && byTree s g l) = false) (hmay : mayReach s g l j = true) :
    exec (.chunkSend g l down bus) s = .next (scbSettle s g (sendChunk s g l (list.1 + cur / max 1 n) down false [j] bus)) := by
  subst he hn hcur hj hlist
  show execChunkSend g l down bus s = _
  rw [execChunkSend, if_neg (by omega), htree, Bool.false_and, if_neg Bool.false_ne_true, if_neg Bool.false_ne_true, if_pos hmay]

/-- A unicast chunk stands in its OUT slot and is posted to its peer. -/
theorem sendChunk_unicast {p j : Nat} {down bad : Bool} {bus : Option (List Byte)} {b : List Byte} {s1 s2 : State} {w : Nat}
    (hw : w = (if down then downFormat s g (scbEntry s g) else upFormat s g (scbEntry s g) l))
    (hdata : chunkData s g l p down bus = .ok (s1, b, bad))
    (hslot : memWrite s1 (gOwner s g) (landBase s g + outSlot s g l j ((scbPeer s g l j).sent % gSlots s g))
      (b ++ trailer s g (scbEntry s g) l down bad w (scbPeer s g l j).sent p b) [] = (s2, true)) :
    sendChunk s g l p down false [j] bus = .ok (scbPost (bumpFn (grpMod (scbPeerMod s2 g l j (fun P => { P with sent := P.sent + 1 })) g
      (fun G => { G with
        outs := G.outs ++ [⟨l, j, (scbPeer s g l j).sent, (b ++ trailer s g (scbEntry s g) l down bad w (scbPeer s g l j).sent p b).length⟩],
        waits := G.waits.filter (· ≠ l * 2 + b2n down), cursors := tmod (fun _ => 0) G.cursors (l * 2 + b2n down) (· + 1) }))
      Reg.SCB_CHUNK_TX (gOwner s g)) g (peerRec s g l j)
      (nfld (peerRec s g l j) 111 64 + inSlot s g l (myCoord s g l) ((scbPeer s g l j).sent % gSlots s g))
      (b ++ trailer s g (scbEntry s g) l down bad w (scbPeer s g l j).sent p b)) := by
  subst hw
  rw [sendChunk, List.headD_cons, hdata]
  simp only [bind, Except.bind, Bool.false_eq_true, if_false, hslot, Bool.not_true, List.foldl_cons, List.foldl_nil, List.length_singleton]

/-! ### Receiving (R302, R304, R308) -/

section
variable {j slot n : Nat} (bus : Option (List Byte)) {bs : List Byte} {sR : State}
  (hfind : s.scb.inbox.find? (fun x => x.1 = landBase s g + inSlot s g l j slot) = some (landBase s g + inSlot s g l j slot, n))
  (hl : l < 3) (hj : j < gSize s g l) (hslot : slot < gSlots s g) (hvalid : wbit (gent s g 0) 0 = true)
  (hread : memRead s (gOwner s g) (landBase s g + inSlot s g l j slot) n = (sR, .ok bs)) (hlen : 64 ≤ n)
  (hcrc : leAt (bs.drop (n - 64)) 56 8 = (crc64 (bs.take (n - 64) ++ (bs.drop (n - 64)).take 56)).toNat)
include hfind hl hj hslot hvalid hread hlen hcrc

/-- A consumed chunk that comes again is dropped. -/
theorem execChunkReceive_again (hseq : leAt (bs.drop (n - 64)) 16 8 < (scbPeer s g l j).consumed) :
    exec (.chunkReceive g l j slot bus) s =
      .next { sR with scb := { sR.scb with inbox := sR.scb.inbox.filter (fun x => x.1 ≠ landBase s g + inSlot s g l j slot) } } := by
  show execChunkReceive g l j slot bus s = _
  rw [execChunkReceive, hfind]
  dsimp only
  rw [hvalid, if_neg (by simp; omega), hread]
  dsimp only
  rw [if_neg (fun h => h.elim (by omega) (fun h => h hcrc)), if_pos (Or.inl hseq)]

/-- A chunk of the down pass of the running collective is taken and consumed. -/
theorem execChunkReceive_down (hseq : (scbPeer s g l j).consumed ≤ leAt (bs.drop (n - 64)) 16 8)
    (hextra : (scbPeer s g l j).extra.contains (leAt (bs.drop (n - 64)) 16 8) = false) (hst : (grp s g).st = 1)
    (hinst : (grp s g).inst = some (leAt (bs.drop (n - 64)) 0 4)) (hagrees : chunkAgrees s g l j (bs.drop (n - 64)) n = true)
    (hdown : nbit (leAt (bs.drop (n - 64)) 6 1) 2 = true) :
    exec (.chunkReceive g l j slot bus) s = .next (scbSettle s g (takeDown
      { sR with scb := { sR.scb with inbox := sR.scb.inbox.filter (fun x => x.1 ≠ landBase s g + inSlot s g l j slot) } } g
        (leAt (bs.drop (n - 64)) 32 8) (bs.take (n - 64)) (nbit (leAt (bs.drop (n - 64)) 6 1) 6) >>= fun s1 =>
        .ok (scbFinish (consumed s1 g l j (leAt (bs.drop (n - 64)) 16 8) (some true)) g))) := by
  show execChunkReceive g l j slot bus s = _
  rw [execChunkReceive, hfind]
  dsimp only
  rw [hvalid, if_neg (by simp; omega), hread]
  dsimp only
  rw [if_neg (fun h => h.elim (by omega) (fun h => h hcrc)),
    if_neg (fun h => h.elim (by omega) (fun h => absurd (hextra.symm.trans h) (by decide))), if_pos ⟨hst, hinst⟩, hagrees,
    if_neg (by decide), hdown, if_pos rfl]
end

/-- A release word raises what its peer has released. -/
theorem execReleaseWordReceive_raises {j : Nat} {bs : List Byte} {s1 : State} (hl : l < 3) (hj : j < gSize s g l)
    (hvalid : wbit (gent s g 0) 0 = true) (hthere : s.scb.inbox.any (fun x => x.1 = landBase s g + relWord s g l j) = true)
    (hread : memRead { s with scb := { s.scb with inbox := s.scb.inbox.filter (fun x => x.1 ≠ landBase s g + relWord s g l j) } }
      (gOwner s g) (landBase s g + relWord s g l j) 64 = (s1, .ok bs)) (hcrc : leAt bs 56 8 = (crc64 (bs.take 56)).toNat)
    (habort : nbit (leAt bs 4 1) 2 = false) (hrepair : nbit (leAt bs 4 1) 3 = false) (hidle : (grp s1 g).st = 0) :
    ∃ u, exec (.releaseWordReceive g l j) s = .next u ∧ (scbPeer u g l j).released = max (scbPeer s1 g l j).released (leAt bs 8 8) := by
  show ∃ u, execReleaseWordReceive g l j s = .next u ∧ _
  rw [execReleaseWordReceive, hvalid, hthere, if_neg (by simp; omega)]
  dsimp only at hread ⊢
  rw [hread]
  dsimp only
  rw [if_neg (fun h => h hcrc), hrepair, habort, if_neg (by decide), if_neg (by decide), scbFinish_idle]
  · exact ⟨_, rfl, by rw [scbPeer_grpMod, scbPeer_scbPeerMod]; exact fun _ => rfl⟩
  · rw [grp_grpMod, scbPeerMod, grp_grpMod, hidle]; decide

/-- A multicast cell of the next chunk is placed and noted. -/
theorem execMcCellReceive_noted {k : Packet} {j : Nat} {s1 : State} (hmc : k.cell.mc = true) (hopc : k.cell.opc = 0x0A)
    (hrun : running s = true) (hroot : mcRoot s k.cell = some (g, l, j)) (hfirst : k.cell.first = false) (hlast : k.cell.last = false)
    (hnext : (k.cell.msn + 2 ^ 24 - (scbPeer s g l j).consumed % 2 ^ 24) % 2 ^ 24 = 0) (hslots : 0 < gSlots s g)
    (hextra : (scbPeer s g l j).extra = [])
    (hwrite : memWrite s (gOwner s g) (landBase s g + inSlot s g l j ((scbPeer s g l j).consumed % max 1 (gSlots s g)) +
      512 * k.cell.offset) (padTo 512 k.cell.payload) k.cell.poison = (s1, true)) (hoff : 512 * k.cell.offset < 8256)
    (hnone : s1.scb.mc = []) :
    exec (.mcCellReceive k) s = .next
      { s1 with scb := { s1.scb with mc := [⟨g, l, j, (scbPeer s g l j).consumed, [k.cell.offset], none⟩] } } := by
  show execMcCellReceive k s = _
  rw [execMcCellReceive, hmc, hopc, hrun, if_neg (by decide), hroot]
  dsimp only
  rw [hnext, hextra, hfirst, hlast, if_neg (by simp; omega)]
  simp only [Nat.add_zero, Bool.or_self, Bool.false_eq_true, if_false]
  rw [hwrite]
  dsimp only
  rw [if_neg (by simp; omega), hnone]
  rfl

/-- A chunk that does not come is asked for (R313). -/
theorem execRepairTimeout_asks {j : Nat} (hst : (grp s g).st = 1) (htree : (recMc (peerRec s g l j) l).2 = true)
    (hpeer : (levelPeers s g l).contains j = true) (hleft : (scbPeer s g l j).down < downFrom s g (scbEntry s g) l j) :
    exec (.repairTimeout g l j) s = .next (askRepair s g l j (scbPeer s g l j).consumed) :=
  if_pos (by rw [hst, htree, hpeer, decide_eq_true hleft]; rfl)
end
end

/-- Settles O29: each clause is one branch of one of Scarab's steps; a chunk goes the way of `sendChunk_unicast`. -/
theorem collectives : Obligations.Collectives := by
  refine ⟨fun q idx e bs s s1 hhanded => execMemberListRead_first hhanded,
    fun q idx e bus s hhanded hready hroom hlist => execCollectiveStart_starts hhanded bus hready hroom hlist,
    fun q idx e st bus s hhanded hready hroom hlist => execCollectiveStart_fails hhanded bus hready hroom hlist,
    fun g l bus s e n cur j he hn hcur hj hst hl hpeers hleft hmay =>
      execChunkSend_unicast false bus he hn hcur hj rfl hst hl hpeers hleft rfl hmay,
    ?_,
    fun g l j slot n bus bs s sR => execChunkReceive_again bus,
    fun g l j slot n bus bs s sR => execChunkReceive_down bus,
    fun g l j bs s s1 => execReleaseWordReceive_raises,
    fun k g l j s s1 hmc hopc hrun hroot hfirst hlast hnext hslots hextra _ hwrite hoff hnone =>
      execMcCellReceive_noted hmc hopc hrun hroot hfirst hlast hnext hslots hextra hwrite hoff hnone,
    fun g l j s => execRepairTimeout_asks, fun g s => rfl⟩
  intro g l down bus s e n cur j list p s1 b bad s2 sent w he hn hcur hj hlist hw hp hsent hst hl hpeers hleft htree hmay hdata hslot
  rw [execChunkSend_unicast down bus he hn hcur hj hlist hst hl hpeers hleft htree hmay]
  subst hp hsent he
  rw [sendChunk_unicast hw hdata hslot]
  rfl

end Sys2Proof.Proofs
end

section
/-! PROOFS. The invoke dispatcher and the tiles it starts and loses. O30. -/
namespace Sys2Proof.Proofs
open Sys2Proof.Machine Sys2Proof.Safety Sys2Proof.Laws

/-- A counter of a function leaves the grid alone. -/
@[simp] theorem bumpFn_tgd (s : State) (off fn : Nat) : (bumpFn s off fn).tgd = s.tgd := by
  rw [bumpFn, bumpFnBy]
  split <;> rfl

@[simp] theorem absentReport_tgd (s : State) (t inst : Nat) : (absentReport s t inst).tgd = s.tgd :=
  (absentReport_keeps s t inst (keeps_refl _ s) (sub_refl _)).tgd (by decide)

@[simp] theorem spareReport_tgd (s : State) (kind unit inst left : Nat) (brought : Option Nat) :
    (spareReport s kind unit inst left brought).tgd = s.tgd :=
  (spareReport_keeps s kind unit inst left brought (keeps_refl _ s) (sub_refl _)).tgd (by decide)

/-- States of the same grid have the same tiles. -/
theorem tile_congr {s u : State} (h : u.tgd = s.tgd) (t : Nat) : tile u t = tile s t := by rw [tile, h, tile]

section
variable {s : State} {t : Nat}

/-! ### Invocations (R331, R333, R337) -/

/-- A complete argument is written as records, and its message is finished. -/
theorem execInvokeRecordWrite_writes {c msn h : Nat} {m : RecvMsg} {i : Invocation} (hmsg : recvMsg s c msn = some m)
    (hhandle : handleOf s c msn = some h) (hinv : invocation s h = some i) (hexec : m.executed = true) (hnew : i.written = false)
    (hopen : i.status = none) (hlive : m.complete = false) (hpend : m.pend = []) (hwhole : unitsOf m.len ≤ m.covered.length) :
    ∃ u args, exec (.invokeRecordWrite c msn) s = .next u ∧
      args = argWords ((List.range m.len).map (fun k => tget (fun _ => (0 : Byte)) m.staging k))
        (m.pendData.flatMap (fun d => marksUp d.2.2 (512 * d.1))) ((m.len + 7) / 8) 0 ∧
      u = finishRecv { (writeRecords (invMod s h (fun i => { i with written := true })) h { i with written := true } args 0 i.tiles) with
        tgd := { (writeRecords (invMod s h (fun i => { i with written := true })) h { i with written := true } args 0 i.tiles).tgd with
          staging := (writeRecords (invMod s h (fun i => { i with written := true })) h { i with written := true } args 0 i.tiles).tgd.staging
            - b2n (decide (0 < m.len)) } } c msn Status.ok := by
  refine ⟨_, _, ?_, rfl, rfl⟩
  show execInvokeRecordWrite c msn s = _
  rw [execInvokeRecordWrite, hmsg, hhandle]
  dsimp only
  rw [hinv]
  dsimp only
  rw [if_neg (by simp [hexec, hnew, hopen, hlive, hpend, hwhole])]

/-- An invocation whose outcome is known ends. -/
theorem execInvocationEnd_known {h : Nat} {i : Invocation} (hinv : invocation s h = some i) (hlive : i.live = [])
    (hwritten : i.written = true) (hknown : outcomeKnown s i = true) : exec (.invocationEnd h) s =
      .next { s with tgd := { s.tgd with staging := s.tgd.staging - 0, invs := s.tgd.invs.filter (fun x => x.1 ≠ h) } } := by
  show execInvocationEnd h s = _
  rw [execInvocationEnd, hinv]
  dsimp only
  rw [hwritten, if_neg (fun h => absurd h.1 (by decide)), if_pos ⟨hlive, hknown⟩]
  rfl

/-! ### A tile's start and its limit (R334, R338, R343) -/

/-- An IDLE tile takes the record at the head of a channel and begins at ENTRY. -/
theorem execTileStart_starts {ch h : Nat} {i : Invocation} (hfirst : firstRecord s (tileQ t ch) = some h)
    (hinv : invocation s h = some i) (hidle : (tile s t).st = 2) :
    ∃ u, exec (.tileStart t ch) s = .next u ∧ (tile u t).st = 3 ∧ (tile u t).pc = kEntry s i.kernel ∧ (tile u t).handle = h ∧
      (tile u t).kernel = i.kernel ∧ (tile u t).ch = ch ∧ (tile u t).argLeft = (i.argLen + 7) / 8 ∧
      (tile u t).onSpare = (tile s t).onSpare := by
  show ∃ u, execTileStart t ch s = .next u ∧ _
  rw [execTileStart]
  dsimp only
  rw [hfirst]
  dsimp only
  rw [hinv]
  dsimp only
  rw [if_neg (fun h => h hidle)]
  refine ⟨_, rfl, ?_⟩
  rw [tile_congr (bumpFn_tgd _ _ _) t, tile_tileMod]
  exact ⟨rfl, rfl, rfl, rfl, rfl, rfl, rfl⟩

/-- LIMIT stops a running tile. -/
theorem execKernelLimit_stops (hrun : (tile s t).st = 3) (hstop : (tile s t).stopping = false) :
    exec (.kernelLimit t) s = .next (kernelDown s t 0x0C (tile s t).pc 0 Reg.TGD_LIMIT_STOP 0) := if_pos ⟨hrun, hstop⟩

/-! ### Failure and remap (R323, R324) -/

/-- The spare that a failed tile goes to: one of its quadrant first. -/
def sparePick (s : State) (t : Nat) : Option Nat :=
  (s.tgd.spares.find? (fun x => siteQuad x = siteQuad (tile s t).site)).or s.tgd.spares.head?

/-- A spare is picked while there is one. -/
theorem sparePick_isSome (hspares : s.tgd.spares ≠ []) : ∃ x, sparePick s t = some x := by
  refine Option.isSome_iff_exists.mp ?_
  rw [sparePick, Option.isSome_or, List.isSome_head?.mpr hspares, Bool.or_true]

/-- What is picked is a spare, and of the tile's quadrant where one is. -/
theorem sparePick_spec {x : Nat} (hpick : sparePick s t = some x) : x ∈ s.tgd.spares ∧
    ((∃ y ∈ s.tgd.spares, siteQuad y = siteQuad (tile s t).site) → siteQuad x = siteQuad (tile s t).site) := by
  rcases Option.or_eq_some_iff.mp hpick with hfound | ⟨hnone, hhead⟩
  · exact ⟨List.mem_of_find?_eq_some hfound, fun _ => by simpa using List.find?_some hfound⟩
  · exact ⟨List.mem_of_head? hhead, fun ⟨y, hy, hquad⟩ => absurd hquad (by simpa using List.find?_eq_none.mp hnone y hy)⟩

/-- A tile that is bound to a spare site, with the spares that are left. -/
def spareBound (s : State) (t x : Nat) (left : List Nat) : State :=
  { (tileMod s t (fun _ => { st := 4, onSpare := true, site := x })) with
    tgd := { (tileMod s t (fun _ => { st := 4, onSpare := true, site := x })).tgd with spares := left } }

@[simp] theorem tile_spareBound (s : State) (t x : Nat) (left : List Nat) :
    tile (spareBound s t x left) t = { st := 4, onSpare := true, site := x } := tile_tileMod s t (fun _ => { st := 4, onSpare := true, site := x })

/-- A failed tile is bound to the spare that is picked. -/
theorem execTileFailure_remaps {x : Nat} (hthere : (tile s t).st ≠ 0) (hpick : sparePick s t = some x) :
    ∃ v, exec (.tileFailure t) s = .next (spareReport (spareBound v t x (s.tgd.spares.filter (· ≠ x))) 2 9 t
      (s.tgd.spares.filter (· ≠ x)).length (some x)) := by
  show ∃ v, execTileFailure t s = _
  rw [execTileFailure]
  dsimp only
  rw [if_neg hthere]
  rcases Option.or_eq_some_iff.mp hpick with hfound | ⟨hnone, hhead⟩
  · rw [hfound]
    exact ⟨_, rfl⟩
  · rw [hnone, hhead]
    exact ⟨_, rfl⟩

/-- With no spare left a failed tile is ABSENT. -/
theorem execTileFailure_absent (hthere : (tile s t).st ≠ 0) (hnone : s.tgd.spares = []) :
    ∃ u, exec (.tileFailure t) s = .next u ∧ (tile u t).st = 0 := by
  show ∃ u, execTileFailure t s = .next u ∧ _
  rw [execTileFailure]
  dsimp only
  rw [if_neg hthere, hnone]
  refine ⟨_, rfl, ?_⟩
  rw [tile_congr ((keeps_foldl (m := 0x8002000e200) (keeps_refl _ _) fun _ _ h => absentReport_keeps _ _ _ h (sub_refl _)).tgd (by decide)),
    tile_congr (absentReport_tgd _ _ _), tile_congr (spareReport_tgd _ _ _ _ _ _), tile_tileMod]

/-- A remap that is done starts to clear. -/
theorem execTileRemapDone_clears (hremap : (tile s t).st = 4) : ∃ u, exec (.tileRemapDone t) s = .next u ∧ (tile u t).st = 1 ∧
    (tile u t).site = (tile s t).site ∧ regN u Reg.TGD_REMAP 0 = wrap32 (regN s Reg.TGD_REMAP 0 + 1) := by
  refine ⟨_, if_pos hremap, ?_, ?_, regN_bump _ _ _⟩
  · exact congrArg Tile.st (tile_tileMod s t (fun T => { T with st := 1 }))
  · exact (congrArg Tile.site (tile_tileMod s t (fun T => { T with st := 1 })) :)
end

/-- Settles O30: each clause is one branch of a command of the grid; `sparePick` names the spare that a failed tile goes to. -/
theorem tileDispatch : Obligations.TileDispatch := by
  refine ⟨fun c msn m h i s => execInvokeRecordWrite_writes, fun t ch h i s => execTileStart_starts, fun t s => execKernelLimit_stops,
    fun h i s => execInvocationEnd_known, fun t s hthere hspares => ?_, fun t s => execTileFailure_absent,
    fun t s => execTileRemapDone_clears⟩
  obtain ⟨x, hpick⟩ := sparePick_isSome (t := t) hspares
  obtain ⟨v, hv⟩ := execTileFailure_remaps hthere hpick
  rw [hv]
  refine ⟨_, rfl, ?_⟩
  rw [tile_congr (spareReport_tgd _ _ _ _ _ _), spareReport_tgd, tile_spareBound]
  exact ⟨rfl, rfl, (sparePick_spec hpick).1, rfl, (sparePick_spec hpick).2⟩

end Sys2Proof.Proofs
end

section
/-! PROOFS. The commands of the shared queue memory and of Firefly. O31. -/
namespace Sys2Proof.Proofs
open Sys2Proof.Machine Sys2Proof.Safety Sys2Proof.Laws

@[simp] theorem fnGet_fnMod (s : State) (fn : Nat) (f : Fn → Fn) : fnGet (fnMod s fn f) fn = f (fnGet s fn) :=
  tget_tset_same _ _ _ _

section
variable {s : State}

/-! ### Pushes and pops of SQM (R393, R394, R397) -/

/-- A push to an own mailbox enters it. -/
theorem execSqmPush_own {fn : Nat} (value : W64) (hup : blockUp (dropHeld s fn) fn = true)
    (hown : ownBox (dropHeld s fn) fn (selSqm (dropHeld s fn) fn) = true) (hbox : selSqm (dropHeld s fn) fn ≠ rspIn fn) :
    exec (.sqmPush fn value) s = .next (sqmPush (dropHeld s fn) (selSqm (dropHeld s fn) fn) value) := by
  show execSqmPush fn value s = _
  rw [execSqmPush, hup, hown, if_neg (by decide), if_pos rfl]
  exact congrArg _ (if_neg hbox)

/-- Any other push sets REFUSED and touches no queue. -/
theorem execSqmPush_refused {fn : Nat} (value : W64) (hup : blockUp (dropHeld s fn) fn = true)
    (hother : ownBox (dropHeld s fn) fn (selSqm (dropHeld s fn) fn) = false) :
    ∃ u, exec (.sqmPush fn value) s = .next u ∧ u.sqm = s.sqm ∧ (fnGet u fn).popTag = (fnGet s fn).popTag % 8 + 8 := by
  show ∃ u, execSqmPush fn value s = .next u ∧ _
  rw [execSqmPush, hup, hother, if_neg (by decide), if_neg (by decide)]
  exact ⟨_, rfl, rfl, by rw [fnGet_fnMod, fnGet_dropHeld]⟩

/-- An 8-byte pop of an own mailbox returns the head word and latches its tag. -/
theorem execSqmPop_own {fn : Nat} (bad : Bool) (hhost : hostUp s = true) (hfn : fnExists s fn = true) (hrun : running s = true)
    (hown : ownBox s fn (selSqm s fn) = true) (hbox : selSqm s fn ≠ rspOut fn) :
    exec (.sqmPop fn 8 bad) s = .next (emit (fnMod (sqmPop s (selSqm s fn) bad).1 fn (fun F =>
      { F with popTag := (sqmPop s (selSqm s fn) bad).2.tag + 4 * b2n (sqmPop s (selSqm s fn) bad).2.underrun }))
      (.regData fn (sqmPop s (selSqm s fn) bad).2.word)) := by
  show execSqmPop fn 8 bad s = _
  rw [execSqmPop, hhost, hfn, hrun, hown, if_neg (by decide), if_neg (by decide), if_pos rfl]
  exact congrArg _ (if_neg hbox)

/-! ### Suspect windows (R482) -/

section
variable {qi node : Nat} {w : Suspect} {rest : List Suspect}

/-- A window of one report closes without another record. -/
theorem execSuspectWindowClose_one (hwindow : takeFirst (fun w : Suspect => w.queue = qi ∧ w.node = node) s.fev.windows = some (w, rest))
    (hone : w.count ≤ 1) : exec (.suspectWindowClose qi node) s = .next { s with fev := { s.fev with windows := rest } } := by
  show execSuspectWindowClose qi node s = _
  rw [execSuspectWindowClose, hwindow]
  exact congrArg _ (if_pos hone)

/-- A window of several reports in the fault queue writes one merged record. -/
theorem execSuspectWindowClose_merged (hwindow : takeFirst (fun w : Suspect => w.queue = 0 ∧ w.node = node) s.fev.windows = some (w, rest))
    (hmany : 1 < w.count) : exec (.suspectWindowClose 0 node) s = .next (fevWrite { s with fev := { s.fev with windows := rest } }
      (peerRecord node w.tenant w.status w.first w.count (some s.time)) 0) := by
  show execSuspectWindowClose 0 node s = _
  rw [execSuspectWindowClose, hwindow]
  exact congrArg _ ((if_neg (by omega)).trans (if_neg (fun h => h.1 rfl)))
end

/-! ### Record queues (R478, R486, R487) -/

/-- An 8-byte read of the fault queue pops it, and a 4-byte one returns 0. -/
theorem execFaultQueuePop_cases (bad : Bool) (hhost : hostUp s = true) :
    exec (.faultQueuePop 8 bad) s = .next (fevPop 0 0 bad s) ∧ exec (.faultQueuePop 4 bad) s = .next (emit s (.regData 0 0)) := by
  constructor
  · show execFaultQueuePop 8 bad s = _
    rw [execFaultQueuePop, hhost, if_neg (by decide), if_pos rfl]
  · show execFaultQueuePop 4 bad s = _
    rw [execFaultQueuePop, hhost, if_neg (by decide), if_neg (by decide)]

/-- An 8-byte read of an event queue pops it, and a 4-byte one returns 0. -/
theorem execEventQueuePop_cases {fn : Nat} (bad : Bool) (hhost : hostUp s = true) (hfn : fnExists s fn = true) :
    exec (.eventQueuePop fn 8 bad) s = .next (fevPop (1 + fn) fn bad s) ∧
    exec (.eventQueuePop fn 4 bad) s = .next (emit s (.regData fn 0)) := by
  constructor
  · show execEventQueuePop fn 8 bad s = _
    rw [execEventQueuePop, hhost, hfn, if_neg (by decide), if_pos rfl]
  · show execEventQueuePop fn 4 bad s = _
    rw [execEventQueuePop, hhost, hfn, if_neg (by decide), if_neg (by decide)]

/-- Management reads the oldest unread copy. -/
theorem execStandbyCopyRead_unread (hmctp : mctpUp s = true) (hunread : s.fev.unread ≠ 0) :
    exec .standbyCopyRead s = .next (emit { s with fev := { s.fev with unread := s.fev.unread - 1 } }
      (.standby (s.fev.standby.getD (s.fev.unread - 1) []))) := by
  show execStandbyCopyRead s = _
  rw [execStandbyCopyRead, hmctp, if_neg (by decide), if_neg hunread]

/-- MG_ALERT_N stays asserted while another copy is unread. -/
theorem mgAlert_standbyRead (hunread : s.fev.unread ≠ 0) (o : Output) :
    mgAlert (emit { s with fev := { s.fev with unread := s.fev.unread - 1 } } o) = (s.pw.stby && decide (s.fev.unread ≠ 1)) :=
  congrArg (s.pw.stby && ·) (decide_eq_decide.mpr (show s.fev.unread - 1 ≠ 0 ↔ s.fev.unread ≠ 1 by omega))

/-- A record that finds room in the fault queue is stored, and the queue's message may go. -/
theorem fevStore_fault {t p : State} {r : Report} {ws : List W64}
    (ht : t = fevQMod s 0 (fun q => { q with rseq := (fevQ s 0).rseq + 1 }))
    (hws : ws = recordWords t r 0 (fevC t 0 r.cls).held ((fevQ s 0).rseq + 1))
    (hpush : sqmPushAll (standbyCopy t r ws) 0 (ws.map (fun w => ⟨w, 0⟩)) = (p, true)) :
    fevStore s r 0 = fevIrq (fevCMod p 0 r.cls (fun c => { c with written := wrap32 (c.written + 1), held := 0 })) 0 r.sev := by
  subst ht hws
  rw [fevStore, if_pos rfl, fevSqm, if_pos rfl, hpush, if_pos rfl]

/-- A class of the fault queue alone is written there. -/
theorem report_faultOnly {r : Report} (hcls : 0 < r.cls) (hlast : r.cls ≤ 0x13) (hfault : toFaultQueue r.cls = true)
    (hevent : toEventQueue r.cls = false) : report s r = fevWrite s r 0 := by
  rw [report, if_neg (by omega), hfault, hevent, if_pos rfl, if_neg (by decide)]

/-- A FATAL record takes nothing from the rate. -/
theorem fevWrite_fatal {r : Report} (hsev : r.sev = 3) (qi : Nat) :
    fevWrite s r qi = fevStore (fevQMod s qi (fun q => { q with summary := q.summary ||| BitVec.ofNat 20 (2 ^ r.cls) })) r qi := by
  rw [fevWrite, if_pos hsev]
end

/-- Settles O31: each clause is one branch of a command; a fatal report is `report_faultOnly`, `fevWrite_fatal` and `fevStore_fault`. -/
theorem mailboxesFaultsAndEvents : Obligations.MailboxesFaultsAndEvents := by
  refine ⟨fun fn value s => execSqmPush_own value, fun fn value s => execSqmPush_refused value, fun fn bad s => execSqmPop_own bad,
    fun r s => rfl, fun qi node w rest s => execSuspectWindowClose_one, fun node w rest s => execSuspectWindowClose_merged,
    fun node s => rfl, fun bad s => execFaultQueuePop_cases bad, fun fn bad s => execEventQueuePop_cases bad,
    fun s hmctp hunread => ⟨_, execStandbyCopyRead_unread hmctp hunread, rfl, rfl, mgAlert_standbyRead hunread _⟩, ?_⟩
  intro r s u t ws p hcls hlast hfault hevent hsev hu ht hws hpush
  subst hu
  refine congrArg Host.Outcome.next ?_
  rw [report_faultOnly hcls hlast hfault hevent, fevWrite_fatal hsev, fevStore_fault ht hws hpush, hsev]

end Sys2Proof.Proofs
end

section
/-! PROOFS. The boot record, and the boot from main good to RUNNING. O4. -/
namespace Sys2Proof.Proofs
open Sys2Proof.Machine Sys2Proof.Safety Sys2Proof.Laws

/-! ### The boot record (R445) -/

/-- A copy that is written is whole. -/
theorem copyOk_mk (r : BootRec) : copyOk ⟨r, crc32 (recBytes r)⟩ = true := decide_eq_true rfl

/-- A copy that is written with a higher SEQ is the one in force. -/
theorem bootRec_recWrite (s : State) (f : BootRec → BootRec) :
    bootRec (recWrite s f) = { f (bootRec s) with seq := (bootRec s).seq + 1 } := by
  have hseq : ∀ r : BootRec, ¬ r.seq + 1 < r.seq := fun r => by omega
  cases hB : recInB s.flash with
  | true =>
    have hok : copyOk s.flash.recB = true := by
      rw [recInB] at hB
      exact (Bool.and_eq_true_iff.mp hB).1
    have hA : ∀ c : BootCopy, copyOk c = true → c.body.seq = (bootRec s).seq + 1 → recInB { s.flash with recA := c } = false := by
      intro c hc hcseq
      have hs : bootRec s = s.flash.recB.body := if_pos hB
      rw [recInB, hok, hc, hcseq, hs]
      simp
    rw [recWrite, if_pos hB, bootRec]
    exact if_neg (by rw [hA _ (copyOk_mk _) rfl]; decide)
  | false =>
    have hB' : ∀ c : BootCopy, copyOk c = true → c.body.seq = (bootRec s).seq + 1 → recInB { s.flash with recB := c } = true := by
      intro c hc hcseq
      have hs : bootRec s = s.flash.recA.body := if_neg (by rw [hB]; decide)
      rw [recInB, hc, hcseq, hs]
      simp
    rw [recWrite, if_neg (by rw [hB]; decide), bootRec]
    exact if_pos (hB' _ (copyOk_mk _) rfl)

/-- States of the same flash have the same boot record in force. -/
theorem bootRec_congr {s u : State} (h : u.flash = s.flash) : bootRec u = bootRec s := by rw [bootRec, h, bootRec]

/-- A report leaves the flash alone. -/
@[simp] theorem report_flash (s : State) (r : Report) : (report s r).flash = s.flash :=
  (report_keeps s r (keeps_refl _ s) (sub_refl _)).flash (by decide)

/-- A failed boot leaves FAILS one higher in the record, and at most 3. -/
theorem bootRec_bootFail (s : State) (reason : Nat) : (bootRec (bootFail s reason)).fails = min 3 ((bootRec s).fails + 1) := by
  have hrec : bootRec (bootFail s reason) = bootRec (recWrite s (fun r => { r with fails := min 3 (r.fails + 1), prev := reason })) := by
    rw [bootRec, bootFail, fullReset, report_flash]
    rfl
  rw [hrec, bootRec_recWrite]

/-! ### The controllers (R371, R437) -/

@[simp] theorem ctrl_ctrlMod (s : State) (c : Nat) (f : Controller → Controller) : ctrl (ctrlMod s c f) c = f (ctrl s c) :=
  tget_tset_same _ _ _ _

theorem ctrl_ctrlMod_other (s : State) {c d : Nat} (f : Controller → Controller) (h : d ≠ c) : ctrl (ctrlMod s c f) d = ctrl s d :=
  tget_tset_other _ _ _ h

/-- A controller that is present takes a state. -/
def controllerSet (f : Nat → Nat) (s : State) (c : Nat) : State :=
  if ctrlPresent s.variant c then ctrlMod s c (fun C => { C with state := f c }) else s

@[simp] theorem controllerSet_variant (f : Nat → Nat) (s : State) (c : Nat) : (controllerSet f s c).variant = s.variant := by
  rw [controllerSet]
  split <;> rfl

/-- Its state is then the one it was given. -/
theorem ctrl_controllerSet (f : Nat → Nat) {s : State} {c : Nat} (hthere : ctrlPresent s.variant c = true) :
    (ctrl (controllerSet f s c) c).state = f c := by
  rw [controllerSet, if_pos hthere, ctrl_ctrlMod]

/-- A controller that has its state keeps it. -/
theorem ctrl_controllerSet_again (f : Nat → Nat) {s : State} {c : Nat} (d : Nat) (hset : (ctrl s c).state = f c) :
    (ctrl (controllerSet f s d) c).state = f c := by
  rw [controllerSet]
  split
  · by_cases hcd : c = d
    · subst hcd; rw [ctrl_ctrlMod]
    · rw [ctrl_ctrlMod_other _ _ hcd, hset]
  · exact hset

/-- So it does while others take theirs. -/
theorem ctrl_foldl_again (f : Nat → Nat) {s : State} {c : Nat} (l : List Nat) (hset : (ctrl s c).state = f c) :
    (ctrl (l.foldl (controllerSet f) s) c).state = f c := by
  induction l generalizing s with
  | nil => exact hset
  | cons d r ih => exact ih (ctrl_controllerSet_again f d hset)

/-- A controller of the list that is present has its state afterwards. -/
theorem ctrl_foldl (f : Nat → Nat) {l : List Nat} {s : State} {c : Nat} (hc : c ∈ l) (hthere : ctrlPresent s.variant c = true) :
    (ctrl (l.foldl (controllerSet f) s) c).state = f c := by
  induction l generalizing s with
  | nil => cases hc
  | cons d r ih =>
    rcases List.mem_cons.mp hc with rfl | hr
    · exact ctrl_foldl_again f r (ctrl_controllerSet f hthere)
    · exact ih hr (by rw [controllerSet_variant]; exact hthere)

/-- Every controller that is present takes its state. -/
theorem ctrl_setControllers (f : Nat → Nat) {s : State} {c : Nat} (hc : c < 24) (hthere : ctrlPresent s.variant c = true) :
    (ctrl (setControllers s f) c).state = f c := ctrl_foldl f (List.mem_range.mpr hc) hthere

/-- The boot's own stage is no part of the controllers. -/
theorem ctrl_goesOn (s : State) (b : Boot) (c : Nat) : ctrl { s with boot := b } c = ctrl s c := rfl

section
variable {s : State}

/-! ### The boot (R415, R437, R440, R441, R443) -/

/-- The main domain that is good starts stage MAIN. -/
theorem execMainDomainGood_starts (hdead : s.boot.dead = false) (hstby : s.pw.stby = true) (hv48 : s.pw.v48 = true)
    (hoff : s.pw.mainOn = false) (helected : s.boot.firstClaim ≠ none) :
    exec (.mainDomainGood true) s = .next (partMeasured (partMeasured (startMain (reportShutdown
      { s with pw := { s.pw with mainOn := true }, boot := { s.boot with mainGoodAt := s.time } })) 7) 8) := by
  show execMainDomainGood true s = _
  rw [execMainDomainGood, if_neg (by simp [hdead, hstby, hv48, hoff, helected])]
  exact congrArg _ (if_pos (Or.inl rfl))

section
variable {failed : List Nat} (hon : s.pw.mainOn = true) (hperst : s.pw.perst = false) (hfull : s.boot.minimal = false)
  (hmain : s.boot.stage = .main)
include hon hperst hfull hmain

/-- Trained memory enters stage MEMORY. -/
theorem execMemoryTrained_enters (hall : failed.filter (ctrlPresent s.variant) = []) :
    ∃ t, exec (.memoryTrained failed) s = .next t ∧ t.boot.stage = .memory ∧
      ∀ c < 24, ctrlPresent s.variant c = true → (ctrl t c).state = 2 := by
  show ∃ t, execMemoryTrained failed s = .next t ∧ _
  rw [execMemoryTrained, hon, hperst, hfull, hmain, hall, if_neg (by decide), if_neg (by decide), if_neg (fun h => h rfl),
    if_neg (fun h => h rfl)]
  exact ⟨_, rfl, rfl, fun c hc hthere => (congrArg Controller.state (ctrl_goesOn _ _ c)).trans (ctrl_setControllers _ hc hthere)⟩

/-- An untrained controller fails the boot. -/
theorem execMemoryTrained_fails (hbad : failed.filter (ctrlPresent s.variant) ≠ []) :
    ∃ t, exec (.memoryTrained failed) s = .next t ∧ t.boot.prev = 0x12 ∧ t.pw.mainOn = false ∧
      (bootRec t).fails = min 3 ((bootRec s).fails + 1) := by
  show ∃ t, execMemoryTrained failed s = .next t ∧ _
  rw [execMemoryTrained, hon, hperst, hfull, hmain, if_neg (by decide), if_neg (by decide), if_neg (fun h => h rfl), if_pos hbad]
  refine ⟨_, rfl, rfl, rfl, ?_⟩
  rw [bootRec_bootFail, bootRec_congr ((setControllers_keeps s _ (keeps_refl _ s) (sub_refl _)).flash (by decide))]
end

section
variable (hunits : s.boot.stage = .units)
include hunits

/-- Units that are ready reach RUNNING and clear FAILS. -/
theorem execUnitsReady_running : ∃ t, exec (.unitsReady true true) s = .next t ∧ t.boot.stage = .running ∧ t.boot.selftestOk = true ∧
    t.boot.bootMs = (s.time - s.boot.mainGoodAt) / 1000000 ∧ (bootRec t).fails = 0 := by
  show ∃ t, execUnitsReady true true s = .next t ∧ _
  rw [execUnitsReady, hunits, if_neg (fun h => h rfl), if_neg (by decide), if_neg (by decide)]
  refine ⟨_, rfl, ?_⟩
  split
  case isTrue hfails => exact ⟨rfl, rfl, rfl, hfails⟩
  case isFalse => exact ⟨rfl, rfl, rfl, congrArg BootRec.fails (bootRec_recWrite _ _)⟩

/-- A failed RSP link or self-test fails the boot with its reason. -/
theorem execUnitsReady_fails {link test : Bool} (hbad : (link && test) = false) :
    exec (.unitsReady link test) s = .next (bootFail s (if link then 0x13 else 0x15)) := by
  show execUnitsReady link test s = _
  rw [execUnitsReady, hunits, if_neg (fun h => h rfl)]
  cases link with
  | false => rfl
  | true => exact (if_neg (by decide)).trans (if_pos hbad)
end

/-- A boot timeout fails the boot. -/
theorem execBootTimeout_fails (hstage : s.boot.stage = .main ∨ s.boot.stage = .memory ∨ s.boot.stage = .units) :
    exec .bootTimeout s = .next (bootFail s 0x14) := by
  show execBootTimeout s = _
  rw [execBootTimeout]
  rcases hstage with h | h | h <;> rw [h]

/-- In minimal mode, once the entry scrub is over, RETRY clears FAILS and forces a full reset. -/
theorem execBootCtlRetry_minimal (hminimal : s.boot.minimal = true) (hscrubbed : s.boot.scrubbed = true) :
    exec .bootCtlRetry s = .next (fullReset (recWrite (dropHeld s 0) (fun r => { r with fails := 0 })) 0x02) :=
  if_pos ⟨hminimal, hscrubbed⟩
end

/-- Settles O4: each clause is one branch of a command of the boot; the record in force after a write is the one written
(`bootRec_recWrite`). -/
theorem bootStagesAndControl : Obligations.BootStagesAndControl := by
  refine ⟨fun s => execMainDomainGood_starts, fun failed s => execMemoryTrained_enters, fun failed s => execMemoryTrained_fails,
    fun s => execUnitsReady_running, fun link test s hunits => execUnitsReady_fails hunits, fun s => execBootTimeout_fails,
    fun s => rfl, fun s => execBootCtlRetry_minimal⟩

end Sys2Proof.Proofs
end

section
/-! PROOFS. Configuration transactions, and the step. O14, O15, O16, O46. -/
namespace Sys2Proof.Proofs
open Sys2Proof.Machine Sys2Proof.Safety Sys2Proof.Laws

@[simp] theorem fnGet_bump (s : State) (off idx fn : Nat) : fnGet (bump s off idx) fn = fnGet s fn := rfl

/-- The order of commits is no part of a function's state. -/
theorem fnGet_commits (s : State) (l : List Commit) (fn : Nat) : fnGet { s with commits := l } fn = fnGet s fn := rfl

section
variable {s : State} {fn : Nat}

/-! ### COMMIT, ROLLBACK and the timeout (R461) -/

section
variable {T : Txn} (hup : cfgUp (dropHeld s fn) fn = true) (hidle : (fnGet s fn).cfgBusy = false) (hopen : (fnGet s fn).txn = some T)
include hup hidle hopen

/-- A COMMIT with a wrong token is ignored and reads BAD_TOKEN. -/
theorem execTxnCommit_badToken {token : Nat} (save : Bool) (hwrong : token ≠ T.token) : exec (.txnCommit fn token save) s =
    .next (fnMod (dropHeld s fn) fn (fun F => { F with cfgResult := 5, txn := some { T with touched := s.time } })) := by
  show execTxnCommit fn token save s = _
  rw [execTxnCommit, if_pos hup, txCommit, fnGet_dropHeld]
  dsimp only
  rw [hidle, if_neg (by decide), hopen]
  exact congrArg _ (if_pos hwrong)

/-- So is a ROLLBACK. -/
theorem execTxnRollback_badToken {token : Nat} (hwrong : token ≠ T.token) : exec (.txnRollback fn token) s =
    .next (fnMod (dropHeld s fn) fn (fun F => { F with cfgResult := 5, txn := some { T with touched := s.time } })) := by
  show execTxnRollback fn token s = _
  rw [execTxnRollback, if_pos hup, txRollback, fnGet_dropHeld]
  dsimp only
  rw [hidle, if_neg (by decide), hopen]
  exact congrArg _ (if_pos hwrong)

/-- ROLLBACK with the token discards the staged writes. -/
theorem execTxnRollback_closes : exec (.txnRollback fn T.token) s =
    .next (fnMod (dropHeld s fn) fn (fun F => { F with txn := none, cfgResult := 0x0A })) := by
  show execTxnRollback fn T.token s = _
  rw [execTxnRollback, if_pos hup, txRollback, fnGet_dropHeld]
  dsimp only
  rw [hidle, if_neg (by decide), hopen]
  exact congrArg _ (if_neg (fun h => h rfl))

/-- COMMIT with the token closes the transaction and takes its place in the order of commits. -/
theorem execTxnCommit_takesPlace (save : Bool) : exec (.txnCommit fn T.token save) s =
    .next { (fnMod (dropHeld s fn) fn (fun F => { F with txn := none, cfgBusy := true, cfgResult := 9 })) with
      commits := s.commits ++ [{ fn := fn, txn := T, save := save && decide (fn = 0) }] } := by
  show execTxnCommit fn T.token save s = _
  rw [execTxnCommit, if_pos hup, txCommit, fnGet_dropHeld]
  dsimp only
  rw [hidle, if_neg (by decide), hopen]
  exact congrArg _ (if_neg (fun h => h rfl))
end

/-- A transaction that is idle for 1 s is rolled back and counted. -/
theorem execTransactionTimeout_rollsBack {T : Txn} (hopen : (fnGet s fn).txn = some T) : exec (.transactionTimeout fn) s =
    .next (bump (fnMod s fn (fun F => { F with txn := none, cfgResult := 8 })) Reg.MGT_CFG_TIMEOUTS 0) :=
  if_pos (by rw [hopen]; rfl)

/-! ### BEGIN and staging (R459, R460, R463) -/

section
variable (hup : cfgUp (dropHeld s fn) fn = true) (hidle : (fnGet s fn).cfgBusy = false)
include hup hidle

/-- BEGIN opens a transaction with the function's next token. -/
theorem execTxnBegin_opens (hnone : (fnGet s fn).txn = none) : exec (.txnBegin fn) s =
    .next (fnMod (dropHeld s fn) fn (fun F => { F with
      txn := some { token := tokenOf fn F.nextToken, touched := s.time }, nextToken := F.nextToken + 1 })) := by
  show execTxnBegin fn s = _
  rw [execTxnBegin, if_pos hup, txBegin, fnGet_dropHeld]
  dsimp only
  rw [hidle, if_neg (by decide), hnone, if_neg (by decide), dropHeld_time]

/-- While one is open it reads BUSY. -/
theorem execTxnBegin_busy {T : Txn} (hopen : (fnGet s fn).txn = some T) : exec (.txnBegin fn) s =
    .next (fnMod (dropHeld s fn) fn (fun F => { F with cfgResult := 9 })) := by
  show execTxnBegin fn s = _
  rw [execTxnBegin, if_pos hup, txBegin, fnGet_dropHeld]
  dsimp only
  rw [hidle, if_neg (by decide), hopen, Option.isSome_some, if_pos rfl]
end

/-- A token is never 0, and has 32 bits. -/
theorem tokenOf_range (n : Nat) : tokenOf fn n ≠ 0 ∧ tokenOf fn n < 2 ^ 32 := by
  have hlt := Nat.mod_lt (Config.tokenStart fn + n) (show 2 ^ 32 - 1 > 0 by decide)
  rw [tokenOf]
  constructor <;> omega

/-- A token differs from the 2^32 - 2 tokens after it. -/
theorem tokenOf_ne_later (n : Nat) {k : Nat} (hpos : 0 < k) (hlt : k < 2 ^ 32 - 1) : tokenOf fn n ≠ tokenOf fn (n + k) := by
  rw [tokenOf, tokenOf]
  omega

/-- A TX write that reaches its register is staged with its selection. -/
theorem execTxWriteStage_stages {off i : Nat} {value : W64} {row : TxRow} (hup : cfgUp (dropHeld s fn) fn = true)
    (hrow : txRow off = some row) (hmay : fn = 0 ∨ row.vf = true) (halive : blockAlive (dropHeld s fn) (off / 2 ^ 20) = true)
    (hsel : selIdx (dropHeld s fn) fn row.sel = some i) : exec (.txWriteStage fn off value) s =
      .next (stage (dropHeld s fn) fn { off := off, value := value &&& w64 row.mask, sel := i }) := by
  have hreach : (!(decide (fn = 0) || row.vf) || !true) = false := by
    rcases hmay with h | h <;> simp [h]
  show execTxWriteStage fn off value s = _
  rw [execTxWriteStage, if_pos hup, txWrite, hrow]
  dsimp only
  rw [halive, hreach, if_neg (by decide), hsel]

/-- A grant record is staged from both grant registers. -/
theorem execGrantStage_stages (value : W64) (hup : cfgUp (dropHeld s 0) 0 = true) : exec (.grantStage 0 value) s =
    .next (stage (dropHeld s 0) 0 { off := 0xFFFFFF, value := value &&& 0x1FFFFF, grantLo := reg s Reg.MGT_GRANT_LO 0 }) :=
  if_pos (by rw [hup]; rfl)

/-- With room, a staged write replaces an earlier one of the same register and selection. -/
theorem stageInto_replaces {T : Txn} {r : Staged} {total now : Nat}
    (hroom : (T.staged.filter (fun x => !decide (x.off = r.off ∧ x.sel = r.sel))).length < 4096) (hreg : isGrant r = false)
    (htotal : total - (T.staged.length - (T.staged.filter (fun x => !decide (x.off = r.off ∧ x.sel = r.sel))).length) < 65536) :
    stageInto T r total now =
      { T with staged := T.staged.filter (fun x => !decide (x.off = r.off ∧ x.sel = r.sel)) ++ [r], touched := now } := by
  rw [stageInto, hreg, if_neg Bool.false_ne_true, if_neg (by omega)]

/-! ### Validation, apply and publication (R467 to R469) -/

section
variable {c : Commit} {rest : List Commit} (hfirst : s.commits = c :: rest)
include hfirst

/-- The first commit that fails its check closes with what failed. -/
theorem execCommitValidate_fails {f : Nat × Nat × Nat} (hnew : c.validated = false)
    (hcheck : txCheck s c.fn false c.txn.overflow c.txn.staged = some f) : exec .commitValidate s =
      .next (fnMod (bump { s with commits := rest } Reg.MGT_CFG_FAILS 0) c.fn (fun F =>
        { F with cfgBusy := false, cfgResult := f.1, cfgRes := f.2.1, cfgOff := f.2.2 })) := by
  show execCommitValidate s = _
  rw [execCommitValidate, commitValidate, hfirst]
  dsimp only
  rw [hnew, if_neg (by decide), hcheck]

/-- One that passes is marked and changes no register. -/
theorem execCommitValidate_passes (hnew : c.validated = false)
    (hcheck : txCheck s c.fn false c.txn.overflow c.txn.staged = none) : exec .commitValidate s =
      .next { s with commits := { c with
        validated := true, changed := txChanged s (applyAll c.fn s c.txn.staged) c.txn.staged,
        moves := c.txn.staged.flatMap (txMoves s (applyAll c.fn s c.txn.staged)) } :: rest } := by
  show execCommitValidate s = _
  rw [execCommitValidate, commitValidate, hfirst]
  dsimp only
  rw [hnew, if_neg (by decide), hcheck]

/-- A touched block that is not the last takes its part. -/
theorem execBlockApply_part {b : Nat} (hvalid : c.validated = true) (hnew : c.applied.contains b = false)
    (htouched : (touchedBlocks c).contains b = true) (hmore : (touchedBlocks c).all (fun x => (b :: c.applied).contains x) = false) :
    exec (.blockApply b) s = .next { ((c.txn.staged.filter (fun r => blockOf r = b)).foldl (applyRec c.fn) s) with
      commits := { c with applied := b :: c.applied } :: rest } := by
  show execBlockApply b s = _
  rw [execBlockApply, blockApply, hfirst]
  dsimp only
  rw [hvalid, hnew, htouched, if_neg (by decide), hmore, if_neg (by decide)]

/-- Once every touched block has its part, the result OK is published. -/
theorem execCommitResultPublish_ok (hvalid : c.validated = true)
    (hall : (touchedBlocks c).all (fun b => c.applied.contains b) = true) (hsave : c.save = false) (hchanged : c.changed = []) :
    exec .commitResultPublish s = .next (bump (fnMod { s with commits := rest } c.fn (fun F =>
      { F with cfgBusy := false, cfgResult := 0 })) Reg.MGT_CFG_COMMITS 0) := by
  show execCommitResultPublish s = _
  rw [execCommitResultPublish, commitPublish, hfirst]
  dsimp only
  rw [hvalid, hall, if_neg (by decide), hsave, if_neg (by decide), hchanged]
  rfl
end

/-- A profile clear marks the user profile for the next boot. -/
theorem execProfileClear_marks (hhost : hostUp (dropHeld s 0) = true) : exec .profileClear s = .next (profClear (dropHeld s 0)) :=
  if_pos hhost

/-! ### The step (R476) -/

/-- A command in front runs on the state with the queue's rest. -/
theorem step_front {i : Instr} {rest : List Instr} (hfront : s.pending = i :: rest) : step s = exec i { s with pending := rest } := by
  rw [step, hfront]

/-- An idle block ticks. -/
theorem step_idle (hempty : s.pending = []) : step s = .next (tick s) := by rw [step, hempty]

/-- The tick of a state with no ready work counts a nanosecond. -/
theorem tick_counts (hready : s.atu.ready = []) : tick s = { s with time := s.time + 1 } := by rw [tick, hready]

/-- The tick runs the first ready work on. -/
theorem tick_runs {w : Waiter} {r : List Waiter} (hready : s.atu.ready = w :: r) :
    tick s = runWaiter { s with atu := { s.atu with ready := r } } w := by rw [tick, hready]
end

/-- Settles O14: each clause is the branch of COMMIT, ROLLBACK or the timeout. -/
theorem commitsCarryTheToken : Obligations.CommitsCarryTheToken := by
  refine ⟨?_, ?_, ?_, ?_⟩
  · intro fn token save T s hup hidle hopen hwrong
    exact ⟨_, _, execTxnCommit_badToken hup hidle hopen save hwrong, execTxnRollback_badToken hup hidle hopen hwrong,
      by rw [fnGet_fnMod], by rw [fnGet_fnMod], by rw [fnGet_fnMod], by rw [fnGet_fnMod], rfl, rfl, rfl, rfl⟩
  · intro fn T s hup hidle hopen
    exact ⟨_, execTxnRollback_closes hup hidle hopen, by rw [fnGet_fnMod], rfl, rfl⟩
  · intro fn T save s hup hidle hopen
    exact ⟨_, execTxnCommit_takesPlace hup hidle hopen save, by rw [fnGet_commits, fnGet_fnMod],
      by rw [fnGet_commits, fnGet_fnMod], rfl⟩
  · intro fn T s hopen
    exact ⟨_, execTransactionTimeout_rollsBack hopen, by rw [fnGet_bump, fnGet_fnMod], by rw [fnGet_bump, fnGet_fnMod],
      regN_bump _ _ _, rfl⟩

/-- Settles O15: each clause is one branch of BEGIN or of staging; the tokens are `tokenOf_range` and `tokenOf_ne_later`. -/
theorem transactionsOpenAndStage : Obligations.TransactionsOpenAndStage := by
  refine ⟨?_, ?_, fun fn n => tokenOf_range n, fun fn n k => tokenOf_ne_later n,
    fun fn off value row i T s hup hrow hmay halive hsel _ _ => execTxWriteStage_stages hup hrow hmay halive hsel,
    fun value s => execGrantStage_stages value, fun T r total now => stageInto_replaces⟩
  · intro fn s hup hidle hnone
    exact ⟨_, execTxnBegin_opens hup hidle hnone, by rw [fnGet_fnMod, fnGet_dropHeld], by rw [fnGet_fnMod, fnGet_dropHeld]⟩
  · intro fn T s hup hidle hopen
    exact ⟨_, execTxnBegin_busy hup hidle hopen, by rw [fnGet_fnMod, fnGet_dropHeld]; exact hopen, by rw [fnGet_fnMod]⟩

/-- Settles O16: each clause is one branch of validation, apply or publication. -/
theorem commitsValidateApplyPublish : Obligations.CommitsValidateApplyPublish := by
  refine ⟨?_, ?_, fun b c rest s _ _ _ _ => rfl, ?_, ?_, fun s hhost => ⟨_, execProfileClear_marks hhost, rfl⟩⟩
  · intro c rest f s hfirst hnew hcheck
    refine ⟨_, execCommitValidate_fails hfirst hnew hcheck, rfl, by rw [fnGet_fnMod], by rw [fnGet_fnMod], by rw [fnGet_fnMod],
      by rw [fnGet_fnMod], rfl, fun off idx hoff => ?_⟩
    exact reg_setReg_other s Reg.MGT_CFG_FAILS 0 _ off idx (Or.inl hoff)
  · intro c rest s hfirst hnew hcheck
    exact ⟨_, _, execCommitValidate_passes hfirst hnew hcheck, rfl, rfl, rfl, rfl, rfl⟩
  · intro b c rest s t hfirst hvalid hnew htouched hmore ht
    subst ht
    exact execBlockApply_part hfirst hvalid hnew htouched hmore
  · intro c rest s hfirst hvalid hall hsave hchanged
    exact ⟨_, execCommitResultPublish_ok hfirst hvalid hall hsave hchanged, rfl, by rw [fnGet_bump, fnGet_fnMod],
      by rw [fnGet_bump, fnGet_fnMod], regN_bump _ _ _⟩

/-- Settles O46: the step and the tick by their two branches each. -/
theorem stepRunsTheFrontCommand : Obligations.StepRunsTheFrontCommand := by
  refine ⟨fun c rest s => step_front, fun s hempty hready => ?_, fun w r s hempty hready => ?_, fun nbits w s => rfl⟩
  · rw [step_idle hempty, tick_counts hready]
  · rw [step_idle hempty, tick_runs hready]

end Sys2Proof.Proofs
end

section
/-! PROOFS. Cicada's commands and timers. O32. -/
namespace Sys2Proof.Proofs
open Sys2Proof.Machine Sys2Proof.Safety Sys2Proof.Laws

/-! ### Image slots -/

@[simp] theorem slotGet_slotMod (s : State) (i : Nat) (f : Slot → Slot) : slotGet (slotMod s i f) i = f (slotGet s i) := by
  rw [slotGet, slotMod, slotGet]
  split <;> rfl

/-- A write of the boot record leaves the image slots alone. -/
@[simp] theorem slotGet_recWrite (s : State) (f : BootRec → BootRec) (i : Nat) : slotGet (recWrite s f) i = slotGet s i := by
  cases hB : recInB s.flash with
  | true => rw [recWrite, if_pos hB, slotGet, slotGet]
  | false => rw [recWrite, if_neg (by rw [hB]; decide), slotGet, slotGet]

/-- The boot's own state is no part of a slot. -/
theorem slotGet_goesOn (s : State) (b : Boot) (i : Nat) : slotGet { s with boot := b } i = slotGet s i := rfl

/-- Nor is it a part of the boot record. -/
theorem bootRec_goesOn (s : State) (b : Boot) : bootRec { s with boot := b } = bootRec s := rfl

/-- Nor are the fuses. -/
theorem bootRec_fused (s : State) (b : Boot) (u : Fuses) : bootRec { s with fuses := u, boot := b } = bootRec s := rfl

@[simp] theorem report_fuses (s : State) (r : Report) : (report s r).fuses = s.fuses :=
  (report_keeps s r (keeps_refl _ s) (sub_refl _)).fuses (by decide)

@[simp] theorem report_boot (s : State) (r : Report) : (report s r).boot = s.boot :=
  (report_keeps s r (keeps_refl _ s) (sub_refl _)).boot (by decide)

section
variable {s : State} {path : CicPath}

/-! ### Commands on their paths (Table 19-6A) -/

/-- A command that its path allows runs and is answered. -/
theorem cicRun_allowed {kind : Nat} (m : CicMsg) (f : State → State × CicResult × List Byte) (hup : cicPathUp s path = true)
    (hallowed : pathAllows s path kind = true) (hserves : (s.boot.minimal && !s.boot.scrubbed && !s.boot.romOnly) = false)
    (hscrub : s.rsp.scrubFor = 0) : cicRun s path kind m f = cicReply (f s).1 path m (f s).2.1 (f s).2.2 := by
  rw [cicRun, hup, hallowed, hserves, hscrub, if_neg (by decide), if_neg (by decide), if_neg (by decide)]

/-- One that its path does not allow is answered REFUSED. -/
theorem cicRun_refused {kind : Nat} (m : CicMsg) (f : State → State × CicResult × List Byte) (hup : cicPathUp s path = true)
    (hrefused : pathAllows s path kind = false) : cicRun s path kind m f = cicReply s path m .refused [] := by
  rw [cicRun, hup, hrefused, if_neg (by decide), Bool.not_false, if_pos rfl]

/-! ### Timers (R449, R453, R455) -/

/-- A piece buffer without a fragment for 10 s is released. -/
theorem execPieceBufferIdle_releases {image index : Nat}
    (hthere : s.cic.buffers.any (fun b => decide (b.image = image ∧ b.index = index)) = true) :
    exec (.pieceBufferIdle image index) s = .next (bump { s with cic := { s.cic with
      buffers := s.cic.buffers.filter (fun b => !decide (b.image = image ∧ b.index = index)) } } Reg.MGT_CIC_BUSY 0) :=
  congrArg _ (if_pos hthere)

/-! ### CONFIRM and ACTIVATE (R453, R454) -/

/-- CONFIRM of a healthy trial makes its slot active and raises the fused security version. -/
theorem doConfirm_trial (htrial : s.boot.trial = true) (hopen : s.boot.healthOpen = true) (hrun : s.boot.stage = .running)
    (htest : s.boot.selftestOk = true) :
    (doConfirm s).2.1 = .ok ∧ (doConfirm s).1.fuses.svn = max s.fuses.svn (slotGet s s.boot.slot).svn ∧
    (doConfirm s).1.boot.confirmed = true ∧ (bootRec (doConfirm s).1).active = s.boot.slot ∧ (bootRec (doConfirm s).1).trial = 0 := by
  rw [doConfirm, if_pos ⟨htrial, hopen, hrun, htest⟩]
  refine ⟨rfl, by rw [report_fuses], by rw [report_boot], ?_, ?_⟩
  · rw [bootRec_congr (report_flash _ _), bootRec_fused, bootRec_recWrite]
    rfl
  · rw [bootRec_congr (report_flash _ _), bootRec_fused, bootRec_recWrite]
    rfl

/-- ACTIVATE of a STAGED slot whose parts pass commits one trial and clears FAILS. -/
theorem doActivate_staged {m : CicMsg} (hstaged : (slotGet s (inactiveSlot s)).state = 2)
    (himage : (slotGet s (inactiveSlot s)).image = m.image) (hparts : partsPass (slotGet s (inactiveSlot s)) = true) :
    (doActivate s m true).2.1 = .ok ∧ (bootRec (doActivate s m true).1).trial = 1 ∧ (bootRec (doActivate s m true).1).fails = 0 ∧
    (slotGet (doActivate s m true).1 (inactiveSlot s)).state = 3 := by
  have hgo : ¬ ((slotGet s (inactiveSlot s)).state ≠ 2 ∨ (slotGet s (inactiveSlot s)).image ≠ m.image) :=
    fun h => h.elim (fun h => h hstaged) (fun h => h himage)
  rw [doActivate, if_neg hgo, hparts, if_neg (by decide)]
  refine ⟨rfl, ?_, ?_, ?_⟩
  · rw [bootRec_goesOn, bootRec_recWrite]
    rfl
  · rw [bootRec_goesOn, bootRec_recWrite]
    rfl
  · rw [slotGet_goesOn, slotGet_recWrite, slotGet_slotMod]
end

/-- Settles O32: `cicRun_allowed` and `cicRun_refused` answer every command; ACTIVATE and CONFIRM are `doActivate_staged` and
`doConfirm_trial`. -/
theorem firmwareUpdate : Obligations.FirmwareUpdate := by
  refine ⟨fun path msg s hup hallowed hserves hscrub => congrArg _ (cicRun_allowed msg _ hup hallowed hserves hscrub),
    fun path msg ok s hup hallowed hserves hscrub => congrArg _ (cicRun_allowed msg _ hup hallowed hserves hscrub),
    fun path msg s hup hallowed hserves hscrub => congrArg _ (cicRun_allowed msg _ hup hallowed hserves hscrub),
    fun path msg ok s hup hallowed hserves hscrub => congrArg _ (cicRun_allowed msg _ hup hallowed hserves hscrub),
    fun path msg s hup hallowed hserves hscrub => congrArg _ (cicRun_allowed msg _ hup hallowed hserves hscrub),
    fun path msg s hup hrefused => congrArg _ (cicRun_refused msg _ hup hrefused),
    fun image index s => execPieceBufferIdle_releases, fun s hnow => congrArg _ (if_pos hnow), fun s hopen => congrArg _ (if_pos hopen),
    fun s => doConfirm_trial, fun m s => doActivate_staged⟩

end Sys2Proof.Proofs
end

section
/-! PROOFS. The SPDM requests before and inside a session. O33, O34. -/
namespace Sys2Proof.Proofs
open Sys2Proof.Machine Sys2Proof.Safety Sys2Proof.Laws

@[simp] theorem requester_requesterMod (s : State) (who : Nat) (f : Requester → Requester) :
    requester (requesterMod s who f) who = f (requester s who) := tget_tset_same _ _ _ _

/-- A response to a management requester goes out over MCTP. -/
theorem spdmReply_mctp {s : State} {who : Nat} {sec : Bool} {b : List Byte} (hwho : 256 ≤ who) :
    spdmReply s who sec b = emit s (.rsp who (b2n sec) 0 Status.ok (if sec then secured s who b else b)) := if_neg (by omega)

section
variable {s : State} {who : Nat} {sec : Bool} {bytes : List Byte}

/-! ### What a row of SPDM acts on (R422) -/

/-- A row runs on its request. -/
theorem onSpdm_request {code : Nat} {k : Bool} {b : List Byte} (f : Bool → List Byte → State)
    (htake : spdmTake s who sec bytes code = .request k b) : onSpdm s who sec bytes code f = .next (f k b) := by rw [onSpdm, htake]

/-- A request in the connection's phase goes on. -/
theorem atPhase_reached {k : Bool} {n : Nat} (f : State) (hphase : n ≤ (requester s who).phase) : atPhase s who k n f = f := if_pos hphase

/-- Before RMA the device's asymmetric keys can be derived. -/
theorem noKeys_eq_false (hlife : s.fuses.lifecycle ≠ 2) : noKeys s = false := decide_eq_false hlife

/-- In RMA they cannot. -/
theorem noKeys_rma (hrma : s.fuses.lifecycle = 2) : noKeys s = true := decide_eq_true hrma

section
variable {k : Bool} {b : List Byte}

/-! ### Before a session (R418, R419, R421, R422) -/

/-- GET_VERSION answers 1.3 only and begins a connection. -/
theorem execGetVersion_answers (htake : spdmTake s who sec bytes 0x84 = .request k b) : exec (.getVersion who sec bytes) s = .next
    (spdmReply (requesterMod s who (fun R => { R with phase := 1, refused := false })) who k [0x10, 0x04, 0, 0, 0, 1, 0x00, 0x13]) :=
  onSpdm_request _ htake

/-- GET_CAPABILITIES answers the flags of Table 18-3. -/
theorem execGetCapabilities_answers (htake : spdmTake s who sec bytes 0xE1 = .request k b) (hphase : 1 ≤ (requester s who).phase) :
    exec (.getCapabilities who sec bytes) s = .next (spdmReply (requesterMod (freeBytes 1 s).2 who (fun R => { R with phase := 2 })) who k
      ([0x13, 0x61, 0, 0, 0] ++ (freeBytes 1 s).1 ++ [0, 0] ++ leBytes 4 spdmFlags ++ leBytes 4 8192 ++ leBytes 4 8192)) :=
  (onSpdm_request _ htake).trans (congrArg _ (atPhase_reached _ hphase))

/-- NEGOTIATE_ALGORITHMS notes whether the requester chose exactly the set. -/
theorem execNegotiateAlgorithms_notes (htake : spdmTake s who sec bytes 0xE3 = .request k b) (hphase : 2 ≤ (requester s who).phase) :
    ∃ u answer, exec (.negotiateAlgorithms who sec bytes) s = .next u ∧ u = spdmReply (requesterMod s who (fun R =>
      { R with phase := 3, refused := !algsExact b })) who k ([0x13, 0x63, 3, 0] ++ answer) := by
  exact ⟨_, _, (onSpdm_request _ htake).trans (congrArg _ (atPhase_reached _ hphase)),
    congrArg (spdmReply _ who k) (List.append_assoc _ _ _)⟩

/-- GET_DIGESTS answers the digest of slot 0. -/
theorem execGetDigests_answers (htake : spdmTake s who sec bytes 0x81 = .request k b) (hphase : 3 ≤ (requester s who).phase) :
    exec (.getDigests who sec bytes) s = .next (spdmReply s who k ([0x13, 0x01, 1, 1] ++ sha384Bytes Config.certChain)) :=
  (onSpdm_request _ htake).trans (congrArg _ (atPhase_reached _ hphase))

/-- GET_CERTIFICATE from the start answers the first portion of the chain. -/
theorem execGetCertificate_first (htake : spdmTake s who sec bytes 0x82 = .request k b) (hphase : 3 ≤ (requester s who).phase)
    (hslot : leAt b 2 1 = 0) (hoffset : leAt b 4 2 = 0) : exec (.getCertificate who sec bytes) s = .next (spdmReply s who k
      ([0x13, 0x02, 0, 0] ++ leBytes 2 (Config.certChain.take (min (leAt b 6 2) 8000)).length ++
        leBytes 2 (Config.certChain.length - (Config.certChain.take (min (leAt b 6 2) 8000)).length) ++
        Config.certChain.take (min (leAt b 6 2) 8000))) := by
  refine (onSpdm_request _ htake).trans (congrArg _ ((atPhase_reached _ hphase).trans ?_))
  rw [hslot, hoffset, if_neg (by omega), List.drop_zero, Nat.sub_zero]

/-- CHALLENGE is answered signed. -/
theorem execSpdmChallenge_signed (htake : spdmTake s who sec bytes 0x83 = .request k b) (hphase : 3 ≤ (requester s who).phase)
    (hlife : s.fuses.lifecycle ≠ 2) (hslot : leAt b 2 1 = 0) (hentropy : s.rsp.entropyOk = true) :
    ∃ m, m = [0x13, 0x03, 0, 1] ++ sha384Bytes Config.certChain ++ (drawNonce32 s).1 ++
        (if leAt b 3 1 = 0 then [] else measureSummary s who) ++ [0, 0] ++ padTo 8 (b.drop 36) ∧
      exec (.spdmChallenge who sec bytes) s = .next (spdmReply (drawNonce32 s).2 who k (m ++ aliasSign (b ++ m))) := by
  refine ⟨_, rfl, (onSpdm_request _ htake).trans (congrArg _ ((atPhase_reached _ hphase).trans ?_))⟩
  rw [noKeys_eq_false hlife, hslot, hentropy, if_neg (by decide), if_neg (by decide), if_neg (by decide)]

/-- In RMA it fails. -/
theorem execSpdmChallenge_rma (htake : spdmTake s who sec bytes 0x83 = .request k b) (hphase : 3 ≤ (requester s who).phase)
    (hrma : s.fuses.lifecycle = 2) : exec (.spdmChallenge who sec bytes) s = .next (spdmError s who k 0x05) :=
  (onSpdm_request _ htake).trans (congrArg _ ((atPhase_reached _ hphase).trans (if_pos (noKeys_rma hrma))))

/-- GET_MEASUREMENTS for the number of blocks, unsigned. -/
theorem execGetMeasurements_count (htake : spdmTake s who sec bytes 0xE0 = .request k b) (hphase : 3 ≤ (requester s who).phase)
    (hop : leAt b 3 1 = 0) (hplain : nbit (leAt b 2 1) 0 = false) (hentropy : s.rsp.entropyOk = true) :
    exec (.getMeasurements who sec bytes) s = .next (spdmReply (drawNonce32 s).2 who k ([0x13, 0x60] ++
      leBytes 1 (measurements s who).length ++ [0] ++ leBytes 1 0 ++ leBytes 3 0 ++ (drawNonce32 s).1 ++ [0, 0] ++ padTo 8 (b.drop 4))) := by
  refine (onSpdm_request _ htake).trans (congrArg _ ((atPhase_reached _ hphase).trans ?_))
  dsimp only
  rw [hop, hplain, hentropy, if_neg (fun h => h.1 rfl), Bool.false_and, if_neg Bool.false_ne_true, if_neg (by decide)]
  simp only [if_true, Bool.false_eq_true, if_false, List.map_nil, List.flatten_nil, List.length_nil, List.append_nil]

/-- KEY_EXCHANGE of a management requester opens a session with a fresh ephemeral key. -/
theorem execKeyExchange_opens (hwho : 256 ≤ who) (htake : spdmTake s who sec bytes 0xE4 = .request k b)
    (hphase : 3 ≤ (requester s who).phase) (hlife : s.fuses.lifecycle ≠ 2) (hnone : (requester s who).session = none)
    (hslot : leAt b 3 1 = 0) (hentropy : s.rsp.entropyOk = true) :
    ∃ u x, exec (.keyExchange who sec bytes) s = .next u ∧ (requester u who).session = some x ∧ x.id = s.rsp.nextSession ∧
      x.ephemeral = some s.freeCtr ∧ x.established = false ∧ u.rsp.nextSession = s.rsp.nextSession % 65535 + 1 := by
  show ∃ u x, execKeyExchange who sec bytes s = .next u ∧ _
  rw [execKeyExchange, onSpdm_request _ htake, atPhase_reached _ hphase, noKeys_eq_false hlife, hnone, hslot, hentropy,
    if_neg (by decide), if_neg (by decide), if_neg (by decide), if_neg (by decide)]
  dsimp only
  rw [spdmReply_mctp hwho]
  exact ⟨_, _, rfl, congrArg Requester.session (requester_requesterMod _ _ _), rfl, rfl, rfl, rfl⟩

/-- In RMA it fails. -/
theorem execKeyExchange_rma (htake : spdmTake s who sec bytes 0xE4 = .request k b) (hphase : 3 ≤ (requester s who).phase)
    (hrma : s.fuses.lifecycle = 2) :
    exec (.keyExchange who sec bytes) s = .next (bump (spdmError s who k 0x05) Reg.RSP_SESS_FAIL 0) :=
  (onSpdm_request _ htake).trans (congrArg _ ((atPhase_reached _ hphase).trans (if_pos (noKeys_rma hrma))))
end
end

/-- Settles O33: each clause is its row's function on the request that `spdmTake` gives it. -/
theorem spdmOutsideSessions : Obligations.SpdmOutsideSessions := by
  refine ⟨fun who sec bytes k b s => execGetVersion_answers, fun who sec bytes k b s => execGetCapabilities_answers,
    fun who sec bytes k b s => execNegotiateAlgorithms_notes, fun who sec bytes k b s => execGetDigests_answers,
    fun who sec bytes k b s => execGetCertificate_first, fun who sec bytes k b s => execSpdmChallenge_signed,
    fun who sec bytes k b s => execGetMeasurements_count, fun who sec bytes k b s => execKeyExchange_opens,
    fun who sec bytes k b s htake hphase hrma =>
      ⟨execSpdmChallenge_rma htake hphase hrma, fun bytes' k' b' htake' => execKeyExchange_rma htake' hphase hrma⟩⟩

/-! ### Inside a session (R422, R425) -/

section
variable {s : State} {who : Nat} {x : Session}

/-- The message that a row of SPDM sees, and whether it is secured: the one in the tenant's mailbox, or the one that came over MCTP. -/
def spdmRaw (s : State) (who : Nat) (sec : Bool) (bytes : List Byte) : Option (Bool × List Byte) :=
  if who < 256 then (box s who).msg.bind (fun m =>
    if 2 ≤ m.1 ∨ (box s who).outWords ≠ [] ∨ (box s who).cmd.isSome then none else some (decide (m.1 = 1), m.2.2))
  else if who < 260 ∧ mctpUp s then some (sec, bytes) else none

/-- Over MCTP a management requester's message is what came. -/
theorem spdmRaw_mctp (sec : Bool) (bytes : List Byte) (hwho : 256 ≤ who) (hlast : who < 260) (hup : mctpUp s = true) :
    spdmRaw s who sec bytes = some (sec, bytes) := (if_neg (by omega)).trans (if_pos ⟨hlast, hup⟩)

/-- A tenant's secured message is the one in its mailbox. -/
theorem spdmRaw_box {tag : Nat} {body : List Byte} (sec : Bool) (bytes : List Byte) (hwho : who < 256)
    (hmsg : (box s who).msg = some (1, tag, body)) (hout : (box s who).outWords = []) (hcmd : (box s who).cmd = none) :
    spdmRaw s who sec bytes = some (true, body) := by
  rw [spdmRaw, if_pos hwho, hmsg, Option.bind_some, hout, hcmd, if_neg (by simp)]
  rfl

/-- A row runs on a secured message of a session as `securedRow` says. -/
theorem onSpdm_secured {sec : Bool} {bytes body : List Byte} {code : Nat} (f : Bool → List Byte → State)
    (hraw : spdmRaw s who sec bytes = some (true, body)) (hsession : (requester s who).session = some x)
    (hchosen : (requester s who).refused = false) (hcode : spdmCodes.contains code = true) :
    onSpdm s who sec bytes code f = .next (securedRow s who x body code (f true)) := by
  rw [spdmRaw] at hraw
  rw [onSpdm, spdmTake, hraw]
  dsimp only
  rw [hsession, hchosen, Bool.not_true, if_neg Bool.false_ne_true, Option.bind_some, securedRow]
  cases hopens : Config.secureOpen x.secret x.keyGen body with
  | none => rfl
  | some m =>
    dsimp only
    by_cases hm : leAt m 1 1 = code
    · rw [hm, hcode, if_pos rfl, if_neg (by decide), if_neg (fun h => h rfl), if_neg (fun h => absurd h.1 (by decide))]
    · rw [if_neg hm]
      cases hknown : spdmCodes.contains (leAt m 1 1) with
      | false => rfl
      | true => rw [if_pos rfl, Bool.not_true, if_neg Bool.false_ne_true, if_pos hm]

/-- A secured request in an open session is a sign of life. -/
theorem inSession_open (f : Session → State → State) (hsession : (requester s who).session = some x) (hopen : x.established = true) :
    inSession s who true f = f x (sessionMod s who (fun y => { y with lastBeat := s.time })) := by
  rw [inSession, openSession, hsession, Option.bind_some, if_pos hopen]
  rfl

section
variable {bytes : List Byte} (hwho : 256 ≤ who) (hlast : who < 260) (hup : mctpUp s = true)
  (hsession : (requester s who).session = some x) (hchosen : (requester s who).refused = false)
include hwho hlast hup hsession hchosen

/-- FINISH with matching verify data opens the session, and otherwise ends it. -/
theorem execSpdmFinish_row (hnew : x.established = false) : exec (.spdmFinish who true bytes) s = .next (securedRow s who x bytes 0xE5
    (fun m => if (m.drop 4).take 48 = verifyData x.secret 0xE5 then spdmReply (sessionMod s who (fun y =>
        { y with established := true, ephemeral := none, lastBeat := s.time })) who true [0x13, 0x65, 0, 0]
      else bump (requesterMod (spdmError s who true 0x06) who (fun R => { R with session := none })) Reg.RSP_SESS_FAIL 0)) := by
  refine (onSpdm_secured _ (spdmRaw_mctp true bytes hwho hlast hup) hsession hchosen (by decide)).trans ?_
  refine congrArg (fun f => Host.Outcome.next (securedRow s who x bytes 0xE5 f)) (funext fun m => ?_)
  rw [hsession]
  dsimp only
  rw [if_neg (by simp [hnew]), ite_not]

section
variable (hopen : x.established = true)
include hopen

/-- HEARTBEAT answers. -/
theorem execSpdmHeartbeat_row : exec (.spdmHeartbeat who true bytes) s = .next (securedRow s who x bytes 0xE8
    (fun _ => spdmReply (sessionMod s who (fun y => { y with lastBeat := s.time })) who true [0x13, 0x68, 0, 0])) :=
  (onSpdm_secured _ (spdmRaw_mctp true bytes hwho hlast hup) hsession hchosen (by decide)).trans
    (congrArg (fun f => Host.Outcome.next (securedRow s who x bytes 0xE8 f)) (funext fun _ => inSession_open _ hsession hopen))

/-- KEY_UPDATE moves the session's keys on, or verifies. -/
theorem execKeyUpdate_row : exec (.keyUpdate who true bytes) s = .next (securedRow s who x bytes 0xE9 (fun m =>
    if leAt m 2 1 = 0 ∨ 3 < leAt m 2 1 then spdmError (sessionMod s who (fun y => { y with lastBeat := s.time })) who true 0x01
    else spdmReply (if leAt m 2 1 = 3 then sessionMod s who (fun y => { y with lastBeat := s.time })
      else sessionMod (sessionMod s who (fun y => { y with lastBeat := s.time })) who (fun y => { y with keyGen := y.keyGen + 1 }))
      who true ([0x13, 0x69] ++ leBytes 1 (leAt m 2 1) ++ leBytes 1 (leAt m 3 1)))) :=
  (onSpdm_secured _ (spdmRaw_mctp true bytes hwho hlast hup) hsession hchosen (by decide)).trans
    (congrArg (fun f => Host.Outcome.next (securedRow s who x bytes 0xE9 f)) (funext fun _ => inSession_open _ hsession hopen))

/-- END_SESSION answers and ends the session. -/
theorem execEndSession_row : exec (.endSession who true bytes) s = .next (securedRow s who x bytes 0xEC (fun _ =>
    sessionEnd (spdmReply (sessionMod s who (fun y => { y with lastBeat := s.time })) who true [0x13, 0x6C, 0, 0]) who)) :=
  (onSpdm_secured _ (spdmRaw_mctp true bytes hwho hlast hup) hsession hchosen (by decide)).trans
    (congrArg (fun f => Host.Outcome.next (securedRow s who x bytes 0xEC f)) (funext fun _ => inSession_open _ hsession hopen))

/-- A management requester has no command of Table 18-5. -/
theorem execVendorDefinedRequest_mctp : exec (.vendorDefinedRequest who true bytes) s = .next (securedRow s who x bytes 0xFE
    (fun _ => spdmError (sessionMod s who (fun y => { y with lastBeat := s.time })) who true 0x07)) :=
  (onSpdm_secured _ (spdmRaw_mctp true bytes hwho hlast hup) hsession hchosen (by decide)).trans
    (congrArg (fun f => Host.Outcome.next (securedRow s who x bytes 0xFE f))
      (funext fun _ => (inSession_open _ hsession hopen).trans (if_pos hwho)))
end
end

/-- A VENDOR_DEFINED request of a tenant carries a command of Table 18-5. -/
theorem execVendorDefinedRequest_tenant {sec : Bool} {bytes body : List Byte} {tag : Nat} (hwho : who < 256)
    (hmsg : (box s who).msg = some (1, tag, body)) (hout : (box s who).outWords = []) (hcmd : (box s who).cmd = none)
    (hsession : (requester s who).session = some x) (hopen : x.established = true) (hchosen : (requester s who).refused = false) :
    exec (.vendorDefinedRequest who sec bytes) s = .next (securedRow s who x body 0xFE (fun m =>
      let d := ((m.drop (7 + leAt m 6 1)).drop 2).take (leAt (m.drop (7 + leAt m 6 1)) 0 2)
      if leAt d 0 4 = 0 ∨ 5 < leAt d 0 4 then
        cmdReply (sessionMod s who (fun y => { y with lastBeat := s.time })) who Status.badDescriptor []
      else boxMod (sessionMod s who (fun y => { y with lastBeat := s.time })) who (fun z => { z with cmd := some (leAt d 0 4, d.drop 4) }))) :=
  (onSpdm_secured _ (spdmRaw_box sec bytes hwho hmsg hout hcmd) hsession hchosen (by decide)).trans
    (congrArg (fun f => Host.Outcome.next (securedRow s who x body 0xFE f))
      (funext fun _ => (inSession_open _ hsession hopen).trans (if_neg (by omega))))

/-- Missed heartbeats end the session. -/
theorem execHeartbeatExpiry_ends (hsome : (requester s who).session.isSome = true) :
    exec (.heartbeatExpiry who) s = .next (bump (sessionEnd s who) Reg.RSP_SESS_FAIL 0) := if_pos hsome
end

/-- Settles O34: `onSpdm_secured` opens the message and picks the row, `inSession_open` runs it. -/
theorem spdmSessions : Obligations.SpdmSessions := by
  refine ⟨fun who bytes x s hwho hlast hup hsession hnew hchosen => execSpdmFinish_row hwho hlast hup hsession hchosen hnew,
    fun who bytes x s hwho hlast hup hsession hopen hchosen => execSpdmHeartbeat_row hwho hlast hup hsession hchosen hopen,
    fun who s => execHeartbeatExpiry_ends,
    fun who bytes x s hwho hlast hup hsession hopen hchosen => execKeyUpdate_row hwho hlast hup hsession hchosen hopen,
    fun who bytes x s hwho hlast hup hsession hopen hchosen => execEndSession_row hwho hlast hup hsession hchosen hopen,
    fun who bytes x s hwho hlast hup hsession hopen hchosen => execVendorDefinedRequest_mctp hwho hlast hup hsession hchosen hopen,
    fun who sec bytes x tag body s hwho hmsg hout hcmd hsession hopen hchosen =>
      ⟨_, execVendorDefinedRequest_tenant hwho hmsg hout hcmd hsession hopen hchosen, rfl⟩⟩

end Sys2Proof.Proofs
end

section
/-! PROOFS. The RSP's key commands, sealing and reports; its mailboxes, entropy, security links and tokens. O35, O36. -/
namespace Sys2Proof.Proofs
open Sys2Proof.Machine Sys2Proof.Safety Sys2Proof.Laws

section
variable {s : State} {fn : Nat}

/-! ### Key commands (R425) -/

/-- KEY_LOAD of a 32-byte key loads a free slot and answers its number. -/
theorem execKeyLoad_loads {p : List Byte} {k : Nat} {s1 : State} (hcmd : cmdOf s fn 0x01 = some p) (hfree : barred s fn = false)
    (hlen : p.length = 32) (hload : loadKey s fn p = .ok (s1, k)) :
    exec (.keyLoad fn) s = .next (cmdReply s1 fn Status.ok (leBytes 4 k)) := by
  show execKeyLoad fn s = _
  rw [execKeyLoad, hcmd]
  dsimp only
  rw [hfree, if_neg (by decide), if_neg (fun h => h hlen), hload]

/-- KEY_GEN draws the key and answers the slot with it. -/
theorem execKeyGen_loads {p : List Byte} {k : Nat} {s1 : State} (hcmd : cmdOf s fn 0x02 = some p) (hfree : barred s fn = false)
    (hentropy : s.rsp.entropyOk = true) (hload : loadKey (drawN 4 s).2 fn (wordsToBytes (drawN 4 s).1) = .ok (s1, k)) :
    exec (.keyGen fn) s = .next (cmdReply s1 fn Status.ok (leBytes 4 k ++ wordsToBytes (drawN 4 s).1)) := by
  show execKeyGen fn s = _
  rw [execKeyGen, hcmd]
  dsimp only
  rw [hfree, hentropy, if_neg (by decide), if_neg (by decide), hload]

/-- KEY_DESTROY takes a LOADED slot of the tenant out of use. -/
theorem execKeyDestroy_leaves {p : List Byte} (hcmd : cmdOf s fn 0x03 = some p) (hfree : barred s fn = false) (hslot : leAt p 0 4 < 1024)
    (hown : (keySlot s (leAt p 0 4)).owner = fn) (hloaded : (keySlot s (leAt p 0 4)).st = 1) :
    exec (.keyDestroy fn) s = .next (cmdReply (slotLeaves s (leAt p 0 4)) fn Status.ok []) := by
  show execKeyDestroy fn s = _
  rw [execKeyDestroy, hcmd]
  dsimp only
  rw [hfree, if_neg (by simp [hslot, hown, hloaded])]

/-! ### Sealed bounce mode (R426, R427) -/

/-- SEAL_ENABLE puts an open tenant into sealed mode with two fresh pairs. -/
theorem execSealEnable_seals {p b0 b1 : List Byte} {p0 p1 : SealPair} {s1 s2 : State} (hcmd : cmdOf s fn 0x04 = some p)
    (hplain : inReport s fn = false) (hactive : (tenant s fn).st = 1) (hopen : (tenant s fn).mode = 0)
    (hfirst : (tenant s fn).everSealed = false) (hdebug : s.rsp.debug = 0) (hranges : rangesOk p = true)
    (hctxs : s.atu.ctxs.any (fun C => decide (ctxOwner s C.1 = fn) && C.2.valid && decide (fld C.2.root 1 0 = 1)) = false)
    (hmode : ctxMode s fn ≠ 1) (hentropy : s.rsp.entropyOk = true) (hpair0 : loadPair s fn = .ok (s1, p0, b0))
    (hpair1 : loadPair s1 fn = .ok (s2, p1, b1)) :
    exec (.sealEnable fn) s = .next (cmdReply (extend (tenantMod s2 fn (fun T => { T with
      mode := 1, everSealed := true, bound := (requester s fn).session.map (·.id), ranges := bounceRanges 16 p, keysel := 0,
      seal0 := p0, seal1 := p1, sealSeq := 0 })) fn [1]) fn Status.ok (b0 ++ b1)) := by
  show execSealEnable fn s = _
  rw [execSealEnable, hcmd]
  dsimp only
  rw [if_neg (by simp [hplain, hactive, hopen, hfirst, hdebug, hranges]), hctxs, if_neg (by simp [hmode]), hentropy, if_neg (by decide),
    hpair0]
  dsimp only
  rw [hpair1]

/-- SEAL_REKEY moves device sealing to a fresh pair. -/
theorem execSealRekey_moves {p b0 : List Byte} {p0 : SealPair} {s1 : State} (hcmd : cmdOf s fn 0x05 = some p)
    (hplain : inReport s fn = false) (hsealed : (tenant s fn).mode = 1) (hfree : barred s fn = false) (hentropy : s.rsp.entropyOk = true)
    (hkeysel : (tenant s fn).keysel = 0) (hunused : (tenant s fn).seal1.valid = false) (hpair : loadPair s fn = .ok (s1, p0, b0)) :
    exec (.sealRekey fn) s = .next (cmdReply (extend (tenantMod s1 fn (fun T => { T with seal1 := p0, keysel := 1 })) fn [3, 1]) fn
      Status.ok (leBytes 4 1 ++ b0)) := by
  have hold : (sealPair (tenant s fn) 1).valid = false := hunused
  show execSealRekey fn s = _
  rw [execSealRekey, hcmd]
  dsimp only
  rw [if_neg (by simp [hplain, hsealed]), hfree, if_neg (by decide), hentropy, if_neg (by decide), hkeysel, if_pos rfl, hold,
    if_neg (by decide), hpair]
  rfl

/-! ### Report mode (R428) -/

/-- A report request derives the report key and is answered a signed report. -/
theorem execReportRequest_reports {tag : Nat} {bs : List Byte} (hmsg : (box s fn).msg = some (2, tag, bs))
    (hout : (box s fn).outWords = []) (hcmd : (box s fn).cmd = none) (hlen : bs.length = 128) (hactive : (tenant s fn).st = 1)
    (hopen : (tenant s fn).mode = 0) (hdebug : s.rsp.debug = 0) (hlife : s.fuses.lifecycle ≠ 2) (hentropy : s.rsp.entropyOk = true) :
    exec (.reportRequest fn) s = .next (rspReply (extend (tenantMod (draw s).2 fn (fun T => { T with
      mode := 2, reportKey := hkdf384 (bs.take 32) (Config.ecdhShared s.freeCtr (bs.drop 32)) reportInfo 32, reportCtr := 0 })) fn [2])
      fn 2 tag Status.ok (reportBody s fn s.freeCtr (bs.take 32) ++ aliasSign (reportBody s fn s.freeCtr (bs.take 32)))) := by
  show execReportRequest fn s = _
  rw [execReportRequest, hmsg]
  dsimp only
  rw [if_neg (by simp [hout, hcmd, hopen]), if_neg (by simp [hlen, hactive, hopen, hdebug, noKeys_eq_false hlife]), hentropy,
    if_neg (by decide)]

/-! ### Mailboxes (R423, R424) -/

/-- A doorbell of a free mailbox collects the message. -/
theorem execMailboxDoorbell_collects (hhost : hostUp (dropHeld s fn) = true) (hfn : fnExists (dropHeld s fn) fn = true)
    (hidle : (box s fn).busy = false) (hactive : tenantActive s fn = true) :
    exec (.mailboxDoorbell fn) s = .next (rspCollect (boxMod (dropHeld s fn) fn (fun b => { b with busy := true })) fn) := by
  have hbox : (box (dropHeld s fn) fn).busy = false := hidle
  have htenant : tenantActive (dropHeld s fn) fn = true := hactive
  show execMailboxDoorbell fn s = _
  rw [execMailboxDoorbell, hhost, hfn, hbox, htenant, if_neg (by decide)]

/-- A message of which nothing has come in time is answered BAD_DESCRIPTOR. -/
theorem execMailboxTimeout_empty (hbusy : (box s fn).busy = true) (hnone : (box s fn).msg = none) (hout : (box s fn).outWords = [])
    (hwords : (sqmQ s (rspIn fn)).words = []) : exec (.mailboxTimeout fn) s =
      .next (rspReply (sqmSkip s (rspIn fn) 0) fn (fld 0 19 16) (fld 0 31 24) Status.badDescriptor []) := by
  show execMailboxTimeout fn s = _
  rw [execMailboxTimeout, hbusy, hnone, hout, if_neg (by decide), hwords]
  rfl

/-! ### Entropy (R417) -/

/-- The entropy source fails. -/
theorem execEntropyHealthFail_fails (hok : s.rsp.entropyOk = true) :
    exec (.entropyHealthFail false) s = .next (bump { s with rsp := { s.rsp with entropyOk := false } } Reg.RSP_DRBG_WAIT 0) := by
  show execEntropyHealthFail false s = _
  rw [execEntropyHealthFail, if_neg Bool.false_ne_true, if_pos hok]

/-- A wait of more than a second writes a fatal record. -/
theorem execDrbgWaitTimeout_fatal (hfailed : s.rsp.entropyOk = false) : exec .drbgWaitTimeout s =
    .next (report { s with rsp := { s.rsp with drbgOk := false } } { cls := 0x07, sev := 3, unit := 13, code := 3 }) :=
  if_neg (by rw [hfailed]; decide)

/-! ### Tokens (R432 to R434) -/

section
variable (token : Token) (hentropy : s.rsp.entropyOk = true) (helected : s.boot.firstClaim ≠ none) (hscrub : s.rsp.scrubFor = 0)
include hentropy helected hscrub

/-- A valid debug token starts the destroy-then-scrub; every token redraws the nonce. -/
theorem execDebugToken_cases (hclosed : s.rsp.debug = 0) : exec (.debugToken token) s = .next (if tokenOk s 0 token then tearAll
    { (drawNonce s) with rsp := { (drawNonce s).rsp with debug := 1, debugSeen := max 1 (drawNonce s).rsp.debugSeen } } 1
    else drawNonce s) := by
  show execDebugToken token s = _
  rw [execDebugToken, hentropy, decide_eq_false helected, if_neg (by decide), hclosed, hscrub]
  cases tokenOk s 0 token with
  | true => rw [if_pos ⟨rfl, rfl, rfl⟩, if_pos rfl]
  | false => rw [if_neg (fun h => absurd h.1 (by decide)), if_neg (by decide)]

/-- So does a valid RMA token. -/
theorem execRmaToken_cases : exec (.rmaToken token) s =
    .next (if tokenOk s 1 token then tearAll (drawNonce s) 2 else drawNonce s) := by
  show execRmaToken token s = _
  rw [execRmaToken, hentropy, decide_eq_false helected, if_neg (by decide), hscrub]
  cases tokenOk s 1 token with
  | true => rw [if_pos ⟨rfl, rfl⟩, if_pos rfl]
  | false => rw [if_neg (fun h => absurd h.1 (by decide)), if_neg (by decide)]
end
end

/-- Settles O35: each clause is one branch of the RSP's commands. -/
theorem keysSealingAndReports : Obligations.KeysSealingAndReports := by
  refine ⟨fun fn p k s s1 => execKeyLoad_loads, fun fn k p s s1 => execKeyGen_loads, fun fn p s => execKeyDestroy_leaves,
    fun fn p p0 b0 p1 b1 s s1 s2 => execSealEnable_seals, fun fn p0 b0 p s s1 => execSealRekey_moves, ?_⟩
  intro fn tag bs r s hmsg hout hcmd hlen hactive hopen hdebug hlife hentropy hr
  subst hr
  exact execReportRequest_reports hmsg hout hcmd hlen hactive hopen hdebug hlife hentropy

/-! ### The security links (R416) -/

/-- Nothing that a connection has under way stands in the cipher streams: its end leaves them alone. -/
theorem streams_dropSends (s : State) (c : Nat) : (dropSends s c).cph.streams = s.cph.streams := by
  have hfold : ∀ (ms : List SendMsg) (u : State), (ms.foldl (fun s m => leaveRegion (endSend s c m) m) u).cph = u.cph := fun ms u =>
    (keeps_foldl (m := 0x204060000) (keeps_refl _ u) fun _ m h =>
      leaveRegion_keeps _ m (endSend_keeps _ c m h (by decide)) (by decide)).cph (by decide)
  rw [dropSends]
  rw [hfold]
  rfl

theorem streams_failSends (s : State) (c status : Nat) : (failSends s c status).cph.streams = s.cph.streams := by
  have hfold : ∀ (ms : List SendMsg) (u : State), (ms.foldl (fun s m => issuerDone s m.by_ status 0) u).cph = u.cph := fun ms u =>
    (keeps_foldl (m := 0x200060000) (keeps_refl _ u) fun _ m h => issuerDone_keeps _ m.by_ status 0 h (sub_refl _)).cph (by decide)
  rw [failSends, hfold, streams_dropSends]

theorem streams_failRecvs (s : State) (c status : Nat) : (failRecvs s c status).cph.streams = s.cph.streams := by
  have hfold : ∀ (ms : List RecvMsg) (u : State), (ms.foldl (fun s m => abandonRecv s c status m) u).cph = u.cph := fun ms u =>
    (keeps_foldl (m := 0x2040e0000) (keeps_refl _ u) fun _ m h => abandonRecv_keeps _ c status m h (sub_refl _)).cph (by decide)
  rw [failRecvs]
  dsimp only
  rw [hfold]
  rfl

/-- A connection that enters ERROR leaves them alone. -/
theorem streams_connError (s : State) (c status : Nat) : (connError s c status).cph.streams = s.cph.streams := by
  have hreclaim : ∀ u : State, (reclaimAll u c).cph = u.cph := fun u => (reclaimAll_keeps u c (keeps_refl _ u) (sub_refl _)).cph (by decide)
  have hunposted : ∀ u : State, (unpostedEnd u c status).cph = u.cph := fun u =>
    (unpostedEnd_keeps u c status (keeps_refl _ u) (sub_refl _)).cph (by decide)
  have hbound : ∀ u : State, (boundQueuesError u c status).cph = u.cph := fun u =>
    (boundQueuesError_keeps u c status (keeps_refl _ u) (sub_refl _)).cph (by decide)
  rw [connError]
  split
  · rfl
  · dsimp only
    split
    · rw [hunposted, hreclaim, streams_failRecvs, streams_failSends]
      rfl
    · rw [hbound, hunposted, hreclaim, streams_failRecvs, streams_failSends]
      rfl

/-- So does an enciphered connection that stops. -/
theorem streams_encFails (s : State) (c : Nat) : (encFails s c).cph.streams = s.cph.streams := by
  rw [encFails, (qpEvent_keeps _ c _ (keeps_refl _ _) (sub_refl _)).cph (by decide), streams_connError]

/-- A state without cipher streams that has the bytes of another. -/
def StreamFree (s u : State) : Prop := u.cph.streams = [] ∧ u.mem.bytes = s.mem.bytes

/-- While no stream runs, a slot that leaves LOADED writes no byte. -/
theorem slotLeaves_streamFree {s u : State} (k : Nat) (hfree : StreamFree s u) : StreamFree s (slotLeaves u k) := by
  rw [slotLeaves, hfree.1, List.filter_nil, List.foldl_nil]
  refine List.foldlRecOn _ _ hfree fun v hv e _ => ?_
  split
  · exact ⟨(streams_encFails v e.1).trans hv.1, ((encFails_keeps v e.1 (keeps_refl _ v) (sub_refl _)).bytes (by decide)).trans hv.2⟩
  · exact hv

/-- What a lost link destroys: the key sets of the quadrant's controllers and its copies of the cipher slots. -/
def keysDestroyed (s : State) (quad : Nat) : State :=
  let s1 := s.mem.keySets.foldl (fun s K => keySetPut s K.1 (K.2 &&& ~~~ (BitVec.ofNat 4 (2 ^ quad)))) s
  (s1.cph.slots.filter (fun K => decide (K.2.st = 1))).foldl (fun s K => slotLeaves s K.1) s1

/-- That leaves the RSP's own state alone. -/
theorem rsp_keysDestroyed (s : State) (quad : Nat) : (keysDestroyed s quad).rsp = s.rsp :=
  (keeps_foldl (m := 0x10c06260fe204)
    (keeps_foldl (keeps_refl _ s) fun _ _ h => keySetPut_keeps _ _ _ h (by decide))
    fun _ _ h => slotLeaves_keeps _ _ h (by decide)).rsp (by decide)

/-- While no stream runs it writes no byte. -/
theorem keysDestroyed_streamFree {s : State} (quad : Nat) (hnone : s.cph.streams = []) : StreamFree s (keysDestroyed s quad) :=
  List.foldlRecOn _ _ (List.foldlRecOn _ _ (show StreamFree s s from ⟨hnone, rfl⟩) fun _ hv _ _ => hv)
    fun _ hv _ _ => slotLeaves_streamFree _ hv

/-- A link that is lost marks its quadrant. -/
theorem execSecurityLinkLoss_marks {s : State} {quad : Nat} (hquad : quad < 4) (hnew : s.rsp.linkLost.getLsbD quad = false) :
    exec (.securityLinkLoss quad) s = .next (report { (keysDestroyed s quad) with rsp := { (keysDestroyed s quad).rsp with
      linkLost := (keysDestroyed s quad).rsp.linkLost ||| BitVec.ofNat 4 (2 ^ quad) } }
      { cls := 0x07, sev := 3, unit := 13, code := 2, inst := quad }) :=
  if_neg (by rw [hnew]; simp; omega)

/-- Settles O36: each clause is one branch of a command; a lost link is `rsp_keysDestroyed` and `keysDestroyed_streamFree`. -/
theorem mailboxesEntropyAndTokens : Obligations.MailboxesEntropyAndTokens := by
  refine ⟨fun fn s => execMailboxDoorbell_collects, fun fn s => execMailboxTimeout_empty, fun fn s hout => if_neg hout,
    fun s hok => if_pos hok, fun s => execEntropyHealthFail_fails, fun s => rfl, fun s => execDrbgWaitTimeout_fatal, ?_,
    fun token s hentropy helected hclosed hscrub => execDebugToken_cases token hentropy helected hscrub hclosed,
    fun token s => execRmaToken_cases token⟩
  intro quad s hquad hnew
  refine ⟨_, execSecurityLinkLoss_marks hquad hnew, ?_, fun a => ?_⟩
  · rw [(report_keeps _ _ (keeps_refl _ _) (sub_refl _)).rsp (by decide), rsp_keysDestroyed]
  · by_cases hnone : s.cph.streams = []
    · refine Or.inl ?_
      rw [memByte, (report_keeps _ _ (keeps_refl _ _) (sub_refl _)).bytes (by decide)]
      exact congrArg (fun b => tget zeroByte b a) (keysDestroyed_streamFree quad hnone).2
    · exact Or.inr hnone

end Sys2Proof.Proofs
end
